-- ==== Sys2Proof/Word.lean ====
section
/-!
DEFINITION. The word types: what the spec treats as bits.
-/

namespace Sys2Proof

/-- One register (R427 to R429). -/
abbrev Word := BitVec 32

/-- One byte of a message, a buffer or an overhead field. -/
abbrev Byte := BitVec 8

end Sys2Proof
end

