-- ==== Sys2Proof/Syntax.lean ====
section
/-!
DEFINITION. The commands the block takes: one constructor per row of spec/opcode_table.json, with its operands.
What the physical world supplies at an event (a measured figure, a received octet, a found bit flip) is an operand
of the event's command (log entry 3).
-/

namespace Sys2Proof

/-- R8: the optical lane, 0 to 7. -/
abbrev Lane := Fin 8

/-- R52: the ADC side or the DAC side of a lane's converters. -/
inductive Side where
  | adc | dac
deriving DecidableEq, Repr

/-- R30: the source of a Course, of a Level hold or of a request: the PCIe host or one COP session by its number. -/
inductive Source where
  | pcie
  | cop (session : Nat)
deriving DecidableEq, Repr

/-- R13: the clock islands a Level freezes (all but CST). -/
inductive Island where
  | lrx (n : Lane) | ltx (n : Lane) | cla | clb | core | ciph | mgt | plu | ksc | hkm
deriving DecidableEq, Repr

/-- A TIME80 value: TB seconds and nanoseconds. -/
structure Time80 where
  sec : Nat
  ns : Nat
deriving DecidableEq, Repr

/-- R29: what a staged write names: a register over PCIe with the word written, or an object over COP with its value. -/
inductive StageTarget where
  | reg (addr : Nat) (v : Word)
  | obj (index sub : Nat) (value : List Byte)
deriving DecidableEq, Repr

/-- R97: the metrics RXD measures every 100 µs, in the units of their registers, and the equaliser delay in fs. -/
structure Metrics where
  cd : Int
  osnr : Nat
  snr : Nat
  dgd : Nat
  sop : Nat
  eqDelay : Int
deriving DecidableEq, Repr

/-- R273: what a received PTP message brings, as the PTP stack finds it: an offset from the master in ps that completes
a Sync exchange, a Delay_Req with the port identity and the sequence number of its sender, a mean path delay in ps, or an Announce with the
outcome of the BMCA (port state, clock class, parent port identity, steps removed, and the UTC offsets and change time it
carries). -/
inductive PtpBody where
  | sync (ofs : Int)
  | delayReq (from_ : List Byte) (seq : BitVec 16)
  | delayResp (path : Int)
  | announce (state cls : Nat) (parent : List Byte) (steps : Nat) (utc : Option (Int × Int × Nat))
  | management
deriving DecidableEq, Repr

/-- R273, R274: a received PTP message: its domain and what it brings. -/
structure PtpRx where
  domain : Nat
  body : PtpBody
deriving DecidableEq, Repr

/-- R273: the PTP messages that fall due. -/
inductive PtpTx where
  | sync | delayReq | announce
deriving DecidableEq, Repr

/-- R228: a job of the message engine beyond its operation: priority, FINAL, context, LEN, AAD_LEN, SRC, DST, and the
data that a COP request places at SRC (R234). -/
structure JobDesc where
  prio : Fin 8
  final : Bool
  ctx : BitVec 16
  len : Nat
  aad : BitVec 16
  src : Nat
  dst : Nat
  data : List Byte
deriving DecidableEq, Repr

/-- R196: the source of a flow: a port, or a client of a FlexE group. -/
inductive ClientSrc where
  | port (p : Fin 64)
  | flexe (k : Fin 8) (c : Fin 32)
deriving DecidableEq, Repr

/-- R197, R200: what the PCS or the FlexO framing decodes: a MAC frame from destination address to FCS, `err` when the
PCS ends it with an error control block; OTUCn words with the FlexO frames and BIP-8 violations they came with and the
fraction of a word held over; or corrected and uncorrectable RS codewords. -/
inductive ClientRx where
  | frame (bytes : List Byte) (err : Bool)
  | otuc (words : List (BitVec 128)) (frames bip : Nat) (res : BitVec 8)
  | rs (corr uncorr : Nat)
deriving DecidableEq, Repr

/-- R334, R340: one conversion as the analogue side gives it: the code before correction, whether the input lies above or below
its comparators, and what a `TEMP` input's sensor reads before correction in 0.01 °C. -/
structure HkmSample where
  code : BitVec 16
  outside : Option Bool
  temp : Int
deriving DecidableEq, Repr

/-- R297: where a Keystone detection lies: in a bin, as the detector finds it; or the powers of the bins of its six windows. -/
inductive KsPeak where
  | at_ (bin : Nat)
  | windows (powers : List (List Nat))
deriving DecidableEq, Repr

/-- R291: the bytes of a Keystone block as decoded; or, for the device to decode, the noise power measured over the preamble and
per data symbol of the block, from the one that holds its first bit on, the powers of the bins of the dechirped spectrum,
counted from the preamble bin. -/
inductive KsBlock where
  | bytes (bs : List Byte)
  | spectra (noise : Nat) (powers : List (List Nat))
deriving DecidableEq, Repr

/-- R167: a frame of the 400ZR or 800ZR agreement at its delivery: whether its multiframe is aligned, its backward defect
indication, and the client frames that the agreement's demapping yields, each with whether it is good. -/
structure ZrFrame where
  aligned : Bool
  bdi : Bool
  frames : List (List Byte × Bool)
deriving DecidableEq, Repr

/-- R155: a line frame at its delivery: `mgt` is how many of its management bytes MGT can take (R163).  Where the FEC decodes
LFs from codewords it holds the rest; else (log entry 68) whether inner codeword 0 converged, the 160 overhead bytes and the payload
words as decoded (still scrambled) stand here.  In the ZR families `cw0` says that the frame is not flagged. -/
structure LfIn where
  cw0 : Bool
  mgt : Nat
  overhead : List Byte
  payload : List (BitVec 128)
  zr : ZrFrame
deriving DecidableEq, Repr

/-- R384: who reads an on-die array: the host over PCIe or COP, the function that owns the array, or a Lodge core. -/
inductive MemReader where
  | host (by_ : Source)
  | owner
  | lodge (core : Fin 8)
deriving DecidableEq, Repr

/-- R314: what reaches Cornerstone: the oldest delivered LF on its way, what a port sent in its microsecond, or when the
first data byte of a timed LF's group left a port's lands, in ns after the LF's marker arrival. -/
inductive CstTap where
  | lf
  | port (p : Fin 64)
  | egress (p : Fin 64) (ns : Nat)
deriving DecidableEq, Repr

/-- R395, R396: a COP message as it arrives: the path (0 MGT0, 1 MGT1, 2 in-band channel, 3 Keystone tunnel), its lane,
and the bytes of the message. -/
structure CopRx where
  path : Fin 4
  lane : Fin 8
  bytes : List Byte
deriving DecidableEq, Repr


/-- The commands: one constructor per row of spec/opcode_table.json. -/
inductive Instr where
  /-- R16. A TB0 time that is an integer multiple of the programmed period is reached and a Level with cause
  PERIODIC is produced. -/
  | levelPeriodic
  /-- R17. A 15-minute boundary of TB0 seconds minus the UTC offset is reached and a Level with cause Q15 is
  produced. -/
  | levelQ15
  /-- R17. A 24-hour boundary of TB0 seconds minus the UTC offset is reached and a Level with cause D24 is
  produced. -/
  | levelD24
  /-- R16. A scheduled Level time held in a slot is reached, a Level with cause SCHEDULED is produced and the
  slot empties. -/
  | levelScheduled (slot : Fin 16)
  /-- R27. The host requests an immediate Level through GLB_LVL_CTRL.NOW or 0x6F00:05; the request is produced
  at the next PLU cycle or refused with RES_BUSY. -/
  | levelHost (by_ : Source)
  /-- R20. Three island cycles after a Level strobe the counter freeze ends and held events are added to the
  live counters. -/
  | levelFreezeEnd (isl : Island)
  /-- R27. A shadow bank becomes free and the oldest Level waiting in the capture stages starts its copy into
  it. -/
  | levelCopyStart
  /-- R24. The copy of a Level into its bank completes and that bank becomes the latest complete Level. -/
  | levelCopyComplete
  /-- R407. A scheduled Level time is written to a 0x6F10 slot or GLB_LVL_SCH word 2, or refused with
  LEVEL_LATE. -/
  | levelScheduleWrite (by_ : Source) (slot : Fin 16) (t : Time80)
  /-- R406. A holder requests a hold of the latest complete bank, which is taken, moved, or refused with
  RES_BUSY or LEVEL_GONE. -/
  | levelHold (by_ : Source)
  /-- R26. The holder releases its Level bank hold through 0x6F01:03 or GLB_LVL_CTRL.RELEASE. -/
  | levelRelease (by_ : Source)
  /-- R436. A PCIe read of a Level-data register is served from the selected bank and updates GLB_LVL_LAST,
  LAST_VALID and MIX. A read of `size` bytes at an address. -/
  | levelDataRead (addr size : Nat)
  /-- R437. A write of 1 to GLB_LVL_STAT.MIX clears MIX and LAST_VALID. -/
  | levelMixClear
  /-- R29. A staged register write or COURSE_STAGE entry opens or joins the pending Course, or is refused with
  COURSE_OWNED, COURSE_FULL or COURSE_BUSY. -/
  | courseStage (by_ : Source) (target : StageTarget)
  /-- R33. The owner commits the pending Course with a mode, number and time; it is refused at once or
  validation starts. -/
  | courseCommit (by_ : Source) (mode : Nat) (number : Nat) (t : Time80)
  /-- R34. Validation of a committed Course ends, arming it or returning it to pending with one failure code and
  the failing write. -/
  | courseValidationEnd
  /-- R29. The owner discards the pending Course, or the discard is refused with COURSE_NONE, COURSE_OWNED or
  COURSE_BUSY. -/
  | courseDiscard (by_ : Source)
  /-- R36. An abort of the armed AT_TIME Course discards it, or is refused with COURSE_LOCKED_IN, COURSE_OWNED
  or COURSE_NONE. -/
  | courseAbort (by_ : Source)
  /-- R36. TB0 reaches T minus 100 µs of the armed Course and the abort window closes. -/
  | courseAbortWindowClose
  /-- R39. The Course strobe for T (or T_I) acts and every item that belongs to no lane applies in that PLU
  cycle. -/
  | courseStrobe
  /-- R38. No announcement is seen by T + 10 ms, so receive items apply at the next received LF boundary and
  COURSE_FAR_MISMATCH is raised. -/
  | courseRxTimeout (n : Lane)
  /-- R38. The received Course number in force has differed from the local one for more than 10 ms and
  COURSE_FAR_MISMATCH is raised. -/
  | courseFarMismatch (n : Lane)
  /-- R39. A client item or client-flow key epoch applies at the first client block boundary or packet at or
  after T. The operand is the port (0 to 63) or 64 plus the flow whose boundary is reached. -/
  | courseClientApply (item : Nat)
  /-- R52. A write of CONV_CTRL.ADC_EN moves the ADC side towards SETTLING or to OFF. -/
  | convAdcEnWrite (n : Lane) (v : Bool)
  /-- R52. A write of CONV_CTRL.DAC_EN moves the DAC side towards SETTLING or to OFF. -/
  | convDacEnWrite (n : Lane) (v : Bool)
  /-- R53. A write of CONV_CTRL.DAC_MUTE mutes or unmutes all four DAC channels from the next group boundary. -/
  | convDacMuteWrite (n : Lane) (v : Bool)
  /-- R52. The synthesiser locks and the front-end bias settles, so a converter side enters RUNNING. The operand
  delay is the measured delay in ps (R51). -/
  | convSettled (n : Lane) (side : Side) (delay : Nat)
  /-- R52. The synthesiser phase error exceeds 0.7 ps for more than 64 groups and the side enters UNLOCKED. -/
  | convUnlock (n : Lane) (side : Side)
  /-- R50. The sampling reference path fails, REF_LOSS is set and running sides go to UNLOCKED. -/
  | samplingRefLoss (die : Fin 4)
  /-- R52. The sampling reference returns and the synthesiser regains lock, moving the side from UNLOCKED to
  SETTLING. -/
  | samplingRefReturn (die : Fin 4)
  /-- R46. A group of 256 samples per ADC channel is delivered to LRXn with its OVR and VLD flags. The operands
  are, per channel, the samples of the group that are over-range, each by its place and whether it is positive, and
  the 256 codes. -/
  | adcGroup (n : Lane) (outside : List (List (Nat × Bool))) (codes : List (List Byte))
  /-- R53. At an LTXn group boundary a pending mute or DAC state change takes effect on all four DAC channels.
  The operands are the time in fs from the start of the LF in progress to sample 0 of the group, and by how many
  hundredths of a dB the Keystone level is off its nominal one (R113: within ±0.5 dB). -/
  | dacGroup (n : Lane) (at_ : Nat) (ks : Int)
  /-- R62. The host writes CONV_SPAREk.RETIRE to retire or release a position, which starts, waits or is
  refused. -/
  | spareRetireWrite (n : Lane) (k : Fin 16) (pos : BitVec 7)
  /-- R60. After 16 parallel groups, at the next group boundary the spare supplies the position and the slice is
  disconnected. -/
  | spareTakeoverSwitch (n : Lane) (k : Fin 16)
  /-- R60. After 16 parallel groups of a release the position takes its samples back and the spare returns to
  idle. -/
  | spareReleaseSwitch (n : Lane) (k : Fin 16)
  /-- R65. A write of CONV_CAP_CTRL.ARM arms a capture, or sets CFG_ERR for TRIG OVR with SRC DAC. The operand
  is the word written to CONV_CAP_CTRL. -/
  | captureArm (n : Lane) (cfg : Word)
  /-- R64. A write of FIRE triggers an armed HOST capture. -/
  | captureFire (n : Lane)
  /-- R65. The capture memory fills, the buffers exchange in one cycle and DONE is set. -/
  | captureComplete (n : Lane)
  /-- R89. A write of RXD_CTRL.EN enables RXD into NO_SIGNAL or disables it to DISABLED. -/
  | rxdEnWrite (n : Lane) (v : Bool)
  /-- R91. A write of 1 to ACQ_RESTART enters FREQ_SEARCH with the LO correction held. -/
  | rxdAcqRestart (n : Lane)
  /-- R91. A write of LO_MODE changes LO ownership at once or at the next entry to FREQ_SEARCH. -/
  | rxdLoModeWrite (n : Lane) (v : BitVec 2)
  /-- R91. A write of KS_ASSIST takes effect at once or at the next entry to FREQ_SEARCH. -/
  | rxdKsAssistWrite (n : Lane) (v : Bool)
  /-- R94. A write of FMT_SRC selects the configured or followed receive format, at once or at the next
  FREQ_SEARCH. -/
  | rxdFmtSrcWrite (n : Lane) (v : Bool)
  /-- R88. A 1,024-group power window ends and the consecutive-window counts for LOS assertion and clearing
  advance. The operand is the mean code power of the window as an RMS code, LSB 1/256 (R88). -/
  | losWindowEnd (n : Lane) (power : Nat)
  /-- R80. A spectral-centroid FO estimate completes every 3.0 ms in FREQ_SEARCH and may end the coarse step
  with a DELTA. The operand is the estimate in kHz. -/
  | spectralEstimate (n : Lane) (fo : Int)
  /-- R80. A fine FO estimate completes every 0.5 ms and may end FREQ_SEARCH by the exit test of R89. The
  operand is the estimate in kHz. -/
  | fineEstimate (n : Lane) (fo : Int)
  /-- R93. KS_WAIT elapses without a Keystone packet and RXD proceeds unassisted with its spectral estimate. -/
  | ksWaitExpiry (n : Lane)
  /-- R73. A 0.4 ms CD scan dwell ends and the scan moves to the next step or to refinement. The operands are
  the detection metric of the step and whether it lies above the detection threshold. -/
  | cdScanStep (n : Lane) (metric : Nat) (above : Bool)
  /-- R73. The 1.0 ms CD refinement gives the estimate and RXD enters TIMING, or a failed scan widens or counts
  a failure. The operand is the refined estimate in ps/nm. -/
  | cdRefineDone (n : Lane) (cd : Int)
  /-- R89. Clock recovery locks and RXD enters POL_CONVERGE. -/
  | timingLock (n : Lane)
  /-- R89. The constant-modulus error stays below threshold for 0.5 ms and RXD enters PHASE_LOCK. -/
  | polConverged (n : Lane)
  /-- R89. An acquisition state reaches its maximum duration, a failure is counted and RXD enters FREQ_SEARCH. -/
  | acqStateTimeout (n : Lane)
  /-- R90. A warm reacquisition does not reach TRACKING within 10 ms, a failure is counted and RXD enters
  FREQ_SEARCH. -/
  | warmReacqTimeout (n : Lane)
  /-- R89. The equaliser diverges in TRACKING and RXD makes a warm reacquisition from TIMING. -/
  | eqDiverge (n : Lane)
  /-- R72. In AUTO mode CD is re-estimated once per second and the compensated value is slewed towards it. The
  operand is the new estimate in ps/nm. -/
  | cdReestimate (n : Lane) (cd : Int)
  /-- R83. The LO update period elapses and RXD as owner sends a scaled, clipped DELTA unless within the
  deadband. -/
  | loUpdateTick (n : Lane)
  /-- R82. A write of RXD_LO_HOST sends a host DELTA frame when LO_MODE is OFF, or is refused with RES_BUSY. -/
  | loHostWrite (n : Lane) (v : BitVec 24)
  /-- R85. Every 256 LRXn cycles the integral path writes the receive synthesiser trim, holding it at the limit
  if needed. The operand is the trim the integral path asks for, in LSB of R49. -/
  | trimUpdate (n : Lane) (want : Int)
  /-- R97. Every 100 µs RXD updates its metrics from FEC counts and passes the CD estimate to TIME. -/
  | rxdMetricsUpdate (n : Lane) (m : Metrics)
  /-- R87. New nonlinear-compensation coefficients are ready and compensation is enabled at the next LF
  boundary. -/
  | nlcReady (n : Lane)
  /-- R102. A write of TXD_CTRL.EN enables TXD towards KS_ONLY or SENDING, or disables it at once. -/
  | txdEnWrite (n : Lane) (v : Bool)
  /-- R102. A write of TXD_CTRL.MODE requests SENDING at the next LF start or KS_ONLY at the end of the LF. -/
  | txdModeWrite (n : Lane) (v : Bool)
  /-- R506. A transmit-grid LF start occurs, the LF overhead is assembled and coded bit 0 enters the FEC
  encoder. The phase, in ps after the PLU cycle, of the lane's first grid start. -/
  | txLfStart (n : Lane) (phase : Fin 1600)
  /-- R113. A Keystone group fails to arrive within its crossing, TXD injects zero and sets KS_LOST. -/
  | ksGroupMissed (n : Lane)
  /-- R132. Decoding of an inner LDPC codeword stops, converged or failed, updating counters and the iteration
  pool. The operands are the soft values of its 30,720 bits, and in the ZR families what the agreement's decoder
  finds: whether the codeword is left corrected, and the bits corrected. -/
  | innerCodewordDone (n : Lane) (soft : List Int) (zr : Bool × Nat)
  /-- R134. An outer block enters the decoder window and PASSES passes are made over the window. The operand, of LFs
  given as decoded (log entry 68), is how many bits the passes change. -/
  | outerBlockEnter (n : Lane) (changed : Nat)
  /-- R134. An outer block leaves the window, its syndromes are checked and uncorrected LFs are flagged. The operand, of
  LFs given as decoded (log entry 68), is how many of the 480 component codewords have a nonzero syndrome. -/
  | outerBlockExit (n : Lane) (bad : Nat)
  /-- R155. The FEC delivers a decoded LF to LFR, whose overhead is accepted or not and whose payload is
  demapped. -/
  | lfDelivered (n : Lane) (lf : LfIn)
  /-- R153. In HUNT or PRESYNC a marker match at an untracked position becomes a candidate or is counted as
  overflow. The symbol position modulo L, the hypothesis of R77 (ROT_X + 4 ROT_Y + 16 POL_SWAP), and the
  differing bits. -/
  | lfrMarkerMatch (n : Lane) (pos hyp diff : Nat)
  /-- R152. A candidate's or the synchronised frame's expected marker position is reached and tested as hit or
  miss. `cand`: the candidate tested, none for the synchronised frame; `phase`: the marker's arrival in fs after
  the PLU cycle. -/
  | lfrExpectedPosition (n : Lane) (cand : Option (Fin 4)) (hyp diff : Nat) (phase : Fin 1600000)
  /-- R154. The 256 × L symbol exclusion of a falsely synchronised position ends. -/
  | lfrExclusionExpiry (n : Lane) (pos : Nat)
  /-- R159. A signal-degrade window of WIN × 1,024 LFs ends and dSD is declared or cleared. -/
  | sdWindowEnd (n : Lane)
  /-- R160. Within 2 µs of a defect being declared or cleared, downstream AIS starts or ends on the groups
  concerned. -/
  | downstreamAisChange (n : Lane)
  /-- R172. 10 µs after each TB0 second PMON evaluates it for every entity and adds the results to the bins. -/
  | pmonSecondEval
  /-- R178. A closed bin reaches its boundary + 10 s and FINAL is set. The operand tells a 24-hour bin from a
  15-minute bin. -/
  | binFinal (day : Bool)
  /-- R183. A write of CLR_CUR zeroes every count of the lane's current bins and sets HOST_CLEARED. -/
  | pmonClrCur (n : Lane)
  /-- R184. Every 10 ms in TRACKING PMON samples the five metrics into the bins. -/
  | pmonMetricSample (n : Lane)
  /-- R195. A port lane is below detection for 1 µs, dCLOS is declared and the port enters NO_SIGNAL. -/
  | closDeclare (p : Fin 64)
  /-- R195. Every lane is above detection for 10 µs, dCLOS clears and the port enters ALIGNING. -/
  | closClear (p : Fin 64)
  /-- R195. The port's standard declares loss of alignment and the port leaves UP for ALIGNING. -/
  | cloaDeclare (p : Fin 64)
  /-- R195. dCLOA clears and the port enters UP. -/
  | cloaClear (p : Fin 64)
  /-- R197. An ingress frame is decoded and forwarded into the adapted stream, or dropped for size. -/
  | clientFrameIngress (src : ClientSrc) (rx : ClientRx)
  /-- R199. The egress checks an adapted-stream header and sends, discards or drops the element. The operand is
  the flow. -/
  | egressHeader (f : Fin 256)
  /-- R203. The far end answers CR with CA and the FlexE group switches to the new calendar. -/
  | flexeCalendarSwitch (k : Fin 8)
  /-- R205. Within 2 µs of a fault being declared or cleared CLI starts or stops replacing the client. -/
  | cliFaultAction (p : Fin 64)
  /-- R213. An entropy-source health test fails, ES_FAIL is set and ES_OK cleared. -/
  | esHealthFail
  /-- R212. A DRBG instance reseeds from the entropy source. The instance; the last one feeds the message cores. -/
  | drbgReseed (i : Fin 21)
  /-- R213. No instance reseeded for 100 ms, CIPH enters RNG_FAIL and stops active contexts. -/
  | rngFailTimeout
  /-- R216. A clear key load into a slot is performed, or refused with KEY_POLICY or KEY_IN_USE. -/
  | keyLoadClear (by_ : Source) (slot : Fin 8192) (key : BitVec 256)
  /-- R217. A zeroise removes a slot's key from use within 64 CIPH cycles and the slot becomes EMPTY. -/
  | keyZeroise (by_ : Source) (slot : Fin 8192)
  /-- R217. A write of ZERO_ALL removes every key from use within 64 CIPH cycles. -/
  | zeroAll (by_ : Source)
  /-- R217. The clearing of every slot's stored contents after ZERO_ALL completes. -/
  | zeroAllClearDone
  /-- R221. A direct IV load into an MSG context is taken or refused with IV_REPEAT or CTX_BUSY. A 96-bit IV
  stands in the 96 high bits. -/
  | ctxIvLoad (by_ : Source) (c : BitVec 16) (iv : BitVec 128)
  /-- R226. 10 ms after a decrypting rollover the previous key is released. -/
  | prevKeyRelease (c : BitVec 16)
  /-- R229. An ENC job is queued to encrypt or generate a GMAC tag over a message segment. `j` is PCIe's
  descriptor; a COP job takes the lowest free one. -/
  | jobEnc (by_ : Source) (j : Fin 16) (d : JobDesc)
  /-- R229. A DEC job is queued to decrypt or verify a GMAC tag over a message segment. -/
  | jobDec (by_ : Source) (j : Fin 16) (d : JobDesc)
  /-- R228. A WRAP_KEY job is queued to export a slot key by KW. -/
  | jobWrapKey (by_ : Source) (j : Fin 16) (d : JobDesc)
  /-- R228. An UNWRAP_KEY job is queued to unwrap a key into a slot. -/
  | jobUnwrapKey (by_ : Source) (j : Fin 16) (d : JobDesc)
  /-- R231. A WRAP_CTX job is queued to save a context wrapped. -/
  | jobWrapCtx (by_ : Source) (j : Fin 16) (d : JobDesc)
  /-- R231. An UNWRAP_CTX job is queued to restore a wrapped context image. -/
  | jobUnwrapCtx (by_ : Source) (j : Fin 16) (d : JobDesc)
  /-- R231. A SAVE_CLEAR job is queued to save a context image in the clear. -/
  | jobSaveClear (by_ : Source) (j : Fin 16) (d : JobDesc)
  /-- R231. A RESTORE_CLEAR job is queued to restore a clear context image. -/
  | jobRestoreClear (by_ : Source) (j : Fin 16) (d : JobDesc)
  /-- R230. A core becomes free and the highest-priority queued job starts on it. -/
  | jobStart
  /-- R230. A core becomes free and a suspended job resumes. -/
  | jobResume
  /-- R229. A job finishes its segment and completes, fails or moves its context to NEED_IV. -/
  | jobSegmentEnd (j : Fin 16)
  /-- R242. A write of PLU_CTRL.EN enables selection or enters FREERUN and clears the history. -/
  | pluEnWrite (v : Bool)
  /-- R242. A write of FORCE_HOLD forces holdover or releases it. -/
  | pluForceHoldWrite (v : Bool)
  /-- R246. A write of CLR_HIST empties the holdover history and clears HIST_VALID. -/
  | pluClrHist
  /-- R236. A reference's validity condition starts or ends. -/
  | refValidChange (r : Fin 32)
  /-- R237. No edge or 1PPS pulse arrives in time and a reference loses PRESENT. -/
  | refActivityLoss (r : Fin 32)
  /-- R237. A reference's frequency window ends, giving PLU_REFr_FREQ, FREQ_OK and disagreement checks. The
  operand is the measured frequency offset in 10^-12. -/
  | refFreqWindow (r : Fin 32) (freq : Int)
  /-- R237. The monitor conditions have held for QUAL_MS and the reference becomes QUALIFIED. -/
  | refQualified (r : Fin 32)
  /-- R241. Agreement has held for QUAL_MS and FREQ_DISAGREE clears. -/
  | freqDisagreeClear (r : Fin 32)
  /-- R243. The phase error comes within LOCK.THR and the pull ends. The operand is the phase error in ps. -/
  | pluPullEnd (err : Int)
  /-- R242. The phase error stays within THR for LOCK.TIME after the pull and PLU enters LOCKED. The operand is
  the phase error in ps. -/
  | pluLockAchieved (err : Int)
  /-- R242. The phase error is beyond THR for LOCK.TIME in LOCKED and PLU returns to ACQUIRING. The operand is
  the phase error in ps. -/
  | pluLockLoss (err : Int)
  /-- R244. ACQUIRING reaches its time limit, ACQ_HOLD is set and PLU selects again. -/
  | pluAcqLimit
  /-- R244. A reference's ACQ_HOLD period ends. -/
  | acqHoldExpiry (r : Fin 32)
  /-- R239. A revertive higher-rank reference completes its wait-to-restore and may be selected. -/
  | wtrExpiry (e : Fin 16)
  /-- R242. Holdover exceeds PLU_HOLD.LIMIT minutes and PLU enters LOST. -/
  | holdoverLimit
  /-- R248. OSCIN stops or deviates beyond ±200 ppm, clocks move to the backup oscillator and PLU enters LOST. -/
  | oscinFail
  /-- R242. OSCIN has been present for 1 s and PLU leaves LOST. -/
  | oscinRestored
  /-- R246. A whole TB0 second in LOCKED ends and its mean frequency enters the history. The operand is the mean
  frequency of the second in 10^-12. -/
  | pluHistorySecond (freq : Int)
  /-- R245. A write of PLU_PHASE_STEP adds to the remaining phase step. -/
  | pluPhaseStepWrite (v : Word)
  /-- R245. The remaining phase step reaches 0 and STEP_DONE is set. -/
  | pluStepDone
  /-- R249. A write of a CLKOUT frequency code restarts the output, or is refused on CLKOUT3 while TIME drives
  it. -/
  | clkoutFreqWrite (k : Fin 4) (v : Word)
  /-- R260. A 16 Hz servo update steps or slews the time base from the mean of accepted samples. -/
  | servoUpdate (x : Fin 3)
  /-- R261. No sample for 2 s and the time base enters HOLDOVER. -/
  | servoSampleTimeout (x : Fin 3)
  /-- R259. A write of TIME_TBx_SERVO sets the source, or is refused with CFG_REFUSED. -/
  | servoSrcWrite (x : Fin 3) (v : Word)
  /-- R273. A PTP message is received on a PTP port and processed, giving offset samples. -/
  | ptpMessageRx (p : Fin 64) (m : PtpRx)
  /-- R273. A PTP Sync, Delay_Req or Announce message falls due and is sent. -/
  | ptpMessageTx (p : Fin 64) (kind : PtpTx)
  /-- R259. A 1PPS edge at a REFIN land is timestamped and gives a PPS sample. The operand ps is how far into
  the present PLU cycle the edge falls. -/
  | ppsEdge (i : Fin 4) (ps : Nat)
  /-- R259. A write of TIME_TBx_HOST_OFS gives a host offset sample. -/
  | hostOfsWrite (by_ : Source) (x : Fin 3) (v : Word)
  /-- R262. A write of TIME_TBx_SET2 sets the time base, or is refused. -/
  | tbSet (by_ : Source) (x : Fin 3) (t : Time80)
  /-- R262. A write of TIME_TBx_STEP_HI steps the time base, or is refused. The operand d is in ns. -/
  | tbStep (by_ : Source) (x : Fin 3) (d : Int)
  /-- R264. TB0 reaches the UTC change time and OFS takes NEXT. -/
  | utcChange
  /-- R263. 1 s after OSCIN returns TIME accepts samples again. -/
  | timeOscinWaitEnd
  /-- R271. No line sample has arrived for 10 ms and TIME falls back to Keystone timestamps. -/
  | timeFallbackStart (n : Lane)
  /-- R278. A write of START arms a launch descriptor, or refuses it. The operand is the word written to
  TIME_LAUNCHd_CTRL. -/
  | launchArm (d : Fin 32) (v : Word)
  /-- R279. The launch time is reached and the frame is sent with its timestamp. The operand is the deviation of
  the crossing from its instant in 2^-16 ns, within the accuracy of R279. -/
  | launchSend (d : Fin 32) (err : Int)
  /-- R274. A write of TIME_CTRL.PTP_EN starts or stops the PTP instances. -/
  | ptpEnWrite (v : Bool)
  /-- R281. A write of PPS_EN claims or releases CLKOUT3 for 1PPS, or is refused with RES_BUSY. -/
  | ppsEnWrite (v : Bool)
  /-- R281. An integer second of the selected time base plus offset is reached and a 1PPS pulse is driven. -/
  | ppsPulse
  /-- R300. A write of KSC_CTRL.EN moves the lane's KSC between OFF and SEARCH. -/
  | kscEnWrite (n : Lane) (v : Bool)
  /-- R296. BEACON_MS elapses and a BEACON is queued or replaces a waiting one. -/
  | beaconDue (n : Lane)
  /-- R302. KSC_RANGE_MS elapses in LINKED and a RANGE_REQ is queued. -/
  | rangeReqDue (n : Lane)
  /-- R294. The transmitter is free and the waiting packet of highest order starts. -/
  | ksTxStart (n : Lane)
  /-- R294. A Keystone packet completes transmission. -/
  | ksTxEnd (n : Lane)
  /-- R304. A management packet for the Keystone tunnel is queued, or refused with RES_BUSY. -/
  | ksMgmtQueue (n : Lane) (bytes : List Byte)
  /-- R295. A MGMT packet has waited 100 ms and is discarded. -/
  | ksMgmtTimeout (n : Lane)
  /-- R297. Six consecutive windows give a detection that starts a reception or candidate. The operands are what
  the detector finds, or the windows that it searches. -/
  | ksDetection (n : Lane) (chan : Int) (bin : KsPeak) (snr : Int)
  /-- R298. The preamble ends or the reception is abandoned. `cand`: of the candidate, not of the reception;
  `found`: the sync symbols follow. -/
  | ksPreambleEnd (n : Lane) (cand found : Bool)
  /-- R298. Sync and down-chirp windows end; the network id verifies and the offset is estimated, or the
  reception is abandoned. The shifts and the offset measured, and the latency of the measurement. -/
  | ksSyncEnd (n : Lane) (cand : Bool) (shift1 shift2 : Nat) (fo : Int) (delay : Nat)
  /-- R298. The header block is decoded and HCRC checked. -/
  | ksHeaderDecoded (n : Lane) (header : KsBlock)
  /-- R298. The last block is decoded and the packet is accepted or discarded. -/
  | ksPayloadDecoded (n : Lane) (bytes : KsBlock)
  /-- R300. No packet accepted for FAR_TIMEOUT and KSC returns to SEARCH. -/
  | ksFarTimeout (n : Lane)
  /-- R302. A request has no response within 500 ms and counts in RNG_FAIL. -/
  | rangeTimeout (n : Lane)
  /-- R306. A MATCH 3 persists to T minus 1 ms and CRS_DIFF is set. -/
  | crsDiffTimeout (n : Lane)
  /-- R314. A tap delivers an LF or client-egress event to Cornerstone. -/
  | cstTapEvent (tap : CstTap)
  /-- R315. A TB3 second ends and Cornerstone forms each entity's results. -/
  | cstSecond
  /-- R316. Each TB3 millisecond a latency sample is taken into the histograms. -/
  | cstLatencySample (n : Lane)
  /-- R317. A TB0 sample arrives once per second and disciplines TB3. `osc`: how many cycles more than nominal
  Cornerstone's oscillator has made since the last sample. -/
  | cstTb0Sample (osc : Int)
  /-- R318. No usable sample for 2 s and TB3 enters HOLDOVER. -/
  | tb3SampleTimeout
  /-- R319. An accepted jump slew ends and TB3 returns to LOCKED. -/
  | tb3SlewEnd
  /-- R322. A TB3 15-minute or 24-hour boundary is reached and the bins close. -/
  | cstBoundary
  /-- R322. 10 s after the boundary the record is signed, stored and verified. The operand is how many blocks
  fail in the writing. -/
  | cstRecordStore (failed : Nat)
  /-- R321. A Level strobe latches Cornerstone counts into a bank. -/
  | cstLevelLatch
  /-- R327. Every 10 s a checkpoint of open bins is written. -/
  | cstCheckpoint
  /-- R312. CST_RST_N resets Cornerstone. -/
  | cstRstN
  /-- R312. VDD_CST is removed and restored, acting as CST_RST_N. -/
  | vddCstLoss
  /-- R457. A write of 0x0000_00C5 to SEC_CST_RST requests a Cornerstone reset with final checkpoint. -/
  | cstResetRequest (by_ : Source)
  /-- R312. Cornerstone becomes ready after reset. -/
  | cstReady
  /-- R329. A write of CST_PATCH_GO submits the patch. -/
  | cstPatchGo
  /-- R329. Patch verification completes, accepting or refusing it. Whether the signature verifies, and the
  patch's level. -/
  | cstPatchVerified (good : Bool) (level : Nat)
  /-- R331. A write of CST_SEL_HI selects the record shown. -/
  | cstSelWrite (by_ : Source) (seq : BitVec 64)
  /-- R337. An HKM timer expires and triggers a pass. -/
  | hkmTimerExpiry (t : Fin 4)
  /-- R337. A PWM edge triggers a pass. -/
  | hkmPwmEdgeTrigger (k : Fin 8) (falling : Bool)
  /-- R337. After DELAY a converter pass starts. -/
  | hkmPassStart (x : Fin 2)
  /-- R339. A conversion result is written and feeds the filter. -/
  | hkmConversionResult (x : Fin 2) (m : HkmSample)
  /-- R499. A sensor reads 125 °C for 100 µs and cold reset is asserted. -/
  | thermalTrip
  /-- R339. A read of a result register clears NEW. -/
  | hkmResultRead (by_ : Source) (x : Fin 2)
  /-- R338. A write of PWM mode is taken or refused with RES_BUSY. -/
  | hkmPwmModeWrite (k : Fin 8) (v : Word)
  /-- R338. A PWM period starts and any pending change takes effect. -/
  | pwmPeriodStart (k : Fin 8)
  /-- R335. A write of ILV changes interleave and restarts filters. -/
  | hkmIlvWrite (v : Bool)
  /-- R337. A write of a trigger register is taken or refused with CFG_ERR. -/
  | hkmTrigWrite (x : Fin 2) (v : Word)
  /-- R360. CAL_CMD START begins a run or is refused. `v`: the word written to CAL_CMD. -/
  | calStart (by_ : Source) (v : Word)
  /-- R365. CAL_CMD ABORT ends the run after the current step. -/
  | calAbort (by_ : Source)
  /-- R361. Preconditions are checked and the run enters MEASURE or aborts. `temps`: what the 24 sensors read, before
  correction in 0.01 °C (R356, R362). -/
  | calCheckDone (temps : List Int)
  /-- R363. A slice step ends and the next step starts. The values measured of the slice, for ASH and for
  DACLIN, and what the sensors read. -/
  | calSliceStepEnd (ash dac temps : List Int)
  /-- R361. Measurement completes and QUALITY starts; of several measurement blocks, one ends and the next starts. What the
  sensors read; of TXIQ and RXTILT the values measured; of HKM the codes that the converter gives for 0 V and for 1.0 V ÷ G at
  each of the four gains. -/
  | calMeasureDone (temps values refs : List Int)
  /-- R366. Quality figures are measured and the run stores or aborts. -/
  | calQualityDone (spur : Int) (skew eye : Nat)
  /-- R368. The store completes and the run ends DONE. Blocks whose write failed. -/
  | calStoreDone (failed : Nat)
  /-- R358. Every 100 ms the values in force are interpolated. -/
  | calInterpTick (temps : List Int)
  /-- R378. The cold-reset fill completes and FILL_DONE is set. -/
  | memFillDone
  /-- R375. A functional array read is checked, corrected or reported uncorrectable. `wrote`: the data that the
  function which owns the word has written there in full since the last command on it, if it has; `flips`: which stored bits differ from what was written: data [63:0], row checks
  [71:64], column checks [79:72]. -/
  | memArrayRead (a : Fin 11) (inst : Fin 16) (addr : Nat) (wrote : Option (BitVec 64)) (flips : BitVec 80) (reader : MemReader)
  /-- R381. A partial write merges into a word or is refused and poisons it. `bytes` go to the word from its
  byte `ofs` on. -/
  | memPartialWrite (by_ : Source) (a : Fin 11) (inst : Fin 16) (addr : Nat) (ofs : Fin 8) (bytes : List Byte) (flips : BitVec 80)
  /-- R385. The scrubber reads one word and corrects or poisons it. `wrote` and `flips`: as for a functional read of that word;
  `overwritten`: a full-word write comes between the read and its write-back (R386). -/
  | memScrubStep (a : Fin 11) (inst : Fin 16) (wrote : Option (BitVec 64)) (flips : BitVec 80) (overwritten : Bool)
  /-- R398. A READ request returns object values. `full`: the queue of the request's class is full when it
  arrives (R405). -/
  | copRead (m : CopRx) (full : Bool)
  /-- R393. A WRITE request writes objects as their registers. -/
  | copWrite (m : CopRx) (full : Bool)
  /-- R401. A BLOCK_READ segment is served from the session copy. -/
  | copBlockRead (m : CopRx) (full : Bool)
  /-- R401. A BLOCK_WRITE segment is taken and the object written at the end. -/
  | copBlockWrite (m : CopRx) (full : Bool)
  /-- R406. A LEVEL_READ returns values from one selected bank. -/
  | copLevelRead (m : CopRx) (full : Bool)
  /-- R397. A request with an unknown OP is answered OP_INVALID. -/
  | copOpInvalid (m : CopRx) (full : Bool)
  /-- R402. A SESSION_OPEN creates a session or is refused with SESSION_LIMIT. -/
  | sessionOpen (m : CopRx) (full : Bool)
  /-- R404. A SESSION_CLOSE ends the session with its effects. -/
  | sessionClose (m : CopRx) (full : Bool)
  /-- R403. A session idle for the timeout ends. `k`: the session. -/
  | sessionTimeout (k : Nat)
  /-- R401. A block transfer idle for 1 s is discarded. `k`: the session. -/
  | blockExpire (k : Nat)
  /-- R413. A request for another node is relayed or answered UNREACHABLE. -/
  | copRelay (m : CopRx)
  /-- R411. A child answers a TIME_POLL with its state. `d`: PLU cycles from the arrival to the answer's hand-
  off. -/
  | timePoll (m : CopRx) (d : Fin 1251)
  /-- R411. A parent receives a poll answer and updates the node record. The child and the body of its answer. -/
  | timePollAnswer (node : BitVec 14) (body : List Byte)
  /-- R411. A multiple of POLL_MS starts a poll round or counts a skip. -/
  | pollRoundStart
  /-- R411. The next TIME_POLL of a round is sent. -/
  | pollSend
  /-- R412. A poll is unanswered within POLL_TIMEOUT and counts a miss. -/
  | pollTimeout (node : BitVec 14)
  /-- R411. An unpolled node sends ANNOUNCE once per second. -/
  | announceDue
  /-- R411. A parent records the first ANNOUNCE address and path. The child, and where its ANNOUNCE came from. -/
  | announceReceive (node : BitVec 14) (path : Fin 4) (lane : Fin 8) (addr : List Byte)
  /-- R412. The manager receives a presence NOTIFY and updates its map. -/
  | notify (m : CopRx) (full : Bool)
  /-- R409. A stream sample is sent after a Level copy, or dropped. The stream, and the path on which its
  destination lies. -/
  | streamSampleSend (i : Fin 16) (path : Fin 4) (lane : Fin 8)
  /-- R414. A domain Level time is written to every node of the set. The statuses with which the nodes answered
  the manager's writes. -/
  | domainLevelSchedule (results : List (BitVec 14 × BitVec 16))
  /-- R415. A domain Course number is allocated. `k`: the session that writes 0x9020:07. -/
  | courseAllocate (k : Nat) (t : Time80)
  /-- R415. A domain abort aborts the number on every node that has it armed. `k`: the session that writes
  0x9020:06. -/
  | domainAbort (k : Nat) (number : BitVec 32)
  /-- R429. A write to a register with no row of its own acts under its access code. A write of `size` bytes; a
  4-byte value stands in the low half of `v`. -/
  | registerWrite (addr size : Nat) (contiguous : Bool) (v : BitVec 64)
  /-- R431. A read of a wide value's low word latches the other words. A read of `size` bytes at an address of
  any register that is not Level data. -/
  | wideLoRead (addr size : Nat)
  /-- R424. A memory request outside BAR0 gets Unsupported Request. -/
  | pcieUnsupportedRequest
  /-- R423. A Function Level Reset, hot reset or PERST resets the endpoint. -/
  | pcieFlr
  /-- R434. The background parity check reads registers and raises CFG_PARITY on a mismatch. `flips`: the bits
  of the register at `addr` that have changed since it was last read. -/
  | cfgParityScan (addr : Nat) (flips : BitVec 32)
  /-- R442. Power-on or RST_N low resets the core die, converter dies and Quarry interface. -/
  | coldReset
  /-- R443. RST_N is released and the boot sequence starts. `cool`: every sensor of R333 reads below 105 °C
  (R499). -/
  | coldResetRelease (cool : Bool)
  /-- R446. The boot ROM selects and verifies a stage-1 image. -/
  | bootStage1Verified
  /-- R443. Stage 1 verifies and loads the engine firmware. -/
  | bootEnginesLoaded
  /-- R449. The setup record is applied and regions take effect. -/
  | setupRecordApplied
  /-- R369. The calibration images are selected and loaded. -/
  | calSetsLoaded
  /-- R447. Stage 1 advances the minimum SVN and sets SEC_LOCK. -/
  | secLockSet
  /-- R443. Functions are released from the boot hold and COP is served. -/
  | mgtReady
  /-- R488. A monitored rail below 93 % for 2 µs asserts cold reset. -/
  | supplyUndervoltage
  /-- R488. 10 ms after rails return the internal reset releases. -/
  | supplyRestored
  /-- R450. A write of SEC_CTRL.LOCK closes the setup window. -/
  | secLockWrite (by_ : Source)
  /-- R450. WINDOW_MS after MGT_READY the setup window closes. -/
  | windowTimeout
  /-- R454. SEC_FUSE_CMD fuses the customer key hash or is refused. -/
  | customerHashFuse
  /-- R456. A nonce write requests a quote or is refused with RES_BUSY. -/
  | attRequest (by_ : Source) (nonce : BitVec 256)
  /-- R456. The quote is ready and ATT_DONE is set. -/
  | attQuoteReady
  /-- R457. A reset bit written 1 holds the function in reset. -/
  | funcResetAssert (by_ : Source) (k : Fin 15)
  /-- R457. A reset bit written 0 starts the function's release. -/
  | funcResetRelease (by_ : Source) (k : Fin 15)
  /-- R463. The function leaves reset after deferred items are written. -/
  | funcResetExit (k : Fin 15)
  /-- R461. A Lodge core reset bit is written 1 or an access fault resets the core. `by_`: who writes the bit;
  none for an access fault. -/
  | lodgeCoreReset (by_ : Option Source) (k : Fin 8)
  /-- R461. A released Lodge core checks its code and restarts or stays in reset. `good`: the core's code has
  the SHA-512 measured at boot. -/
  | lodgeCoreRestart (k : Fin 8) (good : Bool)
  /-- R462. A write of SEC_CTRL.WARM requests warm reset. -/
  | warmResetRequest (by_ : Source)
  /-- R462. Warm reset starts once no Course is armed. -/
  | warmResetStart
  /-- R460. A write of CIPH_UNBLOCK ends every CIPH block. -/
  | ciphUnblock (by_ : Source)
  /-- R448. Image command 1 begins an image. -/
  | imgBegin (by_ : Source) (kind : BitVec 2) (len : BitVec 16)
  /-- R448. Image command 2 appends a chunk. -/
  | imgAppend (by_ : Source) (kind : BitVec 2) (len : BitVec 16)
  /-- R448. Image command 3 starts verifying and writing the image. -/
  | imgCommit (by_ : Source) (kind : BitVec 2) (len : BitVec 16)
  /-- R448. The image commit completes or is refused. `failed`: the blocks of Quarry that failed a write
  meanwhile. -/
  | imgCommitDone (failed : Nat)
  /-- R465. Image command 4 cancels the image in progress. -/
  | imgCancel (by_ : Source) (kind : BitVec 2) (len : BitVec 16)
  /-- R446. Image command 5 verifies and runs a recovery stage-1 image. -/
  | imgRunRecovery (by_ : Source) (kind : BitVec 2) (len : BitVec 16)
  /-- R237. Edges or 1PPS pulses arrive again at a reference that had lost activity, and PRESENT holds again. -/
  | refActivityReturn (r : Fin 32)
  /-- R263. OSCIN comes back after a failure, OSCIN_OK returns to 1 and the 1 s waits of PLU and TIME begin. -/
  | oscinReturn
  /-- R195. The ingress of a client port starts or stops receiving remote-fault indications, setting or clearing
  dRF and its alarm. -/
  | remoteFaultChange (p : Fin 64) (v : Bool)
  /-- R205. A FlexE group gains or loses overhead multiframe lock, or finds a group-number or PHY-map mismatch,
  changing CLI_FXk_STATUS and its clients' fault replacement. Lock, group-number mismatch and PHY-map mismatch
  as the shim finds them. -/
  | flexeLockChange (k : Fin 8) (locked gid map : Bool)
  /-- R417. The PHY of MGT0 or MGT1 gains or loses link, changing Link up. -/
  | mgtLinkChange (i : Fin 2) (v : Bool)
  /-- R489. VDD_NV falls below or returns above 1.68 V, stopping or permitting the start of Quarry page
  programs. -/
  | vddNvThreshold (above : Bool)
  /-- R433. A PCIe read that is unaligned, longer than 8 bytes or denied by a protection region receives
  Completer Abort and is logged with ACC_WIDTH, ACC_ALIGN or ACC_PROT. `contiguous`: the byte enables are
  contiguous. -/
  | pcieReadAbort (addr size : Nat) (contiguous : Bool)
deriving DecidableEq, Repr

end Sys2Proof
end

