-- ==== Sys2Proof/Decode.lean ====
section
/-!
DEFINITION. What a word spells.  The opcode table of this block gives no row any bits: its commands are register
writes and events, so no word spells one.
-/

namespace Sys2Proof

/-- The command that a word spells by the table's bits: none, since no row of the table has bits. -/
def decodeTableWord (_nbits _w : Nat) : Option Instr := none

end Sys2Proof
end

