-- ==== Sys2Proof/Machine/Operands.lean ====
section
/-!
DEFINITION. Reading and writing the parts of words and byte strings: bit fields (R6), two's complement fields,
big-endian byte strings (R6), and TIME80 values.
-/

namespace Sys2Proof.Machine

/-- Bits `[lo + len - 1 : lo]` of a number. -/
def bitsOf (w lo len : Nat) : Nat := w / 2 ^ lo % 2 ^ len

/-- One bit of a number. -/
def bitOf (w k : Nat) : Bool := w / 2 ^ k % 2 == 1

/-- A number with its bits `[lo + len - 1 : lo]` replaced by the low bits of `v`. -/
def withBits (w lo len v : Nat) : Nat :=
  w - bitsOf w lo len * 2 ^ lo + v % 2 ^ len * 2 ^ lo

/-- A field of a word. -/
def fld (w : Word) (lo len : Nat) : Nat := bitsOf w.toNat lo len

/-- A word with one field replaced. -/
def setFld (w : Word) (lo len v : Nat) : Word := BitVec.ofNat 32 (withBits w.toNat lo len v)

/-- The two's complement value of an `n`-bit number. -/
def toSigned (n v : Nat) : Int :=
  let u := v % 2 ^ n
  if 2 * u < 2 ^ n then (u : Int) else (u : Int) - (2 ^ n : Nat)

/-- The `n`-bit two's complement number of an integer. -/
def ofSigned (n : Nat) (x : Int) : Nat := (x % ((2 ^ n : Nat) : Int)).toNat

/-- An integer held within two bounds. -/
def clampI (lo hi x : Int) : Int := if x < lo then lo else if hi < x then hi else x

/-- A number held within two bounds. -/
def clampN (lo hi x : Nat) : Nat := if x < lo then lo else if hi < x then hi else x

/-- A Bool as a bit. -/
def b2n (b : Bool) : Nat := if b then 1 else 0

/-- The `n` bytes of a number, most significant first (R6). -/
def natBytes : Nat → Nat → List Byte
  | 0, _ => []
  | n + 1, v => BitVec.ofNat 8 (v / 256 ^ n) :: natBytes n v

/-- The number a byte string spells, most significant first (R6). -/
def bytesNat (bs : List Byte) : Nat := bs.foldl (fun acc b => acc * 256 + b.toNat) 0

/-- Bytes `[i, i + n)` of a string, zero bytes where it ends earlier. -/
def sliceBytes (bs : List Byte) (i n : Nat) : List Byte :=
  let t := (bs.drop i).take n
  t ++ List.replicate (n - t.length) 0

/-- The number in bytes `[i, i + n)`. -/
def fieldBytes (bs : List Byte) (i n : Nat) : Nat := bytesNat (sliceBytes bs i n)

/-- A byte string with the bytes from `i` on replaced by `v`; the length stays. -/
def putBytes (bs : List Byte) (i : Nat) (v : List Byte) : List Byte :=
  (bs.take i ++ v ++ bs.drop (i + v.length)).take bs.length

/-- Word `i` of a byte area whose first byte lies in [31:24] (R331). -/
def byteAreaWord (bs : List Byte) (i : Nat) : Word := BitVec.ofNat 32 (fieldBytes bs (4 * i) 4)

/-- One bit of the CRC-32 of IEEE 802.3, reflected. -/
def crc32Bit (c : Nat) : Nat := if c % 2 = 1 then Nat.xor (c / 2) 0xEDB88320 else c / 2

/-- `n` bits of the CRC. -/
def crc32Bits : Nat → Nat → Nat
  | 0, c => c
  | n + 1, c => crc32Bits n (crc32Bit c)

/-- CRC-32 of IEEE 802.3 over a byte string. -/
def crc32 (bs : List Byte) : Nat :=
  Nat.xor 0xFFFFFFFF (bs.foldl (fun c b => crc32Bits 8 (Nat.xor c b.toNat)) 0xFFFFFFFF)

/-- The frame check sequence that IEEE 802.3 appends to a frame: the CRC-32, least significant byte first. -/
def fcsBytes (bs : List Byte) : List Byte := (natBytes 4 (crc32 bs)).reverse

/-- Exclusive or of two byte strings, as long as the shorter. -/
def xorBytes (a b : List Byte) : List Byte := List.zipWith (fun x y => x ^^^ y) a b

/-- Distance from `b` to `a` in 32-bit serial-number arithmetic: `a` is greater when it lies in 1 to 2^31 − 1 (R32). -/
def serialGt (a b : Nat) : Bool :=
  let d := (a + 2 ^ 32 - b % 2 ^ 32) % 2 ^ 32
  0 < d && d < 2 ^ 31

/-- Division of integers rounded to the nearest, ties away from zero. -/
def divNear (a : Int) (b : Nat) : Int :=
  if b = 0 then 0
  else if 0 ≤ a then ((2 * a.toNat + b) / (2 * b) : Nat)
  else -(((2 * (-a).toNat + b) / (2 * b) : Nat) : Int)

/-- Division rounded up. -/
def divUp (a b : Nat) : Nat := if b = 0 then 0 else (b - 1 + a) / b

/-- The square root rounded down, bit by bit from bit `n - 1`. -/
def isqrtFrom : Nat → Nat → Nat → Nat
  | 0, _, r => r
  | n + 1, v, r => isqrtFrom n v (if (r + 2 ^ n) * (r + 2 ^ n) ≤ v then r + 2 ^ n else r)

/-- The square root of a number below 2^64, rounded down. -/
def isqrt (v : Nat) : Nat := isqrtFrom 32 v 0

/-- An entry of a list replaced; nothing where the list is shorter. -/
def setAt {α : Type} : List α → Nat → α → List α
  | [], _, _ => []
  | _ :: xs, 0, v => v :: xs
  | x :: xs, k + 1, v => x :: setAt xs k v

/-- An entry of a list changed. -/
def modAt {α : Type} : List α → Nat → (α → α) → List α
  | [], _, _ => []
  | x :: xs, 0, f => f x :: xs
  | x :: xs, k + 1, f => x :: modAt xs k f

/-- Read of an association list. -/
def assocGet {α : Type} : List (Nat × α) → Nat → Option α
  | [], _ => none
  | (k, v) :: xs, a => if k = a then some v else assocGet xs a

/-- Removal from an association list. -/
def assocDel {α : Type} (m : List (Nat × α)) (a : Nat) : List (Nat × α) := m.filter fun p => p.1 != a

/-- Write into an association list in rising order of the key. -/
def assocPut {α : Type} : List (Nat × α) → Nat → α → List (Nat × α)
  | [], a, v => [(a, v)]
  | (k, w) :: xs, a, v =>
    if a < k then (a, v) :: (k, w) :: xs
    else if a = k then (a, v) :: xs
    else (k, w) :: assocPut xs a v

/-- The indexes below `n` that hold. -/
def indexesWhere (n : Nat) (p : Nat → Bool) : List Nat := (List.range n).filter p

/-- A word after one staged item: the bits under the mask take the value's. -/
def itemWord (v mask val : Nat) : Nat := Nat.lor (Nat.land v (Nat.xor 0xFFFFFFFF mask)) (Nat.land val mask)

/-! ### Fixed-point functions -/

/-- The product of two values with 180 bits after the point. -/
def fixMul (a b : Nat) : Nat := a * b / 2 ^ 180

/-- `e^y`, with 180 bits after the point, by its series: `n` is the next term's index, `t` the last term, `acc` the sum so far. -/
def fixExp (y : Nat) : Nat → Nat → Nat → Nat → Nat
  | 0, _, _, acc => acc
  | fuel + 1, n, t, acc => fixExp y fuel (n + 1) (fixMul t y / (n + 1)) (acc + t)

/-- The cosine's series with 64 bits after the point: `k` is the next term's index, `t` the last term, for `x2 = x²`. -/
def cosSeries (x2 : Nat) : Nat → Nat → Nat → Int → Int
  | 0, _, _, acc => acc
  | fuel + 1, k, t, acc =>
    let t := t * x2 / 2 ^ 64 / ((2 * k + 1) * (2 * k + 2))
    cosSeries x2 fuel (k + 1) t (if k % 2 = 0 then acc - (t : Nat) else acc + (t : Nat))

/-- The cosine of `num ÷ den` turns, with 64 bits after the point. -/
def cosTurns (num : Int) (den : Nat) : Int :=
  let p := (num % (max 1 den : Nat)).toNat
  let p := if den < 2 * p then den - p else p
  let x := p * 115904311329233965478 / max 1 den
  cosSeries (x * x / 2 ^ 64) 40 0 (2 ^ 64) (2 ^ 64)

/-- The sine of `num ÷ den` turns, with 64 bits after the point. -/
def sinTurns (num : Int) (den : Nat) : Int := cosTurns (4 * num - den) (4 * den)

/-- The natural logarithm of 10, with 180 bits after the point. -/
def ln10 : Nat := 3528701387477643034759383725031102213145367166705899390

/-- `e^(-num ÷ den)`, with 180 bits after the point. -/
def expNeg (num den : Nat) : Nat := if 100 * den ≤ num then 0 else 2 ^ 360 / fixExp (2 ^ 180 * num / max 1 den) 400 0 (2 ^ 180) 0

/-- `num ÷ den` is at least 10^(g ÷ 2000). -/
def atLeastPow (num den : Nat) (g : Int) : Bool :=
  let q := g / 2000
  let e := fixExp (ln10 * (g % 2000).toNat / 2000) 100 0 (2 ^ 180) 0
  den * e * 10 ^ q.toNat ≤ num * 2 ^ 180 * 10 ^ (-q).toNat

/-- 1000 log10(num ÷ den) to the nearest integer, by bisection from `2^k`, above `low`. -/
def logSearch (num den : Nat) : Nat → Int → Int
  | 0, low => low
  | k + 1, low => logSearch num den k (if atLeastPow num den (2 * (low + 2 ^ k) - 1) then low + 2 ^ k else low)
def log1000 (num den : Nat) : Int := logSearch num den 18 (-131072)

/-- The angle of (re, im) with both at least 0, in 0.01°, by bisection from `2^k`, above `low`. -/
def angleSearch (re im : Nat) : Nat → Nat → Nat
  | 0, low => low
  | k + 1, low =>
    let g := 2 * (low + 2 ^ k) - 1
    angleSearch re im k
      (if g ≤ 18000 && sinTurns (g : Nat) 72000 * (re : Int) ≤ cosTurns (g : Nat) 72000 * (im : Int) then low + 2 ^ k else low)

/-- The angle of (re, im) in 0.01°, above −180° and up to 180°. -/
def angleOf (re im : Int) : Int :=
  let a : Int := angleSearch re.natAbs im.natAbs 14 0
  let b := if re < 0 then 18000 - a else a
  if im < 0 then -b else b

end Sys2Proof.Machine
end

