-- ==== Sys2Proof/Machine/Aes.lean ====
section
/-!
DEFINITION. AES-256 (FIPS 197), its modes (NIST SP 800-38D, SP 800-38A) and key wrap (NIST SP 800-38F), over numbers:
a block is a 128-bit number whose most significant byte is the first (R209, R228).
-/

namespace Sys2Proof.Machine

/-! ### The cipher -/

/-- The S-box, 32 bytes to a number, the first byte most significant. -/
def aesSbox : List Nat := [
  0x637c777bf26b6fc53001672bfed7ab76ca82c97dfa5947f0add4a2af9ca472c0,
  0xb7fd9326363ff7cc34a5e5f171d8311504c723c31896059a071280e2eb27b275,
  0x09832c1a1b6e5aa0523bd6b329e32f8453d100ed20fcb15b6acbbe394a4c58cf,
  0xd0efaafb434d338545f9027f503c9fa851a3408f929d38f5bcb6da2110fff3d2,
  0xcd0c13ec5f974417c4a77e3d645d197360814fdc222a908846eeb814de5e0bdb,
  0xe0323a0a4906245cc2d3ac629195e479e7c8376d8dd54ea96c56f4ea657aae08,
  0xba78252e1ca6b4c6e8dd741f4bbd8b8a703eb5664803f60e613557b986c11d9e,
  0xe1f8981169d98e949b1e87e9ce5528df8ca1890dbfe6426841992d0fb054bb16]

/-- The inverse S-box. -/
def aesInvSbox : List Nat := [
  0x52096ad53036a538bf40a39e81f3d7fb7ce339829b2fff87348e4344c4dee9cb,
  0x547b9432a6c2233dee4c950b42fac34e082ea16628d924b2765ba2496d8bd125,
  0x72f8f66486689816d4a45ccc5d65b6926c704850fdedb9da5e154657a78d9d84,
  0x90d8ab008cbcd30af7e45805b8b34506d02c1e8fca3f0f02c1afbd0301138a6b,
  0x3a9111414f67dcea97f2cfcef0b4e67396ac7422e7ad3585e2f937e81c75df6e,
  0x47f11a711d29c5896fb7620eaa18be1bfc563e4bc6d279209adbc0fe78cd5af4,
  0x1fdda8338807c731b11210592780ec5f60517fa919b54a0d2de57a9f93c99cef,
  0xa0e03b4dae2af5b0c8ebbb3c83539961172b047eba77d626e169146355210c7d]

/-- A byte of such a table. -/
def tableByte (t : List Nat) (x : Nat) : Nat := t.getD (x / 32) 0 / 256 ^ (31 - x % 32) % 256

/-- S-box on a byte, and on each byte of a 32-bit word. -/
def subByte (x : Nat) : Nat := tableByte aesSbox x
def subWord (w : Nat) : Nat :=
  ((subByte (w / 16777216 % 256) * 256 + subByte (w / 65536 % 256)) * 256 + subByte (w / 256 % 256)) * 256
    + subByte (w % 256)

/-- Multiplication by x in GF(2^8). -/
def xtime (a : Nat) : Nat := if a < 128 then 2 * a else Nat.xor (2 * a) 0x11B

/-- Multiplication in GF(2^8) by a number of `n` bits. -/
def gfMul : Nat → Nat → Nat → Nat
  | 0, _, _ => 0
  | n + 1, a, b => Nat.xor (if b % 2 = 1 then a else 0) (gfMul n (xtime a) (b / 2))

/-- The next eight words of the key schedule from the last eight. -/
def nextKeyWords (rcon : Nat) (w : List Nat) : List Nat :=
  let g := fun (k : Nat) => w.getD k 0
  let t := g 7
  let a0 := Nat.xor (g 0) (Nat.xor (subWord (t % 16777216 * 256 + t / 16777216)) (rcon * 16777216))
  let a1 := Nat.xor (g 1) a0
  let a2 := Nat.xor (g 2) a1
  let a3 := Nat.xor (g 3) a2
  let a4 := Nat.xor (g 4) (subWord a3)
  let a5 := Nat.xor (g 5) a4
  let a6 := Nat.xor (g 6) a5
  [a0, a1, a2, a3, a4, a5, a6, Nat.xor (g 7) a6]

/-- Round keys from `n` more steps of the schedule. -/
def keyWords : Nat → Nat → List Nat → List Nat
  | 0, _, _ => []
  | n + 1, rcon, w => let v := nextKeyWords rcon w; v ++ keyWords n (xtime rcon) v

/-- The 15 round keys of a 256-bit key, each as 16 bytes. -/
def roundKeys (key : Nat) : List (List Nat) :=
  let w := (List.range 8).map fun k => key / 2 ^ (32 * (7 - k)) % 2 ^ 32
  let ws := w ++ keyWords 7 1 w
  (List.range 15).map fun r => (List.range 16).map fun b => ws.getD (4 * r + b / 4) 0 / 256 ^ (3 - b % 4) % 256

/-- Exclusive or of two byte lists. -/
def xorList (a b : List Nat) : List Nat := List.zipWith Nat.xor a b

/-- ShiftRows, and its inverse with `3`, of 16 bytes in column order. -/
def shiftRows (k : Nat) (b : List Nat) : List Nat :=
  (List.range 16).map fun i => b.getD ((i + 4 * k * (i % 4)) % 16) 0

/-- One column times the circulant matrix of first row `m`. -/
def mixColumn (m : List Nat) (c : List Nat) : List Nat :=
  (List.range 4).map fun r =>
    (List.range 4).foldl (fun v k => Nat.xor v (gfMul 4 (c.getD k 0) (m.getD ((k + 4 - r) % 4) 0))) 0

/-- MixColumns with the matrix of first row `m`. -/
def mixColumns (m : List Nat) (b : List Nat) : List Nat :=
  (List.range 4).flatMap fun c => mixColumn m ((b.drop (4 * c)).take 4)

/-- Encryption rounds; the last key ends without MixColumns. -/
def encRounds : List (List Nat) → List Nat → List Nat
  | [], b => b
  | [k], b => xorList (shiftRows 1 (b.map subByte)) k
  | k :: ks, b => encRounds ks (xorList (mixColumns [2, 3, 1, 1] (shiftRows 1 (b.map subByte))) k)

/-- Decryption rounds over the round keys in falling order. -/
def decRounds : List (List Nat) → List Nat → List Nat
  | [], b => b
  | [k], b => xorList ((shiftRows 3 b).map (tableByte aesInvSbox)) k
  | k :: ks, b =>
    decRounds ks (mixColumns [14, 11, 13, 9] (xorList ((shiftRows 3 b).map (tableByte aesInvSbox)) k))

/-- The 16 bytes of a block, and back. -/
def blockBytes (v : Nat) : List Nat := (List.range 16).map fun k => v / 256 ^ (15 - k) % 256
def bytesBlock (b : List Nat) : Nat := b.foldl (fun v x => 256 * v + x) 0

/-- AES-256 encryption of a block. -/
def aesEnc (key block : Nat) : Nat :=
  match roundKeys key with
  | [] => block
  | k :: ks => bytesBlock (encRounds ks (xorList (blockBytes block) k))

/-- AES-256 decryption of a block. -/
def aesDec (key block : Nat) : Nat :=
  match (roundKeys key).reverse with
  | [] => block
  | k :: ks => bytesBlock (decRounds ks (xorList (blockBytes block) k))

/-- R214: the check value of a key: the first three bytes of the encrypted zero block. -/
def kcv (key : Nat) : Nat := aesEnc key 0 / 2 ^ 104

/-! ### GCM and GMAC -/

/-- Multiplication in GF(2^128) of SP 800-38D: `v` runs through y times powers of x, bits of `x` from the first. -/
def ghashMulFrom : Nat → Nat → Nat → Nat → Nat
  | 0, _, _, z => z
  | n + 1, x, v, z =>
    ghashMulFrom n x (if v % 2 = 1 then Nat.xor (v / 2) (0xE1 * 2 ^ 120) else v / 2)
      (if bitOf x n then Nat.xor z v else z)

/-- The product of two blocks. -/
def ghashMul (x y : Nat) : Nat := ghashMulFrom 128 x y 0

/-- GHASH carried on over whole blocks. -/
def ghashBlocks (h acc : Nat) (blocks : List Nat) : Nat := blocks.foldl (fun a b => ghashMul (Nat.xor a b) h) acc

/-- Byte string as blocks, the last filled with zeros. -/
def toBlocks : Nat → List Byte → List Nat
  | 0, _ => []
  | n + 1, bs => if bs.isEmpty then [] else fieldBytes bs 0 16 :: toBlocks n (bs.drop 16)

/-- The blocks of a byte string. -/
def blocksOf (bs : List Byte) : List Nat := toBlocks (divUp bs.length 16) bs

/-- The closing block of GHASH: the lengths in bits of the AAD and of the data. -/
def ghashLens (aad data : Nat) : Nat := 8 * aad % 2 ^ 64 * 2 ^ 64 + 8 * data % 2 ^ 64

/-- Counter block `j` of a 96-bit IV. -/
def ivBlock (iv j : Nat) : Nat := iv % 2 ^ 96 * 2 ^ 32 + j % 2 ^ 32

/-- CTR over whole blocks from counter block `j`. -/
def ctrBlocks (key iv : Nat) : Nat → List Nat → List Nat
  | _, [] => []
  | j, b :: bs => Nat.xor b (aesEnc key (ivBlock iv j)) :: ctrBlocks key iv (j + 1) bs

/-- GCM: the tag over an AAD and a ciphertext. -/
def gcmTag (key iv : Nat) (aad : List Byte) (cipher : List Nat) : Nat :=
  let h := aesEnc key 0
  let g := ghashBlocks h (ghashBlocks h 0 (blocksOf aad)) cipher
  Nat.xor (ghashMul (Nat.xor g (ghashLens aad.length (16 * cipher.length))) h) (aesEnc key (ivBlock iv 1))

/-! ### Key wrap (SP 800-38F, KW) -/

/-- One step of the wrap: t counts from 1. -/
def kwStep (key t : Nat) (a : Nat) (r : List Nat) : Nat × List Nat :=
  match r with
  | [] => (a, [])
  | x :: rest =>
    let b := aesEnc key (a * 2 ^ 64 + x)
    (Nat.xor (b / 2 ^ 64) t, rest ++ [b % 2 ^ 64])

/-- `n` steps of the wrap from step `t`. -/
def kwSteps (key : Nat) : Nat → Nat → Nat → List Nat → Nat × List Nat
  | 0, _, a, r => (a, r)
  | n + 1, t, a, r => let p := kwStep key t a r; kwSteps key n (t + 1) p.1 p.2

/-- KW of 64-bit semiblocks: one more semiblock results. -/
def kwWrap (key : Nat) (p : List Nat) : List Nat :=
  let q := kwSteps key (6 * p.length) 1 0xA6A6A6A6A6A6A6A6 p
  q.1 :: q.2

/-- `n` steps of the unwrap, from step `n` down. -/
def kwBack (key : Nat) : Nat → Nat → List Nat → Nat × List Nat
  | 0, a, r => (a, r)
  | n + 1, a, r =>
    let b := aesDec key (Nat.xor a (n + 1) * 2 ^ 64 + r.getLastD 0)
    kwBack key n (b / 2 ^ 64) (b % 2 ^ 64 :: r.dropLast)

/-- KW unwrap: the semiblocks, or none where the integrity check fails. -/
def kwUnwrap (key : Nat) (c : List Nat) : Option (List Nat) :=
  match c with
  | [] => none
  | a :: r =>
    let q := kwBack key (6 * r.length) a r
    if q.1 = 0xA6A6A6A6A6A6A6A6 then some q.2 else none

/-- A byte string as 64-bit semiblocks, and back. -/
def semiblocks (bs : List Byte) : List Nat := (List.range (bs.length / 8)).map fun k => fieldBytes bs (8 * k) 8
def semibytes (xs : List Nat) : List Byte := xs.flatMap (natBytes 8)

end Sys2Proof.Machine
end

