-- ==== Sys2Proof/Config.lean ====
section
/-!
DEFINITION. What the spec leaves open: values with no body, of which nothing can be proved, and figures that an
implementation or an agreement outside the spec fixes.
-/

namespace Sys2Proof

/-- A value that the spec leaves open where the device goes on: the k-th free value (log entry 2). -/
opaque Config.freeValue : Nat → BitVec 512

/-- R139: the constant latency in ps of the decoder (false) or encoder (true) of the 400ZR (1) or 800ZR (2) agreement. -/
opaque Config.zrLatency : Bool → Nat → BitVec 32

/-- R117: the frame period in fs of the 400ZR (1) or 800ZR (2) agreement, which the spec takes from the agreement. -/
opaque Config.zrPeriodFs : Nat → BitVec 32

/-- R425, R444, R465: the serial number that this device carries. -/
opaque Config.serial : BitVec 64

/-- R328: the Cornerstone signing key of this device, which never leaves its die, and Peldoron's endorsement of it. -/
opaque Config.cstKey : BitVec 512
opaque Config.cstEndorsement : BitVec 1056

/-- R455: the identity key of this device, which is never output, and Peldoron's endorsement of it. -/
opaque Config.identityKey : BitVec 512
opaque Config.identityEndorsement : BitVec 1056

/-- R445: the fused hash of Peldoron's root key, which Peldoron publishes. -/
opaque Config.rootHash : BitVec 512

/-- R444: what Quarry's image banks hold as the device is delivered, by 2 × KIND + bank. -/
opaque Config.deliveredImage : Nat → List (BitVec 8)

/-- R59, R60: the gain, offset and skew corrections that a spare slice loads: of the values in force of item ASH (R355), the
half of CONV_SPARE and the position it takes. -/
opaque Config.spareCorrection : (ash : List (Int × Nat)) → (half pos : Nat) → List Int

/-- R69: the soft symbol decisions of a group of ADC codes: of the calibration values in force of the lane's domain, the
parameters of the stages in force, the coefficients of nonlinear compensation in the path, the equaliser's taps, the codes of
the group before, and the codes. -/
opaque Config.softDecisions :
  (cal : List (Nat × List (Int × Nat))) → (stages : List Int) → (nlc : List (BitVec 32)) → (taps : List Int) →
  (before codes : List (List (BitVec 8))) → List Int

/-- R69, R76: the equaliser's taps after it has adapted on a group: of the stages' parameters, the taps, the codes of the group
before, and the codes. -/
opaque Config.adaptTaps :
  (stages taps : List Int) → (before codes : List (List (BitVec 8))) → List Int

/-- R92: the taps interpolated anew from one symbol rate to another, both in 1/32 GBd. -/
opaque Config.tapsAtRate : (old new : Nat) → (taps : List Int) → List Int

/-- R86, R97: the centre of mass of the taps in fs, and the mean DGD that they show in 0.01 ps. -/
opaque Config.tapsDelay : (taps : List Int) → Int
opaque Config.tapsDgd : (taps : List Int) → Nat

/-- R87: the coefficients of nonlinear compensation: of the words of the span table and of NLC_CFG. -/
opaque Config.nlcCoefficients : (spans : List (BitVec 32)) → (cfg : BitVec 32) → List (BitVec 32)

/-- R243: how far in ps the nearest edge or pulse of a reference lies from the output, at a PLU cycle. -/
opaque Config.edgeGap : (clk ref : Nat) → Int

/-- R260: the proportional-integral loop of a servo: of BW, the integral part in 10^-13 and the mean offset in units of
1.6 × 10^-22 s, the proportional and the new integral part in 10^-13. -/
opaque Config.servoLoop : (bw : Nat) → (integ mean : Int) → Int × Int

/-- R317: the servo of TB3, of 0.1 Hz: of the integral part in 10^-13 and the offset in units of 1.6 × 10^-22 s, the
proportional and the new integral part in 10^-13. -/
opaque Config.cstLoop : (integ ofs : Int) → Int × Int

/-- R273: which of the two destination addresses of the profile a port uses: the forwardable one, 01-1B-19-00-00-00. -/
opaque Config.ptpForwardable : (port : Nat) → Bool

/-- R109: what the transmitted spectrum departs from the root-raised-cosine shape, in 0.01 dB above −0.5 dB: of ROLLOFF, the
symbol rate in 1/32 GBd, and the frequency in MHz; it acts up to 1 dB, so within ±0.5 dB. -/
opaque Config.pulseRipple : (rolloff rate mhz : Nat) → Nat

/-- R117: the symbol rate of the 800ZR agreement in 1/32 GBd, which the spec takes from the agreement. -/
opaque Config.zrRate : BitVec 16

/-- R117, R167: the symbols of a frame of the 400ZR (1) or 800ZR (2) agreement that carries client frames and the agreement's
backward defect indication; amplitudes ±1 and ±3. -/
opaque Config.zrSymbols : (family : Nat) → (frames : List (List (BitVec 8))) → (bdi : Bool) → List (Int × Int × Int × Int)

/-- R285: the phase at which a Keystone packet begins, in 2^-16 turns, by the PLU cycle of its start. -/
opaque Config.ksPhase : Nat → Nat

/-- R290, R291: the information bits that the decoder of the Keystone code finds in the soft values of a block. -/
opaque Config.ksDecode : (soft : List Int) → List Bool

/-- R111: the inverse of the DAC and driver response at a frequency in MHz, in units of 0.02 dB ÷ 5,625: of the values in
force of item DACLIN (R355). -/
opaque Config.dacBoost : (daclin : List (Int × Nat)) → (mhz : Nat) → Int

/-- R111, R112: a group after pre-emphasis and pre-compensation: of the boost by frequency, in the unit above, the skew, gain
and phase of X and of Y, the XY skew, the group before it, and the group. -/
opaque Config.precompensate :
  (boost : Nat → Int) → (x y : Int × Int × Int) → (xy : Int) → (before group : List (List Int)) → List (List Int)

/-- R138, R139: the bits of a codeword of the 400ZR (1) or 800ZR (2) agreement, over which its pre-FEC BER is taken. -/
opaque Config.zrCodewordBits : Nat → BitVec 32

end Sys2Proof
end

