-- ==== Sys2Proof/Machine/RegAddr.lean ====
section
/-!
DEFINITION. The BAR0 address of every register of the device and the place of every named field of it, from the
register tables of spec/ (R67, R98, R121, R140, R168, R188, R207, R232, R253, R283, R308, R331, R353, R371, R388,
R441, R465) over the block bases of R426.  An address function is named `a` and the register's name of the spec, a
field `f`, the register's name and the field's name; index arguments stand in the order of the table (lane first).
-/

namespace Sys2Proof.Machine

/-- A field: the word address of its register, its lowest bit and its width. -/
structure Fld where
  addr : Nat
  lo : Nat
  len : Nat
deriving DecidableEq, Repr

/-- R426: the base of lane `n`. -/
def laneBase (n : Nat) : Nat := 0x1000000 + 0x200000 * n

/-! ### CONV (02_line_converters.md, R67) -/

def aCONV_ID (n : Nat) : Nat := 0x0 + laneBase n
def fCONV_ID_DIE (n : Nat) : Fld := ⟨aCONV_ID n, 0, 2⟩
def fCONV_ID_LANE_IN_DIE (n : Nat) : Fld := ⟨aCONV_ID n, 2, 1⟩
def fCONV_ID_REV (n : Nat) : Fld := ⟨aCONV_ID n, 16, 8⟩
def aCONV_CTRL (n : Nat) : Nat := 0x4 + laneBase n
def fCONV_CTRL_ADC_EN (n : Nat) : Fld := ⟨aCONV_CTRL n, 0, 1⟩
def fCONV_CTRL_DAC_EN (n : Nat) : Fld := ⟨aCONV_CTRL n, 1, 1⟩
def fCONV_CTRL_DAC_MUTE (n : Nat) : Fld := ⟨aCONV_CTRL n, 2, 1⟩
def fCONV_CTRL_TRIM_HOLD (n : Nat) : Fld := ⟨aCONV_CTRL n, 3, 1⟩
def aCONV_STATE (n : Nat) : Nat := 0x8 + laneBase n
def fCONV_STATE_ADC_STATE (n : Nat) : Fld := ⟨aCONV_STATE n, 0, 3⟩
def fCONV_STATE_DAC_STATE (n : Nat) : Fld := ⟨aCONV_STATE n, 4, 3⟩
def fCONV_STATE_RXSYN_LOCK (n : Nat) : Fld := ⟨aCONV_STATE n, 8, 1⟩
def fCONV_STATE_TXSYN_LOCK (n : Nat) : Fld := ⟨aCONV_STATE n, 9, 1⟩
def fCONV_STATE_TRIM_LIM (n : Nat) : Fld := ⟨aCONV_STATE n, 10, 1⟩
def fCONV_STATE_REF_OK (n : Nat) : Fld := ⟨aCONV_STATE n, 11, 1⟩
def fCONV_STATE_OVR_NOW (n : Nat) : Fld := ⟨aCONV_STATE n, 12, 4⟩
def aCONV_ALARM (n : Nat) : Nat := 0xc + laneBase n
def fCONV_ALARM_OVR (n : Nat) : Fld := ⟨aCONV_ALARM n, 0, 4⟩
def fCONV_ALARM_RXSYN_UNLOCK (n : Nat) : Fld := ⟨aCONV_ALARM n, 4, 1⟩
def fCONV_ALARM_TXSYN_UNLOCK (n : Nat) : Fld := ⟨aCONV_ALARM n, 5, 1⟩
def fCONV_ALARM_TRIM_LIM (n : Nat) : Fld := ⟨aCONV_ALARM n, 6, 1⟩
def fCONV_ALARM_REF_LOSS (n : Nat) : Fld := ⟨aCONV_ALARM n, 7, 1⟩
def fCONV_ALARM_TAKEOVER_ABORT (n : Nat) : Fld := ⟨aCONV_ALARM n, 8, 1⟩
def fCONV_ALARM_CAP_DONE (n : Nat) : Fld := ⟨aCONV_ALARM n, 9, 1⟩
def fCONV_ALARM_RETIRE_REFUSED (n : Nat) : Fld := ⟨aCONV_ALARM n, 10, 1⟩
def aCONV_ALARM_EN (n : Nat) : Nat := 0x10 + laneBase n
def aCONV_RXSYN_TRIM (n : Nat) : Nat := 0x14 + laneBase n
def aCONV_RX_LAT (n : Nat) : Nat := 0x18 + laneBase n
def aCONV_TX_LAT (n : Nat) : Nat := 0x1c + laneBase n
def aCONV_SPARE (n i : Nat) : Nat := 0x20 + 0x4 * i + laneBase n
def fCONV_SPARE_STANDIN (n i : Nat) : Fld := ⟨aCONV_SPARE n i, 0, 7⟩
def fCONV_SPARE_MODE (n i : Nat) : Fld := ⟨aCONV_SPARE n i, 8, 2⟩
def fCONV_SPARE_SHADOW (n i : Nat) : Fld := ⟨aCONV_SPARE n i, 10, 1⟩
def fCONV_SPARE_RETIRE (n i : Nat) : Fld := ⟨aCONV_SPARE n i, 16, 7⟩
def aCONV_OVR_CNT (n i : Nat) : Nat := 0x80 + 0x8 * i + laneBase n
def aCONV_RMS (n i : Nat) : Nat := 0xa0 + 0x4 * i + laneBase n
def aCONV_CAP_CTRL (n : Nat) : Nat := 0x100 + laneBase n
def fCONV_CAP_CTRL_ARM (n : Nat) : Fld := ⟨aCONV_CAP_CTRL n, 0, 1⟩
def fCONV_CAP_CTRL_FIRE (n : Nat) : Fld := ⟨aCONV_CAP_CTRL n, 1, 1⟩
def fCONV_CAP_CTRL_TRIG (n : Nat) : Fld := ⟨aCONV_CAP_CTRL n, 2, 2⟩
def fCONV_CAP_CTRL_SRC (n : Nat) : Fld := ⟨aCONV_CAP_CTRL n, 4, 1⟩
def fCONV_CAP_CTRL_OVR_CH (n : Nat) : Fld := ⟨aCONV_CAP_CTRL n, 8, 4⟩
def fCONV_CAP_CTRL_PRE (n : Nat) : Fld := ⟨aCONV_CAP_CTRL n, 16, 7⟩
def aCONV_CAP_STATUS (n : Nat) : Nat := 0x104 + laneBase n
def fCONV_CAP_STATUS_ARMED (n : Nat) : Fld := ⟨aCONV_CAP_STATUS n, 0, 1⟩
def fCONV_CAP_STATUS_DONE (n : Nat) : Fld := ⟨aCONV_CAP_STATUS n, 1, 1⟩
def fCONV_CAP_STATUS_VLD_ALL (n : Nat) : Fld := ⟨aCONV_CAP_STATUS n, 2, 1⟩
def fCONV_CAP_STATUS_CFG_ERR (n : Nat) : Fld := ⟨aCONV_CAP_STATUS n, 3, 1⟩
def fCONV_CAP_STATUS_COUNT (n : Nat) : Fld := ⟨aCONV_CAP_STATUS n, 16, 16⟩
def aCONV_CAP_TS (n : Nat) : Nat := 0x108 + laneBase n
def aCONV_CAP_FLAGS (n i j : Nat) : Nat := 0x10000 + 0x20 * i + 0x4 * j + laneBase n
def aCONV_CAP_SAMPLES (n i j : Nat) : Nat := 0x20000 + 0x8000 * i + 0x4 * j + laneBase n
/-! ### RXD (03_receive_dsp.md, R98) -/

def aRXD_CTRL (n : Nat) : Nat := 0x40000 + laneBase n
def fRXD_CTRL_EN (n : Nat) : Fld := ⟨aRXD_CTRL n, 0, 1⟩
def fRXD_CTRL_ACQ_RESTART (n : Nat) : Fld := ⟨aRXD_CTRL n, 1, 1⟩
def fRXD_CTRL_KS_ASSIST (n : Nat) : Fld := ⟨aRXD_CTRL n, 2, 1⟩
def fRXD_CTRL_FMT_SRC (n : Nat) : Fld := ⟨aRXD_CTRL n, 3, 1⟩
def fRXD_CTRL_LO_MODE (n : Nat) : Fld := ⟨aRXD_CTRL n, 4, 2⟩
def fRXD_CTRL_EQ_FREEZE (n : Nat) : Fld := ⟨aRXD_CTRL n, 6, 1⟩
def aRXD_STATE (n : Nat) : Nat := 0x40004 + laneBase n
def fRXD_STATE_STATE (n : Nat) : Fld := ⟨aRXD_STATE n, 0, 4⟩
def fRXD_STATE_LOS (n : Nat) : Fld := ⟨aRXD_STATE n, 4, 1⟩
def fRXD_STATE_WARM (n : Nat) : Fld := ⟨aRXD_STATE n, 5, 1⟩
def fRXD_STATE_TIMING_LOCK (n : Nat) : Fld := ⟨aRXD_STATE n, 6, 1⟩
def fRXD_STATE_LO_LIM (n : Nat) : Fld := ⟨aRXD_STATE n, 7, 1⟩
def fRXD_STATE_NLC_ACTIVE (n : Nat) : Fld := ⟨aRXD_STATE n, 8, 1⟩
def fRXD_STATE_FOLLOWING (n : Nat) : Fld := ⟨aRXD_STATE n, 9, 1⟩
def fRXD_STATE_ASSISTED (n : Nat) : Fld := ⟨aRXD_STATE n, 10, 1⟩
def fRXD_STATE_LO_OWNER (n : Nat) : Fld := ⟨aRXD_STATE n, 12, 2⟩
def fRXD_STATE_POL_SWAP (n : Nat) : Fld := ⟨aRXD_STATE n, 14, 1⟩
def fRXD_STATE_ROT_X (n : Nat) : Fld := ⟨aRXD_STATE n, 16, 2⟩
def fRXD_STATE_ROT_Y (n : Nat) : Fld := ⟨aRXD_STATE n, 18, 2⟩
def aRXD_ALARM (n : Nat) : Nat := 0x40008 + laneBase n
def fRXD_ALARM_LOS (n : Nat) : Fld := ⟨aRXD_ALARM n, 0, 1⟩
def fRXD_ALARM_ACQ_FAIL (n : Nat) : Fld := ⟨aRXD_ALARM n, 1, 1⟩
def fRXD_ALARM_CD_LIM (n : Nat) : Fld := ⟨aRXD_ALARM n, 2, 1⟩
def fRXD_ALARM_FO_RANGE (n : Nat) : Fld := ⟨aRXD_ALARM n, 3, 1⟩
def fRXD_ALARM_LO_LIM (n : Nat) : Fld := ⟨aRXD_ALARM n, 4, 1⟩
def fRXD_ALARM_LO_BUSY (n : Nat) : Fld := ⟨aRXD_ALARM n, 5, 1⟩
def fRXD_ALARM_FMT_MISMATCH (n : Nat) : Fld := ⟨aRXD_ALARM n, 6, 1⟩
def fRXD_ALARM_SLIP (n : Nat) : Fld := ⟨aRXD_ALARM n, 7, 1⟩
def fRXD_ALARM_WARM_FAIL (n : Nat) : Fld := ⟨aRXD_ALARM n, 8, 1⟩
def aRXD_ALARM_EN (n : Nat) : Nat := 0x4000c + laneBase n
def aRXD_SCFG (n : Nat) : Nat := 0x40010 + laneBase n
def fRXD_SCFG_CD_MODE (n : Nat) : Fld := ⟨aRXD_SCFG n, 0, 1⟩
def fRXD_SCFG_NLC_EN (n : Nat) : Fld := ⟨aRXD_SCFG n, 1, 1⟩
def aRXD_CD_FIXED (n : Nat) : Nat := 0x40014 + laneBase n
def aRXD_CD_HINT (n : Nat) : Nat := 0x40018 + laneBase n
def aRXD_EQ_CFG (n : Nat) : Nat := 0x4001c + laneBase n
def fRXD_EQ_CFG_TAPS (n : Nat) : Fld := ⟨aRXD_EQ_CFG n, 0, 8⟩
def fRXD_EQ_CFG_MU (n : Nat) : Fld := ⟨aRXD_EQ_CFG n, 8, 4⟩
def aRXD_CR_CFG (n : Nat) : Nat := 0x40020 + laneBase n
def fRXD_CR_CFG_BW (n : Nat) : Fld := ⟨aRXD_CR_CFG n, 0, 3⟩
def aRXD_CPR_CFG (n : Nat) : Nat := 0x40024 + laneBase n
def fRXD_CPR_CFG_AUTO (n : Nat) : Fld := ⟨aRXD_CPR_CFG n, 0, 1⟩
def fRXD_CPR_CFG_PHASES (n : Nat) : Fld := ⟨aRXD_CPR_CFG n, 1, 2⟩
def fRXD_CPR_CFG_BLOCK (n : Nat) : Fld := ⟨aRXD_CPR_CFG n, 4, 2⟩
def aRXD_LO_CFG (n : Nat) : Nat := 0x40028 + laneBase n
def fRXD_LO_CFG_PERIOD (n : Nat) : Fld := ⟨aRXD_LO_CFG n, 0, 14⟩
def fRXD_LO_CFG_GAIN (n : Nat) : Fld := ⟨aRXD_LO_CFG n, 16, 3⟩
def fRXD_LO_CFG_KS_WAIT (n : Nat) : Fld := ⟨aRXD_LO_CFG n, 24, 6⟩
def aRXD_LO_LIMIT (n : Nat) : Nat := 0x4002c + laneBase n
def fRXD_LO_LIMIT_LIMIT (n : Nat) : Fld := ⟨aRXD_LO_LIMIT n, 0, 16⟩
def fRXD_LO_LIMIT_DEADBAND (n : Nat) : Fld := ⟨aRXD_LO_LIMIT n, 16, 8⟩
def aRXD_LO_HOST (n : Nat) : Nat := 0x40030 + laneBase n
def aRXD_LOS_THR (n : Nat) : Nat := 0x40034 + laneBase n
def fRXD_LOS_THR_THR (n : Nat) : Fld := ⟨aRXD_LOS_THR n, 0, 16⟩
def fRXD_LOS_THR_HYST (n : Nat) : Fld := ⟨aRXD_LOS_THR n, 16, 16⟩
def aRXD_CD_EST (n : Nat) : Nat := 0x40040 + laneBase n
def aRXD_FO_EST (n : Nat) : Nat := 0x40044 + laneBase n
def aRXD_LO_ACC (n : Nat) : Nat := 0x40048 + laneBase n
def aRXD_OSNR (n : Nat) : Nat := 0x4004c + laneBase n
def aRXD_SNR (n : Nat) : Nat := 0x40050 + laneBase n
def aRXD_Q (n : Nat) : Nat := 0x40054 + laneBase n
def aRXD_DGD (n : Nat) : Nat := 0x40058 + laneBase n
def aRXD_SOP_RATE (n : Nat) : Nat := 0x4005c + laneBase n
def aRXD_SOP_PEAK (n : Nat) : Nat := 0x40060 + laneBase n
def aRXD_EQ_DELAY (n : Nat) : Nat := 0x40064 + laneBase n
def aRXD_MET_VALID (n : Nat) : Nat := 0x40068 + laneBase n
def fRXD_MET_VALID_CD (n : Nat) : Fld := ⟨aRXD_MET_VALID n, 0, 1⟩
def fRXD_MET_VALID_FO (n : Nat) : Fld := ⟨aRXD_MET_VALID n, 1, 1⟩
def fRXD_MET_VALID_OSNR (n : Nat) : Fld := ⟨aRXD_MET_VALID n, 2, 1⟩
def fRXD_MET_VALID_SNR (n : Nat) : Fld := ⟨aRXD_MET_VALID n, 3, 1⟩
def fRXD_MET_VALID_Q (n : Nat) : Fld := ⟨aRXD_MET_VALID n, 4, 1⟩
def fRXD_MET_VALID_DGD (n : Nat) : Fld := ⟨aRXD_MET_VALID n, 5, 1⟩
def fRXD_MET_VALID_SOP (n : Nat) : Fld := ⟨aRXD_MET_VALID n, 6, 1⟩
def aRXD_ACQ_TIME (n : Nat) : Nat := 0x4006c + laneBase n
def aRXD_SLIP_CNT (n : Nat) : Nat := 0x40080 + laneBase n
def aRXD_ACQ_CNT (n : Nat) : Nat := 0x40088 + laneBase n
def aRXD_ACQ_FAIL_CNT (n : Nat) : Nat := 0x40090 + laneBase n
def aRXD_LOS_CNT (n : Nat) : Nat := 0x40098 + laneBase n
def aRXD_NLC_CFG (n : Nat) : Nat := 0x400a0 + laneBase n
def fRXD_NLC_CFG_SPANS (n : Nat) : Fld := ⟨aRXD_NLC_CFG n, 0, 6⟩
def fRXD_NLC_CFG_WINDOW (n : Nat) : Fld := ⟨aRXD_NLC_CFG n, 8, 6⟩
def aRXD_RX_FMT (n : Nat) : Nat := 0x400b0 + laneBase n
def fRXD_RX_FMT_FAMILY (n : Nat) : Fld := ⟨aRXD_RX_FMT n, 0, 2⟩
def fRXD_RX_FMT_QAM (n : Nat) : Fld := ⟨aRXD_RX_FMT n, 4, 3⟩
def fRXD_RX_FMT_FEC (n : Nat) : Fld := ⟨aRXD_RX_FMT n, 8, 3⟩
def fRXD_RX_FMT_ENT (n : Nat) : Fld := ⟨aRXD_RX_FMT n, 16, 9⟩
def aRXD_RX_RATE (n : Nat) : Nat := 0x400b4 + laneBase n
def fRXD_RX_RATE_RATE (n : Nat) : Fld := ⟨aRXD_RX_RATE n, 0, 12⟩
def fRXD_RX_RATE_SLOTS (n : Nat) : Fld := ⟨aRXD_RX_RATE n, 16, 8⟩
def aRXD_RX_PULSE (n : Nat) : Nat := 0x400b8 + laneBase n
def fRXD_RX_PULSE_ROLLOFF (n : Nat) : Fld := ⟨aRXD_RX_PULSE n, 0, 5⟩
def aRXD_NLC_SPAN (n i j : Nat) : Nat := 0x40100 + 0x20 * i + 0x4 * j + laneBase n
/-! ### TXD (04_transmit_and_formats.md, R121) -/

def aTXD_CTRL (n : Nat) : Nat := 0x80000 + laneBase n
def fTXD_CTRL_EN (n : Nat) : Fld := ⟨aTXD_CTRL n, 0, 1⟩
def fTXD_CTRL_MODE (n : Nat) : Fld := ⟨aTXD_CTRL n, 1, 1⟩
def aTXD_STATE (n : Nat) : Nat := 0x80004 + laneBase n
def fTXD_STATE_STATE (n : Nat) : Fld := ⟨aTXD_STATE n, 0, 2⟩
def fTXD_STATE_FAMILY (n : Nat) : Fld := ⟨aTXD_STATE n, 2, 2⟩
def fTXD_STATE_COUNTDOWN (n : Nat) : Fld := ⟨aTXD_STATE n, 4, 4⟩
def fTXD_STATE_QAM (n : Nat) : Fld := ⟨aTXD_STATE n, 8, 3⟩
def fTXD_STATE_KS_ON (n : Nat) : Fld := ⟨aTXD_STATE n, 12, 1⟩
def aTXD_ALARM (n : Nat) : Nat := 0x80008 + laneBase n
def fTXD_ALARM_CLIP (n : Nat) : Fld := ⟨aTXD_ALARM n, 0, 1⟩
def fTXD_ALARM_KS_LOST (n : Nat) : Fld := ⟨aTXD_ALARM n, 1, 1⟩
def fTXD_ALARM_FAMILY_SWITCH (n : Nat) : Fld := ⟨aTXD_ALARM n, 2, 1⟩
def aTXD_ALARM_EN (n : Nat) : Nat := 0x8000c + laneBase n
def aTXD_FMT (n : Nat) : Nat := 0x80010 + laneBase n
def fTXD_FMT_FAMILY (n : Nat) : Fld := ⟨aTXD_FMT n, 0, 2⟩
def fTXD_FMT_QAM (n : Nat) : Fld := ⟨aTXD_FMT n, 4, 3⟩
def fTXD_FMT_FEC (n : Nat) : Fld := ⟨aTXD_FMT n, 8, 3⟩
def fTXD_FMT_ENT (n : Nat) : Fld := ⟨aTXD_FMT n, 16, 9⟩
def aTXD_RATE (n : Nat) : Nat := 0x80014 + laneBase n
def fTXD_RATE_RATE (n : Nat) : Fld := ⟨aTXD_RATE n, 0, 12⟩
def fTXD_RATE_SLOTS (n : Nat) : Fld := ⟨aTXD_RATE n, 16, 8⟩
def aTXD_PULSE (n : Nat) : Nat := 0x80018 + laneBase n
def fTXD_PULSE_ROLLOFF (n : Nat) : Fld := ⟨aTXD_PULSE n, 0, 5⟩
def aTXD_LEVEL (n : Nat) : Nat := 0x8001c + laneBase n
def fTXD_LEVEL_RMS (n : Nat) : Fld := ⟨aTXD_LEVEL n, 0, 11⟩
def aTXD_KS (n : Nat) : Nat := 0x80020 + laneBase n
def fTXD_KS_EN (n : Nat) : Fld := ⟨aTXD_KS n, 0, 1⟩
def fTXD_KS_LEVEL (n : Nat) : Fld := ⟨aTXD_KS n, 8, 6⟩
def aTXD_PREEMP_CTRL (n : Nat) : Nat := 0x80024 + laneBase n
def fTXD_PREEMP_CTRL_CAL_EN (n : Nat) : Fld := ⟨aTXD_PREEMP_CTRL n, 0, 1⟩
def fTXD_PREEMP_CTRL_HOST_EN (n : Nat) : Fld := ⟨aTXD_PREEMP_CTRL n, 1, 1⟩
def aTXD_IQ_X (n : Nat) : Nat := 0x80028 + laneBase n
def fTXD_IQ_X_SKEW (n : Nat) : Fld := ⟨aTXD_IQ_X n, 0, 16⟩
def fTXD_IQ_X_GAIN (n : Nat) : Fld := ⟨aTXD_IQ_X n, 16, 8⟩
def fTXD_IQ_X_PHASE (n : Nat) : Fld := ⟨aTXD_IQ_X n, 24, 8⟩
def aTXD_IQ_Y (n : Nat) : Nat := 0x8002c + laneBase n
def fTXD_IQ_Y_SKEW (n : Nat) : Fld := ⟨aTXD_IQ_Y n, 0, 16⟩
def fTXD_IQ_Y_GAIN (n : Nat) : Fld := ⟨aTXD_IQ_Y n, 16, 8⟩
def fTXD_IQ_Y_PHASE (n : Nat) : Fld := ⟨aTXD_IQ_Y n, 24, 8⟩
def aTXD_XY_SKEW (n : Nat) : Nat := 0x80030 + laneBase n
def aTXD_CAP_RATE (n : Nat) : Nat := 0x80040 + laneBase n
def aTXD_LF_SYM (n : Nat) : Nat := 0x80044 + laneBase n
def aTXD_ESS_BOUND (n : Nat) : Nat := 0x80048 + laneBase n
def aTXD_COURSE (n : Nat) : Nat := 0x8004c + laneBase n
def aTXD_CLIP_CNT (n : Nat) : Nat := 0x80050 + laneBase n
def aTXD_LF_CNT (n : Nat) : Nat := 0x80058 + laneBase n
def aTXD_PREEMP (n i : Nat) : Nat := 0x80100 + 0x4 * i + laneBase n
/-! ### FEC (05_fec.md, R140) -/

def aFEC_CTRL (n : Nat) : Nat := 0xa0000 + laneBase n
def fFEC_CTRL_OUTER_DEC (n : Nat) : Fld := ⟨aFEC_CTRL n, 0, 1⟩
def fFEC_CTRL_EARLY_STOP (n : Nat) : Fld := ⟨aFEC_CTRL n, 1, 1⟩
def aFEC_STATE (n : Nat) : Nat := 0xa0004 + laneBase n
def fFEC_STATE_STATE (n : Nat) : Fld := ⟨aFEC_STATE n, 0, 2⟩
def fFEC_STATE_ZR (n : Nat) : Fld := ⟨aFEC_STATE n, 2, 1⟩
def fFEC_STATE_FEC_RX (n : Nat) : Fld := ⟨aFEC_STATE n, 4, 3⟩
def fFEC_STATE_FEC_TX (n : Nat) : Fld := ⟨aFEC_STATE n, 8, 3⟩
def fFEC_STATE_ITER_AVAIL (n : Nat) : Fld := ⟨aFEC_STATE n, 16, 5⟩
def aFEC_ALARM (n : Nat) : Nat := 0xa0008 + laneBase n
def fFEC_ALARM_INNER_FAIL (n : Nat) : Fld := ⟨aFEC_ALARM n, 0, 1⟩
def fFEC_ALARM_UNCORR (n : Nat) : Fld := ⟨aFEC_ALARM n, 1, 1⟩
def fFEC_ALARM_TRUNC (n : Nat) : Fld := ⟨aFEC_ALARM n, 2, 1⟩
def fFEC_ALARM_OBP_ERR (n : Nat) : Fld := ⟨aFEC_ALARM n, 3, 1⟩
def fFEC_ALARM_BYPASS (n : Nat) : Fld := ⟨aFEC_ALARM n, 4, 1⟩
def aFEC_ALARM_EN (n : Nat) : Nat := 0xa000c + laneBase n
def aFEC_ITER (n : Nat) : Nat := 0xa0010 + laneBase n
def fFEC_ITER_ITER_MAX (n : Nat) : Fld := ⟨aFEC_ITER n, 0, 5⟩
def aFEC_OCFG (n : Nat) : Nat := 0xa0014 + laneBase n
def fFEC_OCFG_WIN (n : Nat) : Fld := ⟨aFEC_OCFG n, 0, 4⟩
def fFEC_OCFG_PASSES (n : Nat) : Fld := ⟨aFEC_OCFG n, 8, 3⟩
def aFEC_RX_LAT (n : Nat) : Nat := 0xa0018 + laneBase n
def aFEC_TX_LAT (n : Nat) : Nat := 0xa001c + laneBase n
def aFEC_K (n : Nat) : Nat := 0xa0020 + laneBase n
def aFEC_OBP (n : Nat) : Nat := 0xa0024 + laneBase n
def fFEC_OBP_LAST (n : Nat) : Fld := ⟨aFEC_OBP n, 0, 8⟩
def fFEC_OBP_PHASE (n : Nat) : Fld := ⟨aFEC_OBP n, 8, 8⟩
def aFEC_ITER_PEAK (n : Nat) : Nat := 0xa0028 + laneBase n
def aFEC_CNT (n i : Nat) : Nat := 0xa0080 + 0x8 * i + laneBase n
/-! ### LFR (06_line_framing.md, R168) -/

def aLFR_CTRL (n : Nat) : Nat := 0xc0000 + laneBase n
def fLFR_CTRL_BDI_INH (n : Nat) : Fld := ⟨aLFR_CTRL n, 0, 1⟩
def fLFR_CTRL_AIS_INH (n : Nat) : Fld := ⟨aLFR_CTRL n, 1, 1⟩
def fLFR_CTRL_MCC_EN (n : Nat) : Fld := ⟨aLFR_CTRL n, 2, 1⟩
def fLFR_CTRL_PSF_AUTO (n : Nat) : Fld := ⟨aLFR_CTRL n, 3, 1⟩
def aLFR_STATE (n : Nat) : Nat := 0xc0004 + laneBase n
def fLFR_STATE_ALIGN (n : Nat) : Fld := ⟨aLFR_STATE n, 0, 2⟩
def fLFR_STATE_VERIFY (n : Nat) : Fld := ⟨aLFR_STATE n, 2, 1⟩
def fLFR_STATE_MF_LOCK (n : Nat) : Fld := ⟨aLFR_STATE n, 3, 1⟩
def fLFR_STATE_CAND (n : Nat) : Fld := ⟨aLFR_STATE n, 4, 3⟩
def fLFR_STATE_LOS (n : Nat) : Fld := ⟨aLFR_STATE n, 8, 1⟩
def fLFR_STATE_LOF (n : Nat) : Fld := ⟨aLFR_STATE n, 9, 1⟩
def fLFR_STATE_LOM (n : Nat) : Fld := ⟨aLFR_STATE n, 10, 1⟩
def fLFR_STATE_SD (n : Nat) : Fld := ⟨aLFR_STATE n, 11, 1⟩
def fLFR_STATE_RBDI (n : Nat) : Fld := ⟨aLFR_STATE n, 12, 1⟩
def fLFR_STATE_TX_SBDI (n : Nat) : Fld := ⟨aLFR_STATE n, 13, 1⟩
def fLFR_STATE_PSF_SLOW (n : Nat) : Fld := ⟨aLFR_STATE n, 14, 1⟩
def fLFR_STATE_COURSE_MISMATCH (n : Nat) : Fld := ⟨aLFR_STATE n, 15, 1⟩
def fLFR_STATE_CDN_RX (n : Nat) : Fld := ⟨aLFR_STATE n, 16, 4⟩
def fLFR_STATE_MFAS (n : Nat) : Fld := ⟨aLFR_STATE n, 24, 8⟩
def aLFR_ALARM (n : Nat) : Nat := 0xc0008 + laneBase n
def fLFR_ALARM_LOS (n : Nat) : Fld := ⟨aLFR_ALARM n, 0, 1⟩
def fLFR_ALARM_LOF (n : Nat) : Fld := ⟨aLFR_ALARM n, 1, 1⟩
def fLFR_ALARM_LOM (n : Nat) : Fld := ⟨aLFR_ALARM n, 2, 1⟩
def fLFR_ALARM_SD (n : Nat) : Fld := ⟨aLFR_ALARM n, 3, 1⟩
def fLFR_ALARM_RBDI (n : Nat) : Fld := ⟨aLFR_ALARM n, 4, 1⟩
def fLFR_ALARM_FALSE_SYNC (n : Nat) : Fld := ⟨aLFR_ALARM n, 5, 1⟩
def fLFR_ALARM_CAND_OVF (n : Nat) : Fld := ⟨aLFR_ALARM n, 6, 1⟩
def fLFR_ALARM_JC_ERR (n : Nat) : Fld := ⟨aLFR_ALARM n, 7, 1⟩
def fLFR_ALARM_PAIS (n : Nat) : Fld := ⟨aLFR_ALARM n, 8, 1⟩
def fLFR_ALARM_PBDI (n : Nat) : Fld := ⟨aLFR_ALARM n, 9, 1⟩
def fLFR_ALARM_SSIM (n : Nat) : Fld := ⟨aLFR_ALARM n, 10, 1⟩
def fLFR_ALARM_PSF_NEW (n : Nat) : Fld := ⟨aLFR_ALARM n, 11, 1⟩
def fLFR_ALARM_BRIDGE_REFUSED (n : Nat) : Fld := ⟨aLFR_ALARM n, 12, 1⟩
def fLFR_ALARM_BRIDGE_REL (n : Nat) : Fld := ⟨aLFR_ALARM n, 13, 1⟩
def fLFR_ALARM_COURSE_MISMATCH (n : Nat) : Fld := ⟨aLFR_ALARM n, 14, 1⟩
def fLFR_ALARM_MCC_DROP (n : Nat) : Fld := ⟨aLFR_ALARM n, 15, 1⟩
def aLFR_ALARM_EN (n : Nat) : Nat := 0xc000c + laneBase n
def aLFR_ALIGN_CFG (n : Nat) : Nat := 0xc0010 + laneBase n
def fLFR_ALIGN_CFG_THR (n : Nat) : Fld := ⟨aLFR_ALIGN_CFG n, 0, 8⟩
def aLFR_SD_CFG (n : Nat) : Nat := 0xc0014 + laneBase n
def fLFR_SD_CFG_WIN (n : Nat) : Fld := ⟨aLFR_SD_CFG n, 0, 8⟩
def fLFR_SD_CFG_THR (n : Nat) : Fld := ⟨aLFR_SD_CFG n, 16, 16⟩
def aLFR_PSF_TX (n : Nat) : Nat := 0xc0018 + laneBase n
def fLFR_PSF_TX_REQ_SIG (n : Nat) : Fld := ⟨aLFR_PSF_TX n, 0, 4⟩
def fLFR_PSF_TX_REQ (n : Nat) : Fld := ⟨aLFR_PSF_TX n, 4, 4⟩
def fLFR_PSF_TX_BRIDGED (n : Nat) : Fld := ⟨aLFR_PSF_TX n, 8, 4⟩
def fLFR_PSF_TX_SEQ (n : Nat) : Fld := ⟨aLFR_PSF_TX n, 16, 8⟩
def aLFR_PSF_RX (n : Nat) : Nat := 0xc001c + laneBase n
def aLFR_COURSE_RX (n : Nat) : Nat := 0xc0020 + laneBase n
def aLFR_COURSE_FAR (n : Nat) : Nat := 0xc0024 + laneBase n
def aLFR_PSF_BR (n i : Nat) : Nat := 0xc0044 + 0x4 * i + laneBase n
def fLFR_PSF_BR_SRC_LANE (n i : Nat) : Fld := ⟨aLFR_PSF_BR n i, 0, 3⟩
def fLFR_PSF_BR_SRC_SLOT (n i : Nat) : Fld := ⟨aLFR_PSF_BR n i, 8, 7⟩
def fLFR_PSF_BR_DST_SLOT (n i : Nat) : Fld := ⟨aLFR_PSF_BR n i, 16, 7⟩
def fLFR_PSF_BR_COUNT (n i : Nat) : Fld := ⟨aLFR_PSF_BR n i, 24, 8⟩
def aLFR_CNT (n i : Nat) : Nat := 0xc0080 + 0x8 * i + laneBase n
def aLFR_SLOT (n i : Nat) : Nat := 0xc0400 + 0x4 * i + laneBase n
def fLFR_SLOT_PAIS (n i : Nat) : Fld := ⟨aLFR_SLOT n i, 0, 1⟩
def fLFR_SLOT_PBDI (n i : Nat) : Fld := ⟨aLFR_SLOT n i, 1, 1⟩
def fLFR_SLOT_SSIM (n i : Nat) : Fld := ⟨aLFR_SLOT n i, 2, 1⟩
def fLFR_SLOT_AIS_OUT (n i : Nat) : Fld := ⟨aLFR_SLOT n i, 3, 1⟩
def fLFR_SLOT_PBDI_TX (n i : Nat) : Fld := ⟨aLFR_SLOT n i, 4, 1⟩
def fLFR_SLOT_PAIS_TX (n i : Nat) : Fld := ⟨aLFR_SLOT n i, 5, 1⟩
def fLFR_SLOT_BRIDGED (n i : Nat) : Fld := ⟨aLFR_SLOT n i, 6, 1⟩
def fLFR_SLOT_RX_HEAD (n i : Nat) : Fld := ⟨aLFR_SLOT n i, 8, 7⟩
def fLFR_SLOT_RX_USED (n i : Nat) : Fld := ⟨aLFR_SLOT n i, 15, 1⟩
def fLFR_SLOT_RX_TYPE (n i : Nat) : Fld := ⟨aLFR_SLOT n i, 16, 8⟩
def aLFR_PBIP (n i : Nat) : Nat := 0xc0800 + 0x10 * i + laneBase n
def aLFR_PBEI (n i : Nat) : Nat := 0xc0808 + 0x10 * i + laneBase n
/-! ### PMON (07_performance_monitoring.md, R188) -/

def aPMON_CTRL (n : Nat) : Nat := 0xe0000 + laneBase n
def fPMON_CTRL_EN (n : Nat) : Fld := ⟨aPMON_CTRL n, 0, 1⟩
def fPMON_CTRL_CLR_CUR (n : Nat) : Fld := ⟨aPMON_CTRL n, 1, 1⟩
def fPMON_CTRL_TRIB_EN (n : Nat) : Fld := ⟨aPMON_CTRL n, 2, 1⟩
def aPMON_CFG (n : Nat) : Nat := 0xe0004 + laneBase n
def fPMON_CFG_SES_PCT (n : Nat) : Fld := ⟨aPMON_CFG n, 0, 6⟩
def aPMON_STATUS (n : Nat) : Nat := 0xe0008 + laneBase n
def fPMON_STATUS_SEC_UAS (n : Nat) : Fld := ⟨aPMON_STATUS n, 0, 1⟩
def fPMON_STATUS_SEC_FE_UAS (n : Nat) : Fld := ⟨aPMON_STATUS n, 1, 1⟩
def fPMON_STATUS_SEC_EXISTS (n : Nat) : Fld := ⟨aPMON_STATUS n, 2, 1⟩
def fPMON_STATUS_GAUGE_OSNR (n : Nat) : Fld := ⟨aPMON_STATUS n, 3, 1⟩
def fPMON_STATUS_GAUGE_Q (n : Nat) : Fld := ⟨aPMON_STATUS n, 4, 1⟩
def fPMON_STATUS_GAUGE_DGD (n : Nat) : Fld := ⟨aPMON_STATUS n, 5, 1⟩
def fPMON_STATUS_GAUGE_SOP (n : Nat) : Fld := ⟨aPMON_STATUS n, 6, 1⟩
def fPMON_STATUS_LOG_NEXT (n : Nat) : Fld := ⟨aPMON_STATUS n, 8, 6⟩
def aPMON_ALARM (n : Nat) : Nat := 0xe000c + laneBase n
def fPMON_ALARM_TCA (n : Nat) : Fld := ⟨aPMON_ALARM n, 0, 1⟩
def fPMON_ALARM_UAS (n : Nat) : Fld := ⟨aPMON_ALARM n, 1, 1⟩
def fPMON_ALARM_SUSPECT (n : Nat) : Fld := ⟨aPMON_ALARM n, 2, 1⟩
def aPMON_ALARM_EN (n : Nat) : Nat := 0xe0010 + laneBase n
def aPMON_SECOND (n : Nat) : Nat := 0xe0014 + laneBase n
def aPMON_SEL (n : Nat) : Nat := 0xe0020 + laneBase n
def fPMON_SEL_TYPE (n : Nat) : Fld := ⟨aPMON_SEL n, 0, 2⟩
def fPMON_SEL_INDEX (n : Nat) : Fld := ⟨aPMON_SEL n, 8, 7⟩
def fPMON_SEL_BIN (n : Nat) : Fld := ⟨aPMON_SEL n, 16, 6⟩
def aPMON_PATH_UAS (n i : Nat) : Nat := 0xe0030 + 0x4 * i + laneBase n
def aPMON_TRIB_UAS (n i : Nat) : Nat := 0xe0040 + 0x4 * i + laneBase n
def aPMON_REC (n i : Nat) : Nat := 0xe0100 + 0x4 * i + laneBase n
def aPMON_TCA_THR (n i : Nat) : Nat := 0xe0200 + 0x4 * i + laneBase n
def aPMON_TCA_GAUGE (n i : Nat) : Nat := 0xe0300 + 0x4 * i + laneBase n
def fPMON_TCA_GAUGE_SET (n i : Nat) : Fld := ⟨aPMON_TCA_GAUGE n i, 0, 16⟩
def fPMON_TCA_GAUGE_CLR (n i : Nat) : Fld := ⟨aPMON_TCA_GAUGE n i, 16, 16⟩
def aPMON_LOG (n i j : Nat) : Nat := 0xe0400 + 0x10 * i + 0x4 * j + laneBase n
/-! ### CLI (08_client_mapping.md, R207) -/

def aCLI_CTRL : Nat := 0x800000
def fCLI_CTRL_A_EN : Fld := ⟨aCLI_CTRL, 0, 1⟩
def fCLI_CTRL_B_EN : Fld := ⟨aCLI_CTRL, 1, 1⟩
def aCLI_STATUS : Nat := 0x800004
def fCLI_STATUS_A_ON : Fld := ⟨aCLI_STATUS, 0, 1⟩
def fCLI_STATUS_B_ON : Fld := ⟨aCLI_STATUS, 1, 1⟩
def fCLI_STATUS_PORTS_UP : Fld := ⟨aCLI_STATUS, 16, 7⟩
def aCLI_ALARM : Nat := 0x800008
def fCLI_ALARM_PORT : Fld := ⟨aCLI_ALARM, 0, 1⟩
def fCLI_ALARM_FLOW_OVF : Fld := ⟨aCLI_ALARM, 1, 1⟩
def fCLI_ALARM_FLEXE : Fld := ⟨aCLI_ALARM, 2, 1⟩
def aCLI_ALARM_EN : Nat := 0x80000c
def aCLI_OCTMODE (i : Nat) : Nat := 0x800010 + 0x4 * i
def aCLI_RCLK_SEL (i : Nat) : Nat := 0x800040 + 0x4 * i
def fCLI_RCLK_SEL_LANE (i : Nat) : Fld := ⟨aCLI_RCLK_SEL i, 0, 7⟩
def fCLI_RCLK_SEL_EN (i : Nat) : Fld := ⟨aCLI_RCLK_SEL i, 7, 1⟩
def aCLI_PORT_CFG (i : Nat) : Nat := 0x801000 + 0x80 * i
def fCLI_PORT_CFG_EN (i : Nat) : Fld := ⟨aCLI_PORT_CFG i, 0, 1⟩
def fCLI_PORT_CFG_TYPE (i : Nat) : Fld := ⟨aCLI_PORT_CFG i, 1, 2⟩
def fCLI_PORT_CFG_CLASS (i : Nat) : Fld := ⟨aCLI_PORT_CFG i, 3, 1⟩
def fCLI_PORT_CFG_RATE (i : Nat) : Fld := ⟨aCLI_PORT_CFG i, 8, 5⟩
def fCLI_PORT_CFG_FIRST_LANE (i : Nat) : Fld := ⟨aCLI_PORT_CFG i, 16, 7⟩
def aCLI_PORT_STATUS (i : Nat) : Nat := 0x801004 + 0x80 * i
def fCLI_PORT_STATUS_STATE (i : Nat) : Fld := ⟨aCLI_PORT_STATUS i, 0, 2⟩
def fCLI_PORT_STATUS_CLOS (i : Nat) : Fld := ⟨aCLI_PORT_STATUS i, 2, 1⟩
def fCLI_PORT_STATUS_CLOA (i : Nat) : Fld := ⟨aCLI_PORT_STATUS i, 3, 1⟩
def fCLI_PORT_STATUS_RF (i : Nat) : Fld := ⟨aCLI_PORT_STATUS i, 4, 1⟩
def fCLI_PORT_STATUS_FAULT_TX (i : Nat) : Fld := ⟨aCLI_PORT_STATUS i, 5, 1⟩
def fCLI_PORT_STATUS_WIDTH (i : Nat) : Fld := ⟨aCLI_PORT_STATUS i, 8, 5⟩
def aCLI_PORT_ALARM (i : Nat) : Nat := 0x801008 + 0x80 * i
def fCLI_PORT_ALARM_CLOS (i : Nat) : Fld := ⟨aCLI_PORT_ALARM i, 0, 1⟩
def fCLI_PORT_ALARM_CLOA (i : Nat) : Fld := ⟨aCLI_PORT_ALARM i, 1, 1⟩
def fCLI_PORT_ALARM_RF (i : Nat) : Fld := ⟨aCLI_PORT_ALARM i, 2, 1⟩
def fCLI_PORT_ALARM_TX_DROP (i : Nat) : Fld := ⟨aCLI_PORT_ALARM i, 3, 1⟩
def fCLI_PORT_ALARM_STOMP (i : Nat) : Fld := ⟨aCLI_PORT_ALARM i, 4, 1⟩
def fCLI_PORT_ALARM_SIZE_DROP (i : Nat) : Fld := ⟨aCLI_PORT_ALARM i, 5, 1⟩
def aCLI_PORT_CNT (i j : Nat) : Nat := 0x801010 + 0x80 * i + 0x8 * j
def aCLI_FLOW_CFG (i : Nat) : Nat := 0x804000 + 0x20 * i
def fCLI_FLOW_CFG_EN (i : Nat) : Fld := ⟨aCLI_FLOW_CFG i, 0, 1⟩
def fCLI_FLOW_CFG_KIND (i : Nat) : Fld := ⟨aCLI_FLOW_CFG i, 1, 1⟩
def fCLI_FLOW_CFG_PORT (i : Nat) : Fld := ⟨aCLI_FLOW_CFG i, 2, 6⟩
def fCLI_FLOW_CFG_FXG (i : Nat) : Fld := ⟨aCLI_FLOW_CFG i, 8, 3⟩
def fCLI_FLOW_CFG_FXC (i : Nat) : Fld := ⟨aCLI_FLOW_CFG i, 11, 5⟩
def fCLI_FLOW_CFG_LANE (i : Nat) : Fld := ⟨aCLI_FLOW_CFG i, 16, 3⟩
def fCLI_FLOW_CFG_TYPE (i : Nat) : Fld := ⟨aCLI_FLOW_CFG i, 24, 8⟩
def aCLI_FLOW_SLOTS (i j : Nat) : Nat := 0x804004 + 0x20 * i + 0x4 * j
def aCLI_FLOW_STATUS (i : Nat) : Nat := 0x804014 + 0x20 * i
def fCLI_FLOW_STATUS_ACTIVE (i : Nat) : Fld := ⟨aCLI_FLOW_STATUS i, 0, 1⟩
def fCLI_FLOW_STATUS_AIS_IN (i : Nat) : Fld := ⟨aCLI_FLOW_STATUS i, 1, 1⟩
def fCLI_FLOW_STATUS_FAULT_IN (i : Nat) : Fld := ⟨aCLI_FLOW_STATUS i, 2, 1⟩
def fCLI_FLOW_STATUS_N_G (i : Nat) : Fld := ⟨aCLI_FLOW_STATUS i, 8, 7⟩
def fCLI_FLOW_STATUS_FILL (i : Nat) : Fld := ⟨aCLI_FLOW_STATUS i, 16, 16⟩
def aCLI_FLOW_OVF (i : Nat) : Nat := 0x804018 + 0x20 * i
def aCLI_FX_CFG (i : Nat) : Nat := 0x808000 + 0x200 * i
def fCLI_FX_CFG_EN (i : Nat) : Fld := ⟨aCLI_FX_CFG i, 0, 1⟩
def fCLI_FX_CFG_PHYS (i : Nat) : Fld := ⟨aCLI_FX_CFG i, 1, 3⟩
def fCLI_FX_CFG_PORT_BASE (i : Nat) : Fld := ⟨aCLI_FX_CFG i, 4, 6⟩
def fCLI_FX_CFG_GROUP_NUM (i : Nat) : Fld := ⟨aCLI_FX_CFG i, 12, 20⟩
def aCLI_FX_STATUS (i : Nat) : Nat := 0x808004 + 0x200 * i
def fCLI_FX_STATUS_LOCKED (i : Nat) : Fld := ⟨aCLI_FX_STATUS i, 0, 1⟩
def fCLI_FX_STATUS_CAL_PENDING (i : Nat) : Fld := ⟨aCLI_FX_STATUS i, 1, 1⟩
def fCLI_FX_STATUS_CAL_SEL (i : Nat) : Fld := ⟨aCLI_FX_STATUS i, 2, 1⟩
def fCLI_FX_STATUS_GID_MISMATCH (i : Nat) : Fld := ⟨aCLI_FX_STATUS i, 3, 1⟩
def fCLI_FX_STATUS_MAP_MISMATCH (i : Nat) : Fld := ⟨aCLI_FX_STATUS i, 4, 1⟩
def aCLI_FX_CAL (i j : Nat) : Nat := 0x808040 + 0x200 * i + 0x4 * j
/-! ### CIPH (09_cipher.md, R232) -/

def aCIPH_ID : Nat := 0x700000
def aCIPH_CTRL : Nat := 0x700004
def aCIPH_STATUS : Nat := 0x700008
def fCIPH_STATUS_RNG_FAIL : Fld := ⟨aCIPH_STATUS, 0, 1⟩
def fCIPH_STATUS_ES_OK : Fld := ⟨aCIPH_STATUS, 1, 1⟩
def fCIPH_STATUS_DRBG_OK : Fld := ⟨aCIPH_STATUS, 2, 1⟩
def fCIPH_STATUS_BUDGET : Fld := ⟨aCIPH_STATUS, 16, 10⟩
def aCIPH_ALARM : Nat := 0x70000c
def fCIPH_ALARM_CTX_STOP : Fld := ⟨aCIPH_ALARM, 0, 1⟩
def fCIPH_ALARM_AUTH_FAIL : Fld := ⟨aCIPH_ALARM, 1, 1⟩
def fCIPH_ALARM_ES_FAIL : Fld := ⟨aCIPH_ALARM, 2, 1⟩
def fCIPH_ALARM_RNG_FAIL : Fld := ⟨aCIPH_ALARM, 3, 1⟩
def fCIPH_ALARM_KEY_REFUSED : Fld := ⟨aCIPH_ALARM, 4, 1⟩
def fCIPH_ALARM_IV_REPEAT : Fld := ⟨aCIPH_ALARM, 5, 1⟩
def fCIPH_ALARM_ZEROISED : Fld := ⟨aCIPH_ALARM, 6, 1⟩
def aCIPH_ALARM_EN : Nat := 0x700010
def aCIPH_KEY_SEL : Nat := 0x700020
def aCIPH_KEY_CMD : Nat := 0x700024
def aCIPH_KEY_STATUS : Nat := 0x700028
def fCIPH_KEY_STATUS_LOADED : Fld := ⟨aCIPH_KEY_STATUS, 0, 1⟩
def fCIPH_KEY_STATUS_RESULT : Fld := ⟨aCIPH_KEY_STATUS, 4, 4⟩
def fCIPH_KEY_STATUS_KCV : Fld := ⟨aCIPH_KEY_STATUS, 8, 24⟩
def aCIPH_KEY_REFS : Nat := 0x70002c
def aCIPH_KEY_DATA (i : Nat) : Nat := 0x700030 + 0x4 * i
def aCIPH_KPOL_RANGE (i : Nat) : Nat := 0x700100 + 0x8 * i
def fCIPH_KPOL_RANGE_FIRST (i : Nat) : Fld := ⟨aCIPH_KPOL_RANGE i, 0, 13⟩
def fCIPH_KPOL_RANGE_LAST (i : Nat) : Fld := ⟨aCIPH_KPOL_RANGE i, 16, 13⟩
def aCIPH_KPOL_FLAGS (i : Nat) : Nat := 0x700104 + 0x8 * i
def fCIPH_KPOL_FLAGS_USE (i : Nat) : Fld := ⟨aCIPH_KPOL_FLAGS i, 0, 7⟩
def fCIPH_KPOL_FLAGS_INIT (i : Nat) : Fld := ⟨aCIPH_KPOL_FLAGS i, 8, 3⟩
def aCIPH_CTX_SEL : Nat := 0x700200
def aCIPH_CTX_STATE : Nat := 0x700204
def fCIPH_CTX_STATE_STATE : Fld := ⟨aCIPH_CTX_STATE, 0, 3⟩
def fCIPH_CTX_STATE_STOP : Fld := ⟨aCIPH_CTX_STATE, 4, 3⟩
def fCIPH_CTX_STATE_EPOCH : Fld := ⟨aCIPH_CTX_STATE, 7, 1⟩
def fCIPH_CTX_STATE_PREV_HELD : Fld := ⟨aCIPH_CTX_STATE, 8, 1⟩
def aCIPH_CTX_CFG (i : Nat) : Nat := 0x700210 + 0x4 * i
def aCIPH_CTX_IV (i : Nat) : Nat := 0x700250 + 0x4 * i
def aCIPH_CTX_CNT (i : Nat) : Nat := 0x700280 + 0x8 * i
def aCIPH_JOB_CTRL (i : Nat) : Nat := 0x700400 + 0x20 * i
def fCIPH_JOB_CTRL_OP (i : Nat) : Fld := ⟨aCIPH_JOB_CTRL i, 0, 3⟩
def fCIPH_JOB_CTRL_PRIO (i : Nat) : Fld := ⟨aCIPH_JOB_CTRL i, 4, 3⟩
def fCIPH_JOB_CTRL_FINAL (i : Nat) : Fld := ⟨aCIPH_JOB_CTRL i, 8, 1⟩
def fCIPH_JOB_CTRL_START (i : Nat) : Fld := ⟨aCIPH_JOB_CTRL i, 9, 1⟩
def aCIPH_JOB_CTX (i : Nat) : Nat := 0x700404 + 0x20 * i
def aCIPH_JOB_LEN (i : Nat) : Nat := 0x700408 + 0x20 * i
def aCIPH_JOB_AAD (i : Nat) : Nat := 0x70040c + 0x20 * i
def aCIPH_JOB_SRC (i : Nat) : Nat := 0x700410 + 0x20 * i
def aCIPH_JOB_DST (i : Nat) : Nat := 0x700414 + 0x20 * i
def aCIPH_JOB_STATUS (i : Nat) : Nat := 0x700418 + 0x20 * i
def fCIPH_JOB_STATUS_PHASE (i : Nat) : Fld := ⟨aCIPH_JOB_STATUS i, 0, 3⟩
def fCIPH_JOB_STATUS_CODE (i : Nat) : Fld := ⟨aCIPH_JOB_STATUS i, 8, 4⟩
def aCIPH_JOB_OUTLEN (i : Nat) : Nat := 0x70041c + 0x20 * i
def aCIPH_MSG_BUF (i : Nat) : Nat := 0x780000 + 0x4 * i
/-! ### PLU (10_plumb_unit.md, R253) -/

def aPLU_CTRL : Nat := 0x300000
def fPLU_CTRL_EN : Fld := ⟨aPLU_CTRL, 0, 1⟩
def fPLU_CTRL_FORCE_HOLD : Fld := ⟨aPLU_CTRL, 1, 1⟩
def fPLU_CTRL_CLR_HIST : Fld := ⟨aPLU_CTRL, 2, 1⟩
def aPLU_STATE : Nat := 0x300004
def fPLU_STATE_STATE : Fld := ⟨aPLU_STATE, 0, 3⟩
def fPLU_STATE_PULLING : Fld := ⟨aPLU_STATE, 3, 1⟩
def fPLU_STATE_HIST_VALID : Fld := ⟨aPLU_STATE, 4, 1⟩
def fPLU_STATE_OSCIN_OK : Fld := ⟨aPLU_STATE, 5, 1⟩
def fPLU_STATE_FORCED : Fld := ⟨aPLU_STATE, 6, 1⟩
def fPLU_STATE_SEL_ENTRY : Fld := ⟨aPLU_STATE, 8, 5⟩
def fPLU_STATE_SEL_REF : Fld := ⟨aPLU_STATE, 16, 6⟩
def aPLU_ALARM : Nat := 0x300008
def fPLU_ALARM_SEL_FAIL : Fld := ⟨aPLU_ALARM, 0, 1⟩
def fPLU_ALARM_SWITCH : Fld := ⟨aPLU_ALARM, 1, 1⟩
def fPLU_ALARM_HOLDOVER : Fld := ⟨aPLU_ALARM, 2, 1⟩
def fPLU_ALARM_LOST : Fld := ⟨aPLU_ALARM, 3, 1⟩
def fPLU_ALARM_FREQ_DISAGREE : Fld := ⟨aPLU_ALARM, 4, 1⟩
def fPLU_ALARM_OSCIN_FAIL : Fld := ⟨aPLU_ALARM, 5, 1⟩
def fPLU_ALARM_ACQ_FAIL : Fld := ⟨aPLU_ALARM, 6, 1⟩
def fPLU_ALARM_STEP_DONE : Fld := ⟨aPLU_ALARM, 7, 1⟩
def fPLU_ALARM_RES_BUSY : Fld := ⟨aPLU_ALARM, 8, 1⟩
def aPLU_ALARM_EN : Nat := 0x30000c
def aPLU_LOOP : Nat := 0x300010
def fPLU_LOOP_BW : Fld := ⟨aPLU_LOOP, 0, 3⟩
def fPLU_LOOP_SLOPE : Fld := ⟨aPLU_LOOP, 16, 16⟩
def aPLU_QUAL : Nat := 0x300014
def fPLU_QUAL_QUAL_MS : Fld := ⟨aPLU_QUAL, 0, 16⟩
def fPLU_QUAL_FREQ_LIM : Fld := ⟨aPLU_QUAL, 16, 8⟩
def aPLU_LOCK : Nat := 0x300018
def fPLU_LOCK_THR : Fld := ⟨aPLU_LOCK, 0, 16⟩
def fPLU_LOCK_TIME : Fld := ⟨aPLU_LOCK, 16, 16⟩
def aPLU_HOLD : Nat := 0x30001c
def fPLU_HOLD_WIN : Fld := ⟨aPLU_HOLD, 0, 12⟩
def fPLU_HOLD_GUARD : Fld := ⟨aPLU_HOLD, 12, 4⟩
def fPLU_HOLD_LIMIT : Fld := ⟨aPLU_HOLD, 16, 16⟩
def aPLU_ACQ_LIMIT : Nat := 0x300020
def aPLU_PHASE_STEP : Nat := 0x300024
def aPLU_PHASE_OFS : Nat := 0x300028
def aPLU_PHASE_ERR : Nat := 0x30002c
def aPLU_FREQ : Nat := 0x300030
def aPLU_HOLD_FREQ : Nat := 0x300034
def aPLU_HOLD_TIME : Nat := 0x300038
def aPLU_PRIO (i : Nat) : Nat := 0x300040 + 0x4 * i
def fPLU_PRIO_REF (i : Nat) : Fld := ⟨aPLU_PRIO i, 0, 5⟩
def fPLU_PRIO_PRIO (i : Nat) : Fld := ⟨aPLU_PRIO i, 8, 4⟩
def fPLU_PRIO_REVERT (i : Nat) : Fld := ⟨aPLU_PRIO i, 12, 1⟩
def fPLU_PRIO_WTR (i : Nat) : Fld := ⟨aPLU_PRIO i, 16, 16⟩
def aPLU_REF_STATUS (i : Nat) : Nat := 0x300080 + 0x4 * i
def fPLU_REF_STATUS_PRESENT (i : Nat) : Fld := ⟨aPLU_REF_STATUS i, 0, 1⟩
def fPLU_REF_STATUS_FREQ_OK (i : Nat) : Fld := ⟨aPLU_REF_STATUS i, 1, 1⟩
def fPLU_REF_STATUS_VALID (i : Nat) : Fld := ⟨aPLU_REF_STATUS i, 2, 1⟩
def fPLU_REF_STATUS_QUALIFIED (i : Nat) : Fld := ⟨aPLU_REF_STATUS i, 3, 1⟩
def fPLU_REF_STATUS_FREQ_DISAGREE (i : Nat) : Fld := ⟨aPLU_REF_STATUS i, 4, 1⟩
def fPLU_REF_STATUS_ACQ_HOLD (i : Nat) : Fld := ⟨aPLU_REF_STATUS i, 5, 1⟩
def fPLU_REF_STATUS_SELECTED (i : Nat) : Fld := ⟨aPLU_REF_STATUS i, 6, 1⟩
def fPLU_REF_STATUS_QUAL_S (i : Nat) : Fld := ⟨aPLU_REF_STATUS i, 16, 16⟩
def aPLU_REF_FREQ (i : Nat) : Nat := 0x300100 + 0x4 * i
def aPLU_REFIN_CFG (i : Nat) : Nat := 0x300180 + 0x4 * i
def fPLU_REFIN_CFG_FREQ (i : Nat) : Fld := ⟨aPLU_REFIN_CFG i, 0, 2⟩
def fPLU_REFIN_CFG_EN (i : Nat) : Fld := ⟨aPLU_REFIN_CFG i, 2, 1⟩
def fPLU_REFIN_CFG_EDGE (i : Nat) : Fld := ⟨aPLU_REFIN_CFG i, 3, 1⟩
def aPLU_CLKOUT (i : Nat) : Nat := 0x3001a0 + 0x4 * i
def fPLU_CLKOUT_FREQ (i : Nat) : Fld := ⟨aPLU_CLKOUT i, 0, 3⟩
def fPLU_CLKOUT_SQUELCH (i : Nat) : Fld := ⟨aPLU_CLKOUT i, 4, 2⟩
def fPLU_CLKOUT_ACTIVE (i : Nat) : Fld := ⟨aPLU_CLKOUT i, 8, 1⟩
def fPLU_CLKOUT_TIME_OWNED (i : Nat) : Fld := ⟨aPLU_CLKOUT i, 9, 1⟩
def aPLU_SWITCH_CNT : Nat := 0x3001c0
def aPLU_HOLD_CNT : Nat := 0x3001c8
/-! ### TIME (11_network_time.md, R283) -/

def aTIME_CTRL : Nat := 0x400000
def fTIME_CTRL_PTP_EN : Fld := ⟨aTIME_CTRL, 0, 1⟩
def fTIME_CTRL_PPS_EN : Fld := ⟨aTIME_CTRL, 1, 1⟩
def aTIME_STATUS : Nat := 0x400004
def fTIME_STATUS_TB0_STATE : Fld := ⟨aTIME_STATUS, 0, 3⟩
def fTIME_STATUS_TB1_STATE : Fld := ⟨aTIME_STATUS, 4, 3⟩
def fTIME_STATUS_TB2_STATE : Fld := ⟨aTIME_STATUS, 8, 3⟩
def fTIME_STATUS_TB3_STATE : Fld := ⟨aTIME_STATUS, 12, 3⟩
def fTIME_STATUS_PPS_OWNED : Fld := ⟨aTIME_STATUS, 16, 1⟩
def fTIME_STATUS_OSCIN_WAIT : Fld := ⟨aTIME_STATUS, 17, 1⟩
def aTIME_ALARM : Nat := 0x400008
def fTIME_ALARM_STEP : Fld := ⟨aTIME_ALARM, 0, 3⟩
def fTIME_ALARM_UNLOCK0 : Fld := ⟨aTIME_ALARM, 3, 1⟩
def fTIME_ALARM_HOLDOVER : Fld := ⟨aTIME_ALARM, 4, 1⟩
def fTIME_ALARM_RES_BUSY : Fld := ⟨aTIME_ALARM, 5, 1⟩
def fTIME_ALARM_CFG_REFUSED : Fld := ⟨aTIME_ALARM, 6, 1⟩
def fTIME_ALARM_RANGE_MISMATCH : Fld := ⟨aTIME_ALARM, 7, 1⟩
def fTIME_ALARM_WL_MISMATCH : Fld := ⟨aTIME_ALARM, 8, 1⟩
def fTIME_ALARM_TTF_ERR : Fld := ⟨aTIME_ALARM, 9, 1⟩
def fTIME_ALARM_LAUNCH_LATE : Fld := ⟨aTIME_ALARM, 10, 1⟩
def fTIME_ALARM_UTC_CHANGE : Fld := ⟨aTIME_ALARM, 11, 1⟩
def aTIME_ALARM_EN : Nat := 0x40000c
def aTIME_UTC : Nat := 0x400010
def fTIME_UTC_OFS : Fld := ⟨aTIME_UTC, 0, 16⟩
def fTIME_UTC_NEXT : Fld := ⟨aTIME_UTC, 16, 16⟩
def aTIME_UTC_AT : Nat := 0x400014
def aTIME_PPS_CFG : Nat := 0x400020
def fTIME_PPS_CFG_TB : Fld := ⟨aTIME_PPS_CFG, 0, 2⟩
def fTIME_PPS_CFG_SQ : Fld := ⟨aTIME_PPS_CFG, 2, 1⟩
def fTIME_PPS_CFG_WIDTH : Fld := ⟨aTIME_PPS_CFG, 16, 16⟩
def aTIME_PPS_OFS : Nat := 0x400024
def aTIME_PPSIN_TS (i : Nat) : Nat := 0x400040 + 0x10 * i
def aTIME_PPSIN_OFS (i : Nat) : Nat := 0x40004c + 0x10 * i
def aTIME_TB_NOW (i : Nat) : Nat := 0x400100 + 0x40 * i
def aTIME_TB_NOWF (i : Nat) : Nat := 0x40010c + 0x40 * i
def aTIME_TB_SET (i : Nat) : Nat := 0x400110 + 0x40 * i
def aTIME_TB_STEP (i : Nat) : Nat := 0x40011c + 0x40 * i
def aTIME_TB_SERVO (i : Nat) : Nat := 0x400124 + 0x40 * i
def fTIME_TB_SERVO_SRC (i : Nat) : Fld := ⟨aTIME_TB_SERVO i, 0, 3⟩
def fTIME_TB_SERVO_IDX (i : Nat) : Fld := ⟨aTIME_TB_SERVO i, 4, 3⟩
def fTIME_TB_SERVO_BW (i : Nat) : Fld := ⟨aTIME_TB_SERVO i, 8, 3⟩
def fTIME_TB_SERVO_STEP_EN (i : Nat) : Fld := ⟨aTIME_TB_SERVO i, 12, 1⟩
def aTIME_TB_STEP_THR (i : Nat) : Nat := 0x400128 + 0x40 * i
def aTIME_TB_LOCK (i : Nat) : Nat := 0x40012c + 0x40 * i
def fTIME_TB_LOCK_LOCK_THR (i : Nat) : Fld := ⟨aTIME_TB_LOCK i, 0, 16⟩
def fTIME_TB_LOCK_SLEW_MAX (i : Nat) : Fld := ⟨aTIME_TB_LOCK i, 16, 16⟩
def aTIME_TB_HOST_OFS (i : Nat) : Nat := 0x400130 + 0x40 * i
def aTIME_TB_OFFSET (i : Nat) : Nat := 0x400134 + 0x40 * i
def aTIME_TB_FREQ (i : Nat) : Nat := 0x400138 + 0x40 * i
def aTIME_TB_STEP_CNT (i : Nat) : Nat := 0x40013c + 0x40 * i
def aTIME_LANE_CFG (i : Nat) : Nat := 0x400400 + 0x40 * i
def fTIME_LANE_CFG_TTF_EN (i : Nat) : Fld := ⟨aTIME_LANE_CFG i, 0, 1⟩
def fTIME_LANE_CFG_KS_RANGE (i : Nat) : Fld := ⟨aTIME_LANE_CFG i, 1, 1⟩
def fTIME_LANE_CFG_CD_ASYM (i : Nat) : Fld := ⟨aTIME_LANE_CFG i, 2, 1⟩
def fTIME_LANE_CFG_FALLBACK_EN (i : Nat) : Fld := ⟨aTIME_LANE_CFG i, 3, 1⟩
def aTIME_LANE_TXF (i : Nat) : Nat := 0x400404 + 0x40 * i
def aTIME_LANE_RXF (i : Nat) : Nat := 0x400408 + 0x40 * i
def aTIME_LANE_ASYM_FIX (i : Nat) : Nat := 0x40040c + 0x40 * i
def aTIME_LANE_STATUS (i : Nat) : Nat := 0x400410 + 0x40 * i
def fTIME_LANE_STATUS_FWD_OK (i : Nat) : Fld := ⟨aTIME_LANE_STATUS i, 0, 1⟩
def fTIME_LANE_STATUS_REV_OK (i : Nat) : Fld := ⟨aTIME_LANE_STATUS i, 1, 1⟩
def fTIME_LANE_STATUS_FAR_LOCKED (i : Nat) : Fld := ⟨aTIME_LANE_STATUS i, 2, 1⟩
def fTIME_LANE_STATUS_KS_VALID (i : Nat) : Fld := ⟨aTIME_LANE_STATUS i, 3, 1⟩
def fTIME_LANE_STATUS_RANGE_MISMATCH (i : Nat) : Fld := ⟨aTIME_LANE_STATUS i, 4, 1⟩
def fTIME_LANE_STATUS_WL_MISMATCH (i : Nat) : Fld := ⟨aTIME_LANE_STATUS i, 5, 1⟩
def fTIME_LANE_STATUS_FALLBACK (i : Nat) : Fld := ⟨aTIME_LANE_STATUS i, 6, 1⟩
def fTIME_LANE_STATUS_CD_VALID (i : Nat) : Fld := ⟨aTIME_LANE_STATUS i, 7, 1⟩
def aTIME_LANE_OFFSET (i : Nat) : Nat := 0x400414 + 0x40 * i
def aTIME_LANE_ASYM_CD (i : Nat) : Nat := 0x400418 + 0x40 * i
def aTIME_LANE_INT_TX (i : Nat) : Nat := 0x40041c + 0x40 * i
def aTIME_LANE_INT_RX (i : Nat) : Nat := 0x400420 + 0x40 * i
def aTIME_LANE_THRU_RX (i : Nat) : Nat := 0x400424 + 0x40 * i
def aTIME_LANE_PATH (i : Nat) : Nat := 0x400428 + 0x40 * i
def aTIME_LANE_KSPATH (i : Nat) : Nat := 0x400430 + 0x40 * i
def aTIME_LANE_FAR_CD (i : Nat) : Nat := 0x400438 + 0x40 * i
def aTIME_LANE_TTF_ERR (i : Nat) : Nat := 0x40043c + 0x40 * i
def aTIME_LAUNCH_CTRL (i : Nat) : Nat := 0x400800 + 0x40 * i
def fTIME_LAUNCH_CTRL_PORT (i : Nat) : Fld := ⟨aTIME_LAUNCH_CTRL i, 0, 6⟩
def fTIME_LAUNCH_CTRL_TB (i : Nat) : Fld := ⟨aTIME_LAUNCH_CTRL i, 8, 2⟩
def fTIME_LAUNCH_CTRL_ONE_STEP (i : Nat) : Fld := ⟨aTIME_LAUNCH_CTRL i, 12, 1⟩
def fTIME_LAUNCH_CTRL_START (i : Nat) : Fld := ⟨aTIME_LAUNCH_CTRL i, 13, 1⟩
def fTIME_LAUNCH_CTRL_TS_OFS (i : Nat) : Fld := ⟨aTIME_LAUNCH_CTRL i, 16, 16⟩
def aTIME_LAUNCH_T (i : Nat) : Nat := 0x400804 + 0x40 * i
def aTIME_LAUNCH_BUF (i : Nat) : Nat := 0x400810 + 0x40 * i
def fTIME_LAUNCH_BUF_OFS (i : Nat) : Fld := ⟨aTIME_LAUNCH_BUF i, 0, 16⟩
def fTIME_LAUNCH_BUF_LEN (i : Nat) : Fld := ⟨aTIME_LAUNCH_BUF i, 16, 12⟩
def aTIME_LAUNCH_STATUS (i : Nat) : Nat := 0x400814 + 0x40 * i
def fTIME_LAUNCH_STATUS_PHASE (i : Nat) : Fld := ⟨aTIME_LAUNCH_STATUS i, 0, 3⟩
def fTIME_LAUNCH_STATUS_CODE (i : Nat) : Fld := ⟨aTIME_LAUNCH_STATUS i, 4, 4⟩
def fTIME_LAUNCH_STATUS_LATE (i : Nat) : Fld := ⟨aTIME_LAUNCH_STATUS i, 8, 1⟩
def aTIME_LAUNCH_TS (i : Nat) : Nat := 0x400818 + 0x40 * i
def aTIME_LAUNCH_MEM (i : Nat) : Nat := 0x410000 + 0x4 * i
/-! ### KSC (12_keystone_channel.md, R308) -/

def aKSC_CTRL (n : Nat) : Nat := 0x180000 + laneBase n
def fKSC_CTRL_EN (n : Nat) : Fld := ⟨aKSC_CTRL n, 0, 1⟩
def fKSC_CTRL_BEACON_EN (n : Nat) : Fld := ⟨aKSC_CTRL n, 1, 1⟩
def fKSC_CTRL_MGMT_EN (n : Nat) : Fld := ⟨aKSC_CTRL n, 2, 1⟩
def fKSC_CTRL_RANGE_EN (n : Nat) : Fld := ⟨aKSC_CTRL n, 3, 1⟩
def fKSC_CTRL_COURSE_EN (n : Nat) : Fld := ⟨aKSC_CTRL n, 4, 1⟩
def aKSC_STATE (n : Nat) : Nat := 0x180004 + laneBase n
def fKSC_STATE_STATE (n : Nat) : Fld := ⟨aKSC_STATE n, 0, 2⟩
def fKSC_STATE_TX_BUSY (n : Nat) : Fld := ⟨aKSC_STATE n, 2, 1⟩
def fKSC_STATE_RX_PHASE (n : Nat) : Fld := ⟨aKSC_STATE n, 4, 3⟩
def fKSC_STATE_CAND (n : Nat) : Fld := ⟨aKSC_STATE n, 7, 1⟩
def fKSC_STATE_LO_SENT (n : Nat) : Fld := ⟨aKSC_STATE n, 8, 1⟩
def fKSC_STATE_EGRESS (n : Nat) : Fld := ⟨aKSC_STATE n, 9, 1⟩
def fKSC_STATE_TX_TYPE (n : Nat) : Fld := ⟨aKSC_STATE n, 12, 4⟩
def fKSC_STATE_RX_CHAN (n : Nat) : Fld := ⟨aKSC_STATE n, 16, 8⟩
def aKSC_ALARM (n : Nat) : Nat := 0x180008 + laneBase n
def fKSC_ALARM_LINK_LOST (n : Nat) : Fld := ⟨aKSC_ALARM n, 0, 1⟩
def fKSC_ALARM_HDR_ERR (n : Nat) : Fld := ⟨aKSC_ALARM n, 1, 1⟩
def fKSC_ALARM_PAY_ERR (n : Nat) : Fld := ⟨aKSC_ALARM n, 2, 1⟩
def fKSC_ALARM_PREEMPT (n : Nat) : Fld := ⟨aKSC_ALARM n, 3, 1⟩
def fKSC_ALARM_TX_DROP (n : Nat) : Fld := ⟨aKSC_ALARM n, 4, 1⟩
def fKSC_ALARM_RNG_FAIL (n : Nat) : Fld := ⟨aKSC_ALARM n, 5, 1⟩
def fKSC_ALARM_CRS_DIFF (n : Nat) : Fld := ⟨aKSC_ALARM n, 6, 1⟩
def fKSC_ALARM_RES_BUSY (n : Nat) : Fld := ⟨aKSC_ALARM n, 7, 1⟩
def aKSC_ALARM_EN (n : Nat) : Nat := 0x18000c + laneBase n
def aKSC_CFG (n : Nat) : Nat := 0x180010 + laneBase n
def fKSC_CFG_TX_SF (n : Nat) : Fld := ⟨aKSC_CFG n, 0, 5⟩
def fKSC_CFG_RX_SF (n : Nat) : Fld := ⟨aKSC_CFG n, 8, 5⟩
def fKSC_CFG_CAPTURE (n : Nat) : Fld := ⟨aKSC_CFG n, 16, 4⟩
def fKSC_CFG_DET_THR (n : Nat) : Fld := ⟨aKSC_CFG n, 24, 5⟩
def aKSC_NETID (n : Nat) : Nat := 0x180014 + laneBase n
def fKSC_NETID_ID (n : Nat) : Fld := ⟨aKSC_NETID n, 0, 12⟩
def aKSC_TIMING (n : Nat) : Nat := 0x180018 + laneBase n
def fKSC_TIMING_BEACON_MS (n : Nat) : Fld := ⟨aKSC_TIMING n, 0, 10⟩
def fKSC_TIMING_FAR_TIMEOUT (n : Nat) : Fld := ⟨aKSC_TIMING n, 16, 14⟩
def aKSC_RANGE_MS (n : Nat) : Nat := 0x18001c + laneBase n
def fKSC_RANGE_MS_MS (n : Nat) : Fld := ⟨aKSC_RANGE_MS n, 0, 14⟩
def aKSC_FO_EST (n : Nat) : Nat := 0x180020 + laneBase n
def aKSC_RX_SNR (n : Nat) : Nat := 0x180024 + laneBase n
def aKSC_FAR_ID (n : Nat) : Nat := 0x180028 + laneBase n
def fKSC_FAR_ID_NODE (n : Nat) : Fld := ⟨aKSC_FAR_ID n, 0, 14⟩
def fKSC_FAR_ID_LANE (n : Nat) : Fld := ⟨aKSC_FAR_ID n, 16, 3⟩
def fKSC_FAR_ID_LOCKED (n : Nat) : Fld := ⟨aKSC_FAR_ID n, 20, 1⟩
def aKSC_FAR_FMT (n : Nat) : Nat := 0x18002c + laneBase n
def aKSC_FAR_RATE (n : Nat) : Nat := 0x180030 + laneBase n
def aKSC_FAR_MISC (n : Nat) : Nat := 0x180034 + laneBase n
def fKSC_FAR_MISC_ROLLOFF (n : Nat) : Fld := ⟨aKSC_FAR_MISC n, 0, 5⟩
def fKSC_FAR_MISC_TX_STATE (n : Nat) : Fld := ⟨aKSC_FAR_MISC n, 8, 2⟩
def fKSC_FAR_MISC_CD_VALID (n : Nat) : Fld := ⟨aKSC_FAR_MISC n, 10, 1⟩
def fKSC_FAR_MISC_FO_VALID (n : Nat) : Fld := ⟨aKSC_FAR_MISC n, 11, 1⟩
def aKSC_FAR_CD (n : Nat) : Nat := 0x180038 + laneBase n
def aKSC_FAR_FO_SEEN (n : Nat) : Nat := 0x18003c + laneBase n
def aKSC_FAR_COURSE (n : Nat) : Nat := 0x180040 + laneBase n
def aKSC_FCRS_NUM (n : Nat) : Nat := 0x180044 + laneBase n
def aKSC_FCRS_T (n : Nat) : Nat := 0x180048 + laneBase n
def aKSC_FCRS_INFO (n : Nat) : Nat := 0x180054 + laneBase n
def fKSC_FCRS_INFO_STATE (n : Nat) : Fld := ⟨aKSC_FCRS_INFO n, 0, 2⟩
def fKSC_FCRS_INFO_FMT_CHANGE (n : Nat) : Fld := ⟨aKSC_FCRS_INFO n, 2, 1⟩
def fKSC_FCRS_INFO_MATCH (n : Nat) : Fld := ⟨aKSC_FCRS_INFO n, 4, 2⟩
def fKSC_FCRS_INFO_ROLLOFF (n : Nat) : Fld := ⟨aKSC_FCRS_INFO n, 8, 5⟩
def aKSC_FCRS_FMT (n : Nat) : Nat := 0x180058 + laneBase n
def aKSC_FCRS_RATE (n : Nat) : Nat := 0x18005c + laneBase n
def aKSC_CNT (n i : Nat) : Nat := 0x180080 + 0x8 * i + laneBase n
def aKSC_RNG_TS (n i : Nat) : Nat := 0x180200 + 0x10 * i + laneBase n
def aKSC_RNG_ID (n : Nat) : Nat := 0x180240 + laneBase n
def aKSC_LOG (n i j : Nat) : Nat := 0x180400 + 0x10 * i + 0x4 * j + laneBase n
/-! ### CST (13_cornerstone.md, R331) -/

def aCST_ID : Nat := 0x900000
def fCST_ID_REV : Fld := ⟨aCST_ID, 0, 8⟩
def fCST_ID_PRESENT : Fld := ⟨aCST_ID, 8, 1⟩
def fCST_ID_ROM : Fld := ⟨aCST_ID, 16, 8⟩
def fCST_ID_PATCH : Fld := ⟨aCST_ID, 24, 8⟩
def aCST_STATUS : Nat := 0x900004
def aCST_BLOCKS : Nat := 0x900008
def fCST_BLOCKS_SPARE : Fld := ⟨aCST_BLOCKS, 0, 16⟩
def fCST_BLOCKS_GOOD : Fld := ⟨aCST_BLOCKS, 16, 16⟩
def aCST_TB3_NOW : Nat := 0x900010
def aCST_TB3_OFS : Nat := 0x900020
def aCST_TB3_FREQ : Nat := 0x900028
def aCST_NEWEST : Nat := 0x900030
def aCST_OLDEST : Nat := 0x900038
def aCST_PATCH_GO : Nat := 0x900040
def aCST_PATCH_STATUS : Nat := 0x900044
def fCST_PATCH_STATUS_CODE : Fld := ⟨aCST_PATCH_STATUS, 0, 2⟩
def aCST_SEL : Nat := 0x900048
def aCST_REC_STATUS : Nat := 0x900050
def fCST_REC_STATUS_PRESENT : Fld := ⟨aCST_REC_STATUS, 0, 1⟩
def fCST_REC_STATUS_KIND : Fld := ⟨aCST_REC_STATUS, 1, 1⟩
def fCST_REC_STATUS_LEN : Fld := ⟨aCST_REC_STATUS, 16, 14⟩
def aCST_CNT (i : Nat) : Nat := 0x900080 + 0x8 * i
def aCST_RECORD (i : Nat) : Nat := 0x910000 + 0x4 * i
def aCST_BANK (i j : Nat) : Nat := 0x920000 + 0x4000 * i + 0x4 * j
def aCST_CERT (i : Nat) : Nat := 0x930000 + 0x4 * i
def aCST_MAILBOX (i : Nat) : Nat := 0x980000 + 0x4 * i
/-! ### HKM (14_housekeeping_monitor.md, R353) -/

def aHKM_CTRL : Nat := 0x500000
def fHKM_CTRL_A_EN : Fld := ⟨aHKM_CTRL, 0, 1⟩
def fHKM_CTRL_B_EN : Fld := ⟨aHKM_CTRL, 1, 1⟩
def fHKM_CTRL_ILV : Fld := ⟨aHKM_CTRL, 2, 1⟩
def aHKM_STATUS : Nat := 0x500004
def fHKM_STATUS_A_ON : Fld := ⟨aHKM_STATUS, 0, 1⟩
def fHKM_STATUS_B_ON : Fld := ⟨aHKM_STATUS, 1, 1⟩
def fHKM_STATUS_ILV_ON : Fld := ⟨aHKM_STATUS, 2, 1⟩
def fHKM_STATUS_STALE : Fld := ⟨aHKM_STATUS, 3, 1⟩
def fHKM_STATUS_SAFE : Fld := ⟨aHKM_STATUS, 4, 1⟩
def fHKM_STATUS_PWM_DRIVE : Fld := ⟨aHKM_STATUS, 8, 8⟩
def fHKM_STATUS_PWM_TRIG : Fld := ⟨aHKM_STATUS, 16, 8⟩
def aHKM_ALARM : Nat := 0x500008
def fHKM_ALARM_OVR : Fld := ⟨aHKM_ALARM, 0, 1⟩
def fHKM_ALARM_OVERRUN : Fld := ⟨aHKM_ALARM, 1, 1⟩
def fHKM_ALARM_TRIG_MISS : Fld := ⟨aHKM_ALARM, 2, 1⟩
def fHKM_ALARM_THR : Fld := ⟨aHKM_ALARM, 3, 1⟩
def fHKM_ALARM_CFG_ERR : Fld := ⟨aHKM_ALARM, 4, 1⟩
def fHKM_ALARM_RES_BUSY : Fld := ⟨aHKM_ALARM, 5, 1⟩
def fHKM_ALARM_SAFE : Fld := ⟨aHKM_ALARM, 6, 1⟩
def aHKM_ALARM_EN : Nat := 0x50000c
def aHKM_TRIG (i : Nat) : Nat := 0x500010 + 0x4 * i
def fHKM_TRIG_SRC (i : Nat) : Fld := ⟨aHKM_TRIG i, 0, 2⟩
def fHKM_TRIG_IDX (i : Nat) : Fld := ⟨aHKM_TRIG i, 2, 3⟩
def fHKM_TRIG_EDGE (i : Nat) : Fld := ⟨aHKM_TRIG i, 5, 1⟩
def fHKM_TRIG_DELAY (i : Nat) : Fld := ⟨aHKM_TRIG i, 16, 16⟩
def aHKM_NSLOT : Nat := 0x500018
def fHKM_NSLOT_A_N : Fld := ⟨aHKM_NSLOT, 0, 6⟩
def fHKM_NSLOT_B_N : Fld := ⟨aHKM_NSLOT, 8, 6⟩
def aHKM_RESULT (i : Nat) : Nat := 0x500020 + 0x4 * i
def fHKM_RESULT_CODE (i : Nat) : Fld := ⟨aHKM_RESULT i, 0, 16⟩
def fHKM_RESULT_INPUT (i : Nat) : Fld := ⟨aHKM_RESULT i, 16, 6⟩
def fHKM_RESULT_OVR (i : Nat) : Fld := ⟨aHKM_RESULT i, 22, 1⟩
def fHKM_RESULT_OVERRUN (i : Nat) : Fld := ⟨aHKM_RESULT i, 23, 1⟩
def fHKM_RESULT_INVALID (i : Nat) : Fld := ⟨aHKM_RESULT i, 24, 1⟩
def fHKM_RESULT_STALE (i : Nat) : Fld := ⟨aHKM_RESULT i, 25, 1⟩
def fHKM_RESULT_SLOT (i : Nat) : Fld := ⟨aHKM_RESULT i, 26, 5⟩
def fHKM_RESULT_NEW (i : Nat) : Fld := ⟨aHKM_RESULT i, 31, 1⟩
def aHKM_TMR (i : Nat) : Nat := 0x500030 + 0x4 * i
def fHKM_TMR_PERIOD (i : Nat) : Fld := ⟨aHKM_TMR i, 0, 16⟩
def fHKM_TMR_EN (i : Nat) : Fld := ⟨aHKM_TMR i, 16, 1⟩
def aHKM_PWM_CFG (i : Nat) : Nat := 0x500040 + 0x8 * i
def fHKM_PWM_CFG_MODE (i : Nat) : Fld := ⟨aHKM_PWM_CFG i, 0, 2⟩
def fHKM_PWM_CFG_POL (i : Nat) : Fld := ⟨aHKM_PWM_CFG i, 2, 1⟩
def fHKM_PWM_CFG_PERIOD (i : Nat) : Fld := ⟨aHKM_PWM_CFG i, 16, 16⟩
def aHKM_PWM_DUTY (i : Nat) : Nat := 0x500044 + 0x8 * i
def aHKM_CNT (i : Nat) : Nat := 0x500080 + 0x8 * i
def aHKM_SLOT (i j : Nat) : Nat := 0x500100 + 0x80 * i + 0x4 * j
def fHKM_SLOT_INPUT (i j : Nat) : Fld := ⟨aHKM_SLOT i j, 0, 6⟩
def fHKM_SLOT_GAIN (i j : Nat) : Fld := ⟨aHKM_SLOT i j, 8, 2⟩
def aHKM_IN_CFG (i : Nat) : Nat := 0x501000 + 0x40 * i
def fHKM_IN_CFG_CLASS (i : Nat) : Fld := ⟨aHKM_IN_CFG i, 0, 2⟩
def fHKM_IN_CFG_MODE (i : Nat) : Fld := ⟨aHKM_IN_CFG i, 2, 3⟩
def fHKM_IN_CFG_BLOCK (i : Nat) : Fld := ⟨aHKM_IN_CFG i, 5, 1⟩
def fHKM_IN_CFG_LEN (i : Nat) : Fld := ⟨aHKM_IN_CFG i, 6, 12⟩
def fHKM_IN_CFG_PILOT_EN (i : Nat) : Fld := ⟨aHKM_IN_CFG i, 18, 1⟩
def fHKM_IN_CFG_PEAK_EN (i : Nat) : Fld := ⟨aHKM_IN_CFG i, 19, 1⟩
def fHKM_IN_CFG_RMS_EN (i : Nat) : Fld := ⟨aHKM_IN_CFG i, 20, 1⟩
def fHKM_IN_CFG_ENV_EN (i : Nat) : Fld := ⟨aHKM_IN_CFG i, 21, 1⟩
def fHKM_IN_CFG_ENV_DECAY (i : Nat) : Fld := ⟨aHKM_IN_CFG i, 22, 4⟩
def fHKM_IN_CFG_PILOT_N (i : Nat) : Fld := ⟨aHKM_IN_CFG i, 26, 4⟩
def aHKM_IN_PILOT_F (i : Nat) : Nat := 0x501004 + 0x40 * i
def aHKM_IN_THR_HI (i : Nat) : Nat := 0x501008 + 0x40 * i
def aHKM_IN_THR_LO (i : Nat) : Nat := 0x50100c + 0x40 * i
def aHKM_IN_FILT (i : Nat) : Nat := 0x501010 + 0x40 * i
def aHKM_IN_FSTAT (i : Nat) : Nat := 0x501014 + 0x40 * i
def fHKM_IN_FSTAT_VALID (i : Nat) : Fld := ⟨aHKM_IN_FSTAT i, 0, 1⟩
def fHKM_IN_FSTAT_OVR (i : Nat) : Fld := ⟨aHKM_IN_FSTAT i, 1, 1⟩
def fHKM_IN_FSTAT_STALE (i : Nat) : Fld := ⟨aHKM_IN_FSTAT i, 2, 1⟩
def fHKM_IN_FSTAT_HI (i : Nat) : Fld := ⟨aHKM_IN_FSTAT i, 3, 1⟩
def fHKM_IN_FSTAT_LO (i : Nat) : Fld := ⟨aHKM_IN_FSTAT i, 4, 1⟩
def fHKM_IN_FSTAT_PILOT_VALID (i : Nat) : Fld := ⟨aHKM_IN_FSTAT i, 5, 1⟩
def aHKM_IN_PEAK_MAX (i : Nat) : Nat := 0x501018 + 0x40 * i
def aHKM_IN_PEAK_MIN (i : Nat) : Nat := 0x50101c + 0x40 * i
def aHKM_IN_RMS (i : Nat) : Nat := 0x501020 + 0x40 * i
def aHKM_IN_ENV (i : Nat) : Nat := 0x501024 + 0x40 * i
def aHKM_IN_PILOT_MAG (i : Nat) : Nat := 0x501028 + 0x40 * i
def aHKM_IN_PILOT_PH (i : Nat) : Nat := 0x50102c + 0x40 * i
def aHKM_IN_RAW (i : Nat) : Nat := 0x501030 + 0x40 * i
/-! ### CAL (15_calibration.md, R371) -/

def aCAL_CTRL : Nat := 0x600000
def fCAL_CTRL_QGATE : Fld := ⟨aCAL_CTRL, 0, 1⟩
def fCAL_CTRL_INTERP_HOLD : Fld := ⟨aCAL_CTRL, 1, 1⟩
def aCAL_CMD : Nat := 0x600004
def fCAL_CMD_ITEMS : Fld := ⟨aCAL_CMD, 0, 6⟩
def fCAL_CMD_LANE : Fld := ⟨aCAL_CMD, 8, 3⟩
def fCAL_CMD_START : Fld := ⟨aCAL_CMD, 16, 1⟩
def fCAL_CMD_ABORT : Fld := ⟨aCAL_CMD, 17, 1⟩
def aCAL_STATUS : Nat := 0x600008
def fCAL_STATUS_STATE : Fld := ⟨aCAL_STATUS, 0, 3⟩
def fCAL_STATUS_RESULT : Fld := ⟨aCAL_STATUS, 4, 3⟩
def fCAL_STATUS_SPARE_SKIPPED : Fld := ⟨aCAL_STATUS, 7, 1⟩
def fCAL_STATUS_ITEMS_DONE : Fld := ⟨aCAL_STATUS, 8, 6⟩
def fCAL_STATUS_SAFE : Fld := ⟨aCAL_STATUS, 14, 1⟩
def fCAL_STATUS_FAILED_ITEM : Fld := ⟨aCAL_STATUS, 16, 3⟩
def fCAL_STATUS_STEP : Fld := ⟨aCAL_STATUS, 20, 12⟩
def aCAL_ALARM : Nat := 0x60000c
def fCAL_ALARM_RUN_END : Fld := ⟨aCAL_ALARM, 0, 1⟩
def fCAL_ALARM_PRECOND : Fld := ⟨aCAL_ALARM, 1, 1⟩
def fCAL_ALARM_QUALITY : Fld := ⟨aCAL_ALARM, 2, 1⟩
def fCAL_ALARM_CMD_REFUSED : Fld := ⟨aCAL_ALARM, 3, 1⟩
def fCAL_ALARM_TEMP_RANGE : Fld := ⟨aCAL_ALARM, 4, 1⟩
def fCAL_ALARM_NO_SET : Fld := ⟨aCAL_ALARM, 5, 1⟩
def fCAL_ALARM_QUARRY_WORN : Fld := ⟨aCAL_ALARM, 6, 1⟩
def fCAL_ALARM_SAFE : Fld := ⟨aCAL_ALARM, 7, 1⟩
def aCAL_ALARM_EN : Nat := 0x600010
def aCAL_Q_SPUR : Nat := 0x600014
def aCAL_Q_SKEW : Nat := 0x600018
def aCAL_Q_EYE : Nat := 0x60001c
def aCAL_RUN_TIME : Nat := 0x600020
def aCAL_RUN_TEMP : Nat := 0x600024
def aCAL_DOM_STATUS (i : Nat) : Nat := 0x600040 + 0x4 * i
def fCAL_DOM_STATUS_POINTS (i : Nat) : Fld := ⟨aCAL_DOM_STATUS i, 0, 4⟩
def fCAL_DOM_STATUS_SOURCE (i : Nat) : Fld := ⟨aCAL_DOM_STATUS i, 4, 2⟩
def fCAL_DOM_STATUS_UNSTORED (i : Nat) : Fld := ⟨aCAL_DOM_STATUS i, 6, 1⟩
def fCAL_DOM_STATUS_TEMP_RANGE (i : Nat) : Fld := ⟨aCAL_DOM_STATUS i, 7, 1⟩
def aCAL_DOM_SEQ (i : Nat) : Nat := 0x600060 + 0x4 * i
def aCAL_DOM_PT (i j : Nat) : Nat := 0x600080 + 0x20 * i + 0x4 * j
def fCAL_DOM_PT_TEMP (i j : Nat) : Fld := ⟨aCAL_DOM_PT i j, 0, 16⟩
def fCAL_DOM_PT_USED (i j : Nat) : Fld := ⟨aCAL_DOM_PT i j, 16, 1⟩
def fCAL_DOM_PT_INHERITED (i j : Nat) : Fld := ⟨aCAL_DOM_PT i j, 24, 6⟩
def aCAL_DIE_TEMP (i : Nat) : Nat := 0x600120 + 0x4 * i
def aCAL_QUARRY : Nat := 0x600140
def fCAL_QUARRY_SPARE : Fld := ⟨aCAL_QUARRY, 0, 16⟩
def fCAL_QUARRY_WORN : Fld := ⟨aCAL_QUARRY, 16, 1⟩
def aCAL_CNT (i : Nat) : Nat := 0x600180 + 0x8 * i
/-! ### MEM (16_memory_integrity.md, R388) -/

def aMEM_CTRL : Nat := 0x200000
def fMEM_CTRL_SCRUB_EN : Fld := ⟨aMEM_CTRL, 0, 1⟩
def fMEM_CTRL_LOG_CE : Fld := ⟨aMEM_CTRL, 1, 1⟩
def aMEM_STATUS : Nat := 0x200004
def fMEM_STATUS_FILL_DONE : Fld := ⟨aMEM_STATUS, 0, 1⟩
def fMEM_STATUS_POISON_ANY : Fld := ⟨aMEM_STATUS, 1, 1⟩
def fMEM_STATUS_LOG_NEXT : Fld := ⟨aMEM_STATUS, 8, 6⟩
def aMEM_ALARM : Nat := 0x200008
def fMEM_ALARM_CE : Fld := ⟨aMEM_ALARM, 0, 1⟩
def fMEM_ALARM_UE : Fld := ⟨aMEM_ALARM, 1, 1⟩
def fMEM_ALARM_POISON_SET : Fld := ⟨aMEM_ALARM, 2, 1⟩
def fMEM_ALARM_POISON_READ : Fld := ⟨aMEM_ALARM, 3, 1⟩
def aMEM_ALARM_EN : Nat := 0x20000c
def aMEM_ARR_CFG (i : Nat) : Nat := 0x200100 + 0x20 * i
def fMEM_ARR_CFG_K (i : Nat) : Fld := ⟨aMEM_ARR_CFG i, 0, 5⟩
def fMEM_ARR_CFG_EN (i : Nat) : Fld := ⟨aMEM_ARR_CFG i, 8, 1⟩
def aMEM_ARR_STATUS (i : Nat) : Nat := 0x200104 + 0x20 * i
def fMEM_ARR_STATUS_FILL (i : Nat) : Fld := ⟨aMEM_ARR_STATUS i, 0, 1⟩
def fMEM_ARR_STATUS_POISONED (i : Nat) : Fld := ⟨aMEM_ARR_STATUS i, 8, 24⟩
def aMEM_ARR_CE_CNT (i : Nat) : Nat := 0x200108 + 0x20 * i
def aMEM_ARR_UE_CNT (i : Nat) : Nat := 0x200110 + 0x20 * i
def aMEM_ARR_SWEEP_CNT (i : Nat) : Nat := 0x200118 + 0x20 * i
def aMEM_LOG (i j : Nat) : Nat := 0x201000 + 0x10 * i + 0x4 * j
/-! ### GLB (18_register_interface.md, R441) -/

def aGLB_ID : Nat := 0x0
def aGLB_FW : Nat := 0x4
def aGLB_SERIAL : Nat := 0x8
def aGLB_STATUS : Nat := 0x10
def fGLB_STATUS_FILL_DONE : Fld := ⟨aGLB_STATUS, 0, 1⟩
def fGLB_STATUS_MGT_READY : Fld := ⟨aGLB_STATUS, 1, 1⟩
def fGLB_STATUS_SEC_LOCK : Fld := ⟨aGLB_STATUS, 2, 1⟩
def fGLB_STATUS_CST_READY : Fld := ⟨aGLB_STATUS, 3, 1⟩
def aGLB_ALARM : Nat := 0x14
def fGLB_ALARM_CFG_PARITY : Fld := ⟨aGLB_ALARM, 0, 1⟩
def fGLB_ALARM_ACC : Fld := ⟨aGLB_ALARM, 1, 1⟩
def fGLB_ALARM_COURSE_DONE : Fld := ⟨aGLB_ALARM, 2, 1⟩
def fGLB_ALARM_COURSE_APPLIED : Fld := ⟨aGLB_ALARM, 3, 1⟩
def fGLB_ALARM_LEVEL : Fld := ⟨aGLB_ALARM, 4, 1⟩
def aGLB_ALARM_EN : Nat := 0x18
def aGLB_ALARM_SUM : Nat := 0x1c
def aGLB_INT_EN : Nat := 0x20
def aGLB_SAFE : Nat := 0x24
def fGLB_SAFE_LANE : Fld := ⟨aGLB_SAFE, 0, 8⟩
def fGLB_SAFE_CLI : Fld := ⟨aGLB_SAFE, 8, 2⟩
def fGLB_SAFE_FUNC : Fld := ⟨aGLB_SAFE, 10, 7⟩
def fGLB_SAFE_GLB : Fld := ⟨aGLB_SAFE, 17, 1⟩
def aGLB_PAR_ADDR : Nat := 0x28
def aGLB_ACC_LAST : Nat := 0x30
def fGLB_ACC_LAST_CODE : Fld := ⟨aGLB_ACC_LAST, 0, 4⟩
def fGLB_ACC_LAST_WRITE : Fld := ⟨aGLB_ACC_LAST, 8, 1⟩
def aGLB_ACC_ADDR : Nat := 0x34
def aGLB_ACC_CNT : Nat := 0x38
def aGLB_LVL_CTRL : Nat := 0x100
def fGLB_LVL_CTRL_HOLD : Fld := ⟨aGLB_LVL_CTRL, 0, 1⟩
def fGLB_LVL_CTRL_RELEASE : Fld := ⟨aGLB_LVL_CTRL, 1, 1⟩
def fGLB_LVL_CTRL_SRC : Fld := ⟨aGLB_LVL_CTRL, 2, 1⟩
def fGLB_LVL_CTRL_NOW : Fld := ⟨aGLB_LVL_CTRL, 3, 1⟩
def aGLB_LVL_STAT : Nat := 0x104
def fGLB_LVL_STAT_MIX : Fld := ⟨aGLB_LVL_STAT, 0, 1⟩
def fGLB_LVL_STAT_LAST_VALID : Fld := ⟨aGLB_LVL_STAT, 1, 1⟩
def fGLB_LVL_STAT_HOLDER : Fld := ⟨aGLB_LVL_STAT, 2, 2⟩
def aGLB_LVL_PERIOD : Nat := 0x108
def fGLB_LVL_PERIOD_MS : Fld := ⟨aGLB_LVL_PERIOD, 0, 10⟩
def aGLB_LVL_LATEST : Nat := 0x10c
def aGLB_LVL_LAST : Nat := 0x110
def aGLB_LVL_HELD : Nat := 0x114
def aGLB_LVL_INST : Nat := 0x118
def aGLB_LVL_CAUSES : Nat := 0x124
def aGLB_CRS_CMD : Nat := 0x200
def fGLB_CRS_CMD_ACTION : Fld := ⟨aGLB_CRS_CMD, 0, 2⟩
def fGLB_CRS_CMD_MODE : Fld := ⟨aGLB_CRS_CMD, 4, 1⟩
def aGLB_CRS_NUM : Nat := 0x204
def aGLB_CRS_T : Nat := 0x208
def aGLB_CRS_STATUS : Nat := 0x214
def fGLB_CRS_STATUS_RESULT : Fld := ⟨aGLB_CRS_STATUS, 0, 16⟩
def fGLB_CRS_STATUS_BUSY : Fld := ⟨aGLB_CRS_STATUS, 16, 1⟩
def fGLB_CRS_STATUS_STATE : Fld := ⟨aGLB_CRS_STATUS, 17, 2⟩
def fGLB_CRS_STATUS_OWNER_PCIE : Fld := ⟨aGLB_CRS_STATUS, 19, 1⟩
def fGLB_CRS_STATUS_WHERE_KIND : Fld := ⟨aGLB_CRS_STATUS, 20, 1⟩
def aGLB_CRS_WHERE : Nat := 0x218
def aGLB_CRS_LAST : Nat := 0x21c
def aGLB_CRS_ARMED : Nat := 0x220
def aGLB_LVL_SCH (i : Nat) : Nat := 0x400 + 0x10 * i
def aGLB_MSIX_TABLE (i : Nat) : Nat := 0xf000 + 0x4 * i
def aGLB_MSIX_PBA : Nat := 0xf800
/-! ### SEC (19_boot_security_reset.md, R465) -/

def aSEC_CTRL : Nat := 0x100000
def fSEC_CTRL_LOCK : Fld := ⟨aSEC_CTRL, 0, 1⟩
def fSEC_CTRL_WARM : Fld := ⟨aSEC_CTRL, 1, 1⟩
def fSEC_CTRL_CIPH_UNBLOCK : Fld := ⟨aSEC_CTRL, 2, 1⟩
def aSEC_STATUS : Nat := 0x100004
def fSEC_STATUS_SEC_LOCK : Fld := ⟨aSEC_STATUS, 0, 1⟩
def fSEC_STATUS_REGIONS_ON : Fld := ⟨aSEC_STATUS, 1, 1⟩
def fSEC_STATUS_CUST_HASH : Fld := ⟨aSEC_STATUS, 2, 1⟩
def fSEC_STATUS_SETUP_AUTH : Fld := ⟨aSEC_STATUS, 3, 1⟩
def fSEC_STATUS_RECOVERY : Fld := ⟨aSEC_STATUS, 4, 1⟩
def fSEC_STATUS_BOOT_FAIL : Fld := ⟨aSEC_STATUS, 5, 1⟩
def fSEC_STATUS_WINDOW_HOST : Fld := ⟨aSEC_STATUS, 6, 1⟩
def fSEC_STATUS_STAGE : Fld := ⟨aSEC_STATUS, 8, 4⟩
def fSEC_STATUS_SVN : Fld := ⟨aSEC_STATUS, 16, 7⟩
def aSEC_ALARM : Nat := 0x100008
def fSEC_ALARM_IMG_REFUSED : Fld := ⟨aSEC_ALARM, 0, 1⟩
def fSEC_ALARM_IMG_MISMATCH : Fld := ⟨aSEC_ALARM, 1, 1⟩
def fSEC_ALARM_BANK_FALLBACK : Fld := ⟨aSEC_ALARM, 2, 1⟩
def fSEC_ALARM_ATT_DONE : Fld := ⟨aSEC_ALARM, 3, 1⟩
def fSEC_ALARM_RST_DEFERRED : Fld := ⟨aSEC_ALARM, 4, 1⟩
def aSEC_ALARM_EN : Nat := 0x10000c
def aSEC_CFG : Nat := 0x100010
def fSEC_CFG_DEF_R : Fld := ⟨aSEC_CFG, 0, 3⟩
def fSEC_CFG_DEF_W : Fld := ⟨aSEC_CFG, 4, 3⟩
def fSEC_CFG_WINDOW_INIT : Fld := ⟨aSEC_CFG, 8, 3⟩
def fSEC_CFG_WINDOW_HOST : Fld := ⟨aSEC_CFG, 11, 1⟩
def fSEC_CFG_WINDOW_MS : Fld := ⟨aSEC_CFG, 16, 16⟩
def aSEC_CST_BOUND : Nat := 0x100014
def fSEC_CST_BOUND_PATCH : Fld := ⟨aSEC_CST_BOUND, 0, 3⟩
def fSEC_CST_BOUND_RESET : Fld := ⟨aSEC_CST_BOUND, 4, 3⟩
def aSEC_RST_FUNC : Nat := 0x100018
def aSEC_RST_LODGE : Nat := 0x10001c
def aSEC_CST_RST : Nat := 0x100020
def aSEC_RST_STATUS : Nat := 0x100024
def fSEC_RST_STATUS_FUNC : Fld := ⟨aSEC_RST_STATUS, 0, 15⟩
def fSEC_RST_STATUS_LODGE : Fld := ⟨aSEC_RST_STATUS, 16, 8⟩
def fSEC_RST_STATUS_CST : Fld := ⟨aSEC_RST_STATUS, 24, 1⟩
def fSEC_RST_STATUS_WARM_WAIT : Fld := ⟨aSEC_RST_STATUS, 30, 1⟩
def fSEC_RST_STATUS_WARM : Fld := ⟨aSEC_RST_STATUS, 31, 1⟩
def aSEC_RST_DEFER : Nat := 0x100028
def aSEC_CIPH_BLOCKED : Nat := 0x10002c
def aSEC_CUST_HASH (i : Nat) : Nat := 0x100100 + 0x4 * i
def aSEC_FUSE_CMD : Nat := 0x100140
def aSEC_ROOT_HASH (i : Nat) : Nat := 0x100180 + 0x4 * i
def aSEC_REG_FIRST (i : Nat) : Nat := 0x100200 + 0x10 * i
def aSEC_REG_LAST (i : Nat) : Nat := 0x100204 + 0x10 * i
def aSEC_REG_RIGHTS (i : Nat) : Nat := 0x100208 + 0x10 * i
def fSEC_REG_RIGHTS_PCIE_R (i : Nat) : Fld := ⟨aSEC_REG_RIGHTS i, 0, 1⟩
def fSEC_REG_RIGHTS_PCIE_W (i : Nat) : Fld := ⟨aSEC_REG_RIGHTS i, 1, 1⟩
def fSEC_REG_RIGHTS_MGT_R (i : Nat) : Fld := ⟨aSEC_REG_RIGHTS i, 2, 1⟩
def fSEC_REG_RIGHTS_MGT_W (i : Nat) : Fld := ⟨aSEC_REG_RIGHTS i, 3, 1⟩
def fSEC_REG_RIGHTS_LINE_R (i : Nat) : Fld := ⟨aSEC_REG_RIGHTS i, 4, 1⟩
def fSEC_REG_RIGHTS_LINE_W (i : Nat) : Fld := ⟨aSEC_REG_RIGHTS i, 5, 1⟩
def fSEC_REG_RIGHTS_EN (i : Nat) : Fld := ⟨aSEC_REG_RIGHTS i, 8, 1⟩
def aSEC_ATT_NONCE (i : Nat) : Nat := 0x101000 + 0x4 * i
def aSEC_ATT_CMD : Nat := 0x101020
def aSEC_ATT_STATUS : Nat := 0x101024
def fSEC_ATT_STATUS_BUSY : Fld := ⟨aSEC_ATT_STATUS, 0, 1⟩
def fSEC_ATT_STATUS_READY : Fld := ⟨aSEC_ATT_STATUS, 1, 1⟩
def aSEC_QUOTE (i : Nat) : Nat := 0x101100 + 0x4 * i
def aSEC_IDCERT (i : Nat) : Nat := 0x101400 + 0x4 * i
def aSEC_IMG_CTRL : Nat := 0x102000
def fSEC_IMG_CTRL_CMD : Fld := ⟨aSEC_IMG_CTRL, 0, 3⟩
def fSEC_IMG_CTRL_KIND : Fld := ⟨aSEC_IMG_CTRL, 4, 2⟩
def fSEC_IMG_CTRL_LEN : Fld := ⟨aSEC_IMG_CTRL, 16, 16⟩
def aSEC_IMG_STATUS : Nat := 0x102004
def fSEC_IMG_STATUS_CODE : Fld := ⟨aSEC_IMG_STATUS, 0, 4⟩
def fSEC_IMG_STATUS_BUSY : Fld := ⟨aSEC_IMG_STATUS, 8, 1⟩
def fSEC_IMG_STATUS_PREF_B : Fld := ⟨aSEC_IMG_STATUS, 12, 3⟩
def aSEC_IMG_WINDOW (i : Nat) : Nat := 0x110000 + 0x4 * i

end Sys2Proof.Machine
end

