-- ==== Sys2Proof/Machine/RegTable.lean ====
section
/-!
DEFINITION. The register table: every row of the register tables of spec/ (R441, R465, R388, R253, R283, R353, R371,
R232, R207, R331, R67, R98, R121, R140, R168, R188, R308) with its access code, its defined bits, its reset value and
the values it holds in place of those it does not (R507).
-/

namespace Sys2Proof.Machine

/-- R7: the register access codes (WO is used by the tables of R232, R283, R331 and R465). -/
inductive Acc where
  | ro | rw | rwm | w1c | rwl | wo
deriving DecidableEq, Repr

/-- R507 and the registers' own words: how a field holds a written value outside its range.
`clamp lo len min max`: at the nearest end.  `clampS lo len lim`: two's complement, within ±lim.
`code lo len bad good`: the code `bad` acts as `good`.  `taps`: RXD_EQ_CFG.TAPS, the next lower multiple of 8. -/
inductive Norm where
  | clamp (lo len min max : Nat)
  | clampS (lo len lim : Nat)
  | code (lo len bad good : Nat)
  | taps
deriving DecidableEq, Repr

/-- The blocks of R426; the seven lane blocks stand once, for every lane. -/
inductive Block where
  | glb | sec | mem | plu | time | hkm | cal | ciph | cli | cst
  | conv | rxd | txd | fec | lfr | pmon | ksc
deriving DecidableEq, Repr

/-- One row of a register table: `n1` registers `s1` bytes apart, in each `n2` registers `s2` bytes apart, each a
value of `words` 32-bit words. -/
structure RegRow where
  off : Nat
  n1 : Nat
  s1 : Nat
  n2 : Nat
  s2 : Nat
  words : Nat
  acc : Acc
  /-- the bits that are defined (RO) or that a write may set -/
  mask : Nat
  reset : Nat
  /-- a staged register (R29) -/
  staged : Bool
  /-- Level data (R21) -/
  level : Bool
  norms : List Norm
deriving DecidableEq, Repr

/-- A row of one register. -/
def row1 (off words : Nat) (acc : Acc) (mask reset : Nat) (staged level : Bool) (norms : List Norm) : RegRow :=
  ⟨off, 1, 0x4000000, 1, 0x4000000, words, acc, mask, reset, staged, level, norms⟩
/-- A row of `n` registers `s` bytes apart. -/
def rowN (off n s words : Nat) (acc : Acc) (mask reset : Nat) (staged level : Bool) (norms : List Norm) : RegRow :=
  ⟨off, n, s, 1, s, words, acc, mask, reset, staged, level, norms⟩
/-- A row of `n1` times `n2` registers. -/
def rowNN (off n1 s1 n2 s2 words : Nat) (acc : Acc) (mask reset : Nat) (staged level : Bool) (norms : List Norm) :
    RegRow :=
  ⟨off, n1, s1, n2, s2, words, acc, mask, reset, staged, level, norms⟩

/-- 02_line_converters.md, R67. -/
def rowsCONV : List RegRow := [
  row1 0x0 1 .ro 0xff0007 0xb00000 false true [],  -- CONV_ID
  row1 0x4 1 .rwm 0xf 0x4 false false [],  -- CONV_CTRL
  row1 0x8 1 .ro 0xff77 0x0 false true [],  -- CONV_STATE
  row1 0xc 1 .w1c 0x7ff 0x0 false true [],  -- CONV_ALARM
  row1 0x10 1 .rw 0x7ff 0x0 false false [],  -- CONV_ALARM_EN
  row1 0x14 1 .ro 0xffffffff 0x0 false true [],  -- CONV_RXSYN_TRIM
  row1 0x18 1 .ro 0xffffffff 0x0 false true [],  -- CONV_RX_LAT
  row1 0x1c 1 .ro 0xffffffff 0x0 false true [],  -- CONV_TX_LAT
  rowN 0x20 16 0x4 1 .rw 0x7f0000 0x7f007f false false [],  -- CONV_SPARE
  rowN 0x80 4 0x8 2 .ro 0xffffffff 0x0 false true [],  -- CONV_OVR_CNT
  rowN 0xa0 4 0x4 1 .ro 0xffffffff 0x0 false true [],  -- CONV_RMS
  row1 0x100 1 .rw 0x7f0f1f 0xf00 false false [],  -- CONV_CAP_CTRL
  row1 0x104 1 .ro 0xffff000f 0x0 false true [],  -- CONV_CAP_STATUS
  row1 0x108 3 .ro 0xffffffff 0x0 false true [],  -- CONV_CAP_TS
  rowNN 0x10000 4 0x20 8 0x4 1 .ro 0xffffffff 0x0 false false [],  -- CONV_CAP_FLAGS
  rowNN 0x20000 4 0x8000 8192 0x4 1 .ro 0xffffffff 0x0 false false []]  -- CONV_CAP_SAMPLES

/-- 03_receive_dsp.md, R98. -/
def rowsRXD : List RegRow := [
  row1 0x0 1 .rwm 0x7f 0x24 false false [.code 4 2 3 0],  -- RXD_CTRL
  row1 0x4 1 .ro 0xf77ff 0x3010 false true [],  -- RXD_STATE
  row1 0x8 1 .w1c 0x1ff 0x0 false true [],  -- RXD_ALARM
  row1 0xc 1 .rw 0x1ff 0x0 false false [],  -- RXD_ALARM_EN
  row1 0x10 1 .rw 0x3 0x0 true false [],  -- RXD_SCFG
  row1 0x14 1 .rw 0xffffffff 0x0 true false [],  -- RXD_CD_FIXED
  row1 0x18 1 .rw 0xffffffff 0x80000000 false false [],  -- RXD_CD_HINT
  row1 0x1c 1 .rw 0xfff 0x940 false false [.taps, .clamp 8 4 4 15],  -- RXD_EQ_CFG
  row1 0x20 1 .rw 0x7 0x5 false false [],  -- RXD_CR_CFG
  row1 0x24 1 .rw 0x37 0x15 false false [.code 1 2 3 2],  -- RXD_CPR_CFG
  row1 0x28 1 .rw 0x3f073fff 0xa0203e8 false false [.clamp 0 14 10 10000, .code 24 6 0 1],  -- RXD_LO_CFG
  row1 0x2c 1 .rw 0xffffff 0x146590 false false [.code 0 16 0 1],  -- RXD_LO_LIMIT
  row1 0x30 1 .rw 0xffffff 0x0 false false [],  -- RXD_LO_HOST
  row1 0x34 1 .rw 0xffffffff 0x1000800 false false [],  -- RXD_LOS_THR
  row1 0x40 1 .ro 0xffffffff 0x0 false true [],  -- RXD_CD_EST
  row1 0x44 1 .ro 0xffffffff 0x0 false true [],  -- RXD_FO_EST
  row1 0x48 1 .ro 0xffffffff 0x0 false true [],  -- RXD_LO_ACC
  row1 0x4c 1 .ro 0xffff 0x0 false true [],  -- RXD_OSNR
  row1 0x50 1 .ro 0xffff 0x0 false true [],  -- RXD_SNR
  row1 0x54 1 .ro 0xffff 0x0 false true [],  -- RXD_Q
  row1 0x58 1 .ro 0xffff 0x0 false true [],  -- RXD_DGD
  row1 0x5c 1 .ro 0xffffffff 0x0 false true [],  -- RXD_SOP_RATE
  row1 0x60 1 .ro 0xffffffff 0x0 false true [],  -- RXD_SOP_PEAK
  row1 0x64 1 .ro 0xffffffff 0x0 false true [],  -- RXD_EQ_DELAY
  row1 0x68 1 .ro 0x7f 0x0 false true [],  -- RXD_MET_VALID
  row1 0x6c 1 .ro 0xffffffff 0x0 false true [],  -- RXD_ACQ_TIME
  row1 0x80 2 .ro 0xffffffff 0x0 false true [],  -- RXD_SLIP_CNT
  row1 0x88 2 .ro 0xffffffff 0x0 false true [],  -- RXD_ACQ_CNT
  row1 0x90 2 .ro 0xffffffff 0x0 false true [],  -- RXD_ACQ_FAIL_CNT
  row1 0x98 2 .ro 0xffffffff 0x0 false true [],  -- RXD_LOS_CNT
  row1 0xa0 1 .rw 0x3f3f 0x1800 true false [],  -- RXD_NLC_CFG
  row1 0xb0 1 .rw 0x1ff0773 0x1a00400 true false [],  -- RXD_RX_FMT
  row1 0xb4 1 .rw 0xff0fff 0x800960 true false [],  -- RXD_RX_RATE
  row1 0xb8 1 .rw 0x1f 0x5 true false [],  -- RXD_RX_PULSE
  rowNN 0x100 40 0x20 5 0x4 1 .rw 0xffff 0x0 true false []]  -- RXD_NLC_SPAN

/-- 04_transmit_and_formats.md, R121. -/
def rowsTXD : List RegRow := [
  row1 0x0 1 .rwm 0x3 0x0 false false [],  -- TXD_CTRL
  row1 0x4 1 .ro 0x17ff 0x400 false true [],  -- TXD_STATE
  row1 0x8 1 .w1c 0x7 0x0 false true [],  -- TXD_ALARM
  row1 0xc 1 .rw 0x7 0x0 false false [],  -- TXD_ALARM_EN
  row1 0x10 1 .rw 0x1ff0773 0x1a00400 true false [],  -- TXD_FMT
  row1 0x14 1 .rw 0xff0fff 0x800960 true false [],  -- TXD_RATE
  row1 0x18 1 .rw 0x1f 0x5 true false [],  -- TXD_PULSE
  row1 0x1c 1 .rw 0x7ff 0x200 false false [.clamp 0 11 256 1024],  -- TXD_LEVEL
  row1 0x20 1 .rw 0x3f01 0x3001 false false [.clamp 8 6 36 60],  -- TXD_KS
  row1 0x24 1 .rw 0x3 0x1 false false [],  -- TXD_PREEMP_CTRL
  row1 0x28 1 .rw 0xffffffff 0x0 false false [.clampS 0 16 1000, .clampS 16 8 100, .clampS 24 8 100],  -- TXD_IQ_X
  row1 0x2c 1 .rw 0xffffffff 0x0 false false [.clampS 0 16 1000, .clampS 16 8 100, .clampS 24 8 100],  -- TXD_IQ_Y
  row1 0x30 1 .rw 0xffff 0x0 false false [.clampS 0 16 500],  -- TXD_XY_SKEW
  row1 0x40 1 .ro 0xffffffff 0x311b54 false true [],  -- TXD_CAP_RATE
  row1 0x44 1 .ro 0xffffffff 0x24ec5 false true [],  -- TXD_LF_SYM
  row1 0x48 1 .ro 0xffffffff 0xb20 false true [],  -- TXD_ESS_BOUND
  row1 0x4c 1 .ro 0xffffffff 0x0 false true [],  -- TXD_COURSE
  row1 0x50 2 .ro 0xffffffff 0x0 false true [],  -- TXD_CLIP_CNT
  row1 0x58 2 .ro 0xffffffff 0x0 false true [],  -- TXD_LF_CNT
  rowN 0x100 32 0x4 1 .rw 0x3ff 0x0 false false [.clamp 0 10 0 600]]  -- TXD_PREEMP

/-- 05_fec.md, R140. -/
def rowsFEC : List RegRow := [
  row1 0x0 1 .rwm 0x3 0x3 false false [],  -- FEC_CTRL
  row1 0x4 1 .ro 0x1f0777 0xc0440 false true [],  -- FEC_STATE
  row1 0x8 1 .w1c 0x1f 0x0 false true [],  -- FEC_ALARM
  row1 0xc 1 .rw 0x1f 0x0 false false [],  -- FEC_ALARM_EN
  row1 0x10 1 .rw 0x1f 0xc false false [.clamp 0 5 1 24],  -- FEC_ITER
  row1 0x14 1 .rw 0x70f 0x306 true false [],  -- FEC_OCFG
  row1 0x18 1 .ro 0xffffffff 0xacdc1 false true [],  -- FEC_RX_LAT
  row1 0x1c 1 .ro 0xffffffff 0x127ea false true [],  -- FEC_TX_LAT
  row1 0x20 1 .ro 0xffff 0x69c0 false true [],  -- FEC_K
  row1 0x24 1 .ro 0xffff 0x0 false true [],  -- FEC_OBP
  row1 0x28 1 .ro 0x1f 0x0 false true [],  -- FEC_ITER_PEAK
  rowN 0x80 10 0x8 2 .ro 0xffffffff 0x0 false true []]  -- FEC_CNT

/-- 06_line_framing.md, R168. -/
def rowsLFR : List RegRow := [
  row1 0x0 1 .rwm 0xf 0xc false false [],  -- LFR_CTRL
  row1 0x4 1 .ro 0xff0fff7f 0x2300 false true [],  -- LFR_STATE
  row1 0x8 1 .w1c 0xffff 0x0 false true [],  -- LFR_ALARM
  row1 0xc 1 .rw 0xffff 0x0 false false [],  -- LFR_ALARM_EN
  row1 0x10 1 .rw 0xff 0x40 false false [.clamp 0 8 16 160],  -- LFR_ALIGN_CFG
  row1 0x14 1 .rw 0xffff00ff 0x3e80008 false false [.clamp 0 8 1 255],  -- LFR_SD_CFG
  row1 0x18 1 .rw 0xff0fff 0x0 false false [],  -- LFR_PSF_TX
  row1 0x1c 1 .ro 0xffffffff 0x0 false true [],  -- LFR_PSF_RX
  row1 0x20 1 .ro 0xffffffff 0x0 false true [],  -- LFR_COURSE_RX
  row1 0x24 1 .ro 0xffffffff 0x0 false true [],  -- LFR_COURSE_FAR
  rowN 0x44 15 0x4 1 .rw 0xff7f7f07 0x0 false false [],  -- LFR_PSF_BR
  rowN 0x80 10 0x8 2 .ro 0xffffffff 0x0 false true [],  -- LFR_CNT
  rowN 0x400 128 0x4 1 .ro 0xffff7f 0x0 false true [],  -- LFR_SLOT
  rowN 0x800 128 0x10 2 .ro 0xffffffff 0x0 false true [],  -- LFR_PBIP
  rowN 0x808 128 0x10 2 .ro 0xffffffff 0x0 false true []]  -- LFR_PBEI

/-- 07_performance_monitoring.md, R188. -/
def rowsPMON : List RegRow := [
  row1 0x0 1 .rwm 0x7 0x5 false false [],  -- PMON_CTRL
  row1 0x4 1 .rw 0x3f 0xf false false [.clamp 0 6 1 50],  -- PMON_CFG
  row1 0x8 1 .ro 0x3f7f 0x0 false true [],  -- PMON_STATUS
  row1 0xc 1 .w1c 0x7 0x0 false true [],  -- PMON_ALARM
  row1 0x10 1 .rw 0x7 0x0 false false [],  -- PMON_ALARM_EN
  row1 0x14 2 .ro 0xffffffff 0x0 false true [],  -- PMON_SECOND
  row1 0x20 1 .rw 0x3f7f03 0x0 false false [.clamp 16 6 0 40],  -- PMON_SEL
  rowN 0x30 4 0x4 1 .ro 0xffffffff 0x0 false true [],  -- PMON_PATH_UAS
  rowN 0x40 4 0x4 1 .ro 0xffffffff 0x0 false true [],  -- PMON_TRIB_UAS
  rowN 0x100 42 0x4 1 .ro 0xffffffff 0x0 false true [],  -- PMON_REC
  rowN 0x200 48 0x4 1 .rw 0xffffffff 0x0 false false [],  -- PMON_TCA_THR
  rowN 0x300 4 0x4 1 .rw 0xffffffff 0x0 false false [],  -- PMON_TCA_GAUGE
  rowNN 0x400 64 0x10 4 0x4 1 .ro 0xffffffff 0x0 false true []]  -- PMON_LOG

/-- 08_client_mapping.md, R207. -/
def rowsCLI : List RegRow := [
  row1 0x0 1 .rwm 0x3 0x0 false false [],  -- CLI_CTRL
  row1 0x4 1 .ro 0x7f0003 0x0 false true [],  -- CLI_STATUS
  row1 0x8 1 .w1c 0x7 0x0 false true [],  -- CLI_ALARM
  row1 0xc 1 .rw 0x7 0x0 false false [],  -- CLI_ALARM_EN
  rowN 0x10 2 0x4 1 .rw 0xff 0x0 true false [],  -- CLI_OCTMODE
  rowN 0x40 16 0x4 1 .rw 0xff 0x0 false false [],  -- CLI_RCLK_SEL
  rowN 0x1000 64 0x80 1 .rw 0x7f1f0f 0x0 true false [],  -- CLI_PORT_CFG
  rowN 0x1004 64 0x80 1 .ro 0x1f3f 0x0 false true [],  -- CLI_PORT_STATUS
  rowN 0x1008 64 0x80 1 .w1c 0x3f 0x0 false true [],  -- CLI_PORT_ALARM
  rowNN 0x1010 64 0x80 9 0x8 2 .ro 0xffffffff 0x0 false true [],  -- CLI_PORT_CNT
  rowN 0x4000 256 0x20 1 .rw 0x7ffff 0x0 true false [],  -- CLI_FLOW_CFG
  rowNN 0x4004 256 0x20 4 0x4 1 .rw 0xffffffff 0x0 true false [],  -- CLI_FLOW_SLOTS
  rowN 0x4014 256 0x20 1 .ro 0xffff7f07 0x0 false true [],  -- CLI_FLOW_STATUS
  rowN 0x4018 256 0x20 1 .ro 0xffffffff 0x0 false true [],  -- CLI_FLOW_OVF
  rowN 0x8000 8 0x200 1 .rw 0xfffff3ff 0x0 true false [],  -- CLI_FX_CFG
  rowN 0x8004 8 0x200 1 .ro 0x1f 0x0 false true [],  -- CLI_FX_STATUS
  rowNN 0x8040 8 0x200 80 0x4 1 .rw 0xffffffff 0xffffffff true false []]  -- CLI_FX_CAL

/-- 09_cipher.md, R232. -/
def rowsCIPH : List RegRow := [
  row1 0x0 1 .ro 0x1ff 0x1a0 false false [],  -- CIPH_ID
  row1 0x4 1 .rwm 0x1 0x0 false false [],  -- CIPH_CTRL
  row1 0x8 1 .ro 0x3ff0007 0x6 false true [],  -- CIPH_STATUS
  row1 0xc 1 .w1c 0x7f 0x0 false true [],  -- CIPH_ALARM
  row1 0x10 1 .rw 0x7f 0x0 false false [],  -- CIPH_ALARM_EN
  row1 0x20 1 .rw 0x1fff 0x0 false false [],  -- CIPH_KEY_SEL
  row1 0x24 1 .rw 0x3 0x0 false false [],  -- CIPH_KEY_CMD
  row1 0x28 1 .ro 0xfffffff1 0x0 false false [],  -- CIPH_KEY_STATUS
  row1 0x2c 1 .ro 0x1ffff 0x0 false false [],  -- CIPH_KEY_REFS
  rowN 0x30 8 0x4 1 .wo 0xffffffff 0x0 false false [],  -- CIPH_KEY_DATA
  rowN 0x100 32 0x8 1 .rwl 0x1fff1fff 0x0 false false [],  -- CIPH_KPOL_RANGE
  rowN 0x104 32 0x8 1 .rwl 0x77f 0x0 false false [],  -- CIPH_KPOL_FLAGS
  row1 0x200 1 .rw 0xffff 0x0 false false [],  -- CIPH_CTX_SEL
  row1 0x204 1 .ro 0x1f7 0x0 false true [],  -- CIPH_CTX_STATE
  rowN 0x210 13 0x4 1 .rw 0xffffffff 0x0 true false [],  -- CIPH_CTX_CFG
  rowN 0x250 4 0x4 1 .rw 0xffffffff 0x0 false false [],  -- CIPH_CTX_IV
  rowN 0x280 5 0x8 2 .ro 0xffffffff 0x0 false true [],  -- CIPH_CTX_CNT
  rowN 0x400 16 0x20 1 .rw 0x377 0x170 false false [],  -- CIPH_JOB_CTRL
  rowN 0x404 16 0x20 1 .rw 0xffff 0x0 false false [],  -- CIPH_JOB_CTX
  rowN 0x408 16 0x20 1 .rw 0xffffffff 0x0 false false [],  -- CIPH_JOB_LEN
  rowN 0x40c 16 0x20 1 .rw 0xffff 0x0 false false [],  -- CIPH_JOB_AAD
  rowN 0x410 16 0x20 1 .rw 0xffffffff 0x0 false false [],  -- CIPH_JOB_SRC
  rowN 0x414 16 0x20 1 .rw 0xffffffff 0x0 false false [],  -- CIPH_JOB_DST
  rowN 0x418 16 0x20 1 .ro 0xf07 0x0 false false [],  -- CIPH_JOB_STATUS
  rowN 0x41c 16 0x20 1 .ro 0xffffffff 0x0 false false [],  -- CIPH_JOB_OUTLEN
  rowN 0x80000 65536 0x4 1 .rw 0xffffffff 0x0 false false []]  -- CIPH_MSG_BUF

/-- 10_plumb_unit.md, R253. -/
def rowsPLU : List RegRow := [
  row1 0x0 1 .rwm 0x7 0x1 false false [],  -- PLU_CTRL
  row1 0x4 1 .ro 0x3f1f7f 0x3f1f20 false true [],  -- PLU_STATE
  row1 0x8 1 .w1c 0x1ff 0x0 false true [],  -- PLU_ALARM
  row1 0xc 1 .rw 0x1ff 0x0 false false [],  -- PLU_ALARM_EN
  row1 0x10 1 .rw 0xffff0007 0x7d00002 false false [.clamp 0 3 0 6, .clamp 16 16 1 20000],  -- PLU_LOOP
  row1 0x14 1 .rw 0xffffff 0x5c03e8 false false [.clamp 16 8 1 255],  -- PLU_QUAL
  row1 0x18 1 .rw 0xffffffff 0x6403e8 false false [],  -- PLU_LOCK
  row1 0x1c 1 .rw 0xffffffff 0x2258 false false [.clamp 0 12 60 4095, .clamp 12 4 1 15],  -- PLU_HOLD
  row1 0x20 1 .rw 0xffff 0x3c false false [],  -- PLU_ACQ_LIMIT
  row1 0x24 1 .rw 0xffffffff 0x0 false false [],  -- PLU_PHASE_STEP
  row1 0x28 1 .ro 0xffffffff 0x0 false true [],  -- PLU_PHASE_OFS
  row1 0x2c 1 .ro 0xffffffff 0x0 false true [],  -- PLU_PHASE_ERR
  row1 0x30 1 .ro 0xffffffff 0x0 false true [],  -- PLU_FREQ
  row1 0x34 1 .ro 0xffffffff 0x0 false true [],  -- PLU_HOLD_FREQ
  row1 0x38 1 .ro 0xffffffff 0x0 false true [],  -- PLU_HOLD_TIME
  rowN 0x40 16 0x4 1 .rw 0xffff1f1f 0x12c0000 true false [],  -- PLU_PRIO
  rowN 0x80 32 0x4 1 .ro 0xffff007f 0x0 false true [],  -- PLU_REF_STATUS
  rowN 0x100 32 0x4 1 .ro 0xffffffff 0x0 false true [],  -- PLU_REF_FREQ
  rowN 0x180 4 0x4 1 .rw 0xf 0x0 false false [],  -- PLU_REFIN_CFG
  rowN 0x1a0 4 0x4 1 .rw 0x37 0x10 false false [.code 4 2 3 2],  -- PLU_CLKOUT
  row1 0x1c0 2 .ro 0xffffffff 0x0 false true [],  -- PLU_SWITCH_CNT
  row1 0x1c8 2 .ro 0xffffffff 0x0 false true []]  -- PLU_HOLD_CNT

/-- 11_network_time.md, R283. -/
def rowsTIME : List RegRow := [
  row1 0x0 1 .rwm 0x3 0x0 false false [],  -- TIME_CTRL
  row1 0x4 1 .ro 0x37777 0x0 false true [],  -- TIME_STATUS
  row1 0x8 1 .w1c 0xfff 0x0 false true [],  -- TIME_ALARM
  row1 0xc 1 .rw 0xfff 0x0 false false [],  -- TIME_ALARM_EN
  row1 0x10 1 .rw 0xffffffff 0x250025 false false [],  -- TIME_UTC
  row1 0x14 1 .rw 0xffffffff 0x0 false false [],  -- TIME_UTC_AT
  row1 0x20 1 .rw 0xffff0007 0x27100004 false false [.code 0 2 3 0, .clamp 16 16 1 50000],  -- TIME_PPS_CFG
  row1 0x24 1 .rw 0xffffffff 0x0 false false [],  -- TIME_PPS_OFS
  rowN 0x40 4 0x10 3 .ro 0xffffffff 0x0 false false [],  -- TIME_PPSIN_TS
  rowN 0x4c 4 0x10 1 .rw 0xffffffff 0x0 false false [],  -- TIME_PPSIN_OFS
  rowN 0x100 4 0x40 3 .ro 0xffffffff 0x0 false false [],  -- TIME_TB_NOW
  rowN 0x10c 4 0x40 1 .ro 0xffff 0x0 false false [],  -- TIME_TB_NOWF
  rowN 0x110 4 0x40 3 .rw 0xffffffff 0x0 false false [],  -- TIME_TB_SET
  rowN 0x11c 4 0x40 2 .rw 0xffffffff 0x0 false false [],  -- TIME_TB_STEP
  rowN 0x124 4 0x40 1 .rw 0x1777 0x1200 false false [.clamp 8 3 0 4],  -- TIME_TB_SERVO
  rowN 0x128 4 0x40 1 .rw 0xffffffff 0x3e8 false false [],  -- TIME_TB_STEP_THR
  rowN 0x12c 4 0x40 1 .rw 0xffffffff 0x6407d0 false false [.clamp 16 16 1 2000],  -- TIME_TB_LOCK
  rowN 0x130 4 0x40 1 .wo 0xffffffff 0x0 false false [],  -- TIME_TB_HOST_OFS
  rowN 0x134 4 0x40 1 .ro 0xffffffff 0x0 false true [],  -- TIME_TB_OFFSET
  rowN 0x138 4 0x40 1 .ro 0xffffffff 0x0 false true [],  -- TIME_TB_FREQ
  rowN 0x13c 4 0x40 1 .ro 0xffffffff 0x0 false true [],  -- TIME_TB_STEP_CNT
  rowN 0x400 8 0x40 1 .rw 0xf 0xf false false [],  -- TIME_LANE_CFG
  rowN 0x404 8 0x40 1 .rw 0xffffffff 0x0 false false [],  -- TIME_LANE_TXF
  rowN 0x408 8 0x40 1 .rw 0xffffffff 0x0 false false [],  -- TIME_LANE_RXF
  rowN 0x40c 8 0x40 1 .rw 0xffffffff 0x0 false false [],  -- TIME_LANE_ASYM_FIX
  rowN 0x410 8 0x40 1 .ro 0xff 0x0 false true [],  -- TIME_LANE_STATUS
  rowN 0x414 8 0x40 1 .ro 0xffffffff 0x0 false true [],  -- TIME_LANE_OFFSET
  rowN 0x418 8 0x40 1 .ro 0xffffffff 0x0 false true [],  -- TIME_LANE_ASYM_CD
  rowN 0x41c 8 0x40 1 .ro 0xffffffff 0x0 false true [],  -- TIME_LANE_INT_TX
  rowN 0x420 8 0x40 1 .ro 0xffffffff 0x0 false true [],  -- TIME_LANE_INT_RX
  rowN 0x424 8 0x40 1 .ro 0xffffffff 0x0 false true [],  -- TIME_LANE_THRU_RX
  rowN 0x428 8 0x40 2 .ro 0xffffffff 0x0 false true [],  -- TIME_LANE_PATH
  rowN 0x430 8 0x40 2 .ro 0xffffffff 0x0 false true [],  -- TIME_LANE_KSPATH
  rowN 0x438 8 0x40 1 .ro 0xffffffff 0x0 false true [],  -- TIME_LANE_FAR_CD
  rowN 0x43c 8 0x40 1 .ro 0xffffffff 0x0 false true [],  -- TIME_LANE_TTF_ERR
  rowN 0x800 32 0x40 1 .rw 0xffff333f 0x0 false false [],  -- TIME_LAUNCH_CTRL
  rowN 0x804 32 0x40 3 .rw 0xffffffff 0x0 false false [],  -- TIME_LAUNCH_T
  rowN 0x810 32 0x40 1 .rw 0xfffffff 0x0 false false [],  -- TIME_LAUNCH_BUF
  rowN 0x814 32 0x40 1 .ro 0x1f7 0x0 false false [],  -- TIME_LAUNCH_STATUS
  rowN 0x818 32 0x40 3 .ro 0xffffffff 0x0 false false [],  -- TIME_LAUNCH_TS
  rowN 0x10000 16384 0x4 1 .rw 0xffffffff 0x0 false false []]  -- TIME_LAUNCH_MEM

/-- 12_keystone_channel.md, R308. -/
def rowsKSC : List RegRow := [
  row1 0x0 1 .rwm 0x1f 0x1f false false [],  -- KSC_CTRL
  row1 0x4 1 .ro 0xfff3f7 0x0 false true [],  -- KSC_STATE
  row1 0x8 1 .w1c 0xff 0x0 false true [],  -- KSC_ALARM
  row1 0xc 1 .rw 0xff 0x0 false false [],  -- KSC_ALARM_EN
  row1 0x10 1 .rw 0x1f0f1f1f 0xa060c0c false false [.clamp 0 5 10 16, .clamp 8 5 10 16, .clamp 16 4 3 12, .clamp 24 5 8 20],  -- KSC_CFG
  row1 0x14 1 .rw 0xfff 0x1 false false [],  -- KSC_NETID
  row1 0x18 1 .rw 0x3fff03ff 0x640004 false false [.clamp 0 10 1 1000, .clamp 16 14 10 10000],  -- KSC_TIMING
  row1 0x1c 1 .rw 0x3fff 0xc8 false false [.clamp 0 14 100 10000],  -- KSC_RANGE_MS
  row1 0x20 1 .ro 0xffffffff 0x0 false true [],  -- KSC_FO_EST
  row1 0x24 1 .ro 0xffff 0x0 false true [],  -- KSC_RX_SNR
  row1 0x28 1 .ro 0x173fff 0x0 false true [],  -- KSC_FAR_ID
  row1 0x2c 1 .ro 0xffffffff 0x0 false true [],  -- KSC_FAR_FMT
  row1 0x30 1 .ro 0xffffffff 0x0 false true [],  -- KSC_FAR_RATE
  row1 0x34 1 .ro 0xf1f 0x0 false true [],  -- KSC_FAR_MISC
  row1 0x38 1 .ro 0xffffffff 0x0 false true [],  -- KSC_FAR_CD
  row1 0x3c 1 .ro 0xffffffff 0x0 false true [],  -- KSC_FAR_FO_SEEN
  row1 0x40 1 .ro 0xffffffff 0x0 false true [],  -- KSC_FAR_COURSE
  row1 0x44 1 .ro 0xffffffff 0x0 false true [],  -- KSC_FCRS_NUM
  row1 0x48 3 .ro 0xffffffff 0x0 false true [],  -- KSC_FCRS_T
  row1 0x54 1 .ro 0x1f37 0x0 false true [],  -- KSC_FCRS_INFO
  row1 0x58 1 .ro 0xffffffff 0x0 false true [],  -- KSC_FCRS_FMT
  row1 0x5c 1 .ro 0xffffffff 0x0 false true [],  -- KSC_FCRS_RATE
  rowN 0x80 14 0x8 2 .ro 0xffffffff 0x0 false true [],  -- KSC_CNT
  rowN 0x200 4 0x10 3 .ro 0xffffffff 0x0 false true [],  -- KSC_RNG_TS
  row1 0x240 1 .ro 0xffff 0x0 false true [],  -- KSC_RNG_ID
  rowNN 0x400 32 0x10 4 0x4 1 .ro 0xffffffff 0x0 false true []]  -- KSC_LOG

/-- 13_cornerstone.md, R331. -/
def rowsCST : List RegRow := [
  row1 0x0 1 .ro 0xffffffff 0x1b0 false false [],  -- CST_ID
  row1 0x4 1 .ro 0xffffffff 0x0 false false [],  -- CST_STATUS
  row1 0x8 1 .ro 0xffffffff 0x0 false false [],  -- CST_BLOCKS
  row1 0x10 3 .ro 0xffffffff 0x0 false false [],  -- CST_TB3_NOW
  row1 0x20 2 .ro 0xffffffff 0x0 false false [],  -- CST_TB3_OFS
  row1 0x28 1 .ro 0xffffffff 0x0 false false [],  -- CST_TB3_FREQ
  row1 0x30 2 .ro 0xffffffff 0x0 false false [],  -- CST_NEWEST
  row1 0x38 2 .ro 0xffffffff 0x0 false false [],  -- CST_OLDEST
  row1 0x40 1 .wo 0xffffffff 0x0 false false [],  -- CST_PATCH_GO
  row1 0x44 1 .ro 0x3 0x0 false false [],  -- CST_PATCH_STATUS
  row1 0x48 2 .rw 0xffffffff 0x0 false false [],  -- CST_SEL
  row1 0x50 1 .ro 0x3fff0003 0x0 false false [],  -- CST_REC_STATUS
  rowN 0x80 10 0x8 2 .ro 0xffffffff 0x0 false false [],  -- CST_CNT
  rowN 0x10000 4096 0x4 1 .ro 0xffffffff 0x0 false false [],  -- CST_RECORD
  rowNN 0x20000 2 0x4000 4096 0x4 1 .ro 0xffffffff 0x0 false false [],  -- CST_BANK
  rowN 0x30000 128 0x4 1 .ro 0xffffffff 0x0 false false [],  -- CST_CERT
  rowN 0x80000 16384 0x4 1 .wo 0xffffffff 0x0 false false []]  -- CST_MAILBOX

/-- 14_housekeeping_monitor.md, R353. -/
def rowsHKM : List RegRow := [
  row1 0x0 1 .rwm 0x7 0x1 false false [],  -- HKM_CTRL
  row1 0x4 1 .ro 0xffff1f 0x1 false true [],  -- HKM_STATUS
  row1 0x8 1 .w1c 0x7f 0x0 false true [],  -- HKM_ALARM
  row1 0xc 1 .rw 0x7f 0x0 false false [],  -- HKM_ALARM_EN
  rowN 0x10 2 0x4 1 .rw 0xffff003f 0x0 false false [],  -- HKM_TRIG
  row1 0x18 1 .rw 0x3f3f 0x1818 true false [],  -- HKM_NSLOT
  rowN 0x20 2 0x4 1 .ro 0xffffffff 0x0 false false [],  -- HKM_RESULT
  rowN 0x30 4 0x4 1 .rw 0x1ffff 0x3e8 false false [.clamp 0 16 1 65535],  -- HKM_TMR
  rowN 0x40 8 0x8 1 .rw 0xffff0007 0x7d00000 false false [.code 0 2 3 0, .clamp 16 16 20 65535],  -- HKM_PWM_CFG
  rowN 0x44 8 0x8 1 .rw 0xffff 0x0 false false [],  -- HKM_PWM_DUTY
  rowN 0x80 6 0x8 2 .ro 0xffffffff 0x0 false true [],  -- HKM_CNT
  rowNN 0x100 2 0x80 32 0x4 1 .rw 0x33f 0x0 true false [],  -- HKM_SLOT
  rowN 0x1000 64 0x40 1 .rw 0x3fffffff 0x0 true false [],  -- HKM_IN_CFG
  rowN 0x1004 64 0x40 1 .rw 0xfffff 0x2710 false false [],  -- HKM_IN_PILOT_F
  rowN 0x1008 64 0x40 1 .rw 0xffffffff 0x7fffffff false false [],  -- HKM_IN_THR_HI
  rowN 0x100c 64 0x40 1 .rw 0xffffffff 0x80000000 false false [],  -- HKM_IN_THR_LO
  rowN 0x1010 64 0x40 1 .ro 0xffffffff 0x0 false true [],  -- HKM_IN_FILT
  rowN 0x1014 64 0x40 1 .ro 0x3f 0x0 false true [],  -- HKM_IN_FSTAT
  rowN 0x1018 64 0x40 1 .ro 0xffffffff 0x0 false true [],  -- HKM_IN_PEAK_MAX
  rowN 0x101c 64 0x40 1 .ro 0xffffffff 0x0 false true [],  -- HKM_IN_PEAK_MIN
  rowN 0x1020 64 0x40 1 .ro 0xffffffff 0x0 false true [],  -- HKM_IN_RMS
  rowN 0x1024 64 0x40 1 .ro 0xffffffff 0x0 false true [],  -- HKM_IN_ENV
  rowN 0x1028 64 0x40 1 .ro 0xffffffff 0x0 false true [],  -- HKM_IN_PILOT_MAG
  rowN 0x102c 64 0x40 1 .ro 0xffffffff 0x0 false true [],  -- HKM_IN_PILOT_PH
  rowN 0x1030 64 0x40 1 .ro 0xffffffff 0x0 false false []]  -- HKM_IN_RAW

/-- 15_calibration.md, R371. -/
def rowsCAL : List RegRow := [
  row1 0x0 1 .rwm 0x3 0x1 false false [],  -- CAL_CTRL
  row1 0x4 1 .rw 0x3073f 0x0 false false [],  -- CAL_CMD
  row1 0x8 1 .ro 0xfff77ff7 0x0 false true [],  -- CAL_STATUS
  row1 0xc 1 .w1c 0xff 0x0 false true [],  -- CAL_ALARM
  row1 0x10 1 .rw 0xff 0x0 false false [],  -- CAL_ALARM_EN
  row1 0x14 1 .ro 0xffffffff 0x0 false true [],  -- CAL_Q_SPUR
  row1 0x18 1 .ro 0xffffffff 0x0 false true [],  -- CAL_Q_SKEW
  row1 0x1c 1 .ro 0xffffffff 0x0 false true [],  -- CAL_Q_EYE
  row1 0x20 1 .ro 0xffffffff 0x0 false true [],  -- CAL_RUN_TIME
  row1 0x24 1 .ro 0xffffffff 0x0 false true [],  -- CAL_RUN_TEMP
  rowN 0x40 5 0x4 1 .ro 0xff 0x0 false true [],  -- CAL_DOM_STATUS
  rowN 0x60 5 0x4 1 .ro 0xffffffff 0x0 false true [],  -- CAL_DOM_SEQ
  rowNN 0x80 5 0x20 8 0x4 1 .ro 0x3f01ffff 0x0 false true [],  -- CAL_DOM_PT
  rowN 0x120 5 0x4 1 .ro 0xffffffff 0x0 false true [],  -- CAL_DIE_TEMP
  row1 0x140 1 .ro 0x1ffff 0x51f false true [],  -- CAL_QUARRY
  rowN 0x180 5 0x8 2 .ro 0xffffffff 0x0 false true []]  -- CAL_CNT

/-- 16_memory_integrity.md, R388. -/
def rowsMEM : List RegRow := [
  row1 0x0 1 .rwm 0x3 0x3 false false [],  -- MEM_CTRL
  row1 0x4 1 .ro 0x3f03 0x0 false true [],  -- MEM_STATUS
  row1 0x8 1 .w1c 0xf 0x0 false true [],  -- MEM_ALARM
  row1 0xc 1 .rw 0xf 0x0 false false [],  -- MEM_ALARM_EN
  rowN 0x100 11 0x20 1 .rw 0x11f 0x10c false false [.clamp 0 5 4 24],  -- MEM_ARR_CFG
  rowN 0x104 11 0x20 1 .ro 0xffffff01 0x0 false true [],  -- MEM_ARR_STATUS
  rowN 0x108 11 0x20 2 .ro 0xffffffff 0x0 false true [],  -- MEM_ARR_CE_CNT
  rowN 0x110 11 0x20 2 .ro 0xffffffff 0x0 false true [],  -- MEM_ARR_UE_CNT
  rowN 0x118 11 0x20 2 .ro 0xffffffff 0x0 false true [],  -- MEM_ARR_SWEEP_CNT
  rowNN 0x1000 64 0x10 4 0x4 1 .ro 0xffffffff 0x0 false true []]  -- MEM_LOG

/-- 18_register_interface.md, R441. -/
def rowsGLB : List RegRow := [
  row1 0x0 1 .ro 0x1ffffff 0x1b02560 false false [],  -- GLB_ID
  row1 0x4 1 .ro 0xffffffff 0x0 false false [],  -- GLB_FW
  row1 0x8 2 .ro 0xffffffff 0x0 false false [],  -- GLB_SERIAL
  row1 0x10 1 .ro 0xf 0x0 false false [],  -- GLB_STATUS
  row1 0x14 1 .w1c 0x1f 0x0 false false [],  -- GLB_ALARM
  row1 0x18 1 .rw 0x1f 0x1 false false [],  -- GLB_ALARM_EN
  row1 0x1c 1 .ro 0x1ffff 0x0 false false [],  -- GLB_ALARM_SUM
  row1 0x20 1 .rw 0xffffffff 0x0 false false [],  -- GLB_INT_EN
  row1 0x24 1 .ro 0x3ffff 0x0 false false [],  -- GLB_SAFE
  row1 0x28 1 .ro 0x3ffffff 0x0 false false [],  -- GLB_PAR_ADDR
  row1 0x30 1 .ro 0x10f 0x0 false false [],  -- GLB_ACC_LAST
  row1 0x34 1 .ro 0x3ffffff 0x0 false false [],  -- GLB_ACC_ADDR
  row1 0x38 2 .ro 0xffffffff 0x0 false false [],  -- GLB_ACC_CNT
  row1 0x100 1 .rwm 0xf 0x0 false false [],  -- GLB_LVL_CTRL
  row1 0x104 1 .w1c 0x1 0x0 false false [],  -- GLB_LVL_STAT
  row1 0x108 1 .rw 0x3ff 0x3e8 false false [.clamp 0 10 0 1000],  -- GLB_LVL_PERIOD
  row1 0x10c 1 .ro 0xffffffff 0x0 false false [],  -- GLB_LVL_LATEST
  row1 0x110 1 .ro 0xffffffff 0x0 false false [],  -- GLB_LVL_LAST
  row1 0x114 1 .ro 0xffffffff 0x0 false false [],  -- GLB_LVL_HELD
  row1 0x118 3 .ro 0xffffffff 0x0 false false [],  -- GLB_LVL_INST
  row1 0x124 1 .ro 0x7f 0x0 false false [],  -- GLB_LVL_CAUSES
  row1 0x200 1 .rw 0x13 0x0 false false [],  -- GLB_CRS_CMD
  row1 0x204 1 .rw 0xffffffff 0x0 false false [],  -- GLB_CRS_NUM
  row1 0x208 3 .rw 0xffffffff 0x0 false false [],  -- GLB_CRS_T
  row1 0x214 1 .ro 0xffffffff 0x0 false false [],  -- GLB_CRS_STATUS
  row1 0x218 1 .ro 0xffffffff 0x0 false false [],  -- GLB_CRS_WHERE
  row1 0x21c 1 .ro 0xffffffff 0x0 false false [],  -- GLB_CRS_LAST
  row1 0x220 1 .ro 0xffffffff 0x0 false false [],  -- GLB_CRS_ARMED
  rowN 0x400 16 0x10 3 .rw 0xffffffff 0x0 false false [],  -- GLB_LVL_SCH
  rowN 0xf000 128 0x4 1 .rw 0xffffffff 0x0 false false [],  -- GLB_MSIX_TABLE
  row1 0xf800 1 .ro 0xffffffff 0x0 false false []]  -- GLB_MSIX_PBA

/-- 19_boot_security_reset.md, R465. -/
def rowsSEC : List RegRow := [
  row1 0x0 1 .rwm 0x7 0x0 false false [],  -- SEC_CTRL
  row1 0x4 1 .ro 0x7f0f7f 0x0 false true [],  -- SEC_STATUS
  row1 0x8 1 .w1c 0x1f 0x0 false true [],  -- SEC_ALARM
  row1 0xc 1 .rw 0x1f 0x0 false false [],  -- SEC_ALARM_EN
  row1 0x10 1 .rwl 0xffff0f77 0xea600937 false false [.clamp 16 16 1 65535],  -- SEC_CFG
  row1 0x14 1 .rwl 0x77 0x11 false false [],  -- SEC_CST_BOUND
  row1 0x18 1 .rwm 0x7fff 0x0 false false [],  -- SEC_RST_FUNC
  row1 0x1c 1 .rwm 0xff 0x0 false false [],  -- SEC_RST_LODGE
  row1 0x20 1 .wo 0xffffffff 0x0 false false [],  -- SEC_CST_RST
  row1 0x24 1 .ro 0xc1ff7fff 0x0 false true [],  -- SEC_RST_STATUS
  row1 0x28 1 .ro 0x7fff 0x0 false true [],  -- SEC_RST_DEFER
  row1 0x2c 1 .ro 0x1ffff 0x0 false true [],  -- SEC_CIPH_BLOCKED
  rowN 0x100 16 0x4 1 .rwl 0xffffffff 0x0 false false [],  -- SEC_CUST_HASH
  row1 0x140 1 .wo 0xffffffff 0x0 false false [],  -- SEC_FUSE_CMD
  rowN 0x180 16 0x4 1 .ro 0xffffffff 0x0 false false [],  -- SEC_ROOT_HASH
  rowN 0x200 64 0x10 1 .rwl 0x3ffffff 0x0 false false [],  -- SEC_REG_FIRST
  rowN 0x204 64 0x10 1 .rwl 0x3ffffff 0x0 false false [],  -- SEC_REG_LAST
  rowN 0x208 64 0x10 1 .rwl 0x13f 0x0 false false [],  -- SEC_REG_RIGHTS
  rowN 0x1000 8 0x4 1 .rw 0xffffffff 0x0 false false [],  -- SEC_ATT_NONCE
  row1 0x1020 1 .rw 0x1 0x0 false false [],  -- SEC_ATT_CMD
  row1 0x1024 1 .ro 0x3 0x0 false true [],  -- SEC_ATT_STATUS
  rowN 0x1100 113 0x4 1 .ro 0xffffffff 0x0 false false [],  -- SEC_QUOTE
  rowN 0x1400 69 0x4 1 .ro 0xffffffff 0x0 false false [],  -- SEC_IDCERT
  row1 0x2000 1 .rw 0xffff0037 0x10 false false [],  -- SEC_IMG_CTRL
  row1 0x2004 1 .ro 0xffff 0x0 false true [],  -- SEC_IMG_STATUS
  rowN 0x10000 16384 0x4 1 .rw 0xffffffff 0x0 false false []]  -- SEC_IMG_WINDOW

/-- The rows of a block. -/
def Block.rows : Block → List RegRow
  | .conv => rowsCONV
  | .rxd => rowsRXD
  | .txd => rowsTXD
  | .fec => rowsFEC
  | .lfr => rowsLFR
  | .pmon => rowsPMON
  | .cli => rowsCLI
  | .ciph => rowsCIPH
  | .plu => rowsPLU
  | .time => rowsTIME
  | .ksc => rowsKSC
  | .cst => rowsCST
  | .hkm => rowsHKM
  | .cal => rowsCAL
  | .mem => rowsMEM
  | .glb => rowsGLB
  | .sec => rowsSEC

/-- Where an address lies: the block, the lane (0 outside the lane blocks), the row, its two indexes and the word. -/
structure RegHit where
  block : Block
  lane : Nat
  row : RegRow
  i : Nat
  j : Nat
  word : Nat
deriving DecidableEq, Repr

/-- R426: the block and lane of an address and the offset in the block; `none` outside every block (MGT has no
register of its own). -/
def blockOf (a : Nat) : Option (Block × Nat × Nat) :=
  if a < 0x1000000 then
    match a / 0x100000 with
    | 0 => some (.glb, 0, a % 0x100000)
    | 1 => some (.sec, 0, a % 0x100000)
    | 2 => some (.mem, 0, a % 0x100000)
    | 3 => some (.plu, 0, a % 0x100000)
    | 4 => some (.time, 0, a % 0x100000)
    | 5 => some (.hkm, 0, a % 0x100000)
    | 6 => some (.cal, 0, a % 0x100000)
    | 7 => some (.ciph, 0, a % 0x100000)
    | 8 => some (.cli, 0, a % 0x100000)
    | 9 => some (.cst, 0, a % 0x100000)
    | _ => none
  else if a < 0x2000000 then
    let n := (a - 0x1000000) / 0x200000
    let o := (a - 0x1000000) % 0x200000
    if o < 0x40000 then some (.conv, n, o)
    else if o < 0x80000 then some (.rxd, n, o - 0x40000)
    else if o < 0xA0000 then some (.txd, n, o - 0x80000)
    else if o < 0xC0000 then some (.fec, n, o - 0xA0000)
    else if o < 0xE0000 then some (.lfr, n, o - 0xC0000)
    else if o < 0x100000 then some (.pmon, n, o - 0xE0000)
    else if 0x180000 ≤ o then some (.ksc, n, o - 0x180000)
    else none
  else none

/-- The indexes of offset `o` in a row, if it lies there. -/
def RegRow.hit (r : RegRow) (o : Nat) : Option (Nat × Nat × Nat) :=
  if o < r.off then none
  else
    let d := o - r.off
    let i := d / r.s1
    let j := d % r.s1 / r.s2
    let w := d % r.s1 % r.s2 / 4
    if i < r.n1 && j < r.n2 && w < r.words && d % 4 == 0 then some (i, j, w) else none

/-- The first row of a list that holds offset `o`. -/
def findRow : List RegRow → Nat → Option (RegRow × Nat × Nat × Nat)
  | [], _ => none
  | r :: rs, o =>
    match r.hit o with
    | some (i, j, w) => some (r, i, j, w)
    | none => findRow rs o

/-- The register at a word address. -/
def regAt (a : Nat) : Option RegHit :=
  match blockOf a with
  | none => none
  | some (b, n, o) =>
    match findRow b.rows o with
    | none => none
    | some (r, i, j, w) => some ⟨b, n, r, i, j, w⟩

/-- The reset value of a word address (0 where no register lies, R426).  Three registers have a reset value that
depends on the index: CONV_ID (R44), HKM_A_SLOTs and HKM_B_SLOTs (R353), HKM_INk_CFG (R353).  The MSI-X table's vector
control words reset masked.  Beyond BAR0 stand the configuration words and the counters of the cipher contexts, 64 bytes apart;
INV_LIMIT resets to 2^32 (R232, log entry 21). -/
def resetNat (a : Nat) : Nat :=
  match regAt a with
  | none => if 0x4000000 ≤ a && a < 0x8000000 && a % 64 = 16 then 1 else 0
  | some h =>
    if h.block = .conv && h.row.off = 0 then 0xB00000 + h.lane / 2 + 4 * (h.lane % 2)
    else if h.block = .hkm && h.row.off = 0x100 then 40 + h.j % 24
    else if h.block = .hkm && h.row.off = 0x1000 then
      (if h.i ≤ 39 then 0x12800FC9 else 0x12800FCA)
    else if h.block = .glb && h.row.off = 0xF000 then (if h.i % 4 = 3 then 1 else 0)
    else h.row.reset

/-- The reset value as a word. -/
def resetWord (a : Nat) : BitVec 32 := BitVec.ofNat 32 (resetNat a)

end Sys2Proof.Machine
end

