-- ==== Sys2Proof/Machine/State.lean ====
section
/-!
DEFINITION. The state of the device as plain data, and the state right after a cold reset.

Every register of the register tables has one home, `State.regs`, a list of (word address, word) pairs in rising
order that lists no word equal to its reset value; the state codes, status words, alarms and counters of the spec are
those registers.  Beside it stands what the spec gives the machine and no register shows: the time bases, the Level
banks and capture stages, the Courses, the sequencers' own counters, queues and histories, keys, images, sessions.
-/

namespace Sys2Proof.Machine

/-- The register store: word address and word, addresses strictly rising, no word equal to its reset value. -/
abbrev Store := List (Nat × Word)

/-! ### Outputs -/

/-- What the device has sent out of itself at an event, newest first in `State.sent`: the observable effects that no
register shows. -/
inductive Emit where
  /-- an MSI-X message: vector, address, data (R441) -/
  | msix (vector addr data : Nat)
  /-- a 32-bit frame on the LO tuning interface of a lane (R81) -/
  | lo (lane word : Nat)
  /-- the status of R400 answered to a COP session for a request that a command of its own stands for -/
  | answer (session code : Nat)
  /-- a frame sent at a client port by a launch, with its FCS (R279) -/
  | frame (port : Nat) (bytes : List Byte)
  /-- a PTP message sent at a client port (R273): 0 Sync, 1 Delay_Req, 2 Announce, 3 Follow_Up, 4 Delay_Resp; its
  destination address, its domain and what it carries -/
  | ptp (port kind addr domain : Nat) (content : List Byte)
  /-- a 1PPS pulse of a time base's second on CLKOUT3, and its length in ns (R281) -/
  | pps (tb second width : Nat)
  /-- the status and the value answered to a COP session for a read that a command of its own stands for (R392) -/
  | value (session code : Nat) (bytes : List Byte)
  /-- a Keystone packet on a lane at a spreading factor, as its symbols in their order: up-chirps by their shifts, and
  down-chirps (none) (R285 to R291) -/
  | ks (lane sf : Nat) (symbols : List (Option Nat))
  /-- a Keystone packet cut off by a reset or by OFF (R295, R307) -/
  | ksCut (lane : Nat)
  /-- management bytes handed to MGT from a lane (R163, R304) -/
  | mgmt (lane : Nat) (bytes : List Byte)
  /-- OTUCn words sent at a client port, through its FlexO framing, with what the device puts into the section overhead and
  the FlexO overhead, which it regenerates (R201) -/
  | otuc (port : Nat) (words : List Nat) (overhead : BitVec 64)
  /-- the egress of a client port begins or ends its replacement (R205): local fault ordered sets, or for OTUCn a
  regenerated OTUCn carrying ODUCn-AIS -/
  | replace (port : Nat) (otn on : Bool)
  /-- local fault begins or ends in the calendar slots of a FlexE client (R205) -/
  | flexeFault (group client : Nat) (on : Bool)
  /-- a frame sent to a client of a FlexE group, with its FCS (R199) -/
  | flexe (group client : Nat) (bytes : List Byte)
  /-- the response of a COURSE_CTRL request: session, status, KIND and WHERE (R398, R408) -/
  | course (session code kind where_ : Nat)
  /-- the symbols of a line frame sent on a lane, each as (XI, XQ, YI, YQ) (R104 to R108, R123) -/
  | lf (lane : Nat) (symbols : List (Int × Int × Int × Int))
  /-- a client frame handed to the mapping of 400ZR or 800ZR on a lane (R196) -/
  | zr (lane : Nat) (bytes : List Byte)
  /-- a PCIe read completed with Completer Abort status (R384, R433), by its BAR0 address -/
  | abort (addr : Nat)
  /-- a PCIe request completed with Unsupported Request status (R424) -/
  | unsupported
  /-- a word of an on-die array delivered to its reader: array, instance, word, and the data as the checker leaves them
  (R375, R376, R384) -/
  | word (array inst addr : Nat) (reader : MemReader) (data : Nat)
  /-- a PCIe read completed: its address and the value of its bytes (R425) -/
  | completion (addr value : Nat)
  /-- a COP message handed to the transmitter of a path: 0 MGT0, 1 MGT1, 2 the in-band channel and 3 the Keystone tunnel of
  a lane (R395, R421) -/
  | cop (path lane : Nat) (bytes : List Byte)
  /-- a request that the node sends in a session of its own to another node: path, lane, node id, OP of R397, its EXP
  flag, body (R411 to R415) -/
  | request (path lane node op : Nat) (exp : Bool) (body : List Byte)
deriving DecidableEq, Repr

/-! ### CONV (02_line_converters.md) -/

/-- A group of 256 samples or codes of each of the four channels (R46), with its flags and the TB0 time of sample 0. -/
structure Group where
  vld : Bool
  ovr : List Bool
  data : List (List Byte)
  tb0 : Nat
deriving DecidableEq, Repr

/-- What the spare of a half is doing (R60): nothing in progress, a takeover in its parallel run (for a retirement or
for CAL), or a release in its parallel run. -/
inductive SpareRun where
  | none
  | taking (pos : Nat) (retire : Bool)
  | releasing (pos : Nat)
deriving DecidableEq, Repr

/-- CONV of one lane beyond its registers. -/
structure ConvState where
  /-- groups still to flag after the last over-range group, per ADC channel (R56) -/
  ovrTail : List Nat := [0, 0, 0, 0]
  /-- sums of the squared codes of the last groups in `RUNNING`, newest first, per ADC channel (CONV_RMS) -/
  power : List (List Nat) := [[], [], [], []]
  /-- the DAC channels carry the codes of TXD, in force since the last LTXn group boundary (R53) -/
  driven : Bool := false
  spares : List SpareRun := List.replicate 16 .none
  /-- corrections loaded into each spare, while it takes a position (R59, R60) -/
  spareCorr : List (List Int) := List.replicate 16 []
  /-- the last groups of each source, newest first: what a capture can reach back to (R64) -/
  adcPast : List Group := []
  dacPast : List Group := []
  /-- groups still to take after the trigger group of a triggered capture -/
  capLeft : Option Nat := none
  /-- FIRE has been written, or the Level strobe has acted, since the last group (R64) -/
  capFire : Bool := false
  /-- halves whose CAL takeover a state change has ended since CAL last looked (R63) -/
  calAborted : List Nat := []
  /-- the capture shown in the window -/
  window : List Group := []
deriving DecidableEq, Repr

/-! ### RXD (03_receive_dsp.md) -/

/-- Where a CD scan stands (R73). -/
structure CdScan where
  /-- the hint the scan is centred on; none for a full scan -/
  hint : Option Int
  /-- next step to finish -/
  step : Nat
  /-- best step above the detection threshold so far: metric and CD -/
  best : Option (Nat × Int)
  /-- PLU cycle at which the dwell, or the refinement, began -/
  at_ : Nat
  /-- every step has been taken and the refinement runs -/
  refining : Bool
deriving DecidableEq, Repr

/-- Nonlinear compensation (R87): off, its coefficients being computed, ready for the next boundary, in the path, or
to be bypassed at the next boundary and then computed. -/
inductive Nlc where
  | off | toBypass | computing | ready | active
deriving DecidableEq, Repr

/-- A receive format announced by the far end's Keystone packet: words laid out as TXD_FMT, TXD_RATE, TXD_PULSE. -/
structure FarFmt where
  fmt : Nat
  rate : Nat
  pulse : Nat
deriving DecidableEq, Repr

/-- RXD of one lane beyond its registers. -/
structure RxdState where
  /-- consecutive windows below THR, and at or above THR + HYST (R88) -/
  losLow : Nat := 0
  losHigh : Nat := 0
  /-- PLU cycle of the last entry to `FREQ_SEARCH` and to the present state -/
  searchAt : Nat := 0
  stateAt : Nat := 0
  /-- RXD_CTRL.LO_MODE, KS_ASSIST and FMT_SRC in force (R91) -/
  loMode : Nat := 2
  ksAssist : Bool := true
  follow : Bool := false
  /-- the coarse step of `FREQ_SEARCH` has ended (R80) -/
  coarseDone : Bool := false
  /-- the wait of R93 for a Keystone packet runs; it has expired without one -/
  ksWaiting : Bool := false
  ksExpired : Bool := false
  /-- latest spectral estimate since the entry, and last fine estimate, kHz -/
  spectral : Option Int := none
  fine : Option Int := none
  /-- PLU cycle from which the next fine estimate, LO update and the limit of a warm reacquisition count -/
  fineAt : Nat := 0
  loAt : Nat := 0
  warmAt : Nat := 0
  /-- FEC_CW_CNT and FEC_CORR_IN_CNT at the last metrics update (R138) -/
  qBase : Nat × Nat := (0, 0)
  /-- CD estimate passed by KSC as a hint (R93, R301) -/
  ksHint : Option Int := none
  scan : Option CdScan := none
  /-- compensated CD, ps/nm, at the PLU cycle from which it moves towards its target (R72), that target, and the PLU cycle
  of the last estimate of `TRACKING` -/
  comp : Int := 0
  cdMoveAt : Nat := 0
  cdTarget : Int := 0
  cdEstAt : Nat := 0
  /-- the last group of samples carried `OVR` = 1 on a channel (R70) -/
  ovr : Bool := false
  /-- soft decisions on their way to the FEC, oldest first: those since LFR synchronised that no codeword has taken (R69) -/
  soft : List Int := []
  /-- the equaliser's taps, none before its adaptation has begun; and the codes of the group before (R69) -/
  taps : List Int := []
  before : List (List Byte) := []
  /-- SEQ of the next LO frame (R81) -/
  loSeq : Nat := 0
  nlc : Nlc := .off
  /-- the coefficients computed last (R87) -/
  nlcCoef : List (BitVec 32) := []
  /-- format announced by the far end (R94) -/
  far : Option FarFmt := none
  /-- a format the far end has announced for its Course: its number and the format (R94, R306) -/
  farNext : Option (Nat × FarFmt) := none
  /-- peak SOP rate since the previous Level is taken from the next update on -/
  sopFresh : Bool := true
deriving DecidableEq, Repr

/-! ### TXD, FEC and LFR (04, 05, 06) -/

/-- The outer encoder of a lane since its reset (R128 to R130). -/
structure OuterEnc where
  /-- information bits taken -/
  sent : Nat := 0
  /-- the last whole block, row by row, each row a 480-bit number with column 0 most significant -/
  prev : List Nat := []
  /-- information bits of the block being filled, oldest first -/
  cur : List Bool := []
  /-- parity stream bits not yet sent, oldest first; begins with the 14,400 zero slots of R129 -/
  parity : List Bool := List.replicate 14400 false
deriving DecidableEq, Repr

/-- A path BIP in the making or held for comparison, per slot (R158). -/
structure PathBip where
  /-- BIP-8 of the period in progress and of the one before -/
  now : List Nat := List.replicate 128 0
  before : List Nat := List.replicate 128 0
deriving DecidableEq, Repr

/-- A bridge change accepted and not yet in force (R162): the PLU cycle of acceptance and the signal (0 releases). -/
structure BridgeReq where
  at_ : Nat
  signal : Nat
  exer : Bool
deriving DecidableEq, Repr

/-- A line frame on its way through the transmit chain (R100): its roll-off, its symbol rate in 1/32 GBd, its symbols and the
mean square of their amplitudes as a fraction, and TXD_LEVEL.RMS as it passed stage 3: from which time in fs after the frame's
start on it had which value, newest first (R505). -/
structure LfSignal where
  rolloff : Nat
  rate : Nat
  symbols : List (Int × Int × Int × Int)
  energy : Nat × Nat
  levels : List (Nat × Nat)
deriving DecidableEq, Repr

/-- TXD and the transmit sides of FEC and LFR of one lane. -/
structure TxState where
  /-- the grid (R506), once it has started: its starts are counted from `lfBase`, in fs of PLU time (1,600,000 to a cycle),
  where the LF period or the frequency of the DPLL (R235) last changed; `lfNum` numbers the next one -/
  started : Bool := false
  lfBase : Nat := 0
  lfNum : Nat := 0
  lfPeriod : Nat × Nat := (0, 1)
  /-- start of the LF in progress, fs of PLU time, and the length of the one before; its signal, and that of the LF before it
  with its length (R118) -/
  lfStart : Nat := 0
  lfLen : Nat := 0
  signal : Option LfSignal := none
  signalBefore : Option (LfSignal × Nat) := none
  /-- client frames handed to a ZR family and not sent yet (R117) -/
  zrFrames : List (List Byte) := []
  /-- the Keystone group of the next group has been missed (R113); samples before pre-emphasis of the last group -/
  ksMissed : Bool := false
  last : List (List Int) := []
  /-- MFAS of the next LF (R146) -/
  mfas : Nat := 0
  outer : OuterEnc := {}
  /-- SBIP of the LF sent last (R157) -/
  sbip : Nat := 0
  bip : PathBip := {}
  /-- return accumulators: section and per slot (R157, R158) -/
  sbeiAcc : Nat := 0
  pbeiAcc : List Nat := List.replicate 128 0
  /-- management bytes queued, and credit in units of 10^-9 byte (R163) -/
  mccQueue : List Byte := []
  mccCredit : Nat := 0
  /-- bridge in force (0 none), BRIDGED sent, and the changes waiting, oldest first (R162) -/
  bridge : Nat := 0
  bridgedSent : Nat := 0
  bridgeReq : List BridgeReq := []
  /-- per bridged group, by its head on this lane: its data words received on the source lane and not sent yet, oldest
  first (R162) -/
  bridgeFifo : List (Nat × List Nat) := []
  /-- last request accepted: ECHO (R161) -/
  echo : Nat := 0
  /-- the conditions that the transmitted indications answer, of the lane and per slot: PLU cycle of a change and what it became,
  newest first, back to the one in force 0.5 µs ago (R160) -/
  sbdiSince : List (Nat × Bool) := [(0, true)]
  pbdiSince : List (List (Nat × Bool)) := List.replicate 128 []
deriving DecidableEq, Repr

/-- An LF after inner decoding, not delivered yet: its FEC setting, whether codeword 0 converged, and its inner information
bits (R123). -/
structure DecLf where
  fec : Nat
  cw0 : Bool
  bits : List Bool
deriving DecidableEq, Repr

/-- The outer decoder's streams (R129, R134): information and parity slots of the LFs decoded that no block has taken yet,
those still to be passed over before the first whole block, and the information bits that have passed the window. -/
structure OuterIn where
  info : List Bool := []
  par : List Bool := []
  skip : Nat := 0
  parSkip : Nat := 0
  done : List Bool := []
deriving DecidableEq, Repr

/-- The receive FEC of one lane (R131 to R135). -/
structure FecState where
  /-- iteration pool (R133), and the ITER_MAX of the codeword being decoded -/
  pool : Nat := 0
  iterMax : Nat := 12
  /-- codewords have been decoded since `IDLE` (log entry 68) -/
  fed : Bool := false
  /-- codewords of the present LF decoded, their setting, whether codeword 0 converged, and their information words -/
  cw : Nat := 0
  fec : Nat := 0
  cw0 : Bool := false
  bits : List Bool := []
  /-- LFs decoded and not delivered, oldest first -/
  lfs : List DecLf := []
  outer : OuterIn := {}
  /-- the outer window, oldest block first, each a list of rows, and the block that left last (R134) -/
  window : List (List Nat) := []
  before : Option (List Nat) := none
  /-- last OBP in `ALIGNING`; phase tracked in `RUNNING`; consecutive disagreements -/
  lastObp : Option Nat := none
  miss : Nat := 0
  /-- information bits of the LF to be delivered next, counted from the start of the block tracked as 0 -/
  s : Nat := 0
  /-- blocks entered, and blocks left, as the number of the next one -/
  entered : Nat := 0
  left : Nat := 0
  /-- blocks that left uncorrected (R134) -/
  bad : List Nat := []
deriving DecidableEq, Repr

/-- A candidate of R153: symbol position, rotation and assignment hypothesis, hits. -/
structure Cand where
  pos : Nat
  hyp : Nat
  hits : Nat
deriving DecidableEq, Repr

/-- Consecutive accepted entries of a slot that carry a defect indication and that do not (R159). -/
structure SlotInt where
  paisOn : Nat := 0
  paisOff : Nat := 0
  pbdiOn : Nat := 0
  pbdiOff : Nat := 0
  ssimOn : Nat := 0
  ssimOff : Nat := 0
deriving DecidableEq, Repr

/-- The receive side of LFR of one lane. -/
structure LfrState where
  cands : List Cand := []
  /-- excluded positions and the PLU cycle from which each is excluded (R154) -/
  excluded : List (Nat × Nat) := []
  /-- position and hypothesis of the synchronised frame, consecutive misses -/
  sync : Option (Nat × Nat) := none
  miss : Nat := 0
  /-- LFs delivered since entry to `SYNC`, while verification runs -/
  verifyCount : Nat := 0
  /-- last accepted MFAS, and consecutive mismatches (R156) -/
  lastMfas : Option Nat := none
  mfMiss : Nat := 0
  /-- received section BIP held for the next LF (R157) -/
  sbip : Option Nat := none
  bip : PathBip := {}
  bipValid : Nat := 0
  rbdiOn : Nat := 0
  rbdiOff : Nat := 0
  slots : List SlotInt := List.replicate 128 {}
  /-- LFs received in the signal-degrade window in progress (R159) -/
  sdLfs : Nat := 0
  /-- signal degrade: section BIP violations of the window in progress, consecutive windows beyond and within (R159) -/
  sdBase : Nat := 0
  sdBad : Nat := 0
  sdGood : Nat := 0
  /-- REQ, REQ_SIG and SEQ of the last accepted request (R161) -/
  psf : Option (Nat × Nat × Nat) := none
  /-- an announcement seen: LFs left to the receive apply point (R166) -/
  rxIn : Option Nat := none
  /-- TB0 ns since when CIF has differed from the local number (R38) -/
  differSince : Option Nat := none
  /-- TB0 timestamps (2^-16 ns) of the markers found at the expected position whose LFs are not delivered yet, oldest
  first; none where the marker was missed (R265, R268) -/
  marks : List (Option Nat) := []
deriving DecidableEq, Repr

/-! ### PMON (07_performance_monitoring.md) -/

/-- A metric of the section's bins: MIN, sum of the samples, MAX (R181, R184). -/
structure Metric where
  min : Int := 0
  sum : Int := 0
  max : Int := 0
deriving DecidableEq, Repr

/-- A bin (R181). `nominal` is its length from START to its closing boundary (R180, R182). -/
structure Bin where
  start : Nat := 0
  flags : Nat := 0
  validSec : Nat := 0
  es : Nat := 0
  ses : Nat := 0
  uas : Nat := 0
  bbe : Nat := 0
  feEs : Nat := 0
  feSes : Nat := 0
  feUas : Nat := 0
  feBbe : Nat := 0
  blocks : Nat := 0
  fecCorr : Nat := 0
  fecCw : Nat := 0
  fecFail : Nat := 0
  fecUncorrBlk : Nat := 0
  fecUncorrLf : Nat := 0
  iterPeak : Nat := 0
  samples : Nat := 0
  metrics : List Metric := List.replicate 5 {}
  nominal : Nat := 0
  /-- counter ids whose alert has been raised in this bin (R185) -/
  alerted : List Nat := []
deriving DecidableEq, Repr

/-- The result of one evaluated second, with how many rotations of each kind have passed since (R174). -/
structure SecResult where
  ses : Bool
  es : Bool
  bbe : Nat
  age15 : Nat
  age24 : Nat
deriving DecidableEq, Repr

/-- An availability machine (R174): unavailable, and the results of the run of seconds that may end it, newest first. -/
structure Avail where
  uas : Bool := false
  run : List SecResult := []
deriving DecidableEq, Repr

/-- A monitored entity (R170): its two current bins, its histories and its near-end and far-end availability. -/
structure Entity where
  cur15 : Bin := {}
  hist15 : List Bin := []
  cur24 : Bin := {}
  hist24 : List Bin := []
  near : Avail := {}
  far : Avail := {}
deriving DecidableEq, Repr

/-- What one second has gathered for one entity (R171, R173). -/
structure SecAcc where
  /-- the entity has ceased to exist within the second (R170) -/
  dead : Bool := false
  blocks : Nat := 0
  errored : Nat := 0
  feErrored : Nat := 0
  defect : Bool := false
  feDefect : Bool := false
deriving DecidableEq, Repr

/-- The second in progress or just ended: its TB0 seconds, whether the section has existed throughout, whether a lane reset
has overlapped it, and the gatherings of section, paths (by head) and tributaries (by slot). -/
structure SecGather where
  sec : Nat := 0
  live : Bool := false
  laneReset : Bool := false
  /-- the 400ZR or 800ZR family has been in force on receive in it (R175, R182) -/
  zr : Bool := false
  /-- rotations of the 15-minute and the 24-hour bins since it ended -/
  age15 : Nat := 0
  age24 : Nat := 0
  /-- PLU cycle of its evaluation where a step of TB0 ended it or has moved TB0 since it ended (R172, R179) -/
  due : Option Nat := none
  section_ : SecAcc := {}
  paths : List (Nat × SecAcc) := []
  tribs : List (Nat × SecAcc) := []
deriving DecidableEq, Repr

/-- PMON of one lane: the entities that have existed (0 the section, 1 + h the path of head h, 129 + j the tributary of
slot j), and the bins of every other entity. -/
structure PmonState where
  ents : List (Nat × Entity) := []
  blank : Entity := { cur15 := { flags := 4, nominal := 900 }, cur24 := { flags := 4, nominal := 86400 } }
  gather : SecGather := {}
  ended : List SecGather := []
  /-- parities that failed (for the path period before) and backward indications received in the path period in progress,
  per slot, and whether every LF of it was delivered -/
  perErr : List Bool := List.replicate 128 false
  perFe : List Bool := List.replicate 128 false
  perWhole : Bool := false
  /-- LFs of it delivered -/
  perLfs : Nat := 0
  /-- an LF of the path period in progress was flagged uncorrected; of the one before; and that one was delivered whole -/
  perFlag : Bool := false
  prevFlag : Bool := false
  prevWhole : Bool := false
  /-- backward indications that the path period before received, per slot (R171) -/
  prevFe : List Bool := List.replicate 128 false
  /-- TB0 ns of the last metric sample (R184) -/
  lastSample : Option Nat := none
  /-- FEC counts at which the current bins' increases start: CORR_IN, CW, FAIL_IN, UNCORR_BLK, UNCORR_LF -/
  fecBase : List Nat := [0, 0, 0, 0, 0]
  /-- the FEC_ITER_PEAK that the bins have taken since its last restart (R181) -/
  peakBase : Nat := 0
  /-- the section existed when the lane's reset was asserted (R176) -/
  through : Bool := false
deriving DecidableEq, Repr


/-! ### CLI (08_client_mapping.md) -/

/-- A client port beyond its registers. -/
structure PortState where
  /-- when the egress buffer is empty, fs of PLU time (R199) -/
  egressEnd : Nat := 0
  /-- CNT of the last control word received for the port (R200) -/
  lastCnt : Nat := 0
deriving DecidableEq, Repr

/-- A client flow (R196). -/
structure FlowState where
  /-- the adapted stream waiting for the slot group, each byte with a mark where a header starts (R197, R204) -/
  buf : List (Byte × Bool) := []
  /-- frames held at a key rollover (R225): bytes and KIND; from when on, in fs of PLU time, idle headers are due in their place -/
  held : List (List Byte × Nat) := []
  idleFrom : Option Nat := none
  /-- OTUCn client words waiting, and the fraction of a word held over (R200) -/
  otn : List Nat := []
  res : Nat := 0
  /-- adapted stream received and not yet taken by the egress, each byte with its errored mark (R155) and whether OFFSET
  marks a header there (R198) -/
  rx : List (Byte × Bool × Bool) := []
  /-- false after a HEC mismatch, until an OFFSET marks a header (R199) -/
  insync : Bool := true
  /-- KIND 3 or FAULT = 1 received (R205) -/
  fault : Bool := false
  /-- the egress replaces the FlexE client (R205) -/
  replaced : Bool := false
deriving DecidableEq, Repr

/-- A FlexE group (R203): the calendar not in use and the one in use, as words of four slots. -/
structure FlexeState where
  inactive : List Nat := List.replicate 80 0xFFFFFFFF
  active : List Nat := List.replicate 80 0xFFFFFFFF
deriving DecidableEq, Repr

/-- CLI beyond its registers; ports and flows that differ from the initial ones are listed by number. -/
structure CliState where
  /-- the receive mapping in force: flow, configuration word, slots as a 128-bit number (R38, R206) -/
  rxMap : List (Nat × Nat × Nat) := []
  ports : List (Nat × PortState) := []
  flows : List (Nat × FlowState) := []
  flexe : List FlexeState := List.replicate 8 {}
deriving DecidableEq, Repr

/-! ### CIPH (09_cipher.md) -/

/-- The previous key of a decrypting context (R226): its slot, IV_BASE of its epoch, the last authenticated i of that
epoch with its TB0 ns, and the PLU cycle of its release. -/
structure PrevKey where
  slot : Nat
  iv : Nat
  last : Option (Nat × Nat)
  release : Nat
deriving DecidableEq, Repr

/-- A cipher context beyond its configuration words (R218, R219). -/
structure Ctx where
  /-- state and stop code of R219 -/
  state : Nat := 0
  stop : Nat := 0
  epoch : Bool := false
  /-- the previous key (R226) -/
  prev : Option PrevKey := none
  /-- value of the last IV load (R221) -/
  lastLoad : Option Nat := none
  /-- chaining value or counter block; GHASH accumulator; data bytes, and bytes of AAD, of an unfinished message; bytes
  short of a block not yet in GHASH -/
  chain : Nat := 0
  ghash : Nat := 0
  bytes : Nat := 0
  aad : Nat := 0
  part : List Byte := []
  /-- a message is unfinished -/
  open_ : Bool := false
  /-- last authenticated i of the epoch in force and its TB0 ns (R224), and the same of the epoch to come -/
  lastAuth : Option (Nat × Nat) := none
  nextAuth : Option (Nat × Nat) := none
  /-- EPOCH and SEQ of the last invocation (R222) -/
  sent : Option (Bool × Nat) := none
  /-- the slot of KEY_NEXT has been zeroised (R217) -/
  nextGone : Bool := false
deriving DecidableEq, Repr

/-- A job in a descriptor, from its START to its end (R228 to R230). -/
structure JobRun where
  owner : Source
  /-- order of submission -/
  order : Nat
  /-- 1 queued, 2 running, 3 suspended -/
  phase : Nat
  /-- PLU cycle of the start or the resumption, blocks done before it, blocks in all -/
  at_ : Nat := 0
  done : Nat := 0
  blocks : Nat := 0
deriving DecidableEq, Repr

/-- R234: a session's last job: its descriptor and order of submission, and, once it has ended, STATUS, OUTLEN and DST. -/
structure JobKept where
  slot : Nat
  order : Nat
  status : Nat := 0
  len : Nat := 0
  dst : Nat := 0
deriving DecidableEq, Repr

/-- CIPH beyond its registers. -/
structure CiphState where
  /-- the engine is there: OL2560-AB (R2, R3) -/
  fitted : Bool := true
  /-- loaded key slots: slot and 256-bit key (R214) -/
  keys : List (Nat × Nat) := []
  /-- the stored contents are being cleared after ZERO_ALL (R217) -/
  zeroing : Bool := false
  /-- code of R233 of the last operation on a slot, and of the last key operation of a session -/
  results : List (Nat × Nat) := []
  sessionResults : List (Nat × Nat) := []
  /-- contexts that differ from the initial one, by number; their configuration words and counters stand in
  `State.regs` beyond BAR0 (log entry 21) -/
  ctxs : List (Nat × Ctx) := []
  jobs : List (Nat × JobRun) := []
  /-- order of the next job -/
  jobOrder : Nat := 0
  /-- a session's last job, by session number -/
  lastJob : List (Nat × JobKept) := []
  /-- PLU cycle of the last reseed of the 21 DRBG instances (R212) -/
  reseed : List Nat := List.replicate 21 0
  /-- blocked groups and flows (R460): false with lane × 128 + head, or true with the flow, and the direction -/
  blocked : List (Bool × Nat × Nat) := []
  /-- EPOCH and SEQ of the last invocation before the reset, of those blocked for transmit -/
  blockSent : List ((Bool × Nat × Nat) × Bool × Nat) := []
deriving DecidableEq, Repr

/-! ### PLU (10_plumb_unit.md) -/

/-- A PLU reference beyond its status register; times in PLU cycles unless said otherwise. -/
structure RefState where
  /-- TB0 ns since when it is PRESENT and VALID, for the first whole frequency window (R237) -/
  from_ : Option Nat := none
  /-- TB0 ns of the end of its last frequency window -/
  window : Option Nat := none
  /-- since when PRESENT, FREQ_OK and VALID hold together -/
  goodSince : Option Nat := none
  /-- when it last became QUALIFIED -/
  qualAt : Option Nat := none
  /-- since when the condition of FREQ_DISAGREE is absent with every difference at most 4.1 ppm (R241) -/
  agreeSince : Option Nat := none
  /-- end of its ACQ_HOLD (R244) -/
  holdEnd : Option Nat := none
deriving DecidableEq, Repr

/-- PLU beyond its registers. -/
structure PluState where
  refs : List RefState := List.replicate 32 {}
  /-- the history: TB0 second at whose end a whole LOCKED second ended, and its mean frequency in 10^-12, newest first -/
  hist : List (Nat × Int) := []
  /-- TB0 second in which the selected reference last ceased to be a candidate (R246) -/
  ceased : Nat := 0
  /-- TB0 ns since when PLU is LOCKED -/
  lockedSince : Option Nat := none
  /-- PLU cycle of the last entry to ACQUIRING or retarget, and from which the lock time counts -/
  acqFrom : Nat := 0
  lockFrom : Nat := 0
  /-- PLU cycle of the first entry to HOLDOVER or LOST (R242) -/
  holdFrom : Option Nat := none
  /-- LOST was entered on the holdover limit -/
  limitHit : Bool := false
  /-- OSCIN runs; PLU cycle at which it came back -/
  oscin : Bool := true
  oscinBack : Option Nat := none
  /-- PLU cycle up to which the motion of the remaining step and of a pull is counted (R243, R245) -/
  stepFrom : Nat := 0
  /-- the part of the next ps of the remaining step that has moved, in units of 1.6 × 10^-9 ps -/
  stepFrac : Int := 0
  /-- the output: the frequency in force at its last change in 10^-12, that at which it aims, and the PLU cycle of the change
  (R242, R243) -/
  base : Int := 0
  goal : Int := 0
  goalFrom : Nat := 0
  /-- a pull: the target less the output phase, now and at its start, in units of 1.6 × 10^-9 ps (R243, R244) -/
  gap : Int := 0
  gap0 : Nat := 0
  /-- PLU is frozen in reset: state, output frequency and whether OSCIN had failed at the reset (R252) -/
  frozen : Option (Nat × Int × Bool) := none
deriving DecidableEq, Repr

/-! ### Time bases TB0 to TB2 and TIME (11_network_time.md) -/

/-- A servo beyond its registers: the samples accepted since the last update, as their sum in units of
1.6 × 10^-22 s and their number; times in PLU cycles. -/
structure Servo where
  sum : Int := 0
  count : Nat := 0
  /-- the last accepted sample -/
  lastSample : Option Nat := none
  /-- the last update -/
  update : Nat := 0
  /-- up to where the samples of SRC = TB, one every cycle, are in `sum` -/
  synced : Nat := 0
  /-- the integral part of the loop, 10^-13 (R260) -/
  integ : Int := 0
  /-- consecutive update means within and beyond LOCK_THR (R261) -/
  within : Nat := 0
  beyond : Nat := 0
deriving DecidableEq, Repr

/-- A time base: its counter in units of 1.6 × 10^-22 s, of which a PLU cycle adds 10^13 + y (R256, log entry 6), the
servo's frequency adjustment y in 10^-13, and the servo's own record. -/
structure TimeBase where
  acc : Nat := 0
  y : Int := 0
  servo : Servo := {}
deriving DecidableEq, Repr

/-- Line time transfer of one lane (R266 to R271); timestamps in units of 2^-16 ns of TB0, ages in PLU cycles. -/
structure LaneTime where
  /-- transmit timestamps of the last timed LFs, newest first: count modulo 2^16, timestamp (R268) -/
  sentTimed : List (Nat × Nat) := []
  /-- receive timestamps of the last LFs delivered in a row in SYNC with MF_LOCK, newest first; none where the marker was missed -/
  recent : List (Option Nat) := []
  /-- the far end's count of its latest timed LF received, and its receive timestamp (R267) -/
  farTimed : Option (Nat × Nat) := none
  /-- forward sample (T1, T2) and reverse sample (T3, T4), with the PLU cycle of arrival -/
  fwd : Option (Nat × Nat × Nat) := none
  rev : Option (Nat × Nat × Nat) := none
  /-- the far end's RXD_CD_EST and its TXF and RXF, MHz, of the latest TYPE 3; the CD values last valid since the lane
  entered TRACKING, own and far (R270) -/
  farFreq : Option (Nat × Nat) := none
  ownCd : Option Int := none
  farCd : Option Int := none
  /-- the latest Keystone result taken (T1, T2, T3, T4) and when (R271) -/
  ks : Option (Nat × Nat × Nat × Nat × Nat) := none
  /-- the LOCKED bit of that exchange's response (R303) -/
  ksLocked : Bool := false
  /-- consecutive Keystone results that agree while RANGE_MISMATCH stands -/
  agree : Nat := 0
deriving DecidableEq, Repr

/-- TIME beyond its registers and the time bases. -/
structure TimeState where
  lanes : List LaneTime := List.replicate 8 {}
  /-- bits [47:32] of the UTC change time (R264) -/
  utcHi : Nat := 0
  /-- PLU cycle of the last 1PPS pulse (R281) -/
  lastPulse : Option Nat := none
  /-- when the last launched frame of a port and the gap after it end, fs of PLU time (R279) -/
  portEnd : List (Nat × Nat) := []
  /-- the descriptor of the last launch of PCIe (0) and of session k (k + 1) through 0x2140, and the results of those whose
  descriptor another launch has taken since (R284) -/
  lastLaunch : List (Nat × Nat) := []
  launchKept : List (Nat × List Byte) := []
  /-- PLU cycle of the last PTP message of a kind at a port, by 4 × port + kind (R273) -/
  ptpSent : List (Nat × Nat) := []
deriving DecidableEq, Repr

/-- A node record (R421) and what its parent knows of the node: the address of its first ANNOUNCE. -/
structure NodeRec where
  presence : Nat := 0
  path : Nat := 0
  lane : Nat := 0
  addr : List Byte := []
  tb0State : Nat := 0
  misses : Nat := 0
  level : Nat := 0
  lastCourse : Nat := 0
  armed : Nat := 0
  armedT : Nat := 0
  tb0 : Nat := 0
  roundTrip : Nat := 0
  alarms : Nat := 0
deriving DecidableEq, Repr

/-! ### Levels (R16 to R28) -/

/-- What a Level latches beside the registers: the PMON bins, what the lane registers of TIME show of their clocks, the
counters and status that objects hold, the records of the nodes, and what the status words of CIPH and SEC are computed from
(R21). -/
structure LevelAux where
  pmon : List PmonState
  lanes : List LaneTime
  clk : Nat
  objs : List (Nat × List Byte)
  nodes : List (Nat × NodeRec)
  ciph : CiphState
  cstReady : Bool
deriving DecidableEq, Repr

/-- A Level as latched: its number, its TB0 instant in ns, its CAUSES (R398) and the values of the instant. -/
structure Level where
  number : Nat
  inst : Nat
  causes : Nat
  /-- the register store at the instant -/
  regs : Store
  /-- PMON bins at the instant -/
  aux : LevelAux
deriving DecidableEq, Repr

/-- What one of the three shadow banks holds (R24). -/
inductive Bank where
  | empty
  | copying (l : Level)
  | complete (l : Level)
deriving DecidableEq, Repr

/-- The Level sequencer (R16 to R28). -/
structure LevelSeq where
  /-- number of the newest Level (R23) -/
  number : Nat := 0
  banks : List Bank := [.empty, .empty, .empty]
  /-- index of the latest complete bank -/
  latest : Option Nat := none
  /-- the holder and the held bank (R26) -/
  held : Option (Source × Nat) := none
  /-- Levels waiting in the capture stages, oldest first (R27) -/
  stage : List Level := []
  /-- PLU cycle of the last strobe, with the bank-independent identity of its Level (R18, R19) -/
  strobe : Option Nat := none
  /-- number of the HOST Level that has not completed its copy (R27) -/
  hostLevel : Option Nat := none
  /-- islands whose counters are frozen (R20) -/
  frozen : List Island := []
  /-- counter increments held during a freeze: island, address, amount (R20) -/
  heldCounts : List (Island × Nat × Nat) := []
  /-- scheduled Level slots, ns; none is empty (R16, R407) -/
  slots : List (Option Nat) := List.replicate 16 none
  /-- last 15-minute and 24-hour boundary at which a Level was produced, in seconds of TB0 − UTC offset (R28) -/
  last15 : Int := 0
  last24 : Int := 0
  /-- last PERIODIC instant produced, ns (R16) -/
  lastPer : Nat := 0
deriving DecidableEq, Repr

/-! ### Courses (R29 to R41) -/

/-- What a staged write is named by (R33). -/
inductive StageName where
  | reg (addr : Nat)
  | obj (index sub : Nat)
deriving DecidableEq, Repr

/-- One staged write: its name and the words it sets (address, mask, value). -/
structure Staged where
  name : StageName
  items : List (Nat × Nat × Nat)
deriving DecidableEq, Repr

/-- A pending Course (R30, R31). -/
structure Pending where
  owner : Source
  writes : List Staged
deriving DecidableEq, Repr

/-- A committed Course whose validation runs (R29, R33); `time` in ns of TB0, unused for `IMMEDIATE`. -/
structure Validating where
  owner : Source
  writes : List Staged
  atTime : Bool
  number : Nat
  time : Nat
  /-- the owning session ended meanwhile (R404) -/
  orphan : Bool
deriving DecidableEq, Repr

/-- A Course record (R41, R418); times in ns of TB0. -/
structure CourseRec where
  number : Nat
  mode : Nat
  late : Bool
  untrusted : Bool
  txMask : Nat
  rxMask : Nat
  mismatch : Nat
  time : Nat
  nonLane : Option Nat
  tx : List (Nat × Nat)
  rx : List (Nat × Nat)
deriving DecidableEq, Repr

/-- Where an item of an armed Course applies (R37 to R39): the transmit or receive apply point of a lane, the strobe, the
next client block boundary of a port, of a FlexE group (64 to 71) or of a client group (72, 73), the release of a
function's reset (R463). -/
inductive Spot where
  | tx (n : Nat)
  | rx (n : Nat)
  | strobe
  | port (p : Nat)
  | release (k : Nat)
deriving DecidableEq, Repr

/-- An item of an armed Course: where it applies, the word it sets, and the bits and their value.  A mask of zero marks a
lane that the item touches without a change of its word at that point. -/
structure CourseItem where
  spot : Spot
  addr : Nat
  mask : Nat
  value : Nat
deriving DecidableEq, Repr

/-- An armed Course (R35 to R39). -/
structure Armed where
  owner : Source
  atTime : Bool
  number : Nat
  /-- T, or T_I of R37, as the apply points count it: after the strobe it moves with TB0 where that is stepped, and after a step
  across T it is the instant of the strobe (R277) -/
  time : Nat
  writes : List Staged
  /-- the abort window is closed (R36) -/
  closed : Bool
  /-- the Course strobe has acted (R39) -/
  struck : Bool
  /-- items that have not applied -/
  items : List CourseItem
  /-- lanes that have seen the far end's announcement of it (R38) -/
  seen : List Nat
  record : CourseRec
deriving DecidableEq, Repr

/-- The Course sequencer. -/
structure CourseSeq where
  pending : Option Pending := none
  validating : Option Validating := none
  armed : Option Armed := none
  /-- a Course has been applied since cold reset (R32) -/
  any : Bool := false
  last : Nat := 0
  records : List CourseRec := []
  /-- PLU cycle in which items have last applied, and what a Level of that cycle latches: the values from before them (R40) -/
  before : Option (Nat × Store × LevelAux) := none
  /-- 0x1200:09 and 0x1200:0A: the last result and (KIND, WHERE) -/
  result : Nat := 0
  where_ : Nat × Nat := (0, 0)
deriving DecidableEq, Repr

/-! ### KSC (12_keystone_channel.md) -/

/-- A packet waiting for the Keystone transmitter: its type, its payload and the PLU cycle at which it was queued. -/
structure KsPacket where
  type : Nat
  payload : List Byte
  at_ : Nat
deriving DecidableEq, Repr

/-- A packet in transmission: its type, the PLU cycle of its start and of its end, its spreading factor and its symbols, as in
`Emit.ks`. -/
structure KsSending where
  type : Nat
  start : Nat
  end_ : Nat
  sf : Nat
  symbols : List (Option Nat)
deriving DecidableEq, Repr

/-- A reception or a candidate (R298, R299): channel, preamble bin, SNR in 0.01 dB, phase, offset in kHz, receive
timestamp of the timing point (2^-16 ns of TB0), and the header once decoded. -/
structure KsReception where
  chan : Int
  bin : Nat
  snr : Int
  phase : Nat
  fo : Int
  stamp : Nat
  header : List Byte
deriving DecidableEq, Repr

/-- KSC of one lane beyond its registers. -/
structure KscState where
  queue : List KsPacket := []
  sending : Option KsSending := none
  /-- SEQ of the next packet (R289) -/
  seq : Nat := 0
  /-- PLU cycle of the start of the last beacon, and of the last RANGE_REQ queued -/
  lastBeacon : Option Nat := none
  lastReq : Option Nat := none
  /-- id of the next request; requests sent and not answered: id, T1, PLU cycle (R302) -/
  reqId : Nat := 0
  reqs : List (Nat × Nat × Nat) := []
  /-- the pending response: request id, T2, T3 in ns (R302) -/
  resp : Option (Nat × Nat × Nat) := none
  rx : Option KsReception := none
  cand : Option KsReception := none
  /-- next entry of the log (R299) -/
  logNext : Nat := 0
  /-- PLU cycle of the last accepted packet -/
  lastOk : Nat := 0
deriving DecidableEq, Repr


/-! ### Cornerstone (13_cornerstone.md) -/

/-- What the tap of LRXn carries for a delivered LF (R314): its lane, a section defect, whether the FEC flagged it, whether
a path period begins with it; per group its head, the data words delivered and a defect of a slot; and of a TYPE 1 TTF
accepted with it T1, the marker arrival T2 it refers to (2^-16 ns) and its LOCKED bit. -/
structure TapLf where
  lane : Nat
  defect : Bool
  flagged : Bool
  start : Bool
  groups : List (Nat × Nat × Bool)
  timed : Option (Nat × Nat × Bool)
deriving DecidableEq, Repr

/-- What an entity has gathered in a bin (R315, R316, R323).  `flags` are the EFLAGS CONFIG_CHANGE, LAT_SKIPPED and
LAT_RANGE; `hist` counts samples by bucket. -/
structure CstEntry where
  octets : Nat := 0
  es : Nat := 0
  ses : Nat := 0
  uas : Nat := 0
  exist_ : Nat := 0
  flags : Nat := 0
  latN : Nat := 0
  anchor : Int := 0
  hist : List (Nat × Nat) := []
  max : Int := 0
deriving DecidableEq, Repr

/-- A bin of all entities (R322): its own number, nominal start and end in TB3 seconds, FLAGS, seconds counted, and the
entities' entries by key: 128 × lane + head, or 1,024 + port. -/
structure CstBin where
  id : Nat := 0
  start : Nat := 0
  end_ : Nat := 0
  flags : Nat := 0
  validSec : Nat := 0
  ents : List (Nat × CstEntry) := []
deriving DecidableEq, Repr

/-- A closed bin that awaits its record: a 24-hour one or not, its close in TB3 ns, and the TB3 ns of its storing. -/
structure CstClosed where
  daily : Bool
  bin : CstBin
  close : Nat
  due : Nat
deriving DecidableEq, Repr

/-- A second of an entity whose result R174 may move: SES, ES, and the two bins that hold it. -/
structure CstSec where
  ses : Bool
  es : Bool
  id15 : Nat
  id24 : Nat
deriving DecidableEq, Repr

/-- An availability machine of R174. -/
structure CstAvail where
  uas : Bool := false
  run : List CstSec := []
deriving DecidableEq, Repr

/-- What the second in progress has gathered of a lane or a port: tap events, octets (a lane's by head), blocks, errored
blocks, a defect of the whole, and the heads with a defect of their own. -/
structure CstGather where
  events : Nat := 0
  octets : List (Nat × Nat) := []
  blocks : Nat := 0
  errored : Nat := 0
  defect : Bool := false
  bad : List Nat := []
deriving DecidableEq, Repr

/-- A checkpoint (R327): the bins open, those resumed from before while TB3 is `UNSET`, the closed ones, and whether TB3
was set. -/
structure CstSaved where
  cur15 : CstBin
  cur24 : CstBin
  old : Option (CstBin × CstBin)
  closed : List CstClosed
  timed : Bool
deriving DecidableEq, Repr

/-- A checkpoint as one of the two banks holds it (R327): its place in the sequence of checkpoints and its CRC-32. -/
structure CstCheck where
  seq : Nat
  crc : Nat
  data : CstSaved
deriving DecidableEq, Repr

/-- A stored record (R323): its RECSEQ, its kind and its bytes. -/
structure CstRecord where
  seq : Nat
  daily : Bool
  bytes : List Byte
deriving DecidableEq, Repr

/-- What Cornerstone's MRAM and fuses keep through its resets (R325 to R329). -/
structure CstStore where
  records : List CstRecord := []
  nextSeq : Nat := 0
  /-- SHA-512 of the newest record -/
  lastHash : List Byte := []
  spares : Nat := 82
  good : Nat := 3950
  mode : Nat := 0
  /-- the ten counters in the order of R331 -/
  counters : List Nat := List.replicate 10 0
  /-- the two checkpoint banks (R327); the bins dealt with since the older of them was taken, by number, each with the newest
  checkpoint's place then -/
  checks : List (Option CstCheck) := [none, none]
  done : List (Nat × Nat) := []
  patch : Nat := 0
  /-- an accepted patch's level -/
  pendingPatch : Option Nat := none
  patchCode : Nat := 0
  /-- the UTC offset held (R320); none before the first sample ever -/
  utc : Option Int := none
  /-- number of the 24-hour bin in which a new offset was last accepted (R320) -/
  utcBin : Nat := 0
  nextId : Nat := 1
deriving DecidableEq, Repr

/-- What a Level strobe finds in Cornerstone (R321): the Level's number, TB3 in ns, the state of R318, and the current
15-minute bin with the checkpointed one beside it, none where a boundary that the strobe falls on has not acted yet. -/
structure CstSnap where
  number : Nat
  ns : Nat
  state : Nat
  bins : Option (CstBin × Option CstBin)
deriving DecidableEq, Repr

/-- Cornerstone. -/
structure CstState where
  ready : Bool := false
  store : CstStore := {}
  /-- TB3 (R317), in the units of the time bases -/
  tb3 : TimeBase := {}
  /-- state of R318 -/
  state : Nat := 0
  /-- offset TB3 − TB0 of the last sample in units; the last accepted one; y of the servo, 10^-13 -/
  ofs : Int := 0
  predicted : Int := 0
  /-- PLU cycle of the last accepted offset -/
  predictedAt : Nat := 0
  y : Int := 0
  /-- integral part of the servo, 10^-13 -/
  integ : Int := 0
  /-- offset being removed by slew, and the PLU cycle at which the slew ends -/
  slew : Option (Int × Nat) := none
  /-- consecutive offsets within ±100 ns (R318), or that agree (R319), and the first of those -/
  run : Nat := 0
  runFirst : Int := 0
  /-- PLU cycle of the last usable sample; TB0 second of the last sample -/
  lastUsable : Nat := 0
  lastSample : Option Nat := none
  /-- the UTC offset last refused (R320) -/
  utcRefused : Option Int := none
  cur15 : CstBin := {}
  cur24 : CstBin := {}
  old : Option (CstBin × CstBin) := none
  closed : List CstClosed := []
  avail : List (Nat × CstAvail) := []
  /-- the TB3 second in progress; the entities that have existed since it began; the set last reported -/
  sec : Nat := 0
  live : List Nat := []
  reported : List Nat := []
  /-- tap events on their way (R14), oldest first -/
  taps : List TapLf := []
  /-- per port, what it sent since its last report: octets of intact frames, frames, frames stomped or dropped -/
  portTap : List (Nat × Nat × Nat × Nat) := []
  lanes : List CstGather := List.replicate 8 {}
  ports : List (Nat × CstGather) := []
  tapsLive : Bool := false
  /-- per lane, of the path period in progress: LFs since its start, none before a start, and a flag on any -/
  period : List (Option Nat × Bool) := List.replicate 8 (none, false)
  /-- per lane, the first timed LF of a millisecond that awaits its sample: latency in ns and the LOCKED bit -/
  sample : List (Option (Int × Bool)) := List.replicate 8 none
  sampleMs : List Nat := List.replicate 8 0
  /-- egress time less marker arrival of the last timed LF, by port, ns -/
  transit : List (Nat × Nat) := []
  /-- the two Level banks (R321): Level number and bytes; the next one to write -/
  banks : List (Nat × List Byte) := [(0, []), (0, [])]
  bankNext : Nat := 0
  /-- the Levels whose copy into a bank is to come, oldest first -/
  snaps : List CstSnap := []
  /-- PLU cycle of the last checkpoint -/
  checkpoint : Nat := 0
  /-- a patch is being verified -/
  verifying : Bool := false
  /-- RECSEQ selected by PCIe (R331) -/
  sel : Nat := 0
deriving DecidableEq, Repr

/-! ### HKM (14_housekeeping_monitor.md) -/

/-- A converter of HKM. -/
structure HkmConv where
  /-- the slot in conversion; none while no pass runs -/
  slot : Option Nat := none
  /-- PLU cycle at which the pass of an accepted trigger starts -/
  startAt : Option Nat := none
  /-- conversions that still carry INVALID (R340) -/
  invalid : Nat := 0
  /-- the old word of the slot in conversion, where a Course has applied meanwhile (R336) -/
  old : Option Nat := none
  /-- the slot after it and its old word, where that slot had been sampled too when the Course applied (R336) -/
  ahead : Option (Nat × Nat) := none
  /-- PLU cycle at which the conversion in progress, or the next of the pass, samples (R333, R336) -/
  next : Nat := 0
deriving DecidableEq, Repr

/-- The filter of an input: samples since its restart, and the last L of them, newest first, with their over-range
marks (R343, R344). -/
structure HkmInput where
  n : Nat := 0
  window : List (Int × Bool) := []
  stale : Bool := false
  /-- PLU cycle from which on samples count since the restart (R343, R352) -/
  since : Nat := 0
  /-- ENV with 16 bits after the point, and the PLU cycle of its last sample since the restart (R347) -/
  env : Int := 0
  envAt : Option Nat := none
  /-- valid samples of the pilot block in progress, and whether it has lost one or holds an over-range one (R346) -/
  pilot : Nat := 0
  pilotBad : Bool := false
  /-- of that block: the sum of its samples, and the transform so far with 32 bits after the point -/
  pilotSum : Int := 0
  pilotRe : Int := 0
  pilotIm : Int := 0
deriving DecidableEq, Repr

/-- HKM beyond its registers. -/
structure HkmState where
  convs : List HkmConv := [{}, {}]
  inputs : List HkmInput := List.replicate 64 {}
  /-- inputs whose peaks restart at the next valid sample (R347) -/
  fresh : List Nat := List.range 64
  /-- per channel, of the PWM period in progress (R338, R492): PERIOD, in 5 ns, and its active part, in 78.125 ps -/
  pwm : List (Nat × Nat) := List.replicate 8 (2000, 0)
  /-- the instant in fs of PLU time at which each channel's PWM period in progress began (R338) -/
  pwmFrom : List Nat := List.replicate 8 0
  /-- per channel, the fs after its last edge that has come as a trigger event (R337) -/
  pwmEdge : List Nat := List.replicate 8 0
  /-- PLU cycle at which each timer was enabled or last expired (R337) -/
  timers : List Nat := List.replicate 4 0
deriving DecidableEq, Repr

/-! ### CAL (15_calibration.md) -/

/-- A calibration point (R357): its temperature in 0.01 °C, the keys of the inherited values, and the values it holds, as
deviations from the nominal ones: item + 8 × (lane modulo 2) + 16 × (half of CONV_SPARE, for ASH and DACLIN), and the values.
What is not listed is nominal. -/
structure CalPoint where
  temp : Int
  inherited : List Nat
  vals : List (Nat × List Int)
deriving DecidableEq, Repr

/-- An image in a Quarry bank (R368): the fields of its header and the points of its payload. -/
structure CalImage where
  magic : Nat
  domain : Nat
  held : Nat
  pages : Nat
  seq : Nat
  crc : Nat
  points : List CalPoint
deriving DecidableEq, Repr

/-- A domain (R356): its points in rising order of temperature, the values in force as fractions (numerator and
denominator), and its images; none where a bank holds no header. -/
structure CalDomain where
  points : List CalPoint := []
  force : List (Nat × List (Int × Nat)) := []
  bankA : Option CalImage := none
  bankB : Option CalImage := none
  factory : Option CalImage := none
deriving DecidableEq, Repr

/-- A calibration run (R361): its items and lane, when it started, the next slice step (0 to 1,039), whether one is in
progress, whether it holds the half's spare or waits for its release, the measurement block in progress (2 TXIQ, 3 RXTILT, 4 and 5
HKM of HKA and HKB, 6 SENS; 7 none is left), halves skipped, an abort asked for, the values measured per domain, and the
domains before `QUALITY`. -/
structure CalRun where
  items : Nat
  lane : Nat
  at_ : Nat
  step : Nat := 0
  inStep : Bool := false
  holds : Bool := false
  waits : Bool := false
  block : Nat := 0
  skipped : List Nat := []
  abort : Bool := false
  vals : List (Nat × Nat × List Int) := []
  old : List CalDomain := []
deriving DecidableEq, Repr

/-- CAL beyond its registers. -/
structure CalState where
  domains : List CalDomain := List.replicate 5 {}
  run : Option CalRun := none
  /-- PLU cycle of the last interpolation -/
  tick : Nat := 0
  /-- PLU cycle of the first reading of the sensors since reset; the readings of the 24 sensors over the last 10 s, newest first,
  before correction in 0.01 °C, each with its PLU cycle (R356, R362) -/
  first : Option Nat := none
  readings : List (Nat × List Int) := []
deriving DecidableEq, Repr

/-! ### MEM (16_memory_integrity.md) -/

/-- MEM beyond its registers. -/
structure MemState where
  /-- the words of the arrays but those of array 5, which lie at their BAR0 addresses, and of array 6, as written since the fill
  or the last refill, by `memKey`: of arrays 7 to 9, the words whose valid bit is 1 (R378 to R380) -/
  words : List (Nat × Nat) := []
  /-- poisoned words (R383): array, instance, word -/
  poison : List (Nat × Nat × Nat) := []
  /-- the lower half of a host-window word that waits for its upper half (R382): BAR0 address and value -/
  half : Option (Nat × Word) := none
  /-- next word of the scrubber (R385), by array × 16 + instance; one not listed is at word 0 -/
  scrub : List (Nat × Nat) := []
  /-- instances that have completed a sweep since the array's `SWEEP_CNT` last increased, as array × 16 + instance -/
  swept : List Nat := []
  /-- PLU cycle of the scrubber's last step in an instance (R385), by array × 16 + instance -/
  scrubAt : List (Nat × Nat) := []
  /-- launch descriptors whose frame was read with an error (R384) -/
  badLaunch : List Nat := []
deriving DecidableEq, Repr

/-! ### COP (17_object_dictionary.md) -/

/-- A block transfer of a session (R401): its direction, the object, the total announced (the length of the copy for a
read), the bytes copied or taken so far, and the PLU cycle of its last segment. -/
structure BlockXfer where
  write : Bool
  index : Nat
  sub : Nat
  total : Nat
  data : List Byte
  at_ : Nat
deriving DecidableEq, Repr

/-- A COP session (R402, R403): its id and key; the highest SEQ accepted and those accepted among the 64 below it; the
SEQ of the last message sent; the PLU cycle of the last valid message; its selectors (R234, R332); the Course number
allocated to it (R415); its block transfer. -/
structure Session where
  id : Nat
  key : List Byte
  /-- node id of the requester that opened it; 0xFFFF where it named none (R415) -/
  peer : Nat := 0xFFFF
  high : Nat := 0
  seen : List Nat := []
  sentSeq : Nat := 0
  last : Nat := 0
  /-- the last message came on an in-band channel or a Keystone tunnel (R451) -/
  line : Bool := false
  keySel : Nat := 0
  ctxSel : Nat := 0
  cstSel : Nat := 0
  alloc : Nat := 0
  block : Option BlockXfer := none
deriving DecidableEq, Repr

/-- A poll sent and not answered (R411, R412): the child, the poll number, the TB0 ns of its sending. -/
structure PollOut where
  node : Nat
  number : Nat
  at_ : Nat
deriving DecidableEq, Repr

/-- COP and the hierarchy beyond the objects. -/
structure CopState where
  sessions : List Session := []
  /-- the next session id -/
  nextId : Nat := 1
  /-- node records, by node id -/
  nodes : List (Nat × NodeRec) := []
  /-- number of the next poll; children still to be polled in the round, and TB0 ns of the next poll; polls not yet
  answered -/
  pollNo : Nat := 0
  round : List Nat := []
  nextPoll : Nat := 0
  out : List PollOut := []
  /-- the last multiple of POLL_MS looked at, TB0 ms -/
  lastRound : Nat := 0
  /-- a TIME_POLL has been received; TB0 ns of the last ANNOUNCE -/
  polled : Bool := false
  announced : Nat := 0
  /-- per stream: messages sent (SEQ), and Levels of its MASK since the last sample -/
  streamSeq : List Nat := List.replicate 16 0
  streamCount : List Nat := List.replicate 16 0
  /-- samples due and not sent: stream, Level number -/
  due : List (Nat × Nat) := []
  /-- highest domain Course number allocated (R415) -/
  allocated : Nat := 0
  /-- domain Level times accepted and not yet written to the nodes, in TB0 ns, oldest first (R414) -/
  domain : List Nat := []
  /-- path and lane of the last TIME_POLL received -/
  up : Nat × Nat := (0, 0)
  /-- sessions whose requests have been relayed: session, and the path and lane they came by (R413) -/
  relays : List (Nat × Nat × Nat) := []
deriving DecidableEq, Repr

/-! ### SEC, images and resets (19_boot_security_reset.md) -/

/-- SEC, Quarry's image banks and what holds the device in reset, beyond the registers. -/
structure SecState where
  /-- RST_N is low; a monitored rail lies below its limit (R488) -/
  rstLow : Bool := true
  under : Bool := false
  /-- the thermal trip holds the reset, and RST_N has been low since (R499) -/
  trip : Bool := false
  tripLow : Bool := false
  /-- THERM_N is asserted; the sensors, by their inputs, whose last reading is not below 110 °C (R499) -/
  therm : Bool := false
  hot : List Nat := []
  /-- steps of R443 passed: 0 none, 1 stage 1, 2 engines, 3 setup record, 4 calibration, 5 lock, 6 MGT_READY -/
  boot : Nat := 0
  /-- Quarry's image banks (R444) written since delivery, by 2 × KIND + bank; one not listed is as delivered -/
  banks : List (Nat × List Byte) := []
  /-- the preference records (R446): bank B is preferred, for KIND 1 to 3 -/
  prefs : List Bool := [false, false, false]
  /-- the banks taken at the last start, by KIND, and header bytes 0 to 83 of the images in force; none where none is -/
  active : List (Option Bool) := [none, none, none]
  headers : List (List Byte) := [[], [], []]
  /-- the fused customer key hash, the one that binds since the last cold reset, and the fused minimum SVN (R447, R454) -/
  cust : Option (List Byte) := none
  bound : Option (List Byte) := none
  svn : Nat := 0
  /-- an image being written: its KIND and bytes; a commit in progress (R448) -/
  upload : Option (Nat × List Byte) := none
  /-- the nonce of the quote in generation (R456) -/
  quote : Option (List Byte) := none
  /-- PLU cycle of the MGT_READY that opened the host's setup window (R450) -/
  windowFrom : Option Nat := none
  /-- a warm reset has been requested and has not started (R462) -/
  warm : Bool := false
  /-- VDD_NV lies below 1.68 V (R489) -/
  nvLow : Bool := false
  /-- the PHYs of MGT0 and MGT1 have link (R417) -/
  phy : List Bool := [false, false]
  /-- registers whose stored bits have changed: the corrupted word and which bits, since their parity was written (R434) -/
  corrupt : List (Nat × Word × Word) := []
deriving DecidableEq, Repr
/-! ### The whole -/

/-- One optical lane beyond its registers. -/
structure LaneState where
  conv : ConvState := {}
  rxd : RxdState := {}
  tx : TxState := {}
  fec : FecState := {}
  lfr : LfrState := {}
  pmon : PmonState := {}
  ksc : KscState := {}
deriving DecidableEq, Repr

/-- The state of the device. -/
structure State where
  /-- the commands waiting, first in, first out: the model's own queue -/
  pending : List Instr
  /-- every register -/
  regs : Store
  /-- shadow latches of wide values: word address and word (R431) -/
  shadow : Store
  /-- PLU cycles since power-on -/
  clk : Nat
  /-- the next free value to take: the model's own counter -/
  free : Nat
  /-- what the device has sent, newest first -/
  sent : List Emit
  /-- MSI-X vectors pending while masked (R441) -/
  msixPending : List Nat
  lanes : Vector LaneState 8
  /-- the sampling reference reaches converter die k (R50) -/
  sampRef : List Bool
  lvl : LevelSeq
  crs : CourseSeq
  cli : CliState
  tb : List TimeBase
  /-- RST_N is low or the power is off (R442) -/
  cold : Bool
  /-- every function waits for MGT_READY (R443) -/
  bootHold : Bool
  hkm : HkmState
  cal : CalState
  mem : MemState
  cst : CstState
  plu : PluState
  time : TimeState
  /-- values of the objects that have no register (R408, R284): index × 256 + subindex, and the value's bytes; one not
  listed has its default -/
  objs : List (Nat × List Byte)
  ciph : CiphState
  cop : CopState
  sec : SecState
deriving DecidableEq, Repr

/-- The device in cold reset: every register at its reset value, no Level, no Course, and every sequencer idle (R442).
A boot follows: COLD_RESET_RELEASE and the commands of R443 (log entry 8). -/
def State.reset : State where
  pending := []
  regs := []
  shadow := []
  clk := 0
  free := 0
  sent := []
  msixPending := []
  lanes := Vector.replicate 8 {}
  sampRef := [true, true, true, true]
  lvl := {}
  crs := {}
  cli := {}
  tb := [{}, {}, {}]
  cold := true
  bootHold := true
  hkm := {}
  cal := {}
  mem := {}
  cst := {}
  plu := {}
  time := {}
  objs := []
  ciph := {}
  cop := {}
  sec := {}

/-! ### Outcomes -/

/-- Why a run stops.  Both are refusals to claim an effect, never a wrong value: safe. -/
inductive Fault where
  /-- A breach of a host obligation for which the spec states no response (R5); raised by no meaning of this model, and
  kept so that a repair can name one: safe. -/
  | outsideSpec
deriving DecidableEq, Repr

/-- Why a command has no meaning in the model. -/
inductive Refusal where
  /-- A command whose meaning has not been written, by its mnemonic in spec/opcode_table.json; raised by the arms of
  Dispatch.lean alone: safe. -/
  | notModelled (mnemonic : String)
deriving DecidableEq, Repr

end Sys2Proof.Machine
end

