-- ==== Sys2Proof/Machine/Ops.lean ====
section
/-!
DEFINITION. The named operations over the state: the register store and its fields, wide counters, lanes, time, what
is sent, and which function is up.
-/

namespace Sys2Proof.Machine

/-- The answer of a meaning. -/
abbrev Ans := Host.Outcome State Fault Refusal

/-! ### The register store -/

/-- The word at a word address: the listed one, else the reset value. -/
def storeGet (m : Store) (a : Nat) : Word :=
  match assocGet m a with
  | some v => v
  | none => resetWord a

/-- The store with a word set; a word equal to its reset value is not listed. -/
def storePut (m : Store) (a : Nat) (v : Word) : Store :=
  if v = resetWord a then assocDel m a else assocPut m a v

/-- Keys strictly rising. -/
def risingFrom : Option Nat → List (Nat × Word) → Bool
  | _, [] => true
  | none, (k, _) :: xs => risingFrom (some k) xs
  | some j, (k, _) :: xs => j < k && risingFrom (some k) xs

/-- The canonical form of a store: addresses strictly rising, no word equal to its reset value. -/
def storeWf (m : Store) : Bool := risingFrom none m && m.all fun p => p.2 != resetWord p.1

/-- The word of a register. -/
def State.reg (s : State) (a : Nat) : Word := storeGet s.regs a

/-- A register set. -/
def State.setReg (s : State) (a : Nat) (v : Word) : State := { s with regs := storePut s.regs a v }

/-- A field, unsigned. -/
def State.get (s : State) (f : Fld) : Nat := fld (s.reg f.addr) f.lo f.len

/-- A field set (its low bits). -/
def State.set (s : State) (f : Fld) (v : Nat) : State := s.setReg f.addr (setFld (s.reg f.addr) f.lo f.len v)

/-- A one-bit field as a Bool. -/
def State.is (s : State) (f : Fld) : Bool := s.get f != 0

/-- A one-bit field set from a Bool. -/
def State.setB (s : State) (f : Fld) (b : Bool) : State := s.set f (b2n b)

/-- A field as a two's complement integer. -/
def State.getI (s : State) (f : Fld) : Int := toSigned f.len (s.get f)

/-- A register as a number. -/
def State.nat (s : State) (a : Nat) : Nat := (s.reg a).toNat

/-- A register as a 32-bit two's complement integer. -/
def State.int (s : State) (a : Nat) : Int := toSigned 32 (s.nat a)

/-- A register set from a number, modulo 2^32. -/
def State.setNat (s : State) (a v : Nat) : State := s.setReg a (BitVec.ofNat 32 v)

/-- A register set from an integer in two's complement. -/
def State.setInt (s : State) (a : Nat) (x : Int) : State := s.setNat a (ofSigned 32 x)

/-- A value of two words, low word first (R431). -/
def State.wide (s : State) (a : Nat) : Nat := s.nat a + 2 ^ 32 * s.nat (a + 4)

/-- A value of two words set, modulo 2^64. -/
def State.setWide (s : State) (a v : Nat) : State := (s.setNat a v).setNat (a + 4) (v / 2 ^ 32)

/-- A TIME80 value in three words, as ns (R255). -/
def State.time80 (s : State) (a : Nat) : Nat :=
  1000000000 * (s.nat (a + 4) + 2 ^ 32 * (s.nat (a + 8) % 2 ^ 16)) + s.nat a

/-- The three words of a TIME80 value set from ns; the top half of word 2 stays. -/
def State.setTime80 (s : State) (a ns : Nat) : State :=
  let sec := ns / 1000000000
  let w2 := setFld (s.reg (a + 8)) 0 16 (sec / 2 ^ 32)
  ((s.setNat a (ns % 1000000000)).setNat (a + 4) sec).setReg (a + 8) w2

/-- A TIME80 operand as ns. -/
def timeNs (t : Time80) : Nat := 1000000000 * t.sec + t.ns

/-- Every register at an address in `[lo, hi)` for which `keep` does not hold takes its reset value; the shadows of wide values
there read 0 until a LO word is read again (R431). -/
def State.resetRange (s : State) (lo hi : Nat) (keep : Nat → Bool) : State :=
  { s with
    regs := s.regs.filter fun p => p.1 < lo || hi ≤ p.1 || keep p.1
    shadow := s.shadow.filter fun p => p.1 < lo || hi ≤ p.1 }

/-! ### Lanes -/

/-- The state of a lane beyond its registers. -/
def State.lane (s : State) (n : Lane) : LaneState := s.lanes[n]

/-- A lane changed. -/
def State.modLane (s : State) (n : Lane) (f : LaneState → LaneState) : State :=
  { s with lanes := s.lanes.set n (f s.lanes[n]) }

def State.modConv (s : State) (n : Lane) (f : ConvState → ConvState) : State :=
  s.modLane n fun l => { l with conv := f l.conv }

def State.modRxd (s : State) (n : Lane) (f : RxdState → RxdState) : State :=
  s.modLane n fun l => { l with rxd := f l.rxd }

def State.modTx (s : State) (n : Lane) (f : TxState → TxState) : State :=
  s.modLane n fun l => { l with tx := f l.tx }

def State.modFec (s : State) (n : Lane) (f : FecState → FecState) : State :=
  s.modLane n fun l => { l with fec := f l.fec }

def State.modLfr (s : State) (n : Lane) (f : LfrState → LfrState) : State :=
  s.modLane n fun l => { l with lfr := f l.lfr }

def State.modPmon (s : State) (n : Lane) (f : PmonState → PmonState) : State :=
  s.modLane n fun l => { l with pmon := f l.pmon }

def State.modKsc (s : State) (n : Lane) (f : KscState → KscState) : State :=
  s.modLane n fun l => { l with ksc := f l.ksc }

/-- The eight lanes. -/
def allLanes : List Lane := [0, 1, 2, 3, 4, 5, 6, 7]

/-- An operation on every lane in turn. -/
def State.eachLane (s : State) (f : Lane → State → State) : State := allLanes.foldl (fun t n => f n t) s

/-! ### Time (R256) -/

/-- Units of `TimeBase.acc` in one ns. -/
def unitsPerNs : Nat := 6250000000000

/-- What one PLU cycle adds to a time base. -/
def TimeBase.step (t : TimeBase) : Nat := (10000000000000 + t.y).toNat

/-- A time base after `n` PLU cycles. -/
def TimeBase.after (t : TimeBase) (n : Nat) : TimeBase := { t with acc := t.acc + n * t.step }

/-- A time base by its number. -/
def State.tbx (s : State) (x : Nat) : TimeBase := s.tb.getD x {}

/-- A time base changed. -/
def State.modTb (s : State) (x : Nat) (f : TimeBase → TimeBase) : State := { s with tb := modAt s.tb x f }

/-- The reading of a time base in ns. -/
def State.tbNs (s : State) (x : Nat) : Nat := (s.tbx x).acc / unitsPerNs

/-- TB0 in ns and in seconds. -/
def State.tb0 (s : State) : Nat := s.tbNs 0
def State.tb0Sec (s : State) : Nat := s.tb0 / 1000000000

/-- FRAC16 of a time base: the fraction of its ns in units of 2^-16 ns (R255). -/
def State.frac16 (s : State) (x : Nat) : Nat := 65536 * ((s.tbx x).acc % unitsPerNs) / unitsPerNs

/-- `n` PLU cycles pass: the cycle count moves, TB3 runs (R317; at the nominal ratio of the two clocks, log entry 31), and
the other time bases run unless the device is in cold reset. -/
def State.elapse (s : State) (n : Nat) : State :=
  let s := { s with clk := s.clk + n, cst := { s.cst with tb3 := s.cst.tb3.after n } }
  if s.cold then s else { s with tb := s.tb.map fun t => t.after n }

/-- PLU cycles in a time given in ns, rounded up: a cycle is 1.6 ns. -/
def cyclesOfNs (ns : Nat) : Nat := divUp (ns * 5) 8

/-- Time passes until a PLU cycle, if it lies ahead. -/
def State.waitClk (s : State) (c : Nat) : State := if s.clk < c then s.elapse (c - s.clk) else s

/-- Time passes until a time base reaches `ns`, if it lies ahead. -/
def State.waitTb (s : State) (x ns : Nat) : State :=
  let t := s.tbx x
  if t.acc < unitsPerNs * ns then s.elapse (divUp (unitsPerNs * ns - t.acc) t.step) else s

/-- Time passes until `d` ns before a time base reaches `ns`, if that lies ahead. -/
def State.waitBefore (s : State) (x ns d : Nat) : State :=
  let t := s.tbx x
  let early := unitsPerNs * d + t.acc
  if early < unitsPerNs * ns then s.elapse (divUp (unitsPerNs * ns - early) t.step) else s

/-! ### What is sent, free values -/

/-- Something leaves the device. -/
def State.emit (s : State) (e : Emit) : State := { s with sent := e :: s.sent }

/-- Step on to the next free value. -/
def State.takeFree (s : State) : State := { s with free := s.free + 1 }

/-! ### Objects that no register holds -/

/-- An object without a register: its value, or a default. -/
def State.obj (s : State) (index sub dflt : Nat) : Nat :=
  match assocGet s.objs (index * 256 + sub) with
  | some bs => bytesNat bs
  | none => dflt

def State.setObj (s : State) (index sub : Nat) (bs : List Byte) : State :=
  { s with objs := assocPut s.objs (index * 256 + sub) bs }

/-- R417: the node id. -/
def State.nodeId (s : State) : Nat := s.obj 0x1010 1 0xFFFF

/-- A counter among them advanced. -/
def State.bumpObj (s : State) (index sub len k : Nat) : State := s.setObj index sub (natBytes len (s.obj index sub 0 + k))

/-! ### Which function is up (R443, R457) -/

/-- The function of R458 is held in reset. -/
def State.held (s : State) (k : Nat) : Bool := fld (s.reg aSEC_RST_STATUS) k 1 != 0

/-- Neither cold reset nor the boot hold. -/
def State.up (s : State) : Bool := !s.cold && !s.bootHold

/-- A lane runs. -/
def State.laneUp (s : State) (n : Lane) : Bool := s.up && !s.held n

/-! ### Counters and the Level freeze (R20) -/

/-- The client group, 0 or 1, of a port: where its first lane lies (R193). -/
def State.portGroup (s : State) (p : Nat) : Nat := if s.get (fCLI_PORT_CFG_FIRST_LANE p) < 64 then 0 else 1

/-- The island of a client port: CLA or CLB, by its group (R13). -/
def State.portIsland (s : State) (p : Nat) : Island := if s.portGroup p = 0 then .cla else .clb

/-- The island whose freeze holds a register (R13, R20). -/
def State.islandOf (s : State) (a : Nat) : Island :=
  if 0x4000000 ≤ a then .ciph
  else match blockOf a with
  | some (.conv, n, _) => .lrx (Fin.ofNat 8 n)
  | some (.rxd, n, _) => .lrx (Fin.ofNat 8 n)
  | some (.fec, n, _) => .lrx (Fin.ofNat 8 n)
  | some (.lfr, n, _) => .lrx (Fin.ofNat 8 n)
  | some (.txd, n, _) => .ltx (Fin.ofNat 8 n)
  | some (.pmon, _, _) => .core
  | some (.ksc, _, _) => .ksc
  | some (.ciph, _, _) => .ciph
  | some (.plu, _, _) => .plu
  | some (.time, _, _) => .plu
  | some (.hkm, _, _) => .hkm
  | some (.cli, _, o) =>
    if 0x1000 ≤ o && o < 0x3000 then s.portIsland ((o - 0x1000) / 0x80)
    else if 0x8000 ≤ o && o < 0x9000 then s.portIsland (s.get (fCLI_FX_CFG_PORT_BASE ((o - 0x8000) / 0x200)))
    else .core
  | _ => .mgt

/-- A counter of two words advanced at once. -/
def State.addNow (s : State) (a k : Nat) : State := s.setWide a (s.wide a + k)

/-- A counter of one word advanced, modulo 2^32. -/
def State.addCnt32 (s : State) (a k : Nat) : State := s.setNat a (s.nat a + k)

/-- R20: a counter counts `k` events, or holds them while its island is frozen. -/
def State.addCnt (s : State) (a k : Nat) : State :=
  if s.lvl.frozen.contains (s.islandOf a) then
    { s with lvl := { s.lvl with heldCounts := s.lvl.heldCounts ++ [(s.islandOf a, a, k)] } }
  else s.addNow a k

/-- Femtoseconds of a PLU cycle, and PLU time in fs. -/
def fsCycle : Nat := 1600000
def State.fsNow (s : State) : Nat := fsCycle * s.clk

end Sys2Proof.Machine
end

