-- ==== Sys2Proof/Machine/Flags.lean ====
section
/-!
DEFINITION. Alarms, their summary and its interrupts (R441), the access log (R433), and result codes (R400).
-/

namespace Sys2Proof.Machine

/-- ALARM AND ALARM_EN of one block. -/
def State.alarmOn (s : State) (alarm enable : Nat) : Bool := (s.reg alarm &&& s.reg enable) != 0

/-- R441: a bit of GLB_ALARM_SUM, the OR over its source of ALARM AND ALARM_EN. -/
def State.sumBit (s : State) (i : Nat) : Bool :=
  if i < 8 then
    s.alarmOn (aCONV_ALARM i) (aCONV_ALARM_EN i) || s.alarmOn (aRXD_ALARM i) (aRXD_ALARM_EN i)
      || s.alarmOn (aTXD_ALARM i) (aTXD_ALARM_EN i) || s.alarmOn (aFEC_ALARM i) (aFEC_ALARM_EN i)
      || s.alarmOn (aLFR_ALARM i) (aLFR_ALARM_EN i) || s.alarmOn (aPMON_ALARM i) (aPMON_ALARM_EN i)
      || s.alarmOn (aKSC_ALARM i) (aKSC_ALARM_EN i)
  else if i = 8 then s.alarmOn aCLI_ALARM aCLI_ALARM_EN
  else if i = 9 then s.alarmOn aCIPH_ALARM aCIPH_ALARM_EN
  else if i = 10 then s.alarmOn aPLU_ALARM aPLU_ALARM_EN
  else if i = 11 then s.alarmOn aTIME_ALARM aTIME_ALARM_EN
  else if i = 12 then s.alarmOn aHKM_ALARM aHKM_ALARM_EN
  else if i = 13 then s.alarmOn aCAL_ALARM aCAL_ALARM_EN
  else if i = 14 then s.alarmOn aMEM_ALARM aMEM_ALARM_EN
  else if i = 15 then s.alarmOn aSEC_ALARM aSEC_ALARM_EN
  else if i = 16 then s.alarmOn aGLB_ALARM aGLB_ALARM_EN
  else false

/-- R441: the whole of GLB_ALARM_SUM. -/
def State.alarmSum (s : State) : Nat :=
  (List.range 17).foldl (fun w i => w + b2n (s.sumBit i) * 2 ^ i) 0

/-- The GLB_ALARM_SUM bit that the alarm register of an address feeds. -/
def sumIndex (a : Nat) : Nat :=
  match blockOf a with
  | some (.cli, _, _) => 8
  | some (.ciph, _, _) => 9
  | some (.plu, _, _) => 10
  | some (.time, _, _) => 11
  | some (.hkm, _, _) => 12
  | some (.cal, _, _) => 13
  | some (.mem, _, _) => 14
  | some (.sec, _, _) => 15
  | some (.glb, _, _) => 16
  | some (_, n, _) => n
  | none => 17

/-- An MSI-X message, or the vector's pending bit while the vector is masked in the table (R441, log entry 9). -/
def State.msix (s : State) (i : Nat) : State :=
  if fld (s.reg (aGLB_MSIX_TABLE (4 * i + 3))) 0 1 = 1 then
    if s.msixPending.contains i then s else { s with msixPending := s.msixPending ++ [i] }
  else
    s.emit (.msix i (s.nat (aGLB_MSIX_TABLE (4 * i)) + s.nat (aGLB_MSIX_TABLE (4 * i + 1)) * 2 ^ 32)
      (s.nat (aGLB_MSIX_TABLE (4 * i + 2))))

/-- R441: after a change, the rise of GLB_ALARM_SUM bit `i` since `before` sends MSI-X vector `i` when enabled. -/
def State.irq (s before : State) (i : Nat) : State :=
  if s.sumBit i && !before.sumBit i && fld (s.reg aGLB_INT_EN) i 1 = 1 then s.msix i else s

/-- A sticky alarm bit is set. -/
def State.raise (s : State) (f : Fld) : State := (s.set f 1).irq s (sumIndex f.addr)

/-- A sticky alarm bit is set if a condition holds. -/
def State.raiseIf (s : State) (c : Bool) (f : Fld) : State := if c then s.raise f else s

/-- R433: the codes of the access log. -/
inductive AccCode where
  | width | align | ro | locked | prot | reset | safe | courseOwned | courseFull | resBusy | busy | memError
  | levelLate | levelGone
deriving DecidableEq, Repr

def AccCode.code : AccCode → Nat
  | .width => 1 | .align => 2 | .ro => 3 | .locked => 4 | .prot => 5 | .reset => 6 | .safe => 7
  | .courseOwned => 8 | .courseFull => 9 | .resBusy => 10 | .busy => 11 | .memError => 12 | .levelLate => 13
  | .levelGone => 14

/-- R433: an access is logged: counted in GLB_ACC_CNT, recorded in GLB_ACC_LAST and GLB_ACC_ADDR, and GLB_ALARM.ACC set.
The access counter belongs to the register interface and is not frozen by a Level (R21). -/
def State.logAcc (s : State) (c : AccCode) (addr : Nat) (write : Bool) : State :=
  (((s.addNow aGLB_ACC_CNT 1).setNat aGLB_ACC_LAST (c.code + 256 * b2n write)).setNat aGLB_ACC_ADDR
    (addr % 0x4000000)).raise fGLB_ALARM_ACC

/-- R400: status codes. -/
inductive Code where
  | ok | objAbsent | accessDenied | typeMismatch | valueInvalid | tooLarge | nodeBusy | notLevel | levelGone | levelLate
  | levelFull | blockExpired | stageRequired | sessionLimit | memError | resBusy | quarryWorn | unreachable | opInvalid
  | funcReset | funcSafe | courseOwned | courseFull | courseNumber | courseInvalid | courseLate | courseBusy
  | courseLockedIn | ciphAbsent | courseNone | calBusy | calSafe | launchLate | launchFar | portDown
  | ciph (c : Nat)
deriving DecidableEq, Repr

def Code.num : Code → Nat
  | .ok => 0 | .objAbsent => 1 | .accessDenied => 2 | .typeMismatch => 3 | .valueInvalid => 4 | .tooLarge => 5
  | .nodeBusy => 6 | .notLevel => 7 | .levelGone => 8 | .levelLate => 9 | .levelFull => 0xA | .blockExpired => 0xB
  | .stageRequired => 0xC | .sessionLimit => 0xD | .memError => 0xE | .resBusy => 0xF | .quarryWorn => 0x10
  | .unreachable => 0x11 | .opInvalid => 0x12 | .funcReset => 0x13 | .funcSafe => 0x14 | .courseOwned => 0x20
  | .courseFull => 0x21 | .courseNumber => 0x22 | .courseInvalid => 0x23 | .courseLate => 0x24 | .courseBusy => 0x25
  | .courseLockedIn => 0x26 | .ciphAbsent => 0x27 | .courseNone => 0x28 | .calBusy => 0x30 | .calSafe => 0x31
  | .launchLate => 0x40 | .launchFar => 0x41 | .portDown => 0x42 | .ciph c => 0x100 + c

end Sys2Proof.Machine
end

