-- ==== Sys2Proof/Machine/Formats.lean ====
section
/-!
DEFINITION. The format catalogue (R103 to R117), what a lane's transmit and receive formats set (R95, R106, R108, R115,
R133, R136), and the slot groups of a lane (R147, R148, R196).
-/

namespace Sys2Proof.Machine

/-- A free value as a number of `w` bits; the caller steps on with `State.takeFree`. -/
def State.freeBits (s : State) (w : Nat) : Nat := (Config.freeValue s.free).toNat % 2 ^ w

/-- A register takes a value that the spec leaves open. -/
def State.setFreeReg (s : State) (a : Nat) : State := (s.setNat a (s.freeBits 32)).takeFree

/-! ### Formats -/

/-- A format: the fields of TXD_FMT and TXD_RATE (R121). -/
structure Fmt where
  family : Nat
  qam : Nat
  fec : Nat
  ent : Nat
  rate : Nat
  slots : Nat
deriving DecidableEq, Repr

/-- The format two words spell. -/
def fmtOfWords (f r : Nat) : Fmt :=
  { family := bitsOf f 0 2, qam := bitsOf f 4 3, fec := bitsOf f 8 3, ent := bitsOf f 16 9,
    rate := bitsOf r 0 12, slots := bitsOf r 16 8 }

/-- R114: information bits per LF of an FEC setting. -/
def infoBits : Nat → Nat
  | 0 => 1770240 | 1 => 1728000 | 2 => 1689600 | 3 => 1655040 | 4 => 1624320 | 5 => 1593600 | _ => 1547520

/-- R124: base rows of an FEC setting. -/
def baseRows : Nat → Nat
  | 0 => 19 | 1 => 30 | 2 => 40 | 3 => 49 | 4 => 57 | 5 => 65 | _ => 77

/-- R124: inner information bits k of an FEC setting. -/
def innerK (fec : Nat) : Nat := infoBits fec * 16 / 15 / 64

/-- R142: payload words per LF. -/
def payloadWords (fec : Nat) : Nat := (infoBits fec - 1920) / 128

/-- R103: the QAM order that AUTO takes for an entropy code. -/
def autoM (e : Nat) : Nat := if e ≤ 128 then 4 else if e ≤ 224 then 16 else if e ≤ 352 then 64 else 256

/-- The QAM order of a format; 0 for a reserved code. -/
def Fmt.m (f : Fmt) : Nat :=
  match f.qam with
  | 0 => autoM f.ent | 1 => 4 | 2 => 16 | 3 => 64 | 4 => 256 | _ => 0

/-- R103: the valid pairs of QAM order and entropy code. -/
def pairOk (m e : Nat) : Bool :=
  (m == 4 && 96 ≤ e && e ≤ 128)
  || (m == 16 && ((129 ≤ e && e ≤ 224) || e == 256))
  || (m == 64 && ((129 ≤ e && e ≤ 352) || e == 384))
  || (m == 256 && 129 ≤ e && e ≤ 422)

/-- R108: symbols per polarisation per LF. -/
def Fmt.lfSym (f : Fmt) : Nat :=
  if f.m = 4 then
    let bits := 1965440
    let n := bits / (2 * f.ent)
    let r := bits % (2 * f.ent)
    160 + 64 * n + divUp (r * 64) (2 * f.ent)
  else
    let n := 983040 / f.ent
    let r := 983040 % f.ent
    64 * n + divUp (r * 64) f.ent

/-- R115: the payload capacity C as a fraction of Gb/s. -/
def Fmt.capNum (f : Fmt) : Nat := 2 * f.rate * f.ent * (infoBits f.fec - 1920)
def capDen : Nat := 8 * 64 * 1966080

/-- R115: a member of the native catalogue. -/
def Fmt.inCatalogue (f : Fmt) : Bool :=
  320 ≤ f.rate && f.rate ≤ 2400 && pairOk f.m f.ent && f.fec ≤ 6 && 1 ≤ f.slots && f.slots ≤ 128
    && f.slots * 25 * capDen ≤ f.capNum

/-- R115, R117: a format that validation accepts. -/
def Fmt.ok (f : Fmt) : Bool := f.family == 1 || f.family == 2 || (f.family == 0 && f.inCatalogue)

/-- R115: C in Mb/s, to the nearest 10 Mb/s, halves up. -/
def Fmt.capRate (f : Fmt) : Nat := (200 * f.capNum + capDen) / (2 * capDen) * 10

/-- The LF period in fs, rounded down (R108), or the agreement's frame period. -/
def Fmt.periodFs (f : Fmt) : Nat :=
  if f.family = 0 then f.lfSym * 8000000 / f.rate else (Config.zrPeriodFs f.family).toNat

/-- R108, R235: the LF period in fs of PLU time as a fraction: LF_SYM ÷ Rs of the clocks that the DPLL drives, which runs
`freq` × 10^-12 off OSCIN. -/
def Fmt.periodAt (f : Fmt) (freq : Int) : Nat × Nat :=
  let d := (1000000000000 + freq).toNat
  if f.family = 0 then (f.lfSym * 8000000 * 1000000000000, max 1 (f.rate * d))
  else ((Config.zrPeriodFs f.family).toNat * 1000000000000, max 1 d)

/-- R115, R117: the symbol rate in 1/32 GBd; 59.84375 GBd in 400ZR. -/
def Fmt.symRate (f : Fmt) : Nat :=
  if f.family = 0 then 4 * f.rate else if f.family = 1 then 1915 else max 1 Config.zrRate.toNat

/-- Sum of two lists of counts, the second `k` places up, cut to the length of the first. -/
def addShifted (acc : List Nat) (k : Nat) (xs : List Nat) : List Nat :=
  List.zipWith (· + ·) acc (List.replicate k 0 ++ xs ++ List.replicate acc.length 0)

/-- How many sequences of `n` elements have each cost up to `len - 1`, where an element's cost is one of `costs`. -/
def seqCounts (costs : List Nat) (len : Nat) : Nat → List Nat
  | 0 => 1 :: List.replicate (len - 1) 0
  | n + 1 =>
    let prev := seqCounts costs len n
    costs.foldl (fun acc k => addShifted acc k prev) (List.replicate len 0)

/-- The least cost at which at least `want` sequences have that cost or less. -/
def leastBound : List Nat → Nat → Nat → Nat → Nat
  | [], _, _, c => c
  | x :: xs, sum, want, c => if want ≤ sum + x then c else leastBound xs (sum + x) want (c + 1)

/-- The costs of the amplitudes 1, 3, …, √M − 1 as (a² − 1) / 8. -/
def ampCosts (m : Nat) : List Nat := if m = 16 then [0, 1] else if m = 64 then [0, 1, 3, 6] else [0, 1, 3, 6, 10, 15, 21, 28]

/-- R106, R107: the bound B of the full blocks: the energy of 128 amplitudes, 128 + 8 × the cost, or for M = 4 the
number of ones of 64 parities; 0 in the ZR families. -/
def Fmt.essBound (f : Fmt) : Nat :=
  if f.family ≠ 0 then 0
  else if f.m = 4 then leastBound (seqCounts [0, 1] 65 64) 0 (2 ^ (2 * f.ent - 192)) 0
  else
    let top := ampCosts f.m |>.getLastD 0
    128 + 8 * leastBound (seqCounts (ampCosts f.m) (128 * top + 1) 128) 0 (2 ^ (f.ent - 128)) 0

/-- R106, R107, R110: the mean square of the amplitudes of the constellation as a fraction: over the sequences of a full block
within its bound; ±1 for M = 4, uniform ±1 and ±3 in the ZR families. -/
def Fmt.energy (f : Fmt) : Nat × Nat :=
  if f.family ≠ 0 then (5, 1)
  else if f.m = 4 then (1, 1)
  else
    let top := ampCosts f.m |>.getLastD 0
    let counts := (seqCounts (ampCosts f.m) (128 * top + 1) 128).take ((f.essBound - 128) / 8 + 1)
    (counts.zipIdx.foldl (fun v p => v + p.1 * (128 + 8 * p.2)) 0, max 1 (128 * counts.foldl (· + ·) 0))

/-- R133: ITER_AVAIL of a native format. -/
def Fmt.iterAvail (f : Fmt) : Nat := min 24 (47000 * 8 * f.lfSym / (1966080 * f.rate))

/-- A fraction rounded to the nearest whole number, halves up. -/
def roundDiv (a b : Nat) : Nat := if b = 0 then 0 else (2 * a + b) / (2 * b)

/-- R136: the decode latency in ps.  With P the LF period: 10 P / 64 + 120 ns + (WIN + 1) P 216,000 / I + 40 ns. -/
def Fmt.rxLat (f : Fmt) (win : Nat) : Nat :=
  let i := infoBits f.fec
  let p := f.lfSym * 8000
  roundDiv (10 * p * i + (win + 1) * p * 216000 * 64 + 160000 * 64 * i * f.rate) (64 * i * f.rate)

/-- R136: the encoder latency in ps: 2 P / 64 + 60 ns. -/
def Fmt.txLat (f : Fmt) : Nat := roundDiv (2 * f.lfSym * 8000 + 60000 * 64 * f.rate) (64 * f.rate)

/-- The transmit format in force. -/
def State.txFmt (s : State) (n : Nat) : Fmt := fmtOfWords (s.nat (aTXD_FMT n)) (s.nat (aTXD_RATE n))

/-- R95: the configured receive format. -/
def State.cfgRxFmt (s : State) (n : Nat) : Fmt := fmtOfWords (s.nat (aRXD_RX_FMT n)) (s.nat (aRXD_RX_RATE n))

/-- The words of the receive format in force: the followed one (R94) or the configured one. -/
def State.rxWords (s : State) (n : Lane) : FarFmt :=
  let cfg : FarFmt := ⟨s.nat (aRXD_RX_FMT n), s.nat (aRXD_RX_RATE n), s.nat (aRXD_RX_PULSE n)⟩
  if (s.lane n).rxd.follow then ((s.lane n).rxd.far).getD cfg else cfg

/-- The receive format in force. -/
def State.rxFmt (s : State) (n : Lane) : Fmt := fmtOfWords (s.rxWords n).fmt (s.rxWords n).rate

/-- The code of an M in TXD_STATE.QAM. -/
def qamCode (m : Nat) : Nat := if m = 4 then 1 else if m = 16 then 2 else if m = 64 then 3 else 4

/-- What the transmit format in force shows: R106, R108, R115, R117, R136, R162. -/
def State.showTxFmt (s : State) (n : Nat) : State :=
  let f := s.txFmt n
  let s := (s.set (fTXD_STATE_FAMILY n) f.family).set (fFEC_STATE_FEC_TX n) f.fec
  let s := s.setNat (aTXD_ESS_BOUND n) f.essBound
  if f.family = 0 then
    let s := (s.setNat (aTXD_CAP_RATE n) f.capRate).setNat (aTXD_LF_SYM n) f.lfSym
    let s := (s.set (fTXD_STATE_QAM n) (qamCode f.m)).setNat (aFEC_TX_LAT n) f.txLat
    s.setB (fLFR_STATE_PSF_SLOW n) (3750000000 < f.periodFs)
  else
    -- R117: the native figures are not used; the spec states no value for CAP_RATE and LF_SYM there
    let s := (s.setFreeReg (aTXD_CAP_RATE n)).setFreeReg (aTXD_LF_SYM n)
    let s := (s.set (fTXD_STATE_QAM n) (qamCode 16)).setNat (aFEC_TX_LAT n) (Config.zrLatency true f.family).toNat
    s.setB (fLFR_STATE_PSF_SLOW n) false

/-- What the receive format in force shows: R133, R136, R139, R140. -/
def State.showRxFmt (s : State) (n : Lane) : State :=
  let f := s.rxFmt n
  let s := s.setB (fFEC_STATE_ZR n) (f.family != 0)
  if f.family = 0 then
    let s := (s.set (fFEC_STATE_FEC_RX n) f.fec).set (fFEC_STATE_ITER_AVAIL n) f.iterAvail
    (s.setNat (aFEC_RX_LAT n) (f.rxLat (s.get (fFEC_OCFG_WIN n)))).setNat (aFEC_K n) (innerK f.fec)
  else s.setNat (aFEC_RX_LAT n) (Config.zrLatency false f.family).toNat

/-! ### Slot groups (R147, R148, R196) -/

/-- A flow mapped on a lane: its number, its configuration word and its slots as a 128-bit number. -/
structure Mapped where
  flow : Nat
  cfg : Nat
  slots : Nat
deriving DecidableEq, Repr

/-- The slots of a mapped flow in rising order; the first is the head. -/
def Mapped.list (g : Mapped) : List Nat := indexesWhere 128 fun j => bitOf g.slots j
def Mapped.head (g : Mapped) : Nat := g.list.headD 0
def Mapped.count (g : Mapped) : Nat := g.list.length
/-- R196: the SSI TYPE code, which CLI_FLOWf_CFG shows. -/
def Mapped.type (g : Mapped) : Nat := bitsOf g.cfg 24 8

/-- The slots of a flow as in force on transmit. -/
def State.flowSlots (s : State) (f : Nat) : Nat :=
  (List.range 4).foldl (fun v i => v + s.nat (aCLI_FLOW_SLOTS f i) * 2 ^ (32 * i)) 0

/-- The transmit mapping in force of a lane: its enabled flows with slots. -/
def State.txGroups (s : State) (n : Nat) : List Mapped :=
  (List.range 256).filterMap fun f =>
    let c := s.nat (aCLI_FLOW_CFG f)
    if bitOf c 0 && bitsOf c 16 3 == n && s.flowSlots f != 0 then some ⟨f, c, s.flowSlots f⟩ else none

/-- The receive mapping in force of a lane; it differs from the transmit one between a Course's two apply points. -/
def State.rxGroups (s : State) (n : Nat) : List Mapped :=
  s.cli.rxMap.filterMap fun p =>
    if bitOf p.2.1 0 && bitsOf p.2.1 16 3 == n && p.2.2 != 0 then some ⟨p.1, p.2.1, p.2.2⟩ else none

/-! ### Bridges (R162) and a change of the receive format -/

/-- R162: a bridge entry is valid. -/
def State.bridgeOk (s : State) (n : Lane) (k : Nat) : Bool :=
  let i := k - 1
  let cnt := s.get (fLFR_PSF_BR_COUNT n i)
  let src : Lane := Fin.ofNat 8 (s.get (fLFR_PSF_BR_SRC_LANE n i))
  1 ≤ k && 1 ≤ cnt && s.get (fLFR_PSF_BR_DST_SLOT n i) + cnt ≤ (s.txFmt n).slots
    && (s.txFmt n).family == 0 && (s.rxFmt src).family == 0 && s.get (fLFR_PSF_BR_SRC_SLOT n i) + cnt ≤ (s.rxFmt src).slots

/-- The slots of a lane that a bridge overrides. -/
def State.bridgeSlots (s : State) (n : Lane) (k : Nat) : List Nat :=
  if k = 0 then []
  else (List.range (s.get (fLFR_PSF_BR_COUNT n (k - 1)))).map (· + s.get (fLFR_PSF_BR_DST_SLOT n (k - 1)))

/-- R167, R168: LFR_SLOTj.BRIDGED of a lane; a ZR family in force on receive has no slot status. -/
def State.showBridged (s : State) (n : Lane) : State :=
  let on := if (s.rxFmt n).family = 0 then s.bridgeSlots n (s.lane n).tx.bridge else []
  (List.range 128).foldl (fun s j => if s.is (fLFR_SLOT_BRIDGED n j) == on.contains j then s
    else s.setB (fLFR_SLOT_BRIDGED n j) (on.contains j)) s

/-- R162: a bridge that a Course leaves without a valid entry is released. -/
def State.bridgeCheck (s : State) (n : Lane) : State :=
  let b := (s.lane n).tx.bridge
  if b = 0 || s.bridgeOk n b then s
  else ((s.modTx n fun t => { t with bridge := 0, bridgedSent := 0, bridgeFifo := [] }).showBridged n).raise (fLFR_ALARM_BRIDGE_REL n)

/-- R162: the receive format of a lane has changed: bridges that take their words from it are checked (log entry 59). -/
def State.bridgesOf (s : State) (n : Lane) : State :=
  s.eachLane fun b s =>
    let k := (s.lane b).tx.bridge
    if k != 0 && s.get (fLFR_PSF_BR_SRC_LANE b (k - 1)) == n.val then s.bridgeCheck b else s

/-- R95, R133, R137, R162: the receive format, its roll-off among it, or FEC_OCFG may have changed: they are shown, and with a
change the iteration pool starts empty and bridges are checked. -/
def State.rxFmtTurn (s before : State) (n : Lane) : State :=
  let s := s.showRxFmt n
  if s.rxWords n = before.rxWords n && s.nat (aFEC_OCFG n) == before.nat (aFEC_OCFG n) then s
  else (s.modFec n fun c => { c with pool := 0 }).bridgesOf n

/-- The group of a mapping that a slot belongs to. -/
def groupAt (gs : List Mapped) (j : Nat) : Option Mapped := gs.find? fun g => bitOf g.slots j

/-- R148: nominal words per multiframe of a group of `ng` slots. -/
def groupX (f : Fmt) (ng : Nat) : Nat := ng * 50 * f.lfSym * 8 / f.rate
/-- R148: justification unit. -/
def groupU (f : Fmt) (ng : Nat) : Nat := divUp (groupX f ng) 512000

/-- R148: data words of a group in the LF with MFAS `m`, of the `t` words its slots have there. -/
def dataWords (f : Fmt) (ng m t : Nat) (j : Int) : Nat :=
  let x := groupX f ng
  let base : Int := (((m + 1) * x / 256 - m * x / 256 : Nat) : Int)
  (clampI 0 t (base + j * groupU f ng)).toNat

/-- R147: the slot of payload word `w` in the LF with MFAS `m`. -/
def slotOf (f : Fmt) (m w : Nat) : Nat := if f.slots = 0 then 0 else (m * payloadWords f.fec + w) % f.slots

/-- R149: whether group word `i` of `t` carries data when `d` do. -/
def carriesData (d t i : Nat) : Bool := t != 0 && i * d / t < (i + 1) * d / t

end Sys2Proof.Machine
end

