-- ==== Sys2Proof/Machine/Gate.lean ====
section
/-!
DEFINITION. Who may write: protection regions (R451), the boot hold (R443), functions held in reset and safe states
(R433, R435), and how a refusal is told to its source.
-/

namespace Sys2Proof.Machine

/-- R451: the initiators. -/
inductive Initiator where
  | pcie | copMgt | copLine
deriving DecidableEq, Repr

def Initiator.num : Initiator → Nat
  | .pcie => 0 | .copMgt => 1 | .copLine => 2

/-- R451: region `r` covers an address. -/
def State.regionHas (s : State) (a r : Nat) : Bool :=
  s.is (fSEC_REG_RIGHTS_EN r) && s.nat (aSEC_REG_FIRST r) ≤ a && a ≤ s.nat (aSEC_REG_LAST r)

/-- R451: the right of an initiator at a BAR0 offset: the lowest-numbered region that covers it decides, once the
regions are in effect (R449), else SEC_CFG.  Reads of GLB are never refused. -/
def State.allowed (s : State) (i : Initiator) (write : Bool) (a : Nat) : Bool :=
  if !write && a < 0x100000 then true
  else
    match (if s.is fSEC_STATUS_REGIONS_ON then (List.range 64).find? fun r => s.regionHas a r else none) with
    | some r => fld (s.reg (aSEC_REG_RIGHTS r)) (2 * i.num + b2n write) 1 != 0
    | none => fld (s.reg aSEC_CFG) (4 * b2n write + i.num) 1 != 0

/-- R458: the function whose reset bit holds the block of an address: lanes 0 to 7, client groups 8 and 9, CIPH 10,
KSC 11, PLU 12, HKM 13, CAL 14.  The KSC block of a lane is reset with its lane and with KSC. -/
def State.functionsOf (s : State) (a : Nat) : List Nat :=
  match blockOf a with
  | some (.ksc, n, _) => [n, 11]
  | some (.ciph, _, _) => [10]
  | some (.plu, _, _) => [12]
  | some (.hkm, _, _) => [13]
  | some (.cal, _, _) => [14]
  | some (.cli, _, o) =>
    if o = 0x10 then [8] else if o = 0x14 then [9]
    else if 0x1000 ≤ o && o < 0x3000 then [8 + s.portGroup ((o - 0x1000) / 0x80)]
    else if 0x8000 ≤ o && o < 0x9000 then
      [8 + s.portGroup (s.get (fCLI_FX_CFG_PORT_BASE ((o - 0x8000) / 0x200)))]
    else []
  | some (.conv, n, _) => [n]
  | some (.rxd, n, _) => [n]
  | some (.txd, n, _) => [n]
  | some (.fec, n, _) => [n]
  | some (.lfr, n, _) => [n]
  | some (.pmon, n, _) => [n]
  | _ => []

/-- R433: the function of an address is held in reset. -/
def State.inReset (s : State) (a : Nat) : Bool := (s.functionsOf a).any s.held

/-- R435: the bits of GLB_SAFE that hold the block of an address. -/
def State.safeBits (s : State) (a : Nat) : List Nat :=
  match blockOf a with
  | some (.glb, _, _) => [17]
  | some (.sec, _, _) => [16]
  | some (.mem, _, _) => [15]
  | some (.cal, _, _) => [14]
  | some (.hkm, _, _) => [13]
  | some (.time, _, _) => [12]
  | some (.plu, _, _) => [11]
  | some (.ciph, _, _) => [10]
  | some (.cli, _, _) => match s.functionsOf a with | [] => [8, 9] | ks => ks
  | some (.cst, _, _) => []
  | some (_, n, _) => [n]
  | none => []

/-- A block is in its safe state. -/
def State.safe (s : State) (k : Nat) : Bool := fld (s.reg aGLB_SAFE) k 1 != 0
def State.isSafe (s : State) (a : Nat) : Bool := (s.safeBits a).any s.safe

/-- R433: the addresses outside GLB and SEC, which the boot hold closes to writes (R443). -/
def beyondBoot (a : Nat) : Bool := 0x200000 ≤ a

/-- R365, R371: the safe state of CAL refuses a command itself, with `CAL_SAFE`. -/
def safeRefuses (a : Nat) : Bool := a != aCAL_CMD

/-- R435: the SEC reset requests, whose writes no safe state refuses. -/
def resetRequest (a : Nat) : Bool := a == aSEC_RST_FUNC || a == aSEC_RST_LODGE || a == aSEC_CST_RST

/-- Why a PCIe write of a word is refused before its access code is looked at, if it is: protection, and SEC's safe
state (R435, R451), the boot hold (R443), its function's reset (R433), the safe state of its block. -/
def State.writeGate (s : State) (a : Nat) (staged : Bool) : Option AccCode :=
  if !s.allowed .pcie true a || (s.safe 16 && 0x100000 ≤ a && !resetRequest a) then some .prot
  else if (s.cold || s.bootHold || s.is fSEC_RST_STATUS_WARM) && beyondBoot a then some .reset
  else if s.inReset a && !staged then some .reset
  else if s.isSafe a && !resetRequest a && safeRefuses a then some .safe
  else none

/-- A refusal told to its source: logged for PCIe (R433), answered for COP (R400). -/
def State.refuse (s : State) (by_ : Source) (a : Nat) (acc : AccCode) (code : Code) : State :=
  match by_ with
  | .pcie => s.logAcc acc a true
  | .cop k => s.emit (.answer k code.num)

/-- An answer to a COP session; PCIe gets none. -/
def State.answer (s : State) (by_ : Source) (code : Code) : State :=
  match by_ with
  | .pcie => s
  | .cop k => s.emit (.answer k code.num)

/-- A refusal under a fixed owner that PCIe's write met is logged (R433); the outcome as the status of R400. -/
def State.told (s : State) (by_ : Source) (a : Nat) (c : Code) : State × Nat :=
  match by_, c with
  | .pcie, .resBusy => (s.logAcc .resBusy a true, c.num)
  | _, _ => (s, c.num)

/-- A command that stands for a write by PCIe of one register: refused and logged, or with its effect.  A COP write of
the same register passes the checks of R392, made where COP requests are taken, from MGT_READY on (R443).  In cold reset nothing takes it. -/
def State.byWrite (s : State) (by_ : Source) (a : Nat) (act : State → State) : State :=
  if s.cold then s
  else match by_ with
  | .pcie => match s.writeGate a false with
    | some c => s.logAcc c a true
    | none => act s
  | .cop _ => if s.is fGLB_STATUS_MGT_READY then act s else s

/-- The same for a command that only PCIe's register stands for. -/
def State.hostWrite (s : State) (a : Nat) (act : State → State) : State := s.byWrite .pcie a act

/-! ### The words a Course sets (R29, R34) -/

/-- The words of registers as staged writes will leave them. -/
def State.afterWrites (s : State) (ws : List Staged) (addr : Nat) : Nat :=
  ws.foldl (fun v w => w.items.foldl (fun v i => if i.1 = addr then itemWord v i.2.1 i.2.2 else v) v) (s.nat addr)

/-- Items of an armed Course still wait for the transmit, or the receive, apply point of a lane. -/
def Armed.txWaits (a : Armed) (n : Nat) : Bool := a.items.any fun i => i.spot == .tx n
def Armed.rxWaits (a : Armed) (n : Nat) : Bool := a.items.any fun i => i.spot == .rx n

/-- The words of registers as an armed Course will leave them. -/
def afterCourse (a : Armed) (s : State) (addr : Nat) : Nat := s.afterWrites a.writes addr

end Sys2Proof.Machine
end

