-- ==== Sys2Proof/Machine/MemCode.lean ====
section
/-!
DEFINITION. The on-die arrays and their row-and-column code (16_memory_integrity.md): syndromes, the checker's decision,
the log and its counters, poison, and the held half of the host windows.  Instances are numbered as the lane 0 to 7, the
client group 0 or 1, or the function of R458 (CIPH 10, PLU 12); array 6 numbers the groups 8 and 9, arrays 2 and 3
have instance 0, and the instance of array 10 in CORE is 2 (log entry 30).
-/

namespace Sys2Proof.Machine

/-- R373: the 64-bit words of an instance of an array; 0 for an instance that does not exist. -/
def memWords (a inst : Nat) : Nat :=
  match a with
  | 0 => if inst = 10 then 65536 else 0
  | 1 => if inst = 10 then 1048576 else 0
  | 2 => if inst = 0 then 524288 else 0
  | 3 => if inst = 0 then 3145728 else 0
  | 4 => if inst < 8 then 131072 else 0
  | 5 => if inst < 8 || inst == 10 then 32768 else if inst = 12 then 8192 else 0
  | 6 => if inst < 8 then 98304 else if inst < 10 then 36864 else 0
  | 7 => if inst < 8 then 4194304 else 0
  | 8 => if inst < 8 then 2097152 else 0
  | 9 => if inst < 2 then 2359296 else 0
  | 10 => if inst < 3 then 262144 else 0
  | _ => 0

/-- The key of a word of an array. -/
def memKey (a inst addr : Nat) : Nat := (16 * a + inst) * 2 ^ 22 + addr

/-- R373: the first of the 64 words that a word of array 6 covers: array, instance, word. -/
def covers (inst addr : Nat) : Nat × Nat × Nat :=
  if inst < 8 then (if addr < 65536 then (7, inst, 64 * addr) else (8, inst, 64 * (addr - 65536))) else (9, inst - 8, 64 * addr)

/-- The instances of an array. -/
def memInsts (a : Nat) : List Nat := (List.range 16).filter fun i => 0 < memWords a i

/-- R373: arrays filled at cold reset; 7 to 9 have valid bits. -/
def memFills (a : Nat) : Bool := a < 7 || a == 10

/-! ### The code (R374, R375) -/

/-- The parity of the bits of a list of positions. -/
def parityAt (w : Nat) (ps : List Nat) : Bool := ps.foldl (fun p i => p != bitOf w i) false

/-- Row check `r` and column check `c` of 64 data bits. -/
def rowCheck (d r : Nat) : Bool := parityAt d ((List.range 8).map fun k => 8 * r + k)
def colCheck (d c : Nat) : Bool := parityAt d ((List.range 8).map fun k => c + 8 * k)

/-- The two syndromes of a word of which the bits `flips` differ from what was written, with its check bits inverted
where it is poisoned (R383): data [63:0], row checks [71:64], column checks [79:72]. -/
def syndromes (poisoned : Bool) (flips : Nat) : Nat × Nat :=
  let sum := fun (f : Nat → Bool) => (List.range 8).foldl (fun w i => w + b2n (f i) * 2 ^ i) 0
  (sum fun r => (rowCheck flips r != bitOf flips (64 + r)) != poisoned,
   sum fun c => (colCheck flips c != bitOf flips (72 + c)) != poisoned)

/-- R375: what the checker decides of a word. -/
inductive Verdict where
  | clean
  | dataBit (i : Nat)
  | checkBit
  | poisoned
  | uncorrectable
deriving DecidableEq, Repr

/-- The positions of the ones of a syndrome. -/
def onesOf (v : Nat) : List Nat := (List.range 8).filter fun i => bitOf v i

/-- R375: the decision, from the two syndromes. -/
def verdict (s : Nat × Nat) : Verdict :=
  match onesOf s.1, onesOf s.2 with
  | [], [] => .clean
  | [r], [c] => .dataBit (8 * r + c)
  | [_], [] => .checkBit
  | [], [_] => .checkBit
  | _, _ => if s.1 = 0xFF && s.2 = 0xFF then .poisoned else .uncorrectable

/-- The data bits that stay wrong in what the checker delivers of a word (R376). -/
def residual (v : Verdict) (flips : Nat) : Nat :=
  match v with
  | .dataBit i => Nat.xor (flips % 2 ^ 64) (2 ^ i)
  | _ => flips % 2 ^ 64

/-! ### Poison, counters and log (R381 to R388) -/

def State.modMem (s : State) (f : MemState → MemState) : State := { s with mem := f s.mem }

/-- The words of array `a` that are poisoned. -/
def State.poisonCount (s : State) (a : Nat) : Nat := s.mem.poison.countP fun p => p.1 == a

/-- The list of poisoned words changes; POISONED and POISON_ANY follow. -/
def State.setPoison (s : State) (l : List (Nat × Nat × Nat)) : State :=
  let s := s.modMem fun m => { m with poison := l }
  let s := (List.range 11).foldl (fun s a => s.set (fMEM_ARR_STATUS_POISONED a) (s.poisonCount a)) s
  s.setB fMEM_STATUS_POISON_ANY (!l.isEmpty)

def State.isPoisoned (s : State) (a inst addr : Nat) : Bool := s.mem.poison.contains (a, inst, addr)

/-- R383: a word is poisoned. -/
def State.poison (s : State) (a inst addr : Nat) : State :=
  if s.isPoisoned a inst addr then s else s.setPoison (s.mem.poison ++ [(a, inst, addr)])

/-- R383: a full-word write clears the poison. -/
def State.unpoison (s : State) (a inst addr : Nat) : State :=
  if s.isPoisoned a inst addr then s.setPoison (s.mem.poison.filter fun p => p != (a, inst, addr)) else s

/-- R387: an event of a kind is counted and, with LOG_CE or above KIND 3, logged. -/
def State.memLog (s : State) (kind a inst addr : Nat) (syn : Nat × Nat) : State :=
  let s := if kind ≤ 3 then (s.addCnt (aMEM_ARR_CE_CNT a) 1).raise fMEM_ALARM_CE
    else s.addCnt (aMEM_ARR_UE_CNT a) 1
  if kind ≤ 3 && !s.is fMEM_CTRL_LOG_CE then s
  else
    let e := s.get fMEM_STATUS_LOG_NEXT
    let s := (s.setNat (aMEM_LOG e 0) s.tb0Sec).setNat (aMEM_LOG e 1) (s.tb0 % 1000000000)
    let s := s.setNat (aMEM_LOG e 2) (a + 16 * kind + 256 * syn.1 + 65536 * syn.2 + 2 ^ 24 * inst)
    (s.setNat (aMEM_LOG e 3) addr).set fMEM_STATUS_LOG_NEXT ((e + 1) % 64)

/-- R384: a functional read of a word: whether its data are good. -/
def State.memCheck (s : State) (a inst addr flips : Nat) : State × Bool :=
  let syn := syndromes (s.isPoisoned a inst addr) flips
  match verdict syn with
  | .clean => (s, true)
  | .dataBit _ => (s.memLog 1 a inst addr syn, true)
  | .checkBit => (s.memLog 1 a inst addr syn, true)
  | .poisoned => ((s.memLog 6 a inst addr syn).raise fMEM_ALARM_POISON_READ, false)
  | .uncorrectable => ((s.memLog 4 a inst addr syn).raise fMEM_ALARM_UE, false)

/-- BAR0 address of a word of the message buffer (instance 10) or the launch buffer (12). -/
def winAddr (inst addr : Nat) : Nat := (if inst = 10 then 0x780000 else 0x410000) + 8 * addr

/-- The writable host windows of array 5 (R382), by BAR0 address: instance and word. -/
def winOf (a : Nat) : Option (Nat × Nat) :=
  if 0x780000 ≤ a && a < 0x7C0000 then some (10, (a - 0x780000) / 8)
  else if 0x410000 ≤ a && a < 0x420000 then some (12, (a - 0x410000) / 8)
  else none

/-- The BAR0 address of a word of array 5: of a host window or of a capture memory. -/
def busWord (inst addr : Nat) : Nat := if inst < 8 then aCONV_CAP_SAMPLES inst 0 0 + 8 * addr else winAddr inst addr

/-- R379: a word of arrays 7 to 9 whose valid bit is 0. -/
def State.memBlank (s : State) (a inst addr : Nat) : Bool :=
  7 ≤ a && a ≤ 9 && (assocGet s.mem.words (memKey a inst addr)).isNone

/-- R373, R378: the data of a word as written; a word of array 6 is 64 valid bits. -/
def State.memWord (s : State) (a inst addr : Nat) : Nat :=
  if a = 5 then s.nat (busWord inst addr) + 2 ^ 32 * s.nat (busWord inst addr + 4)
  else if a = 6 then
    let c := covers inst addr
    (List.range 64).foldl (fun w i => w + b2n (!s.memBlank c.1 c.2.1 (c.2.2 + i)) * 2 ^ i) 0
  else (assocGet s.mem.words (memKey a inst addr)).getD 0

/-- A word's data change; the valid bit of a word of arrays 7 to 9 is 1 from then on. -/
def State.memSet (s : State) (a inst addr w : Nat) : State :=
  if a = 5 then (s.setNat (busWord inst addr) (w % 2 ^ 32)).setNat (busWord inst addr + 4) (w / 2 ^ 32)
  else if a = 6 then
    let c := covers inst addr
    s.modMem fun m => { m with words := (List.range 64).foldl (fun ws i =>
      let k := memKey c.1 c.2.1 (c.2.2 + i)
      if bitOf w i then assocPut ws k ((assocGet ws k).getD 0) else assocDel ws k) m.words }
  else s.modMem fun m => { m with words := assocPut m.words (memKey a inst addr) w }

/-- R379, R383: a full-word write by the function that owns the word. -/
def State.memWrite (s : State) (a inst addr w : Nat) : State := (s.unpoison a inst addr).memSet a inst addr w

/-- R376: wrong data bits enter the stored word. -/
def State.memXor (s : State) (a inst addr d : Nat) : State :=
  if d = 0 then s else s.memSet a inst addr (Nat.xor (s.memWord a inst addr) d)

/-- R379, R381: a partial write of a word, `merge` putting its bytes there: the state, and whether it was made. -/
def State.memPartial (s : State) (a inst addr flips : Nat) (merge : State → State) : State × Bool :=
  let syn := syndromes (s.isPoisoned a inst addr) flips
  let v := if s.memBlank a inst addr then .clean else verdict syn
  let fix := fun (s : State) => if s.memBlank a inst addr then s else s.memXor a inst addr (residual v flips)
  match v with
  | .clean => (merge (fix s), true)
  | .dataBit _ => (merge (fix (s.memLog 3 a inst addr syn)), true)
  | .checkBit => (merge (fix (s.memLog 3 a inst addr syn)), true)
  | .poisoned => (s.memLog 5 a inst addr syn, false)
  | .uncorrectable =>
    ((((fix s).poison a inst addr).memLog 5 a inst addr syn).raise fMEM_ALARM_POISON_SET |>.raise fMEM_ALARM_UE, false)

/-- R382: the held half is written as a partial write before the next access of the array; a refusal is logged. -/
def State.memFlush (s : State) : State :=
  match s.mem.half with
  | none => s
  | some (a, v) =>
    let s := s.modMem fun m => { m with half := none }
    match winOf a with
    | none => s
    | some (inst, w) =>
      let p := s.memPartial 5 inst w 0 fun s => s.setReg a v
      if p.2 then p.1 else p.1.logAcc .memError a true

/-- R382: a 32-bit PCIe write to a host window. -/
def State.winWrite (s : State) (a : Nat) (v : Word) : State :=
  match winOf a with
  | none => s
  | some (inst, w) =>
    let full := match s.mem.half with
      | some (h, _) => h + 4 == a
      | none => false
    if full then
      let low := (s.mem.half.map (·.2)).getD 0
      let s := (s.modMem fun m => { m with half := none }).unpoison 5 inst w
      (s.setReg (a - 4) low).setReg a v
    else
      let s := s.memFlush
      if a % 8 = 0 then s.modMem fun m => { m with half := some (a, v) }
      else
        let p := s.memPartial 5 inst w 0 fun s => s.setReg a v
        if p.2 then p.1 else p.1.logAcc .memError a true

/-- A write of bytes `[ofs, ofs + n)` of a host window by COP or by the block itself: the words wholly covered lose their
poison, and the poisoned ones covered in part refuse; those are listed. -/
def State.winTouch (s : State) (inst ofs n : Nat) : State × List Nat :=
  let s := s.memFlush
  if s.mem.poison.isEmpty || n = 0 then (s, [])
  else
    (List.range ((ofs + n - 1) / 8 + 1 - ofs / 8)).foldl (fun (p : State × List Nat) i =>
      let w := ofs / 8 + i
      if ofs ≤ 8 * w && 8 * w + 8 ≤ ofs + n then (p.1.unpoison 5 inst w, p.2)
      else
        let r := p.1.memPartial 5 inst w 0 id
        (r.1, if r.2 then p.2 else p.2 ++ [w])) (s, [])

/-- R384: a read of bytes `[ofs, ofs + n)` of a host window by COP or by the block itself: whether every word is good. -/
def State.winGood (s : State) (inst ofs n : Nat) : State × Bool :=
  let s := s.memFlush
  if s.mem.poison.isEmpty || n = 0 then (s, true)
  else
    (List.range ((ofs + n - 1) / 8 + 1 - ofs / 8)).foldl (fun (p : State × Bool) i =>
      let r := p.1.memCheck 5 inst (ofs / 8 + i) 0
      (r.1, p.2 && r.2)) (s, true)

/-- Every word of an instance is written anew: none of it is poisoned. -/
def State.memClean (s : State) (a inst : Nat) : State :=
  if s.mem.poison.any fun p => p.1 == a && p.2.1 == inst then
    s.setPoison (s.mem.poison.filter fun p => !(p.1 == a && p.2.1 == inst))
  else s

/-- R380: an instance is refilled, or its valid bits cleared: no word of it is poisoned, and its sweep starts anew.  FILL shows
the refill as long as the function is held in reset (log entry 30). -/
def State.memRefill (s : State) (a inst : Nat) : State :=
  let s := if memFills a then s.setB (fMEM_ARR_STATUS_FILL a) true else s
  (s.memClean a inst).modMem fun m => { m with
    words := m.words.filter fun p => p.1 / 2 ^ 22 != 16 * a + inst
    scrub := assocDel m.scrub (16 * a + inst)
    half := if a = 5 && ((m.half.bind fun h => winOf h.1).any fun w => w.1 == inst) then none else m.half }

/-- R380: the reset of a lane, of a client group, of CIPH. -/
def State.memLane (s : State) (n : Nat) : State := [4, 5, 7, 8].foldl (fun s a => s.memRefill a n) s
def State.memGroup (s : State) (g : Nat) : State := [9, 10].foldl (fun s a => s.memRefill a g) s
def State.memCiph (s : State) : State := [0, 1, 5].foldl (fun s a => s.memRefill a 10) s

/-- R380: the functions, as bits of SEC_RST_STATUS, whose reset refills an array of R373 that is filled. -/
def fillOwners (a : Nat) : List Nat :=
  match a with
  | 0 => [10] | 1 => [10] | 4 => List.range 8 | 5 => [0, 1, 2, 3, 4, 5, 6, 7, 10] | 10 => [8, 9]
  | _ => []

/-- R380: the refills that are complete, once a function has left its reset. -/
def State.fillsEnd (s : State) : State :=
  (List.range 11).foldl (fun s a =>
    if (fillOwners a).isEmpty || (fillOwners a).any s.held then s else s.setB (fMEM_ARR_STATUS_FILL a) false) s

end Sys2Proof.Machine
end

