-- ==== Sys2Proof/Machine/Ciph.lean ====
section
/-!
DEFINITION. CIPH (09_cipher.md): randomness, key slots, contexts, protected units, rollover, and the message engine.
-/

namespace Sys2Proof.Machine

/-! ### Contexts: configuration words and counters (R218, R232) -/

/-- Configuration word `w` of context `c`, and its counter `k`, in `State.regs` (log entry 21). -/
def aCtxCfg (c w : Nat) : Nat := 0x4000000 + 64 * c + 4 * w
def aCtxCnt (c k : Nat) : Nat := 0x8000000 + 64 * c + 8 * k

def fCtxMode (c : Nat) : Fld := ⟨aCtxCfg c 0, 0, 3⟩
def fCtxDir (c : Nat) : Fld := ⟨aCtxCfg c 0, 3, 1⟩
def fCtxBind (c : Nat) : Fld := ⟨aCtxCfg c 0, 4, 2⟩
def fCtxRoll (c : Nat) : Fld := ⟨aCtxCfg c 0, 8, 1⟩
def fCtxLane (c : Nat) : Fld := ⟨aCtxCfg c 1, 0, 3⟩
def fCtxHead (c : Nat) : Fld := ⟨aCtxCfg c 1, 8, 7⟩
def fCtxFlow (c : Nat) : Fld := ⟨aCtxCfg c 1, 16, 8⟩
def fCtxKeyCur (c : Nat) : Fld := ⟨aCtxCfg c 2, 0, 13⟩
def fCtxKeyNext (c : Nat) : Fld := ⟨aCtxCfg c 2, 16, 13⟩

/-- A value of several words, the first most significant. -/
def State.wordsFrom (s : State) (a n : Nat) : Nat := (List.range n).foldl (fun v k => 2 ^ 32 * v + s.nat (a + 4 * k)) 0

/-- Such a value set. -/
def State.setWordsFrom (s : State) (a n v : Nat) : State :=
  (List.range n).foldl (fun s k => s.setNat (a + 4 * k) (v / 2 ^ (32 * (n - 1 - k)))) s

def State.ctxIv (s : State) (c : Nat) : Nat := s.wordsFrom (aCtxCfg c 5) 3
def State.ctxIvNext (s : State) (c : Nat) : Nat := s.wordsFrom (aCtxCfg c 8) 3
def State.ctxAad (s : State) (c : Nat) : List Byte := natBytes 8 (s.wordsFrom (aCtxCfg c 11) 2)
def State.ctxLimit (s : State) (c : Nat) : Nat := s.wide (aCtxCfg c 3)

/-- R220: i of a context, its counter 0. -/
def State.ctxI (s : State) (c : Nat) : Nat := s.wide (aCtxCnt c 0)
def State.setCtxI (s : State) (c i : Nat) : State := s.setWide (aCtxCnt c 0) i

def State.ctx (s : State) (c : Nat) : Ctx := (assocGet s.ciph.ctxs c).getD {}

/-- A context changed; one that is as at reset is not listed. -/
def State.modCtx (s : State) (c : Nat) (f : Ctx → Ctx) : State :=
  let x := f (s.ctx c)
  { s with ciph := { s.ciph with ctxs := if x = {} then assocDel s.ciph.ctxs c else assocPut s.ciph.ctxs c x } }

/-- The contexts not in `IDLE`. -/
def State.liveCtxs (s : State) : List Nat := (s.ciph.ctxs.filter fun p => p.2.state != 0).map (·.1)

/-- CIPH is fitted and runs. -/
def State.ciphUp (s : State) : Bool := s.ciph.fitted && s.up && !s.held 10

/-- R219, R222: a context stops. -/
def State.ctxStop (s : State) (c code : Nat) : State :=
  let x := s.ctx c
  if x.state = 0 || (x.state = 5 && (x.stop = code || x.stop = 3)) then s
  else (s.modCtx c fun x => { x with state := 5, stop := code, open_ := false, part := [] }).raise fCIPH_ALARM_CTX_STOP

/-! ### Randomness (R212, R213) -/

/-- R213: a health test fails. -/
def execEsHealthFail (s : State) : Ans :=
  if s.ciphUp then .next ((s.setB fCIPH_STATUS_ES_OK false).raise fCIPH_ALARM_ES_FAIL) else .next s

/-- DRBG_OK: every instance has reseeded within 1 ms. -/
def State.drbgOk (s : State) : Bool := s.ciph.reseed.all fun t => s.clk ≤ 625000 + t

/-- R212: an instance reseeds; the source is then healthy. -/
def execDrbgReseed (i : Fin 21) (s : State) : Ans :=
  if s.ciphUp then
    let s := { s with ciph := { s.ciph with reseed := setAt s.ciph.reseed i s.clk } }
    .next ((s.setB fCIPH_STATUS_ES_OK true).setB fCIPH_STATUS_DRBG_OK s.drbgOk)
  else .next s

/-! ### Key slots (R214 to R217) -/

/-- R215: the policy flags of a slot: those of the first entry whose range holds it. -/
def State.policy (s : State) (slot : Nat) : Option Nat :=
  ((List.range 32).find? fun e =>
    s.get (fCIPH_KPOL_RANGE_FIRST e) ≤ slot && slot ≤ s.get (fCIPH_KPOL_RANGE_LAST e)).map fun e => s.nat (aCIPH_KPOL_FLAGS e)

/-- R215: a use flag, by its bit. -/
def State.permits (s : State) (slot bit : Nat) : Bool := ((s.policy slot).map fun f => bitOf f bit).getD false

/-- R215: an initiator of INIT may load clear. -/
def State.mayLoad (s : State) (slot init : Nat) : Bool :=
  ((s.policy slot).map fun f => bitOf f 3 && bitOf f (8 + init)).getD false

def State.key (s : State) (slot : Nat) : Option Nat := assocGet s.ciph.keys slot

/-- R216: whether a context names a slot as its next key: a KEY_NEXT other than 0, or any with ROLL (log entry 22). -/
def namesNext (roll : Bool) (next : Nat) : Bool := roll || next != 0

/-- R216: the references that an armed Course brings to a slot by the words of one context: as its KEY_CUR and as its
KEY_NEXT, where the context is bound after the Course and does not name the slot so already. -/
def State.courseNames (s : State) (a : Armed) (slot c : Nat) : Nat :=
  let w := afterCourse a s
  let live := (s.ctx c).state != 0
  if bitsOf (w (aCtxCfg c 0)) 4 2 = 0 then 0
  else
    let cur := fun (k : Nat) => k == slot
    let next := fun (roll : Bool) (k : Nat) => namesNext roll k && k == slot
    b2n (cur (bitsOf (w (aCtxCfg c 2)) 0 13) && !(live && cur (s.get (fCtxKeyCur c))))
      + b2n (next (bitOf (w (aCtxCfg c 0)) 8) (bitsOf (w (aCtxCfg c 2)) 16 13)
          && !(live && next (s.is (fCtxRoll c)) (s.get (fCtxKeyNext c))))

/-- R216: the references of a slot: contexts by KEY_CUR, KEY_NEXT and previous key, and an armed Course that brings it
to a context. -/
def State.keyRefs (s : State) (slot : Nat) : Nat :=
  let own := s.liveCtxs.foldl (fun k c =>
    k + b2n (s.get (fCtxKeyCur c) == slot)
      + b2n (namesNext (s.is (fCtxRoll c)) (s.get (fCtxKeyNext c)) && s.get (fCtxKeyNext c) == slot)
      + b2n ((s.ctx c).prev.any fun p => p.slot == slot)) 0
  match s.crs.armed with
  | none => own
  | some a =>
    let cs := (a.writes.flatMap fun w => w.items.filterMap fun i =>
      if 0x4000000 ≤ i.1 && i.1 < 0x8000000 then some ((i.1 - 0x4000000) / 64) else none).eraseDups
    own + cs.foldl (fun k c => k + s.courseNames a slot c) 0

/-- The code of R233 of a key operation is kept for the slot and for the source. -/
def State.keyResult (s : State) (by_ : Source) (slot code : Nat) : State :=
  let c := { s.ciph with results := assocPut s.ciph.results slot code }
  let c := match by_ with
    | .pcie => c
    | .cop k => { c with sessionResults := assocPut c.sessionResults k code }
  ({ s with ciph := c } : State).answer by_ (if code = 0 then .ok else .ciph code)

/-- R215 to R217: a load of a slot: its code, and the key taken. -/
def State.keyLoad (s : State) (slot key : Nat) (allowed : Bool) : State × Nat :=
  if !allowed then (s.raise fCIPH_ALARM_KEY_REFUSED, 7)
  else if s.keyRefs slot ≠ 0 then (s.raise fCIPH_ALARM_KEY_REFUSED, 8)
  else if s.ciph.zeroing then (s, 10)
  else ({ s with ciph := { s.ciph with keys := assocPut s.ciph.keys slot key } }, 0)

/-- A command of CIPH that stands for a write: nothing on OL2560-NB (R3). -/
def State.ciphWrite (s : State) (by_ : Source) (a : Nat) (act : State → State) : State :=
  s.byWrite by_ a fun s => if s.ciph.fitted then act s else s.answer by_ .objAbsent

/-- The INIT bit of a source (R215). -/
def initOf : Source → Nat
  | .pcie => 0
  | .cop _ => 1

/-- R215, R216: a clear load. -/
def State.loadClear (s : State) (by_ : Source) (slot key : Nat) : State :=
  let p := s.keyLoad slot key (s.mayLoad slot (initOf by_))
  p.1.keyResult by_ slot p.2

/-- R216: a clear key load, with CIPH_KEY_CMD or 0x3200:02. -/
def execKeyLoadClear (by_ : Source) (slot : Fin 8192) (key : BitVec 256) (s : State) : Ans :=
  .next (s.ciphWrite by_ aCIPH_KEY_CMD fun s => s.loadClear by_ slot key.toNat)

/-! ### The message buffer and the descriptors (R228) -/

/-- Bytes of the message buffer. -/
def State.bufBytes (s : State) (ofs n : Nat) : List Byte :=
  (List.range n).map fun i => (s.reg (aCIPH_MSG_BUF ((ofs + i) / 4))).extractLsb' (8 * (3 - (ofs + i) % 4)) 8

/-- Bytes put into the message buffer; a poisoned word that they cover in part keeps its own (R381). -/
def State.bufPut (s : State) (ofs : Nat) (bs : List Byte) : State :=
  let w := s.winTouch 10 ofs bs.length
  bs.zipIdx.foldl (fun s p =>
    if w.2.contains ((ofs + p.2) / 8) then s
    else s.set ⟨aCIPH_MSG_BUF ((ofs + p.2) / 4), 8 * (3 - (ofs + p.2) % 4), 8⟩ p.1.toNat) w.1

def State.jobOp (s : State) (j : Nat) : Nat := s.get (fCIPH_JOB_CTRL_OP j)
def State.jobFinal (s : State) (j : Nat) : Bool := s.is (fCIPH_JOB_CTRL_FINAL j)
def State.jobCtx (s : State) (j : Nat) : Nat := s.nat (aCIPH_JOB_CTX j) % 65536
def State.jobLen (s : State) (j : Nat) : Nat := s.nat (aCIPH_JOB_LEN j)
def State.jobAad (s : State) (j : Nat) : Nat := s.nat (aCIPH_JOB_AAD j) % 65536
def State.jobSrc (s : State) (j : Nat) : Nat := s.nat (aCIPH_JOB_SRC j)
def State.jobDst (s : State) (j : Nat) : Nat := s.nat (aCIPH_JOB_DST j)

/-- The mode of a context: 0 GCM, 1 GMAC, 2 CTR, 3 CBC, 4 CFB128, 5 KW. -/
def State.ctxMode (s : State) (c : Nat) : Nat := s.get (fCtxMode c)

/-- Bytes a job writes to DST when it succeeds (R228, R229). -/
def State.jobOut (s : State) (j : Nat) : Nat :=
  let mode := s.ctxMode (s.jobCtx j)
  let len := s.jobLen j
  match s.jobOp j with
  | 0 =>
    let tag := if s.jobFinal j && mode ≤ 1 then 16 else 0
    if mode = 1 then tag else if mode = 3 && s.jobFinal j then len + 16 - len % 16 else len + tag
  | 1 => if mode = 1 then 0 else len
  | 2 => 40 | 4 => 72 | 6 => 64
  | _ => 0

/-- Bytes a job reads from SRC (R228, R229). -/
def State.jobIn (s : State) (j : Nat) : Nat :=
  match s.jobOp j with
  | 0 => s.jobAad j + s.jobLen j
  | 1 => s.jobAad j + s.jobLen j + if s.jobFinal j && s.ctxMode (s.jobCtx j) ≤ 1 then 16 else 0
  | 3 => 40 | 5 => 72 | 7 => 64
  | _ => 0

/-- R228: a job runs on its context: not a clear save or restore, which needs no key of a context. -/
def State.onCtx (s : State) (j c : Nat) : Bool := s.jobOp j ≤ 5 && s.jobCtx j == c

/-- The contexts of running or suspended jobs. -/
def State.busyCtx (s : State) (c : Nat) : Bool := s.ciph.jobs.any fun p => p.2.phase != 1 && s.onCtx p.1 c

/-- R234: what the session whose last job this is keeps of its end. -/
def CiphState.keepEnd (c : CiphState) (j status len dst : Nat) : CiphState :=
  match (assocGet c.jobs j).map fun (r : JobRun) => (r.owner, r.order) with
  | some (Source.cop k, n) =>
    if (assocGet c.lastJob k).any fun x => x.order == n then
      { c with lastJob := assocPut c.lastJob k { slot := j, order := n, status := status, len := len, dst := dst } }
    else c
  | _ => c

/-- A job ends: PHASE 4 with its output length, or PHASE 5 with a code and no output. -/
def State.jobEnd (s : State) (j code out : Nat) : State :=
  let s := (s.set (fCIPH_JOB_STATUS_PHASE j) (if code = 0 then 4 else 5)).set (fCIPH_JOB_STATUS_CODE j) code
  let s := s.setNat (aCIPH_JOB_OUTLEN j) (if code = 0 then out else 0)
  let c := s.jobCtx j
  let mine := (s.ciph.jobs.any fun p => p.1 == j && p.2.phase == 3) && s.onCtx j c
  let s := { s with ciph := s.ciph.keepEnd j (s.nat (aCIPH_JOB_STATUS j)) (s.nat (aCIPH_JOB_OUTLEN j)) (s.jobDst j) }
  let s := { s with ciph := { s.ciph with jobs := assocDel s.ciph.jobs j } }
  if mine && (s.ctx c).state = 3 then s.modCtx c fun x => { x with state := 2 } else s

/-- R217, R229: the destination of a job is overwritten with zeros. -/
def State.jobWipe (s : State) (j : Nat) : State :=
  match s.jobOp j with
  | 3 => s | 5 => s | 7 => s
  | _ => s.bufPut (s.jobDst j) (List.replicate (s.jobOut j) 0)

/-- The slots a job uses (R217): the key of its context, and the slot it exports or loads. -/
def State.jobUses (s : State) (j : Nat) (p : Nat → Bool) : Bool :=
  (s.jobOp j ≤ 5 && p (s.get (fCtxKeyCur (s.jobCtx j))))
    || (s.jobOp j = 2 && p (s.jobSrc j)) || (s.jobOp j = 3 && p (s.jobDst j))

/-- R217: the keys of the slots that `p` names leave every holder. -/
def State.zeroise (s : State) (p : Nat → Bool) : State :=
  let s := s.ciph.jobs.foldl (fun s x =>
    if x.2.phase != 1 && s.jobUses x.1 p then (s.jobWipe x.1).jobEnd x.1 10 0 else s) s
  let s := { s with ciph := { s.ciph with keys := s.ciph.keys.filter fun k => !p k.1 } }
  s.liveCtxs.foldl (fun s c =>
    let s := if p (s.get (fCtxKeyCur c)) then s.ctxStop c 2 else s
    let s := if namesNext (s.is (fCtxRoll c)) (s.get (fCtxKeyNext c)) && p (s.get (fCtxKeyNext c)) then
        ((s.set (fCtxKeyNext c) 0).set (fCtxRoll c) 0).modCtx c fun x => { x with nextGone := true } else s
    s.modCtx c fun x => { x with prev := x.prev.filter fun k => !p k.slot }) s

/-- R217: zeroise of one slot. -/
def State.zeroiseSlot (s : State) (by_ : Source) (slot : Nat) : State :=
  ((s.zeroise fun k => k == slot).raise fCIPH_ALARM_ZEROISED).keyResult by_ slot 0

def execKeyZeroise (by_ : Source) (slot : Fin 8192) (s : State) : Ans :=
  .next (s.ciphWrite by_ aCIPH_KEY_CMD fun s => s.zeroiseSlot by_ slot)

/-- R217: ZERO_ALL: every key leaves use; the stored contents are then cleared. -/
def State.zeroAll (s : State) : State :=
  let s := s.zeroise fun _ => true
  { s with ciph := { s.ciph with zeroing := true } }

def execZeroAll (by_ : Source) (s : State) : Ans :=
  .next (s.ciphWrite by_ aCIPH_CTRL fun s => s.zeroAll.answer by_ .ok)

/-- R217: the clearing completes. -/
def execZeroAllClearDone (s : State) : Ans :=
  if s.ciph.zeroing then
    .next (({ s with ciph := { s.ciph with zeroing := false, keys := [] } } : State).raise fCIPH_ALARM_ZEROISED)
  else .next s

/-- R213: no instance has reseeded for 100 ms. -/
def execRngFailTimeout (s : State) : Ans :=
  if s.ciphUp && !s.is fCIPH_STATUS_RNG_FAIL then
    let s := s.waitClk (62500000 + s.ciph.reseed.foldl max 0)
    let s := (s.setB fCIPH_STATUS_RNG_FAIL true).raise fCIPH_ALARM_RNG_FAIL
    let stops := s.liveCtxs.filter fun c => (s.ctx c).state = 2 || (s.ctx c).state = 3
    let s := s.ciph.jobs.foldl (fun s x =>
      if x.2.phase != 1 && stops.any (s.onCtx x.1) then s.jobEnd x.1 11 0 else s) s
    .next (stops.foldl (fun s c => s.ctxStop c 3) s)
  else .next s

/-! ### IV loads (R221) -/

/-- The value R221 compares: IV with i, or a chaining value. -/
def ivValue (chained : Bool) (iv i : Nat) : Nat := if chained then iv * 2 + 1 else (2 ^ 64 * iv + i) * 2

/-- A mode whose IV is a chaining value. -/
def chainMode (mode : Nat) : Bool := mode == 3 || mode == 4

/-- The IV of a context loaded: i returns to 0, an unfinished message is dropped. -/
def State.loadIv (s : State) (c : Nat) (iv i : Nat) : State :=
  let ch := chainMode (s.ctxMode c)
  let s := if ch then s else (s.setWordsFrom (aCtxCfg c 5) 3 iv).setCtxI c i
  s.modCtx c fun x =>
    { x with
             lastLoad := some (ivValue ch iv i), chain := if ch then iv else 0, ghash := 0, bytes := 0, aad := 0,
             part := [], open_ := false }

/-- R219, R221: a direct IV load into an MSG context. -/
def State.directIv (s : State) (c iv : Nat) : State × Code :=
  let x := s.ctx c
  let ch := chainMode (s.ctxMode c)
  let v := if ch then iv else iv / 2 ^ 32
  if x.state = 0 || s.get (fCtxBind c) ≠ 1 || s.busyCtx c then (s, .ciph 12)
  else if x.lastLoad = some (ivValue ch v 0) then (s.raise fCIPH_ALARM_IV_REPEAT, .ciph 5)
  else
    let s := s.loadIv c v 0
    (s.modCtx c fun x => { x with state := if x.state = 4 then 1 else x.state }, .ok)

def execCtxIvLoad (by_ : Source) (c : BitVec 16) (iv : BitVec 128) (s : State) : Ans :=
  .next (s.ciphWrite by_ (aCIPH_CTX_IV 3) fun s => let p := s.directIv c.toNat iv.toNat; p.1.answer by_ p.2)

/-! ### Protected units (R222 to R224) -/

/-- The context bound to a group of lane `n` in a direction (0 encrypt, 1 decrypt). -/
def State.ctxOf (s : State) (n : Nat) (g : Mapped) (dir : Nat) : Option Nat :=
  s.liveCtxs.find? fun c =>
    s.get (fCtxDir c) == dir &&
    ((s.get (fCtxBind c) == 2 && s.get (fCtxLane c) == n && s.get (fCtxHead c) == g.head)
      || (s.get (fCtxBind c) == 3 && s.get (fCtxFlow c) == g.flow))

/-- R460: a group or flow is blocked in a direction. -/
def State.isBlocked (s : State) (n : Nat) (g : Mapped) (dir : Nat) : Bool :=
  s.ciph.blocked.contains (false, 128 * n + g.head, dir) || s.ciph.blocked.contains (true, g.flow, dir)

/-- R223: the group's last data word is a tag word. -/
def State.isProtected (s : State) (n : Nat) (g : Mapped) (dir : Nat) : Bool :=
  s.isBlocked n g dir || (s.ctxOf n g dir).isSome

/-- A context counter (1 UNITS, 2 OCTETS, 3 AUTH_FAIL, 4 ERR_UNITS) advances. -/
def State.ctxCount (s : State) (c k n : Nat) : State := s.addCnt (aCtxCnt c k) n

/-- R223: the tag word. -/
def tagWord (epoch : Bool) (i tag : Nat) : Nat := b2n epoch * 2 ^ 127 + i % 2 ^ 31 * 2 ^ 96 + tag % 2 ^ 96

/-- R220, R223: the sent words and the 96-bit tag of an invocation. -/
def sealUnit (mode key iv i : Nat) (aad : List Byte) (words : List Nat) : List Nat × Nat :=
  let aad := natBytes 8 i ++ aad
  let v := (iv + i) % 2 ^ 96
  match mode with
  | 0 => let ct := ctrBlocks key v 2 words; (ct, gcmTag key v aad ct / 2 ^ 32)
  | 1 => (words, gcmTag key v (aad ++ words.flatMap (natBytes 16)) [] / 2 ^ 32)
  | _ => (ctrBlocks key v 0 words, 0)

/-- R222: the unit of a stopped or blocked context: zero words, and the EPOCH and SEQ of the last invocation; before any,
a free value (log entry 22). -/
def State.stoppedUnit (s : State) (last : Option (Bool × Nat)) (words : List Nat) : State × List Nat :=
  let zeros := words.map fun _ => 0
  match last with
  | some (e, i) => (s, zeros ++ [tagWord e i 0])
  | none => (s.takeFree, zeros ++ [tagWord (bitOf (s.freeBits 32) 31) (s.freeBits 31) 0])

/-- R222, R460: EPOCH and SEQ of the last invocation for a group: those of its context, or of that before the reset. -/
def State.lastSent (s : State) (n : Nat) (g : Mapped) : Option (Bool × Nat) :=
  match s.ctxOf n g 0 with
  | some c => (s.ctx c).sent
  | none =>
    (s.ciph.blockSent.find? fun b => b.1 == (false, 128 * n + g.head, 0) || b.1 == (true, g.flow, 0)).map (·.2)

/-- R222, R223: the words of a protected group in one LF: the D − 1 words and the tag word. -/
def State.encUnit (s : State) (n : Nat) (g : Mapped) (words : List Nat) : State × List Nat :=
  let last := s.lastSent n g
  match s.ctxOf n g 0 with
  | none => s.stoppedUnit last words
  | some c =>
    let i := s.ctxI c
    let e := (s.ctx c).epoch
    match s.key (s.get (fCtxKeyCur c)) with
    | none => (s.ctxStop c 2).stoppedUnit last words
    | some key =>
      if s.isBlocked n g 0 || (s.ctx c).state ≠ 2 then s.stoppedUnit last words
      else if s.ctxLimit c ≤ i then (s.ctxStop c 1).stoppedUnit last words
      else
        let p := sealUnit (s.ctxMode c) key (s.ctxIv c) i (s.ctxAad c) words
        let s := (s.setCtxI c (i + 1)).modCtx c fun x => { x with sent := some (e, i) }
        ((s.ctxCount c 1 1).ctxCount c 2 (16 * words.length), p.1 ++ [tagWord e i p.2])

/-- R224: i of a received unit: congruent to SEQ, nearest to the expected, the larger on a tie. -/
def nearestI (seq want : Nat) : Nat :=
  let mid := want / 2 ^ 31 * 2 ^ 31 + seq
  let up := mid + 2 ^ 31
  let down := mid - 2 ^ 31
  if mid ≤ want then (if up - want ≤ want - mid then up else mid)
  else if 2 ^ 31 ≤ mid && want - down < mid - want then down
  else mid

/-- R224, R226: the key slot, IV_BASE and last authenticated unit for a received EPOCH: those in force, those of a
rollover armed and not applied on the lane yet, or the previous ones. -/
def State.unitKey (s : State) (n c : Nat) (epoch : Bool) : Option (Nat × Nat × Option (Nat × Nat) × Nat) :=
  let x := s.ctx c
  if epoch = x.epoch then some (s.get (fCtxKeyCur c), s.ctxIv c, x.lastAuth, 0)
  else
    let next := match s.crs.armed with
      | some a =>
        if a.rxWaits n && bitOf (afterCourse a s (aCtxCfg c 0)) 8 then
          let w := afterCourse a s
          some (bitsOf (w (aCtxCfg c 2)) 16 13,
            2 ^ 32 * (2 ^ 32 * w (aCtxCfg c 8) + w (aCtxCfg c 9)) + w (aCtxCfg c 10), x.nextAuth, 1)
        else none
      | none => none
    match next, x.prev with
    | some k, _ => some k
    | none, some p => some (p.slot, p.iv, p.last, 2)
    | none, none => none

/-- R224: the last authenticated unit is kept for its epoch: 0 in force, 1 to come, 2 previous. -/
def Ctx.authed (x : Ctx) (which : Nat) (v : Nat × Nat) : Ctx :=
  match which with
  | 0 => { x with lastAuth := some v }
  | 1 => { x with nextAuth := some v }
  | _ => { x with prev := x.prev.map fun p => { p with last := some v } }

/-- R224: the outcome of a received unit of a protected group: the D − 1 words and whether they are errored.  `period`
is the receive LF period in fs, `errored` whether the FEC marked the words. -/
def State.decUnit (s : State) (n : Nat) (g : Mapped) (words : List Nat) (errored : Bool) (period : Nat) :
    State × List Nat × Bool :=
  let body := words.dropLast
  let t := words.getLastD 0
  let none' := body.map fun _ => 0
  match s.ctxOf n g 1 with
  | none => (s, none', true)
  | some c =>
    let x := s.ctx c
    if x.state ≠ 2 || s.isBlocked n g 1 then (s.ctxCount c 3 1, none', true)
    else
      let found := match s.unitKey n c (bitOf t 127) with
        | none => none
        | some (slot, iv, last, which) =>
          match s.key slot with
          | none => none
          | some key =>
            let want := match last with
              | none => 0
              | some (i, at_) => i + roundDiv (1000000 * (s.tb0 - at_)) (max 1 period)
            let i := nearestI (bitsOf t 96 31) want
            let aad := natBytes 8 i ++ s.ctxAad c
            let v := (iv + i) % 2 ^ 96
            let tag := match s.ctxMode c with
              | 0 => gcmTag key v aad body / 2 ^ 32
              | 1 => gcmTag key v (aad ++ body.flatMap (natBytes 16)) [] / 2 ^ 32
              | _ => 0
            some (i, tag, (sealUnit (if s.ctxMode c = 0 then 0 else s.ctxMode c) key iv i (s.ctxAad c) body).1, which)
      match found with
      | some (i, tag, clear, which) =>
        if which = 0 && s.ctxLimit c ≤ i then ((s.ctxStop c 1).ctxCount c 3 1, none', true)
        else if tag = t % 2 ^ 96 then
          let s := s.modCtx c fun x => x.authed which (i, s.tb0)
          let s := if which = 0 then s.setCtxI c (i + 1) else s
          ((s.ctxCount c 1 1).ctxCount c 2 (16 * body.length), clear, errored)
        else if errored then (s.ctxCount c 4 1, none', true)
        else ((s.ctxCount c 3 1).raise fCIPH_ALARM_AUTH_FAIL, none', true)
      | none => ((s.ctxCount c 3 1).raise fCIPH_ALARM_AUTH_FAIL, none', true)

/-! ### Courses (R219, R226, R227) -/

/-- R227: the jobs of a context end with `CTX_BUSY`. -/
def State.ctxJobsEnd (s : State) (c : Nat) : State :=
  s.ciph.jobs.foldl (fun s x => if s.onCtx x.1 c then s.jobEnd x.1 12 0 else s) s

/-- R219: a context leaves `IDLE` or `STOPPED` with the IV its words give: `READY`, and `ACTIVE` where it is bound to a
group or flow; `STOPPED` where its key's slot is empty (R217). -/
def State.ctxStart (s : State) (c : Nat) : State :=
  let iv := s.ctxIv c
  let s := s.loadIv c (if chainMode (s.ctxMode c) then 2 ^ 32 * iv else iv) 0
  let bound := 2 ≤ s.get (fCtxBind c)
  let s := s.modCtx c fun x => { x with state := if bound then 2 else 1, stop := 0, lastAuth := none }
  if (s.key (s.get (fCtxKeyCur c))).isNone then s.ctxStop c 2 else s

/-- R219: a context that was `ACTIVE`, `SUSPENDED` or `NEED_IV` stays so over a new IV that a Course brings. -/
def State.ctxStays (s : State) (c st : Nat) : State :=
  s.modCtx c fun x => { x with state := if 2 ≤ st && st ≤ 4 && x.state != 5 then st else x.state }

/-- R217, R226: the rollover of a context; one whose next key has been zeroised stops. -/
def State.rollover (s : State) (c : Nat) : State :=
  let old := s.get (fCtxKeyCur c)
  let oldIv := s.ctxIv c
  let x := s.ctx c
  let s := s.set (fCtxKeyCur c) (s.get (fCtxKeyNext c))
  let s := s.setWordsFrom (aCtxCfg c 5) 3 (s.ctxIvNext c)
  let s := (s.set (fCtxKeyNext c) 0).set (fCtxRoll c) 0
  let s := (s.ctxStart c).ctxStays c x.state
  let s := if x.nextGone then s.ctxStop c 2 else s
  s.modCtx c fun y =>
    { y with
      epoch := !x.epoch, lastAuth := x.nextAuth, nextAuth := none, nextGone := false
      prev := if s.is (fCtxDir c) then some ⟨old, oldIv, x.lastAuth, 6250000 + s.clk⟩ else none }

/-- The group or flow that a context is bound to, as `blocked` names it. -/
def State.boundTo (s : State) (c : Nat) : Bool × Nat × Nat :=
  if s.get (fCtxBind c) = 2 then (false, 128 * s.get (fCtxLane c) + s.get (fCtxHead c), s.get (fCtxDir c))
  else (true, s.get (fCtxFlow c), s.get (fCtxDir c))

/-- R460: a Course that binds a context ends the block of its group or flow. -/
def State.unblockFor (s : State) (c : Nat) : State :=
  let k := s.boundTo c
  { s with ciph := { s.ciph with
      blocked := s.ciph.blocked.filter fun b => b != k, blockSent := s.ciph.blockSent.filter fun b => b.1 != k } }

/-- R219: what the binding makes of a context that a Course binds anew. -/
def State.ctxRebound (s before : State) (c : Nat) : State :=
  let bind := s.get (fCtxBind c)
  if bind = before.get (fCtxBind c) then s
  else s.modCtx c fun x => { x with state := if x.state = 5 then 5 else if 2 ≤ bind then 2 else 1 }

/-- R219, R226: the words of a context that a Course has just set act; `before` is the state before them, `iv` whether
IV_BASE was among them, `key` whether KEY_CUR and KEY_NEXT were. -/
def State.ctxCourse (s before : State) (c : Nat) (iv key : Bool) : State :=
  let s := if key then s.modCtx c fun x => { x with nextGone := false } else s
  let bind := s.get (fCtxBind c)
  let st := (s.ctx c).state
  let s := if bind ≠ before.get (fCtxBind c) || s.ctxMode c ≠ before.ctxMode c then s.ctxJobsEnd c else s
  let s := if 2 ≤ bind then s.unblockFor c else s
  let keyNew := s.get (fCtxKeyCur c) ≠ before.get (fCtxKeyCur c) || (s.key (s.get (fCtxKeyCur c))).isSome
  if bind = 0 then
    (s.modCtx c fun x => { lastLoad := x.lastLoad, sent := x.sent }).setCtxI c 0
  else if st = 0 then
    let t := s.modCtx c fun x => { lastLoad := x.lastLoad, epoch := x.epoch, sent := x.sent, nextGone := x.nextGone }
    if s.is (fCtxRoll c) then t.rollover c else t.ctxStart c
  else if st = 5 && (s.ctx c).stop = 3 then s
  else if s.is (fCtxRoll c) then (s.rollover c).ctxRebound before c
  else if st = 5 then (if iv && ((s.ctx c).stop ≠ 2 || keyNew) then s.ctxStart c else s)
  else if iv then
    let b := s.ctxIv c
    (s.loadIv c (if chainMode (s.ctxMode c) then 2 ^ 32 * b else b) 0).ctxRebound before c
  else s.ctxRebound before c

/-- R226: 10 ms after a decrypting rollover the previous key is released. -/
def execPrevKeyRelease (c : BitVec 16) (s : State) : Ans :=
  match (s.ctx c.toNat).prev with
  | none => .next s
  | some p => .next ((s.waitClk p.release).modCtx c.toNat fun x => { x with prev := none })

/-! ### The message engine (R228 to R231) -/

/-- AES blocks of a job: those of its data, or of its key wrap (R228). -/
def State.jobBlocks (s : State) (j : Nat) : Nat :=
  match s.jobOp j with
  | 0 => if s.ctxMode (s.jobCtx j) = 3 && s.jobFinal j then s.jobLen j / 16 + 1 else divUp (s.jobLen j) 16
  | 1 => divUp (s.jobLen j) 16
  | 2 => 24 | 3 => 24 | 4 => 48 | 5 => 48
  | _ => 0

/-- R217, R228, R435: a job queued in a descriptor. -/
def State.queueJob (s : State) (by_ : Source) (j : Nat) : State :=
  let s := s.setB (fCIPH_JOB_CTRL_START j) false
  if (s.ciph.jobs.any fun p => p.1 == j) then s.answer by_ .resBusy
  else
    let r : JobRun := { owner := by_, order := s.ciph.jobOrder, phase := 1, blocks := s.jobBlocks j }
    let last := match by_ with
      | .pcie => s.ciph.lastJob
      | .cop k => assocPut s.ciph.lastJob k { slot := j, order := r.order }
    let s := { s with ciph := { s.ciph with
        jobs := assocPut s.ciph.jobs j r, jobOrder := s.ciph.jobOrder + 1, lastJob := last } }
    if s.is fCIPH_STATUS_RNG_FAIL then (s.jobEnd j 11 0).answer by_ (.ciph 11)
    else if s.safe 10 then (s.jobEnd j 10 0).answer by_ (.ciph 10)
    else (((s.set (fCIPH_JOB_STATUS_PHASE j) 1).set (fCIPH_JOB_STATUS_CODE j) 0).setNat (aCIPH_JOB_OUTLEN j) 0).answer by_ .ok

/-- The words of a descriptor. -/
def State.putJob (s : State) (j op : Nat) (d : JobDesc) : State :=
  let s := s.setNat (aCIPH_JOB_CTRL j) (op + 16 * d.prio.val + 256 * b2n d.final)
  let s := (s.setNat (aCIPH_JOB_CTX j) d.ctx.toNat).setNat (aCIPH_JOB_LEN j) d.len
  ((s.setNat (aCIPH_JOB_AAD j) d.aad.toNat).setNat (aCIPH_JOB_SRC j) d.src).setNat (aCIPH_JOB_DST j) d.dst

/-- A job submitted: PCIe in descriptor `j`, COP in the lowest free one with its data placed at SRC (R234), as far as the
buffer reaches (log entry 80). -/
def State.submit (s : State) (by_ : Source) (j op : Nat) (d : JobDesc) : State :=
  s.ciphWrite by_ (aCIPH_JOB_CTRL j) fun s =>
    match by_ with
    | .pcie => if (s.ciph.jobs.any fun p => p.1 == j) then s else (s.putJob j op d).queueJob by_ j
    | .cop _ =>
      match (List.range 16).find? fun k => !(s.ciph.jobs.any fun p => p.1 == k) with
      | none => s.answer by_ .resBusy
      | some k => ((s.putJob k op d).bufPut d.src (d.data.take (262144 - d.src))).queueJob by_ k

def execJobEnc (by_ : Source) (j : Fin 16) (d : JobDesc) (s : State) : Ans := .next (s.submit by_ j 0 d)
def execJobDec (by_ : Source) (j : Fin 16) (d : JobDesc) (s : State) : Ans := .next (s.submit by_ j 1 d)
def execJobWrapKey (by_ : Source) (j : Fin 16) (d : JobDesc) (s : State) : Ans := .next (s.submit by_ j 2 d)
def execJobUnwrapKey (by_ : Source) (j : Fin 16) (d : JobDesc) (s : State) : Ans := .next (s.submit by_ j 3 d)
def execJobWrapCtx (by_ : Source) (j : Fin 16) (d : JobDesc) (s : State) : Ans := .next (s.submit by_ j 4 d)
def execJobUnwrapCtx (by_ : Source) (j : Fin 16) (d : JobDesc) (s : State) : Ans := .next (s.submit by_ j 5 d)
def execJobSaveClear (by_ : Source) (j : Fin 16) (d : JobDesc) (s : State) : Ans := .next (s.submit by_ j 6 d)
def execJobRestoreClear (by_ : Source) (j : Fin 16) (d : JobDesc) (s : State) : Ans := .next (s.submit by_ j 7 d)

/-- GHASH of a context carried on over bytes; those short of a block wait in `part`. -/
def Ctx.absorb (x : Ctx) (h : Nat) (bs : List Byte) : Ctx :=
  let all := x.part ++ bs
  let whole := all.length / 16 * 16
  { x with ghash := ghashBlocks h x.ghash (blocksOf (all.take whole)), part := all.drop whole }

/-- The bytes that wait enter GHASH as a block filled with zeros. -/
def Ctx.flush (x : Ctx) (h : Nat) : Ctx := { x with ghash := ghashBlocks h x.ghash (blocksOf x.part), part := [] }

/-- R215, R219, R220, R229: why a job cannot start, if so: its code, and the stop code its context takes. -/
def State.jobRefusal (s : State) (j : Nat) : Option (Nat × Nat) :=
  let op := s.jobOp j
  let c := s.jobCtx j
  let x := s.ctx c
  let mode := s.ctxMode c
  let key := s.get (fCtxKeyCur c)
  let fits := fun (ofs n : Nat) => ofs + n ≤ 262144
  let stopped := if x.state = 5 then some (if x.stop = 1 then 4 else if x.stop = 2 then 10 else 11) else none
  if op ≤ 1 then
    if mode = 5 || x.state = 0 || s.get (fCtxBind c) ≠ 1 then some (3, 0)
    else match stopped with
    | some k => some (k, 0)
    | none =>
      if x.state = 4 then some (6, 0)
      else if (!s.jobFinal j && s.jobLen j % 16 ≠ 0) || (x.open_ && s.jobAad j ≠ 0)
          || (op = 1 && s.jobFinal j && mode = 3 && s.jobLen j % 16 ≠ 0)
          || !fits (s.jobSrc j) (s.jobAad j + s.jobLen j + (if op = 1 && s.jobFinal j && mode ≤ 1 then 16 else 0))
          || !fits (s.jobDst j) (s.jobOut j) then some (3, 0)
      else if (s.key key).isNone then some (10, 2)
      else if !s.permits key 1 then some (7, 0)
      else if mode ≤ 2 && ((!x.open_ && s.ctxLimit c ≤ s.ctxI c) || 16 * (2 ^ 32 - 2) < (if x.open_ then x.bytes else 0) + s.jobLen j) then some (4, 1)
      else none
  else if op ≤ 5 then
    if mode ≠ 5 || x.state = 0 || s.get (fCtxBind c) ≠ 1 then some (3, 0)
    else match stopped with
    | some k => some (k, 0)
    | none =>
      if (s.key key).isNone then some (10, 2)
      else if !s.permits key 2 then some (7, 0)
      else if op = 2 && (8192 ≤ s.jobSrc j || !fits (s.jobDst j) 40) then some (3, 0)
      else if op = 2 && !s.permits (s.jobSrc j) 5 then some (7, 0)
      else if op = 2 && (s.key (s.jobSrc j)).isNone then some (10, 0)
      else if op = 3 && (8192 ≤ s.jobDst j || !fits (s.jobSrc j) 40) then some (3, 0)
      else if op = 4 && (65536 ≤ s.jobSrc j || !fits (s.jobDst j) 72) then some (3, 0)
      else if op = 5 && (65536 ≤ s.jobDst j || !fits (s.jobSrc j) 72) then some (3, 0)
      else none
  else
    let target := if op = 6 then s.jobSrc j else s.jobDst j
    if 65536 ≤ target || !fits (if op = 6 then s.jobDst j else s.jobSrc j) 64 then some (3, 0)
    else if !s.permits (s.get (fCtxKeyCur target)) 6 then some (7, 0)
    else none

/-- The first segment of a message: the counter block, and the AAD into GHASH. -/
def State.openMsg (s : State) (j : Nat) : State :=
  let c := s.jobCtx j
  let mode := s.ctxMode c
  let iv := (s.ctxIv c + s.ctxI c) % 2 ^ 96
  let key := (s.key (s.get (fCtxKeyCur c))).getD 0
  if (s.ctx c).open_ then s
  else
    let aad := s.bufBytes (s.jobSrc j) (s.jobAad j)
    s.modCtx c fun x =>
      let x := { x with open_ := true, bytes := 0, aad := aad.length, ghash := 0, part := [] }
      if mode ≤ 1 then
        let h := aesEnc key 0
        let x := { x with chain := ivBlock iv 2 }.absorb h aad
        if mode = 0 then x.flush h else x
      else if mode = 2 then { x with chain := ivBlock iv 0 }
      else x

/-- One block of data through a mode: the output, and the context after. -/
def Ctx.cryptBlock (x : Ctx) (mode : Nat) (dec : Bool) (key h : Nat) (bs : List Byte) : List Byte × Ctx :=
  let b := fieldBytes bs 0 16
  let n := bs.length
  let cut := fun (v : Nat) => (natBytes 16 v).take n
  let x := { x with bytes := x.bytes + n }
  match mode with
  | 0 =>
    let out := cut (Nat.xor b (aesEnc key x.chain))
    (out, { x with chain := x.chain + 1 }.absorb h (if dec then bs else out))
  | 1 => ([], x.absorb h bs)
  | 2 => (cut (Nat.xor b (aesEnc key x.chain)), { x with chain := x.chain + 1 })
  | 3 =>
    if dec then (natBytes 16 (Nat.xor (aesDec key b) x.chain), { x with chain := b })
    else let c := aesEnc key (Nat.xor b x.chain); (natBytes 16 c, { x with chain := c })
  | _ =>
    let o := cut (Nat.xor b (aesEnc key x.chain))
    (o, { x with chain := fieldBytes (if dec then bs else o) 0 16 })

/-- R229: the bytes of block `k` of a segment; the last CBC block of a FINAL segment carries its padding. -/
def State.jobBlock (s : State) (j k : Nat) : List Byte :=
  let len := s.jobLen j
  let bs := s.bufBytes (s.jobSrc j + s.jobAad j + 16 * k) (min 16 (len - 16 * k))
  if s.jobOp j = 0 && s.ctxMode (s.jobCtx j) = 3 && s.jobFinal j then
    bs ++ List.replicate (16 - bs.length) (BitVec.ofNat 8 (16 - bs.length))
  else bs

/-- Blocks `k` to `k + m - 1` of an ENC or DEC job. -/
def State.jobRun (s : State) (j : Nat) (key h : Nat) : Nat → Nat → State
  | 0, _ => s
  | m + 1, k =>
    let c := s.jobCtx j
    let p := (s.ctx c).cryptBlock (s.ctxMode c) (s.jobOp j == 1) key h (s.jobBlock j k)
    State.jobRun ((s.modCtx c fun _ => p.2).bufPut (s.jobDst j + 16 * k) p.1) j key h m (k + 1)

/-- A job carried on to block `upTo`. -/
def State.jobTo (s : State) (j upTo : Nat) : State :=
  match assocGet s.ciph.jobs j with
  | none => s
  | some r =>
    let key := (s.key (s.get (fCtxKeyCur (s.jobCtx j)))).getD 0
    let s := if s.jobOp j ≤ 1 then s.jobRun j key (aesEnc key 0) (upTo - r.done) r.done else s
    { s with ciph := { s.ciph with jobs := assocPut s.ciph.jobs j { r with done := max r.done upTo } } }

/-- R230: the order of two jobs: priority, then submission. -/
def State.jobBefore (s : State) (a b : Nat × JobRun) : Bool :=
  let pa := s.get (fCIPH_JOB_CTRL_PRIO a.1)
  let pb := s.get (fCIPH_JOB_CTRL_PRIO b.1)
  pa < pb || (pa == pb && a.2.order < b.2.order)

/-- The job first in the order, of a list. -/
def State.firstJob (s : State) (l : List (Nat × JobRun)) : Option (Nat × JobRun) :=
  l.foldl (fun best x => match best with
    | none => some x
    | some y => if s.jobBefore x y then some x else some y) none

/-- The job that starts or resumes next: queued or suspended, none before it, and no other job under way on its
context (log entry 22). -/
def State.nextJob (s : State) : Option (Nat × JobRun) :=
  s.firstJob (s.ciph.jobs.filter fun p =>
    p.2.phase == 3 || (p.2.phase == 1 && !(s.jobOp p.1 ≤ 1 && s.busyCtx (s.jobCtx p.1))))

def State.running (s : State) : List (Nat × JobRun) := s.ciph.jobs.filter fun p => p.2.phase == 2

/-- R230: the running job of the lowest priority, the latest submitted of equals. -/
def State.weakestJob (s : State) : Option (Nat × JobRun) :=
  s.running.foldl (fun best x => match best with
    | none => some x
    | some y => if s.jobBefore y x then some x else some y) none

def State.setJob (s : State) (j : Nat) (r : JobRun) : State :=
  ({ s with ciph := { s.ciph with jobs := assocPut s.ciph.jobs j r } } : State).set (fCIPH_JOB_STATUS_PHASE j) r.phase

/-- R227: the running jobs of a context carried on to their last block boundary. -/
def State.jobsTo (s : State) (c : Nat) : State :=
  s.running.foldl (fun s x =>
    if !s.onCtx x.1 c then s
    else
      let k := min x.2.blocks (x.2.done + (s.clk - x.2.at_) / 25)
      let s := s.jobTo x.1 k
      let r := { (assocGet s.ciph.jobs x.1).getD x.2 with at_ := x.2.at_ + 25 * (k - x.2.done) }
      { s with ciph := { s.ciph with jobs := assocPut s.ciph.jobs x.1 r } }) s

/-- R230: a running job is suspended at its next block boundary; a block takes 25 PLU cycles (40 ns). -/
def State.suspend (s : State) (j : Nat) (r : JobRun) : State :=
  let k := min r.blocks (r.done + divUp (s.clk - r.at_) 25)
  let s := s.waitClk (r.at_ + 25 * (k - r.done))
  let s := s.jobTo j k
  let s := s.setJob j { (assocGet s.ciph.jobs j).getD r with phase := 3 }
  if s.onCtx j (s.jobCtx j) then s.modCtx (s.jobCtx j) fun x => { x with state := 3 } else s

/-- R230: a core for a job of priority `p`: a free one, or that of a running job of lower priority. -/
def State.takeCore (s : State) (x : Nat × JobRun) : Option State :=
  if s.running.length < 2 then some s
  else match s.weakestJob with
  | none => none
  | some w =>
    if s.get (fCIPH_JOB_CTRL_PRIO x.1) < s.get (fCIPH_JOB_CTRL_PRIO w.1) then some (s.suspend w.1 w.2) else none

/-- R230: a queued job starts on a core; one that cannot start ends with its code. -/
def State.startJob (s : State) (j : Nat) (r : JobRun) : State :=
  match s.jobRefusal j with
  | some (code, stop) =>
    let s := if stop = 0 then s else s.ctxStop (s.jobCtx j) stop
    s.jobEnd j code 0
  | none =>
    let s := if s.onCtx j (s.jobCtx j) then s.modCtx (s.jobCtx j) fun x => { x with state := 2 } else s
    let s := if s.jobOp j ≤ 1 then s.openMsg j else s
    s.setJob j { r with phase := 2, at_ := s.clk, done := 0, blocks := s.jobBlocks j }

/-- R230: JOB_START. -/
def execJobStart (s : State) : Ans :=
  match s.nextJob with
  | none => .next s
  | some x =>
    if x.2.phase ≠ 1 || !s.ciphUp then .next s
    else match s.takeCore x with
    | none => .next s
    | some t => .next (t.startJob x.1 x.2)

/-- R230: JOB_RESUME. -/
def execJobResume (s : State) : Ans :=
  match s.nextJob with
  | none => .next s
  | some x =>
    if x.2.phase ≠ 3 || !s.ciphUp then .next s
    else match s.takeCore x with
    | none => .next s
    | some t =>
      let t := t.setJob x.1 { x.2 with phase := 2, at_ := t.clk }
      .next (if t.onCtx x.1 (t.jobCtx x.1) then t.modCtx (t.jobCtx x.1) fun y => { y with state := 2 } else t)

/-- R231: the image of a context. -/
def State.ctxImage (s : State) (c : Nat) : List Byte :=
  let x := s.ctx c
  let b := natBytes 2 c ++ natBytes 1 (s.ctxMode c * 16 + s.get (fCtxDir c) * 8) ++ natBytes 1 x.state
    ++ natBytes 8 (s.ctxI c) ++ natBytes 12 (s.ctxIv c) ++ natBytes 16 x.chain
    ++ natBytes 16 (if x.open_ && s.ctxMode c ≤ 1 then x.ghash else 0) ++ natBytes 4 (if x.open_ then x.bytes else 0)
  b ++ natBytes 4 (crc32 b)

/-- R221, R231: a restore of an image into a context: its code. -/
def State.restore (s : State) (c : Nat) (img : List Byte) : State × Nat :=
  let x := s.ctx c
  let mode := fieldBytes img 2 1 / 16
  let ch := chainMode mode
  let i := fieldBytes img 4 8
  let iv := fieldBytes img 12 12
  let chain := fieldBytes img 24 16
  let v := ivValue ch (if ch then chain else iv) i
  if mode ≠ s.ctxMode c || !(x.state = 1 || x.state = 4 || (x.state = 5 && x.stop = 1)) then (s, 12)
  else if x.lastLoad = some v then (s.raise fCIPH_ALARM_IV_REPEAT, 5)
  else
    let s := (s.setWordsFrom (aCtxCfg c 5) 3 iv).setCtxI c i
    (s.modCtx c fun x =>
      { x with
        state := 1, stop := 0, lastLoad := some v, chain := chain, ghash := fieldBytes img 40 16
        bytes := fieldBytes img 56 4, part := [], open_ := fieldBytes img 56 4 != 0 }, 0)

/-- R229: the padding of a decrypted CBC message is good. -/
def padOk (bs : List Byte) : Bool :=
  let n := (bs.getLastD 0).toNat
  bs.length != 0 && 1 ≤ n && n ≤ 16 && n ≤ bs.length && (bs.drop (bs.length - n)).all fun b => b.toNat == n

/-- R229: the FINAL segment completes its message: the state, its code, and the output length. -/
def State.closeMsg (s : State) (j : Nat) : State × Nat × Nat :=
  let c := s.jobCtx j
  let mode := s.ctxMode c
  let dec := s.jobOp j == 1
  let key := (s.key (s.get (fCtxKeyCur c))).getD 0
  let h := aesEnc key 0
  let x := s.ctx c
  let out := s.jobOut j
  let data := if mode = 1 then 0 else s.jobLen j
  let close := fun (s : State) =>
    let s := s.modCtx c fun x => { x with open_ := false, bytes := 0, state := if chainMode mode then 4 else 2 }
    let s := if chainMode mode then s else s.setCtxI c (s.ctxI c + 1)
    (s.ctxCount c 1 1).ctxCount c 2 x.bytes
  if mode ≤ 1 then
    let y := x.flush h
    let lens := if mode = 0 then ghashLens x.aad x.bytes else ghashLens (x.aad + x.bytes) 0
    let iv := (s.ctxIv c + s.ctxI c) % 2 ^ 96
    let tag := Nat.xor (ghashMul (Nat.xor y.ghash lens) h) (aesEnc key (ivBlock iv 1))
    if !dec then ((close s).bufPut (s.jobDst j + data) (natBytes 16 tag), 0, out)
    else if s.bufBytes (s.jobSrc j + s.jobAad j + s.jobLen j) 16 = natBytes 16 tag then (close s, 0, out)
    else
      let t := s.modCtx c fun x => { x with open_ := false, bytes := 0 }
      (((t.setCtxI c (t.ctxI c + 1)).ctxCount c 3 1).raise fCIPH_ALARM_AUTH_FAIL, 1, 0)
  else if mode = 3 && dec then
    let bs := s.bufBytes (s.jobDst j) (s.jobLen j)
    if padOk bs then (close s, 0, s.jobLen j - (bs.getLastD 0).toNat)
    else (s.modCtx c fun x => { x with open_ := false, bytes := 0, state := 4 }, 2, 0)
  else (close s, 0, out)

/-- R228, R231: what a key or context job does at its end: the state and its code. -/
def State.kwJob (s : State) (j : Nat) : State × Nat :=
  let kek := (s.key (s.get (fCtxKeyCur (s.jobCtx j)))).getD 0
  let src := s.jobSrc j
  let dst := s.jobDst j
  match s.jobOp j with
  | 2 => (s.bufPut dst (semibytes (kwWrap kek (semiblocks (natBytes 32 ((s.key src).getD 0))))), 0)
  | 3 =>
    match kwUnwrap kek (semiblocks (s.bufBytes src 40)) with
    | none => (s, 9)
    | some p => s.keyLoad dst (bytesNat (semibytes p)) (s.permits dst 4)
  | 4 => (s.bufPut dst (semibytes (kwWrap kek (semiblocks (s.ctxImage src)))), 0)
  | 5 =>
    match kwUnwrap kek (semiblocks (s.bufBytes src 72)) with
    | none => (s, 9)
    | some p => s.restore dst (semibytes p)
  | 6 => (s.bufPut dst (s.ctxImage src), 0)
  | _ =>
    let img := s.bufBytes src 64
    if fieldBytes img 60 4 ≠ crc32 (img.take 60) then (s, 9) else s.restore dst img

/-- R229: a running job ends its segment; a word of its source that reads with an error ends it (R384). -/
def execJobSegmentEnd (j : Fin 16) (s : State) : Ans :=
  match assocGet s.ciph.jobs j.val with
  | none => .next s
  | some r =>
    if r.phase ≠ 2 then .next s
    else
      let s := s.waitClk (r.at_ + 25 * (r.blocks - r.done))
      let g := s.winGood 10 (s.jobSrc j) (s.jobIn j)
      if !g.2 then .next ((g.1.jobWipe j).jobEnd j 3 0)
      else
      let s := g.1.jobTo j r.blocks
      if 2 ≤ s.jobOp j then
        let p := s.kwJob j
        .next (p.1.jobEnd j p.2 (s.jobOut j))
      else if s.jobFinal j then
        let p := s.closeMsg j
        let t := if p.2.1 = 0 then p.1 else p.1.jobWipe j
        .next (t.jobEnd j p.2.1 p.2.2)
      else .next (s.jobEnd j 0 (s.jobOut j))

/-! ### Reset (R458, R460) and what the registers show -/

/-- R211: the slot-directions bound, over the mapping in force. -/
def State.ciphBudget (s : State) : Nat :=
  s.liveCtxs.foldl (fun k c =>
    let bind := s.get (fCtxBind c)
    if bind < 2 then k
    else
      let gs := if s.is (fCtxDir c) then (List.range 8).flatMap fun n => (s.rxGroups n).map fun g => (n, g)
        else (List.range 8).flatMap fun n => (s.txGroups n).map fun g => (n, g)
      match gs.find? fun p => if bind = 2 then p.1 == s.get (fCtxLane c) && p.2.head == s.get (fCtxHead c)
          else p.2.flow == s.get (fCtxFlow c) with
      | none => k
      | some p => k + p.2.count) 0

/-- CIPH_KEY_STATUS of a slot. -/
def State.keyStatus (s : State) (slot : Nat) : Nat :=
  let r := (assocGet s.ciph.results slot).getD 0 * 16
  match s.key slot with
  | none => r
  | some k => 1 + r + kcv k * 256

/-- CIPH_CTX_STATE of a context. -/
def State.ctxStateWord (s : State) (c : Nat) : Nat :=
  let x := s.ctx c
  x.state + 16 * x.stop + 128 * b2n x.epoch + 256 * b2n x.prev.isSome

/-- R232: the registers of CIPH that show more than a stored word; `none` for every other address. -/
def State.ciphView (s : State) (a : Nat) : Option Nat :=
  let slot := s.nat aCIPH_KEY_SEL
  let c := s.nat aCIPH_CTX_SEL
  if a = aCIPH_STATUS then
    some (s.nat a / 8 * 8 % 65536 + s.nat a % 4 + 4 * b2n s.drbgOk + 65536 * (s.ciphBudget % 1024))
  else if a = aCIPH_KEY_STATUS then some (s.keyStatus slot)
  else if a = aCIPH_KEY_REFS then some (s.keyRefs slot)
  else if a = aCIPH_CTX_STATE then some (s.ctxStateWord c)
  else if aCIPH_CTX_CFG 0 ≤ a && a ≤ aCIPH_CTX_CFG 12 then some (s.nat (aCtxCfg c 0 + (a - aCIPH_CTX_CFG 0)))
  else if aCIPH_CTX_CNT 0 ≤ a && a < aCIPH_CTX_CNT 5 then some (s.nat (aCtxCnt c 0 + (a - aCIPH_CTX_CNT 0)))
  else none

/-- R460: the groups and flows that a CIPH reset blocks. -/
def State.ciphBlocks (s : State) : List (Bool × Nat × Nat) :=
  s.liveCtxs.foldl (fun b c =>
    let k := s.boundTo c
    if 2 ≤ s.get (fCtxBind c) && !b.contains k then b ++ [k] else b) s.ciph.blocked

/-- R222, R460: the last invocations of the groups and flows that it blocks. -/
def State.ciphBlockSent (s : State) : List ((Bool × Nat × Nat) × Bool × Nat) :=
  s.ciph.blockSent ++ s.liveCtxs.filterMap fun c =>
    if 2 ≤ s.get (fCtxBind c) then (s.ctx c).sent.map fun v => (s.boundTo c, v) else none

/-- R458: CIPH enters its reset: jobs end with `ZEROISED`, slots are empty, contexts idle, groups and flows blocked. -/
def State.ciphReset (s : State) : State :=
  let s := s.ciph.jobs.foldl (fun s x => (s.jobWipe x.1).jobEnd x.1 10 0) s
  { s with ciph := { s.ciph with
      keys := [], zeroing := false, results := [], ctxs := [], jobs := [], blocked := s.ciphBlocks, blockSent := s.ciphBlockSent
      reseed := List.replicate 21 s.clk } }

end Sys2Proof.Machine
end

