-- ==== Sys2Proof/Machine/LineCode.lean ====
section
/-!
DEFINITION. The line code as pure functions: the marker (R143), the scrambler (R144), BIP-8 (R157), the CRC-8 of
adaptation headers (R198), the outer product code (R127 to R130), the inner LDPC code (R125, R126), the shaping encoder
(R106, R107) and the symbols of a line frame (R104, R105, R107, R108).
-/

namespace Sys2Proof.Machine

/-- The bits of a number, most significant of `n` first. -/
def bitsMsb : Nat → Nat → List Bool
  | 0, _ => []
  | n + 1, v => bitOf v n :: bitsMsb n v

/-- The number a bit string spells, first bit most significant. -/
def natOfBits (bs : List Bool) : Nat := bs.foldl (fun v b => 2 * v + b2n b) 0

/-! ### Marker and scrambler -/

/-- R143: `n` bits of the marker generator from a state. -/
def markerFrom : Nat → Nat → List Bool
  | 0, _ => []
  | n + 1, s =>
    let b := (bitOf s 10).xor (bitOf s 8)
    b :: markerFrom n ((2 * s + b2n b) % 2048)

/-- R143: the alignment marker. -/
def marker : List Bool := markerFrom 640 0x05C7

/-- R144: one word of the scrambling sequence, and the state after it. -/
def scrWord : Nat → Nat → Nat → Nat × Nat
  | 0, s, acc => (acc, s)
  | n + 1, s, acc =>
    let b := b2n ((bitOf s 22).xor (bitOf s 17))
    scrWord n ((2 * s + b) % 8388608) (2 * acc + b)

/-- R144: the words added to the scrambling sequence from a state. -/
def scrambleFrom : Nat → List Nat → List Nat
  | _, [] => []
  | s, w :: ws =>
    let r := scrWord 128 s 0
    Nat.xor w r.1 :: scrambleFrom r.2 ws

/-- R144: scrambling, and descrambling, of the payload of the LF with MFAS `m`. -/
def scramble (m : Nat) (ws : List Nat) : List Nat := scrambleFrom (Nat.xor 0x7FFFFF (m * 32768 % 8388608)) ws

/-! ### Parity and check sums -/

/-- The exclusive or of the bytes of a word of `n` bytes. -/
def foldByte : Nat → Nat → Nat
  | 0, _ => 0
  | n + 1, w => Nat.xor (w % 256) (foldByte n (w / 256))

/-- R157: even BIP-8 over payload words. -/
def bip8 (ws : List Nat) : Nat := foldByte 16 (ws.foldl Nat.xor 0)

/-- The ones in an 8-bit number. -/
def ones8 (v : Nat) : Nat := (indexesWhere 8 fun k => bitOf v k).length

/-- One bit of the CRC-8 of R198. -/
def crc8Bit (c : Nat) (b : Bool) : Nat :=
  let t := (bitOf c 7).xor b
  Nat.xor (2 * c % 256) (if t then 0x07 else 0)

/-- R198: CRC-8, generator x^8 + x^2 + x + 1, over the top `n` bits of a number of `n` bits. -/
def crc8 (n v : Nat) : Nat := (bitsMsb n v).foldl crc8Bit 0

/-! ### The outer code (R127 to R130) -/

/-- R127: the generator m1 m3 m5 of the component code, degree 30; the product of x^10 + x^3 + 1 and the minimal
polynomials x^10 + x^3 + x^2 + x + 1 and x^10 + x^8 + x^3 + x^2 + 1 of the cube and the fifth power of its root. -/
def clmul : Nat → Nat → Nat → Nat
  | 0, _, _ => 0
  | n + 1, a, b => Nat.xor (if b % 2 = 1 then a else 0) (clmul n (2 * a) (b / 2))

def bchGen : Nat := clmul 31 (clmul 31 0x409 0x40F) 0x50D

/-- The remainder of a bit string times x^30 by the generator. -/
def bchParity (bits : List Bool) : Nat :=
  bits.foldl (fun r b => let t := (bitOf r 29).xor b; Nat.xor (2 * r % 1073741824) (if t then bchGen % 1073741824 else 0)) 0

/-- Column `r` of a block, rows 0 to 479 in order; a block is a list of rows, column 0 most significant. -/
def blockColumn (rows : List Nat) (r : Nat) : List Bool := rows.map fun w => bitOf w (479 - r)

/-- R128: the parity of row `r` of a block with information `info` (450 bits) after the block `prev`. -/
def rowParity (prev : List Nat) (r : Nat) (info : Nat) : Nat :=
  bchParity ((if prev.isEmpty then List.replicate 480 false else blockColumn prev r) ++ bitsMsb 450 info)

/-- The rows of a block from its 216,000 information bits. -/
def blockRows : Nat → Nat → List Nat → List Bool → List Nat
  | 0, _, _, _ => []
  | n + 1, r, prev, bits =>
    let info := natOfBits (bits.take 450)
    (info * 1073741824 + rowParity prev r info) :: blockRows n (r + 1) prev (bits.drop 450)

/-- Blocks completed while the encoder takes information bits. -/
def OuterEnc.close : Nat → OuterEnc → OuterEnc
  | 0, e => e
  | n + 1, e =>
    if e.cur.length < 216000 then e
    else
      let rows := blockRows 480 0 e.prev (e.cur.take 216000)
      let par := rows.flatMap fun w => bitsMsb 30 w
      OuterEnc.close n { e with prev := rows, cur := e.cur.drop 216000, parity := e.parity ++ par }

/-- R123, R129: the encoder takes the information bits of one LF; the parity bits of the LF are the next I / 15 of its
parity stream. -/
def OuterEnc.take (e : OuterEnc) (info : List Bool) : OuterEnc :=
  OuterEnc.close 9 { e with sent := e.sent + info.length, cur := e.cur ++ info }

/-- R129: the parity bits of an LF of `i` information bits, and the encoder after them. -/
def OuterEnc.slots (e : OuterEnc) (i : Nat) : List Bool × OuterEnc :=
  (e.parity.take (i / 15), { e with parity := e.parity.drop (i / 15) })

/-- R131: the outer block phase of the LF sent next. -/
def OuterEnc.phase (e : OuterEnc) : Nat := e.sent % 216000 / 960

/-! ### The inner code (R125, R126) -/

/-- A 64-bit block rotated as an entry of shift `s` does: bit u of the result is bit (u + s) mod 64 (bit 0 first). -/
def rotBlock (w s : Nat) : Nat := (w * 2 ^ s + w / 2 ^ (64 - s)) % 2 ^ 64

/-- R125: the rows and shifts of information column `c`. -/
def ldpcColumn (mb c : Nat) : List (Nat × Nat) :=
  (List.range 3).map fun i => ((c + i * (mb / 3)) % mb, ((i + 1) * c * c + 17 * i * c + 3 * i) % 64)

/-- R126: the partial syndromes s_j of the information blocks. -/
def ldpcSyndromes (mb : Nat) (blocks : List Nat) : List Nat :=
  ((List.range blocks.length).zip blocks).foldl
    (fun acc p => (ldpcColumn mb p.1).foldl (fun a e => modAt a e.1 fun x => Nat.xor x (rotBlock p.2 e.2)) acc)
    (List.replicate mb 0)

/-- R126: p_0 = s_0, p_j = s_j xor p_(j−1). -/
def ldpcParity : Nat → List Nat → List Nat
  | _, [] => []
  | p, s :: ss => let q := Nat.xor s p; q :: ldpcParity q ss

/-- A bit string cut into blocks of `k` bits. -/
def chunkBits : Nat → Nat → List Bool → List (List Bool)
  | 0, _, _ => []
  | n + 1, k, bs => bs.take k :: chunkBits n k (bs.drop k)

/-- R126: the codeword of an information word of setting `fec`. -/
def ldpcEncode (fec : Nat) (info : List Bool) : List Bool :=
  let mb := baseRows fec
  let blocks := (chunkBits (480 - mb) 64 info).map natOfBits
  info ++ (ldpcParity 0 (ldpcSyndromes mb blocks)).flatMap (bitsMsb 64)

/-- R123: the coded bits of an LF from its information bits and its outer parity bits. -/
def codedBits (fec : Nat) (info parity : List Bool) : List Bool :=
  (chunkBits 64 (innerK fec) (info ++ parity)).flatMap (ldpcEncode fec)

/-! ### Shaping and symbols (R104 to R108) -/

/-- Sequences of `n` elements by cost, for every shorter length too: entry `i` of the result is for `i` elements. -/
def countTable (costs : List Nat) (len : Nat) : Nat → List (List Nat)
  | 0 => [1 :: List.replicate (len - 1) 0]
  | n + 1 =>
    let t := countTable costs len n
    t ++ [costs.foldl (fun acc k => addShifted acc k (t.getLastD [])) (List.replicate len 0)]

/-- Sum of the first `k` entries. -/
def sumTake (k : Nat) (xs : List Nat) : Nat := (xs.take k).foldl (· + ·) 0

/-- R106: the element at a rank: the first, smallest cost first, whose block of sequences holds the rank. -/
def rankStep (rest : List Nat) (left : Nat) : List (Nat × Nat) → Nat → Option (Nat × Nat × Nat)
  | [], _ => none
  | (v, c) :: vs, r =>
    if left < c then none
    else
      let k := sumTake (left - c + 1) rest
      if r < k then some (v, c, r) else rankStep rest left vs (r - k)

/-- R106: the sequence of `n` elements of a rank, of cost at most `left`. -/
def unrank (elems : List (Nat × Nat)) (table : List (List Nat)) : Nat → Nat → Nat → List Nat
  | 0, _, _ => []
  | n + 1, left, r =>
    match rankStep (table.getD n []) left elems r with
    | none => []
    | some (v, c, r') => v :: unrank elems table n (left - c) r'

/-- R106: `k` bits shaped onto `n` elements with their costs. -/
def shape (elems : List (Nat × Nat)) (n : Nat) (bits : List Bool) : List Nat :=
  let top := elems.foldl (fun a e => max a e.2) 0
  let table := countTable (elems.map (·.2)) (n * top + 1) n
  let bound := leastBound (table.getLastD []) 0 (2 ^ bits.length) 0
  unrank elems table n bound (natOfBits bits)

/-- The amplitudes of one dimension of an M-ary constellation with their costs. -/
def amplitudes (m : Nat) : List (Nat × Nat) := (ampCosts m).zipIdx.map fun p => (2 * p.2 + 1, p.1)

/-- A symbol: the values of XI, XQ, YI and YQ. -/
abbrev Symbol := Int × Int × Int × Int

/-- A sign bit on an amplitude (R104: 0 is positive). -/
def signed (b : Bool) (a : Nat) : Int := if b then -(a : Int) else a

/-- R105, R108: one shaping block of one polarisation, `n` symbols from symbol `at_`, as (I, Q) pairs: sign positions
not held by the marker take the first bits, the shaped amplitudes the rest. -/
def shapeBlock (m n at_ pol : Nat) (bits : List Bool) : List (Int × Int) :=
  let fixed := fun s d => marker.getD (4 * s + 2 * pol + d) false
  let free := (indexesWhere n fun i => 160 ≤ at_ + i).length * 2
  let padded := bits ++ List.replicate (free - bits.length) false
  let signs := padded.take free
  let amps := shape (amplitudes m) (2 * n) (padded.drop free)
  (List.range n).map fun i =>
    let s := at_ + i
    let k := 2 * (indexesWhere i fun x => 160 ≤ at_ + x).length
    let si := if s < 160 then fixed s 0 else signs.getD k false
    let sq := if s < 160 then fixed s 1 else signs.getD (k + 1) false
    (signed si (amps.getD (2 * i) 1), signed sq (amps.getD (2 * i + 1) 1))

/-- R107: a block of `n` four-dimensional symbols. -/
def shapeQuad (n : Nat) (bits : List Bool) : List Symbol :=
  let padded := bits ++ List.replicate (3 * n - bits.length) false
  let par := shape [(0, 0), (1, 1)] n (padded.drop (3 * n))
  (List.range n).map fun i =>
    let b := fun d => padded.getD (3 * i + d) false
    let yq := (((b 0).xor (b 1)).xor (b 2)).xor (par.getD i 0 == 1)
    (signed (b 0) 1, signed (b 1) 1, signed (b 2) 1, signed yq 1)

/-- R105: the bits of the blocks of both polarisations in turn; block 0 to 2 of a polarisation hold marker signs, and
carry E coded bits with those signs counted among them. -/
def blocksXY (m e : Nat) : Nat → Nat → List Bool → List (Int × Int) × List (Int × Int)
  | 0, _, _ => ([], [])
  | n + 1, at_, bits =>
    let take := e - 2 * (indexesWhere 64 fun i => at_ + i < 160).length
    let r := blocksXY m e n (at_ + 64) (bits.drop (2 * take))
    (shapeBlock m 64 at_ 0 (bits.take take) ++ r.1, shapeBlock m 64 at_ 1 ((bits.drop take).take take) ++ r.2)

/-- R107: full blocks of four-dimensional symbols. -/
def blocksQuad (e : Nat) : Nat → List Bool → List Symbol
  | 0, _ => []
  | n + 1, bits => shapeQuad 64 (bits.take (2 * e)) ++ blocksQuad e n (bits.drop (2 * e))

/-- R104 to R108: the symbols of an LF from its coded bits. -/
def lfSymbols (f : Fmt) (bits : List Bool) : List Symbol :=
  if f.m = 4 then
    let mark := (List.range 160).map fun s =>
      let b := fun d => marker.getD (4 * s + d) false
      (signed (b 0) 1, signed (b 1) 1, signed (b 2) 1, signed (b 3) 1)
    let n := 1965440 / (2 * f.ent)
    let rest := bits.drop 640
    mark ++ blocksQuad f.ent n rest ++ shapeQuad (f.lfSym - 160 - 64 * n) (rest.drop (2 * f.ent * n))
  else
    let n := 983040 / f.ent
    let rest := bits.drop 640
    let full := blocksXY f.m f.ent n 0 rest
    let tail := rest.drop (2 * f.ent * n - 640)
    let k := f.lfSym - 64 * n
    let r := 983040 % f.ent
    let xs := full.1 ++ shapeBlock f.m k (64 * n) 0 (tail.take r)
    let ys := full.2 ++ shapeBlock f.m k (64 * n) 1 (tail.drop r)
    List.zipWith (fun x y => (x.1, x.2, y.1, y.2)) xs ys

end Sys2Proof.Machine
end

