-- ==== Sys2Proof/Machine/FecCode.lean ====
section
/-!
DEFINITION. The receive decoders as pure functions: layered min-sum decoding of the inner code (R125, R132) and the
passes of the outer decoder over its window (R127, R128, R134).
-/

namespace Sys2Proof.Machine

/-! ### The inner decoder (R132) -/

/-- R125: the base columns of base row `j` with their shifts. -/
def rowEdges (mb j : Nat) : List (Nat × Nat) :=
  ((List.range (480 - mb)).filterMap fun c => ((ldpcColumn mb c).find? fun e => e.1 == j).map fun e => (c, e.2))
    ++ ((List.range mb).filter fun p => p == j || p + 1 == j).map fun p => (480 - mb + p, 0)

/-- R125: the codeword bits of check `u` of a base row. -/
def checkBits (edges : List (Nat × Nat)) (u : Nat) : List Nat := edges.map fun e => 64 * e.1 + (u + e.2) % 64

/-- R132: min-sum: of the values that enter a check, the message back to each: the product of the signs of the others, and
the least of their magnitudes.  DESIGN CHOICE (log entry 68): neither normalised nor offset. -/
def checkMessages (ts : List Int) : List Int :=
  (List.range ts.length).map fun i =>
    let others := ts.eraseIdx i
    let m := (others.map Int.natAbs).foldl min ((others.headD 0).natAbs)
    signed (others.foldl (fun b t => b.xor (decide (t < 0))) false) m

/-- The decoder between two checks: the posterior value of each codeword bit, and the last messages of each check, layer by
layer. -/
structure MinSum where
  post : List Int
  sent : List (List (List Int))

/-- R132: check `u` of a layer. -/
def MinSum.check (edges : List (Nat × Nat)) (j : Nat) (d : MinSum) (u : Nat) : MinSum :=
  let bits := checkBits edges u
  let old := (d.sent.getD j []).getD u []
  let ts := bits.zipIdx.map fun p => d.post.getD p.1 0 - old.getD p.2 0
  let new := checkMessages ts
  { post := (bits.zip (List.zipWith (· + ·) ts new)).foldl (fun ps p => setAt ps p.1 p.2) d.post
    sent := modAt d.sent j fun l => setAt l u new }

/-- R132: an iteration: the base rows in order. -/
def MinSum.iterate (mb : Nat) (d : MinSum) : MinSum :=
  (List.range mb).foldl (fun d j => (List.range 64).foldl (MinSum.check (rowEdges mb j) j) d) d

/-- A hard decision.  DESIGN CHOICE (log entry 68): a negative soft value decides for 1. -/
def hardBit (x : Int) : Bool := decide (x < 0)

/-- R132: every check is satisfied by the hard decisions. -/
def checksOk (mb : Nat) (bits : List Bool) : Bool :=
  (List.range mb).all fun j => (List.range 64).all fun u =>
    !((checkBits (rowEdges mb j) u).foldl (fun b v => b.xor (bits.getD v false)) false)

/-- R132: up to `fuel` iterations; the answer counts those used. -/
def MinSum.run (mb : Nat) (early : Bool) : Nat → Nat → MinSum → MinSum × Nat
  | 0, used, d => (d, used)
  | fuel + 1, used, d =>
    let d := d.iterate mb
    if early && checksOk mb (d.post.map hardBit) then (d, used + 1) else MinSum.run mb early fuel (used + 1) d

/-- R132: the values that decoding starts from: the 640 marker bits of codeword 0 are known. -/
def startValues (first : Bool) (soft : List Int) : List Int :=
  if !first then soft
  else
    let sure : Nat := 1 + soft.foldl (fun a x => a + x.natAbs) 0
    marker.map (fun b => signed b sure) ++ soft.drop 640

/-- What decoding of a codeword leaves: its hard decisions, the iterations used, whether every check is satisfied, and the
bits on which the channel's hard decisions differ. -/
structure Decoded where
  bits : List Bool
  used : Nat
  ok : Bool
  changed : Nat

/-- R132, R138: a codeword of setting `fec` decoded in at most `limit` iterations. -/
def decodeInner (fec : Nat) (first early : Bool) (limit : Nat) (soft : List Int) : Decoded :=
  let mb := baseRows fec
  let r := MinSum.run mb early limit 0 { post := startValues first soft, sent := List.replicate mb (List.replicate 64 []) }
  let bits := r.1.post.map hardBit
  { bits := bits, used := r.2, ok := checksOk mb bits
    changed := (List.zipWith (fun (x : Int) b => b2n ((hardBit x).xor b)) soft bits).foldl (· + ·) 0 }

/-! ### The outer decoder (R127, R128, R134) -/

/-- Reduction modulo x^10 + x^3 + 1 of a polynomial of degree below `n + 10`. -/
def bchReduce : Nat → Nat → Nat
  | 0, a => a
  | n + 1, a => bchReduce n (if bitOf a (n + 10) then Nat.xor a (0x409 * 2 ^ n) else a)

/-- R127: the product in GF(2^10). -/
def bchMul (a b : Nat) : Nat := bchReduce 9 (clmul 10 a b)

def bchPow (a : Nat) : Nat → Nat
  | 0 => 1
  | n + 1 => bchMul a (bchPow a n)

/-- The inverse of a nonzero element: its power 2^10 − 2. -/
def bchInv (a : Nat) : Nat := bchPow a 1022

/-- R127: the syndromes of a component word: its polynomial, bit 0 first, at α, α^3 and α^5. -/
def bchSyndromes (bits : List Bool) : Nat × Nat × Nat :=
  let at_ := fun (x : Nat) => bits.foldl (fun v b => Nat.xor (bchMul v x) (b2n b)) 0
  (at_ 2, at_ 8, at_ 32)

/-- R127, R134: the at most 3 bits in error that the syndromes tell; `none` where there are more. -/
def errorsOf (bits : List Bool) : Option (List Nat) :=
  let syn := bchSyndromes bits
  let s1 := syn.1
  let s3 := syn.2.1
  let s5 := syn.2.2
  let cube := bchMul s1 (bchMul s1 s1)
  let d := Nat.xor cube s3
  -- the locator X³ + s1 X² + b X + c; with a single error X + s1
  let b := if d = 0 then 0 else bchMul (Nat.xor (bchMul (bchMul s1 s1) s3) s5) (bchInv d)
  let c := Nat.xor d (bchMul s1 b)
  let root := fun (x : Nat) => Nat.xor (bchMul x (Nat.xor (bchMul x (Nat.xor x s1)) b)) c == 0
  let errs := (List.range 960).filter fun j => root (bchPow 2 (959 - j))
  if syn = (0, 0, 0) then some []
  else if errs.length ≤ 3 && bchSyndromes ((List.range 960).map errs.contains) == syn then some errs else none

/-- R128: component word `r` of a pair of blocks. -/
def componentOf (prev block : List Nat) (r : Nat) : List Bool := blockColumn prev r ++ bitsMsb 480 (block.getD r 0)

/-- A bit of a block flipped. -/
def flipBit (rows : List Nat) (r c : Nat) : List Nat := modAt rows r fun w => Nat.xor w (2 ^ (479 - c))

/-- R134: a component decode of a pair, and the bits it changed. -/
def decodeComponent (p : List Nat × List Nat × Nat) (r : Nat) : List Nat × List Nat × Nat :=
  match errorsOf (componentOf p.1 p.2.1 r) with
  | none => p
  | some es => es.foldl (fun p j =>
      if j < 480 then (flipBit p.1 j r, p.2.1, p.2.2 + 1) else (p.1, flipBit p.2.1 r (j - 480), p.2.2 + 1)) p

/-- R134: a pass over the pairs of a window, oldest first, and the bits it changed. -/
def outerPass : List Nat → List (List Nat) → List (List Nat) × Nat
  | a, [] => ([a], 0)
  | a, b :: rest =>
    let p := (List.range 480).foldl decodeComponent (a, b, 0)
    let t := outerPass p.2.1 rest
    (p.1 :: t.1, p.2.2 + t.2)

/-- R134: `k` passes. -/
def outerPasses : Nat → List (List Nat) → List (List Nat) × Nat
  | 0, w => (w, 0)
  | k + 1, w =>
    match w with
    | [] => ([], 0)
    | a :: rest =>
      let p := outerPass a rest
      let t := outerPasses k p.1
      (t.1, p.2 + t.2)

/-- R134: the component words of a pair with a nonzero syndrome. -/
def badComponents (prev block : List Nat) : Nat :=
  ((List.range 480).filter fun r => bchSyndromes (componentOf prev block r) != (0, 0, 0)).length

/-- R129: the rows of a block from its information bits and its parity bits. -/
def rowsOf : Nat → List Bool → List Bool → List Nat
  | 0, _, _ => []
  | n + 1, info, par =>
    natOfBits (info.take 450 ++ par.take 30) :: rowsOf n (info.drop 450) (par.drop 30)

/-- R129: the information bits of a block. -/
def blockInfo (rows : List Nat) : List Bool := rows.flatMap fun w => bitsMsb 450 (w / 2 ^ 30)

end Sys2Proof.Machine
end

