-- ==== Sys2Proof/Machine/Fec.lean ====
section
/-!
DEFINITION. The receive FEC (05_fec.md): inner codewords and their iteration pool, the outer window, the states of R135.
-/

namespace Sys2Proof.Machine

/-- A wide FEC counter, by its place in R138, counts. -/
def State.fecCount (s : State) (n : Lane) (j k : Nat) : State := if k = 0 then s else s.addCnt (aFEC_CNT n j) k

/-- R135: the state code. -/
def State.fecState (s : State) (n : Lane) : Nat := s.get (fFEC_STATE_STATE n)

/-- R133: ITER_MAX acts from 1 to 24. -/
def State.iterMax (s : State) (n : Lane) : Nat := clampN 1 24 (s.get (fFEC_ITER_ITER_MAX n))

/-! ### Inner codewords (R132, R133, R138) -/

/-- R133: the iterations that a codeword may use. -/
def iterLimit (iterMax avail pool : Nat) : Nat := min iterMax (avail + if avail < iterMax then pool else 0)

/-- R133: the pool after a codeword that has used `used` iterations. -/
def poolAfter (iterMax avail pool used : Nat) : Nat :=
  if iterMax ≤ avail then 0
  else if used < avail then min (8 * avail) (pool + (avail - used))
  else pool - (used - avail)

/-- R123, R129: an LF with both its streams enters the outer decoder. -/
def OuterIn.take (o : OuterIn) (fec : Nat) (bits : List Bool) : OuterIn :=
  let info := bits.take (infoBits fec)
  let par := bits.drop (infoBits fec)
  { info := o.info ++ info.drop o.skip, skip := o.skip - info.length
    par := o.par ++ par.drop o.parSkip, parSkip := o.parSkip - par.length
    done := o.done ++ info.take o.skip }

/-- R38, R137: the FEC setting of the LF whose codeword 0 is decoded now: where an announced boundary lies ahead and this LF is
delivered at it or after it, that of the format which applies there. -/
def State.fecAt (s : State) (n : Lane) : Nat :=
  let r := (s.lane n).rxd
  let cfg := match s.crs.armed with
    | none => s.nat (aRXD_RX_FMT n)
    | some a => (a.items.filter fun i => i.spot == .rx n && i.addr == aRXD_RX_FMT n).foldl
        (fun v i => itemWord v i.mask i.value) (s.nat (aRXD_RX_FMT n))
  let words := if r.follow then
      match r.farNext, r.far with
      | some p, _ => p.2.fmt
      | none, some f => f.fmt
      | none, none => cfg
    else cfg
  match (s.lane n).lfr.rxIn with
  | some k => if k ≤ (s.lane n).fec.lfs.length + 1 then (fmtOfWords words 0).fec else (s.rxFmt n).fec
  | none => (s.rxFmt n).fec

/-- R123: the information word of a codeword joins its LF; with codeword 63 the LF is decoded, and in `RUNNING` it enters
the outer decoder.  The setting of an LF is decided at its codeword 0 (log entry 69). -/
def FecState.gain (f : FecState) (running : Bool) (fec : Nat) (word : List Bool) (ok : Bool) : FecState :=
  let first := f.cw = 0
  let bits := f.bits ++ word
  let cw0 := if first then ok else f.cw0
  if f.cw < 63 then { f with cw := f.cw + 1, fec := fec, cw0 := cw0, bits := bits }
  else { f with
    cw := 0, fec := fec, cw0 := cw0, bits := []
    lfs := f.lfs ++ [⟨fec, cw0, bits⟩]
    outer := if running then f.outer.take fec bits else f.outer }

/-- R132, R133, R138: a codeword of the native family is decoded from its soft values.  DESIGN CHOICE (log entry 70): a
codeword that fails before ITER_MAX iterations counts as cut short by the empty pool, whether or not more would have
helped. -/
def State.innerDecode (s : State) (n : Lane) (soft : List Int) : State :=
  let f := (s.lane n).fec
  let fec := if f.cw = 0 then s.fecAt n else f.fec
  let avail := s.get (fFEC_STATE_ITER_AVAIL n)
  let d := decodeInner fec (f.cw = 0) (s.is (fFEC_CTRL_EARLY_STOP n)) (iterLimit f.iterMax avail f.pool) soft
  let s := s.modFec n fun f =>
    { f.gain (s.fecState n == 2) fec (d.bits.take (innerK fec)) d.ok with
      fed := true, pool := poolAfter f.iterMax avail f.pool d.used, iterMax := s.iterMax n }
  let s := ((s.fecCount n 0 1).fecCount n 1 d.changed).fecCount n 2 d.used
  let s := s.setNat (aFEC_ITER_PEAK n) (max (s.nat (aFEC_ITER_PEAK n)) d.used)
  let s := if d.ok then s else (s.fecCount n 3 1).raise (fFEC_ALARM_INNER_FAIL n)
  if !d.ok && d.used < f.iterMax then (s.fecCount n 4 1).raise (fFEC_ALARM_TRUNC n) else s

/-- R69, R123: the soft values of the next codeword: the decisions that RXD has passed on, once it has passed enough; where it
has passed none, those of the command (log entry 68). -/
def State.softNext (s : State) (n : Lane) (soft : List Int) : State × List Int :=
  let q := (s.lane n).rxd.soft
  if q.length < 30720 then (s, soft) else (s.modRxd n fun r => { r with soft := q.drop 30720 }, q.take 30720)

/-- R132, R139: decoding of a codeword stops: a native one from its 30,720 soft values, one of the ZR agreements as its own
decoder found it. -/
def execInnerCodewordDone (n : Lane) (soft : List Int) (zr : Bool × Nat) (s : State) : Ans :=
  if !s.laneUp n || s.fecState n = 0 then .next s
  else if s.is (fFEC_STATE_ZR n) then
    let s := (s.fecCount n 0 1).fecCount n 1 zr.2
    .next (if zr.1 then s else (s.fecCount n 7 1).raise (fFEC_ALARM_UNCORR n))
  else
    let r := s.softNext n soft
    .next (r.1.innerDecode n r.2)

/-! ### The outer window (R134) -/

/-- R134: a block leaves with `bad` component codewords of its pair in error. -/
def State.blockLeaves (s : State) (n : Lane) (bad : Nat) : State :=
  let s := s.modFec n fun g => { g with left := g.left + 1, bad := if bad = 0 then g.bad else g.bad ++ [g.left] }
  let s := s.fecCount n 6 bad
  if bad = 0 then s else (s.fecCount n 7 1).raise (fFEC_ALARM_UNCORR n)

/-- R134: the oldest block leaves the window, and the component codewords of its pair are checked.  DESIGN CHOICE (log
entry 71): the first block after `ALIGNING` has no block before it, and is not checked. -/
def State.outerExit (s : State) (n : Lane) : State :=
  let f := (s.lane n).fec
  match f.window with
  | [] => s
  | b :: rest =>
    let s := s.modFec n fun g =>
      { g with window := rest, before := some b, outer := { g.outer with done := g.outer.done ++ blockInfo b } }
    s.blockLeaves n (match f.before with
      | some a => badComponents a b
      | none => 0)

/-- FEC_OCFG.WIN and PASSES as they act. -/
def State.outerWin (s : State) (n : Lane) : Nat := s.get (fFEC_OCFG_WIN n)
def State.outerPassCount (s : State) (n : Lane) : Nat := s.get (fFEC_OCFG_PASSES n)

/-- R134: the outer decoder runs on a lane. -/
def State.outerRuns (s : State) (n : Lane) : Bool := s.laneUp n && s.fecState n == 2 && !s.is (fFEC_STATE_ZR n)

/-- R134: the next whole block enters, after the oldest has left a full window, and PASSES passes are made; with
OUTER_DEC = 0 nothing is corrected.  Where LFs are given as decoded, the passes change `changed` bits (log entry 68).  DESIGN
CHOICE (log entry 93): after a Course has reduced WIN one block leaves with each that enters, so the window is longer than WIN
until blocks leave without one entering. -/
def execOuterBlockEnter (n : Lane) (changed : Nat) (s : State) : Ans :=
  let o := (s.lane n).fec.outer
  if !s.outerRuns n then .next s
  else if !(s.lane n).fec.fed then
    let s := s.modFec n fun f => { f with entered := f.entered + 1 }
    .next (if s.is (fFEC_CTRL_OUTER_DEC n) then s.fecCount n 5 changed else s)
  else if o.info.length < 216000 || o.par.length < 14400 then .next s
  else
    let s := if s.outerWin n ≤ (s.lane n).fec.window.length then s.outerExit n else s
    let window := (s.lane n).fec.window ++ [rowsOf 480 (o.info.take 216000) (o.par.take 14400)]
    let r := if s.is (fFEC_CTRL_OUTER_DEC n) then outerPasses (s.outerPassCount n) window else (window, 0)
    let s := s.modFec n fun f =>
      { f with
        window := r.1, entered := f.entered + 1
        outer := { f.outer with info := f.outer.info.drop 216000, par := f.outer.par.drop 14400 } }
    .next (s.fecCount n 5 r.2)

/-- R134: the oldest block leaves a full window.  Where LFs are given as decoded, `bad` of the 480 component codewords of its
pair have a nonzero syndrome (log entry 68). -/
def execOuterBlockExit (n : Lane) (bad : Nat) (s : State) : Ans :=
  let f := (s.lane n).fec
  if !s.outerRuns n then .next s
  else if !f.fed then .next (if f.left < f.entered then s.blockLeaves n (min 480 bad) else s)
  else .next (if s.outerWin n ≤ f.window.length then s.outerExit n else s)

/-! ### States (R135) -/

/-- R123, R135: what is delivered next where the FEC has decoded an LF: its information bits, corrected by the outer decoder
in `RUNNING`, and the decoder without it.  `none` while its blocks still stand in the
window. -/
def FecState.deliver (f : FecState) (running : Bool) (x : DecLf) : Option (List Bool × FecState) :=
  let i := infoBits x.fec
  let rest := { f with lfs := f.lfs.drop 1 }
  if !running then some (x.bits.take i, rest)
  else if f.outer.done.length < i then none
  else some (f.outer.done.take i, { rest with outer := { f.outer with done := f.outer.done.drop i } })

/-- R135: entry to a state that flushes the outer window and the pool; from `RUNNING` to `ALIGNING` inner decoding goes
on. -/
def State.fecEnter (s : State) (n : Lane) (code : Nat) : State :=
  let keep := code == 1 && s.fecState n == 2
  (s.set (fFEC_STATE_STATE n) code).modFec n fun f =>
    if keep then { iterMax := f.iterMax, fed := f.fed, cw := f.cw, fec := f.fec, cw0 := f.cw0, bits := f.bits, lfs := f.lfs }
    else { iterMax := s.iterMax n }

/-- R135, R139: LFR reports frame synchronisation, or loses it. -/
def State.fecInFrame (s : State) (n : Lane) (sync : Bool) : State :=
  if !sync then s.fecEnter n 0
  else if s.is (fFEC_STATE_ZR n) then s.fecEnter n 2
  else if s.fecState n = 0 then s.fecEnter n 1
  else s

/-- R129, R135: the outer decoder starts at an LF whose first information bit is bit `start` of the stream: at the next whole
block; the LFs already decoded enter it. -/
def FecState.run (f : FecState) (start : Nat) : FecState :=
  let first := divUp start 216000
  let o : OuterIn := { skip := 216000 * first - start, parSkip := 14400 * (first + 1) - start / 15 }
  { f with
    s := start, lastObp := none, miss := 0, entered := first, left := first, window := [], before := none
    bad := if 216000 * first = start then [] else [start / 216000]
    outer := f.lfs.foldl (fun o x => o.take x.fec x.bits) o }

/-- R140: FEC_OBP: the last received OBP, and the phase tracked.  DESIGN CHOICE (log entry 72): the tracked phase is that of
the LF delivered, and 0 where none is tracked. -/
def State.showObp (s : State) (n : Lane) (obp phase : Nat) : State := s.setNat (aFEC_OBP n) (obp % 256 + phase * 256)

/-- R134, R135: an LF of `i` information bits with OBP `obp` reaches delivery: the state advances; the answer's flag says
that the LF is flagged uncorrected. -/
def State.fecLf (s : State) (n : Lane) (i obp : Nat) : State × Bool :=
  let f := (s.lane n).fec
  let next := (obp + i / 960) % 225
  if s.fecState n = 1 then
    let s := ((s.fecCount n 9 1).fecCount n 8 1).raise (fFEC_ALARM_BYPASS n)
    let s := s.showObp n obp 0
    if f.lastObp = some obp then
      ((s.set (fFEC_STATE_STATE n) 2).modFec n fun f => f.run (obp * 960 + i), true)
    else (s.modFec n fun g => { g with lastObp := some next }, true)
  else if s.fecState n = 2 then
    let phase := f.s % 216000 / 960
    let s := s.showObp n obp phase
    let first := f.s / 216000
    let last := (f.s + i - 1) / 216000
    let flagged := f.bad.any fun b => first ≤ b && b ≤ last
    let s := if flagged then s.fecCount n 8 1 else s
    let miss := if phase = obp then 0 else f.miss + 1
    if 4 ≤ miss then ((s.fecEnter n 1).raise (fFEC_ALARM_OBP_ERR n), flagged)
    else
      (s.modFec n fun g => { g with
        s := f.s + i, miss := miss, bad := g.bad.filter fun b => (f.s + i) / 216000 ≤ b }, flagged)
  else (s, false)

end Sys2Proof.Machine
end

