-- ==== Sys2Proof/Machine/Pmon.lean ====
section
/-!
DEFINITION. Performance monitoring (07_performance_monitoring.md): gathering of seconds, their evaluation, bins and
their rotation, alerts, and the record window.
-/

namespace Sys2Proof.Machine

/-! ### Boundaries (R17) -/

/-- R264: the UTC offset in force, in seconds. -/
def State.utcOfs (s : State) : Int := s.getI fTIME_UTC_OFS

/-- The first boundary of a period after a time in seconds, for an offset: a time whose difference to the offset is a
multiple of the period (R17). -/
def nextBoundary (ofs : Int) (period t : Nat) : Nat :=
  (((t : Int) - ofs) / (period : Int) * period + period + ofs).toNat

/-- The last boundary at or before a time. -/
def lastBoundary (ofs : Int) (period t : Nat) : Int := ((t : Int) - ofs) / (period : Int) * period + ofs

/-! ### Entities -/

/-- R170: the key of an entity of type 0 section, 1 path, 2 tributary. -/
def entKey (ty ix : Nat) : Nat := if ty = 0 then 0 else if ty = 1 then 1 + ix else 129 + ix
def entType (key : Nat) : Nat := if key = 0 then 0 else if key ≤ 128 then 1 else 2
def entIndex (key : Nat) : Nat := if key = 0 then 0 else if key ≤ 128 then key - 1 else key - 129

def PmonState.ent (p : PmonState) (key : Nat) : Entity := (assocGet p.ents key).getD p.blank
def PmonState.putEnt (p : PmonState) (key : Nat) (e : Entity) : PmonState := { p with ents := assocPut p.ents key e }
def PmonState.modEnt (p : PmonState) (key : Nat) (f : Entity → Entity) : PmonState := p.putEnt key (f (p.ent key))

/-- Every entity, and the template of those that have not existed, changed alike. -/
def PmonState.mapEnts (p : PmonState) (f : Entity → Entity) : PmonState :=
  { p with ents := p.ents.map fun x => (x.1, f x.2), blank := f p.blank }

/-- Both current bins changed alike. -/
def Entity.modCur (e : Entity) (f : Bin → Bin) : Entity := { e with cur15 := f e.cur15, cur24 := f e.cur24 }

/-- A flag of R182, by its bit number less 16. -/
def Bin.flag (b : Bin) (k : Nat) : Bin := { b with flags := Nat.lor b.flags (2 ^ k) }

/-! ### Gathering (R171, R173) -/

/-- R170: the section exists now. -/
def State.sectionExists (s : State) (n : Lane) : Bool := s.is (fPMON_CTRL_EN n) && s.is (fRXD_CTRL_EN n)

/-- R170, R176: the section exists now, or did when the lane's reset, which still holds, was asserted. -/
def State.sectionLives (s : State) (n : Lane) : Bool :=
  s.is (fPMON_CTRL_EN n) && (s.is (fRXD_CTRL_EN n) || (s.held n && (s.lane n).pmon.through))

/-- R170: the slot groups whose paths and tributaries exist: those of the receive mapping, in the native family. -/
def State.pmonGroups (s : State) (n : Lane) : List Mapped := if (s.rxFmt n).family = 0 then s.rxGroups n else []

/-- A section defect stands (R173). -/
def State.sectionDefect (s : State) (n : Lane) : Bool :=
  s.is (fLFR_STATE_LOS n) || s.is (fLFR_STATE_LOF n) || s.is (fLFR_STATE_LOM n)

/-- A defect of a slot stands that counts near end, far end. -/
def State.slotDefect (s : State) (n : Lane) (j : Nat) : Bool := s.is (fLFR_SLOT_PAIS n j) || s.is (fLFR_SLOT_SSIM n j)
def State.slotFar (s : State) (n : Lane) (j : Nat) : Bool := s.is (fLFR_SLOT_PBDI n j)

/-- The defects that stand now enter a gathering. -/
def SecAcc.touch (a : SecAcc) (d f : Bool) : SecAcc := { a with defect := a.defect || d, feDefect := a.feDefect || f }

/-- R170, R173, R175: what stands now enters the second in progress: the defects, the families, and which entities have
ceased to exist.  A lane reset, which zeroes RXD_CTRL.EN, ends no section's existence in the seconds it overlaps (R176). -/
def State.touchSecond (s : State) (n : Lane) (g : SecGather) : SecGather :=
  let sec := s.sectionDefect n
  let gs := s.pmonGroups n
  let reset := g.laneReset || s.held n
  let live := g.live && s.is (fPMON_CTRL_EN n) && (reset || s.is (fRXD_CTRL_EN n))
  { g with
    laneReset := reset
    zr := g.zr || (s.rxFmt n).family != 0
    live := live
    section_ := g.section_.touch sec (s.is (fLFR_STATE_RBDI n))
    paths := g.paths.map fun p =>
      match gs.find? fun x => x.head == p.1 with
      | none => (p.1, { p.2 with dead := true })
      | some x =>
        (p.1, { p.2.touch (sec || x.list.any (s.slotDefect n)) (x.list.any (s.slotFar n)) with dead := p.2.dead || !live })
    tribs := g.tribs.map fun p =>
      (p.1, { p.2.touch (sec || s.slotDefect n p.1) (s.slotFar n p.1) with
        dead := p.2.dead || !live || !s.is (fPMON_CTRL_TRIB_EN n) || (groupAt gs p.1).isNone }) }

/-- The entities whose existence throughout the second ends between two looks at it, with the blocks that they have
counted in it: a second that is not evaluated counts in no result (R176). -/
def SecGather.lost (old new : SecGather) : List (Nat × Nat) :=
  let gone := fun (a b : List (Nat × SecAcc)) (key : Nat → Nat) =>
    (List.zip a b).filterMap fun x => if !x.1.2.dead && x.2.2.dead then some (key x.1.1, x.1.2.blocks) else none
  (if old.live && !new.live then [(0, old.section_.blocks)] else []) ++ gone old.paths new.paths (entKey 1)
    ++ gone old.tribs new.tribs (entKey 2)

/-- The second in progress with what stands now; the raw counts lose what it no longer evaluates. -/
def PmonState.look (p : PmonState) (g : SecGather) : PmonState :=
  let p' := (p.gather.lost g).foldl (fun (p : PmonState) x =>
    p.modEnt x.1 fun e => e.modCur fun b => { b with blocks := b.blocks - x.2 }) p
  { p' with gather := g }

/-- A second begins: the entities that exist (R170). -/
def State.openSecond (s : State) (n : Lane) : SecGather :=
  let gs := s.pmonGroups n
  { sec := s.tb0Sec, live := s.sectionLives n, laneReset := s.held n
    paths := gs.map fun g => (g.head, {})
    tribs := if s.is (fPMON_CTRL_TRIB_EN n) then (gs.flatMap Mapped.list).map fun j => (j, {}) else [] }

/-- The gathering of a lane brought up to now: a TB0 second that has ended is set aside for its evaluation, and the
defects that stand are marked.  Called after every change of a defect, of the mapping or of the section's existence. -/
def State.touch (s : State) (n : Lane) : State :=
  let g := (s.lane n).pmon.gather
  let s :=
    if g.sec = s.tb0Sec then s
    else s.modPmon n fun p => { p with ended := p.ended ++ [g], gather := s.openSecond n }
  let s := s.modPmon n fun p => p.look (s.touchSecond n p.gather)
  s.setB (fPMON_STATUS_SEC_EXISTS n) (s.sectionExists n)

/-- A block of an entity counts (R171); BLOCKS of the current bins counts with it (R172, raw counts). -/
def SecAcc.block (a : SecAcc) (err fe : Bool) : SecAcc :=
  { a with blocks := a.blocks + 1, errored := a.errored + b2n err, feErrored := a.feErrored + b2n fe }

def PmonState.raw (p : PmonState) (key : Nat) : PmonState :=
  p.modEnt key fun e => e.modCur fun b => { b with blocks := b.blocks + 1 }

/-- R171: a section block. -/
def State.sectionBlock (s : State) (n : Lane) (err : Bool) : State :=
  (s.touch n).modPmon n fun p =>
    if p.gather.live then { p.raw 0 with gather := { p.gather with section_ := p.gather.section_.block err false } } else p

/-- R171: an accepted LF carries SBEI ≥ 1. -/
def State.sectionFar (s : State) (n : Lane) : State :=
  (s.touch n).modPmon n fun p =>
    { p with gather := { p.gather with section_ := { p.gather.section_ with
        feErrored := p.gather.section_.feErrored + 1 } } }

/-- R171: a block of the path headed by `h`. -/
def State.pathBlock (s : State) (n : Lane) (h : Nat) (err fe : Bool) : State :=
  (s.touch n).modPmon n fun p =>
    if p.gather.paths.any fun x => x.1 == h && !x.2.dead then
      { p.raw (entKey 1 h) with gather := { p.gather with
          paths := p.gather.paths.map fun x => if x.1 = h then (h, x.2.block err fe) else x } }
    else p

/-- R171: a block of the tributary of slot `j`. -/
def State.tribBlock (s : State) (n : Lane) (j : Nat) (err fe : Bool) : State :=
  (s.touch n).modPmon n fun p =>
    if p.gather.tribs.any fun x => x.1 == j && !x.2.dead then
      { p.raw (entKey 2 j) with gather := { p.gather with
          tribs := p.gather.tribs.map fun x => if x.1 = j then (j, x.2.block err fe) else x } }
    else p

/-! ### Evaluation (R173 to R176) -/

/-- The bins that hold a second whose result is `a15`, `a24` rotations old, changed alike; a final bin never changes
(R178). -/
def modAged (cur : Bin) (hist : List Bin) (age : Nat) (f : Bin → Bin) : Bin × List Bin :=
  if age = 0 then (f cur, hist)
  else (cur, modAt hist (age - 1) fun b => if bitOf b.flags 0 then b else f b)

def Entity.atAge (e : Entity) (a15 a24 : Nat) (f : Bin → Bin) : Entity :=
  let x := modAged e.cur15 e.hist15 a15 f
  let y := modAged e.cur24 e.hist24 a24 f
  { e with cur15 := x.1, hist15 := x.2, cur24 := y.1, hist24 := y.2 }

/-- Counts of a side: near end or far end. -/
def Bin.add (far : Bool) (b : Bin) (es ses uas bbe : Int) : Bin :=
  let up := fun (v : Nat) (d : Int) => ((v : Int) + d).toNat
  if far then { b with feEs := up b.feEs es, feSes := up b.feSes ses, feUas := up b.feUas uas, feBbe := up b.feBbe bbe }
  else { b with es := up b.es es, ses := up b.ses ses, uas := up b.uas uas, bbe := up b.bbe bbe }

/-- R174: one evaluated second of a side: its provisional counts, then the change that a tenth second confirms. -/
def Entity.side (e : Entity) (far : Bool) (r : SecResult) : Entity :=
  let a := if far then e.far else e.near
  let put := fun (e : Entity) (a : Avail) => if far then { e with far := a } else { e with near := a }
  if a.uas then
    let e := e.atAge r.age15 r.age24 fun b => b.add far 0 0 1 0
    if r.ses then put e { a with run := [] }
    else
      let run := r :: a.run
      if run.length < 10 then put e { a with run := run }
      else
        let e := run.foldl (fun e x => e.atAge x.age15 x.age24 fun b => b.add far (b2n x.es) 0 (-1) x.bbe) e
        put e { uas := false, run := [] }
  else
    let e := e.atAge r.age15 r.age24 fun b => b.add far (b2n r.es) (b2n r.ses) 0 r.bbe
    if !r.ses then put e { a with run := [] }
    else
      let run := r :: a.run
      if run.length < 10 then put e { a with run := run }
      else
        let e := run.foldl
          (fun e x => e.atAge x.age15 x.age24 fun b =>
            b.add far (-(b2n x.es : Int)) (-(b2n x.ses : Int)) 1 (-(x.bbe : Int))) e
        put e { uas := true, run := [] }

/-- An unevaluated second of a side breaks its run (R176). -/
def Entity.breakRun (e : Entity) (far : Bool) : Entity :=
  if far then { e with far := { e.far with run := [] } } else { e with near := { e.near with run := [] } }

/-- R173: SES of a second of a side.  By the rule's words a second with no block, of which 0 errored blocks are at least
SES_PCT %, is one. -/
def isSes (pct blocks errored : Nat) (defect : Bool) : Bool := defect || pct * blocks ≤ 100 * errored

/-- R176, R182: the bins that hold a second overlapped by a lane reset, or in which a ZR family was in force, say so. -/
def Entity.marks (e : Entity) (g : SecGather) : Entity :=
  e.atAge g.age15 g.age24 fun b =>
    let b := if g.laneReset then b.flag 5 else b
    if g.zr then b.flag 6 else b

/-- R173 to R176: one second of one entity, in the bins that hold it. -/
def Entity.second (e : Entity) (pct a15 a24 : Nat) (a : SecAcc) (reset evalFar : Bool) : Entity :=
  let e := e.atAge a15 a24 fun b => { b with validSec := b.validSec + 1 }
  let ses := isSes pct a.blocks a.errored (a.defect || reset)
  let wasUas := e.near.uas
  let e := e.side false
    { ses := ses, es := ses || 0 < a.errored, bbe := if ses then 0 else a.errored, age15 := a15, age24 := a24 }
  if ses || wasUas || !evalFar then e.breakRun true
  else
    let fses := isSes pct a.blocks a.feErrored a.feDefect
    e.side true
      { ses := fses, es := fses || 0 < a.feErrored, bbe := if fses then 0 else a.feErrored, age15 := a15, age24 := a24 }

/-! ### Alerts (R185 to R187) -/

/-- R187: an entry of the log. -/
def State.pmonLog (s : State) (n : Lane) (sec ty ix id kind clear value : Nat) : State :=
  let e := s.get (fPMON_STATUS_LOG_NEXT n)
  let s := s.setNat (aPMON_LOG n e 0) sec
  let s := s.setNat (aPMON_LOG n e 1) (sec / 2 ^ 32 % 2 ^ 16 + 2 ^ 16 * ty + 2 ^ 24 * ix)
  let s := s.setNat (aPMON_LOG n e 2) (id + kind * 256 + clear * 512)
  let s := s.setNat (aPMON_LOG n e 3) value
  (s.set (fPMON_STATUS_LOG_NEXT n) (e + 1)).raise (fPMON_ALARM_TCA n)

/-- A counter of R185 by its id. -/
def Bin.counter (b : Bin) : Nat → Nat
  | 0 => b.es | 1 => b.ses | 2 => b.uas | 3 => b.bbe | 4 => b.feEs | 5 => b.feSes | 6 => b.feUas | _ => b.feBbe

/-- R185: the counters of a current bin that reach their thresholds for the first time. -/
def State.dueAlerts (s : State) (n : Lane) (ty kind : Nat) (b : Bin) : List Nat :=
  (List.range 8).filter fun d =>
    let thr := s.nat (aPMON_TCA_THR n (16 * ty + 8 * kind + d))
    thr != 0 && thr ≤ b.counter d && !b.alerted.contains d

/-- R185: the alerts of one entity after a second. -/
def State.alerts (s : State) (n : Lane) (sec key : Nat) : State :=
  let e := (s.lane n).pmon.ent key
  let d15 := s.dueAlerts n (entType key) 0 e.cur15
  let d24 := s.dueAlerts n (entType key) 1 e.cur24
  let log := fun (kind : Nat) (b : Bin) (s : State) (d : Nat) =>
    s.pmonLog n sec (entType key) (entIndex key) d kind 0 (b.counter d)
  let s := d15.foldl (log 0 e.cur15) s
  let s := d24.foldl (log 1 e.cur24) s
  if d15.isEmpty && d24.isEmpty then s
  else s.modPmon n fun p => p.putEnt key
    { e with cur15 := { e.cur15 with alerted := e.cur15.alerted ++ d15 }
             cur24 := { e.cur24 with alerted := e.cur24.alerted ++ d24 } }

/-- R173 to R176, R185: one second of one entity of a lane: its results, the unavailability it shows, its alerts. -/
def State.evalEntity (s : State) (n : Lane) (g : SecGather) (key : Nat) (a : SecAcc) : State :=
  let before := ((s.lane n).pmon.ent key).near.uas
  let pct := s.get (fPMON_CFG_SES_PCT n)
  let s := s.modPmon n fun p => p.modEnt key fun e => e.second pct g.age15 g.age24 a g.laneReset !g.zr
  let e := (s.lane n).pmon.ent key
  let ix := entIndex key
  let s :=
    if key = 0 then (s.setB (fPMON_STATUS_SEC_UAS n) e.near.uas).setB (fPMON_STATUS_SEC_FE_UAS n) e.far.uas
    else
      let r := if key ≤ 128 then aPMON_PATH_UAS n (ix / 32) else aPMON_TRIB_UAS n (ix / 32)
      s.setReg r (setFld (s.reg r) (ix % 32) 1 (b2n e.near.uas))
  let s := s.raiseIf (e.near.uas && !before) (fPMON_ALARM_UAS n)
  s.alerts n g.sec key

/-- R172 to R176: an ended second of a lane. -/
def State.evalSecond (s : State) (n : Lane) (g : SecGather) : State :=
  let keys := if g.live then
      (0, g.section_) :: ((g.paths.filter fun p => !p.2.dead).map fun p => (entKey 1 p.1, p.2))
        ++ ((g.tribs.filter fun p => !p.2.dead).map fun p => (entKey 2 p.1, p.2))
    else []
  let s := if g.laneReset || g.zr then s.modPmon n fun p => p.mapEnts fun e => e.marks g else s
  let s := s.modPmon n fun p =>
    { p with ents := p.ents.map fun x =>
        if (keys.any fun k => k.1 == x.1) then x else (x.1, (x.2.breakRun false).breakRun true) }
  let s := keys.foldl (fun s k => s.evalEntity n g k.1 k.2) s
  if keys.isEmpty then s else s.setWide (aPMON_SECOND n) g.sec

/-- R172, R179: 10 µs have passed since the end of an ended second. -/
def State.evalDue (s : State) (g : SecGather) : Bool :=
  match g.due with
  | some c => c ≤ s.clk
  | none => 1000010000 + 1000000000 * g.sec ≤ s.tb0

/-- R172: the ended seconds of a lane whose time has come. -/
def State.evalLane (s : State) (n : Lane) : State :=
  let gs := (s.lane n).pmon.ended.filter s.evalDue
  gs.foldl (fun s g => s.evalSecond n g) (s.modPmon n fun p => { p with ended := p.ended.filter fun g => !s.evalDue g })

/-- PLU cycles in 10 µs. -/
def evalCycles : Nat := 6250

/-- R172, R179: time passes until the evaluation of an ended second: 10 µs after its end. -/
def State.waitEval (s : State) (g : SecGather) : State :=
  match g.due with
  | some c => s.waitClk c
  | none => s.waitTb 0 (1000010000 + 1000000000 * g.sec)

/-- R172: 10 µs after the end of the second in progress, or of a second that has ended and waits, every lane is
evaluated in one PLU cycle. -/
def execPmonSecondEval (s : State) : Ans :=
  if !s.up then .next s
  else
    let s := s.eachLane fun n s => s.touch n
    let s := s.waitEval ((allLanes.findSome? fun n => (s.lane n).pmon.ended.head?).getD (s.lane 0).pmon.gather)
    let s := s.eachLane fun n s => s.touch n
    .next (s.eachLane fun n s => s.evalLane n)

/-! ### Bins (R177 to R183) -/

/-- The FEC counters that the section's bins follow: CORR_IN, CW, FAIL_IN, UNCORR_BLK, UNCORR_LF (R181). -/
def State.fecCounts (s : State) (n : Lane) : List Nat :=
  [1, 0, 3, 7, 8].map fun j => s.wide (aFEC_CNT n j)

/-- The increases since `base` enter a bin. -/
def Bin.fecAdd (b : Bin) (d : List Nat) : Bin :=
  { b with fecCorr := b.fecCorr + d.getD 0 0, fecCw := b.fecCw + d.getD 1 0, fecFail := b.fecFail + d.getD 2 0
           fecUncorrBlk := b.fecUncorrBlk + d.getD 3 0, fecUncorrLf := b.fecUncorrLf + d.getD 4 0 }

/-- The increases of the FEC counters since they were last taken into the bins. -/
def PmonState.fecDelta (p : PmonState) (now : List Nat) : List Nat := List.zipWith (· - ·) now p.fecBase

/-- R181: what FEC_ITER_PEAK adds to the current bins: it, where it has risen since they last took it. -/
def PmonState.peakNow (p : PmonState) (peak : Nat) : Nat := if p.peakBase < peak then peak else 0

def Bin.peakAdd (b : Bin) (peak : Nat) : Bin := { b with iterPeak := max b.iterPeak peak }

/-- R181: FEC_ITER_PEAK taken into the section's current bins. -/
def PmonState.peakTake (p : PmonState) (peak : Nat) : PmonState :=
  { p.modEnt 0 fun e => e.modCur fun b => b.peakAdd (p.peakNow peak) with peakBase := peak }

/-- The FEC increases taken into the section's current bins. -/
def PmonState.fecTake (p : PmonState) (now : List Nat) : PmonState :=
  { p.modEnt 0 fun e => e.modCur fun b => b.fecAdd (p.fecDelta now) with fecBase := now }

/-- R176: before the FEC counters of a lane are reset, their increases and the peak enter the bins. -/
def State.fecFlush (s : State) (n : Lane) : State :=
  s.modPmon n fun p =>
    { (p.fecTake (s.fecCounts n)).peakTake (s.nat (aFEC_ITER_PEAK n)) with fecBase := [0, 0, 0, 0, 0], peakBase := 0 }

/-- A run of seconds grows older by a rotation. -/
def Avail.older (a : Avail) (day : Bool) : Avail :=
  { a with run := a.run.map fun r => if day then { r with age24 := r.age24 + 1 } else { r with age15 := r.age15 + 1 } }

/-- R177, R178: the current bin of a kind closes and a new one opens at `start`, with its nominal length; the bin
displaced to the second place becomes final. -/
def Entity.rotate (day : Bool) (start nominal : Nat) (e : Entity) : Entity :=
  let shift := fun (c : Bin) (h : List Bin) (k : Nat) => (c :: modAt h 0 fun b => b.flag 0).take k
  let e := { e with near := e.near.older day, far := e.far.older day }
  let fresh : Bin := { start := start, nominal := nominal }
  if day then { e with cur24 := fresh, hist24 := shift e.cur24 e.hist24 7 }
  else { e with cur15 := fresh, hist15 := shift e.cur15 e.hist15 32 }

/-- R177: the rotation that a Level with `Q15` (and `D24` if `day`) makes on every lane, the new bins starting at
`start15` and `start24`. -/
def State.rotateBins (s : State) (q15 d24 : Bool) (start15 start24 : Nat) : State :=
  let len := fun (period start : Nat) => nextBoundary s.utcOfs period start - start
  s.eachLane fun n s =>
    (s.touch n).modPmon n fun p =>
      let p := (p.fecTake (s.fecCounts n)).peakTake (s.nat (aFEC_ITER_PEAK n))
      let p := { p with ended := p.ended.map fun g => { g with age15 := g.age15 + b2n q15, age24 := g.age24 + b2n d24 } }
      let p := if q15 then p.mapEnts (Entity.rotate false start15 (len 900 start15)) else p
      if d24 then p.mapEnts (Entity.rotate true start24 (len 86400 start24)) else p

/-- R179: every current bin gains SUSPECT. -/
def State.suspectBins (s : State) : State :=
  s.eachLane fun n s =>
    let had := bitOf ((s.lane n).pmon.ent 0).cur15.flags 1
    (s.modPmon n fun p => p.mapEnts fun e => e.modCur fun b => b.flag 1).raiseIf (!had) (fPMON_ALARM_SUSPECT n)

/-- R180: the current bins of a kind span a change of the UTC offset by `delta`; `closing`, the bin closes at the
change, else its length changes by `delta`. -/
def Bin.utcChange (b : Bin) (delta : Int) (closing : Option Nat) : Bin :=
  let len := match closing with
    | some t => t - b.start
    | none => ((b.nominal : Int) + delta).toNat
  { b.flag 7 with nominal := len }

/-- R182: a Course changed what an entity monitors. -/
def State.mapChange (s : State) (n : Lane) (key : Nat) : State :=
  s.modPmon n fun p => p.modEnt key fun e => e.modCur fun b => b.flag 4

/-- R178: 10 s after the boundary at which the current bin of a kind opened, the bin before it becomes final. -/
def execBinFinal (day : Bool) (s : State) : Ans :=
  let e := (s.lane 0).pmon.ent 0
  let start := if day then e.cur24.start else e.cur15.start
  if start = 0 then .next s
  else
    let s := s.waitTb 0 (10000000000 + 1000000000 * start)
    .next (s.eachLane fun n s => s.modPmon n fun p => p.mapEnts fun e =>
      if day then { e with hist24 := modAt e.hist24 0 fun b => b.flag 0 }
      else { e with hist15 := modAt e.hist15 0 fun b => b.flag 0 })

/-- R183: the current bins cleared: START, nominal length and flags stay, HOST_CLEARED is set. -/
def Bin.clear (b : Bin) : Bin :=
  ({ start := b.start, nominal := b.nominal, flags := b.flags, alerted := b.alerted } : Bin).flag 3

/-- R183: a write of 1 to CLR_CUR. -/
def State.clearBins (s : State) (n : Lane) : State :=
  s.modPmon n fun p =>
    ((p.fecTake (s.fecCounts n)).peakTake (s.nat (aFEC_ITER_PEAK n))).mapEnts fun e => e.modCur Bin.clear

def execPmonClrCur (n : Lane) (s : State) : Ans := .next (s.hostWrite (aPMON_CTRL n) fun s => s.clearBins n)

/-! ### Metrics (R184, R186) -/

/-- R184: the five metrics: OSNR, Q, CD, DGD, SOP rate. -/
def State.metricsNow (s : State) (n : Lane) : List Int :=
  [(s.nat (aRXD_OSNR n) : Int), (s.nat (aRXD_Q n) : Int), s.int (aRXD_CD_EST n), (s.nat (aRXD_DGD n) : Int),
   (s.nat (aRXD_SOP_RATE n) : Int)]

def Metric.take (m : Metric) (first : Bool) (x : Int) : Metric :=
  { min := if first || x < m.min then x else m.min, sum := m.sum + x, max := if first || m.max < x then x else m.max }

def Bin.sample (b : Bin) (xs : List Int) : Bin :=
  { b with samples := b.samples + 1
           metrics := List.zipWith (fun m x => m.take (b.samples == 0) x) b.metrics xs }

/-- R186: the gauges: index, metric, whether low is the alert, the state bit. -/
def State.gauge (s : State) (n : Lane) (xs : List Int) (g metric : Nat) (low : Bool) (bit : Fld) : State :=
  let set := s.get (fPMON_TCA_GAUGE_SET n g)
  let clr := s.get (fPMON_TCA_GAUGE_CLR n g)
  let x := xs.getD metric 0
  let was := s.is bit
  if set = 0 then s
  else
    let up := if low then x < (set : Int) else (set : Int) < x
    let down := if low then (clr : Int) ≤ x else x ≤ (clr : Int)
    if !was && up then (s.setB bit true).pmonLog n s.tb0Sec 0 0 (8 + g) 0 0 (ofSigned 32 x)
    else if was && down then (s.setB bit false).pmonLog n s.tb0Sec 0 0 (8 + g) 0 1 (ofSigned 32 x)
    else s

/-- R186: SET = 0 disables a gauge and clears it; R187: the clearing is logged, with the value of the metric then (log entry
52). -/
def State.gaugeOff (s : State) (n : Lane) (g : Nat) : State :=
  let bit := [fPMON_STATUS_GAUGE_OSNR n, fPMON_STATUS_GAUGE_Q n, fPMON_STATUS_GAUGE_DGD n, fPMON_STATUS_GAUGE_SOP n].getD g
    (fPMON_STATUS_GAUGE_SOP n)
  if s.get (fPMON_TCA_GAUGE_SET n g) = 0 && s.is bit then
    (s.setB bit false).pmonLog n s.tb0Sec 0 0 (8 + g) 0 1
      (ofSigned 32 ((s.metricsNow n).getD ([0, 1, 3, 4].getD g 0) 0))
  else s

/-- R184, R186: a sample at a 10 ms instant of TB0 while RXD is in TRACKING. -/
def execPmonMetricSample (n : Lane) (s : State) : Ans :=
  let unit := 10000000
  let next := divUp s.tb0 unit * unit
  let due := if (s.lane n).pmon.lastSample = some next then next + unit else next
  if s.laneUp n && s.get (fRXD_STATE_STATE n) = 7 then
    let s := s.waitTb 0 due
    let s := s.touch n
    let xs := s.metricsNow n
    let s := s.modPmon n fun p =>
      { p.modEnt 0 fun e => e.modCur fun b => b.sample xs with lastSample := some due }
    let s := s.gauge n xs 0 0 true (fPMON_STATUS_GAUGE_OSNR n)
    let s := s.gauge n xs 1 1 true (fPMON_STATUS_GAUGE_Q n)
    let s := s.gauge n xs 2 3 false (fPMON_STATUS_GAUGE_DGD n)
    .next (s.gauge n xs 3 4 false (fPMON_STATUS_GAUGE_SOP n))
  else .next s

/-! ### Records (R181) -/

/-- R181, R182: the words of a bin; a bin that never was reads 0. -/
def Bin.words (b : Bin) : List Nat :=
  let flags := if b.validSec < b.nominal then Nat.lor b.flags 4 else b.flags
  let lo := fun (v : Nat) => v % 2 ^ 32
  let hi := fun (v : Nat) => v / 2 ^ 32 % 2 ^ 32
  let m := fun (x : Metric) =>
    if b.samples = 0 then [0, 0, 0]
    else [ofSigned 32 x.min, ofSigned 32 (Int.tdiv x.sum b.samples), ofSigned 32 x.max]
  [lo b.start, b.start / 2 ^ 32 % 2 ^ 16 + 2 ^ 16 * (flags % 2 ^ 16), lo b.validSec, lo b.es, lo b.ses, lo b.uas,
   lo b.bbe, hi b.bbe, lo b.feEs, lo b.feSes, lo b.feUas, lo b.feBbe, hi b.feBbe, lo b.blocks, hi b.blocks,
   lo b.fecCorr, hi b.fecCorr, lo b.fecCw, hi b.fecCw, lo b.fecFail, hi b.fecFail, lo b.fecUncorrBlk,
   hi b.fecUncorrBlk, lo b.fecUncorrLf, hi b.fecUncorrLf, b.iterPeak, lo b.samples] ++ b.metrics.flatMap m

/-- R177: bin `b` of an entity; the FEC increases and the peak since the last taking belong to the section's current bins. -/
def Entity.bin (e : Entity) (delta : List Nat) (peak b : Nat) : List Nat :=
  let old := fun (h : List Bin) (k : Nat) => match h[k]? with | some x => x.words | none => List.replicate 42 0
  if b = 0 then ((e.cur15.fecAdd delta).peakAdd peak).words
  else if b ≤ 32 then old e.hist15 (b - 1)
  else if b = 33 then ((e.cur24.fecAdd delta).peakAdd peak).words
  else old e.hist24 (b - 34)

/-- R181: the record of an entity's bin: 42 words for the section, the first 15 for a path or tributary. -/
def PmonState.record (p : PmonState) (fec : List Nat) (peak ty ix b : Nat) : List Nat :=
  if ty = 0 then (p.ent 0).bin (p.fecDelta fec) (p.peakNow peak) b
  else if ty = 3 then List.replicate 42 0
  else (((p.ent (entKey ty ix)).bin [] 0 b).take 15) ++ List.replicate 27 0

/-- R188: word `w` of the record window of lane `n`, as PMON_SEL selects. -/
def State.pmonRec (s : State) (p : PmonState) (fec : List Nat) (n w : Nat) : Nat :=
  (p.record fec (s.nat (aFEC_ITER_PEAK n)) (s.get (fPMON_SEL_TYPE n)) (s.get (fPMON_SEL_INDEX n)) (s.get (fPMON_SEL_BIN n))).getD w 0

end Sys2Proof.Machine
end

