-- ==== Sys2Proof/Machine/Plu.lean ====
section
/-!
DEFINITION. The Plumb unit (10_plumb_unit.md): references and their monitors, selection, states, phase steps, holdover,
OSCIN and the clock outputs.
-/

namespace Sys2Proof.Machine

/-- PLU cycles in a millisecond and in a second. -/
def cyclesMs : Nat := 625000
def cyclesSec : Nat := 625000000

def State.modPlu (s : State) (f : PluState → PluState) : State := { s with plu := f s.plu }
def State.modRef (s : State) (r : Nat) (f : RefState → RefState) : State :=
  s.modPlu fun p => { p with refs := modAt p.refs r f }
def State.ref (s : State) (r : Nat) : RefState := s.plu.refs.getD r {}

/-- PLU selects and judges: not in cold reset, boot hold, reset or its safe state (R435, R443, R457). -/
def State.pluRuns (s : State) : Bool := s.up && !s.held 12 && !s.safe 11

/-! ### Clock outputs (R249, R250) -/

/-- R249: an output is held low in a state by its SQUELCH code. -/
def squelched (code state : Nat) : Bool :=
  if code = 0 then false else if code = 1 then state == 4 else state == 0 || state == 3 || state == 4

/-- R249: ACTIVE of every output. -/
def State.showOutputs (s : State) : State :=
  (List.range 4).foldl (fun s k =>
    let f := s.get (fPLU_CLKOUT_FREQ k)
    s.setB (fPLU_CLKOUT_ACTIVE k)
      (f != 0 && f != 7 && !squelched (s.get (fPLU_CLKOUT_SQUELCH k)) (s.get fPLU_STATE_STATE))) s

/-! ### The output: frequency, steps and pulls (R235, R242 to R245) -/

/-- Phase is kept in units of 1.6 × 10^-9 ps: an offset of 10^-12 makes one in a PLU cycle.  This is the number in a ps. -/
def phaseUnits : Nat := 625000000

/-- R243: the slope limit of SLOPE × 0.5 ns/s, as an offset in 10^-12. -/
def State.slopeLim (s : State) : Nat := 500 * s.get fPLU_LOOP_SLOPE

/-- R243: the slope limit with the sign of a distance. -/
def State.toward (s : State) (d : Int) : Int :=
  if 0 < d then s.slopeLim else if d < 0 then -(s.slopeLim : Int) else 0

/-- R245: what is left of the remaining step, in phase units. -/
def State.stepLeft (s : State) : Int := s.int aPLU_PHASE_STEP * phaseUnits - s.plu.stepFrac

/-- R242, R243: the trajectory: during a pull, the frequency at which it began; else the frequency aimed at, which a change
beyond the slope limit approaches by that limit at once and after each second (log entry 83). -/
def State.trajectory (s : State) : Int :=
  if s.is fPLU_STATE_PULLING then s.plu.base
  else
    let room : Int := (1 + (s.clk - s.plu.goalFrom) / cyclesSec) * s.slopeLim
    clampI (s.plu.base - room) (s.plu.base + room) s.plu.goal

/-- R235, R242, R243, R245, R252: the output frequency in 10^-12: the trajectory, and the slope of a step or else of a pull;
frozen in PLU reset. -/
def State.outFreq (s : State) : Int :=
  match s.plu.frozen with
  | some (_, f, _) => f
  | none =>
    s.trajectory + (if s.nat aPLU_PHASE_STEP ≠ 0 then s.toward s.stepLeft
      else if s.is fPLU_STATE_PULLING then s.toward s.plu.gap else 0)

/-- R235: what takes `fs` femtoseconds at the nominal frequency of a clock that the DPLL drives, in fs of PLU time. -/
def State.dpllFs (s : State) (fs : Nat) : Nat := fs * 10 ^ 12 / (10 ^ 12 + s.outFreq).toNat

/-- R242: what a reference gains on the trajectory of a pull, in 10^-12. -/
def State.drift (s : State) : Int := s.int (aPLU_REF_FREQ (s.get fPLU_STATE_SEL_REF)) - s.plu.base

/-- R245: the part of the remaining step moved since the last call, in phase units, and the whole ps completed. -/
def State.stepMotion (s : State) : Int :=
  let room : Int := s.slopeLim * (s.clk - s.plu.stepFrom)
  clampI (-room) room s.stepLeft
def State.stepMoved (s : State) : Int := Int.tdiv (s.plu.stepFrac + s.stepMotion) phaseUnits

/-- R243, R245: a pull moves with what the step leaves of the slope: the distance to its target now. -/
def State.gapNow (s : State) : Int :=
  let d := s.clk - s.plu.stepFrom
  let room : Int := s.slopeLim * d - s.stepMotion.natAbs
  let g := s.plu.gap + s.drift * d
  if s.is fPLU_STATE_PULLING then g - clampI (-room) room g else s.plu.gap

/-- R245: the completed part of a step passes from the remaining step to PLU_PHASE_OFS, which saturates; a remaining step
that reaches 0 sets STEP_DONE.  A pull moves with what the step leaves of the slope, and PLU_PHASE_ERR shows how far it is
from its target. -/
def State.settleStep (s : State) : State :=
  let m := s.stepMoved
  let rest := s.int aPLU_PHASE_STEP - m
  let frac := if rest = 0 then 0 else s.plu.stepFrac + s.stepMotion - m * phaseUnits
  let gap := s.gapNow
  let s := s.modPlu fun p => { p with stepFrom := s.clk, stepFrac := frac, gap := gap }
  let s := s.raiseIf (m ≠ 0 && rest = 0) fPLU_ALARM_STEP_DONE
  let s := s.setInt aPLU_PHASE_OFS (clampI (-2147483648) 2147483647 (s.int aPLU_PHASE_OFS + m))
  let s := s.setInt aPLU_PHASE_STEP rest
  if s.is fPLU_STATE_PULLING then
    s.setInt aPLU_PHASE_ERR (clampI (-2147483648) 2147483647 (-(Int.tdiv gap phaseUnits)))
  else s

/-- PLU_FREQ shows the output frequency. -/
def State.showFreq (s : State) : State := s.setInt aPLU_FREQ s.outFreq

/-- R242: the output aims at a frequency: from where it is, once a pull is left or the last aim is reached. -/
def State.aim (s : State) (f : Int) : State :=
  let o := s.outFreq
  if s.is fPLU_STATE_PULLING || o = s.plu.goal then
    s.modPlu fun p => { p with base := o, goal := f, goalFrom := s.clk }
  else s.modPlu fun p => { p with goal := f }

/-- What PLU's registers show of running quantities: the step, the pull and the frequency, PLU_HOLD_TIME and QUAL_S. -/
def State.pluRefresh (s : State) : State :=
  if s.held 12 then s
  else
    let s := s.settleStep.showFreq
    let s := match s.plu.holdFrom with
      | some c => s.setNat aPLU_HOLD_TIME ((s.clk - c) / cyclesSec)
      | none => s
    (List.range 32).foldl (fun s r => match (s.ref r).qualAt with
      | some c => s.set (fPLU_REF_STATUS_QUAL_S r) (min 65535 ((s.clk - c) / cyclesSec))
      | none => s) s

/-! ### References (R236, R237) -/

/-- R192: the lanes a port owns. -/
def portWidth (type class_ rate : Nat) : Nat :=
  if type = 2 then rate
  else
    let w106 := [1, 2, 4, 8, 0].getD rate 0
    let w212 := [0, 1, 2, 4, 8].getD rate 0
    if class_ = 0 then w106 else w212

def State.portLanes (s : State) (p : Nat) : Nat :=
  portWidth (s.get (fCLI_PORT_CFG_TYPE p)) (s.get (fCLI_PORT_CFG_CLASS p)) (s.get (fCLI_PORT_CFG_RATE p))

/-- The enabled port that owns a SerDes lane. -/
def State.portOfLane (s : State) (l : Nat) : Option Nat :=
  (List.range 64).find? fun p =>
    let first := s.get (fCLI_PORT_CFG_FIRST_LANE p)
    s.is (fCLI_PORT_CFG_EN p) && first ≤ l && l < first + s.portLanes p

/-- R190: the type and rate class in which a SerDes lane runs; none where no enabled port owns it: it is powered down, its
output at 0 mV. -/
def State.serdes (s : State) (l : Nat) : Option (Nat × Nat) :=
  (s.portOfLane l).map fun p => (s.get (fCLI_PORT_CFG_TYPE p), s.get (fCLI_PORT_CFG_CLASS p))

/-- R236: the validity condition of a reference. -/
def State.refValid (s : State) (r : Nat) : Bool :=
  if r < 8 then !s.held r && s.get (fCONV_STATE_ADC_STATE r) == 2 && s.get (fRXD_STATE_STATE r) == 7
  else if r < 24 then
    s.is (fCLI_RCLK_SEL_EN (r - 8)) &&
    (match s.portOfLane (s.get (fCLI_RCLK_SEL_LANE (r - 8))) with
     | some p => s.get (fCLI_PORT_STATUS_STATE p) == 3
     | none => false)
  else if r < 28 then s.is (fPLU_REFIN_CFG_EN (r - 24))
  else fld (s.reg aTIME_STATUS) (4 * (r - 28)) 3 == 3

/-- R237: a reference is a 1PPS input. -/
def State.isPps (s : State) (r : Nat) : Bool := 24 ≤ r && r < 28 && s.get (fPLU_REFIN_CFG_FREQ (r - 24)) == 0

/-- R237: QUALIFIED re-judged: the three monitors have held together for QUAL_MS, no FREQ_DISAGREE, no ACQ_HOLD, and
OSCIN runs (R248); one that is QUALIFIED stays so, whatever QUAL_MS has become, while the rest holds. -/
def State.judgeRef (s : State) (r : Nat) : State :=
  let st := s.reg (aPLU_REF_STATUS r)
  let good := fld st 0 3 == 7 && s.plu.oscin
  let since := if good then some (((s.ref r).goodSince).getD s.clk) else none
  let s := s.modRef r fun x => { x with goodSince := since }
  let held := match since with
    | some c => fld st 3 1 == 1 || decide (cyclesMs * s.get fPLU_QUAL_QUAL_MS ≤ s.clk - c)
    | none => false
  let now := held && fld st 4 2 == 0
  if now && fld st 3 1 = 0 then
    (s.setB (fPLU_REF_STATUS_QUALIFIED r) true).modRef r fun x => { x with qualAt := some s.clk }
  else s.setB (fPLU_REF_STATUS_QUALIFIED r) now

/-! ### Disagreement (R241) -/

/-- R241: the references that are PRESENT, FREQ_OK and VALID. -/
def State.goodRefs (s : State) : List Nat := (List.range 32).filter fun r => fld (s.reg (aPLU_REF_STATUS r)) 0 3 == 7

/-- R241: those of some references that stand in an enabled entry of a rank. -/
def State.rankRefs (s : State) (good : List Nat) (prio : Nat) : List Nat :=
  good.filter fun r =>
    (List.range 16).any fun e => s.get (fPLU_PRIO_PRIO e) == prio && s.get (fPLU_PRIO_REF e) == r

/-- R241: the references of a rank that a limit (10^-12) marks: with a strict majority that agrees pairwise, those
outside it; otherwise every one that disagrees with another. -/
def disagreeing (freq : Nat → Int) (limit : Int) (rs : List Nat) : List Nat :=
  let near := fun (a b : Nat) => (freq a - freq b).natAbs ≤ limit.toNat
  let window := fun (a : Nat) => rs.filter fun b => freq a ≤ freq b && near a b
  let best := rs.foldl (fun w a => if (w.length : Nat) < (window a).length then window a else w) []
  if 3 ≤ rs.length && rs.length < 2 * best.length then rs.filter fun r => !best.contains r
  else rs.filter fun r => rs.any fun q => !near r q

/-- R241: the references that a limit marks, over every rank. -/
def State.disagreers (s : State) (limit : Int) : List Nat :=
  let good := s.goodRefs
  (List.range 15).flatMap fun p => disagreeing (fun r => s.int (aPLU_REF_FREQ r)) limit (s.rankRefs good (p + 1))

/-- R241: FREQ_DISAGREE of every reference: set at once beyond 4.6 ppm; the time of agreement within 4.1 ppm runs.  Every
reference's qualification follows. -/
def State.checkDisagree (s : State) : State :=
  let out := s.disagreers 4600000
  let near := s.disagreers 4100000
  let s := (List.range 32).foldl (fun s r =>
    if out.contains r then
      (s.setB (fPLU_REF_STATUS_FREQ_DISAGREE r) true).modRef r fun x => { x with agreeSince := none }
    else if near.contains r then s.modRef r fun x => { x with agreeSince := none }
    else s.modRef r fun x => { x with agreeSince := some (x.agreeSince.getD s.clk) }) s
  let s := s.raiseIf (!out.isEmpty) fPLU_ALARM_FREQ_DISAGREE
  (List.range 32).foldl (fun s r => s.judgeRef r) s

/-! ### Selection (R238 to R240, R242) -/

/-- The selected entry; none is 0x1F. -/
def State.selEntry (s : State) : Nat := s.get fPLU_STATE_SEL_ENTRY

/-- R239, R241: an entry is a candidate. -/
def State.isCand (s : State) (e : Nat) : Bool :=
  let r := s.get (fPLU_PRIO_REF e)
  let st := s.reg (aPLU_REF_STATUS r)
  s.get (fPLU_PRIO_PRIO e) != 0 &&
  (fld st 3 1 == 1 || (e == s.selEntry && r == s.get fPLU_STATE_SEL_REF && fld st 0 3 == 7 && fld st 5 1 == 0
    && fld st 4 1 == 1))

/-- R239: the best of some entries: lowest PRIO, then lowest index. -/
def State.bestEntry (s : State) (es : List Nat) : Option Nat :=
  es.foldl (fun b e => match b with
    | none => some e
    | some x => if s.get (fPLU_PRIO_PRIO e) < s.get (fPLU_PRIO_PRIO x) then some e else some x) none

/-- The selection shown: entry, reference and the SELECTED bits.  The second in which a selected reference ceases to be one
is kept (R246). -/
def State.showSel (s : State) (e : Option Nat) : State :=
  let old := s.get fPLU_STATE_SEL_REF
  let s := if old < 32 then s.setB (fPLU_REF_STATUS_SELECTED old) false else s
  match e with
  | none =>
    let s := if old < 32 then s.modPlu fun p => { p with ceased := s.tb0Sec } else s
    (s.set fPLU_STATE_SEL_ENTRY 0x1F).set fPLU_STATE_SEL_REF 0x3F
  | some e =>
    let r := s.get (fPLU_PRIO_REF e)
    ((s.set fPLU_STATE_SEL_ENTRY e).set fPLU_STATE_SEL_REF r).setB (fPLU_REF_STATUS_SELECTED r) true

/-- R236, R243: half the period of a reference in ps: the nearest edge lies within it. -/
def State.halfPeriod (s : State) (r : Nat) : Int :=
  if r < 8 then 355
  else if r < 24 then 376
  else if r < 28 then [500000000000, 50000, 20000, 3200].getD (s.get (fPLU_REFIN_CFG_FREQ (r - 24))) 3200
  else 800

/-- R243: the gap of a pull that starts now, in phase units: to the nearest edge or pulse of the selected reference, whose
place is free within half its period (log entry 81), plus PLU_PHASE_OFS. -/
def State.pullGap (s : State) : Int :=
  let r := s.get fPLU_STATE_SEL_REF
  let half := s.halfPeriod r
  (clampI (-half) half (Config.edgeGap s.clk r) + s.int aPLU_PHASE_OFS) * phaseUnits

/-- R242 to R244: entry to ACQUIRING: a pull starts from the output phase and frequency now, and holdover time returns
to 0. -/
def State.acquire (s : State) : State :=
  let s := s.settleStep
  let gap := s.pullGap
  let o := s.outFreq
  let s := s.modPlu fun p => { p with base := o, goal := o, goalFrom := s.clk, gap := gap, gap0 := gap.natAbs }
  let s := ((s.set fPLU_STATE_STATE 1).setB fPLU_STATE_PULLING true).setNat aPLU_HOLD_TIME 0
  (s.modPlu fun p => { p with acqFrom := s.clk, lockedSince := none, holdFrom := none, limitHit := false }).showOutputs

/-- R239: a switch. -/
def State.switchTo (s : State) (e : Nat) : State :=
  ((s.showSel (some e)).addCnt aPLU_SWITCH_CNT 1).acquire.raise fPLU_ALARM_SWITCH

/-- R246: the mean over the WIN seconds of history that end GUARD seconds before the selected reference ceased to be a
candidate, in 10^-12. -/
def State.holdMean (s : State) : Int :=
  let upto := s.plu.ceased - s.get fPLU_HOLD_GUARD
  let xs := (s.plu.hist.filter fun h => h.1 ≤ upto).take (s.get fPLU_HOLD_WIN)
  if xs.isEmpty then s.int aPLU_HOLD_FREQ else divNear (xs.foldl (fun a h => a + h.2) 0) xs.length

/-- R242: HOLDOVER entered at a frequency. -/
def State.enterHoldover (s : State) (freq : Int) : State :=
  let s := (s.setInt aPLU_HOLD_FREQ freq).settleStep.aim freq
  let s := ((s.set fPLU_STATE_STATE 3).setB fPLU_STATE_PULLING false).showFreq
  let s := s.modPlu fun p => { p with lockedSince := none, holdFrom := some (p.holdFrom.getD s.clk) }
  ((s.addCnt aPLU_HOLD_CNT 1).showOutputs).raise fPLU_ALARM_HOLDOVER

/-- R242: FREERUN entered, at OSCIN nominal. -/
def State.enterFreerun (s : State) : State :=
  let s := s.settleStep.aim 0
  let s := ((s.set fPLU_STATE_STATE 0).setB fPLU_STATE_PULLING false).showFreq
  (s.modPlu fun p => { p with lockedSince := none }).showOutputs

/-- R242: LOST entered, the last frequency held. -/
def State.enterLost (s : State) : State :=
  let s := s.settleStep.aim s.trajectory
  let s := ((s.set fPLU_STATE_STATE 4).setB fPLU_STATE_PULLING false).showFreq
  (s.modPlu fun p =>
    { p with lockedSince := none, holdFrom := some (p.holdFrom.getD s.clk) }).showOutputs.raise fPLU_ALARM_LOST

/-- R242: no candidate in FREERUN, ACQUIRING or LOCKED: HOLDOVER with a valid history, else FREERUN; HOLDOVER and LOST
stay. -/
def State.holdOrFree (s : State) : State :=
  let st := s.get fPLU_STATE_STATE
  if st = 3 || st = 4 then s
  else if s.is fPLU_STATE_HIST_VALID then s.enterHoldover s.holdMean
  else if st = 0 then s else s.enterFreerun

/-- R242: OSCIN has been present for 1 s. -/
def State.oscinSteady (s : State) : Bool :=
  s.plu.oscin && (match s.plu.oscinBack with | some c => cyclesSec ≤ s.clk - c | none => true)

/-- R239: the selection re-evaluated. -/
def State.select (s : State) : State :=
  if !s.pluRuns || !s.is fPLU_CTRL_EN then s
  else
    let sel := s.selEntry
    let live := sel < 16 && s.isCand sel && s.get (fPLU_PRIO_REF sel) == s.get fPLU_STATE_SEL_REF
    let forced := s.is fPLU_CTRL_FORCE_HOLD
    if live && !forced then
      let better := (List.range 16).filter fun e =>
        s.isCand e && s.get (fPLU_PRIO_PRIO e) < s.get (fPLU_PRIO_PRIO sel) && s.is (fPLU_PRIO_REVERT e) &&
        (match (s.ref (s.get (fPLU_PRIO_REF e))).qualAt with
         | some c => cyclesSec * s.get (fPLU_PRIO_WTR e) ≤ s.clk - c
         | none => false)
      match s.bestEntry better with
      | some e => s.switchTo e
      | none => s
    else
      let s := s.raiseIf (sel < 16 && !live) fPLU_ALARM_SEL_FAIL
      let s := s.showSel none
      let cands := if forced || !s.oscinSteady then [] else (List.range 16).filter s.isCand
      match s.bestEntry cands with
      | some e => s.switchTo e
      | none => s.holdOrFree

/-- R239, R241: the monitors or the table have changed: the pairs are compared again, then the selection. -/
def State.reselect (s : State) : State := s.checkDisagree.select

/-- R236, R237: VALID follows its condition, but in PLU reset; a reference that is not PRESENT and VALID is not FREQ_OK until
it has been judged again (the worked example before R253). -/
def State.refUpdate (s : State) (r : Nat) : State :=
  let s := if s.held 12 then s else s.setB (fPLU_REF_STATUS_VALID r) (s.refValid r)
  let both := fld (s.reg (aPLU_REF_STATUS r)) 0 1 == 1 && fld (s.reg (aPLU_REF_STATUS r)) 2 1 == 1
  let s := if both then s else s.setB (fPLU_REF_STATUS_FREQ_OK r) false
  s.modRef r fun x => { x with from_ := if both then some (x.from_.getD s.tb0) else none }

/-- What a reference stands on has changed: its monitors, then comparison and selection. -/
def State.refChanged (s : State) (r : Nat) : State := (s.refUpdate r).reselect

/-- R236: a reference's validity condition starts or ends. -/
def execRefValidChange (r : Fin 32) (s : State) : Ans := if s.pluRuns then .next (s.refChanged r) else .next s

/-- R237: no edge or pulse arrives in time. -/
def execRefActivityLoss (r : Fin 32) (s : State) : Ans :=
  if s.pluRuns then .next ((s.setB (fPLU_REF_STATUS_PRESENT r) false).refChanged r) else .next s

/-- R237: edges or pulses arrive. -/
def execRefActivityReturn (r : Fin 32) (s : State) : Ans :=
  if s.pluRuns then .next ((s.setB (fPLU_REF_STATUS_PRESENT r) true).refChanged r) else .next s

/-! ### Frequency windows (R237) and the end of a disagreement (R241) -/

/-- R242: in `LOCKED`, and in `ACQUIRING` once the pull has ended, the output runs at the selected reference's frequency. -/
def State.pluTrack (s : State) : State :=
  let st := s.get fPLU_STATE_STATE
  let r := s.get fPLU_STATE_SEL_REF
  if r < 32 && (st == 2 || (st == 1 && !s.is fPLU_STATE_PULLING)) then (s.aim (s.int (aPLU_REF_FREQ r))).showFreq else s

/-- R237: the length of a reference's frequency window in ns of TB0: 10 ms, 16 s for 1PPS. -/
def State.windowLen (s : State) (r : Nat) : Nat := if s.isPps r then 16000000000 else 10000000

/-- The end of the window that ends next. -/
def State.windowDue (s : State) (r : Nat) : Nat :=
  let len := s.windowLen r
  let due := divUp s.tb0 len * len
  if (s.ref r).window = some due then due + len else due

/-- R237: what a frequency window that ends at `due` finds: a measured offset in 10^-12.  A window that does not lie wholly
after the reference became PRESENT and VALID judges nothing. -/
def State.freqJudge (s : State) (r due : Nat) (freq : Int) : State :=
  match (s.ref r).from_ with
  | none => s
  | some t =>
    if due < t + s.windowLen r then s
    else
      let lim := 100000 * s.get fPLU_QUAL_FREQ_LIM
      let was := s.is (fPLU_REF_STATUS_FREQ_OK r)
      let ok := if was then freq.natAbs ≤ lim else 10 * freq.natAbs ≤ 9 * lim
      let s := (s.settleStep.setInt (aPLU_REF_FREQ r) freq).setB (fPLU_REF_STATUS_FREQ_OK r) ok
      s.pluTrack.refChanged r

/-- R237: a frequency window of 10 ms of TB0 (16 s for 1PPS) ends. -/
def execRefFreqWindow (r : Fin 32) (freq : Int) (s : State) : Ans :=
  if !s.pluRuns then .next s
  else
    let due := s.windowDue r
    let s := (s.waitTb 0 due).modRef r fun x => { x with window := some due }
    .next (s.freqJudge r due freq)

/-- R237: the monitors have held for QUAL_MS. -/
def execRefQualified (r : Fin 32) (s : State) : Ans :=
  match (s.ref r).goodSince with
  | none => .next s
  | some c =>
    if !s.pluRuns then .next s
    else
      let s := s.waitClk (c + cyclesMs * s.get fPLU_QUAL_QUAL_MS)
      .next ((s.judgeRef r).select)

/-- R241: agreement has held for QUAL_MS. -/
def execFreqDisagreeClear (r : Fin 32) (s : State) : Ans :=
  match (s.ref r).agreeSince with
  | none => .next s
  | some c =>
    if !s.pluRuns || !s.is (fPLU_REF_STATUS_FREQ_DISAGREE r) then .next s
    else
      let s := s.waitClk (c + cyclesMs * s.get fPLU_QUAL_QUAL_MS)
      .next (((s.setB (fPLU_REF_STATUS_FREQ_DISAGREE r) false).judgeRef r).select)

/-! ### Pull, lock, limits (R242 to R244) -/

/-- R243, R245: the PLU cycles until a pull is within LOCK.THR of its target: the remaining step first, then the gap at the
slope limit, less what the reference drifts away; none where it drifts as fast. -/
def State.pullCycles (s : State) : Option Nat :=
  let n := divUp s.stepLeft.natAbs (max 1 s.slopeLim)
  let g := s.plu.gap + s.drift * n
  let far := phaseUnits * s.get fPLU_LOCK_THR
  let rate : Int := s.slopeLim - (if 0 ≤ g then s.drift else -s.drift)
  if g.natAbs ≤ far then some n
  else if rate ≤ 0 then none
  else some (n + divUp (g.natAbs - far) rate.toNat)

/-- R243, R245: the pull ends: the remaining step has moved, and the phase error, measured as `err` ps, is within LOCK.THR. -/
def execPluPullEnd (err : Int) (s : State) : Ans :=
  if s.pluRuns && s.get fPLU_STATE_STATE = 1 && s.is fPLU_STATE_PULLING && err.natAbs ≤ s.get fPLU_LOCK_THR then
    let s := s.settleStep
    match s.pullCycles with
    | none => .next s
    | some c =>
      let s := (s.waitClk (s.clk + c)).settleStep
      .next (((s.setB fPLU_STATE_PULLING false).setInt aPLU_PHASE_ERR err).modPlu fun p =>
        { p with lockFrom := s.clk, goalFrom := s.clk, gap := 0 }).pluTrack
  else .next s

/-- R242: the phase error has stayed within THR for LOCK.TIME since the pull ended. -/
def execPluLockAchieved (err : Int) (s : State) : Ans :=
  if s.pluRuns && s.get fPLU_STATE_STATE = 1 && !s.is fPLU_STATE_PULLING && err.natAbs ≤ s.get fPLU_LOCK_THR then
    let s := s.waitClk (s.plu.lockFrom + cyclesMs * s.get fPLU_LOCK_TIME)
    let s := ((s.set fPLU_STATE_STATE 2).setInt aPLU_PHASE_ERR err).modPlu fun p => { p with lockedSince := some s.tb0 }
    .next s.pluTrack.showOutputs
  else .next s

/-- R242: in LOCKED the phase error has been beyond THR for LOCK.TIME: ACQUIRING with the same selection.  In ACQUIRING,
once the pull has ended, an error beyond THR restarts the count of LOCK.TIME. -/
def execPluLockLoss (err : Int) (s : State) : Ans :=
  if !s.pluRuns || err.natAbs ≤ s.get fPLU_LOCK_THR then .next s
  else if s.get fPLU_STATE_STATE = 2 then .next (s.acquire.setInt aPLU_PHASE_ERR err)
  else if s.get fPLU_STATE_STATE = 1 && !s.is fPLU_STATE_PULLING then
    .next ((s.setInt aPLU_PHASE_ERR err).modPlu fun p => { p with lockFrom := s.clk })
  else .next s

/-- R244, R245: ACQUIRING has reached its limit, PLU_ACQ_LIMIT after the time that the initial gap and the remaining step
take: ACQ_HOLD on the reference, then the next selection. -/
def execPluAcqLimit (s : State) : Ans :=
  let e := s.selEntry
  if s.pluRuns && s.get fPLU_STATE_STATE = 1 && e < 16 then
    let s := s.settleStep
    let left := divUp (s.plu.gap0 + s.stepLeft.natAbs) (max 1 s.slopeLim)
    let s := s.waitClk (s.plu.acqFrom + cyclesSec * s.nat aPLU_ACQ_LIMIT + left)
    let r := s.get fPLU_STATE_SEL_REF
    let wtr := s.get (fPLU_PRIO_WTR e)
    let s := (s.setB (fPLU_REF_STATUS_ACQ_HOLD r) true).modRef r fun x =>
      { x with holdEnd := some (s.clk + cyclesSec * (if wtr = 0 then 1 else wtr)) }
    .next (((s.raise fPLU_ALARM_ACQ_FAIL).judgeRef r).select)
  else .next s

/-- R244: a reference's ACQ_HOLD ends. -/
def execAcqHoldExpiry (r : Fin 32) (s : State) : Ans :=
  match (s.ref r).holdEnd with
  | none => .next s
  | some c =>
    if !s.pluRuns then .next s
    else
      let s := s.waitClk c
      let s := (s.setB (fPLU_REF_STATUS_ACQ_HOLD r) false).modRef r fun x => { x with holdEnd := none }
      .next ((s.judgeRef r).select)

/-- R239: an entry's reference has been QUALIFIED for its WTR. -/
def execWtrExpiry (e : Fin 16) (s : State) : Ans :=
  match (s.ref (s.get (fPLU_PRIO_REF e))).qualAt with
  | none => .next s
  | some c =>
    if s.pluRuns && s.isCand e then
      .next (s.waitClk (c + cyclesSec * s.get (fPLU_PRIO_WTR e))).select
    else .next s

/-- R242: holdover exceeds PLU_HOLD.LIMIT minutes. -/
def execHoldoverLimit (s : State) : Ans :=
  match s.plu.holdFrom with
  | none => .next s
  | some c =>
    let lim := s.get fPLU_HOLD_LIMIT
    if s.pluRuns && s.get fPLU_STATE_STATE = 3 && lim ≠ 0 then
      let s := s.waitClk (c + cyclesSec * (lim * 60) + 1)
      .next (s.enterLost.modPlu fun p => { p with limitHit := true })
    else .next s

/-! ### OSCIN (R242, R248) -/

/-- R248: OSCIN stops or deviates: the clocks move to the backup oscillator and PLU enters LOST; TIME's time bases that
are locked or acquiring enter HOLDOVER and it accepts no sample (R261, R263), which Time.lean adds. -/
def State.oscinFails (s : State) : State :=
  let s := s.modPlu fun p => { p with oscin := false, oscinBack := none }
  if s.held 12 then s
  else
    let s := (s.setB fPLU_STATE_OSCIN_OK false).raise fPLU_ALARM_OSCIN_FAIL
    let s := (List.range 32).foldl (fun s r => s.judgeRef r) s
    let s := s.raiseIf (s.selEntry < 16) fPLU_ALARM_SEL_FAIL
    ((s.showSel none).modPlu fun p => { p with limitHit := false }).enterLost

/-- R248, R263: OSCIN comes back; the waits of 1 s of PLU and TIME begin. -/
def State.oscinReturns (s : State) : State :=
  let s := s.modPlu fun p => { p with oscin := true, oscinBack := some s.clk }
  if s.held 12 then s
  else (List.range 32).foldl (fun s r => s.judgeRef r) (s.setB fPLU_STATE_OSCIN_OK true)

/-- R242: OSCIN has been present for 1 s: LOST is left for ACQUIRING, HOLDOVER or FREERUN, unless the holdover limit
was reached. -/
def execOscinRestored (s : State) : Ans :=
  if s.pluRuns && s.get fPLU_STATE_STATE = 4 && s.plu.oscin then
    let s := match s.plu.oscinBack with
      | some c => s.waitClk (cyclesSec + c)
      | none => s
    let s := s.select
    if s.get fPLU_STATE_STATE ≠ 4 then .next s
    else
      let lim := s.get fPLU_HOLD_LIMIT
      let outside := lim != 0 && (match s.plu.holdFrom with
        | some c => cyclesSec * (lim * 60) < s.clk - c
        | none => false)
      -- LOST on the holdover limit is left for ACQUIRING alone
      if s.plu.limitHit then .next s
      else if s.is fPLU_STATE_HIST_VALID then
        if outside then .next s else .next (s.enterHoldover s.holdMean)
      else .next s.enterFreerun
  else .next s

/-! ### History and controls (R242, R246) -/

/-- R246: a whole TB0 second in LOCKED ends with its mean frequency in 10^-12. -/
def execPluHistorySecond (freq : Int) (s : State) : Ans :=
  match s.plu.lockedSince with
  | none => .next s
  | some t =>
    if !s.pluRuns || s.get fPLU_STATE_STATE ≠ 2 then .next s
    else
      let first := divUp t 1000000000 + 1
      let next := match s.plu.hist.head? with
        | some h => max first (max (s.tb0Sec) (h.1 + 1))
        | none => max first s.tb0Sec
      let s := s.waitTb 0 (1000000000 * next)
      let s := s.modPlu fun p => { p with hist := ((next, freq) :: p.hist).take 4111 }
      let ok := s.is fPLU_STATE_HIST_VALID || 60 ≤ s.plu.hist.length
      .next (s.showFreq.setB fPLU_STATE_HIST_VALID ok)

/-- R246: the history emptied. -/
def State.clearHist (s : State) : State :=
  (s.modPlu fun p => { p with hist := [] }).setB fPLU_STATE_HIST_VALID false

/-- R246: a write of 1 to CLR_HIST. -/
def execPluClrHist (s : State) : Ans := .next (s.hostWrite aPLU_CTRL State.clearHist)

/-- R242: a write of PLU_CTRL.EN. -/
def State.writePluEn (s : State) (v : Bool) : State :=
  let s := (s.setB fPLU_CTRL_EN v).setB fPLU_STATE_FORCED (v && s.is fPLU_CTRL_FORCE_HOLD)
  if v then s.select
  else
    let s := s.clearHist.showSel none
    if s.plu.oscin then s.enterFreerun else s

def execPluEnWrite (v : Bool) (s : State) : Ans := .next (s.hostWrite aPLU_CTRL fun s => s.writePluEn v)

/-- R242: a write of FORCE_HOLD; leaving it in LOST on the holdover limit needs a candidate as ever. -/
def State.writeForceHold (s : State) (v : Bool) : State :=
  let s := (s.setB fPLU_CTRL_FORCE_HOLD v).setB fPLU_STATE_FORCED (v && s.is fPLU_CTRL_EN)
  s.select

/-- R242, R253: one write of PLU_CTRL: the fields that it gives take effect together. -/
def State.writePluCtrl (s : State) (en force : Option Bool) (clr : Bool) : State :=
  let s := match en, force with
    | some e, some f => (s.setB fPLU_CTRL_FORCE_HOLD f).writePluEn e
    | some e, none => s.writePluEn e
    | none, some f => s.writeForceHold f
    | none, none => s
  if clr then s.clearHist else s

def execPluForceHoldWrite (v : Bool) (s : State) : Ans :=
  .next (s.hostWrite aPLU_CTRL fun s => s.writeForceHold v)

/-- R245: a write of PLU_PHASE_STEP adds to the remaining step, in two's complement of 32 bits; one that brings it to 0
sets STEP_DONE. -/
def State.addPhaseStep (s : State) (v : Word) : State :=
  let s := s.settleStep
  let was := s.nat aPLU_PHASE_STEP
  let s := s.setInt aPLU_PHASE_STEP (s.int aPLU_PHASE_STEP + toSigned 32 v.toNat)
  let s := if s.nat aPLU_PHASE_STEP = 0 then s.modPlu fun p => { p with stepFrac := 0 } else s
  s.raiseIf (was ≠ 0 && s.nat aPLU_PHASE_STEP = 0) fPLU_ALARM_STEP_DONE

def execPluPhaseStepWrite (v : Word) (s : State) : Ans :=
  .next (s.hostWrite aPLU_PHASE_STEP fun s => s.addPhaseStep v)

/-- R245: the remaining step reaches 0 at the slope of R243. -/
def execPluStepDone (s : State) : Ans :=
  if s.held 12 || s.cold || s.nat aPLU_PHASE_STEP = 0 then .next s
  else
    let need := divUp s.stepLeft.natAbs (max 1 s.slopeLim)
    .next (s.waitClk (s.plu.stepFrom + need)).settleStep

/-- R249, R250: a write of PLU_CLKOUTk: refused on CLKOUT3 while TIME drives it, unless it leaves FREQ off; else FREQ
and SQUELCH are taken and the output restarts. -/
def State.writeClkout (s : State) (k : Nat) (v : Word) : State × Code :=
  let code := fld v 0 3
  if k = 3 && s.is (fPLU_CLKOUT_TIME_OWNED 3) && code ≠ 0 && code ≠ 7 then
    (s.raise fPLU_ALARM_RES_BUSY, .resBusy)
  else
    let sq := if fld v 4 2 = 3 then 2 else fld v 4 2
    (((s.set (fPLU_CLKOUT_FREQ k) code).set (fPLU_CLKOUT_SQUELCH k) sq).showOutputs, .ok)

def execClkoutFreqWrite (k : Fin 4) (v : Word) (s : State) : Ans :=
  .next (s.hostWrite (aPLU_CLKOUT k) fun s =>
    let r := s.writeClkout k v
    (r.1.told .pcie (aPLU_CLKOUT k) r.2).1)

/-! ### Reset (R252) -/

/-- R252: PLU enters reset: the output frequency freezes, its registers read their reset values but for the table. -/
def State.pluResetEnter (s : State) : State :=
  let kept := fun a => aPLU_PRIO 0 ≤ a && a < aPLU_PRIO 16
  let fr := (s.get fPLU_STATE_STATE, s.outFreq, !s.plu.oscin)
  let owned := s.is (fPLU_CLKOUT_TIME_OWNED 3)
  let p := s.plu
  let s := { s.resetRange 0x300000 0x400000 kept with
    plu := { refs := List.replicate 32 {}, oscin := p.oscin, oscinBack := p.oscinBack, frozen := some fr } }
  s.setB (fPLU_CLKOUT_TIME_OWNED 3) owned

/-- R252: PLU leaves reset: LOST when OSCIN is failed now, or was at the reset; HOLDOVER at the frozen frequency from
LOCKED or HOLDOVER; else FREERUN. -/
def State.pluResetLeave (s : State) : State :=
  match s.plu.frozen with
  | none => s
  | some (st, freq, failed) =>
    let s := s.modPlu fun p => { p with frozen := none, stepFrom := s.clk, base := freq, goal := freq, goalFrom := s.clk }
    let s := (s.setB fPLU_STATE_OSCIN_OK s.plu.oscin).showFreq
    let s := (List.range 32).foldl (fun s r => s.refUpdate r) s
    if !s.plu.oscin || (st = 4 && failed) then s.enterLost
    else if st = 2 || st = 3 then (s.setB fPLU_STATE_HIST_VALID true).enterHoldover freq
    else s.enterFreerun

end Sys2Proof.Machine
end

