-- ==== Sys2Proof/Machine/Servo.lean ====
section
/-!
DEFINITION. The servos of TB0 to TB2: their states and the samples that they accept (R259 to R263).  A Level shows the
states, so they stand before the Level sequencer.
-/

namespace Sys2Proof.Machine

def State.servo (s : State) (x : Nat) : Servo := (s.tbx x).servo
def State.modServo (s : State) (x : Nat) (f : Servo → Servo) : State :=
  s.modTb x fun t => { t with servo := f t.servo }

/-- Units of a time base in one ps. -/
def unitsPerPs : Nat := 6250000000

/-! ### Servo states and samples (R259 to R263) -/

/-- The state code field of TBx. -/
def fTbState (x : Nat) : Fld := ⟨aTIME_STATUS, 4 * x, 3⟩

/-- R261: TBx enters a state; the runs of update means start anew.  In `FREE` and `HOLDOVER` the time base keeps its last y: the
samples accepted before go (log entry 84). -/
def State.setTbState (s : State) (x v : Nat) : State :=
  let old := s.get (fTbState x)
  let s := (s.set (fTbState x) v).modServo x fun r =>
    if v = 1 || v = 4 then { r with within := 0, beyond := 0, sum := 0, count := 0 } else { r with within := 0, beyond := 0 }
  let s := s.raiseIf (v == 4 && old != 4) fTIME_ALARM_HOLDOVER
  s.raiseIf (x == 0 && old == 3 && v != 3) fTIME_ALARM_UNLOCK0

/-- R263, R435: TIME accepts samples: OSCIN present for 1 s, and TIME not in its safe state. -/
def State.timeAccepts (s : State) : Bool := s.up && s.plu.oscin && !s.is fTIME_STATUS_OSCIN_WAIT && !s.safe 12

/-- R261: a sample has been accepted: `FREE` and `HOLDOVER` are left for `ACQUIRING`. -/
def State.sampled (s : State) (x : Nat) : State :=
  let s := s.modServo x fun r => { r with lastSample := some s.clk }
  let st := s.get (fTbState x)
  if st = 1 || st = 4 then s.setTbState x 2 else s

/-- R259: an offset sample in ps, TBx minus the source. -/
def State.acceptSample (s : State) (x : Nat) (ps : Int) : State :=
  if s.timeAccepts then
    (s.modServo x fun r => { r with sum := r.sum + unitsPerPs * ps, count := r.count + 1 }).sampled x
  else s

/-- R259: the samples of a servo with SRC = `TB`, the difference of the two counters in every PLU cycle since the last
call, enter its sum.  Called before every change of a frequency, a counter or a source. -/
def State.syncTb (s : State) (x : Nat) : State :=
  let n := s.clk - (s.servo x).synced
  let s := s.modServo x fun r => { r with synced := s.clk }
  if n ≠ 0 && s.get (fTIME_TB_SERVO_SRC x) = 4 && s.timeAccepts then
    let a := s.tbx x
    let b := s.tbx (s.get (fTIME_TB_SERVO_IDX x))
    let d : Int := (a.acc : Int) - b.acc
    let k : Int := (a.step : Int) - b.step
    (s.modServo x fun r => { r with sum := r.sum + n * d - k * ((n * (n - 1) / 2 : Nat) : Int), count := r.count + n }).sampled x
  else s

/-- All three servos. -/
def State.syncTbs (s : State) : State := ((s.syncTb 0).syncTb 1).syncTb 2

/-- R260: every step discards the samples accepted before it. -/
def State.dropSamples (s : State) (x : Nat) : State := s.modServo x fun r => { r with sum := 0, count := 0 }

end Sys2Proof.Machine
end

