-- ==== Sys2Proof/Machine/Level.lean ====
section
/-!
DEFINITION. The Level sequencer (R16 to R28, R406, R407, R437, R438).
-/

namespace Sys2Proof.Machine

/-! ### Latching -/

/-- R261: TB0 is locked. -/
def State.tb0Locked (s : State) : Bool := s.get fTIME_STATUS_TB0_STATE == 3

/-- R398: the flags of a Level. -/
def causePeriodic : Nat := 1
def causeQ15 : Nat := 2
def causeD24 : Nat := 4
def causeScheduled : Nat := 8
def causeHost : Nat := 16
def causeLate : Nat := 32
def causeUntrusted : Nat := 64

/-- R13: the islands whose counters a Level freezes. -/
def allIslands : List Island :=
  allLanes.map Island.lrx ++ allLanes.map Island.ltx ++ [.cla, .clb, .core, .ciph, .mgt, .plu, .ksc, .hkm]

/-- R20: PLU cycles after the strobe within which three cycles of the island end. -/
def islandFreeze : Island → Nat
  | .plu => 3 | .ksc => 3 | .hkm => 10 | _ => 2

/-- R21: the objects as a Level latches them, the number of open sessions (0x1019:02) among them. -/
def State.latchObjs (s : State) : List (Nat × List Byte) :=
  assocPut s.objs (0x1019 * 256 + 2) (natBytes 1 s.cop.sessions.length)

/-- What a Level latches beside the registers. -/
def State.levelAux (s : State) : LevelAux :=
  { pmon := allLanes.map fun n => (s.lane n).pmon, lanes := s.time.lanes, clk := s.clk, objs := s.latchObjs,
    nodes := s.cop.nodes, ciph := s.ciph, cstReady := s.cst.ready }

/-- R21, R24: the state with the latched values of a Level in place of the live ones. -/
def State.withLatched (s : State) (regs : Store) (aux : LevelAux) : State :=
  let t := { s with
    regs := regs, clk := aux.clk, objs := aux.objs, ciph := aux.ciph, time := { s.time with lanes := aux.lanes }
    cop := { s.cop with nodes := aux.nodes }
    cst := { s.cst with ready := aux.cstReady } }
  t.eachLane fun n t => t.modPmon n fun p => aux.pmon.getD n p

/-- R20: the increments held for an island enter the live counters. -/
def State.flushHeld (s : State) (p : Island → Bool) : State :=
  let mine := s.lvl.heldCounts.filter fun x => p x.1
  let s := mine.foldl (fun s x => s.addNow x.2.1 x.2.2) s
  { s with lvl := { s.lvl with heldCounts := s.lvl.heldCounts.filter fun x => !p x.1 } }

/-- A bank free under R24 and R26: not the latest complete one, not held, no copy in progress. -/
def LevelSeq.freeBank (l : LevelSeq) : Option Nat :=
  (List.range 3).find? fun k =>
    l.latest != some k && (l.held.map (·.2)) != some k &&
    (match l.banks.getD k .empty with | .copying _ => false | _ => true)

/-- R27: the oldest waiting Level starts its copy if a bank is free. -/
def LevelSeq.startCopy (l : LevelSeq) : LevelSeq :=
  match l.stage, l.freeBank with
  | x :: rest, some k => { l with stage := rest, banks := setAt l.banks k (.copying x) }
  | _, _ => l

/-- The Level of a bank. -/
def Bank.level : Bank → Option Level
  | .empty => none
  | .copying l => some l
  | .complete l => some l

/-- A Level wherever it stands, changed. -/
def LevelSeq.modLevel (l : LevelSeq) (number : Nat) (f : Level → Level) : LevelSeq :=
  let g := fun (x : Level) => if x.number = number then f x else x
  { l with
    stage := l.stage.map g
    banks := l.banks.map fun b => match b with
      | .copying x => .copying (g x)
      | .complete x => .complete (g x)
      | .empty => .empty }

/-- What restarts on a lane at a Level: FEC_ITER_PEAK (R138), once the bins hold it (R181), and the SOP peak (R97); a
LEVEL capture triggers (R64). -/
def State.levelRestart (s : State) (n : Lane) : State :=
  let t := s.modPmon n fun p => { p.peakTake (s.nat (aFEC_ITER_PEAK n)) with peakBase := 0 }
  let t := (t.setNat (aFEC_ITER_PEAK n) 0).modRxd n fun r => { r with sopFresh := true }
  if s.is (fCONV_CAP_STATUS_ARMED n) && s.get (fCONV_CAP_CTRL_TRIG n) = 2 then
    t.modConv n fun c => { c with capFire := true }
  else t

/-- What restarts at a Level: the quantities of every lane, and the peaks of HKM (R347). -/
def State.levelRestarts (s : State) : State :=
  let s := s.eachLane fun n s => s.levelRestart n
  { s with hkm := { s.hkm with fresh := List.range 64 } }

/-- R20: held events enter their counters, and running quantities are brought up to the instant. -/
def State.upToDate (s : State) : State := (s.flushHeld fun _ => true).pluRefresh.syncTbs

/-- What a strobe does before it latches: bins, while TB0 is not locked, become SUSPECT (R179), and those of its causes
rotate (R177). -/
def State.strobeBins (s : State) (q15 d24 : Bool) (start15 start24 : Nat) : State :=
  let s := if s.tb0Locked then s else s.suspectBins
  let s := if q15 || d24 then s.rotateBins q15 d24 start15 start24 else s
  let s := if s.tb0Locked then s else s.suspectBins
  { s with lvl := { s.lvl with
      last15 := if q15 then start15 else s.lvl.last15, last24 := if d24 then start24 else s.lvl.last24 } }

/-- A Level of the sequencer by its number, in the capture stages or a bank. -/
def LevelSeq.find (l : LevelSeq) (number : Nat) : Option Level :=
  (l.stage ++ l.banks.filterMap Bank.level).find? fun x => x.number == number

/-- The values that this PLU cycle latches, where they are no longer the live ones: those of the Level that a strobe of
this cycle has made (R18, R19), or those from before the Course items that have applied in it (R40). -/
def State.latchedNow (s : State) : Option (Store × LevelAux) :=
  if s.lvl.strobe = some s.clk then (s.lvl.find s.lvl.number).map fun x => (x.regs, x.aux)
  else match s.crs.before with
  | some (c, v) => if c = s.clk then some v else none
  | none => none

/-- R40: items of a Course are about to apply in this PLU cycle: what a Level of the same cycle latches is kept. -/
def State.keepBefore (s : State) : State :=
  if s.latchedNow.isSome then s
  else { s with crs := { s.crs with before := some (s.clk, s.upToDate.regs, s.upToDate.levelAux) } }

/-- R18, R19: causes that fall on the PLU cycle of the last strobe merge into its Level; `regs` and `aux` are the values
that it latched, with the rotation that the causes make (R177). -/
def LevelSeq.merge (l : LevelSeq) (causes flags : Nat) (regs : Store) (aux : LevelAux) : LevelSeq :=
  let m := l.modLevel l.number fun x => { x with causes := Nat.lor x.causes flags, regs := regs, aux := aux }
  { m with hostLevel := if bitOf causes 4 then some l.number else l.hostLevel }

/-- R18, R20, R23, R27: a Level of the next number enters the capture stages, and starts its copy where none waits. -/
def LevelSeq.fresh (l : LevelSeq) (clk causes flags inst : Nat) (regs : Store) (aux : LevelAux) : LevelSeq :=
  let number := (l.number + 1) % 2 ^ 32
  let x : Level := { number := number, inst := inst, causes := flags, regs := regs, aux := aux }
  let m := { l with
    number := number, strobe := some clk, stage := l.stage ++ [x], frozen := allIslands
    hostLevel := if bitOf causes 4 then some number else l.hostLevel }
  if l.stage.isEmpty then m.startCopy else m

/-- R321: the bin of now, as a Level latches it; none while TB3 stands on or past the end of the bin (R177). -/
def State.cstBinsNow (s : State) : Option (CstBin × Option CstBin) :=
  let c := s.cst
  if c.state ≠ 0 && 0 < c.cur15.end_ && c.cur15.end_ ≤ c.tb3.acc / unitsPerNs / 1000000000 then none
  else some (c.cur15, c.old.map (·.1))

/-- R22, R321: Cornerstone, where it is ready, latches at the strobe of a new Level. -/
def State.cstStrobe (s : State) : State :=
  if !s.cst.ready then s
  else
    let x : CstSnap :=
      { number := s.lvl.number, ns := s.cst.tb3.acc / unitsPerNs, state := s.cst.state, bins := s.cstBinsNow }
    { s with cst := { s.cst with snaps := s.cst.snaps ++ [x] } }

/-- R16 to R27: a Level strobe acts in this PLU cycle with causes, its TB0 instant, and the starts of the bins it
opens. -/
def State.strobe (s : State) (causes inst start15 start24 : Nat) : State :=
  let flags := if s.tb0Locked then causes else Nat.lor causes causeUntrusted
  let rot := fun (t : State) => t.strobeBins (bitOf causes 1) (bitOf causes 2) start15 start24
  let t := rot s.upToDate
  let v := match s.latchedNow with
    | some v => rot (s.withLatched v.1 v.2)
    | none => t
  if s.lvl.strobe = some s.clk then { t with lvl := t.lvl.merge causes flags v.regs v.levelAux }
  else ({ t with lvl := t.lvl.fresh t.clk causes flags inst v.regs v.levelAux } : State).levelRestarts.cstStrobe

/-- R18: the first ns of TB0 that does not lie before this PLU cycle: an instant falls on the first cycle at which TB0 has
reached it. -/
def State.dueFrom (s : State) : Nat :=
  let t := s.tbx 0
  if t.acc < t.step then 0 else (t.acc - t.step) / unitsPerNs + 1

/-- R16: a Level with cause `PERIODIC` at the next multiple of the period. -/
def execLevelPeriodic (s : State) : Ans :=
  let p := 1000000 * s.get fGLB_LVL_PERIOD_MS
  if s.cold || p = 0 then .next s
  else
    let due := divUp s.dueFrom p * p
    let due := if due ≤ s.lvl.lastPer then (s.lvl.lastPer / p + 1) * p else due
    let s := s.waitTb 0 due
    .next ({ s with lvl := { s.lvl with lastPer := due } }.strobe causePeriodic due 0 0)

/-- R17: the next boundary of a period not before this PLU cycle and after `last`, in seconds. -/
def State.dueBoundary (s : State) (period : Nat) (last : Int) : Nat :=
  let t := divUp s.dueFrom 1000000000
  let b := nextBoundary s.utcOfs period (t - 1)
  let b := if t = 0 then nextBoundary s.utcOfs period 0 else b
  if (b : Int) ≤ last then nextBoundary s.utcOfs period last.toNat else b

/-- R17: a Level with cause `Q15` at the next 15-minute boundary later than the START of the current bin (R28). -/
def execLevelQ15 (s : State) : Ans :=
  if s.cold then .next s
  else
    let b := s.dueBoundary 900 s.lvl.last15
    let s := s.waitTb 0 (1000000000 * b)
    .next (s.strobe causeQ15 (1000000000 * b) b 0)

/-- R17: a Level with cause `D24` at the next 24-hour boundary later than the START of the current bin. -/
def execLevelD24 (s : State) : Ans :=
  if s.cold then .next s
  else
    let b := s.dueBoundary 86400 s.lvl.last24
    let s := s.waitTb 0 (1000000000 * b)
    .next (s.strobe causeD24 (1000000000 * b) 0 b)

/-- R16, R407: the scheduled Level of a slot; the slot empties. -/
def execLevelScheduled (slot : Fin 16) (s : State) : Ans :=
  match s.lvl.slots.getD slot none with
  | none => .next s
  | some t =>
    if s.cold then .next s
    else
      let s := s.waitTb 0 t
      .next ({ s with lvl := { s.lvl with slots := setAt s.lvl.slots slot none } }.strobe causeScheduled t 0 0)

/-- R16, R27: an immediate Level at the next PLU cycle, refused while an earlier `HOST` Level has not completed its
copy. -/
def State.hostLevelNow (s : State) (by_ : Source) : State :=
  if s.lvl.hostLevel.isSome then s.refuse by_ aGLB_LVL_CTRL .resBusy .resBusy
  else
    let s := s.elapse 1
    (s.strobe causeHost s.tb0 0 0).answer by_ .ok

/-- R27, R438: a request for an immediate Level through GLB_LVL_CTRL.NOW or 0x6F00:05. -/
def execLevelHost (by_ : Source) (s : State) : Ans :=
  .next (s.byWrite by_ aGLB_LVL_CTRL fun s => s.hostLevelNow by_)

/-- R20: three cycles of an island after the strobe its freeze ends and the held events enter its counters. -/
def execLevelFreezeEnd (isl : Island) (s : State) : Ans :=
  if s.lvl.frozen.contains isl then
    let s := s.waitClk ((s.lvl.strobe.getD 0) + islandFreeze isl)
    let s := s.flushHeld fun i => i == isl
    .next { s with lvl := { s.lvl with frozen := s.lvl.frozen.filter fun x => x != isl } }
  else .next s

/-- R27: the oldest Level waiting in the capture stages starts its copy. -/
def execLevelCopyStart (s : State) : Ans := .next { s with lvl := s.lvl.startCopy }

/-- Whether Level number `a` comes before `b` (R23). -/
def levelBefore (a b : Nat) : Bool := serialGt b a

/-- The bank whose copy has the lowest number. -/
def LevelSeq.oldestCopy (l : LevelSeq) : Option (Nat × Level) :=
  (List.range 3).foldl
    (fun best k => match l.banks.getD k .empty, best with
      | .copying x, none => some (k, x)
      | .copying x, some (j, y) => if levelBefore x.number y.number then some (k, x) else some (j, y)
      | _, b => b)
    none

/-- R409: the copy of a Level has completed: each enabled stream whose MASK shares a cause with it counts it, and every
DIV-th makes a sample due; one that has not left by then is dropped. -/
def State.streamsDue (s : State) (x : Level) : State :=
  (List.range 16).foldl (fun s i =>
    let ix := 0x1300 + i
    if s.obj ix 1 0 = 0 || Nat.land x.causes (s.obj ix 3 1) = 0 then s
    else
      let n := s.cop.streamCount.getD i 0 + 1
      let div := max 1 (s.obj ix 4 1)
      let s := { s with cop := { s.cop with streamCount := setAt s.cop.streamCount i (if n < div then n else 0) } }
      if n < div then s
      else
        let s := if s.cop.due.any fun d => d.1 == i then s.bumpObj ix 7 8 1 else s
        { s with cop := { s.cop with due := (s.cop.due.filter fun d => d.1 != i) ++ [(i, x.number)] } }) s

/-- R24: the copy of the oldest Level being copied completes and its bank becomes the latest. -/
def execLevelCopyComplete (s : State) : Ans :=
  match s.lvl.oldestCopy with
  | none => .next s
  | some (k, x) =>
    let l := { s.lvl with
      banks := setAt s.lvl.banks k (.complete x), latest := some k
      hostLevel := if s.lvl.hostLevel = some x.number then none else s.lvl.hostLevel }
    .next ((({ s with lvl := l } : State).raise fGLB_ALARM_LEVEL).streamsDue x)

/-! ### Scheduling, holds (R406, R407, R438) -/

/-- R407: a scheduled Level time written to a slot: zero empties it; a time less than 50 µs ahead is refused. -/
def State.scheduleSlot (s : State) (by_ : Source) (slot ns : Nat) : State :=
  if ns ≠ 0 && ns < 50000 + s.tb0 then s.refuse by_ (aGLB_LVL_SCH slot + 8) .levelLate .levelLate
  else
    let v := if ns = 0 then none else some ns
    ({ s with lvl := { s.lvl with slots := setAt s.lvl.slots slot v } } : State).answer by_ .ok

/-- R407: a write of a slot, GLB_LVL_SCHs_2 over PCIe or 0x6F10 over COP. -/
def execLevelScheduleWrite (by_ : Source) (slot : Fin 16) (t : Time80) (s : State) : Ans :=
  .next (s.byWrite by_ (aGLB_LVL_SCH slot + 8) fun s =>
    (s.setTime80 (aGLB_LVL_SCH slot) (timeNs t)).scheduleSlot by_ slot (timeNs t))

/-- R406, R438: a hold of the latest complete bank. -/
def State.holdLevel (s : State) (by_ : Source) : State :=
  match s.lvl.latest with
  | none => s.refuse by_ aGLB_LVL_CTRL .levelGone .levelGone
  | some k =>
    match s.lvl.held with
    | some (h, _) =>
      if h = by_ then ({ s with lvl := { s.lvl with held := some (by_, k) } } : State).answer by_ .ok
      else s.refuse by_ aGLB_LVL_CTRL .resBusy .resBusy
    | none => ({ s with lvl := { s.lvl with held := some (by_, k) } } : State).answer by_ .ok

/-- R406: a request for a hold. -/
def execLevelHold (by_ : Source) (s : State) : Ans :=
  .next (s.byWrite by_ aGLB_LVL_CTRL fun s => s.holdLevel by_)

/-- R26: a holder's hold ends; another holder's stays. -/
def State.releaseLevel (s : State) (by_ : Source) : State :=
  match s.lvl.held with
  | some (h, _) => if h = by_ then { s with lvl := { s.lvl with held := none } } else s
  | none => s

/-- R26, R438: a release by its holder. -/
def execLevelRelease (by_ : Source) (s : State) : Ans :=
  .next (s.byWrite by_ aGLB_LVL_CTRL fun s => (s.releaseLevel by_).answer by_ .ok)

/-- R437: a write of 1 to GLB_LVL_STAT.MIX. -/
def State.clearMix (s : State) : State := (s.setB fGLB_LVL_STAT_MIX false).setB fGLB_LVL_STAT_LAST_VALID false

/-- R437: the write of GLB_LVL_STAT.MIX. -/
def execLevelMixClear (s : State) : Ans := .next (s.hostWrite aGLB_LVL_STAT State.clearMix)

/-! ### What the registers and objects of the Level show (R436, R441) -/

/-- The latest complete Level. -/
def State.latestLevel (s : State) : Option Level :=
  match s.lvl.latest with
  | none => none
  | some k => (s.lvl.banks.getD k .empty).level

/-- R20: the Level whose latched values a register of a frozen island shows. -/
def State.frozenLevel (s : State) (a : Nat) : Option Level :=
  if s.lvl.frozen.contains (s.islandOf a) then s.lvl.find s.lvl.number else none

/-- The held Level, of whichever holder. -/
def State.heldLevel (s : State) : Option Level :=
  match s.lvl.held with
  | none => none
  | some (_, k) => (s.lvl.banks.getD k .empty).level

/-- R438: the holder code: 0 none, 1 PCIe, 2 COP. -/
def State.holderCode (s : State) : Nat :=
  match s.lvl.held with
  | none => 0
  | some (.pcie, _) => 1
  | some (.cop _, _) => 2

/-- R436: the Level that serves a PCIe read: the one PCIe holds when SRC = 1, else the latest. -/
def State.servingLevel (s : State) : Option Level :=
  if s.is fGLB_LVL_CTRL_SRC then
    match s.lvl.held with
    | some (.pcie, k) => (s.lvl.banks.getD k .empty).level
    | _ => s.latestLevel
  else s.latestLevel

/-- R406: the Level a LEVEL_READ selector names. -/
def State.selectLevel (s : State) (sel : Nat) : Option Level :=
  if sel = 0xFFFFFFFF then s.latestLevel
  else if sel = 0xFFFFFFFE then s.heldLevel
  else (s.lvl.banks.findSome? fun b => match b with
    | .complete l => if l.number = sel then some l else none
    | _ => none)

/-- A TIME80 value in ns as three register words (R255). -/
def time80Word (ns k : Nat) : Nat :=
  if k = 0 then ns % 1000000000 else if k = 1 then ns / 1000000000 % 2 ^ 32 else ns / 1000000000 / 2 ^ 32 % 2 ^ 16

/-- R441: the Level registers of GLB that show the sequencer; `none` for every other address. -/
def State.levelView (s : State) (a : Nat) : Option Nat :=
  if a = aGLB_LVL_STAT then some (s.nat aGLB_LVL_STAT % 4 + 4 * s.holderCode)
  else if a = aGLB_LVL_LATEST then some ((s.latestLevel.map (·.number)).getD 0)
  else if a = aGLB_LVL_HELD then
    some (match s.lvl.held with | some (.pcie, _) => (s.heldLevel.map (·.number)).getD 0 | _ => 0)
  else if aGLB_LVL_INST ≤ a && a < aGLB_LVL_INST + 12 then
    some (time80Word ((s.latestLevel.map (·.inst)).getD 0) ((a - aGLB_LVL_INST) / 4))
  else if a = aGLB_LVL_CAUSES then some ((s.latestLevel.map (·.causes)).getD 0)
  else if aGLB_LVL_SCH 0 ≤ a && a < aGLB_LVL_SCH 16 then
    let d := a - aGLB_LVL_SCH 0
    if d % 16 < 12 then some (time80Word ((s.lvl.slots.getD (d / 16) none).getD 0) (d % 16 / 4)) else none
  else none

/-! ### Levels at a step of TB0 (R28) -/

/-- R28: TB0 has stepped from `old` to `new` ns: forward across scheduled instants and boundaries it produces one Level
with `LATE`, which closes the bins at the latest boundary crossed.  DESIGN CHOICE (log entry 88): an instant or a boundary on which the
step lands exactly is not crossed; its ordinary Level follows, without `LATE`. -/
def State.lateLevel (s : State) (old new : Nat) : State :=
  let sec := fun (t : Nat) => t / 1000000000
  let crossed := indexesWhere 16 fun k => match s.lvl.slots.getD k none with
    | some t => old < t && t < new
    | none => false
  let last := fun (period : Nat) => lastBoundary s.utcOfs period (sec (new - 1))
  let b15 := last 900
  let b24 := last 86400
  let fwd := old < new
  let q15 := fwd && (old : Int) < 1000000000 * b15 && s.lvl.last15 < b15
  let d24 := fwd && (old : Int) < 1000000000 * b24 && s.lvl.last24 < b24
  let s := { s with lvl := { s.lvl with
      lastPer := 0
      slots := if fwd then crossed.foldl (fun l k => setAt l k none) s.lvl.slots else s.lvl.slots } }
  if fwd && (q15 || d24 || !crossed.isEmpty) then
    let c := causeLate + (if q15 then causeQ15 else 0) + (if d24 then causeD24 else 0)
      + (if crossed.isEmpty then 0 else causeScheduled)
    s.strobe c new b15.toNat b24.toNat
  else s

end Sys2Proof.Machine
end

