-- ==== Sys2Proof/Machine/Tap.lean ====
section
/-!
DEFINITION. What the core die sends into the one-way taps of Cornerstone (R14, R311, R314): delivered line frames, what a
client port sends, and which entities exist.
-/

namespace Sys2Proof.Machine

def State.modCst (s : State) (f : CstState → CstState) : State := { s with cst := f s.cst }

/-- The key of a tributary and of a port (R313). -/
def tribKey (lane head : Nat) : Nat := 128 * lane + head
def portKey (p : Nat) : Nat := 1024 + p

/-- R313: the entities that exist now; while the core die is reset, the set last reported (R315). -/
def State.cstEntities (s : State) : List Nat :=
  if !s.up then s.cst.reported
  else
    (allLanes.flatMap fun n => if (s.rxFmt n).family = 0 then (s.rxGroups n).map fun g => tribKey n g.head else [])
      ++ ((List.range 64).filter fun p => s.get (fCLI_PORT_STATUS_STATE p) != 0).map portKey

/-- An entity does not exist at this moment. -/
def State.tapGone (s : State) (key : Nat) : State :=
  if s.cst.live.contains key then s.modCst fun c => { c with live := c.live.filter fun k => k != key } else s

/-- An entity's entry in a bin changed. -/
def CstBin.modEnt (b : CstBin) (key : Nat) (f : CstEntry → CstEntry) : CstBin :=
  { b with ents := assocPut b.ents key (f ((assocGet b.ents key).getD {})) }

/-- Both current bins changed alike. -/
def State.cstBins (s : State) (f : CstBin → CstBin) : State :=
  s.modCst fun c => { c with cur15 := f c.cur15, cur24 := f c.cur24 }

/-- A flag of R324 on both current bins. -/
def State.cstFlag (s : State) (k : Nat) : State := s.cstBins fun b => { b with flags := Nat.lor b.flags (2 ^ k) }

/-- An entry's flag of R323. -/
def State.cstEntFlag (s : State) (key k : Nat) : State :=
  s.cstBins fun b => b.modEnt key fun e => { e with flags := Nat.lor e.flags (2 ^ k) }

/-- R323: a Course changed an entity's slots or type. -/
def State.tapChange (s : State) (key : Nat) : State := if s.cst.ready then s.cstEntFlag key 1 else s

/-- A port sends an intact frame of `octets`, or stomps or drops one. -/
def State.tapPort (s : State) (p octets frames bad : Nat) : State :=
  if !s.cst.ready then s
  else s.modCst fun c =>
    let x := (assocGet c.portTap p).getD (0, 0, 0)
    { c with portTap := assocPut c.portTap p (x.1 + octets, x.2.1 + frames, x.2.2 + bad) }

/-- A delivered LF enters its tap. -/
def State.tapLf (s : State) (t : TapLf) : State :=
  if s.cst.ready then s.modCst fun c => { c with taps := c.taps ++ [t] } else s

/-- The LF last put into the taps, changed. -/
def State.modTap (s : State) (f : TapLf → TapLf) : State :=
  s.modCst fun c => match c.taps.reverse with
    | [] => c
    | t :: rest => { c with taps := (f t :: rest).reverse }

end Sys2Proof.Machine
end

