-- ==== Sys2Proof/Machine/Time.lean ====
section
/-!
DEFINITION. Time bases, servos, line time transfer, PTP, launches and the 1PPS output (11_network_time.md).  A step of
a time base reaches the Course too, so SERVO_UPDATE, TB_SET and TB_STEP stand in Steps.lean.
-/

namespace Sys2Proof.Machine

def State.modTime (s : State) (f : TimeState → TimeState) : State := { s with time := f s.time }
def State.lt (s : State) (n : Nat) : LaneTime := s.time.lanes.getD n {}
def State.modLt (s : State) (n : Nat) (f : LaneTime → LaneTime) : State :=
  s.modTime fun t => { t with lanes := modAt t.lanes n f }

/-! ### Servo sources (R259, R261) -/

/-- R261: no sample for 2 s in ACQUIRING or LOCKED. -/
def execServoSampleTimeout (x : Fin 3) (s : State) : Ans :=
  let st := s.get (fTbState x)
  if s.cold || (st ≠ 2 && st ≠ 3) then .next s
  else
    let s := s.syncTb x
    let due := 2 * cyclesSec + ((s.servo x).lastSample.getD 0)
    if s.get (fTIME_TB_SERVO_SRC x) = 4 && s.timeAccepts then .next s
    else .next ((s.waitClk due).setTbState x 4)

/-- R259: `TB` sources reach back to time base `x` from `y`. -/
def State.tbLoop (s : State) (x : Nat) : Nat → Nat → Bool
  | 0, _ => false
  | n + 1, y =>
    y == x || (y < 3 && s.get (fTIME_TB_SERVO_SRC y) == 4 && s.tbLoop x n (s.get (fTIME_TB_SERVO_IDX y)))

/-- R259: a word of TIME_TBx_SERVO that is not refused. -/
def State.servoOk (s : State) (x : Nat) (v : Word) : Bool :=
  let src := fld v 0 3
  let idx := fld v 4 3
  if src = 2 then x == 0
  else if src = 3 then idx < 4
  else if src = 4 then idx < 3 && !s.tbLoop x 3 idx
  else src != 6 && src != 7

/-- R259, R261: the effect of a write of TIME_TBx_SERVO; SRC = `NONE` leaves every state but `UNSET` for `FREE`. -/
def State.writeServo (s : State) (x : Nat) (v : Word) : State :=
  if s.servoOk x v then
    let s := s.syncTb x
    let bw := if 4 < fld v 8 3 then 4 else fld v 8 3
    let s := s.setReg (aTIME_TB_SERVO x) (setFld (v &&& 0x1777#32) 8 3 bw)
    if fld v 0 3 = 0 && s.get (fTbState x) ≠ 0 then s.setTbState x 1 else s
  else s.raise fTIME_ALARM_CFG_REFUSED

def execServoSrcWrite (x : Fin 3) (v : Word) (s : State) : Ans :=
  .next (s.hostWrite (aTIME_TB_SERVO x) fun s => s.writeServo x v)

/-- R259: a host offset in ps. -/
def State.writeHostOfs (s : State) (x : Nat) (v : Word) : State :=
  if s.get (fTIME_TB_SERVO_SRC x) = 5 then s.acceptSample x (toSigned 32 v.toNat) else s

def execHostOfsWrite (by_ : Source) (x : Fin 3) (v : Word) (s : State) : Ans :=
  .next (s.byWrite by_ (aTIME_TB_HOST_OFS x) fun s => (s.writeHostOfs x v).answer by_ .ok)

/-! ### Timestamps (R255, R265) -/

/-- A reading of a time base in units of 2^-16 ns, `ps` after the present PLU cycle. -/
def State.stamp (s : State) (x ps : Nat) : Nat := 65536 * ((s.tbx x).acc + unitsPerPs * ps) / unitsPerNs

/-- A time base in units of 2^-16 ns, `fs` fs after the present PLU cycle. -/
def State.stampFs (s : State) (x fs : Nat) : Nat := 65536 * (1000 * (s.tbx x).acc + unitsPerPs * fs) / (1000 * unitsPerNs)

/-- R255: a timestamp as 12 bytes: TIME80, then FRAC16. -/
def stampBytes (t : Nat) : List Byte :=
  let ns := t / 65536
  natBytes 6 (ns / 1000000000) ++ natBytes 4 (ns % 1000000000) ++ natBytes 2 (t % 65536)

/-- The timestamp that 12 bytes spell. -/
def stampOfBytes (bs : List Byte) : Nat :=
  65536 * (1000000000 * fieldBytes bs 0 6 + fieldBytes bs 6 4) + fieldBytes bs 10 2

/-- A timestamp in three registers: TIME80, with FRAC16 in word 2 [31:16]. -/
def State.setStamp (s : State) (a t : Nat) : State :=
  let ns := t / 65536
  let sec := ns / 1000000000
  ((s.setNat a (ns % 1000000000)).setNat (a + 4) sec).setNat (a + 8) (sec / 2 ^ 32 % 65536 + 65536 * (t % 65536))

/-- R259, R265: the selected edge of a 1PPS input, `ps` after the present PLU cycle: timestamped on TB0, and a sample
to every servo with SRC = `PPS` on it. -/
def execPpsEdge (i : Fin 4) (ps : Nat) (s : State) : Ans :=
  if !s.up || s.get (fPLU_REFIN_CFG_FREQ i) ≠ 0 || !s.is (fPLU_REFIN_CFG_EN i) then .next s
  else
    let ps := min ps 1599
    let s := s.setStamp (aTIME_PPSIN_TS i) (s.stamp 0 ps)
    .next ((List.range 3).foldl (fun s x =>
      if s.get (fTIME_TB_SERVO_SRC x) = 3 && s.get (fTIME_TB_SERVO_IDX x) = i then
        let t : Int := (((s.tbx x).acc / unitsPerPs + ps : Nat) : Int) - s.int (aTIME_PPSIN_OFS i)
        let r := t % 1000000000000
        s.acceptSample x (if r < 500000000000 then r else r - 1000000000000)
      else s) s)

/-! ### UTC offset (R264, R180) -/

/-- R180: the UTC offset becomes `new` at `ns`, and the bins follow.  The next boundary of a bin
under the new offset is the one that its present one becomes, START and the bin's length and the change of the offset:
R180's table gives that length (log entry 55). -/
def State.utcShift (s : State) (new : Int) (ns : Nat) : State :=
  let at_ := ns / 1000000000
  let delta := new - s.utcOfs
  if delta = 0 then s
  else
    let b := (s.lane 0).pmon.ent 0
    let stays := fun (c : Bin) => (ns : Int) < 1000000000 * ((c.start : Int) + c.nominal + delta)
    let s15 := stays b.cur15
    let s24 := stays b.cur24
    let s := s.set fTIME_UTC_OFS (ofSigned 16 new)
    let s := s.eachLane fun n s => s.modPmon n fun p => p.mapEnts fun e =>
      { e with cur15 := e.cur15.utcChange delta (if s15 then none else some at_)
               cur24 := e.cur24.utcChange delta (if s24 then none else some at_) }
    let s := { s with lvl := { s.lvl with
      last15 := if s15 then max s.lvl.last15 (s.lvl.last15 + delta) else s.lvl.last15
      last24 := if s24 then max s.lvl.last24 (s.lvl.last24 + delta) else s.lvl.last24 } }
    let causes := (if s15 then 0 else causeQ15) + (if s24 then 0 else causeD24)
    if causes = 0 then s else s.strobe causes ns at_ at_

/-- R264: TB0 has reached the change time, at `ns`: OFS takes NEXT. -/
def State.utcAct (s : State) (ns : Nat) : State :=
  let new := s.getI fTIME_UTC_NEXT
  let s := (s.setNat aTIME_UTC_AT 0).modTime fun t => { t with utcHi := 0 }
  if s.utcOfs = new then s else (s.raise fTIME_ALARM_UTC_CHANGE).utcShift new ns

/-- The change time. -/
def State.utcAt (s : State) : Nat := s.nat aTIME_UTC_AT + 2 ^ 32 * s.time.utcHi

/-- R264: in the first PLU cycle in which TB0 is at or above the change time. -/
def execUtcChange (s : State) : Ans :=
  if s.cold || s.utcAt = 0 then .next s
  else
    let late := s.utcAt ≤ s.tb0Sec
    let s := if late then s.elapse 1 else s.waitTb 0 (1000000000 * s.utcAt)
    .next (s.utcAct (if late then s.tb0 else 1000000000 * s.utcAt))

/-- R274: a port takes part in PTP: enabled, bound, the instances running, the client port in `UP`. -/
def State.ptpOn (s : State) (p : Nat) : Bool :=
  s.is fTIME_CTRL_PTP_EN && s.obj (0x2210 + p) 1 0 != 0 && s.get (fCLI_PORT_CFG_TYPE p) == 0
    && s.is (fCLI_PORT_CFG_EN p) && s.get (fCLI_PORT_STATUS_STATE p) == 3

/-- R273, R274: the PTP instance of a time base has a port in SLAVE. -/
def State.ptpSlave (s : State) (x : Nat) : Bool :=
  (List.range 64).any fun p => s.ptpOn p && s.obj (0x2210 + p) 2 0 == x && s.obj (0x2210 + p) 6 3 == 9

/-- R264: host writes of OFS, NEXT and AT are ignored while the instance writes them. -/
def State.utcByPtp (s : State) : Bool := s.get (fTIME_TB_SERVO_SRC 0) == 1 && s.ptpSlave 0

/-- R180, R264: TIME_UTC written: a new offset changes the bins as the scheduled change does (log entry 85). -/
def State.writeUtc (s : State) (v : Word) : State :=
  if s.utcByPtp then s
  else (s.set fTIME_UTC_NEXT (fld v 16 16)).utcShift (toSigned 16 (fld v 0 16)) s.tb0

/-- R264: TIME_UTC_AT written; its high bits are those of TB0 now. -/
def State.writeUtcAt (s : State) (v : Word) : State :=
  if s.utcByPtp then s
  else (s.setReg aTIME_UTC_AT v).modTime fun t =>
    { t with utcHi := if v = 0 then 0 else s.tb0Sec / 2 ^ 32 % 65536 }

/-! ### OSCIN (R248, R261, R263) -/

/-- R435: TIME's safe state, and R261 at an OSCIN failure: the servos hold. -/
def State.servosHold (s : State) (every : Bool) : State :=
  [0, 1, 2].foldl (fun s x =>
    let st := s.get (fTbState x)
    if st = 2 || st = 3 || (every && st ≠ 4) then s.setTbState x 4 else s) s.syncTbs

/-- R248: OSCIN stops or deviates beyond ±200 ppm. -/
def execOscinFail (s : State) : Ans :=
  if s.cold then .next { s with plu := { s.plu with oscin := false, oscinBack := none } }
  else .next (((s.servosHold false).setB fTIME_STATUS_OSCIN_WAIT true).oscinFails)

/-- R263: OSCIN comes back. -/
def execOscinReturn (s : State) : Ans :=
  if s.plu.oscin then .next s
  else if s.cold then .next { s with plu := { s.plu with oscin := true, oscinBack := none } }
  else .next s.oscinReturns

/-- R263: 1 s later TIME accepts samples again. -/
def execTimeOscinWaitEnd (s : State) : Ans :=
  match s.plu.oscinBack with
  | none => .next s
  | some c =>
    if s.cold || !s.plu.oscin || !s.is fTIME_STATUS_OSCIN_WAIT then .next s
    else
      let s := s.waitClk (cyclesSec + c)
      -- the cycles of the wait give no sample to a TB source
      let s := s.syncTbs
      .next (s.setB fTIME_STATUS_OSCIN_WAIT false)

/-! ### Internal delays and line time transfer (R266 to R272) -/

/-- R48, R49, R235, R266: `ps` of nominal cycles of a lane's island clock, which follows the DPLL and a trim in 10^-12, as the
time-base counters measure them. -/
def State.islandPs (s : State) (ps : Nat) (trim : Int) : Nat :=
  ps * (s.tbx 0).step * 10 ^ 11 / ((10 ^ 12 + s.outFreq).toNat * (10 ^ 12 + trim).toNat)

/-- R266: INT_TX, INT_RX and THRU_RX, ps: 72 LTXn cycles and 180 LRXn cycles by the measured period of the island clock. -/
def State.intTx (s : State) (n : Nat) : Nat := s.islandPs 51200 0 + s.nat (aFEC_TX_LAT n) + s.nat (aCONV_TX_LAT n)
def State.intRx (s : State) (n : Nat) : Int :=
  (s.islandPs 128000 (s.int (aCONV_RXSYN_TRIM n)) + s.nat (aCONV_RX_LAT n) : Nat) + divNear (s.int (aRXD_EQ_DELAY n)) 1000

/-- 10 ms, 100 ms and 1 s in PLU cycles bound the ages of R269 and R271. -/
def cycles10ms : Nat := 6250000

/-- A sample held no older than 10 ms. -/
def State.freshPair (s : State) (p : Option (Nat × Nat × Nat)) : Bool :=
  match p with
  | some (_, _, c) => s.clk - c ≤ cycles10ms
  | none => false

/-- R270: the CD asymmetry in ps, and whether both CD values are held. -/
def State.cdAsym (s : State) (n : Nat) : Int × Bool :=
  match (s.lt n).ownCd, (s.lt n).farCd with
  | some a, some b =>
    let ft := s.nat (aTIME_LANE_TXF n)
    let fr := s.nat (aTIME_LANE_RXF n)
    if ft = 0 || fr = 0 || !s.is (fTIME_LANE_CFG_CD_ASYM n) then (0, true)
    else (divNear (299792458000 * (a + b) * ((ft : Int) - fr)) (2 * ft * fr), true)
  | _, _ => (0, false)

/-- R270: the far end's frequencies and this end's differ by more than 1 GHz: WL_MISMATCH. -/
def State.wlJudge (s : State) (n : Nat) : State :=
  match (s.lt n).farFreq with
  | none => s
  | some (txf, rxf) =>
    let off := fun (a b : Nat) => 1000 < ((a : Int) - b).natAbs
    let bad := off txf (s.nat (aTIME_LANE_RXF n)) || off rxf (s.nat (aTIME_LANE_TXF n))
    (s.setB (fTIME_LANE_STATUS_WL_MISMATCH n) bad).raiseIf bad fTIME_ALARM_WL_MISMATCH

/-- R270, R271: a host's write of a lane's line transfer: the frequencies are compared again, and a fallback that the
configuration no longer permits ends. -/
def State.lineWritten (s : State) (n : Nat) : State :=
  let s := s.wlJudge n
  if s.is (fTIME_LANE_CFG_FALLBACK_EN n) && s.is (fTIME_LANE_CFG_KS_RANGE n) then s
  else s.setB (fTIME_LANE_STATUS_FALLBACK n) false

/-- What TIME's registers show of running quantities: R266, the ages of R269 and R271, R270. -/
def State.timeRefresh (s : State) : State :=
  (List.range 8).foldl (fun s n =>
    let s := (s.setNat (aTIME_LANE_INT_TX n) (s.intTx n)).setInt (aTIME_LANE_INT_RX n) (s.intRx n)
    let s := s.setInt (aTIME_LANE_THRU_RX n) (s.intRx n + s.nat (aFEC_RX_LAT n))
    let s := s.setB (fTIME_LANE_STATUS_FWD_OK n) (s.freshPair (s.lt n).fwd)
    let s := s.setB (fTIME_LANE_STATUS_REV_OK n) (s.freshPair (s.lt n).rev)
    let s := s.setB (fTIME_LANE_STATUS_KS_VALID n) (match (s.lt n).ks with
      | some (_, _, _, _, c) => s.clk - c ≤ cyclesSec
      | none => false)
    let a := s.cdAsym n
    (s.setInt (aTIME_LANE_ASYM_CD n) a.1).setB (fTIME_LANE_STATUS_CD_VALID n) a.2) s

/-- R97, R270: the CD estimate of the lane, passed to TIME when it is valid; `none` when the lane enters TRACKING. -/
def State.cdToTime (s : State) (n : Nat) (cd : Option Int) : State :=
  match cd with
  | some x => s.modLt n fun l => { l with ownCd := some x }
  | none => s.modLt n fun l => { l with ownCd := none, farCd := none }

/-- R269: mean path in ps and line offset in ps of two pairs. -/
def linePath (t1 t2 t3 t4 : Nat) : Nat :=
  (divNear (1000 * (((t2 : Int) - t1) + ((t4 : Int) - t3))) 131072).toNat
def lineOfs (t1 t2 t3 t4 : Nat) (asym : Int) : Int :=
  divNear (1000 * (((t2 : Int) - t1) - ((t4 : Int) - t3)) - 65536 * asym) 131072

/-- R269: a line offset reported and, where R269 lets it, delivered to the servo of TB0. -/
def State.lineSample (s : State) (n : Nat) (ofs : Int) (give : Bool) : State :=
  let s := s.setInt (aTIME_LANE_OFFSET n) ofs
  if give && s.get (fTIME_TB_SERVO_SRC 0) = 2 && s.get (fTIME_TB_SERVO_IDX 0) = n then s.acceptSample 0 ofs else s

/-- R271: KSPATH and PATH differ by more than 5 ns, both held: RANGE_MISMATCH. -/
def State.rangeJudge (s : State) (n : Nat) : State :=
  let held := s.freshPair (s.lt n).fwd && s.freshPair (s.lt n).rev && (s.lt n).ks.isSome && s.is (fTIME_LANE_CFG_KS_RANGE n)
  if held && 5000 < ((s.wide (aTIME_LANE_KSPATH n) : Int) - s.wide (aTIME_LANE_PATH n)).natAbs then
    ((s.modLt n fun l => { l with agree := 0 }).setB (fTIME_LANE_STATUS_RANGE_MISMATCH n) true).raise
      fTIME_ALARM_RANGE_MISMATCH
  else s

/-- R269: a new forward or reverse sample has arrived. -/
def State.lineUpdate (s : State) (n : Nat) : State :=
  let s := s.setB (fTIME_LANE_STATUS_FALLBACK n) false
  match (s.lt n).fwd, (s.lt n).rev with
  | some (t1, t2, c), some (t3, t4, d) =>
    if s.clk - c ≤ cycles10ms && s.clk - d ≤ cycles10ms then
      let s := (s.setWide (aTIME_LANE_PATH n) (linePath t1 t2 t3 t4)).rangeJudge n
      let asym := (s.cdAsym n).1 + s.int (aTIME_LANE_ASYM_FIX n)
      s.lineSample n (lineOfs t1 t2 t3 t4 asym)
        (s.is (fTIME_LANE_STATUS_FAR_LOCKED n) && !s.is (fTIME_LANE_STATUS_RANGE_MISMATCH n))
    else s
  | _, _ => s

/-- R269 to R271, R303: a line offset formed from the Keystone result held. -/
def State.ksSample (s : State) (n : Nat) : State :=
  match (s.lt n).ks with
  | some (t1, t2, t3, t4, _) =>
    let asym := (s.cdAsym n).1 + s.int (aTIME_LANE_ASYM_FIX n)
    s.lineSample n (lineOfs t1 t2 t3 t4 asym)
      ((s.lt n).ksLocked && !s.is (fTIME_LANE_STATUS_RANGE_MISMATCH n))
  | none => s

/-- R271, R303: a ranging result of the Keystone channel as the forward pair (t1, t2) and the reverse pair (t3, t4), in
units of 2^-16 ns. -/
def State.rangeResult (s : State) (n t1 t2 t3 t4 : Nat) (locked : Bool) : State :=
  let soon := match (s.lt n).ks with
    | some (_, _, _, _, c) => s.clk - c < 62500000
    | none => false
  if soon || !s.is (fTIME_LANE_CFG_KS_RANGE n) || (s.rxFmt (Fin.ofNat 8 n)).family ≠ 0 then s
  else
    let path := linePath t1 t2 t3 t4
    let s := (s.setWide (aTIME_LANE_KSPATH n) path).modLt n fun l => { l with ks := some (t1, t2, t3, t4, s.clk), ksLocked := locked }
    let held := s.freshPair (s.lt n).fwd && s.freshPair (s.lt n).rev
    let d := ((path : Int) - s.wide (aTIME_LANE_PATH n)).natAbs
    let s :=
      if !held || 5000 < d then s.rangeJudge n
      else if s.is (fTIME_LANE_STATUS_RANGE_MISMATCH n) then
        let k := if d ≤ 3000 then (s.lt n).agree + 1 else 0
        (s.modLt n fun l => { l with agree := if k = 3 then 0 else k }).setB (fTIME_LANE_STATUS_RANGE_MISMATCH n) (k != 3)
      else s
    if s.is (fTIME_LANE_STATUS_FALLBACK n) then s.ksSample n else s

/-- R271: no forward or reverse sample for 10 ms: fallback to Keystone timestamps. -/
def execTimeFallbackStart (n : Lane) (s : State) : Ans :=
  if !s.up || !s.is (fTIME_LANE_CFG_FALLBACK_EN n) || !s.is (fTIME_LANE_CFG_KS_RANGE n)
      || s.is (fTIME_LANE_STATUS_FALLBACK n) || (s.rxFmt n).family ≠ 0 then .next s
  else
    let at_ := fun (p : Option (Nat × Nat × Nat)) => match p with
      | some (_, _, c) => c
      | none => 0
    let s := s.waitClk (cycles10ms + max (at_ (s.lt n).fwd) (at_ (s.lt n).rev))
    let s := s.setB (fTIME_LANE_STATUS_FALLBACK n) true
    let held : Bool := match (s.lt n).ks with
      | some (_, _, _, _, c) => s.clk - c ≤ cyclesSec
      | none => false
    .next (if held then s.ksSample n else s)

/-- R267: the first byte of a TTF. -/
def State.ttfHead (s : State) (type : Nat) : Byte := BitVec.ofNat 8 (type * 16 + 8 * b2n s.tb0Locked)

/-- A TTF with its CRC-8 (R198). -/
def ttfClose (bs : List Byte) : List Byte := bs ++ natBytes 1 (crc8 120 (bytesNat bs))

/-- R267: the TTF of the LF with transmit count `c`. -/
def State.ttf (s : State) (n c : Nat) : List Byte :=
  let zero := List.replicate 16 (0 : Byte)
  if !s.is (fTIME_LANE_CFG_TTF_EN n) || (s.txFmt n).family ≠ 0 then zero
  else if c % 64 = 4 then
    match assocGet (s.lt n).sentTimed ((c - 4) % 65536) with
    | some t => ttfClose (s.ttfHead 1 :: natBytes 2 ((c - 4) % 65536) ++ stampBytes t)
    | none => zero
  else if c % 64 = 5 then
    match (s.lt n).farTimed with
    | some (x, t) => ttfClose (s.ttfHead 2 :: natBytes 2 x ++ stampBytes t)
    | none => ttfClose (s.ttfHead 0 :: List.replicate 14 0)
  else if c % 64 = 6 then
    ttfClose (s.ttfHead 3 :: natBytes 2 0 ++ natBytes 4 (s.nat (aRXD_CD_EST n)) ++ natBytes 4 (s.nat (aTIME_LANE_TXF n))
      ++ natBytes 4 (s.nat (aTIME_LANE_RXF n)))
  else zero

/-- R266, R267: a timed LF starts: coded bit 0 enters the encoder `ps` after the present PLU cycle. -/
def State.timedSent (s : State) (n c ps : Nat) : State :=
  if c % 64 = 0 then
    let t := s.stamp 0 (ps + s.intTx n)
    s.modLt n fun l => { l with sentTimed := ((c % 65536, t) :: l.sentTimed).take 1024 }
  else s

/-- R268: an LF has been delivered: in SYNC with MF_LOCK = 1 it lengthens the row, by the stamp of its marker where that was
found; any other breaks the row. -/
def State.ttfRow (s : State) (n : Nat) (good : Bool) (t : Option Nat) : State :=
  s.modLt n fun l => { l with recent := if good then (t :: l.recent).take 5 else [] }

/-- R268: a TTF that is discarded. -/
def State.ttfBad (s : State) (n : Nat) : State :=
  (s.addCnt32 (aTIME_LANE_TTF_ERR n) 1).raise fTIME_ALARM_TTF_ERR

/-- R268 to R270: the TTF of an accepted LF, which is the newest of the row.  The far end's CD of a TYPE 3 counts as valid unless
the last beacon of a linked Keystone channel says that it is not (R293; log entry 86). -/
def State.ttfRx (s : State) (n : Nat) (bs : List Byte) : State :=
  if !s.is (fTIME_LANE_CFG_TTF_EN n) || bs = List.replicate 16 0 then s
  else if crc8 120 (fieldBytes bs 0 15) ≠ fieldBytes bs 15 1 then s.ttfBad n
  else
    let h := fieldBytes bs 0 1
    let ref := fieldBytes bs 1 2
    let t := stampOfBytes (sliceBytes bs 3 12)
    let lock := fun (s : State) => s.setB (fTIME_LANE_STATUS_FAR_LOCKED n) (bitOf h 3)
    match h / 16 with
    | 1 =>
      let s := lock s
      match (s.lt n).recent with
      | [_, _, _, _, some r] =>
        (s.modLt n fun l => { l with farTimed := some (ref, r), fwd := some (t, r, s.clk) }).lineUpdate n
      | _ => s
    | 2 =>
      match assocGet (s.lt n).sentTimed ref with
      | some sent => ((lock s).modLt n fun l => { l with rev := some (sent, t, s.clk) }).lineUpdate n
      | none => s.ttfBad n
    | 3 =>
      let cd := toSigned 32 (fieldBytes bs 3 4)
      let valid := s.get (fKSC_STATE_STATE n) ≠ 2 || s.is (fKSC_FAR_MISC_CD_VALID n)
      let txf := fieldBytes bs 7 4
      let rxf := fieldBytes bs 11 4
      let s := (lock s).setInt (aTIME_LANE_FAR_CD n) cd
      (s.modLt n fun l => { l with farCd := if valid then some cd else l.farCd, farFreq := some (txf, rxf) }).wlJudge n
    | _ => lock s

/-! ### PTP (R273, R274) -/

/-- R274: port states follow the enables: LISTENING (4) when a port begins to take part, DISABLED (3) when it ends. -/
def State.ptpPorts (s : State) : State :=
  (List.range 64).foldl (fun s p =>
    let was := s.obj (0x2210 + p) 6 3
    if s.ptpOn p then (if was = 3 then s.setObj (0x2210 + p) 6 [4] else s)
    else (if was = 3 then s else s.setObj (0x2210 + p) 6 [3])) s

/-- R273, R274: the instance of a PTP port, its domain and its clock role. -/
def State.ptpInstance (s : State) (p : Nat) : Nat := s.obj (0x2210 + p) 2 0
def State.ptpDomain (s : State) (x : Nat) : Nat := s.obj (0x2200 + x) 1 (24 + x)
def State.ptpRole (s : State) (x : Nat) : Nat := s.obj (0x2200 + x) 2 1

/-- R273: the state that the BMCA's outcome gives a port.  PRESUMED, the profile's (log entry 87): a master-only port and the ports
of a T-GM are never UNCALIBRATED or SLAVE, and those of a T-TSC are never MASTER. -/
def State.ptpState (s : State) (p st : Nat) : Nat :=
  let role := s.ptpRole (s.ptpInstance p)
  if (st = 8 || st = 9) && (s.obj (0x2210 + p) 4 0 ≠ 0 || role = 0) then 6
  else if st = 6 && role = 2 then 4 else st

/-- R273: a PTP message sent at a port. -/
def State.ptpEmit (s : State) (p kind : Nat) (content : List Byte) : State :=
  let addr := if Config.ptpForwardable p then 0x011B19000000 else 0x0180C200000E
  s.emit (.ptp p kind addr (s.ptpDomain (s.ptpInstance p)) content)

/-- R264, R273: the UTC offsets and the change time of a received Announce, taken while the instance of TB0 is in SLAVE. -/
def State.ptpUtc (s : State) (x : Nat) (u : Option (Int × Int × Nat)) : State :=
  match u with
  | some (ofs, next, at_) =>
    if x = 0 && s.utcByPtp then
      let s := (s.set fTIME_UTC_NEXT (ofSigned 16 next)).utcShift ofs s.tb0
      (s.setNat aTIME_UTC_AT at_).modTime fun t => { t with utcHi := at_ / 2 ^ 32 % 65536 }
    else s
  | none => s

/-- R273: a received PTP message of the instance's domain on a port: a master port answers a Delay_Req with its receive
timestamp. -/
def execPtpMessageRx (p : Fin 64) (m : PtpRx) (s : State) : Ans :=
  let x := s.ptpInstance p
  if !s.up || !s.ptpOn p || m.domain ≠ s.ptpDomain x then .next s
  else
    let s := s.ptpPorts
    let st := s.obj (0x2210 + p) 6 3
    match m.body with
    | .sync ofs => if st = 9 && s.get (fTIME_TB_SERVO_SRC x) = 1 then .next (s.acceptSample x ofs) else .next s
    | .delayReq from_ seq =>
      if st = 6 then .next (s.ptpEmit p 4 (stampBytes (s.stamp x 0) ++ sliceBytes from_ 0 10 ++ natBytes 2 seq.toNat)) else .next s
    | .delayResp path => if st = 9 then .next (s.setObj (0x2210 + p) 7 (natBytes 8 (ofSigned 64 path))) else .next s
    | .announce st cls parent steps utc =>
      let s := s.setObj (0x2210 + p) 6 [BitVec.ofNat 8 (s.ptpState p st)]
      let s := (s.setObj (0x2200 + x) 5 [BitVec.ofNat 8 cls]).setObj (0x2200 + x) 6 (sliceBytes parent 0 10)
      .next ((s.setObj (0x2200 + x) 7 (natBytes 2 steps)).ptpUtc x utc)
    | .management => .next s

/-- R273: a message of a kind falls due at a port: 16 Syncs and Delay_Reqs and 8 Announces in a second. -/
def State.ptpDue (s : State) (p kind : Nat) : State :=
  let s := match assocGet s.time.ptpSent (4 * p + kind) with
    | some c => s.waitClk (c + cyclesSec / (if kind = 2 then 8 else 16))
    | none => s
  s.modTime fun t => { t with ptpSent := assocPut t.ptpSent (4 * p + kind) s.clk }

/-- R273: what an Announce carries: clock class, priority2, steps removed, the UTC offsets and the change time. -/
def State.announce (s : State) (x : Nat) : List Byte :=
  natBytes 1 (s.obj (0x2200 + x) 5 248) ++ natBytes 1 (s.obj (0x2200 + x) 3 128) ++ natBytes 2 (s.obj (0x2200 + x) 7 0)
    ++ natBytes 2 (s.get fTIME_UTC_OFS) ++ natBytes 2 (s.get fTIME_UTC_NEXT) ++ natBytes 6 s.utcAt

/-- R273: a message falls due and is sent: Sync and Announce from a master port, Delay_Req from a slave port.  The transmit timestamp
goes in the Sync itself (one-step) or in a Follow_Up (two-step). -/
def execPtpMessageTx (p : Fin 64) (kind : PtpTx) (s : State) : Ans :=
  if !s.up || !s.ptpOn p then .next s
  else
    let s := s.ptpPorts
    let st := s.obj (0x2210 + p) 6 3
    let x := s.ptpInstance p
    match kind with
    | .sync =>
      if st = 6 then
        let s := s.ptpDue p 0
        let t := stampBytes (s.stamp x 0)
        .next (if s.obj (0x2210 + p) 5 0 = 0 then (s.ptpEmit p 0 (List.replicate 12 0)).ptpEmit p 3 t else s.ptpEmit p 0 t)
      else .next s
    | .delayReq =>
      if st = 9 || st = 8 then
        let s := s.ptpDue p 1
        .next (s.ptpEmit p 1 (List.replicate 12 0))
      else .next s
    | .announce =>
      if st = 6 then
        let s := s.ptpDue p 2
        .next (s.ptpEmit p 2 (s.announce x))
      else .next s

/-- R274: a write of PTP_EN. -/
def execPtpEnWrite (v : Bool) (s : State) : Ans :=
  .next (s.hostWrite aTIME_CTRL fun s => (s.setB fTIME_CTRL_PTP_EN v).ptpPorts)

/-! ### Launches (R278 to R280) -/

/-- The bytes of the launch buffer from an offset; the buffer wraps. -/
def State.launchBytes (s : State) (ofs n : Nat) : List Byte :=
  (List.range n).map fun i =>
    let k := (ofs + i) % 65536
    (s.reg (aTIME_LAUNCH_MEM (k / 4))).extractLsb' (8 * (3 - k % 4)) 8

/-- Bytes put into the launch buffer. -/
def State.launchPut (s : State) (ofs : Nat) (bs : List Byte) : State :=
  let first := min bs.length (65536 - ofs % 65536)
  let w := s.winTouch 12 (ofs % 65536) first
  let x := w.1.winTouch 12 0 (bs.length - first)
  bs.zipIdx.foldl (fun s p =>
    let k := (ofs + p.2) % 65536
    if (w.2 ++ x.2).contains (k / 8) then s
    else s.set ⟨aTIME_LAUNCH_MEM (k / 4), 8 * (3 - k % 4), 8⟩ p.1.toNat) x.1

/-- R284: the result of a launch: STATUS and TS0 to TS2 of its descriptor. -/
def State.launchResult (s : State) (d : Nat) : List Byte :=
  natBytes 4 (s.nat (aTIME_LAUNCH_STATUS d)) ++ (List.range 3).flatMap fun w => natBytes 4 (s.nat (aTIME_LAUNCH_TS d + 4 * w))

/-- R284: a descriptor is taken by another launch: the results of those that name it are kept for their sessions. -/
def State.launchKeep (s : State) (d : Nat) : State :=
  let mine := s.time.lastLaunch.filter fun p => p.2 == d
  let v := s.launchResult d
  s.modTime fun t => { t with
    launchKept := mine.foldl (fun l p => assocPut l p.1 v) t.launchKept
    lastLaunch := t.lastLaunch.filter fun p => p.2 != d }

/-- R284: the result of the last launch of PCIe (0) or of session k (k + 1). -/
def State.lastResult (s : State) (key : Nat) : Option (List Byte) :=
  match assocGet s.time.lastLaunch key with
  | some d => some (s.launchResult d)
  | none => assocGet s.time.launchKept key

/-- R278: START of a descriptor: armed, or refused with its code. -/
def State.launchArm (s : State) (d : Nat) : State × Code :=
  let s := s.launchKeep d
  let p := s.get (fTIME_LAUNCH_CTRL_PORT d)
  let t := s.time80 (aTIME_LAUNCH_T d)
  let now := s.tbNs (s.get (fTIME_LAUNCH_CTRL_TB d))
  let refuse := fun (c : Nat) => (s.setNat (aTIME_LAUNCH_STATUS d) 0 |>.set (fTIME_LAUNCH_STATUS_PHASE d) 3).set
    (fTIME_LAUNCH_STATUS_CODE d) c
  if s.get (fCLI_PORT_CFG_TYPE p) ≠ 0 || !s.is (fCLI_PORT_CFG_EN p) || s.get (fCLI_PORT_STATUS_STATE p) ≠ 3 then
    (refuse 3, .portDown)
  else if t < 5000 + now then (refuse 1, .launchLate)
  else if 1000000000000 + now < t then (refuse 2, .launchFar)
  else ((s.setNat (aTIME_LAUNCH_STATUS d) 0).set (fTIME_LAUNCH_STATUS_PHASE d) 1, .ok)

/-- R278: a write of TIME_LAUNCHd_CTRL; a 1 in START arms, and START reads 0. -/
def State.writeLaunch (s : State) (d : Nat) (v : Word) : State × Code :=
  let s := s.setReg (aTIME_LAUNCH_CTRL d) (setFld (setFld v 8 2 (min 2 (fld v 8 2))) 13 1 0 &&& 0xFFFF133F#32)
  if fld v 13 1 = 1 then s.launchArm d else (s, .ok)

def execLaunchArm (d : Fin 32) (v : Word) (s : State) : Ans :=
  .next (s.hostWrite (aTIME_LAUNCH_CTRL d) fun s => (s.writeLaunch d v).1)

/-- Bit rate of an Ethernet port's rate code in Gb/s (R192). -/
def ethGbps (rate : Nat) : Nat := [100, 200, 400, 800, 1600].getD rate 100

/-- R192, R235: fs of PLU time that `n` bytes take at a port. -/
def State.bytesFs (s : State) (p n : Nat) : Nat := s.dpllFs (n * (8000000 / ethGbps (s.get (fCLI_PORT_CFG_RATE p))))

/-- R279: bytes that a launched frame of `n` bytes without FCS takes at a port: with its preamble, its FCS and the 12 bytes after
it. -/
def launchSpan (n : Nat) : Nat := n + 24

/-- R279: the frame of a descriptor leaves now, its message timestamp point crossing `err` (2^-16 ns) off the instant
`t` (2^-16 ns of the descriptor's time base); with an error in its bytes its FCS is inverted (R384). -/
def State.launchNow (s : State) (d t : Nat) (err : Int) (late : Bool) : State :=
  let p := s.get (fTIME_LAUNCH_CTRL_PORT d)
  let len := clampN 64 2048 (s.get (fTIME_LAUNCH_BUF_LEN d))
  let ofs := s.get (fTIME_LAUNCH_BUF_OFS d) % 65536
  let first := min len (65536 - ofs)
  let g := s.winGood 12 ofs first
  let h := g.1.winGood 12 0 (len - first)
  let good := g.2 && h.2 && !s.mem.badLaunch.contains d
  let s := h.1.modMem fun m => { m with badLaunch := m.badLaunch.filter (· != d) }
  let fr := s.launchBytes ofs len
  let t0 := s.time80 (aTIME_LAUNCH_T d)
  let fr := if s.is (fTIME_LAUNCH_CTRL_ONE_STEP d) then
      putBytes fr (s.get (fTIME_LAUNCH_CTRL_TS_OFS d)) (natBytes 6 (t0 / 1000000000) ++ natBytes 4 (t0 % 1000000000))
    else fr
  let bound := if s.get (fCLI_PORT_CFG_CLASS p) = 1 then 65536 else 98304
  let s := s.setStamp (aTIME_LAUNCH_TS d) ((t : Int) + clampI (-bound) bound err).toNat
  let s := ((s.set (fTIME_LAUNCH_STATUS_PHASE d) 2).set (fTIME_LAUNCH_STATUS_CODE d) 0).setB (fTIME_LAUNCH_STATUS_LATE d) late
  let s := s.raiseIf late fTIME_ALARM_LAUNCH_LATE
  let s := s.modTime fun x => { x with portEnd := assocPut x.portEnd p (s.fsNow + s.bytesFs p (launchSpan len)) }
  let s := if good then s.tapPort p (len + 4) 1 0 else (s.tapPort p 0 1 1).addCnt (aCLI_PORT_CNT p 8) 1
  let s := s.addCnt (aCLI_PORT_CNT p 6) 1
  s.emit (.frame p (fr ++ if good then fcsBytes fr else (fcsBytes fr).map (~~~·)))

/-- R279: the launch time is reached; an earlier frame of the port that has not ended 12 bytes before delays this one,
which is then late. -/
def execLaunchSend (d : Fin 32) (err : Int) (s : State) : Ans :=
  if !s.up || s.get (fTIME_LAUNCH_STATUS_PHASE d) ≠ 1 then .next s
  else
    let x := s.get (fTIME_LAUNCH_CTRL_TB d)
    let t := s.time80 (aTIME_LAUNCH_T d)
    let s := s.waitTb x t
    let p := s.get (fTIME_LAUNCH_CTRL_PORT d)
    let free := (assocGet s.time.portEnd p).getD 0
    if s.fsNow < free then
      let s := s.waitClk (divUp free fsCycle)
      .next (s.launchNow d (s.stamp x 0) err true)
    else .next (s.launchNow d (65536 * t) err false)

/-- R280: TBx has stepped from `old` to now: the armed launches it crossed leave at once, late, in launch-time order. -/
def State.launchesCrossed (s : State) (x old : Nat) : State :=
  let now := s.tbNs x
  let due := (List.range 32).filter fun d =>
    s.get (fTIME_LAUNCH_STATUS_PHASE d) == 1 && s.get (fTIME_LAUNCH_CTRL_TB d) == x &&
    old < s.time80 (aTIME_LAUNCH_T d) && s.time80 (aTIME_LAUNCH_T d) ≤ now
  let due := due.mergeSort fun a b => s.time80 (aTIME_LAUNCH_T a) ≤ s.time80 (aTIME_LAUNCH_T b)
  due.foldl (fun s d => s.launchNow d (s.stamp x 0) 0 true) s

/-- R435: TIME's safe state cancels armed descriptors. -/
def State.launchesCancel (s : State) : State :=
  (List.range 32).foldl (fun s d =>
    if s.get (fTIME_LAUNCH_STATUS_PHASE d) = 1 then s.set (fTIME_LAUNCH_STATUS_PHASE d) 0 else s) s

/-! ### 1PPS output (R250, R281) -/

/-- R250, R281: a write of PPS_EN. -/
def State.writePpsEn (s : State) (v : Bool) : State × Code :=
  let own := fun (s : State) (b : Bool) =>
    ((s.setB fTIME_CTRL_PPS_EN b).setB fTIME_STATUS_PPS_OWNED b).setB (fPLU_CLKOUT_TIME_OWNED 3) b
  let f := s.get (fPLU_CLKOUT_FREQ 3)
  if v then
    if s.is fTIME_CTRL_PPS_EN then (s, .ok)
    else if f ≠ 0 && f ≠ 7 then (s.raise fTIME_ALARM_RES_BUSY, .resBusy)
    else (own s true, .ok)
  else (own s false, .ok)

def execPpsEnWrite (v : Bool) (s : State) : Ans :=
  .next (s.hostWrite aTIME_CTRL fun s =>
    let r := s.writePpsEn v
    if r.2 = .resBusy then r.1.logAcc .resBusy aTIME_CTRL true else r.1)

/-- R281: the next rising edge: an integer second of the time base plus TIME_PPS_OFS, at least 0.5 s after the previous
pulse; held low, and then no pulse, while SQ holds it. -/
def execPpsPulse (s : State) : Ans :=
  if s.cold || !s.is fTIME_CTRL_PPS_EN then .next s
  else
    let x := if s.get fTIME_PPS_CFG_TB = 3 then 0 else s.get fTIME_PPS_CFG_TB
    let t := s.tbx x
    let ofs : Int := unitsPerPs * s.int aTIME_PPS_OFS
    let second : Nat := 1000000000 * unitsPerNs
    let earliest : Int := match s.time.lastPulse with
      | some c => (t.acc : Int) + ((c + cyclesSec / 2 - s.clk : Nat) : Int) * t.step
      | none => t.acc
    let k := ((earliest - ofs + second - 1) / second).toNat
    let due := ((k * second : Nat) : Int) + ofs
    let s := if (t.acc : Int) < due then s.elapse (divUp (due - t.acc).toNat t.step) else s
    if s.is fTIME_PPS_CFG_SQ && s.get (fTbState x) ≠ 3 then .next s
    else .next ((s.modTime fun m => { m with lastPulse := some s.clk }).emit (.pps x k (10000 * s.get fTIME_PPS_CFG_WIDTH)))

end Sys2Proof.Machine
end

