-- ==== Sys2Proof/Machine/Lfr.lean ====
section
/-!
DEFINITION. Line framing (06_line_framing.md): defects, indications, loss of frame, downstream AIS and the signal-degrade
windows.  Alignment on received symbols and the delivery of a line frame stand in RxLf.lean.
-/

namespace Sys2Proof.Machine

/-- R160: a lane defect that is answered: dLOS, dLOF or dLOM. -/
def State.laneDefect (s : State) (n : Lane) : Bool := s.sectionDefect n

/-- R160: the condition that an indication answers, as it stands; as it stood 0.5 µs ago; and with a change now. -/
def condNow (log : List (Nat × Bool)) : Bool := (log.head?.map (·.2)).getD false
def settled (clk : Nat) (log : List (Nat × Bool)) : Bool :=
  (((log.find? fun c => c.1 + 313 ≤ clk).orElse fun _ => log.getLast?).map (·.2)).getD false
def condPut (clk : Nat) (v : Bool) (log : List (Nat × Bool)) : List (Nat × Bool) :=
  if condNow log = v then log
  else
    let fresh := fun (c : Nat × Bool) => clk < c.1 + 313
    (clk, v) :: (log.takeWhile fresh ++ (log.dropWhile fresh).take 1)

/-- R304: Keystone carries the lane's management egress. -/
def State.ksEgress (s : State) (n : Lane) : Bool :=
  s.is (fKSC_CTRL_MGMT_EN n) &&
  !(s.is (fLFR_CTRL_MCC_EN n) && s.get (fLFR_STATE_ALIGN n) == 2 && s.is (fLFR_STATE_MF_LOCK n))

/-- R304: EGRESS shown; it changes hands only between packets. -/
def State.showEgress (s : State) (n : Lane) : State :=
  if (s.lane n).ksc.sending.isSome || s.held n || s.held 11 then s else s.setB (fKSC_STATE_EGRESS n) (s.ksEgress n)

def State.kscRefresh (s : State) : State := s.eachLane fun n s => s.showEgress n

/-- R314: a section defect that stands reaches Cornerstone's second in progress. -/
def State.tapDefect (s : State) (n : Lane) : State :=
  if s.cst.ready && s.sectionDefect n then
    s.modCst fun c => { c with lanes := modAt c.lanes n fun g => { g with defect := true } }
  else s

/-- The defects of a lane re-judged from ALIGN, VERIFY, MF_LOCK and LOS (R159), the indication that answers them
(R160), what PMON sees of them, and the owner of the management egress (R304). -/
def State.lfrDefects (s : State) (n : Lane) : State :=
  let sync := s.get (fLFR_STATE_ALIGN n) == 2
  let ver := s.is (fLFR_STATE_VERIFY n)
  let lom := sync && !ver && !s.is (fLFR_STATE_MF_LOCK n)
  let was := s.is (fLFR_STATE_LOM n)
  let s := s.touch n
  let s := (s.setB (fLFR_STATE_LOF n) (!sync || ver)).setB (fLFR_STATE_LOM n) lom
  let s := s.raiseIf (lom && !was) (fLFR_ALARM_LOM n)
  let bad := s.laneDefect n
  let s := s.modTx n fun t => { t with sbdiSince := condPut s.clk bad t.sbdiSince }
  ((s.touch n).tapDefect n).showEgress n

/-- R171: the path period before the one in progress counts as a block of every path and tributary if every LF of it was
delivered: its parities have been received in the one in progress, its backward indications in it itself. -/
def State.periodEnd (s : State) (n : Lane) : State :=
  let p := (s.lane n).pmon
  let s := if !p.prevWhole then s
    else
      let gs := s.rxGroups n
      let err := fun (js : List Nat) => p.prevFlag || js.any fun j => p.perErr.getD j false
      let fe := fun (js : List Nat) => js.any fun j => p.prevFe.getD j false
      let s := gs.foldl (fun s g => s.pathBlock n g.head (err g.list) (fe g.list)) s
      (gs.flatMap Mapped.list).foldl (fun s j => s.tribBlock n j (err [j]) (fe [j])) s
  s.modPmon n fun p => { p with prevFlag := p.perFlag, prevWhole := p.perWhole, prevFe := p.perFe }

/-- R171: no further LF joins the path period in progress: the one before it, if whole, counts as it stands, and so does it, if
its eight LFs have been delivered. -/
def State.periodCut (s : State) (n : Lane) : State :=
  let s := (s.periodEnd n).modPmon n fun p =>
    { p with perErr := List.replicate 128 false, prevFe := p.perFe, prevWhole := p.perWhole && p.perLfs == 8 }
  (s.periodEnd n).modPmon n fun p => { p with perWhole := false, prevWhole := false }

/-- R157, R158: what is cleared when the receiver leaves `SYNC`, and what alignment then starts from. -/
def State.lfrAlignAway (s : State) (n : Lane) (align : Nat) (cands : List Cand) : State :=
  let s := s.periodCut n
  let s := (s.set (fLFR_STATE_ALIGN n) align).set (fLFR_STATE_CAND n) cands.length
  let s := (s.setB (fLFR_STATE_VERIFY n) false).setB (fLFR_STATE_MF_LOCK n) false
  let s := s.modLfr n fun l =>
    { l with cands := cands, sync := none, miss := 0, verifyCount := 0, lastMfas := none, mfMiss := 0, sbip := none
             bip := {}, bipValid := 0, rxIn := none, marks := [] }
  let s := s.modTx n fun t => { t with sbeiAcc := 0, pbeiAcc := List.replicate 128 0 }
  ((s.fecInFrame n false).ttfRow n false none).lfrDefects n

/-- R152: dLOS takes the alignment to `HUNT`; RXD reports LOS to LFR (R88). -/
def State.lfrLos (s : State) (n : Lane) (v : Bool) : State :=
  let s := (s.touch n).setB (fLFR_STATE_LOS n) v
  if v then (s.raise (fLFR_ALARM_LOS n)).lfrAlignAway n 0 [] else s.lfrDefects n

/-- R119, R139, R167, R181: the family in force on receive has changed: LFR loses frame; what a ZR family has not reads 0 (DESIGN
CHOICE, log entry 73: it is cleared), once the bins have taken the increases of the FEC's counters. -/
def State.familyTurn (s : State) (n : Lane) : State :=
  let s := s.lfrAlignAway n 0 []
  if (s.rxFmt n).family = 0 then s.showBridged n
  else
    let s := s.fecFlush n
    let s := [6, 7, 8, 9].foldl (fun s j => s.setWide (aLFR_CNT n j) 0) s
    let s := [2, 3, 4, 5, 6, 9].foldl (fun s j => s.setWide (aFEC_CNT n j) 0) s
    let s := (List.range 128).foldl (fun s j =>
      ((s.setWide (aLFR_PBIP n j) 0).setWide (aLFR_PBEI n j) 0).setNat (aLFR_SLOT n j) 0) s
    s.modPmon n fun p => { p with fecBase := s.fecCounts n }

/-! ### Signal degrade (R159) -/

/-- R159: a window of WIN × 1,024 received LFs, if that many have been received, is judged, and the next begins. -/
def State.sdWindow (s : State) (n : Lane) : State :=
  let l := (s.lane n).lfr
  if l.sdLfs < 1024 * max 1 (s.get (fLFR_SD_CFG_WIN n)) then s
  else
    let outside := s.get (fLFR_SD_CFG_THR n) < l.sdBase
    let bad := if outside then l.sdBad + 1 else 0
    let good := if outside then 0 else l.sdGood + 1
    let s := s.modLfr n fun l => { l with sdBase := 0, sdLfs := 0, sdBad := bad, sdGood := good }
    let sd := s.is (fLFR_STATE_SD n)
    if 3 ≤ bad && !sd then (s.setB (fLFR_STATE_SD n) true).raise (fLFR_ALARM_SD n)
    else if 3 ≤ good && sd then s.setB (fLFR_STATE_SD n) false
    else s

/-- R159: one more LF is received in `SYNC`; a window that was full has ended. -/
def State.sdCount (s : State) (n : Lane) : State := (s.sdWindow n).modLfr n fun l => { l with sdLfs := l.sdLfs + 1 }

/-- R159: a window of WIN × 1,024 received LFs ends. -/
def execSdWindowEnd (n : Lane) (s : State) : Ans := if s.laneUp n then .next (s.sdWindow n) else .next s

/-! ### Downstream AIS (R160) -/

/-- R160: AIS applies to a receive group of a lane. -/
def State.aisDue (s : State) (n : Lane) (g : Mapped) : Bool :=
  !s.is (fLFR_CTRL_AIS_INH n) && (s.laneDefect n || g.list.any (s.slotDefect n))

/-- R160: downstream AIS starts or ends on the groups of a lane. -/
def State.aisApply (s : State) (n : Lane) : State :=
  let gs := s.rxGroups n
  let on := (gs.filter (s.aisDue n)).flatMap Mapped.list
  (List.range 128).foldl (fun s j =>
    if s.is (fLFR_SLOT_AIS_OUT n j) == on.contains j then s else s.setB (fLFR_SLOT_AIS_OUT n j) (on.contains j)) s

def execDownstreamAisChange (n : Lane) (s : State) : Ans := if s.laneUp n then .next (s.aisApply n) else .next s

/-! ### Slot status (R151, R159) -/

/-- A slot's defect set or cleared, with its alarm and PMON. -/
def State.setSlotDefect (s : State) (n : Lane) (f alarm : Fld) (v : Bool) : State :=
  if s.is f == v then s else ((s.touch n).setB f v |>.raiseIf v alarm).touch n

/-- R160: slot `j` is to answer with PBDI, or no longer. -/
def State.slotAnswer (s : State) (n : Lane) (j : Nat) : State :=
  let bad := s.slotDefect n j
  s.modTx n fun t => { t with pbdiSince := modAt t.pbdiSince j (condPut s.clk bad) }

end Sys2Proof.Machine
end

