-- ==== Sys2Proof/Machine/Cli.lean ====
section
/-!
DEFINITION. CLI (08_client_mapping.md): client ports, flows, frame adaptation, the OTN container, FlexE groups and fault
replacement.  What the PCS, FlexO and FlexE layers decode is an operand (log entry 3).
-/

namespace Sys2Proof.Machine

/-! ### Ports (R192, R195) -/

def State.portX (s : State) (p : Nat) : PortState := (assocGet s.cli.ports p).getD {}

def State.modPort (s : State) (p : Nat) (f : PortState → PortState) : State :=
  { s with cli := { s.cli with ports := assocPut s.cli.ports p (f (s.portX p)) } }

def State.portState (s : State) (p : Nat) : Nat := s.get (fCLI_PORT_STATUS_STATE p)

/-- CLI_CTRL: a client group runs. -/
def State.groupOn (s : State) (g : Nat) : Bool :=
  s.up && !s.held (8 + g) && s.is (if g = 0 then fCLI_CTRL_A_EN else fCLI_CTRL_B_EN)

/-- Port counter `j` (R207). -/
def State.portCount (s : State) (p j k : Nat) : State := if k = 0 then s else s.addCnt (aCLI_PORT_CNT p j) k

/-- A port alarm, and CLI_ALARM.PORT. -/
def State.portAlarm (s : State) (f : Fld) : State := (s.raise f).raise fCLI_ALARM_PORT

/-- CLI_STATUS.PORTS_UP. -/
def State.showPorts (s : State) : State :=
  s.set fCLI_STATUS_PORTS_UP ((List.range 64).filter fun p => s.portState p == 3).length

/-- R195, R274: a port enters a state, and a PTP port on it follows. -/
def State.portEnter (s : State) (p st : Nat) : State := (s.set (fCLI_PORT_STATUS_STATE p) st).showPorts.ptpPorts

/-- R195: EN, the group's enable and its reset act on a port. -/
def State.portRefresh (s : State) (p : Nat) : State :=
  let on := s.is (fCLI_PORT_CFG_EN p) && s.groupOn (s.portGroup p)
  let s := s.set (fCLI_PORT_STATUS_WIDTH p) (if s.is (fCLI_PORT_CFG_EN p) then s.portLanes p else 0)
  if on && s.portState p = 0 then
    ((s.setB (fCLI_PORT_STATUS_CLOS p) true).setB (fCLI_PORT_STATUS_CLOA p) true).portEnter p 1
  else if !on && s.portState p ≠ 0 then
    let s := ((s.setB (fCLI_PORT_STATUS_CLOS p) false).setB (fCLI_PORT_STATUS_CLOA p) false).setB (fCLI_PORT_STATUS_RF p) false
    (((s.setB (fCLI_PORT_STATUS_FAULT_TX p) false).modPort p fun _ => {}).portEnter p 0).tapGone (portKey p)
  else s

/-- The groups' enables act: A_ON, B_ON and every port. -/
def State.groupsRefresh (s : State) : State :=
  let s := (s.setB fCLI_STATUS_A_ON (s.groupOn 0)).setB fCLI_STATUS_B_ON (s.groupOn 1)
  (List.range 64).foldl (fun s p => s.portRefresh p) s

/-- R195: dCLOS is declared. -/
def execClosDeclare (p : Fin 64) (s : State) : Ans :=
  if s.portState p = 0 then .next s
  else .next (((s.setB (fCLI_PORT_STATUS_CLOS p) true).portAlarm (fCLI_PORT_ALARM_CLOS p)).portEnter p 1)

/-- R195: dCLOS clears on every lane. -/
def execClosClear (p : Fin 64) (s : State) : Ans :=
  if s.portState p = 0 then .next s
  else
    let s := s.setB (fCLI_PORT_STATUS_CLOS p) false
    .next (if s.portState p = 1 then s.portEnter p 2 else s)

/-- R195: dCLOA is declared. -/
def execCloaDeclare (p : Fin 64) (s : State) : Ans :=
  if s.portState p = 0 then .next s
  else
    let s := (s.setB (fCLI_PORT_STATUS_CLOA p) true).portAlarm (fCLI_PORT_ALARM_CLOA p)
    .next (if s.portState p = 3 then s.portEnter p 2 else s)

/-- R195: dCLOA clears. -/
def execCloaClear (p : Fin 64) (s : State) : Ans :=
  if s.portState p = 0 then .next s
  else
    let s := s.setB (fCLI_PORT_STATUS_CLOA p) false
    .next (if s.portState p = 2 then s.portEnter p 3 else s)

/-- R195: dRF. -/
def execRemoteFaultChange (p : Fin 64) (v : Bool) (s : State) : Ans :=
  if s.portState p = 0 then .next s
  else
    let s := s.setB (fCLI_PORT_STATUS_RF p) v
    .next (if v then s.portAlarm (fCLI_PORT_ALARM_RF p) else s)

/-! ### Flows (R196) -/

def State.flowX (s : State) (f : Nat) : FlowState := (assocGet s.cli.flows f).getD {}

/-- A flow's streams changed; one as at reset is not listed. -/
def State.modFlow (s : State) (f : Nat) (g : FlowState → FlowState) : State :=
  let x := g (s.flowX f)
  { s with cli := { s.cli with flows := if x = {} then assocDel s.cli.flows f else assocPut s.cli.flows f x } }

/-- R196: slots of a FlexE client in a calendar of words. -/
def calSlots (cal : List Nat) (c : Nat) : Nat :=
  ((List.range 320).filter fun i => bitsOf (cal.getD (i / 4) 0) (8 * (i % 4)) 8 == c).length

/-- R196: the SSI TYPE code of the source that a flow's configuration word names. -/
def State.srcType (s : State) (cfg : Nat) : Nat :=
  if bitOf cfg 1 then 0x20
  else
    let p := bitsOf cfg 2 6
    let rate := s.get (fCLI_PORT_CFG_RATE p)
    if s.get (fCLI_PORT_CFG_TYPE p) = 2 then 0x40 + rate else 0x10 + rate

def State.flowType (s : State) (f : Nat) : Nat := s.srcType (s.nat (aCLI_FLOW_CFG f))

/-- The flow in force on transmit that a source feeds. -/
def State.flowOf (s : State) : ClientSrc → Option Nat
  | .port p => (List.range 256).find? fun f =>
      s.is (fCLI_FLOW_CFG_EN f) && !s.is (fCLI_FLOW_CFG_KIND f) && s.get (fCLI_FLOW_CFG_PORT f) == p.val
  | .flexe k c => (List.range 256).find? fun f =>
      s.is (fCLI_FLOW_CFG_EN f) && s.is (fCLI_FLOW_CFG_KIND f) && s.get (fCLI_FLOW_CFG_FXG f) == k.val
        && s.get (fCLI_FLOW_CFG_FXC f) == c.val

/-- R205: the ingress of a flow's source is not good: its port not `UP`, or its FlexE group not locked. -/
def State.ingressBad (s : State) (f : Nat) : Bool :=
  if s.is (fCLI_FLOW_CFG_KIND f) then !s.is (fCLI_FX_STATUS_LOCKED (s.get (fCLI_FLOW_CFG_FXG f)))
  else s.portState (s.get (fCLI_FLOW_CFG_PORT f)) ≠ 3

/-- The number of slots and the lane of a flow on transmit. -/
def State.flowCount (s : State) (f : Nat) : Nat := (indexesWhere 128 fun j => bitOf (s.flowSlots f) j).length

/-- R148, R204: ceil(X_g ÷ 256) of a flow. -/
def State.flowStep (s : State) (f : Nat) : Nat :=
  divUp (groupX (s.txFmt (s.get (fCLI_FLOW_CFG_LANE f))) (s.flowCount f)) 256

/-- R204: the buffer's capacity in words. -/
def State.flowCap (s : State) (f : Nat) : Nat := 4 * s.flowStep f + 64

/-- A flow of an OTUCn source, by its configuration word's TYPE. -/
def typeOtn (cfg : Nat) : Bool := 0x40 ≤ bitsOf cfg 24 8

/-- R204: the fill F of a flow's mapping buffer, words.  The adapter of an OTUCn flow writes its container at exactly the
group's data rate, so that its buffer stays at F_0 (log entry 57). -/
def State.flowFill (s : State) (f : Nat) : Nat :=
  if typeOtn (s.nat (aCLI_FLOW_CFG f)) then 2 * s.flowStep f else (s.flowX f).buf.length / 16

/-- R207: the status of a flow. -/
def State.showFlow (s : State) (f : Nat) : State :=
  let on := s.is (fCLI_FLOW_CFG_EN f)
  let rx := s.cli.rxMap.find? fun m => m.1 == f && bitOf m.2.1 0
  let ais := match rx with
    | none => false
    | some m => (indexesWhere 128 fun j => bitOf m.2.2 j).any fun j => s.is (fLFR_SLOT_AIS_OUT (bitsOf m.2.1 16 3) j)
  let s := s.setB (fCLI_FLOW_STATUS_ACTIVE f) (on && s.flowSlots f != 0 && rx.isSome)
  let s := (s.setB (fCLI_FLOW_STATUS_AIS_IN f) ais).setB (fCLI_FLOW_STATUS_FAULT_IN f) (s.flowX f).fault
  let s := s.set (fCLI_FLOW_CFG_TYPE f) (if on then s.flowType f else 0)
  (s.set (fCLI_FLOW_STATUS_N_G f) (if on then s.flowCount f else 0)).set (fCLI_FLOW_STATUS_FILL f) (s.flowFill f)

/-! ### Frame adaptation (R197, R198, R204) -/

/-- R198: an element's header. -/
def elementHeader (len kind : Nat) : List Byte :=
  let v := (len * 4 + kind) % 65536 * 256
  natBytes 4 (v * 256 + crc8 24 v)

/-- Bytes of an element, its first marked as the start of a header. -/
def marked (bs : List Byte) : List (Byte × Bool) := bs.zipIdx.map fun p => (p.1, p.2 == 0)

/-- R204: an overflow of a flow's buffer. -/
def State.flowOvf (s : State) (f : Nat) : State :=
  (s.addCnt32 (aCLI_FLOW_OVF f) 1).raise fCLI_ALARM_FLOW_OVF

/-- R197, R204: a frame enters the buffer of its flow; one that does not fit keeps the bytes that do, with KIND 2, and is
lost only where the buffer has no room for a header and a byte. -/
def State.flowPush (s : State) (f : Nat) (bytes : List Byte) (kind : Nat) : State :=
  let x := s.flowX f
  let room := 16 * s.flowCap f - x.buf.length
  let put := fun (s : State) (bs : List Byte) (kind : Nat) =>
    s.modFlow f fun x => { x with buf := x.buf ++ marked (elementHeader bs.length kind ++ bs) }
  if bytes.length + 4 ≤ room then put s bytes kind
  else
    let s := s.flowOvf f
    if 5 ≤ room then put s (bytes.take (room - 4)) 2 else s

/-- R225: the adapter of a flow starts no element: its context's rollover has been struck and has not applied. -/
def State.flowPaused (s : State) (f : Nat) : Bool :=
  match s.crs.armed with
  | none => false
  | some a =>
    a.struck && a.txWaits (s.get (fCLI_FLOW_CFG_LANE f)) &&
    s.liveCtxs.any fun c =>
      s.get (fCtxBind c) == 3 && s.get (fCtxFlow c) == f && s.get (fCtxDir c) == 0 && bitOf (afterCourse a s (aCtxCfg c 0)) 8

/-- A decoded frame goes to its flow. -/
def State.flowFrame (s : State) (f : Nat) (bytes : List Byte) (err : Bool) : State :=
  let kind := if err then 2 else 1
  let n := s.get (fCLI_FLOW_CFG_LANE f)
  if (s.txFmt n).family ≠ 0 then (if s.get (fTXD_STATE_STATE n) = 2 then
      (s.modTx (Fin.ofNat 8 n) fun t => { t with zrFrames := t.zrFrames ++ [bytes] }).emit (.zr n bytes) else s)
  else if s.flowSlots f = 0 then s
  else if s.flowPaused f then
    s.modFlow f fun x => { x with held := x.held ++ [(bytes, kind)], idleFrom := some (x.idleFrom.getD s.fsNow) }
  else (s.flowPush f bytes kind).showFlow f

/-- `n` idle headers, or fault headers (R197, R205). -/
def idleHeaders (fault : Bool) (n : Nat) : List (Byte × Bool) :=
  (List.replicate n ()).flatMap fun _ => marked (elementHeader 0 (if fault then 3 else 0))

/-- R225: the adapter has filled the time up to now with idle headers since its rollover was struck, at the group's rate of
`n` bytes in an LF of `lf` fs (log entry 89). -/
def State.flowIdle (s : State) (f n lf : Nat) : State :=
  match (s.flowX f).idleFrom with
  | none => s
  | some t =>
    let k := n * (s.fsNow - t) / (4 * max 1 lf)
    s.modFlow f fun x => { x with
      buf := x.buf ++ idleHeaders (s.ingressBad f) (min k ((16 * s.flowCap f - x.buf.length) / 4)), idleFrom := some s.fsNow }

/-- R225: while a rollover is struck and has not applied the adapter sends idle headers; the frames held enter the buffer after
them, once it has applied. -/
def State.flowRelease (s : State) (f n lf : Nat) : State :=
  if s.flowPaused f then (s.modFlow f fun x => { x with idleFrom := some (x.idleFrom.getD s.fsNow) }).flowIdle f n lf
  else
    let s := s.flowIdle f n lf
    let held := (s.flowX f).held
    held.foldl (fun s p => s.flowPush f p.1 p.2) (s.modFlow f fun x => { x with held := [], idleFrom := none })

/-- R197: the adapter has produced at least `n` bytes: idle headers fill up. -/
def State.flowPad (s : State) (f n : Nat) : State :=
  let k := divUp (n - (s.flowX f).buf.length) 4
  if k = 0 then s else s.modFlow f fun x => { x with buf := x.buf ++ idleHeaders (s.ingressBad f) k }

/-- R204: J of a group's LF. -/
def flowJ (fill f0 u : Nat) : Int := if f0 + u < fill then 1 else if fill + u < f0 then -1 else 0

/-- A byte string as 128-bit words. -/
def wordsOfBytes : Nat → List Byte → List Nat
  | 0, _ => []
  | n + 1, bs => fieldBytes bs 0 16 :: wordsOfBytes n (bs.drop 16)

/-- R198: the `d` mapping words of a frame-adapted flow in one LF: OFFSET and the stream. -/
def State.flowWords (s : State) (f d : Nat) : State × List Nat :=
  if d = 0 then (s, [])
  else
    let n := 16 * d - 2
    let s := s.flowPad f n
    let buf := (s.flowX f).buf
    let out := buf.take n
    let ofs := (out.findIdx? fun p => p.2).getD 0xFFFF
    let s := s.modFlow f fun x => { x with buf := buf.drop n }
    (s, wordsOfBytes d (natBytes 2 ofs ++ out.map (·.1)))

/-! ### The OTN container (R200) -/

/-- R200: which of the `d - 1` words after the control word carry `cnt` client words. -/
def otnCarries (cnt d i : Nat) : Bool := d != 1 && (i - 1) * cnt / (d - 1) < i * cnt / (d - 1)

/-- Client words laid into the places that carry them. -/
def otnLay (cnt d : Nat) : List Nat → List Nat → List Nat
  | [], _ => []
  | i :: is, ws =>
    if otnCarries cnt d i then ws.headD 0 :: otnLay cnt d is (ws.drop 1) else 0 :: otnLay cnt d is ws

/-- R200: a control word. -/
def otnControl (cnt res : Nat) (fault : Bool) : Nat :=
  let v := cnt % 65536 * 65536 + res % 256 * 256 + b2n fault * 128
  v * 2 ^ 96 + crc8 32 v * 2 ^ 88

/-- R200: the `d` mapping words of an OTUCn flow in one LF. -/
def State.otnWords (s : State) (f d : Nat) : State × List Nat :=
  if d = 0 then (s, [])
  else
    let x := s.flowX f
    let cnt := min (d - 1) x.otn.length
    let s := s.modFlow f fun x => { x with otn := x.otn.drop cnt }
    (s, otnControl cnt x.res (s.ingressBad f) :: otnLay cnt d ((List.range (d - 1)).map (· + 1)) x.otn)

/-- R197, R200: the mapping words of a flow in one LF. -/
def State.adapt (s : State) (f d : Nat) : State × List Nat :=
  if typeOtn (s.nat (aCLI_FLOW_CFG f)) then s.otnWords f d else s.flowWords f d

/-! ### Ingress -/

/-- IEEE 802.3: the FCS of a frame is good. -/
def fcsGood (bs : List Byte) : Bool := 4 ≤ bs.length && fcsBytes (bs.take (bs.length - 4)) == bs.drop (bs.length - 4)

/-- The port at which a source is counted: its own, or the first PHY of its FlexE group (log entry 23). -/
def State.srcPort (s : State) : ClientSrc → Nat
  | .port p => p
  | .flexe k _ => s.get (fCLI_FX_CFG_PORT_BASE k)

/-- R203: a Course that has struck changes the slot count of a FlexE client, and the transmit items of its flow's lane have
applied. -/
def State.calComes (s : State) (k c n : Nat) : Bool :=
  match s.crs.armed with
  | none => false
  | some a =>
    a.struck && !a.txWaits n &&
      calSlots ((List.range 80).map fun e => afterCourse a s (aCLI_FX_CAL k e)) c != calSlots (s.cli.flexe.getD k {}).active c

/-- R203: a client whose slot count a calendar switch will change carries idle headers until the switch. -/
def State.calWaits (s : State) : ClientSrc → Bool
  | .port _ => false
  | .flexe k c =>
    let x := s.cli.flexe.getD k {}
    (s.is (fCLI_FX_STATUS_CAL_PENDING k) && calSlots x.inactive c != calSlots x.active c) ||
      (match s.flowOf (.flexe k c) with
       | some f => s.calComes k c (s.get (fCLI_FLOW_CFG_LANE f))
       | none => false)

/-- R274: a PTP port extracts frames of EtherType 0x88F7 to the profile's addresses; they are not mapped. -/
def State.ptpTakes (s : State) (src : ClientSrc) (bytes : List Byte) : Bool :=
  match src with
  | .port p =>
    s.ptpOn p && fieldBytes bytes 12 2 == 0x88F7 && [0x011B19000000, 0x0180C200000E].contains (fieldBytes bytes 0 6)
  | .flexe _ _ => false

/-- R197, R200: what the ingress of a source decodes. -/
def execClientFrameIngress (src : ClientSrc) (rx : ClientRx) (s : State) : Ans :=
  let p := s.srcPort src
  if s.portState p ≠ 3 then .next s
  else match rx with
  | .frame bytes err =>
    let s := (s.portCount p 0 1).portCount p 1 bytes.length
    let s := if fcsGood bytes then s else s.portCount p 2 1
    if bytes.length < 64 || 16000 < bytes.length then
      .next ((s.portCount p 5 1).portAlarm (fCLI_PORT_ALARM_SIZE_DROP p))
    else match s.flowOf src with
    | none => .next s
    | some f => .next (if s.ingressBad f || s.calWaits src || s.ptpTakes src bytes then s else s.flowFrame f bytes err)
  | .otuc words frames bip res =>
    let s := (s.portCount p 0 frames).portCount p 2 bip
    match s.flowOf src with
    | none => .next s
    | some f =>
      let x := s.flowX f
      let room := s.flowCap f - x.otn.length
      let s := if room < words.length then s.flowOvf f else s
      let s := s.modFlow f fun x =>
        { x with otn := x.otn ++ (words.take room).map BitVec.toNat, res := res.toNat }
      .next (s.showFlow f)
  | .rs corr uncorr => .next ((s.portCount p 3 corr).portCount p 4 uncorr)

/-! ### Egress (R199, R200, R205) -/

/-- R205: the egress of a flow's client is replaced. -/
def State.egressFault (s : State) (f : Nat) (cfg slots : Nat) : Bool :=
  let n : Lane := Fin.ofNat 8 (bitsOf cfg 16 3)
  (s.flowX f).fault || (indexesWhere 128 fun j => bitOf slots j).any (fun j => s.is (fLFR_SLOT_AIS_OUT n j))
    || (!s.is (fLFR_STATE_MF_LOCK n) && (s.rxFmt n).family == 0)
    || ((s.rxFmt n).family != 0 && s.laneDefect n && !s.is (fLFR_CTRL_AIS_INH n))

/-- The port at which a received flow, by its configuration word, leaves: its own, or the first PHY of its FlexE group (log
entry 23). -/
def State.egressPort (s : State) (cfg : Nat) : Nat :=
  if bitOf cfg 1 then s.get (fCLI_FX_CFG_PORT_BASE (bitsOf cfg 8 3)) else bitsOf cfg 2 6

/-- The receive mapping of the flows that leave at a port. -/
def State.portFlows (s : State) (p : Nat) : List (Nat × Nat × Nat) :=
  s.cli.rxMap.filter fun m => bitOf m.2.1 0 && s.egressPort m.2.1 == p

/-- R205, R435: the client of a flow that leaves at a port is to be replaced. -/
def State.replaceDue (s : State) (p : Nat) (m : Nat × Nat × Nat) : Bool :=
  s.safe (8 + s.portGroup p) || s.egressFault m.1 m.2.1 m.2.2

/-- R205, R435: FAULT_TX of a port: its client, or a client of its FlexE group, is to be replaced. -/
def State.faultTx (s : State) (p : Nat) : Bool :=
  s.portState p != 0 && (s.safe (8 + s.portGroup p) || (s.portFlows p).any (s.replaceDue p))

/-- R205: the replacement of a FlexE client begins or ends. -/
def State.flexeReplace (s : State) (p : Nat) (m : Nat × Nat × Nat) : State :=
  let on := s.replaceDue p m
  if !bitOf m.2.1 1 || (s.flowX m.1).replaced == on then s
  else (s.modFlow m.1 fun x => { x with replaced := on }).emit (.flexeFault (bitsOf m.2.1 8 3) (bitsOf m.2.1 11 5) on)

/-- R205: FAULT_TX of a port as its egress now stands; an Ethernet or OTUCn port says what it sends in its client's place. -/
def State.showFault (s : State) (p : Nat) : State :=
  let on := s.faultTx p
  let type := s.get (fCLI_PORT_CFG_TYPE p)
  let s := if type = 1 || s.is (fCLI_PORT_STATUS_FAULT_TX p) == on then s else s.emit (.replace p (type == 2) on)
  s.setB (fCLI_PORT_STATUS_FAULT_TX p) on

/-- R205: CLI starts or stops replacing what leaves at a port. -/
def State.faultAction (s : State) (p : Nat) : State :=
  (((s.portFlows p).foldl (fun s m => s.flexeReplace p m) s)).showFault p

/-- R205: CLI starts or stops replacing the client of a port. -/
def execCliFaultAction (p : Fin 64) (s : State) : Ans :=
  .next (((s.cli.rxMap.filter fun m => m.1 < 256).foldl (fun s m => s.showFlow m.1) s).faultAction p)

/-- The last four bytes inverted. -/
def fcsInvert (bs : List Byte) : List Byte := bs.take (bs.length - 4) ++ (bs.drop (bs.length - 4)).map fun b => ~~~b

/-- R199: bytes that the egress buffer of a port holds, from when it will be empty. -/
def State.egressFill (s : State) (p : Nat) : Nat :=
  ((s.portX p).egressEnd - s.fsNow) * ethGbps (s.get (fCLI_PORT_CFG_RATE p)) / 8000000

/-- R279: the armed launches of a port in the order of their times: when each starts, and when the gap after it ends, in fs of PLU
time. -/
def State.launchSpans (s : State) (p : Nat) : List (Nat × Nat) :=
  let armed := (List.range 32).filter fun d => s.get (fTIME_LAUNCH_STATUS_PHASE d) == 1 && s.get (fTIME_LAUNCH_CTRL_PORT d) == p
  (armed.map fun d =>
    let t := s.tbx (s.get (fTIME_LAUNCH_CTRL_TB d))
    let at_ := s.fsNow + fsCycle * (unitsPerNs * s.time80 (aTIME_LAUNCH_T d) - t.acc) / t.step
    (at_, at_ + s.bytesFs p (launchSpan (clampN 64 2048 (s.get (fTIME_LAUNCH_BUF_LEN d)))))).mergeSort fun a b => a.1 ≤ b.1

/-- R279: when a mapped frame that takes `dur` fs with 12 bytes of gap starts at a port, not before `start` nor before a launched
frame has ended: none starts that would not end 12 bytes before an armed launch, so it follows the launched frame, and the
launches after that (DESIGN CHOICE, log entry 100). -/
def State.egressStart (s : State) (p start dur : Nat) : Nat :=
  (s.launchSpans p).foldl (fun from_ l => if from_ < l.2 && l.1 < from_ + dur then l.2 else from_)
    (max start ((assocGet s.time.portEnd p).getD 0))

/-- R199: a frame of flow `f` is sent at its client, or dropped.  The clients of a FlexE group share the buffer of its first
PHY (log entry 23). -/
def State.egressFrame (s : State) (f cfg : Nat) (bytes : List Byte) (invert : Bool) : State :=
  let fx := bitOf cfg 1
  let k := bitsOf cfg 8 3
  let p := s.egressPort cfg
  let out := if invert then fcsInvert bytes else bytes
  let replaced := if fx then (s.flowX f).replaced else s.is (fCLI_PORT_STATUS_FAULT_TX p)
  let on := s.portState p != 0 && (!fx || s.is (fCLI_FX_CFG_EN k))
  if !on || replaced then s
  else if 65536 < s.egressFill p + bytes.length then
    ((s.tapPort p 0 0 1).portCount p 7 1).portAlarm (fCLI_PORT_ALARM_TX_DROP p)
  else
    let s := (s.portCount p 6 1).tapPort p (if invert then 0 else bytes.length) 1 (b2n invert)
    let s := if invert then (s.portCount p 8 1).portAlarm (fCLI_PORT_ALARM_STOMP p) else s
    let phys := if fx then s.get (fCLI_FX_CFG_PHYS k) + 1 else 1
    -- R199: preamble and frame; the gap to a frame that waits is shortened, to 8 bytes
    let span := fun (n : Nat) => s.bytesFs p n / phys
    let n := bytes.length + 8
    let from_ := s.egressStart p (max ((s.portX p).egressEnd + span 8) s.fsNow) (span (n + 12))
    (s.modPort p fun x => { x with egressEnd := from_ + span n }).emit
      (if fx then .flexe k (bitsOf cfg 11 5) out else .frame p out)

/-- The receive configuration word of a flow. -/
def State.rxCfg (s : State) (f : Nat) : Option Nat := (s.cli.rxMap.find? fun m => m.1 == f && bitOf m.2.1 0).map (·.2.1)

/-- R198, R199: the egress takes the next element of a flow. -/
def execEgressHeader (f : Fin 256) (s : State) : Ans :=
  match s.rxCfg f with
  | none => .next s
  | some cfg =>
    let rx := (s.flowX f).rx
    let h := rx.take 4
    let bs := h.map (·.1)
    let v := fieldBytes bs 0 3
    let kind := v / 256 % 4
    let len := v / 1024
    if rx.length < 4 then .next s
    else if fieldBytes bs 3 1 ≠ crc8 24 v then
      let p := s.egressPort cfg
      -- the next mark is that of a later LF: an LF has one, at its first header
      let rest := (rx.drop 1).dropWhile fun p => !p.2.2
      let s := s.modFlow f fun x => { x with rx := rest, insync := !rest.isEmpty }
      .next (((s.tapPort p 0 0 1).portCount p 7 1).portAlarm (fCLI_PORT_ALARM_TX_DROP p))
    else if kind = 0 || kind = 3 then
      .next ((s.modFlow f fun x => { x with rx := x.rx.drop 4, fault := kind == 3 }).showFlow f)
    else if rx.length < 4 + len then .next s
    else
      let el := rx.take (4 + len)
      let s := (s.modFlow f fun x => { x with rx := x.rx.drop (4 + len), fault := false }).showFlow f
      .next (s.egressFrame f cfg ((el.drop 4).map (·.1)) (kind == 2 || el.any fun p => p.2.1))

/-- R198, R199: the mapping words of a frame-adapted flow in a delivered LF. -/
def State.flowRx (s : State) (f : Nat) (ws : List (Nat × Bool)) : State :=
  let bs := ws.flatMap fun w => (natBytes 16 w.1).map fun b => (b, w.2)
  let ofs := bytesNat ((bs.take 2).map (·.1))
  let data := (bs.drop 2).zipIdx.map fun p => (p.1.1, p.1.2, p.2 == ofs)
  let x := s.flowX f
  if ws.isEmpty then s
  else if x.insync then s.modFlow f fun x => { x with rx := x.rx ++ data }
  else if ofs < data.length then s.modFlow f fun x => { x with rx := data.drop ofs, insync := true }
  else s

/-- R200, R201, R205, R207: the mapping words of an OTUCn flow in a delivered LF.  How many FlexO frames they fill and the
regenerated overhead are free values (log entry 58). -/
def State.otnRx (s : State) (f p : Nat) (ws : List (Nat × Bool)) : State :=
  match ws with
  | [] => s
  | (c, _) :: rest =>
    let v := c / 2 ^ 96
    let good := crc8 32 v == bitsOf c 88 8
    let cnt := min (if good then v / 65536 else (s.portX p).lastCnt) rest.length
    let s := if good then s else s.portCount p 2 1
    let s := s.modPort p fun x => { x with lastCnt := cnt }
    let d := ws.length
    let out := (rest.zipIdx.filter fun q => otnCarries cnt d (q.2 + 1)).map (·.1)
    let stomp := (out.filter fun q => q.2).length
    let s := if good then (s.modFlow f fun x => { x with fault := bitOf v 7 }).showFlow f else s
    let s := if stomp = 0 then s else (s.portCount p 8 stomp).portAlarm (fCLI_PORT_ALARM_STOMP p)
    let s := s.tapPort p 0 0 stomp
    if s.portState p = 0 || s.is (fCLI_PORT_STATUS_FAULT_TX p) then s
    else
      let oh := Config.freeValue s.free
      let s := (s.takeFree.tapPort p (16 * out.length) 0 0).emit (.otuc p (out.map (·.1)) (oh.setWidth 64))
      (s.portCount p 6 (s.freeBits 16)).takeFree

/-- The mapping words of a received group, each with its errored mark, go to its sink. -/
def State.sink (s : State) (g : Mapped) (ws : List (Nat × Bool)) : State :=
  if typeOtn g.cfg then s.otnRx g.flow (bitsOf g.cfg 2 6) ws else s.flowRx g.flow ws

/-! ### FlexE (R202, R203) -/

/-- R203: a calendar set by a Course goes into the calendar not in use, and a switch is requested. -/
def State.loadCalendar (s : State) (k : Nat) : State :=
  let cal := (List.range 80).map fun e => s.nat (aCLI_FX_CAL k e)
  let s := { s with cli := { s.cli with flexe := modAt s.cli.flexe k fun x => { x with inactive := cal } } }
  s.setB (fCLI_FX_STATUS_CAL_PENDING k) true

/-- R196: the SSI TYPE of the flows of changed ports follows, on transmit and in the receive mapping in force. -/
def State.typesFollow (s : State) (ports : List Nat) : State :=
  let hit := fun (cfg : Nat) => !bitOf cfg 1 && ports.contains (bitsOf cfg 2 6)
  let typed := fun (m : Nat × Nat × Nat) =>
    if hit m.2.1 then (m.1, withBits m.2.1 24 8 (s.srcType m.2.1), m.2.2) else m
  let s := { s with cli := { s.cli with rxMap := s.cli.rxMap.map typed } }
  ((List.range 256).filter fun f => hit (s.nat (aCLI_FLOW_CFG f))).foldl (fun s f => s.showFlow f) s

/-- R203: the far end answers with CA. -/
def execFlexeCalendarSwitch (k : Fin 8) (s : State) : Ans :=
  if s.is (fCLI_FX_STATUS_CAL_PENDING k) then
    let s := { s with cli := { s.cli with
        flexe := modAt s.cli.flexe k fun x => { inactive := x.active, active := x.inactive } } }
    .next ((s.setB (fCLI_FX_STATUS_CAL_PENDING k) false).setB (fCLI_FX_STATUS_CAL_SEL k) (!s.is (fCLI_FX_STATUS_CAL_SEL k)))
  else .next s

/-- R202, R205: lock and mismatches of a FlexE group. -/
def execFlexeLockChange (k : Fin 8) (locked gid map : Bool) (s : State) : Ans :=
  if !s.up || !s.is (fCLI_FX_CFG_EN k) || s.held (8 + s.portGroup (s.get (fCLI_FX_CFG_PORT_BASE k))) then .next s
  else
    let was := s.is (fCLI_FX_STATUS_LOCKED k)
    let newBad := (was && !locked) || (gid && !s.is (fCLI_FX_STATUS_GID_MISMATCH k)) || (map && !s.is (fCLI_FX_STATUS_MAP_MISMATCH k))
    let s := (s.setB (fCLI_FX_STATUS_LOCKED k) locked).setB (fCLI_FX_STATUS_GID_MISMATCH k) gid
    .next ((s.setB (fCLI_FX_STATUS_MAP_MISMATCH k) map).raiseIf newBad fCLI_ALARM_FLEXE)

/-! ### Course items and reset (R206, R458) -/

/-- R202, R206: the configuration of a FlexE group has applied; one that is no longer enabled has no lock and no mismatch. -/
def State.flexeCourse (s : State) (k : Nat) : State :=
  if s.is (fCLI_FX_CFG_EN k) then s
  else ((s.setB (fCLI_FX_STATUS_LOCKED k) false).setB (fCLI_FX_STATUS_GID_MISMATCH k) false).setB
    (fCLI_FX_STATUS_MAP_MISMATCH k) false

/-- R206: the items of a port have applied; `before` is the state before them.  A changed port passes through
`DISABLED`. -/
def State.portCourse (s before : State) (p : Nat) : State :=
  let s := if s.get (fCLI_PORT_CFG_TYPE p) = before.get (fCLI_PORT_CFG_TYPE p) then s else s.tapChange (portKey p)
  if (s.nat (aCLI_PORT_CFG p)) / 2 ≠ (before.nat (aCLI_PORT_CFG p)) / 2 && s.portState p ≠ 0 then
    ((s.setB (fCLI_PORT_CFG_EN p) false).portRefresh p |>.setReg (aCLI_PORT_CFG p) (s.reg (aCLI_PORT_CFG p))).portRefresh p
  else s.portRefresh p

/-- R206: a flow whose source or adaptation changed, or that is no longer enabled, starts with empty streams. -/
def State.flowCourse (s before : State) (f : Nat) : State :=
  let key := fun (t : State) => (t.nat (aCLI_FLOW_CFG f)) % 65536
  let s := if key s = key before then s
    else s.modFlow f fun x => { x with buf := [], held := [], idleFrom := none, otn := [], res := 0 }
  s.showFlow f

/-- R458: a client group enters its reset: its ports are `DISABLED` and the buffers of their flows empty. -/
def State.cliReset (s : State) (g : Nat) : State :=
  let s := s.setB (if g = 0 then fCLI_STATUS_A_ON else fCLI_STATUS_B_ON) false
  let mine := (List.range 64).filter fun p => s.portGroup p == g
  let s := mine.foldl (fun s p => s.portRefresh p) s
  (List.range 256).foldl (fun s f =>
    let p := if s.is (fCLI_FLOW_CFG_KIND f) then s.get (fCLI_FX_CFG_PORT_BASE (s.get (fCLI_FLOW_CFG_FXG f)))
      else s.get (fCLI_FLOW_CFG_PORT f)
    if s.is (fCLI_FLOW_CFG_EN f) && mine.contains p then s.modFlow f fun _ => {} else s) s

/-- R39, R203, R206: client items other than flows' have been written at addresses: ports pass through what R206 says, FlexE
groups take their configuration, calendars are loaded. -/
def State.clientItemsIn (s before : State) (addrs : List Nat) : State :=
  let ports := (List.range 64).filter fun p => addrs.contains (aCLI_PORT_CFG p)
  let s := (ports.foldl (fun s p => s.portCourse before p) s).typesFollow ports
  let s := ((List.range 8).filter fun k => addrs.contains (aCLI_FX_CFG k)).foldl (fun s k => s.flexeCourse k) s
  ((List.range 8).filter fun k => addrs.any fun x => aCLI_FX_CAL k 0 ≤ x && x < aCLI_FX_CAL k 80).foldl
    (fun s k => s.loadCalendar k) s

end Sys2Proof.Machine
end

