-- ==== Sys2Proof/Machine/Hkm.lean ====
section
/-!
DEFINITION. The housekeeping monitor (14_housekeeping_monitor.md): triggers and passes, results, filters, detectors,
thresholds, and the PWM channels.
-/

namespace Sys2Proof.Machine

def State.modHkm (s : State) (f : HkmState → HkmState) : State := { s with hkm := f s.hkm }
def State.hkmConv (s : State) (x : Nat) : HkmConv := s.hkm.convs.getD x {}
def State.modHkmConv (s : State) (x : Nat) (f : HkmConv → HkmConv) : State :=
  s.modHkm fun h => { h with convs := modAt h.convs x f }
def State.hkmIn (s : State) (k : Nat) : HkmInput := s.hkm.inputs.getD k {}
def State.modHkmIn (s : State) (k : Nat) (f : HkmInput → HkmInput) : State :=
  s.modHkm fun h => { h with inputs := modAt h.inputs k f }

/-- HKM runs: no cold reset, boot hold, reset or safe state (R351). -/
def State.hkmRuns (s : State) : Bool := s.up && !s.held 13 && !s.is fHKM_STATUS_SAFE

/-- R335: interleave is in effect. -/
def State.ilvOn (s : State) : Bool := s.is fHKM_CTRL_ILV && s.is fHKM_CTRL_A_EN && s.is fHKM_CTRL_B_EN

/-- Converter `x` runs. -/
def State.hkmOn (s : State) (x : Nat) : Bool :=
  s.hkmRuns && s.is (if x = 0 then fHKM_CTRL_A_EN else fHKM_CTRL_B_EN)

/-- Whose slot list and trigger a converter uses: under interleave HKA's (R335). -/
def State.hkmList (s : State) (x : Nat) : Nat := if s.ilvOn then 0 else x

/-- NSLOT of a list. -/
def State.nslot (s : State) (l : Nat) : Nat := s.get (if l = 0 then fHKM_NSLOT_A_N else fHKM_NSLOT_B_N)

/-- PWM mode of a channel in force. -/
def State.pwmMode (s : State) (k : Nat) : Nat := s.get (fHKM_PWM_CFG_MODE k)

/-- HKM_STATUS, but for SAFE. -/
def State.hkmShow (s : State) : State :=
  let bits := fun m => (List.range 8).foldl (fun w k => w + b2n (s.pwmMode k == m) * 2 ^ k) 0
  let s := (s.setB fHKM_STATUS_A_ON (s.hkmOn 0)).setB fHKM_STATUS_B_ON (s.hkmOn 1)
  let s := (s.setB fHKM_STATUS_ILV_ON (s.ilvOn && s.hkmRuns)).setB fHKM_STATUS_STALE (s.hkm.inputs.any (·.stale))
  (s.set fHKM_STATUS_PWM_DRIVE (bits 1)).set fHKM_STATUS_PWM_TRIG (bits 2)

/-! ### Filters (R341 to R344) -/

/-- R343, R352: the filter and the detectors of an input restart empty; of a conversion in progress nothing enters them. -/
def State.filterRestart (s : State) (k : Nat) : State :=
  let s := s.modHkmIn k fun i => { stale := i.stale, since := s.clk + 1 }
  let s := (s.setB (fHKM_IN_FSTAT_VALID k) false).setB (fHKM_IN_FSTAT_PILOT_VALID k) false
  s.modHkm fun h => { h with fresh := if h.fresh.contains k then h.fresh else h.fresh ++ [k] }

/-- The inputs a slot list names, in its first NSLOT slots. -/
def State.listInputs (s : State) (l : Nat) : List Nat := (List.range (s.nslot l)).map fun j => s.get (fHKM_SLOT_INPUT l j)

/-- R342: L, and D, of an input. -/
def State.filterLen (s : State) (k : Nat) : Nat × Nat :=
  match s.get (fHKM_IN_CFG_MODE k) with
  | 0 => let l := s.get (fHKM_IN_CFG_LEN k) + 1
         (l, if s.is (fHKM_IN_CFG_BLOCK k) then l else 1)
  | 1 => (4, 1) | 2 => (64, 16) | 3 => (1024, 256) | _ => (4096, 4096)

/-- R337: time between pass starts of a list in ns. -/
def State.passPeriod (s : State) (l : Nat) : Nat :=
  match s.get (fHKM_TRIG_SRC l) with
  | 1 => 1000 * max 1 (s.get (fHKM_TMR_PERIOD (s.get (fHKM_TRIG_IDX l))))
  | 2 => (s.hkm.pwm.getD (s.get (fHKM_TRIG_IDX l)) (2000, 0)).1 * 5
  | _ => 1000 * s.nslot l

/-- The sampling instants, in ns from a pass's start, of an input in a list. -/
def State.listTimes (s : State) (l k : Nat) : List Nat :=
  (indexesWhere (s.nslot l) fun j => s.get (fHKM_SLOT_INPUT l j) == k).map (1000 * ·)

/-- Whether instants in a period of `t` are evenly spaced. -/
def evenly (t : Nat) (xs : List Nat) : Bool :=
  match xs with
  | [] => false
  | x :: rest =>
    let gaps := (List.zipWith (fun a b => b - a) (x :: rest) rest) ++ [t + x - (x :: rest).getLastD x]
    gaps.all fun g => g * xs.length == t

/-- R346: the samples an input takes in one pass and the pass period in ns, where its slots are evenly spaced: under
interleave those of HKA's list, at twice its rate, else in one converter's list; two converters that do not interleave have no
common spacing. -/
def State.sampleRate (s : State) (k : Nat) : Option (Nat × Nat) :=
  let times := fun x => if s.hkmOn x then s.listTimes x k else []
  let one := fun l => if evenly (s.passPeriod l) (s.listTimes l k) then some ((s.listTimes l k).length, s.passPeriod l)
    else none
  if s.ilvOn then
    if evenly (s.passPeriod 0) (s.listTimes 0 k) then some (2 * (s.listTimes 0 k).length, s.passPeriod 0) else none
  else match times 0, times 1 with
    | [], [] => none
    | _, [] => one 0
    | [], _ => one 1
    | _, _ => none

/-- R346: the pilot detector's conditions: PILOT_F from 100 Hz to 0.45 × fs. -/
def State.pilotOk (s : State) (k : Nat) : Bool :=
  match s.sampleRate k with
  | none => false
  | some (a, t) => 100 ≤ s.nat (aHKM_IN_PILOT_F k) && s.nat (aHKM_IN_PILOT_F k) * t * 100 ≤ 1000000000 * (45 * a)

/-- R344, R346: a sample of the input is lost to INVALID: the pilot block gives no output. -/
def State.pilotLose (s : State) (k : Nat) : State :=
  (s.modHkmIn k fun i => { i with pilotBad := true }).setB (fHKM_IN_FSTAT_PILOT_VALID k) false

/-- R346: a pilot block begins anew. -/
def HkmInput.pilotClear (i : HkmInput) : HkmInput :=
  { i with pilot := 0, pilotBad := false, pilotSum := 0, pilotRe := 0, pilotIm := 0 }

/-- R346: a sample of the block enters the transform, at the angle 2π × PILOT_F ÷ fs per sample; fs is `a` samples in `t` ns. -/
def HkmInput.goertzel (i : HkmInput) (f a t : Nat) (v : Int) : HkmInput :=
  let p : Int := ((i.pilot * f * t : Nat) : Int)
  { i with pilot := i.pilot + 1, pilotSum := i.pilotSum + v
           pilotRe := i.pilotRe + v * cosTurns p (1000000000 * a) / 2 ^ 32
           pilotIm := i.pilotIm - v * sinTurns p (1000000000 * a) / 2 ^ 32 }

/-- R346: PILOT_MAG in 0.01 dB: 20 log10(2|X| ÷ the sum of the block), rounded to the nearest (log entry 24); none where that is the
logarithm of 0, or the mean is 0. -/
def HkmInput.pilotMag (i : HkmInput) : Option Int :=
  let p := 4 * (i.pilotRe.natAbs ^ 2 + i.pilotIm.natAbs ^ 2)
  if p = 0 || i.pilotSum = 0 then none else some (log1000 p (2 ^ 64 * i.pilotSum.natAbs ^ 2))

/-- R346: a complete block gives its output; a magnitude that the rule gives no value is free. -/
def State.pilotOut (s : State) (k : Nat) (i : HkmInput) : State :=
  let s := match i.pilotMag with
    | some m => s.setInt (aHKM_IN_PILOT_MAG k) m
    | none => (s.setInt (aHKM_IN_PILOT_MAG k) (toSigned 32 (s.freeBits 32))).takeFree
  (s.setInt (aHKM_IN_PILOT_PH k) (angleOf i.pilotRe i.pilotIm)).setB (fHKM_IN_FSTAT_PILOT_VALID k) true

/-- R346: a valid sample enters the pilot detector. -/
def State.pilotSample (s : State) (k : Nat) (v : Int) (ovr : Bool) : State :=
  if !s.is (fHKM_IN_CFG_PILOT_EN k) then s
  else match (if s.pilotOk k then s.sampleRate k else none) with
  | none => ((s.modHkmIn k HkmInput.pilotClear).setB (fHKM_IN_FSTAT_PILOT_VALID k) false).raise fHKM_ALARM_CFG_ERR
  | some (a, t) =>
    let s := if ovr then s.pilotLose k else s
    let i := (s.hkmIn k).goertzel (s.nat (aHKM_IN_PILOT_F k)) a t v
    let done := i.pilot == 256 * 2 ^ s.get (fHKM_IN_CFG_PILOT_N k)
    let s := s.modHkmIn k fun _ => if done then i.pilotClear else i
    if done && !i.pilotBad then s.pilotOut k i else s

/-- R347: ENV at a valid sample, with 16 bits after the point: since the sample before it has decayed toward FILT with the time
constant 2^ENV_DECAY µs. -/
def State.envNow (s : State) (k : Nat) (v : Int) : Int :=
  let i := s.hkmIn k
  match i.envAt with
  | none => v * 65536
  | some c =>
    let f := 65536 * s.int (aHKM_IN_FILT k)
    let e := f + Int.tdiv ((i.env - f) * (expNeg (s.clk - c) (625 * 2 ^ s.get (fHKM_IN_CFG_ENV_DECAY k)) : Nat)) (2 ^ 180)
    max e (v * 65536)

/-- R345, R347: a valid sample enters the peak and envelope detectors. -/
def State.peakSample (s : State) (k : Nat) (v : Int) : State :=
  let first := s.hkm.fresh.contains k
  let s :=
    if !s.is (fHKM_IN_CFG_PEAK_EN k) then s
    else
      let hi := if first then v else max v (s.int (aHKM_IN_PEAK_MAX k))
      let lo := if first then v else min v (s.int (aHKM_IN_PEAK_MIN k))
      ((s.setInt (aHKM_IN_PEAK_MAX k) hi).setInt (aHKM_IN_PEAK_MIN k) lo).modHkm fun h =>
        { h with fresh := h.fresh.erase k }
  if !s.is (fHKM_IN_CFG_ENV_EN k) then s
  else
    let e := s.envNow k v
    (s.modHkmIn k fun i => { i with env := e, envAt := some s.clk }).setInt (aHKM_IN_ENV k) (Int.tdiv e 65536)

/-- R342, R347, R348: an output of the filter: FILT truncated toward zero, RMS over the same window (truncated as well,
log entry 24), HI and LO. -/
def State.filterOut (s : State) (k : Nat) : State :=
  let w := (s.hkmIn k).window
  let l := w.length
  let mean := Int.tdiv (w.foldl (fun a x => a + x.1) 0) (l : Int)
  let s := s.setInt (aHKM_IN_FILT k) mean
  let s := (s.setB (fHKM_IN_FSTAT_VALID k) true).setB (fHKM_IN_FSTAT_OVR k) (w.any (·.2))
  let s := if s.is (fHKM_IN_CFG_RMS_EN k) then
      s.setNat (aHKM_IN_RMS k) (isqrt ((w.foldl (fun a x => a + ((x.1 - mean) * (x.1 - mean)).toNat) 0) / max 1 l))
    else s
  let hi := s.int (aHKM_IN_THR_HI k) < mean
  let lo := mean < s.int (aHKM_IN_THR_LO k)
  let rise := (hi && !s.is (fHKM_IN_FSTAT_HI k)) || (lo && !s.is (fHKM_IN_FSTAT_LO k))
  ((s.setB (fHKM_IN_FSTAT_HI k) hi).setB (fHKM_IN_FSTAT_LO k) lo).raiseIf rise fHKM_ALARM_THR

/-- R343, R344: a sample that carries no INVALID of R340 enters the filter of its input; `fill` says that it still
carries the INVALID of a restart. -/
def State.filterSample (s : State) (k : Nat) (v : Int) (ovr fill : Bool) : State :=
  let ld := s.filterLen k
  let s := s.modHkmIn k fun i =>
    { i with n := i.n + 1, window := if i.n < 2 then [] else ((v, ovr) :: i.window).take ld.1 }
  let n := (s.hkmIn k).n
  let s := if ld.1 + 2 ≤ n && (n - 2 - ld.1) % ld.2 == 0 then s.filterOut k else s
  if fill then s else (s.peakSample k v).pilotSample k v ovr

/-! ### Passes and results (R336 to R340) -/

/-- R337: a trigger of a converter: its pass starts DELAY ns later, or it is missed. -/
def State.hkmTrigger (s : State) (x : Nat) : State :=
  let c := s.hkmConv x
  if c.slot.isSome || c.startAt.isSome then (s.addCnt (aHKM_CNT 5) 1).raise fHKM_ALARM_TRIG_MISS
  else s.modHkmConv x fun c => { c with startAt := some (s.clk + cyclesOfNs (s.get (fHKM_TRIG_DELAY x))) }

/-- A trigger reaches every converter whose register selects it; under interleave HKB_TRIG is ignored (R335). -/
def State.hkmTriggers (s : State) (src idx : Nat) (edge : Option Bool) : State :=
  [0, 1].foldl (fun s x =>
    if s.hkmOn x && !(x == 1 && s.ilvOn) && s.get (fHKM_TRIG_SRC x) == src && s.get (fHKM_TRIG_IDX x) == idx
        && (match edge with | none => true | some f => s.is (fHKM_TRIG_EDGE x) == f)
    then s.hkmTrigger x else s) s

/-- R337: the PLU cycle from which a timer counts. -/
def State.timerFrom (s : State) (t c : Nat) : State := s.modHkm fun h => { h with timers := setAt h.timers t c }

/-- R337, R353: a write of a timer: one that becomes enabled counts from now. -/
def State.writeTimer (s : State) (t : Nat) (v : Word) : State :=
  let was := s.is (fHKM_TMR_EN t)
  let s := s.setReg (aHKM_TMR t) (setFld (v &&& 0x1FFFF#32) 0 16 (max 1 (fld v 0 16)))
  if s.is (fHKM_TMR_EN t) && !was then s.timerFrom t s.clk else s

/-- R337: an HKM timer expires, PERIOD µs after it did last. -/
def execHkmTimerExpiry (t : Fin 4) (s : State) : Ans :=
  if s.hkmRuns && s.is (fHKM_TMR_EN t) then
    let s := s.waitClk (s.hkm.timers.getD t 0 + 625 * max 1 (s.get (fHKM_TMR_PERIOD t)))
    .next ((s.timerFrom t s.clk).hkmTriggers 1 t none)
  else .next s

/-- R338, R492: a PWM period: PERIOD, and DUTY ÷ 65,536 of it rounded to the edges' resolution of 78.125 ps. -/
def pwmPeriod (period duty : Nat) : Nat × Nat := (period, roundDiv (64 * period * duty) 65536)

/-- R338: the PWM period of a channel that is in progress now; PERIOD and DUTY have taken effect at the end of the one before. -/
def State.pwmCatch (s : State) (k : Nat) : State :=
  let end_ := s.hkm.pwmFrom.getD k 0 + 5000000 * (s.hkm.pwm.getD k (2000, 0)).1
  if s.fsNow + 1600000 ≤ end_ then s
  else
    let p := pwmPeriod (s.get (fHKM_PWM_CFG_PERIOD k)) (s.nat (aHKM_PWM_DUTY k))
    let len := 5000000 * max 1 p.1
    s.modHkm fun h => { h with
      pwm := setAt h.pwm k p, pwmFrom := setAt h.pwmFrom k (end_ + (s.fsNow + 1600000 - 1 - end_) / len * len) }

/-- R337: when the waveform of a channel rises, or falls, in the period in progress, in fs of PLU time: it is active from the start of
the period on (log entry 24).  Without an active part it has no edge. -/
def State.pwmEdgeAt (s : State) (k : Nat) (falling : Bool) : Option Nat :=
  let p := s.hkm.pwm.getD k (2000, 0)
  if p.2 = 0 then none else some (s.hkm.pwmFrom.getD k 0 + if falling then 78125 * p.2 else 0)

/-- R337: an edge at its instant `t` reaches the converters. -/
def State.pwmEdge (s : State) (k t : Nat) (falling : Bool) : State :=
  let s := s.waitClk (t / 1600000)
  (s.modHkm fun h => { h with pwmEdge := setAt h.pwmEdge k (t + 1) }).hkmTriggers 2 k (some falling)

/-- The edge of the period in progress, if it has not passed and has not triggered yet. -/
def State.pwmDue (s : State) (k : Nat) (falling : Bool) : Option Nat :=
  (s.pwmEdgeAt k falling).filter fun t => s.fsNow < t + 1600000 && s.hkm.pwmEdge.getD k 0 ≤ t

/-- The PLU cycle in which the period in progress ends. -/
def State.pwmPeriodEnd (s : State) (k : Nat) : Nat :=
  (s.hkm.pwmFrom.getD k 0 + 5000000 * (s.hkm.pwm.getD k (2000, 0)).1) / 1600000

/-- R337: the next edge of a PWM channel's internal waveform, in this period or the one after it; in `OFF` it has none. -/
def execHkmPwmEdgeTrigger (k : Fin 8) (falling : Bool) (s : State) : Ans :=
  if s.hkmRuns && s.pwmMode k != 0 then
    let s := s.pwmCatch k
    match s.pwmDue k falling with
    | some t => .next (s.pwmEdge k t falling)
    | none =>
      if (s.pwmEdgeAt k falling).isNone && s.nat (aHKM_PWM_DUTY k) = 0 then .next s
      else
        let s := (s.waitClk (s.pwmPeriodEnd k)).pwmCatch k
        .next (match s.pwmEdgeAt k falling with
          | some t => s.pwmEdge k t falling
          | none => s)
  else .next s

/-- R337: DELAY after a trigger, or at once in `CONT`, a pass starts; under interleave HKB's starts with HKA's. -/
def execHkmPassStart (x : Fin 2) (s : State) : Ans :=
  if !s.hkmOn x || (s.hkmConv x).slot.isSome || (x == 1 && s.ilvOn) then .next s
  else
    let start := fun (s : State) =>
      let s := s.modHkmConv x fun c => { c with slot := some 0, startAt := none, next := s.clk }
      if s.ilvOn then
        s.modHkmConv 1 fun c => { c with slot := some 0, startAt := none, next := s.clk + cyclesOfNs 500 } else s
    match (s.hkmConv x).startAt with
    | some t => .next (start (s.waitClk t))
    | none => .next (if s.get (fHKM_TRIG_SRC x) = 0 then start s else s)

/-- The slot after one of a list: the next, the first of the next pass in `CONT`, or none. -/
def State.nextSlot (s : State) (l j : Nat) : Option Nat :=
  if j + 1 < s.nslot l then some (j + 1)
  else if s.get (fHKM_TRIG_SRC l) = 0 then some 0 else none

/-- R499: a sensor of R333, an input of 40 to 63, reads `temp` in 0.01 °C: THERM_N is asserted at 115 °C and released once
every sensor's last reading is below 110 °C. -/
def State.thermReading (s : State) (k : Nat) (temp : Int) : State :=
  if k < 40 then s
  else
    let hot := s.sec.hot.filter fun x => x != k
    let hot := if temp < 11000 then hot else k :: hot
    { s with sec := { s.sec with hot := hot, therm := (11500 ≤ temp || s.sec.therm) && !hot.isEmpty } }

/-- The values in force of an item of a domain (R358). -/
def State.calValues (s : State) (d item : Nat) : List (Int × Nat) := (assocGet (s.cal.domains.getD d {}).force item).getD []

/-- R334: the code of a conversion, corrected by the calibration set in force and limited; nominal values correct nothing
(R358).  Item HKM holds, per converter and gain, how far the codes of 0 V and of 1.0 V ÷ G lie off 0 and 52,428 (R363, log
entry 29). -/
def State.hkmCode (s : State) (x gain code : Nat) : Nat :=
  let vs := s.calValues 4 4
  match vs[8 * x + 2 * gain]?, vs[8 * x + 2 * gain + 1]? with
  | some o, some h =>
    let w := max 1 o.2
    (clampI 0 65535 (divNear (52428 * (code * w - o.1)) (52428 * w + h.1 - o.1).toNat)).toNat
  | _, _ => code

/-- R355: the reading of the sensor behind a `TEMP` input, corrected: item SENS holds the offsets of a die's sensors in their order. -/
def State.sensorTemp (s : State) (k : Nat) (temp : Int) : Int :=
  let p := if k < 48 then (4, k - 40) else ((k - 48) / 4, (k - 48) % 4)
  match (s.calValues p.1 5)[p.2]? with
  | some v => temp + divNear v.1 v.2
  | none => temp

/-- R333, R334, R339, R340, R343: a conversion's result, 1.1 µs after its sampling instant: the result register, the
counters, the marks, and the filter of its input. -/
def execHkmConversionResult (x : Fin 2) (m : HkmSample) (s : State) : Ans :=
  match (if s.hkmOn x then (s.hkmConv x).slot else none) with
  | none => .next s
  | some j =>
    let s := s.waitClk ((s.hkmConv x).next + cyclesOfNs 1100)
    let l := s.hkmList x
    let c := s.hkmConv x
    let word := c.old.getD (s.nat (aHKM_SLOT l j))
    let k := bitsOf word 0 6
    let outside := if k < 40 then m.outside else none
    let m := { m with outside := outside, temp := s.sensorTemp k m.temp }
    let code := match outside with
      | none => s.hkmCode x (if k < 40 then bitsOf word 8 2 else 0) m.code.toNat
      | some true => 0xFFFF
      | some false => 0
    let recover := 0 < (s.hkmConv x).invalid
    let ld := s.filterLen k
    let stale := (s.hkmIn k).stale
    let late := c.next < (s.hkmIn k).since
    let fill := !late && (s.hkmIn k).n < ld.1 + 2
    let found := s.is (fHKM_RESULT_NEW x)
    let w := code + 2 ^ 16 * k + 2 ^ 22 * b2n outside.isSome + 2 ^ 23 * b2n found + 2 ^ 24 * b2n (recover || fill)
      + b2n stale * 2 ^ 25 + j * 2 ^ 26 + 2 ^ 31
    let s := ((s.setNat (aHKM_RESULT x) w).setNat (aHKM_IN_RAW k) w).thermReading k m.temp
    let s := s.addCnt (aHKM_CNT x) 1
    let s := if found then (s.addCnt (aHKM_CNT (2 + x)) 1).raise fHKM_ALARM_OVERRUN else s
    let s := if outside.isSome then (s.addCnt (aHKM_CNT 4) 1).raise fHKM_ALARM_OVR else s
    let s := s.modHkmConv x fun c =>
      { c with slot := (c.ahead.map (·.1)).or (s.nextSlot l j), old := c.ahead.map (·.2), ahead := none, next := c.next + 625,
               invalid := if outside.isSome then 2 else c.invalid - 1 }
    let v : Int := if k < 40 then ((code * 16 / 2 ^ bitsOf word 8 2 : Nat) : Int) else m.temp
    -- R352: a run of R343 goes on under STALE, and a conversion that was in progress at a restart is not of it
    .next (if late then s
      else if stale then (if recover then s else s.modHkmIn k fun i => { i with n := i.n + 1 })
      else if recover then s.pilotLose k
      else s.filterSample k v outside.isSome fill)

/-- R339: the word of a result register as read; the read clears NEW. -/
def State.hkmRead (s : State) (x : Nat) : State := s.setB (fHKM_RESULT_NEW x) false

/-! ### Writes (R335, R337, R338) -/

/-- R338: a write of HKM_PWMk_CFG: `DRIVE` and `TRIG` exclude each other; PERIOD waits for the next period. -/
def State.writePwmCfg (s : State) (k : Nat) (v : Word) : State × Code :=
  let mode := if fld v 0 2 = 3 then 0 else fld v 0 2
  let now := s.pwmMode k
  if (mode = 2 && now = 1) || (mode = 1 && now = 2) then (s.raise fHKM_ALARM_RES_BUSY, .resBusy)
  else
    let w := setFld (setFld (v &&& 0xFFFF0007#32) 0 2 mode) 16 16 (max 20 (fld v 16 16))
    let s := (s.setReg (aHKM_PWM_CFG k) w).hkmShow
    -- a channel that runs no period takes PERIOD and DUTY at once
    (if now = 0 then s.modHkm fun h => { h with pwm := setAt h.pwm k (pwmPeriod (fld w 16 16) (s.nat (aHKM_PWM_DUTY k))), pwmFrom := setAt h.pwmFrom k s.fsNow } else s, .ok)

/-- R338: a write of the mode register of a PWM channel. -/
def execHkmPwmModeWrite (k : Fin 8) (v : Word) (s : State) : Ans :=
  .next (s.hostWrite (aHKM_PWM_CFG k) fun s =>
    let r := s.writePwmCfg k v
    if r.2 = .resBusy then r.1.logAcc .resBusy (aHKM_PWM_CFG k) true else r.1)

/-- R338: a write of a duty; an idle channel takes it at once. -/
def State.writePwmDuty (s : State) (k : Nat) (v : Word) : State :=
  let s := s.setNat (aHKM_PWM_DUTY k) (fld v 0 16)
  if s.pwmMode k = 0 then s.modHkm fun h => { h with pwm := modAt h.pwm k fun p => pwmPeriod p.1 (fld v 0 16) } else s

/-- R338: a PWM period starts when the one in progress has lasted its PERIOD: PERIOD and DUTY take effect. -/
def execPwmPeriodStart (k : Fin 8) (s : State) : Ans :=
  if s.hkmRuns && s.pwmMode k != 0 then
    .next ((s.waitClk ((s.hkm.pwmFrom.getD k 0 + 5000000 * (s.hkm.pwm.getD k (2000, 0)).1) / 1600000)).pwmCatch k)
  else .next s

/-- R338: what land PWMk does: its inactive level, and the part of each period, in 78.125 ps, for which it is active. -/
def State.pwmLand (s : State) (k : Nat) : Bool × Nat :=
  (s.is (fHKM_PWM_CFG_POL k), if s.pwmMode k = 1 then (s.hkm.pwm.getD k (2000, 0)).2 else 0)

/-- R337: a write of a trigger register: SRC = 3, or an IDX outside the range of its SRC, is a configuration error. -/
def State.writeTrig (s : State) (x : Nat) (v : Word) : State × Code :=
  if fld v 0 2 = 3 || (fld v 0 2 = 1 && 4 ≤ fld v 2 3) then (s.raise fHKM_ALARM_CFG_ERR, .valueInvalid)
  else (s.setReg (aHKM_TRIG x) (v &&& 0xFFFF003F#32), .ok)

def execHkmTrigWrite (x : Fin 2) (v : Word) (s : State) : Ans :=
  .next (s.hostWrite (aHKM_TRIG x) fun s => (s.writeTrig x v).1)

/-! ### STALE, Courses, safe state and reset (R336, R343, R350, R351) -/

/-- R350, R364: STALE of an input begins or ends; the filter restarts at its end. -/
def State.hkmStale (s : State) (k : Nat) (v : Bool) : State :=
  let was := (s.hkmIn k).stale
  let s := (s.modHkmIn k fun i => { i with stale := v }).setB (fHKM_IN_FSTAT_STALE k) v
  (if was && !v then s.filterRestart k else s).hkmShow

/-- R364: an input whose readings the calibration run disturbs now: during the HKM step of a converter those of its slot list, under
interleave of HKA's; during SENS every `TEMP` input. -/
def State.staleWanted (s : State) (k : Nat) : Bool :=
  match s.cal.run.map (·.block) with
  | some 4 => (s.listInputs 0).contains k
  | some 5 => (s.listInputs (s.hkmList 1)).contains k
  | some 6 => s.get (fHKM_IN_CFG_CLASS k) == 2
  | _ => false

/-- R364: STALE of every input follows the step in progress and the slot lists. -/
def State.staleShow (s : State) : State :=
  (List.range 64).foldl (fun s k => if s.staleWanted k == (s.hkmIn k).stale then s else s.hkmStale k (s.staleWanted k)) s

/-- R335: HKB follows HKA from here on, 0.5 µs behind it, from the first slot that it can still sample; or it leaves HKA's list,
and its own passes start anew. -/
def State.followA (s : State) : State :=
  let a := s.hkmConv 0
  s.modHkmConv 1 fun c =>
    if !s.ilvOn then { invalid := c.invalid }
    else match a.slot with
    | none => { invalid := c.invalid }
    | some j =>
      let at_ := a.next + cyclesOfNs 500
      if s.clk ≤ at_ then { invalid := c.invalid, slot := some j, next := at_ }
      else { invalid := c.invalid, slot := (a.ahead.map (·.1)).or (s.nextSlot 0 j), next := at_ + 625 }

/-- R335, R343: HKM_CTRL's fields written: a converter that stops ends its pass; a change of ILV restarts the filters of
HKA's list. -/
def State.writeHkmCtrl (s : State) (v : Nat) : State :=
  let ilv := s.is fHKM_CTRL_ILV
  let on := s.ilvOn
  let s := s.setNat aHKM_CTRL (v % 8)
  let s := [0, 1].foldl (fun s x => if s.hkmOn x then s else s.modHkmConv x fun c => { invalid := c.invalid }) s
  let s := if s.ilvOn == on then s else s.followA
  let s := if s.is fHKM_CTRL_ILV != ilv then (s.listInputs 0).foldl (fun s k => s.filterRestart k) s else s
  s.hkmShow.staleShow

def execHkmIlvWrite (v : Bool) (s : State) : Ans :=
  .next (s.hostWrite aHKM_CTRL fun s => s.writeHkmCtrl (s.get ⟨aHKM_CTRL, 0, 2⟩ + 4 * b2n v))

/-- R336, R343: staged registers of HKM at `addrs` have just taken new values; `before` is the state before them. -/
def State.hkmCourse (s before : State) (addrs : List Nat) : State :=
  let changed := fun a => addrs.contains a && s.nat a != before.nat a
  let s := [0, 1].foldl (fun s x =>
    let c := s.hkmConv x
    match c.slot with
    | none => s
    | some j =>
      let l := before.hkmList x
      let word := fun i => before.nat (aHKM_SLOT l i)
      s.modHkmConv x fun c =>
        if s.clk < c.next then c
        else if s.clk < c.next + 625 then { c with old := c.old.or (some (word j)) }
        else { c with
          old := c.old.or (some (word j))
          ahead := c.ahead.or ((before.nextSlot l j).map fun i => (i, word i)) }) s
  let slots := (List.range 64).filter fun i => changed (aHKM_SLOT (i / 32) (i % 32))
  let named := slots.flatMap fun i => [before.get (fHKM_SLOT_INPUT (i / 32) (i % 32)), s.get (fHKM_SLOT_INPUT (i / 32) (i % 32))]
  ((List.range 64).foldl (fun s k => if changed (aHKM_IN_CFG k) || named.contains k then s.filterRestart k else s) s).staleShow

/-- R341, R342, R346, R347: the configuration word of an input passes validation. -/
def hkmInOk (k w : Nat) : Bool :=
  let cls := bitsOf w 0 2
  (if k < 40 then cls ≤ 1 else cls == 2) && bitsOf w 2 3 ≤ 4 && bitsOf w 26 4 ≤ 8
    && (!bitOf w 18 || cls == 0) && (bitsOf w 19 3 == 0 || cls == 1)

/-- R351: the safe state: converters stop, every PWM channel is `OFF`, no FILT is valid. -/
def State.hkmSafe (s : State) : State :=
  let s := (List.range 8).foldl (fun s k => s.set (fHKM_PWM_CFG_MODE k) 0) s
  let s := (List.range 64).foldl (fun s k => s.setB (fHKM_IN_FSTAT_VALID k) false) s
  let s := s.modHkm fun h => { h with convs := [{}, {}] }
  ((s.setB fHKM_STATUS_SAFE true).hkmShow).raise fHKM_ALARM_SAFE

/-- R351, R458: HKM's reset values, but for the staged registers. -/
def State.hkmDefault (s : State) : State :=
  let staged := fun a => match regAt a with | some h => h.row.staged | none => false
  let s := s.resetRange 0x500000 0x600000 staged
  { s with hkm := {} }

/-- R351: while HKM is held in reset its safe state is held. -/
def State.hkmReset (s : State) : State := (s.hkmDefault.setB fHKM_STATUS_SAFE true).raise fHKM_ALARM_SAFE

end Sys2Proof.Machine
end

