-- ==== Sys2Proof/Machine/Conv.lean ====
section
/-!
DEFINITION. The line converters (02_line_converters.md): states, spare slices, capture.  A group of ADC samples reaches
RXD too, so ADC_GROUP stands in Rxd.lean.
-/

namespace Sys2Proof.Machine

/-! ### States of the two sides (R52) -/

def fConvState (n : Nat) : Side → Fld
  | .adc => fCONV_STATE_ADC_STATE n
  | .dac => fCONV_STATE_DAC_STATE n
def fConvEn (n : Nat) : Side → Fld
  | .adc => fCONV_CTRL_ADC_EN n
  | .dac => fCONV_CTRL_DAC_EN n
def fConvLock (n : Nat) : Side → Fld
  | .adc => fCONV_STATE_RXSYN_LOCK n
  | .dac => fCONV_STATE_TXSYN_LOCK n
def fConvUnlock (n : Nat) : Side → Fld
  | .adc => fCONV_ALARM_RXSYN_UNLOCK n
  | .dac => fCONV_ALARM_TXSYN_UNLOCK n

/-- The spares of a side: 0 to 7 ADC, 8 to 15 DAC (R67). -/
def sideSpares : Side → List Nat
  | .adc => List.range 8
  | .dac => (List.range 8).map (· + 8)

/-- R355, R358: the calibration values in force of a lane's converter die. -/
def State.calForce (s : State) (n : Lane) : List (Nat × List (Int × Nat)) := (s.cal.domains.getD (n.val / 2) {}).force

/-- The sampling reference of a lane's die is present (R50). -/
def State.refPresent (s : State) (n : Lane) : Bool := s.sampRef.getD (n.val / 2) false

def State.convState (s : State) (n : Lane) (sd : Side) : Nat := s.get (fConvState n sd)

/-! ### Spares (R59 to R63) -/

def State.spareRun (s : State) (n : Lane) (k : Nat) : SpareRun := (s.lane n).conv.spares.getD k .none

/-- What the spare of half `k` does. -/
def State.setSpare (s : State) (n : Lane) (k : Nat) (r : SpareRun) : State :=
  (s.modConv n fun c => { c with spares := setAt c.spares k r }).setB (fCONV_SPARE_SHADOW n k) (r != .none)

/-- The spare returns to idle. -/
def State.spareIdle (s : State) (n : Lane) (k : Nat) : State :=
  let s := s.modConv n fun c => { c with spareCorr := setAt c.spareCorr k [] }
  ((s.setSpare n k .none).set (fCONV_SPARE_STANDIN n k) 0x7F).set (fCONV_SPARE_MODE n k) 0

/-- R59, R60: the spare's corrections for a position load from the calibration values in force (item ASH, R355). -/
def State.spareLoad (s : State) (n : Lane) (k pos : Nat) : State :=
  let ash := (assocGet (s.calForce n) (8 * (n.val % 2) + 16 * k)).getD []
  s.modConv n fun c => { c with spareCorr := setAt c.spareCorr k (Config.spareCorrection ash k pos) }

/-- R60: a takeover of a position starts. -/
def State.spareTake (s : State) (n : Lane) (k pos : Nat) (retire : Bool) : State :=
  (s.spareLoad n k pos).setSpare n k (.taking pos retire)

/-- The position that a spare takes or supplies. -/
def State.sparePos (s : State) (n : Lane) (k : Nat) : Option Nat :=
  match s.spareRun n k with
  | .taking p _ => some p
  | .releasing p => some p
  | .none => if s.get (fCONV_SPARE_MODE n k) = 0 then none else some (s.get (fCONV_SPARE_STANDIN n k))

/-- R59, R358: new calibration values reach the spares in use of a lane. -/
def State.sparesReload (s : State) (n : Lane) : State :=
  (List.range 16).foldl (fun s k => match s.sparePos n k with
    | some p => s.spareLoad n k p
    | none => s) s

/-- The side of a spare. -/
def spareSide (k : Nat) : Side := if k < 8 then .adc else .dac

/-- CAL uses the spare: its takeover runs, stands in or is being released. -/
def State.spareCal (s : State) (n : Lane) (k : Nat) : Bool :=
  match s.spareRun n k with
  | .taking _ retire => !retire
  | _ => s.get (fCONV_SPARE_MODE n k) == 1

/-- R63: a channel leaves `RUNNING`: its takeovers and releases end, its spares return to idle. -/
def State.sparesEnd (s : State) (n : Lane) (sd : Side) : State :=
  (sideSpares sd).foldl (fun s k =>
    if s.spareCal n k then
      ((s.spareIdle n k).modConv n fun c => { c with calAborted := c.calAborted ++ [k] }).raise
        (fCONV_ALARM_TAKEOVER_ABORT n)
    else s.spareIdle n k) s

/-- A side leaves `RUNNING`, or another state, for a state.  DESIGN CHOICE (log entry 75): a retirement that stands in RETIRE
while the side is not in `RUNNING` is stored, and is not started at the next entry to `RUNNING`. -/
def State.convMove (s : State) (n : Lane) (sd : Side) (st : Nat) : State :=
  let was := s.convState n sd
  let s := s.set (fConvState n sd) st
  let s := if st = 2 then s.setB (fConvLock n sd) true
    else if st = 0 || st = 3 then s.setB (fConvLock n sd) false else s
  if was = 2 then
    let s := s.sparesEnd n sd
    if sd = .adc then
      [0, 1, 2, 3].foldl (fun s c => s.setNat (aCONV_RMS n c) 0)
        (s.modConv n fun c => { c with power := [[], [], [], []] })
    else s
  else s

/-- R61: CAL asks for the spare of a half: refused (`SPARE_UNAVAILABLE`) while the half is `RETIRED` or on its way. -/
def State.calTake (s : State) (n : Lane) (k pos : Nat) : State × Bool :=
  let free := s.get (fCONV_SPARE_MODE n k) = 0 && s.spareRun n k = .none
  if free && s.convState n (spareSide k) = 2 then (s.spareTake n k pos false, true) else (s, false)

/-- R62: a retirement that waits starts when its half is free; one left standing after its side has left `RUNNING` (log entry
75) does so at the end of a later CAL step on that half. -/
def State.spareNext (s : State) (n : Lane) (k : Nat) : State :=
  let p := s.get (fCONV_SPARE_RETIRE n k)
  if p < 64 && s.convState n (spareSide k) = 2 then s.spareTake n k p true else s

/-- R61, R62: CAL releases the spare of a half; one that has not switched yet is free at once. -/
def State.calRelease (s : State) (n : Lane) (k : Nat) : State :=
  if s.get (fCONV_SPARE_MODE n k) = 1 && s.spareRun n k = .none then
    s.setSpare n k (.releasing (s.get (fCONV_SPARE_STANDIN n k)))
  else match s.spareRun n k with
    | .taking _ false => (s.spareIdle n k).spareNext n k
    | _ => s

/-- R61, R62: a write of RETIRE.  DESIGN CHOICE (log entry 76): during the takeover run of a retirement the half counts as
`RETIRED` on its position for another one, and 0x7F returns the spare to idle at once; a refused write answers
VALUE_INVALID to COP; and while a retired half is being released, a write of its position has no action and one of another is
refused. -/
def State.writeRetire (s : State) (n : Lane) (k pos : Nat) : State × Code :=
  let refuse := (s.raise (fCONV_ALARM_RETIRE_REFUSED n), Code.valueInvalid)
  let put := s.set (fCONV_SPARE_RETIRE n k) pos
  if pos = 0x7F then
    (match s.spareRun n k with
     | .taking _ true => put.spareIdle n k
     | .none =>
       if s.get (fCONV_SPARE_MODE n k) = 2 then put.setSpare n k (.releasing (s.get (fCONV_SPARE_STANDIN n k))) else put
     | _ => put, .ok)
  else if 64 ≤ pos then refuse
  else
    match s.spareRun n k with
    | .taking p true => if p = pos then (s, .ok) else refuse
    | .taking _ false => (put, .ok)
    | .releasing p => if s.get (fCONV_SPARE_MODE n k) = 2 then (if p = pos then (s, .ok) else refuse) else (put, .ok)
    | .none =>
      if s.get (fCONV_SPARE_MODE n k) = 2 then (if s.get (fCONV_SPARE_STANDIN n k) = pos then (s, .ok) else refuse)
      else if s.get (fCONV_SPARE_MODE n k) = 1 then (put, .ok)
      else (put.spareNext n k, .ok)

def execSpareRetireWrite (n : Lane) (k : Fin 16) (pos : BitVec 7) (s : State) : Ans :=
  .next (s.hostWrite (aCONV_SPARE n k) fun s => (s.writeRetire n k pos.toNat).1)

/-- R60: after 16 parallel groups the spare supplies the position. -/
def execSpareTakeoverSwitch (n : Lane) (k : Fin 16) (s : State) : Ans :=
  match s.spareRun n k with
  | .taking p retire =>
    .next (((s.setSpare n k .none).set (fCONV_SPARE_STANDIN n k) p).set (fCONV_SPARE_MODE n k) (if retire then 2 else 1))
  | _ => .next s

/-! ### Enables, settling, loss of lock (R50 to R53) -/

/-- R52: an enable bit is written. -/
def State.writeConvEn (s : State) (n : Lane) (sd : Side) (v : Bool) : State :=
  let s := s.setB (fConvEn n sd) v
  if v then (if s.convState n sd = 0 && s.refPresent n then s.convMove n sd 1 else s)
  else if s.convState n sd = 0 then s else s.convMove n sd 0

def execConvAdcEnWrite (n : Lane) (v : Bool) (s : State) : Ans :=
  .next (s.hostWrite (aCONV_CTRL n) fun s => s.writeConvEn n .adc v)

def execConvDacEnWrite (n : Lane) (v : Bool) (s : State) : Ans :=
  .next (s.hostWrite (aCONV_CTRL n) fun s => s.writeConvEn n .dac v)

/-- R53: DAC_MUTE is written; it acts at the next LTXn group boundary. -/
def execConvDacMuteWrite (n : Lane) (v : Bool) (s : State) : Ans :=
  .next (s.hostWrite (aCONV_CTRL n) fun s => s.setB (fCONV_CTRL_DAC_MUTE n) v)

/-- R52: the reference is present and a side without lock regains it, or an enabled side leaves `OFF`. -/
def State.convRegain (s : State) (n : Lane) (sd : Side) : State :=
  if s.convState n sd = 3 then (s.convMove n sd 1).setB (fConvLock n sd) true
  else if s.convState n sd = 0 && s.is (fConvEn n sd) then s.convMove n sd 1
  else s

/-- R51, R52: the synthesiser is locked and the bias has settled; the delay of the side is measured.  In `UNLOCKED` the
synthesiser regains lock: the side goes to `SETTLING` first (DEDUCED, log entry 74). -/
def execConvSettled (n : Lane) (side : Side) (delay : Nat) (s : State) : Ans :=
  if !s.laneUp n || !s.refPresent n then .next s
  else if s.convState n side = 3 then .next (s.convRegain n side)
  else if s.convState n side = 1 then
    let s := s.convMove n side 2
    .next (s.setNat (match side with | .adc => aCONV_RX_LAT n | .dac => aCONV_TX_LAT n) delay)
  else .next s

/-- R52: the phase error has been beyond 0.7 ps for more than 64 groups. -/
def State.convUnlock (s : State) (n : Lane) (side : Side) : State :=
  if s.convState n side = 2 then (s.convMove n side 3).raise (fConvUnlock n side) else s

def execConvUnlock (n : Lane) (side : Side) (s : State) : Ans := .next (s.convUnlock n side)

/-- The two lanes of a converter die (R44). -/
def dieLanes (k : Fin 4) : List Lane := allLanes.filter fun n => n.val / 2 == k.val

/-- R50, R52: the synthesiser of a side loses lock for want of its reference. -/
def State.convRefLost (s : State) (n : Lane) (side : Side) : State :=
  if s.convState n side = 1 then s.setB (fConvLock n side) false else s.convUnlock n side

/-- R50: the sampling reference path of a die fails. -/
def execSamplingRefLoss (die : Fin 4) (s : State) : Ans :=
  let s := { s with sampRef := setAt s.sampRef die false }
  .next ((dieLanes die).foldl (fun s n =>
    if s.laneUp n then
      ((((s.setB (fCONV_STATE_REF_OK n) false).raise (fCONV_ALARM_REF_LOSS n)).convRefLost n .adc).convRefLost n .dac)
    else s) s)

/-- R52: the sampling reference of a die returns. -/
def execSamplingRefReturn (die : Fin 4) (s : State) : Ans :=
  let s := { s with sampRef := setAt s.sampRef die true }
  .next ((dieLanes die).foldl (fun s n =>
    if s.laneUp n then ((s.setB (fCONV_STATE_REF_OK n) true).convRegain n .adc).convRegain n .dac else s) s)

/-! ### Capture (R64, R65) -/

/-- The groups of the selected source, newest first, with the new one in front. -/
def Group.push (g : Group) (past : List Group) : List Group := (g :: past).take 128

/-- R64: a group of the selected source arrives: the trigger, then the groups that follow it.  DESIGN CHOICE (log entry 77):
the reserved code 3 of TRIG arms and never triggers. -/
def State.capGroup (s : State) (n : Lane) (g : Group) (dac : Bool) : State :=
  let c := (s.lane n).conv
  let full := c.capLeft == some 0 && s.is (fCONV_CAP_CTRL_SRC n) == dac
  let s := if full then s else s.modConv n fun c =>
    if dac then { c with dacPast := g.push c.dacPast } else { c with adcPast := g.push c.adcPast }
  if s.is (fCONV_CAP_STATUS_ARMED n) && s.is (fCONV_CAP_CTRL_SRC n) == dac then
    match c.capLeft with
    | some k => s.modConv n fun c => { c with capLeft := some (k - 1) }
    | none =>
      let trig := s.get (fCONV_CAP_CTRL_TRIG n)
      let hit := if trig = 1 then
          (List.range 4).any fun i => g.ovr.getD i false && bitOf (s.get (fCONV_CAP_CTRL_OVR_CH n)) i
        else c.capFire && trig != 3
      if hit then s.modConv n fun c => { c with capFire := false, capLeft := some (127 - s.get (fCONV_CAP_CTRL_PRE n)) }
      else s
  else s

/-- R65: ARM written 1: armed, unless TRIG = `OVR` with SRC = DAC; FIRE in the same word triggers.  DESIGN CHOICE (log entry
77): a refused arm also disarms a capture armed before. -/
def State.capArm (s : State) (n : Lane) (cfg : Word) : State :=
  let s := s.setReg (aCONV_CAP_CTRL n) (setFld (setFld cfg 1 1 0) 0 1 0 &&& 0x007F0F1D#32)
  if fld cfg 2 2 = 1 && fld cfg 4 1 = 1 then
    ((s.setB (fCONV_CAP_STATUS_CFG_ERR n) true).setB (fCONV_CAP_STATUS_ARMED n) false).modConv n fun c =>
      { c with capLeft := none, capFire := false }
  else
    let s := ((s.setB (fCONV_CAP_STATUS_CFG_ERR n) false).setB (fCONV_CAP_STATUS_ARMED n) true).setB (fCONV_CAP_CTRL_ARM n) true
    s.modConv n fun c => { c with capLeft := none, capFire := fld cfg 1 1 == 1 && fld cfg 2 2 == 0 }

def execCaptureArm (n : Lane) (cfg : Word) (s : State) : Ans :=
  .next (s.hostWrite (aCONV_CAP_CTRL n) fun s => s.capArm n cfg)

/-- R64: FIRE written 1. -/
def State.capFire (s : State) (n : Lane) : State :=
  if s.is (fCONV_CAP_STATUS_ARMED n) && s.get (fCONV_CAP_CTRL_TRIG n) = 0 && (s.lane n).conv.capLeft = none then
    s.modConv n fun c => { c with capFire := true }
  else s

def execCaptureFire (n : Lane) (s : State) : Ans := .next (s.hostWrite (aCONV_CAP_CTRL n) fun s => s.capFire n)

/-- What the capture memory held before the first group since reset: zeros, the fill of R378. -/
def emptyGroup (t : Nat) : Group :=
  { vld := false, ovr := [false, false, false, false], data := List.replicate 4 (List.replicate 256 0), tb0 := t }

/-- R65: the capture memory is full: the buffers exchange.  DESIGN CHOICE (log entry 77): where fewer than 128 groups have come
since the reset, the zeros before them have the time of the first of them, which CAP_TS shows. -/
def execCaptureComplete (n : Lane) (s : State) : Ans :=
  let c := (s.lane n).conv
  if c.capLeft ≠ some 0 then .next s
  else
    let past := (if s.is (fCONV_CAP_CTRL_SRC n) then c.dacPast else c.adcPast).reverse
    let t := (past.head?.map (·.tb0)).getD s.tb0
    let win := List.replicate (128 - past.length) (emptyGroup t) ++ past
    let s := s.modConv n fun c => { c with window := win, capLeft := none, capFire := false }
    let s := (s.setB (fCONV_CAP_STATUS_ARMED n) false).setB (fCONV_CAP_CTRL_ARM n) false
    let s := (s.setB (fCONV_CAP_STATUS_DONE n) true).setB (fCONV_CAP_STATUS_VLD_ALL n) (win.all (·.vld))
    let s := s.set (fCONV_CAP_STATUS_COUNT n) (s.get (fCONV_CAP_STATUS_COUNT n) + 1)
    let s := s.memClean 5 n
    .next ((s.setTime80 (aCONV_CAP_TS n) t).raise (fCONV_ALARM_CAP_DONE n))

/-- R67: a word of the capture areas as shown: `none` elsewhere. -/
def State.capView (s : State) (n : Lane) (ofs : Nat) : Option Nat :=
  let win := (s.lane n).conv.window
  if 0x10000 ≤ ofs && ofs < 0x10080 then
    let c := (ofs - 0x10000) / 0x20
    let w := (ofs - 0x10000) % 0x20 / 4
    some ((List.range 16).foldl (fun v i =>
      match win[16 * w + i]? with
      | some g => v + b2n (g.ovr.getD c false) * 2 ^ (2 * i) + b2n g.vld * 2 ^ (2 * i + 1)
      | none => v) 0)
  else if 0x20000 ≤ ofs && ofs < 0x40000 then
    let c := (ofs - 0x20000) / 0x8000
    let w := (ofs - 0x20000) % 0x8000 / 4
    match win[w / 64]? with
    | some g =>
      let ch := g.data.getD c []
      some ((List.range 4).foldl (fun v i => v + (ch.getD (4 * (w % 64) + i) 0).toNat * 2 ^ (8 * i)) 0)
    | none => some 0
  else none

end Sys2Proof.Machine
end

