-- ==== Sys2Proof/Machine/Rxd.lean ====
section
/-!
DEFINITION. Receive equalisation and recovery (03_receive_dsp.md): acquisition, the LO interface, CD, metrics, and the
group of ADC samples that feeds it (R46, R54 to R58).  What the DSP estimates is an operand (log entry 3).
-/

namespace Sys2Proof.Machine

def State.rxdState (s : State) (n : Lane) : Nat := s.get (fRXD_STATE_STATE n)

/-! ### Processing stages (R69, R78, R87) -/

/-- R72: the compensated CD is set. -/
def State.compSet (s : State) (n : Lane) (cd : Int) : State := s.modRxd n fun r => { r with comp := cd, cdTarget := cd }

/-- R72: the compensated CD now: on its way to the target at 20 ps/nm per 10 ms. -/
def State.compNow (s : State) (n : Lane) : Int :=
  let r := (s.lane n).rxd
  let d : Int := ((20 * ((s.clk - r.cdMoveAt) / (10 * cyclesMs)) : Nat) : Int)
  r.comp + clampI (-d) d (r.cdTarget - r.comp)

/-- R69, R87: nonlinear compensation is asked for: SPANS = 0 bypasses it. -/
def State.nlcOn (s : State) (n : Lane) : Bool := s.is (fRXD_SCFG_NLC_EN n) && s.get (fRXD_NLC_CFG_SPANS n) != 0

/-- R78: test phases and block length of carrier-phase recovery under AUTO = 1, of an entropy in 1/64 bit. -/
def phasesByEntropy (ent : Nat) : Nat × Nat :=
  if ent ≤ 128 then (16, 128) else if ent ≤ 256 then (32, 96) else if ent ≤ 352 then (64, 64) else (64, 32)

/-- R78: the test phases and block length in force; the ZR families send unshaped 16-QAM, of entropy 4.  PRESUMED (log
entry 62): the reserved code 3 of PHASES acts as 64 test phases. -/
def State.carrierPhase (s : State) (n : Lane) : Nat × Nat :=
  let f := s.rxFmt n
  if s.is (fRXD_CPR_CFG_AUTO n) then phasesByEntropy (if f.family = 0 then f.ent else 256)
  else (min 64 (16 * 2 ^ s.get (fRXD_CPR_CFG_PHASES n)), 32 * (s.get (fRXD_CPR_CFG_BLOCK n) + 1))

/-- R69: the parameters of the stages in force, in their order: compensated CD, FO within ±2.5 GHz, symbol rate in 1/32 GBd,
equaliser taps and step, loop bandwidth, test phases and block length, spans and window, constellation. -/
def State.rxdStages (s : State) (n : Lane) : List Int :=
  let f := s.rxFmt n
  [s.compNow n, clampI (-2500000) 2500000 ((s.lane n).rxd.fine.getD 0)]
    ++ ([f.symRate, s.nat (aRXD_EQ_CFG n), s.get (fRXD_CR_CFG_BW n), (s.carrierPhase n).1, (s.carrierPhase n).2
        , s.nat (aRXD_NLC_CFG n), f.family, f.m, f.ent, s.get (fRXD_STATE_ROT_X n), s.get (fRXD_STATE_ROT_Y n)
        , s.get (fRXD_STATE_POL_SWAP n)] : List Nat).map Int.ofNat

/-- R69: the soft decisions of a group. -/
def State.softGroup (s : State) (n : Lane) (codes : List (List Byte)) : List Int :=
  let r := (s.lane n).rxd
  Config.softDecisions (s.calForce n) (s.rxdStages n) (if s.is (fRXD_STATE_NLC_ACTIVE n) then r.nlcCoef else []) r.taps
    r.before codes

/-- R69, R70, R98: the samples of a group go through the stages whatever `OVR` says; while LFR is synchronised their decisions go
to the FEC.  The equaliser adapts from `TIMING` on, but not on a group with `OVR` = 1, and not in `TRACKING` under
EQ_FREEZE. -/
def State.rxdGroup (s : State) (n : Lane) (ovr : Bool) (codes : List (List Byte)) : State :=
  let soft := if s.get (fLFR_STATE_ALIGN n) = 2 then s.softGroup n codes else []
  let st := s.rxdState n
  let still := ovr || st < 4 || (st = 7 && s.is (fRXD_CTRL_EQ_FREEZE n))
  let stages := s.rxdStages n
  s.modRxd n fun r => { r with
    ovr := ovr, soft := r.soft ++ soft, before := codes
    taps := if still then r.taps else Config.adaptTaps stages r.taps r.before codes }

/-- PLU cycles in 0.1 ms. -/
def cycles100us : Nat := 62500

/-! ### LO interface (R81 to R84) -/

/-- R93: Keystone assistance is in use in this search: RXD waits for the packet, or has taken it. -/
def State.assistInUse (s : State) (n : Lane) : Bool :=
  let r := (s.lane n).rxd
  r.ksAssist && s.get (fKSC_STATE_STATE n) != 0 && (r.ksWaiting || s.is (fRXD_STATE_ASSISTED n))

/-- R82: the owner: 0 host, 1 KSC, 2 RXD, 3 none. -/
def loOwner (mode state : Nat) (assist : Bool) : Nat :=
  if mode = 0 || mode = 3 then 0
  else if state = 2 then (if assist then 1 else 2)
  else if mode = 2 && 3 ≤ state then 2
  else 3

def State.loOwnerNow (s : State) (n : Lane) : Nat := loOwner (s.lane n).rxd.loMode (s.rxdState n) (s.assistInUse n)

/-- R82: LO_OWNER shown. -/
def State.showOwner (s : State) (n : Lane) : State := s.set (fRXD_STATE_LO_OWNER n) (s.loOwnerNow n)

/-! ### The state of the lane's KSC (R295, R299, R300) -/

def State.ksc (s : State) (n : Lane) : KscState := (s.lane n).ksc
def State.kscState (s : State) (n : Lane) : Nat := s.get (fKSC_STATE_STATE n)

/-- R295: KSC sends nothing: every packet queued is discarded and counted; the one in transmission is cut off. -/
def State.ksDrop (s : State) (n : Lane) : State :=
  let k := s.ksc n
  let lost := k.queue.length + b2n k.resp.isSome
  let s := if k.sending.isSome then s.emit (.ksCut n) else s
  let s := s.modKsc n fun k => { k with queue := [], sending := none, resp := none }
  let s := (s.setB (fKSC_STATE_TX_BUSY n) false).set (fKSC_STATE_TX_TYPE n) 0
  if lost = 0 then s else (s.addCnt (aKSC_CNT n 1) lost).raise (fKSC_ALARM_TX_DROP n)

/-- R300: the conditions under which a lane's KSC is not `OFF`. -/
def State.kscOn (s : State) (n : Lane) : Bool :=
  s.laneUp n && !s.held 11 && s.is (fKSC_CTRL_EN n) && (s.txFmt n).family == 0 && (s.rxFmt n).family == 0

/-- R299: the reception and candidate shown. -/
def State.showRx (s : State) (n : Lane) : State :=
  let k := s.ksc n
  let s := s.setB (fKSC_STATE_CAND n) k.cand.isSome
  match k.rx with
  | some r => (s.set (fKSC_STATE_RX_PHASE n) r.phase).set (fKSC_STATE_RX_CHAN n) (ofSigned 8 r.chan)
  | none => (s.set (fKSC_STATE_RX_PHASE n) 0).set (fKSC_STATE_RX_CHAN n) 0

/-- Receptions and candidates abandoned. -/
def State.kscRxStop (s : State) (n : Lane) : State :=
  (s.modKsc n fun k => { k with rx := none, cand := none }).showRx n

/-- R300: the state follows its conditions: the release of a reset, EN and the families in force. -/
def State.kscFollow (s : State) (n : Lane) : State :=
  if s.kscOn n then (if s.kscState n = 0 then (s.set (fKSC_STATE_STATE n) 1).showOwner n else s)
  else if s.kscState n = 0 then s
  else
    let s := ((s.set (fKSC_STATE_STATE n) 0).kscRxStop n).ksDrop n
    (s.modKsc n fun k => { k with reqs := [] }).showOwner n

/-- R83: LO_LIM shown. -/
def State.showLoLim (s : State) (n : Lane) : State :=
  s.setB (fRXD_STATE_LO_LIM n) (max 1 (s.get (fRXD_LO_LIMIT_LIMIT n)) ≤ (s.int (aRXD_LO_ACC n)).natAbs)

/-- R81: a frame of a type and source leaves, with the next SEQ. -/
def State.loFrame (s : State) (n : Lane) (type src : Nat) (v : Int) : State :=
  let seq := (s.lane n).rxd.loSeq
  let s := s.modRxd n fun r => { r with loSeq := (seq + 1) % 4 }
  s.emit (.lo n (2 ^ 28 * type + 2 ^ 26 * src + 2 ^ 24 * seq + ofSigned 24 v))

/-- R83: a `DELTA` of RXD (0) or KSC (1) in MHz, clipped at the limit of the running sum.  DESIGN CHOICE (log entry 64):
after a reduction of LIMIT below the sum, the next `DELTA` of either sign is clipped to bring the sum to the new limit. -/
def State.loDelta (s : State) (n : Lane) (src : Nat) (v : Int) : State :=
  let lim : Int := (max 1 (s.get (fRXD_LO_LIMIT_LIMIT n)) : Nat)
  let acc := s.int (aRXD_LO_ACC n)
  let new := clampI (-lim) lim (acc + v)
  let s := s.raiseIf (new != acc + v) (fRXD_ALARM_LO_LIM n)
  ((s.setInt (aRXD_LO_ACC n) new).loFrame n 1 src (new - acc)).showLoLim n

/-- R82: a write of RXD_LO_HOST: sent while the host owns the interface, else refused. -/
def State.writeLoHost (s : State) (n : Lane) (v : BitVec 24) : State × Code :=
  if s.loOwnerNow n = 0 then ((s.setNat (aRXD_LO_HOST n) v.toNat).loFrame n 1 2 v.toInt, .ok)
  else (s.raise (fRXD_ALARM_LO_BUSY n), .resBusy)

def execLoHostWrite (n : Lane) (v : BitVec 24) (s : State) : Ans :=
  .next (s.hostWrite (aRXD_LO_HOST n) fun s =>
    let r := s.writeLoHost n v
    if r.2 = .resBusy then r.1.logAcc .resBusy (aRXD_LO_HOST n) true else r.1)

/-! ### States (R89 to R91) -/

/-- R94: FOLLOWING. -/
def State.showFollowing (s : State) (n : Lane) : State :=
  s.setB (fRXD_STATE_FOLLOWING n) ((s.lane n).rxd.follow && (s.lane n).rxd.far.isSome)

/-- R97: what is valid in a state; FO stays valid from its first estimate. -/
def metricValid (state : Nat) (fo : Bool) : Nat := b2n (4 ≤ state) + 2 * b2n fo + (if state = 7 then 0x7C else 0)

/-- R89: RXD enters a state. -/
def State.rxdEnter (s : State) (n : Lane) (st : Nat) : State :=
  let s := (s.set (fRXD_STATE_STATE n) st).modRxd n fun r => { r with stateAt := s.clk }
  let s := s.setB (fRXD_STATE_TIMING_LOCK n) (5 ≤ st)
  let s := s.setNat (aRXD_MET_VALID n) (metricValid st (s.is (fRXD_MET_VALID_FO n)))
  let s := if 4 ≤ st then s else s.setB (fCONV_STATE_TRIM_LIM n) false
  -- R87: compensation acts only in TRACKING
  let s := if st = 7 then s else
    (s.setB (fRXD_STATE_NLC_ACTIVE n) false).modRxd n fun r => { r with nlc := match r.nlc with
      | .active => .ready
      | .toBypass => if s.nlcOn n then .computing else .off
      | x => x }
  s.showOwner n

/-- R94, R170, R300: the format in force has turned from that of `before`, and with it perhaps the family. -/
def State.followTurn (s before : State) (n : Lane) : State :=
  let s := s.rxFmtTurn before n
  let s := if (s.rxFmt n).family = (before.rxFmt n).family then s else s.familyTurn n
  ((s.kscFollow n).showFollowing n).touch n

/-- R91: LO_MODE, KS_ASSIST and FMT_SRC as written take effect. -/
def State.latchLoMode (s : State) (n : Lane) : State :=
  (s.modRxd n fun r => { r with loMode := s.get (fRXD_CTRL_LO_MODE n) }).showOwner n

def State.latchKsAssist (s : State) (n : Lane) : State :=
  (s.modRxd n fun r => { r with ksAssist := s.is (fRXD_CTRL_KS_ASSIST n) }).showOwner n

def State.latchFmtSrc (s : State) (n : Lane) : State :=
  let follow := s.is (fRXD_CTRL_FMT_SRC n)
  ((s.touch n).modRxd n fun r => { r with follow := follow }).followTurn s n

/-- R91: the three modes take effect. -/
def State.latchModes (s : State) (n : Lane) : State := ((s.latchLoMode n).latchKsAssist n).latchFmtSrc n

/-- R80, R90, R91, R93: `FREQ_SEARCH` entered, with the LO correction held; the equaliser starts anew. -/
def State.freqSearch (s : State) (n : Lane) : State :=
  let s := s.latchModes n
  let s := s.modRxd n fun r =>
    { r with searchAt := s.clk, coarseDone := false, ksExpired := false, spectral := none, fine := none, ksHint := none
             taps := [], scan := none, ksWaiting := r.ksAssist && s.get (fKSC_STATE_STATE n) != 0 }
  let s := (s.setB (fRXD_STATE_WARM n) false).setB (fRXD_STATE_ASSISTED n) false
  (s.setB (fKSC_STATE_LO_SENT n) false).rxdEnter n 2

/-- R89, R90: an acquisition failure with its alarm, and `FREQ_SEARCH`. -/
def State.acqFail (s : State) (n : Lane) (alarm : Fld) : State :=
  ((s.addCnt (aRXD_ACQ_FAIL_CNT n) 1).raise alarm).freqSearch n

/-- R85, R89: RXD falls back from `TRACKING` to a warm `TIMING`. -/
def State.rxdWarm (s : State) (n : Lane) : State :=
  if s.rxdState n = 7 then
    ((s.setB (fRXD_STATE_WARM n) true).modRxd n fun r => { r with warmAt := s.clk }).rxdEnter n 4
  else s

/-- R88: `LOS` is asserted. -/
def State.losAssert (s : State) (n : Lane) : State :=
  if s.is (fRXD_STATE_LOS n) then s
  else
    let s := ((s.setB (fRXD_STATE_LOS n) true).addCnt (aRXD_LOS_CNT n) 1).raise (fRXD_ALARM_LOS n)
    let s := s.modRxd n fun r => { r with losHigh := 0 }
    let s := if 2 ≤ s.rxdState n then (s.setB (fRXD_STATE_WARM n) false).rxdEnter n 1 else s
    s.lfrLos n true

/-- R88: `LOS` clears. -/
def State.losClear (s : State) (n : Lane) : State :=
  let s := (s.setB (fRXD_STATE_LOS n) false).lfrLos n false
  if s.rxdState n = 1 then s.freqSearch n else s

/-- R88: the mean of the four channels' code power over the last 1,024 groups, as an RMS code in units of 1/256; where no group
has been delivered, `power` (DESIGN CHOICE, log entry 90). -/
def State.losPower (s : State) (n : Lane) (power : Nat) : Nat :=
  let chs := (s.lane n).conv.power.map (List.take 1024)
  let groups := (chs.map List.length).foldl (· + ·) 0
  if groups = 0 then power else isqrt (256 * (chs.map fun c => c.foldl (· + ·) 0).foldl (· + ·) 0 / groups)

/-- R88: a window of 1,024 groups ends with mean power `power`, as an RMS code in units of 1/256. -/
def execLosWindowEnd (n : Lane) (power : Nat) (s : State) : Ans :=
  if !s.laneUp n then .next s
  else
    let thr := s.get (fRXD_LOS_THR_THR n)
    let power := s.losPower n power
    let vld := s.convState n .adc = 2
    let r := (s.lane n).rxd
    let low := if power < thr then r.losLow + 1 else 0
    let high := if thr + s.get (fRXD_LOS_THR_HYST n) ≤ power && vld then r.losHigh + 1 else 0
    let s := s.modRxd n fun r => { r with losLow := low, losHigh := high }
    if 4 ≤ low then .next (s.losAssert n)
    else if 16 ≤ high && s.is (fRXD_STATE_LOS n) then .next (s.losClear n)
    else .next s

/-- R54, R56, R57, R67: an ADC channel of a group: its flag, its count of over-range groups and, while the side runs, its RMS
over the groups whose sums of squares are given.  DESIGN CHOICE (log entry 78): CONV_RMS is rounded down to its LSB. -/
def State.adcChannel (s : State) (n : Lane) (i : Nat) (flag run : Bool) (power : List Nat) : State :=
  let s := s.setB ⟨aCONV_STATE n, 12 + i, 1⟩ flag
  let s := if flag then (s.addCnt (aCONV_OVR_CNT n i) 1).raise ⟨aCONV_ALARM n, i, 1⟩ else s
  if run then s.setNat (aCONV_RMS n i) (isqrt (256 * power.foldl (· + ·) 0 / max 1 power.length)) else s

/-- R55: the codes of a channel: each over-range sample reads +127 or −128 by its sign. -/
def overCodes (codes : List Byte) (outside : List (Nat × Bool)) : List Byte :=
  outside.foldl (fun cs p => setAt cs p.1 (if p.2 then 127 else 128)) codes

/-- R46, R53 to R58, R64, R88: a group of the four ADC channels arrives: `outside` lists the over-range samples of each channel
with their signs, true positive. -/
def execAdcGroup (n : Lane) (outside : List (List (Nat × Bool))) (codes : List (List Byte)) (s : State) : Ans :=
  if !s.laneUp n then .next s
  else
    let run := s.convState n .adc == 2
    let c := (s.lane n).conv
    let out := fun i => !(outside.getD i []).isEmpty
    let codes := codes.zipIdx.map fun p => overCodes p.1 (outside.getD p.2 [])
    let ovr := (List.range 4).map fun i => out i || c.ovrTail.getD i 0 != 0
    let tail := (List.range 4).map fun i => if out i then 3 else c.ovrTail.getD i 0 - 1
    let sq := fun (ch : List Byte) => ch.foldl (fun a (b : Byte) => a + b.toInt.natAbs * b.toInt.natAbs) 0
    let power := (List.range 4).map fun i =>
      if run then (sq (codes.getD i []) :: c.power.getD i []).take 4096 else c.power.getD i []
    let s := s.modConv n fun c => { c with ovrTail := tail, power := power }
    let s := (List.range 4).foldl (fun s i => s.adcChannel n i (ovr.getD i false) run (power.getD i [])) s
    let s := s.capGroup n { vld := run, ovr := ovr, data := codes, tb0 := s.tb0 } false
    let s := s.rxdGroup n (ovr.any id) codes
    .next (if run then s else s.losAssert n)

/-- R89, R91: RXD_CTRL.EN written. -/
def State.writeRxdEn (s : State) (n : Lane) (v : Bool) : State :=
  let s := (s.touch n).setB (fRXD_CTRL_EN n) v
  let s :=
    if v then
      if s.rxdState n = 0 then
        let s := s.rxdEnter n 1
        if s.is (fRXD_STATE_LOS n) then s else s.freqSearch n
      else s
    else
      let s := (s.setB (fRXD_STATE_WARM n) false).rxdEnter n 0
      -- R49: the trim returns to 0
      s.setNat (aCONV_RXSYN_TRIM n) 0
  s.touch n

def execRxdEnWrite (n : Lane) (v : Bool) (s : State) : Ans :=
  .next (s.hostWrite (aRXD_CTRL n) fun s => s.writeRxdEn n v)

/-- R91: ACQ_RESTART: `FREQ_SEARCH` in the next LRXn cycle. -/
def State.acqRestart (s : State) (n : Lane) : State := if 2 ≤ s.rxdState n then s.freqSearch n else s

def execRxdAcqRestart (n : Lane) (s : State) : Ans :=
  .next (s.hostWrite (aRXD_CTRL n) fun s => s.acqRestart n)

/-- R91: LO_MODE, KS_ASSIST or FMT_SRC is written: its change takes effect at once in `DISABLED` and `NO_SIGNAL`, else at
the next `FREQ_SEARCH`. -/
def State.writeLoMode (s : State) (n : Lane) (v : Nat) : State :=
  let s := s.set (fRXD_CTRL_LO_MODE n) v
  if s.rxdState n ≤ 1 then s.latchLoMode n else s

def State.writeKsAssist (s : State) (n : Lane) (v : Bool) : State :=
  let s := s.setB (fRXD_CTRL_KS_ASSIST n) v
  if s.rxdState n ≤ 1 then s.latchKsAssist n else s

def State.writeFmtSrc (s : State) (n : Lane) (v : Bool) : State :=
  let s := s.setB (fRXD_CTRL_FMT_SRC n) v
  if s.rxdState n ≤ 1 then s.latchFmtSrc n else s

def execRxdLoModeWrite (n : Lane) (v : BitVec 2) (s : State) : Ans :=
  .next (s.hostWrite (aRXD_CTRL n) fun s => s.writeLoMode n v.toNat)

def execRxdKsAssistWrite (n : Lane) (v : Bool) (s : State) : Ans :=
  .next (s.hostWrite (aRXD_CTRL n) fun s => s.writeKsAssist n v)

def execRxdFmtSrcWrite (n : Lane) (v : Bool) (s : State) : Ans :=
  .next (s.hostWrite (aRXD_CTRL n) fun s => s.writeFmtSrc n v)

/-! ### FREQ_SEARCH (R80, R83, R84, R89, R93) -/

/-- The latest FO estimate in kHz shown. -/
def State.showFo (s : State) (n : Lane) (fo : Int) : State :=
  (s.setInt (aRXD_FO_EST n) fo).setB (fRXD_MET_VALID_FO n) true

/-- R83, R84: the coarse step ends on an estimate in kHz; with the host as owner it must lie within ±2.5 GHz. -/
def State.coarseEnd (s : State) (n : Lane) (est : Int) : State :=
  let owner := s.loOwnerNow n
  if owner = 0 && 2500000 < est.natAbs then s.raise (fRXD_ALARM_FO_RANGE n)
  else
    let s := if owner = 2 then s.loDelta n 0 (divNear est 1000) else s
    s.modRxd n fun r => { r with coarseDone := true, fineAt := s.clk }

/-- R80: a spectral estimate completes, at a multiple of 3.0 ms after the entry. -/
def execSpectralEstimate (n : Lane) (fo : Int) (s : State) : Ans :=
  if !s.laneUp n || s.rxdState n ≠ 2 || (s.lane n).rxd.ovr then .next s
  else
    let r := (s.lane n).rxd
    let s := s.waitClk (1875000 + r.searchAt + 1875000 * ((s.clk - r.searchAt) / 1875000))
    let fo := clampI (-25000000) 25000000 fo
    let s := (s.modRxd n fun r => { r with spectral := some fo }).showFo n fo
    .next (if r.coarseDone || r.ksWaiting then s else s.coarseEnd n fo)

/-- R93: the wait follows the state of KSC until the coarse step ends: while KSC is `OFF` RXD does not wait, and goes on
with the spectral estimate completed by then. -/
def State.ksWaitRefresh (s : State) (n : Lane) : State :=
  let r := (s.lane n).rxd
  let wait := r.ksAssist && s.get (fKSC_STATE_STATE n) != 0 && !r.ksExpired
  if s.rxdState n ≠ 2 || r.coarseDone || wait == r.ksWaiting then s
  else
    let s := (s.modRxd n fun r => { r with ksWaiting := wait }).showOwner n
    match r.spectral with
    | some e => if wait then s else s.coarseEnd n e
    | none => s

/-- R93: KS_WAIT has passed without a packet: RXD goes on without assistance. -/
def execKsWaitExpiry (n : Lane) (s : State) : Ans :=
  let r := (s.lane n).rxd
  if !s.laneUp n || s.rxdState n ≠ 2 || !r.ksWaiting || r.coarseDone then .next s
  else
    let s := s.waitClk (r.searchAt + cyclesMs * max 1 (s.get (fRXD_LO_CFG_KS_WAIT n)))
    let s := (s.modRxd n fun r => { r with ksWaiting := false, ksExpired := true }).showOwner n
    .next (match r.spectral with
      | some e => s.coarseEnd n e
      | none => s)

/-! ### CD (R71 to R74) -/

/-- R71: the compensable CD at a symbol rate in 1/32 GBd, ps/nm. -/
def cdLimit (rate : Nat) : Nat := min 300000 (9600 * (120000 * 9600) / (max 1 rate * max 1 rate))

/-- R71: the compensable CD in a format. -/
def Fmt.cdLim (f : Fmt) : Nat := cdLimit f.symRate

/-- R73: `k` × (300 GBd ÷ Rs)², ps/nm, to the nearest. -/
def cdScaled (k : Int) (rate : Nat) : Int := divNear (9600 * (9600 * k)) (max 1 rate * max 1 rate)

/-- R71: the range at a rate is ±120,000 × (300 GBd ÷ Rs)² ps/nm, the lesser of the two limits. -/
def cdByRate (rate : Nat) : Bool := 120000 * (9600 * 9600) ≤ 300000 * (max 1 rate * max 1 rate)

/-- R73: steps of a scan at a rate: the whole steps of the R71 range, and one. -/
def scanSteps (hint : Option Int) (rate : Nat) : Nat :=
  match hint with
  | some _ => 33
  | none => if cdByRate rate then 481 else 1200 * (max 1 rate * max 1 rate) / (9600 * 9600) + 1

/-- R73: the CD of step `i`. -/
def scanCd (hint : Option Int) (rate i : Nat) : Int :=
  match hint with
  | some h => h + cdScaled (-8000 + 500 * (i : Int)) rate
  | none => if cdByRate rate then cdScaled (500 * ((i : Int) - 240)) rate else cdScaled (500 * (i : Int)) rate - 300000

/-- R73: the hint of a scan: the host's first, then Keystone's. -/
def State.cdHint (s : State) (n : Lane) : Option Int :=
  if s.reg (aRXD_CD_HINT n) = 0x80000000#32 then (s.lane n).rxd.ksHint else some (s.int (aRXD_CD_HINT n))

/-- R73: a scan starts.  DESIGN CHOICE (log entry 65): when a hinted scan widens, the maximum of CD_SCAN (R89) counts anew
from the widening. -/
def State.scanStart (s : State) (n : Lane) (hint : Option Int) : State :=
  s.modRxd n fun r => { r with stateAt := s.clk, scan := some { hint := hint, step := 0, best := none, at_ := s.clk, refining := false } }

/-- R89: `FREQ_SEARCH` is left for `CD_SCAN`, or for `TIMING` with CD_MODE = `FIXED`; RXD owns the LO from here in
`TRACK` (R83). -/
def State.searchDone (s : State) (n : Lane) : State :=
  let s := s.modRxd n fun r => { r with loAt := s.clk, ksWaiting := false }
  if s.is (fRXD_SCFG_CD_MODE n) then
    (s.compSet n (s.int (aRXD_CD_FIXED n))).rxdEnter n 4
  else (s.rxdEnter n 3).scanStart n (s.cdHint n)

/-- R80, R89: a fine estimate completes, 0.5 ms after the last; two that agree within ±2.5 GHz and 50 MHz end
`FREQ_SEARCH`. -/
def execFineEstimate (n : Lane) (fo : Int) (s : State) : Ans :=
  let r := (s.lane n).rxd
  if !s.laneUp n || s.rxdState n < 2 || (s.rxdState n = 2 && !r.coarseDone) || r.ovr then .next s
  else
    let fo := clampI (-25000000) 25000000 fo
    let s := s.waitClk (5 * cycles100us + r.fineAt)
    let s := (s.modRxd n fun r => { r with fine := some fo, fineAt := s.clk }).showFo n fo
    let ok := match r.fine with
      | some p => p.natAbs ≤ 2500000 && fo.natAbs ≤ 2500000 && (p - fo).natAbs ≤ 50000
      | none => false
    .next (if s.rxdState n = 2 && ok then s.searchDone n else s)

/-- R70, R73, R74, R89: a dwell of 0.4 ms ends with a detection metric.  While the groups carry `OVR` = 1 none ends (log entry 91).  DESIGN CHOICE (log entry 66): a full scan that fails is
an acquisition failure and sets ACQ_FAIL beside CD_LIM. -/
def execCdScanStep (n : Lane) (metric : Nat) (above : Bool) (s : State) : Ans :=
  match (s.lane n).rxd.scan with
  | none => .next s
  | some c =>
    if !s.laneUp n || s.rxdState n ≠ 3 || c.refining || (s.lane n).rxd.ovr then .next s
    else
      let rate := (s.rxFmt n).symRate
      let s := s.waitClk (4 * cycles100us + c.at_)
      let best := if above then (match c.best with
          | some (m, x) => if m < metric then some (metric, scanCd c.hint rate c.step) else some (m, x)
          | none => some (metric, scanCd c.hint rate c.step)) else c.best
      if c.step + 1 < scanSteps c.hint rate then
        .next (s.modRxd n fun r => { r with scan := some { c with step := c.step + 1, best := best, at_ := s.clk } })
      else if best.isSome then
        .next (s.modRxd n fun r =>
          { r with scan := some { c with step := c.step + 1, best := best, at_ := s.clk, refining := true } })
      else if c.hint.isSome then .next (s.scanStart n none)
      else .next ((s.raise (fRXD_ALARM_CD_LIM n)).acqFail n (fRXD_ALARM_ACQ_FAIL n))

/-- R71, R97: an estimate of CD within the range of the format. -/
def State.cdHeld (s : State) (n : Lane) (cd : Int) : Int :=
  clampI (-((s.rxFmt n).cdLim : Nat)) ((s.rxFmt n).cdLim : Nat) cd

/-- R70, R73, R89: the refinement of 1.0 ms gives the estimate in ps/nm. -/
def execCdRefineDone (n : Lane) (cd : Int) (s : State) : Ans :=
  match (s.lane n).rxd.scan with
  | none => .next s
  | some c =>
    if !s.laneUp n || s.rxdState n ≠ 3 || !c.refining || (s.lane n).rxd.ovr then .next s
    else
      let cd := s.cdHeld n cd
      let s := s.waitClk (cyclesMs + c.at_)
      let s := ((s.setInt (aRXD_CD_EST n) cd).compSet n cd).modRxd n fun r => { r with scan := none }
      .next ((s.rxdEnter n 4).cdToTime n (some cd))

/-- R72: in `TRACKING` with CD_MODE = `AUTO`, once per second: an estimate at least 50 ps/nm from the compensated value is
its target from now on. -/
def execCdReestimate (n : Lane) (cd : Int) (s : State) : Ans :=
  if !s.laneUp n || s.rxdState n ≠ 7 || s.is (fRXD_SCFG_CD_MODE n) || (s.lane n).rxd.ovr then .next s
  else
    let cd := s.cdHeld n cd
    let s := s.waitClk (1000 * cyclesMs + max (s.lane n).rxd.stateAt (s.lane n).rxd.cdEstAt)
    let s := s.setInt (aRXD_CD_EST n) cd
    let c := s.compNow n
    let s := s.modRxd n fun r =>
      { r with comp := c, cdMoveAt := s.clk, cdEstAt := s.clk, cdTarget := if 50 ≤ (cd - c).natAbs then cd else c }
    .next (s.cdToTime n (some cd))

/-! ### TIMING to TRACKING (R77, R79, R89, R90) -/

/-- R89: clock recovery locks. -/
def execTimingLock (n : Lane) (s : State) : Ans :=
  if s.laneUp n && s.rxdState n = 4 then .next (s.rxdEnter n 5) else .next s

/-- R89: the equaliser converges. -/
def execPolConverged (n : Lane) (s : State) : Ans :=
  if s.laneUp n && s.rxdState n = 5 then .next (s.rxdEnter n 6) else .next s

/-- R77: the rotations and assignment of a marker hypothesis: ROT_X + 4 ROT_Y + 16 POL_SWAP. -/
def State.setRotation (s : State) (n : Lane) (hyp : Nat) : State :=
  ((s.set (fRXD_STATE_ROT_X n) hyp).set (fRXD_STATE_ROT_Y n) (hyp / 4)).set (fRXD_STATE_POL_SWAP n) (hyp / 16)

/-- R77, R89, R90: LFR reports frame synchronisation: `TRACKING`. -/
def State.rxdInFrame (s : State) (n : Lane) (hyp : Nat) : State :=
  if s.rxdState n = 6 then
    let s := (s.setRotation n hyp).addCnt (aRXD_ACQ_CNT n) 1
    let s := s.setNat (aRXD_ACQ_TIME n) ((s.clk - (s.lane n).rxd.searchAt) / 625)
    ((s.setB (fRXD_STATE_WARM n) false).rxdEnter n 7).cdToTime n none
  else s

/-- R79: the rotation found at a marker differs: a cycle slip for each polarisation that slipped. -/
def State.rxdSlip (s : State) (n : Lane) (hyp : Nat) : State :=
  let slips := b2n (s.get (fRXD_STATE_ROT_X n) != hyp % 4) + b2n (s.get (fRXD_STATE_ROT_Y n) != hyp / 4 % 4)
  if slips = 0 then s
  else ((s.setRotation n hyp).addCnt (aRXD_SLIP_CNT n) slips).raise (fRXD_ALARM_SLIP n)

/-- R89: the longest time in a state, in PLU cycles; 0 where the state has none.  DESIGN CHOICE (log entry 94): the maximum of
`FREQ_SEARCH` counts as a whole from its entry: that of the coarse step and the 20 ms, also where the coarse step ends
earlier. -/
def State.stateLimit (s : State) (n : Lane) : Nat :=
  let r := (s.lane n).rxd
  match s.rxdState n with
  | 2 =>
    let coarse := if r.ksAssist && s.get (fKSC_STATE_STATE n) != 0 then max 3 (s.get (fRXD_LO_CFG_KS_WAIT n)) else 3
    20 * cyclesMs + cyclesMs * coarse
  | 3 => match r.scan with
    | some c => if c.hint.isSome then 142 * cycles100us else 1934 * cycles100us
    | none => 1934 * cycles100us
  | 4 => 20 * cycles100us
  | 5 => 25 * cycles100us
  | 6 => 15 * cycles100us
  | _ => 0

/-- R89: a state reaches its maximum duration. -/
def execAcqStateTimeout (n : Lane) (s : State) : Ans :=
  let lim := s.stateLimit n
  if !s.laneUp n || lim = 0 then .next s
  else .next ((s.waitClk ((s.lane n).rxd.stateAt + lim)).acqFail n (fRXD_ALARM_ACQ_FAIL n))

/-- R90: a warm reacquisition has not reached `TRACKING` in 10 ms. -/
def execWarmReacqTimeout (n : Lane) (s : State) : Ans :=
  if !s.laneUp n || !s.is (fRXD_STATE_WARM n) then .next s
  else .next ((s.waitClk (10 * cyclesMs + (s.lane n).rxd.warmAt)).acqFail n (fRXD_ALARM_WARM_FAIL n))

/-- R89: the equaliser diverges. -/
def execEqDiverge (n : Lane) (s : State) : Ans := if s.laneUp n then .next (s.rxdWarm n) else .next s

/-! ### LO updates, trim, metrics, nonlinear compensation -/

/-- R83: an LO update period ends. -/
def execLoUpdateTick (n : Lane) (s : State) : Ans :=
  let r := (s.lane n).rxd
  if !s.laneUp n || s.rxdState n < 3 || s.loOwnerNow n ≠ 2 then .next s
  else
    let s := s.waitClk (r.loAt + clampN 10 10000 (s.get (fRXD_LO_CFG_PERIOD n)) * 625)
    let s := s.modRxd n fun r => { r with loAt := s.clk }
    match r.fine with
    | none => .next s
    | some e =>
      if e.natAbs ≤ 1000 * s.get (fRXD_LO_LIMIT_DEADBAND n) then .next s
      else .next (s.loDelta n 0 (divNear e (1000 * 2 ^ s.get (fRXD_LO_CFG_GAIN n))))

/-- R49, R70, R85: the integral path asks for a trim.  Under TRIM_HOLD the fast path alone tracks within ±20 ppm of the held
trim: beyond, timing lock is lost (log entry 61).  R49: a request beyond ±100 ppm is held there and raises TRIM_LIM; one of exactly
±100 ppm is not beyond it. -/
def execTrimUpdate (n : Lane) (want : Int) (s : State) : Ans :=
  if !s.laneUp n || s.rxdState n < 4 || (s.lane n).rxd.ovr then .next s
  else if s.is (fCONV_CTRL_TRIM_HOLD n) then
    .next (if 5 ≤ s.rxdState n then
      s.setB (fRXD_STATE_TIMING_LOCK n) ((want - s.int (aCONV_RXSYN_TRIM n)).natAbs ≤ 20000000) else s)
  else
    let lim := want.natAbs > 100000000
    let was := s.is (fCONV_STATE_TRIM_LIM n)
    let s := s.setInt (aCONV_RXSYN_TRIM n) (clampI (-100000000) 100000000 want)
    .next ((s.setB (fCONV_STATE_TRIM_LIM n) lim).raiseIf (lim && !was) (fCONV_ALARM_TRIM_LIM n))

/-! #### Q (R97), in fixed point with 180 bits after the point -/

/-- The integral of `e^(-u²)` from 0 to `x` by its series, for `x2 = x²`. -/
def fixErf (x2 : Nat) : Nat → Nat → Nat → Int → Int
  | 0, _, _, acc => acc
  | fuel + 1, n, t, acc =>
    let term : Int := ((t / (2 * n + 1) : Nat) : Int)
    fixErf x2 fuel (n + 1) (fixMul t x2 / (n + 1)) (if n % 2 = 0 then acc + term else acc - term)

/-- The integral up to the argument that a Q of `h` half hundredths of a dB stands for: `x² = 10^(h/2000) / 2`. -/
def qIntegral (h : Nat) : Int :=
  let x2 := fixExp (ln10 * h / 2000) 100 0 (2 ^ 180) 0 / 2
  fixErf x2 300 0 (isqrtFrom 190 (x2 * 2 ^ 180) 0) 0

/-- The greatest `q`, its `k` low bits tried one by one, with the BER of half a hundredth below `q` at least
`errs ÷ bits`. -/
def qSearch (errs bits : Nat) : Nat → Nat → Nat
  | 0, q => q
  | k + 1, q =>
    let half : Int := 1358138811451638157343196512702172688193687557730972121
    let t := q + 2 ^ k
    qSearch errs bits k (if t ≤ 2000 && qIntegral (2 * t - 1) * bits ≤ half * ((bits : Int) - 2 * errs) then t else q)

/-- R97: Q in 0.01 dB, 20 log10(√2 · erfc⁻¹(2 × BER)), of `errs` errors in `bits` bits; 20.00 dB where none is seen.
DEDUCED (log entry 67): rounded to the nearest LSB, as the worked example of R138 rounds. -/
def qFactor (errs bits : Nat) : Nat := if errs = 0 then 2000 else if bits ≤ 2 * errs then 0 else qSearch errs bits 11 0

/-- R97, R138, R139: the coded bits of `k` codewords of the receive format in force. -/
def Fmt.codedBits (f : Fmt) (k : Nat) : Nat :=
  k * (if f.family = 0 then 30720 else (Config.zrCodewordBits f.family).toNat)

/-- R86, R97: what the equaliser's taps show of delay and mean DGD; where no group has adapted them, what the command brings
(DESIGN CHOICE, log entry 90). -/
def State.eqDelay (s : State) (n : Lane) (v : Int) : Int :=
  if (s.lane n).rxd.taps.isEmpty then v else Config.tapsDelay (s.lane n).rxd.taps
def State.eqDgd (s : State) (n : Lane) (v : Nat) : Nat :=
  if (s.lane n).rxd.taps.isEmpty then v else Config.tapsDgd (s.lane n).rxd.taps

/-- R86, R97: the metrics of 100 µs. -/
def execRxdMetricsUpdate (n : Lane) (m : Metrics) (s : State) : Ans :=
  if !s.laneUp n || (s.lane n).rxd.ovr then .next s
  else
    let st := s.rxdState n
    let cd := s.cdHeld n m.cd
    let s := s.setInt (aRXD_EQ_DELAY n) (s.eqDelay n m.eqDelay)
    let s := if 4 ≤ st then (s.setInt (aRXD_CD_EST n) cd).cdToTime n (some cd) else s
    let now := (s.wide (aFEC_CNT n 0), s.wide (aFEC_CNT n 1))
    let base := (s.lane n).rxd.qBase
    let fresh := (s.lane n).rxd.sopFresh
    let s := s.modRxd n fun r => { r with qBase := now }
    if st ≠ 7 then .next s
    else
      let q := qFactor (now.2 - base.2) ((s.rxFmt n).codedBits (now.1 - base.1))
      let sop := clampN 1 20000 m.sop
      let s := (s.setNat (aRXD_OSNR n) (clampN 1000 4000 m.osnr)).setNat (aRXD_SNR n) (min 3000 m.snr)
      let s := (s.setNat (aRXD_Q n) q).setNat (aRXD_DGD n) (min 30000 (s.eqDgd n m.dgd))
      let s := (s.setNat (aRXD_SOP_RATE n) sop).setNat (aRXD_SOP_PEAK n)
        (if fresh then sop else max sop (s.nat (aRXD_SOP_PEAK n)))
      .next (s.modRxd n fun r => { r with sopFresh := false })

/-- R87: the words of the span table. -/
def State.nlcSpans (s : State) (n : Lane) : List Word :=
  (List.range 40).flatMap fun k => (List.range 5).map fun j => s.reg (aRXD_NLC_SPAN n k j)

/-- R87: the coefficients of the span table and the window are ready. -/
def execNlcReady (n : Lane) (s : State) : Ans :=
  if s.laneUp n && (s.lane n).rxd.nlc = .computing then
    .next (s.modRxd n fun r =>
      { r with nlc := .ready, nlcCoef := Config.nlcCoefficients (s.nlcSpans n) (s.reg (aRXD_NLC_CFG n)) })
  else .next s

/-- R87: a Course, or a reset that kept them, has put NLC_EN, NLC_CFG or the span table in force. -/
def State.nlcChanged (s : State) (n : Lane) : State :=
  s.modRxd n fun r => { r with nlc := match r.nlc with
    | .active => .toBypass
    | .toBypass => .toBypass
    | _ => if s.nlcOn n then .computing else .off }

/-- R87: a line-frame boundary in `TRACKING`.  DESIGN CHOICE (log entry 95): the frames of the ZR families have no line-frame
boundary of this manual, so compensation is not enabled there. -/
def State.nlcBoundary (s : State) (n : Lane) : State :=
  if s.rxdState n ≠ 7 then s
  else match (s.lane n).rxd.nlc with
    | .toBypass => (s.setB (fRXD_STATE_NLC_ACTIVE n) false).modRxd n fun r =>
        { r with nlc := if s.nlcOn n then .computing else .off }
    | .ready => (s.setB (fRXD_STATE_NLC_ACTIVE n) true).modRxd n fun r => { r with nlc := .active }
    | _ => s

/-- R74, R92, R119: receive items of a Course have just applied: `TRACKING` goes on, with the taps interpolated anew, warm after a
change of the family, unless the symbol rate has changed and the CD estimate lies outside the range of the new one; the
acquisition states start again. -/
def State.rxdCourse (s before : State) (n : Lane) : State :=
  let st := s.rxdState n
  let old := (before.rxFmt n).symRate
  let new := (s.rxFmt n).symRate
  let out := old ≠ new && 4 ≤ st && cdLimit new < (s.int (aRXD_CD_EST n)).natAbs
  let s := s.raiseIf out (fRXD_ALARM_CD_LIM n)
  if st = 7 && !out then
    let s := if s.is (fRXD_SCFG_CD_MODE n) then s.compSet n (s.int (aRXD_CD_FIXED n)) else s
    let s := if old = new then s else s.modRxd n fun r => { r with taps := Config.tapsAtRate old new r.taps }
    if (s.rxFmt n).family = (before.rxFmt n).family then s else s.rxdWarm n
  else if 2 ≤ st then s.freqSearch n
  else s

/-- R81, R83: lane reset and cold reset send one `ZERO` once the interface is driven. -/
def State.loZero (s : State) (n : Lane) : State := s.loFrame n 2 0 0

end Sys2Proof.Machine
end

