-- ==== Sys2Proof/Machine/Wave.lean ====
section
/-!
DEFINITION. Waveforms as pure functions, in fixed point: the root-raised-cosine pulse of R109 and the chirps of R285.
-/

namespace Sys2Proof.Machine

/-! ### The pulse (R109) -/

/-- R109: the root-raised-cosine response at `f` MHz of a symbol rate of `rate` ÷ 32 GBd under ROLLOFF, with 64 bits after the
point: 1 up to Rs (1 − β) ÷ 2, 0 from Rs (1 + β) ÷ 2 on.  The rate is 31.25 MHz × `rate`. -/
def rootRaised (rolloff rate f : Nat) : Int :=
  let low := 3125 * rate * (100 - rolloff)
  let wide := 6250 * rate * rolloff
  if 20000 * f ≤ low then 2 ^ 64
  else if low + wide ≤ 20000 * f then 0
  else cosTurns ((20000 * f - low : Nat) : Int) (4 * wide)

/-- R109: the transmitted response: within ±0.5 dB of the ideal one up to Rs (1 − β) ÷ 2. -/
def pulseResponse (rolloff rate f : Nat) : Int :=
  let h := rootRaised rolloff rate f
  if 20000 * f ≤ 3125 * rate * (100 - rolloff) then
    let x := min 100 (Config.pulseRipple rolloff rate f)
    h * (fixExp (ln10 * (x + 1950) / 2000) 100 0 (2 ^ 180) 0 : Nat)
      / (10 * 2 ^ 180)
  else h

/-- R109: the pulse at `t` ninths of a fs from its centre, with 64 bits after the point, of unit gain at the centre of its band:
the sum of its spectrum over frequencies 1 MHz apart. -/
def pulseAt (rolloff rate : Nat) (t : Int) : Int :=
  let top := rate * (100 + rolloff) * 3125 / 20000
  let sum := (List.range top).foldl (fun (v : Int) k =>
    v + 2 * (pulseResponse rolloff rate (k + 1) * cosTurns ((k + 1 : Nat) * t) 9000000000 / 2 ^ 64)) (pulseResponse rolloff rate 0)
  sum * 100 / ((3125 * rate : Nat) : Int)

/-- R109: half the pulse's span in ninths of a fs, 24 ns, which is the delay of its filter (DESIGN CHOICE, log entry 92). -/
def pulseHalf : Nat := 216000000

/-- R104, R110: the centre of symbol `i`, in ninths of a fs from the start of its frame. -/
def symbolAt (rate i : Nat) : Nat := 288000000 * i / max 1 rate

/-- R110: the amplitude, in units of 2^-16 code, of a dimension of value `a` under a level of `rms` ÷ 16 codes: the constellation
has the mean square `energy`. -/
def scaled (energy : Nat × Nat) (rms : Nat) (a : Int) : Int :=
  divNear (a * ((rms * 4096 * 2 ^ 32 : Nat) : Int)) (isqrtFrom 64 (energy.1 * 2 ^ 64 / max 1 energy.2) 0)

/-- R110, R505: the level under which a symbol passed stage 3, by its place in ninths of a fs. -/
def LfSignal.levelAt (x : LfSignal) (t : Nat) : Nat := ((x.levels.find? fun l => 9 * l.1 ≤ t).map (·.2)).getD 0

/-- R109, R110: the four channels of a frame's signal at `t` ninths of a fs after its start, in units of 2^-16 code. -/
def LfSignal.sampleAt (x : LfSignal) (t : Nat) : List Int :=
  let near := x.symbols.zipIdx.filter fun p => symbolAt x.rate p.2 ≤ t && t ≤ symbolAt x.rate p.2 + 2 * pulseHalf
  let sum := fun (of : Int × Int × Int × Int → Int) => (near.foldl (fun (v : Int) p =>
    let c := symbolAt x.rate p.2
    v + scaled x.energy (x.levelAt c) (of p.1) * pulseAt x.rolloff x.rate ((t : Int) - c - pulseHalf)) 0) / 2 ^ 64
  [sum (·.1), sum (·.2.1), sum (·.2.2.1), sum (·.2.2.2)]

/-- R109: the 256 samples at 360 GS/s of a group whose sample 0 lies `at_` fs after the frame's start: a sample is 25,000 ninths
of a fs. -/
def LfSignal.group (x : LfSignal) (at_ : Nat) : List (List Int) :=
  let ss := (List.range 256).map fun j => x.sampleAt (9 * at_ + 25000 * j)
  (List.range 4).map fun c => ss.map fun v => v.getD c 0

/-! ### The chirps (R285) -/

/-- R285: the phase, in units of 1 ÷ (1,620,000 N) turn, at sample `m` of the 900 N of a symbol, from its start: an up-chirp by
its shift, or a down-chirp.  It is the integral of the instantaneous frequency, and a whole number of turns over a symbol. -/
def chirpPhase (n : Nat) (symbol : Option Nat) (m : Nat) : Int :=
  match symbol with
  | some s => ((1800 * s * m + m * m : Nat) : Int) - (900 * n * m : Nat) - (1800 * n * (m - 900 * (n - s)) : Nat)
  | none => ((900 * n * m : Nat) : Int) - (m * m : Nat)

/-- R285: the waveform of constant amplitude at sample `k` of a packet, in units of 2^-16, at power 1; zero outside the packet. -/
def chirpSample (sf : Nat) (symbols : List (Option Nat)) (phase : Nat) (k : Int) : Int × Int :=
  let n := 2 ^ sf
  let m := k.toNat
  if k < 0 then (0, 0)
  else match symbols[m / (900 * n)]? with
  | none => (0, 0)
  | some x =>
    let den := 1620000 * n * 65536
    let p := 65536 * chirpPhase n x (m % (900 * n)) + ((phase * 1620000 * n : Nat) : Int)
    (cosTurns p den / 2 ^ 48, sinTurns p den / 2 ^ 48)

end Sys2Proof.Machine
end

