-- ==== Sys2Proof/Machine/KsCode.lean ====
section
/-!
DEFINITION. The Keystone packet code as pure functions: checks, header, LDPC code, sync and data symbols (R285 to R291).
-/

namespace Sys2Proof.Machine

/-- R289: HCRC, x^16 + x^12 + x^5 + 1 from 0xFFFF, most significant bit first. -/
def crc16 (bs : List Byte) : Nat :=
  bs.foldl (fun c b => (bitsMsb 8 b.toNat).foldl (fun c x =>
    let t := (bitOf c 15).xor x
    Nat.xor (2 * c % 65536) (if t then 0x1021 else 0)) c) 0xFFFF

/-- R289: PCRC, 0x04C1_1DB7 from 0xFFFF_FFFF, most significant bit first, inverted at the end. -/
def pcrc (bs : List Byte) : Nat :=
  Nat.xor 0xFFFFFFFF (bs.foldl (fun c b => (bitsMsb 8 b.toNat).foldl (fun c x =>
    let t := (bitOf c 31).xor x
    Nat.xor (2 * c % 4294967296) (if t then 0x04C11DB7 else 0)) c) 0xFFFFFFFF)

/-- R289: a header of a packet of `len` payload bytes. -/
def ksHeader (type lane : Nat) (locked : Bool) (seq len node : Nat) : List Byte :=
  let h := natBytes 1 (type * 16 + 1) ++ natBytes 1 (lane * 32 + 16 * b2n locked)
    ++ natBytes 2 (seq % 32 * 2048 + len) ++ natBytes 2 (node % 16384)
  h ++ natBytes 2 (crc16 h)

/-- A 32-bit block rotated as an entry of shift `s` does (R125, R290). -/
def rot32 (w s : Nat) : Nat := (w * 2 ^ s + w / 2 ^ (32 - s)) % 2 ^ 32

/-- R290: rows and shifts of information column `c`. -/
def ksColumn (c : Nat) : List (Nat × Nat) :=
  (List.range 6).map fun i => ((2 * c + 3 * i) % 16, (5 * c * c + 11 * i * c + 7 * i + 1) % 32)

/-- R290: the parity bits of a block of at most 256 information bits. -/
def ksParity (info : List Bool) : List Bool :=
  let blocks := (chunkBits 8 32 (info ++ List.replicate (256 - info.length) false)).map natOfBits
  let syn := blocks.zipIdx.foldl
    (fun acc p => (ksColumn p.2).foldl (fun a e => modAt a e.1 fun x => Nat.xor x (rot32 p.1 e.2)) acc)
    (List.replicate 16 0)
  (ldpcParity 0 syn).flatMap (bitsMsb 32)

/-- The bits of a byte string, most significant bit of each byte first. -/
def bitsOfBytes (bs : List Byte) : List Bool := bs.flatMap fun b => bitsMsb 8 b.toNat

/-- R291: blocks of 256 information bits, the last shortened. -/
def ksBlocks : Nat → List Bool → List Bool
  | 0, _ => []
  | n + 1, bs => if bs.isEmpty then [] else bs.take 256 ++ ksParity (bs.take 256) ++ ksBlocks n (bs.drop 256)

/-- R291: the coded bits of a packet. -/
def ksCoded (header payload : List Byte) : List Bool :=
  let body := if payload.isEmpty then [] else payload ++ natBytes 4 (pcrc payload)
  let h := bitsOfBytes header
  h ++ ksParity h ++ ksBlocks 33 (bitsOfBytes body)

/-- R291: number of coded bits of a packet of `len` payload bytes. -/
def ksCodedLen (len : Nat) : Nat :=
  576 + if len = 0 then 0 else 8 * (len + 4) + 512 * divUp (8 * (len + 4)) 256

/-- R288: the two sync shifts. -/
def ksSync (sf id : Nat) : Nat × Nat :=
  let g := 2 ^ (sf - 6)
  let a := id / 64 % 64
  let b := id % 64
  (g * ((23 * a + 7) % 64) + g / 2, g * ((41 * b + a + 19) % 64) + g / 2)

/-- R291: `n` bits of the offset sequence: their value and the state after them. -/
def ksDither : Nat → Nat → Nat → Nat × Nat
  | 0, s, d => (d, s)
  | n + 1, s, d =>
    let b := b2n ((bitOf s 20).xor (bitOf s 18))
    ksDither n ((2 * s + b) % 2097152) (2 * d + b)

/-- R291: the shifts of the data symbols. -/
def ksData (sf : Nat) : Nat → Nat → List Bool → List Nat
  | 0, _, _ => []
  | n + 1, s, bits =>
    let g := bits.take sf
    let v := natOfBits (g ++ List.replicate (sf - g.length) false)
    let d := ksDither sf s 0
    (v + d.1) % 2 ^ sf :: ksData sf n d.2 (bits.drop sf)

/-- R287, R288, R291: the symbols of a packet: 10 up-chirps with shift 0, the two sync symbols, 3 down-chirps, the data
symbols. -/
def ksSymbols (sf id : Nat) (header payload : List Byte) : List (Option Nat) :=
  let bits := ksCoded header payload
  List.replicate 10 (some 0) ++ [some (ksSync sf id).1, some (ksSync sf id).2] ++ List.replicate 3 none
    ++ (ksData sf (divUp bits.length sf) (0x100000 + id) bits).map some

/-! ### Reception (R291, R297) -/

/-- The bin of the greatest power; the first of several. -/
def peakBin (powers : List Nat) : Nat :=
  (powers.zipIdx.foldl (fun (b : Nat × Nat) p => if b.1 < p.1 then p else b) (powers.headD 0, 0)).2

/-- R297: six windows that peak in the same bin ±1, each by at least `thr` dB above its mean bin power: the bin, that of the
last window.  Powers are compared as `peak × bins ≥ sum × 10^(thr ÷ 10)`. -/
def ksDetect (thr : Nat) (windows : List (List Nat)) : Option Nat :=
  let bin := peakBin (windows.getLastD [])
  let level := fixExp (3528701387477643034759383725031102213145367166705899390 * thr / 10) 100 0 (2 ^ 180) 0
  let good := fun (w : List Nat) =>
    (((peakBin w : Int) - bin).natAbs ≤ 1 : Bool)
      && decide (w.foldl (· + ·) 0 * level ≤ w.getD (peakBin w) 0 * w.length * 2 ^ 180)
  if windows.length = 6 && windows.all good then some bin else none

/-- R291: the soft value of bit `k` of a data symbol: the greatest bin power among the values with the bit 0 less that among those
with the bit 1, by the noise power, in units of 2^-16; `d` is the symbol's offset, `k` counts from the first bit. -/
def ksSoft (sf d noise : Nat) (powers : List Nat) (k : Nat) : Int :=
  let n := 2 ^ sf
  let best := fun (b : Bool) => powers.zipIdx.foldl (fun v p =>
    if bitOf ((p.2 + n - d % n) % n) (sf - 1 - k) == b then max v p.1 else v) 0
  65536 * ((best false : Int) - best true) / (max 1 noise : Nat)

/-- R291: the soft values of successive data symbols, `state` the offset sequence's state before the first. -/
def ksSofts (sf noise : Nat) : Nat → List (List Nat) → List Int
  | _, [] => []
  | state, p :: ps =>
    let d := ksDither sf state 0
    (List.range sf).map (ksSoft sf d.1 noise p) ++ ksSofts sf noise d.2 ps

/-- R291: the state of the offset sequence before data symbol `t`. -/
def ksStateAt (sf id : Nat) : Nat → Nat
  | 0 => 0x100000 + id
  | t + 1 => (ksDither sf (ksStateAt sf id t) 0).2

/-- R290, R291: the information bits of successive blocks of `k` bits in all, decoded from their soft values. -/
def ksInfo : Nat → Nat → List Int → List Bool
  | 0, _, _ => []
  | n + 1, k, soft =>
    if k = 0 then []
    else
      let w := min 256 k
      (Config.ksDecode (soft.take (w + 512))).take w ++ ksInfo n (k - w) (soft.drop (w + 512))

/-- R291: the bytes of the blocks that hold `k` information bits and begin at coded bit `at_` of a packet (log entry 99). -/
def ksBlockRead (b : KsBlock) (sf id at_ k : Nat) : List Byte :=
  match b with
  | .bytes bs => bs
  | .spectra noise powers =>
    let soft := (ksSofts sf noise (ksStateAt sf id (at_ / sf)) powers).drop (at_ % sf)
    (chunkBits (k / 8) 8 (ksInfo (divUp k 256) k soft)).map fun w => BitVec.ofNat 8 (natOfBits w)

/-- R285, R287: the length of a packet in units of 2.5 ns: 15 symbols and its data symbols, of 2^SF units each. -/
def ksUnits (sf len : Nat) : Nat := (15 + divUp (ksCodedLen len) sf) * 2 ^ sf

/-- PLU cycles of a number of units of 2.5 ns. -/
def ksCycles (units : Nat) : Nat := divUp (units * 25) 16

end Sys2Proof.Machine
end

