-- ==== Sys2Proof/Machine/Txd.lean ====
section
/-!
DEFINITION. The states of the transmit DSP (R102), Keystone injection (R113), and the transmit chain from the symbols of a
line frame to the codes of the DAC channels (R100, R109 to R113).  The start of a line frame stands in TxLf.lean.
-/

namespace Sys2Proof.Machine

def State.txdState (s : State) (n : Lane) : Nat := s.get (fTXD_STATE_STATE n)

/-- R113, R295: KS_ON: the waveform is injected. -/
def State.showKsOn (s : State) (n : Lane) : State :=
  let on := s.txdState n != 0 && s.is (fTXD_KS_EN n) && (s.txFmt n).family == 0
  let s := s.setB (fTXD_STATE_KS_ON n) on
  if on then s else s.ksDrop n

/-- R102: TXD enters a state.  R130, R146: an entry to `SENDING` resets the outer encoder and the MFAS. -/
def State.txdEnter (s : State) (n : Lane) (st : Nat) : State :=
  let fresh := st == 2 && s.txdState n != 2
  let s := s.set (fTXD_STATE_STATE n) st
  let s := if fresh then s.modTx n fun t => { t with mfas := 0, outer := {}, bip := {} } else s
  s.showKsOn n

/-- R102: what EN and MODE ask for at once; the other changes wait for an LF start. -/
def State.txdNow (s : State) (n : Lane) : State :=
  if !s.is (fTXD_CTRL_EN n) then s.txdEnter n 0
  else if s.txdState n = 0 && !s.is (fTXD_CTRL_MODE n) then s.txdEnter n 1
  else s

/-- R102: what EN and MODE ask for at an LF start. -/
def State.txdAtStart (s : State) (n : Lane) : State :=
  if !s.is (fTXD_CTRL_EN n) then s
  else if s.is (fTXD_CTRL_MODE n) then (if s.txdState n = 2 then s else s.txdEnter n 2)
  else if s.txdState n = 2 then s.txdEnter n 1 else s

def execTxdEnWrite (n : Lane) (v : Bool) (s : State) : Ans :=
  .next (s.hostWrite (aTXD_CTRL n) fun s => (s.setB (fTXD_CTRL_EN n) v).txdNow n)

def execTxdModeWrite (n : Lane) (v : Bool) (s : State) : Ans :=
  .next (s.hostWrite (aTXD_CTRL n) fun s => (s.setB (fTXD_CTRL_MODE n) v).txdNow n)

/-- R113: a Keystone group has not arrived in time: zero is injected for it. -/
def execKsGroupMissed (n : Lane) (s : State) : Ans :=
  if s.laneUp n && s.is (fTXD_STATE_KS_ON n) then
    .next ((s.modTx n fun t => { t with ksMissed := true }).raise (fTXD_ALARM_KS_LOST n))
  else .next s

/-! ### The transmit chain (R100): samples in units of 2^-16 code -/

/-- Four channels of zeros. -/
def silence : List (List Int) := List.replicate 4 (List.replicate 256 0)

/-- Samples of two signals added. -/
def addSamples (a b : List (List Int)) : List (List Int) := List.zipWith (List.zipWith (· + ·)) a b

/-- R109, R118, R505: the pulse-shaped signal of a group whose sample 0 lies `at_` fs after the start of the LF in progress, with
the tails of the LF before it, which go on where nothing follows it. -/
def TxState.pulses (t : TxState) (at_ : Nat) : List (List Int) :=
  let now := match t.signal with
    | some x => x.group at_
    | none => silence
  match t.signalBefore with
  | some (y, len) => addSamples now (y.group (len + at_))
  | none => now

/-- R113: 10^(−LEVEL ÷ 40) × √2 in units of 2^-16: the amplitude, at RMS 1 of each of the four channels, of a waveform of
power 1 added to both polarisations whose power is −LEVEL ÷ 2 dB of theirs, and `dev` × 0.01 dB off, within ±0.5 dB. -/
def ksGain (level : Nat) (dev : Int) : Nat :=
  let root2 := 92682
  let tenths := (50 * (level : Int) - clampI (-50) 50 dev).toNat
  root2 * 2 ^ 180 / fixExp (ln10 * tenths / 2000) 100 0 (2 ^ 180) 0

/-- R110: RMS as it acts, in 1/16 code. -/
def State.txRms (s : State) (n : Lane) : Nat := clampN 256 1024 (s.get (fTXD_LEVEL_RMS n))

/-- R113, R285: KSC's waveform over a group whose sample 0 lies `at_` fs after the start of the LF in progress, of power 1 in
units of 2^-16: that of the packet in transmission, zero between packets. -/
def State.ksWave (s : State) (n : Lane) (at_ : Nat) : List (Int × Int) :=
  match (s.lane n).ksc.sending with
  | none => List.replicate 256 (0, 0)
  | some p =>
    let ofs : Int := (((s.lane n).tx.lfStart + at_ : Nat) : Int) - (1600000 * p.start : Nat)
    (List.range 256).map fun (j : Nat) => chirpSample p.sf p.symbols (Config.ksPhase p.start % 65536) (9 * ofs / 25000 + (j : Int))

/-- R102, R113: the Keystone waveform of a group on the four channels, its level `dev` × 0.01 dB off the nominal one. -/
def State.ksSamples (s : State) (n : Lane) (at_ : Nat) (dev : Int) : List (List Int) :=
  if !s.is (fTXD_STATE_KS_ON n) || (s.lane n).tx.ksMissed then silence
  else
    let ks := s.ksWave n at_
    let g : Int := ((ksGain (clampN 36 60 (s.get (fTXD_KS_LEVEL n))) dev * s.txRms n : Nat) : Int)
    let re := ks.map fun w => divNear (g * w.1) (16 * 65536)
    let im := ks.map fun w => divNear (g * w.2) (16 * 65536)
    [re, im, re, im]

/-- R111: the host table's boost at a frequency in MHz, in units of 0.02 dB ÷ 5,625: linear between points, held above the
last. -/
def State.hostBoost (s : State) (n : Lane) (mhz : Nat) : Int :=
  let p := fun i => min 600 (s.nat (aTXD_PREEMP n (min 31 i)))
  let i := mhz / 5625
  let r := mhz % 5625
  ((p i * (5625 - r) + p (i + 1) * r : Nat) : Int)

/-- The values in force of an item of R355 for a lane. -/
def State.calItem (s : State) (n : Lane) (item : Nat) : List (Int × Nat) :=
  (assocGet (s.calForce n) (item + 8 * (n.val % 2))).getD []

/-- R111: the combined boost, held at 15 dB. -/
def State.boostAt (s : State) (n : Lane) (mhz : Nat) : Int :=
  let cal := if s.is (fTXD_PREEMP_CTRL_CAL_EN n) then Config.dacBoost (s.calItem n 1) mhz else 0
  let host := if s.is (fTXD_PREEMP_CTRL_HOST_EN n) then s.hostBoost n mhz else 0
  min (750 * 5625) (cal + host)

/-- R112: value `k` of item TXIQ in force: in their order the skew, gain and phase of X, those of Y, and the XY skew, each in
the step of its trim (DESIGN CHOICE, log entry 79). -/
def State.txCal (s : State) (n : Lane) (k : Nat) : Int :=
  let v := (s.calItem n 2).getD k (0, 1)
  divNear v.1 v.2

/-- R112: trims and calibrated values added, IQ skew within ±12 ps and XY skew within ±60 ps. -/
def State.iqSum (s : State) (n : Lane) (k : Nat) (skew gain phase : Fld) : Int × Int × Int :=
  (clampI (-1200) 1200 (clampI (-1000) 1000 (s.getI skew) + s.txCal n k),
   clampI (-100) 100 (s.getI gain) + s.txCal n (k + 1), clampI (-100) 100 (s.getI phase) + s.txCal n (k + 2))

def State.xySum (s : State) (n : Lane) : Int :=
  clampI (-600) 600 (clampI (-500) 500 (toSigned 16 (s.nat (aTXD_XY_SKEW n) % 65536)) + s.txCal n 6)

/-- R101, R505: TXD_LEVEL enters stage 3 at a group boundary `at_` fs after the start of the LF in progress: the symbols that pass
it from then on carry it. -/
def State.levelEnters (s : State) (n : Lane) (at_ : Nat) : State :=
  s.modTx n fun t => { t with signal := t.signal.map fun x =>
    if (x.levels.head?.map (·.2)) = some (s.txRms n) then x else { x with levels := (at_, s.txRms n) :: x.levels } }

/-- R100, R102: stages 3 to 6: the signal of `SENDING`, with its tails after it, and the Keystone waveform. -/
def State.txSignal (s : State) (n : Lane) (at_ : Nat) (ks : Int) : List (List Int) :=
  let main := if s.txdState n = 0 then silence else (s.lane n).tx.pulses at_
  addSamples main (s.ksSamples n at_ ks)

/-- R100, R102: the samples of a group after stage 8; 0 in `DISABLED`, and where nothing has entered the chain, as in `KS_ONLY`
without Keystone. -/
def State.txSamples (s : State) (n : Lane) (signal : List (List Int)) : List (List Int) :=
  let tail := (s.lane n).tx.last
  if s.txdState n = 0 || (signal == silence && (tail.isEmpty || tail == silence)) then silence
  else Config.precompensate (s.boostAt n)
    (s.iqSum n 0 (fTXD_IQ_X_SKEW n) (fTXD_IQ_X_GAIN n) (fTXD_IQ_X_PHASE n))
    (s.iqSum n 3 (fTXD_IQ_Y_SKEW n) (fTXD_IQ_Y_GAIN n) (fTXD_IQ_Y_PHASE n)) (s.xySum n) (s.lane n).tx.last signal

/-- R110: a sample as a code, before saturation. -/
def dacCode (x : Int) : Int := divNear x 65536

/-- R110: the samples beyond −128 or +127. -/
def clippedIn (xs : List (List Int)) : Nat :=
  (xs.map fun c => (c.filter fun x => dacCode x < -128 || 127 < dacCode x).length).foldl (· + ·) 0

/-- R100, R110: the saturated codes. -/
def dacCodes (xs : List (List Int)) : List (List Byte) :=
  xs.map fun c => c.map fun x => BitVec.ofInt 8 (clampI (-128) 127 (dacCode x))

/-- R53, R100, R110: an LTXn group boundary: a pending mute or state change takes effect on all four channels; the group,
whose sample 0 lies `at_` fs after the start of the LF in progress, carries the codes of the transmit chain; the Keystone level is
`ks` × 0.01 dB off the nominal one (R113).  DESIGN CHOICE (log entry 77): a capture of the DAC codes records the codes that TXD
supplies, also while the side is muted or not in `RUNNING`. -/
def execDacGroup (n : Lane) (at_ : Nat) (ks : Int) (s : State) : Ans :=
  if !s.laneUp n then .next s
  else
    let s := s.levelEnters n at_
    let signal := s.txSignal n at_ ks
    let xs := s.txSamples n signal
    let s := s.modTx n fun t => { t with ksMissed := false, last := signal }
    let s := if clippedIn xs = 0 then s else (s.addCnt (aTXD_CLIP_CNT n) (clippedIn xs)).raise (fTXD_ALARM_CLIP n)
    let on := s.convState n .dac = 2 && !s.is (fCONV_CTRL_DAC_MUTE n) && !s.safe n
    let s := s.modConv n fun c => { c with driven := on }
    .next (s.capGroup n { vld := false, ovr := [], data := dacCodes xs, tb0 := s.tb0 } true)

end Sys2Proof.Machine
end

