-- ==== Sys2Proof/Machine/Ksc.lean ====
section
/-!
DEFINITION. The Keystone supervisory channel (12_keystone_channel.md).  What the receiver finds in the band (channels,
bins, SNR, offsets, decoded bytes) is an operand (log entry 3).
-/

namespace Sys2Proof.Machine

/-- A wide counter of R308 by its place. -/
def State.kscCount (s : State) (n : Lane) (j : Nat) : State := s.addCnt (aKSC_CNT n j) 1

/-! ### States (R300) -/

/-- R93, R300: the state of KSC follows its conditions, and the wait of RXD the state of KSC. -/
def State.kscJudge (s : State) (n : Lane) : State := (s.kscFollow n).ksWaitRefresh n

def execKscEnWrite (n : Lane) (v : Bool) (s : State) : Ans :=
  .next (s.hostWrite (aKSC_CTRL n) fun s => (s.setB (fKSC_CTRL_EN n) v).kscJudge n)

/-- R300: no packet accepted for FAR_TIMEOUT. -/
def execKsFarTimeout (n : Lane) (s : State) : Ans :=
  if s.kscState n = 2 then
    let s := s.waitClk ((s.ksc n).lastOk + cyclesMs * clampN 10 10000 (s.get (fKSC_TIMING_FAR_TIMEOUT n)))
    .next ((s.set (fKSC_STATE_STATE n) 1).raise (fKSC_ALARM_LINK_LOST n))
  else .next s

/-! ### Transmitter (R294 to R296, R302, R304, R305) -/

/-- A packet queued; with nothing injected it is discarded at once (R295). -/
def State.ksQueue (s : State) (n : Lane) (type : Nat) (payload : List Byte) : State :=
  let s := s.modKsc n fun k => { k with queue := k.queue ++ [{ type := type, payload := payload, at_ := s.clk }] }
  if s.is (fTXD_STATE_KS_ON n) && s.kscState n ≠ 0 then s else s.ksDrop n

/-- R293: the beacon of now. -/
def State.beacon (s : State) (n : Lane) : List Byte :=
  natBytes 4 (s.nat (aTXD_FMT n)) ++ natBytes 4 (s.nat (aTXD_RATE n)) ++ natBytes 1 (s.get (fTXD_PULSE_ROLLOFF n))
    ++ natBytes 1 (s.txdState n + 4 * b2n (s.is (fRXD_MET_VALID_CD n)) + 8 * b2n (s.kscState n == 2))
    ++ natBytes 4 (s.nat (aRXD_CD_EST n)) ++ natBytes 4 (s.nat (aKSC_FO_EST n)) ++ natBytes 4 (s.nat (aTXD_COURSE n))
    ++ natBytes 2 0

/-- R296: BEACON_MS has passed since the start of the previous beacon; a waiting one is replaced. -/
def execBeaconDue (n : Lane) (s : State) : Ans :=
  if s.kscState n = 0 || !s.is (fKSC_CTRL_BEACON_EN n) then .next s
  else
    let s := match (s.ksc n).lastBeacon with
      | some c => s.waitClk (c + cyclesMs * max 1 (s.get (fKSC_TIMING_BEACON_MS n)))
      | none => s
    let s := s.modKsc n fun k => { k with queue := k.queue.filter fun p => p.type != 0 }
    .next (s.ksQueue n 0 (s.beacon n))

/-- R302: a request falls due. -/
def execRangeReqDue (n : Lane) (s : State) : Ans :=
  if s.kscState n ≠ 2 || !s.is (fKSC_CTRL_RANGE_EN n) then .next s
  else
    let s := match (s.ksc n).lastReq with
      | some c => s.waitClk (c + cyclesMs * clampN 100 10000 (s.get (fKSC_RANGE_MS_MS n)))
      | none => s
    let id := (s.ksc n).reqId
    let s := s.modKsc n fun k => { k with reqId := (id + 1) % 65536, lastReq := some s.clk }
    .next (s.ksQueue n 2 (natBytes 2 id ++ natBytes 2 0))

/-- R294: the order of the types: RANGE_RESP, COURSE, RANGE_REQ, BEACON, MGMT. -/
def ksRank (type : Nat) : Nat := if type = 3 then 0 else if type = 4 then 1 else if type = 2 then 2 else if type = 0 then 3 else 4

/-- The waiting packet that comes first. -/
def ksFirst (q : List KsPacket) : Option KsPacket :=
  q.foldl (fun b p => match b with
    | none => some p
    | some x => if ksRank p.type < ksRank x.type then some p else some x) none

/-- R285 to R291: a packet starts now. -/
def State.ksStart (s : State) (n : Lane) (p : KsPacket) : State :=
  let sf := clampN 10 16 (s.get (fKSC_CFG_TX_SF n))
  let h := ksHeader p.type n s.tb0Locked (s.ksc n).seq p.payload.length s.nodeId
  let symbols := ksSymbols sf (s.nat (aKSC_NETID n) % 4096) h p.payload
  let s := s.emit (.ks n sf symbols)
  let units := ksUnits sf p.payload.length
  let s := s.modKsc n fun k => { k with
    seq := (k.seq + 1) % 32
    sending := some { type := p.type, start := s.clk, end_ := s.clk + ksCycles units, sf := sf, symbols := symbols }
    lastBeacon := if p.type = 0 then some s.clk else k.lastBeacon
    reqs := if p.type = 2 then
        k.reqs ++ [(fieldBytes p.payload 0 2, s.stamp 0 0 + 163840 * (12 * 2 ^ sf), s.clk)] else k.reqs }
  (s.setB (fKSC_STATE_TX_BUSY n) true).set (fKSC_STATE_TX_TYPE n) p.type

/-- R302: the start of the pending response, ns of TB0. -/
def State.respStart (s : State) (n : Lane) : Option Nat :=
  ((s.ksc n).resp).map fun r => r.2.2 - 12 * 2 ^ clampN 10 16 (s.get (fKSC_CFG_TX_SF n)) * 5 / 2

/-- R294, R304: the transmitter is free and the first waiting packet starts, a `MGMT` packet only while Keystone holds the egress; a
response starts at its own time, and no packet starts that would still be sent then. -/
def execKsTxStart (n : Lane) (s : State) : Ans :=
  if s.kscState n = 0 || !s.is (fTXD_STATE_KS_ON n) || (s.ksc n).sending.isSome || s.safe n then .next s
  else
    let sf := clampN 10 16 (s.get (fKSC_CFG_TX_SF n))
    let first := ksFirst ((s.ksc n).queue.filter fun p => p.type != 1 || s.ksEgress n)
    let respond := fun (r : Nat × Nat × Nat) (at_ : Nat) =>
      let s := s.waitTb 0 at_
      let s := s.modKsc n fun k => { k with resp := none }
      s.ksStart n { type := 3, at_ := s.clk
                    payload := natBytes 2 r.1 ++ natBytes 2 0 ++ stampBytes r.2.1 ++ stampBytes (65536 * r.2.2) }
    let send := fun (p : KsPacket) =>
      (s.modKsc n fun k => { k with queue := k.queue.erase p }).ksStart n p
    match (s.ksc n).resp, s.respStart n, first with
    | some r, some at_, some p =>
      if s.tb0 + ksUnits sf p.payload.length * 5 / 2 < at_ then .next (send p) else .next (respond r at_)
    | some r, some at_, none => .next (respond r at_)
    | _, _, some p => .next (send p)
    | _, _, none => .next s

/-- R293, R305: a `COURSE` packet of a state for an armed Course. -/
def State.coursePacket (s : State) (n : Lane) (a : Armed) (state : Nat) : List Byte :=
  let touches := a.writes.any fun w => w.items.any fun i =>
    i.1 = aTXD_FMT n || i.1 = aTXD_RATE n || i.1 = aTXD_PULSE n
  natBytes 4 a.number ++ natBytes 6 (a.record.time / 1000000000) ++ natBytes 4 (a.record.time % 1000000000) ++ natBytes 1 state
    ++ natBytes 1 (b2n touches) ++ natBytes 4 (afterCourse a s (aTXD_FMT n)) ++ natBytes 4 (afterCourse a s (aTXD_RATE n))
    ++ natBytes 1 (afterCourse a s (aTXD_PULSE n) % 32) ++ natBytes 3 0

/-- R305: a `COURSE` packet queued for an `AT_TIME` Course with transmit items on the lane. -/
def State.ksCourse (s : State) (n : Lane) (a : Armed) (state : Nat) : State :=
  if a.atTime && s.is (fKSC_CTRL_COURSE_EN n) && bitOf a.record.txMask n && s.kscState n ≠ 0 then
    s.ksQueue n 4 (s.coursePacket n a state)
  else s

/-- R294, R305: the packet in transmission ends. -/
def execKsTxEnd (n : Lane) (s : State) : Ans :=
  match (s.ksc n).sending with
  | none => .next s
  | some p =>
    let s := s.waitClk p.end_
    let s := (s.modKsc n fun k => { k with sending := none }).kscCount n 0
    let s := if p.type = 1 then s.kscCount n 9 else s
    let s := ((s.setB (fKSC_STATE_TX_BUSY n) false).set (fKSC_STATE_TX_TYPE n) 0).showEgress n
    .next (match p.type, s.crs.armed with
      | 0, some a => if s.tb0 < a.time then s.ksCourse n a 1 else s
      | _, _ => s)

/-- R304: the in-band channel holds the lane's management egress. -/
def State.mccHolds (s : State) (n : Lane) : Bool :=
  s.is (fLFR_CTRL_MCC_EN n) && s.get (fLFR_STATE_ALIGN n) == 2 && s.is (fLFR_STATE_MF_LOCK n)

/-- R304: a management packet for the tunnel, refused while the in-band channel holds the egress. -/
def State.ksMgmt (s : State) (n : Lane) (bytes : List Byte) : State :=
  if !s.laneUp n || s.held 11 then s
  else if 1024 < bytes.length then s.kscCount n 11
  else if (if (s.ksc n).sending.isSome then s.is (fKSC_STATE_EGRESS n) else s.ksEgress n) then
    (if bytes.isEmpty then s else s.ksQueue n 1 bytes)
  else if s.is (fKSC_CTRL_MGMT_EN n) || s.mccHolds n then (s.kscCount n 11).raise (fKSC_ALARM_RES_BUSY n)
  else s

def execKsMgmtQueue (n : Lane) (bytes : List Byte) (s : State) : Ans := .next (s.ksMgmt n bytes)

/-- R295: the oldest `MGMT` packet has waited 100 ms. -/
def execKsMgmtTimeout (n : Lane) (s : State) : Ans :=
  match (s.ksc n).queue.find? fun p => p.type == 1 with
  | none => .next s
  | some p =>
    let s := s.waitClk (100 * cyclesMs + p.at_)
    .next (((s.modKsc n fun k => { k with queue := k.queue.erase p }).kscCount n 1).raise (fKSC_ALARM_TX_DROP n))

/-! ### Receiver (R297 to R299) -/

/-- R299: the reception ends or aborts: a candidate becomes the current one. -/
def State.rxEnd (s : State) (n : Lane) : State :=
  (s.modKsc n fun k => { k with rx := k.cand, cand := none }).showRx n

/-- R299: an entry of the log. -/
def State.kscLog (s : State) (n : Lane) (event : Nat) (chan snr : Int) : State :=
  let e := (s.ksc n).logNext
  let t := s.tb0
  let bs := natBytes 6 (t / 1000000000) ++ natBytes 4 (t % 1000000000) ++ natBytes 1 event
    ++ natBytes 1 (ofSigned 8 chan) ++ natBytes 2 (ofSigned 16 snr) ++ natBytes 2 0
  let s := (List.range 4).foldl (fun s i => s.setReg (aKSC_LOG n e i) (byteAreaWord bs i)) s
  s.modKsc n fun k => { k with logNext := (e + 1) % 32 }

/-- R297: the bin of a detection, as given or from its windows (log entry 99); none where the windows do not meet the
criterion. -/
def State.ksBin (s : State) (n : Lane) : KsPeak → Option Nat
  | .at_ b => some b
  | .windows ps => ksDetect (clampN 8 20 (s.get (fKSC_CFG_DET_THR n))) ps

/-- R297, R299: a detection in a channel at a bin, its SNR in 0.01 dB. -/
def execKsDetection (n : Lane) (chan : Int) (bin : KsPeak) (snr : Int) (s : State) : Ans :=
  match s.ksBin n bin with
  | none => .next s
  | some bin =>
  if s.kscState n = 0 || 63 < chan.natAbs then .next s
  else
    let new : KsReception := { chan := chan, bin := bin, snr := snr, phase := 1, fo := 0, stamp := 0, header := [] }
    let det := s.kscCount n 3
    match (s.ksc n).rx with
    | none => .next ((det.modKsc n fun k => { k with rx := some new }).showRx n)
    | some r =>
      let own := fun (x : KsReception) => x.chan == chan && decide (((x.bin : Int) - bin).natAbs ≤ 2)
      if own r || (s.ksc n).cand.any own then .next s
      else
        let strong := r.phase ≠ 4 || r.snr + clampN 3 12 (s.get (fKSC_CFG_CAPTURE n)) * 100 ≤ snr
        let better := match (s.ksc n).cand with
          | some c => c.snr < snr
          | none => true
        if strong && better then .next ((det.modKsc n fun k => { k with cand := some new }).showRx n)
        else .next (s.kscCount n 8)

/-- The reception or the candidate. -/
def State.ksWhich (s : State) (n : Lane) (cand : Bool) : Option KsReception :=
  if cand then (s.ksc n).cand else (s.ksc n).rx

/-- Its change. -/
def State.ksPut (s : State) (n : Lane) (cand : Bool) (r : KsReception) : State :=
  (s.modKsc n fun k => if cand then { k with cand := some r } else { k with rx := some r }).showRx n

/-- It is given up. -/
def State.ksGiveUp (s : State) (n : Lane) (cand : Bool) : State :=
  if cand then (s.modKsc n fun k => { k with cand := none }).showRx n else s.rxEnd n

/-- R298: the preamble of the reception or of the candidate ends, or it does not within 6 windows. -/
def execKsPreambleEnd (n : Lane) (cand found : Bool) (s : State) : Ans :=
  match s.ksWhich n cand with
  | some r => if r.phase = 1 then .next (if found then s.ksPut n cand { r with phase := 2 } else s.ksGiveUp n cand) else .next s
  | none => .next s

/-- R298: a shift as expected within ±2^(SF − 8) bins. -/
def nearShift (sf a b : Nat) : Bool :=
  let d := (a + 2 ^ sf - b % 2 ^ sf) % 2 ^ sf
  d ≤ 2 ^ (sf - 8) || 2 ^ sf - d ≤ 2 ^ (sf - 8)

/-- R298, R299: the sync and down-chirp windows end with two shifts, an offset in kHz, and the timing point `delay` ps
ago at the ADC lands; a candidate whose sync verifies preempts. -/
def execKsSyncEnd (n : Lane) (cand : Bool) (shift1 shift2 : Nat) (fo : Int) (delay : Nat) (s : State) : Ans :=
  match s.ksWhich n cand with
  | none => .next s
  | some r =>
    if r.phase ≠ 2 then .next s
    else
      let sf := clampN 10 16 (s.get (fKSC_CFG_RX_SF n))
      let want := ksSync sf (s.nat (aKSC_NETID n) % 4096)
      if nearShift sf shift1 want.1 && nearShift sf shift2 want.2 then
        let r := { r with phase := 3, fo := fo, stamp := s.stamp 0 0 - 65536 * delay / 1000 }
        if !cand then .next (s.ksPut n false r)
        else match (s.ksc n).rx with
          | none => .next ((s.modKsc n fun k => { k with rx := some r, cand := none }).showRx n)
          | some old =>
            let s := ((s.kscCount n 7).raise (fKSC_ALARM_PREEMPT n)).kscLog n (if old.phase = 4 then 2 else 1) r.chan (r.snr - old.snr)
            .next ((s.modKsc n fun k => { k with rx := some r, cand := none }).showRx n)
      else .next ((s.kscCount n 4).ksGiveUp n cand)

/-- R306: MATCH against the local armed Course. -/
def State.crsMatch (s : State) (number time state : Nat) : Nat :=
  if state ≠ 1 then 0
  else match s.crs.armed with
    | some a => if a.number = number then (if a.atTime && a.record.time = time then 1 else 2) else 3
    | none => 3

/-- R306: MATCH of the stored packet judged anew, when the local armed Course changes. -/
def State.crsRematch (s : State) (n : Lane) : State :=
  if s.get (fKSC_FCRS_INFO_STATE n) = 1 then
    let m := s.crsMatch (s.nat (aKSC_FCRS_NUM n)) (s.time80 (aKSC_FCRS_T n)) 1
    (s.set (fKSC_FCRS_INFO_MATCH n) m).raiseIf (m == 2 && s.get (fKSC_FCRS_INFO_MATCH n) != 2) (fKSC_ALARM_CRS_DIFF n)
  else s

/-- R94: a format announced by the far end.  DEDUCED (log entry 63): with `FOLLOW` it is in force at once in every state; after
`FREQ_SEARCH` RXD does as at the receive items of a Course (R92). -/
def State.farFormat (s : State) (n : Lane) (f : FarFmt) : State :=
  let cfg : FarFmt := ⟨s.nat (aRXD_RX_FMT n), s.nat (aRXD_RX_RATE n), s.nat (aRXD_RX_PULSE n)⟩
  let ok := (fmtOfWords f.fmt f.rate).ok
  if (s.lane n).rxd.follow then
    if !ok || (s.lane n).rxd.far = some f then s
    else
      let t := (((s.touch n).modRxd n fun r => { r with far := some f }).followTurn s n).ksWaitRefresh n
      if s.rxdState n ≤ 2 || f = s.rxWords n then t else t.rxdCourse s n
  else
    let s := if ok then s.modRxd n fun r => { r with far := some f } else s
    s.raiseIf (f != cfg) (fRXD_ALARM_FMT_MISMATCH n)

/-- R301: the first packet accepted since RXD entered `FREQ_SEARCH`: the LO step, and the coarse step of RXD ends. -/
def State.ksAssist (s : State) (n : Lane) (fo : Int) : State :=
  let r := (s.lane n).rxd
  if s.rxdState n ≠ 2 || r.coarseDone || !s.assistInUse n then s
  else
    let v := divNear fo 1000
    let s := if s.loOwnerNow n = 1 && v ≠ 0 then (s.loDelta n 1 v).setB (fKSC_STATE_LO_SENT n) true else s
    let s := s.setB (fRXD_STATE_ASSISTED n) true
    if s.loOwnerNow n = 0 && 2500000 < fo.natAbs then s.raise (fRXD_ALARM_FO_RANGE n)
    else s.modRxd n fun r => { r with coarseDone := true, ksWaiting := false, fineAt := s.clk }

/-- R292, R293, R301 to R306: the content of an accepted packet. -/
def State.ksContent (s : State) (n : Lane) (r : KsReception) (p : List Byte) : State :=
  let type := fieldBytes r.header 0 1 / 16
  let ver := fieldBytes r.header 0 1 % 16
  let locked := bitOf (fieldBytes r.header 1 1) 4
  let f := fun i k => fieldBytes p i k
  if ver ≠ 1 then s
  else if type = 0 && p.length = 24 then
    let misc := f 8 1 % 32 + f 9 1 % 4 * 256 + 1024 * (f 9 1 / 4 % 4)
    let s := (s.setNat (aKSC_FAR_FMT n) (f 0 4)).setNat (aKSC_FAR_RATE n) (f 4 4)
    let s := (s.setNat (aKSC_FAR_MISC n) misc).setNat (aKSC_FAR_CD n) (f 10 4)
    let s := (s.setNat (aKSC_FAR_FO_SEEN n) (f 14 4)).setNat (aKSC_FAR_COURSE n) (f 18 4)
    let s := if bitOf (f 9 1) 2 && s.assistInUse n then
        s.modRxd n fun x => { x with ksHint := some (toSigned 32 (f 10 4)) } else s
    s.farFormat n ⟨f 0 4, f 4 4, f 8 1 % 32⟩
  else if type = 1 && 1 ≤ p.length && p.length ≤ 1024 then
    if s.is (fKSC_CTRL_MGMT_EN n) then (s.emit (.mgmt n p)).kscCount n 10 else s
  else if type = 2 && p.length = 4 then
    let sf := clampN 10 16 (s.get (fKSC_CFG_RX_SF n))
    let tsf := clampN 10 16 (s.get (fKSC_CFG_TX_SF n))
    let last := r.stamp + 163840 * ((3 + divUp (ksCodedLen 4) sf) * 2 ^ sf)
    let lead := 163840 * (12 * 2 ^ tsf)
    let busy := match (s.ksc n).sending with
      | some x => 65536 * ((s.tbx 0).acc + (x.end_ - s.clk) * (s.tbx 0).step) / unitsPerNs
      | none => 0
    let t3 := divUp (max (200000 * 65536 + last) busy + lead) 65536
    let s := s.modKsc n fun k => { k with resp := some (f 0 2, r.stamp, t3) }
    -- R295: while nothing is injected it is discarded
    if s.is (fTXD_STATE_KS_ON n) then s else s.ksDrop n
  else if type = 3 && p.length = 28 then
    match (s.ksc n).reqs.find? fun q => q.1 == f 0 2 with
    | none => s
    | some (id, t1, _) =>
      let t2 := stampOfBytes (sliceBytes p 4 12)
      let t3 := stampOfBytes (sliceBytes p 16 12)
      let t4 := r.stamp
      let s := (s.modKsc n fun k => { k with reqs := k.reqs.filter fun q => q.1 != id }).kscCount n 12
      let s := [(0, t1), (1, t2), (2, t3), (3, t4)].foldl (fun s x => s.setStamp (aKSC_RNG_TS n x.1) x.2) s
      (s.setNat (aKSC_RNG_ID n) id).rangeResult n t3 t4 t1 t2 locked
  else if type = 4 && p.length = 28 then
    let time := 1000000000 * f 4 6 + f 10 4
    let st := f 14 1 % 4
    let m := s.crsMatch (f 0 4) time st
    let chg := f 15 1 % 2
    let s := (s.setNat (aKSC_FCRS_NUM n) (f 0 4)).setTime80 (aKSC_FCRS_T n) time
    let s := s.setNat (aKSC_FCRS_INFO n) (st + 4 * chg + 16 * m + 256 * (f 24 1 % 32))
    let s := (s.setNat (aKSC_FCRS_FMT n) (f 16 4)).setNat (aKSC_FCRS_RATE n) (f 20 4)
    let s := s.raiseIf (m == 2) (fKSC_ALARM_CRS_DIFF n)
    if (s.lane n).rxd.follow && chg = 1 then
      s.modRxd n fun x => { x with farNext := if st = 1 && (fmtOfWords (f 16 4) (f 20 4)).ok then some (f 0 4, ⟨f 16 4, f 20 4, f 24 1 % 32⟩) else
        (match x.farNext with | some (k, g) => if k = f 0 4 && st = 3 then none else some (k, g) | none => none) }
    else s
  else s

/-- R298, R300: a packet is accepted. -/
def State.ksAccept (s : State) (n : Lane) (r : KsReception) (p : List Byte) : State :=
  let h := r.header
  let s := (s.kscCount n 2).setInt (aKSC_FO_EST n) r.fo
  let s := s.setNat (aKSC_RX_SNR n) (ofSigned 16 r.snr)
  let s := s.setNat (aKSC_FAR_ID n) (fieldBytes h 4 2 % 16384 + 65536 * (fieldBytes h 1 1 / 32) + 1048576 * (fieldBytes h 1 1 / 16 % 2))
  let s := s.modKsc n fun k => { k with lastOk := s.clk }
  let s := if s.kscState n = 1 then s.set (fKSC_STATE_STATE n) 2 else s
  (s.ksAssist n r.fo).ksContent n r p

/-- R291: the bytes of the blocks of a packet in reception that hold `k` information bits and begin at coded bit `at_`. -/
def State.ksRead (s : State) (n : Lane) (b : KsBlock) (at_ k : Nat) : List Byte :=
  ksBlockRead b (clampN 10 16 (s.get (fKSC_CFG_RX_SF n))) (s.nat (aKSC_NETID n) % 4096) at_ k

/-- R298: the header block is decoded. -/
def execKsHeaderDecoded (n : Lane) (header : KsBlock) (s : State) : Ans :=
  match (s.ksc n).rx with
  | none => .next s
  | some r =>
    if r.phase ≠ 3 then .next s
    else
      let h := sliceBytes (s.ksRead n header 0 64) 0 8
      if crc16 (h.take 6) ≠ fieldBytes h 6 2 then
        .next ((((s.kscCount n 5).raise (fKSC_ALARM_HDR_ERR n)).kscLog n 3 r.chan 0).rxEnd n)
      else
        let r := { r with phase := 4, header := h }
        -- R289: a packet with LEN = 0 ends here
        if fieldBytes h 2 2 % 2048 = 0 then .next ((s.rxEnd n).ksAccept n r [])
        else .next (s.ksPut n false r)

/-- R298: the last block is decoded: LEN payload bytes and PCRC. -/
def execKsPayloadDecoded (n : Lane) (bytes : KsBlock) (s : State) : Ans :=
  match (s.ksc n).rx with
  | none => .next s
  | some r =>
    if r.phase ≠ 4 then .next s
    else
      let len := fieldBytes r.header 2 2 % 2048
      let bytes := s.ksRead n bytes 576 (8 * (len + 4))
      let p := sliceBytes bytes 0 len
      let s := s.rxEnd n
      if pcrc p ≠ fieldBytes bytes len 4 then .next ((s.kscCount n 6).raise (fKSC_ALARM_PAY_ERR n))
      else .next (s.ksAccept n r p)

/-- R302: the oldest request without a response for 500 ms. -/
def execRangeTimeout (n : Lane) (s : State) : Ans :=
  match (s.ksc n).reqs with
  | [] => .next s
  | q :: rest =>
    let s := s.waitClk (500 * cyclesMs + q.2.2)
    .next (((s.modKsc n fun k => { k with reqs := rest }).kscCount n 13).raise (fKSC_ALARM_RNG_FAIL n))

/-- R306: a MATCH 3 persists to T − 1 ms. -/
def execCrsDiffTimeout (n : Lane) (s : State) : Ans :=
  let t := s.time80 (aKSC_FCRS_T n)
  if s.kscState n = 0 || s.get (fKSC_FCRS_INFO_MATCH n) ≠ 3 || s.get (fKSC_FCRS_INFO_STATE n) ≠ 1 || t < 1000000 + s.tb0 then
    .next s
  else .next ((s.waitBefore 0 t 1000000).raise (fKSC_ALARM_CRS_DIFF n))

/-- R93, R307: KSC reset, or a lane reset, of one lane: a packet in transmission is truncated; RXD waits no longer. -/
def State.kscReset (s : State) (n : Lane) : State :=
  let cut := (s.ksc n).sending.isSome
  let s := if cut then (s.emit (.ksCut n)).raise (fTXD_ALARM_KS_LOST n) else s
  let base := 0x180000 + laneBase n
  ((((s.resetRange base (0x20000 + base) fun _ => false).modKsc n fun _ => {}).ksWaitRefresh n).showOwner n)

end Sys2Proof.Machine
end

