-- ==== Sys2Proof/Machine/ObjTable.lean ====
section
/-!
DEFINITION. The object dictionary (R390 to R394): every row of the object tables of spec/ (R68, R99, R122, R141, R169,
R189, R208, R234, R254, R284, R309, R332, R354, R372, R389, R417 to R422, R466) with its type, its access code and the
register or field it maps.
-/

namespace Sys2Proof.Machine

/-- R391: the types. -/
inductive ObjTy where
  | bool
  | u (bytes : Nat)
  | i (bytes : Nat)
  | time80
  /-- a byte string of a stated length, or of up to a stated length -/
  | octets (len : Nat)
  | octetsMax (len : Nat)
  | str
deriving DecidableEq, Repr

/-- R392: the access codes. -/
inductive ObjAcc where
  | const | ro | rw | rws | wo | rwl
deriving DecidableEq, Repr

/-- What an object maps.  A field or register's address grows by `di` with the index and by `dj` with the subindex. -/
inductive Place where
  | fld (f : Fld) (di dj : Nat)
  /-- two words, LO and HI -/
  | wide (a di dj : Nat)
  /-- three words of a TIME80 value -/
  | time (a di dj : Nat)
  /-- words in rising order of address, each most significant byte first; and in falling order -/
  | words (a di dj n : Nat)
  | down (a di dj n : Nat)
  /-- a value of its own, with its default -/
  | own (dflt : Nat)
  /-- computed from the state, or acting on more than one register -/
  | calc
deriving DecidableEq, Repr

/-- One row: `n` indexes from `index`, `m` subindexes from `sub`. -/
structure ObjRow where
  index : Nat
  n : Nat
  sub : Nat
  m : Nat
  ty : ObjTy
  acc : ObjAcc
  place : Place
deriving DecidableEq, Repr

/-- A whole register. -/
def wreg (a : Nat) : Fld := ⟨a, 0, 32⟩

/-- A row of one object mapping a field, a register, a wide value. -/
def oF (index sub : Nat) (ty : ObjTy) (acc : ObjAcc) (f : Fld) : ObjRow := ⟨index, 1, sub, 1, ty, acc, .fld f 0 0⟩
def oR (index sub : Nat) (ty : ObjTy) (acc : ObjAcc) (a : Nat) : ObjRow := ⟨index, 1, sub, 1, ty, acc, .fld (wreg a) 0 0⟩
def oW (index sub : Nat) (a : Nat) : ObjRow := ⟨index, 1, sub, 1, .u 8, .ro, .wide a 0 0⟩
/-- A row of `m` subindexes. -/
def oRj (index sub m : Nat) (ty : ObjTy) (acc : ObjAcc) (a dj : Nat) : ObjRow := ⟨index, 1, sub, m, ty, acc, .fld (wreg a) 0 dj⟩
def oWj (index sub m a dj : Nat) : ObjRow := ⟨index, 1, sub, m, .u 8, .ro, .wide a 0 dj⟩
/-- A row of `n` indexes. -/
def oFi (index n sub : Nat) (ty : ObjTy) (acc : ObjAcc) (f : Fld) (di : Nat) : ObjRow := ⟨index, n, sub, 1, ty, acc, .fld f di 0⟩
def oRi (index n sub : Nat) (ty : ObjTy) (acc : ObjAcc) (a di : Nat) : ObjRow := ⟨index, n, sub, 1, ty, acc, .fld (wreg a) di 0⟩
/-- Rows of values of their own and of computed ones. -/
def oOwn (index n sub m : Nat) (ty : ObjTy) (acc : ObjAcc) (dflt : Nat) : ObjRow := ⟨index, n, sub, m, ty, acc, .own dflt⟩
def oCalc (index n sub m : Nat) (ty : ObjTy) (acc : ObjAcc) : ObjRow := ⟨index, n, sub, m, ty, acc, .calc⟩

/-- R68, R99: CONV and RXD, at lane 0. -/
def objsRx : List ObjRow := [
  oF 0x4010 1 (.u 1) .ro (fCONV_STATE_ADC_STATE 0),
  oF 0x4010 2 (.u 1) .ro (fCONV_STATE_DAC_STATE 0),
  oR 0x4010 3 (.u 4) .ro (aCONV_RX_LAT 0),
  oR 0x4010 4 (.u 4) .ro (aCONV_TX_LAT 0),
  oR 0x4010 5 (.i 4) .ro (aCONV_RXSYN_TRIM 0),
  oRj 0x4011 1 16 (.u 4) .rw (aCONV_SPARE 0 0) 4,
  oWj 0x4012 1 4 (aCONV_OVR_CNT 0 0) 8,
  oF 0x4013 1 .bool .rw (fCONV_CTRL_ADC_EN 0),
  oF 0x4013 2 .bool .rw (fCONV_CTRL_DAC_EN 0),
  oF 0x4013 3 .bool .rw (fCONV_CTRL_DAC_MUTE 0),
  oF 0x4020 1 (.u 1) .ro (fRXD_STATE_STATE 0),
  oR 0x4020 2 (.u 4) .ro (aRXD_STATE 0),
  oR 0x4020 3 (.u 4) .ro (aRXD_ALARM 0),
  oF 0x4021 1 .bool .rw (fRXD_CTRL_EN 0),
  oF 0x4021 2 .bool .wo (fRXD_CTRL_ACQ_RESTART 0),
  oF 0x4021 3 .bool .rw (fRXD_CTRL_KS_ASSIST 0),
  oF 0x4021 4 (.u 1) .rw (fRXD_CTRL_FMT_SRC 0),
  oF 0x4021 5 (.u 1) .rw (fRXD_CTRL_LO_MODE 0),
  oF 0x4022 1 (.u 1) .rws (fRXD_SCFG_CD_MODE 0),
  oR 0x4022 2 (.i 4) .rws (aRXD_CD_FIXED 0),
  oR 0x4022 3 (.i 4) .rw (aRXD_CD_HINT 0),
  oF 0x4023 1 (.u 1) .rw (fRXD_EQ_CFG_TAPS 0),
  oF 0x4023 2 (.u 1) .rw (fRXD_EQ_CFG_MU 0),
  oF 0x4023 3 (.u 1) .rw (fRXD_CR_CFG_BW 0),
  oR 0x4023 4 (.u 4) .rw (aRXD_CPR_CFG 0),
  oR 0x4024 1 (.u 4) .rw (aRXD_LO_CFG 0),
  oF 0x4024 2 (.u 2) .rw (fRXD_LO_LIMIT_LIMIT 0),
  oF 0x4024 3 (.u 1) .rw (fRXD_LO_LIMIT_DEADBAND 0),
  oF 0x4024 4 (.i 4) .rw ⟨aRXD_LO_HOST 0, 0, 24⟩,
  oR 0x4024 5 (.i 4) .ro (aRXD_LO_ACC 0),
  oR 0x4025 1 (.u 4) .rw (aRXD_LOS_THR 0),
  oRj 0x4026 1 2 (.i 4) .ro (aRXD_CD_EST 0) 4,
  oRj 0x4026 3 6 (.i 4) .ro (aRXD_OSNR 0) 4] ++ [
  oR 0x4026 9 (.u 1) .ro (aRXD_MET_VALID 0),
  oR 0x4026 10 (.i 4) .ro (aRXD_EQ_DELAY 0),
  oWj 0x4027 1 4 (aRXD_SLIP_CNT 0) 8,
  oR 0x4027 5 (.u 4) .ro (aRXD_ACQ_TIME 0),
  oF 0x4028 1 .bool .rws (fRXD_SCFG_NLC_EN 0),
  oR 0x4028 2 (.u 4) .rws (aRXD_NLC_CFG 0),
  oF 0x4029 1 (.u 1) .rws (fRXD_RX_FMT_FAMILY 0),
  oF 0x4029 2 (.u 1) .rws (fRXD_RX_FMT_QAM 0),
  oF 0x4029 3 (.u 1) .rws (fRXD_RX_FMT_FEC 0),
  oF 0x4029 4 (.u 2) .rws (fRXD_RX_FMT_ENT 0),
  oF 0x4029 5 (.u 2) .rws (fRXD_RX_RATE_RATE 0),
  oF 0x4029 6 (.u 1) .rws (fRXD_RX_RATE_SLOTS 0),
  oF 0x4029 7 (.u 1) .rws (fRXD_RX_PULSE_ROLLOFF 0),
  ⟨0x4100, 40, 1, 1, .u 2, .rws, .fld ⟨aRXD_NLC_SPAN 0 0 0, 0, 16⟩ 0x20 0⟩,
  ⟨0x4100, 40, 2, 1, .i 2, .rws, .fld ⟨aRXD_NLC_SPAN 0 0 1, 0, 16⟩ 0x20 0⟩,
  ⟨0x4100, 40, 3, 1, .u 2, .rws, .fld ⟨aRXD_NLC_SPAN 0 0 2, 0, 16⟩ 0x20 0⟩,
  ⟨0x4100, 40, 4, 1, .i 2, .rws, .fld ⟨aRXD_NLC_SPAN 0 0 3, 0, 16⟩ 0x20 0⟩,
  ⟨0x4100, 40, 5, 1, .u 2, .rws, .fld ⟨aRXD_NLC_SPAN 0 0 4, 0, 16⟩ 0x20 0⟩]

/-- R122, R141, R169: TXD, FEC and LFR, at lane 0. -/
def objsTx : List ObjRow := [
  oF 0x4060 1 (.u 1) .ro (fTXD_STATE_STATE 0),
  oR 0x4060 2 (.u 4) .ro (aTXD_STATE 0),
  oR 0x4060 3 (.u 4) .ro (aTXD_ALARM 0),
  oF 0x4061 1 .bool .rw (fTXD_CTRL_EN 0),
  oF 0x4061 2 (.u 1) .rw (fTXD_CTRL_MODE 0),
  oF 0x4062 1 (.u 1) .rws (fTXD_FMT_FAMILY 0),
  oF 0x4062 2 (.u 1) .rws (fTXD_FMT_QAM 0),
  oF 0x4062 3 (.u 1) .rws (fTXD_FMT_FEC 0),
  oF 0x4062 4 (.u 2) .rws (fTXD_FMT_ENT 0),
  oF 0x4062 5 (.u 2) .rws (fTXD_RATE_RATE 0),
  oF 0x4062 6 (.u 1) .rws (fTXD_RATE_SLOTS 0),
  oF 0x4062 7 (.u 1) .rws (fTXD_PULSE_ROLLOFF 0),
  oF 0x4063 1 (.u 2) .rw (fTXD_LEVEL_RMS 0),
  oF 0x4063 2 .bool .rw (fTXD_KS_EN 0),
  oF 0x4063 3 (.u 1) .rw (fTXD_KS_LEVEL 0),
  oR 0x4063 4 (.u 1) .rw (aTXD_PREEMP_CTRL 0),
  oR 0x4063 5 (.u 4) .rw (aTXD_IQ_X 0),
  oR 0x4063 6 (.u 4) .rw (aTXD_IQ_Y 0),
  oF 0x4063 7 (.i 2) .rw ⟨aTXD_XY_SKEW 0, 0, 16⟩,
  ⟨0x4064, 1, 1, 32, .u 2, .rw, .fld ⟨aTXD_PREEMP 0 0, 0, 10⟩ 0 4⟩,
  oR 0x4065 1 (.u 4) .ro (aTXD_CAP_RATE 0),
  oR 0x4065 2 (.u 4) .ro (aTXD_LF_SYM 0),
  oR 0x4065 3 (.u 4) .ro (aTXD_ESS_BOUND 0),
  oR 0x4065 4 (.u 4) .ro (aTXD_COURSE 0),
  oW 0x4065 5 (aTXD_CLIP_CNT 0),
  oW 0x4065 6 (aTXD_LF_CNT 0),
  oF 0x4070 1 (.u 1) .ro (fFEC_STATE_STATE 0),
  oR 0x4070 2 (.u 4) .ro (aFEC_STATE 0),
  oR 0x4070 3 (.u 4) .ro (aFEC_ALARM 0),
  oF 0x4071 1 .bool .rw (fFEC_CTRL_OUTER_DEC 0),
  oF 0x4071 2 .bool .rw (fFEC_CTRL_EARLY_STOP 0),
  oF 0x4071 3 (.u 1) .rw (fFEC_ITER_ITER_MAX 0)] ++ [
  oF 0x4071 4 (.u 1) .rws (fFEC_OCFG_WIN 0),
  oF 0x4071 5 (.u 1) .rws (fFEC_OCFG_PASSES 0),
  oR 0x4072 1 (.u 4) .ro (aFEC_RX_LAT 0),
  oR 0x4072 2 (.u 4) .ro (aFEC_TX_LAT 0),
  oR 0x4072 3 (.u 2) .ro (aFEC_K 0),
  oR 0x4072 4 (.u 2) .ro (aFEC_OBP 0),
  oR 0x4072 5 (.u 1) .ro (aFEC_ITER_PEAK 0),
  oWj 0x4073 1 10 (aFEC_CNT 0 0) 8,
  oF 0x4080 1 (.u 1) .ro (fLFR_STATE_ALIGN 0),
  oR 0x4080 2 (.u 4) .ro (aLFR_STATE 0),
  oR 0x4080 3 (.u 4) .ro (aLFR_ALARM 0),
  oF 0x4081 1 .bool .rw (fLFR_CTRL_BDI_INH 0),
  oF 0x4081 2 .bool .rw (fLFR_CTRL_AIS_INH 0),
  oF 0x4081 3 .bool .rw (fLFR_CTRL_MCC_EN 0),
  oF 0x4081 4 .bool .rw (fLFR_CTRL_PSF_AUTO 0),
  oF 0x4081 5 (.u 1) .rw (fLFR_ALIGN_CFG_THR 0),
  oF 0x4081 6 (.u 1) .rw (fLFR_SD_CFG_WIN 0),
  oF 0x4081 7 (.u 2) .rw (fLFR_SD_CFG_THR 0),
  oR 0x4082 1 (.u 4) .rw (aLFR_PSF_TX 0),
  oR 0x4082 2 (.u 4) .ro (aLFR_PSF_RX 0),
  oR 0x4082 3 (.u 4) .ro (aLFR_COURSE_RX 0),
  oR 0x4082 4 (.u 4) .ro (aLFR_COURSE_FAR 0),
  oRj 0x4083 1 15 (.u 4) .rw (aLFR_PSF_BR 0 0) 4,
  oWj 0x4084 1 10 (aLFR_CNT 0 0) 8,
  oRj 0x4085 1 128 (.u 4) .ro (aLFR_SLOT 0 0) 4,
  oWj 0x4086 1 128 (aLFR_PBIP 0 0) 16,
  oWj 0x4087 1 128 (aLFR_PBEI 0 0) 16]

/-- R189: PMON, at lane 0. -/
def objsPmon : List ObjRow := [
  oF 0x6000 1 .bool .rw (fPMON_CTRL_EN 0),
  oF 0x6000 2 (.u 1) .rw (fPMON_CFG_SES_PCT 0),
  oF 0x6000 3 .bool .rw (fPMON_CTRL_TRIB_EN 0),
  oF 0x6000 4 .bool .wo (fPMON_CTRL_CLR_CUR 0),
  oR 0x6001 1 (.u 4) .ro (aPMON_STATUS 0),
  oR 0x6001 2 (.u 4) .ro (aPMON_ALARM 0),
  oW 0x6001 3 (aPMON_SECOND 0),
  ⟨0x6001, 1, 4, 1, .octets 16, .ro, .down (aPMON_PATH_UAS 0 0) 0 0 4⟩,
  ⟨0x6001, 1, 5, 1, .octets 16, .ro, .down (aPMON_TRIB_UAS 0 0) 0 0 4⟩,
  oRj 0x6002 1 48 (.u 4) .rw (aPMON_TCA_THR 0 0) 4,
  oRj 0x6003 1 4 (.u 4) .rw (aPMON_TCA_GAUGE 0 0) 4,
  ⟨0x6004, 1, 1, 64, .octets 16, .ro, .words (aPMON_LOG 0 0 0) 0 16 4⟩,
  oCalc 0x6010 1 1 41 (.octets 168) .ro,
  oCalc 0x6020 41 1 128 (.octets 60) .ro,
  oCalc 0x6060 41 1 128 (.octets 60) .ro]

/-- R208, R234: CLI and CIPH. -/
def objsCli : List ObjRow := [
  ⟨0x5800, 256, 1, 1, .u 4, .rws, .fld (wreg (aCLI_FLOW_CFG 0)) 0x20 0⟩,
  ⟨0x5800, 256, 2, 1, .octets 16, .rws, .down (aCLI_FLOW_SLOTS 0 0) 0x20 0 4⟩,
  oRi 0x5800 256 3 (.u 4) .ro (aCLI_FLOW_STATUS 0) 0x20,
  oRi 0x5800 256 4 (.u 4) .ro (aCLI_FLOW_OVF 0) 0x20,
  oF 0x5A00 1 (.u 1) .rw ⟨aCLI_CTRL, 0, 2⟩,
  oF 0x5A00 2 (.u 1) .rws ⟨aCLI_OCTMODE 0, 0, 8⟩,
  oF 0x5A00 3 (.u 1) .rws ⟨aCLI_OCTMODE 1, 0, 8⟩,
  ⟨0x5A01, 1, 1, 16, .u 1, .rw, .fld ⟨aCLI_RCLK_SEL 0, 0, 8⟩ 0 4⟩,
  oR 0x3000 1 (.u 4) .ro aCIPH_STATUS,
  oR 0x3000 2 (.u 4) .ro aCIPH_ALARM,
  oF 0x3000 3 .bool .wo ⟨aCIPH_CTRL, 0, 1⟩,
  oCalc 0x3100 64 1 128 (.u 4) .ro,
  oCalc 0x3200 1 1 1 (.u 2) .rw,
  oCalc 0x3200 1 2 1 (.octets 32) .wo,
  oCalc 0x3200 1 3 1 (.u 2) .wo,
  oCalc 0x3200 1 4 1 (.u 1) .ro,
  oCalc 0x3201 1 1 32 (.u 8) .rwl,
  oCalc 0x3300 1 1 1 (.u 2) .rw,
  oCalc 0x3300 1 2 1 (.u 2) .ro,
  oCalc 0x3300 1 3 1 (.octets 52) .rws,
  oCalc 0x3300 1 4 1 (.octetsMax 16) .wo,
  oCalc 0x3300 1 5 1 (.octets 40) .ro,
  oCalc 0x3500 1 1 1 (.octetsMax 4096) .wo,
  oCalc 0x3500 1 2 1 (.octetsMax 16384) .ro]

/-- R208: ports and FlexE groups, whose indexes are 0x20 and 0x10 apart; each row stands for one port, one group. -/
def objsPort : List ObjRow := [
  oR 0 1 (.u 4) .rws (aCLI_PORT_CFG 0),
  oR 0 2 (.u 4) .ro (aCLI_PORT_STATUS 0),
  oR 0 3 (.u 4) .ro (aCLI_PORT_ALARM 0),
  oWj 1 1 9 (aCLI_PORT_CNT 0 0) 8]
def objsFlexe : List ObjRow := [
  oR 0 1 (.u 4) .rws (aCLI_FX_CFG 0),
  oR 0 2 (.u 4) .ro (aCLI_FX_STATUS 0),
  oCalc 0 1 3 1 (.octets 320) .rws]

/-- R254, R284: PLU and TIME. -/
def objsTime : List ObjRow := [
  oF 0x2000 1 (.u 1) .ro fPLU_STATE_STATE,
  oR 0x2000 2 (.u 4) .ro aPLU_STATE,
  oR 0x2000 3 (.u 4) .ro aPLU_ALARM,
  oF 0x2001 1 .bool .rw fPLU_CTRL_EN,
  oF 0x2001 2 .bool .rw fPLU_CTRL_FORCE_HOLD,
  oF 0x2001 3 .bool .wo fPLU_CTRL_CLR_HIST,
  oF 0x2002 1 (.u 1) .rw fPLU_LOOP_BW,
  oF 0x2002 2 (.u 2) .rw fPLU_LOOP_SLOPE,
  oF 0x2002 3 (.u 2) .rw fPLU_QUAL_QUAL_MS,
  oF 0x2002 4 (.u 1) .rw fPLU_QUAL_FREQ_LIM,
  oF 0x2002 5 (.u 2) .rw fPLU_LOCK_THR,
  oF 0x2002 6 (.u 2) .rw fPLU_LOCK_TIME,
  oF 0x2002 7 (.u 2) .rw fPLU_HOLD_WIN,
  oF 0x2002 8 (.u 1) .rw fPLU_HOLD_GUARD,
  oF 0x2002 9 (.u 2) .rw fPLU_HOLD_LIMIT,
  oF 0x2002 10 (.u 2) .rw ⟨aPLU_ACQ_LIMIT, 0, 16⟩,
  oR 0x2003 1 (.i 4) .rw aPLU_PHASE_STEP,
  oR 0x2003 2 (.i 4) .ro aPLU_PHASE_OFS,
  oR 0x2003 3 (.i 4) .ro aPLU_PHASE_ERR,
  oR 0x2003 4 (.i 4) .ro aPLU_FREQ,
  oR 0x2003 5 (.i 4) .ro aPLU_HOLD_FREQ,
  oR 0x2003 6 (.u 4) .ro aPLU_HOLD_TIME,
  oW 0x2003 7 aPLU_SWITCH_CNT,
  oW 0x2003 8 aPLU_HOLD_CNT,
  oRj 0x2010 1 16 (.u 4) .rws (aPLU_PRIO 0) 4,
  oRj 0x2011 1 32 (.u 4) .ro (aPLU_REF_STATUS 0) (aPLU_REF_STATUS 1 - aPLU_REF_STATUS 0),
  oRj 0x2012 1 32 (.i 4) .ro (aPLU_REF_FREQ 0) (aPLU_REF_FREQ 1 - aPLU_REF_FREQ 0),
  oRj 0x2013 1 4 (.u 1) .rw (aPLU_REFIN_CFG 0) 4,
  oRj 0x2014 1 4 (.u 4) .rw (aPLU_CLKOUT 0) 4] ++ [
  oR 0x2100 1 (.u 4) .ro aTIME_STATUS,
  oR 0x2100 2 (.u 4) .ro aTIME_ALARM,
  oF 0x2100 3 .bool .rw fTIME_CTRL_PTP_EN,
  oF 0x2100 4 .bool .rw fTIME_CTRL_PPS_EN,
  oR 0x2100 5 (.u 4) .rw aTIME_PPS_CFG,
  oR 0x2100 6 (.i 4) .rw aTIME_PPS_OFS,
  oF 0x2100 7 (.i 2) .rw fTIME_UTC_OFS,
  oF 0x2100 8 (.i 2) .rw fTIME_UTC_NEXT,
  oR 0x2100 9 (.u 4) .rw aTIME_UTC_AT,
  ⟨0x2110, 4, 1, 1, .time80, .ro, .time (aTIME_TB_NOW 0) 0x40 0⟩,
  ⟨0x2110, 4, 2, 1, .time80, .wo, .time (aTIME_TB_SET 0) 0x40 0⟩,
  ⟨0x2110, 4, 3, 1, .i 8, .wo, .wide (aTIME_TB_STEP 0) 0x40 0⟩,
  oRi 0x2110 4 4 (.u 4) .rw (aTIME_TB_SERVO 0) 0x40,
  oRi 0x2110 4 5 (.u 4) .rw (aTIME_TB_STEP_THR 0) 0x40,
  oRi 0x2110 4 6 (.u 4) .rw (aTIME_TB_LOCK 0) 0x40,
  oRi 0x2110 4 7 (.i 4) .wo (aTIME_TB_HOST_OFS 0) 0x40,
  oRi 0x2110 4 8 (.i 4) .ro (aTIME_TB_OFFSET 0) 0x40,
  oRi 0x2110 4 9 (.i 4) .ro (aTIME_TB_FREQ 0) 0x40,
  oRi 0x2110 4 10 (.u 4) .ro (aTIME_TB_STEP_CNT 0) 0x40] ++ [
  oFi 0x2120 8 1 (.u 1) .rw ⟨aTIME_LANE_CFG 0, 0, 4⟩ (aTIME_LANE_CFG 1 - aTIME_LANE_CFG 0),
  oRi 0x2120 8 2 (.u 4) .rw (aTIME_LANE_TXF 0) (aTIME_LANE_CFG 1 - aTIME_LANE_CFG 0),
  oRi 0x2120 8 3 (.u 4) .rw (aTIME_LANE_RXF 0) (aTIME_LANE_CFG 1 - aTIME_LANE_CFG 0),
  oRi 0x2120 8 4 (.i 4) .rw (aTIME_LANE_ASYM_FIX 0) (aTIME_LANE_CFG 1 - aTIME_LANE_CFG 0),
  oRi 0x2120 8 5 (.u 1) .ro (aTIME_LANE_STATUS 0) (aTIME_LANE_CFG 1 - aTIME_LANE_CFG 0),
  oRi 0x2120 8 6 (.i 4) .ro (aTIME_LANE_OFFSET 0) (aTIME_LANE_CFG 1 - aTIME_LANE_CFG 0),
  oRi 0x2120 8 7 (.i 4) .ro (aTIME_LANE_ASYM_CD 0) (aTIME_LANE_CFG 1 - aTIME_LANE_CFG 0),
  oRi 0x2120 8 8 (.u 4) .ro (aTIME_LANE_INT_TX 0) (aTIME_LANE_CFG 1 - aTIME_LANE_CFG 0),
  oRi 0x2120 8 9 (.u 4) .ro (aTIME_LANE_INT_RX 0) (aTIME_LANE_CFG 1 - aTIME_LANE_CFG 0),
  oRi 0x2120 8 10 (.u 4) .ro (aTIME_LANE_THRU_RX 0) (aTIME_LANE_CFG 1 - aTIME_LANE_CFG 0),
  ⟨0x2120, 8, 11, 1, .u 8, .ro, .wide (aTIME_LANE_PATH 0) (aTIME_LANE_CFG 1 - aTIME_LANE_CFG 0) 0⟩,
  ⟨0x2120, 8, 12, 1, .u 8, .ro, .wide (aTIME_LANE_KSPATH 0) (aTIME_LANE_CFG 1 - aTIME_LANE_CFG 0) 0⟩,
  oRi 0x2120 8 13 (.i 4) .ro (aTIME_LANE_FAR_CD 0) (aTIME_LANE_CFG 1 - aTIME_LANE_CFG 0),
  oRi 0x2120 8 14 (.u 4) .ro (aTIME_LANE_TTF_ERR 0) (aTIME_LANE_CFG 1 - aTIME_LANE_CFG 0),
  oCalc 0x2130 4 1 1 (.octets 12) .ro,
  oRi 0x2130 4 2 (.i 4) .rw (aTIME_PPSIN_OFS 0) (aTIME_PPSIN_OFS 1 - aTIME_PPSIN_OFS 0),
  oCalc 0x2140 1 1 1 (.octetsMax 2068) .wo,
  oCalc 0x2140 1 2 1 (.octets 16) .ro,
  oOwn 0x2200 1 1 1 (.u 1) .rw 24, oOwn 0x2201 1 1 1 (.u 1) .rw 25, oOwn 0x2202 1 1 1 (.u 1) .rw 26,
  oOwn 0x2200 3 2 1 (.u 1) .rw 1,
  oOwn 0x2200 3 3 2 (.u 1) .rw 128,
  oOwn 0x2200 3 5 1 (.u 1) .ro 248,
  oOwn 0x2200 3 6 1 (.octets 10) .ro 0,
  oOwn 0x2200 3 7 1 (.u 2) .ro 0,
  oOwn 0x2210 64 1 1 .bool .rw 0,
  oOwn 0x2210 64 2 1 (.u 1) .rw 0,
  oOwn 0x2210 64 3 1 (.u 1) .rw 128,
  oOwn 0x2210 64 4 2 .bool .rw 0,
  oOwn 0x2210 64 6 1 (.u 1) .ro 3,
  oOwn 0x2210 64 7 1 (.i 8) .ro 0]

/-- R309: KSC, at lane 0. -/
def objsKsc : List ObjRow := [
  oF 0x7000 1 (.u 1) .ro (fKSC_STATE_STATE 0),
  oR 0x7000 2 (.u 4) .ro (aKSC_STATE 0),
  oR 0x7000 3 (.u 4) .ro (aKSC_ALARM 0),
  oF 0x7001 1 .bool .rw (fKSC_CTRL_EN 0),
  oF 0x7001 2 .bool .rw (fKSC_CTRL_BEACON_EN 0),
  oF 0x7001 3 .bool .rw (fKSC_CTRL_MGMT_EN 0),
  oF 0x7001 4 .bool .rw (fKSC_CTRL_RANGE_EN 0),
  oF 0x7001 5 .bool .rw (fKSC_CTRL_COURSE_EN 0),
  oF 0x7001 6 (.u 1) .rw (fKSC_CFG_TX_SF 0),
  oF 0x7001 7 (.u 1) .rw (fKSC_CFG_RX_SF 0),
  oF 0x7001 8 (.u 1) .rw (fKSC_CFG_CAPTURE 0),
  oF 0x7001 9 (.u 1) .rw (fKSC_CFG_DET_THR 0),
  oF 0x7001 10 (.u 2) .rw (fKSC_NETID_ID 0),
  oF 0x7001 11 (.u 2) .rw (fKSC_TIMING_BEACON_MS 0),
  oF 0x7001 12 (.u 2) .rw (fKSC_TIMING_FAR_TIMEOUT 0),
  oF 0x7001 13 (.u 2) .rw (fKSC_RANGE_MS_MS 0),
  oR 0x7002 1 (.i 4) .ro (aKSC_FO_EST 0),
  oF 0x7002 2 (.i 2) .ro ⟨aKSC_RX_SNR 0, 0, 16⟩,
  oR 0x7002 3 (.u 4) .ro (aKSC_FAR_ID 0),
  oR 0x7002 4 (.u 4) .ro (aKSC_FAR_FMT 0),
  oR 0x7002 5 (.u 4) .ro (aKSC_FAR_RATE 0),
  oR 0x7002 6 (.u 4) .ro (aKSC_FAR_MISC 0),
  oR 0x7002 7 (.i 4) .ro (aKSC_FAR_CD 0),
  oR 0x7002 8 (.i 4) .ro (aKSC_FAR_FO_SEEN 0),
  oR 0x7002 9 (.u 4) .ro (aKSC_FAR_COURSE 0),
  oR 0x7003 1 (.u 4) .ro (aKSC_FCRS_NUM 0),
  ⟨0x7003, 1, 2, 1, .time80, .ro, .time (aKSC_FCRS_T 0) 0 0⟩,
  oR 0x7003 3 (.u 4) .ro (aKSC_FCRS_INFO 0),
  oR 0x7003 4 (.u 4) .ro (aKSC_FCRS_FMT 0),
  oR 0x7003 5 (.u 4) .ro (aKSC_FCRS_RATE 0),
  oWj 0x7004 1 14 (aKSC_CNT 0 0) 8,
  oCalc 0x7005 1 1 1 (.octets 50) .ro,
  ⟨0x7006, 1, 1, 32, .octets 16, .ro, .words (aKSC_LOG 0 0 0) 0 16 4⟩]

/-- R332, R354, R372, R389: CST, HKM, CAL and MEM. -/
def objsCore : List ObjRow := [
  oR 0x8000 1 (.u 4) .ro aCST_STATUS,
  ⟨0x8000, 1, 2, 1, .time80, .ro, .time aCST_TB3_NOW 0 0⟩,
  ⟨0x8000, 1, 3, 1, .i 8, .ro, .wide aCST_TB3_OFS 0 0⟩,
  oR 0x8000 4 (.u 4) .ro aCST_BLOCKS,
  oW 0x8000 5 aCST_NEWEST,
  oW 0x8000 6 aCST_OLDEST,
  oR 0x8000 7 (.u 4) .ro aCST_ID,
  oCalc 0x8001 1 1 1 (.octets 273) .ro,
  oCalc 0x8002 1 1 1 (.u 8) .rw,
  oCalc 0x8002 1 2 1 (.octetsMax 16384) .ro,
  oCalc 0x8003 1 1 1 (.octetsMax 16384) .ro,
  oWj 0x8004 1 10 (aCST_CNT 0) 8,
  oR 0x7800 1 (.u 4) .ro aHKM_STATUS,
  oR 0x7800 2 (.u 4) .ro aHKM_ALARM,
  oF 0x7800 3 (.u 1) .rw ⟨aHKM_CTRL, 0, 3⟩,
  oRj 0x7801 1 2 (.u 4) .rw (aHKM_TRIG 0) (aHKM_TRIG 1 - aHKM_TRIG 0),
  oR 0x7801 3 (.u 4) .rws aHKM_NSLOT,
  oRj 0x7802 1 4 (.u 4) .rw (aHKM_TMR 0) 4,
  oRj 0x7803 1 8 (.u 4) .rw (aHKM_PWM_CFG 0) 8,
  ⟨0x7804, 1, 1, 8, .u 2, .rw, .fld ⟨aHKM_PWM_DUTY 0, 0, 16⟩ 0 8⟩,
  ⟨0x7805, 1, 1, 32, .u 2, .rws, .fld ⟨aHKM_SLOT 0 0, 0, 16⟩ 0 4⟩,
  ⟨0x7806, 1, 1, 32, .u 2, .rws, .fld ⟨aHKM_SLOT 1 0, 0, 16⟩ 0 4⟩,
  oRj 0x7807 1 2 (.u 4) .ro (aHKM_RESULT 0) (aHKM_RESULT 1 - aHKM_RESULT 0),
  oWj 0x7808 1 6 (aHKM_CNT 0) 8,
  oRi 0x7810 64 1 (.u 4) .rws (aHKM_IN_CFG 0) 0x40,
  oRi 0x7810 64 2 (.u 4) .rw (aHKM_IN_PILOT_F 0) 0x40,
  oRi 0x7810 64 3 (.i 4) .rw (aHKM_IN_THR_HI 0) 0x40,
  oRi 0x7810 64 4 (.i 4) .rw (aHKM_IN_THR_LO 0) 0x40,
  oRi 0x7810 64 5 (.i 4) .ro (aHKM_IN_FILT 0) 0x40,
  oRi 0x7810 64 6 (.u 1) .ro (aHKM_IN_FSTAT 0) 0x40,
  ⟨0x7810, 64, 7, 6, .i 4, .ro, .fld (wreg (aHKM_IN_PEAK_MAX 0)) 0x40 4⟩,
  oRi 0x7810 64 13 (.u 4) .ro (aHKM_IN_RAW 0) 0x40] ++ [
  oR 0x7900 1 (.u 4) .ro aCAL_STATUS,
  oR 0x7900 2 (.u 4) .ro aCAL_ALARM,
  oR 0x7900 3 (.u 4) .wo aCAL_CMD,
  oF 0x7900 4 .bool .rw fCAL_CTRL_QGATE,
  oF 0x7900 5 .bool .rw fCAL_CTRL_INTERP_HOLD,
  oRj 0x7900 6 3 (.i 4) .ro aCAL_Q_SPUR 4,
  oR 0x7900 9 (.u 4) .ro aCAL_RUN_TIME,
  oR 0x7900 10 (.i 4) .ro aCAL_RUN_TEMP,
  oRi 0x7910 5 1 (.u 1) .ro (aCAL_DOM_STATUS 0) (aCAL_DOM_STATUS 1 - aCAL_DOM_STATUS 0),
  oRi 0x7910 5 2 (.u 4) .ro (aCAL_DOM_SEQ 0) (aCAL_DOM_SEQ 1 - aCAL_DOM_SEQ 0),
  ⟨0x7910, 5, 3, 8, .u 4, .ro, .fld (wreg (aCAL_DOM_PT 0 0)) (aCAL_DOM_PT 1 0 - aCAL_DOM_PT 0 0) 4⟩,
  oRi 0x7910 5 11 (.i 4) .ro (aCAL_DIE_TEMP 0) (aCAL_DIE_TEMP 1 - aCAL_DIE_TEMP 0),
  oR 0x7920 1 (.u 4) .ro aCAL_QUARRY,
  oWj 0x7921 1 5 (aCAL_CNT 0) 8,
  oR 0xA000 1 (.u 4) .ro aMEM_STATUS,
  oR 0xA000 2 (.u 4) .ro aMEM_ALARM,
  oF 0xA000 3 .bool .rw fMEM_CTRL_SCRUB_EN,
  oF 0xA000 4 .bool .rw fMEM_CTRL_LOG_CE,
  ⟨0xA008, 1, 1, 64, .octets 16, .ro, .words (aMEM_LOG 0 0) 0 16 4⟩,
  oRi 0xA010 11 1 (.u 4) .rw (aMEM_ARR_CFG 0) 0x20,
  oRi 0xA010 11 2 (.u 4) .ro (aMEM_ARR_STATUS 0) 0x20,
  ⟨0xA010, 11, 3, 1, .u 8, .ro, .wide (aMEM_ARR_CE_CNT 0) 0x20 0⟩,
  ⟨0xA010, 11, 4, 1, .u 8, .ro, .wide (aMEM_ARR_UE_CNT 0) 0x20 0⟩,
  ⟨0xA010, 11, 5, 1, .u 8, .ro, .wide (aMEM_ARR_SWEEP_CNT 0) 0x20 0⟩]

/-- R417 to R422: identity, communication, Courses, streams, Levels and the hierarchy. -/
def objsNode : List ObjRow := [
  oCalc 0x1000 1 1 3 .str .const,
  oCalc 0x1000 1 4 1 (.u 1) .const,
  oCalc 0x1000 1 5 1 .bool .const,
  oCalc 0x1000 1 6 1 (.u 8) .const,
  oR 0x1000 7 (.u 4) .ro aGLB_FW,
  oOwn 0x1010 1 1 1 (.u 2) .rwl 0xFFFF,
  oCalc 0x1010 1 2 1 (.u 1) .ro,
  oCalc 0x1010 1 3 1 (.u 2) .const,
  oOwn 0x1011 2 1 1 .bool .rw 1,
  oOwn 0x1011 2 2 1 (.octets 16) .rw 0,
  oOwn 0x1011 2 3 1 (.u 1) .rw 64,
  oOwn 0x1011 2 4 1 .bool .ro 0,
  oOwn 0x1011 2 5 1 (.u 8) .ro 0,
  oCalc 0x1018 1 1 1 (.octets 32) .rwl,
  oOwn 0x1018 1 2 1 (.u 4) .rwl 0,
  oOwn 0x1019 1 1 1 (.u 2) .rw 60,
  oCalc 0x1019 1 2 1 (.u 1) .ro,
  oOwn 0x1019 1 3 3 (.u 8) .ro 0,
  oCalc 0x1200 1 1 2 (.u 1) .ro,
  oCalc 0x1200 1 3 1 (.u 4) .ro,
  oCalc 0x1200 1 4 1 (.u 2) .ro,
  oCalc 0x1200 1 5 2 (.u 4) .ro,
  oCalc 0x1200 1 7 1 (.u 1) .ro,
  oCalc 0x1200 1 8 1 .time80 .ro,
  oCalc 0x1200 1 9 1 (.u 2) .ro,
  oCalc 0x1200 1 10 1 (.octets 5) .ro,
  oCalc 0x1210 1 1 16 (.octets 192) .ro,
  oOwn 0x1300 16 1 1 .bool .rw 0,
  oOwn 0x1300 16 2 1 (.octets 18) .rw 0,
  oOwn 0x1300 16 3 1 (.u 1) .rw 1,
  oOwn 0x1300 16 4 1 (.u 2) .rw 1,
  oCalc 0x1300 16 5 1 (.octetsMax 256) .rw] ++ [
  oOwn 0x1300 16 6 2 (.u 8) .ro 0,
  oCalc 0x6F00 1 1 1 (.u 4) .ro,
  oCalc 0x6F00 1 2 1 .time80 .ro,
  oCalc 0x6F00 1 3 1 (.u 2) .ro,
  oF 0x6F00 4 (.u 2) .rw fGLB_LVL_PERIOD_MS,
  oCalc 0x6F00 1 5 1 .bool .wo,
  oCalc 0x6F01 1 1 1 .bool .wo,
  oCalc 0x6F01 1 2 1 (.u 4) .ro,
  oCalc 0x6F01 1 3 1 .bool .wo,
  oCalc 0x6F01 1 4 1 (.u 1) .ro,
  oCalc 0x6F10 1 1 16 .time80 .rw,
  oCalc 0x9000 1 1 1 (.u 1) .ro,
  oOwn 0x9000 1 2 1 (.u 2) .rw 100,
  oOwn 0x9000 1 3 1 (.u 2) .rw 10,
  oOwn 0x9000 1 4 1 (.octets 16) .rw 0,
  oOwn 0x9000 1 5 1 (.u 4) .ro 0,
  oCalc 0x9010 1 1 1 (.octets 2048) .ro,
  oCalc 0x9010 1 2 1 (.u 2) .ro,
  oOwn 0x9020 1 1 1 (.octets 2048) .rw 0,
  oCalc 0x9020 1 2 1 .time80 .wo,
  oOwn 0x9020 1 3 3 (.u 2) .ro 0,
  oCalc 0x9020 1 6 1 (.u 4) .wo,
  oCalc 0x9020 1 7 1 .time80 .wo,
  oCalc 0x9020 1 8 1 (.u 4) .ro,
  oCalc 0x9100 128 1 128 (.octets 48) .ro]

/-- R466: SEC. -/
def objsSec : List ObjRow := [
  oCalc 0xA100 1 1 1 (.octets 32) .wo,
  ⟨0xA100, 1, 2, 1, .octets 452, .ro, .words (aSEC_QUOTE 0) 0 0 113⟩,
  oCalc 0xA101 1 1 1 (.octets 273) .ro,
  oR 0xA102 1 (.u 4) .ro aSEC_STATUS,
  oR 0xA102 2 (.u 4) .ro aSEC_ALARM,
  oF 0xA102 3 (.u 2) .wo ⟨aSEC_CTRL, 0, 3⟩,
  oR 0xA103 1 (.u 4) .rwl aSEC_CFG,
  oF 0xA103 2 (.u 1) .rwl ⟨aSEC_CST_BOUND, 0, 8⟩,
  oCalc 0xA104 1 1 64 (.u 8) .rwl,
  oF 0xA105 1 (.u 4) .rw ⟨aSEC_RST_FUNC, 0, 15⟩,
  oF 0xA105 2 (.u 4) .rw ⟨aSEC_RST_LODGE, 0, 8⟩,
  oR 0xA105 3 (.u 4) .wo aSEC_CST_RST,
  oR 0xA105 4 (.u 4) .ro aSEC_RST_STATUS,
  oR 0xA105 5 (.u 2) .ro aSEC_RST_DEFER,
  oR 0xA105 6 (.u 4) .ro aSEC_CIPH_BLOCKED,
  oR 0xA110 1 (.u 4) .rw aSEC_IMG_CTRL,
  oCalc 0xA110 1 2 1 (.octetsMax 16384) .wo,
  oR 0xA110 3 (.u 4) .ro aSEC_IMG_STATUS]

/-- An object found: its row, the lane for a lane's object, its places in the row's indexes and subindexes. -/
structure ObjHit where
  row : ObjRow
  lane : Nat
  i : Nat
  j : Nat
deriving DecidableEq, Repr

/-- R68, R189, R309: the lane of an index and the index at lane 0. -/
def laneIndex (index : Nat) : Nat × Nat :=
  if 0x4000 ≤ index && index < 0x5000 then ((index - 0x4000) / 0x200, 0x4000 + index % 0x200)
  else if 0x6000 ≤ index && index < 0x6800 then ((index - 0x6000) / 0x100, 0x6000 + index % 0x100)
  else if 0x7000 ≤ index && index < 0x7800 then ((index - 0x7000) / 0x100, 0x7000 + index % 0x100)
  else (0, index)

/-- Whether a row holds an index, and a subindex as well. -/
def ObjRow.hasIndex (r : ObjRow) (index : Nat) : Bool := r.index ≤ index && index < r.index + r.n
def ObjRow.has (r : ObjRow) (index sub : Nat) : Bool := r.hasIndex index && r.sub ≤ sub && sub < r.sub + r.m

/-- The rows in which an index is looked up, the index there, the lane, and the place of the port or group. -/
def objRows (index : Nat) : List ObjRow × Nat × Nat × Nat :=
  if 0x5000 ≤ index && index < 0x5800 then (objsPort, (index - 0x5000) % 0x20, 0, (index - 0x5000) / 0x20)
  else if 0x5900 ≤ index && index < 0x5980 then (objsFlexe, (index - 0x5900) % 0x10, 0, (index - 0x5900) / 0x10)
  else
    let p := laneIndex index
    let rows :=
      if index < 0x2000 then objsNode
      else if index < 0x3000 then objsTime
      else if index < 0x4000 then objsCli
      else if index < 0x5000 then (if p.2 < 0x4060 || 0x4100 ≤ p.2 then objsRx else objsTx)
      else if index < 0x6000 then objsCli
      else if index < 0x6800 then objsPmon
      else if index < 0x7000 then objsNode
      else if index < 0x7800 then objsKsc
      else if index < 0x9000 then objsCore
      else if index < 0xA000 then objsNode
      else if index < 0xA100 then objsCore
      else objsSec
    (rows, p.2, p.1, 0)

/-- R390: an object by its index and subindex (from 1). -/
def objAt (index sub : Nat) : Option ObjHit :=
  let t := objRows index
  match t.1.find? fun r => r.has t.2.1 sub with
  | none => none
  | some r => some ⟨r, t.2.2.1, (t.2.1 - r.index) + t.2.2.2, sub - r.sub⟩

/-- R390: the highest subindex defined at an index; 0 where none is. -/
def topSub (index : Nat) : Nat :=
  let t := objRows index
  t.1.foldl (fun k r => if r.hasIndex t.2.1 then max k (r.sub + r.m - 1) else k) 0

/-- The address of a place in a row of `n` indexes: ports, groups and lanes are a block apart. -/
def ObjHit.shift (h : ObjHit) (index a di dj : Nat) : Nat :=
  let port := if 0x5000 ≤ index && index < 0x5800 then 0x80 * h.i
    else if 0x5900 ≤ index && index < 0x5980 then 0x200 * h.i else di * h.i
  a + h.lane * 0x200000 + port + dj * h.j

end Sys2Proof.Machine
end

