-- ==== Sys2Proof/Machine/CourseCheck.lean ====
section
/-!
DEFINITION. The words a staged write sets, and the validation of a Course (R29 to R34) against the configuration that
will hold after it.
-/

namespace Sys2Proof.Machine

/-! ### What a staged write sets -/

/-- Bits of a word of CIPH_CTX_CFG that hold something (R232). -/
def ctxMask (w : Nat) : Nat :=
  if w = 0 then 0x13F else if w = 1 then 0x00FF7F07 else if w = 2 then 0x1FFF1FFF else 0xFFFFFFFF

/-- R29, R232: a register write as a staged write: its name and items; none where the register is not staged.  A word of
the window CIPH_CTX_CFG is that word of the selected context. -/
def stageReg (sel addr v : Nat) : Option Staged :=
  match regAt addr with
  | none => none
  | some h =>
    if !h.row.staged then none
    else if h.block = .ciph then
      let w := h.i
      let a := aCtxCfg sel w
      some ⟨.reg a, [(a, ctxMask w, Nat.land v (ctxMask w))]⟩
    else some ⟨.reg addr, [(addr, h.row.mask, Nat.land v h.row.mask)]⟩

/-- R391: the length of a value of a type; none where it varies. -/
def ObjTy.len : ObjTy → Option Nat
  | .bool => some 1
  | .u n => some n
  | .i n => some n
  | .time80 => some 10
  | .octets n => some n
  | _ => none

/-- A value has a length of its type. -/
def ObjTy.fits (t : ObjTy) (v : List Byte) : Bool :=
  match t with
  | .octetsMax n => v.length ≤ n
  | .str => v.length ≤ 255
  | _ => t.len == some v.length

/-- R391, R393: the bits a value gives a field, where the field can hold it. -/
def ObjTy.fieldValue (t : ObjTy) (len : Nat) (v : List Byte) : Option Nat :=
  let u := bytesNat v
  match t with
  | .bool => if u ≤ 1 then some u else none
  | .i n =>
    let x := toSigned (8 * n) u
    if -(2 ^ (len - 1) : Nat) ≤ x && x < (2 ^ (len - 1) : Nat) then some (ofSigned len x) else none
  | _ => if u < 2 ^ len then some u else none

/-- A number with its four bytes in reverse order. -/
def swap32 (v : Nat) : Nat := bytesNat (natBytes 4 v).reverse

/-- The bits of a word that a write can set: those of its register. -/
def wordMask (a : Nat) : Nat :=
  match regAt a with
  | some h => h.row.mask
  | none => 0xFFFFFFFF

/-- A word that a staged write sets to a value, within its register's bits (R7). -/
def wordItem (a v : Nat) : Nat × Nat × Nat := (a, wordMask a, Nat.land v (wordMask a))

/-- The item that sets a field, within its register's bits (R7). -/
def fieldItem (a : Nat) (f : Fld) (u : Nat) : Nat × Nat × Nat :=
  let m := Nat.land ((2 ^ f.len - 1) * 2 ^ f.lo) (wordMask a)
  (a, m, Nat.land (u * 2 ^ f.lo) m)

/-- R398: an object write as a staged write, or why it is refused.  A calendar's byte c is that of slot c; the 52 bytes
of 0x3300:03 are CIPH_CTX_CFG0 to CFG12 of the session's selected context. -/
def State.stageObj (s : State) (sel index sub : Nat) (v : List Byte) : Staged ⊕ Code :=
  match objAt index sub with
  | none => .inr .objAbsent
  | some h =>
    if !s.ciph.fitted && 0x3000 ≤ index && index < 0x4000 then .inr .objAbsent
    else if h.row.acc ≠ .rws then .inr .accessDenied
    else if !h.row.ty.fits v then .inr .typeMismatch
    else match h.row.place with
    | .fld f di dj =>
      match h.row.ty.fieldValue f.len v with
      | none => .inr .valueInvalid
      | some u => .inl ⟨.obj index sub, [fieldItem (h.shift index f.addr di dj) f u]⟩
    | .down a di dj n =>
      let b := h.shift index a di dj
      .inl ⟨.obj index sub, (List.range n).map fun k => wordItem (b + 4 * (n - 1 - k)) (fieldBytes v (4 * k) 4)⟩
    | .words a di dj n =>
      let b := h.shift index a di dj
      .inl ⟨.obj index sub, (List.range n).map fun k => wordItem (b + 4 * k) (fieldBytes v (4 * k) 4)⟩
    | _ =>
      if index = 0x3300 then
        .inl ⟨.obj (index + 0x10000 * sel) sub,
          (List.range 13).map fun w => (aCtxCfg sel w, ctxMask w, Nat.land (fieldBytes v (4 * w) 4) (ctxMask w))⟩
      else
        .inl ⟨.obj index sub,
          (List.range 80).map fun e => (aCLI_FX_CAL h.i e, 0xFFFFFFFF, swap32 (fieldBytes v (4 * e) 4))⟩

/-- The register offset that stands for an item's address. -/
def busAddr (a : Nat) : Nat := if 0x4000000 ≤ a then aCIPH_CTX_CFG (a % 64 / 4) else a

/-- R398: KIND and WHERE of a staged write. -/
def Staged.where_ (w : Staged) : Nat × Nat :=
  match w.name with
  | .reg a => (2, busAddr a)
  | .obj i j => (1, i % 0x10000 * 256 + j)

/-- The function that holds an item's word. -/
def State.itemFunctions (s : State) (a : Nat) : List Nat := if 0x4000000 ≤ a then [10] else s.functionsOf a

/-! ### The configuration after a Course (R34) -/

/-- An item written. -/
def State.putItem (s : State) (a mask v : Nat) : State := if mask = 0 then s else s.setNat a (itemWord (s.nat a) mask v)

/-- The addresses that staged writes set. -/
def writesAddrs (ws : List Staged) : List Nat := ws.flatMap fun w => w.items.map (·.1)

/-- The flows that staged writes set. -/
def flowsIn (addrs : List Nat) : List Nat :=
  (addrs.filterMap fun a => if 0x804000 ≤ a && a < 0x806000 then some ((a - 0x804000) / 0x20) else none).eraseDups

/-- The contexts that staged writes set. -/
def ctxsIn (addrs : List Nat) : List Nat :=
  (addrs.filterMap fun a => if 0x4000000 ≤ a then some ((a - 0x4000000) / 64) else none).eraseDups

/-- A flow's entry of the receive mapping as its words stand. -/
def State.rxEntry (s : State) (f : Nat) : Nat × Nat × Nat :=
  (f, withBits (s.nat (aCLI_FLOW_CFG f)) 24 8 (s.flowType f), s.flowSlots f)

/-- The receive mapping takes a flow's entry. -/
def State.putRxMap (s : State) (e : Nat × Nat × Nat) : State :=
  { s with cli := { s.cli with
      rxMap := let m := s.cli.rxMap.filter fun x => x.1 != e.1
               if bitOf e.2.1 0 then m ++ [e] else m } }

/-- Every staged write in force. -/
def State.after (s : State) (ws : List Staged) : State :=
  let t := ws.foldl (fun s w => w.items.foldl (fun s i => s.putItem i.1 i.2.1 i.2.2) s) s
  (flowsIn (writesAddrs ws)).foldl (fun t f => t.putRxMap (t.rxEntry f)) t

/-! ### The checks of R34 -/

/-- One check: the code of its failure, the addresses of the values it concerns, and whether it fails. -/
structure Check where
  code : Code
  addrs : List Nat
  fails : Bool

/-- R192, R207: TYPE and RATE of a port, whether it is enabled or not. -/
def portCodeOk (type rate : Nat) : Bool :=
  if type = 0 then rate ≤ 4 else if type = 1 then rate ≤ 2 else type == 2 && 1 ≤ rate && rate ≤ 16

/-- R34, first row: the word at an address lies within its range and encoding. -/
def State.rangeOk (t : State) (a : Nat) : Bool :=
  match regAt a with
  | none => true
  | some h =>
    let v := t.nat a
    match h.block with
    | .rxd =>
      if a = aRXD_NLC_CFG h.lane then bitsOf v 0 6 ≤ 40 && 8 ≤ bitsOf v 8 6 && bitsOf v 8 6 ≤ 48
      else if a = aRXD_RX_PULSE h.lane then 1 ≤ v && v ≤ 20
      else true
    | .txd => if a = aTXD_PULSE h.lane then 1 ≤ v && v ≤ 20 else true
    | .fec => 3 ≤ bitsOf v 0 4 && bitsOf v 0 4 ≤ 10 && 1 ≤ bitsOf v 8 3 && bitsOf v 8 3 ≤ 4
    | .plu => bitsOf v 16 16 ≤ 3600
    | .hkm =>
      if a = aHKM_NSLOT then 1 ≤ bitsOf v 0 6 && bitsOf v 0 6 ≤ 32 && 1 ≤ bitsOf v 8 6 && bitsOf v 8 6 ≤ 32
      else if 0x501000 ≤ a then hkmInOk h.i v else true
    | .cli =>
      if h.row.off = 0x8040 then (List.range 4).all fun k => bitsOf v (8 * k) 8 ≤ 31 || bitsOf v (8 * k) 8 == 0xFF
      else if h.row.off = 0x1000 then portCodeOk (bitsOf v 1 2) (bitsOf v 8 5) else true
    | _ => true

/-- R193: the client lanes of an enabled port. -/
def State.portSpan (t : State) (p : Nat) : List Nat :=
  (List.range (t.portLanes p)).map (· + t.get (fCLI_PORT_CFG_FIRST_LANE p))

/-- Least power of two not below `w`, for `w` up to 32. -/
def pow2Up (w : Nat) : Nat := if w ≤ 1 then 1 else if w ≤ 2 then 2 else if w ≤ 4 then 4 else if w ≤ 8 then 8 else if w ≤ 16 then 16 else 32

/-- R192, R193: the type, rate and class of an enabled port have a width, and its lanes lie where they may. -/
def State.portPlaceOk (t : State) (p : Nat) : Bool :=
  let type := t.get (fCLI_PORT_CFG_TYPE p)
  let rate := t.get (fCLI_PORT_CFG_RATE p)
  let w := t.portLanes p
  let first := t.get (fCLI_PORT_CFG_FIRST_LANE p)
  portCodeOk type rate && (type != 2 || t.get (fCLI_PORT_CFG_CLASS p) == 0)
    && w != 0 && first % 64 % pow2Up w == 0 && first % 64 + w ≤ 64

/-- R196: the number of slots of a flow's source; 0 where it has none. -/
def State.flowNeeds (t : State) (f : Nat) : Nat :=
  if t.is (fCLI_FLOW_CFG_KIND f) then
    let k := t.get (fCLI_FLOW_CFG_FXG f)
    divUp (calSlots ((List.range 80).map fun e => t.nat (aCLI_FX_CAL k e)) (t.get (fCLI_FLOW_CFG_FXC f))) 5
  else
    let p := t.get (fCLI_FLOW_CFG_PORT f)
    let rate := t.get (fCLI_PORT_CFG_RATE p)
    if t.get (fCLI_PORT_CFG_TYPE p) = 2 then divUp (17 * rate) 4 else ethGbps rate / 25

/-- The words that a flow's checks concern: its own, its source's. -/
def State.flowAddrs (t : State) (f : Nat) : List Nat :=
  let own := aCLI_FLOW_CFG f :: (List.range 4).map (aCLI_FLOW_SLOTS f)
  if t.is (fCLI_FLOW_CFG_KIND f) then
    let k := t.get (fCLI_FLOW_CFG_FXG f)
    own ++ [aCLI_FX_CFG k] ++ (List.range 80).map (aCLI_FX_CAL k)
  else own ++ [aCLI_PORT_CFG (t.get (fCLI_FLOW_CFG_PORT f))]

/-- The words of a lane's two formats. -/
def fmtAddrs (n : Nat) : List Nat := [aTXD_FMT n, aTXD_RATE n, aRXD_RX_FMT n, aRXD_RX_RATE n]

/-- R196: one enabled flow by itself. -/
def State.flowOk (t : State) (f : Nat) : Bool :=
  let n := t.get (fCLI_FLOW_CFG_LANE f)
  let src :=
    if t.is (fCLI_FLOW_CFG_KIND f) then t.is (fCLI_FX_CFG_EN (t.get (fCLI_FLOW_CFG_FXG f)))
    else
      let p := t.get (fCLI_FLOW_CFG_PORT f)
      t.is (fCLI_PORT_CFG_EN p) && t.get (fCLI_PORT_CFG_TYPE p) != 1
  let tx := t.txFmt n
  let rx := t.cfgRxFmt n
  let slots := t.flowSlots f
  let fitsIn := fun (g : Fmt) =>
    if g.family = 0 then t.flowCount f == t.flowNeeds f && slots < 2 ^ g.slots
    else
      !t.is (fCLI_FLOW_CFG_KIND f) && slots == 0 && t.get (fCLI_PORT_CFG_TYPE (t.get (fCLI_FLOW_CFG_PORT f))) == 0
        && ethGbps (t.get (fCLI_PORT_CFG_RATE (t.get (fCLI_FLOW_CFG_PORT f)))) == 400 * g.family
  src && fitsIn tx && fitsIn rx

/-- R196: two enabled flows beside each other: different sources, no slot of a lane in common, and no two flows on a lane
of a ZR family. -/
def State.flowsOk (t : State) (f g : Nat) : Bool :=
  let key := fun (f : Nat) => if t.is (fCLI_FLOW_CFG_KIND f) then (1, bitsOf (t.nat (aCLI_FLOW_CFG f)) 8 8)
    else (0, t.get (fCLI_FLOW_CFG_PORT f))
  let lane := fun (f : Nat) => t.get (fCLI_FLOW_CFG_LANE f)
  key f != key g
    && !(lane f == lane g && (Nat.land (t.flowSlots f) (t.flowSlots g) != 0 || (t.txFmt (lane f)).family != 0
          || (t.cfgRxFmt (lane f)).family != 0))

/-- Entries with their successors: every unordered pair once. -/
def pairsOf {α : Type} : List α → List (α × α)
  | [] => []
  | x :: xs => xs.map (fun y => (x, y)) ++ pairsOf xs

/-- R72: RXD_CD_FIXED lies within R71's limit for the receive format that will be in force. -/
def State.cdFixedOk (t : State) (n : Nat) : Bool :=
  (t.int (aRXD_CD_FIXED n)).natAbs ≤ (t.rxFmt (Fin.ofNat 8 n)).cdLim

/-- R202: the PHYs of FlexE group `k`, as far as they are enabled FlexE PHYs. -/
def State.fxPhys (t : State) (k : Nat) : List Nat :=
  ((List.range (t.get (fCLI_FX_CFG_PHYS k) + 1)).map (· + t.get (fCLI_FX_CFG_PORT_BASE k))).filter fun p =>
    p < 64 && t.is (fCLI_PORT_CFG_EN p) && t.get (fCLI_PORT_CFG_TYPE p) == 1

/-- R202: the PHYs of an enabled FlexE group are of one type, and a client group has at most four groups. -/
def State.fxChecks (t : State) : List Check :=
  let ks := (List.range 8).filter fun k => t.is (fCLI_FX_CFG_EN k)
  let one := ks.map fun k =>
    let ps := t.fxPhys k
    (⟨.courseInvalid, aCLI_FX_CFG k :: ps.map aCLI_PORT_CFG,
      ps.any fun p => t.get (fCLI_PORT_CFG_RATE p) != t.get (fCLI_PORT_CFG_RATE (ps.headD 0))⟩ : Check)
  let four := [0, 1].map fun g =>
    let mine := ks.filter fun k => t.portGroup (t.get (fCLI_FX_CFG_PORT_BASE k)) == g
    (⟨.courseInvalid, mine.map aCLI_FX_CFG, 4 < mine.length⟩ : Check)
  one ++ four

/-- The checks of the first three rows over addresses `addrs`, in the configuration `t`. -/
def State.checks1 (t : State) (addrs : List Nat) : List Check :=
  let inv := fun (as : List Nat) (ok : Bool) => (⟨.courseInvalid, as, !ok⟩ : Check)
  let cli := addrs.any fun a => 0x800000 ≤ a && a < 0x900000
  let lane := addrs.any fun a => 0x1000000 ≤ a && a < 0x4000000
  let ranges := addrs.map fun a => inv [a] (t.rangeOk a)
  let fmts := if !lane then [] else (List.range 8).flatMap fun n =>
    [inv [aTXD_FMT n, aTXD_RATE n] (t.txFmt n).ok, inv [aRXD_RX_FMT n, aRXD_RX_RATE n] (t.cfgRxFmt n).ok,
      inv [aRXD_CD_FIXED n, aRXD_RX_FMT n, aRXD_RX_RATE n] (t.cdFixedOk n)]
  let prios := if !(addrs.any fun a => (List.range 16).any fun e => a == aPLU_PRIO e) then []
    else ((pairsOf (List.range 16)).filter fun p => t.get (fPLU_PRIO_PRIO p.1) != 0 && t.get (fPLU_PRIO_PRIO p.2) != 0).map
      fun p => inv [aPLU_PRIO p.1, aPLU_PRIO p.2] (t.get (fPLU_PRIO_REF p.1) != t.get (fPLU_PRIO_REF p.2))
  let ports := if cli then (List.range 64).filter fun p => t.is (fCLI_PORT_CFG_EN p) else []
  let places := ports.map fun p => inv [aCLI_PORT_CFG p] (t.portPlaceOk p)
  let overlaps := (pairsOf ports).map fun p =>
    inv [aCLI_PORT_CFG p.1, aCLI_PORT_CFG p.2] (!(t.portSpan p.1).any (t.portSpan p.2).contains)
  let flows := if cli || lane then (List.range 256).filter fun f => t.is (fCLI_FLOW_CFG_EN f) else []
  let each := flows.map fun f => inv (t.flowAddrs f ++ fmtAddrs (t.get (fCLI_FLOW_CFG_LANE f))) (t.flowOk f)
  let both := (pairsOf flows).map fun p =>
    inv (t.flowAddrs p.1 ++ t.flowAddrs p.2 ++ fmtAddrs (t.get (fCLI_FLOW_CFG_LANE p.1))) (t.flowsOk p.1 p.2)
  ranges ++ fmts ++ prios ++ places ++ overlaps ++ (if cli then t.fxChecks else []) ++ each ++ both

/-- R194: the fourth row: octet engines and FlexE shims against their fixed owners. -/
def State.checks4 (t : State) (addrs : List Nat) : List Check :=
  if !(addrs.any fun a => 0x800000 ≤ a && a < 0x900000) then []
  else
    let ports := (List.range 64).filter fun p => t.is (fCLI_PORT_CFG_EN p)
    let octets := ports.map fun p =>
      let g := t.portGroup p
      let otn := t.get (fCLI_PORT_CFG_TYPE p) == 2
      (⟨.resBusy, [aCLI_OCTMODE g, aCLI_PORT_CFG p],
        (t.portSpan p).any fun l => bitOf (t.nat (aCLI_OCTMODE g)) (l % 64 / 8) != otn⟩ : Check)
    let shims := [0, 1].map fun g =>
      let phys := ((List.range 8).filter fun k => t.is (fCLI_FX_CFG_EN k)).flatMap fun k =>
        ((t.fxPhys k).filter fun p => t.portGroup p == g).map fun p => (k, p)
      (⟨.resBusy, phys.flatMap fun p => [aCLI_FX_CFG p.1, aCLI_PORT_CFG p.2],
        1600 < (phys.map fun p => ethGbps (t.get (fCLI_PORT_CFG_RATE p.2))).foldl (· + ·) 0⟩ : Check)
    octets ++ shims

/-- R3: the fifth row. -/
def State.checks5 (s : State) (addrs : List Nat) : List Check :=
  addrs.map fun a => ⟨.ciphAbsent, [a], 0x4000000 ≤ a && !s.ciph.fitted⟩

/-- R223: the slot group or flow that a context binds to, as a number; none for `MSG` and `NONE`. -/
def State.bindTarget (t : State) (c : Nat) : Option Nat :=
  if t.get (fCtxBind c) = 2 then some (128 * t.get (fCtxLane c) + t.get (fCtxHead c))
  else if t.get (fCtxBind c) = 3 then
    let f := t.get (fCtxFlow c)
    let head := ((⟨f, 0, t.flowSlots f⟩ : Mapped)).head
    some (if t.is (fCLI_FLOW_CFG_EN f) && t.flowSlots f != 0 then 128 * t.get (fCLI_FLOW_CFG_LANE f) + head else 1024 + f)
  else none

/-- R215, R226: a key slot that a context names is loaded and its policy permits the use. -/
def State.keyUsable (t : State) (slot mode bind : Nat) : Bool :=
  (t.key slot).isSome && t.permits slot (if 2 ≤ bind then 0 else if mode = 5 then 2 else 1)

/-- The IV words of `CFG5` or `CFG8` on. -/
def ivAddrs (c w : Nat) : List Nat := (List.range 3).map fun k => aCtxCfg c (w + k)

/-- R211, R218, R221, R223, R226: the sixth row over the contexts that the Course sets; `s` is the state before it. -/
def State.checks6 (s t : State) (addrs : List Nat) : List Check :=
  let inv := fun (as : List Nat) (ok : Bool) => (⟨.courseInvalid, as, !ok⟩ : Check)
  let cs := ctxsIn addrs
  let bound := ((s.liveCtxs ++ cs).eraseDups).filter fun c => 2 ≤ t.get (fCtxBind c)
  let each := cs.flatMap fun c =>
    let bind := t.get (fCtxBind c)
    let mode := t.ctxMode c
    let st := (s.ctx c).state
    let chained := chainMode mode
    if bind = 0 then [inv [aCtxCfg c 0] (mode ≤ 5)]
    else
      let next := namesNext (t.is (fCtxRoll c)) (t.get (fCtxKeyNext c))
      let given := (ivAddrs c 5).any addrs.contains
      let loads : List (List Nat × Nat) :=
        if st = 0 then [(aCtxCfg c 0 :: ivAddrs c 5, t.ctxIv c)]
        else if t.is (fCtxRoll c) then [(aCtxCfg c 0 :: ivAddrs c 8, t.ctxIvNext c)]
        else if given then [(ivAddrs c 5, t.ctxIv c)] else []
      let value := fun (iv : Nat) => ivValue chained (if chained then iv * 2 ^ 32 else iv) 0
      [inv [aCtxCfg c 0] (mode ≤ 5 && (bind < 2 || mode ≤ 2)),
       inv [aCtxCfg c 0, aCtxCfg c 2] (t.keyUsable (t.get (fCtxKeyCur c)) mode bind),
       inv [aCtxCfg c 0, aCtxCfg c 2] (!next || t.keyUsable (t.get (fCtxKeyNext c)) mode bind),
       inv [aCtxCfg c 2] (t.get (fCtxKeyCur c) == s.get (fCtxKeyCur c) || st == 0 || st == 5)]
        ++ loads.map fun l => inv l.1 ((s.ctx c).lastLoad != some (value l.2))
  let words := fun (c : Nat) => [aCtxCfg c 0, aCtxCfg c 1]
    ++ if t.get (fCtxBind c) = 3 then t.flowAddrs (t.get (fCtxFlow c)) else []
  let otn := (bound.filter fun c => t.get (fCtxBind c) == 3).map fun c =>
    inv (words c) (!t.is (fCLI_FLOW_CFG_EN (t.get (fCtxFlow c))) || t.flowType (t.get (fCtxFlow c)) < 0x40)
  let doubles := (pairsOf bound).map fun p =>
    inv (words p.1 ++ words p.2)
      (t.get (fCtxDir p.1) != t.get (fCtxDir p.2) || t.bindTarget p.1 != t.bindTarget p.2)
  let listed := bound.foldl (fun (t : State) c => t.modCtx c fun x => { x with state := max x.state 1 }) t
  let flows := (flowsIn addrs).flatMap fun f => aCLI_FLOW_CFG f :: (List.range 4).map (aCLI_FLOW_SLOTS f)
  let budget := inv ((bound.flatMap fun c => [aCtxCfg c 0, aCtxCfg c 1]) ++ flows) (listed.ciphBudget ≤ 1016)
  each ++ otn ++ doubles ++ [budget]

/-- R34: the first failing check of the first write, in staging order, that any failing check concerns. -/
def State.validate (s : State) (ws : List Staged) : Option (Code × (Nat × Nat)) :=
  let t := s.after ws
  let addrs := (writesAddrs ws).eraseDups
  let failing := ((t.checks1 addrs ++ t.checks4 addrs ++ s.checks5 addrs ++ s.checks6 t addrs).filter (·.fails))
  ws.findSome? fun w =>
    let mine := w.items.map (·.1)
    (failing.find? fun c => c.addrs.any mine.contains).map fun c => (c.code, w.where_)

end Sys2Proof.Machine
end

