-- ==== Sys2Proof/Machine/Course.lean ====
section
/-!
DEFINITION. The Course sequencer (R29 to R41, R118 to R120, R206, R439, R463): staging, commit, the end of validation,
abort, the strobe and the apply points of lanes and ports.
-/

namespace Sys2Proof.Machine

def State.modCrs (s : State) (f : CourseSeq → CourseSeq) : State := { s with crs := f s.crs }
def State.modArmed (s : State) (f : Armed → Armed) : State := s.modCrs fun c => { c with armed := c.armed.map f }

/-! ### Staging (R29 to R31) -/

/-- R29 to R31: a staged write enters the pending Course, opening it where none is pending; a write of a name already
staged keeps its place. -/
def State.stage (s : State) (by_ : Source) (w : Staged) : State × Code :=
  if s.crs.validating.isSome then (s, .courseBusy)
  else match s.crs.pending with
  | none => (s.modCrs fun c => { c with pending := some ⟨by_, [w]⟩ }, .ok)
  | some p =>
    if p.owner ≠ by_ then (s, .courseOwned)
    else if p.writes.any fun x => x.name == w.name then
      (s.modCrs fun c => { c with pending := some ⟨by_, p.writes.map fun x => if x.name = w.name then w else x⟩ }, .ok)
    else if 4096 ≤ p.writes.length then (s, .courseFull)
    else (s.modCrs fun c => { c with pending := some ⟨by_, p.writes ++ [w]⟩ }, .ok)

/-- R433: the access code that tells a refused staged write. -/
def stageAcc : Code → Option AccCode
  | .courseBusy => some .busy
  | .courseOwned => some .courseOwned
  | .courseFull => some .courseFull
  | _ => none

/-- R439: a PCIe write of a staged register, past the gate. -/
def State.stagePcie (s : State) (addr v : Nat) : State :=
  match stageReg (s.nat aCIPH_CTX_SEL % 65536) addr v with
  | none => s
  | some w =>
    let r := s.stage .pcie w
    match stageAcc r.2 with
    | none => r.1
    | some c => r.1.logAcc c addr true

/-- The session of a number. -/
def State.session (s : State) (k : Nat) : Option Session := s.cop.sessions.find? fun x => x.id == k

/-- R451: the initiator that a COP session's last message makes it. -/
def State.copInit (s : State) (k : Nat) : Initiator :=
  match s.session k with
  | some x => if x.line then .copLine else .copMgt
  | none => .copMgt

/-- R392, R408, R435: a COP staged write of an object. -/
def State.stageCop (s : State) (k index sub : Nat) (v : List Byte) : State × Code :=
  let sel := ((s.session k).map (·.ctxSel)).getD 0
  match s.stageObj sel index sub v with
  | .inr c => (s, c)
  | .inl w =>
    let addrs := w.items.map fun i => busAddr i.1
    if addrs.any fun a => !s.allowed (s.copInit k) true a then (s, .accessDenied)
    else if addrs.any s.isSafe then (s, .funcSafe)
    else s.stage (.cop k) w

/-- R29: a staged write. -/
def execCourseStage (by_ : Source) (target : StageTarget) (s : State) : Ans :=
  match by_, target with
  | .pcie, .reg addr v =>
    if s.cold then .next s
    else match s.writeGate addr true with
    | some c => .next (s.logAcc c addr true)
    | none => .next (s.stagePcie addr v.toNat)
  | .cop k, .obj index sub value =>
    if s.cold then .next s
    else
      let r := s.stageCop k index sub value
      .next (r.1.emit (.answer k r.2.num))
  | _, _ => .next s

/-! ### Commit, discard (R32 to R34, R439) -/

/-- A Course command's result shown: 0x1200:09 and 0x1200:0A, and for PCIe GLB_CRS_STATUS and GLB_CRS_WHERE; for COP the
response of COURSE_CTRL. -/
def State.courseResult (s : State) (by_ : Source) (code : Code) (w : Nat × Nat) (commit : Bool) : State :=
  let s := s.modCrs fun c => { c with result := code.num, where_ := w }
  match by_ with
  | .pcie =>
    let s := ((s.set fGLB_CRS_STATUS_RESULT code.num).setB fGLB_CRS_STATUS_WHERE_KIND (w.1 == 2)).setNat aGLB_CRS_WHERE w.2
    s.raiseIf commit fGLB_ALARM_COURSE_DONE
  | .cop k => s.emit (.course k code.num w.1 w.2)

/-- R433: a commit or discard refused for its owner or a running validation is logged. -/
def State.courseLog (s : State) (by_ : Source) (code : Code) : State :=
  match by_, stageAcc code with
  | .pcie, some c => s.logAcc c aGLB_CRS_CMD true
  | _, _ => s

/-- R34, R408, R435: why a commit is refused at once, if it is. -/
def State.commitRefusal (s : State) (by_ : Source) (mode number : Nat) (t : Time80) : Option Code :=
  if by_ != .pcie && (1 < mode || (mode = 1 && 999999999 < t.ns)) then some .valueInvalid
  else if s.crs.validating.isSome || s.safe 17 then some .courseBusy
  else match s.crs.pending with
  | none => some .courseNone
  | some p =>
    if p.owner ≠ by_ then some .courseOwned
    else if number = 0 || (s.crs.any && !serialGt number s.crs.last) then some .courseNumber
    else none

/-- R33: a commit. -/
def State.commit (s : State) (by_ : Source) (mode number : Nat) (t : Time80) : State :=
  match s.commitRefusal by_ mode number t with
  | some c => (s.courseLog by_ c).courseResult by_ c (0, 0) true
  | none =>
    match s.crs.pending with
    | none => s
    | some p =>
      s.modCrs fun c => { c with
        pending := none
        validating := some ⟨by_, p.writes, mode == 1, number, timeNs t, false⟩ }

/-- R408, R439: GLB_CRS_NUM and GLB_CRS_T take what the commit brings. -/
def State.setCommit (s : State) (number : Nat) (t : Time80) : State :=
  (((s.setNat aGLB_CRS_NUM number).setNat aGLB_CRS_T t.ns).setNat (aGLB_CRS_T + 4) t.sec).set ⟨aGLB_CRS_T + 8, 0, 16⟩ (t.sec / 2 ^ 32)

/-- R439: a commit by PCIe takes the values of its registers. -/
def State.commitPcie (s : State) (mode : Nat) : State :=
  s.commit .pcie mode (s.nat aGLB_CRS_NUM)
    ⟨s.nat (aGLB_CRS_T + 4) + 2 ^ 32 * (s.nat (aGLB_CRS_T + 8) % 65536), s.nat aGLB_CRS_T⟩

/-- R33: over PCIe the command stands for the writes of GLB_CRS_NUM, GLB_CRS_T and GLB_CRS_CMD. -/
def execCourseCommit (by_ : Source) (mode number : Nat) (t : Time80) (s : State) : Ans :=
  match by_ with
  | .pcie => .next (s.hostWrite aGLB_CRS_CMD fun s => (s.setCommit number t).commitPcie (mode % 2))
  | .cop _ => if s.cold then .next s else .next (s.commit by_ mode number t)

/-- R29, R30, R408: a discard. -/
def State.discard (s : State) (by_ : Source) : State :=
  let code : Code :=
    if s.crs.validating.isSome then .courseBusy
    else match s.crs.pending with
    | none => .courseNone
    | some p => if p.owner = by_ then .ok else .courseOwned
  let s := if code = .ok then s.modCrs fun c => { c with pending := none } else s
  (s.courseLog by_ code).courseResult by_ code (0, 0) false

def execCourseDiscard (by_ : Source) (s : State) : Ans :=
  .next (s.byWrite by_ aGLB_CRS_CMD fun s => s.discard by_)

/-! ### Arming (R34, R35, R37) -/

/-- The lane on which a flow's items apply: where it lies after the Course, or where it lay if the Course disables it. -/
def flowLane (s t : State) (f : Nat) : Nat :=
  if t.is (fCLI_FLOW_CFG_EN f) then t.get (fCLI_FLOW_CFG_LANE f) else s.get (fCLI_FLOW_CFG_LANE f)

/-- R206, R226: the apply point of a context's words: that of the binding it has after the Course, or had before. -/
def ctxSpot (s t : State) (c : Nat) : Spot :=
  let b := if 2 ≤ t.get (fCtxBind c) then t else s
  if b.get (fCtxBind c) < 2 then .strobe
  else
    let n := if b.get (fCtxBind c) = 2 then b.get (fCtxLane c) else flowLane s t (b.get (fCtxFlow c))
    if b.is (fCtxDir c) then .rx n else .tx n

/-- R37 to R39, R141, R206, R232: where a word's item applies, and where it is marked besides. -/
def spotsOf (s t : State) (a : Nat) : Spot × Option Spot :=
  if 0x4000000 ≤ a then (ctxSpot s t ((a - 0x4000000) / 64), none)
  else match blockOf a with
  | some (.txd, n, _) => (.tx n, none)
  | some (.rxd, n, _) => (.rx n, none)
  | some (.fec, n, _) => (.rx n, some (.tx n))
  | some (.cli, _, o) =>
    if o = 0x10 then (.port 72, none)
    else if o = 0x14 then (.port 73, none)
    else if 0x1000 ≤ o && o < 0x3000 then (.port ((o - 0x1000) / 0x80), none)
    else if 0x8000 ≤ o && o < 0x9000 then (.port (64 + (o - 0x8000) / 0x200), none)
    else if 0x4000 ≤ o && o < 0x6000 then
      let n := flowLane s t ((o - 0x4000) / 0x20)
      (.tx n, some (.rx n))
    else (.strobe, none)
  | _ => (.strobe, none)

/-- The items of a Course. -/
def courseItems (s t : State) (ws : List Staged) : List CourseItem :=
  ws.flatMap fun w => w.items.flatMap fun i =>
    let p := spotsOf s t i.1
    ⟨p.1, i.1, i.2.1, i.2.2⟩ :: (match p.2 with | none => [] | some q => [⟨q, i.1, 0, 0⟩])

/-- The lanes that items name at their transmit, or receive, apply points, as a mask. -/
def laneMask (is : List CourseItem) (rx : Bool) : Nat :=
  (List.range 8).foldl (fun v n => v + b2n (is.any fun i => i.spot == if rx then .rx n else .tx n) * 2 ^ n) 0

/-- R37: T_I of an `IMMEDIATE` Course, ns. -/
def State.immediateTime (s : State) (is : List CourseItem) : Nat :=
  let longest := (List.range 8).foldl (fun m n =>
    if is.any fun i => i.spot == .tx n then max m (s.txFmt n).periodFs else m) 0
  divUp ((s.tbx 0).acc + 6250000 * (9 * longest)) unitsPerNs

/-- A Keystone announcement of the armed Course on every lane (R305). -/
def State.announceCourse (s : State) (a : Armed) (state : Nat) : State :=
  s.eachLane fun n s => s.ksCourse n a state

/-- R306: what the far ends have announced is compared anew with the local Course. -/
def State.rematchAll (s : State) : State := s.eachLane fun n s => s.crsRematch n

/-- R35: a validated Course is armed. -/
def State.arm (s : State) (v : Validating) : State :=
  let is := courseItems s (s.after v.writes) v.writes
  let time := if v.atTime then v.time else s.immediateTime is
  let rec_ : CourseRec :=
    { number := v.number, mode := b2n v.atTime, late := false, untrusted := false, txMask := laneMask is false
      rxMask := laneMask is true, mismatch := 0, time := time, nonLane := none, tx := [], rx := [] }
  let a : Armed :=
    { owner := v.owner, atTime := v.atTime, number := v.number, time := time, writes := v.writes
      closed := !v.atTime, struck := false, items := is, seen := [], record := rec_ }
  ((s.modCrs fun c => { c with validating := none, armed := some a }).announceCourse a 1).rematchAll

/-- R33, R34: validation ends. -/
def execCourseValidationEnd (s : State) : Ans :=
  match s.crs.validating with
  | none => .next s
  | some v =>
    let bad : Option (Code × (Nat × Nat)) :=
      match s.validate v.writes with
      | some r => some r
      | none =>
        if s.crs.armed.isSome then some (.courseBusy, (0, 0))
        else if v.atTime && v.time < 50000 + s.tb0 then some (.courseLate, (0, 0))
        else none
    match bad with
    | none => .next ((s.arm v).courseResult v.owner .ok (0, 0) true)
    | some r =>
      let s := s.modCrs fun c => { c with
        validating := none, pending := if v.orphan then c.pending else some ⟨v.owner, v.writes⟩ }
      .next (s.courseResult v.owner r.1 r.2 true)

/-! ### Abort (R36) -/

/-- A session belongs to the domain manager (R415). -/
def State.byManager (s : State) : Source → Bool
  | .pcie => false
  | .cop k => ((s.session k).map (·.peer)) == some 0

/-- R36: an armed Course may still be aborted. -/
def State.abortable (s : State) (a : Armed) : Bool := a.atTime && !a.closed && !a.struck && 100000 + s.tb0 < a.time

/-- R36, R118, R306: an armed Course is aborted; a countdown that has begun ends. -/
def State.abortArmed (s : State) (a : Armed) : State :=
  let s := s.eachLane fun n s => if a.txWaits n then s.set (fTXD_STATE_COUNTDOWN n) 0 else s
  ((s.modCrs fun c => { c with armed := none }).announceCourse a 3).rematchAll

/-- R36, R408, R439: an abort. -/
def State.abort (s : State) (by_ : Source) : State :=
  match s.crs.armed with
  | none => s.courseResult by_ .courseNone (0, 0) false
  | some a =>
    if a.owner ≠ by_ && !s.byManager by_ then s.courseResult by_ .courseOwned (0, 0) false
    else if !s.abortable a then s.courseResult by_ .courseLockedIn (0, 0) false
    else (s.abortArmed a).courseResult by_ .ok (0, 0) false

def execCourseAbort (by_ : Source) (s : State) : Ans :=
  .next (s.byWrite by_ aGLB_CRS_CMD fun s => s.abort by_)

/-- R36: the abort window closes at T − 100 µs. -/
def execCourseAbortWindowClose (s : State) : Ans :=
  match s.crs.armed with
  | none => .next s
  | some a => .next ((s.waitBefore 0 a.time 100000).modArmed fun a => { a with closed := true })

/-! ### Apply points (R37 to R39, R463) -/

/-- Items written into the registers, in staging order. -/
def State.putItems (s : State) (is : List CourseItem) : State := is.foldl (fun s i => s.putItem i.addr i.mask i.value) s

/-- The armed Course's items at a spot, those of functions not held in reset; the others wait for the release.  The jobs of
contexts that items set have been carried on to a block boundary (R227). -/
def State.takeItems (s : State) (a : Armed) (spot : Spot) : State × List CourseItem :=
  let s := s.keepBefore
  let here := a.items.filter fun i => i.spot == spot
  let heldBy := fun (i : CourseItem) => (s.itemFunctions i.addr).find? s.held
  let now := here.filter fun i => (heldBy i).isNone
  let later := here.filterMap fun i => (heldBy i).map fun k => { i with spot := .release k }
  let rest := a.items.filter fun i => i.spot != spot
  let s := s.modArmed fun a => { a with items := rest ++ later }
  let s := later.foldl (fun s i => match i.spot with
    | .release k => (s.set ⟨aSEC_RST_DEFER, k, 1⟩ 1).raise fSEC_ALARM_RST_DEFERRED
    | _ => s) s
  ((ctxsIn (now.map (·.addr))).foldl (fun s c => s.jobsTo c) s, now)

/-- Contexts whose words stand among items, with whether an IV is staged for them (R219, R226). -/
def State.courseCtxs (s before : State) (a : Armed) (is : List CourseItem) : State :=
  (ctxsIn (is.map (·.addr))).foldl (fun s c =>
    let staged := fun (x : Nat) => (writesAddrs a.writes).contains x
    s.ctxCourse before c ((ivAddrs c 5).any staged) (staged (aCtxCfg c 2))) s

/-- What the transmit items of a lane bring once written (R118 to R120, R162, R206). -/
def State.txItemsIn (s before : State) (n : Lane) (a : Armed) (is : List CourseItem) : State :=
  let addrs := is.map (·.addr)
  let fmt := [aTXD_FMT n, aTXD_RATE n, aTXD_PULSE n]
  let s := if addrs.any fmt.contains then s.showTxFmt n else s
  let s := if (s.txFmt n).family = (before.txFmt n).family then s
    else ((s.raise (fTXD_ALARM_FAMILY_SWITCH n)).showKsOn n).kscJudge n
  let s := if (before.txFmt n).family ≠ 0 && (s.txFmt n).family = 0 then
      s.modTx n fun t => { t with mfas := 0, outer := {}, bip := {} } else s
  let s := (flowsIn addrs).foldl (fun s f => s.flowCourse before f) s
  s.courseCtxs before a is

/-- R41: the Course is recorded once nothing of it waits. -/
def State.courseDone (s : State) : State :=
  match s.crs.armed with
  | none => s
  | some a =>
    if !a.struck || !a.items.isEmpty then s
    else
      let s := s.modCrs fun c => { c with
        armed := none, any := true, last := a.number, records := (a.record :: c.records).take 16 }
      (s.raise fGLB_ALARM_COURSE_APPLIED).rematchAll

def State.recordTx (s : State) (n : Lane) : State :=
  s.modArmed fun a => { a with record := { a.record with tx := assocPut a.record.tx n s.tb0 } }
def State.recordRx (s : State) (n : Lane) : State :=
  s.modArmed fun a => { a with record := { a.record with rx := assocPut a.record.rx n s.tb0 } }

/-- R37, R118: the transmit apply point of a lane. -/
def State.courseTx (s : State) (n : Lane) : State :=
  match s.crs.armed with
  | none => s
  | some a =>
    if !a.txWaits n then s
    else
      let r := s.takeItems a (.tx n)
      let before := r.1
      let s := (before.putItems r.2).txItemsIn before n a r.2
      let s := ((s.set (fTXD_STATE_COUNTDOWN n) 0).setNat (aTXD_COURSE n) a.number).bridgeCheck n
      let s := ((s.recordTx n).ksCourse n a 2).timeRefresh
      s.courseDone

/-- R182, R313: the entities of a lane whose monitoring a Course changes: the section with its receive format, the paths with
their groups, the tributaries with their slots' membership. -/
def State.mapChanges (s before : State) (n : Lane) : State :=
  let was := before.rxGroups n
  let now := s.rxGroups n
  let of := fun (gs : List Mapped) (h : Nat) => (gs.find? fun g => g.head == h).map (·.slots)
  let s := if s.rxWords n = before.rxWords n then s else s.mapChange n (entKey 0 0)
  if was = now then s
  else
    let heads := ((was ++ now).map Mapped.head).eraseDups.filter fun h => of was h != of now h
    let s := heads.foldl (fun s h => s.mapChange n (entKey 1 h)) s
    let s := heads.foldl (fun s h =>
      if (of was h).isSome && (of now h).isSome then s.tapChange (tribKey n h) else s.tapGone (tribKey n h)) s
    let slots := (List.range 128).filter fun j => (groupAt was j).map Mapped.head != (groupAt now j).map Mapped.head
    (slots.foldl (fun s j => s.mapChange n (entKey 2 j)) s).touch n

/-- What the receive items of a lane bring once written (R92, R95, R119, R206). -/
def State.rxItemsIn (s before : State) (n : Lane) (a : Armed) (is : List CourseItem) : State :=
  let addrs := is.map (·.addr)
  let t := s.after a.writes
  let s := s.touch n
  let s := (flowsIn addrs).foldl (fun s f => s.putRxMap (t.rxEntry f)) s
  let s := ((flowsIn addrs).foldl (fun s f => s.showFlow f) s).mapChanges before n
  let nlc := addrs.any fun x => x == aRXD_NLC_CFG n || (aRXD_NLC_SPAN n 0 0 ≤ x && x < aRXD_NLC_SPAN n 40 0)
    || (x == aRXD_SCFG n && s.get (fRXD_SCFG_NLC_EN n) != before.get (fRXD_SCFG_NLC_EN n))
  let s := if nlc then s.nlcChanged n else s
  let rxd := addrs.any fun x => match blockOf x with
    | some (.rxd, _, _) => true
    | some (.fec, _, _) => true
    | _ => false
  let s := if rxd then s.rxFmtTurn before n else s
  let s := if (s.rxFmt n).family = (before.rxFmt n).family then s else (s.familyTurn n).kscJudge n
  (s.rxdCourse before n).courseCtxs before a is

/-- R38: the receive apply point of a lane. -/
def State.courseRx (s : State) (n : Lane) : State :=
  match s.crs.armed with
  | none => s
  | some a =>
    if !a.rxWaits n then s
    else
      let r := s.takeItems a (.rx n)
      let before := r.1
      let s := (before.putItems r.2).rxItemsIn before n a r.2
      let s := (s.setNat (aLFR_COURSE_RX n) a.number).modLfr n fun l => { l with rxIn := none }
      ((s.recordRx n).timeRefresh).courseDone

/-- R39: the items that belong to no lane and no port. -/
def State.strobeItemsIn (s before : State) (a : Armed) (is : List CourseItem) : State :=
  let addrs := is.map (·.addr)
  let s := if addrs.any fun x => (blockOf x).any fun b => b.1 == .hkm then s.hkmCourse before addrs else s
  let s := if addrs.any fun x => (blockOf x).any fun b => b.1 == .plu then s.reselect else s
  s.courseCtxs before a is

/-- R39, R463: items whose lane or port is held in reset when their time has come wait for its release. -/
def State.deferHeld (s : State) : State :=
  match s.crs.armed with
  | none => s
  | some a =>
    let fn := fun (i : CourseItem) => match i.spot with
      | .tx n => if s.held n then some n else none
      | .rx n => if s.held n then some n else none
      | .port _ => (s.itemFunctions i.addr).find? s.held
      | _ => none
    let ks := (a.items.filterMap fn).eraseDups
    let s := s.modArmed fun a => { a with items := a.items.map fun i => match fn i with
      | some k => { i with spot := .release k }
      | none => i }
    ks.foldl (fun s k => (s.set ⟨aSEC_RST_DEFER, k, 1⟩ 1).raise fSEC_ALARM_RST_DEFERRED) s

/-- R39, R120: the Course strobe acts: items of no lane apply, lanes that are not `SENDING` take their transmit items at
once, and items of functions in reset are deferred. -/
def State.courseStrobe (s : State) (late : Bool) : State :=
  match s.crs.armed with
  | none => s
  | some a =>
    if a.struck then s
    else
      let untrusted := s.get fTIME_STATUS_TB0_STATE ≠ 3
      let s := s.modArmed fun a => { a with
        struck := true, closed := true, time := if late then s.tb0 else a.time
        record := { a.record with late := late, untrusted := untrusted } }
      let strobed := a.items.any fun i => i.spot == .strobe
      let s := if strobed then s.modArmed fun a => { a with record := { a.record with nonLane := some s.tb0 } } else s
      let r := s.takeItems a .strobe
      let s := (r.1.putItems r.2).strobeItemsIn r.1 a r.2
      let s := s.deferHeld
      let s := s.eachLane fun n s => if s.laneUp n && s.txdState n = 2 then s else s.courseTx n
      s.courseDone

/-- R39: the strobe for T. -/
def execCourseStrobe (s : State) : Ans :=
  match s.crs.armed with
  | none => .next s
  | some a => if a.struck then .next s else .next ((s.waitTb 0 a.time).courseStrobe false)

/-- R39: the next client block boundary of a port, of a FlexE group or of a client group. -/
def State.coursePort (s : State) (p : Nat) : State :=
  match s.crs.armed with
  | none => s
  | some a =>
    if !a.struck || !(a.items.any fun i => i.spot == .port p) then s
    else
      let r := s.takeItems a (.port p)
      let before := r.1
      ((before.putItems r.2).clientItemsIn before (r.2.map (·.addr))).courseDone

/-- R39, R225: a port's items apply at its block boundary; a flow's key epoch begins at the transmit apply point, before
which its adapter starts no element (R225). -/
def execCourseClientApply (item : Nat) (s : State) : Ans :=
  if item < 74 then .next (s.coursePort item) else .next s

/-- R38: 10 ms after T with no announcement seen, the receive items apply at the next received line-frame boundary; a
lane that receives no LF takes them at once.  A lane that has seen one and lost the line frame since takes them so too, and
raises nothing. -/
def execCourseRxTimeout (n : Lane) (s : State) : Ans :=
  match s.crs.armed with
  | none => .next s
  | some a =>
    if !a.struck || !a.rxWaits n || (s.lane n).lfr.rxIn.isSome then .next s
    else
      let s := s.waitTb 0 (10000000 + a.time)
      if (s.rxFmt n).family ≠ 0 then .next (s.courseRx n)
      else
        let m := a.record.mismatch
        let s := if a.seen.contains n.val then s
          else ((s.setB (fLFR_STATE_COURSE_MISMATCH n) true).raise (fLFR_ALARM_COURSE_MISMATCH n)).modArmed fun a =>
            { a with record := { a.record with mismatch := if bitOf m n then m else m + 2 ^ n.val } }
        if s.get (fLFR_STATE_ALIGN n) = 2 then .next (s.modLfr n fun l => { l with rxIn := some 1 })
        else .next (s.courseRx n)

/-- R38: the Course number in force in the received overhead has differed from the local one for more than 10 ms. -/
def execCourseFarMismatch (n : Lane) (s : State) : Ans :=
  match (s.lane n).lfr.differSince with
  | none => .next s
  | some t =>
    if (s.rxFmt n).family ≠ 0 then .next s
    else
      let s := s.waitTb 0 (10000000 + t)
      let s := if s.is (fLFR_STATE_COURSE_MISMATCH n) then s
        else (s.setB (fLFR_STATE_COURSE_MISMATCH n) true).raise (fLFR_ALARM_COURSE_MISMATCH n)
      .next (s.modArmed fun a => if bitOf a.record.rxMask n && !bitOf a.record.mismatch n
        then { a with record := { a.record with mismatch := a.record.mismatch + 2 ^ n.val } } else a)

/-- R463: at a release the deferred items of a function are written; a lane's apply points take the time of the
release. -/
def State.courseRelease (s : State) (k : Nat) : State :=
  match s.crs.armed with
  | none => s
  | some a =>
    let here := a.items.filter fun i => i.spot == .release k
    if here.isEmpty then s
    else
      let s := s.keepBefore
      let before := s
      let s := s.modArmed fun a => { a with items := a.items.filter fun i => i.spot != .release k }
      let s := s.putItems here
      let addrs := here.map (·.addr)
      let s :=
        if h : k < 8 then
          let n : Lane := ⟨k, h⟩
          let s := ((s.txItemsIn before n a here).setNat (aTXD_COURSE n) a.number).bridgeCheck n
          let s := (s.rxItemsIn before n a here).setNat (aLFR_COURSE_RX n) a.number
          let s := if bitOf a.record.txMask k then (s.recordTx n).ksCourse n a 2 else s
          if bitOf a.record.rxMask k then s.recordRx n else s
        else if k = 8 || k = 9 then
          s.clientItemsIn before addrs
        else s.strobeItemsIn before a here
      ((s.set ⟨aSEC_RST_DEFER, k, 1⟩ 0).timeRefresh).courseDone

/-- R404: what the end of a session does to its Course. -/
def State.courseOrphan (s : State) (by_ : Source) : State :=
  s.modCrs fun c => { c with
    pending := match c.pending with
      | some p => if p.owner = by_ then none else some p
      | none => none
    validating := c.validating.map fun v => if v.owner = by_ then { v with orphan := true } else v }

end Sys2Proof.Machine
end

