-- ==== Sys2Proof/Machine/TxLf.lean ====
section
/-!
DEFINITION. The transmit grid and the assembly of a line frame (R37, R123, R142 to R151, R157 to R165, R204, R506).
-/

namespace Sys2Proof.Machine

/-! ### The management channel (R163) -/

/-- RFC 1662: bytes that transparency escapes. -/
def hdlcEscape (bs : List Byte) : List Byte :=
  bs.flatMap fun b => if b = 0x7E || b = 0x7D then [0x7D, b ^^^ 0x20] else [b]

/-- R163: an IPv6 packet in HDLC-like framing: address, control, protocol 0x0057, the packet, the 32-bit FCS (log entry
27). -/
def hdlcFrame (packet : List Byte) : List Byte :=
  let body := ([0xFF, 0x03, 0x00, 0x57] : List Byte) ++ packet
  [0x7E] ++ hdlcEscape (body ++ fcsBytes body) ++ [0x7E]

/-- A packet queued for the in-band management channel of a lane. -/
def State.mccSend (s : State) (n : Lane) (packet : List Byte) : State :=
  s.modTx n fun t => { t with mccQueue := t.mccQueue ++ hdlcFrame packet }

/-- R163: credit of one LF period, units of 10^-9 byte, capped at 24 bytes. -/
def mccGrow (credit periodFs : Nat) : Nat := min 24000000000 (credit + periodFs * 5 / 4)

/-- R163: the bytes of one LF. -/
def State.mccTake (s : State) (n : Lane) : State × List Byte :=
  let t := (s.lane n).tx
  let credit := mccGrow t.mccCredit (s.txFmt n).periodFs
  if !s.is (fLFR_CTRL_MCC_EN n) then (s.modTx n fun t => { t with mccCredit := credit }, [])
  else
    let k := min (min 24 t.mccQueue.length) (credit / 1000000000)
    (s.modTx n fun t => { t with mccCredit := credit - 1000000000 * k, mccQueue := t.mccQueue.drop k }, t.mccQueue.take k)

/-! ### Bridges (R162) -/

/-- The groups that a bridge brings to a lane: each group of the source lane that lies within the entry's slots, in the
places it takes here (log entry 27). -/
def State.bridged (s : State) (n : Lane) (k : Nat) : List Mapped :=
  if k = 0 then []
  else
    let i := k - 1
    let src := s.get (fLFR_PSF_BR_SRC_SLOT n i)
    let dst := s.get (fLFR_PSF_BR_DST_SLOT n i)
    let cnt := s.get (fLFR_PSF_BR_COUNT n i)
    (s.rxGroups (s.get (fLFR_PSF_BR_SRC_LANE n i))).filterMap fun g =>
      if g.list.all fun j => src ≤ j && j < src + cnt then some { g with slots := g.slots / 2 ^ src * 2 ^ dst } else none

/-- R162: the bridge changes whose 0.25 µs have passed take effect, in the order of their requests. -/
def State.bridgeNow (s : State) (n : Lane) : State :=
  let due := (s.lane n).tx.bridgeReq.filter fun r => r.at_ + 157 ≤ s.clk
  if due.isEmpty then s
  else
    let s := due.foldl (fun s r => s.modTx n fun t =>
      { t with
        bridgedSent := r.signal, bridge := if r.exer then t.bridge else r.signal
        bridgeFifo := if r.exer then t.bridgeFifo else [] }) s
    (s.modTx n fun t => { t with bridgeReq := t.bridgeReq.filter fun r => s.clk < r.at_ + 157 }).showBridged n

/-! ### Indications (R160) -/

/-- R160: SBDI, and PBDI of slot `j`, to be sent. -/
def State.sbdi (s : State) (n : Lane) : Bool :=
  !s.is (fLFR_CTRL_BDI_INH n) && settled s.clk (s.lane n).tx.sbdiSince
def State.pbdi (s : State) (n : Lane) (j : Nat) : Bool :=
  !s.is (fLFR_CTRL_BDI_INH n) &&
    (settled s.clk (s.lane n).tx.sbdiSince || settled s.clk ((s.lane n).tx.pbdiSince.getD j []))

/-! ### Groups in a frame (R147 to R149, R204) -/

/-- What a group puts into a frame: its head and slots, J's code and its data words; under AIS only filler. -/
structure GroupTx where
  group : Mapped
  code : Nat
  data : List Nat
  ais : Bool

/-- R148: the code of J. -/
def jCode (j : Int) : Nat := if 0 < j then 1 else if j < 0 then 2 else 0

/-- The number of payload words of slots `slots` in the LF with MFAS `m`. -/
def groupT (f : Fmt) (m slots : Nat) : Nat :=
  ((List.range (payloadWords f.fec)).filter fun w => bitOf slots (slotOf f m w)).length

/-- R148, R197, R204, R222, R223: a flow's group in the LF with MFAS `m`. -/
def State.flowGroupTx (s : State) (n : Lane) (m : Nat) (g : Mapped) : State × GroupTx :=
  let f := s.txFmt n
  let ng := g.count
  let f0 := 2 * divUp (groupX f ng) 256
  let otn := typeOtn (s.nat (aCLI_FLOW_CFG g.flow))
  let s := if otn then s else s.flowRelease g.flow (16 * (groupX f ng / 256) - 2) f.periodFs
  let s := if otn then s else s.flowPad g.flow (16 * f0)
  let j := if otn then 0 else flowJ (s.flowFill g.flow) f0 (groupU f ng)
  let d := dataWords f ng m (groupT f m g.slots) j
  let prot := s.isProtected n g 0 && d != 0
  let r := s.adapt g.flow (if prot then d - 1 else d)
  let e := if prot then r.1.encUnit n g r.2 else r
  ((e.1).showFlow g.flow, ⟨g, jCode j, e.2, false⟩)

/-- R160: a group that bridge `k` brings to a lane is under AIS: one of its slots is on the source lane. -/
def State.bridgeAis (s : State) (n : Lane) (k : Nat) (g : Mapped) : Bool :=
  let src := s.get (fLFR_PSF_BR_SRC_LANE n (k - 1))
  g.list.any fun j =>
    s.is (fLFR_SLOT_AIS_OUT src (j + s.get (fLFR_PSF_BR_SRC_SLOT n (k - 1)) - s.get (fLFR_PSF_BR_DST_SLOT n (k - 1))))

/-- R160, R162: a bridged group in the LF with MFAS `m`. -/
def State.bridgeGroupTx (s : State) (n : Lane) (m : Nat) (g : Mapped) : State × GroupTx :=
  let f := s.txFmt n
  let t := (s.lane n).tx
  if s.bridgeAis n t.bridge g then (s, ⟨g, 0, [], true⟩)
  else
    let ws := (assocGet t.bridgeFifo g.head).getD []
    let j := flowJ ws.length (2 * divUp (groupX f g.count) 256) (groupU f g.count)
    let d := dataWords f g.count m (groupT f m g.slots) j
    let s := s.modTx n fun t => { t with bridgeFifo := assocPut t.bridgeFifo g.head (ws.drop d) }
    (s, ⟨g, jCode j, ws.take d ++ List.replicate (d - ws.length) 0, false⟩)

/-- Data words laid out among the `t` words of a group, filler elsewhere (R149). -/
def layGroup (d t : Nat) : List Nat → List Nat → List Nat
  | [], _ => []
  | i :: is, ws =>
    if carriesData d t i then ws.headD 0 :: layGroup d t is (ws.drop 1) else 0 :: layGroup d t is ws

/-- The words of every group, in order, go to the payload words of their slots; a word of no group is 0. -/
def layPayload (f : Fmt) (m : Nat) : List Nat → List (Nat × List Nat) → List Nat
  | [], _ => []
  | w :: ws, gs =>
    let j := slotOf f m w
    let v := match gs.find? fun p => bitOf p.1 j with
      | some p => p.2.headD 0
      | none => 0
    v :: layPayload f m ws (gs.map fun p => if bitOf p.1 j then (p.1, p.2.drop 1) else p)

/-! ### Overhead (R145) -/

/-- R161: bytes 13 to 16. -/
def State.psfBytes (s : State) (n : Lane) : List Byte :=
  let t := (s.lane n).tx
  let bridged := if s.is (fLFR_CTRL_PSF_AUTO n) then t.bridgedSent else s.get (fLFR_PSF_TX_BRIDGED n)
  natBytes 1 (s.get (fLFR_PSF_TX_REQ n) * 16 + s.get (fLFR_PSF_TX_REQ_SIG n)) ++ natBytes 1 bridged
    ++ natBytes 1 (s.get (fLFR_PSF_TX_SEQ n)) ++ natBytes 1 t.echo

/-- R151: the SSI entry of slot `j`. -/
def ssiBytes (f : Fmt) (gs : List GroupTx) (j : Nat) : List Byte :=
  if f.slots ≤ j then [0, 0]
  else match gs.find? fun g => bitOf g.group.slots j with
    | none => [0, 0]
    | some g => natBytes 1 (128 + g.group.head) ++ natBytes 1 g.group.type

/-- R148: the 32 bytes of justification codes. -/
def jcBytes (gs : List GroupTx) : List Byte :=
  (List.range 32).map fun b => BitVec.ofNat 8 <| (List.range 4).foldl (fun v q =>
    v * 4 + (match gs.find? fun g => g.group.head == 4 * b + q with
      | some g => g.code
      | none => 0)) 0

/-- R167, R168: PBDI_TX and PAIS_TX of slot `j` shown; a ZR family in force on receive has no slot status. -/
def State.showPathTx (s : State) (n : Lane) (j : Nat) (bdi ais : Bool) : State :=
  let native := (s.rxFmt n).family == 0
  (s.setB (fLFR_SLOT_PBDI_TX n j) (bdi && native)).setB (fLFR_SLOT_PAIS_TX n j) (ais && native)

/-- R158: the path entry of slot `j`, and its return accumulator after it. -/
def State.pathEntry (s : State) (n : Lane) (f : Fmt) (gs : List GroupTx) (j : Nat) : State × List Byte :=
  if f.slots ≤ j then (s.showPathTx n j false false, [0, 0])
  else
    let t := (s.lane n).tx
    let acc := t.pbeiAcc.getD j 0
    let bei := min 8 acc
    let ais := gs.any fun g => g.ais && bitOf g.group.slots j
    let bdi := s.pbdi n j
    let s := s.modTx n fun t => { t with pbeiAcc := setAt t.pbeiAcc j (acc - bei) }
    (s.showPathTx n j bdi ais, natBytes 1 (t.bip.before.getD j 0) ++ natBytes 1 (bei * 16 + b2n bdi * 8 + b2n ais * 4))

/-- R158: the 16 path entries of the LF with MFAS `m`. -/
def State.pathEntries (s : State) (n : Lane) (f : Fmt) (gs : List GroupTx) (m : Nat) : State × List Byte :=
  (List.range 16).foldl (fun p q =>
    let r := p.1.pathEntry n f gs (16 * (m % 8) + q)
    (r.1, p.2 ++ r.2)) (s, [])

/-- R37, R165, R277: LFs from the one starting now to the apply LF of the armed Course; none without transmit items. -/
def State.lfsToApply (s : State) (n : Lane) (ps : Nat) : Option (Nat × Armed) :=
  match s.crs.armed with
  | none => none
  | some a =>
    if !a.txWaits n then none
    else
      let now := (s.tbx 0).acc + unitsPerPs * ps
      let due := unitsPerNs * a.time
      let per := (s.txFmt n).periodAt s.outFreq
      some (if a.struck || due ≤ now then 0 else divUp ((due - now) * 1600000 * per.2) (max 1 (per.1 * (s.tbx 0).step)), a)

/-- A Course changes the transmit format of a lane (R118). -/
def Armed.changesTx (a : Armed) (n : Lane) : Bool :=
  a.items.any fun i => i.spot == .tx n && (i.addr == aTXD_FMT n || i.addr == aTXD_RATE n || i.addr == aTXD_PULSE n)

/-- R100, R118, R505: the signal of the LF in progress becomes that of the one before; a new one takes its place, or none. -/
def State.lfSignal (s : State) (n : Lane) (x : Option LfSignal) : State :=
  s.modTx n fun t => { t with signalBefore := t.signal.map fun y => (y, t.lfLen), signal := x }

/-- R100, R118: the symbols of an LF enter the transmit chain; they leave the device. -/
def State.sendSymbols (s : State) (n : Lane) (symbols : List Symbol) : State :=
  let f := s.txFmt n
  let s := s.lfSignal n (some
    { rolloff := clampN 1 20 (s.get (fTXD_PULSE_ROLLOFF n)), rate := f.symRate, symbols := symbols, energy := f.energy
      levels := [(0, s.txRms n)] })
  s.emit (.lf n symbols)

/-- R142, R145: a native LF is assembled; its symbols are sent.  `ps` is the start's place in the PLU cycle.  DESIGN CHOICE (log
entry 98): a configured group some of whose slots a bridge overrides carries nothing while the bridge stands, in its other
slots either. -/
def State.lfAssemble (s : State) (n : Lane) (ps : Nat) : State :=
  let f := s.txFmt n
  let s := s.bridgeNow n
  let t := (s.lane n).tx
  let m := t.mfas
  let c := s.wide (aTXD_LF_CNT n)
  let cdn := match s.lfsToApply n ps with
    | some (k, a) => if k ≤ 8 then some (k, a) else none
    | none => none
  let s := match cdn with
    | some (k, a) => if a.changesTx n then s.set (fTXD_STATE_COUNTDOWN n) k else s
    | none => s
  -- a path period begins: the parities of the last one are those sent now (R158)
  let s := if m % 8 = 0 then s.modTx n fun t =>
      { t with bip := { now := List.replicate 128 0, before := t.bip.now } } else s
  -- the slot groups
  let outside := s.bridgeSlots n t.bridge
  let own := (s.txGroups n).filter fun g => !(g.list.any outside.contains)
  let r := own.foldl (fun (p : State × List GroupTx) g => let q := p.1.flowGroupTx n m g; (q.1, p.2 ++ [q.2])) (s, [])
  let r := (s.bridged n t.bridge).foldl (fun (p : State × List GroupTx) g =>
    let q := p.1.bridgeGroupTx n m g; (q.1, p.2 ++ [q.2])) r
  let s := r.1
  let gs := r.2
  let laid := gs.map fun g =>
    let k := groupT f m g.group.slots
    (g.group.slots, layGroup (if g.ais then 0 else g.data.length) k (List.range k) g.data)
  let payload := scramble m (layPayload f m (List.range (payloadWords f.fec)) laid)
  -- parities
  let s := s.modTx n fun t => { t with bip := { t.bip with
      now := (payload.zipIdx).foldl (fun b p => modAt b (slotOf f m p.2) fun x => Nat.xor x (bip8 [p.1])) t.bip.now } }
  -- overhead
  let sbei := min 8 t.sbeiAcc
  let sbdi := s.sbdi n
  let s := s.setB (fLFR_STATE_TX_SBDI n) sbdi
  let cif := s.nat (aTXD_COURSE n)
  let mcc := s.mccTake n
  let path := mcc.1.pathEntries n f gs m
  let s := path.1
  let overhead := natBytes 1 m ++ natBytes 1 t.outer.phase ++ natBytes 1 t.sbip ++ natBytes 1 (sbei * 16 + b2n sbdi * 8)
    ++ natBytes 4 cif ++ natBytes 1 ((cdn.map (·.1)).getD 0) ++ natBytes 4 ((cdn.map (·.2.number)).getD cif)
    ++ s.psfBytes n ++ s.ttf n c ++ natBytes 1 mcc.2.length ++ mcc.2 ++ List.replicate (24 - mcc.2.length) 0
    ++ ssiBytes f gs (m % 128) ++ jcBytes gs ++ path.2 ++ List.replicate 36 0
  -- coding
  let info := marker ++ (overhead.flatMap fun b => bitsMsb 8 b.toNat) ++ payload.flatMap (bitsMsb 128)
  let enc := t.outer.take info
  let par := enc.slots (infoBits f.fec)
  let s := s.modTx n fun t =>
    { t with mfas := (m + 1) % 256, sbip := bip8 payload, sbeiAcc := t.sbeiAcc - sbei, outer := par.2 }
  ((s.timedSent n c ps).addCnt (aTXD_LF_CNT n) 1).sendSymbols n (lfSymbols f (codedBits f.fec info par.1))

/-- R506: the start of the grid at or after now, as its number and its place in fs of PLU time. -/
def State.gridNext (s : State) (n : Lane) : Nat × Nat :=
  let t := (s.lane n).tx
  let k := max t.lfNum (divUp ((1600000 * s.clk - t.lfBase) * t.lfPeriod.2) (max 1 t.lfPeriod.1))
  (k, t.lfBase + k * t.lfPeriod.1 / t.lfPeriod.2)

/-- R37, R235, R506: the grid goes on from its start number `k` at `at_`: at the period in force, counted anew from here
where that has changed. -/
def State.gridGo (s : State) (n : Lane) (k at_ : Nat) : State :=
  let p := (s.txFmt n).periodAt s.outFreq
  s.modTx n fun t =>
    if t.started && t.lfPeriod == p then { t with lfNum := k + 1, lfStart := at_, lfLen := at_ - t.lfStart }
    else
      { t with started := true, lfBase := at_, lfNum := 1, lfPeriod := p, lfStart := at_, lfLen := at_ - t.lfStart }

/-- R37, R119, R506: an LF start of the transmit grid: a Course whose time has come applies, TXD enters or leaves
`SENDING`, and in `SENDING` the LF is assembled.  In the ZR families the agreement's own framing is sent. -/
def execTxLfStart (n : Lane) (phase : Fin 1600) (s : State) : Ans :=
  if s.cold || s.held n then .next s
  else
    let t := (s.lane n).tx
    let g := if t.started then s.gridNext n else (0, 1600000 * s.clk + 1000 * phase.val)
    let at_ := g.2
    let s := s.waitClk (at_ / 1600000)
    let ps := at_ % 1600000 / 1000
    let s := match s.lfsToApply n ps with
      | some (0, _) => s.courseTx n
      | _ => s
    let s := (s.gridGo n g.1 at_).txdAtStart n
    if s.txdState n ≠ 2 then .next (s.lfSignal n none)
    else if (s.txFmt n).family = 0 then .next (s.lfAssemble n ps)
    else
      let frames := (s.lane n).tx.zrFrames
      let bdi := s.sbdi n
      let s := (s.modTx n fun t => { t with zrFrames := [] }).setB (fLFR_STATE_TX_SBDI n) bdi
      .next ((s.addCnt (aTXD_LF_CNT n) 1).sendSymbols n (Config.zrSymbols (s.txFmt n).family frames bdi))

end Sys2Proof.Machine
end

