-- ==== Sys2Proof/Machine/RxLf.lean ====
section
/-!
DEFINITION. Frame alignment and the delivery of a line frame (R38, R151 to R167, R171, R224).  What the correlator finds
and what the FEC decodes are operands (log entry 3).
-/

namespace Sys2Proof.Machine

/-- A counter of R168, by its place in the list there. -/
def State.lfrCount (s : State) (n : Lane) (j k : Nat) : State := if k = 0 then s else s.addCnt (aLFR_CNT n j) k

def State.alignState (s : State) (n : Lane) : Nat := s.get (fLFR_STATE_ALIGN n)

/-- LFR_STATE.CAND. -/
def State.showCands (s : State) (n : Lane) : State := s.set (fLFR_STATE_CAND n) (s.lane n).lfr.cands.length

/-- PLU cycles of `k` receive LF periods. -/
def State.rxPeriods (s : State) (n : Lane) (k : Nat) : Nat := divUp (k * (s.rxFmt n).periodFs) 1600000

/-! ### Alignment (R152 to R154, R167) -/

/-- R152: LFR leaves `SYNC` and reports loss of frame; RXD reacquires warm (R89). -/
def State.lossOfSync (s : State) (n : Lane) (cands : List Cand) : State :=
  (s.lfrAlignAway n (if cands.isEmpty then 0 else 1) cands).rxdWarm n

/-- R152, R154, R268: entry to `SYNC` at a position; the other candidates stay; the LF that begins with the third match, whose
marker has the timestamp `stamp`, is delivered first, and soft decisions go to the FEC from it on.  DESIGN CHOICE (log entry
56): the winner leaves the candidates, so that LFR_STATE.CAND counts the others, and 4 others can be tracked beside it. -/
def State.enterSync (s : State) (n : Lane) (c : Cand) (others : List Cand) (stamp : Nat) : State :=
  let s := (s.set (fLFR_STATE_ALIGN n) 2).setB (fLFR_STATE_VERIFY n) true
  let s := s.modLfr n fun l =>
    { l with cands := others, sync := some (c.pos, c.hyp), miss := 0, verifyCount := 0, marks := [some stamp] }
  let s := s.modRxd n fun r => { r with soft := [] }
  (((s.showCands n).rxdInFrame n c.hyp).fecInFrame n true).lfrDefects n

/-- R167: the agreement's framing locks. -/
def State.zrLock (s : State) (n : Lane) (pos hyp : Nat) : State :=
  let s := ((s.set (fLFR_STATE_ALIGN n) 2).setB (fLFR_STATE_MF_LOCK n) true).modLfr n fun l => { l with sync := some (pos, hyp) }
  ((s.rxdInFrame n hyp).fecInFrame n true).lfrDefects n

/-- R153: a match at a position; in the ZR families the framing of the agreement. -/
def execLfrMarkerMatch (n : Lane) (pos hyp diff : Nat) (s : State) : Ans :=
  let l := (s.lane n).lfr
  let al := s.alignState n
  if !s.laneUp n || s.is (fLFR_STATE_LOS n) then .next s
  else if (s.rxFmt n).family ≠ 0 then .next (if al = 2 then s else s.zrLock n pos hyp)
  else if (al = 2 && !s.is (fLFR_STATE_VERIFY n)) || s.get (fLFR_ALIGN_CFG_THR n) < diff then .next s
  else if (l.excluded.any fun e => e.1 == pos) || (l.cands.any fun c => c.pos == pos)
      || (l.sync.any fun p => p.1 == pos) then .next s
  else if 4 ≤ l.cands.length then .next ((s.lfrCount n 5 1).raise (fLFR_ALARM_CAND_OVF n))
  else
    let s := s.modLfr n fun l => { l with cands := l.cands ++ [⟨pos, hyp, 1⟩] }
    let s := if al = 0 then s.set (fLFR_STATE_ALIGN n) 1 else s
    .next (s.showCands n)

/-- R152, R153: a candidate at its expected position. -/
def State.candTest (s : State) (n : Lane) (k hyp : Nat) (hit : Bool) (stamp : Nat) : State :=
  let cands := (s.lane n).lfr.cands
  match cands[k]? with
  | none => s
  | some c =>
    if hit then
      let c := { c with hyp := hyp, hits := c.hits + 1 }
      if 3 ≤ c.hits && s.alignState n = 1 then s.enterSync n c (cands.eraseIdx k) stamp
      else s.modLfr n fun l => { l with cands := setAt l.cands k c }
    else
      let rest := cands.eraseIdx k
      let s := (s.modLfr n fun l => { l with cands := rest }).showCands n
      if rest.isEmpty && s.alignState n = 1 then s.set (fLFR_STATE_ALIGN n) 0 else s

/-- R152, R265: the synchronised frame at its expected position; `stamp` is the marker's receive timestamp. -/
def State.syncTest (s : State) (n : Lane) (hyp : Nat) (hit : Bool) (stamp : Nat) : State :=
  if hit then
    let s := s.modLfr n fun l => { l with miss := 0, marks := (l.marks ++ [some stamp]).drop (l.marks.length + 1 - 16) }
    (s.rxdSlip n hyp).rxdInFrame n hyp
  else
    let miss := (s.lane n).lfr.miss + 1
    if 5 ≤ miss then ((s.lfrCount n 3 1).raise (fLFR_ALARM_LOF n)).lossOfSync n []
    else s.modLfr n fun l => { l with miss := miss, marks := (l.marks ++ [none]).drop (l.marks.length + 1 - 16) }

/-- R86, R152, R265: an expected marker position is reached; the marker arrives `phase` fs after the present PLU cycle. -/
def execLfrExpectedPosition (n : Lane) (cand : Option (Fin 4)) (hyp diff : Nat) (phase : Fin 1600000) (s : State) : Ans :=
  if !s.laneUp n then .next s
  else
    let hit : Bool := diff ≤ s.get (fLFR_ALIGN_CFG_THR n)
    let stamp := (((s.stampFs 0 phase : Nat) : Int) - 65536 * s.intRx n / 1000).toNat
    match cand with
    | some k => if (s.rxFmt n).family = 0 then .next (s.candTest n k hyp hit stamp) else .next s
    | none =>
      if s.alignState n ≠ 2 then .next s
      else
        if (s.rxFmt n).family = 0 then .next (s.syncTest n hyp hit stamp)
        else .next (if hit then (s.rxdSlip n hyp).rxdInFrame n hyp else
          ((s.lfrCount n 3 1).raise (fLFR_ALARM_LOF n)).lossOfSync n [])

/-- R154: the exclusion of a position ends after 256 LF periods. -/
def execLfrExclusionExpiry (n : Lane) (pos : Nat) (s : State) : Ans :=
  match (s.lane n).lfr.excluded.find? fun e => e.1 == pos with
  | none => .next s
  | some e =>
    let s := s.waitClk (e.2 + s.rxPeriods n 256)
    .next (s.modLfr n fun l => { l with excluded := l.excluded.filter fun e => e.1 != pos })

/-- R154: verification with one more delivered LF; the answer's flag says that it has not failed. -/
def State.verify (s : State) (n : Lane) (cw0 : Bool) : State × Bool :=
  if !s.is (fLFR_STATE_VERIFY n) then (s, true)
  else
    let l := (s.lane n).lfr
    if cw0 then
      let s := ((s.setB (fLFR_STATE_VERIFY n) false).modLfr n fun l => { l with cands := [] }).showCands n
      (s.lfrDefects n, true)
    else if l.verifyCount + 1 < 4 then (s.modLfr n fun l => { l with verifyCount := l.verifyCount + 1 }, true)
    else (s, false)

/-- R154: a failed verification. -/
def State.verifyFail (s : State) (n : Lane) : State :=
  let l := (s.lane n).lfr
  let s := (s.lfrCount n 4 1).raise (fLFR_ALARM_FALSE_SYNC n)
  let ex := l.excluded ++ ((l.sync.map fun p => [(p.1, s.clk)]).getD [])
  (s.lossOfSync n l.cands).modLfr n fun l => { l with excluded := ex }

/-! ### Overhead (R155 to R166) -/

/-- R156: the multiframe.  The answer is the MFAS under which the LF is read while MF_LOCK = 1. -/
def State.multiframe (s : State) (n : Lane) (accepted : Bool) (mfas : Nat) : State × Option Nat :=
  let l := (s.lane n).lfr
  if s.is (fLFR_STATE_MF_LOCK n) then
    let want := s.get (fLFR_STATE_MFAS n)
    let miss := if !accepted then l.mfMiss else if mfas = want then 0 else l.mfMiss + 1
    if 5 ≤ miss then
      let s := (s.setB (fLFR_STATE_MF_LOCK n) false).modLfr n fun l =>
        { l with mfMiss := 0, lastMfas := some mfas, bipValid := 0 }
      (s.lfrDefects n, none)
    else
      ((s.set (fLFR_STATE_MFAS n) ((want + 1) % 256)).modLfr n fun l => { l with mfMiss := miss, lastMfas := some mfas }, some want)
  else if accepted && !s.is (fLFR_STATE_VERIFY n) then
    let lock := l.lastMfas.any fun m => (m + 1) % 256 == mfas
    let s := (s.set (fLFR_STATE_MFAS n) ((mfas + 1) % 256)).modLfr n fun l =>
      { l with lastMfas := some mfas, mfMiss := 0, bipValid := 0 }
    if lock then ((s.setB (fLFR_STATE_MF_LOCK n) true).lfrDefects n, some mfas) else (s, none)
  else (s, none)

/-- R157, R159: the section's parity, checked with VERIFY = 0.  The answer's flag says that the check showed
violations. -/
def State.sectionParity (s : State) (n : Lane) (accepted : Bool) (oh : List Byte) (payload : List Nat) : State × Bool :=
  let viol := match (s.lane n).lfr.sbip with
    | some b => if accepted && !s.is (fLFR_STATE_VERIFY n) then ones8 (Nat.xor b (fieldBytes oh 2 1)) else 0
    | none => 0
  let s := s.lfrCount n 0 viol
  let s := s.modTx n fun t => { t with sbeiAcc := min 65535 (t.sbeiAcc + viol) }
  (s.modLfr n fun l => { l with sbip := some (bip8 payload), sdBase := l.sdBase + viol }, viol != 0)

/-- R157, R159: SBEI and SBDI of an accepted LF. -/
def State.sectionBack (s : State) (n : Lane) (oh : List Byte) : State :=
  let l := (s.lane n).lfr
  let k := fieldBytes oh 3 1
  let s := s.lfrCount n 1 (k / 16)
  let s := if 16 ≤ k then s.sectionFar n else s
  let bdi := bitOf k 3
  let on := if bdi then l.rbdiOn + 1 else 0
  let off := if bdi then 0 else l.rbdiOff + 1
  let s := s.modLfr n fun l => { l with rbdiOn := min 3 on, rbdiOff := min 3 off }
  let was := s.is (fLFR_STATE_RBDI n)
  let now := if 3 ≤ on then true else if 3 ≤ off then false else was
  if was = now then s else ((s.touch n).setB (fLFR_STATE_RBDI n) now |>.raiseIf now (fLFR_ALARM_RBDI n)).touch n

/-- R38, R94, R165, R166: CIF, CDN and CAN of an accepted LF. -/
def State.courseFields (s : State) (n : Lane) (oh : List Byte) : State :=
  let cif := fieldBytes oh 4 4
  let cdn := fieldBytes oh 8 1 % 16
  let can := fieldBytes oh 9 4
  let s := (s.setNat (aLFR_COURSE_FAR n) cif).set (fLFR_STATE_CDN_RX n) cdn
  let s :=
    if cif = s.nat (aLFR_COURSE_RX n) then
      (s.modLfr n fun l => { l with differSince := none }).setB (fLFR_STATE_COURSE_MISMATCH n) false
    else s.modLfr n fun l => { l with differSince := some (l.differSince.getD s.tb0) }
  let mine := match s.crs.armed with
    | some a => a.number == can && a.rxWaits n
    | none => false
  let r := (s.lane n).rxd
  let follow := r.follow && (r.farNext.any fun p => p.1 == can)
  if 1 ≤ cdn && cdn ≤ 8 && (mine || follow) then
    let s := s.modLfr n fun l => { l with rxIn := some cdn }
    if mine then s.modArmed fun a => { a with seen := n.val :: a.seen.filter fun k => k != n.val } else s
  else s

/-- R161: the listed codes of REQ. -/
def psfListed (req : Nat) : Bool := [0, 2, 7, 11, 13, 14, 15].contains req

/-- R161, R162: a protection request of an accepted LF with MF_LOCK = 1.  DESIGN CHOICE (log entry 97): EXER that names an entry which
is not valid meets two rows of R162's table and is answered as EXER. -/
def State.psfRx (s : State) (n : Lane) (oh : List Byte) : State :=
  let b := fieldBytes oh 13 1
  let req := b / 16
  let sig := b % 16
  let seq := fieldBytes oh 15 1
  if !psfListed req || (s.lane n).lfr.psf = some (req, sig, seq) then s
  else
    let s := s.modLfr n fun l => { l with psf := some (req, sig, seq) }
    let s := (s.modTx n fun t => { t with echo := seq }).setNat (aLFR_PSF_RX n) (fieldBytes oh 13 4)
    let s := (s.lfrCount n 7 1).raise (fLFR_ALARM_PSF_NEW n)
    if !s.is (fLFR_CTRL_PSF_AUTO n) then s
    else
      let ask := fun (s : State) (k : Nat) (exer : Bool) =>
        s.modTx n fun t => { t with bridgeReq := t.bridgeReq ++ [⟨s.clk, k, exer⟩] }
      if sig = 0 || req = 0 || req = 15 then ask s 0 false
      else if req = 2 then ask s sig true
      else if s.bridgeOk n sig then ask s sig false
      else (ask s 0 false).raise (fLFR_ALARM_BRIDGE_REFUSED n)

/-- R163: management bytes, of which MGT can take `room`. -/
def State.mccRx (s : State) (n : Lane) (accepted : Bool) (room : Nat) (oh : List Byte) : State :=
  let k := min 24 (fieldBytes oh 33 1)
  if !s.is (fLFR_CTRL_MCC_EN n) || k = 0 then s
  else
    let t := if accepted then min k room else 0
    let s := if t = 0 then s else (s.lfrCount n 8 t).emit (.mgmt n (sliceBytes oh 34 t))
    if t = k then s else (s.lfrCount n 9 (k - t)).raise (fLFR_ALARM_MCC_DROP n)

/-- Consecutive entries that carry an indication, and that do not. -/
def tally (v : Bool) (on off : Nat) : Nat × Nat := if v then (min 2 (on + 1), 0) else (0, min 2 (off + 1))
/-- R159: a defect of two consecutive entries. -/
def judge2 (was : Bool) (t : Nat × Nat) : Bool := if t.1 = 2 then true else if t.2 = 2 then false else was

/-- R151, R159: the SSI entry of slot `m mod 128`, a slot at or beyond N among them. -/
def State.ssiRx (s : State) (n : Lane) (m : Nat) (oh : List Byte) : State :=
  let j := m % 128
  let a := fieldBytes oh 58 1
  let ty := fieldBytes oh 59 1
  let want := match groupAt (s.rxGroups n) j with
    | none => (0, 0)
    | some g => (128 + g.head, g.type)
  let s := (s.set (fLFR_SLOT_RX_HEAD n j) (a % 128)).set (fLFR_SLOT_RX_USED n j) (a / 128)
  let s := s.set (fLFR_SLOT_RX_TYPE n j) ty
  let x := (s.lane n).lfr.slots.getD j {}
  let t := tally ((a, ty) != want) x.ssimOn x.ssimOff
  let s := s.modLfr n fun l => { l with slots := modAt l.slots j fun x => { x with ssimOn := t.1, ssimOff := t.2 } }
  (s.setSlotDefect n (fLFR_SLOT_SSIM n j) (fLFR_ALARM_SSIM n) (judge2 (s.is (fLFR_SLOT_SSIM n j)) t)).slotAnswer n j

/-- R158: the parity and the backward count of the path entry of slot `j`, a slot of the receive format in force; `have_`
says that the whole of the path period it covers was seen. -/
def State.pathCounts (s : State) (n : Lane) (j : Nat) (have_ : Bool) (b0 b1 : Nat) : State :=
  let viol := if have_ then ones8 (Nat.xor b0 ((s.lane n).lfr.bip.before.getD j 0)) else 0
  let s := if viol = 0 then s else s.addCnt (aLFR_PBIP n j) viol
  let s := if b1 / 16 = 0 then s else s.addCnt (aLFR_PBEI n j) (b1 / 16)
  let s := s.modTx n fun t => { t with pbeiAcc := modAt t.pbeiAcc j fun v => min 65535 (v + viol) }
  s.modPmon n fun p =>
    { p with perErr := if viol = 0 then p.perErr else setAt p.perErr j true
             perFe := if b1 / 16 = 0 then p.perFe else setAt p.perFe j true }

/-- R158, R159: the path entry of slot `j`; an entry of a slot at or beyond N still carries its indications' end. -/
def State.pathRx (s : State) (n : Lane) (j : Nat) (have_ : Bool) (b0 b1 : Nat) : State :=
  let s := if j < (s.rxFmt n).slots then s.pathCounts n j have_ b0 b1 else s
  let x := (s.lane n).lfr.slots.getD j {}
  let ta := tally (bitOf b1 2) x.paisOn x.paisOff
  let tb := tally (bitOf b1 3) x.pbdiOn x.pbdiOff
  let s := s.modLfr n fun l => { l with slots := modAt l.slots j fun x =>
    { x with paisOn := ta.1, paisOff := ta.2, pbdiOn := tb.1, pbdiOff := tb.2 } }
  let s := s.setSlotDefect n (fLFR_SLOT_PAIS n j) (fLFR_ALARM_PAIS n) (judge2 (s.is (fLFR_SLOT_PAIS n j)) ta)
  let s := s.setSlotDefect n (fLFR_SLOT_PBDI n j) (fLFR_ALARM_PBDI n) (judge2 (s.is (fLFR_SLOT_PBDI n j)) tb)
  s.slotAnswer n j

/-- R158: the 16 path entries of an accepted LF. -/
def State.pathsRx (s : State) (n : Lane) (m : Nat) (oh : List Byte) : State :=
  let have_ := 8 ≤ (s.lane n).lfr.bipValid
  (List.range 16).foldl (fun s q =>
    s.pathRx n (16 * (m % 8) + q) have_ (fieldBytes oh (92 + 2 * q) 1) (fieldBytes oh (93 + 2 * q) 1)) s

/-- R158: a path period begins at an MFAS that is a multiple of 8; `bipValid` is 0 before the first period start since
the lock, 1 in the first period and 8 once a whole period stands before. -/
def State.periodStart (s : State) (n : Lane) (m : Nat) : State :=
  if m % 8 ≠ 0 then s
  else
    let seen := (s.lane n).lfr.bipValid
    let s := if 0 < seen then s.periodEnd n else s.periodCut n
    let s := s.modPmon n fun p =>
      { p with perErr := List.replicate 128 false, perFe := List.replicate 128 false, perFlag := false, perWhole := true, perLfs := 0 }
    s.modLfr n fun l => { l with
      bip := { now := List.replicate 128 0, before := l.bip.now }, bipValid := if seen = 0 then 1 else 8 }

/-! ### Demapping (R147 to R149, R155, R160, R162, R224) -/

/-- R148: J of a received code. -/
def codeJ (c : Nat) : Int := if c = 1 then 1 else if c = 2 then -1 else 0

/-- R148: slot `j`'s justification code. -/
def jcOf (oh : List Byte) (j : Nat) : Nat := bitsOf (fieldBytes oh (60 + j / 4) 1) (6 - 2 * (j % 4)) 2

/-- R162: data words of a group of lane `n` go to every lane whose bridge takes them. -/
def State.toBridges (s : State) (n : Lane) (g : Mapped) (ws : List Nat) : State :=
  s.eachLane fun b s =>
    let k := (s.lane b).tx.bridge
    if k = 0 || s.get (fLFR_PSF_BR_SRC_LANE b (k - 1)) ≠ n.val then s
    else
      match (s.bridged b k).find? fun h => h.flow == g.flow with
      | none => s
      | some h => s.modTx b fun t =>
        let had := (assocGet t.bridgeFifo h.head).getD []
        { t with
          bridgeFifo := assocPut t.bridgeFifo h.head ((had ++ ws).take (4 * divUp (groupX (s.rxFmt n) g.count) 256 + 64)) }

/-- R206: the far end has applied the armed Course on a lane, and the receive items here wait: the group of a flow that the
Course moves, or of every flow where it changes the format, is still the old one. -/
def State.lateGroup (s : State) (n : Lane) (g : Mapped) : Bool :=
  s.crs.armed.any fun a => a.rxWaits n && s.nat (aLFR_COURSE_FAR n) == a.number &&
    a.items.any fun i => i.spot == .rx n && (i.addr == aRXD_RX_FMT n || i.addr == aRXD_RX_RATE n
      || (aCLI_FLOW_CFG g.flow ≤ i.addr && i.addr < aCLI_FLOW_CFG g.flow + 0x20))

/-- R148, R149, R155, R160, R206: one group of a delivered LF.  `words` are the LF's payload words with their slots. -/
def State.demapGroup (s : State) (n : Lane) (m : Nat) (accepted flagged : Bool) (oh : List Byte)
    (words : List (Nat × Nat)) (g : Mapped) : State :=
  let f := s.rxFmt n
  let pais := g.list.any fun j => s.is (fLFR_SLOT_PAIS n j)
  let code := if accepted && !pais then jcOf oh g.head else 0
  let s := if code = 3 then (s.lfrCount n 6 1).raise (fLFR_ALARM_JC_ERR n) else s
  let mine := (words.filter fun p => bitOf g.slots p.2).map (·.1)
  let t := mine.length
  let d := dataWords f g.count m t (codeJ code)
  let data := ((List.range t).zip mine).filterMap fun p => if carriesData d t p.1 then some p.2 else none
  let ais := g.list.any fun j => s.is (fLFR_SLOT_AIS_OUT n j)
  let s := s.toBridges n g data
  let flagged := flagged || s.lateGroup n g
  let def_ := pais || g.list.any fun j => s.is (fLFR_SLOT_SSIM n j)
  let tap := fun (s : State) (k : Nat) => s.modTap fun t => { t with groups := t.groups ++ [(g.head, k, def_)] }
  if d = 0 then tap s 0
  else
    -- R224: no unit is processed while a slot of the group is in dPAIS
    let r := if !s.isProtected n g 1 then (s, data, flagged)
      else if pais then (s, data.dropLast.map fun _ => 0, true)
      else s.decUnit n g data flagged f.periodFs
    if ais then tap r.1 0 else (tap r.1 r.2.1.length).sink g (r.2.1.map fun w => (w, r.2.2))

/-- R158: the parities of a delivered LF enter the path period. -/
def State.pathParity (s : State) (n : Lane) (flagged : Bool) (words : List (Nat × Nat)) : State :=
  let s := s.modLfr n fun l => { l with bip := { l.bip with
    now := words.foldl (fun b p => modAt b p.2 fun x => Nat.xor x (bip8 [p.1])) l.bip.now } }
  s.modPmon n fun p => { p with perFlag := p.perFlag || flagged, perLfs := p.perLfs + 1 }

/-- R38, R94, R166: the receive items apply at the LF whose turn has come. -/
def State.rxCourseTurn (s : State) (n : Lane) : State :=
  match (s.lane n).lfr.rxIn with
  | none => s
  | some k =>
    if 1 < k then s.modLfr n fun l => { l with rxIn := some (k - 1) }
    else
      let s := s.modLfr n fun l => { l with rxIn := none }
      let before := s
      let mine := s.crs.armed.any fun a => a.rxWaits n
      let s := match (s.lane n).rxd.farNext with
        | some p => if (s.lane n).rxd.follow && (!mine || s.crs.armed.any fun a => a.number == p.1) then
            (((s.touch n).modRxd n fun r => { r with far := some p.2, farNext := none }).followTurn s n).mapChanges before n
          else s
        | none => s
      let s := if s.rxWords n = before.rxWords n then s else s.rxdCourse before n
      if mine then s.courseRx n else s

/-- R155 to R164, R268: what a delivered native LF tells of the section: parity, backward indications, Course fields,
multiframe, management bytes, TTF.  The answer is the MFAS under which the LF is demapped while MF_LOCK = 1. -/
def State.lfSection (s : State) (n : Lane) (lf : LfIn) (flagged : Bool) : State × Option Nat :=
  let oh := lf.overhead
  let accepted := lf.cw0 || !flagged
  let ver := s.is (fLFR_STATE_VERIFY n)
  let mark := ((s.lane n).lfr.marks.headD none)
  let s := s.modLfr n fun l => { l with marks := l.marks.drop 1 }
  let r := s.sectionParity n accepted oh (lf.payload.map BitVec.toNat)
  let s := if ver then r.1 else r.1.sectionBlock n (r.2 || flagged)
  let s := if accepted then (s.sectionBack n oh).courseFields n oh else s
  let q := s.multiframe n accepted (fieldBytes oh 0 1)
  let s := (q.1.mccRx n accepted lf.mgt oh).ttfRow n q.2.isSome mark
  (if accepted then s.ttfRx n (sliceBytes oh 17 16) else s, q.2)

/-- R155 to R166, R268: a delivered LF in a native format in `SYNC`. -/
def State.lfNative (s : State) (n : Lane) (lf : LfIn) (flagged : Bool) : State :=
  let oh := lf.overhead
  let accepted := lf.cw0 || !flagged
  let payload := lf.payload.map BitVec.toNat
  let fwd := (s.lt n).fwd
  let q := s.lfSection n lf flagged
  let s := q.1
  match q.2 with
    | none =>
      (s.periodCut n).tapLf { lane := n, defect := s.sectionDefect n, flagged := flagged, start := false, groups := [], timed := none }
    | some m =>
      let timed := match (s.lt n).fwd with
        | some (t1, t2, _) => if (s.lt n).fwd = fwd then none else some (t1, t2, s.is (fTIME_LANE_STATUS_FAR_LOCKED n))
        | none => none
      let s := s.periodStart n m
      let s := if accepted then ((s.psfRx n oh).ssiRx n m oh).pathsRx n m oh else s
      let f := s.rxFmt n
      let clear := scramble m payload
      let words := clear.zipIdx.map fun p => (p.1, slotOf f m p.2)
      let s := s.pathParity n flagged (payload.zipIdx.map fun p => (p.1, slotOf f m p.2))
      let s := s.tapLf
        { lane := n, defect := s.sectionDefect n, flagged := flagged, start := m % 8 == 0, groups := [], timed := timed }
      (s.rxGroups n).foldl (fun s g => s.demapGroup n m accepted flagged oh words g) s

/-- A bit string as bytes, first bit most significant. -/
def bytesOfBits : Nat → List Bool → List Byte
  | 0, _ => []
  | k + 1, bs => BitVec.ofNat 8 (natOfBits (bs.take 8)) :: bytesOfBits k (bs.drop 8)

/-- A bit string as payload words (R142). -/
def wordsOfBits : Nat → List Bool → List (BitVec 128)
  | 0, _ => []
  | k + 1, bs => BitVec.ofNat 128 (natOfBits (bs.take 128)) :: wordsOfBits k (bs.drop 128)

/-- R123, R142: the LF that the FEC hands to LFR, and how many information bits it has: the next one decoded from codewords,
none while it is not ready; where no codeword has come, the LF of the command (DESIGN CHOICE, log entry 68). -/
def State.lfNext (s : State) (n : Lane) (lf : LfIn) : Option (State × LfIn × Nat) :=
  let f := (s.lane n).fec
  if !f.fed then some (s, lf, infoBits (s.rxFmt n).fec)
  else match f.lfs with
  | [] => none
  | x :: _ =>
    (f.deliver (s.fecState n == 2) x).map fun r =>
      (s.modFec n fun _ => r.2,
       { lf with
         cw0 := x.cw0, overhead := bytesOfBits 160 (r.1.drop 640)
         payload := wordsOfBits (payloadWords x.fec) (r.1.drop 1920) }, infoBits x.fec)

/-- R138, R139, R167, R171: a frame of a ZR agreement is delivered. -/
def State.zrFrame (s : State) (n : Lane) (lf : LfIn) : State :=
  let s := if lf.cw0 then s else s.fecCount n 8 1
  let s := if s.is (fLFR_STATE_MF_LOCK n) == lf.zr.aligned then s
    else (s.setB (fLFR_STATE_MF_LOCK n) lf.zr.aligned).lfrDefects n
  let was := s.is (fLFR_STATE_RBDI n)
  let s := (s.setB (fLFR_STATE_RBDI n) lf.zr.bdi).raiseIf (lf.zr.bdi && !was) (fLFR_ALARM_RBDI n)
  let s := s.sectionBlock n (!lf.cw0)
  match s.cli.rxMap.find? fun x => bitOf x.2.1 0 && bitsOf x.2.1 16 3 == n.val with
  | none => s
  | some x =>
    if s.egressFault x.1 x.2.1 x.2.2 then s
    else lf.zr.frames.foldl (fun s fr => s.egressFrame x.1 x.2.1 fr.1 (!fr.2 || !lf.cw0)) s

/-- R155, R167, R171: an LF is delivered. -/
def execLfDelivered (n : Lane) (lf : LfIn) (s : State) : Ans :=
  if !s.laneUp n || s.alignState n ≠ 2 then .next s
  else if (s.rxFmt n).family ≠ 0 then
    -- R119: receive items apply at the first received frame boundary at or after the apply time
    let due := s.crs.armed.any fun a => a.rxWaits n && (a.struck || a.time ≤ s.tb0)
    let s := if due then s.courseRx n else s
    if (s.rxFmt n).family = 0 then .next s else .next (s.zrFrame n lf)
  else match s.lfNext n lf with
  | none => .next s
  | some _ =>
    -- R38, R137: the receive items apply at the boundary before the LF is taken in their format
    let s := (((s.sdCount n).lfrCount n 2 1).rxCourseTurn n).nlcBoundary n
    match s.lfNext n lf with
    | none => .next s
    | some (s, lf, i) =>
      if s.alignState n ≠ 2 then .next s
      else
        let f := s.fecLf n i (fieldBytes lf.overhead 1 1)
        let v := f.1.verify n lf.cw0
        let s := v.1.lfNative n lf f.2
        .next (if v.2 then s else s.verifyFail n)

end Sys2Proof.Machine
end

