-- ==== Sys2Proof/Machine/Steps.lean ====
section
/-!
DEFINITION. Steps of a time base: by the servo (R260, R261) or the host (R262), and what they do to Levels, bins, Courses
and launches (R28, R179, R277, R280).
-/

namespace Sys2Proof.Machine

/-- A TB0 instant moved with the counter. -/
def shiftNs (d : Int) (t : Nat) : Nat := ((t : Int) + d).toNat

/-- A TB0 second moved with the counter. -/
def shiftSec (d : Int) (t : Nat) : Nat := shiftNs d (1000000000 * t) / 1000000000

/-- Intervals that are kept as TB0 instants keep their length over a step of TB0 by `d` ns (log entry 28). -/
def State.shiftTb0 (s : State) (d : Int) : State :=
  let pair := fun (p : Nat × Nat) => (p.1, shiftNs d p.2)
  let s := s.modPlu fun p => { p with
    refs := p.refs.map fun r => { r with from_ := r.from_.map (shiftNs d), window := r.window.map (shiftNs d) }
    lockedSince := p.lockedSince.map (shiftNs d)
    hist := p.hist.map fun h => (shiftSec d h.1, h.2), ceased := shiftSec d p.ceased }
  let s := s.eachLane fun n s =>
    (s.modPmon n fun p => { p with lastSample := p.lastSample.map (shiftNs d) }).modLfr n fun l =>
      { l with differSince := l.differSince.map (shiftNs d) }
  let s := s.modArmed fun a => if a.struck then { a with time := shiftNs d a.time } else a
  { s with
    cst := { s.cst with lastSample := none }
    ciph := { s.ciph with ctxs := s.ciph.ctxs.map fun p => (p.1, { p.2 with
      lastAuth := p.2.lastAuth.map pair, nextAuth := p.2.nextAuth.map pair
      prev := p.2.prev.map fun k => { k with last := k.last.map pair } }) }
    cop := { s.cop with
      nextPoll := shiftNs d s.cop.nextPoll, announced := shiftNs d s.cop.announced
      out := s.cop.out.map fun o => { o with at_ := shiftNs d o.at_ } } }

/-- R172: the PLU cycle in which an ended second of the TB0 count in force is evaluated, 10 µs after its end. -/
def State.evalAt (s : State) (g : SecGather) : Nat :=
  let due := unitsPerNs * (1000010000 + 1000000000 * g.sec)
  g.due.getD (s.clk + divUp (due - (s.tbx 0).acc) (s.tbx 0).step)

/-- R179: the second in progress ends at a step of TB0 and is evaluated as complete, 10 µs after the step; seconds that
ended before it keep the PLU cycle of their evaluation. -/
def State.endSecond (s : State) : State :=
  s.eachLane fun n s =>
    let s := s.touch n
    s.modPmon n fun p => { p with ended := (p.ended.map fun g => { g with due := some (s.evalAt g) })
      ++ [{ p.gather with due := some (s.clk + evalCycles) }] }

/-- R172: this PLU cycle is the first of a TB0 second. -/
def State.secondStarts (s : State) : Bool := (s.tbx 0).acc % (1000000000 * unitsPerNs) < (s.tbx 0).step

/-- R172, R179: what is left of the second in which a step of TB0 lands is not evaluated (log entry 54); a step that lands on the
start of a second opens a whole one. -/
def State.beginSecond (s : State) : State := s.eachLane fun n s =>
  let g := s.openSecond n
  let g := if s.secondStarts then g else { g with live := false, paths := [], tribs := [] }
  (s.modPmon n fun p => { p with gather := g }).touch n

/-- R277: a step of TB0 to `new` ns acts on the armed Course. -/
def State.courseStep (s : State) (old new : Nat) : State :=
  match s.crs.armed with
  | none => s
  | some a =>
    let s := if a.time ≤ 100000 + new then s.modArmed fun a => { a with closed := true } else s
    if !a.struck && old < a.time && a.time ≤ new then s.courseStrobe true else s

/-- R260, R262: a time base is set to a counter value in one PLU cycle; a value outside 0 to 2^48 − 1 s is refused. -/
def State.tbStep (s : State) (x : Nat) (acc : Int) : State × Code :=
  if acc < 0 || ((unitsPerNs * (1000000000 * 2 ^ 48) : Nat) : Int) ≤ acc then (s.raise fTIME_ALARM_CFG_REFUSED, .valueInvalid)
  else
    let s := s.syncTbs
    let s := if x = 0 then s.endSecond else s
    let old := s.tbNs x
    let s := s.modTb x fun t => { t with acc := acc.toNat }
    let new := s.tbNs x
    let s := (s.addCnt32 (aTIME_TB_STEP_CNT x) 1).raise ⟨aTIME_ALARM, x, 1⟩
    let s := s.dropSamples x
    let st := s.get (fTbState x)
    let s := if st = 3 then s.setTbState x 2 else if st = 0 then s.setTbState x 1 else s
    let s := s.launchesCrossed x old
    if x ≠ 0 then (s, .ok)
    else
      let s := s.shiftTb0 ((new : Int) - old)
      let s := (s.beginSecond).suspectBins
      let s := if s.utcAt ≠ 0 && s.utcAt ≤ s.tb0Sec then s.utcAct s.tb0 else s
      ((s.lateLevel old new).courseStep old new, .ok)

/-- R262: the set of a time base. -/
def State.tbSet (s : State) (x : Nat) (t : Time80) : State × Code :=
  if 999999999 < t.ns then (s.raise fTIME_ALARM_CFG_REFUSED, .valueInvalid)
  else s.tbStep x (unitsPerNs * timeNs t : Nat)

/-- R262: a host's step of a time base by `d` ns. -/
def State.tbAdd (s : State) (x : Nat) (d : Int) : State × Code :=
  s.tbStep x (((s.tbx x).acc : Int) + d * (unitsPerNs : Int))

/-- R262: over PCIe the command stands for the writes of SET0 to SET2, over COP for that of 0x2110 + x:02. -/
def execTbSet (by_ : Source) (x : Fin 3) (t : Time80) (s : State) : Ans :=
  .next (s.byWrite by_ (aTIME_TB_SET x) fun s =>
    let s := ((s.setNat (aTIME_TB_SET x) t.ns).setNat (aTIME_TB_SET x + 4) t.sec).set ⟨aTIME_TB_SET x + 8, 0, 16⟩ (t.sec / 2 ^ 32)
    let r := s.tbSet x t
    r.1.answer by_ r.2)

/-- R262: over PCIe the command stands for the writes of STEP_LO and STEP_HI. -/
def execTbStep (by_ : Source) (x : Fin 3) (d : Int) (s : State) : Ans :=
  .next (s.byWrite by_ (aTIME_TB_STEP x) fun s =>
    let r := (s.setWide (aTIME_TB_STEP x) (ofSigned 64 d)).tbAdd x d
    r.1.answer by_ r.2)

/-- PLU cycles between servo updates (16 Hz). -/
def cyclesUpdate : Nat := 39062500

/-- R260: SLEW_MAX in 10^-13. -/
def State.slewMax (s : State) (x : Nat) : Nat := 1000000 * clampN 1 2000 (s.get (fTIME_TB_LOCK_SLEW_MAX x))

/-- R256, R260: the frequency of a servo at an update, in 10^-13: the loop of bandwidth BW (log entry 10), its phase slope within
SLEW_MAX, the whole within ±200 ppm. -/
def State.servoFreq (s : State) (x : Nat) (mean : Int) : State :=
  let r := Config.servoLoop (s.get (fTIME_TB_SERVO_BW x)) (s.servo x).integ mean
  let y := clampI (-2000000000) 2000000000 (r.2 + clampI (-(s.slewMax x : Int)) (s.slewMax x) r.1)
  ((s.modServo x fun v => { v with integ := clampI (-2000000000) 2000000000 r.2 }).modTb x fun t => { t with y := y }).setInt
    (aTIME_TB_FREQ x) y

/-- R260, R261: a servo takes the mean of the samples since the last update, in the units of the time bases and in ps: it
steps, or slews and judges lock. -/
def State.servoApply (s : State) (x : Fin 3) (mean ps : Int) : State :=
  let s := s.setInt (aTIME_TB_OFFSET x) (clampI (-2147483648) 2147483647 ps)
  let st := s.get (fTbState x)
  let far := unitsPerNs * s.nat (aTIME_TB_STEP_THR x) < mean.natAbs && s.is (fTIME_TB_SERVO_STEP_EN x)
  let within := ps.natAbs ≤ s.get (fTIME_TB_LOCK_LOCK_THR x)
  let s := s.modServo x fun r =>
    { r with within := if within then r.within + 1 else 0, beyond := if within then 0 else r.beyond + 1 }
  if st = 0 then
    let t := (s.tbStep x ((s.tbx x).acc - mean)).1
    if t.get (fTbState x) = 0 then t else t.setTbState x 2
  else if far then (s.tbStep x ((s.tbx x).acc - mean)).1
  else
    let s := s.servoFreq x mean
    let r := s.servo x
    if st = 2 && 16 ≤ r.within then s.setTbState x 3
    else if st = 3 && 16 ≤ r.beyond then s.setTbState x 2
    else s

/-- R260, R261: an update of a servo. -/
def execServoUpdate (x : Fin 3) (s : State) : Ans :=
  if s.cold then .next s
  else
    let s := (s.waitClk (cyclesUpdate + (s.servo x).update)).syncTbs
    let r := s.servo x
    let s := s.modServo x fun r => { r with update := s.clk, sum := 0, count := 0 }
    .next (if r.count = 0 then s else s.servoApply x (divNear r.sum r.count) (divNear r.sum (unitsPerPs * r.count)))

end Sys2Proof.Machine
end

