-- ==== Sys2Proof/Machine/Cal.lean ====
section
/-!
DEFINITION. CAL (15_calibration.md): runs, points, interpolation and the stored sets.  What the
sensors and the measurements read are operands (log entry 3).
-/

namespace Sys2Proof.Machine

def State.modCal (s : State) (f : CalState → CalState) : State := { s with cal := f s.cal }
def State.modRun (s : State) (f : CalRun → CalRun) : State := s.modCal fun c => { c with run := c.run.map f }
def State.calDom (s : State) (d : Nat) : CalDomain := s.cal.domains.getD d {}
def State.modDom (s : State) (d : Nat) (f : CalDomain → CalDomain) : State :=
  s.modCal fun c => { c with domains := modAt c.domains d f }

/-- CAL runs. -/
def State.calUp (s : State) : Bool := s.up && !s.held 14

def State.calCount (s : State) (j : Nat) : State := s.addCnt (aCAL_CNT j) 1

/-! ### Points and interpolation (R357 to R359) -/

/-- R367, R371: the items some of whose values a point has inherited, as a mask. -/
def CalPoint.mask (p : CalPoint) : Nat := p.inherited.foldl (fun m k => Nat.lor m (2 ^ (k % 8))) 0

/-- R371: CAL_DOMd_PTp and POINTS show the points of a domain. -/
def State.showPoints (s : State) (d : Nat) : State :=
  let ps := (s.calDom d).points
  let s := s.set (fCAL_DOM_STATUS_POINTS d) ps.length
  (List.range 8).foldl (fun s j =>
    s.setNat (aCAL_DOM_PT d j) (match ps[j]? with
      | none => 0
      | some p => ofSigned 16 p.temp + 2 ^ 16 + p.mask * 2 ^ 24)) s

/-- The values of a key at a point. -/
def CalPoint.val (p : CalPoint) (k : Nat) : List Int := (assocGet p.vals k).getD []

/-- R358: values on the way from one list to the other, `x` of `w` of the way; what is not listed is nominal. -/
def mixVals (a b : List Int) (x : Int) (w : Nat) : List (Int × Nat) :=
  (List.range (max a.length b.length)).map fun i =>
    let va := a.getD i 0
    (va * w + (b.getD i 0 - va) * x, w)

/-- Values as they are. -/
def plainVals (xs : List Int) : List (Int × Nat) := xs.map fun x => (x, 1)

/-- R358: the values of every key at a temperature. -/
def interpolate (ps : List CalPoint) (t : Int) : List (Nat × List (Int × Nat)) :=
  let keys := (ps.flatMap fun p => p.vals.map (·.1)).eraseDups
  let below := ps.filter fun p => p.temp ≤ t
  let above := ps.filter fun p => t < p.temp
  keys.map fun k => (k, match below.getLast?, above.head? with
    | some a, some b => mixVals (a.val k) (b.val k) (t - a.temp) (b.temp - a.temp).toNat
    | some a, none => plainVals (a.val k)
    | none, some b => plainVals (b.val k)
    | none, none => [])

/-- R359: a domain's temperature and source are within what the figures hold for. -/
def State.tempOk (s : State) (d : Nat) : Bool :=
  let t := s.int (aCAL_DIE_TEMP d)
  match (s.calDom d).points.head?, (s.calDom d).points.getLast? with
  | some a, some b => a.temp - 1000 ≤ t && t ≤ b.temp + 1000 && s.get (fCAL_DOM_STATUS_SOURCE d) != 0
      && !s.is (fCAL_DOM_STATUS_UNSTORED d)
  | _, _ => false

def State.judgeTemp (s : State) (d : Nat) : State :=
  let bad := !s.tempOk d
  let was := s.is (fCAL_DOM_STATUS_TEMP_RANGE d)
  (s.setB (fCAL_DOM_STATUS_TEMP_RANGE d) bad).raiseIf (bad && !was) fCAL_ALARM_TEMP_RANGE

/-- The spares of a die's lanes take the values in force. -/
def State.dieReload (s : State) (d : Nat) : State :=
  if h : d < 4 then (s.sparesReload ⟨2 * d, by omega⟩).sparesReload ⟨2 * d + 1, by omega⟩ else s

/-- R358: the values in force of a domain from its points and its temperature. -/
def State.calApply (s : State) (d : Nat) : State :=
  (s.modDom d fun x => { x with force := interpolate x.points (s.int (aCAL_DIE_TEMP d)) }).dieReload d

/-- R333, R356: the sensors of a domain's die, as inputs. -/
def dieSensors (d : Nat) : List Nat := if d = 4 then (List.range 8).map (40 + ·) else (List.range 4).map (48 + 4 * d + ·)

/-- R356: what the sensors of a domain's die read, corrected. -/
def State.dieReadings (s : State) (d : Nat) (temps : List Int) : List Int :=
  (dieSensors d).map fun k => s.sensorTemp k (temps.getD (k - 40) 0)

/-- The mean of values, rounded to the nearest (log entry 29). -/
def meanNear (xs : List Int) : Int := divNear (xs.foldl (· + ·) 0) xs.length

/-- R356, R362: the 24 sensors are read: the temperatures of the domains, and the history of the last 10 s. -/
def State.sensRead (s : State) (temps : List Int) : State :=
  if temps.length ≠ 24 then s
  else
    let s := (List.range 5).foldl (fun s d => s.setInt (aCAL_DIE_TEMP d) (meanNear (s.dieReadings d temps))) s
    let keep := s.cal.readings.takeWhile fun h => s.clk < h.1 + 6250000000
    s.modCal fun c => { c with
      first := some (c.first.getD s.clk), readings := (s.clk, temps) :: (keep ++ (c.readings.drop keep.length).take 1) }

/-- R358: the tick of every 100 ms. -/
def execCalInterpTick (temps : List Int) (s : State) : Ans :=
  if !s.calUp then .next s
  else
    let s := (s.waitClk (62500000 + s.cal.tick))
    let s := (s.modCal fun c => { c with tick := s.clk }).sensRead temps
    .next ((List.range 5).foldl (fun s d =>
      let s := if s.is fCAL_CTRL_INTERP_HOLD || s.is fCAL_STATUS_SAFE then s else s.calApply d
      s.judgeTemp d) s)

/-! ### Runs (R360 to R366) -/

def State.calState (s : State) : Nat := s.get fCAL_STATUS_STATE

/-- R371: a run changes state: RUN_TIME. -/
def State.calEnter (s : State) (st : Nat) : State :=
  let at_ := (s.cal.run.map (·.at_)).getD s.clk
  (s.set fCAL_STATUS_STATE st).setNat aCAL_RUN_TIME ((s.clk - at_) / 625)

/-- R363: the half of CONV_SPARE that slice step `i` works on, and its position (64 the spare). -/
def stepHalf (i : Nat) : Nat := i / 65
def stepPos (i : Nat) : Nat := i % 65

/-- R364: the items other than slice steps are being measured. -/
def CalRun.inBlocks (r : CalRun) : Bool := 1040 ≤ r.step

/-- The domains that a run touches. -/
def CalRun.domains (r : CalRun) : List Nat :=
  (List.range 5).filter fun d => (Nat.land r.items 15 != 0 && d == r.lane / 2) || (bitOf r.items 4 && d == 4) || bitOf r.items 5

/-- R361: the set that was in force before `QUALITY` is in force again, unchanged. -/
def State.calRestore (s : State) (r : CalRun) : State :=
  r.domains.foldl (fun s d =>
    let o := r.old.getD d {}
    (((s.modDom d fun x => { x with points := o.points, force := o.force }).dieReload d).showPoints d).judgeTemp d) s

/-- R361: a run ends `ABORTED`. -/
def State.calAbort (s : State) (result : Nat) : State :=
  match s.cal.run with
  | none => s
  | some r =>
    let n : Lane := Fin.ofNat 8 r.lane
    let s := if r.holds then s.calRelease n (stepHalf r.step) else s
    let s := if s.calState = 3 || s.calState = 4 then s.calRestore r else s
    let s := (((s.calEnter 6).set fCAL_STATUS_RESULT result).modCal fun c => { c with run := none }).staleShow
    let s := s.modConv n fun c => { c with calAborted := [] }
    ((s.calCount 1).raise fCAL_ALARM_RUN_END)

/-- R362: 10 s of history of the sensors exist since the reset. -/
def State.sensHistory (s : State) : Bool := s.cal.first.any fun c => 6250000000 + c ≤ s.clk

/-- The difference between the largest and the smallest of some values. -/
def spreadOf (xs : List Int) : Nat := (xs.foldl max (xs.headD 0) - xs.foldl min (xs.headD 0)).toNat

/-- R362: in every domain the sensors agree within 2.0 °C, and none has changed by more than 0.1 °C over the preceding 10 s. -/
def State.sensOk (s : State) : Bool :=
  let window := s.cal.readings.map (·.2)
  s.sensHistory && ((List.range 5).all fun d => spreadOf (s.dieReadings d (window.headD [])) ≤ 200)
    && (List.range 24).all fun j => spreadOf (window.map fun t => t.getD j 0) ≤ 10

/-- R362: the item of a run whose precondition fails. -/
def State.precond (s : State) (items : Nat) (n : Lane) : Option Nat :=
  let adc := s.get (fCONV_STATE_ADC_STATE n) == 2
  let dac := s.get (fCONV_STATE_DAC_STATE n) == 2
  let node := s.obj 0x1010 1 0xFFFF
  let ok := fun (i : Nat) => match i with
    | 0 => adc && dac && s.is (fCONV_STATE_REF_OK n)
    | 1 => dac
    | 2 => s.txdState n == 2 && (s.txFmt n).family == 0 && s.rxdState n == 7 && s.kscState n == 2
        && s.get (fKSC_FAR_ID_NODE n) == node && s.get (fKSC_FAR_ID_LANE n) == n.val
    | 3 => adc && s.is (fRXD_STATE_LOS n)
    | 4 => !s.is fHKM_STATUS_SAFE
    | _ => s.sensOk
  (List.range 6).find? fun i => bitOf items i && !ok i

/-- R362: a failed precondition ends the run. -/
def State.precondFail (s : State) (i : Nat) : State :=
  (((s.set fCAL_STATUS_FAILED_ITEM i).calCount 2).raise fCAL_ALARM_PRECOND).calAbort 2

/-- The first slice step of a run: ASH works on every converter half, DACLIN alone on the DAC halves. -/
def firstStep (items : Nat) : Nat := if bitOf items 0 then 0 else if bitOf items 1 then 520 else 1040

/-- R61: the spare of a half is on its way back from CAL. -/
def State.spareBusy (s : State) (n : Lane) (k : Nat) : Bool :=
  s.get (fCONV_SPARE_MODE n k) = 1 && s.spareRun n k != .none

/-- R363: the item of a measurement block, and the first block from `b` on that a run names. -/
def blockItem (b : Nat) : Nat := if b ≤ 4 then b else b - 1
def nextBlock (items b : Nat) : Option Nat := [2, 3, 4, 5, 6].find? fun i => b ≤ i && bitOf items (blockItem i)

/-- R362, R363, R364: the first block from `b` on starts, if its preconditions hold. -/
def State.blockStart (s : State) (b : Nat) : State :=
  match s.cal.run with
  | none => s
  | some r =>
    match nextBlock r.items b with
    | none => (s.modRun fun r => { r with block := 7 }).staleShow
    | some i =>
      match s.precond r.items (Fin.ofNat 8 r.lane) with
      | some k => s.precondFail k
      | none => (s.modRun fun r => { r with block := i }).staleShow

/-- R362, R363, R365: the next slice step starts, or waits until CONV has released the spare that the last one used: the half's
spare is taken where the slice is active; a half whose spare is refused is skipped whole. -/
def State.stepStart : Nat → State → State
  | 0, s => s
  | fuel + 1, s =>
    match s.cal.run with
    | none => s
    | some r =>
      if 1040 ≤ r.step then s.blockStart 2
      else if s.spareBusy (Fin.ofNat 8 r.lane) (stepHalf r.step) then s.modRun fun r => { r with waits := true }
      else match s.precond r.items (Fin.ofNat 8 r.lane) with
      | some i => s.precondFail i
      | none =>
        if stepPos r.step = 64 then s.modRun fun r => { r with inStep := true, holds := false }
        else
        let t := s.calTake (Fin.ofNat 8 r.lane) (stepHalf r.step) (stepPos r.step)
        if t.2 then t.1.modRun fun r => { r with inStep := true, holds := true }
        else
          let s := (s.setB fCAL_STATUS_SPARE_SKIPPED true).modRun fun r =>
            { r with step := 65 * (stepHalf r.step + 1), skipped := r.skipped ++ [stepHalf r.step] }
          State.stepStart fuel s

/-- R360: a write of CAL_CMD with START = 1. -/
def State.calStart (s : State) (items lane : Nat) : State × Code :=
  let st := s.calState
  if s.is fCAL_STATUS_SAFE then (s.raise fCAL_ALARM_CMD_REFUSED, .calSafe)
  else if items = 0 || !(st == 0 || st == 5 || st == 6) then (s.raise fCAL_ALARM_CMD_REFUSED, .calBusy)
  else
    let s := s.modCal fun c => { c with run := some { items := items, lane := lane, at_ := s.clk, step := firstStep items } }
    let s := s.modConv (Fin.ofNat 8 lane) fun c => { c with calAborted := [] }
    let s := s.setReg aCAL_STATUS 0
    ((s.calEnter 1).calCount 0, .ok)

/-- R365: a write of CAL_CMD with ABORT = 1: a slice step in progress finishes first; the safe state refuses it. -/
def State.calStop (s : State) : State × Code :=
  if s.is fCAL_STATUS_SAFE then (s.raise fCAL_ALARM_CMD_REFUSED, .calSafe)
  else match s.cal.run with
  | none => (s, .ok)
  | some r =>
    if s.calState = 2 && r.inStep then (s.modRun fun r => { r with abort := true }, .ok)
    else (s.calAbort 3, .ok)

/-- R360, R365: a write of CAL_CMD; the safe state refuses it whole. -/
def State.writeCalCmd (s : State) (v : Word) : State × Code :=
  if s.is fCAL_STATUS_SAFE then (s.raise fCAL_ALARM_CMD_REFUSED, .calSafe)
  else
  let s := s.setReg aCAL_CMD (v &&& 0x73F#32)
  let r := if v.toNat / 2 ^ 17 % 2 = 1 then s.calStop else (s, .ok)
  if v.toNat / 2 ^ 16 % 2 = 1 then r.1.calStart (fld v 0 6) (fld v 8 3) else r

def execCalStart (by_ : Source) (v : Word) (s : State) : Ans :=
  .next (s.byWrite by_ aCAL_CMD fun s =>
    let r := s.writeCalCmd (v ||| 0x10000#32)
    r.1.answer by_ r.2)

def execCalAbort (by_ : Source) (s : State) : Ans :=
  .next (s.byWrite by_ aCAL_CMD fun s => s.calStop.1.answer by_ s.calStop.2)

/-- R362: the PLU cycle until which `CHECK` waits for the sensors: 100 ms from the START, or from when 10 s of history exist. -/
def State.sensDue (s : State) (r : CalRun) : Nat := 62500000 + max r.at_ (6250000000 + s.cal.first.getD 0)

/-- R361, R362: `CHECK` ends; with SENS it waits until 10 s of history exist, and then for at most 100 ms. -/
def execCalCheckDone (temps : List Int) (s : State) : Ans :=
  match s.cal.run with
  | none => .next s
  | some r =>
    if !s.calUp || s.calState ≠ 1 then .next s
    else
      let s := s.sensRead temps
      match s.precond r.items (Fin.ofNat 8 r.lane) with
      | none => .next ((s.calEnter 2).stepStart 17)
      | some 5 => .next (if s.sensHistory then (s.waitClk (s.sensDue r)).precondFail 5 else s)
      | some i => .next (s.precondFail i)

/-- CAL_STATUS.ITEMS_DONE gains the slice items once their last step has ended. -/
def State.sliceItemsDone (s : State) : State :=
  match s.cal.run with
  | none => s
  | some r => if r.inBlocks then s.set fCAL_STATUS_ITEMS_DONE (Nat.land r.items 3) else s

/-- R60: after 16 parallel groups of a release the position supplies its samples again; a waiting retirement starts, and a
run that waits for the half goes on. -/
def execSpareReleaseSwitch (n : Lane) (k : Fin 16) (s : State) : Ans :=
  match s.spareRun n k with
  | .releasing _ =>
    let s := (s.spareIdle n k).spareNext n k
    .next (match s.cal.run with
      | some r =>
        if r.waits && r.lane == n.val && stepHalf r.step == k.val then
          ((s.modRun fun r => { r with waits := false }).stepStart 17).sliceItemsDone
        else s
      | none => s)
  | _ => .next s

/-- R363: a slice step ends, with the values it measured, and the next starts. -/
def execCalSliceStepEnd (ash dac temps : List Int) (s : State) : Ans :=
  match s.cal.run with
  | none => .next s
  | some r =>
    if !s.calUp || s.calState ≠ 2 || !(r.inStep || r.waits) then .next s
    else
      let n : Lane := Fin.ofNat 8 r.lane
      if (s.lane n).conv.calAborted ≠ [] then .next ((s.modRun fun r => { r with holds := false }).calAbort 3)
      else if r.waits then .next s
      else
        let s := if r.holds then s.calRelease n (stepHalf r.step) else s
        let d := r.lane / 2
        let put := fun (item : Nat) (xs : List Int) => if bitOf r.items item then
          [(d, item + 8 * (r.lane % 2) + 16 * stepHalf r.step, xs)] else []
        let got := put 0 ash ++ (if 520 ≤ r.step then put 1 dac else [])
        let s := s.modRun fun r =>
          { r with step := r.step + 1, inStep := false, holds := false, vals := r.vals ++ got }
        let s := s.set fCAL_STATUS_STEP (s.get fCAL_STATUS_STEP + 1)
        if r.abort then .next (s.calAbort 3) else .next (((s.sensRead temps).stepStart 17).sliceItemsDone)

/-- Values of one domain gathered per key, in the order measured.  A half that the run skipped has no key, so that its values
stay (R365). -/
def gatherVals (d : Nat) (vals : List (Nat × Nat × List Int)) : List (Nat × List Int) :=
  vals.foldl (fun m v => if v.1 = d then assocPut m v.2.1 (((assocGet m v.2.1).getD []) ++ v.2.2) else m) []

/-- R367: the temperature nearest to `t` among points, by index. -/
def nearestPoint (ps : List CalPoint) (t : Int) : Option Nat :=
  (List.range ps.length).foldl (fun best i => match best with
    | none => some i
    | some b => if ((ps.getD i ⟨0, [], []⟩).temp - t).natAbs < ((ps.getD b ⟨0, [], []⟩).temp - t).natAbs then some i else some b) none

/-- A point put into its place. -/
def insertPoint (p : CalPoint) : List CalPoint → List CalPoint
  | [] => [p]
  | q :: qs => if p.temp < q.temp then p :: q :: qs else q :: insertPoint p qs

/-- R355, R356: the keys of every value that a domain holds. -/
def domKeys (d : Nat) : List Nat :=
  if d = 4 then [4, 5]
  else ([0, 8].flatMap fun l => (List.range 16).map (fun h => l + 16 * h) ++ (List.range 8).map (fun h => 1 + l + 16 * (8 + h))
    ++ [2 + l, 3 + l]) ++ [5]

/-- R367: the points of domain `d` once a run at temperature `t` has written its point. -/
def writePoint (d : Nat) (ps : List CalPoint) (t : Int) (new : List (Nat × List Int)) : List CalPoint :=
  let near := nearestPoint ps t
  let close := near.filter fun i => ((ps.getD i ⟨0, [], []⟩).temp - t).natAbs ≤ 250
  let repl := match close with
    | some i => some i
    | none => if ps.length < 8 then none else near
  let kept := fun (keys : List Nat) => keys.filter fun k => !(new.map (·.1)).contains k
  match repl with
  | some i =>
    let p := ps.getD i ⟨0, [], []⟩
    insertPoint ⟨t, kept p.inherited, new.foldl (fun v x => assocPut v x.1 x.2) p.vals⟩ (ps.eraseIdx i)
  | none =>
    let base := (interpolate ps t).map fun x => (x.1, x.2.map fun q => divNear q.1 q.2)
    insertPoint ⟨t, kept (domKeys d), new.foldl (fun v x => assocPut v x.1 x.2) base⟩ ps

/-- R363: the offset of each sensor of a die by which it reads the mean of its die's sensors. -/
def State.sensOffsets (s : State) (d : Nat) (temps : List Int) : List Int :=
  (dieSensors d).map fun k => meanNear (s.dieReadings d temps) - temps.getD (k - 40) 0

/-- R363: what a measurement block gives: domain, key and values.  HKM's are those of one converter, HKA then HKB. -/
def State.blockVals (s : State) (r : CalRun) (temps values refs : List Int) : List (Nat × Nat × List Int) :=
  if r.block = 2 || r.block = 3 then [(r.lane / 2, r.block + 8 * (r.lane % 2), values)]
  else if r.block = 4 || r.block = 5 then
    [(4, 4, (List.range 8).map fun i => refs.getD i (if i % 2 = 0 then 0 else 52428) - if i % 2 = 0 then 0 else 52428)]
  else if r.block = 6 && temps.length = 24 then (List.range 5).map fun d => (d, 5, s.sensOffsets d temps)
  else []

/-- R361, R366, R367: `MEASURE` is complete: the points are formed and applied, and `QUALITY` starts.  Of a half that the run has
skipped nothing measured is taken (R365). -/
def State.measured (s : State) (r : CalRun) : State :=
  let all := r.vals.filter fun v => !(v.2.1 % 8 < 2 && r.skipped.contains (v.2.1 / 16))
  let s := s.set fCAL_STATUS_ITEMS_DONE r.items
  let s := s.modRun fun r => { r with old := (List.range 5).map s.calDom, vals := all }
  let s := r.domains.foldl (fun s d =>
    (s.modDom d fun x => { x with points := writePoint d x.points (s.int (aCAL_DIE_TEMP d)) (gatherVals d all) }).calApply d) s
  let lead := if Nat.land r.items 15 != 0 then r.lane / 2 else 4
  (s.setInt aCAL_RUN_TEMP (s.int (aCAL_DIE_TEMP lead))).calEnter 3

/-- R361, R363: a measurement block ends, with what it gives, and the next starts; after the last, measurement completes. -/
def execCalMeasureDone (temps values refs : List Int) (s : State) : Ans :=
  match s.cal.run with
  | none => .next s
  | some r =>
    if !s.calUp || s.calState ≠ 2 || !r.inBlocks then .next s
    else
      let s := s.sensRead temps
      let got := s.blockVals r temps values refs
      let s := s.modRun fun r => { r with vals := r.vals ++ got }
      let s := if r.block < 7 then s.blockStart (r.block + 1) else s
      match s.cal.run with
      | none => .next s
      | some r => .next (if r.block = 7 then s.measured r
          else s.set fCAL_STATUS_ITEMS_DONE (Nat.land r.items (2 ^ blockItem r.block - 1)))

/-! ### Images (R368, R369) -/

/-- R368: an image's payload, its points; the order of their bytes is the model's (log entry 29). -/
def CalPoint.bytes (p : CalPoint) : List Byte :=
  natBytes 2 (ofSigned 16 p.temp) ++ natBytes 2 p.mask ++ p.vals.flatMap fun v =>
    natBytes 2 v.1 ++ natBytes 2 v.2.length ++ v.2.flatMap fun x => natBytes 4 (ofSigned 32 x)
def calPayload (ps : List CalPoint) : List Byte := ps.flatMap CalPoint.bytes

/-- R368: bytes 0 to 11 of an image's header. -/
def CalImage.head (x : CalImage) : List Byte :=
  natBytes 4 x.magic ++ natBytes 1 x.domain ++ natBytes 1 x.held ++ natBytes 2 x.pages ++ natBytes 4 x.seq

/-- R369: a bank or the factory image is valid for a domain: MAGIC, domain and CRC are correct. -/
def CalImage.valid (x : CalImage) (d : Nat) : Bool :=
  x.magic == 0x43414C53 && x.domain == d && x.crc == crc32 (calPayload x.points ++ x.head)

/-- R368: the image of a domain's points. -/
def calImage (d seq : Nat) (ps : List CalPoint) : CalImage :=
  let x : CalImage := ⟨0x43414C53, d, ps.length, divUp (calPayload ps).length 256, seq, 0, ps⟩
  { x with crc := crc32 (calPayload ps ++ x.head) }

/-- R369: the newest valid image of the two banks, and whether it is bank B's. -/
def CalDomain.newest (x : CalDomain) (d : Nat) : Option (Bool × CalImage) :=
  match x.bankA.filter (·.valid d), x.bankB.filter (·.valid d) with
  | some a, some b => some (if serialGt b.seq a.seq then (true, b) else (false, a))
  | some a, none => some (false, a)
  | none, some b => some (true, b)
  | none, none => none

/-- R368: whether a store writes bank B, the bank that does not hold the newest valid image, and its SEQ. -/
def CalDomain.target (x : CalDomain) (d : Nat) : Bool × Nat :=
  match x.newest d with
  | some (b, i) => (!b, (i.seq + 1) % 2 ^ 32)
  | none => (false, 1)

/-- R361: a run ends `DONE`. -/
def State.calDone (s : State) (result : Nat) : State :=
  (((s.calEnter 5).set fCAL_STATUS_RESULT result).modCal fun c => { c with run := none }).raise fCAL_ALARM_RUN_END

/-- R370: the store of a run is refused. -/
def State.storeRefused (s : State) (r : CalRun) : State :=
  let s := r.domains.foldl (fun s d => (s.setB (fCAL_DOM_STATUS_UNSTORED d) true).judgeTemp d) s
  (s.calCount 4).calDone 5

/-- R361, R366, R368, R370: the figures are measured; the run stores, or the old values return.  While a bank is being
written it is not valid. -/
def execCalQualityDone (spur : Int) (skew eye : Nat) (s : State) : Ans :=
  match s.cal.run with
  | none => .next s
  | some r =>
    if !s.calUp || s.calState ≠ 3 then .next s
    else
      let conv := Nat.land r.items 3 != 0
      let ash := bitOf r.items 0
      let spur := if ash then spur else 0
      let skew := if ash then skew else 0
      let eye := if conv then eye else 0
      let s := ((s.setInt aCAL_Q_SPUR spur).setNat aCAL_Q_SKEW skew).setNat aCAL_Q_EYE eye
      let pass := !conv || ((!ash || (spur ≤ -4200 && skew ≤ 35)) && 7000 ≤ eye)
      let s := s.raiseIf (!pass) fCAL_ALARM_QUALITY
      if !pass && s.is fCAL_CTRL_QGATE then .next (s.calAbort 4)
      else
        let result := if !pass then 4 else if s.is fCAL_STATUS_SPARE_SKIPPED then 1 else 0
        let s := r.domains.foldl (fun s d => (s.showPoints d).judgeTemp d) s
        let s := (s.calEnter 4).set fCAL_STATUS_RESULT result
        if s.is fCAL_QUARRY_WORN then .next (s.storeRefused r)
        else .next (r.domains.foldl (fun s d => s.modDom d fun x =>
          if (x.target d).1 then { x with bankB := none } else { x with bankA := none }) s)

/-- R370: `failed` blocks are retired; the answer's flag says that no spare was left for one: Quarry is `WORN`. -/
def State.quarryRetire (s : State) (failed : Nat) : State × Bool :=
  let left := s.get fCAL_QUARRY_SPARE
  let s := s.set fCAL_QUARRY_SPARE (left - failed)
  if left < failed then ((s.setB fCAL_QUARRY_WORN true).raise fCAL_ALARM_QUARRY_WORN, true) else (s, false)

/-- R368, R370, R489: the store completes; no page program starts while VDD_NV is low. -/
def execCalStoreDone (failed : Nat) (s : State) : Ans :=
  match s.cal.run with
  | none => .next s
  | some r =>
    if !s.calUp || s.calState ≠ 4 || s.sec.nvLow then .next s
    else
      let q := s.quarryRetire failed
      let s := q.1
      if q.2 || s.is fCAL_QUARRY_WORN then .next (s.storeRefused r)
      else
        let s := r.domains.foldl (fun s d =>
          let x := s.calDom d
          let t := x.target d
          let img := calImage d t.2 x.points
          let s := s.modDom d fun x => if t.1 then { x with bankB := some img } else { x with bankA := some img }
          let s := ((s.set (fCAL_DOM_STATUS_SOURCE d) (if t.1 then 3 else 2)).setB (fCAL_DOM_STATUS_UNSTORED d) false)
          (s.setNat (aCAL_DOM_SEQ d) t.2).judgeTemp d) s
        .next ((s.calCount 3).calDone (s.get fCAL_STATUS_RESULT))

/-! ### Selection, safe state, reset (R365, R369, R458) -/

/-- R369: the image of a domain selected at a start. -/
def CalDomain.select (x : CalDomain) (d : Nat) : List CalPoint × Nat × Nat :=
  match x.newest d with
  | some (b, i) => (i.points, if b then 3 else 2, i.seq)
  | none => match x.factory.filter (·.valid d) with
    | some i => (i.points, 1, i.seq)
    | none => ([], 0, 0)

/-- R369: every domain takes its image. -/
def State.calLoad (s : State) : State :=
  (List.range 5).foldl (fun s d =>
    let x := (s.calDom d).select d
    let s := s.modDom d fun y => { y with points := x.1 }
    let s := ((s.set (fCAL_DOM_STATUS_SOURCE d) x.2.1).setB (fCAL_DOM_STATUS_UNSTORED d) false).setNat (aCAL_DOM_SEQ d) x.2.2
    let s := s.raiseIf (x.2.1 == 0) fCAL_ALARM_NO_SET
    let s := (s.showPoints d).calApply d
    if x.2.1 = 0 then s.judgeTemp d else s) s

/-- R365, R435: CAL enters its safe state. -/
def State.calSafe (s : State) : State :=
  ((s.calAbort 3).setB fCAL_STATUS_SAFE true).raise fCAL_ALARM_SAFE

/-- R365, R458: CAL enters its reset: the run ends at once, and CONV releases any spare it held. -/
def State.calReset (s : State) : State :=
  let s := match s.cal.run with
    | none => s
    | some r => if r.holds then s.calRelease (Fin.ofNat 8 r.lane) (stepHalf r.step) else s
  (s.modCal fun c => { c with run := none, first := none, readings := [] }).staleShow

/-- R365: a reset of a lane ends its run. -/
def State.calLaneReset (s : State) (n : Lane) : State :=
  match s.cal.run with
  | some r => if r.lane = n.val && Nat.land r.items 15 != 0 then (s.modRun fun r => { r with holds := false }).calAbort 3 else s
  | none => s

end Sys2Proof.Machine
end

