-- ==== Sys2Proof/Machine/MemInt.lean ====
section
/-!
DEFINITION. The events of the on-die arrays (16_memory_integrity.md): the fill, functional reads, partial writes and the
scrubber's steps.
-/

namespace Sys2Proof.Machine

/-- R378: the cold-reset fill starts: FILL of the fill arrays. -/
def State.memFillStart (s : State) : State :=
  (List.range 11).foldl (fun s a => s.setB (fMEM_ARR_STATUS_FILL a) (memFills a)) s

/-- R83, R378, R443, R491: every fill array is written, within 2.5 ms of the release; the outputs are driven from now on,
and every lane sends one `ZERO`. -/
def execMemFillDone (s : State) : Ans :=
  if s.cold || s.is fMEM_STATUS_FILL_DONE then .next s
  else
    let s := (List.range 11).foldl (fun s a => s.setB (fMEM_ARR_STATUS_FILL a) false) s
    .next (((s.setB fMEM_STATUS_FILL_DONE true).setB fGLB_STATUS_FILL_DONE true).eachLane fun n s => s.loZero n)

/-- R384: a message job that reads a word with an error ends with `MSG_INVALID`. -/
def State.jobsReading (s : State) (addr : Nat) : State :=
  s.running.foldl (fun s p =>
    let j := p.1
    let lo := s.jobSrc j
    if lo < 8 * addr + 8 && 8 * addr < lo + s.jobIn j then (s.jobWipe j).jobEnd j 3 0 else s) s

/-- R384: the armed launches whose frame lies over a word are sent with their FCS inverted. -/
def State.launchesReading (s : State) (addr : Nat) : State :=
  let hit := (List.range 32).filter fun d =>
    let ofs := s.get (fTIME_LAUNCH_BUF_OFS d)
    let len := clampN 64 2048 (s.get (fTIME_LAUNCH_BUF_LEN d))
    s.get (fTIME_LAUNCH_STATUS_PHASE d) == 1
      && ((65544 + 8 * addr - ofs % 65536) % 65536 < len + 8 || ofs / 8 % 8192 == addr)
  s.modMem fun m => { m with badLaunch := m.badLaunch ++ hit.filter fun d => !m.badLaunch.contains d }

/-- R375, R376, R384: a word is delivered to its reader. -/
def State.memGive (s : State) (a inst addr : Nat) (reader : MemReader) (data : Nat) : State :=
  match reader with
  | .host .pcie => if a = 5 then s.emit (.completion (busWord inst addr) data) else s.emit (.word a inst addr reader data)
  | _ => s.emit (.word a inst addr reader data)

/-- R384: what a reader takes from a word that is uncorrectable or poisoned.  What the words marked errored of arrays 9 and 10
become comes with the operands of the egress events. -/
def State.memReader (s : State) (a inst addr : Nat) (reader : MemReader) : State :=
  match reader with
  | .host .pcie =>
    let w := if a = 5 then busWord inst addr else winAddr 10 addr
    (s.logAcc .memError w false).emit (.abort w)
  | .host (.cop k) => s.answer (.cop k) .memError
  | .lodge core => if a = 3 then s.setReg aSEC_RST_STATUS (setFld (s.reg aSEC_RST_STATUS) (16 + core.val) 1 1) else s
  | .owner =>
    match a with
    | 0 => s.zeroise fun k => k == addr / 8
    | 1 => s.ctxStop (addr / 16) 2
    | 4 => (s.memGive 4 inst addr reader 0).unpoison 4 inst addr
    | 5 => if inst = 10 then s.jobsReading addr else if inst = 12 then s.launchesReading addr else s
    | 6 => s.memSet 6 inst addr 0
    | 7 => s.memGive 7 inst addr reader 0
    | 8 => s.memGive 8 inst addr reader 0
    | _ => s

/-- R380: the function that owns an instance is held in reset; nothing but its refill accesses it then. -/
def State.arrHeld (s : State) (a inst : Nat) : Bool :=
  if a = 9 || a = 10 then inst < 2 && s.held (8 + inst)
  else if a = 6 then s.held inst
  else (inst < 8 && (4 ≤ a)) && s.held inst || (inst == 10 && s.held 10)

/-- R379: what the owner of a word has written there in full since the last command on it. -/
def State.memWrote (s : State) (a inst addr : Nat) (w : Option (BitVec 64)) : State :=
  match w with
  | some w => if a = 6 || s.arrHeld a inst then s else s.memWrite a inst addr w.toNat
  | none => s

/-- R3: an instance of an array is there: on OL2560-NB those of the cipher engine, fused off, are not (log entry 30). -/
def State.arrHere (s : State) (a inst : Nat) : Bool := s.ciph.fitted || !(a ≤ 1 || (a == 5 && inst == 10))

/-- R375, R376, R379, R384: a functional read; of an instance that is not there COP hears `OBJ_ABSENT` (R3). -/
def execMemArrayRead (a : Fin 11) (inst : Fin 16) (addr : Nat) (wrote : Option (BitVec 64)) (flips : BitVec 80)
    (reader : MemReader) (s : State) : Ans :=
  if s.cold || !s.is fMEM_STATUS_FILL_DONE || memWords a inst ≤ addr then .next s
  else if !s.arrHere a inst then
    .next (match reader with
      | .host (.cop k) => s.answer (.cop k) .objAbsent
      | _ => s)
  else if reader = .owner && s.arrHeld a inst then .next s
  else
    let s := (if a.val = 5 then s.memFlush else s).memWrote a inst addr wrote
    if s.memBlank a inst addr then .next (s.memGive a inst addr reader 0)
    else
      let v := verdict (syndromes (s.isPoisoned a inst addr) flips.toNat)
      let data := Nat.xor (s.memWord a inst addr) (residual v flips.toNat)
      let r := s.memCheck a inst addr flips.toNat
      .next (if r.2 then r.1.memGive a inst addr reader data else r.1.memReader a inst addr reader)

/-- The bytes of a partial write in a host window. -/
def State.winMerge (s : State) (inst addr ofs : Nat) (bytes : List Byte) : State :=
  bytes.zipIdx.foldl (fun s p =>
    let k := ofs + p.2
    if k < 8 then s.set ⟨winAddr inst addr + k / 4 * 4, 8 * (3 - k % 4), 8⟩ p.1.toNat else s) s

/-- The bytes of a partial write in a word of another array, in the order of those of a window. -/
def State.memMerge (s : State) (a inst addr ofs : Nat) (bytes : List Byte) : State :=
  s.memSet a inst addr (bytes.zipIdx.foldl (fun w p =>
    let k := ofs + p.2
    withBits w (32 * (k / 4) + 8 * (3 - k % 4)) 8 p.1.toNat) (s.memWord a inst addr))

/-- R379, R381: a partial write; in the host windows it is the host's. -/
def execMemPartialWrite (by_ : Source) (a : Fin 11) (inst : Fin 16) (addr : Nat) (ofs : Fin 8) (bytes : List Byte)
    (flips : BitVec 80) (s : State) : Ans :=
  if s.cold || !s.is fMEM_STATUS_FILL_DONE || memWords a inst ≤ addr || bytes.length = 0 || 8 < ofs.val + bytes.length
      || bytes.length = 8 then .next s
  else if !s.arrHere a inst then .next (s.byWrite by_ (winAddr inst addr) fun s => s.answer by_ .objAbsent)
  else if a.val = 5 && (inst.val = 10 || inst.val = 12) then
    let w := winAddr inst addr + ofs.val / 4 * 4
    .next (s.byWrite by_ w fun s =>
      let p := s.memFlush.memPartial 5 inst addr flips.toNat fun s => s.winMerge inst addr ofs bytes
      if p.2 then p.1.answer by_ .ok else p.1.refuse by_ w .memError .memError)
  else
    let p := s.memPartial a inst addr flips.toNat fun s => s.memMerge a inst addr ofs bytes
    .next (if p.2 then p.1 else
      match by_ with
      | .pcie => p.1
      | .cop k => p.1.answer (.cop k) .memError)

/-- R385: the scrubber moves on: at the end of an instance to word 0; SWEEP_CNT counts when every instance of the array
has come to its end since. -/
def State.scrubNext (s : State) (a inst addr : Nat) : State :=
  if addr + 1 < memWords a inst then s.modMem fun m => { m with scrub := assocPut m.scrub (16 * a + inst) (addr + 1) }
  else
    let done := (16 * a + inst) :: s.mem.swept.filter fun k => k != 16 * a + inst
    let s := s.modMem fun m => { m with scrub := assocDel m.scrub (16 * a + inst) }
    if (memInsts a).all fun i => !s.arrHere a i || done.contains (16 * a + i) then
      (s.modMem fun m => { m with swept := done.filter fun k => k / 16 != a }).addCnt (aMEM_ARR_SWEEP_CNT a) 1
    else s.modMem fun m => { m with swept := done }

/-- R13, R373: the nominal clock of the island of an instance in kHz. -/
def memClock (a inst : Nat) : Nat :=
  if a ≤ 1 || (a == 5 && inst == 10) then 1250000
  else if a ≤ 3 then 1000000
  else if a = 5 && inst = 12 then 625000
  else if (a ≤ 8 && inst < 8) || (a == 10 && inst == 2) then 1406250 else 1328125

/-- R13, R235: how far the clock of the island of an instance is off its nominal frequency, in 10^-12: with OSCIN not at all, on
a lane's receive island as its recovered timing, else with the DPLL. -/
def State.memOffset (s : State) (a inst : Nat) : Int :=
  if a ≤ 3 || (a == 5 && 10 ≤ inst) then 0
  else if (a == 5 || a == 7 || a == 8) && inst < 8 && s.is (fPLU_REF_STATUS_VALID inst) then s.int (aPLU_REF_FREQ inst)
  else s.outFreq

/-- R385: the PLU cycle at which the next step in an instance is due: 2^K cycles of its island after the last. -/
def State.scrubDue (s : State) (a inst : Nat) : Nat :=
  match assocGet s.mem.scrubAt (16 * a + inst) with
  | none => s.clk
  | some c => c + divUp (2 ^ s.get (fMEM_ARR_CFG_K a) * 625000 * 10 ^ 12) (memClock a inst * (10 ^ 12 + s.memOffset a inst).toNat)

/-- R379, R385, R386, R435: a step of the scrubber in one instance. -/
def execMemScrubStep (a : Fin 11) (inst : Fin 16) (wrote : Option (BitVec 64)) (flips : BitVec 80) (overwritten : Bool)
    (s : State) : Ans :=
  if s.cold || !s.is fMEM_STATUS_FILL_DONE || s.safe 15 || !s.is fMEM_CTRL_SCRUB_EN || !s.is (fMEM_ARR_CFG_EN a)
      || memWords a inst = 0 || !s.arrHere a inst then .next s
  else
    let s := s.waitClk (s.scrubDue a inst)
    let s := s.modMem fun m => { m with scrubAt := assocPut m.scrubAt (16 * a.val + inst.val) s.clk }
    let addr := (assocGet s.mem.scrub (16 * a.val + inst.val)).getD 0
    let s := s.memWrote a inst addr wrote
    if s.memBlank a inst addr then .next (s.scrubNext a inst addr)
    else
      let syn := syndromes (s.isPoisoned a inst addr) flips.toNat
      let v := verdict syn
      let back := fun (s : State) => if overwritten then s else s.memXor a inst addr (residual v flips.toNat)
      let s := match v with
        | .clean => s
        | .poisoned => s
        | .uncorrectable =>
          let s := ((back s).memLog 7 a inst addr syn).raise fMEM_ALARM_UE
          if overwritten then s else s.poison a inst addr
        | _ => back (s.memLog 2 a inst addr syn)
      .next (s.scrubNext a inst addr)

end Sys2Proof.Machine
end

