-- ==== Sys2Proof/Machine/Sha.lean ====
section
/-!
DEFINITION. SHA-256, SHA-512 and HMAC (FIPS 180-4, FIPS 198-1), which the spec names for session tags (R403), image
and record hashes (R322, R444) and the quote (R456).
-/

namespace Sys2Proof.Machine

/-- The round constants of SHA-512; the high halves of the first 64 are those of SHA-256. -/
def sha512K : List Nat :=
  [0x428A2F98D728AE22, 0x7137449123EF65CD, 0xB5C0FBCFEC4D3B2F, 0xE9B5DBA58189DBBC, 0x3956C25BF348B538,
   0x59F111F1B605D019, 0x923F82A4AF194F9B, 0xAB1C5ED5DA6D8118, 0xD807AA98A3030242, 0x12835B0145706FBE,
   0x243185BE4EE4B28C, 0x550C7DC3D5FFB4E2, 0x72BE5D74F27B896F, 0x80DEB1FE3B1696B1, 0x9BDC06A725C71235,
   0xC19BF174CF692694, 0xE49B69C19EF14AD2, 0xEFBE4786384F25E3, 0x0FC19DC68B8CD5B5, 0x240CA1CC77AC9C65,
   0x2DE92C6F592B0275, 0x4A7484AA6EA6E483, 0x5CB0A9DCBD41FBD4, 0x76F988DA831153B5, 0x983E5152EE66DFAB,
   0xA831C66D2DB43210, 0xB00327C898FB213F, 0xBF597FC7BEEF0EE4, 0xC6E00BF33DA88FC2, 0xD5A79147930AA725,
   0x06CA6351E003826F, 0x142929670A0E6E70, 0x27B70A8546D22FFC, 0x2E1B21385C26C926, 0x4D2C6DFC5AC42AED,
   0x53380D139D95B3DF, 0x650A73548BAF63DE, 0x766A0ABB3C77B2A8, 0x81C2C92E47EDAEE6, 0x92722C851482353B] ++
  [0xA2BFE8A14CF10364, 0xA81A664BBC423001, 0xC24B8B70D0F89791, 0xC76C51A30654BE30, 0xD192E819D6EF5218,
   0xD69906245565A910, 0xF40E35855771202A, 0x106AA07032BBD1B8, 0x19A4C116B8D2D0C8, 0x1E376C085141AB53,
   0x2748774CDF8EEB99, 0x34B0BCB5E19B48A8, 0x391C0CB3C5C95A63, 0x4ED8AA4AE3418ACB, 0x5B9CCA4F7763E373,
   0x682E6FF3D6B2B8A3, 0x748F82EE5DEFB2FC, 0x78A5636F43172F60, 0x84C87814A1F0AB72, 0x8CC702081A6439EC,
   0x90BEFFFA23631E28, 0xA4506CEBDE82BDE9, 0xBEF9A3F7B2C67915, 0xC67178F2E372532B, 0xCA273ECEEA26619C,
   0xD186B8C721C0C207, 0xEADA7DD6CDE0EB1E, 0xF57D4F7FEE6ED178, 0x06F067AA72176FBA, 0x0A637DC5A2C898A6,
   0x113F9804BEF90DAE, 0x1B710B35131C471B, 0x28DB77F523047D84, 0x32CAAB7B40C72493, 0x3C9EBE0A15C9BEBC,
   0x431D67C49C100D4C, 0x4CC5D4BECB3E42B6, 0x597F299CFC657E2A, 0x5FCB6FAB3AD6FAEC, 0x6C44198C4A475817]

/-- The initial hash value of SHA-512; its high halves are that of SHA-256. -/
def sha512H : List Nat :=
  [0x6A09E667F3BCC908, 0xBB67AE8584CAA73B, 0x3C6EF372FE94F82B, 0xA54FF53A5F1D36F1,
   0x510E527FADE682D1, 0x9B05688C2B3E6C1F, 0x1F83D9ABFB41BD6B, 0x5BE0CD19137E2179]

/-- Rotation right in words of `w` bits. -/
def rotr (w x n : Nat) : Nat := (x / 2 ^ n + x * 2 ^ (w - n)) % 2 ^ w

/-- The functions of a round and of the schedule: three rotations or two rotations and a shift. -/
def shaSum (w a b c x : Nat) : Nat := Nat.xor (Nat.xor (rotr w x a) (rotr w x b)) (rotr w x c)
def shaSig (w a b c x : Nat) : Nat := Nat.xor (Nat.xor (rotr w x a) (rotr w x b)) (x / 2 ^ c)

/-- The message schedule, newest word first: `n` words more. -/
def shaSchedule (w : Nat) : Nat → List Nat → List Nat
  | 0, l => l
  | n + 1, l =>
    let s1 := if w = 64 then shaSig w 19 61 6 (l.getD 1 0) else shaSig w 17 19 10 (l.getD 1 0)
    let s0 := if w = 64 then shaSig w 1 8 7 (l.getD 14 0) else shaSig w 7 18 3 (l.getD 14 0)
    shaSchedule w n ((s1 + l.getD 6 0 + s0 + l.getD 15 0) % 2 ^ w :: l)

/-- One round over the working variables a to h. -/
def shaRound (w : Nat) (v : List Nat) (kw : Nat) : List Nat :=
  match v with
  | [a, b, c, d, e, f, g, h] =>
    let s1 := if w = 64 then shaSum w 14 18 41 e else shaSum w 6 11 25 e
    let s0 := if w = 64 then shaSum w 28 34 39 a else shaSum w 2 13 22 a
    let ch := Nat.xor (Nat.land e f) (Nat.land (Nat.xor e (2 ^ w - 1)) g)
    let maj := Nat.xor (Nat.xor (Nat.land a b) (Nat.land a c)) (Nat.land b c)
    let t1 := h + s1 + ch + kw
    [(t1 + s0 + maj) % 2 ^ w, a, b, c, (d + t1) % 2 ^ w, e, f, g]
  | v => v

/-- The constants for words of `w` bits, 64 or 32. -/
def shaK (w : Nat) : List Nat := if w = 64 then sha512K else (sha512K.take 64).map (· / 2 ^ 32)
def shaH (w : Nat) : List Nat := if w = 64 then sha512H else sha512H.map (· / 2 ^ 32)

/-- One block of 16 words. -/
def shaBlock (w : Nat) (h : List Nat) (block : List Byte) : List Nat :=
  let m := (List.range 16).map fun i => fieldBytes block (i * (w / 8)) (w / 8)
  let sched := (shaSchedule w ((shaK w).length - 16) m.reverse).reverse
  let v := (List.zipWith (· + ·) (shaK w) sched).foldl (shaRound w) h
  List.zipWith (fun a b => (a + b) % 2 ^ w) h v

/-- The padded message. -/
def shaPad (w : Nat) (msg : List Byte) : List Byte :=
  let blk := 2 * w
  let len := msg.length + 1 + w / 4
  msg ++ [0x80] ++ List.replicate ((blk - len % blk) % blk) 0 ++ natBytes (w / 4) (8 * msg.length)

/-- The blocks of a padded message in turn. -/
def shaBlocks (w : Nat) : Nat → List Byte → List Nat → List Nat
  | 0, _, h => h
  | n + 1, bs, h => shaBlocks w n (bs.drop (2 * w)) (shaBlock w h (bs.take (2 * w)))

/-- The hash with words of `w` bits: SHA-512 for 64, SHA-256 for 32. -/
def sha (w : Nat) (msg : List Byte) : List Byte :=
  let p := shaPad w msg
  (shaBlocks w (p.length / (2 * w)) p (shaH w)).flatMap fun x => natBytes (w / 8) x

def sha512 (msg : List Byte) : List Byte := sha 64 msg
def sha256 (msg : List Byte) : List Byte := sha 32 msg

/-- HMAC over the hash of words of `w` bits; its block has `2 w` bytes. -/
def hmac (w : Nat) (key msg : List Byte) : List Byte :=
  let k := if 2 * w < key.length then sha w key else key
  let k := k ++ List.replicate (2 * w - k.length) 0
  sha w (k.map (· ^^^ 0x5C) ++ sha w (k.map (· ^^^ 0x36) ++ msg))

def hmacSha256 (key msg : List Byte) : List Byte := hmac 32 key msg
def hmacSha512 (key msg : List Byte) : List Byte := hmac 64 key msg

end Sys2Proof.Machine
end

