-- ==== Sys2Proof/Machine/P521.lean ====
section
/-!
DEFINITION. ECDSA over P-521 with SHA-512 (FIPS 186-5), with which images, patches, records and quotes are signed (R323,
R329, R444, R456), and the deterministic nonces of RFC 6979 that R323 names.
-/

namespace Sys2Proof.Machine

/-- The field prime, the order of the base point, the constant b and the base point. -/
def p521 : Nat := 2 ^ 521 - 1
def n521 : Nat := 2 ^ 521 -
  657877501894328237357444332315020117536923257219387276263472201219398408051703
def b521 : Nat :=
  0x51953EB9618E1C9A1F929A21A0B68540EEA2DA725B99B315F3B8B489918EF109E156193951EC7E937B1652C0BD3BB1BF073573DF883D2C34F1EF451FD46B503F00
def g521 : Nat × Nat :=
  (0xC6858E06B70404E9CD9E3ECB662395B4429C648139053FB521F828AF606B4D3DBAA14B5E77EFE75928FE1DC127A2FFA8DE3348B3C1856A429BF97E7E31C2E5BD66,
   0x11839296A789A3BC0045C8A5FB42C7D1BD998F54449579B446817AFBD17273E662C97EE72995EF42640C550B9013FAD0761353C7086A272C24088BE94769FD16650)

/-- A power modulo `m`, over `f` bits of the exponent. -/
def powMod (m : Nat) : Nat → Nat → Nat → Nat
  | 0, _, _ => 1 % m
  | f + 1, x, e =>
    let r := powMod m f (x * x % m) (e / 2)
    if e % 2 = 1 then r * x % m else r

/-- The inverse modulo a prime (Fermat). -/
def invMod (m x : Nat) : Nat := powMod m 521 (x % m) (m - 2)

/-- Subtraction modulo `m`. -/
def subMod (m a b : Nat) : Nat := (a + (m - b % m)) % m

/-- Addition of points of the curve; `none` is the point at infinity. -/
def ecAdd (a b : Option (Nat × Nat)) : Option (Nat × Nat) :=
  match a, b with
  | none, b => b
  | a, none => a
  | some (x1, y1), some (x2, y2) =>
    if x1 = x2 && (y1 + y2) % p521 = 0 then none
    else
      let l := if x1 = x2 then subMod p521 (3 * x1 * x1) 3 * invMod p521 (2 * y1) % p521
        else subMod p521 y2 y1 * invMod p521 (subMod p521 x2 x1) % p521
      let x := subMod p521 (l * l) (x1 + x2)
      some (x, subMod p521 (l * subMod p521 x1 x) y1)

/-- A multiple of a point, over `f` bits of the factor. -/
def ecMul : Nat → Nat → Option (Nat × Nat) → Option (Nat × Nat)
  | 0, _, _ => none
  | f + 1, k, q =>
    let r := ecMul f (k / 2) (ecAdd q q)
    if k % 2 = 1 then ecAdd q r else r

/-- The point of a public key of 133 bytes, 0x04 ‖ X ‖ Y, if it lies on the curve. -/
def pointOf (key : List Byte) : Option (Nat × Nat) :=
  let x := fieldBytes key 1 66
  let y := fieldBytes key 67 66
  if key.length = 133 && fieldBytes key 0 1 = 4 && x < p521 && y < p521
      && y * y % p521 = (subMod p521 (x * x * x) (3 * x) + b521) % p521 then some (x, y)
  else none

/-- A public key of 133 bytes from a private key. -/
def publicKey (d : Nat) : List Byte :=
  match ecMul 521 d (some g521) with
  | some (x, y) => 4 :: (natBytes 66 x ++ natBytes 66 y)
  | none => []

/-- The signature r, s of 132 bytes over a message verifies under a public key. -/
def ecdsaVerify (key msg sig : List Byte) : Bool :=
  let r := fieldBytes sig 0 66
  let s := fieldBytes sig 66 66
  match pointOf key with
  | none => false
  | some q =>
    if sig.length = 132 && 0 < r && r < n521 && 0 < s && s < n521 then
      let w := invMod n521 s
      let e := bytesNat (sha512 msg)
      match ecAdd (ecMul 521 (e * w % n521) (some g521)) (ecMul 521 (r * w % n521) (some q)) with
      | some (x, _) => x % n521 == r
      | none => false
    else false

/-- The signature with private key `d` and nonce `k`. -/
def ecdsaSignWith (d k : Nat) (msg : List Byte) : List Byte :=
  let r := match ecMul 521 k (some g521) with
    | some (x, _) => x % n521
    | none => 0
  let s := invMod n521 k * (bytesNat (sha512 msg) + r * d) % n521
  natBytes 66 r ++ natBytes 66 s

/-- RFC 6979: the next candidates for the nonce, until one lies in range. -/
def rfc6979Loop : Nat → List Byte → List Byte → Nat
  | 0, _, _ => 1
  | f + 1, k, v =>
    let v1 := hmacSha512 k v
    let v2 := hmacSha512 k v1
    let t := bytesNat (v1 ++ v2) / 2 ^ 503
    if 0 < t && t < n521 then t
    else
      let k := hmacSha512 k (v2 ++ [0])
      rfc6979Loop f k (hmacSha512 k v2)

/-- The nonce of RFC 6979 for a private key and a message. -/
def rfc6979 (d : Nat) (msg : List Byte) : Nat :=
  let x := natBytes 66 d ++ natBytes 66 (bytesNat (sha512 msg) % n521)
  let v := List.replicate 64 1
  let k := hmacSha512 (List.replicate 64 0) (v ++ [0] ++ x)
  let v := hmacSha512 k v
  let k := hmacSha512 k (v ++ [1] ++ x)
  rfc6979Loop 64 k (hmacSha512 k v)

/-- The signature with the nonce of RFC 6979. -/
def ecdsaSign (d : Nat) (msg : List Byte) : List Byte := ecdsaSignWith d (rfc6979 d msg) msg

end Sys2Proof.Machine
end

