-- ==== Sys2Proof/Machine/Cst.lean ====
section
/-!
DEFINITION. Cornerstone (13_cornerstone.md): TB3, what is counted, bins, Level banks, records, checkpoints, patches,
resets, and the window.
-/

namespace Sys2Proof.Machine

/-! ### TB3 (R317 to R319) -/

/-- TB3 in ns, and in seconds. -/
def State.tb3Ns (s : State) : Nat := s.cst.tb3.acc / unitsPerNs
def State.tb3Sec (s : State) : Nat := s.tb3Ns / 1000000000

/-- Time passes until TB3 reaches `ns`, if it lies ahead. -/
def State.waitTb3 (s : State) (ns : Nat) : State :=
  let t := s.cst.tb3
  if t.acc < unitsPerNs * ns then s.elapse (divUp (unitsPerNs * ns - t.acc) t.step) else s

/-- What other blocks show of Cornerstone: TIME_STATUS.TB3_STATE and GLB_STATUS.CST_READY. -/
def State.cstShow (s : State) : State :=
  let s := s.set fTIME_STATUS_TB3_STATE (if s.cst.ready then s.cst.state else 0)
  s.setB fGLB_STATUS_CST_READY s.cst.ready

/-- A state of R318 is entered; a bin with a second not in `LOCKED` is flagged (R324). -/
def State.tb3Enter (s : State) (st : Nat) : State :=
  let s := (s.modCst fun c => { c with state := st, run := 0 }).cstShow
  if st = 3 then s else s.cstFlag 1

/-- One of the ten counters of R331 advances. -/
def State.cstCount (s : State) (j k : Nat) : State :=
  s.modCst fun c => { c with store := { c.store with
    counters := modAt c.store.counters j fun v => (v + k) % 2 ^ 64 } }

/-- R317: the limit of y, in 10^-13. -/
def tb3Limit (y : Int) : Int := clampI (-2000000000) 2000000000 y

/-- The rate at which TB3 runs: the servo's, and the slew of R319, 10 µs/s, within the limit of R317. -/
def State.tb3Rate (s : State) : State :=
  s.modCst fun c => { c with tb3 := { c.tb3 with
    y := tb3Limit (c.y + match c.slew with
      | some o => if 0 < o.1 then -100000000 else 100000000
      | none => 0) } }

/-- R317: the servo follows a sample: the frequency of its loop, which the spec gives no formula for (log entry 31). -/
def State.tb3Follow (s : State) (ofs : Int) : State :=
  let r := Config.cstLoop s.cst.integ ofs
  (s.modCst fun c => { c with
    y := tb3Limit (r.1 + r.2), integ := tb3Limit r.2, predicted := ofs, predictedAt := s.clk }).tb3Rate

/-! ### Bins (R320, R322) -/

/-- The UTC offset that Cornerstone holds. -/
def State.cstUtc (s : State) : Int := s.cst.store.utc.getD 0

/-- The length of a bin in seconds. -/
def cstPeriod (daily : Bool) : Nat := if daily then 86400 else 900

/-- A new bin that contains a TB3 second. -/
def State.cstNew (s : State) (daily : Bool) (sec flags : Nat) : State × CstBin :=
  let id := s.cst.store.nextId
  let b : CstBin :=
    { id := id, start := (lastBoundary s.cstUtc (cstPeriod daily) sec).toNat
      end_ := nextBoundary s.cstUtc (cstPeriod daily) sec, flags := flags }
  (s.modCst fun c => { c with store := { c.store with nextId := id + 1 } }, b)

/-- The current bin of a kind, and the same replaced. -/
def CstState.cur (c : CstState) (daily : Bool) : CstBin := if daily then c.cur24 else c.cur15
def CstState.setCur (c : CstState) (daily : Bool) (b : CstBin) : CstState :=
  if daily then { c with cur24 := b } else { c with cur15 := b }

/-- A bin closes at `close` (TB3 ns), to be stored at `due`, and the bin of second `sec` opens. -/
def State.cstClose (s : State) (daily : Bool) (close due sec flags : Nat) : State :=
  let x := s.cstNew daily sec flags
  x.1.modCst fun c =>
    { c.setCur daily x.2 with closed := c.closed ++ [{ daily := daily, bin := c.cur daily, close := close, due := due }] }

/-- Bins whose end is not after second `sec` close at that end; they stay open to adjustments for 10 s. -/
def State.cstRoll (s : State) (sec : Nat) : State :=
  [false, true].foldl (fun s daily =>
    let b := s.cst.cur daily
    if s.cst.state ≠ 0 && 0 < b.end_ && b.end_ ≤ sec then
      s.cstClose daily (1000000000 * b.end_) (10000000000 + 1000000000 * b.end_) sec 0
    else s) s

/-- A bin, wherever it stands, changed by its number. -/
def State.cstBinById (s : State) (id : Nat) (f : CstBin → CstBin) : State :=
  let g := fun (b : CstBin) => if b.id = id then f b else b
  s.modCst fun c => { c with
    cur15 := g c.cur15, cur24 := g c.cur24, closed := c.closed.map fun x => { x with bin := g x.bin } }

/-! ### Seconds (R315) -/

/-- Counts of an entry moved. -/
def CstEntry.add (e : CstEntry) (es ses uas : Int) : CstEntry :=
  let up := fun (v : Nat) (d : Int) => ((v : Int) + d).toNat
  { e with es := up e.es es, ses := up e.ses ses, uas := up e.uas uas }

/-- Counts moved in the two bins of a second. -/
def State.cstMove (s : State) (key : Nat) (r : CstSec) (es ses uas : Int) : State :=
  let f := fun (b : CstBin) => b.modEnt key fun e => e.add es ses uas
  (s.cstBinById r.id15 f).cstBinById r.id24 f

/-- R174: one second of an entity: its provisional counts, then the change that a tenth second confirms. -/
def State.cstAvail (s : State) (key : Nat) (r : CstSec) : State :=
  let a := (assocGet s.cst.avail key).getD {}
  let put := fun (s : State) (a : CstAvail) => s.modCst fun c => { c with avail := assocPut c.avail key a }
  let s := if a.uas then s.cstMove key r 0 0 1 else s.cstMove key r (b2n r.es) (b2n r.ses) 0
  if r.ses = a.uas then put s { a with run := [] }
  else
    let run := r :: a.run
    if run.length < 10 then put s { a with run := run }
    else if a.uas then
      put (run.foldl (fun s x => s.cstMove key x (b2n x.es) 0 (-1)) s) { uas := false, run := [] }
    else
      put (run.foldl (fun s x => s.cstMove key x (-(b2n x.es : Int)) (-(b2n x.ses : Int)) 1) s) { uas := true, run := [] }

/-- What the second has gathered for an entity: its octets, whether it is an SES, an ES, and whether its tap was silent. -/
def State.cstResult (s : State) (key : Nat) : Nat × Bool × Bool × Bool :=
  let trib := key < 1024
  let g := if trib then s.cst.lanes.getD (key / 128) {} else (assocGet s.cst.ports (key - 1024)).getD {}
  let sub := if trib then key % 128 else 0
  let silent := g.events == 0
  let defect := silent || g.defect || (trib && g.bad.contains sub)
  let ses := isSes 15 g.blocks g.errored defect
  ((assocGet g.octets sub).getD 0, ses, ses || 0 < g.errored, silent)

/-- One entity's second. -/
def State.cstEntSecond (s : State) (key : Nat) : State :=
  let r := s.cstResult key
  let s := if r.2.2.2 then s.cstFlag 5 else s
  let s := s.cstBins fun b => b.modEnt key fun e => { e with octets := (e.octets + r.1) % 2 ^ 64, exist_ := e.exist_ + 1 }
  s.cstAvail key { ses := r.2.1, es := r.2.2.1, id15 := s.cst.cur15.id, id24 := s.cst.cur24.id }

/-- R315: a second begins with nothing gathered but the lane defects that stand. -/
def State.cstGather (s : State) : State :=
  let bad := fun (k : Nat) => s.up && s.sectionDefect (Fin.ofNat 8 k)
  s.modCst fun c => { c with lanes := (List.range 8).map fun k => { defect := bad k }, ports := [] }

/-- R315, R322: the second in progress ends: its results enter the current bins, and the next begins. -/
def State.cstSecondEnd (s : State) : State :=
  let s := s.cstRoll s.cst.sec
  let now := s.cstEntities
  let there := s.cst.live.filter now.contains
  let any := s.cst.lanes.any (fun g => g.events != 0) || s.cst.ports.any fun p => p.2.events != 0
  let s := s.cstBins fun b => { b with validSec := b.validSec + 1 }
  let s := if s.cst.state = 3 then s else s.cstFlag 1
  let s := there.foldl (fun s k => s.cstEntSecond k) s
  (s.modCst fun c => { c with
    avail := c.avail.map fun x => if there.contains x.1 then x else (x.1, { x.2 with run := [] })
    sec := s.tb3Sec, live := now, reported := now, tapsLive := any }).cstGather

/-- R315: CST_SECOND. -/
def execCstSecond (s : State) : Ans :=
  if !s.cst.ready then .next s else .next ((s.waitTb3 (1000000000 + 1000000000 * s.cst.sec)).cstSecondEnd)

/-- R322: the bins close at the next boundary; a second that ends with it is evaluated first. -/
def execCstBoundary (s : State) : Ans :=
  if !s.cst.ready || s.cst.state = 0 then .next s
  else
    let b := s.cst.cur15.end_
    let s := s.waitTb3 (1000000000 * b)
    let s := if s.cst.sec < b then s.cstSecondEnd else s
    .next (s.cstRoll b)

/-! ### Tap events and latency (R314, R316) -/

/-- An amount added in an association list. -/
def assocAdd (m : List (Nat × Nat)) (k v : Nat) : List (Nat × Nat) := assocPut m k ((assocGet m k).getD 0 + v)

/-- R314: a delivered LF reaches Cornerstone: its words, defects and flag enter the second; a path period that had all
eight LFs is a block (R171); the first timed LF of a millisecond gives the lane's latency sample. -/
def State.cstLf (s : State) (t : TapLf) : State :=
  let per := s.cst.period.getD t.lane (none, false)
  let whole := t.start && per.1 = some 8
  let next := if t.start then (some 1, t.flagged) else if t.defect then (none, false) else (per.1.map (· + 1), per.2 || t.flagged)
  let s := s.modCst fun c => { c with
    period := setAt c.period t.lane next
    lanes := modAt c.lanes t.lane fun g => { g with
      events := g.events + 1
      defect := g.defect || t.defect
      blocks := g.blocks + b2n whole, errored := g.errored + b2n (whole && per.2)
      octets := t.groups.foldl (fun m x => assocAdd m x.1 (16 * x.2.1)) g.octets
      bad := g.bad ++ (t.groups.filter fun x => x.2.2 && !g.bad.contains x.1).map (·.1) } }
  match t.timed with
  | none => s
  | some (t1, t2, locked) =>
    let ms := s.tb3Ns / 1000000 + 1
    if s.cst.sampleMs.getD t.lane 0 = ms then s
    else
      let ofs : Int := (s.cst.tb3.acc : Int) - (s.tbx 0).acc
      let lat := ((t2 : Int) - t1) / 65536 + ofs / unitsPerNs
      s.modCst fun c => { c with
        sampleMs := setAt c.sampleMs t.lane ms, sample := setAt c.sample t.lane (some (lat, locked)) }

/-- R314: a port's report of one microsecond. -/
def State.cstPort (s : State) (p : Nat) : State :=
  let x := (assocGet s.cst.portTap p).getD (0, 0, 0)
  let fault := s.is (fCLI_PORT_STATUS_FAULT_TX p)
  s.modCst fun c =>
    let g := (assocGet c.ports p).getD {}
    { c with
      portTap := assocDel c.portTap p
      ports := assocPut c.ports p { g with
        events := g.events + 1, blocks := g.blocks + 1, errored := g.errored + b2n (fault || x.2.2 != 0)
        defect := g.defect || fault, octets := assocAdd g.octets 0 x.1 } }

def execCstTapEvent (tap : CstTap) (s : State) : Ans :=
  if !s.cst.ready then .next s
  else
    match tap with
    | .lf =>
      match s.cst.taps with
      | [] => .next s
      | t :: rest => .next ((s.modCst fun c => { c with taps := rest }).cstLf t)
    | .port p => if s.up then .next (s.cstPort p) else .next s
    | .egress p ns => .next (s.modCst fun c => { c with transit := assocPut c.transit p ns })

/-- A sample enters a histogram of 4,096 buckets of 1 ns (R316). -/
def CstEntry.sample (e : CstEntry) (v : Int) : CstEntry :=
  let anchor := if e.latN = 0 then 1024 * (v / 1024) - 2048 else e.anchor
  let k := v - anchor
  let out := k < 0 || 4096 ≤ k
  { e with
    anchor := anchor, latN := e.latN + 1, hist := assocAdd e.hist (clampI 0 4095 k).toNat 1
    max := if e.latN = 0 then v else Max.max e.max v, flags := if out then Nat.lor e.flags 8 else e.flags }

/-- R316: the entities that take a lane's latency sample: its tributaries, and the ports of its flows with the transit of
the timed LF. -/
def State.latencyTakers (s : State) (n : Lane) : List (Nat × Int) :=
  let gs := if (s.rxFmt n).family = 0 then s.rxGroups n else []
  let tribs := gs.map fun g => (tribKey n g.head, (0 : Int))
  let ports := gs.filterMap fun g =>
    if bitOf g.cfg 1 then none
    else (assocGet s.cst.transit (bitsOf g.cfg 2 6)).map fun v => (portKey (bitsOf g.cfg 2 6), (v : Int))
  (tribs ++ ports).filter fun x => s.cst.live.contains x.1

/-- R316: the lane's latency sample of the millisecond. -/
def execCstLatencySample (n : Lane) (s : State) : Ans :=
  match s.cst.sample.getD n none with
  | none => .next s
  | some (lat, locked) =>
    let takers := s.latencyTakers n
    let s := s.modCst fun c => { c with sample := setAt c.sample n none }
    if !s.cst.ready || !s.up then .next s
    else if s.cst.state = 3 && locked then
      .next (takers.foldl (fun s x => s.cstBins fun b => b.modEnt x.1 fun e => e.sample (lat + x.2)) s)
    else .next (takers.foldl (fun s x => s.cstEntFlag x.1 2) s)

/-! ### Samples of TB0 (R317 to R320) -/

/-- R320: the first offset ever is held. -/
def State.cstUtcFirst (s : State) (o : Int) : State :=
  s.modCst fun c => { c with store := { c.store with utc := some (c.store.utc.getD o) } }

/-- R320: a new offset is held: the ends of the bins in progress lie at the boundaries of the new offset. -/
def State.cstUtcTake (s : State) (o d : Int) : State :=
  let s := s.cstBins fun b => if b.end_ = 0 then b else { b with end_ := ((b.end_ : Int) + d).toNat }
  s.modCst fun c => { c with utcRefused := none, store := { c.store with utc := some o, utcBin := c.cur24.id } }

/-- R320: a sample's UTC offset: a change of one second is taken once in a 24-hour bin; any other is refused, and counted
when it first appears. -/
def State.cstUtcSample (s : State) (o : Int) : State :=
  match s.cst.store.utc with
  | none => s
  | some u =>
    if o = u then s.modCst fun c => { c with utcRefused := none }
    else if (o - u).natAbs = 1 && s.cst.store.utcBin ≠ s.cst.cur24.id then s.cstUtcTake o (o - u)
    else if s.cst.utcRefused = some o then s
    else ((s.modCst fun c => { c with utcRefused := some o }).cstCount 8 1).cstFlag 8

/-- Counts made while TB3 was `UNSET` join the entry of a bin (R327). -/
def CstEntry.join (a b : CstEntry) : CstEntry :=
  { a with
    octets := a.octets + b.octets, es := a.es + b.es, ses := a.ses + b.ses, uas := a.uas + b.uas
    exist_ := a.exist_ + b.exist_, flags := Nat.lor a.flags b.flags }

/-- The bin `b` with the counts of `untimed`, under the latter's number. -/
def CstBin.join (b untimed : CstBin) : CstBin :=
  let any := untimed.validSec != 0 || !untimed.ents.isEmpty
  { b with
    id := untimed.id, validSec := b.validSec + untimed.validSec
    flags := Nat.lor b.flags (Nat.lor untimed.flags (if any then 64 else 0))
    ents := untimed.ents.foldl (fun m x => assocPut m x.1 (((assocGet m x.1).getD {}).join x.2)) b.ents }

/-- A 24-hour bin that goes on under another number keeps the mark of R320. -/
def CstStore.renumber (m : CstStore) (old new : Nat) : CstStore := if m.utcBin = old then { m with utcBin := new } else m

/-- R327: TB3 is set: checkpointed bins whose end has passed are recorded, the bins of now open or go on, and the counts
made while it was `UNSET` join them. -/
def State.cstTimed (s : State) : State :=
  let now := s.tb3Ns
  let sec := s.tb3Sec
  [false, true].foldl (fun s daily =>
    let untimed := s.cst.cur daily
    let old := s.cst.old.map fun o => if daily then o.2 else o.1
    match old.filter fun o => o.end_ != 0 with
    | some o =>
      let o := { o with flags := Nat.lor o.flags 17 }
      if sec < o.end_ then
        s.modCst fun c => { c.setCur daily (o.join untimed) with store := c.store.renumber o.id untimed.id }
      else
        let x := s.cstNew daily sec 1
        x.1.modCst fun c => { c.setCur daily (x.2.join untimed) with
          closed := c.closed ++ [{ daily := daily, bin := o, close := 1000000000 * o.end_, due := now }] }
    | none =>
      let x := s.cstNew daily sec 1
      x.1.modCst fun c => c.setCur daily (x.2.join untimed))
    (s.modCst fun c => { c with closed := c.closed.map fun x => { x with due := now } })
  |>.modCst (fun c => { c with old := none, sec := sec, live := [] })
  |>.cstGather

/-- R319: an accepted jump larger than 1 ms: TB3 steps by `-ofs`, and every open bin closes before the step. -/
def State.tb3Step (s : State) (ofs : Int) : State :=
  let before := s.tb3Ns
  let s := (s.cstFlag 3).modCst fun c => { c with tb3 := { c.tb3 with acc := ((c.tb3.acc : Int) - ofs).toNat } }
  let s := s.cstCount 3 1
  let now := s.tb3Ns
  let s := [false, true].foldl (fun s daily => s.cstClose daily before (10000000000 + now) (s.tb3Sec) 1) s
  (s.modCst fun c => { c with sec := s.tb3Sec, live := [] }).cstGather

/-- ±100 ns, 1 µs and 1 ms in units. -/
def tb3Near : Nat := 100 * unitsPerNs
def tb3Jump : Nat := 1000 * unitsPerNs
def tb3SlewMax : Nat := 1000000 * unitsPerNs

/-- R319: PLU cycles in which 10 µs/s removes an offset: 10^5 s for a second of it. -/
def slewCycles (ofs : Int) : Nat := divUp (100000 * ofs.natAbs) 10000000000000

/-- R319: a jump is accepted. -/
def State.jumpAccepted (s : State) (ofs : Int) : State :=
  let s := s.cstCount 1 1
  if ofs.natAbs ≤ tb3SlewMax then (s.modCst fun c => { c with slew := some (ofs, s.clk + slewCycles ofs), run := 0 }).tb3Rate
  else ((s.tb3Step ofs).modCst fun c => { c with predicted := 0, predictedAt := s.clk }).tb3Enter 3

/-- R318: the predicted offset: the last accepted one, advanced by the servo's frequency over the time since. -/
def State.tb3Predicted (s : State) : Int := s.cst.predicted + s.cst.y * (s.clk - s.cst.predictedAt : Nat)

/-- R318, R319: a usable sample of offset `ofs`. -/
def State.tb3Sample (s : State) (ofs : Int) : State :=
  let c := s.cst
  let jump := tb3Jump < (ofs - s.tb3Predicted).natAbs
  let hold := fun (s : State) =>
    ((s.cstCount 0 1).tb3Enter 5).cstFlag 2 |>.modCst fun c => { c with run := 1, runFirst := ofs }
  match c.state with
  | 0 =>
    let s := s.modCst fun c =>
      { c with tb3 := { c.tb3 with acc := (s.tbx 0).acc }, ofs := 0, predicted := 0, predictedAt := s.clk }
    (s.tb3Enter 2).cstTimed
  | 2 =>
    let run := if ofs.natAbs ≤ tb3Near then c.run + 1 else 0
    let s := (s.tb3Follow ofs).modCst fun c => { c with run := run }
    if 16 ≤ run then s.tb3Enter 3 else s
  | 3 => if jump then hold s else s.tb3Follow ofs
  | 4 => if jump then hold s else (s.tb3Follow ofs).tb3Enter 2
  | _ =>
    if c.slew.isSome then s
    else if !jump then ((s.cstCount 2 1).tb3Follow ofs).tb3Enter 3
    else if (ofs - c.runFirst).natAbs ≤ tb3Near then
      let s := s.modCst fun c => { c with run := c.run + 1 }
      if 16 ≤ s.cst.run then s.jumpAccepted ofs else s
    else s.modCst fun c => { c with run := 1, runFirst := ofs }

/-- R317: PLU's sample of TB0, once per TB0 second. -/
def execCstTb0Sample (osc : Int) (s : State) : Ans :=
  if s.cold || !s.cst.ready then .next s
  else
    let sec := match s.cst.lastSample with
      | some k => if s.tb0Sec ≤ k then k + 1 else s.tb0Sec
      | none => divUp s.tb0 1000000000
    let s := s.waitTb 0 (1000000000 * sec)
    let s := s.modCst fun c => { c with
      lastSample := some sec
      tb3 := { c.tb3 with acc := ((c.tb3.acc : Int) + osc * 25 * (10000000000000 + c.tb3.y) / 16).toNat } }
    let ofs : Int := (s.cst.tb3.acc : Int) - (s.tbx 0).acc
    let s := s.modCst fun c => { c with ofs := ofs }
    if s.get fTIME_STATUS_TB0_STATE ≠ 3 then .next s
    else .next ((((s.modCst fun c => { c with lastUsable := s.clk }).cstUtcFirst s.utcOfs).tb3Sample ofs).cstUtcSample s.utcOfs)

/-- R318: no usable sample for 2 s. -/
def execTb3SampleTimeout (s : State) : Ans :=
  if !s.cst.ready || s.cst.state ≠ 3 then .next s
  else
    let s := s.waitClk (2 * cyclesSec + s.cst.lastUsable)
    .next (s.tb3Enter 4)

/-- R319: the slew of an accepted jump ends. -/
def execTb3SlewEnd (s : State) : Ans :=
  match s.cst.slew with
  | none => .next s
  | some o =>
    let s := s.waitClk o.2
    .next ((s.modCst fun c => { c with slew := none, predicted := 0, predictedAt := s.clk }).tb3Rate.tb3Enter 3)

/-! ### Records (R322 to R326) -/

/-- R316: the lower edge of the first bucket at which the cumulative count reaches ceil(num × n / den). -/
def CstEntry.percentile (e : CstEntry) (num den : Nat) : Int :=
  let want := divUp (num * e.latN) den
  let r := e.hist.foldl (fun (p : Nat × Option Nat) x =>
    match p.2 with
    | some _ => p
    | none => if want ≤ p.1 + x.2 then (p.1 + x.2, some x.1) else (p.1 + x.2, none)) (0, none)
  e.anchor + (r.2.getD 0 : Nat)

/-- R323: an entry's 48 bytes. -/
def cstEntryBytes (valid key : Nat) (e : CstEntry) : List Byte :=
  let trib := key < 1024
  let lat := fun (v : Int) => natBytes 4 (if e.latN = 0 then 0 else ofSigned 32 v)
  natBytes 1 (b2n !trib) ++ natBytes 1 (if trib then key / 128 else 0xFF) ++ natBytes 1 (if trib then key % 128 else key - 1024)
    ++ natBytes 1 (Nat.lor e.flags (b2n (e.exist_ < valid))) ++ natBytes 8 e.octets ++ natBytes 4 e.es ++ natBytes 4 e.ses
    ++ natBytes 4 e.uas ++ natBytes 4 e.exist_ ++ natBytes 4 e.latN ++ lat (e.percentile 50 100)
    ++ lat (e.percentile 99 100) ++ lat (e.percentile 999 1000) ++ lat e.max

/-- A bin as a checkpoint's CRC-32 covers it (log entry 31). -/
def CstBin.bytes (b : CstBin) : List Byte :=
  natBytes 8 b.id ++ natBytes 6 b.start ++ natBytes 6 b.end_ ++ natBytes 2 b.flags ++ natBytes 4 b.validSec
    ++ b.ents.flatMap fun x => natBytes 2 x.1 ++ cstEntryBytes b.validSec x.1 x.2

/-- A checkpoint's bytes. -/
def CstSaved.bytes (v : CstSaved) : List Byte :=
  let old := match v.old with
    | some o => o.1.bytes ++ o.2.bytes
    | none => []
  natBytes 1 (b2n v.timed) ++ v.cur15.bytes ++ v.cur24.bytes ++ old
    ++ v.closed.flatMap fun c => natBytes 1 (b2n c.daily) ++ natBytes 10 c.close ++ c.bin.bytes

/-- R327: a checkpoint with its CRC-32, and whether the CRC-32 is right. -/
def cstCheck (seq : Nat) (v : CstSaved) : CstCheck := { seq := seq, crc := crc32 (natBytes 8 seq ++ v.bytes), data := v }
def CstCheck.valid (x : CstCheck) : Bool := x.crc == crc32 (natBytes 8 x.seq ++ x.data.bytes)

/-- The entities of a bin that existed in at least one second. -/
def CstBin.entries (b : CstBin) : List (Nat × CstEntry) := b.ents.filter fun x => x.2.exist_ != 0
def CstBin.ntrib (b : CstBin) : Nat := b.entries.countP fun x => x.1 < 1024
def CstBin.nport (b : CstBin) : Nat := b.entries.countP fun x => 1024 ≤ x.1

/-- A TIME80 in bytes: seconds U48, then ns U32. -/
def time80Bytes (ns : Nat) : List Byte := natBytes 6 (ns / 1000000000) ++ natBytes 4 (ns % 1000000000)

/-- R328: the signing key of this device, as a scalar, and its certificate. -/
def cstPrivate : Nat := Config.cstKey.toNat % (n521 - 1) + 1
def certificate (d endorsement : Nat) : List Byte :=
  natBytes 8 Config.serial.toNat ++ publicKey d ++ natBytes 132 endorsement
def cstCertificate : List Byte := certificate cstPrivate Config.cstEndorsement.toNat

/-- R323: a record without its signature. -/
def CstStore.recordBody (m : CstStore) (c : CstClosed) : List Byte :=
  let b := c.bin
  let flags := Nat.lor b.flags (Nat.lor (b2n (b.validSec < cstPeriod c.daily)) (if m.mode = 1 then 128 else 0))
  [0x43, 0x53, 0x54, 0x52] ++ natBytes 1 1 ++ natBytes 1 (b2n c.daily) ++ natBytes 2 flags
    ++ natBytes 8 Config.serial.toNat ++ natBytes 8 m.nextSeq ++ time80Bytes (1000000000 * b.start) ++ time80Bytes c.close
    ++ natBytes 4 b.validSec ++ natBytes 2 b.ntrib ++ natBytes 2 b.nport ++ (sha512 (publicKey cstPrivate)).take 4
    ++ (if m.nextSeq = 0 then List.replicate 16 0 else m.lastHash.take 16) ++ natBytes 4 m.patch ++ natBytes 4 0
    ++ b.entries.flatMap fun x => cstEntryBytes b.validSec x.1 x.2

/-- R325: the bytes of the ring that a record takes. -/
def CstRecord.padded (r : CstRecord) : Nat := divUp r.bytes.length 64 * 64

/-- R325: records dropped, oldest first, until the rest fit. -/
def dropToFit (cap : Nat) : List CstRecord → List CstRecord
  | [] => []
  | r :: rest => if cap < ((r :: rest).map CstRecord.padded).foldl (· + ·) 0 then dropToFit cap rest else r :: rest

/-- R326: the mode for a number of good blocks. -/
def cstModeOf (good : Nat) : Nat := if 2593 ≤ good then 0 else if 16 ≤ good then 1 else 2

/-- R325, R326: blocks retired: spares first, then out of the ring; the mode never returns to a lower code. -/
def CstStore.retire (m : CstStore) (k : Nat) : CstStore :=
  let good := m.good - (k - m.spares)
  { m with spares := m.spares - k, good := good, mode := max m.mode (cstModeOf good), records := dropToFit (4096 * good) m.records }

/-- R322 to R326: a record of a closed bin is signed and stored. -/
def CstStore.store (m : CstStore) (c : CstClosed) : CstStore :=
  let body := m.recordBody c
  let all := body ++ ecdsaSign cstPrivate body
  { m with
    records := dropToFit (4096 * m.good) (m.records ++ [{ seq := m.nextSeq, daily := c.daily, bytes := all }])
    nextSeq := (m.nextSeq + 1) % 2 ^ 64, lastHash := sha512 all }

/-- R327: the bank of the newest valid checkpoint, and that checkpoint. -/
def CstStore.newest (m : CstStore) : Option (Nat × CstCheck) :=
  let at_ := fun (k : Nat) => ((m.checks.getD k none).filter CstCheck.valid).map fun x => (k, x)
  match at_ 0, at_ 1 with
  | some a, some b => some (if a.2.seq < b.2.seq then b else a)
  | some a, none => some a
  | none, b => b

/-- A closed bin has been dealt with: it is not recorded again after a reset (R327). -/
def CstStore.finish (m : CstStore) (id : Nat) : CstStore :=
  { m with done := m.done ++ [(id, (m.newest.map (·.2.seq)).getD 0)] }

/-- R322: 10 s after its close the oldest closed bin is recorded; blocks that fail meanwhile are retired (R330). -/
def execCstRecordStore (failed : Nat) (s : State) : Ans :=
  match s.cst.closed with
  | [] => .next s
  | c :: rest =>
    if !s.cst.ready || s.cst.state = 0 then .next s
    else
      let s := (s.waitTb3 c.due).modCst fun x => { x with closed := rest, store := x.store.finish c.bin.id }
      let m := s.cst.store
      if m.mode = 2 || (m.mode = 1 && !c.daily) then .next s
      else
        let s := if failed = 0 then s else s.cstCount 6 failed
        .next ((s.modCst fun x => { x with store := (x.store.store c).retire failed }).cstCount 7 1)

/-! ### Levels (R321) -/

/-- The 15-minute bin that a Level latches: while TB3 is `UNSET`, that of the checkpoint with the counts since. -/
def cstJoined (x : CstBin × Option CstBin) : CstBin :=
  match x.2 with
  | some o => o.join x.1
  | none => x.1

/-- R321: a Level as its bank holds it. -/
def CstSnap.bytes (x : CstSnap) (b : CstBin) : List Byte :=
  natBytes 4 x.number ++ time80Bytes x.ns ++ natBytes 2 (if x.state = 3 then 0 else if x.state = 5 then 2 else 1)
    ++ natBytes 2 b.ntrib ++ natBytes 2 b.nport ++ List.replicate 12 0
    ++ b.entries.flatMap fun y => cstEntryBytes b.validSec y.1 y.2

/-- R321: the counts that the oldest strobe found enter the older bank; those of a strobe on a bin boundary are the counts
after the boundary (R177). -/
def execCstLevelLatch (s : State) : Ans :=
  match s.cst.snaps with
  | [] => .next s
  | x :: rest =>
    match x.bins.or s.cstBinsNow with
    | none => .next s
    | some b =>
      .next (s.modCst fun c => { c with
        snaps := rest, bankNext := 1 - c.bankNext, banks := setAt c.banks c.bankNext (x.number, x.bytes (cstJoined b)) })

/-! ### Checkpoints and resets (R312, R327) -/

/-- What a checkpoint holds of every open bin. -/
def CstState.save (c : CstState) : CstSaved :=
  { cur15 := c.cur15, cur24 := c.cur24, old := c.old, closed := c.closed, timed := c.state != 0 }

/-- R327: a checkpoint goes into the bank that does not hold the newest valid one. -/
def CstStore.check (m : CstStore) (v : CstSaved) : CstStore :=
  match m.newest with
  | none => { m with checks := setAt m.checks 0 (some (cstCheck 1 v)), done := [] }
  | some (k, x) =>
    { m with
      checks := setAt m.checks (1 - k) (some (cstCheck (x.seq + 1) v)), done := m.done.filter fun d => x.seq ≤ d.2 }

/-- A checkpoint of every open bin. -/
def State.cstSave (s : State) : State :=
  (s.modCst fun c => { c with store := c.store.check c.save, checkpoint := s.clk }).cstCount 4 1

/-- R327: every 10 s of the island's clock. -/
def execCstCheckpoint (s : State) : Ans :=
  if s.cst.ready then .next ((s.waitClk (10 * cyclesSec + s.cst.checkpoint)).cstSave) else .next s

/-- R312, R331: a Cornerstone reset: what its MRAM and fuses do not keep is lost, CST_SEL among it (log entry 31), and PLU
reference 31 loses VALID.  A verification in progress is lost, and what the window had latched. -/
def State.cstReset (s : State) : State :=
  let m := s.cst.store
  let m := if m.patchCode = 3 then { m with patchCode := 0 } else m
  let t : State := { s with
    cst := { store := m, verifying := false }, shadow := s.shadow.filter fun p => p.1 < 0x900000 || 0xA00000 ≤ p.1 }
  let s := (t.setWide aCST_SEL 0).cstShow
  if s.pluRuns then s.refChanged 31 else s

def execCstRstN (s : State) : Ans := .next s.cstReset

/-- R312: VDD_CST is removed and restored. -/
def execVddCstLoss (s : State) : Ans := .next s.cstReset

/-- R451, R453: a source has the bit of its initiator in a field of SEC_CST_BOUND. -/
def State.cstBound (s : State) (by_ : Source) (f : Fld) : Bool :=
  let k := match by_ with
    | .pcie => 0
    | .cop k => match s.session k with
      | some x => if x.line then 2 else 1
      | none => 1
  bitOf (s.get f) k

/-- R312, R453, R457: the reset request, with a final checkpoint. -/
def State.cstRequest (s : State) (by_ : Source) : State :=
  if !s.cstBound by_ fSEC_CST_BOUND_RESET then s.refuse by_ aSEC_CST_RST .prot .accessDenied
  else
    let s := s.answer by_ .ok
    if s.cst.ready then s.cstSave.cstReset else s

def execCstResetRequest (by_ : Source) (s : State) : Ans :=
  .next (s.byWrite by_ aSEC_CST_RST fun s => s.cstRequest by_)

/-- R327: what a checkpoint brings back: the bins not recorded since, a closed one with CST_RESET and PARTIAL. -/
def CstStore.resume (m : CstStore) (v : CstSaved) : CstSaved :=
  let gone := fun (b : CstBin) => m.done.any fun d => d.1 == b.id
  let keep := fun (b : CstBin) => if gone b then {} else b
  { v with
    cur15 := keep v.cur15, cur24 := keep v.cur24, old := v.old.map fun o => (keep o.1, keep o.2)
    closed := (v.closed.filter fun c => !gone c.bin).map fun c => { c with bin := { c.bin with flags := Nat.lor c.bin.flags 17 } } }

/-- R312, R327, R329: Cornerstone is ready: it resumes from the newer valid checkpoint, and an accepted patch is in effect. -/
def execCstReady (s : State) : Ans :=
  if s.cst.ready then .next s
  else
    let m := s.cst.store
    let m := match m.pendingPatch with
      | some k => { m with patch := k, pendingPatch := none }
      | none => m
    let m : CstStore := { m with nextId := m.nextId + 2 }
    let untimed : CstBin × CstBin := ({ id := m.nextId - 2 }, { id := m.nextId - 1 })
    let x : CstState := { s.cst with ready := true, store := m, checkpoint := s.clk, sec := s.tb3Sec }
    let x := match m.newest with
      | none => { x with cur15 := untimed.1, cur24 := untimed.2 }
      | some (_, k) =>
        let v := m.resume k.data
        if v.timed then { x with cur15 := untimed.1, cur24 := untimed.2, old := some (v.cur15, v.cur24), closed := v.closed }
        else
          let or_ := fun (b fresh : CstBin) => if b.id = 0 then fresh else b
          { x with cur15 := or_ v.cur15 untimed.1, cur24 := or_ v.cur24 untimed.2, old := v.old, closed := v.closed }
    let s := ({ s with cst := x } : State).cstShow
    .next (if m.newest.isSome then s.cstCount 5 1 else s)

/-! ### Patches (R329) -/

/-- R329, R453: a patch in the mailbox is submitted, by PCIe, which alone reaches the register. -/
def State.patchGo (s : State) : State :=
  if !s.cstBound .pcie fSEC_CST_BOUND_PATCH then s.logAcc .prot aCST_PATCH_GO true
  else if !s.cst.ready then s
  else s.modCst fun c => { c with verifying := true, store := { c.store with patchCode := 3 } }

def execCstPatchGo (s : State) : Ans := .next (s.hostWrite aCST_PATCH_GO State.patchGo)

/-- R329: the patch's verification completes. -/
def execCstPatchVerified (good : Bool) (level : Nat) (s : State) : Ans :=
  if !s.cst.ready || !s.cst.verifying then .next s
  else
    let code := if !good then 1 else if level ≤ s.cst.store.patch then 2 else 0
    let s := s.modCst fun c => { c with
      verifying := false
      store := { c.store with patchCode := code, pendingPatch := if code = 0 then some level else c.store.pendingPatch } }
    .next (if code = 0 then s else s.cstCount 9 1)

/-! ### The window and its objects (R331, R332) -/

/-- R331, R332: the record selected, held for PCIe and for each session. -/
def State.cstSelect (s : State) (by_ : Source) (seq : Nat) : State :=
  match by_ with
  | .pcie => s.modCst fun c => { c with sel := seq }
  | .cop k => { s with cop := { s.cop with
      sessions := s.cop.sessions.map fun x => if x.id = k then { x with cstSel := seq } else x } }

/-- R331: over PCIe the command stands for the writes of CST_SEL_LO and _HI. -/
def execCstSelWrite (by_ : Source) (seq : BitVec 64) (s : State) : Ans :=
  .next (s.byWrite by_ aCST_SEL fun s =>
    match by_ with
    | .pcie => (s.setWide aCST_SEL seq.toNat).cstSelect .pcie seq.toNat
    | .cop k => (s.cstSelect by_ seq.toNat).answer (.cop k) .ok)

/-- The record of a RECSEQ, if it is held. -/
def State.cstRecord (s : State) (seq : Nat) : Option CstRecord := s.cst.store.records.find? fun r => r.seq == seq

/-- CST_STATUS. -/
def State.cstStatus (s : State) : Nat :=
  s.cst.state + 16 * s.cst.store.mode + 64 * b2n s.cst.tapsLive + 128 * b2n s.cst.store.pendingPatch.isSome

/-- R321, R331: the bytes of a Level bank. -/
def State.cstBank (s : State) (k : Nat) : List Byte := (s.cst.banks.getD k (0, [])).2

/-- 0x8003:01: the bank with the newer Level number. -/
def State.cstLatestBank (s : State) : List Byte := s.cstBank (1 - s.cst.bankNext)

/-- R331: a word of the window as Cornerstone gives it; zero until it is ready (R312). -/
def State.cstView (s : State) (a : Nat) : Nat :=
  let c := s.cst
  let o := a - 0x900000
  let m := c.store
  let part := fun (v : Nat) (k : Nat) => v / 2 ^ (32 * k) % 2 ^ 32
  let area := fun (bs : List Byte) (base : Nat) => (byteAreaWord bs ((o - base) / 4)).toNat
  let rec_ := s.cstRecord c.sel
  if !c.ready then 0
  else if o = 0 then 0x1B0 + 2 ^ 24 * (m.patch % 256)
  else if o = 4 then s.cstStatus
  else if o = 8 then m.spares + 65536 * m.good
  else if o = 0x10 then s.tb3Ns % 1000000000
  else if o = 0x14 then part s.tb3Sec 0
  else if o = 0x18 then part s.tb3Sec 1 % 65536
  else if o = 0x20 || o = 0x24 then part (ofSigned 64 (1000 * c.ofs / unitsPerNs)) ((o - 0x20) / 4)
  else if o = 0x28 then ofSigned 32 (c.tb3.y / 10)
  else if o = 0x30 || o = 0x34 then part ((m.records.getLast?.map (·.seq)).getD 0) ((o - 0x30) / 4)
  else if o = 0x38 || o = 0x3C then part ((m.records.head?.map (·.seq)).getD 0) ((o - 0x38) / 4)
  else if o = 0x44 then m.patchCode
  else if o = 0x48 || o = 0x4C then s.nat a
  else if o = 0x50 then
    match rec_ with
    | some r => 1 + 2 * b2n r.daily + 65536 * (r.bytes.length % 2 ^ 14)
    | none => 0
  else if 0x80 ≤ o && o < 0xD0 then part (m.counters.getD ((o - 0x80) / 8) 0) (o % 8 / 4)
  else if 0x10000 ≤ o && o < 0x14000 then area ((rec_.map (·.bytes)).getD []) 0x10000
  else if 0x20000 ≤ o && o < 0x24000 then area (s.cstBank 0) 0x20000
  else if 0x24000 ≤ o && o < 0x28000 then area (s.cstBank 1) 0x24000
  else if 0x30000 ≤ o && o < 0x30200 then area cstCertificate 0x30000
  else 0

end Sys2Proof.Machine
end

