-- ==== Sys2Proof/Machine/Sec.lean ====
section
/-!
DEFINITION. SEC: the setup window and RWL writes (R429, R449, R450), images (R444 to R448), the customer hash (R454),
attestation (R455, R456), and what SEC shows.
-/

namespace Sys2Proof.Machine

def State.modSec (s : State) (f : SecState → SecState) : State := { s with sec := f s.sec }

/-! ### Values a register holds in place of those written (R507) -/

/-- A field held as a rule says. -/
def Norm.apply (v : Nat) : Norm → Nat
  | .clamp lo len mn mx => withBits v lo len (clampN mn mx (bitsOf v lo len))
  | .clampS lo len lim =>
    withBits v lo len (ofSigned len (clampI (-(lim : Int)) lim (toSigned len (bitsOf v lo len))))
  | .code lo len bad good => if bitsOf v lo len = bad then withBits v lo len good else v
  | .taps => withBits v 0 8 (max 16 (min 128 (bitsOf v 0 8 / 8 * 8)))

/-- The bits of a written word that a register takes, each field as it holds it. -/
def RegRow.taken (r : RegRow) (v : Nat) : Nat := r.norms.foldl Norm.apply (Nat.land v r.mask)

/-! ### The setup window (R429, R449, R450) -/

/-- R450: the window admits an initiator. -/
def State.windowAdmits (s : State) (i : Initiator) : Bool :=
  !s.is fSEC_STATUS_SEC_LOCK && bitOf (s.get fSEC_CFG_WINDOW_INIT) i.num

/-- The initiator that a source is. -/
def State.initiator (s : State) : Source → Initiator
  | .pcie => .pcie
  | .cop k => s.copInit k

/-- R429, R450: the write of an RWL register. -/
def State.writeRwl (s : State) (by_ : Source) (a : Nat) (r : RegRow) (v : Nat) : State × Code :=
  if s.windowAdmits (s.initiator by_) then (s.setNat a (r.taken v), .ok)
  else match by_ with
  | .pcie => (s.logAcc .locked a true, .accessDenied)
  | .cop _ => (s, .accessDenied)

/-- R417, R466: the words that the value of an RWL object sets, or its own value; none where the object is not RWL or
does not hold the value.  0x3201: RANGE, FLAGS, with and without the cipher engine (R4); 0xA104: FIRST, LAST, RIGHTS. -/
def State.setRwlObj (s : State) (index sub : Nat) (v : List Byte) : Option State :=
  match objAt index sub with
  | none => none
  | some h =>
    if h.row.acc ≠ .rwl || !h.row.ty.fits v then none
    else
      let u := bytesNat v
      let put := fun (s : State) (a x : Nat) => match regAt a with
        | some g => s.setNat a (g.row.taken x)
        | none => s
      match index, h.row.place with
      | 0x3201, _ => some (put (put s (aCIPH_KPOL_RANGE h.j) (u / 2 ^ 32)) (aCIPH_KPOL_FLAGS h.j) (u % 2 ^ 32))
      | 0xA104, _ =>
        some (put (put (put s (aSEC_REG_FIRST h.j) (u / 2 ^ 38)) (aSEC_REG_LAST h.j) (u / 2 ^ 12 % 2 ^ 26))
          (aSEC_REG_RIGHTS h.j) (u % 2 ^ 9))
      | _, .fld f _ _ => some (put s f.addr u)
      | 0x1010, _ => if u < 16384 || u = 65535 then some (s.setObj index sub v) else none
      | _, _ => some (s.setObj index sub v)

/-- R449: the entries of a setup record, each as its effect; none where one names no RWL register or object. -/
def setupEntries : Nat → List Byte → Option (List (State → Option State))
  | 0, bs => if bs.isEmpty then some [] else none
  | n + 1, bs =>
    if bs.isEmpty then some []
    else if bs.length < 8 then none
    else match fieldBytes bs 0 2 with
    | 0 =>
      let a := fieldBytes bs 2 4
      match regAt a with
      | none => none
      | some h =>
        if bs.length < 10 || h.row.acc ≠ .rwl then none
        else (setupEntries n (bs.drop 10)).map fun l =>
          (fun s => some (s.setNat a (h.row.taken (fieldBytes bs 6 4)))) :: l
    | 1 =>
      let len := fieldBytes bs 6 2
      if bs.length < 8 + len || fieldBytes bs 5 1 ≠ 0 then none
      else (setupEntries n (bs.drop (8 + len))).map fun l =>
        (fun s => s.setRwlObj (fieldBytes bs 2 2) (fieldBytes bs 4 1) (sliceBytes bs 8 len)) :: l
    | _ => none

/-- R449: the state with every entry of a setup record applied in order; none where the record is rejected. -/
def State.applySetup (s : State) (payload : List Byte) : Option State :=
  match setupEntries 1024 payload with
  | none => none
  | some l => l.foldl (fun o f => o.bind f) (some s)

/-! ### Images (R444 to R446) -/

/-- R444: the bytes a payload of a kind may have. -/
def imageMax (kind : Nat) : Nat := if kind = 1 then 4 * 2 ^ 20 else if kind = 2 then 48 * 2 ^ 20 else 65536

/-- R448: the codes of a commit. -/
def imgOk : Nat := 0
def imgBadSig : Nat := 1
def imgSvn : Nat := 2
def imgKind : Nat := 3
def imgOrder : Nat := 4
def imgWorn : Nat := 5

/-- Header fields of an image. -/
def imageSvn (img : List Byte) : Nat := fieldBytes img 12 1
def imageLength (img : List Byte) : Nat := fieldBytes img 16 4
def imagePayload (img : List Byte) : List Byte := (img.drop 1024).take (imageLength img)
def imageHead (img : List Byte) : List Byte := img.take 84

/-- R445: the code of an image as one of a kind: 0 where it is valid. -/
def State.imageCode (s : State) (kind : Nat) (img : List Byte) : Nat :=
  let pkey := sliceBytes img 84 133
  let ckey := sliceBytes img 349 133
  let head := imageHead img
  if img.length < 1024 || fieldBytes img 0 4 ≠ 0x4F4C494D || fieldBytes img 4 1 ≠ kind || fieldBytes img 5 1 ≠ 1
    || imageMax kind < imageLength img then imgKind
  else if imageSvn img < s.sec.svn then imgSvn
  else if sha512 (imagePayload img) ≠ sliceBytes img 20 64 || (imagePayload img).length < imageLength img then imgBadSig
  else if kind ≠ 3 && (sha512 pkey ≠ natBytes 64 Config.rootHash.toNat || !ecdsaVerify pkey head (sliceBytes img 217 132)) then
    imgBadSig
  else match s.sec.bound with
  | none => imgOk
  | some h => if sha512 ckey = h && ecdsaVerify ckey head (sliceBytes img 482 132) then imgOk else imgBadSig

/-- What a bank of Quarry holds. -/
def State.bank (s : State) (kind : Nat) (b : Bool) : List Byte :=
  (assocGet s.sec.banks (2 * kind + b2n b)).getD (Config.deliveredImage (2 * kind + b2n b))

/-- R446: the bank preferred for a kind. -/
def State.prefB (s : State) (kind : Nat) : Bool := s.sec.prefs.getD (kind - 1) false

/-- R446: the bank taken for a kind: the preferred one when it is valid, else the other when that is. -/
def State.takeBank (s : State) (kind : Nat) : Option Bool :=
  let p := s.prefB kind
  if s.imageCode kind (s.bank kind p) = imgOk then some p
  else if s.imageCode kind (s.bank kind !p) = imgOk then some !p
  else none

/-- An image is in force, from a bank or from memory. -/
def State.imageInForce (s : State) (kind : Nat) (b : Option Bool) (img : List Byte) : State :=
  s.modSec fun x => { x with
    active := setAt x.active (kind - 1) b, headers := setAt x.headers (kind - 1) (imageHead img) }

/-- SEC_IMG_STATUS.PREF_B. -/
def State.showPrefs (s : State) : State :=
  s.set fSEC_IMG_STATUS_PREF_B (b2n (s.prefB 1) + 2 * b2n (s.prefB 2) + 4 * b2n (s.prefB 3))

/-- SEC_IMG_STATUS: chunks appended. -/
def fSEC_IMG_STATUS_CHUNKS : Fld := ⟨aSEC_IMG_STATUS, 16, 16⟩

def State.imgCode (s : State) (c : Nat) : State := s.set fSEC_IMG_STATUS_CODE c

/-- Bytes of the image window from its start. -/
def State.imgWindow (s : State) (n : Nat) : List Byte :=
  ((List.range (divUp n 4)).flatMap fun i => natBytes 4 (s.nat (aSEC_IMG_WINDOW i))).take n

/-- R466: bytes placed at the start of the image window. -/
def State.imgWindowPut (s : State) (bs : List Byte) : State :=
  (List.range (divUp bs.length 4)).foldl (fun s i =>
    let old := natBytes 4 (s.nat (aSEC_IMG_WINDOW i))
    s.setNat (aSEC_IMG_WINDOW i) (bytesNat (putBytes old 0 ((bs.drop (4 * i)).take 4)))) s

/-- R448: a refused command's code as a status. -/
def imgStatus (c : Nat) : Code := if c = imgOk then .ok else if c = imgWorn then .quarryWorn else .valueInvalid

/-- R448: CMD 1 begins an image. -/
def State.imgBegin (s : State) : State × Nat :=
  if s.is fCAL_QUARRY_WORN then (s.imgCode imgWorn, imgWorn)
  else if s.is fSEC_IMG_STATUS_BUSY then (s.imgCode imgOrder, imgOrder)
  else
    let s := s.modSec fun x => { x with upload := some (clampN 1 3 (s.get fSEC_IMG_CTRL_KIND), []) }
    ((s.imgCode imgOk).set fSEC_IMG_STATUS_CHUNKS 0, imgOk)

/-- R370, R448: CMD 2 appends a chunk; one that no CMD 1 precedes or that overflows the kind ends the image. -/
def State.imgAppend (s : State) (len : Nat) : State × Nat :=
  let bad := (s.imgCode imgOrder, imgOrder)
  if s.is fCAL_QUARRY_WORN then (s.imgCode imgWorn, imgWorn)
  else match s.sec.upload with
  | none => bad
  | some (kind, bs) =>
    if s.is fSEC_IMG_STATUS_BUSY then bad
    else if 1024 + imageMax kind < bs.length + len then ((s.modSec fun x => { x with upload := none }).imgCode imgOrder, imgOrder)
    else
      let s := s.modSec fun x => { x with upload := some (kind, bs ++ s.imgWindow len) }
      ((s.imgCode imgOk).set fSEC_IMG_STATUS_CHUNKS (s.get fSEC_IMG_STATUS_CHUNKS + 1), imgOk)

/-- R445, R448: the code a commit of an image ends with, apart from what Quarry does. -/
def State.commitCode (s : State) (kind : Nat) (bs : List Byte) : Nat :=
  let c := s.imageCode kind bs
  if c = imgOk && 1024 + imageLength bs < bs.length then imgOrder else c

/-- R448: CMD 3 starts the commit.  The code is the one the commit will end with, unless Quarry becomes `WORN`. -/
def State.imgCommit (s : State) : State × Nat :=
  let refuse := fun (c : Nat) => ((s.imgCode c).raise fSEC_ALARM_IMG_REFUSED, c)
  if s.is fCAL_QUARRY_WORN then refuse imgWorn
  else match s.sec.upload with
  | none => refuse imgOrder
  | some (kind, bs) =>
    if s.is fSEC_IMG_STATUS_BUSY then refuse imgOrder
    else ((s.setB fSEC_IMG_STATUS_BUSY true).imgCode imgOk, s.commitCode kind bs)

/-- R465: CMD 4 cancels the image in progress. -/
def State.imgCancel (s : State) : State × Nat :=
  (((s.modSec fun x => { x with upload := none }).setB fSEC_IMG_STATUS_BUSY false).imgCode imgOk, imgOk)

/-- R446: CMD 5, where the boot ROM waits for it: the image in the window is verified and run from memory. -/
def State.imgRecover (s : State) : State × Nat :=
  if s.get fSEC_STATUS_STAGE ≠ 15 || s.sec.boot ≠ 0 then (s, imgOk)
  else
    let img := s.imgWindow 65536
    let c := s.imageCode 1 img
    if c ≠ imgOk then (s.imgCode c, c)
    else
      let s := (s.imageInForce 1 none img).modSec fun x => { x with boot := 1 }
      (((s.setB fSEC_STATUS_RECOVERY true).set fSEC_STATUS_STAGE 1).imgCode imgOk, imgOk)

/-- R465: a write of SEC_IMG_CTRL: KIND and LEN are stored, CMD acts. -/
def State.writeImgCtrl (s : State) (v : Nat) : State × Code :=
  let s := s.setNat aSEC_IMG_CTRL (Nat.land v 0xFFFF0030)
  let r := match v % 8 with
    | 1 => s.imgBegin
    | 2 => s.imgAppend (max 1 (s.get fSEC_IMG_CTRL_LEN))
    | 3 => s.imgCommit
    | 4 => s.imgCancel
    | 5 => s.imgRecover
    | _ => (s, imgOk)
  (r.1, imgStatus r.2)

/-- A command of SEC_IMG_CTRL. -/
def State.imgRow (s : State) (by_ : Source) (cmd kind len : Nat) : Ans :=
  .next (s.byWrite by_ aSEC_IMG_CTRL fun s =>
    let r := s.writeImgCtrl (cmd + kind * 16 + 65536 * len)
    r.1.answer by_ r.2)

def execImgBegin (by_ : Source) (kind : BitVec 2) (len : BitVec 16) (s : State) : Ans := s.imgRow by_ 1 kind.toNat len.toNat

/-- R448, R466: over COP the chunk of 0xA110:02 stands in the window. -/
def execImgAppend (by_ : Source) (kind : BitVec 2) (len : BitVec 16) (s : State) : Ans := s.imgRow by_ 2 kind.toNat len.toNat

def execImgCommit (by_ : Source) (kind : BitVec 2) (len : BitVec 16) (s : State) : Ans := s.imgRow by_ 3 kind.toNat len.toNat

def execImgCancel (by_ : Source) (kind : BitVec 2) (len : BitVec 16) (s : State) : Ans := s.imgRow by_ 4 kind.toNat len.toNat

def execImgRunRecovery (by_ : Source) (kind : BitVec 2) (len : BitVec 16) (s : State) : Ans := s.imgRow by_ 5 kind.toNat len.toNat

/-- R448: the commit completes: verified, written with its header last, then the preference record; or refused, and the
bank is as before.  `failed` blocks of Quarry are retired meanwhile (R370).  No page program starts while VDD_NV is low
(R489). -/
def execImgCommitDone (failed : Nat) (s : State) : Ans :=
  match s.sec.upload with
  | none => .next s
  | some (kind, bs) =>
    if s.cold || !s.is fSEC_IMG_STATUS_BUSY || s.sec.nvLow then .next s
    else
      let s := s.setB fSEC_IMG_STATUS_BUSY false
      let c := s.commitCode kind bs
      let q := if c = imgOk then s.quarryRetire failed else (s, false)
      let c := if c = imgOk && (q.2 || q.1.is fCAL_QUARRY_WORN) then imgWorn else c
      let s := (q.1.modSec fun x => { x with upload := none }).imgCode c
      if c ≠ imgOk then .next (s.raise fSEC_ALARM_IMG_REFUSED)
      else
        let used := (s.sec.active.getD (kind - 1) none).getD (s.prefB kind)
        let bank := !used
        .next (s.modSec fun x => { x with
          banks := assocPut x.banks (2 * kind + b2n bank) bs, prefs := setAt x.prefs (kind - 1) bank }).showPrefs

/-! ### Lock, fuses (R447, R450, R454) -/

/-- R447: stage 1 raises the minimum SVN; then SEC_LOCK is set. -/
def State.advanceSvn (s : State) : State :=
  let h := s.sec.headers.getD 0 []
  let svn := min 64 (imageSvn h)
  if bitOf (fieldBytes h 6 2) 0 && s.sec.svn < svn then (s.modSec fun x => { x with svn := svn }).set fSEC_STATUS_SVN svn else s

/-- R447, R450: the setup window closes. -/
def State.lockWindow (s : State) : State :=
  if s.is fSEC_STATUS_SEC_LOCK then s
  else
    let s := (s.advanceSvn).modSec fun x => { x with windowFrom := none }
    ((s.setB fSEC_STATUS_SEC_LOCK true).setB fGLB_STATUS_SEC_LOCK true).setB fSEC_STATUS_WINDOW_HOST false

/-- R450: a write of 1 to SEC_CTRL.LOCK. -/
def execSecLockWrite (by_ : Source) (s : State) : Ans :=
  .next (s.byWrite by_ aSEC_CTRL fun s => s.lockWindow.answer by_ .ok)

/-- R450: WINDOW_MS after MGT_READY. -/
def execWindowTimeout (s : State) : Ans :=
  match s.sec.windowFrom with
  | none => .next s
  | some c =>
    if s.cold || s.is fSEC_STATUS_SEC_LOCK then .next s
    else .next (s.waitClk (c + cyclesMs * max 1 (s.get fSEC_CFG_WINDOW_MS))).lockWindow

/-- R454: a write of 0xB1 to SEC_FUSE_CMD. -/
def State.fuseHash (s : State) : State :=
  if s.sec.cust.isSome || s.is fSEC_STATUS_SEC_LOCK then s.logAcc .locked aSEC_FUSE_CMD true
  else
    let h := (List.range 16).flatMap fun w => natBytes 4 (s.nat (aSEC_CUST_HASH w))
    (s.modSec fun x => { x with cust := some h }).setB fSEC_STATUS_CUST_HASH true

def execCustomerHashFuse (s : State) : Ans := .next (s.hostWrite aSEC_FUSE_CMD State.fuseHash)

/-! ### Attestation (R455, R456) -/

/-- R455: the identity key and its certificate. -/
def idPrivate : Nat := Config.identityKey.toNat % (n521 - 1) + 1
def idCertificate : List Byte := certificate idPrivate Config.identityEndorsement.toNat

/-- R465: SEC_CUST_HASHw reads the fused value. -/
def State.custWord (s : State) (w : Nat) : Nat :=
  match s.sec.cust with
  | some h => fieldBytes h (4 * w) 4
  | none => 0

/-- R456: the RWL registers of BAR0 in rising order of offset. -/
def rwlAddrs : List Nat :=
  [aSEC_CFG, aSEC_CST_BOUND] ++ (List.range 16).map aSEC_CUST_HASH
    ++ (List.range 64).flatMap (fun r => [aSEC_REG_FIRST r, aSEC_REG_LAST r, aSEC_REG_RIGHTS r])
    ++ (List.range 32).flatMap (fun e => [aCIPH_KPOL_RANGE e, aCIPH_KPOL_FLAGS e])

/-- R456: the bytes of the RWL registers, as they read. -/
def State.rwlBytes (s : State) : List Byte :=
  rwlAddrs.flatMap fun a =>
    natBytes 4 (if aSEC_CUST_HASH 0 ≤ a && a < aSEC_CUST_HASH 16 then s.custWord ((a - aSEC_CUST_HASH 0) / 4) else s.nat a)

/-- R456: a request for a quote. -/
def State.attRequest (s : State) (by_ : Source) (nonce : List Byte) : State × Code :=
  if s.is fSEC_ATT_STATUS_BUSY then
    (match by_ with
     | .pcie => s.logAcc .resBusy aSEC_ATT_CMD true
     | .cop _ => s, .resBusy)
  else (((s.modSec fun x => { x with quote := some nonce }).setB fSEC_ATT_STATUS_BUSY true).setB fSEC_ATT_STATUS_READY false, .ok)

/-- R456: over PCIe the command stands for the writes of the nonce and of SEC_ATT_CMD, over COP for that of 0xA100:01. -/
def execAttRequest (by_ : Source) (nonce : BitVec 256) (s : State) : Ans :=
  .next (s.byWrite by_ aSEC_ATT_CMD fun s =>
    let s := match by_ with
      | .pcie => s.setWordsFrom (aSEC_ATT_NONCE 0) 8 nonce.toNat
      | .cop _ => s
    let r := s.attRequest by_ (natBytes 32 nonce.toNat)
    r.1.answer by_ r.2)

/-- R456: bytes 0 to 319 of a quote generated now. -/
def State.quoteBody (s : State) (nonce : List Byte) : List Byte :=
  let flags := b2n (s.is fSEC_STATUS_SEC_LOCK) + 2 * b2n s.sec.cust.isSome + 4 * b2n (s.is fSEC_STATUS_SETUP_AUTH)
    + 8 * b2n (s.is fSEC_STATUS_RECOVERY)
  [0x51, 0x55, 0x4F, 0x54] ++ natBytes 1 1 ++ natBytes 1 flags ++ natBytes 1 (s.get fTIME_STATUS_TB0_STATE)
    ++ natBytes 1 s.sec.svn ++ natBytes 8 Config.serial.toNat ++ sliceBytes nonce 0 32 ++ time80Bytes s.tb0
    ++ List.replicate 6 0
    ++ s.sec.headers.flatMap (fun h => if h.isEmpty then List.replicate 64 0 else sha512 h)
    ++ sha512 s.rwlBytes

/-- R456: the quote is ready.  The signature's own random number is open in FIPS 186-5: a free value (log entry 2). -/
def execAttQuoteReady (s : State) : Ans :=
  match s.sec.quote with
  | none => .next s
  | some nonce =>
    if s.cold then .next s
    else
      let body := s.quoteBody nonce
      let k := (Config.freeValue s.free).toNat % (n521 - 1) + 1
      let s := s.takeFree
      let q := body ++ ecdsaSignWith idPrivate k body
      let s := (List.range 113).foldl (fun s i => s.setReg (aSEC_QUOTE i) (byteAreaWord q i)) s
      let s := (s.modSec fun x => { x with quote := none }).setB fSEC_ATT_STATUS_BUSY false
      .next ((s.setB fSEC_ATT_STATUS_READY true).raise fSEC_ALARM_ATT_DONE)

/-- R460, R465: the registers of SEC that show more than a stored word; none for every other address. -/
def State.secView (s : State) (a : Nat) : Option Nat :=
  if a = aSEC_CIPH_BLOCKED then some (s.ciph.blocked.map fun b => (b.1, b.2.1)).eraseDups.length
  else if a = aSEC_RST_STATUS then some (withBits (s.nat a) 24 1 (b2n !s.cst.ready))
  else if aSEC_CUST_HASH 0 ≤ a && a < aSEC_CUST_HASH 16 then some (s.custWord ((a - aSEC_CUST_HASH 0) / 4))
  else if aSEC_ROOT_HASH 0 ≤ a && a < aSEC_ROOT_HASH 16 then
    some (fieldBytes (natBytes 64 Config.rootHash.toNat) (a - aSEC_ROOT_HASH 0) 4)
  else if aSEC_IDCERT 0 ≤ a && a < aSEC_IDCERT 69 then some (fieldBytes idCertificate (a - aSEC_IDCERT 0) 4)
  else none

end Sys2Proof.Machine
end

