-- ==== Sys2Proof/Machine/Reset.lean ====
section
/-!
DEFINITION. Per-function resets (R457 to R464), Lodge core resets (R461), safe states (R434, R435), Function Level Reset
(R423), and the CIPH blocks of R460.
-/

namespace Sys2Proof.Machine

/-! ### Entering and leaving a reset (R457 to R459) -/

/-- R464: a reset acts after the freeze of a Level. -/
def State.endFreeze (s : State) : State :=
  match s.lvl.frozen with
  | [] => s
  | is =>
    let s := s.waitClk ((s.lvl.strobe.getD 0) + is.foldl (fun m i => max m (islandFreeze i)) 0)
    let s := s.flushHeld is.contains
    { s with lvl := { s.lvl with frozen := [] } }

/-- R458: staged and RWL registers keep their values. -/
def keptReg (a : Nat) : Bool :=
  match regAt a with
  | some h => h.row.staged || h.row.acc == .rwl
  | none => false

/-- The ports of a client group. -/
def State.groupPorts (s : State) (g : Nat) : List Nat := (List.range 64).filter fun p => s.portGroup p == g

/-- R458: a lane enters its reset.  PMON of the lane, TXD_COURSE and LFR_COURSE_RX are kept; its bins take what the FEC has
counted, and the seconds that the reset overlaps stay its section's (R176). -/
def State.laneReset (s : State) (n : Lane) : State :=
  let s := (s.modPmon n fun p => { p with through := s.sectionExists n }).touch n
  let s := s.fecFlush n
  let s := (s.calLaneReset n).kscReset n
  let base := laneBase n
  let s := s.resetRange base (0x200000 + base) fun a =>
    keptReg a || (0xE0000 + base ≤ a && a < 0x100000 + base) || a == aTXD_COURSE n || a == aLFR_COURSE_RX n
  let s := (s.modLane n fun l => { pmon := l.pmon }).touch n
  ((s.memLane n).refChanged n).timeRefresh

/-- R458: a client group enters its reset. -/
def State.groupReset (s : State) (g : Nat) : State :=
  let s := s.cliReset g
  let s := (s.groupPorts g).foldl (fun s p => s.resetRange (aCLI_PORT_CFG p) (aCLI_PORT_CFG p + 0x80) keptReg) s
  let s := (List.range 8).foldl (fun s k =>
    let a := aCLI_FX_CFG k
    if (s.functionsOf a).contains (8 + g) then s.resetRange a (a + 0x200) keptReg else s) s
  let s := (s.memGroup g).showPorts
  ((List.range 16).foldl (fun s r => s.refUpdate (8 + r)) s).reselect

/-- R458: CIPH enters its reset. -/
def State.cipherReset (s : State) : State :=
  let s := s.ciphReset
  let s := (s.resetRange 0x700000 0x800000 keptReg).resetRange 0x8000000 0x9000000 fun _ => false
  s.memCiph

/-- R252, R307, R351, R365, R458: function `k` enters its reset. -/
def State.functionEnter (s : State) (k : Nat) : State :=
  let s := (s.endFreeze).set ⟨aSEC_RST_STATUS, k, 1⟩ 1
  if h : k < 8 then s.laneReset ⟨k, h⟩
  else match k with
  | 8 => s.groupReset 0
  | 9 => s.groupReset 1
  | 10 => s.cipherReset
  | 11 => (s.eachLane fun n s => s.kscReset n).timeRefresh
  | 12 => s.pluResetEnter
  | 13 => s.hkmReset
  | 14 => s.calReset.resetRange 0x600000 0x700000 fun a => keptReg a || a == aCAL_QUARRY
  | _ => s

/-- The bit of GLB_SAFE that the reset of function `k` leaves (R435). -/
def safeOf (k : Nat) : Option Nat :=
  if k ≤ 10 then some k else match k with
  | 12 => some 11
  | 13 => some 13
  | 14 => some 14
  | _ => none

/-- R434: the per-byte parity finds flipped bits. -/
def parityFinds (flips : Nat) : Bool :=
  (List.range 4).any fun i => parityAt flips ((List.range 8).map fun j => 8 * i + j)

/-- R434: the bits of a register that have changed since its parity was written; a write has recomputed the parity of a
register whose word is no longer the corrupted one. -/
def State.flipped (s : State) (a : Nat) : Word :=
  match s.sec.corrupt.find? fun p => p.1 == a && s.reg a == p.2.1 with
  | some p => p.2.2
  | none => 0

/-- R434: at the release, a kept register whose parity fails takes its reset value. -/
def State.parityRelease (s : State) (k : Nat) : State :=
  let mine := s.sec.corrupt.filter fun p => (s.functionsOf p.1).contains k || (safeOf k).any (s.safeBits p.1).contains
  let t := mine.foldl (fun t p => if parityFinds (s.flipped p.1).toNat then t.setReg p.1 (resetWord p.1) else t) s
  t.modSec fun x => { x with corrupt := x.corrupt.filter fun p => !mine.contains p }

/-- What a lane's registers show once it is up. -/
def State.laneShow (s : State) (n : Lane) : State :=
  let s := (s.setB (fCONV_STATE_REF_OK n) (s.refPresent n)).showTxFmt n
  let s := ((s.latchModes n).showRxFmt n).showOwner n
  ((((s.showLoLim n).lfrDefects n).refChanged n).nlcChanged n).kscJudge n

/-- R463, R464: function `k` leaves its reset: kept registers are checked, deferred Course items are written first. -/
def State.functionLeave (s : State) (k : Nat) : State :=
  let s := (s.parityRelease k).courseRelease k
  let s := (s.set ⟨aSEC_RST_STATUS, k, 1⟩ 0).fillsEnd
  let s := match safeOf k with
    | some b => s.set ⟨aGLB_SAFE, b, 1⟩ 0
    | none => s
  if h : k < 8 then (((s.laneShow ⟨k, h⟩).loZero ⟨k, h⟩).kscRefresh).timeRefresh
  else match k with
  | 8 => s.groupsRefresh
  | 9 => s.groupsRefresh
  | 11 => ((s.eachLane fun n s => s.kscJudge n).kscRefresh).timeRefresh
  | 12 => s.pluResetLeave
  | 13 => s.hkmDefault.hkmShow
  | 14 => s.calLoad
  | _ => s

/-- R457: before MGT_READY a write of a reset bit is stored and acts from MGT_READY. -/
def State.resetsAct (s : State) : Bool := s.is fGLB_STATUS_MGT_READY

/-- R457: reset bit `k` is written. -/
def State.writeRstBit (s : State) (k : Nat) (v : Bool) : State :=
  let s := s.setB ⟨aSEC_RST_FUNC, k, 1⟩ v
  if v && s.resetsAct && !s.held k then s.functionEnter k else s

/-- R458, R461: a Lodge core's bit of SEC_RST_STATUS. -/
def fLodge (k : Nat) : Fld := ⟨aSEC_RST_STATUS, 16 + k, 1⟩

def State.writeLodgeBit (s : State) (k : Nat) (v : Bool) : State :=
  let s := s.setB ⟨aSEC_RST_LODGE, k, 1⟩ v
  if v && s.resetsAct then s.setB (fLodge k) true else s

def execFuncResetAssert (by_ : Source) (k : Fin 15) (s : State) : Ans :=
  .next (s.byWrite by_ aSEC_RST_FUNC fun s => (s.writeRstBit k true).answer by_ .ok)

def execFuncResetRelease (by_ : Source) (k : Fin 15) (s : State) : Ans :=
  .next (s.byWrite by_ aSEC_RST_FUNC fun s => (s.writeRstBit k false).answer by_ .ok)

/-- R457, R463: within 2 ms of the release the function leaves its reset. -/
def execFuncResetExit (k : Fin 15) (s : State) : Ans :=
  if s.cold || !s.resetsAct || !s.held k || fld (s.reg aSEC_RST_FUNC) k 1 = 1 then .next s else .next (s.functionLeave k)

/-- R461: a Lodge core's bit is written 1 by a source, or an access fault of R384 resets the core. -/
def execLodgeCoreReset (by_ : Option Source) (k : Fin 8) (s : State) : Ans :=
  match by_ with
  | some b => .next (s.byWrite b aSEC_RST_LODGE fun s => (s.writeLodgeBit k true).answer b .ok)
  | none => if s.cold then .next s else .next (s.setB (fLodge k) true)

/-- R461: a released core's code agrees with its measurement at boot (`good`), or it stays in reset. -/
def execLodgeCoreRestart (k : Fin 8) (good : Bool) (s : State) : Ans :=
  if s.cold || !s.resetsAct || !s.is (fLodge k) || fld (s.reg aSEC_RST_LODGE) k 1 = 1 then .next s
  else if good then .next (s.setB (fLodge k) false)
  else .next (s.raise fSEC_ALARM_IMG_MISMATCH)

/-- R460: every block ends. -/
def State.ciphUnblock (s : State) : State := { s with ciph := { s.ciph with blocked := [], blockSent := [] } }

def execCiphUnblock (by_ : Source) (s : State) : Ans :=
  .next (s.byWrite by_ aSEC_CTRL fun s => s.ciphUnblock.answer by_ .ok)

/-! ### Safe states (R434, R435) -/

/-- R53, R435: every DAC channel of a lane outputs 0 mV, and KSC sends nothing more. -/
def State.laneSafe (s : State) (n : Lane) : State :=
  let s := s.modConv n fun c => { c with driven := false }
  if (s.ksc n).sending.isSome then ((s.modKsc n fun k => { k with sending := none }).emit (.ksCut n)).raise (fTXD_ALARM_KS_LOST n)
  else s

/-- R435: what the entry of a block into its safe state does, by its bit of GLB_SAFE. -/
def State.safeEnter (s : State) (b : Nat) : State :=
  let s := s.set ⟨aGLB_SAFE, b, 1⟩ 1
  if h : b < 8 then s.laneSafe ⟨b, h⟩
  else match b with
  | 8 => (s.groupPorts 0).foldl (fun s p => s.faultAction p) s
  | 9 => (s.groupPorts 1).foldl (fun s p => s.faultAction p) s
  | 10 => s.zeroAll
  | 12 => (s.servosHold true).launchesCancel
  | 13 => s.hkmSafe
  | 14 => s.calSafe
  | 17 => s.modCrs fun c => { c with pending := none }
  | _ => s

/-- R434: a register that carries parity: RW, RWM or RWL, the in-force copy where it is staged. -/
def hasParity (a : Nat) : Bool :=
  match regAt a with
  | some h => h.row.acc == .rw || h.row.acc == .rwm || h.row.acc == .rwl
  | none => false

/-- R434: CFG_PARITY at a register. -/
def State.cfgParity (s : State) (a : Nat) : State :=
  let s := if s.is fGLB_ALARM_CFG_PARITY then s else s.setNat aGLB_PAR_ADDR a
  let s := s.raise fGLB_ALARM_CFG_PARITY
  (s.safeBits a).foldl (fun s b => if s.safe b then s else s.safeEnter b) s

/-- R434: the background check reads a register of which `flips` bits have changed since it was last read. -/
def execCfgParityScan (addr : Nat) (flips : Word) (s : State) : Ans :=
  if s.cold || !hasParity addr then .next s
  else
    let w := s.reg addr ^^^ flips
    let d := s.flipped addr ^^^ flips
    let s := s.setReg addr w
    let s := s.modSec fun x => { x with
      corrupt := (x.corrupt.filter fun p => p.1 != addr) ++ if d = 0 then [] else [(addr, w, d)] }
    .next (if parityFinds d.toNat then s.cfgParity addr else s)

/-! ### PCIe resets (R423) -/

/-- R423: a Function Level Reset, a hot reset of the link or PCIE_PERST_N. -/
def execPcieFlr (s : State) : Ans :=
  let s := s.resetRange (aGLB_MSIX_TABLE 0) (aGLB_MSIX_TABLE 128) fun _ => false
  let s := { s with msixPending := [] }
  let s := s.resetRange aGLB_ACC_LAST (aGLB_ACC_CNT + 8) fun _ => false
  .next (((s.setNat aGLB_INT_EN 0).releaseLevel .pcie).courseOrphan .pcie)

end Sys2Proof.Machine
end

