-- ==== Sys2Proof/Machine/Boot.lean ====
section
/-!
DEFINITION. Cold reset and what asserts it (R442, R487, R488, R499), the boot sequence (R443 to R450), warm reset (R462),
and the events of the management PHYs and of Quarry's supply (R417, R489).
-/

namespace Sys2Proof.Machine

/-! ### Cold reset (R442) -/

/-- R442: the device in cold reset.  The fuses, Quarry, Cornerstone, OSCIN and the sampling references go on; SEC's own
record of what holds the reset stays. -/
def State.coldReset (s : State) : State :=
  let s := s.eachLane fun n s => if (s.ksc n).sending.isSome then s.emit (.ksCut n) else s
  let t : State := { State.reset with
    pending := s.pending, clk := s.clk, free := s.free, sent := s.sent, sampRef := s.sampRef
    regs := s.regs.filter fun p => p.1 == aCAL_QUARRY || p.1 == aCST_SEL || p.1 == aCST_SEL + 4
    ciph := { fitted := s.ciph.fitted, reseed := List.replicate 21 s.clk }
    plu := { oscin := s.plu.oscin, oscinBack := s.plu.oscinBack }
    cal := { domains := s.cal.domains.map fun d => { bankA := d.bankA, bankB := d.bankB, factory := d.factory } }
    cst := { s.cst with taps := [], portTap := [], lastSample := none }
    sec := { s.sec with
      boot := 0, active := [none, none, none], headers := [[], [], []], bound := s.sec.cust, upload := none, quote := none
      windowFrom := none, warm := false, corrupt := [] } }
  t.cstShow

/-- R443: the reset is released and the boot sequence starts with the fill; SEC shows the fuses and PREF_B.  An OSCIN
that has failed acts at once. -/
def State.bootStart (s : State) : State :=
  let s := ({ s with cold := false, bootHold := true } : State).memFillStart
  let s := ((s.set fSEC_STATUS_SVN s.sec.svn).setB fSEC_STATUS_CUST_HASH s.sec.cust.isSome).showPrefs
  if s.plu.oscin then s else (s.setB fTIME_STATUS_OSCIN_WAIT true).oscinFails

/-- The release, once RST_N is high, every monitored rail is good and no thermal trip holds the reset. -/
def State.tryRelease (s : State) : State :=
  if s.cold && !s.sec.rstLow && !s.sec.under && !s.sec.trip then s.bootStart else s

/-- R442, R487: power-on, or RST_N low. -/
def execColdReset (s : State) : Ans :=
  .next (s.coldReset.modSec fun x => { x with rstLow := true, tripLow := x.trip })

/-- R442, R487, R499: RST_N is released; `cool`: every sensor reads below 105 °C.  After a thermal trip both are needed. -/
def execColdResetRelease (cool : Bool) (s : State) : Ans :=
  let s := s.modSec fun x => { x with
    rstLow := false, trip := x.trip && !(x.tripLow && cool), therm := x.therm && !cool, hot := if cool then [] else x.hot }
  .next s.tryRelease

/-- R488: a monitored rail below 93 % of nominal for 2 µs. -/
def execSupplyUndervoltage (s : State) : Ans := .next (s.coldReset.modSec fun x => { x with under := true })

/-- R488: 10 ms after every monitored rail has returned. -/
def execSupplyRestored (s : State) : Ans := .next (s.modSec fun x => { x with under := false }).tryRelease

/-- R499: a sensor at 125 °C for 100 µs. -/
def execThermalTrip (s : State) : Ans :=
  .next (s.coldReset.modSec fun x => { x with trip := true, tripLow := x.rstLow, therm := true })

/-! ### The boot sequence (R443) -/

/-- A cold start or a warm reset runs the boot sequence. -/
def State.booting (s : State) : Bool := !s.cold && (s.bootHold || s.is fSEC_RST_STATUS_WARM)

/-- Step `k` of R443 is passed. -/
def State.bootStep (s : State) (k : Nat) : State := s.modSec fun x => { x with boot := k }

/-- R446: no valid image: the boot ROM waits. -/
def State.bootFail (s : State) : State := ((s.bootStep 0).setB fSEC_STATUS_BOOT_FAIL true).set fSEC_STATUS_STAGE 15

/-- R446: the boot ROM selects and verifies a stage-1 image. -/
def execBootStage1Verified (s : State) : Ans :=
  if !s.booting || !s.is fMEM_STATUS_FILL_DONE || s.sec.boot ≠ 0 || s.get fSEC_STATUS_STAGE ≠ 0 then .next s
  else match s.takeBank 1 with
  | none => .next s.bootFail
  | some b => .next (((s.imageInForce 1 (some b) (s.bank 1 b)).bootStep 1).set fSEC_STATUS_STAGE 1)

/-- R443, R446: stage 1 verifies the engine firmware set and loads every engine. -/
def execBootEnginesLoaded (s : State) : Ans :=
  if !s.booting || s.sec.boot ≠ 1 then .next s
  else match s.takeBank 2 with
  | none => .next s.bootFail
  | some b =>
    let s := s.raiseIf (b != s.prefB 2) fSEC_ALARM_BANK_FALLBACK
    let img := s.bank 2 b
    .next ((((s.imageInForce 2 (some b) img).setNat aGLB_FW (fieldBytes img 8 4)).bootStep 2).set fSEC_STATUS_STAGE 2)

/-- R449: stage 1 applies the setup record, or rejects it whole; the regions take effect.  A warm reset skips it. -/
def execSetupRecordApplied (s : State) : Ans :=
  if !s.booting || s.is fSEC_RST_STATUS_WARM || s.sec.boot ≠ 2 then .next s
  else
    let s := match s.takeBank 3 with
      | none => s
      | some b =>
        let img := s.bank 3 b
        match s.applySetup (imagePayload img) with
        | none => s.raise fSEC_ALARM_IMG_REFUSED
        | some t => (t.imageInForce 3 (some b) img).setB fSEC_STATUS_SETUP_AUTH s.sec.bound.isSome
    let s := (s.setB fSEC_STATUS_REGIONS_ON true).setB fSEC_STATUS_WINDOW_HOST (s.is fSEC_CFG_WINDOW_HOST)
    .next (s.bootStep 3)

/-- R369, R443: the calibration sets are loaded. -/
def execCalSetsLoaded (s : State) : Ans :=
  if s.booting && (s.sec.boot = 3 || (s.sec.boot = 2 && s.is fSEC_RST_STATUS_WARM)) then .next (s.calLoad.bootStep 4)
  else .next s

/-- R443, R447: with WINDOW_HOST = 0 the minimum SVN is advanced and SEC_LOCK set; a warm reset finds it set. -/
def execSecLockSet (s : State) : Ans :=
  if s.booting && s.sec.boot = 4 && !s.is fSEC_CFG_WINDOW_HOST then
    .next ((if s.is fSEC_STATUS_SEC_LOCK then s.advanceSvn else s.lockWindow).bootStep 5)
  else .next s

/-- R443, R457: every function that no request holds is released from the boot hold, or from warm reset; stored requests
act. -/
def State.releaseAll (s : State) : State :=
  let req := fun (k : Nat) => fld (s.reg aSEC_RST_FUNC) k 1 = 1
  let s := (List.range 15).foldl (fun s k => if s.held k && !req k then s.functionLeave k else s) s
  let s := (List.range 15).foldl (fun s k => if req k && !s.held k then s.functionEnter k else s) s
  (List.range 8).foldl (fun s k => s.set (fLodge k) (fld (s.reg aSEC_RST_LODGE) k 1)) s

/-- R417: Link up of MGT0 or MGT1. -/
def State.linkShow (s : State) (i : Nat) : State :=
  let up := s.sec.phy.getD i false && s.obj (0x1011 + i) 1 1 = 1
  s.setObj (0x1011 + i) 4 (natBytes 1 (b2n up))

/-- What the functions show at the end of the boot hold. -/
def State.showAll (s : State) : State :=
  let s := ((s.eachLane fun n s => if s.held n then s else s.laneShow n).groupsRefresh).hkmShow
  let s := ((List.range 32).foldl (fun s r => s.refUpdate r) s).reselect
  (((s.kscRefresh).timeRefresh).linkShow 0).linkShow 1

/-- R443, R450, R462: MGT_READY. -/
def execMgtReady (s : State) : Ans :=
  let ready := s.sec.boot = 5 || (s.sec.boot = 4 && (s.is fSEC_CFG_WINDOW_HOST || s.is fSEC_STATUS_SEC_LOCK))
  if !s.booting || !ready then .next s
  else
    let warm := s.is fSEC_RST_STATUS_WARM
    let s := (({ s with bootHold := false } : State).setB fSEC_RST_STATUS_WARM false).setB fGLB_STATUS_MGT_READY true
    let s := ((s.set fSEC_STATUS_STAGE 3).bootStep 6).releaseAll
    let s := if warm then s else s.showAll
    .next (if s.is fSEC_STATUS_SEC_LOCK || s.sec.windowFrom.isSome then s
      else s.modSec fun x => { x with windowFrom := some s.clk })

/-! ### Warm reset (R462) -/

/-- The functions that a warm reset holds: all but PLU. -/
def warmFunctions : List Nat := [0, 1, 2, 3, 4, 5, 6, 7, 8, 9, 10, 11, 13, 14]

/-- R462: a write of 1 to SEC_CTRL.WARM; while a Course is armed the reset waits. -/
def State.warmRequest (s : State) : State :=
  if !s.resetsAct then s
  else (s.modSec fun x => { x with warm := true }).setB fSEC_RST_STATUS_WARM_WAIT s.crs.armed.isSome

def execWarmResetRequest (by_ : Source) (s : State) : Ans :=
  .next (s.byWrite by_ aSEC_CTRL fun s => s.warmRequest.answer by_ .ok)

/-- R462: warm reset starts once no Course is armed: the pending Course is discarded, every Level hold ends, and the
functions and Lodge cores are held while the boot sequence runs again from stage 1. -/
def execWarmResetStart (s : State) : Ans :=
  if s.cold || !s.sec.warm || s.crs.armed.isSome then .next s
  else
    let s := s.endFreeze
    let s := ({ s with lvl := { s.lvl with held := none } } : State).modCrs fun c =>
      { c with pending := none, validating := none }
    let s := (s.setB fSEC_RST_STATUS_WARM_WAIT false).setB fSEC_RST_STATUS_WARM true
    let s := (s.setB fGLB_STATUS_MGT_READY false).set fSEC_STATUS_STAGE 0
    let s := (s.setB fSEC_STATUS_RECOVERY false).setB fSEC_STATUS_BOOT_FAIL false
    let s := (s.modSec fun x => { x with warm := false, boot := 0 })
    let s := warmFunctions.foldl (fun s k => if s.held k then s else s.functionEnter k) s
    .next (s.set fSEC_RST_STATUS_LODGE 255)

/-! ### Management PHYs, Quarry's supply (R417, R489) -/

/-- R417: a PHY gains or loses link. -/
def execMgtLinkChange (i : Fin 2) (v : Bool) (s : State) : Ans :=
  let s := s.modSec fun x => { x with phy := setAt x.phy i v }
  .next (if s.cold then s else s.linkShow i)

/-- R489: VDD_NV falls below 1.68 V, or returns above it. -/
def execVddNvThreshold (above : Bool) (s : State) : Ans := .next (s.modSec fun x => { x with nvLow := !above })

end Sys2Proof.Machine
end

