-- ==== Sys2Proof/Machine/Access.lean ====
section
/-!
DEFINITION. The window of BAR0 (18_register_interface.md): what a read returns and what it changes (R425 to R431, R436,
R437), and what a write does under each access code (R427 to R432, R507), for PCIe and for COP objects that map
registers (R393).
-/

namespace Sys2Proof.Machine

/-! ### What a register shows -/

/-- R418, R439: 0x1200:01: 0 none, 1 pending, 2 armed, 3 both.  A Course being validated is still pending. -/
def State.crsState (s : State) : Nat := b2n (s.crs.pending.isSome || s.crs.validating.isSome) + 2 * b2n s.crs.armed.isSome

/-- R30: the owner of the pending Course. -/
def State.crsOwner (s : State) : Option Source :=
  match s.crs.pending with
  | some p => some p.owner
  | none => s.crs.validating.map (·.owner)

/-- R439, R441: the Course registers of GLB that show the sequencer. -/
def State.crsView (s : State) (a : Nat) : Option Nat :=
  if a = aGLB_CRS_STATUS then
    some (s.get fGLB_CRS_STATUS_RESULT + 2 ^ 16 * b2n s.crs.validating.isSome + 2 ^ 17 * s.crsState
      + 2 ^ 19 * b2n (s.crsOwner == some .pcie) + 2 ^ 20 * s.get fGLB_CRS_STATUS_WHERE_KIND)
  else if a = aGLB_CRS_LAST then some s.crs.last
  else if a = aGLB_CRS_ARMED then some ((s.crs.armed.map (·.number)).getD 0)
  else none

/-- R441: GLB. -/
def State.glbView (s : State) (a : Nat) : Nat :=
  if a = aGLB_ALARM_SUM then s.alarmSum
  else if a = aGLB_ID then withBits (s.nat a) 24 1 (b2n s.ciph.fitted)
  else if a = aGLB_SERIAL then Config.serial.toNat % 2 ^ 32
  else if a = aGLB_SERIAL + 4 then Config.serial.toNat / 2 ^ 32
  else if a = aGLB_MSIX_PBA then s.msixPending.foldl (fun v i => Nat.lor v (2 ^ i)) 0
  else (s.levelView a).getD ((s.crsView a).getD (s.nat a))

/-- R257, R258: TIME_TBx_NOW and NOWF; TB3's are those of Cornerstone, zero until it is ready. -/
def State.nowView (s : State) (x k : Nat) : Nat :=
  let acc := if x = 3 then (if s.cst.ready then s.cst.tb3.acc else 0) else (s.tbx x).acc
  if k = 3 then 65536 * (acc % unitsPerNs) / unitsPerNs else time80Word (acc / unitsPerNs) k

/-- R425: the value of a register, live. -/
def State.readView (s : State) (h : RegHit) (a : Nat) : Nat :=
  if h.row.acc = .wo then 0
  else match h.block with
  | .glb => s.glbView a
  | .sec => (s.secView a).getD (s.nat a)
  | .ciph => if s.ciph.fitted then (s.ciphView a).getD (s.nat a) else 0
  | .time =>
    if h.row.off = 0x100 then s.nowView h.i h.word
    else if h.row.off = 0x10C then s.nowView h.i 3
    else s.nat a
  | .cst => s.cstView a
  | .conv => (s.capView (Fin.ofNat 8 h.lane) (a - laneBase h.lane)).getD (s.nat a)
  | .pmon =>
    if h.row.off = 0x100 then
      let n := Fin.ofNat 8 h.lane
      s.pmonRec (s.lane n).pmon (s.fecCounts n) h.lane h.i
    else s.nat a
  | _ => s.nat a

/-- What a block shows of running quantities is brought up to now. -/
def State.refreshFor (s : State) : Block → State
  | .plu => s.pluRefresh
  | .time => s.syncTbs.timeRefresh
  | _ => s

/-- R21, R24: the state as a Level latched it, seen through the live selectors. -/
def State.atLevel (s : State) (l : Level) : State :=
  let t := s.withLatched l.regs l.aux
  let sels := [aCIPH_CTX_SEL] ++ (List.range 8).map aPMON_SEL
  (sels.foldl (fun t a => t.setReg a (s.reg a)) t).timeRefresh

/-- R20, R436: the Level whose values a read of a Level-data register returns: that of the bank which serves it, else the
one that its island's freeze shows. -/
def State.readsFrom (s : State) (a : Nat) (bank : Option Level) : Option Level :=
  match bank with
  | some l => some l
  | none => s.frozenLevel a

/-- R431: whether a word belongs to a wide value; TIME_TBx_NOWF goes with NOW (R258). -/
def RegHit.isNow (h : RegHit) : Bool := h.block == .time && h.row.off == 0x100

/-- R181: the words of a bin record that are the LO words of its wide values.  DESIGN CHOICE (log entry 96): the 48-bit START of
words 0 and 1, and the 48-bit seconds of an entry of PMON_LOG, are not called wide there and latch nothing. -/
def recLo : List Nat := [6, 11, 13, 15, 17, 19, 21, 23]

/-- R188: a word of the record window as a word of the record that PMON_SEL selects. -/
def State.recWord (s : State) (h : RegHit) : Option Nat :=
  if h.block == .pmon && h.row.off == 0x100 && h.i < (if s.get (fPMON_SEL_TYPE h.lane) = 0 then 42 else 15) then some h.i else none

/-- R42, R431: a word that reads as its word 0 latched it. -/
def State.upper (s : State) (h : RegHit) : Bool :=
  h.word != 0 || (h.block == .time && h.row.off == 0x10C)
    || (match s.recWord h with
        | some i => 0 < i && recLo.contains (i - 1)
        | none => false)

/-- R42, R431, R258: the words that a read of word 0 latches. -/
def State.latches (s : State) (h : RegHit) (a : Nat) : List Nat :=
  let n := if h.isNow then 3 else match s.recWord h with
    | some i => b2n (recLo.contains i)
    | none => h.row.words - 1
  (List.range n).map fun k => a + 4 * (k + 1)

/-! ### Reads -/

/-- R437: a Level-data read served from a bank. -/
def State.levelRead (s : State) (number : Nat) : State :=
  let s := if s.is fGLB_LVL_STAT_LAST_VALID && s.nat aGLB_LVL_LAST ≠ number then s.setB fGLB_LVL_STAT_MIX true else s
  (s.setNat aGLB_LVL_LAST number).setB fGLB_LVL_STAT_LAST_VALID true

/-- The value that word `a` shows in a state. -/
def State.valueAt (s : State) (a : Nat) : Nat :=
  match regAt a with
  | some h => s.readView h a
  | none => 0

/-- R425 to R431, R436: a 4-byte read of a word; no value where the data of a buffer word are bad (R384). -/
def State.readWord (s : State) (a : Nat) : State × Option Nat :=
  match regAt a with
  | none => (s, some 0)
  | some h =>
    if s.upper h then (s, some ((assocGet s.shadow a).getD 0).toNat)
    else match winOf a with
    | some (inst, w) =>
      let r := s.memFlush.memCheck 5 inst w 0
      if r.2 then (r.1, some (r.1.readView h a)) else (r.1.logAcc .memError a false, none)
    | none =>
      let s := s.refreshFor h.block
      let lv := if h.row.level then s.servingLevel else none
      let t := match (if h.row.level then s.readsFrom a lv else none) with
        | some l => s.atLevel l
        | none => s
      let v := t.readView h a
      let s := { s with shadow := (s.latches h a).foldl (fun m b => assocPut m b (BitVec.ofNat 32 (t.valueAt b))) s.shadow }
      let s := match lv with
        | some l => s.levelRead l.number
        | none => s
      (if h.block = .hkm && h.row.off = 0x20 then s.hkmRead h.i else s, some v)

/-- R427: an access is aligned. -/
def alignedAccess (addr size : Nat) (contiguous : Bool) : Bool :=
  contiguous && (size = 1 || size = 2 || size = 4 || size = 8) && addr % size = 0

/-- R426: the size of BAR0. -/
def barSize : Nat := 0x4000000

/-- R424, R427, R428, R433: a read request of PCIe: completed with its value, or refused. -/
def State.readPcie (s : State) (addr size : Nat) (contiguous : Bool) : State :=
  if s.cold then s
  else if barSize ≤ addr then s.emit .unsupported
  else if 8 < size then (s.logAcc .width addr false).emit (.abort addr)
  else if !alignedAccess addr size contiguous then (s.logAcc .align addr false).emit (.abort addr)
  else
    let words := if size = 8 then [addr, addr + 4] else [addr / 4 * 4]
    match words.find? fun a => !s.allowed .pcie false a with
    | some a => (s.logAcc .prot a false).emit (.abort addr)
    | none =>
      let r := words.foldl (fun (p : State × Option (List Nat)) a =>
        match p.2 with
        | none => p
        | some vs =>
          let x := p.1.readWord a
          (x.1, x.2.map fun v => vs ++ [v])) (s, some [])
      match r.2 with
      | none => r.1.emit (.abort addr)
      | some vs =>
        let v := vs.getD 0 0 + 2 ^ 32 * vs.getD 1 0
        r.1.emit (.completion addr (if size = 8 then v else bitsOf v (8 * (addr % 4)) (8 * size)))

/-- R436: a PCIe read of a Level-data register. -/
def execLevelDataRead (addr : Nat) (size : Nat) (s : State) : Ans :=
  match regAt (addr / 4 * 4) with
  | none => .next s
  | some h => if h.row.level then .next (s.readPcie addr size true) else .next s

/-- R425, R428, R431: a PCIe read of any other register or word; of the low word of a wide value it latches the others. -/
def execWideLoRead (addr : Nat) (size : Nat) (s : State) : Ans :=
  if (regAt (addr / 4 * 4)).any fun h => h.row.level then .next s else .next (s.readPcie addr size true)

/-- R424: a memory request that addresses no byte of BAR0. -/
def execPcieUnsupportedRequest (s : State) : Ans := .next (if s.cold then s else s.emit .unsupported)

/-- R424, R427, R433: a read that is unaligned, longer than 8 bytes or denied by a protection region. -/
def execPcieReadAbort (addr : Nat) (size : Nat) (contiguous : Bool) (s : State) : Ans :=
  if barSize ≤ addr then .next s
  else if 8 < size || !alignedAccess addr size contiguous
      || !(s.allowed .pcie false (addr / 4 * 4) && (size ≠ 8 || s.allowed .pcie false (addr + 4))) then
    .next (s.readPcie addr size contiguous)
  else .next s

/-! ### Writes past the gate -/

/-- The status that a shared operation answers to COP, taken back out of what it has sent; `OK` where it answers none. -/
def State.answered (s : State) (f : State → State) : State × Nat :=
  let t := f s
  let fresh := t.sent.take (t.sent.length - s.sent.length)
  let code := (fresh.findSome? fun e => match e with
    | .answer _ c => some c
    | _ => none).getD 0
  let keep := fresh.filter fun e => match e with
    | .answer _ _ => false
    | _ => true
  ({ t with sent := keep ++ t.sent.drop fresh.length }, code)

/-- A shared operation's refusal told to the source of the write. -/
def toldAt (by_ : Source) (a : Nat) (r : State × Code) : State × Nat := r.1.told by_ a r.2

/-- The word of a register after a write of `v` under a mask of bits: the bits that a write may set, held as R507 says. -/
def RegRow.merge (r : RegRow) (old mask v : Nat) : Nat :=
  itemWord old r.mask (r.taken (itemWord old (Nat.land mask r.mask) v))

/-- R429: a plain register takes the write; the alarm summary follows (R441). -/
def State.putPlain (s : State) (h : RegHit) (a v : Nat) : State :=
  (s.setNat a (h.row.merge (s.nat a) 0xFFFFFFFF v)).irq s (sumIndex a)

/-- R430: a masked register of a lane, written under a mask. -/
def State.maskLane (s : State) (h : RegHit) (n : Lane) (a m v : Nat) : State :=
  let wr := fun k => bitOf m k
  let act := fun k => bitOf m k && bitOf v k
  let put := fun (s : State) (m : Nat) => s.setNat a (h.row.merge (s.nat a) m v)
  match h.block with
  | .conv =>
    let s := if wr 0 then s.writeConvEn n .adc (bitOf v 0) else s
    let s := if wr 1 then s.writeConvEn n .dac (bitOf v 1) else s
    let s := put s (Nat.land m 0xC)
    if act 3 then s.setB (fCONV_STATE_TRIM_LIM n) false else s
  | .rxd =>
    let s := put s (Nat.land m 0x40)
    let s := if wr 2 then s.writeKsAssist n (bitOf v 2) else s
    let s := if wr 3 then s.writeFmtSrc n (bitOf v 3) else s
    let s := if wr 4 || wr 5 then s.writeLoMode n (itemWord (s.get (fRXD_CTRL_LO_MODE n)) (bitsOf m 4 2) (bitsOf v 4 2)) else s
    let s := if wr 0 then s.writeRxdEn n (bitOf v 0) else s
    if act 1 then s.acqRestart n else s
  | .txd => (put s m).txdNow n
  | .pmon =>
    let s := (put (s.touch n) (Nat.land m 5)).touch n
    if act 1 then s.clearBins n else s
  | .ksc =>
    let s := put s m
    (if wr 0 then s.kscJudge n else s).kscRefresh
  | .lfr => (put s m).kscRefresh
  | _ => put s m

/-- R430: a masked register written under a mask of its bits.  A bit that starts an action acts only where it is
written 1. -/
def State.writeMasked (s : State) (by_ : Source) (h : RegHit) (a m v : Nat) : State × Nat :=
  let wr := fun k => bitOf m k
  let act := fun k => bitOf m k && bitOf v k
  let put := s.setNat a (h.row.merge (s.nat a) m v)
  match h.block with
  | .cli => (put.groupsRefresh, 0)
  | .ciph => (if act 0 then s.zeroAll else s, 0)
  | .plu =>
    let field := fun k => if wr k then some (bitOf v k) else none
    (s.writePluCtrl (field 0) (field 1) (act 2), 0)
  | .time =>
    let s := if wr 0 then (s.setB fTIME_CTRL_PTP_EN (bitOf v 0)).ptpPorts else s
    if wr 1 then toldAt by_ a (s.writePpsEn (bitOf v 1)) else (s, 0)
  | .hkm => (s.writeHkmCtrl (h.row.merge (s.nat a) m v), 0)
  | .sec =>
    if a = aSEC_RST_FUNC then
      ((indexesWhere 15 wr).foldl (fun s k => s.writeRstBit k (bitOf v k)) s, 0)
    else if a = aSEC_RST_LODGE then
      ((indexesWhere 8 wr).foldl (fun s k => s.writeLodgeBit k (bitOf v k)) s, 0)
    else
      let s := if act 0 then s.lockWindow else s
      let s := if act 2 then s.ciphUnblock else s
      (if act 1 then s.warmRequest else s, 0)
  | .glb =>
    -- GLB_LVL_CTRL (R438)
    s.answered fun s =>
      let s := if act 1 then s.releaseLevel by_ else s
      let s := if wr 2 then s.setB fGLB_LVL_CTRL_SRC (bitOf v 2) else s
      let s := if act 0 then s.holdLevel by_ else s
      if act 3 then s.hostLevelNow by_ else s
  | .cal => (put, 0)
  | .mem => (put, 0)
  | _ => (s.maskLane h (Fin.ofNat 8 h.lane) a m v, 0)

/-- R439: a write of GLB_CRS_CMD. -/
def State.writeCrsCmd (s : State) (v : Nat) : State :=
  let busy := s.crs.validating.isSome
  let s := if busy then s else s.setNat aGLB_CRS_CMD (Nat.land v 0x10)
  match v % 4 with
  | 1 => s.commitPcie (bitsOf v 4 1)
  | 2 => s.discard .pcie
  | 3 => s.abort .pcie
  | _ => if busy then s.logAcc .busy aGLB_CRS_CMD true else s

/-- R441: a word of the MSI-X table; a vector pending is sent when it is unmasked. -/
def State.writeMsix (s : State) (i : Nat) (a v : Nat) : State :=
  let s := s.setNat a v
  let k := i / 4
  if i % 4 = 3 && v % 2 = 0 && s.msixPending.contains k then
    { s with msixPending := s.msixPending.filter fun x => x != k }.msix k
  else s

/-- R429, R432: a plain register or a word of a wide value of GLB or SEC. -/
def State.writeGlb (s : State) (by_ : Source) (h : RegHit) (a v : Nat) : State × Nat :=
  let put := s.putPlain h a v
  if a = aGLB_CRS_CMD then (s.writeCrsCmd v, 0)
  else if h.row.off = 0x400 && h.word = 2 then
    put.answered fun s => s.scheduleSlot by_ h.i (s.time80 (aGLB_LVL_SCH h.i))
  else if h.row.off = 0xF000 then (s.writeMsix h.i a v, 0)
  else (put, 0)

/-- R456: the nonce in SEC_ATT_NONCE. -/
def State.attNonce (s : State) : List Byte := natBytes 32 (s.wordsFrom (aSEC_ATT_NONCE 0) 8)

def State.writeSec (s : State) (by_ : Source) (h : RegHit) (a v : Nat) : State × Nat :=
  if a = aSEC_CST_RST then (if v = 0xC5 then s.answered fun s => s.cstRequest by_ else (s, 0))
  else if a = aSEC_FUSE_CMD then (if v = 0xB1 then s.fuseHash else s, 0)
  else if a = aSEC_ATT_CMD then
    if v % 2 = 1 then
      let r := s.attRequest by_ s.attNonce
      (r.1, r.2.num)
    else (s, 0)
  else if a = aSEC_IMG_CTRL then
    let r := s.writeImgCtrl v
    (r.1, r.2.num)
  else (s.putPlain h a v, 0)

/-- R232: CIPH. -/
def State.writeCiph (s : State) (by_ : Source) (h : RegHit) (a v : Nat) : State × Nat :=
  let put := s.putPlain h a v
  if a = aCIPH_KEY_CMD then
    let slot := s.nat aCIPH_KEY_SEL
    if v % 4 = 1 then s.answered fun s => s.loadClear by_ slot (s.wordsFrom (aCIPH_KEY_DATA 0) 8)
    else if v % 4 = 2 then s.answered fun s => s.zeroiseSlot by_ slot
    else (s, 0)
  else if h.row.off = 0x250 && h.i = 3 then
    toldAt by_ a (put.directIv (s.nat aCIPH_CTX_SEL) (put.wordsFrom (aCIPH_CTX_IV 0) 4))
  else if h.row.off = 0x400 then
    if bitOf v 9 then put.answered fun s => s.queueJob by_ h.i else (put, 0)
  else if h.row.off = 0x80000 then (s.winWrite a (BitVec.ofNat 32 v), 0)
  else (put, 0)

/-- R253: PLU. -/
def State.writePlu (s : State) (by_ : Source) (h : RegHit) (a v : Nat) : State × Nat :=
  let w := BitVec.ofNat 32 v
  if a = aPLU_PHASE_STEP then (s.addPhaseStep w, 0)
  else if h.row.off = 0x1A0 then toldAt by_ a (s.writeClkout h.i w)
  else if h.row.off = 0x180 then ((s.putPlain h a v).refChanged (24 + h.i), 0)
  else (s.settleStep.putPlain h a v, 0)

/-- R283: TIME; the registers of TB3 take no write (R257). -/
def State.writeTime (s : State) (by_ : Source) (h : RegHit) (a v : Nat) : State × Nat :=
  let w := BitVec.ofNat 32 v
  let put := s.putPlain h a v
  let tb := 0x110 ≤ h.row.off && h.row.off < 0x134
  if tb && h.i = 3 then (s, 0)
  else if a = aTIME_UTC then (s.writeUtc w, 0)
  else if a = aTIME_UTC_AT then (s.writeUtcAt w, 0)
  else if h.row.off = 0x110 && h.word = 2 then
    let b := aTIME_TB_SET h.i
    toldAt by_ a (put.tbSet h.i ⟨put.nat (b + 4) + 2 ^ 32 * (put.nat (b + 8) % 65536), put.nat b⟩)
  else if h.row.off = 0x11C && h.word = 1 then
    toldAt by_ a (put.tbAdd h.i (toSigned 64 (put.wide (aTIME_TB_STEP h.i))))
  else if h.row.off = 0x124 then
    (s.writeServo h.i w, if s.servoOk h.i w then 0 else Code.valueInvalid.num)
  else if h.row.off = 0x130 then (s.writeHostOfs h.i w, 0)
  else if 0x400 ≤ h.row.off && h.row.off < 0x800 then ((put.lineWritten h.i).timeRefresh, 0)
  else if h.row.off = 0x800 then toldAt by_ a (s.writeLaunch h.i w)
  else if h.row.off = 0x10000 then (s.winWrite a w, 0)
  else (put, 0)

/-- R353: HKM. -/
def State.writeHkm (s : State) (by_ : Source) (h : RegHit) (a v : Nat) : State × Nat :=
  let w := BitVec.ofNat 32 v
  if h.row.off = 0x10 then toldAt by_ a (s.writeTrig h.i w)
  else if h.row.off = 0x30 then (s.writeTimer h.i w, 0)
  else if h.row.off = 0x40 then toldAt by_ a (s.writePwmCfg h.i w)
  else if h.row.off = 0x44 then (s.writePwmDuty h.i w, 0)
  else (s.putPlain h a v, 0)

/-- R331: the Cornerstone window: the selection, the patch mailbox and its command. -/
def State.writeCst (s : State) (by_ : Source) (h : RegHit) (a v : Nat) : State × Nat :=
  if a = aCST_PATCH_GO then (if v % 2 = 1 then s.patchGo else s, 0)
  else if h.row.off = 0x48 && h.word = 1 then
    let s := s.setNat a v
    (s.cstSelect by_ (s.wide aCST_SEL), 0)
  else if h.row.off = 0x80000 && !s.cstBound by_ fSEC_CST_BOUND_PATCH then
    ((match by_ with
      | .pcie => s.logAcc .prot a true
      | .cop _ => s), Code.accessDenied.num)
  else (s.putPlain h a v, 0)

/-- The plain registers of a lane. -/
def State.writeLane (s : State) (by_ : Source) (h : RegHit) (a v : Nat) : State × Nat :=
  let n : Lane := Fin.ofNat 8 h.lane
  let put := s.putPlain h a v
  match h.block with
  | .conv =>
    if h.row.off = 0x20 then toldAt by_ a (s.writeRetire n h.i (bitsOf v 16 7))
    else if h.row.off = 0x100 then
      if bitOf v 0 then (s.capArm n (BitVec.ofNat 32 v), 0)
      else
        let s := s.setNat a (h.row.merge (s.nat a) 0x7F0F1C v)
        (if bitOf v 1 then s.capFire n else s, 0)
    else (put, 0)
  | .rxd =>
    if a = aRXD_LO_HOST n then toldAt by_ a (s.writeLoHost n (BitVec.ofNat 24 v))
    else if a = aRXD_LO_LIMIT n then (put.showLoLim n, 0)
    else (put, 0)
  | .txd => if a = aTXD_KS n then (put.showKsOn n, 0) else (put, 0)
  | .pmon => if h.row.off = 0x300 then (put.gaugeOff n h.i, 0) else (put, 0)
  | .ksc =>
    let restart := (a = aKSC_CFG n && s.get (fKSC_CFG_RX_SF n) ≠ put.get (fKSC_CFG_RX_SF n))
      || (a = aKSC_NETID n && s.nat a ≠ put.nat a)
    (if restart then put.kscRxStop n else put, 0)
  | _ => (put, 0)

/-- R434: a write recomputes a word's parity. -/
def State.parityAt (s : State) (a : Nat) : State :=
  s.modSec fun x => { x with corrupt := x.corrupt.filter fun p => p.1 != a }

/-- R429 to R432: a write of one word past the gate, under its access code, with the status that COP answers (R393). -/
def State.writeReg (s : State) (by_ : Source) (a v : Nat) : State × Nat :=
  match regAt a with
  | none => (s, 0)
  | some h =>
    if h.block = .ciph && !s.ciph.fitted then (s, Code.objAbsent.num)
    else
      match h.row.acc with
      | .ro =>
        ((match by_ with
          | .pcie => s.logAcc .ro a true
          | .cop _ => s), Code.accessDenied.num)
      | .rwl =>
        let r := s.writeRwl by_ a h.row v
        (if r.2 = .ok then r.1.parityAt a else r.1, r.2.num)
      | .w1c =>
        if a = aGLB_LVL_STAT then (if bitOf v 0 then s.clearMix else s, 0)
        else (s.setNat a (Nat.land (s.nat a) (Nat.xor 0xFFFFFFFF (Nat.land v h.row.mask))), 0)
      | .rwm =>
        let m := Nat.land (v / 65536) h.row.mask
        if m = 0 then (s, 0) else (s.parityAt a).writeMasked by_ h a m (v % 65536)
      | _ =>
        let s := s.parityAt a
        match h.block with
        | .glb => s.writeGlb by_ h a v
        | .sec => s.writeSec by_ h a v
        | .ciph => s.writeCiph by_ h a v
        | .plu => s.writePlu by_ h a v
        | .time => s.writeTime by_ h a v
        | .hkm => s.writeHkm by_ h a v
        | .cst => s.writeCst by_ h a v
        | .cal => if a = aCAL_CMD then toldAt by_ a (s.writeCalCmd (BitVec.ofNat 32 v)) else (s.putPlain h a v, 0)
        | .cli =>
          if h.row.off = 0x40 then ((s.putPlain h a v).refChanged (8 + h.i), 0) else (s.putPlain h a v, 0)
        | .mem => (s.putPlain h a v, 0)
        | _ => s.writeLane by_ h a v

/-! ### PCIe writes -/

/-- R426: a block lies at an address; the MGT block has no register. -/
def inBlock (a : Nat) : Bool := (blockOf a).isSome || a / 0x100000 = 10

/-- R429 to R433: a 4-byte write of PCIe. -/
def State.writePcie (s : State) (a v : Nat) : State :=
  if !inBlock a then s
  else match regAt a with
  | none => if s.allowed .pcie true a then s else s.logAcc .prot a true
  | some h =>
    if h.block = .ciph && !s.ciph.fitted && !h.row.staged then s
    else match s.writeGate a h.row.staged with
    | some c => s.logAcc c a true
    | none => if h.row.staged then s.stagePcie a v else (s.writeReg .pcie a v).1

/-- R424, R427 to R430: a memory write of PCIe. -/
def execRegisterWrite (addr : Nat) (size : Nat) (contiguous : Bool) (v : BitVec 64) (s : State) : Ans :=
  if s.cold then .next s
  else if barSize ≤ addr then .next (s.emit .unsupported)
  else if !inBlock addr then .next s
  else if 8 < size then .next (s.logAcc .width addr true)
  else if !alignedAccess addr size contiguous then .next (s.logAcc .align addr true)
  else if size < 4 then .next (s.logAcc .width addr true)
  else
    let s := s.writePcie addr (v.toNat % 2 ^ 32)
    .next (if size = 8 then s.writePcie (addr + 4) (v.toNat / 2 ^ 32) else s)

end Sys2Proof.Machine
end

