-- ==== Sys2Proof/Machine/Objects.lean ====
section
/-!
DEFINITION. Objects over COP (R390 to R393, R410, R417 to R421, R504): what a read returns and what a write does.
-/

namespace Sys2Proof.Machine

/-! ### The node (R410, R417) -/

/-- R410: 0 worker, 1 sub-manager, 2 manager, 3 none. -/
def roleOf (id : Nat) : Nat := if id = 0xFFFF then 3 else if id = 0 then 2 else if id % 128 = 0 then 1 else 0

/-- R410, R411: a node's parent. -/
def parentOf (id : Nat) : Nat := if id % 128 = 0 then 0 else id / 128 * 128

/-- R411: `n` is a child of the node. -/
def State.isChild (s : State) (n : Nat) : Bool :=
  let me := s.nodeId
  roleOf me ≠ 3 && roleOf me ≠ 0 && n ≠ me && n < 16384 && parentOf n = me

/-- The record of a node, as its parent or the manager holds it. -/
def State.nodeRec (s : State) (n : Nat) : Option NodeRec := assocGet s.cop.nodes n

/-- R412: the presence of a node: while its sub-manager is `ABSENT`, the manager holds it as `UNREACHABLE`. -/
def State.presence (s : State) (n : Nat) : Nat :=
  let own := ((s.nodeRec n).map (·.presence)).getD 0
  if s.nodeId = 0 && n % 128 ≠ 0 && 128 ≤ n && own ≠ 0
      && ((s.nodeRec (n / 128 * 128)).map (·.presence)) == some 2 then 3 else own

/-- R421: the nodes marked in the absence map. -/
def State.absentNodes (s : State) : List Nat :=
  (s.cop.nodes.map (·.1)).filter fun n => 2 ≤ s.presence n

/-- R421: a bit map of nodes. -/
def nodeMap (ns : List Nat) : List Byte :=
  ns.foldl (fun m n => modAt m (n / 8) fun b => b ||| BitVec.ofNat 8 (2 ^ (7 - n % 8))) (List.replicate 2048 0)

/-- R421: the nodes of a map. -/
def mapNodes (m : List Byte) : List Nat :=
  m.zipIdx.flatMap fun p => (List.range 8).filterMap fun k => if bitOf p.1.toNat (7 - k) then some (8 * p.2 + k) else none

/-- R421: a node record. -/
def State.nodeBytes (s : State) (n : Nat) : List Byte :=
  match s.nodeRec n with
  | none => List.replicate 48 0
  | some r =>
    natBytes 2 n ++ natBytes 1 (s.presence n) ++ natBytes 1 (roleOf n) ++ natBytes 1 (r.path * 16 + r.lane)
      ++ natBytes 1 r.tb0State ++ natBytes 2 r.misses ++ natBytes 4 r.level ++ natBytes 4 r.lastCourse
      ++ natBytes 4 r.armed ++ time80Bytes r.armedT ++ time80Bytes r.tb0 ++ natBytes 4 r.roundTrip ++ natBytes 4 r.alarms

/-- R418: a Course record. -/
def courseRecBytes (r : CourseRec) : List Byte :=
  let t := fun (x : Option Nat) => match x with
    | some ns => time80Bytes ns
    | none => List.replicate 10 0
  natBytes 4 r.number ++ natBytes 1 r.mode ++ natBytes 1 (b2n r.late + 2 * b2n r.untrusted) ++ natBytes 1 r.txMask
    ++ natBytes 1 r.rxMask ++ natBytes 1 r.mismatch ++ [0] ++ time80Bytes r.time ++ t r.nonLane
    ++ ((List.range 8).flatMap fun l => t (assocGet r.tx l) ++ t (assocGet r.rx l)) ++ [0, 0]

/-! ### What an object maps -/

/-- An address of the MGT block, for the objects that no register holds. -/
def mgtAddr : Nat := 0xA00000

/-- The register that an object of more than a register or field stands for. -/
def ObjHit.calcAddr (h : ObjHit) (index sub : Nat) : Nat :=
  let ix := (laneIndex index).2
  if 0x3100 ≤ index && index < 0x3200 then aCIPH_KEY_STATUS
  else if index = 0x3200 then aCIPH_KEY_CMD
  else if index = 0x3201 then aCIPH_KPOL_RANGE h.j
  else if index = 0x3300 then
    (if sub = 2 then aCIPH_CTX_STATE else if sub = 3 then aCIPH_CTX_CFG 0 else if sub = 4 then aCIPH_CTX_IV 3 else if sub = 5 then aCIPH_CTX_CNT 0 else aCIPH_CTX_SEL)
  else if index = 0x3500 then aCIPH_JOB_CTRL 0
  else if 0x2130 ≤ index && index < 0x2134 then aTIME_PPSIN_TS h.i
  else if index = 0x2140 then aTIME_LAUNCH_CTRL 0
  else if ix = 0x7005 then aKSC_RNG_TS h.lane 0
  else if 0x6000 ≤ index && index < 0x6800 then aPMON_REC h.lane 0
  else if 0x5900 ≤ index && index < 0x5980 then aCLI_FX_CAL h.i 0
  else if index = 0x8001 then aCST_CERT 0
  else if index = 0x8002 then (if sub = 1 then aCST_SEL else aCST_RECORD 0)
  else if index = 0x8003 then aCST_BANK 0 0
  else if index = 0x6F00 || index = 0x6F01 then aGLB_LVL_CTRL
  else if index = 0x6F10 then aGLB_LVL_SCH h.j
  else if index = 0x1200 || index = 0x1210 then aGLB_CRS_STATUS
  else if index = 0xA100 then aSEC_ATT_CMD
  else if index = 0xA101 then aSEC_IDCERT 0
  else if index = 0xA104 then aSEC_REG_FIRST h.j
  else if index = 0xA110 then aSEC_IMG_WINDOW 0
  else mgtAddr

/-- The words that an object maps. -/
def ObjHit.addrs (h : ObjHit) (index sub : Nat) : List Nat :=
  match h.row.place with
  | .fld f di dj => [h.shift index f.addr di dj]
  | .wide a di dj => (List.range 2).map fun k => h.shift index a di dj + 4 * k
  | .time a di dj => (List.range 3).map fun k => h.shift index a di dj + 4 * k
  | .words a di dj n => (List.range n).map fun k => h.shift index a di dj + 4 * k
  | .down a di dj n => (List.range n).map fun k => h.shift index a di dj + 4 * (n - 1 - k)
  | .own _ => [mgtAddr]
  | .calc => [h.calcAddr index sub]

/-- R21: the counters and the status that stand in objects without a register: those of COP, of PTP and of the hierarchy (log
entry 53). -/
def copCounter (index sub : Nat) : Bool :=
  ((index == 0x1011 || index == 0x1012) && (sub == 4 || sub == 5)) || (index == 0x1019 && 2 ≤ sub)
    || (0x1300 ≤ index && index < 0x1310 && (sub == 6 || sub == 7))
    || (0x2200 ≤ index && index < 0x2203 && 5 ≤ sub) || (0x2210 ≤ index && index < 0x2250 && 6 ≤ sub)
    || (index == 0x9000 && sub == 5) || index == 0x9010 || (index == 0x9020 && 3 ≤ sub && sub ≤ 5)
    || (0x9100 ≤ index && index < 0x9180)

/-- R21, R406: an object is Level data where its registers are, or where it is such a counter or status. -/
def ObjHit.levelData (h : ObjHit) (index sub : Nat) : Bool :=
  copCounter index sub || (h.addrs index sub).all fun a => (regAt a).any fun g => g.row.level

/-! ### Reads -/

/-- A text as bytes. -/
def textBytes (t : String) : List Byte := t.toList.map fun c => BitVec.ofNat 8 c.toNat

/-- A timestamp of three registers in the format of R255. -/
def State.stampAt (s : State) (a : Nat) : List Byte :=
  let w2 := s.nat (a + 8)
  natBytes 2 (w2 % 65536) ++ natBytes 4 (s.nat (a + 4)) ++ natBytes 4 (s.nat a) ++ natBytes 2 (w2 / 65536)

/-- The value of a BOOL, a number, as `n` bytes. -/
def num (n v : Nat) : Option (List Byte) := some (natBytes n v)

/-- R418: 0x1200. -/
def State.courseObj (s : State) (sub : Nat) : Option (List Byte) :=
  let armed := s.crs.armed
  match sub with
  | 1 => num 1 s.crsState
  | 2 => num 1 (match s.crsOwner with | none => 0 | some .pcie => 1 | some (.cop _) => 2)
  | 3 => num 4 (match s.crsOwner with | some (.cop k) => k | _ => 0)
  | 4 => num 2 (match s.crs.pending with
      | some p => p.writes.length
      | none => (s.crs.validating.map fun v => v.writes.length).getD 0)
  | 5 => num 4 s.crs.last
  | 6 => num 4 ((armed.map (·.number)).getD 0)
  | 7 => num 1 ((armed.map fun a => b2n a.atTime).getD 0)
  | 8 => some (time80Bytes ((armed.map (·.time)).getD 0))
  | 9 => num 2 s.crs.result
  | _ => some (natBytes 1 s.crs.where_.1 ++ natBytes 4 s.crs.where_.2)

/-- R420: the Level objects that the sequencer shows. -/
def State.levelObj (s : State) (index sub j : Nat) : Option (List Byte) :=
  if index = 0x6F00 then
    match sub with
    | 1 => num 4 ((s.latestLevel.map (·.number)).getD 0)
    | 2 => some (time80Bytes ((s.latestLevel.map (·.inst)).getD 0))
    | _ => num 2 ((s.latestLevel.map (·.causes)).getD 0)
  else if index = 0x6F01 then
    (if sub = 2 then num 4 ((s.heldLevel.map (·.number)).getD 0) else num 1 s.holderCode)
  else some (time80Bytes ((s.lvl.slots.getD j none).getD 0))

/-- R234: a session's last job: as its descriptor stands while it is under way, as it ended from then on. -/
def State.lastJobOf (s : State) (k : Nat) : Option JobKept :=
  (assocGet s.ciph.lastJob k).map fun x =>
    if (assocGet s.ciph.jobs x.slot).any fun r => r.order == x.order then
      { x with status := s.nat (aCIPH_JOB_STATUS x.slot), len := 0 }
    else x

/-- R234: the CIPH objects. -/
def State.ciphObj (s : State) (k : Nat) (h : ObjHit) (index sub : Nat) : Option (List Byte) :=
  let x := (s.session k).getD { id := k, key := [] }
  let c := x.ctxSel
  if index < 0x3200 then num 4 (s.keyStatus (128 * h.i + h.j))
  else if index = 0x3200 then
    (if sub = 1 then num 2 x.keySel else num 1 ((assocGet s.ciph.sessionResults k).getD 0))
  else if index = 0x3201 then num 8 (2 ^ 32 * s.nat (aCIPH_KPOL_RANGE h.j) + s.nat (aCIPH_KPOL_FLAGS h.j))
  else if index = 0x3300 then
    match sub with
    | 1 => num 2 c
    | 2 => num 2 (s.ctxStateWord c)
    | 3 => some ((List.range 13).flatMap fun w => natBytes 4 (s.nat (aCtxCfg c w)))
    | _ => some ((List.range 5).flatMap fun w => natBytes 8 (s.wide (aCtxCnt c w)))
  else
    match s.lastJobOf k with
    | none => some (natBytes 8 (s.freeBits 64))
    | some x => some (natBytes 4 x.status ++ natBytes 4 x.len ++ s.bufBytes x.dst x.len)

/-- The objects computed from the state.  None where the object is not held (R332). -/
def State.calcObj (s : State) (k : Nat) (h : ObjHit) (index sub : Nat) : Option (List Byte) :=
  let ix := (laneIndex index).2
  let n : Lane := Fin.ofNat 8 h.lane
  if index = 0x1000 then
    match sub with
    | 1 => some (textBytes "Peldoron")
    | 2 => some (textBytes "OL2560")
    | 3 => some (textBytes (if s.ciph.fitted then "OL2560-AB" else "OL2560-NB"))
    | 4 => num 1 0xB0
    | 5 => num 1 (b2n s.ciph.fitted)
    | _ => num 8 Config.serial.toNat
  else if index = 0x1010 then (if sub = 2 then num 1 (roleOf s.nodeId) else num 2 50592)
  else if index = 0x1018 then num 32 0
  else if index = 0x1019 then num 1 (s.obj 0x1019 2 s.cop.sessions.length)
  else if index = 0x1200 then s.courseObj sub
  else if index = 0x1210 then some (((s.crs.records[h.j]?).map courseRecBytes).getD (List.replicate 192 0))
  else if index < 0x2000 then some ((assocGet s.objs (index * 256 + sub)).getD [])
  else if 0x2130 ≤ index && index < 0x2134 then some (s.stampAt (aTIME_PPSIN_TS h.i))
  else if index = 0x2140 then
    some ((s.lastResult (k + 1)).getD (natBytes 16 (s.freeBits 128)))
  else if 0x3000 ≤ index && index < 0x4000 then s.ciphObj k h index sub
  else if 0x5900 ≤ index && index < 0x5980 then
    some ((List.range 80).flatMap fun e => natBytes 4 (swap32 (s.nat (aCLI_FX_CAL h.i e))))
  else if 0x6F00 ≤ index && index < 0x7000 then s.levelObj index sub h.j
  else if 0x6000 ≤ index && index < 0x6F00 then
    let rec_ := fun (ty e b : Nat) => (s.lane n).pmon.record (s.fecCounts n) (s.nat (aFEC_ITER_PEAK n)) ty e b
    if ix = 0x6010 then some ((rec_ 0 0 h.j).flatMap (natBytes 4))
    else if ix < 0x6060 then some (((rec_ 1 h.j h.i).take 15).flatMap (natBytes 4))
    else some (((rec_ 2 h.j h.i).take 15).flatMap (natBytes 4))
  else if ix = 0x7005 then
    some (natBytes 2 (s.nat (aKSC_RNG_ID n)) ++ (List.range 4).flatMap fun e => s.stampAt (aKSC_RNG_TS n e))
  else if index = 0x8001 then some (cstCertificate.take 273)
  else if index = 0x8002 then
    let sel := ((s.session k).map (·.cstSel)).getD 0
    if sub = 1 then num 8 sel else if s.cst.ready then (s.cstRecord sel).map (·.bytes) else none
  else if index = 0x8003 then some (if s.cst.ready then s.cstLatestBank else [])
  else if index = 0x9000 then num 1 (roleOf s.nodeId)
  else if index = 0x9010 then (if sub = 1 then some (nodeMap s.absentNodes) else num 2 s.absentNodes.length)
  else if index = 0x9020 then num 4 (((s.session k).map (·.alloc)).getD 0)
  else if 0x9100 ≤ index && index < 0x9180 then some (s.nodeBytes (128 * h.i + h.j))
  else if index = 0xA101 then some idCertificate
  else if index = 0xA104 then
    num 8 (s.nat (aSEC_REG_FIRST h.j) * 2 ^ 38 + s.nat (aSEC_REG_LAST h.j) * 2 ^ 12 + s.nat (aSEC_REG_RIGHTS h.j) % 512)
  else none

/-- The value of an object in a state. -/
def State.objValue (s : State) (k : Nat) (h : ObjHit) (index sub : Nat) : Option (List Byte) :=
  let at_ := fun a => natBytes 4 (s.valueAt a)
  let as_ := h.addrs index sub
  match h.row.place with
  | .fld f _ _ =>
    let n := (h.row.ty.len).getD 4
    let v := bitsOf (s.valueAt (as_.getD 0 0)) f.lo f.len
    some (match h.row.ty with
      | .i _ => natBytes n (ofSigned (8 * n) (toSigned f.len v))
      | _ => natBytes n v)
  | .wide _ _ _ => some (as_.reverse.flatMap at_)
  | .time _ _ _ => some ((as_.reverse.flatMap at_).drop 2)
  | .words _ _ _ _ => some (as_.flatMap at_)
  | .down _ _ _ _ => some (as_.flatMap at_)
  | .own d => some (match assocGet s.objs (index * 256 + sub) with
      | some bs => bs
      | none => natBytes (h.row.ty.len.getD 0) d)
  | .calc => s.calcObj k h index sub

/-- R410, R421: an object exists at this node: the hierarchy's only at the manager, 0x9100 + g also at the sub-manager of
group g; CIPH's only on OL2560-AB (R3). -/
def State.objHere (s : State) (index : Nat) : Bool :=
  let role := roleOf s.nodeId
  if index = 0x9010 || index = 0x9020 then role = 2
  else if 0x9100 ≤ index && index < 0x9180 then role = 2 || (role = 1 && index - 0x9100 = s.nodeId / 128)
  else if 0x8000 ≤ index && index < 0x9000 then s.cst.ready
  else s.ciph.fitted || !(0x3000 ≤ index && index < 0x4000)

/-- R410: a node outside every domain serves 0x1000 to 0x1019 alone. -/
def State.objServed (s : State) (index : Nat) : Bool := s.nodeId ≠ 0xFFFF || (0x1000 ≤ index && index ≤ 0x1019)

/-- What the block of an address shows is brought up to now. -/
def State.refreshAt (s : State) (a : Nat) : State :=
  match blockOf a with
  | some (b, _, _) => s.refreshFor b
  | none => s

/-- R392, R406, R504: a read of an object for session `k`: the status and the value.  `bank`: the Level of a LEVEL_READ; a
plain read of Level data is served from the latest complete one. -/
def State.readObj (s : State) (k index sub : Nat) (bank : Option Level) : State × Nat × List Byte :=
  let no := fun (c : Code) => (s, c.num, [])
  if !s.objServed index then no .accessDenied
  else if topSub index = 0 || !s.objHere index then no .objAbsent
  else if sub = 0 then (if bank.isSome then no .notLevel else (s, 0, natBytes 1 (topSub index)))
  else match objAt index sub with
  | none => no .objAbsent
  | some h =>
    let as_ := h.addrs index sub
    if h.row.acc = .wo || as_.any fun a => a ≠ mgtAddr && !s.allowed (s.copInit k) false a then no .accessDenied
    else if bank.isSome && !h.levelData index sub then no .notLevel
    else
      let s := s.refreshAt (as_.getD 0 0)
      -- R384: the output of a job is read from the message buffer
      let g := if index = 0x3500 then
          match s.lastJobOf k with
          | some x => s.winGood 10 x.dst x.len
          | none => (s.takeFree, true)
        else if index = 0x2140 && (s.lastResult (k + 1)).isNone then (s.takeFree, true)
        else (s, true)
      let l := match bank with
        | some l => some l
        | none => if h.levelData index sub then s.readsFrom (as_.getD 0 0) s.latestLevel else none
      let t := match l with
        | some l => s.atLevel l
        | none => s
      if !g.2 then (g.1, Code.memError.num, [])
      else match t.objValue k h index sub with
      | none => (g.1, Code.objAbsent.num, [])
      | some v => (if index = 0x7807 then g.1.hkmRead h.j else g.1, 0, v)

/-- R339: a read of a result register, by PCIe or of its object. -/
def execHkmResultRead (by_ : Source) (x : Fin 2) (s : State) : Ans :=
  .next (match by_ with
    | .pcie => s.readPcie (aHKM_RESULT x) 4 true
    | .cop k =>
      if s.cold || !s.is fGLB_STATUS_MGT_READY then s
      else
        let r := s.readObj k 0x7807 (x + 1) none
        r.1.emit (.value k r.2.1 r.2.2))

/-! ### Writes -/

/-- A session changed. -/
def State.modSession (s : State) (k : Nat) (f : Session → Session) : State :=
  { s with cop := { s.cop with sessions := s.cop.sessions.map fun x => if x.id = k then f x else x } }

/-- R415: the highest of the Course numbers, in serial order. -/
def serialMax (ns : List Nat) : Nat := ns.foldl (fun m n => if n ≠ 0 && (m = 0 || serialGt n m) then n else m) 0

/-- R415: an allocation of a domain Course number for session `k`. -/
def State.allocate (s : State) (k ns : Nat) : State × Code :=
  if ns < 10000000 + s.tb0 then (s, .courseLate)
  else
    let seen := s.cop.nodes.flatMap fun p => [p.2.lastCourse, p.2.armed]
    let own := [s.crs.last, (s.crs.armed.map (·.number)).getD 0]
    let top := serialMax ([s.cop.allocated] ++ own ++ seen)
    let n := if (top + 1) % 2 ^ 32 = 0 then 1 else (top + 1) % 2 ^ 32
    ((({ s with cop := { s.cop with allocated := n } } : State).modSession k fun x => { x with alloc := n }), .ok)

/-- The path on which a node is reached: the recorded one, or that of its sub-manager at the manager (R413). -/
def State.pathTo (s : State) (n : Nat) : Option (Nat × Nat) :=
  let rec_ := fun m => match s.nodeRec m with
    | some r => if r.addr.isEmpty then none else some (r.path, r.lane)
    | none => none
  if s.isChild n then rec_ n
  else if s.nodeId = 0 && n < 16384 && n ≠ 0 then rec_ (parentOf n)
  else none

/-- R415: ACTION 3 to every node whose poll reports the number armed; the manager's own Course with that number as well. -/
def State.domainAbort (s : State) (number : Nat) : State :=
  let s := s.cop.nodes.foldl (fun s p =>
    if p.2.armed = number && number ≠ 0 then
      match s.pathTo p.1 with
      | some (path, lane) =>
        s.emit (.request path lane p.1 7 false (natBytes 1 3 ++ natBytes 1 0 ++ natBytes 4 0 ++ natBytes 10 0))
      | none => s
    else s) s
  match s.crs.armed with
  | none => s
  | some a => if a.number = number && s.abortable a then s.abortArmed a else s

/-- R234: a job's descriptor and data. -/
def jobOfBytes (v : List Byte) : Nat × JobDesc :=
  let w := fun i => fieldBytes v (4 * i) 4
  (w 0 % 8, { prio := Fin.ofNat 8 (bitsOf (w 0) 4 3), final := bitOf (w 0) 8, ctx := BitVec.ofNat 16 (w 1), len := w 2,
              aad := BitVec.ofNat 16 (w 3), src := w 4, dst := w 5, data := v.drop 24 })

/-- R284: a launch: five words, then the frame, placed at BUF; in the lowest descriptor that is not armed. -/
def State.launchObj (s : State) (k : Nat) (v : List Byte) : State × Code :=
  match (List.range 32).find? fun d => s.get (fTIME_LAUNCH_STATUS_PHASE d) ≠ 1 with
  | none => (s, .resBusy)
  | some d =>
    let w := fun i => fieldBytes v (4 * i) 4
    let s := ((s.setNat (aTIME_LAUNCH_T d) (w 1)).setNat (aTIME_LAUNCH_T d + 4) (w 2)).setNat (aTIME_LAUNCH_T d + 8) (w 3)
    let s := (s.setNat (aTIME_LAUNCH_BUF d) (w 4 % 2 ^ 28)).launchPut (w 4 % 65536) (v.drop 20)
    let r := s.writeLaunch d (BitVec.ofNat 32 (withBits (w 0) 13 1 1))
    (r.1.modTime fun t =>
      { t with lastLaunch := assocPut t.lastLaunch (k + 1) d, launchKept := assocDel t.launchKept (k + 1) }, r.2)

/-- The effect of a write of a computed object, or of one that acts on more than one register. -/
def State.writeCalc (s : State) (k : Nat) (h : ObjHit) (index sub : Nat) (v : List Byte) : State × Nat :=
  let by_ : Source := .cop k
  let u := bytesNat v
  let ns := 1000000000 * fieldBytes v 0 6 + fieldBytes v 6 4
  let ret := fun (r : State × Code) => (r.1, r.2.num)
  let bad := (s, Code.valueInvalid.num)
  if index < 0x2000 then
    (if v.length % 4 ≠ 0 then bad else (s.setObj index sub v, 0))
  else if index = 0x2140 then
    (if v.length < 20 then (s, Code.typeMismatch.num) else ret (s.launchObj k v))
  else if index = 0x3200 then
    (if sub = 2 then s.answered fun s => s.loadClear by_ (((s.session k).map (·.keySel)).getD 0) u
     else if 8192 ≤ u then bad
     else if sub = 1 then (s.modSession k fun x => { x with keySel := u }, 0)
     else s.answered fun s => s.zeroiseSlot by_ u)
  else if index = 0x3300 then
    (if sub = 1 then (s.modSession k fun x => { x with ctxSel := u }, 0)
     else
      let c := ((s.session k).map (·.ctxSel)).getD 0
      if v.length = 16 then ret (s.directIv c u)
      else if v.length ≠ 12 then (s, Code.typeMismatch.num)
      else if chainMode (s.ctxMode c) then bad
      else ret (s.directIv c (2 ^ 32 * u)))
  else if index = 0x3500 then
    (if v.length < 24 then (s, Code.typeMismatch.num)
     else
      let d := jobOfBytes v
      s.answered fun s => s.submit by_ 0 d.1 d.2)
  else if index = 0x6F00 then (if u = 1 then s.answered fun s => s.hostLevelNow by_ else (s, 0))
  else if index = 0x6F01 then
    (if u ≠ 1 then (s, 0)
     else if sub = 1 then s.answered fun s => s.holdLevel by_
     else (s.releaseLevel by_, 0))
  else if index = 0x6F10 then
    (s.setTime80 (aGLB_LVL_SCH h.j) ns).answered fun s => s.scheduleSlot by_ h.j ns
  else if index = 0x8002 then (s.cstSelect by_ u, 0)
  else if index = 0x9020 then
    (if sub = 2 then
      (if ns < 10000000 + s.tb0 then (s, Code.levelLate.num)
       else ({ s with cop := { s.cop with domain := s.cop.domain ++ [ns] } }, 0))
     else if sub = 6 then (s.domainAbort u, 0)
     else ret (s.allocate k ns))
  else if index = 0xA100 then ret (s.attRequest by_ v)
  else if index = 0xA110 then (s.imgWindowPut v, 0)
  else (s, Code.accessDenied.num)

/-- The effect of a write of an object that no register holds, each held as its row says (R393, R507). -/
def State.writeOwn (s : State) (index sub : Nat) (v : List Byte) : State × Nat :=
  let u := bytesNat v
  let put := fun (w : Nat) => (s.setObj index sub (natBytes v.length w), 0)
  let bad := (s, Code.valueInvalid.num)
  if index = 0x1011 || index = 0x1012 then
    (if sub = 1 then ((s.setObj index sub v).linkShow (index - 0x1011), 0)
     else if sub = 3 then put (clampN 1 128 u) else (s.setObj index sub v, 0))
  else if index = 0x1019 then put (clampN 10 3600 u)
  else if 0x1300 ≤ index && index < 0x1310 then
    (if sub = 3 then put (u % 32) else if sub = 4 then put (max 1 u) else (s.setObj index sub v, 0))
  else if index = 0x9000 && sub = 2 then put (clampN 1 1000 u)
  else if index = 0x9000 && sub = 3 then
    (if 1 ≤ u && u ≤ 100 && u < s.obj 0x9000 2 100 then put u else bad)
  else if 0x2200 ≤ index && index < 0x2300 then
    (if index < 0x2210 && sub = 1 && !(24 ≤ u && u ≤ 43) then bad
     else
      let w := if sub = 2 then min 2 u else u
      ((s.setObj index sub (natBytes v.length w)).ptpPorts, 0))
  else (s.setObj index sub v, 0)

/-- R393: the effect of a write of a field: the whole of a plain register, or the bits of a masked one that it maps. -/
def State.writeField (s : State) (k a : Nat) (f : Fld) (u : Nat) : State × Nat :=
  match regAt a with
  | none => (s, 0)
  | some g =>
    if g.row.acc = .rwm then s.writeReg (.cop k) a (65536 * ((2 ^ f.len - 1) * 2 ^ f.lo) + u * 2 ^ f.lo)
    else s.writeReg (.cop k) a (withBits (s.nat a) f.lo f.len u)

/-- R393, R433, R435: why a COP write of a word is refused before its effect, if it is. -/
def State.objGate (s : State) (k a : Nat) : Option Code :=
  if (a ≠ mgtAddr && !s.allowed (s.copInit k) true a) || (s.safe 16 && 0x100000 ≤ a && !resetRequest a) then
    some .accessDenied
  else if s.inReset a then some .funcReset
  else if (s.isSafe a && !resetRequest a && safeRefuses a) || (a = mgtAddr && s.safe 17) then some .funcSafe
  else none

/-- R392, R393: a write of an object by session `k`, with its status. -/
def State.writeObj (s : State) (k index sub : Nat) (v : List Byte) : State × Nat :=
  let no := fun (c : Code) => (s, c.num)
  if !s.objServed index then no .accessDenied
  else if topSub index = 0 || !s.objHere index then no .objAbsent
  else if sub = 0 then no .accessDenied
  else match objAt index sub with
  | none => no .objAbsent
  | some h =>
    let as_ := h.addrs index sub
    if h.row.acc = .const || h.row.acc = .ro then no .accessDenied
    else if h.row.acc = .rws then no .stageRequired
    else if !h.row.ty.fits v then no .typeMismatch
    else if h.row.ty = .bool && 1 < bytesNat v then no .valueInvalid
    else match as_.findSome? (s.objGate k) with
    | some c => no c
    | none =>
      if h.row.acc = .rwl then
        if !s.windowAdmits (s.copInit k) then no .accessDenied
        else match s.setRwlObj index sub v with
        | some t => (t, 0)
        | none => no .valueInvalid
      else match h.row.place with
      | .fld f _ _ =>
        match h.row.ty.fieldValue f.len v with
        | none => no .valueInvalid
        | some u => s.writeField k (as_.getD 0 0) f u
      | .wide _ _ _ =>
        let r := s.writeReg (.cop k) (as_.getD 0 0) (fieldBytes v 4 4)
        r.1.writeReg (.cop k) (as_.getD 1 0) (fieldBytes v 0 4)
      | .time _ _ _ =>
        let r := s.writeReg (.cop k) (as_.getD 0 0) (fieldBytes v 6 4)
        let r := r.1.writeReg (.cop k) (as_.getD 1 0) (fieldBytes v 2 4)
        r.1.writeReg (.cop k) (as_.getD 2 0) (fieldBytes v 0 2)
      | .own _ => s.writeOwn index sub v
      | .calc => s.writeCalc k h index sub v
      | _ => no .accessDenied

end Sys2Proof.Machine
end

