-- ==== Sys2Proof/Machine/Cop.lean ====
section
/-!
DEFINITION. COP (R395 to R406, R408): messages, tags, sessions, and the operations on objects.
-/

namespace Sys2Proof.Machine

/-! ### Messages (R395, R396) -/

/-- R397: operations. -/
def opRead : Nat := 1
def opWrite : Nat := 2
def opBlockRead : Nat := 3
def opBlockWrite : Nat := 4
def opLevelRead : Nat := 5
def opCourseCtrl : Nat := 7
def opStream : Nat := 8
def opOpen : Nat := 9
def opClose : Nat := 10
def opTimePoll : Nat := 11
def opAnnounce : Nat := 12
def opNotify : Nat := 13

/-- R396: the fields of a header. -/
structure CopHeader where
  op : Nat
  exp : Bool
  resp : Bool
  src : Nat
  dst : Nat
  session : Nat
  seq : Nat
deriving DecidableEq, Repr

/-- R396: a message of version 1 whose length is as its header says: its header and body. -/
def copParse (bs : List Byte) : Option (CopHeader × List Byte) :=
  let len := fieldBytes bs 18 2
  if bs.length ≠ 36 + len || fieldBytes bs 0 1 ≠ 1 then none
  else
    let flags := fieldBytes bs 2 1
    some (⟨fieldBytes bs 1 1, bitOf flags 0, bitOf flags 1, fieldBytes bs 4 2, fieldBytes bs 6 2, fieldBytes bs 8 4,
      fieldBytes bs 12 4⟩, sliceBytes bs 20 len)

/-- R402: the tag of a header and body under a key. -/
def copTag (key bytes : List Byte) : List Byte := (hmacSha256 key bytes).take 16

/-- R402: a message's tag is good under a key. -/
def copTagOk (key bs : List Byte) : Bool := copTag key (bs.take (bs.length - 16)) == bs.drop (bs.length - 16)

/-- R396: a message. -/
def copMessage (key : List Byte) (op flags src dst session seq status : Nat) (body : List Byte) : List Byte :=
  let head := natBytes 1 1 ++ natBytes 1 op ++ natBytes 1 flags ++ [0] ++ natBytes 2 src ++ natBytes 2 dst
    ++ natBytes 4 session ++ natBytes 4 seq ++ natBytes 2 status ++ natBytes 2 body.length
  head ++ body ++ copTag key (head ++ body)

/-- R395: the largest message of a path. -/
def copLimit (path : Nat) : Nat := if path = 3 then 976 else 1452

/-- R395, R417, R163, R304: COP messages pass on a path. -/
def State.pathUp (s : State) (path lane : Nat) : Bool :=
  if path < 2 then s.obj (0x1011 + path) 1 1 = 1 && s.sec.phy.getD path false
  else if path = 2 then s.laneUp (Fin.ofNat 8 lane) && s.is (fLFR_CTRL_MCC_EN (lane % 8))
  else s.laneUp (Fin.ofNat 8 lane) && !s.held 11 && s.is (fKSC_CTRL_MGMT_EN (lane % 8))

/-- R411: the enabled paths. -/
def State.pathsUp (s : State) : List (Nat × Nat) :=
  ([(0, 0), (1, 0)] ++ (List.range 8).map (fun n => (2, n)) ++ (List.range 8).map fun n => (3, n)).filter fun p =>
    s.pathUp p.1 p.2

/-- R395: the IPv6 packet of a UDP datagram to a port.  The addresses, the flow label, the hop limit and the checksum
are free (log entry 39). -/
def State.datagram (s : State) (port : Nat) (msg : List Byte) : State × List Byte :=
  let h := natBytes 48 (s.freeBits 384)
  let h := putBytes (putBytes h 0 [0x60]) 4 (natBytes 2 (8 + msg.length))
  let h := putBytes (putBytes h 6 [17]) 40 (natBytes 2 50592 ++ natBytes 2 port ++ natBytes 2 (8 + msg.length))
  (s.takeFree, h ++ msg)

/-- R395: a COP message handed to the transmitter of a path. -/
def State.copOut (s : State) (path lane port : Nat) (msg : List Byte) : State :=
  if !s.pathUp path lane then s
  else
    let n : Lane := Fin.ofNat 8 lane
    let d := s.datagram port msg
    let s := if path < 2 then s else if path = 2 then d.1.mccSend n d.2 else d.1.ksMgmt n d.2
    s.emit (.cop path lane msg)

/-! ### Sessions (R402 to R404) -/

/-- R402: the domain key, and the keys derived from it. -/
def State.domainKey (s : State) : List Byte := (assocGet s.objs (0x1018 * 256 + 1)).getD (List.replicate 32 0)
def State.copKey (s : State) (text : String) (rest : List Byte) : List Byte :=
  hmacSha256 s.domainKey (textBytes text ++ rest)

/-- R402: a message discarded is counted. -/
def State.copDiscard (s : State) : State := s.bumpObj 0x1019 3 8 1

/-- R403: a session accepts a SEQ: above the highest accepted, or one of the 64 below it not yet accepted. -/
def Session.accepts (x : Session) (seq : Nat) : Bool :=
  x.high < seq || (1 ≤ seq && seq < x.high && x.high ≤ seq + 64 && !x.seen.contains seq)

/-- R403: the SEQ is taken. -/
def Session.take (x : Session) (seq : Nat) : Session :=
  let high := max x.high seq
  { x with high := high, seen := (seq :: x.seen).filter fun q => high ≤ q + 64 }

/-- R443: COP is served from MGT_READY; a message arrives on a path that takes it, and counts on MGT0 and MGT1. -/
def State.copServes (s : State) (m : CopRx) : Bool := !s.cold && s.is fGLB_STATUS_MGT_READY && s.pathUp m.path m.lane
def State.copCount (s : State) (m : CopRx) : State := if m.path.val < 2 then s.bumpObj (0x1011 + m.path) 5 8 1 else s

/-- A message is for this node. -/
def State.copMine (s : State) (h : CopHeader) : Bool := h.dst = 0xFFFF || h.dst = s.nodeId

/-- R402, R403: a session message checked and taken: the state, and the header, body and session id of one that is
accepted. -/
def State.copTake (s : State) (m : CopRx) : State × Option (CopHeader × List Byte × Nat) :=
  match copParse m.bytes with
  | none => (s.copDiscard, none)
  | some (h, body) =>
    match s.session h.session with
    | none => (s.copDiscard, none)
    | some x =>
      if copTagOk x.key m.bytes && x.accepts h.seq then
        (s.modSession x.id fun x => { x.take h.seq with last := s.clk, line := 2 ≤ m.path.val }, some (h, body, x.id))
      else (s.copDiscard, none)

/-- R396: a response in a session: it copies OP, SESSION and EXP, sets RESP, and carries the responder's own SEQ. -/
def State.copReply (s : State) (m : CopRx) (h : CopHeader) (k status : Nat) (body : List Byte) : State :=
  match s.session k with
  | none => s
  | some x =>
    let seq := x.sentSeq + 1
    let s := s.modSession k fun x => { x with sentSeq := seq }
    let s := if h.exp then s.bumpObj 0x1019 4 8 1 else s
    s.copOut m.path m.lane 50592
      (copMessage x.key h.op (b2n h.exp + 2) s.nodeId h.src h.session (seq % 2 ^ 32) status body)

/-- R395: a response that would exceed the path's limit is refused whole: its request has no effect. -/
def State.copAnswer (s t : State) (m : CopRx) (h : CopHeader) (k status : Nat) (body : List Byte) : State :=
  if copLimit m.path < 36 + body.length then s.copReply m h k Code.tooLarge.num []
  else t.copReply m h k status body

/-- R398: how many entries a request's body holds, where its OP carries entries. -/
def entryCount : Nat → List Byte → Nat
  | 0, _ => 0
  | n + 1, bs => if bs.length < 6 then (if bs.isEmpty then 0 else 1) else 1 + entryCount n (bs.drop (6 + fieldBytes bs 4 2))

/-- R405: a request may be expedited. -/
def mayExpedite (op : Nat) (body : List Byte) : Bool :=
  if op = opRead then body.length ≤ 64
  else if op = opLevelRead then body.length ≤ 68
  else if op = opWrite then entryCount 17 body ≤ 16
  else if op = opCourseCtrl then fieldBytes body 0 1 = 3
  else op = opNotify

/-- R402 to R405: a session request of one of some operations: the state, and the session whose request has been worked
off with `OK`.  The command stands for such a message: another leaves the state as it is. -/
def State.copServe (s : State) (m : CopRx) (full : Bool) (ops : Nat → Bool)
    (work : State → List Byte → Nat → State × Nat × List Byte) : State × Option Nat :=
  let claim := match copParse m.bytes with
    | some (h, _) => ops h.op && !h.resp && s.copMine h
    | none => true
  if !s.copServes m || !claim then (s, none)
  else
    let r := (s.copCount m).copTake m
    match r.2 with
    | none => (r.1, none)
    | some (h, body, k) =>
      let s := r.1
      if full then ((s.bumpObj 0x1019 5 8 1).copReply m h k Code.nodeBusy.num [], none)
      else if h.exp && !mayExpedite h.op body then (s.copReply m h k Code.opInvalid.num [], none)
      else
        let w := work s body k
        (s.copAnswer w.1 m h k w.2.1 w.2.2, if w.2.1 = 0 then some k else none)

/-! ### Operations (R398, R399, R401, R406) -/

/-- R398: READ entries; none where the body is not whole entries or holds more than 64 (log entry 38). -/
def readEntries (body : List Byte) : Option (List (Nat × Nat)) :=
  if body.length % 4 ≠ 0 || 256 < body.length then none
  else some ((List.range (body.length / 4)).map fun i => (fieldBytes body (4 * i) 2, fieldBytes body (4 * i + 2) 1))

/-- R398: WRITE entries. -/
def writeEntries : Nat → List Byte → Option (List (Nat × Nat × List Byte))
  | 0, bs => if bs.isEmpty then some [] else none
  | n + 1, bs =>
    if bs.isEmpty then some []
    else
      let len := fieldBytes bs 4 2
      if bs.length < 6 + len then none
      else (writeEntries n (bs.drop (6 + len))).map fun l =>
        (fieldBytes bs 0 2, fieldBytes bs 2 1, sliceBytes bs 6 len) :: l

/-- R398: the identity of an entry. -/
def entryHead (index sub : Nat) : List Byte := natBytes 2 index ++ natBytes 1 sub ++ [0]

/-- R399: READ entries processed in order. -/
def State.readAll (s : State) (k : Nat) (bank : Option Level) (es : List (Nat × Nat)) : State × List Byte :=
  es.foldl (fun p e =>
    let r := p.1.readObj k e.1 e.2 bank
    (r.1, p.2 ++ entryHead e.1 e.2 ++ natBytes 2 r.2.1 ++ natBytes 2 r.2.2.length ++ r.2.2)) (s, [])

/-- R398: READ. -/
def State.opRead (s : State) (body : List Byte) (k : Nat) : State × Nat × List Byte :=
  match readEntries body with
  | none => (s, Code.valueInvalid.num, [])
  | some es =>
    let r := s.readAll k none es
    (r.1, 0, r.2)

def execCopRead (m : CopRx) (full : Bool) (s : State) : Ans :=
  .next (s.copServe m full (· == opRead) fun s body k => s.opRead body k).1

/-- R393, R399: WRITE. -/
def State.opWrite (s : State) (body : List Byte) (k : Nat) : State × Nat × List Byte :=
  match writeEntries 64 body with
  | none => (s, Code.valueInvalid.num, [])
  | some es =>
    let r := es.foldl (fun (p : State × List Byte) e =>
      let r := p.1.writeObj k e.1 e.2.1 e.2.2
      (r.1, p.2 ++ entryHead e.1 e.2.1 ++ natBytes 2 r.2)) (s, [])
    (r.1, 0, r.2)

def execCopWrite (m : CopRx) (full : Bool) (s : State) : Ans :=
  .next (s.copServe m full (· == opWrite) fun s body k => s.opWrite body k).1

/-- R406: LEVEL_READ. -/
def State.opLevelRead (s : State) (body : List Byte) (k : Nat) : State × Nat × List Byte :=
  match (if body.length < 4 then none else readEntries (body.drop 4)) with
  | none => (s, Code.valueInvalid.num, [])
  | some es =>
    match s.selectLevel (fieldBytes body 0 4) with
    | none => (s, Code.levelGone.num, [])
    | some l =>
      let r := s.readAll k (some l) es
      (r.1, 0, natBytes 4 l.number ++ time80Bytes l.inst ++ natBytes 2 l.causes ++ r.2)

def execCopLevelRead (m : CopRx) (full : Bool) (s : State) : Ans :=
  .next (s.copServe m full (· == opLevelRead) fun s body k => s.opLevelRead body k).1

/-- R401: the block transfer of a session, of a direction, less than 1 s old. -/
def State.blockOf (s : State) (k : Nat) (write : Bool) (index sub : Nat) : Option BlockXfer :=
  match (s.session k).bind (·.block) with
  | none => none
  | some b => if b.write = write && b.index = index && b.sub = sub && s.clk ≤ cyclesSec + b.at_ then some b else none

/-- A session's block transfer set. -/
def State.setBlock (s : State) (k : Nat) (b : Option BlockXfer) : State := s.modSession k fun x => { x with block := b }

/-- R401: BLOCK_READ. -/
def State.opBlockRead (s : State) (body : List Byte) (k : Nat) : State × Nat × List Byte :=
  if body.length ≠ 10 then (s, Code.valueInvalid.num, [])
  else
    let index := fieldBytes body 0 2
    let sub := fieldBytes body 2 1
    let ofs := fieldBytes body 4 4
    let most := fieldBytes body 8 2
    let no := fun (s : State) (code : Nat) =>
      (s, 0, entryHead index sub ++ natBytes 2 code ++ natBytes 4 0 ++ natBytes 4 ofs ++ natBytes 2 0)
    let got : State × Nat × List Byte :=
      if ofs = 0 then s.readObj k index sub none
      else match s.blockOf k false index sub with
        | some b => (s, 0, b.data)
        | none => (s, Code.blockExpired.num, [])
    if got.2.1 ≠ 0 then no got.1 got.2.1
    else
      let v := got.2.2
      if v.length < ofs then no got.1 Code.valueInvalid.num
      else
        let part := (v.drop ofs).take most
        let b : BlockXfer := { write := false, index := index, sub := sub, total := v.length, data := v, at_ := s.clk }
        let done := v.length ≤ ofs + part.length
        (got.1.setBlock k (if done then none else some b), 0,
          entryHead index sub ++ natBytes 2 0 ++ natBytes 4 v.length ++ natBytes 4 ofs ++ natBytes 2 part.length ++ part)

def execCopBlockRead (m : CopRx) (full : Bool) (s : State) : Ans :=
  .next (s.copServe m full (· == opBlockRead) fun s body k => s.opBlockRead body k).1

/-- R401: BLOCK_WRITE. -/
def State.opBlockWrite (s : State) (body : List Byte) (k : Nat) : State × Nat × List Byte :=
  let len := fieldBytes body 12 2
  if body.length ≠ 14 + len then (s, Code.valueInvalid.num, [])
  else
    let index := fieldBytes body 0 2
    let sub := fieldBytes body 2 1
    let total := fieldBytes body 4 4
    let ofs := fieldBytes body 8 4
    let ret := fun (s : State) (code : Nat) => (s, 0, entryHead index sub ++ natBytes 2 code)
    let before := if ofs = 0 then some [] else ((s.blockOf k true index sub).filter fun b => b.total == total).map (·.data)
    match before with
    | none => ret (s.setBlock k none) Code.blockExpired.num
    | some bs =>
      if bs.length ≠ ofs then ret (s.setBlock k none) Code.blockExpired.num
      else if 16384 < total || total < ofs + len then ret (s.setBlock k none) Code.valueInvalid.num
      else
        let bs := bs ++ sliceBytes body 14 len
        if bs.length = total then
          let r := (s.setBlock k none).writeObj k index sub bs
          ret r.1 r.2
        else
          let b : BlockXfer := { write := true, index := index, sub := sub, total := total, data := bs, at_ := s.clk }
          ret (s.setBlock k (some b)) 0

def execCopBlockWrite (m : CopRx) (full : Bool) (s : State) : Ans :=
  .next (s.copServe m full (· == opBlockWrite) fun s body k => s.opBlockWrite body k).1

/-- R401: a block transfer left for 1 s. -/
def execBlockExpire (k : Nat) (s : State) : Ans :=
  match (s.session k).bind (·.block) with
  | none => .next s
  | some b => .next ((s.waitClk (cyclesSec + b.at_)).setBlock k none)

/-- R397: an OP that is none of the table. -/
def execCopOpInvalid (m : CopRx) (full : Bool) (s : State) : Ans :=
  .next (s.copServe m full (fun op => op = 0 || opNotify < op) fun s _ _ => (s, Code.opInvalid.num, [])).1

/-! ### The life of a session -/

/-- R404: the end of a session. -/
def State.sessionEnd (s : State) (k : Nat) : State :=
  let s := (s.courseOrphan (.cop k)).releaseLevel (.cop k)
  { s with
    cop := { s.cop with sessions := s.cop.sessions.filter fun x => x.id != k }
    ciph := { s.ciph with sessionResults := assocDel s.ciph.sessionResults k, lastJob := assocDel s.ciph.lastJob k }
    time := { s.time with
      lastLaunch := assocDel s.time.lastLaunch (k + 1), launchKept := assocDel s.time.launchKept (k + 1) } }

/-- R402, R403: SESSION_OPEN: its KEYID and its tag under HMAC(K_D, "OPEN") are checked; the answer lies outside the
session that it opens. -/
def execSessionOpen (m : CopRx) (full : Bool) (s : State) : Ans :=
  match copParse m.bytes with
  | none => .next (if s.copServes m then (s.copCount m).copDiscard else s)
  | some (h, body) =>
    if !s.copServes m || h.op ≠ opOpen || h.resp || !s.copMine h then .next s
    else
      let s := s.copCount m
      let key := s.copKey "OPEN" []
      if body.length ≠ 20 || fieldBytes body 16 4 ≠ s.obj 0x1018 2 0 || !copTagOk key m.bytes then .next s.copDiscard
      else
        let say := fun (s : State) (status : Nat) (body : List Byte) =>
          (if h.exp then s.bumpObj 0x1019 4 8 1 else s).copOut m.path m.lane 50592
            (copMessage key opOpen (b2n h.exp + 2) s.nodeId h.src 0 0 status body)
        if full then .next (say (s.bumpObj 0x1019 5 8 1) Code.nodeBusy.num [])
        else if h.exp then .next (say s Code.opInvalid.num [])
        else if 32 ≤ s.cop.sessions.length then .next (say s Code.sessionLimit.num [])
        else
          let rn := natBytes 16 (s.freeBits 128)
          let id := s.cop.nextId
          let x : Session := {
            id := id, key := s.copKey "COP1" (body.take 16 ++ rn ++ natBytes 4 id), peer := h.src
            last := s.clk, line := 2 ≤ m.path.val }
          let s := s.takeFree
          let s := { s with cop := { s.cop with
            sessions := s.cop.sessions ++ [x], nextId := if id + 1 = 2 ^ 32 then 1 else id + 1 } }
          .next (say s 0 (rn ++ natBytes 4 id))

/-- R403, R404: SESSION_CLOSE: answered in the session, which then ends. -/
def execSessionClose (m : CopRx) (full : Bool) (s : State) : Ans :=
  let r := s.copServe m full (· == opClose) fun s body _ =>
    if s.nodeId = 0xFFFF then (s, Code.accessDenied.num, [])
    else if !body.isEmpty then (s, Code.valueInvalid.num, [])
    else (s, 0, [])
  match r.2 with
  | some k => .next (r.1.sessionEnd k)
  | none => .next r.1

/-- R403: a session idle for its timeout. -/
def execSessionTimeout (k : Nat) (s : State) : Ans :=
  match s.session k with
  | none => .next s
  | some x => .next ((s.waitClk (x.last + cyclesSec * clampN 10 3600 (s.obj 0x1019 1 60))).sessionEnd k)

end Sys2Proof.Machine
end

