-- ==== Sys2Proof/Machine/Domain.lean ====
section
/-!
DEFINITION. The Craos domain (R409 to R415): relays, polls and presence, streams, domain Levels and Courses.
-/

namespace Sys2Proof.Machine

def State.modCop (s : State) (f : CopState → CopState) : State := { s with cop := f s.cop }

/-! ### Relay (R413) -/

/-- R413: the answer of a relay for a node out of reach. -/
def State.relayUnreachable (s : State) (m : CopRx) (h : CopHeader) : State :=
  s.copOut m.path m.lane 50592
    (copMessage (s.copKey "RELAY" []) h.op (b2n h.exp + 2) s.nodeId h.src 0 0 Code.unreachable.num [])

/-- R413: a request whose DST names another node is passed on unchanged; a response goes back the way its session's
requests came (log entry 41).  A target that is not reached is answered `UNREACHABLE`. -/
def execCopRelay (m : CopRx) (s : State) : Ans :=
  match copParse m.bytes with
  | none => .next (if s.copServes m then (s.copCount m).copDiscard else s)
  | some (h, _) =>
    if !s.copServes m then .next s
    else if h.resp then
      match assocGet s.cop.relays h.session with
      | some (path, lane) => .next ((s.copCount m).copOut path lane 50592 m.bytes)
      | none => .next s
    else if s.copMine h then .next s
    else
      let s := s.copCount m
      match s.pathTo h.dst with
      | some (path, lane) =>
        let via := if s.isChild h.dst then h.dst else parentOf h.dst
        if 2 ≤ s.presence h.dst || 2 ≤ s.presence via then .next (s.relayUnreachable m h)
        else
          let s := s.modCop fun c => { c with relays := assocPut c.relays h.session (m.path.val, m.lane.val) }
          .next (s.copOut path lane 50592 m.bytes)
      | none => .next (s.relayUnreachable m h)

/-! ### Polls and presence (R411, R412) -/

/-- R411: the answer of a child to a poll: the poll number, TB0's state, the times of arrival and hand-off, the Level and
Course numbers, the armed Course and its T, the alarm summary. -/
def State.pollAnswer (s : State) (number arrival : Nat) : List Byte :=
  let armed := s.crs.armed
  natBytes 4 number ++ natBytes 1 (s.get fTIME_STATUS_TB0_STATE) ++ stampBytes arrival ++ stampBytes (s.stamp 0 0)
    ++ natBytes 4 ((s.latestLevel.map (·.number)).getD 0) ++ natBytes 4 s.crs.last
    ++ natBytes 4 ((armed.map (·.number)).getD 0) ++ time80Bytes ((armed.map (·.time)).getD 0) ++ natBytes 4 s.alarmSum

/-- R411: a TIME_POLL is answered `d` PLU cycles after its arrival. -/
def execTimePoll (m : CopRx) (d : Fin 1251) (s : State) : Ans :=
  let r := s.copServe m false (· == opTimePoll) fun s body _ =>
    if s.nodeId = 0xFFFF then (s, Code.accessDenied.num, [])
    else if body.length ≠ 4 then (s, Code.valueInvalid.num, [])
    else
      let arrival := s.stamp 0 0
      let s := s.elapse d
      (s.modCop fun c => { c with polled := true, up := (m.path.val, m.lane.val) }, 0, s.pollAnswer (bytesNat body) arrival)
  .next r.1

/-- R412: a child's presence has changed: a sub-manager reports it to the manager. -/
def State.reportPresence (s : State) (n code : Nat) : State :=
  if roleOf s.nodeId ≠ 1 then s
  else s.emit (.request s.cop.up.1 s.cop.up.2 0 opNotify true (natBytes 2 n ++ natBytes 1 code))

/-- A node record set. -/
def State.setNode (s : State) (n : Nat) (r : NodeRec) : State := s.modCop fun c => { c with nodes := assocPut c.nodes n r }

/-- R411: the children whose address is recorded, in ascending order of id. -/
def State.children (s : State) : List Nat :=
  (s.cop.nodes.filter fun p => s.isChild p.1 && !p.2.addr.isEmpty).map (·.1)

/-- R411: POLL_MS. -/
def State.pollMs (s : State) : Nat := clampN 1 1000 (s.obj 0x9000 2 100)

/-- R411: the next TB0 multiple of POLL_MS starts a round, or counts as skipped while a round is still sending. -/
def execPollRoundStart (s : State) : Ans :=
  if s.cold || !s.is fGLB_STATUS_MGT_READY || roleOf s.nodeId = 0 || roleOf s.nodeId = 3 then .next s
  else
    let p := 1000000 * s.pollMs
    let t := divUp s.tb0 p * p
    let t := if t ≤ s.cop.lastRound && s.cop.lastRound ≠ 0 then (s.cop.lastRound / p + 1) * p else t
    let s := (s.waitTb 0 t).modCop fun c => { c with lastRound := t }
    if s.cop.round.isEmpty then
      .next (s.modCop fun c => { c with round := s.children, nextPoll := t })
    else .next (s.bumpObj 0x9000 5 4 1)

/-- R411: the next poll of the round, 8 µs after the one before. -/
def execPollSend (s : State) : Ans :=
  match s.cop.round with
  | [] => .next s
  | n :: rest =>
    if s.cold || !s.is fGLB_STATUS_MGT_READY then .next s
    else
      let s := s.waitTb 0 s.cop.nextPoll
      let number := (s.cop.pollNo + 1) % 2 ^ 32
      let dst := (s.pathTo n).getD (0, 0)
      let s := s.modCop fun c => { c with
        round := rest, nextPoll := 8000 + c.nextPoll, pollNo := number, out := c.out ++ [⟨n, number, s.tb0⟩] }
      .next (s.emit (.request dst.1 dst.2 n opTimePoll false (natBytes 4 number)))

/-- R411, R412: a child's answer enters its record; it is `PRESENT` again. -/
def execTimePollAnswer (node : BitVec 14) (body : List Byte) (s : State) : Ans :=
  let n := node.toNat
  match s.cop.out.find? fun o => o.node == n && o.number == fieldBytes body 0 4 with
  | none => .next s
  | some o =>
    if body.length ≠ 55 then .next s
    else
      let old := (s.nodeRec n).getD {}
      let r : NodeRec := { old with
        presence := 1, misses := 0, tb0State := fieldBytes body 4 1
        tb0 := 1000000000 * fieldBytes body 5 6 + fieldBytes body 11 4
        level := fieldBytes body 29 4, lastCourse := fieldBytes body 33 4, armed := fieldBytes body 37 4
        armedT := 1000000000 * fieldBytes body 41 6 + fieldBytes body 47 4
        roundTrip := (s.tb0 - o.at_) % 2 ^ 32, alarms := fieldBytes body 51 4 }
      let s := (s.modCop fun c => { c with out := c.out.filter fun x => x != o }).setNode n r
      .next (if old.presence = 1 then s else s.reportPresence n 1)

/-- R412: the oldest poll of a child stays unanswered for POLL_TIMEOUT: a miss; the third in a row makes it `ABSENT`. -/
def execPollTimeout (node : BitVec 14) (s : State) : Ans :=
  let n := node.toNat
  match s.cop.out.find? fun o => o.node == n with
  | none => .next s
  | some o =>
    let s := s.waitTb 0 (o.at_ + 1000000 * s.obj 0x9000 3 10)
    let old := (s.nodeRec n).getD {}
    let misses := min 65535 (old.misses + 1)
    let gone := 3 ≤ misses && old.presence ≠ 2
    let s := s.modCop fun c => { c with out := c.out.filter fun x => x != o }
    let s := s.setNode n { old with misses := misses, presence := if gone then 2 else old.presence }
    .next (if gone then s.reportPresence n 2 else s)

/-- R411: a node whose parent address is set and that no TIME_POLL has reached sends ANNOUNCE once per second on every
enabled path. -/
def execAnnounceDue (s : State) : Ans :=
  if s.cold || !s.is fGLB_STATUS_MGT_READY || s.cop.polled || s.obj 0x9000 4 0 = 0 then .next s
  else
    let s := if s.cop.announced = 0 then s else s.waitTb 0 (1000000000 + s.cop.announced)
    let s := s.modCop fun c => { c with announced := s.tb0 }
    let id := s.nodeId
    .next (s.pathsUp.foldl (fun s p => s.emit (.request p.1 p.2 (if id = 0xFFFF then id else parentOf id) opAnnounce false [])) s)

/-- R411: the first ANNOUNCE of a child gives its address and path. -/
def execAnnounceReceive (node : BitVec 14) (path : Fin 4) (lane : Fin 8) (addr : List Byte) (s : State) : Ans :=
  let n := node.toNat
  let old := (s.nodeRec n).getD {}
  if s.cold || !s.is fGLB_STATUS_MGT_READY || !s.pathUp path lane || !s.isChild n || !old.addr.isEmpty || addr.isEmpty then
    .next s
  else .next (s.setNode n { old with addr := addr, path := path, lane := lane })

/-- R412: the manager takes a presence NOTIFY of a sub-manager. -/
def execNotify (m : CopRx) (full : Bool) (s : State) : Ans :=
  .next (s.copServe m full (· == opNotify) fun s body _ =>
    if s.nodeId ≠ 0 then (s, Code.accessDenied.num, [])
    else
      let n := fieldBytes body 0 2
      let code := fieldBytes body 2 1
      if body.length ≠ 3 || 16384 ≤ n || 3 < code then (s, Code.valueInvalid.num, [])
      else (s.setNode n { (s.nodeRec n).getD {} with presence := code }, 0, [])).1

/-! ### Streams (R409, R419) -/

/-- R409: the entries of a stream's sample, as a LEVEL_READ of its Level; an object that is not Level data is sent with
its value now, marked `NOT_LEVEL`. -/
def State.sampleEntries (s : State) (l : Level) (es : List (Nat × Nat)) : State × List (List Byte) :=
  es.foldl (fun p e =>
    let r := p.1.readObj 0 e.1 e.2 (some l)
    let q := if r.2.1 = Code.notLevel.num then p.1.readObj 0 e.1 e.2 none else r
    let code := if r.2.1 = Code.notLevel.num && q.2.1 = 0 then Code.notLevel.num else q.2.1
    (q.1, p.2 ++ [entryHead e.1 e.2 ++ natBytes 2 code ++ natBytes 2 q.2.2.length ++ q.2.2])) (s, [])

/-- R409: entries gathered into segments of at most `room` bytes, in order; one that no segment holds is sent as its head
with `TOO_LARGE`. -/
def segments (room : Nat) (es : List (List Byte)) : List (List Byte) :=
  (es.foldl (fun (p : List (List Byte)) e =>
    let e := if room < e.length then e.take 4 ++ natBytes 2 Code.tooLarge.num ++ natBytes 2 0 else e
    match p with
    | [] => [e]
    | x :: rest => if x.length + e.length ≤ room then (x ++ e) :: rest else e :: x :: rest) [[]]).reverse

/-- A Level by its number, wherever a bank holds it complete. -/
def State.levelNumbered (s : State) (n : Nat) : Option Level :=
  s.lvl.banks.findSome? fun b => match b with
    | .complete l => if l.number = n then some l else none
    | _ => none

/-- R409: the sample due of a stream leaves, on the path where its destination lies; a Level that no bank holds any more
makes it a dropped one. -/
def execStreamSampleSend (i : Fin 16) (path : Fin 4) (lane : Fin 8) (s : State) : Ans :=
  match s.cop.due.find? fun d => d.1 == i.val with
  | none => .next s
  | some d =>
    let ix := 0x1300 + i.val
    if s.cold || !s.is fGLB_STATUS_MGT_READY || s.obj ix 1 0 = 0 || !s.pathUp path lane then .next s
    else
      let s := s.modCop fun c => { c with due := c.due.filter fun x => x.1 != i.val }
      match s.levelNumbered d.2 with
      | none => .next (s.bumpObj ix 7 8 1)
      | some l =>
        let es := (readEntries ((assocGet s.objs (ix * 256 + 5)).getD [])).getD []
        let r := s.sampleEntries l es
        let head := natBytes 4 l.number ++ time80Bytes l.inst ++ natBytes 2 l.causes
        let segs := segments (copLimit path - 56) r.2
        let key := s.copKey "STRM" (natBytes 2 s.nodeId ++ natBytes 1 i)
        let port := fieldBytes ((assocGet s.objs (ix * 256 + 2)).getD (List.replicate 18 0)) 16 2
        let s := segs.zipIdx.foldl (fun s p =>
          let more := p.2 + 1 < segs.length
          let seq := s.cop.streamSeq.getD i 0 + 1
          let s := s.modCop fun c => { c with streamSeq := setAt c.streamSeq i seq }
          s.copOut path lane port (copMessage key opStream (4 * b2n more) s.nodeId 0xFFFF 0 (seq % 2 ^ 32) 0
            (natBytes 1 i ++ natBytes 1 p.2 ++ natBytes 1 segs.length ++ [0] ++ head ++ p.1))) r.1
        .next (s.bumpObj ix 6 8 1)

/-! ### Domain Levels and Courses (R414, R415) -/

/-- R414: the lowest empty slot of 0x6F10 takes a time. -/
def State.ownSlot (s : State) (ns : Nat) : State × Bool :=
  match (List.range 16).find? fun k => (s.lvl.slots.getD k none).isNone with
  | none => (s, false)
  | some k =>
    if ns < 50000 + s.tb0 then (s, false)
    else ({ s with lvl := { s.lvl with slots := setAt s.lvl.slots k (some ns) } }, true)

/-- R414: the oldest domain Level time accepted is written to every node of the set, in the manager's own sessions, and
the results are counted.  `results`: the statuses that the nodes gave; one that gave none refused. -/
def execDomainLevelSchedule (results : List (BitVec 14 × BitVec 16)) (s : State) : Ans :=
  match s.cop.domain with
  | [] => .next s
  | t :: rest =>
    if s.cold || !s.is fGLB_STATUS_MGT_READY || s.nodeId ≠ 0 then .next s
    else
      let s := s.modCop fun c => { c with domain := rest }
      let set := mapNodes ((assocGet s.objs (0x9020 * 256 + 1)).getD [])
      let r := set.foldl (fun (p : State × Nat × Nat × Nat) n =>
        let s := p.1
        if n = 0 then
          let w := s.ownSlot t
          (w.1, if w.2 then (p.2.1 + 1, p.2.2) else (p.2.1, p.2.2.1, p.2.2.2 + 1))
        else if 2 ≤ s.presence n then (s, p.2.1, p.2.2.1 + 1, p.2.2.2)
        else
          let s := match s.pathTo n with
            | some (path, lane) => s.emit (.request path lane n opWrite false (time80Bytes t))
            | none => s
          match results.find? fun x => x.1.toNat == n with
          | some x => if x.2 = 0 then (s, p.2.1 + 1, p.2.2) else (s, p.2.1, p.2.2.1, p.2.2.2 + 1)
          | none => (s, p.2.1, p.2.2.1, p.2.2.2 + 1)) (s, 0, 0, 0)
      let s := (r.1.setObj 0x9020 3 (natBytes 2 r.2.1)).setObj 0x9020 4 (natBytes 2 r.2.2.1)
      .next (s.setObj 0x9020 5 (natBytes 2 r.2.2.2))

/-- R415: a write of T to 0x9020:07 by a session. -/
def execCourseAllocate (k : Nat) (t : Time80) (s : State) : Ans :=
  if s.cold || !s.is fGLB_STATUS_MGT_READY || s.nodeId ≠ 0 then .next s
  else
    let r := s.allocate k (timeNs t)
    .next (r.1.answer (.cop k) r.2)

/-- R415: a write of a number to 0x9020:06 by a session. -/
def execDomainAbort (k : Nat) (number : BitVec 32) (s : State) : Ans :=
  if s.cold || !s.is fGLB_STATUS_MGT_READY || s.nodeId ≠ 0 then .next s
  else .next ((s.domainAbort number.toNat).answer (.cop k) .ok)

end Sys2Proof.Machine
end

