-- ==== Sys2Proof/Machine/Families.lean ====
section
/-!
DEFINITION. The files that hold the meanings of the commands, gathered for Dispatch.lean; it defines nothing.
-/
end

