-- ==== Sys2Proof/Machine/Dispatch.lean ====
section
/-!
DEFINITION. One arm per command; each calls the command's meaning.
-/

namespace Sys2Proof.Machine

def exec (i : Instr) (s : State) : Host.Outcome State Fault Refusal :=
  match i with
  | .levelPeriodic => Sys2Proof.Machine.execLevelPeriodic s
  | .levelQ15 => Sys2Proof.Machine.execLevelQ15 s
  | .levelD24 => Sys2Proof.Machine.execLevelD24 s
  | .levelScheduled slot => Sys2Proof.Machine.execLevelScheduled slot s
  | .levelHost by_ => Sys2Proof.Machine.execLevelHost by_ s
  | .levelFreezeEnd isl => Sys2Proof.Machine.execLevelFreezeEnd isl s
  | .levelCopyStart => Sys2Proof.Machine.execLevelCopyStart s
  | .levelCopyComplete => Sys2Proof.Machine.execLevelCopyComplete s
  | .levelScheduleWrite by_ slot t => Sys2Proof.Machine.execLevelScheduleWrite by_ slot t s
  | .levelHold by_ => Sys2Proof.Machine.execLevelHold by_ s
  | .levelRelease by_ => Sys2Proof.Machine.execLevelRelease by_ s
  | .levelDataRead addr size => Sys2Proof.Machine.execLevelDataRead addr size s
  | .levelMixClear => Sys2Proof.Machine.execLevelMixClear s
  | .courseStage by_ target => Sys2Proof.Machine.execCourseStage by_ target s
  | .courseCommit by_ mode number t => Sys2Proof.Machine.execCourseCommit by_ mode number t s
  | .courseValidationEnd => Sys2Proof.Machine.execCourseValidationEnd s
  | .courseDiscard by_ => Sys2Proof.Machine.execCourseDiscard by_ s
  | .courseAbort by_ => Sys2Proof.Machine.execCourseAbort by_ s
  | .courseAbortWindowClose => Sys2Proof.Machine.execCourseAbortWindowClose s
  | .courseStrobe => Sys2Proof.Machine.execCourseStrobe s
  | .courseRxTimeout n => Sys2Proof.Machine.execCourseRxTimeout n s
  | .courseFarMismatch n => Sys2Proof.Machine.execCourseFarMismatch n s
  | .courseClientApply item => Sys2Proof.Machine.execCourseClientApply item s
  | .convAdcEnWrite n v => Sys2Proof.Machine.execConvAdcEnWrite n v s
  | .convDacEnWrite n v => Sys2Proof.Machine.execConvDacEnWrite n v s
  | .convDacMuteWrite n v => Sys2Proof.Machine.execConvDacMuteWrite n v s
  | .convSettled n side delay => Sys2Proof.Machine.execConvSettled n side delay s
  | .convUnlock n side => Sys2Proof.Machine.execConvUnlock n side s
  | .samplingRefLoss die => Sys2Proof.Machine.execSamplingRefLoss die s
  | .samplingRefReturn die => Sys2Proof.Machine.execSamplingRefReturn die s
  | .adcGroup n outside codes => Sys2Proof.Machine.execAdcGroup n outside codes s
  | .dacGroup n at_ ks => Sys2Proof.Machine.execDacGroup n at_ ks s
  | .spareRetireWrite n k pos => Sys2Proof.Machine.execSpareRetireWrite n k pos s
  | .spareTakeoverSwitch n k => Sys2Proof.Machine.execSpareTakeoverSwitch n k s
  | .spareReleaseSwitch n k => Sys2Proof.Machine.execSpareReleaseSwitch n k s
  | .captureArm n cfg => Sys2Proof.Machine.execCaptureArm n cfg s
  | .captureFire n => Sys2Proof.Machine.execCaptureFire n s
  | .captureComplete n => Sys2Proof.Machine.execCaptureComplete n s
  | .rxdEnWrite n v => Sys2Proof.Machine.execRxdEnWrite n v s
  | .rxdAcqRestart n => Sys2Proof.Machine.execRxdAcqRestart n s
  | .rxdLoModeWrite n v => Sys2Proof.Machine.execRxdLoModeWrite n v s
  | .rxdKsAssistWrite n v => Sys2Proof.Machine.execRxdKsAssistWrite n v s
  | .rxdFmtSrcWrite n v => Sys2Proof.Machine.execRxdFmtSrcWrite n v s
  | .losWindowEnd n power => Sys2Proof.Machine.execLosWindowEnd n power s
  | .spectralEstimate n fo => Sys2Proof.Machine.execSpectralEstimate n fo s
  | .fineEstimate n fo => Sys2Proof.Machine.execFineEstimate n fo s
  | .ksWaitExpiry n => Sys2Proof.Machine.execKsWaitExpiry n s
  | .cdScanStep n metric above => Sys2Proof.Machine.execCdScanStep n metric above s
  | .cdRefineDone n cd => Sys2Proof.Machine.execCdRefineDone n cd s
  | .timingLock n => Sys2Proof.Machine.execTimingLock n s
  | .polConverged n => Sys2Proof.Machine.execPolConverged n s
  | .acqStateTimeout n => Sys2Proof.Machine.execAcqStateTimeout n s
  | .warmReacqTimeout n => Sys2Proof.Machine.execWarmReacqTimeout n s
  | .eqDiverge n => Sys2Proof.Machine.execEqDiverge n s
  | .cdReestimate n cd => Sys2Proof.Machine.execCdReestimate n cd s
  | .loUpdateTick n => Sys2Proof.Machine.execLoUpdateTick n s
  | .loHostWrite n v => Sys2Proof.Machine.execLoHostWrite n v s
  | .trimUpdate n want => Sys2Proof.Machine.execTrimUpdate n want s
  | .rxdMetricsUpdate n m => Sys2Proof.Machine.execRxdMetricsUpdate n m s
  | .nlcReady n => Sys2Proof.Machine.execNlcReady n s
  | .txdEnWrite n v => Sys2Proof.Machine.execTxdEnWrite n v s
  | .txdModeWrite n v => Sys2Proof.Machine.execTxdModeWrite n v s
  | .txLfStart n phase => Sys2Proof.Machine.execTxLfStart n phase s
  | .ksGroupMissed n => Sys2Proof.Machine.execKsGroupMissed n s
  | .innerCodewordDone n soft zr => Sys2Proof.Machine.execInnerCodewordDone n soft zr s
  | .outerBlockEnter n changed => Sys2Proof.Machine.execOuterBlockEnter n changed s
  | .outerBlockExit n bad => Sys2Proof.Machine.execOuterBlockExit n bad s
  | .lfDelivered n lf => Sys2Proof.Machine.execLfDelivered n lf s
  | .lfrMarkerMatch n pos hyp diff => Sys2Proof.Machine.execLfrMarkerMatch n pos hyp diff s
  | .lfrExpectedPosition n cand hyp diff phase => Sys2Proof.Machine.execLfrExpectedPosition n cand hyp diff phase s
  | .lfrExclusionExpiry n pos => Sys2Proof.Machine.execLfrExclusionExpiry n pos s
  | .sdWindowEnd n => Sys2Proof.Machine.execSdWindowEnd n s
  | .downstreamAisChange n => Sys2Proof.Machine.execDownstreamAisChange n s
  | .pmonSecondEval => Sys2Proof.Machine.execPmonSecondEval s
  | .binFinal day => Sys2Proof.Machine.execBinFinal day s
  | .pmonClrCur n => Sys2Proof.Machine.execPmonClrCur n s
  | .pmonMetricSample n => Sys2Proof.Machine.execPmonMetricSample n s
  | .closDeclare p => Sys2Proof.Machine.execClosDeclare p s
  | .closClear p => Sys2Proof.Machine.execClosClear p s
  | .cloaDeclare p => Sys2Proof.Machine.execCloaDeclare p s
  | .cloaClear p => Sys2Proof.Machine.execCloaClear p s
  | .clientFrameIngress src rx => Sys2Proof.Machine.execClientFrameIngress src rx s
  | .egressHeader f => Sys2Proof.Machine.execEgressHeader f s
  | .flexeCalendarSwitch k => Sys2Proof.Machine.execFlexeCalendarSwitch k s
  | .cliFaultAction p => Sys2Proof.Machine.execCliFaultAction p s
  | .esHealthFail => Sys2Proof.Machine.execEsHealthFail s
  | .drbgReseed k => Sys2Proof.Machine.execDrbgReseed k s
  | .rngFailTimeout => Sys2Proof.Machine.execRngFailTimeout s
  | .keyLoadClear by_ slot key => Sys2Proof.Machine.execKeyLoadClear by_ slot key s
  | .keyZeroise by_ slot => Sys2Proof.Machine.execKeyZeroise by_ slot s
  | .zeroAll by_ => Sys2Proof.Machine.execZeroAll by_ s
  | .zeroAllClearDone => Sys2Proof.Machine.execZeroAllClearDone s
  | .ctxIvLoad by_ c iv => Sys2Proof.Machine.execCtxIvLoad by_ c iv s
  | .prevKeyRelease c => Sys2Proof.Machine.execPrevKeyRelease c s
  | .jobEnc by_ j d => Sys2Proof.Machine.execJobEnc by_ j d s
  | .jobDec by_ j d => Sys2Proof.Machine.execJobDec by_ j d s
  | .jobWrapKey by_ j d => Sys2Proof.Machine.execJobWrapKey by_ j d s
  | .jobUnwrapKey by_ j d => Sys2Proof.Machine.execJobUnwrapKey by_ j d s
  | .jobWrapCtx by_ j d => Sys2Proof.Machine.execJobWrapCtx by_ j d s
  | .jobUnwrapCtx by_ j d => Sys2Proof.Machine.execJobUnwrapCtx by_ j d s
  | .jobSaveClear by_ j d => Sys2Proof.Machine.execJobSaveClear by_ j d s
  | .jobRestoreClear by_ j d => Sys2Proof.Machine.execJobRestoreClear by_ j d s
  | .jobStart => Sys2Proof.Machine.execJobStart s
  | .jobResume => Sys2Proof.Machine.execJobResume s
  | .jobSegmentEnd j => Sys2Proof.Machine.execJobSegmentEnd j s
  | .pluEnWrite v => Sys2Proof.Machine.execPluEnWrite v s
  | .pluForceHoldWrite v => Sys2Proof.Machine.execPluForceHoldWrite v s
  | .pluClrHist => Sys2Proof.Machine.execPluClrHist s
  | .refValidChange r => Sys2Proof.Machine.execRefValidChange r s
  | .refActivityLoss r => Sys2Proof.Machine.execRefActivityLoss r s
  | .refFreqWindow r freq => Sys2Proof.Machine.execRefFreqWindow r freq s
  | .refQualified r => Sys2Proof.Machine.execRefQualified r s
  | .freqDisagreeClear r => Sys2Proof.Machine.execFreqDisagreeClear r s
  | .pluPullEnd err => Sys2Proof.Machine.execPluPullEnd err s
  | .pluLockAchieved err => Sys2Proof.Machine.execPluLockAchieved err s
  | .pluLockLoss err => Sys2Proof.Machine.execPluLockLoss err s
  | .pluAcqLimit => Sys2Proof.Machine.execPluAcqLimit s
  | .acqHoldExpiry r => Sys2Proof.Machine.execAcqHoldExpiry r s
  | .wtrExpiry e => Sys2Proof.Machine.execWtrExpiry e s
  | .holdoverLimit => Sys2Proof.Machine.execHoldoverLimit s
  | .oscinFail => Sys2Proof.Machine.execOscinFail s
  | .oscinRestored => Sys2Proof.Machine.execOscinRestored s
  | .pluHistorySecond freq => Sys2Proof.Machine.execPluHistorySecond freq s
  | .pluPhaseStepWrite v => Sys2Proof.Machine.execPluPhaseStepWrite v s
  | .pluStepDone => Sys2Proof.Machine.execPluStepDone s
  | .clkoutFreqWrite k v => Sys2Proof.Machine.execClkoutFreqWrite k v s
  | .servoUpdate x => Sys2Proof.Machine.execServoUpdate x s
  | .servoSampleTimeout x => Sys2Proof.Machine.execServoSampleTimeout x s
  | .servoSrcWrite x v => Sys2Proof.Machine.execServoSrcWrite x v s
  | .ptpMessageRx p m => Sys2Proof.Machine.execPtpMessageRx p m s
  | .ptpMessageTx p kind => Sys2Proof.Machine.execPtpMessageTx p kind s
  | .ppsEdge k ps => Sys2Proof.Machine.execPpsEdge k ps s
  | .hostOfsWrite by_ x v => Sys2Proof.Machine.execHostOfsWrite by_ x v s
  | .tbSet by_ x t => Sys2Proof.Machine.execTbSet by_ x t s
  | .tbStep by_ x d => Sys2Proof.Machine.execTbStep by_ x d s
  | .utcChange => Sys2Proof.Machine.execUtcChange s
  | .timeOscinWaitEnd => Sys2Proof.Machine.execTimeOscinWaitEnd s
  | .timeFallbackStart n => Sys2Proof.Machine.execTimeFallbackStart n s
  | .launchArm d v => Sys2Proof.Machine.execLaunchArm d v s
  | .launchSend d err => Sys2Proof.Machine.execLaunchSend d err s
  | .ptpEnWrite v => Sys2Proof.Machine.execPtpEnWrite v s
  | .ppsEnWrite v => Sys2Proof.Machine.execPpsEnWrite v s
  | .ppsPulse => Sys2Proof.Machine.execPpsPulse s
  | .kscEnWrite n v => Sys2Proof.Machine.execKscEnWrite n v s
  | .beaconDue n => Sys2Proof.Machine.execBeaconDue n s
  | .rangeReqDue n => Sys2Proof.Machine.execRangeReqDue n s
  | .ksTxStart n => Sys2Proof.Machine.execKsTxStart n s
  | .ksTxEnd n => Sys2Proof.Machine.execKsTxEnd n s
  | .ksMgmtQueue n bytes => Sys2Proof.Machine.execKsMgmtQueue n bytes s
  | .ksMgmtTimeout n => Sys2Proof.Machine.execKsMgmtTimeout n s
  | .ksDetection n chan bin snr => Sys2Proof.Machine.execKsDetection n chan bin snr s
  | .ksPreambleEnd n cand found => Sys2Proof.Machine.execKsPreambleEnd n cand found s
  | .ksSyncEnd n cand shift1 shift2 fo delay => Sys2Proof.Machine.execKsSyncEnd n cand shift1 shift2 fo delay s
  | .ksHeaderDecoded n header => Sys2Proof.Machine.execKsHeaderDecoded n header s
  | .ksPayloadDecoded n bytes => Sys2Proof.Machine.execKsPayloadDecoded n bytes s
  | .ksFarTimeout n => Sys2Proof.Machine.execKsFarTimeout n s
  | .rangeTimeout n => Sys2Proof.Machine.execRangeTimeout n s
  | .crsDiffTimeout n => Sys2Proof.Machine.execCrsDiffTimeout n s
  | .cstTapEvent tap => Sys2Proof.Machine.execCstTapEvent tap s
  | .cstSecond => Sys2Proof.Machine.execCstSecond s
  | .cstLatencySample n => Sys2Proof.Machine.execCstLatencySample n s
  | .cstTb0Sample osc => Sys2Proof.Machine.execCstTb0Sample osc s
  | .tb3SampleTimeout => Sys2Proof.Machine.execTb3SampleTimeout s
  | .tb3SlewEnd => Sys2Proof.Machine.execTb3SlewEnd s
  | .cstBoundary => Sys2Proof.Machine.execCstBoundary s
  | .cstRecordStore failed => Sys2Proof.Machine.execCstRecordStore failed s
  | .cstLevelLatch => Sys2Proof.Machine.execCstLevelLatch s
  | .cstCheckpoint => Sys2Proof.Machine.execCstCheckpoint s
  | .cstRstN => Sys2Proof.Machine.execCstRstN s
  | .vddCstLoss => Sys2Proof.Machine.execVddCstLoss s
  | .cstResetRequest by_ => Sys2Proof.Machine.execCstResetRequest by_ s
  | .cstReady => Sys2Proof.Machine.execCstReady s
  | .cstPatchGo => Sys2Proof.Machine.execCstPatchGo s
  | .cstPatchVerified good level => Sys2Proof.Machine.execCstPatchVerified good level s
  | .cstSelWrite by_ seq => Sys2Proof.Machine.execCstSelWrite by_ seq s
  | .hkmTimerExpiry t => Sys2Proof.Machine.execHkmTimerExpiry t s
  | .hkmPwmEdgeTrigger k falling => Sys2Proof.Machine.execHkmPwmEdgeTrigger k falling s
  | .hkmPassStart x => Sys2Proof.Machine.execHkmPassStart x s
  | .hkmConversionResult x m => Sys2Proof.Machine.execHkmConversionResult x m s
  | .thermalTrip => Sys2Proof.Machine.execThermalTrip s
  | .hkmResultRead by_ x => Sys2Proof.Machine.execHkmResultRead by_ x s
  | .hkmPwmModeWrite k v => Sys2Proof.Machine.execHkmPwmModeWrite k v s
  | .pwmPeriodStart k => Sys2Proof.Machine.execPwmPeriodStart k s
  | .hkmIlvWrite v => Sys2Proof.Machine.execHkmIlvWrite v s
  | .hkmTrigWrite x v => Sys2Proof.Machine.execHkmTrigWrite x v s
  | .calStart by_ v => Sys2Proof.Machine.execCalStart by_ v s
  | .calAbort by_ => Sys2Proof.Machine.execCalAbort by_ s
  | .calCheckDone temps => Sys2Proof.Machine.execCalCheckDone temps s
  | .calSliceStepEnd ash dac temps => Sys2Proof.Machine.execCalSliceStepEnd ash dac temps s
  | .calMeasureDone temps values refs => Sys2Proof.Machine.execCalMeasureDone temps values refs s
  | .calQualityDone spur skew eye => Sys2Proof.Machine.execCalQualityDone spur skew eye s
  | .calStoreDone failed => Sys2Proof.Machine.execCalStoreDone failed s
  | .calInterpTick temps => Sys2Proof.Machine.execCalInterpTick temps s
  | .memFillDone => Sys2Proof.Machine.execMemFillDone s
  | .memArrayRead a inst addr wrote flips reader => Sys2Proof.Machine.execMemArrayRead a inst addr wrote flips reader s
  | .memPartialWrite by_ a inst addr ofs bytes flips => Sys2Proof.Machine.execMemPartialWrite by_ a inst addr ofs bytes flips s
  | .memScrubStep a inst wrote flips overwritten => Sys2Proof.Machine.execMemScrubStep a inst wrote flips overwritten s
  | .copRead m full => Sys2Proof.Machine.execCopRead m full s
  | .copWrite m full => Sys2Proof.Machine.execCopWrite m full s
  | .copBlockRead m full => Sys2Proof.Machine.execCopBlockRead m full s
  | .copBlockWrite m full => Sys2Proof.Machine.execCopBlockWrite m full s
  | .copLevelRead m full => Sys2Proof.Machine.execCopLevelRead m full s
  | .copOpInvalid m full => Sys2Proof.Machine.execCopOpInvalid m full s
  | .sessionOpen m full => Sys2Proof.Machine.execSessionOpen m full s
  | .sessionClose m full => Sys2Proof.Machine.execSessionClose m full s
  | .sessionTimeout k => Sys2Proof.Machine.execSessionTimeout k s
  | .blockExpire k => Sys2Proof.Machine.execBlockExpire k s
  | .copRelay m => Sys2Proof.Machine.execCopRelay m s
  | .timePoll m d => Sys2Proof.Machine.execTimePoll m d s
  | .timePollAnswer node body => Sys2Proof.Machine.execTimePollAnswer node body s
  | .pollRoundStart => Sys2Proof.Machine.execPollRoundStart s
  | .pollSend => Sys2Proof.Machine.execPollSend s
  | .pollTimeout node => Sys2Proof.Machine.execPollTimeout node s
  | .announceDue => Sys2Proof.Machine.execAnnounceDue s
  | .announceReceive node path lane addr => Sys2Proof.Machine.execAnnounceReceive node path lane addr s
  | .notify m full => Sys2Proof.Machine.execNotify m full s
  | .streamSampleSend k path lane => Sys2Proof.Machine.execStreamSampleSend k path lane s
  | .domainLevelSchedule results => Sys2Proof.Machine.execDomainLevelSchedule results s
  | .courseAllocate k t => Sys2Proof.Machine.execCourseAllocate k t s
  | .domainAbort k number => Sys2Proof.Machine.execDomainAbort k number s
  | .registerWrite addr size contiguous v => Sys2Proof.Machine.execRegisterWrite addr size contiguous v s
  | .wideLoRead addr size => Sys2Proof.Machine.execWideLoRead addr size s
  | .pcieUnsupportedRequest => Sys2Proof.Machine.execPcieUnsupportedRequest s
  | .pcieFlr => Sys2Proof.Machine.execPcieFlr s
  | .cfgParityScan addr flips => Sys2Proof.Machine.execCfgParityScan addr flips s
  | .coldReset => Sys2Proof.Machine.execColdReset s
  | .coldResetRelease cool => Sys2Proof.Machine.execColdResetRelease cool s
  | .bootStage1Verified => Sys2Proof.Machine.execBootStage1Verified s
  | .bootEnginesLoaded => Sys2Proof.Machine.execBootEnginesLoaded s
  | .setupRecordApplied => Sys2Proof.Machine.execSetupRecordApplied s
  | .calSetsLoaded => Sys2Proof.Machine.execCalSetsLoaded s
  | .secLockSet => Sys2Proof.Machine.execSecLockSet s
  | .mgtReady => Sys2Proof.Machine.execMgtReady s
  | .supplyUndervoltage => Sys2Proof.Machine.execSupplyUndervoltage s
  | .supplyRestored => Sys2Proof.Machine.execSupplyRestored s
  | .secLockWrite by_ => Sys2Proof.Machine.execSecLockWrite by_ s
  | .windowTimeout => Sys2Proof.Machine.execWindowTimeout s
  | .customerHashFuse => Sys2Proof.Machine.execCustomerHashFuse s
  | .attRequest by_ nonce => Sys2Proof.Machine.execAttRequest by_ nonce s
  | .attQuoteReady => Sys2Proof.Machine.execAttQuoteReady s
  | .funcResetAssert by_ k => Sys2Proof.Machine.execFuncResetAssert by_ k s
  | .funcResetRelease by_ k => Sys2Proof.Machine.execFuncResetRelease by_ k s
  | .funcResetExit k => Sys2Proof.Machine.execFuncResetExit k s
  | .lodgeCoreReset by_ k => Sys2Proof.Machine.execLodgeCoreReset by_ k s
  | .lodgeCoreRestart k good => Sys2Proof.Machine.execLodgeCoreRestart k good s
  | .warmResetRequest by_ => Sys2Proof.Machine.execWarmResetRequest by_ s
  | .warmResetStart => Sys2Proof.Machine.execWarmResetStart s
  | .ciphUnblock by_ => Sys2Proof.Machine.execCiphUnblock by_ s
  | .imgBegin by_ kind len => Sys2Proof.Machine.execImgBegin by_ kind len s
  | .imgAppend by_ kind len => Sys2Proof.Machine.execImgAppend by_ kind len s
  | .imgCommit by_ kind len => Sys2Proof.Machine.execImgCommit by_ kind len s
  | .imgCommitDone failed => Sys2Proof.Machine.execImgCommitDone failed s
  | .imgCancel by_ kind len => Sys2Proof.Machine.execImgCancel by_ kind len s
  | .imgRunRecovery by_ kind len => Sys2Proof.Machine.execImgRunRecovery by_ kind len s
  | .refActivityReturn r => Sys2Proof.Machine.execRefActivityReturn r s
  | .oscinReturn => Sys2Proof.Machine.execOscinReturn s
  | .remoteFaultChange p v => Sys2Proof.Machine.execRemoteFaultChange p v s
  | .flexeLockChange k locked gid map => Sys2Proof.Machine.execFlexeLockChange k locked gid map s
  | .mgtLinkChange k v => Sys2Proof.Machine.execMgtLinkChange k v s
  | .vddNvThreshold above => Sys2Proof.Machine.execVddNvThreshold above s
  | .pcieReadAbort addr size contiguous => Sys2Proof.Machine.execPcieReadAbort addr size contiguous s

end Sys2Proof.Machine
end

