-- ==== Sys2Proof/Safety.lean ====
section
/-!
DEFINITION. The terms in which claims about the device are made: which writes the access gate takes, what a safe state is,
and what no command may undo.
-/

namespace Sys2Proof.Machine

/-- The access gate takes a write of a register by a source: out of cold reset, PCIe's write meets no refusal of R433 to
R435, R443 and R451, and COP is served (R443). -/
def State.takes (s : State) (by_ : Source) (a : Nat) : Bool :=
  !s.cold && match by_ with
    | .pcie => (s.writeGate a false).isNone
    | .cop _ => s.is fGLB_STATUS_MGT_READY

/-- A safe state: the register store is in its canonical form. -/
def State.safeForm (s : State) : Bool := storeWf s.regs

/-- The answer is a next state that meets a condition: the command completes. -/
def Completes (o : Host.Outcome State Fault Refusal) (p : State → Prop) : Prop := ∃ t, o = .next t ∧ p t

/-- Every register but those named holds what it held. -/
def State.RegsBut (s t : State) (as : List Nat) : Prop := ∀ a, a ∉ as → t.reg a = s.reg a

/-- The parts of the state, for the frames of commands. -/
inductive Part where
  /-- every register -/
  | regs
  /-- the shadow latches of wide values (R431) -/
  | shadow
  /-- the PLU cycle count and the time bases TB0 to TB2 -/
  | clock
  /-- the counter of free values -/
  | free
  /-- what the device has sent, and the MSI-X vectors pending -/
  | out
  /-- CONV of the lanes beyond its registers -/
  | conv
  /-- RXD of the lanes -/
  | rxd
  /-- TXD and the transmit sides of FEC and LFR of the lanes -/
  | tx
  /-- the receive FEC of the lanes -/
  | fec
  /-- the receive LFR of the lanes -/
  | lfr
  /-- PMON of the lanes -/
  | pmon
  /-- KSC of the lanes -/
  | ksc
  /-- the sampling references of the dies -/
  | sampRef
  /-- the Level sequencer but for the counts it holds -/
  | level
  /-- the counts held during a Level freeze -/
  | heldCounts
  /-- the Courses -/
  | course
  /-- CLI -/
  | client
  /-- cold reset -/
  | cold
  /-- the boot hold -/
  | bootHold
  /-- HKM -/
  | hkm
  /-- CAL -/
  | cal
  /-- MEM -/
  | mem
  /-- Cornerstone but for TB3 -/
  | cst
  /-- TB3 -/
  | tb3
  /-- PLU -/
  | plu
  /-- TIME beyond its registers and time bases -/
  | servo
  /-- the objects that no register holds -/
  | objs
  /-- CIPH -/
  | ciph
  /-- COP and the hierarchy -/
  | cop
  /-- SEC, the images and the fuses -/
  | sec
deriving DecidableEq, Repr

/-- A part of two states is the same. -/
def State.same (s t : State) : Part → Prop
  | .regs => t.regs = s.regs
  | .shadow => t.shadow = s.shadow
  | .clock => t.clk = s.clk ∧ t.tb = s.tb
  | .free => t.free = s.free
  | .out => t.sent = s.sent ∧ t.msixPending = s.msixPending
  | .conv => ∀ n, (t.lane n).conv = (s.lane n).conv
  | .rxd => ∀ n, (t.lane n).rxd = (s.lane n).rxd
  | .tx => ∀ n, (t.lane n).tx = (s.lane n).tx
  | .fec => ∀ n, (t.lane n).fec = (s.lane n).fec
  | .lfr => ∀ n, (t.lane n).lfr = (s.lane n).lfr
  | .pmon => ∀ n, (t.lane n).pmon = (s.lane n).pmon
  | .ksc => ∀ n, (t.lane n).ksc = (s.lane n).ksc
  | .sampRef => t.sampRef = s.sampRef
  | .level => { t.lvl with heldCounts := [] } = { s.lvl with heldCounts := [] }
  | .heldCounts => t.lvl.heldCounts = s.lvl.heldCounts
  | .course => t.crs = s.crs
  | .client => t.cli = s.cli
  | .cold => t.cold = s.cold
  | .bootHold => t.bootHold = s.bootHold
  | .hkm => t.hkm = s.hkm
  | .cal => t.cal = s.cal
  | .mem => t.mem = s.mem
  | .cst => { t.cst with tb3 := {} } = { s.cst with tb3 := {} }
  | .tb3 => t.cst.tb3 = s.cst.tb3
  | .plu => t.plu = s.plu
  | .servo => t.time = s.time
  | .objs => t.objs = s.objs
  | .ciph => t.ciph = s.ciph
  | .cop => t.cop = s.cop
  | .sec => t.sec = s.sec

/-- What each command may change: every other part of the state it leaves as it is. -/
def mayChange : Instr → List Part
  | .levelPeriodic | .levelQ15 | .levelD24 | .levelScheduled _ | .levelHost _ =>
    [.regs, .clock, .out, .conv, .rxd, .pmon, .level, .heldCounts, .hkm, .cst, .tb3, .plu]
  | .levelFreezeEnd _ => [.regs, .clock, .level, .heldCounts, .tb3]
  | .levelCopyStart => [.level, .heldCounts]
  | .levelCopyComplete => [.regs, .out, .level, .objs, .cop]
  | .levelScheduleWrite _ _ _ | .levelHold _ | .levelRelease _ => [.regs, .out, .level]
  | .levelDataRead _ _ | .wideLoRead _ _ | .pcieReadAbort _ _ _ =>
    [.regs, .shadow, .clock, .out, .heldCounts, .mem, .plu]
  | .levelMixClear | .convDacMuteWrite _ _ | .trimUpdate _ _ | .esHealthFail | .clkoutFreqWrite _ _
   | .ppsEnWrite _ | .hkmTrigWrite _ _ | .lodgeCoreReset _ _ | .lodgeCoreRestart _ _ | .remoteFaultChange _ _
   | .flexeLockChange _ _ _ _ => [.regs, .out]
  | .courseStage _ _ | .courseCommit _ _ _ _ | .courseDiscard _ => [.regs, .out, .course]
  | .courseValidationEnd => [.regs, .out, .ksc, .heldCounts, .course, .client]
  | .courseAbort _ | .domainAbort _ _ => [.regs, .out, .ksc, .heldCounts, .course]
  | .courseAbortWindowClose => [.clock, .course, .tb3]
  | .courseStrobe =>
    [.regs, .clock, .free, .out, .rxd, .tx, .ksc, .heldCounts, .course, .client, .hkm, .mem, .tb3, .plu, .ciph]
  | .courseRxTimeout _ =>
    [.regs, .clock, .out, .rxd, .tx, .fec, .lfr, .pmon, .ksc, .heldCounts, .course, .client, .mem, .cst, .tb3,
      .servo, .ciph]
  | .courseFarMismatch _ => [.regs, .clock, .out, .course, .tb3]
  | .courseClientApply _ => [.regs, .out, .heldCounts, .course, .client, .mem, .cst, .tb3, .objs, .ciph]
  | .convAdcEnWrite _ _ | .convDacEnWrite _ _ | .convSettled _ _ _ | .convUnlock _ _ | .spareRetireWrite _ _ _
   | .captureArm _ _ | .captureFire _ => [.regs, .out, .conv]
  | .samplingRefLoss _ | .samplingRefReturn _ => [.regs, .out, .conv, .sampRef]
  | .adcGroup _ _ _ => [.regs, .out, .conv, .rxd, .tx, .fec, .lfr, .pmon, .heldCounts, .cst, .tb3, .servo]
  | .dacGroup _ _ _ => [.regs, .out, .conv, .tx, .heldCounts]
  | .spareTakeoverSwitch _ _ => [.regs, .conv]
  | .spareReleaseSwitch _ _ | .calStart _ _ | .calAbort _ | .calSliceStepEnd _ _ _ | .calMeasureDone _ _ _
   | .calQualityDone _ _ _ => [.regs, .out, .conv, .heldCounts, .hkm, .cal]
  | .captureComplete _ => [.regs, .out, .conv, .mem]
  | .rxdEnWrite _ _ | .rxdAcqRestart _ | .rxdFmtSrcWrite _ _ | .losWindowEnd _ _ =>
    [.regs, .out, .rxd, .tx, .fec, .lfr, .pmon, .ksc, .heldCounts, .cst, .tb3, .servo]
  | .rxdLoModeWrite _ _ | .rxdKsAssistWrite _ _ | .loHostWrite _ _ | .memFillDone => [.regs, .out, .rxd]
  | .spectralEstimate _ _ | .ksWaitExpiry _ | .loUpdateTick _ => [.regs, .clock, .out, .rxd, .tb3]
  | .fineEstimate _ _ => [.regs, .clock, .rxd, .tb3]
  | .cdScanStep _ _ _ | .acqStateTimeout _ | .warmReacqTimeout _ | .ksHeaderDecoded _ _ | .ksPayloadDecoded _ _ =>
    [.regs, .clock, .out, .rxd, .tx, .fec, .lfr, .pmon, .ksc, .heldCounts, .cst, .tb3, .servo]
  | .cdRefineDone _ _ | .cdReestimate _ _ => [.regs, .clock, .rxd, .tb3, .servo]
  | .timingLock _ | .polConverged _ | .eqDiverge _ => [.regs, .rxd]
  | .rxdMetricsUpdate _ _ => [.regs, .rxd, .servo]
  | .nlcReady _ => [.rxd]
  | .txdEnWrite _ _ | .txdModeWrite _ _ => [.regs, .out, .tx, .ksc, .heldCounts]
  | .txLfStart _ _ =>
    [.regs, .clock, .free, .out, .rxd, .tx, .ksc, .heldCounts, .course, .client, .mem, .tb3, .servo, .ciph]
  | .ksGroupMissed _ => [.regs, .out, .tx]
  | .innerCodewordDone _ _ _ => [.regs, .out, .rxd, .fec, .heldCounts]
  | .outerBlockEnter _ _ | .outerBlockExit _ _ => [.regs, .out, .fec, .heldCounts]
  | .lfDelivered _ _ =>
    [.regs, .clock, .free, .out, .rxd, .tx, .fec, .lfr, .pmon, .ksc, .heldCounts, .course, .client, .mem, .cst, .tb3,
      .servo, .ciph]
  | .lfrMarkerMatch _ _ _ _ | .lfrExpectedPosition _ _ _ _ _ =>
    [.regs, .out, .rxd, .tx, .fec, .lfr, .pmon, .heldCounts, .cst, .tb3, .servo]
  | .lfrExclusionExpiry _ _ => [.clock, .lfr, .tb3]
  | .sdWindowEnd _ => [.regs, .out, .lfr]
  | .downstreamAisChange _ => [.regs]
  | .pmonSecondEval | .pmonMetricSample _ => [.regs, .clock, .out, .pmon, .tb3]
  | .binFinal _ => [.clock, .pmon, .tb3]
  | .pmonClrCur _ => [.regs, .out, .pmon]
  | .closDeclare _ | .cloaDeclare _ | .ptpEnWrite _ => [.regs, .out, .objs]
  | .closClear _ | .cloaClear _ => [.regs, .objs]
  | .clientFrameIngress _ _ => [.regs, .out, .tx, .heldCounts, .client]
  | .egressHeader _ => [.regs, .out, .heldCounts, .client, .cst, .tb3]
  | .flexeCalendarSwitch _ => [.regs, .client]
  | .cliFaultAction _ => [.regs, .out, .client]
  | .drbgReseed _ => [.regs, .ciph]
  | .rngFailTimeout => [.regs, .clock, .out, .tb3, .ciph]
  | .keyLoadClear _ _ _ | .zeroAllClearDone | .ctxIvLoad _ _ _ | .ciphUnblock _ => [.regs, .out, .ciph]
  | .keyZeroise _ _ | .zeroAll _ | .jobEnc _ _ _ | .jobDec _ _ _ | .jobWrapKey _ _ _ | .jobUnwrapKey _ _ _
   | .jobWrapCtx _ _ _ | .jobUnwrapCtx _ _ _ | .jobSaveClear _ _ _ | .jobRestoreClear _ _ _
   | .memArrayRead _ _ _ _ _ _ => [.regs, .out, .heldCounts, .mem, .ciph]
  | .prevKeyRelease _ => [.clock, .tb3, .ciph]
  | .jobStart | .jobResume | .jobSegmentEnd _ => [.regs, .clock, .out, .heldCounts, .mem, .tb3, .ciph]
  | .pluEnWrite _ | .pluForceHoldWrite _ | .refValidChange _ | .refActivityLoss _ | .refActivityReturn _ =>
    [.regs, .out, .heldCounts, .plu]
  | .pluClrHist | .pluLockLoss _ | .pluPhaseStepWrite _ => [.regs, .out, .plu]
  | .refFreqWindow _ _ | .refQualified _ | .freqDisagreeClear _ | .pluAcqLimit | .acqHoldExpiry _ | .wtrExpiry _
   | .oscinRestored => [.regs, .clock, .out, .heldCounts, .tb3, .plu]
  | .pluPullEnd _ | .holdoverLimit | .pluStepDone => [.regs, .clock, .out, .tb3, .plu]
  | .pluLockAchieved _ | .pluHistorySecond _ => [.regs, .clock, .tb3, .plu]
  | .oscinFail => [.regs, .clock, .out, .plu]
  | .servoUpdate _ | .tbSet _ _ _ | .tbStep _ _ _ =>
    [.regs, .clock, .free, .out, .conv, .rxd, .tx, .lfr, .pmon, .ksc, .level, .heldCounts, .course, .client, .hkm,
      .mem, .cst, .tb3, .plu, .servo, .ciph, .cop]
  | .servoSampleTimeout _ | .timeOscinWaitEnd | .timeFallbackStart _ | .ksFarTimeout _ | .crsDiffTimeout _ =>
    [.regs, .clock, .out, .tb3]
  | .servoSrcWrite _ _ | .ppsEdge _ _ | .hostOfsWrite _ _ _ => [.regs, .clock, .out]
  | .ptpMessageRx _ _ =>
    [.regs, .clock, .out, .conv, .rxd, .pmon, .level, .heldCounts, .hkm, .cst, .plu, .servo, .objs]
  | .ptpMessageTx _ _ => [.clock, .out, .tb3, .servo, .objs]
  | .utcChange => [.regs, .clock, .out, .conv, .rxd, .pmon, .level, .heldCounts, .hkm, .cst, .tb3, .plu, .servo]
  | .launchArm _ _ => [.regs, .out, .servo]
  | .launchSend _ _ => [.regs, .clock, .out, .heldCounts, .mem, .cst, .tb3, .servo]
  | .ppsPulse => [.clock, .out, .tb3, .servo]
  | .kscEnWrite _ _ => [.regs, .out, .rxd, .ksc, .heldCounts]
  | .beaconDue _ | .rangeReqDue _ | .ksTxEnd _ | .ksMgmtTimeout _ | .rangeTimeout _ =>
    [.regs, .clock, .out, .ksc, .heldCounts, .tb3]
  | .ksTxStart _ => [.regs, .clock, .out, .ksc, .tb3]
  | .ksMgmtQueue _ _ | .ksSyncEnd _ _ _ _ _ _ => [.regs, .out, .ksc, .heldCounts]
  | .ksDetection _ _ _ _ => [.regs, .ksc, .heldCounts]
  | .ksPreambleEnd _ _ _ => [.regs, .ksc]
  | .cstTapEvent _ | .cstLatencySample _ | .cstLevelLatch | .cstPatchVerified _ _ => [.cst, .tb3]
  | .cstSecond | .cstBoundary | .cstRecordStore _ | .cstCheckpoint => [.clock, .cst, .tb3]
  | .cstTb0Sample _ | .tb3SampleTimeout | .tb3SlewEnd => [.regs, .clock, .cst, .tb3]
  | .cstRstN | .vddCstLoss | .cstResetRequest _ => [.regs, .shadow, .out, .heldCounts, .cst, .tb3, .plu]
  | .cstReady => [.regs, .cst, .tb3]
  | .cstPatchGo => [.regs, .out, .cst, .tb3]
  | .cstSelWrite _ _ => [.regs, .out, .cst, .tb3, .cop]
  | .hkmTimerExpiry _ | .hkmPwmEdgeTrigger _ _ => [.regs, .clock, .out, .heldCounts, .hkm, .tb3]
  | .hkmPassStart _ | .pwmPeriodStart _ => [.clock, .hkm, .tb3]
  | .hkmConversionResult _ _ => [.regs, .clock, .free, .out, .heldCounts, .hkm, .tb3, .sec]
  | .thermalTrip | .coldReset | .supplyUndervoltage =>
    [.regs, .shadow, .clock, .free, .out, .conv, .rxd, .tx, .fec, .lfr, .pmon, .ksc, .sampRef, .level, .heldCounts,
      .course, .client, .cold, .bootHold, .hkm, .cal, .mem, .cst, .tb3, .plu, .servo, .objs, .ciph, .cop, .sec]
  | .hkmResultRead _ _ => [.regs, .shadow, .clock, .free, .out, .heldCounts, .mem, .plu]
  | .hkmPwmModeWrite _ _ | .hkmIlvWrite _ => [.regs, .out, .hkm]
  | .calCheckDone _ => [.regs, .clock, .out, .conv, .heldCounts, .hkm, .cal, .tb3]
  | .calStoreDone _ => [.regs, .out, .heldCounts, .cal]
  | .calInterpTick _ => [.regs, .clock, .out, .conv, .cal, .tb3]
  | .memPartialWrite _ _ _ _ _ _ _ => [.regs, .out, .heldCounts, .mem]
  | .memScrubStep _ _ _ _ _ => [.regs, .clock, .out, .heldCounts, .mem, .tb3]
  | .copRead _ _ | .copBlockRead _ _ | .copLevelRead _ _ | .streamSampleSend _ _ _ =>
    [.regs, .clock, .free, .out, .tx, .ksc, .heldCounts, .mem, .plu, .objs, .cop]
  | .copWrite _ _ | .copBlockWrite _ _ | .registerWrite _ _ _ _ =>
    [.regs, .shadow, .clock, .free, .out, .conv, .rxd, .tx, .fec, .lfr, .pmon, .ksc, .level, .heldCounts, .course,
      .client, .hkm, .cal, .mem, .cst, .tb3, .plu, .servo, .objs, .ciph, .cop, .sec]
  | .copOpInvalid _ _ | .sessionOpen _ _ | .copRelay _ | .notify _ _ =>
    [.regs, .free, .out, .tx, .ksc, .heldCounts, .objs, .cop]
  | .sessionClose _ _ => [.regs, .free, .out, .tx, .ksc, .level, .heldCounts, .course, .servo, .objs, .ciph, .cop]
  | .sessionTimeout _ => [.clock, .level, .course, .tb3, .servo, .ciph, .cop]
  | .blockExpire _ => [.clock, .tb3, .cop]
  | .timePoll _ _ => [.regs, .clock, .free, .out, .tx, .ksc, .heldCounts, .tb3, .objs, .cop]
  | .timePollAnswer _ _ | .courseAllocate _ _ => [.out, .cop]
  | .pollRoundStart => [.clock, .tb3, .objs, .cop]
  | .pollSend | .pollTimeout _ | .announceDue => [.clock, .out, .tb3, .cop]
  | .announceReceive _ _ _ _ => [.cop]
  | .domainLevelSchedule _ => [.out, .level, .objs, .cop]
  | .pcieUnsupportedRequest => [.out]
  | .pcieFlr => [.regs, .shadow, .out, .level, .course]
  | .cfgParityScan _ _ =>
    [.regs, .clock, .out, .conv, .ksc, .heldCounts, .course, .client, .hkm, .cal, .mem, .ciph, .sec]
  | .coldResetRelease _ | .supplyRestored => [.regs, .out, .cold, .bootHold, .plu, .sec]
  | .bootStage1Verified | .secLockSet => [.regs, .sec]
  | .bootEnginesLoaded | .secLockWrite _ | .customerHashFuse | .attRequest _ _ | .warmResetRequest _
   | .imgBegin _ _ _ | .imgAppend _ _ _ | .imgCommit _ _ _ | .imgCommitDone _ | .imgCancel _ _ _
   | .imgRunRecovery _ _ _ => [.regs, .out, .sec]
  | .setupRecordApplied => [.regs, .out, .objs, .sec]
  | .calSetsLoaded => [.regs, .out, .conv, .cal, .sec]
  | .mgtReady =>
    [.regs, .shadow, .clock, .free, .out, .conv, .rxd, .tx, .fec, .lfr, .pmon, .ksc, .level, .heldCounts, .course,
      .client, .bootHold, .hkm, .cal, .mem, .cst, .tb3, .plu, .servo, .objs, .ciph, .sec]
  | .windowTimeout => [.regs, .clock, .tb3, .sec]
  | .attQuoteReady => [.regs, .free, .out, .sec]
  | .funcResetAssert _ _ | .funcResetRelease _ _ =>
    [.regs, .shadow, .clock, .out, .conv, .rxd, .tx, .fec, .lfr, .pmon, .ksc, .level, .heldCounts, .client, .hkm,
      .cal, .mem, .cst, .tb3, .plu, .objs, .ciph]
  | .funcResetExit _ =>
    [.regs, .shadow, .free, .out, .conv, .rxd, .tx, .fec, .lfr, .pmon, .ksc, .heldCounts, .course, .client, .hkm,
      .cal, .cst, .tb3, .plu, .servo, .objs, .ciph, .sec]
  | .warmResetStart =>
    [.regs, .shadow, .clock, .out, .conv, .rxd, .tx, .fec, .lfr, .pmon, .ksc, .level, .heldCounts, .course, .client,
      .hkm, .cal, .mem, .cst, .tb3, .plu, .objs, .ciph, .sec]
  | .oscinReturn => [.regs, .plu]
  | .mgtLinkChange _ _ => [.objs, .sec]
  | .vddNvThreshold _ => [.sec]

end Sys2Proof.Machine
end

