-- ==== Sys2Proof/Certificates/Slice0/Obligations.lean ====
section
/-!
DEFINITION. The statements for the provers: what the commands do, family by family, and what every step keeps.
-/

open Sys2Proof Sys2Proof.Machine

/-- A step with a command at the front of the queue runs exactly that command, on the state with the rest of the queue. -/
def Obligations.StepRunsTheFrontCommand : Prop := ∀ (s : State) (c : Instr) (rest : List Instr), s.pending = c :: rest →
  step s = exec c { s with pending := rest }

/-- R10, R256, R317 (log entry 5, the model's choice): a step on an empty queue is one PLU cycle, in which TB3, and out of
cold reset TB0 to TB2, move on by their own step and nothing but the clocks changes. -/
def Obligations.IdleStepIsOneCycle : Prop := ∀ s : State, s.pending = [] → Completes (step s) fun t =>
  t.clk = s.clk + 1 ∧ t.cst.tb3 = { s.cst.tb3 with acc := s.cst.tb3.acc + s.cst.tb3.step } ∧
  (s.cold = true → t.tb = s.tb) ∧
  (s.cold = false → ∀ (x : Nat) (b : TimeBase), s.tb[x]? = some b → t.tb[x]? = some { b with acc := b.acc + b.step }) ∧
  t.pending = [] ∧ ∀ p : Part, p ≠ .clock → p ≠ .tb3 → s.same t p

/-- R10, R22, R24, R29, R35, R442 (the values are those of the register tables; where none is stated, log entry 32): the
device in cold reset holds every register at its reset value, no Level and no Course, and nothing waits. -/
def Obligations.ResetHoldsResetValues : Prop := (∀ a, State.reset.reg a = resetWord a) ∧ State.reset.safeForm = true ∧
  State.reset.cold = true ∧ State.reset.up = false ∧ State.reset.pending = [] ∧ State.reset.lvl.latest = none ∧
  State.reset.lvl.held = none ∧ State.reset.crs.pending = none ∧ State.reset.crs.armed = none ∧ State.reset.sent = [] ∧
  (∀ n : Lane, State.reset.is (fCONV_CTRL_DAC_MUTE n) = true ∧ State.reset.nat (aRXD_CD_HINT n) = 0x80000000 ∧
    State.reset.get (fCONV_SPARE_STANDIN n 0) = 0x7F ∧ State.reset.nat (aKSC_NETID n) = 1)

/-- Every command answers a next state, from every state and with every operand: none stops.  The queue is left to the
step; time and the counter of free values do not go back; the part keeps its engine (R2); the fused minimum SVN does not
fall (R447) and a fused customer key hash stays (R454). -/
def Obligations.EveryCommandAnswersANextState : Prop := ∀ (c : Instr) (s : State), Completes (exec c s) fun t =>
  t.pending = s.pending ∧ s.clk ≤ t.clk ∧ s.free ≤ t.free ∧ t.ciph.fitted = s.ciph.fitted ∧ s.sec.svn ≤ t.sec.svn ∧
  (s.sec.cust.isSome = true → t.sec.cust = s.sec.cust)

/-- The frame of every command: a part of the state that `mayChange` does not list for it holds what it held. -/
def Obligations.CommandsLeaveOtherParts : Prop := ∀ (c : Instr) (s t : State) (p : Part), exec c s = .next t →
  p ∉ mayChange c → s.same t p

/-- An invariant of every step: the register store keeps its canonical form, in which equal registers are equal data. -/
def Obligations.StepsKeepTheStoreCanonical : Prop := ∀ s t : State, s.safeForm = true → step s = .next t → t.safeForm = true

/-- An invariant of every step over the fuses and the part: a minimum SVN of at least v stays one (R447), a fused customer
key hash stays the one fused (R454), and an OL2560-AB stays an AB, an NB an NB (R2). -/
def Obligations.StepsKeepFusesAndPart : Prop := ∀ (s t : State) (v : Nat) (h : List Byte) (b : Bool), v ≤ s.sec.svn →
  s.sec.cust = some h → s.ciph.fitted = b → step s = .next t → v ≤ t.sec.svn ∧ t.sec.cust = some h ∧ t.ciph.fitted = b

/-- R16, R17, R18, R20, R23, R28, R407: on a PLU cycle of its own each cause of a Level makes a Level of the next number
and freezes every island's counters; the periodic one falls on a multiple of the period, those of the bins at a boundary
of UTC not before, and a scheduled one at its slot's time, which empties the slot. -/
def Obligations.LevelCauses : Prop := ∀ (s : State), s.cold = false → (∀ c, s.lvl.strobe = some c → c < s.clk) →
  (0 < s.get fGLB_LVL_PERIOD_MS → Completes (exec .levelPeriodic s) fun t =>
    t.lvl.number = (s.lvl.number + 1) % 2 ^ 32 ∧ t.lvl.frozen = allIslands ∧
    s.dueFrom ≤ t.lvl.lastPer ∧ s.lvl.lastPer < t.lvl.lastPer ∧
    t.lvl.lastPer % (s.get fGLB_LVL_PERIOD_MS * 1000000) = 0 ∧ t.lvl.slots = s.lvl.slots) ∧
  Completes (exec .levelQ15 s) (fun t =>
    t.lvl.number = (s.lvl.number + 1) % 2 ^ 32 ∧ t.lvl.frozen = allIslands ∧
    t.lvl.last15 = s.dueBoundary 900 s.lvl.last15 ∧ t.lvl.last24 = s.lvl.last24 ∧ t.lvl.slots = s.lvl.slots) ∧
  Completes (exec .levelD24 s) (fun t =>
    t.lvl.number = (s.lvl.number + 1) % 2 ^ 32 ∧ t.lvl.frozen = allIslands ∧
    t.lvl.last24 = s.dueBoundary 86400 s.lvl.last24 ∧ t.lvl.last15 = s.lvl.last15 ∧ t.lvl.slots = s.lvl.slots) ∧
  (∀ (slot : Fin 16) (ns : Nat), s.lvl.slots.getD slot none = some ns → Completes (exec (.levelScheduled slot) s) fun t =>
    t.lvl.number = (s.lvl.number + 1) % 2 ^ 32 ∧ t.lvl.frozen = allIslands ∧
    t.lvl.slots = setAt s.lvl.slots slot none ∧ t.lvl.last15 = s.lvl.last15 ∧ t.lvl.last24 = s.lvl.last24) ∧
  (∀ by_ : Source, s.takes by_ aGLB_LVL_CTRL = true → s.lvl.hostLevel = none → Completes (exec (.levelHost by_) s) fun t =>
    t.lvl.number = (s.lvl.number + 1) % 2 ^ 32 ∧ t.lvl.frozen = allIslands ∧
    t.lvl.hostLevel = some t.lvl.number ∧ t.lvl.slots = s.lvl.slots)

/-- R20, R24, R26, R27, R406, R438: the freeze of an island ends with its held events in its counters; the oldest waiting
Level starts its copy into a free bank, and a completed copy makes its bank the latest; the latest bank is held, and
released by its holder, and nothing else of the sequencer changes. -/
def Obligations.LevelBanks : Prop := ∀ (s : State),
  (∀ isl, s.lvl.frozen.contains isl = true → Completes (exec (.levelFreezeEnd isl) s) fun t =>
    t.lvl = { s.lvl with
      heldCounts := s.lvl.heldCounts.filter (fun x => !(x.1 == isl)), frozen := s.lvl.frozen.filter fun x => x != isl } ∧
    t.regs = ((s.lvl.heldCounts.filter fun x => x.1 == isl).foldl (fun s x => s.addNow x.2.1 x.2.2) s).regs) ∧
  (∀ x rest k, s.lvl.stage = x :: rest → s.lvl.freeBank = some k → Completes (exec .levelCopyStart s) fun t =>
    t = { s with lvl := { s.lvl with stage := rest, banks := setAt s.lvl.banks k (.copying x) } }) ∧
  (∀ k x, s.lvl.oldestCopy = some (k, x) → Completes (exec .levelCopyComplete s) fun t =>
    t.lvl = { s.lvl with banks := setAt s.lvl.banks k (.complete x), latest := some k, hostLevel := t.lvl.hostLevel } ∧
    t.lvl.hostLevel = (if s.lvl.hostLevel = some x.number then none else s.lvl.hostLevel) ∧
    t.get fGLB_ALARM_LEVEL = 1 ∧ s.RegsBut t [aGLB_ALARM]) ∧
  (∀ by_ k, s.takes by_ aGLB_LVL_CTRL = true → s.lvl.latest = some k → (∀ h j, s.lvl.held = some (h, j) → h = by_) →
    Completes (exec (.levelHold by_) s) fun t =>
      t.lvl = { s.lvl with held := some (by_, k) } ∧ t.regs = s.regs) ∧
  (∀ by_, s.takes by_ aGLB_LVL_CTRL = true → Completes (exec (.levelRelease by_) s) fun t =>
    t.lvl = { s.lvl with held := t.lvl.held } ∧ t.regs = s.regs ∧
    (∀ j, s.lvl.held = some (by_, j) → t.lvl.held = none) ∧
    (∀ h j, s.lvl.held = some (h, j) → h ≠ by_ → t.lvl.held = s.lvl.held))

/-- R407: a time written to a slot at least 50 µs ahead fills the slot named, an earlier one is refused with `LEVEL_LATE`,
and a write of zeros empties it; a slot that is empty, by such a write or once its Level has been produced, reads zeros. -/
def Obligations.ScheduledLevels : Prop := ∀ (s : State) (slot : Fin 16),
  (∀ (sess : Nat) (t : Time80), s.takes (.cop sess) (aGLB_LVL_SCH slot + 8) = true →
    Completes (exec (.levelScheduleWrite (.cop sess) slot t) s) fun u =>
      (timeNs t = 0 → u.lvl = { s.lvl with slots := setAt s.lvl.slots slot none }) ∧
      (timeNs t ≠ 0 → 50000 + s.tb0 ≤ timeNs t → u.lvl = { s.lvl with slots := setAt s.lvl.slots slot (some (timeNs t)) }) ∧
      (timeNs t ≠ 0 → timeNs t < 50000 + s.tb0 →
        u.lvl = s.lvl ∧ u.sent = .answer sess Code.levelLate.num :: s.sent)) ∧
  (∀ t : Time80, s.takes .pcie (aGLB_LVL_SCH slot + 8) = true →
    Completes (exec (.levelScheduleWrite .pcie slot t) s) fun u =>
      (timeNs t = 0 → u.lvl = { s.lvl with slots := setAt s.lvl.slots slot none }) ∧
      (timeNs t ≠ 0 → 50000 + s.tb0 ≤ timeNs t → u.lvl = { s.lvl with slots := setAt s.lvl.slots slot (some (timeNs t)) }) ∧
      (timeNs t ≠ 0 → timeNs t < 50000 + s.tb0 → u.lvl = s.lvl ∧ u.is fGLB_ALARM_ACC = true)) ∧
  (∀ ns, s.cold = false → (∀ c, s.lvl.strobe = some c → c < s.clk) → s.lvl.slots.getD slot none = some ns →
    Completes (exec (.levelScheduled slot) s) fun t => t.lvl.slots = setAt s.lvl.slots slot none) ∧
  (∀ k : Fin 3, s.lvl.slots.getD slot none = none → s.glbView (aGLB_LVL_SCH slot + 4 * k) = 0)

/-- R436, R437: a 4-byte read of Level data
returns what the serving Level latched and records its number; a write of 1 to MIX clears MIX and LAST_VALID. -/
def Obligations.LevelRegisters : Prop := ∀ (s : State),
  (∀ (addr : Nat) (h : RegHit) (l : Level), s.cold = false → addr % 4 = 0 → addr < barSize → s.allowed .pcie false addr = true →
    regAt addr = some h → h.row.level = true → s.upper h = false → winOf addr = none →
    h.block ≠ .plu → h.block ≠ .time → h.block ≠ .hkm → s.servingLevel = some l →
    Completes (exec (.levelDataRead addr 4) s) fun u =>
      u.sent = .completion addr (((s.atLevel l).readView h addr) % 2 ^ 32) :: s.sent ∧
      u.nat aGLB_LVL_LAST = l.number % 2 ^ 32 ∧ u.is fGLB_LVL_STAT_LAST_VALID = true ∧
      (s.is fGLB_LVL_STAT_LAST_VALID = true → s.nat aGLB_LVL_LAST ≠ l.number → u.is fGLB_LVL_STAT_MIX = true) ∧
      s.RegsBut u [aGLB_LVL_LAST, aGLB_LVL_STAT]) ∧
  (s.takes .pcie aGLB_LVL_STAT = true → Completes (exec .levelMixClear s) fun u =>
    u.is fGLB_LVL_STAT_MIX = false ∧ u.is fGLB_LVL_STAT_LAST_VALID = false ∧ s.RegsBut u [aGLB_LVL_STAT] ∧ u.lvl = s.lvl)

/-- R29 to R36, R439: a staged write opens the pending Course and leaves every register; a commit hands it to validation
with its number and time; a Course found valid is armed with its items, and one found invalid stays pending; the owner
discards and aborts it; the abort window closes. -/
def Obligations.CourseSequence : Prop := ∀ (s : State), s.cold = false →
  (∀ addr v w, s.writeGate addr true = none → stageReg (s.nat aCIPH_CTX_SEL % 65536) addr v.toNat = some w →
    s.crs.validating = none → s.crs.pending = none → Completes (exec (.courseStage .pcie (.reg addr v)) s) fun t =>
      t = { s with crs := { s.crs with pending := some ⟨.pcie, [w]⟩ } }) ∧
  (∀ by_ mode number (t : Time80) p, (by_ = .pcie → s.takes .pcie aGLB_CRS_CMD = true) → mode ≤ 1 → number < 2 ^ 32 →
    t.ns ≤ 999999999 → t.sec < 2 ^ 48 → number ≠ 0 → (s.crs.any = true → serialGt number s.crs.last = true) →
    s.safe 17 = false → s.crs.validating = none → s.crs.pending = some p → p.owner = by_ →
    Completes (exec (.courseCommit by_ mode number t) s) fun u =>
      u.crs = { s.crs with pending := none, validating := some ⟨by_, p.writes, mode == 1, number, timeNs t, false⟩ } ∧
      s.RegsBut u [aGLB_CRS_NUM, aGLB_CRS_T, aGLB_CRS_T + 4, aGLB_CRS_T + 8]) ∧
  (∀ v, s.crs.validating = some v →
    (s.validate v.writes = none → s.crs.armed = none → (v.atTime = true → s.tb0 + 50000 ≤ v.time) →
      Completes (exec .courseValidationEnd s) fun t =>
        t.crs.validating = none ∧ t.crs.pending = s.crs.pending ∧ t.crs.result = 0 ∧
        ∃ a, t.crs.armed = some a ∧ a.number = v.number ∧ a.owner = v.owner ∧ a.writes = v.writes ∧ a.struck = false ∧
          a.items = courseItems s (s.after v.writes) v.writes ∧ (v.atTime = true → a.time = v.time)) ∧
    (∀ code w, s.validate v.writes = some (code, w) → v.orphan = false → Completes (exec .courseValidationEnd s) fun t =>
      t.crs = { s.crs with validating := none, pending := some ⟨v.owner, v.writes⟩, result := code.num, where_ := w })) ∧
  (∀ by_ p, s.takes by_ aGLB_CRS_CMD = true → s.crs.validating = none → s.crs.pending = some p → p.owner = by_ →
    Completes (exec (.courseDiscard by_) s) fun t =>
      t.crs = { s.crs with pending := none, result := 0, where_ := (0, 0) }) ∧
  (∀ by_ a, s.takes by_ aGLB_CRS_CMD = true → s.crs.armed = some a → a.owner = by_ → s.abortable a = true →
    Completes (exec (.courseAbort by_) s) fun t => t.crs = { s.crs with armed := none, result := 0, where_ := (0, 0) }) ∧
  (∀ a, s.crs.armed = some a → Completes (exec .courseAbortWindowClose s) fun t =>
    t.crs = { s.crs with armed := some { a with closed := true } } ∧ t.regs = s.regs)

/-- R37 to R41, R141: at its strobe a Course is struck and its items of no lane and port leave it, and once nothing waits
it is recorded; a lane still waiting 10 ms after T applies at the next received frame, and counts a mismatch
where it has seen no announcement; a differing number of the far end counts one too; a port's items leave at its block boundary. -/
def Obligations.CourseApplies : Prop := ∀ (s : State),
  (∀ a, s.crs.armed = some a → a.struck = false → Completes (exec .courseStrobe s) fun t =>
    (t.crs.armed = none ∧ t.crs.last = a.number ∧ t.crs.any = true) ∨
    ∃ b, t.crs.armed = some b ∧ b.number = a.number ∧ b.struck = true ∧ b.closed = true ∧
      ∀ i, i ∈ b.items → i.spot ≠ .strobe) ∧
  (∀ (n : Lane) a, s.crs.armed = some a → a.struck = true → a.rxWaits n = true → (s.lane n).lfr.rxIn = none →
    (s.rxFmt n).family = 0 → s.get (fLFR_STATE_ALIGN n) = 2 → Completes (exec (.courseRxTimeout n) s) fun t =>
      (t.lane n).lfr.rxIn = some 1 ∧ s.RegsBut t [aLFR_STATE n, aLFR_ALARM n] ∧
      (a.seen.contains n.val = false → t.is (fLFR_STATE_COURSE_MISMATCH n) = true ∧ t.get (fLFR_ALARM_COURSE_MISMATCH n) = 1) ∧
      (a.seen.contains n.val = true → t.regs = s.regs)) ∧
  (∀ (n : Lane) k, (s.lane n).lfr.differSince = some k → (s.rxFmt n).family = 0 →
    Completes (exec (.courseFarMismatch n) s) fun t =>
      t.is (fLFR_STATE_COURSE_MISMATCH n) = true ∧ s.RegsBut t [aLFR_STATE n, aLFR_ALARM n]) ∧
  (∀ p a, p < 74 → s.crs.armed = some a → a.struck = true → (a.items.any fun i => i.spot == .port p) = true →
    Completes (exec (.courseClientApply p) s) fun t =>
      (t.crs.armed = none ∧ t.crs.last = a.number) ∨
      ∃ b, t.crs.armed = some b ∧ b.number = a.number ∧ b.struck = true ∧ ∀ i, i ∈ b.items → i.spot ≠ .port p)

/-- R50 to R53: an enable takes its value, a side cleared goes to `OFF` and one set with its reference present begins to
lock; DAC_MUTE takes its value and nothing else changes; a side that has settled runs with its latency measured, one
that unlocks says so, and one whose synthesiser regains lock settles anew (log entry 74); the reference of a die goes and
returns. -/
def Obligations.ConverterSides : Prop := ∀ (s : State),
  (∀ n v, s.takes .pcie (aCONV_CTRL n.val) = true → Completes (exec (.convAdcEnWrite n v) s) fun t =>
    t.is (fCONV_CTRL_ADC_EN n) = v ∧ (v = false → t.get (fCONV_STATE_ADC_STATE n) = 0) ∧
    (v = true → s.get (fCONV_STATE_ADC_STATE n) = 0 → s.refPresent n = true → t.get (fCONV_STATE_ADC_STATE n) = 1)) ∧
  (∀ n v, s.takes .pcie (aCONV_CTRL n.val) = true → Completes (exec (.convDacEnWrite n v) s) fun t =>
    t.is (fCONV_CTRL_DAC_EN n) = v ∧ (v = false → t.get (fCONV_STATE_DAC_STATE n) = 0) ∧
    (v = true → s.get (fCONV_STATE_DAC_STATE n) = 0 → s.refPresent n = true → t.get (fCONV_STATE_DAC_STATE n) = 1)) ∧
  (∀ n v, s.takes .pcie (aCONV_CTRL n.val) = true → Completes (exec (.convDacMuteWrite n v) s) fun t =>
    t.is (fCONV_CTRL_DAC_MUTE n) = v ∧ t = { s with regs := t.regs } ∧ s.RegsBut t [aCONV_CTRL n]) ∧
  (∀ n sd delay, s.laneUp n = true → s.convState n sd = 1 → s.refPresent n = true →
    Completes (exec (.convSettled n sd delay) s) fun t =>
      t.convState n sd = 2 ∧ t.nat (match sd with | .adc => aCONV_RX_LAT n | .dac => aCONV_TX_LAT n) = delay % 2 ^ 32 ∧
      s.RegsBut t [aCONV_STATE n, aCONV_RX_LAT n, aCONV_TX_LAT n]) ∧
  (∀ n sd delay, s.laneUp n = true → s.convState n sd = 3 → s.refPresent n = true →
    Completes (exec (.convSettled n sd delay) s) fun t =>
      t.convState n sd = 1 ∧ t.is (fConvLock n sd) = true ∧ s.RegsBut t [aCONV_STATE n]) ∧
  (∀ n sd, s.convState n sd = 2 → Completes (exec (.convUnlock n sd) s) fun t =>
    t.convState n sd = 3 ∧ t.get (fConvUnlock n sd) = 1) ∧
  (∀ die, Completes (exec (.samplingRefLoss die) s) fun t => t.sampRef = setAt s.sampRef die false ∧
    ∀ n : Lane, n.val / 2 = die.val → s.laneUp n = true → t.is (fCONV_STATE_REF_OK n) = false) ∧
  (∀ die, Completes (exec (.samplingRefReturn die) s) fun t => t.sampRef = setAt s.sampRef die true ∧
    ∀ n : Lane, n.val / 2 = die.val → s.laneUp n = true → t.is (fCONV_STATE_REF_OK n) = true)

/-- R59 to R62: a position of 0 to 63 retired through a half that is idle on a running side starts a takeover, and 0x7F
releases a retired half; at its end a takeover stands in, and the end of a release leaves the half idle or starts the
retirement that waits; only the half's register changes, where no calibration step waits for the release. -/
def Obligations.ConverterSpares : Prop := ∀ (s : State) (n : Lane) (k : Fin 16),
  (∀ pos : BitVec 7, s.takes .pcie (aCONV_SPARE n k) = true → s.spareRun n k = .none →
    Completes (exec (.spareRetireWrite n k pos) s) fun t => s.RegsBut t [aCONV_SPARE n k, aCONV_ALARM n] ∧
      (pos.toNat < 64 → s.get (fCONV_SPARE_MODE n k) = 0 → s.convState n (spareSide k) = 2 →
        t.get (fCONV_SPARE_RETIRE n k) = pos.toNat ∧ t.is (fCONV_SPARE_SHADOW n k) = true ∧ s.RegsBut t [aCONV_SPARE n k]) ∧
      (pos.toNat = 0x7F → s.get (fCONV_SPARE_MODE n k) = 2 →
        t.get (fCONV_SPARE_RETIRE n k) = 0x7F ∧ t.is (fCONV_SPARE_SHADOW n k) = true ∧ s.RegsBut t [aCONV_SPARE n k])) ∧
  (∀ p retire, s.spareRun n k = .taking p retire → Completes (exec (.spareTakeoverSwitch n k) s) fun t =>
    t.get (fCONV_SPARE_STANDIN n k) = p % 128 ∧ t.get (fCONV_SPARE_MODE n k) = (if retire then 2 else 1) ∧
    t.is (fCONV_SPARE_SHADOW n k) = false ∧ s.RegsBut t [aCONV_SPARE n k]) ∧
  (∀ p, s.spareRun n k = .releasing p → Completes (exec (.spareReleaseSwitch n k) s) fun t =>
    t.get (fCONV_SPARE_STANDIN n k) = 0x7F ∧ t.get (fCONV_SPARE_MODE n k) = 0 ∧
    ((∀ r, s.cal.run = some r → (r.waits && r.lane == n.val && stepHalf r.step == k.val) = false) →
      s.RegsBut t [aCONV_SPARE n k] ∧ t.cal = s.cal ∧ t.is (fCONV_SPARE_SHADOW n k) =
        (decide (s.get (fCONV_SPARE_RETIRE n k) < 64) && decide (s.convState n (spareSide k) = 2))))

/-- R46, R53, R56, R64, R65: arming, firing and completing a capture; the over-range flag of a group holds three more; a
group of the DAC drives the channels while the side runs, is not muted and the lane is not in its safe state, and takes the
transmit signal of its instant, in which the Keystone group is missing only once. -/
def Obligations.ConverterGroups : Prop := ∀ (s : State) (n : Lane),
  (∀ cfg : Word, s.takes .pcie (aCONV_CAP_CTRL n) = true → Completes (exec (.captureArm n cfg) s) fun t =>
    let bad := fld cfg 2 2 == 1 && fld cfg 4 1 == 1
    t.is (fCONV_CAP_STATUS_CFG_ERR n) = bad ∧ t.is (fCONV_CAP_STATUS_ARMED n) = !bad ∧
    (t.lane n).conv.capLeft = none ∧ s.RegsBut t [aCONV_CAP_CTRL n, aCONV_CAP_STATUS n]) ∧
  (s.takes .pcie (aCONV_CAP_CTRL n) = true → s.is (fCONV_CAP_STATUS_ARMED n) = true → s.get (fCONV_CAP_CTRL_TRIG n) = 0 →
    (s.lane n).conv.capLeft = none → Completes (exec (.captureFire n) s) fun t =>
      (t.lane n).conv = { (s.lane n).conv with capFire := true } ∧ t.regs = s.regs) ∧
  ((s.lane n).conv.capLeft = some 0 → Completes (exec (.captureComplete n) s) fun t =>
    t.is (fCONV_CAP_STATUS_DONE n) = true ∧ t.is (fCONV_CAP_STATUS_ARMED n) = false ∧
    t.is (fCONV_CAP_CTRL_ARM n) = false ∧ t.get (fCONV_CAP_STATUS_COUNT n) = (s.get (fCONV_CAP_STATUS_COUNT n) + 1) % 65536 ∧
    (t.lane n).conv.capLeft = none) ∧
  (∀ outside codes, s.laneUp n = true → s.convState n .adc = 2 → Completes (exec (.adcGroup n outside codes) s) fun t =>
    ∀ i, i < 4 → (t.lane n).conv.ovrTail.getD i 0 =
      if outside.getD i [] = [] then (s.lane n).conv.ovrTail.getD i 0 - 1 else 3) ∧
  (∀ at_ ks, s.laneUp n = true → Completes (exec (.dacGroup n at_ ks) s) fun t =>
    (t.lane n).conv.driven = (decide (s.convState n .dac = 2) && !s.is (fCONV_CTRL_DAC_MUTE n) && !s.safe n) ∧
    (t.lane n).tx.last = (s.levelEnters n at_).txSignal n at_ ks ∧ (t.lane n).tx.ksMissed = false)

/-- R49, R82, R88, R89, R91: enabling RXD starts it in `NO_SIGNAL` or in `FREQ_SEARCH`, disabling it brings `DISABLED` and
trim 0; ACQ_RESTART starts `FREQ_SEARCH`; the modes take their values and are in force at once outside acquisition; a host
frequency is sent while the host owns the LO and is refused else; four low windows declare `LOS`. -/
def Obligations.ReceiverControl : Prop := ∀ (s : State) (n : Lane),
  (∀ v, s.takes .pcie (aRXD_CTRL n) = true → Completes (exec (.rxdEnWrite n v) s) fun t =>
    t.is (fRXD_CTRL_EN n) = v ∧ (v = false → t.rxdState n = 0 ∧ t.nat (aCONV_RXSYN_TRIM n) = 0) ∧
    (v = true → s.rxdState n = 0 → t.rxdState n = if s.is (fRXD_STATE_LOS n) then 1 else 2)) ∧
  (s.takes .pcie (aRXD_CTRL n) = true → 2 ≤ s.rxdState n → Completes (exec (.rxdAcqRestart n) s) fun t =>
    t.rxdState n = 2 ∧ (t.lane n).rxd.searchAt = s.clk) ∧
  (∀ v, s.takes .pcie (aRXD_CTRL n) = true → Completes (exec (.rxdLoModeWrite n v) s) fun t =>
    t.get (fRXD_CTRL_LO_MODE n) = v.toNat ∧ (s.rxdState n ≤ 1 → (t.lane n).rxd.loMode = v.toNat)) ∧
  (∀ v, s.takes .pcie (aRXD_CTRL n) = true → Completes (exec (.rxdKsAssistWrite n v) s) fun t =>
    t.is (fRXD_CTRL_KS_ASSIST n) = v ∧ (s.rxdState n ≤ 1 → (t.lane n).rxd.ksAssist = v)) ∧
  (∀ v, s.takes .pcie (aRXD_CTRL n) = true → Completes (exec (.rxdFmtSrcWrite n v) s) fun t =>
    t.is (fRXD_CTRL_FMT_SRC n) = v ∧ (s.rxdState n ≤ 1 → (t.lane n).rxd.follow = v)) ∧
  (∀ v, s.takes .pcie (aRXD_LO_HOST n) = true → Completes (exec (.loHostWrite n v) s) fun t =>
    (s.loOwnerNow n = 0 → t.nat (aRXD_LO_HOST n) = v.toNat ∧ t.sent =
      .lo n (2 ^ 28 * 1 + 2 ^ 26 * 2 + 2 ^ 24 * (s.lane n).rxd.loSeq + ofSigned 24 v.toInt) :: s.sent) ∧
    (s.loOwnerNow n ≠ 0 → t.get (fRXD_ALARM_LO_BUSY n) = 1 ∧ t.nat (aRXD_LO_HOST n) = s.nat (aRXD_LO_HOST n))) ∧
  (∀ power, s.laneUp n = true → s.losPower n power < s.get (fRXD_LOS_THR_THR n) → Completes (exec (.losWindowEnd n power) s) fun t =>
    ((s.lane n).rxd.losLow + 1 < 4 → (t.lane n).rxd.losLow = (s.lane n).rxd.losLow + 1 ∧ t.regs = s.regs) ∧
    (4 ≤ (s.lane n).rxd.losLow + 1 → s.is (fRXD_STATE_LOS n) = false → 2 ≤ s.rxdState n →
      t.is (fRXD_STATE_LOS n) = true ∧ t.rxdState n = 1))

/-- R73, R80, R89, R90, R93: what each event of an acquisition brings: the spectral and the fine estimates, the end of the
wait for Keystone, the steps and the refinement of the CD scan, timing and polarisation lock, and the failures; estimates
stand still under over-range (R70). -/
def Obligations.ReceiverAcquisition : Prop := ∀ (s : State) (n : Lane), s.laneUp n = true →
  (∀ fo, s.rxdState n = 2 →
    ((s.lane n).rxd.ovr = false → Completes (exec (.spectralEstimate n fo) s) fun t =>
      (t.lane n).rxd.spectral = some (clampI (-25000000) 25000000 fo)) ∧
    ((s.lane n).rxd.ovr = true → Completes (exec (.spectralEstimate n fo) s) fun t => t = s)) ∧
  (∀ fo, 3 ≤ s.rxdState n ∨ (s.rxdState n = 2 ∧ (s.lane n).rxd.coarseDone = true) →
    ((s.lane n).rxd.ovr = false → Completes (exec (.fineEstimate n fo) s) fun t =>
      (t.lane n).rxd.fine = some (clampI (-25000000) 25000000 fo) ∧
      (∀ p, s.rxdState n = 2 → (s.lane n).rxd.fine = some p → p.natAbs ≤ 2500000 → fo.natAbs ≤ 2500000 →
        (p - fo).natAbs ≤ 50000 → t.rxdState n = if s.is (fRXD_SCFG_CD_MODE n) then 4 else 3)) ∧
    ((s.lane n).rxd.ovr = true → Completes (exec (.fineEstimate n fo) s) fun t => t = s)) ∧
  (s.rxdState n = 2 → (s.lane n).rxd.ksWaiting = true → (s.lane n).rxd.coarseDone = false →
    Completes (exec (.ksWaitExpiry n) s) fun t =>
      (t.lane n).rxd.ksWaiting = false ∧ (t.lane n).rxd.ksExpired = true) ∧
  (∀ metric above c, s.rxdState n = 3 → (s.lane n).rxd.scan = some c → c.refining = false →
    ((s.lane n).rxd.ovr = false → Completes (exec (.cdScanStep n metric above) s) fun t =>
      c.step + 1 < scanSteps c.hint (s.rxFmt n).symRate → ∃ d, (t.lane n).rxd.scan = some d ∧ d.step = c.step + 1 ∧
        d.hint = c.hint ∧ d.refining = false) ∧
    ((s.lane n).rxd.ovr = true → Completes (exec (.cdScanStep n metric above) s) fun t => t = s)) ∧
  (∀ cd c, s.rxdState n = 3 → (s.lane n).rxd.scan = some c → c.refining = true →
    ((s.lane n).rxd.ovr = false → Completes (exec (.cdRefineDone n cd) s) fun t => t.rxdState n = 4 ∧
      (t.lane n).rxd.comp = s.cdHeld n cd ∧ (t.lane n).rxd.cdTarget = s.cdHeld n cd ∧ (t.lane n).rxd.scan = none) ∧
    ((s.lane n).rxd.ovr = true → Completes (exec (.cdRefineDone n cd) s) fun t => t = s)) ∧
  (s.rxdState n = 4 → Completes (exec (.timingLock n) s) fun t =>
    t.rxdState n = 5 ∧ t.is (fRXD_STATE_TIMING_LOCK n) = true ∧ s.RegsBut t [aRXD_STATE n, aRXD_MET_VALID n, aCONV_STATE n]) ∧
  (s.rxdState n = 5 → Completes (exec (.polConverged n) s) fun t =>
    t.rxdState n = 6 ∧ s.RegsBut t [aRXD_STATE n, aRXD_MET_VALID n, aCONV_STATE n]) ∧
  (s.stateLimit n ≠ 0 → Completes (exec (.acqStateTimeout n) s) fun t =>
    t.rxdState n = 2 ∧ t.get (fRXD_ALARM_ACQ_FAIL n) = 1 ∧ (t.lane n).rxd.searchAt = max s.clk ((s.lane n).rxd.stateAt + s.stateLimit n)) ∧
  (s.is (fRXD_STATE_WARM n) = true → Completes (exec (.warmReacqTimeout n) s) fun t =>
    t.rxdState n = 2 ∧ t.get (fRXD_ALARM_WARM_FAIL n) = 1 ∧ t.is (fRXD_STATE_WARM n) = false) ∧
  (s.rxdState n = 7 → Completes (exec (.eqDiverge n) s) fun t =>
    t.rxdState n = 4 ∧ t.is (fRXD_STATE_WARM n) = true ∧ s.RegsBut t [aRXD_STATE n, aRXD_MET_VALID n, aCONV_STATE n])

/-- R49, R72, R83, R85 to R87, R97: in steady operation: the CD estimate and the value the compensation moves to, the
LO correction with its gain and limit, the trim with its limit and under TRIM_HOLD (log entry 61), the metrics with their
ranges and Q from the codewords of the interval, and ready coefficients. -/
def Obligations.ReceiverTracking : Prop := ∀ (s : State) (n : Lane), s.laneUp n = true →
  (∀ cd u, s.rxdState n = 7 → s.is (fRXD_SCFG_CD_MODE n) = false → (s.lane n).rxd.ovr = false →
    u = s.waitClk (1000 * cyclesMs + max (s.lane n).rxd.stateAt (s.lane n).rxd.cdEstAt) →
    Completes (exec (.cdReestimate n cd) s) fun t => t.nat (aRXD_CD_EST n) = ofSigned 32 (s.cdHeld n cd) ∧ t.clk = u.clk ∧
      (t.lane n).rxd.comp = u.compNow n ∧ (t.lane n).rxd.cdMoveAt = u.clk ∧
      (t.lane n).rxd.cdTarget = if 50 ≤ (s.cdHeld n cd - u.compNow n).natAbs then s.cdHeld n cd else u.compNow n) ∧
  (∀ e, 3 ≤ s.rxdState n → s.loOwnerNow n = 2 → (s.lane n).rxd.fine = some e → Completes (exec (.loUpdateTick n) s) fun t =>
    (e.natAbs ≤ 1000 * s.get (fRXD_LO_LIMIT_DEADBAND n) → t.regs = s.regs ∧ t.sent = s.sent) ∧
    (1000 * s.get (fRXD_LO_LIMIT_DEADBAND n) < e.natAbs → t.int (aRXD_LO_ACC n) =
      clampI (-(max 1 (s.get (fRXD_LO_LIMIT_LIMIT n)) : Nat)) (max 1 (s.get (fRXD_LO_LIMIT_LIMIT n)) : Nat)
        (s.int (aRXD_LO_ACC n) + divNear e (1000 * 2 ^ s.get (fRXD_LO_CFG_GAIN n))))) ∧
  (∀ want, 4 ≤ s.rxdState n → (s.lane n).rxd.ovr = false →
    (s.is (fCONV_CTRL_TRIM_HOLD n) = false → Completes (exec (.trimUpdate n want) s) fun t =>
      t.int (aCONV_RXSYN_TRIM n) = clampI (-100000000) 100000000 want ∧
      t.is (fCONV_STATE_TRIM_LIM n) = decide (100000000 < want.natAbs) ∧
      s.RegsBut t [aCONV_RXSYN_TRIM n, aCONV_STATE n, aCONV_ALARM n]) ∧
    (s.is (fCONV_CTRL_TRIM_HOLD n) = true → Completes (exec (.trimUpdate n want) s) fun t =>
      s.RegsBut t [aRXD_STATE n] ∧ (5 ≤ s.rxdState n → t.is (fRXD_STATE_TIMING_LOCK n) =
        decide ((want - s.int (aCONV_RXSYN_TRIM n)).natAbs ≤ 20000000)))) ∧
  (∀ m, s.rxdState n = 7 → (s.lane n).rxd.ovr = false → Completes (exec (.rxdMetricsUpdate n m) s) fun t =>
    t.nat (aRXD_OSNR n) = clampN 1000 4000 m.osnr ∧ t.nat (aRXD_SNR n) = min 3000 m.snr ∧ t.nat (aRXD_DGD n) = min 30000 (s.eqDgd n m.dgd) ∧
    t.nat (aRXD_SOP_RATE n) = clampN 1 20000 m.sop ∧ t.nat (aRXD_Q n) ≤ 2000 ∧
    t.nat (aRXD_Q n) = qFactor (s.wide (aFEC_CNT n 1) - (s.lane n).rxd.qBase.2)
      ((s.rxFmt n).codedBits (s.wide (aFEC_CNT n 0) - (s.lane n).rxd.qBase.1)) ∧
    s.RegsBut t [aRXD_EQ_DELAY n, aRXD_CD_EST n, aRXD_OSNR n, aRXD_SNR n, aRXD_Q n, aRXD_DGD n, aRXD_SOP_RATE n, aRXD_SOP_PEAK n]) ∧
  ((s.lane n).rxd.nlc = .computing → Completes (exec (.nlcReady n) s) fun t => t.regs = s.regs ∧
    (t.lane n).rxd = { (s.lane n).rxd with
      nlc := .ready, nlcCoef := Config.nlcCoefficients (s.nlcSpans n) (s.reg (aRXD_NLC_CFG n)) })

/-- R102, R113, R123, R146, R506: EN and MODE take their values, clearing EN brings `DISABLED`, and EN alone `KS_ONLY`; a
Keystone group that is missing raises its alarm; while no Course waits, an LF start in `SENDING` sends a line frame and
advances the MFAS, and elsewhere only the grid moves on. -/
def Obligations.Transmitter : Prop := ∀ (s : State) (n : Lane),
  (∀ v, s.takes .pcie (aTXD_CTRL n) = true → Completes (exec (.txdEnWrite n v) s) fun t =>
    t.is (fTXD_CTRL_EN n) = v ∧ (v = false → t.txdState n = 0) ∧
    (v = true → s.txdState n = 0 → s.is (fTXD_CTRL_MODE n) = false → t.txdState n = 1)) ∧
  (∀ v, s.takes .pcie (aTXD_CTRL n) = true → Completes (exec (.txdModeWrite n v) s) fun t =>
    t.is (fTXD_CTRL_MODE n) = v ∧
    (s.is (fTXD_CTRL_EN n) = true → t.txdState n = if s.txdState n = 0 ∧ v = false then 1 else s.txdState n)) ∧
  (s.laneUp n = true → s.is (fTXD_STATE_KS_ON n) = true → Completes (exec (.ksGroupMissed n) s) fun t =>
    t.get (fTXD_ALARM_KS_LOST n) = 1 ∧ s.RegsBut t [aTXD_ALARM n] ∧
    (t.lane n).tx = { (s.lane n).tx with ksMissed := true }) ∧
  (∀ phase, s.cold = false → s.held n = false → s.crs.armed = none → Completes (exec (.txLfStart n phase) s) fun t =>
    (s.txdState n = 2 → s.is (fTXD_CTRL_EN n) = true → s.is (fTXD_CTRL_MODE n) = true → (s.txFmt n).family = 0 →
      (∃ symbols older, t.sent = .lf n symbols :: older) ∧ (t.lane n).tx.mfas = ((s.lane n).tx.mfas + 1) % 256) ∧
    (s.txdState n ≠ 2 → s.is (fTXD_CTRL_MODE n) = false → t.txdState n = s.txdState n ∧ (t.lane n).tx.started = true ∧
      s.clk ≤ t.clk ∧ t.sent = s.sent))

/-- R132 to R135, R138, R139: an inner codeword of a native format takes its iterations from the pool and says whether it
failed, one of a ZR family counts as its own decoder found it; a block that enters and one that leaves the outer window move
it on, and a block with failing codewords marks its line frames.  Before a codeword has been decoded the blocks count as
their operands say (log entry 68, the model's choice). -/
def Obligations.ReceiveFec : Prop := ∀ (s : State) (n : Lane), s.laneUp n = true →
  (∀ soft zr, s.fecState n ≠ 0 →
    (s.is (fFEC_STATE_ZR n) = true → Completes (exec (.innerCodewordDone n soft zr) s) fun t =>
      (t.lane n).fec = (s.lane n).fec ∧ (zr.1 = false → t.get (fFEC_ALARM_UNCORR n) = 1)) ∧
    (∀ f d, s.is (fFEC_STATE_ZR n) = false → f = (s.lane n).fec →
      d = decodeInner (if f.cw = 0 then s.fecAt n else f.fec) (f.cw = 0) (s.is (fFEC_CTRL_EARLY_STOP n))
        (iterLimit f.iterMax (s.get (fFEC_STATE_ITER_AVAIL n)) f.pool) (s.softNext n soft).2 →
      Completes (exec (.innerCodewordDone n soft zr) s) fun t => t.fecState n = s.fecState n ∧
        (t.lane n).fec.pool = poolAfter f.iterMax (s.get (fFEC_STATE_ITER_AVAIL n)) f.pool d.used ∧
        (t.lane n).fec.fed = true ∧ (t.lane n).fec.iterMax = s.iterMax n ∧
        (d.ok = false → t.get (fFEC_ALARM_INNER_FAIL n) = 1 ∧
          (d.used < f.iterMax → t.get (fFEC_ALARM_TRUNC n) = 1)))) ∧
  (∀ changed, s.fecState n = 2 → s.is (fFEC_STATE_ZR n) = false →
    ((s.lane n).fec.fed = false → Completes (exec (.outerBlockEnter n changed) s) fun t =>
      (t.lane n).fec = { (s.lane n).fec with entered := (s.lane n).fec.entered + 1 } ∧ t.fecState n = 2) ∧
    ((s.lane n).fec.fed = true → 216000 ≤ (s.lane n).fec.outer.info.length → 14400 ≤ (s.lane n).fec.outer.par.length →
      Completes (exec (.outerBlockEnter n changed) s) fun t => (t.lane n).fec.entered = (s.lane n).fec.entered + 1 ∧
        (t.lane n).fec.outer.info = (s.lane n).fec.outer.info.drop 216000 ∧
        (t.lane n).fec.outer.par = (s.lane n).fec.outer.par.drop 14400)) ∧
  (∀ bad, s.fecState n = 2 → s.is (fFEC_STATE_ZR n) = false →
    ((s.lane n).fec.fed = false → (s.lane n).fec.left < (s.lane n).fec.entered →
      Completes (exec (.outerBlockExit n bad) s) fun t =>
        (t.lane n).fec.left = (s.lane n).fec.left + 1 ∧ (bad = 0 → (t.lane n).fec.bad = (s.lane n).fec.bad) ∧
        (bad ≠ 0 → (t.lane n).fec.bad = (s.lane n).fec.bad ++ [(s.lane n).fec.left] ∧ t.get (fFEC_ALARM_UNCORR n) = 1)) ∧
    (∀ b rest, (s.lane n).fec.fed = true → (s.lane n).fec.window = b :: rest → s.outerWin n ≤ rest.length + 1 →
      Completes (exec (.outerBlockExit n bad) s) fun t =>
        (t.lane n).fec.left = (s.lane n).fec.left + 1 ∧ (t.lane n).fec.window = rest ∧ (t.lane n).fec.before = some b))

/-- R152 to R155, R159, R160: a window of signal degrade counts as good or bad and three of a kind set or clear SD; the
first match in `HUNT` becomes a candidate; a missed frame short of five is counted and a confirmed candidate short of three
gains a match; an exclusion ends; AIS stands on the slots of the groups it is due on; a delivered line frame of a
verification not yet decided is counted, and the fourth without its codeword 0 ends the verification. -/
def Obligations.Framing : Prop := ∀ (s : State) (n : Lane), s.laneUp n = true →
  (1024 * max 1 (s.get (fLFR_SD_CFG_WIN n)) ≤ (s.lane n).lfr.sdLfs → Completes (exec (.sdWindowEnd n) s) fun t =>
    (t.lane n).lfr.sdBase = 0 ∧ (t.lane n).lfr.sdLfs = 0 ∧
    (s.get (fLFR_SD_CFG_THR n) < (s.lane n).lfr.sdBase → (t.lane n).lfr.sdBad = (s.lane n).lfr.sdBad + 1 ∧
      (t.lane n).lfr.sdGood = 0 ∧ (3 ≤ (s.lane n).lfr.sdBad + 1 → t.is (fLFR_STATE_SD n) = true)) ∧
    ((s.lane n).lfr.sdBase ≤ s.get (fLFR_SD_CFG_THR n) → (t.lane n).lfr.sdBad = 0 ∧
      (t.lane n).lfr.sdGood = (s.lane n).lfr.sdGood + 1 ∧ (3 ≤ (s.lane n).lfr.sdGood + 1 → t.is (fLFR_STATE_SD n) = false))) ∧
  (∀ pos hyp diff, s.is (fLFR_STATE_LOS n) = false → (s.rxFmt n).family = 0 → s.alignState n = 0 →
    diff ≤ s.get (fLFR_ALIGN_CFG_THR n) → (s.lane n).lfr.excluded = [] → (s.lane n).lfr.cands = [] → (s.lane n).lfr.sync = none →
    Completes (exec (.lfrMarkerMatch n pos hyp diff) s) fun t => t.alignState n = 1 ∧
      (t.lane n).lfr.cands = [⟨pos, hyp, 1⟩] ∧ t.get (fLFR_STATE_CAND n) = 1 ∧ s.RegsBut t [aLFR_STATE n]) ∧
  (∀ hyp diff phase, (s.rxFmt n).family = 0 →
    (s.get (fLFR_ALIGN_CFG_THR n) < diff → s.alignState n = 2 → (s.lane n).lfr.miss + 1 < 5 →
      Completes (exec (.lfrExpectedPosition n none hyp diff phase) s) fun t =>
        (t.lane n).lfr.miss = (s.lane n).lfr.miss + 1 ∧ t.regs = s.regs) ∧
    (∀ (k : Fin 4) c, diff ≤ s.get (fLFR_ALIGN_CFG_THR n) → (s.lane n).lfr.cands[k.val]? = some c → c.hits + 1 < 3 →
      Completes (exec (.lfrExpectedPosition n (some k) hyp diff phase) s) fun t =>
        (t.lane n).lfr.cands = setAt (s.lane n).lfr.cands k { c with hyp := hyp, hits := c.hits + 1 } ∧ t.regs = s.regs)) ∧
  (∀ pos e, (s.lane n).lfr.excluded.find? (fun x => x.1 == pos) = some e →
    Completes (exec (.lfrExclusionExpiry n pos) s) fun t => t.regs = s.regs ∧ e.2 + s.rxPeriods n 256 ≤ t.clk ∧
      (t.lane n).lfr.excluded = (s.lane n).lfr.excluded.filter fun x => x.1 != pos) ∧
  (Completes (exec (.downstreamAisChange n) s) fun t => ∀ j, j < 128 →
    t.is (fLFR_SLOT_AIS_OUT n j) = ((s.rxGroups n).filter (s.aisDue n)).any fun g => g.list.contains j) ∧
  (∀ (lf m : LfIn) u i, s.alignState n = 2 → (s.rxFmt n).family = 0 → s.is (fLFR_STATE_VERIFY n) = true →
    (s.lane n).lfr.rxIn = none → s.lfNext n lf = some (u, m, i) → m.cw0 = false →
    ((s.lane n).lfr.verifyCount + 1 < 4 → s.is (fLFR_STATE_MF_LOCK n) = false → Completes (exec (.lfDelivered n lf) s) fun t =>
      (t.lane n).lfr.verifyCount = (s.lane n).lfr.verifyCount + 1 ∧ (t.lane n).lfr.marks = (s.lane n).lfr.marks.drop 1) ∧
    (4 ≤ (s.lane n).lfr.verifyCount + 1 → Completes (exec (.lfDelivered n lf) s) fun t =>
      (t.lane n).lfr.verifyCount = 0 ∧ (t.lane n).lfr.sync = none ∧ (t.lane n).lfr.marks = []))

/-- R172, R178: after PMON_SECOND_EVAL no ended second of any lane is due any more; BIN_FINAL marks the newest history bin of
every entity FINAL and changes no other bin and no register. -/
def Obligations.Monitoring : Prop := ∀ (s : State),
  (s.up = true → Completes (exec .pmonSecondEval s) fun t => s.clk ≤ t.clk ∧
    ∀ n g, g ∈ (t.lane n).pmon.ended → t.evalDue g = false) ∧
  (((s.lane 0).pmon.ent 0).cur15.start ≠ 0 → Completes (exec (.binFinal false) s) fun t => t.regs = s.regs ∧
    ∀ n k, ((t.lane n).pmon.ent k).cur15 = ((s.lane n).pmon.ent k).cur15 ∧
      ((t.lane n).pmon.ent k).cur24 = ((s.lane n).pmon.ent k).cur24 ∧
      ((t.lane n).pmon.ent k).hist24 = ((s.lane n).pmon.ent k).hist24 ∧
      ∀ b rest, ((s.lane n).pmon.ent k).hist15 = b :: rest → ((t.lane n).pmon.ent k).hist15 = b.flag 0 :: rest) ∧
  (((s.lane 0).pmon.ent 0).cur24.start ≠ 0 → Completes (exec (.binFinal true) s) fun t => t.regs = s.regs ∧
    ∀ n k, ((t.lane n).pmon.ent k).cur15 = ((s.lane n).pmon.ent k).cur15 ∧
      ((t.lane n).pmon.ent k).cur24 = ((s.lane n).pmon.ent k).cur24 ∧
      ((t.lane n).pmon.ent k).hist15 = ((s.lane n).pmon.ent k).hist15 ∧
      ∀ b rest, ((s.lane n).pmon.ent k).hist24 = b :: rest → ((t.lane n).pmon.ent k).hist24 = b.flag 0 :: rest)

/-- R183, R184: CLR_CUR zeroes every count of the current bins of a lane's entities, sets their HOST_CLEARED and leaves START,
the history bins, every register and the other lanes; a metric sample of a lane in `TRACKING` counts in the section's current
bins, at an instant that is a multiple of 10 ms of TB0 and not before the command. -/
def Obligations.CurrentBins : Prop := ∀ (s : State) (n : Lane),
  (s.takes .pcie (aPMON_CTRL n) = true → Completes (exec (.pmonClrCur n) s) fun t => t.regs = s.regs ∧ t.clk = s.clk ∧
    (∀ m, m ≠ n → t.lane m = s.lane m) ∧ ∀ k,
      ((t.lane n).pmon.ent k).cur15 = ({ start := ((s.lane n).pmon.ent k).cur15.start
                                         flags := ((s.lane n).pmon.ent k).cur15.flags
                                         nominal := ((s.lane n).pmon.ent k).cur15.nominal
                                         alerted := ((s.lane n).pmon.ent k).cur15.alerted } : Bin).flag 3 ∧
      ((t.lane n).pmon.ent k).cur24 = ({ start := ((s.lane n).pmon.ent k).cur24.start
                                         flags := ((s.lane n).pmon.ent k).cur24.flags
                                         nominal := ((s.lane n).pmon.ent k).cur24.nominal
                                         alerted := ((s.lane n).pmon.ent k).cur24.alerted } : Bin).flag 3 ∧
      ((t.lane n).pmon.ent k).hist15 = ((s.lane n).pmon.ent k).hist15 ∧
      ((t.lane n).pmon.ent k).hist24 = ((s.lane n).pmon.ent k).hist24) ∧
  (s.laneUp n = true → s.get (fRXD_STATE_STATE n) = 7 → Completes (exec (.pmonMetricSample n) s) fun t =>
    ((t.lane n).pmon.ent 0).cur15.samples = ((s.lane n).pmon.ent 0).cur15.samples + 1 ∧
    ((t.lane n).pmon.ent 0).cur24.samples = ((s.lane n).pmon.ent 0).cur24.samples + 1 ∧
    (∀ m, m ≠ n → t.lane m = s.lane m) ∧
    ∃ x, (t.lane n).pmon.lastSample = some x ∧ x % 10000000 = 0 ∧ s.tb0 ≤ x)

/-- R195, R202, R203: the defects of an enabled client port move its state, raise its alarms and touch no register but
the port's own and CLI's; the lock of a FlexE group and the answer to a calendar switch show in the group's status. -/
def Obligations.ClientPorts : Prop := ∀ (s : State) (p : Fin 64) (k : Fin 8) (v l g m : Bool),
  (s.portState p ≠ 0 →
    Completes (exec (.closDeclare p) s) (fun t => t.portState p = 1 ∧ t.is (fCLI_PORT_STATUS_CLOS p) = true ∧
      t.is (fCLI_PORT_ALARM_CLOS p) = true ∧ t.is fCLI_ALARM_PORT = true ∧
      s.RegsBut t [aCLI_PORT_STATUS p, aCLI_PORT_ALARM p, aCLI_ALARM, aCLI_STATUS]) ∧
    Completes (exec (.closClear p) s) (fun t => t.portState p = (if s.portState p = 1 then 2 else s.portState p) ∧
      t.is (fCLI_PORT_STATUS_CLOS p) = false ∧ s.RegsBut t [aCLI_PORT_STATUS p, aCLI_STATUS]) ∧
    Completes (exec (.cloaDeclare p) s) (fun t => t.portState p = (if s.portState p = 3 then 2 else s.portState p) ∧
      t.is (fCLI_PORT_STATUS_CLOA p) = true ∧ t.is (fCLI_PORT_ALARM_CLOA p) = true ∧ t.is fCLI_ALARM_PORT = true ∧
      s.RegsBut t [aCLI_PORT_STATUS p, aCLI_PORT_ALARM p, aCLI_ALARM, aCLI_STATUS]) ∧
    Completes (exec (.cloaClear p) s) (fun t => t.portState p = (if s.portState p = 2 then 3 else s.portState p) ∧
      t.is (fCLI_PORT_STATUS_CLOA p) = false ∧ s.RegsBut t [aCLI_PORT_STATUS p, aCLI_STATUS]) ∧
    Completes (exec (.remoteFaultChange p v) s) (fun t => t.portState p = s.portState p ∧
      t.is (fCLI_PORT_STATUS_RF p) = v ∧ (v = true → t.is (fCLI_PORT_ALARM_RF p) = true ∧ t.is fCLI_ALARM_PORT = true) ∧
      s.RegsBut t [aCLI_PORT_STATUS p, aCLI_PORT_ALARM p, aCLI_ALARM])) ∧
  (s.up = true → s.is (fCLI_FX_CFG_EN k) = true → s.held (8 + s.portGroup (s.get (fCLI_FX_CFG_PORT_BASE k))) = false →
    Completes (exec (.flexeLockChange k l g m) s) fun t => t.is (fCLI_FX_STATUS_LOCKED k) = l ∧
      t.is (fCLI_FX_STATUS_GID_MISMATCH k) = g ∧ t.is (fCLI_FX_STATUS_MAP_MISMATCH k) = m ∧
      (s.is (fCLI_FX_STATUS_LOCKED k) = true → l = false → t.is fCLI_ALARM_FLEXE = true) ∧
      s.RegsBut t [aCLI_FX_STATUS k, aCLI_ALARM]) ∧
  (s.is (fCLI_FX_STATUS_CAL_PENDING k) = true →
    Completes (exec (.flexeCalendarSwitch k) s) fun t => t.is (fCLI_FX_STATUS_CAL_PENDING k) = false ∧
      t.is (fCLI_FX_STATUS_CAL_SEL k) = !s.is (fCLI_FX_STATUS_CAL_SEL k) ∧ s.RegsBut t [aCLI_FX_STATUS k] ∧
      ∀ x, s.cli.flexe[k.val]? = some x → t.cli.flexe[k.val]? = some { active := x.inactive, inactive := x.active })

/-- R197, R198, R200, R207: what an `UP` port's ingress decodes is counted at the port; a frame outside 64 to 16000
bytes is dropped; another enters the buffer of the flow it feeds behind its header, where the buffer has room; words of
an OTUCn follow those that wait.  A PTP frame at a PTP port is extracted, not mapped (R274). -/
def Obligations.ClientIngress : Prop := ∀ (s : State) (src : ClientSrc) (p : Fin 64),
  s.srcPort src = p → s.portState p = 3 → s.lvl.frozen.contains (s.portIsland p) = false →
  (∀ corr uncorr, Completes (exec (.clientFrameIngress src (.rs corr uncorr)) s) fun t => t.cli = s.cli ∧
    t.wide (aCLI_PORT_CNT p 3) = (s.wide (aCLI_PORT_CNT p 3) + corr) % 2 ^ 64 ∧
    t.wide (aCLI_PORT_CNT p 4) = (s.wide (aCLI_PORT_CNT p 4) + uncorr) % 2 ^ 64) ∧
  (∀ bytes err, bytes.length < 64 ∨ 16000 < bytes.length →
    Completes (exec (.clientFrameIngress src (.frame bytes err)) s) fun t => t.cli = s.cli ∧
      t.is (fCLI_PORT_ALARM_SIZE_DROP p) = true ∧ t.is fCLI_ALARM_PORT = true) ∧
  (∀ bytes err f u, 64 ≤ bytes.length → bytes.length ≤ 16000 →
    u = (if fcsGood bytes then (s.portCount p 0 1).portCount p 1 bytes.length
      else ((s.portCount p 0 1).portCount p 1 bytes.length).portCount p 2 1) →
    u.flowOf src = some f → u.ingressBad f = false → u.calWaits src = false → u.ptpTakes src bytes = false →
    u.flowPaused f = false →
    (u.txFmt (u.get (fCLI_FLOW_CFG_LANE f))).family = 0 → u.flowSlots f ≠ 0 →
    bytes.length + 4 + (s.flowX f).buf.length ≤ 16 * u.flowCap f →
    Completes (exec (.clientFrameIngress src (.frame bytes err)) s) fun t =>
      (t.flowX f).buf = (s.flowX f).buf ++ marked (elementHeader bytes.length (if err then 2 else 1) ++ bytes) ∧
      (t.flowX f).rx = (s.flowX f).rx) ∧
  (∀ bytes err u, 64 ≤ bytes.length → bytes.length ≤ 16000 →
    u = (if fcsGood bytes then (s.portCount p 0 1).portCount p 1 bytes.length
      else ((s.portCount p 0 1).portCount p 1 bytes.length).portCount p 2 1) → u.ptpTakes src bytes = true →
    Completes (exec (.clientFrameIngress src (.frame bytes err)) s) fun t => t = u) ∧
  (∀ words frames bip res f u, u = (s.portCount p 0 frames).portCount p 2 bip → u.flowOf src = some f →
    words.length + (s.flowX f).otn.length ≤ u.flowCap f →
    Completes (exec (.clientFrameIngress src (.otuc words frames bip res)) s) fun t =>
      (t.flowX f).otn = (s.flowX f).otn ++ words.map BitVec.toNat ∧ (t.flowX f).res = res.toNat ∧
      (t.flowX f).buf = (s.flowX f).buf)

/-- R198, R199, R205, R435: the egress of a received flow takes one element: after a header with a bad check what waits is
passed over up to the next header that an OFFSET marks; idle and fault headers are four bytes; an element that is not whole
waits; a whole one is taken.  What a port sends is replaced when a flow of its own calls for it or the port's group is in its
safe state, and not on a disabled port; FAULT_TX shows it. -/
def Obligations.ClientEgress : Prop := ∀ (s : State) (f : Fin 256) (p : Fin 64),
  (∀ cfg h v, s.rxCfg f = some cfg → 4 ≤ (s.flowX f).rx.length → h = ((s.flowX f).rx.take 4).map (·.1) → v = fieldBytes h 0 3 →
    (fieldBytes h 3 1 ≠ crc8 24 v → Completes (exec (.egressHeader f) s) fun t =>
      (t.flowX f).rx = ((s.flowX f).rx.drop 1).dropWhile (fun x => !x.2.2) ∧
      ((t.flowX f).insync = true ↔ (t.flowX f).rx ≠ []) ∧ t.is fCLI_ALARM_PORT = true) ∧
    (fieldBytes h 3 1 = crc8 24 v → v / 256 % 4 = 0 ∨ v / 256 % 4 = 3 → Completes (exec (.egressHeader f) s) fun t =>
      (t.flowX f).rx = (s.flowX f).rx.drop 4 ∧ (t.flowX f).fault = (v / 256 % 4 == 3) ∧ t.sent = s.sent) ∧
    (fieldBytes h 3 1 = crc8 24 v → v / 256 % 4 = 1 ∨ v / 256 % 4 = 2 →
      (4 + v / 1024 ≤ (s.flowX f).rx.length → Completes (exec (.egressHeader f) s) fun t =>
        (t.flowX f).rx = (s.flowX f).rx.drop (4 + v / 1024) ∧ (t.flowX f).fault = false) ∧
      ((s.flowX f).rx.length < 4 + v / 1024 → Completes (exec (.egressHeader f) s) fun t => t = s))) ∧
  Completes (exec (.cliFaultAction p) s) (fun t => t.is (fCLI_PORT_STATUS_FAULT_TX p) = s.faultTx p ∧
    t.cli.rxMap = s.cli.rxMap ∧ (∀ g, (t.flowX g).rx = (s.flowX g).rx) ∧
    (s.portState p = 0 → t.is (fCLI_PORT_STATUS_FAULT_TX p) = false) ∧
    (s.portState p ≠ 0 → s.safe (8 + s.portGroup p) = true → t.is (fCLI_PORT_STATUS_FAULT_TX p) = true))

/-- R212 to R217: a failed health test and a reseed show in CIPH_STATUS; a clear load is refused by policy (7), by
references (8) or takes the key (0); a zeroise empties the slot and no other slot; ZERO_ALL empties every slot at once
and its clearing ends; without a reseed for 100 ms the block reports RNG_FAIL. -/
def Obligations.CipherKeys : Prop := ∀ (s : State) (b : Source) (i : Fin 21) (slot : Fin 8192) (key : BitVec 256),
  (s.ciphUp = true →
    Completes (exec .esHealthFail s) (fun t => t.is fCIPH_STATUS_ES_OK = false ∧ t.is fCIPH_ALARM_ES_FAIL = true ∧
      s.RegsBut t [aCIPH_STATUS, aCIPH_ALARM] ∧ t.ciph = s.ciph) ∧
    Completes (exec (.drbgReseed i) s) (fun t => t.is fCIPH_STATUS_ES_OK = true ∧ s.RegsBut t [aCIPH_STATUS] ∧
      t.ciph = { s.ciph with reseed := setAt s.ciph.reseed i s.clk }) ∧
    (s.is fCIPH_STATUS_RNG_FAIL = false → Completes (exec .rngFailTimeout s) fun t =>
      t.ciph.keys = s.ciph.keys ∧ t.is fCIPH_STATUS_RNG_FAIL = true ∧ t.is fCIPH_ALARM_RNG_FAIL = true ∧
      62500000 + s.ciph.reseed.foldl max 0 ≤ t.clk)) ∧
  (s.takes b aCIPH_KEY_CMD = true → s.ciph.fitted = true →
    (s.mayLoad slot (initOf b) = false → Completes (exec (.keyLoadClear b slot key) s) fun t =>
      t.ciph.keys = s.ciph.keys ∧ t.is fCIPH_ALARM_KEY_REFUSED = true ∧ assocGet t.ciph.results slot = some 7) ∧
    (s.mayLoad slot (initOf b) = true → s.keyRefs slot ≠ 0 → Completes (exec (.keyLoadClear b slot key) s) fun t =>
      t.ciph.keys = s.ciph.keys ∧ t.is fCIPH_ALARM_KEY_REFUSED = true ∧ assocGet t.ciph.results slot = some 8) ∧
    (s.mayLoad slot (initOf b) = true → s.keyRefs slot = 0 → s.ciph.zeroing = false →
      Completes (exec (.keyLoadClear b slot key) s) fun t => t.regs = s.regs ∧ t.key slot = some key.toNat ∧
        (∀ k, k ≠ slot.val → t.key k = s.key k) ∧ assocGet t.ciph.results slot = some 0) ∧
    Completes (exec (.keyZeroise b slot) s) (fun t => t.key slot = none ∧ (∀ k, k ≠ slot.val → t.key k = s.key k) ∧
      t.is fCIPH_ALARM_ZEROISED = true ∧ assocGet t.ciph.results slot = some 0)) ∧
  (s.takes b aCIPH_CTRL = true → s.ciph.fitted = true →
    Completes (exec (.zeroAll b) s) fun t => t.ciph.keys = [] ∧ t.ciph.zeroing = true) ∧
  (s.ciph.zeroing = true → Completes (exec .zeroAllClearDone s) fun t => t.ciph.keys = [] ∧ t.ciph.zeroing = false ∧
    t.is fCIPH_ALARM_ZEROISED = true ∧ s.RegsBut t [aCIPH_ALARM])

/-- R219, R221, R226: a direct IV load is refused outside a message context at rest, is refused with an alarm where it
repeats the last, and otherwise is kept, drops an unfinished message and, where the mode counts, sets IV_BASE and zeroes
i; the previous key of a context is released at its time. -/
def Obligations.CipherContexts : Prop := ∀ (s : State) (b : Source) (c : BitVec 16) (iv : BitVec 128) (ch : Bool) (v : Nat),
  ch = chainMode (s.ctxMode c.toNat) → v = (if ch then iv.toNat else iv.toNat / 2 ^ 32) →
  (s.takes b (aCIPH_CTX_IV 3) = true → s.ciph.fitted = true →
    ((s.ctx c.toNat).state = 0 ∨ s.get (fCtxBind c.toNat) ≠ 1 ∨ s.busyCtx c.toNat = true →
      Completes (exec (.ctxIvLoad b c iv) s) fun t => t.ciph = s.ciph ∧ t.regs = s.regs) ∧
    ((s.ctx c.toNat).state ≠ 0 → s.get (fCtxBind c.toNat) = 1 → s.busyCtx c.toNat = false →
      ((s.ctx c.toNat).lastLoad = some (ivValue ch v 0) → Completes (exec (.ctxIvLoad b c iv) s) fun t =>
        t.ciph = s.ciph ∧ t.is fCIPH_ALARM_IV_REPEAT = true ∧ s.RegsBut t [aCIPH_ALARM]) ∧
      ((s.ctx c.toNat).lastLoad ≠ some (ivValue ch v 0) → Completes (exec (.ctxIvLoad b c iv) s) fun t =>
        (t.ctx c.toNat).lastLoad = some (ivValue ch v 0) ∧ (t.ctx c.toNat).open_ = false ∧
        (t.ctx c.toNat).state = (if (s.ctx c.toNat).state = 4 then 1 else (s.ctx c.toNat).state) ∧
        (ch = true → (t.ctx c.toNat).chain = v ∧ t.regs = s.regs) ∧
        (ch = false → t.ctxI c.toNat = 0 ∧ t.ctxIv c.toNat = v)))) ∧
  (∀ p, (s.ctx c.toNat).prev = some p → Completes (exec (.prevKeyRelease c) s) fun t =>
    (t.ctx c.toNat).prev = none ∧ p.release ≤ t.clk ∧ t.regs = s.regs ∧ t.ciph.keys = s.ciph.keys)

/-- R228 to R230: each of the eight submissions queues its operation, by PCIe in the descriptor named and by COP in the
lowest free one; the first job in order starts on a free core, or ends with the code that refuses it; a suspended job
resumes; a running job that ends its segment leaves its descriptor with a code. -/
def Obligations.CipherJobs : Prop := ∀ (s : State) (j : Fin 16) (d : JobDesc) (k : Nat) (b : Source),
  (s.ciph.fitted = true → s.is fCIPH_STATUS_RNG_FAIL = false → s.safe 10 = false →
    (∀ x ∈ [(Instr.jobEnc .pcie j d, 0), (.jobDec .pcie j d, 1), (.jobWrapKey .pcie j d, 2), (.jobUnwrapKey .pcie j d, 3),
        (.jobWrapCtx .pcie j d, 4), (.jobUnwrapCtx .pcie j d, 5), (.jobSaveClear .pcie j d, 6), (.jobRestoreClear .pcie j d, 7)],
      s.takes .pcie (aCIPH_JOB_CTRL j) = true → (s.ciph.jobs.any fun p => p.1 == j.val) = false →
      Completes (exec x.1 s) fun t => t.jobOp j = x.2 ∧ t.jobCtx j = d.ctx.toNat ∧ t.jobLen j = d.len % 2 ^ 32 ∧
        t.jobSrc j = d.src % 2 ^ 32 ∧ t.jobDst j = d.dst % 2 ^ 32 ∧ t.jobFinal j = d.final ∧
        t.get (fCIPH_JOB_STATUS_PHASE j) = 1 ∧ t.get (fCIPH_JOB_STATUS_CODE j) = 0 ∧ t.ciph.keys = s.ciph.keys ∧
        ∃ r, assocGet t.ciph.jobs j = some r ∧ r.phase = 1 ∧ r.owner = .pcie ∧ r.order = s.ciph.jobOrder) ∧
    (∀ x ∈ [(Instr.jobEnc b j d, 0), (.jobDec b j d, 1), (.jobWrapKey b j d, 2), (.jobUnwrapKey b j d, 3),
        (.jobWrapCtx b j d, 4), (.jobUnwrapCtx b j d, 5), (.jobSaveClear b j d, 6), (.jobRestoreClear b j d, 7)],
      b ≠ .pcie → s.takes b (aCIPH_JOB_CTRL j) = true →
      ((List.range 16).find? fun k => !(s.ciph.jobs.any fun p => p.1 == k)) = some k →
      ∀ u, u = (s.putJob k x.2 d).bufPut d.src (d.data.take (262144 - d.src)) → u.is fCIPH_STATUS_RNG_FAIL = false → u.safe 10 = false →
      Completes (exec x.1 s) fun t => t.get (fCIPH_JOB_STATUS_PHASE k) = 1 ∧ t.ciph.keys = s.ciph.keys ∧
        ∃ r, assocGet t.ciph.jobs k = some r ∧ r.phase = 1 ∧ r.owner = b ∧ r.order = s.ciph.jobOrder)) ∧
  (∀ r, s.nextJob = some (k, r) → s.ciphUp = true → s.running.length < 2 →
    (r.phase = 1 → (∀ code stop, s.jobRefusal k = some (code, stop) → code ≠ 0 → code < 16 →
        Completes (exec .jobStart s) fun t => t.get (fCIPH_JOB_STATUS_PHASE k) = 5 ∧ t.get (fCIPH_JOB_STATUS_CODE k) = code ∧
          t.ciph.jobs = assocDel s.ciph.jobs k) ∧
      (s.jobRefusal k = none → Completes (exec .jobStart s) fun t => t.get (fCIPH_JOB_STATUS_PHASE k) = 2 ∧
        ∃ q, assocGet t.ciph.jobs k = some q ∧ q.phase = 2 ∧ q.at_ = s.clk ∧ q.done = 0 ∧ q.order = r.order)) ∧
    (r.phase = 3 → Completes (exec .jobResume s) fun t => t.get (fCIPH_JOB_STATUS_PHASE k) = 2 ∧
      ∃ q, assocGet t.ciph.jobs k = some q ∧ q.phase = 2 ∧ q.at_ = s.clk ∧ q.done = r.done)) ∧
  (∀ r, assocGet s.ciph.jobs j = some r → r.phase = 2 → Completes (exec (.jobSegmentEnd j) s) fun t =>
    assocGet t.ciph.jobs j = none ∧
    t.get (fCIPH_JOB_STATUS_PHASE j) = (if t.get (fCIPH_JOB_STATUS_CODE j) = 0 then 4 else 5))

/-- R236, R237, R241, R244: the monitors of a reference and their judgements, while PLU runs.  A lost monitor ends
QUALIFIED at once; a window that lies wholly after the reference became present and valid, and finds it so, is judged
against FREQ_LIM, with hysteresis; QUALIFIED, FREQ_DISAGREE and ACQ_HOLD change at their times. -/
def Obligations.References : Prop := ∀ (s : State) (r : Fin 32) (freq : Int), s.pluRuns = true →
  Completes (exec (.refValidChange r) s) (fun t => t.is (fPLU_REF_STATUS_VALID r) = s.refValid r ∧
    t.is (fPLU_REF_STATUS_PRESENT r) = s.is (fPLU_REF_STATUS_PRESENT r)) ∧
  Completes (exec (.refActivityLoss r) s) (fun t => t.is (fPLU_REF_STATUS_PRESENT r) = false ∧
    t.is (fPLU_REF_STATUS_QUALIFIED r) = false ∧ t.is (fPLU_REF_STATUS_FREQ_OK r) = false) ∧
  Completes (exec (.refActivityReturn r) s) (fun t => t.is (fPLU_REF_STATUS_PRESENT r) = true ∧
    t.is (fPLU_REF_STATUS_VALID r) = s.refValid r) ∧
  (∀ t0, (s.ref r).from_ = some t0 → t0 + s.windowLen r ≤ s.windowDue r → s.is (fPLU_REF_STATUS_PRESENT r) = true →
    s.refValid r = true →
    Completes (exec (.refFreqWindow r freq) s) fun t => t.nat (aPLU_REF_FREQ r) = ofSigned 32 freq ∧
      t.is (fPLU_REF_STATUS_FREQ_OK r) = (if s.is (fPLU_REF_STATUS_FREQ_OK r)
        then decide (freq.natAbs ≤ 100000 * s.get fPLU_QUAL_FREQ_LIM)
        else decide (10 * freq.natAbs ≤ 9 * (100000 * s.get fPLU_QUAL_FREQ_LIM)))) ∧
  ((s.ref r).from_ = none → Completes (exec (.refFreqWindow r freq) s) fun t => t.regs = s.regs) ∧
  (∀ c, (s.ref r).goodSince = some c → fld (s.reg (aPLU_REF_STATUS r)) 0 3 = 7 → fld (s.reg (aPLU_REF_STATUS r)) 4 2 = 0 →
    s.plu.oscin = true → Completes (exec (.refQualified r) s) fun t => t.is (fPLU_REF_STATUS_QUALIFIED r) = true ∧
      c + cyclesMs * s.get fPLU_QUAL_QUAL_MS ≤ t.clk) ∧
  (∀ c, (s.ref r).agreeSince = some c → s.is (fPLU_REF_STATUS_FREQ_DISAGREE r) = true →
    Completes (exec (.freqDisagreeClear r) s) fun t => t.is (fPLU_REF_STATUS_FREQ_DISAGREE r) = false ∧
      c + cyclesMs * s.get fPLU_QUAL_QUAL_MS ≤ t.clk) ∧
  (∀ c, (s.ref r).holdEnd = some c → Completes (exec (.acqHoldExpiry r) s) fun t =>
    t.is (fPLU_REF_STATUS_ACQ_HOLD r) = false ∧ c ≤ t.clk)

/-- R239, R242 to R244, R246, R248: the states of PLU while it runs: the end of a pull, the lock and its loss, the limits of
ACQUIRING and of HOLDOVER, a wait to restore, the return of OSCIN, and a second of history. -/
def Obligations.PlumbStates : Prop := ∀ (s : State) (err : Int), s.pluRuns = true →
  (s.get fPLU_STATE_STATE = 1 → err.natAbs ≤ s.get fPLU_LOCK_THR →
    (∀ c, s.is fPLU_STATE_PULLING = true → s.settleStep.pullCycles = some c → Completes (exec (.pluPullEnd err) s) fun t =>
      t.is fPLU_STATE_PULLING = false ∧ t.get fPLU_STATE_STATE = 1 ∧ t.nat aPLU_PHASE_ERR = ofSigned 32 err ∧
      t.clk = s.clk + c ∧ t.plu.lockFrom = t.clk ∧
      (s.get fPLU_STATE_SEL_REF < 32 → t.nat aPLU_FREQ = ofSigned 32 t.outFreq ∧
        t.plu.goal = s.int (aPLU_REF_FREQ (s.get fPLU_STATE_SEL_REF))) ∧
      s.RegsBut t [aPLU_STATE, aPLU_PHASE_ERR, aPLU_FREQ, aPLU_PHASE_OFS, aPLU_PHASE_STEP, aPLU_ALARM]) ∧
    (s.is fPLU_STATE_PULLING = false → Completes (exec (.pluLockAchieved err) s) fun t => t.get fPLU_STATE_STATE = 2 ∧
      s.plu.lockFrom + cyclesMs * s.get fPLU_LOCK_TIME ≤ t.clk ∧ t.plu.lockedSince.isSome = true ∧
      (s.get fPLU_STATE_SEL_REF < 32 → t.nat aPLU_FREQ = ofSigned 32 t.outFreq ∧
        t.plu.goal = s.int (aPLU_REF_FREQ (s.get fPLU_STATE_SEL_REF))))) ∧
  (s.get fPLU_STATE_STATE = 2 → s.get fPLU_LOCK_THR < err.natAbs → Completes (exec (.pluLockLoss err) s) fun t =>
    t.get fPLU_STATE_STATE = 1 ∧ t.is fPLU_STATE_PULLING = true ∧ t.selEntry = s.selEntry ∧
    t.nat aPLU_PHASE_ERR = ofSigned 32 err ∧ t.plu.acqFrom = s.clk) ∧
  (s.get fPLU_STATE_STATE = 1 → s.is fPLU_STATE_PULLING = false → s.get fPLU_LOCK_THR < err.natAbs →
    Completes (exec (.pluLockLoss err) s) fun t => t.get fPLU_STATE_STATE = 1 ∧ t.plu.lockFrom = s.clk ∧
      t.nat aPLU_PHASE_ERR = ofSigned 32 err ∧ s.RegsBut t [aPLU_PHASE_ERR]) ∧
  (s.get fPLU_STATE_STATE = 1 → s.selEntry < 16 → s.get fPLU_STATE_SEL_REF < 32 →
    Completes (exec .pluAcqLimit s) fun t => t.is (fPLU_REF_STATUS_ACQ_HOLD (s.get fPLU_STATE_SEL_REF)) = true ∧
      s.plu.acqFrom + cyclesSec * s.nat aPLU_ACQ_LIMIT ≤ t.clk) ∧
  (∀ (e : Fin 16) (c x : Nat) (u : State), (s.ref (s.get (fPLU_PRIO_REF e))).qualAt = some c → s.isCand e = true →
    u = s.waitClk (c + cyclesSec * s.get (fPLU_PRIO_WTR e)) → s.is fPLU_CTRL_EN = true → s.is fPLU_CTRL_FORCE_HOLD = false →
    s.selEntry < 16 → s.isCand s.selEntry = true → s.get (fPLU_PRIO_REF s.selEntry) = s.get fPLU_STATE_SEL_REF →
    u.bestEntry ((List.range 16).filter fun e => u.isCand e &&
      u.get (fPLU_PRIO_PRIO e) < u.get (fPLU_PRIO_PRIO u.selEntry) && u.is (fPLU_PRIO_REVERT e) &&
      (match (u.ref (u.get (fPLU_PRIO_REF e))).qualAt with
       | some c => cyclesSec * u.get (fPLU_PRIO_WTR e) ≤ u.clk - c
       | none => false)) = some x → x < 16 →
    Completes (exec (.wtrExpiry e) s) fun t => t.selEntry = x ∧ t.get fPLU_STATE_STATE = 1 ∧
      t.is fPLU_STATE_PULLING = true ∧ t.is fPLU_ALARM_SWITCH = true) ∧
  (∀ c, s.plu.holdFrom = some c → s.get fPLU_STATE_STATE = 3 → s.get fPLU_HOLD_LIMIT ≠ 0 →
    Completes (exec .holdoverLimit s) fun t => t.get fPLU_STATE_STATE = 4 ∧ t.is fPLU_ALARM_LOST = true ∧
      t.plu.limitHit = true ∧ t.plu.holdFrom = some c ∧ c + cyclesSec * (s.get fPLU_HOLD_LIMIT * 60) < t.clk) ∧
  (s.get fPLU_STATE_STATE = 4 → s.plu.oscin = true → s.is fPLU_STATE_HIST_VALID = false → s.plu.limitHit = false →
    Completes (exec .oscinRestored s) fun t => t.get fPLU_STATE_STATE ≠ 4) ∧
  (∀ t0, s.plu.lockedSince = some t0 → s.get fPLU_STATE_STATE = 2 → Completes (exec (.pluHistorySecond err) s) fun t =>
    t.nat aPLU_FREQ = ofSigned 32 t.outFreq ∧ (∃ sec, t.plu.hist = ((sec, err) :: s.plu.hist).take 4111 ∧ s.tb0Sec ≤ sec) ∧
    t.is fPLU_STATE_HIST_VALID = (s.is fPLU_STATE_HIST_VALID || decide (60 ≤ t.plu.hist.length)) ∧
    s.RegsBut t [aPLU_STATE, aPLU_FREQ])

/-- R242, R245, R246, R249, R250: the writes that control PLU.  CLR_HIST empties the history; EN and FORCE_HOLD are taken,
and clearing EN or setting FORCE_HOLD ends the selection; a write of PLU_PHASE_STEP adds to what remains, which the slope
brings to 0; an output takes its code, but CLKOUT3 while TIME drives it. -/
def Obligations.PlumbControls : Prop := ∀ (s : State) (v : Word) (k : Fin 4),
  (s.takes .pcie aPLU_CTRL = true →
    Completes (exec .pluClrHist s) (fun t => t.plu.hist = [] ∧ t.is fPLU_STATE_HIST_VALID = false ∧
      s.RegsBut t [aPLU_STATE]) ∧
    Completes (exec (.pluEnWrite true) s) (fun t => t.is fPLU_CTRL_EN = true ∧ t.plu.hist = s.plu.hist) ∧
    (s.plu.oscin = true → Completes (exec (.pluEnWrite false) s) fun t => t.is fPLU_CTRL_EN = false ∧ t.plu.hist = [] ∧
      t.get fPLU_STATE_STATE = 0 ∧ t.selEntry = 31 ∧ t.plu.goal = 0 ∧ t.nat aPLU_FREQ = ofSigned 32 t.outFreq) ∧
    Completes (exec (.pluForceHoldWrite false) s) (fun t => t.is fPLU_CTRL_FORCE_HOLD = false ∧
      t.is fPLU_STATE_FORCED = false) ∧
    Completes (exec (.pluForceHoldWrite true) s) (fun t => t.is fPLU_CTRL_FORCE_HOLD = true ∧
      t.is fPLU_STATE_FORCED = s.is fPLU_CTRL_EN ∧ (s.pluRuns = true → s.is fPLU_CTRL_EN = true → t.selEntry = 31))) ∧
  (s.takes .pcie aPLU_PHASE_STEP = true → Completes (exec (.pluPhaseStepWrite v) s) fun t =>
    t.nat aPLU_PHASE_STEP = ofSigned 32 (s.int aPLU_PHASE_STEP - s.stepMoved + toSigned 32 v.toNat) ∧
    t.nat aPLU_PHASE_OFS = ofSigned 32 (clampI (-2147483648) 2147483647 (s.int aPLU_PHASE_OFS + s.stepMoved)) ∧
    s.RegsBut t [aPLU_PHASE_STEP, aPLU_PHASE_OFS, aPLU_PHASE_ERR, aPLU_ALARM]) ∧
  (s.held 12 = false → s.cold = false → s.nat aPLU_PHASE_STEP ≠ 0 → s.get fPLU_LOOP_SLOPE ≠ 0 →
    Completes (exec .pluStepDone s) fun t => t.nat aPLU_PHASE_STEP = 0 ∧ t.is fPLU_ALARM_STEP_DONE = true ∧
      s.plu.stepFrom + divUp s.stepLeft.natAbs s.slopeLim ≤ t.clk) ∧
  (s.takes .pcie (aPLU_CLKOUT k) = true →
    (¬ (k = 3 ∧ s.is (fPLU_CLKOUT_TIME_OWNED 3) = true ∧ fld v 0 3 ≠ 0 ∧ fld v 0 3 ≠ 7) →
      Completes (exec (.clkoutFreqWrite k v) s) fun t => t.get (fPLU_CLKOUT_FREQ k) = fld v 0 3 ∧
        t.get (fPLU_CLKOUT_SQUELCH k) = (if fld v 4 2 = 3 then 2 else fld v 4 2)) ∧
    (k = 3 → s.is (fPLU_CLKOUT_TIME_OWNED 3) = true → fld v 0 3 ≠ 0 → fld v 0 3 ≠ 7 →
      Completes (exec (.clkoutFreqWrite k v) s) fun t => t.is fPLU_ALARM_RES_BUSY = true ∧
        t.get (fPLU_CLKOUT_FREQ k) = s.get (fPLU_CLKOUT_FREQ k)))

/-- R259, R260, R261: a servo in `ACQUIRING` or `LOCKED` that is left without samples for 2 s is in `HOLDOVER`; a source word
is taken, or refused with CFG_REFUSED; an update without samples changes no register; one with samples of a time base in
`ACQUIRING` that may not step reports their mean, and the 16th mean in a row within LOCK_THR brings `LOCKED`. -/
def Obligations.TimeBases : Prop := ∀ (s : State) (x : Fin 3),
  (∀ k, s.cold = false → (s.get (fTbState x) = 2 ∨ s.get (fTbState x) = 3) → s.get (fTIME_TB_SERVO_SRC x) ≠ 4 →
    s.tb[x.val]? = some k → Completes (exec (.servoSampleTimeout x) s) fun t => t.get (fTbState x) = 4 ∧
      t.is fTIME_ALARM_HOLDOVER = true ∧ 2 * cyclesSec + k.servo.lastSample.getD 0 ≤ t.clk) ∧
  (∀ v, s.takes .pcie (aTIME_TB_SERVO x) = true →
    (s.servoOk x v = false → Completes (exec (.servoSrcWrite x v) s) fun t => t.is fTIME_ALARM_CFG_REFUSED = true ∧
      t.tb = s.tb ∧ s.RegsBut t [aTIME_ALARM]) ∧
    (s.servoOk x v = true → Completes (exec (.servoSrcWrite x v) s) fun t =>
      t.get (fTIME_TB_SERVO_SRC x) = fld v 0 3 ∧ t.get (fTIME_TB_SERVO_IDX x) = fld v 4 3 ∧
      t.get (fTIME_TB_SERVO_BW x) = min 4 (fld v 8 3) ∧
      (fld v 0 3 = 0 → s.get (fTIME_TB_SERVO_SRC x) ≠ 4 → s.get (fTbState x) ≠ 0 → t.get (fTbState x) = 1))) ∧
  (∀ k, s.cold = false → s.tb[x.val]? = some k → k.servo.count = 0 → (∀ y : Fin 3, s.get (fTIME_TB_SERVO_SRC y) ≠ 4) →
    Completes (exec (.servoUpdate x) s) fun t => cyclesUpdate + k.servo.update ≤ t.clk ∧ t.regs = s.regs ∧
      (t.servo x).update = t.clk ∧ (t.servo x).count = 0 ∧ (t.servo x).sum = 0) ∧
  (∀ k m, s.cold = false → s.tb[x.val]? = some k → k.servo.count ≠ 0 → (∀ y : Fin 3, s.get (fTIME_TB_SERVO_SRC y) ≠ 4) →
    s.is (fTIME_TB_SERVO_STEP_EN x) = false → s.get (fTbState x) = 2 →
    m = divNear k.servo.sum (unitsPerPs * k.servo.count) → m.natAbs ≤ s.get (fTIME_TB_LOCK_LOCK_THR x) →
    Completes (exec (.servoUpdate x) s) fun t =>
      t.nat (aTIME_TB_OFFSET x) = ofSigned 32 (clampI (-2147483648) 2147483647 m) ∧
      (15 ≤ k.servo.within → t.get (fTbState x) = 3) ∧ (k.servo.within < 15 → t.get (fTbState x) = 2))

/-- R259: an offset written by the host to a servo whose source is the host enters as one sample; a pulse on a 1PPS input is
stamped, and enters as one sample, its distance from the nearest second, of each servo whose source it is. -/
def Obligations.OffsetSamples : Prop := ∀ (s : State),
  (∀ (x : Fin 3) (b : Source) v k, s.takes b (aTIME_TB_HOST_OFS x) = true → s.get (fTIME_TB_SERVO_SRC x) = 5 →
    s.timeAccepts = true → s.tb[x.val]? = some k → Completes (exec (.hostOfsWrite b x v) s) fun t => t.clk = s.clk ∧
      (t.servo x).sum = k.servo.sum + unitsPerPs * toSigned 32 v.toNat ∧ (t.servo x).count = k.servo.count + 1 ∧
      (t.servo x).lastSample = some s.clk) ∧
  (∀ (i : Fin 4) ps, s.up = true → s.get (fPLU_REFIN_CFG_FREQ i) = 0 → s.is (fPLU_REFIN_CFG_EN i) = true → ps ≤ 1599 →
    Completes (exec (.ppsEdge i ps) s) fun t =>
      t.nat (aTIME_PPSIN_TS i) = s.stamp 0 ps / 65536 % 1000000000 ∧
      t.nat (aTIME_PPSIN_TS i + 4) = s.stamp 0 ps / 65536 / 1000000000 % 2 ^ 32 ∧
      ((∀ y : Fin 3, s.get (fTIME_TB_SERVO_SRC y) ≠ 3) → t.tb = s.tb) ∧
      (∀ (x : Fin 3) k r, s.get (fTIME_TB_SERVO_SRC x) = 3 → s.get (fTIME_TB_SERVO_IDX x) = i → s.timeAccepts = true →
        s.tb[x.val]? = some k →
        r = (((k.acc / unitsPerPs + ps : Nat) : Int) - s.int (aTIME_PPSIN_OFS i)) % 1000000000000 →
        (t.servo x).count = k.servo.count + 1 ∧
        (t.servo x).sum = k.servo.sum + unitsPerPs * (if r < 500000000000 then r else r - 1000000000000)))

/-- R262: a time base set or stepped holds its new value in the same PLU cycle, and, where no armed Course may be struck by the
step, raises its STEP alarm and is no longer `LOCKED`;
a time whose nanoseconds are out of range and a step below 0 are refused with CFG_REFUSED. -/
def Obligations.TimeSteps : Prop := ∀ (s : State) (x : Fin 3) (b : Source) (k : TimeBase), s.tb[x.val]? = some k →
  (∀ t80 : Time80, s.takes b (aTIME_TB_SET x) = true →
    (t80.ns ≤ 999999999 → t80.sec < 2 ^ 48 → Completes (exec (.tbSet b x t80) s) fun t =>
      (t.tbx x).acc = unitsPerNs * (1000000000 * t80.sec + t80.ns) ∧ t.clk = s.clk ∧
      (x ≠ 0 ∨ s.crs.armed = none → t.is ⟨aTIME_ALARM, x, 1⟩ = true ∧ (s.get (fTbState x) = 3 → t.get (fTbState x) = 2))) ∧
    (999999999 < t80.ns → Completes (exec (.tbSet b x t80) s) fun t => t.is fTIME_ALARM_CFG_REFUSED = true ∧ t.tb = s.tb)) ∧
  (∀ d, s.takes b (aTIME_TB_STEP x) = true →
    (0 ≤ (k.acc : Int) + d * (unitsPerNs : Int) → (k.acc : Int) + d * unitsPerNs < ((unitsPerNs * (1000000000 * 2 ^ 48) : Nat) : Int) →
      Completes (exec (.tbStep b x d) s) fun t => (t.tbx x).acc = ((k.acc : Int) + d * unitsPerNs).toNat ∧ t.clk = s.clk ∧
        (x ≠ 0 ∨ s.crs.armed = none → t.is ⟨aTIME_ALARM, x, 1⟩ = true ∧ (s.get (fTbState x) = 3 → t.get (fTbState x) = 2))) ∧
    ((k.acc : Int) + d * (unitsPerNs : Int) < 0 → Completes (exec (.tbStep b x d) s) fun t =>
      t.is fTIME_ALARM_CFG_REFUSED = true ∧ t.tb = s.tb))

/-- R242, R263: when OSCIN fails the wait for it shows and a running PLU is in `LOST`; its return is seen by a running PLU; the
wait ends 1 s after the return. -/
def Obligations.OscinEvents : Prop := ∀ (s : State), s.cold = false →
  Completes (exec .oscinFail s) (fun t => t.plu.oscin = false ∧ t.is fTIME_STATUS_OSCIN_WAIT = true ∧
    (s.held 12 = false → t.get fPLU_STATE_STATE = 4 ∧ t.is fPLU_STATE_OSCIN_OK = false ∧ t.is fPLU_ALARM_LOST = true)) ∧
  (s.plu.oscin = false → Completes (exec .oscinReturn s) fun t => t.plu.oscin = true ∧
    t.plu.oscinBack = some s.clk ∧ (s.held 12 = false → t.is fPLU_STATE_OSCIN_OK = true)) ∧
  (∀ c, s.plu.oscin = true → s.plu.oscinBack = some c → s.is fTIME_STATUS_OSCIN_WAIT = true →
    Completes (exec .timeOscinWaitEnd s) fun t => t.is fTIME_STATUS_OSCIN_WAIT = false ∧ cyclesSec + c ≤ t.clk)

/-- R250, R264, R271, R273, R274, R278, R279, R281: the UTC offset changes at its time; a lane falls back to Keystone
timestamps; PTP ports take and send messages; a launch is armed or refused with its code, and leaves; the 1PPS output is
taken, refused and released, and pulses. -/
def Obligations.TimeServices : Prop := ∀ (s : State),
  (s.cold = false → s.utcAt ≠ 0 →
    (s.utcOfs = s.getI fTIME_UTC_NEXT → Completes (exec .utcChange s) fun t => t.nat aTIME_UTC_AT = 0 ∧ t.time.utcHi = 0 ∧
      s.RegsBut t [aTIME_UTC_AT]) ∧
    (s.utcOfs ≠ s.getI fTIME_UTC_NEXT → s.tb0Sec < s.utcAt →
      (s.utcAt : Int) < (((s.lane 0).pmon.ent 0).cur15.start : Int) + ((s.lane 0).pmon.ent 0).cur15.nominal + (s.getI fTIME_UTC_NEXT - s.utcOfs) →
      (s.utcAt : Int) < (((s.lane 0).pmon.ent 0).cur24.start : Int) + ((s.lane 0).pmon.ent 0).cur24.nominal + (s.getI fTIME_UTC_NEXT - s.utcOfs) →
      Completes (exec .utcChange s) fun t => t.nat aTIME_UTC_AT = 0 ∧ t.time.utcHi = 0 ∧
        t.get fTIME_UTC_OFS = ofSigned 16 (s.getI fTIME_UTC_NEXT) ∧ t.is fTIME_ALARM_UTC_CHANGE = true)) ∧
  (∀ n : Lane, s.up = true → s.is (fTIME_LANE_CFG_FALLBACK_EN n) = true → s.is (fTIME_LANE_CFG_KS_RANGE n) = true →
    s.is (fTIME_LANE_STATUS_FALLBACK n) = false → (s.rxFmt n).family = 0 → Completes (exec (.timeFallbackStart n) s) fun t =>
      t.is (fTIME_LANE_STATUS_FALLBACK n) = true ∧ cycles10ms ≤ t.clk ∧
      ((s.lt n).ks = none → s.RegsBut t [aTIME_LANE_STATUS n])) ∧
  (∀ p : Fin 64, s.up = true → s.ptpOn p = true →
    (∀ path, s.ptpPorts.obj (0x2210 + p.val) 6 3 = 9 →
      Completes (exec (.ptpMessageRx p ⟨s.ptpDomain (s.ptpInstance p), .delayResp path⟩) s) fun t =>
        t.obj (0x2210 + p.val) 7 0 = ofSigned 64 path ∧ t.regs = s.regs) ∧
    (∀ st cls parent steps, s.ptpInstance p ≤ 2 →
      Completes (exec (.ptpMessageRx p ⟨s.ptpDomain (s.ptpInstance p), .announce st cls parent steps none⟩) s) fun t =>
        t.obj (0x2210 + p.val) 6 3 = s.ptpState p st % 256 ∧ t.obj (0x2200 + s.ptpInstance p) 7 0 = steps % 65536 ∧
        t.regs = s.regs) ∧
    (∀ m, m.domain ≠ s.ptpDomain (s.ptpInstance p) → Completes (exec (.ptpMessageRx p m) s) fun t => t = s) ∧
    (∀ addr dom, addr = (if Config.ptpForwardable p then 0x011B19000000 else 0x0180C200000E) →
      dom = s.ptpDomain (s.ptpInstance p) →
      (s.ptpPorts.obj (0x2210 + p.val) 6 3 = 6 → Completes (exec (.ptpMessageTx p .announce) s) fun t =>
        t.sent = .ptp p 2 addr dom (s.announce (s.ptpInstance p)) :: s.sent) ∧
      (s.ptpPorts.obj (0x2210 + p.val) 6 3 = 6 → Completes (exec (.ptpMessageTx p .sync) s) fun t =>
        t.sent = (if s.obj (0x2210 + p.val) 5 0 = 0 then
          [.ptp p 3 addr dom (stampBytes (t.stamp (s.ptpInstance p) 0)), .ptp p 0 addr dom (List.replicate 12 0)]
          else [.ptp p 0 addr dom (stampBytes (t.stamp (s.ptpInstance p) 0))]) ++ s.sent) ∧
      (s.ptpPorts.obj (0x2210 + p.val) 6 3 = 9 → Completes (exec (.ptpMessageTx p .delayReq) s) fun t =>
        t.sent = .ptp p 1 addr dom (List.replicate 12 0) :: s.sent ∧
        ∀ c, assocGet s.time.ptpSent (4 * p.val + 1) = some c → c + cyclesSec / 16 ≤ t.clk))) ∧
  (s.takes .pcie aTIME_CTRL = true →
    (∀ v, Completes (exec (.ptpEnWrite v) s) fun t => t.is fTIME_CTRL_PTP_EN = v ∧
      (v = false → ∀ p : Fin 64, t.obj (0x2210 + p.val) 6 3 = 3)) ∧
    (Completes (exec (.ppsEnWrite false) s) fun t => t.is fTIME_CTRL_PPS_EN = false ∧ t.is fTIME_STATUS_PPS_OWNED = false ∧
      t.is (fPLU_CLKOUT_TIME_OWNED 3) = false) ∧
    (s.is fTIME_CTRL_PPS_EN = false → s.get (fPLU_CLKOUT_FREQ 3) = 0 ∨ s.get (fPLU_CLKOUT_FREQ 3) = 7 →
      Completes (exec (.ppsEnWrite true) s) fun t => t.is fTIME_CTRL_PPS_EN = true ∧ t.is fTIME_STATUS_PPS_OWNED = true ∧
        t.is (fPLU_CLKOUT_TIME_OWNED 3) = true) ∧
    (s.is fTIME_CTRL_PPS_EN = false → s.get (fPLU_CLKOUT_FREQ 3) ≠ 0 → s.get (fPLU_CLKOUT_FREQ 3) ≠ 7 →
      Completes (exec (.ppsEnWrite true) s) fun t => t.is fTIME_CTRL_PPS_EN = false ∧ t.is fTIME_ALARM_RES_BUSY = true)) ∧
  (∀ (d : Fin 32) (v : Word), s.takes .pcie (aTIME_LAUNCH_CTRL d) = true → Completes (exec (.launchArm d v) s) fun t =>
    t.get (fTIME_LAUNCH_CTRL_PORT d) = fld v 0 6 ∧ t.get (fTIME_LAUNCH_CTRL_TB d) = min 2 (fld v 8 2) ∧
    (fld v 13 1 = 1 → (t.get (fTIME_LAUNCH_STATUS_PHASE d), t.get (fTIME_LAUNCH_STATUS_CODE d)) =
      (if s.get (fCLI_PORT_CFG_TYPE (fld v 0 6)) ≠ 0 ∨ s.is (fCLI_PORT_CFG_EN (fld v 0 6)) = false
          ∨ s.get (fCLI_PORT_STATUS_STATE (fld v 0 6)) ≠ 3 then (3, 3)
        else if s.time80 (aTIME_LAUNCH_T d) < 5000 + s.tbNs (min 2 (fld v 8 2)) then (3, 1)
        else if 1000000000000 + s.tbNs (min 2 (fld v 8 2)) < s.time80 (aTIME_LAUNCH_T d) then (3, 2)
        else (1, 0))) ∧
    (fld v 13 1 = 0 → s.RegsBut t [aTIME_LAUNCH_CTRL d])) ∧
  (∀ (d : Fin 32) (err : Int), s.up = true → s.get (fTIME_LAUNCH_STATUS_PHASE d) = 1 → Completes (exec (.launchSend d err) s) fun t =>
    t.get (fTIME_LAUNCH_STATUS_PHASE d) = 2 ∧ t.get (fTIME_LAUNCH_STATUS_CODE d) = 0 ∧
    ∃ bytes, t.sent.head? = some (.frame (s.get (fTIME_LAUNCH_CTRL_PORT d)) bytes)) ∧
  (∀ x, s.cold = false → s.is fTIME_CTRL_PPS_EN = true →
    x = (if s.get fTIME_PPS_CFG_TB = 3 then 0 else s.get fTIME_PPS_CFG_TB) →
    (s.is fTIME_PPS_CFG_SQ = false ∨ s.get (fTbState x) = 3 → Completes (exec .ppsPulse s) fun t =>
      t.time.lastPulse = some t.clk ∧ t.regs = s.regs ∧
      ∃ k, t.sent = .pps x k (10000 * s.get fTIME_PPS_CFG_WIDTH) :: s.sent) ∧
    (s.is fTIME_PPS_CFG_SQ = true → s.get (fTbState x) ≠ 3 → Completes (exec .ppsPulse s) fun t =>
      t.time = s.time ∧ t.regs = s.regs ∧ t.sent = s.sent))

/-- R294, R295, R296, R300, R302, R304: the Keystone state follows its enable, and `LINKED` ends after FAR_TIMEOUT; beacons,
ranging requests and management packets queue; a free transmitter sends the first waiting packet, or the pending response,
with the next SEQ. -/
def Obligations.KeystoneTransmitter : Prop := ∀ (s : State) (n : Lane),
  (∀ v, s.takes .pcie (aKSC_CTRL n) = true → Completes (exec (.kscEnWrite n v) s) fun t =>
    t.is (fKSC_CTRL_EN n) = v ∧ (v = false → t.kscState n = 0) ∧
    (v = true → s.laneUp n = true → s.held 11 = false → (s.txFmt n).family = 0 → (s.rxFmt n).family = 0 → s.kscState n = 0 →
      t.kscState n = 1)) ∧
  (s.kscState n = 2 → Completes (exec (.ksFarTimeout n) s) fun t => t.kscState n = 1 ∧ t.is (fKSC_ALARM_LINK_LOST n) = true ∧
    (s.ksc n).lastOk + cyclesMs * clampN 10 10000 (s.get (fKSC_TIMING_FAR_TIMEOUT n)) ≤ t.clk ∧ t.lanes = s.lanes) ∧
  (s.kscState n ≠ 0 → s.is (fTXD_STATE_KS_ON n) = true → s.is (fKSC_CTRL_BEACON_EN n) = true →
    Completes (exec (.beaconDue n) s) fun t => t.regs = s.regs ∧
      (t.ksc n).queue = ((s.ksc n).queue.filter fun p => p.type != 0) ++ [⟨0, s.beacon n, t.clk⟩] ∧
      (∀ c, (s.ksc n).lastBeacon = some c → c + cyclesMs * max 1 (s.get (fKSC_TIMING_BEACON_MS n)) ≤ t.clk)) ∧
  (s.kscState n = 2 → s.is (fTXD_STATE_KS_ON n) = true → s.is (fKSC_CTRL_RANGE_EN n) = true →
    Completes (exec (.rangeReqDue n) s) fun t => t.regs = s.regs ∧ (t.ksc n).reqId = ((s.ksc n).reqId + 1) % 65536 ∧
      (t.ksc n).lastReq = some t.clk ∧
      (t.ksc n).queue = (s.ksc n).queue ++ [⟨2, natBytes 2 (s.ksc n).reqId ++ natBytes 2 0, t.clk⟩] ∧
      (∀ c, (s.ksc n).lastReq = some c → c + cyclesMs * clampN 100 10000 (s.get (fKSC_RANGE_MS_MS n)) ≤ t.clk)) ∧
  (s.kscState n ≠ 0 → s.is (fTXD_STATE_KS_ON n) = true → (s.ksc n).sending = none → s.safe n = false →
    (∀ p, (s.ksc n).resp = none → ksFirst ((s.ksc n).queue.filter fun p => p.type != 1 || s.ksEgress n) = some p →
      Completes (exec (.ksTxStart n) s) fun t =>
      (t.ksc n).queue = (s.ksc n).queue.erase p ∧ (t.ksc n).seq = ((s.ksc n).seq + 1) % 32 ∧ t.is (fKSC_STATE_TX_BUSY n) = true ∧
      (t.ksc n).sending.map (fun x => (x.type, x.start)) = some (p.type, s.clk) ∧ t.clk = s.clk) ∧
    (∀ r, (s.ksc n).resp = some r → (s.ksc n).queue = [] → Completes (exec (.ksTxStart n) s) fun t =>
      (t.ksc n).resp = none ∧ (t.ksc n).seq = ((s.ksc n).seq + 1) % 32 ∧ t.is (fKSC_STATE_TX_BUSY n) = true ∧
      (t.ksc n).sending.map (fun x => (x.type, x.start)) = some (3, t.clk))) ∧
  (∀ p, (s.ksc n).sending = some p → p.type ≠ 0 → Completes (exec (.ksTxEnd n) s) fun t =>
    (t.ksc n).sending = none ∧ t.is (fKSC_STATE_TX_BUSY n) = false ∧ p.end_ ≤ t.clk ∧ (t.ksc n).queue = (s.ksc n).queue) ∧
  (∀ bytes, s.laneUp n = true → s.held 11 = false → s.is (fKSC_CTRL_MGMT_EN n) = true ∨ s.mccHolds n = true →
    bytes.length ≤ 1024 →
    ((if (s.ksc n).sending.isSome then s.is (fKSC_STATE_EGRESS n) else s.ksEgress n) = true → bytes ≠ [] → s.is (fTXD_STATE_KS_ON n) = true → s.kscState n ≠ 0 →
      Completes (exec (.ksMgmtQueue n bytes) s) fun t => t.regs = s.regs ∧
        (t.ksc n).queue = (s.ksc n).queue ++ [⟨1, bytes, s.clk⟩]) ∧
    ((if (s.ksc n).sending.isSome then s.is (fKSC_STATE_EGRESS n) else s.ksEgress n) = false →
      Completes (exec (.ksMgmtQueue n bytes) s) fun t =>
      t.is (fKSC_ALARM_RES_BUSY n) = true ∧ t.lanes = s.lanes)) ∧
  (∀ p, ((s.ksc n).queue.find? fun q => q.type == 1) = some p → Completes (exec (.ksMgmtTimeout n) s) fun t =>
    (t.ksc n).queue = (s.ksc n).queue.erase p ∧ t.is (fKSC_ALARM_TX_DROP n) = true ∧ 100 * cyclesMs + p.at_ ≤ t.clk)

/-- R297, R298, R299, R302, R306: a detection becomes the reception, or beside one the candidate; each phase passes to the
next or gives it up; a header or payload with a bad CRC ends it, a good one is accepted; a request unanswered for 500 ms and
a difference of Courses that persists raise their alarms. -/
def Obligations.KeystoneReceiver : Prop := ∀ (s : State) (n : Lane),
  (∀ chan peak bin snr, s.kscState n ≠ 0 → chan.natAbs ≤ 63 → s.ksBin n peak = some bin →
    ((s.ksc n).rx = none → Completes (exec (.ksDetection n chan peak snr) s) fun t =>
      (t.ksc n).rx = some ⟨chan, bin, snr, 1, 0, 0, []⟩ ∧ (t.ksc n).cand = (s.ksc n).cand ∧ t.get (fKSC_STATE_RX_PHASE n) = 1) ∧
    (∀ r, (s.ksc n).rx = some r → r.chan ≠ chan → r.phase ≠ 4 → (s.ksc n).cand = none →
      Completes (exec (.ksDetection n chan peak snr) s) fun t =>
        (t.ksc n).rx = some r ∧ (t.ksc n).cand = some ⟨chan, bin, snr, 1, 0, 0, []⟩ ∧ t.is (fKSC_STATE_CAND n) = true)) ∧
  (∀ chan peak snr, s.ksBin n peak = none → Completes (exec (.ksDetection n chan peak snr) s) fun t => t = s) ∧
  (∀ r found, (s.ksc n).rx = some r → r.phase = 1 → Completes (exec (.ksPreambleEnd n false found) s) fun t =>
    (found = true → (t.ksc n).rx = some { r with phase := 2 } ∧ (t.ksc n).cand = (s.ksc n).cand) ∧
    (found = false → (t.ksc n).rx = (s.ksc n).cand ∧ (t.ksc n).cand = none)) ∧
  (∀ r found, (s.ksc n).cand = some r → r.phase = 1 → Completes (exec (.ksPreambleEnd n true found) s) fun t =>
    (t.ksc n).rx = (s.ksc n).rx ∧ (t.ksc n).cand = (if found = true then some { r with phase := 2 } else none)) ∧
  (∀ r cand a b fo delay, s.ksWhich n cand = some r → r.phase = 2 →
    nearShift (clampN 10 16 (s.get (fKSC_CFG_RX_SF n))) a (ksSync (clampN 10 16 (s.get (fKSC_CFG_RX_SF n))) (s.nat (aKSC_NETID n) % 4096)).1 = true →
    nearShift (clampN 10 16 (s.get (fKSC_CFG_RX_SF n))) b (ksSync (clampN 10 16 (s.get (fKSC_CFG_RX_SF n))) (s.nat (aKSC_NETID n) % 4096)).2 = true →
    Completes (exec (.ksSyncEnd n cand a b fo delay) s) fun t =>
      (t.ksc n).rx = some { r with phase := 3, fo := fo, stamp := s.stamp 0 0 - 65536 * delay / 1000 } ∧
      (cand = true → (t.ksc n).cand = none ∧ ((s.ksc n).rx ≠ none → t.is (fKSC_ALARM_PREEMPT n) = true))) ∧
  (∀ r header h, (s.ksc n).rx = some r → r.phase = 3 → h = sliceBytes (s.ksRead n header 0 64) 0 8 →
    (crc16 (h.take 6) ≠ fieldBytes h 6 2 →
      Completes (exec (.ksHeaderDecoded n header) s) fun t => t.is (fKSC_ALARM_HDR_ERR n) = true ∧
        (t.ksc n).rx = (s.ksc n).cand ∧ (t.ksc n).cand = none) ∧
    (crc16 (h.take 6) = fieldBytes h 6 2 →
      fieldBytes h 2 2 % 2048 ≠ 0 → Completes (exec (.ksHeaderDecoded n header) s) fun t =>
        (t.ksc n).rx = some { r with phase := 4, header := h } ∧ t.get (fKSC_STATE_RX_PHASE n) = 4)) ∧
  (∀ r block bytes len, (s.ksc n).rx = some r → r.phase = 4 → len = fieldBytes r.header 2 2 % 2048 →
    bytes = s.ksRead n block 576 (8 * (len + 4)) →
    (pcrc (sliceBytes bytes 0 len) ≠ fieldBytes bytes len 4 →
      Completes (exec (.ksPayloadDecoded n block) s) fun t => t.is (fKSC_ALARM_PAY_ERR n) = true ∧
        (t.ksc n).rx = (s.ksc n).cand ∧ (t.ksc n).cand = none) ∧
    (pcrc (sliceBytes bytes 0 len) = fieldBytes bytes len 4 →
      Completes (exec (.ksPayloadDecoded n block) s) fun t => (t.ksc n).lastOk = s.clk ∧
        (t.ksc n).rx = (s.ksc n).cand ∧ (t.ksc n).cand = none)) ∧
  (∀ q rest, (s.ksc n).reqs = q :: rest → Completes (exec (.rangeTimeout n) s) fun t => (t.ksc n).reqs = rest ∧
    t.is (fKSC_ALARM_RNG_FAIL n) = true ∧ 500 * cyclesMs + q.2.2 ≤ t.clk) ∧
  (s.kscState n ≠ 0 → s.get (fKSC_FCRS_INFO_MATCH n) = 3 → s.get (fKSC_FCRS_INFO_STATE n) = 1 →
    1000000 + s.tb0 ≤ s.time80 (aKSC_FCRS_T n) → Completes (exec (.crsDiffTimeout n) s) fun t =>
      t.is (fKSC_ALARM_CRS_DIFF n) = true ∧ s.RegsBut t [aKSC_ALARM n] ∧ t.lanes = s.lanes)

/-- R312, R314, R315, R316, R317, R318, R319, R322, R326: Cornerstone takes tap events and latency samples, ends seconds and
bins, and follows TB0: it is set by its first sample, holds over without samples, and ends a slew; a bin closed is recorded. -/
def Obligations.CornerstoneCounts : Prop := ∀ (s : State), s.cst.ready = true →
  (∀ u rest, s.cst.taps = u :: rest → Completes (exec (.cstTapEvent .lf) s) fun t => t.cst.taps = rest ∧
    (t.cst.lanes.getD u.lane {}).events = (if u.lane < s.cst.lanes.length then (s.cst.lanes.getD u.lane {}).events + 1 else 0) ∧
    t.regs = s.regs) ∧
  (∀ p ns, Completes (exec (.cstTapEvent (.egress p ns)) s) fun t => t.cst = { s.cst with transit := assocPut s.cst.transit p ns } ∧
    t.regs = s.regs) ∧
  (∀ p, s.up = true → Completes (exec (.cstTapEvent (.port p)) s) fun t =>
    (assocGet t.cst.ports p).map (·.events) = some ((((assocGet s.cst.ports p).getD {}).events) + 1) ∧ t.regs = s.regs) ∧
  (s.cst.state = 0 → 0 < s.cst.tb3.step → Completes (exec .cstSecond s) fun t => t.cst.sec = t.tb3Sec ∧
    t.cst.lanes = ((List.range 8).map fun k => { defect := t.up && t.sectionDefect (Fin.ofNat 8 k) }) ∧ t.cst.ports = [] ∧ 1 + s.cst.sec ≤ t.tb3Sec) ∧
  (∀ (n : Lane) (lat : Int) (locked : Bool), s.up = true → s.cst.sample.getD n none = some (lat, locked) →
    Completes (exec (.cstLatencySample n) s) fun t => t.cst.sample = setAt s.cst.sample n none ∧ t.cst.store = s.cst.store ∧
      (∀ x, s.latencyTakers n = [x] → s.cst.state = 3 → locked = true →
        t.cst.cur15 = s.cst.cur15.modEnt x.1 fun e => e.sample (lat + x.2))) ∧
  (∀ osc : Int, s.cold = false → s.get fTIME_STATUS_TB0_STATE ≠ 3 → Completes (exec (.cstTb0Sample osc) s) fun t =>
    t.cst.state = s.cst.state ∧ t.cst.lastUsable = s.cst.lastUsable ∧ t.cst.ofs = (t.cst.tb3.acc : Int) - (t.tbx 0).acc ∧
    t.regs = s.regs) ∧
  (∀ osc : Int, s.cold = false → s.get fTIME_STATUS_TB0_STATE = 3 → s.cst.state = 0 → Completes (exec (.cstTb0Sample osc) s) fun t =>
    t.cst.state = 2 ∧ t.cst.tb3.acc = (t.tbx 0).acc ∧ t.cst.lastUsable = t.clk ∧ t.cst.old = none ∧
    t.get fTIME_STATUS_TB3_STATE = 2) ∧
  (s.cst.state = 3 → Completes (exec .tb3SampleTimeout s) fun t => t.cst.state = 4 ∧ 2 * cyclesSec + s.cst.lastUsable ≤ t.clk ∧
    t.get fTIME_STATUS_TB3_STATE = 4) ∧
  (∀ o : Int × Nat, s.cst.slew = some o → Completes (exec .tb3SlewEnd s) fun t => t.cst.slew = none ∧ t.cst.state = 3 ∧
    t.cst.predicted = 0 ∧ t.clk = max s.clk o.2) ∧
  (s.cst.state ≠ 0 → 0 < s.cst.tb3.step → 0 < s.cst.cur15.end_ → s.cst.cur15.end_ ≤ s.cst.sec → s.cst.cur24.end_ = 0 →
    Completes (exec .cstBoundary s) fun t => s.cst.cur15.end_ ≤ t.tb3Sec ∧
      t.cst.closed = s.cst.closed ++ [{ daily := false, bin := s.cst.cur15, close := 1000000000 * s.cst.cur15.end_
                                        due := 10000000000 + 1000000000 * s.cst.cur15.end_ }]) ∧
  (∀ c rest, s.cst.closed = c :: rest → s.cst.state ≠ 0 → Completes (exec (.cstRecordStore 0) s) fun t => t.cst.closed = rest ∧
    (s.cst.store.mode = 2 ∨ s.cst.store.mode = 1 ∧ c.daily = false → t.cst.store = s.cst.store.finish c.bin.id) ∧
    (s.cst.store.mode = 0 → t.cst.store.nextSeq = (s.cst.store.nextSeq + 1) % 2 ^ 64)) ∧
  (∀ x rest b, s.cst.snaps = x :: rest → x.bins.or s.cstBinsNow = some b → Completes (exec .cstLevelLatch s) fun t =>
    t.cst.snaps = rest ∧ t.cst.bankNext = 1 - s.cst.bankNext ∧ t.cst.store = s.cst.store ∧ t.regs = s.regs ∧
    (∀ k, k < s.cst.banks.length → k = s.cst.bankNext →
      t.cst.banks.getD k (0, []) = (x.number, x.bytes (cstJoined b)))) ∧
  Completes (exec .cstCheckpoint s) (fun t => 10 * cyclesSec + s.cst.checkpoint ≤ t.clk ∧ t.cst.checkpoint = t.clk ∧
    (s.cst.store.checks.length = 2 → t.cst.store.newest.map (·.2.data) = some s.cst.save ∧
      ∀ k x, s.cst.store.newest = some (k, x) → t.cst.store.checks.getD k none = some x))

/-- R312, R327, R329, R331, R453: a Cornerstone reset keeps what its MRAM holds, and a requested one saves a checkpoint first;
it is then ready again from the checkpoint; a patch is submitted and judged; a record is selected. -/
def Obligations.CornerstoneControl : Prop := ∀ (s : State),
  Completes (exec .cstRstN s) (fun t => t.cst.ready = false ∧ t.cst.state = 0 ∧ t.cst.closed = [] ∧
    t.cst.store = { s.cst.store with patchCode := if s.cst.store.patchCode = 3 then 0 else s.cst.store.patchCode } ∧
    t.is fGLB_STATUS_CST_READY = false ∧ t.get fTIME_STATUS_TB3_STATE = 0) ∧
  Completes (exec .vddCstLoss s) (fun t => t.cst.ready = false ∧
    t.cst.store = { s.cst.store with patchCode := if s.cst.store.patchCode = 3 then 0 else s.cst.store.patchCode } ∧
    t.is fGLB_STATUS_CST_READY = false) ∧
  (∀ b : Source, s.takes b aSEC_CST_RST = true →
    (s.cstBound b fSEC_CST_BOUND_RESET = true → s.cst.ready = true → Completes (exec (.cstResetRequest b) s) fun t =>
      t.cst.ready = false ∧ t.is fGLB_STATUS_CST_READY = false ∧
      (s.cst.store.checks.length = 2 → t.cst.store.newest.map (·.2.data) = some s.cst.save)) ∧
    (s.cstBound b fSEC_CST_BOUND_RESET = false → Completes (exec (.cstResetRequest b) s) fun t => t.cst = s.cst)) ∧
  (s.cst.ready = false → Completes (exec .cstReady s) fun t => t.cst.ready = true ∧ t.is fGLB_STATUS_CST_READY = true ∧
    t.cst.store.nextId = s.cst.store.nextId + 2 ∧
    t.cst.store.patch = s.cst.store.pendingPatch.getD s.cst.store.patch ∧ t.cst.store.pendingPatch = none ∧
    (∀ k x v, s.cst.store.newest = some (k, x) → v = s.cst.store.resume x.data → t.cst.closed = v.closed ∧
      (v.timed = true → t.cst.old = some (v.cur15, v.cur24)) ∧
      (v.timed = false → v.cur15.id ≠ 0 → t.cst.cur15 = v.cur15))) ∧
  (s.takes .pcie aCST_PATCH_GO = true →
    (s.cstBound .pcie fSEC_CST_BOUND_PATCH = true → s.cst.ready = true → Completes (exec .cstPatchGo s) fun t =>
      t.cst = { s.cst with verifying := true, store := { s.cst.store with patchCode := 3 } } ∧ t.regs = s.regs) ∧
    (s.cstBound .pcie fSEC_CST_BOUND_PATCH = false → Completes (exec .cstPatchGo s) fun t => t.cst = s.cst ∧
      t.nat aGLB_ACC_LAST = AccCode.prot.code + 256)) ∧
  (∀ good level, s.cst.ready = true → s.cst.verifying = true → Completes (exec (.cstPatchVerified good level) s) fun t =>
    t.cst.verifying = false ∧
    t.cst.store.patchCode = (if good = false then 1 else if level ≤ s.cst.store.patch then 2 else 0) ∧
    t.cst.store.pendingPatch = (if good = true ∧ s.cst.store.patch < level then some level else s.cst.store.pendingPatch)) ∧
  (∀ seq : BitVec 64, s.takes .pcie aCST_SEL = true → Completes (exec (.cstSelWrite .pcie seq) s) fun t =>
    t.cst = { s.cst with sel := seq.toNat } ∧ t.wide aCST_SEL = seq.toNat) ∧
  (∀ (k : Nat) (x : Session) (seq : BitVec 64), s.takes (.cop k) aCST_SEL = true → s.session k = some x →
    Completes (exec (.cstSelWrite (.cop k) seq) s) fun t => t.cst = s.cst ∧ (t.session k).map (·.cstSel) = some seq.toNat)

/-- R337, R338, R339: a timer, its period after it expired last, or an edge of a PWM waveform triggers the converters that select it, or is missed; a pass
starts at its time or at once in `CONT`; a result is stored 1.1 µs after its sampling instant with NEW, which a read clears;
PWM modes exclude each other, and a period, which starts where the last ends, takes PERIOD, and DUTY rounded to a 64th of its
5 ns step (R492). -/
def Obligations.Housekeeping : Prop := ∀ (s : State), s.hkm.convs.length = 2 → s.hkm.pwm.length = 8 →
  (∀ (i : Fin 4) (x : Fin 2), s.hkmOn x = true → s.is (fHKM_TMR_EN i) = true → (x = 1 → s.ilvOn = false) →
    s.get (fHKM_TRIG_SRC x) = 1 → s.get (fHKM_TRIG_IDX x) = i → Completes (exec (.hkmTimerExpiry i) s) fun t =>
      s.hkm.timers.getD i 0 + 625 * max 1 (s.get (fHKM_TMR_PERIOD i)) ≤ t.clk ∧
      ((s.hkmConv x).slot = none → (s.hkmConv x).startAt = none →
        (t.hkmConv x).startAt = some (t.clk + cyclesOfNs (s.get (fHKM_TRIG_DELAY x)))) ∧
      ((s.hkmConv x).slot ≠ none → t.hkmConv x = s.hkmConv x ∧ t.is fHKM_ALARM_TRIG_MISS = true)) ∧
  (∀ (k : Fin 8) (falling : Bool) (x : Fin 2), s.hkmOn x = true → s.pwmMode k ≠ 0 → (x = 1 → s.ilvOn = false) →
    s.get (fHKM_TRIG_SRC x) = 2 → s.get (fHKM_TRIG_IDX x) = k → s.is (fHKM_TRIG_EDGE x) = falling →
    (s.hkmConv x).slot = none → (s.hkmConv x).startAt = none →
    (pwmPeriod (s.get (fHKM_PWM_CFG_PERIOD k)) (s.nat (aHKM_PWM_DUTY k))).2 ≠ 0 →
    Completes (exec (.hkmPwmEdgeTrigger k falling) s) fun t => s.clk ≤ t.clk ∧
      (t.hkmConv x).startAt = some (t.clk + cyclesOfNs (s.get (fHKM_TRIG_DELAY x)))) ∧
  (∀ (k : Fin 8) (falling : Bool), (s.hkm.pwm.getD k (2000, 0)).2 = 0 → s.nat (aHKM_PWM_DUTY k) = 0 →
    Completes (exec (.hkmPwmEdgeTrigger k falling) s) fun t => t.clk = s.clk ∧ t.hkm.convs = s.hkm.convs ∧ t.regs = s.regs) ∧
  (∀ x : Fin 2, s.hkmOn x = true → (s.hkmConv x).slot = none → (x = 1 → s.ilvOn = false) →
    (∀ c, (s.hkmConv x).startAt = some c → Completes (exec (.hkmPassStart x) s) fun t => c ≤ t.clk ∧
      (t.hkmConv x).slot = some 0 ∧ (t.hkmConv x).startAt = none ∧ (s.ilvOn = true → (t.hkmConv 1).slot = some 0) ∧ t.regs = s.regs) ∧
    ((s.hkmConv x).startAt = none → s.get (fHKM_TRIG_SRC x) = 0 → Completes (exec (.hkmPassStart x) s) fun t =>
      t.clk = s.clk ∧ (t.hkmConv x).slot = some 0 ∧ t.regs = s.regs)) ∧
  (∀ (x : Fin 2) (m : HkmSample) (j word : Nat), s.hkmOn x = true → (s.hkmConv x).slot = some j → j < 32 →
    word = ((s.hkmConv x).old).getD (s.nat (aHKM_SLOT (s.hkmList x) j)) →
    Completes (exec (.hkmConversionResult x m) s) fun t => t.is (fHKM_RESULT_NEW x) = true ∧
      (s.hkmConv x).next + cyclesOfNs 1100 ≤ t.clk ∧
      (t.hkmConv x).slot = ((s.hkmConv x).ahead.map (·.1)).or (s.nextSlot (s.hkmList x) j) ∧
      (m.outside = none → t.nat (aHKM_RESULT x) % 65536 =
        s.hkmCode x (if bitsOf word 0 6 < 40 then bitsOf word 8 2 else 0) m.code.toNat) ∧
      (s.is (fHKM_RESULT_NEW x) = true → t.is fHKM_ALARM_OVERRUN = true)) ∧
  (∀ x : Fin 2, s.cold = false → s.allowed .pcie false (aHKM_RESULT x) = true →
    Completes (exec (.hkmResultRead .pcie x) s) fun t => t.is (fHKM_RESULT_NEW x) = false ∧ s.RegsBut t [aHKM_RESULT x] ∧
      t.hkm = s.hkm ∧ t.sent = .completion (aHKM_RESULT x) (s.nat (aHKM_RESULT x)) :: s.sent) ∧
  (∀ (k : Fin 8) (v : Word), s.takes .pcie (aHKM_PWM_CFG k) = true →
    (fld v 0 2 = 1 ∧ s.pwmMode k = 2 ∨ fld v 0 2 = 2 ∧ s.pwmMode k = 1 → Completes (exec (.hkmPwmModeWrite k v) s) fun t =>
      t.pwmMode k = s.pwmMode k ∧ t.is fHKM_ALARM_RES_BUSY = true ∧ t.hkm = s.hkm) ∧
    (fld v 0 2 < 3 → fld v 0 2 + s.pwmMode k ≠ 3 → Completes (exec (.hkmPwmModeWrite k v) s) fun t =>
      t.pwmMode k = fld v 0 2 ∧ t.get (fHKM_PWM_CFG_PERIOD k) = max 20 (fld v 16 16) ∧
      s.RegsBut t [aHKM_PWM_CFG k, aHKM_STATUS])) ∧
  (∀ k : Fin 8, s.hkmRuns = true → s.pwmMode k ≠ 0 → Completes (exec (.pwmPeriodStart k) s) fun t =>
    t.hkm.pwm.getD k (0, 0) = pwmPeriod (s.get (fHKM_PWM_CFG_PERIOD k)) (s.nat (aHKM_PWM_DUTY k)) ∧ t.regs = s.regs ∧
    s.pwmPeriodEnd k ≤ t.clk ∧ (s.hkm.pwmFrom.length = 8 → s.clk ≤ s.pwmPeriodEnd k →
      t.hkm.pwmFrom.getD k 0 = s.hkm.pwmFrom.getD k 0 + 5000000 * (s.hkm.pwm.getD k (2000, 0)).1)) ∧
  (∀ v : Bool, s.takes .pcie aHKM_CTRL = true → Completes (exec (.hkmIlvWrite v) s) fun t => t.is fHKM_CTRL_ILV = v ∧
    t.is fHKM_CTRL_A_EN = s.is fHKM_CTRL_A_EN ∧ t.is fHKM_CTRL_B_EN = s.is fHKM_CTRL_B_EN) ∧
  (∀ (x : Fin 2) (v : Word), s.takes .pcie (aHKM_TRIG x) = true →
    (fld v 0 2 = 3 ∨ fld v 0 2 = 1 ∧ 4 ≤ fld v 2 3 → Completes (exec (.hkmTrigWrite x v) s) fun t =>
      t.reg (aHKM_TRIG x) = s.reg (aHKM_TRIG x) ∧ t.is fHKM_ALARM_CFG_ERR = true ∧ t.hkm = s.hkm) ∧
    (fld v 0 2 = 0 ∨ fld v 0 2 = 2 ∨ fld v 0 2 = 1 ∧ fld v 2 3 < 4 → Completes (exec (.hkmTrigWrite x v) s) fun t =>
      t.reg (aHKM_TRIG x) = v &&& 0xFFFF003F#32 ∧ s.RegsBut t [aHKM_TRIG x] ∧ t.hkm = s.hkm))

/-- R358, R360, R361, R362, R363, R365, R367, R368, R370: calibration ticks, runs, and each end of a run. -/
def Obligations.Calibration : Prop := ∀ (s : State),
  (∀ temps, s.calUp = true → temps.length = 24 → Completes (exec (.calInterpTick temps) s) fun t => t.cal.tick = t.clk ∧
    62500000 + s.cal.tick ≤ t.clk ∧ (∀ d : Fin 5, t.nat (aCAL_DIE_TEMP d) = ofSigned 32 (meanNear (s.dieReadings d temps)))) ∧
  (∀ (b : Source) (v : Word), s.takes b aCAL_CMD = true → v.getLsbD 17 = false →
    (s.is fCAL_STATUS_SAFE = false → s.calState = 0 ∨ s.calState = 5 ∨ s.calState = 6 → fld v 0 6 ≠ 0 →
      Completes (exec (.calStart b v) s) fun t => t.calState = 1 ∧ (t.lane (Fin.ofNat 8 (fld v 8 3))).conv.calAborted = [] ∧
        t.cal = { s.cal with run := some { items := fld v 0 6, lane := fld v 8 3, at_ := s.clk, step := firstStep (fld v 0 6) } }) ∧
    (s.is fCAL_STATUS_SAFE = true → Completes (exec (.calStart b v) s) fun t =>
      t.is fCAL_ALARM_CMD_REFUSED = true ∧ t.cal = s.cal)) ∧
  (∀ b : Source, s.takes b aCAL_CMD = true → s.is fCAL_STATUS_SAFE = true → Completes (exec (.calAbort b) s) fun t =>
    t.is fCAL_ALARM_CMD_REFUSED = true ∧ t.cal = s.cal) ∧
  (∀ (b : Source) (r : CalRun), s.takes b aCAL_CMD = true → s.is fCAL_STATUS_SAFE = false → s.cal.run = some r →
    (s.calState = 2 → r.inStep = true → Completes (exec (.calAbort b) s) fun t =>
      t.cal = { s.cal with run := some { r with abort := true } } ∧ t.regs = s.regs) ∧
    (s.calState = 1 → r.holds = false → Completes (exec (.calAbort b) s) fun t => t.cal = { s.cal with run := none } ∧
      t.calState = 6 ∧ t.get fCAL_STATUS_RESULT = 3 ∧ t.is fCAL_ALARM_RUN_END = true)) ∧
  (∀ (r : CalRun) (temps : List Int) (u : State), s.cal.run = some r → s.calUp = true → s.calState = 1 → u = s.sensRead temps →
    (∀ i, u.precond r.items (Fin.ofNat 8 r.lane) = some i → r.holds = false → (i = 5 → u.sensHistory = true) →
      Completes (exec (.calCheckDone temps) s) fun t =>
        t.cal = { u.cal with run := none } ∧ t.calState = 6 ∧ t.get fCAL_STATUS_RESULT = 2 ∧
        t.get fCAL_STATUS_FAILED_ITEM = i ∧ t.is fCAL_ALARM_PRECOND = true ∧ (i = 5 → u.sensDue r ≤ t.clk)) ∧
    (u.precond r.items (Fin.ofNat 8 r.lane) = some 5 → u.sensHistory = false →
      Completes (exec (.calCheckDone temps) s) fun t => t = u) ∧
    (u.precond r.items (Fin.ofNat 8 r.lane) = none → Completes (exec (.calCheckDone temps) s) fun t => t.calState = 2)) ∧
  (∀ (r : CalRun) (ash dac temps : List Int), s.cal.run = some r → s.calUp = true → s.calState = 2 → r.inStep = true →
    r.holds = false → r.waits = false → (s.lane (Fin.ofNat 8 r.lane)).conv.calAborted = [] →
    (r.abort = true → Completes (exec (.calSliceStepEnd ash dac temps) s) fun t => t.cal.run = none ∧ t.calState = 6 ∧
      t.get fCAL_STATUS_RESULT = 3) ∧
    (r.abort = false → (s.sensRead temps).precond r.items (Fin.ofNat 8 r.lane) = none → stepPos (r.step + 1) = 64 → r.step < 1039 →
      s.spareBusy (Fin.ofNat 8 r.lane) (stepHalf (r.step + 1)) = false →
      Completes (exec (.calSliceStepEnd ash dac temps) s) fun t =>
        t.cal.run.map (fun q => (q.step, q.inStep, q.holds)) = some (r.step + 1, true, false) ∧
        t.get fCAL_STATUS_STEP = (s.get fCAL_STATUS_STEP + 1) % 2 ^ 12)) ∧
  (∀ (r : CalRun) (temps values refs : List Int), s.cal.run = some r → s.calUp = true → s.calState = 2 → r.inBlocks = true →
    (r.block ≤ 7 → nextBlock r.items (r.block + 1) = none → Completes (exec (.calMeasureDone temps values refs) s) fun t =>
      t.calState = 3 ∧ t.cal.run.map (·.old) = some ((List.range 5).map s.calDom)) ∧
    (∀ i, r.block < 7 → nextBlock r.items (r.block + 1) = some i →
      (s.sensRead temps).precond r.items (Fin.ofNat 8 r.lane) = none →
      Completes (exec (.calMeasureDone temps values refs) s) fun t => t.calState = 2 ∧ t.cal.run.map (·.block) = some i) ∧
    (∀ i k, r.block < 7 → nextBlock r.items (r.block + 1) = some i → r.holds = false →
      (s.sensRead temps).precond r.items (Fin.ofNat 8 r.lane) = some k →
      Completes (exec (.calMeasureDone temps values refs) s) fun t => t.calState = 6 ∧ t.cal.run = none ∧
        t.get fCAL_STATUS_RESULT = 2 ∧ t.get fCAL_STATUS_FAILED_ITEM = k)) ∧
  (∀ (r : CalRun) (spur : Int) (skew eye : Nat), s.cal.run = some r → s.calUp = true → s.calState = 3 →
    (Nat.land r.items 3 = 0 → s.is fCAL_QUARRY_WORN = false → Completes (exec (.calQualityDone spur skew eye) s) fun t =>
      t.calState = 4 ∧ t.cal.run = some r) ∧
    (Nat.land r.items 3 ≠ 0 → eye < 7000 → s.is fCAL_CTRL_QGATE = true → r.holds = false →
      Completes (exec (.calQualityDone spur skew eye) s) fun t => t.calState = 6 ∧ t.get fCAL_STATUS_RESULT = 4 ∧
        t.cal.run = none ∧ t.is fCAL_ALARM_QUALITY = true)) ∧
  (∀ (r : CalRun) (failed : Nat), s.cal.run = some r → s.calUp = true → s.calState = 4 → s.sec.nvLow = false →
    Completes (exec (.calStoreDone failed) s) fun t => t.calState = 5 ∧ t.cal.run = none ∧ t.is fCAL_ALARM_RUN_END = true ∧
      t.get fCAL_QUARRY_SPARE = s.get fCAL_QUARRY_SPARE - failed ∧
      (s.get fCAL_QUARRY_SPARE < failed ∨ s.is fCAL_QUARRY_WORN = true →
        t.is fCAL_QUARRY_WORN = true ∧ t.get fCAL_STATUS_RESULT = 5))

/-- R375, R376, R378, R381, R384, R385: the fill ends everywhere at once; a word without a syndrome is delivered as it lies, a
correctable one is corrected, counts and is logged where LOG_CE says so, an uncorrectable one raises its alarm; the bytes of a
partial write take their places in a clean word or in one not yet valid, and that of an uncorrectable word is not made and poisons
it; the scrubber takes a clean word, 2^K island cycles after the last, without a log and moves on, and poisons an
uncorrectable one.  What the owner wrote last comes with the read (`wrote`, log entry 30, the model's choice). -/
def Obligations.MemoryIntegrity : Prop := ∀ (s : State), s.cold = false →
  (s.is fMEM_STATUS_FILL_DONE = false → Completes (exec .memFillDone s) fun t => t.is fMEM_STATUS_FILL_DONE = true ∧
    t.is fGLB_STATUS_FILL_DONE = true ∧ ∀ a : Fin 11, t.is (fMEM_ARR_STATUS_FILL a) = false) ∧
  (∀ (a : Fin 11) (inst : Fin 16) (addr : Nat) (wrote : Option (BitVec 64)) (flips : BitVec 80) (r : MemReader) (u : State)
    (v : Verdict) (e : Nat → Emit), s.is fMEM_STATUS_FILL_DONE = true → addr < memWords a inst → s.arrHere a inst = true →
    (r = .owner → s.arrHeld a inst = false) → (a = 5 → s.mem.half = none) → u = s.memWrote a inst addr wrote →
    v = verdict (syndromes (u.isPoisoned a inst addr) flips.toNat) → u.memBlank a inst addr = false →
    (∀ d, e d = if a = 5 ∧ r = .host .pcie then .completion (busWord inst addr) d else .word a inst addr r d) →
    (v = .clean → Completes (exec (.memArrayRead a inst addr wrote flips r) s) fun t =>
      t = { u with sent := e (Nat.xor (u.memWord a inst addr) (residual .clean flips.toNat)) :: u.sent }) ∧
    (∀ k, v = .dataBit k → Completes (exec (.memArrayRead a inst addr wrote flips r) s) fun t =>
      t.is fMEM_ALARM_CE = true ∧ t.mem = u.mem ∧
      t.sent = e (Nat.xor (u.memWord a inst addr) (residual (.dataBit k) flips.toNat)) :: u.sent ∧
      t.get fMEM_STATUS_LOG_NEXT = (if u.is fMEM_CTRL_LOG_CE = true then (u.get fMEM_STATUS_LOG_NEXT + 1) % 64
        else u.get fMEM_STATUS_LOG_NEXT)) ∧
    (v = .uncorrectable → r = .owner → Completes (exec (.memArrayRead a inst addr wrote flips r) s) fun t =>
      t.is fMEM_ALARM_UE = true ∧ t.get fMEM_STATUS_LOG_NEXT = (u.get fMEM_STATUS_LOG_NEXT + 1) % 64)) ∧
  (∀ (a : Fin 11) (inst : Fin 16) (addr : Nat) (ofs : Fin 8) (bytes : List Byte) (flips : BitVec 80) (v : Verdict),
    s.is fMEM_STATUS_FILL_DONE = true → addr < memWords a inst → bytes ≠ [] → ofs + bytes.length ≤ 8 → bytes.length ≠ 8 → a ≠ 5 →
    s.arrHere a inst = true → v = verdict (syndromes (s.isPoisoned a inst addr) flips.toNat) →
    (a ≠ 6 → s.memBlank a inst addr = true ∨ v = .clean →
      Completes (exec (.memPartialWrite .pcie a inst addr ofs bytes flips) s) fun t => t.regs = s.regs ∧
        t.mem.poison = s.mem.poison ∧ ∀ i, i < bytes.length →
          bitsOf (t.memWord a inst addr) (32 * ((ofs + i) / 4) + 8 * (3 - (ofs + i) % 4)) 8 = (bytes.getD i 0).toNat) ∧
    (s.memBlank a inst addr = false → v = .uncorrectable →
      Completes (exec (.memPartialWrite .pcie a inst addr ofs bytes flips) s) fun t =>
        t.isPoisoned a inst addr = true ∧ t.is fMEM_ALARM_POISON_SET = true ∧ t.is fMEM_ALARM_UE = true)) ∧
  (∀ (a : Fin 11) (inst : Fin 16) (wrote : Option (BitVec 64)) (flips : BitVec 80) (addr : Nat) (u : State) (v : Verdict),
    s.is fMEM_STATUS_FILL_DONE = true → s.safe 15 = false → s.is fMEM_CTRL_SCRUB_EN = true → s.is (fMEM_ARR_CFG_EN a) = true →
    s.arrHere a inst = true → (assocGet s.mem.scrub (16 * a.val + inst.val)).getD 0 = addr → addr + 1 < memWords a inst →
    u = s.memWrote a inst addr wrote → u.memBlank a inst addr = false →
    v = verdict (syndromes (u.isPoisoned a inst addr) flips.toNat) →
    (v = .clean → Completes (exec (.memScrubStep a inst wrote flips false) s) fun t => t.regs = u.regs ∧
      t.mem = { u.mem with scrub := assocPut s.mem.scrub (16 * a.val + inst.val) (addr + 1),
                           scrubAt := assocPut s.mem.scrubAt (16 * a.val + inst.val) t.clk } ∧
      s.scrubDue a inst ≤ t.clk) ∧
    (v = .uncorrectable → Completes (exec (.memScrubStep a inst wrote flips false) s) fun t =>
      t.isPoisoned a inst addr = true ∧ t.is fMEM_ALARM_UE = true ∧
      t.mem.scrub = assocPut s.mem.scrub (16 * a.val + inst.val) (addr + 1)))

/-- R424, R427, R429, R433, R451: a read past BAR0 is Unsupported Request; one that is too long, unaligned or denied is aborted
and logged; a plain register of GLB reads back what a permitted write put into the bits it has. -/
def Obligations.HostAccess : Prop := ∀ (s : State), s.cold = false →
  Completes (exec .pcieUnsupportedRequest s) (fun t => t.sent = .unsupported :: s.sent ∧ t.regs = s.regs) ∧
  (∀ addr size contiguous, addr < barSize → 8 < size → Completes (exec (.pcieReadAbort addr size contiguous) s) fun t =>
    t.nat aGLB_ACC_LAST = AccCode.width.code ∧ t.nat aGLB_ACC_ADDR = addr % 0x4000000 ∧ t.is fGLB_ALARM_ACC = true ∧
    t.sent.head? = some (.abort addr)) ∧
  (∀ addr size contiguous, addr < barSize → size ≤ 8 → alignedAccess addr size contiguous = false →
    Completes (exec (.pcieReadAbort addr size contiguous) s) fun t =>
      t.nat aGLB_ACC_LAST = AccCode.align.code ∧ t.is fGLB_ALARM_ACC = true ∧ t.sent.head? = some (.abort addr)) ∧
  (∀ addr, addr < barSize → addr % 4 = 0 → s.allowed .pcie false addr = false → Completes (exec (.pcieReadAbort addr 4 true) s) fun t =>
    t.nat aGLB_ACC_LAST = AccCode.prot.code ∧ t.is fGLB_ALARM_ACC = true ∧ t.sent.head? = some (.abort addr)) ∧
  Completes (exec (.wideLoRead aGLB_INT_EN 4) s) (fun t => t.sent = .completion aGLB_INT_EN (s.nat aGLB_INT_EN) :: s.sent ∧
    t.regs = s.regs) ∧
  (∀ v, s.writeGate aGLB_INT_EN false = none → Completes (exec (.registerWrite aGLB_INT_EN 4 true v) s) fun t =>
    t.nat aGLB_INT_EN % 2 ^ 17 = v.toNat % 2 ^ 17 ∧ s.RegsBut t [aGLB_INT_EN] ∧ t.sent = s.sent) ∧
  (∀ v, Completes (exec (.registerWrite aGLB_INT_EN 2 true v) s) fun t =>
    t.nat aGLB_ACC_LAST = AccCode.width.code + 256 ∧ t.nat aGLB_INT_EN = s.nat aGLB_INT_EN)

/-- A request of an OP in a session that takes it (R402, R403): well formed, for this node, its tag good and its SEQ acceptable,
and not expedited. -/
def accepted (s : State) (m : CopRx) (op : Nat) (h : CopHeader) (body : List Byte) (x : Session) : Prop :=
  s.copServes m = true ∧ copParse m.bytes = some (h, body) ∧ h.op = op ∧ h.resp = false ∧ h.exp = false ∧ s.copMine h = true ∧
  s.session h.session = some x ∧ copTagOk x.key m.bytes = true ∧ x.accepts h.seq = true

/-- The state once an accepted request is counted and its SEQ is taken. -/
def requestTaken (s : State) (m : CopRx) (h : CopHeader) (x : Session) : State :=
  (s.copCount m).modSession x.id fun x => { x.take h.seq with last := s.clk, line := 2 ≤ m.path.val }

/-- R397, R398, R399, R401, R402, R403, R406: an accepted request takes its SEQ, is worked off, and is answered in its session: the
values read, the status of each entry written, a part of a block, the values of a Level, or `OP_INVALID`; an answer that the
path cannot carry is `TOO_LARGE`. -/
def Obligations.CopOperations : Prop := ∀ (s : State) (m : CopRx) (h : CopHeader) (body : List Byte) (x : Session),
  (∀ es, accepted s m opRead h body x → readEntries body = some es →
    36 + ((requestTaken s m h x).readAll x.id none es).2.length ≤ copLimit m.path → Completes (exec (.copRead m false) s) fun t =>
      t = ((requestTaken s m h x).readAll x.id none es).1.copReply m h x.id 0 ((requestTaken s m h x).readAll x.id none es).2) ∧
  (∀ es, accepted s m opRead h body x → readEntries body = some es →
    copLimit m.path < 36 + ((requestTaken s m h x).readAll x.id none es).2.length → Completes (exec (.copRead m false) s) fun t =>
      t = (requestTaken s m h x).copReply m h x.id Code.tooLarge.num []) ∧
  (∀ ix sub v, accepted s m opWrite h body x → writeEntries 64 body = some [(ix, sub, v)] →
    Completes (exec (.copWrite m false) s) fun t =>
      t = ((requestTaken s m h x).writeObj x.id ix sub v).1.copReply m h x.id 0
        (entryHead ix sub ++ natBytes 2 ((requestTaken s m h x).writeObj x.id ix sub v).2)) ∧
  (∀ v, accepted s m opBlockRead h body x → body.length = 10 → fieldBytes body 4 4 = 0 →
    (requestTaken s m h x).readObj x.id (fieldBytes body 0 2) (fieldBytes body 2 1) none = (requestTaken s m h x, 0, v) →
    v.length ≤ fieldBytes body 8 2 → v.length ≤ 900 → Completes (exec (.copBlockRead m false) s) fun t =>
      t = ((requestTaken s m h x).setBlock x.id none).copReply m h x.id 0
        (entryHead (fieldBytes body 0 2) (fieldBytes body 2 1) ++ natBytes 2 0 ++ natBytes 4 v.length ++ natBytes 4 0
          ++ natBytes 2 v.length ++ v)) ∧
  (accepted s m opBlockWrite h body x → body.length = 14 + fieldBytes body 12 2 → fieldBytes body 8 4 = 0 →
    fieldBytes body 4 4 ≤ 16384 → fieldBytes body 12 2 < fieldBytes body 4 4 → Completes (exec (.copBlockWrite m false) s) fun t =>
      t = ((requestTaken s m h x).setBlock x.id (some ⟨true, fieldBytes body 0 2, fieldBytes body 2 1, fieldBytes body 4 4,
        sliceBytes body 14 (fieldBytes body 12 2), s.clk⟩)).copReply m h x.id 0
          (entryHead (fieldBytes body 0 2) (fieldBytes body 2 1) ++ natBytes 2 0)) ∧
  (∀ es l, accepted s m opLevelRead h body x → 4 ≤ body.length → readEntries (body.drop 4) = some es →
    (requestTaken s m h x).selectLevel (fieldBytes body 0 4) = some l →
    52 + ((requestTaken s m h x).readAll x.id (some l) es).2.length ≤ copLimit m.path →
    Completes (exec (.copLevelRead m false) s) fun t =>
      t = ((requestTaken s m h x).readAll x.id (some l) es).1.copReply m h x.id 0
        (natBytes 4 l.number ++ time80Bytes l.inst ++ natBytes 2 l.causes ++ ((requestTaken s m h x).readAll x.id (some l) es).2)) ∧
  (∀ op, op = 0 ∨ 13 < op → accepted s m op h body x → Completes (exec (.copOpInvalid m false) s) fun t =>
    t = (requestTaken s m h x).copReply m h x.id Code.opInvalid.num [])

/-- R401, R402, R403, R404: SESSION_OPEN under the domain key opens a session with its derived key; SESSION_CLOSE and idleness
end one, with its Level hold and its pending Course; a block transfer left for 1 s is dropped. -/
def Obligations.CopSessions : Prop := ∀ (s : State),
  (∀ (m : CopRx) (h : CopHeader) (body : List Byte), s.copServes m = true → copParse m.bytes = some (h, body) → h.op = opOpen →
    h.resp = false → h.exp = false → s.copMine h = true → body.length = 20 → fieldBytes body 16 4 = s.obj 0x1018 2 0 →
    copTagOk (s.copKey "OPEN" []) m.bytes = true → s.cop.sessions.length < 32 → Completes (exec (.sessionOpen m false) s) fun t =>
      t.cop.sessions = s.cop.sessions ++ [{
        id := s.cop.nextId, peer := h.src, last := s.clk, line := 2 ≤ m.path.val
        key := s.copKey "COP1" (body.take 16 ++ natBytes 16 (s.freeBits 128) ++ natBytes 4 s.cop.nextId) }] ∧
      t.cop.nextId = (if s.cop.nextId + 1 = 2 ^ 32 then 1 else s.cop.nextId + 1)) ∧
  (∀ (m : CopRx) (h : CopHeader) (x : Session), accepted s m opClose h [] x → s.nodeId ≠ 0xFFFF →
    Completes (exec (.sessionClose m false) s) fun t => t.session x.id = none ∧ t.clk = s.clk) ∧
  (∀ (k : Nat) (x : Session), s.session k = some x → Completes (exec (.sessionTimeout k) s) fun t =>
    t.cop.sessions = s.cop.sessions.filter (fun y => y.id != k) ∧
    x.last + cyclesSec * clampN 10 3600 (s.obj 0x1019 1 60) ≤ t.clk ∧
    (∀ b, s.lvl.held = some (.cop k, b) → t.lvl.held = none) ∧
    (∀ p, s.crs.pending = some p → p.owner = .cop k → t.crs.pending = none)) ∧
  (∀ (k : Nat) (x : Session) (b : BlockXfer), s.session k = some x → x.block = some b → Completes (exec (.blockExpire k) s) fun t =>
    cyclesSec + b.at_ ≤ t.clk ∧ t.session k = some { x with block := none } ∧ t.regs = s.regs)

/-- R409, R411, R412, R413, R414, R415: relays, polls, presence, announcements, streams, and domain Levels and Courses. -/
def Obligations.Domain : Prop := ∀ (s : State),
  (∀ (m : CopRx) (h : CopHeader) (body : List Byte) (p : Nat × Nat), s.copServes m = true → copParse m.bytes = some (h, body) →
    h.resp = false → (s.copCount m).copMine h = false → s.copMine h = false → (s.copCount m).pathTo h.dst = some p →
    (s.copCount m).presence h.dst < 2 → (s.copCount m).presence (parentOf h.dst) < 2 → Completes (exec (.copRelay m) s) fun t =>
      assocGet t.cop.relays h.session = some (m.path.val, m.lane.val) ∧
      (s.pathUp p.1 p.2 = true → t.sent.head? = some (.cop p.1 p.2 m.bytes))) ∧
  (∀ (m : CopRx) (h : CopHeader) (body : List Byte) (x : Session) (d : Fin 1251), accepted s m opTimePoll h body x →
    s.nodeId ≠ 0xFFFF → body.length = 4 → Completes (exec (.timePoll m d) s) fun t => t.cop.polled = true ∧
      t.cop.up = (m.path.val, m.lane.val) ∧ t.clk = s.clk + d) ∧
  (∀ (node : BitVec 14) (body : List Byte) (o : PollOut), body.length = 55 →
    (s.cop.out.find? fun o => o.node == node.toNat && o.number == fieldBytes body 0 4) = some o →
    Completes (exec (.timePollAnswer node body) s) fun t => t.cop.out = s.cop.out.filter (fun q => q != o) ∧
      (t.nodeRec node.toNat).map (fun r => (r.presence, r.misses, r.tb0State, r.level)) =
        some (1, 0, fieldBytes body 4 1, fieldBytes body 29 4)) ∧
  (s.cold = false → s.is fGLB_STATUS_MGT_READY = true →
    (roleOf s.nodeId ≠ 0 → roleOf s.nodeId ≠ 3 → s.cop.round = [] → Completes (exec .pollRoundStart s) fun t =>
      t.cop.round = s.children ∧ t.cop.nextPoll = t.cop.lastRound ∧ t.cop.lastRound % (1000000 * s.pollMs) = 0) ∧
    (∀ n rest, s.cop.round = n :: rest → Completes (exec .pollSend s) fun t => t.cop.round = rest ∧
      t.cop.pollNo = (s.cop.pollNo + 1) % 2 ^ 32 ∧ t.cop.nextPoll = 8000 + s.cop.nextPoll ∧
      t.cop.out = s.cop.out ++ [⟨n, t.cop.pollNo, t.tb0⟩] ∧
      t.sent = .request ((s.pathTo n).getD (0, 0)).1 ((s.pathTo n).getD (0, 0)).2 n opTimePoll false (natBytes 4 t.cop.pollNo) :: s.sent) ∧
    (s.cop.polled = false → s.obj 0x9000 4 0 ≠ 0 → Completes (exec .announceDue s) fun t => t.cop.announced = t.tb0 ∧
      t.sent = (s.pathsUp.reverse.map fun p =>
        .request p.1 p.2 (if s.nodeId = 0xFFFF then s.nodeId else parentOf s.nodeId) opAnnounce false []) ++ s.sent) ∧
    (∀ (node : BitVec 14) (path : Fin 4) (lane : Fin 8) (addr : List Byte), s.pathUp path lane = true → s.isChild node.toNat = true →
      ((s.nodeRec node.toNat).getD {}).addr = [] → addr ≠ [] → Completes (exec (.announceReceive node path lane addr) s) fun t =>
        t.nodeRec node.toNat = some { (s.nodeRec node.toNat).getD {} with addr := addr, path := path, lane := lane }) ∧
    (∀ ns rest results, s.nodeId = 0 → s.cop.domain = ns :: rest → Completes (exec (.domainLevelSchedule results) s) fun t =>
      t.cop.domain = rest) ∧
    (∀ (k : Nat) (x : Session) (a : Time80), s.nodeId = 0 → s.session k = some x → 10000000 + s.tb0 ≤ timeNs a →
      Completes (exec (.courseAllocate k a) s) fun t => (t.session k).map (·.alloc) = some t.cop.allocated ∧
        t.cop.allocated ≠ 0 ∧ t.sent = .answer k 0 :: s.sent) ∧
    (∀ (k n : Nat) (r : NodeRec) (number : BitVec 32) (p : Nat × Nat), s.nodeId = 0 → s.cop.nodes = [(n, r)] →
      r.armed = number.toNat → number ≠ 0 → s.pathTo n = some p → s.crs.armed = none →
      Completes (exec (.domainAbort k number) s) fun t => t.regs = s.regs ∧ t.sent = .answer k 0 ::
        .request p.1 p.2 n 7 false (natBytes 1 3 ++ natBytes 1 0 ++ natBytes 4 0 ++ natBytes 10 0) :: s.sent)) ∧
  (∀ (node : BitVec 14) (o : PollOut), (s.cop.out.find? fun o => o.node == node.toNat) = some o →
    Completes (exec (.pollTimeout node) s) fun t => t.cop.out = s.cop.out.filter (fun q => q != o) ∧
      (t.nodeRec node.toNat).map (·.misses) = some (min 65535 (((s.nodeRec node.toNat).getD {}).misses + 1)) ∧
      (2 ≤ ((s.nodeRec node.toNat).getD {}).misses → (t.nodeRec node.toNat).map (·.presence) = some 2)) ∧
  (∀ (m : CopRx) (h : CopHeader) (body : List Byte) (x : Session), accepted s m opNotify h body x → s.nodeId = 0 →
    body.length = 3 → fieldBytes body 0 2 < 16384 → fieldBytes body 2 1 ≤ 3 → Completes (exec (.notify m false) s) fun t =>
      t.nodeRec (fieldBytes body 0 2) =
        some { (s.nodeRec (fieldBytes body 0 2)).getD {} with presence := fieldBytes body 2 1 }) ∧
  (∀ (i : Fin 16) (path : Fin 4) (lane : Fin 8) (d : Nat × Nat) (l : Level), (s.cop.due.find? fun d => d.1 == i.val) = some d →
    s.cold = false → s.is fGLB_STATUS_MGT_READY = true → s.obj (0x1300 + i.val) 1 0 ≠ 0 → s.pathUp path lane = true →
    s.levelNumbered d.2 = some l → Completes (exec (.streamSampleSend i path lane) s) fun t =>
      t.cop.due = s.cop.due.filter (fun q => q.1 != i.val) ∧
      t.obj (0x1300 + i.val) 6 0 = (s.obj (0x1300 + i.val) 6 0 + 1) % 2 ^ 64)

/-- R442, R443, R445, R446, R449, R457, R487, R488, R499: a reset and its release, and the boot sequence step by step: a
stage-1 image and an engine set are taken from a valid bank or the boot ROM waits, the setup record is applied whole or
not, the calibration sets load, and MGT_READY ends the boot hold. -/
def Obligations.BootSequence : Prop := ∀ (s : State),
  Completes (exec .coldReset s) (fun t => t.cold = true ∧ t.bootHold = true ∧ t.sec.rstLow = true ∧ t.lvl = {} ∧ t.crs = {} ∧
    t.sec.svn = s.sec.svn ∧ t.sec.banks = s.sec.banks ∧ t.sec.boot = 0 ∧ t.cst.store = s.cst.store) ∧
  Completes (exec .supplyUndervoltage s) (fun t => t.cold = true ∧ t.sec.under = true) ∧
  Completes (exec .thermalTrip s) (fun t => t.cold = true ∧ t.sec.trip = true ∧ t.sec.therm = true) ∧
  (∀ cool, s.cold = true → s.sec.under = false → Completes (exec (.coldResetRelease cool) s) fun t => t.sec.rstLow = false ∧
    t.cold = (s.sec.trip && !(s.sec.tripLow && cool)) ∧ (t.cold = false → t.bootHold = true ∧ t.sec.boot = s.sec.boot)) ∧
  (s.cold = true → Completes (exec .supplyRestored s) fun t => t.sec.under = false ∧ t.cold = (s.sec.rstLow || s.sec.trip)) ∧
  (s.booting = true → s.is fMEM_STATUS_FILL_DONE = true → s.sec.boot = 0 → s.get fSEC_STATUS_STAGE = 0 →
    Completes (exec .bootStage1Verified s) fun t =>
      (t.sec.boot, t.get fSEC_STATUS_STAGE) = (if (s.takeBank 1).isSome = true then (1, 1) else (0, 15)) ∧
      t.is fSEC_STATUS_BOOT_FAIL = ((s.takeBank 1).isNone || s.is fSEC_STATUS_BOOT_FAIL) ∧
      t.sec.active = (match s.takeBank 1 with | some b => setAt s.sec.active 0 (some b) | none => s.sec.active) ∧
      t.sec.headers = (match s.takeBank 1 with
        | some b => setAt s.sec.headers 0 (imageHead (s.bank 1 b))
        | none => s.sec.headers)) ∧
  (s.booting = true → s.sec.boot = 1 → Completes (exec .bootEnginesLoaded s) fun t =>
    (t.sec.boot, t.get fSEC_STATUS_STAGE) = (if (s.takeBank 2).isSome = true then (2, 2) else (0, 15)) ∧
    t.is fSEC_STATUS_BOOT_FAIL = ((s.takeBank 2).isNone || s.is fSEC_STATUS_BOOT_FAIL) ∧
    t.nat aGLB_FW = (match s.takeBank 2 with | some b => fieldBytes (s.bank 2 b) 8 4 | none => s.nat aGLB_FW) ∧
    t.is fSEC_ALARM_BANK_FALLBACK = (s.takeBank 2 == some (!s.prefB 2) || s.is fSEC_ALARM_BANK_FALLBACK)) ∧
  (s.booting = true → s.is fSEC_RST_STATUS_WARM = false → s.sec.boot = 2 → Completes (exec .setupRecordApplied s) fun t =>
    t.sec.boot = 3 ∧ t.is fSEC_STATUS_REGIONS_ON = true ∧ t.is fSEC_STATUS_WINDOW_HOST = t.is fSEC_CFG_WINDOW_HOST ∧
    (∀ b, s.takeBank 3 = some b → s.applySetup (imagePayload (s.bank 3 b)) = none → t.is fSEC_ALARM_IMG_REFUSED = true) ∧
    (∀ b u, s.takeBank 3 = some b → s.applySetup (imagePayload (s.bank 3 b)) = some u →
      t.is fSEC_STATUS_SETUP_AUTH = s.sec.bound.isSome ∧ t.sec.headers = setAt u.sec.headers 2 (imageHead (s.bank 3 b)))) ∧
  (s.booting = true → s.sec.boot = 3 → Completes (exec .calSetsLoaded s) fun t => t.sec.boot = 4) ∧
  (s.booting = true → s.sec.boot = 5 → Completes (exec .mgtReady s) fun t => t.bootHold = false) ∧
  (∀ above, Completes (exec (.vddNvThreshold above) s) fun t => t.sec.nvLow = !above ∧ t.regs = s.regs) ∧
  (∀ (i : Fin 2) (v : Bool), s.sec.phy.length = 2 → s.cold = false → Completes (exec (.mgtLinkChange i v) s) fun t =>
    t.sec.phy.getD i false = v ∧ t.obj (0x1011 + i) 4 0 = b2n (v && s.obj (0x1011 + i) 1 1 == 1))

/-- R423, R434, R457, R458, R460, R461, R462: the reset of a function and its release, a Lodge core's, warm reset, the check of
configuration parity, a Function Level Reset, and the end of the CIPH blocks. -/
def Obligations.Resets : Prop := ∀ (s : State),
  (∀ (b : Source) (k : Fin 15), s.takes b aSEC_RST_FUNC = true →
    Completes (exec (.funcResetRelease b k) s) (fun t => t.is ⟨aSEC_RST_FUNC, k, 1⟩ = false ∧ s.RegsBut t [aSEC_RST_FUNC]) ∧
    (s.is fGLB_STATUS_MGT_READY = false ∨ s.held k = true → Completes (exec (.funcResetAssert b k) s) fun t =>
      t.is ⟨aSEC_RST_FUNC, k, 1⟩ = true ∧ s.RegsBut t [aSEC_RST_FUNC]) ∧
    (s.is fGLB_STATUS_MGT_READY = true → s.held k = false → s.lvl.frozen = [] → Completes (exec (.funcResetAssert b k) s) fun t =>
      t.is ⟨aSEC_RST_FUNC, k, 1⟩ = true ∧ t.held k = true)) ∧
  (∀ k : Fin 15, s.cold = false → s.is fGLB_STATUS_MGT_READY = true → s.held k = true → s.crs.armed = none → s.sec.corrupt = [] →
    s.is ⟨aSEC_RST_FUNC, k, 1⟩ = false → Completes (exec (.funcResetExit k) s) fun t => t.held k = false) ∧
  (∀ (b : Source) (k : Fin 8), s.takes b aSEC_RST_LODGE = true → Completes (exec (.lodgeCoreReset (some b) k) s) fun t =>
    t.is ⟨aSEC_RST_LODGE, k, 1⟩ = true ∧ (s.is fGLB_STATUS_MGT_READY = true → t.is (fLodge k) = true)) ∧
  (∀ k : Fin 8, s.cold = false → Completes (exec (.lodgeCoreReset none k) s) fun t => t.is (fLodge k) = true) ∧
  (∀ (k : Fin 8) (good : Bool), s.cold = false → s.is fGLB_STATUS_MGT_READY = true → s.is (fLodge k) = true →
    s.is ⟨aSEC_RST_LODGE, k, 1⟩ = false → Completes (exec (.lodgeCoreRestart k good) s) fun t => t.is (fLodge k) = !good ∧
      (good = false → t.is fSEC_ALARM_IMG_MISMATCH = true)) ∧
  (∀ b : Source, s.takes b aSEC_CTRL = true →
    Completes (exec (.ciphUnblock b) s) (fun t => t.ciph = { s.ciph with blocked := [], blockSent := [] } ∧
      t.regs = s.regs) ∧
    (s.is fGLB_STATUS_MGT_READY = true → Completes (exec (.warmResetRequest b) s) fun t => t.sec = { s.sec with warm := true } ∧
      t.is fSEC_RST_STATUS_WARM_WAIT = s.crs.armed.isSome ∧ s.RegsBut t [aSEC_RST_STATUS])) ∧
  (s.cold = false → s.sec.warm = true → s.crs.armed = none → s.lvl.frozen = [] → Completes (exec .warmResetStart s) fun t =>
    t.sec.warm = false ∧ t.sec.boot = 0 ∧ t.crs.pending = none ∧ t.crs.validating = none ∧ t.lvl.held = none ∧
    t.is fSEC_RST_STATUS_WARM = true ∧ t.is fGLB_STATUS_MGT_READY = false ∧ t.get fSEC_STATUS_STAGE = 0 ∧
    ∀ k : Fin 15, k ≠ 12 → t.held k = true) ∧
  (∀ (addr : Nat) (flips : Word), s.cold = false → hasParity addr = true → s.sec.corrupt = [] →
    (parityFinds flips.toNat = false → Completes (exec (.cfgParityScan addr flips) s) fun t => t.reg addr = s.reg addr ^^^ flips ∧
      s.RegsBut t [addr]) ∧
    (parityFinds flips.toNat = true → addr / 0x100000 = 0 ∨ addr / 0x100000 = 1 → addr ≠ aGLB_ALARM → addr ≠ aGLB_PAR_ADDR →
      s.is fGLB_ALARM_CFG_PARITY = false → Completes (exec (.cfgParityScan addr flips) s) fun t =>
        t.is fGLB_ALARM_CFG_PARITY = true ∧ t.nat aGLB_PAR_ADDR = addr)) ∧
  Completes (exec .pcieFlr s) (fun t => t.msixPending = [] ∧ t.nat aGLB_INT_EN = 0 ∧ t.nat aGLB_ACC_LAST = 0 ∧
    (∀ k, s.lvl.held = some (.pcie, k) → t.lvl.held = none))

/-- R445, R446, R448, R465: an image is begun, appended to chunk by chunk, and committed or cancelled; the commit writes the
bank not in use and prefers it where the image is valid, and refuses it otherwise; a recovery image runs from memory. -/
def Obligations.Images : Prop := ∀ (s : State) (kind : BitVec 2) (len : BitVec 16),
  (∀ b : Source, s.takes b aSEC_IMG_CTRL = true → s.is fCAL_QUARRY_WORN = false → s.is fSEC_IMG_STATUS_BUSY = false →
    Completes (exec (.imgBegin b kind len) s) (fun t => t.sec = { s.sec with upload := some (clampN 1 3 kind.toNat, []) } ∧
      t.get fSEC_IMG_STATUS_CODE = imgOk ∧ t.get fSEC_IMG_STATUS_CHUNKS = 0) ∧
    (∀ k bs, s.sec.upload = some (k, bs) → bs.length + max 1 len.toNat ≤ 1024 + imageMax k →
      Completes (exec (.imgAppend b kind len) s) fun t =>
        t.sec = { s.sec with upload := some (k, bs ++ s.imgWindow (max 1 len.toNat)) } ∧ t.get fSEC_IMG_STATUS_CODE = imgOk ∧
        t.get fSEC_IMG_STATUS_CHUNKS = (s.get fSEC_IMG_STATUS_CHUNKS + 1) % 65536) ∧
    (∀ k bs, s.sec.upload = some (k, bs) → Completes (exec (.imgCommit b kind len) s) fun t =>
      t.sec = s.sec ∧ t.is fSEC_IMG_STATUS_BUSY = true)) ∧
  (∀ b : Source, s.takes b aSEC_IMG_CTRL = true → Completes (exec (.imgCancel b kind len) s) fun t =>
    t.sec = { s.sec with upload := none } ∧ t.is fSEC_IMG_STATUS_BUSY = false ∧ t.get fSEC_IMG_STATUS_CODE = imgOk) ∧
  (∀ b : Source, s.takes b aSEC_IMG_CTRL = true → s.get fSEC_STATUS_STAGE = 15 → s.sec.boot = 0 →
    Completes (exec (.imgRunRecovery b kind len) s) fun t =>
      t.get fSEC_IMG_STATUS_CODE = s.imageCode 1 (s.imgWindow 65536) ∧
      t.is fSEC_STATUS_RECOVERY = (s.imageCode 1 (s.imgWindow 65536) == imgOk || s.is fSEC_STATUS_RECOVERY) ∧
      t.get fSEC_STATUS_STAGE = (if s.imageCode 1 (s.imgWindow 65536) = imgOk then 1 else 15) ∧
      t.sec = (if s.imageCode 1 (s.imgWindow 65536) = imgOk then
        { s.sec with boot := 1, active := setAt s.sec.active 0 none,
                     headers := setAt s.sec.headers 0 (imageHead (s.imgWindow 65536)) } else s.sec)) ∧
  (∀ (failed k : Nat) (bs : List Byte), s.cold = false → s.is fSEC_IMG_STATUS_BUSY = true → s.sec.nvLow = false →
    s.sec.upload = some (k, bs) →
    (s.commitCode k bs ≠ imgOk → Completes (exec (.imgCommitDone failed) s) fun t => t.sec = { s.sec with upload := none } ∧
      t.is fSEC_ALARM_IMG_REFUSED = true ∧ t.is fSEC_IMG_STATUS_BUSY = false ∧ t.get fSEC_IMG_STATUS_CODE = s.commitCode k bs % 16) ∧
    (s.commitCode k bs = imgOk → s.get fCAL_QUARRY_SPARE < failed → Completes (exec (.imgCommitDone failed) s) fun t =>
      t.sec = { s.sec with upload := none } ∧ t.is fSEC_ALARM_IMG_REFUSED = true ∧ t.is fCAL_QUARRY_WORN = true) ∧
    (s.commitCode k bs = imgOk → failed ≤ s.get fCAL_QUARRY_SPARE → s.is fCAL_QUARRY_WORN = false →
      Completes (exec (.imgCommitDone failed) s) fun t =>
      t.get fSEC_IMG_STATUS_CODE = imgOk ∧ t.is fSEC_IMG_STATUS_BUSY = false ∧ t.sec.upload = none ∧
      t.sec.banks = assocPut s.sec.banks (2 * k + b2n !((s.sec.active.getD (k - 1) none).getD (s.prefB k))) bs ∧
      t.sec.prefs = setAt s.sec.prefs (k - 1) !((s.sec.active.getD (k - 1) none).getD (s.prefB k))))

/-- R456: a request records the nonce and takes BUSY, and one during generation is refused; the quote ready clears BUSY, sets
READY and ATT_DONE, and shows the body and its ECDSA signature in SEC_QUOTE. -/
def Obligations.Attestation : Prop := ∀ (s : State),
  (∀ (b : Source) (nonce : BitVec 256), s.takes b aSEC_ATT_CMD = true → s.is fSEC_ATT_STATUS_BUSY = false →
    Completes (exec (.attRequest b nonce) s) fun t => t.sec = { s.sec with quote := some (natBytes 32 nonce.toNat) } ∧
      t.is fSEC_ATT_STATUS_BUSY = true ∧ t.is fSEC_ATT_STATUS_READY = false) ∧
  (∀ nonce : BitVec 256, s.takes .pcie aSEC_ATT_CMD = true → s.is fSEC_ATT_STATUS_BUSY = true →
    Completes (exec (.attRequest .pcie nonce) s) fun t => t.sec = s.sec ∧ t.nat aGLB_ACC_LAST = AccCode.resBusy.code + 256) ∧
  (∀ nonce, s.cold = false → s.sec.quote = some nonce → Completes (exec .attQuoteReady s) fun t =>
    t.sec = { s.sec with quote := none } ∧ t.is fSEC_ATT_STATUS_BUSY = false ∧ t.is fSEC_ATT_STATUS_READY = true ∧
    t.is fSEC_ALARM_ATT_DONE = true ∧ t.free = s.free + 1 ∧
    ∃ k, 1 ≤ k ∧ ∀ i, i < 113 →
      t.reg (aSEC_QUOTE i) = byteAreaWord (s.quoteBody nonce ++ ecdsaSignWith idPrivate k (s.quoteBody nonce)) i)

/-- R454: in the setup window, and with no hash fused, the write of 0xB1 fuses the 64 bytes of SEC_CUST_HASH0–15; with a
hash already fused, or with the window closed, it is refused and logs `ACC_LOCKED`; a cold reset binds the fused hash. -/
def Obligations.CustomerHash : Prop := ∀ s : State,
  (s.takes .pcie aSEC_FUSE_CMD = true →
    (s.sec.cust = none → s.is fSEC_STATUS_SEC_LOCK = false → Completes (exec .customerHashFuse s) fun t =>
      t.sec = { s.sec with cust := some ((List.range 16).flatMap fun w => natBytes 4 (s.nat (aSEC_CUST_HASH w))) } ∧
      t.is fSEC_STATUS_CUST_HASH = true ∧ s.RegsBut t [aSEC_STATUS] ∧ t.sent = s.sent) ∧
    (s.sec.cust ≠ none ∨ s.is fSEC_STATUS_SEC_LOCK = true → Completes (exec .customerHashFuse s) fun t =>
      t.sec = s.sec ∧ t.nat aGLB_ACC_LAST = AccCode.locked.code + 256 ∧ t.is fGLB_ALARM_ACC = true)) ∧
  Completes (exec .coldReset s) fun t => t.cold = true ∧ t.sec.bound = s.sec.cust ∧ t.sec.cust = s.sec.cust

/-- The minimum SVN that the closing of the setup window leaves: that of the stage-1 image in force, up to 64, where the image
asks for it and it is above the fused one. -/
def svnAfter (s : State) : Nat :=
  if bitOf (fieldBytes (s.sec.headers.getD 0 []) 6 2) 0 = true ∧ s.sec.svn < min 64 (imageSvn (s.sec.headers.getD 0 []))
    then min 64 (imageSvn (s.sec.headers.getD 0 [])) else s.sec.svn

/-- R447: where the setup window closes, at boot, by a write or at its time, stage 1 raises the minimum SVN to that of an image
in force that carries ADVANCE_SVN; no command lowers it. -/
def Obligations.MinimumSvn : Prop := ∀ s : State,
  (s.booting = true → s.sec.boot = 4 → s.is fSEC_CFG_WINDOW_HOST = false → s.is fSEC_STATUS_SEC_LOCK = false →
    Completes (exec .secLockSet s) fun t => t.sec.svn = svnAfter s ∧ t.sec.boot = 5) ∧
  (s.is fSEC_STATUS_SEC_LOCK = false →
    (∀ by_, s.takes by_ aSEC_CTRL = true → Completes (exec (.secLockWrite by_) s) fun t => t.sec.svn = svnAfter s) ∧
    (∀ c, s.cold = false → s.sec.windowFrom = some c → Completes (exec .windowTimeout s) fun t => t.sec.svn = svnAfter s)) ∧
  (∀ c : Instr, Completes (exec c s) fun t => s.sec.svn ≤ t.sec.svn)

/-- The setup window is closed: the locks show it, and nothing waits for its end. -/
def windowClosed (t : State) : Prop := t.sec.windowFrom = none ∧ t.is fSEC_STATUS_SEC_LOCK = true ∧
  t.is fGLB_STATUS_SEC_LOCK = true ∧ t.is fSEC_STATUS_WINDOW_HOST = false

/-- R450: stage 1 closes the setup window at boot where the record leaves WINDOW_HOST = 0; an initiator's write closes it, and
WINDOW_MS ms after MGT_READY it closes by itself; of the registers only the two status words change, one lock bit in each,
and SVN. -/
def Obligations.SetupWindow : Prop := ∀ s : State, s.is fSEC_STATUS_SEC_LOCK = false →
  (s.booting = true → s.sec.boot = 4 → s.is fSEC_CFG_WINDOW_HOST = false → Completes (exec .secLockSet s) fun t =>
    windowClosed t ∧ t.sec.boot = 5 ∧ s.RegsBut t [aSEC_STATUS, aGLB_STATUS]) ∧
  (∀ by_, s.takes by_ aSEC_CTRL = true → Completes (exec (.secLockWrite by_) s) fun t =>
    windowClosed t ∧ t.sec.boot = s.sec.boot ∧ s.RegsBut t [aSEC_STATUS, aGLB_STATUS]) ∧
  (∀ c, s.cold = false → s.sec.windowFrom = some c → Completes (exec .windowTimeout s) fun t =>
    windowClosed t ∧ c + cyclesMs * max 1 (s.get fSEC_CFG_WINDOW_MS) ≤ t.clk ∧ s.RegsBut t [aSEC_STATUS, aGLB_STATUS])

/-- R199, R207: a good element whose KIND is 1 leaves at the UP port its flow feeds, byte for byte, and a KIND 2 element with
its check sequence inverted, where neither the port's fault replacement nor 64 KiB of egress buffer stands in its way. -/
def Obligations.EgressSendsElement : Prop := ∀ (s : State) (f : Fin 256) (cfg v : Nat) (h el : List Byte),
  s.rxCfg f = some cfg → bitOf cfg 1 = false → h = ((s.flowX f).rx.take 4).map (·.1) → v = fieldBytes h 0 3 →
  fieldBytes h 3 1 = crc8 24 v → v / 256 % 4 = 1 ∨ v / 256 % 4 = 2 → 4 + v / 1024 ≤ (s.flowX f).rx.length →
  el = (((s.flowX f).rx.take (4 + v / 1024)).drop 4).map (·.1) →
  s.portState (bitsOf cfg 2 6) ≠ 0 → s.is (fCLI_PORT_STATUS_FAULT_TX (bitsOf cfg 2 6)) = false →
  s.egressFill (bitsOf cfg 2 6) + v / 1024 ≤ 65536 →
  Completes (exec (.egressHeader f) s) fun t =>
    (t.flowX f).rx = (s.flowX f).rx.drop (4 + v / 1024) ∧ (t.flowX f).fault = false ∧
    t.sent.head? = some (.frame (bitsOf cfg 2 6)
      (if v / 256 % 4 = 2 ∨ ((s.flowX f).rx.take (4 + v / 1024)).any (fun x => x.2.1) = true then fcsInvert el else el))

/-- R205, R435: the fault action of a port shows in FAULT_TX whether what the port sends is replaced, by local fault or, on an
OTUCn port, by ODUCn-AIS; in the safe state of the port's group every FlexE client it sends is replaced, and where no flow of
the port calls for it none is. -/
def Obligations.FaultReplacement : Prop := ∀ (s : State) (p : Fin 64), Completes (exec (.cliFaultAction p) s) fun t =>
  t.is (fCLI_PORT_STATUS_FAULT_TX p) = s.faultTx p ∧
  (s.get (fCLI_PORT_CFG_TYPE p) ≠ 1 → s.is (fCLI_PORT_STATUS_FAULT_TX p) ≠ s.faultTx p →
    t.sent.head? = some (.replace p (s.get (fCLI_PORT_CFG_TYPE p) == 2) (s.faultTx p))) ∧
  (s.safe (8 + s.portGroup p) = true → ∀ m ∈ s.portFlows p, bitOf m.2.1 1 = true → (t.flowX m.1).replaced = true) ∧
  ((∀ m ∈ s.portFlows p, s.replaceDue p m = false) → ∀ m ∈ s.portFlows p, bitOf m.2.1 1 = true →
    (t.flowX m.1).replaced = false)

/-- R378, R381, R382, R384: the end of the fill; a partial write to a clean word of a host window merges its bytes there and
leaves the rest of the word, and one to a poisoned word is refused; a read of a poisoned word is logged with KIND 6, and PCIe
is answered with Completer Abort. -/
def Obligations.ArrayAccess : Prop := ∀ (s : State), s.cold = false →
  (s.is fMEM_STATUS_FILL_DONE = false → Completes (exec .memFillDone s) fun t => t.is fMEM_STATUS_FILL_DONE = true ∧
    t.is fGLB_STATUS_FILL_DONE = true ∧ t.mem = s.mem) ∧
  (∀ (b : Source) (inst : Fin 16) (addr : Nat) (ofs : Fin 8) (bytes : List Byte) (flips : BitVec 80),
    s.is fMEM_STATUS_FILL_DONE = true → s.arrHere 5 inst = true → inst.val = 10 ∨ inst.val = 12 → addr < memWords 5 inst →
    bytes ≠ [] → ofs + bytes.length ≤ 8 → bytes.length ≠ 8 → s.mem.half = none →
    s.takes b (winAddr inst addr + ofs / 4 * 4) = true →
    (verdict (syndromes (s.isPoisoned 5 inst addr) flips.toNat) = .clean →
      Completes (exec (.memPartialWrite b 5 inst addr ofs bytes flips) s) fun t => t.mem = s.mem ∧
        s.RegsBut t [winAddr inst addr, winAddr inst addr + 4] ∧
        ∀ i, i < bytes.length →
          t.get ⟨winAddr inst addr + (ofs + i) / 4 * 4, 8 * (3 - (ofs + i) % 4), 8⟩ = (bytes.getD i 0).toNat) ∧
    (verdict (syndromes (s.isPoisoned 5 inst addr) flips.toNat) = .poisoned →
      Completes (exec (.memPartialWrite b 5 inst addr ofs bytes flips) s) fun t => t.mem = s.mem ∧
        t.reg (winAddr inst addr) = s.reg (winAddr inst addr) ∧
        t.reg (winAddr inst addr + 4) = s.reg (winAddr inst addr + 4) ∧
        t.get fMEM_STATUS_LOG_NEXT = (s.get fMEM_STATUS_LOG_NEXT + 1) % 64)) ∧
  (∀ (inst : Fin 16) (addr : Nat) (flips : BitVec 80), s.is fMEM_STATUS_FILL_DONE = true → s.arrHere 5 inst = true →
    inst.val = 10 ∨ inst.val = 12 → addr < memWords 5 inst → s.mem.half = none →
    verdict (syndromes (s.isPoisoned 5 inst addr) flips.toNat) = .poisoned →
    Completes (exec (.memArrayRead 5 inst addr none flips (.host .pcie)) s) fun t => t.is fMEM_ALARM_POISON_READ = true ∧
      t.get fMEM_STATUS_LOG_NEXT = (s.get fMEM_STATUS_LOG_NEXT + 1) % 64 ∧
      t.sent.head? = some (.abort (winAddr inst addr))) ∧
  (∀ (a : Fin 11) (inst : Fin 16) (flips : BitVec 80) (addr : Nat), s.is fMEM_STATUS_FILL_DONE = true → s.safe 15 = false →
    s.is fMEM_CTRL_SCRUB_EN = true → s.is (fMEM_ARR_CFG_EN a) = true → s.arrHere a inst = true →
    (assocGet s.mem.scrub (16 * a.val + inst.val)).getD 0 = addr → addr + 1 < memWords a inst →
    verdict (syndromes (s.isPoisoned a inst addr) flips.toNat) = .clean →
    Completes (exec (.memScrubStep a inst none flips false) s) fun t => t.regs = s.regs ∧
      t.mem.scrub = assocPut s.mem.scrub (16 * a.val + inst.val) (addr + 1) ∧ t.mem.poison = s.mem.poison)

/-- R454: in the setup window, while no hash is fused, the write to SEC_FUSE_CMD fuses the 64 bytes in SEC_CUST_HASH; they bind
from the next cold reset, and no further write fuses others. -/
def Obligations.FuseBindsAtColdReset : Prop := ∀ (s : State), s.takes .pcie aSEC_FUSE_CMD = true → s.sec.cust = none →
  s.is fSEC_STATUS_SEC_LOCK = false → ∃ t, exec .customerHashFuse s = .next t ∧ t.sec.bound = s.sec.bound ∧
    ∃ h, t.sec.cust = some h ∧ h = ((List.range 16).flatMap fun w => natBytes 4 (s.nat (aSEC_CUST_HASH w))) ∧
      (Completes (exec .customerHashFuse t) fun u => u.sec.cust = some h ∧ u.is fGLB_ALARM_ACC = true) ∧
      Completes (exec .coldReset t) fun u => u.sec.bound = some h ∧ u.sec.cust = some h
end

