-- ==== Sys2Proof/Laws/Bits.lean ====
section
/-!
SUPPORT. What setting a bit field does to that field and to the others of the same word.
-/

-- one theorem after another: all at once would not fit the memory
set_option Elab.async false

namespace Sys2Proof.Machine

theorem bitsOf_lt (w lo len : Nat) : bitsOf w lo len < 2 ^ len := Nat.mod_lt _ (Nat.two_pow_pos _)

/-- A number with a field replaced: what lies above the field, the field, what lies below it. -/
theorem withBits_eq (w lo len v : Nat) :
    withBits w lo len v = w / (2 ^ lo * 2 ^ len) * (2 ^ lo * 2 ^ len) + v % 2 ^ len * 2 ^ lo + w % 2 ^ lo := by
  unfold withBits bitsOf
  have h1 : w = w / 2 ^ lo * 2 ^ lo + w % 2 ^ lo := (Nat.div_add_mod' w (2 ^ lo)).symm
  have h2 : w / 2 ^ lo = w / 2 ^ lo / 2 ^ len * 2 ^ len + w / 2 ^ lo % 2 ^ len := (Nat.div_add_mod' _ _).symm
  rw [Nat.div_div_eq_div_mul] at h2
  generalize w / (2 ^ lo * 2 ^ len) = a at *
  generalize w / 2 ^ lo % 2 ^ len = b at *
  generalize w % 2 ^ lo = c at *
  rw [h2] at h1
  have h3 : w = a * (2 ^ lo * 2 ^ len) + b * 2 ^ lo + c := by rw [h1]; ring
  omega

/-- The field that was set. -/
theorem bitsOf_withBits_same (w lo len v : Nat) : bitsOf (withBits w lo len v) lo len = v % 2 ^ len := by
  rw [withBits_eq, bitsOf]
  have hp := Nat.two_pow_pos lo
  have e : w / (2 ^ lo * 2 ^ len) * (2 ^ lo * 2 ^ len) + v % 2 ^ len * 2 ^ lo + w % 2 ^ lo
      = w % 2 ^ lo + 2 ^ lo * (v % 2 ^ len + 2 ^ len * (w / (2 ^ lo * 2 ^ len))) := by ring
  rw [e, Nat.add_mul_div_left _ _ hp, Nat.div_eq_of_lt (Nat.mod_lt _ hp), Nat.zero_add, Nat.add_mul_mod_self_left,
    Nat.mod_mod]

/-- A field below the one that was set. -/
theorem bitsOf_withBits_below (w lo len v lo' len' : Nat) (h : lo' + len' ≤ lo) :
    bitsOf (withBits w lo len v) lo' len' = bitsOf w lo' len' := by
  obtain ⟨d, rfl⟩ := Nat.exists_eq_add_of_le h
  have key : ∀ x : Nat, bitsOf x lo' len' = bitsOf (x % 2 ^ (lo' + len' + d)) lo' len' := by
    intro x
    unfold bitsOf
    rw [show 2 ^ (lo' + len' + d) = 2 ^ lo' * 2 ^ (len' + d) by rw [← Nat.pow_add, Nat.add_assoc],
      Nat.mod_mul_right_div_self, Nat.pow_add, Nat.mod_mul_right_mod]
  have hm : withBits w (lo' + len' + d) len v % 2 ^ (lo' + len' + d) = w % 2 ^ (lo' + len' + d) := by
    rw [withBits_eq]
    generalize 2 ^ (lo' + len' + d) = p
    rw [show w / (p * 2 ^ len) * (p * 2 ^ len) + v % 2 ^ len * p + w % p
      = w % p + p * (w / (p * 2 ^ len) * 2 ^ len + v % 2 ^ len) by ring, Nat.add_mul_mod_self_left, Nat.mod_mod]
  rw [key, hm, ← key]

/-- A field above the one that was set. -/
theorem bitsOf_withBits_above (w lo len v lo' len' : Nat) (h : lo + len ≤ lo') :
    bitsOf (withBits w lo len v) lo' len' = bitsOf w lo' len' := by
  obtain ⟨d, rfl⟩ := Nat.exists_eq_add_of_le h
  have hd : withBits w lo len v / (2 ^ lo * 2 ^ len) = w / (2 ^ lo * 2 ^ len) := by
    rw [withBits_eq]
    have hp := Nat.two_pow_pos lo
    have hl := Nat.two_pow_pos len
    have hq := Nat.mul_pos hp hl
    have hlt : v % 2 ^ len * 2 ^ lo + w % 2 ^ lo < 2 ^ lo * 2 ^ len := by
      have h1 := Nat.mod_lt v hl
      have h2 := Nat.mod_lt w hp
      nlinarith
    rw [Nat.add_assoc, Nat.mul_comm, Nat.mul_add_div hq, Nat.div_eq_of_lt hlt, Nat.add_zero]
  unfold bitsOf
  rw [Nat.pow_add 2 (lo + len) d, Nat.pow_add 2 lo len, ← Nat.div_div_eq_div_mul, hd, Nat.div_div_eq_div_mul]

theorem withBits_lt (w lo len v : Nat) (hw : w < 2 ^ 32) (h : lo + len ≤ 32) : withBits w lo len v < 2 ^ 32 := by
  rw [withBits_eq]
  have hp := Nat.two_pow_pos lo
  have hl := Nat.two_pow_pos len
  obtain ⟨d, hd⟩ := Nat.exists_eq_add_of_le h
  have e : 2 ^ 32 = 2 ^ lo * 2 ^ len * 2 ^ d := by rw [hd, Nat.pow_add, Nat.pow_add]
  rw [e] at hw ⊢
  have h1 : w / (2 ^ lo * 2 ^ len) < 2 ^ d := Nat.div_lt_of_lt_mul hw
  have h2 := Nat.mod_lt v hl
  have h3 := Nat.mod_lt w hp
  have h4 : v % 2 ^ len * 2 ^ lo + w % 2 ^ lo < 2 ^ lo * 2 ^ len := by nlinarith
  nlinarith [Nat.mul_pos hp hl]

/-- A field of a word after a field of it is set: the low bits of the value. -/
theorem fld_setFld_same (w : Word) (lo len v : Nat) (h : lo + len ≤ 32) : fld (setFld w lo len v) lo len = v % 2 ^ len := by
  unfold fld setFld
  rw [BitVec.toNat_ofNat, Nat.mod_eq_of_lt (withBits_lt _ _ _ _ w.isLt h), bitsOf_withBits_same]

/-- A field of a word that lies beside the one set stays. -/
theorem fld_setFld_other (w : Word) (lo len v lo' len' : Nat) (h : lo + len ≤ 32) (d : lo' + len' ≤ lo ∨ lo + len ≤ lo') :
    fld (setFld w lo len v) lo' len' = fld w lo' len' := by
  unfold fld setFld
  rw [BitVec.toNat_ofNat, Nat.mod_eq_of_lt (withBits_lt _ _ _ _ w.isLt h)]
  rcases d with d | d
  · exact bitsOf_withBits_below _ _ _ _ _ _ d
  · exact bitsOf_withBits_above _ _ _ _ _ _ d

end Sys2Proof.Machine
end

