-- ==== Sys2Proof/Laws/Store.lean ====
section
/-!
SUPPORT. The register store: a word set reads back, no other word changes, and every operation on the store keeps its
canonical form.
-/

-- one theorem after another: all at once would not fit the memory
set_option Elab.async false

namespace Sys2Proof.Machine

/-! ### Association lists -/

theorem assocGet_put_same {α : Type} (m : List (Nat × α)) (a : Nat) (v : α) : assocGet (assocPut m a v) a = some v := by
  induction m with
  | nil => simp [assocPut, assocGet]
  | cons p m ih =>
    obtain ⟨k, w⟩ := p
    unfold assocPut
    by_cases h1 : a < k
    · simp [h1, assocGet]
    · by_cases h2 : a = k
      · simp [h2, assocGet]
      · have h3 : k ≠ a := fun e => h2 e.symm
        simp [h1, h2, h3, assocGet, ih]

theorem assocGet_put_other {α : Type} (m : List (Nat × α)) (a b : Nat) (v : α) (h : a ≠ b) :
    assocGet (assocPut m a v) b = assocGet m b := by
  induction m with
  | nil => simp [assocPut, assocGet, h]
  | cons p m ih =>
    obtain ⟨k, w⟩ := p
    unfold assocPut
    by_cases h1 : a < k
    · simp [h1, assocGet, h]
    · by_cases h2 : a = k
      · subst h2
        simp [assocGet, h]
      · simp [h1, h2, assocGet, ih]

theorem assocGet_del_same {α : Type} (m : List (Nat × α)) (a : Nat) : assocGet (assocDel m a) a = none := by
  induction m with
  | nil => rfl
  | cons p m ih =>
    unfold assocDel at *
    by_cases h : p.1 = a
    · rw [List.filter_cons_of_neg (by simp [h])]
      exact ih
    · rw [List.filter_cons_of_pos (by simp [h])]
      simpa [assocGet, h] using ih

theorem assocGet_del_other {α : Type} (m : List (Nat × α)) (a b : Nat) (h : a ≠ b) :
    assocGet (assocDel m a) b = assocGet m b := by
  induction m with
  | nil => rfl
  | cons p m ih =>
    unfold assocDel at *
    by_cases k : p.1 = a
    · rw [List.filter_cons_of_neg (by simp [k]), ih]
      simp [assocGet, k, h]
    · rw [List.filter_cons_of_pos (by simp [k])]
      simp [assocGet, ih]

/-! ### The store -/

theorem storeGet_put_same (m : Store) (a : Nat) (v : Word) : storeGet (storePut m a v) a = v := by
  unfold storePut
  split
  · rename_i h
    rw [storeGet, assocGet_del_same, h]
  · rw [storeGet, assocGet_put_same]

theorem storeGet_put_other (m : Store) (a b : Nat) (v : Word) (h : a ≠ b) : storeGet (storePut m a v) b = storeGet m b := by
  unfold storePut
  split
  · rw [storeGet, assocGet_del_other _ _ _ h, storeGet]
  · rw [storeGet, assocGet_put_other _ _ _ _ h, storeGet]

/-! ### The canonical form -/

theorem risingFrom_mono {m : List (Nat × Word)} {j k : Nat} (h : j ≤ k) (w : risingFrom (some k) m = true) :
    risingFrom (some j) m = true := by
  cases m with
  | nil => rfl
  | cons p m =>
    simp only [risingFrom, Bool.and_eq_true, decide_eq_true_eq] at w ⊢
    exact ⟨by omega, w.2⟩

theorem risingFrom_none {m : List (Nat × Word)} {k : Nat} (w : risingFrom (some k) m = true) : risingFrom none m = true := by
  cases m with
  | nil => rfl
  | cons p m =>
    simp only [risingFrom, Bool.and_eq_true] at w ⊢
    exact w.2

theorem risingFrom_filter (p : Nat × Word → Bool) (m : List (Nat × Word)) (o : Option Nat) (w : risingFrom o m = true) :
    risingFrom o (m.filter p) = true := by
  induction m generalizing o with
  | nil => exact w
  | cons q m ih =>
    have hq : risingFrom (some q.1) m = true := by
      cases o with
      | none => exact w
      | some j => simp only [risingFrom, Bool.and_eq_true] at w; exact w.2
    by_cases h : p q = true
    · rw [List.filter_cons_of_pos h]
      cases o with
      | none => exact ih _ hq
      | some j =>
        simp only [risingFrom, Bool.and_eq_true] at w ⊢
        exact ⟨w.1, ih _ hq⟩
    · rw [List.filter_cons_of_neg h]
      cases o with
      | none => exact risingFrom_none (ih _ hq)
      | some j =>
        simp only [risingFrom, Bool.and_eq_true, decide_eq_true_eq] at w
        exact risingFrom_mono (Nat.le_of_lt w.1) (ih _ hq)

theorem risingFrom_assocPut (m : List (Nat × Word)) (a : Nat) (v : Word) (o : Option Nat) (w : risingFrom o m = true)
    (h : ∀ j, o = some j → j < a) : risingFrom o (assocPut m a v) = true := by
  induction m generalizing o with
  | nil =>
    cases o with
    | none => rfl
    | some j => simpa [assocPut, risingFrom] using h j rfl
  | cons q m ih =>
    obtain ⟨k, x⟩ := q
    have hk : risingFrom (some k) m = true := by
      cases o with
      | none => exact w
      | some j => simp only [risingFrom, Bool.and_eq_true] at w; exact w.2
    unfold assocPut
    by_cases h1 : a < k
    · rw [if_pos h1]
      have h2 : risingFrom (some a) ((k, x) :: m) = true := by simp [risingFrom, h1, hk]
      cases o with
      | none => exact h2
      | some j =>
        simp only [risingFrom, Bool.and_eq_true, decide_eq_true_eq] at h2 ⊢
        exact ⟨h j rfl, h2⟩
    · by_cases h2 : a = k
      · subst h2
        rw [if_neg h1, if_pos rfl]
        cases o with
        | none => exact hk
        | some j =>
          simp only [risingFrom, Bool.and_eq_true, decide_eq_true_eq]
          exact ⟨h j rfl, hk⟩
      · rw [if_neg h1, if_neg h2]
        have h3 := ih (some k) hk (fun j e => by cases e; omega)
        cases o with
        | none => exact h3
        | some j =>
          simp only [risingFrom, Bool.and_eq_true] at w ⊢
          exact ⟨w.1, h3⟩

theorem mem_assocPut {m : List (Nat × Word)} {a : Nat} {v : Word} {q : Nat × Word} (h : q ∈ assocPut m a v) :
    q = (a, v) ∨ q ∈ m := by
  induction m with
  | nil => simpa [assocPut] using h
  | cons p m ih =>
    obtain ⟨k, x⟩ := p
    unfold assocPut at h
    split at h
    · simpa using h
    · split at h
      · rcases List.mem_cons.mp h with h | h
        · exact .inl h
        · exact .inr (List.mem_cons_of_mem _ h)
      · rcases List.mem_cons.mp h with h | h
        · exact .inr (h ▸ List.mem_cons_self)
        · exact (ih h).imp id (List.mem_cons_of_mem _)

/-- Removing words keeps the canonical form. -/
theorem storeWf_filter (m : Store) (p : Nat × Word → Bool) (h : storeWf m = true) : storeWf (m.filter p) = true := by
  unfold storeWf at *
  simp only [Bool.and_eq_true, List.all_eq_true] at *
  exact ⟨risingFrom_filter p m none h.1, fun q k => h.2 q (List.mem_filter.mp k).1⟩

/-- Setting a word keeps the canonical form. -/
theorem storeWf_storePut (m : Store) (a : Nat) (v : Word) (h : storeWf m = true) : storeWf (storePut m a v) = true := by
  unfold storePut
  split
  · exact storeWf_filter _ _ h
  · rename_i hv
    unfold storeWf at *
    simp only [Bool.and_eq_true, List.all_eq_true] at *
    refine ⟨risingFrom_assocPut m a v none h.1 (fun _ e => by cases e), fun q k => ?_⟩
    rcases mem_assocPut k with rfl | k
    · simpa using hv
    · exact h.2 q k

end Sys2Proof.Machine
end

