-- ==== Sys2Proof/Laws/Keeps.lean ====
section
/-!
SUPPORT. What no operation of the model undoes, and the rules by which it is shown of one operation after another.
-/

-- one theorem after another: all at once would not fit the memory
set_option Elab.async false

namespace Sys2Proof.Machine

/-- What no operation on the state undoes: the queue stays as it is, the store keeps its canonical form, time and the free
values move forward only, the part stays the one it is (R2), the fused minimum SVN never falls (R447) and a fused customer
key hash stays (R454). -/
structure Keeps (s t : State) : Prop where
  pending : t.pending = s.pending
  wf : storeWf s.regs = true → storeWf t.regs = true
  clk : s.clk ≤ t.clk
  free : s.free ≤ t.free
  fitted : t.ciph.fitted = s.ciph.fitted
  svn : s.sec.svn ≤ t.sec.svn
  cust : s.sec.cust.isSome = true → t.sec.cust = s.sec.cust

/-- The same of the fuses alone. -/
structure SecKeeps (x y : SecState) : Prop where
  svn : x.svn ≤ y.svn
  cust : x.cust.isSome = true → y.cust = x.cust

theorem Keeps.refl (s : State) : Keeps s s := ⟨rfl, id, Nat.le_refl _, Nat.le_refl _, rfl, Nat.le_refl _, fun _ => rfl⟩

theorem Keeps.trans {r s t : State} (h : Keeps r s) (k : Keeps s t) : Keeps r t :=
  ⟨k.pending.trans h.pending, fun w => k.wf (h.wf w), Nat.le_trans h.clk k.clk, Nat.le_trans h.free k.free, k.fitted.trans h.fitted,
    Nat.le_trans h.svn k.svn, fun c => (k.cust (by rw [h.cust c]; exact c)).trans (h.cust c)⟩

variable {r s : State}

theorem State.setReg_keeps (h : Keeps r s) (a : Nat) (v : Word) : Keeps r (s.setReg a v) :=
  h.trans ⟨rfl, storeWf_storePut _ _ _, Nat.le_refl _, Nat.le_refl _, rfl, Nat.le_refl _, fun _ => rfl⟩

theorem State.resetRange_keeps (h : Keeps r s) (lo hi : Nat) (keep : Nat → Bool) : Keeps r (s.resetRange lo hi keep) :=
  h.trans ⟨rfl, storeWf_filter _ _, Nat.le_refl _, Nat.le_refl _, rfl, Nat.le_refl _, fun _ => rfl⟩

theorem State.modSec_keeps (h : Keeps r s) (f : SecState → SecState) (k : SecKeeps s.sec (f s.sec)) :
    Keeps r (s.modSec f) :=
  h.trans ⟨rfl, id, Nat.le_refl _, Nat.le_refl _, rfl, k.1, k.2⟩

theorem foldl_keeps {α : Type} (f : State → α → State) (k : ∀ t x, Keeps t (f t x)) :
    ∀ (l : List α) (s : State), Keeps r s → Keeps r (l.foldl f s)
  | [], _, h => h
  | x :: l, s, h => foldl_keeps f k l (f s x) (h.trans (k s x))

theorem ite_keeps (c : Prop) [Decidable c] (a b : State) (ha : Keeps r a) (hb : Keeps r b) :
    Keeps r (if c then a else b) := by split <;> assumption

theorem ite_self_keeps (c : Prop) [Decidable c] {a : State} (h : Keeps r s) (k : Keeps s a) :
    Keeps r (if c then a else s) := by
  split
  · exact h.trans k
  · exact h

theorem ite_self_keeps' (c : Prop) [Decidable c] {a : State} (h : Keeps r s) (k : Keeps s a) :
    Keeps r (if c then s else a) := by
  split
  · exact h
  · exact h.trans k

theorem Keeps.raw (h : Keeps r s) {shadow sent msixPending lanes sampRef lvl crs cli tb cold bootHold hkm cal mem cst plu time
    objs ciph cop sec} (h5 : ciph.fitted = s.ciph.fitted) (h6 : sec.svn = s.sec.svn) (h7 : sec.cust = s.sec.cust) :
    Keeps r ⟨s.pending, s.regs, shadow, s.clk, s.free, sent, msixPending, lanes, sampRef, lvl, crs, cli, tb, cold, bootHold, hkm,
      cal, mem, cst, plu, time, objs, ciph, cop, sec⟩ :=
  h.trans ⟨rfl, id, Nat.le_refl _, Nat.le_refl _, h5, Nat.le_of_eq h6.symm, fun _ => h7⟩

theorem State.elapse_keeps (h : Keeps r s) (n : Nat) : Keeps r (s.elapse n) := by
  refine h.trans ?_
  simp only [State.elapse]
  split <;> exact ⟨rfl, id, Nat.le_add_right _ _, Nat.le_refl _, rfl, Nat.le_refl _, fun _ => rfl⟩

theorem State.takeFree_keeps (h : Keeps r s) : Keeps r s.takeFree :=
  h.trans ⟨rfl, id, Nat.le_refl _, Nat.le_add_right _ _, rfl, Nat.le_refl _, fun _ => rfl⟩

theorem State.modLane_keeps (h : Keeps r s) (n : Lane) (f : LaneState → LaneState) : Keeps r (s.modLane n f) :=
  Keeps.raw h rfl rfl rfl

theorem State.eachLane_keeps (h : Keeps r s) (f : Lane → State → State) (k : ∀ n t, Keeps t (f n t)) :
    Keeps r (s.eachLane f) := by
  unfold State.eachLane
  exact foldl_keeps _ (fun t n => k n t) _ _ h

theorem foldlp_keeps {α β : Type} (f : State × β → α → State × β) (k : ∀ p x, Keeps p.1 (f p x).1) :
    ∀ (l : List α) (p : State × β), Keeps r p.1 → Keeps r (l.foldl f p).1
  | [], _, h => h
  | x :: l, p, h => foldlp_keeps f k l (f p x) (h.trans (k p x))

/-- The folds again, with the state at the start held fixed. -/
theorem foldl_keeps_of {α : Type} (f : State → α → State) (k : ∀ t x, Keeps r t → Keeps r (f t x)) :
    ∀ (l : List α) (s : State), Keeps r s → Keeps r (l.foldl f s)
  | [], _, h => h
  | x :: l, s, h => foldl_keeps_of f k l (f s x) (k s x h)

theorem foldlp_keeps_of {α β : Type} (f : State × β → α → State × β) (k : ∀ p x, Keeps r p.1 → Keeps r (f p x).1) :
    ∀ (l : List α) (p : State × β), Keeps r p.1 → Keeps r (l.foldl f p).1
  | [], _, h => h
  | x :: l, p, h => foldlp_keeps_of f k l (f p x) (k p x h)

theorem State.eachLane_keeps_of (h : Keeps r s) (f : Lane → State → State) (k : ∀ n t, Keeps r t → Keeps r (f n t)) :
    Keeps r (s.eachLane f) := by
  unfold State.eachLane
  exact foldl_keeps_of _ (fun t n => k n t) _ _ h

/-- The command answers a next state, and undoes none of this. -/
def Done (r : State) : Ans → Prop
  | .next t => Keeps r t
  | .fault _ => False
  | .refused _ => False

theorem next_done {t : State} (h : Keeps r t) : Done r (.next t) := h

theorem ite_done (c : Prop) [Decidable c] {a b : Ans} (ha : Done r a) (hb : Done r b) : Done r (if c then a else b) := by
  split <;> assumption

theorem id_keeps (s : State) : Keeps s (id s) := Keeps.refl s

theorem fst_keeps {α : Type} {p : State × α} {a : State} {b : α} (e : p = (a, b)) (h : Keeps r p.1) : Keeps r a := by
  rw [e] at h
  exact h

theorem pair_keeps {α : Type} {a : State} {b : α} (h : Keeps r a) : Keeps r (a, b).1 := h

theorem itep_keeps {α : Type} (c : Prop) [Decidable c] {a b : State × α} (ha : Keeps r a.1) (hb : Keeps r b.1) :
    Keeps r (if c then a else b).1 := by split <;> assumption

end Sys2Proof.Machine
end

