-- ==== Sys2Proof/Laws/KeepsOps.lean ====
section
/-!
SUPPORT. No operation undoes what `Keeps` lists: registers, alarms, formats, FEC, the access gate, PLU, PMON and Levels.
-/

-- one theorem after another: all at once would not fit the memory
set_option Elab.async false
set_option linter.all false

namespace Sys2Proof.Machine

/-! ### Ops.lean -/

theorem State.set_keeps {r0 : State} (s : State) (f : Fld) (v : Nat) (h0 : Keeps r0 s) : Keeps r0 (State.set s f v) := by
  unfold State.set
  with_reducible repeat' first | assumption | apply State.setReg_keeps

theorem State.setB_keeps {r0 : State} (s : State) (f : Fld) (b : Bool) (h0 : Keeps r0 s) : Keeps r0 (State.setB s f b) := by
  unfold State.setB
  with_reducible repeat' first | assumption | apply State.set_keeps

theorem State.setNat_keeps {r0 : State} (s : State) (a v : Nat) (h0 : Keeps r0 s) : Keeps r0 (State.setNat s a v) := by
  unfold State.setNat
  with_reducible repeat' first | assumption | apply State.setReg_keeps

theorem State.setInt_keeps {r0 : State} (s : State) (a : Nat) (x : Int) (h0 : Keeps r0 s) : Keeps r0 (State.setInt s a
    x) := by
  unfold State.setInt
  with_reducible repeat' first | assumption | apply State.setNat_keeps

theorem State.setWide_keeps {r0 : State} (s : State) (a v : Nat) (h0 : Keeps r0 s) : Keeps r0 (State.setWide s a v) := by
  unfold State.setWide
  with_reducible repeat' first | assumption | apply State.setNat_keeps

theorem State.setTime80_keeps {r0 : State} (s : State) (a ns : Nat) (h0 : Keeps r0 s) : Keeps r0 (State.setTime80 s a
    ns) := by
  unfold State.setTime80
  with_reducible repeat' first | assumption | apply State.setReg_keeps | apply State.setNat_keeps

theorem State.modConv_keeps {r0 : State} (s : State) (n : Lane) (f : ConvState → ConvState) (h0 : Keeps r0 s) : Keeps
    r0 (State.modConv s n f) := by
  unfold State.modConv
  with_reducible repeat' first | assumption | apply State.modLane_keeps

theorem State.modRxd_keeps {r0 : State} (s : State) (n : Lane) (f : RxdState → RxdState) (h0 : Keeps r0 s) : Keeps r0
    (State.modRxd s n f) := by
  unfold State.modRxd
  with_reducible repeat' first | assumption | apply State.modLane_keeps

theorem State.modTx_keeps {r0 : State} (s : State) (n : Lane) (f : TxState → TxState) (h0 : Keeps r0 s) : Keeps r0
    (State.modTx s n f) := by
  unfold State.modTx
  with_reducible repeat' first | assumption | apply State.modLane_keeps

theorem State.modFec_keeps {r0 : State} (s : State) (n : Lane) (f : FecState → FecState) (h0 : Keeps r0 s) : Keeps r0
    (State.modFec s n f) := by
  unfold State.modFec
  with_reducible repeat' first | assumption | apply State.modLane_keeps

theorem State.modLfr_keeps {r0 : State} (s : State) (n : Lane) (f : LfrState → LfrState) (h0 : Keeps r0 s) : Keeps r0
    (State.modLfr s n f) := by
  unfold State.modLfr
  with_reducible repeat' first | assumption | apply State.modLane_keeps

theorem State.modPmon_keeps {r0 : State} (s : State) (n : Lane) (f : PmonState → PmonState) (h0 : Keeps r0 s) : Keeps
    r0 (State.modPmon s n f) := by
  unfold State.modPmon
  with_reducible repeat' first | assumption | apply State.modLane_keeps

theorem State.modKsc_keeps {r0 : State} (s : State) (n : Lane) (f : KscState → KscState) (h0 : Keeps r0 s) : Keeps r0
    (State.modKsc s n f) := by
  unfold State.modKsc
  with_reducible repeat' first | assumption | apply State.modLane_keeps

theorem State.modTb_keeps {r0 : State} (s : State) (x : Nat) (f : TimeBase → TimeBase) (h0 : Keeps r0 s) : Keeps r0
    (State.modTb s x f) :=
  Keeps.raw h0 rfl rfl rfl

theorem State.waitClk_keeps {r0 : State} (s : State) (c : Nat) (h0 : Keeps r0 s) : Keeps r0 (State.waitClk s c) := by
  unfold State.waitClk
  with_reducible repeat' first | assumption | apply ite_keeps | apply State.elapse_keeps

theorem State.waitTb_keeps {r0 : State} (s : State) (x ns : Nat) (h0 : Keeps r0 s) : Keeps r0 (State.waitTb s x ns) := by
  unfold State.waitTb
  with_reducible repeat' first | assumption | apply ite_keeps | apply State.elapse_keeps

theorem State.waitBefore_keeps {r0 : State} (s : State) (x ns d : Nat) (h0 : Keeps r0 s) : Keeps r0 (State.waitBefore
    s x ns d) := by
  unfold State.waitBefore
  with_reducible repeat' first | assumption | apply ite_keeps | apply State.elapse_keeps

theorem State.emit_keeps {r0 : State} (s : State) (e : Emit) (h0 : Keeps r0 s) : Keeps r0 (State.emit s e) :=
  Keeps.raw h0 rfl rfl rfl

theorem State.setObj_keeps {r0 : State} (s : State) (index sub : Nat) (bs : List Byte) (h0 : Keeps r0 s) : Keeps r0
    (State.setObj s index sub bs) :=
  Keeps.raw h0 rfl rfl rfl

theorem State.bumpObj_keeps {r0 : State} (s : State) (index sub len k : Nat) (h0 : Keeps r0 s) : Keeps r0
    (State.bumpObj s index sub len k) := by
  unfold State.bumpObj
  with_reducible repeat' first | assumption | apply State.setObj_keeps

theorem State.addNow_keeps {r0 : State} (s : State) (a k : Nat) (h0 : Keeps r0 s) : Keeps r0 (State.addNow s a k) := by
  unfold State.addNow
  with_reducible repeat' first | assumption | apply State.setWide_keeps

theorem State.addCnt32_keeps {r0 : State} (s : State) (a k : Nat) (h0 : Keeps r0 s) : Keeps r0 (State.addCnt32 s a k) := by
  unfold State.addCnt32
  with_reducible repeat' first | assumption | apply State.setNat_keeps

theorem State.addCnt_keeps {r0 : State} (s : State) (a k : Nat) (h0 : Keeps r0 s) : Keeps r0 (State.addCnt s a k) :=
    by
  unfold State.addCnt
  with_reducible repeat' first
    | assumption | exact Keeps.refl _ | apply ite_keeps | apply State.addNow_keeps | split
    | refine Keeps.raw ?_ rfl rfl rfl

/-! ### Flags.lean -/

theorem State.msix_keeps {r0 : State} (s : State) (i : Nat) (h0 : Keeps r0 s) : Keeps r0 (State.msix s i) := by
  unfold State.msix
  with_reducible repeat' first
    | assumption | exact Keeps.refl _ | exact id_keeps _ | exact ⟨Nat.le_refl _, fun _ => rfl⟩ | apply ite_keeps
    | apply itep_keeps | apply State.emit_keeps | apply foldl_keeps | apply foldlp_keeps | intro _
    | (extract_lets +onlyGivenNames x; first | (have hx : Keeps r0 x := ?_; clear_value x) | (have hx : Keeps r0 x.1 := ?_; clear_value x) | (have hf := fun a => x a; clear hf) | (have hf : CiphState := x; clear hf) | (have hf : SecState := x; clear hf) | clear_value x)
    | subst x | dsimp only | (apply fst_keeps; assumption) | split | refine Keeps.raw ?_ rfl rfl rfl

theorem State.irq_keeps {r0 : State} (s before : State) (i : Nat) (h0 : Keeps r0 s) : Keeps r0 (State.irq s before i) := by
  unfold State.irq
  with_reducible repeat' first | assumption | apply ite_keeps | apply State.msix_keeps

theorem State.raise_keeps {r0 : State} (s : State) (f : Fld) (h0 : Keeps r0 s) : Keeps r0 (State.raise s f) := by
  unfold State.raise
  with_reducible repeat' first | assumption | apply State.irq_keeps | apply State.set_keeps

theorem State.raiseIf_keeps {r0 : State} (s : State) (c : Bool) (f : Fld) (h0 : Keeps r0 s) : Keeps r0 (State.raiseIf
    s c f) := by
  unfold State.raiseIf
  with_reducible repeat' first | assumption | apply ite_keeps | apply State.raise_keeps

theorem State.logAcc_keeps {r0 : State} (s : State) (c : AccCode) (addr : Nat) (write : Bool) (h0 : Keeps r0 s) :
    Keeps r0 (State.logAcc s c addr write) := by
  unfold State.logAcc
  with_reducible repeat' first
    | assumption | apply State.raise_keeps | apply State.setNat_keeps | apply State.addNow_keeps

/-! ### Formats.lean -/

theorem State.setFreeReg_keeps {r0 : State} (s : State) (a : Nat) (h0 : Keeps r0 s) : Keeps r0 (State.setFreeReg s a) := by
  unfold State.setFreeReg
  with_reducible repeat' first | assumption | apply State.takeFree_keeps | apply State.setNat_keeps

theorem State.showTxFmt_keeps {r0 : State} (s : State) (n : Nat) (h0 : Keeps r0 s) : Keeps r0 (State.showTxFmt s n)
    := by
  unfold State.showTxFmt
  with_reducible repeat' first
    | assumption | intro _ | exact Keeps.refl _ | subst x
    | (extract_lets +onlyGivenNames x; first | (have hx : Keeps r0 x := ?_; clear_value x) | (have hx : Keeps r0 x.1 := ?_; clear_value x) | (have hf := fun a => x a; clear hf) | (have hf : CiphState := x; clear hf) | (have hf : SecState := x; clear hf) | clear_value x)
    | apply ite_keeps | apply State.set_keeps | apply State.setB_keeps | apply State.setNat_keeps
    | apply State.setFreeReg_keeps | dsimp only | split

theorem State.showRxFmt_keeps {r0 : State} (s : State) (n : Lane) (h0 : Keeps r0 s) : Keeps r0 (State.showRxFmt s n)
    := by
  unfold State.showRxFmt
  with_reducible repeat' first
    | assumption | intro _ | exact Keeps.refl _ | subst x
    | (extract_lets +onlyGivenNames x; first | (have hx : Keeps r0 x := ?_; clear_value x) | (have hx : Keeps r0 x.1 := ?_; clear_value x) | (have hf := fun a => x a; clear hf) | (have hf : CiphState := x; clear hf) | (have hf : SecState := x; clear hf) | clear_value x)
    | apply ite_keeps | apply State.set_keeps | apply State.setB_keeps | apply State.setNat_keeps | dsimp only
    | split

theorem State.showBridged_keeps {r0 : State} (s : State) (n : Lane) (h0 : Keeps r0 s) : Keeps r0 (State.showBridged s
    n) := by
  unfold State.showBridged
  with_reducible repeat' first
    | assumption | intro _ | exact Keeps.refl _ | subst x
    | (extract_lets +onlyGivenNames x; first | (have hx : Keeps r0 x := ?_; clear_value x) | (have hx : Keeps r0 x.1 := ?_; clear_value x) | (have hf := fun a => x a; clear hf) | (have hf : CiphState := x; clear hf) | (have hf : SecState := x; clear hf) | clear_value x)
    | apply ite_keeps | apply State.setB_keeps | apply foldl_keeps_of | dsimp only | split

theorem State.bridgeCheck_keeps {r0 : State} (s : State) (n : Lane) (h0 : Keeps r0 s) : Keeps r0 (State.bridgeCheck s
    n) := by
  unfold State.bridgeCheck
  with_reducible repeat' first
    | assumption | intro _ | exact Keeps.refl _ | subst x
    | (extract_lets +onlyGivenNames x; first | (have hx : Keeps r0 x := ?_; clear_value x) | (have hx : Keeps r0 x.1 := ?_; clear_value x) | (have hf := fun a => x a; clear hf) | (have hf : CiphState := x; clear hf) | (have hf : SecState := x; clear hf) | clear_value x)
    | apply ite_keeps | apply State.modTx_keeps | apply State.raise_keeps | apply State.showBridged_keeps
    | dsimp only | split

theorem State.bridgesOf_keeps {r0 : State} (s : State) (n : Lane) (h0 : Keeps r0 s) : Keeps r0 (State.bridgesOf s n)
    := by
  unfold State.bridgesOf
  with_reducible repeat' first
    | assumption | intro _ | exact Keeps.refl _ | subst x
    | (extract_lets +onlyGivenNames x; first | (have hx : Keeps r0 x := ?_; clear_value x) | (have hx : Keeps r0 x.1 := ?_; clear_value x) | (have hf := fun a => x a; clear hf) | (have hf : CiphState := x; clear hf) | (have hf : SecState := x; clear hf) | clear_value x)
    | apply ite_keeps | apply State.eachLane_keeps_of | apply State.bridgeCheck_keeps | dsimp only | split

theorem State.rxFmtTurn_keeps {r0 : State} (s before : State) (n : Lane) (h0 : Keeps r0 s) : Keeps r0
    (State.rxFmtTurn s before n) := by
  unfold State.rxFmtTurn
  with_reducible repeat' first
    | assumption | intro _ | exact Keeps.refl _ | subst x
    | (extract_lets +onlyGivenNames x; first | (have hx : Keeps r0 x := ?_; clear_value x) | (have hx : Keeps r0 x.1 := ?_; clear_value x) | (have hf := fun a => x a; clear hf) | (have hf : CiphState := x; clear hf) | (have hf : SecState := x; clear hf) | clear_value x)
    | apply ite_keeps | apply State.modFec_keeps | apply State.showRxFmt_keeps | apply State.bridgesOf_keeps
    | dsimp only | split

/-! ### Fec.lean -/

theorem State.fecCount_keeps {r0 : State} (s : State) (n : Lane) (j k : Nat) (h0 : Keeps r0 s) : Keeps r0
    (State.fecCount s n j k) := by
  unfold State.fecCount
  with_reducible repeat' first | assumption | apply ite_keeps | apply State.addCnt_keeps

theorem State.innerDecode_keeps {r0 : State} (s : State) (n : Lane) (soft : List Int) (h0 : Keeps r0 s) : Keeps r0
    (State.innerDecode s n soft) := by
  unfold State.innerDecode
  with_reducible repeat' first
    | assumption | intro _ | exact Keeps.refl _ | subst x
    | (extract_lets +onlyGivenNames x; first | (have hx : Keeps r0 x := ?_; clear_value x) | (have hx : Keeps r0 x.1 := ?_; clear_value x) | (have hf := fun a => x a; clear hf) | (have hf : CiphState := x; clear hf) | (have hf : SecState := x; clear hf) | clear_value x)
    | apply ite_keeps | apply State.setNat_keeps | apply State.modFec_keeps | apply State.raise_keeps
    | apply State.fecCount_keeps | dsimp only | split

theorem State.softNext_keeps {r0 : State} (s : State) (n : Lane) (soft : List Int) (h0 : Keeps r0 s) : Keeps r0
    (State.softNext s n soft).1 := by
  unfold State.softNext
  with_reducible repeat' first
    | assumption | intro _ | exact Keeps.refl _ | subst x
    | (extract_lets +onlyGivenNames x; first | (have hx : Keeps r0 x := ?_; clear_value x) | (have hx : Keeps r0 x.1 := ?_; clear_value x) | (have hf := fun a => x a; clear hf) | (have hf : CiphState := x; clear hf) | (have hf : SecState := x; clear hf) | clear_value x)
    | apply ite_keeps | apply itep_keeps | apply State.modRxd_keeps | dsimp only | (apply fst_keeps; assumption)
    | split

theorem State.blockLeaves_keeps {r0 : State} (s : State) (n : Lane) (bad : Nat) (h0 : Keeps r0 s) : Keeps r0
    (State.blockLeaves s n bad) := by
  unfold State.blockLeaves
  with_reducible repeat' first
    | assumption | intro _ | exact Keeps.refl _ | subst x
    | (extract_lets +onlyGivenNames x; first | (have hx : Keeps r0 x := ?_; clear_value x) | (have hx : Keeps r0 x.1 := ?_; clear_value x) | (have hf := fun a => x a; clear hf) | (have hf : CiphState := x; clear hf) | (have hf : SecState := x; clear hf) | clear_value x)
    | apply ite_keeps | apply State.modFec_keeps | apply State.raise_keeps | apply State.fecCount_keeps | dsimp only
    | split

theorem State.outerExit_keeps {r0 : State} (s : State) (n : Lane) (h0 : Keeps r0 s) : Keeps r0 (State.outerExit s n)
    := by
  unfold State.outerExit
  with_reducible repeat' first
    | assumption | intro _ | exact Keeps.refl _ | subst x
    | (extract_lets +onlyGivenNames x; first | (have hx : Keeps r0 x := ?_; clear_value x) | (have hx : Keeps r0 x.1 := ?_; clear_value x) | (have hf := fun a => x a; clear hf) | (have hf : CiphState := x; clear hf) | (have hf : SecState := x; clear hf) | clear_value x)
    | apply ite_keeps | apply State.modFec_keeps | apply State.blockLeaves_keeps | dsimp only | split

theorem State.fecEnter_keeps {r0 : State} (s : State) (n : Lane) (code : Nat) (h0 : Keeps r0 s) : Keeps r0
    (State.fecEnter s n code) := by
  unfold State.fecEnter
  with_reducible repeat' first
    | assumption | intro _ | exact Keeps.refl _ | subst x
    | (extract_lets +onlyGivenNames x; first | (have hx : Keeps r0 x := ?_; clear_value x) | (have hx : Keeps r0 x.1 := ?_; clear_value x) | (have hf := fun a => x a; clear hf) | (have hf : CiphState := x; clear hf) | (have hf : SecState := x; clear hf) | clear_value x)
    | apply ite_keeps | apply State.set_keeps | apply State.modFec_keeps | dsimp only | split

theorem State.fecInFrame_keeps {r0 : State} (s : State) (n : Lane) (sync : Bool) (h0 : Keeps r0 s) : Keeps r0
    (State.fecInFrame s n sync) := by
  unfold State.fecInFrame
  with_reducible repeat' first | assumption | apply ite_keeps | apply State.fecEnter_keeps

theorem State.showObp_keeps {r0 : State} (s : State) (n : Lane) (obp phase : Nat) (h0 : Keeps r0 s) : Keeps r0
    (State.showObp s n obp phase) := by
  unfold State.showObp
  with_reducible repeat' first
    | assumption | exact Keeps.refl _ | apply ite_keeps | apply State.setNat_keeps | split
    | refine Keeps.raw ?_ rfl rfl rfl

theorem State.fecLf_keeps {r0 : State} (s : State) (n : Lane) (i obp : Nat) (h0 : Keeps r0 s) : Keeps r0 (State.fecLf
    s n i obp).1 := by
  unfold State.fecLf
  with_reducible repeat' first
    | assumption | intro _ | exact Keeps.refl _ | subst x
    | (extract_lets +onlyGivenNames x; first | (have hx : Keeps r0 x := ?_; clear_value x) | (have hx : Keeps r0 x.1 := ?_; clear_value x) | (have hf := fun a => x a; clear hf) | (have hf : CiphState := x; clear hf) | (have hf : SecState := x; clear hf) | clear_value x)
    | apply ite_keeps | apply itep_keeps | apply State.set_keeps | apply State.modFec_keeps
    | apply State.raise_keeps | apply State.fecCount_keeps | apply State.fecEnter_keeps | apply State.showObp_keeps
    | dsimp only | (apply fst_keeps; assumption) | split

/-! ### Gate.lean -/

theorem State.refuse_keeps {r0 : State} (s : State) (by_ : Source) (a : Nat) (acc : AccCode) (code : Code) (h0 : Keeps
    r0 s) : Keeps r0 (State.refuse s by_ a acc code) := by
  unfold State.refuse
  with_reducible repeat' first
    | assumption | apply ite_keeps | apply State.logAcc_keeps | apply State.emit_keeps | split

theorem State.answer_keeps {r0 : State} (s : State) (by_ : Source) (code : Code) (h0 : Keeps r0 s) : Keeps r0
    (State.answer s by_ code) := by
  unfold State.answer
  with_reducible repeat' first | assumption | apply ite_keeps | apply State.emit_keeps | split

theorem State.told_keeps {r0 : State} (s : State) (by_ : Source) (a : Nat) (c : Code) (h0 : Keeps r0 s) : Keeps r0
    (State.told s by_ a c).1 := by
  unfold State.told
  with_reducible repeat' first | assumption | apply ite_keeps | apply State.logAcc_keeps | split

theorem State.byWrite_keeps {r0 : State} (s : State) (by_ : Source) (a : Nat) (act : State → State) (k_act : ∀ x0,
    Keeps x0 (act x0)) (h0 : Keeps r0 s) : Keeps r0 (State.byWrite s by_ a act) := by
  unfold State.byWrite
  with_reducible repeat' first
    | assumption | exact Keeps.refl _ | apply ite_keeps | apply itep_keeps | apply State.logAcc_keeps
    | apply foldl_keeps | intro _ | refine Keeps.trans ?_ (k_act _)
    | (extract_lets +onlyGivenNames x; first | (have hx : Keeps r0 x := ?_; clear_value x) | (have hx : Keeps r0 x.1 := ?_; clear_value x) | (have hf := fun a => x a; clear hf) | (have hf : CiphState := x; clear hf) | (have hf : SecState := x; clear hf) | clear_value x)
    | split

theorem State.hostWrite_keeps {r0 : State} (s : State) (a : Nat) (act : State → State) (k_act : ∀ x0, Keeps x0 (act
    x0)) (h0 : Keeps r0 s) : Keeps r0 (State.hostWrite s a act) := by
  unfold State.hostWrite
  with_reducible repeat' first | assumption | apply State.byWrite_keeps

/-! ### Plu.lean -/

theorem State.modPlu_keeps {r0 : State} (s : State) (f : PluState → PluState) (h0 : Keeps r0 s) : Keeps r0
    (State.modPlu s f) :=
  Keeps.raw h0 rfl rfl rfl

theorem State.modRef_keeps {r0 : State} (s : State) (r : Nat) (f : RefState → RefState) (h0 : Keeps r0 s) : Keeps r0
    (State.modRef s r f) := by
  unfold State.modRef
  with_reducible repeat' first | assumption | apply State.modPlu_keeps

theorem State.showOutputs_keeps {r0 : State} (s : State) (h0 : Keeps r0 s) : Keeps r0 (State.showOutputs s) := by
  unfold State.showOutputs
  with_reducible repeat' first
    | assumption | exact Keeps.refl _ | apply ite_keeps | apply itep_keeps | apply State.setB_keeps
    | apply foldl_keeps | intro _
    | (extract_lets +onlyGivenNames x; first | (have hx : Keeps r0 x := ?_; clear_value x) | (have hx : Keeps r0 x.1 := ?_; clear_value x) | (have hf := fun a => x a; clear hf) | (have hf : CiphState := x; clear hf) | (have hf : SecState := x; clear hf) | clear_value x)
    | split

theorem State.settleStep_keeps {r0 : State} (s : State) (h0 : Keeps r0 s) : Keeps r0 (State.settleStep s) := by
  unfold State.settleStep
  with_reducible repeat' first
    | assumption | intro _ | exact Keeps.refl _ | subst x
    | (extract_lets +onlyGivenNames x; first | (have hx : Keeps r0 x := ?_; clear_value x) | (have hx : Keeps r0 x.1 := ?_; clear_value x) | (have hf := fun a => x a; clear hf) | (have hf : CiphState := x; clear hf) | (have hf : SecState := x; clear hf) | clear_value x)
    | apply ite_keeps | apply State.setInt_keeps | apply State.raiseIf_keeps | apply State.modPlu_keeps | dsimp only
    | split

theorem State.showFreq_keeps {r0 : State} (s : State) (h0 : Keeps r0 s) : Keeps r0 (State.showFreq s) := by
  unfold State.showFreq
  with_reducible repeat' first
    | assumption | exact Keeps.refl _ | apply ite_keeps | apply State.setInt_keeps | split
    | refine Keeps.raw ?_ rfl rfl rfl

theorem State.aim_keeps {r0 : State} (s : State) (f : Int) (h0 : Keeps r0 s) : Keeps r0 (State.aim s f) := by
  unfold State.aim
  with_reducible repeat' first
    | assumption | intro _ | exact Keeps.refl _ | subst x
    | (extract_lets +onlyGivenNames x; first | (have hx : Keeps r0 x := ?_; clear_value x) | (have hx : Keeps r0 x.1 := ?_; clear_value x) | (have hf := fun a => x a; clear hf) | (have hf : CiphState := x; clear hf) | (have hf : SecState := x; clear hf) | clear_value x)
    | apply ite_keeps | apply State.modPlu_keeps | dsimp only | split

theorem State.pluRefresh_keeps {r0 : State} (s : State) (h0 : Keeps r0 s) : Keeps r0 (State.pluRefresh s) := by
  unfold State.pluRefresh
  with_reducible repeat' first
    | assumption | intro _ | exact Keeps.refl _ | subst x
    | (extract_lets +onlyGivenNames x; first | (have hx : Keeps r0 x := ?_; clear_value x) | (have hx : Keeps r0 x.1 := ?_; clear_value x) | (have hf := fun a => x a; clear hf) | (have hf : CiphState := x; clear hf) | (have hf : SecState := x; clear hf) | clear_value x)
    | apply ite_keeps | apply State.set_keeps | apply State.setNat_keeps | apply State.settleStep_keeps
    | apply State.showFreq_keeps | apply foldl_keeps_of | dsimp only | split

theorem State.judgeRef_keeps {r0 : State} (s : State) (r : Nat) (h0 : Keeps r0 s) : Keeps r0 (State.judgeRef s r) :=
    by
  unfold State.judgeRef
  with_reducible repeat' first
    | assumption | intro _ | exact Keeps.refl _ | subst x
    | (extract_lets +onlyGivenNames x; first | (have hx : Keeps r0 x := ?_; clear_value x) | (have hx : Keeps r0 x.1 := ?_; clear_value x) | (have hf := fun a => x a; clear hf) | (have hf : CiphState := x; clear hf) | (have hf : SecState := x; clear hf) | clear_value x)
    | apply ite_keeps | apply State.setB_keeps | apply State.modRef_keeps | dsimp only | split

theorem State.checkDisagree_keeps {r0 : State} (s : State) (h0 : Keeps r0 s) : Keeps r0 (State.checkDisagree s) := by
  unfold State.checkDisagree
  with_reducible repeat' first
    | assumption | intro _ | exact Keeps.refl _ | subst x
    | (extract_lets +onlyGivenNames x; first | (have hx : Keeps r0 x := ?_; clear_value x) | (have hx : Keeps r0 x.1 := ?_; clear_value x) | (have hf := fun a => x a; clear hf) | (have hf : CiphState := x; clear hf) | (have hf : SecState := x; clear hf) | clear_value x)
    | apply ite_keeps | apply State.setB_keeps | apply State.raiseIf_keeps | apply State.modRef_keeps
    | apply State.judgeRef_keeps | apply foldl_keeps_of | dsimp only | split

theorem State.showSel_keeps {r0 : State} (s : State) (e : Option Nat) (h0 : Keeps r0 s) : Keeps r0 (State.showSel s e) := by
  unfold State.showSel
  with_reducible repeat' first
    | assumption | apply ite_keeps | apply State.setB_keeps | apply State.set_keeps | apply State.modPlu_keeps | split

theorem State.acquire_keeps {r0 : State} (s : State) (h0 : Keeps r0 s) : Keeps r0 (State.acquire s) := by
  unfold State.acquire
  with_reducible repeat' first
    | assumption | intro _ | exact Keeps.refl _ | subst x
    | (extract_lets +onlyGivenNames x; first | (have hx : Keeps r0 x := ?_; clear_value x) | (have hx : Keeps r0 x.1 := ?_; clear_value x) | (have hf := fun a => x a; clear hf) | (have hf : CiphState := x; clear hf) | (have hf : SecState := x; clear hf) | clear_value x)
    | apply ite_keeps | apply State.set_keeps | apply State.setB_keeps | apply State.setNat_keeps
    | apply State.modPlu_keeps | apply State.showOutputs_keeps | apply State.settleStep_keeps | dsimp only | split

theorem State.switchTo_keeps {r0 : State} (s : State) (e : Nat) (h0 : Keeps r0 s) : Keeps r0 (State.switchTo s e) := by
  unfold State.switchTo
  with_reducible repeat' first
    | assumption | apply State.raise_keeps | apply State.acquire_keeps | apply State.addCnt_keeps
    | apply State.showSel_keeps

theorem State.enterHoldover_keeps {r0 : State} (s : State) (freq : Int) (h0 : Keeps r0 s) : Keeps r0
    (State.enterHoldover s freq) := by
  unfold State.enterHoldover
  with_reducible repeat' first
    | assumption | intro _ | exact Keeps.refl _ | subst x
    | (extract_lets +onlyGivenNames x; first | (have hx : Keeps r0 x := ?_; clear_value x) | (have hx : Keeps r0 x.1 := ?_; clear_value x) | (have hf := fun a => x a; clear hf) | (have hf : CiphState := x; clear hf) | (have hf : SecState := x; clear hf) | clear_value x)
    | apply ite_keeps | apply State.set_keeps | apply State.setB_keeps | apply State.setInt_keeps
    | apply State.addCnt_keeps | apply State.raise_keeps | apply State.modPlu_keeps | apply State.showOutputs_keeps
    | apply State.settleStep_keeps | apply State.showFreq_keeps | apply State.aim_keeps | dsimp only | split

theorem State.enterFreerun_keeps {r0 : State} (s : State) (h0 : Keeps r0 s) : Keeps r0 (State.enterFreerun s) := by
  unfold State.enterFreerun
  with_reducible repeat' first
    | assumption | intro _ | exact Keeps.refl _ | subst x
    | (extract_lets +onlyGivenNames x; first | (have hx : Keeps r0 x := ?_; clear_value x) | (have hx : Keeps r0 x.1 := ?_; clear_value x) | (have hf := fun a => x a; clear hf) | (have hf : CiphState := x; clear hf) | (have hf : SecState := x; clear hf) | clear_value x)
    | apply ite_keeps | apply State.set_keeps | apply State.setB_keeps | apply State.modPlu_keeps
    | apply State.showOutputs_keeps | apply State.settleStep_keeps | apply State.showFreq_keeps
    | apply State.aim_keeps | dsimp only | split

theorem State.enterLost_keeps {r0 : State} (s : State) (h0 : Keeps r0 s) : Keeps r0 (State.enterLost s) := by
  unfold State.enterLost
  with_reducible repeat' first
    | assumption | intro _ | exact Keeps.refl _ | subst x
    | (extract_lets +onlyGivenNames x; first | (have hx : Keeps r0 x := ?_; clear_value x) | (have hx : Keeps r0 x.1 := ?_; clear_value x) | (have hf := fun a => x a; clear hf) | (have hf : CiphState := x; clear hf) | (have hf : SecState := x; clear hf) | clear_value x)
    | apply ite_keeps | apply State.set_keeps | apply State.setB_keeps | apply State.raise_keeps
    | apply State.modPlu_keeps | apply State.showOutputs_keeps | apply State.settleStep_keeps
    | apply State.showFreq_keeps | apply State.aim_keeps | dsimp only | split

theorem State.holdOrFree_keeps {r0 : State} (s : State) (h0 : Keeps r0 s) : Keeps r0 (State.holdOrFree s) := by
  unfold State.holdOrFree
  with_reducible repeat' first
    | assumption | apply ite_keeps | apply State.enterHoldover_keeps | apply State.enterFreerun_keeps

theorem State.select_keeps {r0 : State} (s : State) (h0 : Keeps r0 s) : Keeps r0 (State.select s) := by
  unfold State.select
  with_reducible repeat' first
    | assumption | exact Keeps.refl _ | apply ite_keeps | apply itep_keeps | apply State.switchTo_keeps
    | apply State.raiseIf_keeps | apply State.showSel_keeps | apply State.holdOrFree_keeps | apply foldl_keeps
    | intro _
    | (extract_lets +onlyGivenNames x; first | (have hx : Keeps r0 x := ?_; clear_value x) | (have hx : Keeps r0 x.1 := ?_; clear_value x) | (have hf := fun a => x a; clear hf) | (have hf : CiphState := x; clear hf) | (have hf : SecState := x; clear hf) | clear_value x)
    | split

theorem State.reselect_keeps {r0 : State} (s : State) (h0 : Keeps r0 s) : Keeps r0 (State.reselect s) := by
  unfold State.reselect
  with_reducible repeat' first
    | assumption | exact Keeps.refl _ | apply ite_keeps | apply State.checkDisagree_keeps | apply State.select_keeps
    | split | refine Keeps.raw ?_ rfl rfl rfl

theorem State.refUpdate_keeps {r0 : State} (s : State) (r : Nat) (h0 : Keeps r0 s) : Keeps r0 (State.refUpdate s r)
    := by
  unfold State.refUpdate
  with_reducible repeat' first
    | assumption | intro _ | exact Keeps.refl _ | subst x
    | (extract_lets +onlyGivenNames x; first | (have hx : Keeps r0 x := ?_; clear_value x) | (have hx : Keeps r0 x.1 := ?_; clear_value x) | (have hf := fun a => x a; clear hf) | (have hf : CiphState := x; clear hf) | (have hf : SecState := x; clear hf) | clear_value x)
    | apply ite_keeps | apply State.setB_keeps | apply State.modRef_keeps | dsimp only | split

theorem State.refChanged_keeps {r0 : State} (s : State) (r : Nat) (h0 : Keeps r0 s) : Keeps r0 (State.refChanged s r)
    := by
  unfold State.refChanged
  with_reducible repeat' first
    | assumption | exact Keeps.refl _ | apply ite_keeps | apply State.reselect_keeps | apply State.refUpdate_keeps
    | split | refine Keeps.raw ?_ rfl rfl rfl

theorem State.pluTrack_keeps {r0 : State} (s : State) (h0 : Keeps r0 s) : Keeps r0 (State.pluTrack s) := by
  unfold State.pluTrack
  with_reducible repeat' first
    | assumption | intro _ | exact Keeps.refl _ | subst x
    | (extract_lets +onlyGivenNames x; first | (have hx : Keeps r0 x := ?_; clear_value x) | (have hx : Keeps r0 x.1 := ?_; clear_value x) | (have hf := fun a => x a; clear hf) | (have hf : CiphState := x; clear hf) | (have hf : SecState := x; clear hf) | clear_value x)
    | apply ite_keeps | apply State.showFreq_keeps | apply State.aim_keeps | dsimp only | split

theorem State.freqJudge_keeps {r0 : State} (s : State) (r due : Nat) (freq : Int) (h0 : Keeps r0 s) : Keeps r0
    (State.freqJudge s r due freq) := by
  unfold State.freqJudge
  with_reducible repeat' first
    | assumption | intro _ | exact Keeps.refl _ | subst x
    | (extract_lets +onlyGivenNames x; first | (have hx : Keeps r0 x := ?_; clear_value x) | (have hx : Keeps r0 x.1 := ?_; clear_value x) | (have hf := fun a => x a; clear hf) | (have hf : CiphState := x; clear hf) | (have hf : SecState := x; clear hf) | clear_value x)
    | apply ite_keeps | apply State.setB_keeps | apply State.setInt_keeps | apply State.settleStep_keeps
    | apply State.refChanged_keeps | apply State.pluTrack_keeps | dsimp only | split

theorem State.oscinFails_keeps {r0 : State} (s : State) (h0 : Keeps r0 s) : Keeps r0 (State.oscinFails s) := by
  unfold State.oscinFails
  with_reducible repeat' first
    | assumption | exact Keeps.refl _ | apply ite_keeps | apply itep_keeps | apply State.modPlu_keeps
    | apply State.raise_keeps | apply State.setB_keeps | apply State.judgeRef_keeps | apply State.raiseIf_keeps
    | apply State.enterLost_keeps | apply State.showSel_keeps | apply foldl_keeps | intro _
    | (extract_lets +onlyGivenNames x; first | (have hx : Keeps r0 x := ?_; clear_value x) | (have hx : Keeps r0 x.1 := ?_; clear_value x) | (have hf := fun a => x a; clear hf) | (have hf : CiphState := x; clear hf) | (have hf : SecState := x; clear hf) | clear_value x)
    | split

theorem State.oscinReturns_keeps {r0 : State} (s : State) (h0 : Keeps r0 s) : Keeps r0 (State.oscinReturns s) := by
  unfold State.oscinReturns
  with_reducible repeat' first
    | assumption | exact Keeps.refl _ | apply ite_keeps | apply itep_keeps | apply State.modPlu_keeps
    | apply State.judgeRef_keeps | apply State.setB_keeps | apply foldl_keeps | intro _
    | (extract_lets +onlyGivenNames x; first | (have hx : Keeps r0 x := ?_; clear_value x) | (have hx : Keeps r0 x.1 := ?_; clear_value x) | (have hf := fun a => x a; clear hf) | (have hf : CiphState := x; clear hf) | (have hf : SecState := x; clear hf) | clear_value x)
    | split

theorem State.clearHist_keeps {r0 : State} (s : State) (h0 : Keeps r0 s) : Keeps r0 (State.clearHist s) := by
  unfold State.clearHist
  with_reducible repeat' first | assumption | apply State.setB_keeps | apply State.modPlu_keeps

theorem State.writePluEn_keeps {r0 : State} (s : State) (v : Bool) (h0 : Keeps r0 s) : Keeps r0 (State.writePluEn s v) := by
  unfold State.writePluEn
  with_reducible repeat' first
    | assumption | apply ite_keeps | apply State.setB_keeps | apply State.select_keeps | apply State.showSel_keeps
    | apply State.clearHist_keeps | apply State.enterFreerun_keeps

theorem State.writeForceHold_keeps {r0 : State} (s : State) (v : Bool) (h0 : Keeps r0 s) : Keeps r0
    (State.writeForceHold s v) := by
  unfold State.writeForceHold
  with_reducible repeat' first | assumption | apply State.setB_keeps | apply State.select_keeps

theorem State.writePluCtrl_keeps {r0 : State} (s : State) (en force : Option Bool) (clr : Bool) (h0 : Keeps r0 s) :
    Keeps r0 (State.writePluCtrl s en force clr) := by
  unfold State.writePluCtrl
  with_reducible repeat' first
    | assumption | intro _ | exact Keeps.refl _ | subst x
    | (extract_lets +onlyGivenNames x; first | (have hx : Keeps r0 x := ?_; clear_value x) | (have hx : Keeps r0 x.1 := ?_; clear_value x) | (have hf := fun a => x a; clear hf) | (have hf : CiphState := x; clear hf) | (have hf : SecState := x; clear hf) | clear_value x)
    | apply ite_keeps | apply State.setB_keeps | apply State.clearHist_keeps | apply State.writePluEn_keeps
    | apply State.writeForceHold_keeps | dsimp only | split

theorem State.addPhaseStep_keeps {r0 : State} (s : State) (v : Word) (h0 : Keeps r0 s) : Keeps r0 (State.addPhaseStep
    s v) := by
  unfold State.addPhaseStep
  with_reducible repeat' first
    | assumption | intro _ | exact Keeps.refl _ | subst x
    | (extract_lets +onlyGivenNames x; first | (have hx : Keeps r0 x := ?_; clear_value x) | (have hx : Keeps r0 x.1 := ?_; clear_value x) | (have hf := fun a => x a; clear hf) | (have hf : CiphState := x; clear hf) | (have hf : SecState := x; clear hf) | clear_value x)
    | apply ite_keeps | apply State.setInt_keeps | apply State.raiseIf_keeps | apply State.modPlu_keeps
    | apply State.settleStep_keeps | dsimp only | split

theorem State.writeClkout_keeps {r0 : State} (s : State) (k : Nat) (v : Word) (h0 : Keeps r0 s) : Keeps r0
    (State.writeClkout s k v).1 := by
  unfold State.writeClkout
  with_reducible repeat' first
    | assumption | apply ite_keeps | apply itep_keeps | apply State.raise_keeps | apply State.showOutputs_keeps
    | apply State.set_keeps | exact Keeps.refl _

theorem State.pluResetEnter_keeps {r0 : State} (s : State) (h0 : Keeps r0 s) : Keeps r0 (State.pluResetEnter s) := by
  unfold State.pluResetEnter
  with_reducible repeat' first
    | assumption | intro _ | exact Keeps.refl _ | subst x
    | (extract_lets +onlyGivenNames x; first | (have hx : Keeps r0 x := ?_; clear_value x) | (have hx : Keeps r0 x.1 := ?_; clear_value x) | (have hf := fun a => x a; clear hf) | (have hf : CiphState := x; clear hf) | (have hf : SecState := x; clear hf) | clear_value x)
    | apply ite_keeps | apply State.setB_keeps | apply State.resetRange_keeps | dsimp only | split
    | refine Keeps.raw ?_ rfl rfl rfl

theorem State.pluResetLeave_keeps {r0 : State} (s : State) (h0 : Keeps r0 s) : Keeps r0 (State.pluResetLeave s) := by
  unfold State.pluResetLeave
  with_reducible repeat' first
    | assumption | intro _ | exact Keeps.refl _ | subst x
    | (extract_lets +onlyGivenNames x; first | (have hx : Keeps r0 x := ?_; clear_value x) | (have hx : Keeps r0 x.1 := ?_; clear_value x) | (have hf := fun a => x a; clear hf) | (have hf : CiphState := x; clear hf) | (have hf : SecState := x; clear hf) | clear_value x)
    | apply ite_keeps | apply State.setB_keeps | apply State.modPlu_keeps | apply State.showFreq_keeps
    | apply State.enterHoldover_keeps | apply State.enterFreerun_keeps | apply State.enterLost_keeps
    | apply State.refUpdate_keeps | apply foldl_keeps_of | dsimp only | split

/-! ### Pmon.lean -/

theorem State.touch_keeps {r0 : State} (s : State) (n : Lane) (h0 : Keeps r0 s) : Keeps r0 (State.touch s n) := by
  unfold State.touch
  with_reducible repeat' first
    | assumption | intro _ | exact Keeps.refl _ | subst x
    | (extract_lets +onlyGivenNames x; first | (have hx : Keeps r0 x := ?_; clear_value x) | (have hx : Keeps r0 x.1 := ?_; clear_value x) | (have hf := fun a => x a; clear hf) | (have hf : CiphState := x; clear hf) | (have hf : SecState := x; clear hf) | clear_value x)
    | apply ite_keeps | apply State.setB_keeps | apply State.modPmon_keeps | dsimp only | split

theorem State.sectionBlock_keeps {r0 : State} (s : State) (n : Lane) (err : Bool) (h0 : Keeps r0 s) : Keeps r0
    (State.sectionBlock s n err) := by
  unfold State.sectionBlock
  with_reducible repeat' first
    | assumption | intro _ | exact Keeps.refl _ | subst x
    | (extract_lets +onlyGivenNames x; first | (have hx : Keeps r0 x := ?_; clear_value x) | (have hx : Keeps r0 x.1 := ?_; clear_value x) | (have hf := fun a => x a; clear hf) | (have hf : CiphState := x; clear hf) | (have hf : SecState := x; clear hf) | clear_value x)
    | apply ite_keeps | apply State.modPmon_keeps | apply State.touch_keeps | dsimp only | split

theorem State.sectionFar_keeps {r0 : State} (s : State) (n : Lane) (h0 : Keeps r0 s) : Keeps r0 (State.sectionFar s n) := by
  unfold State.sectionFar
  with_reducible repeat' first | assumption | apply State.modPmon_keeps | apply State.touch_keeps

theorem State.pathBlock_keeps {r0 : State} (s : State) (n : Lane) (h : Nat) (err fe : Bool) (h0 : Keeps r0 s) : Keeps
    r0 (State.pathBlock s n h err fe) := by
  unfold State.pathBlock
  with_reducible repeat' first
    | assumption | intro _ | exact Keeps.refl _ | subst x
    | (extract_lets +onlyGivenNames x; first | (have hx : Keeps r0 x := ?_; clear_value x) | (have hx : Keeps r0 x.1 := ?_; clear_value x) | (have hf := fun a => x a; clear hf) | (have hf : CiphState := x; clear hf) | (have hf : SecState := x; clear hf) | clear_value x)
    | apply ite_keeps | apply State.modPmon_keeps | apply State.touch_keeps | dsimp only | split

theorem State.tribBlock_keeps {r0 : State} (s : State) (n : Lane) (j : Nat) (err fe : Bool) (h0 : Keeps r0 s) : Keeps
    r0 (State.tribBlock s n j err fe) := by
  unfold State.tribBlock
  with_reducible repeat' first
    | assumption | intro _ | exact Keeps.refl _ | subst x
    | (extract_lets +onlyGivenNames x; first | (have hx : Keeps r0 x := ?_; clear_value x) | (have hx : Keeps r0 x.1 := ?_; clear_value x) | (have hf := fun a => x a; clear hf) | (have hf : CiphState := x; clear hf) | (have hf : SecState := x; clear hf) | clear_value x)
    | apply ite_keeps | apply State.modPmon_keeps | apply State.touch_keeps | dsimp only | split

theorem State.pmonLog_keeps {r0 : State} (s : State) (n : Lane) (sec ty ix id kind clear value : Nat) (h0 : Keeps r0
    s) : Keeps r0 (State.pmonLog s n sec ty ix id kind clear value) := by
  unfold State.pmonLog
  with_reducible repeat' first | assumption | apply State.setNat_keeps | apply State.raise_keeps | apply State.set_keeps

theorem State.alerts_keeps {r0 : State} (s : State) (n : Lane) (sec key : Nat) (h0 : Keeps r0 s) : Keeps r0
    (State.alerts s n sec key) := by
  unfold State.alerts
  with_reducible repeat' first
    | assumption | exact Keeps.refl _ | apply ite_keeps | apply itep_keeps | apply State.pmonLog_keeps
    | apply State.modPmon_keeps | apply foldl_keeps | intro _
    | (extract_lets +onlyGivenNames x; first | (have hx : Keeps r0 x := ?_; clear_value x) | (have hx : Keeps r0 x.1 := ?_; clear_value x) | (have hf := fun a => x a; clear hf) | (have hf : CiphState := x; clear hf) | (have hf : SecState := x; clear hf) | clear_value x)
    | split

theorem State.evalEntity_keeps {r0 : State} (s : State) (n : Lane) (g : SecGather) (key : Nat) (a : SecAcc) (h0 :
    Keeps r0 s) : Keeps r0 (State.evalEntity s n g key a) := by
  unfold State.evalEntity
  with_reducible repeat' first
    | assumption | intro _ | exact Keeps.refl _ | subst x
    | (extract_lets +onlyGivenNames x; first | (have hx : Keeps r0 x := ?_; clear_value x) | (have hx : Keeps r0 x.1 := ?_; clear_value x) | (have hf := fun a => x a; clear hf) | (have hf : CiphState := x; clear hf) | (have hf : SecState := x; clear hf) | clear_value x)
    | apply ite_keeps | apply State.setReg_keeps | apply State.setB_keeps | apply State.modPmon_keeps
    | apply State.raiseIf_keeps | apply State.alerts_keeps | dsimp only | split

theorem State.evalSecond_keeps {r0 : State} (s : State) (n : Lane) (g : SecGather) (h0 : Keeps r0 s) : Keeps r0
    (State.evalSecond s n g) := by
  unfold State.evalSecond
  with_reducible repeat' first
    | assumption | intro _ | exact Keeps.refl _ | subst x
    | (extract_lets +onlyGivenNames x; first | (have hx : Keeps r0 x := ?_; clear_value x) | (have hx : Keeps r0 x.1 := ?_; clear_value x) | (have hf := fun a => x a; clear hf) | (have hf : CiphState := x; clear hf) | (have hf : SecState := x; clear hf) | clear_value x)
    | apply ite_keeps | apply State.setWide_keeps | apply State.modPmon_keeps | apply State.evalEntity_keeps
    | apply foldl_keeps_of | dsimp only | split

theorem State.evalLane_keeps {r0 : State} (s : State) (n : Lane) (h0 : Keeps r0 s) : Keeps r0 (State.evalLane s n) :=
    by
  unfold State.evalLane
  with_reducible repeat' first
    | assumption | intro _ | exact Keeps.refl _ | subst x
    | (extract_lets +onlyGivenNames x; first | (have hx : Keeps r0 x := ?_; clear_value x) | (have hx : Keeps r0 x.1 := ?_; clear_value x) | (have hf := fun a => x a; clear hf) | (have hf : CiphState := x; clear hf) | (have hf : SecState := x; clear hf) | clear_value x)
    | apply ite_keeps | apply State.modPmon_keeps | apply State.evalSecond_keeps | apply foldl_keeps_of | dsimp only
    | split

theorem State.waitEval_keeps {r0 : State} (s : State) (g : SecGather) (h0 : Keeps r0 s) : Keeps r0 (State.waitEval s
    g) := by
  unfold State.waitEval
  with_reducible repeat' first
    | assumption | intro _ | exact Keeps.refl _ | subst x
    | (extract_lets +onlyGivenNames x; first | (have hx : Keeps r0 x := ?_; clear_value x) | (have hx : Keeps r0 x.1 := ?_; clear_value x) | (have hf := fun a => x a; clear hf) | (have hf : CiphState := x; clear hf) | (have hf : SecState := x; clear hf) | clear_value x)
    | apply ite_keeps | apply State.waitClk_keeps | apply State.waitTb_keeps | dsimp only | split

theorem State.fecFlush_keeps {r0 : State} (s : State) (n : Lane) (h0 : Keeps r0 s) : Keeps r0 (State.fecFlush s n) :=
    by
  unfold State.fecFlush
  with_reducible repeat' first
    | assumption | intro _ | exact Keeps.refl _ | subst x
    | (extract_lets +onlyGivenNames x; first | (have hx : Keeps r0 x := ?_; clear_value x) | (have hx : Keeps r0 x.1 := ?_; clear_value x) | (have hf := fun a => x a; clear hf) | (have hf : CiphState := x; clear hf) | (have hf : SecState := x; clear hf) | clear_value x)
    | apply ite_keeps | apply State.modPmon_keeps | dsimp only | split

theorem State.rotateBins_keeps {r0 : State} (s : State) (q15 d24 : Bool) (start15 start24 : Nat) (h0 : Keeps r0 s) :
    Keeps r0 (State.rotateBins s q15 d24 start15 start24) := by
  unfold State.rotateBins
  with_reducible repeat' first
    | assumption | intro _ | exact Keeps.refl _ | subst x
    | (extract_lets +onlyGivenNames x; first | (have hx : Keeps r0 x := ?_; clear_value x) | (have hx : Keeps r0 x.1 := ?_; clear_value x) | (have hf := fun a => x a; clear hf) | (have hf : CiphState := x; clear hf) | (have hf : SecState := x; clear hf) | clear_value x)
    | apply ite_keeps | apply State.modPmon_keeps | apply State.eachLane_keeps_of | apply State.touch_keeps
    | dsimp only | split

theorem State.suspectBins_keeps {r0 : State} (s : State) (h0 : Keeps r0 s) : Keeps r0 (State.suspectBins s) := by
  unfold State.suspectBins
  with_reducible repeat' first
    | assumption | exact Keeps.refl _ | apply ite_keeps | apply itep_keeps | apply State.eachLane_keeps
    | apply State.raiseIf_keeps | apply State.modPmon_keeps | apply foldl_keeps | intro _
    | (extract_lets +onlyGivenNames x; first | (have hx : Keeps r0 x := ?_; clear_value x) | (have hx : Keeps r0 x.1 := ?_; clear_value x) | (have hf := fun a => x a; clear hf) | (have hf : CiphState := x; clear hf) | (have hf : SecState := x; clear hf) | clear_value x)
    | split

theorem State.mapChange_keeps {r0 : State} (s : State) (n : Lane) (key : Nat) (h0 : Keeps r0 s) : Keeps r0
    (State.mapChange s n key) := by
  unfold State.mapChange
  with_reducible repeat' first | assumption | apply State.modPmon_keeps

theorem State.clearBins_keeps {r0 : State} (s : State) (n : Lane) (h0 : Keeps r0 s) : Keeps r0 (State.clearBins s n)
    := by
  unfold State.clearBins
  with_reducible repeat' first
    | assumption | intro _ | exact Keeps.refl _ | subst x
    | (extract_lets +onlyGivenNames x; first | (have hx : Keeps r0 x := ?_; clear_value x) | (have hx : Keeps r0 x.1 := ?_; clear_value x) | (have hf := fun a => x a; clear hf) | (have hf : CiphState := x; clear hf) | (have hf : SecState := x; clear hf) | clear_value x)
    | apply ite_keeps | apply State.modPmon_keeps | dsimp only | split

theorem State.gauge_keeps {r0 : State} (s : State) (n : Lane) (xs : List Int) (g metric : Nat) (low : Bool) (bit :
    Fld) (h0 : Keeps r0 s) : Keeps r0 (State.gauge s n xs g metric low bit) := by
  unfold State.gauge
  with_reducible repeat' first
    | assumption | intro _ | exact Keeps.refl _ | subst x
    | (extract_lets +onlyGivenNames x; first | (have hx : Keeps r0 x := ?_; clear_value x) | (have hx : Keeps r0 x.1 := ?_; clear_value x) | (have hf := fun a => x a; clear hf) | (have hf : CiphState := x; clear hf) | (have hf : SecState := x; clear hf) | clear_value x)
    | apply ite_keeps | apply State.setB_keeps | apply State.pmonLog_keeps | dsimp only | split

theorem State.gaugeOff_keeps {r0 : State} (s : State) (n : Lane) (g : Nat) (h0 : Keeps r0 s) : Keeps r0
    (State.gaugeOff s n g) := by
  unfold State.gaugeOff
  with_reducible repeat' first
    | assumption | intro _ | exact Keeps.refl _ | subst x
    | (extract_lets +onlyGivenNames x; first | (have hx : Keeps r0 x := ?_; clear_value x) | (have hx : Keeps r0 x.1 := ?_; clear_value x) | (have hf := fun a => x a; clear hf) | (have hf : CiphState := x; clear hf) | (have hf : SecState := x; clear hf) | clear_value x)
    | apply ite_keeps | apply State.setB_keeps | apply State.pmonLog_keeps | dsimp only | split

/-! ### Servo.lean -/

theorem State.modServo_keeps {r0 : State} (s : State) (x : Nat) (f : Servo → Servo) (h0 : Keeps r0 s) : Keeps r0
    (State.modServo s x f) := by
  unfold State.modServo
  with_reducible repeat' first | assumption | apply State.modTb_keeps

theorem State.setTbState_keeps {r0 : State} (s : State) (x v : Nat) (h0 : Keeps r0 s) : Keeps r0 (State.setTbState s
    x v) := by
  unfold State.setTbState
  with_reducible repeat' first
    | assumption | intro _ | exact Keeps.refl _ | subst x
    | (extract_lets +onlyGivenNames x; first | (have hx : Keeps r0 x := ?_; clear_value x) | (have hx : Keeps r0 x.1 := ?_; clear_value x) | (have hf := fun a => x a; clear hf) | (have hf : CiphState := x; clear hf) | (have hf : SecState := x; clear hf) | clear_value x)
    | apply ite_keeps | apply State.set_keeps | apply State.raiseIf_keeps | apply State.modServo_keeps | dsimp only
    | split

theorem State.sampled_keeps {r0 : State} (s : State) (x : Nat) (h0 : Keeps r0 s) : Keeps r0 (State.sampled s x) := by
  unfold State.sampled
  with_reducible repeat' first
    | assumption | apply ite_keeps | apply State.modServo_keeps | apply State.setTbState_keeps

theorem State.acceptSample_keeps {r0 : State} (s : State) (x : Nat) (ps : Int) (h0 : Keeps r0 s) : Keeps r0
    (State.acceptSample s x ps) := by
  unfold State.acceptSample
  with_reducible repeat' first | assumption | apply ite_keeps | apply State.sampled_keeps | apply State.modServo_keeps

theorem State.syncTb_keeps {r0 : State} (s : State) (x : Nat) (h0 : Keeps r0 s) : Keeps r0 (State.syncTb s x) := by
  unfold State.syncTb
  with_reducible repeat' first | assumption | apply ite_keeps | apply State.modServo_keeps | apply State.sampled_keeps

theorem State.syncTbs_keeps {r0 : State} (s : State) (h0 : Keeps r0 s) : Keeps r0 (State.syncTbs s) := by
  unfold State.syncTbs
  with_reducible repeat' first | assumption | apply State.syncTb_keeps

theorem State.dropSamples_keeps {r0 : State} (s : State) (x : Nat) (h0 : Keeps r0 s) : Keeps r0 (State.dropSamples s
    x) := by
  unfold State.dropSamples
  with_reducible repeat' first | assumption | apply State.modServo_keeps

/-! ### Level.lean -/

theorem State.flushHeld_keeps {r0 : State} (s : State) (p : Island → Bool) (h0 : Keeps r0 s) : Keeps r0
    (State.flushHeld s p) := by
  unfold State.flushHeld
  with_reducible repeat' first
    | assumption | intro _ | exact Keeps.refl _ | subst x
    | (extract_lets +onlyGivenNames x; first | (have hx : Keeps r0 x := ?_; clear_value x) | (have hx : Keeps r0 x.1 := ?_; clear_value x) | (have hf := fun a => x a; clear hf) | (have hf : CiphState := x; clear hf) | (have hf : SecState := x; clear hf) | clear_value x)
    | apply ite_keeps | apply State.addNow_keeps | apply foldl_keeps_of | dsimp only | split
    | refine Keeps.raw ?_ rfl rfl rfl

theorem State.levelRestart_keeps {r0 : State} (s : State) (n : Lane) (h0 : Keeps r0 s) : Keeps r0 (State.levelRestart
    s n) := by
  unfold State.levelRestart
  with_reducible repeat' first
    | assumption | intro _ | exact Keeps.refl _ | subst x
    | (extract_lets +onlyGivenNames x; first | (have hx : Keeps r0 x := ?_; clear_value x) | (have hx : Keeps r0 x.1 := ?_; clear_value x) | (have hf := fun a => x a; clear hf) | (have hf : CiphState := x; clear hf) | (have hf : SecState := x; clear hf) | clear_value x)
    | apply ite_keeps | apply State.setNat_keeps | apply State.modConv_keeps | apply State.modRxd_keeps
    | apply State.modPmon_keeps | dsimp only | split

theorem State.levelRestarts_keeps {r0 : State} (s : State) (h0 : Keeps r0 s) : Keeps r0 (State.levelRestarts s) := by
  unfold State.levelRestarts
  with_reducible repeat' first
    | assumption | exact Keeps.refl _ | exact id_keeps _ | exact ⟨Nat.le_refl _, fun _ => rfl⟩ | apply ite_keeps
    | apply itep_keeps | apply State.eachLane_keeps | apply State.levelRestart_keeps | apply foldl_keeps
    | apply foldlp_keeps | intro _
    | (extract_lets +onlyGivenNames x; first | (have hx : Keeps r0 x := ?_; clear_value x) | (have hx : Keeps r0 x.1 := ?_; clear_value x) | (have hf := fun a => x a; clear hf) | (have hf : CiphState := x; clear hf) | (have hf : SecState := x; clear hf) | clear_value x)
    | subst x | dsimp only | (apply fst_keeps; assumption) | split | refine Keeps.raw ?_ rfl rfl rfl

theorem State.upToDate_keeps {r0 : State} (s : State) (h0 : Keeps r0 s) : Keeps r0 (State.upToDate s) := by
  unfold State.upToDate
  with_reducible repeat' first
    | assumption | intro _ | exact Keeps.refl _ | subst x
    | (extract_lets +onlyGivenNames x; first | (have hx : Keeps r0 x := ?_; clear_value x) | (have hx : Keeps r0 x.1 := ?_; clear_value x) | (have hf := fun a => x a; clear hf) | (have hf : CiphState := x; clear hf) | (have hf : SecState := x; clear hf) | clear_value x)
    | apply ite_keeps | apply State.pluRefresh_keeps | apply State.syncTbs_keeps | apply State.flushHeld_keeps
    | dsimp only | split

theorem State.strobeBins_keeps {r0 : State} (s : State) (q15 d24 : Bool) (start15 start24 : Nat) (h0 : Keeps r0 s) :
    Keeps r0 (State.strobeBins s q15 d24 start15 start24) := by
  unfold State.strobeBins
  with_reducible repeat' first
    | assumption | intro _ | exact Keeps.refl _ | subst x
    | (extract_lets +onlyGivenNames x; first | (have hx : Keeps r0 x := ?_; clear_value x) | (have hx : Keeps r0 x.1 := ?_; clear_value x) | (have hf := fun a => x a; clear hf) | (have hf : CiphState := x; clear hf) | (have hf : SecState := x; clear hf) | clear_value x)
    | apply ite_keeps | apply State.rotateBins_keeps | apply State.suspectBins_keeps | dsimp only | split
    | refine Keeps.raw ?_ rfl rfl rfl

theorem State.keepBefore_keeps {r0 : State} (s : State) (h0 : Keeps r0 s) : Keeps r0 (State.keepBefore s) := by
  unfold State.keepBefore
  with_reducible repeat' first
    | assumption | exact Keeps.refl _ | apply ite_keeps | split | refine Keeps.raw ?_ rfl rfl rfl

theorem State.cstStrobe_keeps {r0 : State} (s : State) (h0 : Keeps r0 s) : Keeps r0 (State.cstStrobe s) := by
  unfold State.cstStrobe
  with_reducible repeat' first
    | assumption | intro _ | exact Keeps.refl _ | subst x
    | (extract_lets +onlyGivenNames x; first | (have hx : Keeps r0 x := ?_; clear_value x) | (have hx : Keeps r0 x.1 := ?_; clear_value x) | (have hf := fun a => x a; clear hf) | (have hf : CiphState := x; clear hf) | (have hf : SecState := x; clear hf) | clear_value x)
    | apply ite_keeps | dsimp only | split | refine Keeps.raw ?_ rfl rfl rfl

theorem State.strobe_keeps {r0 : State} (s : State) (causes inst start15 start24 : Nat) (h0 : Keeps r0 s) :
    Keeps r0 (s.strobe causes inst start15 start24) := by
  unfold State.strobe
  extract_lets flags rot t v
  have h4 : Keeps r0 t := State.strobeBins_keeps _ _ _ _ _ (State.upToDate_keeps _ h0)
  clear_value v t
  refine ite_keeps _ _ _ ?_ (State.cstStrobe_keeps _ (State.levelRestarts_keeps _ ?_))
  · exact Keeps.raw h4 rfl rfl rfl
  · exact Keeps.raw h4 rfl rfl rfl

theorem State.hostLevelNow_keeps {r0 : State} (s : State) (by_ : Source) (h0 : Keeps r0 s) : Keeps r0
    (State.hostLevelNow s by_) := by
  unfold State.hostLevelNow
  with_reducible repeat' first
    | assumption | apply ite_keeps | apply State.refuse_keeps | apply State.elapse_keeps | apply State.answer_keeps
    | apply State.strobe_keeps

theorem State.streamsDue_keeps {r0 : State} (s : State) (x : Level) (h0 : Keeps r0 s) : Keeps r0 (State.streamsDue s
    x) := by
  unfold State.streamsDue
  with_reducible repeat' first
    | assumption | exact Keeps.refl _ | exact id_keeps _ | exact ⟨Nat.le_refl _, fun _ => rfl⟩ | apply ite_keeps
    | apply itep_keeps | apply State.bumpObj_keeps | apply foldl_keeps | apply foldlp_keeps | intro _
    | (extract_lets +onlyGivenNames x; first | (have hx : Keeps r0 x := ?_; clear_value x) | (have hx : Keeps r0 x.1 := ?_; clear_value x) | (have hf := fun a => x a; clear hf) | (have hf : CiphState := x; clear hf) | (have hf : SecState := x; clear hf) | clear_value x)
    | subst x | dsimp only | (apply fst_keeps; assumption) | split | refine Keeps.raw ?_ rfl rfl rfl

theorem State.scheduleSlot_keeps {r0 : State} (s : State) (by_ : Source) (slot ns : Nat) (h0 : Keeps r0 s) : Keeps r0
    (State.scheduleSlot s by_ slot ns) := by
  unfold State.scheduleSlot
  with_reducible repeat' first
    | assumption | exact Keeps.refl _ | exact id_keeps _ | exact ⟨Nat.le_refl _, fun _ => rfl⟩ | apply ite_keeps
    | apply itep_keeps | apply State.refuse_keeps | apply State.answer_keeps | apply foldl_keeps | apply foldlp_keeps
    | intro _
    | (extract_lets +onlyGivenNames x; first | (have hx : Keeps r0 x := ?_; clear_value x) | (have hx : Keeps r0 x.1 := ?_; clear_value x) | (have hf := fun a => x a; clear hf) | (have hf : CiphState := x; clear hf) | (have hf : SecState := x; clear hf) | clear_value x)
    | subst x | dsimp only | (apply fst_keeps; assumption) | split | refine Keeps.raw ?_ rfl rfl rfl

theorem State.holdLevel_keeps {r0 : State} (s : State) (by_ : Source) (h0 : Keeps r0 s) : Keeps r0 (State.holdLevel s
    by_) := by
  unfold State.holdLevel
  with_reducible repeat' first
    | assumption | exact Keeps.refl _ | exact id_keeps _ | exact ⟨Nat.le_refl _, fun _ => rfl⟩ | apply ite_keeps
    | apply itep_keeps | apply State.refuse_keeps | apply State.answer_keeps | apply foldl_keeps | apply foldlp_keeps
    | intro _
    | (extract_lets +onlyGivenNames x; first | (have hx : Keeps r0 x := ?_; clear_value x) | (have hx : Keeps r0 x.1 := ?_; clear_value x) | (have hf := fun a => x a; clear hf) | (have hf : CiphState := x; clear hf) | (have hf : SecState := x; clear hf) | clear_value x)
    | subst x | dsimp only | (apply fst_keeps; assumption) | split | refine Keeps.raw ?_ rfl rfl rfl

theorem State.releaseLevel_keeps {r0 : State} (s : State) (by_ : Source) (h0 : Keeps r0 s) : Keeps r0
    (State.releaseLevel s by_) := by
  unfold State.releaseLevel
  with_reducible repeat' first
    | assumption | exact Keeps.refl _ | exact id_keeps _ | exact ⟨Nat.le_refl _, fun _ => rfl⟩ | apply ite_keeps
    | apply itep_keeps | apply foldl_keeps | apply foldlp_keeps | intro _
    | (extract_lets +onlyGivenNames x; first | (have hx : Keeps r0 x := ?_; clear_value x) | (have hx : Keeps r0 x.1 := ?_; clear_value x) | (have hf := fun a => x a; clear hf) | (have hf : CiphState := x; clear hf) | (have hf : SecState := x; clear hf) | clear_value x)
    | subst x | dsimp only | (apply fst_keeps; assumption) | split | refine Keeps.raw ?_ rfl rfl rfl

theorem State.clearMix_keeps {r0 : State} (s : State) (h0 : Keeps r0 s) : Keeps r0 (State.clearMix s) := by
  unfold State.clearMix
  with_reducible repeat' first | assumption | apply State.setB_keeps

theorem State.lateLevel_keeps {r0 : State} (s : State) (old new : Nat) (h0 : Keeps r0 s) : Keeps r0 (State.lateLevel s
    old new) := by
  unfold State.lateLevel
  with_reducible repeat' first
    | assumption | exact Keeps.refl _ | exact id_keeps _ | exact ⟨Nat.le_refl _, fun _ => rfl⟩ | apply ite_keeps
    | apply itep_keeps | apply State.strobe_keeps | apply foldl_keeps | apply foldlp_keeps | intro _
    | (extract_lets +onlyGivenNames x; first | (have hx : Keeps r0 x := ?_; clear_value x) | (have hx : Keeps r0 x.1 := ?_; clear_value x) | (have hf := fun a => x a; clear hf) | (have hf : CiphState := x; clear hf) | (have hf : SecState := x; clear hf) | clear_value x)
    | subst x | dsimp only | (apply fst_keeps; assumption) | split | refine Keeps.raw ?_ rfl rfl rfl

end Sys2Proof.Machine
end

