-- ==== Sys2Proof/Laws/KeepsTime.lean ====
section
/-!
SUPPORT. No operation undoes what `Keeps` lists: memory words, Cornerstone's taps, TIME and LFR.
-/

-- one theorem after another: all at once would not fit the memory
set_option Elab.async false
set_option linter.all false

namespace Sys2Proof.Machine

/-! ### MemCode.lean -/

theorem State.modMem_keeps {r0 : State} (s : State) (f : MemState → MemState) (h0 : Keeps r0 s) : Keeps r0
    (State.modMem s f) :=
  Keeps.raw h0 rfl rfl rfl

theorem State.setPoison_keeps {r0 : State} (s : State) (l : List (Nat × Nat × Nat)) (h0 : Keeps r0 s) : Keeps r0
    (State.setPoison s l) := by
  unfold State.setPoison
  with_reducible repeat' first
    | assumption | exact Keeps.refl _ | apply ite_keeps | apply itep_keeps | apply State.modMem_keeps
    | apply State.set_keeps | apply State.setB_keeps | apply foldl_keeps | intro _
    | (extract_lets +onlyGivenNames x; first | (have hx : Keeps r0 x := ?_; clear_value x) | (have hx : Keeps r0 x.1 := ?_; clear_value x) | (have hf := fun a => x a; clear hf) | (have hf : CiphState := x; clear hf) | (have hf : SecState := x; clear hf) | clear_value x)
    | split

theorem State.poison_keeps {r0 : State} (s : State) (a inst addr : Nat) (h0 : Keeps r0 s) : Keeps r0 (State.poison s a
    inst addr) := by
  unfold State.poison
  with_reducible repeat' first | assumption | apply ite_keeps | apply State.setPoison_keeps

theorem State.unpoison_keeps {r0 : State} (s : State) (a inst addr : Nat) (h0 : Keeps r0 s) : Keeps r0 (State.unpoison
    s a inst addr) := by
  unfold State.unpoison
  with_reducible repeat' first | assumption | apply ite_keeps | apply State.setPoison_keeps

theorem State.memLog_keeps {r0 : State} (s : State) (kind a inst addr : Nat) (syn : Nat × Nat) (h0 : Keeps r0 s) :
    Keeps r0 (State.memLog s kind a inst addr syn) := by
  unfold State.memLog
  with_reducible repeat' first
    | assumption | apply ite_keeps | apply State.raise_keeps | apply State.addCnt_keeps | apply State.setNat_keeps
    | apply State.set_keeps

theorem State.memCheck_keeps {r0 : State} (s : State) (a inst addr flips : Nat) (h0 : Keeps r0 s) : Keeps r0
    (State.memCheck s a inst addr flips).1 := by
  unfold State.memCheck
  with_reducible repeat' first
    | assumption | exact Keeps.refl _ | apply ite_keeps | apply itep_keeps | apply State.memLog_keeps
    | apply State.raise_keeps | apply foldl_keeps | intro _
    | (extract_lets +onlyGivenNames x; first | (have hx : Keeps r0 x := ?_; clear_value x) | (have hx : Keeps r0 x.1 := ?_; clear_value x) | (have hf := fun a => x a; clear hf) | (have hf : CiphState := x; clear hf) | (have hf : SecState := x; clear hf) | clear_value x)
    | split

theorem State.memSet_keeps {r0 : State} (s : State) (a inst addr w : Nat) (h0 : Keeps r0 s) : Keeps r0 (State.memSet
    s a inst addr w) := by
  unfold State.memSet
  with_reducible repeat' first
    | assumption | intro _ | exact Keeps.refl _ | subst x
    | (extract_lets +onlyGivenNames x; first | (have hx : Keeps r0 x := ?_; clear_value x) | (have hx : Keeps r0 x.1 := ?_; clear_value x) | (have hf := fun a => x a; clear hf) | (have hf : CiphState := x; clear hf) | (have hf : SecState := x; clear hf) | clear_value x)
    | apply ite_keeps | apply State.setNat_keeps | apply State.modMem_keeps | apply foldl_keeps_of | dsimp only
    | split

theorem State.memWrite_keeps {r0 : State} (s : State) (a inst addr w : Nat) (h0 : Keeps r0 s) : Keeps r0
    (State.memWrite s a inst addr w) := by
  unfold State.memWrite
  with_reducible repeat' first
    | assumption | exact Keeps.refl _ | apply ite_keeps | apply State.unpoison_keeps | apply State.memSet_keeps
    | split | refine Keeps.raw ?_ rfl rfl rfl

theorem State.memXor_keeps {r0 : State} (s : State) (a inst addr d : Nat) (h0 : Keeps r0 s) : Keeps r0 (State.memXor
    s a inst addr d) := by
  unfold State.memXor
  with_reducible repeat' first
    | assumption | exact Keeps.refl _ | apply ite_keeps | apply State.memSet_keeps | split
    | refine Keeps.raw ?_ rfl rfl rfl

theorem State.memPartial_keeps {r0 : State} (s : State) (a inst addr flips : Nat) (merge : State → State) (k_merge :
    ∀ x0, Keeps x0 (merge x0)) (h0 : Keeps r0 s) : Keeps r0 (State.memPartial s a inst addr flips merge).1 := by
  unfold State.memPartial
  with_reducible repeat' first
    | assumption | intro _ | exact Keeps.refl _ | subst x
    | (extract_lets +onlyGivenNames x; first | (have hx : Keeps r0 x := ?_; clear_value x) | (have hx : Keeps r0 x.1 := ?_; clear_value x) | (have hf := fun a => x a; clear hf) | (have hf : CiphState := x; clear hf) | (have hf : SecState := x; clear hf) | clear_value x)
    | apply ite_keeps | apply itep_keeps | apply State.raise_keeps | apply State.poison_keeps
    | apply State.memLog_keeps | apply State.memXor_keeps | refine Keeps.trans ?_ (k_merge _) | dsimp only
    | (apply fst_keeps; assumption) | split

theorem State.memFlush_keeps {r0 : State} (s : State) (h0 : Keeps r0 s) : Keeps r0 (State.memFlush s) := by
  unfold State.memFlush
  with_reducible repeat' first
    | assumption | exact Keeps.refl _ | apply ite_keeps | apply itep_keeps | apply State.modMem_keeps
    | apply State.memPartial_keeps | apply State.setReg_keeps | apply State.logAcc_keeps | apply foldl_keeps | intro _
    | (extract_lets +onlyGivenNames x; first | (have hx : Keeps r0 x := ?_; clear_value x) | (have hx : Keeps r0 x.1 := ?_; clear_value x) | (have hf := fun a => x a; clear hf) | (have hf : CiphState := x; clear hf) | (have hf : SecState := x; clear hf) | clear_value x)
    | split

theorem State.winWrite_keeps {r0 : State} (s : State) (a : Nat) (v : Word) (h0 : Keeps r0 s) : Keeps r0
    (State.winWrite s a v) := by
  unfold State.winWrite
  with_reducible repeat' first
    | assumption | exact Keeps.refl _ | apply ite_keeps | apply itep_keeps | apply State.unpoison_keeps
    | apply State.modMem_keeps | apply State.setReg_keeps | apply State.memFlush_keeps | apply State.memPartial_keeps
    | apply State.logAcc_keeps | apply foldl_keeps | intro _
    | (extract_lets +onlyGivenNames x; first | (have hx : Keeps r0 x := ?_; clear_value x) | (have hx : Keeps r0 x.1 := ?_; clear_value x) | (have hf := fun a => x a; clear hf) | (have hf : CiphState := x; clear hf) | (have hf : SecState := x; clear hf) | clear_value x)
    | split

theorem State.winTouch_keeps {r0 : State} (s : State) (inst ofs n : Nat) (h0 : Keeps r0 s) : Keeps r0 (State.winTouch
    s inst ofs n).1 := by
  unfold State.winTouch
  with_reducible repeat' first
    | assumption | exact Keeps.refl _ | exact id_keeps _ | exact ⟨Nat.le_refl _, fun _ => rfl⟩ | apply ite_keeps
    | apply itep_keeps | apply State.memFlush_keeps | apply State.unpoison_keeps | apply State.memPartial_keeps
    | apply foldl_keeps | apply foldlp_keeps | intro _
    | (extract_lets +onlyGivenNames x; first | (have hx : Keeps r0 x := ?_; clear_value x) | (have hx : Keeps r0 x.1 := ?_; clear_value x) | (have hf := fun a => x a; clear hf) | (have hf : CiphState := x; clear hf) | (have hf : SecState := x; clear hf) | clear_value x)
    | subst x | dsimp only | (apply fst_keeps; assumption) | split

theorem State.winGood_keeps {r0 : State} (s : State) (inst ofs n : Nat) (h0 : Keeps r0 s) : Keeps r0 (State.winGood s
    inst ofs n).1 := by
  unfold State.winGood
  with_reducible repeat' first
    | assumption | exact Keeps.refl _ | exact id_keeps _ | exact ⟨Nat.le_refl _, fun _ => rfl⟩ | apply ite_keeps
    | apply itep_keeps | apply State.memFlush_keeps | apply State.memCheck_keeps | apply foldl_keeps
    | apply foldlp_keeps | intro _
    | (extract_lets +onlyGivenNames x; first | (have hx : Keeps r0 x := ?_; clear_value x) | (have hx : Keeps r0 x.1 := ?_; clear_value x) | (have hf := fun a => x a; clear hf) | (have hf : CiphState := x; clear hf) | (have hf : SecState := x; clear hf) | clear_value x)
    | subst x | dsimp only | (apply fst_keeps; assumption) | split

theorem State.memClean_keeps {r0 : State} (s : State) (a inst : Nat) (h0 : Keeps r0 s) : Keeps r0 (State.memClean s a
    inst) := by
  unfold State.memClean
  with_reducible repeat' first | assumption | apply ite_keeps | apply State.setPoison_keeps

theorem State.memRefill_keeps {r0 : State} (s : State) (a inst : Nat) (h0 : Keeps r0 s) : Keeps r0 (State.memRefill s
    a inst) := by
  unfold State.memRefill
  with_reducible repeat' first
    | assumption | intro _ | exact Keeps.refl _ | subst x
    | (extract_lets +onlyGivenNames x; first | (have hx : Keeps r0 x := ?_; clear_value x) | (have hx : Keeps r0 x.1 := ?_; clear_value x) | (have hf := fun a => x a; clear hf) | (have hf : CiphState := x; clear hf) | (have hf : SecState := x; clear hf) | clear_value x)
    | apply ite_keeps | apply State.setB_keeps | apply State.modMem_keeps | apply State.memClean_keeps | dsimp only
    | split

theorem State.memLane_keeps {r0 : State} (s : State) (n : Nat) (h0 : Keeps r0 s) : Keeps r0 (State.memLane s n) := by
  unfold State.memLane
  with_reducible repeat' first
    | assumption | exact Keeps.refl _ | apply ite_keeps | apply itep_keeps | apply State.memRefill_keeps
    | apply foldl_keeps | intro _
    | (extract_lets +onlyGivenNames x; first | (have hx : Keeps r0 x := ?_; clear_value x) | (have hx : Keeps r0 x.1 := ?_; clear_value x) | (have hf := fun a => x a; clear hf) | (have hf : CiphState := x; clear hf) | (have hf : SecState := x; clear hf) | clear_value x)
    | split

theorem State.memGroup_keeps {r0 : State} (s : State) (g : Nat) (h0 : Keeps r0 s) : Keeps r0 (State.memGroup s g) := by
  unfold State.memGroup
  with_reducible repeat' first
    | assumption | exact Keeps.refl _ | apply ite_keeps | apply itep_keeps | apply State.memRefill_keeps
    | apply foldl_keeps | intro _
    | (extract_lets +onlyGivenNames x; first | (have hx : Keeps r0 x := ?_; clear_value x) | (have hx : Keeps r0 x.1 := ?_; clear_value x) | (have hf := fun a => x a; clear hf) | (have hf : CiphState := x; clear hf) | (have hf : SecState := x; clear hf) | clear_value x)
    | split

theorem State.memCiph_keeps {r0 : State} (s : State) (h0 : Keeps r0 s) : Keeps r0 (State.memCiph s) := by
  unfold State.memCiph
  with_reducible repeat' first
    | assumption | exact Keeps.refl _ | apply ite_keeps | apply itep_keeps | apply State.memRefill_keeps
    | apply foldl_keeps | intro _
    | (extract_lets +onlyGivenNames x; first | (have hx : Keeps r0 x := ?_; clear_value x) | (have hx : Keeps r0 x.1 := ?_; clear_value x) | (have hf := fun a => x a; clear hf) | (have hf : CiphState := x; clear hf) | (have hf : SecState := x; clear hf) | clear_value x)
    | split

theorem State.fillsEnd_keeps {r0 : State} (s : State) (h0 : Keeps r0 s) : Keeps r0 (State.fillsEnd s) := by
  unfold State.fillsEnd
  with_reducible repeat' first
    | assumption | intro _ | exact Keeps.refl _ | subst x
    | (extract_lets +onlyGivenNames x; first | (have hx : Keeps r0 x := ?_; clear_value x) | (have hx : Keeps r0 x.1 := ?_; clear_value x) | (have hf := fun a => x a; clear hf) | (have hf : CiphState := x; clear hf) | (have hf : SecState := x; clear hf) | clear_value x)
    | apply ite_keeps | apply State.setB_keeps | apply foldl_keeps_of | dsimp only | split

/-! ### Tap.lean -/

theorem State.modCst_keeps {r0 : State} (s : State) (f : CstState → CstState) (h0 : Keeps r0 s) : Keeps r0
    (State.modCst s f) :=
  Keeps.raw h0 rfl rfl rfl

theorem State.tapGone_keeps {r0 : State} (s : State) (key : Nat) (h0 : Keeps r0 s) : Keeps r0 (State.tapGone s key) := by
  unfold State.tapGone
  with_reducible repeat' first | assumption | apply ite_keeps | apply State.modCst_keeps

theorem State.cstBins_keeps {r0 : State} (s : State) (f : CstBin → CstBin) (h0 : Keeps r0 s) : Keeps r0 (State.cstBins
    s f) := by
  unfold State.cstBins
  with_reducible repeat' first | assumption | apply State.modCst_keeps

theorem State.cstFlag_keeps {r0 : State} (s : State) (k : Nat) (h0 : Keeps r0 s) : Keeps r0 (State.cstFlag s k) := by
  unfold State.cstFlag
  with_reducible repeat' first | assumption | apply State.cstBins_keeps

theorem State.cstEntFlag_keeps {r0 : State} (s : State) (key k : Nat) (h0 : Keeps r0 s) : Keeps r0 (State.cstEntFlag s
    key k) := by
  unfold State.cstEntFlag
  with_reducible repeat' first | assumption | apply State.cstBins_keeps

theorem State.tapChange_keeps {r0 : State} (s : State) (key : Nat) (h0 : Keeps r0 s) : Keeps r0 (State.tapChange s
    key) := by
  unfold State.tapChange
  with_reducible repeat' first | assumption | apply ite_keeps | apply State.cstEntFlag_keeps

theorem State.tapPort_keeps {r0 : State} (s : State) (p octets frames bad : Nat) (h0 : Keeps r0 s) : Keeps r0
    (State.tapPort s p octets frames bad) := by
  unfold State.tapPort
  with_reducible repeat' first | assumption | apply ite_keeps | apply State.modCst_keeps

theorem State.tapLf_keeps {r0 : State} (s : State) (t : TapLf) (h0 : Keeps r0 s) : Keeps r0 (State.tapLf s t) := by
  unfold State.tapLf
  with_reducible repeat' first | assumption | apply ite_keeps | apply State.modCst_keeps

theorem State.modTap_keeps {r0 : State} (s : State) (f : TapLf → TapLf) (h0 : Keeps r0 s) : Keeps r0 (State.modTap s
    f) := by
  unfold State.modTap
  with_reducible repeat' first | assumption | apply State.modCst_keeps

/-! ### Time.lean -/

theorem State.modTime_keeps {r0 : State} (s : State) (f : TimeState → TimeState) (h0 : Keeps r0 s) : Keeps r0
    (State.modTime s f) :=
  Keeps.raw h0 rfl rfl rfl

theorem State.modLt_keeps {r0 : State} (s : State) (n : Nat) (f : LaneTime → LaneTime) (h0 : Keeps r0 s) : Keeps r0
    (State.modLt s n f) := by
  unfold State.modLt
  with_reducible repeat' first | assumption | apply State.modTime_keeps

theorem State.writeServo_keeps {r0 : State} (s : State) (x : Nat) (v : Word) (h0 : Keeps r0 s) : Keeps r0
    (State.writeServo s x v) := by
  unfold State.writeServo
  with_reducible repeat' first
    | assumption | apply ite_keeps | apply State.syncTb_keeps | apply State.setReg_keeps
    | apply State.setTbState_keeps | apply State.raise_keeps

theorem State.writeHostOfs_keeps {r0 : State} (s : State) (x : Nat) (v : Word) (h0 : Keeps r0 s) : Keeps r0
    (State.writeHostOfs s x v) := by
  unfold State.writeHostOfs
  with_reducible repeat' first | assumption | apply ite_keeps | apply State.acceptSample_keeps

theorem State.setStamp_keeps {r0 : State} (s : State) (a t : Nat) (h0 : Keeps r0 s) : Keeps r0 (State.setStamp s a t) := by
  unfold State.setStamp
  with_reducible repeat' first | assumption | apply State.setNat_keeps

theorem State.utcShift_keeps {r0 : State} (s : State) (new : Int) (ns : Nat) (h0 : Keeps r0 s) : Keeps r0
    (State.utcShift s new ns) := by
  unfold State.utcShift
  with_reducible repeat' first
    | assumption | intro _ | exact Keeps.refl _ | subst x
    | (extract_lets +onlyGivenNames x; first | (have hx : Keeps r0 x := ?_; clear_value x) | (have hx : Keeps r0 x.1 := ?_; clear_value x) | (have hf := fun a => x a; clear hf) | (have hf : CiphState := x; clear hf) | (have hf : SecState := x; clear hf) | clear_value x)
    | apply ite_keeps | apply State.set_keeps | apply State.modPmon_keeps | apply State.eachLane_keeps_of
    | apply State.strobe_keeps | dsimp only | split | refine Keeps.raw ?_ rfl rfl rfl

theorem State.utcAct_keeps {r0 : State} (s : State) (ns : Nat) (h0 : Keeps r0 s) : Keeps r0 (State.utcAct s ns) := by
  unfold State.utcAct
  with_reducible repeat' first
    | assumption | intro _ | exact Keeps.refl _ | subst x
    | (extract_lets +onlyGivenNames x; first | (have hx : Keeps r0 x := ?_; clear_value x) | (have hx : Keeps r0 x.1 := ?_; clear_value x) | (have hf := fun a => x a; clear hf) | (have hf : CiphState := x; clear hf) | (have hf : SecState := x; clear hf) | clear_value x)
    | apply ite_keeps | apply State.setNat_keeps | apply State.raise_keeps | apply State.modTime_keeps
    | apply State.utcShift_keeps | dsimp only | split

theorem State.writeUtc_keeps {r0 : State} (s : State) (v : Word) (h0 : Keeps r0 s) : Keeps r0 (State.writeUtc s v) :=
    by
  unfold State.writeUtc
  with_reducible repeat' first
    | assumption | exact Keeps.refl _ | apply ite_keeps | apply State.set_keeps | apply State.utcShift_keeps | split
    | refine Keeps.raw ?_ rfl rfl rfl

theorem State.writeUtcAt_keeps {r0 : State} (s : State) (v : Word) (h0 : Keeps r0 s) : Keeps r0 (State.writeUtcAt s v) := by
  unfold State.writeUtcAt
  with_reducible repeat' first | assumption | apply ite_keeps | apply State.modTime_keeps | apply State.setReg_keeps

theorem State.servosHold_keeps {r0 : State} (s : State) (every : Bool) (h0 : Keeps r0 s) : Keeps r0 (State.servosHold
    s every) := by
  unfold State.servosHold
  with_reducible repeat' first
    | assumption | exact Keeps.refl _ | apply ite_keeps | apply itep_keeps | apply State.setTbState_keeps
    | apply State.syncTbs_keeps | apply foldl_keeps | intro _
    | (extract_lets +onlyGivenNames x; first | (have hx : Keeps r0 x := ?_; clear_value x) | (have hx : Keeps r0 x.1 := ?_; clear_value x) | (have hf := fun a => x a; clear hf) | (have hf : CiphState := x; clear hf) | (have hf : SecState := x; clear hf) | clear_value x)
    | split

theorem State.wlJudge_keeps {r0 : State} (s : State) (n : Nat) (h0 : Keeps r0 s) : Keeps r0 (State.wlJudge s n) := by
  unfold State.wlJudge
  split
  · exact h0
  · with_reducible repeat' first | assumption | apply State.raiseIf_keeps | apply State.setB_keeps

theorem State.lineWritten_keeps {r0 : State} (s : State) (n : Nat) (h0 : Keeps r0 s) : Keeps r0
    (State.lineWritten s n) := by
  unfold State.lineWritten
  extract_lets t
  have h1 : Keeps r0 t := State.wlJudge_keeps s n h0
  clear_value t
  with_reducible repeat' first | assumption | apply ite_keeps | apply State.setB_keeps

theorem State.timeRefresh_keeps {r0 : State} (s : State) (h0 : Keeps r0 s) : Keeps r0 (State.timeRefresh s) := by
  unfold State.timeRefresh
  with_reducible repeat' first
    | assumption | exact Keeps.refl _ | apply ite_keeps | apply itep_keeps | apply State.setInt_keeps
    | apply State.setNat_keeps | apply State.setB_keeps | apply foldl_keeps | intro _
    | (extract_lets +onlyGivenNames x; first | (have hx : Keeps r0 x := ?_; clear_value x) | (have hx : Keeps r0 x.1 := ?_; clear_value x) | (have hf := fun a => x a; clear hf) | (have hf : CiphState := x; clear hf) | (have hf : SecState := x; clear hf) | clear_value x)
    | split

theorem State.cdToTime_keeps {r0 : State} (s : State) (n : Nat) (cd : Option Int) (h0 : Keeps r0 s) : Keeps r0
    (State.cdToTime s n cd) := by
  unfold State.cdToTime
  with_reducible repeat' first | assumption | apply ite_keeps | apply State.modLt_keeps | split

theorem State.lineSample_keeps {r0 : State} (s : State) (n : Nat) (ofs : Int) (give : Bool) (h0 : Keeps r0 s) : Keeps
    r0 (State.lineSample s n ofs give) := by
  unfold State.lineSample
  with_reducible repeat' first
    | assumption | apply ite_keeps | apply State.setInt_keeps | apply State.acceptSample_keeps

theorem State.rangeJudge_keeps {r0 : State} (s : State) (n : Nat) (h0 : Keeps r0 s) : Keeps r0 (State.rangeJudge s n)
    := by
  unfold State.rangeJudge
  with_reducible repeat' first
    | assumption | intro _ | exact Keeps.refl _ | subst x
    | (extract_lets +onlyGivenNames x; first | (have hx : Keeps r0 x := ?_; clear_value x) | (have hx : Keeps r0 x.1 := ?_; clear_value x) | (have hf := fun a => x a; clear hf) | (have hf : CiphState := x; clear hf) | (have hf : SecState := x; clear hf) | clear_value x)
    | apply ite_keeps | apply State.setB_keeps | apply State.raise_keeps | apply State.modLt_keeps | dsimp only
    | split

theorem State.lineUpdate_keeps {r0 : State} (s : State) (n : Nat) (h0 : Keeps r0 s) : Keeps r0 (State.lineUpdate s n)
    := by
  unfold State.lineUpdate
  with_reducible repeat' first
    | assumption | intro _ | exact Keeps.refl _ | subst x
    | (extract_lets +onlyGivenNames x; first | (have hx : Keeps r0 x := ?_; clear_value x) | (have hx : Keeps r0 x.1 := ?_; clear_value x) | (have hf := fun a => x a; clear hf) | (have hf : CiphState := x; clear hf) | (have hf : SecState := x; clear hf) | clear_value x)
    | apply ite_keeps | apply itep_keeps | apply State.setB_keeps | apply State.setWide_keeps
    | apply State.lineSample_keeps | apply State.rangeJudge_keeps | dsimp only | (apply fst_keeps; assumption)
    | split

theorem State.ksSample_keeps {r0 : State} (s : State) (n : Nat) (h0 : Keeps r0 s) : Keeps r0 (State.ksSample s n) := by
  unfold State.ksSample
  with_reducible repeat' first | assumption | apply ite_keeps | apply State.lineSample_keeps | split

theorem State.rangeResult_keeps {r0 : State} (s : State) (n t1 t2 t3 t4 : Nat) (locked : Bool) (h0 : Keeps r0 s) :
    Keeps r0 (State.rangeResult s n t1 t2 t3 t4 locked) := by
  unfold State.rangeResult
  with_reducible repeat' first
    | assumption | intro _ | exact Keeps.refl _ | subst x
    | (extract_lets +onlyGivenNames x; first | (have hx : Keeps r0 x := ?_; clear_value x) | (have hx : Keeps r0 x.1 := ?_; clear_value x) | (have hf := fun a => x a; clear hf) | (have hf : CiphState := x; clear hf) | (have hf : SecState := x; clear hf) | clear_value x)
    | apply ite_keeps | apply State.setB_keeps | apply State.setWide_keeps | apply State.modLt_keeps
    | apply State.rangeJudge_keeps | apply State.ksSample_keeps | dsimp only | split

theorem State.timedSent_keeps {r0 : State} (s : State) (n c ps : Nat) (h0 : Keeps r0 s) : Keeps r0 (State.timedSent s
    n c ps) := by
  unfold State.timedSent
  with_reducible repeat' first | assumption | apply ite_keeps | apply State.modLt_keeps

theorem State.ttfRow_keeps {r0 : State} (s : State) (n : Nat) (good : Bool) (t : Option Nat) (h0 : Keeps r0 s) :
    Keeps r0 (State.ttfRow s n good t) := by
  unfold State.ttfRow
  with_reducible repeat' first
    | assumption | intro _ | exact Keeps.refl _ | subst x
    | (extract_lets +onlyGivenNames x; first | (have hx : Keeps r0 x := ?_; clear_value x) | (have hx : Keeps r0 x.1 := ?_; clear_value x) | (have hf := fun a => x a; clear hf) | (have hf : CiphState := x; clear hf) | (have hf : SecState := x; clear hf) | clear_value x)
    | apply ite_keeps | apply State.modLt_keeps | dsimp only | split

theorem State.ttfBad_keeps {r0 : State} (s : State) (n : Nat) (h0 : Keeps r0 s) : Keeps r0 (State.ttfBad s n) := by
  unfold State.ttfBad
  with_reducible repeat' first | assumption | apply State.raise_keeps | apply State.addCnt32_keeps

theorem State.ttfRx_keeps {r0 : State} (s : State) (n : Nat) (bs : List Byte) (h0 : Keeps r0 s) : Keeps r0
    (State.ttfRx s n bs) := by
  unfold State.ttfRx
  with_reducible repeat' first
    | assumption | intro _ | exact Keeps.refl _ | subst x
    | (extract_lets +onlyGivenNames x; first | (have hx : Keeps r0 x := ?_; clear_value x) | (have hx : Keeps r0 x.1 := ?_; clear_value x) | (have hf := fun a => x a; clear hf) | (have hf : CiphState := x; clear hf) | (have hf : SecState := x; clear hf) | clear_value x)
    | apply ite_keeps | apply State.setB_keeps | apply State.setInt_keeps | apply State.modLt_keeps
    | apply State.wlJudge_keeps | apply State.lineUpdate_keeps | apply State.ttfBad_keeps | dsimp only | split

theorem State.ptpPorts_keeps {r0 : State} (s : State) (h0 : Keeps r0 s) : Keeps r0 (State.ptpPorts s) := by
  unfold State.ptpPorts
  with_reducible repeat' first
    | assumption | exact Keeps.refl _ | apply ite_keeps | apply itep_keeps | apply State.setObj_keeps
    | apply foldl_keeps | intro _
    | (extract_lets +onlyGivenNames x; first | (have hx : Keeps r0 x := ?_; clear_value x) | (have hx : Keeps r0 x.1 := ?_; clear_value x) | (have hf := fun a => x a; clear hf) | (have hf : CiphState := x; clear hf) | (have hf : SecState := x; clear hf) | clear_value x)
    | split

theorem State.ptpEmit_keeps {r0 : State} (s : State) (p kind : Nat) (content : List Byte) (h0 : Keeps r0 s) : Keeps
    r0 (State.ptpEmit s p kind content) := by
  unfold State.ptpEmit
  with_reducible repeat' first
    | assumption | intro _ | exact Keeps.refl _ | subst x
    | (extract_lets +onlyGivenNames x; first | (have hx : Keeps r0 x := ?_; clear_value x) | (have hx : Keeps r0 x.1 := ?_; clear_value x) | (have hf := fun a => x a; clear hf) | (have hf : CiphState := x; clear hf) | (have hf : SecState := x; clear hf) | clear_value x)
    | apply ite_keeps | apply State.emit_keeps | dsimp only | split

theorem State.ptpUtc_keeps {r0 : State} (s : State) (x : Nat) (u : Option (Int × Int × Nat)) (h0 : Keeps r0 s) :
    Keeps r0 (State.ptpUtc s x u) := by
  unfold State.ptpUtc
  with_reducible repeat' first
    | assumption | intro _ | exact Keeps.refl _ | subst x
    | (extract_lets +onlyGivenNames x; first | (have hx : Keeps r0 x := ?_; clear_value x) | (have hx : Keeps r0 x.1 := ?_; clear_value x) | (have hf := fun a => x a; clear hf) | (have hf : CiphState := x; clear hf) | (have hf : SecState := x; clear hf) | clear_value x)
    | apply ite_keeps | apply State.set_keeps | apply State.setNat_keeps | apply State.modTime_keeps
    | apply State.utcShift_keeps | dsimp only | split

theorem State.ptpDue_keeps {r0 : State} (s : State) (p kind : Nat) (h0 : Keeps r0 s) : Keeps r0 (State.ptpDue s p
    kind) := by
  unfold State.ptpDue
  with_reducible repeat' first
    | assumption | intro _ | exact Keeps.refl _ | subst x
    | (extract_lets +onlyGivenNames x; first | (have hx : Keeps r0 x := ?_; clear_value x) | (have hx : Keeps r0 x.1 := ?_; clear_value x) | (have hf := fun a => x a; clear hf) | (have hf : CiphState := x; clear hf) | (have hf : SecState := x; clear hf) | clear_value x)
    | apply ite_keeps | apply State.waitClk_keeps | apply State.modTime_keeps | dsimp only | split

theorem State.launchPut_keeps {r0 : State} (s : State) (ofs : Nat) (bs : List Byte) (h0 : Keeps r0 s) : Keeps r0
    (State.launchPut s ofs bs) := by
  unfold State.launchPut
  with_reducible repeat' first
    | assumption | exact Keeps.refl _ | apply ite_keeps | apply itep_keeps | apply State.winTouch_keeps
    | apply State.set_keeps | apply foldl_keeps | intro _
    | (extract_lets +onlyGivenNames x; first | (have hx : Keeps r0 x := ?_; clear_value x) | (have hx : Keeps r0 x.1 := ?_; clear_value x) | (have hf := fun a => x a; clear hf) | (have hf : CiphState := x; clear hf) | (have hf : SecState := x; clear hf) | clear_value x)
    | split

theorem State.launchKeep_keeps {r0 : State} (s : State) (d : Nat) (h0 : Keeps r0 s) : Keeps r0 (State.launchKeep s d)
    := by
  unfold State.launchKeep
  with_reducible repeat' first
    | assumption | intro _ | exact Keeps.refl _ | subst x
    | (extract_lets +onlyGivenNames x; first | (have hx : Keeps r0 x := ?_; clear_value x) | (have hx : Keeps r0 x.1 := ?_; clear_value x) | (have hf := fun a => x a; clear hf) | (have hf : CiphState := x; clear hf) | (have hf : SecState := x; clear hf) | clear_value x)
    | apply ite_keeps | apply State.modTime_keeps | apply foldl_keeps_of | dsimp only | split

theorem State.launchArm_keeps {r0 : State} (s : State) (d : Nat) (h0 : Keeps r0 s) : Keeps r0 (State.launchArm s d).1
    := by
  unfold State.launchArm
  with_reducible repeat' first
    | assumption | intro _ | exact Keeps.refl _ | subst x
    | (extract_lets +onlyGivenNames x; first | (have hx : Keeps r0 x := ?_; clear_value x) | (have hx : Keeps r0 x.1 := ?_; clear_value x) | (have hf := fun a => x a; clear hf) | (have hf : CiphState := x; clear hf) | (have hf : SecState := x; clear hf) | clear_value x)
    | apply ite_keeps | apply itep_keeps | apply State.set_keeps | apply State.setNat_keeps
    | apply State.launchKeep_keeps | dsimp only | (apply fst_keeps; assumption) | split

theorem State.writeLaunch_keeps {r0 : State} (s : State) (d : Nat) (v : Word) (h0 : Keeps r0 s) : Keeps r0
    (State.writeLaunch s d v).1 := by
  unfold State.writeLaunch
  with_reducible repeat' first
    | assumption | apply ite_keeps | apply State.setReg_keeps | apply State.launchArm_keeps | split

theorem State.launchNow_keeps {r0 : State} (s : State) (d t : Nat) (err : Int) (late : Bool) (h0 : Keeps r0 s) :
    Keeps r0 (State.launchNow s d t err late) := by
  unfold State.launchNow
  with_reducible repeat' first
    | assumption | intro _ | exact Keeps.refl _ | subst x
    | (extract_lets +onlyGivenNames x; first | (have hx : Keeps r0 x := ?_; clear_value x) | (have hx : Keeps r0 x.1 := ?_; clear_value x) | (have hf := fun a => x a; clear hf) | (have hf : CiphState := x; clear hf) | (have hf : SecState := x; clear hf) | clear_value x)
    | apply ite_keeps | apply itep_keeps | apply State.set_keeps | apply State.setB_keeps | apply State.emit_keeps
    | apply State.addCnt_keeps | apply State.raiseIf_keeps | apply State.modMem_keeps | apply State.winGood_keeps
    | apply State.tapPort_keeps | apply State.modTime_keeps | apply State.setStamp_keeps | dsimp only
    | (apply fst_keeps; assumption) | split

theorem State.launchesCrossed_keeps {r0 : State} (s : State) (x old : Nat) (h0 : Keeps r0 s) : Keeps r0
    (State.launchesCrossed s x old) := by
  unfold State.launchesCrossed
  with_reducible repeat' first
    | assumption | exact Keeps.refl _ | apply ite_keeps | apply itep_keeps | apply State.launchNow_keeps
    | apply foldl_keeps | intro _
    | (extract_lets +onlyGivenNames x; first | (have hx : Keeps r0 x := ?_; clear_value x) | (have hx : Keeps r0 x.1 := ?_; clear_value x) | (have hf := fun a => x a; clear hf) | (have hf : CiphState := x; clear hf) | (have hf : SecState := x; clear hf) | clear_value x)
    | split

theorem State.launchesCancel_keeps {r0 : State} (s : State) (h0 : Keeps r0 s) : Keeps r0 (State.launchesCancel s) := by
  unfold State.launchesCancel
  with_reducible repeat' first
    | assumption | exact Keeps.refl _ | apply ite_keeps | apply itep_keeps | apply State.set_keeps | apply foldl_keeps
    | intro _
    | (extract_lets +onlyGivenNames x; first | (have hx : Keeps r0 x := ?_; clear_value x) | (have hx : Keeps r0 x.1 := ?_; clear_value x) | (have hf := fun a => x a; clear hf) | (have hf : CiphState := x; clear hf) | (have hf : SecState := x; clear hf) | clear_value x)
    | split

theorem State.writePpsEn_keeps {r0 : State} (s : State) (v : Bool) (h0 : Keeps r0 s) : Keeps r0 (State.writePpsEn s
    v).1 := by
  unfold State.writePpsEn
  with_reducible repeat' first
    | assumption | apply ite_keeps | apply itep_keeps | apply State.setB_keeps | apply State.raise_keeps
    | exact Keeps.refl _

/-! ### Lfr.lean -/

theorem State.showEgress_keeps {r0 : State} (s : State) (n : Lane) (h0 : Keeps r0 s) : Keeps r0 (State.showEgress s
    n) := by
  unfold State.showEgress
  with_reducible repeat' first
    | assumption | exact Keeps.refl _ | apply ite_keeps | apply State.setB_keeps | split
    | refine Keeps.raw ?_ rfl rfl rfl

theorem State.kscRefresh_keeps {r0 : State} (s : State) (h0 : Keeps r0 s) : Keeps r0 (State.kscRefresh s) := by
  unfold State.kscRefresh
  with_reducible repeat' first
    | assumption | intro _ | exact Keeps.refl _ | subst x
    | (extract_lets +onlyGivenNames x; first | (have hx : Keeps r0 x := ?_; clear_value x) | (have hx : Keeps r0 x.1 := ?_; clear_value x) | (have hf := fun a => x a; clear hf) | (have hf : CiphState := x; clear hf) | (have hf : SecState := x; clear hf) | clear_value x)
    | apply ite_keeps | apply State.eachLane_keeps_of | apply State.showEgress_keeps | dsimp only | split

theorem State.tapDefect_keeps {r0 : State} (s : State) (n : Lane) (h0 : Keeps r0 s) : Keeps r0 (State.tapDefect s n)
    := by
  unfold State.tapDefect
  with_reducible repeat' first
    | assumption | intro _ | exact Keeps.refl _ | subst x
    | (extract_lets +onlyGivenNames x; first | (have hx : Keeps r0 x := ?_; clear_value x) | (have hx : Keeps r0 x.1 := ?_; clear_value x) | (have hf := fun a => x a; clear hf) | (have hf : CiphState := x; clear hf) | (have hf : SecState := x; clear hf) | clear_value x)
    | apply ite_keeps | apply State.modCst_keeps | dsimp only | split

theorem State.lfrDefects_keeps {r0 : State} (s : State) (n : Lane) (h0 : Keeps r0 s) : Keeps r0 (State.lfrDefects s
    n) := by
  unfold State.lfrDefects
  with_reducible repeat' first
    | assumption | intro _ | exact Keeps.refl _ | subst x
    | (extract_lets +onlyGivenNames x; first | (have hx : Keeps r0 x := ?_; clear_value x) | (have hx : Keeps r0 x.1 := ?_; clear_value x) | (have hf := fun a => x a; clear hf) | (have hf : CiphState := x; clear hf) | (have hf : SecState := x; clear hf) | clear_value x)
    | apply ite_keeps | apply State.setB_keeps | apply State.modTx_keeps | apply State.raiseIf_keeps
    | apply State.touch_keeps | apply State.showEgress_keeps | apply State.tapDefect_keeps | dsimp only | split

theorem State.periodEnd_keeps {r0 : State} (s : State) (n : Lane) (h0 : Keeps r0 s) : Keeps r0 (State.periodEnd s n)
    := by
  unfold State.periodEnd
  with_reducible repeat' first
    | assumption | intro _ | exact Keeps.refl _ | subst x
    | (extract_lets +onlyGivenNames x; first | (have hx : Keeps r0 x := ?_; clear_value x) | (have hx : Keeps r0 x.1 := ?_; clear_value x) | (have hf := fun a => x a; clear hf) | (have hf : CiphState := x; clear hf) | (have hf : SecState := x; clear hf) | clear_value x)
    | apply ite_keeps | apply State.modPmon_keeps | apply State.pathBlock_keeps | apply State.tribBlock_keeps
    | apply foldl_keeps_of | dsimp only | split

theorem State.periodCut_keeps {r0 : State} (s : State) (n : Lane) (h0 : Keeps r0 s) : Keeps r0 (State.periodCut s n)
    := by
  unfold State.periodCut
  with_reducible repeat' first
    | assumption | intro _ | exact Keeps.refl _ | subst x
    | (extract_lets +onlyGivenNames x; first | (have hx : Keeps r0 x := ?_; clear_value x) | (have hx : Keeps r0 x.1 := ?_; clear_value x) | (have hf := fun a => x a; clear hf) | (have hf : CiphState := x; clear hf) | (have hf : SecState := x; clear hf) | clear_value x)
    | apply ite_keeps | apply State.modPmon_keeps | apply State.periodEnd_keeps | dsimp only | split

theorem State.lfrAlignAway_keeps {r0 : State} (s : State) (n : Lane) (align : Nat) (cands : List Cand) (h0 : Keeps r0
    s) : Keeps r0 (State.lfrAlignAway s n align cands) := by
  unfold State.lfrAlignAway
  with_reducible repeat' first
    | assumption | intro _ | exact Keeps.refl _ | subst x
    | (extract_lets +onlyGivenNames x; first | (have hx : Keeps r0 x := ?_; clear_value x) | (have hx : Keeps r0 x.1 := ?_; clear_value x) | (have hf := fun a => x a; clear hf) | (have hf : CiphState := x; clear hf) | (have hf : SecState := x; clear hf) | clear_value x)
    | apply ite_keeps | apply State.set_keeps | apply State.setB_keeps | apply State.modTx_keeps
    | apply State.modLfr_keeps | apply State.fecInFrame_keeps | apply State.ttfRow_keeps
    | apply State.lfrDefects_keeps | apply State.periodCut_keeps | dsimp only | split

theorem State.lfrLos_keeps {r0 : State} (s : State) (n : Lane) (v : Bool) (h0 : Keeps r0 s) : Keeps r0 (State.lfrLos s
    n v) := by
  unfold State.lfrLos
  with_reducible repeat' first
    | assumption | apply ite_keeps | apply State.setB_keeps | apply State.touch_keeps | apply State.lfrAlignAway_keeps
    | apply State.raise_keeps | apply State.lfrDefects_keeps

theorem State.familyTurn_keeps {r0 : State} (s : State) (n : Lane) (h0 : Keeps r0 s) : Keeps r0 (State.familyTurn s
    n) := by
  unfold State.familyTurn
  with_reducible repeat' first
    | assumption | intro _ | exact Keeps.refl _ | subst x
    | (extract_lets +onlyGivenNames x; first | (have hx : Keeps r0 x := ?_; clear_value x) | (have hx : Keeps r0 x.1 := ?_; clear_value x) | (have hf := fun a => x a; clear hf) | (have hf : CiphState := x; clear hf) | (have hf : SecState := x; clear hf) | clear_value x)
    | apply ite_keeps | apply State.setNat_keeps | apply State.setWide_keeps | apply State.modPmon_keeps
    | apply State.showBridged_keeps | apply State.fecFlush_keeps | apply State.lfrAlignAway_keeps
    | apply foldl_keeps_of | dsimp only | split

theorem State.sdWindow_keeps {r0 : State} (s : State) (n : Lane) (h0 : Keeps r0 s) : Keeps r0 (State.sdWindow s n) :=
    by
  unfold State.sdWindow
  with_reducible repeat' first
    | assumption | intro _ | exact Keeps.refl _ | subst x
    | (extract_lets +onlyGivenNames x; first | (have hx : Keeps r0 x := ?_; clear_value x) | (have hx : Keeps r0 x.1 := ?_; clear_value x) | (have hf := fun a => x a; clear hf) | (have hf : CiphState := x; clear hf) | (have hf : SecState := x; clear hf) | clear_value x)
    | apply ite_keeps | apply State.setB_keeps | apply State.modLfr_keeps | apply State.raise_keeps | dsimp only
    | split

theorem State.sdCount_keeps {r0 : State} (s : State) (n : Lane) (h0 : Keeps r0 s) : Keeps r0 (State.sdCount s n) := by
  unfold State.sdCount
  with_reducible repeat' first
    | assumption | intro _ | exact Keeps.refl _ | subst x
    | (extract_lets +onlyGivenNames x; first | (have hx : Keeps r0 x := ?_; clear_value x) | (have hx : Keeps r0 x.1 := ?_; clear_value x) | (have hf := fun a => x a; clear hf) | (have hf : CiphState := x; clear hf) | (have hf : SecState := x; clear hf) | clear_value x)
    | apply ite_keeps | apply State.modLfr_keeps | apply State.sdWindow_keeps | dsimp only | split

theorem State.aisApply_keeps {r0 : State} (s : State) (n : Lane) (h0 : Keeps r0 s) : Keeps r0 (State.aisApply s n) := by
  unfold State.aisApply
  with_reducible repeat' first
    | assumption | exact Keeps.refl _ | apply ite_keeps | apply itep_keeps | apply State.setB_keeps
    | apply foldl_keeps | intro _
    | (extract_lets +onlyGivenNames x; first | (have hx : Keeps r0 x := ?_; clear_value x) | (have hx : Keeps r0 x.1 := ?_; clear_value x) | (have hf := fun a => x a; clear hf) | (have hf : CiphState := x; clear hf) | (have hf : SecState := x; clear hf) | clear_value x)
    | split

theorem State.setSlotDefect_keeps {r0 : State} (s : State) (n : Lane) (f alarm : Fld) (v : Bool) (h0 : Keeps r0 s) :
    Keeps r0 (State.setSlotDefect s n f alarm v) := by
  unfold State.setSlotDefect
  with_reducible repeat' first
    | assumption | apply ite_keeps | apply State.touch_keeps | apply State.raiseIf_keeps | apply State.setB_keeps

theorem State.slotAnswer_keeps {r0 : State} (s : State) (n : Lane) (j : Nat) (h0 : Keeps r0 s) : Keeps r0
    (State.slotAnswer s n j) := by
  unfold State.slotAnswer
  with_reducible repeat' first
    | assumption | intro _ | exact Keeps.refl _ | subst x
    | (extract_lets +onlyGivenNames x; first | (have hx : Keeps r0 x := ?_; clear_value x) | (have hx : Keeps r0 x.1 := ?_; clear_value x) | (have hf := fun a => x a; clear hf) | (have hf : CiphState := x; clear hf) | (have hf : SecState := x; clear hf) | clear_value x)
    | apply ite_keeps | apply State.modTx_keeps | dsimp only | split

end Sys2Proof.Machine
end

