-- ==== Sys2Proof/Laws/KeepsCiph.lean ====
section
/-!
SUPPORT. No operation undoes what `Keeps` lists: CIPH and CLI.
-/

-- one theorem after another: all at once would not fit the memory
set_option Elab.async false
set_option linter.all false

namespace Sys2Proof.Machine

/-! ### Ciph.lean -/

theorem State.setWordsFrom_keeps {r0 : State} (s : State) (a n v : Nat) (h0 : Keeps r0 s) : Keeps r0
    (State.setWordsFrom s a n v) := by
  unfold State.setWordsFrom
  with_reducible repeat' first
    | assumption | exact Keeps.refl _ | apply ite_keeps | apply itep_keeps | apply State.setNat_keeps
    | apply foldl_keeps | intro _
    | (extract_lets +onlyGivenNames x; first | (have hx : Keeps r0 x := ?_; clear_value x) | (have hx : Keeps r0 x.1 := ?_; clear_value x) | (have hf := fun a => x a; clear hf) | (have hf : CiphState := x; clear hf) | (have hf : SecState := x; clear hf) | clear_value x)
    | split

theorem State.setCtxI_keeps {r0 : State} (s : State) (c i : Nat) (h0 : Keeps r0 s) : Keeps r0 (State.setCtxI s c i) := by
  unfold State.setCtxI
  with_reducible repeat' first | assumption | apply State.setWide_keeps

theorem State.modCtx_keeps {r0 : State} (s : State) (c : Nat) (f : Ctx → Ctx) (h0 : Keeps r0 s) : Keeps r0
    (State.modCtx s c f) :=
  Keeps.raw h0 rfl rfl rfl

theorem State.ctxStop_keeps {r0 : State} (s : State) (c code : Nat) (h0 : Keeps r0 s) : Keeps r0 (State.ctxStop s c
    code) := by
  unfold State.ctxStop
  with_reducible repeat' first | assumption | apply ite_keeps | apply State.raise_keeps | apply State.modCtx_keeps

theorem State.keyResult_keeps {r0 : State} (s : State) (by_ : Source) (slot code : Nat) (h0 : Keeps r0 s) : Keeps r0
    (State.keyResult s by_ slot code) := by
  unfold State.keyResult
  with_reducible repeat' first
    | assumption | exact Keeps.refl _ | exact id_keeps _ | exact ⟨Nat.le_refl _, fun _ => rfl⟩ | apply ite_keeps
    | apply itep_keeps | apply State.answer_keeps | apply foldl_keeps | apply foldlp_keeps | intro _
    | (extract_lets +onlyGivenNames x; first | (have hx : Keeps r0 x := ?_; clear_value x) | (have hx : Keeps r0 x.1 := ?_; clear_value x) | (have hf := fun a => x a; clear hf) | (have hf : CiphState := x; clear hf) | (have hf : SecState := x; clear hf) | clear_value x)
    | subst x | dsimp only | (apply fst_keeps; assumption) | split | refine Keeps.raw ?_ rfl rfl rfl

theorem State.keyLoad_keeps {r0 : State} (s : State) (slot key : Nat) (allowed : Bool) (h0 : Keeps r0 s) : Keeps r0
    (State.keyLoad s slot key allowed).1 := by
  unfold State.keyLoad
  with_reducible repeat' first
    | assumption | exact Keeps.refl _ | exact id_keeps _ | exact ⟨Nat.le_refl _, fun _ => rfl⟩ | apply ite_keeps
    | apply itep_keeps | apply State.raise_keeps | apply foldl_keeps | apply foldlp_keeps | intro _
    | (extract_lets +onlyGivenNames x; first | (have hx : Keeps r0 x := ?_; clear_value x) | (have hx : Keeps r0 x.1 := ?_; clear_value x) | (have hf := fun a => x a; clear hf) | (have hf : CiphState := x; clear hf) | (have hf : SecState := x; clear hf) | clear_value x)
    | subst x | dsimp only | (apply fst_keeps; assumption) | split | refine Keeps.raw ?_ rfl rfl rfl

theorem State.ciphWrite_keeps {r0 : State} (s : State) (by_ : Source) (a : Nat) (act : State → State) (k_act : ∀ x0,
    Keeps x0 (act x0)) (h0 : Keeps r0 s) : Keeps r0 (State.ciphWrite s by_ a act) := by
  unfold State.ciphWrite
  with_reducible repeat' first
    | assumption | exact Keeps.refl _ | apply ite_keeps | apply itep_keeps | apply State.byWrite_keeps
    | apply State.answer_keeps | apply foldl_keeps | intro _ | refine Keeps.trans ?_ (k_act _)
    | (extract_lets +onlyGivenNames x; first | (have hx : Keeps r0 x := ?_; clear_value x) | (have hx : Keeps r0 x.1 := ?_; clear_value x) | (have hf := fun a => x a; clear hf) | (have hf : CiphState := x; clear hf) | (have hf : SecState := x; clear hf) | clear_value x)
    | split

theorem State.loadClear_keeps {r0 : State} (s : State) (by_ : Source) (slot key : Nat) (h0 : Keeps r0 s) : Keeps r0
    (State.loadClear s by_ slot key) := by
  unfold State.loadClear
  with_reducible repeat' first | assumption | apply State.keyLoad_keeps | apply State.keyResult_keeps

theorem State.bufPut_keeps {r0 : State} (s : State) (ofs : Nat) (bs : List Byte) (h0 : Keeps r0 s) : Keeps r0
    (State.bufPut s ofs bs) := by
  unfold State.bufPut
  with_reducible repeat' first
    | assumption | exact Keeps.refl _ | apply ite_keeps | apply itep_keeps | apply State.winTouch_keeps
    | apply State.set_keeps | apply foldl_keeps | intro _
    | (extract_lets +onlyGivenNames x; first | (have hx : Keeps r0 x := ?_; clear_value x) | (have hx : Keeps r0 x.1 := ?_; clear_value x) | (have hf := fun a => x a; clear hf) | (have hf : CiphState := x; clear hf) | (have hf : SecState := x; clear hf) | clear_value x)
    | split

theorem CiphState.keepEnd_fitted (c : CiphState) (j status len dst : Nat) : (c.keepEnd j status len dst).fitted = c.fitted := by
  unfold CiphState.keepEnd
  split
  · split <;> rfl
  · rfl

theorem State.jobEnd_keeps {r0 : State} (s : State) (j code out : Nat) (h0 : Keeps r0 s) : Keeps r0 (State.jobEnd s j
    code out) := by
  unfold State.jobEnd
  extract_lets t u c mine v src w
  have hu : Keeps r0 u := State.setNat_keeps _ _ _ (State.set_keeps _ _ _ (State.set_keeps _ _ _ h0))
  have hv : Keeps r0 v := Keeps.raw hu (CiphState.keepEnd_fitted _ _ _ _ _) rfl rfl
  have hw : Keeps r0 w := Keeps.raw hv rfl rfl rfl
  clear_value w
  exact ite_keeps _ _ _ (State.modCtx_keeps _ _ _ hw) hw

theorem State.jobWipe_keeps {r0 : State} (s : State) (j : Nat) (h0 : Keeps r0 s) : Keeps r0 (State.jobWipe s j) := by
  unfold State.jobWipe
  with_reducible repeat' first | assumption | apply ite_keeps | apply State.bufPut_keeps | split

theorem State.zeroise_keeps {r0 : State} (s : State) (p : Nat → Bool) (h0 : Keeps r0 s) : Keeps r0 (State.zeroise s
    p) := by
  unfold State.zeroise
  with_reducible repeat' first
    | assumption | intro _ | exact Keeps.refl _ | subst x
    | (extract_lets +onlyGivenNames x; first | (have hx : Keeps r0 x := ?_; clear_value x) | (have hx : Keeps r0 x.1 := ?_; clear_value x) | (have hf := fun a => x a; clear hf) | (have hf : CiphState := x; clear hf) | (have hf : SecState := x; clear hf) | clear_value x)
    | apply ite_keeps | apply State.set_keeps | apply State.modCtx_keeps | apply State.ctxStop_keeps
    | apply State.jobEnd_keeps | apply State.jobWipe_keeps | apply foldl_keeps_of | dsimp only | split
    | refine Keeps.raw ?_ rfl rfl rfl

theorem State.zeroiseSlot_keeps {r0 : State} (s : State) (by_ : Source) (slot : Nat) (h0 : Keeps r0 s) : Keeps r0
    (State.zeroiseSlot s by_ slot) := by
  unfold State.zeroiseSlot
  with_reducible repeat' first
    | assumption | apply State.keyResult_keeps | apply State.raise_keeps | apply State.zeroise_keeps

theorem State.zeroAll_keeps {r0 : State} (s : State) (h0 : Keeps r0 s) : Keeps r0 (State.zeroAll s) := by
  unfold State.zeroAll
  with_reducible repeat' first
    | assumption | exact Keeps.refl _ | exact id_keeps _ | exact ⟨Nat.le_refl _, fun _ => rfl⟩ | apply ite_keeps
    | apply itep_keeps | apply State.zeroise_keeps | apply foldl_keeps | apply foldlp_keeps | intro _
    | (extract_lets +onlyGivenNames x; first | (have hx : Keeps r0 x := ?_; clear_value x) | (have hx : Keeps r0 x.1 := ?_; clear_value x) | (have hf := fun a => x a; clear hf) | (have hf : CiphState := x; clear hf) | (have hf : SecState := x; clear hf) | clear_value x)
    | subst x | dsimp only | (apply fst_keeps; assumption) | split | refine Keeps.raw ?_ rfl rfl rfl

theorem State.loadIv_keeps {r0 : State} (s : State) (c : Nat) (iv i : Nat) (h0 : Keeps r0 s) : Keeps r0 (State.loadIv
    s c iv i) := by
  unfold State.loadIv
  with_reducible repeat' first
    | assumption | intro _ | exact Keeps.refl _ | subst x
    | (extract_lets +onlyGivenNames x; first | (have hx : Keeps r0 x := ?_; clear_value x) | (have hx : Keeps r0 x.1 := ?_; clear_value x) | (have hf := fun a => x a; clear hf) | (have hf : CiphState := x; clear hf) | (have hf : SecState := x; clear hf) | clear_value x)
    | apply ite_keeps | apply State.setWordsFrom_keeps | apply State.setCtxI_keeps | apply State.modCtx_keeps
    | dsimp only | split

theorem State.directIv_keeps {r0 : State} (s : State) (c iv : Nat) (h0 : Keeps r0 s) : Keeps r0 (State.directIv s c
    iv).1 := by
  unfold State.directIv
  with_reducible repeat' first
    | assumption | apply ite_keeps | apply itep_keeps | apply State.raise_keeps | apply State.loadIv_keeps
    | apply State.modCtx_keeps | exact Keeps.refl _

theorem State.ctxCount_keeps {r0 : State} (s : State) (c k n : Nat) (h0 : Keeps r0 s) : Keeps r0 (State.ctxCount s c k
    n) := by
  unfold State.ctxCount
  with_reducible repeat' first | assumption | apply State.addCnt_keeps

theorem State.stoppedUnit_keeps {r0 : State} (s : State) (last : Option (Bool × Nat)) (words : List Nat) (h0 : Keeps
    r0 s) : Keeps r0 (State.stoppedUnit s last words).1 := by
  unfold State.stoppedUnit
  with_reducible repeat' first
    | assumption | intro _ | exact Keeps.refl _ | subst x
    | (extract_lets +onlyGivenNames x; first | (have hx : Keeps r0 x := ?_; clear_value x) | (have hx : Keeps r0 x.1 := ?_; clear_value x) | (have hf := fun a => x a; clear hf) | (have hf : CiphState := x; clear hf) | (have hf : SecState := x; clear hf) | clear_value x)
    | apply ite_keeps | apply itep_keeps | apply State.takeFree_keeps | dsimp only | (apply fst_keeps; assumption)
    | split

theorem State.encUnit_keeps {r0 : State} (s : State) (n : Nat) (g : Mapped) (words : List Nat) (h0 : Keeps r0 s) :
    Keeps r0 (State.encUnit s n g words).1 := by
  unfold State.encUnit
  with_reducible repeat' first
    | assumption | intro _ | exact Keeps.refl _ | subst x
    | (extract_lets +onlyGivenNames x; first | (have hx : Keeps r0 x := ?_; clear_value x) | (have hx : Keeps r0 x.1 := ?_; clear_value x) | (have hf := fun a => x a; clear hf) | (have hf : CiphState := x; clear hf) | (have hf : SecState := x; clear hf) | clear_value x)
    | apply ite_keeps | apply itep_keeps | apply State.setCtxI_keeps | apply State.modCtx_keeps
    | apply State.ctxStop_keeps | apply State.ctxCount_keeps | apply State.stoppedUnit_keeps | dsimp only
    | (apply fst_keeps; assumption) | split

theorem State.decUnit_keeps {r0 : State} (s : State) (n : Nat) (g : Mapped) (words : List Nat) (errored : Bool)
    (period : Nat) (h0 : Keeps r0 s) : Keeps r0 (State.decUnit s n g words errored period).1 := by
  unfold State.decUnit
  with_reducible repeat' first
    | assumption | exact Keeps.refl _ | apply ite_keeps | apply itep_keeps | apply State.ctxCount_keeps
    | apply State.ctxStop_keeps | apply State.modCtx_keeps | apply State.setCtxI_keeps | apply State.raise_keeps
    | apply foldl_keeps | intro _
    | (extract_lets +onlyGivenNames x; first | (have hx : Keeps r0 x := ?_; clear_value x) | (have hx : Keeps r0 x.1 := ?_; clear_value x) | (have hf := fun a => x a; clear hf) | (have hf : CiphState := x; clear hf) | (have hf : SecState := x; clear hf) | clear_value x)
    | split

theorem State.ctxJobsEnd_keeps {r0 : State} (s : State) (c : Nat) (h0 : Keeps r0 s) : Keeps r0 (State.ctxJobsEnd s c)
    := by
  unfold State.ctxJobsEnd
  with_reducible repeat' first
    | assumption | intro _ | exact Keeps.refl _ | subst x
    | (extract_lets +onlyGivenNames x; first | (have hx : Keeps r0 x := ?_; clear_value x) | (have hx : Keeps r0 x.1 := ?_; clear_value x) | (have hf := fun a => x a; clear hf) | (have hf : CiphState := x; clear hf) | (have hf : SecState := x; clear hf) | clear_value x)
    | apply ite_keeps | apply State.jobEnd_keeps | apply foldl_keeps_of | dsimp only | split

theorem State.ctxStart_keeps {r0 : State} (s : State) (c : Nat) (h0 : Keeps r0 s) : Keeps r0 (State.ctxStart s c) := by
  unfold State.ctxStart
  with_reducible repeat' first
    | assumption | apply ite_keeps | apply State.loadIv_keeps | apply State.modCtx_keeps | apply State.ctxStop_keeps

theorem State.ctxStays_keeps {r0 : State} (s : State) (c st : Nat) (h0 : Keeps r0 s) : Keeps r0 (State.ctxStays s c
    st) := by
  unfold State.ctxStays
  with_reducible repeat' first
    | assumption | intro _ | exact Keeps.refl _ | subst x
    | (extract_lets +onlyGivenNames x; first | (have hx : Keeps r0 x := ?_; clear_value x) | (have hx : Keeps r0 x.1 := ?_; clear_value x) | (have hf := fun a => x a; clear hf) | (have hf : CiphState := x; clear hf) | (have hf : SecState := x; clear hf) | clear_value x)
    | apply ite_keeps | apply State.modCtx_keeps | dsimp only | split

theorem State.rollover_keeps {r0 : State} (s : State) (c : Nat) (h0 : Keeps r0 s) : Keeps r0 (State.rollover s c) :=
    by
  unfold State.rollover
  with_reducible repeat' first
    | assumption | intro _ | exact Keeps.refl _ | subst x
    | (extract_lets +onlyGivenNames x; first | (have hx : Keeps r0 x := ?_; clear_value x) | (have hx : Keeps r0 x.1 := ?_; clear_value x) | (have hf := fun a => x a; clear hf) | (have hf : CiphState := x; clear hf) | (have hf : SecState := x; clear hf) | clear_value x)
    | apply ite_keeps | apply State.set_keeps | apply State.setWordsFrom_keeps | apply State.modCtx_keeps
    | apply State.ctxStop_keeps | apply State.ctxStart_keeps | apply State.ctxStays_keeps | dsimp only | split

theorem State.unblockFor_keeps {r0 : State} (s : State) (c : Nat) (h0 : Keeps r0 s) : Keeps r0 (State.unblockFor s c)
    := by
  unfold State.unblockFor
  with_reducible repeat' first
    | assumption | intro _ | exact Keeps.refl _ | subst x
    | (extract_lets +onlyGivenNames x; first | (have hx : Keeps r0 x := ?_; clear_value x) | (have hx : Keeps r0 x.1 := ?_; clear_value x) | (have hf := fun a => x a; clear hf) | (have hf : CiphState := x; clear hf) | (have hf : SecState := x; clear hf) | clear_value x)
    | apply ite_keeps | dsimp only | split | refine Keeps.raw ?_ rfl rfl rfl

theorem State.ctxRebound_keeps {r0 : State} (s before : State) (c : Nat) (h0 : Keeps r0 s) : Keeps r0
    (State.ctxRebound s before c) := by
  unfold State.ctxRebound
  with_reducible repeat' first
    | assumption | intro _ | exact Keeps.refl _ | subst x
    | (extract_lets +onlyGivenNames x; first | (have hx : Keeps r0 x := ?_; clear_value x) | (have hx : Keeps r0 x.1 := ?_; clear_value x) | (have hf := fun a => x a; clear hf) | (have hf : CiphState := x; clear hf) | (have hf : SecState := x; clear hf) | clear_value x)
    | apply ite_keeps | apply State.modCtx_keeps | dsimp only | split

theorem State.ctxCourse_keeps {r0 : State} (s before : State) (c : Nat) (iv key : Bool) (h0 : Keeps r0 s) : Keeps r0
    (State.ctxCourse s before c iv key) := by
  unfold State.ctxCourse
  with_reducible repeat' first
    | assumption | intro _ | exact Keeps.refl _ | subst x
    | (extract_lets +onlyGivenNames x; first | (have hx : Keeps r0 x := ?_; clear_value x) | (have hx : Keeps r0 x.1 := ?_; clear_value x) | (have hf := fun a => x a; clear hf) | (have hf : CiphState := x; clear hf) | (have hf : SecState := x; clear hf) | clear_value x)
    | apply ite_keeps | apply State.setCtxI_keeps | apply State.modCtx_keeps | apply State.loadIv_keeps
    | apply State.ctxJobsEnd_keeps | apply State.ctxStart_keeps | apply State.rollover_keeps
    | apply State.unblockFor_keeps | apply State.ctxRebound_keeps | dsimp only | split

theorem State.queueJob_keeps {r0 : State} (s : State) (by_ : Source) (j : Nat) (h0 : Keeps r0 s) : Keeps r0
    (State.queueJob s by_ j) := by
  unfold State.queueJob
  with_reducible repeat' first
    | assumption | intro _ | exact Keeps.refl _ | subst x
    | (extract_lets +onlyGivenNames x; first | (have hx : Keeps r0 x := ?_; clear_value x) | (have hx : Keeps r0 x.1 := ?_; clear_value x) | (have hf := fun a => x a; clear hf) | (have hf : CiphState := x; clear hf) | (have hf : SecState := x; clear hf) | clear_value x)
    | apply ite_keeps | apply State.set_keeps | apply State.setB_keeps | apply State.setNat_keeps
    | apply State.answer_keeps | apply State.jobEnd_keeps | dsimp only | split | refine Keeps.raw ?_ rfl rfl rfl

theorem State.putJob_keeps {r0 : State} (s : State) (j op : Nat) (d : JobDesc) (h0 : Keeps r0 s) : Keeps r0
    (State.putJob s j op d) := by
  unfold State.putJob
  with_reducible repeat' first | assumption | apply State.setNat_keeps

theorem State.submit_keeps {r0 : State} (s : State) (by_ : Source) (j op : Nat) (d : JobDesc) (h0 : Keeps r0 s) :
    Keeps r0 (State.submit s by_ j op d) := by
  unfold State.submit
  with_reducible repeat' first
    | assumption | intro _ | exact Keeps.refl _ | subst x
    | (extract_lets +onlyGivenNames x; first | (have hx : Keeps r0 x := ?_; clear_value x) | (have hx : Keeps r0 x.1 := ?_; clear_value x) | (have hf := fun a => x a; clear hf) | (have hf : CiphState := x; clear hf) | (have hf : SecState := x; clear hf) | clear_value x)
    | apply ite_keeps | apply State.answer_keeps | apply State.ciphWrite_keeps | apply State.bufPut_keeps
    | apply State.queueJob_keeps | apply State.putJob_keeps | dsimp only | split

theorem State.openMsg_keeps {r0 : State} (s : State) (j : Nat) (h0 : Keeps r0 s) : Keeps r0 (State.openMsg s j) := by
  unfold State.openMsg
  with_reducible repeat' first
    | assumption | intro _ | exact Keeps.refl _ | subst x
    | (extract_lets +onlyGivenNames x; first | (have hx : Keeps r0 x := ?_; clear_value x) | (have hx : Keeps r0 x.1 := ?_; clear_value x) | (have hf := fun a => x a; clear hf) | (have hf : CiphState := x; clear hf) | (have hf : SecState := x; clear hf) | clear_value x)
    | apply ite_keeps | apply State.modCtx_keeps | dsimp only | split

theorem State.jobRun_keeps {r0 : State} (s : State) (j key h m k : Nat) (h0 : Keeps r0 s) :
    Keeps r0 (s.jobRun j key h m k) := by
  induction m generalizing s k with
  | zero => exact h0
  | succ m ih =>
    unfold State.jobRun
    exact ih _ _ (State.bufPut_keeps _ _ _ (State.modCtx_keeps _ _ _ h0))

theorem State.jobTo_keeps {r0 : State} (s : State) (j upTo : Nat) (h0 : Keeps r0 s) : Keeps r0 (State.jobTo s j upTo) := by
  unfold State.jobTo
  with_reducible repeat' first
    | assumption | exact Keeps.refl _ | exact id_keeps _ | exact ⟨Nat.le_refl _, fun _ => rfl⟩ | apply ite_keeps
    | apply itep_keeps | apply State.jobRun_keeps | apply foldl_keeps | apply foldlp_keeps | intro _
    | (extract_lets +onlyGivenNames x; first | (have hx : Keeps r0 x := ?_; clear_value x) | (have hx : Keeps r0 x.1 := ?_; clear_value x) | (have hf := fun a => x a; clear hf) | (have hf : CiphState := x; clear hf) | (have hf : SecState := x; clear hf) | clear_value x)
    | subst x | dsimp only | (apply fst_keeps; assumption) | split | refine Keeps.raw ?_ rfl rfl rfl

theorem State.setJob_keeps {r0 : State} (s : State) (j : Nat) (r : JobRun) (h0 : Keeps r0 s) : Keeps r0 (State.setJob
    s j r) := by
  unfold State.setJob
  with_reducible repeat' first
    | assumption | exact Keeps.refl _ | exact id_keeps _ | exact ⟨Nat.le_refl _, fun _ => rfl⟩ | apply ite_keeps
    | apply itep_keeps | apply State.set_keeps | apply foldl_keeps | apply foldlp_keeps | intro _
    | (extract_lets +onlyGivenNames x; first | (have hx : Keeps r0 x := ?_; clear_value x) | (have hx : Keeps r0 x.1 := ?_; clear_value x) | (have hf := fun a => x a; clear hf) | (have hf : CiphState := x; clear hf) | (have hf : SecState := x; clear hf) | clear_value x)
    | subst x | dsimp only | (apply fst_keeps; assumption) | split | refine Keeps.raw ?_ rfl rfl rfl

theorem State.jobsTo_keeps {r0 : State} (s : State) (c : Nat) (h0 : Keeps r0 s) : Keeps r0 (State.jobsTo s c) := by
  unfold State.jobsTo
  with_reducible repeat' first
    | assumption | intro _ | exact Keeps.refl _ | subst x
    | (extract_lets +onlyGivenNames x; first | (have hx : Keeps r0 x := ?_; clear_value x) | (have hx : Keeps r0 x.1 := ?_; clear_value x) | (have hf := fun a => x a; clear hf) | (have hf : CiphState := x; clear hf) | (have hf : SecState := x; clear hf) | clear_value x)
    | apply ite_keeps | apply State.jobTo_keeps | apply foldl_keeps_of | dsimp only | split
    | refine Keeps.raw ?_ rfl rfl rfl

theorem State.suspend_keeps {r0 : State} (s : State) (j : Nat) (r : JobRun) (h0 : Keeps r0 s) : Keeps r0
    (State.suspend s j r) := by
  unfold State.suspend
  with_reducible repeat' first
    | assumption | intro _ | exact Keeps.refl _ | subst x
    | (extract_lets +onlyGivenNames x; first | (have hx : Keeps r0 x := ?_; clear_value x) | (have hx : Keeps r0 x.1 := ?_; clear_value x) | (have hf := fun a => x a; clear hf) | (have hf : CiphState := x; clear hf) | (have hf : SecState := x; clear hf) | clear_value x)
    | apply ite_keeps | apply State.waitClk_keeps | apply State.modCtx_keeps | apply State.jobTo_keeps
    | apply State.setJob_keeps | dsimp only | split

theorem State.startJob_keeps {r0 : State} (s : State) (j : Nat) (r : JobRun) (h0 : Keeps r0 s) : Keeps r0
    (State.startJob s j r) := by
  unfold State.startJob
  with_reducible repeat' first
    | assumption | intro _ | exact Keeps.refl _ | subst x
    | (extract_lets +onlyGivenNames x; first | (have hx : Keeps r0 x := ?_; clear_value x) | (have hx : Keeps r0 x.1 := ?_; clear_value x) | (have hf := fun a => x a; clear hf) | (have hf : CiphState := x; clear hf) | (have hf : SecState := x; clear hf) | clear_value x)
    | apply ite_keeps | apply State.modCtx_keeps | apply State.ctxStop_keeps | apply State.jobEnd_keeps
    | apply State.openMsg_keeps | apply State.setJob_keeps | dsimp only | split

theorem State.restore_keeps {r0 : State} (s : State) (c : Nat) (img : List Byte) (h0 : Keeps r0 s) : Keeps r0
    (State.restore s c img).1 := by
  unfold State.restore
  with_reducible repeat' first
    | assumption | apply ite_keeps | apply itep_keeps | apply State.raise_keeps | apply State.setCtxI_keeps
    | apply State.setWordsFrom_keeps | apply State.modCtx_keeps | exact Keeps.refl _

theorem State.closeMsg_keeps {r0 : State} (s : State) (j : Nat) (h0 : Keeps r0 s) : Keeps r0 (State.closeMsg s j).1
    := by
  unfold State.closeMsg
  with_reducible repeat' first
    | assumption | intro _ | exact Keeps.refl _ | subst x
    | (extract_lets +onlyGivenNames x; first | (have hx : Keeps r0 x := ?_; clear_value x) | (have hx : Keeps r0 x.1 := ?_; clear_value x) | (have hf := fun a => x a; clear hf) | (have hf : CiphState := x; clear hf) | (have hf : SecState := x; clear hf) | clear_value x)
    | apply ite_keeps | apply itep_keeps | apply State.raise_keeps | apply State.setCtxI_keeps
    | apply State.modCtx_keeps | apply State.bufPut_keeps | apply State.ctxCount_keeps | dsimp only
    | (apply fst_keeps; assumption) | split

theorem State.kwJob_keeps {r0 : State} (s : State) (j : Nat) (h0 : Keeps r0 s) : Keeps r0 (State.kwJob s j).1 := by
  unfold State.kwJob
  with_reducible repeat' first
    | assumption | exact Keeps.refl _ | apply ite_keeps | apply itep_keeps | apply State.bufPut_keeps
    | apply State.keyLoad_keeps | apply State.restore_keeps | apply foldl_keeps | intro _
    | (extract_lets +onlyGivenNames x; first | (have hx : Keeps r0 x := ?_; clear_value x) | (have hx : Keeps r0 x.1 := ?_; clear_value x) | (have hf := fun a => x a; clear hf) | (have hf : CiphState := x; clear hf) | (have hf : SecState := x; clear hf) | clear_value x)
    | split

theorem State.ciphReset_keeps {r0 : State} (s : State) (h0 : Keeps r0 s) : Keeps r0 (State.ciphReset s) := by
  unfold State.ciphReset
  with_reducible repeat' first
    | assumption | intro _ | exact Keeps.refl _ | subst x
    | (extract_lets +onlyGivenNames x; first | (have hx : Keeps r0 x := ?_; clear_value x) | (have hx : Keeps r0 x.1 := ?_; clear_value x) | (have hf := fun a => x a; clear hf) | (have hf : CiphState := x; clear hf) | (have hf : SecState := x; clear hf) | clear_value x)
    | apply ite_keeps | apply State.jobEnd_keeps | apply State.jobWipe_keeps | apply foldl_keeps_of | dsimp only
    | split | refine Keeps.raw ?_ rfl rfl rfl

/-! ### Cli.lean -/

theorem State.modPort_keeps {r0 : State} (s : State) (p : Nat) (f : PortState → PortState) (h0 : Keeps r0 s) : Keeps
    r0 (State.modPort s p f) :=
  Keeps.raw h0 rfl rfl rfl

theorem State.portCount_keeps {r0 : State} (s : State) (p j k : Nat) (h0 : Keeps r0 s) : Keeps r0 (State.portCount s p
    j k) := by
  unfold State.portCount
  with_reducible repeat' first | assumption | apply ite_keeps | apply State.addCnt_keeps

theorem State.portAlarm_keeps {r0 : State} (s : State) (f : Fld) (h0 : Keeps r0 s) : Keeps r0 (State.portAlarm s f) := by
  unfold State.portAlarm
  with_reducible repeat' first | assumption | apply State.raise_keeps

theorem State.showPorts_keeps {r0 : State} (s : State) (h0 : Keeps r0 s) : Keeps r0 (State.showPorts s) := by
  unfold State.showPorts
  with_reducible repeat' first | assumption | apply State.set_keeps

theorem State.portEnter_keeps {r0 : State} (s : State) (p st : Nat) (h0 : Keeps r0 s) : Keeps r0 (State.portEnter s p
    st) := by
  unfold State.portEnter
  with_reducible repeat' first
    | assumption | exact Keeps.refl _ | apply ite_keeps | apply State.set_keeps | apply State.ptpPorts_keeps
    | apply State.showPorts_keeps | split | refine Keeps.raw ?_ rfl rfl rfl

theorem State.portRefresh_keeps {r0 : State} (s : State) (p : Nat) (h0 : Keeps r0 s) : Keeps r0 (State.portRefresh s
    p) := by
  unfold State.portRefresh
  with_reducible repeat' first
    | assumption | apply ite_keeps | apply State.set_keeps | apply State.portEnter_keeps | apply State.setB_keeps
    | apply State.tapGone_keeps | apply State.modPort_keeps

theorem State.groupsRefresh_keeps {r0 : State} (s : State) (h0 : Keeps r0 s) : Keeps r0 (State.groupsRefresh s) := by
  unfold State.groupsRefresh
  with_reducible repeat' first
    | assumption | exact Keeps.refl _ | apply ite_keeps | apply itep_keeps | apply State.setB_keeps
    | apply State.portRefresh_keeps | apply foldl_keeps | intro _
    | (extract_lets +onlyGivenNames x; first | (have hx : Keeps r0 x := ?_; clear_value x) | (have hx : Keeps r0 x.1 := ?_; clear_value x) | (have hf := fun a => x a; clear hf) | (have hf : CiphState := x; clear hf) | (have hf : SecState := x; clear hf) | clear_value x)
    | split

theorem State.modFlow_keeps {r0 : State} (s : State) (f : Nat) (g : FlowState → FlowState) (h0 : Keeps r0 s) : Keeps
    r0 (State.modFlow s f g) :=
  Keeps.raw h0 rfl rfl rfl

theorem State.showFlow_keeps {r0 : State} (s : State) (f : Nat) (h0 : Keeps r0 s) : Keeps r0 (State.showFlow s f) :=
    by
  unfold State.showFlow
  with_reducible repeat' first
    | assumption | intro _ | exact Keeps.refl _ | subst x
    | (extract_lets +onlyGivenNames x; first | (have hx : Keeps r0 x := ?_; clear_value x) | (have hx : Keeps r0 x.1 := ?_; clear_value x) | (have hf := fun a => x a; clear hf) | (have hf : CiphState := x; clear hf) | (have hf : SecState := x; clear hf) | clear_value x)
    | apply ite_keeps | apply State.set_keeps | apply State.setB_keeps | dsimp only | split

theorem State.flowOvf_keeps {r0 : State} (s : State) (f : Nat) (h0 : Keeps r0 s) : Keeps r0 (State.flowOvf s f) := by
  unfold State.flowOvf
  with_reducible repeat' first | assumption | apply State.raise_keeps | apply State.addCnt32_keeps

theorem State.flowPush_keeps {r0 : State} (s : State) (f : Nat) (bytes : List Byte) (kind : Nat) (h0 : Keeps r0 s) :
    Keeps r0 (State.flowPush s f bytes kind) := by
  unfold State.flowPush
  with_reducible repeat' first
    | assumption | intro _ | exact Keeps.refl _ | subst x
    | (extract_lets +onlyGivenNames x; first | (have hx : Keeps r0 x := ?_; clear_value x) | (have hx : Keeps r0 x.1 := ?_; clear_value x) | (have hf := fun a => x a; clear hf) | (have hf : CiphState := x; clear hf) | (have hf : SecState := x; clear hf) | clear_value x)
    | apply ite_keeps | apply State.modFlow_keeps | apply State.flowOvf_keeps | dsimp only | split

theorem State.flowFrame_keeps {r0 : State} (s : State) (f : Nat) (bytes : List Byte) (err : Bool) (h0 : Keeps r0 s) :
    Keeps r0 (State.flowFrame s f bytes err) := by
  unfold State.flowFrame
  with_reducible repeat' first
    | assumption | intro _ | exact Keeps.refl _ | subst x
    | (extract_lets +onlyGivenNames x; first | (have hx : Keeps r0 x := ?_; clear_value x) | (have hx : Keeps r0 x.1 := ?_; clear_value x) | (have hf := fun a => x a; clear hf) | (have hf : CiphState := x; clear hf) | (have hf : SecState := x; clear hf) | clear_value x)
    | apply ite_keeps | apply State.modTx_keeps | apply State.emit_keeps | apply State.modFlow_keeps
    | apply State.showFlow_keeps | apply State.flowPush_keeps | dsimp only | split

theorem State.flowIdle_keeps {r0 : State} (s : State) (f n lf : Nat) (h0 : Keeps r0 s) : Keeps r0 (State.flowIdle s f
    n lf) := by
  unfold State.flowIdle
  with_reducible repeat' first
    | assumption | intro _ | exact Keeps.refl _ | subst x
    | (extract_lets +onlyGivenNames x; first | (have hx : Keeps r0 x := ?_; clear_value x) | (have hx : Keeps r0 x.1 := ?_; clear_value x) | (have hf := fun a => x a; clear hf) | (have hf : CiphState := x; clear hf) | (have hf : SecState := x; clear hf) | clear_value x)
    | apply ite_keeps | apply State.modFlow_keeps | dsimp only | split

theorem State.flowRelease_keeps {r0 : State} (s : State) (f n lf : Nat) (h0 : Keeps r0 s) : Keeps r0
    (State.flowRelease s f n lf) := by
  unfold State.flowRelease
  with_reducible repeat' first
    | assumption | intro _ | exact Keeps.refl _ | subst x
    | (extract_lets +onlyGivenNames x; first | (have hx : Keeps r0 x := ?_; clear_value x) | (have hx : Keeps r0 x.1 := ?_; clear_value x) | (have hf := fun a => x a; clear hf) | (have hf : CiphState := x; clear hf) | (have hf : SecState := x; clear hf) | clear_value x)
    | apply ite_keeps | apply State.modFlow_keeps | apply State.flowPush_keeps | apply State.flowIdle_keeps
    | apply foldl_keeps_of | dsimp only | split

theorem State.flowPad_keeps {r0 : State} (s : State) (f n : Nat) (h0 : Keeps r0 s) : Keeps r0 (State.flowPad s f n) := by
  unfold State.flowPad
  with_reducible repeat' first | assumption | apply ite_keeps | apply State.modFlow_keeps

theorem State.flowWords_keeps {r0 : State} (s : State) (f d : Nat) (h0 : Keeps r0 s) : Keeps r0 (State.flowWords s f
    d).1 := by
  unfold State.flowWords
  with_reducible repeat' first
    | assumption | apply ite_keeps | apply State.flowPad_keeps | apply State.modFlow_keeps | split

theorem State.otnWords_keeps {r0 : State} (s : State) (f d : Nat) (h0 : Keeps r0 s) : Keeps r0 (State.otnWords s f
    d).1 := by
  unfold State.otnWords
  with_reducible repeat' first | assumption | apply ite_keeps | apply State.modFlow_keeps | split

theorem State.adapt_keeps {r0 : State} (s : State) (f d : Nat) (h0 : Keeps r0 s) : Keeps r0 (State.adapt s f d).1 := by
  unfold State.adapt
  with_reducible repeat' first
    | assumption | apply ite_keeps | apply State.otnWords_keeps | apply State.flowWords_keeps | split

theorem State.flexeReplace_keeps {r0 : State} (s : State) (p : Nat) (m : Nat × Nat × Nat) (h0 : Keeps r0 s) : Keeps
    r0 (State.flexeReplace s p m) := by
  unfold State.flexeReplace
  with_reducible repeat' first
    | assumption | intro _ | exact Keeps.refl _ | subst x
    | (extract_lets +onlyGivenNames x; first | (have hx : Keeps r0 x := ?_; clear_value x) | (have hx : Keeps r0 x.1 := ?_; clear_value x) | (have hf := fun a => x a; clear hf) | (have hf : CiphState := x; clear hf) | (have hf : SecState := x; clear hf) | clear_value x)
    | apply ite_keeps | apply State.emit_keeps | apply State.modFlow_keeps | dsimp only | split

theorem State.showFault_keeps {r0 : State} (s : State) (p : Nat) (h0 : Keeps r0 s) : Keeps r0 (State.showFault s p)
    := by
  unfold State.showFault
  with_reducible repeat' first
    | assumption | intro _ | exact Keeps.refl _ | subst x
    | (extract_lets +onlyGivenNames x; first | (have hx : Keeps r0 x := ?_; clear_value x) | (have hx : Keeps r0 x.1 := ?_; clear_value x) | (have hf := fun a => x a; clear hf) | (have hf : CiphState := x; clear hf) | (have hf : SecState := x; clear hf) | clear_value x)
    | apply ite_keeps | apply State.setB_keeps | apply State.emit_keeps | dsimp only | split

theorem State.faultAction_keeps {r0 : State} (s : State) (p : Nat) (h0 : Keeps r0 s) : Keeps r0 (State.faultAction s
    p) := by
  unfold State.faultAction
  with_reducible repeat' first
    | assumption | intro _ | exact Keeps.refl _ | subst x
    | (extract_lets +onlyGivenNames x; first | (have hx : Keeps r0 x := ?_; clear_value x) | (have hx : Keeps r0 x.1 := ?_; clear_value x) | (have hf := fun a => x a; clear hf) | (have hf : CiphState := x; clear hf) | (have hf : SecState := x; clear hf) | clear_value x)
    | apply ite_keeps | apply State.flexeReplace_keeps | apply State.showFault_keeps | apply foldl_keeps_of
    | dsimp only | split

theorem State.egressFrame_keeps {r0 : State} (s : State) (f cfg : Nat) (bytes : List Byte) (invert : Bool) (h0 :
    Keeps r0 s) : Keeps r0 (State.egressFrame s f cfg bytes invert) := by
  unfold State.egressFrame
  with_reducible repeat' first
    | assumption | intro _ | exact Keeps.refl _ | subst x
    | (extract_lets +onlyGivenNames x; first | (have hx : Keeps r0 x := ?_; clear_value x) | (have hx : Keeps r0 x.1 := ?_; clear_value x) | (have hf := fun a => x a; clear hf) | (have hf : CiphState := x; clear hf) | (have hf : SecState := x; clear hf) | clear_value x)
    | apply ite_keeps | apply State.emit_keeps | apply State.tapPort_keeps | apply State.modPort_keeps
    | apply State.portCount_keeps | apply State.portAlarm_keeps | dsimp only | split

theorem State.flowRx_keeps {r0 : State} (s : State) (f : Nat) (ws : List (Nat × Bool)) (h0 : Keeps r0 s) : Keeps r0
    (State.flowRx s f ws) := by
  unfold State.flowRx
  with_reducible repeat' first
    | assumption | intro _ | exact Keeps.refl _ | subst x
    | (extract_lets +onlyGivenNames x; first | (have hx : Keeps r0 x := ?_; clear_value x) | (have hx : Keeps r0 x.1 := ?_; clear_value x) | (have hf := fun a => x a; clear hf) | (have hf : CiphState := x; clear hf) | (have hf : SecState := x; clear hf) | clear_value x)
    | apply ite_keeps | apply State.modFlow_keeps | dsimp only | split

theorem State.otnRx_keeps {r0 : State} (s : State) (f p : Nat) (ws : List (Nat × Bool)) (h0 : Keeps r0 s) : Keeps r0
    (State.otnRx s f p ws) := by
  unfold State.otnRx
  with_reducible repeat' first
    | assumption | intro _ | exact Keeps.refl _ | subst x
    | (extract_lets +onlyGivenNames x; first | (have hx : Keeps r0 x := ?_; clear_value x) | (have hx : Keeps r0 x.1 := ?_; clear_value x) | (have hf := fun a => x a; clear hf) | (have hf : CiphState := x; clear hf) | (have hf : SecState := x; clear hf) | clear_value x)
    | apply ite_keeps | apply State.emit_keeps | apply State.takeFree_keeps | apply State.tapPort_keeps
    | apply State.modPort_keeps | apply State.portCount_keeps | apply State.portAlarm_keeps
    | apply State.modFlow_keeps | apply State.showFlow_keeps | dsimp only | split

theorem State.sink_keeps {r0 : State} (s : State) (g : Mapped) (ws : List (Nat × Bool)) (h0 : Keeps r0 s) : Keeps r0
    (State.sink s g ws) := by
  unfold State.sink
  with_reducible repeat' first | assumption | apply ite_keeps | apply State.otnRx_keeps | apply State.flowRx_keeps

theorem State.loadCalendar_keeps {r0 : State} (s : State) (k : Nat) (h0 : Keeps r0 s) : Keeps r0 (State.loadCalendar s
    k) := by
  unfold State.loadCalendar
  with_reducible repeat' first
    | assumption | exact Keeps.refl _ | exact id_keeps _ | exact ⟨Nat.le_refl _, fun _ => rfl⟩ | apply ite_keeps
    | apply itep_keeps | apply State.setB_keeps | apply foldl_keeps | apply foldlp_keeps | intro _
    | (extract_lets +onlyGivenNames x; first | (have hx : Keeps r0 x := ?_; clear_value x) | (have hx : Keeps r0 x.1 := ?_; clear_value x) | (have hf := fun a => x a; clear hf) | (have hf : CiphState := x; clear hf) | (have hf : SecState := x; clear hf) | clear_value x)
    | subst x | dsimp only | (apply fst_keeps; assumption) | split | refine Keeps.raw ?_ rfl rfl rfl

theorem State.typesFollow_keeps {r0 : State} (s : State) (ports : List Nat) (h0 : Keeps r0 s) : Keeps r0
    (State.typesFollow s ports) := by
  unfold State.typesFollow
  with_reducible repeat' first
    | assumption | intro _ | exact Keeps.refl _ | subst x
    | (extract_lets +onlyGivenNames x; first | (have hx : Keeps r0 x := ?_; clear_value x) | (have hx : Keeps r0 x.1 := ?_; clear_value x) | (have hf := fun a => x a; clear hf) | (have hf : CiphState := x; clear hf) | (have hf : SecState := x; clear hf) | clear_value x)
    | apply ite_keeps | apply State.showFlow_keeps | apply foldl_keeps_of | dsimp only | split
    | refine Keeps.raw ?_ rfl rfl rfl

theorem State.flexeCourse_keeps {r0 : State} (s : State) (k : Nat) (h0 : Keeps r0 s) : Keeps r0 (State.flexeCourse s
    k) := by
  unfold State.flexeCourse
  with_reducible repeat' first
    | assumption | exact Keeps.refl _ | apply ite_keeps | apply State.setB_keeps | split
    | refine Keeps.raw ?_ rfl rfl rfl

theorem State.portCourse_keeps {r0 : State} (s before : State) (p : Nat) (h0 : Keeps r0 s) : Keeps r0
    (State.portCourse s before p) := by
  unfold State.portCourse
  with_reducible repeat' first
    | assumption | apply ite_keeps | apply State.tapChange_keeps | apply State.portRefresh_keeps
    | apply State.setReg_keeps | apply State.setB_keeps

theorem State.flowCourse_keeps {r0 : State} (s before : State) (f : Nat) (h0 : Keeps r0 s) : Keeps r0
    (State.flowCourse s before f) := by
  unfold State.flowCourse
  with_reducible repeat' first
    | assumption | intro _ | exact Keeps.refl _ | subst x
    | (extract_lets +onlyGivenNames x; first | (have hx : Keeps r0 x := ?_; clear_value x) | (have hx : Keeps r0 x.1 := ?_; clear_value x) | (have hf := fun a => x a; clear hf) | (have hf : CiphState := x; clear hf) | (have hf : SecState := x; clear hf) | clear_value x)
    | apply ite_keeps | apply State.modFlow_keeps | apply State.showFlow_keeps | dsimp only | split

theorem State.cliReset_keeps {r0 : State} (s : State) (g : Nat) (h0 : Keeps r0 s) : Keeps r0 (State.cliReset s g) := by
  unfold State.cliReset
  with_reducible repeat' first
    | assumption | exact Keeps.refl _ | apply ite_keeps | apply itep_keeps | apply State.setB_keeps
    | apply State.portRefresh_keeps | apply State.modFlow_keeps | apply foldl_keeps | intro _
    | (extract_lets +onlyGivenNames x; first | (have hx : Keeps r0 x := ?_; clear_value x) | (have hx : Keeps r0 x.1 := ?_; clear_value x) | (have hf := fun a => x a; clear hf) | (have hf : CiphState := x; clear hf) | (have hf : SecState := x; clear hf) | clear_value x)
    | split

theorem State.clientItemsIn_keeps {r0 : State} (s before : State) (addrs : List Nat) (h0 : Keeps r0 s) : Keeps r0
    (State.clientItemsIn s before addrs) := by
  unfold State.clientItemsIn
  with_reducible repeat' first
    | assumption | intro _ | exact Keeps.refl _ | subst x
    | (extract_lets +onlyGivenNames x; first | (have hx : Keeps r0 x := ?_; clear_value x) | (have hx : Keeps r0 x.1 := ?_; clear_value x) | (have hf := fun a => x a; clear hf) | (have hf : CiphState := x; clear hf) | (have hf : SecState := x; clear hf) | clear_value x)
    | apply ite_keeps | apply State.loadCalendar_keeps | apply State.typesFollow_keeps
    | apply State.flexeCourse_keeps | apply State.portCourse_keeps | apply foldl_keeps_of | dsimp only | split

end Sys2Proof.Machine
end

