-- ==== Sys2Proof/Laws/KeepsLane.lean ====
section
/-!
SUPPORT. No operation undoes what `Keeps` lists: CONV, RXD, TXD, KSC and HKM.
-/

-- one theorem after another: all at once would not fit the memory
set_option Elab.async false
set_option linter.all false

namespace Sys2Proof.Machine

/-! ### Conv.lean -/

theorem State.setSpare_keeps {r0 : State} (s : State) (n : Lane) (k : Nat) (r : SpareRun) (h0 : Keeps r0 s) : Keeps r0
    (State.setSpare s n k r) := by
  unfold State.setSpare
  with_reducible repeat' first | assumption | apply State.setB_keeps | apply State.modConv_keeps

theorem State.spareIdle_keeps {r0 : State} (s : State) (n : Lane) (k : Nat) (h0 : Keeps r0 s) : Keeps r0
    (State.spareIdle s n k) := by
  unfold State.spareIdle
  with_reducible repeat' first
    | assumption | intro _ | exact Keeps.refl _ | subst x
    | (extract_lets +onlyGivenNames x; first | (have hx : Keeps r0 x := ?_; clear_value x) | (have hx : Keeps r0 x.1 := ?_; clear_value x) | (have hf := fun a => x a; clear hf) | (have hf : CiphState := x; clear hf) | (have hf : SecState := x; clear hf) | clear_value x)
    | apply ite_keeps | apply State.set_keeps | apply State.modConv_keeps | apply State.setSpare_keeps | dsimp only
    | split

theorem State.spareLoad_keeps {r0 : State} (s : State) (n : Lane) (k pos : Nat) (h0 : Keeps r0 s) : Keeps r0
    (State.spareLoad s n k pos) := by
  unfold State.spareLoad
  with_reducible repeat' first
    | assumption | intro _ | exact Keeps.refl _ | subst x
    | (extract_lets +onlyGivenNames x; first | (have hx : Keeps r0 x := ?_; clear_value x) | (have hx : Keeps r0 x.1 := ?_; clear_value x) | (have hf := fun a => x a; clear hf) | (have hf : CiphState := x; clear hf) | (have hf : SecState := x; clear hf) | clear_value x)
    | apply ite_keeps | apply State.modConv_keeps | dsimp only | split

theorem State.spareTake_keeps {r0 : State} (s : State) (n : Lane) (k pos : Nat) (retire : Bool) (h0 : Keeps r0 s) :
    Keeps r0 (State.spareTake s n k pos retire) := by
  unfold State.spareTake
  with_reducible repeat' first
    | assumption | exact Keeps.refl _ | apply ite_keeps | apply State.setSpare_keeps | apply State.spareLoad_keeps
    | split | refine Keeps.raw ?_ rfl rfl rfl

theorem State.sparesReload_keeps {r0 : State} (s : State) (n : Lane) (h0 : Keeps r0 s) : Keeps r0 (State.sparesReload
    s n) := by
  unfold State.sparesReload
  with_reducible repeat' first
    | assumption | intro _ | exact Keeps.refl _ | subst x
    | (extract_lets +onlyGivenNames x; first | (have hx : Keeps r0 x := ?_; clear_value x) | (have hx : Keeps r0 x.1 := ?_; clear_value x) | (have hf := fun a => x a; clear hf) | (have hf : CiphState := x; clear hf) | (have hf : SecState := x; clear hf) | clear_value x)
    | apply ite_keeps | apply State.spareLoad_keeps | apply foldl_keeps_of | dsimp only | split

theorem State.sparesEnd_keeps {r0 : State} (s : State) (n : Lane) (sd : Side) (h0 : Keeps r0 s) : Keeps r0
    (State.sparesEnd s n sd) := by
  unfold State.sparesEnd
  with_reducible repeat' first
    | assumption | exact Keeps.refl _ | apply ite_keeps | apply itep_keeps | apply State.raise_keeps
    | apply State.modConv_keeps | apply State.spareIdle_keeps | apply foldl_keeps | intro _
    | (extract_lets +onlyGivenNames x; first | (have hx : Keeps r0 x := ?_; clear_value x) | (have hx : Keeps r0 x.1 := ?_; clear_value x) | (have hf := fun a => x a; clear hf) | (have hf : CiphState := x; clear hf) | (have hf : SecState := x; clear hf) | clear_value x)
    | split

theorem State.convMove_keeps {r0 : State} (s : State) (n : Lane) (sd : Side) (st : Nat) (h0 : Keeps r0 s) : Keeps r0
    (State.convMove s n sd st) := by
  unfold State.convMove
  with_reducible repeat' first
    | assumption | exact Keeps.refl _ | apply ite_keeps | apply itep_keeps | apply State.set_keeps
    | apply State.setB_keeps | apply State.sparesEnd_keeps | apply State.setNat_keeps | apply State.modConv_keeps
    | apply foldl_keeps | intro _
    | (extract_lets +onlyGivenNames x; first | (have hx : Keeps r0 x := ?_; clear_value x) | (have hx : Keeps r0 x.1 := ?_; clear_value x) | (have hf := fun a => x a; clear hf) | (have hf : CiphState := x; clear hf) | (have hf : SecState := x; clear hf) | clear_value x)
    | split

theorem State.calTake_keeps {r0 : State} (s : State) (n : Lane) (k pos : Nat) (h0 : Keeps r0 s) : Keeps r0
    (State.calTake s n k pos).1 := by
  unfold State.calTake
  with_reducible repeat' first
    | assumption | intro _ | exact Keeps.refl _ | subst x
    | (extract_lets +onlyGivenNames x; first | (have hx : Keeps r0 x := ?_; clear_value x) | (have hx : Keeps r0 x.1 := ?_; clear_value x) | (have hf := fun a => x a; clear hf) | (have hf : CiphState := x; clear hf) | (have hf : SecState := x; clear hf) | clear_value x)
    | apply ite_keeps | apply itep_keeps | apply State.spareTake_keeps | dsimp only | (apply fst_keeps; assumption)
    | split

theorem State.spareNext_keeps {r0 : State} (s : State) (n : Lane) (k : Nat) (h0 : Keeps r0 s) : Keeps r0
    (State.spareNext s n k) := by
  unfold State.spareNext
  with_reducible repeat' first
    | assumption | intro _ | exact Keeps.refl _ | subst x
    | (extract_lets +onlyGivenNames x; first | (have hx : Keeps r0 x := ?_; clear_value x) | (have hx : Keeps r0 x.1 := ?_; clear_value x) | (have hf := fun a => x a; clear hf) | (have hf : CiphState := x; clear hf) | (have hf : SecState := x; clear hf) | clear_value x)
    | apply ite_keeps | apply State.spareTake_keeps | dsimp only | split

theorem State.calRelease_keeps {r0 : State} (s : State) (n : Lane) (k : Nat) (h0 : Keeps r0 s) : Keeps r0
    (State.calRelease s n k) := by
  unfold State.calRelease
  with_reducible repeat' first
    | assumption | intro _ | exact Keeps.refl _ | subst x
    | (extract_lets +onlyGivenNames x; first | (have hx : Keeps r0 x := ?_; clear_value x) | (have hx : Keeps r0 x.1 := ?_; clear_value x) | (have hf := fun a => x a; clear hf) | (have hf : CiphState := x; clear hf) | (have hf : SecState := x; clear hf) | clear_value x)
    | apply ite_keeps | apply State.setSpare_keeps | apply State.spareIdle_keeps | apply State.spareNext_keeps
    | dsimp only | split

theorem State.writeRetire_keeps {r0 : State} (s : State) (n : Lane) (k pos : Nat) (h0 : Keeps r0 s) : Keeps r0
    (State.writeRetire s n k pos).1 := by
  unfold State.writeRetire
  with_reducible repeat' first
    | assumption | apply ite_keeps | apply State.raise_keeps | apply State.set_keeps | apply State.spareIdle_keeps
    | apply State.setSpare_keeps | apply State.spareNext_keeps | split

theorem State.writeConvEn_keeps {r0 : State} (s : State) (n : Lane) (sd : Side) (v : Bool) (h0 : Keeps r0 s) : Keeps
    r0 (State.writeConvEn s n sd v) := by
  unfold State.writeConvEn
  with_reducible repeat' first | assumption | apply ite_keeps | apply State.setB_keeps | apply State.convMove_keeps

theorem State.convRegain_keeps {r0 : State} (s : State) (n : Lane) (sd : Side) (h0 : Keeps r0 s) : Keeps r0
    (State.convRegain s n sd) := by
  unfold State.convRegain
  with_reducible repeat' first | assumption | apply ite_keeps | apply State.setB_keeps | apply State.convMove_keeps

theorem State.convUnlock_keeps {r0 : State} (s : State) (n : Lane) (side : Side) (h0 : Keeps r0 s) : Keeps r0
    (State.convUnlock s n side) := by
  unfold State.convUnlock
  with_reducible repeat' first | assumption | apply ite_keeps | apply State.raise_keeps | apply State.convMove_keeps

theorem State.convRefLost_keeps {r0 : State} (s : State) (n : Lane) (side : Side) (h0 : Keeps r0 s) : Keeps r0
    (State.convRefLost s n side) := by
  unfold State.convRefLost
  with_reducible repeat' first
    | assumption | exact Keeps.refl _ | apply ite_keeps | apply State.setB_keeps | apply State.convUnlock_keeps
    | split | refine Keeps.raw ?_ rfl rfl rfl

theorem State.capGroup_keeps {r0 : State} (s : State) (n : Lane) (g : Group) (dac : Bool) (h0 : Keeps r0 s) : Keeps r0
    (State.capGroup s n g dac) := by
  unfold State.capGroup
  with_reducible repeat' first | assumption | apply ite_keeps | apply State.modConv_keeps | split

theorem State.capArm_keeps {r0 : State} (s : State) (n : Lane) (cfg : Word) (h0 : Keeps r0 s) : Keeps r0 (State.capArm
    s n cfg) := by
  unfold State.capArm
  with_reducible repeat' first
    | assumption | apply ite_keeps | apply State.setReg_keeps | apply State.modConv_keeps | apply State.setB_keeps

theorem State.capFire_keeps {r0 : State} (s : State) (n : Lane) (h0 : Keeps r0 s) : Keeps r0 (State.capFire s n) := by
  unfold State.capFire
  with_reducible repeat' first | assumption | apply ite_keeps | apply State.modConv_keeps

/-! ### Rxd.lean -/

theorem State.compSet_keeps {r0 : State} (s : State) (n : Lane) (cd : Int) (h0 : Keeps r0 s) : Keeps r0
    (State.compSet s n cd) := by
  unfold State.compSet
  with_reducible repeat' first
    | assumption | intro _ | exact Keeps.refl _ | subst x
    | (extract_lets +onlyGivenNames x; first | (have hx : Keeps r0 x := ?_; clear_value x) | (have hx : Keeps r0 x.1 := ?_; clear_value x) | (have hf := fun a => x a; clear hf) | (have hf : CiphState := x; clear hf) | (have hf : SecState := x; clear hf) | clear_value x)
    | apply ite_keeps | apply State.modRxd_keeps | dsimp only | split

theorem State.rxdGroup_keeps {r0 : State} (s : State) (n : Lane) (ovr : Bool) (codes : List (List Byte)) (h0 : Keeps
    r0 s) : Keeps r0 (State.rxdGroup s n ovr codes) := by
  unfold State.rxdGroup
  with_reducible repeat' first
    | assumption | intro _ | exact Keeps.refl _ | subst x
    | (extract_lets +onlyGivenNames x; first | (have hx : Keeps r0 x := ?_; clear_value x) | (have hx : Keeps r0 x.1 := ?_; clear_value x) | (have hf := fun a => x a; clear hf) | (have hf : CiphState := x; clear hf) | (have hf : SecState := x; clear hf) | clear_value x)
    | apply ite_keeps | apply State.modRxd_keeps | dsimp only | split

theorem State.showOwner_keeps {r0 : State} (s : State) (n : Lane) (h0 : Keeps r0 s) : Keeps r0 (State.showOwner s n) := by
  unfold State.showOwner
  with_reducible repeat' first | assumption | apply State.set_keeps

theorem State.ksDrop_keeps {r0 : State} (s : State) (n : Lane) (h0 : Keeps r0 s) : Keeps r0 (State.ksDrop s n) := by
  unfold State.ksDrop
  with_reducible repeat' first
    | assumption | intro _ | exact Keeps.refl _ | subst x
    | (extract_lets +onlyGivenNames x; first | (have hx : Keeps r0 x := ?_; clear_value x) | (have hx : Keeps r0 x.1 := ?_; clear_value x) | (have hf := fun a => x a; clear hf) | (have hf : CiphState := x; clear hf) | (have hf : SecState := x; clear hf) | clear_value x)
    | apply ite_keeps | apply State.set_keeps | apply State.setB_keeps | apply State.modKsc_keeps
    | apply State.emit_keeps | apply State.addCnt_keeps | apply State.raise_keeps | dsimp only | split

theorem State.showRx_keeps {r0 : State} (s : State) (n : Lane) (h0 : Keeps r0 s) : Keeps r0 (State.showRx s n) := by
  unfold State.showRx
  with_reducible repeat' first
    | assumption | exact Keeps.refl _ | apply ite_keeps | apply itep_keeps | apply State.setB_keeps
    | apply State.set_keeps | apply foldl_keeps | intro _
    | (extract_lets +onlyGivenNames x; first | (have hx : Keeps r0 x := ?_; clear_value x) | (have hx : Keeps r0 x.1 := ?_; clear_value x) | (have hf := fun a => x a; clear hf) | (have hf : CiphState := x; clear hf) | (have hf : SecState := x; clear hf) | clear_value x)
    | split

theorem State.kscRxStop_keeps {r0 : State} (s : State) (n : Lane) (h0 : Keeps r0 s) : Keeps r0 (State.kscRxStop s n) := by
  unfold State.kscRxStop
  with_reducible repeat' first | assumption | apply State.showRx_keeps | apply State.modKsc_keeps

theorem State.kscFollow_keeps {r0 : State} (s : State) (n : Lane) (h0 : Keeps r0 s) : Keeps r0 (State.kscFollow s n)
    := by
  unfold State.kscFollow
  with_reducible repeat' first
    | assumption | intro _ | exact Keeps.refl _ | subst x
    | (extract_lets +onlyGivenNames x; first | (have hx : Keeps r0 x := ?_; clear_value x) | (have hx : Keeps r0 x.1 := ?_; clear_value x) | (have hf := fun a => x a; clear hf) | (have hf : CiphState := x; clear hf) | (have hf : SecState := x; clear hf) | clear_value x)
    | apply ite_keeps | apply State.set_keeps | apply State.modKsc_keeps | apply State.showOwner_keeps
    | apply State.ksDrop_keeps | apply State.kscRxStop_keeps | dsimp only | split

theorem State.showLoLim_keeps {r0 : State} (s : State) (n : Lane) (h0 : Keeps r0 s) : Keeps r0 (State.showLoLim s n) := by
  unfold State.showLoLim
  with_reducible repeat' first | assumption | apply State.setB_keeps

theorem State.loFrame_keeps {r0 : State} (s : State) (n : Lane) (type src : Nat) (v : Int) (h0 : Keeps r0 s) : Keeps
    r0 (State.loFrame s n type src v) := by
  unfold State.loFrame
  with_reducible repeat' first | assumption | apply State.modRxd_keeps | apply State.emit_keeps

theorem State.loDelta_keeps {r0 : State} (s : State) (n : Lane) (src : Nat) (v : Int) (h0 : Keeps r0 s) : Keeps r0
    (State.loDelta s n src v) := by
  unfold State.loDelta
  with_reducible repeat' first
    | assumption | apply State.raiseIf_keeps | apply State.showLoLim_keeps | apply State.loFrame_keeps
    | apply State.setInt_keeps

theorem State.writeLoHost_keeps {r0 : State} (s : State) (n : Lane) (v : BitVec 24) (h0 : Keeps r0 s) : Keeps r0
    (State.writeLoHost s n v).1 := by
  unfold State.writeLoHost
  with_reducible repeat' first
    | assumption | apply ite_keeps | apply State.loFrame_keeps | apply State.setNat_keeps | apply State.raise_keeps
    | split

theorem State.showFollowing_keeps {r0 : State} (s : State) (n : Lane) (h0 : Keeps r0 s) : Keeps r0
    (State.showFollowing s n) := by
  unfold State.showFollowing
  with_reducible repeat' first | assumption | apply State.setB_keeps

theorem State.rxdEnter_keeps {r0 : State} (s : State) (n : Lane) (st : Nat) (h0 : Keeps r0 s) : Keeps r0
    (State.rxdEnter s n st) := by
  unfold State.rxdEnter
  with_reducible repeat' first
    | assumption | intro _ | exact Keeps.refl _ | subst x
    | (extract_lets +onlyGivenNames x; first | (have hx : Keeps r0 x := ?_; clear_value x) | (have hx : Keeps r0 x.1 := ?_; clear_value x) | (have hf := fun a => x a; clear hf) | (have hf : CiphState := x; clear hf) | (have hf : SecState := x; clear hf) | clear_value x)
    | apply ite_keeps | apply State.set_keeps | apply State.setB_keeps | apply State.setNat_keeps
    | apply State.modRxd_keeps | apply State.showOwner_keeps | dsimp only | split

theorem State.followTurn_keeps {r0 : State} (s before : State) (n : Lane) (h0 : Keeps r0 s) : Keeps r0
    (State.followTurn s before n) := by
  unfold State.followTurn
  with_reducible repeat' first
    | assumption | intro _ | exact Keeps.refl _ | subst x
    | (extract_lets +onlyGivenNames x; first | (have hx : Keeps r0 x := ?_; clear_value x) | (have hx : Keeps r0 x.1 := ?_; clear_value x) | (have hf := fun a => x a; clear hf) | (have hf : CiphState := x; clear hf) | (have hf : SecState := x; clear hf) | clear_value x)
    | apply ite_keeps | apply State.rxFmtTurn_keeps | apply State.touch_keeps | apply State.familyTurn_keeps
    | apply State.kscFollow_keeps | apply State.showFollowing_keeps | dsimp only | split

theorem State.latchLoMode_keeps {r0 : State} (s : State) (n : Lane) (h0 : Keeps r0 s) : Keeps r0 (State.latchLoMode s
    n) := by
  unfold State.latchLoMode
  with_reducible repeat' first
    | assumption | intro _ | exact Keeps.refl _ | subst x
    | (extract_lets +onlyGivenNames x; first | (have hx : Keeps r0 x := ?_; clear_value x) | (have hx : Keeps r0 x.1 := ?_; clear_value x) | (have hf := fun a => x a; clear hf) | (have hf : CiphState := x; clear hf) | (have hf : SecState := x; clear hf) | clear_value x)
    | apply ite_keeps | apply State.modRxd_keeps | apply State.showOwner_keeps | dsimp only | split

theorem State.latchKsAssist_keeps {r0 : State} (s : State) (n : Lane) (h0 : Keeps r0 s) : Keeps r0
    (State.latchKsAssist s n) := by
  unfold State.latchKsAssist
  with_reducible repeat' first
    | assumption | intro _ | exact Keeps.refl _ | subst x
    | (extract_lets +onlyGivenNames x; first | (have hx : Keeps r0 x := ?_; clear_value x) | (have hx : Keeps r0 x.1 := ?_; clear_value x) | (have hf := fun a => x a; clear hf) | (have hf : CiphState := x; clear hf) | (have hf : SecState := x; clear hf) | clear_value x)
    | apply ite_keeps | apply State.modRxd_keeps | apply State.showOwner_keeps | dsimp only | split

theorem State.latchFmtSrc_keeps {r0 : State} (s : State) (n : Lane) (h0 : Keeps r0 s) : Keeps r0 (State.latchFmtSrc s
    n) := by
  unfold State.latchFmtSrc
  with_reducible repeat' first
    | assumption | intro _ | exact Keeps.refl _ | subst x
    | (extract_lets +onlyGivenNames x; first | (have hx : Keeps r0 x := ?_; clear_value x) | (have hx : Keeps r0 x.1 := ?_; clear_value x) | (have hf := fun a => x a; clear hf) | (have hf : CiphState := x; clear hf) | (have hf : SecState := x; clear hf) | clear_value x)
    | apply ite_keeps | apply State.modRxd_keeps | apply State.touch_keeps | apply State.followTurn_keeps
    | dsimp only | split

theorem State.latchModes_keeps {r0 : State} (s : State) (n : Lane) (h0 : Keeps r0 s) : Keeps r0 (State.latchModes s
    n) := by
  unfold State.latchModes
  with_reducible repeat' first
    | assumption | exact Keeps.refl _ | apply ite_keeps | apply State.latchLoMode_keeps
    | apply State.latchKsAssist_keeps | apply State.latchFmtSrc_keeps | split | refine Keeps.raw ?_ rfl rfl rfl

theorem State.freqSearch_keeps {r0 : State} (s : State) (n : Lane) (h0 : Keeps r0 s) : Keeps r0 (State.freqSearch s
    n) := by
  unfold State.freqSearch
  with_reducible repeat' first
    | assumption | intro _ | exact Keeps.refl _ | subst x
    | (extract_lets +onlyGivenNames x; first | (have hx : Keeps r0 x := ?_; clear_value x) | (have hx : Keeps r0 x.1 := ?_; clear_value x) | (have hf := fun a => x a; clear hf) | (have hf : CiphState := x; clear hf) | (have hf : SecState := x; clear hf) | clear_value x)
    | apply ite_keeps | apply State.setB_keeps | apply State.modRxd_keeps | apply State.rxdEnter_keeps
    | apply State.latchModes_keeps | dsimp only | split

theorem State.acqFail_keeps {r0 : State} (s : State) (n : Lane) (alarm : Fld) (h0 : Keeps r0 s) : Keeps r0
    (State.acqFail s n alarm) := by
  unfold State.acqFail
  with_reducible repeat' first
    | assumption | apply State.freqSearch_keeps | apply State.raise_keeps | apply State.addCnt_keeps

theorem State.rxdWarm_keeps {r0 : State} (s : State) (n : Lane) (h0 : Keeps r0 s) : Keeps r0 (State.rxdWarm s n) := by
  unfold State.rxdWarm
  with_reducible repeat' first
    | assumption | apply ite_keeps | apply State.rxdEnter_keeps | apply State.modRxd_keeps | apply State.setB_keeps

theorem State.losAssert_keeps {r0 : State} (s : State) (n : Lane) (h0 : Keeps r0 s) : Keeps r0 (State.losAssert s n) := by
  unfold State.losAssert
  with_reducible repeat' first
    | assumption | apply ite_keeps | apply State.raise_keeps | apply State.addCnt_keeps | apply State.setB_keeps
    | apply State.modRxd_keeps | apply State.rxdEnter_keeps | apply State.lfrLos_keeps

theorem State.losClear_keeps {r0 : State} (s : State) (n : Lane) (h0 : Keeps r0 s) : Keeps r0 (State.losClear s n) := by
  unfold State.losClear
  with_reducible repeat' first
    | assumption | apply ite_keeps | apply State.lfrLos_keeps | apply State.setB_keeps | apply State.freqSearch_keeps

theorem State.adcChannel_keeps {r0 : State} (s : State) (n : Lane) (i : Nat) (flag run : Bool) (power : List Nat) (h0
    : Keeps r0 s) : Keeps r0 (State.adcChannel s n i flag run power) := by
  unfold State.adcChannel
  with_reducible repeat' first
    | assumption | apply ite_keeps | apply State.setB_keeps | apply State.raise_keeps | apply State.addCnt_keeps
    | apply State.setNat_keeps

theorem State.writeRxdEn_keeps {r0 : State} (s : State) (n : Lane) (v : Bool) (h0 : Keeps r0 s) : Keeps r0
    (State.writeRxdEn s n v) := by
  unfold State.writeRxdEn
  with_reducible repeat' first
    | assumption | intro _ | exact Keeps.refl _ | subst x
    | (extract_lets +onlyGivenNames x; first | (have hx : Keeps r0 x := ?_; clear_value x) | (have hx : Keeps r0 x.1 := ?_; clear_value x) | (have hf := fun a => x a; clear hf) | (have hf : CiphState := x; clear hf) | (have hf : SecState := x; clear hf) | clear_value x)
    | apply ite_keeps | apply State.setB_keeps | apply State.setNat_keeps | apply State.touch_keeps
    | apply State.rxdEnter_keeps | apply State.freqSearch_keeps | dsimp only | split

theorem State.acqRestart_keeps {r0 : State} (s : State) (n : Lane) (h0 : Keeps r0 s) : Keeps r0 (State.acqRestart s n) := by
  unfold State.acqRestart
  with_reducible repeat' first | assumption | apply ite_keeps | apply State.freqSearch_keeps

theorem State.writeLoMode_keeps {r0 : State} (s : State) (n : Lane) (v : Nat) (h0 : Keeps r0 s) : Keeps r0
    (State.writeLoMode s n v) := by
  unfold State.writeLoMode
  with_reducible repeat' first
    | assumption | intro _ | exact Keeps.refl _ | subst x
    | (extract_lets +onlyGivenNames x; first | (have hx : Keeps r0 x := ?_; clear_value x) | (have hx : Keeps r0 x.1 := ?_; clear_value x) | (have hf := fun a => x a; clear hf) | (have hf : CiphState := x; clear hf) | (have hf : SecState := x; clear hf) | clear_value x)
    | apply ite_keeps | apply State.set_keeps | apply State.latchLoMode_keeps | dsimp only | split

theorem State.writeKsAssist_keeps {r0 : State} (s : State) (n : Lane) (v : Bool) (h0 : Keeps r0 s) : Keeps r0
    (State.writeKsAssist s n v) := by
  unfold State.writeKsAssist
  with_reducible repeat' first
    | assumption | intro _ | exact Keeps.refl _ | subst x
    | (extract_lets +onlyGivenNames x; first | (have hx : Keeps r0 x := ?_; clear_value x) | (have hx : Keeps r0 x.1 := ?_; clear_value x) | (have hf := fun a => x a; clear hf) | (have hf : CiphState := x; clear hf) | (have hf : SecState := x; clear hf) | clear_value x)
    | apply ite_keeps | apply State.setB_keeps | apply State.latchKsAssist_keeps | dsimp only | split

theorem State.writeFmtSrc_keeps {r0 : State} (s : State) (n : Lane) (v : Bool) (h0 : Keeps r0 s) : Keeps r0
    (State.writeFmtSrc s n v) := by
  unfold State.writeFmtSrc
  with_reducible repeat' first
    | assumption | intro _ | exact Keeps.refl _ | subst x
    | (extract_lets +onlyGivenNames x; first | (have hx : Keeps r0 x := ?_; clear_value x) | (have hx : Keeps r0 x.1 := ?_; clear_value x) | (have hf := fun a => x a; clear hf) | (have hf : CiphState := x; clear hf) | (have hf : SecState := x; clear hf) | clear_value x)
    | apply ite_keeps | apply State.setB_keeps | apply State.latchFmtSrc_keeps | dsimp only | split

theorem State.showFo_keeps {r0 : State} (s : State) (n : Lane) (fo : Int) (h0 : Keeps r0 s) : Keeps r0 (State.showFo s
    n fo) := by
  unfold State.showFo
  with_reducible repeat' first | assumption | apply State.setB_keeps | apply State.setInt_keeps

theorem State.coarseEnd_keeps {r0 : State} (s : State) (n : Lane) (est : Int) (h0 : Keeps r0 s) : Keeps r0
    (State.coarseEnd s n est) := by
  unfold State.coarseEnd
  with_reducible repeat' first
    | assumption | apply ite_keeps | apply State.raise_keeps | apply State.loDelta_keeps | apply State.modRxd_keeps

theorem State.ksWaitRefresh_keeps {r0 : State} (s : State) (n : Lane) (h0 : Keeps r0 s) : Keeps r0
    (State.ksWaitRefresh s n) := by
  unfold State.ksWaitRefresh
  with_reducible repeat' first
    | assumption | intro _ | exact Keeps.refl _ | subst x
    | (extract_lets +onlyGivenNames x; first | (have hx : Keeps r0 x := ?_; clear_value x) | (have hx : Keeps r0 x.1 := ?_; clear_value x) | (have hf := fun a => x a; clear hf) | (have hf : CiphState := x; clear hf) | (have hf : SecState := x; clear hf) | clear_value x)
    | apply ite_keeps | apply State.modRxd_keeps | apply State.showOwner_keeps | apply State.coarseEnd_keeps
    | dsimp only | split

theorem State.scanStart_keeps {r0 : State} (s : State) (n : Lane) (hint : Option Int) (h0 : Keeps r0 s) : Keeps r0
    (State.scanStart s n hint) := by
  unfold State.scanStart
  with_reducible repeat' first | assumption | apply State.modRxd_keeps

theorem State.searchDone_keeps {r0 : State} (s : State) (n : Lane) (h0 : Keeps r0 s) : Keeps r0 (State.searchDone s
    n) := by
  unfold State.searchDone
  with_reducible repeat' first
    | assumption | intro _ | exact Keeps.refl _ | subst x
    | (extract_lets +onlyGivenNames x; first | (have hx : Keeps r0 x := ?_; clear_value x) | (have hx : Keeps r0 x.1 := ?_; clear_value x) | (have hf := fun a => x a; clear hf) | (have hf : CiphState := x; clear hf) | (have hf : SecState := x; clear hf) | clear_value x)
    | apply ite_keeps | apply State.modRxd_keeps | apply State.compSet_keeps | apply State.rxdEnter_keeps
    | apply State.scanStart_keeps | dsimp only | split

theorem State.setRotation_keeps {r0 : State} (s : State) (n : Lane) (hyp : Nat) (h0 : Keeps r0 s) : Keeps r0
    (State.setRotation s n hyp) := by
  unfold State.setRotation
  with_reducible repeat' first | assumption | apply State.set_keeps

theorem State.rxdInFrame_keeps {r0 : State} (s : State) (n : Lane) (hyp : Nat) (h0 : Keeps r0 s) : Keeps r0
    (State.rxdInFrame s n hyp) := by
  unfold State.rxdInFrame
  with_reducible repeat' first
    | assumption | apply ite_keeps | apply State.addCnt_keeps | apply State.setRotation_keeps
    | apply State.setNat_keeps | apply State.cdToTime_keeps | apply State.rxdEnter_keeps | apply State.setB_keeps

theorem State.rxdSlip_keeps {r0 : State} (s : State) (n : Lane) (hyp : Nat) (h0 : Keeps r0 s) : Keeps r0
    (State.rxdSlip s n hyp) := by
  unfold State.rxdSlip
  with_reducible repeat' first
    | assumption | apply ite_keeps | apply State.raise_keeps | apply State.addCnt_keeps
    | apply State.setRotation_keeps

theorem State.nlcChanged_keeps {r0 : State} (s : State) (n : Lane) (h0 : Keeps r0 s) : Keeps r0 (State.nlcChanged s
    n) := by
  unfold State.nlcChanged
  with_reducible repeat' first
    | assumption | intro _ | exact Keeps.refl _ | subst x
    | (extract_lets +onlyGivenNames x; first | (have hx : Keeps r0 x := ?_; clear_value x) | (have hx : Keeps r0 x.1 := ?_; clear_value x) | (have hf := fun a => x a; clear hf) | (have hf : CiphState := x; clear hf) | (have hf : SecState := x; clear hf) | clear_value x)
    | apply ite_keeps | apply State.modRxd_keeps | dsimp only | split

theorem State.nlcBoundary_keeps {r0 : State} (s : State) (n : Lane) (h0 : Keeps r0 s) : Keeps r0 (State.nlcBoundary s
    n) := by
  unfold State.nlcBoundary
  with_reducible repeat' first
    | assumption | intro _ | exact Keeps.refl _ | subst x
    | (extract_lets +onlyGivenNames x; first | (have hx : Keeps r0 x := ?_; clear_value x) | (have hx : Keeps r0 x.1 := ?_; clear_value x) | (have hf := fun a => x a; clear hf) | (have hf : CiphState := x; clear hf) | (have hf : SecState := x; clear hf) | clear_value x)
    | apply ite_keeps | apply State.setB_keeps | apply State.modRxd_keeps | dsimp only | split

theorem State.rxdCourse_keeps {r0 : State} (s before : State) (n : Lane) (h0 : Keeps r0 s) : Keeps r0
    (State.rxdCourse s before n) := by
  unfold State.rxdCourse
  with_reducible repeat' first
    | assumption | intro _ | exact Keeps.refl _ | subst x
    | (extract_lets +onlyGivenNames x; first | (have hx : Keeps r0 x := ?_; clear_value x) | (have hx : Keeps r0 x.1 := ?_; clear_value x) | (have hf := fun a => x a; clear hf) | (have hf : CiphState := x; clear hf) | (have hf : SecState := x; clear hf) | clear_value x)
    | apply ite_keeps | apply State.modRxd_keeps | apply State.raiseIf_keeps | apply State.compSet_keeps
    | apply State.freqSearch_keeps | apply State.rxdWarm_keeps | dsimp only | split

theorem State.loZero_keeps {r0 : State} (s : State) (n : Lane) (h0 : Keeps r0 s) : Keeps r0 (State.loZero s n) := by
  unfold State.loZero
  with_reducible repeat' first | assumption | apply State.loFrame_keeps

/-! ### Txd.lean -/

theorem State.showKsOn_keeps {r0 : State} (s : State) (n : Lane) (h0 : Keeps r0 s) : Keeps r0 (State.showKsOn s n) := by
  unfold State.showKsOn
  with_reducible repeat' first | assumption | apply ite_keeps | apply State.setB_keeps | apply State.ksDrop_keeps

theorem State.txdEnter_keeps {r0 : State} (s : State) (n : Lane) (st : Nat) (h0 : Keeps r0 s) : Keeps r0
    (State.txdEnter s n st) := by
  unfold State.txdEnter
  with_reducible repeat' first
    | assumption | apply ite_keeps | apply State.set_keeps | apply State.modTx_keeps | apply State.showKsOn_keeps

theorem State.txdNow_keeps {r0 : State} (s : State) (n : Lane) (h0 : Keeps r0 s) : Keeps r0 (State.txdNow s n) := by
  unfold State.txdNow
  with_reducible repeat' first | assumption | apply ite_keeps | apply State.txdEnter_keeps

theorem State.txdAtStart_keeps {r0 : State} (s : State) (n : Lane) (h0 : Keeps r0 s) : Keeps r0 (State.txdAtStart s n) := by
  unfold State.txdAtStart
  with_reducible repeat' first | assumption | apply ite_keeps | apply State.txdEnter_keeps

theorem State.levelEnters_keeps {r0 : State} (s : State) (n : Lane) (at_ : Nat) (h0 : Keeps r0 s) : Keeps r0
    (State.levelEnters s n at_) := by
  unfold State.levelEnters
  with_reducible repeat' first
    | assumption | intro _ | exact Keeps.refl _ | subst x
    | (extract_lets +onlyGivenNames x; first | (have hx : Keeps r0 x := ?_; clear_value x) | (have hx : Keeps r0 x.1 := ?_; clear_value x) | (have hf := fun a => x a; clear hf) | (have hf : CiphState := x; clear hf) | (have hf : SecState := x; clear hf) | clear_value x)
    | apply ite_keeps | apply State.modTx_keeps | dsimp only | split

/-! ### Ksc.lean -/

theorem State.kscCount_keeps {r0 : State} (s : State) (n : Lane) (j : Nat) (h0 : Keeps r0 s) : Keeps r0
    (State.kscCount s n j) := by
  unfold State.kscCount
  with_reducible repeat' first | assumption | apply State.addCnt_keeps

theorem State.kscJudge_keeps {r0 : State} (s : State) (n : Lane) (h0 : Keeps r0 s) : Keeps r0 (State.kscJudge s n) :=
    by
  unfold State.kscJudge
  with_reducible repeat' first
    | assumption | exact Keeps.refl _ | apply ite_keeps | apply State.kscFollow_keeps
    | apply State.ksWaitRefresh_keeps | split | refine Keeps.raw ?_ rfl rfl rfl

theorem State.ksQueue_keeps {r0 : State} (s : State) (n : Lane) (type : Nat) (payload : List Byte) (h0 : Keeps r0 s) :
    Keeps r0 (State.ksQueue s n type payload) := by
  unfold State.ksQueue
  with_reducible repeat' first | assumption | apply ite_keeps | apply State.modKsc_keeps | apply State.ksDrop_keeps

theorem State.ksStart_keeps {r0 : State} (s : State) (n : Lane) (p : KsPacket) (h0 : Keeps r0 s) : Keeps r0
    (State.ksStart s n p) := by
  unfold State.ksStart
  with_reducible repeat' first
    | assumption | intro _ | exact Keeps.refl _ | subst x
    | (extract_lets +onlyGivenNames x; first | (have hx : Keeps r0 x := ?_; clear_value x) | (have hx : Keeps r0 x.1 := ?_; clear_value x) | (have hf := fun a => x a; clear hf) | (have hf : CiphState := x; clear hf) | (have hf : SecState := x; clear hf) | clear_value x)
    | apply ite_keeps | apply State.set_keeps | apply State.setB_keeps | apply State.modKsc_keeps
    | apply State.emit_keeps | dsimp only | split

theorem State.ksCourse_keeps {r0 : State} (s : State) (n : Lane) (a : Armed) (state : Nat) (h0 : Keeps r0 s) : Keeps
    r0 (State.ksCourse s n a state) := by
  unfold State.ksCourse
  with_reducible repeat' first | assumption | apply ite_keeps | apply State.ksQueue_keeps

theorem State.ksMgmt_keeps {r0 : State} (s : State) (n : Lane) (bytes : List Byte) (h0 : Keeps r0 s) : Keeps r0
    (State.ksMgmt s n bytes) := by
  unfold State.ksMgmt
  with_reducible repeat' first
    | assumption | exact Keeps.refl _ | apply ite_keeps | apply State.raise_keeps | apply State.kscCount_keeps
    | apply State.ksQueue_keeps | split | refine Keeps.raw ?_ rfl rfl rfl

theorem State.rxEnd_keeps {r0 : State} (s : State) (n : Lane) (h0 : Keeps r0 s) : Keeps r0 (State.rxEnd s n) := by
  unfold State.rxEnd
  with_reducible repeat' first | assumption | apply State.showRx_keeps | apply State.modKsc_keeps

theorem State.kscLog_keeps {r0 : State} (s : State) (n : Lane) (event : Nat) (chan snr : Int) (h0 : Keeps r0 s) :
    Keeps r0 (State.kscLog s n event chan snr) := by
  unfold State.kscLog
  with_reducible repeat' first
    | assumption | exact Keeps.refl _ | apply ite_keeps | apply itep_keeps | apply State.setReg_keeps
    | apply State.modKsc_keeps | apply foldl_keeps | intro _
    | (extract_lets +onlyGivenNames x; first | (have hx : Keeps r0 x := ?_; clear_value x) | (have hx : Keeps r0 x.1 := ?_; clear_value x) | (have hf := fun a => x a; clear hf) | (have hf : CiphState := x; clear hf) | (have hf : SecState := x; clear hf) | clear_value x)
    | split

theorem State.ksPut_keeps {r0 : State} (s : State) (n : Lane) (cand : Bool) (r : KsReception) (h0 : Keeps r0 s) :
    Keeps r0 (State.ksPut s n cand r) := by
  unfold State.ksPut
  with_reducible repeat' first | assumption | apply State.showRx_keeps | apply State.modKsc_keeps

theorem State.ksGiveUp_keeps {r0 : State} (s : State) (n : Lane) (cand : Bool) (h0 : Keeps r0 s) : Keeps r0
    (State.ksGiveUp s n cand) := by
  unfold State.ksGiveUp
  with_reducible repeat' first
    | assumption | apply ite_keeps | apply State.showRx_keeps | apply State.modKsc_keeps | apply State.rxEnd_keeps

theorem State.crsRematch_keeps {r0 : State} (s : State) (n : Lane) (h0 : Keeps r0 s) : Keeps r0 (State.crsRematch s n) := by
  unfold State.crsRematch
  with_reducible repeat' first | assumption | apply ite_keeps | apply State.raiseIf_keeps | apply State.set_keeps

theorem State.farFormat_keeps {r0 : State} (s : State) (n : Lane) (f : FarFmt) (h0 : Keeps r0 s) : Keeps r0
    (State.farFormat s n f) := by
  unfold State.farFormat
  with_reducible repeat' first
    | assumption | intro _ | exact Keeps.refl _ | subst x
    | (extract_lets +onlyGivenNames x; first | (have hx : Keeps r0 x := ?_; clear_value x) | (have hx : Keeps r0 x.1 := ?_; clear_value x) | (have hf := fun a => x a; clear hf) | (have hf : CiphState := x; clear hf) | (have hf : SecState := x; clear hf) | clear_value x)
    | apply ite_keeps | apply State.modRxd_keeps | apply State.raiseIf_keeps | apply State.touch_keeps
    | apply State.followTurn_keeps | apply State.ksWaitRefresh_keeps | apply State.rxdCourse_keeps | dsimp only
    | split

theorem State.ksAssist_keeps {r0 : State} (s : State) (n : Lane) (fo : Int) (h0 : Keeps r0 s) : Keeps r0
    (State.ksAssist s n fo) := by
  unfold State.ksAssist
  with_reducible repeat' first
    | assumption | apply ite_keeps | apply State.setB_keeps | apply State.loDelta_keeps | apply State.raise_keeps
    | apply State.modRxd_keeps

theorem State.ksContent_keeps {r0 : State} (s : State) (n : Lane) (r : KsReception) (p : List Byte) (h0 : Keeps r0 s)
    : Keeps r0 (State.ksContent s n r p) := by
  unfold State.ksContent
  with_reducible repeat' first
    | assumption | intro _ | exact Keeps.refl _ | subst x
    | (extract_lets +onlyGivenNames x; first | (have hx : Keeps r0 x := ?_; clear_value x) | (have hx : Keeps r0 x.1 := ?_; clear_value x) | (have hf := fun a => x a; clear hf) | (have hf : CiphState := x; clear hf) | (have hf : SecState := x; clear hf) | clear_value x)
    | exact id_keeps _ | apply ite_keeps | apply State.setNat_keeps | apply State.setTime80_keeps
    | apply State.modRxd_keeps | apply State.modKsc_keeps | apply State.emit_keeps | apply State.raiseIf_keeps
    | apply State.setStamp_keeps | apply State.rangeResult_keeps | apply State.ksDrop_keeps
    | apply State.kscCount_keeps | apply State.farFormat_keeps | apply foldl_keeps_of | dsimp only | split

theorem State.ksAccept_keeps {r0 : State} (s : State) (n : Lane) (r : KsReception) (p : List Byte) (h0 : Keeps r0 s) :
    Keeps r0 (State.ksAccept s n r p) := by
  unfold State.ksAccept
  with_reducible repeat' first
    | assumption | apply ite_keeps | apply State.setInt_keeps | apply State.kscCount_keeps | apply State.setNat_keeps
    | apply State.modKsc_keeps | apply State.set_keeps | apply State.ksContent_keeps | apply State.ksAssist_keeps

theorem State.kscReset_keeps {r0 : State} (s : State) (n : Lane) (h0 : Keeps r0 s) : Keeps r0 (State.kscReset s n) :=
    by
  unfold State.kscReset
  with_reducible repeat' first
    | assumption | intro _ | exact Keeps.refl _ | subst x
    | (extract_lets +onlyGivenNames x; first | (have hx : Keeps r0 x := ?_; clear_value x) | (have hx : Keeps r0 x.1 := ?_; clear_value x) | (have hf := fun a => x a; clear hf) | (have hf : CiphState := x; clear hf) | (have hf : SecState := x; clear hf) | clear_value x)
    | apply ite_keeps | apply State.resetRange_keeps | apply State.modKsc_keeps | apply State.emit_keeps
    | apply State.raise_keeps | apply State.showOwner_keeps | apply State.ksWaitRefresh_keeps | dsimp only | split

/-! ### Hkm.lean -/

theorem State.modHkm_keeps {r0 : State} (s : State) (f : HkmState → HkmState) (h0 : Keeps r0 s) : Keeps r0
    (State.modHkm s f) :=
  Keeps.raw h0 rfl rfl rfl

theorem State.modHkmConv_keeps {r0 : State} (s : State) (x : Nat) (f : HkmConv → HkmConv) (h0 : Keeps r0 s) : Keeps r0
    (State.modHkmConv s x f) := by
  unfold State.modHkmConv
  with_reducible repeat' first | assumption | apply State.modHkm_keeps

theorem State.modHkmIn_keeps {r0 : State} (s : State) (k : Nat) (f : HkmInput → HkmInput) (h0 : Keeps r0 s) : Keeps r0
    (State.modHkmIn s k f) := by
  unfold State.modHkmIn
  with_reducible repeat' first | assumption | apply State.modHkm_keeps

theorem State.hkmShow_keeps {r0 : State} (s : State) (h0 : Keeps r0 s) : Keeps r0 (State.hkmShow s) := by
  unfold State.hkmShow
  with_reducible repeat' first | assumption | apply State.setB_keeps | apply State.set_keeps

theorem State.filterRestart_keeps {r0 : State} (s : State) (k : Nat) (h0 : Keeps r0 s) : Keeps r0
    (State.filterRestart s k) := by
  unfold State.filterRestart
  with_reducible repeat' first
    | assumption | intro _ | exact Keeps.refl _ | subst x
    | (extract_lets +onlyGivenNames x; first | (have hx : Keeps r0 x := ?_; clear_value x) | (have hx : Keeps r0 x.1 := ?_; clear_value x) | (have hf := fun a => x a; clear hf) | (have hf : CiphState := x; clear hf) | (have hf : SecState := x; clear hf) | clear_value x)
    | apply ite_keeps | apply State.setB_keeps | apply State.modHkm_keeps | apply State.modHkmIn_keeps | dsimp only
    | split

theorem State.pilotLose_keeps {r0 : State} (s : State) (k : Nat) (h0 : Keeps r0 s) : Keeps r0 (State.pilotLose s k) := by
  unfold State.pilotLose
  with_reducible repeat' first | assumption | apply State.setB_keeps | apply State.modHkmIn_keeps

theorem State.pilotOut_keeps {r0 : State} (s : State) (k : Nat) (i : HkmInput) (h0 : Keeps r0 s) : Keeps r0
    (State.pilotOut s k i) := by
  unfold State.pilotOut
  with_reducible repeat' first
    | assumption | intro _ | exact Keeps.refl _ | subst x
    | (extract_lets +onlyGivenNames x; first | (have hx : Keeps r0 x := ?_; clear_value x) | (have hx : Keeps r0 x.1 := ?_; clear_value x) | (have hf := fun a => x a; clear hf) | (have hf : CiphState := x; clear hf) | (have hf : SecState := x; clear hf) | clear_value x)
    | apply ite_keeps | apply State.setB_keeps | apply State.setInt_keeps | apply State.takeFree_keeps | dsimp only
    | split

theorem State.pilotSample_keeps {r0 : State} (s : State) (k : Nat) (v : Int) (ovr : Bool) (h0 : Keeps r0 s) : Keeps
    r0 (State.pilotSample s k v ovr) := by
  unfold State.pilotSample
  with_reducible repeat' first
    | assumption | intro _ | exact Keeps.refl _ | subst x
    | (extract_lets +onlyGivenNames x; first | (have hx : Keeps r0 x := ?_; clear_value x) | (have hx : Keeps r0 x.1 := ?_; clear_value x) | (have hf := fun a => x a; clear hf) | (have hf : CiphState := x; clear hf) | (have hf : SecState := x; clear hf) | clear_value x)
    | apply ite_keeps | apply State.setB_keeps | apply State.raise_keeps | apply State.modHkmIn_keeps
    | apply State.pilotLose_keeps | apply State.pilotOut_keeps | dsimp only | split

theorem State.peakSample_keeps {r0 : State} (s : State) (k : Nat) (v : Int) (h0 : Keeps r0 s) : Keeps r0
    (State.peakSample s k v) := by
  unfold State.peakSample
  with_reducible repeat' first
    | assumption | intro _ | exact Keeps.refl _ | subst x
    | (extract_lets +onlyGivenNames x; first | (have hx : Keeps r0 x := ?_; clear_value x) | (have hx : Keeps r0 x.1 := ?_; clear_value x) | (have hf := fun a => x a; clear hf) | (have hf : CiphState := x; clear hf) | (have hf : SecState := x; clear hf) | clear_value x)
    | apply ite_keeps | apply State.setInt_keeps | apply State.modHkm_keeps | apply State.modHkmIn_keeps
    | dsimp only | split

theorem State.filterOut_keeps {r0 : State} (s : State) (k : Nat) (h0 : Keeps r0 s) : Keeps r0 (State.filterOut s k) := by
  unfold State.filterOut
  with_reducible repeat' first
    | assumption | apply ite_keeps | apply State.setInt_keeps | apply State.setB_keeps | apply State.setNat_keeps
    | apply State.raiseIf_keeps

theorem State.filterSample_keeps {r0 : State} (s : State) (k : Nat) (v : Int) (ovr fill : Bool) (h0 : Keeps r0 s) :
    Keeps r0 (State.filterSample s k v ovr fill) := by
  unfold State.filterSample
  with_reducible repeat' first
    | assumption | intro _ | exact Keeps.refl _ | subst x
    | (extract_lets +onlyGivenNames x; first | (have hx : Keeps r0 x := ?_; clear_value x) | (have hx : Keeps r0 x.1 := ?_; clear_value x) | (have hf := fun a => x a; clear hf) | (have hf : CiphState := x; clear hf) | (have hf : SecState := x; clear hf) | clear_value x)
    | apply ite_keeps | apply State.modHkmIn_keeps | apply State.pilotSample_keeps | apply State.peakSample_keeps
    | apply State.filterOut_keeps | dsimp only | split

theorem State.hkmTrigger_keeps {r0 : State} (s : State) (x : Nat) (h0 : Keeps r0 s) : Keeps r0 (State.hkmTrigger s x) := by
  unfold State.hkmTrigger
  with_reducible repeat' first
    | assumption | apply ite_keeps | apply State.raise_keeps | apply State.addCnt_keeps | apply State.modHkmConv_keeps

theorem State.hkmTriggers_keeps {r0 : State} (s : State) (src idx : Nat) (edge : Option Bool) (h0 : Keeps r0 s) :
    Keeps r0 (State.hkmTriggers s src idx edge) := by
  unfold State.hkmTriggers
  with_reducible repeat' first
    | assumption | exact Keeps.refl _ | apply ite_keeps | apply itep_keeps | apply State.hkmTrigger_keeps
    | apply foldl_keeps | intro _
    | (extract_lets +onlyGivenNames x; first | (have hx : Keeps r0 x := ?_; clear_value x) | (have hx : Keeps r0 x.1 := ?_; clear_value x) | (have hf := fun a => x a; clear hf) | (have hf : CiphState := x; clear hf) | (have hf : SecState := x; clear hf) | clear_value x)
    | split

theorem State.timerFrom_keeps {r0 : State} (s : State) (t c : Nat) (h0 : Keeps r0 s) : Keeps r0 (State.timerFrom s t
    c) := by
  unfold State.timerFrom
  with_reducible repeat' first
    | assumption | intro _ | exact Keeps.refl _ | subst x
    | (extract_lets +onlyGivenNames x; first | (have hx : Keeps r0 x := ?_; clear_value x) | (have hx : Keeps r0 x.1 := ?_; clear_value x) | (have hf := fun a => x a; clear hf) | (have hf : CiphState := x; clear hf) | (have hf : SecState := x; clear hf) | clear_value x)
    | apply ite_keeps | apply State.modHkm_keeps | dsimp only | split

theorem State.writeTimer_keeps {r0 : State} (s : State) (t : Nat) (v : Word) (h0 : Keeps r0 s) : Keeps r0
    (State.writeTimer s t v) := by
  unfold State.writeTimer
  with_reducible repeat' first
    | assumption | intro _ | exact Keeps.refl _ | subst x
    | (extract_lets +onlyGivenNames x; first | (have hx : Keeps r0 x := ?_; clear_value x) | (have hx : Keeps r0 x.1 := ?_; clear_value x) | (have hf := fun a => x a; clear hf) | (have hf : CiphState := x; clear hf) | (have hf : SecState := x; clear hf) | clear_value x)
    | apply ite_keeps | apply State.setReg_keeps | apply State.timerFrom_keeps | dsimp only | split

theorem State.pwmCatch_keeps {r0 : State} (s : State) (k : Nat) (h0 : Keeps r0 s) : Keeps r0 (State.pwmCatch s k) :=
    by
  unfold State.pwmCatch
  with_reducible repeat' first
    | assumption | intro _ | exact Keeps.refl _ | subst x
    | (extract_lets +onlyGivenNames x; first | (have hx : Keeps r0 x := ?_; clear_value x) | (have hx : Keeps r0 x.1 := ?_; clear_value x) | (have hf := fun a => x a; clear hf) | (have hf : CiphState := x; clear hf) | (have hf : SecState := x; clear hf) | clear_value x)
    | apply ite_keeps | apply itep_keeps | apply State.modHkm_keeps | dsimp only | (apply fst_keeps; assumption)
    | split

theorem State.pwmEdge_keeps {r0 : State} (s : State) (k t : Nat) (falling : Bool) (h0 : Keeps r0 s) : Keeps r0
    (State.pwmEdge s k t falling) := by
  unfold State.pwmEdge
  with_reducible repeat' first
    | assumption | intro _ | exact Keeps.refl _ | subst x
    | (extract_lets +onlyGivenNames x; first | (have hx : Keeps r0 x := ?_; clear_value x) | (have hx : Keeps r0 x.1 := ?_; clear_value x) | (have hf := fun a => x a; clear hf) | (have hf : CiphState := x; clear hf) | (have hf : SecState := x; clear hf) | clear_value x)
    | apply ite_keeps | apply State.waitClk_keeps | apply State.modHkm_keeps | apply State.hkmTriggers_keeps
    | dsimp only | split

theorem State.thermReading_keeps {r0 : State} (s : State) (k : Nat) (temp : Int) (h0 : Keeps r0 s) : Keeps r0
    (State.thermReading s k temp) := by
  unfold State.thermReading
  with_reducible repeat' first
    | assumption | exact Keeps.refl _ | exact id_keeps _ | exact ⟨Nat.le_refl _, fun _ => rfl⟩ | apply ite_keeps
    | apply itep_keeps | apply foldl_keeps | apply foldlp_keeps | intro _
    | (extract_lets +onlyGivenNames x; first | (have hx : Keeps r0 x := ?_; clear_value x) | (have hx : Keeps r0 x.1 := ?_; clear_value x) | (have hf := fun a => x a; clear hf) | (have hf : CiphState := x; clear hf) | (have hf : SecState := x; clear hf) | clear_value x)
    | subst x | dsimp only | (apply fst_keeps; assumption) | split | refine Keeps.raw ?_ rfl rfl rfl

theorem State.hkmRead_keeps {r0 : State} (s : State) (x : Nat) (h0 : Keeps r0 s) : Keeps r0 (State.hkmRead s x) := by
  unfold State.hkmRead
  with_reducible repeat' first | assumption | apply State.setB_keeps

theorem State.writePwmCfg_keeps {r0 : State} (s : State) (k : Nat) (v : Word) (h0 : Keeps r0 s) : Keeps r0
    (State.writePwmCfg s k v).1 := by
  unfold State.writePwmCfg
  with_reducible repeat' first
    | assumption | intro _ | exact Keeps.refl _ | subst x
    | (extract_lets +onlyGivenNames x; first | (have hx : Keeps r0 x := ?_; clear_value x) | (have hx : Keeps r0 x.1 := ?_; clear_value x) | (have hf := fun a => x a; clear hf) | (have hf : CiphState := x; clear hf) | (have hf : SecState := x; clear hf) | clear_value x)
    | apply ite_keeps | apply itep_keeps | apply State.setReg_keeps | apply State.raise_keeps
    | apply State.modHkm_keeps | apply State.hkmShow_keeps | dsimp only | (apply fst_keeps; assumption) | split

theorem State.writePwmDuty_keeps {r0 : State} (s : State) (k : Nat) (v : Word) (h0 : Keeps r0 s) : Keeps r0
    (State.writePwmDuty s k v) := by
  unfold State.writePwmDuty
  with_reducible repeat' first
    | assumption | intro _ | exact Keeps.refl _ | subst x
    | (extract_lets +onlyGivenNames x; first | (have hx : Keeps r0 x := ?_; clear_value x) | (have hx : Keeps r0 x.1 := ?_; clear_value x) | (have hf := fun a => x a; clear hf) | (have hf : CiphState := x; clear hf) | (have hf : SecState := x; clear hf) | clear_value x)
    | apply ite_keeps | apply State.setNat_keeps | apply State.modHkm_keeps | dsimp only | split

theorem State.writeTrig_keeps {r0 : State} (s : State) (x : Nat) (v : Word) (h0 : Keeps r0 s) : Keeps r0
    (State.writeTrig s x v).1 := by
  unfold State.writeTrig
  with_reducible repeat' first
    | assumption | apply ite_keeps | apply State.raise_keeps | apply State.setReg_keeps | split

theorem State.hkmStale_keeps {r0 : State} (s : State) (k : Nat) (v : Bool) (h0 : Keeps r0 s) : Keeps r0
    (State.hkmStale s k v) := by
  unfold State.hkmStale
  with_reducible repeat' first
    | assumption | apply ite_keeps | apply State.setB_keeps | apply State.modHkmIn_keeps | apply State.hkmShow_keeps
    | apply State.filterRestart_keeps

theorem State.staleShow_keeps {r0 : State} (s : State) (h0 : Keeps r0 s) : Keeps r0 (State.staleShow s) := by
  unfold State.staleShow
  with_reducible repeat' first
    | assumption | intro _ | exact Keeps.refl _ | subst x
    | (extract_lets +onlyGivenNames x; first | (have hx : Keeps r0 x := ?_; clear_value x) | (have hx : Keeps r0 x.1 := ?_; clear_value x) | (have hf := fun a => x a; clear hf) | (have hf : CiphState := x; clear hf) | (have hf : SecState := x; clear hf) | clear_value x)
    | apply ite_keeps | apply State.hkmStale_keeps | apply foldl_keeps_of | dsimp only | split

theorem State.followA_keeps {r0 : State} (s : State) (h0 : Keeps r0 s) : Keeps r0 (State.followA s) := by
  unfold State.followA
  with_reducible repeat' first
    | assumption | intro _ | exact Keeps.refl _ | subst x
    | (extract_lets +onlyGivenNames x; first | (have hx : Keeps r0 x := ?_; clear_value x) | (have hx : Keeps r0 x.1 := ?_; clear_value x) | (have hf := fun a => x a; clear hf) | (have hf : CiphState := x; clear hf) | (have hf : SecState := x; clear hf) | clear_value x)
    | apply ite_keeps | apply State.modHkmConv_keeps | dsimp only | split

theorem State.writeHkmCtrl_keeps {r0 : State} (s : State) (v : Nat) (h0 : Keeps r0 s) : Keeps r0 (State.writeHkmCtrl
    s v) := by
  unfold State.writeHkmCtrl
  with_reducible repeat' first
    | assumption | intro _ | exact Keeps.refl _ | subst x
    | (extract_lets +onlyGivenNames x; first | (have hx : Keeps r0 x := ?_; clear_value x) | (have hx : Keeps r0 x.1 := ?_; clear_value x) | (have hf := fun a => x a; clear hf) | (have hf : CiphState := x; clear hf) | (have hf : SecState := x; clear hf) | clear_value x)
    | apply ite_keeps | apply State.setNat_keeps | apply State.modHkmConv_keeps | apply State.hkmShow_keeps
    | apply State.filterRestart_keeps | apply State.staleShow_keeps | apply State.followA_keeps
    | apply foldl_keeps_of | dsimp only | split

theorem State.hkmCourse_keeps {r0 : State} (s before : State) (addrs : List Nat) (h0 : Keeps r0 s) : Keeps r0
    (State.hkmCourse s before addrs) := by
  unfold State.hkmCourse
  with_reducible repeat' first
    | assumption | intro _ | exact Keeps.refl _ | subst x
    | (extract_lets +onlyGivenNames x; first | (have hx : Keeps r0 x := ?_; clear_value x) | (have hx : Keeps r0 x.1 := ?_; clear_value x) | (have hf := fun a => x a; clear hf) | (have hf : CiphState := x; clear hf) | (have hf : SecState := x; clear hf) | clear_value x)
    | apply ite_keeps | apply State.modHkmConv_keeps | apply State.filterRestart_keeps | apply State.staleShow_keeps
    | apply foldl_keeps_of | dsimp only | split

theorem State.hkmSafe_keeps {r0 : State} (s : State) (h0 : Keeps r0 s) : Keeps r0 (State.hkmSafe s) := by
  unfold State.hkmSafe
  with_reducible repeat' first
    | assumption | exact Keeps.refl _ | apply ite_keeps | apply itep_keeps | apply State.set_keeps
    | apply State.setB_keeps | apply State.modHkm_keeps | apply State.raise_keeps | apply State.hkmShow_keeps
    | apply foldl_keeps | intro _
    | (extract_lets +onlyGivenNames x; first | (have hx : Keeps r0 x := ?_; clear_value x) | (have hx : Keeps r0 x.1 := ?_; clear_value x) | (have hf := fun a => x a; clear hf) | (have hf : CiphState := x; clear hf) | (have hf : SecState := x; clear hf) | clear_value x)
    | split

theorem State.hkmDefault_keeps {r0 : State} (s : State) (h0 : Keeps r0 s) : Keeps r0 (State.hkmDefault s) := by
  unfold State.hkmDefault
  with_reducible repeat' first
    | assumption | exact Keeps.refl _ | exact id_keeps _ | exact ⟨Nat.le_refl _, fun _ => rfl⟩ | apply ite_keeps
    | apply itep_keeps | apply State.resetRange_keeps | apply foldl_keeps | apply foldlp_keeps | intro _
    | (extract_lets +onlyGivenNames x; first | (have hx : Keeps r0 x := ?_; clear_value x) | (have hx : Keeps r0 x.1 := ?_; clear_value x) | (have hf := fun a => x a; clear hf) | (have hf : CiphState := x; clear hf) | (have hf : SecState := x; clear hf) | clear_value x)
    | subst x | dsimp only | (apply fst_keeps; assumption) | split | refine Keeps.raw ?_ rfl rfl rfl

theorem State.hkmReset_keeps {r0 : State} (s : State) (h0 : Keeps r0 s) : Keeps r0 (State.hkmReset s) := by
  unfold State.hkmReset
  with_reducible repeat' first
    | assumption | apply State.raise_keeps | apply State.setB_keeps | apply State.hkmDefault_keeps

end Sys2Proof.Machine
end

