-- ==== Sys2Proof/Laws/KeepsCourse.lean ====
section
/-!
SUPPORT. No operation undoes what `Keeps` lists: Courses and line frames.
-/

-- one theorem after another: all at once would not fit the memory
set_option Elab.async false
set_option linter.all false

namespace Sys2Proof.Machine

/-! ### CourseCheck.lean -/

theorem State.putItem_keeps {r0 : State} (s : State) (a mask v : Nat) (h0 : Keeps r0 s) : Keeps r0 (State.putItem s a
    mask v) := by
  unfold State.putItem
  with_reducible repeat' first | assumption | apply ite_keeps | apply State.setNat_keeps

theorem State.putRxMap_keeps {r0 : State} (s : State) (e : Nat × Nat × Nat) (h0 : Keeps r0 s) : Keeps r0
    (State.putRxMap s e) :=
  Keeps.raw h0 rfl rfl rfl

theorem State.after_keeps {r0 : State} (s : State) (ws : List Staged) (h0 : Keeps r0 s) : Keeps r0 (State.after s ws) := by
  unfold State.after
  with_reducible repeat' first
    | assumption | exact Keeps.refl _ | apply ite_keeps | apply itep_keeps | apply State.putItem_keeps
    | apply State.putRxMap_keeps | apply foldl_keeps | intro _
    | (extract_lets +onlyGivenNames x; first | (have hx : Keeps r0 x := ?_; clear_value x) | (have hx : Keeps r0 x.1 := ?_; clear_value x) | (have hf := fun a => x a; clear hf) | (have hf : CiphState := x; clear hf) | (have hf : SecState := x; clear hf) | clear_value x)
    | split

/-! ### Course.lean -/

theorem State.modCrs_keeps {r0 : State} (s : State) (f : CourseSeq → CourseSeq) (h0 : Keeps r0 s) : Keeps r0
    (State.modCrs s f) :=
  Keeps.raw h0 rfl rfl rfl

theorem State.modArmed_keeps {r0 : State} (s : State) (f : Armed → Armed) (h0 : Keeps r0 s) : Keeps r0 (State.modArmed
    s f) := by
  unfold State.modArmed
  with_reducible repeat' first | assumption | apply State.modCrs_keeps

theorem State.stage_keeps {r0 : State} (s : State) (by_ : Source) (w : Staged) (h0 : Keeps r0 s) : Keeps r0
    (State.stage s by_ w).1 := by
  unfold State.stage
  with_reducible repeat' first | assumption | apply ite_keeps | apply State.modCrs_keeps | split

theorem State.stagePcie_keeps {r0 : State} (s : State) (addr v : Nat) (h0 : Keeps r0 s) : Keeps r0 (State.stagePcie s
    addr v) := by
  unfold State.stagePcie
  with_reducible repeat' first
    | assumption | exact Keeps.refl _ | apply ite_keeps | apply itep_keeps | apply State.stage_keeps
    | apply State.logAcc_keeps | apply foldl_keeps | intro _
    | (extract_lets +onlyGivenNames x; first | (have hx : Keeps r0 x := ?_; clear_value x) | (have hx : Keeps r0 x.1 := ?_; clear_value x) | (have hf := fun a => x a; clear hf) | (have hf : CiphState := x; clear hf) | (have hf : SecState := x; clear hf) | clear_value x)
    | split

theorem State.stageCop_keeps {r0 : State} (s : State) (k index sub : Nat) (v : List Byte) (h0 : Keeps r0 s) : Keeps r0
    (State.stageCop s k index sub v).1 := by
  unfold State.stageCop
  with_reducible repeat' first
    | assumption | exact Keeps.refl _ | apply ite_keeps | apply itep_keeps | apply State.stage_keeps
    | apply foldl_keeps | intro _
    | (extract_lets +onlyGivenNames x; first | (have hx : Keeps r0 x := ?_; clear_value x) | (have hx : Keeps r0 x.1 := ?_; clear_value x) | (have hf := fun a => x a; clear hf) | (have hf : CiphState := x; clear hf) | (have hf : SecState := x; clear hf) | clear_value x)
    | split

theorem State.courseResult_keeps {r0 : State} (s : State) (by_ : Source) (code : Code) (w : Nat × Nat) (commit : Bool)
    (h0 : Keeps r0 s) : Keeps r0 (State.courseResult s by_ code w commit) := by
  unfold State.courseResult
  with_reducible repeat' first
    | assumption | apply ite_keeps | apply State.modCrs_keeps | apply State.setNat_keeps | apply State.setB_keeps
    | apply State.set_keeps | apply State.raiseIf_keeps | apply State.emit_keeps | split

theorem State.courseLog_keeps {r0 : State} (s : State) (by_ : Source) (code : Code) (h0 : Keeps r0 s) : Keeps r0
    (State.courseLog s by_ code) := by
  unfold State.courseLog
  with_reducible repeat' first | assumption | apply ite_keeps | apply State.logAcc_keeps | split

theorem State.commit_keeps {r0 : State} (s : State) (by_ : Source) (mode number : Nat) (t : Time80) (h0 : Keeps r0 s)
    : Keeps r0 (State.commit s by_ mode number t) := by
  unfold State.commit
  with_reducible repeat' first
    | assumption | apply ite_keeps | apply State.courseResult_keeps | apply State.courseLog_keeps
    | apply State.modCrs_keeps | split

theorem State.setCommit_keeps {r0 : State} (s : State) (number : Nat) (t : Time80) (h0 : Keeps r0 s) : Keeps r0
    (State.setCommit s number t) := by
  unfold State.setCommit
  with_reducible repeat' first | assumption | apply State.set_keeps | apply State.setNat_keeps

theorem State.commitPcie_keeps {r0 : State} (s : State) (mode : Nat) (h0 : Keeps r0 s) : Keeps r0 (State.commitPcie s
    mode) := by
  unfold State.commitPcie
  with_reducible repeat' first | assumption | apply State.commit_keeps

theorem State.discard_keeps {r0 : State} (s : State) (by_ : Source) (h0 : Keeps r0 s) : Keeps r0 (State.discard s by_) := by
  unfold State.discard
  with_reducible repeat' first
    | assumption | apply ite_keeps | apply State.modCrs_keeps | apply State.courseResult_keeps
    | apply State.courseLog_keeps

theorem State.announceCourse_keeps {r0 : State} (s : State) (a : Armed) (state : Nat) (h0 : Keeps r0 s) : Keeps r0
    (State.announceCourse s a state) := by
  unfold State.announceCourse
  with_reducible repeat' first
    | assumption | exact Keeps.refl _ | apply ite_keeps | apply itep_keeps | apply State.eachLane_keeps
    | apply State.ksCourse_keeps | apply foldl_keeps | intro _
    | (extract_lets +onlyGivenNames x; first | (have hx : Keeps r0 x := ?_; clear_value x) | (have hx : Keeps r0 x.1 := ?_; clear_value x) | (have hf := fun a => x a; clear hf) | (have hf : CiphState := x; clear hf) | (have hf : SecState := x; clear hf) | clear_value x)
    | split

theorem State.rematchAll_keeps {r0 : State} (s : State) (h0 : Keeps r0 s) : Keeps r0 (State.rematchAll s) := by
  unfold State.rematchAll
  with_reducible repeat' first
    | assumption | exact Keeps.refl _ | apply ite_keeps | apply itep_keeps | apply State.eachLane_keeps
    | apply State.crsRematch_keeps | apply foldl_keeps | intro _
    | (extract_lets +onlyGivenNames x; first | (have hx : Keeps r0 x := ?_; clear_value x) | (have hx : Keeps r0 x.1 := ?_; clear_value x) | (have hf := fun a => x a; clear hf) | (have hf : CiphState := x; clear hf) | (have hf : SecState := x; clear hf) | clear_value x)
    | split

theorem State.arm_keeps {r0 : State} (s : State) (v : Validating) (h0 : Keeps r0 s) : Keeps r0 (State.arm s v) := by
  unfold State.arm
  with_reducible repeat' first
    | assumption | intro _ | exact Keeps.refl _ | subst x
    | (extract_lets +onlyGivenNames x; first | (have hx : Keeps r0 x := ?_; clear_value x) | (have hx : Keeps r0 x.1 := ?_; clear_value x) | (have hf := fun a => x a; clear hf) | (have hf : CiphState := x; clear hf) | (have hf : SecState := x; clear hf) | clear_value x)
    | apply ite_keeps | apply State.after_keeps | apply State.modCrs_keeps | apply State.announceCourse_keeps
    | apply State.rematchAll_keeps | dsimp only | split

theorem State.abortArmed_keeps {r0 : State} (s : State) (a : Armed) (h0 : Keeps r0 s) : Keeps r0 (State.abortArmed s
    a) := by
  unfold State.abortArmed
  with_reducible repeat' first
    | assumption | intro _ | exact Keeps.refl _ | subst x
    | (extract_lets +onlyGivenNames x; first | (have hx : Keeps r0 x := ?_; clear_value x) | (have hx : Keeps r0 x.1 := ?_; clear_value x) | (have hf := fun a => x a; clear hf) | (have hf : CiphState := x; clear hf) | (have hf : SecState := x; clear hf) | clear_value x)
    | apply ite_keeps | apply State.set_keeps | apply State.eachLane_keeps_of | apply State.modCrs_keeps
    | apply State.announceCourse_keeps | apply State.rematchAll_keeps | dsimp only | split

theorem State.abort_keeps {r0 : State} (s : State) (by_ : Source) (h0 : Keeps r0 s) : Keeps r0 (State.abort s by_) := by
  unfold State.abort
  with_reducible repeat' first
    | assumption | apply ite_keeps | apply State.courseResult_keeps | apply State.abortArmed_keeps | split

theorem State.putItems_keeps {r0 : State} (s : State) (is : List CourseItem) (h0 : Keeps r0 s) : Keeps r0
    (State.putItems s is) := by
  unfold State.putItems
  with_reducible repeat' first
    | assumption | exact Keeps.refl _ | apply ite_keeps | apply itep_keeps | apply State.putItem_keeps
    | apply foldl_keeps | intro _
    | (extract_lets +onlyGivenNames x; first | (have hx : Keeps r0 x := ?_; clear_value x) | (have hx : Keeps r0 x.1 := ?_; clear_value x) | (have hf := fun a => x a; clear hf) | (have hf : CiphState := x; clear hf) | (have hf : SecState := x; clear hf) | clear_value x)
    | split

theorem State.takeItems_keeps {r0 : State} (s : State) (a : Armed) (spot : Spot) (h0 : Keeps r0 s) : Keeps r0
    (State.takeItems s a spot).1 := by
  unfold State.takeItems
  with_reducible repeat' first
    | assumption | intro _ | exact Keeps.refl _ | subst x
    | (extract_lets +onlyGivenNames x; first | (have hx : Keeps r0 x := ?_; clear_value x) | (have hx : Keeps r0 x.1 := ?_; clear_value x) | (have hf := fun a => x a; clear hf) | (have hf : CiphState := x; clear hf) | (have hf : SecState := x; clear hf) | clear_value x)
    | apply ite_keeps | apply itep_keeps | apply State.set_keeps | apply State.raise_keeps
    | apply State.jobsTo_keeps | apply State.keepBefore_keeps | apply State.modArmed_keeps | apply foldl_keeps_of
    | dsimp only | (apply fst_keeps; assumption) | split

theorem State.courseCtxs_keeps {r0 : State} (s before : State) (a : Armed) (is : List CourseItem) (h0 : Keeps r0 s) :
    Keeps r0 (State.courseCtxs s before a is) := by
  unfold State.courseCtxs
  with_reducible repeat' first
    | assumption | intro _ | exact Keeps.refl _ | subst x
    | (extract_lets +onlyGivenNames x; first | (have hx : Keeps r0 x := ?_; clear_value x) | (have hx : Keeps r0 x.1 := ?_; clear_value x) | (have hf := fun a => x a; clear hf) | (have hf : CiphState := x; clear hf) | (have hf : SecState := x; clear hf) | clear_value x)
    | apply ite_keeps | apply State.ctxCourse_keeps | apply foldl_keeps_of | dsimp only | split

theorem State.txItemsIn_keeps {r0 : State} (s before : State) (n : Lane) (a : Armed) (is : List CourseItem) (h0 :
    Keeps r0 s) : Keeps r0 (State.txItemsIn s before n a is) := by
  unfold State.txItemsIn
  with_reducible repeat' first
    | assumption | intro _ | exact Keeps.refl _ | subst x
    | (extract_lets +onlyGivenNames x; first | (have hx : Keeps r0 x := ?_; clear_value x) | (have hx : Keeps r0 x.1 := ?_; clear_value x) | (have hf := fun a => x a; clear hf) | (have hf : CiphState := x; clear hf) | (have hf : SecState := x; clear hf) | clear_value x)
    | apply ite_keeps | apply State.modTx_keeps | apply State.raise_keeps | apply State.showTxFmt_keeps
    | apply State.flowCourse_keeps | apply State.showKsOn_keeps | apply State.kscJudge_keeps
    | apply State.courseCtxs_keeps | apply foldl_keeps_of | dsimp only | split

theorem State.courseDone_keeps {r0 : State} (s : State) (h0 : Keeps r0 s) : Keeps r0 (State.courseDone s) := by
  unfold State.courseDone
  with_reducible repeat' first
    | assumption | apply ite_keeps | apply State.modCrs_keeps | apply State.rematchAll_keeps | apply State.raise_keeps
    | split

theorem State.recordTx_keeps {r0 : State} (s : State) (n : Lane) (h0 : Keeps r0 s) : Keeps r0 (State.recordTx s n) := by
  unfold State.recordTx
  with_reducible repeat' first | assumption | apply State.modArmed_keeps

theorem State.recordRx_keeps {r0 : State} (s : State) (n : Lane) (h0 : Keeps r0 s) : Keeps r0 (State.recordRx s n) := by
  unfold State.recordRx
  with_reducible repeat' first | assumption | apply State.modArmed_keeps

theorem State.courseTx_keeps {r0 : State} (s : State) (n : Lane) (h0 : Keeps r0 s) : Keeps r0 (State.courseTx s n) := by
  unfold State.courseTx
  with_reducible repeat' first
    | assumption | apply ite_keeps | apply State.takeItems_keeps | apply State.txItemsIn_keeps
    | apply State.putItems_keeps | apply State.bridgeCheck_keeps | apply State.setNat_keeps | apply State.set_keeps
    | apply State.timeRefresh_keeps | apply State.ksCourse_keeps | apply State.recordTx_keeps
    | apply State.courseDone_keeps | split

theorem State.mapChanges_keeps {r0 : State} (s before : State) (n : Lane) (h0 : Keeps r0 s) : Keeps r0
    (State.mapChanges s before n) := by
  unfold State.mapChanges
  with_reducible repeat' first
    | assumption | exact Keeps.refl _ | apply ite_keeps | apply itep_keeps | apply State.mapChange_keeps
    | apply State.tapChange_keeps | apply State.tapGone_keeps | apply State.touch_keeps | apply foldl_keeps | intro _
    | (extract_lets +onlyGivenNames x; first | (have hx : Keeps r0 x := ?_; clear_value x) | (have hx : Keeps r0 x.1 := ?_; clear_value x) | (have hf := fun a => x a; clear hf) | (have hf : CiphState := x; clear hf) | (have hf : SecState := x; clear hf) | clear_value x)
    | split

theorem State.rxItemsIn_keeps {r0 : State} (s before : State) (n : Lane) (a : Armed) (is : List CourseItem) (h0 :
    Keeps r0 s) : Keeps r0 (State.rxItemsIn s before n a is) := by
  unfold State.rxItemsIn
  with_reducible repeat' first
    | assumption | intro _ | exact Keeps.refl _ | subst x
    | (extract_lets +onlyGivenNames x; first | (have hx : Keeps r0 x := ?_; clear_value x) | (have hx : Keeps r0 x.1 := ?_; clear_value x) | (have hf := fun a => x a; clear hf) | (have hf : CiphState := x; clear hf) | (have hf : SecState := x; clear hf) | clear_value x)
    | apply ite_keeps | apply State.rxFmtTurn_keeps | apply State.touch_keeps | apply State.familyTurn_keeps
    | apply State.showFlow_keeps | apply State.nlcChanged_keeps | apply State.rxdCourse_keeps
    | apply State.kscJudge_keeps | apply State.putRxMap_keeps | apply State.after_keeps
    | apply State.courseCtxs_keeps | apply State.mapChanges_keeps | apply foldl_keeps_of | dsimp only | split

theorem State.courseRx_keeps {r0 : State} (s : State) (n : Lane) (h0 : Keeps r0 s) : Keeps r0 (State.courseRx s n) := by
  unfold State.courseRx
  with_reducible repeat' first
    | assumption | apply ite_keeps | apply State.takeItems_keeps | apply State.rxItemsIn_keeps
    | apply State.putItems_keeps | apply State.modLfr_keeps | apply State.setNat_keeps | apply State.courseDone_keeps
    | apply State.timeRefresh_keeps | apply State.recordRx_keeps | split

theorem State.strobeItemsIn_keeps {r0 : State} (s before : State) (a : Armed) (is : List CourseItem) (h0 : Keeps r0
    s) : Keeps r0 (State.strobeItemsIn s before a is) := by
  unfold State.strobeItemsIn
  with_reducible repeat' first
    | assumption | intro _ | exact Keeps.refl _ | subst x
    | (extract_lets +onlyGivenNames x; first | (have hx : Keeps r0 x := ?_; clear_value x) | (have hx : Keeps r0 x.1 := ?_; clear_value x) | (have hf := fun a => x a; clear hf) | (have hf : CiphState := x; clear hf) | (have hf : SecState := x; clear hf) | clear_value x)
    | apply ite_keeps | apply State.reselect_keeps | apply State.hkmCourse_keeps | apply State.courseCtxs_keeps
    | dsimp only | split

theorem State.deferHeld_keeps {r0 : State} (s : State) (h0 : Keeps r0 s) : Keeps r0 (State.deferHeld s) := by
  unfold State.deferHeld
  with_reducible repeat' first
    | assumption | intro _ | exact Keeps.refl _ | subst x
    | (extract_lets +onlyGivenNames x; first | (have hx : Keeps r0 x := ?_; clear_value x) | (have hx : Keeps r0 x.1 := ?_; clear_value x) | (have hf := fun a => x a; clear hf) | (have hf : CiphState := x; clear hf) | (have hf : SecState := x; clear hf) | clear_value x)
    | apply ite_keeps | apply State.set_keeps | apply State.raise_keeps | apply State.modArmed_keeps
    | apply foldl_keeps_of | dsimp only | split

theorem State.courseStrobe_keeps {r0 : State} (s : State) (late : Bool) (h0 : Keeps r0 s) : Keeps r0
    (State.courseStrobe s late) := by
  unfold State.courseStrobe
  with_reducible repeat' first
    | assumption | intro _ | exact Keeps.refl _ | subst x
    | (extract_lets +onlyGivenNames x; first | (have hx : Keeps r0 x := ?_; clear_value x) | (have hx : Keeps r0 x.1 := ?_; clear_value x) | (have hf := fun a => x a; clear hf) | (have hf : CiphState := x; clear hf) | (have hf : SecState := x; clear hf) | clear_value x)
    | apply ite_keeps | apply itep_keeps | apply State.eachLane_keeps_of | apply State.modArmed_keeps
    | apply State.putItems_keeps | apply State.takeItems_keeps | apply State.courseDone_keeps
    | apply State.courseTx_keeps | apply State.strobeItemsIn_keeps | apply State.deferHeld_keeps | dsimp only
    | (apply fst_keeps; assumption) | split

theorem State.coursePort_keeps {r0 : State} (s : State) (p : Nat) (h0 : Keeps r0 s) : Keeps r0 (State.coursePort s p)
    := by
  unfold State.coursePort
  with_reducible repeat' first
    | assumption | intro _ | exact Keeps.refl _ | subst x
    | (extract_lets +onlyGivenNames x; first | (have hx : Keeps r0 x := ?_; clear_value x) | (have hx : Keeps r0 x.1 := ?_; clear_value x) | (have hf := fun a => x a; clear hf) | (have hf : CiphState := x; clear hf) | (have hf : SecState := x; clear hf) | clear_value x)
    | apply ite_keeps | apply itep_keeps | apply State.clientItemsIn_keeps | apply State.putItems_keeps
    | apply State.takeItems_keeps | apply State.courseDone_keeps | dsimp only | (apply fst_keeps; assumption)
    | split

theorem State.courseRelease_keeps {r0 : State} (s : State) (k : Nat) (h0 : Keeps r0 s) : Keeps r0
    (State.courseRelease s k) := by
  unfold State.courseRelease
  with_reducible repeat' first
    | assumption | intro _ | exact Keeps.refl _ | subst x
    | (extract_lets +onlyGivenNames x; first | (have hx : Keeps r0 x := ?_; clear_value x) | (have hx : Keeps r0 x.1 := ?_; clear_value x) | (have hf := fun a => x a; clear hf) | (have hf : CiphState := x; clear hf) | (have hf : SecState := x; clear hf) | clear_value x)
    | apply ite_keeps | apply State.set_keeps | apply State.setNat_keeps | apply State.bridgeCheck_keeps
    | apply State.keepBefore_keeps | apply State.timeRefresh_keeps | apply State.clientItemsIn_keeps
    | apply State.ksCourse_keeps | apply State.modArmed_keeps | apply State.putItems_keeps
    | apply State.txItemsIn_keeps | apply State.courseDone_keeps | apply State.recordTx_keeps
    | apply State.recordRx_keeps | apply State.rxItemsIn_keeps | apply State.strobeItemsIn_keeps | dsimp only
    | split

theorem State.courseOrphan_keeps {r0 : State} (s : State) (by_ : Source) (h0 : Keeps r0 s) : Keeps r0
    (State.courseOrphan s by_) := by
  unfold State.courseOrphan
  with_reducible repeat' first | assumption | apply State.modCrs_keeps

/-! ### TxLf.lean -/

theorem State.mccSend_keeps {r0 : State} (s : State) (n : Lane) (packet : List Byte) (h0 : Keeps r0 s) : Keeps r0
    (State.mccSend s n packet) := by
  unfold State.mccSend
  with_reducible repeat' first | assumption | apply State.modTx_keeps

theorem State.mccTake_keeps {r0 : State} (s : State) (n : Lane) (h0 : Keeps r0 s) : Keeps r0 (State.mccTake s n).1 := by
  unfold State.mccTake
  with_reducible repeat' first | assumption | apply ite_keeps | apply State.modTx_keeps | split

theorem State.bridgeNow_keeps {r0 : State} (s : State) (n : Lane) (h0 : Keeps r0 s) : Keeps r0 (State.bridgeNow s n)
    := by
  unfold State.bridgeNow
  with_reducible repeat' first
    | assumption | intro _ | exact Keeps.refl _ | subst x
    | (extract_lets +onlyGivenNames x; first | (have hx : Keeps r0 x := ?_; clear_value x) | (have hx : Keeps r0 x.1 := ?_; clear_value x) | (have hf := fun a => x a; clear hf) | (have hf : CiphState := x; clear hf) | (have hf : SecState := x; clear hf) | clear_value x)
    | apply ite_keeps | apply State.modTx_keeps | apply State.showBridged_keeps | apply foldl_keeps_of | dsimp only
    | split

theorem State.flowGroupTx_keeps {r0 : State} (s : State) (n : Lane) (m : Nat) (g : Mapped) (h0 : Keeps r0 s) : Keeps
    r0 (State.flowGroupTx s n m g).1 := by
  unfold State.flowGroupTx
  with_reducible repeat' first
    | assumption | intro _ | exact Keeps.refl _ | subst x
    | (extract_lets +onlyGivenNames x; first | (have hx : Keeps r0 x := ?_; clear_value x) | (have hx : Keeps r0 x.1 := ?_; clear_value x) | (have hf := fun a => x a; clear hf) | (have hf : CiphState := x; clear hf) | (have hf : SecState := x; clear hf) | clear_value x)
    | apply ite_keeps | apply itep_keeps | apply State.encUnit_keeps | apply State.showFlow_keeps
    | apply State.flowRelease_keeps | apply State.flowPad_keeps | apply State.adapt_keeps | dsimp only
    | (apply fst_keeps; assumption) | split

theorem State.bridgeGroupTx_keeps {r0 : State} (s : State) (n : Lane) (m : Nat) (g : Mapped) (h0 : Keeps r0 s) :
    Keeps r0 (State.bridgeGroupTx s n m g).1 := by
  unfold State.bridgeGroupTx
  with_reducible repeat' first
    | assumption | intro _ | exact Keeps.refl _ | subst x
    | (extract_lets +onlyGivenNames x; first | (have hx : Keeps r0 x := ?_; clear_value x) | (have hx : Keeps r0 x.1 := ?_; clear_value x) | (have hf := fun a => x a; clear hf) | (have hf : CiphState := x; clear hf) | (have hf : SecState := x; clear hf) | clear_value x)
    | apply ite_keeps | apply itep_keeps | apply State.modTx_keeps | dsimp only | (apply fst_keeps; assumption)
    | split

theorem State.showPathTx_keeps {r0 : State} (s : State) (n : Lane) (j : Nat) (bdi ais : Bool) (h0 : Keeps r0 s) :
    Keeps r0 (State.showPathTx s n j bdi ais) := by
  unfold State.showPathTx
  with_reducible repeat' first
    | assumption | intro _ | exact Keeps.refl _ | subst x
    | (extract_lets +onlyGivenNames x; first | (have hx : Keeps r0 x := ?_; clear_value x) | (have hx : Keeps r0 x.1 := ?_; clear_value x) | (have hf := fun a => x a; clear hf) | (have hf : CiphState := x; clear hf) | (have hf : SecState := x; clear hf) | clear_value x)
    | apply ite_keeps | apply State.setB_keeps | dsimp only | split

theorem State.pathEntry_keeps {r0 : State} (s : State) (n : Lane) (f : Fmt) (gs : List GroupTx) (j : Nat) (h0 : Keeps
    r0 s) : Keeps r0 (State.pathEntry s n f gs j).1 := by
  unfold State.pathEntry
  with_reducible repeat' first
    | assumption | intro _ | exact Keeps.refl _ | subst x
    | (extract_lets +onlyGivenNames x; first | (have hx : Keeps r0 x := ?_; clear_value x) | (have hx : Keeps r0 x.1 := ?_; clear_value x) | (have hf := fun a => x a; clear hf) | (have hf : CiphState := x; clear hf) | (have hf : SecState := x; clear hf) | clear_value x)
    | apply ite_keeps | apply itep_keeps | apply State.modTx_keeps | apply State.showPathTx_keeps | dsimp only
    | (apply fst_keeps; assumption) | split

theorem State.pathEntries_keeps {r0 : State} (s : State) (n : Lane) (f : Fmt) (gs : List GroupTx) (m : Nat) (h0 :
    Keeps r0 s) : Keeps r0 (State.pathEntries s n f gs m).1 := by
  unfold State.pathEntries
  with_reducible repeat' first
    | assumption | exact Keeps.refl _ | exact id_keeps _ | exact ⟨Nat.le_refl _, fun _ => rfl⟩ | apply ite_keeps
    | apply itep_keeps | apply State.pathEntry_keeps | apply foldl_keeps | apply foldlp_keeps | intro _
    | (extract_lets +onlyGivenNames x; first | (have hx : Keeps r0 x := ?_; clear_value x) | (have hx : Keeps r0 x.1 := ?_; clear_value x) | (have hf := fun a => x a; clear hf) | (have hf : CiphState := x; clear hf) | (have hf : SecState := x; clear hf) | clear_value x)
    | subst x | dsimp only | (apply fst_keeps; assumption) | split

theorem State.lfSignal_keeps {r0 : State} (s : State) (n : Lane) (x : Option LfSignal) (h0 : Keeps r0 s) : Keeps r0
    (State.lfSignal s n x) := by
  unfold State.lfSignal
  with_reducible repeat' first
    | assumption | intro _ | exact Keeps.refl _ | subst x
    | (extract_lets +onlyGivenNames x; first | (have hx : Keeps r0 x := ?_; clear_value x) | (have hx : Keeps r0 x.1 := ?_; clear_value x) | (have hf := fun a => x a; clear hf) | (have hf : CiphState := x; clear hf) | (have hf : SecState := x; clear hf) | clear_value x)
    | apply ite_keeps | apply State.modTx_keeps | dsimp only | split

theorem State.sendSymbols_keeps {r0 : State} (s : State) (n : Lane) (symbols : List Symbol) (h0 : Keeps r0 s) : Keeps
    r0 (State.sendSymbols s n symbols) := by
  unfold State.sendSymbols
  with_reducible repeat' first
    | assumption | intro _ | exact Keeps.refl _ | subst x
    | (extract_lets +onlyGivenNames x; first | (have hx : Keeps r0 x := ?_; clear_value x) | (have hx : Keeps r0 x.1 := ?_; clear_value x) | (have hf := fun a => x a; clear hf) | (have hf : CiphState := x; clear hf) | (have hf : SecState := x; clear hf) | clear_value x)
    | apply ite_keeps | apply State.emit_keeps | apply State.lfSignal_keeps | dsimp only | split

theorem State.lfAssemble_keeps {r0 : State} (s : State) (n : Lane) (ps : Nat) (h0 : Keeps r0 s) : Keeps r0
    (State.lfAssemble s n ps) := by
  unfold State.lfAssemble
  with_reducible repeat' first
    | assumption | intro _ | exact Keeps.refl _ | subst x
    | (extract_lets +onlyGivenNames x; first | (have hx : Keeps r0 x := ?_; clear_value x) | (have hx : Keeps r0 x.1 := ?_; clear_value x) | (have hf := fun a => x a; clear hf) | (have hf : CiphState := x; clear hf) | (have hf : SecState := x; clear hf) | clear_value x)
    | apply ite_keeps | apply itep_keeps | apply State.set_keeps | apply State.setB_keeps | apply State.modTx_keeps
    | apply State.addCnt_keeps | apply State.timedSent_keeps | apply State.mccTake_keeps
    | apply State.bridgeNow_keeps | apply State.flowGroupTx_keeps | apply State.bridgeGroupTx_keeps
    | apply State.pathEntries_keeps | apply State.sendSymbols_keeps | apply foldl_keeps_of | dsimp only
    | (apply fst_keeps; assumption) | split | apply foldlp_keeps_of

theorem State.gridGo_keeps {r0 : State} (s : State) (n : Lane) (k at_ : Nat) (h0 : Keeps r0 s) : Keeps r0
    (State.gridGo s n k at_) := by
  unfold State.gridGo
  with_reducible repeat' first
    | assumption | intro _ | exact Keeps.refl _ | subst x
    | (extract_lets +onlyGivenNames x; first | (have hx : Keeps r0 x := ?_; clear_value x) | (have hx : Keeps r0 x.1 := ?_; clear_value x) | (have hf := fun a => x a; clear hf) | (have hf : CiphState := x; clear hf) | (have hf : SecState := x; clear hf) | clear_value x)
    | apply ite_keeps | apply State.modTx_keeps | dsimp only | split

/-! ### RxLf.lean -/

theorem State.lfrCount_keeps {r0 : State} (s : State) (n : Lane) (j k : Nat) (h0 : Keeps r0 s) : Keeps r0
    (State.lfrCount s n j k) := by
  unfold State.lfrCount
  with_reducible repeat' first | assumption | apply ite_keeps | apply State.addCnt_keeps

theorem State.showCands_keeps {r0 : State} (s : State) (n : Lane) (h0 : Keeps r0 s) : Keeps r0 (State.showCands s n) := by
  unfold State.showCands
  with_reducible repeat' first | assumption | apply State.set_keeps

theorem State.lossOfSync_keeps {r0 : State} (s : State) (n : Lane) (cands : List Cand) (h0 : Keeps r0 s) : Keeps r0
    (State.lossOfSync s n cands) := by
  unfold State.lossOfSync
  with_reducible repeat' first
    | assumption | exact Keeps.refl _ | apply ite_keeps | apply State.lfrAlignAway_keeps | apply State.rxdWarm_keeps
    | split | refine Keeps.raw ?_ rfl rfl rfl

theorem State.enterSync_keeps {r0 : State} (s : State) (n : Lane) (c : Cand) (others : List Cand) (stamp : Nat) (h0 :
    Keeps r0 s) : Keeps r0 (State.enterSync s n c others stamp) := by
  unfold State.enterSync
  with_reducible repeat' first
    | assumption | intro _ | exact Keeps.refl _ | subst x
    | (extract_lets +onlyGivenNames x; first | (have hx : Keeps r0 x := ?_; clear_value x) | (have hx : Keeps r0 x.1 := ?_; clear_value x) | (have hf := fun a => x a; clear hf) | (have hf : CiphState := x; clear hf) | (have hf : SecState := x; clear hf) | clear_value x)
    | apply ite_keeps | apply State.set_keeps | apply State.setB_keeps | apply State.modRxd_keeps
    | apply State.modLfr_keeps | apply State.fecInFrame_keeps | apply State.lfrDefects_keeps
    | apply State.rxdInFrame_keeps | apply State.showCands_keeps | dsimp only | split

theorem State.zrLock_keeps {r0 : State} (s : State) (n : Lane) (pos hyp : Nat) (h0 : Keeps r0 s) : Keeps r0
    (State.zrLock s n pos hyp) := by
  unfold State.zrLock
  with_reducible repeat' first
    | assumption | apply State.modLfr_keeps | apply State.setB_keeps | apply State.set_keeps
    | apply State.lfrDefects_keeps | apply State.fecInFrame_keeps | apply State.rxdInFrame_keeps

theorem State.candTest_keeps {r0 : State} (s : State) (n : Lane) (k hyp : Nat) (hit : Bool) (stamp : Nat) (h0 : Keeps
    r0 s) : Keeps r0 (State.candTest s n k hyp hit stamp) := by
  unfold State.candTest
  with_reducible repeat' first
    | assumption | intro _ | exact Keeps.refl _ | subst x
    | (extract_lets +onlyGivenNames x; first | (have hx : Keeps r0 x := ?_; clear_value x) | (have hx : Keeps r0 x.1 := ?_; clear_value x) | (have hf := fun a => x a; clear hf) | (have hf : CiphState := x; clear hf) | (have hf : SecState := x; clear hf) | clear_value x)
    | apply ite_keeps | apply State.set_keeps | apply State.modLfr_keeps | apply State.showCands_keeps
    | apply State.enterSync_keeps | dsimp only | split

theorem State.syncTest_keeps {r0 : State} (s : State) (n : Lane) (hyp : Nat) (hit : Bool) (stamp : Nat) (h0 : Keeps r0
    s) : Keeps r0 (State.syncTest s n hyp hit stamp) := by
  unfold State.syncTest
  with_reducible repeat' first
    | assumption | apply ite_keeps | apply State.modLfr_keeps | apply State.rxdInFrame_keeps
    | apply State.rxdSlip_keeps | apply State.lossOfSync_keeps | apply State.raise_keeps | apply State.lfrCount_keeps

theorem State.verify_keeps {r0 : State} (s : State) (n : Lane) (cw0 : Bool) (h0 : Keeps r0 s) : Keeps r0
    (State.verify s n cw0).1 := by
  unfold State.verify
  with_reducible repeat' first
    | assumption | intro _ | exact Keeps.refl _ | subst x
    | (extract_lets +onlyGivenNames x; first | (have hx : Keeps r0 x := ?_; clear_value x) | (have hx : Keeps r0 x.1 := ?_; clear_value x) | (have hf := fun a => x a; clear hf) | (have hf : CiphState := x; clear hf) | (have hf : SecState := x; clear hf) | clear_value x)
    | apply ite_keeps | apply itep_keeps | apply State.setB_keeps | apply State.modLfr_keeps
    | apply State.lfrDefects_keeps | apply State.showCands_keeps | dsimp only | (apply fst_keeps; assumption)
    | split

theorem State.verifyFail_keeps {r0 : State} (s : State) (n : Lane) (h0 : Keeps r0 s) : Keeps r0 (State.verifyFail s
    n) := by
  unfold State.verifyFail
  with_reducible repeat' first
    | assumption | intro _ | exact Keeps.refl _ | subst x
    | (extract_lets +onlyGivenNames x; first | (have hx : Keeps r0 x := ?_; clear_value x) | (have hx : Keeps r0 x.1 := ?_; clear_value x) | (have hf := fun a => x a; clear hf) | (have hf : CiphState := x; clear hf) | (have hf : SecState := x; clear hf) | clear_value x)
    | apply ite_keeps | apply State.modLfr_keeps | apply State.raise_keeps | apply State.lfrCount_keeps
    | apply State.lossOfSync_keeps | dsimp only | split

theorem State.multiframe_keeps {r0 : State} (s : State) (n : Lane) (accepted : Bool) (mfas : Nat) (h0 : Keeps r0 s) :
    Keeps r0 (State.multiframe s n accepted mfas).1 := by
  unfold State.multiframe
  with_reducible repeat' first
    | assumption | intro _ | exact Keeps.refl _ | subst x
    | (extract_lets +onlyGivenNames x; first | (have hx : Keeps r0 x := ?_; clear_value x) | (have hx : Keeps r0 x.1 := ?_; clear_value x) | (have hf := fun a => x a; clear hf) | (have hf : CiphState := x; clear hf) | (have hf : SecState := x; clear hf) | clear_value x)
    | apply ite_keeps | apply itep_keeps | apply State.set_keeps | apply State.setB_keeps | apply State.modLfr_keeps
    | apply State.lfrDefects_keeps | dsimp only | (apply fst_keeps; assumption) | split

theorem State.sectionParity_keeps {r0 : State} (s : State) (n : Lane) (accepted : Bool) (oh : List Byte) (payload :
    List Nat) (h0 : Keeps r0 s) : Keeps r0 (State.sectionParity s n accepted oh payload).1 := by
  unfold State.sectionParity
  with_reducible repeat' first
    | assumption | intro _ | exact Keeps.refl _ | subst x
    | (extract_lets +onlyGivenNames x; first | (have hx : Keeps r0 x := ?_; clear_value x) | (have hx : Keeps r0 x.1 := ?_; clear_value x) | (have hf := fun a => x a; clear hf) | (have hf : CiphState := x; clear hf) | (have hf : SecState := x; clear hf) | clear_value x)
    | apply ite_keeps | apply itep_keeps | apply State.modTx_keeps | apply State.modLfr_keeps
    | apply State.lfrCount_keeps | dsimp only | (apply fst_keeps; assumption) | split

theorem State.sectionBack_keeps {r0 : State} (s : State) (n : Lane) (oh : List Byte) (h0 : Keeps r0 s) : Keeps r0
    (State.sectionBack s n oh) := by
  unfold State.sectionBack
  with_reducible repeat' first
    | assumption | intro _ | exact Keeps.refl _ | subst x
    | (extract_lets +onlyGivenNames x; first | (have hx : Keeps r0 x := ?_; clear_value x) | (have hx : Keeps r0 x.1 := ?_; clear_value x) | (have hf := fun a => x a; clear hf) | (have hf : CiphState := x; clear hf) | (have hf : SecState := x; clear hf) | clear_value x)
    | apply ite_keeps | apply State.setB_keeps | apply State.modLfr_keeps | apply State.raiseIf_keeps
    | apply State.touch_keeps | apply State.sectionFar_keeps | apply State.lfrCount_keeps | dsimp only | split

theorem State.courseFields_keeps {r0 : State} (s : State) (n : Lane) (oh : List Byte) (h0 : Keeps r0 s) : Keeps r0
    (State.courseFields s n oh) := by
  unfold State.courseFields
  with_reducible repeat' first
    | assumption | intro _ | exact Keeps.refl _ | subst x
    | (extract_lets +onlyGivenNames x; first | (have hx : Keeps r0 x := ?_; clear_value x) | (have hx : Keeps r0 x.1 := ?_; clear_value x) | (have hf := fun a => x a; clear hf) | (have hf : CiphState := x; clear hf) | (have hf : SecState := x; clear hf) | clear_value x)
    | apply ite_keeps | apply State.set_keeps | apply State.setB_keeps | apply State.setNat_keeps
    | apply State.modLfr_keeps | apply State.modArmed_keeps | dsimp only | split

theorem State.psfRx_keeps {r0 : State} (s : State) (n : Lane) (oh : List Byte) (h0 : Keeps r0 s) : Keeps r0
    (State.psfRx s n oh) := by
  unfold State.psfRx
  with_reducible repeat' first
    | assumption | intro _ | exact Keeps.refl _ | subst x
    | (extract_lets +onlyGivenNames x; first | (have hx : Keeps r0 x := ?_; clear_value x) | (have hx : Keeps r0 x.1 := ?_; clear_value x) | (have hf := fun a => x a; clear hf) | (have hf : CiphState := x; clear hf) | (have hf : SecState := x; clear hf) | clear_value x)
    | apply ite_keeps | apply State.setNat_keeps | apply State.modTx_keeps | apply State.modLfr_keeps
    | apply State.raise_keeps | apply State.lfrCount_keeps | dsimp only | split

theorem State.mccRx_keeps {r0 : State} (s : State) (n : Lane) (accepted : Bool) (room : Nat) (oh : List Byte) (h0 :
    Keeps r0 s) : Keeps r0 (State.mccRx s n accepted room oh) := by
  unfold State.mccRx
  with_reducible repeat' first
    | assumption | intro _ | exact Keeps.refl _ | subst x
    | (extract_lets +onlyGivenNames x; first | (have hx : Keeps r0 x := ?_; clear_value x) | (have hx : Keeps r0 x.1 := ?_; clear_value x) | (have hf := fun a => x a; clear hf) | (have hf : CiphState := x; clear hf) | (have hf : SecState := x; clear hf) | clear_value x)
    | apply ite_keeps | apply State.emit_keeps | apply State.raise_keeps | apply State.lfrCount_keeps | dsimp only
    | split

theorem State.ssiRx_keeps {r0 : State} (s : State) (n : Lane) (m : Nat) (oh : List Byte) (h0 : Keeps r0 s) : Keeps r0
    (State.ssiRx s n m oh) := by
  unfold State.ssiRx
  with_reducible repeat' first
    | assumption | intro _ | exact Keeps.refl _ | subst x
    | (extract_lets +onlyGivenNames x; first | (have hx : Keeps r0 x := ?_; clear_value x) | (have hx : Keeps r0 x.1 := ?_; clear_value x) | (have hf := fun a => x a; clear hf) | (have hf : CiphState := x; clear hf) | (have hf : SecState := x; clear hf) | clear_value x)
    | apply ite_keeps | apply State.set_keeps | apply State.modLfr_keeps | apply State.setSlotDefect_keeps
    | apply State.slotAnswer_keeps | dsimp only | split

theorem State.pathCounts_keeps {r0 : State} (s : State) (n : Lane) (j : Nat) (have_ : Bool) (b0 b1 : Nat) (h0 : Keeps
    r0 s) : Keeps r0 (State.pathCounts s n j have_ b0 b1) := by
  unfold State.pathCounts
  with_reducible repeat' first
    | assumption | intro _ | exact Keeps.refl _ | subst x
    | (extract_lets +onlyGivenNames x; first | (have hx : Keeps r0 x := ?_; clear_value x) | (have hx : Keeps r0 x.1 := ?_; clear_value x) | (have hf := fun a => x a; clear hf) | (have hf : CiphState := x; clear hf) | (have hf : SecState := x; clear hf) | clear_value x)
    | apply ite_keeps | apply State.modTx_keeps | apply State.modPmon_keeps | apply State.addCnt_keeps | dsimp only
    | split

theorem State.pathRx_keeps {r0 : State} (s : State) (n : Lane) (j : Nat) (have_ : Bool) (b0 b1 : Nat) (h0 : Keeps r0
    s) : Keeps r0 (State.pathRx s n j have_ b0 b1) := by
  unfold State.pathRx
  with_reducible repeat' first
    | assumption | intro _ | exact Keeps.refl _ | subst x
    | (extract_lets +onlyGivenNames x; first | (have hx : Keeps r0 x := ?_; clear_value x) | (have hx : Keeps r0 x.1 := ?_; clear_value x) | (have hf := fun a => x a; clear hf) | (have hf : CiphState := x; clear hf) | (have hf : SecState := x; clear hf) | clear_value x)
    | apply ite_keeps | apply State.modLfr_keeps | apply State.setSlotDefect_keeps | apply State.slotAnswer_keeps
    | apply State.pathCounts_keeps | dsimp only | split

theorem State.pathsRx_keeps {r0 : State} (s : State) (n : Lane) (m : Nat) (oh : List Byte) (h0 : Keeps r0 s) : Keeps
    r0 (State.pathsRx s n m oh) := by
  unfold State.pathsRx
  with_reducible repeat' first
    | assumption | exact Keeps.refl _ | apply ite_keeps | apply itep_keeps | apply State.pathRx_keeps
    | apply foldl_keeps | intro _
    | (extract_lets +onlyGivenNames x; first | (have hx : Keeps r0 x := ?_; clear_value x) | (have hx : Keeps r0 x.1 := ?_; clear_value x) | (have hf := fun a => x a; clear hf) | (have hf : CiphState := x; clear hf) | (have hf : SecState := x; clear hf) | clear_value x)
    | split

theorem State.periodStart_keeps {r0 : State} (s : State) (n : Lane) (m : Nat) (h0 : Keeps r0 s) : Keeps r0
    (State.periodStart s n m) := by
  unfold State.periodStart
  with_reducible repeat' first
    | assumption | intro _ | exact Keeps.refl _ | subst x
    | (extract_lets +onlyGivenNames x; first | (have hx : Keeps r0 x := ?_; clear_value x) | (have hx : Keeps r0 x.1 := ?_; clear_value x) | (have hf := fun a => x a; clear hf) | (have hf : CiphState := x; clear hf) | (have hf : SecState := x; clear hf) | clear_value x)
    | apply ite_keeps | apply State.modLfr_keeps | apply State.modPmon_keeps | apply State.periodEnd_keeps
    | apply State.periodCut_keeps | dsimp only | split

theorem State.toBridges_keeps {r0 : State} (s : State) (n : Lane) (g : Mapped) (ws : List Nat) (h0 : Keeps r0 s) :
    Keeps r0 (State.toBridges s n g ws) := by
  unfold State.toBridges
  with_reducible repeat' first
    | assumption | intro _ | exact Keeps.refl _ | subst x
    | (extract_lets +onlyGivenNames x; first | (have hx : Keeps r0 x := ?_; clear_value x) | (have hx : Keeps r0 x.1 := ?_; clear_value x) | (have hf := fun a => x a; clear hf) | (have hf : CiphState := x; clear hf) | (have hf : SecState := x; clear hf) | clear_value x)
    | apply ite_keeps | apply State.modTx_keeps | apply State.eachLane_keeps_of | dsimp only | split

theorem State.demapGroup_keeps {r0 : State} (s : State) (n : Lane) (m : Nat) (accepted flagged : Bool) (oh : List
    Byte) (words : List (Nat × Nat)) (g : Mapped) (h0 : Keeps r0 s) : Keeps r0 (State.demapGroup s n m accepted
    flagged oh words g) := by
  unfold State.demapGroup
  with_reducible repeat' first
    | assumption | intro _ | exact Keeps.refl _ | subst x
    | (extract_lets +onlyGivenNames x; first | (have hx : Keeps r0 x := ?_; clear_value x) | (have hx : Keeps r0 x.1 := ?_; clear_value x) | (have hf := fun a => x a; clear hf) | (have hf : CiphState := x; clear hf) | (have hf : SecState := x; clear hf) | clear_value x)
    | apply ite_keeps | apply itep_keeps | apply State.raise_keeps | apply State.decUnit_keeps
    | apply State.modTap_keeps | apply State.sink_keeps | apply State.lfrCount_keeps | apply State.toBridges_keeps
    | dsimp only | (apply fst_keeps; assumption) | split

theorem State.pathParity_keeps {r0 : State} (s : State) (n : Lane) (flagged : Bool) (words : List (Nat × Nat)) (h0 :
    Keeps r0 s) : Keeps r0 (State.pathParity s n flagged words) := by
  unfold State.pathParity
  with_reducible repeat' first
    | assumption | intro _ | exact Keeps.refl _ | subst x
    | (extract_lets +onlyGivenNames x; first | (have hx : Keeps r0 x := ?_; clear_value x) | (have hx : Keeps r0 x.1 := ?_; clear_value x) | (have hf := fun a => x a; clear hf) | (have hf : CiphState := x; clear hf) | (have hf : SecState := x; clear hf) | clear_value x)
    | apply ite_keeps | apply State.modLfr_keeps | apply State.modPmon_keeps | apply foldl_keeps_of | dsimp only
    | split

theorem State.rxCourseTurn_keeps {r0 : State} (s : State) (n : Lane) (h0 : Keeps r0 s) : Keeps r0 (State.rxCourseTurn
    s n) := by
  unfold State.rxCourseTurn
  with_reducible repeat' first
    | assumption | intro _ | exact Keeps.refl _ | subst x
    | (extract_lets +onlyGivenNames x; first | (have hx : Keeps r0 x := ?_; clear_value x) | (have hx : Keeps r0 x.1 := ?_; clear_value x) | (have hf := fun a => x a; clear hf) | (have hf : CiphState := x; clear hf) | (have hf : SecState := x; clear hf) | clear_value x)
    | apply ite_keeps | apply State.modRxd_keeps | apply State.modLfr_keeps | apply State.touch_keeps
    | apply State.followTurn_keeps | apply State.rxdCourse_keeps | apply State.mapChanges_keeps
    | apply State.courseRx_keeps | dsimp only | split

theorem State.lfSection_keeps {r0 : State} (s : State) (n : Lane) (lf : LfIn) (flagged : Bool) (h0 : Keeps r0 s) :
    Keeps r0 (State.lfSection s n lf flagged).1 := by
  unfold State.lfSection
  with_reducible repeat' first
    | assumption | intro _ | exact Keeps.refl _ | subst x
    | (extract_lets +onlyGivenNames x; first | (have hx : Keeps r0 x := ?_; clear_value x) | (have hx : Keeps r0 x.1 := ?_; clear_value x) | (have hf := fun a => x a; clear hf) | (have hf : CiphState := x; clear hf) | (have hf : SecState := x; clear hf) | clear_value x)
    | apply ite_keeps | apply itep_keeps | apply State.modLfr_keeps | apply State.sectionBlock_keeps
    | apply State.ttfRow_keeps | apply State.ttfRx_keeps | apply State.multiframe_keeps
    | apply State.sectionParity_keeps | apply State.sectionBack_keeps | apply State.courseFields_keeps
    | apply State.mccRx_keeps | dsimp only | (apply fst_keeps; assumption) | split

theorem State.lfNative_keeps {r0 : State} (s : State) (n : Lane) (lf : LfIn) (flagged : Bool) (h0 : Keeps r0 s) :
    Keeps r0 (State.lfNative s n lf flagged) := by
  unfold State.lfNative
  with_reducible repeat' first
    | assumption | intro _ | exact Keeps.refl _ | subst x
    | (extract_lets +onlyGivenNames x; first | (have hx : Keeps r0 x := ?_; clear_value x) | (have hx : Keeps r0 x.1 := ?_; clear_value x) | (have hf := fun a => x a; clear hf) | (have hf : CiphState := x; clear hf) | (have hf : SecState := x; clear hf) | clear_value x)
    | apply ite_keeps | apply itep_keeps | apply State.tapLf_keeps | apply State.periodCut_keeps
    | apply State.psfRx_keeps | apply State.ssiRx_keeps | apply State.pathsRx_keeps | apply State.periodStart_keeps
    | apply State.demapGroup_keeps | apply State.pathParity_keeps | apply State.lfSection_keeps
    | apply foldl_keeps_of | dsimp only | (apply fst_keeps; assumption) | split

theorem State.lfNext_keeps {r0 : State} (s : State) (n : Lane) (lf : LfIn) {t : State} {l : LfIn} {i : Nat}
    (e : s.lfNext n lf = some (t, l, i)) (h0 : Keeps r0 s) : Keeps r0 t := by
  unfold State.lfNext at e
  extract_lets f at e
  split at e
  · obtain ⟨rfl, -⟩ : s = t ∧ _ := by simpa using e
    exact h0
  · split at e
    · cases e
    · rw [Option.map_eq_some_iff] at e
      obtain ⟨y, -, hy⟩ := e
      cases hy
      exact State.modFec_keeps _ _ _ h0

theorem State.zrFrame_keeps {r0 : State} (s : State) (n : Lane) (lf : LfIn) (h0 : Keeps r0 s) : Keeps r0
    (State.zrFrame s n lf) := by
  unfold State.zrFrame
  with_reducible repeat' first
    | assumption | intro _ | exact Keeps.refl _ | subst x
    | (extract_lets +onlyGivenNames x; first | (have hx : Keeps r0 x := ?_; clear_value x) | (have hx : Keeps r0 x.1 := ?_; clear_value x) | (have hf := fun a => x a; clear hf) | (have hf : CiphState := x; clear hf) | (have hf : SecState := x; clear hf) | clear_value x)
    | apply ite_keeps | apply State.setB_keeps | apply State.raiseIf_keeps | apply State.fecCount_keeps
    | apply State.sectionBlock_keeps | apply State.lfrDefects_keeps | apply State.egressFrame_keeps
    | apply foldl_keeps_of | dsimp only | split

end Sys2Proof.Machine
end

