-- ==== Sys2Proof/Laws/KeepsSystem.lean ====
section
/-!
SUPPORT. No operation undoes what `Keeps` lists: time steps, CAL, MEM, Cornerstone, SEC, resets and the boot sequence.
-/

-- one theorem after another: all at once would not fit the memory
set_option Elab.async false
set_option linter.all false

namespace Sys2Proof.Machine

/-! ### Steps.lean -/

theorem State.shiftTb0_keeps {r0 : State} (s : State) (d : Int) (h0 : Keeps r0 s) : Keeps r0 (State.shiftTb0 s d) :=
    by
  unfold State.shiftTb0
  with_reducible repeat' first
    | assumption | intro _ | exact Keeps.refl _ | subst x
    | (extract_lets +onlyGivenNames x; first | (have hx : Keeps r0 x := ?_; clear_value x) | (have hx : Keeps r0 x.1 := ?_; clear_value x) | (have hf := fun a => x a; clear hf) | (have hf : CiphState := x; clear hf) | (have hf : SecState := x; clear hf) | clear_value x)
    | apply ite_keeps | apply State.modLfr_keeps | apply State.modPmon_keeps | apply State.eachLane_keeps_of
    | apply State.modPlu_keeps | apply State.modArmed_keeps | dsimp only | split | refine Keeps.raw ?_ rfl rfl rfl

theorem State.endSecond_keeps {r0 : State} (s : State) (h0 : Keeps r0 s) : Keeps r0 (State.endSecond s) := by
  unfold State.endSecond
  with_reducible repeat' first
    | assumption | intro _ | exact Keeps.refl _ | subst x
    | (extract_lets +onlyGivenNames x; first | (have hx : Keeps r0 x := ?_; clear_value x) | (have hx : Keeps r0 x.1 := ?_; clear_value x) | (have hf := fun a => x a; clear hf) | (have hf : CiphState := x; clear hf) | (have hf : SecState := x; clear hf) | clear_value x)
    | apply ite_keeps | apply State.modPmon_keeps | apply State.eachLane_keeps_of | apply State.touch_keeps
    | dsimp only | split

theorem State.beginSecond_keeps {r0 : State} (s : State) (h0 : Keeps r0 s) : Keeps r0 (State.beginSecond s) := by
  unfold State.beginSecond
  with_reducible repeat' first
    | assumption | intro _ | exact Keeps.refl _ | subst x
    | (extract_lets +onlyGivenNames x; first | (have hx : Keeps r0 x := ?_; clear_value x) | (have hx : Keeps r0 x.1 := ?_; clear_value x) | (have hf := fun a => x a; clear hf) | (have hf : CiphState := x; clear hf) | (have hf : SecState := x; clear hf) | clear_value x)
    | apply ite_keeps | apply State.modPmon_keeps | apply State.eachLane_keeps_of | apply State.touch_keeps
    | dsimp only | split

theorem State.courseStep_keeps {r0 : State} (s : State) (old new : Nat) (h0 : Keeps r0 s) : Keeps r0 (State.courseStep
    s old new) := by
  unfold State.courseStep
  with_reducible repeat' first
    | assumption | apply ite_keeps | apply State.modArmed_keeps | apply State.courseStrobe_keeps | split

theorem State.tbStep_keeps {r0 : State} (s : State) (x : Nat) (acc : Int) (h0 : Keeps r0 s) : Keeps r0 (State.tbStep
    s x acc).1 := by
  unfold State.tbStep
  with_reducible repeat' first
    | assumption | intro _ | exact Keeps.refl _ | subst x
    | (extract_lets +onlyGivenNames x; first | (have hx : Keeps r0 x := ?_; clear_value x) | (have hx : Keeps r0 x.1 := ?_; clear_value x) | (have hf := fun a => x a; clear hf) | (have hf : CiphState := x; clear hf) | (have hf : SecState := x; clear hf) | clear_value x)
    | apply ite_keeps | apply itep_keeps | apply State.modTb_keeps | apply State.addCnt32_keeps
    | apply State.raise_keeps | apply State.suspectBins_keeps | apply State.lateLevel_keeps
    | apply State.setTbState_keeps | apply State.syncTbs_keeps | apply State.dropSamples_keeps
    | apply State.utcAct_keeps | apply State.launchesCrossed_keeps | apply State.shiftTb0_keeps
    | apply State.endSecond_keeps | apply State.beginSecond_keeps | apply State.courseStep_keeps | dsimp only
    | (apply fst_keeps; assumption) | split

theorem State.tbSet_keeps {r0 : State} (s : State) (x : Nat) (t : Time80) (h0 : Keeps r0 s) : Keeps r0 (State.tbSet s
    x t).1 := by
  unfold State.tbSet
  with_reducible repeat' first
    | assumption | apply ite_keeps | apply State.raise_keeps | apply State.tbStep_keeps | split

theorem State.tbAdd_keeps {r0 : State} (s : State) (x : Nat) (d : Int) (h0 : Keeps r0 s) : Keeps r0 (State.tbAdd s x
    d).1 := by
  unfold State.tbAdd
  with_reducible repeat' first | assumption | apply State.tbStep_keeps

theorem State.servoFreq_keeps {r0 : State} (s : State) (x : Nat) (mean : Int) (h0 : Keeps r0 s) : Keeps r0
    (State.servoFreq s x mean) := by
  unfold State.servoFreq
  with_reducible repeat' first
    | assumption | intro _ | exact Keeps.refl _ | subst x
    | (extract_lets +onlyGivenNames x; first | (have hx : Keeps r0 x := ?_; clear_value x) | (have hx : Keeps r0 x.1 := ?_; clear_value x) | (have hf := fun a => x a; clear hf) | (have hf : CiphState := x; clear hf) | (have hf : SecState := x; clear hf) | clear_value x)
    | apply ite_keeps | apply State.setInt_keeps | apply State.modTb_keeps | apply State.modServo_keeps | dsimp only
    | split

theorem State.servoApply_keeps {r0 : State} (s : State) (x : Fin 3) (mean ps : Int) (h0 : Keeps r0 s) : Keeps r0
    (State.servoApply s x mean ps) := by
  unfold State.servoApply
  with_reducible repeat' first
    | assumption | intro _ | exact Keeps.refl _ | subst x
    | (extract_lets +onlyGivenNames x; first | (have hx : Keeps r0 x := ?_; clear_value x) | (have hx : Keeps r0 x.1 := ?_; clear_value x) | (have hf := fun a => x a; clear hf) | (have hf : CiphState := x; clear hf) | (have hf : SecState := x; clear hf) | clear_value x)
    | apply ite_keeps | apply itep_keeps | apply State.setInt_keeps | apply State.modServo_keeps
    | apply State.setTbState_keeps | apply State.tbStep_keeps | apply State.servoFreq_keeps | dsimp only
    | (apply fst_keeps; assumption) | split

/-! ### Cal.lean -/

theorem State.modCal_keeps {r0 : State} (s : State) (f : CalState → CalState) (h0 : Keeps r0 s) : Keeps r0
    (State.modCal s f) :=
  Keeps.raw h0 rfl rfl rfl

theorem State.modRun_keeps {r0 : State} (s : State) (f : CalRun → CalRun) (h0 : Keeps r0 s) : Keeps r0 (State.modRun s
    f) := by
  unfold State.modRun
  with_reducible repeat' first | assumption | apply State.modCal_keeps

theorem State.modDom_keeps {r0 : State} (s : State) (d : Nat) (f : CalDomain → CalDomain) (h0 : Keeps r0 s) : Keeps r0
    (State.modDom s d f) := by
  unfold State.modDom
  with_reducible repeat' first | assumption | apply State.modCal_keeps

theorem State.calCount_keeps {r0 : State} (s : State) (j : Nat) (h0 : Keeps r0 s) : Keeps r0 (State.calCount s j) := by
  unfold State.calCount
  with_reducible repeat' first | assumption | apply State.addCnt_keeps

theorem State.showPoints_keeps {r0 : State} (s : State) (d : Nat) (h0 : Keeps r0 s) : Keeps r0 (State.showPoints s d)
    := by
  unfold State.showPoints
  with_reducible repeat' first
    | assumption | intro _ | exact Keeps.refl _ | subst x
    | (extract_lets +onlyGivenNames x; first | (have hx : Keeps r0 x := ?_; clear_value x) | (have hx : Keeps r0 x.1 := ?_; clear_value x) | (have hf := fun a => x a; clear hf) | (have hf : CiphState := x; clear hf) | (have hf : SecState := x; clear hf) | clear_value x)
    | apply ite_keeps | apply State.set_keeps | apply State.setNat_keeps | apply foldl_keeps_of | dsimp only | split

theorem State.judgeTemp_keeps {r0 : State} (s : State) (d : Nat) (h0 : Keeps r0 s) : Keeps r0 (State.judgeTemp s d) := by
  unfold State.judgeTemp
  with_reducible repeat' first | assumption | apply State.raiseIf_keeps | apply State.setB_keeps

theorem State.dieReload_keeps {r0 : State} (s : State) (d : Nat) (h0 : Keeps r0 s) : Keeps r0 (State.dieReload s d)
    := by
  unfold State.dieReload
  with_reducible repeat' first
    | assumption | exact Keeps.refl _ | apply ite_keeps | apply State.sparesReload_keeps | split
    | refine Keeps.raw ?_ rfl rfl rfl

theorem State.calApply_keeps {r0 : State} (s : State) (d : Nat) (h0 : Keeps r0 s) : Keeps r0 (State.calApply s d) :=
    by
  unfold State.calApply
  with_reducible repeat' first
    | assumption | intro _ | exact Keeps.refl _ | subst x
    | (extract_lets +onlyGivenNames x; first | (have hx : Keeps r0 x := ?_; clear_value x) | (have hx : Keeps r0 x.1 := ?_; clear_value x) | (have hf := fun a => x a; clear hf) | (have hf : CiphState := x; clear hf) | (have hf : SecState := x; clear hf) | clear_value x)
    | apply ite_keeps | apply State.modDom_keeps | apply State.dieReload_keeps | dsimp only | split

theorem State.sensRead_keeps {r0 : State} (s : State) (temps : List Int) (h0 : Keeps r0 s) : Keeps r0 (State.sensRead
    s temps) := by
  unfold State.sensRead
  with_reducible repeat' first
    | assumption | intro _ | exact Keeps.refl _ | subst x
    | (extract_lets +onlyGivenNames x; first | (have hx : Keeps r0 x := ?_; clear_value x) | (have hx : Keeps r0 x.1 := ?_; clear_value x) | (have hf := fun a => x a; clear hf) | (have hf : CiphState := x; clear hf) | (have hf : SecState := x; clear hf) | clear_value x)
    | apply ite_keeps | apply State.setInt_keeps | apply State.modCal_keeps | apply foldl_keeps_of | dsimp only
    | split

theorem State.calEnter_keeps {r0 : State} (s : State) (st : Nat) (h0 : Keeps r0 s) : Keeps r0 (State.calEnter s st) := by
  unfold State.calEnter
  with_reducible repeat' first | assumption | apply State.setNat_keeps | apply State.set_keeps

theorem State.calRestore_keeps {r0 : State} (s : State) (r : CalRun) (h0 : Keeps r0 s) : Keeps r0 (State.calRestore s
    r) := by
  unfold State.calRestore
  with_reducible repeat' first
    | assumption | intro _ | exact Keeps.refl _ | subst x
    | (extract_lets +onlyGivenNames x; first | (have hx : Keeps r0 x := ?_; clear_value x) | (have hx : Keeps r0 x.1 := ?_; clear_value x) | (have hf := fun a => x a; clear hf) | (have hf : CiphState := x; clear hf) | (have hf : SecState := x; clear hf) | clear_value x)
    | apply ite_keeps | apply State.modDom_keeps | apply State.showPoints_keeps | apply State.judgeTemp_keeps
    | apply State.dieReload_keeps | apply foldl_keeps_of | dsimp only | split

theorem State.calAbort_keeps {r0 : State} (s : State) (result : Nat) (h0 : Keeps r0 s) : Keeps r0 (State.calAbort s
    result) := by
  unfold State.calAbort
  with_reducible repeat' first
    | assumption | intro _ | exact Keeps.refl _ | subst x
    | (extract_lets +onlyGivenNames x; first | (have hx : Keeps r0 x := ?_; clear_value x) | (have hx : Keeps r0 x.1 := ?_; clear_value x) | (have hf := fun a => x a; clear hf) | (have hf : CiphState := x; clear hf) | (have hf : SecState := x; clear hf) | clear_value x)
    | apply ite_keeps | apply State.set_keeps | apply State.modConv_keeps | apply State.raise_keeps
    | apply State.staleShow_keeps | apply State.calRelease_keeps | apply State.modCal_keeps
    | apply State.calCount_keeps | apply State.calEnter_keeps | apply State.calRestore_keeps | dsimp only | split

theorem State.precondFail_keeps {r0 : State} (s : State) (i : Nat) (h0 : Keeps r0 s) : Keeps r0 (State.precondFail s
    i) := by
  unfold State.precondFail
  with_reducible repeat' first
    | assumption | apply State.calAbort_keeps | apply State.raise_keeps | apply State.calCount_keeps
    | apply State.set_keeps

theorem State.blockStart_keeps {r0 : State} (s : State) (b : Nat) (h0 : Keeps r0 s) : Keeps r0 (State.blockStart s b)
    := by
  unfold State.blockStart
  with_reducible repeat' first
    | assumption | intro _ | exact Keeps.refl _ | subst x
    | (extract_lets +onlyGivenNames x; first | (have hx : Keeps r0 x := ?_; clear_value x) | (have hx : Keeps r0 x.1 := ?_; clear_value x) | (have hf := fun a => x a; clear hf) | (have hf : CiphState := x; clear hf) | (have hf : SecState := x; clear hf) | clear_value x)
    | apply ite_keeps | apply State.staleShow_keeps | apply State.modRun_keeps | apply State.precondFail_keeps
    | dsimp only | split

theorem State.stepStart_keeps {r0 : State} (fuel : Nat) (s : State) (h0 : Keeps r0 s) :
    Keeps r0 (State.stepStart fuel s) := by
  induction fuel generalizing s with
  | zero => exact h0
  | succ m ih =>
    unfold State.stepStart
    split
    · exact h0
    · refine ite_keeps _ _ _ (State.blockStart_keeps _ _ h0) (ite_keeps _ _ _ (State.modRun_keeps _ _ h0) ?_)
      split
      · exact State.precondFail_keeps _ _ h0
      · refine ite_keeps _ _ _ (State.modRun_keeps _ _ h0) ?_
        exact ite_keeps _ _ _ (State.modRun_keeps _ _ (State.calTake_keeps _ _ _ _ h0))
          (ih _ (State.modRun_keeps _ _ (State.setB_keeps _ _ _ h0)))


theorem State.calStart_keeps {r0 : State} (s : State) (items lane : Nat) (h0 : Keeps r0 s) : Keeps r0 (State.calStart
    s items lane).1 := by
  unfold State.calStart
  with_reducible repeat' first
    | assumption | intro _ | exact Keeps.refl _ | subst x
    | (extract_lets +onlyGivenNames x; first | (have hx : Keeps r0 x := ?_; clear_value x) | (have hx : Keeps r0 x.1 := ?_; clear_value x) | (have hf := fun a => x a; clear hf) | (have hf : CiphState := x; clear hf) | (have hf : SecState := x; clear hf) | clear_value x)
    | apply ite_keeps | apply itep_keeps | apply State.setReg_keeps | apply State.modConv_keeps
    | apply State.raise_keeps | apply State.modCal_keeps | apply State.calCount_keeps | apply State.calEnter_keeps
    | dsimp only | (apply fst_keeps; assumption) | split

theorem State.calStop_keeps {r0 : State} (s : State) (h0 : Keeps r0 s) : Keeps r0 (State.calStop s).1 := by
  unfold State.calStop
  with_reducible repeat' first
    | assumption | apply ite_keeps | apply itep_keeps | apply State.raise_keeps | apply State.modRun_keeps
    | apply State.calAbort_keeps | split

theorem State.writeCalCmd_keeps {r0 : State} (s : State) (v : Word) (h0 : Keeps r0 s) : Keeps r0 (State.writeCalCmd s
    v).1 := by
  unfold State.writeCalCmd
  with_reducible repeat' first
    | assumption | intro _ | exact Keeps.refl _ | subst x
    | (extract_lets +onlyGivenNames x; first | (have hx : Keeps r0 x := ?_; clear_value x) | (have hx : Keeps r0 x.1 := ?_; clear_value x) | (have hf := fun a => x a; clear hf) | (have hf : CiphState := x; clear hf) | (have hf : SecState := x; clear hf) | clear_value x)
    | apply ite_keeps | apply itep_keeps | apply State.setReg_keeps | apply State.raise_keeps
    | apply State.calStart_keeps | apply State.calStop_keeps | dsimp only | (apply fst_keeps; assumption) | split

theorem State.sliceItemsDone_keeps {r0 : State} (s : State) (h0 : Keeps r0 s) : Keeps r0 (State.sliceItemsDone s) := by
  unfold State.sliceItemsDone
  with_reducible repeat' first | assumption | apply ite_keeps | apply State.set_keeps | split

theorem State.measured_keeps {r0 : State} (s : State) (r : CalRun) (h0 : Keeps r0 s) : Keeps r0 (State.measured s r)
    := by
  unfold State.measured
  with_reducible repeat' first
    | assumption | intro _ | exact Keeps.refl _ | subst x
    | (extract_lets +onlyGivenNames x; first | (have hx : Keeps r0 x := ?_; clear_value x) | (have hx : Keeps r0 x.1 := ?_; clear_value x) | (have hf := fun a => x a; clear hf) | (have hf : CiphState := x; clear hf) | (have hf : SecState := x; clear hf) | clear_value x)
    | apply ite_keeps | apply State.set_keeps | apply State.setInt_keeps | apply State.modRun_keeps
    | apply State.modDom_keeps | apply State.calApply_keeps | apply State.calEnter_keeps | apply foldl_keeps_of
    | dsimp only | split

theorem State.calDone_keeps {r0 : State} (s : State) (result : Nat) (h0 : Keeps r0 s) : Keeps r0 (State.calDone s
    result) := by
  unfold State.calDone
  with_reducible repeat' first
    | assumption | apply State.raise_keeps | apply State.modCal_keeps | apply State.set_keeps
    | apply State.calEnter_keeps

theorem State.storeRefused_keeps {r0 : State} (s : State) (r : CalRun) (h0 : Keeps r0 s) : Keeps r0
    (State.storeRefused s r) := by
  unfold State.storeRefused
  with_reducible repeat' first
    | assumption | exact Keeps.refl _ | apply ite_keeps | apply itep_keeps | apply State.judgeTemp_keeps
    | apply State.setB_keeps | apply State.calDone_keeps | apply State.calCount_keeps | apply foldl_keeps | intro _
    | (extract_lets +onlyGivenNames x; first | (have hx : Keeps r0 x := ?_; clear_value x) | (have hx : Keeps r0 x.1 := ?_; clear_value x) | (have hf := fun a => x a; clear hf) | (have hf : CiphState := x; clear hf) | (have hf : SecState := x; clear hf) | clear_value x)
    | split

theorem State.quarryRetire_keeps {r0 : State} (s : State) (failed : Nat) (h0 : Keeps r0 s) : Keeps r0
    (State.quarryRetire s failed).1 := by
  unfold State.quarryRetire
  with_reducible repeat' first
    | assumption | apply ite_keeps | apply itep_keeps | apply State.set_keeps | apply State.raise_keeps
    | apply State.setB_keeps | exact Keeps.refl _

theorem State.calLoad_keeps {r0 : State} (s : State) (h0 : Keeps r0 s) : Keeps r0 (State.calLoad s) := by
  unfold State.calLoad
  with_reducible repeat' first
    | assumption | intro _ | exact Keeps.refl _ | subst x
    | (extract_lets +onlyGivenNames x; first | (have hx : Keeps r0 x := ?_; clear_value x) | (have hx : Keeps r0 x.1 := ?_; clear_value x) | (have hf := fun a => x a; clear hf) | (have hf : CiphState := x; clear hf) | (have hf : SecState := x; clear hf) | clear_value x)
    | apply ite_keeps | apply State.set_keeps | apply State.setB_keeps | apply State.setNat_keeps
    | apply State.raiseIf_keeps | apply State.modDom_keeps | apply State.showPoints_keeps
    | apply State.judgeTemp_keeps | apply State.calApply_keeps | apply foldl_keeps_of | dsimp only | split

theorem State.calSafe_keeps {r0 : State} (s : State) (h0 : Keeps r0 s) : Keeps r0 (State.calSafe s) := by
  unfold State.calSafe
  with_reducible repeat' first
    | assumption | apply State.raise_keeps | apply State.setB_keeps | apply State.calAbort_keeps

theorem State.calReset_keeps {r0 : State} (s : State) (h0 : Keeps r0 s) : Keeps r0 (State.calReset s) := by
  unfold State.calReset
  with_reducible repeat' first
    | assumption | intro _ | exact Keeps.refl _ | subst x
    | (extract_lets +onlyGivenNames x; first | (have hx : Keeps r0 x := ?_; clear_value x) | (have hx : Keeps r0 x.1 := ?_; clear_value x) | (have hf := fun a => x a; clear hf) | (have hf : CiphState := x; clear hf) | (have hf : SecState := x; clear hf) | clear_value x)
    | apply ite_keeps | apply State.staleShow_keeps | apply State.calRelease_keeps | apply State.modCal_keeps
    | dsimp only | split

theorem State.calLaneReset_keeps {r0 : State} (s : State) (n : Lane) (h0 : Keeps r0 s) : Keeps r0 (State.calLaneReset
    s n) := by
  unfold State.calLaneReset
  with_reducible repeat' first
    | assumption | apply ite_keeps | apply State.calAbort_keeps | apply State.modRun_keeps | split

/-! ### MemInt.lean -/

theorem State.memFillStart_keeps {r0 : State} (s : State) (h0 : Keeps r0 s) : Keeps r0 (State.memFillStart s) := by
  unfold State.memFillStart
  with_reducible repeat' first
    | assumption | exact Keeps.refl _ | apply ite_keeps | apply itep_keeps | apply State.setB_keeps
    | apply foldl_keeps | intro _
    | (extract_lets +onlyGivenNames x; first | (have hx : Keeps r0 x := ?_; clear_value x) | (have hx : Keeps r0 x.1 := ?_; clear_value x) | (have hf := fun a => x a; clear hf) | (have hf : CiphState := x; clear hf) | (have hf : SecState := x; clear hf) | clear_value x)
    | split

theorem State.jobsReading_keeps {r0 : State} (s : State) (addr : Nat) (h0 : Keeps r0 s) : Keeps r0 (State.jobsReading
    s addr) := by
  unfold State.jobsReading
  with_reducible repeat' first
    | assumption | exact Keeps.refl _ | apply ite_keeps | apply itep_keeps | apply State.jobEnd_keeps
    | apply State.jobWipe_keeps | apply foldl_keeps | intro _
    | (extract_lets +onlyGivenNames x; first | (have hx : Keeps r0 x := ?_; clear_value x) | (have hx : Keeps r0 x.1 := ?_; clear_value x) | (have hf := fun a => x a; clear hf) | (have hf : CiphState := x; clear hf) | (have hf : SecState := x; clear hf) | clear_value x)
    | split

theorem State.launchesReading_keeps {r0 : State} (s : State) (addr : Nat) (h0 : Keeps r0 s) : Keeps r0
    (State.launchesReading s addr) := by
  unfold State.launchesReading
  with_reducible repeat' first | assumption | apply State.modMem_keeps

theorem State.memGive_keeps {r0 : State} (s : State) (a inst addr : Nat) (reader : MemReader) (data : Nat) (h0 :
    Keeps r0 s) : Keeps r0 (State.memGive s a inst addr reader data) := by
  unfold State.memGive
  with_reducible repeat' first
    | assumption | intro _ | exact Keeps.refl _ | subst x
    | (extract_lets +onlyGivenNames x; first | (have hx : Keeps r0 x := ?_; clear_value x) | (have hx : Keeps r0 x.1 := ?_; clear_value x) | (have hf := fun a => x a; clear hf) | (have hf : CiphState := x; clear hf) | (have hf : SecState := x; clear hf) | clear_value x)
    | apply ite_keeps | apply State.emit_keeps | dsimp only | split

theorem State.memReader_keeps {r0 : State} (s : State) (a inst addr : Nat) (reader : MemReader) (h0 : Keeps r0 s) :
    Keeps r0 (State.memReader s a inst addr reader) := by
  unfold State.memReader
  with_reducible repeat' first
    | assumption | intro _ | exact Keeps.refl _ | subst x
    | (extract_lets +onlyGivenNames x; first | (have hx : Keeps r0 x := ?_; clear_value x) | (have hx : Keeps r0 x.1 := ?_; clear_value x) | (have hf := fun a => x a; clear hf) | (have hf : CiphState := x; clear hf) | (have hf : SecState := x; clear hf) | clear_value x)
    | apply ite_keeps | apply State.setReg_keeps | apply State.emit_keeps | apply State.logAcc_keeps
    | apply State.answer_keeps | apply State.unpoison_keeps | apply State.memSet_keeps | apply State.ctxStop_keeps
    | apply State.zeroise_keeps | apply State.jobsReading_keeps | apply State.launchesReading_keeps
    | apply State.memGive_keeps | dsimp only | split

theorem State.memWrote_keeps {r0 : State} (s : State) (a inst addr : Nat) (w : Option (BitVec 64)) (h0 : Keeps r0 s)
    : Keeps r0 (State.memWrote s a inst addr w) := by
  unfold State.memWrote
  with_reducible repeat' first
    | assumption | intro _ | exact Keeps.refl _ | subst x
    | (extract_lets +onlyGivenNames x; first | (have hx : Keeps r0 x := ?_; clear_value x) | (have hx : Keeps r0 x.1 := ?_; clear_value x) | (have hf := fun a => x a; clear hf) | (have hf : CiphState := x; clear hf) | (have hf : SecState := x; clear hf) | clear_value x)
    | apply ite_keeps | apply State.memWrite_keeps | dsimp only | split

theorem State.winMerge_keeps {r0 : State} (s : State) (inst addr ofs : Nat) (bytes : List Byte) (h0 : Keeps r0 s) :
    Keeps r0 (State.winMerge s inst addr ofs bytes) := by
  unfold State.winMerge
  with_reducible repeat' first
    | assumption | exact Keeps.refl _ | apply ite_keeps | apply itep_keeps | apply State.set_keeps | apply foldl_keeps
    | intro _
    | (extract_lets +onlyGivenNames x; first | (have hx : Keeps r0 x := ?_; clear_value x) | (have hx : Keeps r0 x.1 := ?_; clear_value x) | (have hf := fun a => x a; clear hf) | (have hf : CiphState := x; clear hf) | (have hf : SecState := x; clear hf) | clear_value x)
    | split

theorem State.memMerge_keeps {r0 : State} (s : State) (a inst addr ofs : Nat) (bytes : List Byte) (h0 : Keeps r0 s) :
    Keeps r0 (State.memMerge s a inst addr ofs bytes) := by
  unfold State.memMerge
  with_reducible repeat' first
    | assumption | intro _ | exact Keeps.refl _ | subst x
    | (extract_lets +onlyGivenNames x; first | (have hx : Keeps r0 x := ?_; clear_value x) | (have hx : Keeps r0 x.1 := ?_; clear_value x) | (have hf := fun a => x a; clear hf) | (have hf : CiphState := x; clear hf) | (have hf : SecState := x; clear hf) | clear_value x)
    | apply ite_keeps | apply State.memSet_keeps | apply foldl_keeps_of | dsimp only | split

theorem State.scrubNext_keeps {r0 : State} (s : State) (a inst addr : Nat) (h0 : Keeps r0 s) : Keeps r0
    (State.scrubNext s a inst addr) := by
  unfold State.scrubNext
  with_reducible repeat' first
    | assumption | intro _ | exact Keeps.refl _ | subst x
    | (extract_lets +onlyGivenNames x; first | (have hx : Keeps r0 x := ?_; clear_value x) | (have hx : Keeps r0 x.1 := ?_; clear_value x) | (have hf := fun a => x a; clear hf) | (have hf : CiphState := x; clear hf) | (have hf : SecState := x; clear hf) | clear_value x)
    | apply ite_keeps | apply State.addCnt_keeps | apply State.modMem_keeps | dsimp only | split

/-! ### Cst.lean -/

theorem State.waitTb3_keeps {r0 : State} (s : State) (ns : Nat) (h0 : Keeps r0 s) : Keeps r0 (State.waitTb3 s ns) := by
  unfold State.waitTb3
  with_reducible repeat' first | assumption | apply ite_keeps | apply State.elapse_keeps

theorem State.cstShow_keeps {r0 : State} (s : State) (h0 : Keeps r0 s) : Keeps r0 (State.cstShow s) := by
  unfold State.cstShow
  with_reducible repeat' first | assumption | apply State.set_keeps | apply State.setB_keeps

theorem State.tb3Enter_keeps {r0 : State} (s : State) (st : Nat) (h0 : Keeps r0 s) : Keeps r0 (State.tb3Enter s st) := by
  unfold State.tb3Enter
  with_reducible repeat' first
    | assumption | apply ite_keeps | apply State.cstShow_keeps | apply State.modCst_keeps | apply State.cstFlag_keeps

theorem State.cstCount_keeps {r0 : State} (s : State) (j k : Nat) (h0 : Keeps r0 s) : Keeps r0 (State.cstCount s j k) := by
  unfold State.cstCount
  with_reducible repeat' first | assumption | apply State.modCst_keeps

theorem State.tb3Rate_keeps {r0 : State} (s : State) (h0 : Keeps r0 s) : Keeps r0 (State.tb3Rate s) := by
  unfold State.tb3Rate
  with_reducible repeat' first
    | assumption | intro _ | exact Keeps.refl _ | subst x
    | (extract_lets +onlyGivenNames x; first | (have hx : Keeps r0 x := ?_; clear_value x) | (have hx : Keeps r0 x.1 := ?_; clear_value x) | (have hf := fun a => x a; clear hf) | (have hf : CiphState := x; clear hf) | (have hf : SecState := x; clear hf) | clear_value x)
    | apply ite_keeps | apply State.modCst_keeps | dsimp only | split

theorem State.tb3Follow_keeps {r0 : State} (s : State) (ofs : Int) (h0 : Keeps r0 s) : Keeps r0 (State.tb3Follow s
    ofs) := by
  unfold State.tb3Follow
  with_reducible repeat' first
    | assumption | intro _ | exact Keeps.refl _ | subst x
    | (extract_lets +onlyGivenNames x; first | (have hx : Keeps r0 x := ?_; clear_value x) | (have hx : Keeps r0 x.1 := ?_; clear_value x) | (have hf := fun a => x a; clear hf) | (have hf : CiphState := x; clear hf) | (have hf : SecState := x; clear hf) | clear_value x)
    | apply ite_keeps | apply State.modCst_keeps | apply State.tb3Rate_keeps | dsimp only | split

theorem State.cstNew_keeps {r0 : State} (s : State) (daily : Bool) (sec flags : Nat) (h0 : Keeps r0 s) : Keeps r0
    (State.cstNew s daily sec flags).1 := by
  unfold State.cstNew
  with_reducible repeat' first | assumption | apply State.modCst_keeps

theorem State.cstClose_keeps {r0 : State} (s : State) (daily : Bool) (close due sec flags : Nat) (h0 : Keeps r0 s) :
    Keeps r0 (State.cstClose s daily close due sec flags) := by
  unfold State.cstClose
  with_reducible repeat' first | assumption | apply State.cstNew_keeps | apply State.modCst_keeps

theorem State.cstRoll_keeps {r0 : State} (s : State) (sec : Nat) (h0 : Keeps r0 s) : Keeps r0 (State.cstRoll s sec) := by
  unfold State.cstRoll
  with_reducible repeat' first
    | assumption | exact Keeps.refl _ | apply ite_keeps | apply itep_keeps | apply State.cstClose_keeps
    | apply foldl_keeps | intro _
    | (extract_lets +onlyGivenNames x; first | (have hx : Keeps r0 x := ?_; clear_value x) | (have hx : Keeps r0 x.1 := ?_; clear_value x) | (have hf := fun a => x a; clear hf) | (have hf : CiphState := x; clear hf) | (have hf : SecState := x; clear hf) | clear_value x)
    | split

theorem State.cstBinById_keeps {r0 : State} (s : State) (id : Nat) (f : CstBin → CstBin) (h0 : Keeps r0 s) : Keeps r0
    (State.cstBinById s id f) := by
  unfold State.cstBinById
  with_reducible repeat' first | assumption | apply State.modCst_keeps

theorem State.cstMove_keeps {r0 : State} (s : State) (key : Nat) (r : CstSec) (es ses uas : Int) (h0 : Keeps r0 s) :
    Keeps r0 (State.cstMove s key r es ses uas) := by
  unfold State.cstMove
  with_reducible repeat' first | assumption | apply State.cstBinById_keeps

theorem State.cstAvail_keeps {r0 : State} (s : State) (key : Nat) (r : CstSec) (h0 : Keeps r0 s) : Keeps r0
    (State.cstAvail s key r) := by
  unfold State.cstAvail
  with_reducible repeat' first
    | assumption | exact Keeps.refl _ | apply ite_keeps | apply itep_keeps | apply State.modCst_keeps
    | apply State.cstMove_keeps | apply foldl_keeps | intro _
    | (extract_lets +onlyGivenNames x; first | (have hx : Keeps r0 x := ?_; clear_value x) | (have hx : Keeps r0 x.1 := ?_; clear_value x) | (have hf := fun a => x a; clear hf) | (have hf : CiphState := x; clear hf) | (have hf : SecState := x; clear hf) | clear_value x)
    | split

theorem State.cstEntSecond_keeps {r0 : State} (s : State) (key : Nat) (h0 : Keeps r0 s) : Keeps r0 (State.cstEntSecond
    s key) := by
  unfold State.cstEntSecond
  with_reducible repeat' first
    | assumption | apply ite_keeps | apply State.cstFlag_keeps | apply State.cstBins_keeps
    | apply State.cstAvail_keeps

theorem State.cstGather_keeps {r0 : State} (s : State) (h0 : Keeps r0 s) : Keeps r0 (State.cstGather s) := by
  unfold State.cstGather
  with_reducible repeat' first
    | assumption | intro _ | exact Keeps.refl _ | subst x
    | (extract_lets +onlyGivenNames x; first | (have hx : Keeps r0 x := ?_; clear_value x) | (have hx : Keeps r0 x.1 := ?_; clear_value x) | (have hf := fun a => x a; clear hf) | (have hf : CiphState := x; clear hf) | (have hf : SecState := x; clear hf) | clear_value x)
    | apply ite_keeps | apply State.modCst_keeps | dsimp only | split

theorem State.cstSecondEnd_keeps {r0 : State} (s : State) (h0 : Keeps r0 s) : Keeps r0 (State.cstSecondEnd s) := by
  unfold State.cstSecondEnd
  with_reducible repeat' first
    | assumption | intro _ | exact Keeps.refl _ | subst x
    | (extract_lets +onlyGivenNames x; first | (have hx : Keeps r0 x := ?_; clear_value x) | (have hx : Keeps r0 x.1 := ?_; clear_value x) | (have hf := fun a => x a; clear hf) | (have hf : CiphState := x; clear hf) | (have hf : SecState := x; clear hf) | clear_value x)
    | apply ite_keeps | apply State.modCst_keeps | apply State.cstBins_keeps | apply State.cstFlag_keeps
    | apply State.cstRoll_keeps | apply State.cstEntSecond_keeps | apply State.cstGather_keeps
    | apply foldl_keeps_of | dsimp only | split

theorem State.cstLf_keeps {r0 : State} (s : State) (t : TapLf) (h0 : Keeps r0 s) : Keeps r0 (State.cstLf s t) := by
  unfold State.cstLf
  with_reducible repeat' first
    | assumption | intro _ | exact Keeps.refl _ | subst x
    | (extract_lets +onlyGivenNames x; first | (have hx : Keeps r0 x := ?_; clear_value x) | (have hx : Keeps r0 x.1 := ?_; clear_value x) | (have hf := fun a => x a; clear hf) | (have hf : CiphState := x; clear hf) | (have hf : SecState := x; clear hf) | clear_value x)
    | apply ite_keeps | apply State.modCst_keeps | apply foldl_keeps_of | dsimp only | split

theorem State.cstPort_keeps {r0 : State} (s : State) (p : Nat) (h0 : Keeps r0 s) : Keeps r0 (State.cstPort s p) := by
  unfold State.cstPort
  with_reducible repeat' first | assumption | apply State.modCst_keeps

theorem State.cstUtcFirst_keeps {r0 : State} (s : State) (o : Int) (h0 : Keeps r0 s) : Keeps r0 (State.cstUtcFirst s
    o) := by
  unfold State.cstUtcFirst
  with_reducible repeat' first
    | assumption | intro _ | exact Keeps.refl _ | subst x
    | (extract_lets +onlyGivenNames x; first | (have hx : Keeps r0 x := ?_; clear_value x) | (have hx : Keeps r0 x.1 := ?_; clear_value x) | (have hf := fun a => x a; clear hf) | (have hf : CiphState := x; clear hf) | (have hf : SecState := x; clear hf) | clear_value x)
    | apply ite_keeps | apply State.modCst_keeps | dsimp only | split

theorem State.cstUtcTake_keeps {r0 : State} (s : State) (o d : Int) (h0 : Keeps r0 s) : Keeps r0 (State.cstUtcTake s
    o d) := by
  unfold State.cstUtcTake
  with_reducible repeat' first
    | assumption | intro _ | exact Keeps.refl _ | subst x
    | (extract_lets +onlyGivenNames x; first | (have hx : Keeps r0 x := ?_; clear_value x) | (have hx : Keeps r0 x.1 := ?_; clear_value x) | (have hf := fun a => x a; clear hf) | (have hf : CiphState := x; clear hf) | (have hf : SecState := x; clear hf) | clear_value x)
    | exact id_keeps _ | apply ite_keeps | apply State.modCst_keeps | apply State.cstBins_keeps | dsimp only | split

theorem State.cstUtcSample_keeps {r0 : State} (s : State) (o : Int) (h0 : Keeps r0 s) : Keeps r0 (State.cstUtcSample
    s o) := by
  unfold State.cstUtcSample
  with_reducible repeat' first
    | assumption | intro _ | exact Keeps.refl _ | subst x
    | (extract_lets +onlyGivenNames x; first | (have hx : Keeps r0 x := ?_; clear_value x) | (have hx : Keeps r0 x.1 := ?_; clear_value x) | (have hf := fun a => x a; clear hf) | (have hf : CiphState := x; clear hf) | (have hf : SecState := x; clear hf) | clear_value x)
    | exact id_keeps _ | apply ite_keeps | apply State.modCst_keeps | apply State.cstFlag_keeps
    | apply State.cstCount_keeps | apply State.cstUtcTake_keeps | dsimp only | split

theorem State.cstTimed_keeps {r0 : State} (s : State) (h0 : Keeps r0 s) : Keeps r0 (State.cstTimed s) := by
  unfold State.cstTimed
  with_reducible repeat' first
    | assumption | intro _ | exact Keeps.refl _ | subst x
    | (extract_lets +onlyGivenNames x; first | (have hx : Keeps r0 x := ?_; clear_value x) | (have hx : Keeps r0 x.1 := ?_; clear_value x) | (have hf := fun a => x a; clear hf) | (have hf : CiphState := x; clear hf) | (have hf : SecState := x; clear hf) | clear_value x)
    | exact id_keeps _ | apply ite_keeps | apply itep_keeps | apply State.modCst_keeps | apply State.cstNew_keeps
    | apply State.cstGather_keeps | apply foldl_keeps_of | dsimp only | (apply fst_keeps; assumption) | split

theorem State.tb3Step_keeps {r0 : State} (s : State) (ofs : Int) (h0 : Keeps r0 s) : Keeps r0 (State.tb3Step s ofs)
    := by
  unfold State.tb3Step
  with_reducible repeat' first
    | assumption | intro _ | exact Keeps.refl _ | subst x
    | (extract_lets +onlyGivenNames x; first | (have hx : Keeps r0 x := ?_; clear_value x) | (have hx : Keeps r0 x.1 := ?_; clear_value x) | (have hf := fun a => x a; clear hf) | (have hf : CiphState := x; clear hf) | (have hf : SecState := x; clear hf) | clear_value x)
    | apply ite_keeps | apply State.modCst_keeps | apply State.cstFlag_keeps | apply State.cstCount_keeps
    | apply State.cstClose_keeps | apply State.cstGather_keeps | apply foldl_keeps_of | dsimp only | split

theorem State.jumpAccepted_keeps {r0 : State} (s : State) (ofs : Int) (h0 : Keeps r0 s) : Keeps r0
    (State.jumpAccepted s ofs) := by
  unfold State.jumpAccepted
  with_reducible repeat' first
    | assumption | intro _ | exact Keeps.refl _ | subst x
    | (extract_lets +onlyGivenNames x; first | (have hx : Keeps r0 x := ?_; clear_value x) | (have hx : Keeps r0 x.1 := ?_; clear_value x) | (have hf := fun a => x a; clear hf) | (have hf : CiphState := x; clear hf) | (have hf : SecState := x; clear hf) | clear_value x)
    | apply ite_keeps | apply State.modCst_keeps | apply State.tb3Enter_keeps | apply State.cstCount_keeps
    | apply State.tb3Rate_keeps | apply State.tb3Step_keeps | dsimp only | split

theorem State.tb3Sample_keeps {r0 : State} (s : State) (ofs : Int) (h0 : Keeps r0 s) : Keeps r0 (State.tb3Sample s
    ofs) := by
  unfold State.tb3Sample
  with_reducible repeat' first
    | assumption | intro _ | exact Keeps.refl _ | subst x
    | (extract_lets +onlyGivenNames x; first | (have hx : Keeps r0 x := ?_; clear_value x) | (have hx : Keeps r0 x.1 := ?_; clear_value x) | (have hf := fun a => x a; clear hf) | (have hf : CiphState := x; clear hf) | (have hf : SecState := x; clear hf) | clear_value x)
    | apply ite_keeps | apply State.modCst_keeps | apply State.cstFlag_keeps | apply State.tb3Enter_keeps
    | apply State.cstCount_keeps | apply State.tb3Follow_keeps | apply State.cstTimed_keeps
    | apply State.jumpAccepted_keeps | dsimp only | split

theorem State.cstSave_keeps {r0 : State} (s : State) (h0 : Keeps r0 s) : Keeps r0 (State.cstSave s) := by
  unfold State.cstSave
  with_reducible repeat' first
    | assumption | intro _ | exact Keeps.refl _ | subst x
    | (extract_lets +onlyGivenNames x; first | (have hx : Keeps r0 x := ?_; clear_value x) | (have hx : Keeps r0 x.1 := ?_; clear_value x) | (have hf := fun a => x a; clear hf) | (have hf : CiphState := x; clear hf) | (have hf : SecState := x; clear hf) | clear_value x)
    | apply ite_keeps | apply State.modCst_keeps | apply State.cstCount_keeps | dsimp only | split

theorem State.cstReset_keeps {r0 : State} (s : State) (h0 : Keeps r0 s) : Keeps r0 (State.cstReset s) := by
  unfold State.cstReset
  with_reducible repeat' first
    | assumption | intro _ | exact Keeps.refl _ | subst x
    | (extract_lets +onlyGivenNames x; first | (have hx : Keeps r0 x := ?_; clear_value x) | (have hx : Keeps r0 x.1 := ?_; clear_value x) | (have hf := fun a => x a; clear hf) | (have hf : CiphState := x; clear hf) | (have hf : SecState := x; clear hf) | clear_value x)
    | apply ite_keeps | apply State.setWide_keeps | apply State.refChanged_keeps | apply State.cstShow_keeps
    | dsimp only | split | refine Keeps.raw ?_ rfl rfl rfl

theorem State.cstRequest_keeps {r0 : State} (s : State) (by_ : Source) (h0 : Keeps r0 s) : Keeps r0 (State.cstRequest
    s by_) := by
  unfold State.cstRequest
  with_reducible repeat' first
    | assumption | apply ite_keeps | apply State.refuse_keeps | apply State.answer_keeps | apply State.cstReset_keeps
    | apply State.cstSave_keeps

theorem State.patchGo_keeps {r0 : State} (s : State) (h0 : Keeps r0 s) : Keeps r0 (State.patchGo s) := by
  unfold State.patchGo
  with_reducible repeat' first | assumption | apply ite_keeps | apply State.logAcc_keeps | apply State.modCst_keeps

theorem State.cstSelect_keeps {r0 : State} (s : State) (by_ : Source) (seq : Nat) (h0 : Keeps r0 s) : Keeps r0
    (State.cstSelect s by_ seq) := by
  unfold State.cstSelect
  with_reducible repeat' first
    | assumption | exact Keeps.refl _ | exact id_keeps _ | exact ⟨Nat.le_refl _, fun _ => rfl⟩ | apply ite_keeps
    | apply itep_keeps | apply State.modCst_keeps | apply foldl_keeps | apply foldlp_keeps | intro _
    | (extract_lets +onlyGivenNames x; first | (have hx : Keeps r0 x := ?_; clear_value x) | (have hx : Keeps r0 x.1 := ?_; clear_value x) | (have hf := fun a => x a; clear hf) | (have hf : CiphState := x; clear hf) | (have hf : SecState := x; clear hf) | clear_value x)
    | subst x | dsimp only | (apply fst_keeps; assumption) | split | refine Keeps.raw ?_ rfl rfl rfl

/-! ### Sec.lean -/

theorem State.writeRwl_keeps {r0 : State} (s : State) (by_ : Source) (a : Nat) (r : RegRow) (v : Nat) (h0 : Keeps r0
    s) : Keeps r0 (State.writeRwl s by_ a r v).1 := by
  unfold State.writeRwl
  with_reducible repeat' first
    | assumption | apply ite_keeps | apply State.setNat_keeps | apply State.logAcc_keeps | split

theorem State.imageInForce_keeps {r0 : State} (s : State) (kind : Nat) (b : Option Bool) (img : List Byte) (h0 : Keeps
    r0 s) : Keeps r0 (State.imageInForce s kind b img) := by
  unfold State.imageInForce
  with_reducible repeat' first
    | assumption | exact Keeps.refl _ | exact ⟨Nat.le_refl _, fun _ => rfl⟩ | apply ite_keeps | apply itep_keeps
    | apply State.modSec_keeps | apply foldl_keeps | intro _
    | (extract_lets +onlyGivenNames x; first | (have hx : Keeps r0 x := ?_; clear_value x) | (have hx : Keeps r0 x.1 := ?_; clear_value x) | (have hf := fun a => x a; clear hf) | (have hf : CiphState := x; clear hf) | (have hf : SecState := x; clear hf) | clear_value x)
    | split

theorem State.showPrefs_keeps {r0 : State} (s : State) (h0 : Keeps r0 s) : Keeps r0 (State.showPrefs s) := by
  unfold State.showPrefs
  with_reducible repeat' first | assumption | apply State.set_keeps

theorem State.imgCode_keeps {r0 : State} (s : State) (c : Nat) (h0 : Keeps r0 s) : Keeps r0 (State.imgCode s c) := by
  unfold State.imgCode
  with_reducible repeat' first | assumption | apply State.set_keeps

theorem State.imgWindowPut_keeps {r0 : State} (s : State) (bs : List Byte) (h0 : Keeps r0 s) : Keeps r0
    (State.imgWindowPut s bs) := by
  unfold State.imgWindowPut
  with_reducible repeat' first
    | assumption | exact Keeps.refl _ | apply ite_keeps | apply itep_keeps | apply State.setNat_keeps
    | apply foldl_keeps | intro _
    | (extract_lets +onlyGivenNames x; first | (have hx : Keeps r0 x := ?_; clear_value x) | (have hx : Keeps r0 x.1 := ?_; clear_value x) | (have hf := fun a => x a; clear hf) | (have hf : CiphState := x; clear hf) | (have hf : SecState := x; clear hf) | clear_value x)
    | split

theorem State.imgBegin_keeps {r0 : State} (s : State) (h0 : Keeps r0 s) : Keeps r0 (State.imgBegin s).1 := by
  unfold State.imgBegin
  with_reducible repeat' first
    | assumption | exact Keeps.refl _ | exact ⟨Nat.le_refl _, fun _ => rfl⟩ | apply ite_keeps | apply itep_keeps
    | apply State.imgCode_keeps | apply State.modSec_keeps | apply State.set_keeps | apply foldl_keeps | intro _
    | (extract_lets +onlyGivenNames x; first | (have hx : Keeps r0 x := ?_; clear_value x) | (have hx : Keeps r0 x.1 := ?_; clear_value x) | (have hf := fun a => x a; clear hf) | (have hf : CiphState := x; clear hf) | (have hf : SecState := x; clear hf) | clear_value x)
    | split

theorem State.imgAppend_keeps {r0 : State} (s : State) (len : Nat) (h0 : Keeps r0 s) : Keeps r0 (State.imgAppend s
    len).1 := by
  unfold State.imgAppend
  with_reducible repeat' first
    | assumption | intro _ | exact Keeps.refl _ | subst x
    | (extract_lets +onlyGivenNames x; first | (have hx : Keeps r0 x := ?_; clear_value x) | (have hx : Keeps r0 x.1 := ?_; clear_value x) | (have hf := fun a => x a; clear hf) | (have hf : CiphState := x; clear hf) | (have hf : SecState := x; clear hf) | clear_value x)
    | exact ⟨Nat.le_refl _, fun _ => rfl⟩ | apply ite_keeps | apply itep_keeps | apply State.set_keeps
    | apply State.modSec_keeps | apply State.imgCode_keeps | dsimp only | (apply fst_keeps; assumption) | split

theorem State.imgCommit_keeps {r0 : State} (s : State) (h0 : Keeps r0 s) : Keeps r0 (State.imgCommit s).1 := by
  unfold State.imgCommit
  with_reducible repeat' first
    | assumption | apply ite_keeps | apply State.raise_keeps | apply State.imgCode_keeps | apply State.setB_keeps
    | split

theorem State.imgCancel_keeps {r0 : State} (s : State) (h0 : Keeps r0 s) : Keeps r0 (State.imgCancel s).1 := by
  unfold State.imgCancel
  with_reducible repeat' first
    | assumption | exact Keeps.refl _ | exact ⟨Nat.le_refl _, fun _ => rfl⟩ | apply ite_keeps | apply itep_keeps
    | apply State.imgCode_keeps | apply State.setB_keeps | apply State.modSec_keeps | apply foldl_keeps | intro _
    | (extract_lets +onlyGivenNames x; first | (have hx : Keeps r0 x := ?_; clear_value x) | (have hx : Keeps r0 x.1 := ?_; clear_value x) | (have hf := fun a => x a; clear hf) | (have hf : CiphState := x; clear hf) | (have hf : SecState := x; clear hf) | clear_value x)
    | split

-- the pair stands under an equation, so that the kernel compares it as it is and does not run the image's check
theorem State.imgRecover_keeps {r0 : State} (s : State) (h0 : Keeps r0 s) : Keeps r0 (State.imgRecover s).1 := by
  generalize e : s.imgRecover = p
  unfold State.imgRecover at e
  split at e
  · subst e; exact h0
  · extract_lets img c t at e
    split at e <;> subst e
    · exact State.imgCode_keeps _ _ h0
    · exact State.imgCode_keeps _ _ (State.set_keeps _ _ _ (State.setB_keeps _ _ _ (State.modSec_keeps
        (State.imageInForce_keeps _ _ _ _ h0) _ ⟨Nat.le_refl _, fun _ => rfl⟩)))

theorem State.writeImgCtrl_keeps {r0 : State} (s : State) (v : Nat) (h0 : Keeps r0 s) : Keeps r0 (s.writeImgCtrl v).1 := by
  unfold State.writeImgCtrl
  extract_lets s1 r
  have h1 : Keeps r0 s1 := State.setNat_keeps _ _ _ h0
  clear_value s1
  show Keeps r0 r.1
  unfold r
  split
  · exact State.imgBegin_keeps _ h1
  · exact State.imgAppend_keeps _ _ h1
  · exact State.imgCommit_keeps _ h1
  · exact State.imgCancel_keeps _ h1
  · exact State.imgRecover_keeps _ h1
  · exact h1

theorem State.advanceSvn_keeps {r0 : State} (s : State) (h0 : Keeps r0 s) : Keeps r0 s.advanceSvn := by
  unfold State.advanceSvn
  extract_lets hd sv
  split
  · rename_i c
    simp only [Bool.and_eq_true, decide_eq_true_eq] at c
    exact State.set_keeps _ _ _ (State.modSec_keeps h0 _ ⟨Nat.le_of_lt c.2, fun _ => rfl⟩)
  · exact h0

theorem State.lockWindow_keeps {r0 : State} (s : State) (h0 : Keeps r0 s) : Keeps r0 (State.lockWindow s) := by
  unfold State.lockWindow
  with_reducible repeat' first
    | assumption | exact Keeps.refl _ | exact ⟨Nat.le_refl _, fun _ => rfl⟩ | apply ite_keeps | apply itep_keeps
    | apply State.modSec_keeps | apply State.advanceSvn_keeps | apply State.setB_keeps | apply foldl_keeps | intro _
    | (extract_lets +onlyGivenNames x; first | (have hx : Keeps r0 x := ?_; clear_value x) | (have hx : Keeps r0 x.1 := ?_; clear_value x) | (have hf := fun a => x a; clear hf) | (have hf : CiphState := x; clear hf) | (have hf : SecState := x; clear hf) | clear_value x)
    | split

theorem State.fuseHash_keeps {r0 : State} (s : State) (h0 : Keeps r0 s) : Keeps r0 s.fuseHash := by
  unfold State.fuseHash
  split
  · exact State.logAcc_keeps _ _ _ _ h0
  · rename_i c
    simp only [Bool.or_eq_true, not_or] at c
    exact State.setB_keeps _ _ _ (State.modSec_keeps h0 _ ⟨Nat.le_refl _, fun k => absurd k c.1⟩)

theorem State.attRequest_keeps {r0 : State} (s : State) (by_ : Source) (nonce : List Byte) (h0 : Keeps r0 s) : Keeps
    r0 (State.attRequest s by_ nonce).1 := by
  unfold State.attRequest
  with_reducible repeat' first
    | assumption | exact Keeps.refl _ | exact ⟨Nat.le_refl _, fun _ => rfl⟩ | apply ite_keeps | apply itep_keeps
    | apply State.logAcc_keeps | apply State.setB_keeps | apply State.modSec_keeps | apply foldl_keeps | intro _
    | (extract_lets +onlyGivenNames x; first | (have hx : Keeps r0 x := ?_; clear_value x) | (have hx : Keeps r0 x.1 := ?_; clear_value x) | (have hf := fun a => x a; clear hf) | (have hf : CiphState := x; clear hf) | (have hf : SecState := x; clear hf) | clear_value x)
    | split

/-! ### Reset.lean -/

theorem State.endFreeze_keeps {r0 : State} (s : State) (h0 : Keeps r0 s) : Keeps r0 (State.endFreeze s) := by
  unfold State.endFreeze
  with_reducible repeat' first
    | assumption | intro _ | exact Keeps.refl _ | subst x
    | (extract_lets +onlyGivenNames x; first | (have hx : Keeps r0 x := ?_; clear_value x) | (have hx : Keeps r0 x.1 := ?_; clear_value x) | (have hf := fun a => x a; clear hf) | (have hf : CiphState := x; clear hf) | (have hf : SecState := x; clear hf) | clear_value x)
    | apply ite_keeps | apply State.waitClk_keeps | apply State.flushHeld_keeps | apply foldl_keeps_of | dsimp only
    | split | refine Keeps.raw ?_ rfl rfl rfl

theorem State.laneReset_keeps {r0 : State} (s : State) (n : Lane) (h0 : Keeps r0 s) :
    Keeps r0 (s.laneReset n) := by
  unfold State.laneReset
  extract_lets s1 s2 s3 base s4 s5
  have h1 : Keeps r0 s1 := State.touch_keeps _ _ (State.modPmon_keeps _ _ _ h0)
  clear_value s1
  have h3 : Keeps r0 s3 := State.kscReset_keeps _ _ (State.calLaneReset_keeps _ _ (State.fecFlush_keeps _ _ h1))
  clear_value s3
  have h4 : Keeps r0 s4 := State.resetRange_keeps h3 _ _ _
  clear_value s4
  have h5 : Keeps r0 s5 := State.touch_keeps _ _ (State.modLane_keeps h4 _ _)
  clear_value s5
  exact State.timeRefresh_keeps _ (State.refChanged_keeps _ _ (State.memLane_keeps _ _ h5))

theorem State.groupReset_keeps {r0 : State} (s : State) (g : Nat) (h0 : Keeps r0 s) : Keeps r0 (State.groupReset s g)
    := by
  unfold State.groupReset
  with_reducible repeat' first
    | assumption | intro _ | exact Keeps.refl _ | subst x
    | (extract_lets +onlyGivenNames x; first | (have hx : Keeps r0 x := ?_; clear_value x) | (have hx : Keeps r0 x.1 := ?_; clear_value x) | (have hf := fun a => x a; clear hf) | (have hf : CiphState := x; clear hf) | (have hf : SecState := x; clear hf) | clear_value x)
    | apply ite_keeps | apply State.resetRange_keeps | apply State.memGroup_keeps | apply State.reselect_keeps
    | apply State.refUpdate_keeps | apply State.showPorts_keeps | apply State.cliReset_keeps | apply foldl_keeps_of
    | dsimp only | split

theorem State.cipherReset_keeps {r0 : State} (s : State) (h0 : Keeps r0 s) : Keeps r0 (State.cipherReset s) := by
  unfold State.cipherReset
  with_reducible repeat' first
    | assumption | apply State.ciphReset_keeps | apply State.resetRange_keeps | apply State.memCiph_keeps

theorem State.functionEnter_keeps {r0 : State} (s : State) (k : Nat) (h0 : Keeps r0 s) : Keeps r0 (State.functionEnter
    s k) := by
  unfold State.functionEnter
  with_reducible repeat' first
    | assumption | exact Keeps.refl _ | apply ite_keeps | apply itep_keeps | apply State.set_keeps
    | apply State.endFreeze_keeps | apply State.laneReset_keeps | apply State.groupReset_keeps
    | apply State.cipherReset_keeps | apply State.timeRefresh_keeps | apply State.eachLane_keeps
    | apply State.kscReset_keeps | apply State.pluResetEnter_keeps | apply State.hkmReset_keeps
    | apply State.resetRange_keeps | apply State.calReset_keeps | apply foldl_keeps | intro _
    | (extract_lets +onlyGivenNames x; first | (have hx : Keeps r0 x := ?_; clear_value x) | (have hx : Keeps r0 x.1 := ?_; clear_value x) | (have hf := fun a => x a; clear hf) | (have hf : CiphState := x; clear hf) | (have hf : SecState := x; clear hf) | clear_value x)
    | split

theorem State.parityRelease_keeps {r0 : State} (s : State) (k : Nat) (h0 : Keeps r0 s) : Keeps r0 (State.parityRelease
    s k) := by
  unfold State.parityRelease
  with_reducible repeat' first
    | assumption | exact Keeps.refl _ | exact ⟨Nat.le_refl _, fun _ => rfl⟩ | apply ite_keeps | apply itep_keeps
    | apply State.setReg_keeps | apply State.modSec_keeps | apply foldl_keeps | intro _
    | (extract_lets +onlyGivenNames x; first | (have hx : Keeps r0 x := ?_; clear_value x) | (have hx : Keeps r0 x.1 := ?_; clear_value x) | (have hf := fun a => x a; clear hf) | (have hf : CiphState := x; clear hf) | (have hf : SecState := x; clear hf) | clear_value x)
    | split

theorem State.laneShow_keeps {r0 : State} (s : State) (n : Lane) (h0 : Keeps r0 s) : Keeps r0 (State.laneShow s n) :=
    by
  unfold State.laneShow
  with_reducible repeat' first
    | assumption | intro _ | exact Keeps.refl _ | subst x
    | (extract_lets +onlyGivenNames x; first | (have hx : Keeps r0 x := ?_; clear_value x) | (have hx : Keeps r0 x.1 := ?_; clear_value x) | (have hf := fun a => x a; clear hf) | (have hf : CiphState := x; clear hf) | (have hf : SecState := x; clear hf) | clear_value x)
    | apply ite_keeps | apply State.setB_keeps | apply State.showTxFmt_keeps | apply State.showRxFmt_keeps
    | apply State.refChanged_keeps | apply State.lfrDefects_keeps | apply State.showOwner_keeps
    | apply State.showLoLim_keeps | apply State.latchModes_keeps | apply State.nlcChanged_keeps
    | apply State.kscJudge_keeps | dsimp only | split

theorem State.functionLeave_keeps {r0 : State} (s : State) (k : Nat) (h0 : Keeps r0 s) : Keeps r0
    (State.functionLeave s k) := by
  unfold State.functionLeave
  with_reducible repeat' first
    | assumption | intro _ | exact Keeps.refl _ | subst x
    | (extract_lets +onlyGivenNames x; first | (have hx : Keeps r0 x := ?_; clear_value x) | (have hx : Keeps r0 x.1 := ?_; clear_value x) | (have hf := fun a => x a; clear hf) | (have hf : CiphState := x; clear hf) | (have hf : SecState := x; clear hf) | clear_value x)
    | apply ite_keeps | apply State.set_keeps | apply State.eachLane_keeps_of | apply State.fillsEnd_keeps
    | apply State.pluResetLeave_keeps | apply State.timeRefresh_keeps | apply State.kscRefresh_keeps
    | apply State.groupsRefresh_keeps | apply State.hkmShow_keeps | apply State.hkmDefault_keeps
    | apply State.loZero_keeps | apply State.kscJudge_keeps | apply State.courseRelease_keeps
    | apply State.calLoad_keeps | apply State.parityRelease_keeps | apply State.laneShow_keeps | dsimp only | split

theorem State.writeRstBit_keeps {r0 : State} (s : State) (k : Nat) (v : Bool) (h0 : Keeps r0 s) : Keeps r0
    (State.writeRstBit s k v) := by
  unfold State.writeRstBit
  with_reducible repeat' first | assumption | apply ite_keeps | apply State.setB_keeps | apply State.functionEnter_keeps

theorem State.writeLodgeBit_keeps {r0 : State} (s : State) (k : Nat) (v : Bool) (h0 : Keeps r0 s) : Keeps r0
    (State.writeLodgeBit s k v) := by
  unfold State.writeLodgeBit
  with_reducible repeat' first | assumption | apply ite_keeps | apply State.setB_keeps

theorem State.ciphUnblock_keeps {r0 : State} (s : State) (h0 : Keeps r0 s) : Keeps r0 (State.ciphUnblock s) := by
  unfold State.ciphUnblock
  with_reducible repeat' first
    | assumption | exact Keeps.refl _ | apply ite_keeps | split | refine Keeps.raw ?_ rfl rfl rfl

theorem State.laneSafe_keeps {r0 : State} (s : State) (n : Lane) (h0 : Keeps r0 s) : Keeps r0 (State.laneSafe s n) := by
  unfold State.laneSafe
  with_reducible repeat' first
    | assumption | apply ite_keeps | apply State.modConv_keeps | apply State.raise_keeps | apply State.emit_keeps
    | apply State.modKsc_keeps

theorem State.safeEnter_keeps {r0 : State} (s : State) (b : Nat) (h0 : Keeps r0 s) : Keeps r0 (State.safeEnter s b)
    := by
  unfold State.safeEnter
  with_reducible repeat' first
    | assumption | intro _ | exact Keeps.refl _ | subst x
    | (extract_lets +onlyGivenNames x; first | (have hx : Keeps r0 x := ?_; clear_value x) | (have hx : Keeps r0 x.1 := ?_; clear_value x) | (have hf := fun a => x a; clear hf) | (have hf : CiphState := x; clear hf) | (have hf : SecState := x; clear hf) | clear_value x)
    | apply ite_keeps | apply State.set_keeps | apply State.zeroAll_keeps | apply State.servosHold_keeps
    | apply State.launchesCancel_keeps | apply State.faultAction_keeps | apply State.hkmSafe_keeps
    | apply State.modCrs_keeps | apply State.calSafe_keeps | apply State.laneSafe_keeps | apply foldl_keeps_of
    | dsimp only | split

theorem State.cfgParity_keeps {r0 : State} (s : State) (a : Nat) (h0 : Keeps r0 s) : Keeps r0 (State.cfgParity s a) := by
  unfold State.cfgParity
  with_reducible repeat' first
    | assumption | exact Keeps.refl _ | apply ite_keeps | apply itep_keeps | apply State.setNat_keeps
    | apply State.raise_keeps | apply State.safeEnter_keeps | apply foldl_keeps | intro _
    | (extract_lets +onlyGivenNames x; first | (have hx : Keeps r0 x := ?_; clear_value x) | (have hx : Keeps r0 x.1 := ?_; clear_value x) | (have hf := fun a => x a; clear hf) | (have hf : CiphState := x; clear hf) | (have hf : SecState := x; clear hf) | clear_value x)
    | split

/-! ### Boot.lean -/

theorem State.coldReset_keeps {r0 : State} (s : State) (h0 : Keeps r0 s) : Keeps r0 s.coldReset := by
  unfold State.coldReset
  extract_lets s1 t
  have h1 : Keeps r0 s1 := State.eachLane_keeps h0 _ fun n t =>
    ite_keeps _ _ _ (State.emit_keeps _ _ (Keeps.refl _)) (Keeps.refl _)
  clear_value s1
  refine State.cstShow_keeps _ (h1.trans ?_)
  exact ⟨rfl, storeWf_filter _ _, Nat.le_refl _, Nat.le_refl _, rfl, Nat.le_refl _, fun _ => rfl⟩

theorem State.bootStart_keeps {r0 : State} (s : State) (h0 : Keeps r0 s) : Keeps r0 (State.bootStart s) := by
  unfold State.bootStart
  with_reducible repeat' first
    | assumption | exact Keeps.refl _ | exact id_keeps _ | exact ⟨Nat.le_refl _, fun _ => rfl⟩ | apply ite_keeps
    | apply itep_keeps | apply State.memFillStart_keeps | apply State.showPrefs_keeps | apply State.setB_keeps
    | apply State.set_keeps | apply State.oscinFails_keeps | apply foldl_keeps | apply foldlp_keeps | intro _
    | (extract_lets +onlyGivenNames x; first | (have hx : Keeps r0 x := ?_; clear_value x) | (have hx : Keeps r0 x.1 := ?_; clear_value x) | (have hf := fun a => x a; clear hf) | (have hf : CiphState := x; clear hf) | (have hf : SecState := x; clear hf) | clear_value x)
    | subst x | dsimp only | (apply fst_keeps; assumption) | split | refine Keeps.raw ?_ rfl rfl rfl

theorem State.tryRelease_keeps {r0 : State} (s : State) (h0 : Keeps r0 s) : Keeps r0 (State.tryRelease s) := by
  unfold State.tryRelease
  with_reducible repeat' first | assumption | apply ite_keeps | apply State.bootStart_keeps

theorem State.bootStep_keeps {r0 : State} (s : State) (k : Nat) (h0 : Keeps r0 s) : Keeps r0 (State.bootStep s k) := by
  unfold State.bootStep
  with_reducible repeat' first
    | assumption | exact Keeps.refl _ | exact ⟨Nat.le_refl _, fun _ => rfl⟩ | apply ite_keeps | apply itep_keeps
    | apply State.modSec_keeps | apply foldl_keeps | intro _
    | (extract_lets +onlyGivenNames x; first | (have hx : Keeps r0 x := ?_; clear_value x) | (have hx : Keeps r0 x.1 := ?_; clear_value x) | (have hf := fun a => x a; clear hf) | (have hf : CiphState := x; clear hf) | (have hf : SecState := x; clear hf) | clear_value x)
    | split

theorem State.bootFail_keeps {r0 : State} (s : State) (h0 : Keeps r0 s) : Keeps r0 (State.bootFail s) := by
  unfold State.bootFail
  with_reducible repeat' first
    | assumption | apply State.set_keeps | apply State.setB_keeps | apply State.bootStep_keeps

theorem State.releaseAll_keeps {r0 : State} (s : State) (h0 : Keeps r0 s) : Keeps r0 (State.releaseAll s) := by
  unfold State.releaseAll
  with_reducible repeat' first
    | assumption | exact Keeps.refl _ | apply ite_keeps | apply itep_keeps | apply State.functionLeave_keeps
    | apply State.functionEnter_keeps | apply State.set_keeps | apply foldl_keeps | intro _
    | (extract_lets +onlyGivenNames x; first | (have hx : Keeps r0 x := ?_; clear_value x) | (have hx : Keeps r0 x.1 := ?_; clear_value x) | (have hf := fun a => x a; clear hf) | (have hf : CiphState := x; clear hf) | (have hf : SecState := x; clear hf) | clear_value x)
    | split

theorem State.linkShow_keeps {r0 : State} (s : State) (i : Nat) (h0 : Keeps r0 s) : Keeps r0 (State.linkShow s i) := by
  unfold State.linkShow
  with_reducible repeat' first | assumption | apply State.setObj_keeps

theorem State.showAll_keeps {r0 : State} (s : State) (h0 : Keeps r0 s) : Keeps r0 (State.showAll s) := by
  unfold State.showAll
  with_reducible repeat' first
    | assumption | intro _ | exact Keeps.refl _ | subst x
    | (extract_lets +onlyGivenNames x; first | (have hx : Keeps r0 x := ?_; clear_value x) | (have hx : Keeps r0 x.1 := ?_; clear_value x) | (have hf := fun a => x a; clear hf) | (have hf : CiphState := x; clear hf) | (have hf : SecState := x; clear hf) | clear_value x)
    | apply ite_keeps | apply State.eachLane_keeps_of | apply State.reselect_keeps | apply State.refUpdate_keeps
    | apply State.timeRefresh_keeps | apply State.groupsRefresh_keeps | apply State.hkmShow_keeps
    | apply State.kscRefresh_keeps | apply State.laneShow_keeps | apply State.linkShow_keeps | apply foldl_keeps_of
    | dsimp only | split

theorem State.warmRequest_keeps {r0 : State} (s : State) (h0 : Keeps r0 s) : Keeps r0 (State.warmRequest s) := by
  unfold State.warmRequest
  with_reducible repeat' first
    | assumption | exact Keeps.refl _ | exact ⟨Nat.le_refl _, fun _ => rfl⟩ | apply ite_keeps | apply itep_keeps
    | apply State.setB_keeps | apply State.modSec_keeps | apply foldl_keeps | intro _
    | (extract_lets +onlyGivenNames x; first | (have hx : Keeps r0 x := ?_; clear_value x) | (have hx : Keeps r0 x.1 := ?_; clear_value x) | (have hf := fun a => x a; clear hf) | (have hf : CiphState := x; clear hf) | (have hf : SecState := x; clear hf) | clear_value x)
    | split

end Sys2Proof.Machine
end

