-- ==== Sys2Proof/Laws/KeepsAccess.lean ====
section
/-!
SUPPORT. No operation undoes what `Keeps` lists: register accesses, objects, COP and the hierarchy.
-/

-- one theorem after another: all at once would not fit the memory
set_option Elab.async false
set_option linter.all false

namespace Sys2Proof.Machine

/-! ### Access.lean -/

theorem State.refreshFor_keeps {r0 : State} (s : State) (b : Block) (h0 : Keeps r0 s) : Keeps r0 (s.refreshFor b) := by
  unfold State.refreshFor
  split
  · exact State.pluRefresh_keeps _ h0
  · exact State.timeRefresh_keeps _ (State.syncTbs_keeps _ h0)
  · exact h0

theorem State.levelRead_keeps {r0 : State} (s : State) (number : Nat) (h0 : Keeps r0 s) : Keeps r0 (State.levelRead s
    number) := by
  unfold State.levelRead
  with_reducible repeat' first | assumption | apply ite_keeps | apply State.setB_keeps | apply State.setNat_keeps

theorem State.readWord_keeps {r0 : State} (s : State) (a : Nat) (h0 : Keeps r0 s) : Keeps r0 (State.readWord s a).1
    := by
  unfold State.readWord
  with_reducible repeat' first
    | assumption | intro _ | exact Keeps.refl _ | subst x
    | (extract_lets +onlyGivenNames x; first | (have hx : Keeps r0 x := ?_; clear_value x) | (have hx : Keeps r0 x.1 := ?_; clear_value x) | (have hf := fun a => x a; clear hf) | (have hf : CiphState := x; clear hf) | (have hf : SecState := x; clear hf) | clear_value x)
    | apply ite_keeps | apply itep_keeps | apply State.logAcc_keeps | apply State.memCheck_keeps
    | apply State.memFlush_keeps | apply State.hkmRead_keeps | apply State.refreshFor_keeps
    | apply State.levelRead_keeps | apply foldl_keeps_of | dsimp only | (apply fst_keeps; assumption) | split
    | apply foldlp_keeps_of | refine Keeps.raw ?_ rfl rfl rfl

theorem State.readPcie_keeps {r0 : State} (s : State) (addr size : Nat) (contiguous : Bool) (h0 : Keeps r0 s) :
    Keeps r0 (s.readPcie addr size contiguous) := by
  have e : ∀ t (x : Emit), Keeps r0 t → Keeps r0 (t.emit x) := fun t x h => State.emit_keeps _ _ h
  unfold State.readPcie
  refine ite_keeps _ _ _ h0 (ite_keeps _ _ _ (e _ _ h0) (ite_keeps _ _ _ (e _ _ (State.logAcc_keeps _ _ _ _ h0))
    (ite_keeps _ _ _ (e _ _ (State.logAcc_keeps _ _ _ _ h0)) ?_)))
  extract_lets +onlyGivenNames words
  split
  · exact e _ _ (State.logAcc_keeps _ _ _ _ h0)
  · extract_lets r
    have h1 : Keeps r0 r.1 := by
      refine foldlp_keeps _ (fun p a => ?_) _ _ h0
      split
      · exact Keeps.refl _
      · exact State.readWord_keeps _ _ (Keeps.refl _)
    clear_value r
    split
    · exact e _ _ h1
    · exact e _ _ h1

theorem State.answered_keeps {r0 : State} (s : State) (f : State → State) (k_f : ∀ t, Keeps t (f t)) (h0 : Keeps r0 s) :
    Keeps r0 (s.answered f).1 := by
  unfold State.answered
  extract_lets +onlyGivenNames t
  have h1 : Keeps r0 t := h0.trans (k_f s)
  clear_value t
  extract_lets
  exact Keeps.raw h1 rfl rfl rfl

theorem toldAt_keeps {r0 : State} (by_ : Source) (a : Nat) (q : State × Code) (h0 : Keeps r0 q.1) :
    Keeps r0 (toldAt by_ a q).1 := State.told_keeps _ _ _ _ h0

theorem State.putPlain_keeps {r0 : State} (s : State) (h : RegHit) (a v : Nat) (h0 : Keeps r0 s) : Keeps r0
    (State.putPlain s h a v) := by
  unfold State.putPlain
  with_reducible repeat' first | assumption | apply State.irq_keeps | apply State.setNat_keeps

theorem State.maskLane_keeps {r0 : State} (s : State) (h : RegHit) (n : Lane) (a m v : Nat) (h0 : Keeps r0 s) : Keeps
    r0 (State.maskLane s h n a m v) := by
  unfold State.maskLane
  with_reducible repeat' first
    | assumption | intro _ | exact Keeps.refl _ | subst x
    | (extract_lets +onlyGivenNames x; first | (have hx : Keeps r0 x := ?_; clear_value x) | (have hx : Keeps r0 x.1 := ?_; clear_value x) | (have hf := fun a => x a; clear hf) | (have hf : CiphState := x; clear hf) | (have hf : SecState := x; clear hf) | clear_value x)
    | apply ite_keeps | apply State.setB_keeps | apply State.setNat_keeps | apply State.touch_keeps
    | apply State.clearBins_keeps | apply State.writeConvEn_keeps | apply State.writeRxdEn_keeps
    | apply State.acqRestart_keeps | apply State.writeLoMode_keeps | apply State.writeKsAssist_keeps
    | apply State.writeFmtSrc_keeps | apply State.txdNow_keeps | apply State.kscJudge_keeps
    | apply State.kscRefresh_keeps | dsimp only | split

theorem State.writeMasked_keeps {r0 : State} (s : State) (by_ : Source) (h : RegHit) (a m v : Nat) (h0 : Keeps r0 s)
    : Keeps r0 (State.writeMasked s by_ h a m v).1 := by
  unfold State.writeMasked
  with_reducible repeat' first
    | assumption | intro _ | exact Keeps.refl _ | subst x
    | (extract_lets +onlyGivenNames x; first | (have hx : Keeps r0 x := ?_; clear_value x) | (have hx : Keeps r0 x.1 := ?_; clear_value x) | (have hf := fun a => x a; clear hf) | (have hf : CiphState := x; clear hf) | (have hf : SecState := x; clear hf) | clear_value x)
    | apply ite_keeps | apply itep_keeps | apply State.setB_keeps | apply State.setNat_keeps
    | apply State.zeroAll_keeps | apply State.writePluCtrl_keeps | apply State.hostLevelNow_keeps
    | apply State.holdLevel_keeps | apply State.releaseLevel_keeps | apply State.ptpPorts_keeps
    | apply State.writePpsEn_keeps | apply State.groupsRefresh_keeps | apply State.writeHkmCtrl_keeps
    | apply State.lockWindow_keeps | apply State.writeRstBit_keeps | apply State.writeLodgeBit_keeps
    | apply State.ciphUnblock_keeps | apply State.warmRequest_keeps | apply State.answered_keeps
    | apply toldAt_keeps | apply State.maskLane_keeps | apply foldl_keeps_of | dsimp only
    | (apply fst_keeps; assumption) | split | apply foldlp_keeps_of

theorem State.writeCrsCmd_keeps {r0 : State} (s : State) (v : Nat) (h0 : Keeps r0 s) : Keeps r0 (State.writeCrsCmd s
    v) := by
  unfold State.writeCrsCmd
  with_reducible repeat' first
    | assumption | apply ite_keeps | apply State.setNat_keeps | apply State.commitPcie_keeps
    | apply State.discard_keeps | apply State.abort_keeps | apply State.logAcc_keeps | split

theorem State.writeMsix_keeps {r0 : State} (s : State) (i a v : Nat) (h0 : Keeps r0 s) : Keeps r0 (State.writeMsix s i
    a v) := by
  unfold State.writeMsix
  with_reducible repeat' first
    | assumption | exact Keeps.refl _ | exact id_keeps _ | exact ⟨Nat.le_refl _, fun _ => rfl⟩ | apply ite_keeps
    | apply itep_keeps | apply State.setNat_keeps | apply State.msix_keeps | apply foldl_keeps | apply foldlp_keeps
    | intro _
    | (extract_lets +onlyGivenNames x; first | (have hx : Keeps r0 x := ?_; clear_value x) | (have hx : Keeps r0 x.1 := ?_; clear_value x) | (have hf := fun a => x a; clear hf) | (have hf : CiphState := x; clear hf) | (have hf : SecState := x; clear hf) | clear_value x)
    | subst x | dsimp only | (apply fst_keeps; assumption) | split | refine Keeps.raw ?_ rfl rfl rfl

theorem State.writeGlb_keeps {r0 : State} (s : State) (by_ : Source) (h : RegHit) (a v : Nat) (h0 : Keeps r0 s) :
    Keeps r0 (State.writeGlb s by_ h a v).1 := by
  unfold State.writeGlb
  with_reducible repeat' first
    | assumption | exact Keeps.refl _ | apply ite_keeps | apply itep_keeps | apply State.putPlain_keeps
    | apply State.writeCrsCmd_keeps | apply State.answered_keeps | apply State.scheduleSlot_keeps
    | apply State.writeMsix_keeps | apply foldl_keeps | intro _
    | (extract_lets +onlyGivenNames x; first | (have hx : Keeps r0 x := ?_; clear_value x) | (have hx : Keeps r0 x.1 := ?_; clear_value x) | (have hf := fun a => x a; clear hf) | (have hf : CiphState := x; clear hf) | (have hf : SecState := x; clear hf) | clear_value x)
    | split

theorem State.writeSec_keeps {r0 : State} (s : State) (by_ : Source) (h : RegHit) (a v : Nat) (h0 : Keeps r0 s) :
    Keeps r0 (State.writeSec s by_ h a v).1 := by
  unfold State.writeSec
  with_reducible repeat' first
    | assumption | exact Keeps.refl _ | apply ite_keeps | apply itep_keeps | apply State.answered_keeps
    | apply State.cstRequest_keeps | apply State.fuseHash_keeps | apply State.attRequest_keeps
    | apply State.writeImgCtrl_keeps | apply State.putPlain_keeps | apply foldl_keeps | intro _
    | (extract_lets +onlyGivenNames x; first | (have hx : Keeps r0 x := ?_; clear_value x) | (have hx : Keeps r0 x.1 := ?_; clear_value x) | (have hf := fun a => x a; clear hf) | (have hf : CiphState := x; clear hf) | (have hf : SecState := x; clear hf) | clear_value x)
    | split

theorem State.writeCiph_keeps {r0 : State} (s : State) (by_ : Source) (h : RegHit) (a v : Nat) (h0 : Keeps r0 s) :
    Keeps r0 (State.writeCiph s by_ h a v).1 := by
  unfold State.writeCiph
  with_reducible repeat' first
    | assumption | exact Keeps.refl _ | apply ite_keeps | apply itep_keeps | apply State.putPlain_keeps
    | apply State.answered_keeps | apply State.loadClear_keeps | apply State.zeroiseSlot_keeps | apply toldAt_keeps
    | apply State.directIv_keeps | apply State.queueJob_keeps | apply State.winWrite_keeps | apply foldl_keeps
    | intro _
    | (extract_lets +onlyGivenNames x; first | (have hx : Keeps r0 x := ?_; clear_value x) | (have hx : Keeps r0 x.1 := ?_; clear_value x) | (have hf := fun a => x a; clear hf) | (have hf : CiphState := x; clear hf) | (have hf : SecState := x; clear hf) | clear_value x)
    | split

theorem State.writePlu_keeps {r0 : State} (s : State) (by_ : Source) (h : RegHit) (a v : Nat) (h0 : Keeps r0 s) :
    Keeps r0 (State.writePlu s by_ h a v).1 := by
  unfold State.writePlu
  with_reducible repeat' first
    | assumption | apply ite_keeps | apply State.addPhaseStep_keeps | apply toldAt_keeps
    | apply State.writeClkout_keeps | apply State.refChanged_keeps | apply State.putPlain_keeps
    | apply State.settleStep_keeps | split

theorem State.writeTime_keeps {r0 : State} (s : State) (by_ : Source) (h : RegHit) (a v : Nat) (h0 : Keeps r0 s) :
    Keeps r0 (State.writeTime s by_ h a v).1 := by
  unfold State.writeTime
  with_reducible repeat' first
    | assumption | apply ite_keeps | apply itep_keeps | apply State.putPlain_keeps | apply State.writeUtc_keeps
    | apply State.writeUtcAt_keeps | apply toldAt_keeps | apply State.tbSet_keeps | apply State.tbAdd_keeps
    | apply State.writeServo_keeps | apply State.writeHostOfs_keeps | apply State.timeRefresh_keeps
    | apply State.lineWritten_keeps
    | apply State.writeLaunch_keeps | apply State.winWrite_keeps | exact Keeps.refl _

theorem State.writeHkm_keeps {r0 : State} (s : State) (by_ : Source) (h : RegHit) (a v : Nat) (h0 : Keeps r0 s) :
    Keeps r0 (State.writeHkm s by_ h a v).1 := by
  unfold State.writeHkm
  with_reducible repeat' first
    | assumption | apply ite_keeps | apply toldAt_keeps | apply State.writeTrig_keeps | apply State.writePwmCfg_keeps
    | apply State.writePwmDuty_keeps | apply State.writeTimer_keeps | apply State.putPlain_keeps | split

theorem State.writeCst_keeps {r0 : State} (s : State) (by_ : Source) (h : RegHit) (a v : Nat) (h0 : Keeps r0 s) :
    Keeps r0 (State.writeCst s by_ h a v).1 := by
  unfold State.writeCst
  with_reducible repeat' first
    | assumption | apply ite_keeps | apply State.patchGo_keeps | apply State.setNat_keeps
    | apply State.cstSelect_keeps | apply State.logAcc_keeps | apply State.putPlain_keeps | split

theorem State.writeLane_keeps {r0 : State} (s : State) (by_ : Source) (h : RegHit) (a v : Nat) (h0 : Keeps r0 s) :
    Keeps r0 (State.writeLane s by_ h a v).1 := by
  unfold State.writeLane
  with_reducible repeat' first
    | assumption | intro _ | exact Keeps.refl _ | subst x
    | (extract_lets +onlyGivenNames x; first | (have hx : Keeps r0 x := ?_; clear_value x) | (have hx : Keeps r0 x.1 := ?_; clear_value x) | (have hf := fun a => x a; clear hf) | (have hf : CiphState := x; clear hf) | (have hf : SecState := x; clear hf) | clear_value x)
    | apply ite_keeps | apply itep_keeps | apply State.setNat_keeps | apply State.gaugeOff_keeps
    | apply State.writeRetire_keeps | apply State.capArm_keeps | apply State.capFire_keeps
    | apply State.kscRxStop_keeps | apply State.showLoLim_keeps | apply State.writeLoHost_keeps
    | apply State.showKsOn_keeps | apply toldAt_keeps | apply State.putPlain_keeps | dsimp only
    | (apply fst_keeps; assumption) | split

theorem State.parityAt_keeps {r0 : State} (s : State) (a : Nat) (h0 : Keeps r0 s) : Keeps r0 (State.parityAt s a) :=
  State.modSec_keeps h0 _ ⟨Nat.le_refl _, fun _ => rfl⟩

theorem State.writeReg_keeps {r0 : State} (s : State) (by_ : Source) (a v : Nat) (h0 : Keeps r0 s) : Keeps r0
    (State.writeReg s by_ a v).1 := by
  unfold State.writeReg
  with_reducible repeat' first
    | assumption | exact Keeps.refl _ | exact ⟨Nat.le_refl _, fun _ => rfl⟩ | apply ite_keeps | apply itep_keeps
    | apply State.logAcc_keeps | apply State.writeRwl_keeps | apply State.clearMix_keeps | apply State.setNat_keeps
    | apply State.writeMasked_keeps | apply State.parityAt_keeps | apply State.writeGlb_keeps
    | apply State.writeSec_keeps | apply State.writeCiph_keeps | apply State.writePlu_keeps
    | apply State.writeTime_keeps | apply State.writeHkm_keeps | apply State.writeCst_keeps | apply toldAt_keeps
    | apply State.writeCalCmd_keeps | apply State.putPlain_keeps | apply State.refChanged_keeps
    | apply State.writeLane_keeps | apply foldl_keeps | intro _
    | (extract_lets +onlyGivenNames x; first | (have hx : Keeps r0 x := ?_; clear_value x) | (have hx : Keeps r0 x.1 := ?_; clear_value x) | (have hf := fun a => x a; clear hf) | (have hf : CiphState := x; clear hf) | (have hf : SecState := x; clear hf) | clear_value x)
    | split

theorem State.writePcie_keeps {r0 : State} (s : State) (a v : Nat) (h0 : Keeps r0 s) : Keeps r0 (State.writePcie s a
    v) := by
  unfold State.writePcie
  with_reducible repeat' first
    | assumption | apply ite_keeps | apply State.logAcc_keeps | apply State.stagePcie_keeps
    | apply State.writeReg_keeps | (extract_lets +onlyGivenNames x; have hx : Keeps r0 x := ?_; clear_value x) | split

/-! ### Objects.lean -/

theorem State.refreshAt_keeps {r0 : State} (s : State) (a : Nat) (h0 : Keeps r0 s) : Keeps r0 (State.refreshAt s a) := by
  unfold State.refreshAt
  with_reducible repeat' first | assumption | apply ite_keeps | apply State.refreshFor_keeps | split

theorem State.readObj_keeps {r0 : State} (s : State) (k index sub : Nat) (bank : Option Level) (h0 : Keeps r0 s) :
    Keeps r0 (State.readObj s k index sub bank).1 := by
  unfold State.readObj
  with_reducible repeat' first
    | assumption | intro _ | exact Keeps.refl _ | subst x
    | (extract_lets +onlyGivenNames x; first | (have hx : Keeps r0 x := ?_; clear_value x) | (have hx : Keeps r0 x.1 := ?_; clear_value x) | (have hf := fun a => x a; clear hf) | (have hf : CiphState := x; clear hf) | (have hf : SecState := x; clear hf) | clear_value x)
    | apply ite_keeps | apply itep_keeps | apply State.takeFree_keeps | apply State.winGood_keeps
    | apply State.hkmRead_keeps | apply State.refreshAt_keeps | dsimp only | (apply fst_keeps; assumption) | split

theorem State.modSession_keeps {r0 : State} (s : State) (k : Nat) (f : Session → Session) (h0 : Keeps r0 s) : Keeps r0
    (State.modSession s k f) :=
  Keeps.raw h0 rfl rfl rfl

theorem State.allocate_keeps {r0 : State} (s : State) (k ns : Nat) (h0 : Keeps r0 s) : Keeps r0 (State.allocate s k
    ns).1 := by
  unfold State.allocate
  with_reducible repeat' first
    | assumption | exact Keeps.refl _ | exact id_keeps _ | exact ⟨Nat.le_refl _, fun _ => rfl⟩ | apply ite_keeps
    | apply itep_keeps | apply State.modSession_keeps | apply foldl_keeps | apply foldlp_keeps | intro _
    | (extract_lets +onlyGivenNames x; first | (have hx : Keeps r0 x := ?_; clear_value x) | (have hx : Keeps r0 x.1 := ?_; clear_value x) | (have hf := fun a => x a; clear hf) | (have hf : CiphState := x; clear hf) | (have hf : SecState := x; clear hf) | clear_value x)
    | subst x | dsimp only | (apply fst_keeps; assumption) | split | refine Keeps.raw ?_ rfl rfl rfl

theorem State.domainAbort_keeps {r0 : State} (s : State) (number : Nat) (h0 : Keeps r0 s) : Keeps r0 (s.domainAbort number) := by
  unfold State.domainAbort
  extract_lets s1
  have h1 : Keeps r0 s1 := by
    refine foldl_keeps _ (fun t p => ite_keeps _ _ _ ?_ (Keeps.refl _)) _ _ h0
    split
    · exact State.emit_keeps _ _ (Keeps.refl _)
    · exact Keeps.refl _
  clear_value s1
  split
  · exact h1
  · exact ite_keeps _ _ _ (State.abortArmed_keeps _ _ h1) h1

theorem State.launchObj_keeps {r0 : State} (s : State) (k : Nat) (v : List Byte) (h0 : Keeps r0 s) : Keeps r0
    (State.launchObj s k v).1 := by
  unfold State.launchObj
  with_reducible repeat' first
    | assumption | intro _ | exact Keeps.refl _ | subst x
    | (extract_lets +onlyGivenNames x; first | (have hx : Keeps r0 x := ?_; clear_value x) | (have hx : Keeps r0 x.1 := ?_; clear_value x) | (have hf := fun a => x a; clear hf) | (have hf : CiphState := x; clear hf) | (have hf : SecState := x; clear hf) | clear_value x)
    | apply ite_keeps | apply itep_keeps | apply State.setNat_keeps | apply State.modTime_keeps
    | apply State.launchPut_keeps | apply State.writeLaunch_keeps | dsimp only | (apply fst_keeps; assumption)
    | split

theorem State.writeCalc_keeps {r0 : State} (s : State) (k : Nat) (h : ObjHit) (index sub : Nat) (v : List Byte)
    (h0 : Keeps r0 s) : Keeps r0 (s.writeCalc k h index sub v).1 := by
  unfold State.writeCalc
  extract_lets by_ u ns ret bad
  have hret : ∀ q : State × Code, Keeps r0 q.1 → Keeps r0 (ret q).1 := fun _ h => h
  have hbad : Keeps r0 bad.1 := h0
  have hout : ∀ c : Nat, Keeps r0 (s, c).1 := fun _ => h0
  clear_value bad ret u ns by_
  repeat' with_reducible apply itep_keeps
  all_goals with_reducible repeat' (first | exact h0 | exact hbad | exact hout _ | exact Keeps.refl _ | apply hret | apply State.answered_keeps | apply State.launchObj_keeps | apply State.directIv_keeps | apply State.allocate_keeps | apply State.attRequest_keeps | intro _)
  all_goals try dsimp only
  all_goals with_reducible repeat' (first | exact h0 | exact Keeps.refl _ | apply State.setObj_keeps | apply State.loadClear_keeps | apply State.zeroiseSlot_keeps | apply State.modSession_keeps | apply State.submit_keeps | apply State.hostLevelNow_keeps | apply State.holdLevel_keeps | apply State.releaseLevel_keeps | apply State.scheduleSlot_keeps | apply State.setTime80_keeps | apply State.cstSelect_keeps | apply State.domainAbort_keeps | apply State.imgWindowPut_keeps | refine Keeps.raw ?_ rfl rfl rfl)

theorem State.writeOwn_keeps {r0 : State} (s : State) (index sub : Nat) (v : List Byte) (h0 : Keeps r0 s) : Keeps r0
    (State.writeOwn s index sub v).1 := by
  unfold State.writeOwn
  with_reducible repeat' first
    | assumption | apply ite_keeps | apply itep_keeps | apply State.setObj_keeps | apply State.linkShow_keeps
    | apply State.ptpPorts_keeps | exact Keeps.refl _

theorem State.writeField_keeps {r0 : State} (s : State) (k a : Nat) (f : Fld) (u : Nat) (h0 : Keeps r0 s) : Keeps r0
    (State.writeField s k a f u).1 := by
  unfold State.writeField
  with_reducible repeat' first | assumption | apply ite_keeps | apply State.writeReg_keeps | split

theorem setRwlObj_keeps {r0 : State} (s : State) (index sub : Nat) (v : List Byte) {t : State} (e : s.setRwlObj index sub v = some t)
    (h0 : Keeps r0 s) : Keeps r0 t := by
  unfold State.setRwlObj at e
  split at e
  · cases e
  · split at e
    · cases e
    · extract_lets u put at e
      have hp : ∀ t a x, Keeps r0 t → Keeps r0 (put t a x) := by
        intro t a x k
        show Keeps r0 (match regAt a with | some g => t.setNat a (g.row.taken x) | none => t)
        split
        · exact State.setNat_keeps _ _ _ k
        · exact k
      clear_value put u
      split at e
      · cases e; exact hp _ _ _ (hp _ _ _ h0)
      · cases e; exact hp _ _ _ (hp _ _ _ (hp _ _ _ h0))
      · cases e; exact hp _ _ _ h0
      · split at e
        · cases e; exact State.setObj_keeps _ _ _ _ h0
        · cases e
      · cases e; exact State.setObj_keeps _ _ _ _ h0

theorem State.writeObj_keeps {r0 : State} (s : State) (k index sub : Nat) (v : List Byte) (h0 : Keeps r0 s) :
    Keeps r0 (s.writeObj k index sub v).1 := by
  unfold State.writeObj
  extract_lets +onlyGivenNames no
  have hno : ∀ c : Code, Keeps r0 (no c).1 := fun _ => h0
  clear_value no
  refine itep_keeps _ (hno _) (itep_keeps _ (hno _) (itep_keeps _ (hno _) ?_))
  split
  · exact hno _
  · extract_lets as_
    refine itep_keeps _ (hno _) (itep_keeps _ (hno _) (itep_keeps _ (hno _) (itep_keeps _ (hno _) ?_)))
    split
    · exact hno _
    · refine itep_keeps _ (itep_keeps _ (hno _) ?_) ?_
      · split
        · exact setRwlObj_keeps s index sub v (by assumption) h0
        · exact hno _
      · split
        · split
          · exact hno _
          · exact State.writeField_keeps _ _ _ _ _ h0
        · exact State.writeReg_keeps _ _ _ _ (State.writeReg_keeps _ _ _ _ h0)
        · exact State.writeReg_keeps _ _ _ _ (State.writeReg_keeps _ _ _ _ (State.writeReg_keeps _ _ _ _ h0))
        · exact State.writeOwn_keeps _ _ _ _ h0
        · exact State.writeCalc_keeps _ _ _ _ _ _ h0
        · exact hno _

/-! ### Cop.lean -/

theorem State.datagram_keeps {r0 : State} (s : State) (port : Nat) (msg : List Byte) (h0 : Keeps r0 s) : Keeps r0
    (State.datagram s port msg).1 := by
  unfold State.datagram
  with_reducible repeat' first | assumption | apply State.takeFree_keeps

theorem State.copOut_keeps {r0 : State} (s : State) (path lane port : Nat) (msg : List Byte) (h0 : Keeps r0 s) : Keeps
    r0 (State.copOut s path lane port msg) := by
  unfold State.copOut
  with_reducible repeat' first
    | assumption | apply ite_keeps | apply State.datagram_keeps | apply State.mccSend_keeps | apply State.ksMgmt_keeps
    | apply State.emit_keeps

theorem State.copDiscard_keeps {r0 : State} (s : State) (h0 : Keeps r0 s) : Keeps r0 (State.copDiscard s) := by
  unfold State.copDiscard
  with_reducible repeat' first | assumption | apply State.bumpObj_keeps

theorem State.copCount_keeps {r0 : State} (s : State) (m : CopRx) (h0 : Keeps r0 s) : Keeps r0 (State.copCount s m) := by
  unfold State.copCount
  with_reducible repeat' first | assumption | apply ite_keeps | apply State.bumpObj_keeps

theorem State.copTake_keeps {r0 : State} (s : State) (m : CopRx) (h0 : Keeps r0 s) : Keeps r0 (State.copTake s m).1 := by
  unfold State.copTake
  with_reducible repeat' first
    | assumption | apply ite_keeps | apply State.copDiscard_keeps | apply State.modSession_keeps | split

theorem State.copReply_keeps {r0 : State} (s : State) (m : CopRx) (h : CopHeader) (k status : Nat) (body : List Byte)
    (h0 : Keeps r0 s) : Keeps r0 (State.copReply s m h k status body) := by
  unfold State.copReply
  with_reducible repeat' first
    | assumption | apply ite_keeps | apply State.modSession_keeps | apply State.bumpObj_keeps
    | apply State.copOut_keeps | split

theorem State.copAnswer_keeps {r0 : State} (s t : State) (m : CopRx) (h : CopHeader) (k status : Nat) (body : List Byte)
    (h0 : Keeps r0 s) (h1 : Keeps r0 t) : Keeps r0 (s.copAnswer t m h k status body) :=
  ite_keeps _ _ _ (State.copReply_keeps _ _ _ _ _ _ h0) (State.copReply_keeps _ _ _ _ _ _ h1)

theorem State.copServe_keeps {r0 : State} (s : State) (m : CopRx) (full : Bool) (ops : Nat → Bool)
    (work : State → List Byte → Nat → State × Nat × List Byte) (k_work : ∀ t b k, Keeps t (work t b k).1) (h0 : Keeps r0 s) :
    Keeps r0 (s.copServe m full ops work).1 := by
  unfold State.copServe
  extract_lets +onlyGivenNames claim
  refine itep_keeps _ h0 ?_
  extract_lets +onlyGivenNames r
  have hr : Keeps r0 r.1 := State.copTake_keeps _ _ (State.copCount_keeps _ _ h0)
  clear_value r
  split
  · exact hr
  · refine itep_keeps _ (State.copReply_keeps _ _ _ _ _ _ (State.bumpObj_keeps _ _ _ _ _ hr))
      (itep_keeps _ (State.copReply_keeps _ _ _ _ _ _ hr) ?_)
    exact State.copAnswer_keeps _ _ _ _ _ _ _ hr (hr.trans (k_work _ _ _))

theorem State.readAll_keeps {r0 : State} (s : State) (k : Nat) (bank : Option Level) (es : List (Nat × Nat)) (h0 :
    Keeps r0 s) : Keeps r0 (State.readAll s k bank es).1 := by
  unfold State.readAll
  with_reducible repeat' first
    | assumption | exact Keeps.refl _ | exact id_keeps _ | exact ⟨Nat.le_refl _, fun _ => rfl⟩ | apply ite_keeps
    | apply itep_keeps | apply State.readObj_keeps | apply foldl_keeps | apply foldlp_keeps | intro _
    | (extract_lets +onlyGivenNames x; first | (have hx : Keeps r0 x := ?_; clear_value x) | (have hx : Keeps r0 x.1 := ?_; clear_value x) | (have hf := fun a => x a; clear hf) | (have hf : CiphState := x; clear hf) | (have hf : SecState := x; clear hf) | clear_value x)
    | subst x | dsimp only | (apply fst_keeps; assumption) | split

theorem State.opRead_keeps {r0 : State} (s : State) (body : List Byte) (k : Nat) (h0 : Keeps r0 s) : Keeps r0
    (State.opRead s body k).1 := by
  unfold State.opRead
  with_reducible repeat' first | assumption | apply ite_keeps | apply State.readAll_keeps | split

theorem State.opWrite_keeps {r0 : State} (s : State) (body : List Byte) (k : Nat) (h0 : Keeps r0 s) : Keeps r0
    (State.opWrite s body k).1 := by
  unfold State.opWrite
  with_reducible repeat' first
    | assumption | exact Keeps.refl _ | exact id_keeps _ | exact ⟨Nat.le_refl _, fun _ => rfl⟩ | apply ite_keeps
    | apply itep_keeps | apply State.writeObj_keeps | apply foldl_keeps | apply foldlp_keeps | intro _
    | (extract_lets +onlyGivenNames x; first | (have hx : Keeps r0 x := ?_; clear_value x) | (have hx : Keeps r0 x.1 := ?_; clear_value x) | (have hf := fun a => x a; clear hf) | (have hf : CiphState := x; clear hf) | (have hf : SecState := x; clear hf) | clear_value x)
    | subst x | dsimp only | (apply fst_keeps; assumption) | split

theorem State.opLevelRead_keeps {r0 : State} (s : State) (body : List Byte) (k : Nat) (h0 : Keeps r0 s) : Keeps r0
    (State.opLevelRead s body k).1 := by
  unfold State.opLevelRead
  with_reducible repeat' first | assumption | apply ite_keeps | apply State.readAll_keeps | split

theorem State.setBlock_keeps {r0 : State} (s : State) (k : Nat) (b : Option BlockXfer) (h0 : Keeps r0 s) : Keeps r0
    (State.setBlock s k b) := by
  unfold State.setBlock
  with_reducible repeat' first | assumption | apply State.modSession_keeps

theorem State.opBlockRead_keeps {r0 : State} (s : State) (body : List Byte) (k : Nat) (h0 : Keeps r0 s) : Keeps r0
    (State.opBlockRead s body k).1 := by
  unfold State.opBlockRead
  with_reducible repeat' first
    | assumption | exact Keeps.refl _ | apply ite_keeps | apply itep_keeps | apply State.readObj_keeps
    | apply State.setBlock_keeps | apply foldl_keeps | intro _
    | (extract_lets +onlyGivenNames x; first | (have hx : Keeps r0 x := ?_; clear_value x) | (have hx : Keeps r0 x.1 := ?_; clear_value x) | (have hf := fun a => x a; clear hf) | (have hf : CiphState := x; clear hf) | (have hf : SecState := x; clear hf) | clear_value x)
    | split

theorem State.opBlockWrite_keeps {r0 : State} (s : State) (body : List Byte) (k : Nat) (h0 : Keeps r0 s) : Keeps r0
    (State.opBlockWrite s body k).1 := by
  unfold State.opBlockWrite
  with_reducible repeat' first
    | assumption | exact Keeps.refl _ | apply ite_keeps | apply itep_keeps | apply State.setBlock_keeps
    | apply State.writeObj_keeps | apply foldl_keeps | intro _
    | (extract_lets +onlyGivenNames x; first | (have hx : Keeps r0 x := ?_; clear_value x) | (have hx : Keeps r0 x.1 := ?_; clear_value x) | (have hf := fun a => x a; clear hf) | (have hf : CiphState := x; clear hf) | (have hf : SecState := x; clear hf) | clear_value x)
    | split

theorem State.sessionEnd_keeps {r0 : State} (s : State) (k : Nat) (h0 : Keeps r0 s) : Keeps r0 (State.sessionEnd s k)
    := by
  unfold State.sessionEnd
  with_reducible repeat' first
    | assumption | intro _ | exact Keeps.refl _ | subst x
    | (extract_lets +onlyGivenNames x; first | (have hx : Keeps r0 x := ?_; clear_value x) | (have hx : Keeps r0 x.1 := ?_; clear_value x) | (have hf := fun a => x a; clear hf) | (have hf : CiphState := x; clear hf) | (have hf : SecState := x; clear hf) | clear_value x)
    | exact id_keeps _ | apply ite_keeps | apply State.releaseLevel_keeps | apply State.courseOrphan_keeps
    | dsimp only | split | refine Keeps.raw ?_ rfl rfl rfl

/-! ### Domain.lean -/

theorem State.modCop_keeps {r0 : State} (s : State) (f : CopState → CopState) (h0 : Keeps r0 s) : Keeps r0
    (State.modCop s f) :=
  Keeps.raw h0 rfl rfl rfl

theorem State.relayUnreachable_keeps {r0 : State} (s : State) (m : CopRx) (h : CopHeader) (h0 : Keeps r0 s) : Keeps r0
    (State.relayUnreachable s m h) := by
  unfold State.relayUnreachable
  with_reducible repeat' first | assumption | apply State.copOut_keeps

theorem State.reportPresence_keeps {r0 : State} (s : State) (n code : Nat) (h0 : Keeps r0 s) : Keeps r0
    (State.reportPresence s n code) := by
  unfold State.reportPresence
  with_reducible repeat' first | assumption | apply ite_keeps | apply State.emit_keeps

theorem State.setNode_keeps {r0 : State} (s : State) (n : Nat) (r : NodeRec) (h0 : Keeps r0 s) : Keeps r0
    (State.setNode s n r) := by
  unfold State.setNode
  with_reducible repeat' first | assumption | apply State.modCop_keeps

theorem State.sampleEntries_keeps {r0 : State} (s : State) (l : Level) (es : List (Nat × Nat)) (h0 : Keeps r0 s) :
    Keeps r0 (State.sampleEntries s l es).1 := by
  unfold State.sampleEntries
  with_reducible repeat' first
    | assumption | exact Keeps.refl _ | exact id_keeps _ | exact ⟨Nat.le_refl _, fun _ => rfl⟩ | apply ite_keeps
    | apply itep_keeps | apply State.readObj_keeps | apply foldl_keeps | apply foldlp_keeps | intro _
    | (extract_lets +onlyGivenNames x; first | (have hx : Keeps r0 x := ?_; clear_value x) | (have hx : Keeps r0 x.1 := ?_; clear_value x) | (have hf := fun a => x a; clear hf) | (have hf : CiphState := x; clear hf) | (have hf : SecState := x; clear hf) | clear_value x)
    | subst x | dsimp only | (apply fst_keeps; assumption) | split

theorem State.ownSlot_keeps {r0 : State} (s : State) (ns : Nat) (h0 : Keeps r0 s) : Keeps r0 (State.ownSlot s ns).1 := by
  unfold State.ownSlot
  with_reducible repeat' first
    | assumption | exact Keeps.refl _ | exact id_keeps _ | exact ⟨Nat.le_refl _, fun _ => rfl⟩ | apply ite_keeps
    | apply itep_keeps | apply foldl_keeps | apply foldlp_keeps | intro _
    | (extract_lets +onlyGivenNames x; first | (have hx : Keeps r0 x := ?_; clear_value x) | (have hx : Keeps r0 x.1 := ?_; clear_value x) | (have hf := fun a => x a; clear hf) | (have hf : CiphState := x; clear hf) | (have hf : SecState := x; clear hf) | clear_value x)
    | subst x | dsimp only | (apply fst_keeps; assumption) | split | refine Keeps.raw ?_ rfl rfl rfl

end Sys2Proof.Machine
end

