-- ==== Sys2Proof/Laws/DoneLine.lean ====
section
/-!
SUPPORT. Each meaning answers a next state and undoes nothing of what `Keeps` lists: the lanes, PLU, PMON and Levels.
-/

-- one theorem after another: all at once would not fit the memory
set_option Elab.async false
set_option linter.all false

namespace Sys2Proof.Machine

/-! ### Fec.lean -/

theorem execInnerCodewordDone_done (n : Lane) (soft : List Int) (zr : Bool × Nat) (s : State) : Done s
    (execInnerCodewordDone n soft zr s) := by
  unfold execInnerCodewordDone
  with_reducible repeat' first
    | assumption | intro _ | exact Keeps.refl _ | subst x
    | (extract_lets +onlyGivenNames x; first | (have hx : Keeps s x := ?_; clear_value x) | (have hx : Keeps s x.1 := ?_; clear_value x) | (have hf := fun a => x a; clear hf) | (have hf : CiphState := x; clear hf) | (have hf : SecState := x; clear hf) | clear_value x)
    | apply next_done | apply ite_done | apply ite_keeps | apply itep_keeps | apply State.raise_keeps
    | apply State.fecCount_keeps | apply State.innerDecode_keeps | apply State.softNext_keeps | dsimp only
    | (apply fst_keeps; assumption) | split

theorem execOuterBlockEnter_done (n : Lane) (changed : Nat) (s : State) : Done s (execOuterBlockEnter n changed s) :=
    by
  unfold execOuterBlockEnter
  with_reducible repeat' first
    | assumption | intro _ | exact Keeps.refl _ | subst x
    | (extract_lets +onlyGivenNames x; first | (have hx : Keeps s x := ?_; clear_value x) | (have hx : Keeps s x.1 := ?_; clear_value x) | (have hf := fun a => x a; clear hf) | (have hf : CiphState := x; clear hf) | (have hf : SecState := x; clear hf) | clear_value x)
    | apply next_done | apply ite_done | apply ite_keeps | apply State.modFec_keeps | apply State.fecCount_keeps
    | apply State.outerExit_keeps | dsimp only | split

theorem execOuterBlockExit_done (n : Lane) (bad : Nat) (s : State) : Done s (execOuterBlockExit n bad s) := by
  unfold execOuterBlockExit
  with_reducible repeat' first
    | assumption | intro _ | exact Keeps.refl _ | subst x
    | (extract_lets +onlyGivenNames x; first | (have hx : Keeps s x := ?_; clear_value x) | (have hx : Keeps s x.1 := ?_; clear_value x) | (have hf := fun a => x a; clear hf) | (have hf : CiphState := x; clear hf) | (have hf : SecState := x; clear hf) | clear_value x)
    | apply next_done | apply ite_done | apply ite_keeps | apply State.blockLeaves_keeps
    | apply State.outerExit_keeps | dsimp only | split

/-! ### Plu.lean -/

theorem execRefValidChange_done (r : Fin 32) (s : State) : Done s (execRefValidChange r s) := by
  unfold execRefValidChange
  with_reducible repeat' first
    | apply next_done | exact Keeps.refl _ | apply ite_done | apply ite_keeps | apply State.refChanged_keeps | split

theorem execRefActivityLoss_done (r : Fin 32) (s : State) : Done s (execRefActivityLoss r s) := by
  unfold execRefActivityLoss
  with_reducible repeat' first
    | apply next_done | exact Keeps.refl _ | apply ite_done | apply ite_keeps | apply State.refChanged_keeps
    | apply State.setB_keeps

theorem execRefActivityReturn_done (r : Fin 32) (s : State) : Done s (execRefActivityReturn r s) := by
  unfold execRefActivityReturn
  with_reducible repeat' first
    | apply next_done | exact Keeps.refl _ | apply ite_done | apply ite_keeps | apply State.refChanged_keeps
    | apply State.setB_keeps

theorem execRefFreqWindow_done (r : Fin 32) (freq : Int) (s : State) : Done s (execRefFreqWindow r freq s) := by
  unfold execRefFreqWindow
  with_reducible repeat' first
    | assumption | exact Keeps.refl _ | exact id_keeps _ | exact ⟨Nat.le_refl _, fun _ => rfl⟩ | apply next_done
    | apply ite_done | apply ite_keeps | apply itep_keeps | apply State.modRef_keeps | apply State.waitTb_keeps
    | apply State.freqJudge_keeps | apply foldl_keeps | apply foldlp_keeps | intro _
    | (extract_lets +onlyGivenNames x; first | (have hx : Keeps s x := ?_; clear_value x) | (have hx : Keeps s x.1 := ?_; clear_value x) | (have hf := fun a => x a; clear hf) | (have hf : CiphState := x; clear hf) | (have hf : SecState := x; clear hf) | clear_value x)
    | subst x | dsimp only | (apply fst_keeps; assumption) | split

theorem execRefQualified_done (r : Fin 32) (s : State) : Done s (execRefQualified r s) := by
  unfold execRefQualified
  with_reducible repeat' first
    | apply next_done | exact Keeps.refl _ | apply ite_done | apply ite_keeps | apply State.waitClk_keeps
    | apply State.select_keeps | apply State.judgeRef_keeps | split

theorem execFreqDisagreeClear_done (r : Fin 32) (s : State) : Done s (execFreqDisagreeClear r s) := by
  unfold execFreqDisagreeClear
  with_reducible repeat' first
    | apply next_done | exact Keeps.refl _ | apply ite_done | apply ite_keeps | apply State.waitClk_keeps
    | apply State.select_keeps | apply State.judgeRef_keeps | apply State.setB_keeps | split

theorem execPluPullEnd_done (err : Int) (s : State) : Done s (execPluPullEnd err s) := by
  unfold execPluPullEnd
  with_reducible repeat' first
    | assumption | intro _ | exact Keeps.refl _ | subst x
    | (extract_lets +onlyGivenNames x; first | (have hx : Keeps s x := ?_; clear_value x) | (have hx : Keeps s x.1 := ?_; clear_value x) | (have hf := fun a => x a; clear hf) | (have hf : CiphState := x; clear hf) | (have hf : SecState := x; clear hf) | clear_value x)
    | apply next_done | apply ite_done | apply ite_keeps | apply State.setB_keeps | apply State.setInt_keeps
    | apply State.waitClk_keeps | apply State.modPlu_keeps | apply State.settleStep_keeps
    | apply State.pluTrack_keeps | dsimp only | split

theorem execPluLockAchieved_done (err : Int) (s : State) : Done s (execPluLockAchieved err s) := by
  unfold execPluLockAchieved
  with_reducible repeat' first
    | apply State.pluTrack_keeps | apply next_done | exact Keeps.refl _ | apply ite_done | apply ite_keeps | apply State.waitClk_keeps
    | apply State.modPlu_keeps | apply State.setInt_keeps | apply State.set_keeps | apply State.showOutputs_keeps
    | apply State.setReg_keeps

theorem execPluLockLoss_done (err : Int) (s : State) : Done s (execPluLockLoss err s) := by
  unfold execPluLockLoss
  with_reducible repeat' first
    | assumption | intro _ | exact Keeps.refl _ | subst x
    | (extract_lets +onlyGivenNames x; first | (have hx : Keeps s x := ?_; clear_value x) | (have hx : Keeps s x.1 := ?_; clear_value x) | (have hf := fun a => x a; clear hf) | (have hf : CiphState := x; clear hf) | (have hf : SecState := x; clear hf) | clear_value x)
    | apply next_done | apply ite_done | apply ite_keeps | apply State.setInt_keeps | apply State.modPlu_keeps
    | apply State.acquire_keeps | dsimp only | split

theorem execPluAcqLimit_done (s : State) : Done s (execPluAcqLimit s) := by
  unfold execPluAcqLimit
  with_reducible repeat' first
    | assumption | intro _ | exact Keeps.refl _ | subst x
    | (extract_lets +onlyGivenNames x; first | (have hx : Keeps s x := ?_; clear_value x) | (have hx : Keeps s x.1 := ?_; clear_value x) | (have hf := fun a => x a; clear hf) | (have hf : CiphState := x; clear hf) | (have hf : SecState := x; clear hf) | clear_value x)
    | apply next_done | apply ite_done | apply ite_keeps | apply State.setB_keeps | apply State.waitClk_keeps
    | apply State.raise_keeps | apply State.modRef_keeps | apply State.settleStep_keeps | apply State.judgeRef_keeps
    | apply State.select_keeps | dsimp only | split

theorem execAcqHoldExpiry_done (r : Fin 32) (s : State) : Done s (execAcqHoldExpiry r s) := by
  unfold execAcqHoldExpiry
  with_reducible repeat' first
    | apply next_done | exact Keeps.refl _ | apply ite_done | apply ite_keeps | apply State.waitClk_keeps
    | apply State.modRef_keeps | apply State.setB_keeps | apply State.select_keeps | apply State.judgeRef_keeps
    | split

theorem execWtrExpiry_done (e : Fin 16) (s : State) : Done s (execWtrExpiry e s) := by
  unfold execWtrExpiry
  with_reducible repeat' first
    | apply next_done | exact Keeps.refl _ | apply ite_done | apply ite_keeps | apply State.select_keeps
    | apply State.waitClk_keeps | split

theorem execHoldoverLimit_done (s : State) : Done s (execHoldoverLimit s) := by
  unfold execHoldoverLimit
  with_reducible repeat' first
    | apply next_done | exact Keeps.refl _ | apply ite_done | apply ite_keeps | apply State.waitClk_keeps
    | apply State.modPlu_keeps | apply State.enterLost_keeps | split

theorem execOscinRestored_done (s : State) : Done s (execOscinRestored s) := by
  unfold execOscinRestored
  with_reducible repeat' first
    | assumption | intro _ | exact Keeps.refl _ | subst x
    | (extract_lets +onlyGivenNames x; first | (have hx : Keeps s x := ?_; clear_value x) | (have hx : Keeps s x.1 := ?_; clear_value x) | (have hf := fun a => x a; clear hf) | (have hf : CiphState := x; clear hf) | (have hf : SecState := x; clear hf) | clear_value x)
    | apply next_done | apply ite_done | apply ite_keeps | apply State.waitClk_keeps
    | apply State.enterHoldover_keeps | apply State.enterFreerun_keeps | apply State.select_keeps | dsimp only
    | split

theorem execPluHistorySecond_done (freq : Int) (s : State) : Done s (execPluHistorySecond freq s) := by
  unfold execPluHistorySecond
  with_reducible repeat' first
    | assumption | intro _ | exact Keeps.refl _ | subst x
    | (extract_lets +onlyGivenNames x; first | (have hx : Keeps s x := ?_; clear_value x) | (have hx : Keeps s x.1 := ?_; clear_value x) | (have hf := fun a => x a; clear hf) | (have hf : CiphState := x; clear hf) | (have hf : SecState := x; clear hf) | clear_value x)
    | apply next_done | apply ite_done | apply ite_keeps | apply State.setB_keeps | apply State.waitTb_keeps
    | apply State.modPlu_keeps | apply State.showFreq_keeps | dsimp only | split

theorem execPluClrHist_done (s : State) : Done s (execPluClrHist s) := by
  unfold execPluClrHist
  with_reducible repeat' first
    | assumption | apply next_done | exact Keeps.refl _ | apply ite_done | apply ite_keeps | apply itep_keeps
    | apply State.hostWrite_keeps | apply State.clearHist_keeps | apply foldl_keeps | intro _
    | (extract_lets +onlyGivenNames x; first | (have hx : Keeps s x := ?_; clear_value x) | (have hx : Keeps s x.1 := ?_; clear_value x) | (have hf := fun a => x a; clear hf) | (have hf : CiphState := x; clear hf) | (have hf : SecState := x; clear hf) | clear_value x)
    | split

theorem execPluEnWrite_done (v : Bool) (s : State) : Done s (execPluEnWrite v s) := by
  unfold execPluEnWrite
  with_reducible repeat' first
    | assumption | apply next_done | exact Keeps.refl _ | apply ite_done | apply ite_keeps | apply itep_keeps
    | apply State.hostWrite_keeps | apply State.writePluEn_keeps | apply foldl_keeps | intro _
    | (extract_lets +onlyGivenNames x; first | (have hx : Keeps s x := ?_; clear_value x) | (have hx : Keeps s x.1 := ?_; clear_value x) | (have hf := fun a => x a; clear hf) | (have hf : CiphState := x; clear hf) | (have hf : SecState := x; clear hf) | clear_value x)
    | split

theorem execPluForceHoldWrite_done (v : Bool) (s : State) : Done s (execPluForceHoldWrite v s) := by
  unfold execPluForceHoldWrite
  with_reducible repeat' first
    | assumption | apply next_done | exact Keeps.refl _ | apply ite_done | apply ite_keeps | apply itep_keeps
    | apply State.hostWrite_keeps | apply State.writeForceHold_keeps | apply foldl_keeps | intro _
    | (extract_lets +onlyGivenNames x; first | (have hx : Keeps s x := ?_; clear_value x) | (have hx : Keeps s x.1 := ?_; clear_value x) | (have hf := fun a => x a; clear hf) | (have hf : CiphState := x; clear hf) | (have hf : SecState := x; clear hf) | clear_value x)
    | split

theorem execPluPhaseStepWrite_done (v : Word) (s : State) : Done s (execPluPhaseStepWrite v s) := by
  unfold execPluPhaseStepWrite
  with_reducible repeat' first
    | assumption | apply next_done | exact Keeps.refl _ | apply ite_done | apply ite_keeps | apply itep_keeps
    | apply State.hostWrite_keeps | apply State.addPhaseStep_keeps | apply foldl_keeps | intro _
    | (extract_lets +onlyGivenNames x; first | (have hx : Keeps s x := ?_; clear_value x) | (have hx : Keeps s x.1 := ?_; clear_value x) | (have hf := fun a => x a; clear hf) | (have hf : CiphState := x; clear hf) | (have hf : SecState := x; clear hf) | clear_value x)
    | split

theorem execPluStepDone_done (s : State) : Done s (execPluStepDone s) := by
  unfold execPluStepDone
  with_reducible repeat' first
    | assumption | intro _ | exact Keeps.refl _ | subst x
    | (extract_lets +onlyGivenNames x; first | (have hx : Keeps s x := ?_; clear_value x) | (have hx : Keeps s x.1 := ?_; clear_value x) | (have hf := fun a => x a; clear hf) | (have hf : CiphState := x; clear hf) | (have hf : SecState := x; clear hf) | clear_value x)
    | apply next_done | apply ite_done | apply ite_keeps | apply State.waitClk_keeps | apply State.settleStep_keeps
    | dsimp only | split

theorem execClkoutFreqWrite_done (k : Fin 4) (v : Word) (s : State) : Done s (execClkoutFreqWrite k v s) := by
  unfold execClkoutFreqWrite
  with_reducible repeat' first
    | assumption | apply next_done | exact Keeps.refl _ | apply ite_done | apply ite_keeps | apply itep_keeps
    | apply State.hostWrite_keeps | apply State.writeClkout_keeps | apply State.told_keeps | apply foldl_keeps
    | intro _
    | (extract_lets +onlyGivenNames x; first | (have hx : Keeps s x := ?_; clear_value x) | (have hx : Keeps s x.1 := ?_; clear_value x) | (have hf := fun a => x a; clear hf) | (have hf : CiphState := x; clear hf) | (have hf : SecState := x; clear hf) | clear_value x)
    | split

/-! ### Pmon.lean -/

theorem execPmonSecondEval_done (s : State) : Done s (execPmonSecondEval s) := by
  unfold execPmonSecondEval
  with_reducible repeat' first
    | assumption | intro _ | exact Keeps.refl _ | subst x
    | (extract_lets +onlyGivenNames x; first | (have hx : Keeps s x := ?_; clear_value x) | (have hx : Keeps s x.1 := ?_; clear_value x) | (have hf := fun a => x a; clear hf) | (have hf : CiphState := x; clear hf) | (have hf : SecState := x; clear hf) | clear_value x)
    | apply next_done | apply ite_done | apply ite_keeps | apply State.eachLane_keeps_of | apply State.touch_keeps
    | apply State.evalLane_keeps | apply State.waitEval_keeps | dsimp only | split

theorem execBinFinal_done (day : Bool) (s : State) : Done s (execBinFinal day s) := by
  unfold execBinFinal
  with_reducible repeat' first
    | assumption | apply next_done | exact Keeps.refl _ | apply ite_done | apply ite_keeps | apply itep_keeps
    | apply State.waitTb_keeps | apply State.eachLane_keeps | apply State.modPmon_keeps | apply foldl_keeps | intro _
    | (extract_lets +onlyGivenNames x; first | (have hx : Keeps s x := ?_; clear_value x) | (have hx : Keeps s x.1 := ?_; clear_value x) | (have hf := fun a => x a; clear hf) | (have hf : CiphState := x; clear hf) | (have hf : SecState := x; clear hf) | clear_value x)
    | split

theorem execPmonClrCur_done (n : Lane) (s : State) : Done s (execPmonClrCur n s) := by
  unfold execPmonClrCur
  with_reducible repeat' first
    | assumption | apply next_done | exact Keeps.refl _ | apply ite_done | apply ite_keeps | apply itep_keeps
    | apply State.hostWrite_keeps | apply State.clearBins_keeps | apply foldl_keeps | intro _
    | (extract_lets +onlyGivenNames x; first | (have hx : Keeps s x := ?_; clear_value x) | (have hx : Keeps s x.1 := ?_; clear_value x) | (have hf := fun a => x a; clear hf) | (have hf : CiphState := x; clear hf) | (have hf : SecState := x; clear hf) | clear_value x)
    | split

theorem execPmonMetricSample_done (n : Lane) (s : State) : Done s (execPmonMetricSample n s) := by
  unfold execPmonMetricSample
  with_reducible repeat' first
    | assumption | intro _ | exact Keeps.refl _ | subst x
    | (extract_lets +onlyGivenNames x; first | (have hx : Keeps s x := ?_; clear_value x) | (have hx : Keeps s x.1 := ?_; clear_value x) | (have hf := fun a => x a; clear hf) | (have hf : CiphState := x; clear hf) | (have hf : SecState := x; clear hf) | clear_value x)
    | apply next_done | apply ite_done | apply ite_keeps | apply State.modPmon_keeps | apply State.waitTb_keeps
    | apply State.touch_keeps | apply State.gauge_keeps | dsimp only | split

/-! ### Level.lean -/

theorem execLevelPeriodic_done (s : State) : Done s (execLevelPeriodic s) := by
  unfold execLevelPeriodic
  with_reducible repeat' first
    | assumption | intro _ | exact Keeps.refl _ | subst x
    | (extract_lets +onlyGivenNames x; first | (have hx : Keeps s x := ?_; clear_value x) | (have hx : Keeps s x.1 := ?_; clear_value x) | (have hf := fun a => x a; clear hf) | (have hf : CiphState := x; clear hf) | (have hf : SecState := x; clear hf) | clear_value x)
    | apply next_done | apply ite_done | apply ite_keeps | apply State.waitTb_keeps | apply State.strobe_keeps
    | dsimp only | split | refine Keeps.raw ?_ rfl rfl rfl

theorem execLevelQ15_done (s : State) : Done s (execLevelQ15 s) := by
  unfold execLevelQ15
  with_reducible repeat' first
    | apply next_done | exact Keeps.refl _ | apply ite_done | apply ite_keeps | apply State.waitTb_keeps
    | apply State.strobe_keeps

theorem execLevelD24_done (s : State) : Done s (execLevelD24 s) := by
  unfold execLevelD24
  with_reducible repeat' first
    | apply next_done | exact Keeps.refl _ | apply ite_done | apply ite_keeps | apply State.waitTb_keeps
    | apply State.strobe_keeps

theorem execLevelScheduled_done (slot : Fin 16) (s : State) : Done s (execLevelScheduled slot s) := by
  unfold execLevelScheduled
  with_reducible repeat' first
    | assumption | exact Keeps.refl _ | exact id_keeps _ | exact ⟨Nat.le_refl _, fun _ => rfl⟩ | apply next_done
    | apply ite_done | apply ite_keeps | apply itep_keeps | apply State.waitTb_keeps | apply State.strobe_keeps
    | apply foldl_keeps | apply foldlp_keeps | intro _
    | (extract_lets +onlyGivenNames x; first | (have hx : Keeps s x := ?_; clear_value x) | (have hx : Keeps s x.1 := ?_; clear_value x) | (have hf := fun a => x a; clear hf) | (have hf : CiphState := x; clear hf) | (have hf : SecState := x; clear hf) | clear_value x)
    | subst x | dsimp only | (apply fst_keeps; assumption) | split | refine Keeps.raw ?_ rfl rfl rfl

theorem execLevelHost_done (by_ : Source) (s : State) : Done s (execLevelHost by_ s) := by
  unfold execLevelHost
  with_reducible repeat' first
    | assumption | apply next_done | exact Keeps.refl _ | apply ite_done | apply ite_keeps | apply itep_keeps
    | apply State.byWrite_keeps | apply State.hostLevelNow_keeps | apply foldl_keeps | intro _
    | (extract_lets +onlyGivenNames x; first | (have hx : Keeps s x := ?_; clear_value x) | (have hx : Keeps s x.1 := ?_; clear_value x) | (have hf := fun a => x a; clear hf) | (have hf : CiphState := x; clear hf) | (have hf : SecState := x; clear hf) | clear_value x)
    | split

theorem execLevelFreezeEnd_done (isl : Island) (s : State) : Done s (execLevelFreezeEnd isl s) := by
  unfold execLevelFreezeEnd
  with_reducible repeat' first
    | assumption | intro _ | exact Keeps.refl _ | subst x
    | (extract_lets +onlyGivenNames x; first | (have hx : Keeps s x := ?_; clear_value x) | (have hx : Keeps s x.1 := ?_; clear_value x) | (have hf := fun a => x a; clear hf) | (have hf : CiphState := x; clear hf) | (have hf : SecState := x; clear hf) | clear_value x)
    | apply next_done | apply ite_done | apply ite_keeps | apply State.waitClk_keeps | apply State.flushHeld_keeps
    | dsimp only | split | refine Keeps.raw ?_ rfl rfl rfl

theorem execLevelCopyStart_done (s : State) : Done s (execLevelCopyStart s) := by
  unfold execLevelCopyStart
  with_reducible repeat' first
    | assumption | exact Keeps.refl _ | exact id_keeps _ | exact ⟨Nat.le_refl _, fun _ => rfl⟩ | apply next_done
    | apply ite_done | apply ite_keeps | apply itep_keeps | apply foldl_keeps | apply foldlp_keeps | intro _
    | (extract_lets +onlyGivenNames x; first | (have hx : Keeps s x := ?_; clear_value x) | (have hx : Keeps s x.1 := ?_; clear_value x) | (have hf := fun a => x a; clear hf) | (have hf : CiphState := x; clear hf) | (have hf : SecState := x; clear hf) | clear_value x)
    | subst x | dsimp only | (apply fst_keeps; assumption) | split | refine Keeps.raw ?_ rfl rfl rfl

theorem execLevelCopyComplete_done (s : State) : Done s (execLevelCopyComplete s) := by
  unfold execLevelCopyComplete
  with_reducible repeat' first
    | assumption | exact Keeps.refl _ | exact id_keeps _ | exact ⟨Nat.le_refl _, fun _ => rfl⟩ | apply next_done
    | apply ite_done | apply ite_keeps | apply itep_keeps | apply State.streamsDue_keeps | apply State.raise_keeps
    | apply foldl_keeps | apply foldlp_keeps | intro _
    | (extract_lets +onlyGivenNames x; first | (have hx : Keeps s x := ?_; clear_value x) | (have hx : Keeps s x.1 := ?_; clear_value x) | (have hf := fun a => x a; clear hf) | (have hf : CiphState := x; clear hf) | (have hf : SecState := x; clear hf) | clear_value x)
    | subst x | dsimp only | (apply fst_keeps; assumption) | split | refine Keeps.raw ?_ rfl rfl rfl

theorem execLevelScheduleWrite_done (by_ : Source) (slot : Fin 16) (t : Time80) (s : State) : Done s
    (execLevelScheduleWrite by_ slot t s) := by
  unfold execLevelScheduleWrite
  with_reducible repeat' first
    | assumption | apply next_done | exact Keeps.refl _ | apply ite_done | apply ite_keeps | apply itep_keeps
    | apply State.byWrite_keeps | apply State.scheduleSlot_keeps | apply State.setTime80_keeps | apply foldl_keeps
    | intro _
    | (extract_lets +onlyGivenNames x; first | (have hx : Keeps s x := ?_; clear_value x) | (have hx : Keeps s x.1 := ?_; clear_value x) | (have hf := fun a => x a; clear hf) | (have hf : CiphState := x; clear hf) | (have hf : SecState := x; clear hf) | clear_value x)
    | split

theorem execLevelHold_done (by_ : Source) (s : State) : Done s (execLevelHold by_ s) := by
  unfold execLevelHold
  with_reducible repeat' first
    | assumption | apply next_done | exact Keeps.refl _ | apply ite_done | apply ite_keeps | apply itep_keeps
    | apply State.byWrite_keeps | apply State.holdLevel_keeps | apply foldl_keeps | intro _
    | (extract_lets +onlyGivenNames x; first | (have hx : Keeps s x := ?_; clear_value x) | (have hx : Keeps s x.1 := ?_; clear_value x) | (have hf := fun a => x a; clear hf) | (have hf : CiphState := x; clear hf) | (have hf : SecState := x; clear hf) | clear_value x)
    | split

theorem execLevelRelease_done (by_ : Source) (s : State) : Done s (execLevelRelease by_ s) := by
  unfold execLevelRelease
  with_reducible repeat' first
    | assumption | apply next_done | exact Keeps.refl _ | apply ite_done | apply ite_keeps | apply itep_keeps
    | apply State.byWrite_keeps | apply State.answer_keeps | apply State.releaseLevel_keeps | apply foldl_keeps
    | intro _
    | (extract_lets +onlyGivenNames x; first | (have hx : Keeps s x := ?_; clear_value x) | (have hx : Keeps s x.1 := ?_; clear_value x) | (have hf := fun a => x a; clear hf) | (have hf : CiphState := x; clear hf) | (have hf : SecState := x; clear hf) | clear_value x)
    | split

theorem execLevelMixClear_done (s : State) : Done s (execLevelMixClear s) := by
  unfold execLevelMixClear
  with_reducible repeat' first
    | assumption | apply next_done | exact Keeps.refl _ | apply ite_done | apply ite_keeps | apply itep_keeps
    | apply State.hostWrite_keeps | apply State.clearMix_keeps | apply foldl_keeps | intro _
    | (extract_lets +onlyGivenNames x; first | (have hx : Keeps s x := ?_; clear_value x) | (have hx : Keeps s x.1 := ?_; clear_value x) | (have hf := fun a => x a; clear hf) | (have hf : CiphState := x; clear hf) | (have hf : SecState := x; clear hf) | clear_value x)
    | split

/-! ### Lfr.lean -/

theorem execSdWindowEnd_done (n : Lane) (s : State) : Done s (execSdWindowEnd n s) := by
  unfold execSdWindowEnd
  with_reducible repeat' first
    | apply next_done | exact Keeps.refl _ | apply ite_done | apply ite_keeps | apply State.sdWindow_keeps | split

theorem execDownstreamAisChange_done (n : Lane) (s : State) : Done s (execDownstreamAisChange n s) := by
  unfold execDownstreamAisChange
  with_reducible repeat' first
    | apply next_done | exact Keeps.refl _ | apply ite_done | apply ite_keeps | apply State.aisApply_keeps

/-! ### Conv.lean -/

theorem execSpareRetireWrite_done (n : Lane) (k : Fin 16) (pos : BitVec 7) (s : State) : Done s (execSpareRetireWrite
    n k pos s) := by
  unfold execSpareRetireWrite
  with_reducible repeat' first
    | assumption | apply next_done | exact Keeps.refl _ | apply ite_done | apply ite_keeps | apply itep_keeps
    | apply State.hostWrite_keeps | apply State.writeRetire_keeps | apply foldl_keeps | intro _
    | (extract_lets +onlyGivenNames x; first | (have hx : Keeps s x := ?_; clear_value x) | (have hx : Keeps s x.1 := ?_; clear_value x) | (have hf := fun a => x a; clear hf) | (have hf : CiphState := x; clear hf) | (have hf : SecState := x; clear hf) | clear_value x)
    | split

theorem execSpareTakeoverSwitch_done (n : Lane) (k : Fin 16) (s : State) : Done s (execSpareTakeoverSwitch n k s) := by
  unfold execSpareTakeoverSwitch
  with_reducible repeat' first
    | apply next_done | exact Keeps.refl _ | apply ite_done | apply ite_keeps | apply State.set_keeps
    | apply State.setSpare_keeps | split

theorem execConvAdcEnWrite_done (n : Lane) (v : Bool) (s : State) : Done s (execConvAdcEnWrite n v s) := by
  unfold execConvAdcEnWrite
  with_reducible repeat' first
    | assumption | apply next_done | exact Keeps.refl _ | apply ite_done | apply ite_keeps | apply itep_keeps
    | apply State.hostWrite_keeps | apply State.writeConvEn_keeps | apply foldl_keeps | intro _
    | (extract_lets +onlyGivenNames x; first | (have hx : Keeps s x := ?_; clear_value x) | (have hx : Keeps s x.1 := ?_; clear_value x) | (have hf := fun a => x a; clear hf) | (have hf : CiphState := x; clear hf) | (have hf : SecState := x; clear hf) | clear_value x)
    | split

theorem execConvDacEnWrite_done (n : Lane) (v : Bool) (s : State) : Done s (execConvDacEnWrite n v s) := by
  unfold execConvDacEnWrite
  with_reducible repeat' first
    | assumption | apply next_done | exact Keeps.refl _ | apply ite_done | apply ite_keeps | apply itep_keeps
    | apply State.hostWrite_keeps | apply State.writeConvEn_keeps | apply foldl_keeps | intro _
    | (extract_lets +onlyGivenNames x; first | (have hx : Keeps s x := ?_; clear_value x) | (have hx : Keeps s x.1 := ?_; clear_value x) | (have hf := fun a => x a; clear hf) | (have hf : CiphState := x; clear hf) | (have hf : SecState := x; clear hf) | clear_value x)
    | split

theorem execConvDacMuteWrite_done (n : Lane) (v : Bool) (s : State) : Done s (execConvDacMuteWrite n v s) := by
  unfold execConvDacMuteWrite
  with_reducible repeat' first
    | assumption | apply next_done | exact Keeps.refl _ | apply ite_done | apply ite_keeps | apply itep_keeps
    | apply State.hostWrite_keeps | apply State.setB_keeps | apply foldl_keeps | intro _
    | (extract_lets +onlyGivenNames x; first | (have hx : Keeps s x := ?_; clear_value x) | (have hx : Keeps s x.1 := ?_; clear_value x) | (have hf := fun a => x a; clear hf) | (have hf : CiphState := x; clear hf) | (have hf : SecState := x; clear hf) | clear_value x)
    | split

theorem execConvSettled_done (n : Lane) (side : Side) (delay : Nat) (s : State) : Done s (execConvSettled n side
    delay s) := by
  unfold execConvSettled
  with_reducible repeat' first
    | assumption | intro _ | exact Keeps.refl _ | subst x
    | (extract_lets +onlyGivenNames x; first | (have hx : Keeps s x := ?_; clear_value x) | (have hx : Keeps s x.1 := ?_; clear_value x) | (have hf := fun a => x a; clear hf) | (have hf : CiphState := x; clear hf) | (have hf : SecState := x; clear hf) | clear_value x)
    | apply next_done | apply ite_done | apply ite_keeps | apply State.setNat_keeps | apply State.convMove_keeps
    | apply State.convRegain_keeps | dsimp only | split

theorem execConvUnlock_done (n : Lane) (side : Side) (s : State) : Done s (execConvUnlock n side s) := by
  unfold execConvUnlock
  with_reducible repeat' first | apply next_done | exact Keeps.refl _ | apply State.convUnlock_keeps

theorem execSamplingRefLoss_done (die : Fin 4) (s : State) : Done s (execSamplingRefLoss die s) := by
  unfold execSamplingRefLoss
  with_reducible repeat' first
    | assumption | intro _ | exact Keeps.refl _ | subst x
    | (extract_lets +onlyGivenNames x; first | (have hx : Keeps s x := ?_; clear_value x) | (have hx : Keeps s x.1 := ?_; clear_value x) | (have hf := fun a => x a; clear hf) | (have hf : CiphState := x; clear hf) | (have hf : SecState := x; clear hf) | clear_value x)
    | apply next_done | apply ite_done | apply ite_keeps | apply State.setB_keeps | apply State.raise_keeps
    | apply State.convRefLost_keeps | apply foldl_keeps_of | dsimp only | split | refine Keeps.raw ?_ rfl rfl rfl

theorem execSamplingRefReturn_done (die : Fin 4) (s : State) : Done s (execSamplingRefReturn die s) := by
  unfold execSamplingRefReturn
  with_reducible repeat' first
    | assumption | exact Keeps.refl _ | exact id_keeps _ | exact ⟨Nat.le_refl _, fun _ => rfl⟩ | apply next_done
    | apply ite_done | apply ite_keeps | apply itep_keeps | apply State.convRegain_keeps | apply State.setB_keeps
    | apply foldl_keeps | apply foldlp_keeps | intro _
    | (extract_lets +onlyGivenNames x; first | (have hx : Keeps s x := ?_; clear_value x) | (have hx : Keeps s x.1 := ?_; clear_value x) | (have hf := fun a => x a; clear hf) | (have hf : CiphState := x; clear hf) | (have hf : SecState := x; clear hf) | clear_value x)
    | subst x | dsimp only | (apply fst_keeps; assumption) | split | refine Keeps.raw ?_ rfl rfl rfl

theorem execCaptureArm_done (n : Lane) (cfg : Word) (s : State) : Done s (execCaptureArm n cfg s) := by
  unfold execCaptureArm
  with_reducible repeat' first
    | assumption | apply next_done | exact Keeps.refl _ | apply ite_done | apply ite_keeps | apply itep_keeps
    | apply State.hostWrite_keeps | apply State.capArm_keeps | apply foldl_keeps | intro _
    | (extract_lets +onlyGivenNames x; first | (have hx : Keeps s x := ?_; clear_value x) | (have hx : Keeps s x.1 := ?_; clear_value x) | (have hf := fun a => x a; clear hf) | (have hf : CiphState := x; clear hf) | (have hf : SecState := x; clear hf) | clear_value x)
    | split

theorem execCaptureFire_done (n : Lane) (s : State) : Done s (execCaptureFire n s) := by
  unfold execCaptureFire
  with_reducible repeat' first
    | assumption | apply next_done | exact Keeps.refl _ | apply ite_done | apply ite_keeps | apply itep_keeps
    | apply State.hostWrite_keeps | apply State.capFire_keeps | apply foldl_keeps | intro _
    | (extract_lets +onlyGivenNames x; first | (have hx : Keeps s x := ?_; clear_value x) | (have hx : Keeps s x.1 := ?_; clear_value x) | (have hf := fun a => x a; clear hf) | (have hf : CiphState := x; clear hf) | (have hf : SecState := x; clear hf) | clear_value x)
    | split

theorem execCaptureComplete_done (n : Lane) (s : State) : Done s (execCaptureComplete n s) := by
  unfold execCaptureComplete
  with_reducible repeat' first
    | apply next_done | exact Keeps.refl _ | apply ite_done | apply ite_keeps | apply State.modConv_keeps
    | apply State.setB_keeps | apply State.set_keeps | apply State.memClean_keeps | apply State.raise_keeps
    | apply State.setTime80_keeps

/-! ### Rxd.lean -/

theorem execLoHostWrite_done (n : Lane) (v : BitVec 24) (s : State) : Done s (execLoHostWrite n v s) := by
  unfold execLoHostWrite
  with_reducible repeat' first
    | assumption | apply next_done | exact Keeps.refl _ | apply ite_done | apply ite_keeps | apply itep_keeps
    | apply State.hostWrite_keeps | apply State.writeLoHost_keeps | apply State.logAcc_keeps | apply foldl_keeps
    | intro _
    | (extract_lets +onlyGivenNames x; first | (have hx : Keeps s x := ?_; clear_value x) | (have hx : Keeps s x.1 := ?_; clear_value x) | (have hf := fun a => x a; clear hf) | (have hf : CiphState := x; clear hf) | (have hf : SecState := x; clear hf) | clear_value x)
    | split

theorem execLosWindowEnd_done (n : Lane) (power : Nat) (s : State) : Done s (execLosWindowEnd n power s) := by
  unfold execLosWindowEnd
  with_reducible repeat' first
    | assumption | intro _ | exact Keeps.refl _ | subst x
    | (extract_lets +onlyGivenNames x; first | (have hx : Keeps s x := ?_; clear_value x) | (have hx : Keeps s x.1 := ?_; clear_value x) | (have hf := fun a => x a; clear hf) | (have hf : CiphState := x; clear hf) | (have hf : SecState := x; clear hf) | clear_value x)
    | apply next_done | apply ite_done | apply ite_keeps | apply State.modRxd_keeps | apply State.losAssert_keeps
    | apply State.losClear_keeps | dsimp only | split

theorem execAdcGroup_done (n : Lane) (outside : List (List (Nat × Bool))) (codes : List (List Byte)) (s : State) :
    Done s (execAdcGroup n outside codes s) := by
  unfold execAdcGroup
  with_reducible repeat' first
    | assumption | intro _ | exact Keeps.refl _ | subst x
    | (extract_lets +onlyGivenNames x; first | (have hx : Keeps s x := ?_; clear_value x) | (have hx : Keeps s x.1 := ?_; clear_value x) | (have hf := fun a => x a; clear hf) | (have hf : CiphState := x; clear hf) | (have hf : SecState := x; clear hf) | clear_value x)
    | exact id_keeps _ | apply next_done | apply ite_done | apply ite_keeps | apply State.modConv_keeps
    | apply State.capGroup_keeps | apply State.rxdGroup_keeps | apply State.losAssert_keeps
    | apply State.adcChannel_keeps | apply foldl_keeps_of | dsimp only | split

theorem execRxdEnWrite_done (n : Lane) (v : Bool) (s : State) : Done s (execRxdEnWrite n v s) := by
  unfold execRxdEnWrite
  with_reducible repeat' first
    | assumption | apply next_done | exact Keeps.refl _ | apply ite_done | apply ite_keeps | apply itep_keeps
    | apply State.hostWrite_keeps | apply State.writeRxdEn_keeps | apply foldl_keeps | intro _
    | (extract_lets +onlyGivenNames x; first | (have hx : Keeps s x := ?_; clear_value x) | (have hx : Keeps s x.1 := ?_; clear_value x) | (have hf := fun a => x a; clear hf) | (have hf : CiphState := x; clear hf) | (have hf : SecState := x; clear hf) | clear_value x)
    | split

theorem execRxdAcqRestart_done (n : Lane) (s : State) : Done s (execRxdAcqRestart n s) := by
  unfold execRxdAcqRestart
  with_reducible repeat' first
    | assumption | apply next_done | exact Keeps.refl _ | apply ite_done | apply ite_keeps | apply itep_keeps
    | apply State.hostWrite_keeps | apply State.acqRestart_keeps | apply foldl_keeps | intro _
    | (extract_lets +onlyGivenNames x; first | (have hx : Keeps s x := ?_; clear_value x) | (have hx : Keeps s x.1 := ?_; clear_value x) | (have hf := fun a => x a; clear hf) | (have hf : CiphState := x; clear hf) | (have hf : SecState := x; clear hf) | clear_value x)
    | split

theorem execRxdLoModeWrite_done (n : Lane) (v : BitVec 2) (s : State) : Done s (execRxdLoModeWrite n v s) := by
  unfold execRxdLoModeWrite
  with_reducible repeat' first
    | assumption | intro _ | exact Keeps.refl _ | subst x
    | (extract_lets +onlyGivenNames x; first | (have hx : Keeps s x := ?_; clear_value x) | (have hx : Keeps s x.1 := ?_; clear_value x) | (have hf := fun a => x a; clear hf) | (have hf : CiphState := x; clear hf) | (have hf : SecState := x; clear hf) | clear_value x)
    | apply next_done | apply ite_done | apply ite_keeps | apply State.hostWrite_keeps
    | apply State.writeLoMode_keeps | dsimp only | split

theorem execRxdKsAssistWrite_done (n : Lane) (v : Bool) (s : State) : Done s (execRxdKsAssistWrite n v s) := by
  unfold execRxdKsAssistWrite
  with_reducible repeat' first
    | assumption | intro _ | exact Keeps.refl _ | subst x
    | (extract_lets +onlyGivenNames x; first | (have hx : Keeps s x := ?_; clear_value x) | (have hx : Keeps s x.1 := ?_; clear_value x) | (have hf := fun a => x a; clear hf) | (have hf : CiphState := x; clear hf) | (have hf : SecState := x; clear hf) | clear_value x)
    | apply next_done | apply ite_done | apply ite_keeps | apply State.hostWrite_keeps
    | apply State.writeKsAssist_keeps | dsimp only | split

theorem execRxdFmtSrcWrite_done (n : Lane) (v : Bool) (s : State) : Done s (execRxdFmtSrcWrite n v s) := by
  unfold execRxdFmtSrcWrite
  with_reducible repeat' first
    | assumption | intro _ | exact Keeps.refl _ | subst x
    | (extract_lets +onlyGivenNames x; first | (have hx : Keeps s x := ?_; clear_value x) | (have hx : Keeps s x.1 := ?_; clear_value x) | (have hf := fun a => x a; clear hf) | (have hf : CiphState := x; clear hf) | (have hf : SecState := x; clear hf) | clear_value x)
    | apply next_done | apply ite_done | apply ite_keeps | apply State.hostWrite_keeps
    | apply State.writeFmtSrc_keeps | dsimp only | split

theorem execSpectralEstimate_done (n : Lane) (fo : Int) (s : State) : Done s (execSpectralEstimate n fo s) := by
  unfold execSpectralEstimate
  with_reducible repeat' first
    | assumption | intro _ | exact Keeps.refl _ | subst x
    | (extract_lets +onlyGivenNames x; first | (have hx : Keeps s x := ?_; clear_value x) | (have hx : Keeps s x.1 := ?_; clear_value x) | (have hf := fun a => x a; clear hf) | (have hf : CiphState := x; clear hf) | (have hf : SecState := x; clear hf) | clear_value x)
    | apply next_done | apply ite_done | apply ite_keeps | apply State.modRxd_keeps | apply State.waitClk_keeps
    | apply State.showFo_keeps | apply State.coarseEnd_keeps | dsimp only | split

theorem execKsWaitExpiry_done (n : Lane) (s : State) : Done s (execKsWaitExpiry n s) := by
  unfold execKsWaitExpiry
  with_reducible repeat' first
    | apply next_done | exact Keeps.refl _ | apply ite_done | apply ite_keeps | apply State.waitClk_keeps
    | apply State.showOwner_keeps | apply State.modRxd_keeps | apply State.coarseEnd_keeps | split

theorem execFineEstimate_done (n : Lane) (fo : Int) (s : State) : Done s (execFineEstimate n fo s) := by
  unfold execFineEstimate
  with_reducible repeat' first
    | assumption | intro _ | exact Keeps.refl _ | subst x
    | (extract_lets +onlyGivenNames x; first | (have hx : Keeps s x := ?_; clear_value x) | (have hx : Keeps s x.1 := ?_; clear_value x) | (have hf := fun a => x a; clear hf) | (have hf : CiphState := x; clear hf) | (have hf : SecState := x; clear hf) | clear_value x)
    | apply next_done | apply ite_done | apply ite_keeps | apply State.modRxd_keeps | apply State.waitClk_keeps
    | apply State.showFo_keeps | apply State.searchDone_keeps | dsimp only | split

theorem execCdScanStep_done (n : Lane) (metric : Nat) (above : Bool) (s : State) : Done s (execCdScanStep n metric
    above s) := by
  unfold execCdScanStep
  with_reducible repeat' first
    | assumption | intro _ | exact Keeps.refl _ | subst x
    | (extract_lets +onlyGivenNames x; first | (have hx : Keeps s x := ?_; clear_value x) | (have hx : Keeps s x.1 := ?_; clear_value x) | (have hf := fun a => x a; clear hf) | (have hf : CiphState := x; clear hf) | (have hf : SecState := x; clear hf) | clear_value x)
    | apply next_done | apply ite_done | apply ite_keeps | apply State.modRxd_keeps | apply State.waitClk_keeps
    | apply State.raise_keeps | apply State.acqFail_keeps | apply State.scanStart_keeps | dsimp only | split

theorem execCdRefineDone_done (n : Lane) (cd : Int) (s : State) : Done s (execCdRefineDone n cd s) := by
  unfold execCdRefineDone
  with_reducible repeat' first
    | assumption | intro _ | exact Keeps.refl _ | subst x
    | (extract_lets +onlyGivenNames x; first | (have hx : Keeps s x := ?_; clear_value x) | (have hx : Keeps s x.1 := ?_; clear_value x) | (have hf := fun a => x a; clear hf) | (have hf : CiphState := x; clear hf) | (have hf : SecState := x; clear hf) | clear_value x)
    | apply next_done | apply ite_done | apply ite_keeps | apply State.setInt_keeps | apply State.modRxd_keeps
    | apply State.waitClk_keeps | apply State.cdToTime_keeps | apply State.compSet_keeps
    | apply State.rxdEnter_keeps | dsimp only | split

theorem execCdReestimate_done (n : Lane) (cd : Int) (s : State) : Done s (execCdReestimate n cd s) := by
  unfold execCdReestimate
  with_reducible repeat' first
    | assumption | intro _ | exact Keeps.refl _ | subst x
    | (extract_lets +onlyGivenNames x; first | (have hx : Keeps s x := ?_; clear_value x) | (have hx : Keeps s x.1 := ?_; clear_value x) | (have hf := fun a => x a; clear hf) | (have hf : CiphState := x; clear hf) | (have hf : SecState := x; clear hf) | clear_value x)
    | apply next_done | apply ite_done | apply ite_keeps | apply State.setInt_keeps | apply State.modRxd_keeps
    | apply State.waitClk_keeps | apply State.cdToTime_keeps | dsimp only | split

theorem execTimingLock_done (n : Lane) (s : State) : Done s (execTimingLock n s) := by
  unfold execTimingLock
  with_reducible repeat' first
    | apply next_done | exact Keeps.refl _ | apply ite_done | apply ite_keeps | apply State.rxdEnter_keeps

theorem execPolConverged_done (n : Lane) (s : State) : Done s (execPolConverged n s) := by
  unfold execPolConverged
  with_reducible repeat' first
    | apply next_done | exact Keeps.refl _ | apply ite_done | apply ite_keeps | apply State.rxdEnter_keeps

theorem execAcqStateTimeout_done (n : Lane) (s : State) : Done s (execAcqStateTimeout n s) := by
  unfold execAcqStateTimeout
  with_reducible repeat' first
    | apply next_done | exact Keeps.refl _ | apply ite_done | apply ite_keeps | apply State.acqFail_keeps
    | apply State.waitClk_keeps

theorem execWarmReacqTimeout_done (n : Lane) (s : State) : Done s (execWarmReacqTimeout n s) := by
  unfold execWarmReacqTimeout
  with_reducible repeat' first
    | apply next_done | exact Keeps.refl _ | apply ite_done | apply ite_keeps | apply State.acqFail_keeps
    | apply State.waitClk_keeps

theorem execEqDiverge_done (n : Lane) (s : State) : Done s (execEqDiverge n s) := by
  unfold execEqDiverge
  with_reducible repeat' first
    | apply next_done | exact Keeps.refl _ | apply ite_done | apply ite_keeps | apply State.rxdWarm_keeps

theorem execLoUpdateTick_done (n : Lane) (s : State) : Done s (execLoUpdateTick n s) := by
  unfold execLoUpdateTick
  with_reducible repeat' first
    | apply next_done | exact Keeps.refl _ | apply ite_done | apply ite_keeps | apply State.waitClk_keeps
    | apply State.modRxd_keeps | apply State.loDelta_keeps | split

theorem execTrimUpdate_done (n : Lane) (want : Int) (s : State) : Done s (execTrimUpdate n want s) := by
  unfold execTrimUpdate
  with_reducible repeat' first
    | assumption | intro _ | exact Keeps.refl _ | subst x
    | (extract_lets +onlyGivenNames x; first | (have hx : Keeps s x := ?_; clear_value x) | (have hx : Keeps s x.1 := ?_; clear_value x) | (have hf := fun a => x a; clear hf) | (have hf : CiphState := x; clear hf) | (have hf : SecState := x; clear hf) | clear_value x)
    | apply next_done | apply ite_done | apply ite_keeps | apply State.setB_keeps | apply State.setInt_keeps
    | apply State.raiseIf_keeps | dsimp only | split

theorem execRxdMetricsUpdate_done (n : Lane) (m : Metrics) (s : State) : Done s (execRxdMetricsUpdate n m s) := by
  unfold execRxdMetricsUpdate
  with_reducible repeat' first
    | assumption | intro _ | exact Keeps.refl _ | subst x
    | (extract_lets +onlyGivenNames x; first | (have hx : Keeps s x := ?_; clear_value x) | (have hx : Keeps s x.1 := ?_; clear_value x) | (have hf := fun a => x a; clear hf) | (have hf : CiphState := x; clear hf) | (have hf : SecState := x; clear hf) | clear_value x)
    | apply next_done | apply ite_done | apply ite_keeps | apply State.setNat_keeps | apply State.setInt_keeps
    | apply State.modRxd_keeps | apply State.cdToTime_keeps | dsimp only | split

theorem execNlcReady_done (n : Lane) (s : State) : Done s (execNlcReady n s) := by
  unfold execNlcReady
  with_reducible repeat' first
    | assumption | intro _ | exact Keeps.refl _ | subst x
    | (extract_lets +onlyGivenNames x; first | (have hx : Keeps s x := ?_; clear_value x) | (have hx : Keeps s x.1 := ?_; clear_value x) | (have hf := fun a => x a; clear hf) | (have hf : CiphState := x; clear hf) | (have hf : SecState := x; clear hf) | clear_value x)
    | apply next_done | apply ite_done | apply ite_keeps | apply State.modRxd_keeps | dsimp only | split

/-! ### Txd.lean -/

theorem execTxdEnWrite_done (n : Lane) (v : Bool) (s : State) : Done s (execTxdEnWrite n v s) := by
  unfold execTxdEnWrite
  with_reducible repeat' first
    | assumption | apply next_done | exact Keeps.refl _ | apply ite_done | apply ite_keeps | apply itep_keeps
    | apply State.hostWrite_keeps | apply State.txdNow_keeps | apply State.setB_keeps | apply foldl_keeps | intro _
    | (extract_lets +onlyGivenNames x; first | (have hx : Keeps s x := ?_; clear_value x) | (have hx : Keeps s x.1 := ?_; clear_value x) | (have hf := fun a => x a; clear hf) | (have hf : CiphState := x; clear hf) | (have hf : SecState := x; clear hf) | clear_value x)
    | split

theorem execTxdModeWrite_done (n : Lane) (v : Bool) (s : State) : Done s (execTxdModeWrite n v s) := by
  unfold execTxdModeWrite
  with_reducible repeat' first
    | assumption | apply next_done | exact Keeps.refl _ | apply ite_done | apply ite_keeps | apply itep_keeps
    | apply State.hostWrite_keeps | apply State.txdNow_keeps | apply State.setB_keeps | apply foldl_keeps | intro _
    | (extract_lets +onlyGivenNames x; first | (have hx : Keeps s x := ?_; clear_value x) | (have hx : Keeps s x.1 := ?_; clear_value x) | (have hf := fun a => x a; clear hf) | (have hf : CiphState := x; clear hf) | (have hf : SecState := x; clear hf) | clear_value x)
    | split

theorem execKsGroupMissed_done (n : Lane) (s : State) : Done s (execKsGroupMissed n s) := by
  unfold execKsGroupMissed
  with_reducible repeat' first
    | assumption | intro _ | exact Keeps.refl _ | subst x
    | (extract_lets +onlyGivenNames x; first | (have hx : Keeps s x := ?_; clear_value x) | (have hx : Keeps s x.1 := ?_; clear_value x) | (have hf := fun a => x a; clear hf) | (have hf : CiphState := x; clear hf) | (have hf : SecState := x; clear hf) | clear_value x)
    | apply next_done | apply ite_done | apply ite_keeps | apply State.modTx_keeps | apply State.raise_keeps
    | dsimp only | split

theorem execDacGroup_done (n : Lane) (at_ : Nat) (ks : Int) (s : State) : Done s (execDacGroup n at_ ks s) := by
  unfold execDacGroup
  with_reducible repeat' first
    | assumption | intro _ | exact Keeps.refl _ | subst x
    | (extract_lets +onlyGivenNames x; first | (have hx : Keeps s x := ?_; clear_value x) | (have hx : Keeps s x.1 := ?_; clear_value x) | (have hf := fun a => x a; clear hf) | (have hf : CiphState := x; clear hf) | (have hf : SecState := x; clear hf) | clear_value x)
    | apply next_done | apply ite_done | apply ite_keeps | apply State.modConv_keeps | apply State.modTx_keeps
    | apply State.addCnt_keeps | apply State.raise_keeps | apply State.capGroup_keeps
    | apply State.levelEnters_keeps | dsimp only | split

/-! ### TxLf.lean -/

theorem execTxLfStart_done (n : Lane) (phase : Fin 1600) (s : State) : Done s (execTxLfStart n phase s) := by
  unfold execTxLfStart
  refine ite_done _ (Keeps.refl s) ?_
  extract_lets +onlyGivenNames t g at_ s1 ps s2 s3
  have h1 : Keeps s s1 := State.waitClk_keeps _ _ (Keeps.refl s)
  have h2 : Keeps s s2 := by
    subst s2
    split
    · exact State.courseTx_keeps _ _ h1
    · exact h1
  have h3 : Keeps s s3 := State.txdAtStart_keeps _ _ (State.gridGo_keeps _ _ _ _ h2)
  refine ite_done _ (State.lfSignal_keeps _ _ _ h3) (ite_done _ (State.lfAssemble_keeps _ _ _ h3) ?_)
  extract_lets frames bdi s4
  have h4 : Keeps s s4 := State.setB_keeps _ _ _ (State.modTx_keeps _ _ _ h3)
  exact State.sendSymbols_keeps _ _ _ (State.addCnt_keeps _ _ _ h4)


/-! ### RxLf.lean -/

theorem execLfrMarkerMatch_done (n : Lane) (pos hyp diff : Nat) (s : State) : Done s (execLfrMarkerMatch n pos hyp
    diff s) := by
  unfold execLfrMarkerMatch
  with_reducible repeat' first
    | apply next_done | exact Keeps.refl _ | apply ite_done | apply ite_keeps | apply State.zrLock_keeps
    | apply State.raise_keeps | apply State.lfrCount_keeps | apply State.modLfr_keeps | apply State.set_keeps
    | apply State.showCands_keeps

theorem execLfrExpectedPosition_done (n : Lane) (cand : Option (Fin 4)) (hyp diff : Nat) (phase : Fin 1600000) (s :
    State) : Done s (execLfrExpectedPosition n cand hyp diff phase s) := by
  unfold execLfrExpectedPosition
  with_reducible repeat' first
    | assumption | intro _ | exact Keeps.refl _ | subst x
    | (extract_lets +onlyGivenNames x; first | (have hx : Keeps s x := ?_; clear_value x) | (have hx : Keeps s x.1 := ?_; clear_value x) | (have hf := fun a => x a; clear hf) | (have hf : CiphState := x; clear hf) | (have hf : SecState := x; clear hf) | clear_value x)
    | apply next_done | apply ite_done | apply ite_keeps | apply State.raise_keeps | apply State.rxdInFrame_keeps
    | apply State.rxdSlip_keeps | apply State.lfrCount_keeps | apply State.lossOfSync_keeps
    | apply State.candTest_keeps | apply State.syncTest_keeps | dsimp only | split

theorem execLfrExclusionExpiry_done (n : Lane) (pos : Nat) (s : State) : Done s (execLfrExclusionExpiry n pos s) := by
  unfold execLfrExclusionExpiry
  with_reducible repeat' first
    | apply next_done | exact Keeps.refl _ | apply ite_done | apply ite_keeps | apply State.waitClk_keeps
    | apply State.modLfr_keeps | split

theorem execLfDelivered_done (n : Lane) (lf : LfIn) (s : State) : Done s (execLfDelivered n lf s) := by
  unfold execLfDelivered
  refine ite_done _ (Keeps.refl s) (ite_done _ ?_ ?_)
  · extract_lets due t
    have h : Keeps s t := ite_keeps _ _ _ (State.courseRx_keeps _ _ (Keeps.refl s)) (Keeps.refl s)
    clear_value t
    exact ite_done _ h (State.zrFrame_keeps _ _ _ h)
  · split
    · exact Keeps.refl s
    · extract_lets t
      have h1 : Keeps s t := State.nlcBoundary_keeps _ _ (State.rxCourseTurn_keeps _ _ (State.lfrCount_keeps _ _ _ _
        (State.sdCount_keeps _ _ (Keeps.refl s))))
      clear_value t
      split
      · exact h1
      · have h2 := State.lfNext_keeps _ _ _ (by assumption) h1
        refine ite_done _ h2 ?_
        extract_lets f v u
        have h3 : Keeps s f.1 := State.fecLf_keeps _ _ _ _ h2
        have h4 : Keeps s v.1 := State.verify_keeps _ _ _ h3
        have h5 : Keeps s u := State.lfNative_keeps _ _ _ _ h4
        clear_value u v
        exact ite_keeps _ _ _ h5 (State.verifyFail_keeps _ _ h5)


/-! ### Ksc.lean -/

theorem execKscEnWrite_done (n : Lane) (v : Bool) (s : State) : Done s (execKscEnWrite n v s) := by
  unfold execKscEnWrite
  with_reducible repeat' first
    | assumption | apply next_done | exact Keeps.refl _ | apply ite_done | apply ite_keeps | apply itep_keeps
    | apply State.hostWrite_keeps | apply State.kscJudge_keeps | apply State.setB_keeps | apply foldl_keeps | intro _
    | (extract_lets +onlyGivenNames x; first | (have hx : Keeps s x := ?_; clear_value x) | (have hx : Keeps s x.1 := ?_; clear_value x) | (have hf := fun a => x a; clear hf) | (have hf : CiphState := x; clear hf) | (have hf : SecState := x; clear hf) | clear_value x)
    | split

theorem execKsFarTimeout_done (n : Lane) (s : State) : Done s (execKsFarTimeout n s) := by
  unfold execKsFarTimeout
  with_reducible repeat' first
    | apply next_done | exact Keeps.refl _ | apply ite_done | apply ite_keeps | apply State.waitClk_keeps
    | apply State.raise_keeps | apply State.set_keeps

theorem execBeaconDue_done (n : Lane) (s : State) : Done s (execBeaconDue n s) := by
  unfold execBeaconDue
  with_reducible repeat' first
    | apply next_done | exact Keeps.refl _ | apply ite_done | apply ite_keeps | apply State.waitClk_keeps
    | apply State.modKsc_keeps | apply State.ksQueue_keeps | split

theorem execRangeReqDue_done (n : Lane) (s : State) : Done s (execRangeReqDue n s) := by
  unfold execRangeReqDue
  with_reducible repeat' first
    | apply next_done | exact Keeps.refl _ | apply ite_done | apply ite_keeps | apply State.waitClk_keeps
    | apply State.modKsc_keeps | apply State.ksQueue_keeps | split

theorem execKsTxStart_done (n : Lane) (s : State) : Done s (execKsTxStart n s) := by
  unfold execKsTxStart
  with_reducible repeat' first
    | assumption | intro _ | exact Keeps.refl _ | subst x
    | (extract_lets +onlyGivenNames x; first | (have hx : Keeps s x := ?_; clear_value x) | (have hx : Keeps s x.1 := ?_; clear_value x) | (have hf := fun a => x a; clear hf) | (have hf : CiphState := x; clear hf) | (have hf : SecState := x; clear hf) | clear_value x)
    | apply next_done | apply ite_done | apply ite_keeps | apply State.modKsc_keeps | apply State.waitTb_keeps
    | apply State.ksStart_keeps | dsimp only | split

theorem execKsTxEnd_done (n : Lane) (s : State) : Done s (execKsTxEnd n s) := by
  unfold execKsTxEnd
  with_reducible repeat' first
    | assumption | intro _ | exact Keeps.refl _ | subst x
    | (extract_lets +onlyGivenNames x; first | (have hx : Keeps s x := ?_; clear_value x) | (have hx : Keeps s x.1 := ?_; clear_value x) | (have hf := fun a => x a; clear hf) | (have hf : CiphState := x; clear hf) | (have hf : SecState := x; clear hf) | clear_value x)
    | apply next_done | apply ite_done | apply ite_keeps | apply State.set_keeps | apply State.setB_keeps
    | apply State.modKsc_keeps | apply State.waitClk_keeps | apply State.showEgress_keeps
    | apply State.kscCount_keeps | apply State.ksCourse_keeps | dsimp only | split

theorem execKsMgmtQueue_done (n : Lane) (bytes : List Byte) (s : State) : Done s (execKsMgmtQueue n bytes s) := by
  unfold execKsMgmtQueue
  with_reducible repeat' first | apply next_done | exact Keeps.refl _ | apply State.ksMgmt_keeps

theorem execKsMgmtTimeout_done (n : Lane) (s : State) : Done s (execKsMgmtTimeout n s) := by
  unfold execKsMgmtTimeout
  with_reducible repeat' first
    | apply next_done | exact Keeps.refl _ | apply ite_done | apply ite_keeps | apply State.waitClk_keeps
    | apply State.raise_keeps | apply State.kscCount_keeps | apply State.modKsc_keeps | split

theorem execKsDetection_done (n : Lane) (chan : Int) (bin : KsPeak) (snr : Int) (s : State) : Done s (execKsDetection
    n chan bin snr s) := by
  unfold execKsDetection
  with_reducible repeat' first
    | assumption | intro _ | exact Keeps.refl _ | subst x
    | (extract_lets +onlyGivenNames x; first | (have hx : Keeps s x := ?_; clear_value x) | (have hx : Keeps s x.1 := ?_; clear_value x) | (have hf := fun a => x a; clear hf) | (have hf : CiphState := x; clear hf) | (have hf : SecState := x; clear hf) | clear_value x)
    | apply next_done | apply ite_done | apply ite_keeps | apply State.modKsc_keeps | apply State.showRx_keeps
    | apply State.kscCount_keeps | dsimp only | split

theorem execKsPreambleEnd_done (n : Lane) (cand found : Bool) (s : State) : Done s (execKsPreambleEnd n cand found s) := by
  unfold execKsPreambleEnd
  with_reducible repeat' first
    | apply next_done | exact Keeps.refl _ | apply ite_done | apply ite_keeps | apply State.ksPut_keeps
    | apply State.ksGiveUp_keeps | split

theorem execKsSyncEnd_done (n : Lane) (cand : Bool) (shift1 shift2 : Nat) (fo : Int) (delay : Nat) (s : State) : Done
    s (execKsSyncEnd n cand shift1 shift2 fo delay s) := by
  unfold execKsSyncEnd
  with_reducible repeat' first
    | apply next_done | exact Keeps.refl _ | apply ite_done | apply ite_keeps | apply State.ksPut_keeps
    | apply State.showRx_keeps | apply State.modKsc_keeps | apply State.kscLog_keeps | apply State.raise_keeps
    | apply State.kscCount_keeps | apply State.ksGiveUp_keeps | split

theorem execKsHeaderDecoded_done (n : Lane) (header : KsBlock) (s : State) : Done s (execKsHeaderDecoded n header s)
    := by
  unfold execKsHeaderDecoded
  with_reducible repeat' first
    | assumption | intro _ | exact Keeps.refl _ | subst x
    | (extract_lets +onlyGivenNames x; first | (have hx : Keeps s x := ?_; clear_value x) | (have hx : Keeps s x.1 := ?_; clear_value x) | (have hf := fun a => x a; clear hf) | (have hf : CiphState := x; clear hf) | (have hf : SecState := x; clear hf) | clear_value x)
    | apply next_done | apply ite_done | apply ite_keeps | apply State.raise_keeps | apply State.kscCount_keeps
    | apply State.rxEnd_keeps | apply State.kscLog_keeps | apply State.ksPut_keeps | apply State.ksAccept_keeps
    | dsimp only | split

theorem execKsPayloadDecoded_done (n : Lane) (bytes : KsBlock) (s : State) : Done s (execKsPayloadDecoded n bytes s)
    := by
  unfold execKsPayloadDecoded
  with_reducible repeat' first
    | assumption | intro _ | exact Keeps.refl _ | subst x
    | (extract_lets +onlyGivenNames x; first | (have hx : Keeps s x := ?_; clear_value x) | (have hx : Keeps s x.1 := ?_; clear_value x) | (have hf := fun a => x a; clear hf) | (have hf : CiphState := x; clear hf) | (have hf : SecState := x; clear hf) | clear_value x)
    | apply next_done | apply ite_done | apply ite_keeps | apply State.raise_keeps | apply State.kscCount_keeps
    | apply State.rxEnd_keeps | apply State.ksAccept_keeps | dsimp only | split

theorem execRangeTimeout_done (n : Lane) (s : State) : Done s (execRangeTimeout n s) := by
  unfold execRangeTimeout
  with_reducible repeat' first
    | apply next_done | exact Keeps.refl _ | apply ite_done | apply ite_keeps | apply State.waitClk_keeps
    | apply State.raise_keeps | apply State.kscCount_keeps | apply State.modKsc_keeps | split

theorem execCrsDiffTimeout_done (n : Lane) (s : State) : Done s (execCrsDiffTimeout n s) := by
  unfold execCrsDiffTimeout
  with_reducible repeat' first
    | apply next_done | exact Keeps.refl _ | apply ite_done | apply ite_keeps | apply State.raise_keeps
    | apply State.waitBefore_keeps

end Sys2Proof.Machine
end

