-- ==== Sys2Proof/Laws/DoneClient.lean ====
section
/-!
SUPPORT. Each meaning answers a next state and undoes nothing of what `Keeps` lists: TIME, CIPH, CLI, HKM and Courses.
-/

-- one theorem after another: all at once would not fit the memory
set_option Elab.async false
set_option linter.all false

namespace Sys2Proof.Machine

/-! ### Time.lean -/

theorem execServoSampleTimeout_done (x : Fin 3) (s : State) : Done s (execServoSampleTimeout x s) := by
  unfold execServoSampleTimeout
  with_reducible repeat' first
    | apply next_done | exact Keeps.refl _ | apply ite_done | apply ite_keeps | apply State.syncTb_keeps
    | apply State.setTbState_keeps | apply State.waitClk_keeps

theorem execServoSrcWrite_done (x : Fin 3) (v : Word) (s : State) : Done s (execServoSrcWrite x v s) := by
  unfold execServoSrcWrite
  with_reducible repeat' first
    | assumption | apply next_done | exact Keeps.refl _ | apply ite_done | apply ite_keeps | apply itep_keeps
    | apply State.hostWrite_keeps | apply State.writeServo_keeps | apply foldl_keeps | intro _
    | (extract_lets +onlyGivenNames x; first | (have hx : Keeps s x := ?_; clear_value x) | (have hx : Keeps s x.1 := ?_; clear_value x) | (have hf := fun a => x a; clear hf) | (have hf : CiphState := x; clear hf) | (have hf : SecState := x; clear hf) | clear_value x)
    | split

theorem execHostOfsWrite_done (by_ : Source) (x : Fin 3) (v : Word) (s : State) : Done s (execHostOfsWrite by_ x v s) := by
  unfold execHostOfsWrite
  with_reducible repeat' first
    | assumption | apply next_done | exact Keeps.refl _ | apply ite_done | apply ite_keeps | apply itep_keeps
    | apply State.byWrite_keeps | apply State.answer_keeps | apply State.writeHostOfs_keeps | apply foldl_keeps
    | intro _
    | (extract_lets +onlyGivenNames x; first | (have hx : Keeps s x := ?_; clear_value x) | (have hx : Keeps s x.1 := ?_; clear_value x) | (have hf := fun a => x a; clear hf) | (have hf : CiphState := x; clear hf) | (have hf : SecState := x; clear hf) | clear_value x)
    | split

theorem execPpsEdge_done (i : Fin 4) (ps : Nat) (s : State) : Done s (execPpsEdge i ps s) := by
  unfold execPpsEdge
  with_reducible repeat' first
    | assumption | apply next_done | exact Keeps.refl _ | apply ite_done | apply ite_keeps | apply itep_keeps
    | apply State.setStamp_keeps | apply State.acceptSample_keeps | apply foldl_keeps | intro _
    | (extract_lets +onlyGivenNames x; first | (have hx : Keeps s x := ?_; clear_value x) | (have hx : Keeps s x.1 := ?_; clear_value x) | (have hf := fun a => x a; clear hf) | (have hf : CiphState := x; clear hf) | (have hf : SecState := x; clear hf) | clear_value x)
    | split

theorem execUtcChange_done (s : State) : Done s (execUtcChange s) := by
  unfold execUtcChange
  with_reducible repeat' first
    | assumption | intro _ | exact Keeps.refl _ | subst x
    | (extract_lets +onlyGivenNames x; first | (have hx : Keeps s x := ?_; clear_value x) | (have hx : Keeps s x.1 := ?_; clear_value x) | (have hf := fun a => x a; clear hf) | (have hf : CiphState := x; clear hf) | (have hf : SecState := x; clear hf) | clear_value x)
    | apply next_done | apply ite_done | apply ite_keeps | apply State.elapse_keeps | apply State.waitTb_keeps
    | apply State.utcAct_keeps | dsimp only | split

theorem execOscinFail_done (s : State) : Done s (execOscinFail s) := by
  unfold execOscinFail
  with_reducible repeat' first
    | assumption | exact Keeps.refl _ | exact id_keeps _ | exact ⟨Nat.le_refl _, fun _ => rfl⟩ | apply next_done
    | apply ite_done | apply ite_keeps | apply itep_keeps | apply State.oscinFails_keeps | apply State.setB_keeps
    | apply State.servosHold_keeps | apply foldl_keeps | apply foldlp_keeps | intro _
    | (extract_lets +onlyGivenNames x; first | (have hx : Keeps s x := ?_; clear_value x) | (have hx : Keeps s x.1 := ?_; clear_value x) | (have hf := fun a => x a; clear hf) | (have hf : CiphState := x; clear hf) | (have hf : SecState := x; clear hf) | clear_value x)
    | subst x | dsimp only | (apply fst_keeps; assumption) | split | refine Keeps.raw ?_ rfl rfl rfl

theorem execOscinReturn_done (s : State) : Done s (execOscinReturn s) := by
  unfold execOscinReturn
  with_reducible repeat' first
    | assumption | exact Keeps.refl _ | exact id_keeps _ | exact ⟨Nat.le_refl _, fun _ => rfl⟩ | apply next_done
    | apply ite_done | apply ite_keeps | apply itep_keeps | apply State.oscinReturns_keeps | apply foldl_keeps
    | apply foldlp_keeps | intro _
    | (extract_lets +onlyGivenNames x; first | (have hx : Keeps s x := ?_; clear_value x) | (have hx : Keeps s x.1 := ?_; clear_value x) | (have hf := fun a => x a; clear hf) | (have hf : CiphState := x; clear hf) | (have hf : SecState := x; clear hf) | clear_value x)
    | subst x | dsimp only | (apply fst_keeps; assumption) | split | refine Keeps.raw ?_ rfl rfl rfl

theorem execTimeOscinWaitEnd_done (s : State) : Done s (execTimeOscinWaitEnd s) := by
  unfold execTimeOscinWaitEnd
  with_reducible repeat' first
    | apply next_done | exact Keeps.refl _ | apply ite_done | apply ite_keeps | apply State.waitClk_keeps
    | apply State.syncTbs_keeps | apply State.setB_keeps | split

theorem execTimeFallbackStart_done (n : Lane) (s : State) : Done s (execTimeFallbackStart n s) := by
  unfold execTimeFallbackStart
  with_reducible repeat' first
    | apply next_done | exact Keeps.refl _ | apply ite_done | apply ite_keeps | apply State.waitClk_keeps
    | apply State.setB_keeps | apply State.ksSample_keeps

theorem execPtpMessageRx_done (p : Fin 64) (m : PtpRx) (s : State) : Done s (execPtpMessageRx p m s) := by
  unfold execPtpMessageRx
  with_reducible repeat' first
    | assumption | intro _ | exact Keeps.refl _ | subst x
    | (extract_lets +onlyGivenNames x; first | (have hx : Keeps s x := ?_; clear_value x) | (have hx : Keeps s x.1 := ?_; clear_value x) | (have hf := fun a => x a; clear hf) | (have hf : CiphState := x; clear hf) | (have hf : SecState := x; clear hf) | clear_value x)
    | apply next_done | apply ite_done | apply ite_keeps | apply State.setObj_keeps | apply State.acceptSample_keeps
    | apply State.ptpPorts_keeps | apply State.ptpEmit_keeps | apply State.ptpUtc_keeps | dsimp only | split

theorem execPtpMessageTx_done (p : Fin 64) (kind : PtpTx) (s : State) : Done s (execPtpMessageTx p kind s) := by
  unfold execPtpMessageTx
  with_reducible repeat' first
    | assumption | intro _ | exact Keeps.refl _ | subst x
    | (extract_lets +onlyGivenNames x; first | (have hx : Keeps s x := ?_; clear_value x) | (have hx : Keeps s x.1 := ?_; clear_value x) | (have hf := fun a => x a; clear hf) | (have hf : CiphState := x; clear hf) | (have hf : SecState := x; clear hf) | clear_value x)
    | apply next_done | apply ite_done | apply ite_keeps | apply State.ptpPorts_keeps | apply State.ptpEmit_keeps
    | apply State.ptpDue_keeps | dsimp only | split

theorem execPtpEnWrite_done (v : Bool) (s : State) : Done s (execPtpEnWrite v s) := by
  unfold execPtpEnWrite
  with_reducible repeat' first
    | assumption | apply next_done | exact Keeps.refl _ | apply ite_done | apply ite_keeps | apply itep_keeps
    | apply State.hostWrite_keeps | apply State.ptpPorts_keeps | apply State.setB_keeps | apply foldl_keeps | intro _
    | (extract_lets +onlyGivenNames x; first | (have hx : Keeps s x := ?_; clear_value x) | (have hx : Keeps s x.1 := ?_; clear_value x) | (have hf := fun a => x a; clear hf) | (have hf : CiphState := x; clear hf) | (have hf : SecState := x; clear hf) | clear_value x)
    | split

theorem execLaunchArm_done (d : Fin 32) (v : Word) (s : State) : Done s (execLaunchArm d v s) := by
  unfold execLaunchArm
  with_reducible repeat' first
    | assumption | apply next_done | exact Keeps.refl _ | apply ite_done | apply ite_keeps | apply itep_keeps
    | apply State.hostWrite_keeps | apply State.writeLaunch_keeps | apply foldl_keeps | intro _
    | (extract_lets +onlyGivenNames x; first | (have hx : Keeps s x := ?_; clear_value x) | (have hx : Keeps s x.1 := ?_; clear_value x) | (have hf := fun a => x a; clear hf) | (have hf : CiphState := x; clear hf) | (have hf : SecState := x; clear hf) | clear_value x)
    | split

theorem execLaunchSend_done (d : Fin 32) (err : Int) (s : State) : Done s (execLaunchSend d err s) := by
  unfold execLaunchSend
  with_reducible repeat' first
    | assumption | intro _ | exact Keeps.refl _ | subst x
    | (extract_lets +onlyGivenNames x; first | (have hx : Keeps s x := ?_; clear_value x) | (have hx : Keeps s x.1 := ?_; clear_value x) | (have hf := fun a => x a; clear hf) | (have hf : CiphState := x; clear hf) | (have hf : SecState := x; clear hf) | clear_value x)
    | apply next_done | apply ite_done | apply ite_keeps | apply State.waitClk_keeps | apply State.waitTb_keeps
    | apply State.launchNow_keeps | dsimp only | split

theorem execPpsEnWrite_done (v : Bool) (s : State) : Done s (execPpsEnWrite v s) := by
  unfold execPpsEnWrite
  with_reducible repeat' first
    | assumption | apply next_done | exact Keeps.refl _ | apply ite_done | apply ite_keeps | apply itep_keeps
    | apply State.hostWrite_keeps | apply State.writePpsEn_keeps | apply State.logAcc_keeps | apply foldl_keeps
    | intro _
    | (extract_lets +onlyGivenNames x; first | (have hx : Keeps s x := ?_; clear_value x) | (have hx : Keeps s x.1 := ?_; clear_value x) | (have hf := fun a => x a; clear hf) | (have hf : CiphState := x; clear hf) | (have hf : SecState := x; clear hf) | clear_value x)
    | split

theorem execPpsPulse_done (s : State) : Done s (execPpsPulse s) := by
  unfold execPpsPulse
  with_reducible repeat' first
    | assumption | intro _ | exact Keeps.refl _ | subst x
    | (extract_lets +onlyGivenNames x; first | (have hx : Keeps s x := ?_; clear_value x) | (have hx : Keeps s x.1 := ?_; clear_value x) | (have hf := fun a => x a; clear hf) | (have hf : CiphState := x; clear hf) | (have hf : SecState := x; clear hf) | clear_value x)
    | apply next_done | apply ite_done | apply ite_keeps | apply State.elapse_keeps | apply State.emit_keeps
    | apply State.modTime_keeps | dsimp only | split

/-! ### Ciph.lean -/

theorem execEsHealthFail_done (s : State) : Done s (execEsHealthFail s) := by
  unfold execEsHealthFail
  with_reducible repeat' first
    | apply next_done | exact Keeps.refl _ | apply ite_done | apply ite_keeps | apply State.raise_keeps
    | apply State.setB_keeps

theorem execDrbgReseed_done (i : Fin 21) (s : State) : Done s (execDrbgReseed i s) := by
  unfold execDrbgReseed
  with_reducible repeat' first
    | assumption | exact Keeps.refl _ | exact id_keeps _ | exact ⟨Nat.le_refl _, fun _ => rfl⟩ | apply next_done
    | apply ite_done | apply ite_keeps | apply itep_keeps | apply State.setB_keeps | apply foldl_keeps
    | apply foldlp_keeps | intro _
    | (extract_lets +onlyGivenNames x; first | (have hx : Keeps s x := ?_; clear_value x) | (have hx : Keeps s x.1 := ?_; clear_value x) | (have hf := fun a => x a; clear hf) | (have hf : CiphState := x; clear hf) | (have hf : SecState := x; clear hf) | clear_value x)
    | subst x | dsimp only | (apply fst_keeps; assumption) | split | refine Keeps.raw ?_ rfl rfl rfl

theorem execKeyLoadClear_done (by_ : Source) (slot : Fin 8192) (key : BitVec 256) (s : State) : Done s
    (execKeyLoadClear by_ slot key s) := by
  unfold execKeyLoadClear
  with_reducible repeat' first
    | assumption | apply next_done | exact Keeps.refl _ | apply ite_done | apply ite_keeps | apply itep_keeps
    | apply State.ciphWrite_keeps | apply State.loadClear_keeps | apply foldl_keeps | intro _
    | (extract_lets +onlyGivenNames x; first | (have hx : Keeps s x := ?_; clear_value x) | (have hx : Keeps s x.1 := ?_; clear_value x) | (have hf := fun a => x a; clear hf) | (have hf : CiphState := x; clear hf) | (have hf : SecState := x; clear hf) | clear_value x)
    | split

theorem execKeyZeroise_done (by_ : Source) (slot : Fin 8192) (s : State) : Done s (execKeyZeroise by_ slot s) := by
  unfold execKeyZeroise
  with_reducible repeat' first
    | assumption | apply next_done | exact Keeps.refl _ | apply ite_done | apply ite_keeps | apply itep_keeps
    | apply State.ciphWrite_keeps | apply State.zeroiseSlot_keeps | apply foldl_keeps | intro _
    | (extract_lets +onlyGivenNames x; first | (have hx : Keeps s x := ?_; clear_value x) | (have hx : Keeps s x.1 := ?_; clear_value x) | (have hf := fun a => x a; clear hf) | (have hf : CiphState := x; clear hf) | (have hf : SecState := x; clear hf) | clear_value x)
    | split

theorem execZeroAll_done (by_ : Source) (s : State) : Done s (execZeroAll by_ s) := by
  unfold execZeroAll
  with_reducible repeat' first
    | assumption | apply next_done | exact Keeps.refl _ | apply ite_done | apply ite_keeps | apply itep_keeps
    | apply State.ciphWrite_keeps | apply State.answer_keeps | apply State.zeroAll_keeps | apply foldl_keeps | intro _
    | (extract_lets +onlyGivenNames x; first | (have hx : Keeps s x := ?_; clear_value x) | (have hx : Keeps s x.1 := ?_; clear_value x) | (have hf := fun a => x a; clear hf) | (have hf : CiphState := x; clear hf) | (have hf : SecState := x; clear hf) | clear_value x)
    | split

theorem execZeroAllClearDone_done (s : State) : Done s (execZeroAllClearDone s) := by
  unfold execZeroAllClearDone
  with_reducible repeat' first
    | assumption | exact Keeps.refl _ | exact id_keeps _ | exact ⟨Nat.le_refl _, fun _ => rfl⟩ | apply next_done
    | apply ite_done | apply ite_keeps | apply itep_keeps | apply State.raise_keeps | apply foldl_keeps
    | apply foldlp_keeps | intro _
    | (extract_lets +onlyGivenNames x; first | (have hx : Keeps s x := ?_; clear_value x) | (have hx : Keeps s x.1 := ?_; clear_value x) | (have hf := fun a => x a; clear hf) | (have hf : CiphState := x; clear hf) | (have hf : SecState := x; clear hf) | clear_value x)
    | subst x | dsimp only | (apply fst_keeps; assumption) | split | refine Keeps.raw ?_ rfl rfl rfl

theorem execRngFailTimeout_done (s : State) : Done s (execRngFailTimeout s) := by
  unfold execRngFailTimeout
  with_reducible repeat' first
    | assumption | intro _ | exact Keeps.refl _ | subst x
    | (extract_lets +onlyGivenNames x; first | (have hx : Keeps s x := ?_; clear_value x) | (have hx : Keeps s x.1 := ?_; clear_value x) | (have hf := fun a => x a; clear hf) | (have hf : CiphState := x; clear hf) | (have hf : SecState := x; clear hf) | clear_value x)
    | apply next_done | apply ite_done | apply ite_keeps | apply State.setB_keeps | apply State.waitClk_keeps
    | apply State.raise_keeps | apply State.ctxStop_keeps | apply State.jobEnd_keeps | apply foldl_keeps_of
    | dsimp only | split

theorem execCtxIvLoad_done (by_ : Source) (c : BitVec 16) (iv : BitVec 128) (s : State) : Done s (execCtxIvLoad by_ c
    iv s) := by
  unfold execCtxIvLoad
  with_reducible repeat' first
    | assumption | apply next_done | exact Keeps.refl _ | apply ite_done | apply ite_keeps | apply itep_keeps
    | apply State.ciphWrite_keeps | apply State.directIv_keeps | apply State.answer_keeps | apply foldl_keeps
    | intro _
    | (extract_lets +onlyGivenNames x; first | (have hx : Keeps s x := ?_; clear_value x) | (have hx : Keeps s x.1 := ?_; clear_value x) | (have hf := fun a => x a; clear hf) | (have hf : CiphState := x; clear hf) | (have hf : SecState := x; clear hf) | clear_value x)
    | split

theorem execPrevKeyRelease_done (c : BitVec 16) (s : State) : Done s (execPrevKeyRelease c s) := by
  unfold execPrevKeyRelease
  with_reducible repeat' first
    | apply next_done | exact Keeps.refl _ | apply ite_done | apply ite_keeps | apply State.modCtx_keeps
    | apply State.waitClk_keeps | split

theorem execJobEnc_done (by_ : Source) (j : Fin 16) (d : JobDesc) (s : State) : Done s (execJobEnc by_ j d s) := by
  unfold execJobEnc
  with_reducible repeat' first | apply next_done | exact Keeps.refl _ | apply State.submit_keeps

theorem execJobDec_done (by_ : Source) (j : Fin 16) (d : JobDesc) (s : State) : Done s (execJobDec by_ j d s) := by
  unfold execJobDec
  with_reducible repeat' first | apply next_done | exact Keeps.refl _ | apply State.submit_keeps

theorem execJobWrapKey_done (by_ : Source) (j : Fin 16) (d : JobDesc) (s : State) : Done s (execJobWrapKey by_ j d s) := by
  unfold execJobWrapKey
  with_reducible repeat' first | apply next_done | exact Keeps.refl _ | apply State.submit_keeps

theorem execJobUnwrapKey_done (by_ : Source) (j : Fin 16) (d : JobDesc) (s : State) : Done s (execJobUnwrapKey by_ j d
    s) := by
  unfold execJobUnwrapKey
  with_reducible repeat' first | apply next_done | exact Keeps.refl _ | apply State.submit_keeps

theorem execJobWrapCtx_done (by_ : Source) (j : Fin 16) (d : JobDesc) (s : State) : Done s (execJobWrapCtx by_ j d s) := by
  unfold execJobWrapCtx
  with_reducible repeat' first | apply next_done | exact Keeps.refl _ | apply State.submit_keeps

theorem execJobUnwrapCtx_done (by_ : Source) (j : Fin 16) (d : JobDesc) (s : State) : Done s (execJobUnwrapCtx by_ j d
    s) := by
  unfold execJobUnwrapCtx
  with_reducible repeat' first | apply next_done | exact Keeps.refl _ | apply State.submit_keeps

theorem execJobSaveClear_done (by_ : Source) (j : Fin 16) (d : JobDesc) (s : State) : Done s (execJobSaveClear by_ j d
    s) := by
  unfold execJobSaveClear
  with_reducible repeat' first | apply next_done | exact Keeps.refl _ | apply State.submit_keeps

theorem execJobRestoreClear_done (by_ : Source) (j : Fin 16) (d : JobDesc) (s : State) : Done s (execJobRestoreClear
    by_ j d s) := by
  unfold execJobRestoreClear
  with_reducible repeat' first | apply next_done | exact Keeps.refl _ | apply State.submit_keeps

theorem takeCore_keeps {r0 : State} (s : State) (x : Nat × JobRun) {t : State} (e : s.takeCore x = some t) (h0 : Keeps r0 s) :
    Keeps r0 t := by
  unfold State.takeCore at e
  split at e
  · cases e; exact h0
  · split at e
    · cases e
    · split at e
      · cases e; exact State.suspend_keeps _ _ _ h0
      · cases e

theorem execJobStart_done (s : State) : Done s (execJobStart s) := by
  unfold execJobStart
  split
  · exact Keeps.refl s
  · refine ite_done _ (Keeps.refl s) ?_
    split
    · exact Keeps.refl s
    · exact State.startJob_keeps _ _ _ (takeCore_keeps _ _ (by assumption) (Keeps.refl s))

theorem execJobResume_done (s : State) : Done s (execJobResume s) := by
  unfold execJobResume
  split
  · exact Keeps.refl s
  · refine ite_done _ (Keeps.refl s) ?_
    split
    · exact Keeps.refl s
    · extract_lets src t
      have h : Keeps s t := State.setJob_keeps _ _ _ (takeCore_keeps _ _ (by assumption) (Keeps.refl s))
      clear_value t
      exact ite_keeps _ _ _ (State.modCtx_keeps _ _ _ h) h

theorem execJobSegmentEnd_done (j : Fin 16) (s : State) : Done s (execJobSegmentEnd j s) := by
  unfold execJobSegmentEnd
  with_reducible repeat' first
    | apply next_done | exact Keeps.refl _ | apply ite_done | apply ite_keeps | apply State.waitClk_keeps
    | apply State.winGood_keeps | apply State.jobEnd_keeps | apply State.jobWipe_keeps | apply State.jobTo_keeps
    | apply State.kwJob_keeps | apply State.closeMsg_keeps | split

/-! ### Cli.lean -/

theorem execClosDeclare_done (p : Fin 64) (s : State) : Done s (execClosDeclare p s) := by
  unfold execClosDeclare
  with_reducible repeat' first
    | apply next_done | exact Keeps.refl _ | apply ite_done | apply ite_keeps | apply State.portEnter_keeps
    | apply State.portAlarm_keeps | apply State.setB_keeps

theorem execClosClear_done (p : Fin 64) (s : State) : Done s (execClosClear p s) := by
  unfold execClosClear
  with_reducible repeat' first
    | apply next_done | exact Keeps.refl _ | apply ite_done | apply ite_keeps | apply State.setB_keeps
    | apply State.portEnter_keeps

theorem execCloaDeclare_done (p : Fin 64) (s : State) : Done s (execCloaDeclare p s) := by
  unfold execCloaDeclare
  with_reducible repeat' first
    | apply next_done | exact Keeps.refl _ | apply ite_done | apply ite_keeps | apply State.portAlarm_keeps
    | apply State.setB_keeps | apply State.portEnter_keeps

theorem execCloaClear_done (p : Fin 64) (s : State) : Done s (execCloaClear p s) := by
  unfold execCloaClear
  with_reducible repeat' first
    | apply next_done | exact Keeps.refl _ | apply ite_done | apply ite_keeps | apply State.setB_keeps
    | apply State.portEnter_keeps

theorem execRemoteFaultChange_done (p : Fin 64) (v : Bool) (s : State) : Done s (execRemoteFaultChange p v s) := by
  unfold execRemoteFaultChange
  with_reducible repeat' first
    | apply next_done | exact Keeps.refl _ | apply ite_done | apply ite_keeps | apply State.setB_keeps
    | apply State.portAlarm_keeps

theorem execClientFrameIngress_done (src : ClientSrc) (rx : ClientRx) (s : State) : Done s (execClientFrameIngress src
    rx s) := by
  unfold execClientFrameIngress
  with_reducible repeat' first
    | assumption | apply next_done | exact Keeps.refl _ | apply ite_done | apply ite_keeps
    | apply State.portCount_keeps | apply State.portAlarm_keeps | apply State.flowFrame_keeps
    | apply State.flowOvf_keeps | apply State.modFlow_keeps | apply State.showFlow_keeps
    | (extract_lets +onlyGivenNames x; have hx : Keeps s x := ?_; clear_value x) | split

theorem execCliFaultAction_done (p : Fin 64) (s : State) : Done s (execCliFaultAction p s) := by
  unfold execCliFaultAction
  with_reducible repeat' first
    | assumption | intro _ | exact Keeps.refl _ | subst x
    | (extract_lets +onlyGivenNames x; first | (have hx : Keeps s x := ?_; clear_value x) | (have hx : Keeps s x.1 := ?_; clear_value x) | (have hf := fun a => x a; clear hf) | (have hf : CiphState := x; clear hf) | (have hf : SecState := x; clear hf) | clear_value x)
    | apply next_done | apply ite_done | apply ite_keeps | apply State.showFlow_keeps
    | apply State.faultAction_keeps | apply foldl_keeps_of | dsimp only | split

theorem execEgressHeader_done (f : Fin 256) (s : State) : Done s (execEgressHeader f s) := by
  unfold execEgressHeader
  with_reducible repeat' first
    | assumption | intro _ | exact Keeps.refl _ | subst x
    | (extract_lets +onlyGivenNames x; first | (have hx : Keeps s x := ?_; clear_value x) | (have hx : Keeps s x.1 := ?_; clear_value x) | (have hf := fun a => x a; clear hf) | (have hf : CiphState := x; clear hf) | (have hf : SecState := x; clear hf) | clear_value x)
    | apply next_done | apply ite_done | apply ite_keeps | apply State.tapPort_keeps | apply State.portCount_keeps
    | apply State.portAlarm_keeps | apply State.modFlow_keeps | apply State.showFlow_keeps
    | apply State.egressFrame_keeps | dsimp only | split

theorem execFlexeCalendarSwitch_done (k : Fin 8) (s : State) : Done s (execFlexeCalendarSwitch k s) := by
  unfold execFlexeCalendarSwitch
  with_reducible repeat' first
    | assumption | exact Keeps.refl _ | exact id_keeps _ | exact ⟨Nat.le_refl _, fun _ => rfl⟩ | apply next_done
    | apply ite_done | apply ite_keeps | apply itep_keeps | apply State.setB_keeps | apply foldl_keeps
    | apply foldlp_keeps | intro _
    | (extract_lets +onlyGivenNames x; first | (have hx : Keeps s x := ?_; clear_value x) | (have hx : Keeps s x.1 := ?_; clear_value x) | (have hf := fun a => x a; clear hf) | (have hf : CiphState := x; clear hf) | (have hf : SecState := x; clear hf) | clear_value x)
    | subst x | dsimp only | (apply fst_keeps; assumption) | split | refine Keeps.raw ?_ rfl rfl rfl

theorem execFlexeLockChange_done (k : Fin 8) (locked gid map : Bool) (s : State) : Done s (execFlexeLockChange k
    locked gid map s) := by
  unfold execFlexeLockChange
  with_reducible repeat' first
    | apply next_done | exact Keeps.refl _ | apply ite_done | apply ite_keeps | apply State.setB_keeps
    | apply State.raiseIf_keeps

/-! ### Hkm.lean -/

theorem execHkmTimerExpiry_done (t : Fin 4) (s : State) : Done s (execHkmTimerExpiry t s) := by
  unfold execHkmTimerExpiry State.timerFrom
  with_reducible repeat' first
    | apply State.waitClk_keeps | apply State.modHkm_keeps
    | apply next_done | exact Keeps.refl _ | apply ite_done | apply ite_keeps | apply State.hkmTriggers_keeps

theorem execHkmPwmEdgeTrigger_done (k : Fin 8) (falling : Bool) (s : State) : Done s (execHkmPwmEdgeTrigger k falling s) := by
  unfold execHkmPwmEdgeTrigger
  refine ite_done _ ?_ (Keeps.refl s)
  extract_lets +onlyGivenNames s1
  have h1 : Keeps s s1 := State.pwmCatch_keeps _ _ (Keeps.refl s)
  clear_value s1
  generalize s1.pwmDue k falling = o
  rcases o with _ | t
  · refine ite_done _ h1 ?_
    extract_lets s2
    have h2 : Keeps s s2 := State.pwmCatch_keeps _ _ (State.waitClk_keeps _ _ h1)
    clear_value s2
    generalize s2.pwmEdgeAt k falling = o
    rcases o with _ | t
    · exact h2
    · exact State.pwmEdge_keeps _ _ _ _ h2
  · exact State.pwmEdge_keeps _ _ _ _ h1


theorem execHkmPassStart_done (x : Fin 2) (s : State) : Done s (execHkmPassStart x s) := by
  unfold execHkmPassStart
  with_reducible repeat' first
    | apply next_done | exact Keeps.refl _ | apply ite_done | apply ite_keeps | apply State.modHkmConv_keeps
    | apply State.waitClk_keeps | split

theorem execHkmConversionResult_done (x : Fin 2) (m : HkmSample) (s : State) : Done s (execHkmConversionResult x m s)
    := by
  unfold execHkmConversionResult
  with_reducible repeat' first
    | assumption | intro _ | exact Keeps.refl _ | subst x
    | (extract_lets +onlyGivenNames x; first | (have hx : Keeps s x := ?_; clear_value x) | (have hx : Keeps s x.1 := ?_; clear_value x) | (have hf := fun a => x a; clear hf) | (have hf : CiphState := x; clear hf) | (have hf : SecState := x; clear hf) | clear_value x)
    | apply next_done | apply ite_done | apply ite_keeps | apply State.setNat_keeps | apply State.waitClk_keeps
    | apply State.addCnt_keeps | apply State.raise_keeps | apply State.modHkmConv_keeps | apply State.modHkmIn_keeps
    | apply State.pilotLose_keeps | apply State.filterSample_keeps | apply State.thermReading_keeps | dsimp only
    | split

theorem execHkmPwmModeWrite_done (k : Fin 8) (v : Word) (s : State) : Done s (execHkmPwmModeWrite k v s) := by
  unfold execHkmPwmModeWrite
  with_reducible repeat' first
    | assumption | apply next_done | exact Keeps.refl _ | apply ite_done | apply ite_keeps | apply itep_keeps
    | apply State.hostWrite_keeps | apply State.writePwmCfg_keeps | apply State.logAcc_keeps | apply foldl_keeps
    | intro _
    | (extract_lets +onlyGivenNames x; first | (have hx : Keeps s x := ?_; clear_value x) | (have hx : Keeps s x.1 := ?_; clear_value x) | (have hf := fun a => x a; clear hf) | (have hf : CiphState := x; clear hf) | (have hf : SecState := x; clear hf) | clear_value x)
    | split

theorem execPwmPeriodStart_done (k : Fin 8) (s : State) : Done s (execPwmPeriodStart k s) := by
  unfold execPwmPeriodStart
  with_reducible repeat' first
    | apply next_done | exact Keeps.refl _ | apply ite_done | apply ite_keeps | apply State.waitClk_keeps
    | apply State.pwmCatch_keeps | split

theorem execHkmTrigWrite_done (x : Fin 2) (v : Word) (s : State) : Done s (execHkmTrigWrite x v s) := by
  unfold execHkmTrigWrite
  with_reducible repeat' first
    | assumption | apply next_done | exact Keeps.refl _ | apply ite_done | apply ite_keeps | apply itep_keeps
    | apply State.hostWrite_keeps | apply State.writeTrig_keeps | apply foldl_keeps | intro _
    | (extract_lets +onlyGivenNames x; first | (have hx : Keeps s x := ?_; clear_value x) | (have hx : Keeps s x.1 := ?_; clear_value x) | (have hf := fun a => x a; clear hf) | (have hf : CiphState := x; clear hf) | (have hf : SecState := x; clear hf) | clear_value x)
    | split

theorem execHkmIlvWrite_done (v : Bool) (s : State) : Done s (execHkmIlvWrite v s) := by
  unfold execHkmIlvWrite
  with_reducible repeat' first
    | assumption | apply next_done | exact Keeps.refl _ | apply ite_done | apply ite_keeps | apply itep_keeps
    | apply State.hostWrite_keeps | apply State.writeHkmCtrl_keeps | apply foldl_keeps | intro _
    | (extract_lets +onlyGivenNames x; first | (have hx : Keeps s x := ?_; clear_value x) | (have hx : Keeps s x.1 := ?_; clear_value x) | (have hf := fun a => x a; clear hf) | (have hf : CiphState := x; clear hf) | (have hf : SecState := x; clear hf) | clear_value x)
    | split

/-! ### Course.lean -/

theorem execCourseStage_done (by_ : Source) (target : StageTarget) (s : State) : Done s (execCourseStage by_ target s) := by
  unfold execCourseStage
  with_reducible repeat' first
    | apply next_done | exact Keeps.refl _ | apply ite_done | apply ite_keeps | apply State.logAcc_keeps
    | apply State.stagePcie_keeps | apply State.stageCop_keeps | apply State.emit_keeps | split

theorem execCourseCommit_done (by_ : Source) (mode number : Nat) (t : Time80) (s : State) : Done s (execCourseCommit
    by_ mode number t s) := by
  unfold execCourseCommit
  with_reducible repeat' first
    | assumption | apply next_done | exact Keeps.refl _ | apply ite_done | apply ite_keeps | apply itep_keeps
    | apply State.hostWrite_keeps | apply State.commitPcie_keeps | apply State.setCommit_keeps
    | apply State.commit_keeps | apply foldl_keeps | intro _
    | (extract_lets +onlyGivenNames x; first | (have hx : Keeps s x := ?_; clear_value x) | (have hx : Keeps s x.1 := ?_; clear_value x) | (have hf := fun a => x a; clear hf) | (have hf : CiphState := x; clear hf) | (have hf : SecState := x; clear hf) | clear_value x)
    | split

theorem execCourseDiscard_done (by_ : Source) (s : State) : Done s (execCourseDiscard by_ s) := by
  unfold execCourseDiscard
  with_reducible repeat' first
    | assumption | apply next_done | exact Keeps.refl _ | apply ite_done | apply ite_keeps | apply itep_keeps
    | apply State.byWrite_keeps | apply State.discard_keeps | apply foldl_keeps | intro _
    | (extract_lets +onlyGivenNames x; first | (have hx : Keeps s x := ?_; clear_value x) | (have hx : Keeps s x.1 := ?_; clear_value x) | (have hf := fun a => x a; clear hf) | (have hf : CiphState := x; clear hf) | (have hf : SecState := x; clear hf) | clear_value x)
    | split

theorem execCourseValidationEnd_done (s : State) : Done s (execCourseValidationEnd s) := by
  unfold execCourseValidationEnd
  with_reducible repeat' first
    | apply next_done | exact Keeps.refl _ | apply ite_done | apply ite_keeps | apply State.courseResult_keeps
    | apply State.arm_keeps | apply State.modCrs_keeps | split

theorem execCourseAbort_done (by_ : Source) (s : State) : Done s (execCourseAbort by_ s) := by
  unfold execCourseAbort
  with_reducible repeat' first
    | assumption | apply next_done | exact Keeps.refl _ | apply ite_done | apply ite_keeps | apply itep_keeps
    | apply State.byWrite_keeps | apply State.abort_keeps | apply foldl_keeps | intro _
    | (extract_lets +onlyGivenNames x; first | (have hx : Keeps s x := ?_; clear_value x) | (have hx : Keeps s x.1 := ?_; clear_value x) | (have hf := fun a => x a; clear hf) | (have hf : CiphState := x; clear hf) | (have hf : SecState := x; clear hf) | clear_value x)
    | split

theorem execCourseAbortWindowClose_done (s : State) : Done s (execCourseAbortWindowClose s) := by
  unfold execCourseAbortWindowClose
  with_reducible repeat' first
    | apply next_done | exact Keeps.refl _ | apply ite_done | apply ite_keeps | apply State.modArmed_keeps
    | apply State.waitBefore_keeps | split

theorem execCourseStrobe_done (s : State) : Done s (execCourseStrobe s) := by
  unfold execCourseStrobe
  with_reducible repeat' first
    | apply next_done | exact Keeps.refl _ | apply ite_done | apply ite_keeps | apply State.courseStrobe_keeps
    | apply State.waitTb_keeps | split

theorem execCourseClientApply_done (item : Nat) (s : State) : Done s (execCourseClientApply item s) := by
  unfold execCourseClientApply
  with_reducible repeat' first
    | apply next_done | exact Keeps.refl _ | apply ite_done | apply ite_keeps | apply State.coursePort_keeps | split

theorem execCourseRxTimeout_done (n : Lane) (s : State) : Done s (execCourseRxTimeout n s) := by
  unfold execCourseRxTimeout
  with_reducible repeat' first
    | assumption | intro _ | exact Keeps.refl _ | subst x
    | (extract_lets +onlyGivenNames x; first | (have hx : Keeps s x := ?_; clear_value x) | (have hx : Keeps s x.1 := ?_; clear_value x) | (have hf := fun a => x a; clear hf) | (have hf : CiphState := x; clear hf) | (have hf : SecState := x; clear hf) | clear_value x)
    | apply next_done | apply ite_done | apply ite_keeps | apply State.setB_keeps | apply State.modLfr_keeps
    | apply State.waitTb_keeps | apply State.raise_keeps | apply State.modArmed_keeps | apply State.courseRx_keeps
    | dsimp only | split

theorem execCourseFarMismatch_done (n : Lane) (s : State) : Done s (execCourseFarMismatch n s) := by
  unfold execCourseFarMismatch
  with_reducible repeat' first
    | apply next_done | exact Keeps.refl _ | apply ite_done | apply ite_keeps | apply State.waitTb_keeps
    | apply State.raise_keeps | apply State.setB_keeps | apply State.modArmed_keeps | split

end Sys2Proof.Machine
end

