-- ==== Sys2Proof/Laws/DoneSystem.lean ====
section
/-!
SUPPORT. Each meaning answers a next state and undoes nothing of what `Keeps` lists: the rest.
-/

-- one theorem after another: all at once would not fit the memory
set_option Elab.async false
set_option linter.all false

namespace Sys2Proof.Machine

/-! ### Steps.lean -/

theorem execTbSet_done (by_ : Source) (x : Fin 3) (t : Time80) (s : State) : Done s (execTbSet by_ x t s) := by
  unfold execTbSet
  with_reducible repeat' first
    | assumption | apply next_done | exact Keeps.refl _ | apply ite_done | apply ite_keeps | apply itep_keeps
    | apply State.byWrite_keeps | apply State.set_keeps | apply State.setNat_keeps | apply State.tbSet_keeps
    | apply State.answer_keeps | apply foldl_keeps | intro _
    | (extract_lets +onlyGivenNames x; first | (have hx : Keeps s x := ?_; clear_value x) | (have hx : Keeps s x.1 := ?_; clear_value x) | (have hf := fun a => x a; clear hf) | (have hf : CiphState := x; clear hf) | (have hf : SecState := x; clear hf) | clear_value x)
    | split

theorem execTbStep_done (by_ : Source) (x : Fin 3) (d : Int) (s : State) : Done s (execTbStep by_ x d s) := by
  unfold execTbStep
  with_reducible repeat' first
    | assumption | apply next_done | exact Keeps.refl _ | apply ite_done | apply ite_keeps | apply itep_keeps
    | apply State.byWrite_keeps | apply State.tbAdd_keeps | apply State.setWide_keeps | apply State.answer_keeps
    | apply foldl_keeps | intro _
    | (extract_lets +onlyGivenNames x; first | (have hx : Keeps s x := ?_; clear_value x) | (have hx : Keeps s x.1 := ?_; clear_value x) | (have hf := fun a => x a; clear hf) | (have hf : CiphState := x; clear hf) | (have hf : SecState := x; clear hf) | clear_value x)
    | split

theorem execServoUpdate_done (x : Fin 3) (s : State) : Done s (execServoUpdate x s) := by
  unfold execServoUpdate
  with_reducible repeat' first
    | apply next_done | exact Keeps.refl _ | apply ite_done | apply ite_keeps | apply State.syncTbs_keeps
    | apply State.waitClk_keeps | apply State.modServo_keeps | apply State.servoApply_keeps

/-! ### Cal.lean -/

theorem execCalInterpTick_done (temps : List Int) (s : State) : Done s (execCalInterpTick temps s) := by
  unfold execCalInterpTick
  with_reducible repeat' first
    | assumption | intro _ | exact Keeps.refl _ | subst x
    | (extract_lets +onlyGivenNames x; first | (have hx : Keeps s x := ?_; clear_value x) | (have hx : Keeps s x.1 := ?_; clear_value x) | (have hf := fun a => x a; clear hf) | (have hf : CiphState := x; clear hf) | (have hf : SecState := x; clear hf) | clear_value x)
    | apply next_done | apply ite_done | apply ite_keeps | apply State.waitClk_keeps | apply State.modCal_keeps
    | apply State.judgeTemp_keeps | apply State.calApply_keeps | apply State.sensRead_keeps | apply foldl_keeps_of
    | dsimp only | split

theorem execCalStart_done (by_ : Source) (v : Word) (s : State) : Done s (execCalStart by_ v s) := by
  unfold execCalStart
  with_reducible repeat' first
    | assumption | apply next_done | exact Keeps.refl _ | apply ite_done | apply ite_keeps | apply itep_keeps
    | apply State.byWrite_keeps | apply State.writeCalCmd_keeps | apply State.answer_keeps | apply foldl_keeps
    | intro _
    | (extract_lets +onlyGivenNames x; first | (have hx : Keeps s x := ?_; clear_value x) | (have hx : Keeps s x.1 := ?_; clear_value x) | (have hf := fun a => x a; clear hf) | (have hf : CiphState := x; clear hf) | (have hf : SecState := x; clear hf) | clear_value x)
    | split

theorem execCalAbort_done (by_ : Source) (s : State) : Done s (execCalAbort by_ s) := by
  unfold execCalAbort
  with_reducible repeat' first
    | assumption | apply next_done | exact Keeps.refl _ | apply ite_done | apply ite_keeps | apply itep_keeps
    | apply State.byWrite_keeps | apply State.answer_keeps | apply State.calStop_keeps | apply foldl_keeps | intro _
    | (extract_lets +onlyGivenNames x; first | (have hx : Keeps s x := ?_; clear_value x) | (have hx : Keeps s x.1 := ?_; clear_value x) | (have hf := fun a => x a; clear hf) | (have hf : CiphState := x; clear hf) | (have hf : SecState := x; clear hf) | clear_value x)
    | split

theorem execCalCheckDone_done (temps : List Int) (s : State) : Done s (execCalCheckDone temps s) := by
  unfold execCalCheckDone
  with_reducible repeat' first
    | assumption | intro _ | exact Keeps.refl _ | subst x
    | (extract_lets +onlyGivenNames x; first | (have hx : Keeps s x := ?_; clear_value x) | (have hx : Keeps s x.1 := ?_; clear_value x) | (have hf := fun a => x a; clear hf) | (have hf : CiphState := x; clear hf) | (have hf : SecState := x; clear hf) | clear_value x)
    | apply next_done | apply ite_done | apply ite_keeps | apply State.waitClk_keeps | apply State.sensRead_keeps
    | apply State.calEnter_keeps | apply State.precondFail_keeps | apply State.stepStart_keeps | dsimp only | split

theorem execSpareReleaseSwitch_done (n : Lane) (k : Fin 16) (s : State) : Done s (execSpareReleaseSwitch n k s) := by
  unfold execSpareReleaseSwitch
  with_reducible repeat' first
    | assumption | intro _ | exact Keeps.refl _ | subst x
    | (extract_lets +onlyGivenNames x; first | (have hx : Keeps s x := ?_; clear_value x) | (have hx : Keeps s x.1 := ?_; clear_value x) | (have hf := fun a => x a; clear hf) | (have hf : CiphState := x; clear hf) | (have hf : SecState := x; clear hf) | clear_value x)
    | apply next_done | apply ite_done | apply ite_keeps | apply State.spareIdle_keeps | apply State.spareNext_keeps
    | apply State.modRun_keeps | apply State.stepStart_keeps | apply State.sliceItemsDone_keeps | dsimp only | split

theorem execCalSliceStepEnd_done (ash dac temps : List Int) (s : State) : Done s (execCalSliceStepEnd ash dac temps
    s) := by
  unfold execCalSliceStepEnd
  with_reducible repeat' first
    | assumption | intro _ | exact Keeps.refl _ | subst x
    | (extract_lets +onlyGivenNames x; first | (have hx : Keeps s x := ?_; clear_value x) | (have hx : Keeps s x.1 := ?_; clear_value x) | (have hf := fun a => x a; clear hf) | (have hf : CiphState := x; clear hf) | (have hf : SecState := x; clear hf) | clear_value x)
    | apply next_done | apply ite_done | apply ite_keeps | apply State.set_keeps | apply State.calRelease_keeps
    | apply State.modRun_keeps | apply State.sensRead_keeps | apply State.calAbort_keeps
    | apply State.stepStart_keeps | apply State.sliceItemsDone_keeps | dsimp only | split

theorem execCalMeasureDone_done (temps values refs : List Int) (s : State) : Done s (execCalMeasureDone temps values
    refs s) := by
  unfold execCalMeasureDone
  with_reducible repeat' first
    | assumption | intro _ | exact Keeps.refl _ | subst x
    | (extract_lets +onlyGivenNames x; first | (have hx : Keeps s x := ?_; clear_value x) | (have hx : Keeps s x.1 := ?_; clear_value x) | (have hf := fun a => x a; clear hf) | (have hf : CiphState := x; clear hf) | (have hf : SecState := x; clear hf) | clear_value x)
    | apply next_done | apply ite_done | apply ite_keeps | apply State.set_keeps | apply State.modRun_keeps
    | apply State.sensRead_keeps | apply State.blockStart_keeps | apply State.measured_keeps | dsimp only | split

theorem execCalQualityDone_done (spur : Int) (skew eye : Nat) (s : State) : Done s (execCalQualityDone spur skew eye
    s) := by
  unfold execCalQualityDone
  with_reducible repeat' first
    | assumption | intro _ | exact Keeps.refl _ | subst x
    | (extract_lets +onlyGivenNames x; first | (have hx : Keeps s x := ?_; clear_value x) | (have hx : Keeps s x.1 := ?_; clear_value x) | (have hf := fun a => x a; clear hf) | (have hf : CiphState := x; clear hf) | (have hf : SecState := x; clear hf) | clear_value x)
    | apply next_done | apply ite_done | apply ite_keeps | apply itep_keeps | apply State.set_keeps
    | apply State.setNat_keeps | apply State.setInt_keeps | apply State.raiseIf_keeps | apply State.modDom_keeps
    | apply State.showPoints_keeps | apply State.judgeTemp_keeps | apply State.calEnter_keeps
    | apply State.calAbort_keeps | apply State.storeRefused_keeps | apply foldl_keeps_of | dsimp only
    | (apply fst_keeps; assumption) | split | apply foldlp_keeps_of

theorem execCalStoreDone_done (failed : Nat) (s : State) : Done s (execCalStoreDone failed s) := by
  unfold execCalStoreDone
  with_reducible repeat' first
    | assumption | intro _ | exact Keeps.refl _ | subst x
    | (extract_lets +onlyGivenNames x; first | (have hx : Keeps s x := ?_; clear_value x) | (have hx : Keeps s x.1 := ?_; clear_value x) | (have hf := fun a => x a; clear hf) | (have hf : CiphState := x; clear hf) | (have hf : SecState := x; clear hf) | clear_value x)
    | apply next_done | apply ite_done | apply ite_keeps | apply itep_keeps | apply State.set_keeps
    | apply State.setB_keeps | apply State.setNat_keeps | apply State.modDom_keeps | apply State.calCount_keeps
    | apply State.judgeTemp_keeps | apply State.calDone_keeps | apply State.storeRefused_keeps
    | apply State.quarryRetire_keeps | apply foldl_keeps_of | dsimp only | (apply fst_keeps; assumption) | split

/-! ### MemInt.lean -/

theorem execMemFillDone_done (s : State) : Done s (execMemFillDone s) := by
  unfold execMemFillDone
  with_reducible repeat' first
    | assumption | apply next_done | exact Keeps.refl _ | apply ite_done | apply ite_keeps | apply itep_keeps
    | apply State.setB_keeps | apply State.eachLane_keeps | apply State.loZero_keeps | apply foldl_keeps | intro _
    | (extract_lets +onlyGivenNames x; first | (have hx : Keeps s x := ?_; clear_value x) | (have hx : Keeps s x.1 := ?_; clear_value x) | (have hf := fun a => x a; clear hf) | (have hf : CiphState := x; clear hf) | (have hf : SecState := x; clear hf) | clear_value x)
    | split

theorem execMemArrayRead_done (a : Fin 11) (inst : Fin 16) (addr : Nat) (wrote : Option (BitVec 64)) (flips : BitVec
    80) (reader : MemReader) (s : State) : Done s (execMemArrayRead a inst addr wrote flips reader s) := by
  unfold execMemArrayRead
  with_reducible repeat' first
    | assumption | intro _ | exact Keeps.refl _ | subst x
    | (extract_lets +onlyGivenNames x; first | (have hx : Keeps s x := ?_; clear_value x) | (have hx : Keeps s x.1 := ?_; clear_value x) | (have hf := fun a => x a; clear hf) | (have hf : CiphState := x; clear hf) | (have hf : SecState := x; clear hf) | clear_value x)
    | apply next_done | apply ite_done | apply ite_keeps | apply itep_keeps | apply State.answer_keeps
    | apply State.memCheck_keeps | apply State.memFlush_keeps | apply State.memGive_keeps
    | apply State.memReader_keeps | apply State.memWrote_keeps | dsimp only | (apply fst_keeps; assumption) | split

theorem execMemPartialWrite_done (by_ : Source) (a : Fin 11) (inst : Fin 16) (addr : Nat) (ofs : Fin 8)
    (bytes : List Byte) (flips : BitVec 80) (s : State) :
    Done s (execMemPartialWrite by_ a inst addr ofs bytes flips s) := by
  unfold execMemPartialWrite
  refine ite_done _ (Keeps.refl s) (ite_done _ ?_ (ite_done _ ?_ ?_))
  · exact State.byWrite_keeps _ _ _ _ (fun x => State.answer_keeps _ _ _ (Keeps.refl x)) (Keeps.refl s)
  · refine State.byWrite_keeps _ _ _ _ (fun x => ?_) (Keeps.refl s)
    have h := State.memPartial_keeps x.memFlush 5 inst addr flips.toNat (fun s => s.winMerge inst addr ofs bytes)
      (fun y => State.winMerge_keeps _ _ _ _ _ (Keeps.refl y)) (State.memFlush_keeps _ (Keeps.refl x))
    exact ite_keeps _ _ _ (State.answer_keeps _ _ _ h) (State.refuse_keeps _ _ _ _ _ h)
  · have h := State.memPartial_keeps s a inst addr flips.toNat (fun s => s.memMerge a inst addr ofs bytes)
      (fun y => State.memMerge_keeps _ _ _ _ _ _ (Keeps.refl y)) (Keeps.refl s)
    refine ite_keeps _ _ _ h ?_
    split
    · exact h
    · exact State.answer_keeps _ _ _ h


theorem execMemScrubStep_done (a : Fin 11) (inst : Fin 16) (wrote : Option (BitVec 64)) (flips : BitVec 80)
    (overwritten : Bool) (s : State) : Done s (execMemScrubStep a inst wrote flips overwritten s) := by
  unfold execMemScrubStep
  with_reducible repeat' first
    | assumption | intro _ | exact Keeps.refl _ | subst x
    | (extract_lets +onlyGivenNames x; first | (have hx : Keeps s x := ?_; clear_value x) | (have hx : Keeps s x.1 := ?_; clear_value x) | (have hf := fun a => x a; clear hf) | (have hf : CiphState := x; clear hf) | (have hf : SecState := x; clear hf) | clear_value x)
    | apply next_done | apply ite_done | apply ite_keeps | apply State.waitClk_keeps | apply State.raise_keeps
    | apply State.modMem_keeps | apply State.poison_keeps | apply State.memLog_keeps | apply State.memXor_keeps
    | apply State.memWrote_keeps | apply State.scrubNext_keeps | dsimp only | split

/-! ### Cst.lean -/

theorem execCstSecond_done (s : State) : Done s (execCstSecond s) := by
  unfold execCstSecond
  with_reducible repeat' first
    | apply next_done | exact Keeps.refl _ | apply ite_done | apply ite_keeps | apply State.cstSecondEnd_keeps
    | apply State.waitTb3_keeps

theorem execCstBoundary_done (s : State) : Done s (execCstBoundary s) := by
  unfold execCstBoundary
  with_reducible repeat' first
    | apply next_done | exact Keeps.refl _ | apply ite_done | apply ite_keeps | apply State.waitTb3_keeps
    | apply State.cstSecondEnd_keeps | apply State.cstRoll_keeps

theorem execCstTapEvent_done (tap : CstTap) (s : State) : Done s (execCstTapEvent tap s) := by
  unfold execCstTapEvent
  with_reducible repeat' first
    | apply next_done | exact Keeps.refl _ | apply ite_done | apply ite_keeps | apply State.cstLf_keeps
    | apply State.modCst_keeps | apply State.cstPort_keeps | split

theorem execCstLatencySample_done (n : Lane) (s : State) : Done s (execCstLatencySample n s) := by
  unfold execCstLatencySample
  with_reducible repeat' first
    | assumption | apply next_done | exact Keeps.refl _ | apply ite_done | apply ite_keeps | apply itep_keeps
    | apply State.modCst_keeps | apply State.cstBins_keeps | apply State.cstEntFlag_keeps | apply foldl_keeps
    | intro _
    | (extract_lets +onlyGivenNames x; first | (have hx : Keeps s x := ?_; clear_value x) | (have hx : Keeps s x.1 := ?_; clear_value x) | (have hf := fun a => x a; clear hf) | (have hf : CiphState := x; clear hf) | (have hf : SecState := x; clear hf) | clear_value x)
    | split

theorem execCstTb0Sample_done (osc : Int) (s : State) : Done s (execCstTb0Sample osc s) := by
  unfold execCstTb0Sample
  with_reducible repeat' first
    | assumption | intro _ | exact Keeps.refl _ | subst x
    | (extract_lets +onlyGivenNames x; first | (have hx : Keeps s x := ?_; clear_value x) | (have hx : Keeps s x.1 := ?_; clear_value x) | (have hf := fun a => x a; clear hf) | (have hf : CiphState := x; clear hf) | (have hf : SecState := x; clear hf) | clear_value x)
    | apply next_done | apply ite_done | apply ite_keeps | apply State.waitTb_keeps | apply State.modCst_keeps
    | apply State.cstUtcFirst_keeps | apply State.cstUtcSample_keeps | apply State.tb3Sample_keeps | dsimp only
    | split

theorem execTb3SampleTimeout_done (s : State) : Done s (execTb3SampleTimeout s) := by
  unfold execTb3SampleTimeout
  with_reducible repeat' first
    | apply next_done | exact Keeps.refl _ | apply ite_done | apply ite_keeps | apply State.waitClk_keeps
    | apply State.tb3Enter_keeps

theorem execTb3SlewEnd_done (s : State) : Done s (execTb3SlewEnd s) := by
  unfold execTb3SlewEnd
  with_reducible repeat' first
    | assumption | intro _ | exact Keeps.refl _ | subst x
    | (extract_lets +onlyGivenNames x; first | (have hx : Keeps s x := ?_; clear_value x) | (have hx : Keeps s x.1 := ?_; clear_value x) | (have hf := fun a => x a; clear hf) | (have hf : CiphState := x; clear hf) | (have hf : SecState := x; clear hf) | clear_value x)
    | apply next_done | apply ite_done | apply ite_keeps | apply State.waitClk_keeps | apply State.modCst_keeps
    | apply State.tb3Enter_keeps | apply State.tb3Rate_keeps | dsimp only | split

theorem execCstRecordStore_done (failed : Nat) (s : State) : Done s (execCstRecordStore failed s) := by
  unfold execCstRecordStore
  with_reducible repeat' first
    | assumption | intro _ | exact Keeps.refl _ | subst x
    | (extract_lets +onlyGivenNames x; first | (have hx : Keeps s x := ?_; clear_value x) | (have hx : Keeps s x.1 := ?_; clear_value x) | (have hf := fun a => x a; clear hf) | (have hf : CiphState := x; clear hf) | (have hf : SecState := x; clear hf) | clear_value x)
    | exact id_keeps _ | apply next_done | apply ite_done | apply ite_keeps | apply State.modCst_keeps
    | apply State.waitTb3_keeps | apply State.cstCount_keeps | dsimp only | split

theorem execCstLevelLatch_done (s : State) : Done s (execCstLevelLatch s) := by
  unfold execCstLevelLatch
  with_reducible repeat' first
    | assumption | intro _ | exact Keeps.refl _ | subst x
    | (extract_lets +onlyGivenNames x; first | (have hx : Keeps s x := ?_; clear_value x) | (have hx : Keeps s x.1 := ?_; clear_value x) | (have hf := fun a => x a; clear hf) | (have hf : CiphState := x; clear hf) | (have hf : SecState := x; clear hf) | clear_value x)
    | apply next_done | apply ite_done | apply ite_keeps | apply State.modCst_keeps | dsimp only | split

theorem execCstCheckpoint_done (s : State) : Done s (execCstCheckpoint s) := by
  unfold execCstCheckpoint
  with_reducible repeat' first
    | apply next_done | exact Keeps.refl _ | apply ite_done | apply ite_keeps | apply State.cstSave_keeps
    | apply State.waitClk_keeps

theorem execCstRstN_done (s : State) : Done s (execCstRstN s) := by
  unfold execCstRstN
  with_reducible repeat' first | apply next_done | exact Keeps.refl _ | apply State.cstReset_keeps

theorem execVddCstLoss_done (s : State) : Done s (execVddCstLoss s) := by
  unfold execVddCstLoss
  with_reducible repeat' first | apply next_done | exact Keeps.refl _ | apply State.cstReset_keeps

theorem execCstResetRequest_done (by_ : Source) (s : State) : Done s (execCstResetRequest by_ s) := by
  unfold execCstResetRequest
  with_reducible repeat' first
    | assumption | apply next_done | exact Keeps.refl _ | apply ite_done | apply ite_keeps | apply itep_keeps
    | apply State.byWrite_keeps | apply State.cstRequest_keeps | apply foldl_keeps | intro _
    | (extract_lets +onlyGivenNames x; first | (have hx : Keeps s x := ?_; clear_value x) | (have hx : Keeps s x.1 := ?_; clear_value x) | (have hf := fun a => x a; clear hf) | (have hf : CiphState := x; clear hf) | (have hf : SecState := x; clear hf) | clear_value x)
    | split

theorem execCstReady_done (s : State) : Done s (execCstReady s) := by
  unfold execCstReady
  with_reducible repeat' first
    | assumption | intro _ | exact Keeps.refl _ | subst x
    | (extract_lets +onlyGivenNames x; first | (have hx : Keeps s x := ?_; clear_value x) | (have hx : Keeps s x.1 := ?_; clear_value x) | (have hf := fun a => x a; clear hf) | (have hf : CiphState := x; clear hf) | (have hf : SecState := x; clear hf) | clear_value x)
    | exact id_keeps _ | apply next_done | apply ite_done | apply ite_keeps | apply State.cstShow_keeps
    | apply State.cstCount_keeps | dsimp only | split | refine Keeps.raw ?_ rfl rfl rfl

theorem execCstPatchGo_done (s : State) : Done s (execCstPatchGo s) := by
  unfold execCstPatchGo
  with_reducible repeat' first
    | assumption | apply next_done | exact Keeps.refl _ | apply ite_done | apply ite_keeps | apply itep_keeps
    | apply State.hostWrite_keeps | apply State.patchGo_keeps | apply foldl_keeps | intro _
    | (extract_lets +onlyGivenNames x; first | (have hx : Keeps s x := ?_; clear_value x) | (have hx : Keeps s x.1 := ?_; clear_value x) | (have hf := fun a => x a; clear hf) | (have hf : CiphState := x; clear hf) | (have hf : SecState := x; clear hf) | clear_value x)
    | split

theorem execCstPatchVerified_done (good : Bool) (level : Nat) (s : State) : Done s (execCstPatchVerified good level s) := by
  unfold execCstPatchVerified
  with_reducible repeat' first
    | apply next_done | exact Keeps.refl _ | apply ite_done | apply ite_keeps | apply State.modCst_keeps
    | apply State.cstCount_keeps

theorem execCstSelWrite_done (by_ : Source) (seq : BitVec 64) (s : State) : Done s (execCstSelWrite by_ seq s) := by
  unfold execCstSelWrite
  with_reducible repeat' first
    | assumption | apply next_done | exact Keeps.refl _ | apply ite_done | apply ite_keeps | apply itep_keeps
    | apply State.byWrite_keeps | apply State.cstSelect_keeps | apply State.setWide_keeps | apply State.answer_keeps
    | apply foldl_keeps | intro _
    | (extract_lets +onlyGivenNames x; first | (have hx : Keeps s x := ?_; clear_value x) | (have hx : Keeps s x.1 := ?_; clear_value x) | (have hf := fun a => x a; clear hf) | (have hf : CiphState := x; clear hf) | (have hf : SecState := x; clear hf) | clear_value x)
    | split

/-! ### Sec.lean -/

theorem State.imgRow_done (s : State) (by_ : Source) (cmd kind len : Nat) : Done s (State.imgRow s by_ cmd kind len) := by
  unfold State.imgRow
  with_reducible repeat' first
    | assumption | apply next_done | exact Keeps.refl _ | apply ite_done | apply ite_keeps | apply itep_keeps
    | apply State.byWrite_keeps | apply State.writeImgCtrl_keeps | apply State.answer_keeps | apply foldl_keeps
    | intro _
    | (extract_lets +onlyGivenNames x; first | (have hx : Keeps s x := ?_; clear_value x) | (have hx : Keeps s x.1 := ?_; clear_value x) | (have hf := fun a => x a; clear hf) | (have hf : CiphState := x; clear hf) | (have hf : SecState := x; clear hf) | clear_value x)
    | split

theorem execImgBegin_done (by_ : Source) (kind : BitVec 2) (len : BitVec 16) (s : State) : Done s (execImgBegin by_
    kind len s) := by
  unfold execImgBegin
  with_reducible repeat' first | apply next_done | exact Keeps.refl _ | apply State.imgRow_done

theorem execImgAppend_done (by_ : Source) (kind : BitVec 2) (len : BitVec 16) (s : State) : Done s (execImgAppend by_
    kind len s) := by
  unfold execImgAppend
  with_reducible repeat' first | apply next_done | exact Keeps.refl _ | apply State.imgRow_done

theorem execImgCommit_done (by_ : Source) (kind : BitVec 2) (len : BitVec 16) (s : State) : Done s (execImgCommit by_
    kind len s) := by
  unfold execImgCommit
  with_reducible repeat' first | apply next_done | exact Keeps.refl _ | apply State.imgRow_done

theorem execImgCancel_done (by_ : Source) (kind : BitVec 2) (len : BitVec 16) (s : State) : Done s (execImgCancel by_
    kind len s) := by
  unfold execImgCancel
  with_reducible repeat' first | apply next_done | exact Keeps.refl _ | apply State.imgRow_done

theorem execImgRunRecovery_done (by_ : Source) (kind : BitVec 2) (len : BitVec 16) (s : State) : Done s
    (execImgRunRecovery by_ kind len s) := by
  unfold execImgRunRecovery
  with_reducible repeat' first | apply next_done | exact Keeps.refl _ | apply State.imgRow_done

theorem execImgCommitDone_done (failed : Nat) (s : State) : Done s (execImgCommitDone failed s) := by
  unfold execImgCommitDone
  with_reducible repeat' first
    | assumption | intro _ | exact Keeps.refl _ | subst x
    | (extract_lets +onlyGivenNames x; first | (have hx : Keeps s x := ?_; clear_value x) | (have hx : Keeps s x.1 := ?_; clear_value x) | (have hf := fun a => x a; clear hf) | (have hf : CiphState := x; clear hf) | (have hf : SecState := x; clear hf) | clear_value x)
    | exact ⟨Nat.le_refl _, fun _ => rfl⟩ | apply next_done | apply ite_done | apply ite_keeps | apply itep_keeps
    | apply State.setB_keeps | apply State.raise_keeps | apply State.quarryRetire_keeps | apply State.modSec_keeps
    | apply State.showPrefs_keeps | apply State.imgCode_keeps | dsimp only | (apply fst_keeps; assumption) | split

theorem execSecLockWrite_done (by_ : Source) (s : State) : Done s (execSecLockWrite by_ s) := by
  unfold execSecLockWrite
  with_reducible repeat' first
    | assumption | apply next_done | exact Keeps.refl _ | apply ite_done | apply ite_keeps | apply itep_keeps
    | apply State.byWrite_keeps | apply State.answer_keeps | apply State.lockWindow_keeps | apply foldl_keeps
    | intro _
    | (extract_lets +onlyGivenNames x; first | (have hx : Keeps s x := ?_; clear_value x) | (have hx : Keeps s x.1 := ?_; clear_value x) | (have hf := fun a => x a; clear hf) | (have hf : CiphState := x; clear hf) | (have hf : SecState := x; clear hf) | clear_value x)
    | split

theorem execWindowTimeout_done (s : State) : Done s (execWindowTimeout s) := by
  unfold execWindowTimeout
  with_reducible repeat' first
    | apply next_done | exact Keeps.refl _ | apply ite_done | apply ite_keeps | apply State.lockWindow_keeps
    | apply State.waitClk_keeps | split

theorem execCustomerHashFuse_done (s : State) : Done s (execCustomerHashFuse s) := by
  unfold execCustomerHashFuse
  with_reducible repeat' first
    | assumption | apply next_done | exact Keeps.refl _ | apply ite_done | apply ite_keeps | apply itep_keeps
    | apply State.hostWrite_keeps | apply State.fuseHash_keeps | apply foldl_keeps | intro _
    | (extract_lets +onlyGivenNames x; first | (have hx : Keeps s x := ?_; clear_value x) | (have hx : Keeps s x.1 := ?_; clear_value x) | (have hf := fun a => x a; clear hf) | (have hf : CiphState := x; clear hf) | (have hf : SecState := x; clear hf) | clear_value x)
    | split

theorem execAttRequest_done (by_ : Source) (nonce : BitVec 256) (s : State) : Done s (execAttRequest by_ nonce s) := by
  unfold execAttRequest
  with_reducible repeat' first
    | assumption | apply next_done | exact Keeps.refl _ | apply ite_done | apply ite_keeps | apply itep_keeps
    | apply State.byWrite_keeps | apply State.setWordsFrom_keeps | apply State.attRequest_keeps
    | apply State.answer_keeps | apply foldl_keeps | intro _
    | (extract_lets +onlyGivenNames x; first | (have hx : Keeps s x := ?_; clear_value x) | (have hx : Keeps s x.1 := ?_; clear_value x) | (have hf := fun a => x a; clear hf) | (have hf : CiphState := x; clear hf) | (have hf : SecState := x; clear hf) | clear_value x)
    | split

theorem execAttQuoteReady_done (s : State) : Done s (execAttQuoteReady s) := by
  unfold execAttQuoteReady
  with_reducible repeat' first
    | assumption | apply next_done | exact Keeps.refl _ | exact ⟨Nat.le_refl _, fun _ => rfl⟩ | apply ite_done
    | apply ite_keeps | apply itep_keeps | apply State.takeFree_keeps | apply State.setReg_keeps
    | apply State.setB_keeps | apply State.modSec_keeps | apply State.raise_keeps | apply foldl_keeps | intro _
    | (extract_lets +onlyGivenNames x; first | (have hx : Keeps s x := ?_; clear_value x) | (have hx : Keeps s x.1 := ?_; clear_value x) | (have hf := fun a => x a; clear hf) | (have hf : CiphState := x; clear hf) | (have hf : SecState := x; clear hf) | clear_value x)
    | split

/-! ### Reset.lean -/

theorem execFuncResetAssert_done (by_ : Source) (k : Fin 15) (s : State) : Done s (execFuncResetAssert by_ k s) := by
  unfold execFuncResetAssert
  with_reducible repeat' first
    | assumption | apply next_done | exact Keeps.refl _ | apply ite_done | apply ite_keeps | apply itep_keeps
    | apply State.byWrite_keeps | apply State.answer_keeps | apply State.writeRstBit_keeps | apply foldl_keeps
    | intro _
    | (extract_lets +onlyGivenNames x; first | (have hx : Keeps s x := ?_; clear_value x) | (have hx : Keeps s x.1 := ?_; clear_value x) | (have hf := fun a => x a; clear hf) | (have hf : CiphState := x; clear hf) | (have hf : SecState := x; clear hf) | clear_value x)
    | split

theorem execFuncResetRelease_done (by_ : Source) (k : Fin 15) (s : State) : Done s (execFuncResetRelease by_ k s) := by
  unfold execFuncResetRelease
  with_reducible repeat' first
    | assumption | apply next_done | exact Keeps.refl _ | apply ite_done | apply ite_keeps | apply itep_keeps
    | apply State.byWrite_keeps | apply State.answer_keeps | apply State.writeRstBit_keeps | apply foldl_keeps
    | intro _
    | (extract_lets +onlyGivenNames x; first | (have hx : Keeps s x := ?_; clear_value x) | (have hx : Keeps s x.1 := ?_; clear_value x) | (have hf := fun a => x a; clear hf) | (have hf : CiphState := x; clear hf) | (have hf : SecState := x; clear hf) | clear_value x)
    | split

theorem execFuncResetExit_done (k : Fin 15) (s : State) : Done s (execFuncResetExit k s) := by
  unfold execFuncResetExit
  with_reducible repeat' first
    | apply next_done | exact Keeps.refl _ | apply ite_done | apply ite_keeps | apply State.functionLeave_keeps

theorem execLodgeCoreReset_done (by_ : Option Source) (k : Fin 8) (s : State) : Done s (execLodgeCoreReset by_ k s) := by
  unfold execLodgeCoreReset
  with_reducible repeat' first
    | assumption | apply next_done | exact Keeps.refl _ | apply ite_done | apply ite_keeps | apply itep_keeps
    | apply State.byWrite_keeps | apply State.answer_keeps | apply State.writeLodgeBit_keeps | apply State.setB_keeps
    | apply foldl_keeps | intro _
    | (extract_lets +onlyGivenNames x; first | (have hx : Keeps s x := ?_; clear_value x) | (have hx : Keeps s x.1 := ?_; clear_value x) | (have hf := fun a => x a; clear hf) | (have hf : CiphState := x; clear hf) | (have hf : SecState := x; clear hf) | clear_value x)
    | split

theorem execLodgeCoreRestart_done (k : Fin 8) (good : Bool) (s : State) : Done s (execLodgeCoreRestart k good s) := by
  unfold execLodgeCoreRestart
  with_reducible repeat' first
    | apply next_done | exact Keeps.refl _ | apply ite_done | apply ite_keeps | apply State.setB_keeps
    | apply State.raise_keeps

theorem execCiphUnblock_done (by_ : Source) (s : State) : Done s (execCiphUnblock by_ s) := by
  unfold execCiphUnblock
  with_reducible repeat' first
    | assumption | apply next_done | exact Keeps.refl _ | apply ite_done | apply ite_keeps | apply itep_keeps
    | apply State.byWrite_keeps | apply State.answer_keeps | apply State.ciphUnblock_keeps | apply foldl_keeps
    | intro _
    | (extract_lets +onlyGivenNames x; first | (have hx : Keeps s x := ?_; clear_value x) | (have hx : Keeps s x.1 := ?_; clear_value x) | (have hf := fun a => x a; clear hf) | (have hf : CiphState := x; clear hf) | (have hf : SecState := x; clear hf) | clear_value x)
    | split

theorem execCfgParityScan_done (addr : Nat) (flips : Word) (s : State) : Done s (execCfgParityScan addr flips s) := by
  unfold execCfgParityScan
  with_reducible repeat' first
    | assumption | apply next_done | exact Keeps.refl _ | exact ⟨Nat.le_refl _, fun _ => rfl⟩ | apply ite_done
    | apply ite_keeps | apply itep_keeps | apply State.setReg_keeps | apply State.modSec_keeps
    | apply State.cfgParity_keeps | apply foldl_keeps | intro _
    | (extract_lets +onlyGivenNames x; first | (have hx : Keeps s x := ?_; clear_value x) | (have hx : Keeps s x.1 := ?_; clear_value x) | (have hf := fun a => x a; clear hf) | (have hf : CiphState := x; clear hf) | (have hf : SecState := x; clear hf) | clear_value x)
    | split

theorem execPcieFlr_done (s : State) : Done s (execPcieFlr s) := by
  unfold execPcieFlr
  with_reducible repeat' first
    | assumption | exact Keeps.refl _ | exact id_keeps _ | exact ⟨Nat.le_refl _, fun _ => rfl⟩ | apply next_done
    | apply ite_done | apply ite_keeps | apply itep_keeps | apply State.resetRange_keeps
    | apply State.courseOrphan_keeps | apply State.releaseLevel_keeps | apply State.setNat_keeps | apply foldl_keeps
    | apply foldlp_keeps | intro _
    | (extract_lets +onlyGivenNames x; first | (have hx : Keeps s x := ?_; clear_value x) | (have hx : Keeps s x.1 := ?_; clear_value x) | (have hf := fun a => x a; clear hf) | (have hf : CiphState := x; clear hf) | (have hf : SecState := x; clear hf) | clear_value x)
    | subst x | dsimp only | (apply fst_keeps; assumption) | split | refine Keeps.raw ?_ rfl rfl rfl

/-! ### Boot.lean -/

theorem execColdReset_done (s : State) : Done s (execColdReset s) := by
  unfold execColdReset
  with_reducible repeat' first
    | assumption | apply next_done | exact Keeps.refl _ | exact ⟨Nat.le_refl _, fun _ => rfl⟩ | apply ite_done
    | apply ite_keeps | apply itep_keeps | apply State.modSec_keeps | apply State.coldReset_keeps | apply foldl_keeps
    | intro _
    | (extract_lets +onlyGivenNames x; first | (have hx : Keeps s x := ?_; clear_value x) | (have hx : Keeps s x.1 := ?_; clear_value x) | (have hf := fun a => x a; clear hf) | (have hf : CiphState := x; clear hf) | (have hf : SecState := x; clear hf) | clear_value x)
    | split

theorem execColdResetRelease_done (cool : Bool) (s : State) : Done s (execColdResetRelease cool s) := by
  unfold execColdResetRelease
  with_reducible repeat' first
    | assumption | apply next_done | exact Keeps.refl _ | exact ⟨Nat.le_refl _, fun _ => rfl⟩ | apply ite_done
    | apply ite_keeps | apply itep_keeps | apply State.modSec_keeps | apply State.tryRelease_keeps | apply foldl_keeps
    | intro _
    | (extract_lets +onlyGivenNames x; first | (have hx : Keeps s x := ?_; clear_value x) | (have hx : Keeps s x.1 := ?_; clear_value x) | (have hf := fun a => x a; clear hf) | (have hf : CiphState := x; clear hf) | (have hf : SecState := x; clear hf) | clear_value x)
    | split

theorem execSupplyUndervoltage_done (s : State) : Done s (execSupplyUndervoltage s) := by
  unfold execSupplyUndervoltage
  with_reducible repeat' first
    | assumption | apply next_done | exact Keeps.refl _ | exact ⟨Nat.le_refl _, fun _ => rfl⟩ | apply ite_done
    | apply ite_keeps | apply itep_keeps | apply State.modSec_keeps | apply State.coldReset_keeps | apply foldl_keeps
    | intro _
    | (extract_lets +onlyGivenNames x; first | (have hx : Keeps s x := ?_; clear_value x) | (have hx : Keeps s x.1 := ?_; clear_value x) | (have hf := fun a => x a; clear hf) | (have hf : CiphState := x; clear hf) | (have hf : SecState := x; clear hf) | clear_value x)
    | split

theorem execSupplyRestored_done (s : State) : Done s (execSupplyRestored s) := by
  unfold execSupplyRestored
  with_reducible repeat' first
    | assumption | apply next_done | exact Keeps.refl _ | exact ⟨Nat.le_refl _, fun _ => rfl⟩ | apply ite_done
    | apply ite_keeps | apply itep_keeps | apply State.tryRelease_keeps | apply State.modSec_keeps | apply foldl_keeps
    | intro _
    | (extract_lets +onlyGivenNames x; first | (have hx : Keeps s x := ?_; clear_value x) | (have hx : Keeps s x.1 := ?_; clear_value x) | (have hf := fun a => x a; clear hf) | (have hf : CiphState := x; clear hf) | (have hf : SecState := x; clear hf) | clear_value x)
    | split

theorem execThermalTrip_done (s : State) : Done s (execThermalTrip s) := by
  unfold execThermalTrip
  with_reducible repeat' first
    | assumption | apply next_done | exact Keeps.refl _ | exact ⟨Nat.le_refl _, fun _ => rfl⟩ | apply ite_done
    | apply ite_keeps | apply itep_keeps | apply State.modSec_keeps | apply State.coldReset_keeps | apply foldl_keeps
    | intro _
    | (extract_lets +onlyGivenNames x; first | (have hx : Keeps s x := ?_; clear_value x) | (have hx : Keeps s x.1 := ?_; clear_value x) | (have hf := fun a => x a; clear hf) | (have hf : CiphState := x; clear hf) | (have hf : SecState := x; clear hf) | clear_value x)
    | split

theorem execBootStage1Verified_done (s : State) : Done s (execBootStage1Verified s) := by
  unfold execBootStage1Verified
  with_reducible repeat' first
    | apply next_done | exact Keeps.refl _ | apply ite_done | apply ite_keeps | apply State.bootFail_keeps
    | apply State.set_keeps | apply State.bootStep_keeps | apply State.imageInForce_keeps | split

theorem execBootEnginesLoaded_done (s : State) : Done s (execBootEnginesLoaded s) := by
  unfold execBootEnginesLoaded
  with_reducible repeat' first
    | apply next_done | exact Keeps.refl _ | apply ite_done | apply ite_keeps | apply State.bootFail_keeps
    | apply State.raiseIf_keeps | apply State.set_keeps | apply State.bootStep_keeps | apply State.setNat_keeps
    | apply State.imageInForce_keeps | split

theorem setupEntries_keeps (n : Nat) (bs : List Byte) {l : List (State → Option State)} (e : setupEntries n bs = some l) :
    ∀ f ∈ l, ∀ s t, f s = some t → Keeps s t := by
  induction n generalizing bs l with
  | zero =>
    unfold setupEntries at e
    split at e
    · cases e; intro f hf; cases hf
    · cases e
  | succ n ih =>
    have cons : ∀ (f : State → Option State) (bs' : List Byte), (∀ s t, f s = some t → Keeps s t) →
        (setupEntries n bs').map (fun l => f :: l) = some l → ∀ g ∈ l, ∀ s t, g s = some t → Keeps s t := by
      intro f bs' hf hm
      cases hl : setupEntries n bs' with
      | none => rw [hl] at hm; cases hm
      | some l' =>
        rw [hl] at hm
        cases hm
        intro g hg
        rcases List.mem_cons.mp hg with rfl | hg
        · exact hf
        · exact ih bs' hl g hg
    unfold setupEntries at e
    split at e
    · cases e; intro f hf; cases hf
    · split at e
      · cases e
      · split at e
        · extract_lets a at e
          split at e
          · cases e
          · split at e
            · cases e
            · refine cons _ _ ?_ e
              intro s t k
              cases k
              exact State.setNat_keeps _ _ _ (Keeps.refl s)
        · extract_lets len at e
          split at e
          · cases e
          · exact cons _ _ (fun s t k => setRwlObj_keeps _ _ _ _ k (Keeps.refl s)) e
        · cases e

theorem applySetup_keeps {r0 : State} (s : State) (payload : List Byte) {t : State} (e : s.applySetup payload = some t)
    (h0 : Keeps r0 s) : Keeps r0 t := by
  unfold State.applySetup at e
  split at e
  · cases e
  · rename_i l hl
    have hk := setupEntries_keeps _ _ hl
    clear hl
    induction l generalizing s with
    | nil => cases e; exact h0
    | cons f l ih =>
      rw [List.foldl_cons, Option.bind_some] at e
      cases hf : f s with
      | none =>
        rw [hf] at e
        have : ∀ l : List (State → Option State), l.foldl (fun o f => o.bind f) none = none := by
          intro l; induction l with
          | nil => rfl
          | cons a l ih => exact ih
        rw [this] at e
        cases e
      | some u =>
        rw [hf] at e
        exact ih u (h0.trans (hk f List.mem_cons_self s u hf)) e fun g hg => hk g (List.mem_cons_of_mem _ hg)

theorem execSetupRecordApplied_done (s : State) : Done s (execSetupRecordApplied s) := by
  unfold execSetupRecordApplied
  refine ite_done _ (Keeps.refl s) ?_
  refine State.bootStep_keeps _ _ (State.setB_keeps _ _ _ (State.setB_keeps _ _ _ ?_))
  split
  · exact Keeps.refl s
  · extract_lets img
    split
    · exact State.raise_keeps _ _ (Keeps.refl s)
    · exact State.setB_keeps _ _ _ (State.imageInForce_keeps _ _ _ _ (applySetup_keeps _ _ (by assumption) (Keeps.refl s)))

theorem execCalSetsLoaded_done (s : State) : Done s (execCalSetsLoaded s) := by
  unfold execCalSetsLoaded
  with_reducible repeat' first
    | apply next_done | exact Keeps.refl _ | apply ite_done | apply ite_keeps | apply State.bootStep_keeps
    | apply State.calLoad_keeps

theorem execSecLockSet_done (s : State) : Done s (execSecLockSet s) := by
  unfold execSecLockSet
  with_reducible repeat' first
    | apply next_done | exact Keeps.refl _ | apply ite_done | apply ite_keeps | apply State.bootStep_keeps
    | apply State.advanceSvn_keeps | apply State.lockWindow_keeps

theorem execMgtReady_done (s : State) : Done s (execMgtReady s) := by
  unfold execMgtReady
  with_reducible repeat' first
    | assumption | exact Keeps.refl _ | exact id_keeps _ | exact ⟨Nat.le_refl _, fun _ => rfl⟩ | apply next_done
    | apply ite_done | apply ite_keeps | apply itep_keeps | apply State.setB_keeps | apply State.releaseAll_keeps
    | apply State.bootStep_keeps | apply State.set_keeps | apply State.showAll_keeps | apply State.modSec_keeps
    | apply foldl_keeps | apply foldlp_keeps | intro _
    | (extract_lets +onlyGivenNames x; first | (have hx : Keeps s x := ?_; clear_value x) | (have hx : Keeps s x.1 := ?_; clear_value x) | (have hf := fun a => x a; clear hf) | (have hf : CiphState := x; clear hf) | (have hf : SecState := x; clear hf) | clear_value x)
    | subst x | dsimp only | (apply fst_keeps; assumption) | split | refine Keeps.raw ?_ rfl rfl rfl

theorem execWarmResetRequest_done (by_ : Source) (s : State) : Done s (execWarmResetRequest by_ s) := by
  unfold execWarmResetRequest
  with_reducible repeat' first
    | assumption | apply next_done | exact Keeps.refl _ | apply ite_done | apply ite_keeps | apply itep_keeps
    | apply State.byWrite_keeps | apply State.answer_keeps | apply State.warmRequest_keeps | apply foldl_keeps
    | intro _
    | (extract_lets +onlyGivenNames x; first | (have hx : Keeps s x := ?_; clear_value x) | (have hx : Keeps s x.1 := ?_; clear_value x) | (have hf := fun a => x a; clear hf) | (have hf : CiphState := x; clear hf) | (have hf : SecState := x; clear hf) | clear_value x)
    | split

theorem execWarmResetStart_done (s : State) : Done s (execWarmResetStart s) := by
  unfold execWarmResetStart
  with_reducible repeat' first
    | assumption | exact Keeps.refl _ | exact id_keeps _ | exact ⟨Nat.le_refl _, fun _ => rfl⟩ | apply next_done
    | apply ite_done | apply ite_keeps | apply itep_keeps | apply State.endFreeze_keeps | apply State.modCrs_keeps
    | apply State.setB_keeps | apply State.set_keeps | apply State.modSec_keeps | apply State.functionEnter_keeps
    | apply foldl_keeps | apply foldlp_keeps | intro _
    | (extract_lets +onlyGivenNames x; first | (have hx : Keeps s x := ?_; clear_value x) | (have hx : Keeps s x.1 := ?_; clear_value x) | (have hf := fun a => x a; clear hf) | (have hf : CiphState := x; clear hf) | (have hf : SecState := x; clear hf) | clear_value x)
    | subst x | dsimp only | (apply fst_keeps; assumption) | split | refine Keeps.raw ?_ rfl rfl rfl

theorem execMgtLinkChange_done (i : Fin 2) (v : Bool) (s : State) : Done s (execMgtLinkChange i v s) := by
  unfold execMgtLinkChange
  with_reducible repeat' first
    | assumption | apply next_done | exact Keeps.refl _ | exact ⟨Nat.le_refl _, fun _ => rfl⟩ | apply ite_done
    | apply ite_keeps | apply itep_keeps | apply State.modSec_keeps | apply State.linkShow_keeps | apply foldl_keeps
    | intro _
    | (extract_lets +onlyGivenNames x; first | (have hx : Keeps s x := ?_; clear_value x) | (have hx : Keeps s x.1 := ?_; clear_value x) | (have hf := fun a => x a; clear hf) | (have hf : CiphState := x; clear hf) | (have hf : SecState := x; clear hf) | clear_value x)
    | split

theorem execVddNvThreshold_done (above : Bool) (s : State) : Done s (execVddNvThreshold above s) := by
  unfold execVddNvThreshold
  with_reducible repeat' first
    | assumption | apply next_done | exact Keeps.refl _ | exact ⟨Nat.le_refl _, fun _ => rfl⟩ | apply ite_done
    | apply ite_keeps | apply itep_keeps | apply State.modSec_keeps | apply foldl_keeps | intro _
    | (extract_lets +onlyGivenNames x; first | (have hx : Keeps s x := ?_; clear_value x) | (have hx : Keeps s x.1 := ?_; clear_value x) | (have hf := fun a => x a; clear hf) | (have hf : CiphState := x; clear hf) | (have hf : SecState := x; clear hf) | clear_value x)
    | split

/-! ### Access.lean -/

theorem execLevelDataRead_done (addr size : Nat) (s : State) : Done s (execLevelDataRead addr size s) := by
  unfold execLevelDataRead
  with_reducible repeat' first
    | apply next_done | exact Keeps.refl _ | apply ite_done | apply ite_keeps | apply State.readPcie_keeps | split

theorem execWideLoRead_done (addr size : Nat) (s : State) : Done s (execWideLoRead addr size s) := by
  unfold execWideLoRead
  with_reducible repeat' first
    | apply next_done | exact Keeps.refl _ | apply ite_done | apply ite_keeps | apply State.readPcie_keeps

theorem execPcieUnsupportedRequest_done (s : State) : Done s (execPcieUnsupportedRequest s) := by
  unfold execPcieUnsupportedRequest
  with_reducible repeat' first
    | apply next_done | exact Keeps.refl _ | apply ite_done | apply ite_keeps | apply State.emit_keeps

theorem execPcieReadAbort_done (addr size : Nat) (contiguous : Bool) (s : State) : Done s (execPcieReadAbort addr size
    contiguous s) := by
  unfold execPcieReadAbort
  with_reducible repeat' first
    | apply next_done | exact Keeps.refl _ | apply ite_done | apply ite_keeps | apply State.readPcie_keeps

theorem execRegisterWrite_done (addr size : Nat) (contiguous : Bool) (v : BitVec 64) (s : State) : Done s
    (execRegisterWrite addr size contiguous v s) := by
  unfold execRegisterWrite
  with_reducible repeat' first
    | apply next_done | exact Keeps.refl _ | apply ite_done | apply ite_keeps | apply State.emit_keeps
    | apply State.logAcc_keeps | apply State.writePcie_keeps

/-! ### Objects.lean -/

theorem execHkmResultRead_done (by_ : Source) (x : Fin 2) (s : State) : Done s (execHkmResultRead by_ x s) := by
  unfold execHkmResultRead
  with_reducible repeat' first
    | assumption | intro _ | exact Keeps.refl _ | subst x
    | (extract_lets +onlyGivenNames x; first | (have hx : Keeps s x := ?_; clear_value x) | (have hx : Keeps s x.1 := ?_; clear_value x) | (have hf := fun a => x a; clear hf) | (have hf : CiphState := x; clear hf) | (have hf : SecState := x; clear hf) | clear_value x)
    | apply next_done | apply ite_done | apply ite_keeps | apply itep_keeps | apply State.emit_keeps
    | apply State.readPcie_keeps | apply State.readObj_keeps | dsimp only | (apply fst_keeps; assumption) | split

/-! ### Cop.lean -/

theorem execCopRead_done (m : CopRx) (full : Bool) (s : State) : Done s (execCopRead m full s) := by
  unfold execCopRead
  with_reducible repeat' first
    | assumption | apply next_done | exact Keeps.refl _ | apply ite_done | apply ite_keeps | apply itep_keeps
    | apply State.copServe_keeps | apply State.opRead_keeps | apply foldl_keeps | intro _
    | (extract_lets +onlyGivenNames x; first | (have hx : Keeps s x := ?_; clear_value x) | (have hx : Keeps s x.1 := ?_; clear_value x) | (have hf := fun a => x a; clear hf) | (have hf : CiphState := x; clear hf) | (have hf : SecState := x; clear hf) | clear_value x)
    | split

theorem execCopWrite_done (m : CopRx) (full : Bool) (s : State) : Done s (execCopWrite m full s) := by
  unfold execCopWrite
  with_reducible repeat' first
    | assumption | apply next_done | exact Keeps.refl _ | apply ite_done | apply ite_keeps | apply itep_keeps
    | apply State.copServe_keeps | apply State.opWrite_keeps | apply foldl_keeps | intro _
    | (extract_lets +onlyGivenNames x; first | (have hx : Keeps s x := ?_; clear_value x) | (have hx : Keeps s x.1 := ?_; clear_value x) | (have hf := fun a => x a; clear hf) | (have hf : CiphState := x; clear hf) | (have hf : SecState := x; clear hf) | clear_value x)
    | split

theorem execCopLevelRead_done (m : CopRx) (full : Bool) (s : State) : Done s (execCopLevelRead m full s) := by
  unfold execCopLevelRead
  with_reducible repeat' first
    | assumption | apply next_done | exact Keeps.refl _ | apply ite_done | apply ite_keeps | apply itep_keeps
    | apply State.copServe_keeps | apply State.opLevelRead_keeps | apply foldl_keeps | intro _
    | (extract_lets +onlyGivenNames x; first | (have hx : Keeps s x := ?_; clear_value x) | (have hx : Keeps s x.1 := ?_; clear_value x) | (have hf := fun a => x a; clear hf) | (have hf : CiphState := x; clear hf) | (have hf : SecState := x; clear hf) | clear_value x)
    | split

theorem execCopBlockRead_done (m : CopRx) (full : Bool) (s : State) : Done s (execCopBlockRead m full s) := by
  unfold execCopBlockRead
  with_reducible repeat' first
    | assumption | apply next_done | exact Keeps.refl _ | apply ite_done | apply ite_keeps | apply itep_keeps
    | apply State.copServe_keeps | apply State.opBlockRead_keeps | apply foldl_keeps | intro _
    | (extract_lets +onlyGivenNames x; first | (have hx : Keeps s x := ?_; clear_value x) | (have hx : Keeps s x.1 := ?_; clear_value x) | (have hf := fun a => x a; clear hf) | (have hf : CiphState := x; clear hf) | (have hf : SecState := x; clear hf) | clear_value x)
    | split

theorem execCopBlockWrite_done (m : CopRx) (full : Bool) (s : State) : Done s (execCopBlockWrite m full s) := by
  unfold execCopBlockWrite
  with_reducible repeat' first
    | assumption | apply next_done | exact Keeps.refl _ | apply ite_done | apply ite_keeps | apply itep_keeps
    | apply State.copServe_keeps | apply State.opBlockWrite_keeps | apply foldl_keeps | intro _
    | (extract_lets +onlyGivenNames x; first | (have hx : Keeps s x := ?_; clear_value x) | (have hx : Keeps s x.1 := ?_; clear_value x) | (have hf := fun a => x a; clear hf) | (have hf : CiphState := x; clear hf) | (have hf : SecState := x; clear hf) | clear_value x)
    | split

theorem execBlockExpire_done (k : Nat) (s : State) : Done s (execBlockExpire k s) := by
  unfold execBlockExpire
  with_reducible repeat' first
    | apply next_done | exact Keeps.refl _ | apply ite_done | apply ite_keeps | apply State.setBlock_keeps
    | apply State.waitClk_keeps | split

theorem execCopOpInvalid_done (m : CopRx) (full : Bool) (s : State) : Done s (execCopOpInvalid m full s) := by
  unfold execCopOpInvalid
  with_reducible repeat' first
    | assumption | apply next_done | exact Keeps.refl _ | apply ite_done | apply ite_keeps | apply itep_keeps
    | apply State.copServe_keeps | apply foldl_keeps | intro _
    | (extract_lets +onlyGivenNames x; first | (have hx : Keeps s x := ?_; clear_value x) | (have hx : Keeps s x.1 := ?_; clear_value x) | (have hf := fun a => x a; clear hf) | (have hf : CiphState := x; clear hf) | (have hf : SecState := x; clear hf) | clear_value x)
    | split

theorem execSessionOpen_done (m : CopRx) (full : Bool) (s : State) : Done s (execSessionOpen m full s) := by
  unfold execSessionOpen
  with_reducible repeat' first
    | assumption | exact Keeps.refl _ | exact id_keeps _ | exact ⟨Nat.le_refl _, fun _ => rfl⟩ | apply next_done
    | apply ite_done | apply ite_keeps | apply itep_keeps | apply State.copDiscard_keeps | apply State.copCount_keeps
    | apply State.copOut_keeps | apply State.bumpObj_keeps | apply State.takeFree_keeps | apply foldl_keeps
    | apply foldlp_keeps | intro _
    | (extract_lets +onlyGivenNames x; first | (have hx : Keeps s x := ?_; clear_value x) | (have hx : Keeps s x.1 := ?_; clear_value x) | (have hf := fun a => x a; clear hf) | (have hf : CiphState := x; clear hf) | (have hf : SecState := x; clear hf) | clear_value x)
    | subst x | dsimp only | (apply fst_keeps; assumption) | split | refine Keeps.raw ?_ rfl rfl rfl

theorem execSessionClose_done (m : CopRx) (full : Bool) (s : State) : Done s (execSessionClose m full s) := by
  unfold execSessionClose
  with_reducible repeat' first
    | assumption | apply next_done | exact Keeps.refl _ | apply ite_done | apply ite_keeps | apply itep_keeps
    | apply State.copServe_keeps | apply State.sessionEnd_keeps | apply foldl_keeps | intro _
    | (extract_lets +onlyGivenNames x; first | (have hx : Keeps s x := ?_; clear_value x) | (have hx : Keeps s x.1 := ?_; clear_value x) | (have hf := fun a => x a; clear hf) | (have hf : CiphState := x; clear hf) | (have hf : SecState := x; clear hf) | clear_value x)
    | split

theorem execSessionTimeout_done (k : Nat) (s : State) : Done s (execSessionTimeout k s) := by
  unfold execSessionTimeout
  with_reducible repeat' first
    | apply next_done | exact Keeps.refl _ | apply ite_done | apply ite_keeps | apply State.sessionEnd_keeps
    | apply State.waitClk_keeps | split

/-! ### Domain.lean -/

theorem execCopRelay_done (m : CopRx) (s : State) : Done s (execCopRelay m s) := by
  unfold execCopRelay
  with_reducible repeat' first
    | assumption | apply next_done | exact Keeps.refl _ | apply ite_done | apply ite_keeps
    | apply State.copDiscard_keeps | apply State.copCount_keeps | apply State.copOut_keeps
    | apply State.relayUnreachable_keeps | apply State.modCop_keeps
    | (extract_lets +onlyGivenNames x; have hx : Keeps s x := ?_; clear_value x) | split

theorem execTimePoll_done (m : CopRx) (d : Fin 1251) (s : State) : Done s (execTimePoll m d s) := by
  unfold execTimePoll
  with_reducible repeat' first
    | assumption | apply next_done | exact Keeps.refl _ | apply ite_done | apply ite_keeps | apply itep_keeps
    | apply State.copServe_keeps | apply State.elapse_keeps | apply State.modCop_keeps | apply foldl_keeps | intro _
    | (extract_lets +onlyGivenNames x; first | (have hx : Keeps s x := ?_; clear_value x) | (have hx : Keeps s x.1 := ?_; clear_value x) | (have hf := fun a => x a; clear hf) | (have hf : CiphState := x; clear hf) | (have hf : SecState := x; clear hf) | clear_value x)
    | split

theorem execPollRoundStart_done (s : State) : Done s (execPollRoundStart s) := by
  unfold execPollRoundStart
  with_reducible repeat' first
    | apply next_done | exact Keeps.refl _ | apply ite_done | apply ite_keeps | apply State.modCop_keeps
    | apply State.waitTb_keeps | apply State.bumpObj_keeps

theorem execPollSend_done (s : State) : Done s (execPollSend s) := by
  unfold execPollSend
  with_reducible repeat' first
    | apply next_done | exact Keeps.refl _ | apply ite_done | apply ite_keeps | apply State.waitTb_keeps
    | apply State.modCop_keeps | apply State.emit_keeps | split

theorem execTimePollAnswer_done (node : BitVec 14) (body : List Byte) (s : State) : Done s (execTimePollAnswer node
    body s) := by
  unfold execTimePollAnswer
  with_reducible repeat' first
    | assumption | apply next_done | exact Keeps.refl _ | apply ite_done | apply ite_keeps | apply itep_keeps
    | apply State.setNode_keeps | apply State.modCop_keeps | apply State.reportPresence_keeps | apply foldl_keeps
    | intro _
    | (extract_lets +onlyGivenNames x; first | (have hx : Keeps s x := ?_; clear_value x) | (have hx : Keeps s x.1 := ?_; clear_value x) | (have hf := fun a => x a; clear hf) | (have hf : CiphState := x; clear hf) | (have hf : SecState := x; clear hf) | clear_value x)
    | split

theorem execPollTimeout_done (node : BitVec 14) (s : State) : Done s (execPollTimeout node s) := by
  unfold execPollTimeout
  with_reducible repeat' first
    | assumption | apply next_done | exact Keeps.refl _ | apply ite_done | apply ite_keeps | apply itep_keeps
    | apply State.waitTb_keeps | apply State.modCop_keeps | apply State.setNode_keeps
    | apply State.reportPresence_keeps | apply foldl_keeps | intro _
    | (extract_lets +onlyGivenNames x; first | (have hx : Keeps s x := ?_; clear_value x) | (have hx : Keeps s x.1 := ?_; clear_value x) | (have hf := fun a => x a; clear hf) | (have hf : CiphState := x; clear hf) | (have hf : SecState := x; clear hf) | clear_value x)
    | split

theorem execAnnounceDue_done (s : State) : Done s (execAnnounceDue s) := by
  unfold execAnnounceDue
  with_reducible repeat' first
    | assumption | apply next_done | exact Keeps.refl _ | apply ite_done | apply ite_keeps | apply itep_keeps
    | apply State.waitTb_keeps | apply State.modCop_keeps | apply State.emit_keeps | apply foldl_keeps | intro _
    | (extract_lets +onlyGivenNames x; first | (have hx : Keeps s x := ?_; clear_value x) | (have hx : Keeps s x.1 := ?_; clear_value x) | (have hf := fun a => x a; clear hf) | (have hf : CiphState := x; clear hf) | (have hf : SecState := x; clear hf) | clear_value x)
    | split

theorem execAnnounceReceive_done (node : BitVec 14) (path : Fin 4) (lane : Fin 8) (addr : List Byte) (s : State) :
    Done s (execAnnounceReceive node path lane addr s) := by
  unfold execAnnounceReceive
  with_reducible repeat' first
    | apply next_done | exact Keeps.refl _ | apply ite_done | apply ite_keeps | apply State.setNode_keeps

theorem execNotify_done (m : CopRx) (full : Bool) (s : State) : Done s (execNotify m full s) := by
  unfold execNotify
  with_reducible repeat' first
    | assumption | apply next_done | exact Keeps.refl _ | apply ite_done | apply ite_keeps | apply itep_keeps
    | apply State.copServe_keeps | apply State.setNode_keeps | apply foldl_keeps | intro _
    | (extract_lets +onlyGivenNames x; first | (have hx : Keeps s x := ?_; clear_value x) | (have hx : Keeps s x.1 := ?_; clear_value x) | (have hf := fun a => x a; clear hf) | (have hf : CiphState := x; clear hf) | (have hf : SecState := x; clear hf) | clear_value x)
    | split

theorem execStreamSampleSend_done (i : Fin 16) (path : Fin 4) (lane : Fin 8) (s : State) : Done s
    (execStreamSampleSend i path lane s) := by
  unfold execStreamSampleSend
  with_reducible repeat' first
    | assumption | apply next_done | exact Keeps.refl _ | apply ite_done | apply ite_keeps | apply itep_keeps
    | apply State.modCop_keeps | apply State.bumpObj_keeps | apply State.sampleEntries_keeps
    | apply State.copOut_keeps | apply foldl_keeps | intro _
    | (extract_lets +onlyGivenNames x; first | (have hx : Keeps s x := ?_; clear_value x) | (have hx : Keeps s x.1 := ?_; clear_value x) | (have hf := fun a => x a; clear hf) | (have hf : CiphState := x; clear hf) | (have hf : SecState := x; clear hf) | clear_value x)
    | split

theorem execDomainLevelSchedule_done (results : List (BitVec 14 × BitVec 16)) (s : State) : Done s
    (execDomainLevelSchedule results s) := by
  unfold execDomainLevelSchedule
  with_reducible repeat' first
    | assumption | exact Keeps.refl _ | exact id_keeps _ | exact ⟨Nat.le_refl _, fun _ => rfl⟩ | apply next_done
    | apply ite_done | apply ite_keeps | apply itep_keeps | apply State.modCop_keeps | apply State.ownSlot_keeps
    | apply State.emit_keeps | apply State.setObj_keeps | apply foldl_keeps | apply foldlp_keeps | intro _
    | (extract_lets +onlyGivenNames x; first | (have hx : Keeps s x := ?_; clear_value x) | (have hx : Keeps s x.1 := ?_; clear_value x) | (have hf := fun a => x a; clear hf) | (have hf : CiphState := x; clear hf) | (have hf : SecState := x; clear hf) | clear_value x)
    | subst x | dsimp only | (apply fst_keeps; assumption) | split

theorem execCourseAllocate_done (k : Nat) (t : Time80) (s : State) : Done s (execCourseAllocate k t s) := by
  unfold execCourseAllocate
  with_reducible repeat' first
    | apply next_done | exact Keeps.refl _ | apply ite_done | apply ite_keeps | apply State.allocate_keeps
    | apply State.answer_keeps

theorem execDomainAbort_done (k : Nat) (number : BitVec 32) (s : State) : Done s (execDomainAbort k number s) := by
  unfold execDomainAbort
  with_reducible repeat' first
    | apply next_done | exact Keeps.refl _ | apply ite_done | apply ite_keeps | apply State.answer_keeps
    | apply State.domainAbort_keeps

end Sys2Proof.Machine
end

