-- ==== Sys2Proof/Laws/Frame.lean ====
section
/-!
SUPPORT. Which parts of the state an operation leaves as they are, as a mask, and the rules by which it is shown of one
operation after another.
-/

-- one theorem after another: all at once would not fit the memory
set_option Elab.async false
set_option linter.all false

namespace Sys2Proof.Machine

/-- The place of a part in a mask. -/
def Part.ix : Part → Nat
  | .regs => 0
  | .shadow => 1
  | .clock => 2
  | .free => 3
  | .out => 4
  | .conv => 5
  | .rxd => 6
  | .tx => 7
  | .fec => 8
  | .lfr => 9
  | .pmon => 10
  | .ksc => 11
  | .sampRef => 12
  | .level => 13
  | .heldCounts => 14
  | .course => 15
  | .client => 16
  | .cold => 17
  | .bootHold => 18
  | .hkm => 19
  | .cal => 20
  | .mem => 21
  | .cst => 22
  | .tb3 => 23
  | .plu => 24
  | .servo => 25
  | .objs => 26
  | .ciph => 27
  | .cop => 28
  | .sec => 29

/-- Every part outside the mask is the same. -/
def Frame (F : Nat) (s t : State) : Prop := ∀ p : Part, F.testBit p.ix = false → s.same t p

variable {F : Nat} {r s : State}

theorem sub_of {F m k : Nat} (h : F &&& m = m) (g : m &&& k = k) : F &&& k = k := by
  rw [← g, ← Nat.and_assoc, h]

/-- A part in the mask is not outside it. -/
theorem bit_in {F m : Nat} (i : Nat) (sub : F &&& m = m) (b : m.testBit i = true) {P : Prop} (e : F.testBit i = false) : P := by
  have : (F &&& m).testBit i = true := by rw [sub]; exact b
  rw [Nat.testBit_and, e] at this
  cases this

theorem Frame.refl (s : State) : Frame F s s := by
  intro p _
  cases p <;> simp [State.same]

theorem Frame.trans {t : State} (h : Frame F r s) (k : Frame F s t) : Frame F r t := by
  intro p e
  have h := h p e
  have k := k p e
  cases p <;> simp only [State.same] at h k ⊢
  · exact k.trans h
  · exact k.trans h
  · exact ⟨k.1.trans h.1, k.2.trans h.2⟩
  · exact k.trans h
  · exact ⟨k.1.trans h.1, k.2.trans h.2⟩
  · exact fun n => (k n).trans (h n)
  · exact fun n => (k n).trans (h n)
  · exact fun n => (k n).trans (h n)
  · exact fun n => (k n).trans (h n)
  · exact fun n => (k n).trans (h n)
  · exact fun n => (k n).trans (h n)
  · exact fun n => (k n).trans (h n)
  · exact k.trans h
  · exact k.trans h
  · exact k.trans h
  · exact k.trans h
  · exact k.trans h
  · exact k.trans h
  · exact k.trans h
  · exact k.trans h
  · exact k.trans h
  · exact k.trans h
  · exact k.trans h
  · exact k.trans h
  · exact k.trans h
  · exact k.trans h
  · exact k.trans h
  · exact k.trans h
  · exact k.trans h
  · exact k.trans h

/-- A change of the regs alone. -/
theorem State.withRegs_fr (h : Frame F r s) (m : Store) (sub : F &&& 1 = 1 := by first | decide | exact sub_of (by assumption) (by decide)) :
    Frame F r { s with regs := m } := by
  refine h.trans fun p e => ?_
  cases p <;> first | exact bit_in 0 sub (by decide) e | exact rfl | exact ⟨rfl, rfl⟩ | exact fun _ => rfl

theorem State.setReg_fr (h : Frame F r s) (a : Nat) (v : Word) (sub : F &&& 1 = 1 := by first | decide | exact sub_of (by assumption) (by decide)) :
    Frame F r (s.setReg a v) := State.withRegs_fr h _ sub

theorem Frame.raw (h : Frame F r s) {pending regs shadow clk free sent msixPending lanes sampRef lvl crs cli tb cold bootHold hkm cal mem cst plu time objs ciph cop sec}
    (h0 : F.testBit 0 = false → regs = s.regs := by first | exact bit_in 0 (by assumption) (by decide) | exact fun _ => rfl)
    (h1 : F.testBit 1 = false → shadow = s.shadow := by
      first | exact bit_in 1 (by assumption) (by decide) | exact fun _ => rfl)
    (h2 : F.testBit 2 = false → clk = s.clk ∧ tb = s.tb := by
      first | exact bit_in 2 (by assumption) (by decide) | exact fun _ => ⟨rfl, rfl⟩)
    (h3 : F.testBit 3 = false → free = s.free := by
      first | exact bit_in 3 (by assumption) (by decide) | exact fun _ => rfl)
    (h4 : F.testBit 4 = false → sent = s.sent ∧ msixPending = s.msixPending := by
      first | exact bit_in 4 (by assumption) (by decide) | exact fun _ => ⟨rfl, rfl⟩)
    (h12 : F.testBit 12 = false → sampRef = s.sampRef := by
      first | exact bit_in 12 (by assumption) (by decide) | exact fun _ => rfl)
    (h13 : F.testBit 13 = false → ({ lvl with heldCounts := [] } : LevelSeq) = { s.lvl with heldCounts := [] } := by
      first | exact bit_in 13 (by assumption) (by decide) | exact fun _ => rfl)
    (h14 : F.testBit 14 = false → lvl.heldCounts = s.lvl.heldCounts := by
      first | exact bit_in 14 (by assumption) (by decide) | exact fun _ => rfl)
    (h15 : F.testBit 15 = false → crs = s.crs := by
      first | exact bit_in 15 (by assumption) (by decide) | exact fun _ => rfl)
    (h16 : F.testBit 16 = false → cli = s.cli := by
      first | exact bit_in 16 (by assumption) (by decide) | exact fun _ => rfl)
    (h17 : F.testBit 17 = false → cold = s.cold := by
      first | exact bit_in 17 (by assumption) (by decide) | exact fun _ => rfl)
    (h18 : F.testBit 18 = false → bootHold = s.bootHold := by
      first | exact bit_in 18 (by assumption) (by decide) | exact fun _ => rfl)
    (h19 : F.testBit 19 = false → hkm = s.hkm := by
      first | exact bit_in 19 (by assumption) (by decide) | exact fun _ => rfl)
    (h20 : F.testBit 20 = false → cal = s.cal := by
      first | exact bit_in 20 (by assumption) (by decide) | exact fun _ => rfl)
    (h21 : F.testBit 21 = false → mem = s.mem := by
      first | exact bit_in 21 (by assumption) (by decide) | exact fun _ => rfl)
    (h22 : F.testBit 22 = false → ({ cst with tb3 := {} } : CstState) = { s.cst with tb3 := {} } := by
      first | exact bit_in 22 (by assumption) (by decide) | exact fun _ => rfl)
    (h23 : F.testBit 23 = false → cst.tb3 = s.cst.tb3 := by
      first | exact bit_in 23 (by assumption) (by decide) | exact fun _ => rfl)
    (h24 : F.testBit 24 = false → plu = s.plu := by
      first | exact bit_in 24 (by assumption) (by decide) | exact fun _ => rfl)
    (h25 : F.testBit 25 = false → time = s.time := by
      first | exact bit_in 25 (by assumption) (by decide) | exact fun _ => rfl)
    (h26 : F.testBit 26 = false → objs = s.objs := by
      first | exact bit_in 26 (by assumption) (by decide) | exact fun _ => rfl)
    (h27 : F.testBit 27 = false → ciph = s.ciph := by
      first | exact bit_in 27 (by assumption) (by decide) | exact fun _ => rfl)
    (h28 : F.testBit 28 = false → cop = s.cop := by
      first | exact bit_in 28 (by assumption) (by decide) | exact fun _ => rfl)
    (h29 : F.testBit 29 = false → sec = s.sec := by
      first | exact bit_in 29 (by assumption) (by decide) | exact fun _ => rfl)
    (hl : lanes = s.lanes := by rfl) :
    Frame F r ⟨pending, regs, shadow, clk, free, sent, msixPending, lanes, sampRef, lvl, crs, cli, tb, cold, bootHold, hkm, cal, mem, cst, plu, time, objs, ciph, cop, sec⟩ := by
  refine h.trans fun p e => ?_
  cases p
  · exact h0 e
  · exact h1 e
  · exact h2 e
  · exact h3 e
  · exact h4 e
  · exact fun n => by unfold State.lane; exact congrArg (fun l : Vector LaneState 8 => l[n].conv) hl
  · exact fun n => by unfold State.lane; exact congrArg (fun l : Vector LaneState 8 => l[n].rxd) hl
  · exact fun n => by unfold State.lane; exact congrArg (fun l : Vector LaneState 8 => l[n].tx) hl
  · exact fun n => by unfold State.lane; exact congrArg (fun l : Vector LaneState 8 => l[n].fec) hl
  · exact fun n => by unfold State.lane; exact congrArg (fun l : Vector LaneState 8 => l[n].lfr) hl
  · exact fun n => by unfold State.lane; exact congrArg (fun l : Vector LaneState 8 => l[n].pmon) hl
  · exact fun n => by unfold State.lane; exact congrArg (fun l : Vector LaneState 8 => l[n].ksc) hl
  · exact h12 e
  · exact h13 e
  · exact h14 e
  · exact h15 e
  · exact h16 e
  · exact h17 e
  · exact h18 e
  · exact h19 e
  · exact h20 e
  · exact h21 e
  · exact h22 e
  · exact h23 e
  · exact h24 e
  · exact h25 e
  · exact h26 e
  · exact h27 e
  · exact h28 e
  · exact h29 e

theorem State.resetRange_fr (h : Frame F r s) (lo hi : Nat) (keep : Nat → Bool)
    (sub : F &&& 3 = 3 := by first | decide | exact sub_of (by assumption) (by decide)) : Frame F r (s.resetRange lo hi keep) :=
  Frame.raw h

theorem State.lane_modLane (s : State) (n m : Lane) (f : LaneState → LaneState) :
    (s.modLane n f).lane m = if n = m then f (s.lane m) else s.lane m := by
  unfold State.modLane State.lane
  by_cases e : n = m
  · subst e; simp
  · rw [if_neg e]
    have : (n : Nat) ≠ m := fun h => e (Fin.ext h)
    simp [Vector.getElem_set_ne _ _ this]

theorem State.modLane_fr (h : Frame F r s) (n : Lane) (f : LaneState → LaneState)
    (h5 : F.testBit 5 = false → ∀ l, (f l).conv = l.conv := by
      first | exact bit_in 5 (by assumption) (by decide) | exact fun _ _ => rfl)
    (h6 : F.testBit 6 = false → ∀ l, (f l).rxd = l.rxd := by
      first | exact bit_in 6 (by assumption) (by decide) | exact fun _ _ => rfl)
    (h7 : F.testBit 7 = false → ∀ l, (f l).tx = l.tx := by
      first | exact bit_in 7 (by assumption) (by decide) | exact fun _ _ => rfl)
    (h8 : F.testBit 8 = false → ∀ l, (f l).fec = l.fec := by
      first | exact bit_in 8 (by assumption) (by decide) | exact fun _ _ => rfl)
    (h9 : F.testBit 9 = false → ∀ l, (f l).lfr = l.lfr := by
      first | exact bit_in 9 (by assumption) (by decide) | exact fun _ _ => rfl)
    (h10 : F.testBit 10 = false → ∀ l, (f l).pmon = l.pmon := by
      first | exact bit_in 10 (by assumption) (by decide) | exact fun _ _ => rfl)
    (h11 : F.testBit 11 = false → ∀ l, (f l).ksc = l.ksc := by
      first | exact bit_in 11 (by assumption) (by decide) | exact fun _ _ => rfl) :
    Frame F r (s.modLane n f) := by
  refine h.trans fun p e => ?_
  cases p
  · rfl
  · rfl
  · exact ⟨rfl, rfl⟩
  · rfl
  · exact ⟨rfl, rfl⟩
  · intro m; rw [State.lane_modLane]; split
    · exact h5 e _
    · rfl
  · intro m; rw [State.lane_modLane]; split
    · exact h6 e _
    · rfl
  · intro m; rw [State.lane_modLane]; split
    · exact h7 e _
    · rfl
  · intro m; rw [State.lane_modLane]; split
    · exact h8 e _
    · rfl
  · intro m; rw [State.lane_modLane]; split
    · exact h9 e _
    · rfl
  · intro m; rw [State.lane_modLane]; split
    · exact h10 e _
    · rfl
  · intro m; rw [State.lane_modLane]; split
    · exact h11 e _
    · rfl
  · rfl
  · rfl
  · rfl
  · rfl
  · rfl
  · rfl
  · rfl
  · rfl
  · rfl
  · rfl
  · rfl
  · rfl
  · rfl
  · rfl
  · rfl
  · rfl
  · rfl
  · rfl

theorem foldl_fr {α : Type} (f : State → α → State) (k : ∀ t x, Frame F t (f t x)) :
    ∀ (l : List α) (s : State), Frame F r s → Frame F r (l.foldl f s)
  | [], _, h => h
  | x :: l, s, h => foldl_fr f k l (f s x) (h.trans (k s x))

theorem foldlp_fr {α β : Type} (f : State × β → α → State × β) (k : ∀ p x, Frame F p.1 (f p x).1) :
    ∀ (l : List α) (p : State × β), Frame F r p.1 → Frame F r (l.foldl f p).1
  | [], _, h => h
  | x :: l, p, h => foldlp_fr f k l (f p x) (h.trans (k p x))

theorem ite_fr (c : Prop) [Decidable c] (a b : State) (ha : Frame F r a) (hb : Frame F r b) :
    Frame F r (if c then a else b) := by split <;> assumption

theorem itep_fr {α : Type} (c : Prop) [Decidable c] {a b : State × α} (ha : Frame F r a.1) (hb : Frame F r b.1) :
    Frame F r (if c then a else b).1 := by split <;> assumption

theorem State.eachLane_fr (h : Frame F r s) (f : Lane → State → State) (k : ∀ n t, Frame F t (f n t)) :
    Frame F r (s.eachLane f) := by
  unfold State.eachLane
  exact foldl_fr _ (fun t n => k n t) _ _ h

/-- The folds again, with the state at the start held fixed. -/
theorem foldl_fr_of {α : Type} (f : State → α → State) (k : ∀ t x, Frame F r t → Frame F r (f t x)) :
    ∀ (l : List α) (s : State), Frame F r s → Frame F r (l.foldl f s)
  | [], _, h => h
  | x :: l, s, h => foldl_fr_of f k l (f s x) (k s x h)

theorem foldlp_fr_of {α β : Type} (f : State × β → α → State × β) (k : ∀ p x, Frame F r p.1 → Frame F r (f p x).1) :
    ∀ (l : List α) (p : State × β), Frame F r p.1 → Frame F r (l.foldl f p).1
  | [], _, h => h
  | x :: l, p, h => foldlp_fr_of f k l (f p x) (k p x h)

theorem State.eachLane_fr_of (h : Frame F r s) (f : Lane → State → State) (k : ∀ n t, Frame F r t → Frame F r (f n t)) :
    Frame F r (s.eachLane f) := by
  unfold State.eachLane
  exact foldl_fr_of _ (fun t n => k n t) _ _ h

theorem id_fr (s : State) : Frame F s (id s) := Frame.refl s

theorem fst_fr {α : Type} {p : State × α} {a : State} {b : α} (e : p = (a, b)) (h : Frame F r p.1) : Frame F r a := by
  rw [e] at h
  exact h

theorem State.elapse_fr (h : Frame F r s) (n : Nat)
    (sub : F &&& 8388612 = 8388612 := by first | decide | exact sub_of (by assumption) (by decide)) : Frame F r (s.elapse n) := by
  unfold State.elapse
  extract_lets t
  refine ite_fr _ _ _ ?_ ?_
  · exact Frame.raw h
  · exact Frame.raw h

theorem State.takeFree_fr (h : Frame F r s)
    (sub : F &&& 8 = 8 := by first | decide | exact sub_of (by assumption) (by decide)) : Frame F r s.takeFree := Frame.raw h

theorem State.modSec_fr (h : Frame F r s) (f : SecState → SecState)
    (sub : F &&& 536870912 = 536870912 := by first | decide | exact sub_of (by assumption) (by decide)) : Frame F r (s.modSec f) := Frame.raw h

/-- The command's next state keeps every part outside the mask. -/
def FrameOf (F : Nat) (s : State) : Ans → Prop
  | .next t => Frame F s t
  | _ => True

theorem next_fr {t : State} (h : Frame F r t) : FrameOf F r (.next t) := h

theorem iteo_fr (c : Prop) [Decidable c] {a b : Ans} (ha : FrameOf F r a) (hb : FrameOf F r b) :
    FrameOf F r (if c then a else b) := by split <;> assumption

/-! ### What a frame says -/

theorem Frame.part {F : Nat} {s t : State} (h : Frame F s t) (p : Part) (e : F.testBit p.ix = false := by decide) : s.same t p := h p e

theorem Frame.regs {F : Nat} {s t : State} (h : Frame F s t) (e : F.testBit 0 = false := by decide) : t.regs = s.regs := h .regs e

theorem Frame.lvl {F : Nat} {s t : State} (h : Frame F s t) (e : F.testBit 13 = false := by decide)
    (e' : F.testBit 14 = false := by decide) : t.lvl = s.lvl := by
  have a : ({ t.lvl with heldCounts := [] } : LevelSeq) = { s.lvl with heldCounts := [] } := h .level e
  have b : t.lvl.heldCounts = s.lvl.heldCounts := h .heldCounts e'
  generalize t.lvl = x at a b ⊢
  generalize s.lvl = y at a b ⊢
  cases x
  cases y
  simp only [LevelSeq.mk.injEq] at a b ⊢
  simp [a, b]

theorem Frame.clk {F : Nat} {s t : State} (h : Frame F s t) (e : F.testBit 2 = false := by decide) : t.clk = s.clk := (h .clock e).1

theorem Frame.shadow {F : Nat} {s t : State} (h : Frame F s t) (e : F.testBit 1 = false := by decide) :
    t.shadow = s.shadow := h .shadow e

theorem Frame.free {F : Nat} {s t : State} (h : Frame F s t) (e : F.testBit 3 = false := by decide) :
    t.free = s.free := h .free e

theorem Frame.out {F : Nat} {s t : State} (h : Frame F s t) (e : F.testBit 4 = false := by decide) :
    t.sent = s.sent ∧ t.msixPending = s.msixPending := h .out e

theorem Frame.conv {F : Nat} {s t : State} (h : Frame F s t) (e : F.testBit 5 = false := by decide) :
    ∀ n, (t.lane n).conv = (s.lane n).conv := h .conv e

theorem Frame.rxd {F : Nat} {s t : State} (h : Frame F s t) (e : F.testBit 6 = false := by decide) :
    ∀ n, (t.lane n).rxd = (s.lane n).rxd := h .rxd e

theorem Frame.tx {F : Nat} {s t : State} (h : Frame F s t) (e : F.testBit 7 = false := by decide) :
    ∀ n, (t.lane n).tx = (s.lane n).tx := h .tx e

theorem Frame.fec {F : Nat} {s t : State} (h : Frame F s t) (e : F.testBit 8 = false := by decide) :
    ∀ n, (t.lane n).fec = (s.lane n).fec := h .fec e

theorem Frame.lfr {F : Nat} {s t : State} (h : Frame F s t) (e : F.testBit 9 = false := by decide) :
    ∀ n, (t.lane n).lfr = (s.lane n).lfr := h .lfr e

theorem Frame.pmon {F : Nat} {s t : State} (h : Frame F s t) (e : F.testBit 10 = false := by decide) :
    ∀ n, (t.lane n).pmon = (s.lane n).pmon := h .pmon e

theorem Frame.ksc {F : Nat} {s t : State} (h : Frame F s t) (e : F.testBit 11 = false := by decide) :
    ∀ n, (t.lane n).ksc = (s.lane n).ksc := h .ksc e

theorem Frame.sampRef {F : Nat} {s t : State} (h : Frame F s t) (e : F.testBit 12 = false := by decide) :
    t.sampRef = s.sampRef := h .sampRef e

theorem Frame.crs {F : Nat} {s t : State} (h : Frame F s t) (e : F.testBit 15 = false := by decide) :
    t.crs = s.crs := h .course e

theorem Frame.cli {F : Nat} {s t : State} (h : Frame F s t) (e : F.testBit 16 = false := by decide) :
    t.cli = s.cli := h .client e

theorem Frame.cold {F : Nat} {s t : State} (h : Frame F s t) (e : F.testBit 17 = false := by decide) :
    t.cold = s.cold := h .cold e

theorem Frame.bootHold {F : Nat} {s t : State} (h : Frame F s t) (e : F.testBit 18 = false := by decide) :
    t.bootHold = s.bootHold := h .bootHold e

theorem Frame.hkm {F : Nat} {s t : State} (h : Frame F s t) (e : F.testBit 19 = false := by decide) :
    t.hkm = s.hkm := h .hkm e

theorem Frame.cal {F : Nat} {s t : State} (h : Frame F s t) (e : F.testBit 20 = false := by decide) :
    t.cal = s.cal := h .cal e

theorem Frame.mem {F : Nat} {s t : State} (h : Frame F s t) (e : F.testBit 21 = false := by decide) :
    t.mem = s.mem := h .mem e

theorem Frame.cstBut {F : Nat} {s t : State} (h : Frame F s t) (e : F.testBit 22 = false := by decide) :
    { t.cst with tb3 := {} } = { s.cst with tb3 := {} } := h .cst e

theorem Frame.tb3 {F : Nat} {s t : State} (h : Frame F s t) (e : F.testBit 23 = false := by decide) :
    t.cst.tb3 = s.cst.tb3 := h .tb3 e

theorem Frame.plu {F : Nat} {s t : State} (h : Frame F s t) (e : F.testBit 24 = false := by decide) :
    t.plu = s.plu := h .plu e

theorem Frame.time {F : Nat} {s t : State} (h : Frame F s t) (e : F.testBit 25 = false := by decide) :
    t.time = s.time := h .servo e

theorem Frame.objs {F : Nat} {s t : State} (h : Frame F s t) (e : F.testBit 26 = false := by decide) :
    t.objs = s.objs := h .objs e

theorem Frame.ciph {F : Nat} {s t : State} (h : Frame F s t) (e : F.testBit 27 = false := by decide) :
    t.ciph = s.ciph := h .ciph e

theorem Frame.cop {F : Nat} {s t : State} (h : Frame F s t) (e : F.testBit 28 = false := by decide) :
    t.cop = s.cop := h .cop e

theorem Frame.sec {F : Nat} {s t : State} (h : Frame F s t) (e : F.testBit 29 = false := by decide) :
    t.sec = s.sec := h .sec e

end Sys2Proof.Machine
end

