-- ==== Sys2Proof/Laws/FrameOps.lean ====
section
/-!
SUPPORT. Which parts of the state an operation leaves as they are: registers, alarms, formats, FEC, the access gate, PLU, PMON and Levels.
-/

-- one theorem after another: all at once would not fit the memory
set_option Elab.async false
set_option linter.all false

namespace Sys2Proof.Machine

/-! ### Ops.lean -/

theorem State.set_fr {F : Nat} {r0 : State} (s : State) (f : Fld) (v : Nat) (h0 : Frame F r0 s)
    (hF : F &&& 1 = 1 := by first | decide | exact sub_of (by assumption) (by decide)) : Frame F r0 (State.set s f v) := by
  unfold State.set
  with_reducible repeat' first | assumption | exact sub_of hF (by decide) | apply State.setReg_fr

theorem State.setB_fr {F : Nat} {r0 : State} (s : State) (f : Fld) (b : Bool) (h0 : Frame F r0 s)
    (hF : F &&& 1 = 1 := by first | decide | exact sub_of (by assumption) (by decide)) : Frame F r0 (State.setB s f b) := by
  unfold State.setB
  with_reducible repeat' first | assumption | exact sub_of hF (by decide) | apply State.set_fr

theorem State.setNat_fr {F : Nat} {r0 : State} (s : State) (a v : Nat) (h0 : Frame F r0 s)
    (hF : F &&& 1 = 1 := by first | decide | exact sub_of (by assumption) (by decide)) : Frame F r0 (State.setNat s a
    v) := by
  unfold State.setNat
  with_reducible repeat' first | assumption | exact sub_of hF (by decide) | apply State.setReg_fr

theorem State.setInt_fr {F : Nat} {r0 : State} (s : State) (a : Nat) (x : Int) (h0 : Frame F r0 s)
    (hF : F &&& 1 = 1 := by first | decide | exact sub_of (by assumption) (by decide)) : Frame F r0 (State.setInt s a
    x) := by
  unfold State.setInt
  with_reducible repeat' first | assumption | exact sub_of hF (by decide) | apply State.setNat_fr

theorem State.setWide_fr {F : Nat} {r0 : State} (s : State) (a v : Nat) (h0 : Frame F r0 s)
    (hF : F &&& 1 = 1 := by first | decide | exact sub_of (by assumption) (by decide)) : Frame F r0 (State.setWide s a
    v) := by
  unfold State.setWide
  with_reducible repeat' first | assumption | exact sub_of hF (by decide) | apply State.setNat_fr

theorem State.setTime80_fr {F : Nat} {r0 : State} (s : State) (a ns : Nat) (h0 : Frame F r0 s)
    (hF : F &&& 1 = 1 := by first | decide | exact sub_of (by assumption) (by decide)) : Frame F r0 (State.setTime80 s
    a ns) := by
  unfold State.setTime80
  with_reducible repeat' first
    | assumption | exact sub_of hF (by decide) | apply State.setReg_fr | apply State.setNat_fr

theorem State.modConv_fr {F : Nat} {r0 : State} (s : State) (n : Lane) (f : ConvState → ConvState) (h0 : Frame F r0 s)
    (hF : F &&& 32 = 32 := by first | decide | exact sub_of (by assumption) (by decide)) : Frame F r0 (s.modConv n f) :=
  State.modLane_fr h0 n _

theorem State.modRxd_fr {F : Nat} {r0 : State} (s : State) (n : Lane) (f : RxdState → RxdState) (h0 : Frame F r0 s)
    (hF : F &&& 64 = 64 := by first | decide | exact sub_of (by assumption) (by decide)) : Frame F r0 (s.modRxd n f) :=
  State.modLane_fr h0 n _

theorem State.modTx_fr {F : Nat} {r0 : State} (s : State) (n : Lane) (f : TxState → TxState) (h0 : Frame F r0 s)
    (hF : F &&& 128 = 128 := by first | decide | exact sub_of (by assumption) (by decide)) : Frame F r0 (s.modTx n f) :=
  State.modLane_fr h0 n _

theorem State.modFec_fr {F : Nat} {r0 : State} (s : State) (n : Lane) (f : FecState → FecState) (h0 : Frame F r0 s)
    (hF : F &&& 256 = 256 := by first | decide | exact sub_of (by assumption) (by decide)) : Frame F r0 (s.modFec n f) :=
  State.modLane_fr h0 n _

theorem State.modLfr_fr {F : Nat} {r0 : State} (s : State) (n : Lane) (f : LfrState → LfrState) (h0 : Frame F r0 s)
    (hF : F &&& 512 = 512 := by first | decide | exact sub_of (by assumption) (by decide)) : Frame F r0 (s.modLfr n f) :=
  State.modLane_fr h0 n _

theorem State.modPmon_fr {F : Nat} {r0 : State} (s : State) (n : Lane) (f : PmonState → PmonState) (h0 : Frame F r0 s)
    (hF : F &&& 1024 = 1024 := by first | decide | exact sub_of (by assumption) (by decide)) : Frame F r0 (s.modPmon n f) :=
  State.modLane_fr h0 n _

theorem State.modKsc_fr {F : Nat} {r0 : State} (s : State) (n : Lane) (f : KscState → KscState) (h0 : Frame F r0 s)
    (hF : F &&& 2048 = 2048 := by first | decide | exact sub_of (by assumption) (by decide)) : Frame F r0 (s.modKsc n f) :=
  State.modLane_fr h0 n _

theorem State.modTb_fr {F : Nat} {r0 : State} (s : State) (x : Nat) (f : TimeBase → TimeBase) (h0 : Frame F r0 s)
    (hF : F &&& 4 = 4 := by first | decide | exact sub_of (by assumption) (by decide)) : Frame F r0 (State.modTb s x
    f) :=
  Frame.raw h0

theorem State.waitClk_fr {F : Nat} {r0 : State} (s : State) (c : Nat) (h0 : Frame F r0 s)
    (hF : F &&& 8388612 = 8388612 := by first | decide | exact sub_of (by assumption) (by decide)) : Frame F r0
    (State.waitClk s c) := by
  unfold State.waitClk
  with_reducible repeat' first | assumption | exact sub_of hF (by decide) | apply ite_fr | apply State.elapse_fr

theorem State.waitTb_fr {F : Nat} {r0 : State} (s : State) (x ns : Nat) (h0 : Frame F r0 s)
    (hF : F &&& 8388612 = 8388612 := by first | decide | exact sub_of (by assumption) (by decide)) : Frame F r0
    (State.waitTb s x ns) := by
  unfold State.waitTb
  with_reducible repeat' first | assumption | exact sub_of hF (by decide) | apply ite_fr | apply State.elapse_fr

theorem State.waitBefore_fr {F : Nat} {r0 : State} (s : State) (x ns d : Nat) (h0 : Frame F r0 s)
    (hF : F &&& 8388612 = 8388612 := by first | decide | exact sub_of (by assumption) (by decide)) : Frame F r0
    (State.waitBefore s x ns d) := by
  unfold State.waitBefore
  with_reducible repeat' first | assumption | exact sub_of hF (by decide) | apply ite_fr | apply State.elapse_fr

theorem State.emit_fr {F : Nat} {r0 : State} (s : State) (e : Emit) (h0 : Frame F r0 s)
    (hF : F &&& 16 = 16 := by first | decide | exact sub_of (by assumption) (by decide)) : Frame F r0 (State.emit s e) :=
  Frame.raw h0

theorem State.setObj_fr {F : Nat} {r0 : State} (s : State) (index sub : Nat) (bs : List Byte) (h0 : Frame F r0 s)
    (hF : F &&& 67108864 = 67108864 := by first | decide | exact sub_of (by assumption) (by decide)) : Frame F r0
    (State.setObj s index sub bs) :=
  Frame.raw h0

theorem State.bumpObj_fr {F : Nat} {r0 : State} (s : State) (index sub len k : Nat) (h0 : Frame F r0 s)
    (hF : F &&& 67108864 = 67108864 := by first | decide | exact sub_of (by assumption) (by decide)) : Frame F r0
    (State.bumpObj s index sub len k) := by
  unfold State.bumpObj
  with_reducible repeat' first | assumption | exact sub_of hF (by decide) | apply State.setObj_fr

theorem State.addNow_fr {F : Nat} {r0 : State} (s : State) (a k : Nat) (h0 : Frame F r0 s)
    (hF : F &&& 1 = 1 := by first | decide | exact sub_of (by assumption) (by decide)) : Frame F r0 (State.addNow s a
    k) := by
  unfold State.addNow
  with_reducible repeat' first | assumption | exact sub_of hF (by decide) | apply State.setWide_fr

theorem State.addCnt32_fr {F : Nat} {r0 : State} (s : State) (a k : Nat) (h0 : Frame F r0 s)
    (hF : F &&& 1 = 1 := by first | decide | exact sub_of (by assumption) (by decide)) : Frame F r0 (State.addCnt32 s
    a k) := by
  unfold State.addCnt32
  with_reducible repeat' first | assumption | exact sub_of hF (by decide) | apply State.setNat_fr

theorem State.addCnt_fr {F : Nat} {r0 : State} (s : State) (a k : Nat) (h0 : Frame F r0 s)
    (hF : F &&& 16385 = 16385 := by first | decide | exact sub_of (by assumption) (by decide)) : Frame F r0
    (State.addCnt s a k) := by
  unfold State.addCnt
  with_reducible repeat' first
    | assumption | exact Frame.refl _ | exact sub_of hF (by decide) | apply ite_fr | apply State.addNow_fr | split
    | refine Frame.raw ?_

/-! ### Flags.lean -/

theorem State.msix_fr {F : Nat} {r0 : State} (s : State) (i : Nat) (h0 : Frame F r0 s)
    (hF : F &&& 16 = 16 := by first | decide | exact sub_of (by assumption) (by decide)) : Frame F r0 (State.msix s i) := by
  unfold State.msix
  with_reducible repeat' first
    | assumption | exact Frame.refl _ | exact id_fr _ | assumption | apply ite_fr | apply itep_fr
    | apply State.emit_fr | apply foldl_fr | apply foldlp_fr | intro _
    | (extract_lets +onlyGivenNames x; first | (have hx : Frame F r0 x := ?_; clear_value x) | (have hx : Frame F r0 x.1 := ?_; clear_value x) | (have hf := fun a => x a; clear hf) | (have hf : CiphState := x; clear hf) | (have hf : SecState := x; clear hf) | clear_value x)
    | subst x | dsimp only | (apply fst_fr; assumption) | split | refine Frame.raw ?_ | exact sub_of hF (by decide)

theorem State.irq_fr {F : Nat} {r0 : State} (s before : State) (i : Nat) (h0 : Frame F r0 s)
    (hF : F &&& 16 = 16 := by first | decide | exact sub_of (by assumption) (by decide)) : Frame F r0 (State.irq s
    before i) := by
  unfold State.irq
  with_reducible repeat' first | assumption | exact sub_of hF (by decide) | apply ite_fr | apply State.msix_fr

theorem State.raise_fr {F : Nat} {r0 : State} (s : State) (f : Fld) (h0 : Frame F r0 s)
    (hF : F &&& 17 = 17 := by first | decide | exact sub_of (by assumption) (by decide)) : Frame F r0 (State.raise s
    f) := by
  unfold State.raise
  with_reducible repeat' first | assumption | exact sub_of hF (by decide) | apply State.irq_fr | apply State.set_fr

theorem State.raiseIf_fr {F : Nat} {r0 : State} (s : State) (c : Bool) (f : Fld) (h0 : Frame F r0 s)
    (hF : F &&& 17 = 17 := by first | decide | exact sub_of (by assumption) (by decide)) : Frame F r0 (State.raiseIf s
    c f) := by
  unfold State.raiseIf
  with_reducible repeat' first | assumption | exact sub_of hF (by decide) | apply ite_fr | apply State.raise_fr

theorem State.logAcc_fr {F : Nat} {r0 : State} (s : State) (c : AccCode) (addr : Nat) (write : Bool) (h0 : Frame F r0
    s) (hF : F &&& 17 = 17 := by first | decide | exact sub_of (by assumption) (by decide)) : Frame F r0 (State.logAcc
    s c addr write) := by
  unfold State.logAcc
  with_reducible repeat' first
    | assumption | exact sub_of hF (by decide) | apply State.raise_fr | apply State.setNat_fr | apply State.addNow_fr

/-! ### Formats.lean -/

theorem State.setFreeReg_fr {F : Nat} {r0 : State} (s : State) (a : Nat) (h0 : Frame F r0 s)
    (hF : F &&& 9 = 9 := by first | decide | exact sub_of (by assumption) (by decide)) : Frame F r0 (State.setFreeReg
    s a) := by
  unfold State.setFreeReg
  with_reducible repeat' first
    | assumption | exact sub_of hF (by decide) | apply State.takeFree_fr | apply State.setNat_fr

theorem State.showTxFmt_fr {F : Nat} {r0 : State} (s : State) (n : Nat) (h0 : Frame F r0 s)
    (hF : F &&& 9 = 9 := by first | decide | exact sub_of (by assumption) (by decide)) : Frame F r0 (State.showTxFmt
    s n) := by
  unfold State.showTxFmt
  with_reducible repeat' first
    | assumption | intro _ | exact Frame.refl _ | subst x
    | (extract_lets +onlyGivenNames x; first | (have hx : Frame F r0 x := ?_; clear_value x) | (have hx : Frame F r0 x.1 := ?_; clear_value x) | (have hf := fun a => x a; clear hf) | (have hf : CiphState := x; clear hf) | (have hf : SecState := x; clear hf) | (have hf : LevelSeq := x; clear hf) | (have hf : CstState := x; clear hf) | clear_value x)
    | apply ite_fr | apply State.set_fr | apply State.setB_fr | apply State.setNat_fr | apply State.setFreeReg_fr
    | dsimp only | split | exact sub_of hF (by decide)

theorem State.showRxFmt_fr {F : Nat} {r0 : State} (s : State) (n : Lane) (h0 : Frame F r0 s)
    (hF : F &&& 1 = 1 := by first | decide | exact sub_of (by assumption) (by decide)) : Frame F r0 (State.showRxFmt
    s n) := by
  unfold State.showRxFmt
  with_reducible repeat' first
    | assumption | intro _ | exact Frame.refl _ | subst x
    | (extract_lets +onlyGivenNames x; first | (have hx : Frame F r0 x := ?_; clear_value x) | (have hx : Frame F r0 x.1 := ?_; clear_value x) | (have hf := fun a => x a; clear hf) | (have hf : CiphState := x; clear hf) | (have hf : SecState := x; clear hf) | (have hf : LevelSeq := x; clear hf) | (have hf : CstState := x; clear hf) | clear_value x)
    | apply ite_fr | apply State.set_fr | apply State.setB_fr | apply State.setNat_fr | dsimp only | split
    | exact sub_of hF (by decide)

theorem State.showBridged_fr {F : Nat} {r0 : State} (s : State) (n : Lane) (h0 : Frame F r0 s)
    (hF : F &&& 1 = 1 := by first | decide | exact sub_of (by assumption) (by decide)) : Frame F r0
    (State.showBridged s n) := by
  unfold State.showBridged
  with_reducible repeat' first
    | assumption | intro _ | exact Frame.refl _ | subst x
    | (extract_lets +onlyGivenNames x; first | (have hx : Frame F r0 x := ?_; clear_value x) | (have hx : Frame F r0 x.1 := ?_; clear_value x) | (have hf := fun a => x a; clear hf) | (have hf : CiphState := x; clear hf) | (have hf : SecState := x; clear hf) | (have hf : LevelSeq := x; clear hf) | (have hf : CstState := x; clear hf) | clear_value x)
    | apply ite_fr | apply State.setB_fr | apply foldl_fr_of | dsimp only | split | exact sub_of hF (by decide)

theorem State.bridgeCheck_fr {F : Nat} {r0 : State} (s : State) (n : Lane) (h0 : Frame F r0 s)
    (hF : F &&& 145 = 145 := by first | decide | exact sub_of (by assumption) (by decide)) : Frame F r0
    (State.bridgeCheck s n) := by
  unfold State.bridgeCheck
  with_reducible repeat' first
    | assumption | intro _ | exact Frame.refl _ | subst x
    | (extract_lets +onlyGivenNames x; first | (have hx : Frame F r0 x := ?_; clear_value x) | (have hx : Frame F r0 x.1 := ?_; clear_value x) | (have hf := fun a => x a; clear hf) | (have hf : CiphState := x; clear hf) | (have hf : SecState := x; clear hf) | (have hf : LevelSeq := x; clear hf) | (have hf : CstState := x; clear hf) | clear_value x)
    | apply ite_fr | apply State.modTx_fr | apply State.raise_fr | apply State.showBridged_fr | dsimp only | split
    | exact sub_of hF (by decide)

theorem State.bridgesOf_fr {F : Nat} {r0 : State} (s : State) (n : Lane) (h0 : Frame F r0 s)
    (hF : F &&& 145 = 145 := by first | decide | exact sub_of (by assumption) (by decide)) : Frame F r0
    (State.bridgesOf s n) := by
  unfold State.bridgesOf
  with_reducible repeat' first
    | assumption | intro _ | exact Frame.refl _ | subst x
    | (extract_lets +onlyGivenNames x; first | (have hx : Frame F r0 x := ?_; clear_value x) | (have hx : Frame F r0 x.1 := ?_; clear_value x) | (have hf := fun a => x a; clear hf) | (have hf : CiphState := x; clear hf) | (have hf : SecState := x; clear hf) | (have hf : LevelSeq := x; clear hf) | (have hf : CstState := x; clear hf) | clear_value x)
    | apply ite_fr | apply State.eachLane_fr_of | apply State.bridgeCheck_fr | dsimp only | split
    | exact sub_of hF (by decide)

theorem State.rxFmtTurn_fr {F : Nat} {r0 : State} (s before : State) (n : Lane) (h0 : Frame F r0 s)
    (hF : F &&& 401 = 401 := by first | decide | exact sub_of (by assumption) (by decide)) : Frame F r0
    (State.rxFmtTurn s before n) := by
  unfold State.rxFmtTurn
  with_reducible repeat' first
    | assumption | intro _ | exact Frame.refl _ | subst x
    | (extract_lets +onlyGivenNames x; first | (have hx : Frame F r0 x := ?_; clear_value x) | (have hx : Frame F r0 x.1 := ?_; clear_value x) | (have hf := fun a => x a; clear hf) | (have hf : CiphState := x; clear hf) | (have hf : SecState := x; clear hf) | (have hf : LevelSeq := x; clear hf) | (have hf : CstState := x; clear hf) | clear_value x)
    | apply ite_fr | apply State.modFec_fr | apply State.showRxFmt_fr | apply State.bridgesOf_fr | dsimp only
    | split | exact sub_of hF (by decide)

/-! ### Fec.lean -/

theorem State.fecCount_fr {F : Nat} {r0 : State} (s : State) (n : Lane) (j k : Nat) (h0 : Frame F r0 s)
    (hF : F &&& 16385 = 16385 := by first | decide | exact sub_of (by assumption) (by decide)) : Frame F r0
    (State.fecCount s n j k) := by
  unfold State.fecCount
  with_reducible repeat' first | assumption | exact sub_of hF (by decide) | apply ite_fr | apply State.addCnt_fr

theorem State.innerDecode_fr {F : Nat} {r0 : State} (s : State) (n : Lane) (soft : List Int) (h0 : Frame F r0 s)
    (hF : F &&& 16657 = 16657 := by first | decide | exact sub_of (by assumption) (by decide)) : Frame F r0
    (State.innerDecode s n soft) := by
  unfold State.innerDecode
  with_reducible repeat' first
    | assumption | intro _ | exact Frame.refl _ | subst x
    | (extract_lets +onlyGivenNames x; first | (have hx : Frame F r0 x := ?_; clear_value x) | (have hx : Frame F r0 x.1 := ?_; clear_value x) | (have hf := fun a => x a; clear hf) | (have hf : CiphState := x; clear hf) | (have hf : SecState := x; clear hf) | (have hf : LevelSeq := x; clear hf) | (have hf : CstState := x; clear hf) | clear_value x)
    | apply ite_fr | apply State.setNat_fr | apply State.modFec_fr | apply State.raise_fr | apply State.fecCount_fr
    | dsimp only | split | exact sub_of hF (by decide)

theorem State.softNext_fr {F : Nat} {r0 : State} (s : State) (n : Lane) (soft : List Int) (h0 : Frame F r0 s)
    (hF : F &&& 64 = 64 := by first | decide | exact sub_of (by assumption) (by decide)) : Frame F r0 (State.softNext
    s n soft).1 := by
  unfold State.softNext
  with_reducible repeat' first
    | assumption | intro _ | exact Frame.refl _ | subst x
    | (extract_lets +onlyGivenNames x; first | (have hx : Frame F r0 x := ?_; clear_value x) | (have hx : Frame F r0 x.1 := ?_; clear_value x) | (have hf := fun a => x a; clear hf) | (have hf : CiphState := x; clear hf) | (have hf : SecState := x; clear hf) | (have hf : LevelSeq := x; clear hf) | (have hf : CstState := x; clear hf) | clear_value x)
    | apply ite_fr | apply itep_fr | apply State.modRxd_fr | dsimp only | (apply fst_fr; assumption) | split
    | exact sub_of hF (by decide)

theorem State.blockLeaves_fr {F : Nat} {r0 : State} (s : State) (n : Lane) (bad : Nat) (h0 : Frame F r0 s)
    (hF : F &&& 16657 = 16657 := by first | decide | exact sub_of (by assumption) (by decide)) : Frame F r0
    (State.blockLeaves s n bad) := by
  unfold State.blockLeaves
  with_reducible repeat' first
    | assumption | intro _ | exact Frame.refl _ | subst x
    | (extract_lets +onlyGivenNames x; first | (have hx : Frame F r0 x := ?_; clear_value x) | (have hx : Frame F r0 x.1 := ?_; clear_value x) | (have hf := fun a => x a; clear hf) | (have hf : CiphState := x; clear hf) | (have hf : SecState := x; clear hf) | (have hf : LevelSeq := x; clear hf) | (have hf : CstState := x; clear hf) | clear_value x)
    | apply ite_fr | apply State.modFec_fr | apply State.raise_fr | apply State.fecCount_fr | dsimp only | split
    | exact sub_of hF (by decide)

theorem State.outerExit_fr {F : Nat} {r0 : State} (s : State) (n : Lane) (h0 : Frame F r0 s)
    (hF : F &&& 16657 = 16657 := by first | decide | exact sub_of (by assumption) (by decide)) : Frame F r0
    (State.outerExit s n) := by
  unfold State.outerExit
  with_reducible repeat' first
    | assumption | intro _ | exact Frame.refl _ | subst x
    | (extract_lets +onlyGivenNames x; first | (have hx : Frame F r0 x := ?_; clear_value x) | (have hx : Frame F r0 x.1 := ?_; clear_value x) | (have hf := fun a => x a; clear hf) | (have hf : CiphState := x; clear hf) | (have hf : SecState := x; clear hf) | (have hf : LevelSeq := x; clear hf) | (have hf : CstState := x; clear hf) | clear_value x)
    | apply ite_fr | apply State.modFec_fr | apply State.blockLeaves_fr | dsimp only | split
    | exact sub_of hF (by decide)

theorem State.fecEnter_fr {F : Nat} {r0 : State} (s : State) (n : Lane) (code : Nat) (h0 : Frame F r0 s)
    (hF : F &&& 257 = 257 := by first | decide | exact sub_of (by assumption) (by decide)) : Frame F r0
    (State.fecEnter s n code) := by
  unfold State.fecEnter
  with_reducible repeat' first
    | assumption | intro _ | exact Frame.refl _ | subst x
    | (extract_lets +onlyGivenNames x; first | (have hx : Frame F r0 x := ?_; clear_value x) | (have hx : Frame F r0 x.1 := ?_; clear_value x) | (have hf := fun a => x a; clear hf) | (have hf : CiphState := x; clear hf) | (have hf : SecState := x; clear hf) | (have hf : LevelSeq := x; clear hf) | (have hf : CstState := x; clear hf) | clear_value x)
    | apply ite_fr | apply State.set_fr | apply State.modFec_fr | dsimp only | split | exact sub_of hF (by decide)

theorem State.fecInFrame_fr {F : Nat} {r0 : State} (s : State) (n : Lane) (sync : Bool) (h0 : Frame F r0 s)
    (hF : F &&& 257 = 257 := by first | decide | exact sub_of (by assumption) (by decide)) : Frame F r0
    (State.fecInFrame s n sync) := by
  unfold State.fecInFrame
  with_reducible repeat' first | assumption | exact sub_of hF (by decide) | apply ite_fr | apply State.fecEnter_fr

theorem State.showObp_fr {F : Nat} {r0 : State} (s : State) (n : Lane) (obp phase : Nat) (h0 : Frame F r0 s)
    (hF : F &&& 1 = 1 := by first | decide | exact sub_of (by assumption) (by decide)) : Frame F r0 (State.showObp s
    n obp phase) := by
  unfold State.showObp
  with_reducible repeat' first
    | assumption | exact Frame.refl _ | exact sub_of hF (by decide) | apply ite_fr | apply State.setNat_fr | split
    | refine Frame.raw ?_

theorem State.fecLf_fr {F : Nat} {r0 : State} (s : State) (n : Lane) (i obp : Nat) (h0 : Frame F r0 s)
    (hF : F &&& 16657 = 16657 := by first | decide | exact sub_of (by assumption) (by decide)) : Frame F r0
    (State.fecLf s n i obp).1 := by
  unfold State.fecLf
  with_reducible repeat' first
    | assumption | intro _ | exact Frame.refl _ | subst x
    | (extract_lets +onlyGivenNames x; first | (have hx : Frame F r0 x := ?_; clear_value x) | (have hx : Frame F r0 x.1 := ?_; clear_value x) | (have hf := fun a => x a; clear hf) | (have hf : CiphState := x; clear hf) | (have hf : SecState := x; clear hf) | (have hf : LevelSeq := x; clear hf) | (have hf : CstState := x; clear hf) | clear_value x)
    | apply ite_fr | apply itep_fr | apply State.set_fr | apply State.modFec_fr | apply State.raise_fr
    | apply State.fecCount_fr | apply State.fecEnter_fr | apply State.showObp_fr | dsimp only
    | (apply fst_fr; assumption) | split | exact sub_of hF (by decide)

/-! ### Gate.lean -/

theorem State.refuse_fr {F : Nat} {r0 : State} (s : State) (by_ : Source) (a : Nat) (acc : AccCode) (code : Code) (h0
    : Frame F r0 s) (hF : F &&& 17 = 17 := by first | decide | exact sub_of (by assumption) (by decide)) : Frame F r0
    (State.refuse s by_ a acc code) := by
  unfold State.refuse
  with_reducible repeat' first
    | assumption | exact sub_of hF (by decide) | apply ite_fr | apply State.logAcc_fr | apply State.emit_fr | split

theorem State.answer_fr {F : Nat} {r0 : State} (s : State) (by_ : Source) (code : Code) (h0 : Frame F r0 s)
    (hF : F &&& 16 = 16 := by first | decide | exact sub_of (by assumption) (by decide)) : Frame F r0 (State.answer s
    by_ code) := by
  unfold State.answer
  with_reducible repeat' first | assumption | exact sub_of hF (by decide) | apply ite_fr | apply State.emit_fr | split

theorem State.told_fr {F : Nat} {r0 : State} (s : State) (by_ : Source) (a : Nat) (c : Code) (h0 : Frame F r0 s)
    (hF : F &&& 17 = 17 := by first | decide | exact sub_of (by assumption) (by decide)) : Frame F r0 (State.told s
    by_ a c).1 := by
  unfold State.told
  with_reducible repeat' first | assumption | exact sub_of hF (by decide) | apply ite_fr | apply State.logAcc_fr | split

theorem State.byWrite_fr {F : Nat} {r0 : State} (s : State) (by_ : Source) (a : Nat) (act : State → State) (k_act : ∀
    x0, Frame F x0 (act x0)) (h0 : Frame F r0 s)
    (hF : F &&& 17 = 17 := by first | decide | exact sub_of (by assumption) (by decide)) : Frame F r0 (State.byWrite s
    by_ a act) := by
  unfold State.byWrite
  with_reducible repeat' first
    | assumption | exact sub_of hF (by decide) | exact Frame.refl _ | assumption | apply ite_fr | apply itep_fr
    | apply State.logAcc_fr | apply foldl_fr | intro _ | refine Frame.trans ?_ (k_act _)
    | (extract_lets +onlyGivenNames x; first | (have hx : Frame F r0 x := ?_; clear_value x) | (have hx : Frame F r0 x.1 := ?_; clear_value x) | (have hf := fun a => x a; clear hf) | (have hf : CiphState := x; clear hf) | (have hf : SecState := x; clear hf) | clear_value x)
    | split

theorem State.hostWrite_fr {F : Nat} {r0 : State} (s : State) (a : Nat) (act : State → State) (k_act : ∀ x0, Frame F
    x0 (act x0)) (h0 : Frame F r0 s)
    (hF : F &&& 17 = 17 := by first | decide | exact sub_of (by assumption) (by decide)) : Frame F r0 (State.hostWrite
    s a act) := by
  unfold State.hostWrite
  with_reducible repeat' first | assumption | exact sub_of hF (by decide) | apply State.byWrite_fr

/-! ### Plu.lean -/

theorem State.modPlu_fr {F : Nat} {r0 : State} (s : State) (f : PluState → PluState) (h0 : Frame F r0 s)
    (hF : F &&& 16777216 = 16777216 := by first | decide | exact sub_of (by assumption) (by decide)) : Frame F r0
    (State.modPlu s f) :=
  Frame.raw h0

theorem State.modRef_fr {F : Nat} {r0 : State} (s : State) (r : Nat) (f : RefState → RefState) (h0 : Frame F r0 s)
    (hF : F &&& 16777216 = 16777216 := by first | decide | exact sub_of (by assumption) (by decide)) : Frame F r0
    (State.modRef s r f) := by
  unfold State.modRef
  with_reducible repeat' first | assumption | exact sub_of hF (by decide) | apply State.modPlu_fr

theorem State.showOutputs_fr {F : Nat} {r0 : State} (s : State) (h0 : Frame F r0 s)
    (hF : F &&& 1 = 1 := by first | decide | exact sub_of (by assumption) (by decide)) : Frame F r0 (State.showOutputs
    s) := by
  unfold State.showOutputs
  with_reducible repeat' first
    | assumption | exact sub_of hF (by decide) | exact Frame.refl _ | assumption | apply ite_fr | apply itep_fr
    | apply State.setB_fr | apply foldl_fr | intro _
    | (extract_lets +onlyGivenNames x; first | (have hx : Frame F r0 x := ?_; clear_value x) | (have hx : Frame F r0 x.1 := ?_; clear_value x) | (have hf := fun a => x a; clear hf) | (have hf : CiphState := x; clear hf) | (have hf : SecState := x; clear hf) | clear_value x)
    | split

theorem State.settleStep_fr {F : Nat} {r0 : State} (s : State) (h0 : Frame F r0 s)
    (hF : F &&& 16777233 = 16777233 := by first | decide | exact sub_of (by assumption) (by decide)) : Frame F r0
    (State.settleStep s) := by
  unfold State.settleStep
  with_reducible repeat' first
    | assumption | intro _ | exact Frame.refl _ | subst x
    | (extract_lets +onlyGivenNames x; first | (have hx : Frame F r0 x := ?_; clear_value x) | (have hx : Frame F r0 x.1 := ?_; clear_value x) | (have hf := fun a => x a; clear hf) | (have hf : CiphState := x; clear hf) | (have hf : SecState := x; clear hf) | (have hf : LevelSeq := x; clear hf) | (have hf : CstState := x; clear hf) | clear_value x)
    | apply ite_fr | apply State.setInt_fr | apply State.raiseIf_fr | apply State.modPlu_fr | dsimp only | split
    | exact sub_of hF (by decide)

theorem State.showFreq_fr {F : Nat} {r0 : State} (s : State) (h0 : Frame F r0 s)
    (hF : F &&& 1 = 1 := by first | decide | exact sub_of (by assumption) (by decide)) : Frame F r0 (State.showFreq
    s) := by
  unfold State.showFreq
  with_reducible repeat' first
    | assumption | exact Frame.refl _ | exact sub_of hF (by decide) | apply ite_fr | apply State.setInt_fr | split
    | refine Frame.raw ?_

theorem State.aim_fr {F : Nat} {r0 : State} (s : State) (f : Int) (h0 : Frame F r0 s)
    (hF : F &&& 16777216 = 16777216 := by first | decide | exact sub_of (by assumption) (by decide)) : Frame F r0
    (State.aim s f) := by
  unfold State.aim
  with_reducible repeat' first
    | assumption | intro _ | exact Frame.refl _ | subst x
    | (extract_lets +onlyGivenNames x; first | (have hx : Frame F r0 x := ?_; clear_value x) | (have hx : Frame F r0 x.1 := ?_; clear_value x) | (have hf := fun a => x a; clear hf) | (have hf : CiphState := x; clear hf) | (have hf : SecState := x; clear hf) | (have hf : LevelSeq := x; clear hf) | (have hf : CstState := x; clear hf) | clear_value x)
    | apply ite_fr | apply State.modPlu_fr | dsimp only | split | exact sub_of hF (by decide)

theorem State.pluRefresh_fr {F : Nat} {r0 : State} (s : State) (h0 : Frame F r0 s)
    (hF : F &&& 16777233 = 16777233 := by first | decide | exact sub_of (by assumption) (by decide)) : Frame F r0
    (State.pluRefresh s) := by
  unfold State.pluRefresh
  with_reducible repeat' first
    | assumption | intro _ | exact Frame.refl _ | subst x
    | (extract_lets +onlyGivenNames x; first | (have hx : Frame F r0 x := ?_; clear_value x) | (have hx : Frame F r0 x.1 := ?_; clear_value x) | (have hf := fun a => x a; clear hf) | (have hf : CiphState := x; clear hf) | (have hf : SecState := x; clear hf) | (have hf : LevelSeq := x; clear hf) | (have hf : CstState := x; clear hf) | clear_value x)
    | apply ite_fr | apply State.set_fr | apply State.setNat_fr | apply State.settleStep_fr
    | apply State.showFreq_fr | apply foldl_fr_of | dsimp only | split | exact sub_of hF (by decide)

theorem State.judgeRef_fr {F : Nat} {r0 : State} (s : State) (r : Nat) (h0 : Frame F r0 s)
    (hF : F &&& 16777217 = 16777217 := by first | decide | exact sub_of (by assumption) (by decide)) : Frame F r0
    (State.judgeRef s r) := by
  unfold State.judgeRef
  with_reducible repeat' first
    | assumption | intro _ | exact Frame.refl _ | subst x
    | (extract_lets +onlyGivenNames x; first | (have hx : Frame F r0 x := ?_; clear_value x) | (have hx : Frame F r0 x.1 := ?_; clear_value x) | (have hf := fun a => x a; clear hf) | (have hf : CiphState := x; clear hf) | (have hf : SecState := x; clear hf) | (have hf : LevelSeq := x; clear hf) | (have hf : CstState := x; clear hf) | clear_value x)
    | apply ite_fr | apply State.setB_fr | apply State.modRef_fr | dsimp only | split | exact sub_of hF (by decide)

theorem State.checkDisagree_fr {F : Nat} {r0 : State} (s : State) (h0 : Frame F r0 s)
    (hF : F &&& 16777233 = 16777233 := by first | decide | exact sub_of (by assumption) (by decide)) : Frame F r0
    (State.checkDisagree s) := by
  unfold State.checkDisagree
  with_reducible repeat' first
    | assumption | intro _ | exact Frame.refl _ | subst x
    | (extract_lets +onlyGivenNames x; first | (have hx : Frame F r0 x := ?_; clear_value x) | (have hx : Frame F r0 x.1 := ?_; clear_value x) | (have hf := fun a => x a; clear hf) | (have hf : CiphState := x; clear hf) | (have hf : SecState := x; clear hf) | (have hf : LevelSeq := x; clear hf) | (have hf : CstState := x; clear hf) | clear_value x)
    | apply ite_fr | apply State.setB_fr | apply State.raiseIf_fr | apply State.modRef_fr | apply State.judgeRef_fr
    | apply foldl_fr_of | dsimp only | split | exact sub_of hF (by decide)

theorem State.showSel_fr {F : Nat} {r0 : State} (s : State) (e : Option Nat) (h0 : Frame F r0 s)
    (hF : F &&& 16777217 = 16777217 := by first | decide | exact sub_of (by assumption) (by decide)) : Frame F r0 (State.showSel s
    e) := by
  unfold State.showSel
  with_reducible repeat' first
    | assumption | exact sub_of hF (by decide) | apply ite_fr | apply State.setB_fr | apply State.set_fr
    | apply State.modPlu_fr | split

theorem State.acquire_fr {F : Nat} {r0 : State} (s : State) (h0 : Frame F r0 s)
    (hF : F &&& 16777233 = 16777233 := by first | decide | exact sub_of (by assumption) (by decide)) : Frame F r0
    (State.acquire s) := by
  unfold State.acquire
  with_reducible repeat' first
    | assumption | intro _ | exact Frame.refl _ | subst x
    | (extract_lets +onlyGivenNames x; first | (have hx : Frame F r0 x := ?_; clear_value x) | (have hx : Frame F r0 x.1 := ?_; clear_value x) | (have hf := fun a => x a; clear hf) | (have hf : CiphState := x; clear hf) | (have hf : SecState := x; clear hf) | (have hf : LevelSeq := x; clear hf) | (have hf : CstState := x; clear hf) | clear_value x)
    | apply ite_fr | apply State.set_fr | apply State.setB_fr | apply State.setNat_fr | apply State.modPlu_fr
    | apply State.showOutputs_fr | apply State.settleStep_fr | dsimp only | split | exact sub_of hF (by decide)

theorem State.switchTo_fr {F : Nat} {r0 : State} (s : State) (e : Nat) (h0 : Frame F r0 s)
    (hF : F &&& 16793617 = 16793617 := by first | decide | exact sub_of (by assumption) (by decide)) : Frame F r0
    (State.switchTo s e) := by
  unfold State.switchTo
  with_reducible repeat' first
    | assumption | exact sub_of hF (by decide) | apply State.raise_fr | apply State.acquire_fr | apply State.addCnt_fr
    | apply State.showSel_fr

theorem State.enterHoldover_fr {F : Nat} {r0 : State} (s : State) (freq : Int) (h0 : Frame F r0 s)
    (hF : F &&& 16793617 = 16793617 := by first | decide | exact sub_of (by assumption) (by decide)) : Frame F r0
    (State.enterHoldover s freq) := by
  unfold State.enterHoldover
  with_reducible repeat' first
    | assumption | intro _ | exact Frame.refl _ | subst x
    | (extract_lets +onlyGivenNames x; first | (have hx : Frame F r0 x := ?_; clear_value x) | (have hx : Frame F r0 x.1 := ?_; clear_value x) | (have hf := fun a => x a; clear hf) | (have hf : CiphState := x; clear hf) | (have hf : SecState := x; clear hf) | (have hf : LevelSeq := x; clear hf) | (have hf : CstState := x; clear hf) | clear_value x)
    | apply ite_fr | apply State.set_fr | apply State.setB_fr | apply State.setInt_fr | apply State.addCnt_fr
    | apply State.raise_fr | apply State.modPlu_fr | apply State.showOutputs_fr | apply State.settleStep_fr
    | apply State.showFreq_fr | apply State.aim_fr | dsimp only | split | exact sub_of hF (by decide)

theorem State.enterFreerun_fr {F : Nat} {r0 : State} (s : State) (h0 : Frame F r0 s)
    (hF : F &&& 16777233 = 16777233 := by first | decide | exact sub_of (by assumption) (by decide)) : Frame F r0
    (State.enterFreerun s) := by
  unfold State.enterFreerun
  with_reducible repeat' first
    | assumption | intro _ | exact Frame.refl _ | subst x
    | (extract_lets +onlyGivenNames x; first | (have hx : Frame F r0 x := ?_; clear_value x) | (have hx : Frame F r0 x.1 := ?_; clear_value x) | (have hf := fun a => x a; clear hf) | (have hf : CiphState := x; clear hf) | (have hf : SecState := x; clear hf) | (have hf : LevelSeq := x; clear hf) | (have hf : CstState := x; clear hf) | clear_value x)
    | apply ite_fr | apply State.set_fr | apply State.setB_fr | apply State.modPlu_fr | apply State.showOutputs_fr
    | apply State.settleStep_fr | apply State.showFreq_fr | apply State.aim_fr | dsimp only | split
    | exact sub_of hF (by decide)

theorem State.enterLost_fr {F : Nat} {r0 : State} (s : State) (h0 : Frame F r0 s)
    (hF : F &&& 16777233 = 16777233 := by first | decide | exact sub_of (by assumption) (by decide)) : Frame F r0
    (State.enterLost s) := by
  unfold State.enterLost
  with_reducible repeat' first
    | assumption | intro _ | exact Frame.refl _ | subst x
    | (extract_lets +onlyGivenNames x; first | (have hx : Frame F r0 x := ?_; clear_value x) | (have hx : Frame F r0 x.1 := ?_; clear_value x) | (have hf := fun a => x a; clear hf) | (have hf : CiphState := x; clear hf) | (have hf : SecState := x; clear hf) | (have hf : LevelSeq := x; clear hf) | (have hf : CstState := x; clear hf) | clear_value x)
    | apply ite_fr | apply State.set_fr | apply State.setB_fr | apply State.raise_fr | apply State.modPlu_fr
    | apply State.showOutputs_fr | apply State.settleStep_fr | apply State.showFreq_fr | apply State.aim_fr
    | dsimp only | split | exact sub_of hF (by decide)

theorem State.holdOrFree_fr {F : Nat} {r0 : State} (s : State) (h0 : Frame F r0 s)
    (hF : F &&& 16793617 = 16793617 := by first | decide | exact sub_of (by assumption) (by decide)) : Frame F r0
    (State.holdOrFree s) := by
  unfold State.holdOrFree
  with_reducible repeat' first
    | assumption | exact sub_of hF (by decide) | apply ite_fr | apply State.enterHoldover_fr
    | apply State.enterFreerun_fr

theorem State.select_fr {F : Nat} {r0 : State} (s : State) (h0 : Frame F r0 s)
    (hF : F &&& 16793617 = 16793617 := by first | decide | exact sub_of (by assumption) (by decide)) : Frame F r0
    (State.select s) := by
  unfold State.select
  with_reducible repeat' first
    | assumption | exact sub_of hF (by decide) | exact Frame.refl _ | assumption | apply ite_fr | apply itep_fr
    | apply State.switchTo_fr | apply State.raiseIf_fr | apply State.showSel_fr | apply State.holdOrFree_fr
    | apply foldl_fr | intro _
    | (extract_lets +onlyGivenNames x; first | (have hx : Frame F r0 x := ?_; clear_value x) | (have hx : Frame F r0 x.1 := ?_; clear_value x) | (have hf := fun a => x a; clear hf) | (have hf : CiphState := x; clear hf) | (have hf : SecState := x; clear hf) | clear_value x)
    | split

theorem State.reselect_fr {F : Nat} {r0 : State} (s : State) (h0 : Frame F r0 s)
    (hF : F &&& 16793617 = 16793617 := by first | decide | exact sub_of (by assumption) (by decide)) : Frame F r0
    (State.reselect s) := by
  unfold State.reselect
  with_reducible repeat' first
    | assumption | exact Frame.refl _ | exact sub_of hF (by decide) | apply ite_fr | apply State.checkDisagree_fr
    | apply State.select_fr | split | refine Frame.raw ?_

theorem State.refUpdate_fr {F : Nat} {r0 : State} (s : State) (r : Nat) (h0 : Frame F r0 s)
    (hF : F &&& 16777217 = 16777217 := by first | decide | exact sub_of (by assumption) (by decide)) : Frame F r0
    (State.refUpdate s r) := by
  unfold State.refUpdate
  with_reducible repeat' first
    | assumption | intro _ | exact Frame.refl _ | subst x
    | (extract_lets +onlyGivenNames x; first | (have hx : Frame F r0 x := ?_; clear_value x) | (have hx : Frame F r0 x.1 := ?_; clear_value x) | (have hf := fun a => x a; clear hf) | (have hf : CiphState := x; clear hf) | (have hf : SecState := x; clear hf) | (have hf : LevelSeq := x; clear hf) | (have hf : CstState := x; clear hf) | clear_value x)
    | apply ite_fr | apply State.setB_fr | apply State.modRef_fr | dsimp only | split | exact sub_of hF (by decide)

theorem State.refChanged_fr {F : Nat} {r0 : State} (s : State) (r : Nat) (h0 : Frame F r0 s)
    (hF : F &&& 16793617 = 16793617 := by first | decide | exact sub_of (by assumption) (by decide)) : Frame F r0
    (State.refChanged s r) := by
  unfold State.refChanged
  with_reducible repeat' first
    | assumption | exact Frame.refl _ | exact sub_of hF (by decide) | apply ite_fr | apply State.reselect_fr
    | apply State.refUpdate_fr | split | refine Frame.raw ?_

theorem State.pluTrack_fr {F : Nat} {r0 : State} (s : State) (h0 : Frame F r0 s)
    (hF : F &&& 16777217 = 16777217 := by first | decide | exact sub_of (by assumption) (by decide)) : Frame F r0
    (State.pluTrack s) := by
  unfold State.pluTrack
  with_reducible repeat' first
    | assumption | intro _ | exact Frame.refl _ | subst x
    | (extract_lets +onlyGivenNames x; first | (have hx : Frame F r0 x := ?_; clear_value x) | (have hx : Frame F r0 x.1 := ?_; clear_value x) | (have hf := fun a => x a; clear hf) | (have hf : CiphState := x; clear hf) | (have hf : SecState := x; clear hf) | (have hf : LevelSeq := x; clear hf) | (have hf : CstState := x; clear hf) | clear_value x)
    | apply ite_fr | apply State.showFreq_fr | apply State.aim_fr | dsimp only | split | exact sub_of hF (by decide)

theorem State.freqJudge_fr {F : Nat} {r0 : State} (s : State) (r due : Nat) (freq : Int) (h0 : Frame F r0 s)
    (hF : F &&& 16793617 = 16793617 := by first | decide | exact sub_of (by assumption) (by decide)) : Frame F r0
    (State.freqJudge s r due freq) := by
  unfold State.freqJudge
  with_reducible repeat' first
    | assumption | intro _ | exact Frame.refl _ | subst x
    | (extract_lets +onlyGivenNames x; first | (have hx : Frame F r0 x := ?_; clear_value x) | (have hx : Frame F r0 x.1 := ?_; clear_value x) | (have hf := fun a => x a; clear hf) | (have hf : CiphState := x; clear hf) | (have hf : SecState := x; clear hf) | (have hf : LevelSeq := x; clear hf) | (have hf : CstState := x; clear hf) | clear_value x)
    | apply ite_fr | apply State.setB_fr | apply State.setInt_fr | apply State.settleStep_fr
    | apply State.refChanged_fr | apply State.pluTrack_fr | dsimp only | split | exact sub_of hF (by decide)

theorem State.oscinFails_fr {F : Nat} {r0 : State} (s : State) (h0 : Frame F r0 s)
    (hF : F &&& 16777233 = 16777233 := by first | decide | exact sub_of (by assumption) (by decide)) : Frame F r0
    (State.oscinFails s) := by
  unfold State.oscinFails
  with_reducible repeat' first
    | assumption | exact sub_of hF (by decide) | exact Frame.refl _ | assumption | apply ite_fr | apply itep_fr
    | apply State.modPlu_fr | apply State.raise_fr | apply State.setB_fr | apply State.judgeRef_fr
    | apply State.raiseIf_fr | apply State.enterLost_fr | apply State.showSel_fr | apply foldl_fr | intro _
    | (extract_lets +onlyGivenNames x; first | (have hx : Frame F r0 x := ?_; clear_value x) | (have hx : Frame F r0 x.1 := ?_; clear_value x) | (have hf := fun a => x a; clear hf) | (have hf : CiphState := x; clear hf) | (have hf : SecState := x; clear hf) | clear_value x)
    | split

theorem State.oscinReturns_fr {F : Nat} {r0 : State} (s : State) (h0 : Frame F r0 s)
    (hF : F &&& 16777217 = 16777217 := by first | decide | exact sub_of (by assumption) (by decide)) : Frame F r0
    (State.oscinReturns s) := by
  unfold State.oscinReturns
  with_reducible repeat' first
    | assumption | exact sub_of hF (by decide) | exact Frame.refl _ | assumption | apply ite_fr | apply itep_fr
    | apply State.modPlu_fr | apply State.judgeRef_fr | apply State.setB_fr | apply foldl_fr | intro _
    | (extract_lets +onlyGivenNames x; first | (have hx : Frame F r0 x := ?_; clear_value x) | (have hx : Frame F r0 x.1 := ?_; clear_value x) | (have hf := fun a => x a; clear hf) | (have hf : CiphState := x; clear hf) | (have hf : SecState := x; clear hf) | clear_value x)
    | split

theorem State.clearHist_fr {F : Nat} {r0 : State} (s : State) (h0 : Frame F r0 s)
    (hF : F &&& 16777217 = 16777217 := by first | decide | exact sub_of (by assumption) (by decide)) : Frame F r0
    (State.clearHist s) := by
  unfold State.clearHist
  with_reducible repeat' first | assumption | exact sub_of hF (by decide) | apply State.setB_fr | apply State.modPlu_fr

theorem State.writePluEn_fr {F : Nat} {r0 : State} (s : State) (v : Bool) (h0 : Frame F r0 s)
    (hF : F &&& 16793617 = 16793617 := by first | decide | exact sub_of (by assumption) (by decide)) : Frame F r0
    (State.writePluEn s v) := by
  unfold State.writePluEn
  with_reducible repeat' first
    | assumption | exact sub_of hF (by decide) | apply ite_fr | apply State.setB_fr | apply State.select_fr
    | apply State.showSel_fr | apply State.clearHist_fr | apply State.enterFreerun_fr

theorem State.writeForceHold_fr {F : Nat} {r0 : State} (s : State) (v : Bool) (h0 : Frame F r0 s)
    (hF : F &&& 16793617 = 16793617 := by first | decide | exact sub_of (by assumption) (by decide)) : Frame F r0
    (State.writeForceHold s v) := by
  unfold State.writeForceHold
  with_reducible repeat' first | assumption | exact sub_of hF (by decide) | apply State.setB_fr | apply State.select_fr

theorem State.writePluCtrl_fr {F : Nat} {r0 : State} (s : State) (en force : Option Bool) (clr : Bool) (h0 : Frame F
    r0 s)
    (hF : F &&& 16793617 = 16793617 := by first | decide | exact sub_of (by assumption) (by decide)) : Frame F r0
    (State.writePluCtrl s en force clr) := by
  unfold State.writePluCtrl
  with_reducible repeat' first
    | assumption | intro _ | exact Frame.refl _ | subst x
    | (extract_lets +onlyGivenNames x; first | (have hx : Frame F r0 x := ?_; clear_value x) | (have hx : Frame F r0 x.1 := ?_; clear_value x) | (have hf := fun a => x a; clear hf) | (have hf : CiphState := x; clear hf) | (have hf : SecState := x; clear hf) | (have hf : LevelSeq := x; clear hf) | (have hf : CstState := x; clear hf) | clear_value x)
    | apply ite_fr | apply State.setB_fr | apply State.clearHist_fr | apply State.writePluEn_fr
    | apply State.writeForceHold_fr | dsimp only | split | exact sub_of hF (by decide)

theorem State.addPhaseStep_fr {F : Nat} {r0 : State} (s : State) (v : Word) (h0 : Frame F r0 s)
    (hF : F &&& 16777233 = 16777233 := by first | decide | exact sub_of (by assumption) (by decide)) : Frame F r0
    (State.addPhaseStep s v) := by
  unfold State.addPhaseStep
  with_reducible repeat' first
    | assumption | intro _ | exact Frame.refl _ | subst x
    | (extract_lets +onlyGivenNames x; first | (have hx : Frame F r0 x := ?_; clear_value x) | (have hx : Frame F r0 x.1 := ?_; clear_value x) | (have hf := fun a => x a; clear hf) | (have hf : CiphState := x; clear hf) | (have hf : SecState := x; clear hf) | (have hf : LevelSeq := x; clear hf) | (have hf : CstState := x; clear hf) | clear_value x)
    | apply ite_fr | apply State.setInt_fr | apply State.raiseIf_fr | apply State.modPlu_fr
    | apply State.settleStep_fr | dsimp only | split | exact sub_of hF (by decide)

theorem State.writeClkout_fr {F : Nat} {r0 : State} (s : State) (k : Nat) (v : Word) (h0 : Frame F r0 s)
    (hF : F &&& 17 = 17 := by first | decide | exact sub_of (by assumption) (by decide)) : Frame F r0
    (State.writeClkout s k v).1 := by
  unfold State.writeClkout
  with_reducible repeat' first
    | assumption | exact sub_of hF (by decide) | apply ite_fr | apply itep_fr | apply State.raise_fr
    | apply State.showOutputs_fr | apply State.set_fr | exact Frame.refl _

theorem State.pluResetEnter_fr {F : Nat} {r0 : State} (s : State) (h0 : Frame F r0 s)
    (hF : F &&& 16777219 = 16777219 := by first | decide | exact sub_of (by assumption) (by decide)) : Frame F r0
    (State.pluResetEnter s) := by
  unfold State.pluResetEnter
  with_reducible repeat' first
    | assumption | intro _ | exact Frame.refl _ | subst x
    | (extract_lets +onlyGivenNames x; first | (have hx : Frame F r0 x := ?_; clear_value x) | (have hx : Frame F r0 x.1 := ?_; clear_value x) | (have hf := fun a => x a; clear hf) | (have hf : CiphState := x; clear hf) | (have hf : SecState := x; clear hf) | (have hf : LevelSeq := x; clear hf) | (have hf : CstState := x; clear hf) | clear_value x)
    | apply ite_fr | apply State.setB_fr | apply State.resetRange_fr | dsimp only | split | refine Frame.raw ?_
    | exact sub_of hF (by decide)

theorem State.pluResetLeave_fr {F : Nat} {r0 : State} (s : State) (h0 : Frame F r0 s)
    (hF : F &&& 16793617 = 16793617 := by first | decide | exact sub_of (by assumption) (by decide)) : Frame F r0
    (State.pluResetLeave s) := by
  unfold State.pluResetLeave
  with_reducible repeat' first
    | assumption | intro _ | exact Frame.refl _ | subst x
    | (extract_lets +onlyGivenNames x; first | (have hx : Frame F r0 x := ?_; clear_value x) | (have hx : Frame F r0 x.1 := ?_; clear_value x) | (have hf := fun a => x a; clear hf) | (have hf : CiphState := x; clear hf) | (have hf : SecState := x; clear hf) | (have hf : LevelSeq := x; clear hf) | (have hf : CstState := x; clear hf) | clear_value x)
    | apply ite_fr | apply State.setB_fr | apply State.modPlu_fr | apply State.showFreq_fr
    | apply State.enterHoldover_fr | apply State.enterFreerun_fr | apply State.enterLost_fr
    | apply State.refUpdate_fr | apply foldl_fr_of | dsimp only | split | exact sub_of hF (by decide)

/-! ### Pmon.lean -/

theorem State.touch_fr {F : Nat} {r0 : State} (s : State) (n : Lane) (h0 : Frame F r0 s)
    (hF : F &&& 1025 = 1025 := by first | decide | exact sub_of (by assumption) (by decide)) : Frame F r0
    (State.touch s n) := by
  unfold State.touch
  with_reducible repeat' first
    | assumption | intro _ | exact Frame.refl _ | subst x
    | (extract_lets +onlyGivenNames x; first | (have hx : Frame F r0 x := ?_; clear_value x) | (have hx : Frame F r0 x.1 := ?_; clear_value x) | (have hf := fun a => x a; clear hf) | (have hf : CiphState := x; clear hf) | (have hf : SecState := x; clear hf) | (have hf : LevelSeq := x; clear hf) | (have hf : CstState := x; clear hf) | clear_value x)
    | apply ite_fr | apply State.setB_fr | apply State.modPmon_fr | dsimp only | split | exact sub_of hF (by decide)

theorem State.sectionBlock_fr {F : Nat} {r0 : State} (s : State) (n : Lane) (err : Bool) (h0 : Frame F r0 s)
    (hF : F &&& 1025 = 1025 := by first | decide | exact sub_of (by assumption) (by decide)) : Frame F r0
    (State.sectionBlock s n err) := by
  unfold State.sectionBlock
  with_reducible repeat' first
    | assumption | intro _ | exact Frame.refl _ | subst x
    | (extract_lets +onlyGivenNames x; first | (have hx : Frame F r0 x := ?_; clear_value x) | (have hx : Frame F r0 x.1 := ?_; clear_value x) | (have hf := fun a => x a; clear hf) | (have hf : CiphState := x; clear hf) | (have hf : SecState := x; clear hf) | (have hf : LevelSeq := x; clear hf) | (have hf : CstState := x; clear hf) | clear_value x)
    | apply ite_fr | apply State.modPmon_fr | apply State.touch_fr | dsimp only | split
    | exact sub_of hF (by decide)

theorem State.sectionFar_fr {F : Nat} {r0 : State} (s : State) (n : Lane) (h0 : Frame F r0 s)
    (hF : F &&& 1025 = 1025 := by first | decide | exact sub_of (by assumption) (by decide)) : Frame F r0
    (State.sectionFar s n) := by
  unfold State.sectionFar
  with_reducible repeat' first
    | assumption | exact sub_of hF (by decide) | apply State.modPmon_fr | apply State.touch_fr

theorem State.pathBlock_fr {F : Nat} {r0 : State} (s : State) (n : Lane) (h : Nat) (err fe : Bool) (h0 : Frame F r0 s)
    (hF : F &&& 1025 = 1025 := by first | decide | exact sub_of (by assumption) (by decide)) : Frame F r0
    (State.pathBlock s n h err fe) := by
  unfold State.pathBlock
  with_reducible repeat' first
    | assumption | intro _ | exact Frame.refl _ | subst x
    | (extract_lets +onlyGivenNames x; first | (have hx : Frame F r0 x := ?_; clear_value x) | (have hx : Frame F r0 x.1 := ?_; clear_value x) | (have hf := fun a => x a; clear hf) | (have hf : CiphState := x; clear hf) | (have hf : SecState := x; clear hf) | (have hf : LevelSeq := x; clear hf) | (have hf : CstState := x; clear hf) | clear_value x)
    | apply ite_fr | apply State.modPmon_fr | apply State.touch_fr | dsimp only | split
    | exact sub_of hF (by decide)

theorem State.tribBlock_fr {F : Nat} {r0 : State} (s : State) (n : Lane) (j : Nat) (err fe : Bool) (h0 : Frame F r0 s)
    (hF : F &&& 1025 = 1025 := by first | decide | exact sub_of (by assumption) (by decide)) : Frame F r0
    (State.tribBlock s n j err fe) := by
  unfold State.tribBlock
  with_reducible repeat' first
    | assumption | intro _ | exact Frame.refl _ | subst x
    | (extract_lets +onlyGivenNames x; first | (have hx : Frame F r0 x := ?_; clear_value x) | (have hx : Frame F r0 x.1 := ?_; clear_value x) | (have hf := fun a => x a; clear hf) | (have hf : CiphState := x; clear hf) | (have hf : SecState := x; clear hf) | (have hf : LevelSeq := x; clear hf) | (have hf : CstState := x; clear hf) | clear_value x)
    | apply ite_fr | apply State.modPmon_fr | apply State.touch_fr | dsimp only | split
    | exact sub_of hF (by decide)

theorem State.pmonLog_fr {F : Nat} {r0 : State} (s : State) (n : Lane) (sec ty ix id kind clear value : Nat) (h0 :
    Frame F r0 s) (hF : F &&& 17 = 17 := by first | decide | exact sub_of (by assumption) (by decide)) : Frame F r0
    (State.pmonLog s n sec ty ix id kind clear value) := by
  unfold State.pmonLog
  with_reducible repeat' first
    | assumption | exact sub_of hF (by decide) | apply State.setNat_fr | apply State.raise_fr | apply State.set_fr

theorem State.alerts_fr {F : Nat} {r0 : State} (s : State) (n : Lane) (sec key : Nat) (h0 : Frame F r0 s)
    (hF : F &&& 1041 = 1041 := by first | decide | exact sub_of (by assumption) (by decide)) : Frame F r0
    (State.alerts s n sec key) := by
  unfold State.alerts
  with_reducible repeat' first
    | assumption | exact sub_of hF (by decide) | exact Frame.refl _ | assumption | apply ite_fr | apply itep_fr
    | apply State.pmonLog_fr | apply State.modPmon_fr | apply foldl_fr | intro _
    | (extract_lets +onlyGivenNames x; first | (have hx : Frame F r0 x := ?_; clear_value x) | (have hx : Frame F r0 x.1 := ?_; clear_value x) | (have hf := fun a => x a; clear hf) | (have hf : CiphState := x; clear hf) | (have hf : SecState := x; clear hf) | clear_value x)
    | split

theorem State.evalEntity_fr {F : Nat} {r0 : State} (s : State) (n : Lane) (g : SecGather) (key : Nat) (a : SecAcc)
    (h0 : Frame F r0 s)
    (hF : F &&& 1041 = 1041 := by first | decide | exact sub_of (by assumption) (by decide)) : Frame F r0
    (State.evalEntity s n g key a) := by
  unfold State.evalEntity
  with_reducible repeat' first
    | assumption | intro _ | exact Frame.refl _ | subst x
    | (extract_lets +onlyGivenNames x; first | (have hx : Frame F r0 x := ?_; clear_value x) | (have hx : Frame F r0 x.1 := ?_; clear_value x) | (have hf := fun a => x a; clear hf) | (have hf : CiphState := x; clear hf) | (have hf : SecState := x; clear hf) | (have hf : LevelSeq := x; clear hf) | (have hf : CstState := x; clear hf) | clear_value x)
    | apply ite_fr | apply State.setReg_fr | apply State.setB_fr | apply State.modPmon_fr | apply State.raiseIf_fr
    | apply State.alerts_fr | dsimp only | split | exact sub_of hF (by decide)

theorem State.evalSecond_fr {F : Nat} {r0 : State} (s : State) (n : Lane) (g : SecGather) (h0 : Frame F r0 s)
    (hF : F &&& 1041 = 1041 := by first | decide | exact sub_of (by assumption) (by decide)) : Frame F r0
    (State.evalSecond s n g) := by
  unfold State.evalSecond
  with_reducible repeat' first
    | assumption | intro _ | exact Frame.refl _ | subst x
    | (extract_lets +onlyGivenNames x; first | (have hx : Frame F r0 x := ?_; clear_value x) | (have hx : Frame F r0 x.1 := ?_; clear_value x) | (have hf := fun a => x a; clear hf) | (have hf : CiphState := x; clear hf) | (have hf : SecState := x; clear hf) | (have hf : LevelSeq := x; clear hf) | (have hf : CstState := x; clear hf) | clear_value x)
    | apply ite_fr | apply State.setWide_fr | apply State.modPmon_fr | apply State.evalEntity_fr | apply foldl_fr_of
    | dsimp only | split | exact sub_of hF (by decide)

theorem State.evalLane_fr {F : Nat} {r0 : State} (s : State) (n : Lane) (h0 : Frame F r0 s)
    (hF : F &&& 1041 = 1041 := by first | decide | exact sub_of (by assumption) (by decide)) : Frame F r0
    (State.evalLane s n) := by
  unfold State.evalLane
  with_reducible repeat' first
    | assumption | intro _ | exact Frame.refl _ | subst x
    | (extract_lets +onlyGivenNames x; first | (have hx : Frame F r0 x := ?_; clear_value x) | (have hx : Frame F r0 x.1 := ?_; clear_value x) | (have hf := fun a => x a; clear hf) | (have hf : CiphState := x; clear hf) | (have hf : SecState := x; clear hf) | (have hf : LevelSeq := x; clear hf) | (have hf : CstState := x; clear hf) | clear_value x)
    | apply ite_fr | apply State.modPmon_fr | apply State.evalSecond_fr | apply foldl_fr_of | dsimp only | split
    | exact sub_of hF (by decide)

theorem State.waitEval_fr {F : Nat} {r0 : State} (s : State) (g : SecGather) (h0 : Frame F r0 s)
    (hF : F &&& 8388612 = 8388612 := by first | decide | exact sub_of (by assumption) (by decide)) : Frame F r0
    (State.waitEval s g) := by
  unfold State.waitEval
  with_reducible repeat' first
    | assumption | intro _ | exact Frame.refl _ | subst x
    | (extract_lets +onlyGivenNames x; first | (have hx : Frame F r0 x := ?_; clear_value x) | (have hx : Frame F r0 x.1 := ?_; clear_value x) | (have hf := fun a => x a; clear hf) | (have hf : CiphState := x; clear hf) | (have hf : SecState := x; clear hf) | (have hf : LevelSeq := x; clear hf) | (have hf : CstState := x; clear hf) | clear_value x)
    | apply ite_fr | apply State.waitClk_fr | apply State.waitTb_fr | dsimp only | split
    | exact sub_of hF (by decide)

theorem State.fecFlush_fr {F : Nat} {r0 : State} (s : State) (n : Lane) (h0 : Frame F r0 s)
    (hF : F &&& 1024 = 1024 := by first | decide | exact sub_of (by assumption) (by decide)) : Frame F r0
    (State.fecFlush s n) := by
  unfold State.fecFlush
  with_reducible repeat' first
    | assumption | intro _ | exact Frame.refl _ | subst x
    | (extract_lets +onlyGivenNames x; first | (have hx : Frame F r0 x := ?_; clear_value x) | (have hx : Frame F r0 x.1 := ?_; clear_value x) | (have hf := fun a => x a; clear hf) | (have hf : CiphState := x; clear hf) | (have hf : SecState := x; clear hf) | (have hf : LevelSeq := x; clear hf) | (have hf : CstState := x; clear hf) | clear_value x)
    | apply ite_fr | apply State.modPmon_fr | dsimp only | split | exact sub_of hF (by decide)

theorem State.rotateBins_fr {F : Nat} {r0 : State} (s : State) (q15 d24 : Bool) (start15 start24 : Nat) (h0 : Frame F
    r0 s)
    (hF : F &&& 1025 = 1025 := by first | decide | exact sub_of (by assumption) (by decide)) : Frame F r0
    (State.rotateBins s q15 d24 start15 start24) := by
  unfold State.rotateBins
  with_reducible repeat' first
    | assumption | intro _ | exact Frame.refl _ | subst x
    | (extract_lets +onlyGivenNames x; first | (have hx : Frame F r0 x := ?_; clear_value x) | (have hx : Frame F r0 x.1 := ?_; clear_value x) | (have hf := fun a => x a; clear hf) | (have hf : CiphState := x; clear hf) | (have hf : SecState := x; clear hf) | (have hf : LevelSeq := x; clear hf) | (have hf : CstState := x; clear hf) | clear_value x)
    | apply ite_fr | apply State.modPmon_fr | apply State.eachLane_fr_of | apply State.touch_fr | dsimp only | split
    | exact sub_of hF (by decide)

theorem State.suspectBins_fr {F : Nat} {r0 : State} (s : State) (h0 : Frame F r0 s)
    (hF : F &&& 1041 = 1041 := by first | decide | exact sub_of (by assumption) (by decide)) : Frame F r0
    (State.suspectBins s) := by
  unfold State.suspectBins
  with_reducible repeat' first
    | assumption | exact sub_of hF (by decide) | exact Frame.refl _ | assumption | apply ite_fr | apply itep_fr
    | apply State.eachLane_fr | apply State.raiseIf_fr | apply State.modPmon_fr | apply foldl_fr | intro _
    | (extract_lets +onlyGivenNames x; first | (have hx : Frame F r0 x := ?_; clear_value x) | (have hx : Frame F r0 x.1 := ?_; clear_value x) | (have hf := fun a => x a; clear hf) | (have hf : CiphState := x; clear hf) | (have hf : SecState := x; clear hf) | clear_value x)
    | split

theorem State.mapChange_fr {F : Nat} {r0 : State} (s : State) (n : Lane) (key : Nat) (h0 : Frame F r0 s)
    (hF : F &&& 1024 = 1024 := by first | decide | exact sub_of (by assumption) (by decide)) : Frame F r0
    (State.mapChange s n key) := by
  unfold State.mapChange
  with_reducible repeat' first | assumption | exact sub_of hF (by decide) | apply State.modPmon_fr

theorem State.clearBins_fr {F : Nat} {r0 : State} (s : State) (n : Lane) (h0 : Frame F r0 s)
    (hF : F &&& 1024 = 1024 := by first | decide | exact sub_of (by assumption) (by decide)) : Frame F r0
    (State.clearBins s n) := by
  unfold State.clearBins
  with_reducible repeat' first
    | assumption | intro _ | exact Frame.refl _ | subst x
    | (extract_lets +onlyGivenNames x; first | (have hx : Frame F r0 x := ?_; clear_value x) | (have hx : Frame F r0 x.1 := ?_; clear_value x) | (have hf := fun a => x a; clear hf) | (have hf : CiphState := x; clear hf) | (have hf : SecState := x; clear hf) | (have hf : LevelSeq := x; clear hf) | (have hf : CstState := x; clear hf) | clear_value x)
    | apply ite_fr | apply State.modPmon_fr | dsimp only | split | exact sub_of hF (by decide)

theorem State.gauge_fr {F : Nat} {r0 : State} (s : State) (n : Lane) (xs : List Int) (g metric : Nat) (low : Bool)
    (bit : Fld) (h0 : Frame F r0 s)
    (hF : F &&& 17 = 17 := by first | decide | exact sub_of (by assumption) (by decide)) : Frame F r0 (State.gauge s
    n xs g metric low bit) := by
  unfold State.gauge
  with_reducible repeat' first
    | assumption | intro _ | exact Frame.refl _ | subst x
    | (extract_lets +onlyGivenNames x; first | (have hx : Frame F r0 x := ?_; clear_value x) | (have hx : Frame F r0 x.1 := ?_; clear_value x) | (have hf := fun a => x a; clear hf) | (have hf : CiphState := x; clear hf) | (have hf : SecState := x; clear hf) | (have hf : LevelSeq := x; clear hf) | (have hf : CstState := x; clear hf) | clear_value x)
    | apply ite_fr | apply State.setB_fr | apply State.pmonLog_fr | dsimp only | split | exact sub_of hF (by decide)

theorem State.gaugeOff_fr {F : Nat} {r0 : State} (s : State) (n : Lane) (g : Nat) (h0 : Frame F r0 s)
    (hF : F &&& 17 = 17 := by first | decide | exact sub_of (by assumption) (by decide)) : Frame F r0 (State.gaugeOff
    s n g) := by
  unfold State.gaugeOff
  with_reducible repeat' first
    | assumption | intro _ | exact Frame.refl _ | subst x
    | (extract_lets +onlyGivenNames x; first | (have hx : Frame F r0 x := ?_; clear_value x) | (have hx : Frame F r0 x.1 := ?_; clear_value x) | (have hf := fun a => x a; clear hf) | (have hf : CiphState := x; clear hf) | (have hf : SecState := x; clear hf) | (have hf : LevelSeq := x; clear hf) | (have hf : CstState := x; clear hf) | clear_value x)
    | apply ite_fr | apply State.setB_fr | apply State.pmonLog_fr | dsimp only | split | exact sub_of hF (by decide)

/-! ### Servo.lean -/

theorem State.modServo_fr {F : Nat} {r0 : State} (s : State) (x : Nat) (f : Servo → Servo) (h0 : Frame F r0 s)
    (hF : F &&& 4 = 4 := by first | decide | exact sub_of (by assumption) (by decide)) : Frame F r0 (State.modServo s
    x f) := by
  unfold State.modServo
  with_reducible repeat' first | assumption | exact sub_of hF (by decide) | apply State.modTb_fr

theorem State.setTbState_fr {F : Nat} {r0 : State} (s : State) (x v : Nat) (h0 : Frame F r0 s)
    (hF : F &&& 21 = 21 := by first | decide | exact sub_of (by assumption) (by decide)) : Frame F r0
    (State.setTbState s x v) := by
  unfold State.setTbState
  with_reducible repeat' first
    | assumption | intro _ | exact Frame.refl _ | subst x
    | (extract_lets +onlyGivenNames x; first | (have hx : Frame F r0 x := ?_; clear_value x) | (have hx : Frame F r0 x.1 := ?_; clear_value x) | (have hf := fun a => x a; clear hf) | (have hf : CiphState := x; clear hf) | (have hf : SecState := x; clear hf) | (have hf : LevelSeq := x; clear hf) | (have hf : CstState := x; clear hf) | clear_value x)
    | apply ite_fr | apply State.set_fr | apply State.raiseIf_fr | apply State.modServo_fr | dsimp only | split
    | exact sub_of hF (by decide)

theorem State.sampled_fr {F : Nat} {r0 : State} (s : State) (x : Nat) (h0 : Frame F r0 s)
    (hF : F &&& 21 = 21 := by first | decide | exact sub_of (by assumption) (by decide)) : Frame F r0 (State.sampled s
    x) := by
  unfold State.sampled
  with_reducible repeat' first
    | assumption | exact sub_of hF (by decide) | apply ite_fr | apply State.modServo_fr | apply State.setTbState_fr

theorem State.acceptSample_fr {F : Nat} {r0 : State} (s : State) (x : Nat) (ps : Int) (h0 : Frame F r0 s)
    (hF : F &&& 21 = 21 := by first | decide | exact sub_of (by assumption) (by decide)) : Frame F r0
    (State.acceptSample s x ps) := by
  unfold State.acceptSample
  with_reducible repeat' first
    | assumption | exact sub_of hF (by decide) | apply ite_fr | apply State.sampled_fr | apply State.modServo_fr

theorem State.syncTb_fr {F : Nat} {r0 : State} (s : State) (x : Nat) (h0 : Frame F r0 s)
    (hF : F &&& 21 = 21 := by first | decide | exact sub_of (by assumption) (by decide)) : Frame F r0 (State.syncTb s
    x) := by
  unfold State.syncTb
  with_reducible repeat' first
    | assumption | exact sub_of hF (by decide) | apply ite_fr | apply State.modServo_fr | apply State.sampled_fr

theorem State.syncTbs_fr {F : Nat} {r0 : State} (s : State) (h0 : Frame F r0 s)
    (hF : F &&& 21 = 21 := by first | decide | exact sub_of (by assumption) (by decide)) : Frame F r0 (State.syncTbs
    s) := by
  unfold State.syncTbs
  with_reducible repeat' first | assumption | exact sub_of hF (by decide) | apply State.syncTb_fr

theorem State.dropSamples_fr {F : Nat} {r0 : State} (s : State) (x : Nat) (h0 : Frame F r0 s)
    (hF : F &&& 4 = 4 := by first | decide | exact sub_of (by assumption) (by decide)) : Frame F r0 (State.dropSamples
    s x) := by
  unfold State.dropSamples
  with_reducible repeat' first | assumption | exact sub_of hF (by decide) | apply State.modServo_fr

/-! ### Level.lean -/

theorem State.flushHeld_fr {F : Nat} {r0 : State} (s : State) (p : Island → Bool) (h0 : Frame F r0 s)
    (hF : F &&& 16385 = 16385 := by first | decide | exact sub_of (by assumption) (by decide)) : Frame F r0
    (State.flushHeld s p) := by
  unfold State.flushHeld
  with_reducible repeat' first
    | assumption | intro _ | exact Frame.refl _ | subst x
    | (extract_lets +onlyGivenNames x; first | (have hx : Frame F r0 x := ?_; clear_value x) | (have hx : Frame F r0 x.1 := ?_; clear_value x) | (have hf := fun a => x a; clear hf) | (have hf : CiphState := x; clear hf) | (have hf : SecState := x; clear hf) | (have hf : LevelSeq := x; clear hf) | (have hf : CstState := x; clear hf) | clear_value x)
    | apply ite_fr | apply State.addNow_fr | apply foldl_fr_of | dsimp only | split | refine Frame.raw ?_
    | exact sub_of hF (by decide)

theorem State.levelRestart_fr {F : Nat} {r0 : State} (s : State) (n : Lane) (h0 : Frame F r0 s)
    (hF : F &&& 1121 = 1121 := by first | decide | exact sub_of (by assumption) (by decide)) : Frame F r0
    (State.levelRestart s n) := by
  unfold State.levelRestart
  with_reducible repeat' first
    | assumption | intro _ | exact Frame.refl _ | subst x
    | (extract_lets +onlyGivenNames x; first | (have hx : Frame F r0 x := ?_; clear_value x) | (have hx : Frame F r0 x.1 := ?_; clear_value x) | (have hf := fun a => x a; clear hf) | (have hf : CiphState := x; clear hf) | (have hf : SecState := x; clear hf) | (have hf : LevelSeq := x; clear hf) | (have hf : CstState := x; clear hf) | clear_value x)
    | apply ite_fr | apply State.setNat_fr | apply State.modConv_fr | apply State.modRxd_fr | apply State.modPmon_fr
    | dsimp only | split | exact sub_of hF (by decide)

theorem State.levelRestarts_fr {F : Nat} {r0 : State} (s : State) (h0 : Frame F r0 s)
    (hF : F &&& 525409 = 525409 := by first | decide | exact sub_of (by assumption) (by decide)) : Frame F r0 s.levelRestarts := by
  unfold State.levelRestarts
  extract_lets t
  have h1 : Frame F r0 t := State.eachLane_fr h0 _ fun n t => State.levelRestart_fr _ _ (Frame.refl t)
  clear_value t
  exact Frame.raw h1

theorem State.upToDate_fr {F : Nat} {r0 : State} (s : State) (h0 : Frame F r0 s)
    (hF : F &&& 16793621 = 16793621 := by first | decide | exact sub_of (by assumption) (by decide)) : Frame F r0
    (State.upToDate s) := by
  unfold State.upToDate
  with_reducible repeat' first
    | assumption | intro _ | exact Frame.refl _ | subst x
    | (extract_lets +onlyGivenNames x; first | (have hx : Frame F r0 x := ?_; clear_value x) | (have hx : Frame F r0 x.1 := ?_; clear_value x) | (have hf := fun a => x a; clear hf) | (have hf : CiphState := x; clear hf) | (have hf : SecState := x; clear hf) | (have hf : LevelSeq := x; clear hf) | (have hf : CstState := x; clear hf) | clear_value x)
    | apply ite_fr | apply State.pluRefresh_fr | apply State.syncTbs_fr | apply State.flushHeld_fr | dsimp only
    | split | exact sub_of hF (by decide)

theorem State.strobeBins_fr {F : Nat} {r0 : State} (s : State) (q15 d24 : Bool) (start15 start24 : Nat) (h0 : Frame F
    r0 s)
    (hF : F &&& 9233 = 9233 := by first | decide | exact sub_of (by assumption) (by decide)) : Frame F r0
    (State.strobeBins s q15 d24 start15 start24) := by
  unfold State.strobeBins
  with_reducible repeat' first
    | assumption | intro _ | exact Frame.refl _ | subst x
    | (extract_lets +onlyGivenNames x; first | (have hx : Frame F r0 x := ?_; clear_value x) | (have hx : Frame F r0 x.1 := ?_; clear_value x) | (have hf := fun a => x a; clear hf) | (have hf : CiphState := x; clear hf) | (have hf : SecState := x; clear hf) | (have hf : LevelSeq := x; clear hf) | (have hf : CstState := x; clear hf) | clear_value x)
    | apply ite_fr | apply State.rotateBins_fr | apply State.suspectBins_fr | dsimp only | split
    | refine Frame.raw ?_ | exact sub_of hF (by decide)

theorem State.keepBefore_fr {F : Nat} {r0 : State} (s : State) (h0 : Frame F r0 s)
    (hF : F &&& 32768 = 32768 := by first | decide | exact sub_of (by assumption) (by decide)) : Frame F r0
    (State.keepBefore s) := by
  unfold State.keepBefore
  with_reducible repeat' first
    | assumption | exact Frame.refl _ | exact sub_of hF (by decide) | apply ite_fr | split | refine Frame.raw ?_

theorem State.cstStrobe_fr {F : Nat} {r0 : State} (s : State) (h0 : Frame F r0 s)
    (hF : F &&& 4194304 = 4194304 := by first | decide | exact sub_of (by assumption) (by decide)) : Frame F r0
    (State.cstStrobe s) := by
  unfold State.cstStrobe
  with_reducible repeat' first
    | assumption | intro _ | exact Frame.refl _ | subst x
    | (extract_lets +onlyGivenNames x; first | (have hx : Frame F r0 x := ?_; clear_value x) | (have hx : Frame F r0 x.1 := ?_; clear_value x) | (have hf := fun a => x a; clear hf) | (have hf : CiphState := x; clear hf) | (have hf : SecState := x; clear hf) | (have hf : LevelSeq := x; clear hf) | (have hf : CstState := x; clear hf) | clear_value x)
    | apply ite_fr | dsimp only | split | refine Frame.raw ?_ | exact sub_of hF (by decide)

theorem State.strobe_fr {F : Nat} {r0 : State} (s : State) (causes inst start15 start24 : Nat) (h0 : Frame F r0 s)
    (hF : F &&& 21521525 = 21521525 := by first | decide | exact sub_of (by assumption) (by decide)) :
    Frame F r0 (s.strobe causes inst start15 start24) := by
  unfold State.strobe
  extract_lets flags rot t v
  have h4 : Frame F r0 t := State.strobeBins_fr _ _ _ _ _ (State.upToDate_fr _ h0)
  clear_value v t
  refine ite_fr _ _ _ ?_ (State.cstStrobe_fr _ (State.levelRestarts_fr _ ?_))
  · exact Frame.raw h4
  · exact Frame.raw h4

theorem State.hostLevelNow_fr {F : Nat} {r0 : State} (s : State) (by_ : Source) (h0 : Frame F r0 s)
    (hF : F &&& 29910133 = 29910133 := by first | decide | exact sub_of (by assumption) (by decide)) : Frame F r0
    (State.hostLevelNow s by_) := by
  unfold State.hostLevelNow
  with_reducible repeat' first
    | assumption | exact sub_of hF (by decide) | apply ite_fr | apply State.refuse_fr | apply State.elapse_fr
    | apply State.answer_fr | apply State.strobe_fr

theorem State.streamsDue_fr {F : Nat} {r0 : State} (s : State) (x : Level) (h0 : Frame F r0 s)
    (hF : F &&& 335544320 = 335544320 := by first | decide | exact sub_of (by assumption) (by decide)) : Frame F r0
    (State.streamsDue s x) := by
  unfold State.streamsDue
  with_reducible repeat' first
    | assumption | exact Frame.refl _ | exact id_fr _ | assumption | apply ite_fr | apply itep_fr
    | apply State.bumpObj_fr | apply foldl_fr | apply foldlp_fr | intro _
    | (extract_lets +onlyGivenNames x; first | (have hx : Frame F r0 x := ?_; clear_value x) | (have hx : Frame F r0 x.1 := ?_; clear_value x) | (have hf := fun a => x a; clear hf) | (have hf : CiphState := x; clear hf) | (have hf : SecState := x; clear hf) | clear_value x)
    | subst x | dsimp only | (apply fst_fr; assumption) | split | refine Frame.raw ?_ | exact sub_of hF (by decide)

theorem State.scheduleSlot_fr {F : Nat} {r0 : State} (s : State) (by_ : Source) (slot ns : Nat) (h0 : Frame F r0 s)
    (hF : F &&& 8209 = 8209 := by first | decide | exact sub_of (by assumption) (by decide)) : Frame F r0 (s.scheduleSlot by_ slot ns) := by
  unfold State.scheduleSlot
  exact ite_fr _ _ _ (State.refuse_fr _ _ _ _ _ h0) (State.answer_fr _ _ _ (Frame.raw h0))

theorem State.holdLevel_fr {F : Nat} {r0 : State} (s : State) (by_ : Source) (h0 : Frame F r0 s)
    (hF : F &&& 8209 = 8209 := by first | decide | exact sub_of (by assumption) (by decide)) : Frame F r0 (s.holdLevel by_) := by
  unfold State.holdLevel
  split
  · exact State.refuse_fr _ _ _ _ _ h0
  · split
    · exact ite_fr _ _ _ (State.answer_fr _ _ _ (Frame.raw h0)) (State.refuse_fr _ _ _ _ _ h0)
    · exact State.answer_fr _ _ _ (Frame.raw h0)

theorem State.releaseLevel_fr {F : Nat} {r0 : State} (s : State) (by_ : Source) (h0 : Frame F r0 s)
    (hF : F &&& 8192 = 8192 := by first | decide | exact sub_of (by assumption) (by decide)) : Frame F r0 (s.releaseLevel by_) := by
  unfold State.releaseLevel
  split
  · exact ite_fr _ _ _ (Frame.raw h0) h0
  · exact h0

theorem State.clearMix_fr {F : Nat} {r0 : State} (s : State) (h0 : Frame F r0 s)
    (hF : F &&& 1 = 1 := by first | decide | exact sub_of (by assumption) (by decide)) : Frame F r0 (State.clearMix s) := by
  unfold State.clearMix
  with_reducible repeat' first | assumption | exact sub_of hF (by decide) | apply State.setB_fr

theorem State.lateLevel_fr {F : Nat} {r0 : State} (s : State) (old new : Nat) (h0 : Frame F r0 s)
    (hF : F &&& 21521525 = 21521525 := by first | decide | exact sub_of (by assumption) (by decide)) : Frame F r0
    (State.lateLevel s old new) := by
  unfold State.lateLevel
  with_reducible repeat' first
    | assumption | exact Frame.refl _ | exact id_fr _ | assumption | apply ite_fr | apply itep_fr
    | apply State.strobe_fr | apply foldl_fr | apply foldlp_fr | intro _
    | (extract_lets +onlyGivenNames x; first | (have hx : Frame F r0 x := ?_; clear_value x) | (have hx : Frame F r0 x.1 := ?_; clear_value x) | (have hf := fun a => x a; clear hf) | (have hf : CiphState := x; clear hf) | (have hf : SecState := x; clear hf) | clear_value x)
    | subst x | dsimp only | (apply fst_fr; assumption) | split | refine Frame.raw ?_ | exact sub_of hF (by decide)

end Sys2Proof.Machine
end

