-- ==== Sys2Proof/Laws/FrameTime.lean ====
section
/-!
SUPPORT. Which parts of the state an operation leaves as they are: memory words, Cornerstone's taps, TIME and LFR.
-/

-- one theorem after another: all at once would not fit the memory
set_option Elab.async false
set_option linter.all false

namespace Sys2Proof.Machine

/-! ### MemCode.lean -/

theorem State.modMem_fr {F : Nat} {r0 : State} (s : State) (f : MemState → MemState) (h0 : Frame F r0 s)
    (hF : F &&& 2097152 = 2097152 := by first | decide | exact sub_of (by assumption) (by decide)) : Frame F r0
    (State.modMem s f) :=
  Frame.raw h0

theorem State.setPoison_fr {F : Nat} {r0 : State} (s : State) (l : List (Nat × Nat × Nat)) (h0 : Frame F r0 s)
    (hF : F &&& 2097153 = 2097153 := by first | decide | exact sub_of (by assumption) (by decide)) : Frame F r0
    (State.setPoison s l) := by
  unfold State.setPoison
  with_reducible repeat' first
    | assumption | exact sub_of hF (by decide) | exact Frame.refl _ | assumption | apply ite_fr | apply itep_fr
    | apply State.modMem_fr | apply State.set_fr | apply State.setB_fr | apply foldl_fr | intro _
    | (extract_lets +onlyGivenNames x; first | (have hx : Frame F r0 x := ?_; clear_value x) | (have hx : Frame F r0 x.1 := ?_; clear_value x) | (have hf := fun a => x a; clear hf) | (have hf : CiphState := x; clear hf) | (have hf : SecState := x; clear hf) | clear_value x)
    | split

theorem State.poison_fr {F : Nat} {r0 : State} (s : State) (a inst addr : Nat) (h0 : Frame F r0 s)
    (hF : F &&& 2097153 = 2097153 := by first | decide | exact sub_of (by assumption) (by decide)) : Frame F r0
    (State.poison s a inst addr) := by
  unfold State.poison
  with_reducible repeat' first | assumption | exact sub_of hF (by decide) | apply ite_fr | apply State.setPoison_fr

theorem State.unpoison_fr {F : Nat} {r0 : State} (s : State) (a inst addr : Nat) (h0 : Frame F r0 s)
    (hF : F &&& 2097153 = 2097153 := by first | decide | exact sub_of (by assumption) (by decide)) : Frame F r0
    (State.unpoison s a inst addr) := by
  unfold State.unpoison
  with_reducible repeat' first | assumption | exact sub_of hF (by decide) | apply ite_fr | apply State.setPoison_fr

theorem State.memLog_fr {F : Nat} {r0 : State} (s : State) (kind a inst addr : Nat) (syn : Nat × Nat) (h0 : Frame F r0
    s) (hF : F &&& 16401 = 16401 := by first | decide | exact sub_of (by assumption) (by decide)) : Frame F r0
    (State.memLog s kind a inst addr syn) := by
  unfold State.memLog
  with_reducible repeat' first
    | assumption | exact sub_of hF (by decide) | apply ite_fr | apply State.raise_fr | apply State.addCnt_fr
    | apply State.setNat_fr | apply State.set_fr

theorem State.memCheck_fr {F : Nat} {r0 : State} (s : State) (a inst addr flips : Nat) (h0 : Frame F r0 s)
    (hF : F &&& 16401 = 16401 := by first | decide | exact sub_of (by assumption) (by decide)) : Frame F r0
    (State.memCheck s a inst addr flips).1 := by
  unfold State.memCheck
  with_reducible repeat' first
    | assumption | exact sub_of hF (by decide) | exact Frame.refl _ | assumption | apply ite_fr | apply itep_fr
    | apply State.memLog_fr | apply State.raise_fr | apply foldl_fr | intro _
    | (extract_lets +onlyGivenNames x; first | (have hx : Frame F r0 x := ?_; clear_value x) | (have hx : Frame F r0 x.1 := ?_; clear_value x) | (have hf := fun a => x a; clear hf) | (have hf : CiphState := x; clear hf) | (have hf : SecState := x; clear hf) | clear_value x)
    | split

theorem State.memSet_fr {F : Nat} {r0 : State} (s : State) (a inst addr w : Nat) (h0 : Frame F r0 s)
    (hF : F &&& 2097153 = 2097153 := by first | decide | exact sub_of (by assumption) (by decide)) : Frame F r0
    (State.memSet s a inst addr w) := by
  unfold State.memSet
  with_reducible repeat' first
    | assumption | intro _ | exact Frame.refl _ | subst x
    | (extract_lets +onlyGivenNames x; first | (have hx : Frame F r0 x := ?_; clear_value x) | (have hx : Frame F r0 x.1 := ?_; clear_value x) | (have hf := fun a => x a; clear hf) | (have hf : CiphState := x; clear hf) | (have hf : SecState := x; clear hf) | (have hf : LevelSeq := x; clear hf) | (have hf : CstState := x; clear hf) | clear_value x)
    | apply ite_fr | apply State.setNat_fr | apply State.modMem_fr | apply foldl_fr_of | dsimp only | split
    | exact sub_of hF (by decide)

theorem State.memWrite_fr {F : Nat} {r0 : State} (s : State) (a inst addr w : Nat) (h0 : Frame F r0 s)
    (hF : F &&& 2097153 = 2097153 := by first | decide | exact sub_of (by assumption) (by decide)) : Frame F r0
    (State.memWrite s a inst addr w) := by
  unfold State.memWrite
  with_reducible repeat' first
    | assumption | exact Frame.refl _ | exact sub_of hF (by decide) | apply ite_fr | apply State.unpoison_fr
    | apply State.memSet_fr | split | refine Frame.raw ?_

theorem State.memXor_fr {F : Nat} {r0 : State} (s : State) (a inst addr d : Nat) (h0 : Frame F r0 s)
    (hF : F &&& 2097153 = 2097153 := by first | decide | exact sub_of (by assumption) (by decide)) : Frame F r0
    (State.memXor s a inst addr d) := by
  unfold State.memXor
  with_reducible repeat' first
    | assumption | exact Frame.refl _ | exact sub_of hF (by decide) | apply ite_fr | apply State.memSet_fr | split
    | refine Frame.raw ?_

theorem State.memPartial_fr {F : Nat} {r0 : State} (s : State) (a inst addr flips : Nat) (merge : State → State)
    (k_merge : ∀ x0, Frame F x0 (merge x0)) (h0 : Frame F r0 s)
    (hF : F &&& 2113553 = 2113553 := by first | decide | exact sub_of (by assumption) (by decide)) : Frame F r0
    (State.memPartial s a inst addr flips merge).1 := by
  unfold State.memPartial
  with_reducible repeat' first
    | assumption | intro _ | exact Frame.refl _ | subst x
    | (extract_lets +onlyGivenNames x; first | (have hx : Frame F r0 x := ?_; clear_value x) | (have hx : Frame F r0 x.1 := ?_; clear_value x) | (have hf := fun a => x a; clear hf) | (have hf : CiphState := x; clear hf) | (have hf : SecState := x; clear hf) | (have hf : LevelSeq := x; clear hf) | (have hf : CstState := x; clear hf) | clear_value x)
    | apply ite_fr | apply itep_fr | apply State.raise_fr | apply State.poison_fr | apply State.memLog_fr
    | apply State.memXor_fr | refine Frame.trans ?_ (k_merge _) | dsimp only | (apply fst_fr; assumption) | split
    | exact sub_of hF (by decide)

theorem State.memFlush_fr {F : Nat} {r0 : State} (s : State) (h0 : Frame F r0 s)
    (hF : F &&& 2113553 = 2113553 := by first | decide | exact sub_of (by assumption) (by decide)) : Frame F r0
    (State.memFlush s) := by
  unfold State.memFlush
  with_reducible repeat' first
    | assumption | exact sub_of hF (by decide) | exact Frame.refl _ | assumption | apply ite_fr | apply itep_fr
    | apply State.modMem_fr | apply State.memPartial_fr | apply State.setReg_fr | apply State.logAcc_fr
    | apply foldl_fr | intro _
    | (extract_lets +onlyGivenNames x; first | (have hx : Frame F r0 x := ?_; clear_value x) | (have hx : Frame F r0 x.1 := ?_; clear_value x) | (have hf := fun a => x a; clear hf) | (have hf : CiphState := x; clear hf) | (have hf : SecState := x; clear hf) | clear_value x)
    | split

theorem State.winWrite_fr {F : Nat} {r0 : State} (s : State) (a : Nat) (v : Word) (h0 : Frame F r0 s)
    (hF : F &&& 2113553 = 2113553 := by first | decide | exact sub_of (by assumption) (by decide)) : Frame F r0
    (State.winWrite s a v) := by
  unfold State.winWrite
  with_reducible repeat' first
    | assumption | exact sub_of hF (by decide) | exact Frame.refl _ | assumption | apply ite_fr | apply itep_fr
    | apply State.unpoison_fr | apply State.modMem_fr | apply State.setReg_fr | apply State.memFlush_fr
    | apply State.memPartial_fr | apply State.logAcc_fr | apply foldl_fr | intro _
    | (extract_lets +onlyGivenNames x; first | (have hx : Frame F r0 x := ?_; clear_value x) | (have hx : Frame F r0 x.1 := ?_; clear_value x) | (have hf := fun a => x a; clear hf) | (have hf : CiphState := x; clear hf) | (have hf : SecState := x; clear hf) | clear_value x)
    | split

theorem State.winTouch_fr {F : Nat} {r0 : State} (s : State) (inst ofs n : Nat) (h0 : Frame F r0 s)
    (hF : F &&& 2113553 = 2113553 := by first | decide | exact sub_of (by assumption) (by decide)) : Frame F r0
    (State.winTouch s inst ofs n).1 := by
  unfold State.winTouch
  with_reducible repeat' first
    | assumption | exact Frame.refl _ | exact id_fr _ | assumption | apply ite_fr | apply itep_fr
    | apply State.memFlush_fr | apply State.unpoison_fr | apply State.memPartial_fr | apply foldl_fr | apply foldlp_fr
    | intro _
    | (extract_lets +onlyGivenNames x; first | (have hx : Frame F r0 x := ?_; clear_value x) | (have hx : Frame F r0 x.1 := ?_; clear_value x) | (have hf := fun a => x a; clear hf) | (have hf : CiphState := x; clear hf) | (have hf : SecState := x; clear hf) | clear_value x)
    | subst x | dsimp only | (apply fst_fr; assumption) | split | exact sub_of hF (by decide)

theorem State.winGood_fr {F : Nat} {r0 : State} (s : State) (inst ofs n : Nat) (h0 : Frame F r0 s)
    (hF : F &&& 2113553 = 2113553 := by first | decide | exact sub_of (by assumption) (by decide)) : Frame F r0
    (State.winGood s inst ofs n).1 := by
  unfold State.winGood
  with_reducible repeat' first
    | assumption | exact Frame.refl _ | exact id_fr _ | assumption | apply ite_fr | apply itep_fr
    | apply State.memFlush_fr | apply State.memCheck_fr | apply foldl_fr | apply foldlp_fr | intro _
    | (extract_lets +onlyGivenNames x; first | (have hx : Frame F r0 x := ?_; clear_value x) | (have hx : Frame F r0 x.1 := ?_; clear_value x) | (have hf := fun a => x a; clear hf) | (have hf : CiphState := x; clear hf) | (have hf : SecState := x; clear hf) | clear_value x)
    | subst x | dsimp only | (apply fst_fr; assumption) | split | exact sub_of hF (by decide)

theorem State.memClean_fr {F : Nat} {r0 : State} (s : State) (a inst : Nat) (h0 : Frame F r0 s)
    (hF : F &&& 2097153 = 2097153 := by first | decide | exact sub_of (by assumption) (by decide)) : Frame F r0
    (State.memClean s a inst) := by
  unfold State.memClean
  with_reducible repeat' first | assumption | exact sub_of hF (by decide) | apply ite_fr | apply State.setPoison_fr

theorem State.memRefill_fr {F : Nat} {r0 : State} (s : State) (a inst : Nat) (h0 : Frame F r0 s)
    (hF : F &&& 2097153 = 2097153 := by first | decide | exact sub_of (by assumption) (by decide)) : Frame F r0
    (State.memRefill s a inst) := by
  unfold State.memRefill
  with_reducible repeat' first
    | assumption | intro _ | exact Frame.refl _ | subst x
    | (extract_lets +onlyGivenNames x; first | (have hx : Frame F r0 x := ?_; clear_value x) | (have hx : Frame F r0 x.1 := ?_; clear_value x) | (have hf := fun a => x a; clear hf) | (have hf : CiphState := x; clear hf) | (have hf : SecState := x; clear hf) | (have hf : LevelSeq := x; clear hf) | (have hf : CstState := x; clear hf) | clear_value x)
    | apply ite_fr | apply State.setB_fr | apply State.modMem_fr | apply State.memClean_fr | dsimp only | split
    | exact sub_of hF (by decide)

theorem State.memLane_fr {F : Nat} {r0 : State} (s : State) (n : Nat) (h0 : Frame F r0 s)
    (hF : F &&& 2097153 = 2097153 := by first | decide | exact sub_of (by assumption) (by decide)) : Frame F r0
    (State.memLane s n) := by
  unfold State.memLane
  with_reducible repeat' first
    | assumption | exact sub_of hF (by decide) | exact Frame.refl _ | assumption | apply ite_fr | apply itep_fr
    | apply State.memRefill_fr | apply foldl_fr | intro _
    | (extract_lets +onlyGivenNames x; first | (have hx : Frame F r0 x := ?_; clear_value x) | (have hx : Frame F r0 x.1 := ?_; clear_value x) | (have hf := fun a => x a; clear hf) | (have hf : CiphState := x; clear hf) | (have hf : SecState := x; clear hf) | clear_value x)
    | split

theorem State.memGroup_fr {F : Nat} {r0 : State} (s : State) (g : Nat) (h0 : Frame F r0 s)
    (hF : F &&& 2097153 = 2097153 := by first | decide | exact sub_of (by assumption) (by decide)) : Frame F r0
    (State.memGroup s g) := by
  unfold State.memGroup
  with_reducible repeat' first
    | assumption | exact sub_of hF (by decide) | exact Frame.refl _ | assumption | apply ite_fr | apply itep_fr
    | apply State.memRefill_fr | apply foldl_fr | intro _
    | (extract_lets +onlyGivenNames x; first | (have hx : Frame F r0 x := ?_; clear_value x) | (have hx : Frame F r0 x.1 := ?_; clear_value x) | (have hf := fun a => x a; clear hf) | (have hf : CiphState := x; clear hf) | (have hf : SecState := x; clear hf) | clear_value x)
    | split

theorem State.memCiph_fr {F : Nat} {r0 : State} (s : State) (h0 : Frame F r0 s)
    (hF : F &&& 2097153 = 2097153 := by first | decide | exact sub_of (by assumption) (by decide)) : Frame F r0
    (State.memCiph s) := by
  unfold State.memCiph
  with_reducible repeat' first
    | assumption | exact sub_of hF (by decide) | exact Frame.refl _ | assumption | apply ite_fr | apply itep_fr
    | apply State.memRefill_fr | apply foldl_fr | intro _
    | (extract_lets +onlyGivenNames x; first | (have hx : Frame F r0 x := ?_; clear_value x) | (have hx : Frame F r0 x.1 := ?_; clear_value x) | (have hf := fun a => x a; clear hf) | (have hf : CiphState := x; clear hf) | (have hf : SecState := x; clear hf) | clear_value x)
    | split

theorem State.fillsEnd_fr {F : Nat} {r0 : State} (s : State) (h0 : Frame F r0 s)
    (hF : F &&& 1 = 1 := by first | decide | exact sub_of (by assumption) (by decide)) : Frame F r0 (State.fillsEnd
    s) := by
  unfold State.fillsEnd
  with_reducible repeat' first
    | assumption | intro _ | exact Frame.refl _ | subst x
    | (extract_lets +onlyGivenNames x; first | (have hx : Frame F r0 x := ?_; clear_value x) | (have hx : Frame F r0 x.1 := ?_; clear_value x) | (have hf := fun a => x a; clear hf) | (have hf : CiphState := x; clear hf) | (have hf : SecState := x; clear hf) | (have hf : LevelSeq := x; clear hf) | (have hf : CstState := x; clear hf) | clear_value x)
    | apply ite_fr | apply State.setB_fr | apply foldl_fr_of | dsimp only | split | exact sub_of hF (by decide)

/-! ### Tap.lean -/

theorem State.modCst_fr {F : Nat} {r0 : State} (s : State) (f : CstState → CstState) (h0 : Frame F r0 s)
    (hF : F &&& 12582912 = 12582912 := by first | decide | exact sub_of (by assumption) (by decide)) : Frame F r0
    (State.modCst s f) :=
  Frame.raw h0

theorem State.tapGone_fr {F : Nat} {r0 : State} (s : State) (key : Nat) (h0 : Frame F r0 s)
    (hF : F &&& 12582912 = 12582912 := by first | decide | exact sub_of (by assumption) (by decide)) : Frame F r0
    (State.tapGone s key) := by
  unfold State.tapGone
  with_reducible repeat' first | assumption | exact sub_of hF (by decide) | apply ite_fr | apply State.modCst_fr

theorem State.cstBins_fr {F : Nat} {r0 : State} (s : State) (f : CstBin → CstBin) (h0 : Frame F r0 s)
    (hF : F &&& 12582912 = 12582912 := by first | decide | exact sub_of (by assumption) (by decide)) : Frame F r0
    (State.cstBins s f) := by
  unfold State.cstBins
  with_reducible repeat' first | assumption | exact sub_of hF (by decide) | apply State.modCst_fr

theorem State.cstFlag_fr {F : Nat} {r0 : State} (s : State) (k : Nat) (h0 : Frame F r0 s)
    (hF : F &&& 12582912 = 12582912 := by first | decide | exact sub_of (by assumption) (by decide)) : Frame F r0
    (State.cstFlag s k) := by
  unfold State.cstFlag
  with_reducible repeat' first | assumption | exact sub_of hF (by decide) | apply State.cstBins_fr

theorem State.cstEntFlag_fr {F : Nat} {r0 : State} (s : State) (key k : Nat) (h0 : Frame F r0 s)
    (hF : F &&& 12582912 = 12582912 := by first | decide | exact sub_of (by assumption) (by decide)) : Frame F r0
    (State.cstEntFlag s key k) := by
  unfold State.cstEntFlag
  with_reducible repeat' first | assumption | exact sub_of hF (by decide) | apply State.cstBins_fr

theorem State.tapChange_fr {F : Nat} {r0 : State} (s : State) (key : Nat) (h0 : Frame F r0 s)
    (hF : F &&& 12582912 = 12582912 := by first | decide | exact sub_of (by assumption) (by decide)) : Frame F r0
    (State.tapChange s key) := by
  unfold State.tapChange
  with_reducible repeat' first | assumption | exact sub_of hF (by decide) | apply ite_fr | apply State.cstEntFlag_fr

theorem State.tapPort_fr {F : Nat} {r0 : State} (s : State) (p octets frames bad : Nat) (h0 : Frame F r0 s)
    (hF : F &&& 12582912 = 12582912 := by first | decide | exact sub_of (by assumption) (by decide)) : Frame F r0
    (State.tapPort s p octets frames bad) := by
  unfold State.tapPort
  with_reducible repeat' first | assumption | exact sub_of hF (by decide) | apply ite_fr | apply State.modCst_fr

theorem State.tapLf_fr {F : Nat} {r0 : State} (s : State) (t : TapLf) (h0 : Frame F r0 s)
    (hF : F &&& 12582912 = 12582912 := by first | decide | exact sub_of (by assumption) (by decide)) : Frame F r0
    (State.tapLf s t) := by
  unfold State.tapLf
  with_reducible repeat' first | assumption | exact sub_of hF (by decide) | apply ite_fr | apply State.modCst_fr

theorem State.modTap_fr {F : Nat} {r0 : State} (s : State) (f : TapLf → TapLf) (h0 : Frame F r0 s)
    (hF : F &&& 12582912 = 12582912 := by first | decide | exact sub_of (by assumption) (by decide)) : Frame F r0
    (State.modTap s f) := by
  unfold State.modTap
  with_reducible repeat' first | assumption | exact sub_of hF (by decide) | apply State.modCst_fr

/-! ### Time.lean -/

theorem State.modTime_fr {F : Nat} {r0 : State} (s : State) (f : TimeState → TimeState) (h0 : Frame F r0 s)
    (hF : F &&& 33554432 = 33554432 := by first | decide | exact sub_of (by assumption) (by decide)) : Frame F r0
    (State.modTime s f) :=
  Frame.raw h0

theorem State.modLt_fr {F : Nat} {r0 : State} (s : State) (n : Nat) (f : LaneTime → LaneTime) (h0 : Frame F r0 s)
    (hF : F &&& 33554432 = 33554432 := by first | decide | exact sub_of (by assumption) (by decide)) : Frame F r0
    (State.modLt s n f) := by
  unfold State.modLt
  with_reducible repeat' first | assumption | exact sub_of hF (by decide) | apply State.modTime_fr

theorem State.writeServo_fr {F : Nat} {r0 : State} (s : State) (x : Nat) (v : Word) (h0 : Frame F r0 s)
    (hF : F &&& 21 = 21 := by first | decide | exact sub_of (by assumption) (by decide)) : Frame F r0
    (State.writeServo s x v) := by
  unfold State.writeServo
  with_reducible repeat' first
    | assumption | exact sub_of hF (by decide) | apply ite_fr | apply State.syncTb_fr | apply State.setReg_fr
    | apply State.setTbState_fr | apply State.raise_fr

theorem State.writeHostOfs_fr {F : Nat} {r0 : State} (s : State) (x : Nat) (v : Word) (h0 : Frame F r0 s)
    (hF : F &&& 21 = 21 := by first | decide | exact sub_of (by assumption) (by decide)) : Frame F r0
    (State.writeHostOfs s x v) := by
  unfold State.writeHostOfs
  with_reducible repeat' first | assumption | exact sub_of hF (by decide) | apply ite_fr | apply State.acceptSample_fr

theorem State.setStamp_fr {F : Nat} {r0 : State} (s : State) (a t : Nat) (h0 : Frame F r0 s)
    (hF : F &&& 1 = 1 := by first | decide | exact sub_of (by assumption) (by decide)) : Frame F r0 (State.setStamp s
    a t) := by
  unfold State.setStamp
  with_reducible repeat' first | assumption | exact sub_of hF (by decide) | apply State.setNat_fr

theorem State.utcShift_fr {F : Nat} {r0 : State} (s : State) (new : Int) (ns : Nat) (h0 : Frame F r0 s)
    (hF : F &&& 21521525 = 21521525 := by first | decide | exact sub_of (by assumption) (by decide)) : Frame F r0
    (State.utcShift s new ns) := by
  unfold State.utcShift
  with_reducible repeat' first
    | assumption | intro _ | exact Frame.refl _ | subst x
    | (extract_lets +onlyGivenNames x; first | (have hx : Frame F r0 x := ?_; clear_value x) | (have hx : Frame F r0 x.1 := ?_; clear_value x) | (have hf := fun a => x a; clear hf) | (have hf : CiphState := x; clear hf) | (have hf : SecState := x; clear hf) | (have hf : LevelSeq := x; clear hf) | (have hf : CstState := x; clear hf) | clear_value x)
    | apply ite_fr | apply State.set_fr | apply State.modPmon_fr | apply State.eachLane_fr_of
    | apply State.strobe_fr | dsimp only | split | refine Frame.raw ?_ | exact sub_of hF (by decide)

theorem State.utcAct_fr {F : Nat} {r0 : State} (s : State) (ns : Nat) (h0 : Frame F r0 s)
    (hF : F &&& 55075957 = 55075957 := by first | decide | exact sub_of (by assumption) (by decide)) : Frame F r0
    (State.utcAct s ns) := by
  unfold State.utcAct
  with_reducible repeat' first
    | assumption | intro _ | exact Frame.refl _ | subst x
    | (extract_lets +onlyGivenNames x; first | (have hx : Frame F r0 x := ?_; clear_value x) | (have hx : Frame F r0 x.1 := ?_; clear_value x) | (have hf := fun a => x a; clear hf) | (have hf : CiphState := x; clear hf) | (have hf : SecState := x; clear hf) | (have hf : LevelSeq := x; clear hf) | (have hf : CstState := x; clear hf) | clear_value x)
    | apply ite_fr | apply State.setNat_fr | apply State.raise_fr | apply State.modTime_fr | apply State.utcShift_fr
    | dsimp only | split | exact sub_of hF (by decide)

theorem State.writeUtc_fr {F : Nat} {r0 : State} (s : State) (v : Word) (h0 : Frame F r0 s)
    (hF : F &&& 21521525 = 21521525 := by first | decide | exact sub_of (by assumption) (by decide)) : Frame F r0
    (State.writeUtc s v) := by
  unfold State.writeUtc
  with_reducible repeat' first
    | assumption | exact Frame.refl _ | exact sub_of hF (by decide) | apply ite_fr | apply State.set_fr
    | apply State.utcShift_fr | split | refine Frame.raw ?_

theorem State.writeUtcAt_fr {F : Nat} {r0 : State} (s : State) (v : Word) (h0 : Frame F r0 s)
    (hF : F &&& 33554433 = 33554433 := by first | decide | exact sub_of (by assumption) (by decide)) : Frame F r0
    (State.writeUtcAt s v) := by
  unfold State.writeUtcAt
  with_reducible repeat' first
    | assumption | exact sub_of hF (by decide) | apply ite_fr | apply State.modTime_fr | apply State.setReg_fr

theorem State.servosHold_fr {F : Nat} {r0 : State} (s : State) (every : Bool) (h0 : Frame F r0 s)
    (hF : F &&& 21 = 21 := by first | decide | exact sub_of (by assumption) (by decide)) : Frame F r0
    (State.servosHold s every) := by
  unfold State.servosHold
  with_reducible repeat' first
    | assumption | exact sub_of hF (by decide) | exact Frame.refl _ | assumption | apply ite_fr | apply itep_fr
    | apply State.setTbState_fr | apply State.syncTbs_fr | apply foldl_fr | intro _
    | (extract_lets +onlyGivenNames x; first | (have hx : Frame F r0 x := ?_; clear_value x) | (have hx : Frame F r0 x.1 := ?_; clear_value x) | (have hf := fun a => x a; clear hf) | (have hf : CiphState := x; clear hf) | (have hf : SecState := x; clear hf) | clear_value x)
    | split

theorem State.wlJudge_fr {F : Nat} {r0 : State} (s : State) (n : Nat) (h0 : Frame F r0 s)
    (hF : F &&& 17 = 17 := by first | decide | exact sub_of (by assumption) (by decide)) : Frame F r0 (State.wlJudge s n)
    := by
  unfold State.wlJudge
  split
  · exact h0
  · with_reducible repeat' first
      | assumption | exact sub_of hF (by decide) | apply State.raiseIf_fr | apply State.setB_fr

theorem State.lineWritten_fr {F : Nat} {r0 : State} (s : State) (n : Nat) (h0 : Frame F r0 s)
    (hF : F &&& 17 = 17 := by first | decide | exact sub_of (by assumption) (by decide)) : Frame F r0
    (State.lineWritten s n) := by
  unfold State.lineWritten
  extract_lets t
  have h1 : Frame F r0 t := State.wlJudge_fr s n h0 hF
  clear_value t
  with_reducible repeat' first | assumption | exact sub_of hF (by decide) | apply ite_fr | apply State.setB_fr

theorem State.timeRefresh_fr {F : Nat} {r0 : State} (s : State) (h0 : Frame F r0 s)
    (hF : F &&& 1 = 1 := by first | decide | exact sub_of (by assumption) (by decide)) : Frame F r0 (State.timeRefresh
    s) := by
  unfold State.timeRefresh
  with_reducible repeat' first
    | assumption | exact sub_of hF (by decide) | exact Frame.refl _ | assumption | apply ite_fr | apply itep_fr
    | apply State.setInt_fr | apply State.setNat_fr | apply State.setB_fr | apply foldl_fr | intro _
    | (extract_lets +onlyGivenNames x; first | (have hx : Frame F r0 x := ?_; clear_value x) | (have hx : Frame F r0 x.1 := ?_; clear_value x) | (have hf := fun a => x a; clear hf) | (have hf : CiphState := x; clear hf) | (have hf : SecState := x; clear hf) | clear_value x)
    | split

theorem State.cdToTime_fr {F : Nat} {r0 : State} (s : State) (n : Nat) (cd : Option Int) (h0 : Frame F r0 s)
    (hF : F &&& 33554432 = 33554432 := by first | decide | exact sub_of (by assumption) (by decide)) : Frame F r0
    (State.cdToTime s n cd) := by
  unfold State.cdToTime
  with_reducible repeat' first | assumption | exact sub_of hF (by decide) | apply ite_fr | apply State.modLt_fr | split

theorem State.lineSample_fr {F : Nat} {r0 : State} (s : State) (n : Nat) (ofs : Int) (give : Bool) (h0 : Frame F r0 s)
    (hF : F &&& 21 = 21 := by first | decide | exact sub_of (by assumption) (by decide)) : Frame F r0
    (State.lineSample s n ofs give) := by
  unfold State.lineSample
  with_reducible repeat' first
    | assumption | exact sub_of hF (by decide) | apply ite_fr | apply State.setInt_fr | apply State.acceptSample_fr

theorem State.rangeJudge_fr {F : Nat} {r0 : State} (s : State) (n : Nat) (h0 : Frame F r0 s)
    (hF : F &&& 33554449 = 33554449 := by first | decide | exact sub_of (by assumption) (by decide)) : Frame F r0
    (State.rangeJudge s n) := by
  unfold State.rangeJudge
  with_reducible repeat' first
    | assumption | intro _ | exact Frame.refl _ | subst x
    | (extract_lets +onlyGivenNames x; first | (have hx : Frame F r0 x := ?_; clear_value x) | (have hx : Frame F r0 x.1 := ?_; clear_value x) | (have hf := fun a => x a; clear hf) | (have hf : CiphState := x; clear hf) | (have hf : SecState := x; clear hf) | (have hf : LevelSeq := x; clear hf) | (have hf : CstState := x; clear hf) | clear_value x)
    | apply ite_fr | apply State.setB_fr | apply State.raise_fr | apply State.modLt_fr | dsimp only | split
    | exact sub_of hF (by decide)

theorem State.lineUpdate_fr {F : Nat} {r0 : State} (s : State) (n : Nat) (h0 : Frame F r0 s)
    (hF : F &&& 33554453 = 33554453 := by first | decide | exact sub_of (by assumption) (by decide)) : Frame F r0
    (State.lineUpdate s n) := by
  unfold State.lineUpdate
  with_reducible repeat' first
    | assumption | intro _ | exact Frame.refl _ | subst x
    | (extract_lets +onlyGivenNames x; first | (have hx : Frame F r0 x := ?_; clear_value x) | (have hx : Frame F r0 x.1 := ?_; clear_value x) | (have hf := fun a => x a; clear hf) | (have hf : CiphState := x; clear hf) | (have hf : SecState := x; clear hf) | (have hf : LevelSeq := x; clear hf) | (have hf : CstState := x; clear hf) | clear_value x)
    | apply ite_fr | apply itep_fr | apply State.setB_fr | apply State.setWide_fr | apply State.lineSample_fr
    | apply State.rangeJudge_fr | dsimp only | (apply fst_fr; assumption) | split | exact sub_of hF (by decide)

theorem State.ksSample_fr {F : Nat} {r0 : State} (s : State) (n : Nat) (h0 : Frame F r0 s)
    (hF : F &&& 21 = 21 := by first | decide | exact sub_of (by assumption) (by decide)) : Frame F r0 (State.ksSample
    s n) := by
  unfold State.ksSample
  with_reducible repeat' first
    | assumption | exact sub_of hF (by decide) | apply ite_fr | apply State.lineSample_fr | split

theorem State.rangeResult_fr {F : Nat} {r0 : State} (s : State) (n t1 t2 t3 t4 : Nat) (locked : Bool) (h0 : Frame F
    r0 s)
    (hF : F &&& 33554453 = 33554453 := by first | decide | exact sub_of (by assumption) (by decide)) : Frame F r0
    (State.rangeResult s n t1 t2 t3 t4 locked) := by
  unfold State.rangeResult
  with_reducible repeat' first
    | assumption | intro _ | exact Frame.refl _ | subst x
    | (extract_lets +onlyGivenNames x; first | (have hx : Frame F r0 x := ?_; clear_value x) | (have hx : Frame F r0 x.1 := ?_; clear_value x) | (have hf := fun a => x a; clear hf) | (have hf : CiphState := x; clear hf) | (have hf : SecState := x; clear hf) | (have hf : LevelSeq := x; clear hf) | (have hf : CstState := x; clear hf) | clear_value x)
    | apply ite_fr | apply State.setB_fr | apply State.setWide_fr | apply State.modLt_fr | apply State.rangeJudge_fr
    | apply State.ksSample_fr | dsimp only | split | exact sub_of hF (by decide)

theorem State.timedSent_fr {F : Nat} {r0 : State} (s : State) (n c ps : Nat) (h0 : Frame F r0 s)
    (hF : F &&& 33554432 = 33554432 := by first | decide | exact sub_of (by assumption) (by decide)) : Frame F r0
    (State.timedSent s n c ps) := by
  unfold State.timedSent
  with_reducible repeat' first | assumption | exact sub_of hF (by decide) | apply ite_fr | apply State.modLt_fr

theorem State.ttfRow_fr {F : Nat} {r0 : State} (s : State) (n : Nat) (good : Bool) (t : Option Nat) (h0 : Frame F r0
    s)
    (hF : F &&& 33554432 = 33554432 := by first | decide | exact sub_of (by assumption) (by decide)) : Frame F r0
    (State.ttfRow s n good t) := by
  unfold State.ttfRow
  with_reducible repeat' first
    | assumption | intro _ | exact Frame.refl _ | subst x
    | (extract_lets +onlyGivenNames x; first | (have hx : Frame F r0 x := ?_; clear_value x) | (have hx : Frame F r0 x.1 := ?_; clear_value x) | (have hf := fun a => x a; clear hf) | (have hf : CiphState := x; clear hf) | (have hf : SecState := x; clear hf) | (have hf : LevelSeq := x; clear hf) | (have hf : CstState := x; clear hf) | clear_value x)
    | apply ite_fr | apply State.modLt_fr | dsimp only | split | exact sub_of hF (by decide)

theorem State.ttfBad_fr {F : Nat} {r0 : State} (s : State) (n : Nat) (h0 : Frame F r0 s)
    (hF : F &&& 17 = 17 := by first | decide | exact sub_of (by assumption) (by decide)) : Frame F r0 (State.ttfBad s
    n) := by
  unfold State.ttfBad
  with_reducible repeat' first
    | assumption | exact sub_of hF (by decide) | apply State.raise_fr | apply State.addCnt32_fr

theorem State.ttfRx_fr {F : Nat} {r0 : State} (s : State) (n : Nat) (bs : List Byte) (h0 : Frame F r0 s)
    (hF : F &&& 33554453 = 33554453 := by first | decide | exact sub_of (by assumption) (by decide)) : Frame F r0
    (State.ttfRx s n bs) := by
  unfold State.ttfRx
  with_reducible repeat' first
    | assumption | intro _ | exact Frame.refl _ | subst x
    | (extract_lets +onlyGivenNames x; first | (have hx : Frame F r0 x := ?_; clear_value x) | (have hx : Frame F r0 x.1 := ?_; clear_value x) | (have hf := fun a => x a; clear hf) | (have hf : CiphState := x; clear hf) | (have hf : SecState := x; clear hf) | (have hf : LevelSeq := x; clear hf) | (have hf : CstState := x; clear hf) | clear_value x)
    | apply ite_fr | apply State.setB_fr | apply State.setInt_fr | apply State.modLt_fr | apply State.wlJudge_fr
    | apply State.lineUpdate_fr | apply State.ttfBad_fr | dsimp only | split | exact sub_of hF (by decide)

theorem State.ptpPorts_fr {F : Nat} {r0 : State} (s : State) (h0 : Frame F r0 s)
    (hF : F &&& 67108864 = 67108864 := by first | decide | exact sub_of (by assumption) (by decide)) : Frame F r0
    (State.ptpPorts s) := by
  unfold State.ptpPorts
  with_reducible repeat' first
    | assumption | exact sub_of hF (by decide) | exact Frame.refl _ | assumption | apply ite_fr | apply itep_fr
    | apply State.setObj_fr | apply foldl_fr | intro _
    | (extract_lets +onlyGivenNames x; first | (have hx : Frame F r0 x := ?_; clear_value x) | (have hx : Frame F r0 x.1 := ?_; clear_value x) | (have hf := fun a => x a; clear hf) | (have hf : CiphState := x; clear hf) | (have hf : SecState := x; clear hf) | clear_value x)
    | split

theorem State.ptpEmit_fr {F : Nat} {r0 : State} (s : State) (p kind : Nat) (content : List Byte) (h0 : Frame F r0 s)
    (hF : F &&& 16 = 16 := by first | decide | exact sub_of (by assumption) (by decide)) : Frame F r0 (State.ptpEmit
    s p kind content) := by
  unfold State.ptpEmit
  with_reducible repeat' first
    | assumption | intro _ | exact Frame.refl _ | subst x
    | (extract_lets +onlyGivenNames x; first | (have hx : Frame F r0 x := ?_; clear_value x) | (have hx : Frame F r0 x.1 := ?_; clear_value x) | (have hf := fun a => x a; clear hf) | (have hf : CiphState := x; clear hf) | (have hf : SecState := x; clear hf) | (have hf : LevelSeq := x; clear hf) | (have hf : CstState := x; clear hf) | clear_value x)
    | apply ite_fr | apply State.emit_fr | dsimp only | split | exact sub_of hF (by decide)

theorem State.ptpUtc_fr {F : Nat} {r0 : State} (s : State) (x : Nat) (u : Option (Int × Int × Nat)) (h0 : Frame F r0
    s)
    (hF : F &&& 55075957 = 55075957 := by first | decide | exact sub_of (by assumption) (by decide)) : Frame F r0
    (State.ptpUtc s x u) := by
  unfold State.ptpUtc
  with_reducible repeat' first
    | assumption | intro _ | exact Frame.refl _ | subst x
    | (extract_lets +onlyGivenNames x; first | (have hx : Frame F r0 x := ?_; clear_value x) | (have hx : Frame F r0 x.1 := ?_; clear_value x) | (have hf := fun a => x a; clear hf) | (have hf : CiphState := x; clear hf) | (have hf : SecState := x; clear hf) | (have hf : LevelSeq := x; clear hf) | (have hf : CstState := x; clear hf) | clear_value x)
    | apply ite_fr | apply State.set_fr | apply State.setNat_fr | apply State.modTime_fr | apply State.utcShift_fr
    | dsimp only | split | exact sub_of hF (by decide)

theorem State.ptpDue_fr {F : Nat} {r0 : State} (s : State) (p kind : Nat) (h0 : Frame F r0 s)
    (hF : F &&& 41943044 = 41943044 := by first | decide | exact sub_of (by assumption) (by decide)) : Frame F r0
    (State.ptpDue s p kind) := by
  unfold State.ptpDue
  with_reducible repeat' first
    | assumption | intro _ | exact Frame.refl _ | subst x
    | (extract_lets +onlyGivenNames x; first | (have hx : Frame F r0 x := ?_; clear_value x) | (have hx : Frame F r0 x.1 := ?_; clear_value x) | (have hf := fun a => x a; clear hf) | (have hf : CiphState := x; clear hf) | (have hf : SecState := x; clear hf) | (have hf : LevelSeq := x; clear hf) | (have hf : CstState := x; clear hf) | clear_value x)
    | apply ite_fr | apply State.waitClk_fr | apply State.modTime_fr | dsimp only | split
    | exact sub_of hF (by decide)

theorem State.launchPut_fr {F : Nat} {r0 : State} (s : State) (ofs : Nat) (bs : List Byte) (h0 : Frame F r0 s)
    (hF : F &&& 2113553 = 2113553 := by first | decide | exact sub_of (by assumption) (by decide)) : Frame F r0
    (State.launchPut s ofs bs) := by
  unfold State.launchPut
  with_reducible repeat' first
    | assumption | exact sub_of hF (by decide) | exact Frame.refl _ | assumption | apply ite_fr | apply itep_fr
    | apply State.winTouch_fr | apply State.set_fr | apply foldl_fr | intro _
    | (extract_lets +onlyGivenNames x; first | (have hx : Frame F r0 x := ?_; clear_value x) | (have hx : Frame F r0 x.1 := ?_; clear_value x) | (have hf := fun a => x a; clear hf) | (have hf : CiphState := x; clear hf) | (have hf : SecState := x; clear hf) | clear_value x)
    | split

theorem State.launchKeep_fr {F : Nat} {r0 : State} (s : State) (d : Nat) (h0 : Frame F r0 s)
    (hF : F &&& 33554432 = 33554432 := by first | decide | exact sub_of (by assumption) (by decide)) : Frame F r0
    (State.launchKeep s d) := by
  unfold State.launchKeep
  with_reducible repeat' first
    | assumption | intro _ | exact Frame.refl _ | subst x
    | (extract_lets +onlyGivenNames x; first | (have hx : Frame F r0 x := ?_; clear_value x) | (have hx : Frame F r0 x.1 := ?_; clear_value x) | (have hf := fun a => x a; clear hf) | (have hf : CiphState := x; clear hf) | (have hf : SecState := x; clear hf) | (have hf : LevelSeq := x; clear hf) | (have hf : CstState := x; clear hf) | clear_value x)
    | apply ite_fr | apply State.modTime_fr | apply foldl_fr_of | dsimp only | split | exact sub_of hF (by decide)

theorem State.launchArm_fr {F : Nat} {r0 : State} (s : State) (d : Nat) (h0 : Frame F r0 s)
    (hF : F &&& 33554433 = 33554433 := by first | decide | exact sub_of (by assumption) (by decide)) : Frame F r0
    (State.launchArm s d).1 := by
  unfold State.launchArm
  with_reducible repeat' first
    | assumption | intro _ | exact Frame.refl _ | subst x
    | (extract_lets +onlyGivenNames x; first | (have hx : Frame F r0 x := ?_; clear_value x) | (have hx : Frame F r0 x.1 := ?_; clear_value x) | (have hf := fun a => x a; clear hf) | (have hf : CiphState := x; clear hf) | (have hf : SecState := x; clear hf) | (have hf : LevelSeq := x; clear hf) | (have hf : CstState := x; clear hf) | clear_value x)
    | apply ite_fr | apply itep_fr | apply State.set_fr | apply State.setNat_fr | apply State.launchKeep_fr
    | dsimp only | (apply fst_fr; assumption) | split | exact sub_of hF (by decide)

theorem State.writeLaunch_fr {F : Nat} {r0 : State} (s : State) (d : Nat) (v : Word) (h0 : Frame F r0 s)
    (hF : F &&& 33554433 = 33554433 := by first | decide | exact sub_of (by assumption) (by decide)) : Frame F r0 (State.writeLaunch
    s d v).1 := by
  unfold State.writeLaunch
  with_reducible repeat' first
    | assumption | exact sub_of hF (by decide) | apply ite_fr | apply State.setReg_fr | apply State.launchArm_fr
    | split

theorem State.launchNow_fr {F : Nat} {r0 : State} (s : State) (d t : Nat) (err : Int) (late : Bool) (h0 : Frame F r0
    s)
    (hF : F &&& 48250897 = 48250897 := by first | decide | exact sub_of (by assumption) (by decide)) : Frame F r0
    (State.launchNow s d t err late) := by
  unfold State.launchNow
  with_reducible repeat' first
    | assumption | intro _ | exact Frame.refl _ | subst x
    | (extract_lets +onlyGivenNames x; first | (have hx : Frame F r0 x := ?_; clear_value x) | (have hx : Frame F r0 x.1 := ?_; clear_value x) | (have hf := fun a => x a; clear hf) | (have hf : CiphState := x; clear hf) | (have hf : SecState := x; clear hf) | (have hf : LevelSeq := x; clear hf) | (have hf : CstState := x; clear hf) | clear_value x)
    | apply ite_fr | apply itep_fr | apply State.set_fr | apply State.setB_fr | apply State.emit_fr
    | apply State.addCnt_fr | apply State.raiseIf_fr | apply State.modMem_fr | apply State.winGood_fr
    | apply State.tapPort_fr | apply State.modTime_fr | apply State.setStamp_fr | dsimp only
    | (apply fst_fr; assumption) | split | exact sub_of hF (by decide)

theorem State.launchesCrossed_fr {F : Nat} {r0 : State} (s : State) (x old : Nat) (h0 : Frame F r0 s)
    (hF : F &&& 48250897 = 48250897 := by first | decide | exact sub_of (by assumption) (by decide)) : Frame F r0
    (State.launchesCrossed s x old) := by
  unfold State.launchesCrossed
  with_reducible repeat' first
    | assumption | exact sub_of hF (by decide) | exact Frame.refl _ | assumption | apply ite_fr | apply itep_fr
    | apply State.launchNow_fr | apply foldl_fr | intro _
    | (extract_lets +onlyGivenNames x; first | (have hx : Frame F r0 x := ?_; clear_value x) | (have hx : Frame F r0 x.1 := ?_; clear_value x) | (have hf := fun a => x a; clear hf) | (have hf : CiphState := x; clear hf) | (have hf : SecState := x; clear hf) | clear_value x)
    | split

theorem State.launchesCancel_fr {F : Nat} {r0 : State} (s : State) (h0 : Frame F r0 s)
    (hF : F &&& 1 = 1 := by first | decide | exact sub_of (by assumption) (by decide)) : Frame F r0
    (State.launchesCancel s) := by
  unfold State.launchesCancel
  with_reducible repeat' first
    | assumption | exact sub_of hF (by decide) | exact Frame.refl _ | assumption | apply ite_fr | apply itep_fr
    | apply State.set_fr | apply foldl_fr | intro _
    | (extract_lets +onlyGivenNames x; first | (have hx : Frame F r0 x := ?_; clear_value x) | (have hx : Frame F r0 x.1 := ?_; clear_value x) | (have hf := fun a => x a; clear hf) | (have hf : CiphState := x; clear hf) | (have hf : SecState := x; clear hf) | clear_value x)
    | split

theorem State.writePpsEn_fr {F : Nat} {r0 : State} (s : State) (v : Bool) (h0 : Frame F r0 s)
    (hF : F &&& 17 = 17 := by first | decide | exact sub_of (by assumption) (by decide)) : Frame F r0
    (State.writePpsEn s v).1 := by
  unfold State.writePpsEn
  with_reducible repeat' first
    | assumption | exact sub_of hF (by decide) | apply ite_fr | apply itep_fr | apply State.setB_fr
    | apply State.raise_fr | exact Frame.refl _

/-! ### Lfr.lean -/

theorem State.showEgress_fr {F : Nat} {r0 : State} (s : State) (n : Lane) (h0 : Frame F r0 s)
    (hF : F &&& 1 = 1 := by first | decide | exact sub_of (by assumption) (by decide)) : Frame F r0 (State.showEgress
    s n) := by
  unfold State.showEgress
  with_reducible repeat' first
    | assumption | exact Frame.refl _ | exact sub_of hF (by decide) | apply ite_fr | apply State.setB_fr | split
    | refine Frame.raw ?_

theorem State.kscRefresh_fr {F : Nat} {r0 : State} (s : State) (h0 : Frame F r0 s)
    (hF : F &&& 1 = 1 := by first | decide | exact sub_of (by assumption) (by decide)) : Frame F r0 (State.kscRefresh
    s) := by
  unfold State.kscRefresh
  with_reducible repeat' first
    | assumption | intro _ | exact Frame.refl _ | subst x
    | (extract_lets +onlyGivenNames x; first | (have hx : Frame F r0 x := ?_; clear_value x) | (have hx : Frame F r0 x.1 := ?_; clear_value x) | (have hf := fun a => x a; clear hf) | (have hf : CiphState := x; clear hf) | (have hf : SecState := x; clear hf) | (have hf : LevelSeq := x; clear hf) | (have hf : CstState := x; clear hf) | clear_value x)
    | apply ite_fr | apply State.eachLane_fr_of | apply State.showEgress_fr | dsimp only | split
    | exact sub_of hF (by decide)

theorem State.tapDefect_fr {F : Nat} {r0 : State} (s : State) (n : Lane) (h0 : Frame F r0 s)
    (hF : F &&& 12582912 = 12582912 := by first | decide | exact sub_of (by assumption) (by decide)) : Frame F r0
    (State.tapDefect s n) := by
  unfold State.tapDefect
  with_reducible repeat' first
    | assumption | intro _ | exact Frame.refl _ | subst x
    | (extract_lets +onlyGivenNames x; first | (have hx : Frame F r0 x := ?_; clear_value x) | (have hx : Frame F r0 x.1 := ?_; clear_value x) | (have hf := fun a => x a; clear hf) | (have hf : CiphState := x; clear hf) | (have hf : SecState := x; clear hf) | (have hf : LevelSeq := x; clear hf) | (have hf : CstState := x; clear hf) | clear_value x)
    | apply ite_fr | apply State.modCst_fr | dsimp only | split | exact sub_of hF (by decide)

theorem State.lfrDefects_fr {F : Nat} {r0 : State} (s : State) (n : Lane) (h0 : Frame F r0 s)
    (hF : F &&& 12584081 = 12584081 := by first | decide | exact sub_of (by assumption) (by decide)) : Frame F r0
    (State.lfrDefects s n) := by
  unfold State.lfrDefects
  with_reducible repeat' first
    | assumption | intro _ | exact Frame.refl _ | subst x
    | (extract_lets +onlyGivenNames x; first | (have hx : Frame F r0 x := ?_; clear_value x) | (have hx : Frame F r0 x.1 := ?_; clear_value x) | (have hf := fun a => x a; clear hf) | (have hf : CiphState := x; clear hf) | (have hf : SecState := x; clear hf) | (have hf : LevelSeq := x; clear hf) | (have hf : CstState := x; clear hf) | clear_value x)
    | apply ite_fr | apply State.setB_fr | apply State.modTx_fr | apply State.raiseIf_fr | apply State.touch_fr
    | apply State.showEgress_fr | apply State.tapDefect_fr | dsimp only | split | exact sub_of hF (by decide)

theorem State.periodEnd_fr {F : Nat} {r0 : State} (s : State) (n : Lane) (h0 : Frame F r0 s)
    (hF : F &&& 1025 = 1025 := by first | decide | exact sub_of (by assumption) (by decide)) : Frame F r0
    (State.periodEnd s n) := by
  unfold State.periodEnd
  with_reducible repeat' first
    | assumption | intro _ | exact Frame.refl _ | subst x
    | (extract_lets +onlyGivenNames x; first | (have hx : Frame F r0 x := ?_; clear_value x) | (have hx : Frame F r0 x.1 := ?_; clear_value x) | (have hf := fun a => x a; clear hf) | (have hf : CiphState := x; clear hf) | (have hf : SecState := x; clear hf) | (have hf : LevelSeq := x; clear hf) | (have hf : CstState := x; clear hf) | clear_value x)
    | apply ite_fr | apply State.modPmon_fr | apply State.pathBlock_fr | apply State.tribBlock_fr
    | apply foldl_fr_of | dsimp only | split | exact sub_of hF (by decide)

theorem State.periodCut_fr {F : Nat} {r0 : State} (s : State) (n : Lane) (h0 : Frame F r0 s)
    (hF : F &&& 1025 = 1025 := by first | decide | exact sub_of (by assumption) (by decide)) : Frame F r0
    (State.periodCut s n) := by
  unfold State.periodCut
  with_reducible repeat' first
    | assumption | intro _ | exact Frame.refl _ | subst x
    | (extract_lets +onlyGivenNames x; first | (have hx : Frame F r0 x := ?_; clear_value x) | (have hx : Frame F r0 x.1 := ?_; clear_value x) | (have hf := fun a => x a; clear hf) | (have hf : CiphState := x; clear hf) | (have hf : SecState := x; clear hf) | (have hf : LevelSeq := x; clear hf) | (have hf : CstState := x; clear hf) | clear_value x)
    | apply ite_fr | apply State.modPmon_fr | apply State.periodEnd_fr | dsimp only | split
    | exact sub_of hF (by decide)

theorem State.lfrAlignAway_fr {F : Nat} {r0 : State} (s : State) (n : Lane) (align : Nat) (cands : List Cand) (h0 :
    Frame F r0 s)
    (hF : F &&& 46139281 = 46139281 := by first | decide | exact sub_of (by assumption) (by decide)) : Frame F r0
    (State.lfrAlignAway s n align cands) := by
  unfold State.lfrAlignAway
  with_reducible repeat' first
    | assumption | intro _ | exact Frame.refl _ | subst x
    | (extract_lets +onlyGivenNames x; first | (have hx : Frame F r0 x := ?_; clear_value x) | (have hx : Frame F r0 x.1 := ?_; clear_value x) | (have hf := fun a => x a; clear hf) | (have hf : CiphState := x; clear hf) | (have hf : SecState := x; clear hf) | (have hf : LevelSeq := x; clear hf) | (have hf : CstState := x; clear hf) | clear_value x)
    | apply ite_fr | apply State.set_fr | apply State.setB_fr | apply State.modTx_fr | apply State.modLfr_fr
    | apply State.fecInFrame_fr | apply State.ttfRow_fr | apply State.lfrDefects_fr | apply State.periodCut_fr
    | dsimp only | split | exact sub_of hF (by decide)

theorem State.lfrLos_fr {F : Nat} {r0 : State} (s : State) (n : Lane) (v : Bool) (h0 : Frame F r0 s)
    (hF : F &&& 46139281 = 46139281 := by first | decide | exact sub_of (by assumption) (by decide)) : Frame F r0
    (State.lfrLos s n v) := by
  unfold State.lfrLos
  with_reducible repeat' first
    | assumption | exact sub_of hF (by decide) | apply ite_fr | apply State.setB_fr | apply State.touch_fr
    | apply State.lfrAlignAway_fr | apply State.raise_fr | apply State.lfrDefects_fr

theorem State.familyTurn_fr {F : Nat} {r0 : State} (s : State) (n : Lane) (h0 : Frame F r0 s)
    (hF : F &&& 46139281 = 46139281 := by first | decide | exact sub_of (by assumption) (by decide)) : Frame F r0
    (State.familyTurn s n) := by
  unfold State.familyTurn
  with_reducible repeat' first
    | assumption | intro _ | exact Frame.refl _ | subst x
    | (extract_lets +onlyGivenNames x; first | (have hx : Frame F r0 x := ?_; clear_value x) | (have hx : Frame F r0 x.1 := ?_; clear_value x) | (have hf := fun a => x a; clear hf) | (have hf : CiphState := x; clear hf) | (have hf : SecState := x; clear hf) | (have hf : LevelSeq := x; clear hf) | (have hf : CstState := x; clear hf) | clear_value x)
    | apply ite_fr | apply State.setNat_fr | apply State.setWide_fr | apply State.modPmon_fr
    | apply State.showBridged_fr | apply State.fecFlush_fr | apply State.lfrAlignAway_fr | apply foldl_fr_of
    | dsimp only | split | exact sub_of hF (by decide)

theorem State.sdWindow_fr {F : Nat} {r0 : State} (s : State) (n : Lane) (h0 : Frame F r0 s)
    (hF : F &&& 529 = 529 := by first | decide | exact sub_of (by assumption) (by decide)) : Frame F r0
    (State.sdWindow s n) := by
  unfold State.sdWindow
  with_reducible repeat' first
    | assumption | intro _ | exact Frame.refl _ | subst x
    | (extract_lets +onlyGivenNames x; first | (have hx : Frame F r0 x := ?_; clear_value x) | (have hx : Frame F r0 x.1 := ?_; clear_value x) | (have hf := fun a => x a; clear hf) | (have hf : CiphState := x; clear hf) | (have hf : SecState := x; clear hf) | (have hf : LevelSeq := x; clear hf) | (have hf : CstState := x; clear hf) | clear_value x)
    | apply ite_fr | apply State.setB_fr | apply State.modLfr_fr | apply State.raise_fr | dsimp only | split
    | exact sub_of hF (by decide)

theorem State.sdCount_fr {F : Nat} {r0 : State} (s : State) (n : Lane) (h0 : Frame F r0 s)
    (hF : F &&& 529 = 529 := by first | decide | exact sub_of (by assumption) (by decide)) : Frame F r0
    (State.sdCount s n) := by
  unfold State.sdCount
  with_reducible repeat' first
    | assumption | intro _ | exact Frame.refl _ | subst x
    | (extract_lets +onlyGivenNames x; first | (have hx : Frame F r0 x := ?_; clear_value x) | (have hx : Frame F r0 x.1 := ?_; clear_value x) | (have hf := fun a => x a; clear hf) | (have hf : CiphState := x; clear hf) | (have hf : SecState := x; clear hf) | (have hf : LevelSeq := x; clear hf) | (have hf : CstState := x; clear hf) | clear_value x)
    | apply ite_fr | apply State.modLfr_fr | apply State.sdWindow_fr | dsimp only | split
    | exact sub_of hF (by decide)

theorem State.aisApply_fr {F : Nat} {r0 : State} (s : State) (n : Lane) (h0 : Frame F r0 s)
    (hF : F &&& 1 = 1 := by first | decide | exact sub_of (by assumption) (by decide)) : Frame F r0 (State.aisApply s
    n) := by
  unfold State.aisApply
  with_reducible repeat' first
    | assumption | exact sub_of hF (by decide) | exact Frame.refl _ | assumption | apply ite_fr | apply itep_fr
    | apply State.setB_fr | apply foldl_fr | intro _
    | (extract_lets +onlyGivenNames x; first | (have hx : Frame F r0 x := ?_; clear_value x) | (have hx : Frame F r0 x.1 := ?_; clear_value x) | (have hf := fun a => x a; clear hf) | (have hf : CiphState := x; clear hf) | (have hf : SecState := x; clear hf) | clear_value x)
    | split

theorem State.setSlotDefect_fr {F : Nat} {r0 : State} (s : State) (n : Lane) (f alarm : Fld) (v : Bool) (h0 : Frame F
    r0 s) (hF : F &&& 1041 = 1041 := by first | decide | exact sub_of (by assumption) (by decide)) : Frame F r0
    (State.setSlotDefect s n f alarm v) := by
  unfold State.setSlotDefect
  with_reducible repeat' first
    | assumption | exact sub_of hF (by decide) | apply ite_fr | apply State.touch_fr | apply State.raiseIf_fr
    | apply State.setB_fr

theorem State.slotAnswer_fr {F : Nat} {r0 : State} (s : State) (n : Lane) (j : Nat) (h0 : Frame F r0 s)
    (hF : F &&& 128 = 128 := by first | decide | exact sub_of (by assumption) (by decide)) : Frame F r0
    (State.slotAnswer s n j) := by
  unfold State.slotAnswer
  with_reducible repeat' first
    | assumption | intro _ | exact Frame.refl _ | subst x
    | (extract_lets +onlyGivenNames x; first | (have hx : Frame F r0 x := ?_; clear_value x) | (have hx : Frame F r0 x.1 := ?_; clear_value x) | (have hf := fun a => x a; clear hf) | (have hf : CiphState := x; clear hf) | (have hf : SecState := x; clear hf) | (have hf : LevelSeq := x; clear hf) | (have hf : CstState := x; clear hf) | clear_value x)
    | apply ite_fr | apply State.modTx_fr | dsimp only | split | exact sub_of hF (by decide)

end Sys2Proof.Machine
end

