-- ==== Sys2Proof/Laws/FrameCiph.lean ====
section
/-!
SUPPORT. Which parts of the state an operation leaves as they are: CIPH and CLI.
-/

-- one theorem after another: all at once would not fit the memory
set_option Elab.async false
set_option linter.all false

namespace Sys2Proof.Machine

/-! ### Ciph.lean -/

theorem State.setWordsFrom_fr {F : Nat} {r0 : State} (s : State) (a n v : Nat) (h0 : Frame F r0 s)
    (hF : F &&& 1 = 1 := by first | decide | exact sub_of (by assumption) (by decide)) : Frame F r0
    (State.setWordsFrom s a n v) := by
  unfold State.setWordsFrom
  with_reducible repeat' first
    | assumption | exact sub_of hF (by decide) | exact Frame.refl _ | assumption | apply ite_fr | apply itep_fr
    | apply State.setNat_fr | apply foldl_fr | intro _
    | (extract_lets +onlyGivenNames x; first | (have hx : Frame F r0 x := ?_; clear_value x) | (have hx : Frame F r0 x.1 := ?_; clear_value x) | (have hf := fun a => x a; clear hf) | (have hf : CiphState := x; clear hf) | (have hf : SecState := x; clear hf) | clear_value x)
    | split

theorem State.setCtxI_fr {F : Nat} {r0 : State} (s : State) (c i : Nat) (h0 : Frame F r0 s)
    (hF : F &&& 1 = 1 := by first | decide | exact sub_of (by assumption) (by decide)) : Frame F r0 (State.setCtxI s c
    i) := by
  unfold State.setCtxI
  with_reducible repeat' first | assumption | exact sub_of hF (by decide) | apply State.setWide_fr

theorem State.modCtx_fr {F : Nat} {r0 : State} (s : State) (c : Nat) (f : Ctx → Ctx) (h0 : Frame F r0 s)
    (hF : F &&& 134217728 = 134217728 := by first | decide | exact sub_of (by assumption) (by decide)) : Frame F r0
    (State.modCtx s c f) :=
  Frame.raw h0

theorem State.ctxStop_fr {F : Nat} {r0 : State} (s : State) (c code : Nat) (h0 : Frame F r0 s)
    (hF : F &&& 134217745 = 134217745 := by first | decide | exact sub_of (by assumption) (by decide)) : Frame F r0
    (State.ctxStop s c code) := by
  unfold State.ctxStop
  with_reducible repeat' first
    | assumption | exact sub_of hF (by decide) | apply ite_fr | apply State.raise_fr | apply State.modCtx_fr

theorem State.keyResult_fr {F : Nat} {r0 : State} (s : State) (by_ : Source) (slot code : Nat) (h0 : Frame F r0 s)
    (hF : F &&& 134217744 = 134217744 := by first | decide | exact sub_of (by assumption) (by decide)) : Frame F r0
    (State.keyResult s by_ slot code) := by
  unfold State.keyResult
  with_reducible repeat' first
    | assumption | exact Frame.refl _ | exact id_fr _ | assumption | apply ite_fr | apply itep_fr
    | apply State.answer_fr | apply foldl_fr | apply foldlp_fr | intro _
    | (extract_lets +onlyGivenNames x; first | (have hx : Frame F r0 x := ?_; clear_value x) | (have hx : Frame F r0 x.1 := ?_; clear_value x) | (have hf := fun a => x a; clear hf) | (have hf : CiphState := x; clear hf) | (have hf : SecState := x; clear hf) | clear_value x)
    | subst x | dsimp only | (apply fst_fr; assumption) | split | refine Frame.raw ?_ | exact sub_of hF (by decide)

theorem State.keyLoad_fr {F : Nat} {r0 : State} (s : State) (slot key : Nat) (allowed : Bool) (h0 : Frame F r0 s)
    (hF : F &&& 134217745 = 134217745 := by first | decide | exact sub_of (by assumption) (by decide)) : Frame F r0
    (State.keyLoad s slot key allowed).1 := by
  unfold State.keyLoad
  with_reducible repeat' first
    | assumption | exact Frame.refl _ | exact id_fr _ | assumption | apply ite_fr | apply itep_fr
    | apply State.raise_fr | apply foldl_fr | apply foldlp_fr | intro _
    | (extract_lets +onlyGivenNames x; first | (have hx : Frame F r0 x := ?_; clear_value x) | (have hx : Frame F r0 x.1 := ?_; clear_value x) | (have hf := fun a => x a; clear hf) | (have hf : CiphState := x; clear hf) | (have hf : SecState := x; clear hf) | clear_value x)
    | subst x | dsimp only | (apply fst_fr; assumption) | split | refine Frame.raw ?_ | exact sub_of hF (by decide)

theorem State.ciphWrite_fr {F : Nat} {r0 : State} (s : State) (by_ : Source) (a : Nat) (act : State → State) (k_act :
    ∀ x0, Frame F x0 (act x0)) (h0 : Frame F r0 s)
    (hF : F &&& 17 = 17 := by first | decide | exact sub_of (by assumption) (by decide)) : Frame F r0 (State.ciphWrite
    s by_ a act) := by
  unfold State.ciphWrite
  with_reducible repeat' first
    | assumption | exact sub_of hF (by decide) | exact Frame.refl _ | assumption | apply ite_fr | apply itep_fr
    | apply State.byWrite_fr | apply State.answer_fr | apply foldl_fr | intro _ | refine Frame.trans ?_ (k_act _)
    | (extract_lets +onlyGivenNames x; first | (have hx : Frame F r0 x := ?_; clear_value x) | (have hx : Frame F r0 x.1 := ?_; clear_value x) | (have hf := fun a => x a; clear hf) | (have hf : CiphState := x; clear hf) | (have hf : SecState := x; clear hf) | clear_value x)
    | split

theorem State.loadClear_fr {F : Nat} {r0 : State} (s : State) (by_ : Source) (slot key : Nat) (h0 : Frame F r0 s)
    (hF : F &&& 134217745 = 134217745 := by first | decide | exact sub_of (by assumption) (by decide)) : Frame F r0
    (State.loadClear s by_ slot key) := by
  unfold State.loadClear
  with_reducible repeat' first
    | assumption | exact sub_of hF (by decide) | apply State.keyLoad_fr | apply State.keyResult_fr

theorem State.bufPut_fr {F : Nat} {r0 : State} (s : State) (ofs : Nat) (bs : List Byte) (h0 : Frame F r0 s)
    (hF : F &&& 2113553 = 2113553 := by first | decide | exact sub_of (by assumption) (by decide)) : Frame F r0
    (State.bufPut s ofs bs) := by
  unfold State.bufPut
  with_reducible repeat' first
    | assumption | exact sub_of hF (by decide) | exact Frame.refl _ | assumption | apply ite_fr | apply itep_fr
    | apply State.winTouch_fr | apply State.set_fr | apply foldl_fr | intro _
    | (extract_lets +onlyGivenNames x; first | (have hx : Frame F r0 x := ?_; clear_value x) | (have hx : Frame F r0 x.1 := ?_; clear_value x) | (have hf := fun a => x a; clear hf) | (have hf : CiphState := x; clear hf) | (have hf : SecState := x; clear hf) | clear_value x)
    | split

theorem State.jobEnd_fr {F : Nat} {r0 : State} (s : State) (j code out : Nat) (h0 : Frame F r0 s)
    (hF : F &&& 134217729 = 134217729 := by first | decide | exact sub_of (by assumption) (by decide)) : Frame F r0
    (State.jobEnd s j code out) := by
  unfold State.jobEnd
  with_reducible repeat' first
    | assumption | intro _ | exact Frame.refl _ | subst x
    | (extract_lets +onlyGivenNames x; first | (have hx : Frame F r0 x := ?_; clear_value x) | (have hx : Frame F r0 x.1 := ?_; clear_value x) | (have hf := fun a => x a; clear hf) | (have hf : CiphState := x; clear hf) | (have hf : SecState := x; clear hf) | (have hf : LevelSeq := x; clear hf) | (have hf : CstState := x; clear hf) | clear_value x)
    | apply ite_fr | apply State.set_fr | apply State.setNat_fr | apply State.modCtx_fr | dsimp only | split
    | refine Frame.raw ?_ | exact sub_of hF (by decide)

theorem State.jobWipe_fr {F : Nat} {r0 : State} (s : State) (j : Nat) (h0 : Frame F r0 s)
    (hF : F &&& 2113553 = 2113553 := by first | decide | exact sub_of (by assumption) (by decide)) : Frame F r0
    (State.jobWipe s j) := by
  unfold State.jobWipe
  with_reducible repeat' first | assumption | exact sub_of hF (by decide) | apply ite_fr | apply State.bufPut_fr | split

theorem State.zeroise_fr {F : Nat} {r0 : State} (s : State) (p : Nat → Bool) (h0 : Frame F r0 s)
    (hF : F &&& 136331281 = 136331281 := by first | decide | exact sub_of (by assumption) (by decide)) : Frame F r0
    (State.zeroise s p) := by
  unfold State.zeroise
  with_reducible repeat' first
    | assumption | intro _ | exact Frame.refl _ | subst x
    | (extract_lets +onlyGivenNames x; first | (have hx : Frame F r0 x := ?_; clear_value x) | (have hx : Frame F r0 x.1 := ?_; clear_value x) | (have hf := fun a => x a; clear hf) | (have hf : CiphState := x; clear hf) | (have hf : SecState := x; clear hf) | (have hf : LevelSeq := x; clear hf) | (have hf : CstState := x; clear hf) | clear_value x)
    | apply ite_fr | apply State.set_fr | apply State.modCtx_fr | apply State.ctxStop_fr | apply State.jobEnd_fr
    | apply State.jobWipe_fr | apply foldl_fr_of | dsimp only | split | refine Frame.raw ?_
    | exact sub_of hF (by decide)

theorem State.zeroiseSlot_fr {F : Nat} {r0 : State} (s : State) (by_ : Source) (slot : Nat) (h0 : Frame F r0 s)
    (hF : F &&& 136331281 = 136331281 := by first | decide | exact sub_of (by assumption) (by decide)) : Frame F r0
    (State.zeroiseSlot s by_ slot) := by
  unfold State.zeroiseSlot
  with_reducible repeat' first
    | assumption | exact sub_of hF (by decide) | apply State.keyResult_fr | apply State.raise_fr
    | apply State.zeroise_fr

theorem State.zeroAll_fr {F : Nat} {r0 : State} (s : State) (h0 : Frame F r0 s)
    (hF : F &&& 136331281 = 136331281 := by first | decide | exact sub_of (by assumption) (by decide)) : Frame F r0
    (State.zeroAll s) := by
  unfold State.zeroAll
  with_reducible repeat' first
    | assumption | exact Frame.refl _ | exact id_fr _ | assumption | apply ite_fr | apply itep_fr
    | apply State.zeroise_fr | apply foldl_fr | apply foldlp_fr | intro _
    | (extract_lets +onlyGivenNames x; first | (have hx : Frame F r0 x := ?_; clear_value x) | (have hx : Frame F r0 x.1 := ?_; clear_value x) | (have hf := fun a => x a; clear hf) | (have hf : CiphState := x; clear hf) | (have hf : SecState := x; clear hf) | clear_value x)
    | subst x | dsimp only | (apply fst_fr; assumption) | split | refine Frame.raw ?_ | exact sub_of hF (by decide)

theorem State.loadIv_fr {F : Nat} {r0 : State} (s : State) (c : Nat) (iv i : Nat) (h0 : Frame F r0 s)
    (hF : F &&& 134217729 = 134217729 := by first | decide | exact sub_of (by assumption) (by decide)) : Frame F r0
    (State.loadIv s c iv i) := by
  unfold State.loadIv
  with_reducible repeat' first
    | assumption | intro _ | exact Frame.refl _ | subst x
    | (extract_lets +onlyGivenNames x; first | (have hx : Frame F r0 x := ?_; clear_value x) | (have hx : Frame F r0 x.1 := ?_; clear_value x) | (have hf := fun a => x a; clear hf) | (have hf : CiphState := x; clear hf) | (have hf : SecState := x; clear hf) | (have hf : LevelSeq := x; clear hf) | (have hf : CstState := x; clear hf) | clear_value x)
    | apply ite_fr | apply State.setWordsFrom_fr | apply State.setCtxI_fr | apply State.modCtx_fr | dsimp only
    | split | exact sub_of hF (by decide)

theorem State.directIv_fr {F : Nat} {r0 : State} (s : State) (c iv : Nat) (h0 : Frame F r0 s)
    (hF : F &&& 134217745 = 134217745 := by first | decide | exact sub_of (by assumption) (by decide)) : Frame F r0
    (State.directIv s c iv).1 := by
  unfold State.directIv
  with_reducible repeat' first
    | assumption | exact sub_of hF (by decide) | apply ite_fr | apply itep_fr | apply State.raise_fr
    | apply State.loadIv_fr | apply State.modCtx_fr | exact Frame.refl _

theorem State.ctxCount_fr {F : Nat} {r0 : State} (s : State) (c k n : Nat) (h0 : Frame F r0 s)
    (hF : F &&& 16385 = 16385 := by first | decide | exact sub_of (by assumption) (by decide)) : Frame F r0
    (State.ctxCount s c k n) := by
  unfold State.ctxCount
  with_reducible repeat' first | assumption | exact sub_of hF (by decide) | apply State.addCnt_fr

theorem State.stoppedUnit_fr {F : Nat} {r0 : State} (s : State) (last : Option (Bool × Nat)) (words : List Nat) (h0 :
    Frame F r0 s)
    (hF : F &&& 8 = 8 := by first | decide | exact sub_of (by assumption) (by decide)) : Frame F r0
    (State.stoppedUnit s last words).1 := by
  unfold State.stoppedUnit
  with_reducible repeat' first
    | assumption | intro _ | exact Frame.refl _ | subst x
    | (extract_lets +onlyGivenNames x; first | (have hx : Frame F r0 x := ?_; clear_value x) | (have hx : Frame F r0 x.1 := ?_; clear_value x) | (have hf := fun a => x a; clear hf) | (have hf : CiphState := x; clear hf) | (have hf : SecState := x; clear hf) | (have hf : LevelSeq := x; clear hf) | (have hf : CstState := x; clear hf) | clear_value x)
    | apply ite_fr | apply itep_fr | apply State.takeFree_fr | dsimp only | (apply fst_fr; assumption) | split
    | exact sub_of hF (by decide)

theorem State.encUnit_fr {F : Nat} {r0 : State} (s : State) (n : Nat) (g : Mapped) (words : List Nat) (h0 : Frame F
    r0 s)
    (hF : F &&& 134234137 = 134234137 := by first | decide | exact sub_of (by assumption) (by decide)) : Frame F r0
    (State.encUnit s n g words).1 := by
  unfold State.encUnit
  with_reducible repeat' first
    | assumption | intro _ | exact Frame.refl _ | subst x
    | (extract_lets +onlyGivenNames x; first | (have hx : Frame F r0 x := ?_; clear_value x) | (have hx : Frame F r0 x.1 := ?_; clear_value x) | (have hf := fun a => x a; clear hf) | (have hf : CiphState := x; clear hf) | (have hf : SecState := x; clear hf) | (have hf : LevelSeq := x; clear hf) | (have hf : CstState := x; clear hf) | clear_value x)
    | apply ite_fr | apply itep_fr | apply State.setCtxI_fr | apply State.modCtx_fr | apply State.ctxStop_fr
    | apply State.ctxCount_fr | apply State.stoppedUnit_fr | dsimp only | (apply fst_fr; assumption) | split
    | exact sub_of hF (by decide)

theorem State.decUnit_fr {F : Nat} {r0 : State} (s : State) (n : Nat) (g : Mapped) (words : List Nat) (errored : Bool)
    (period : Nat) (h0 : Frame F r0 s)
    (hF : F &&& 134234129 = 134234129 := by first | decide | exact sub_of (by assumption) (by decide)) : Frame F r0
    (State.decUnit s n g words errored period).1 := by
  unfold State.decUnit
  with_reducible repeat' first
    | assumption | exact sub_of hF (by decide) | exact Frame.refl _ | assumption | apply ite_fr | apply itep_fr
    | apply State.ctxCount_fr | apply State.ctxStop_fr | apply State.modCtx_fr | apply State.setCtxI_fr
    | apply State.raise_fr | apply foldl_fr | intro _
    | (extract_lets +onlyGivenNames x; first | (have hx : Frame F r0 x := ?_; clear_value x) | (have hx : Frame F r0 x.1 := ?_; clear_value x) | (have hf := fun a => x a; clear hf) | (have hf : CiphState := x; clear hf) | (have hf : SecState := x; clear hf) | clear_value x)
    | split

theorem State.ctxJobsEnd_fr {F : Nat} {r0 : State} (s : State) (c : Nat) (h0 : Frame F r0 s)
    (hF : F &&& 134217729 = 134217729 := by first | decide | exact sub_of (by assumption) (by decide)) : Frame F r0
    (State.ctxJobsEnd s c) := by
  unfold State.ctxJobsEnd
  with_reducible repeat' first
    | assumption | intro _ | exact Frame.refl _ | subst x
    | (extract_lets +onlyGivenNames x; first | (have hx : Frame F r0 x := ?_; clear_value x) | (have hx : Frame F r0 x.1 := ?_; clear_value x) | (have hf := fun a => x a; clear hf) | (have hf : CiphState := x; clear hf) | (have hf : SecState := x; clear hf) | (have hf : LevelSeq := x; clear hf) | (have hf : CstState := x; clear hf) | clear_value x)
    | apply ite_fr | apply State.jobEnd_fr | apply foldl_fr_of | dsimp only | split | exact sub_of hF (by decide)

theorem State.ctxStart_fr {F : Nat} {r0 : State} (s : State) (c : Nat) (h0 : Frame F r0 s)
    (hF : F &&& 134217745 = 134217745 := by first | decide | exact sub_of (by assumption) (by decide)) : Frame F r0
    (State.ctxStart s c) := by
  unfold State.ctxStart
  with_reducible repeat' first
    | assumption | exact sub_of hF (by decide) | apply ite_fr | apply State.loadIv_fr | apply State.modCtx_fr
    | apply State.ctxStop_fr

theorem State.ctxStays_fr {F : Nat} {r0 : State} (s : State) (c st : Nat) (h0 : Frame F r0 s)
    (hF : F &&& 134217728 = 134217728 := by first | decide | exact sub_of (by assumption) (by decide)) : Frame F r0
    (State.ctxStays s c st) := by
  unfold State.ctxStays
  with_reducible repeat' first
    | assumption | intro _ | exact Frame.refl _ | subst x
    | (extract_lets +onlyGivenNames x; first | (have hx : Frame F r0 x := ?_; clear_value x) | (have hx : Frame F r0 x.1 := ?_; clear_value x) | (have hf := fun a => x a; clear hf) | (have hf : CiphState := x; clear hf) | (have hf : SecState := x; clear hf) | (have hf : LevelSeq := x; clear hf) | (have hf : CstState := x; clear hf) | clear_value x)
    | apply ite_fr | apply State.modCtx_fr | dsimp only | split | exact sub_of hF (by decide)

theorem State.rollover_fr {F : Nat} {r0 : State} (s : State) (c : Nat) (h0 : Frame F r0 s)
    (hF : F &&& 134217745 = 134217745 := by first | decide | exact sub_of (by assumption) (by decide)) : Frame F r0
    (State.rollover s c) := by
  unfold State.rollover
  with_reducible repeat' first
    | assumption | intro _ | exact Frame.refl _ | subst x
    | (extract_lets +onlyGivenNames x; first | (have hx : Frame F r0 x := ?_; clear_value x) | (have hx : Frame F r0 x.1 := ?_; clear_value x) | (have hf := fun a => x a; clear hf) | (have hf : CiphState := x; clear hf) | (have hf : SecState := x; clear hf) | (have hf : LevelSeq := x; clear hf) | (have hf : CstState := x; clear hf) | clear_value x)
    | apply ite_fr | apply State.set_fr | apply State.setWordsFrom_fr | apply State.modCtx_fr
    | apply State.ctxStop_fr | apply State.ctxStart_fr | apply State.ctxStays_fr | dsimp only | split
    | exact sub_of hF (by decide)

theorem State.unblockFor_fr {F : Nat} {r0 : State} (s : State) (c : Nat) (h0 : Frame F r0 s)
    (hF : F &&& 134217728 = 134217728 := by first | decide | exact sub_of (by assumption) (by decide)) : Frame F r0
    (State.unblockFor s c) := by
  unfold State.unblockFor
  with_reducible repeat' first
    | assumption | intro _ | exact Frame.refl _ | subst x
    | (extract_lets +onlyGivenNames x; first | (have hx : Frame F r0 x := ?_; clear_value x) | (have hx : Frame F r0 x.1 := ?_; clear_value x) | (have hf := fun a => x a; clear hf) | (have hf : CiphState := x; clear hf) | (have hf : SecState := x; clear hf) | (have hf : LevelSeq := x; clear hf) | (have hf : CstState := x; clear hf) | clear_value x)
    | apply ite_fr | dsimp only | split | refine Frame.raw ?_ | exact sub_of hF (by decide)

theorem State.ctxRebound_fr {F : Nat} {r0 : State} (s before : State) (c : Nat) (h0 : Frame F r0 s)
    (hF : F &&& 134217728 = 134217728 := by first | decide | exact sub_of (by assumption) (by decide)) : Frame F r0
    (State.ctxRebound s before c) := by
  unfold State.ctxRebound
  with_reducible repeat' first
    | assumption | intro _ | exact Frame.refl _ | subst x
    | (extract_lets +onlyGivenNames x; first | (have hx : Frame F r0 x := ?_; clear_value x) | (have hx : Frame F r0 x.1 := ?_; clear_value x) | (have hf := fun a => x a; clear hf) | (have hf : CiphState := x; clear hf) | (have hf : SecState := x; clear hf) | (have hf : LevelSeq := x; clear hf) | (have hf : CstState := x; clear hf) | clear_value x)
    | apply ite_fr | apply State.modCtx_fr | dsimp only | split | exact sub_of hF (by decide)

theorem State.ctxCourse_fr {F : Nat} {r0 : State} (s before : State) (c : Nat) (iv key : Bool) (h0 : Frame F r0 s)
    (hF : F &&& 134217745 = 134217745 := by first | decide | exact sub_of (by assumption) (by decide)) : Frame F r0
    (State.ctxCourse s before c iv key) := by
  unfold State.ctxCourse
  with_reducible repeat' first
    | assumption | intro _ | exact Frame.refl _ | subst x
    | (extract_lets +onlyGivenNames x; first | (have hx : Frame F r0 x := ?_; clear_value x) | (have hx : Frame F r0 x.1 := ?_; clear_value x) | (have hf := fun a => x a; clear hf) | (have hf : CiphState := x; clear hf) | (have hf : SecState := x; clear hf) | (have hf : LevelSeq := x; clear hf) | (have hf : CstState := x; clear hf) | clear_value x)
    | apply ite_fr | apply State.setCtxI_fr | apply State.modCtx_fr | apply State.loadIv_fr
    | apply State.ctxJobsEnd_fr | apply State.ctxStart_fr | apply State.rollover_fr | apply State.unblockFor_fr
    | apply State.ctxRebound_fr | dsimp only | split | exact sub_of hF (by decide)

theorem State.queueJob_fr {F : Nat} {r0 : State} (s : State) (by_ : Source) (j : Nat) (h0 : Frame F r0 s)
    (hF : F &&& 134217745 = 134217745 := by first | decide | exact sub_of (by assumption) (by decide)) : Frame F r0
    (State.queueJob s by_ j) := by
  unfold State.queueJob
  with_reducible repeat' first
    | assumption | intro _ | exact Frame.refl _ | subst x
    | (extract_lets +onlyGivenNames x; first | (have hx : Frame F r0 x := ?_; clear_value x) | (have hx : Frame F r0 x.1 := ?_; clear_value x) | (have hf := fun a => x a; clear hf) | (have hf : CiphState := x; clear hf) | (have hf : SecState := x; clear hf) | (have hf : LevelSeq := x; clear hf) | (have hf : CstState := x; clear hf) | clear_value x)
    | apply ite_fr | apply State.set_fr | apply State.setB_fr | apply State.setNat_fr | apply State.answer_fr
    | apply State.jobEnd_fr | dsimp only | split | refine Frame.raw ?_ | exact sub_of hF (by decide)

theorem State.putJob_fr {F : Nat} {r0 : State} (s : State) (j op : Nat) (d : JobDesc) (h0 : Frame F r0 s)
    (hF : F &&& 1 = 1 := by first | decide | exact sub_of (by assumption) (by decide)) : Frame F r0 (State.putJob s j
    op d) := by
  unfold State.putJob
  with_reducible repeat' first | assumption | exact sub_of hF (by decide) | apply State.setNat_fr

theorem State.submit_fr {F : Nat} {r0 : State} (s : State) (by_ : Source) (j op : Nat) (d : JobDesc) (h0 : Frame F r0
    s)
    (hF : F &&& 136331281 = 136331281 := by first | decide | exact sub_of (by assumption) (by decide)) : Frame F r0
    (State.submit s by_ j op d) := by
  unfold State.submit
  with_reducible repeat' first
    | assumption | intro _ | exact Frame.refl _ | subst x
    | (extract_lets +onlyGivenNames x; first | (have hx : Frame F r0 x := ?_; clear_value x) | (have hx : Frame F r0 x.1 := ?_; clear_value x) | (have hf := fun a => x a; clear hf) | (have hf : CiphState := x; clear hf) | (have hf : SecState := x; clear hf) | (have hf : LevelSeq := x; clear hf) | (have hf : CstState := x; clear hf) | clear_value x)
    | apply ite_fr | apply State.answer_fr | apply State.ciphWrite_fr | apply State.bufPut_fr
    | apply State.queueJob_fr | apply State.putJob_fr | dsimp only | split | exact sub_of hF (by decide)

theorem State.openMsg_fr {F : Nat} {r0 : State} (s : State) (j : Nat) (h0 : Frame F r0 s)
    (hF : F &&& 134217728 = 134217728 := by first | decide | exact sub_of (by assumption) (by decide)) : Frame F r0
    (State.openMsg s j) := by
  unfold State.openMsg
  with_reducible repeat' first
    | assumption | intro _ | exact Frame.refl _ | subst x
    | (extract_lets +onlyGivenNames x; first | (have hx : Frame F r0 x := ?_; clear_value x) | (have hx : Frame F r0 x.1 := ?_; clear_value x) | (have hf := fun a => x a; clear hf) | (have hf : CiphState := x; clear hf) | (have hf : SecState := x; clear hf) | (have hf : LevelSeq := x; clear hf) | (have hf : CstState := x; clear hf) | clear_value x)
    | apply ite_fr | apply State.modCtx_fr | dsimp only | split | exact sub_of hF (by decide)

theorem State.jobRun_fr {F : Nat} {r0 : State} (s : State) (j key h m k : Nat) (h0 : Frame F r0 s)
    (hF : F &&& 136331281 = 136331281 := by first | decide | exact sub_of (by assumption) (by decide)) :
    Frame F r0 (s.jobRun j key h m k) := by
  induction m generalizing s k with
  | zero => exact h0
  | succ m ih =>
    unfold State.jobRun
    exact ih _ _ (State.bufPut_fr _ _ _ (State.modCtx_fr _ _ _ h0))

theorem State.jobTo_fr {F : Nat} {r0 : State} (s : State) (j upTo : Nat) (h0 : Frame F r0 s)
    (hF : F &&& 136331281 = 136331281 := by first | decide | exact sub_of (by assumption) (by decide)) : Frame F r0
    (State.jobTo s j upTo) := by
  unfold State.jobTo
  with_reducible repeat' first
    | assumption | exact Frame.refl _ | exact id_fr _ | assumption | apply ite_fr | apply itep_fr
    | apply State.jobRun_fr | apply foldl_fr | apply foldlp_fr | intro _
    | (extract_lets +onlyGivenNames x; first | (have hx : Frame F r0 x := ?_; clear_value x) | (have hx : Frame F r0 x.1 := ?_; clear_value x) | (have hf := fun a => x a; clear hf) | (have hf : CiphState := x; clear hf) | (have hf : SecState := x; clear hf) | clear_value x)
    | subst x | dsimp only | (apply fst_fr; assumption) | split | refine Frame.raw ?_ | exact sub_of hF (by decide)

theorem State.setJob_fr {F : Nat} {r0 : State} (s : State) (j : Nat) (r : JobRun) (h0 : Frame F r0 s)
    (hF : F &&& 134217729 = 134217729 := by first | decide | exact sub_of (by assumption) (by decide)) : Frame F r0
    (State.setJob s j r) := by
  unfold State.setJob
  with_reducible repeat' first
    | assumption | exact Frame.refl _ | exact id_fr _ | assumption | apply ite_fr | apply itep_fr | apply State.set_fr
    | apply foldl_fr | apply foldlp_fr | intro _
    | (extract_lets +onlyGivenNames x; first | (have hx : Frame F r0 x := ?_; clear_value x) | (have hx : Frame F r0 x.1 := ?_; clear_value x) | (have hf := fun a => x a; clear hf) | (have hf : CiphState := x; clear hf) | (have hf : SecState := x; clear hf) | clear_value x)
    | subst x | dsimp only | (apply fst_fr; assumption) | split | refine Frame.raw ?_ | exact sub_of hF (by decide)

theorem State.jobsTo_fr {F : Nat} {r0 : State} (s : State) (c : Nat) (h0 : Frame F r0 s)
    (hF : F &&& 136331281 = 136331281 := by first | decide | exact sub_of (by assumption) (by decide)) : Frame F r0
    (State.jobsTo s c) := by
  unfold State.jobsTo
  with_reducible repeat' first
    | assumption | intro _ | exact Frame.refl _ | subst x
    | (extract_lets +onlyGivenNames x; first | (have hx : Frame F r0 x := ?_; clear_value x) | (have hx : Frame F r0 x.1 := ?_; clear_value x) | (have hf := fun a => x a; clear hf) | (have hf : CiphState := x; clear hf) | (have hf : SecState := x; clear hf) | (have hf : LevelSeq := x; clear hf) | (have hf : CstState := x; clear hf) | clear_value x)
    | apply ite_fr | apply State.jobTo_fr | apply foldl_fr_of | dsimp only | split | refine Frame.raw ?_
    | exact sub_of hF (by decide)

theorem State.suspend_fr {F : Nat} {r0 : State} (s : State) (j : Nat) (r : JobRun) (h0 : Frame F r0 s)
    (hF : F &&& 144719893 = 144719893 := by first | decide | exact sub_of (by assumption) (by decide)) : Frame F r0
    (State.suspend s j r) := by
  unfold State.suspend
  with_reducible repeat' first
    | assumption | intro _ | exact Frame.refl _ | subst x
    | (extract_lets +onlyGivenNames x; first | (have hx : Frame F r0 x := ?_; clear_value x) | (have hx : Frame F r0 x.1 := ?_; clear_value x) | (have hf := fun a => x a; clear hf) | (have hf : CiphState := x; clear hf) | (have hf : SecState := x; clear hf) | (have hf : LevelSeq := x; clear hf) | (have hf : CstState := x; clear hf) | clear_value x)
    | apply ite_fr | apply State.waitClk_fr | apply State.modCtx_fr | apply State.jobTo_fr | apply State.setJob_fr
    | dsimp only | split | exact sub_of hF (by decide)

theorem State.startJob_fr {F : Nat} {r0 : State} (s : State) (j : Nat) (r : JobRun) (h0 : Frame F r0 s)
    (hF : F &&& 134217745 = 134217745 := by first | decide | exact sub_of (by assumption) (by decide)) : Frame F r0
    (State.startJob s j r) := by
  unfold State.startJob
  with_reducible repeat' first
    | assumption | intro _ | exact Frame.refl _ | subst x
    | (extract_lets +onlyGivenNames x; first | (have hx : Frame F r0 x := ?_; clear_value x) | (have hx : Frame F r0 x.1 := ?_; clear_value x) | (have hf := fun a => x a; clear hf) | (have hf : CiphState := x; clear hf) | (have hf : SecState := x; clear hf) | (have hf : LevelSeq := x; clear hf) | (have hf : CstState := x; clear hf) | clear_value x)
    | apply ite_fr | apply State.modCtx_fr | apply State.ctxStop_fr | apply State.jobEnd_fr | apply State.openMsg_fr
    | apply State.setJob_fr | dsimp only | split | exact sub_of hF (by decide)

theorem State.restore_fr {F : Nat} {r0 : State} (s : State) (c : Nat) (img : List Byte) (h0 : Frame F r0 s)
    (hF : F &&& 134217745 = 134217745 := by first | decide | exact sub_of (by assumption) (by decide)) : Frame F r0
    (State.restore s c img).1 := by
  unfold State.restore
  with_reducible repeat' first
    | assumption | exact sub_of hF (by decide) | apply ite_fr | apply itep_fr | apply State.raise_fr
    | apply State.setCtxI_fr | apply State.setWordsFrom_fr | apply State.modCtx_fr | exact Frame.refl _

theorem State.closeMsg_fr {F : Nat} {r0 : State} (s : State) (j : Nat) (h0 : Frame F r0 s)
    (hF : F &&& 136331281 = 136331281 := by first | decide | exact sub_of (by assumption) (by decide)) : Frame F r0
    (State.closeMsg s j).1 := by
  unfold State.closeMsg
  with_reducible repeat' first
    | assumption | intro _ | exact Frame.refl _ | subst x
    | (extract_lets +onlyGivenNames x; first | (have hx : Frame F r0 x := ?_; clear_value x) | (have hx : Frame F r0 x.1 := ?_; clear_value x) | (have hf := fun a => x a; clear hf) | (have hf : CiphState := x; clear hf) | (have hf : SecState := x; clear hf) | (have hf : LevelSeq := x; clear hf) | (have hf : CstState := x; clear hf) | clear_value x)
    | apply ite_fr | apply itep_fr | apply State.raise_fr | apply State.setCtxI_fr | apply State.modCtx_fr
    | apply State.bufPut_fr | apply State.ctxCount_fr | dsimp only | (apply fst_fr; assumption) | split
    | exact sub_of hF (by decide)

theorem State.kwJob_fr {F : Nat} {r0 : State} (s : State) (j : Nat) (h0 : Frame F r0 s)
    (hF : F &&& 136331281 = 136331281 := by first | decide | exact sub_of (by assumption) (by decide)) : Frame F r0
    (State.kwJob s j).1 := by
  unfold State.kwJob
  with_reducible repeat' first
    | assumption | exact sub_of hF (by decide) | exact Frame.refl _ | assumption | apply ite_fr | apply itep_fr
    | apply State.bufPut_fr | apply State.keyLoad_fr | apply State.restore_fr | apply foldl_fr | intro _
    | (extract_lets +onlyGivenNames x; first | (have hx : Frame F r0 x := ?_; clear_value x) | (have hx : Frame F r0 x.1 := ?_; clear_value x) | (have hf := fun a => x a; clear hf) | (have hf : CiphState := x; clear hf) | (have hf : SecState := x; clear hf) | clear_value x)
    | split

theorem State.ciphReset_fr {F : Nat} {r0 : State} (s : State) (h0 : Frame F r0 s)
    (hF : F &&& 136331281 = 136331281 := by first | decide | exact sub_of (by assumption) (by decide)) : Frame F r0
    (State.ciphReset s) := by
  unfold State.ciphReset
  with_reducible repeat' first
    | assumption | intro _ | exact Frame.refl _ | subst x
    | (extract_lets +onlyGivenNames x; first | (have hx : Frame F r0 x := ?_; clear_value x) | (have hx : Frame F r0 x.1 := ?_; clear_value x) | (have hf := fun a => x a; clear hf) | (have hf : CiphState := x; clear hf) | (have hf : SecState := x; clear hf) | (have hf : LevelSeq := x; clear hf) | (have hf : CstState := x; clear hf) | clear_value x)
    | apply ite_fr | apply State.jobEnd_fr | apply State.jobWipe_fr | apply foldl_fr_of | dsimp only | split
    | refine Frame.raw ?_ | exact sub_of hF (by decide)

/-! ### Cli.lean -/

theorem State.modPort_fr {F : Nat} {r0 : State} (s : State) (p : Nat) (f : PortState → PortState) (h0 : Frame F r0 s)
    (hF : F &&& 65536 = 65536 := by first | decide | exact sub_of (by assumption) (by decide)) : Frame F r0
    (State.modPort s p f) :=
  Frame.raw h0

theorem State.portCount_fr {F : Nat} {r0 : State} (s : State) (p j k : Nat) (h0 : Frame F r0 s)
    (hF : F &&& 16385 = 16385 := by first | decide | exact sub_of (by assumption) (by decide)) : Frame F r0
    (State.portCount s p j k) := by
  unfold State.portCount
  with_reducible repeat' first | assumption | exact sub_of hF (by decide) | apply ite_fr | apply State.addCnt_fr

theorem State.portAlarm_fr {F : Nat} {r0 : State} (s : State) (f : Fld) (h0 : Frame F r0 s)
    (hF : F &&& 17 = 17 := by first | decide | exact sub_of (by assumption) (by decide)) : Frame F r0 (State.portAlarm
    s f) := by
  unfold State.portAlarm
  with_reducible repeat' first | assumption | exact sub_of hF (by decide) | apply State.raise_fr

theorem State.showPorts_fr {F : Nat} {r0 : State} (s : State) (h0 : Frame F r0 s)
    (hF : F &&& 1 = 1 := by first | decide | exact sub_of (by assumption) (by decide)) : Frame F r0 (State.showPorts
    s) := by
  unfold State.showPorts
  with_reducible repeat' first | assumption | exact sub_of hF (by decide) | apply State.set_fr

theorem State.portEnter_fr {F : Nat} {r0 : State} (s : State) (p st : Nat) (h0 : Frame F r0 s)
    (hF : F &&& 67108865 = 67108865 := by first | decide | exact sub_of (by assumption) (by decide)) : Frame F r0
    (State.portEnter s p st) := by
  unfold State.portEnter
  with_reducible repeat' first
    | assumption | exact Frame.refl _ | exact sub_of hF (by decide) | apply ite_fr | apply State.set_fr
    | apply State.ptpPorts_fr | apply State.showPorts_fr | split | refine Frame.raw ?_

theorem State.portRefresh_fr {F : Nat} {r0 : State} (s : State) (p : Nat) (h0 : Frame F r0 s)
    (hF : F &&& 79757313 = 79757313 := by first | decide | exact sub_of (by assumption) (by decide)) : Frame F r0
    (State.portRefresh s p) := by
  unfold State.portRefresh
  with_reducible repeat' first
    | assumption | exact sub_of hF (by decide) | apply ite_fr | apply State.set_fr | apply State.portEnter_fr
    | apply State.setB_fr | apply State.tapGone_fr | apply State.modPort_fr

theorem State.groupsRefresh_fr {F : Nat} {r0 : State} (s : State) (h0 : Frame F r0 s)
    (hF : F &&& 79757313 = 79757313 := by first | decide | exact sub_of (by assumption) (by decide)) : Frame F r0
    (State.groupsRefresh s) := by
  unfold State.groupsRefresh
  with_reducible repeat' first
    | assumption | exact sub_of hF (by decide) | exact Frame.refl _ | assumption | apply ite_fr | apply itep_fr
    | apply State.setB_fr | apply State.portRefresh_fr | apply foldl_fr | intro _
    | (extract_lets +onlyGivenNames x; first | (have hx : Frame F r0 x := ?_; clear_value x) | (have hx : Frame F r0 x.1 := ?_; clear_value x) | (have hf := fun a => x a; clear hf) | (have hf : CiphState := x; clear hf) | (have hf : SecState := x; clear hf) | clear_value x)
    | split

theorem State.modFlow_fr {F : Nat} {r0 : State} (s : State) (f : Nat) (g : FlowState → FlowState) (h0 : Frame F r0 s)
    (hF : F &&& 65536 = 65536 := by first | decide | exact sub_of (by assumption) (by decide)) : Frame F r0
    (State.modFlow s f g) :=
  Frame.raw h0

theorem State.showFlow_fr {F : Nat} {r0 : State} (s : State) (f : Nat) (h0 : Frame F r0 s)
    (hF : F &&& 1 = 1 := by first | decide | exact sub_of (by assumption) (by decide)) : Frame F r0 (State.showFlow s
    f) := by
  unfold State.showFlow
  with_reducible repeat' first
    | assumption | intro _ | exact Frame.refl _ | subst x
    | (extract_lets +onlyGivenNames x; first | (have hx : Frame F r0 x := ?_; clear_value x) | (have hx : Frame F r0 x.1 := ?_; clear_value x) | (have hf := fun a => x a; clear hf) | (have hf : CiphState := x; clear hf) | (have hf : SecState := x; clear hf) | (have hf : LevelSeq := x; clear hf) | (have hf : CstState := x; clear hf) | clear_value x)
    | apply ite_fr | apply State.set_fr | apply State.setB_fr | dsimp only | split | exact sub_of hF (by decide)

theorem State.flowOvf_fr {F : Nat} {r0 : State} (s : State) (f : Nat) (h0 : Frame F r0 s)
    (hF : F &&& 17 = 17 := by first | decide | exact sub_of (by assumption) (by decide)) : Frame F r0 (State.flowOvf s
    f) := by
  unfold State.flowOvf
  with_reducible repeat' first
    | assumption | exact sub_of hF (by decide) | apply State.raise_fr | apply State.addCnt32_fr

theorem State.flowPush_fr {F : Nat} {r0 : State} (s : State) (f : Nat) (bytes : List Byte) (kind : Nat) (h0 : Frame F
    r0 s)
    (hF : F &&& 65553 = 65553 := by first | decide | exact sub_of (by assumption) (by decide)) : Frame F r0
    (State.flowPush s f bytes kind) := by
  unfold State.flowPush
  with_reducible repeat' first
    | assumption | intro _ | exact Frame.refl _ | subst x
    | (extract_lets +onlyGivenNames x; first | (have hx : Frame F r0 x := ?_; clear_value x) | (have hx : Frame F r0 x.1 := ?_; clear_value x) | (have hf := fun a => x a; clear hf) | (have hf : CiphState := x; clear hf) | (have hf : SecState := x; clear hf) | (have hf : LevelSeq := x; clear hf) | (have hf : CstState := x; clear hf) | clear_value x)
    | apply ite_fr | apply State.modFlow_fr | apply State.flowOvf_fr | dsimp only | split
    | exact sub_of hF (by decide)

theorem State.flowFrame_fr {F : Nat} {r0 : State} (s : State) (f : Nat) (bytes : List Byte) (err : Bool) (h0 : Frame
    F r0 s)
    (hF : F &&& 65681 = 65681 := by first | decide | exact sub_of (by assumption) (by decide)) : Frame F r0
    (State.flowFrame s f bytes err) := by
  unfold State.flowFrame
  with_reducible repeat' first
    | assumption | intro _ | exact Frame.refl _ | subst x
    | (extract_lets +onlyGivenNames x; first | (have hx : Frame F r0 x := ?_; clear_value x) | (have hx : Frame F r0 x.1 := ?_; clear_value x) | (have hf := fun a => x a; clear hf) | (have hf : CiphState := x; clear hf) | (have hf : SecState := x; clear hf) | (have hf : LevelSeq := x; clear hf) | (have hf : CstState := x; clear hf) | clear_value x)
    | apply ite_fr | apply State.modTx_fr | apply State.emit_fr | apply State.modFlow_fr | apply State.showFlow_fr
    | apply State.flowPush_fr | dsimp only | split | exact sub_of hF (by decide)

theorem State.flowIdle_fr {F : Nat} {r0 : State} (s : State) (f n lf : Nat) (h0 : Frame F r0 s)
    (hF : F &&& 65536 = 65536 := by first | decide | exact sub_of (by assumption) (by decide)) : Frame F r0
    (State.flowIdle s f n lf) := by
  unfold State.flowIdle
  with_reducible repeat' first
    | assumption | intro _ | exact Frame.refl _ | subst x
    | (extract_lets +onlyGivenNames x; first | (have hx : Frame F r0 x := ?_; clear_value x) | (have hx : Frame F r0 x.1 := ?_; clear_value x) | (have hf := fun a => x a; clear hf) | (have hf : CiphState := x; clear hf) | (have hf : SecState := x; clear hf) | (have hf : LevelSeq := x; clear hf) | (have hf : CstState := x; clear hf) | clear_value x)
    | apply ite_fr | apply State.modFlow_fr | dsimp only | split | exact sub_of hF (by decide)

theorem State.flowRelease_fr {F : Nat} {r0 : State} (s : State) (f n lf : Nat) (h0 : Frame F r0 s)
    (hF : F &&& 65553 = 65553 := by first | decide | exact sub_of (by assumption) (by decide)) : Frame F r0
    (State.flowRelease s f n lf) := by
  unfold State.flowRelease
  with_reducible repeat' first
    | assumption | intro _ | exact Frame.refl _ | subst x
    | (extract_lets +onlyGivenNames x; first | (have hx : Frame F r0 x := ?_; clear_value x) | (have hx : Frame F r0 x.1 := ?_; clear_value x) | (have hf := fun a => x a; clear hf) | (have hf : CiphState := x; clear hf) | (have hf : SecState := x; clear hf) | (have hf : LevelSeq := x; clear hf) | (have hf : CstState := x; clear hf) | clear_value x)
    | apply ite_fr | apply State.modFlow_fr | apply State.flowPush_fr | apply State.flowIdle_fr | apply foldl_fr_of
    | dsimp only | split | exact sub_of hF (by decide)

theorem State.flowPad_fr {F : Nat} {r0 : State} (s : State) (f n : Nat) (h0 : Frame F r0 s)
    (hF : F &&& 65536 = 65536 := by first | decide | exact sub_of (by assumption) (by decide)) : Frame F r0
    (State.flowPad s f n) := by
  unfold State.flowPad
  with_reducible repeat' first | assumption | exact sub_of hF (by decide) | apply ite_fr | apply State.modFlow_fr

theorem State.flowWords_fr {F : Nat} {r0 : State} (s : State) (f d : Nat) (h0 : Frame F r0 s)
    (hF : F &&& 65536 = 65536 := by first | decide | exact sub_of (by assumption) (by decide)) : Frame F r0
    (State.flowWords s f d).1 := by
  unfold State.flowWords
  with_reducible repeat' first
    | assumption | exact sub_of hF (by decide) | apply ite_fr | apply State.flowPad_fr | apply State.modFlow_fr
    | split

theorem State.otnWords_fr {F : Nat} {r0 : State} (s : State) (f d : Nat) (h0 : Frame F r0 s)
    (hF : F &&& 65536 = 65536 := by first | decide | exact sub_of (by assumption) (by decide)) : Frame F r0
    (State.otnWords s f d).1 := by
  unfold State.otnWords
  with_reducible repeat' first
    | assumption | exact sub_of hF (by decide) | apply ite_fr | apply State.modFlow_fr | split

theorem State.adapt_fr {F : Nat} {r0 : State} (s : State) (f d : Nat) (h0 : Frame F r0 s)
    (hF : F &&& 65536 = 65536 := by first | decide | exact sub_of (by assumption) (by decide)) : Frame F r0
    (State.adapt s f d).1 := by
  unfold State.adapt
  with_reducible repeat' first
    | assumption | exact sub_of hF (by decide) | apply ite_fr | apply State.otnWords_fr | apply State.flowWords_fr
    | split

theorem State.flexeReplace_fr {F : Nat} {r0 : State} (s : State) (p : Nat) (m : Nat × Nat × Nat) (h0 : Frame F r0 s)
    (hF : F &&& 65552 = 65552 := by first | decide | exact sub_of (by assumption) (by decide)) : Frame F r0
    (State.flexeReplace s p m) := by
  unfold State.flexeReplace
  with_reducible repeat' first
    | assumption | intro _ | exact Frame.refl _ | subst x
    | (extract_lets +onlyGivenNames x; first | (have hx : Frame F r0 x := ?_; clear_value x) | (have hx : Frame F r0 x.1 := ?_; clear_value x) | (have hf := fun a => x a; clear hf) | (have hf : CiphState := x; clear hf) | (have hf : SecState := x; clear hf) | (have hf : LevelSeq := x; clear hf) | (have hf : CstState := x; clear hf) | clear_value x)
    | apply ite_fr | apply State.emit_fr | apply State.modFlow_fr | dsimp only | split | exact sub_of hF (by decide)

theorem State.showFault_fr {F : Nat} {r0 : State} (s : State) (p : Nat) (h0 : Frame F r0 s)
    (hF : F &&& 17 = 17 := by first | decide | exact sub_of (by assumption) (by decide)) : Frame F r0
    (State.showFault s p) := by
  unfold State.showFault
  with_reducible repeat' first
    | assumption | intro _ | exact Frame.refl _ | subst x
    | (extract_lets +onlyGivenNames x; first | (have hx : Frame F r0 x := ?_; clear_value x) | (have hx : Frame F r0 x.1 := ?_; clear_value x) | (have hf := fun a => x a; clear hf) | (have hf : CiphState := x; clear hf) | (have hf : SecState := x; clear hf) | (have hf : LevelSeq := x; clear hf) | (have hf : CstState := x; clear hf) | clear_value x)
    | apply ite_fr | apply State.setB_fr | apply State.emit_fr | dsimp only | split | exact sub_of hF (by decide)

theorem State.faultAction_fr {F : Nat} {r0 : State} (s : State) (p : Nat) (h0 : Frame F r0 s)
    (hF : F &&& 65553 = 65553 := by first | decide | exact sub_of (by assumption) (by decide)) : Frame F r0
    (State.faultAction s p) := by
  unfold State.faultAction
  with_reducible repeat' first
    | assumption | intro _ | exact Frame.refl _ | subst x
    | (extract_lets +onlyGivenNames x; first | (have hx : Frame F r0 x := ?_; clear_value x) | (have hx : Frame F r0 x.1 := ?_; clear_value x) | (have hf := fun a => x a; clear hf) | (have hf : CiphState := x; clear hf) | (have hf : SecState := x; clear hf) | (have hf : LevelSeq := x; clear hf) | (have hf : CstState := x; clear hf) | clear_value x)
    | apply ite_fr | apply State.flexeReplace_fr | apply State.showFault_fr | apply foldl_fr_of | dsimp only | split
    | exact sub_of hF (by decide)

theorem State.egressFrame_fr {F : Nat} {r0 : State} (s : State) (f cfg : Nat) (bytes : List Byte) (invert : Bool) (h0
    : Frame F r0 s)
    (hF : F &&& 12664849 = 12664849 := by first | decide | exact sub_of (by assumption) (by decide)) : Frame F r0
    (State.egressFrame s f cfg bytes invert) := by
  unfold State.egressFrame
  with_reducible repeat' first
    | assumption | intro _ | exact Frame.refl _ | subst x
    | (extract_lets +onlyGivenNames x; first | (have hx : Frame F r0 x := ?_; clear_value x) | (have hx : Frame F r0 x.1 := ?_; clear_value x) | (have hf := fun a => x a; clear hf) | (have hf : CiphState := x; clear hf) | (have hf : SecState := x; clear hf) | (have hf : LevelSeq := x; clear hf) | (have hf : CstState := x; clear hf) | clear_value x)
    | apply ite_fr | apply State.emit_fr | apply State.tapPort_fr | apply State.modPort_fr
    | apply State.portCount_fr | apply State.portAlarm_fr | dsimp only | split | exact sub_of hF (by decide)

theorem State.flowRx_fr {F : Nat} {r0 : State} (s : State) (f : Nat) (ws : List (Nat × Bool)) (h0 : Frame F r0 s)
    (hF : F &&& 65536 = 65536 := by first | decide | exact sub_of (by assumption) (by decide)) : Frame F r0
    (State.flowRx s f ws) := by
  unfold State.flowRx
  with_reducible repeat' first
    | assumption | intro _ | exact Frame.refl _ | subst x
    | (extract_lets +onlyGivenNames x; first | (have hx : Frame F r0 x := ?_; clear_value x) | (have hx : Frame F r0 x.1 := ?_; clear_value x) | (have hf := fun a => x a; clear hf) | (have hf : CiphState := x; clear hf) | (have hf : SecState := x; clear hf) | (have hf : LevelSeq := x; clear hf) | (have hf : CstState := x; clear hf) | clear_value x)
    | apply ite_fr | apply State.modFlow_fr | dsimp only | split | exact sub_of hF (by decide)

theorem State.otnRx_fr {F : Nat} {r0 : State} (s : State) (f p : Nat) (ws : List (Nat × Bool)) (h0 : Frame F r0 s)
    (hF : F &&& 12664857 = 12664857 := by first | decide | exact sub_of (by assumption) (by decide)) : Frame F r0
    (State.otnRx s f p ws) := by
  unfold State.otnRx
  with_reducible repeat' first
    | assumption | intro _ | exact Frame.refl _ | subst x
    | (extract_lets +onlyGivenNames x; first | (have hx : Frame F r0 x := ?_; clear_value x) | (have hx : Frame F r0 x.1 := ?_; clear_value x) | (have hf := fun a => x a; clear hf) | (have hf : CiphState := x; clear hf) | (have hf : SecState := x; clear hf) | (have hf : LevelSeq := x; clear hf) | (have hf : CstState := x; clear hf) | clear_value x)
    | apply ite_fr | apply State.emit_fr | apply State.takeFree_fr | apply State.tapPort_fr | apply State.modPort_fr
    | apply State.portCount_fr | apply State.portAlarm_fr | apply State.modFlow_fr | apply State.showFlow_fr
    | dsimp only | split | exact sub_of hF (by decide)

theorem State.sink_fr {F : Nat} {r0 : State} (s : State) (g : Mapped) (ws : List (Nat × Bool)) (h0 : Frame F r0 s)
    (hF : F &&& 12664857 = 12664857 := by first | decide | exact sub_of (by assumption) (by decide)) : Frame F r0
    (State.sink s g ws) := by
  unfold State.sink
  with_reducible repeat' first
    | assumption | exact sub_of hF (by decide) | apply ite_fr | apply State.otnRx_fr | apply State.flowRx_fr

theorem State.loadCalendar_fr {F : Nat} {r0 : State} (s : State) (k : Nat) (h0 : Frame F r0 s)
    (hF : F &&& 65537 = 65537 := by first | decide | exact sub_of (by assumption) (by decide)) : Frame F r0
    (State.loadCalendar s k) := by
  unfold State.loadCalendar
  with_reducible repeat' first
    | assumption | exact Frame.refl _ | exact id_fr _ | assumption | apply ite_fr | apply itep_fr
    | apply State.setB_fr | apply foldl_fr | apply foldlp_fr | intro _
    | (extract_lets +onlyGivenNames x; first | (have hx : Frame F r0 x := ?_; clear_value x) | (have hx : Frame F r0 x.1 := ?_; clear_value x) | (have hf := fun a => x a; clear hf) | (have hf : CiphState := x; clear hf) | (have hf : SecState := x; clear hf) | clear_value x)
    | subst x | dsimp only | (apply fst_fr; assumption) | split | refine Frame.raw ?_ | exact sub_of hF (by decide)

theorem State.typesFollow_fr {F : Nat} {r0 : State} (s : State) (ports : List Nat) (h0 : Frame F r0 s)
    (hF : F &&& 65537 = 65537 := by first | decide | exact sub_of (by assumption) (by decide)) : Frame F r0
    (State.typesFollow s ports) := by
  unfold State.typesFollow
  with_reducible repeat' first
    | assumption | intro _ | exact Frame.refl _ | subst x
    | (extract_lets +onlyGivenNames x; first | (have hx : Frame F r0 x := ?_; clear_value x) | (have hx : Frame F r0 x.1 := ?_; clear_value x) | (have hf := fun a => x a; clear hf) | (have hf : CiphState := x; clear hf) | (have hf : SecState := x; clear hf) | (have hf : LevelSeq := x; clear hf) | (have hf : CstState := x; clear hf) | clear_value x)
    | apply ite_fr | apply State.showFlow_fr | apply foldl_fr_of | dsimp only | split | refine Frame.raw ?_
    | exact sub_of hF (by decide)

theorem State.flexeCourse_fr {F : Nat} {r0 : State} (s : State) (k : Nat) (h0 : Frame F r0 s)
    (hF : F &&& 1 = 1 := by first | decide | exact sub_of (by assumption) (by decide)) : Frame F r0
    (State.flexeCourse s k) := by
  unfold State.flexeCourse
  with_reducible repeat' first
    | assumption | exact Frame.refl _ | exact sub_of hF (by decide) | apply ite_fr | apply State.setB_fr | split
    | refine Frame.raw ?_

theorem State.portCourse_fr {F : Nat} {r0 : State} (s before : State) (p : Nat) (h0 : Frame F r0 s)
    (hF : F &&& 79757313 = 79757313 := by first | decide | exact sub_of (by assumption) (by decide)) : Frame F r0
    (State.portCourse s before p) := by
  unfold State.portCourse
  with_reducible repeat' first
    | assumption | exact sub_of hF (by decide) | apply ite_fr | apply State.tapChange_fr | apply State.portRefresh_fr
    | apply State.setReg_fr | apply State.setB_fr

theorem State.flowCourse_fr {F : Nat} {r0 : State} (s before : State) (f : Nat) (h0 : Frame F r0 s)
    (hF : F &&& 65537 = 65537 := by first | decide | exact sub_of (by assumption) (by decide)) : Frame F r0
    (State.flowCourse s before f) := by
  unfold State.flowCourse
  with_reducible repeat' first
    | assumption | intro _ | exact Frame.refl _ | subst x
    | (extract_lets +onlyGivenNames x; first | (have hx : Frame F r0 x := ?_; clear_value x) | (have hx : Frame F r0 x.1 := ?_; clear_value x) | (have hf := fun a => x a; clear hf) | (have hf : CiphState := x; clear hf) | (have hf : SecState := x; clear hf) | (have hf : LevelSeq := x; clear hf) | (have hf : CstState := x; clear hf) | clear_value x)
    | apply ite_fr | apply State.modFlow_fr | apply State.showFlow_fr | dsimp only | split
    | exact sub_of hF (by decide)

theorem State.cliReset_fr {F : Nat} {r0 : State} (s : State) (g : Nat) (h0 : Frame F r0 s)
    (hF : F &&& 79757313 = 79757313 := by first | decide | exact sub_of (by assumption) (by decide)) : Frame F r0
    (State.cliReset s g) := by
  unfold State.cliReset
  with_reducible repeat' first
    | assumption | exact sub_of hF (by decide) | exact Frame.refl _ | assumption | apply ite_fr | apply itep_fr
    | apply State.setB_fr | apply State.portRefresh_fr | apply State.modFlow_fr | apply foldl_fr | intro _
    | (extract_lets +onlyGivenNames x; first | (have hx : Frame F r0 x := ?_; clear_value x) | (have hx : Frame F r0 x.1 := ?_; clear_value x) | (have hf := fun a => x a; clear hf) | (have hf : CiphState := x; clear hf) | (have hf : SecState := x; clear hf) | clear_value x)
    | split

theorem State.clientItemsIn_fr {F : Nat} {r0 : State} (s before : State) (addrs : List Nat) (h0 : Frame F r0 s)
    (hF : F &&& 79757313 = 79757313 := by first | decide | exact sub_of (by assumption) (by decide)) : Frame F r0
    (State.clientItemsIn s before addrs) := by
  unfold State.clientItemsIn
  with_reducible repeat' first
    | assumption | intro _ | exact Frame.refl _ | subst x
    | (extract_lets +onlyGivenNames x; first | (have hx : Frame F r0 x := ?_; clear_value x) | (have hx : Frame F r0 x.1 := ?_; clear_value x) | (have hf := fun a => x a; clear hf) | (have hf : CiphState := x; clear hf) | (have hf : SecState := x; clear hf) | (have hf : LevelSeq := x; clear hf) | (have hf : CstState := x; clear hf) | clear_value x)
    | apply ite_fr | apply State.loadCalendar_fr | apply State.typesFollow_fr | apply State.flexeCourse_fr
    | apply State.portCourse_fr | apply foldl_fr_of | dsimp only | split | exact sub_of hF (by decide)

end Sys2Proof.Machine
end

