-- ==== Sys2Proof/Laws/FrameLane.lean ====
section
/-!
SUPPORT. Which parts of the state an operation leaves as they are: CONV, RXD, TXD, KSC and HKM.
-/

-- one theorem after another: all at once would not fit the memory
set_option Elab.async false
set_option linter.all false

namespace Sys2Proof.Machine

/-! ### Conv.lean -/

theorem State.setSpare_fr {F : Nat} {r0 : State} (s : State) (n : Lane) (k : Nat) (r : SpareRun) (h0 : Frame F r0 s)
    (hF : F &&& 33 = 33 := by first | decide | exact sub_of (by assumption) (by decide)) : Frame F r0 (State.setSpare
    s n k r) := by
  unfold State.setSpare
  with_reducible repeat' first | assumption | exact sub_of hF (by decide) | apply State.setB_fr | apply State.modConv_fr

theorem State.spareIdle_fr {F : Nat} {r0 : State} (s : State) (n : Lane) (k : Nat) (h0 : Frame F r0 s)
    (hF : F &&& 33 = 33 := by first | decide | exact sub_of (by assumption) (by decide)) : Frame F r0
    (State.spareIdle s n k) := by
  unfold State.spareIdle
  with_reducible repeat' first
    | assumption | intro _ | exact Frame.refl _ | subst x
    | (extract_lets +onlyGivenNames x; first | (have hx : Frame F r0 x := ?_; clear_value x) | (have hx : Frame F r0 x.1 := ?_; clear_value x) | (have hf := fun a => x a; clear hf) | (have hf : CiphState := x; clear hf) | (have hf : SecState := x; clear hf) | (have hf : LevelSeq := x; clear hf) | (have hf : CstState := x; clear hf) | clear_value x)
    | apply ite_fr | apply State.set_fr | apply State.modConv_fr | apply State.setSpare_fr | dsimp only | split
    | exact sub_of hF (by decide)

theorem State.spareLoad_fr {F : Nat} {r0 : State} (s : State) (n : Lane) (k pos : Nat) (h0 : Frame F r0 s)
    (hF : F &&& 32 = 32 := by first | decide | exact sub_of (by assumption) (by decide)) : Frame F r0
    (State.spareLoad s n k pos) := by
  unfold State.spareLoad
  with_reducible repeat' first
    | assumption | intro _ | exact Frame.refl _ | subst x
    | (extract_lets +onlyGivenNames x; first | (have hx : Frame F r0 x := ?_; clear_value x) | (have hx : Frame F r0 x.1 := ?_; clear_value x) | (have hf := fun a => x a; clear hf) | (have hf : CiphState := x; clear hf) | (have hf : SecState := x; clear hf) | (have hf : LevelSeq := x; clear hf) | (have hf : CstState := x; clear hf) | clear_value x)
    | apply ite_fr | apply State.modConv_fr | dsimp only | split | exact sub_of hF (by decide)

theorem State.spareTake_fr {F : Nat} {r0 : State} (s : State) (n : Lane) (k pos : Nat) (retire : Bool) (h0 : Frame F
    r0 s)
    (hF : F &&& 33 = 33 := by first | decide | exact sub_of (by assumption) (by decide)) : Frame F r0
    (State.spareTake s n k pos retire) := by
  unfold State.spareTake
  with_reducible repeat' first
    | assumption | exact Frame.refl _ | exact sub_of hF (by decide) | apply ite_fr | apply State.setSpare_fr
    | apply State.spareLoad_fr | split | refine Frame.raw ?_

theorem State.sparesReload_fr {F : Nat} {r0 : State} (s : State) (n : Lane) (h0 : Frame F r0 s)
    (hF : F &&& 32 = 32 := by first | decide | exact sub_of (by assumption) (by decide)) : Frame F r0
    (State.sparesReload s n) := by
  unfold State.sparesReload
  with_reducible repeat' first
    | assumption | intro _ | exact Frame.refl _ | subst x
    | (extract_lets +onlyGivenNames x; first | (have hx : Frame F r0 x := ?_; clear_value x) | (have hx : Frame F r0 x.1 := ?_; clear_value x) | (have hf := fun a => x a; clear hf) | (have hf : CiphState := x; clear hf) | (have hf : SecState := x; clear hf) | (have hf : LevelSeq := x; clear hf) | (have hf : CstState := x; clear hf) | clear_value x)
    | apply ite_fr | apply State.spareLoad_fr | apply foldl_fr_of | dsimp only | split | exact sub_of hF (by decide)

theorem State.sparesEnd_fr {F : Nat} {r0 : State} (s : State) (n : Lane) (sd : Side) (h0 : Frame F r0 s)
    (hF : F &&& 49 = 49 := by first | decide | exact sub_of (by assumption) (by decide)) : Frame F r0 (State.sparesEnd
    s n sd) := by
  unfold State.sparesEnd
  with_reducible repeat' first
    | assumption | exact sub_of hF (by decide) | exact Frame.refl _ | assumption | apply ite_fr | apply itep_fr
    | apply State.raise_fr | apply State.modConv_fr | apply State.spareIdle_fr | apply foldl_fr | intro _
    | (extract_lets +onlyGivenNames x; first | (have hx : Frame F r0 x := ?_; clear_value x) | (have hx : Frame F r0 x.1 := ?_; clear_value x) | (have hf := fun a => x a; clear hf) | (have hf : CiphState := x; clear hf) | (have hf : SecState := x; clear hf) | clear_value x)
    | split

theorem State.convMove_fr {F : Nat} {r0 : State} (s : State) (n : Lane) (sd : Side) (st : Nat) (h0 : Frame F r0 s)
    (hF : F &&& 49 = 49 := by first | decide | exact sub_of (by assumption) (by decide)) : Frame F r0 (State.convMove
    s n sd st) := by
  unfold State.convMove
  with_reducible repeat' first
    | assumption | exact sub_of hF (by decide) | exact Frame.refl _ | assumption | apply ite_fr | apply itep_fr
    | apply State.set_fr | apply State.setB_fr | apply State.sparesEnd_fr | apply State.setNat_fr
    | apply State.modConv_fr | apply foldl_fr | intro _
    | (extract_lets +onlyGivenNames x; first | (have hx : Frame F r0 x := ?_; clear_value x) | (have hx : Frame F r0 x.1 := ?_; clear_value x) | (have hf := fun a => x a; clear hf) | (have hf : CiphState := x; clear hf) | (have hf : SecState := x; clear hf) | clear_value x)
    | split

theorem State.calTake_fr {F : Nat} {r0 : State} (s : State) (n : Lane) (k pos : Nat) (h0 : Frame F r0 s)
    (hF : F &&& 33 = 33 := by first | decide | exact sub_of (by assumption) (by decide)) : Frame F r0 (State.calTake
    s n k pos).1 := by
  unfold State.calTake
  with_reducible repeat' first
    | assumption | intro _ | exact Frame.refl _ | subst x
    | (extract_lets +onlyGivenNames x; first | (have hx : Frame F r0 x := ?_; clear_value x) | (have hx : Frame F r0 x.1 := ?_; clear_value x) | (have hf := fun a => x a; clear hf) | (have hf : CiphState := x; clear hf) | (have hf : SecState := x; clear hf) | (have hf : LevelSeq := x; clear hf) | (have hf : CstState := x; clear hf) | clear_value x)
    | apply ite_fr | apply itep_fr | apply State.spareTake_fr | dsimp only | (apply fst_fr; assumption) | split
    | exact sub_of hF (by decide)

theorem State.spareNext_fr {F : Nat} {r0 : State} (s : State) (n : Lane) (k : Nat) (h0 : Frame F r0 s)
    (hF : F &&& 33 = 33 := by first | decide | exact sub_of (by assumption) (by decide)) : Frame F r0
    (State.spareNext s n k) := by
  unfold State.spareNext
  with_reducible repeat' first
    | assumption | intro _ | exact Frame.refl _ | subst x
    | (extract_lets +onlyGivenNames x; first | (have hx : Frame F r0 x := ?_; clear_value x) | (have hx : Frame F r0 x.1 := ?_; clear_value x) | (have hf := fun a => x a; clear hf) | (have hf : CiphState := x; clear hf) | (have hf : SecState := x; clear hf) | (have hf : LevelSeq := x; clear hf) | (have hf : CstState := x; clear hf) | clear_value x)
    | apply ite_fr | apply State.spareTake_fr | dsimp only | split | exact sub_of hF (by decide)

theorem State.calRelease_fr {F : Nat} {r0 : State} (s : State) (n : Lane) (k : Nat) (h0 : Frame F r0 s)
    (hF : F &&& 33 = 33 := by first | decide | exact sub_of (by assumption) (by decide)) : Frame F r0
    (State.calRelease s n k) := by
  unfold State.calRelease
  with_reducible repeat' first
    | assumption | intro _ | exact Frame.refl _ | subst x
    | (extract_lets +onlyGivenNames x; first | (have hx : Frame F r0 x := ?_; clear_value x) | (have hx : Frame F r0 x.1 := ?_; clear_value x) | (have hf := fun a => x a; clear hf) | (have hf : CiphState := x; clear hf) | (have hf : SecState := x; clear hf) | (have hf : LevelSeq := x; clear hf) | (have hf : CstState := x; clear hf) | clear_value x)
    | apply ite_fr | apply State.setSpare_fr | apply State.spareIdle_fr | apply State.spareNext_fr | dsimp only
    | split | exact sub_of hF (by decide)

theorem State.writeRetire_fr {F : Nat} {r0 : State} (s : State) (n : Lane) (k pos : Nat) (h0 : Frame F r0 s)
    (hF : F &&& 49 = 49 := by first | decide | exact sub_of (by assumption) (by decide)) : Frame F r0
    (State.writeRetire s n k pos).1 := by
  unfold State.writeRetire
  with_reducible repeat' first
    | assumption | exact sub_of hF (by decide) | apply ite_fr | apply State.raise_fr | apply State.set_fr
    | apply State.spareIdle_fr | apply State.setSpare_fr | apply State.spareNext_fr | split

theorem State.writeConvEn_fr {F : Nat} {r0 : State} (s : State) (n : Lane) (sd : Side) (v : Bool) (h0 : Frame F r0 s)
    (hF : F &&& 49 = 49 := by first | decide | exact sub_of (by assumption) (by decide)) : Frame F r0
    (State.writeConvEn s n sd v) := by
  unfold State.writeConvEn
  with_reducible repeat' first
    | assumption | exact sub_of hF (by decide) | apply ite_fr | apply State.setB_fr | apply State.convMove_fr

theorem State.convRegain_fr {F : Nat} {r0 : State} (s : State) (n : Lane) (sd : Side) (h0 : Frame F r0 s)
    (hF : F &&& 49 = 49 := by first | decide | exact sub_of (by assumption) (by decide)) : Frame F r0
    (State.convRegain s n sd) := by
  unfold State.convRegain
  with_reducible repeat' first
    | assumption | exact sub_of hF (by decide) | apply ite_fr | apply State.setB_fr | apply State.convMove_fr

theorem State.convUnlock_fr {F : Nat} {r0 : State} (s : State) (n : Lane) (side : Side) (h0 : Frame F r0 s)
    (hF : F &&& 49 = 49 := by first | decide | exact sub_of (by assumption) (by decide)) : Frame F r0
    (State.convUnlock s n side) := by
  unfold State.convUnlock
  with_reducible repeat' first
    | assumption | exact sub_of hF (by decide) | apply ite_fr | apply State.raise_fr | apply State.convMove_fr

theorem State.convRefLost_fr {F : Nat} {r0 : State} (s : State) (n : Lane) (side : Side) (h0 : Frame F r0 s)
    (hF : F &&& 49 = 49 := by first | decide | exact sub_of (by assumption) (by decide)) : Frame F r0
    (State.convRefLost s n side) := by
  unfold State.convRefLost
  with_reducible repeat' first
    | assumption | exact Frame.refl _ | exact sub_of hF (by decide) | apply ite_fr | apply State.setB_fr
    | apply State.convUnlock_fr | split | refine Frame.raw ?_

theorem State.capGroup_fr {F : Nat} {r0 : State} (s : State) (n : Lane) (g : Group) (dac : Bool) (h0 : Frame F r0 s)
    (hF : F &&& 32 = 32 := by first | decide | exact sub_of (by assumption) (by decide)) : Frame F r0 (State.capGroup
    s n g dac) := by
  unfold State.capGroup
  with_reducible repeat' first
    | assumption | exact sub_of hF (by decide) | apply ite_fr | apply State.modConv_fr | split

theorem State.capArm_fr {F : Nat} {r0 : State} (s : State) (n : Lane) (cfg : Word) (h0 : Frame F r0 s)
    (hF : F &&& 33 = 33 := by first | decide | exact sub_of (by assumption) (by decide)) : Frame F r0 (State.capArm s
    n cfg) := by
  unfold State.capArm
  with_reducible repeat' first
    | assumption | exact sub_of hF (by decide) | apply ite_fr | apply State.setReg_fr | apply State.modConv_fr
    | apply State.setB_fr

theorem State.capFire_fr {F : Nat} {r0 : State} (s : State) (n : Lane) (h0 : Frame F r0 s)
    (hF : F &&& 32 = 32 := by first | decide | exact sub_of (by assumption) (by decide)) : Frame F r0 (State.capFire s
    n) := by
  unfold State.capFire
  with_reducible repeat' first | assumption | exact sub_of hF (by decide) | apply ite_fr | apply State.modConv_fr

/-! ### Rxd.lean -/

theorem State.compSet_fr {F : Nat} {r0 : State} (s : State) (n : Lane) (cd : Int) (h0 : Frame F r0 s)
    (hF : F &&& 64 = 64 := by first | decide | exact sub_of (by assumption) (by decide)) : Frame F r0 (State.compSet
    s n cd) := by
  unfold State.compSet
  with_reducible repeat' first
    | assumption | intro _ | exact Frame.refl _ | subst x
    | (extract_lets +onlyGivenNames x; first | (have hx : Frame F r0 x := ?_; clear_value x) | (have hx : Frame F r0 x.1 := ?_; clear_value x) | (have hf := fun a => x a; clear hf) | (have hf : CiphState := x; clear hf) | (have hf : SecState := x; clear hf) | (have hf : LevelSeq := x; clear hf) | (have hf : CstState := x; clear hf) | clear_value x)
    | apply ite_fr | apply State.modRxd_fr | dsimp only | split | exact sub_of hF (by decide)

theorem State.rxdGroup_fr {F : Nat} {r0 : State} (s : State) (n : Lane) (ovr : Bool) (codes : List (List Byte)) (h0 :
    Frame F r0 s)
    (hF : F &&& 64 = 64 := by first | decide | exact sub_of (by assumption) (by decide)) : Frame F r0 (State.rxdGroup
    s n ovr codes) := by
  unfold State.rxdGroup
  with_reducible repeat' first
    | assumption | intro _ | exact Frame.refl _ | subst x
    | (extract_lets +onlyGivenNames x; first | (have hx : Frame F r0 x := ?_; clear_value x) | (have hx : Frame F r0 x.1 := ?_; clear_value x) | (have hf := fun a => x a; clear hf) | (have hf : CiphState := x; clear hf) | (have hf : SecState := x; clear hf) | (have hf : LevelSeq := x; clear hf) | (have hf : CstState := x; clear hf) | clear_value x)
    | apply ite_fr | apply State.modRxd_fr | dsimp only | split | exact sub_of hF (by decide)

theorem State.showOwner_fr {F : Nat} {r0 : State} (s : State) (n : Lane) (h0 : Frame F r0 s)
    (hF : F &&& 1 = 1 := by first | decide | exact sub_of (by assumption) (by decide)) : Frame F r0 (State.showOwner s
    n) := by
  unfold State.showOwner
  with_reducible repeat' first | assumption | exact sub_of hF (by decide) | apply State.set_fr

theorem State.ksDrop_fr {F : Nat} {r0 : State} (s : State) (n : Lane) (h0 : Frame F r0 s)
    (hF : F &&& 18449 = 18449 := by first | decide | exact sub_of (by assumption) (by decide)) : Frame F r0
    (State.ksDrop s n) := by
  unfold State.ksDrop
  with_reducible repeat' first
    | assumption | intro _ | exact Frame.refl _ | subst x
    | (extract_lets +onlyGivenNames x; first | (have hx : Frame F r0 x := ?_; clear_value x) | (have hx : Frame F r0 x.1 := ?_; clear_value x) | (have hf := fun a => x a; clear hf) | (have hf : CiphState := x; clear hf) | (have hf : SecState := x; clear hf) | (have hf : LevelSeq := x; clear hf) | (have hf : CstState := x; clear hf) | clear_value x)
    | apply ite_fr | apply State.set_fr | apply State.setB_fr | apply State.modKsc_fr | apply State.emit_fr
    | apply State.addCnt_fr | apply State.raise_fr | dsimp only | split | exact sub_of hF (by decide)

theorem State.showRx_fr {F : Nat} {r0 : State} (s : State) (n : Lane) (h0 : Frame F r0 s)
    (hF : F &&& 1 = 1 := by first | decide | exact sub_of (by assumption) (by decide)) : Frame F r0 (State.showRx s n) := by
  unfold State.showRx
  with_reducible repeat' first
    | assumption | exact sub_of hF (by decide) | exact Frame.refl _ | assumption | apply ite_fr | apply itep_fr
    | apply State.setB_fr | apply State.set_fr | apply foldl_fr | intro _
    | (extract_lets +onlyGivenNames x; first | (have hx : Frame F r0 x := ?_; clear_value x) | (have hx : Frame F r0 x.1 := ?_; clear_value x) | (have hf := fun a => x a; clear hf) | (have hf : CiphState := x; clear hf) | (have hf : SecState := x; clear hf) | clear_value x)
    | split

theorem State.kscRxStop_fr {F : Nat} {r0 : State} (s : State) (n : Lane) (h0 : Frame F r0 s)
    (hF : F &&& 2049 = 2049 := by first | decide | exact sub_of (by assumption) (by decide)) : Frame F r0
    (State.kscRxStop s n) := by
  unfold State.kscRxStop
  with_reducible repeat' first
    | assumption | exact sub_of hF (by decide) | apply State.showRx_fr | apply State.modKsc_fr

theorem State.kscFollow_fr {F : Nat} {r0 : State} (s : State) (n : Lane) (h0 : Frame F r0 s)
    (hF : F &&& 18449 = 18449 := by first | decide | exact sub_of (by assumption) (by decide)) : Frame F r0
    (State.kscFollow s n) := by
  unfold State.kscFollow
  with_reducible repeat' first
    | assumption | intro _ | exact Frame.refl _ | subst x
    | (extract_lets +onlyGivenNames x; first | (have hx : Frame F r0 x := ?_; clear_value x) | (have hx : Frame F r0 x.1 := ?_; clear_value x) | (have hf := fun a => x a; clear hf) | (have hf : CiphState := x; clear hf) | (have hf : SecState := x; clear hf) | (have hf : LevelSeq := x; clear hf) | (have hf : CstState := x; clear hf) | clear_value x)
    | apply ite_fr | apply State.set_fr | apply State.modKsc_fr | apply State.showOwner_fr | apply State.ksDrop_fr
    | apply State.kscRxStop_fr | dsimp only | split | exact sub_of hF (by decide)

theorem State.showLoLim_fr {F : Nat} {r0 : State} (s : State) (n : Lane) (h0 : Frame F r0 s)
    (hF : F &&& 1 = 1 := by first | decide | exact sub_of (by assumption) (by decide)) : Frame F r0 (State.showLoLim s
    n) := by
  unfold State.showLoLim
  with_reducible repeat' first | assumption | exact sub_of hF (by decide) | apply State.setB_fr

theorem State.loFrame_fr {F : Nat} {r0 : State} (s : State) (n : Lane) (type src : Nat) (v : Int) (h0 : Frame F r0 s)
    (hF : F &&& 80 = 80 := by first | decide | exact sub_of (by assumption) (by decide)) : Frame F r0 (State.loFrame s
    n type src v) := by
  unfold State.loFrame
  with_reducible repeat' first | assumption | exact sub_of hF (by decide) | apply State.modRxd_fr | apply State.emit_fr

theorem State.loDelta_fr {F : Nat} {r0 : State} (s : State) (n : Lane) (src : Nat) (v : Int) (h0 : Frame F r0 s)
    (hF : F &&& 81 = 81 := by first | decide | exact sub_of (by assumption) (by decide)) : Frame F r0 (State.loDelta s
    n src v) := by
  unfold State.loDelta
  with_reducible repeat' first
    | assumption | exact sub_of hF (by decide) | apply State.raiseIf_fr | apply State.showLoLim_fr
    | apply State.loFrame_fr | apply State.setInt_fr

theorem State.writeLoHost_fr {F : Nat} {r0 : State} (s : State) (n : Lane) (v : BitVec 24) (h0 : Frame F r0 s)
    (hF : F &&& 81 = 81 := by first | decide | exact sub_of (by assumption) (by decide)) : Frame F r0
    (State.writeLoHost s n v).1 := by
  unfold State.writeLoHost
  with_reducible repeat' first
    | assumption | exact sub_of hF (by decide) | apply ite_fr | apply State.loFrame_fr | apply State.setNat_fr
    | apply State.raise_fr | split

theorem State.showFollowing_fr {F : Nat} {r0 : State} (s : State) (n : Lane) (h0 : Frame F r0 s)
    (hF : F &&& 1 = 1 := by first | decide | exact sub_of (by assumption) (by decide)) : Frame F r0
    (State.showFollowing s n) := by
  unfold State.showFollowing
  with_reducible repeat' first | assumption | exact sub_of hF (by decide) | apply State.setB_fr

theorem State.rxdEnter_fr {F : Nat} {r0 : State} (s : State) (n : Lane) (st : Nat) (h0 : Frame F r0 s)
    (hF : F &&& 65 = 65 := by first | decide | exact sub_of (by assumption) (by decide)) : Frame F r0 (State.rxdEnter
    s n st) := by
  unfold State.rxdEnter
  with_reducible repeat' first
    | assumption | intro _ | exact Frame.refl _ | subst x
    | (extract_lets +onlyGivenNames x; first | (have hx : Frame F r0 x := ?_; clear_value x) | (have hx : Frame F r0 x.1 := ?_; clear_value x) | (have hf := fun a => x a; clear hf) | (have hf : CiphState := x; clear hf) | (have hf : SecState := x; clear hf) | (have hf : LevelSeq := x; clear hf) | (have hf : CstState := x; clear hf) | clear_value x)
    | apply ite_fr | apply State.set_fr | apply State.setB_fr | apply State.setNat_fr | apply State.modRxd_fr
    | apply State.showOwner_fr | dsimp only | split | exact sub_of hF (by decide)

theorem State.followTurn_fr {F : Nat} {r0 : State} (s before : State) (n : Lane) (h0 : Frame F r0 s)
    (hF : F &&& 46157713 = 46157713 := by first | decide | exact sub_of (by assumption) (by decide)) : Frame F r0
    (State.followTurn s before n) := by
  unfold State.followTurn
  with_reducible repeat' first
    | assumption | intro _ | exact Frame.refl _ | subst x
    | (extract_lets +onlyGivenNames x; first | (have hx : Frame F r0 x := ?_; clear_value x) | (have hx : Frame F r0 x.1 := ?_; clear_value x) | (have hf := fun a => x a; clear hf) | (have hf : CiphState := x; clear hf) | (have hf : SecState := x; clear hf) | (have hf : LevelSeq := x; clear hf) | (have hf : CstState := x; clear hf) | clear_value x)
    | apply ite_fr | apply State.rxFmtTurn_fr | apply State.touch_fr | apply State.familyTurn_fr
    | apply State.kscFollow_fr | apply State.showFollowing_fr | dsimp only | split | exact sub_of hF (by decide)

theorem State.latchLoMode_fr {F : Nat} {r0 : State} (s : State) (n : Lane) (h0 : Frame F r0 s)
    (hF : F &&& 65 = 65 := by first | decide | exact sub_of (by assumption) (by decide)) : Frame F r0
    (State.latchLoMode s n) := by
  unfold State.latchLoMode
  with_reducible repeat' first
    | assumption | intro _ | exact Frame.refl _ | subst x
    | (extract_lets +onlyGivenNames x; first | (have hx : Frame F r0 x := ?_; clear_value x) | (have hx : Frame F r0 x.1 := ?_; clear_value x) | (have hf := fun a => x a; clear hf) | (have hf : CiphState := x; clear hf) | (have hf : SecState := x; clear hf) | (have hf : LevelSeq := x; clear hf) | (have hf : CstState := x; clear hf) | clear_value x)
    | apply ite_fr | apply State.modRxd_fr | apply State.showOwner_fr | dsimp only | split
    | exact sub_of hF (by decide)

theorem State.latchKsAssist_fr {F : Nat} {r0 : State} (s : State) (n : Lane) (h0 : Frame F r0 s)
    (hF : F &&& 65 = 65 := by first | decide | exact sub_of (by assumption) (by decide)) : Frame F r0
    (State.latchKsAssist s n) := by
  unfold State.latchKsAssist
  with_reducible repeat' first
    | assumption | intro _ | exact Frame.refl _ | subst x
    | (extract_lets +onlyGivenNames x; first | (have hx : Frame F r0 x := ?_; clear_value x) | (have hx : Frame F r0 x.1 := ?_; clear_value x) | (have hf := fun a => x a; clear hf) | (have hf : CiphState := x; clear hf) | (have hf : SecState := x; clear hf) | (have hf : LevelSeq := x; clear hf) | (have hf : CstState := x; clear hf) | clear_value x)
    | apply ite_fr | apply State.modRxd_fr | apply State.showOwner_fr | dsimp only | split
    | exact sub_of hF (by decide)

theorem State.latchFmtSrc_fr {F : Nat} {r0 : State} (s : State) (n : Lane) (h0 : Frame F r0 s)
    (hF : F &&& 46157777 = 46157777 := by first | decide | exact sub_of (by assumption) (by decide)) : Frame F r0
    (State.latchFmtSrc s n) := by
  unfold State.latchFmtSrc
  with_reducible repeat' first
    | assumption | intro _ | exact Frame.refl _ | subst x
    | (extract_lets +onlyGivenNames x; first | (have hx : Frame F r0 x := ?_; clear_value x) | (have hx : Frame F r0 x.1 := ?_; clear_value x) | (have hf := fun a => x a; clear hf) | (have hf : CiphState := x; clear hf) | (have hf : SecState := x; clear hf) | (have hf : LevelSeq := x; clear hf) | (have hf : CstState := x; clear hf) | clear_value x)
    | apply ite_fr | apply State.modRxd_fr | apply State.touch_fr | apply State.followTurn_fr | dsimp only | split
    | exact sub_of hF (by decide)

theorem State.latchModes_fr {F : Nat} {r0 : State} (s : State) (n : Lane) (h0 : Frame F r0 s)
    (hF : F &&& 46157777 = 46157777 := by first | decide | exact sub_of (by assumption) (by decide)) : Frame F r0
    (State.latchModes s n) := by
  unfold State.latchModes
  with_reducible repeat' first
    | assumption | exact Frame.refl _ | exact sub_of hF (by decide) | apply ite_fr | apply State.latchLoMode_fr
    | apply State.latchKsAssist_fr | apply State.latchFmtSrc_fr | split | refine Frame.raw ?_

theorem State.freqSearch_fr {F : Nat} {r0 : State} (s : State) (n : Lane) (h0 : Frame F r0 s)
    (hF : F &&& 46157777 = 46157777 := by first | decide | exact sub_of (by assumption) (by decide)) : Frame F r0
    (State.freqSearch s n) := by
  unfold State.freqSearch
  with_reducible repeat' first
    | assumption | intro _ | exact Frame.refl _ | subst x
    | (extract_lets +onlyGivenNames x; first | (have hx : Frame F r0 x := ?_; clear_value x) | (have hx : Frame F r0 x.1 := ?_; clear_value x) | (have hf := fun a => x a; clear hf) | (have hf : CiphState := x; clear hf) | (have hf : SecState := x; clear hf) | (have hf : LevelSeq := x; clear hf) | (have hf : CstState := x; clear hf) | clear_value x)
    | apply ite_fr | apply State.setB_fr | apply State.modRxd_fr | apply State.rxdEnter_fr
    | apply State.latchModes_fr | dsimp only | split | exact sub_of hF (by decide)

theorem State.acqFail_fr {F : Nat} {r0 : State} (s : State) (n : Lane) (alarm : Fld) (h0 : Frame F r0 s)
    (hF : F &&& 46157777 = 46157777 := by first | decide | exact sub_of (by assumption) (by decide)) : Frame F r0
    (State.acqFail s n alarm) := by
  unfold State.acqFail
  with_reducible repeat' first
    | assumption | exact sub_of hF (by decide) | apply State.freqSearch_fr | apply State.raise_fr
    | apply State.addCnt_fr

theorem State.rxdWarm_fr {F : Nat} {r0 : State} (s : State) (n : Lane) (h0 : Frame F r0 s)
    (hF : F &&& 65 = 65 := by first | decide | exact sub_of (by assumption) (by decide)) : Frame F r0 (State.rxdWarm s
    n) := by
  unfold State.rxdWarm
  with_reducible repeat' first
    | assumption | exact sub_of hF (by decide) | apply ite_fr | apply State.rxdEnter_fr | apply State.modRxd_fr
    | apply State.setB_fr

theorem State.losAssert_fr {F : Nat} {r0 : State} (s : State) (n : Lane) (h0 : Frame F r0 s)
    (hF : F &&& 46155729 = 46155729 := by first | decide | exact sub_of (by assumption) (by decide)) : Frame F r0
    (State.losAssert s n) := by
  unfold State.losAssert
  with_reducible repeat' first
    | assumption | exact sub_of hF (by decide) | apply ite_fr | apply State.raise_fr | apply State.addCnt_fr
    | apply State.setB_fr | apply State.modRxd_fr | apply State.rxdEnter_fr | apply State.lfrLos_fr

theorem State.losClear_fr {F : Nat} {r0 : State} (s : State) (n : Lane) (h0 : Frame F r0 s)
    (hF : F &&& 46157777 = 46157777 := by first | decide | exact sub_of (by assumption) (by decide)) : Frame F r0
    (State.losClear s n) := by
  unfold State.losClear
  with_reducible repeat' first
    | assumption | exact sub_of hF (by decide) | apply ite_fr | apply State.lfrLos_fr | apply State.setB_fr
    | apply State.freqSearch_fr

theorem State.adcChannel_fr {F : Nat} {r0 : State} (s : State) (n : Lane) (i : Nat) (flag run : Bool) (power : List
    Nat) (h0 : Frame F r0 s)
    (hF : F &&& 16401 = 16401 := by first | decide | exact sub_of (by assumption) (by decide)) : Frame F r0
    (State.adcChannel s n i flag run power) := by
  unfold State.adcChannel
  with_reducible repeat' first
    | assumption | exact sub_of hF (by decide) | apply ite_fr | apply State.setB_fr | apply State.raise_fr
    | apply State.addCnt_fr | apply State.setNat_fr

theorem State.writeRxdEn_fr {F : Nat} {r0 : State} (s : State) (n : Lane) (v : Bool) (h0 : Frame F r0 s)
    (hF : F &&& 46157777 = 46157777 := by first | decide | exact sub_of (by assumption) (by decide)) : Frame F r0
    (State.writeRxdEn s n v) := by
  unfold State.writeRxdEn
  with_reducible repeat' first
    | assumption | intro _ | exact Frame.refl _ | subst x
    | (extract_lets +onlyGivenNames x; first | (have hx : Frame F r0 x := ?_; clear_value x) | (have hx : Frame F r0 x.1 := ?_; clear_value x) | (have hf := fun a => x a; clear hf) | (have hf : CiphState := x; clear hf) | (have hf : SecState := x; clear hf) | (have hf : LevelSeq := x; clear hf) | (have hf : CstState := x; clear hf) | clear_value x)
    | apply ite_fr | apply State.setB_fr | apply State.setNat_fr | apply State.touch_fr | apply State.rxdEnter_fr
    | apply State.freqSearch_fr | dsimp only | split | exact sub_of hF (by decide)

theorem State.acqRestart_fr {F : Nat} {r0 : State} (s : State) (n : Lane) (h0 : Frame F r0 s)
    (hF : F &&& 46157777 = 46157777 := by first | decide | exact sub_of (by assumption) (by decide)) : Frame F r0
    (State.acqRestart s n) := by
  unfold State.acqRestart
  with_reducible repeat' first | assumption | exact sub_of hF (by decide) | apply ite_fr | apply State.freqSearch_fr

theorem State.writeLoMode_fr {F : Nat} {r0 : State} (s : State) (n : Lane) (v : Nat) (h0 : Frame F r0 s)
    (hF : F &&& 65 = 65 := by first | decide | exact sub_of (by assumption) (by decide)) : Frame F r0
    (State.writeLoMode s n v) := by
  unfold State.writeLoMode
  with_reducible repeat' first
    | assumption | intro _ | exact Frame.refl _ | subst x
    | (extract_lets +onlyGivenNames x; first | (have hx : Frame F r0 x := ?_; clear_value x) | (have hx : Frame F r0 x.1 := ?_; clear_value x) | (have hf := fun a => x a; clear hf) | (have hf : CiphState := x; clear hf) | (have hf : SecState := x; clear hf) | (have hf : LevelSeq := x; clear hf) | (have hf : CstState := x; clear hf) | clear_value x)
    | apply ite_fr | apply State.set_fr | apply State.latchLoMode_fr | dsimp only | split
    | exact sub_of hF (by decide)

theorem State.writeKsAssist_fr {F : Nat} {r0 : State} (s : State) (n : Lane) (v : Bool) (h0 : Frame F r0 s)
    (hF : F &&& 65 = 65 := by first | decide | exact sub_of (by assumption) (by decide)) : Frame F r0
    (State.writeKsAssist s n v) := by
  unfold State.writeKsAssist
  with_reducible repeat' first
    | assumption | intro _ | exact Frame.refl _ | subst x
    | (extract_lets +onlyGivenNames x; first | (have hx : Frame F r0 x := ?_; clear_value x) | (have hx : Frame F r0 x.1 := ?_; clear_value x) | (have hf := fun a => x a; clear hf) | (have hf : CiphState := x; clear hf) | (have hf : SecState := x; clear hf) | (have hf : LevelSeq := x; clear hf) | (have hf : CstState := x; clear hf) | clear_value x)
    | apply ite_fr | apply State.setB_fr | apply State.latchKsAssist_fr | dsimp only | split
    | exact sub_of hF (by decide)

theorem State.writeFmtSrc_fr {F : Nat} {r0 : State} (s : State) (n : Lane) (v : Bool) (h0 : Frame F r0 s)
    (hF : F &&& 46157777 = 46157777 := by first | decide | exact sub_of (by assumption) (by decide)) : Frame F r0
    (State.writeFmtSrc s n v) := by
  unfold State.writeFmtSrc
  with_reducible repeat' first
    | assumption | intro _ | exact Frame.refl _ | subst x
    | (extract_lets +onlyGivenNames x; first | (have hx : Frame F r0 x := ?_; clear_value x) | (have hx : Frame F r0 x.1 := ?_; clear_value x) | (have hf := fun a => x a; clear hf) | (have hf : CiphState := x; clear hf) | (have hf : SecState := x; clear hf) | (have hf : LevelSeq := x; clear hf) | (have hf : CstState := x; clear hf) | clear_value x)
    | apply ite_fr | apply State.setB_fr | apply State.latchFmtSrc_fr | dsimp only | split
    | exact sub_of hF (by decide)

theorem State.showFo_fr {F : Nat} {r0 : State} (s : State) (n : Lane) (fo : Int) (h0 : Frame F r0 s)
    (hF : F &&& 1 = 1 := by first | decide | exact sub_of (by assumption) (by decide)) : Frame F r0 (State.showFo s n
    fo) := by
  unfold State.showFo
  with_reducible repeat' first | assumption | exact sub_of hF (by decide) | apply State.setB_fr | apply State.setInt_fr

theorem State.coarseEnd_fr {F : Nat} {r0 : State} (s : State) (n : Lane) (est : Int) (h0 : Frame F r0 s)
    (hF : F &&& 81 = 81 := by first | decide | exact sub_of (by assumption) (by decide)) : Frame F r0 (State.coarseEnd
    s n est) := by
  unfold State.coarseEnd
  with_reducible repeat' first
    | assumption | exact sub_of hF (by decide) | apply ite_fr | apply State.raise_fr | apply State.loDelta_fr
    | apply State.modRxd_fr

theorem State.ksWaitRefresh_fr {F : Nat} {r0 : State} (s : State) (n : Lane) (h0 : Frame F r0 s)
    (hF : F &&& 81 = 81 := by first | decide | exact sub_of (by assumption) (by decide)) : Frame F r0
    (State.ksWaitRefresh s n) := by
  unfold State.ksWaitRefresh
  with_reducible repeat' first
    | assumption | intro _ | exact Frame.refl _ | subst x
    | (extract_lets +onlyGivenNames x; first | (have hx : Frame F r0 x := ?_; clear_value x) | (have hx : Frame F r0 x.1 := ?_; clear_value x) | (have hf := fun a => x a; clear hf) | (have hf : CiphState := x; clear hf) | (have hf : SecState := x; clear hf) | (have hf : LevelSeq := x; clear hf) | (have hf : CstState := x; clear hf) | clear_value x)
    | apply ite_fr | apply State.modRxd_fr | apply State.showOwner_fr | apply State.coarseEnd_fr | dsimp only
    | split | exact sub_of hF (by decide)

theorem State.scanStart_fr {F : Nat} {r0 : State} (s : State) (n : Lane) (hint : Option Int) (h0 : Frame F r0 s)
    (hF : F &&& 64 = 64 := by first | decide | exact sub_of (by assumption) (by decide)) : Frame F r0 (State.scanStart
    s n hint) := by
  unfold State.scanStart
  with_reducible repeat' first | assumption | exact sub_of hF (by decide) | apply State.modRxd_fr

theorem State.searchDone_fr {F : Nat} {r0 : State} (s : State) (n : Lane) (h0 : Frame F r0 s)
    (hF : F &&& 65 = 65 := by first | decide | exact sub_of (by assumption) (by decide)) : Frame F r0
    (State.searchDone s n) := by
  unfold State.searchDone
  with_reducible repeat' first
    | assumption | intro _ | exact Frame.refl _ | subst x
    | (extract_lets +onlyGivenNames x; first | (have hx : Frame F r0 x := ?_; clear_value x) | (have hx : Frame F r0 x.1 := ?_; clear_value x) | (have hf := fun a => x a; clear hf) | (have hf : CiphState := x; clear hf) | (have hf : SecState := x; clear hf) | (have hf : LevelSeq := x; clear hf) | (have hf : CstState := x; clear hf) | clear_value x)
    | apply ite_fr | apply State.modRxd_fr | apply State.compSet_fr | apply State.rxdEnter_fr
    | apply State.scanStart_fr | dsimp only | split | exact sub_of hF (by decide)

theorem State.setRotation_fr {F : Nat} {r0 : State} (s : State) (n : Lane) (hyp : Nat) (h0 : Frame F r0 s)
    (hF : F &&& 1 = 1 := by first | decide | exact sub_of (by assumption) (by decide)) : Frame F r0 (State.setRotation
    s n hyp) := by
  unfold State.setRotation
  with_reducible repeat' first | assumption | exact sub_of hF (by decide) | apply State.set_fr

theorem State.rxdInFrame_fr {F : Nat} {r0 : State} (s : State) (n : Lane) (hyp : Nat) (h0 : Frame F r0 s)
    (hF : F &&& 33570881 = 33570881 := by first | decide | exact sub_of (by assumption) (by decide)) : Frame F r0
    (State.rxdInFrame s n hyp) := by
  unfold State.rxdInFrame
  with_reducible repeat' first
    | assumption | exact sub_of hF (by decide) | apply ite_fr | apply State.addCnt_fr | apply State.setRotation_fr
    | apply State.setNat_fr | apply State.cdToTime_fr | apply State.rxdEnter_fr | apply State.setB_fr

theorem State.rxdSlip_fr {F : Nat} {r0 : State} (s : State) (n : Lane) (hyp : Nat) (h0 : Frame F r0 s)
    (hF : F &&& 16401 = 16401 := by first | decide | exact sub_of (by assumption) (by decide)) : Frame F r0
    (State.rxdSlip s n hyp) := by
  unfold State.rxdSlip
  with_reducible repeat' first
    | assumption | exact sub_of hF (by decide) | apply ite_fr | apply State.raise_fr | apply State.addCnt_fr
    | apply State.setRotation_fr

theorem State.nlcChanged_fr {F : Nat} {r0 : State} (s : State) (n : Lane) (h0 : Frame F r0 s)
    (hF : F &&& 64 = 64 := by first | decide | exact sub_of (by assumption) (by decide)) : Frame F r0
    (State.nlcChanged s n) := by
  unfold State.nlcChanged
  with_reducible repeat' first
    | assumption | intro _ | exact Frame.refl _ | subst x
    | (extract_lets +onlyGivenNames x; first | (have hx : Frame F r0 x := ?_; clear_value x) | (have hx : Frame F r0 x.1 := ?_; clear_value x) | (have hf := fun a => x a; clear hf) | (have hf : CiphState := x; clear hf) | (have hf : SecState := x; clear hf) | (have hf : LevelSeq := x; clear hf) | (have hf : CstState := x; clear hf) | clear_value x)
    | apply ite_fr | apply State.modRxd_fr | dsimp only | split | exact sub_of hF (by decide)

theorem State.nlcBoundary_fr {F : Nat} {r0 : State} (s : State) (n : Lane) (h0 : Frame F r0 s)
    (hF : F &&& 65 = 65 := by first | decide | exact sub_of (by assumption) (by decide)) : Frame F r0
    (State.nlcBoundary s n) := by
  unfold State.nlcBoundary
  with_reducible repeat' first
    | assumption | intro _ | exact Frame.refl _ | subst x
    | (extract_lets +onlyGivenNames x; first | (have hx : Frame F r0 x := ?_; clear_value x) | (have hx : Frame F r0 x.1 := ?_; clear_value x) | (have hf := fun a => x a; clear hf) | (have hf : CiphState := x; clear hf) | (have hf : SecState := x; clear hf) | (have hf : LevelSeq := x; clear hf) | (have hf : CstState := x; clear hf) | clear_value x)
    | apply ite_fr | apply State.setB_fr | apply State.modRxd_fr | dsimp only | split | exact sub_of hF (by decide)

theorem State.rxdCourse_fr {F : Nat} {r0 : State} (s before : State) (n : Lane) (h0 : Frame F r0 s)
    (hF : F &&& 46157777 = 46157777 := by first | decide | exact sub_of (by assumption) (by decide)) : Frame F r0
    (State.rxdCourse s before n) := by
  unfold State.rxdCourse
  with_reducible repeat' first
    | assumption | intro _ | exact Frame.refl _ | subst x
    | (extract_lets +onlyGivenNames x; first | (have hx : Frame F r0 x := ?_; clear_value x) | (have hx : Frame F r0 x.1 := ?_; clear_value x) | (have hf := fun a => x a; clear hf) | (have hf : CiphState := x; clear hf) | (have hf : SecState := x; clear hf) | (have hf : LevelSeq := x; clear hf) | (have hf : CstState := x; clear hf) | clear_value x)
    | apply ite_fr | apply State.modRxd_fr | apply State.raiseIf_fr | apply State.compSet_fr
    | apply State.freqSearch_fr | apply State.rxdWarm_fr | dsimp only | split | exact sub_of hF (by decide)

theorem State.loZero_fr {F : Nat} {r0 : State} (s : State) (n : Lane) (h0 : Frame F r0 s)
    (hF : F &&& 80 = 80 := by first | decide | exact sub_of (by assumption) (by decide)) : Frame F r0 (State.loZero s
    n) := by
  unfold State.loZero
  with_reducible repeat' first | assumption | exact sub_of hF (by decide) | apply State.loFrame_fr

/-! ### Txd.lean -/

theorem State.showKsOn_fr {F : Nat} {r0 : State} (s : State) (n : Lane) (h0 : Frame F r0 s)
    (hF : F &&& 18449 = 18449 := by first | decide | exact sub_of (by assumption) (by decide)) : Frame F r0
    (State.showKsOn s n) := by
  unfold State.showKsOn
  with_reducible repeat' first
    | assumption | exact sub_of hF (by decide) | apply ite_fr | apply State.setB_fr | apply State.ksDrop_fr

theorem State.txdEnter_fr {F : Nat} {r0 : State} (s : State) (n : Lane) (st : Nat) (h0 : Frame F r0 s)
    (hF : F &&& 18577 = 18577 := by first | decide | exact sub_of (by assumption) (by decide)) : Frame F r0
    (State.txdEnter s n st) := by
  unfold State.txdEnter
  with_reducible repeat' first
    | assumption | exact sub_of hF (by decide) | apply ite_fr | apply State.set_fr | apply State.modTx_fr
    | apply State.showKsOn_fr

theorem State.txdNow_fr {F : Nat} {r0 : State} (s : State) (n : Lane) (h0 : Frame F r0 s)
    (hF : F &&& 18577 = 18577 := by first | decide | exact sub_of (by assumption) (by decide)) : Frame F r0
    (State.txdNow s n) := by
  unfold State.txdNow
  with_reducible repeat' first | assumption | exact sub_of hF (by decide) | apply ite_fr | apply State.txdEnter_fr

theorem State.txdAtStart_fr {F : Nat} {r0 : State} (s : State) (n : Lane) (h0 : Frame F r0 s)
    (hF : F &&& 18577 = 18577 := by first | decide | exact sub_of (by assumption) (by decide)) : Frame F r0
    (State.txdAtStart s n) := by
  unfold State.txdAtStart
  with_reducible repeat' first | assumption | exact sub_of hF (by decide) | apply ite_fr | apply State.txdEnter_fr

theorem State.levelEnters_fr {F : Nat} {r0 : State} (s : State) (n : Lane) (at_ : Nat) (h0 : Frame F r0 s)
    (hF : F &&& 128 = 128 := by first | decide | exact sub_of (by assumption) (by decide)) : Frame F r0
    (State.levelEnters s n at_) := by
  unfold State.levelEnters
  with_reducible repeat' first
    | assumption | intro _ | exact Frame.refl _ | subst x
    | (extract_lets +onlyGivenNames x; first | (have hx : Frame F r0 x := ?_; clear_value x) | (have hx : Frame F r0 x.1 := ?_; clear_value x) | (have hf := fun a => x a; clear hf) | (have hf : CiphState := x; clear hf) | (have hf : SecState := x; clear hf) | (have hf : LevelSeq := x; clear hf) | (have hf : CstState := x; clear hf) | clear_value x)
    | apply ite_fr | apply State.modTx_fr | dsimp only | split | exact sub_of hF (by decide)

/-! ### Ksc.lean -/

theorem State.kscCount_fr {F : Nat} {r0 : State} (s : State) (n : Lane) (j : Nat) (h0 : Frame F r0 s)
    (hF : F &&& 16385 = 16385 := by first | decide | exact sub_of (by assumption) (by decide)) : Frame F r0
    (State.kscCount s n j) := by
  unfold State.kscCount
  with_reducible repeat' first | assumption | exact sub_of hF (by decide) | apply State.addCnt_fr

theorem State.kscJudge_fr {F : Nat} {r0 : State} (s : State) (n : Lane) (h0 : Frame F r0 s)
    (hF : F &&& 18513 = 18513 := by first | decide | exact sub_of (by assumption) (by decide)) : Frame F r0
    (State.kscJudge s n) := by
  unfold State.kscJudge
  with_reducible repeat' first
    | assumption | exact Frame.refl _ | exact sub_of hF (by decide) | apply ite_fr | apply State.kscFollow_fr
    | apply State.ksWaitRefresh_fr | split | refine Frame.raw ?_

theorem State.ksQueue_fr {F : Nat} {r0 : State} (s : State) (n : Lane) (type : Nat) (payload : List Byte) (h0 : Frame
    F r0 s) (hF : F &&& 18449 = 18449 := by first | decide | exact sub_of (by assumption) (by decide)) : Frame F r0
    (State.ksQueue s n type payload) := by
  unfold State.ksQueue
  with_reducible repeat' first
    | assumption | exact sub_of hF (by decide) | apply ite_fr | apply State.modKsc_fr | apply State.ksDrop_fr

theorem State.ksStart_fr {F : Nat} {r0 : State} (s : State) (n : Lane) (p : KsPacket) (h0 : Frame F r0 s)
    (hF : F &&& 2065 = 2065 := by first | decide | exact sub_of (by assumption) (by decide)) : Frame F r0
    (State.ksStart s n p) := by
  unfold State.ksStart
  with_reducible repeat' first
    | assumption | intro _ | exact Frame.refl _ | subst x
    | (extract_lets +onlyGivenNames x; first | (have hx : Frame F r0 x := ?_; clear_value x) | (have hx : Frame F r0 x.1 := ?_; clear_value x) | (have hf := fun a => x a; clear hf) | (have hf : CiphState := x; clear hf) | (have hf : SecState := x; clear hf) | (have hf : LevelSeq := x; clear hf) | (have hf : CstState := x; clear hf) | clear_value x)
    | apply ite_fr | apply State.set_fr | apply State.setB_fr | apply State.modKsc_fr | apply State.emit_fr
    | dsimp only | split | exact sub_of hF (by decide)

theorem State.ksCourse_fr {F : Nat} {r0 : State} (s : State) (n : Lane) (a : Armed) (state : Nat) (h0 : Frame F r0 s)
    (hF : F &&& 18449 = 18449 := by first | decide | exact sub_of (by assumption) (by decide)) : Frame F r0
    (State.ksCourse s n a state) := by
  unfold State.ksCourse
  with_reducible repeat' first | assumption | exact sub_of hF (by decide) | apply ite_fr | apply State.ksQueue_fr

theorem State.ksMgmt_fr {F : Nat} {r0 : State} (s : State) (n : Lane) (bytes : List Byte) (h0 : Frame F r0 s)
    (hF : F &&& 18449 = 18449 := by first | decide | exact sub_of (by assumption) (by decide)) : Frame F r0
    (State.ksMgmt s n bytes) := by
  unfold State.ksMgmt
  with_reducible repeat' first
    | assumption | exact Frame.refl _ | exact sub_of hF (by decide) | apply ite_fr | apply State.raise_fr
    | apply State.kscCount_fr | apply State.ksQueue_fr | split | refine Frame.raw ?_

theorem State.rxEnd_fr {F : Nat} {r0 : State} (s : State) (n : Lane) (h0 : Frame F r0 s)
    (hF : F &&& 2049 = 2049 := by first | decide | exact sub_of (by assumption) (by decide)) : Frame F r0 (State.rxEnd
    s n) := by
  unfold State.rxEnd
  with_reducible repeat' first
    | assumption | exact sub_of hF (by decide) | apply State.showRx_fr | apply State.modKsc_fr

theorem State.kscLog_fr {F : Nat} {r0 : State} (s : State) (n : Lane) (event : Nat) (chan snr : Int) (h0 : Frame F r0
    s) (hF : F &&& 2049 = 2049 := by first | decide | exact sub_of (by assumption) (by decide)) : Frame F r0
    (State.kscLog s n event chan snr) := by
  unfold State.kscLog
  with_reducible repeat' first
    | assumption | exact sub_of hF (by decide) | exact Frame.refl _ | assumption | apply ite_fr | apply itep_fr
    | apply State.setReg_fr | apply State.modKsc_fr | apply foldl_fr | intro _
    | (extract_lets +onlyGivenNames x; first | (have hx : Frame F r0 x := ?_; clear_value x) | (have hx : Frame F r0 x.1 := ?_; clear_value x) | (have hf := fun a => x a; clear hf) | (have hf : CiphState := x; clear hf) | (have hf : SecState := x; clear hf) | clear_value x)
    | split

theorem State.ksPut_fr {F : Nat} {r0 : State} (s : State) (n : Lane) (cand : Bool) (r : KsReception) (h0 : Frame F r0
    s) (hF : F &&& 2049 = 2049 := by first | decide | exact sub_of (by assumption) (by decide)) : Frame F r0
    (State.ksPut s n cand r) := by
  unfold State.ksPut
  with_reducible repeat' first
    | assumption | exact sub_of hF (by decide) | apply State.showRx_fr | apply State.modKsc_fr

theorem State.ksGiveUp_fr {F : Nat} {r0 : State} (s : State) (n : Lane) (cand : Bool) (h0 : Frame F r0 s)
    (hF : F &&& 2049 = 2049 := by first | decide | exact sub_of (by assumption) (by decide)) : Frame F r0
    (State.ksGiveUp s n cand) := by
  unfold State.ksGiveUp
  with_reducible repeat' first
    | assumption | exact sub_of hF (by decide) | apply ite_fr | apply State.showRx_fr | apply State.modKsc_fr
    | apply State.rxEnd_fr

theorem State.crsRematch_fr {F : Nat} {r0 : State} (s : State) (n : Lane) (h0 : Frame F r0 s)
    (hF : F &&& 17 = 17 := by first | decide | exact sub_of (by assumption) (by decide)) : Frame F r0
    (State.crsRematch s n) := by
  unfold State.crsRematch
  with_reducible repeat' first
    | assumption | exact sub_of hF (by decide) | apply ite_fr | apply State.raiseIf_fr | apply State.set_fr

theorem State.farFormat_fr {F : Nat} {r0 : State} (s : State) (n : Lane) (f : FarFmt) (h0 : Frame F r0 s)
    (hF : F &&& 46157777 = 46157777 := by first | decide | exact sub_of (by assumption) (by decide)) : Frame F r0
    (State.farFormat s n f) := by
  unfold State.farFormat
  with_reducible repeat' first
    | assumption | intro _ | exact Frame.refl _ | subst x
    | (extract_lets +onlyGivenNames x; first | (have hx : Frame F r0 x := ?_; clear_value x) | (have hx : Frame F r0 x.1 := ?_; clear_value x) | (have hf := fun a => x a; clear hf) | (have hf : CiphState := x; clear hf) | (have hf : SecState := x; clear hf) | (have hf : LevelSeq := x; clear hf) | (have hf : CstState := x; clear hf) | clear_value x)
    | apply ite_fr | apply State.modRxd_fr | apply State.raiseIf_fr | apply State.touch_fr
    | apply State.followTurn_fr | apply State.ksWaitRefresh_fr | apply State.rxdCourse_fr | dsimp only | split
    | exact sub_of hF (by decide)

theorem State.ksAssist_fr {F : Nat} {r0 : State} (s : State) (n : Lane) (fo : Int) (h0 : Frame F r0 s)
    (hF : F &&& 81 = 81 := by first | decide | exact sub_of (by assumption) (by decide)) : Frame F r0 (State.ksAssist
    s n fo) := by
  unfold State.ksAssist
  with_reducible repeat' first
    | assumption | exact sub_of hF (by decide) | apply ite_fr | apply State.setB_fr | apply State.loDelta_fr
    | apply State.raise_fr | apply State.modRxd_fr

theorem State.ksContent_fr {F : Nat} {r0 : State} (s : State) (n : Lane) (r : KsReception) (p : List Byte) (h0 :
    Frame F r0 s)
    (hF : F &&& 46157781 = 46157781 := by first | decide | exact sub_of (by assumption) (by decide)) : Frame F r0
    (State.ksContent s n r p) := by
  unfold State.ksContent
  with_reducible repeat' first
    | assumption | intro _ | exact Frame.refl _ | subst x
    | (extract_lets +onlyGivenNames x; first | (have hx : Frame F r0 x := ?_; clear_value x) | (have hx : Frame F r0 x.1 := ?_; clear_value x) | (have hf := fun a => x a; clear hf) | (have hf : CiphState := x; clear hf) | (have hf : SecState := x; clear hf) | (have hf : LevelSeq := x; clear hf) | (have hf : CstState := x; clear hf) | clear_value x)
    | exact id_fr _ | apply ite_fr | apply State.setNat_fr | apply State.setTime80_fr | apply State.modRxd_fr
    | apply State.modKsc_fr | apply State.emit_fr | apply State.raiseIf_fr | apply State.setStamp_fr
    | apply State.rangeResult_fr | apply State.ksDrop_fr | apply State.kscCount_fr | apply State.farFormat_fr
    | apply foldl_fr_of | dsimp only | split | exact sub_of hF (by decide)

theorem State.ksAccept_fr {F : Nat} {r0 : State} (s : State) (n : Lane) (r : KsReception) (p : List Byte) (h0 : Frame
    F r0 s) (hF : F &&& 46157781 = 46157781 := by first | decide | exact sub_of (by assumption) (by decide)) : Frame F
    r0 (State.ksAccept s n r p) := by
  unfold State.ksAccept
  with_reducible repeat' first
    | assumption | exact sub_of hF (by decide) | apply ite_fr | apply State.setInt_fr | apply State.kscCount_fr
    | apply State.setNat_fr | apply State.modKsc_fr | apply State.set_fr | apply State.ksContent_fr
    | apply State.ksAssist_fr

theorem State.kscReset_fr {F : Nat} {r0 : State} (s : State) (n : Lane) (h0 : Frame F r0 s)
    (hF : F &&& 2131 = 2131 := by first | decide | exact sub_of (by assumption) (by decide)) : Frame F r0
    (State.kscReset s n) := by
  unfold State.kscReset
  with_reducible repeat' first
    | assumption | intro _ | exact Frame.refl _ | subst x
    | (extract_lets +onlyGivenNames x; first | (have hx : Frame F r0 x := ?_; clear_value x) | (have hx : Frame F r0 x.1 := ?_; clear_value x) | (have hf := fun a => x a; clear hf) | (have hf : CiphState := x; clear hf) | (have hf : SecState := x; clear hf) | (have hf : LevelSeq := x; clear hf) | (have hf : CstState := x; clear hf) | clear_value x)
    | apply ite_fr | apply State.resetRange_fr | apply State.modKsc_fr | apply State.emit_fr | apply State.raise_fr
    | apply State.showOwner_fr | apply State.ksWaitRefresh_fr | dsimp only | split | exact sub_of hF (by decide)

/-! ### Hkm.lean -/

theorem State.modHkm_fr {F : Nat} {r0 : State} (s : State) (f : HkmState → HkmState) (h0 : Frame F r0 s)
    (hF : F &&& 524288 = 524288 := by first | decide | exact sub_of (by assumption) (by decide)) : Frame F r0
    (State.modHkm s f) :=
  Frame.raw h0

theorem State.modHkmConv_fr {F : Nat} {r0 : State} (s : State) (x : Nat) (f : HkmConv → HkmConv) (h0 : Frame F r0 s)
    (hF : F &&& 524288 = 524288 := by first | decide | exact sub_of (by assumption) (by decide)) : Frame F r0
    (State.modHkmConv s x f) := by
  unfold State.modHkmConv
  with_reducible repeat' first | assumption | exact sub_of hF (by decide) | apply State.modHkm_fr

theorem State.modHkmIn_fr {F : Nat} {r0 : State} (s : State) (k : Nat) (f : HkmInput → HkmInput) (h0 : Frame F r0 s)
    (hF : F &&& 524288 = 524288 := by first | decide | exact sub_of (by assumption) (by decide)) : Frame F r0
    (State.modHkmIn s k f) := by
  unfold State.modHkmIn
  with_reducible repeat' first | assumption | exact sub_of hF (by decide) | apply State.modHkm_fr

theorem State.hkmShow_fr {F : Nat} {r0 : State} (s : State) (h0 : Frame F r0 s)
    (hF : F &&& 1 = 1 := by first | decide | exact sub_of (by assumption) (by decide)) : Frame F r0 (State.hkmShow s) := by
  unfold State.hkmShow
  with_reducible repeat' first | assumption | exact sub_of hF (by decide) | apply State.setB_fr | apply State.set_fr

theorem State.filterRestart_fr {F : Nat} {r0 : State} (s : State) (k : Nat) (h0 : Frame F r0 s)
    (hF : F &&& 524289 = 524289 := by first | decide | exact sub_of (by assumption) (by decide)) : Frame F r0
    (State.filterRestart s k) := by
  unfold State.filterRestart
  with_reducible repeat' first
    | assumption | intro _ | exact Frame.refl _ | subst x
    | (extract_lets +onlyGivenNames x; first | (have hx : Frame F r0 x := ?_; clear_value x) | (have hx : Frame F r0 x.1 := ?_; clear_value x) | (have hf := fun a => x a; clear hf) | (have hf : CiphState := x; clear hf) | (have hf : SecState := x; clear hf) | (have hf : LevelSeq := x; clear hf) | (have hf : CstState := x; clear hf) | clear_value x)
    | apply ite_fr | apply State.setB_fr | apply State.modHkm_fr | apply State.modHkmIn_fr | dsimp only | split
    | exact sub_of hF (by decide)

theorem State.pilotLose_fr {F : Nat} {r0 : State} (s : State) (k : Nat) (h0 : Frame F r0 s)
    (hF : F &&& 524289 = 524289 := by first | decide | exact sub_of (by assumption) (by decide)) : Frame F r0
    (State.pilotLose s k) := by
  unfold State.pilotLose
  with_reducible repeat' first
    | assumption | exact sub_of hF (by decide) | apply State.setB_fr | apply State.modHkmIn_fr

theorem State.pilotOut_fr {F : Nat} {r0 : State} (s : State) (k : Nat) (i : HkmInput) (h0 : Frame F r0 s)
    (hF : F &&& 9 = 9 := by first | decide | exact sub_of (by assumption) (by decide)) : Frame F r0 (State.pilotOut s
    k i) := by
  unfold State.pilotOut
  with_reducible repeat' first
    | assumption | intro _ | exact Frame.refl _ | subst x
    | (extract_lets +onlyGivenNames x; first | (have hx : Frame F r0 x := ?_; clear_value x) | (have hx : Frame F r0 x.1 := ?_; clear_value x) | (have hf := fun a => x a; clear hf) | (have hf : CiphState := x; clear hf) | (have hf : SecState := x; clear hf) | (have hf : LevelSeq := x; clear hf) | (have hf : CstState := x; clear hf) | clear_value x)
    | apply ite_fr | apply State.setB_fr | apply State.setInt_fr | apply State.takeFree_fr | dsimp only | split
    | exact sub_of hF (by decide)

theorem State.pilotSample_fr {F : Nat} {r0 : State} (s : State) (k : Nat) (v : Int) (ovr : Bool) (h0 : Frame F r0 s)
    (hF : F &&& 524313 = 524313 := by first | decide | exact sub_of (by assumption) (by decide)) : Frame F r0
    (State.pilotSample s k v ovr) := by
  unfold State.pilotSample
  with_reducible repeat' first
    | assumption | intro _ | exact Frame.refl _ | subst x
    | (extract_lets +onlyGivenNames x; first | (have hx : Frame F r0 x := ?_; clear_value x) | (have hx : Frame F r0 x.1 := ?_; clear_value x) | (have hf := fun a => x a; clear hf) | (have hf : CiphState := x; clear hf) | (have hf : SecState := x; clear hf) | (have hf : LevelSeq := x; clear hf) | (have hf : CstState := x; clear hf) | clear_value x)
    | apply ite_fr | apply State.setB_fr | apply State.raise_fr | apply State.modHkmIn_fr | apply State.pilotLose_fr
    | apply State.pilotOut_fr | dsimp only | split | exact sub_of hF (by decide)

theorem State.peakSample_fr {F : Nat} {r0 : State} (s : State) (k : Nat) (v : Int) (h0 : Frame F r0 s)
    (hF : F &&& 524289 = 524289 := by first | decide | exact sub_of (by assumption) (by decide)) : Frame F r0
    (State.peakSample s k v) := by
  unfold State.peakSample
  with_reducible repeat' first
    | assumption | intro _ | exact Frame.refl _ | subst x
    | (extract_lets +onlyGivenNames x; first | (have hx : Frame F r0 x := ?_; clear_value x) | (have hx : Frame F r0 x.1 := ?_; clear_value x) | (have hf := fun a => x a; clear hf) | (have hf : CiphState := x; clear hf) | (have hf : SecState := x; clear hf) | (have hf : LevelSeq := x; clear hf) | (have hf : CstState := x; clear hf) | clear_value x)
    | apply ite_fr | apply State.setInt_fr | apply State.modHkm_fr | apply State.modHkmIn_fr | dsimp only | split
    | exact sub_of hF (by decide)

theorem State.filterOut_fr {F : Nat} {r0 : State} (s : State) (k : Nat) (h0 : Frame F r0 s)
    (hF : F &&& 17 = 17 := by first | decide | exact sub_of (by assumption) (by decide)) : Frame F r0 (State.filterOut
    s k) := by
  unfold State.filterOut
  with_reducible repeat' first
    | assumption | exact sub_of hF (by decide) | apply ite_fr | apply State.setInt_fr | apply State.setB_fr
    | apply State.setNat_fr | apply State.raiseIf_fr

theorem State.filterSample_fr {F : Nat} {r0 : State} (s : State) (k : Nat) (v : Int) (ovr fill : Bool) (h0 : Frame F
    r0 s)
    (hF : F &&& 524313 = 524313 := by first | decide | exact sub_of (by assumption) (by decide)) : Frame F r0
    (State.filterSample s k v ovr fill) := by
  unfold State.filterSample
  with_reducible repeat' first
    | assumption | intro _ | exact Frame.refl _ | subst x
    | (extract_lets +onlyGivenNames x; first | (have hx : Frame F r0 x := ?_; clear_value x) | (have hx : Frame F r0 x.1 := ?_; clear_value x) | (have hf := fun a => x a; clear hf) | (have hf : CiphState := x; clear hf) | (have hf : SecState := x; clear hf) | (have hf : LevelSeq := x; clear hf) | (have hf : CstState := x; clear hf) | clear_value x)
    | apply ite_fr | apply State.modHkmIn_fr | apply State.pilotSample_fr | apply State.peakSample_fr
    | apply State.filterOut_fr | dsimp only | split | exact sub_of hF (by decide)

theorem State.hkmTrigger_fr {F : Nat} {r0 : State} (s : State) (x : Nat) (h0 : Frame F r0 s)
    (hF : F &&& 540689 = 540689 := by first | decide | exact sub_of (by assumption) (by decide)) : Frame F r0
    (State.hkmTrigger s x) := by
  unfold State.hkmTrigger
  with_reducible repeat' first
    | assumption | exact sub_of hF (by decide) | apply ite_fr | apply State.raise_fr | apply State.addCnt_fr
    | apply State.modHkmConv_fr

theorem State.hkmTriggers_fr {F : Nat} {r0 : State} (s : State) (src idx : Nat) (edge : Option Bool) (h0 : Frame F r0
    s) (hF : F &&& 540689 = 540689 := by first | decide | exact sub_of (by assumption) (by decide)) : Frame F r0
    (State.hkmTriggers s src idx edge) := by
  unfold State.hkmTriggers
  with_reducible repeat' first
    | assumption | exact sub_of hF (by decide) | exact Frame.refl _ | assumption | apply ite_fr | apply itep_fr
    | apply State.hkmTrigger_fr | apply foldl_fr | intro _
    | (extract_lets +onlyGivenNames x; first | (have hx : Frame F r0 x := ?_; clear_value x) | (have hx : Frame F r0 x.1 := ?_; clear_value x) | (have hf := fun a => x a; clear hf) | (have hf : CiphState := x; clear hf) | (have hf : SecState := x; clear hf) | clear_value x)
    | split

theorem State.timerFrom_fr {F : Nat} {r0 : State} (s : State) (t c : Nat) (h0 : Frame F r0 s)
    (hF : F &&& 524288 = 524288 := by first | decide | exact sub_of (by assumption) (by decide)) : Frame F r0
    (State.timerFrom s t c) := by
  unfold State.timerFrom
  with_reducible repeat' first
    | assumption | intro _ | exact Frame.refl _ | subst x
    | (extract_lets +onlyGivenNames x; first | (have hx : Frame F r0 x := ?_; clear_value x) | (have hx : Frame F r0 x.1 := ?_; clear_value x) | (have hf := fun a => x a; clear hf) | (have hf : CiphState := x; clear hf) | (have hf : SecState := x; clear hf) | (have hf : LevelSeq := x; clear hf) | (have hf : CstState := x; clear hf) | clear_value x)
    | apply ite_fr | apply State.modHkm_fr | dsimp only | split | exact sub_of hF (by decide)

theorem State.writeTimer_fr {F : Nat} {r0 : State} (s : State) (t : Nat) (v : Word) (h0 : Frame F r0 s)
    (hF : F &&& 524289 = 524289 := by first | decide | exact sub_of (by assumption) (by decide)) : Frame F r0
    (State.writeTimer s t v) := by
  unfold State.writeTimer
  with_reducible repeat' first
    | assumption | intro _ | exact Frame.refl _ | subst x
    | (extract_lets +onlyGivenNames x; first | (have hx : Frame F r0 x := ?_; clear_value x) | (have hx : Frame F r0 x.1 := ?_; clear_value x) | (have hf := fun a => x a; clear hf) | (have hf : CiphState := x; clear hf) | (have hf : SecState := x; clear hf) | (have hf : LevelSeq := x; clear hf) | (have hf : CstState := x; clear hf) | clear_value x)
    | apply ite_fr | apply State.setReg_fr | apply State.timerFrom_fr | dsimp only | split
    | exact sub_of hF (by decide)

theorem State.pwmCatch_fr {F : Nat} {r0 : State} (s : State) (k : Nat) (h0 : Frame F r0 s)
    (hF : F &&& 524288 = 524288 := by first | decide | exact sub_of (by assumption) (by decide)) : Frame F r0
    (State.pwmCatch s k) := by
  unfold State.pwmCatch
  with_reducible repeat' first
    | assumption | intro _ | exact Frame.refl _ | subst x
    | (extract_lets +onlyGivenNames x; first | (have hx : Frame F r0 x := ?_; clear_value x) | (have hx : Frame F r0 x.1 := ?_; clear_value x) | (have hf := fun a => x a; clear hf) | (have hf : CiphState := x; clear hf) | (have hf : SecState := x; clear hf) | (have hf : LevelSeq := x; clear hf) | (have hf : CstState := x; clear hf) | clear_value x)
    | apply ite_fr | apply itep_fr | apply State.modHkm_fr | dsimp only | (apply fst_fr; assumption) | split
    | exact sub_of hF (by decide)

theorem State.pwmEdge_fr {F : Nat} {r0 : State} (s : State) (k t : Nat) (falling : Bool) (h0 : Frame F r0 s)
    (hF : F &&& 8929301 = 8929301 := by first | decide | exact sub_of (by assumption) (by decide)) : Frame F r0
    (State.pwmEdge s k t falling) := by
  unfold State.pwmEdge
  with_reducible repeat' first
    | assumption | intro _ | exact Frame.refl _ | subst x
    | (extract_lets +onlyGivenNames x; first | (have hx : Frame F r0 x := ?_; clear_value x) | (have hx : Frame F r0 x.1 := ?_; clear_value x) | (have hf := fun a => x a; clear hf) | (have hf : CiphState := x; clear hf) | (have hf : SecState := x; clear hf) | (have hf : LevelSeq := x; clear hf) | (have hf : CstState := x; clear hf) | clear_value x)
    | apply ite_fr | apply State.waitClk_fr | apply State.modHkm_fr | apply State.hkmTriggers_fr | dsimp only
    | split | exact sub_of hF (by decide)

theorem State.thermReading_fr {F : Nat} {r0 : State} (s : State) (k : Nat) (temp : Int) (h0 : Frame F r0 s)
    (hF : F &&& 536870912 = 536870912 := by first | decide | exact sub_of (by assumption) (by decide)) : Frame F r0
    (State.thermReading s k temp) := by
  unfold State.thermReading
  with_reducible repeat' first
    | assumption | exact Frame.refl _ | exact id_fr _ | assumption | apply ite_fr | apply itep_fr | apply foldl_fr
    | apply foldlp_fr | intro _
    | (extract_lets +onlyGivenNames x; first | (have hx : Frame F r0 x := ?_; clear_value x) | (have hx : Frame F r0 x.1 := ?_; clear_value x) | (have hf := fun a => x a; clear hf) | (have hf : CiphState := x; clear hf) | (have hf : SecState := x; clear hf) | clear_value x)
    | subst x | dsimp only | (apply fst_fr; assumption) | split | refine Frame.raw ?_ | exact sub_of hF (by decide)

theorem State.hkmRead_fr {F : Nat} {r0 : State} (s : State) (x : Nat) (h0 : Frame F r0 s)
    (hF : F &&& 1 = 1 := by first | decide | exact sub_of (by assumption) (by decide)) : Frame F r0 (State.hkmRead s
    x) := by
  unfold State.hkmRead
  with_reducible repeat' first | assumption | exact sub_of hF (by decide) | apply State.setB_fr

theorem State.writePwmCfg_fr {F : Nat} {r0 : State} (s : State) (k : Nat) (v : Word) (h0 : Frame F r0 s)
    (hF : F &&& 524305 = 524305 := by first | decide | exact sub_of (by assumption) (by decide)) : Frame F r0
    (State.writePwmCfg s k v).1 := by
  unfold State.writePwmCfg
  with_reducible repeat' first
    | assumption | intro _ | exact Frame.refl _ | subst x
    | (extract_lets +onlyGivenNames x; first | (have hx : Frame F r0 x := ?_; clear_value x) | (have hx : Frame F r0 x.1 := ?_; clear_value x) | (have hf := fun a => x a; clear hf) | (have hf : CiphState := x; clear hf) | (have hf : SecState := x; clear hf) | (have hf : LevelSeq := x; clear hf) | (have hf : CstState := x; clear hf) | clear_value x)
    | apply ite_fr | apply itep_fr | apply State.setReg_fr | apply State.raise_fr | apply State.modHkm_fr
    | apply State.hkmShow_fr | dsimp only | (apply fst_fr; assumption) | split | exact sub_of hF (by decide)

theorem State.writePwmDuty_fr {F : Nat} {r0 : State} (s : State) (k : Nat) (v : Word) (h0 : Frame F r0 s)
    (hF : F &&& 524289 = 524289 := by first | decide | exact sub_of (by assumption) (by decide)) : Frame F r0
    (State.writePwmDuty s k v) := by
  unfold State.writePwmDuty
  with_reducible repeat' first
    | assumption | intro _ | exact Frame.refl _ | subst x
    | (extract_lets +onlyGivenNames x; first | (have hx : Frame F r0 x := ?_; clear_value x) | (have hx : Frame F r0 x.1 := ?_; clear_value x) | (have hf := fun a => x a; clear hf) | (have hf : CiphState := x; clear hf) | (have hf : SecState := x; clear hf) | (have hf : LevelSeq := x; clear hf) | (have hf : CstState := x; clear hf) | clear_value x)
    | apply ite_fr | apply State.setNat_fr | apply State.modHkm_fr | dsimp only | split
    | exact sub_of hF (by decide)

theorem State.writeTrig_fr {F : Nat} {r0 : State} (s : State) (x : Nat) (v : Word) (h0 : Frame F r0 s)
    (hF : F &&& 17 = 17 := by first | decide | exact sub_of (by assumption) (by decide)) : Frame F r0 (State.writeTrig
    s x v).1 := by
  unfold State.writeTrig
  with_reducible repeat' first
    | assumption | exact sub_of hF (by decide) | apply ite_fr | apply State.raise_fr | apply State.setReg_fr | split

theorem State.hkmStale_fr {F : Nat} {r0 : State} (s : State) (k : Nat) (v : Bool) (h0 : Frame F r0 s)
    (hF : F &&& 524289 = 524289 := by first | decide | exact sub_of (by assumption) (by decide)) : Frame F r0
    (State.hkmStale s k v) := by
  unfold State.hkmStale
  with_reducible repeat' first
    | assumption | exact sub_of hF (by decide) | apply ite_fr | apply State.setB_fr | apply State.modHkmIn_fr
    | apply State.hkmShow_fr | apply State.filterRestart_fr

theorem State.staleShow_fr {F : Nat} {r0 : State} (s : State) (h0 : Frame F r0 s)
    (hF : F &&& 524289 = 524289 := by first | decide | exact sub_of (by assumption) (by decide)) : Frame F r0
    (State.staleShow s) := by
  unfold State.staleShow
  with_reducible repeat' first
    | assumption | intro _ | exact Frame.refl _ | subst x
    | (extract_lets +onlyGivenNames x; first | (have hx : Frame F r0 x := ?_; clear_value x) | (have hx : Frame F r0 x.1 := ?_; clear_value x) | (have hf := fun a => x a; clear hf) | (have hf : CiphState := x; clear hf) | (have hf : SecState := x; clear hf) | (have hf : LevelSeq := x; clear hf) | (have hf : CstState := x; clear hf) | clear_value x)
    | apply ite_fr | apply State.hkmStale_fr | apply foldl_fr_of | dsimp only | split | exact sub_of hF (by decide)

theorem State.followA_fr {F : Nat} {r0 : State} (s : State) (h0 : Frame F r0 s)
    (hF : F &&& 524288 = 524288 := by first | decide | exact sub_of (by assumption) (by decide)) : Frame F r0
    (State.followA s) := by
  unfold State.followA
  with_reducible repeat' first
    | assumption | intro _ | exact Frame.refl _ | subst x
    | (extract_lets +onlyGivenNames x; first | (have hx : Frame F r0 x := ?_; clear_value x) | (have hx : Frame F r0 x.1 := ?_; clear_value x) | (have hf := fun a => x a; clear hf) | (have hf : CiphState := x; clear hf) | (have hf : SecState := x; clear hf) | (have hf : LevelSeq := x; clear hf) | (have hf : CstState := x; clear hf) | clear_value x)
    | apply ite_fr | apply State.modHkmConv_fr | dsimp only | split | exact sub_of hF (by decide)

theorem State.writeHkmCtrl_fr {F : Nat} {r0 : State} (s : State) (v : Nat) (h0 : Frame F r0 s)
    (hF : F &&& 524289 = 524289 := by first | decide | exact sub_of (by assumption) (by decide)) : Frame F r0
    (State.writeHkmCtrl s v) := by
  unfold State.writeHkmCtrl
  with_reducible repeat' first
    | assumption | intro _ | exact Frame.refl _ | subst x
    | (extract_lets +onlyGivenNames x; first | (have hx : Frame F r0 x := ?_; clear_value x) | (have hx : Frame F r0 x.1 := ?_; clear_value x) | (have hf := fun a => x a; clear hf) | (have hf : CiphState := x; clear hf) | (have hf : SecState := x; clear hf) | (have hf : LevelSeq := x; clear hf) | (have hf : CstState := x; clear hf) | clear_value x)
    | apply ite_fr | apply State.setNat_fr | apply State.modHkmConv_fr | apply State.hkmShow_fr
    | apply State.filterRestart_fr | apply State.staleShow_fr | apply State.followA_fr | apply foldl_fr_of
    | dsimp only | split | exact sub_of hF (by decide)

theorem State.hkmCourse_fr {F : Nat} {r0 : State} (s before : State) (addrs : List Nat) (h0 : Frame F r0 s)
    (hF : F &&& 524289 = 524289 := by first | decide | exact sub_of (by assumption) (by decide)) : Frame F r0
    (State.hkmCourse s before addrs) := by
  unfold State.hkmCourse
  with_reducible repeat' first
    | assumption | intro _ | exact Frame.refl _ | subst x
    | (extract_lets +onlyGivenNames x; first | (have hx : Frame F r0 x := ?_; clear_value x) | (have hx : Frame F r0 x.1 := ?_; clear_value x) | (have hf := fun a => x a; clear hf) | (have hf : CiphState := x; clear hf) | (have hf : SecState := x; clear hf) | (have hf : LevelSeq := x; clear hf) | (have hf : CstState := x; clear hf) | clear_value x)
    | apply ite_fr | apply State.modHkmConv_fr | apply State.filterRestart_fr | apply State.staleShow_fr
    | apply foldl_fr_of | dsimp only | split | exact sub_of hF (by decide)

theorem State.hkmSafe_fr {F : Nat} {r0 : State} (s : State) (h0 : Frame F r0 s)
    (hF : F &&& 524305 = 524305 := by first | decide | exact sub_of (by assumption) (by decide)) : Frame F r0
    (State.hkmSafe s) := by
  unfold State.hkmSafe
  with_reducible repeat' first
    | assumption | exact sub_of hF (by decide) | exact Frame.refl _ | assumption | apply ite_fr | apply itep_fr
    | apply State.set_fr | apply State.setB_fr | apply State.modHkm_fr | apply State.raise_fr | apply State.hkmShow_fr
    | apply foldl_fr | intro _
    | (extract_lets +onlyGivenNames x; first | (have hx : Frame F r0 x := ?_; clear_value x) | (have hx : Frame F r0 x.1 := ?_; clear_value x) | (have hf := fun a => x a; clear hf) | (have hf : CiphState := x; clear hf) | (have hf : SecState := x; clear hf) | clear_value x)
    | split

theorem State.hkmDefault_fr {F : Nat} {r0 : State} (s : State) (h0 : Frame F r0 s)
    (hF : F &&& 524291 = 524291 := by first | decide | exact sub_of (by assumption) (by decide)) : Frame F r0 s.hkmDefault := by
  unfold State.hkmDefault
  extract_lets staged t
  have h1 : Frame F r0 t := State.resetRange_fr h0 _ _ _
  clear_value t
  exact Frame.raw h1

theorem State.hkmReset_fr {F : Nat} {r0 : State} (s : State) (h0 : Frame F r0 s)
    (hF : F &&& 524307 = 524307 := by first | decide | exact sub_of (by assumption) (by decide)) : Frame F r0
    (State.hkmReset s) := by
  unfold State.hkmReset
  with_reducible repeat' first
    | assumption | exact sub_of hF (by decide) | apply State.raise_fr | apply State.setB_fr
    | apply State.hkmDefault_fr

end Sys2Proof.Machine
end

