-- ==== Sys2Proof/Laws/FrameCourse.lean ====
section
/-!
SUPPORT. Which parts of the state an operation leaves as they are: Courses and line frames.
-/

-- one theorem after another: all at once would not fit the memory
set_option Elab.async false
set_option linter.all false

namespace Sys2Proof.Machine

/-! ### CourseCheck.lean -/

theorem State.putItem_fr {F : Nat} {r0 : State} (s : State) (a mask v : Nat) (h0 : Frame F r0 s)
    (hF : F &&& 1 = 1 := by first | decide | exact sub_of (by assumption) (by decide)) : Frame F r0 (State.putItem s a
    mask v) := by
  unfold State.putItem
  with_reducible repeat' first | assumption | exact sub_of hF (by decide) | apply ite_fr | apply State.setNat_fr

theorem State.putRxMap_fr {F : Nat} {r0 : State} (s : State) (e : Nat × Nat × Nat) (h0 : Frame F r0 s)
    (hF : F &&& 65536 = 65536 := by first | decide | exact sub_of (by assumption) (by decide)) : Frame F r0
    (State.putRxMap s e) :=
  Frame.raw h0

theorem State.after_fr {F : Nat} {r0 : State} (s : State) (ws : List Staged) (h0 : Frame F r0 s)
    (hF : F &&& 65537 = 65537 := by first | decide | exact sub_of (by assumption) (by decide)) : Frame F r0
    (State.after s ws) := by
  unfold State.after
  with_reducible repeat' first
    | assumption | exact sub_of hF (by decide) | exact Frame.refl _ | assumption | apply ite_fr | apply itep_fr
    | apply State.putItem_fr | apply State.putRxMap_fr | apply foldl_fr | intro _
    | (extract_lets +onlyGivenNames x; first | (have hx : Frame F r0 x := ?_; clear_value x) | (have hx : Frame F r0 x.1 := ?_; clear_value x) | (have hf := fun a => x a; clear hf) | (have hf : CiphState := x; clear hf) | (have hf : SecState := x; clear hf) | clear_value x)
    | split

/-! ### Course.lean -/

theorem State.modCrs_fr {F : Nat} {r0 : State} (s : State) (f : CourseSeq → CourseSeq) (h0 : Frame F r0 s)
    (hF : F &&& 32768 = 32768 := by first | decide | exact sub_of (by assumption) (by decide)) : Frame F r0
    (State.modCrs s f) :=
  Frame.raw h0

theorem State.modArmed_fr {F : Nat} {r0 : State} (s : State) (f : Armed → Armed) (h0 : Frame F r0 s)
    (hF : F &&& 32768 = 32768 := by first | decide | exact sub_of (by assumption) (by decide)) : Frame F r0
    (State.modArmed s f) := by
  unfold State.modArmed
  with_reducible repeat' first | assumption | exact sub_of hF (by decide) | apply State.modCrs_fr

theorem State.stage_fr {F : Nat} {r0 : State} (s : State) (by_ : Source) (w : Staged) (h0 : Frame F r0 s)
    (hF : F &&& 32768 = 32768 := by first | decide | exact sub_of (by assumption) (by decide)) : Frame F r0
    (State.stage s by_ w).1 := by
  unfold State.stage
  with_reducible repeat' first | assumption | exact sub_of hF (by decide) | apply ite_fr | apply State.modCrs_fr | split

theorem State.stagePcie_fr {F : Nat} {r0 : State} (s : State) (addr v : Nat) (h0 : Frame F r0 s)
    (hF : F &&& 32785 = 32785 := by first | decide | exact sub_of (by assumption) (by decide)) : Frame F r0
    (State.stagePcie s addr v) := by
  unfold State.stagePcie
  with_reducible repeat' first
    | assumption | exact sub_of hF (by decide) | exact Frame.refl _ | assumption | apply ite_fr | apply itep_fr
    | apply State.stage_fr | apply State.logAcc_fr | apply foldl_fr | intro _
    | (extract_lets +onlyGivenNames x; first | (have hx : Frame F r0 x := ?_; clear_value x) | (have hx : Frame F r0 x.1 := ?_; clear_value x) | (have hf := fun a => x a; clear hf) | (have hf : CiphState := x; clear hf) | (have hf : SecState := x; clear hf) | clear_value x)
    | split

theorem State.stageCop_fr {F : Nat} {r0 : State} (s : State) (k index sub : Nat) (v : List Byte) (h0 : Frame F r0 s)
    (hF : F &&& 32768 = 32768 := by first | decide | exact sub_of (by assumption) (by decide)) : Frame F r0
    (State.stageCop s k index sub v).1 := by
  unfold State.stageCop
  with_reducible repeat' first
    | assumption | exact sub_of hF (by decide) | exact Frame.refl _ | assumption | apply ite_fr | apply itep_fr
    | apply State.stage_fr | apply foldl_fr | intro _
    | (extract_lets +onlyGivenNames x; first | (have hx : Frame F r0 x := ?_; clear_value x) | (have hx : Frame F r0 x.1 := ?_; clear_value x) | (have hf := fun a => x a; clear hf) | (have hf : CiphState := x; clear hf) | (have hf : SecState := x; clear hf) | clear_value x)
    | split

theorem State.courseResult_fr {F : Nat} {r0 : State} (s : State) (by_ : Source) (code : Code) (w : Nat × Nat) (commit
    : Bool) (h0 : Frame F r0 s)
    (hF : F &&& 32785 = 32785 := by first | decide | exact sub_of (by assumption) (by decide)) : Frame F r0
    (State.courseResult s by_ code w commit) := by
  unfold State.courseResult
  with_reducible repeat' first
    | assumption | exact sub_of hF (by decide) | apply ite_fr | apply State.modCrs_fr | apply State.setNat_fr
    | apply State.setB_fr | apply State.set_fr | apply State.raiseIf_fr | apply State.emit_fr | split

theorem State.courseLog_fr {F : Nat} {r0 : State} (s : State) (by_ : Source) (code : Code) (h0 : Frame F r0 s)
    (hF : F &&& 17 = 17 := by first | decide | exact sub_of (by assumption) (by decide)) : Frame F r0 (State.courseLog
    s by_ code) := by
  unfold State.courseLog
  with_reducible repeat' first | assumption | exact sub_of hF (by decide) | apply ite_fr | apply State.logAcc_fr | split

theorem State.commit_fr {F : Nat} {r0 : State} (s : State) (by_ : Source) (mode number : Nat) (t : Time80) (h0 : Frame
    F r0 s) (hF : F &&& 32785 = 32785 := by first | decide | exact sub_of (by assumption) (by decide)) : Frame F r0
    (State.commit s by_ mode number t) := by
  unfold State.commit
  with_reducible repeat' first
    | assumption | exact sub_of hF (by decide) | apply ite_fr | apply State.courseResult_fr | apply State.courseLog_fr
    | apply State.modCrs_fr | split

theorem State.setCommit_fr {F : Nat} {r0 : State} (s : State) (number : Nat) (t : Time80) (h0 : Frame F r0 s)
    (hF : F &&& 1 = 1 := by first | decide | exact sub_of (by assumption) (by decide)) : Frame F r0 (State.setCommit s
    number t) := by
  unfold State.setCommit
  with_reducible repeat' first | assumption | exact sub_of hF (by decide) | apply State.set_fr | apply State.setNat_fr

theorem State.commitPcie_fr {F : Nat} {r0 : State} (s : State) (mode : Nat) (h0 : Frame F r0 s)
    (hF : F &&& 32785 = 32785 := by first | decide | exact sub_of (by assumption) (by decide)) : Frame F r0
    (State.commitPcie s mode) := by
  unfold State.commitPcie
  with_reducible repeat' first | assumption | exact sub_of hF (by decide) | apply State.commit_fr

theorem State.discard_fr {F : Nat} {r0 : State} (s : State) (by_ : Source) (h0 : Frame F r0 s)
    (hF : F &&& 32785 = 32785 := by first | decide | exact sub_of (by assumption) (by decide)) : Frame F r0
    (State.discard s by_) := by
  unfold State.discard
  with_reducible repeat' first
    | assumption | exact sub_of hF (by decide) | apply ite_fr | apply State.modCrs_fr | apply State.courseResult_fr
    | apply State.courseLog_fr

theorem State.announceCourse_fr {F : Nat} {r0 : State} (s : State) (a : Armed) (state : Nat) (h0 : Frame F r0 s)
    (hF : F &&& 18449 = 18449 := by first | decide | exact sub_of (by assumption) (by decide)) : Frame F r0
    (State.announceCourse s a state) := by
  unfold State.announceCourse
  with_reducible repeat' first
    | assumption | exact sub_of hF (by decide) | exact Frame.refl _ | assumption | apply ite_fr | apply itep_fr
    | apply State.eachLane_fr | apply State.ksCourse_fr | apply foldl_fr | intro _
    | (extract_lets +onlyGivenNames x; first | (have hx : Frame F r0 x := ?_; clear_value x) | (have hx : Frame F r0 x.1 := ?_; clear_value x) | (have hf := fun a => x a; clear hf) | (have hf : CiphState := x; clear hf) | (have hf : SecState := x; clear hf) | clear_value x)
    | split

theorem State.rematchAll_fr {F : Nat} {r0 : State} (s : State) (h0 : Frame F r0 s)
    (hF : F &&& 17 = 17 := by first | decide | exact sub_of (by assumption) (by decide)) : Frame F r0
    (State.rematchAll s) := by
  unfold State.rematchAll
  with_reducible repeat' first
    | assumption | exact sub_of hF (by decide) | exact Frame.refl _ | assumption | apply ite_fr | apply itep_fr
    | apply State.eachLane_fr | apply State.crsRematch_fr | apply foldl_fr | intro _
    | (extract_lets +onlyGivenNames x; first | (have hx : Frame F r0 x := ?_; clear_value x) | (have hx : Frame F r0 x.1 := ?_; clear_value x) | (have hf := fun a => x a; clear hf) | (have hf : CiphState := x; clear hf) | (have hf : SecState := x; clear hf) | clear_value x)
    | split

theorem State.arm_fr {F : Nat} {r0 : State} (s : State) (v : Validating) (h0 : Frame F r0 s)
    (hF : F &&& 116753 = 116753 := by first | decide | exact sub_of (by assumption) (by decide)) : Frame F r0
    (State.arm s v) := by
  unfold State.arm
  with_reducible repeat' first
    | assumption | intro _ | exact Frame.refl _ | subst x
    | (extract_lets +onlyGivenNames x; first | (have hx : Frame F r0 x := ?_; clear_value x) | (have hx : Frame F r0 x.1 := ?_; clear_value x) | (have hf := fun a => x a; clear hf) | (have hf : CiphState := x; clear hf) | (have hf : SecState := x; clear hf) | (have hf : LevelSeq := x; clear hf) | (have hf : CstState := x; clear hf) | clear_value x)
    | apply ite_fr | apply State.after_fr | apply State.modCrs_fr | apply State.announceCourse_fr
    | apply State.rematchAll_fr | dsimp only | split | exact sub_of hF (by decide)

theorem State.abortArmed_fr {F : Nat} {r0 : State} (s : State) (a : Armed) (h0 : Frame F r0 s)
    (hF : F &&& 51217 = 51217 := by first | decide | exact sub_of (by assumption) (by decide)) : Frame F r0
    (State.abortArmed s a) := by
  unfold State.abortArmed
  with_reducible repeat' first
    | assumption | intro _ | exact Frame.refl _ | subst x
    | (extract_lets +onlyGivenNames x; first | (have hx : Frame F r0 x := ?_; clear_value x) | (have hx : Frame F r0 x.1 := ?_; clear_value x) | (have hf := fun a => x a; clear hf) | (have hf : CiphState := x; clear hf) | (have hf : SecState := x; clear hf) | (have hf : LevelSeq := x; clear hf) | (have hf : CstState := x; clear hf) | clear_value x)
    | apply ite_fr | apply State.set_fr | apply State.eachLane_fr_of | apply State.modCrs_fr
    | apply State.announceCourse_fr | apply State.rematchAll_fr | dsimp only | split | exact sub_of hF (by decide)

theorem State.abort_fr {F : Nat} {r0 : State} (s : State) (by_ : Source) (h0 : Frame F r0 s)
    (hF : F &&& 51217 = 51217 := by first | decide | exact sub_of (by assumption) (by decide)) : Frame F r0
    (State.abort s by_) := by
  unfold State.abort
  with_reducible repeat' first
    | assumption | exact sub_of hF (by decide) | apply ite_fr | apply State.courseResult_fr
    | apply State.abortArmed_fr | split

theorem State.putItems_fr {F : Nat} {r0 : State} (s : State) (is : List CourseItem) (h0 : Frame F r0 s)
    (hF : F &&& 1 = 1 := by first | decide | exact sub_of (by assumption) (by decide)) : Frame F r0 (State.putItems s
    is) := by
  unfold State.putItems
  with_reducible repeat' first
    | assumption | exact sub_of hF (by decide) | exact Frame.refl _ | assumption | apply ite_fr | apply itep_fr
    | apply State.putItem_fr | apply foldl_fr | intro _
    | (extract_lets +onlyGivenNames x; first | (have hx : Frame F r0 x := ?_; clear_value x) | (have hx : Frame F r0 x.1 := ?_; clear_value x) | (have hf := fun a => x a; clear hf) | (have hf : CiphState := x; clear hf) | (have hf : SecState := x; clear hf) | clear_value x)
    | split

theorem State.takeItems_fr {F : Nat} {r0 : State} (s : State) (a : Armed) (spot : Spot) (h0 : Frame F r0 s)
    (hF : F &&& 136364049 = 136364049 := by first | decide | exact sub_of (by assumption) (by decide)) : Frame F r0
    (State.takeItems s a spot).1 := by
  unfold State.takeItems
  with_reducible repeat' first
    | assumption | intro _ | exact Frame.refl _ | subst x
    | (extract_lets +onlyGivenNames x; first | (have hx : Frame F r0 x := ?_; clear_value x) | (have hx : Frame F r0 x.1 := ?_; clear_value x) | (have hf := fun a => x a; clear hf) | (have hf : CiphState := x; clear hf) | (have hf : SecState := x; clear hf) | (have hf : LevelSeq := x; clear hf) | (have hf : CstState := x; clear hf) | clear_value x)
    | apply ite_fr | apply itep_fr | apply State.set_fr | apply State.raise_fr | apply State.jobsTo_fr
    | apply State.keepBefore_fr | apply State.modArmed_fr | apply foldl_fr_of | dsimp only
    | (apply fst_fr; assumption) | split | exact sub_of hF (by decide)

theorem State.courseCtxs_fr {F : Nat} {r0 : State} (s before : State) (a : Armed) (is : List CourseItem) (h0 : Frame
    F r0 s)
    (hF : F &&& 134217745 = 134217745 := by first | decide | exact sub_of (by assumption) (by decide)) : Frame F r0
    (State.courseCtxs s before a is) := by
  unfold State.courseCtxs
  with_reducible repeat' first
    | assumption | intro _ | exact Frame.refl _ | subst x
    | (extract_lets +onlyGivenNames x; first | (have hx : Frame F r0 x := ?_; clear_value x) | (have hx : Frame F r0 x.1 := ?_; clear_value x) | (have hf := fun a => x a; clear hf) | (have hf : CiphState := x; clear hf) | (have hf : SecState := x; clear hf) | (have hf : LevelSeq := x; clear hf) | (have hf : CstState := x; clear hf) | clear_value x)
    | apply ite_fr | apply State.ctxCourse_fr | apply foldl_fr_of | dsimp only | split | exact sub_of hF (by decide)

theorem State.txItemsIn_fr {F : Nat} {r0 : State} (s before : State) (n : Lane) (a : Armed) (is : List CourseItem)
    (h0 : Frame F r0 s)
    (hF : F &&& 134301913 = 134301913 := by first | decide | exact sub_of (by assumption) (by decide)) : Frame F r0
    (State.txItemsIn s before n a is) := by
  unfold State.txItemsIn
  with_reducible repeat' first
    | assumption | intro _ | exact Frame.refl _ | subst x
    | (extract_lets +onlyGivenNames x; first | (have hx : Frame F r0 x := ?_; clear_value x) | (have hx : Frame F r0 x.1 := ?_; clear_value x) | (have hf := fun a => x a; clear hf) | (have hf : CiphState := x; clear hf) | (have hf : SecState := x; clear hf) | (have hf : LevelSeq := x; clear hf) | (have hf : CstState := x; clear hf) | clear_value x)
    | apply ite_fr | apply State.modTx_fr | apply State.raise_fr | apply State.showTxFmt_fr
    | apply State.flowCourse_fr | apply State.showKsOn_fr | apply State.kscJudge_fr | apply State.courseCtxs_fr
    | apply foldl_fr_of | dsimp only | split | exact sub_of hF (by decide)

theorem State.courseDone_fr {F : Nat} {r0 : State} (s : State) (h0 : Frame F r0 s)
    (hF : F &&& 32785 = 32785 := by first | decide | exact sub_of (by assumption) (by decide)) : Frame F r0
    (State.courseDone s) := by
  unfold State.courseDone
  with_reducible repeat' first
    | assumption | exact sub_of hF (by decide) | apply ite_fr | apply State.modCrs_fr | apply State.rematchAll_fr
    | apply State.raise_fr | split

theorem State.recordTx_fr {F : Nat} {r0 : State} (s : State) (n : Lane) (h0 : Frame F r0 s)
    (hF : F &&& 32768 = 32768 := by first | decide | exact sub_of (by assumption) (by decide)) : Frame F r0
    (State.recordTx s n) := by
  unfold State.recordTx
  with_reducible repeat' first | assumption | exact sub_of hF (by decide) | apply State.modArmed_fr

theorem State.recordRx_fr {F : Nat} {r0 : State} (s : State) (n : Lane) (h0 : Frame F r0 s)
    (hF : F &&& 32768 = 32768 := by first | decide | exact sub_of (by assumption) (by decide)) : Frame F r0
    (State.recordRx s n) := by
  unfold State.recordRx
  with_reducible repeat' first | assumption | exact sub_of hF (by decide) | apply State.modArmed_fr

theorem State.courseTx_fr {F : Nat} {r0 : State} (s : State) (n : Lane) (h0 : Frame F r0 s)
    (hF : F &&& 136431833 = 136431833 := by first | decide | exact sub_of (by assumption) (by decide)) : Frame F r0
    (State.courseTx s n) := by
  unfold State.courseTx
  with_reducible repeat' first
    | assumption | exact sub_of hF (by decide) | apply ite_fr | apply State.takeItems_fr | apply State.txItemsIn_fr
    | apply State.putItems_fr | apply State.bridgeCheck_fr | apply State.setNat_fr | apply State.set_fr
    | apply State.timeRefresh_fr | apply State.ksCourse_fr | apply State.recordTx_fr | apply State.courseDone_fr
    | split

theorem State.mapChanges_fr {F : Nat} {r0 : State} (s before : State) (n : Lane) (h0 : Frame F r0 s)
    (hF : F &&& 12583937 = 12583937 := by first | decide | exact sub_of (by assumption) (by decide)) : Frame F r0
    (State.mapChanges s before n) := by
  unfold State.mapChanges
  with_reducible repeat' first
    | assumption | exact sub_of hF (by decide) | exact Frame.refl _ | assumption | apply ite_fr | apply itep_fr
    | apply State.mapChange_fr | apply State.tapChange_fr | apply State.tapGone_fr | apply State.touch_fr
    | apply foldl_fr | intro _
    | (extract_lets +onlyGivenNames x; first | (have hx : Frame F r0 x := ?_; clear_value x) | (have hx : Frame F r0 x.1 := ?_; clear_value x) | (have hf := fun a => x a; clear hf) | (have hf : CiphState := x; clear hf) | (have hf : SecState := x; clear hf) | clear_value x)
    | split

theorem State.rxItemsIn_fr {F : Nat} {r0 : State} (s before : State) (n : Lane) (a : Armed) (is : List CourseItem)
    (h0 : Frame F r0 s)
    (hF : F &&& 180441041 = 180441041 := by first | decide | exact sub_of (by assumption) (by decide)) : Frame F r0
    (State.rxItemsIn s before n a is) := by
  unfold State.rxItemsIn
  with_reducible repeat' first
    | assumption | intro _ | exact Frame.refl _ | subst x
    | (extract_lets +onlyGivenNames x; first | (have hx : Frame F r0 x := ?_; clear_value x) | (have hx : Frame F r0 x.1 := ?_; clear_value x) | (have hf := fun a => x a; clear hf) | (have hf : CiphState := x; clear hf) | (have hf : SecState := x; clear hf) | (have hf : LevelSeq := x; clear hf) | (have hf : CstState := x; clear hf) | clear_value x)
    | apply ite_fr | apply State.rxFmtTurn_fr | apply State.touch_fr | apply State.familyTurn_fr
    | apply State.showFlow_fr | apply State.nlcChanged_fr | apply State.rxdCourse_fr | apply State.kscJudge_fr
    | apply State.putRxMap_fr | apply State.after_fr | apply State.courseCtxs_fr | apply State.mapChanges_fr
    | apply foldl_fr_of | dsimp only | split | exact sub_of hF (by decide)

theorem State.courseRx_fr {F : Nat} {r0 : State} (s : State) (n : Lane) (h0 : Frame F r0 s)
    (hF : F &&& 182570961 = 182570961 := by first | decide | exact sub_of (by assumption) (by decide)) : Frame F r0
    (State.courseRx s n) := by
  unfold State.courseRx
  with_reducible repeat' first
    | assumption | exact sub_of hF (by decide) | apply ite_fr | apply State.takeItems_fr | apply State.rxItemsIn_fr
    | apply State.putItems_fr | apply State.modLfr_fr | apply State.setNat_fr | apply State.courseDone_fr
    | apply State.timeRefresh_fr | apply State.recordRx_fr | split

theorem State.strobeItemsIn_fr {F : Nat} {r0 : State} (s before : State) (a : Armed) (is : List CourseItem) (h0 :
    Frame F r0 s)
    (hF : F &&& 151535633 = 151535633 := by first | decide | exact sub_of (by assumption) (by decide)) : Frame F r0
    (State.strobeItemsIn s before a is) := by
  unfold State.strobeItemsIn
  with_reducible repeat' first
    | assumption | intro _ | exact Frame.refl _ | subst x
    | (extract_lets +onlyGivenNames x; first | (have hx : Frame F r0 x := ?_; clear_value x) | (have hx : Frame F r0 x.1 := ?_; clear_value x) | (have hf := fun a => x a; clear hf) | (have hf : CiphState := x; clear hf) | (have hf : SecState := x; clear hf) | (have hf : LevelSeq := x; clear hf) | (have hf : CstState := x; clear hf) | clear_value x)
    | apply ite_fr | apply State.reselect_fr | apply State.hkmCourse_fr | apply State.courseCtxs_fr | dsimp only
    | split | exact sub_of hF (by decide)

theorem State.deferHeld_fr {F : Nat} {r0 : State} (s : State) (h0 : Frame F r0 s)
    (hF : F &&& 32785 = 32785 := by first | decide | exact sub_of (by assumption) (by decide)) : Frame F r0
    (State.deferHeld s) := by
  unfold State.deferHeld
  with_reducible repeat' first
    | assumption | intro _ | exact Frame.refl _ | subst x
    | (extract_lets +onlyGivenNames x; first | (have hx : Frame F r0 x := ?_; clear_value x) | (have hx : Frame F r0 x.1 := ?_; clear_value x) | (have hf := fun a => x a; clear hf) | (have hf : CiphState := x; clear hf) | (have hf : SecState := x; clear hf) | (have hf : LevelSeq := x; clear hf) | (have hf : CstState := x; clear hf) | clear_value x)
    | apply ite_fr | apply State.set_fr | apply State.raise_fr | apply State.modArmed_fr | apply foldl_fr_of
    | dsimp only | split | exact sub_of hF (by decide)

theorem State.courseStrobe_fr {F : Nat} {r0 : State} (s : State) (late : Bool) (h0 : Frame F r0 s)
    (hF : F &&& 153733337 = 153733337 := by first | decide | exact sub_of (by assumption) (by decide)) : Frame F r0
    (State.courseStrobe s late) := by
  unfold State.courseStrobe
  with_reducible repeat' first
    | assumption | intro _ | exact Frame.refl _ | subst x
    | (extract_lets +onlyGivenNames x; first | (have hx : Frame F r0 x := ?_; clear_value x) | (have hx : Frame F r0 x.1 := ?_; clear_value x) | (have hf := fun a => x a; clear hf) | (have hf : CiphState := x; clear hf) | (have hf : SecState := x; clear hf) | (have hf : LevelSeq := x; clear hf) | (have hf : CstState := x; clear hf) | clear_value x)
    | apply ite_fr | apply itep_fr | apply State.eachLane_fr_of | apply State.modArmed_fr | apply State.putItems_fr
    | apply State.takeItems_fr | apply State.courseDone_fr | apply State.courseTx_fr | apply State.strobeItemsIn_fr
    | apply State.deferHeld_fr | dsimp only | (apply fst_fr; assumption) | split | exact sub_of hF (by decide)

theorem State.coursePort_fr {F : Nat} {r0 : State} (s : State) (p : Nat) (h0 : Frame F r0 s)
    (hF : F &&& 216121361 = 216121361 := by first | decide | exact sub_of (by assumption) (by decide)) : Frame F r0
    (State.coursePort s p) := by
  unfold State.coursePort
  with_reducible repeat' first
    | assumption | intro _ | exact Frame.refl _ | subst x
    | (extract_lets +onlyGivenNames x; first | (have hx : Frame F r0 x := ?_; clear_value x) | (have hx : Frame F r0 x.1 := ?_; clear_value x) | (have hf := fun a => x a; clear hf) | (have hf : CiphState := x; clear hf) | (have hf : SecState := x; clear hf) | (have hf : LevelSeq := x; clear hf) | (have hf : CstState := x; clear hf) | clear_value x)
    | apply ite_fr | apply itep_fr | apply State.clientItemsIn_fr | apply State.putItems_fr
    | apply State.takeItems_fr | apply State.courseDone_fr | dsimp only | (apply fst_fr; assumption) | split
    | exact sub_of hF (by decide)

theorem State.courseRelease_fr {F : Nat} {r0 : State} (s : State) (k : Nat) (h0 : Frame F r0 s)
    (hF : F &&& 264884185 = 264884185 := by first | decide | exact sub_of (by assumption) (by decide)) : Frame F r0
    (State.courseRelease s k) := by
  unfold State.courseRelease
  with_reducible repeat' first
    | assumption | intro _ | exact Frame.refl _ | subst x
    | (extract_lets +onlyGivenNames x; first | (have hx : Frame F r0 x := ?_; clear_value x) | (have hx : Frame F r0 x.1 := ?_; clear_value x) | (have hf := fun a => x a; clear hf) | (have hf : CiphState := x; clear hf) | (have hf : SecState := x; clear hf) | (have hf : LevelSeq := x; clear hf) | (have hf : CstState := x; clear hf) | clear_value x)
    | apply ite_fr | apply State.set_fr | apply State.setNat_fr | apply State.bridgeCheck_fr
    | apply State.keepBefore_fr | apply State.timeRefresh_fr | apply State.clientItemsIn_fr
    | apply State.ksCourse_fr | apply State.modArmed_fr | apply State.putItems_fr | apply State.txItemsIn_fr
    | apply State.courseDone_fr | apply State.recordTx_fr | apply State.recordRx_fr | apply State.rxItemsIn_fr
    | apply State.strobeItemsIn_fr | dsimp only | split | exact sub_of hF (by decide)

theorem State.courseOrphan_fr {F : Nat} {r0 : State} (s : State) (by_ : Source) (h0 : Frame F r0 s)
    (hF : F &&& 32768 = 32768 := by first | decide | exact sub_of (by assumption) (by decide)) : Frame F r0
    (State.courseOrphan s by_) := by
  unfold State.courseOrphan
  with_reducible repeat' first | assumption | exact sub_of hF (by decide) | apply State.modCrs_fr

/-! ### TxLf.lean -/

theorem State.mccSend_fr {F : Nat} {r0 : State} (s : State) (n : Lane) (packet : List Byte) (h0 : Frame F r0 s)
    (hF : F &&& 128 = 128 := by first | decide | exact sub_of (by assumption) (by decide)) : Frame F r0 (State.mccSend
    s n packet) := by
  unfold State.mccSend
  with_reducible repeat' first | assumption | exact sub_of hF (by decide) | apply State.modTx_fr

theorem State.mccTake_fr {F : Nat} {r0 : State} (s : State) (n : Lane) (h0 : Frame F r0 s)
    (hF : F &&& 128 = 128 := by first | decide | exact sub_of (by assumption) (by decide)) : Frame F r0 (State.mccTake
    s n).1 := by
  unfold State.mccTake
  with_reducible repeat' first | assumption | exact sub_of hF (by decide) | apply ite_fr | apply State.modTx_fr | split

theorem State.bridgeNow_fr {F : Nat} {r0 : State} (s : State) (n : Lane) (h0 : Frame F r0 s)
    (hF : F &&& 129 = 129 := by first | decide | exact sub_of (by assumption) (by decide)) : Frame F r0
    (State.bridgeNow s n) := by
  unfold State.bridgeNow
  with_reducible repeat' first
    | assumption | intro _ | exact Frame.refl _ | subst x
    | (extract_lets +onlyGivenNames x; first | (have hx : Frame F r0 x := ?_; clear_value x) | (have hx : Frame F r0 x.1 := ?_; clear_value x) | (have hf := fun a => x a; clear hf) | (have hf : CiphState := x; clear hf) | (have hf : SecState := x; clear hf) | (have hf : LevelSeq := x; clear hf) | (have hf : CstState := x; clear hf) | clear_value x)
    | apply ite_fr | apply State.modTx_fr | apply State.showBridged_fr | apply foldl_fr_of | dsimp only | split
    | exact sub_of hF (by decide)

theorem State.flowGroupTx_fr {F : Nat} {r0 : State} (s : State) (n : Lane) (m : Nat) (g : Mapped) (h0 : Frame F r0 s)
    (hF : F &&& 134299673 = 134299673 := by first | decide | exact sub_of (by assumption) (by decide)) : Frame F r0
    (State.flowGroupTx s n m g).1 := by
  unfold State.flowGroupTx
  with_reducible repeat' first
    | assumption | intro _ | exact Frame.refl _ | subst x
    | (extract_lets +onlyGivenNames x; first | (have hx : Frame F r0 x := ?_; clear_value x) | (have hx : Frame F r0 x.1 := ?_; clear_value x) | (have hf := fun a => x a; clear hf) | (have hf : CiphState := x; clear hf) | (have hf : SecState := x; clear hf) | (have hf : LevelSeq := x; clear hf) | (have hf : CstState := x; clear hf) | clear_value x)
    | apply ite_fr | apply itep_fr | apply State.encUnit_fr | apply State.showFlow_fr | apply State.flowRelease_fr
    | apply State.flowPad_fr | apply State.adapt_fr | dsimp only | (apply fst_fr; assumption) | split
    | exact sub_of hF (by decide)

theorem State.bridgeGroupTx_fr {F : Nat} {r0 : State} (s : State) (n : Lane) (m : Nat) (g : Mapped) (h0 : Frame F r0
    s)
    (hF : F &&& 128 = 128 := by first | decide | exact sub_of (by assumption) (by decide)) : Frame F r0
    (State.bridgeGroupTx s n m g).1 := by
  unfold State.bridgeGroupTx
  with_reducible repeat' first
    | assumption | intro _ | exact Frame.refl _ | subst x
    | (extract_lets +onlyGivenNames x; first | (have hx : Frame F r0 x := ?_; clear_value x) | (have hx : Frame F r0 x.1 := ?_; clear_value x) | (have hf := fun a => x a; clear hf) | (have hf : CiphState := x; clear hf) | (have hf : SecState := x; clear hf) | (have hf : LevelSeq := x; clear hf) | (have hf : CstState := x; clear hf) | clear_value x)
    | apply ite_fr | apply itep_fr | apply State.modTx_fr | dsimp only | (apply fst_fr; assumption) | split
    | exact sub_of hF (by decide)

theorem State.showPathTx_fr {F : Nat} {r0 : State} (s : State) (n : Lane) (j : Nat) (bdi ais : Bool) (h0 : Frame F r0
    s)
    (hF : F &&& 1 = 1 := by first | decide | exact sub_of (by assumption) (by decide)) : Frame F r0 (State.showPathTx
    s n j bdi ais) := by
  unfold State.showPathTx
  with_reducible repeat' first
    | assumption | intro _ | exact Frame.refl _ | subst x
    | (extract_lets +onlyGivenNames x; first | (have hx : Frame F r0 x := ?_; clear_value x) | (have hx : Frame F r0 x.1 := ?_; clear_value x) | (have hf := fun a => x a; clear hf) | (have hf : CiphState := x; clear hf) | (have hf : SecState := x; clear hf) | (have hf : LevelSeq := x; clear hf) | (have hf : CstState := x; clear hf) | clear_value x)
    | apply ite_fr | apply State.setB_fr | dsimp only | split | exact sub_of hF (by decide)

theorem State.pathEntry_fr {F : Nat} {r0 : State} (s : State) (n : Lane) (f : Fmt) (gs : List GroupTx) (j : Nat) (h0
    : Frame F r0 s)
    (hF : F &&& 129 = 129 := by first | decide | exact sub_of (by assumption) (by decide)) : Frame F r0
    (State.pathEntry s n f gs j).1 := by
  unfold State.pathEntry
  with_reducible repeat' first
    | assumption | intro _ | exact Frame.refl _ | subst x
    | (extract_lets +onlyGivenNames x; first | (have hx : Frame F r0 x := ?_; clear_value x) | (have hx : Frame F r0 x.1 := ?_; clear_value x) | (have hf := fun a => x a; clear hf) | (have hf : CiphState := x; clear hf) | (have hf : SecState := x; clear hf) | (have hf : LevelSeq := x; clear hf) | (have hf : CstState := x; clear hf) | clear_value x)
    | apply ite_fr | apply itep_fr | apply State.modTx_fr | apply State.showPathTx_fr | dsimp only
    | (apply fst_fr; assumption) | split | exact sub_of hF (by decide)

theorem State.pathEntries_fr {F : Nat} {r0 : State} (s : State) (n : Lane) (f : Fmt) (gs : List GroupTx) (m : Nat) (h0
    : Frame F r0 s) (hF : F &&& 129 = 129 := by first | decide | exact sub_of (by assumption) (by decide)) : Frame F
    r0 (State.pathEntries s n f gs m).1 := by
  unfold State.pathEntries
  with_reducible repeat' first
    | assumption | exact Frame.refl _ | exact id_fr _ | assumption | apply ite_fr | apply itep_fr
    | apply State.pathEntry_fr | apply foldl_fr | apply foldlp_fr | intro _
    | (extract_lets +onlyGivenNames x; first | (have hx : Frame F r0 x := ?_; clear_value x) | (have hx : Frame F r0 x.1 := ?_; clear_value x) | (have hf := fun a => x a; clear hf) | (have hf : CiphState := x; clear hf) | (have hf : SecState := x; clear hf) | clear_value x)
    | subst x | dsimp only | (apply fst_fr; assumption) | split | exact sub_of hF (by decide)

theorem State.lfSignal_fr {F : Nat} {r0 : State} (s : State) (n : Lane) (x : Option LfSignal) (h0 : Frame F r0 s)
    (hF : F &&& 128 = 128 := by first | decide | exact sub_of (by assumption) (by decide)) : Frame F r0
    (State.lfSignal s n x) := by
  unfold State.lfSignal
  with_reducible repeat' first
    | assumption | intro _ | exact Frame.refl _ | subst x
    | (extract_lets +onlyGivenNames x; first | (have hx : Frame F r0 x := ?_; clear_value x) | (have hx : Frame F r0 x.1 := ?_; clear_value x) | (have hf := fun a => x a; clear hf) | (have hf : CiphState := x; clear hf) | (have hf : SecState := x; clear hf) | (have hf : LevelSeq := x; clear hf) | (have hf : CstState := x; clear hf) | clear_value x)
    | apply ite_fr | apply State.modTx_fr | dsimp only | split | exact sub_of hF (by decide)

theorem State.sendSymbols_fr {F : Nat} {r0 : State} (s : State) (n : Lane) (symbols : List Symbol) (h0 : Frame F r0 s)
    (hF : F &&& 144 = 144 := by first | decide | exact sub_of (by assumption) (by decide)) : Frame F r0
    (State.sendSymbols s n symbols) := by
  unfold State.sendSymbols
  with_reducible repeat' first
    | assumption | intro _ | exact Frame.refl _ | subst x
    | (extract_lets +onlyGivenNames x; first | (have hx : Frame F r0 x := ?_; clear_value x) | (have hx : Frame F r0 x.1 := ?_; clear_value x) | (have hf := fun a => x a; clear hf) | (have hf : CiphState := x; clear hf) | (have hf : SecState := x; clear hf) | (have hf : LevelSeq := x; clear hf) | (have hf : CstState := x; clear hf) | clear_value x)
    | apply ite_fr | apply State.emit_fr | apply State.lfSignal_fr | dsimp only | split
    | exact sub_of hF (by decide)

theorem State.lfAssemble_fr {F : Nat} {r0 : State} (s : State) (n : Lane) (ps : Nat) (h0 : Frame F r0 s)
    (hF : F &&& 167854233 = 167854233 := by first | decide | exact sub_of (by assumption) (by decide)) : Frame F r0
    (State.lfAssemble s n ps) := by
  unfold State.lfAssemble
  with_reducible repeat' first
    | assumption | intro _ | exact Frame.refl _ | subst x
    | (extract_lets +onlyGivenNames x; first | (have hx : Frame F r0 x := ?_; clear_value x) | (have hx : Frame F r0 x.1 := ?_; clear_value x) | (have hf := fun a => x a; clear hf) | (have hf : CiphState := x; clear hf) | (have hf : SecState := x; clear hf) | (have hf : LevelSeq := x; clear hf) | (have hf : CstState := x; clear hf) | clear_value x)
    | apply ite_fr | apply itep_fr | apply State.set_fr | apply State.setB_fr | apply State.modTx_fr
    | apply State.addCnt_fr | apply State.timedSent_fr | apply State.mccTake_fr | apply State.bridgeNow_fr
    | apply State.flowGroupTx_fr | apply State.bridgeGroupTx_fr | apply State.pathEntries_fr
    | apply State.sendSymbols_fr | apply foldl_fr_of | dsimp only | (apply fst_fr; assumption) | split
    | apply foldlp_fr_of | exact sub_of hF (by decide)

theorem State.gridGo_fr {F : Nat} {r0 : State} (s : State) (n : Lane) (k at_ : Nat) (h0 : Frame F r0 s)
    (hF : F &&& 128 = 128 := by first | decide | exact sub_of (by assumption) (by decide)) : Frame F r0 (State.gridGo
    s n k at_) := by
  unfold State.gridGo
  with_reducible repeat' first
    | assumption | intro _ | exact Frame.refl _ | subst x
    | (extract_lets +onlyGivenNames x; first | (have hx : Frame F r0 x := ?_; clear_value x) | (have hx : Frame F r0 x.1 := ?_; clear_value x) | (have hf := fun a => x a; clear hf) | (have hf : CiphState := x; clear hf) | (have hf : SecState := x; clear hf) | (have hf : LevelSeq := x; clear hf) | (have hf : CstState := x; clear hf) | clear_value x)
    | apply ite_fr | apply State.modTx_fr | dsimp only | split | exact sub_of hF (by decide)

/-! ### RxLf.lean -/

theorem State.lfrCount_fr {F : Nat} {r0 : State} (s : State) (n : Lane) (j k : Nat) (h0 : Frame F r0 s)
    (hF : F &&& 16385 = 16385 := by first | decide | exact sub_of (by assumption) (by decide)) : Frame F r0
    (State.lfrCount s n j k) := by
  unfold State.lfrCount
  with_reducible repeat' first | assumption | exact sub_of hF (by decide) | apply ite_fr | apply State.addCnt_fr

theorem State.showCands_fr {F : Nat} {r0 : State} (s : State) (n : Lane) (h0 : Frame F r0 s)
    (hF : F &&& 1 = 1 := by first | decide | exact sub_of (by assumption) (by decide)) : Frame F r0 (State.showCands s
    n) := by
  unfold State.showCands
  with_reducible repeat' first | assumption | exact sub_of hF (by decide) | apply State.set_fr

theorem State.lossOfSync_fr {F : Nat} {r0 : State} (s : State) (n : Lane) (cands : List Cand) (h0 : Frame F r0 s)
    (hF : F &&& 46139345 = 46139345 := by first | decide | exact sub_of (by assumption) (by decide)) : Frame F r0
    (State.lossOfSync s n cands) := by
  unfold State.lossOfSync
  with_reducible repeat' first
    | assumption | exact Frame.refl _ | exact sub_of hF (by decide) | apply ite_fr | apply State.lfrAlignAway_fr
    | apply State.rxdWarm_fr | split | refine Frame.raw ?_

theorem State.enterSync_fr {F : Nat} {r0 : State} (s : State) (n : Lane) (c : Cand) (others : List Cand) (stamp :
    Nat) (h0 : Frame F r0 s)
    (hF : F &&& 46155729 = 46155729 := by first | decide | exact sub_of (by assumption) (by decide)) : Frame F r0
    (State.enterSync s n c others stamp) := by
  unfold State.enterSync
  with_reducible repeat' first
    | assumption | intro _ | exact Frame.refl _ | subst x
    | (extract_lets +onlyGivenNames x; first | (have hx : Frame F r0 x := ?_; clear_value x) | (have hx : Frame F r0 x.1 := ?_; clear_value x) | (have hf := fun a => x a; clear hf) | (have hf : CiphState := x; clear hf) | (have hf : SecState := x; clear hf) | (have hf : LevelSeq := x; clear hf) | (have hf : CstState := x; clear hf) | clear_value x)
    | apply ite_fr | apply State.set_fr | apply State.setB_fr | apply State.modRxd_fr | apply State.modLfr_fr
    | apply State.fecInFrame_fr | apply State.lfrDefects_fr | apply State.rxdInFrame_fr | apply State.showCands_fr
    | dsimp only | split | exact sub_of hF (by decide)

theorem State.zrLock_fr {F : Nat} {r0 : State} (s : State) (n : Lane) (pos hyp : Nat) (h0 : Frame F r0 s)
    (hF : F &&& 46155729 = 46155729 := by first | decide | exact sub_of (by assumption) (by decide)) : Frame F r0
    (State.zrLock s n pos hyp) := by
  unfold State.zrLock
  with_reducible repeat' first
    | assumption | exact sub_of hF (by decide) | apply State.modLfr_fr | apply State.setB_fr | apply State.set_fr
    | apply State.lfrDefects_fr | apply State.fecInFrame_fr | apply State.rxdInFrame_fr

theorem State.candTest_fr {F : Nat} {r0 : State} (s : State) (n : Lane) (k hyp : Nat) (hit : Bool) (stamp : Nat) (h0
    : Frame F r0 s)
    (hF : F &&& 46155729 = 46155729 := by first | decide | exact sub_of (by assumption) (by decide)) : Frame F r0
    (State.candTest s n k hyp hit stamp) := by
  unfold State.candTest
  with_reducible repeat' first
    | assumption | intro _ | exact Frame.refl _ | subst x
    | (extract_lets +onlyGivenNames x; first | (have hx : Frame F r0 x := ?_; clear_value x) | (have hx : Frame F r0 x.1 := ?_; clear_value x) | (have hf := fun a => x a; clear hf) | (have hf : CiphState := x; clear hf) | (have hf : SecState := x; clear hf) | (have hf : LevelSeq := x; clear hf) | (have hf : CstState := x; clear hf) | clear_value x)
    | apply ite_fr | apply State.set_fr | apply State.modLfr_fr | apply State.showCands_fr
    | apply State.enterSync_fr | dsimp only | split | exact sub_of hF (by decide)

theorem State.syncTest_fr {F : Nat} {r0 : State} (s : State) (n : Lane) (hyp : Nat) (hit : Bool) (stamp : Nat) (h0 :
    Frame F r0 s) (hF : F &&& 46155729 = 46155729 := by first | decide | exact sub_of (by assumption) (by decide)) :
    Frame F r0 (State.syncTest s n hyp hit stamp) := by
  unfold State.syncTest
  with_reducible repeat' first
    | assumption | exact sub_of hF (by decide) | apply ite_fr | apply State.modLfr_fr | apply State.rxdInFrame_fr
    | apply State.rxdSlip_fr | apply State.lossOfSync_fr | apply State.raise_fr | apply State.lfrCount_fr

theorem State.verify_fr {F : Nat} {r0 : State} (s : State) (n : Lane) (cw0 : Bool) (h0 : Frame F r0 s)
    (hF : F &&& 12584593 = 12584593 := by first | decide | exact sub_of (by assumption) (by decide)) : Frame F r0
    (State.verify s n cw0).1 := by
  unfold State.verify
  with_reducible repeat' first
    | assumption | intro _ | exact Frame.refl _ | subst x
    | (extract_lets +onlyGivenNames x; first | (have hx : Frame F r0 x := ?_; clear_value x) | (have hx : Frame F r0 x.1 := ?_; clear_value x) | (have hf := fun a => x a; clear hf) | (have hf : CiphState := x; clear hf) | (have hf : SecState := x; clear hf) | (have hf : LevelSeq := x; clear hf) | (have hf : CstState := x; clear hf) | clear_value x)
    | apply ite_fr | apply itep_fr | apply State.setB_fr | apply State.modLfr_fr | apply State.lfrDefects_fr
    | apply State.showCands_fr | dsimp only | (apply fst_fr; assumption) | split | exact sub_of hF (by decide)

theorem State.verifyFail_fr {F : Nat} {r0 : State} (s : State) (n : Lane) (h0 : Frame F r0 s)
    (hF : F &&& 46155729 = 46155729 := by first | decide | exact sub_of (by assumption) (by decide)) : Frame F r0
    (State.verifyFail s n) := by
  unfold State.verifyFail
  with_reducible repeat' first
    | assumption | intro _ | exact Frame.refl _ | subst x
    | (extract_lets +onlyGivenNames x; first | (have hx : Frame F r0 x := ?_; clear_value x) | (have hx : Frame F r0 x.1 := ?_; clear_value x) | (have hf := fun a => x a; clear hf) | (have hf : CiphState := x; clear hf) | (have hf : SecState := x; clear hf) | (have hf : LevelSeq := x; clear hf) | (have hf : CstState := x; clear hf) | clear_value x)
    | apply ite_fr | apply State.modLfr_fr | apply State.raise_fr | apply State.lfrCount_fr
    | apply State.lossOfSync_fr | dsimp only | split | exact sub_of hF (by decide)

theorem State.multiframe_fr {F : Nat} {r0 : State} (s : State) (n : Lane) (accepted : Bool) (mfas : Nat) (h0 : Frame
    F r0 s)
    (hF : F &&& 12584593 = 12584593 := by first | decide | exact sub_of (by assumption) (by decide)) : Frame F r0
    (State.multiframe s n accepted mfas).1 := by
  unfold State.multiframe
  with_reducible repeat' first
    | assumption | intro _ | exact Frame.refl _ | subst x
    | (extract_lets +onlyGivenNames x; first | (have hx : Frame F r0 x := ?_; clear_value x) | (have hx : Frame F r0 x.1 := ?_; clear_value x) | (have hf := fun a => x a; clear hf) | (have hf : CiphState := x; clear hf) | (have hf : SecState := x; clear hf) | (have hf : LevelSeq := x; clear hf) | (have hf : CstState := x; clear hf) | clear_value x)
    | apply ite_fr | apply itep_fr | apply State.set_fr | apply State.setB_fr | apply State.modLfr_fr
    | apply State.lfrDefects_fr | dsimp only | (apply fst_fr; assumption) | split | exact sub_of hF (by decide)

theorem State.sectionParity_fr {F : Nat} {r0 : State} (s : State) (n : Lane) (accepted : Bool) (oh : List Byte)
    (payload : List Nat) (h0 : Frame F r0 s)
    (hF : F &&& 17025 = 17025 := by first | decide | exact sub_of (by assumption) (by decide)) : Frame F r0
    (State.sectionParity s n accepted oh payload).1 := by
  unfold State.sectionParity
  with_reducible repeat' first
    | assumption | intro _ | exact Frame.refl _ | subst x
    | (extract_lets +onlyGivenNames x; first | (have hx : Frame F r0 x := ?_; clear_value x) | (have hx : Frame F r0 x.1 := ?_; clear_value x) | (have hf := fun a => x a; clear hf) | (have hf : CiphState := x; clear hf) | (have hf : SecState := x; clear hf) | (have hf : LevelSeq := x; clear hf) | (have hf : CstState := x; clear hf) | clear_value x)
    | apply ite_fr | apply itep_fr | apply State.modTx_fr | apply State.modLfr_fr | apply State.lfrCount_fr
    | dsimp only | (apply fst_fr; assumption) | split | exact sub_of hF (by decide)

theorem State.sectionBack_fr {F : Nat} {r0 : State} (s : State) (n : Lane) (oh : List Byte) (h0 : Frame F r0 s)
    (hF : F &&& 17937 = 17937 := by first | decide | exact sub_of (by assumption) (by decide)) : Frame F r0
    (State.sectionBack s n oh) := by
  unfold State.sectionBack
  with_reducible repeat' first
    | assumption | intro _ | exact Frame.refl _ | subst x
    | (extract_lets +onlyGivenNames x; first | (have hx : Frame F r0 x := ?_; clear_value x) | (have hx : Frame F r0 x.1 := ?_; clear_value x) | (have hf := fun a => x a; clear hf) | (have hf : CiphState := x; clear hf) | (have hf : SecState := x; clear hf) | (have hf : LevelSeq := x; clear hf) | (have hf : CstState := x; clear hf) | clear_value x)
    | apply ite_fr | apply State.setB_fr | apply State.modLfr_fr | apply State.raiseIf_fr | apply State.touch_fr
    | apply State.sectionFar_fr | apply State.lfrCount_fr | dsimp only | split | exact sub_of hF (by decide)

theorem State.courseFields_fr {F : Nat} {r0 : State} (s : State) (n : Lane) (oh : List Byte) (h0 : Frame F r0 s)
    (hF : F &&& 33281 = 33281 := by first | decide | exact sub_of (by assumption) (by decide)) : Frame F r0
    (State.courseFields s n oh) := by
  unfold State.courseFields
  with_reducible repeat' first
    | assumption | intro _ | exact Frame.refl _ | subst x
    | (extract_lets +onlyGivenNames x; first | (have hx : Frame F r0 x := ?_; clear_value x) | (have hx : Frame F r0 x.1 := ?_; clear_value x) | (have hf := fun a => x a; clear hf) | (have hf : CiphState := x; clear hf) | (have hf : SecState := x; clear hf) | (have hf : LevelSeq := x; clear hf) | (have hf : CstState := x; clear hf) | clear_value x)
    | apply ite_fr | apply State.set_fr | apply State.setB_fr | apply State.setNat_fr | apply State.modLfr_fr
    | apply State.modArmed_fr | dsimp only | split | exact sub_of hF (by decide)

theorem State.psfRx_fr {F : Nat} {r0 : State} (s : State) (n : Lane) (oh : List Byte) (h0 : Frame F r0 s)
    (hF : F &&& 17041 = 17041 := by first | decide | exact sub_of (by assumption) (by decide)) : Frame F r0
    (State.psfRx s n oh) := by
  unfold State.psfRx
  with_reducible repeat' first
    | assumption | intro _ | exact Frame.refl _ | subst x
    | (extract_lets +onlyGivenNames x; first | (have hx : Frame F r0 x := ?_; clear_value x) | (have hx : Frame F r0 x.1 := ?_; clear_value x) | (have hf := fun a => x a; clear hf) | (have hf : CiphState := x; clear hf) | (have hf : SecState := x; clear hf) | (have hf : LevelSeq := x; clear hf) | (have hf : CstState := x; clear hf) | clear_value x)
    | apply ite_fr | apply State.setNat_fr | apply State.modTx_fr | apply State.modLfr_fr | apply State.raise_fr
    | apply State.lfrCount_fr | dsimp only | split | exact sub_of hF (by decide)

theorem State.mccRx_fr {F : Nat} {r0 : State} (s : State) (n : Lane) (accepted : Bool) (room : Nat) (oh : List Byte)
    (h0 : Frame F r0 s)
    (hF : F &&& 16401 = 16401 := by first | decide | exact sub_of (by assumption) (by decide)) : Frame F r0
    (State.mccRx s n accepted room oh) := by
  unfold State.mccRx
  with_reducible repeat' first
    | assumption | intro _ | exact Frame.refl _ | subst x
    | (extract_lets +onlyGivenNames x; first | (have hx : Frame F r0 x := ?_; clear_value x) | (have hx : Frame F r0 x.1 := ?_; clear_value x) | (have hf := fun a => x a; clear hf) | (have hf : CiphState := x; clear hf) | (have hf : SecState := x; clear hf) | (have hf : LevelSeq := x; clear hf) | (have hf : CstState := x; clear hf) | clear_value x)
    | apply ite_fr | apply State.emit_fr | apply State.raise_fr | apply State.lfrCount_fr | dsimp only | split
    | exact sub_of hF (by decide)

theorem State.ssiRx_fr {F : Nat} {r0 : State} (s : State) (n : Lane) (m : Nat) (oh : List Byte) (h0 : Frame F r0 s)
    (hF : F &&& 1681 = 1681 := by first | decide | exact sub_of (by assumption) (by decide)) : Frame F r0
    (State.ssiRx s n m oh) := by
  unfold State.ssiRx
  with_reducible repeat' first
    | assumption | intro _ | exact Frame.refl _ | subst x
    | (extract_lets +onlyGivenNames x; first | (have hx : Frame F r0 x := ?_; clear_value x) | (have hx : Frame F r0 x.1 := ?_; clear_value x) | (have hf := fun a => x a; clear hf) | (have hf : CiphState := x; clear hf) | (have hf : SecState := x; clear hf) | (have hf : LevelSeq := x; clear hf) | (have hf : CstState := x; clear hf) | clear_value x)
    | apply ite_fr | apply State.set_fr | apply State.modLfr_fr | apply State.setSlotDefect_fr
    | apply State.slotAnswer_fr | dsimp only | split | exact sub_of hF (by decide)

theorem State.pathCounts_fr {F : Nat} {r0 : State} (s : State) (n : Lane) (j : Nat) (have_ : Bool) (b0 b1 : Nat) (h0
    : Frame F r0 s)
    (hF : F &&& 17537 = 17537 := by first | decide | exact sub_of (by assumption) (by decide)) : Frame F r0
    (State.pathCounts s n j have_ b0 b1) := by
  unfold State.pathCounts
  with_reducible repeat' first
    | assumption | intro _ | exact Frame.refl _ | subst x
    | (extract_lets +onlyGivenNames x; first | (have hx : Frame F r0 x := ?_; clear_value x) | (have hx : Frame F r0 x.1 := ?_; clear_value x) | (have hf := fun a => x a; clear hf) | (have hf : CiphState := x; clear hf) | (have hf : SecState := x; clear hf) | (have hf : LevelSeq := x; clear hf) | (have hf : CstState := x; clear hf) | clear_value x)
    | apply ite_fr | apply State.modTx_fr | apply State.modPmon_fr | apply State.addCnt_fr | dsimp only | split
    | exact sub_of hF (by decide)

theorem State.pathRx_fr {F : Nat} {r0 : State} (s : State) (n : Lane) (j : Nat) (have_ : Bool) (b0 b1 : Nat) (h0 :
    Frame F r0 s)
    (hF : F &&& 18065 = 18065 := by first | decide | exact sub_of (by assumption) (by decide)) : Frame F r0
    (State.pathRx s n j have_ b0 b1) := by
  unfold State.pathRx
  with_reducible repeat' first
    | assumption | intro _ | exact Frame.refl _ | subst x
    | (extract_lets +onlyGivenNames x; first | (have hx : Frame F r0 x := ?_; clear_value x) | (have hx : Frame F r0 x.1 := ?_; clear_value x) | (have hf := fun a => x a; clear hf) | (have hf : CiphState := x; clear hf) | (have hf : SecState := x; clear hf) | (have hf : LevelSeq := x; clear hf) | (have hf : CstState := x; clear hf) | clear_value x)
    | apply ite_fr | apply State.modLfr_fr | apply State.setSlotDefect_fr | apply State.slotAnswer_fr
    | apply State.pathCounts_fr | dsimp only | split | exact sub_of hF (by decide)

theorem State.pathsRx_fr {F : Nat} {r0 : State} (s : State) (n : Lane) (m : Nat) (oh : List Byte) (h0 : Frame F r0 s)
    (hF : F &&& 18065 = 18065 := by first | decide | exact sub_of (by assumption) (by decide)) : Frame F r0
    (State.pathsRx s n m oh) := by
  unfold State.pathsRx
  with_reducible repeat' first
    | assumption | exact sub_of hF (by decide) | exact Frame.refl _ | assumption | apply ite_fr | apply itep_fr
    | apply State.pathRx_fr | apply foldl_fr | intro _
    | (extract_lets +onlyGivenNames x; first | (have hx : Frame F r0 x := ?_; clear_value x) | (have hx : Frame F r0 x.1 := ?_; clear_value x) | (have hf := fun a => x a; clear hf) | (have hf : CiphState := x; clear hf) | (have hf : SecState := x; clear hf) | clear_value x)
    | split

theorem State.periodStart_fr {F : Nat} {r0 : State} (s : State) (n : Lane) (m : Nat) (h0 : Frame F r0 s)
    (hF : F &&& 1537 = 1537 := by first | decide | exact sub_of (by assumption) (by decide)) : Frame F r0
    (State.periodStart s n m) := by
  unfold State.periodStart
  with_reducible repeat' first
    | assumption | intro _ | exact Frame.refl _ | subst x
    | (extract_lets +onlyGivenNames x; first | (have hx : Frame F r0 x := ?_; clear_value x) | (have hx : Frame F r0 x.1 := ?_; clear_value x) | (have hf := fun a => x a; clear hf) | (have hf : CiphState := x; clear hf) | (have hf : SecState := x; clear hf) | (have hf : LevelSeq := x; clear hf) | (have hf : CstState := x; clear hf) | clear_value x)
    | apply ite_fr | apply State.modLfr_fr | apply State.modPmon_fr | apply State.periodEnd_fr
    | apply State.periodCut_fr | dsimp only | split | exact sub_of hF (by decide)

theorem State.toBridges_fr {F : Nat} {r0 : State} (s : State) (n : Lane) (g : Mapped) (ws : List Nat) (h0 : Frame F
    r0 s)
    (hF : F &&& 128 = 128 := by first | decide | exact sub_of (by assumption) (by decide)) : Frame F r0
    (State.toBridges s n g ws) := by
  unfold State.toBridges
  with_reducible repeat' first
    | assumption | intro _ | exact Frame.refl _ | subst x
    | (extract_lets +onlyGivenNames x; first | (have hx : Frame F r0 x := ?_; clear_value x) | (have hx : Frame F r0 x.1 := ?_; clear_value x) | (have hf := fun a => x a; clear hf) | (have hf : CiphState := x; clear hf) | (have hf : SecState := x; clear hf) | (have hf : LevelSeq := x; clear hf) | (have hf : CstState := x; clear hf) | clear_value x)
    | apply ite_fr | apply State.modTx_fr | apply State.eachLane_fr_of | dsimp only | split
    | exact sub_of hF (by decide)

theorem State.demapGroup_fr {F : Nat} {r0 : State} (s : State) (n : Lane) (m : Nat) (accepted flagged : Bool) (oh :
    List Byte) (words : List (Nat × Nat)) (g : Mapped) (h0 : Frame F r0 s)
    (hF : F &&& 146882713 = 146882713 := by first | decide | exact sub_of (by assumption) (by decide)) : Frame F r0
    (State.demapGroup s n m accepted flagged oh words g) := by
  unfold State.demapGroup
  with_reducible repeat' first
    | assumption | intro _ | exact Frame.refl _ | subst x
    | (extract_lets +onlyGivenNames x; first | (have hx : Frame F r0 x := ?_; clear_value x) | (have hx : Frame F r0 x.1 := ?_; clear_value x) | (have hf := fun a => x a; clear hf) | (have hf : CiphState := x; clear hf) | (have hf : SecState := x; clear hf) | (have hf : LevelSeq := x; clear hf) | (have hf : CstState := x; clear hf) | clear_value x)
    | apply ite_fr | apply itep_fr | apply State.raise_fr | apply State.decUnit_fr | apply State.modTap_fr
    | apply State.sink_fr | apply State.lfrCount_fr | apply State.toBridges_fr | dsimp only
    | (apply fst_fr; assumption) | split | exact sub_of hF (by decide)

theorem State.pathParity_fr {F : Nat} {r0 : State} (s : State) (n : Lane) (flagged : Bool) (words : List (Nat × Nat))
    (h0 : Frame F r0 s)
    (hF : F &&& 1536 = 1536 := by first | decide | exact sub_of (by assumption) (by decide)) : Frame F r0
    (State.pathParity s n flagged words) := by
  unfold State.pathParity
  with_reducible repeat' first
    | assumption | intro _ | exact Frame.refl _ | subst x
    | (extract_lets +onlyGivenNames x; first | (have hx : Frame F r0 x := ?_; clear_value x) | (have hx : Frame F r0 x.1 := ?_; clear_value x) | (have hf := fun a => x a; clear hf) | (have hf : CiphState := x; clear hf) | (have hf : SecState := x; clear hf) | (have hf : LevelSeq := x; clear hf) | (have hf : CstState := x; clear hf) | clear_value x)
    | apply ite_fr | apply State.modLfr_fr | apply State.modPmon_fr | apply foldl_fr_of | dsimp only | split
    | exact sub_of hF (by decide)

theorem State.rxCourseTurn_fr {F : Nat} {r0 : State} (s : State) (n : Lane) (h0 : Frame F r0 s)
    (hF : F &&& 182570961 = 182570961 := by first | decide | exact sub_of (by assumption) (by decide)) : Frame F r0
    (State.rxCourseTurn s n) := by
  unfold State.rxCourseTurn
  with_reducible repeat' first
    | assumption | intro _ | exact Frame.refl _ | subst x
    | (extract_lets +onlyGivenNames x; first | (have hx : Frame F r0 x := ?_; clear_value x) | (have hx : Frame F r0 x.1 := ?_; clear_value x) | (have hf := fun a => x a; clear hf) | (have hf : CiphState := x; clear hf) | (have hf : SecState := x; clear hf) | (have hf : LevelSeq := x; clear hf) | (have hf : CstState := x; clear hf) | clear_value x)
    | apply ite_fr | apply State.modRxd_fr | apply State.modLfr_fr | apply State.touch_fr
    | apply State.followTurn_fr | apply State.rxdCourse_fr | apply State.mapChanges_fr | apply State.courseRx_fr
    | dsimp only | split | exact sub_of hF (by decide)

theorem State.lfSection_fr {F : Nat} {r0 : State} (s : State) (n : Lane) (lf : LfIn) (flagged : Bool) (h0 : Frame F
    r0 s)
    (hF : F &&& 46188181 = 46188181 := by first | decide | exact sub_of (by assumption) (by decide)) : Frame F r0
    (State.lfSection s n lf flagged).1 := by
  unfold State.lfSection
  with_reducible repeat' first
    | assumption | intro _ | exact Frame.refl _ | subst x
    | (extract_lets +onlyGivenNames x; first | (have hx : Frame F r0 x := ?_; clear_value x) | (have hx : Frame F r0 x.1 := ?_; clear_value x) | (have hf := fun a => x a; clear hf) | (have hf : CiphState := x; clear hf) | (have hf : SecState := x; clear hf) | (have hf : LevelSeq := x; clear hf) | (have hf : CstState := x; clear hf) | clear_value x)
    | apply ite_fr | apply itep_fr | apply State.modLfr_fr | apply State.sectionBlock_fr | apply State.ttfRow_fr
    | apply State.ttfRx_fr | apply State.multiframe_fr | apply State.sectionParity_fr | apply State.sectionBack_fr
    | apply State.courseFields_fr | apply State.mccRx_fr | dsimp only | (apply fst_fr; assumption) | split
    | exact sub_of hF (by decide)

theorem State.lfNative_fr {F : Nat} {r0 : State} (s : State) (n : Lane) (lf : LfIn) (flagged : Bool) (h0 : Frame F r0
    s)
    (hF : F &&& 180471453 = 180471453 := by first | decide | exact sub_of (by assumption) (by decide)) : Frame F r0
    (State.lfNative s n lf flagged) := by
  unfold State.lfNative
  with_reducible repeat' first
    | assumption | intro _ | exact Frame.refl _ | subst x
    | (extract_lets +onlyGivenNames x; first | (have hx : Frame F r0 x := ?_; clear_value x) | (have hx : Frame F r0 x.1 := ?_; clear_value x) | (have hf := fun a => x a; clear hf) | (have hf : CiphState := x; clear hf) | (have hf : SecState := x; clear hf) | (have hf : LevelSeq := x; clear hf) | (have hf : CstState := x; clear hf) | clear_value x)
    | apply ite_fr | apply itep_fr | apply State.tapLf_fr | apply State.periodCut_fr | apply State.psfRx_fr
    | apply State.ssiRx_fr | apply State.pathsRx_fr | apply State.periodStart_fr | apply State.demapGroup_fr
    | apply State.pathParity_fr | apply State.lfSection_fr | apply foldl_fr_of | dsimp only
    | (apply fst_fr; assumption) | split | exact sub_of hF (by decide)

theorem State.lfNext_fr {F : Nat} {r0 : State} (s : State) (n : Lane) (lf : LfIn) {t : State} {l : LfIn} {i : Nat}
    (e : s.lfNext n lf = some (t, l, i)) (h0 : Frame F r0 s)
    (hF : F &&& 256 = 256 := by first | decide | exact sub_of (by assumption) (by decide)) : Frame F r0 t := by
  unfold State.lfNext at e
  extract_lets f at e
  split at e
  · obtain ⟨rfl, -⟩ : s = t ∧ _ := by simpa using e
    exact h0
  · split at e
    · cases e
    · rw [Option.map_eq_some_iff] at e
      obtain ⟨y, -, hy⟩ := e
      cases hy
      exact State.modFec_fr _ _ _ h0

theorem State.zrFrame_fr {F : Nat} {r0 : State} (s : State) (n : Lane) (lf : LfIn) (h0 : Frame F r0 s)
    (hF : F &&& 12666001 = 12666001 := by first | decide | exact sub_of (by assumption) (by decide)) : Frame F r0
    (State.zrFrame s n lf) := by
  unfold State.zrFrame
  with_reducible repeat' first
    | assumption | intro _ | exact Frame.refl _ | subst x
    | (extract_lets +onlyGivenNames x; first | (have hx : Frame F r0 x := ?_; clear_value x) | (have hx : Frame F r0 x.1 := ?_; clear_value x) | (have hf := fun a => x a; clear hf) | (have hf : CiphState := x; clear hf) | (have hf : SecState := x; clear hf) | (have hf : LevelSeq := x; clear hf) | (have hf : CstState := x; clear hf) | clear_value x)
    | apply ite_fr | apply State.setB_fr | apply State.raiseIf_fr | apply State.fecCount_fr
    | apply State.sectionBlock_fr | apply State.lfrDefects_fr | apply State.egressFrame_fr | apply foldl_fr_of
    | dsimp only | split | exact sub_of hF (by decide)

end Sys2Proof.Machine
end

