-- ==== Sys2Proof/Laws/FrameSystem.lean ====
section
/-!
SUPPORT. Which parts of the state an operation leaves as they are: time steps, CAL, MEM, Cornerstone, SEC, resets and the boot sequence.
-/

-- one theorem after another: all at once would not fit the memory
set_option Elab.async false
set_option linter.all false

namespace Sys2Proof.Machine

/-! ### Steps.lean -/

theorem State.shiftTb0_fr {F : Nat} {r0 : State} (s : State) (d : Int) (h0 : Frame F r0 s)
    (hF : F &&& 423659008 = 423659008 := by first | decide | exact sub_of (by assumption) (by decide)) : Frame F r0
    (State.shiftTb0 s d) := by
  unfold State.shiftTb0
  with_reducible repeat' first
    | assumption | intro _ | exact Frame.refl _ | subst x
    | (extract_lets +onlyGivenNames x; first | (have hx : Frame F r0 x := ?_; clear_value x) | (have hx : Frame F r0 x.1 := ?_; clear_value x) | (have hf := fun a => x a; clear hf) | (have hf : CiphState := x; clear hf) | (have hf : SecState := x; clear hf) | (have hf : LevelSeq := x; clear hf) | (have hf : CstState := x; clear hf) | clear_value x)
    | apply ite_fr | apply State.modLfr_fr | apply State.modPmon_fr | apply State.eachLane_fr_of
    | apply State.modPlu_fr | apply State.modArmed_fr | dsimp only | split | refine Frame.raw ?_
    | exact sub_of hF (by decide)

theorem State.endSecond_fr {F : Nat} {r0 : State} (s : State) (h0 : Frame F r0 s)
    (hF : F &&& 1025 = 1025 := by first | decide | exact sub_of (by assumption) (by decide)) : Frame F r0
    (State.endSecond s) := by
  unfold State.endSecond
  with_reducible repeat' first
    | assumption | intro _ | exact Frame.refl _ | subst x
    | (extract_lets +onlyGivenNames x; first | (have hx : Frame F r0 x := ?_; clear_value x) | (have hx : Frame F r0 x.1 := ?_; clear_value x) | (have hf := fun a => x a; clear hf) | (have hf : CiphState := x; clear hf) | (have hf : SecState := x; clear hf) | (have hf : LevelSeq := x; clear hf) | (have hf : CstState := x; clear hf) | clear_value x)
    | apply ite_fr | apply State.modPmon_fr | apply State.eachLane_fr_of | apply State.touch_fr | dsimp only | split
    | exact sub_of hF (by decide)

theorem State.beginSecond_fr {F : Nat} {r0 : State} (s : State) (h0 : Frame F r0 s)
    (hF : F &&& 1025 = 1025 := by first | decide | exact sub_of (by assumption) (by decide)) : Frame F r0
    (State.beginSecond s) := by
  unfold State.beginSecond
  with_reducible repeat' first
    | assumption | intro _ | exact Frame.refl _ | subst x
    | (extract_lets +onlyGivenNames x; first | (have hx : Frame F r0 x := ?_; clear_value x) | (have hx : Frame F r0 x.1 := ?_; clear_value x) | (have hf := fun a => x a; clear hf) | (have hf : CiphState := x; clear hf) | (have hf : SecState := x; clear hf) | (have hf : LevelSeq := x; clear hf) | (have hf : CstState := x; clear hf) | clear_value x)
    | apply ite_fr | apply State.modPmon_fr | apply State.eachLane_fr_of | apply State.touch_fr | dsimp only | split
    | exact sub_of hF (by decide)

theorem State.courseStep_fr {F : Nat} {r0 : State} (s : State) (old new : Nat) (h0 : Frame F r0 s)
    (hF : F &&& 153733337 = 153733337 := by first | decide | exact sub_of (by assumption) (by decide)) : Frame F r0
    (State.courseStep s old new) := by
  unfold State.courseStep
  with_reducible repeat' first
    | assumption | exact sub_of hF (by decide) | apply ite_fr | apply State.modArmed_fr | apply State.courseStrobe_fr
    | split

theorem State.tbStep_fr {F : Nat} {r0 : State} (s : State) (x : Nat) (acc : Int) (h0 : Frame F r0 s)
    (hF : F &&& 468315901 = 468315901 := by first | decide | exact sub_of (by assumption) (by decide)) : Frame F r0
    (State.tbStep s x acc).1 := by
  unfold State.tbStep
  with_reducible repeat' first
    | assumption | intro _ | exact Frame.refl _ | subst x
    | (extract_lets +onlyGivenNames x; first | (have hx : Frame F r0 x := ?_; clear_value x) | (have hx : Frame F r0 x.1 := ?_; clear_value x) | (have hf := fun a => x a; clear hf) | (have hf : CiphState := x; clear hf) | (have hf : SecState := x; clear hf) | (have hf : LevelSeq := x; clear hf) | (have hf : CstState := x; clear hf) | clear_value x)
    | apply ite_fr | apply itep_fr | apply State.modTb_fr | apply State.addCnt32_fr | apply State.raise_fr
    | apply State.suspectBins_fr | apply State.lateLevel_fr | apply State.setTbState_fr | apply State.syncTbs_fr
    | apply State.dropSamples_fr | apply State.utcAct_fr | apply State.launchesCrossed_fr | apply State.shiftTb0_fr
    | apply State.endSecond_fr | apply State.beginSecond_fr | apply State.courseStep_fr | dsimp only
    | (apply fst_fr; assumption) | split | exact sub_of hF (by decide)

theorem State.tbSet_fr {F : Nat} {r0 : State} (s : State) (x : Nat) (t : Time80) (h0 : Frame F r0 s)
    (hF : F &&& 468315901 = 468315901 := by first | decide | exact sub_of (by assumption) (by decide)) : Frame F r0
    (State.tbSet s x t).1 := by
  unfold State.tbSet
  with_reducible repeat' first
    | assumption | exact sub_of hF (by decide) | apply ite_fr | apply State.raise_fr | apply State.tbStep_fr | split

theorem State.tbAdd_fr {F : Nat} {r0 : State} (s : State) (x : Nat) (d : Int) (h0 : Frame F r0 s)
    (hF : F &&& 468315901 = 468315901 := by first | decide | exact sub_of (by assumption) (by decide)) : Frame F r0
    (State.tbAdd s x d).1 := by
  unfold State.tbAdd
  with_reducible repeat' first | assumption | exact sub_of hF (by decide) | apply State.tbStep_fr

theorem State.servoFreq_fr {F : Nat} {r0 : State} (s : State) (x : Nat) (mean : Int) (h0 : Frame F r0 s)
    (hF : F &&& 5 = 5 := by first | decide | exact sub_of (by assumption) (by decide)) : Frame F r0 (State.servoFreq
    s x mean) := by
  unfold State.servoFreq
  with_reducible repeat' first
    | assumption | intro _ | exact Frame.refl _ | subst x
    | (extract_lets +onlyGivenNames x; first | (have hx : Frame F r0 x := ?_; clear_value x) | (have hx : Frame F r0 x.1 := ?_; clear_value x) | (have hf := fun a => x a; clear hf) | (have hf : CiphState := x; clear hf) | (have hf : SecState := x; clear hf) | (have hf : LevelSeq := x; clear hf) | (have hf : CstState := x; clear hf) | clear_value x)
    | apply ite_fr | apply State.setInt_fr | apply State.modTb_fr | apply State.modServo_fr | dsimp only | split
    | exact sub_of hF (by decide)

theorem State.servoApply_fr {F : Nat} {r0 : State} (s : State) (x : Fin 3) (mean ps : Int) (h0 : Frame F r0 s)
    (hF : F &&& 468315901 = 468315901 := by first | decide | exact sub_of (by assumption) (by decide)) : Frame F r0
    (State.servoApply s x mean ps) := by
  unfold State.servoApply
  with_reducible repeat' first
    | assumption | intro _ | exact Frame.refl _ | subst x
    | (extract_lets +onlyGivenNames x; first | (have hx : Frame F r0 x := ?_; clear_value x) | (have hx : Frame F r0 x.1 := ?_; clear_value x) | (have hf := fun a => x a; clear hf) | (have hf : CiphState := x; clear hf) | (have hf : SecState := x; clear hf) | (have hf : LevelSeq := x; clear hf) | (have hf : CstState := x; clear hf) | clear_value x)
    | apply ite_fr | apply itep_fr | apply State.setInt_fr | apply State.modServo_fr | apply State.setTbState_fr
    | apply State.tbStep_fr | apply State.servoFreq_fr | dsimp only | (apply fst_fr; assumption) | split
    | exact sub_of hF (by decide)

/-! ### Cal.lean -/

theorem State.modCal_fr {F : Nat} {r0 : State} (s : State) (f : CalState → CalState) (h0 : Frame F r0 s)
    (hF : F &&& 1048576 = 1048576 := by first | decide | exact sub_of (by assumption) (by decide)) : Frame F r0
    (State.modCal s f) :=
  Frame.raw h0

theorem State.modRun_fr {F : Nat} {r0 : State} (s : State) (f : CalRun → CalRun) (h0 : Frame F r0 s)
    (hF : F &&& 1048576 = 1048576 := by first | decide | exact sub_of (by assumption) (by decide)) : Frame F r0
    (State.modRun s f) := by
  unfold State.modRun
  with_reducible repeat' first | assumption | exact sub_of hF (by decide) | apply State.modCal_fr

theorem State.modDom_fr {F : Nat} {r0 : State} (s : State) (d : Nat) (f : CalDomain → CalDomain) (h0 : Frame F r0 s)
    (hF : F &&& 1048576 = 1048576 := by first | decide | exact sub_of (by assumption) (by decide)) : Frame F r0
    (State.modDom s d f) := by
  unfold State.modDom
  with_reducible repeat' first | assumption | exact sub_of hF (by decide) | apply State.modCal_fr

theorem State.calCount_fr {F : Nat} {r0 : State} (s : State) (j : Nat) (h0 : Frame F r0 s)
    (hF : F &&& 16385 = 16385 := by first | decide | exact sub_of (by assumption) (by decide)) : Frame F r0
    (State.calCount s j) := by
  unfold State.calCount
  with_reducible repeat' first | assumption | exact sub_of hF (by decide) | apply State.addCnt_fr

theorem State.showPoints_fr {F : Nat} {r0 : State} (s : State) (d : Nat) (h0 : Frame F r0 s)
    (hF : F &&& 1 = 1 := by first | decide | exact sub_of (by assumption) (by decide)) : Frame F r0 (State.showPoints
    s d) := by
  unfold State.showPoints
  with_reducible repeat' first
    | assumption | intro _ | exact Frame.refl _ | subst x
    | (extract_lets +onlyGivenNames x; first | (have hx : Frame F r0 x := ?_; clear_value x) | (have hx : Frame F r0 x.1 := ?_; clear_value x) | (have hf := fun a => x a; clear hf) | (have hf : CiphState := x; clear hf) | (have hf : SecState := x; clear hf) | (have hf : LevelSeq := x; clear hf) | (have hf : CstState := x; clear hf) | clear_value x)
    | apply ite_fr | apply State.set_fr | apply State.setNat_fr | apply foldl_fr_of | dsimp only | split
    | exact sub_of hF (by decide)

theorem State.judgeTemp_fr {F : Nat} {r0 : State} (s : State) (d : Nat) (h0 : Frame F r0 s)
    (hF : F &&& 17 = 17 := by first | decide | exact sub_of (by assumption) (by decide)) : Frame F r0 (State.judgeTemp
    s d) := by
  unfold State.judgeTemp
  with_reducible repeat' first | assumption | exact sub_of hF (by decide) | apply State.raiseIf_fr | apply State.setB_fr

theorem State.dieReload_fr {F : Nat} {r0 : State} (s : State) (d : Nat) (h0 : Frame F r0 s)
    (hF : F &&& 32 = 32 := by first | decide | exact sub_of (by assumption) (by decide)) : Frame F r0
    (State.dieReload s d) := by
  unfold State.dieReload
  with_reducible repeat' first
    | assumption | exact Frame.refl _ | exact sub_of hF (by decide) | apply ite_fr | apply State.sparesReload_fr
    | split | refine Frame.raw ?_

theorem State.calApply_fr {F : Nat} {r0 : State} (s : State) (d : Nat) (h0 : Frame F r0 s)
    (hF : F &&& 1048608 = 1048608 := by first | decide | exact sub_of (by assumption) (by decide)) : Frame F r0
    (State.calApply s d) := by
  unfold State.calApply
  with_reducible repeat' first
    | assumption | intro _ | exact Frame.refl _ | subst x
    | (extract_lets +onlyGivenNames x; first | (have hx : Frame F r0 x := ?_; clear_value x) | (have hx : Frame F r0 x.1 := ?_; clear_value x) | (have hf := fun a => x a; clear hf) | (have hf : CiphState := x; clear hf) | (have hf : SecState := x; clear hf) | (have hf : LevelSeq := x; clear hf) | (have hf : CstState := x; clear hf) | clear_value x)
    | apply ite_fr | apply State.modDom_fr | apply State.dieReload_fr | dsimp only | split
    | exact sub_of hF (by decide)

theorem State.sensRead_fr {F : Nat} {r0 : State} (s : State) (temps : List Int) (h0 : Frame F r0 s)
    (hF : F &&& 1048577 = 1048577 := by first | decide | exact sub_of (by assumption) (by decide)) : Frame F r0
    (State.sensRead s temps) := by
  unfold State.sensRead
  with_reducible repeat' first
    | assumption | intro _ | exact Frame.refl _ | subst x
    | (extract_lets +onlyGivenNames x; first | (have hx : Frame F r0 x := ?_; clear_value x) | (have hx : Frame F r0 x.1 := ?_; clear_value x) | (have hf := fun a => x a; clear hf) | (have hf : CiphState := x; clear hf) | (have hf : SecState := x; clear hf) | (have hf : LevelSeq := x; clear hf) | (have hf : CstState := x; clear hf) | clear_value x)
    | apply ite_fr | apply State.setInt_fr | apply State.modCal_fr | apply foldl_fr_of | dsimp only | split
    | exact sub_of hF (by decide)

theorem State.calEnter_fr {F : Nat} {r0 : State} (s : State) (st : Nat) (h0 : Frame F r0 s)
    (hF : F &&& 1 = 1 := by first | decide | exact sub_of (by assumption) (by decide)) : Frame F r0 (State.calEnter s
    st) := by
  unfold State.calEnter
  with_reducible repeat' first | assumption | exact sub_of hF (by decide) | apply State.setNat_fr | apply State.set_fr

theorem State.calRestore_fr {F : Nat} {r0 : State} (s : State) (r : CalRun) (h0 : Frame F r0 s)
    (hF : F &&& 1048625 = 1048625 := by first | decide | exact sub_of (by assumption) (by decide)) : Frame F r0
    (State.calRestore s r) := by
  unfold State.calRestore
  with_reducible repeat' first
    | assumption | intro _ | exact Frame.refl _ | subst x
    | (extract_lets +onlyGivenNames x; first | (have hx : Frame F r0 x := ?_; clear_value x) | (have hx : Frame F r0 x.1 := ?_; clear_value x) | (have hf := fun a => x a; clear hf) | (have hf : CiphState := x; clear hf) | (have hf : SecState := x; clear hf) | (have hf : LevelSeq := x; clear hf) | (have hf : CstState := x; clear hf) | clear_value x)
    | apply ite_fr | apply State.modDom_fr | apply State.showPoints_fr | apply State.judgeTemp_fr
    | apply State.dieReload_fr | apply foldl_fr_of | dsimp only | split | exact sub_of hF (by decide)

theorem State.calAbort_fr {F : Nat} {r0 : State} (s : State) (result : Nat) (h0 : Frame F r0 s)
    (hF : F &&& 1589297 = 1589297 := by first | decide | exact sub_of (by assumption) (by decide)) : Frame F r0
    (State.calAbort s result) := by
  unfold State.calAbort
  with_reducible repeat' first
    | assumption | intro _ | exact Frame.refl _ | subst x
    | (extract_lets +onlyGivenNames x; first | (have hx : Frame F r0 x := ?_; clear_value x) | (have hx : Frame F r0 x.1 := ?_; clear_value x) | (have hf := fun a => x a; clear hf) | (have hf : CiphState := x; clear hf) | (have hf : SecState := x; clear hf) | (have hf : LevelSeq := x; clear hf) | (have hf : CstState := x; clear hf) | clear_value x)
    | apply ite_fr | apply State.set_fr | apply State.modConv_fr | apply State.raise_fr | apply State.staleShow_fr
    | apply State.calRelease_fr | apply State.modCal_fr | apply State.calCount_fr | apply State.calEnter_fr
    | apply State.calRestore_fr | dsimp only | split | exact sub_of hF (by decide)

theorem State.precondFail_fr {F : Nat} {r0 : State} (s : State) (i : Nat) (h0 : Frame F r0 s)
    (hF : F &&& 1589297 = 1589297 := by first | decide | exact sub_of (by assumption) (by decide)) : Frame F r0
    (State.precondFail s i) := by
  unfold State.precondFail
  with_reducible repeat' first
    | assumption | exact sub_of hF (by decide) | apply State.calAbort_fr | apply State.raise_fr
    | apply State.calCount_fr | apply State.set_fr

theorem State.blockStart_fr {F : Nat} {r0 : State} (s : State) (b : Nat) (h0 : Frame F r0 s)
    (hF : F &&& 1589297 = 1589297 := by first | decide | exact sub_of (by assumption) (by decide)) : Frame F r0
    (State.blockStart s b) := by
  unfold State.blockStart
  with_reducible repeat' first
    | assumption | intro _ | exact Frame.refl _ | subst x
    | (extract_lets +onlyGivenNames x; first | (have hx : Frame F r0 x := ?_; clear_value x) | (have hx : Frame F r0 x.1 := ?_; clear_value x) | (have hf := fun a => x a; clear hf) | (have hf : CiphState := x; clear hf) | (have hf : SecState := x; clear hf) | (have hf : LevelSeq := x; clear hf) | (have hf : CstState := x; clear hf) | clear_value x)
    | apply ite_fr | apply State.staleShow_fr | apply State.modRun_fr | apply State.precondFail_fr | dsimp only
    | split | exact sub_of hF (by decide)

theorem State.stepStart_fr {F : Nat} {r0 : State} (fuel : Nat) (s : State) (h0 : Frame F r0 s)
    (hF : F &&& 1589297 = 1589297 := by first | decide | exact sub_of (by assumption) (by decide)) :
    Frame F r0 (State.stepStart fuel s) := by
  induction fuel generalizing s with
  | zero => exact h0
  | succ m ih =>
    unfold State.stepStart
    split
    · exact h0
    · refine ite_fr _ _ _ (State.blockStart_fr _ _ h0) (ite_fr _ _ _ (State.modRun_fr _ _ h0) ?_)
      split
      · exact State.precondFail_fr _ _ h0
      · refine ite_fr _ _ _ (State.modRun_fr _ _ h0) ?_
        exact ite_fr _ _ _ (State.modRun_fr _ _ (State.calTake_fr _ _ _ _ h0))
          (ih _ (State.modRun_fr _ _ (State.setB_fr _ _ _ h0)))


theorem State.calStart_fr {F : Nat} {r0 : State} (s : State) (items lane : Nat) (h0 : Frame F r0 s)
    (hF : F &&& 1065009 = 1065009 := by first | decide | exact sub_of (by assumption) (by decide)) : Frame F r0
    (State.calStart s items lane).1 := by
  unfold State.calStart
  with_reducible repeat' first
    | assumption | intro _ | exact Frame.refl _ | subst x
    | (extract_lets +onlyGivenNames x; first | (have hx : Frame F r0 x := ?_; clear_value x) | (have hx : Frame F r0 x.1 := ?_; clear_value x) | (have hf := fun a => x a; clear hf) | (have hf : CiphState := x; clear hf) | (have hf : SecState := x; clear hf) | (have hf : LevelSeq := x; clear hf) | (have hf : CstState := x; clear hf) | clear_value x)
    | apply ite_fr | apply itep_fr | apply State.setReg_fr | apply State.modConv_fr | apply State.raise_fr
    | apply State.modCal_fr | apply State.calCount_fr | apply State.calEnter_fr | dsimp only
    | (apply fst_fr; assumption) | split | exact sub_of hF (by decide)

theorem State.calStop_fr {F : Nat} {r0 : State} (s : State) (h0 : Frame F r0 s)
    (hF : F &&& 1589297 = 1589297 := by first | decide | exact sub_of (by assumption) (by decide)) : Frame F r0
    (State.calStop s).1 := by
  unfold State.calStop
  with_reducible repeat' first
    | assumption | exact sub_of hF (by decide) | apply ite_fr | apply itep_fr | apply State.raise_fr
    | apply State.modRun_fr | apply State.calAbort_fr | split

theorem State.writeCalCmd_fr {F : Nat} {r0 : State} (s : State) (v : Word) (h0 : Frame F r0 s)
    (hF : F &&& 1589297 = 1589297 := by first | decide | exact sub_of (by assumption) (by decide)) : Frame F r0
    (State.writeCalCmd s v).1 := by
  unfold State.writeCalCmd
  with_reducible repeat' first
    | assumption | intro _ | exact Frame.refl _ | subst x
    | (extract_lets +onlyGivenNames x; first | (have hx : Frame F r0 x := ?_; clear_value x) | (have hx : Frame F r0 x.1 := ?_; clear_value x) | (have hf := fun a => x a; clear hf) | (have hf : CiphState := x; clear hf) | (have hf : SecState := x; clear hf) | (have hf : LevelSeq := x; clear hf) | (have hf : CstState := x; clear hf) | clear_value x)
    | apply ite_fr | apply itep_fr | apply State.setReg_fr | apply State.raise_fr | apply State.calStart_fr
    | apply State.calStop_fr | dsimp only | (apply fst_fr; assumption) | split | exact sub_of hF (by decide)

theorem State.sliceItemsDone_fr {F : Nat} {r0 : State} (s : State) (h0 : Frame F r0 s)
    (hF : F &&& 1 = 1 := by first | decide | exact sub_of (by assumption) (by decide)) : Frame F r0
    (State.sliceItemsDone s) := by
  unfold State.sliceItemsDone
  with_reducible repeat' first | assumption | exact sub_of hF (by decide) | apply ite_fr | apply State.set_fr | split

theorem State.measured_fr {F : Nat} {r0 : State} (s : State) (r : CalRun) (h0 : Frame F r0 s)
    (hF : F &&& 1048609 = 1048609 := by first | decide | exact sub_of (by assumption) (by decide)) : Frame F r0
    (State.measured s r) := by
  unfold State.measured
  with_reducible repeat' first
    | assumption | intro _ | exact Frame.refl _ | subst x
    | (extract_lets +onlyGivenNames x; first | (have hx : Frame F r0 x := ?_; clear_value x) | (have hx : Frame F r0 x.1 := ?_; clear_value x) | (have hf := fun a => x a; clear hf) | (have hf : CiphState := x; clear hf) | (have hf : SecState := x; clear hf) | (have hf : LevelSeq := x; clear hf) | (have hf : CstState := x; clear hf) | clear_value x)
    | apply ite_fr | apply State.set_fr | apply State.setInt_fr | apply State.modRun_fr | apply State.modDom_fr
    | apply State.calApply_fr | apply State.calEnter_fr | apply foldl_fr_of | dsimp only | split
    | exact sub_of hF (by decide)

theorem State.calDone_fr {F : Nat} {r0 : State} (s : State) (result : Nat) (h0 : Frame F r0 s)
    (hF : F &&& 1048593 = 1048593 := by first | decide | exact sub_of (by assumption) (by decide)) : Frame F r0
    (State.calDone s result) := by
  unfold State.calDone
  with_reducible repeat' first
    | assumption | exact sub_of hF (by decide) | apply State.raise_fr | apply State.modCal_fr | apply State.set_fr
    | apply State.calEnter_fr

theorem State.storeRefused_fr {F : Nat} {r0 : State} (s : State) (r : CalRun) (h0 : Frame F r0 s)
    (hF : F &&& 1064977 = 1064977 := by first | decide | exact sub_of (by assumption) (by decide)) : Frame F r0
    (State.storeRefused s r) := by
  unfold State.storeRefused
  with_reducible repeat' first
    | assumption | exact sub_of hF (by decide) | exact Frame.refl _ | assumption | apply ite_fr | apply itep_fr
    | apply State.judgeTemp_fr | apply State.setB_fr | apply State.calDone_fr | apply State.calCount_fr
    | apply foldl_fr | intro _
    | (extract_lets +onlyGivenNames x; first | (have hx : Frame F r0 x := ?_; clear_value x) | (have hx : Frame F r0 x.1 := ?_; clear_value x) | (have hf := fun a => x a; clear hf) | (have hf : CiphState := x; clear hf) | (have hf : SecState := x; clear hf) | clear_value x)
    | split

theorem State.quarryRetire_fr {F : Nat} {r0 : State} (s : State) (failed : Nat) (h0 : Frame F r0 s)
    (hF : F &&& 17 = 17 := by first | decide | exact sub_of (by assumption) (by decide)) : Frame F r0
    (State.quarryRetire s failed).1 := by
  unfold State.quarryRetire
  with_reducible repeat' first
    | assumption | exact sub_of hF (by decide) | apply ite_fr | apply itep_fr | apply State.set_fr
    | apply State.raise_fr | apply State.setB_fr | exact Frame.refl _

theorem State.calLoad_fr {F : Nat} {r0 : State} (s : State) (h0 : Frame F r0 s)
    (hF : F &&& 1048625 = 1048625 := by first | decide | exact sub_of (by assumption) (by decide)) : Frame F r0
    (State.calLoad s) := by
  unfold State.calLoad
  with_reducible repeat' first
    | assumption | intro _ | exact Frame.refl _ | subst x
    | (extract_lets +onlyGivenNames x; first | (have hx : Frame F r0 x := ?_; clear_value x) | (have hx : Frame F r0 x.1 := ?_; clear_value x) | (have hf := fun a => x a; clear hf) | (have hf : CiphState := x; clear hf) | (have hf : SecState := x; clear hf) | (have hf : LevelSeq := x; clear hf) | (have hf : CstState := x; clear hf) | clear_value x)
    | apply ite_fr | apply State.set_fr | apply State.setB_fr | apply State.setNat_fr | apply State.raiseIf_fr
    | apply State.modDom_fr | apply State.showPoints_fr | apply State.judgeTemp_fr | apply State.calApply_fr
    | apply foldl_fr_of | dsimp only | split | exact sub_of hF (by decide)

theorem State.calSafe_fr {F : Nat} {r0 : State} (s : State) (h0 : Frame F r0 s)
    (hF : F &&& 1589297 = 1589297 := by first | decide | exact sub_of (by assumption) (by decide)) : Frame F r0
    (State.calSafe s) := by
  unfold State.calSafe
  with_reducible repeat' first
    | assumption | exact sub_of hF (by decide) | apply State.raise_fr | apply State.setB_fr | apply State.calAbort_fr

theorem State.calReset_fr {F : Nat} {r0 : State} (s : State) (h0 : Frame F r0 s)
    (hF : F &&& 1572897 = 1572897 := by first | decide | exact sub_of (by assumption) (by decide)) : Frame F r0
    (State.calReset s) := by
  unfold State.calReset
  with_reducible repeat' first
    | assumption | intro _ | exact Frame.refl _ | subst x
    | (extract_lets +onlyGivenNames x; first | (have hx : Frame F r0 x := ?_; clear_value x) | (have hx : Frame F r0 x.1 := ?_; clear_value x) | (have hf := fun a => x a; clear hf) | (have hf : CiphState := x; clear hf) | (have hf : SecState := x; clear hf) | (have hf : LevelSeq := x; clear hf) | (have hf : CstState := x; clear hf) | clear_value x)
    | apply ite_fr | apply State.staleShow_fr | apply State.calRelease_fr | apply State.modCal_fr | dsimp only
    | split | exact sub_of hF (by decide)

theorem State.calLaneReset_fr {F : Nat} {r0 : State} (s : State) (n : Lane) (h0 : Frame F r0 s)
    (hF : F &&& 1589297 = 1589297 := by first | decide | exact sub_of (by assumption) (by decide)) : Frame F r0
    (State.calLaneReset s n) := by
  unfold State.calLaneReset
  with_reducible repeat' first
    | assumption | exact sub_of hF (by decide) | apply ite_fr | apply State.calAbort_fr | apply State.modRun_fr
    | split

/-! ### MemInt.lean -/

theorem State.memFillStart_fr {F : Nat} {r0 : State} (s : State) (h0 : Frame F r0 s)
    (hF : F &&& 1 = 1 := by first | decide | exact sub_of (by assumption) (by decide)) : Frame F r0
    (State.memFillStart s) := by
  unfold State.memFillStart
  with_reducible repeat' first
    | assumption | exact sub_of hF (by decide) | exact Frame.refl _ | assumption | apply ite_fr | apply itep_fr
    | apply State.setB_fr | apply foldl_fr | intro _
    | (extract_lets +onlyGivenNames x; first | (have hx : Frame F r0 x := ?_; clear_value x) | (have hx : Frame F r0 x.1 := ?_; clear_value x) | (have hf := fun a => x a; clear hf) | (have hf : CiphState := x; clear hf) | (have hf : SecState := x; clear hf) | clear_value x)
    | split

theorem State.jobsReading_fr {F : Nat} {r0 : State} (s : State) (addr : Nat) (h0 : Frame F r0 s)
    (hF : F &&& 136331281 = 136331281 := by first | decide | exact sub_of (by assumption) (by decide)) : Frame F r0
    (State.jobsReading s addr) := by
  unfold State.jobsReading
  with_reducible repeat' first
    | assumption | exact sub_of hF (by decide) | exact Frame.refl _ | assumption | apply ite_fr | apply itep_fr
    | apply State.jobEnd_fr | apply State.jobWipe_fr | apply foldl_fr | intro _
    | (extract_lets +onlyGivenNames x; first | (have hx : Frame F r0 x := ?_; clear_value x) | (have hx : Frame F r0 x.1 := ?_; clear_value x) | (have hf := fun a => x a; clear hf) | (have hf : CiphState := x; clear hf) | (have hf : SecState := x; clear hf) | clear_value x)
    | split

theorem State.launchesReading_fr {F : Nat} {r0 : State} (s : State) (addr : Nat) (h0 : Frame F r0 s)
    (hF : F &&& 2097152 = 2097152 := by first | decide | exact sub_of (by assumption) (by decide)) : Frame F r0
    (State.launchesReading s addr) := by
  unfold State.launchesReading
  with_reducible repeat' first | assumption | exact sub_of hF (by decide) | apply State.modMem_fr

theorem State.memGive_fr {F : Nat} {r0 : State} (s : State) (a inst addr : Nat) (reader : MemReader) (data : Nat) (h0
    : Frame F r0 s)
    (hF : F &&& 16 = 16 := by first | decide | exact sub_of (by assumption) (by decide)) : Frame F r0 (State.memGive
    s a inst addr reader data) := by
  unfold State.memGive
  with_reducible repeat' first
    | assumption | intro _ | exact Frame.refl _ | subst x
    | (extract_lets +onlyGivenNames x; first | (have hx : Frame F r0 x := ?_; clear_value x) | (have hx : Frame F r0 x.1 := ?_; clear_value x) | (have hf := fun a => x a; clear hf) | (have hf : CiphState := x; clear hf) | (have hf : SecState := x; clear hf) | (have hf : LevelSeq := x; clear hf) | (have hf : CstState := x; clear hf) | clear_value x)
    | apply ite_fr | apply State.emit_fr | dsimp only | split | exact sub_of hF (by decide)

theorem State.memReader_fr {F : Nat} {r0 : State} (s : State) (a inst addr : Nat) (reader : MemReader) (h0 : Frame F
    r0 s)
    (hF : F &&& 136331281 = 136331281 := by first | decide | exact sub_of (by assumption) (by decide)) : Frame F r0
    (State.memReader s a inst addr reader) := by
  unfold State.memReader
  with_reducible repeat' first
    | assumption | intro _ | exact Frame.refl _ | subst x
    | (extract_lets +onlyGivenNames x; first | (have hx : Frame F r0 x := ?_; clear_value x) | (have hx : Frame F r0 x.1 := ?_; clear_value x) | (have hf := fun a => x a; clear hf) | (have hf : CiphState := x; clear hf) | (have hf : SecState := x; clear hf) | (have hf : LevelSeq := x; clear hf) | (have hf : CstState := x; clear hf) | clear_value x)
    | apply ite_fr | apply State.setReg_fr | apply State.emit_fr | apply State.logAcc_fr | apply State.answer_fr
    | apply State.unpoison_fr | apply State.memSet_fr | apply State.ctxStop_fr | apply State.zeroise_fr
    | apply State.jobsReading_fr | apply State.launchesReading_fr | apply State.memGive_fr | dsimp only | split
    | exact sub_of hF (by decide)

theorem State.memWrote_fr {F : Nat} {r0 : State} (s : State) (a inst addr : Nat) (w : Option (BitVec 64)) (h0 : Frame
    F r0 s)
    (hF : F &&& 2097153 = 2097153 := by first | decide | exact sub_of (by assumption) (by decide)) : Frame F r0
    (State.memWrote s a inst addr w) := by
  unfold State.memWrote
  with_reducible repeat' first
    | assumption | intro _ | exact Frame.refl _ | subst x
    | (extract_lets +onlyGivenNames x; first | (have hx : Frame F r0 x := ?_; clear_value x) | (have hx : Frame F r0 x.1 := ?_; clear_value x) | (have hf := fun a => x a; clear hf) | (have hf : CiphState := x; clear hf) | (have hf : SecState := x; clear hf) | (have hf : LevelSeq := x; clear hf) | (have hf : CstState := x; clear hf) | clear_value x)
    | apply ite_fr | apply State.memWrite_fr | dsimp only | split | exact sub_of hF (by decide)

theorem State.winMerge_fr {F : Nat} {r0 : State} (s : State) (inst addr ofs : Nat) (bytes : List Byte) (h0 : Frame F
    r0 s) (hF : F &&& 1 = 1 := by first | decide | exact sub_of (by assumption) (by decide)) : Frame F r0
    (State.winMerge s inst addr ofs bytes) := by
  unfold State.winMerge
  with_reducible repeat' first
    | assumption | exact sub_of hF (by decide) | exact Frame.refl _ | assumption | apply ite_fr | apply itep_fr
    | apply State.set_fr | apply foldl_fr | intro _
    | (extract_lets +onlyGivenNames x; first | (have hx : Frame F r0 x := ?_; clear_value x) | (have hx : Frame F r0 x.1 := ?_; clear_value x) | (have hf := fun a => x a; clear hf) | (have hf : CiphState := x; clear hf) | (have hf : SecState := x; clear hf) | clear_value x)
    | split

theorem State.memMerge_fr {F : Nat} {r0 : State} (s : State) (a inst addr ofs : Nat) (bytes : List Byte) (h0 : Frame
    F r0 s)
    (hF : F &&& 2097153 = 2097153 := by first | decide | exact sub_of (by assumption) (by decide)) : Frame F r0
    (State.memMerge s a inst addr ofs bytes) := by
  unfold State.memMerge
  with_reducible repeat' first
    | assumption | intro _ | exact Frame.refl _ | subst x
    | (extract_lets +onlyGivenNames x; first | (have hx : Frame F r0 x := ?_; clear_value x) | (have hx : Frame F r0 x.1 := ?_; clear_value x) | (have hf := fun a => x a; clear hf) | (have hf : CiphState := x; clear hf) | (have hf : SecState := x; clear hf) | (have hf : LevelSeq := x; clear hf) | (have hf : CstState := x; clear hf) | clear_value x)
    | apply ite_fr | apply State.memSet_fr | apply foldl_fr_of | dsimp only | split | exact sub_of hF (by decide)

theorem State.scrubNext_fr {F : Nat} {r0 : State} (s : State) (a inst addr : Nat) (h0 : Frame F r0 s)
    (hF : F &&& 2113537 = 2113537 := by first | decide | exact sub_of (by assumption) (by decide)) : Frame F r0
    (State.scrubNext s a inst addr) := by
  unfold State.scrubNext
  with_reducible repeat' first
    | assumption | intro _ | exact Frame.refl _ | subst x
    | (extract_lets +onlyGivenNames x; first | (have hx : Frame F r0 x := ?_; clear_value x) | (have hx : Frame F r0 x.1 := ?_; clear_value x) | (have hf := fun a => x a; clear hf) | (have hf : CiphState := x; clear hf) | (have hf : SecState := x; clear hf) | (have hf : LevelSeq := x; clear hf) | (have hf : CstState := x; clear hf) | clear_value x)
    | apply ite_fr | apply State.addCnt_fr | apply State.modMem_fr | dsimp only | split
    | exact sub_of hF (by decide)

/-! ### Cst.lean -/

theorem State.waitTb3_fr {F : Nat} {r0 : State} (s : State) (ns : Nat) (h0 : Frame F r0 s)
    (hF : F &&& 8388612 = 8388612 := by first | decide | exact sub_of (by assumption) (by decide)) : Frame F r0
    (State.waitTb3 s ns) := by
  unfold State.waitTb3
  with_reducible repeat' first | assumption | exact sub_of hF (by decide) | apply ite_fr | apply State.elapse_fr

theorem State.cstShow_fr {F : Nat} {r0 : State} (s : State) (h0 : Frame F r0 s)
    (hF : F &&& 1 = 1 := by first | decide | exact sub_of (by assumption) (by decide)) : Frame F r0 (State.cstShow s) := by
  unfold State.cstShow
  with_reducible repeat' first | assumption | exact sub_of hF (by decide) | apply State.set_fr | apply State.setB_fr

theorem State.tb3Enter_fr {F : Nat} {r0 : State} (s : State) (st : Nat) (h0 : Frame F r0 s)
    (hF : F &&& 12582913 = 12582913 := by first | decide | exact sub_of (by assumption) (by decide)) : Frame F r0
    (State.tb3Enter s st) := by
  unfold State.tb3Enter
  with_reducible repeat' first
    | assumption | exact sub_of hF (by decide) | apply ite_fr | apply State.cstShow_fr | apply State.modCst_fr
    | apply State.cstFlag_fr

theorem State.cstCount_fr {F : Nat} {r0 : State} (s : State) (j k : Nat) (h0 : Frame F r0 s)
    (hF : F &&& 12582912 = 12582912 := by first | decide | exact sub_of (by assumption) (by decide)) : Frame F r0
    (State.cstCount s j k) := by
  unfold State.cstCount
  with_reducible repeat' first | assumption | exact sub_of hF (by decide) | apply State.modCst_fr

theorem State.tb3Rate_fr {F : Nat} {r0 : State} (s : State) (h0 : Frame F r0 s)
    (hF : F &&& 12582912 = 12582912 := by first | decide | exact sub_of (by assumption) (by decide)) : Frame F r0
    (State.tb3Rate s) := by
  unfold State.tb3Rate
  with_reducible repeat' first
    | assumption | intro _ | exact Frame.refl _ | subst x
    | (extract_lets +onlyGivenNames x; first | (have hx : Frame F r0 x := ?_; clear_value x) | (have hx : Frame F r0 x.1 := ?_; clear_value x) | (have hf := fun a => x a; clear hf) | (have hf : CiphState := x; clear hf) | (have hf : SecState := x; clear hf) | (have hf : LevelSeq := x; clear hf) | (have hf : CstState := x; clear hf) | clear_value x)
    | apply ite_fr | apply State.modCst_fr | dsimp only | split | exact sub_of hF (by decide)

theorem State.tb3Follow_fr {F : Nat} {r0 : State} (s : State) (ofs : Int) (h0 : Frame F r0 s)
    (hF : F &&& 12582912 = 12582912 := by first | decide | exact sub_of (by assumption) (by decide)) : Frame F r0
    (State.tb3Follow s ofs) := by
  unfold State.tb3Follow
  with_reducible repeat' first
    | assumption | intro _ | exact Frame.refl _ | subst x
    | (extract_lets +onlyGivenNames x; first | (have hx : Frame F r0 x := ?_; clear_value x) | (have hx : Frame F r0 x.1 := ?_; clear_value x) | (have hf := fun a => x a; clear hf) | (have hf : CiphState := x; clear hf) | (have hf : SecState := x; clear hf) | (have hf : LevelSeq := x; clear hf) | (have hf : CstState := x; clear hf) | clear_value x)
    | apply ite_fr | apply State.modCst_fr | apply State.tb3Rate_fr | dsimp only | split
    | exact sub_of hF (by decide)

theorem State.cstNew_fr {F : Nat} {r0 : State} (s : State) (daily : Bool) (sec flags : Nat) (h0 : Frame F r0 s)
    (hF : F &&& 12582912 = 12582912 := by first | decide | exact sub_of (by assumption) (by decide)) : Frame F r0
    (State.cstNew s daily sec flags).1 := by
  unfold State.cstNew
  with_reducible repeat' first | assumption | exact sub_of hF (by decide) | apply State.modCst_fr

theorem State.cstClose_fr {F : Nat} {r0 : State} (s : State) (daily : Bool) (close due sec flags : Nat) (h0 : Frame F
    r0 s) (hF : F &&& 12582912 = 12582912 := by first | decide | exact sub_of (by assumption) (by decide)) : Frame F
    r0 (State.cstClose s daily close due sec flags) := by
  unfold State.cstClose
  with_reducible repeat' first
    | assumption | exact sub_of hF (by decide) | apply State.cstNew_fr | apply State.modCst_fr

theorem State.cstRoll_fr {F : Nat} {r0 : State} (s : State) (sec : Nat) (h0 : Frame F r0 s)
    (hF : F &&& 12582912 = 12582912 := by first | decide | exact sub_of (by assumption) (by decide)) : Frame F r0
    (State.cstRoll s sec) := by
  unfold State.cstRoll
  with_reducible repeat' first
    | assumption | exact sub_of hF (by decide) | exact Frame.refl _ | assumption | apply ite_fr | apply itep_fr
    | apply State.cstClose_fr | apply foldl_fr | intro _
    | (extract_lets +onlyGivenNames x; first | (have hx : Frame F r0 x := ?_; clear_value x) | (have hx : Frame F r0 x.1 := ?_; clear_value x) | (have hf := fun a => x a; clear hf) | (have hf : CiphState := x; clear hf) | (have hf : SecState := x; clear hf) | clear_value x)
    | split

theorem State.cstBinById_fr {F : Nat} {r0 : State} (s : State) (id : Nat) (f : CstBin → CstBin) (h0 : Frame F r0 s)
    (hF : F &&& 12582912 = 12582912 := by first | decide | exact sub_of (by assumption) (by decide)) : Frame F r0
    (State.cstBinById s id f) := by
  unfold State.cstBinById
  with_reducible repeat' first | assumption | exact sub_of hF (by decide) | apply State.modCst_fr

theorem State.cstMove_fr {F : Nat} {r0 : State} (s : State) (key : Nat) (r : CstSec) (es ses uas : Int) (h0 : Frame F
    r0 s) (hF : F &&& 12582912 = 12582912 := by first | decide | exact sub_of (by assumption) (by decide)) : Frame F
    r0 (State.cstMove s key r es ses uas) := by
  unfold State.cstMove
  with_reducible repeat' first | assumption | exact sub_of hF (by decide) | apply State.cstBinById_fr

theorem State.cstAvail_fr {F : Nat} {r0 : State} (s : State) (key : Nat) (r : CstSec) (h0 : Frame F r0 s)
    (hF : F &&& 12582912 = 12582912 := by first | decide | exact sub_of (by assumption) (by decide)) : Frame F r0
    (State.cstAvail s key r) := by
  unfold State.cstAvail
  with_reducible repeat' first
    | assumption | exact sub_of hF (by decide) | exact Frame.refl _ | assumption | apply ite_fr | apply itep_fr
    | apply State.modCst_fr | apply State.cstMove_fr | apply foldl_fr | intro _
    | (extract_lets +onlyGivenNames x; first | (have hx : Frame F r0 x := ?_; clear_value x) | (have hx : Frame F r0 x.1 := ?_; clear_value x) | (have hf := fun a => x a; clear hf) | (have hf : CiphState := x; clear hf) | (have hf : SecState := x; clear hf) | clear_value x)
    | split

theorem State.cstEntSecond_fr {F : Nat} {r0 : State} (s : State) (key : Nat) (h0 : Frame F r0 s)
    (hF : F &&& 12582912 = 12582912 := by first | decide | exact sub_of (by assumption) (by decide)) : Frame F r0
    (State.cstEntSecond s key) := by
  unfold State.cstEntSecond
  with_reducible repeat' first
    | assumption | exact sub_of hF (by decide) | apply ite_fr | apply State.cstFlag_fr | apply State.cstBins_fr
    | apply State.cstAvail_fr

theorem State.cstGather_fr {F : Nat} {r0 : State} (s : State) (h0 : Frame F r0 s)
    (hF : F &&& 12582912 = 12582912 := by first | decide | exact sub_of (by assumption) (by decide)) : Frame F r0
    (State.cstGather s) := by
  unfold State.cstGather
  with_reducible repeat' first
    | assumption | intro _ | exact Frame.refl _ | subst x
    | (extract_lets +onlyGivenNames x; first | (have hx : Frame F r0 x := ?_; clear_value x) | (have hx : Frame F r0 x.1 := ?_; clear_value x) | (have hf := fun a => x a; clear hf) | (have hf : CiphState := x; clear hf) | (have hf : SecState := x; clear hf) | (have hf : LevelSeq := x; clear hf) | (have hf : CstState := x; clear hf) | clear_value x)
    | apply ite_fr | apply State.modCst_fr | dsimp only | split | exact sub_of hF (by decide)

theorem State.cstSecondEnd_fr {F : Nat} {r0 : State} (s : State) (h0 : Frame F r0 s)
    (hF : F &&& 12582912 = 12582912 := by first | decide | exact sub_of (by assumption) (by decide)) : Frame F r0
    (State.cstSecondEnd s) := by
  unfold State.cstSecondEnd
  with_reducible repeat' first
    | assumption | intro _ | exact Frame.refl _ | subst x
    | (extract_lets +onlyGivenNames x; first | (have hx : Frame F r0 x := ?_; clear_value x) | (have hx : Frame F r0 x.1 := ?_; clear_value x) | (have hf := fun a => x a; clear hf) | (have hf : CiphState := x; clear hf) | (have hf : SecState := x; clear hf) | (have hf : LevelSeq := x; clear hf) | (have hf : CstState := x; clear hf) | clear_value x)
    | apply ite_fr | apply State.modCst_fr | apply State.cstBins_fr | apply State.cstFlag_fr
    | apply State.cstRoll_fr | apply State.cstEntSecond_fr | apply State.cstGather_fr | apply foldl_fr_of
    | dsimp only | split | exact sub_of hF (by decide)

theorem State.cstLf_fr {F : Nat} {r0 : State} (s : State) (t : TapLf) (h0 : Frame F r0 s)
    (hF : F &&& 12582912 = 12582912 := by first | decide | exact sub_of (by assumption) (by decide)) : Frame F r0
    (State.cstLf s t) := by
  unfold State.cstLf
  with_reducible repeat' first
    | assumption | intro _ | exact Frame.refl _ | subst x
    | (extract_lets +onlyGivenNames x; first | (have hx : Frame F r0 x := ?_; clear_value x) | (have hx : Frame F r0 x.1 := ?_; clear_value x) | (have hf := fun a => x a; clear hf) | (have hf : CiphState := x; clear hf) | (have hf : SecState := x; clear hf) | (have hf : LevelSeq := x; clear hf) | (have hf : CstState := x; clear hf) | clear_value x)
    | apply ite_fr | apply State.modCst_fr | apply foldl_fr_of | dsimp only | split | exact sub_of hF (by decide)

theorem State.cstPort_fr {F : Nat} {r0 : State} (s : State) (p : Nat) (h0 : Frame F r0 s)
    (hF : F &&& 12582912 = 12582912 := by first | decide | exact sub_of (by assumption) (by decide)) : Frame F r0
    (State.cstPort s p) := by
  unfold State.cstPort
  with_reducible repeat' first | assumption | exact sub_of hF (by decide) | apply State.modCst_fr

theorem State.cstUtcFirst_fr {F : Nat} {r0 : State} (s : State) (o : Int) (h0 : Frame F r0 s)
    (hF : F &&& 12582912 = 12582912 := by first | decide | exact sub_of (by assumption) (by decide)) : Frame F r0
    (State.cstUtcFirst s o) := by
  unfold State.cstUtcFirst
  with_reducible repeat' first
    | assumption | intro _ | exact Frame.refl _ | subst x
    | (extract_lets +onlyGivenNames x; first | (have hx : Frame F r0 x := ?_; clear_value x) | (have hx : Frame F r0 x.1 := ?_; clear_value x) | (have hf := fun a => x a; clear hf) | (have hf : CiphState := x; clear hf) | (have hf : SecState := x; clear hf) | (have hf : LevelSeq := x; clear hf) | (have hf : CstState := x; clear hf) | clear_value x)
    | apply ite_fr | apply State.modCst_fr | dsimp only | split | exact sub_of hF (by decide)

theorem State.cstUtcTake_fr {F : Nat} {r0 : State} (s : State) (o d : Int) (h0 : Frame F r0 s)
    (hF : F &&& 12582912 = 12582912 := by first | decide | exact sub_of (by assumption) (by decide)) : Frame F r0
    (State.cstUtcTake s o d) := by
  unfold State.cstUtcTake
  with_reducible repeat' first
    | assumption | intro _ | exact Frame.refl _ | subst x
    | (extract_lets +onlyGivenNames x; first | (have hx : Frame F r0 x := ?_; clear_value x) | (have hx : Frame F r0 x.1 := ?_; clear_value x) | (have hf := fun a => x a; clear hf) | (have hf : CiphState := x; clear hf) | (have hf : SecState := x; clear hf) | (have hf : LevelSeq := x; clear hf) | (have hf : CstState := x; clear hf) | clear_value x)
    | exact id_fr _ | apply ite_fr | apply State.modCst_fr | apply State.cstBins_fr | dsimp only | split
    | exact sub_of hF (by decide)

theorem State.cstUtcSample_fr {F : Nat} {r0 : State} (s : State) (o : Int) (h0 : Frame F r0 s)
    (hF : F &&& 12582912 = 12582912 := by first | decide | exact sub_of (by assumption) (by decide)) : Frame F r0
    (State.cstUtcSample s o) := by
  unfold State.cstUtcSample
  with_reducible repeat' first
    | assumption | intro _ | exact Frame.refl _ | subst x
    | (extract_lets +onlyGivenNames x; first | (have hx : Frame F r0 x := ?_; clear_value x) | (have hx : Frame F r0 x.1 := ?_; clear_value x) | (have hf := fun a => x a; clear hf) | (have hf : CiphState := x; clear hf) | (have hf : SecState := x; clear hf) | (have hf : LevelSeq := x; clear hf) | (have hf : CstState := x; clear hf) | clear_value x)
    | exact id_fr _ | apply ite_fr | apply State.modCst_fr | apply State.cstFlag_fr | apply State.cstCount_fr
    | apply State.cstUtcTake_fr | dsimp only | split | exact sub_of hF (by decide)

theorem State.cstTimed_fr {F : Nat} {r0 : State} (s : State) (h0 : Frame F r0 s)
    (hF : F &&& 12582912 = 12582912 := by first | decide | exact sub_of (by assumption) (by decide)) : Frame F r0
    (State.cstTimed s) := by
  unfold State.cstTimed
  with_reducible repeat' first
    | assumption | intro _ | exact Frame.refl _ | subst x
    | (extract_lets +onlyGivenNames x; first | (have hx : Frame F r0 x := ?_; clear_value x) | (have hx : Frame F r0 x.1 := ?_; clear_value x) | (have hf := fun a => x a; clear hf) | (have hf : CiphState := x; clear hf) | (have hf : SecState := x; clear hf) | (have hf : LevelSeq := x; clear hf) | (have hf : CstState := x; clear hf) | clear_value x)
    | exact id_fr _ | apply ite_fr | apply itep_fr | apply State.modCst_fr | apply State.cstNew_fr
    | apply State.cstGather_fr | apply foldl_fr_of | dsimp only | (apply fst_fr; assumption) | split
    | exact sub_of hF (by decide)

theorem State.tb3Step_fr {F : Nat} {r0 : State} (s : State) (ofs : Int) (h0 : Frame F r0 s)
    (hF : F &&& 12582912 = 12582912 := by first | decide | exact sub_of (by assumption) (by decide)) : Frame F r0
    (State.tb3Step s ofs) := by
  unfold State.tb3Step
  with_reducible repeat' first
    | assumption | intro _ | exact Frame.refl _ | subst x
    | (extract_lets +onlyGivenNames x; first | (have hx : Frame F r0 x := ?_; clear_value x) | (have hx : Frame F r0 x.1 := ?_; clear_value x) | (have hf := fun a => x a; clear hf) | (have hf : CiphState := x; clear hf) | (have hf : SecState := x; clear hf) | (have hf : LevelSeq := x; clear hf) | (have hf : CstState := x; clear hf) | clear_value x)
    | apply ite_fr | apply State.modCst_fr | apply State.cstFlag_fr | apply State.cstCount_fr
    | apply State.cstClose_fr | apply State.cstGather_fr | apply foldl_fr_of | dsimp only | split
    | exact sub_of hF (by decide)

theorem State.jumpAccepted_fr {F : Nat} {r0 : State} (s : State) (ofs : Int) (h0 : Frame F r0 s)
    (hF : F &&& 12582913 = 12582913 := by first | decide | exact sub_of (by assumption) (by decide)) : Frame F r0
    (State.jumpAccepted s ofs) := by
  unfold State.jumpAccepted
  with_reducible repeat' first
    | assumption | intro _ | exact Frame.refl _ | subst x
    | (extract_lets +onlyGivenNames x; first | (have hx : Frame F r0 x := ?_; clear_value x) | (have hx : Frame F r0 x.1 := ?_; clear_value x) | (have hf := fun a => x a; clear hf) | (have hf : CiphState := x; clear hf) | (have hf : SecState := x; clear hf) | (have hf : LevelSeq := x; clear hf) | (have hf : CstState := x; clear hf) | clear_value x)
    | apply ite_fr | apply State.modCst_fr | apply State.tb3Enter_fr | apply State.cstCount_fr
    | apply State.tb3Rate_fr | apply State.tb3Step_fr | dsimp only | split | exact sub_of hF (by decide)

theorem State.tb3Sample_fr {F : Nat} {r0 : State} (s : State) (ofs : Int) (h0 : Frame F r0 s)
    (hF : F &&& 12582913 = 12582913 := by first | decide | exact sub_of (by assumption) (by decide)) : Frame F r0
    (State.tb3Sample s ofs) := by
  unfold State.tb3Sample
  with_reducible repeat' first
    | assumption | intro _ | exact Frame.refl _ | subst x
    | (extract_lets +onlyGivenNames x; first | (have hx : Frame F r0 x := ?_; clear_value x) | (have hx : Frame F r0 x.1 := ?_; clear_value x) | (have hf := fun a => x a; clear hf) | (have hf : CiphState := x; clear hf) | (have hf : SecState := x; clear hf) | (have hf : LevelSeq := x; clear hf) | (have hf : CstState := x; clear hf) | clear_value x)
    | apply ite_fr | apply State.modCst_fr | apply State.cstFlag_fr | apply State.tb3Enter_fr
    | apply State.cstCount_fr | apply State.tb3Follow_fr | apply State.cstTimed_fr | apply State.jumpAccepted_fr
    | dsimp only | split | exact sub_of hF (by decide)

theorem State.cstSave_fr {F : Nat} {r0 : State} (s : State) (h0 : Frame F r0 s)
    (hF : F &&& 12582912 = 12582912 := by first | decide | exact sub_of (by assumption) (by decide)) : Frame F r0
    (State.cstSave s) := by
  unfold State.cstSave
  with_reducible repeat' first
    | assumption | intro _ | exact Frame.refl _ | subst x
    | (extract_lets +onlyGivenNames x; first | (have hx : Frame F r0 x := ?_; clear_value x) | (have hx : Frame F r0 x.1 := ?_; clear_value x) | (have hf := fun a => x a; clear hf) | (have hf : CiphState := x; clear hf) | (have hf : SecState := x; clear hf) | (have hf : LevelSeq := x; clear hf) | (have hf : CstState := x; clear hf) | clear_value x)
    | apply ite_fr | apply State.modCst_fr | apply State.cstCount_fr | dsimp only | split
    | exact sub_of hF (by decide)

theorem State.cstReset_fr {F : Nat} {r0 : State} (s : State) (h0 : Frame F r0 s)
    (hF : F &&& 29376531 = 29376531 := by first | decide | exact sub_of (by assumption) (by decide)) : Frame F r0
    (State.cstReset s) := by
  unfold State.cstReset
  with_reducible repeat' first
    | assumption | intro _ | exact Frame.refl _ | subst x
    | (extract_lets +onlyGivenNames x; first | (have hx : Frame F r0 x := ?_; clear_value x) | (have hx : Frame F r0 x.1 := ?_; clear_value x) | (have hf := fun a => x a; clear hf) | (have hf : CiphState := x; clear hf) | (have hf : SecState := x; clear hf) | (have hf : LevelSeq := x; clear hf) | (have hf : CstState := x; clear hf) | clear_value x)
    | apply ite_fr | apply State.setWide_fr | apply State.refChanged_fr | apply State.cstShow_fr | dsimp only
    | split | refine Frame.raw ?_ | exact sub_of hF (by decide)

theorem State.cstRequest_fr {F : Nat} {r0 : State} (s : State) (by_ : Source) (h0 : Frame F r0 s)
    (hF : F &&& 29376531 = 29376531 := by first | decide | exact sub_of (by assumption) (by decide)) : Frame F r0
    (State.cstRequest s by_) := by
  unfold State.cstRequest
  with_reducible repeat' first
    | assumption | exact sub_of hF (by decide) | apply ite_fr | apply State.refuse_fr | apply State.answer_fr
    | apply State.cstReset_fr | apply State.cstSave_fr

theorem State.patchGo_fr {F : Nat} {r0 : State} (s : State) (h0 : Frame F r0 s)
    (hF : F &&& 12582929 = 12582929 := by first | decide | exact sub_of (by assumption) (by decide)) : Frame F r0
    (State.patchGo s) := by
  unfold State.patchGo
  with_reducible repeat' first
    | assumption | exact sub_of hF (by decide) | apply ite_fr | apply State.logAcc_fr | apply State.modCst_fr

theorem State.cstSelect_fr {F : Nat} {r0 : State} (s : State) (by_ : Source) (seq : Nat) (h0 : Frame F r0 s)
    (hF : F &&& 281018368 = 281018368 := by first | decide | exact sub_of (by assumption) (by decide)) : Frame F r0
    (State.cstSelect s by_ seq) := by
  unfold State.cstSelect
  with_reducible repeat' first
    | assumption | exact Frame.refl _ | exact id_fr _ | assumption | apply ite_fr | apply itep_fr
    | apply State.modCst_fr | apply foldl_fr | apply foldlp_fr | intro _
    | (extract_lets +onlyGivenNames x; first | (have hx : Frame F r0 x := ?_; clear_value x) | (have hx : Frame F r0 x.1 := ?_; clear_value x) | (have hf := fun a => x a; clear hf) | (have hf : CiphState := x; clear hf) | (have hf : SecState := x; clear hf) | clear_value x)
    | subst x | dsimp only | (apply fst_fr; assumption) | split | refine Frame.raw ?_ | exact sub_of hF (by decide)

/-! ### Sec.lean -/

theorem State.writeRwl_fr {F : Nat} {r0 : State} (s : State) (by_ : Source) (a : Nat) (r : RegRow) (v : Nat) (h0 :
    Frame F r0 s) (hF : F &&& 17 = 17 := by first | decide | exact sub_of (by assumption) (by decide)) : Frame F r0
    (State.writeRwl s by_ a r v).1 := by
  unfold State.writeRwl
  with_reducible repeat' first
    | assumption | exact sub_of hF (by decide) | apply ite_fr | apply State.setNat_fr | apply State.logAcc_fr | split

theorem State.imageInForce_fr {F : Nat} {r0 : State} (s : State) (kind : Nat) (b : Option Bool) (img : List Byte) (h0
    : Frame F r0 s) (hF : F &&& 536870912 = 536870912 := by first | decide | exact sub_of (by assumption) (by decide))
    : Frame F r0 (State.imageInForce s kind b img) := by
  unfold State.imageInForce
  with_reducible repeat' first
    | assumption | exact sub_of hF (by decide) | exact Frame.refl _ | assumption | apply ite_fr | apply itep_fr
    | apply State.modSec_fr | apply foldl_fr | intro _
    | (extract_lets +onlyGivenNames x; first | (have hx : Frame F r0 x := ?_; clear_value x) | (have hx : Frame F r0 x.1 := ?_; clear_value x) | (have hf := fun a => x a; clear hf) | (have hf : CiphState := x; clear hf) | (have hf : SecState := x; clear hf) | clear_value x)
    | split

theorem State.showPrefs_fr {F : Nat} {r0 : State} (s : State) (h0 : Frame F r0 s)
    (hF : F &&& 1 = 1 := by first | decide | exact sub_of (by assumption) (by decide)) : Frame F r0 (State.showPrefs
    s) := by
  unfold State.showPrefs
  with_reducible repeat' first | assumption | exact sub_of hF (by decide) | apply State.set_fr

theorem State.imgCode_fr {F : Nat} {r0 : State} (s : State) (c : Nat) (h0 : Frame F r0 s)
    (hF : F &&& 1 = 1 := by first | decide | exact sub_of (by assumption) (by decide)) : Frame F r0 (State.imgCode s
    c) := by
  unfold State.imgCode
  with_reducible repeat' first | assumption | exact sub_of hF (by decide) | apply State.set_fr

theorem State.imgWindowPut_fr {F : Nat} {r0 : State} (s : State) (bs : List Byte) (h0 : Frame F r0 s)
    (hF : F &&& 1 = 1 := by first | decide | exact sub_of (by assumption) (by decide)) : Frame F r0
    (State.imgWindowPut s bs) := by
  unfold State.imgWindowPut
  with_reducible repeat' first
    | assumption | exact sub_of hF (by decide) | exact Frame.refl _ | assumption | apply ite_fr | apply itep_fr
    | apply State.setNat_fr | apply foldl_fr | intro _
    | (extract_lets +onlyGivenNames x; first | (have hx : Frame F r0 x := ?_; clear_value x) | (have hx : Frame F r0 x.1 := ?_; clear_value x) | (have hf := fun a => x a; clear hf) | (have hf : CiphState := x; clear hf) | (have hf : SecState := x; clear hf) | clear_value x)
    | split

theorem State.imgBegin_fr {F : Nat} {r0 : State} (s : State) (h0 : Frame F r0 s)
    (hF : F &&& 536870913 = 536870913 := by first | decide | exact sub_of (by assumption) (by decide)) : Frame F r0
    (State.imgBegin s).1 := by
  unfold State.imgBegin
  with_reducible repeat' first
    | assumption | exact sub_of hF (by decide) | exact Frame.refl _ | assumption | apply ite_fr | apply itep_fr
    | apply State.imgCode_fr | apply State.modSec_fr | apply State.set_fr | apply foldl_fr | intro _
    | (extract_lets +onlyGivenNames x; first | (have hx : Frame F r0 x := ?_; clear_value x) | (have hx : Frame F r0 x.1 := ?_; clear_value x) | (have hf := fun a => x a; clear hf) | (have hf : CiphState := x; clear hf) | (have hf : SecState := x; clear hf) | clear_value x)
    | split

theorem State.imgAppend_fr {F : Nat} {r0 : State} (s : State) (len : Nat) (h0 : Frame F r0 s)
    (hF : F &&& 536870913 = 536870913 := by first | decide | exact sub_of (by assumption) (by decide)) : Frame F r0
    (State.imgAppend s len).1 := by
  unfold State.imgAppend
  with_reducible repeat' first
    | assumption | intro _ | exact Frame.refl _ | subst x
    | (extract_lets +onlyGivenNames x; first | (have hx : Frame F r0 x := ?_; clear_value x) | (have hx : Frame F r0 x.1 := ?_; clear_value x) | (have hf := fun a => x a; clear hf) | (have hf : CiphState := x; clear hf) | (have hf : SecState := x; clear hf) | (have hf : LevelSeq := x; clear hf) | (have hf : CstState := x; clear hf) | clear_value x)
    | apply ite_fr | apply itep_fr | apply State.set_fr | apply State.modSec_fr | apply State.imgCode_fr
    | dsimp only | (apply fst_fr; assumption) | split | exact sub_of hF (by decide)

theorem State.imgCommit_fr {F : Nat} {r0 : State} (s : State) (h0 : Frame F r0 s)
    (hF : F &&& 17 = 17 := by first | decide | exact sub_of (by assumption) (by decide)) : Frame F r0 (State.imgCommit
    s).1 := by
  unfold State.imgCommit
  with_reducible repeat' first
    | assumption | exact sub_of hF (by decide) | apply ite_fr | apply State.raise_fr | apply State.imgCode_fr
    | apply State.setB_fr | split

theorem State.imgCancel_fr {F : Nat} {r0 : State} (s : State) (h0 : Frame F r0 s)
    (hF : F &&& 536870913 = 536870913 := by first | decide | exact sub_of (by assumption) (by decide)) : Frame F r0
    (State.imgCancel s).1 := by
  unfold State.imgCancel
  with_reducible repeat' first
    | assumption | exact sub_of hF (by decide) | exact Frame.refl _ | assumption | apply ite_fr | apply itep_fr
    | apply State.imgCode_fr | apply State.setB_fr | apply State.modSec_fr | apply foldl_fr | intro _
    | (extract_lets +onlyGivenNames x; first | (have hx : Frame F r0 x := ?_; clear_value x) | (have hx : Frame F r0 x.1 := ?_; clear_value x) | (have hf := fun a => x a; clear hf) | (have hf : CiphState := x; clear hf) | (have hf : SecState := x; clear hf) | clear_value x)
    | split

-- the pair stands under an equation, so that the kernel compares it as it is and does not run the image's check
theorem State.imgRecover_fr {F : Nat} {r0 : State} (s : State) (h0 : Frame F r0 s)
    (hF : F &&& 536870913 = 536870913 := by first | decide | exact sub_of (by assumption) (by decide)) : Frame F r0
    (State.imgRecover s).1 := by
  generalize e : s.imgRecover = p
  unfold State.imgRecover at e
  split at e
  · subst e; exact h0
  · extract_lets img c t at e
    split at e <;> subst e
    · exact State.imgCode_fr _ _ h0
    · exact State.imgCode_fr _ _ (State.set_fr _ _ _ (State.setB_fr _ _ _ (State.modSec_fr
        (State.imageInForce_fr _ _ _ _ h0) _)))

theorem State.writeImgCtrl_fr {F : Nat} {r0 : State} (s : State) (v : Nat) (h0 : Frame F r0 s)
    (hF : F &&& 536870929 = 536870929 := by first | decide | exact sub_of (by assumption) (by decide)) : Frame F r0 (s.writeImgCtrl v).1 := by
  unfold State.writeImgCtrl
  extract_lets s1 r
  have h1 : Frame F r0 s1 := State.setNat_fr _ _ _ h0
  clear_value s1
  show Frame F r0 r.1
  unfold r
  split
  · exact State.imgBegin_fr _ h1
  · exact State.imgAppend_fr _ _ h1
  · exact State.imgCommit_fr _ h1
  · exact State.imgCancel_fr _ h1
  · exact State.imgRecover_fr _ h1
  · exact h1

theorem State.advanceSvn_fr {F : Nat} {r0 : State} (s : State) (h0 : Frame F r0 s)
    (hF : F &&& 536870913 = 536870913 := by first | decide | exact sub_of (by assumption) (by decide)) : Frame F r0 s.advanceSvn := by
  unfold State.advanceSvn
  extract_lets hd sv
  split
  · rename_i c
    simp only [Bool.and_eq_true, decide_eq_true_eq] at c
    exact State.set_fr _ _ _ (State.modSec_fr h0 _)
  · exact h0

theorem State.lockWindow_fr {F : Nat} {r0 : State} (s : State) (h0 : Frame F r0 s)
    (hF : F &&& 536870913 = 536870913 := by first | decide | exact sub_of (by assumption) (by decide)) : Frame F r0
    (State.lockWindow s) := by
  unfold State.lockWindow
  with_reducible repeat' first
    | assumption | exact sub_of hF (by decide) | exact Frame.refl _ | assumption | apply ite_fr | apply itep_fr
    | apply State.modSec_fr | apply State.advanceSvn_fr | apply State.setB_fr | apply foldl_fr | intro _
    | (extract_lets +onlyGivenNames x; first | (have hx : Frame F r0 x := ?_; clear_value x) | (have hx : Frame F r0 x.1 := ?_; clear_value x) | (have hf := fun a => x a; clear hf) | (have hf : CiphState := x; clear hf) | (have hf : SecState := x; clear hf) | clear_value x)
    | split

theorem State.fuseHash_fr {F : Nat} {r0 : State} (s : State) (h0 : Frame F r0 s)
    (hF : F &&& 536870929 = 536870929 := by first | decide | exact sub_of (by assumption) (by decide)) : Frame F r0 s.fuseHash := by
  unfold State.fuseHash
  split
  · exact State.logAcc_fr _ _ _ _ h0
  · rename_i c
    simp only [Bool.or_eq_true, not_or] at c
    exact State.setB_fr _ _ _ (State.modSec_fr h0 _)

theorem State.attRequest_fr {F : Nat} {r0 : State} (s : State) (by_ : Source) (nonce : List Byte) (h0 : Frame F r0 s)
    (hF : F &&& 536870929 = 536870929 := by first | decide | exact sub_of (by assumption) (by decide)) : Frame F r0
    (State.attRequest s by_ nonce).1 := by
  unfold State.attRequest
  with_reducible repeat' first
    | assumption | exact sub_of hF (by decide) | exact Frame.refl _ | assumption | apply ite_fr | apply itep_fr
    | apply State.logAcc_fr | apply State.setB_fr | apply State.modSec_fr | apply foldl_fr | intro _
    | (extract_lets +onlyGivenNames x; first | (have hx : Frame F r0 x := ?_; clear_value x) | (have hx : Frame F r0 x.1 := ?_; clear_value x) | (have hf := fun a => x a; clear hf) | (have hf : CiphState := x; clear hf) | (have hf : SecState := x; clear hf) | clear_value x)
    | split

/-! ### Reset.lean -/

theorem State.endFreeze_fr {F : Nat} {r0 : State} (s : State) (h0 : Frame F r0 s)
    (hF : F &&& 8413189 = 8413189 := by first | decide | exact sub_of (by assumption) (by decide)) : Frame F r0
    (State.endFreeze s) := by
  unfold State.endFreeze
  with_reducible repeat' first
    | assumption | intro _ | exact Frame.refl _ | subst x
    | (extract_lets +onlyGivenNames x; first | (have hx : Frame F r0 x := ?_; clear_value x) | (have hx : Frame F r0 x.1 := ?_; clear_value x) | (have hf := fun a => x a; clear hf) | (have hf : CiphState := x; clear hf) | (have hf : SecState := x; clear hf) | (have hf : LevelSeq := x; clear hf) | (have hf : CstState := x; clear hf) | clear_value x)
    | apply ite_fr | apply State.waitClk_fr | apply State.flushHeld_fr | apply foldl_fr_of | dsimp only | split
    | refine Frame.raw ?_ | exact sub_of hF (by decide)

theorem State.laneReset_fr {F : Nat} {r0 : State} (s : State) (n : Lane) (h0 : Frame F r0 s)
    (hF : F &&& 20467699 = 20467699 := by first | decide | exact sub_of (by assumption) (by decide)) :
    Frame F r0 (s.laneReset n) := by
  unfold State.laneReset
  extract_lets s1 s2 s3 base s4 s5
  have h1 : Frame F r0 s1 := State.touch_fr _ _ (State.modPmon_fr _ _ _ h0)
  clear_value s1
  have h3 : Frame F r0 s3 := State.kscReset_fr _ _ (State.calLaneReset_fr _ _ (State.fecFlush_fr _ _ h1))
  clear_value s3
  have h4 : Frame F r0 s4 := State.resetRange_fr h3 _ _ _
  clear_value s4
  have h5 : Frame F r0 s5 := State.touch_fr _ _ (State.modLane_fr h4 _ _)
  clear_value s5
  exact State.timeRefresh_fr _ (State.refChanged_fr _ _ (State.memLane_fr _ _ h5))

theorem State.groupReset_fr {F : Nat} {r0 : State} (s : State) (g : Nat) (h0 : Frame F r0 s)
    (hF : F &&& 98648083 = 98648083 := by first | decide | exact sub_of (by assumption) (by decide)) : Frame F r0
    (State.groupReset s g) := by
  unfold State.groupReset
  with_reducible repeat' first
    | assumption | intro _ | exact Frame.refl _ | subst x
    | (extract_lets +onlyGivenNames x; first | (have hx : Frame F r0 x := ?_; clear_value x) | (have hx : Frame F r0 x.1 := ?_; clear_value x) | (have hf := fun a => x a; clear hf) | (have hf : CiphState := x; clear hf) | (have hf : SecState := x; clear hf) | (have hf : LevelSeq := x; clear hf) | (have hf : CstState := x; clear hf) | clear_value x)
    | apply ite_fr | apply State.resetRange_fr | apply State.memGroup_fr | apply State.reselect_fr
    | apply State.refUpdate_fr | apply State.showPorts_fr | apply State.cliReset_fr | apply foldl_fr_of | dsimp only
    | split | exact sub_of hF (by decide)

theorem State.cipherReset_fr {F : Nat} {r0 : State} (s : State) (h0 : Frame F r0 s)
    (hF : F &&& 136331283 = 136331283 := by first | decide | exact sub_of (by assumption) (by decide)) : Frame F r0
    (State.cipherReset s) := by
  unfold State.cipherReset
  with_reducible repeat' first
    | assumption | exact sub_of hF (by decide) | apply State.ciphReset_fr | apply State.resetRange_fr
    | apply State.memCiph_fr

theorem State.functionEnter_fr {F : Nat} {r0 : State} (s : State) (k : Nat) (h0 : Frame F r0 s)
    (hF : F &&& 234450935 = 234450935 := by first | decide | exact sub_of (by assumption) (by decide)) : Frame F r0
    (State.functionEnter s k) := by
  unfold State.functionEnter
  with_reducible repeat' first
    | assumption | exact sub_of hF (by decide) | exact Frame.refl _ | assumption | apply ite_fr | apply itep_fr
    | apply State.set_fr | apply State.endFreeze_fr | apply State.laneReset_fr | apply State.groupReset_fr
    | apply State.cipherReset_fr | apply State.timeRefresh_fr | apply State.eachLane_fr | apply State.kscReset_fr
    | apply State.pluResetEnter_fr | apply State.hkmReset_fr | apply State.resetRange_fr | apply State.calReset_fr
    | apply foldl_fr | intro _
    | (extract_lets +onlyGivenNames x; first | (have hx : Frame F r0 x := ?_; clear_value x) | (have hx : Frame F r0 x.1 := ?_; clear_value x) | (have hf := fun a => x a; clear hf) | (have hf : CiphState := x; clear hf) | (have hf : SecState := x; clear hf) | clear_value x)
    | split

theorem State.parityRelease_fr {F : Nat} {r0 : State} (s : State) (k : Nat) (h0 : Frame F r0 s)
    (hF : F &&& 536870913 = 536870913 := by first | decide | exact sub_of (by assumption) (by decide)) : Frame F r0
    (State.parityRelease s k) := by
  unfold State.parityRelease
  with_reducible repeat' first
    | assumption | exact sub_of hF (by decide) | exact Frame.refl _ | assumption | apply ite_fr | apply itep_fr
    | apply State.setReg_fr | apply State.modSec_fr | apply foldl_fr | intro _
    | (extract_lets +onlyGivenNames x; first | (have hx : Frame F r0 x := ?_; clear_value x) | (have hx : Frame F r0 x.1 := ?_; clear_value x) | (have hf := fun a => x a; clear hf) | (have hf : CiphState := x; clear hf) | (have hf : SecState := x; clear hf) | clear_value x)
    | split

theorem State.laneShow_fr {F : Nat} {r0 : State} (s : State) (n : Lane) (h0 : Frame F r0 s)
    (hF : F &&& 62935001 = 62935001 := by first | decide | exact sub_of (by assumption) (by decide)) : Frame F r0
    (State.laneShow s n) := by
  unfold State.laneShow
  with_reducible repeat' first
    | assumption | intro _ | exact Frame.refl _ | subst x
    | (extract_lets +onlyGivenNames x; first | (have hx : Frame F r0 x := ?_; clear_value x) | (have hx : Frame F r0 x.1 := ?_; clear_value x) | (have hf := fun a => x a; clear hf) | (have hf : CiphState := x; clear hf) | (have hf : SecState := x; clear hf) | (have hf : LevelSeq := x; clear hf) | (have hf : CstState := x; clear hf) | clear_value x)
    | apply ite_fr | apply State.setB_fr | apply State.showTxFmt_fr | apply State.showRxFmt_fr
    | apply State.refChanged_fr | apply State.lfrDefects_fr | apply State.showOwner_fr | apply State.showLoLim_fr
    | apply State.latchModes_fr | apply State.nlcChanged_fr | apply State.kscJudge_fr | dsimp only | split
    | exact sub_of hF (by decide)

theorem State.functionLeave_fr {F : Nat} {r0 : State} (s : State) (k : Nat) (h0 : Frame F r0 s)
    (hF : F &&& 802803707 = 802803707 := by first | decide | exact sub_of (by assumption) (by decide)) : Frame F r0
    (State.functionLeave s k) := by
  unfold State.functionLeave
  with_reducible repeat' first
    | assumption | intro _ | exact Frame.refl _ | subst x
    | (extract_lets +onlyGivenNames x; first | (have hx : Frame F r0 x := ?_; clear_value x) | (have hx : Frame F r0 x.1 := ?_; clear_value x) | (have hf := fun a => x a; clear hf) | (have hf : CiphState := x; clear hf) | (have hf : SecState := x; clear hf) | (have hf : LevelSeq := x; clear hf) | (have hf : CstState := x; clear hf) | clear_value x)
    | apply ite_fr | apply State.set_fr | apply State.eachLane_fr_of | apply State.fillsEnd_fr
    | apply State.pluResetLeave_fr | apply State.timeRefresh_fr | apply State.kscRefresh_fr
    | apply State.groupsRefresh_fr | apply State.hkmShow_fr | apply State.hkmDefault_fr | apply State.loZero_fr
    | apply State.kscJudge_fr | apply State.courseRelease_fr | apply State.calLoad_fr | apply State.parityRelease_fr
    | apply State.laneShow_fr | dsimp only | split | exact sub_of hF (by decide)

theorem State.writeRstBit_fr {F : Nat} {r0 : State} (s : State) (k : Nat) (v : Bool) (h0 : Frame F r0 s)
    (hF : F &&& 234450935 = 234450935 := by first | decide | exact sub_of (by assumption) (by decide)) : Frame F r0
    (State.writeRstBit s k v) := by
  unfold State.writeRstBit
  with_reducible repeat' first
    | assumption | exact sub_of hF (by decide) | apply ite_fr | apply State.setB_fr | apply State.functionEnter_fr

theorem State.writeLodgeBit_fr {F : Nat} {r0 : State} (s : State) (k : Nat) (v : Bool) (h0 : Frame F r0 s)
    (hF : F &&& 1 = 1 := by first | decide | exact sub_of (by assumption) (by decide)) : Frame F r0
    (State.writeLodgeBit s k v) := by
  unfold State.writeLodgeBit
  with_reducible repeat' first | assumption | exact sub_of hF (by decide) | apply ite_fr | apply State.setB_fr

theorem State.ciphUnblock_fr {F : Nat} {r0 : State} (s : State) (h0 : Frame F r0 s)
    (hF : F &&& 134217728 = 134217728 := by first | decide | exact sub_of (by assumption) (by decide)) : Frame F r0
    (State.ciphUnblock s) := by
  unfold State.ciphUnblock
  with_reducible repeat' first
    | assumption | exact Frame.refl _ | exact sub_of hF (by decide) | apply ite_fr | split | refine Frame.raw ?_

theorem State.laneSafe_fr {F : Nat} {r0 : State} (s : State) (n : Lane) (h0 : Frame F r0 s)
    (hF : F &&& 2097 = 2097 := by first | decide | exact sub_of (by assumption) (by decide)) : Frame F r0
    (State.laneSafe s n) := by
  unfold State.laneSafe
  with_reducible repeat' first
    | assumption | exact sub_of hF (by decide) | apply ite_fr | apply State.modConv_fr | apply State.raise_fr
    | apply State.emit_fr | apply State.modKsc_fr

theorem State.safeEnter_fr {F : Nat} {r0 : State} (s : State) (b : Nat) (h0 : Frame F r0 s)
    (hF : F &&& 138004533 = 138004533 := by first | decide | exact sub_of (by assumption) (by decide)) : Frame F r0
    (State.safeEnter s b) := by
  unfold State.safeEnter
  with_reducible repeat' first
    | assumption | intro _ | exact Frame.refl _ | subst x
    | (extract_lets +onlyGivenNames x; first | (have hx : Frame F r0 x := ?_; clear_value x) | (have hx : Frame F r0 x.1 := ?_; clear_value x) | (have hf := fun a => x a; clear hf) | (have hf : CiphState := x; clear hf) | (have hf : SecState := x; clear hf) | (have hf : LevelSeq := x; clear hf) | (have hf : CstState := x; clear hf) | clear_value x)
    | apply ite_fr | apply State.set_fr | apply State.zeroAll_fr | apply State.servosHold_fr
    | apply State.launchesCancel_fr | apply State.faultAction_fr | apply State.hkmSafe_fr | apply State.modCrs_fr
    | apply State.calSafe_fr | apply State.laneSafe_fr | apply foldl_fr_of | dsimp only | split
    | exact sub_of hF (by decide)

theorem State.cfgParity_fr {F : Nat} {r0 : State} (s : State) (a : Nat) (h0 : Frame F r0 s)
    (hF : F &&& 138004533 = 138004533 := by first | decide | exact sub_of (by assumption) (by decide)) : Frame F r0
    (State.cfgParity s a) := by
  unfold State.cfgParity
  with_reducible repeat' first
    | assumption | exact sub_of hF (by decide) | exact Frame.refl _ | assumption | apply ite_fr | apply itep_fr
    | apply State.setNat_fr | apply State.raise_fr | apply State.safeEnter_fr | apply foldl_fr | intro _
    | (extract_lets +onlyGivenNames x; first | (have hx : Frame F r0 x := ?_; clear_value x) | (have hx : Frame F r0 x.1 := ?_; clear_value x) | (have hf := fun a => x a; clear hf) | (have hf : CiphState := x; clear hf) | (have hf : SecState := x; clear hf) | clear_value x)
    | split

/-! ### Boot.lean -/

theorem State.coldReset_fr {F : Nat} {r0 : State} (s : State) (h0 : Frame F r0 s)
    (hF : F &&& 1073741823 = 1073741823 := by first | decide | exact sub_of (by assumption) (by decide)) : Frame F r0 s.coldReset := by
  unfold State.coldReset
  extract_lets s1 t
  have h1 : Frame F r0 s1 := State.eachLane_fr h0 _ fun n t =>
    ite_fr _ _ _ (State.emit_fr _ _ (Frame.refl _)) (Frame.refl _)
  clear_value s1
  refine State.cstShow_fr _ (h1.trans fun p e => ?_)
  cases p
  · exact bit_in 0 hF (by decide) e
  · exact bit_in 1 hF (by decide) e
  · exact bit_in 2 hF (by decide) e
  · exact rfl
  · exact bit_in 4 hF (by decide) e
  · exact bit_in 5 hF (by decide) e
  · exact bit_in 6 hF (by decide) e
  · exact bit_in 7 hF (by decide) e
  · exact bit_in 8 hF (by decide) e
  · exact bit_in 9 hF (by decide) e
  · exact bit_in 10 hF (by decide) e
  · exact bit_in 11 hF (by decide) e
  · exact rfl
  · exact bit_in 13 hF (by decide) e
  · exact bit_in 14 hF (by decide) e
  · exact bit_in 15 hF (by decide) e
  · exact bit_in 16 hF (by decide) e
  · exact bit_in 17 hF (by decide) e
  · exact bit_in 18 hF (by decide) e
  · exact bit_in 19 hF (by decide) e
  · exact bit_in 20 hF (by decide) e
  · exact bit_in 21 hF (by decide) e
  · exact bit_in 22 hF (by decide) e
  · exact bit_in 23 hF (by decide) e
  · exact bit_in 24 hF (by decide) e
  · exact bit_in 25 hF (by decide) e
  · exact bit_in 26 hF (by decide) e
  · exact bit_in 27 hF (by decide) e
  · exact bit_in 28 hF (by decide) e
  · exact bit_in 29 hF (by decide) e

theorem State.bootStart_fr {F : Nat} {r0 : State} (s : State) (h0 : Frame F r0 s)
    (hF : F &&& 17170449 = 17170449 := by first | decide | exact sub_of (by assumption) (by decide)) : Frame F r0
    (State.bootStart s) := by
  unfold State.bootStart
  with_reducible repeat' first
    | assumption | exact Frame.refl _ | exact id_fr _ | assumption | apply ite_fr | apply itep_fr
    | apply State.memFillStart_fr | apply State.showPrefs_fr | apply State.setB_fr | apply State.set_fr
    | apply State.oscinFails_fr | apply foldl_fr | apply foldlp_fr | intro _
    | (extract_lets +onlyGivenNames x; first | (have hx : Frame F r0 x := ?_; clear_value x) | (have hx : Frame F r0 x.1 := ?_; clear_value x) | (have hf := fun a => x a; clear hf) | (have hf : CiphState := x; clear hf) | (have hf : SecState := x; clear hf) | clear_value x)
    | subst x | dsimp only | (apply fst_fr; assumption) | split | refine Frame.raw ?_ | exact sub_of hF (by decide)

theorem State.tryRelease_fr {F : Nat} {r0 : State} (s : State) (h0 : Frame F r0 s)
    (hF : F &&& 17170449 = 17170449 := by first | decide | exact sub_of (by assumption) (by decide)) : Frame F r0
    (State.tryRelease s) := by
  unfold State.tryRelease
  with_reducible repeat' first | assumption | exact sub_of hF (by decide) | apply ite_fr | apply State.bootStart_fr

theorem State.bootStep_fr {F : Nat} {r0 : State} (s : State) (k : Nat) (h0 : Frame F r0 s)
    (hF : F &&& 536870912 = 536870912 := by first | decide | exact sub_of (by assumption) (by decide)) : Frame F r0
    (State.bootStep s k) := by
  unfold State.bootStep
  with_reducible repeat' first
    | assumption | exact sub_of hF (by decide) | exact Frame.refl _ | assumption | apply ite_fr | apply itep_fr
    | apply State.modSec_fr | apply foldl_fr | intro _
    | (extract_lets +onlyGivenNames x; first | (have hx : Frame F r0 x := ?_; clear_value x) | (have hx : Frame F r0 x.1 := ?_; clear_value x) | (have hf := fun a => x a; clear hf) | (have hf : CiphState := x; clear hf) | (have hf : SecState := x; clear hf) | clear_value x)
    | split

theorem State.bootFail_fr {F : Nat} {r0 : State} (s : State) (h0 : Frame F r0 s)
    (hF : F &&& 536870913 = 536870913 := by first | decide | exact sub_of (by assumption) (by decide)) : Frame F r0
    (State.bootFail s) := by
  unfold State.bootFail
  with_reducible repeat' first
    | assumption | exact sub_of hF (by decide) | apply State.set_fr | apply State.setB_fr | apply State.bootStep_fr

theorem State.releaseAll_fr {F : Nat} {r0 : State} (s : State) (h0 : Frame F r0 s)
    (hF : F &&& 804909055 = 804909055 := by first | decide | exact sub_of (by assumption) (by decide)) : Frame F r0
    (State.releaseAll s) := by
  unfold State.releaseAll
  with_reducible repeat' first
    | assumption | exact sub_of hF (by decide) | exact Frame.refl _ | assumption | apply ite_fr | apply itep_fr
    | apply State.functionLeave_fr | apply State.functionEnter_fr | apply State.set_fr | apply foldl_fr | intro _
    | (extract_lets +onlyGivenNames x; first | (have hx : Frame F r0 x := ?_; clear_value x) | (have hx : Frame F r0 x.1 := ?_; clear_value x) | (have hf := fun a => x a; clear hf) | (have hf : CiphState := x; clear hf) | (have hf : SecState := x; clear hf) | clear_value x)
    | split

theorem State.linkShow_fr {F : Nat} {r0 : State} (s : State) (i : Nat) (h0 : Frame F r0 s)
    (hF : F &&& 67108864 = 67108864 := by first | decide | exact sub_of (by assumption) (by decide)) : Frame F r0
    (State.linkShow s i) := by
  unfold State.linkShow
  with_reducible repeat' first | assumption | exact sub_of hF (by decide) | apply State.setObj_fr

theorem State.showAll_fr {F : Nat} {r0 : State} (s : State) (h0 : Frame F r0 s)
    (hF : F &&& 130109401 = 130109401 := by first | decide | exact sub_of (by assumption) (by decide)) : Frame F r0
    (State.showAll s) := by
  unfold State.showAll
  with_reducible repeat' first
    | assumption | intro _ | exact Frame.refl _ | subst x
    | (extract_lets +onlyGivenNames x; first | (have hx : Frame F r0 x := ?_; clear_value x) | (have hx : Frame F r0 x.1 := ?_; clear_value x) | (have hf := fun a => x a; clear hf) | (have hf : CiphState := x; clear hf) | (have hf : SecState := x; clear hf) | (have hf : LevelSeq := x; clear hf) | (have hf : CstState := x; clear hf) | clear_value x)
    | apply ite_fr | apply State.eachLane_fr_of | apply State.reselect_fr | apply State.refUpdate_fr
    | apply State.timeRefresh_fr | apply State.groupsRefresh_fr | apply State.hkmShow_fr | apply State.kscRefresh_fr
    | apply State.laneShow_fr | apply State.linkShow_fr | apply foldl_fr_of | dsimp only | split
    | exact sub_of hF (by decide)

theorem State.warmRequest_fr {F : Nat} {r0 : State} (s : State) (h0 : Frame F r0 s)
    (hF : F &&& 536870913 = 536870913 := by first | decide | exact sub_of (by assumption) (by decide)) : Frame F r0
    (State.warmRequest s) := by
  unfold State.warmRequest
  with_reducible repeat' first
    | assumption | exact sub_of hF (by decide) | exact Frame.refl _ | assumption | apply ite_fr | apply itep_fr
    | apply State.setB_fr | apply State.modSec_fr | apply foldl_fr | intro _
    | (extract_lets +onlyGivenNames x; first | (have hx : Frame F r0 x := ?_; clear_value x) | (have hx : Frame F r0 x.1 := ?_; clear_value x) | (have hf := fun a => x a; clear hf) | (have hf : CiphState := x; clear hf) | (have hf : SecState := x; clear hf) | clear_value x)
    | split

end Sys2Proof.Machine
end

