-- ==== Sys2Proof/Laws/FrameAccess.lean ====
section
/-!
SUPPORT. Which parts of the state an operation leaves as they are: register accesses, objects, COP and the hierarchy.
-/

-- one theorem after another: all at once would not fit the memory
set_option Elab.async false
set_option linter.all false

namespace Sys2Proof.Machine

/-! ### Access.lean -/

theorem State.refreshFor_fr {F : Nat} {r0 : State} (s : State) (b : Block) (h0 : Frame F r0 s)
    (hF : F &&& 16777237 = 16777237 := by first | decide | exact sub_of (by assumption) (by decide)) : Frame F r0 (s.refreshFor b) := by
  unfold State.refreshFor
  split
  · exact State.pluRefresh_fr _ h0
  · exact State.timeRefresh_fr _ (State.syncTbs_fr _ h0)
  · exact h0

theorem State.levelRead_fr {F : Nat} {r0 : State} (s : State) (number : Nat) (h0 : Frame F r0 s)
    (hF : F &&& 1 = 1 := by first | decide | exact sub_of (by assumption) (by decide)) : Frame F r0 (State.levelRead s
    number) := by
  unfold State.levelRead
  with_reducible repeat' first
    | assumption | exact sub_of hF (by decide) | apply ite_fr | apply State.setB_fr | apply State.setNat_fr

theorem State.readWord_fr {F : Nat} {r0 : State} (s : State) (a : Nat) (h0 : Frame F r0 s)
    (hF : F &&& 18890775 = 18890775 := by first | decide | exact sub_of (by assumption) (by decide)) : Frame F r0
    (State.readWord s a).1 := by
  unfold State.readWord
  with_reducible repeat' first
    | assumption | intro _ | exact Frame.refl _ | subst x
    | (extract_lets +onlyGivenNames x; first | (have hx : Frame F r0 x := ?_; clear_value x) | (have hx : Frame F r0 x.1 := ?_; clear_value x) | (have hf := fun a => x a; clear hf) | (have hf : CiphState := x; clear hf) | (have hf : SecState := x; clear hf) | (have hf : LevelSeq := x; clear hf) | (have hf : CstState := x; clear hf) | clear_value x)
    | apply ite_fr | apply itep_fr | apply State.logAcc_fr | apply State.memCheck_fr | apply State.memFlush_fr
    | apply State.hkmRead_fr | apply State.refreshFor_fr | apply State.levelRead_fr | apply foldl_fr_of | dsimp only
    | (apply fst_fr; assumption) | split | apply foldlp_fr_of | refine Frame.raw ?_ | exact sub_of hF (by decide)

theorem State.readPcie_fr {F : Nat} {r0 : State} (s : State) (addr size : Nat) (contiguous : Bool) (h0 : Frame F r0 s)
    (hF : F &&& 18890775 = 18890775 := by first | decide | exact sub_of (by assumption) (by decide)) :
    Frame F r0 (s.readPcie addr size contiguous) := by
  have e : ∀ t (x : Emit), Frame F r0 t → Frame F r0 (t.emit x) := fun t x h => State.emit_fr _ _ h
  unfold State.readPcie
  refine ite_fr _ _ _ h0 (ite_fr _ _ _ (e _ _ h0) (ite_fr _ _ _ (e _ _ (State.logAcc_fr _ _ _ _ h0))
    (ite_fr _ _ _ (e _ _ (State.logAcc_fr _ _ _ _ h0)) ?_)))
  extract_lets +onlyGivenNames words
  split
  · exact e _ _ (State.logAcc_fr _ _ _ _ h0)
  · extract_lets r
    have h1 : Frame F r0 r.1 := by
      refine foldlp_fr _ (fun p a => ?_) _ _ h0
      split
      · exact Frame.refl _
      · exact State.readWord_fr _ _ (Frame.refl _)
    clear_value r
    split
    · exact e _ _ h1
    · exact e _ _ h1

theorem State.answered_fr {F : Nat} {r0 : State} (s : State) (f : State → State) (k_f : ∀ t, Frame F t (f t)) (h0 : Frame F r0 s)
    (hF : F &&& 16 = 16 := by first | decide | exact sub_of (by assumption) (by decide)) :
    Frame F r0 (s.answered f).1 := by
  unfold State.answered
  extract_lets +onlyGivenNames t
  have h1 : Frame F r0 t := h0.trans (k_f s)
  clear_value t
  extract_lets
  exact Frame.raw h1

theorem toldAt_fr {F : Nat} {r0 : State} (by_ : Source) (a : Nat) (q : State × Code) (h0 : Frame F r0 q.1)
    (hF : F &&& 17 = 17 := by first | decide | exact sub_of (by assumption) (by decide)) :
    Frame F r0 (toldAt by_ a q).1 := State.told_fr _ _ _ _ h0

theorem State.putPlain_fr {F : Nat} {r0 : State} (s : State) (h : RegHit) (a v : Nat) (h0 : Frame F r0 s)
    (hF : F &&& 17 = 17 := by first | decide | exact sub_of (by assumption) (by decide)) : Frame F r0 (State.putPlain
    s h a v) := by
  unfold State.putPlain
  with_reducible repeat' first | assumption | exact sub_of hF (by decide) | apply State.irq_fr | apply State.setNat_fr

theorem State.maskLane_fr {F : Nat} {r0 : State} (s : State) (h : RegHit) (n : Lane) (a m v : Nat) (h0 : Frame F r0 s)
    (hF : F &&& 46157809 = 46157809 := by first | decide | exact sub_of (by assumption) (by decide)) : Frame F r0
    (State.maskLane s h n a m v) := by
  unfold State.maskLane
  with_reducible repeat' first
    | assumption | intro _ | exact Frame.refl _ | subst x
    | (extract_lets +onlyGivenNames x; first | (have hx : Frame F r0 x := ?_; clear_value x) | (have hx : Frame F r0 x.1 := ?_; clear_value x) | (have hf := fun a => x a; clear hf) | (have hf : CiphState := x; clear hf) | (have hf : SecState := x; clear hf) | (have hf : LevelSeq := x; clear hf) | (have hf : CstState := x; clear hf) | clear_value x)
    | apply ite_fr | apply State.setB_fr | apply State.setNat_fr | apply State.touch_fr | apply State.clearBins_fr
    | apply State.writeConvEn_fr | apply State.writeRxdEn_fr | apply State.acqRestart_fr
    | apply State.writeLoMode_fr | apply State.writeKsAssist_fr | apply State.writeFmtSrc_fr | apply State.txdNow_fr
    | apply State.kscJudge_fr | apply State.kscRefresh_fr | dsimp only | split | exact sub_of hF (by decide)

theorem State.writeMasked_fr {F : Nat} {r0 : State} (s : State) (by_ : Source) (h : RegHit) (a m v : Nat) (h0 : Frame
    F r0 s)
    (hF : F &&& 804876279 = 804876279 := by first | decide | exact sub_of (by assumption) (by decide)) : Frame F r0
    (State.writeMasked s by_ h a m v).1 := by
  unfold State.writeMasked
  with_reducible repeat' first
    | assumption | intro _ | exact Frame.refl _ | subst x
    | (extract_lets +onlyGivenNames x; first | (have hx : Frame F r0 x := ?_; clear_value x) | (have hx : Frame F r0 x.1 := ?_; clear_value x) | (have hf := fun a => x a; clear hf) | (have hf : CiphState := x; clear hf) | (have hf : SecState := x; clear hf) | (have hf : LevelSeq := x; clear hf) | (have hf : CstState := x; clear hf) | clear_value x)
    | apply ite_fr | apply itep_fr | apply State.setB_fr | apply State.setNat_fr | apply State.zeroAll_fr
    | apply State.writePluCtrl_fr | apply State.hostLevelNow_fr | apply State.holdLevel_fr
    | apply State.releaseLevel_fr | apply State.ptpPorts_fr | apply State.writePpsEn_fr
    | apply State.groupsRefresh_fr | apply State.writeHkmCtrl_fr | apply State.lockWindow_fr
    | apply State.writeRstBit_fr | apply State.writeLodgeBit_fr | apply State.ciphUnblock_fr
    | apply State.warmRequest_fr | apply State.answered_fr | apply toldAt_fr | apply State.maskLane_fr
    | apply foldl_fr_of | dsimp only | (apply fst_fr; assumption) | split | apply foldlp_fr_of
    | exact sub_of hF (by decide)

theorem State.writeCrsCmd_fr {F : Nat} {r0 : State} (s : State) (v : Nat) (h0 : Frame F r0 s)
    (hF : F &&& 51217 = 51217 := by first | decide | exact sub_of (by assumption) (by decide)) : Frame F r0
    (State.writeCrsCmd s v) := by
  unfold State.writeCrsCmd
  with_reducible repeat' first
    | assumption | exact sub_of hF (by decide) | apply ite_fr | apply State.setNat_fr | apply State.commitPcie_fr
    | apply State.discard_fr | apply State.abort_fr | apply State.logAcc_fr | split

theorem State.writeMsix_fr {F : Nat} {r0 : State} (s : State) (i a v : Nat) (h0 : Frame F r0 s)
    (hF : F &&& 17 = 17 := by first | decide | exact sub_of (by assumption) (by decide)) : Frame F r0 (State.writeMsix
    s i a v) := by
  unfold State.writeMsix
  with_reducible repeat' first
    | assumption | exact Frame.refl _ | exact id_fr _ | assumption | apply ite_fr | apply itep_fr
    | apply State.setNat_fr | apply State.msix_fr | apply foldl_fr | apply foldlp_fr | intro _
    | (extract_lets +onlyGivenNames x; first | (have hx : Frame F r0 x := ?_; clear_value x) | (have hx : Frame F r0 x.1 := ?_; clear_value x) | (have hf := fun a => x a; clear hf) | (have hf : CiphState := x; clear hf) | (have hf : SecState := x; clear hf) | clear_value x)
    | subst x | dsimp only | (apply fst_fr; assumption) | split | refine Frame.raw ?_ | exact sub_of hF (by decide)

theorem State.writeGlb_fr {F : Nat} {r0 : State} (s : State) (by_ : Source) (h : RegHit) (a v : Nat) (h0 : Frame F r0
    s) (hF : F &&& 59409 = 59409 := by first | decide | exact sub_of (by assumption) (by decide)) : Frame F r0
    (State.writeGlb s by_ h a v).1 := by
  unfold State.writeGlb
  with_reducible repeat' first
    | assumption | exact sub_of hF (by decide) | exact Frame.refl _ | assumption | apply ite_fr | apply itep_fr
    | apply State.putPlain_fr | apply State.writeCrsCmd_fr | apply State.answered_fr | apply State.scheduleSlot_fr
    | apply State.writeMsix_fr | apply foldl_fr | intro _
    | (extract_lets +onlyGivenNames x; first | (have hx : Frame F r0 x := ?_; clear_value x) | (have hx : Frame F r0 x.1 := ?_; clear_value x) | (have hf := fun a => x a; clear hf) | (have hf : CiphState := x; clear hf) | (have hf : SecState := x; clear hf) | clear_value x)
    | split

theorem State.writeSec_fr {F : Nat} {r0 : State} (s : State) (by_ : Source) (h : RegHit) (a v : Nat) (h0 : Frame F r0
    s) (hF : F &&& 566247443 = 566247443 := by first | decide | exact sub_of (by assumption) (by decide)) : Frame F r0
    (State.writeSec s by_ h a v).1 := by
  unfold State.writeSec
  with_reducible repeat' first
    | assumption | exact sub_of hF (by decide) | exact Frame.refl _ | assumption | apply ite_fr | apply itep_fr
    | apply State.answered_fr | apply State.cstRequest_fr | apply State.fuseHash_fr | apply State.attRequest_fr
    | apply State.writeImgCtrl_fr | apply State.putPlain_fr | apply foldl_fr | intro _
    | (extract_lets +onlyGivenNames x; first | (have hx : Frame F r0 x := ?_; clear_value x) | (have hx : Frame F r0 x.1 := ?_; clear_value x) | (have hf := fun a => x a; clear hf) | (have hf : CiphState := x; clear hf) | (have hf : SecState := x; clear hf) | clear_value x)
    | split

theorem State.writeCiph_fr {F : Nat} {r0 : State} (s : State) (by_ : Source) (h : RegHit) (a v : Nat) (h0 : Frame F r0
    s) (hF : F &&& 136331281 = 136331281 := by first | decide | exact sub_of (by assumption) (by decide)) : Frame F r0
    (State.writeCiph s by_ h a v).1 := by
  unfold State.writeCiph
  with_reducible repeat' first
    | assumption | exact sub_of hF (by decide) | exact Frame.refl _ | assumption | apply ite_fr | apply itep_fr
    | apply State.putPlain_fr | apply State.answered_fr | apply State.loadClear_fr | apply State.zeroiseSlot_fr
    | apply toldAt_fr | apply State.directIv_fr | apply State.queueJob_fr | apply State.winWrite_fr | apply foldl_fr
    | intro _
    | (extract_lets +onlyGivenNames x; first | (have hx : Frame F r0 x := ?_; clear_value x) | (have hx : Frame F r0 x.1 := ?_; clear_value x) | (have hf := fun a => x a; clear hf) | (have hf : CiphState := x; clear hf) | (have hf : SecState := x; clear hf) | clear_value x)
    | split

theorem State.writePlu_fr {F : Nat} {r0 : State} (s : State) (by_ : Source) (h : RegHit) (a v : Nat) (h0 : Frame F r0
    s) (hF : F &&& 16793617 = 16793617 := by first | decide | exact sub_of (by assumption) (by decide)) : Frame F r0
    (State.writePlu s by_ h a v).1 := by
  unfold State.writePlu
  with_reducible repeat' first
    | assumption | exact sub_of hF (by decide) | apply ite_fr | apply State.addPhaseStep_fr | apply toldAt_fr
    | apply State.writeClkout_fr | apply State.refChanged_fr | apply State.putPlain_fr | apply State.settleStep_fr
    | split

theorem State.writeTime_fr {F : Nat} {r0 : State} (s : State) (by_ : Source) (h : RegHit) (a v : Nat) (h0 : Frame F r0
    s) (hF : F &&& 468315901 = 468315901 := by first | decide | exact sub_of (by assumption) (by decide)) : Frame F r0
    (State.writeTime s by_ h a v).1 := by
  unfold State.writeTime
  with_reducible repeat' first
    | assumption | exact sub_of hF (by decide) | apply ite_fr | apply itep_fr | apply State.putPlain_fr
    | apply State.writeUtc_fr | apply State.writeUtcAt_fr | apply toldAt_fr | apply State.tbSet_fr
    | apply State.tbAdd_fr | apply State.writeServo_fr | apply State.writeHostOfs_fr | apply State.timeRefresh_fr
    | apply State.lineWritten_fr
    | apply State.writeLaunch_fr | apply State.winWrite_fr | exact Frame.refl _

theorem State.writeHkm_fr {F : Nat} {r0 : State} (s : State) (by_ : Source) (h : RegHit) (a v : Nat) (h0 : Frame F r0
    s) (hF : F &&& 524305 = 524305 := by first | decide | exact sub_of (by assumption) (by decide)) : Frame F r0
    (State.writeHkm s by_ h a v).1 := by
  unfold State.writeHkm
  with_reducible repeat' first
    | assumption | exact sub_of hF (by decide) | apply ite_fr | apply toldAt_fr | apply State.writeTrig_fr
    | apply State.writePwmCfg_fr | apply State.writePwmDuty_fr | apply State.writeTimer_fr | apply State.putPlain_fr | split

theorem State.writeCst_fr {F : Nat} {r0 : State} (s : State) (by_ : Source) (h : RegHit) (a v : Nat) (h0 : Frame F r0
    s) (hF : F &&& 281018385 = 281018385 := by first | decide | exact sub_of (by assumption) (by decide)) : Frame F r0
    (State.writeCst s by_ h a v).1 := by
  unfold State.writeCst
  with_reducible repeat' first
    | assumption | exact sub_of hF (by decide) | apply ite_fr | apply State.patchGo_fr | apply State.setNat_fr
    | apply State.cstSelect_fr | apply State.logAcc_fr | apply State.putPlain_fr | split

theorem State.writeLane_fr {F : Nat} {r0 : State} (s : State) (by_ : Source) (h : RegHit) (a v : Nat) (h0 : Frame F
    r0 s)
    (hF : F &&& 18545 = 18545 := by first | decide | exact sub_of (by assumption) (by decide)) : Frame F r0
    (State.writeLane s by_ h a v).1 := by
  unfold State.writeLane
  with_reducible repeat' first
    | assumption | intro _ | exact Frame.refl _ | subst x
    | (extract_lets +onlyGivenNames x; first | (have hx : Frame F r0 x := ?_; clear_value x) | (have hx : Frame F r0 x.1 := ?_; clear_value x) | (have hf := fun a => x a; clear hf) | (have hf : CiphState := x; clear hf) | (have hf : SecState := x; clear hf) | (have hf : LevelSeq := x; clear hf) | (have hf : CstState := x; clear hf) | clear_value x)
    | apply ite_fr | apply itep_fr | apply State.setNat_fr | apply State.gaugeOff_fr | apply State.writeRetire_fr
    | apply State.capArm_fr | apply State.capFire_fr | apply State.kscRxStop_fr | apply State.showLoLim_fr
    | apply State.writeLoHost_fr | apply State.showKsOn_fr | apply toldAt_fr | apply State.putPlain_fr | dsimp only
    | (apply fst_fr; assumption) | split | exact sub_of hF (by decide)

theorem State.parityAt_fr {F : Nat} {r0 : State} (s : State) (a : Nat) (h0 : Frame F r0 s)
    (hF : F &&& 536870912 = 536870912 := by first | decide | exact sub_of (by assumption) (by decide)) : Frame F r0
    (State.parityAt s a) :=
  State.modSec_fr h0 _ hF

theorem State.writeReg_fr {F : Nat} {r0 : State} (s : State) (by_ : Source) (a v : Nat) (h0 : Frame F r0 s)
    (hF : F &&& 1073344511 = 1073344511 := by first | decide | exact sub_of (by assumption) (by decide)) : Frame F r0
    (State.writeReg s by_ a v).1 := by
  unfold State.writeReg
  with_reducible repeat' first
    | assumption | exact sub_of hF (by decide) | exact Frame.refl _ | assumption | apply ite_fr | apply itep_fr
    | apply State.logAcc_fr | apply State.writeRwl_fr | apply State.clearMix_fr | apply State.setNat_fr
    | apply State.writeMasked_fr | apply State.parityAt_fr | apply State.writeGlb_fr | apply State.writeSec_fr
    | apply State.writeCiph_fr | apply State.writePlu_fr | apply State.writeTime_fr | apply State.writeHkm_fr
    | apply State.writeCst_fr | apply toldAt_fr | apply State.writeCalCmd_fr | apply State.putPlain_fr
    | apply State.refChanged_fr | apply State.writeLane_fr | apply foldl_fr | intro _
    | (extract_lets +onlyGivenNames x; first | (have hx : Frame F r0 x := ?_; clear_value x) | (have hx : Frame F r0 x.1 := ?_; clear_value x) | (have hf := fun a => x a; clear hf) | (have hf : CiphState := x; clear hf) | (have hf : SecState := x; clear hf) | clear_value x)
    | split

theorem State.writePcie_fr {F : Nat} {r0 : State} (s : State) (a v : Nat) (h0 : Frame F r0 s)
    (hF : F &&& 1073344511 = 1073344511 := by first | decide | exact sub_of (by assumption) (by decide)) : Frame F r0
    (State.writePcie s a v) := by
  unfold State.writePcie
  with_reducible repeat' first
    | assumption | exact sub_of hF (by decide) | apply ite_fr | apply State.logAcc_fr | apply State.stagePcie_fr
    | apply State.writeReg_fr | (extract_lets +onlyGivenNames x; have hx : Frame F r0 x := ?_; clear_value x) | split

/-! ### Objects.lean -/

theorem State.refreshAt_fr {F : Nat} {r0 : State} (s : State) (a : Nat) (h0 : Frame F r0 s)
    (hF : F &&& 16777237 = 16777237 := by first | decide | exact sub_of (by assumption) (by decide)) : Frame F r0
    (State.refreshAt s a) := by
  unfold State.refreshAt
  with_reducible repeat' first
    | assumption | exact sub_of hF (by decide) | apply ite_fr | apply State.refreshFor_fr | split

theorem State.readObj_fr {F : Nat} {r0 : State} (s : State) (k index sub : Nat) (bank : Option Level) (h0 : Frame F
    r0 s)
    (hF : F &&& 18890781 = 18890781 := by first | decide | exact sub_of (by assumption) (by decide)) : Frame F r0
    (State.readObj s k index sub bank).1 := by
  unfold State.readObj
  with_reducible repeat' first
    | assumption | intro _ | exact Frame.refl _ | subst x
    | (extract_lets +onlyGivenNames x; first | (have hx : Frame F r0 x := ?_; clear_value x) | (have hx : Frame F r0 x.1 := ?_; clear_value x) | (have hf := fun a => x a; clear hf) | (have hf : CiphState := x; clear hf) | (have hf : SecState := x; clear hf) | (have hf : LevelSeq := x; clear hf) | (have hf : CstState := x; clear hf) | clear_value x)
    | apply ite_fr | apply itep_fr | apply State.takeFree_fr | apply State.winGood_fr | apply State.hkmRead_fr
    | apply State.refreshAt_fr | dsimp only | (apply fst_fr; assumption) | split | exact sub_of hF (by decide)

theorem State.modSession_fr {F : Nat} {r0 : State} (s : State) (k : Nat) (f : Session → Session) (h0 : Frame F r0 s)
    (hF : F &&& 268435456 = 268435456 := by first | decide | exact sub_of (by assumption) (by decide)) : Frame F r0
    (State.modSession s k f) :=
  Frame.raw h0

theorem State.allocate_fr {F : Nat} {r0 : State} (s : State) (k ns : Nat) (h0 : Frame F r0 s)
    (hF : F &&& 268435456 = 268435456 := by first | decide | exact sub_of (by assumption) (by decide)) : Frame F r0
    (State.allocate s k ns).1 := by
  unfold State.allocate
  with_reducible repeat' first
    | assumption | exact Frame.refl _ | exact id_fr _ | assumption | apply ite_fr | apply itep_fr
    | apply State.modSession_fr | apply foldl_fr | apply foldlp_fr | intro _
    | (extract_lets +onlyGivenNames x; first | (have hx : Frame F r0 x := ?_; clear_value x) | (have hx : Frame F r0 x.1 := ?_; clear_value x) | (have hf := fun a => x a; clear hf) | (have hf : CiphState := x; clear hf) | (have hf : SecState := x; clear hf) | clear_value x)
    | subst x | dsimp only | (apply fst_fr; assumption) | split | refine Frame.raw ?_ | exact sub_of hF (by decide)

theorem State.domainAbort_fr {F : Nat} {r0 : State} (s : State) (number : Nat) (h0 : Frame F r0 s)
    (hF : F &&& 51217 = 51217 := by first | decide | exact sub_of (by assumption) (by decide)) : Frame F r0 (s.domainAbort number) := by
  unfold State.domainAbort
  extract_lets s1
  have h1 : Frame F r0 s1 := by
    refine foldl_fr _ (fun t p => ite_fr _ _ _ ?_ (Frame.refl _)) _ _ h0
    split
    · exact State.emit_fr _ _ (Frame.refl _)
    · exact Frame.refl _
  clear_value s1
  split
  · exact h1
  · exact ite_fr _ _ _ (State.abortArmed_fr _ _ h1) h1

theorem State.launchObj_fr {F : Nat} {r0 : State} (s : State) (k : Nat) (v : List Byte) (h0 : Frame F r0 s)
    (hF : F &&& 35667985 = 35667985 := by first | decide | exact sub_of (by assumption) (by decide)) : Frame F r0
    (State.launchObj s k v).1 := by
  unfold State.launchObj
  with_reducible repeat' first
    | assumption | intro _ | exact Frame.refl _ | subst x
    | (extract_lets +onlyGivenNames x; first | (have hx : Frame F r0 x := ?_; clear_value x) | (have hx : Frame F r0 x.1 := ?_; clear_value x) | (have hf := fun a => x a; clear hf) | (have hf : CiphState := x; clear hf) | (have hf : SecState := x; clear hf) | (have hf : LevelSeq := x; clear hf) | (have hf : CstState := x; clear hf) | clear_value x)
    | apply ite_fr | apply itep_fr | apply State.setNat_fr | apply State.modTime_fr | apply State.launchPut_fr
    | apply State.writeLaunch_fr | dsimp only | (apply fst_fr; assumption) | split | exact sub_of hF (by decide)

theorem State.writeCalc_fr {F : Nat} {r0 : State} (s : State) (k : Nat) (h : ObjHit) (index sub : Nat) (v : List Byte)
    (h0 : Frame F r0 s)
    (hF : F &&& 1072229493 = 1072229493 := by first | decide | exact sub_of (by assumption) (by decide)) : Frame F r0 (s.writeCalc k h index sub v).1 := by
  unfold State.writeCalc
  extract_lets by_ u ns ret bad
  have hret : ∀ q : State × Code, Frame F r0 q.1 → Frame F r0 (ret q).1 := fun _ h => h
  have hbad : Frame F r0 bad.1 := h0
  have hout : ∀ c : Nat, Frame F r0 (s, c).1 := fun _ => h0
  clear_value bad ret u ns by_
  repeat' with_reducible apply itep_fr
  all_goals with_reducible repeat' (first | exact h0 | exact hbad | exact hout _ | exact Frame.refl _ | apply hret | apply State.answered_fr | apply State.launchObj_fr | apply State.directIv_fr | apply State.allocate_fr | apply State.attRequest_fr | intro _)
  all_goals try dsimp only
  all_goals with_reducible repeat' (first | exact h0 | exact Frame.refl _ | apply State.setObj_fr | apply State.loadClear_fr | apply State.zeroiseSlot_fr | apply State.modSession_fr | apply State.submit_fr | apply State.hostLevelNow_fr | apply State.holdLevel_fr | apply State.releaseLevel_fr | apply State.scheduleSlot_fr | apply State.setTime80_fr | apply State.cstSelect_fr | apply State.domainAbort_fr | apply State.imgWindowPut_fr | refine Frame.raw ?_)
  all_goals with_reducible repeat' exact sub_of hF (by decide)

theorem State.writeOwn_fr {F : Nat} {r0 : State} (s : State) (index sub : Nat) (v : List Byte) (h0 : Frame F r0 s)
    (hF : F &&& 67108864 = 67108864 := by first | decide | exact sub_of (by assumption) (by decide)) : Frame F r0
    (State.writeOwn s index sub v).1 := by
  unfold State.writeOwn
  with_reducible repeat' first
    | assumption | exact sub_of hF (by decide) | apply ite_fr | apply itep_fr | apply State.setObj_fr
    | apply State.linkShow_fr | apply State.ptpPorts_fr | exact Frame.refl _

theorem State.writeField_fr {F : Nat} {r0 : State} (s : State) (k a : Nat) (f : Fld) (u : Nat) (h0 : Frame F r0 s)
    (hF : F &&& 1073344511 = 1073344511 := by first | decide | exact sub_of (by assumption) (by decide)) : Frame F r0
    (State.writeField s k a f u).1 := by
  unfold State.writeField
  with_reducible repeat' first
    | assumption | exact sub_of hF (by decide) | apply ite_fr | apply State.writeReg_fr | split

theorem setRwlObj_fr {F : Nat} {r0 : State} (s : State) (index sub : Nat) (v : List Byte) {t : State} (e : s.setRwlObj index sub v = some t)
    (h0 : Frame F r0 s)
    (hF : F &&& 67108865 = 67108865 := by first | decide | exact sub_of (by assumption) (by decide)) : Frame F r0 t := by
  unfold State.setRwlObj at e
  split at e
  · cases e
  · split at e
    · cases e
    · extract_lets u put at e
      have hp : ∀ t a x, Frame F r0 t → Frame F r0 (put t a x) := by
        intro t a x k
        show Frame F r0 (match regAt a with | some g => t.setNat a (g.row.taken x) | none => t)
        split
        · exact State.setNat_fr _ _ _ k
        · exact k
      clear_value put u
      split at e
      · cases e; exact hp _ _ _ (hp _ _ _ h0)
      · cases e; exact hp _ _ _ (hp _ _ _ (hp _ _ _ h0))
      · cases e; exact hp _ _ _ h0
      · split at e
        · cases e; exact State.setObj_fr _ _ _ _ h0
        · cases e
      · cases e; exact State.setObj_fr _ _ _ _ h0

theorem State.writeObj_fr {F : Nat} {r0 : State} (s : State) (k index sub : Nat) (v : List Byte) (h0 : Frame F r0 s)
    (hF : F &&& 1073344511 = 1073344511 := by first | decide | exact sub_of (by assumption) (by decide)) :
    Frame F r0 (s.writeObj k index sub v).1 := by
  unfold State.writeObj
  extract_lets +onlyGivenNames no
  have hno : ∀ c : Code, Frame F r0 (no c).1 := fun _ => h0
  clear_value no
  refine itep_fr _ (hno _) (itep_fr _ (hno _) (itep_fr _ (hno _) ?_))
  split
  · exact hno _
  · extract_lets as_
    refine itep_fr _ (hno _) (itep_fr _ (hno _) (itep_fr _ (hno _) (itep_fr _ (hno _) ?_)))
    split
    · exact hno _
    · refine itep_fr _ (itep_fr _ (hno _) ?_) ?_
      · split
        · exact setRwlObj_fr s index sub v (by assumption) h0
        · exact hno _
      · split
        · split
          · exact hno _
          · exact State.writeField_fr _ _ _ _ _ h0
        · exact State.writeReg_fr _ _ _ _ (State.writeReg_fr _ _ _ _ h0)
        · exact State.writeReg_fr _ _ _ _ (State.writeReg_fr _ _ _ _ (State.writeReg_fr _ _ _ _ h0))
        · exact State.writeOwn_fr _ _ _ _ h0
        · exact State.writeCalc_fr _ _ _ _ _ _ h0
        · exact hno _

/-! ### Cop.lean -/

theorem State.datagram_fr {F : Nat} {r0 : State} (s : State) (port : Nat) (msg : List Byte) (h0 : Frame F r0 s)
    (hF : F &&& 8 = 8 := by first | decide | exact sub_of (by assumption) (by decide)) : Frame F r0 (State.datagram s
    port msg).1 := by
  unfold State.datagram
  with_reducible repeat' first | assumption | exact sub_of hF (by decide) | apply State.takeFree_fr

theorem State.copOut_fr {F : Nat} {r0 : State} (s : State) (path lane port : Nat) (msg : List Byte) (h0 : Frame F r0
    s) (hF : F &&& 18585 = 18585 := by first | decide | exact sub_of (by assumption) (by decide)) : Frame F r0
    (State.copOut s path lane port msg) := by
  unfold State.copOut
  with_reducible repeat' first
    | assumption | exact sub_of hF (by decide) | apply ite_fr | apply State.datagram_fr | apply State.mccSend_fr
    | apply State.ksMgmt_fr | apply State.emit_fr

theorem State.copDiscard_fr {F : Nat} {r0 : State} (s : State) (h0 : Frame F r0 s)
    (hF : F &&& 67108864 = 67108864 := by first | decide | exact sub_of (by assumption) (by decide)) : Frame F r0
    (State.copDiscard s) := by
  unfold State.copDiscard
  with_reducible repeat' first | assumption | exact sub_of hF (by decide) | apply State.bumpObj_fr

theorem State.copCount_fr {F : Nat} {r0 : State} (s : State) (m : CopRx) (h0 : Frame F r0 s)
    (hF : F &&& 67108864 = 67108864 := by first | decide | exact sub_of (by assumption) (by decide)) : Frame F r0
    (State.copCount s m) := by
  unfold State.copCount
  with_reducible repeat' first | assumption | exact sub_of hF (by decide) | apply ite_fr | apply State.bumpObj_fr

theorem State.copTake_fr {F : Nat} {r0 : State} (s : State) (m : CopRx) (h0 : Frame F r0 s)
    (hF : F &&& 335544320 = 335544320 := by first | decide | exact sub_of (by assumption) (by decide)) : Frame F r0
    (State.copTake s m).1 := by
  unfold State.copTake
  with_reducible repeat' first
    | assumption | exact sub_of hF (by decide) | apply ite_fr | apply State.copDiscard_fr | apply State.modSession_fr
    | split

theorem State.copReply_fr {F : Nat} {r0 : State} (s : State) (m : CopRx) (h : CopHeader) (k status : Nat) (body : List
    Byte) (h0 : Frame F r0 s)
    (hF : F &&& 335562905 = 335562905 := by first | decide | exact sub_of (by assumption) (by decide)) : Frame F r0
    (State.copReply s m h k status body) := by
  unfold State.copReply
  with_reducible repeat' first
    | assumption | exact sub_of hF (by decide) | apply ite_fr | apply State.modSession_fr | apply State.bumpObj_fr
    | apply State.copOut_fr | split

theorem State.copAnswer_fr {F : Nat} {r0 : State} (s t : State) (m : CopRx) (h : CopHeader) (k status : Nat) (body : List Byte)
    (h0 : Frame F r0 s) (h1 : Frame F r0 t)
    (hF : F &&& 335562905 = 335562905 := by first | decide | exact sub_of (by assumption) (by decide)) : Frame F r0 (s.copAnswer t m h k status body) :=
  ite_fr _ _ _ (State.copReply_fr _ _ _ _ _ _ h0) (State.copReply_fr _ _ _ _ _ _ h1)

theorem State.copServe_fr {F : Nat} {r0 : State} (s : State) (m : CopRx) (full : Bool) (ops : Nat → Bool)
    (work : State → List Byte → Nat → State × Nat × List Byte) (k_work : ∀ t b k, Frame F t (work t b k).1) (h0 : Frame F r0 s)
    (hF : F &&& 335562905 = 335562905 := by first | decide | exact sub_of (by assumption) (by decide)) :
    Frame F r0 (s.copServe m full ops work).1 := by
  unfold State.copServe
  extract_lets +onlyGivenNames claim
  refine itep_fr _ h0 ?_
  extract_lets +onlyGivenNames r
  have hr : Frame F r0 r.1 := State.copTake_fr _ _ (State.copCount_fr _ _ h0)
  clear_value r
  split
  · exact hr
  · refine itep_fr _ (State.copReply_fr _ _ _ _ _ _ (State.bumpObj_fr _ _ _ _ _ hr))
      (itep_fr _ (State.copReply_fr _ _ _ _ _ _ hr) ?_)
    exact State.copAnswer_fr _ _ _ _ _ _ _ hr (hr.trans (k_work _ _ _))

theorem State.readAll_fr {F : Nat} {r0 : State} (s : State) (k : Nat) (bank : Option Level) (es : List (Nat × Nat))
    (h0 : Frame F r0 s)
    (hF : F &&& 18890781 = 18890781 := by first | decide | exact sub_of (by assumption) (by decide)) : Frame F r0
    (State.readAll s k bank es).1 := by
  unfold State.readAll
  with_reducible repeat' first
    | assumption | exact Frame.refl _ | exact id_fr _ | assumption | apply ite_fr | apply itep_fr
    | apply State.readObj_fr | apply foldl_fr | apply foldlp_fr | intro _
    | (extract_lets +onlyGivenNames x; first | (have hx : Frame F r0 x := ?_; clear_value x) | (have hx : Frame F r0 x.1 := ?_; clear_value x) | (have hf := fun a => x a; clear hf) | (have hf : CiphState := x; clear hf) | (have hf : SecState := x; clear hf) | clear_value x)
    | subst x | dsimp only | (apply fst_fr; assumption) | split | exact sub_of hF (by decide)

theorem State.opRead_fr {F : Nat} {r0 : State} (s : State) (body : List Byte) (k : Nat) (h0 : Frame F r0 s)
    (hF : F &&& 18890781 = 18890781 := by first | decide | exact sub_of (by assumption) (by decide)) : Frame F r0
    (State.opRead s body k).1 := by
  unfold State.opRead
  with_reducible repeat' first
    | assumption | exact sub_of hF (by decide) | apply ite_fr | apply State.readAll_fr | split

theorem State.opWrite_fr {F : Nat} {r0 : State} (s : State) (body : List Byte) (k : Nat) (h0 : Frame F r0 s)
    (hF : F &&& 1073344511 = 1073344511 := by first | decide | exact sub_of (by assumption) (by decide)) : Frame F r0
    (State.opWrite s body k).1 := by
  unfold State.opWrite
  with_reducible repeat' first
    | assumption | exact Frame.refl _ | exact id_fr _ | assumption | apply ite_fr | apply itep_fr
    | apply State.writeObj_fr | apply foldl_fr | apply foldlp_fr | intro _
    | (extract_lets +onlyGivenNames x; first | (have hx : Frame F r0 x := ?_; clear_value x) | (have hx : Frame F r0 x.1 := ?_; clear_value x) | (have hf := fun a => x a; clear hf) | (have hf : CiphState := x; clear hf) | (have hf : SecState := x; clear hf) | clear_value x)
    | subst x | dsimp only | (apply fst_fr; assumption) | split | exact sub_of hF (by decide)

theorem State.opLevelRead_fr {F : Nat} {r0 : State} (s : State) (body : List Byte) (k : Nat) (h0 : Frame F r0 s)
    (hF : F &&& 18890781 = 18890781 := by first | decide | exact sub_of (by assumption) (by decide)) : Frame F r0
    (State.opLevelRead s body k).1 := by
  unfold State.opLevelRead
  with_reducible repeat' first
    | assumption | exact sub_of hF (by decide) | apply ite_fr | apply State.readAll_fr | split

theorem State.setBlock_fr {F : Nat} {r0 : State} (s : State) (k : Nat) (b : Option BlockXfer) (h0 : Frame F r0 s)
    (hF : F &&& 268435456 = 268435456 := by first | decide | exact sub_of (by assumption) (by decide)) : Frame F r0
    (State.setBlock s k b) := by
  unfold State.setBlock
  with_reducible repeat' first | assumption | exact sub_of hF (by decide) | apply State.modSession_fr

theorem State.opBlockRead_fr {F : Nat} {r0 : State} (s : State) (body : List Byte) (k : Nat) (h0 : Frame F r0 s)
    (hF : F &&& 287326237 = 287326237 := by first | decide | exact sub_of (by assumption) (by decide)) : Frame F r0
    (State.opBlockRead s body k).1 := by
  unfold State.opBlockRead
  with_reducible repeat' first
    | assumption | exact sub_of hF (by decide) | exact Frame.refl _ | assumption | apply ite_fr | apply itep_fr
    | apply State.readObj_fr | apply State.setBlock_fr | apply foldl_fr | intro _
    | (extract_lets +onlyGivenNames x; first | (have hx : Frame F r0 x := ?_; clear_value x) | (have hx : Frame F r0 x.1 := ?_; clear_value x) | (have hf := fun a => x a; clear hf) | (have hf : CiphState := x; clear hf) | (have hf : SecState := x; clear hf) | clear_value x)
    | split

theorem State.opBlockWrite_fr {F : Nat} {r0 : State} (s : State) (body : List Byte) (k : Nat) (h0 : Frame F r0 s)
    (hF : F &&& 1073344511 = 1073344511 := by first | decide | exact sub_of (by assumption) (by decide)) : Frame F r0
    (State.opBlockWrite s body k).1 := by
  unfold State.opBlockWrite
  with_reducible repeat' first
    | assumption | exact sub_of hF (by decide) | exact Frame.refl _ | assumption | apply ite_fr | apply itep_fr
    | apply State.setBlock_fr | apply State.writeObj_fr | apply foldl_fr | intro _
    | (extract_lets +onlyGivenNames x; first | (have hx : Frame F r0 x := ?_; clear_value x) | (have hx : Frame F r0 x.1 := ?_; clear_value x) | (have hf := fun a => x a; clear hf) | (have hf : CiphState := x; clear hf) | (have hf : SecState := x; clear hf) | clear_value x)
    | split

theorem State.sessionEnd_fr {F : Nat} {r0 : State} (s : State) (k : Nat) (h0 : Frame F r0 s)
    (hF : F &&& 436248576 = 436248576 := by first | decide | exact sub_of (by assumption) (by decide)) : Frame F r0
    (State.sessionEnd s k) := by
  unfold State.sessionEnd
  with_reducible repeat' first
    | assumption | intro _ | exact Frame.refl _ | subst x
    | (extract_lets +onlyGivenNames x; first | (have hx : Frame F r0 x := ?_; clear_value x) | (have hx : Frame F r0 x.1 := ?_; clear_value x) | (have hf := fun a => x a; clear hf) | (have hf : CiphState := x; clear hf) | (have hf : SecState := x; clear hf) | (have hf : LevelSeq := x; clear hf) | (have hf : CstState := x; clear hf) | clear_value x)
    | exact id_fr _ | apply ite_fr | apply State.releaseLevel_fr | apply State.courseOrphan_fr | dsimp only | split
    | refine Frame.raw ?_ | exact sub_of hF (by decide)

/-! ### Domain.lean -/

theorem State.modCop_fr {F : Nat} {r0 : State} (s : State) (f : CopState → CopState) (h0 : Frame F r0 s)
    (hF : F &&& 268435456 = 268435456 := by first | decide | exact sub_of (by assumption) (by decide)) : Frame F r0
    (State.modCop s f) :=
  Frame.raw h0

theorem State.relayUnreachable_fr {F : Nat} {r0 : State} (s : State) (m : CopRx) (h : CopHeader) (h0 : Frame F r0 s)
    (hF : F &&& 18585 = 18585 := by first | decide | exact sub_of (by assumption) (by decide)) : Frame F r0
    (State.relayUnreachable s m h) := by
  unfold State.relayUnreachable
  with_reducible repeat' first | assumption | exact sub_of hF (by decide) | apply State.copOut_fr

theorem State.reportPresence_fr {F : Nat} {r0 : State} (s : State) (n code : Nat) (h0 : Frame F r0 s)
    (hF : F &&& 16 = 16 := by first | decide | exact sub_of (by assumption) (by decide)) : Frame F r0
    (State.reportPresence s n code) := by
  unfold State.reportPresence
  with_reducible repeat' first | assumption | exact sub_of hF (by decide) | apply ite_fr | apply State.emit_fr

theorem State.setNode_fr {F : Nat} {r0 : State} (s : State) (n : Nat) (r : NodeRec) (h0 : Frame F r0 s)
    (hF : F &&& 268435456 = 268435456 := by first | decide | exact sub_of (by assumption) (by decide)) : Frame F r0
    (State.setNode s n r) := by
  unfold State.setNode
  with_reducible repeat' first | assumption | exact sub_of hF (by decide) | apply State.modCop_fr

theorem State.sampleEntries_fr {F : Nat} {r0 : State} (s : State) (l : Level) (es : List (Nat × Nat)) (h0 : Frame F r0
    s) (hF : F &&& 18890781 = 18890781 := by first | decide | exact sub_of (by assumption) (by decide)) : Frame F r0
    (State.sampleEntries s l es).1 := by
  unfold State.sampleEntries
  with_reducible repeat' first
    | assumption | exact Frame.refl _ | exact id_fr _ | assumption | apply ite_fr | apply itep_fr
    | apply State.readObj_fr | apply foldl_fr | apply foldlp_fr | intro _
    | (extract_lets +onlyGivenNames x; first | (have hx : Frame F r0 x := ?_; clear_value x) | (have hx : Frame F r0 x.1 := ?_; clear_value x) | (have hf := fun a => x a; clear hf) | (have hf : CiphState := x; clear hf) | (have hf : SecState := x; clear hf) | clear_value x)
    | subst x | dsimp only | (apply fst_fr; assumption) | split | exact sub_of hF (by decide)

theorem State.ownSlot_fr {F : Nat} {r0 : State} (s : State) (ns : Nat) (h0 : Frame F r0 s)
    (hF : F &&& 8192 = 8192 := by first | decide | exact sub_of (by assumption) (by decide)) : Frame F r0 (s.ownSlot ns).1 := by
  unfold State.ownSlot
  split
  · exact h0
  · exact itep_fr _ h0 (Frame.raw h0)

end Sys2Proof.Machine
end

