-- ==== Sys2Proof/Laws/FrameClient.lean ====
section
/-!
SUPPORT. Which parts of the state a command leaves as they are: the commands of TIME, CIPH, CLI, HKM and Courses.
-/

-- one theorem after another: all at once would not fit the memory
set_option Elab.async false
set_option linter.all false

namespace Sys2Proof.Machine

/-! ### Time.lean -/

theorem execServoSampleTimeout_fr (x : Fin 3) (s : State) : FrameOf 8388629 s (execServoSampleTimeout x s) := by
  unfold execServoSampleTimeout
  with_reducible repeat' first
    | apply next_fr | exact Frame.refl _ | decide | apply iteo_fr | apply ite_fr | apply State.syncTb_fr
    | apply State.setTbState_fr | apply State.waitClk_fr

theorem execServoSrcWrite_fr (x : Fin 3) (v : Word) (s : State) : FrameOf 21 s (execServoSrcWrite x v s) := by
  unfold execServoSrcWrite
  with_reducible repeat' first
    | assumption | apply next_fr | exact Frame.refl _ | decide | assumption | apply iteo_fr | apply ite_fr
    | apply itep_fr | apply State.hostWrite_fr | apply State.writeServo_fr | apply foldl_fr | intro _
    | (extract_lets +onlyGivenNames x; first | (have hx : Frame 21 s x := ?_; clear_value x) | (have hx : Frame 21 s x.1 := ?_; clear_value x) | (have hf := fun a => x a; clear hf) | (have hf : CiphState := x; clear hf) | (have hf : SecState := x; clear hf) | clear_value x)
    | split

theorem execHostOfsWrite_fr (by_ : Source) (x : Fin 3) (v : Word) (s : State) : FrameOf 21 s (execHostOfsWrite by_ x v
    s) := by
  unfold execHostOfsWrite
  with_reducible repeat' first
    | assumption | apply next_fr | exact Frame.refl _ | decide | assumption | apply iteo_fr | apply ite_fr
    | apply itep_fr | apply State.byWrite_fr | apply State.answer_fr | apply State.writeHostOfs_fr | apply foldl_fr
    | intro _
    | (extract_lets +onlyGivenNames x; first | (have hx : Frame 21 s x := ?_; clear_value x) | (have hx : Frame 21 s x.1 := ?_; clear_value x) | (have hf := fun a => x a; clear hf) | (have hf : CiphState := x; clear hf) | (have hf : SecState := x; clear hf) | clear_value x)
    | split

theorem execPpsEdge_fr (i : Fin 4) (ps : Nat) (s : State) : FrameOf 21 s (execPpsEdge i ps s) := by
  unfold execPpsEdge
  with_reducible repeat' first
    | assumption | apply next_fr | exact Frame.refl _ | decide | assumption | apply iteo_fr | apply ite_fr
    | apply itep_fr | apply State.setStamp_fr | apply State.acceptSample_fr | apply foldl_fr | intro _
    | (extract_lets +onlyGivenNames x; first | (have hx : Frame 21 s x := ?_; clear_value x) | (have hx : Frame 21 s x.1 := ?_; clear_value x) | (have hf := fun a => x a; clear hf) | (have hf : CiphState := x; clear hf) | (have hf : SecState := x; clear hf) | clear_value x)
    | split

theorem execUtcChange_fr (s : State) : FrameOf 63464565 s (execUtcChange s) := by
  have hF : 63464565 &&& 63464565 = 63464565 := by decide
  unfold execUtcChange
  with_reducible repeat' first
    | assumption | intro _ | exact Frame.refl _ | subst x
    | (extract_lets +onlyGivenNames x; first | (have hx : Frame 63464565 s x := ?_; clear_value x) | (have hx : Frame 63464565 s x.1 := ?_; clear_value x) | (have hf := fun a => x a; clear hf) | (have hf : CiphState := x; clear hf) | (have hf : SecState := x; clear hf) | (have hf : LevelSeq := x; clear hf) | (have hf : CstState := x; clear hf) | clear_value x)
    | apply next_fr | apply iteo_fr | apply ite_fr | apply State.elapse_fr | apply State.waitTb_fr
    | apply State.utcAct_fr | dsimp only | split | decide

theorem execOscinFail_fr (s : State) : FrameOf 16777237 s (execOscinFail s) := by
  have hF : 16777237 &&& 16777237 = 16777237 := by decide
  unfold execOscinFail
  with_reducible repeat' first
    | assumption | exact Frame.refl _ | exact id_fr _ | assumption | apply next_fr | apply iteo_fr | apply ite_fr
    | apply itep_fr | apply State.oscinFails_fr | apply State.setB_fr | apply State.servosHold_fr | apply foldl_fr
    | apply foldlp_fr | intro _
    | (extract_lets +onlyGivenNames x; first | (have hx : Frame 16777237 s x := ?_; clear_value x) | (have hx : Frame 16777237 s x.1 := ?_; clear_value x) | (have hf := fun a => x a; clear hf) | (have hf : CiphState := x; clear hf) | (have hf : SecState := x; clear hf) | clear_value x)
    | subst x | dsimp only | (apply fst_fr; assumption) | split | refine Frame.raw ?_ | decide

theorem execOscinReturn_fr (s : State) : FrameOf 16777217 s (execOscinReturn s) := by
  have hF : 16777217 &&& 16777217 = 16777217 := by decide
  unfold execOscinReturn
  with_reducible repeat' first
    | assumption | exact Frame.refl _ | exact id_fr _ | assumption | apply next_fr | apply iteo_fr | apply ite_fr
    | apply itep_fr | apply State.oscinReturns_fr | apply foldl_fr | apply foldlp_fr | intro _
    | (extract_lets +onlyGivenNames x; first | (have hx : Frame 16777217 s x := ?_; clear_value x) | (have hx : Frame 16777217 s x.1 := ?_; clear_value x) | (have hf := fun a => x a; clear hf) | (have hf : CiphState := x; clear hf) | (have hf : SecState := x; clear hf) | clear_value x)
    | subst x | dsimp only | (apply fst_fr; assumption) | split | refine Frame.raw ?_ | decide

theorem execTimeOscinWaitEnd_fr (s : State) : FrameOf 8388629 s (execTimeOscinWaitEnd s) := by
  unfold execTimeOscinWaitEnd
  with_reducible repeat' first
    | apply next_fr | exact Frame.refl _ | decide | apply iteo_fr | apply ite_fr | apply State.waitClk_fr
    | apply State.syncTbs_fr | apply State.setB_fr | split

theorem execTimeFallbackStart_fr (n : Lane) (s : State) : FrameOf 8388629 s (execTimeFallbackStart n s) := by
  unfold execTimeFallbackStart
  with_reducible repeat' first
    | apply next_fr | exact Frame.refl _ | decide | apply iteo_fr | apply ite_fr | apply State.waitClk_fr
    | apply State.setB_fr | apply State.ksSample_fr

theorem execPtpMessageRx_fr (p : Fin 64) (m : PtpRx) (s : State) : FrameOf 122184821 s (execPtpMessageRx p m s) := by
  have hF : 122184821 &&& 122184821 = 122184821 := by decide
  unfold execPtpMessageRx
  with_reducible repeat' first
    | assumption | intro _ | exact Frame.refl _ | subst x
    | (extract_lets +onlyGivenNames x; first | (have hx : Frame 122184821 s x := ?_; clear_value x) | (have hx : Frame 122184821 s x.1 := ?_; clear_value x) | (have hf := fun a => x a; clear hf) | (have hf : CiphState := x; clear hf) | (have hf : SecState := x; clear hf) | (have hf : LevelSeq := x; clear hf) | (have hf : CstState := x; clear hf) | clear_value x)
    | apply next_fr | apply iteo_fr | apply ite_fr | apply State.setObj_fr | apply State.acceptSample_fr
    | apply State.ptpPorts_fr | apply State.ptpEmit_fr | apply State.ptpUtc_fr | dsimp only | split | decide

theorem execPtpMessageTx_fr (p : Fin 64) (kind : PtpTx) (s : State) : FrameOf 109051924 s (execPtpMessageTx p kind s)
    := by
  have hF : 109051924 &&& 109051924 = 109051924 := by decide
  unfold execPtpMessageTx
  with_reducible repeat' first
    | assumption | intro _ | exact Frame.refl _ | subst x
    | (extract_lets +onlyGivenNames x; first | (have hx : Frame 109051924 s x := ?_; clear_value x) | (have hx : Frame 109051924 s x.1 := ?_; clear_value x) | (have hf := fun a => x a; clear hf) | (have hf : CiphState := x; clear hf) | (have hf : SecState := x; clear hf) | (have hf : LevelSeq := x; clear hf) | (have hf : CstState := x; clear hf) | clear_value x)
    | apply next_fr | apply iteo_fr | apply ite_fr | apply State.ptpPorts_fr | apply State.ptpEmit_fr
    | apply State.ptpDue_fr | dsimp only | split | decide

theorem execPtpEnWrite_fr (v : Bool) (s : State) : FrameOf 67108881 s (execPtpEnWrite v s) := by
  unfold execPtpEnWrite
  with_reducible repeat' first
    | assumption | apply next_fr | exact Frame.refl _ | decide | assumption | apply iteo_fr | apply ite_fr
    | apply itep_fr | apply State.hostWrite_fr | apply State.ptpPorts_fr | apply State.setB_fr | apply foldl_fr
    | intro _
    | (extract_lets +onlyGivenNames x; first | (have hx : Frame 67108881 s x := ?_; clear_value x) | (have hx : Frame 67108881 s x.1 := ?_; clear_value x) | (have hf := fun a => x a; clear hf) | (have hf : CiphState := x; clear hf) | (have hf : SecState := x; clear hf) | clear_value x)
    | split

theorem execLaunchArm_fr (d : Fin 32) (v : Word) (s : State) : FrameOf 33554449 s (execLaunchArm d v s) := by
  unfold execLaunchArm
  with_reducible repeat' first
    | assumption | apply next_fr | exact Frame.refl _ | decide | assumption | apply iteo_fr | apply ite_fr
    | apply itep_fr | apply State.hostWrite_fr | apply State.writeLaunch_fr | apply foldl_fr | intro _
    | (extract_lets +onlyGivenNames x; first | (have hx : Frame 33554449 s x := ?_; clear_value x) | (have hx : Frame 33554449 s x.1 := ?_; clear_value x) | (have hf := fun a => x a; clear hf) | (have hf : CiphState := x; clear hf) | (have hf : SecState := x; clear hf) | clear_value x)
    | split

theorem execLaunchSend_fr (d : Fin 32) (err : Int) (s : State) : FrameOf 48250901 s (execLaunchSend d err s) := by
  have hF : 48250901 &&& 48250901 = 48250901 := by decide
  unfold execLaunchSend
  with_reducible repeat' first
    | assumption | intro _ | exact Frame.refl _ | subst x
    | (extract_lets +onlyGivenNames x; first | (have hx : Frame 48250901 s x := ?_; clear_value x) | (have hx : Frame 48250901 s x.1 := ?_; clear_value x) | (have hf := fun a => x a; clear hf) | (have hf : CiphState := x; clear hf) | (have hf : SecState := x; clear hf) | (have hf : LevelSeq := x; clear hf) | (have hf : CstState := x; clear hf) | clear_value x)
    | apply next_fr | apply iteo_fr | apply ite_fr | apply State.waitClk_fr | apply State.waitTb_fr
    | apply State.launchNow_fr | dsimp only | split | decide

theorem execPpsEnWrite_fr (v : Bool) (s : State) : FrameOf 17 s (execPpsEnWrite v s) := by
  unfold execPpsEnWrite
  with_reducible repeat' first
    | assumption | apply next_fr | exact Frame.refl _ | decide | assumption | apply iteo_fr | apply ite_fr
    | apply itep_fr | apply State.hostWrite_fr | apply State.writePpsEn_fr | apply State.logAcc_fr | apply foldl_fr
    | intro _
    | (extract_lets +onlyGivenNames x; first | (have hx : Frame 17 s x := ?_; clear_value x) | (have hx : Frame 17 s x.1 := ?_; clear_value x) | (have hf := fun a => x a; clear hf) | (have hf : CiphState := x; clear hf) | (have hf : SecState := x; clear hf) | clear_value x)
    | split

theorem execPpsPulse_fr (s : State) : FrameOf 41943060 s (execPpsPulse s) := by
  have hF : 41943060 &&& 41943060 = 41943060 := by decide
  unfold execPpsPulse
  with_reducible repeat' first
    | assumption | intro _ | exact Frame.refl _ | subst x
    | (extract_lets +onlyGivenNames x; first | (have hx : Frame 41943060 s x := ?_; clear_value x) | (have hx : Frame 41943060 s x.1 := ?_; clear_value x) | (have hf := fun a => x a; clear hf) | (have hf : CiphState := x; clear hf) | (have hf : SecState := x; clear hf) | (have hf : LevelSeq := x; clear hf) | (have hf : CstState := x; clear hf) | clear_value x)
    | apply next_fr | apply iteo_fr | apply ite_fr | apply State.elapse_fr | apply State.emit_fr
    | apply State.modTime_fr | dsimp only | split | decide

/-! ### Ciph.lean -/

theorem execEsHealthFail_fr (s : State) : FrameOf 17 s (execEsHealthFail s) := by
  unfold execEsHealthFail
  with_reducible repeat' first
    | apply next_fr | exact Frame.refl _ | decide | apply iteo_fr | apply ite_fr | apply State.raise_fr
    | apply State.setB_fr

theorem execDrbgReseed_fr (i : Fin 21) (s : State) : FrameOf 134217729 s (execDrbgReseed i s) := by
  have hF : 134217729 &&& 134217729 = 134217729 := by decide
  unfold execDrbgReseed
  with_reducible repeat' first
    | assumption | exact Frame.refl _ | exact id_fr _ | assumption | apply next_fr | apply iteo_fr | apply ite_fr
    | apply itep_fr | apply State.setB_fr | apply foldl_fr | apply foldlp_fr | intro _
    | (extract_lets +onlyGivenNames x; first | (have hx : Frame 134217729 s x := ?_; clear_value x) | (have hx : Frame 134217729 s x.1 := ?_; clear_value x) | (have hf := fun a => x a; clear hf) | (have hf : CiphState := x; clear hf) | (have hf : SecState := x; clear hf) | clear_value x)
    | subst x | dsimp only | (apply fst_fr; assumption) | split | refine Frame.raw ?_ | decide

theorem execKeyLoadClear_fr (by_ : Source) (slot : Fin 8192) (key : BitVec 256) (s : State) : FrameOf 134217745 s
    (execKeyLoadClear by_ slot key s) := by
  unfold execKeyLoadClear
  with_reducible repeat' first
    | assumption | apply next_fr | exact Frame.refl _ | decide | assumption | apply iteo_fr | apply ite_fr
    | apply itep_fr | apply State.ciphWrite_fr | apply State.loadClear_fr | apply foldl_fr | intro _
    | (extract_lets +onlyGivenNames x; first | (have hx : Frame 134217745 s x := ?_; clear_value x) | (have hx : Frame 134217745 s x.1 := ?_; clear_value x) | (have hf := fun a => x a; clear hf) | (have hf : CiphState := x; clear hf) | (have hf : SecState := x; clear hf) | clear_value x)
    | split

theorem execKeyZeroise_fr (by_ : Source) (slot : Fin 8192) (s : State) : FrameOf 136331281 s (execKeyZeroise by_ slot
    s) := by
  unfold execKeyZeroise
  with_reducible repeat' first
    | assumption | apply next_fr | exact Frame.refl _ | decide | assumption | apply iteo_fr | apply ite_fr
    | apply itep_fr | apply State.ciphWrite_fr | apply State.zeroiseSlot_fr | apply foldl_fr | intro _
    | (extract_lets +onlyGivenNames x; first | (have hx : Frame 136331281 s x := ?_; clear_value x) | (have hx : Frame 136331281 s x.1 := ?_; clear_value x) | (have hf := fun a => x a; clear hf) | (have hf : CiphState := x; clear hf) | (have hf : SecState := x; clear hf) | clear_value x)
    | split

theorem execZeroAll_fr (by_ : Source) (s : State) : FrameOf 136331281 s (execZeroAll by_ s) := by
  unfold execZeroAll
  with_reducible repeat' first
    | assumption | apply next_fr | exact Frame.refl _ | decide | assumption | apply iteo_fr | apply ite_fr
    | apply itep_fr | apply State.ciphWrite_fr | apply State.answer_fr | apply State.zeroAll_fr | apply foldl_fr
    | intro _
    | (extract_lets +onlyGivenNames x; first | (have hx : Frame 136331281 s x := ?_; clear_value x) | (have hx : Frame 136331281 s x.1 := ?_; clear_value x) | (have hf := fun a => x a; clear hf) | (have hf : CiphState := x; clear hf) | (have hf : SecState := x; clear hf) | clear_value x)
    | split

theorem execZeroAllClearDone_fr (s : State) : FrameOf 134217745 s (execZeroAllClearDone s) := by
  have hF : 134217745 &&& 134217745 = 134217745 := by decide
  unfold execZeroAllClearDone
  with_reducible repeat' first
    | assumption | exact Frame.refl _ | exact id_fr _ | assumption | apply next_fr | apply iteo_fr | apply ite_fr
    | apply itep_fr | apply State.raise_fr | apply foldl_fr | apply foldlp_fr | intro _
    | (extract_lets +onlyGivenNames x; first | (have hx : Frame 134217745 s x := ?_; clear_value x) | (have hx : Frame 134217745 s x.1 := ?_; clear_value x) | (have hf := fun a => x a; clear hf) | (have hf : CiphState := x; clear hf) | (have hf : SecState := x; clear hf) | clear_value x)
    | subst x | dsimp only | (apply fst_fr; assumption) | split | refine Frame.raw ?_ | decide

theorem execRngFailTimeout_fr (s : State) : FrameOf 142606357 s (execRngFailTimeout s) := by
  have hF : 142606357 &&& 142606357 = 142606357 := by decide
  unfold execRngFailTimeout
  with_reducible repeat' first
    | assumption | intro _ | exact Frame.refl _ | subst x
    | (extract_lets +onlyGivenNames x; first | (have hx : Frame 142606357 s x := ?_; clear_value x) | (have hx : Frame 142606357 s x.1 := ?_; clear_value x) | (have hf := fun a => x a; clear hf) | (have hf : CiphState := x; clear hf) | (have hf : SecState := x; clear hf) | (have hf : LevelSeq := x; clear hf) | (have hf : CstState := x; clear hf) | clear_value x)
    | apply next_fr | apply iteo_fr | apply ite_fr | apply State.setB_fr | apply State.waitClk_fr
    | apply State.raise_fr | apply State.ctxStop_fr | apply State.jobEnd_fr | apply foldl_fr_of | dsimp only | split
    | decide

theorem execCtxIvLoad_fr (by_ : Source) (c : BitVec 16) (iv : BitVec 128) (s : State) : FrameOf 134217745 s
    (execCtxIvLoad by_ c iv s) := by
  unfold execCtxIvLoad
  with_reducible repeat' first
    | assumption | apply next_fr | exact Frame.refl _ | decide | assumption | apply iteo_fr | apply ite_fr
    | apply itep_fr | apply State.ciphWrite_fr | apply State.directIv_fr | apply State.answer_fr | apply foldl_fr
    | intro _
    | (extract_lets +onlyGivenNames x; first | (have hx : Frame 134217745 s x := ?_; clear_value x) | (have hx : Frame 134217745 s x.1 := ?_; clear_value x) | (have hf := fun a => x a; clear hf) | (have hf : CiphState := x; clear hf) | (have hf : SecState := x; clear hf) | clear_value x)
    | split

theorem execPrevKeyRelease_fr (c : BitVec 16) (s : State) : FrameOf 142606340 s (execPrevKeyRelease c s) := by
  unfold execPrevKeyRelease
  with_reducible repeat' first
    | apply next_fr | exact Frame.refl _ | decide | apply iteo_fr | apply ite_fr | apply State.modCtx_fr
    | apply State.waitClk_fr | split

theorem execJobEnc_fr (by_ : Source) (j : Fin 16) (d : JobDesc) (s : State) : FrameOf 136331281 s (execJobEnc by_ j d
    s) := by
  unfold execJobEnc
  with_reducible repeat' first | apply next_fr | exact Frame.refl _ | decide | apply State.submit_fr

theorem execJobDec_fr (by_ : Source) (j : Fin 16) (d : JobDesc) (s : State) : FrameOf 136331281 s (execJobDec by_ j d
    s) := by
  unfold execJobDec
  with_reducible repeat' first | apply next_fr | exact Frame.refl _ | decide | apply State.submit_fr

theorem execJobWrapKey_fr (by_ : Source) (j : Fin 16) (d : JobDesc) (s : State) : FrameOf 136331281 s (execJobWrapKey
    by_ j d s) := by
  unfold execJobWrapKey
  with_reducible repeat' first | apply next_fr | exact Frame.refl _ | decide | apply State.submit_fr

theorem execJobUnwrapKey_fr (by_ : Source) (j : Fin 16) (d : JobDesc) (s : State) : FrameOf 136331281 s
    (execJobUnwrapKey by_ j d s) := by
  unfold execJobUnwrapKey
  with_reducible repeat' first | apply next_fr | exact Frame.refl _ | decide | apply State.submit_fr

theorem execJobWrapCtx_fr (by_ : Source) (j : Fin 16) (d : JobDesc) (s : State) : FrameOf 136331281 s (execJobWrapCtx
    by_ j d s) := by
  unfold execJobWrapCtx
  with_reducible repeat' first | apply next_fr | exact Frame.refl _ | decide | apply State.submit_fr

theorem execJobUnwrapCtx_fr (by_ : Source) (j : Fin 16) (d : JobDesc) (s : State) : FrameOf 136331281 s
    (execJobUnwrapCtx by_ j d s) := by
  unfold execJobUnwrapCtx
  with_reducible repeat' first | apply next_fr | exact Frame.refl _ | decide | apply State.submit_fr

theorem execJobSaveClear_fr (by_ : Source) (j : Fin 16) (d : JobDesc) (s : State) : FrameOf 136331281 s
    (execJobSaveClear by_ j d s) := by
  unfold execJobSaveClear
  with_reducible repeat' first | apply next_fr | exact Frame.refl _ | decide | apply State.submit_fr

theorem execJobRestoreClear_fr (by_ : Source) (j : Fin 16) (d : JobDesc) (s : State) : FrameOf 136331281 s
    (execJobRestoreClear by_ j d s) := by
  unfold execJobRestoreClear
  with_reducible repeat' first | apply next_fr | exact Frame.refl _ | decide | apply State.submit_fr

theorem takeCore_fr {F : Nat} {r0 : State} (s : State) (x : Nat × JobRun) {t : State} (e : s.takeCore x = some t) (h0 : Frame F r0 s)
    (hF : F &&& 144719893 = 144719893 := by first | decide | exact sub_of (by assumption) (by decide)) :
    Frame F r0 t := by
  unfold State.takeCore at e
  split at e
  · cases e; exact h0
  · split at e
    · cases e
    · split at e
      · cases e; exact State.suspend_fr _ _ _ h0
      · cases e

theorem execJobStart_fr (s : State) : FrameOf 144719893 s (execJobStart s) := by
  have hF : 144719893 &&& 144719893 = 144719893 := by decide
  unfold execJobStart
  split
  · exact Frame.refl s
  · refine iteo_fr _ (Frame.refl s) ?_
    split
    · exact Frame.refl s
    · exact State.startJob_fr _ _ _ (takeCore_fr _ _ (by assumption) (Frame.refl s))

theorem execJobResume_fr (s : State) : FrameOf 144719893 s (execJobResume s) := by
  have hF : 144719893 &&& 144719893 = 144719893 := by decide
  unfold execJobResume
  split
  · exact Frame.refl s
  · refine iteo_fr _ (Frame.refl s) ?_
    split
    · exact Frame.refl s
    · extract_lets src t
      have h : Frame 144719893 s t := State.setJob_fr _ _ _ (takeCore_fr _ _ (by assumption) (Frame.refl s))
      clear_value t
      exact ite_fr _ _ _ (State.modCtx_fr _ _ _ h) h

theorem execJobSegmentEnd_fr (j : Fin 16) (s : State) : FrameOf 144719893 s (execJobSegmentEnd j s) := by
  unfold execJobSegmentEnd
  with_reducible repeat' first
    | apply next_fr | exact Frame.refl _ | decide | apply iteo_fr | apply ite_fr | apply State.waitClk_fr
    | apply State.winGood_fr | apply State.jobEnd_fr | apply State.jobWipe_fr | apply State.jobTo_fr
    | apply State.kwJob_fr | apply State.closeMsg_fr | split

/-! ### Cli.lean -/

theorem execClosDeclare_fr (p : Fin 64) (s : State) : FrameOf 67108881 s (execClosDeclare p s) := by
  unfold execClosDeclare
  with_reducible repeat' first
    | apply next_fr | exact Frame.refl _ | decide | apply iteo_fr | apply ite_fr | apply State.portEnter_fr
    | apply State.portAlarm_fr | apply State.setB_fr

theorem execClosClear_fr (p : Fin 64) (s : State) : FrameOf 67108865 s (execClosClear p s) := by
  unfold execClosClear
  with_reducible repeat' first
    | apply next_fr | exact Frame.refl _ | decide | apply iteo_fr | apply ite_fr | apply State.setB_fr
    | apply State.portEnter_fr

theorem execCloaDeclare_fr (p : Fin 64) (s : State) : FrameOf 67108881 s (execCloaDeclare p s) := by
  unfold execCloaDeclare
  with_reducible repeat' first
    | apply next_fr | exact Frame.refl _ | decide | apply iteo_fr | apply ite_fr | apply State.portAlarm_fr
    | apply State.setB_fr | apply State.portEnter_fr

theorem execCloaClear_fr (p : Fin 64) (s : State) : FrameOf 67108865 s (execCloaClear p s) := by
  unfold execCloaClear
  with_reducible repeat' first
    | apply next_fr | exact Frame.refl _ | decide | apply iteo_fr | apply ite_fr | apply State.setB_fr
    | apply State.portEnter_fr

theorem execRemoteFaultChange_fr (p : Fin 64) (v : Bool) (s : State) : FrameOf 17 s (execRemoteFaultChange p v s) := by
  unfold execRemoteFaultChange
  with_reducible repeat' first
    | apply next_fr | exact Frame.refl _ | decide | apply iteo_fr | apply ite_fr | apply State.setB_fr
    | apply State.portAlarm_fr

theorem execClientFrameIngress_fr (src : ClientSrc) (rx : ClientRx) (s : State) : FrameOf 82065 s
    (execClientFrameIngress src rx s) := by
  unfold execClientFrameIngress
  with_reducible repeat' first
    | assumption | apply next_fr | exact Frame.refl _ | decide | apply iteo_fr | apply ite_fr
    | apply State.portCount_fr | apply State.portAlarm_fr | apply State.flowFrame_fr | apply State.flowOvf_fr
    | apply State.modFlow_fr | apply State.showFlow_fr
    | (extract_lets +onlyGivenNames x; have hx : Frame 82065 s x := ?_; clear_value x) | split

theorem execCliFaultAction_fr (p : Fin 64) (s : State) : FrameOf 65553 s (execCliFaultAction p s) := by
  have hF : 65553 &&& 65553 = 65553 := by decide
  unfold execCliFaultAction
  with_reducible repeat' first
    | assumption | intro _ | exact Frame.refl _ | subst x
    | (extract_lets +onlyGivenNames x; first | (have hx : Frame 65553 s x := ?_; clear_value x) | (have hx : Frame 65553 s x.1 := ?_; clear_value x) | (have hf := fun a => x a; clear hf) | (have hf : CiphState := x; clear hf) | (have hf : SecState := x; clear hf) | (have hf : LevelSeq := x; clear hf) | (have hf : CstState := x; clear hf) | clear_value x)
    | apply next_fr | apply iteo_fr | apply ite_fr | apply State.showFlow_fr | apply State.faultAction_fr
    | apply foldl_fr_of | dsimp only | split | decide

theorem execEgressHeader_fr (f : Fin 256) (s : State) : FrameOf 12664849 s (execEgressHeader f s) := by
  have hF : 12664849 &&& 12664849 = 12664849 := by decide
  unfold execEgressHeader
  with_reducible repeat' first
    | assumption | intro _ | exact Frame.refl _ | subst x
    | (extract_lets +onlyGivenNames x; first | (have hx : Frame 12664849 s x := ?_; clear_value x) | (have hx : Frame 12664849 s x.1 := ?_; clear_value x) | (have hf := fun a => x a; clear hf) | (have hf : CiphState := x; clear hf) | (have hf : SecState := x; clear hf) | (have hf : LevelSeq := x; clear hf) | (have hf : CstState := x; clear hf) | clear_value x)
    | apply next_fr | apply iteo_fr | apply ite_fr | apply State.tapPort_fr | apply State.portCount_fr
    | apply State.portAlarm_fr | apply State.modFlow_fr | apply State.showFlow_fr | apply State.egressFrame_fr
    | dsimp only | split | decide

theorem execFlexeCalendarSwitch_fr (k : Fin 8) (s : State) : FrameOf 65537 s (execFlexeCalendarSwitch k s) := by
  have hF : 65537 &&& 65537 = 65537 := by decide
  unfold execFlexeCalendarSwitch
  with_reducible repeat' first
    | assumption | exact Frame.refl _ | exact id_fr _ | assumption | apply next_fr | apply iteo_fr | apply ite_fr
    | apply itep_fr | apply State.setB_fr | apply foldl_fr | apply foldlp_fr | intro _
    | (extract_lets +onlyGivenNames x; first | (have hx : Frame 65537 s x := ?_; clear_value x) | (have hx : Frame 65537 s x.1 := ?_; clear_value x) | (have hf := fun a => x a; clear hf) | (have hf : CiphState := x; clear hf) | (have hf : SecState := x; clear hf) | clear_value x)
    | subst x | dsimp only | (apply fst_fr; assumption) | split | refine Frame.raw ?_ | decide

theorem execFlexeLockChange_fr (k : Fin 8) (locked gid map : Bool) (s : State) : FrameOf 17 s (execFlexeLockChange k
    locked gid map s) := by
  unfold execFlexeLockChange
  with_reducible repeat' first
    | apply next_fr | exact Frame.refl _ | decide | apply iteo_fr | apply ite_fr | apply State.setB_fr
    | apply State.raiseIf_fr

/-! ### Hkm.lean -/

theorem execHkmTimerExpiry_fr (t : Fin 4) (s : State) : FrameOf 8929301 s (execHkmTimerExpiry t s) := by
  unfold execHkmTimerExpiry State.timerFrom
  with_reducible repeat' first
    | apply State.waitClk_fr | apply State.modHkm_fr
    | apply next_fr | exact Frame.refl _ | decide | apply iteo_fr | apply ite_fr | apply State.hkmTriggers_fr

theorem execHkmPwmEdgeTrigger_fr (k : Fin 8) (falling : Bool) (s : State) : FrameOf 8929301 s (execHkmPwmEdgeTrigger k falling s) := by
  have hF : 8929301 &&& 8929301 = 8929301 := by decide
  unfold execHkmPwmEdgeTrigger
  refine iteo_fr _ ?_ (Frame.refl s)
  extract_lets +onlyGivenNames s1
  have h1 : Frame 8929301 s s1 := State.pwmCatch_fr _ _ (Frame.refl s)
  clear_value s1
  generalize s1.pwmDue k falling = o
  rcases o with _ | t
  · refine iteo_fr _ h1 ?_
    extract_lets s2
    have h2 : Frame 8929301 s s2 := State.pwmCatch_fr _ _ (State.waitClk_fr _ _ h1)
    clear_value s2
    generalize s2.pwmEdgeAt k falling = o
    rcases o with _ | t
    · exact h2
    · exact State.pwmEdge_fr _ _ _ _ h2
  · exact State.pwmEdge_fr _ _ _ _ h1


theorem execHkmPassStart_fr (x : Fin 2) (s : State) : FrameOf 8912900 s (execHkmPassStart x s) := by
  unfold execHkmPassStart
  with_reducible repeat' first
    | apply next_fr | exact Frame.refl _ | decide | apply iteo_fr | apply ite_fr | apply State.modHkmConv_fr
    | apply State.waitClk_fr | split

theorem execHkmConversionResult_fr (x : Fin 2) (m : HkmSample) (s : State) : FrameOf 545800221 s
    (execHkmConversionResult x m s) := by
  have hF : 545800221 &&& 545800221 = 545800221 := by decide
  unfold execHkmConversionResult
  with_reducible repeat' first
    | assumption | intro _ | exact Frame.refl _ | subst x
    | (extract_lets +onlyGivenNames x; first | (have hx : Frame 545800221 s x := ?_; clear_value x) | (have hx : Frame 545800221 s x.1 := ?_; clear_value x) | (have hf := fun a => x a; clear hf) | (have hf : CiphState := x; clear hf) | (have hf : SecState := x; clear hf) | (have hf : LevelSeq := x; clear hf) | (have hf : CstState := x; clear hf) | clear_value x)
    | apply next_fr | apply iteo_fr | apply ite_fr | apply State.setNat_fr | apply State.waitClk_fr
    | apply State.addCnt_fr | apply State.raise_fr | apply State.modHkmConv_fr | apply State.modHkmIn_fr
    | apply State.pilotLose_fr | apply State.filterSample_fr | apply State.thermReading_fr | dsimp only | split
    | decide

theorem execHkmPwmModeWrite_fr (k : Fin 8) (v : Word) (s : State) : FrameOf 524305 s (execHkmPwmModeWrite k v s) := by
  unfold execHkmPwmModeWrite
  with_reducible repeat' first
    | assumption | apply next_fr | exact Frame.refl _ | decide | assumption | apply iteo_fr | apply ite_fr
    | apply itep_fr | apply State.hostWrite_fr | apply State.writePwmCfg_fr | apply State.logAcc_fr | apply foldl_fr
    | intro _
    | (extract_lets +onlyGivenNames x; first | (have hx : Frame 524305 s x := ?_; clear_value x) | (have hx : Frame 524305 s x.1 := ?_; clear_value x) | (have hf := fun a => x a; clear hf) | (have hf : CiphState := x; clear hf) | (have hf : SecState := x; clear hf) | clear_value x)
    | split

theorem execPwmPeriodStart_fr (k : Fin 8) (s : State) : FrameOf 8912900 s (execPwmPeriodStart k s) := by
  unfold execPwmPeriodStart
  with_reducible repeat' first
    | apply next_fr | exact Frame.refl _ | decide | apply iteo_fr | apply ite_fr | apply State.waitClk_fr
    | apply State.pwmCatch_fr | split

theorem execHkmTrigWrite_fr (x : Fin 2) (v : Word) (s : State) : FrameOf 17 s (execHkmTrigWrite x v s) := by
  unfold execHkmTrigWrite
  with_reducible repeat' first
    | assumption | apply next_fr | exact Frame.refl _ | decide | assumption | apply iteo_fr | apply ite_fr
    | apply itep_fr | apply State.hostWrite_fr | apply State.writeTrig_fr | apply foldl_fr | intro _
    | (extract_lets +onlyGivenNames x; first | (have hx : Frame 17 s x := ?_; clear_value x) | (have hx : Frame 17 s x.1 := ?_; clear_value x) | (have hf := fun a => x a; clear hf) | (have hf : CiphState := x; clear hf) | (have hf : SecState := x; clear hf) | clear_value x)
    | split

theorem execHkmIlvWrite_fr (v : Bool) (s : State) : FrameOf 524305 s (execHkmIlvWrite v s) := by
  unfold execHkmIlvWrite
  with_reducible repeat' first
    | assumption | apply next_fr | exact Frame.refl _ | decide | assumption | apply iteo_fr | apply ite_fr
    | apply itep_fr | apply State.hostWrite_fr | apply State.writeHkmCtrl_fr | apply foldl_fr | intro _
    | (extract_lets +onlyGivenNames x; first | (have hx : Frame 524305 s x := ?_; clear_value x) | (have hx : Frame 524305 s x.1 := ?_; clear_value x) | (have hf := fun a => x a; clear hf) | (have hf : CiphState := x; clear hf) | (have hf : SecState := x; clear hf) | clear_value x)
    | split

/-! ### Course.lean -/

theorem execCourseStage_fr (by_ : Source) (target : StageTarget) (s : State) : FrameOf 32785 s (execCourseStage by_
    target s) := by
  unfold execCourseStage
  with_reducible repeat' first
    | apply next_fr | exact Frame.refl _ | decide | apply iteo_fr | apply ite_fr | apply State.logAcc_fr
    | apply State.stagePcie_fr | apply State.stageCop_fr | apply State.emit_fr | split

theorem execCourseCommit_fr (by_ : Source) (mode number : Nat) (t : Time80) (s : State) : FrameOf 32785 s
    (execCourseCommit by_ mode number t s) := by
  unfold execCourseCommit
  with_reducible repeat' first
    | assumption | apply next_fr | exact Frame.refl _ | decide | assumption | apply iteo_fr | apply ite_fr
    | apply itep_fr | apply State.hostWrite_fr | apply State.commitPcie_fr | apply State.setCommit_fr
    | apply State.commit_fr | apply foldl_fr | intro _
    | (extract_lets +onlyGivenNames x; first | (have hx : Frame 32785 s x := ?_; clear_value x) | (have hx : Frame 32785 s x.1 := ?_; clear_value x) | (have hf := fun a => x a; clear hf) | (have hf : CiphState := x; clear hf) | (have hf : SecState := x; clear hf) | clear_value x)
    | split

theorem execCourseDiscard_fr (by_ : Source) (s : State) : FrameOf 32785 s (execCourseDiscard by_ s) := by
  unfold execCourseDiscard
  with_reducible repeat' first
    | assumption | apply next_fr | exact Frame.refl _ | decide | assumption | apply iteo_fr | apply ite_fr
    | apply itep_fr | apply State.byWrite_fr | apply State.discard_fr | apply foldl_fr | intro _
    | (extract_lets +onlyGivenNames x; first | (have hx : Frame 32785 s x := ?_; clear_value x) | (have hx : Frame 32785 s x.1 := ?_; clear_value x) | (have hf := fun a => x a; clear hf) | (have hf : CiphState := x; clear hf) | (have hf : SecState := x; clear hf) | clear_value x)
    | split

theorem execCourseValidationEnd_fr (s : State) : FrameOf 116753 s (execCourseValidationEnd s) := by
  unfold execCourseValidationEnd
  with_reducible repeat' first
    | apply next_fr | exact Frame.refl _ | decide | apply iteo_fr | apply ite_fr | apply State.courseResult_fr
    | apply State.arm_fr | apply State.modCrs_fr | split

theorem execCourseAbort_fr (by_ : Source) (s : State) : FrameOf 51217 s (execCourseAbort by_ s) := by
  unfold execCourseAbort
  with_reducible repeat' first
    | assumption | apply next_fr | exact Frame.refl _ | decide | assumption | apply iteo_fr | apply ite_fr
    | apply itep_fr | apply State.byWrite_fr | apply State.abort_fr | apply foldl_fr | intro _
    | (extract_lets +onlyGivenNames x; first | (have hx : Frame 51217 s x := ?_; clear_value x) | (have hx : Frame 51217 s x.1 := ?_; clear_value x) | (have hf := fun a => x a; clear hf) | (have hf : CiphState := x; clear hf) | (have hf : SecState := x; clear hf) | clear_value x)
    | split

theorem execCourseAbortWindowClose_fr (s : State) : FrameOf 8421380 s (execCourseAbortWindowClose s) := by
  unfold execCourseAbortWindowClose
  with_reducible repeat' first
    | apply next_fr | exact Frame.refl _ | decide | apply iteo_fr | apply ite_fr | apply State.modArmed_fr
    | apply State.waitBefore_fr | split

theorem execCourseStrobe_fr (s : State) : FrameOf 162121949 s (execCourseStrobe s) := by
  unfold execCourseStrobe
  with_reducible repeat' first
    | apply next_fr | exact Frame.refl _ | decide | apply iteo_fr | apply ite_fr | apply State.courseStrobe_fr
    | apply State.waitTb_fr | split

theorem execCourseClientApply_fr (item : Nat) (s : State) : FrameOf 216121361 s (execCourseClientApply item s) := by
  unfold execCourseClientApply
  with_reducible repeat' first
    | apply next_fr | exact Frame.refl _ | decide | apply iteo_fr | apply ite_fr | apply State.coursePort_fr | split

theorem execCourseRxTimeout_fr (n : Lane) (s : State) : FrameOf 182570965 s (execCourseRxTimeout n s) := by
  have hF : 182570965 &&& 182570965 = 182570965 := by decide
  unfold execCourseRxTimeout
  with_reducible repeat' first
    | assumption | intro _ | exact Frame.refl _ | subst x
    | (extract_lets +onlyGivenNames x; first | (have hx : Frame 182570965 s x := ?_; clear_value x) | (have hx : Frame 182570965 s x.1 := ?_; clear_value x) | (have hf := fun a => x a; clear hf) | (have hf : CiphState := x; clear hf) | (have hf : SecState := x; clear hf) | (have hf : LevelSeq := x; clear hf) | (have hf : CstState := x; clear hf) | clear_value x)
    | apply next_fr | apply iteo_fr | apply ite_fr | apply State.setB_fr | apply State.modLfr_fr
    | apply State.waitTb_fr | apply State.raise_fr | apply State.modArmed_fr | apply State.courseRx_fr | dsimp only
    | split | decide

theorem execCourseFarMismatch_fr (n : Lane) (s : State) : FrameOf 8421397 s (execCourseFarMismatch n s) := by
  unfold execCourseFarMismatch
  with_reducible repeat' first
    | apply next_fr | exact Frame.refl _ | decide | apply iteo_fr | apply ite_fr | apply State.waitTb_fr
    | apply State.raise_fr | apply State.setB_fr | apply State.modArmed_fr | split

end Sys2Proof.Machine
end

