-- ==== Sys2Proof/Laws/FrameLines.lean ====
section
/-!
SUPPORT. Which parts of the state a command leaves as they are: the commands of the lanes, PLU, PMON and Levels.
-/

-- one theorem after another: all at once would not fit the memory
set_option Elab.async false
set_option linter.all false

namespace Sys2Proof.Machine

/-! ### Fec.lean -/

theorem execInnerCodewordDone_fr (n : Lane) (soft : List Int) (zr : Bool × Nat) (s : State) : FrameOf 16721 s
    (execInnerCodewordDone n soft zr s) := by
  have hF : 16721 &&& 16721 = 16721 := by decide
  unfold execInnerCodewordDone
  with_reducible repeat' first
    | assumption | intro _ | exact Frame.refl _ | subst x
    | (extract_lets +onlyGivenNames x; first | (have hx : Frame 16721 s x := ?_; clear_value x) | (have hx : Frame 16721 s x.1 := ?_; clear_value x) | (have hf := fun a => x a; clear hf) | (have hf : CiphState := x; clear hf) | (have hf : SecState := x; clear hf) | (have hf : LevelSeq := x; clear hf) | (have hf : CstState := x; clear hf) | clear_value x)
    | apply next_fr | apply iteo_fr | apply ite_fr | apply itep_fr | apply State.raise_fr | apply State.fecCount_fr
    | apply State.innerDecode_fr | apply State.softNext_fr | dsimp only | (apply fst_fr; assumption) | split
    | decide

theorem execOuterBlockEnter_fr (n : Lane) (changed : Nat) (s : State) : FrameOf 16657 s (execOuterBlockEnter n
    changed s) := by
  have hF : 16657 &&& 16657 = 16657 := by decide
  unfold execOuterBlockEnter
  with_reducible repeat' first
    | assumption | intro _ | exact Frame.refl _ | subst x
    | (extract_lets +onlyGivenNames x; first | (have hx : Frame 16657 s x := ?_; clear_value x) | (have hx : Frame 16657 s x.1 := ?_; clear_value x) | (have hf := fun a => x a; clear hf) | (have hf : CiphState := x; clear hf) | (have hf : SecState := x; clear hf) | (have hf : LevelSeq := x; clear hf) | (have hf : CstState := x; clear hf) | clear_value x)
    | apply next_fr | apply iteo_fr | apply ite_fr | apply State.modFec_fr | apply State.fecCount_fr
    | apply State.outerExit_fr | dsimp only | split | decide

theorem execOuterBlockExit_fr (n : Lane) (bad : Nat) (s : State) : FrameOf 16657 s (execOuterBlockExit n bad s) := by
  have hF : 16657 &&& 16657 = 16657 := by decide
  unfold execOuterBlockExit
  with_reducible repeat' first
    | assumption | intro _ | exact Frame.refl _ | subst x
    | (extract_lets +onlyGivenNames x; first | (have hx : Frame 16657 s x := ?_; clear_value x) | (have hx : Frame 16657 s x.1 := ?_; clear_value x) | (have hf := fun a => x a; clear hf) | (have hf : CiphState := x; clear hf) | (have hf : SecState := x; clear hf) | (have hf : LevelSeq := x; clear hf) | (have hf : CstState := x; clear hf) | clear_value x)
    | apply next_fr | apply iteo_fr | apply ite_fr | apply State.blockLeaves_fr | apply State.outerExit_fr
    | dsimp only | split | decide

/-! ### Plu.lean -/

theorem execRefValidChange_fr (r : Fin 32) (s : State) : FrameOf 16793617 s (execRefValidChange r s) := by
  unfold execRefValidChange
  with_reducible repeat' first
    | apply next_fr | exact Frame.refl _ | decide | apply iteo_fr | apply ite_fr | apply State.refChanged_fr | split

theorem execRefActivityLoss_fr (r : Fin 32) (s : State) : FrameOf 16793617 s (execRefActivityLoss r s) := by
  unfold execRefActivityLoss
  with_reducible repeat' first
    | apply next_fr | exact Frame.refl _ | decide | apply iteo_fr | apply ite_fr | apply State.refChanged_fr
    | apply State.setB_fr

theorem execRefActivityReturn_fr (r : Fin 32) (s : State) : FrameOf 16793617 s (execRefActivityReturn r s) := by
  unfold execRefActivityReturn
  with_reducible repeat' first
    | apply next_fr | exact Frame.refl _ | decide | apply iteo_fr | apply ite_fr | apply State.refChanged_fr
    | apply State.setB_fr

theorem execRefFreqWindow_fr (r : Fin 32) (freq : Int) (s : State) : FrameOf 25182229 s (execRefFreqWindow r freq s) := by
  unfold execRefFreqWindow
  with_reducible repeat' first
    | assumption | exact Frame.refl _ | exact id_fr _ | assumption | apply next_fr | apply iteo_fr | apply ite_fr
    | apply itep_fr | apply State.modRef_fr | apply State.waitTb_fr | apply State.freqJudge_fr | apply foldl_fr
    | apply foldlp_fr | intro _
    | (extract_lets +onlyGivenNames x; first | (have hx : Frame 25182229 s x := ?_; clear_value x) | (have hx : Frame 25182229 s x.1 := ?_; clear_value x) | (have hf := fun a => x a; clear hf) | (have hf : CiphState := x; clear hf) | (have hf : SecState := x; clear hf) | clear_value x)
    | subst x | dsimp only | (apply fst_fr; assumption) | split | decide

theorem execRefQualified_fr (r : Fin 32) (s : State) : FrameOf 25182229 s (execRefQualified r s) := by
  unfold execRefQualified
  with_reducible repeat' first
    | apply next_fr | exact Frame.refl _ | decide | apply iteo_fr | apply ite_fr | apply State.waitClk_fr
    | apply State.select_fr | apply State.judgeRef_fr | split

theorem execFreqDisagreeClear_fr (r : Fin 32) (s : State) : FrameOf 25182229 s (execFreqDisagreeClear r s) := by
  unfold execFreqDisagreeClear
  with_reducible repeat' first
    | apply next_fr | exact Frame.refl _ | decide | apply iteo_fr | apply ite_fr | apply State.waitClk_fr
    | apply State.select_fr | apply State.judgeRef_fr | apply State.setB_fr | split

theorem execPluPullEnd_fr (err : Int) (s : State) : FrameOf 25165845 s (execPluPullEnd err s) := by
  have hF : 25165845 &&& 25165845 = 25165845 := by decide
  unfold execPluPullEnd
  with_reducible repeat' first
    | assumption | intro _ | exact Frame.refl _ | subst x
    | (extract_lets +onlyGivenNames x; first | (have hx : Frame 25165845 s x := ?_; clear_value x) | (have hx : Frame 25165845 s x.1 := ?_; clear_value x) | (have hf := fun a => x a; clear hf) | (have hf : CiphState := x; clear hf) | (have hf : SecState := x; clear hf) | (have hf : LevelSeq := x; clear hf) | (have hf : CstState := x; clear hf) | clear_value x)
    | apply next_fr | apply iteo_fr | apply ite_fr | apply State.setB_fr | apply State.setInt_fr
    | apply State.waitClk_fr | apply State.modPlu_fr | apply State.settleStep_fr | apply State.pluTrack_fr
    | dsimp only | split | decide

theorem execPluLockAchieved_fr (err : Int) (s : State) : FrameOf 25165829 s (execPluLockAchieved err s) := by
  unfold execPluLockAchieved
  with_reducible repeat' first
    | apply State.pluTrack_fr | apply next_fr | exact Frame.refl _ | decide | apply iteo_fr | apply ite_fr | apply State.waitClk_fr
    | apply State.modPlu_fr | apply State.setInt_fr | apply State.set_fr | apply State.showOutputs_fr
    | apply State.setReg_fr

theorem execPluLockLoss_fr (err : Int) (s : State) : FrameOf 16777233 s (execPluLockLoss err s) := by
  have hF : 16777233 &&& 16777233 = 16777233 := by decide
  unfold execPluLockLoss
  with_reducible repeat' first
    | assumption | intro _ | exact Frame.refl _ | subst x
    | (extract_lets +onlyGivenNames x; first | (have hx : Frame 16777233 s x := ?_; clear_value x) | (have hx : Frame 16777233 s x.1 := ?_; clear_value x) | (have hf := fun a => x a; clear hf) | (have hf : CiphState := x; clear hf) | (have hf : SecState := x; clear hf) | (have hf : LevelSeq := x; clear hf) | (have hf : CstState := x; clear hf) | clear_value x)
    | apply next_fr | apply iteo_fr | apply ite_fr | apply State.setInt_fr | apply State.modPlu_fr
    | apply State.acquire_fr | dsimp only | split | decide

theorem execPluAcqLimit_fr (s : State) : FrameOf 25182229 s (execPluAcqLimit s) := by
  have hF : 25182229 &&& 25182229 = 25182229 := by decide
  unfold execPluAcqLimit
  with_reducible repeat' first
    | assumption | intro _ | exact Frame.refl _ | subst x
    | (extract_lets +onlyGivenNames x; first | (have hx : Frame 25182229 s x := ?_; clear_value x) | (have hx : Frame 25182229 s x.1 := ?_; clear_value x) | (have hf := fun a => x a; clear hf) | (have hf : CiphState := x; clear hf) | (have hf : SecState := x; clear hf) | (have hf : LevelSeq := x; clear hf) | (have hf : CstState := x; clear hf) | clear_value x)
    | apply next_fr | apply iteo_fr | apply ite_fr | apply State.setB_fr | apply State.waitClk_fr
    | apply State.raise_fr | apply State.modRef_fr | apply State.settleStep_fr | apply State.judgeRef_fr
    | apply State.select_fr | dsimp only | split | decide

theorem execAcqHoldExpiry_fr (r : Fin 32) (s : State) : FrameOf 25182229 s (execAcqHoldExpiry r s) := by
  unfold execAcqHoldExpiry
  with_reducible repeat' first
    | apply next_fr | exact Frame.refl _ | decide | apply iteo_fr | apply ite_fr | apply State.waitClk_fr
    | apply State.modRef_fr | apply State.setB_fr | apply State.select_fr | apply State.judgeRef_fr | split

theorem execWtrExpiry_fr (e : Fin 16) (s : State) : FrameOf 25182229 s (execWtrExpiry e s) := by
  unfold execWtrExpiry
  with_reducible repeat' first
    | apply next_fr | exact Frame.refl _ | decide | apply iteo_fr | apply ite_fr | apply State.select_fr
    | apply State.waitClk_fr | split

theorem execHoldoverLimit_fr (s : State) : FrameOf 25165845 s (execHoldoverLimit s) := by
  unfold execHoldoverLimit
  with_reducible repeat' first
    | apply next_fr | exact Frame.refl _ | decide | apply iteo_fr | apply ite_fr | apply State.waitClk_fr
    | apply State.modPlu_fr | apply State.enterLost_fr | split

theorem execOscinRestored_fr (s : State) : FrameOf 25182229 s (execOscinRestored s) := by
  have hF : 25182229 &&& 25182229 = 25182229 := by decide
  unfold execOscinRestored
  with_reducible repeat' first
    | assumption | intro _ | exact Frame.refl _ | subst x
    | (extract_lets +onlyGivenNames x; first | (have hx : Frame 25182229 s x := ?_; clear_value x) | (have hx : Frame 25182229 s x.1 := ?_; clear_value x) | (have hf := fun a => x a; clear hf) | (have hf : CiphState := x; clear hf) | (have hf : SecState := x; clear hf) | (have hf : LevelSeq := x; clear hf) | (have hf : CstState := x; clear hf) | clear_value x)
    | apply next_fr | apply iteo_fr | apply ite_fr | apply State.waitClk_fr | apply State.enterHoldover_fr
    | apply State.enterFreerun_fr | apply State.select_fr | dsimp only | split | decide

theorem execPluHistorySecond_fr (freq : Int) (s : State) : FrameOf 25165829 s (execPluHistorySecond freq s) := by
  have hF : 25165829 &&& 25165829 = 25165829 := by decide
  unfold execPluHistorySecond
  with_reducible repeat' first
    | assumption | intro _ | exact Frame.refl _ | subst x
    | (extract_lets +onlyGivenNames x; first | (have hx : Frame 25165829 s x := ?_; clear_value x) | (have hx : Frame 25165829 s x.1 := ?_; clear_value x) | (have hf := fun a => x a; clear hf) | (have hf : CiphState := x; clear hf) | (have hf : SecState := x; clear hf) | (have hf : LevelSeq := x; clear hf) | (have hf : CstState := x; clear hf) | clear_value x)
    | apply next_fr | apply iteo_fr | apply ite_fr | apply State.setB_fr | apply State.waitTb_fr
    | apply State.modPlu_fr | apply State.showFreq_fr | dsimp only | split | decide

theorem execPluClrHist_fr (s : State) : FrameOf 16777233 s (execPluClrHist s) := by
  unfold execPluClrHist
  with_reducible repeat' first
    | assumption | apply next_fr | exact Frame.refl _ | decide | assumption | apply iteo_fr | apply ite_fr
    | apply itep_fr | apply State.hostWrite_fr | apply State.clearHist_fr | apply foldl_fr | intro _
    | (extract_lets +onlyGivenNames x; first | (have hx : Frame 16777233 s x := ?_; clear_value x) | (have hx : Frame 16777233 s x.1 := ?_; clear_value x) | (have hf := fun a => x a; clear hf) | (have hf : CiphState := x; clear hf) | (have hf : SecState := x; clear hf) | clear_value x)
    | split

theorem execPluEnWrite_fr (v : Bool) (s : State) : FrameOf 16793617 s (execPluEnWrite v s) := by
  unfold execPluEnWrite
  with_reducible repeat' first
    | assumption | apply next_fr | exact Frame.refl _ | decide | assumption | apply iteo_fr | apply ite_fr
    | apply itep_fr | apply State.hostWrite_fr | apply State.writePluEn_fr | apply foldl_fr | intro _
    | (extract_lets +onlyGivenNames x; first | (have hx : Frame 16793617 s x := ?_; clear_value x) | (have hx : Frame 16793617 s x.1 := ?_; clear_value x) | (have hf := fun a => x a; clear hf) | (have hf : CiphState := x; clear hf) | (have hf : SecState := x; clear hf) | clear_value x)
    | split

theorem execPluForceHoldWrite_fr (v : Bool) (s : State) : FrameOf 16793617 s (execPluForceHoldWrite v s) := by
  unfold execPluForceHoldWrite
  with_reducible repeat' first
    | assumption | apply next_fr | exact Frame.refl _ | decide | assumption | apply iteo_fr | apply ite_fr
    | apply itep_fr | apply State.hostWrite_fr | apply State.writeForceHold_fr | apply foldl_fr | intro _
    | (extract_lets +onlyGivenNames x; first | (have hx : Frame 16793617 s x := ?_; clear_value x) | (have hx : Frame 16793617 s x.1 := ?_; clear_value x) | (have hf := fun a => x a; clear hf) | (have hf : CiphState := x; clear hf) | (have hf : SecState := x; clear hf) | clear_value x)
    | split

theorem execPluPhaseStepWrite_fr (v : Word) (s : State) : FrameOf 16777233 s (execPluPhaseStepWrite v s) := by
  unfold execPluPhaseStepWrite
  with_reducible repeat' first
    | assumption | apply next_fr | exact Frame.refl _ | decide | assumption | apply iteo_fr | apply ite_fr
    | apply itep_fr | apply State.hostWrite_fr | apply State.addPhaseStep_fr | apply foldl_fr | intro _
    | (extract_lets +onlyGivenNames x; first | (have hx : Frame 16777233 s x := ?_; clear_value x) | (have hx : Frame 16777233 s x.1 := ?_; clear_value x) | (have hf := fun a => x a; clear hf) | (have hf : CiphState := x; clear hf) | (have hf : SecState := x; clear hf) | clear_value x)
    | split

theorem execPluStepDone_fr (s : State) : FrameOf 25165845 s (execPluStepDone s) := by
  have hF : 25165845 &&& 25165845 = 25165845 := by decide
  unfold execPluStepDone
  with_reducible repeat' first
    | assumption | intro _ | exact Frame.refl _ | subst x
    | (extract_lets +onlyGivenNames x; first | (have hx : Frame 25165845 s x := ?_; clear_value x) | (have hx : Frame 25165845 s x.1 := ?_; clear_value x) | (have hf := fun a => x a; clear hf) | (have hf : CiphState := x; clear hf) | (have hf : SecState := x; clear hf) | (have hf : LevelSeq := x; clear hf) | (have hf : CstState := x; clear hf) | clear_value x)
    | apply next_fr | apply iteo_fr | apply ite_fr | apply State.waitClk_fr | apply State.settleStep_fr | dsimp only
    | split | decide

theorem execClkoutFreqWrite_fr (k : Fin 4) (v : Word) (s : State) : FrameOf 17 s (execClkoutFreqWrite k v s) := by
  unfold execClkoutFreqWrite
  with_reducible repeat' first
    | assumption | apply next_fr | exact Frame.refl _ | decide | assumption | apply iteo_fr | apply ite_fr
    | apply itep_fr | apply State.hostWrite_fr | apply State.writeClkout_fr | apply State.told_fr | apply foldl_fr
    | intro _
    | (extract_lets +onlyGivenNames x; first | (have hx : Frame 17 s x := ?_; clear_value x) | (have hx : Frame 17 s x.1 := ?_; clear_value x) | (have hf := fun a => x a; clear hf) | (have hf : CiphState := x; clear hf) | (have hf : SecState := x; clear hf) | clear_value x)
    | split

/-! ### Pmon.lean -/

theorem execPmonSecondEval_fr (s : State) : FrameOf 8389653 s (execPmonSecondEval s) := by
  have hF : 8389653 &&& 8389653 = 8389653 := by decide
  unfold execPmonSecondEval
  with_reducible repeat' first
    | assumption | intro _ | exact Frame.refl _ | subst x
    | (extract_lets +onlyGivenNames x; first | (have hx : Frame 8389653 s x := ?_; clear_value x) | (have hx : Frame 8389653 s x.1 := ?_; clear_value x) | (have hf := fun a => x a; clear hf) | (have hf : CiphState := x; clear hf) | (have hf : SecState := x; clear hf) | (have hf : LevelSeq := x; clear hf) | (have hf : CstState := x; clear hf) | clear_value x)
    | apply next_fr | apply iteo_fr | apply ite_fr | apply State.eachLane_fr_of | apply State.touch_fr
    | apply State.evalLane_fr | apply State.waitEval_fr | dsimp only | split | decide

theorem execBinFinal_fr (day : Bool) (s : State) : FrameOf 8389636 s (execBinFinal day s) := by
  unfold execBinFinal
  with_reducible repeat' first
    | assumption | apply next_fr | exact Frame.refl _ | decide | assumption | apply iteo_fr | apply ite_fr
    | apply itep_fr | apply State.waitTb_fr | apply State.eachLane_fr | apply State.modPmon_fr | apply foldl_fr
    | intro _
    | (extract_lets +onlyGivenNames x; first | (have hx : Frame 8389636 s x := ?_; clear_value x) | (have hx : Frame 8389636 s x.1 := ?_; clear_value x) | (have hf := fun a => x a; clear hf) | (have hf : CiphState := x; clear hf) | (have hf : SecState := x; clear hf) | clear_value x)
    | split

theorem execPmonClrCur_fr (n : Lane) (s : State) : FrameOf 1041 s (execPmonClrCur n s) := by
  unfold execPmonClrCur
  with_reducible repeat' first
    | assumption | apply next_fr | exact Frame.refl _ | decide | assumption | apply iteo_fr | apply ite_fr
    | apply itep_fr | apply State.hostWrite_fr | apply State.clearBins_fr | apply foldl_fr | intro _
    | (extract_lets +onlyGivenNames x; first | (have hx : Frame 1041 s x := ?_; clear_value x) | (have hx : Frame 1041 s x.1 := ?_; clear_value x) | (have hf := fun a => x a; clear hf) | (have hf : CiphState := x; clear hf) | (have hf : SecState := x; clear hf) | clear_value x)
    | split

theorem execPmonMetricSample_fr (n : Lane) (s : State) : FrameOf 8389653 s (execPmonMetricSample n s) := by
  have hF : 8389653 &&& 8389653 = 8389653 := by decide
  unfold execPmonMetricSample
  with_reducible repeat' first
    | assumption | intro _ | exact Frame.refl _ | subst x
    | (extract_lets +onlyGivenNames x; first | (have hx : Frame 8389653 s x := ?_; clear_value x) | (have hx : Frame 8389653 s x.1 := ?_; clear_value x) | (have hf := fun a => x a; clear hf) | (have hf : CiphState := x; clear hf) | (have hf : SecState := x; clear hf) | (have hf : LevelSeq := x; clear hf) | (have hf : CstState := x; clear hf) | clear_value x)
    | apply next_fr | apply iteo_fr | apply ite_fr | apply State.modPmon_fr | apply State.waitTb_fr
    | apply State.touch_fr | apply State.gauge_fr | dsimp only | split | decide

/-! ### Level.lean -/

theorem execLevelPeriodic_fr (s : State) : FrameOf 29910133 s (execLevelPeriodic s) := by
  have hF : 29910133 &&& 29910133 = 29910133 := by decide
  unfold execLevelPeriodic
  with_reducible repeat' first
    | assumption | intro _ | exact Frame.refl _ | subst x
    | (extract_lets +onlyGivenNames x; first | (have hx : Frame 29910133 s x := ?_; clear_value x) | (have hx : Frame 29910133 s x.1 := ?_; clear_value x) | (have hf := fun a => x a; clear hf) | (have hf : CiphState := x; clear hf) | (have hf : SecState := x; clear hf) | (have hf : LevelSeq := x; clear hf) | (have hf : CstState := x; clear hf) | clear_value x)
    | apply next_fr | apply iteo_fr | apply ite_fr | apply State.waitTb_fr | apply State.strobe_fr | dsimp only
    | split | refine Frame.raw ?_ | decide

theorem execLevelQ15_fr (s : State) : FrameOf 29910133 s (execLevelQ15 s) := by
  unfold execLevelQ15
  with_reducible repeat' first
    | apply next_fr | exact Frame.refl _ | decide | apply iteo_fr | apply ite_fr | apply State.waitTb_fr
    | apply State.strobe_fr

theorem execLevelD24_fr (s : State) : FrameOf 29910133 s (execLevelD24 s) := by
  unfold execLevelD24
  with_reducible repeat' first
    | apply next_fr | exact Frame.refl _ | decide | apply iteo_fr | apply ite_fr | apply State.waitTb_fr
    | apply State.strobe_fr

theorem execLevelScheduled_fr (slot : Fin 16) (s : State) : FrameOf 29910133 s (execLevelScheduled slot s) := by
  have hF : 29910133 &&& 29910133 = 29910133 := by decide
  unfold execLevelScheduled
  with_reducible repeat' first
    | assumption | exact Frame.refl _ | exact id_fr _ | assumption | apply next_fr | apply iteo_fr | apply ite_fr
    | apply itep_fr | apply State.waitTb_fr | apply State.strobe_fr | apply foldl_fr | apply foldlp_fr | intro _
    | (extract_lets +onlyGivenNames x; first | (have hx : Frame 29910133 s x := ?_; clear_value x) | (have hx : Frame 29910133 s x.1 := ?_; clear_value x) | (have hf := fun a => x a; clear hf) | (have hf : CiphState := x; clear hf) | (have hf : SecState := x; clear hf) | clear_value x)
    | subst x | dsimp only | (apply fst_fr; assumption) | split | refine Frame.raw ?_ | decide

theorem execLevelHost_fr (by_ : Source) (s : State) : FrameOf 29910133 s (execLevelHost by_ s) := by
  unfold execLevelHost
  with_reducible repeat' first
    | assumption | apply next_fr | exact Frame.refl _ | decide | assumption | apply iteo_fr | apply ite_fr
    | apply itep_fr | apply State.byWrite_fr | apply State.hostLevelNow_fr | apply foldl_fr | intro _
    | (extract_lets +onlyGivenNames x; first | (have hx : Frame 29910133 s x := ?_; clear_value x) | (have hx : Frame 29910133 s x.1 := ?_; clear_value x) | (have hf := fun a => x a; clear hf) | (have hf : CiphState := x; clear hf) | (have hf : SecState := x; clear hf) | clear_value x)
    | split

theorem execLevelFreezeEnd_fr (isl : Island) (s : State) : FrameOf 8413189 s (execLevelFreezeEnd isl s) := by
  have hF : 8413189 &&& 8413189 = 8413189 := by decide
  unfold execLevelFreezeEnd
  with_reducible repeat' first
    | assumption | intro _ | exact Frame.refl _ | subst x
    | (extract_lets +onlyGivenNames x; first | (have hx : Frame 8413189 s x := ?_; clear_value x) | (have hx : Frame 8413189 s x.1 := ?_; clear_value x) | (have hf := fun a => x a; clear hf) | (have hf : CiphState := x; clear hf) | (have hf : SecState := x; clear hf) | (have hf : LevelSeq := x; clear hf) | (have hf : CstState := x; clear hf) | clear_value x)
    | apply next_fr | apply iteo_fr | apply ite_fr | apply State.waitClk_fr | apply State.flushHeld_fr | dsimp only
    | split | refine Frame.raw ?_ | decide

theorem execLevelCopyStart_fr (s : State) : FrameOf 24576 s (execLevelCopyStart s) := by
  have hF : 24576 &&& 24576 = 24576 := by decide
  unfold execLevelCopyStart
  with_reducible repeat' first
    | assumption | exact Frame.refl _ | exact id_fr _ | assumption | apply next_fr | apply iteo_fr | apply ite_fr
    | apply itep_fr | apply foldl_fr | apply foldlp_fr | intro _
    | (extract_lets +onlyGivenNames x; first | (have hx : Frame 24576 s x := ?_; clear_value x) | (have hx : Frame 24576 s x.1 := ?_; clear_value x) | (have hf := fun a => x a; clear hf) | (have hf : CiphState := x; clear hf) | (have hf : SecState := x; clear hf) | clear_value x)
    | subst x | dsimp only | (apply fst_fr; assumption) | split | refine Frame.raw ?_ | decide

theorem execLevelCopyComplete_fr (s : State) : FrameOf 335552529 s (execLevelCopyComplete s) := by
  have hF : 335552529 &&& 335552529 = 335552529 := by decide
  unfold execLevelCopyComplete
  split
  · exact Frame.refl s
  · exact State.streamsDue_fr _ _ (State.raise_fr _ _ (Frame.raw (Frame.refl s)))

theorem execLevelScheduleWrite_fr (by_ : Source) (slot : Fin 16) (t : Time80) (s : State) : FrameOf 8209 s
    (execLevelScheduleWrite by_ slot t s) := by
  unfold execLevelScheduleWrite
  with_reducible repeat' first
    | assumption | apply next_fr | exact Frame.refl _ | decide | assumption | apply iteo_fr | apply ite_fr
    | apply itep_fr | apply State.byWrite_fr | apply State.scheduleSlot_fr | apply State.setTime80_fr | apply foldl_fr
    | intro _
    | (extract_lets +onlyGivenNames x; first | (have hx : Frame 8209 s x := ?_; clear_value x) | (have hx : Frame 8209 s x.1 := ?_; clear_value x) | (have hf := fun a => x a; clear hf) | (have hf : CiphState := x; clear hf) | (have hf : SecState := x; clear hf) | clear_value x)
    | split

theorem execLevelHold_fr (by_ : Source) (s : State) : FrameOf 8209 s (execLevelHold by_ s) := by
  unfold execLevelHold
  with_reducible repeat' first
    | assumption | apply next_fr | exact Frame.refl _ | decide | assumption | apply iteo_fr | apply ite_fr
    | apply itep_fr | apply State.byWrite_fr | apply State.holdLevel_fr | apply foldl_fr | intro _
    | (extract_lets +onlyGivenNames x; first | (have hx : Frame 8209 s x := ?_; clear_value x) | (have hx : Frame 8209 s x.1 := ?_; clear_value x) | (have hf := fun a => x a; clear hf) | (have hf : CiphState := x; clear hf) | (have hf : SecState := x; clear hf) | clear_value x)
    | split

theorem execLevelRelease_fr (by_ : Source) (s : State) : FrameOf 8209 s (execLevelRelease by_ s) := by
  unfold execLevelRelease
  with_reducible repeat' first
    | assumption | apply next_fr | exact Frame.refl _ | decide | assumption | apply iteo_fr | apply ite_fr
    | apply itep_fr | apply State.byWrite_fr | apply State.answer_fr | apply State.releaseLevel_fr | apply foldl_fr
    | intro _
    | (extract_lets +onlyGivenNames x; first | (have hx : Frame 8209 s x := ?_; clear_value x) | (have hx : Frame 8209 s x.1 := ?_; clear_value x) | (have hf := fun a => x a; clear hf) | (have hf : CiphState := x; clear hf) | (have hf : SecState := x; clear hf) | clear_value x)
    | split

theorem execLevelMixClear_fr (s : State) : FrameOf 17 s (execLevelMixClear s) := by
  unfold execLevelMixClear
  with_reducible repeat' first
    | assumption | apply next_fr | exact Frame.refl _ | decide | assumption | apply iteo_fr | apply ite_fr
    | apply itep_fr | apply State.hostWrite_fr | apply State.clearMix_fr | apply foldl_fr | intro _
    | (extract_lets +onlyGivenNames x; first | (have hx : Frame 17 s x := ?_; clear_value x) | (have hx : Frame 17 s x.1 := ?_; clear_value x) | (have hf := fun a => x a; clear hf) | (have hf : CiphState := x; clear hf) | (have hf : SecState := x; clear hf) | clear_value x)
    | split

/-! ### Lfr.lean -/

theorem execSdWindowEnd_fr (n : Lane) (s : State) : FrameOf 529 s (execSdWindowEnd n s) := by
  unfold execSdWindowEnd
  with_reducible repeat' first
    | apply next_fr | exact Frame.refl _ | decide | apply iteo_fr | apply ite_fr | apply State.sdWindow_fr | split

theorem execDownstreamAisChange_fr (n : Lane) (s : State) : FrameOf 1 s (execDownstreamAisChange n s) := by
  unfold execDownstreamAisChange
  with_reducible repeat' first
    | apply next_fr | exact Frame.refl _ | decide | apply iteo_fr | apply ite_fr | apply State.aisApply_fr

/-! ### Conv.lean -/

theorem execSpareRetireWrite_fr (n : Lane) (k : Fin 16) (pos : BitVec 7) (s : State) : FrameOf 49 s
    (execSpareRetireWrite n k pos s) := by
  unfold execSpareRetireWrite
  with_reducible repeat' first
    | assumption | apply next_fr | exact Frame.refl _ | decide | assumption | apply iteo_fr | apply ite_fr
    | apply itep_fr | apply State.hostWrite_fr | apply State.writeRetire_fr | apply foldl_fr | intro _
    | (extract_lets +onlyGivenNames x; first | (have hx : Frame 49 s x := ?_; clear_value x) | (have hx : Frame 49 s x.1 := ?_; clear_value x) | (have hf := fun a => x a; clear hf) | (have hf : CiphState := x; clear hf) | (have hf : SecState := x; clear hf) | clear_value x)
    | split

theorem execSpareTakeoverSwitch_fr (n : Lane) (k : Fin 16) (s : State) : FrameOf 33 s (execSpareTakeoverSwitch n k s) := by
  unfold execSpareTakeoverSwitch
  with_reducible repeat' first
    | apply next_fr | exact Frame.refl _ | decide | apply iteo_fr | apply ite_fr | apply State.set_fr
    | apply State.setSpare_fr | split

theorem execConvAdcEnWrite_fr (n : Lane) (v : Bool) (s : State) : FrameOf 49 s (execConvAdcEnWrite n v s) := by
  unfold execConvAdcEnWrite
  with_reducible repeat' first
    | assumption | apply next_fr | exact Frame.refl _ | decide | assumption | apply iteo_fr | apply ite_fr
    | apply itep_fr | apply State.hostWrite_fr | apply State.writeConvEn_fr | apply foldl_fr | intro _
    | (extract_lets +onlyGivenNames x; first | (have hx : Frame 49 s x := ?_; clear_value x) | (have hx : Frame 49 s x.1 := ?_; clear_value x) | (have hf := fun a => x a; clear hf) | (have hf : CiphState := x; clear hf) | (have hf : SecState := x; clear hf) | clear_value x)
    | split

theorem execConvDacEnWrite_fr (n : Lane) (v : Bool) (s : State) : FrameOf 49 s (execConvDacEnWrite n v s) := by
  unfold execConvDacEnWrite
  with_reducible repeat' first
    | assumption | apply next_fr | exact Frame.refl _ | decide | assumption | apply iteo_fr | apply ite_fr
    | apply itep_fr | apply State.hostWrite_fr | apply State.writeConvEn_fr | apply foldl_fr | intro _
    | (extract_lets +onlyGivenNames x; first | (have hx : Frame 49 s x := ?_; clear_value x) | (have hx : Frame 49 s x.1 := ?_; clear_value x) | (have hf := fun a => x a; clear hf) | (have hf : CiphState := x; clear hf) | (have hf : SecState := x; clear hf) | clear_value x)
    | split

theorem execConvDacMuteWrite_fr (n : Lane) (v : Bool) (s : State) : FrameOf 17 s (execConvDacMuteWrite n v s) := by
  unfold execConvDacMuteWrite
  with_reducible repeat' first
    | assumption | apply next_fr | exact Frame.refl _ | decide | assumption | apply iteo_fr | apply ite_fr
    | apply itep_fr | apply State.hostWrite_fr | apply State.setB_fr | apply foldl_fr | intro _
    | (extract_lets +onlyGivenNames x; first | (have hx : Frame 17 s x := ?_; clear_value x) | (have hx : Frame 17 s x.1 := ?_; clear_value x) | (have hf := fun a => x a; clear hf) | (have hf : CiphState := x; clear hf) | (have hf : SecState := x; clear hf) | clear_value x)
    | split

theorem execConvSettled_fr (n : Lane) (side : Side) (delay : Nat) (s : State) : FrameOf 49 s (execConvSettled n side
    delay s) := by
  have hF : 49 &&& 49 = 49 := by decide
  unfold execConvSettled
  with_reducible repeat' first
    | assumption | intro _ | exact Frame.refl _ | subst x
    | (extract_lets +onlyGivenNames x; first | (have hx : Frame 49 s x := ?_; clear_value x) | (have hx : Frame 49 s x.1 := ?_; clear_value x) | (have hf := fun a => x a; clear hf) | (have hf : CiphState := x; clear hf) | (have hf : SecState := x; clear hf) | (have hf : LevelSeq := x; clear hf) | (have hf : CstState := x; clear hf) | clear_value x)
    | apply next_fr | apply iteo_fr | apply ite_fr | apply State.setNat_fr | apply State.convMove_fr
    | apply State.convRegain_fr | dsimp only | split | decide

theorem execConvUnlock_fr (n : Lane) (side : Side) (s : State) : FrameOf 49 s (execConvUnlock n side s) := by
  unfold execConvUnlock
  with_reducible repeat' first | apply next_fr | exact Frame.refl _ | decide | apply State.convUnlock_fr

theorem execSamplingRefLoss_fr (die : Fin 4) (s : State) : FrameOf 4145 s (execSamplingRefLoss die s) := by
  have hF : 4145 &&& 4145 = 4145 := by decide
  unfold execSamplingRefLoss
  with_reducible repeat' first
    | assumption | intro _ | exact Frame.refl _ | subst x
    | (extract_lets +onlyGivenNames x; first | (have hx : Frame 4145 s x := ?_; clear_value x) | (have hx : Frame 4145 s x.1 := ?_; clear_value x) | (have hf := fun a => x a; clear hf) | (have hf : CiphState := x; clear hf) | (have hf : SecState := x; clear hf) | (have hf : LevelSeq := x; clear hf) | (have hf : CstState := x; clear hf) | clear_value x)
    | apply next_fr | apply iteo_fr | apply ite_fr | apply State.setB_fr | apply State.raise_fr
    | apply State.convRefLost_fr | apply foldl_fr_of | dsimp only | split | refine Frame.raw ?_ | decide

theorem execSamplingRefReturn_fr (die : Fin 4) (s : State) : FrameOf 4145 s (execSamplingRefReturn die s) := by
  have hF : 4145 &&& 4145 = 4145 := by decide
  unfold execSamplingRefReturn
  with_reducible repeat' first
    | assumption | exact Frame.refl _ | exact id_fr _ | assumption | apply next_fr | apply iteo_fr | apply ite_fr
    | apply itep_fr | apply State.convRegain_fr | apply State.setB_fr | apply foldl_fr | apply foldlp_fr | intro _
    | (extract_lets +onlyGivenNames x; first | (have hx : Frame 4145 s x := ?_; clear_value x) | (have hx : Frame 4145 s x.1 := ?_; clear_value x) | (have hf := fun a => x a; clear hf) | (have hf : CiphState := x; clear hf) | (have hf : SecState := x; clear hf) | clear_value x)
    | subst x | dsimp only | (apply fst_fr; assumption) | split | refine Frame.raw ?_ | decide

theorem execCaptureArm_fr (n : Lane) (cfg : Word) (s : State) : FrameOf 49 s (execCaptureArm n cfg s) := by
  unfold execCaptureArm
  with_reducible repeat' first
    | assumption | apply next_fr | exact Frame.refl _ | decide | assumption | apply iteo_fr | apply ite_fr
    | apply itep_fr | apply State.hostWrite_fr | apply State.capArm_fr | apply foldl_fr | intro _
    | (extract_lets +onlyGivenNames x; first | (have hx : Frame 49 s x := ?_; clear_value x) | (have hx : Frame 49 s x.1 := ?_; clear_value x) | (have hf := fun a => x a; clear hf) | (have hf : CiphState := x; clear hf) | (have hf : SecState := x; clear hf) | clear_value x)
    | split

theorem execCaptureFire_fr (n : Lane) (s : State) : FrameOf 49 s (execCaptureFire n s) := by
  unfold execCaptureFire
  with_reducible repeat' first
    | assumption | apply next_fr | exact Frame.refl _ | decide | assumption | apply iteo_fr | apply ite_fr
    | apply itep_fr | apply State.hostWrite_fr | apply State.capFire_fr | apply foldl_fr | intro _
    | (extract_lets +onlyGivenNames x; first | (have hx : Frame 49 s x := ?_; clear_value x) | (have hx : Frame 49 s x.1 := ?_; clear_value x) | (have hf := fun a => x a; clear hf) | (have hf : CiphState := x; clear hf) | (have hf : SecState := x; clear hf) | clear_value x)
    | split

theorem execCaptureComplete_fr (n : Lane) (s : State) : FrameOf 2097201 s (execCaptureComplete n s) := by
  unfold execCaptureComplete
  with_reducible repeat' first
    | apply next_fr | exact Frame.refl _ | decide | apply iteo_fr | apply ite_fr | apply State.modConv_fr
    | apply State.setB_fr | apply State.set_fr | apply State.memClean_fr | apply State.raise_fr
    | apply State.setTime80_fr

/-! ### Rxd.lean -/

theorem execLoHostWrite_fr (n : Lane) (v : BitVec 24) (s : State) : FrameOf 81 s (execLoHostWrite n v s) := by
  unfold execLoHostWrite
  with_reducible repeat' first
    | assumption | apply next_fr | exact Frame.refl _ | decide | assumption | apply iteo_fr | apply ite_fr
    | apply itep_fr | apply State.hostWrite_fr | apply State.writeLoHost_fr | apply State.logAcc_fr | apply foldl_fr
    | intro _
    | (extract_lets +onlyGivenNames x; first | (have hx : Frame 81 s x := ?_; clear_value x) | (have hx : Frame 81 s x.1 := ?_; clear_value x) | (have hf := fun a => x a; clear hf) | (have hf : CiphState := x; clear hf) | (have hf : SecState := x; clear hf) | clear_value x)
    | split

theorem execLosWindowEnd_fr (n : Lane) (power : Nat) (s : State) : FrameOf 46157777 s (execLosWindowEnd n power s) :=
    by
  have hF : 46157777 &&& 46157777 = 46157777 := by decide
  unfold execLosWindowEnd
  with_reducible repeat' first
    | assumption | intro _ | exact Frame.refl _ | subst x
    | (extract_lets +onlyGivenNames x; first | (have hx : Frame 46157777 s x := ?_; clear_value x) | (have hx : Frame 46157777 s x.1 := ?_; clear_value x) | (have hf := fun a => x a; clear hf) | (have hf : CiphState := x; clear hf) | (have hf : SecState := x; clear hf) | (have hf : LevelSeq := x; clear hf) | (have hf : CstState := x; clear hf) | clear_value x)
    | apply next_fr | apply iteo_fr | apply ite_fr | apply State.modRxd_fr | apply State.losAssert_fr
    | apply State.losClear_fr | dsimp only | split | decide

theorem execAdcGroup_fr (n : Lane) (outside : List (List (Nat × Bool))) (codes : List (List Byte)) (s : State) :
    FrameOf 46155761 s (execAdcGroup n outside codes s) := by
  have hF : 46155761 &&& 46155761 = 46155761 := by decide
  unfold execAdcGroup
  with_reducible repeat' first
    | assumption | intro _ | exact Frame.refl _ | subst x
    | (extract_lets +onlyGivenNames x; first | (have hx : Frame 46155761 s x := ?_; clear_value x) | (have hx : Frame 46155761 s x.1 := ?_; clear_value x) | (have hf := fun a => x a; clear hf) | (have hf : CiphState := x; clear hf) | (have hf : SecState := x; clear hf) | (have hf : LevelSeq := x; clear hf) | (have hf : CstState := x; clear hf) | clear_value x)
    | exact id_fr _ | apply next_fr | apply iteo_fr | apply ite_fr | apply State.modConv_fr
    | apply State.capGroup_fr | apply State.rxdGroup_fr | apply State.losAssert_fr | apply State.adcChannel_fr
    | apply foldl_fr_of | dsimp only | split | decide

theorem execRxdEnWrite_fr (n : Lane) (v : Bool) (s : State) : FrameOf 46157777 s (execRxdEnWrite n v s) := by
  unfold execRxdEnWrite
  with_reducible repeat' first
    | assumption | apply next_fr | exact Frame.refl _ | decide | assumption | apply iteo_fr | apply ite_fr
    | apply itep_fr | apply State.hostWrite_fr | apply State.writeRxdEn_fr | apply foldl_fr | intro _
    | (extract_lets +onlyGivenNames x; first | (have hx : Frame 46157777 s x := ?_; clear_value x) | (have hx : Frame 46157777 s x.1 := ?_; clear_value x) | (have hf := fun a => x a; clear hf) | (have hf : CiphState := x; clear hf) | (have hf : SecState := x; clear hf) | clear_value x)
    | split

theorem execRxdAcqRestart_fr (n : Lane) (s : State) : FrameOf 46157777 s (execRxdAcqRestart n s) := by
  unfold execRxdAcqRestart
  with_reducible repeat' first
    | assumption | apply next_fr | exact Frame.refl _ | decide | assumption | apply iteo_fr | apply ite_fr
    | apply itep_fr | apply State.hostWrite_fr | apply State.acqRestart_fr | apply foldl_fr | intro _
    | (extract_lets +onlyGivenNames x; first | (have hx : Frame 46157777 s x := ?_; clear_value x) | (have hx : Frame 46157777 s x.1 := ?_; clear_value x) | (have hf := fun a => x a; clear hf) | (have hf : CiphState := x; clear hf) | (have hf : SecState := x; clear hf) | clear_value x)
    | split

theorem execRxdLoModeWrite_fr (n : Lane) (v : BitVec 2) (s : State) : FrameOf 81 s (execRxdLoModeWrite n v s) := by
  have hF : 81 &&& 81 = 81 := by decide
  unfold execRxdLoModeWrite
  with_reducible repeat' first
    | assumption | intro _ | exact Frame.refl _ | subst x
    | (extract_lets +onlyGivenNames x; first | (have hx : Frame 81 s x := ?_; clear_value x) | (have hx : Frame 81 s x.1 := ?_; clear_value x) | (have hf := fun a => x a; clear hf) | (have hf : CiphState := x; clear hf) | (have hf : SecState := x; clear hf) | (have hf : LevelSeq := x; clear hf) | (have hf : CstState := x; clear hf) | clear_value x)
    | apply next_fr | apply iteo_fr | apply ite_fr | apply State.hostWrite_fr | apply State.writeLoMode_fr
    | dsimp only | split | decide

theorem execRxdKsAssistWrite_fr (n : Lane) (v : Bool) (s : State) : FrameOf 81 s (execRxdKsAssistWrite n v s) := by
  have hF : 81 &&& 81 = 81 := by decide
  unfold execRxdKsAssistWrite
  with_reducible repeat' first
    | assumption | intro _ | exact Frame.refl _ | subst x
    | (extract_lets +onlyGivenNames x; first | (have hx : Frame 81 s x := ?_; clear_value x) | (have hx : Frame 81 s x.1 := ?_; clear_value x) | (have hf := fun a => x a; clear hf) | (have hf : CiphState := x; clear hf) | (have hf : SecState := x; clear hf) | (have hf : LevelSeq := x; clear hf) | (have hf : CstState := x; clear hf) | clear_value x)
    | apply next_fr | apply iteo_fr | apply ite_fr | apply State.hostWrite_fr | apply State.writeKsAssist_fr
    | dsimp only | split | decide

theorem execRxdFmtSrcWrite_fr (n : Lane) (v : Bool) (s : State) : FrameOf 46157777 s (execRxdFmtSrcWrite n v s) := by
  have hF : 46157777 &&& 46157777 = 46157777 := by decide
  unfold execRxdFmtSrcWrite
  with_reducible repeat' first
    | assumption | intro _ | exact Frame.refl _ | subst x
    | (extract_lets +onlyGivenNames x; first | (have hx : Frame 46157777 s x := ?_; clear_value x) | (have hx : Frame 46157777 s x.1 := ?_; clear_value x) | (have hf := fun a => x a; clear hf) | (have hf : CiphState := x; clear hf) | (have hf : SecState := x; clear hf) | (have hf : LevelSeq := x; clear hf) | (have hf : CstState := x; clear hf) | clear_value x)
    | apply next_fr | apply iteo_fr | apply ite_fr | apply State.hostWrite_fr | apply State.writeFmtSrc_fr
    | dsimp only | split | decide

theorem execSpectralEstimate_fr (n : Lane) (fo : Int) (s : State) : FrameOf 8388693 s (execSpectralEstimate n fo s)
    := by
  have hF : 8388693 &&& 8388693 = 8388693 := by decide
  unfold execSpectralEstimate
  with_reducible repeat' first
    | assumption | intro _ | exact Frame.refl _ | subst x
    | (extract_lets +onlyGivenNames x; first | (have hx : Frame 8388693 s x := ?_; clear_value x) | (have hx : Frame 8388693 s x.1 := ?_; clear_value x) | (have hf := fun a => x a; clear hf) | (have hf : CiphState := x; clear hf) | (have hf : SecState := x; clear hf) | (have hf : LevelSeq := x; clear hf) | (have hf : CstState := x; clear hf) | clear_value x)
    | apply next_fr | apply iteo_fr | apply ite_fr | apply State.modRxd_fr | apply State.waitClk_fr
    | apply State.showFo_fr | apply State.coarseEnd_fr | dsimp only | split | decide

theorem execKsWaitExpiry_fr (n : Lane) (s : State) : FrameOf 8388693 s (execKsWaitExpiry n s) := by
  unfold execKsWaitExpiry
  with_reducible repeat' first
    | apply next_fr | exact Frame.refl _ | decide | apply iteo_fr | apply ite_fr | apply State.waitClk_fr
    | apply State.showOwner_fr | apply State.modRxd_fr | apply State.coarseEnd_fr | split

theorem execFineEstimate_fr (n : Lane) (fo : Int) (s : State) : FrameOf 8388677 s (execFineEstimate n fo s) := by
  have hF : 8388677 &&& 8388677 = 8388677 := by decide
  unfold execFineEstimate
  with_reducible repeat' first
    | assumption | intro _ | exact Frame.refl _ | subst x
    | (extract_lets +onlyGivenNames x; first | (have hx : Frame 8388677 s x := ?_; clear_value x) | (have hx : Frame 8388677 s x.1 := ?_; clear_value x) | (have hf := fun a => x a; clear hf) | (have hf : CiphState := x; clear hf) | (have hf : SecState := x; clear hf) | (have hf : LevelSeq := x; clear hf) | (have hf : CstState := x; clear hf) | clear_value x)
    | apply next_fr | apply iteo_fr | apply ite_fr | apply State.modRxd_fr | apply State.waitClk_fr
    | apply State.showFo_fr | apply State.searchDone_fr | dsimp only | split | decide

theorem execCdScanStep_fr (n : Lane) (metric : Nat) (above : Bool) (s : State) : FrameOf 46157781 s (execCdScanStep n
    metric above s) := by
  have hF : 46157781 &&& 46157781 = 46157781 := by decide
  unfold execCdScanStep
  with_reducible repeat' first
    | assumption | intro _ | exact Frame.refl _ | subst x
    | (extract_lets +onlyGivenNames x; first | (have hx : Frame 46157781 s x := ?_; clear_value x) | (have hx : Frame 46157781 s x.1 := ?_; clear_value x) | (have hf := fun a => x a; clear hf) | (have hf : CiphState := x; clear hf) | (have hf : SecState := x; clear hf) | (have hf : LevelSeq := x; clear hf) | (have hf : CstState := x; clear hf) | clear_value x)
    | apply next_fr | apply iteo_fr | apply ite_fr | apply State.modRxd_fr | apply State.waitClk_fr
    | apply State.raise_fr | apply State.acqFail_fr | apply State.scanStart_fr | dsimp only | split | decide

theorem execCdRefineDone_fr (n : Lane) (cd : Int) (s : State) : FrameOf 41943109 s (execCdRefineDone n cd s) := by
  have hF : 41943109 &&& 41943109 = 41943109 := by decide
  unfold execCdRefineDone
  with_reducible repeat' first
    | assumption | intro _ | exact Frame.refl _ | subst x
    | (extract_lets +onlyGivenNames x; first | (have hx : Frame 41943109 s x := ?_; clear_value x) | (have hx : Frame 41943109 s x.1 := ?_; clear_value x) | (have hf := fun a => x a; clear hf) | (have hf : CiphState := x; clear hf) | (have hf : SecState := x; clear hf) | (have hf : LevelSeq := x; clear hf) | (have hf : CstState := x; clear hf) | clear_value x)
    | apply next_fr | apply iteo_fr | apply ite_fr | apply State.setInt_fr | apply State.modRxd_fr
    | apply State.waitClk_fr | apply State.cdToTime_fr | apply State.compSet_fr | apply State.rxdEnter_fr
    | dsimp only | split | decide

theorem execCdReestimate_fr (n : Lane) (cd : Int) (s : State) : FrameOf 41943109 s (execCdReestimate n cd s) := by
  have hF : 41943109 &&& 41943109 = 41943109 := by decide
  unfold execCdReestimate
  with_reducible repeat' first
    | assumption | intro _ | exact Frame.refl _ | subst x
    | (extract_lets +onlyGivenNames x; first | (have hx : Frame 41943109 s x := ?_; clear_value x) | (have hx : Frame 41943109 s x.1 := ?_; clear_value x) | (have hf := fun a => x a; clear hf) | (have hf : CiphState := x; clear hf) | (have hf : SecState := x; clear hf) | (have hf : LevelSeq := x; clear hf) | (have hf : CstState := x; clear hf) | clear_value x)
    | apply next_fr | apply iteo_fr | apply ite_fr | apply State.setInt_fr | apply State.modRxd_fr
    | apply State.waitClk_fr | apply State.cdToTime_fr | dsimp only | split | decide

theorem execTimingLock_fr (n : Lane) (s : State) : FrameOf 65 s (execTimingLock n s) := by
  unfold execTimingLock
  with_reducible repeat' first
    | apply next_fr | exact Frame.refl _ | decide | apply iteo_fr | apply ite_fr | apply State.rxdEnter_fr

theorem execPolConverged_fr (n : Lane) (s : State) : FrameOf 65 s (execPolConverged n s) := by
  unfold execPolConverged
  with_reducible repeat' first
    | apply next_fr | exact Frame.refl _ | decide | apply iteo_fr | apply ite_fr | apply State.rxdEnter_fr

theorem execAcqStateTimeout_fr (n : Lane) (s : State) : FrameOf 46157781 s (execAcqStateTimeout n s) := by
  unfold execAcqStateTimeout
  with_reducible repeat' first
    | apply next_fr | exact Frame.refl _ | decide | apply iteo_fr | apply ite_fr | apply State.acqFail_fr
    | apply State.waitClk_fr

theorem execWarmReacqTimeout_fr (n : Lane) (s : State) : FrameOf 46157781 s (execWarmReacqTimeout n s) := by
  unfold execWarmReacqTimeout
  with_reducible repeat' first
    | apply next_fr | exact Frame.refl _ | decide | apply iteo_fr | apply ite_fr | apply State.acqFail_fr
    | apply State.waitClk_fr

theorem execEqDiverge_fr (n : Lane) (s : State) : FrameOf 65 s (execEqDiverge n s) := by
  unfold execEqDiverge
  with_reducible repeat' first
    | apply next_fr | exact Frame.refl _ | decide | apply iteo_fr | apply ite_fr | apply State.rxdWarm_fr

theorem execLoUpdateTick_fr (n : Lane) (s : State) : FrameOf 8388693 s (execLoUpdateTick n s) := by
  unfold execLoUpdateTick
  with_reducible repeat' first
    | apply next_fr | exact Frame.refl _ | decide | apply iteo_fr | apply ite_fr | apply State.waitClk_fr
    | apply State.modRxd_fr | apply State.loDelta_fr | split

theorem execTrimUpdate_fr (n : Lane) (want : Int) (s : State) : FrameOf 17 s (execTrimUpdate n want s) := by
  have hF : 17 &&& 17 = 17 := by decide
  unfold execTrimUpdate
  with_reducible repeat' first
    | assumption | intro _ | exact Frame.refl _ | subst x
    | (extract_lets +onlyGivenNames x; first | (have hx : Frame 17 s x := ?_; clear_value x) | (have hx : Frame 17 s x.1 := ?_; clear_value x) | (have hf := fun a => x a; clear hf) | (have hf : CiphState := x; clear hf) | (have hf : SecState := x; clear hf) | (have hf : LevelSeq := x; clear hf) | (have hf : CstState := x; clear hf) | clear_value x)
    | apply next_fr | apply iteo_fr | apply ite_fr | apply State.setB_fr | apply State.setInt_fr
    | apply State.raiseIf_fr | dsimp only | split | decide

theorem execRxdMetricsUpdate_fr (n : Lane) (m : Metrics) (s : State) : FrameOf 33554497 s (execRxdMetricsUpdate n m
    s) := by
  have hF : 33554497 &&& 33554497 = 33554497 := by decide
  unfold execRxdMetricsUpdate
  with_reducible repeat' first
    | assumption | intro _ | exact Frame.refl _ | subst x
    | (extract_lets +onlyGivenNames x; first | (have hx : Frame 33554497 s x := ?_; clear_value x) | (have hx : Frame 33554497 s x.1 := ?_; clear_value x) | (have hf := fun a => x a; clear hf) | (have hf : CiphState := x; clear hf) | (have hf : SecState := x; clear hf) | (have hf : LevelSeq := x; clear hf) | (have hf : CstState := x; clear hf) | clear_value x)
    | apply next_fr | apply iteo_fr | apply ite_fr | apply State.setNat_fr | apply State.setInt_fr
    | apply State.modRxd_fr | apply State.cdToTime_fr | dsimp only | split | decide

theorem execNlcReady_fr (n : Lane) (s : State) : FrameOf 64 s (execNlcReady n s) := by
  have hF : 64 &&& 64 = 64 := by decide
  unfold execNlcReady
  with_reducible repeat' first
    | assumption | intro _ | exact Frame.refl _ | subst x
    | (extract_lets +onlyGivenNames x; first | (have hx : Frame 64 s x := ?_; clear_value x) | (have hx : Frame 64 s x.1 := ?_; clear_value x) | (have hf := fun a => x a; clear hf) | (have hf : CiphState := x; clear hf) | (have hf : SecState := x; clear hf) | (have hf : LevelSeq := x; clear hf) | (have hf : CstState := x; clear hf) | clear_value x)
    | apply next_fr | apply iteo_fr | apply ite_fr | apply State.modRxd_fr | dsimp only | split | decide

/-! ### Txd.lean -/

theorem execTxdEnWrite_fr (n : Lane) (v : Bool) (s : State) : FrameOf 18577 s (execTxdEnWrite n v s) := by
  unfold execTxdEnWrite
  with_reducible repeat' first
    | assumption | apply next_fr | exact Frame.refl _ | decide | assumption | apply iteo_fr | apply ite_fr
    | apply itep_fr | apply State.hostWrite_fr | apply State.txdNow_fr | apply State.setB_fr | apply foldl_fr
    | intro _
    | (extract_lets +onlyGivenNames x; first | (have hx : Frame 18577 s x := ?_; clear_value x) | (have hx : Frame 18577 s x.1 := ?_; clear_value x) | (have hf := fun a => x a; clear hf) | (have hf : CiphState := x; clear hf) | (have hf : SecState := x; clear hf) | clear_value x)
    | split

theorem execTxdModeWrite_fr (n : Lane) (v : Bool) (s : State) : FrameOf 18577 s (execTxdModeWrite n v s) := by
  unfold execTxdModeWrite
  with_reducible repeat' first
    | assumption | apply next_fr | exact Frame.refl _ | decide | assumption | apply iteo_fr | apply ite_fr
    | apply itep_fr | apply State.hostWrite_fr | apply State.txdNow_fr | apply State.setB_fr | apply foldl_fr
    | intro _
    | (extract_lets +onlyGivenNames x; first | (have hx : Frame 18577 s x := ?_; clear_value x) | (have hx : Frame 18577 s x.1 := ?_; clear_value x) | (have hf := fun a => x a; clear hf) | (have hf : CiphState := x; clear hf) | (have hf : SecState := x; clear hf) | clear_value x)
    | split

theorem execKsGroupMissed_fr (n : Lane) (s : State) : FrameOf 145 s (execKsGroupMissed n s) := by
  have hF : 145 &&& 145 = 145 := by decide
  unfold execKsGroupMissed
  with_reducible repeat' first
    | assumption | intro _ | exact Frame.refl _ | subst x
    | (extract_lets +onlyGivenNames x; first | (have hx : Frame 145 s x := ?_; clear_value x) | (have hx : Frame 145 s x.1 := ?_; clear_value x) | (have hf := fun a => x a; clear hf) | (have hf : CiphState := x; clear hf) | (have hf : SecState := x; clear hf) | (have hf : LevelSeq := x; clear hf) | (have hf : CstState := x; clear hf) | clear_value x)
    | apply next_fr | apply iteo_fr | apply ite_fr | apply State.modTx_fr | apply State.raise_fr | dsimp only
    | split | decide

theorem execDacGroup_fr (n : Lane) (at_ : Nat) (ks : Int) (s : State) : FrameOf 16561 s (execDacGroup n at_ ks s) :=
    by
  have hF : 16561 &&& 16561 = 16561 := by decide
  unfold execDacGroup
  with_reducible repeat' first
    | assumption | intro _ | exact Frame.refl _ | subst x
    | (extract_lets +onlyGivenNames x; first | (have hx : Frame 16561 s x := ?_; clear_value x) | (have hx : Frame 16561 s x.1 := ?_; clear_value x) | (have hf := fun a => x a; clear hf) | (have hf : CiphState := x; clear hf) | (have hf : SecState := x; clear hf) | (have hf : LevelSeq := x; clear hf) | (have hf : CstState := x; clear hf) | clear_value x)
    | apply next_fr | apply iteo_fr | apply ite_fr | apply State.modConv_fr | apply State.modTx_fr
    | apply State.addCnt_fr | apply State.raise_fr | apply State.capGroup_fr | apply State.levelEnters_fr
    | dsimp only | split | decide

/-! ### TxLf.lean -/

theorem execTxLfStart_fr (n : Lane) (phase : Fin 1600) (s : State) : FrameOf 178374877 s (execTxLfStart n phase s) := by
  have hF : 178374877 &&& 178374877 = 178374877 := by decide
  unfold execTxLfStart
  refine iteo_fr _ (Frame.refl s) ?_
  extract_lets +onlyGivenNames t g at_ s1 ps s2 s3
  have h1 : Frame 178374877 s s1 := State.waitClk_fr _ _ (Frame.refl s)
  have h2 : Frame 178374877 s s2 := by
    subst s2
    split
    · exact State.courseTx_fr _ _ h1
    · exact h1
  have h3 : Frame 178374877 s s3 := State.txdAtStart_fr _ _ (State.gridGo_fr _ _ _ _ h2)
  refine iteo_fr _ (State.lfSignal_fr _ _ _ h3) (iteo_fr _ (State.lfAssemble_fr _ _ _ h3) ?_)
  extract_lets frames bdi s4
  have h4 : Frame 178374877 s s4 := State.setB_fr _ _ _ (State.modTx_fr _ _ _ h3)
  exact State.sendSymbols_fr _ _ _ (State.addCnt_fr _ _ _ h4)


/-! ### RxLf.lean -/

theorem execLfrMarkerMatch_fr (n : Lane) (pos hyp diff : Nat) (s : State) : FrameOf 46155729 s (execLfrMarkerMatch n
    pos hyp diff s) := by
  unfold execLfrMarkerMatch
  with_reducible repeat' first
    | apply next_fr | exact Frame.refl _ | decide | apply iteo_fr | apply ite_fr | apply State.zrLock_fr
    | apply State.raise_fr | apply State.lfrCount_fr | apply State.modLfr_fr | apply State.set_fr
    | apply State.showCands_fr

theorem execLfrExpectedPosition_fr (n : Lane) (cand : Option (Fin 4)) (hyp diff : Nat) (phase : Fin 1600000) (s :
    State) : FrameOf 46155729 s (execLfrExpectedPosition n cand hyp diff phase s) := by
  have hF : 46155729 &&& 46155729 = 46155729 := by decide
  unfold execLfrExpectedPosition
  with_reducible repeat' first
    | assumption | intro _ | exact Frame.refl _ | subst x
    | (extract_lets +onlyGivenNames x; first | (have hx : Frame 46155729 s x := ?_; clear_value x) | (have hx : Frame 46155729 s x.1 := ?_; clear_value x) | (have hf := fun a => x a; clear hf) | (have hf : CiphState := x; clear hf) | (have hf : SecState := x; clear hf) | (have hf : LevelSeq := x; clear hf) | (have hf : CstState := x; clear hf) | clear_value x)
    | apply next_fr | apply iteo_fr | apply ite_fr | apply State.raise_fr | apply State.rxdInFrame_fr
    | apply State.rxdSlip_fr | apply State.lfrCount_fr | apply State.lossOfSync_fr | apply State.candTest_fr
    | apply State.syncTest_fr | dsimp only | split | decide

theorem execLfrExclusionExpiry_fr (n : Lane) (pos : Nat) (s : State) : FrameOf 8389124 s (execLfrExclusionExpiry n pos
    s) := by
  unfold execLfrExclusionExpiry
  with_reducible repeat' first
    | apply next_fr | exact Frame.refl _ | decide | apply iteo_fr | apply ite_fr | apply State.waitClk_fr
    | apply State.modLfr_fr | split

theorem execLfDelivered_fr (n : Lane) (lf : LfIn) (s : State) : FrameOf 182570973 s (execLfDelivered n lf s) := by
  have hF : 182570973 &&& 182570973 = 182570973 := by decide
  unfold execLfDelivered
  refine iteo_fr _ (Frame.refl s) (iteo_fr _ ?_ ?_)
  · extract_lets due t
    have h : Frame 182570973 s t := ite_fr _ _ _ (State.courseRx_fr _ _ (Frame.refl s)) (Frame.refl s)
    clear_value t
    exact iteo_fr _ h (State.zrFrame_fr _ _ _ h)
  · split
    · exact Frame.refl s
    · extract_lets t
      have h1 : Frame 182570973 s t := State.nlcBoundary_fr _ _ (State.rxCourseTurn_fr _ _ (State.lfrCount_fr _ _ _ _
        (State.sdCount_fr _ _ (Frame.refl s))))
      clear_value t
      split
      · exact h1
      · have h2 := State.lfNext_fr _ _ _ (by assumption) h1
        refine iteo_fr _ h2 ?_
        extract_lets f v u
        have h3 : Frame 182570973 s f.1 := State.fecLf_fr _ _ _ _ h2
        have h4 : Frame 182570973 s v.1 := State.verify_fr _ _ _ h3
        have h5 : Frame 182570973 s u := State.lfNative_fr _ _ _ _ h4
        clear_value u v
        exact ite_fr _ _ _ h5 (State.verifyFail_fr _ _ h5)


/-! ### Ksc.lean -/

theorem execKscEnWrite_fr (n : Lane) (v : Bool) (s : State) : FrameOf 18513 s (execKscEnWrite n v s) := by
  unfold execKscEnWrite
  with_reducible repeat' first
    | assumption | apply next_fr | exact Frame.refl _ | decide | assumption | apply iteo_fr | apply ite_fr
    | apply itep_fr | apply State.hostWrite_fr | apply State.kscJudge_fr | apply State.setB_fr | apply foldl_fr
    | intro _
    | (extract_lets +onlyGivenNames x; first | (have hx : Frame 18513 s x := ?_; clear_value x) | (have hx : Frame 18513 s x.1 := ?_; clear_value x) | (have hf := fun a => x a; clear hf) | (have hf : CiphState := x; clear hf) | (have hf : SecState := x; clear hf) | clear_value x)
    | split

theorem execKsFarTimeout_fr (n : Lane) (s : State) : FrameOf 8388629 s (execKsFarTimeout n s) := by
  unfold execKsFarTimeout
  with_reducible repeat' first
    | apply next_fr | exact Frame.refl _ | decide | apply iteo_fr | apply ite_fr | apply State.waitClk_fr
    | apply State.raise_fr | apply State.set_fr

theorem execBeaconDue_fr (n : Lane) (s : State) : FrameOf 8407061 s (execBeaconDue n s) := by
  unfold execBeaconDue
  with_reducible repeat' first
    | apply next_fr | exact Frame.refl _ | decide | apply iteo_fr | apply ite_fr | apply State.waitClk_fr
    | apply State.modKsc_fr | apply State.ksQueue_fr | split

theorem execRangeReqDue_fr (n : Lane) (s : State) : FrameOf 8407061 s (execRangeReqDue n s) := by
  unfold execRangeReqDue
  with_reducible repeat' first
    | apply next_fr | exact Frame.refl _ | decide | apply iteo_fr | apply ite_fr | apply State.waitClk_fr
    | apply State.modKsc_fr | apply State.ksQueue_fr | split

theorem execKsTxStart_fr (n : Lane) (s : State) : FrameOf 8390677 s (execKsTxStart n s) := by
  have hF : 8390677 &&& 8390677 = 8390677 := by decide
  unfold execKsTxStart
  with_reducible repeat' first
    | assumption | intro _ | exact Frame.refl _ | subst x
    | (extract_lets +onlyGivenNames x; first | (have hx : Frame 8390677 s x := ?_; clear_value x) | (have hx : Frame 8390677 s x.1 := ?_; clear_value x) | (have hf := fun a => x a; clear hf) | (have hf : CiphState := x; clear hf) | (have hf : SecState := x; clear hf) | (have hf : LevelSeq := x; clear hf) | (have hf : CstState := x; clear hf) | clear_value x)
    | apply next_fr | apply iteo_fr | apply ite_fr | apply State.modKsc_fr | apply State.waitTb_fr
    | apply State.ksStart_fr | dsimp only | split | decide

theorem execKsTxEnd_fr (n : Lane) (s : State) : FrameOf 8407061 s (execKsTxEnd n s) := by
  have hF : 8407061 &&& 8407061 = 8407061 := by decide
  unfold execKsTxEnd
  with_reducible repeat' first
    | assumption | intro _ | exact Frame.refl _ | subst x
    | (extract_lets +onlyGivenNames x; first | (have hx : Frame 8407061 s x := ?_; clear_value x) | (have hx : Frame 8407061 s x.1 := ?_; clear_value x) | (have hf := fun a => x a; clear hf) | (have hf : CiphState := x; clear hf) | (have hf : SecState := x; clear hf) | (have hf : LevelSeq := x; clear hf) | (have hf : CstState := x; clear hf) | clear_value x)
    | apply next_fr | apply iteo_fr | apply ite_fr | apply State.set_fr | apply State.setB_fr
    | apply State.modKsc_fr | apply State.waitClk_fr | apply State.showEgress_fr | apply State.kscCount_fr
    | apply State.ksCourse_fr | dsimp only | split | decide

theorem execKsMgmtQueue_fr (n : Lane) (bytes : List Byte) (s : State) : FrameOf 18449 s (execKsMgmtQueue n bytes s) := by
  unfold execKsMgmtQueue
  with_reducible repeat' first | apply next_fr | exact Frame.refl _ | decide | apply State.ksMgmt_fr

theorem execKsMgmtTimeout_fr (n : Lane) (s : State) : FrameOf 8407061 s (execKsMgmtTimeout n s) := by
  unfold execKsMgmtTimeout
  with_reducible repeat' first
    | apply next_fr | exact Frame.refl _ | decide | apply iteo_fr | apply ite_fr | apply State.waitClk_fr
    | apply State.raise_fr | apply State.kscCount_fr | apply State.modKsc_fr | split

theorem execKsDetection_fr (n : Lane) (chan : Int) (bin : KsPeak) (snr : Int) (s : State) : FrameOf 18433 s
    (execKsDetection n chan bin snr s) := by
  have hF : 18433 &&& 18433 = 18433 := by decide
  unfold execKsDetection
  with_reducible repeat' first
    | assumption | intro _ | exact Frame.refl _ | subst x
    | (extract_lets +onlyGivenNames x; first | (have hx : Frame 18433 s x := ?_; clear_value x) | (have hx : Frame 18433 s x.1 := ?_; clear_value x) | (have hf := fun a => x a; clear hf) | (have hf : CiphState := x; clear hf) | (have hf : SecState := x; clear hf) | (have hf : LevelSeq := x; clear hf) | (have hf : CstState := x; clear hf) | clear_value x)
    | apply next_fr | apply iteo_fr | apply ite_fr | apply State.modKsc_fr | apply State.showRx_fr
    | apply State.kscCount_fr | dsimp only | split | decide

theorem execKsPreambleEnd_fr (n : Lane) (cand found : Bool) (s : State) : FrameOf 2049 s (execKsPreambleEnd n cand
    found s) := by
  unfold execKsPreambleEnd
  with_reducible repeat' first
    | apply next_fr | exact Frame.refl _ | decide | apply iteo_fr | apply ite_fr | apply State.ksPut_fr
    | apply State.ksGiveUp_fr | split

theorem execKsSyncEnd_fr (n : Lane) (cand : Bool) (shift1 shift2 : Nat) (fo : Int) (delay : Nat) (s : State) : FrameOf
    18449 s (execKsSyncEnd n cand shift1 shift2 fo delay s) := by
  unfold execKsSyncEnd
  with_reducible repeat' first
    | apply next_fr | exact Frame.refl _ | decide | apply iteo_fr | apply ite_fr | apply State.ksPut_fr
    | apply State.showRx_fr | apply State.modKsc_fr | apply State.kscLog_fr | apply State.raise_fr
    | apply State.kscCount_fr | apply State.ksGiveUp_fr | split

theorem execKsHeaderDecoded_fr (n : Lane) (header : KsBlock) (s : State) : FrameOf 46157781 s (execKsHeaderDecoded n
    header s) := by
  have hF : 46157781 &&& 46157781 = 46157781 := by decide
  unfold execKsHeaderDecoded
  with_reducible repeat' first
    | assumption | intro _ | exact Frame.refl _ | subst x
    | (extract_lets +onlyGivenNames x; first | (have hx : Frame 46157781 s x := ?_; clear_value x) | (have hx : Frame 46157781 s x.1 := ?_; clear_value x) | (have hf := fun a => x a; clear hf) | (have hf : CiphState := x; clear hf) | (have hf : SecState := x; clear hf) | (have hf : LevelSeq := x; clear hf) | (have hf : CstState := x; clear hf) | clear_value x)
    | apply next_fr | apply iteo_fr | apply ite_fr | apply State.raise_fr | apply State.kscCount_fr
    | apply State.rxEnd_fr | apply State.kscLog_fr | apply State.ksPut_fr | apply State.ksAccept_fr | dsimp only
    | split | decide

theorem execKsPayloadDecoded_fr (n : Lane) (bytes : KsBlock) (s : State) : FrameOf 46157781 s (execKsPayloadDecoded n
    bytes s) := by
  have hF : 46157781 &&& 46157781 = 46157781 := by decide
  unfold execKsPayloadDecoded
  with_reducible repeat' first
    | assumption | intro _ | exact Frame.refl _ | subst x
    | (extract_lets +onlyGivenNames x; first | (have hx : Frame 46157781 s x := ?_; clear_value x) | (have hx : Frame 46157781 s x.1 := ?_; clear_value x) | (have hf := fun a => x a; clear hf) | (have hf : CiphState := x; clear hf) | (have hf : SecState := x; clear hf) | (have hf : LevelSeq := x; clear hf) | (have hf : CstState := x; clear hf) | clear_value x)
    | apply next_fr | apply iteo_fr | apply ite_fr | apply State.raise_fr | apply State.kscCount_fr
    | apply State.rxEnd_fr | apply State.ksAccept_fr | dsimp only | split | decide

theorem execRangeTimeout_fr (n : Lane) (s : State) : FrameOf 8407061 s (execRangeTimeout n s) := by
  unfold execRangeTimeout
  with_reducible repeat' first
    | apply next_fr | exact Frame.refl _ | decide | apply iteo_fr | apply ite_fr | apply State.waitClk_fr
    | apply State.raise_fr | apply State.kscCount_fr | apply State.modKsc_fr | split

theorem execCrsDiffTimeout_fr (n : Lane) (s : State) : FrameOf 8388629 s (execCrsDiffTimeout n s) := by
  unfold execCrsDiffTimeout
  with_reducible repeat' first
    | apply next_fr | exact Frame.refl _ | decide | apply iteo_fr | apply ite_fr | apply State.raise_fr
    | apply State.waitBefore_fr

end Sys2Proof.Machine
end

