-- ==== Sys2Proof/Laws/FrameRest.lean ====
section
/-!
SUPPORT. Which parts of the state a command leaves as they are: the commands of the rest.
-/

-- one theorem after another: all at once would not fit the memory
set_option Elab.async false
set_option linter.all false

namespace Sys2Proof.Machine

/-! ### Steps.lean -/

theorem execTbSet_fr (by_ : Source) (x : Fin 3) (t : Time80) (s : State) : FrameOf 468315901 s (execTbSet by_ x t s) := by
  unfold execTbSet
  with_reducible repeat' first
    | assumption | apply next_fr | exact Frame.refl _ | decide | assumption | apply iteo_fr | apply ite_fr
    | apply itep_fr | apply State.byWrite_fr | apply State.set_fr | apply State.setNat_fr | apply State.tbSet_fr
    | apply State.answer_fr | apply foldl_fr | intro _
    | (extract_lets +onlyGivenNames x; first | (have hx : Frame 468315901 s x := ?_; clear_value x) | (have hx : Frame 468315901 s x.1 := ?_; clear_value x) | (have hf := fun a => x a; clear hf) | (have hf : CiphState := x; clear hf) | (have hf : SecState := x; clear hf) | clear_value x)
    | split

theorem execTbStep_fr (by_ : Source) (x : Fin 3) (d : Int) (s : State) : FrameOf 468315901 s (execTbStep by_ x d s) := by
  unfold execTbStep
  with_reducible repeat' first
    | assumption | apply next_fr | exact Frame.refl _ | decide | assumption | apply iteo_fr | apply ite_fr
    | apply itep_fr | apply State.byWrite_fr | apply State.tbAdd_fr | apply State.setWide_fr | apply State.answer_fr
    | apply foldl_fr | intro _
    | (extract_lets +onlyGivenNames x; first | (have hx : Frame 468315901 s x := ?_; clear_value x) | (have hx : Frame 468315901 s x.1 := ?_; clear_value x) | (have hf := fun a => x a; clear hf) | (have hf : CiphState := x; clear hf) | (have hf : SecState := x; clear hf) | clear_value x)
    | split

theorem execServoUpdate_fr (x : Fin 3) (s : State) : FrameOf 468315901 s (execServoUpdate x s) := by
  unfold execServoUpdate
  with_reducible repeat' first
    | apply next_fr | exact Frame.refl _ | decide | apply iteo_fr | apply ite_fr | apply State.syncTbs_fr
    | apply State.waitClk_fr | apply State.modServo_fr | apply State.servoApply_fr

/-! ### Cal.lean -/

theorem execCalInterpTick_fr (temps : List Int) (s : State) : FrameOf 9437237 s (execCalInterpTick temps s) := by
  have hF : 9437237 &&& 9437237 = 9437237 := by decide
  unfold execCalInterpTick
  with_reducible repeat' first
    | assumption | intro _ | exact Frame.refl _ | subst x
    | (extract_lets +onlyGivenNames x; first | (have hx : Frame 9437237 s x := ?_; clear_value x) | (have hx : Frame 9437237 s x.1 := ?_; clear_value x) | (have hf := fun a => x a; clear hf) | (have hf : CiphState := x; clear hf) | (have hf : SecState := x; clear hf) | (have hf : LevelSeq := x; clear hf) | (have hf : CstState := x; clear hf) | clear_value x)
    | apply next_fr | apply iteo_fr | apply ite_fr | apply State.waitClk_fr | apply State.modCal_fr
    | apply State.judgeTemp_fr | apply State.calApply_fr | apply State.sensRead_fr | apply foldl_fr_of | dsimp only
    | split | decide

theorem execCalStart_fr (by_ : Source) (v : Word) (s : State) : FrameOf 1589297 s (execCalStart by_ v s) := by
  unfold execCalStart
  with_reducible repeat' first
    | assumption | apply next_fr | exact Frame.refl _ | decide | assumption | apply iteo_fr | apply ite_fr
    | apply itep_fr | apply State.byWrite_fr | apply State.writeCalCmd_fr | apply State.answer_fr | apply foldl_fr
    | intro _
    | (extract_lets +onlyGivenNames x; first | (have hx : Frame 1589297 s x := ?_; clear_value x) | (have hx : Frame 1589297 s x.1 := ?_; clear_value x) | (have hf := fun a => x a; clear hf) | (have hf : CiphState := x; clear hf) | (have hf : SecState := x; clear hf) | clear_value x)
    | split

theorem execCalAbort_fr (by_ : Source) (s : State) : FrameOf 1589297 s (execCalAbort by_ s) := by
  unfold execCalAbort
  with_reducible repeat' first
    | assumption | apply next_fr | exact Frame.refl _ | decide | assumption | apply iteo_fr | apply ite_fr
    | apply itep_fr | apply State.byWrite_fr | apply State.answer_fr | apply State.calStop_fr | apply foldl_fr
    | intro _
    | (extract_lets +onlyGivenNames x; first | (have hx : Frame 1589297 s x := ?_; clear_value x) | (have hx : Frame 1589297 s x.1 := ?_; clear_value x) | (have hf := fun a => x a; clear hf) | (have hf : CiphState := x; clear hf) | (have hf : SecState := x; clear hf) | clear_value x)
    | split

theorem execCalCheckDone_fr (temps : List Int) (s : State) : FrameOf 9977909 s (execCalCheckDone temps s) := by
  have hF : 9977909 &&& 9977909 = 9977909 := by decide
  unfold execCalCheckDone
  with_reducible repeat' first
    | assumption | intro _ | exact Frame.refl _ | subst x
    | (extract_lets +onlyGivenNames x; first | (have hx : Frame 9977909 s x := ?_; clear_value x) | (have hx : Frame 9977909 s x.1 := ?_; clear_value x) | (have hf := fun a => x a; clear hf) | (have hf : CiphState := x; clear hf) | (have hf : SecState := x; clear hf) | (have hf : LevelSeq := x; clear hf) | (have hf : CstState := x; clear hf) | clear_value x)
    | apply next_fr | apply iteo_fr | apply ite_fr | apply State.waitClk_fr | apply State.sensRead_fr
    | apply State.calEnter_fr | apply State.precondFail_fr | apply State.stepStart_fr | dsimp only | split | decide

theorem execSpareReleaseSwitch_fr (n : Lane) (k : Fin 16) (s : State) : FrameOf 1589297 s (execSpareReleaseSwitch n k
    s) := by
  have hF : 1589297 &&& 1589297 = 1589297 := by decide
  unfold execSpareReleaseSwitch
  with_reducible repeat' first
    | assumption | intro _ | exact Frame.refl _ | subst x
    | (extract_lets +onlyGivenNames x; first | (have hx : Frame 1589297 s x := ?_; clear_value x) | (have hx : Frame 1589297 s x.1 := ?_; clear_value x) | (have hf := fun a => x a; clear hf) | (have hf : CiphState := x; clear hf) | (have hf : SecState := x; clear hf) | (have hf : LevelSeq := x; clear hf) | (have hf : CstState := x; clear hf) | clear_value x)
    | apply next_fr | apply iteo_fr | apply ite_fr | apply State.spareIdle_fr | apply State.spareNext_fr
    | apply State.modRun_fr | apply State.stepStart_fr | apply State.sliceItemsDone_fr | dsimp only | split | decide

theorem execCalSliceStepEnd_fr (ash dac temps : List Int) (s : State) : FrameOf 1589297 s (execCalSliceStepEnd ash
    dac temps s) := by
  have hF : 1589297 &&& 1589297 = 1589297 := by decide
  unfold execCalSliceStepEnd
  with_reducible repeat' first
    | assumption | intro _ | exact Frame.refl _ | subst x
    | (extract_lets +onlyGivenNames x; first | (have hx : Frame 1589297 s x := ?_; clear_value x) | (have hx : Frame 1589297 s x.1 := ?_; clear_value x) | (have hf := fun a => x a; clear hf) | (have hf : CiphState := x; clear hf) | (have hf : SecState := x; clear hf) | (have hf : LevelSeq := x; clear hf) | (have hf : CstState := x; clear hf) | clear_value x)
    | apply next_fr | apply iteo_fr | apply ite_fr | apply State.set_fr | apply State.calRelease_fr
    | apply State.modRun_fr | apply State.sensRead_fr | apply State.calAbort_fr | apply State.stepStart_fr
    | apply State.sliceItemsDone_fr | dsimp only | split | decide

theorem execCalMeasureDone_fr (temps values refs : List Int) (s : State) : FrameOf 1589297 s (execCalMeasureDone
    temps values refs s) := by
  have hF : 1589297 &&& 1589297 = 1589297 := by decide
  unfold execCalMeasureDone
  with_reducible repeat' first
    | assumption | intro _ | exact Frame.refl _ | subst x
    | (extract_lets +onlyGivenNames x; first | (have hx : Frame 1589297 s x := ?_; clear_value x) | (have hx : Frame 1589297 s x.1 := ?_; clear_value x) | (have hf := fun a => x a; clear hf) | (have hf : CiphState := x; clear hf) | (have hf : SecState := x; clear hf) | (have hf : LevelSeq := x; clear hf) | (have hf : CstState := x; clear hf) | clear_value x)
    | apply next_fr | apply iteo_fr | apply ite_fr | apply State.set_fr | apply State.modRun_fr
    | apply State.sensRead_fr | apply State.blockStart_fr | apply State.measured_fr | dsimp only | split | decide

theorem execCalQualityDone_fr (spur : Int) (skew eye : Nat) (s : State) : FrameOf 1589297 s (execCalQualityDone spur
    skew eye s) := by
  have hF : 1589297 &&& 1589297 = 1589297 := by decide
  unfold execCalQualityDone
  with_reducible repeat' first
    | assumption | intro _ | exact Frame.refl _ | subst x
    | (extract_lets +onlyGivenNames x; first | (have hx : Frame 1589297 s x := ?_; clear_value x) | (have hx : Frame 1589297 s x.1 := ?_; clear_value x) | (have hf := fun a => x a; clear hf) | (have hf : CiphState := x; clear hf) | (have hf : SecState := x; clear hf) | (have hf : LevelSeq := x; clear hf) | (have hf : CstState := x; clear hf) | clear_value x)
    | apply next_fr | apply iteo_fr | apply ite_fr | apply itep_fr | apply State.set_fr | apply State.setNat_fr
    | apply State.setInt_fr | apply State.raiseIf_fr | apply State.modDom_fr | apply State.showPoints_fr
    | apply State.judgeTemp_fr | apply State.calEnter_fr | apply State.calAbort_fr | apply State.storeRefused_fr
    | apply foldl_fr_of | dsimp only | (apply fst_fr; assumption) | split | apply foldlp_fr_of | decide

theorem execCalStoreDone_fr (failed : Nat) (s : State) : FrameOf 1064977 s (execCalStoreDone failed s) := by
  have hF : 1064977 &&& 1064977 = 1064977 := by decide
  unfold execCalStoreDone
  with_reducible repeat' first
    | assumption | intro _ | exact Frame.refl _ | subst x
    | (extract_lets +onlyGivenNames x; first | (have hx : Frame 1064977 s x := ?_; clear_value x) | (have hx : Frame 1064977 s x.1 := ?_; clear_value x) | (have hf := fun a => x a; clear hf) | (have hf : CiphState := x; clear hf) | (have hf : SecState := x; clear hf) | (have hf : LevelSeq := x; clear hf) | (have hf : CstState := x; clear hf) | clear_value x)
    | apply next_fr | apply iteo_fr | apply ite_fr | apply itep_fr | apply State.set_fr | apply State.setB_fr
    | apply State.setNat_fr | apply State.modDom_fr | apply State.calCount_fr | apply State.judgeTemp_fr
    | apply State.calDone_fr | apply State.storeRefused_fr | apply State.quarryRetire_fr | apply foldl_fr_of
    | dsimp only | (apply fst_fr; assumption) | split | decide

/-! ### MemInt.lean -/

theorem execMemFillDone_fr (s : State) : FrameOf 81 s (execMemFillDone s) := by
  unfold execMemFillDone
  with_reducible repeat' first
    | assumption | apply next_fr | exact Frame.refl _ | decide | assumption | apply iteo_fr | apply ite_fr
    | apply itep_fr | apply State.setB_fr | apply State.eachLane_fr | apply State.loZero_fr | apply foldl_fr | intro _
    | (extract_lets +onlyGivenNames x; first | (have hx : Frame 81 s x := ?_; clear_value x) | (have hx : Frame 81 s x.1 := ?_; clear_value x) | (have hf := fun a => x a; clear hf) | (have hf : CiphState := x; clear hf) | (have hf : SecState := x; clear hf) | clear_value x)
    | split

theorem execMemArrayRead_fr (a : Fin 11) (inst : Fin 16) (addr : Nat) (wrote : Option (BitVec 64)) (flips : BitVec
    80) (reader : MemReader) (s : State) : FrameOf 136331281 s (execMemArrayRead a inst addr wrote flips reader s) :=
    by
  have hF : 136331281 &&& 136331281 = 136331281 := by decide
  unfold execMemArrayRead
  with_reducible repeat' first
    | assumption | intro _ | exact Frame.refl _ | subst x
    | (extract_lets +onlyGivenNames x; first | (have hx : Frame 136331281 s x := ?_; clear_value x) | (have hx : Frame 136331281 s x.1 := ?_; clear_value x) | (have hf := fun a => x a; clear hf) | (have hf : CiphState := x; clear hf) | (have hf : SecState := x; clear hf) | (have hf : LevelSeq := x; clear hf) | (have hf : CstState := x; clear hf) | clear_value x)
    | apply next_fr | apply iteo_fr | apply ite_fr | apply itep_fr | apply State.answer_fr | apply State.memCheck_fr
    | apply State.memFlush_fr | apply State.memGive_fr | apply State.memReader_fr | apply State.memWrote_fr
    | dsimp only | (apply fst_fr; assumption) | split | decide

theorem execMemPartialWrite_fr (by_ : Source) (a : Fin 11) (inst : Fin 16) (addr : Nat) (ofs : Fin 8)
    (bytes : List Byte) (flips : BitVec 80) (s : State) :
    FrameOf 2113553 s (execMemPartialWrite by_ a inst addr ofs bytes flips s) := by
  have hF : 2113553 &&& 2113553 = 2113553 := by decide
  unfold execMemPartialWrite
  refine iteo_fr _ (Frame.refl s) (iteo_fr _ ?_ (iteo_fr _ ?_ ?_))
  · exact State.byWrite_fr _ _ _ _ (fun x => State.answer_fr _ _ _ (Frame.refl x)) (Frame.refl s)
  · refine State.byWrite_fr _ _ _ _ (fun x => ?_) (Frame.refl s)
    have h := State.memPartial_fr x.memFlush 5 inst addr flips.toNat (fun s => s.winMerge inst addr ofs bytes)
      (fun y => State.winMerge_fr _ _ _ _ _ (Frame.refl y)) (State.memFlush_fr _ (Frame.refl x))
    exact ite_fr _ _ _ (State.answer_fr _ _ _ h) (State.refuse_fr _ _ _ _ _ h)
  · have h := State.memPartial_fr s a inst addr flips.toNat (fun s => s.memMerge a inst addr ofs bytes)
      (fun y => State.memMerge_fr _ _ _ _ _ _ (Frame.refl y)) (Frame.refl s)
    refine ite_fr _ _ _ h ?_
    split
    · exact h
    · exact State.answer_fr _ _ _ h


theorem execMemScrubStep_fr (a : Fin 11) (inst : Fin 16) (wrote : Option (BitVec 64)) (flips : BitVec 80)
    (overwritten : Bool) (s : State) : FrameOf 10502165 s (execMemScrubStep a inst wrote flips overwritten s) := by
  have hF : 10502165 &&& 10502165 = 10502165 := by decide
  unfold execMemScrubStep
  with_reducible repeat' first
    | assumption | intro _ | exact Frame.refl _ | subst x
    | (extract_lets +onlyGivenNames x; first | (have hx : Frame 10502165 s x := ?_; clear_value x) | (have hx : Frame 10502165 s x.1 := ?_; clear_value x) | (have hf := fun a => x a; clear hf) | (have hf : CiphState := x; clear hf) | (have hf : SecState := x; clear hf) | (have hf : LevelSeq := x; clear hf) | (have hf : CstState := x; clear hf) | clear_value x)
    | apply next_fr | apply iteo_fr | apply ite_fr | apply State.waitClk_fr | apply State.raise_fr
    | apply State.modMem_fr | apply State.poison_fr | apply State.memLog_fr | apply State.memXor_fr
    | apply State.memWrote_fr | apply State.scrubNext_fr | dsimp only | split | decide

/-! ### Cst.lean -/

theorem execCstSecond_fr (s : State) : FrameOf 12582916 s (execCstSecond s) := by
  unfold execCstSecond
  with_reducible repeat' first
    | apply next_fr | exact Frame.refl _ | decide | apply iteo_fr | apply ite_fr | apply State.cstSecondEnd_fr
    | apply State.waitTb3_fr

theorem execCstBoundary_fr (s : State) : FrameOf 12582916 s (execCstBoundary s) := by
  unfold execCstBoundary
  with_reducible repeat' first
    | apply next_fr | exact Frame.refl _ | decide | apply iteo_fr | apply ite_fr | apply State.waitTb3_fr
    | apply State.cstSecondEnd_fr | apply State.cstRoll_fr

theorem execCstTapEvent_fr (tap : CstTap) (s : State) : FrameOf 12582912 s (execCstTapEvent tap s) := by
  unfold execCstTapEvent
  with_reducible repeat' first
    | apply next_fr | exact Frame.refl _ | decide | apply iteo_fr | apply ite_fr | apply State.cstLf_fr
    | apply State.modCst_fr | apply State.cstPort_fr | split

theorem execCstLatencySample_fr (n : Lane) (s : State) : FrameOf 12582912 s (execCstLatencySample n s) := by
  unfold execCstLatencySample
  with_reducible repeat' first
    | assumption | apply next_fr | exact Frame.refl _ | decide | assumption | apply iteo_fr | apply ite_fr
    | apply itep_fr | apply State.modCst_fr | apply State.cstBins_fr | apply State.cstEntFlag_fr | apply foldl_fr
    | intro _
    | (extract_lets +onlyGivenNames x; first | (have hx : Frame 12582912 s x := ?_; clear_value x) | (have hx : Frame 12582912 s x.1 := ?_; clear_value x) | (have hf := fun a => x a; clear hf) | (have hf : CiphState := x; clear hf) | (have hf : SecState := x; clear hf) | clear_value x)
    | split

theorem execCstTb0Sample_fr (osc : Int) (s : State) : FrameOf 12582917 s (execCstTb0Sample osc s) := by
  have hF : 12582917 &&& 12582917 = 12582917 := by decide
  unfold execCstTb0Sample
  with_reducible repeat' first
    | assumption | intro _ | exact Frame.refl _ | subst x
    | (extract_lets +onlyGivenNames x; first | (have hx : Frame 12582917 s x := ?_; clear_value x) | (have hx : Frame 12582917 s x.1 := ?_; clear_value x) | (have hf := fun a => x a; clear hf) | (have hf : CiphState := x; clear hf) | (have hf : SecState := x; clear hf) | (have hf : LevelSeq := x; clear hf) | (have hf : CstState := x; clear hf) | clear_value x)
    | apply next_fr | apply iteo_fr | apply ite_fr | apply State.waitTb_fr | apply State.modCst_fr
    | apply State.cstUtcFirst_fr | apply State.cstUtcSample_fr | apply State.tb3Sample_fr | dsimp only | split
    | decide

theorem execTb3SampleTimeout_fr (s : State) : FrameOf 12582917 s (execTb3SampleTimeout s) := by
  unfold execTb3SampleTimeout
  with_reducible repeat' first
    | apply next_fr | exact Frame.refl _ | decide | apply iteo_fr | apply ite_fr | apply State.waitClk_fr
    | apply State.tb3Enter_fr

theorem execTb3SlewEnd_fr (s : State) : FrameOf 12582917 s (execTb3SlewEnd s) := by
  have hF : 12582917 &&& 12582917 = 12582917 := by decide
  unfold execTb3SlewEnd
  with_reducible repeat' first
    | assumption | intro _ | exact Frame.refl _ | subst x
    | (extract_lets +onlyGivenNames x; first | (have hx : Frame 12582917 s x := ?_; clear_value x) | (have hx : Frame 12582917 s x.1 := ?_; clear_value x) | (have hf := fun a => x a; clear hf) | (have hf : CiphState := x; clear hf) | (have hf : SecState := x; clear hf) | (have hf : LevelSeq := x; clear hf) | (have hf : CstState := x; clear hf) | clear_value x)
    | apply next_fr | apply iteo_fr | apply ite_fr | apply State.waitClk_fr | apply State.modCst_fr
    | apply State.tb3Enter_fr | apply State.tb3Rate_fr | dsimp only | split | decide

theorem execCstRecordStore_fr (failed : Nat) (s : State) : FrameOf 12582916 s (execCstRecordStore failed s) := by
  have hF : 12582916 &&& 12582916 = 12582916 := by decide
  unfold execCstRecordStore
  with_reducible repeat' first
    | assumption | intro _ | exact Frame.refl _ | subst x
    | (extract_lets +onlyGivenNames x; first | (have hx : Frame 12582916 s x := ?_; clear_value x) | (have hx : Frame 12582916 s x.1 := ?_; clear_value x) | (have hf := fun a => x a; clear hf) | (have hf : CiphState := x; clear hf) | (have hf : SecState := x; clear hf) | (have hf : LevelSeq := x; clear hf) | (have hf : CstState := x; clear hf) | clear_value x)
    | exact id_fr _ | apply next_fr | apply iteo_fr | apply ite_fr | apply State.modCst_fr | apply State.waitTb3_fr
    | apply State.cstCount_fr | dsimp only | split | decide

theorem execCstLevelLatch_fr (s : State) : FrameOf 12582912 s (execCstLevelLatch s) := by
  have hF : 12582912 &&& 12582912 = 12582912 := by decide
  unfold execCstLevelLatch
  with_reducible repeat' first
    | assumption | intro _ | exact Frame.refl _ | subst x
    | (extract_lets +onlyGivenNames x; first | (have hx : Frame 12582912 s x := ?_; clear_value x) | (have hx : Frame 12582912 s x.1 := ?_; clear_value x) | (have hf := fun a => x a; clear hf) | (have hf : CiphState := x; clear hf) | (have hf : SecState := x; clear hf) | (have hf : LevelSeq := x; clear hf) | (have hf : CstState := x; clear hf) | clear_value x)
    | apply next_fr | apply iteo_fr | apply ite_fr | apply State.modCst_fr | dsimp only | split | decide

theorem execCstCheckpoint_fr (s : State) : FrameOf 12582916 s (execCstCheckpoint s) := by
  unfold execCstCheckpoint
  with_reducible repeat' first
    | apply next_fr | exact Frame.refl _ | decide | apply iteo_fr | apply ite_fr | apply State.cstSave_fr
    | apply State.waitClk_fr

theorem execCstRstN_fr (s : State) : FrameOf 29376531 s (execCstRstN s) := by
  unfold execCstRstN
  with_reducible repeat' first | apply next_fr | exact Frame.refl _ | decide | apply State.cstReset_fr

theorem execVddCstLoss_fr (s : State) : FrameOf 29376531 s (execVddCstLoss s) := by
  unfold execVddCstLoss
  with_reducible repeat' first | apply next_fr | exact Frame.refl _ | decide | apply State.cstReset_fr

theorem execCstResetRequest_fr (by_ : Source) (s : State) : FrameOf 29376531 s (execCstResetRequest by_ s) := by
  unfold execCstResetRequest
  with_reducible repeat' first
    | assumption | apply next_fr | exact Frame.refl _ | decide | assumption | apply iteo_fr | apply ite_fr
    | apply itep_fr | apply State.byWrite_fr | apply State.cstRequest_fr | apply foldl_fr | intro _
    | (extract_lets +onlyGivenNames x; first | (have hx : Frame 29376531 s x := ?_; clear_value x) | (have hx : Frame 29376531 s x.1 := ?_; clear_value x) | (have hf := fun a => x a; clear hf) | (have hf : CiphState := x; clear hf) | (have hf : SecState := x; clear hf) | clear_value x)
    | split

theorem execCstReady_fr (s : State) : FrameOf 12582913 s (execCstReady s) := by
  have hF : 12582913 &&& 12582913 = 12582913 := by decide
  unfold execCstReady
  with_reducible repeat' first
    | assumption | intro _ | exact Frame.refl _ | subst x
    | (extract_lets +onlyGivenNames x; first | (have hx : Frame 12582913 s x := ?_; clear_value x) | (have hx : Frame 12582913 s x.1 := ?_; clear_value x) | (have hf := fun a => x a; clear hf) | (have hf : CiphState := x; clear hf) | (have hf : SecState := x; clear hf) | (have hf : LevelSeq := x; clear hf) | (have hf : CstState := x; clear hf) | clear_value x)
    | exact id_fr _ | apply next_fr | apply iteo_fr | apply ite_fr | apply State.cstShow_fr
    | apply State.cstCount_fr | dsimp only | split | refine Frame.raw ?_ | decide

theorem execCstPatchGo_fr (s : State) : FrameOf 12582929 s (execCstPatchGo s) := by
  unfold execCstPatchGo
  with_reducible repeat' first
    | assumption | apply next_fr | exact Frame.refl _ | decide | assumption | apply iteo_fr | apply ite_fr
    | apply itep_fr | apply State.hostWrite_fr | apply State.patchGo_fr | apply foldl_fr | intro _
    | (extract_lets +onlyGivenNames x; first | (have hx : Frame 12582929 s x := ?_; clear_value x) | (have hx : Frame 12582929 s x.1 := ?_; clear_value x) | (have hf := fun a => x a; clear hf) | (have hf : CiphState := x; clear hf) | (have hf : SecState := x; clear hf) | clear_value x)
    | split

theorem execCstPatchVerified_fr (good : Bool) (level : Nat) (s : State) : FrameOf 12582912 s (execCstPatchVerified
    good level s) := by
  unfold execCstPatchVerified
  with_reducible repeat' first
    | apply next_fr | exact Frame.refl _ | decide | apply iteo_fr | apply ite_fr | apply State.modCst_fr
    | apply State.cstCount_fr

theorem execCstSelWrite_fr (by_ : Source) (seq : BitVec 64) (s : State) : FrameOf 281018385 s (execCstSelWrite by_ seq
    s) := by
  unfold execCstSelWrite
  with_reducible repeat' first
    | assumption | apply next_fr | exact Frame.refl _ | decide | assumption | apply iteo_fr | apply ite_fr
    | apply itep_fr | apply State.byWrite_fr | apply State.cstSelect_fr | apply State.setWide_fr
    | apply State.answer_fr | apply foldl_fr | intro _
    | (extract_lets +onlyGivenNames x; first | (have hx : Frame 281018385 s x := ?_; clear_value x) | (have hx : Frame 281018385 s x.1 := ?_; clear_value x) | (have hf := fun a => x a; clear hf) | (have hf : CiphState := x; clear hf) | (have hf : SecState := x; clear hf) | clear_value x)
    | split

/-! ### Sec.lean -/

theorem State.imgRow_fr (s : State) (by_ : Source) (cmd kind len : Nat) : FrameOf 536870929 s (State.imgRow s by_ cmd
    kind len) := by
  unfold State.imgRow
  with_reducible repeat' first
    | assumption | apply next_fr | exact Frame.refl _ | decide | assumption | apply iteo_fr | apply ite_fr
    | apply itep_fr | apply State.byWrite_fr | apply State.writeImgCtrl_fr | apply State.answer_fr | apply foldl_fr
    | intro _
    | (extract_lets +onlyGivenNames x; first | (have hx : Frame 536870929 s x := ?_; clear_value x) | (have hx : Frame 536870929 s x.1 := ?_; clear_value x) | (have hf := fun a => x a; clear hf) | (have hf : CiphState := x; clear hf) | (have hf : SecState := x; clear hf) | clear_value x)
    | split

theorem execImgBegin_fr (by_ : Source) (kind : BitVec 2) (len : BitVec 16) (s : State) : FrameOf 536870929 s
    (execImgBegin by_ kind len s) := by
  unfold execImgBegin
  with_reducible repeat' first | apply next_fr | exact Frame.refl _ | decide | apply State.imgRow_fr

theorem execImgAppend_fr (by_ : Source) (kind : BitVec 2) (len : BitVec 16) (s : State) : FrameOf 536870929 s
    (execImgAppend by_ kind len s) := by
  unfold execImgAppend
  with_reducible repeat' first | apply next_fr | exact Frame.refl _ | decide | apply State.imgRow_fr

theorem execImgCommit_fr (by_ : Source) (kind : BitVec 2) (len : BitVec 16) (s : State) : FrameOf 536870929 s
    (execImgCommit by_ kind len s) := by
  unfold execImgCommit
  with_reducible repeat' first | apply next_fr | exact Frame.refl _ | decide | apply State.imgRow_fr

theorem execImgCancel_fr (by_ : Source) (kind : BitVec 2) (len : BitVec 16) (s : State) : FrameOf 536870929 s
    (execImgCancel by_ kind len s) := by
  unfold execImgCancel
  with_reducible repeat' first | apply next_fr | exact Frame.refl _ | decide | apply State.imgRow_fr

theorem execImgRunRecovery_fr (by_ : Source) (kind : BitVec 2) (len : BitVec 16) (s : State) : FrameOf 536870929 s
    (execImgRunRecovery by_ kind len s) := by
  unfold execImgRunRecovery
  with_reducible repeat' first | apply next_fr | exact Frame.refl _ | decide | apply State.imgRow_fr

theorem execImgCommitDone_fr (failed : Nat) (s : State) : FrameOf 536870929 s (execImgCommitDone failed s) := by
  have hF : 536870929 &&& 536870929 = 536870929 := by decide
  unfold execImgCommitDone
  with_reducible repeat' first
    | assumption | intro _ | exact Frame.refl _ | subst x
    | (extract_lets +onlyGivenNames x; first | (have hx : Frame 536870929 s x := ?_; clear_value x) | (have hx : Frame 536870929 s x.1 := ?_; clear_value x) | (have hf := fun a => x a; clear hf) | (have hf : CiphState := x; clear hf) | (have hf : SecState := x; clear hf) | (have hf : LevelSeq := x; clear hf) | (have hf : CstState := x; clear hf) | clear_value x)
    | apply next_fr | apply iteo_fr | apply ite_fr | apply itep_fr | apply State.setB_fr | apply State.raise_fr
    | apply State.quarryRetire_fr | apply State.modSec_fr | apply State.showPrefs_fr | apply State.imgCode_fr
    | dsimp only | (apply fst_fr; assumption) | split | decide

theorem execSecLockWrite_fr (by_ : Source) (s : State) : FrameOf 536870929 s (execSecLockWrite by_ s) := by
  unfold execSecLockWrite
  with_reducible repeat' first
    | assumption | apply next_fr | exact Frame.refl _ | decide | assumption | apply iteo_fr | apply ite_fr
    | apply itep_fr | apply State.byWrite_fr | apply State.answer_fr | apply State.lockWindow_fr | apply foldl_fr
    | intro _
    | (extract_lets +onlyGivenNames x; first | (have hx : Frame 536870929 s x := ?_; clear_value x) | (have hx : Frame 536870929 s x.1 := ?_; clear_value x) | (have hf := fun a => x a; clear hf) | (have hf : CiphState := x; clear hf) | (have hf : SecState := x; clear hf) | clear_value x)
    | split

theorem execWindowTimeout_fr (s : State) : FrameOf 545259525 s (execWindowTimeout s) := by
  unfold execWindowTimeout
  with_reducible repeat' first
    | apply next_fr | exact Frame.refl _ | decide | apply iteo_fr | apply ite_fr | apply State.lockWindow_fr
    | apply State.waitClk_fr | split

theorem execCustomerHashFuse_fr (s : State) : FrameOf 536870929 s (execCustomerHashFuse s) := by
  unfold execCustomerHashFuse
  with_reducible repeat' first
    | assumption | apply next_fr | exact Frame.refl _ | decide | assumption | apply iteo_fr | apply ite_fr
    | apply itep_fr | apply State.hostWrite_fr | apply State.fuseHash_fr | apply foldl_fr | intro _
    | (extract_lets +onlyGivenNames x; first | (have hx : Frame 536870929 s x := ?_; clear_value x) | (have hx : Frame 536870929 s x.1 := ?_; clear_value x) | (have hf := fun a => x a; clear hf) | (have hf : CiphState := x; clear hf) | (have hf : SecState := x; clear hf) | clear_value x)
    | split

theorem execAttRequest_fr (by_ : Source) (nonce : BitVec 256) (s : State) : FrameOf 536870929 s (execAttRequest by_
    nonce s) := by
  unfold execAttRequest
  with_reducible repeat' first
    | assumption | apply next_fr | exact Frame.refl _ | decide | assumption | apply iteo_fr | apply ite_fr
    | apply itep_fr | apply State.byWrite_fr | apply State.setWordsFrom_fr | apply State.attRequest_fr
    | apply State.answer_fr | apply foldl_fr | intro _
    | (extract_lets +onlyGivenNames x; first | (have hx : Frame 536870929 s x := ?_; clear_value x) | (have hx : Frame 536870929 s x.1 := ?_; clear_value x) | (have hf := fun a => x a; clear hf) | (have hf : CiphState := x; clear hf) | (have hf : SecState := x; clear hf) | clear_value x)
    | split

theorem execAttQuoteReady_fr (s : State) : FrameOf 536870937 s (execAttQuoteReady s) := by
  unfold execAttQuoteReady
  with_reducible repeat' first
    | assumption | apply next_fr | exact Frame.refl _ | decide | assumption | apply iteo_fr | apply ite_fr
    | apply itep_fr | apply State.takeFree_fr | apply State.setReg_fr | apply State.setB_fr | apply State.modSec_fr
    | apply State.raise_fr | apply foldl_fr | intro _
    | (extract_lets +onlyGivenNames x; first | (have hx : Frame 536870937 s x := ?_; clear_value x) | (have hx : Frame 536870937 s x.1 := ?_; clear_value x) | (have hf := fun a => x a; clear hf) | (have hf : CiphState := x; clear hf) | (have hf : SecState := x; clear hf) | clear_value x)
    | split

/-! ### Reset.lean -/

theorem execFuncResetAssert_fr (by_ : Source) (k : Fin 15) (s : State) : FrameOf 234450935 s (execFuncResetAssert by_
    k s) := by
  unfold execFuncResetAssert
  with_reducible repeat' first
    | assumption | apply next_fr | exact Frame.refl _ | decide | assumption | apply iteo_fr | apply ite_fr
    | apply itep_fr | apply State.byWrite_fr | apply State.answer_fr | apply State.writeRstBit_fr | apply foldl_fr
    | intro _
    | (extract_lets +onlyGivenNames x; first | (have hx : Frame 234450935 s x := ?_; clear_value x) | (have hx : Frame 234450935 s x.1 := ?_; clear_value x) | (have hf := fun a => x a; clear hf) | (have hf : CiphState := x; clear hf) | (have hf : SecState := x; clear hf) | clear_value x)
    | split

theorem execFuncResetRelease_fr (by_ : Source) (k : Fin 15) (s : State) : FrameOf 234450935 s (execFuncResetRelease
    by_ k s) := by
  unfold execFuncResetRelease
  with_reducible repeat' first
    | assumption | apply next_fr | exact Frame.refl _ | decide | assumption | apply iteo_fr | apply ite_fr
    | apply itep_fr | apply State.byWrite_fr | apply State.answer_fr | apply State.writeRstBit_fr | apply foldl_fr
    | intro _
    | (extract_lets +onlyGivenNames x; first | (have hx : Frame 234450935 s x := ?_; clear_value x) | (have hx : Frame 234450935 s x.1 := ?_; clear_value x) | (have hf := fun a => x a; clear hf) | (have hf : CiphState := x; clear hf) | (have hf : SecState := x; clear hf) | clear_value x)
    | split

theorem execFuncResetExit_fr (k : Fin 15) (s : State) : FrameOf 802803707 s (execFuncResetExit k s) := by
  unfold execFuncResetExit
  with_reducible repeat' first
    | apply next_fr | exact Frame.refl _ | decide | apply iteo_fr | apply ite_fr | apply State.functionLeave_fr

theorem execLodgeCoreReset_fr (by_ : Option Source) (k : Fin 8) (s : State) : FrameOf 17 s (execLodgeCoreReset by_ k
    s) := by
  unfold execLodgeCoreReset
  with_reducible repeat' first
    | assumption | apply next_fr | exact Frame.refl _ | decide | assumption | apply iteo_fr | apply ite_fr
    | apply itep_fr | apply State.byWrite_fr | apply State.answer_fr | apply State.writeLodgeBit_fr
    | apply State.setB_fr | apply foldl_fr | intro _
    | (extract_lets +onlyGivenNames x; first | (have hx : Frame 17 s x := ?_; clear_value x) | (have hx : Frame 17 s x.1 := ?_; clear_value x) | (have hf := fun a => x a; clear hf) | (have hf : CiphState := x; clear hf) | (have hf : SecState := x; clear hf) | clear_value x)
    | split

theorem execLodgeCoreRestart_fr (k : Fin 8) (good : Bool) (s : State) : FrameOf 17 s (execLodgeCoreRestart k good s) := by
  unfold execLodgeCoreRestart
  with_reducible repeat' first
    | apply next_fr | exact Frame.refl _ | decide | apply iteo_fr | apply ite_fr | apply State.setB_fr
    | apply State.raise_fr

theorem execCiphUnblock_fr (by_ : Source) (s : State) : FrameOf 134217745 s (execCiphUnblock by_ s) := by
  unfold execCiphUnblock
  with_reducible repeat' first
    | assumption | apply next_fr | exact Frame.refl _ | decide | assumption | apply iteo_fr | apply ite_fr
    | apply itep_fr | apply State.byWrite_fr | apply State.answer_fr | apply State.ciphUnblock_fr | apply foldl_fr
    | intro _
    | (extract_lets +onlyGivenNames x; first | (have hx : Frame 134217745 s x := ?_; clear_value x) | (have hx : Frame 134217745 s x.1 := ?_; clear_value x) | (have hf := fun a => x a; clear hf) | (have hf : CiphState := x; clear hf) | (have hf : SecState := x; clear hf) | clear_value x)
    | split

theorem execCfgParityScan_fr (addr : Nat) (flips : Word) (s : State) : FrameOf 674875445 s (execCfgParityScan addr
    flips s) := by
  unfold execCfgParityScan
  with_reducible repeat' first
    | assumption | apply next_fr | exact Frame.refl _ | decide | assumption | apply iteo_fr | apply ite_fr
    | apply itep_fr | apply State.setReg_fr | apply State.modSec_fr | apply State.cfgParity_fr | apply foldl_fr
    | intro _
    | (extract_lets +onlyGivenNames x; first | (have hx : Frame 674875445 s x := ?_; clear_value x) | (have hx : Frame 674875445 s x.1 := ?_; clear_value x) | (have hf := fun a => x a; clear hf) | (have hf : CiphState := x; clear hf) | (have hf : SecState := x; clear hf) | clear_value x)
    | split

theorem execPcieFlr_fr (s : State) : FrameOf 40979 s (execPcieFlr s) := by
  have hF : 40979 &&& 40979 = 40979 := by decide
  unfold execPcieFlr
  with_reducible repeat' first
    | assumption | exact Frame.refl _ | exact id_fr _ | assumption | apply next_fr | apply iteo_fr | apply ite_fr
    | apply itep_fr | apply State.resetRange_fr | apply State.courseOrphan_fr | apply State.releaseLevel_fr
    | apply State.setNat_fr | apply foldl_fr | apply foldlp_fr | intro _
    | (extract_lets +onlyGivenNames x; first | (have hx : Frame 40979 s x := ?_; clear_value x) | (have hx : Frame 40979 s x.1 := ?_; clear_value x) | (have hf := fun a => x a; clear hf) | (have hf : CiphState := x; clear hf) | (have hf : SecState := x; clear hf) | clear_value x)
    | subst x | dsimp only | (apply fst_fr; assumption) | split | refine Frame.raw ?_ | decide

/-! ### Boot.lean -/

theorem execColdReset_fr (s : State) : FrameOf 1073741823 s (execColdReset s) := by
  unfold execColdReset
  with_reducible repeat' first
    | assumption | apply next_fr | exact Frame.refl _ | decide | assumption | apply iteo_fr | apply ite_fr
    | apply itep_fr | apply State.modSec_fr | apply State.coldReset_fr | apply foldl_fr | intro _
    | (extract_lets +onlyGivenNames x; first | (have hx : Frame 1073741823 s x := ?_; clear_value x) | (have hx : Frame 1073741823 s x.1 := ?_; clear_value x) | (have hf := fun a => x a; clear hf) | (have hf : CiphState := x; clear hf) | (have hf : SecState := x; clear hf) | clear_value x)
    | split

theorem execColdResetRelease_fr (cool : Bool) (s : State) : FrameOf 554041361 s (execColdResetRelease cool s) := by
  unfold execColdResetRelease
  with_reducible repeat' first
    | assumption | apply next_fr | exact Frame.refl _ | decide | assumption | apply iteo_fr | apply ite_fr
    | apply itep_fr | apply State.modSec_fr | apply State.tryRelease_fr | apply foldl_fr | intro _
    | (extract_lets +onlyGivenNames x; first | (have hx : Frame 554041361 s x := ?_; clear_value x) | (have hx : Frame 554041361 s x.1 := ?_; clear_value x) | (have hf := fun a => x a; clear hf) | (have hf : CiphState := x; clear hf) | (have hf : SecState := x; clear hf) | clear_value x)
    | split

theorem execSupplyUndervoltage_fr (s : State) : FrameOf 1073741823 s (execSupplyUndervoltage s) := by
  unfold execSupplyUndervoltage
  with_reducible repeat' first
    | assumption | apply next_fr | exact Frame.refl _ | decide | assumption | apply iteo_fr | apply ite_fr
    | apply itep_fr | apply State.modSec_fr | apply State.coldReset_fr | apply foldl_fr | intro _
    | (extract_lets +onlyGivenNames x; first | (have hx : Frame 1073741823 s x := ?_; clear_value x) | (have hx : Frame 1073741823 s x.1 := ?_; clear_value x) | (have hf := fun a => x a; clear hf) | (have hf : CiphState := x; clear hf) | (have hf : SecState := x; clear hf) | clear_value x)
    | split

theorem execSupplyRestored_fr (s : State) : FrameOf 554041361 s (execSupplyRestored s) := by
  unfold execSupplyRestored
  with_reducible repeat' first
    | assumption | apply next_fr | exact Frame.refl _ | decide | assumption | apply iteo_fr | apply ite_fr
    | apply itep_fr | apply State.tryRelease_fr | apply State.modSec_fr | apply foldl_fr | intro _
    | (extract_lets +onlyGivenNames x; first | (have hx : Frame 554041361 s x := ?_; clear_value x) | (have hx : Frame 554041361 s x.1 := ?_; clear_value x) | (have hf := fun a => x a; clear hf) | (have hf : CiphState := x; clear hf) | (have hf : SecState := x; clear hf) | clear_value x)
    | split

theorem execThermalTrip_fr (s : State) : FrameOf 1073741823 s (execThermalTrip s) := by
  unfold execThermalTrip
  with_reducible repeat' first
    | assumption | apply next_fr | exact Frame.refl _ | decide | assumption | apply iteo_fr | apply ite_fr
    | apply itep_fr | apply State.modSec_fr | apply State.coldReset_fr | apply foldl_fr | intro _
    | (extract_lets +onlyGivenNames x; first | (have hx : Frame 1073741823 s x := ?_; clear_value x) | (have hx : Frame 1073741823 s x.1 := ?_; clear_value x) | (have hf := fun a => x a; clear hf) | (have hf : CiphState := x; clear hf) | (have hf : SecState := x; clear hf) | clear_value x)
    | split

theorem execBootStage1Verified_fr (s : State) : FrameOf 536870913 s (execBootStage1Verified s) := by
  unfold execBootStage1Verified
  with_reducible repeat' first
    | apply next_fr | exact Frame.refl _ | decide | apply iteo_fr | apply ite_fr | apply State.bootFail_fr
    | apply State.set_fr | apply State.bootStep_fr | apply State.imageInForce_fr | split

theorem execBootEnginesLoaded_fr (s : State) : FrameOf 536870929 s (execBootEnginesLoaded s) := by
  unfold execBootEnginesLoaded
  with_reducible repeat' first
    | apply next_fr | exact Frame.refl _ | decide | apply iteo_fr | apply ite_fr | apply State.bootFail_fr
    | apply State.raiseIf_fr | apply State.set_fr | apply State.bootStep_fr | apply State.setNat_fr
    | apply State.imageInForce_fr | split

theorem setupEntries_fr {F : Nat} (hF : F &&& 67108865 = 67108865) (n : Nat) (bs : List Byte) {l : List (State → Option State)} (e : setupEntries n bs = some l) :
    ∀ f ∈ l, ∀ s t, f s = some t → Frame F s t := by
  induction n generalizing bs l with
  | zero =>
    unfold setupEntries at e
    split at e
    · cases e; intro f hf; cases hf
    · cases e
  | succ n ih =>
    have cons : ∀ (f : State → Option State) (bs' : List Byte), (∀ s t, f s = some t → Frame F s t) →
        (setupEntries n bs').map (fun l => f :: l) = some l → ∀ g ∈ l, ∀ s t, g s = some t → Frame F s t := by
      intro f bs' hf hm
      cases hl : setupEntries n bs' with
      | none => rw [hl] at hm; cases hm
      | some l' =>
        rw [hl] at hm
        cases hm
        intro g hg
        rcases List.mem_cons.mp hg with rfl | hg
        · exact hf
        · exact ih bs' hl g hg
    unfold setupEntries at e
    split at e
    · cases e; intro f hf; cases hf
    · split at e
      · cases e
      · split at e
        · extract_lets a at e
          split at e
          · cases e
          · split at e
            · cases e
            · refine cons _ _ ?_ e
              intro s t k
              cases k
              exact State.setNat_fr _ _ _ (Frame.refl s)
        · extract_lets len at e
          split at e
          · cases e
          · exact cons _ _ (fun s t k => setRwlObj_fr _ _ _ _ k (Frame.refl s)) e
        · cases e

theorem applySetup_fr {F : Nat} {r0 : State} (s : State) (payload : List Byte) {t : State} (e : s.applySetup payload = some t)
    (h0 : Frame F r0 s)
    (hF : F &&& 67108865 = 67108865 := by first | decide | exact sub_of (by assumption) (by decide)) : Frame F r0 t := by
  unfold State.applySetup at e
  split at e
  · cases e
  · rename_i l hl
    have hk := setupEntries_fr hF _ _ hl
    clear hl
    induction l generalizing s with
    | nil => cases e; exact h0
    | cons f l ih =>
      rw [List.foldl_cons, Option.bind_some] at e
      cases hf : f s with
      | none =>
        rw [hf] at e
        have : ∀ l : List (State → Option State), l.foldl (fun o f => o.bind f) none = none := by
          intro l; induction l with
          | nil => rfl
          | cons a l ih => exact ih
        rw [this] at e
        cases e
      | some u =>
        rw [hf] at e
        exact ih u (h0.trans (hk f List.mem_cons_self s u hf)) e fun g hg => hk g (List.mem_cons_of_mem _ hg)

theorem execSetupRecordApplied_fr (s : State) : FrameOf 603979793 s (execSetupRecordApplied s) := by
  have hF : 603979793 &&& 603979793 = 603979793 := by decide
  unfold execSetupRecordApplied
  refine iteo_fr _ (Frame.refl s) ?_
  refine State.bootStep_fr _ _ (State.setB_fr _ _ _ (State.setB_fr _ _ _ ?_))
  split
  · exact Frame.refl s
  · extract_lets img
    split
    · exact State.raise_fr _ _ (Frame.refl s)
    · exact State.setB_fr _ _ _ (State.imageInForce_fr _ _ _ _ (applySetup_fr _ _ (by assumption) (Frame.refl s)))

theorem execCalSetsLoaded_fr (s : State) : FrameOf 537919537 s (execCalSetsLoaded s) := by
  unfold execCalSetsLoaded
  with_reducible repeat' first
    | apply next_fr | exact Frame.refl _ | decide | apply iteo_fr | apply ite_fr | apply State.bootStep_fr
    | apply State.calLoad_fr

theorem execSecLockSet_fr (s : State) : FrameOf 536870913 s (execSecLockSet s) := by
  unfold execSecLockSet
  with_reducible repeat' first
    | apply next_fr | exact Frame.refl _ | decide | apply iteo_fr | apply ite_fr | apply State.bootStep_fr
    | apply State.advanceSvn_fr | apply State.lockWindow_fr

theorem execMgtReady_fr (s : State) : FrameOf 805171199 s (execMgtReady s) := by
  have hF : 805171199 &&& 805171199 = 805171199 := by decide
  unfold execMgtReady
  with_reducible repeat' first
    | assumption | exact Frame.refl _ | exact id_fr _ | assumption | apply next_fr | apply iteo_fr | apply ite_fr
    | apply itep_fr | apply State.setB_fr | apply State.releaseAll_fr | apply State.bootStep_fr | apply State.set_fr
    | apply State.showAll_fr | apply State.modSec_fr | apply foldl_fr | apply foldlp_fr | intro _
    | (extract_lets +onlyGivenNames x; first | (have hx : Frame 805171199 s x := ?_; clear_value x) | (have hx : Frame 805171199 s x.1 := ?_; clear_value x) | (have hf := fun a => x a; clear hf) | (have hf : CiphState := x; clear hf) | (have hf : SecState := x; clear hf) | clear_value x)
    | subst x | dsimp only | (apply fst_fr; assumption) | split | refine Frame.raw ?_ | decide

theorem execWarmResetRequest_fr (by_ : Source) (s : State) : FrameOf 536870929 s (execWarmResetRequest by_ s) := by
  unfold execWarmResetRequest
  with_reducible repeat' first
    | assumption | apply next_fr | exact Frame.refl _ | decide | assumption | apply iteo_fr | apply ite_fr
    | apply itep_fr | apply State.byWrite_fr | apply State.answer_fr | apply State.warmRequest_fr | apply foldl_fr
    | intro _
    | (extract_lets +onlyGivenNames x; first | (have hx : Frame 536870929 s x := ?_; clear_value x) | (have hx : Frame 536870929 s x.1 := ?_; clear_value x) | (have hf := fun a => x a; clear hf) | (have hf : CiphState := x; clear hf) | (have hf : SecState := x; clear hf) | clear_value x)
    | split

theorem execWarmResetStart_fr (s : State) : FrameOf 771354615 s (execWarmResetStart s) := by
  have hF : 771354615 &&& 771354615 = 771354615 := by decide
  unfold execWarmResetStart
  with_reducible repeat' first
    | assumption | exact Frame.refl _ | exact id_fr _ | assumption | apply next_fr | apply iteo_fr | apply ite_fr
    | apply itep_fr | apply State.endFreeze_fr | apply State.modCrs_fr | apply State.setB_fr | apply State.set_fr
    | apply State.modSec_fr | apply State.functionEnter_fr | apply foldl_fr | apply foldlp_fr | intro _
    | (extract_lets +onlyGivenNames x; first | (have hx : Frame 771354615 s x := ?_; clear_value x) | (have hx : Frame 771354615 s x.1 := ?_; clear_value x) | (have hf := fun a => x a; clear hf) | (have hf : CiphState := x; clear hf) | (have hf : SecState := x; clear hf) | clear_value x)
    | subst x | dsimp only | (apply fst_fr; assumption) | split | refine Frame.raw ?_ | decide

theorem execMgtLinkChange_fr (i : Fin 2) (v : Bool) (s : State) : FrameOf 603979776 s (execMgtLinkChange i v s) := by
  unfold execMgtLinkChange
  with_reducible repeat' first
    | assumption | apply next_fr | exact Frame.refl _ | decide | assumption | apply iteo_fr | apply ite_fr
    | apply itep_fr | apply State.modSec_fr | apply State.linkShow_fr | apply foldl_fr | intro _
    | (extract_lets +onlyGivenNames x; first | (have hx : Frame 603979776 s x := ?_; clear_value x) | (have hx : Frame 603979776 s x.1 := ?_; clear_value x) | (have hf := fun a => x a; clear hf) | (have hf : CiphState := x; clear hf) | (have hf : SecState := x; clear hf) | clear_value x)
    | split

theorem execVddNvThreshold_fr (above : Bool) (s : State) : FrameOf 536870912 s (execVddNvThreshold above s) := by
  unfold execVddNvThreshold
  with_reducible repeat' first
    | assumption | apply next_fr | exact Frame.refl _ | decide | assumption | apply iteo_fr | apply ite_fr
    | apply itep_fr | apply State.modSec_fr | apply foldl_fr | intro _
    | (extract_lets +onlyGivenNames x; first | (have hx : Frame 536870912 s x := ?_; clear_value x) | (have hx : Frame 536870912 s x.1 := ?_; clear_value x) | (have hf := fun a => x a; clear hf) | (have hf : CiphState := x; clear hf) | (have hf : SecState := x; clear hf) | clear_value x)
    | split

/-! ### Access.lean -/

theorem execLevelDataRead_fr (addr size : Nat) (s : State) : FrameOf 18890775 s (execLevelDataRead addr size s) := by
  unfold execLevelDataRead
  with_reducible repeat' first
    | apply next_fr | exact Frame.refl _ | decide | apply iteo_fr | apply ite_fr | apply State.readPcie_fr | split

theorem execWideLoRead_fr (addr size : Nat) (s : State) : FrameOf 18890775 s (execWideLoRead addr size s) := by
  unfold execWideLoRead
  with_reducible repeat' first
    | apply next_fr | exact Frame.refl _ | decide | apply iteo_fr | apply ite_fr | apply State.readPcie_fr

theorem execPcieUnsupportedRequest_fr (s : State) : FrameOf 16 s (execPcieUnsupportedRequest s) := by
  unfold execPcieUnsupportedRequest
  with_reducible repeat' first
    | apply next_fr | exact Frame.refl _ | decide | apply iteo_fr | apply ite_fr | apply State.emit_fr

theorem execPcieReadAbort_fr (addr size : Nat) (contiguous : Bool) (s : State) : FrameOf 18890775 s (execPcieReadAbort
    addr size contiguous s) := by
  unfold execPcieReadAbort
  with_reducible repeat' first
    | apply next_fr | exact Frame.refl _ | decide | apply iteo_fr | apply ite_fr | apply State.readPcie_fr

theorem execRegisterWrite_fr (addr size : Nat) (contiguous : Bool) (v : BitVec 64) (s : State) : FrameOf 1073344511 s
    (execRegisterWrite addr size contiguous v s) := by
  unfold execRegisterWrite
  with_reducible repeat' first
    | apply next_fr | exact Frame.refl _ | decide | apply iteo_fr | apply ite_fr | apply State.emit_fr
    | apply State.logAcc_fr | apply State.writePcie_fr

/-! ### Objects.lean -/

theorem execHkmResultRead_fr (by_ : Source) (x : Fin 2) (s : State) : FrameOf 18890783 s (execHkmResultRead by_ x s)
    := by
  have hF : 18890783 &&& 18890783 = 18890783 := by decide
  unfold execHkmResultRead
  with_reducible repeat' first
    | assumption | intro _ | exact Frame.refl _ | subst x
    | (extract_lets +onlyGivenNames x; first | (have hx : Frame 18890783 s x := ?_; clear_value x) | (have hx : Frame 18890783 s x.1 := ?_; clear_value x) | (have hf := fun a => x a; clear hf) | (have hf : CiphState := x; clear hf) | (have hf : SecState := x; clear hf) | (have hf : LevelSeq := x; clear hf) | (have hf : CstState := x; clear hf) | clear_value x)
    | apply next_fr | apply iteo_fr | apply ite_fr | apply itep_fr | apply State.emit_fr | apply State.readPcie_fr
    | apply State.readObj_fr | dsimp only | (apply fst_fr; assumption) | split | decide

/-! ### Cop.lean -/

theorem execCopRead_fr (m : CopRx) (full : Bool) (s : State) : FrameOf 354437277 s (execCopRead m full s) := by
  unfold execCopRead
  with_reducible repeat' first
    | assumption | apply next_fr | exact Frame.refl _ | decide | assumption | apply iteo_fr | apply ite_fr
    | apply itep_fr | apply State.copServe_fr | apply State.opRead_fr | apply foldl_fr | intro _
    | (extract_lets +onlyGivenNames x; first | (have hx : Frame 354437277 s x := ?_; clear_value x) | (have hx : Frame 354437277 s x.1 := ?_; clear_value x) | (have hf := fun a => x a; clear hf) | (have hf : CiphState := x; clear hf) | (have hf : SecState := x; clear hf) | clear_value x)
    | split

theorem execCopWrite_fr (m : CopRx) (full : Bool) (s : State) : FrameOf 1073344511 s (execCopWrite m full s) := by
  unfold execCopWrite
  with_reducible repeat' first
    | assumption | apply next_fr | exact Frame.refl _ | decide | assumption | apply iteo_fr | apply ite_fr
    | apply itep_fr | apply State.copServe_fr | apply State.opWrite_fr | apply foldl_fr | intro _
    | (extract_lets +onlyGivenNames x; first | (have hx : Frame 1073344511 s x := ?_; clear_value x) | (have hx : Frame 1073344511 s x.1 := ?_; clear_value x) | (have hf := fun a => x a; clear hf) | (have hf : CiphState := x; clear hf) | (have hf : SecState := x; clear hf) | clear_value x)
    | split

theorem execCopLevelRead_fr (m : CopRx) (full : Bool) (s : State) : FrameOf 354437277 s (execCopLevelRead m full s) := by
  unfold execCopLevelRead
  with_reducible repeat' first
    | assumption | apply next_fr | exact Frame.refl _ | decide | assumption | apply iteo_fr | apply ite_fr
    | apply itep_fr | apply State.copServe_fr | apply State.opLevelRead_fr | apply foldl_fr | intro _
    | (extract_lets +onlyGivenNames x; first | (have hx : Frame 354437277 s x := ?_; clear_value x) | (have hx : Frame 354437277 s x.1 := ?_; clear_value x) | (have hf := fun a => x a; clear hf) | (have hf : CiphState := x; clear hf) | (have hf : SecState := x; clear hf) | clear_value x)
    | split

theorem execCopBlockRead_fr (m : CopRx) (full : Bool) (s : State) : FrameOf 354437277 s (execCopBlockRead m full s) := by
  unfold execCopBlockRead
  with_reducible repeat' first
    | assumption | apply next_fr | exact Frame.refl _ | decide | assumption | apply iteo_fr | apply ite_fr
    | apply itep_fr | apply State.copServe_fr | apply State.opBlockRead_fr | apply foldl_fr | intro _
    | (extract_lets +onlyGivenNames x; first | (have hx : Frame 354437277 s x := ?_; clear_value x) | (have hx : Frame 354437277 s x.1 := ?_; clear_value x) | (have hf := fun a => x a; clear hf) | (have hf : CiphState := x; clear hf) | (have hf : SecState := x; clear hf) | clear_value x)
    | split

theorem execCopBlockWrite_fr (m : CopRx) (full : Bool) (s : State) : FrameOf 1073344511 s (execCopBlockWrite m full s) := by
  unfold execCopBlockWrite
  with_reducible repeat' first
    | assumption | apply next_fr | exact Frame.refl _ | decide | assumption | apply iteo_fr | apply ite_fr
    | apply itep_fr | apply State.copServe_fr | apply State.opBlockWrite_fr | apply foldl_fr | intro _
    | (extract_lets +onlyGivenNames x; first | (have hx : Frame 1073344511 s x := ?_; clear_value x) | (have hx : Frame 1073344511 s x.1 := ?_; clear_value x) | (have hf := fun a => x a; clear hf) | (have hf : CiphState := x; clear hf) | (have hf : SecState := x; clear hf) | clear_value x)
    | split

theorem execBlockExpire_fr (k : Nat) (s : State) : FrameOf 276824068 s (execBlockExpire k s) := by
  unfold execBlockExpire
  with_reducible repeat' first
    | apply next_fr | exact Frame.refl _ | decide | apply iteo_fr | apply ite_fr | apply State.setBlock_fr
    | apply State.waitClk_fr | split

theorem execCopOpInvalid_fr (m : CopRx) (full : Bool) (s : State) : FrameOf 335562905 s (execCopOpInvalid m full s) := by
  unfold execCopOpInvalid
  with_reducible repeat' first
    | assumption | apply next_fr | exact Frame.refl _ | decide | assumption | apply iteo_fr | apply ite_fr
    | apply itep_fr | apply State.copServe_fr | apply foldl_fr | intro _
    | (extract_lets +onlyGivenNames x; first | (have hx : Frame 335562905 s x := ?_; clear_value x) | (have hx : Frame 335562905 s x.1 := ?_; clear_value x) | (have hf := fun a => x a; clear hf) | (have hf : CiphState := x; clear hf) | (have hf : SecState := x; clear hf) | clear_value x)
    | split

theorem execSessionOpen_fr (m : CopRx) (full : Bool) (s : State) : FrameOf 335562905 s (execSessionOpen m full s) := by
  have hF : 335562905 &&& 335562905 = 335562905 := by decide
  unfold execSessionOpen
  split
  · exact next_fr (ite_fr _ _ _ (State.copDiscard_fr _ (State.copCount_fr _ _ (Frame.refl s))) (Frame.refl s))
  · refine iteo_fr _ (Frame.refl s) ?_
    extract_lets s1 key tell rn id x s2 src s3
    have h1 : Frame 335562905 s s1 := State.copCount_fr _ _ (Frame.refl s)
    refine iteo_fr _ (next_fr (State.copDiscard_fr _ h1)) ?_
    have hs : ∀ t st b, Frame 335562905 s t → Frame 335562905 s (tell t st b) := fun t st b h =>
      State.copOut_fr _ _ _ _ _ (ite_fr _ _ _ (State.bumpObj_fr _ _ _ _ _ h) h)
    have h2 : Frame 335562905 s s2 := State.takeFree_fr h1
    have h3 : Frame 335562905 s s3 := by
      unfold s3 src
      clear_value s2 x
      exact Frame.raw h2
    clear_value tell s3
    refine iteo_fr _ (hs _ _ _ (State.bumpObj_fr _ _ _ _ _ h1)) (iteo_fr _ (hs _ _ _ h1) (iteo_fr _ (hs _ _ _ h1) ?_))
    exact hs _ _ _ h3

theorem execSessionClose_fr (m : CopRx) (full : Bool) (s : State) : FrameOf 503376025 s (execSessionClose m full s) := by
  unfold execSessionClose
  with_reducible repeat' first
    | assumption | apply next_fr | exact Frame.refl _ | decide | assumption | apply iteo_fr | apply ite_fr
    | apply itep_fr | apply State.copServe_fr | apply State.sessionEnd_fr | apply foldl_fr | intro _
    | (extract_lets +onlyGivenNames x; first | (have hx : Frame 503376025 s x := ?_; clear_value x) | (have hx : Frame 503376025 s x.1 := ?_; clear_value x) | (have hf := fun a => x a; clear hf) | (have hf : CiphState := x; clear hf) | (have hf : SecState := x; clear hf) | clear_value x)
    | split

theorem execSessionTimeout_fr (k : Nat) (s : State) : FrameOf 444637188 s (execSessionTimeout k s) := by
  unfold execSessionTimeout
  with_reducible repeat' first
    | apply next_fr | exact Frame.refl _ | decide | apply iteo_fr | apply ite_fr | apply State.sessionEnd_fr
    | apply State.waitClk_fr | split

/-! ### Domain.lean -/

theorem execCopRelay_fr (m : CopRx) (s : State) : FrameOf 335562905 s (execCopRelay m s) := by
  unfold execCopRelay
  with_reducible repeat' first
    | assumption | apply next_fr | exact Frame.refl _ | decide | apply iteo_fr | apply ite_fr
    | apply State.copDiscard_fr | apply State.copCount_fr | apply State.copOut_fr | apply State.relayUnreachable_fr
    | apply State.modCop_fr | (extract_lets +onlyGivenNames x; have hx : Frame 335562905 s x := ?_; clear_value x)
    | split

theorem execTimePoll_fr (m : CopRx) (d : Fin 1251) (s : State) : FrameOf 343951517 s (execTimePoll m d s) := by
  unfold execTimePoll
  with_reducible repeat' first
    | assumption | apply next_fr | exact Frame.refl _ | decide | assumption | apply iteo_fr | apply ite_fr
    | apply itep_fr | apply State.copServe_fr | apply State.elapse_fr | apply State.modCop_fr | apply foldl_fr
    | intro _
    | (extract_lets +onlyGivenNames x; first | (have hx : Frame 343951517 s x := ?_; clear_value x) | (have hx : Frame 343951517 s x.1 := ?_; clear_value x) | (have hf := fun a => x a; clear hf) | (have hf : CiphState := x; clear hf) | (have hf : SecState := x; clear hf) | clear_value x)
    | split

theorem execPollRoundStart_fr (s : State) : FrameOf 343932932 s (execPollRoundStart s) := by
  unfold execPollRoundStart
  with_reducible repeat' first
    | apply next_fr | exact Frame.refl _ | decide | apply iteo_fr | apply ite_fr | apply State.modCop_fr
    | apply State.waitTb_fr | apply State.bumpObj_fr

theorem execPollSend_fr (s : State) : FrameOf 276824084 s (execPollSend s) := by
  unfold execPollSend
  with_reducible repeat' first
    | apply next_fr | exact Frame.refl _ | decide | apply iteo_fr | apply ite_fr | apply State.waitTb_fr
    | apply State.modCop_fr | apply State.emit_fr | split

theorem execTimePollAnswer_fr (node : BitVec 14) (body : List Byte) (s : State) : FrameOf 268435472 s
    (execTimePollAnswer node body s) := by
  unfold execTimePollAnswer
  with_reducible repeat' first
    | assumption | apply next_fr | exact Frame.refl _ | decide | assumption | apply iteo_fr | apply ite_fr
    | apply itep_fr | apply State.setNode_fr | apply State.modCop_fr | apply State.reportPresence_fr | apply foldl_fr
    | intro _
    | (extract_lets +onlyGivenNames x; first | (have hx : Frame 268435472 s x := ?_; clear_value x) | (have hx : Frame 268435472 s x.1 := ?_; clear_value x) | (have hf := fun a => x a; clear hf) | (have hf : CiphState := x; clear hf) | (have hf : SecState := x; clear hf) | clear_value x)
    | split

theorem execPollTimeout_fr (node : BitVec 14) (s : State) : FrameOf 276824084 s (execPollTimeout node s) := by
  unfold execPollTimeout
  with_reducible repeat' first
    | assumption | apply next_fr | exact Frame.refl _ | decide | assumption | apply iteo_fr | apply ite_fr
    | apply itep_fr | apply State.waitTb_fr | apply State.modCop_fr | apply State.setNode_fr
    | apply State.reportPresence_fr | apply foldl_fr | intro _
    | (extract_lets +onlyGivenNames x; first | (have hx : Frame 276824084 s x := ?_; clear_value x) | (have hx : Frame 276824084 s x.1 := ?_; clear_value x) | (have hf := fun a => x a; clear hf) | (have hf : CiphState := x; clear hf) | (have hf : SecState := x; clear hf) | clear_value x)
    | split

theorem execAnnounceDue_fr (s : State) : FrameOf 276824084 s (execAnnounceDue s) := by
  unfold execAnnounceDue
  with_reducible repeat' first
    | assumption | apply next_fr | exact Frame.refl _ | decide | assumption | apply iteo_fr | apply ite_fr
    | apply itep_fr | apply State.waitTb_fr | apply State.modCop_fr | apply State.emit_fr | apply foldl_fr | intro _
    | (extract_lets +onlyGivenNames x; first | (have hx : Frame 276824084 s x := ?_; clear_value x) | (have hx : Frame 276824084 s x.1 := ?_; clear_value x) | (have hf := fun a => x a; clear hf) | (have hf : CiphState := x; clear hf) | (have hf : SecState := x; clear hf) | clear_value x)
    | split

theorem execAnnounceReceive_fr (node : BitVec 14) (path : Fin 4) (lane : Fin 8) (addr : List Byte) (s : State) :
    FrameOf 268435456 s (execAnnounceReceive node path lane addr s) := by
  unfold execAnnounceReceive
  with_reducible repeat' first
    | apply next_fr | exact Frame.refl _ | decide | apply iteo_fr | apply ite_fr | apply State.setNode_fr

theorem execNotify_fr (m : CopRx) (full : Bool) (s : State) : FrameOf 335562905 s (execNotify m full s) := by
  unfold execNotify
  with_reducible repeat' first
    | assumption | apply next_fr | exact Frame.refl _ | decide | assumption | apply iteo_fr | apply ite_fr
    | apply itep_fr | apply State.copServe_fr | apply State.setNode_fr | apply foldl_fr | intro _
    | (extract_lets +onlyGivenNames x; first | (have hx : Frame 335562905 s x := ?_; clear_value x) | (have hx : Frame 335562905 s x.1 := ?_; clear_value x) | (have hf := fun a => x a; clear hf) | (have hf : CiphState := x; clear hf) | (have hf : SecState := x; clear hf) | clear_value x)
    | split

theorem execStreamSampleSend_fr (i : Fin 16) (path : Fin 4) (lane : Fin 8) (s : State) : FrameOf 354437277 s
    (execStreamSampleSend i path lane s) := by
  unfold execStreamSampleSend
  with_reducible repeat' first
    | assumption | apply next_fr | exact Frame.refl _ | decide | assumption | apply iteo_fr | apply ite_fr
    | apply itep_fr | apply State.modCop_fr | apply State.bumpObj_fr | apply State.sampleEntries_fr
    | apply State.copOut_fr | apply foldl_fr | intro _
    | (extract_lets +onlyGivenNames x; first | (have hx : Frame 354437277 s x := ?_; clear_value x) | (have hx : Frame 354437277 s x.1 := ?_; clear_value x) | (have hf := fun a => x a; clear hf) | (have hf : CiphState := x; clear hf) | (have hf : SecState := x; clear hf) | clear_value x)
    | split

theorem execDomainLevelSchedule_fr (results : List (BitVec 14 × BitVec 16)) (s : State) : FrameOf 335552528 s
    (execDomainLevelSchedule results s) := by
  unfold execDomainLevelSchedule
  with_reducible repeat' first
    | assumption | exact Frame.refl _ | exact id_fr _ | assumption | apply next_fr | apply iteo_fr | apply ite_fr
    | apply itep_fr | apply State.modCop_fr | apply State.ownSlot_fr | apply State.emit_fr | apply State.setObj_fr
    | apply foldl_fr | apply foldlp_fr | intro _
    | (extract_lets +onlyGivenNames x; first | (have hx : Frame 335552528 s x := ?_; clear_value x) | (have hx : Frame 335552528 s x.1 := ?_; clear_value x) | (have hf := fun a => x a; clear hf) | (have hf : CiphState := x; clear hf) | (have hf : SecState := x; clear hf) | clear_value x)
    | subst x | dsimp only | (apply fst_fr; assumption) | split | decide

theorem execCourseAllocate_fr (k : Nat) (t : Time80) (s : State) : FrameOf 268435472 s (execCourseAllocate k t s) := by
  unfold execCourseAllocate
  with_reducible repeat' first
    | apply next_fr | exact Frame.refl _ | decide | apply iteo_fr | apply ite_fr | apply State.allocate_fr
    | apply State.answer_fr

theorem execDomainAbort_fr (k : Nat) (number : BitVec 32) (s : State) : FrameOf 51217 s (execDomainAbort k number s) := by
  unfold execDomainAbort
  with_reducible repeat' first
    | apply next_fr | exact Frame.refl _ | decide | apply iteo_fr | apply ite_fr | apply State.answer_fr
    | apply State.domainAbort_fr

end Sys2Proof.Machine
end

