-- ==== Sys2Proof/Laws/State.lean ====
section
/-!
SUPPORT. What each update of State does to each of its fields, true by definition.
-/

-- one theorem after another: all at once would not fit the memory
set_option Elab.async false

namespace Sys2Proof.Machine

variable (s : State)

/-! ### setReg -/

@[simp] theorem State.setReg_pending (a : Nat) (v : Word) : (s.setReg a v).pending = s.pending := (rfl)
@[simp] theorem State.setReg_regs (a : Nat) (v : Word) : (s.setReg a v).regs = storePut s.regs a v := (rfl)
@[simp] theorem State.setReg_shadow (a : Nat) (v : Word) : (s.setReg a v).shadow = s.shadow := (rfl)
@[simp] theorem State.setReg_clk (a : Nat) (v : Word) : (s.setReg a v).clk = s.clk := (rfl)
@[simp] theorem State.setReg_free (a : Nat) (v : Word) : (s.setReg a v).free = s.free := (rfl)
@[simp] theorem State.setReg_sent (a : Nat) (v : Word) : (s.setReg a v).sent = s.sent := (rfl)
@[simp] theorem State.setReg_msixPending (a : Nat) (v : Word) : (s.setReg a v).msixPending = s.msixPending := (rfl)
@[simp] theorem State.setReg_lanes (a : Nat) (v : Word) : (s.setReg a v).lanes = s.lanes := (rfl)
@[simp] theorem State.setReg_sampRef (a : Nat) (v : Word) : (s.setReg a v).sampRef = s.sampRef := (rfl)
@[simp] theorem State.setReg_lvl (a : Nat) (v : Word) : (s.setReg a v).lvl = s.lvl := (rfl)
@[simp] theorem State.setReg_crs (a : Nat) (v : Word) : (s.setReg a v).crs = s.crs := (rfl)
@[simp] theorem State.setReg_cli (a : Nat) (v : Word) : (s.setReg a v).cli = s.cli := (rfl)
@[simp] theorem State.setReg_tb (a : Nat) (v : Word) : (s.setReg a v).tb = s.tb := (rfl)
@[simp] theorem State.setReg_cold (a : Nat) (v : Word) : (s.setReg a v).cold = s.cold := (rfl)
@[simp] theorem State.setReg_bootHold (a : Nat) (v : Word) : (s.setReg a v).bootHold = s.bootHold := (rfl)
@[simp] theorem State.setReg_hkm (a : Nat) (v : Word) : (s.setReg a v).hkm = s.hkm := (rfl)
@[simp] theorem State.setReg_cal (a : Nat) (v : Word) : (s.setReg a v).cal = s.cal := (rfl)
@[simp] theorem State.setReg_mem (a : Nat) (v : Word) : (s.setReg a v).mem = s.mem := (rfl)
@[simp] theorem State.setReg_cst (a : Nat) (v : Word) : (s.setReg a v).cst = s.cst := (rfl)
@[simp] theorem State.setReg_plu (a : Nat) (v : Word) : (s.setReg a v).plu = s.plu := (rfl)
@[simp] theorem State.setReg_time (a : Nat) (v : Word) : (s.setReg a v).time = s.time := (rfl)
@[simp] theorem State.setReg_objs (a : Nat) (v : Word) : (s.setReg a v).objs = s.objs := (rfl)
@[simp] theorem State.setReg_ciph (a : Nat) (v : Word) : (s.setReg a v).ciph = s.ciph := (rfl)
@[simp] theorem State.setReg_cop (a : Nat) (v : Word) : (s.setReg a v).cop = s.cop := (rfl)
@[simp] theorem State.setReg_sec (a : Nat) (v : Word) : (s.setReg a v).sec = s.sec := (rfl)

/-! ### resetRange -/

@[simp] theorem State.resetRange_pending (lo hi : Nat) (keep : Nat → Bool) : (s.resetRange lo hi keep).pending = s.pending := (rfl)
@[simp] theorem State.resetRange_regs (lo hi : Nat) (keep : Nat → Bool) : (s.resetRange lo hi keep).regs = s.regs.filter fun p => p.1 < lo || hi ≤ p.1 || keep p.1 := (rfl)
@[simp] theorem State.resetRange_shadow (lo hi : Nat) (keep : Nat → Bool) : (s.resetRange lo hi keep).shadow = s.shadow.filter fun p => p.1 < lo || hi ≤ p.1 := (rfl)
@[simp] theorem State.resetRange_clk (lo hi : Nat) (keep : Nat → Bool) : (s.resetRange lo hi keep).clk = s.clk := (rfl)
@[simp] theorem State.resetRange_free (lo hi : Nat) (keep : Nat → Bool) : (s.resetRange lo hi keep).free = s.free := (rfl)
@[simp] theorem State.resetRange_sent (lo hi : Nat) (keep : Nat → Bool) : (s.resetRange lo hi keep).sent = s.sent := (rfl)
@[simp] theorem State.resetRange_msixPending (lo hi : Nat) (keep : Nat → Bool) : (s.resetRange lo hi keep).msixPending = s.msixPending := (rfl)
@[simp] theorem State.resetRange_lanes (lo hi : Nat) (keep : Nat → Bool) : (s.resetRange lo hi keep).lanes = s.lanes := (rfl)
@[simp] theorem State.resetRange_sampRef (lo hi : Nat) (keep : Nat → Bool) : (s.resetRange lo hi keep).sampRef = s.sampRef := (rfl)
@[simp] theorem State.resetRange_lvl (lo hi : Nat) (keep : Nat → Bool) : (s.resetRange lo hi keep).lvl = s.lvl := (rfl)
@[simp] theorem State.resetRange_crs (lo hi : Nat) (keep : Nat → Bool) : (s.resetRange lo hi keep).crs = s.crs := (rfl)
@[simp] theorem State.resetRange_cli (lo hi : Nat) (keep : Nat → Bool) : (s.resetRange lo hi keep).cli = s.cli := (rfl)
@[simp] theorem State.resetRange_tb (lo hi : Nat) (keep : Nat → Bool) : (s.resetRange lo hi keep).tb = s.tb := (rfl)
@[simp] theorem State.resetRange_cold (lo hi : Nat) (keep : Nat → Bool) : (s.resetRange lo hi keep).cold = s.cold := (rfl)
@[simp] theorem State.resetRange_bootHold (lo hi : Nat) (keep : Nat → Bool) : (s.resetRange lo hi keep).bootHold = s.bootHold := (rfl)
@[simp] theorem State.resetRange_hkm (lo hi : Nat) (keep : Nat → Bool) : (s.resetRange lo hi keep).hkm = s.hkm := (rfl)
@[simp] theorem State.resetRange_cal (lo hi : Nat) (keep : Nat → Bool) : (s.resetRange lo hi keep).cal = s.cal := (rfl)
@[simp] theorem State.resetRange_mem (lo hi : Nat) (keep : Nat → Bool) : (s.resetRange lo hi keep).mem = s.mem := (rfl)
@[simp] theorem State.resetRange_cst (lo hi : Nat) (keep : Nat → Bool) : (s.resetRange lo hi keep).cst = s.cst := (rfl)
@[simp] theorem State.resetRange_plu (lo hi : Nat) (keep : Nat → Bool) : (s.resetRange lo hi keep).plu = s.plu := (rfl)
@[simp] theorem State.resetRange_time (lo hi : Nat) (keep : Nat → Bool) : (s.resetRange lo hi keep).time = s.time := (rfl)
@[simp] theorem State.resetRange_objs (lo hi : Nat) (keep : Nat → Bool) : (s.resetRange lo hi keep).objs = s.objs := (rfl)
@[simp] theorem State.resetRange_ciph (lo hi : Nat) (keep : Nat → Bool) : (s.resetRange lo hi keep).ciph = s.ciph := (rfl)
@[simp] theorem State.resetRange_cop (lo hi : Nat) (keep : Nat → Bool) : (s.resetRange lo hi keep).cop = s.cop := (rfl)
@[simp] theorem State.resetRange_sec (lo hi : Nat) (keep : Nat → Bool) : (s.resetRange lo hi keep).sec = s.sec := (rfl)

/-! ### emit -/

@[simp] theorem State.emit_pending (e : Emit) : (s.emit e).pending = s.pending := (rfl)
@[simp] theorem State.emit_regs (e : Emit) : (s.emit e).regs = s.regs := (rfl)
@[simp] theorem State.emit_shadow (e : Emit) : (s.emit e).shadow = s.shadow := (rfl)
@[simp] theorem State.emit_clk (e : Emit) : (s.emit e).clk = s.clk := (rfl)
@[simp] theorem State.emit_free (e : Emit) : (s.emit e).free = s.free := (rfl)
@[simp] theorem State.emit_sent (e : Emit) : (s.emit e).sent = e :: s.sent := (rfl)
@[simp] theorem State.emit_msixPending (e : Emit) : (s.emit e).msixPending = s.msixPending := (rfl)
@[simp] theorem State.emit_lanes (e : Emit) : (s.emit e).lanes = s.lanes := (rfl)
@[simp] theorem State.emit_sampRef (e : Emit) : (s.emit e).sampRef = s.sampRef := (rfl)
@[simp] theorem State.emit_lvl (e : Emit) : (s.emit e).lvl = s.lvl := (rfl)
@[simp] theorem State.emit_crs (e : Emit) : (s.emit e).crs = s.crs := (rfl)
@[simp] theorem State.emit_cli (e : Emit) : (s.emit e).cli = s.cli := (rfl)
@[simp] theorem State.emit_tb (e : Emit) : (s.emit e).tb = s.tb := (rfl)
@[simp] theorem State.emit_cold (e : Emit) : (s.emit e).cold = s.cold := (rfl)
@[simp] theorem State.emit_bootHold (e : Emit) : (s.emit e).bootHold = s.bootHold := (rfl)
@[simp] theorem State.emit_hkm (e : Emit) : (s.emit e).hkm = s.hkm := (rfl)
@[simp] theorem State.emit_cal (e : Emit) : (s.emit e).cal = s.cal := (rfl)
@[simp] theorem State.emit_mem (e : Emit) : (s.emit e).mem = s.mem := (rfl)
@[simp] theorem State.emit_cst (e : Emit) : (s.emit e).cst = s.cst := (rfl)
@[simp] theorem State.emit_plu (e : Emit) : (s.emit e).plu = s.plu := (rfl)
@[simp] theorem State.emit_time (e : Emit) : (s.emit e).time = s.time := (rfl)
@[simp] theorem State.emit_objs (e : Emit) : (s.emit e).objs = s.objs := (rfl)
@[simp] theorem State.emit_ciph (e : Emit) : (s.emit e).ciph = s.ciph := (rfl)
@[simp] theorem State.emit_cop (e : Emit) : (s.emit e).cop = s.cop := (rfl)
@[simp] theorem State.emit_sec (e : Emit) : (s.emit e).sec = s.sec := (rfl)

/-! ### takeFree -/

@[simp] theorem State.takeFree_pending : s.takeFree.pending = s.pending := (rfl)
@[simp] theorem State.takeFree_regs : s.takeFree.regs = s.regs := (rfl)
@[simp] theorem State.takeFree_shadow : s.takeFree.shadow = s.shadow := (rfl)
@[simp] theorem State.takeFree_clk : s.takeFree.clk = s.clk := (rfl)
@[simp] theorem State.takeFree_free : s.takeFree.free = s.free + 1 := (rfl)
@[simp] theorem State.takeFree_sent : s.takeFree.sent = s.sent := (rfl)
@[simp] theorem State.takeFree_msixPending : s.takeFree.msixPending = s.msixPending := (rfl)
@[simp] theorem State.takeFree_lanes : s.takeFree.lanes = s.lanes := (rfl)
@[simp] theorem State.takeFree_sampRef : s.takeFree.sampRef = s.sampRef := (rfl)
@[simp] theorem State.takeFree_lvl : s.takeFree.lvl = s.lvl := (rfl)
@[simp] theorem State.takeFree_crs : s.takeFree.crs = s.crs := (rfl)
@[simp] theorem State.takeFree_cli : s.takeFree.cli = s.cli := (rfl)
@[simp] theorem State.takeFree_tb : s.takeFree.tb = s.tb := (rfl)
@[simp] theorem State.takeFree_cold : s.takeFree.cold = s.cold := (rfl)
@[simp] theorem State.takeFree_bootHold : s.takeFree.bootHold = s.bootHold := (rfl)
@[simp] theorem State.takeFree_hkm : s.takeFree.hkm = s.hkm := (rfl)
@[simp] theorem State.takeFree_cal : s.takeFree.cal = s.cal := (rfl)
@[simp] theorem State.takeFree_mem : s.takeFree.mem = s.mem := (rfl)
@[simp] theorem State.takeFree_cst : s.takeFree.cst = s.cst := (rfl)
@[simp] theorem State.takeFree_plu : s.takeFree.plu = s.plu := (rfl)
@[simp] theorem State.takeFree_time : s.takeFree.time = s.time := (rfl)
@[simp] theorem State.takeFree_objs : s.takeFree.objs = s.objs := (rfl)
@[simp] theorem State.takeFree_ciph : s.takeFree.ciph = s.ciph := (rfl)
@[simp] theorem State.takeFree_cop : s.takeFree.cop = s.cop := (rfl)
@[simp] theorem State.takeFree_sec : s.takeFree.sec = s.sec := (rfl)

/-! ### setObj -/

@[simp] theorem State.setObj_pending (index sub : Nat) (bs : List Byte) : (s.setObj index sub bs).pending = s.pending := (rfl)
@[simp] theorem State.setObj_regs (index sub : Nat) (bs : List Byte) : (s.setObj index sub bs).regs = s.regs := (rfl)
@[simp] theorem State.setObj_shadow (index sub : Nat) (bs : List Byte) : (s.setObj index sub bs).shadow = s.shadow := (rfl)
@[simp] theorem State.setObj_clk (index sub : Nat) (bs : List Byte) : (s.setObj index sub bs).clk = s.clk := (rfl)
@[simp] theorem State.setObj_free (index sub : Nat) (bs : List Byte) : (s.setObj index sub bs).free = s.free := (rfl)
@[simp] theorem State.setObj_sent (index sub : Nat) (bs : List Byte) : (s.setObj index sub bs).sent = s.sent := (rfl)
@[simp] theorem State.setObj_msixPending (index sub : Nat) (bs : List Byte) : (s.setObj index sub bs).msixPending = s.msixPending := (rfl)
@[simp] theorem State.setObj_lanes (index sub : Nat) (bs : List Byte) : (s.setObj index sub bs).lanes = s.lanes := (rfl)
@[simp] theorem State.setObj_sampRef (index sub : Nat) (bs : List Byte) : (s.setObj index sub bs).sampRef = s.sampRef := (rfl)
@[simp] theorem State.setObj_lvl (index sub : Nat) (bs : List Byte) : (s.setObj index sub bs).lvl = s.lvl := (rfl)
@[simp] theorem State.setObj_crs (index sub : Nat) (bs : List Byte) : (s.setObj index sub bs).crs = s.crs := (rfl)
@[simp] theorem State.setObj_cli (index sub : Nat) (bs : List Byte) : (s.setObj index sub bs).cli = s.cli := (rfl)
@[simp] theorem State.setObj_tb (index sub : Nat) (bs : List Byte) : (s.setObj index sub bs).tb = s.tb := (rfl)
@[simp] theorem State.setObj_cold (index sub : Nat) (bs : List Byte) : (s.setObj index sub bs).cold = s.cold := (rfl)
@[simp] theorem State.setObj_bootHold (index sub : Nat) (bs : List Byte) : (s.setObj index sub bs).bootHold = s.bootHold := (rfl)
@[simp] theorem State.setObj_hkm (index sub : Nat) (bs : List Byte) : (s.setObj index sub bs).hkm = s.hkm := (rfl)
@[simp] theorem State.setObj_cal (index sub : Nat) (bs : List Byte) : (s.setObj index sub bs).cal = s.cal := (rfl)
@[simp] theorem State.setObj_mem (index sub : Nat) (bs : List Byte) : (s.setObj index sub bs).mem = s.mem := (rfl)
@[simp] theorem State.setObj_cst (index sub : Nat) (bs : List Byte) : (s.setObj index sub bs).cst = s.cst := (rfl)
@[simp] theorem State.setObj_plu (index sub : Nat) (bs : List Byte) : (s.setObj index sub bs).plu = s.plu := (rfl)
@[simp] theorem State.setObj_time (index sub : Nat) (bs : List Byte) : (s.setObj index sub bs).time = s.time := (rfl)
@[simp] theorem State.setObj_objs (index sub : Nat) (bs : List Byte) : (s.setObj index sub bs).objs = assocPut s.objs (index * 256 + sub) bs := (rfl)
@[simp] theorem State.setObj_ciph (index sub : Nat) (bs : List Byte) : (s.setObj index sub bs).ciph = s.ciph := (rfl)
@[simp] theorem State.setObj_cop (index sub : Nat) (bs : List Byte) : (s.setObj index sub bs).cop = s.cop := (rfl)
@[simp] theorem State.setObj_sec (index sub : Nat) (bs : List Byte) : (s.setObj index sub bs).sec = s.sec := (rfl)

/-! ### modLane -/

@[simp] theorem State.modLane_pending (n : Lane) (f : LaneState → LaneState) : (s.modLane n f).pending = s.pending := (rfl)
@[simp] theorem State.modLane_regs (n : Lane) (f : LaneState → LaneState) : (s.modLane n f).regs = s.regs := (rfl)
@[simp] theorem State.modLane_shadow (n : Lane) (f : LaneState → LaneState) : (s.modLane n f).shadow = s.shadow := (rfl)
@[simp] theorem State.modLane_clk (n : Lane) (f : LaneState → LaneState) : (s.modLane n f).clk = s.clk := (rfl)
@[simp] theorem State.modLane_free (n : Lane) (f : LaneState → LaneState) : (s.modLane n f).free = s.free := (rfl)
@[simp] theorem State.modLane_sent (n : Lane) (f : LaneState → LaneState) : (s.modLane n f).sent = s.sent := (rfl)
@[simp] theorem State.modLane_msixPending (n : Lane) (f : LaneState → LaneState) : (s.modLane n f).msixPending = s.msixPending := (rfl)
@[simp] theorem State.modLane_lanes (n : Lane) (f : LaneState → LaneState) : (s.modLane n f).lanes = s.lanes.set n (f s.lanes[n]) := (rfl)
@[simp] theorem State.modLane_sampRef (n : Lane) (f : LaneState → LaneState) : (s.modLane n f).sampRef = s.sampRef := (rfl)
@[simp] theorem State.modLane_lvl (n : Lane) (f : LaneState → LaneState) : (s.modLane n f).lvl = s.lvl := (rfl)
@[simp] theorem State.modLane_crs (n : Lane) (f : LaneState → LaneState) : (s.modLane n f).crs = s.crs := (rfl)
@[simp] theorem State.modLane_cli (n : Lane) (f : LaneState → LaneState) : (s.modLane n f).cli = s.cli := (rfl)
@[simp] theorem State.modLane_tb (n : Lane) (f : LaneState → LaneState) : (s.modLane n f).tb = s.tb := (rfl)
@[simp] theorem State.modLane_cold (n : Lane) (f : LaneState → LaneState) : (s.modLane n f).cold = s.cold := (rfl)
@[simp] theorem State.modLane_bootHold (n : Lane) (f : LaneState → LaneState) : (s.modLane n f).bootHold = s.bootHold := (rfl)
@[simp] theorem State.modLane_hkm (n : Lane) (f : LaneState → LaneState) : (s.modLane n f).hkm = s.hkm := (rfl)
@[simp] theorem State.modLane_cal (n : Lane) (f : LaneState → LaneState) : (s.modLane n f).cal = s.cal := (rfl)
@[simp] theorem State.modLane_mem (n : Lane) (f : LaneState → LaneState) : (s.modLane n f).mem = s.mem := (rfl)
@[simp] theorem State.modLane_cst (n : Lane) (f : LaneState → LaneState) : (s.modLane n f).cst = s.cst := (rfl)
@[simp] theorem State.modLane_plu (n : Lane) (f : LaneState → LaneState) : (s.modLane n f).plu = s.plu := (rfl)
@[simp] theorem State.modLane_time (n : Lane) (f : LaneState → LaneState) : (s.modLane n f).time = s.time := (rfl)
@[simp] theorem State.modLane_objs (n : Lane) (f : LaneState → LaneState) : (s.modLane n f).objs = s.objs := (rfl)
@[simp] theorem State.modLane_ciph (n : Lane) (f : LaneState → LaneState) : (s.modLane n f).ciph = s.ciph := (rfl)
@[simp] theorem State.modLane_cop (n : Lane) (f : LaneState → LaneState) : (s.modLane n f).cop = s.cop := (rfl)
@[simp] theorem State.modLane_sec (n : Lane) (f : LaneState → LaneState) : (s.modLane n f).sec = s.sec := (rfl)

/-! ### modTb -/

@[simp] theorem State.modTb_pending (x : Nat) (f : TimeBase → TimeBase) : (s.modTb x f).pending = s.pending := (rfl)
@[simp] theorem State.modTb_regs (x : Nat) (f : TimeBase → TimeBase) : (s.modTb x f).regs = s.regs := (rfl)
@[simp] theorem State.modTb_shadow (x : Nat) (f : TimeBase → TimeBase) : (s.modTb x f).shadow = s.shadow := (rfl)
@[simp] theorem State.modTb_clk (x : Nat) (f : TimeBase → TimeBase) : (s.modTb x f).clk = s.clk := (rfl)
@[simp] theorem State.modTb_free (x : Nat) (f : TimeBase → TimeBase) : (s.modTb x f).free = s.free := (rfl)
@[simp] theorem State.modTb_sent (x : Nat) (f : TimeBase → TimeBase) : (s.modTb x f).sent = s.sent := (rfl)
@[simp] theorem State.modTb_msixPending (x : Nat) (f : TimeBase → TimeBase) : (s.modTb x f).msixPending = s.msixPending := (rfl)
@[simp] theorem State.modTb_lanes (x : Nat) (f : TimeBase → TimeBase) : (s.modTb x f).lanes = s.lanes := (rfl)
@[simp] theorem State.modTb_sampRef (x : Nat) (f : TimeBase → TimeBase) : (s.modTb x f).sampRef = s.sampRef := (rfl)
@[simp] theorem State.modTb_lvl (x : Nat) (f : TimeBase → TimeBase) : (s.modTb x f).lvl = s.lvl := (rfl)
@[simp] theorem State.modTb_crs (x : Nat) (f : TimeBase → TimeBase) : (s.modTb x f).crs = s.crs := (rfl)
@[simp] theorem State.modTb_cli (x : Nat) (f : TimeBase → TimeBase) : (s.modTb x f).cli = s.cli := (rfl)
@[simp] theorem State.modTb_tb (x : Nat) (f : TimeBase → TimeBase) : (s.modTb x f).tb = modAt s.tb x f := (rfl)
@[simp] theorem State.modTb_cold (x : Nat) (f : TimeBase → TimeBase) : (s.modTb x f).cold = s.cold := (rfl)
@[simp] theorem State.modTb_bootHold (x : Nat) (f : TimeBase → TimeBase) : (s.modTb x f).bootHold = s.bootHold := (rfl)
@[simp] theorem State.modTb_hkm (x : Nat) (f : TimeBase → TimeBase) : (s.modTb x f).hkm = s.hkm := (rfl)
@[simp] theorem State.modTb_cal (x : Nat) (f : TimeBase → TimeBase) : (s.modTb x f).cal = s.cal := (rfl)
@[simp] theorem State.modTb_mem (x : Nat) (f : TimeBase → TimeBase) : (s.modTb x f).mem = s.mem := (rfl)
@[simp] theorem State.modTb_cst (x : Nat) (f : TimeBase → TimeBase) : (s.modTb x f).cst = s.cst := (rfl)
@[simp] theorem State.modTb_plu (x : Nat) (f : TimeBase → TimeBase) : (s.modTb x f).plu = s.plu := (rfl)
@[simp] theorem State.modTb_time (x : Nat) (f : TimeBase → TimeBase) : (s.modTb x f).time = s.time := (rfl)
@[simp] theorem State.modTb_objs (x : Nat) (f : TimeBase → TimeBase) : (s.modTb x f).objs = s.objs := (rfl)
@[simp] theorem State.modTb_ciph (x : Nat) (f : TimeBase → TimeBase) : (s.modTb x f).ciph = s.ciph := (rfl)
@[simp] theorem State.modTb_cop (x : Nat) (f : TimeBase → TimeBase) : (s.modTb x f).cop = s.cop := (rfl)
@[simp] theorem State.modTb_sec (x : Nat) (f : TimeBase → TimeBase) : (s.modTb x f).sec = s.sec := (rfl)

/-! ### modCrs -/

@[simp] theorem State.modCrs_pending (f : CourseSeq → CourseSeq) : (s.modCrs f).pending = s.pending := (rfl)
@[simp] theorem State.modCrs_regs (f : CourseSeq → CourseSeq) : (s.modCrs f).regs = s.regs := (rfl)
@[simp] theorem State.modCrs_shadow (f : CourseSeq → CourseSeq) : (s.modCrs f).shadow = s.shadow := (rfl)
@[simp] theorem State.modCrs_clk (f : CourseSeq → CourseSeq) : (s.modCrs f).clk = s.clk := (rfl)
@[simp] theorem State.modCrs_free (f : CourseSeq → CourseSeq) : (s.modCrs f).free = s.free := (rfl)
@[simp] theorem State.modCrs_sent (f : CourseSeq → CourseSeq) : (s.modCrs f).sent = s.sent := (rfl)
@[simp] theorem State.modCrs_msixPending (f : CourseSeq → CourseSeq) : (s.modCrs f).msixPending = s.msixPending := (rfl)
@[simp] theorem State.modCrs_lanes (f : CourseSeq → CourseSeq) : (s.modCrs f).lanes = s.lanes := (rfl)
@[simp] theorem State.modCrs_sampRef (f : CourseSeq → CourseSeq) : (s.modCrs f).sampRef = s.sampRef := (rfl)
@[simp] theorem State.modCrs_lvl (f : CourseSeq → CourseSeq) : (s.modCrs f).lvl = s.lvl := (rfl)
@[simp] theorem State.modCrs_crs (f : CourseSeq → CourseSeq) : (s.modCrs f).crs = f s.crs := (rfl)
@[simp] theorem State.modCrs_cli (f : CourseSeq → CourseSeq) : (s.modCrs f).cli = s.cli := (rfl)
@[simp] theorem State.modCrs_tb (f : CourseSeq → CourseSeq) : (s.modCrs f).tb = s.tb := (rfl)
@[simp] theorem State.modCrs_cold (f : CourseSeq → CourseSeq) : (s.modCrs f).cold = s.cold := (rfl)
@[simp] theorem State.modCrs_bootHold (f : CourseSeq → CourseSeq) : (s.modCrs f).bootHold = s.bootHold := (rfl)
@[simp] theorem State.modCrs_hkm (f : CourseSeq → CourseSeq) : (s.modCrs f).hkm = s.hkm := (rfl)
@[simp] theorem State.modCrs_cal (f : CourseSeq → CourseSeq) : (s.modCrs f).cal = s.cal := (rfl)
@[simp] theorem State.modCrs_mem (f : CourseSeq → CourseSeq) : (s.modCrs f).mem = s.mem := (rfl)
@[simp] theorem State.modCrs_cst (f : CourseSeq → CourseSeq) : (s.modCrs f).cst = s.cst := (rfl)
@[simp] theorem State.modCrs_plu (f : CourseSeq → CourseSeq) : (s.modCrs f).plu = s.plu := (rfl)
@[simp] theorem State.modCrs_time (f : CourseSeq → CourseSeq) : (s.modCrs f).time = s.time := (rfl)
@[simp] theorem State.modCrs_objs (f : CourseSeq → CourseSeq) : (s.modCrs f).objs = s.objs := (rfl)
@[simp] theorem State.modCrs_ciph (f : CourseSeq → CourseSeq) : (s.modCrs f).ciph = s.ciph := (rfl)
@[simp] theorem State.modCrs_cop (f : CourseSeq → CourseSeq) : (s.modCrs f).cop = s.cop := (rfl)
@[simp] theorem State.modCrs_sec (f : CourseSeq → CourseSeq) : (s.modCrs f).sec = s.sec := (rfl)

/-! ### modPlu -/

@[simp] theorem State.modPlu_pending (f : PluState → PluState) : (s.modPlu f).pending = s.pending := (rfl)
@[simp] theorem State.modPlu_regs (f : PluState → PluState) : (s.modPlu f).regs = s.regs := (rfl)
@[simp] theorem State.modPlu_shadow (f : PluState → PluState) : (s.modPlu f).shadow = s.shadow := (rfl)
@[simp] theorem State.modPlu_clk (f : PluState → PluState) : (s.modPlu f).clk = s.clk := (rfl)
@[simp] theorem State.modPlu_free (f : PluState → PluState) : (s.modPlu f).free = s.free := (rfl)
@[simp] theorem State.modPlu_sent (f : PluState → PluState) : (s.modPlu f).sent = s.sent := (rfl)
@[simp] theorem State.modPlu_msixPending (f : PluState → PluState) : (s.modPlu f).msixPending = s.msixPending := (rfl)
@[simp] theorem State.modPlu_lanes (f : PluState → PluState) : (s.modPlu f).lanes = s.lanes := (rfl)
@[simp] theorem State.modPlu_sampRef (f : PluState → PluState) : (s.modPlu f).sampRef = s.sampRef := (rfl)
@[simp] theorem State.modPlu_lvl (f : PluState → PluState) : (s.modPlu f).lvl = s.lvl := (rfl)
@[simp] theorem State.modPlu_crs (f : PluState → PluState) : (s.modPlu f).crs = s.crs := (rfl)
@[simp] theorem State.modPlu_cli (f : PluState → PluState) : (s.modPlu f).cli = s.cli := (rfl)
@[simp] theorem State.modPlu_tb (f : PluState → PluState) : (s.modPlu f).tb = s.tb := (rfl)
@[simp] theorem State.modPlu_cold (f : PluState → PluState) : (s.modPlu f).cold = s.cold := (rfl)
@[simp] theorem State.modPlu_bootHold (f : PluState → PluState) : (s.modPlu f).bootHold = s.bootHold := (rfl)
@[simp] theorem State.modPlu_hkm (f : PluState → PluState) : (s.modPlu f).hkm = s.hkm := (rfl)
@[simp] theorem State.modPlu_cal (f : PluState → PluState) : (s.modPlu f).cal = s.cal := (rfl)
@[simp] theorem State.modPlu_mem (f : PluState → PluState) : (s.modPlu f).mem = s.mem := (rfl)
@[simp] theorem State.modPlu_cst (f : PluState → PluState) : (s.modPlu f).cst = s.cst := (rfl)
@[simp] theorem State.modPlu_plu (f : PluState → PluState) : (s.modPlu f).plu = f s.plu := (rfl)
@[simp] theorem State.modPlu_time (f : PluState → PluState) : (s.modPlu f).time = s.time := (rfl)
@[simp] theorem State.modPlu_objs (f : PluState → PluState) : (s.modPlu f).objs = s.objs := (rfl)
@[simp] theorem State.modPlu_ciph (f : PluState → PluState) : (s.modPlu f).ciph = s.ciph := (rfl)
@[simp] theorem State.modPlu_cop (f : PluState → PluState) : (s.modPlu f).cop = s.cop := (rfl)
@[simp] theorem State.modPlu_sec (f : PluState → PluState) : (s.modPlu f).sec = s.sec := (rfl)

/-! ### modTime -/

@[simp] theorem State.modTime_pending (f : TimeState → TimeState) : (s.modTime f).pending = s.pending := (rfl)
@[simp] theorem State.modTime_regs (f : TimeState → TimeState) : (s.modTime f).regs = s.regs := (rfl)
@[simp] theorem State.modTime_shadow (f : TimeState → TimeState) : (s.modTime f).shadow = s.shadow := (rfl)
@[simp] theorem State.modTime_clk (f : TimeState → TimeState) : (s.modTime f).clk = s.clk := (rfl)
@[simp] theorem State.modTime_free (f : TimeState → TimeState) : (s.modTime f).free = s.free := (rfl)
@[simp] theorem State.modTime_sent (f : TimeState → TimeState) : (s.modTime f).sent = s.sent := (rfl)
@[simp] theorem State.modTime_msixPending (f : TimeState → TimeState) : (s.modTime f).msixPending = s.msixPending := (rfl)
@[simp] theorem State.modTime_lanes (f : TimeState → TimeState) : (s.modTime f).lanes = s.lanes := (rfl)
@[simp] theorem State.modTime_sampRef (f : TimeState → TimeState) : (s.modTime f).sampRef = s.sampRef := (rfl)
@[simp] theorem State.modTime_lvl (f : TimeState → TimeState) : (s.modTime f).lvl = s.lvl := (rfl)
@[simp] theorem State.modTime_crs (f : TimeState → TimeState) : (s.modTime f).crs = s.crs := (rfl)
@[simp] theorem State.modTime_cli (f : TimeState → TimeState) : (s.modTime f).cli = s.cli := (rfl)
@[simp] theorem State.modTime_tb (f : TimeState → TimeState) : (s.modTime f).tb = s.tb := (rfl)
@[simp] theorem State.modTime_cold (f : TimeState → TimeState) : (s.modTime f).cold = s.cold := (rfl)
@[simp] theorem State.modTime_bootHold (f : TimeState → TimeState) : (s.modTime f).bootHold = s.bootHold := (rfl)
@[simp] theorem State.modTime_hkm (f : TimeState → TimeState) : (s.modTime f).hkm = s.hkm := (rfl)
@[simp] theorem State.modTime_cal (f : TimeState → TimeState) : (s.modTime f).cal = s.cal := (rfl)
@[simp] theorem State.modTime_mem (f : TimeState → TimeState) : (s.modTime f).mem = s.mem := (rfl)
@[simp] theorem State.modTime_cst (f : TimeState → TimeState) : (s.modTime f).cst = s.cst := (rfl)
@[simp] theorem State.modTime_plu (f : TimeState → TimeState) : (s.modTime f).plu = s.plu := (rfl)
@[simp] theorem State.modTime_time (f : TimeState → TimeState) : (s.modTime f).time = f s.time := (rfl)
@[simp] theorem State.modTime_objs (f : TimeState → TimeState) : (s.modTime f).objs = s.objs := (rfl)
@[simp] theorem State.modTime_ciph (f : TimeState → TimeState) : (s.modTime f).ciph = s.ciph := (rfl)
@[simp] theorem State.modTime_cop (f : TimeState → TimeState) : (s.modTime f).cop = s.cop := (rfl)
@[simp] theorem State.modTime_sec (f : TimeState → TimeState) : (s.modTime f).sec = s.sec := (rfl)

/-! ### modCop -/

@[simp] theorem State.modCop_pending (f : CopState → CopState) : (s.modCop f).pending = s.pending := (rfl)
@[simp] theorem State.modCop_regs (f : CopState → CopState) : (s.modCop f).regs = s.regs := (rfl)
@[simp] theorem State.modCop_shadow (f : CopState → CopState) : (s.modCop f).shadow = s.shadow := (rfl)
@[simp] theorem State.modCop_clk (f : CopState → CopState) : (s.modCop f).clk = s.clk := (rfl)
@[simp] theorem State.modCop_free (f : CopState → CopState) : (s.modCop f).free = s.free := (rfl)
@[simp] theorem State.modCop_sent (f : CopState → CopState) : (s.modCop f).sent = s.sent := (rfl)
@[simp] theorem State.modCop_msixPending (f : CopState → CopState) : (s.modCop f).msixPending = s.msixPending := (rfl)
@[simp] theorem State.modCop_lanes (f : CopState → CopState) : (s.modCop f).lanes = s.lanes := (rfl)
@[simp] theorem State.modCop_sampRef (f : CopState → CopState) : (s.modCop f).sampRef = s.sampRef := (rfl)
@[simp] theorem State.modCop_lvl (f : CopState → CopState) : (s.modCop f).lvl = s.lvl := (rfl)
@[simp] theorem State.modCop_crs (f : CopState → CopState) : (s.modCop f).crs = s.crs := (rfl)
@[simp] theorem State.modCop_cli (f : CopState → CopState) : (s.modCop f).cli = s.cli := (rfl)
@[simp] theorem State.modCop_tb (f : CopState → CopState) : (s.modCop f).tb = s.tb := (rfl)
@[simp] theorem State.modCop_cold (f : CopState → CopState) : (s.modCop f).cold = s.cold := (rfl)
@[simp] theorem State.modCop_bootHold (f : CopState → CopState) : (s.modCop f).bootHold = s.bootHold := (rfl)
@[simp] theorem State.modCop_hkm (f : CopState → CopState) : (s.modCop f).hkm = s.hkm := (rfl)
@[simp] theorem State.modCop_cal (f : CopState → CopState) : (s.modCop f).cal = s.cal := (rfl)
@[simp] theorem State.modCop_mem (f : CopState → CopState) : (s.modCop f).mem = s.mem := (rfl)
@[simp] theorem State.modCop_cst (f : CopState → CopState) : (s.modCop f).cst = s.cst := (rfl)
@[simp] theorem State.modCop_plu (f : CopState → CopState) : (s.modCop f).plu = s.plu := (rfl)
@[simp] theorem State.modCop_time (f : CopState → CopState) : (s.modCop f).time = s.time := (rfl)
@[simp] theorem State.modCop_objs (f : CopState → CopState) : (s.modCop f).objs = s.objs := (rfl)
@[simp] theorem State.modCop_ciph (f : CopState → CopState) : (s.modCop f).ciph = s.ciph := (rfl)
@[simp] theorem State.modCop_cop (f : CopState → CopState) : (s.modCop f).cop = f s.cop := (rfl)
@[simp] theorem State.modCop_sec (f : CopState → CopState) : (s.modCop f).sec = s.sec := (rfl)

/-! ### modSec -/

@[simp] theorem State.modSec_pending (f : SecState → SecState) : (s.modSec f).pending = s.pending := (rfl)
@[simp] theorem State.modSec_regs (f : SecState → SecState) : (s.modSec f).regs = s.regs := (rfl)
@[simp] theorem State.modSec_shadow (f : SecState → SecState) : (s.modSec f).shadow = s.shadow := (rfl)
@[simp] theorem State.modSec_clk (f : SecState → SecState) : (s.modSec f).clk = s.clk := (rfl)
@[simp] theorem State.modSec_free (f : SecState → SecState) : (s.modSec f).free = s.free := (rfl)
@[simp] theorem State.modSec_sent (f : SecState → SecState) : (s.modSec f).sent = s.sent := (rfl)
@[simp] theorem State.modSec_msixPending (f : SecState → SecState) : (s.modSec f).msixPending = s.msixPending := (rfl)
@[simp] theorem State.modSec_lanes (f : SecState → SecState) : (s.modSec f).lanes = s.lanes := (rfl)
@[simp] theorem State.modSec_sampRef (f : SecState → SecState) : (s.modSec f).sampRef = s.sampRef := (rfl)
@[simp] theorem State.modSec_lvl (f : SecState → SecState) : (s.modSec f).lvl = s.lvl := (rfl)
@[simp] theorem State.modSec_crs (f : SecState → SecState) : (s.modSec f).crs = s.crs := (rfl)
@[simp] theorem State.modSec_cli (f : SecState → SecState) : (s.modSec f).cli = s.cli := (rfl)
@[simp] theorem State.modSec_tb (f : SecState → SecState) : (s.modSec f).tb = s.tb := (rfl)
@[simp] theorem State.modSec_cold (f : SecState → SecState) : (s.modSec f).cold = s.cold := (rfl)
@[simp] theorem State.modSec_bootHold (f : SecState → SecState) : (s.modSec f).bootHold = s.bootHold := (rfl)
@[simp] theorem State.modSec_hkm (f : SecState → SecState) : (s.modSec f).hkm = s.hkm := (rfl)
@[simp] theorem State.modSec_cal (f : SecState → SecState) : (s.modSec f).cal = s.cal := (rfl)
@[simp] theorem State.modSec_mem (f : SecState → SecState) : (s.modSec f).mem = s.mem := (rfl)
@[simp] theorem State.modSec_cst (f : SecState → SecState) : (s.modSec f).cst = s.cst := (rfl)
@[simp] theorem State.modSec_plu (f : SecState → SecState) : (s.modSec f).plu = s.plu := (rfl)
@[simp] theorem State.modSec_time (f : SecState → SecState) : (s.modSec f).time = s.time := (rfl)
@[simp] theorem State.modSec_objs (f : SecState → SecState) : (s.modSec f).objs = s.objs := (rfl)
@[simp] theorem State.modSec_ciph (f : SecState → SecState) : (s.modSec f).ciph = s.ciph := (rfl)
@[simp] theorem State.modSec_cop (f : SecState → SecState) : (s.modSec f).cop = s.cop := (rfl)
@[simp] theorem State.modSec_sec (f : SecState → SecState) : (s.modSec f).sec = f s.sec := (rfl)

/-! ### modCst -/

@[simp] theorem State.modCst_pending (f : CstState → CstState) : (s.modCst f).pending = s.pending := (rfl)
@[simp] theorem State.modCst_regs (f : CstState → CstState) : (s.modCst f).regs = s.regs := (rfl)
@[simp] theorem State.modCst_shadow (f : CstState → CstState) : (s.modCst f).shadow = s.shadow := (rfl)
@[simp] theorem State.modCst_clk (f : CstState → CstState) : (s.modCst f).clk = s.clk := (rfl)
@[simp] theorem State.modCst_free (f : CstState → CstState) : (s.modCst f).free = s.free := (rfl)
@[simp] theorem State.modCst_sent (f : CstState → CstState) : (s.modCst f).sent = s.sent := (rfl)
@[simp] theorem State.modCst_msixPending (f : CstState → CstState) : (s.modCst f).msixPending = s.msixPending := (rfl)
@[simp] theorem State.modCst_lanes (f : CstState → CstState) : (s.modCst f).lanes = s.lanes := (rfl)
@[simp] theorem State.modCst_sampRef (f : CstState → CstState) : (s.modCst f).sampRef = s.sampRef := (rfl)
@[simp] theorem State.modCst_lvl (f : CstState → CstState) : (s.modCst f).lvl = s.lvl := (rfl)
@[simp] theorem State.modCst_crs (f : CstState → CstState) : (s.modCst f).crs = s.crs := (rfl)
@[simp] theorem State.modCst_cli (f : CstState → CstState) : (s.modCst f).cli = s.cli := (rfl)
@[simp] theorem State.modCst_tb (f : CstState → CstState) : (s.modCst f).tb = s.tb := (rfl)
@[simp] theorem State.modCst_cold (f : CstState → CstState) : (s.modCst f).cold = s.cold := (rfl)
@[simp] theorem State.modCst_bootHold (f : CstState → CstState) : (s.modCst f).bootHold = s.bootHold := (rfl)
@[simp] theorem State.modCst_hkm (f : CstState → CstState) : (s.modCst f).hkm = s.hkm := (rfl)
@[simp] theorem State.modCst_cal (f : CstState → CstState) : (s.modCst f).cal = s.cal := (rfl)
@[simp] theorem State.modCst_mem (f : CstState → CstState) : (s.modCst f).mem = s.mem := (rfl)
@[simp] theorem State.modCst_cst (f : CstState → CstState) : (s.modCst f).cst = f s.cst := (rfl)
@[simp] theorem State.modCst_plu (f : CstState → CstState) : (s.modCst f).plu = s.plu := (rfl)
@[simp] theorem State.modCst_time (f : CstState → CstState) : (s.modCst f).time = s.time := (rfl)
@[simp] theorem State.modCst_objs (f : CstState → CstState) : (s.modCst f).objs = s.objs := (rfl)
@[simp] theorem State.modCst_ciph (f : CstState → CstState) : (s.modCst f).ciph = s.ciph := (rfl)
@[simp] theorem State.modCst_cop (f : CstState → CstState) : (s.modCst f).cop = s.cop := (rfl)
@[simp] theorem State.modCst_sec (f : CstState → CstState) : (s.modCst f).sec = s.sec := (rfl)

/-! ### modMem -/

@[simp] theorem State.modMem_pending (f : MemState → MemState) : (s.modMem f).pending = s.pending := (rfl)
@[simp] theorem State.modMem_regs (f : MemState → MemState) : (s.modMem f).regs = s.regs := (rfl)
@[simp] theorem State.modMem_shadow (f : MemState → MemState) : (s.modMem f).shadow = s.shadow := (rfl)
@[simp] theorem State.modMem_clk (f : MemState → MemState) : (s.modMem f).clk = s.clk := (rfl)
@[simp] theorem State.modMem_free (f : MemState → MemState) : (s.modMem f).free = s.free := (rfl)
@[simp] theorem State.modMem_sent (f : MemState → MemState) : (s.modMem f).sent = s.sent := (rfl)
@[simp] theorem State.modMem_msixPending (f : MemState → MemState) : (s.modMem f).msixPending = s.msixPending := (rfl)
@[simp] theorem State.modMem_lanes (f : MemState → MemState) : (s.modMem f).lanes = s.lanes := (rfl)
@[simp] theorem State.modMem_sampRef (f : MemState → MemState) : (s.modMem f).sampRef = s.sampRef := (rfl)
@[simp] theorem State.modMem_lvl (f : MemState → MemState) : (s.modMem f).lvl = s.lvl := (rfl)
@[simp] theorem State.modMem_crs (f : MemState → MemState) : (s.modMem f).crs = s.crs := (rfl)
@[simp] theorem State.modMem_cli (f : MemState → MemState) : (s.modMem f).cli = s.cli := (rfl)
@[simp] theorem State.modMem_tb (f : MemState → MemState) : (s.modMem f).tb = s.tb := (rfl)
@[simp] theorem State.modMem_cold (f : MemState → MemState) : (s.modMem f).cold = s.cold := (rfl)
@[simp] theorem State.modMem_bootHold (f : MemState → MemState) : (s.modMem f).bootHold = s.bootHold := (rfl)
@[simp] theorem State.modMem_hkm (f : MemState → MemState) : (s.modMem f).hkm = s.hkm := (rfl)
@[simp] theorem State.modMem_cal (f : MemState → MemState) : (s.modMem f).cal = s.cal := (rfl)
@[simp] theorem State.modMem_mem (f : MemState → MemState) : (s.modMem f).mem = f s.mem := (rfl)
@[simp] theorem State.modMem_cst (f : MemState → MemState) : (s.modMem f).cst = s.cst := (rfl)
@[simp] theorem State.modMem_plu (f : MemState → MemState) : (s.modMem f).plu = s.plu := (rfl)
@[simp] theorem State.modMem_time (f : MemState → MemState) : (s.modMem f).time = s.time := (rfl)
@[simp] theorem State.modMem_objs (f : MemState → MemState) : (s.modMem f).objs = s.objs := (rfl)
@[simp] theorem State.modMem_ciph (f : MemState → MemState) : (s.modMem f).ciph = s.ciph := (rfl)
@[simp] theorem State.modMem_cop (f : MemState → MemState) : (s.modMem f).cop = s.cop := (rfl)
@[simp] theorem State.modMem_sec (f : MemState → MemState) : (s.modMem f).sec = s.sec := (rfl)

/-! ### modHkm -/

@[simp] theorem State.modHkm_pending (f : HkmState → HkmState) : (s.modHkm f).pending = s.pending := (rfl)
@[simp] theorem State.modHkm_regs (f : HkmState → HkmState) : (s.modHkm f).regs = s.regs := (rfl)
@[simp] theorem State.modHkm_shadow (f : HkmState → HkmState) : (s.modHkm f).shadow = s.shadow := (rfl)
@[simp] theorem State.modHkm_clk (f : HkmState → HkmState) : (s.modHkm f).clk = s.clk := (rfl)
@[simp] theorem State.modHkm_free (f : HkmState → HkmState) : (s.modHkm f).free = s.free := (rfl)
@[simp] theorem State.modHkm_sent (f : HkmState → HkmState) : (s.modHkm f).sent = s.sent := (rfl)
@[simp] theorem State.modHkm_msixPending (f : HkmState → HkmState) : (s.modHkm f).msixPending = s.msixPending := (rfl)
@[simp] theorem State.modHkm_lanes (f : HkmState → HkmState) : (s.modHkm f).lanes = s.lanes := (rfl)
@[simp] theorem State.modHkm_sampRef (f : HkmState → HkmState) : (s.modHkm f).sampRef = s.sampRef := (rfl)
@[simp] theorem State.modHkm_lvl (f : HkmState → HkmState) : (s.modHkm f).lvl = s.lvl := (rfl)
@[simp] theorem State.modHkm_crs (f : HkmState → HkmState) : (s.modHkm f).crs = s.crs := (rfl)
@[simp] theorem State.modHkm_cli (f : HkmState → HkmState) : (s.modHkm f).cli = s.cli := (rfl)
@[simp] theorem State.modHkm_tb (f : HkmState → HkmState) : (s.modHkm f).tb = s.tb := (rfl)
@[simp] theorem State.modHkm_cold (f : HkmState → HkmState) : (s.modHkm f).cold = s.cold := (rfl)
@[simp] theorem State.modHkm_bootHold (f : HkmState → HkmState) : (s.modHkm f).bootHold = s.bootHold := (rfl)
@[simp] theorem State.modHkm_hkm (f : HkmState → HkmState) : (s.modHkm f).hkm = f s.hkm := (rfl)
@[simp] theorem State.modHkm_cal (f : HkmState → HkmState) : (s.modHkm f).cal = s.cal := (rfl)
@[simp] theorem State.modHkm_mem (f : HkmState → HkmState) : (s.modHkm f).mem = s.mem := (rfl)
@[simp] theorem State.modHkm_cst (f : HkmState → HkmState) : (s.modHkm f).cst = s.cst := (rfl)
@[simp] theorem State.modHkm_plu (f : HkmState → HkmState) : (s.modHkm f).plu = s.plu := (rfl)
@[simp] theorem State.modHkm_time (f : HkmState → HkmState) : (s.modHkm f).time = s.time := (rfl)
@[simp] theorem State.modHkm_objs (f : HkmState → HkmState) : (s.modHkm f).objs = s.objs := (rfl)
@[simp] theorem State.modHkm_ciph (f : HkmState → HkmState) : (s.modHkm f).ciph = s.ciph := (rfl)
@[simp] theorem State.modHkm_cop (f : HkmState → HkmState) : (s.modHkm f).cop = s.cop := (rfl)
@[simp] theorem State.modHkm_sec (f : HkmState → HkmState) : (s.modHkm f).sec = s.sec := (rfl)

/-! ### modCal -/

@[simp] theorem State.modCal_pending (f : CalState → CalState) : (s.modCal f).pending = s.pending := (rfl)
@[simp] theorem State.modCal_regs (f : CalState → CalState) : (s.modCal f).regs = s.regs := (rfl)
@[simp] theorem State.modCal_shadow (f : CalState → CalState) : (s.modCal f).shadow = s.shadow := (rfl)
@[simp] theorem State.modCal_clk (f : CalState → CalState) : (s.modCal f).clk = s.clk := (rfl)
@[simp] theorem State.modCal_free (f : CalState → CalState) : (s.modCal f).free = s.free := (rfl)
@[simp] theorem State.modCal_sent (f : CalState → CalState) : (s.modCal f).sent = s.sent := (rfl)
@[simp] theorem State.modCal_msixPending (f : CalState → CalState) : (s.modCal f).msixPending = s.msixPending := (rfl)
@[simp] theorem State.modCal_lanes (f : CalState → CalState) : (s.modCal f).lanes = s.lanes := (rfl)
@[simp] theorem State.modCal_sampRef (f : CalState → CalState) : (s.modCal f).sampRef = s.sampRef := (rfl)
@[simp] theorem State.modCal_lvl (f : CalState → CalState) : (s.modCal f).lvl = s.lvl := (rfl)
@[simp] theorem State.modCal_crs (f : CalState → CalState) : (s.modCal f).crs = s.crs := (rfl)
@[simp] theorem State.modCal_cli (f : CalState → CalState) : (s.modCal f).cli = s.cli := (rfl)
@[simp] theorem State.modCal_tb (f : CalState → CalState) : (s.modCal f).tb = s.tb := (rfl)
@[simp] theorem State.modCal_cold (f : CalState → CalState) : (s.modCal f).cold = s.cold := (rfl)
@[simp] theorem State.modCal_bootHold (f : CalState → CalState) : (s.modCal f).bootHold = s.bootHold := (rfl)
@[simp] theorem State.modCal_hkm (f : CalState → CalState) : (s.modCal f).hkm = s.hkm := (rfl)
@[simp] theorem State.modCal_cal (f : CalState → CalState) : (s.modCal f).cal = f s.cal := (rfl)
@[simp] theorem State.modCal_mem (f : CalState → CalState) : (s.modCal f).mem = s.mem := (rfl)
@[simp] theorem State.modCal_cst (f : CalState → CalState) : (s.modCal f).cst = s.cst := (rfl)
@[simp] theorem State.modCal_plu (f : CalState → CalState) : (s.modCal f).plu = s.plu := (rfl)
@[simp] theorem State.modCal_time (f : CalState → CalState) : (s.modCal f).time = s.time := (rfl)
@[simp] theorem State.modCal_objs (f : CalState → CalState) : (s.modCal f).objs = s.objs := (rfl)
@[simp] theorem State.modCal_ciph (f : CalState → CalState) : (s.modCal f).ciph = s.ciph := (rfl)
@[simp] theorem State.modCal_cop (f : CalState → CalState) : (s.modCal f).cop = s.cop := (rfl)
@[simp] theorem State.modCal_sec (f : CalState → CalState) : (s.modCal f).sec = s.sec := (rfl)

/-! ### modConv -/

@[simp] theorem State.modConv_pending (n : Lane) (f : ConvState → ConvState) : (s.modConv n f).pending = s.pending := (rfl)
@[simp] theorem State.modConv_regs (n : Lane) (f : ConvState → ConvState) : (s.modConv n f).regs = s.regs := (rfl)
@[simp] theorem State.modConv_shadow (n : Lane) (f : ConvState → ConvState) : (s.modConv n f).shadow = s.shadow := (rfl)
@[simp] theorem State.modConv_clk (n : Lane) (f : ConvState → ConvState) : (s.modConv n f).clk = s.clk := (rfl)
@[simp] theorem State.modConv_free (n : Lane) (f : ConvState → ConvState) : (s.modConv n f).free = s.free := (rfl)
@[simp] theorem State.modConv_sent (n : Lane) (f : ConvState → ConvState) : (s.modConv n f).sent = s.sent := (rfl)
@[simp] theorem State.modConv_msixPending (n : Lane) (f : ConvState → ConvState) : (s.modConv n f).msixPending = s.msixPending := (rfl)
@[simp] theorem State.modConv_sampRef (n : Lane) (f : ConvState → ConvState) : (s.modConv n f).sampRef = s.sampRef := (rfl)
@[simp] theorem State.modConv_lvl (n : Lane) (f : ConvState → ConvState) : (s.modConv n f).lvl = s.lvl := (rfl)
@[simp] theorem State.modConv_crs (n : Lane) (f : ConvState → ConvState) : (s.modConv n f).crs = s.crs := (rfl)
@[simp] theorem State.modConv_cli (n : Lane) (f : ConvState → ConvState) : (s.modConv n f).cli = s.cli := (rfl)
@[simp] theorem State.modConv_tb (n : Lane) (f : ConvState → ConvState) : (s.modConv n f).tb = s.tb := (rfl)
@[simp] theorem State.modConv_cold (n : Lane) (f : ConvState → ConvState) : (s.modConv n f).cold = s.cold := (rfl)
@[simp] theorem State.modConv_bootHold (n : Lane) (f : ConvState → ConvState) : (s.modConv n f).bootHold = s.bootHold := (rfl)
@[simp] theorem State.modConv_hkm (n : Lane) (f : ConvState → ConvState) : (s.modConv n f).hkm = s.hkm := (rfl)
@[simp] theorem State.modConv_cal (n : Lane) (f : ConvState → ConvState) : (s.modConv n f).cal = s.cal := (rfl)
@[simp] theorem State.modConv_mem (n : Lane) (f : ConvState → ConvState) : (s.modConv n f).mem = s.mem := (rfl)
@[simp] theorem State.modConv_cst (n : Lane) (f : ConvState → ConvState) : (s.modConv n f).cst = s.cst := (rfl)
@[simp] theorem State.modConv_plu (n : Lane) (f : ConvState → ConvState) : (s.modConv n f).plu = s.plu := (rfl)
@[simp] theorem State.modConv_time (n : Lane) (f : ConvState → ConvState) : (s.modConv n f).time = s.time := (rfl)
@[simp] theorem State.modConv_objs (n : Lane) (f : ConvState → ConvState) : (s.modConv n f).objs = s.objs := (rfl)
@[simp] theorem State.modConv_ciph (n : Lane) (f : ConvState → ConvState) : (s.modConv n f).ciph = s.ciph := (rfl)
@[simp] theorem State.modConv_cop (n : Lane) (f : ConvState → ConvState) : (s.modConv n f).cop = s.cop := (rfl)
@[simp] theorem State.modConv_sec (n : Lane) (f : ConvState → ConvState) : (s.modConv n f).sec = s.sec := (rfl)

/-! ### modRxd -/

@[simp] theorem State.modRxd_pending (n : Lane) (f : RxdState → RxdState) : (s.modRxd n f).pending = s.pending := (rfl)
@[simp] theorem State.modRxd_regs (n : Lane) (f : RxdState → RxdState) : (s.modRxd n f).regs = s.regs := (rfl)
@[simp] theorem State.modRxd_shadow (n : Lane) (f : RxdState → RxdState) : (s.modRxd n f).shadow = s.shadow := (rfl)
@[simp] theorem State.modRxd_clk (n : Lane) (f : RxdState → RxdState) : (s.modRxd n f).clk = s.clk := (rfl)
@[simp] theorem State.modRxd_free (n : Lane) (f : RxdState → RxdState) : (s.modRxd n f).free = s.free := (rfl)
@[simp] theorem State.modRxd_sent (n : Lane) (f : RxdState → RxdState) : (s.modRxd n f).sent = s.sent := (rfl)
@[simp] theorem State.modRxd_msixPending (n : Lane) (f : RxdState → RxdState) : (s.modRxd n f).msixPending = s.msixPending := (rfl)
@[simp] theorem State.modRxd_sampRef (n : Lane) (f : RxdState → RxdState) : (s.modRxd n f).sampRef = s.sampRef := (rfl)
@[simp] theorem State.modRxd_lvl (n : Lane) (f : RxdState → RxdState) : (s.modRxd n f).lvl = s.lvl := (rfl)
@[simp] theorem State.modRxd_crs (n : Lane) (f : RxdState → RxdState) : (s.modRxd n f).crs = s.crs := (rfl)
@[simp] theorem State.modRxd_cli (n : Lane) (f : RxdState → RxdState) : (s.modRxd n f).cli = s.cli := (rfl)
@[simp] theorem State.modRxd_tb (n : Lane) (f : RxdState → RxdState) : (s.modRxd n f).tb = s.tb := (rfl)
@[simp] theorem State.modRxd_cold (n : Lane) (f : RxdState → RxdState) : (s.modRxd n f).cold = s.cold := (rfl)
@[simp] theorem State.modRxd_bootHold (n : Lane) (f : RxdState → RxdState) : (s.modRxd n f).bootHold = s.bootHold := (rfl)
@[simp] theorem State.modRxd_hkm (n : Lane) (f : RxdState → RxdState) : (s.modRxd n f).hkm = s.hkm := (rfl)
@[simp] theorem State.modRxd_cal (n : Lane) (f : RxdState → RxdState) : (s.modRxd n f).cal = s.cal := (rfl)
@[simp] theorem State.modRxd_mem (n : Lane) (f : RxdState → RxdState) : (s.modRxd n f).mem = s.mem := (rfl)
@[simp] theorem State.modRxd_cst (n : Lane) (f : RxdState → RxdState) : (s.modRxd n f).cst = s.cst := (rfl)
@[simp] theorem State.modRxd_plu (n : Lane) (f : RxdState → RxdState) : (s.modRxd n f).plu = s.plu := (rfl)
@[simp] theorem State.modRxd_time (n : Lane) (f : RxdState → RxdState) : (s.modRxd n f).time = s.time := (rfl)
@[simp] theorem State.modRxd_objs (n : Lane) (f : RxdState → RxdState) : (s.modRxd n f).objs = s.objs := (rfl)
@[simp] theorem State.modRxd_ciph (n : Lane) (f : RxdState → RxdState) : (s.modRxd n f).ciph = s.ciph := (rfl)
@[simp] theorem State.modRxd_cop (n : Lane) (f : RxdState → RxdState) : (s.modRxd n f).cop = s.cop := (rfl)
@[simp] theorem State.modRxd_sec (n : Lane) (f : RxdState → RxdState) : (s.modRxd n f).sec = s.sec := (rfl)

/-! ### modTx -/

@[simp] theorem State.modTx_pending (n : Lane) (f : TxState → TxState) : (s.modTx n f).pending = s.pending := (rfl)
@[simp] theorem State.modTx_regs (n : Lane) (f : TxState → TxState) : (s.modTx n f).regs = s.regs := (rfl)
@[simp] theorem State.modTx_shadow (n : Lane) (f : TxState → TxState) : (s.modTx n f).shadow = s.shadow := (rfl)
@[simp] theorem State.modTx_clk (n : Lane) (f : TxState → TxState) : (s.modTx n f).clk = s.clk := (rfl)
@[simp] theorem State.modTx_free (n : Lane) (f : TxState → TxState) : (s.modTx n f).free = s.free := (rfl)
@[simp] theorem State.modTx_sent (n : Lane) (f : TxState → TxState) : (s.modTx n f).sent = s.sent := (rfl)
@[simp] theorem State.modTx_msixPending (n : Lane) (f : TxState → TxState) : (s.modTx n f).msixPending = s.msixPending := (rfl)
@[simp] theorem State.modTx_sampRef (n : Lane) (f : TxState → TxState) : (s.modTx n f).sampRef = s.sampRef := (rfl)
@[simp] theorem State.modTx_lvl (n : Lane) (f : TxState → TxState) : (s.modTx n f).lvl = s.lvl := (rfl)
@[simp] theorem State.modTx_crs (n : Lane) (f : TxState → TxState) : (s.modTx n f).crs = s.crs := (rfl)
@[simp] theorem State.modTx_cli (n : Lane) (f : TxState → TxState) : (s.modTx n f).cli = s.cli := (rfl)
@[simp] theorem State.modTx_tb (n : Lane) (f : TxState → TxState) : (s.modTx n f).tb = s.tb := (rfl)
@[simp] theorem State.modTx_cold (n : Lane) (f : TxState → TxState) : (s.modTx n f).cold = s.cold := (rfl)
@[simp] theorem State.modTx_bootHold (n : Lane) (f : TxState → TxState) : (s.modTx n f).bootHold = s.bootHold := (rfl)
@[simp] theorem State.modTx_hkm (n : Lane) (f : TxState → TxState) : (s.modTx n f).hkm = s.hkm := (rfl)
@[simp] theorem State.modTx_cal (n : Lane) (f : TxState → TxState) : (s.modTx n f).cal = s.cal := (rfl)
@[simp] theorem State.modTx_mem (n : Lane) (f : TxState → TxState) : (s.modTx n f).mem = s.mem := (rfl)
@[simp] theorem State.modTx_cst (n : Lane) (f : TxState → TxState) : (s.modTx n f).cst = s.cst := (rfl)
@[simp] theorem State.modTx_plu (n : Lane) (f : TxState → TxState) : (s.modTx n f).plu = s.plu := (rfl)
@[simp] theorem State.modTx_time (n : Lane) (f : TxState → TxState) : (s.modTx n f).time = s.time := (rfl)
@[simp] theorem State.modTx_objs (n : Lane) (f : TxState → TxState) : (s.modTx n f).objs = s.objs := (rfl)
@[simp] theorem State.modTx_ciph (n : Lane) (f : TxState → TxState) : (s.modTx n f).ciph = s.ciph := (rfl)
@[simp] theorem State.modTx_cop (n : Lane) (f : TxState → TxState) : (s.modTx n f).cop = s.cop := (rfl)
@[simp] theorem State.modTx_sec (n : Lane) (f : TxState → TxState) : (s.modTx n f).sec = s.sec := (rfl)

/-! ### modFec -/

@[simp] theorem State.modFec_pending (n : Lane) (f : FecState → FecState) : (s.modFec n f).pending = s.pending := (rfl)
@[simp] theorem State.modFec_regs (n : Lane) (f : FecState → FecState) : (s.modFec n f).regs = s.regs := (rfl)
@[simp] theorem State.modFec_shadow (n : Lane) (f : FecState → FecState) : (s.modFec n f).shadow = s.shadow := (rfl)
@[simp] theorem State.modFec_clk (n : Lane) (f : FecState → FecState) : (s.modFec n f).clk = s.clk := (rfl)
@[simp] theorem State.modFec_free (n : Lane) (f : FecState → FecState) : (s.modFec n f).free = s.free := (rfl)
@[simp] theorem State.modFec_sent (n : Lane) (f : FecState → FecState) : (s.modFec n f).sent = s.sent := (rfl)
@[simp] theorem State.modFec_msixPending (n : Lane) (f : FecState → FecState) : (s.modFec n f).msixPending = s.msixPending := (rfl)
@[simp] theorem State.modFec_sampRef (n : Lane) (f : FecState → FecState) : (s.modFec n f).sampRef = s.sampRef := (rfl)
@[simp] theorem State.modFec_lvl (n : Lane) (f : FecState → FecState) : (s.modFec n f).lvl = s.lvl := (rfl)
@[simp] theorem State.modFec_crs (n : Lane) (f : FecState → FecState) : (s.modFec n f).crs = s.crs := (rfl)
@[simp] theorem State.modFec_cli (n : Lane) (f : FecState → FecState) : (s.modFec n f).cli = s.cli := (rfl)
@[simp] theorem State.modFec_tb (n : Lane) (f : FecState → FecState) : (s.modFec n f).tb = s.tb := (rfl)
@[simp] theorem State.modFec_cold (n : Lane) (f : FecState → FecState) : (s.modFec n f).cold = s.cold := (rfl)
@[simp] theorem State.modFec_bootHold (n : Lane) (f : FecState → FecState) : (s.modFec n f).bootHold = s.bootHold := (rfl)
@[simp] theorem State.modFec_hkm (n : Lane) (f : FecState → FecState) : (s.modFec n f).hkm = s.hkm := (rfl)
@[simp] theorem State.modFec_cal (n : Lane) (f : FecState → FecState) : (s.modFec n f).cal = s.cal := (rfl)
@[simp] theorem State.modFec_mem (n : Lane) (f : FecState → FecState) : (s.modFec n f).mem = s.mem := (rfl)
@[simp] theorem State.modFec_cst (n : Lane) (f : FecState → FecState) : (s.modFec n f).cst = s.cst := (rfl)
@[simp] theorem State.modFec_plu (n : Lane) (f : FecState → FecState) : (s.modFec n f).plu = s.plu := (rfl)
@[simp] theorem State.modFec_time (n : Lane) (f : FecState → FecState) : (s.modFec n f).time = s.time := (rfl)
@[simp] theorem State.modFec_objs (n : Lane) (f : FecState → FecState) : (s.modFec n f).objs = s.objs := (rfl)
@[simp] theorem State.modFec_ciph (n : Lane) (f : FecState → FecState) : (s.modFec n f).ciph = s.ciph := (rfl)
@[simp] theorem State.modFec_cop (n : Lane) (f : FecState → FecState) : (s.modFec n f).cop = s.cop := (rfl)
@[simp] theorem State.modFec_sec (n : Lane) (f : FecState → FecState) : (s.modFec n f).sec = s.sec := (rfl)

/-! ### modLfr -/

@[simp] theorem State.modLfr_pending (n : Lane) (f : LfrState → LfrState) : (s.modLfr n f).pending = s.pending := (rfl)
@[simp] theorem State.modLfr_regs (n : Lane) (f : LfrState → LfrState) : (s.modLfr n f).regs = s.regs := (rfl)
@[simp] theorem State.modLfr_shadow (n : Lane) (f : LfrState → LfrState) : (s.modLfr n f).shadow = s.shadow := (rfl)
@[simp] theorem State.modLfr_clk (n : Lane) (f : LfrState → LfrState) : (s.modLfr n f).clk = s.clk := (rfl)
@[simp] theorem State.modLfr_free (n : Lane) (f : LfrState → LfrState) : (s.modLfr n f).free = s.free := (rfl)
@[simp] theorem State.modLfr_sent (n : Lane) (f : LfrState → LfrState) : (s.modLfr n f).sent = s.sent := (rfl)
@[simp] theorem State.modLfr_msixPending (n : Lane) (f : LfrState → LfrState) : (s.modLfr n f).msixPending = s.msixPending := (rfl)
@[simp] theorem State.modLfr_sampRef (n : Lane) (f : LfrState → LfrState) : (s.modLfr n f).sampRef = s.sampRef := (rfl)
@[simp] theorem State.modLfr_lvl (n : Lane) (f : LfrState → LfrState) : (s.modLfr n f).lvl = s.lvl := (rfl)
@[simp] theorem State.modLfr_crs (n : Lane) (f : LfrState → LfrState) : (s.modLfr n f).crs = s.crs := (rfl)
@[simp] theorem State.modLfr_cli (n : Lane) (f : LfrState → LfrState) : (s.modLfr n f).cli = s.cli := (rfl)
@[simp] theorem State.modLfr_tb (n : Lane) (f : LfrState → LfrState) : (s.modLfr n f).tb = s.tb := (rfl)
@[simp] theorem State.modLfr_cold (n : Lane) (f : LfrState → LfrState) : (s.modLfr n f).cold = s.cold := (rfl)
@[simp] theorem State.modLfr_bootHold (n : Lane) (f : LfrState → LfrState) : (s.modLfr n f).bootHold = s.bootHold := (rfl)
@[simp] theorem State.modLfr_hkm (n : Lane) (f : LfrState → LfrState) : (s.modLfr n f).hkm = s.hkm := (rfl)
@[simp] theorem State.modLfr_cal (n : Lane) (f : LfrState → LfrState) : (s.modLfr n f).cal = s.cal := (rfl)
@[simp] theorem State.modLfr_mem (n : Lane) (f : LfrState → LfrState) : (s.modLfr n f).mem = s.mem := (rfl)
@[simp] theorem State.modLfr_cst (n : Lane) (f : LfrState → LfrState) : (s.modLfr n f).cst = s.cst := (rfl)
@[simp] theorem State.modLfr_plu (n : Lane) (f : LfrState → LfrState) : (s.modLfr n f).plu = s.plu := (rfl)
@[simp] theorem State.modLfr_time (n : Lane) (f : LfrState → LfrState) : (s.modLfr n f).time = s.time := (rfl)
@[simp] theorem State.modLfr_objs (n : Lane) (f : LfrState → LfrState) : (s.modLfr n f).objs = s.objs := (rfl)
@[simp] theorem State.modLfr_ciph (n : Lane) (f : LfrState → LfrState) : (s.modLfr n f).ciph = s.ciph := (rfl)
@[simp] theorem State.modLfr_cop (n : Lane) (f : LfrState → LfrState) : (s.modLfr n f).cop = s.cop := (rfl)
@[simp] theorem State.modLfr_sec (n : Lane) (f : LfrState → LfrState) : (s.modLfr n f).sec = s.sec := (rfl)

/-! ### modPmon -/

@[simp] theorem State.modPmon_pending (n : Lane) (f : PmonState → PmonState) : (s.modPmon n f).pending = s.pending := (rfl)
@[simp] theorem State.modPmon_regs (n : Lane) (f : PmonState → PmonState) : (s.modPmon n f).regs = s.regs := (rfl)
@[simp] theorem State.modPmon_shadow (n : Lane) (f : PmonState → PmonState) : (s.modPmon n f).shadow = s.shadow := (rfl)
@[simp] theorem State.modPmon_clk (n : Lane) (f : PmonState → PmonState) : (s.modPmon n f).clk = s.clk := (rfl)
@[simp] theorem State.modPmon_free (n : Lane) (f : PmonState → PmonState) : (s.modPmon n f).free = s.free := (rfl)
@[simp] theorem State.modPmon_sent (n : Lane) (f : PmonState → PmonState) : (s.modPmon n f).sent = s.sent := (rfl)
@[simp] theorem State.modPmon_msixPending (n : Lane) (f : PmonState → PmonState) : (s.modPmon n f).msixPending = s.msixPending := (rfl)
@[simp] theorem State.modPmon_sampRef (n : Lane) (f : PmonState → PmonState) : (s.modPmon n f).sampRef = s.sampRef := (rfl)
@[simp] theorem State.modPmon_lvl (n : Lane) (f : PmonState → PmonState) : (s.modPmon n f).lvl = s.lvl := (rfl)
@[simp] theorem State.modPmon_crs (n : Lane) (f : PmonState → PmonState) : (s.modPmon n f).crs = s.crs := (rfl)
@[simp] theorem State.modPmon_cli (n : Lane) (f : PmonState → PmonState) : (s.modPmon n f).cli = s.cli := (rfl)
@[simp] theorem State.modPmon_tb (n : Lane) (f : PmonState → PmonState) : (s.modPmon n f).tb = s.tb := (rfl)
@[simp] theorem State.modPmon_cold (n : Lane) (f : PmonState → PmonState) : (s.modPmon n f).cold = s.cold := (rfl)
@[simp] theorem State.modPmon_bootHold (n : Lane) (f : PmonState → PmonState) : (s.modPmon n f).bootHold = s.bootHold := (rfl)
@[simp] theorem State.modPmon_hkm (n : Lane) (f : PmonState → PmonState) : (s.modPmon n f).hkm = s.hkm := (rfl)
@[simp] theorem State.modPmon_cal (n : Lane) (f : PmonState → PmonState) : (s.modPmon n f).cal = s.cal := (rfl)
@[simp] theorem State.modPmon_mem (n : Lane) (f : PmonState → PmonState) : (s.modPmon n f).mem = s.mem := (rfl)
@[simp] theorem State.modPmon_cst (n : Lane) (f : PmonState → PmonState) : (s.modPmon n f).cst = s.cst := (rfl)
@[simp] theorem State.modPmon_plu (n : Lane) (f : PmonState → PmonState) : (s.modPmon n f).plu = s.plu := (rfl)
@[simp] theorem State.modPmon_time (n : Lane) (f : PmonState → PmonState) : (s.modPmon n f).time = s.time := (rfl)
@[simp] theorem State.modPmon_objs (n : Lane) (f : PmonState → PmonState) : (s.modPmon n f).objs = s.objs := (rfl)
@[simp] theorem State.modPmon_ciph (n : Lane) (f : PmonState → PmonState) : (s.modPmon n f).ciph = s.ciph := (rfl)
@[simp] theorem State.modPmon_cop (n : Lane) (f : PmonState → PmonState) : (s.modPmon n f).cop = s.cop := (rfl)
@[simp] theorem State.modPmon_sec (n : Lane) (f : PmonState → PmonState) : (s.modPmon n f).sec = s.sec := (rfl)

/-! ### modKsc -/

@[simp] theorem State.modKsc_pending (n : Lane) (f : KscState → KscState) : (s.modKsc n f).pending = s.pending := (rfl)
@[simp] theorem State.modKsc_regs (n : Lane) (f : KscState → KscState) : (s.modKsc n f).regs = s.regs := (rfl)
@[simp] theorem State.modKsc_shadow (n : Lane) (f : KscState → KscState) : (s.modKsc n f).shadow = s.shadow := (rfl)
@[simp] theorem State.modKsc_clk (n : Lane) (f : KscState → KscState) : (s.modKsc n f).clk = s.clk := (rfl)
@[simp] theorem State.modKsc_free (n : Lane) (f : KscState → KscState) : (s.modKsc n f).free = s.free := (rfl)
@[simp] theorem State.modKsc_sent (n : Lane) (f : KscState → KscState) : (s.modKsc n f).sent = s.sent := (rfl)
@[simp] theorem State.modKsc_msixPending (n : Lane) (f : KscState → KscState) : (s.modKsc n f).msixPending = s.msixPending := (rfl)
@[simp] theorem State.modKsc_sampRef (n : Lane) (f : KscState → KscState) : (s.modKsc n f).sampRef = s.sampRef := (rfl)
@[simp] theorem State.modKsc_lvl (n : Lane) (f : KscState → KscState) : (s.modKsc n f).lvl = s.lvl := (rfl)
@[simp] theorem State.modKsc_crs (n : Lane) (f : KscState → KscState) : (s.modKsc n f).crs = s.crs := (rfl)
@[simp] theorem State.modKsc_cli (n : Lane) (f : KscState → KscState) : (s.modKsc n f).cli = s.cli := (rfl)
@[simp] theorem State.modKsc_tb (n : Lane) (f : KscState → KscState) : (s.modKsc n f).tb = s.tb := (rfl)
@[simp] theorem State.modKsc_cold (n : Lane) (f : KscState → KscState) : (s.modKsc n f).cold = s.cold := (rfl)
@[simp] theorem State.modKsc_bootHold (n : Lane) (f : KscState → KscState) : (s.modKsc n f).bootHold = s.bootHold := (rfl)
@[simp] theorem State.modKsc_hkm (n : Lane) (f : KscState → KscState) : (s.modKsc n f).hkm = s.hkm := (rfl)
@[simp] theorem State.modKsc_cal (n : Lane) (f : KscState → KscState) : (s.modKsc n f).cal = s.cal := (rfl)
@[simp] theorem State.modKsc_mem (n : Lane) (f : KscState → KscState) : (s.modKsc n f).mem = s.mem := (rfl)
@[simp] theorem State.modKsc_cst (n : Lane) (f : KscState → KscState) : (s.modKsc n f).cst = s.cst := (rfl)
@[simp] theorem State.modKsc_plu (n : Lane) (f : KscState → KscState) : (s.modKsc n f).plu = s.plu := (rfl)
@[simp] theorem State.modKsc_time (n : Lane) (f : KscState → KscState) : (s.modKsc n f).time = s.time := (rfl)
@[simp] theorem State.modKsc_objs (n : Lane) (f : KscState → KscState) : (s.modKsc n f).objs = s.objs := (rfl)
@[simp] theorem State.modKsc_ciph (n : Lane) (f : KscState → KscState) : (s.modKsc n f).ciph = s.ciph := (rfl)
@[simp] theorem State.modKsc_cop (n : Lane) (f : KscState → KscState) : (s.modKsc n f).cop = s.cop := (rfl)
@[simp] theorem State.modKsc_sec (n : Lane) (f : KscState → KscState) : (s.modKsc n f).sec = s.sec := (rfl)

/-! ### set -/

@[simp] theorem State.set_pending (f : Fld) (v : Nat) : (s.set f v).pending = s.pending := (rfl)
@[simp] theorem State.set_shadow (f : Fld) (v : Nat) : (s.set f v).shadow = s.shadow := (rfl)
@[simp] theorem State.set_clk (f : Fld) (v : Nat) : (s.set f v).clk = s.clk := (rfl)
@[simp] theorem State.set_free (f : Fld) (v : Nat) : (s.set f v).free = s.free := (rfl)
@[simp] theorem State.set_sent (f : Fld) (v : Nat) : (s.set f v).sent = s.sent := (rfl)
@[simp] theorem State.set_msixPending (f : Fld) (v : Nat) : (s.set f v).msixPending = s.msixPending := (rfl)
@[simp] theorem State.set_lanes (f : Fld) (v : Nat) : (s.set f v).lanes = s.lanes := (rfl)
@[simp] theorem State.set_sampRef (f : Fld) (v : Nat) : (s.set f v).sampRef = s.sampRef := (rfl)
@[simp] theorem State.set_lvl (f : Fld) (v : Nat) : (s.set f v).lvl = s.lvl := (rfl)
@[simp] theorem State.set_crs (f : Fld) (v : Nat) : (s.set f v).crs = s.crs := (rfl)
@[simp] theorem State.set_cli (f : Fld) (v : Nat) : (s.set f v).cli = s.cli := (rfl)
@[simp] theorem State.set_tb (f : Fld) (v : Nat) : (s.set f v).tb = s.tb := (rfl)
@[simp] theorem State.set_cold (f : Fld) (v : Nat) : (s.set f v).cold = s.cold := (rfl)
@[simp] theorem State.set_bootHold (f : Fld) (v : Nat) : (s.set f v).bootHold = s.bootHold := (rfl)
@[simp] theorem State.set_hkm (f : Fld) (v : Nat) : (s.set f v).hkm = s.hkm := (rfl)
@[simp] theorem State.set_cal (f : Fld) (v : Nat) : (s.set f v).cal = s.cal := (rfl)
@[simp] theorem State.set_mem (f : Fld) (v : Nat) : (s.set f v).mem = s.mem := (rfl)
@[simp] theorem State.set_cst (f : Fld) (v : Nat) : (s.set f v).cst = s.cst := (rfl)
@[simp] theorem State.set_plu (f : Fld) (v : Nat) : (s.set f v).plu = s.plu := (rfl)
@[simp] theorem State.set_time (f : Fld) (v : Nat) : (s.set f v).time = s.time := (rfl)
@[simp] theorem State.set_objs (f : Fld) (v : Nat) : (s.set f v).objs = s.objs := (rfl)
@[simp] theorem State.set_ciph (f : Fld) (v : Nat) : (s.set f v).ciph = s.ciph := (rfl)
@[simp] theorem State.set_cop (f : Fld) (v : Nat) : (s.set f v).cop = s.cop := (rfl)
@[simp] theorem State.set_sec (f : Fld) (v : Nat) : (s.set f v).sec = s.sec := (rfl)

/-! ### setB -/

@[simp] theorem State.setB_pending (f : Fld) (b : Bool) : (s.setB f b).pending = s.pending := (rfl)
@[simp] theorem State.setB_shadow (f : Fld) (b : Bool) : (s.setB f b).shadow = s.shadow := (rfl)
@[simp] theorem State.setB_clk (f : Fld) (b : Bool) : (s.setB f b).clk = s.clk := (rfl)
@[simp] theorem State.setB_free (f : Fld) (b : Bool) : (s.setB f b).free = s.free := (rfl)
@[simp] theorem State.setB_sent (f : Fld) (b : Bool) : (s.setB f b).sent = s.sent := (rfl)
@[simp] theorem State.setB_msixPending (f : Fld) (b : Bool) : (s.setB f b).msixPending = s.msixPending := (rfl)
@[simp] theorem State.setB_lanes (f : Fld) (b : Bool) : (s.setB f b).lanes = s.lanes := (rfl)
@[simp] theorem State.setB_sampRef (f : Fld) (b : Bool) : (s.setB f b).sampRef = s.sampRef := (rfl)
@[simp] theorem State.setB_lvl (f : Fld) (b : Bool) : (s.setB f b).lvl = s.lvl := (rfl)
@[simp] theorem State.setB_crs (f : Fld) (b : Bool) : (s.setB f b).crs = s.crs := (rfl)
@[simp] theorem State.setB_cli (f : Fld) (b : Bool) : (s.setB f b).cli = s.cli := (rfl)
@[simp] theorem State.setB_tb (f : Fld) (b : Bool) : (s.setB f b).tb = s.tb := (rfl)
@[simp] theorem State.setB_cold (f : Fld) (b : Bool) : (s.setB f b).cold = s.cold := (rfl)
@[simp] theorem State.setB_bootHold (f : Fld) (b : Bool) : (s.setB f b).bootHold = s.bootHold := (rfl)
@[simp] theorem State.setB_hkm (f : Fld) (b : Bool) : (s.setB f b).hkm = s.hkm := (rfl)
@[simp] theorem State.setB_cal (f : Fld) (b : Bool) : (s.setB f b).cal = s.cal := (rfl)
@[simp] theorem State.setB_mem (f : Fld) (b : Bool) : (s.setB f b).mem = s.mem := (rfl)
@[simp] theorem State.setB_cst (f : Fld) (b : Bool) : (s.setB f b).cst = s.cst := (rfl)
@[simp] theorem State.setB_plu (f : Fld) (b : Bool) : (s.setB f b).plu = s.plu := (rfl)
@[simp] theorem State.setB_time (f : Fld) (b : Bool) : (s.setB f b).time = s.time := (rfl)
@[simp] theorem State.setB_objs (f : Fld) (b : Bool) : (s.setB f b).objs = s.objs := (rfl)
@[simp] theorem State.setB_ciph (f : Fld) (b : Bool) : (s.setB f b).ciph = s.ciph := (rfl)
@[simp] theorem State.setB_cop (f : Fld) (b : Bool) : (s.setB f b).cop = s.cop := (rfl)
@[simp] theorem State.setB_sec (f : Fld) (b : Bool) : (s.setB f b).sec = s.sec := (rfl)

/-! ### setNat -/

@[simp] theorem State.setNat_pending (a v : Nat) : (s.setNat a v).pending = s.pending := (rfl)
@[simp] theorem State.setNat_shadow (a v : Nat) : (s.setNat a v).shadow = s.shadow := (rfl)
@[simp] theorem State.setNat_clk (a v : Nat) : (s.setNat a v).clk = s.clk := (rfl)
@[simp] theorem State.setNat_free (a v : Nat) : (s.setNat a v).free = s.free := (rfl)
@[simp] theorem State.setNat_sent (a v : Nat) : (s.setNat a v).sent = s.sent := (rfl)
@[simp] theorem State.setNat_msixPending (a v : Nat) : (s.setNat a v).msixPending = s.msixPending := (rfl)
@[simp] theorem State.setNat_lanes (a v : Nat) : (s.setNat a v).lanes = s.lanes := (rfl)
@[simp] theorem State.setNat_sampRef (a v : Nat) : (s.setNat a v).sampRef = s.sampRef := (rfl)
@[simp] theorem State.setNat_lvl (a v : Nat) : (s.setNat a v).lvl = s.lvl := (rfl)
@[simp] theorem State.setNat_crs (a v : Nat) : (s.setNat a v).crs = s.crs := (rfl)
@[simp] theorem State.setNat_cli (a v : Nat) : (s.setNat a v).cli = s.cli := (rfl)
@[simp] theorem State.setNat_tb (a v : Nat) : (s.setNat a v).tb = s.tb := (rfl)
@[simp] theorem State.setNat_cold (a v : Nat) : (s.setNat a v).cold = s.cold := (rfl)
@[simp] theorem State.setNat_bootHold (a v : Nat) : (s.setNat a v).bootHold = s.bootHold := (rfl)
@[simp] theorem State.setNat_hkm (a v : Nat) : (s.setNat a v).hkm = s.hkm := (rfl)
@[simp] theorem State.setNat_cal (a v : Nat) : (s.setNat a v).cal = s.cal := (rfl)
@[simp] theorem State.setNat_mem (a v : Nat) : (s.setNat a v).mem = s.mem := (rfl)
@[simp] theorem State.setNat_cst (a v : Nat) : (s.setNat a v).cst = s.cst := (rfl)
@[simp] theorem State.setNat_plu (a v : Nat) : (s.setNat a v).plu = s.plu := (rfl)
@[simp] theorem State.setNat_time (a v : Nat) : (s.setNat a v).time = s.time := (rfl)
@[simp] theorem State.setNat_objs (a v : Nat) : (s.setNat a v).objs = s.objs := (rfl)
@[simp] theorem State.setNat_ciph (a v : Nat) : (s.setNat a v).ciph = s.ciph := (rfl)
@[simp] theorem State.setNat_cop (a v : Nat) : (s.setNat a v).cop = s.cop := (rfl)
@[simp] theorem State.setNat_sec (a v : Nat) : (s.setNat a v).sec = s.sec := (rfl)

/-! ### setInt -/

@[simp] theorem State.setInt_pending (a : Nat) (x : Int) : (s.setInt a x).pending = s.pending := (rfl)
@[simp] theorem State.setInt_shadow (a : Nat) (x : Int) : (s.setInt a x).shadow = s.shadow := (rfl)
@[simp] theorem State.setInt_clk (a : Nat) (x : Int) : (s.setInt a x).clk = s.clk := (rfl)
@[simp] theorem State.setInt_free (a : Nat) (x : Int) : (s.setInt a x).free = s.free := (rfl)
@[simp] theorem State.setInt_sent (a : Nat) (x : Int) : (s.setInt a x).sent = s.sent := (rfl)
@[simp] theorem State.setInt_msixPending (a : Nat) (x : Int) : (s.setInt a x).msixPending = s.msixPending := (rfl)
@[simp] theorem State.setInt_lanes (a : Nat) (x : Int) : (s.setInt a x).lanes = s.lanes := (rfl)
@[simp] theorem State.setInt_sampRef (a : Nat) (x : Int) : (s.setInt a x).sampRef = s.sampRef := (rfl)
@[simp] theorem State.setInt_lvl (a : Nat) (x : Int) : (s.setInt a x).lvl = s.lvl := (rfl)
@[simp] theorem State.setInt_crs (a : Nat) (x : Int) : (s.setInt a x).crs = s.crs := (rfl)
@[simp] theorem State.setInt_cli (a : Nat) (x : Int) : (s.setInt a x).cli = s.cli := (rfl)
@[simp] theorem State.setInt_tb (a : Nat) (x : Int) : (s.setInt a x).tb = s.tb := (rfl)
@[simp] theorem State.setInt_cold (a : Nat) (x : Int) : (s.setInt a x).cold = s.cold := (rfl)
@[simp] theorem State.setInt_bootHold (a : Nat) (x : Int) : (s.setInt a x).bootHold = s.bootHold := (rfl)
@[simp] theorem State.setInt_hkm (a : Nat) (x : Int) : (s.setInt a x).hkm = s.hkm := (rfl)
@[simp] theorem State.setInt_cal (a : Nat) (x : Int) : (s.setInt a x).cal = s.cal := (rfl)
@[simp] theorem State.setInt_mem (a : Nat) (x : Int) : (s.setInt a x).mem = s.mem := (rfl)
@[simp] theorem State.setInt_cst (a : Nat) (x : Int) : (s.setInt a x).cst = s.cst := (rfl)
@[simp] theorem State.setInt_plu (a : Nat) (x : Int) : (s.setInt a x).plu = s.plu := (rfl)
@[simp] theorem State.setInt_time (a : Nat) (x : Int) : (s.setInt a x).time = s.time := (rfl)
@[simp] theorem State.setInt_objs (a : Nat) (x : Int) : (s.setInt a x).objs = s.objs := (rfl)
@[simp] theorem State.setInt_ciph (a : Nat) (x : Int) : (s.setInt a x).ciph = s.ciph := (rfl)
@[simp] theorem State.setInt_cop (a : Nat) (x : Int) : (s.setInt a x).cop = s.cop := (rfl)
@[simp] theorem State.setInt_sec (a : Nat) (x : Int) : (s.setInt a x).sec = s.sec := (rfl)

/-! ### setWide -/

@[simp] theorem State.setWide_pending (a v : Nat) : (s.setWide a v).pending = s.pending := (rfl)
@[simp] theorem State.setWide_shadow (a v : Nat) : (s.setWide a v).shadow = s.shadow := (rfl)
@[simp] theorem State.setWide_clk (a v : Nat) : (s.setWide a v).clk = s.clk := (rfl)
@[simp] theorem State.setWide_free (a v : Nat) : (s.setWide a v).free = s.free := (rfl)
@[simp] theorem State.setWide_sent (a v : Nat) : (s.setWide a v).sent = s.sent := (rfl)
@[simp] theorem State.setWide_msixPending (a v : Nat) : (s.setWide a v).msixPending = s.msixPending := (rfl)
@[simp] theorem State.setWide_lanes (a v : Nat) : (s.setWide a v).lanes = s.lanes := (rfl)
@[simp] theorem State.setWide_sampRef (a v : Nat) : (s.setWide a v).sampRef = s.sampRef := (rfl)
@[simp] theorem State.setWide_lvl (a v : Nat) : (s.setWide a v).lvl = s.lvl := (rfl)
@[simp] theorem State.setWide_crs (a v : Nat) : (s.setWide a v).crs = s.crs := (rfl)
@[simp] theorem State.setWide_cli (a v : Nat) : (s.setWide a v).cli = s.cli := (rfl)
@[simp] theorem State.setWide_tb (a v : Nat) : (s.setWide a v).tb = s.tb := (rfl)
@[simp] theorem State.setWide_cold (a v : Nat) : (s.setWide a v).cold = s.cold := (rfl)
@[simp] theorem State.setWide_bootHold (a v : Nat) : (s.setWide a v).bootHold = s.bootHold := (rfl)
@[simp] theorem State.setWide_hkm (a v : Nat) : (s.setWide a v).hkm = s.hkm := (rfl)
@[simp] theorem State.setWide_cal (a v : Nat) : (s.setWide a v).cal = s.cal := (rfl)
@[simp] theorem State.setWide_mem (a v : Nat) : (s.setWide a v).mem = s.mem := (rfl)
@[simp] theorem State.setWide_cst (a v : Nat) : (s.setWide a v).cst = s.cst := (rfl)
@[simp] theorem State.setWide_plu (a v : Nat) : (s.setWide a v).plu = s.plu := (rfl)
@[simp] theorem State.setWide_time (a v : Nat) : (s.setWide a v).time = s.time := (rfl)
@[simp] theorem State.setWide_objs (a v : Nat) : (s.setWide a v).objs = s.objs := (rfl)
@[simp] theorem State.setWide_ciph (a v : Nat) : (s.setWide a v).ciph = s.ciph := (rfl)
@[simp] theorem State.setWide_cop (a v : Nat) : (s.setWide a v).cop = s.cop := (rfl)
@[simp] theorem State.setWide_sec (a v : Nat) : (s.setWide a v).sec = s.sec := (rfl)

/-! ### setTime80 -/

@[simp] theorem State.setTime80_pending (a ns : Nat) : (s.setTime80 a ns).pending = s.pending := (rfl)
@[simp] theorem State.setTime80_shadow (a ns : Nat) : (s.setTime80 a ns).shadow = s.shadow := (rfl)
@[simp] theorem State.setTime80_clk (a ns : Nat) : (s.setTime80 a ns).clk = s.clk := (rfl)
@[simp] theorem State.setTime80_free (a ns : Nat) : (s.setTime80 a ns).free = s.free := (rfl)
@[simp] theorem State.setTime80_sent (a ns : Nat) : (s.setTime80 a ns).sent = s.sent := (rfl)
@[simp] theorem State.setTime80_msixPending (a ns : Nat) : (s.setTime80 a ns).msixPending = s.msixPending := (rfl)
@[simp] theorem State.setTime80_lanes (a ns : Nat) : (s.setTime80 a ns).lanes = s.lanes := (rfl)
@[simp] theorem State.setTime80_sampRef (a ns : Nat) : (s.setTime80 a ns).sampRef = s.sampRef := (rfl)
@[simp] theorem State.setTime80_lvl (a ns : Nat) : (s.setTime80 a ns).lvl = s.lvl := (rfl)
@[simp] theorem State.setTime80_crs (a ns : Nat) : (s.setTime80 a ns).crs = s.crs := (rfl)
@[simp] theorem State.setTime80_cli (a ns : Nat) : (s.setTime80 a ns).cli = s.cli := (rfl)
@[simp] theorem State.setTime80_tb (a ns : Nat) : (s.setTime80 a ns).tb = s.tb := (rfl)
@[simp] theorem State.setTime80_cold (a ns : Nat) : (s.setTime80 a ns).cold = s.cold := (rfl)
@[simp] theorem State.setTime80_bootHold (a ns : Nat) : (s.setTime80 a ns).bootHold = s.bootHold := (rfl)
@[simp] theorem State.setTime80_hkm (a ns : Nat) : (s.setTime80 a ns).hkm = s.hkm := (rfl)
@[simp] theorem State.setTime80_cal (a ns : Nat) : (s.setTime80 a ns).cal = s.cal := (rfl)
@[simp] theorem State.setTime80_mem (a ns : Nat) : (s.setTime80 a ns).mem = s.mem := (rfl)
@[simp] theorem State.setTime80_cst (a ns : Nat) : (s.setTime80 a ns).cst = s.cst := (rfl)
@[simp] theorem State.setTime80_plu (a ns : Nat) : (s.setTime80 a ns).plu = s.plu := (rfl)
@[simp] theorem State.setTime80_time (a ns : Nat) : (s.setTime80 a ns).time = s.time := (rfl)
@[simp] theorem State.setTime80_objs (a ns : Nat) : (s.setTime80 a ns).objs = s.objs := (rfl)
@[simp] theorem State.setTime80_ciph (a ns : Nat) : (s.setTime80 a ns).ciph = s.ciph := (rfl)
@[simp] theorem State.setTime80_cop (a ns : Nat) : (s.setTime80 a ns).cop = s.cop := (rfl)
@[simp] theorem State.setTime80_sec (a ns : Nat) : (s.setTime80 a ns).sec = s.sec := (rfl)

/-! ### addNow -/

@[simp] theorem State.addNow_pending (a k : Nat) : (s.addNow a k).pending = s.pending := State.setWide_pending s a _
@[simp] theorem State.addNow_shadow (a k : Nat) : (s.addNow a k).shadow = s.shadow := State.setWide_shadow s a _
@[simp] theorem State.addNow_clk (a k : Nat) : (s.addNow a k).clk = s.clk := State.setWide_clk s a _
@[simp] theorem State.addNow_free (a k : Nat) : (s.addNow a k).free = s.free := State.setWide_free s a _
@[simp] theorem State.addNow_sent (a k : Nat) : (s.addNow a k).sent = s.sent := State.setWide_sent s a _
@[simp] theorem State.addNow_msixPending (a k : Nat) : (s.addNow a k).msixPending = s.msixPending := State.setWide_msixPending s a _
@[simp] theorem State.addNow_lanes (a k : Nat) : (s.addNow a k).lanes = s.lanes := State.setWide_lanes s a _
@[simp] theorem State.addNow_sampRef (a k : Nat) : (s.addNow a k).sampRef = s.sampRef := State.setWide_sampRef s a _
@[simp] theorem State.addNow_lvl (a k : Nat) : (s.addNow a k).lvl = s.lvl := State.setWide_lvl s a _
@[simp] theorem State.addNow_crs (a k : Nat) : (s.addNow a k).crs = s.crs := State.setWide_crs s a _
@[simp] theorem State.addNow_cli (a k : Nat) : (s.addNow a k).cli = s.cli := State.setWide_cli s a _
@[simp] theorem State.addNow_tb (a k : Nat) : (s.addNow a k).tb = s.tb := State.setWide_tb s a _
@[simp] theorem State.addNow_cold (a k : Nat) : (s.addNow a k).cold = s.cold := State.setWide_cold s a _
@[simp] theorem State.addNow_bootHold (a k : Nat) : (s.addNow a k).bootHold = s.bootHold := State.setWide_bootHold s a _
@[simp] theorem State.addNow_hkm (a k : Nat) : (s.addNow a k).hkm = s.hkm := State.setWide_hkm s a _
@[simp] theorem State.addNow_cal (a k : Nat) : (s.addNow a k).cal = s.cal := State.setWide_cal s a _
@[simp] theorem State.addNow_mem (a k : Nat) : (s.addNow a k).mem = s.mem := State.setWide_mem s a _
@[simp] theorem State.addNow_cst (a k : Nat) : (s.addNow a k).cst = s.cst := State.setWide_cst s a _
@[simp] theorem State.addNow_plu (a k : Nat) : (s.addNow a k).plu = s.plu := State.setWide_plu s a _
@[simp] theorem State.addNow_time (a k : Nat) : (s.addNow a k).time = s.time := State.setWide_time s a _
@[simp] theorem State.addNow_objs (a k : Nat) : (s.addNow a k).objs = s.objs := State.setWide_objs s a _
@[simp] theorem State.addNow_ciph (a k : Nat) : (s.addNow a k).ciph = s.ciph := State.setWide_ciph s a _
@[simp] theorem State.addNow_cop (a k : Nat) : (s.addNow a k).cop = s.cop := State.setWide_cop s a _
@[simp] theorem State.addNow_sec (a k : Nat) : (s.addNow a k).sec = s.sec := State.setWide_sec s a _

/-! ### addCnt32 -/

@[simp] theorem State.addCnt32_pending (a k : Nat) : (s.addCnt32 a k).pending = s.pending := (rfl)
@[simp] theorem State.addCnt32_shadow (a k : Nat) : (s.addCnt32 a k).shadow = s.shadow := (rfl)
@[simp] theorem State.addCnt32_clk (a k : Nat) : (s.addCnt32 a k).clk = s.clk := (rfl)
@[simp] theorem State.addCnt32_free (a k : Nat) : (s.addCnt32 a k).free = s.free := (rfl)
@[simp] theorem State.addCnt32_sent (a k : Nat) : (s.addCnt32 a k).sent = s.sent := (rfl)
@[simp] theorem State.addCnt32_msixPending (a k : Nat) : (s.addCnt32 a k).msixPending = s.msixPending := (rfl)
@[simp] theorem State.addCnt32_lanes (a k : Nat) : (s.addCnt32 a k).lanes = s.lanes := (rfl)
@[simp] theorem State.addCnt32_sampRef (a k : Nat) : (s.addCnt32 a k).sampRef = s.sampRef := (rfl)
@[simp] theorem State.addCnt32_lvl (a k : Nat) : (s.addCnt32 a k).lvl = s.lvl := (rfl)
@[simp] theorem State.addCnt32_crs (a k : Nat) : (s.addCnt32 a k).crs = s.crs := (rfl)
@[simp] theorem State.addCnt32_cli (a k : Nat) : (s.addCnt32 a k).cli = s.cli := (rfl)
@[simp] theorem State.addCnt32_tb (a k : Nat) : (s.addCnt32 a k).tb = s.tb := (rfl)
@[simp] theorem State.addCnt32_cold (a k : Nat) : (s.addCnt32 a k).cold = s.cold := (rfl)
@[simp] theorem State.addCnt32_bootHold (a k : Nat) : (s.addCnt32 a k).bootHold = s.bootHold := (rfl)
@[simp] theorem State.addCnt32_hkm (a k : Nat) : (s.addCnt32 a k).hkm = s.hkm := (rfl)
@[simp] theorem State.addCnt32_cal (a k : Nat) : (s.addCnt32 a k).cal = s.cal := (rfl)
@[simp] theorem State.addCnt32_mem (a k : Nat) : (s.addCnt32 a k).mem = s.mem := (rfl)
@[simp] theorem State.addCnt32_cst (a k : Nat) : (s.addCnt32 a k).cst = s.cst := (rfl)
@[simp] theorem State.addCnt32_plu (a k : Nat) : (s.addCnt32 a k).plu = s.plu := (rfl)
@[simp] theorem State.addCnt32_time (a k : Nat) : (s.addCnt32 a k).time = s.time := (rfl)
@[simp] theorem State.addCnt32_objs (a k : Nat) : (s.addCnt32 a k).objs = s.objs := (rfl)
@[simp] theorem State.addCnt32_ciph (a k : Nat) : (s.addCnt32 a k).ciph = s.ciph := (rfl)
@[simp] theorem State.addCnt32_cop (a k : Nat) : (s.addCnt32 a k).cop = s.cop := (rfl)
@[simp] theorem State.addCnt32_sec (a k : Nat) : (s.addCnt32 a k).sec = s.sec := (rfl)

/-! ### msix -/

@[simp] theorem State.msix_pending (i : Nat) : (s.msix i).pending = s.pending := by
  unfold State.msix; split <;> (try split) <;> rfl
@[simp] theorem State.msix_shadow (i : Nat) : (s.msix i).shadow = s.shadow := by
  unfold State.msix; split <;> (try split) <;> rfl
@[simp] theorem State.msix_clk (i : Nat) : (s.msix i).clk = s.clk := by
  unfold State.msix; split <;> (try split) <;> rfl
@[simp] theorem State.msix_free (i : Nat) : (s.msix i).free = s.free := by
  unfold State.msix; split <;> (try split) <;> rfl
@[simp] theorem State.msix_lanes (i : Nat) : (s.msix i).lanes = s.lanes := by
  unfold State.msix; split <;> (try split) <;> rfl
@[simp] theorem State.msix_sampRef (i : Nat) : (s.msix i).sampRef = s.sampRef := by
  unfold State.msix; split <;> (try split) <;> rfl
@[simp] theorem State.msix_lvl (i : Nat) : (s.msix i).lvl = s.lvl := by
  unfold State.msix; split <;> (try split) <;> rfl
@[simp] theorem State.msix_crs (i : Nat) : (s.msix i).crs = s.crs := by
  unfold State.msix; split <;> (try split) <;> rfl
@[simp] theorem State.msix_cli (i : Nat) : (s.msix i).cli = s.cli := by
  unfold State.msix; split <;> (try split) <;> rfl
@[simp] theorem State.msix_tb (i : Nat) : (s.msix i).tb = s.tb := by
  unfold State.msix; split <;> (try split) <;> rfl
@[simp] theorem State.msix_cold (i : Nat) : (s.msix i).cold = s.cold := by
  unfold State.msix; split <;> (try split) <;> rfl
@[simp] theorem State.msix_bootHold (i : Nat) : (s.msix i).bootHold = s.bootHold := by
  unfold State.msix; split <;> (try split) <;> rfl
@[simp] theorem State.msix_hkm (i : Nat) : (s.msix i).hkm = s.hkm := by
  unfold State.msix; split <;> (try split) <;> rfl
@[simp] theorem State.msix_cal (i : Nat) : (s.msix i).cal = s.cal := by
  unfold State.msix; split <;> (try split) <;> rfl
@[simp] theorem State.msix_mem (i : Nat) : (s.msix i).mem = s.mem := by
  unfold State.msix; split <;> (try split) <;> rfl
@[simp] theorem State.msix_cst (i : Nat) : (s.msix i).cst = s.cst := by
  unfold State.msix; split <;> (try split) <;> rfl
@[simp] theorem State.msix_plu (i : Nat) : (s.msix i).plu = s.plu := by
  unfold State.msix; split <;> (try split) <;> rfl
@[simp] theorem State.msix_time (i : Nat) : (s.msix i).time = s.time := by
  unfold State.msix; split <;> (try split) <;> rfl
@[simp] theorem State.msix_objs (i : Nat) : (s.msix i).objs = s.objs := by
  unfold State.msix; split <;> (try split) <;> rfl
@[simp] theorem State.msix_ciph (i : Nat) : (s.msix i).ciph = s.ciph := by
  unfold State.msix; split <;> (try split) <;> rfl
@[simp] theorem State.msix_cop (i : Nat) : (s.msix i).cop = s.cop := by
  unfold State.msix; split <;> (try split) <;> rfl
@[simp] theorem State.msix_sec (i : Nat) : (s.msix i).sec = s.sec := by
  unfold State.msix; split <;> (try split) <;> rfl

/-! ### irq -/

@[simp] theorem State.irq_pending (b : State) (i : Nat) : (s.irq b i).pending = s.pending := by
  unfold State.irq; split <;> simp
@[simp] theorem State.irq_shadow (b : State) (i : Nat) : (s.irq b i).shadow = s.shadow := by
  unfold State.irq; split <;> simp
@[simp] theorem State.irq_clk (b : State) (i : Nat) : (s.irq b i).clk = s.clk := by
  unfold State.irq; split <;> simp
@[simp] theorem State.irq_free (b : State) (i : Nat) : (s.irq b i).free = s.free := by
  unfold State.irq; split <;> simp
@[simp] theorem State.irq_lanes (b : State) (i : Nat) : (s.irq b i).lanes = s.lanes := by
  unfold State.irq; split <;> simp
@[simp] theorem State.irq_sampRef (b : State) (i : Nat) : (s.irq b i).sampRef = s.sampRef := by
  unfold State.irq; split <;> simp
@[simp] theorem State.irq_lvl (b : State) (i : Nat) : (s.irq b i).lvl = s.lvl := by
  unfold State.irq; split <;> simp
@[simp] theorem State.irq_crs (b : State) (i : Nat) : (s.irq b i).crs = s.crs := by
  unfold State.irq; split <;> simp
@[simp] theorem State.irq_cli (b : State) (i : Nat) : (s.irq b i).cli = s.cli := by
  unfold State.irq; split <;> simp
@[simp] theorem State.irq_tb (b : State) (i : Nat) : (s.irq b i).tb = s.tb := by
  unfold State.irq; split <;> simp
@[simp] theorem State.irq_cold (b : State) (i : Nat) : (s.irq b i).cold = s.cold := by
  unfold State.irq; split <;> simp
@[simp] theorem State.irq_bootHold (b : State) (i : Nat) : (s.irq b i).bootHold = s.bootHold := by
  unfold State.irq; split <;> simp
@[simp] theorem State.irq_hkm (b : State) (i : Nat) : (s.irq b i).hkm = s.hkm := by
  unfold State.irq; split <;> simp
@[simp] theorem State.irq_cal (b : State) (i : Nat) : (s.irq b i).cal = s.cal := by
  unfold State.irq; split <;> simp
@[simp] theorem State.irq_mem (b : State) (i : Nat) : (s.irq b i).mem = s.mem := by
  unfold State.irq; split <;> simp
@[simp] theorem State.irq_cst (b : State) (i : Nat) : (s.irq b i).cst = s.cst := by
  unfold State.irq; split <;> simp
@[simp] theorem State.irq_plu (b : State) (i : Nat) : (s.irq b i).plu = s.plu := by
  unfold State.irq; split <;> simp
@[simp] theorem State.irq_time (b : State) (i : Nat) : (s.irq b i).time = s.time := by
  unfold State.irq; split <;> simp
@[simp] theorem State.irq_objs (b : State) (i : Nat) : (s.irq b i).objs = s.objs := by
  unfold State.irq; split <;> simp
@[simp] theorem State.irq_ciph (b : State) (i : Nat) : (s.irq b i).ciph = s.ciph := by
  unfold State.irq; split <;> simp
@[simp] theorem State.irq_cop (b : State) (i : Nat) : (s.irq b i).cop = s.cop := by
  unfold State.irq; split <;> simp
@[simp] theorem State.irq_sec (b : State) (i : Nat) : (s.irq b i).sec = s.sec := by
  unfold State.irq; split <;> simp

/-! ### raise -/

@[simp] theorem State.raise_pending (f : Fld) : (s.raise f).pending = s.pending := by
  simp [State.raise]
@[simp] theorem State.raise_shadow (f : Fld) : (s.raise f).shadow = s.shadow := by
  simp [State.raise]
@[simp] theorem State.raise_clk (f : Fld) : (s.raise f).clk = s.clk := by
  simp [State.raise]
@[simp] theorem State.raise_free (f : Fld) : (s.raise f).free = s.free := by
  simp [State.raise]
@[simp] theorem State.raise_lanes (f : Fld) : (s.raise f).lanes = s.lanes := by
  simp [State.raise]
@[simp] theorem State.raise_sampRef (f : Fld) : (s.raise f).sampRef = s.sampRef := by
  simp [State.raise]
@[simp] theorem State.raise_lvl (f : Fld) : (s.raise f).lvl = s.lvl := by
  simp [State.raise]
@[simp] theorem State.raise_crs (f : Fld) : (s.raise f).crs = s.crs := by
  simp [State.raise]
@[simp] theorem State.raise_cli (f : Fld) : (s.raise f).cli = s.cli := by
  simp [State.raise]
@[simp] theorem State.raise_tb (f : Fld) : (s.raise f).tb = s.tb := by
  simp [State.raise]
@[simp] theorem State.raise_cold (f : Fld) : (s.raise f).cold = s.cold := by
  simp [State.raise]
@[simp] theorem State.raise_bootHold (f : Fld) : (s.raise f).bootHold = s.bootHold := by
  simp [State.raise]
@[simp] theorem State.raise_hkm (f : Fld) : (s.raise f).hkm = s.hkm := by
  simp [State.raise]
@[simp] theorem State.raise_cal (f : Fld) : (s.raise f).cal = s.cal := by
  simp [State.raise]
@[simp] theorem State.raise_mem (f : Fld) : (s.raise f).mem = s.mem := by
  simp [State.raise]
@[simp] theorem State.raise_cst (f : Fld) : (s.raise f).cst = s.cst := by
  simp [State.raise]
@[simp] theorem State.raise_plu (f : Fld) : (s.raise f).plu = s.plu := by
  simp [State.raise]
@[simp] theorem State.raise_time (f : Fld) : (s.raise f).time = s.time := by
  simp [State.raise]
@[simp] theorem State.raise_objs (f : Fld) : (s.raise f).objs = s.objs := by
  simp [State.raise]
@[simp] theorem State.raise_ciph (f : Fld) : (s.raise f).ciph = s.ciph := by
  simp [State.raise]
@[simp] theorem State.raise_cop (f : Fld) : (s.raise f).cop = s.cop := by
  simp [State.raise]
@[simp] theorem State.raise_sec (f : Fld) : (s.raise f).sec = s.sec := by
  simp [State.raise]

/-! ### raiseIf -/

@[simp] theorem State.raiseIf_pending (c : Bool) (f : Fld) : (s.raiseIf c f).pending = s.pending := by
  unfold State.raiseIf; split <;> simp
@[simp] theorem State.raiseIf_shadow (c : Bool) (f : Fld) : (s.raiseIf c f).shadow = s.shadow := by
  unfold State.raiseIf; split <;> simp
@[simp] theorem State.raiseIf_clk (c : Bool) (f : Fld) : (s.raiseIf c f).clk = s.clk := by
  unfold State.raiseIf; split <;> simp
@[simp] theorem State.raiseIf_free (c : Bool) (f : Fld) : (s.raiseIf c f).free = s.free := by
  unfold State.raiseIf; split <;> simp
@[simp] theorem State.raiseIf_lanes (c : Bool) (f : Fld) : (s.raiseIf c f).lanes = s.lanes := by
  unfold State.raiseIf; split <;> simp
@[simp] theorem State.raiseIf_sampRef (c : Bool) (f : Fld) : (s.raiseIf c f).sampRef = s.sampRef := by
  unfold State.raiseIf; split <;> simp
@[simp] theorem State.raiseIf_lvl (c : Bool) (f : Fld) : (s.raiseIf c f).lvl = s.lvl := by
  unfold State.raiseIf; split <;> simp
@[simp] theorem State.raiseIf_crs (c : Bool) (f : Fld) : (s.raiseIf c f).crs = s.crs := by
  unfold State.raiseIf; split <;> simp
@[simp] theorem State.raiseIf_cli (c : Bool) (f : Fld) : (s.raiseIf c f).cli = s.cli := by
  unfold State.raiseIf; split <;> simp
@[simp] theorem State.raiseIf_tb (c : Bool) (f : Fld) : (s.raiseIf c f).tb = s.tb := by
  unfold State.raiseIf; split <;> simp
@[simp] theorem State.raiseIf_cold (c : Bool) (f : Fld) : (s.raiseIf c f).cold = s.cold := by
  unfold State.raiseIf; split <;> simp
@[simp] theorem State.raiseIf_bootHold (c : Bool) (f : Fld) : (s.raiseIf c f).bootHold = s.bootHold := by
  unfold State.raiseIf; split <;> simp
@[simp] theorem State.raiseIf_hkm (c : Bool) (f : Fld) : (s.raiseIf c f).hkm = s.hkm := by
  unfold State.raiseIf; split <;> simp
@[simp] theorem State.raiseIf_cal (c : Bool) (f : Fld) : (s.raiseIf c f).cal = s.cal := by
  unfold State.raiseIf; split <;> simp
@[simp] theorem State.raiseIf_mem (c : Bool) (f : Fld) : (s.raiseIf c f).mem = s.mem := by
  unfold State.raiseIf; split <;> simp
@[simp] theorem State.raiseIf_cst (c : Bool) (f : Fld) : (s.raiseIf c f).cst = s.cst := by
  unfold State.raiseIf; split <;> simp
@[simp] theorem State.raiseIf_plu (c : Bool) (f : Fld) : (s.raiseIf c f).plu = s.plu := by
  unfold State.raiseIf; split <;> simp
@[simp] theorem State.raiseIf_time (c : Bool) (f : Fld) : (s.raiseIf c f).time = s.time := by
  unfold State.raiseIf; split <;> simp
@[simp] theorem State.raiseIf_objs (c : Bool) (f : Fld) : (s.raiseIf c f).objs = s.objs := by
  unfold State.raiseIf; split <;> simp
@[simp] theorem State.raiseIf_ciph (c : Bool) (f : Fld) : (s.raiseIf c f).ciph = s.ciph := by
  unfold State.raiseIf; split <;> simp
@[simp] theorem State.raiseIf_cop (c : Bool) (f : Fld) : (s.raiseIf c f).cop = s.cop := by
  unfold State.raiseIf; split <;> simp
@[simp] theorem State.raiseIf_sec (c : Bool) (f : Fld) : (s.raiseIf c f).sec = s.sec := by
  unfold State.raiseIf; split <;> simp

/-! ### logAcc -/

@[simp] theorem State.logAcc_pending (c : AccCode) (a : Nat) (w : Bool) : (s.logAcc c a w).pending = s.pending := by
  rw [State.logAcc, State.raise_pending, State.setNat_pending, State.setNat_pending, State.addNow_pending]
@[simp] theorem State.logAcc_shadow (c : AccCode) (a : Nat) (w : Bool) : (s.logAcc c a w).shadow = s.shadow := by
  rw [State.logAcc, State.raise_shadow, State.setNat_shadow, State.setNat_shadow, State.addNow_shadow]
@[simp] theorem State.logAcc_clk (c : AccCode) (a : Nat) (w : Bool) : (s.logAcc c a w).clk = s.clk := by
  rw [State.logAcc, State.raise_clk, State.setNat_clk, State.setNat_clk, State.addNow_clk]
@[simp] theorem State.logAcc_free (c : AccCode) (a : Nat) (w : Bool) : (s.logAcc c a w).free = s.free := by
  rw [State.logAcc, State.raise_free, State.setNat_free, State.setNat_free, State.addNow_free]
@[simp] theorem State.logAcc_lanes (c : AccCode) (a : Nat) (w : Bool) : (s.logAcc c a w).lanes = s.lanes := by
  rw [State.logAcc, State.raise_lanes, State.setNat_lanes, State.setNat_lanes, State.addNow_lanes]
@[simp] theorem State.logAcc_sampRef (c : AccCode) (a : Nat) (w : Bool) : (s.logAcc c a w).sampRef = s.sampRef := by
  rw [State.logAcc, State.raise_sampRef, State.setNat_sampRef, State.setNat_sampRef, State.addNow_sampRef]
@[simp] theorem State.logAcc_lvl (c : AccCode) (a : Nat) (w : Bool) : (s.logAcc c a w).lvl = s.lvl := by
  rw [State.logAcc, State.raise_lvl, State.setNat_lvl, State.setNat_lvl, State.addNow_lvl]
@[simp] theorem State.logAcc_crs (c : AccCode) (a : Nat) (w : Bool) : (s.logAcc c a w).crs = s.crs := by
  rw [State.logAcc, State.raise_crs, State.setNat_crs, State.setNat_crs, State.addNow_crs]
@[simp] theorem State.logAcc_cli (c : AccCode) (a : Nat) (w : Bool) : (s.logAcc c a w).cli = s.cli := by
  rw [State.logAcc, State.raise_cli, State.setNat_cli, State.setNat_cli, State.addNow_cli]
@[simp] theorem State.logAcc_tb (c : AccCode) (a : Nat) (w : Bool) : (s.logAcc c a w).tb = s.tb := by
  rw [State.logAcc, State.raise_tb, State.setNat_tb, State.setNat_tb, State.addNow_tb]
@[simp] theorem State.logAcc_cold (c : AccCode) (a : Nat) (w : Bool) : (s.logAcc c a w).cold = s.cold := by
  rw [State.logAcc, State.raise_cold, State.setNat_cold, State.setNat_cold, State.addNow_cold]
@[simp] theorem State.logAcc_bootHold (c : AccCode) (a : Nat) (w : Bool) : (s.logAcc c a w).bootHold = s.bootHold := by
  rw [State.logAcc, State.raise_bootHold, State.setNat_bootHold, State.setNat_bootHold, State.addNow_bootHold]
@[simp] theorem State.logAcc_hkm (c : AccCode) (a : Nat) (w : Bool) : (s.logAcc c a w).hkm = s.hkm := by
  rw [State.logAcc, State.raise_hkm, State.setNat_hkm, State.setNat_hkm, State.addNow_hkm]
@[simp] theorem State.logAcc_cal (c : AccCode) (a : Nat) (w : Bool) : (s.logAcc c a w).cal = s.cal := by
  rw [State.logAcc, State.raise_cal, State.setNat_cal, State.setNat_cal, State.addNow_cal]
@[simp] theorem State.logAcc_mem (c : AccCode) (a : Nat) (w : Bool) : (s.logAcc c a w).mem = s.mem := by
  rw [State.logAcc, State.raise_mem, State.setNat_mem, State.setNat_mem, State.addNow_mem]
@[simp] theorem State.logAcc_cst (c : AccCode) (a : Nat) (w : Bool) : (s.logAcc c a w).cst = s.cst := by
  rw [State.logAcc, State.raise_cst, State.setNat_cst, State.setNat_cst, State.addNow_cst]
@[simp] theorem State.logAcc_plu (c : AccCode) (a : Nat) (w : Bool) : (s.logAcc c a w).plu = s.plu := by
  rw [State.logAcc, State.raise_plu, State.setNat_plu, State.setNat_plu, State.addNow_plu]
@[simp] theorem State.logAcc_time (c : AccCode) (a : Nat) (w : Bool) : (s.logAcc c a w).time = s.time := by
  rw [State.logAcc, State.raise_time, State.setNat_time, State.setNat_time, State.addNow_time]
@[simp] theorem State.logAcc_objs (c : AccCode) (a : Nat) (w : Bool) : (s.logAcc c a w).objs = s.objs := by
  rw [State.logAcc, State.raise_objs, State.setNat_objs, State.setNat_objs, State.addNow_objs]
@[simp] theorem State.logAcc_ciph (c : AccCode) (a : Nat) (w : Bool) : (s.logAcc c a w).ciph = s.ciph := by
  rw [State.logAcc, State.raise_ciph, State.setNat_ciph, State.setNat_ciph, State.addNow_ciph]
@[simp] theorem State.logAcc_cop (c : AccCode) (a : Nat) (w : Bool) : (s.logAcc c a w).cop = s.cop := by
  rw [State.logAcc, State.raise_cop, State.setNat_cop, State.setNat_cop, State.addNow_cop]
@[simp] theorem State.logAcc_sec (c : AccCode) (a : Nat) (w : Bool) : (s.logAcc c a w).sec = s.sec := by
  rw [State.logAcc, State.raise_sec, State.setNat_sec, State.setNat_sec, State.addNow_sec]

/-! ### answer -/

@[simp] theorem State.answer_pending (by_ : Source) (c : Code) : (s.answer by_ c).pending = s.pending := by
  cases by_ <;> rfl
@[simp] theorem State.answer_shadow (by_ : Source) (c : Code) : (s.answer by_ c).shadow = s.shadow := by
  cases by_ <;> rfl
@[simp] theorem State.answer_clk (by_ : Source) (c : Code) : (s.answer by_ c).clk = s.clk := by
  cases by_ <;> rfl
@[simp] theorem State.answer_free (by_ : Source) (c : Code) : (s.answer by_ c).free = s.free := by
  cases by_ <;> rfl
@[simp] theorem State.answer_lanes (by_ : Source) (c : Code) : (s.answer by_ c).lanes = s.lanes := by
  cases by_ <;> rfl
@[simp] theorem State.answer_sampRef (by_ : Source) (c : Code) : (s.answer by_ c).sampRef = s.sampRef := by
  cases by_ <;> rfl
@[simp] theorem State.answer_lvl (by_ : Source) (c : Code) : (s.answer by_ c).lvl = s.lvl := by
  cases by_ <;> rfl
@[simp] theorem State.answer_crs (by_ : Source) (c : Code) : (s.answer by_ c).crs = s.crs := by
  cases by_ <;> rfl
@[simp] theorem State.answer_cli (by_ : Source) (c : Code) : (s.answer by_ c).cli = s.cli := by
  cases by_ <;> rfl
@[simp] theorem State.answer_tb (by_ : Source) (c : Code) : (s.answer by_ c).tb = s.tb := by
  cases by_ <;> rfl
@[simp] theorem State.answer_cold (by_ : Source) (c : Code) : (s.answer by_ c).cold = s.cold := by
  cases by_ <;> rfl
@[simp] theorem State.answer_bootHold (by_ : Source) (c : Code) : (s.answer by_ c).bootHold = s.bootHold := by
  cases by_ <;> rfl
@[simp] theorem State.answer_hkm (by_ : Source) (c : Code) : (s.answer by_ c).hkm = s.hkm := by
  cases by_ <;> rfl
@[simp] theorem State.answer_cal (by_ : Source) (c : Code) : (s.answer by_ c).cal = s.cal := by
  cases by_ <;> rfl
@[simp] theorem State.answer_mem (by_ : Source) (c : Code) : (s.answer by_ c).mem = s.mem := by
  cases by_ <;> rfl
@[simp] theorem State.answer_cst (by_ : Source) (c : Code) : (s.answer by_ c).cst = s.cst := by
  cases by_ <;> rfl
@[simp] theorem State.answer_plu (by_ : Source) (c : Code) : (s.answer by_ c).plu = s.plu := by
  cases by_ <;> rfl
@[simp] theorem State.answer_time (by_ : Source) (c : Code) : (s.answer by_ c).time = s.time := by
  cases by_ <;> rfl
@[simp] theorem State.answer_objs (by_ : Source) (c : Code) : (s.answer by_ c).objs = s.objs := by
  cases by_ <;> rfl
@[simp] theorem State.answer_ciph (by_ : Source) (c : Code) : (s.answer by_ c).ciph = s.ciph := by
  cases by_ <;> rfl
@[simp] theorem State.answer_cop (by_ : Source) (c : Code) : (s.answer by_ c).cop = s.cop := by
  cases by_ <;> rfl
@[simp] theorem State.answer_sec (by_ : Source) (c : Code) : (s.answer by_ c).sec = s.sec := by
  cases by_ <;> rfl

/-! ### refuse -/

@[simp] theorem State.refuse_pending (by_ : Source) (a : Nat) (x : AccCode) (c : Code) : (s.refuse by_ a x c).pending = s.pending := by
  cases by_
  · exact State.logAcc_pending s _ _ _
  · rfl
@[simp] theorem State.refuse_shadow (by_ : Source) (a : Nat) (x : AccCode) (c : Code) : (s.refuse by_ a x c).shadow = s.shadow := by
  cases by_
  · exact State.logAcc_shadow s _ _ _
  · rfl
@[simp] theorem State.refuse_clk (by_ : Source) (a : Nat) (x : AccCode) (c : Code) : (s.refuse by_ a x c).clk = s.clk := by
  cases by_
  · exact State.logAcc_clk s _ _ _
  · rfl
@[simp] theorem State.refuse_free (by_ : Source) (a : Nat) (x : AccCode) (c : Code) : (s.refuse by_ a x c).free = s.free := by
  cases by_
  · exact State.logAcc_free s _ _ _
  · rfl
@[simp] theorem State.refuse_lanes (by_ : Source) (a : Nat) (x : AccCode) (c : Code) : (s.refuse by_ a x c).lanes = s.lanes := by
  cases by_
  · exact State.logAcc_lanes s _ _ _
  · rfl
@[simp] theorem State.refuse_sampRef (by_ : Source) (a : Nat) (x : AccCode) (c : Code) : (s.refuse by_ a x c).sampRef = s.sampRef := by
  cases by_
  · exact State.logAcc_sampRef s _ _ _
  · rfl
@[simp] theorem State.refuse_lvl (by_ : Source) (a : Nat) (x : AccCode) (c : Code) : (s.refuse by_ a x c).lvl = s.lvl := by
  cases by_
  · exact State.logAcc_lvl s _ _ _
  · rfl
@[simp] theorem State.refuse_crs (by_ : Source) (a : Nat) (x : AccCode) (c : Code) : (s.refuse by_ a x c).crs = s.crs := by
  cases by_
  · exact State.logAcc_crs s _ _ _
  · rfl
@[simp] theorem State.refuse_cli (by_ : Source) (a : Nat) (x : AccCode) (c : Code) : (s.refuse by_ a x c).cli = s.cli := by
  cases by_
  · exact State.logAcc_cli s _ _ _
  · rfl
@[simp] theorem State.refuse_tb (by_ : Source) (a : Nat) (x : AccCode) (c : Code) : (s.refuse by_ a x c).tb = s.tb := by
  cases by_
  · exact State.logAcc_tb s _ _ _
  · rfl
@[simp] theorem State.refuse_cold (by_ : Source) (a : Nat) (x : AccCode) (c : Code) : (s.refuse by_ a x c).cold = s.cold := by
  cases by_
  · exact State.logAcc_cold s _ _ _
  · rfl
@[simp] theorem State.refuse_bootHold (by_ : Source) (a : Nat) (x : AccCode) (c : Code) : (s.refuse by_ a x c).bootHold = s.bootHold := by
  cases by_
  · exact State.logAcc_bootHold s _ _ _
  · rfl
@[simp] theorem State.refuse_hkm (by_ : Source) (a : Nat) (x : AccCode) (c : Code) : (s.refuse by_ a x c).hkm = s.hkm := by
  cases by_
  · exact State.logAcc_hkm s _ _ _
  · rfl
@[simp] theorem State.refuse_cal (by_ : Source) (a : Nat) (x : AccCode) (c : Code) : (s.refuse by_ a x c).cal = s.cal := by
  cases by_
  · exact State.logAcc_cal s _ _ _
  · rfl
@[simp] theorem State.refuse_mem (by_ : Source) (a : Nat) (x : AccCode) (c : Code) : (s.refuse by_ a x c).mem = s.mem := by
  cases by_
  · exact State.logAcc_mem s _ _ _
  · rfl
@[simp] theorem State.refuse_cst (by_ : Source) (a : Nat) (x : AccCode) (c : Code) : (s.refuse by_ a x c).cst = s.cst := by
  cases by_
  · exact State.logAcc_cst s _ _ _
  · rfl
@[simp] theorem State.refuse_plu (by_ : Source) (a : Nat) (x : AccCode) (c : Code) : (s.refuse by_ a x c).plu = s.plu := by
  cases by_
  · exact State.logAcc_plu s _ _ _
  · rfl
@[simp] theorem State.refuse_time (by_ : Source) (a : Nat) (x : AccCode) (c : Code) : (s.refuse by_ a x c).time = s.time := by
  cases by_
  · exact State.logAcc_time s _ _ _
  · rfl
@[simp] theorem State.refuse_objs (by_ : Source) (a : Nat) (x : AccCode) (c : Code) : (s.refuse by_ a x c).objs = s.objs := by
  cases by_
  · exact State.logAcc_objs s _ _ _
  · rfl
@[simp] theorem State.refuse_ciph (by_ : Source) (a : Nat) (x : AccCode) (c : Code) : (s.refuse by_ a x c).ciph = s.ciph := by
  cases by_
  · exact State.logAcc_ciph s _ _ _
  · rfl
@[simp] theorem State.refuse_cop (by_ : Source) (a : Nat) (x : AccCode) (c : Code) : (s.refuse by_ a x c).cop = s.cop := by
  cases by_
  · exact State.logAcc_cop s _ _ _
  · rfl
@[simp] theorem State.refuse_sec (by_ : Source) (a : Nat) (x : AccCode) (c : Code) : (s.refuse by_ a x c).sec = s.sec := by
  cases by_
  · exact State.logAcc_sec s _ _ _
  · rfl

/-! ### A lane -/

@[simp] theorem State.lane_modLane_same (n : Lane) (f : LaneState → LaneState) : (s.modLane n f).lane n = f (s.lane n) := by
  simp [State.lane]

@[simp] theorem State.lane_modLane_other (n m : Lane) (f : LaneState → LaneState) (h : n ≠ m) :
    (s.modLane n f).lane m = s.lane m := by
  have : (n : Nat) ≠ m := fun e => h (Fin.ext e)
  simp [State.lane, this]

end Sys2Proof.Machine
end

