-- ==== Sys2Proof/Laws/Regs.lean ====
section
/-!
SUPPORT. What setting a register or a field does to every register and field, and that nothing else touches them.
-/

-- one theorem after another: all at once would not fit the memory
set_option Elab.async false

namespace Sys2Proof.Machine

variable (s : State)

theorem State.reg_eq (a : Nat) : s.reg a = storeGet s.regs a := rfl

/-- Registers are read from the store alone. -/
theorem State.reg_congr {s t : State} (h : t.regs = s.regs) (a : Nat) : t.reg a = s.reg a := by unfold State.reg; rw [h]

theorem State.get_congr {s t : State} (h : t.regs = s.regs) (f : Fld) : t.get f = s.get f := by
  unfold State.get; rw [State.reg_congr h]

theorem State.is_congr {s t : State} (h : t.regs = s.regs) (f : Fld) : t.is f = s.is f := by
  unfold State.is; rw [State.get_congr h]

theorem State.nat_congr {s t : State} (h : t.regs = s.regs) (a : Nat) : t.nat a = s.nat a := by
  unfold State.nat; rw [State.reg_congr h]

/-! ### Setting a word -/

@[simp] theorem State.reg_setReg_same (a : Nat) (v : Word) : (s.setReg a v).reg a = v := storeGet_put_same _ _ _

theorem State.reg_setReg_other (a b : Nat) (v : Word) (h : a ≠ b) : (s.setReg a v).reg b = s.reg b :=
  storeGet_put_other _ _ _ _ h

@[simp] theorem State.reg_setNat_same (a v : Nat) : (s.setNat a v).reg a = BitVec.ofNat 32 v := s.reg_setReg_same _ _

theorem State.reg_setNat_other (a b v : Nat) (h : a ≠ b) : (s.setNat a v).reg b = s.reg b := s.reg_setReg_other _ _ _ h

@[simp] theorem State.nat_setNat_same (a v : Nat) : (s.setNat a v).nat a = v % 2 ^ 32 := by
  rw [State.nat, State.reg_setNat_same, BitVec.toNat_ofNat]

theorem State.nat_setNat_other (a b v : Nat) (h : a ≠ b) : (s.setNat a v).nat b = s.nat b := by
  rw [State.nat, State.reg_setNat_other _ _ _ _ h, State.nat]

theorem State.get_setNat_other (a v : Nat) (f : Fld) (h : a ≠ f.addr) : (s.setNat a v).get f = s.get f := by
  rw [State.get, State.reg_setNat_other _ _ _ _ h, State.get]

/-! ### Setting a field -/

theorem State.reg_set_other (f : Fld) (v b : Nat) (h : f.addr ≠ b) : (s.set f v).reg b = s.reg b :=
  s.reg_setReg_other _ _ _ h

theorem State.nat_set_other (f : Fld) (v b : Nat) (h : f.addr ≠ b) : (s.set f v).nat b = s.nat b := by
  rw [State.nat, State.reg_set_other _ _ _ _ h, State.nat]

theorem State.nat_setB_other (f : Fld) (x : Bool) (b : Nat) (h : f.addr ≠ b) : (s.setB f x).nat b = s.nat b :=
  State.nat_set_other s f _ b h

/-- A field that fits its word holds the low bits of what it was set to. -/
theorem State.get_set_same (f : Fld) (v : Nat) (h : f.lo + f.len ≤ 32) : (s.set f v).get f = v % 2 ^ f.len := by
  unfold State.get State.set
  rw [State.reg_setReg_same, fld_setFld_same _ _ _ _ h]

/-- A field of another word, or beside the one set, stays. -/
theorem State.get_set_other (f g : Fld) (v : Nat) (h : f.lo + f.len ≤ 32)
    (d : f.addr ≠ g.addr ∨ g.lo + g.len ≤ f.lo ∨ f.lo + f.len ≤ g.lo) : (s.set f v).get g = s.get g := by
  unfold State.get State.set
  by_cases e : f.addr = g.addr
  · rw [e, State.reg_setReg_same]
    rw [fld_setFld_other _ _ _ _ _ _ h (d.resolve_left (fun k => k e))]
  · rw [State.reg_setReg_other _ _ _ _ e]

theorem State.is_setB_other (f g : Fld) (x : Bool) (h : f.lo + f.len ≤ 32)
    (d : f.addr ≠ g.addr ∨ g.lo + g.len ≤ f.lo ∨ f.lo + f.len ≤ g.lo) : (s.setB f x).is g = s.is g := by
  unfold State.is State.setB
  rw [State.get_set_other _ _ _ _ h d]

theorem State.is_setNat_other (a v : Nat) (f : Fld) (h : a ≠ f.addr) : (s.setNat a v).is f = s.is f := by
  unfold State.is
  rw [State.get_setNat_other _ _ _ _ h]

theorem State.is_setB_same (f : Fld) (b : Bool) (h : f.lo + f.len ≤ 32) (l : 0 < f.len) : (s.setB f b).is f = b := by
  unfold State.is State.setB
  rw [State.get_set_same _ _ _ h, Nat.mod_eq_of_lt]
  · cases b <;> rfl
  · exact Nat.lt_of_lt_of_le (by cases b <;> simp [b2n]) (Nat.pow_le_pow_right (by omega) l)

/-! ### What leaves every register as it is -/

@[simp] theorem State.regs_msix (i : Nat) : (s.msix i).regs = s.regs := by
  unfold State.msix
  split
  · split <;> rfl
  · rfl

@[simp] theorem State.regs_irq (b : State) (i : Nat) : (s.irq b i).regs = s.regs := by
  unfold State.irq
  split <;> simp

/-- Raising an alarm sets its bit and no other bit of any register. -/
@[simp] theorem State.regs_raise (f : Fld) : (s.raise f).regs = (s.set f 1).regs := by unfold State.raise; simp

@[simp] theorem State.regs_emit (e : Emit) : (s.emit e).regs = s.regs := rfl

@[simp] theorem State.regs_answer (b : Source) (c : Code) : (s.answer b c).regs = s.regs := by cases b <;> rfl

@[simp] theorem State.regs_elapse (n : Nat) : (s.elapse n).regs = s.regs := by
  unfold State.elapse
  extract_lets t
  rw [apply_ite State.regs]
  exact ite_self _

@[simp] theorem State.regs_waitClk (c : Nat) : (s.waitClk c).regs = s.regs := by
  rw [State.waitClk, apply_ite State.regs, State.regs_elapse]
  exact ite_self _

@[simp] theorem State.regs_waitBefore (x ns d : Nat) : (s.waitBefore x ns d).regs = s.regs := by
  unfold State.waitBefore
  extract_lets t early
  rw [apply_ite State.regs, State.regs_elapse]
  exact ite_self _

@[simp] theorem State.regs_waitTb (x ns : Nat) : (s.waitTb x ns).regs = s.regs := by
  unfold State.waitTb
  extract_lets t
  rw [apply_ite State.regs, State.regs_elapse]
  exact ite_self _

theorem State.get_raise_same (f : Fld) (h : f.lo + f.len ≤ 32) (l : 0 < f.len) : (s.raise f).get f = 1 := by
  rw [State.get_congr (s.regs_raise f), State.get_set_same _ _ _ h, Nat.mod_eq_of_lt]
  exact Nat.lt_of_lt_of_le (by decide) (Nat.pow_le_pow_right (by omega : 0 < 2) l)

theorem State.get_raise_other (f g : Fld) (h : f.lo + f.len ≤ 32)
    (d : f.addr ≠ g.addr ∨ g.lo + g.len ≤ f.lo ∨ f.lo + f.len ≤ g.lo) : (s.raise f).get g = s.get g := by
  rw [State.get_congr (s.regs_raise f), State.get_set_other _ _ _ _ h d]

end Sys2Proof.Machine
end

