-- ==== Sys2Proof/Laws/Frames.lean ====
section
/-!
SUPPORT. The rules by which a part of the state is shown to stay as it is, and what the access gate does.
-/

-- one theorem after another: all at once would not fit the memory
set_option Elab.async false

namespace Sys2Proof.Machine

variable {β : Type}

/-- A fold leaves as it is what each of its steps leaves as it is. -/
theorem foldl_same {α : Type} (P : State → β) (f : State → α → State) (h : ∀ s x, P (f s x) = P s) (l : List α) (s : State) :
    P (l.foldl f s) = P s := by
  induction l generalizing s with
  | nil => rfl
  | cons x l ih => exact (ih _).trans (h _ _)

theorem eachLane_same (P : State → β) (f : Lane → State → State) (h : ∀ n s, P (f n s) = P s) (s : State) :
    P (s.eachLane f) = P s := foldl_same P _ (fun t n => h n t) _ s

/-- A write that the gate takes has its effect. -/
theorem byWrite_taken (s : State) (by_ : Source) (a : Nat) (act : State → State) (h : s.takes by_ a = true) :
    s.byWrite by_ a act = act s := by
  unfold State.takes at h
  simp only [Bool.and_eq_true, Bool.not_eq_true'] at h
  unfold State.byWrite
  rw [if_neg (by simp [h.1])]
  cases by_ with
  | pcie =>
    have h2 := h.2
    simp only [Option.isNone_iff_eq_none] at h2
    simp [h2]
  | cop k => simpa using fun e => absurd h.2 (by simp [e])

/-- In cold reset the gate takes nothing. -/
theorem byWrite_cold (s : State) (by_ : Source) (a : Nat) (act : State → State) (h : s.cold = true) :
    s.byWrite by_ a act = s := by unfold State.byWrite; rw [if_pos h]

theorem hostWrite_taken (s : State) (a : Nat) (act : State → State) (h : s.takes .pcie a = true) :
    s.hostWrite a act = act s := byWrite_taken s .pcie a act h

/-- Time passing moves the clocks alone. -/
theorem elapse_clk (s : State) (n : Nat) : (s.elapse n).clk = s.clk + n := by
  unfold State.elapse
  extract_lets t
  rw [apply_ite State.clk]
  exact ite_self _

theorem elapse_same (P : State → β) (h : ∀ s c t x, P { s with clk := c, cst := x, tb := t } = P s) (s : State) (n : Nat) :
    P (s.elapse n) = P s := by
  unfold State.elapse
  extract_lets c t
  rw [apply_ite P]
  have h1 : P t = P s := h s _ s.tb _
  have h2 : P { t with tb := t.tb.map fun x => x.after n } = P s := h s _ _ _
  split
  · exact h1
  · exact h2

theorem waitClk_same (P : State → β) (h : ∀ s c t x, P { s with clk := c, cst := x, tb := t } = P s) (s : State) (c : Nat) :
    P (s.waitClk c) = P s := by
  rw [State.waitClk, apply_ite P, elapse_same P h]
  exact ite_self _

theorem waitTb_same (P : State → β) (h : ∀ s c t x, P { s with clk := c, cst := x, tb := t } = P s) (s : State) (x ns : Nat) :
    P (s.waitTb x ns) = P s := by
  unfold State.waitTb
  extract_lets t
  rw [apply_ite P, elapse_same P h]
  exact ite_self _

theorem waitBefore_same (P : State → β) (h : ∀ s c t x, P { s with clk := c, cst := x, tb := t } = P s) (s : State)
    (x ns d : Nat) : P (s.waitBefore x ns d) = P s := by
  unfold State.waitBefore
  extract_lets t early
  rw [apply_ite P, elapse_same P h]
  exact ite_self _

theorem waitClk_clk (s : State) (c : Nat) : (s.waitClk c).clk = max s.clk c := by
  rw [State.waitClk, apply_ite State.clk, elapse_clk]
  split <;> omega

theorem waitTb_clk_le (s : State) (x ns : Nat) : s.clk ≤ (s.waitTb x ns).clk := by
  unfold State.waitTb
  extract_lets t
  rw [apply_ite State.clk, elapse_clk]
  split <;> omega

@[simp] theorem elapse_lvl (s : State) (n : Nat) : (s.elapse n).lvl = s.lvl := elapse_same State.lvl (fun _ _ _ _ => rfl) s n
@[simp] theorem waitClk_lvl (s : State) (c : Nat) : (s.waitClk c).lvl = s.lvl := waitClk_same State.lvl (fun _ _ _ _ => rfl) s c
@[simp] theorem waitTb_lvl (s : State) (x n : Nat) : (s.waitTb x n).lvl = s.lvl := waitTb_same State.lvl (fun _ _ _ _ => rfl) s x n
@[simp] theorem waitBefore_lvl (s : State) (x n d : Nat) : (s.waitBefore x n d).lvl = s.lvl :=
  waitBefore_same State.lvl (fun _ _ _ _ => rfl) s x n d
@[simp] theorem waitBefore_crs (s : State) (x n d : Nat) : (s.waitBefore x n d).crs = s.crs :=
  waitBefore_same State.crs (fun _ _ _ _ => rfl) s x n d
@[simp] theorem waitBefore_lanes (s : State) (x n d : Nat) : (s.waitBefore x n d).lanes = s.lanes :=
  waitBefore_same State.lanes (fun _ _ _ _ => rfl) s x n d
@[simp] theorem elapse_crs (s : State) (n : Nat) : (s.elapse n).crs = s.crs := elapse_same State.crs (fun _ _ _ _ => rfl) s n
@[simp] theorem waitClk_crs (s : State) (c : Nat) : (s.waitClk c).crs = s.crs := waitClk_same State.crs (fun _ _ _ _ => rfl) s c
@[simp] theorem waitTb_crs (s : State) (x n : Nat) : (s.waitTb x n).crs = s.crs := waitTb_same State.crs (fun _ _ _ _ => rfl) s x n
@[simp] theorem elapse_lanes (s : State) (n : Nat) : (s.elapse n).lanes = s.lanes := elapse_same State.lanes (fun _ _ _ _ => rfl) s n
@[simp] theorem waitClk_lanes (s : State) (c : Nat) : (s.waitClk c).lanes = s.lanes :=
  waitClk_same State.lanes (fun _ _ _ _ => rfl) s c
@[simp] theorem waitTb_lanes (s : State) (x n : Nat) : (s.waitTb x n).lanes = s.lanes :=
  waitTb_same State.lanes (fun _ _ _ _ => rfl) s x n

/-- The receive format depends on the registers and the lane alone. -/
theorem rxFmt_congr {s t : State} (h : t.regs = s.regs) (k : t.lanes = s.lanes) (n : Lane) : t.rxFmt n = s.rxFmt n := by
  have l : t.lane n = s.lane n := by unfold State.lane; rw [k]
  unfold State.rxFmt State.rxWords
  simp only [State.nat_congr h, l]

/-! ### Every register but those named -/

theorem State.RegsBut.refl (s : State) (as : List Nat) : s.RegsBut s as := fun _ _ => rfl

theorem State.RegsBut.same {s t u : State} {as : List Nat} (h : s.RegsBut t as) (e : u.regs = t.regs) : s.RegsBut u as :=
  fun a m => (State.reg_congr e a).trans (h a m)

theorem State.RegsBut.setReg {s t : State} {as : List Nat} (h : s.RegsBut t as) (a : Nat) (v : Word) (m : a ∈ as) :
    s.RegsBut (t.setReg a v) as :=
  fun b n => (t.reg_setReg_other a b v fun e => n (e ▸ m)).trans (h b n)

theorem State.RegsBut.setNat {s t : State} {as : List Nat} (h : s.RegsBut t as) (a v : Nat) (m : a ∈ as) :
    s.RegsBut (t.setNat a v) as := h.setReg a _ m

theorem State.RegsBut.setInt {s t : State} {as : List Nat} (h : s.RegsBut t as) (a : Nat) (v : Int) (m : a ∈ as) :
    s.RegsBut (t.setInt a v) as := h.setReg a _ m

theorem State.RegsBut.set {s t : State} {as : List Nat} (h : s.RegsBut t as) (f : Fld) (v : Nat) (m : f.addr ∈ as) :
    s.RegsBut (t.set f v) as := h.setReg _ _ m

theorem State.RegsBut.setB {s t : State} {as : List Nat} (h : s.RegsBut t as) (f : Fld) (b : Bool) (m : f.addr ∈ as) :
    s.RegsBut (t.setB f b) as := h.setReg _ _ m

theorem State.RegsBut.raise {s t : State} {as : List Nat} (h : s.RegsBut t as) (f : Fld) (m : f.addr ∈ as) :
    s.RegsBut (t.raise f) as := (h.set f 1 m).same (t.regs_raise f)

theorem State.RegsBut.raiseIf {s t : State} {as : List Nat} (h : s.RegsBut t as) (c : Bool) (f : Fld) (m : f.addr ∈ as) :
    s.RegsBut (t.raiseIf c f) as := by
  unfold State.raiseIf
  split
  · exact h.raise f m
  · exact h

theorem State.RegsBut.ite {s t u : State} {as : List Nat} (c : Prop) [Decidable c] (h : s.RegsBut t as) (k : s.RegsBut u as) :
    s.RegsBut (if c then t else u) as := by split <;> assumption

theorem State.RegsBut.trans {s t u : State} {as : List Nat} (h : s.RegsBut t as) (k : t.RegsBut u as) : s.RegsBut u as :=
  fun a m => (k a m).trans (h a m)

theorem State.RegsBut.mono {s t : State} {as bs : List Nat} (h : s.RegsBut t as) (k : ∀ a, a ∈ as → a ∈ bs) : s.RegsBut t bs :=
  fun a m => h a fun n => m (k a n)

theorem State.RegsBut.foldl {α : Type} {as : List Nat} (f : State → α → State) (l : List α)
    (h : ∀ (t : State) (x : α), x ∈ l → t.RegsBut (f t x) as) {r s : State} (k : r.RegsBut s as) : r.RegsBut (l.foldl f s) as := by
  induction l generalizing s with
  | nil => exact k
  | cons x l ih => exact ih (fun t y m => h t y (List.mem_cons_of_mem _ m)) (k.trans (h s x List.mem_cons_self))

/-- A field of a register not named holds what it held. -/
theorem State.RegsBut.get {s t : State} {as : List Nat} (h : s.RegsBut t as) (f : Fld) (m : f.addr ∉ as) : t.get f = s.get f := by
  unfold State.get; rw [h _ m]

theorem State.RegsBut.is {s t : State} {as : List Nat} (h : s.RegsBut t as) (f : Fld) (m : f.addr ∉ as) : t.is f = s.is f := by
  unfold State.is; rw [h.get f m]

theorem State.RegsBut.nat {s t : State} {as : List Nat} (h : s.RegsBut t as) (a : Nat) (m : a ∉ as) : t.nat a = s.nat a := by
  unfold State.nat; rw [h a m]

end Sys2Proof.Machine
end

