-- ==== Sys2Proof/Laws/Level.lean ====
section
/-!
SUPPORT. What a Level strobe does to the Level sequencer (R16 to R27).
-/

-- one theorem after another: all at once would not fit the memory
set_option Elab.async false

namespace Sys2Proof.Machine

theorem touch_same {β : Type} (P : State → β) (h1 : ∀ s n f, P (State.modPmon s n f) = P s) (h2 : ∀ s f v, P (State.setB s f v) = P s)
    (s : State) (n : Lane) : P (s.touch n) = P s := by
  unfold State.touch
  rw [h2, h1]
  split
  · rfl
  · exact h1 _ _ _

@[simp] theorem touch_lvl (s : State) (n : Lane) : (s.touch n).lvl = s.lvl :=
  touch_same State.lvl (fun _ _ _ => by simp) (fun _ _ _ => by simp) s n

@[simp] theorem touch_clk (s : State) (n : Lane) : (s.touch n).clk = s.clk :=
  touch_same State.clk (fun _ _ _ => by simp) (fun _ _ _ => by simp) s n

@[simp] theorem rotateBins_lvl (s : State) (q d : Bool) (a b : Nat) : (s.rotateBins q d a b).lvl = s.lvl :=
  eachLane_same State.lvl _ (fun n s => by simp) s

@[simp] theorem rotateBins_clk (s : State) (q d : Bool) (a b : Nat) : (s.rotateBins q d a b).clk = s.clk :=
  eachLane_same State.clk _ (fun n s => by simp) s

@[simp] theorem suspectBins_lvl (s : State) : s.suspectBins.lvl = s.lvl :=
  eachLane_same State.lvl _ (fun n s => by simp) s

@[simp] theorem suspectBins_clk (s : State) : s.suspectBins.clk = s.clk :=
  eachLane_same State.clk _ (fun n s => by simp) s

@[simp] theorem pluRefresh_lvl (s : State) : s.pluRefresh.lvl = s.lvl := Frame.lvl (State.pluRefresh_fr (F := 16777233) s (Frame.refl s))
@[simp] theorem pluRefresh_clk (s : State) : s.pluRefresh.clk = s.clk := Frame.clk (State.pluRefresh_fr (F := 16777233) s (Frame.refl s))

/-- What a change of a time base's servo and a change of a register keep, the samples of the servos keep. -/
theorem syncTbs_same {β : Type} (P : State → β) (h1 : ∀ s x f, P (State.modTb s x f) = P s) (h2 : ∀ s a v, P (State.setReg s a v) = P s)
    (h3 : ∀ s f, P (State.raise s f) = P s) (s : State) : P s.syncTbs = P s := by
  have hs : ∀ (s : State) f v, P (s.set f v) = P s := fun s f v => h2 _ _ _
  have hr : ∀ (s : State) b f, P (s.raiseIf b f) = P s := fun s b f => by unfold State.raiseIf; split <;> [exact h3 _ _; rfl]
  have ht : ∀ (s : State) x v, P (s.setTbState x v) = P s := fun s x v => by
    unfold State.setTbState
    dsimp only
    rw [hr, hr]
    exact (h1 _ _ _).trans (hs _ _ _)
  have ha : ∀ (s : State) x, P (s.sampled x) = P s := fun s x => by
    unfold State.sampled
    dsimp only
    split
    · exact (ht _ _ _).trans (h1 _ _ _)
    · exact h1 _ _ _
  have hx : ∀ (s : State) x, P (s.syncTb x) = P s := fun s x => by
    unfold State.syncTb
    dsimp only
    split
    · exact (ha _ _).trans ((h1 _ _ _).trans (h1 _ _ _))
    · exact h1 _ _ _
  unfold State.syncTbs
  rw [hx, hx, hx]

@[simp] theorem syncTbs_lvl (s : State) : s.syncTbs.lvl = s.lvl := syncTbs_same State.lvl (fun _ _ _ => rfl) (fun _ _ _ => rfl) (fun _ _ => by simp) s
@[simp] theorem syncTbs_clk (s : State) : s.syncTbs.clk = s.clk := syncTbs_same State.clk (fun _ _ _ => rfl) (fun _ _ _ => rfl) (fun _ _ => by simp) s

theorem flushHeld_lvl (s : State) (p : Island → Bool) :
    (s.flushHeld p).lvl = { s.lvl with heldCounts := s.lvl.heldCounts.filter fun x => !p x.1 } := by
  unfold State.flushHeld
  extract_lets mine t
  have e : t.lvl = s.lvl := foldl_same State.lvl _ (fun s x => State.addNow_lvl s _ _) _ _
  show ({ t.lvl with heldCounts := t.lvl.heldCounts.filter fun x => !p x.1 } : LevelSeq) = _
  rw [e]

@[simp] theorem flushHeld_clk (s : State) (p : Island → Bool) : (s.flushHeld p).clk = s.clk := by
  unfold State.flushHeld
  extract_lets mine t
  exact foldl_same State.clk _ (fun s x => State.addNow_clk s _ _) _ _

@[simp] theorem levelRestart_lvl (s : State) (n : Lane) : (s.levelRestart n).lvl = s.lvl := by
  unfold State.levelRestart
  generalize (s.is (fCONV_CAP_STATUS_ARMED n) && s.get (fCONV_CAP_CTRL_TRIG n) = 2) = b
  cases b with
  | true => simp only [if_true, State.modConv_lvl, State.modRxd_lvl, State.setNat_lvl, State.modPmon_lvl]
  | false => simp only [Bool.false_eq_true, if_false, State.modRxd_lvl, State.setNat_lvl, State.modPmon_lvl]

@[simp] theorem levelRestarts_lvl (s : State) : s.levelRestarts.lvl = s.lvl := by
  unfold State.levelRestarts
  exact eachLane_same State.lvl _ (fun n s => levelRestart_lvl s n) s

@[simp] theorem cstStrobe_lvl (s : State) : s.cstStrobe.lvl = s.lvl := by
  unfold State.cstStrobe
  split <;> rfl

@[simp] theorem startCopy_number (l : LevelSeq) : l.startCopy.number = l.number := by unfold LevelSeq.startCopy; split <;> rfl
@[simp] theorem startCopy_hostLevel (l : LevelSeq) : l.startCopy.hostLevel = l.hostLevel := by
  unfold LevelSeq.startCopy; split <;> rfl
@[simp] theorem startCopy_frozen (l : LevelSeq) : l.startCopy.frozen = l.frozen := by unfold LevelSeq.startCopy; split <;> rfl
@[simp] theorem startCopy_strobe (l : LevelSeq) : l.startCopy.strobe = l.strobe := by unfold LevelSeq.startCopy; split <;> rfl
@[simp] theorem startCopy_slots (l : LevelSeq) : l.startCopy.slots = l.slots := by unfold LevelSeq.startCopy; split <;> rfl
@[simp] theorem startCopy_lastPer (l : LevelSeq) : l.startCopy.lastPer = l.lastPer := by unfold LevelSeq.startCopy; split <;> rfl
@[simp] theorem startCopy_last15 (l : LevelSeq) : l.startCopy.last15 = l.last15 := by unfold LevelSeq.startCopy; split <;> rfl
@[simp] theorem startCopy_last24 (l : LevelSeq) : l.startCopy.last24 = l.last24 := by unfold LevelSeq.startCopy; split <;> rfl

theorem upToDate_lvl (s : State) : s.upToDate.lvl = { s.lvl with heldCounts := [] } := by
  unfold State.upToDate
  rw [syncTbs_lvl, pluRefresh_lvl, flushHeld_lvl]
  simp only [Bool.not_true, List.filter_false]

theorem upToDate_clk (s : State) : s.upToDate.clk = s.clk := by
  unfold State.upToDate
  rw [syncTbs_clk, pluRefresh_clk, flushHeld_clk]

/-- What a strobe does before it latches keeps a view of the state that marking bins SUSPECT and rotating them keep. -/
theorem strobeBins_same {β : Type} (P : State → β) (h1 : ∀ s : State, P s.suspectBins = P s)
    (h2 : ∀ (s : State) q d a b, P (s.rotateBins q d a b) = P s) (h3 : ∀ (s : State) l, P { s with lvl := l } = P s)
    (s : State) (q d : Bool) (a b : Nat) : P (s.strobeBins q d a b) = P s := by
  have e : ∀ t : State, P (if t.tb0Locked then t else t.suspectBins) = P t := fun t => by split <;> simp [h1]
  have e1 : ∀ t : State, P (if (q || d) = true then t.rotateBins q d a b else t) = P t := fun t => by split <;> simp [h2]
  unfold State.strobeBins
  extract_lets t u v
  exact (h3 v _).trans ((e u).trans ((e1 t).trans (e s)))

theorem strobeBins_lvl (s : State) (q d : Bool) (a b : Nat) : (s.strobeBins q d a b).lvl = { s.lvl with
    last15 := if q then (a : Int) else s.lvl.last15, last24 := if d then (b : Int) else s.lvl.last24 } := by
  have e : ∀ t : State, (if t.tb0Locked then t else t.suspectBins).lvl = t.lvl := fun t => by split <;> simp
  have e1 : ∀ t : State, (if (q || d) = true then t.rotateBins q d a b else t).lvl = t.lvl := fun t => by split <;> simp
  unfold State.strobeBins
  extract_lets t u v
  have k : v.lvl = s.lvl := (e u).trans ((e1 t).trans (e s))
  show ({ v.lvl with last15 := if q then (a : Int) else v.lvl.last15, last24 := if d then (b : Int) else v.lvl.last24 } :
    LevelSeq) = _
  rw [k]

theorem strobeBins_clk (s : State) (q d : Bool) (a b : Nat) : (s.strobeBins q d a b).clk = s.clk :=
  strobeBins_same State.clk suspectBins_clk rotateBins_clk (fun _ _ => rfl) s q d a b

/-- A Level of a PLU cycle of its own: the next number, and every island's counters frozen; what is scheduled stays. -/
theorem fresh_spec (l : LevelSeq) (clk causes flags inst : Nat) (regs : Store) (aux : LevelAux) :
    (l.fresh clk causes flags inst regs aux).number = (l.number + 1) % 2 ^ 32 ∧
    (l.fresh clk causes flags inst regs aux).strobe = some clk ∧
    (l.fresh clk causes flags inst regs aux).frozen = allIslands ∧
    (l.fresh clk causes flags inst regs aux).lastPer = l.lastPer ∧
    (l.fresh clk causes flags inst regs aux).slots = l.slots ∧
    (l.fresh clk causes flags inst regs aux).last15 = l.last15 ∧
    (l.fresh clk causes flags inst regs aux).last24 = l.last24 ∧
    (l.fresh clk causes flags inst regs aux).hostLevel =
      (if bitOf causes 4 then some ((l.number + 1) % 2 ^ 32) else l.hostLevel) := by
  unfold LevelSeq.fresh
  extract_lets number x m
  by_cases h : l.stage.isEmpty = true
  · rw [if_pos h]; simp [m, number]
  · rw [if_neg h]; simp [m, number]

/-- A strobe on a PLU cycle of its own makes a Level of the next number, freezes every island's counters, and records the
starts of the bins it opens (R18, R20, R23, R28); what is scheduled stays. -/
theorem strobe_fresh (s : State) (causes inst start15 start24 : Nat) (h : s.lvl.strobe ≠ some s.clk) :
    (s.strobe causes inst start15 start24).lvl.number = (s.lvl.number + 1) % 2 ^ 32 ∧
    (s.strobe causes inst start15 start24).lvl.strobe = some s.clk ∧
    (s.strobe causes inst start15 start24).lvl.frozen = allIslands ∧
    (s.strobe causes inst start15 start24).lvl.lastPer = s.lvl.lastPer ∧
    (s.strobe causes inst start15 start24).lvl.slots = s.lvl.slots ∧
    (s.strobe causes inst start15 start24).lvl.last15 = (if bitOf causes 1 then (start15 : Int) else s.lvl.last15) ∧
    (s.strobe causes inst start15 start24).lvl.last24 = (if bitOf causes 2 then (start24 : Int) else s.lvl.last24) ∧
    (s.strobe causes inst start15 start24).lvl.hostLevel =
      (if bitOf causes 4 then some ((s.lvl.number + 1) % 2 ^ 32) else s.lvl.hostLevel) := by
  unfold State.strobe
  extract_lets flags rot t v
  have e1 : t.lvl = _ := (strobeBins_lvl s.upToDate _ _ _ _).trans (by rw [upToDate_lvl])
  have e2 : t.clk = s.clk := (strobeBins_clk s.upToDate _ _ _ _).trans (upToDate_clk s)
  clear_value v t flags
  rw [if_neg h]
  have k := fresh_spec t.lvl t.clk causes flags inst v.regs v.levelAux
  simp only [cstStrobe_lvl, levelRestarts_lvl]
  simpa only [e1, e2] using k

/-- After waiting, the PLU cycle is not that of the last strobe. -/
theorem wait_fresh (s : State) (h : ∀ c, s.lvl.strobe = some c → c < s.clk) (x ns : Nat) :
    (s.waitTb x ns).lvl.strobe ≠ some (s.waitTb x ns).clk := by
  rw [waitTb_lvl]
  intro e
  exact absurd (h _ e) (Nat.not_lt.mpr (waitTb_clk_le s x ns))

/-- Counting depends on the registers alone. -/
theorem foldl_addNow_regs (l : List (Island × Nat × Nat)) (s t : State) (h : s.regs = t.regs) :
    (l.foldl (fun s x => s.addNow x.2.1 x.2.2) s).regs = (l.foldl (fun s x => s.addNow x.2.1 x.2.2) t).regs := by
  induction l generalizing s t with
  | nil => exact h
  | cons x l ih =>
    refine ih _ _ ?_
    unfold State.addNow State.setWide State.wide State.setNat State.setReg State.nat State.reg
    dsimp only
    rw [h]

theorem flushHeld_regs (s : State) (c : Nat) (p : Island → Bool) :
    ((s.waitClk c).flushHeld p).regs = ((s.lvl.heldCounts.filter fun x => p x.1).foldl (fun s x => s.addNow x.2.1 x.2.2) s).regs := by
  unfold State.flushHeld
  rw [waitClk_lvl]
  exact foldl_addNow_regs _ _ _ (State.regs_waitClk s c)

@[simp] theorem streamsDue_lvl (s : State) (x : Level) : (s.streamsDue x).lvl = s.lvl :=
  Frame.lvl (State.streamsDue_fr (F := 335544320) s x (Frame.refl s))

@[simp] theorem streamsDue_regs (s : State) (x : Level) : (s.streamsDue x).regs = s.regs :=
  Frame.regs (State.streamsDue_fr (F := 335544320) s x (Frame.refl s))

/-- R437: what serving a read from a Level leaves: its number and LAST_VALID, MIX where the one before was another. -/
theorem levelRead_spec (s : State) (k : Nat) :
    (s.levelRead k).nat aGLB_LVL_LAST = k % 2 ^ 32 ∧ (s.levelRead k).is fGLB_LVL_STAT_LAST_VALID = true ∧
    (s.is fGLB_LVL_STAT_LAST_VALID = true → s.nat aGLB_LVL_LAST ≠ k → (s.levelRead k).is fGLB_LVL_STAT_MIX = true) ∧
    s.RegsBut (s.levelRead k) [aGLB_LVL_LAST, aGLB_LVL_STAT] ∧ (s.levelRead k).sent = s.sent := by
  unfold State.levelRead
  extract_lets t
  have b2 : s.RegsBut t [aGLB_LVL_LAST, aGLB_LVL_STAT] :=
    State.RegsBut.ite _ ((State.RegsBut.refl s _).setB _ _ (by decide)) (State.RegsBut.refl s _)
  have q2 : t.sent = s.sent := by
    unfold t
    split <;> rfl
  have m2 : s.is fGLB_LVL_STAT_LAST_VALID = true → s.nat aGLB_LVL_LAST ≠ k → t.is fGLB_LVL_STAT_MIX = true := by
    intro x y
    unfold t
    rw [if_pos (by simp [x, y])]
    exact State.is_setB_same _ _ _ (by decide) (by decide)
  clear_value t
  refine ⟨?_, State.is_setB_same _ _ _ (by decide) (by decide), fun x y => ?_, (b2.setNat _ _ (by decide)).setB _ _ (by decide), q2⟩
  · rw [State.nat_setB_other _ _ _ _ (by decide), State.nat_setNat_same]
  · rw [State.is_setB_other _ _ _ _ (by decide) (by decide), State.is_setNat_other _ _ _ _ (by decide)]
    exact m2 x y

end Sys2Proof.Machine
end

