-- ==== Sys2Proof/WellFormed.lean ====
section
/-!
DEFINITION. Well-formed commands: every operand lies in the range that its field or its description in spec/ has.  What
`exec` does is defined on every command; a sender sends well-formed ones.
-/

namespace Sys2Proof

/-- R396: a session has an id of 32 bits. -/
def Source.ok : Source → Bool
  | .pcie => true
  | .cop k => k < 2 ^ 32

/-- R255: 48 bits of seconds and 32 of nanoseconds. -/
def Time80.ok (t : Time80) : Bool := t.sec < 2 ^ 48 && t.ns < 2 ^ 32

/-- R29, R391: a register of the 64 MiB window, or an object with an index of 16 bits, a sub-index of 8 and at most 16,384
bytes. -/
def StageTarget.ok : StageTarget → Bool
  | .reg addr _ => addr < 2 ^ 26
  | .obj index sub value => index < 2 ^ 16 && sub < 2 ^ 8 && value.length ≤ 16384

/-- R228: the words of a descriptor, and data that fits the message buffer. -/
def JobDesc.ok (d : JobDesc) : Bool :=
  d.len < 2 ^ 32 && d.src < 2 ^ 32 && d.dst < 2 ^ 32 && d.data.length ≤ 262144

/-- R395: no path carries more than 1,452 bytes, and the Keystone tunnel no more than 976. -/
def CopRx.ok (m : CopRx) : Bool := m.bytes.length ≤ if m.path.val = 3 then 976 else 1452

/-- A value of a signed register of 32 bits, and of 64. -/
def narrow (x : Int) : Bool := -(2 ^ 31) ≤ x && x < 2 ^ 31
def wide (x : Int) : Bool := -(2 ^ 63) ≤ x && x < 2 ^ 63

/-- R285: spectra of 2^10 to 2^16 bins. -/
def spectraOk (ps : List (List Nat)) : Bool := ps.all fun p => 1024 ≤ p.length && p.length ≤ 65536

/-- R97: the figures fit their registers. -/
def Metrics.ok (m : Metrics) : Bool :=
  narrow m.cd && m.osnr < 2 ^ 32 && m.snr < 2 ^ 32 && m.dgd < 2 ^ 32 && m.sop < 2 ^ 32 && narrow m.eqDelay

/-- R46: a group of each of the four channels, 256 samples long. -/
def channels (codes : List (List (BitVec 8))) : Bool := codes.length == 4 && codes.all fun c => c.length == 256

/-- R155: the overhead of a line frame is 160 bytes. -/
def LfIn.ok (lf : LfIn) : Bool := lf.overhead.length == 160

/-- R197: a decoded frame is not empty. -/
def ClientRx.ok : ClientRx → Bool
  | .frame bytes _ => bytes.length != 0
  | .otuc words _ _ _ => words.length != 0
  | .rs _ _ => true

/-- A command is well formed. -/
def Instr.wf : Instr → Bool
  | .levelPeriodic | .levelQ15 | .levelD24 | .levelScheduled _ | .levelFreezeEnd _ | .levelCopyStart
  | .levelCopyComplete | .levelMixClear | .courseValidationEnd | .courseAbortWindowClose | .courseStrobe
  | .courseRxTimeout _ | .courseFarMismatch _ | .courseClientApply _ | .convAdcEnWrite _ _ | .convDacEnWrite _ _
  | .convDacMuteWrite _ _ | .convUnlock _ _ | .samplingRefLoss _ | .samplingRefReturn _ | .spareRetireWrite _ _ _
  | .spareTakeoverSwitch _ _ | .spareReleaseSwitch _ _ | .captureArm _ _ | .captureFire _ | .captureComplete _
  | .rxdEnWrite _ _ | .rxdAcqRestart _ | .rxdLoModeWrite _ _ | .rxdKsAssistWrite _ _ | .rxdFmtSrcWrite _ _
  | .ksWaitExpiry _ | .cdScanStep _ _ _ | .timingLock _ | .polConverged _ | .acqStateTimeout _
  | .warmReacqTimeout _ | .eqDiverge _ | .loUpdateTick _ | .loHostWrite _ _ | .nlcReady _ | .txdEnWrite _ _
  | .txdModeWrite _ _ | .txLfStart _ _ | .ksGroupMissed _ | .outerBlockEnter _ _ | .outerBlockExit _ _
  | .lfrExclusionExpiry _ _ | .sdWindowEnd _ | .downstreamAisChange _ | .pmonSecondEval | .binFinal _
  | .pmonClrCur _ | .pmonMetricSample _ | .closDeclare _ | .closClear _ | .cloaDeclare _ | .cloaClear _
  | .egressHeader _ | .flexeCalendarSwitch _ | .cliFaultAction _ | .esHealthFail | .drbgReseed _ | .rngFailTimeout
  | .zeroAllClearDone | .prevKeyRelease _ | .jobStart | .jobResume | .jobSegmentEnd _ | .pluEnWrite _
  | .pluForceHoldWrite _ | .pluClrHist | .refValidChange _ | .refActivityLoss _ | .refQualified _
  | .freqDisagreeClear _ | .pluAcqLimit | .acqHoldExpiry _ | .wtrExpiry _ | .holdoverLimit | .oscinFail
  | .oscinRestored | .pluPhaseStepWrite _ | .pluStepDone | .clkoutFreqWrite _ _ | .servoUpdate _
  | .servoSampleTimeout _ | .servoSrcWrite _ _ | .ptpMessageRx _ _ | .ptpMessageTx _ _ | .utcChange
  | .timeOscinWaitEnd | .timeFallbackStart _ | .launchArm _ _ | .ptpEnWrite _ | .ppsEnWrite _ | .ppsPulse
  | .kscEnWrite _ _ | .beaconDue _ | .rangeReqDue _ | .ksTxStart _ | .ksTxEnd _ | .ksMgmtTimeout _
  | .ksPreambleEnd _ _ _ | .ksFarTimeout _ | .rangeTimeout _ | .crsDiffTimeout _ | .cstTapEvent _ | .cstSecond
  | .cstLatencySample _ | .tb3SampleTimeout | .tb3SlewEnd | .cstBoundary | .cstRecordStore _ | .cstLevelLatch
  | .cstCheckpoint | .cstRstN | .vddCstLoss | .cstReady | .cstPatchGo | .cstPatchVerified _ _ | .hkmTimerExpiry _
  | .hkmPwmEdgeTrigger _ _ | .hkmPassStart _ | .hkmConversionResult _ _ | .thermalTrip | .hkmPwmModeWrite _ _
  | .pwmPeriodStart _ | .hkmIlvWrite _ | .hkmTrigWrite _ _ | .calCheckDone _ | .calSliceStepEnd _ _ _
  | .calMeasureDone _ _ _ | .calStoreDone _ | .calInterpTick _ | .memFillDone | .memArrayRead _ _ _ _ _ _
  | .memScrubStep _ _ _ _ _ | .sessionTimeout _ | .blockExpire _ | .timePollAnswer _ _ | .pollRoundStart
  | .pollSend | .pollTimeout _ | .announceDue | .streamSampleSend _ _ _ | .domainAbort _ _
  | .pcieUnsupportedRequest | .pcieFlr | .coldReset | .coldResetRelease _ | .bootStage1Verified
  | .bootEnginesLoaded | .setupRecordApplied | .calSetsLoaded | .secLockSet | .mgtReady | .supplyUndervoltage
  | .supplyRestored | .windowTimeout | .customerHashFuse | .attQuoteReady | .funcResetExit _
  | .lodgeCoreRestart _ _ | .warmResetStart | .imgCommitDone _ | .refActivityReturn _ | .oscinReturn
  | .remoteFaultChange _ _ | .flexeLockChange _ _ _ _ | .mgtLinkChange _ _ | .vddNvThreshold _ => true
  | .levelHost by_ => by_.ok
  | .levelScheduleWrite by_ _ t => by_.ok && t.ok
  | .levelHold by_ => by_.ok
  | .levelRelease by_ => by_.ok
  | .levelDataRead addr _ => addr < 2 ^ 26
  | .courseStage by_ target => by_.ok && target.ok
  | .courseCommit by_ mode number t => by_.ok && mode < 2 && number < 2 ^ 32 && t.ok
  | .courseDiscard by_ => by_.ok
  | .courseAbort by_ => by_.ok
  | .convSettled _ _ delay => delay < 2 ^ 32
  | .adcGroup _ outside codes => outside.length == 4 && (outside.all fun c => c.all fun p => p.1 < 256) && channels codes
  | .dacGroup _ at_ ks => at_ < 2 ^ 64 && narrow ks
  | .losWindowEnd _ power => power < 2 ^ 32
  | .spectralEstimate _ fo => narrow fo
  | .fineEstimate _ fo => narrow fo
  | .cdRefineDone _ cd => narrow cd
  | .cdReestimate _ cd => narrow cd
  | .trimUpdate _ want => narrow want
  | .rxdMetricsUpdate _ m => m.ok
  | .innerCodewordDone _ soft zr => soft.length == 30720 && zr.2 < 2 ^ 32
  | .lfDelivered _ lf => lf.ok
  | .lfrMarkerMatch _ _ hyp diff => hyp < 32 && diff ≤ 640
  | .lfrExpectedPosition _ _ hyp diff _ => hyp < 32 && diff ≤ 640
  | .clientFrameIngress _ rx => rx.ok
  | .keyLoadClear by_ _ _ => by_.ok
  | .keyZeroise by_ _ => by_.ok
  | .zeroAll by_ => by_.ok
  | .ctxIvLoad by_ _ _ => by_.ok
  | .jobEnc by_ _ d => by_.ok && d.ok
  | .jobDec by_ _ d => by_.ok && d.ok
  | .jobWrapKey by_ _ d => by_.ok && d.ok
  | .jobUnwrapKey by_ _ d => by_.ok && d.ok
  | .jobWrapCtx by_ _ d => by_.ok && d.ok
  | .jobUnwrapCtx by_ _ d => by_.ok && d.ok
  | .jobSaveClear by_ _ d => by_.ok && d.ok
  | .jobRestoreClear by_ _ d => by_.ok && d.ok
  | .refFreqWindow _ freq => narrow freq
  | .pluPullEnd err => narrow err
  | .pluLockAchieved err => narrow err
  | .pluLockLoss err => narrow err
  | .pluHistorySecond freq => narrow freq
  | .ppsEdge _ ps => ps < 1600
  | .hostOfsWrite by_ _ _ => by_.ok
  | .tbSet by_ _ t => by_.ok && t.ok
  | .tbStep by_ _ d => by_.ok && wide d
  | .launchSend _ err => narrow err
  | .ksMgmtQueue _ bytes => bytes.length ≤ 65575
  | .ksDetection _ chan bin snr => narrow chan && narrow snr && match bin with
    | .at_ b => b < 65536
    | .windows ps => ps.length == 6 && spectraOk ps
  | .ksSyncEnd _ _ _ _ fo _ => narrow fo
  | .ksHeaderDecoded _ header => match header with
    | .bytes bs => bs.length == 8
    | .spectra _ ps => spectraOk ps
  | .ksPayloadDecoded _ bytes => match bytes with
    | .bytes bs => bs.length ≤ 1028
    | .spectra _ ps => spectraOk ps
  | .cstTb0Sample osc => narrow osc
  | .cstResetRequest by_ => by_.ok
  | .cstSelWrite by_ _ => by_.ok
  | .hkmResultRead by_ _ => by_.ok
  | .calStart by_ _ => by_.ok
  | .calAbort by_ => by_.ok
  | .calQualityDone spur _ _ => narrow spur
  | .memPartialWrite by_ _ _ _ ofs bytes _ => by_.ok && ofs.val + bytes.length ≤ 8 && bytes.length != 0
  | .copRead m _ => m.ok
  | .copWrite m _ => m.ok
  | .copBlockRead m _ => m.ok
  | .copBlockWrite m _ => m.ok
  | .copLevelRead m _ => m.ok
  | .copOpInvalid m _ => m.ok
  | .sessionOpen m _ => m.ok
  | .sessionClose m _ => m.ok
  | .copRelay m => m.ok
  | .timePoll m _ => m.ok
  | .announceReceive _ _ _ addr => addr.length == 16
  | .notify m _ => m.ok
  | .domainLevelSchedule results => results.length ≤ 1251
  | .courseAllocate _ t => t.ok
  | .registerWrite addr _ _ _ => addr < 2 ^ 26
  | .wideLoRead addr _ => addr < 2 ^ 26
  | .cfgParityScan addr _ => addr < 2 ^ 26
  | .secLockWrite by_ => by_.ok
  | .attRequest by_ _ => by_.ok
  | .funcResetAssert by_ _ => by_.ok
  | .funcResetRelease by_ _ => by_.ok
  | .lodgeCoreReset by_ _ => match by_ with | some b => b.ok | none => true
  | .warmResetRequest by_ => by_.ok
  | .ciphUnblock by_ => by_.ok
  | .imgBegin by_ _ _ => by_.ok
  | .imgAppend by_ _ _ => by_.ok
  | .imgCommit by_ _ _ => by_.ok
  | .imgCancel by_ _ _ => by_.ok
  | .imgRunRecovery by_ _ _ => by_.ok
  | .pcieReadAbort addr _ _ => addr < 2 ^ 26

/-- R3, R396: who sent the command, for one that the host or a session of the object dictionary requests. -/
def Instr.sender : Instr → Option Source
  | .levelHost b => some b
  | .levelScheduleWrite b _ _ => some b
  | .levelHold b => some b
  | .levelRelease b => some b
  | .courseStage b _ => some b
  | .courseCommit b _ _ _ => some b
  | .courseDiscard b => some b
  | .courseAbort b => some b
  | .keyLoadClear b _ _ => some b
  | .keyZeroise b _ => some b
  | .zeroAll b => some b
  | .ctxIvLoad b _ _ => some b
  | .jobEnc b _ _ => some b
  | .jobDec b _ _ => some b
  | .jobWrapKey b _ _ => some b
  | .jobUnwrapKey b _ _ => some b
  | .jobWrapCtx b _ _ => some b
  | .jobUnwrapCtx b _ _ => some b
  | .jobSaveClear b _ _ => some b
  | .jobRestoreClear b _ _ => some b
  | .hostOfsWrite b _ _ => some b
  | .tbSet b _ _ => some b
  | .tbStep b _ _ => some b
  | .cstResetRequest b => some b
  | .cstSelWrite b _ => some b
  | .hkmResultRead b _ => some b
  | .calStart b _ => some b
  | .calAbort b => some b
  | .memPartialWrite b _ _ _ _ _ _ => some b
  | .secLockWrite b => some b
  | .attRequest b _ => some b
  | .funcResetAssert b _ => some b
  | .funcResetRelease b _ => some b
  | .lodgeCoreReset b _ => b
  | .warmResetRequest b => some b
  | .ciphUnblock b => some b
  | .imgBegin b _ _ => some b
  | .imgAppend b _ _ => some b
  | .imgCommit b _ _ => some b
  | .imgCancel b _ _ => some b
  | .imgRunRecovery b _ _ => some b
  | .levelPeriodic | .levelQ15 | .levelD24 | .levelScheduled _ | .levelFreezeEnd _ | .levelCopyStart
  | .levelCopyComplete | .levelDataRead _ _ | .levelMixClear | .courseValidationEnd | .courseAbortWindowClose
  | .courseStrobe | .courseRxTimeout _ | .courseFarMismatch _ | .courseClientApply _ | .convAdcEnWrite _ _
  | .convDacEnWrite _ _ | .convDacMuteWrite _ _ | .convSettled _ _ _ | .convUnlock _ _ | .samplingRefLoss _
  | .samplingRefReturn _ | .adcGroup _ _ _ | .dacGroup _ _ _ | .spareRetireWrite _ _ _ | .spareTakeoverSwitch _ _
  | .spareReleaseSwitch _ _ | .captureArm _ _ | .captureFire _ | .captureComplete _ | .rxdEnWrite _ _
  | .rxdAcqRestart _ | .rxdLoModeWrite _ _ | .rxdKsAssistWrite _ _ | .rxdFmtSrcWrite _ _ | .losWindowEnd _ _
  | .spectralEstimate _ _ | .fineEstimate _ _ | .ksWaitExpiry _ | .cdScanStep _ _ _ | .cdRefineDone _ _
  | .timingLock _ | .polConverged _ | .acqStateTimeout _ | .warmReacqTimeout _ | .eqDiverge _ | .cdReestimate _ _
  | .loUpdateTick _ | .loHostWrite _ _ | .trimUpdate _ _ | .rxdMetricsUpdate _ _ | .nlcReady _ | .txdEnWrite _ _
  | .txdModeWrite _ _ | .txLfStart _ _ | .ksGroupMissed _ | .innerCodewordDone _ _ _ | .outerBlockEnter _ _
  | .outerBlockExit _ _ | .lfDelivered _ _ | .lfrMarkerMatch _ _ _ _ | .lfrExpectedPosition _ _ _ _ _
  | .lfrExclusionExpiry _ _ | .sdWindowEnd _ | .downstreamAisChange _ | .pmonSecondEval | .binFinal _
  | .pmonClrCur _ | .pmonMetricSample _ | .closDeclare _ | .closClear _ | .cloaDeclare _ | .cloaClear _
  | .clientFrameIngress _ _ | .egressHeader _ | .flexeCalendarSwitch _ | .cliFaultAction _ | .esHealthFail
  | .drbgReseed _ | .rngFailTimeout | .zeroAllClearDone | .prevKeyRelease _ | .jobStart | .jobResume
  | .jobSegmentEnd _ | .pluEnWrite _ | .pluForceHoldWrite _ | .pluClrHist | .refValidChange _ | .refActivityLoss _
  | .refFreqWindow _ _ | .refQualified _ | .freqDisagreeClear _ | .pluPullEnd _ | .pluLockAchieved _
  | .pluLockLoss _ | .pluAcqLimit | .acqHoldExpiry _ | .wtrExpiry _ | .holdoverLimit | .oscinFail | .oscinRestored
  | .pluHistorySecond _ | .pluPhaseStepWrite _ | .pluStepDone | .clkoutFreqWrite _ _ | .servoUpdate _
  | .servoSampleTimeout _ | .servoSrcWrite _ _ | .ptpMessageRx _ _ | .ptpMessageTx _ _ | .ppsEdge _ _ | .utcChange
  | .timeOscinWaitEnd | .timeFallbackStart _ | .launchArm _ _ | .launchSend _ _ | .ptpEnWrite _ | .ppsEnWrite _
  | .ppsPulse | .kscEnWrite _ _ | .beaconDue _ | .rangeReqDue _ | .ksTxStart _ | .ksTxEnd _ | .ksMgmtQueue _ _
  | .ksMgmtTimeout _ | .ksDetection _ _ _ _ | .ksPreambleEnd _ _ _ | .ksSyncEnd _ _ _ _ _ _ | .ksHeaderDecoded _ _
  | .ksPayloadDecoded _ _ | .ksFarTimeout _ | .rangeTimeout _ | .crsDiffTimeout _ | .cstTapEvent _ | .cstSecond
  | .cstLatencySample _ | .cstTb0Sample _ | .tb3SampleTimeout | .tb3SlewEnd | .cstBoundary | .cstRecordStore _
  | .cstLevelLatch | .cstCheckpoint | .cstRstN | .vddCstLoss | .cstReady | .cstPatchGo | .cstPatchVerified _ _
  | .hkmTimerExpiry _ | .hkmPwmEdgeTrigger _ _ | .hkmPassStart _ | .hkmConversionResult _ _ | .thermalTrip
  | .hkmPwmModeWrite _ _ | .pwmPeriodStart _ | .hkmIlvWrite _ | .hkmTrigWrite _ _ | .calCheckDone _
  | .calSliceStepEnd _ _ _ | .calMeasureDone _ _ _ | .calQualityDone _ _ _ | .calStoreDone _ | .calInterpTick _
  | .memFillDone | .memArrayRead _ _ _ _ _ _ | .memScrubStep _ _ _ _ _ | .copRead _ _ | .copWrite _ _
  | .copBlockRead _ _ | .copBlockWrite _ _ | .copLevelRead _ _ | .copOpInvalid _ _ | .sessionOpen _ _
  | .sessionClose _ _ | .sessionTimeout _ | .blockExpire _ | .copRelay _ | .timePoll _ _ | .timePollAnswer _ _
  | .pollRoundStart | .pollSend | .pollTimeout _ | .announceDue | .announceReceive _ _ _ _ | .notify _ _
  | .streamSampleSend _ _ _ | .domainLevelSchedule _ | .courseAllocate _ _ | .domainAbort _ _
  | .registerWrite _ _ _ _ | .wideLoRead _ _ | .pcieUnsupportedRequest | .pcieFlr | .cfgParityScan _ _ | .coldReset
  | .coldResetRelease _ | .bootStage1Verified | .bootEnginesLoaded | .setupRecordApplied | .calSetsLoaded
  | .secLockSet | .mgtReady | .supplyUndervoltage | .supplyRestored | .windowTimeout | .customerHashFuse
  | .attQuoteReady | .funcResetExit _ | .lodgeCoreRestart _ _ | .warmResetStart | .imgCommitDone _
  | .refActivityReturn _ | .oscinReturn | .remoteFaultChange _ _ | .flexeLockChange _ _ _ _ | .mgtLinkChange _ _
  | .vddNvThreshold _ | .pcieReadAbort _ _ _ => none

end Sys2Proof
end

