-- ==== Sys2Proof/Laws/PerInstr.lean ====
section
/-!
SUPPORT. Of every command as syntax: a well-formed one that somebody requests names a sender that exists.
-/

-- one theorem after another: all at once would not fit the memory
set_option Elab.async false

namespace Sys2Proof.Laws.Sender

/-- R396: the sender of a well-formed command is PCIe, or a session with an id of 32 bits. -/
def Statement (i : Instr) : Prop := i.wf = true → ∀ b, i.sender = some b → b.ok = true

theorem left {p q : Bool} (h : (p && q) = true) : p = true := by revert h; cases p <;> simp

theorem levelPeriodic : Statement (.levelPeriodic) := by
  intro _ _ hb; cases hb
theorem levelQ15 : Statement (.levelQ15) := by
  intro _ _ hb; cases hb
theorem levelD24 : Statement (.levelD24) := by
  intro _ _ hb; cases hb
theorem levelScheduled (slot : Fin 16) : Statement (.levelScheduled slot) := by
  intro _ _ hb; cases hb
theorem levelHost (by_ : Source) : Statement (.levelHost by_) := by
  intro h b hb; cases hb; exact h
theorem levelFreezeEnd (isl : Island) : Statement (.levelFreezeEnd isl) := by
  intro _ _ hb; cases hb
theorem levelCopyStart : Statement (.levelCopyStart) := by
  intro _ _ hb; cases hb
theorem levelCopyComplete : Statement (.levelCopyComplete) := by
  intro _ _ hb; cases hb
theorem levelScheduleWrite (by_ : Source) (slot : Fin 16) (t : Time80) : Statement (.levelScheduleWrite by_ slot t) := by
  intro h b hb; cases hb; exact (left h)
theorem levelHold (by_ : Source) : Statement (.levelHold by_) := by
  intro h b hb; cases hb; exact h
theorem levelRelease (by_ : Source) : Statement (.levelRelease by_) := by
  intro h b hb; cases hb; exact h
theorem levelDataRead (addr : Nat) (size : Nat) : Statement (.levelDataRead addr size) := by
  intro _ _ hb; cases hb
theorem levelMixClear : Statement (.levelMixClear) := by
  intro _ _ hb; cases hb
theorem courseStage (by_ : Source) (target : StageTarget) : Statement (.courseStage by_ target) := by
  intro h b hb; cases hb; exact (left h)
theorem courseCommit (by_ : Source) (mode : Nat) (number : Nat) (t : Time80) : Statement (.courseCommit by_ mode number t) := by
  intro h b hb; cases hb; exact (left (left (left h)))
theorem courseValidationEnd : Statement (.courseValidationEnd) := by
  intro _ _ hb; cases hb
theorem courseDiscard (by_ : Source) : Statement (.courseDiscard by_) := by
  intro h b hb; cases hb; exact h
theorem courseAbort (by_ : Source) : Statement (.courseAbort by_) := by
  intro h b hb; cases hb; exact h
theorem courseAbortWindowClose : Statement (.courseAbortWindowClose) := by
  intro _ _ hb; cases hb
theorem courseStrobe : Statement (.courseStrobe) := by
  intro _ _ hb; cases hb
theorem courseRxTimeout (n : Lane) : Statement (.courseRxTimeout n) := by
  intro _ _ hb; cases hb
theorem courseFarMismatch (n : Lane) : Statement (.courseFarMismatch n) := by
  intro _ _ hb; cases hb
theorem courseClientApply (item : Nat) : Statement (.courseClientApply item) := by
  intro _ _ hb; cases hb
theorem convAdcEnWrite (n : Lane) (v : Bool) : Statement (.convAdcEnWrite n v) := by
  intro _ _ hb; cases hb
theorem convDacEnWrite (n : Lane) (v : Bool) : Statement (.convDacEnWrite n v) := by
  intro _ _ hb; cases hb
theorem convDacMuteWrite (n : Lane) (v : Bool) : Statement (.convDacMuteWrite n v) := by
  intro _ _ hb; cases hb
theorem convSettled (n : Lane) (side : Side) (delay : Nat) : Statement (.convSettled n side delay) := by
  intro _ _ hb; cases hb
theorem convUnlock (n : Lane) (side : Side) : Statement (.convUnlock n side) := by
  intro _ _ hb; cases hb
theorem samplingRefLoss (die : Fin 4) : Statement (.samplingRefLoss die) := by
  intro _ _ hb; cases hb
theorem samplingRefReturn (die : Fin 4) : Statement (.samplingRefReturn die) := by
  intro _ _ hb; cases hb
theorem adcGroup (n : Lane) (outside : List (List (Nat × Bool))) (codes : List (List Byte)) :
    Statement (.adcGroup n outside codes) := by
  intro _ _ hb; cases hb
theorem dacGroup (n : Lane) (at_ : Nat) (ks : Int) : Statement (.dacGroup n at_ ks) := by
  intro _ _ hb; cases hb
theorem spareRetireWrite (n : Lane) (k : Fin 16) (pos : BitVec 7) : Statement (.spareRetireWrite n k pos) := by
  intro _ _ hb; cases hb
theorem spareTakeoverSwitch (n : Lane) (k : Fin 16) : Statement (.spareTakeoverSwitch n k) := by
  intro _ _ hb; cases hb
theorem spareReleaseSwitch (n : Lane) (k : Fin 16) : Statement (.spareReleaseSwitch n k) := by
  intro _ _ hb; cases hb
theorem captureArm (n : Lane) (cfg : Word) : Statement (.captureArm n cfg) := by
  intro _ _ hb; cases hb
theorem captureFire (n : Lane) : Statement (.captureFire n) := by
  intro _ _ hb; cases hb
theorem captureComplete (n : Lane) : Statement (.captureComplete n) := by
  intro _ _ hb; cases hb
theorem rxdEnWrite (n : Lane) (v : Bool) : Statement (.rxdEnWrite n v) := by
  intro _ _ hb; cases hb
theorem rxdAcqRestart (n : Lane) : Statement (.rxdAcqRestart n) := by
  intro _ _ hb; cases hb
theorem rxdLoModeWrite (n : Lane) (v : BitVec 2) : Statement (.rxdLoModeWrite n v) := by
  intro _ _ hb; cases hb
theorem rxdKsAssistWrite (n : Lane) (v : Bool) : Statement (.rxdKsAssistWrite n v) := by
  intro _ _ hb; cases hb
theorem rxdFmtSrcWrite (n : Lane) (v : Bool) : Statement (.rxdFmtSrcWrite n v) := by
  intro _ _ hb; cases hb
theorem losWindowEnd (n : Lane) (power : Nat) : Statement (.losWindowEnd n power) := by
  intro _ _ hb; cases hb
theorem spectralEstimate (n : Lane) (fo : Int) : Statement (.spectralEstimate n fo) := by
  intro _ _ hb; cases hb
theorem fineEstimate (n : Lane) (fo : Int) : Statement (.fineEstimate n fo) := by
  intro _ _ hb; cases hb
theorem ksWaitExpiry (n : Lane) : Statement (.ksWaitExpiry n) := by
  intro _ _ hb; cases hb
theorem cdScanStep (n : Lane) (metric : Nat) (above : Bool) : Statement (.cdScanStep n metric above) := by
  intro _ _ hb; cases hb
theorem cdRefineDone (n : Lane) (cd : Int) : Statement (.cdRefineDone n cd) := by
  intro _ _ hb; cases hb
theorem timingLock (n : Lane) : Statement (.timingLock n) := by
  intro _ _ hb; cases hb
theorem polConverged (n : Lane) : Statement (.polConverged n) := by
  intro _ _ hb; cases hb
theorem acqStateTimeout (n : Lane) : Statement (.acqStateTimeout n) := by
  intro _ _ hb; cases hb
theorem warmReacqTimeout (n : Lane) : Statement (.warmReacqTimeout n) := by
  intro _ _ hb; cases hb
theorem eqDiverge (n : Lane) : Statement (.eqDiverge n) := by
  intro _ _ hb; cases hb
theorem cdReestimate (n : Lane) (cd : Int) : Statement (.cdReestimate n cd) := by
  intro _ _ hb; cases hb
theorem loUpdateTick (n : Lane) : Statement (.loUpdateTick n) := by
  intro _ _ hb; cases hb
theorem loHostWrite (n : Lane) (v : BitVec 24) : Statement (.loHostWrite n v) := by
  intro _ _ hb; cases hb
theorem trimUpdate (n : Lane) (want : Int) : Statement (.trimUpdate n want) := by
  intro _ _ hb; cases hb
theorem rxdMetricsUpdate (n : Lane) (m : Metrics) : Statement (.rxdMetricsUpdate n m) := by
  intro _ _ hb; cases hb
theorem nlcReady (n : Lane) : Statement (.nlcReady n) := by
  intro _ _ hb; cases hb
theorem txdEnWrite (n : Lane) (v : Bool) : Statement (.txdEnWrite n v) := by
  intro _ _ hb; cases hb
theorem txdModeWrite (n : Lane) (v : Bool) : Statement (.txdModeWrite n v) := by
  intro _ _ hb; cases hb
theorem txLfStart (n : Lane) (phase : Fin 1600) : Statement (.txLfStart n phase) := by
  intro _ _ hb; cases hb
theorem ksGroupMissed (n : Lane) : Statement (.ksGroupMissed n) := by
  intro _ _ hb; cases hb
theorem innerCodewordDone (n : Lane) (soft : List Int) (zr : Bool × Nat) : Statement (.innerCodewordDone n soft zr) := by
  intro _ _ hb; cases hb
theorem outerBlockEnter (n : Lane) (changed : Nat) : Statement (.outerBlockEnter n changed) := by
  intro _ _ hb; cases hb
theorem outerBlockExit (n : Lane) (bad : Nat) : Statement (.outerBlockExit n bad) := by
  intro _ _ hb; cases hb
theorem lfDelivered (n : Lane) (lf : LfIn) : Statement (.lfDelivered n lf) := by
  intro _ _ hb; cases hb
theorem lfrMarkerMatch (n : Lane) (pos : Nat) (hyp : Nat) (diff : Nat) : Statement (.lfrMarkerMatch n pos hyp diff) := by
  intro _ _ hb; cases hb
theorem lfrExpectedPosition (n : Lane) (cand : Option (Fin 4)) (hyp : Nat) (diff : Nat) (phase : Fin 1600000) : Statement (.lfrExpectedPosition n cand hyp diff phase) := by
  intro _ _ hb; cases hb
theorem lfrExclusionExpiry (n : Lane) (pos : Nat) : Statement (.lfrExclusionExpiry n pos) := by
  intro _ _ hb; cases hb
theorem sdWindowEnd (n : Lane) : Statement (.sdWindowEnd n) := by
  intro _ _ hb; cases hb
theorem downstreamAisChange (n : Lane) : Statement (.downstreamAisChange n) := by
  intro _ _ hb; cases hb
theorem pmonSecondEval : Statement (.pmonSecondEval) := by
  intro _ _ hb; cases hb
theorem binFinal (day : Bool) : Statement (.binFinal day) := by
  intro _ _ hb; cases hb
theorem pmonClrCur (n : Lane) : Statement (.pmonClrCur n) := by
  intro _ _ hb; cases hb
theorem pmonMetricSample (n : Lane) : Statement (.pmonMetricSample n) := by
  intro _ _ hb; cases hb
theorem closDeclare (p : Fin 64) : Statement (.closDeclare p) := by
  intro _ _ hb; cases hb
theorem closClear (p : Fin 64) : Statement (.closClear p) := by
  intro _ _ hb; cases hb
theorem cloaDeclare (p : Fin 64) : Statement (.cloaDeclare p) := by
  intro _ _ hb; cases hb
theorem cloaClear (p : Fin 64) : Statement (.cloaClear p) := by
  intro _ _ hb; cases hb
theorem clientFrameIngress (src : ClientSrc) (rx : ClientRx) : Statement (.clientFrameIngress src rx) := by
  intro _ _ hb; cases hb
theorem egressHeader (f : Fin 256) : Statement (.egressHeader f) := by
  intro _ _ hb; cases hb
theorem flexeCalendarSwitch (k : Fin 8) : Statement (.flexeCalendarSwitch k) := by
  intro _ _ hb; cases hb
theorem cliFaultAction (p : Fin 64) : Statement (.cliFaultAction p) := by
  intro _ _ hb; cases hb
theorem esHealthFail : Statement (.esHealthFail) := by
  intro _ _ hb; cases hb
theorem drbgReseed (i : Fin 21) : Statement (.drbgReseed i) := by
  intro _ _ hb; cases hb
theorem rngFailTimeout : Statement (.rngFailTimeout) := by
  intro _ _ hb; cases hb
theorem keyLoadClear (by_ : Source) (slot : Fin 8192) (key : BitVec 256) : Statement (.keyLoadClear by_ slot key) := by
  intro h b hb; cases hb; exact h
theorem keyZeroise (by_ : Source) (slot : Fin 8192) : Statement (.keyZeroise by_ slot) := by
  intro h b hb; cases hb; exact h
theorem zeroAll (by_ : Source) : Statement (.zeroAll by_) := by
  intro h b hb; cases hb; exact h
theorem zeroAllClearDone : Statement (.zeroAllClearDone) := by
  intro _ _ hb; cases hb
theorem ctxIvLoad (by_ : Source) (c : BitVec 16) (iv : BitVec 128) : Statement (.ctxIvLoad by_ c iv) := by
  intro h b hb; cases hb; exact h
theorem prevKeyRelease (c : BitVec 16) : Statement (.prevKeyRelease c) := by
  intro _ _ hb; cases hb
theorem jobEnc (by_ : Source) (j : Fin 16) (d : JobDesc) : Statement (.jobEnc by_ j d) := by
  intro h b hb; cases hb; exact (left h)
theorem jobDec (by_ : Source) (j : Fin 16) (d : JobDesc) : Statement (.jobDec by_ j d) := by
  intro h b hb; cases hb; exact (left h)
theorem jobWrapKey (by_ : Source) (j : Fin 16) (d : JobDesc) : Statement (.jobWrapKey by_ j d) := by
  intro h b hb; cases hb; exact (left h)
theorem jobUnwrapKey (by_ : Source) (j : Fin 16) (d : JobDesc) : Statement (.jobUnwrapKey by_ j d) := by
  intro h b hb; cases hb; exact (left h)
theorem jobWrapCtx (by_ : Source) (j : Fin 16) (d : JobDesc) : Statement (.jobWrapCtx by_ j d) := by
  intro h b hb; cases hb; exact (left h)
theorem jobUnwrapCtx (by_ : Source) (j : Fin 16) (d : JobDesc) : Statement (.jobUnwrapCtx by_ j d) := by
  intro h b hb; cases hb; exact (left h)
theorem jobSaveClear (by_ : Source) (j : Fin 16) (d : JobDesc) : Statement (.jobSaveClear by_ j d) := by
  intro h b hb; cases hb; exact (left h)
theorem jobRestoreClear (by_ : Source) (j : Fin 16) (d : JobDesc) : Statement (.jobRestoreClear by_ j d) := by
  intro h b hb; cases hb; exact (left h)
theorem jobStart : Statement (.jobStart) := by
  intro _ _ hb; cases hb
theorem jobResume : Statement (.jobResume) := by
  intro _ _ hb; cases hb
theorem jobSegmentEnd (j : Fin 16) : Statement (.jobSegmentEnd j) := by
  intro _ _ hb; cases hb
theorem pluEnWrite (v : Bool) : Statement (.pluEnWrite v) := by
  intro _ _ hb; cases hb
theorem pluForceHoldWrite (v : Bool) : Statement (.pluForceHoldWrite v) := by
  intro _ _ hb; cases hb
theorem pluClrHist : Statement (.pluClrHist) := by
  intro _ _ hb; cases hb
theorem refValidChange (r : Fin 32) : Statement (.refValidChange r) := by
  intro _ _ hb; cases hb
theorem refActivityLoss (r : Fin 32) : Statement (.refActivityLoss r) := by
  intro _ _ hb; cases hb
theorem refFreqWindow (r : Fin 32) (freq : Int) : Statement (.refFreqWindow r freq) := by
  intro _ _ hb; cases hb
theorem refQualified (r : Fin 32) : Statement (.refQualified r) := by
  intro _ _ hb; cases hb
theorem freqDisagreeClear (r : Fin 32) : Statement (.freqDisagreeClear r) := by
  intro _ _ hb; cases hb
theorem pluPullEnd (err : Int) : Statement (.pluPullEnd err) := by
  intro _ _ hb; cases hb
theorem pluLockAchieved (err : Int) : Statement (.pluLockAchieved err) := by
  intro _ _ hb; cases hb
theorem pluLockLoss (err : Int) : Statement (.pluLockLoss err) := by
  intro _ _ hb; cases hb
theorem pluAcqLimit : Statement (.pluAcqLimit) := by
  intro _ _ hb; cases hb
theorem acqHoldExpiry (r : Fin 32) : Statement (.acqHoldExpiry r) := by
  intro _ _ hb; cases hb
theorem wtrExpiry (e : Fin 16) : Statement (.wtrExpiry e) := by
  intro _ _ hb; cases hb
theorem holdoverLimit : Statement (.holdoverLimit) := by
  intro _ _ hb; cases hb
theorem oscinFail : Statement (.oscinFail) := by
  intro _ _ hb; cases hb
theorem oscinRestored : Statement (.oscinRestored) := by
  intro _ _ hb; cases hb
theorem pluHistorySecond (freq : Int) : Statement (.pluHistorySecond freq) := by
  intro _ _ hb; cases hb
theorem pluPhaseStepWrite (v : Word) : Statement (.pluPhaseStepWrite v) := by
  intro _ _ hb; cases hb
theorem pluStepDone : Statement (.pluStepDone) := by
  intro _ _ hb; cases hb
theorem clkoutFreqWrite (k : Fin 4) (v : Word) : Statement (.clkoutFreqWrite k v) := by
  intro _ _ hb; cases hb
theorem servoUpdate (x : Fin 3) : Statement (.servoUpdate x) := by
  intro _ _ hb; cases hb
theorem servoSampleTimeout (x : Fin 3) : Statement (.servoSampleTimeout x) := by
  intro _ _ hb; cases hb
theorem servoSrcWrite (x : Fin 3) (v : Word) : Statement (.servoSrcWrite x v) := by
  intro _ _ hb; cases hb
theorem ptpMessageRx (p : Fin 64) (m : PtpRx) : Statement (.ptpMessageRx p m) := by
  intro _ _ hb; cases hb
theorem ptpMessageTx (p : Fin 64) (kind : PtpTx) : Statement (.ptpMessageTx p kind) := by
  intro _ _ hb; cases hb
theorem ppsEdge (i : Fin 4) (ps : Nat) : Statement (.ppsEdge i ps) := by
  intro _ _ hb; cases hb
theorem hostOfsWrite (by_ : Source) (x : Fin 3) (v : Word) : Statement (.hostOfsWrite by_ x v) := by
  intro h b hb; cases hb; exact h
theorem tbSet (by_ : Source) (x : Fin 3) (t : Time80) : Statement (.tbSet by_ x t) := by
  intro h b hb; cases hb; exact (left h)
theorem tbStep (by_ : Source) (x : Fin 3) (d : Int) : Statement (.tbStep by_ x d) := by
  intro h b hb; cases hb; exact (left h)
theorem utcChange : Statement (.utcChange) := by
  intro _ _ hb; cases hb
theorem timeOscinWaitEnd : Statement (.timeOscinWaitEnd) := by
  intro _ _ hb; cases hb
theorem timeFallbackStart (n : Lane) : Statement (.timeFallbackStart n) := by
  intro _ _ hb; cases hb
theorem launchArm (d : Fin 32) (v : Word) : Statement (.launchArm d v) := by
  intro _ _ hb; cases hb
theorem launchSend (d : Fin 32) (err : Int) : Statement (.launchSend d err) := by
  intro _ _ hb; cases hb
theorem ptpEnWrite (v : Bool) : Statement (.ptpEnWrite v) := by
  intro _ _ hb; cases hb
theorem ppsEnWrite (v : Bool) : Statement (.ppsEnWrite v) := by
  intro _ _ hb; cases hb
theorem ppsPulse : Statement (.ppsPulse) := by
  intro _ _ hb; cases hb
theorem kscEnWrite (n : Lane) (v : Bool) : Statement (.kscEnWrite n v) := by
  intro _ _ hb; cases hb
theorem beaconDue (n : Lane) : Statement (.beaconDue n) := by
  intro _ _ hb; cases hb
theorem rangeReqDue (n : Lane) : Statement (.rangeReqDue n) := by
  intro _ _ hb; cases hb
theorem ksTxStart (n : Lane) : Statement (.ksTxStart n) := by
  intro _ _ hb; cases hb
theorem ksTxEnd (n : Lane) : Statement (.ksTxEnd n) := by
  intro _ _ hb; cases hb
theorem ksMgmtQueue (n : Lane) (bytes : List Byte) : Statement (.ksMgmtQueue n bytes) := by
  intro _ _ hb; cases hb
theorem ksMgmtTimeout (n : Lane) : Statement (.ksMgmtTimeout n) := by
  intro _ _ hb; cases hb
theorem ksDetection (n : Lane) (chan : Int) (bin : KsPeak) (snr : Int) : Statement (.ksDetection n chan bin snr) := by
  intro _ _ hb; cases hb
theorem ksPreambleEnd (n : Lane) (cand : Bool) (found : Bool) : Statement (.ksPreambleEnd n cand found) := by
  intro _ _ hb; cases hb
theorem ksSyncEnd (n : Lane) (cand : Bool) (shift1 : Nat) (shift2 : Nat) (fo : Int) (delay : Nat) : Statement (.ksSyncEnd n cand shift1 shift2 fo delay) := by
  intro _ _ hb; cases hb
theorem ksHeaderDecoded (n : Lane) (header : KsBlock) : Statement (.ksHeaderDecoded n header) := by
  intro _ _ hb; cases hb
theorem ksPayloadDecoded (n : Lane) (bytes : KsBlock) : Statement (.ksPayloadDecoded n bytes) := by
  intro _ _ hb; cases hb
theorem ksFarTimeout (n : Lane) : Statement (.ksFarTimeout n) := by
  intro _ _ hb; cases hb
theorem rangeTimeout (n : Lane) : Statement (.rangeTimeout n) := by
  intro _ _ hb; cases hb
theorem crsDiffTimeout (n : Lane) : Statement (.crsDiffTimeout n) := by
  intro _ _ hb; cases hb
theorem cstTapEvent (tap : CstTap) : Statement (.cstTapEvent tap) := by
  intro _ _ hb; cases hb
theorem cstSecond : Statement (.cstSecond) := by
  intro _ _ hb; cases hb
theorem cstLatencySample (n : Lane) : Statement (.cstLatencySample n) := by
  intro _ _ hb; cases hb
theorem cstTb0Sample (osc : Int) : Statement (.cstTb0Sample osc) := by
  intro _ _ hb; cases hb
theorem tb3SampleTimeout : Statement (.tb3SampleTimeout) := by
  intro _ _ hb; cases hb
theorem tb3SlewEnd : Statement (.tb3SlewEnd) := by
  intro _ _ hb; cases hb
theorem cstBoundary : Statement (.cstBoundary) := by
  intro _ _ hb; cases hb
theorem cstRecordStore (failed : Nat) : Statement (.cstRecordStore failed) := by
  intro _ _ hb; cases hb
theorem cstLevelLatch : Statement (.cstLevelLatch) := by
  intro _ _ hb; cases hb
theorem cstCheckpoint : Statement (.cstCheckpoint) := by
  intro _ _ hb; cases hb
theorem cstRstN : Statement (.cstRstN) := by
  intro _ _ hb; cases hb
theorem vddCstLoss : Statement (.vddCstLoss) := by
  intro _ _ hb; cases hb
theorem cstResetRequest (by_ : Source) : Statement (.cstResetRequest by_) := by
  intro h b hb; cases hb; exact h
theorem cstReady : Statement (.cstReady) := by
  intro _ _ hb; cases hb
theorem cstPatchGo : Statement (.cstPatchGo) := by
  intro _ _ hb; cases hb
theorem cstPatchVerified (good : Bool) (level : Nat) : Statement (.cstPatchVerified good level) := by
  intro _ _ hb; cases hb
theorem cstSelWrite (by_ : Source) (seq : BitVec 64) : Statement (.cstSelWrite by_ seq) := by
  intro h b hb; cases hb; exact h
theorem hkmTimerExpiry (t : Fin 4) : Statement (.hkmTimerExpiry t) := by
  intro _ _ hb; cases hb
theorem hkmPwmEdgeTrigger (k : Fin 8) (falling : Bool) : Statement (.hkmPwmEdgeTrigger k falling) := by
  intro _ _ hb; cases hb
theorem hkmPassStart (x : Fin 2) : Statement (.hkmPassStart x) := by
  intro _ _ hb; cases hb
theorem hkmConversionResult (x : Fin 2) (m : HkmSample) : Statement (.hkmConversionResult x m) := by
  intro _ _ hb; cases hb
theorem thermalTrip : Statement (.thermalTrip) := by
  intro _ _ hb; cases hb
theorem hkmResultRead (by_ : Source) (x : Fin 2) : Statement (.hkmResultRead by_ x) := by
  intro h b hb; cases hb; exact h
theorem hkmPwmModeWrite (k : Fin 8) (v : Word) : Statement (.hkmPwmModeWrite k v) := by
  intro _ _ hb; cases hb
theorem pwmPeriodStart (k : Fin 8) : Statement (.pwmPeriodStart k) := by
  intro _ _ hb; cases hb
theorem hkmIlvWrite (v : Bool) : Statement (.hkmIlvWrite v) := by
  intro _ _ hb; cases hb
theorem hkmTrigWrite (x : Fin 2) (v : Word) : Statement (.hkmTrigWrite x v) := by
  intro _ _ hb; cases hb
theorem calStart (by_ : Source) (v : Word) : Statement (.calStart by_ v) := by
  intro h b hb; cases hb; exact h
theorem calAbort (by_ : Source) : Statement (.calAbort by_) := by
  intro h b hb; cases hb; exact h
theorem calCheckDone (temps : List Int) : Statement (.calCheckDone temps) := by
  intro _ _ hb; cases hb
theorem calSliceStepEnd (ash : List Int) (dac : List Int) (temps : List Int) : Statement (.calSliceStepEnd ash dac temps) := by
  intro _ _ hb; cases hb
theorem calMeasureDone (temps values refs : List Int) : Statement (.calMeasureDone temps values refs) := by
  intro _ _ hb; cases hb
theorem calQualityDone (spur : Int) (skew : Nat) (eye : Nat) : Statement (.calQualityDone spur skew eye) := by
  intro _ _ hb; cases hb
theorem calStoreDone (failed : Nat) : Statement (.calStoreDone failed) := by
  intro _ _ hb; cases hb
theorem calInterpTick (temps : List Int) : Statement (.calInterpTick temps) := by
  intro _ _ hb; cases hb
theorem memFillDone : Statement (.memFillDone) := by
  intro _ _ hb; cases hb
theorem memArrayRead (a : Fin 11) (inst : Fin 16) (addr : Nat) (wrote : Option (BitVec 64)) (flips : BitVec 80) (reader : MemReader) : Statement (.memArrayRead a inst addr wrote flips reader) := by
  intro _ _ hb; cases hb
theorem memPartialWrite (by_ : Source) (a : Fin 11) (inst : Fin 16) (addr : Nat) (ofs : Fin 8) (bytes : List Byte) (flips : BitVec 80) : Statement (.memPartialWrite by_ a inst addr ofs bytes flips) := by
  intro h b hb; cases hb; exact (left (left h))
theorem memScrubStep (a : Fin 11) (inst : Fin 16) (wrote : Option (BitVec 64)) (flips : BitVec 80) (overwritten : Bool) : Statement (.memScrubStep a inst wrote flips overwritten) := by
  intro _ _ hb; cases hb
theorem copRead (m : CopRx) (full : Bool) : Statement (.copRead m full) := by
  intro _ _ hb; cases hb
theorem copWrite (m : CopRx) (full : Bool) : Statement (.copWrite m full) := by
  intro _ _ hb; cases hb
theorem copBlockRead (m : CopRx) (full : Bool) : Statement (.copBlockRead m full) := by
  intro _ _ hb; cases hb
theorem copBlockWrite (m : CopRx) (full : Bool) : Statement (.copBlockWrite m full) := by
  intro _ _ hb; cases hb
theorem copLevelRead (m : CopRx) (full : Bool) : Statement (.copLevelRead m full) := by
  intro _ _ hb; cases hb
theorem copOpInvalid (m : CopRx) (full : Bool) : Statement (.copOpInvalid m full) := by
  intro _ _ hb; cases hb
theorem sessionOpen (m : CopRx) (full : Bool) : Statement (.sessionOpen m full) := by
  intro _ _ hb; cases hb
theorem sessionClose (m : CopRx) (full : Bool) : Statement (.sessionClose m full) := by
  intro _ _ hb; cases hb
theorem sessionTimeout (k : Nat) : Statement (.sessionTimeout k) := by
  intro _ _ hb; cases hb
theorem blockExpire (k : Nat) : Statement (.blockExpire k) := by
  intro _ _ hb; cases hb
theorem copRelay (m : CopRx) : Statement (.copRelay m) := by
  intro _ _ hb; cases hb
theorem timePoll (m : CopRx) (d : Fin 1251) : Statement (.timePoll m d) := by
  intro _ _ hb; cases hb
theorem timePollAnswer (node : BitVec 14) (body : List Byte) : Statement (.timePollAnswer node body) := by
  intro _ _ hb; cases hb
theorem pollRoundStart : Statement (.pollRoundStart) := by
  intro _ _ hb; cases hb
theorem pollSend : Statement (.pollSend) := by
  intro _ _ hb; cases hb
theorem pollTimeout (node : BitVec 14) : Statement (.pollTimeout node) := by
  intro _ _ hb; cases hb
theorem announceDue : Statement (.announceDue) := by
  intro _ _ hb; cases hb
theorem announceReceive (node : BitVec 14) (path : Fin 4) (lane : Fin 8) (addr : List Byte) : Statement (.announceReceive node path lane addr) := by
  intro _ _ hb; cases hb
theorem notify (m : CopRx) (full : Bool) : Statement (.notify m full) := by
  intro _ _ hb; cases hb
theorem streamSampleSend (i : Fin 16) (path : Fin 4) (lane : Fin 8) : Statement (.streamSampleSend i path lane) := by
  intro _ _ hb; cases hb
theorem domainLevelSchedule (results : List (BitVec 14 × BitVec 16)) : Statement (.domainLevelSchedule results) := by
  intro _ _ hb; cases hb
theorem courseAllocate (k : Nat) (t : Time80) : Statement (.courseAllocate k t) := by
  intro _ _ hb; cases hb
theorem domainAbort (k : Nat) (number : BitVec 32) : Statement (.domainAbort k number) := by
  intro _ _ hb; cases hb
theorem registerWrite (addr : Nat) (size : Nat) (contiguous : Bool) (v : BitVec 64) : Statement (.registerWrite addr size contiguous v) := by
  intro _ _ hb; cases hb
theorem wideLoRead (addr : Nat) (size : Nat) : Statement (.wideLoRead addr size) := by
  intro _ _ hb; cases hb
theorem pcieUnsupportedRequest : Statement (.pcieUnsupportedRequest) := by
  intro _ _ hb; cases hb
theorem pcieFlr : Statement (.pcieFlr) := by
  intro _ _ hb; cases hb
theorem cfgParityScan (addr : Nat) (flips : BitVec 32) : Statement (.cfgParityScan addr flips) := by
  intro _ _ hb; cases hb
theorem coldReset : Statement (.coldReset) := by
  intro _ _ hb; cases hb
theorem coldResetRelease (cool : Bool) : Statement (.coldResetRelease cool) := by
  intro _ _ hb; cases hb
theorem bootStage1Verified : Statement (.bootStage1Verified) := by
  intro _ _ hb; cases hb
theorem bootEnginesLoaded : Statement (.bootEnginesLoaded) := by
  intro _ _ hb; cases hb
theorem setupRecordApplied : Statement (.setupRecordApplied) := by
  intro _ _ hb; cases hb
theorem calSetsLoaded : Statement (.calSetsLoaded) := by
  intro _ _ hb; cases hb
theorem secLockSet : Statement (.secLockSet) := by
  intro _ _ hb; cases hb
theorem mgtReady : Statement (.mgtReady) := by
  intro _ _ hb; cases hb
theorem supplyUndervoltage : Statement (.supplyUndervoltage) := by
  intro _ _ hb; cases hb
theorem supplyRestored : Statement (.supplyRestored) := by
  intro _ _ hb; cases hb
theorem secLockWrite (by_ : Source) : Statement (.secLockWrite by_) := by
  intro h b hb; cases hb; exact h
theorem windowTimeout : Statement (.windowTimeout) := by
  intro _ _ hb; cases hb
theorem customerHashFuse : Statement (.customerHashFuse) := by
  intro _ _ hb; cases hb
theorem attRequest (by_ : Source) (nonce : BitVec 256) : Statement (.attRequest by_ nonce) := by
  intro h b hb; cases hb; exact h
theorem attQuoteReady : Statement (.attQuoteReady) := by
  intro _ _ hb; cases hb
theorem funcResetAssert (by_ : Source) (k : Fin 15) : Statement (.funcResetAssert by_ k) := by
  intro h b hb; cases hb; exact h
theorem funcResetRelease (by_ : Source) (k : Fin 15) : Statement (.funcResetRelease by_ k) := by
  intro h b hb; cases hb; exact h
theorem funcResetExit (k : Fin 15) : Statement (.funcResetExit k) := by
  intro _ _ hb; cases hb
theorem lodgeCoreReset (by_ : Option Source) (k : Fin 8) : Statement (.lodgeCoreReset by_ k) := by
  intro h b hb; cases hb; exact h
theorem lodgeCoreRestart (k : Fin 8) (good : Bool) : Statement (.lodgeCoreRestart k good) := by
  intro _ _ hb; cases hb
theorem warmResetRequest (by_ : Source) : Statement (.warmResetRequest by_) := by
  intro h b hb; cases hb; exact h
theorem warmResetStart : Statement (.warmResetStart) := by
  intro _ _ hb; cases hb
theorem ciphUnblock (by_ : Source) : Statement (.ciphUnblock by_) := by
  intro h b hb; cases hb; exact h
theorem imgBegin (by_ : Source) (kind : BitVec 2) (len : BitVec 16) : Statement (.imgBegin by_ kind len) := by
  intro h b hb; cases hb; exact h
theorem imgAppend (by_ : Source) (kind : BitVec 2) (len : BitVec 16) : Statement (.imgAppend by_ kind len) := by
  intro h b hb; cases hb; exact h
theorem imgCommit (by_ : Source) (kind : BitVec 2) (len : BitVec 16) : Statement (.imgCommit by_ kind len) := by
  intro h b hb; cases hb; exact h
theorem imgCommitDone (failed : Nat) : Statement (.imgCommitDone failed) := by
  intro _ _ hb; cases hb
theorem imgCancel (by_ : Source) (kind : BitVec 2) (len : BitVec 16) : Statement (.imgCancel by_ kind len) := by
  intro h b hb; cases hb; exact h
theorem imgRunRecovery (by_ : Source) (kind : BitVec 2) (len : BitVec 16) : Statement (.imgRunRecovery by_ kind len) := by
  intro h b hb; cases hb; exact h
theorem refActivityReturn (r : Fin 32) : Statement (.refActivityReturn r) := by
  intro _ _ hb; cases hb
theorem oscinReturn : Statement (.oscinReturn) := by
  intro _ _ hb; cases hb
theorem remoteFaultChange (p : Fin 64) (v : Bool) : Statement (.remoteFaultChange p v) := by
  intro _ _ hb; cases hb
theorem flexeLockChange (k : Fin 8) (locked : Bool) (gid : Bool) (map : Bool) : Statement (.flexeLockChange k locked gid map) := by
  intro _ _ hb; cases hb
theorem mgtLinkChange (i : Fin 2) (v : Bool) : Statement (.mgtLinkChange i v) := by
  intro _ _ hb; cases hb
theorem vddNvThreshold (above : Bool) : Statement (.vddNvThreshold above) := by
  intro _ _ hb; cases hb
theorem pcieReadAbort (addr : Nat) (size : Nat) (contiguous : Bool) : Statement (.pcieReadAbort addr size contiguous) := by
  intro _ _ hb; cases hb

end Sys2Proof.Laws.Sender
end

