-- ==== Sys2Proof/Tests/Slice0.lean ====
section
/-!
SUPPORT. Tests: ill-formed commands are refused by their checks, and every statement with hypotheses has a state and
operands that meet them.
-/

-- one theorem after another: all at once would not fit the memory
set_option Elab.async false

namespace Sys2Proof.Tests

open Sys2Proof Sys2Proof.Machine

/-! ### Ill-formed commands, one for each check of WellFormed.lean, and a well-formed neighbour -/

def badBy : Source := .cop (2 ^ 32)
def badTime : Time80 := ⟨0, 2 ^ 32⟩
def badMsg : CopRx := ⟨0, 0, List.replicate 1453 0⟩
def goodJob : JobDesc := ⟨0, true, 0, 16, 0, 0, 0, []⟩

theorem test_illformed_source : (Instr.levelHost badBy).wf = false ∧ (Instr.levelHost (.cop 7)).wf = true := by decide

theorem test_illformed_time : (Instr.tbSet .pcie 0 badTime).wf = false ∧ (Instr.tbSet .pcie 0 ⟨2 ^ 48, 0⟩).wf = false ∧
    (Instr.courseAllocate 0 badTime).wf = false ∧ (Instr.levelScheduleWrite .pcie 0 badTime).wf = false := by decide

theorem test_illformed_stage : (Instr.courseStage .pcie (.reg (2 ^ 26) 0)).wf = false ∧
    (Instr.courseStage .pcie (.obj (2 ^ 16) 0 [])).wf = false ∧ (Instr.courseStage .pcie (.obj 0 256 [])).wf = false ∧
    (Instr.courseStage .pcie (.obj 0 0 (List.replicate 16385 0))).wf = false ∧
    (Instr.courseStage badBy (.reg 0 0)).wf = false := by decide +kernel

theorem test_illformed_commit : (Instr.courseCommit .pcie 2 1 ⟨0, 0⟩).wf = false ∧
    (Instr.courseCommit .pcie 0 (2 ^ 32) ⟨0, 0⟩).wf = false ∧ (Instr.courseCommit .pcie 0 1 badTime).wf = false ∧
    (Instr.courseCommit badBy 0 1 ⟨0, 0⟩).wf = false := by decide

theorem test_illformed_address : (Instr.registerWrite (2 ^ 26) 4 true 0).wf = false ∧ (Instr.wideLoRead (2 ^ 26) 4).wf = false ∧
    (Instr.levelDataRead (2 ^ 26) 4).wf = false ∧ (Instr.pcieReadAbort (2 ^ 26) 4 true).wf = false ∧
    (Instr.cfgParityScan (2 ^ 26) 0).wf = false := by decide

theorem test_illformed_job : (Instr.jobEnc .pcie 0 { goodJob with len := 2 ^ 32 }).wf = false ∧
    (Instr.jobEnc .pcie 0 { goodJob with src := 2 ^ 32 }).wf = false ∧
    (Instr.jobEnc .pcie 0 { goodJob with dst := 2 ^ 32 }).wf = false ∧ (Instr.jobEnc badBy 0 goodJob).wf = false ∧
    (Instr.jobEnc .pcie 0 goodJob).wf = true := by decide

theorem test_illformed_message : (Instr.copOpInvalid badMsg default).wf = false := by decide +kernel

theorem test_illformed_groups : (Instr.dacGroup 0 0 (2 ^ 31)).wf = false ∧ (Instr.dacGroup 0 (2 ^ 64) 0).wf = false ∧
    (Instr.adcGroup 0 [] []).wf = false ∧ (Instr.adcGroup 0 [[(256, true)], [], [], []] []).wf = false := by decide

theorem test_illformed_measured : (Instr.spectralEstimate 0 (2 ^ 31)).wf = false ∧ (Instr.fineEstimate 0 (2 ^ 31)).wf = false ∧
    (Instr.cdRefineDone 0 (2 ^ 31)).wf = false ∧ (Instr.cdReestimate 0 (2 ^ 31)).wf = false ∧
    (Instr.trimUpdate 0 (-(2 ^ 31) - 1)).wf = false ∧ (Instr.losWindowEnd 0 (2 ^ 32)).wf = false ∧
    (Instr.convSettled 0 .adc (2 ^ 32)).wf = false ∧ (Instr.rxdMetricsUpdate 0 ⟨0, 2 ^ 32, 0, 0, 0, 0⟩).wf = false := by decide

theorem test_illformed_framing : (Instr.innerCodewordDone 0 [] (true, 0)).wf = false ∧
    (Instr.lfrMarkerMatch 0 0 32 0).wf = false ∧ (Instr.lfrMarkerMatch 0 0 0 641).wf = false ∧
    (Instr.lfrExpectedPosition 0 none 32 0 0).wf = false ∧ (Instr.lfDelivered 0 ⟨true, 0, [], [], ⟨false, false, []⟩⟩).wf = false := by decide

theorem test_illformed_client : (Instr.clientFrameIngress (.port 0) (.frame [] false)).wf = false ∧
    (Instr.clientFrameIngress (.port 0) (.otuc [] 0 0 0)).wf = false := by decide

theorem test_illformed_clocks : (Instr.refFreqWindow 0 (2 ^ 31)).wf = false ∧ (Instr.pluPullEnd (2 ^ 31)).wf = false ∧
    (Instr.pluLockAchieved (2 ^ 31)).wf = false ∧ (Instr.pluLockLoss (2 ^ 31)).wf = false ∧
    (Instr.pluHistorySecond (2 ^ 31)).wf = false ∧ (Instr.ppsEdge 0 1600).wf = false ∧
    (Instr.tbStep .pcie 0 (2 ^ 63)).wf = false ∧ (Instr.launchSend 0 (2 ^ 31)).wf = false ∧
    (Instr.cstTb0Sample (2 ^ 31)).wf = false := by decide

theorem test_illformed_keystone : (Instr.ksHeaderDecoded 0 (.bytes [])).wf = false ∧
    (Instr.ksPayloadDecoded 0 (.bytes (List.replicate 1029 0))).wf = false ∧ (Instr.ksDetection 0 (2 ^ 31) (.at_ 0) 0).wf = false ∧
    (Instr.ksSyncEnd 0 false 0 0 (2 ^ 31) 0).wf = false := by decide +kernel

theorem test_illformed_rest : (Instr.calQualityDone (2 ^ 31) default default).wf = false ∧
    (Instr.memPartialWrite .pcie 0 0 0 7 [0, 0] 0).wf = false ∧ (Instr.memPartialWrite .pcie 0 0 0 0 [] 0).wf = false ∧
    (Instr.announceReceive default default default []).wf = false ∧
    (Instr.lodgeCoreReset (some badBy) 0).wf = false := by decide

/-! Witnesses: for each statement, a state and operands that meet the hypotheses of each of its clauses. -/

/-- The device running, from MGT_READY on. -/
def base : State := ({ State.reset with cold := false, bootHold := false } : State).setB fGLB_STATUS_MGT_READY true

/-- Fields set. -/
def put (s : State) (l : List (Fld × Nat)) : State := l.foldl (fun s p => s.set p.1 p.2) s

/-- The running device with fields set. -/
def bs (l : List (Fld × Nat)) : State := put base l

/-- Registers set. -/
def putW (s : State) (l : List (Nat × Nat)) : State := l.foldl (fun s p => s.setNat p.1 p.2) s

/-- A write of an HKM slot, a write that validation refuses, and Courses with them. -/
def slotWrite : Staged := ⟨.reg (aHKM_SLOT 0 0), [(aHKM_SLOT 0 0, 831, 0)]⟩
def badWrite : Staged := ⟨.reg (aTXD_FMT 0), [(aTXD_FMT 0, 0xFFFFFFFF, 0xFFFFFFFF)]⟩
def courses (c : CourseSeq) : State := { base with crs := c }
def noRecord : CourseRec := ⟨1, 1, false, false, 0, 0, 0, 0, none, [], []⟩
def anArmed : Armed := ⟨.pcie, true, 1, 200000, [slotWrite], false, false, [⟨.strobe, aHKM_SLOT 0 0, 0, 0⟩], [], noRecord⟩
def struckArmed : Armed :=
  { anArmed with struck := true, items := [⟨.rx 0, aTXD_FMT 0, 0, 0⟩, ⟨.port 73, aTXD_FMT 0, 0, 0⟩] }
def aScan : CdScan := ⟨some 17000, 1, none, 0, false⟩

/-- A device with a fused hash and a minimum SVN of 1. -/
def fused : State := { State.reset with sec := { State.reset.sec with cust := some [1], svn := 1 } }

/-- A period of 1 ms and a time in slot 15. -/
def levels : State :=
  ({ base with lvl := { base.lvl with slots := setAt base.lvl.slots 15 (some 5) } } : State).set fGLB_LVL_PERIOD_MS 1

/-- A Level, and a sequencer with a frozen island, a Level that waits, one in copy, and one latest and held. -/
def aLevel : Level := ⟨1, 0, 1, [], ⟨[], [], 0, [], [], {}, false⟩⟩
def staged : State := { base with lvl := { base.lvl with
  frozen := [.cla], stage := [aLevel], latest := some 1, banks := [.copying aLevel, .complete aLevel, .empty]
  held := some (.pcie, 1) } }

/-- A CD scan in its steps or in its refinement, with or without over-range. -/
def scanning (refining ovr : Bool) : State :=
  (bs [(fRXD_STATE_STATE 0, 3)]).modRxd 0 fun r => { r with scan := some { aScan with refining := refining }, ovr := ovr }

/-- A lane whose decoder has no iteration to spend, and soft values of which one lies on the wrong side. -/
def decoding : State := (bs [(fFEC_STATE_STATE 0, 1), (fFEC_STATE_ITER_AVAIL 0, 0)]).modFec 0 fun f => { f with cw := 1 }
def oneFlipped : List Int := List.replicate (64 * (480 - baseRows 0)) 1 ++ [-1]

/-- Bins whose start is past. -/
def binned : State :=
  base.modPmon 0 fun p => { p with blank := { cur15 := { start := 900 }, cur24 := { start := 900 } } }

/-- Flow 255 of port 63, which is `UP`; a received flow 255 with bytes that wait. -/
def flowing : State := bs [(fCLI_PORT_STATUS_STATE 63, 3), (fCLI_FLOW_CFG_EN 255, 1), (fCLI_FLOW_CFG_PORT 255, 63),
  (⟨aCLI_FLOW_SLOTS 255 0, 0, 4⟩, 15)]
theorem badFcs : fcsGood (List.replicate 64 (0 : Byte)) = false := by decide +kernel
def ptpFrame : List Byte := [0x01, 0x1B, 0x19, 0, 0, 0, 0, 0, 0, 0, 0, 0, 0x88, 0xF7] ++ List.replicate 50 0
theorem badPtpFcs : fcsGood ptpFrame = false := by decide +kernel
def rxFlow (l : List Byte) : State :=
  { base with cli := { base.cli with rxMap := [(255, 1, 0)], flows := [(255, { rx := l.map fun b => (b, false, false) })] } }

/-- A policy under which every slot may be loaded; a context with a last load; a save of context 0, and a job of it. -/
def policy : State := putW (bs [(fCIPH_KPOL_RANGE_LAST 0, 8191)]) [(aCIPH_KPOL_FLAGS 0, 0x348)]
def context (l : Option Nat) : State := (bs [(fCtxBind 65535, 1)]).modCtx 65535 fun x => { x with state := 1, lastLoad := l }
def saveJob : JobDesc := ⟨7, true, 0, 16, 0, 0, 0, []⟩
def jobbed (op phase : Nat) : State :=
  let s := policy.putJob 15 op saveJob
  { s with ciph := { s.ciph with jobs := [(15, ⟨.pcie, 0, phase, 0, 0, 0⟩)] } }

/-- Two qualified references: entry 0 selected with reference 1, entry 15 better with reference 31. -/
def wtrState : State := { bs [(fPLU_CTRL_EN, 1), (fPLU_STATE_STATE, 2), (fPLU_STATE_SEL_ENTRY, 0), (fPLU_STATE_SEL_REF, 1),
    (fPLU_PRIO_REF 0, 1), (fPLU_PRIO_PRIO 0, 2), (fPLU_PRIO_REF 15, 31), (fPLU_PRIO_PRIO 15, 1), (fPLU_PRIO_REVERT 15, 1), (fPLU_PRIO_WTR 15, 0),
    (fPLU_REF_STATUS_QUALIFIED 1, 1), (fPLU_REF_STATUS_QUALIFIED 31, 1)] with
  plu := { refs := (List.replicate 32 ({ qualAt := some 0 } : RefState)) } }

/-- TB2 with a sample; a PTP port; a running Keystone lane 7, a reception in a phase; a header whose CRC is good. -/
def servoed : State := { bs [(fTbState 2, 2), (fTIME_TB_SERVO_STEP_EN 2, 0)] with tb := [{ }, { }, { servo := { sum := 0, count := 1 } }] }
def ptp (st : Byte) : State := ((bs [(fTIME_CTRL_PTP_EN, 1), (fCLI_PORT_CFG_EN 63, 1), (fCLI_PORT_CFG_TYPE 63, 0),
  (fCLI_PORT_STATUS_STATE 63, 3)]).setObj (0x2210 + 63) 1 [1]).setObj (0x2210 + 63) 6 [st]
def keystone (k : KscState) : State := (bs [(fKSC_STATE_STATE 7, 1), (fTXD_STATE_KS_ON 7, 1)]).modKsc 7 fun _ => k
def goodHeader : List Byte := [0, 0, 0, 4, 0, 0] ++ natBytes 2 (crc16 [0, 0, 0, 4, 0, 0])
def heard (phase : Nat) : KsReception := ⟨0, 1, 5, phase, 0, 0, if phase = 4 then goodHeader else []⟩

/-- Cornerstone ready; a closed bin; every source bound; a session. -/
def corner (c : CstState) : State := { base with cst := { c with ready := true } }
def closedBin : CstClosed := ⟨false, { end_ := 900 }, 0, 0⟩
def aSave (timed : Bool) : CstSaved := ⟨{ id := 5 }, { id := 6 }, none, [], timed⟩
def saved (timed : Bool) : CstStore := { checks := [some (cstCheck 2 (aSave (!timed))), some (cstCheck 3 (aSave timed))] }
def bound (s : State) : State := put s [(fSEC_CST_BOUND_RESET, 7), (fSEC_CST_BOUND_PATCH, 7)]
def aSession : Session := { id := 7, key := [1, 2, 3, 4] }
def sessioned : State := { base with cop := { base.cop with sessions := [aSession] } }

/-- A calibration run of HKM in a state, or at a block; memory filled, and its scrubber on. -/
def calRun : CalRun := { items := 16, lane := 7, at_ := 0, inStep := true }
def calibrating (st : Nat) (r : CalRun) : State := { bs [(fCAL_STATUS_STATE, st)] with cal := { base.cal with run := some r } }
def blocked (items block : Nat) : CalRun := { calRun with items := items, step := 1040, block := block }
def unsteady : State :=
  let s := calibrating 1 { calRun with items := 32 }
  { s with clk := 6250000000, cal := { s.cal with first := some 0, readings := [(0, [1000])] } }
def filled : State := { bs [(fMEM_STATUS_FILL_DONE, 1), (fMEM_CTRL_SCRUB_EN, 1), (fMEM_ARR_CFG_EN 4, 1)] with
  mem := { scrub := [(71, 131070)] } }

/-- Memory with a poisoned word; a received FlexE client of group 0, whose port is 0. -/
def poisoned : State := { filled with mem := { poison := [(5, 12, 8191)] } }
def flexeRx : State :=
  put { base with cli := { base.cli with rxMap := [(255, 3, 0)] } } [(fCLI_PORT_STATUS_STATE 0, 3)]

/-- A session of COP over MGT1, its messages; a manager whose child 128 lies on MGT0. -/
def served : State := { sessioned with sec := { sessioned.sec with phy := [true, true] } }
def message (path : Fin 4) (op : Nat) (body : List Byte) : CopRx := ⟨path, 0, copMessage aSession.key op 0 5 0xFFFF 7 1 0 body⟩
def header (op : Nat) : CopHeader := ⟨op, false, false, 5, 0xFFFF, 7, 1⟩
def aNode : NodeRec := { presence := 1, addr := [1], armed := 5 }
def manager : State :=
  ({ served with cop := { served.cop with nodes := [(128, aNode)] } } : State).setObj 0x1010 1 [0, 0]

/-- The boot at a step; a setup image, being uploaded. -/
def booted (k : Nat) : State := { base with bootHold := true, sec := { base.sec with boot := k } }
def setupImage : List Byte := natBytes 4 0x4F4C494D ++ [3, 1, 0, 0, 0, 0, 0, 0, 63, 0, 0, 0, 0, 0, 0, 0] ++ sha512 [] ++
  List.replicate 940 0
def uploading (busy : Bool) (l : List Byte) : State :=
  { bs [(fSEC_IMG_STATUS_BUSY, b2n busy)] with sec := { base.sec with upload := some (3, l) } }

theorem witness_StepRunsTheFrontCommand :
    (∃ (s : State) (c : Instr) (rest : List Instr), s.pending = c :: rest) :=
  ⟨{ base with pending := [.coldReset] }, .coldReset, [], rfl⟩

theorem witness_IdleStepIsOneCycle :
    (∃ (s : State), s.pending = []) :=
  ⟨base, rfl⟩

theorem witness_CommandsLeaveOtherParts :
    (∃ (c : Instr) (s : State) (t : State) (p : Part), exec c s = .next t ∧ p ∉ mayChange c) :=
  ⟨.pcieUnsupportedRequest, State.reset, State.reset, .ciph, ⟨rfl, by decide⟩⟩

theorem witness_StepsKeepTheStoreCanonical :
    (∃ (s : State) (t : State), s.safeForm = true ∧ step s = .next t) :=
  ⟨State.reset, State.reset.elapse 1, ⟨rfl, rfl⟩⟩

theorem witness_StepsKeepFusesAndPart :
    (∃ (s : State) (t : State) (v : Nat) (h : List Byte) (b : Bool), v ≤ s.sec.svn ∧ s.sec.cust = some h ∧
        s.ciph.fitted = b ∧ step s = .next t) :=
  ⟨fused, fused.elapse 1, 1, [1], true, ⟨by decide, rfl, rfl, rfl⟩⟩

theorem witness_LevelCauses :
    (∃ (s : State), s.cold = false ∧ (∀ c, s.lvl.strobe = some c → c < s.clk) ∧ 0 < s.get fGLB_LVL_PERIOD_MS) ∧
    (∃ (s : State), s.cold = false ∧ (∀ c, s.lvl.strobe = some c → c < s.clk)) ∧
    (∃ (s : State) (slot : Fin 16) (ns : Nat), s.cold = false ∧ (∀ c, s.lvl.strobe = some c → c < s.clk) ∧
        s.lvl.slots.getD slot none = some ns) ∧
    (∃ (s : State) (by_ : Source), s.cold = false ∧ (∀ c, s.lvl.strobe = some c → c < s.clk) ∧
        s.takes by_ aGLB_LVL_CTRL = true ∧ s.lvl.hostLevel = none) :=
  ⟨⟨levels, ⟨rfl, fun _ h => (nomatch h), by decide⟩⟩,
   ⟨levels, ⟨rfl, fun _ h => (nomatch h)⟩⟩,
   ⟨levels, 15, 5, ⟨rfl, fun _ h => (nomatch h), rfl⟩⟩,
   ⟨levels, .pcie, ⟨rfl, fun _ h => (nomatch h), by decide, rfl⟩⟩⟩

theorem witness_LevelBanks :
    (∃ (s : State) (isl : _), s.lvl.frozen.contains isl = true) ∧
    (∃ (s : State) (x : _) (rest : _) (k : _), s.lvl.stage = x :: rest ∧ s.lvl.freeBank = some k) ∧
    (∃ (s : State) (k : _) (x : _), s.lvl.oldestCopy = some (k, x)) ∧
    (∃ (s : State) (by_ : _) (k : Nat), s.takes by_ aGLB_LVL_CTRL = true ∧ s.lvl.latest = some k ∧ (∀ h j,
        s.lvl.held = some (h, j) → h = by_)) ∧
    (∃ (s : State) (by_ : Source), s.takes by_ aGLB_LVL_CTRL = true) :=
  ⟨⟨staged, .cla, by decide +kernel⟩,
   ⟨staged, aLevel, [], 2, by decide +kernel⟩,
   ⟨staged, 0, aLevel, by decide +kernel⟩,
   ⟨staged, .pcie, 1, ⟨by decide, rfl, fun _ _ h => by cases h; rfl⟩⟩,
   ⟨staged, .pcie, by decide +kernel⟩⟩

theorem witness_ScheduledLevels :
    (∃ (s : State) (slot : Fin 16) (sess : Nat), s.takes (.cop sess) (aGLB_LVL_SCH slot + 8) = true) ∧
    (∃ (s : State) (slot : Fin 16), s.takes .pcie (aGLB_LVL_SCH slot + 8) = true) ∧
    (∃ (s : State) (slot : Fin 16) (ns : Nat), s.cold = false ∧ (∀ c, s.lvl.strobe = some c → c < s.clk) ∧
        s.lvl.slots.getD slot none = some ns) ∧
    (∃ (s : State) (slot : Fin 16), s.lvl.slots.getD slot none = none) :=
  ⟨⟨levels, 15, 7, by decide +kernel⟩,
   ⟨levels, 15, by decide +kernel⟩,
   ⟨levels, 15, 5, ⟨rfl, fun _ h => (nomatch h), rfl⟩⟩,
   ⟨levels, 0, by decide +kernel⟩⟩

theorem witness_LevelRegisters :
    (∃ (s : State) (addr : Nat) (h : RegHit) (l : Level), s.cold = false ∧ addr % 4 = 0 ∧ addr < barSize ∧
        s.allowed .pcie false addr = true ∧ regAt addr = some h ∧ h.row.level = true ∧ s.upper h = false ∧
        winOf addr = none ∧ h.block ≠ .plu ∧ h.block ≠ .time ∧ h.block ≠ .hkm ∧ s.servingLevel = some l) ∧
    (∃ (s : State), s.takes .pcie aGLB_LVL_STAT = true) :=
  ⟨⟨staged, aRXD_STATE 0, (regAt (aRXD_STATE 0)).get (by decide), aLevel, by decide +kernel⟩,
   ⟨staged, by decide +kernel⟩⟩

theorem witness_CourseSequence :
    (∃ (s : State) (addr : _) (v : Word) (w : _), s.cold = false ∧ s.writeGate addr true = none ∧
        stageReg (s.nat aCIPH_CTX_SEL % 65536) addr v.toNat = some w ∧ s.crs.validating = none ∧
        s.crs.pending = none) ∧
    (∃ (s : State) (by_ : Source) (mode : _) (number : _) (t : Time80) (p : _), s.cold = false ∧
        (by_ = .pcie → s.takes .pcie aGLB_CRS_CMD = true) ∧ mode ≤ 1 ∧ number < 2 ^ 32 ∧ t.ns ≤ 999999999 ∧
        t.sec < 2 ^ 48 ∧ number ≠ 0 ∧ (s.crs.any = true → serialGt number s.crs.last = true) ∧ s.safe 17 = false ∧
        s.crs.validating = none ∧ s.crs.pending = some p ∧ p.owner = by_) ∧
    (∃ (s : State) (v : _), s.cold = false ∧ s.crs.validating = some v ∧ s.validate v.writes = none ∧
        s.crs.armed = none ∧ (v.atTime = true → s.tb0 + 50000 ≤ v.time)) ∧
    (∃ (s : State) (v : _) (code : _) (w : _), s.cold = false ∧ s.crs.validating = some v ∧
        s.validate v.writes = some (code, w) ∧ v.orphan = false) ∧
    (∃ (s : State) (by_ : _) (p : _), s.cold = false ∧ s.takes by_ aGLB_CRS_CMD = true ∧ s.crs.validating = none ∧
        s.crs.pending = some p ∧ p.owner = by_) ∧
    (∃ (s : State) (by_ : _) (a : _), s.cold = false ∧ s.takes by_ aGLB_CRS_CMD = true ∧ s.crs.armed = some a ∧
        a.owner = by_ ∧ s.abortable a = true) ∧
    (∃ (s : State) (a : _), s.cold = false ∧ s.crs.armed = some a) :=
  ⟨⟨base, aHKM_SLOT 0 0, 0, slotWrite, by decide +kernel⟩,
   ⟨courses { pending := some ⟨.pcie, [slotWrite]⟩ }, .pcie, 1, 1, ⟨0, 999999999⟩, ⟨.pcie, [slotWrite]⟩,
       by decide +kernel⟩,
   ⟨courses { validating := some ⟨.pcie, [slotWrite], true, 1, 60000, false⟩ }, ⟨.pcie, [slotWrite], true, 1,
       60000, false⟩, by decide +kernel⟩,
   ⟨courses { validating := some ⟨.pcie, [badWrite], false, 1, 0, false⟩ }, ⟨.pcie, [badWrite], false, 1, 0,
       false⟩, .courseInvalid, (2, aTXD_FMT 0), by decide +kernel⟩,
   ⟨courses { pending := some ⟨.pcie, [slotWrite]⟩ }, .pcie, ⟨.pcie, [slotWrite]⟩, by decide +kernel⟩,
   ⟨courses { armed := some anArmed }, .pcie, anArmed, by decide +kernel⟩,
   ⟨courses { armed := some anArmed }, anArmed, by decide +kernel⟩⟩

theorem witness_CourseApplies :
    (∃ (s : State) (a : _), s.crs.armed = some a ∧ a.struck = false) ∧
    (∃ (s : State) (n : Lane) (a : _), s.crs.armed = some a ∧ a.struck = true ∧ a.rxWaits n = true ∧
        (s.lane n).lfr.rxIn = none ∧ (s.rxFmt n).family = 0 ∧ s.get (fLFR_STATE_ALIGN n) = 2 ∧
        a.seen.contains n.val = false) ∧
    (∃ (s : State) (n : Lane) (a : _), s.crs.armed = some a ∧ a.struck = true ∧ a.rxWaits n = true ∧
        (s.lane n).lfr.rxIn = none ∧ (s.rxFmt n).family = 0 ∧ s.get (fLFR_STATE_ALIGN n) = 2 ∧
        a.seen.contains n.val = true) ∧
    (∃ (s : State) (n : Lane) (k : Nat), (s.lane n).lfr.differSince = some k ∧ (s.rxFmt n).family = 0) ∧
    (∃ (s : State) (p : _) (a : _), p < 74 ∧ s.crs.armed = some a ∧ a.struck = true ∧
        (a.items.any fun i => i.spot == .port p) = true) :=
  ⟨⟨courses { armed := some anArmed }, anArmed, by decide +kernel⟩,
   ⟨put (courses { armed := some struckArmed }) [(fLFR_STATE_ALIGN 0, 2)], 0, struckArmed, by decide +kernel⟩,
   ⟨put (courses { armed := some { struckArmed with seen := [0] } }) [(fLFR_STATE_ALIGN 0, 2)], 0,
       { struckArmed with seen := [0] }, by decide +kernel⟩,
   ⟨base.modLfr 0 fun l => { l with differSince := some 0 }, 0, 0, by decide +kernel⟩,
   ⟨courses { armed := some struckArmed }, 73, struckArmed, by decide +kernel⟩⟩

theorem witness_ConverterSides :
    (∃ (s : State) (n : Lane), s.takes .pcie (aCONV_CTRL n.val) = true) ∧
    (∃ (s : State) (n : Lane) (sd : Side), s.laneUp n = true ∧ s.convState n sd = 1 ∧ s.refPresent n = true) ∧
    (∃ (s : State) (n : Lane) (sd : Side), s.laneUp n = true ∧ s.convState n sd = 3 ∧ s.refPresent n = true) ∧
    (∃ (s : State) (n : Lane) (sd : Side), s.convState n sd = 2) :=
  ⟨⟨base, 7, by decide +kernel⟩,
   ⟨bs [(fConvState 0 .adc, 1)], 0, .adc, by decide +kernel⟩,
   ⟨bs [(fConvState 7 .dac, 3)], 7, .dac, by decide +kernel⟩,
   ⟨bs [(fConvState 0 .dac, 2)], 0, .dac, by decide +kernel⟩⟩

theorem witness_ConverterSpares :
    (∃ (s : State) (n : Lane) (k : Fin 16), s.takes .pcie (aCONV_SPARE n k) = true ∧ s.spareRun n k = .none) ∧
    (∃ (s : State) (n : Lane) (k : Fin 16) (p : Nat) (retire : Bool), s.spareRun n k = .taking p retire) ∧
    (∃ (s : State) (n : Lane) (k : Fin 16) (p : Nat), s.spareRun n k = .releasing p ∧
        ∀ r, s.cal.run = some r → (r.waits && r.lane == n.val && stepHalf r.step == k.val) = false) :=
  ⟨⟨base, 0, 15, by decide +kernel⟩,
   ⟨base.modConv 0 fun c => { c with spares := setAt c.spares 15 (.taking 95 true) }, 0, 15, 95, true,
       by decide +kernel⟩,
   ⟨base.modConv 0 fun c => { c with spares := setAt c.spares 15 (.releasing 95) }, 0, 15, 95,
       by decide +kernel, fun _ h => nomatch h⟩⟩

theorem witness_ConverterGroups :
    (∃ (s : State) (n : Lane), s.takes .pcie (aCONV_CAP_CTRL n) = true) ∧
    (∃ (s : State) (n : Lane), s.takes .pcie (aCONV_CAP_CTRL n) = true ∧ s.is (fCONV_CAP_STATUS_ARMED n) = true ∧
        s.get (fCONV_CAP_CTRL_TRIG n) = 0 ∧ (s.lane n).conv.capLeft = none) ∧
    (∃ (s : State) (n : Lane), (s.lane n).conv.capLeft = some 0) ∧
    (∃ (s : State) (n : Lane), s.laneUp n = true ∧ s.convState n .adc = 2) ∧
    (∃ (s : State) (n : Lane), s.laneUp n = true) :=
  ⟨⟨base, 0, by decide +kernel⟩,
   ⟨bs [(fCONV_CAP_STATUS_ARMED 0, 1)], 0, by decide +kernel⟩,
   ⟨base.modConv 0 fun c => { c with capLeft := some 0 }, 0, by decide +kernel⟩,
   ⟨bs [(fConvState 0 .adc, 2)], 0, by decide +kernel⟩,
   ⟨base, 0, by decide +kernel⟩⟩

theorem witness_ReceiverControl :
    (∃ (s : State) (n : Lane), s.takes .pcie (aRXD_CTRL n) = true) ∧
    (∃ (s : State) (n : Lane), s.takes .pcie (aRXD_CTRL n) = true ∧ 2 ≤ s.rxdState n) ∧
    (∃ (s : State) (n : Lane), s.takes .pcie (aRXD_LO_HOST n) = true) ∧
    (∃ (s : State) (n : Lane) (power : _), s.laneUp n = true ∧ s.losPower n power < s.get (fRXD_LOS_THR_THR n)) :=
  ⟨⟨base, 0, by decide +kernel⟩,
   ⟨bs [(fRXD_STATE_STATE 0, 2)], 0, by decide +kernel⟩,
   ⟨base, 0, by decide +kernel⟩,
   ⟨bs [(fRXD_LOS_THR_THR 0, 100)], 0, 99, by decide +kernel⟩⟩

theorem witness_ReceiverAcquisition :
    (∃ (s : State) (n : Lane), s.laneUp n = true ∧ s.rxdState n = 2 ∧ (s.lane n).rxd.ovr = false) ∧
    (∃ (s : State) (n : Lane), s.laneUp n = true ∧ s.rxdState n = 2 ∧ (s.lane n).rxd.ovr = true) ∧
    (∃ (s : State) (n : Lane), s.laneUp n = true ∧ (3 ≤ s.rxdState n ∨ (s.rxdState n = 2 ∧
        (s.lane n).rxd.coarseDone = true)) ∧ (s.lane n).rxd.ovr = false) ∧
    (∃ (s : State) (n : Lane), s.laneUp n = true ∧ (3 ≤ s.rxdState n ∨ (s.rxdState n = 2 ∧
        (s.lane n).rxd.coarseDone = true)) ∧ (s.lane n).rxd.ovr = true) ∧
    (∃ (s : State) (n : Lane), s.laneUp n = true ∧ s.rxdState n = 2 ∧ (s.lane n).rxd.ksWaiting = true ∧
        (s.lane n).rxd.coarseDone = false) ∧
    (∃ (s : State) (n : Lane) (c : _), s.laneUp n = true ∧ s.rxdState n = 3 ∧ (s.lane n).rxd.scan = some c ∧
        c.refining = false ∧ (s.lane n).rxd.ovr = false) ∧
    (∃ (s : State) (n : Lane) (c : _), s.laneUp n = true ∧ s.rxdState n = 3 ∧ (s.lane n).rxd.scan = some c ∧
        c.refining = false ∧ (s.lane n).rxd.ovr = true) ∧
    (∃ (s : State) (n : Lane) (c : _), s.laneUp n = true ∧ s.rxdState n = 3 ∧ (s.lane n).rxd.scan = some c ∧
        c.refining = true ∧ (s.lane n).rxd.ovr = false) ∧
    (∃ (s : State) (n : Lane) (c : _), s.laneUp n = true ∧ s.rxdState n = 3 ∧ (s.lane n).rxd.scan = some c ∧
        c.refining = true ∧ (s.lane n).rxd.ovr = true) ∧
    (∃ (s : State) (n : Lane), s.laneUp n = true ∧ s.rxdState n = 4) ∧
    (∃ (s : State) (n : Lane), s.laneUp n = true ∧ s.rxdState n = 5) ∧
    (∃ (s : State) (n : Lane), s.laneUp n = true ∧ s.stateLimit n ≠ 0) ∧
    (∃ (s : State) (n : Lane), s.laneUp n = true ∧ s.is (fRXD_STATE_WARM n) = true) ∧
    (∃ (s : State) (n : Lane), s.laneUp n = true ∧ s.rxdState n = 7) :=
  ⟨⟨bs [(fRXD_STATE_STATE 0, 2)], 0, by decide +kernel⟩,
   ⟨(bs [(fRXD_STATE_STATE 0, 2)]).modRxd 0 fun r => { r with ovr := true }, 0, by decide +kernel⟩,
   ⟨(bs [(fRXD_STATE_STATE 0, 2)]).modRxd 0 fun r => { r with coarseDone := true, fine := some 100 }, 0,
       by decide +kernel⟩,
   ⟨(bs [(fRXD_STATE_STATE 0, 7)]).modRxd 0 fun r => { r with ovr := true }, 0, by decide +kernel⟩,
   ⟨(bs [(fRXD_STATE_STATE 0, 2)]).modRxd 0 fun r => { r with ksWaiting := true }, 0, by decide +kernel⟩,
   ⟨scanning false false, 0, aScan, by decide +kernel⟩,
   ⟨scanning false true, 0, aScan, by decide +kernel⟩,
   ⟨scanning true false, 0, { aScan with refining := true }, by decide +kernel⟩,
   ⟨scanning true true, 0, { aScan with refining := true }, by decide +kernel⟩,
   ⟨bs [(fRXD_STATE_STATE 0, 4)], 0, by decide +kernel⟩,
   ⟨bs [(fRXD_STATE_STATE 0, 5)], 0, by decide +kernel⟩,
   ⟨bs [(fRXD_STATE_STATE 0, 2)], 0, by decide +kernel⟩,
   ⟨bs [(fRXD_STATE_STATE 0, 4), (fRXD_STATE_WARM 0, 1)], 0, by decide +kernel⟩,
   ⟨bs [(fRXD_STATE_STATE 0, 7)], 0, by decide +kernel⟩⟩

theorem witness_ReceiverTracking :
    (∃ (s u : State) (n : Lane), s.laneUp n = true ∧ s.rxdState n = 7 ∧ s.is (fRXD_SCFG_CD_MODE n) = false ∧
        (s.lane n).rxd.ovr = false ∧
        u = s.waitClk (1000 * cyclesMs + max (s.lane n).rxd.stateAt (s.lane n).rxd.cdEstAt)) ∧
    (∃ (s : State) (n : Lane) (e : _), s.laneUp n = true ∧ 3 ≤ s.rxdState n ∧ s.loOwnerNow n = 2 ∧
        (s.lane n).rxd.fine = some e) ∧
    (∃ (s : State) (n : Lane), s.laneUp n = true ∧ 4 ≤ s.rxdState n ∧ (s.lane n).rxd.ovr = false ∧
        s.is (fCONV_CTRL_TRIM_HOLD n) = false) ∧
    (∃ (s : State) (n : Lane), s.laneUp n = true ∧ 5 ≤ s.rxdState n ∧ (s.lane n).rxd.ovr = false ∧
        s.is (fCONV_CTRL_TRIM_HOLD n) = true) ∧
    (∃ (s : State) (n : Lane), s.laneUp n = true ∧ s.rxdState n = 7 ∧ (s.lane n).rxd.ovr = false) ∧
    (∃ (s : State) (n : Lane), s.laneUp n = true ∧ (s.lane n).rxd.nlc = .computing) :=
  ⟨⟨bs [(fRXD_STATE_STATE 0, 7)], _, 0, by decide +kernel, by decide +kernel, by decide +kernel, by decide +kernel, rfl⟩,
   ⟨(bs [(fRXD_STATE_STATE 0, 3)]).modRxd 0 fun r => { r with fine := some 600000 }, 0, 600000, by decide +kernel⟩,
   ⟨bs [(fRXD_STATE_STATE 0, 4)], 0, by decide +kernel⟩,
   ⟨bs [(fRXD_STATE_STATE 0, 5), (fCONV_CTRL_TRIM_HOLD 0, 1)], 0, by decide +kernel⟩,
   ⟨bs [(fRXD_STATE_STATE 0, 7)], 0, by decide +kernel⟩,
   ⟨base.modRxd 0 fun r => { r with nlc := .computing }, 0, by decide +kernel⟩⟩

theorem witness_Transmitter :
    (∃ (s : State) (n : Lane), s.takes .pcie (aTXD_CTRL n) = true) ∧
    (∃ (s : State) (n : Lane), s.laneUp n = true ∧ s.is (fTXD_STATE_KS_ON n) = true) ∧
    (∃ (s : State) (n : Lane), s.cold = false ∧ s.held n = false ∧ s.crs.armed = none) :=
  ⟨⟨base, 0, by decide +kernel⟩,
   ⟨bs [(fTXD_STATE_KS_ON 0, 1)], 0, by decide +kernel⟩,
   ⟨base, 0, by decide +kernel⟩⟩

theorem getD_last (a v : Nat) : (List.replicate a false ++ [true]).getD v false = decide (v = a) := by
  rcases Nat.lt_trichotomy v a with h | h | h
  · simp [List.getElem?_append, h, Nat.ne_of_lt h]
  · simp [h]
  · simp [List.getElem?_append, Nat.not_lt_of_gt h, Nat.ne_of_gt h, Nat.sub_ne_zero_of_lt h]

/-- Without an iteration the one soft value on the wrong side fails a check (R132). -/
theorem oneFlipped_fails {fec lim : Nat} {first : Bool} (early : Bool) (hf : fec = 0) (h1 : first = false) (hl : lim = 0) :
    (decodeInner fec first early lim oneFlipped).ok = false ∧ (decodeInner fec first early lim oneFlipped).used = 0 := by
  subst hf h1 hl
  have h : ∀ soft, (decodeInner 0 false early 0 soft).ok = checksOk (baseRows 0) (soft.map hardBit) ∧
      (decodeInner 0 false early 0 soft).used = 0 := fun _ => by
    simp only [decodeInner, MinSum.run, startValues, Bool.not_false, if_true, and_self]
  refine ⟨?_, (h _).2⟩
  have hb : oneFlipped.map hardBit = List.replicate (64 * (480 - baseRows 0)) false ++ [true] := by
    simp [oneFlipped, hardBit]
  rw [(h _).1, hb]
  simp only [checksOk, getD_last]
  decide +kernel

/-- The worked example after R138 (05_fec.md): a pre-FEC BER of 1.90 × 10^-2 is 6.34 dB. -/
theorem test_q_worked_example : qFactor 74100000000 3899996467200 = 634 := by decide +kernel

/-- A lane whose FEC is RUNNING, whatever its decoder holds. -/
theorem fec_running (g : FecState → FecState) :
    ((bs [(fFEC_STATE_STATE 0, 2)]).modFec 0 g).laneUp 0 = true ∧ ((bs [(fFEC_STATE_STATE 0, 2)]).modFec 0 g).fecState 0 = 2 ∧
      ((bs [(fFEC_STATE_STATE 0, 2)]).modFec 0 g).is (fFEC_STATE_ZR 0) = false :=
  show (bs [(fFEC_STATE_STATE 0, 2)]).laneUp 0 = true ∧ (bs [(fFEC_STATE_STATE 0, 2)]).fecState 0 = 2 ∧
    (bs [(fFEC_STATE_STATE 0, 2)]).is (fFEC_STATE_ZR 0) = false from by decide +kernel

theorem witness_ReceiveFec :
    (∃ (s : State) (n : Lane), s.laneUp n = true ∧ s.fecState n ≠ 0 ∧ s.is (fFEC_STATE_ZR n) = true) ∧
    (∃ (s : State) (n : Lane) (f : FecState) (d : Decoded), s.laneUp n = true ∧ s.fecState n ≠ 0 ∧
        s.is (fFEC_STATE_ZR n) = false ∧ f = (s.lane n).fec ∧
        d = decodeInner (if f.cw = 0 then (s.rxFmt n).fec else f.fec) (f.cw = 0) (s.is (fFEC_CTRL_EARLY_STOP n))
          (iterLimit f.iterMax (s.get (fFEC_STATE_ITER_AVAIL n)) f.pool) oneFlipped ∧
        d.ok = false ∧ d.used < f.iterMax) ∧
    (∃ (s : State) (n : Lane), s.laneUp n = true ∧ s.fecState n = 2 ∧ s.is (fFEC_STATE_ZR n) = false ∧
        (s.lane n).fec.fed = false ∧ (s.lane n).fec.left < (s.lane n).fec.entered) ∧
    (∃ (s : State) (n : Lane), s.laneUp n = true ∧ s.fecState n = 2 ∧ s.is (fFEC_STATE_ZR n) = false ∧
        (s.lane n).fec.fed = true ∧ 216000 ≤ (s.lane n).fec.outer.info.length ∧ 14400 ≤ (s.lane n).fec.outer.par.length) ∧
    (∃ (s : State) (n : Lane) (b : _) (rest : _), s.laneUp n = true ∧ s.fecState n = 2 ∧ s.is (fFEC_STATE_ZR n) = false ∧
        (s.lane n).fec.fed = true ∧ (s.lane n).fec.window = b :: rest ∧ s.outerWin n ≤ rest.length + 1) :=
  ⟨⟨bs [(fFEC_STATE_STATE 0, 2), (fFEC_STATE_ZR 0, 1)], 0, by decide +kernel⟩,
   ⟨decoding, 0, (decoding.lane 0).fec, _, by decide +kernel, by decide +kernel, by decide +kernel, rfl, rfl,
       (oneFlipped_fails _ (by decide +kernel) (by decide +kernel) (by decide +kernel)).1,
       lt_of_eq_of_lt (oneFlipped_fails _ (by decide +kernel) (by decide +kernel) (by decide +kernel)).2 (by decide +kernel)⟩,
   ⟨(bs [(fFEC_STATE_STATE 0, 2)]).modFec 0 fun f => { f with entered := 1 }, 0, by decide +kernel⟩,
   ⟨(bs [(fFEC_STATE_STATE 0, 2)]).modFec 0 fun f =>
       { f with fed := true, outer := { info := List.replicate 216000 false, par := List.replicate 14400 false } }, 0,
       (fec_running _).1, (fec_running _).2.1, (fec_running _).2.2, rfl, Nat.le_of_eq List.length_replicate.symm,
       Nat.le_of_eq List.length_replicate.symm⟩,
   ⟨(bs [(fFEC_STATE_STATE 0, 2), (⟨aFEC_OCFG 0, 0, 16⟩, 1)]).modFec 0 fun f => { f with fed := true, window := [[5]] }, 0, [5], [],
       by decide +kernel⟩⟩

/-- A lane that verifies its sync, with some line frames failed; a line frame whose codeword 0 failed. -/
def verifying (k : Nat) : State :=
  (bs [(fLFR_STATE_ALIGN 0, 2), (fLFR_STATE_VERIFY 0, 1)]).modLfr 0 fun l => { l with verifyCount := k, sync := some (7, 0) }
def failedLf : LfIn := ⟨false, 0, List.replicate 160 0, [], ⟨false, false, []⟩⟩

theorem witness_Framing :
    (∃ (s : State) (n : Lane), s.laneUp n = true) ∧
    (∃ (s : State) (n : Lane), s.laneUp n = true ∧
        1024 * max 1 (s.get (fLFR_SD_CFG_WIN n)) ≤ (s.lane n).lfr.sdLfs) ∧
    (∃ (s : State) (n : Lane) (diff : _), s.laneUp n = true ∧ s.is (fLFR_STATE_LOS n) = false ∧
        (s.rxFmt n).family = 0 ∧ s.alignState n = 0 ∧ diff ≤ s.get (fLFR_ALIGN_CFG_THR n) ∧
        (s.lane n).lfr.excluded = [] ∧ (s.lane n).lfr.cands = [] ∧ (s.lane n).lfr.sync = none) ∧
    (∃ (s : State) (n : Lane) (diff : _), s.laneUp n = true ∧ (s.rxFmt n).family = 0 ∧
        s.get (fLFR_ALIGN_CFG_THR n) < diff ∧ s.alignState n = 2 ∧ (s.lane n).lfr.miss + 1 < 5) ∧
    (∃ (s : State) (n : Lane) (diff : _) (k : Fin 4) (c : _), s.laneUp n = true ∧ (s.rxFmt n).family = 0 ∧
        diff ≤ s.get (fLFR_ALIGN_CFG_THR n) ∧ (s.lane n).lfr.cands[k.val]? = some c ∧ c.hits + 1 < 3) ∧
    (∃ (s : State) (n : Lane) (pos : _) (e : _), s.laneUp n = true ∧
        (s.lane n).lfr.excluded.find? (fun x => x.1 == pos) = some e) ∧
    (∃ (s u : State) (n : Lane) (lf m : LfIn) (i : Nat), s.laneUp n = true ∧ s.alignState n = 2 ∧
        (s.rxFmt n).family = 0 ∧ s.is (fLFR_STATE_VERIFY n) = true ∧ (s.lane n).lfr.rxIn = none ∧
        s.lfNext n lf = some (u, m, i) ∧ m.cw0 = false ∧ (s.lane n).lfr.verifyCount + 1 < 4 ∧
        s.is (fLFR_STATE_MF_LOCK n) = false) ∧
    (∃ (s u : State) (n : Lane) (lf m : LfIn) (i : Nat), s.laneUp n = true ∧ s.alignState n = 2 ∧
        (s.rxFmt n).family = 0 ∧ s.is (fLFR_STATE_VERIFY n) = true ∧ (s.lane n).lfr.rxIn = none ∧
        s.lfNext n lf = some (u, m, i) ∧ m.cw0 = false ∧ 4 ≤ (s.lane n).lfr.verifyCount + 1) :=
  ⟨⟨base, 0, by decide +kernel⟩,
   ⟨base.modLfr 0 fun l => { l with sdLfs := 65535 * 1024 }, 0, by decide +kernel⟩,
   ⟨bs [(fLFR_STATE_LOS 0, 0)], 0, 0, by decide +kernel⟩,
   ⟨bs [(fLFR_STATE_ALIGN 0, 2)], 0, 640, by decide +kernel⟩,
   ⟨(bs [(fLFR_STATE_ALIGN 0, 1)]).modLfr 0 fun l => { l with cands := [⟨7, 0, 1⟩] }, 0, 0, 0, ⟨7, 0, 1⟩,
       by decide +kernel⟩,
   ⟨base.modLfr 0 fun l => { l with excluded := [(7, 0)] }, 0, 7, (7, 0), by decide +kernel⟩,
   ⟨verifying 2, verifying 2, 0, failedLf, failedLf, infoBits ((verifying 2).rxFmt 0).fec,
       by and_intros <;> first | decide +kernel | rfl⟩,
   ⟨verifying 3, verifying 3, 0, failedLf, failedLf, infoBits ((verifying 3).rxFmt 0).fec,
       by and_intros <;> first | decide +kernel | rfl⟩⟩

theorem witness_Monitoring :
    (∃ (s : State), s.up = true) ∧
    (∃ (s : State), ((s.lane 0).pmon.ent 0).cur15.start ≠ 0) ∧
    (∃ (s : State), ((s.lane 0).pmon.ent 0).cur24.start ≠ 0) :=
  ⟨⟨base, by decide +kernel⟩,
   ⟨binned, by decide +kernel⟩,
   ⟨binned, by decide +kernel⟩⟩

theorem witness_CurrentBins :
    (∃ (s : State) (n : Lane), s.takes .pcie (aPMON_CTRL n) = true) ∧
    (∃ (s : State) (n : Lane), s.laneUp n = true ∧ s.get (fRXD_STATE_STATE n) = 7) :=
  ⟨⟨base, 7, by decide +kernel⟩,
   ⟨bs [(fRXD_STATE_STATE 0, 7), (fRXD_CTRL_EN 0, 1)], 0, by decide +kernel⟩⟩

theorem witness_ClientPorts :
    (∃ (s : State) (p : Fin 64), s.portState p ≠ 0) ∧
    (∃ (s : State) (k : Fin 8), s.up = true ∧ s.is (fCLI_FX_CFG_EN k) = true ∧
        s.held (8 + s.portGroup (s.get (fCLI_FX_CFG_PORT_BASE k))) = false) ∧
    (∃ (s : State) (k : Fin 8), s.is (fCLI_FX_STATUS_CAL_PENDING k) = true) :=
  ⟨⟨bs [(fCLI_PORT_STATUS_STATE 63, 3)], 63, by decide +kernel⟩,
   ⟨bs [(fCLI_FX_CFG_EN 7, 1), (fCLI_FX_STATUS_LOCKED 7, 1)], 7, by decide +kernel⟩,
   ⟨bs [(fCLI_FX_STATUS_CAL_PENDING 7, 1)], 7, by decide +kernel⟩⟩

theorem witness_ClientIngress :
    (∃ (s : State) (src : ClientSrc) (p : Fin 64), s.srcPort src = p ∧ s.portState p = 3 ∧
        s.lvl.frozen.contains (s.portIsland p) = false) ∧
    (∃ (s : State) (src : ClientSrc) (p : Fin 64) (bytes : List Byte), s.srcPort src = p ∧ s.portState p = 3 ∧
        s.lvl.frozen.contains (s.portIsland p) = false ∧ (bytes.length < 64 ∨ 16000 < bytes.length)) ∧
    (∃ (s : State) (src : ClientSrc) (p : Fin 64) (bytes : List Byte) (f : _) (u : _), s.srcPort src = p ∧
        s.portState p = 3 ∧ s.lvl.frozen.contains (s.portIsland p) = false ∧ 64 ≤ bytes.length ∧ bytes.length ≤ 16000 ∧
        u = (if fcsGood bytes then (s.portCount p 0 1).portCount p 1 bytes.length else ((s.portCount p 0 1).portCount p 1 bytes.length).portCount p 2 1) ∧ u.flowOf src = some f ∧ u.ingressBad f = false ∧ u.calWaits src = false ∧ u.ptpTakes src bytes = false ∧ u.flowPaused f = false ∧ (u.txFmt (u.get (fCLI_FLOW_CFG_LANE f))).family = 0 ∧ u.flowSlots f ≠ 0 ∧ bytes.length + 4 + (s.flowX f).buf.length ≤ 16 * u.flowCap f) ∧
    (∃ (s : State) (src : ClientSrc) (p : Fin 64) (bytes : List Byte) (u : _), s.srcPort src = p ∧ s.portState p = 3 ∧
        s.lvl.frozen.contains (s.portIsland p) = false ∧ 64 ≤ bytes.length ∧ bytes.length ≤ 16000 ∧
        u = (if fcsGood bytes then (s.portCount p 0 1).portCount p 1 bytes.length else ((s.portCount p 0 1).portCount p 1 bytes.length).portCount p 2 1) ∧ u.ptpTakes src bytes = true) ∧
    (∃ (s : State) (src : ClientSrc) (p : Fin 64) (words : List (BitVec 128)) (frames : _) (bip : _) (f : _) (u : _), s.srcPort src = p ∧ s.portState p = 3 ∧ s.lvl.frozen.contains (s.portIsland p) = false ∧ u = (s.portCount p 0 frames).portCount p 2 bip ∧ u.flowOf src = some f ∧ words.length + (s.flowX f).otn.length ≤ u.flowCap f) :=
  ⟨⟨flowing, .port 63, 63, by decide +kernel⟩,
   ⟨flowing, .port 63, 63, List.replicate 63 0, by decide +kernel⟩,
   ⟨flowing, .port 63, 63, List.replicate 64 0, 255,
       ((flowing.portCount 63 0 1).portCount 63 1 64).portCount 63 2 1,
       by and_intros <;> first | decide +kernel | (rw [badFcs]; rfl)⟩,
   ⟨ptp 6, .port 63, 63, ptpFrame, (((ptp 6).portCount 63 0 1).portCount 63 1 64).portCount 63 2 1,
       by and_intros <;> first | decide +kernel | (rw [badPtpFcs]; rfl)⟩,
   ⟨flowing, .port 63, 63, [5, 6], 1, 2, 255, (flowing.portCount 63 0 1).portCount 63 2 2,
       by and_intros <;> first | decide +kernel | rfl⟩⟩

theorem witness_ClientEgress :
    (∃ (s : State) (f : Fin 256) (cfg : _) (h : _) (v : _), s.rxCfg f = some cfg ∧ 4 ≤ (s.flowX f).rx.length ∧
        h = ((s.flowX f).rx.take 4).map (·.1) ∧ v = fieldBytes h 0 3 ∧ fieldBytes h 3 1 ≠ crc8 24 v) ∧
    (∃ (s : State) (f : Fin 256) (cfg : _) (h : _) (v : _), s.rxCfg f = some cfg ∧ 4 ≤ (s.flowX f).rx.length ∧
        h = ((s.flowX f).rx.take 4).map (·.1) ∧ v = fieldBytes h 0 3 ∧ fieldBytes h 3 1 = crc8 24 v ∧
        (v / 256 % 4 = 0 ∨ v / 256 % 4 = 3)) ∧
    (∃ (s : State) (f : Fin 256) (cfg : _) (h : _) (v : _), s.rxCfg f = some cfg ∧ 4 ≤ (s.flowX f).rx.length ∧
        h = ((s.flowX f).rx.take 4).map (·.1) ∧ v = fieldBytes h 0 3 ∧ fieldBytes h 3 1 = crc8 24 v ∧
        (v / 256 % 4 = 1 ∨ v / 256 % 4 = 2) ∧ 4 + v / 1024 ≤ (s.flowX f).rx.length) ∧
    (∃ (s : State) (f : Fin 256) (cfg : _) (h : _) (v : _), s.rxCfg f = some cfg ∧ 4 ≤ (s.flowX f).rx.length ∧
        h = ((s.flowX f).rx.take 4).map (·.1) ∧ v = fieldBytes h 0 3 ∧ fieldBytes h 3 1 = crc8 24 v ∧
        (v / 256 % 4 = 1 ∨ v / 256 % 4 = 2) ∧ (s.flowX f).rx.length < 4 + v / 1024) ∧
    (∃ (s : State) (p : Fin 64), s.portState p ≠ 0 ∧ s.safe (8 + s.portGroup p) = true) :=
  ⟨⟨rxFlow [0, 0, 0, 1], 255, 1, [0, 0, 0, 1], 0, by decide +kernel⟩,
   ⟨rxFlow (elementHeader 0 3), 255, 1, elementHeader 0 3, fieldBytes (elementHeader 0 3) 0 3, by decide +kernel⟩,
   ⟨rxFlow (elementHeader 64 1 ++ List.replicate 64 0), 255, 1, elementHeader 64 1,
       fieldBytes (elementHeader 64 1) 0 3, by decide +kernel⟩,
   ⟨rxFlow (elementHeader 64 1 ++ List.replicate 63 0), 255, 1, elementHeader 64 1,
       fieldBytes (elementHeader 64 1) 0 3, by decide +kernel⟩,
   ⟨bs [(fCLI_PORT_STATUS_STATE 63, 3), (⟨aGLB_SAFE, 8, 1⟩, 1)], 63, by decide +kernel⟩⟩

theorem witness_CipherKeys :
    (∃ (s : State), s.ciphUp = true) ∧
    (∃ (s : State), s.ciphUp = true ∧ s.is fCIPH_STATUS_RNG_FAIL = false) ∧
    (∃ (s : State) (b : Source) (slot : Fin 8192), s.takes b aCIPH_KEY_CMD = true ∧ s.ciph.fitted = true ∧
        s.mayLoad slot (initOf b) = false) ∧
    (∃ (s : State) (b : Source) (slot : Fin 8192), s.takes b aCIPH_KEY_CMD = true ∧ s.ciph.fitted = true ∧
        s.mayLoad slot (initOf b) = true ∧ s.keyRefs slot ≠ 0) ∧
    (∃ (s : State) (b : Source) (slot : Fin 8192), s.takes b aCIPH_KEY_CMD = true ∧ s.ciph.fitted = true ∧
        s.mayLoad slot (initOf b) = true ∧ s.keyRefs slot = 0 ∧ s.ciph.zeroing = false) ∧
    (∃ (s : State) (b : Source), s.takes b aCIPH_KEY_CMD = true ∧ s.ciph.fitted = true) ∧
    (∃ (s : State) (b : Source), s.takes b aCIPH_CTRL = true ∧ s.ciph.fitted = true) ∧
    (∃ (s : State), s.ciph.zeroing = true) :=
  ⟨⟨base, by decide +kernel⟩,
   ⟨base, by decide +kernel⟩,
   ⟨base, .pcie, 8191, by decide +kernel⟩,
   ⟨policy.modCtx 1 fun x => { x with state := 1, prev := some ⟨8191, 0, none, 0⟩ }, .pcie, 8191, by decide +kernel⟩,
   ⟨policy, .cop 1, 8191, by decide +kernel⟩,
   ⟨{ policy with ciph := { policy.ciph with keys := [(0, 1), (8191, 2)] } }, .pcie, by decide +kernel⟩,
   ⟨{ policy with ciph := { policy.ciph with keys := [(0, 1), (8191, 2)] } }, .pcie, by decide +kernel⟩,
   ⟨{ base with ciph := { base.ciph with zeroing := true } }, by decide +kernel⟩⟩

theorem witness_CipherContexts :
    (∃ (s : State) (b : Source) (c : BitVec 16) (iv : BitVec 128) (ch : Bool) (v : Nat),
        ch = chainMode (s.ctxMode c.toNat) ∧ v = (if ch then iv.toNat else iv.toNat / 2 ^ 32) ∧
        s.takes b (aCIPH_CTX_IV 3) = true ∧ s.ciph.fitted = true ∧
        (s.ctx c.toNat).state = 0 ∨ s.get (fCtxBind c.toNat) ≠ 1 ∨ s.busyCtx c.toNat = true) ∧
    (∃ (s : State) (b : Source) (c : BitVec 16) (iv : BitVec 128) (ch : Bool) (v : Nat),
        ch = chainMode (s.ctxMode c.toNat) ∧ v = (if ch then iv.toNat else iv.toNat / 2 ^ 32) ∧
        s.takes b (aCIPH_CTX_IV 3) = true ∧ s.ciph.fitted = true ∧ (s.ctx c.toNat).state ≠ 0 ∧
        s.get (fCtxBind c.toNat) = 1 ∧ s.busyCtx c.toNat = false ∧ (s.ctx c.toNat).lastLoad = some (ivValue ch v 0)) ∧
    (∃ (s : State) (b : Source) (c : BitVec 16) (iv : BitVec 128) (ch : Bool) (v : Nat),
        ch = chainMode (s.ctxMode c.toNat) ∧ v = (if ch then iv.toNat else iv.toNat / 2 ^ 32) ∧
        s.takes b (aCIPH_CTX_IV 3) = true ∧ s.ciph.fitted = true ∧ (s.ctx c.toNat).state ≠ 0 ∧
        s.get (fCtxBind c.toNat) = 1 ∧ s.busyCtx c.toNat = false ∧ (s.ctx c.toNat).lastLoad ≠ some (ivValue ch v 0)) ∧
    (∃ (s : State) (c : BitVec 16) (iv : BitVec 128) (ch : Bool) (v : Nat) (p : _),
        ch = chainMode (s.ctxMode c.toNat) ∧ v = (if ch then iv.toNat else iv.toNat / 2 ^ 32) ∧
        (s.ctx c.toNat).prev = some p) :=
  ⟨⟨base, .pcie, 65535, 7, false, 0, by decide +kernel⟩,
   ⟨(context (some (ivValue false 0 0))), .pcie, 65535, 7, false, 0, by decide +kernel⟩,
   ⟨context none, .pcie, 65535, 0x500000007, false, 5, by decide +kernel⟩,
   ⟨base.modCtx 65535 fun x => { x with prev := some ⟨8191, 0, none, 9⟩ }, 65535, 7, false, 0, ⟨8191, 0, none, 9⟩,
       by decide +kernel⟩⟩

theorem witness_CipherJobs :
    (∃ (s : State) (j : Fin 16) (d : JobDesc) (x : Instr × Nat), x ∈ [(Instr.jobEnc .pcie j d, 0),
        (.jobDec .pcie j d, 1), (.jobWrapKey .pcie j d, 2), (.jobUnwrapKey .pcie j d, 3), (.jobWrapCtx .pcie j d,
        4), (.jobUnwrapCtx .pcie j d, 5), (.jobSaveClear .pcie j d, 6), (.jobRestoreClear .pcie j d, 7)] ∧
        s.ciph.fitted = true ∧ s.is fCIPH_STATUS_RNG_FAIL = false ∧ s.safe 10 = false ∧
        s.takes .pcie (aCIPH_JOB_CTRL j) = true ∧ (s.ciph.jobs.any fun p => p.1 == j.val) = false) ∧
    (∃ (s : State) (j : Fin 16) (d : JobDesc) (k : Nat) (b : Source) (x : Instr × Nat) (u : _),
        x ∈ [(Instr.jobEnc b j d, 0), (.jobDec b j d, 1), (.jobWrapKey b j d, 2), (.jobUnwrapKey b j d, 3),
        (.jobWrapCtx b j d, 4), (.jobUnwrapCtx b j d, 5), (.jobSaveClear b j d, 6), (.jobRestoreClear b j d, 7)] ∧
        s.ciph.fitted = true ∧ s.is fCIPH_STATUS_RNG_FAIL = false ∧ s.safe 10 = false ∧ b ≠ .pcie ∧
        s.takes b (aCIPH_JOB_CTRL j) = true ∧
        ((List.range 16).find? fun k => !(s.ciph.jobs.any fun p => p.1 == k)) = some k ∧
        u = (s.putJob k x.2 d).bufPut d.src (d.data.take (262144 - d.src)) ∧ u.is fCIPH_STATUS_RNG_FAIL = false ∧ u.safe 10 = false) ∧
    (∃ (s : State) (k : Nat) (r : _) (code : _) (stop : Nat), s.nextJob = some (k, r) ∧ s.ciphUp = true ∧
        s.running.length < 2 ∧ r.phase = 1 ∧ s.jobRefusal k = some (code, stop) ∧ code ≠ 0 ∧ code < 16) ∧
    (∃ (s : State) (k : Nat) (r : _), s.nextJob = some (k, r) ∧ s.ciphUp = true ∧ s.running.length < 2 ∧
        r.phase = 1 ∧ s.jobRefusal k = none) ∧
    (∃ (s : State) (k : Nat) (r : _), s.nextJob = some (k, r) ∧ s.ciphUp = true ∧ s.running.length < 2 ∧
        r.phase = 3) ∧
    (∃ (s : State) (j : Fin 16) (r : _), assocGet s.ciph.jobs j = some r ∧ r.phase = 2) :=
  ⟨⟨base, 15, saveJob, (.jobSaveClear .pcie 15 saveJob, 6), by decide +kernel⟩,
   ⟨base, 15, saveJob, 0, .cop 1, (.jobEnc (.cop 1) 15 saveJob, 0), (base.putJob 0 0 saveJob).bufPut 0 [],
       by and_intros <;> first | decide +kernel | rfl⟩,
   ⟨jobbed 0 1, 15, ⟨.pcie, 0, 1, 0, 0, 0⟩, 3, 0, by decide +kernel⟩,
   ⟨jobbed 6 1, 15, ⟨.pcie, 0, 1, 0, 0, 0⟩, by decide +kernel⟩,
   ⟨jobbed 6 3, 15, ⟨.pcie, 0, 3, 0, 0, 0⟩, by decide +kernel⟩,
   ⟨jobbed 6 2, 15, ⟨.pcie, 0, 2, 0, 0, 0⟩, by decide +kernel⟩⟩

theorem witness_References :
    (∃ (s : State), s.pluRuns = true) ∧
    (∃ (s : State) (r : Fin 32) (t0 : Nat), s.pluRuns = true ∧ (s.ref r).from_ = some t0 ∧
        t0 + s.windowLen r ≤ s.windowDue r ∧ s.is (fPLU_REF_STATUS_PRESENT r) = true ∧ s.refValid r = true) ∧
    (∃ (s : State) (r : Fin 32), s.pluRuns = true ∧ (s.ref r).from_ = none) ∧
    (∃ (s : State) (r : Fin 32) (c : Nat), s.pluRuns = true ∧ (s.ref r).goodSince = some c ∧
        fld (s.reg (aPLU_REF_STATUS r)) 0 3 = 7 ∧ fld (s.reg (aPLU_REF_STATUS r)) 4 2 = 0 ∧ s.plu.oscin = true) ∧
    (∃ (s : State) (r : Fin 32) (c : Nat), s.pluRuns = true ∧ (s.ref r).agreeSince = some c ∧
        s.is (fPLU_REF_STATUS_FREQ_DISAGREE r) = true) ∧
    (∃ (s : State) (r : Fin 32) (c : Nat), s.pluRuns = true ∧ (s.ref r).holdEnd = some c) :=
  ⟨⟨base, by decide +kernel⟩,
   ⟨(bs [(fPLU_REF_STATUS_PRESENT 27, 1), (fPLU_REFIN_CFG_EN 3, 1)]).modRef 27 fun x =>
       { x with from_ := some 0, window := some 0 }, 27, 0, by decide +kernel⟩,
   ⟨base, 31, by decide +kernel⟩,
   ⟨(bs [(⟨aPLU_REF_STATUS 31, 0, 3⟩, 7)]).modRef 31 fun x => { x with goodSince := some 3 }, 31, 3,
       by decide +kernel⟩,
   ⟨(bs [(fPLU_REF_STATUS_FREQ_DISAGREE 31, 1)]).modRef 31 fun x => { x with agreeSince := some 3 }, 31, 3,
       by decide +kernel⟩,
   ⟨(bs [(fPLU_REF_STATUS_ACQ_HOLD 31, 1)]).modRef 31 fun x => { x with holdEnd := some 3 }, 31, 3,
       by decide +kernel⟩⟩

theorem witness_PlumbStates :
    (∃ (s : State) (err : Int), s.pluRuns = true ∧ s.get fPLU_STATE_STATE = 1 ∧ err.natAbs ≤ s.get fPLU_LOCK_THR ∧
        s.is fPLU_STATE_PULLING = true ∧ s.settleStep.pullCycles.isSome = true) ∧
    (∃ (s : State) (err : Int), s.pluRuns = true ∧ s.get fPLU_STATE_STATE = 1 ∧ err.natAbs ≤ s.get fPLU_LOCK_THR ∧
        s.is fPLU_STATE_PULLING = false) ∧
    (∃ (s : State) (err : Int), s.pluRuns = true ∧ s.get fPLU_STATE_STATE = 2 ∧ s.get fPLU_LOCK_THR < err.natAbs) ∧
    (∃ (s : State) (err : Int), s.pluRuns = true ∧ s.get fPLU_STATE_STATE = 1 ∧ s.is fPLU_STATE_PULLING = false ∧
        s.get fPLU_LOCK_THR < err.natAbs) ∧
    (∃ (s : State), s.pluRuns = true ∧ s.get fPLU_STATE_STATE = 1 ∧ s.selEntry < 16 ∧ s.get fPLU_STATE_SEL_REF < 32) ∧
    (∃ (s : State) (e : Fin 16) (c : Nat) (x : Nat) (u : State), s.pluRuns = true ∧
        (s.ref (s.get (fPLU_PRIO_REF e))).qualAt = some c ∧ s.isCand e = true ∧
        u = s.waitClk (c + cyclesSec * s.get (fPLU_PRIO_WTR e)) ∧ s.is fPLU_CTRL_EN = true ∧
        s.is fPLU_CTRL_FORCE_HOLD = false ∧ s.selEntry < 16 ∧ s.isCand s.selEntry = true ∧
        s.get (fPLU_PRIO_REF s.selEntry) = s.get fPLU_STATE_SEL_REF ∧
        u.bestEntry ((List.range 16).filter fun e => u.isCand e && u.get (fPLU_PRIO_PRIO e) < u.get (fPLU_PRIO_PRIO u.selEntry) && u.is (fPLU_PRIO_REVERT e) && (match (u.ref (u.get (fPLU_PRIO_REF e))).qualAt with | some c => cyclesSec * u.get (fPLU_PRIO_WTR e) ≤ u.clk - c | none => false)) = some x ∧ x < 16) ∧
    (∃ (s : State) (c : Nat), s.pluRuns = true ∧ s.plu.holdFrom = some c ∧ s.get fPLU_STATE_STATE = 3 ∧
        s.get fPLU_HOLD_LIMIT ≠ 0) ∧
    (∃ (s : State), s.pluRuns = true ∧ s.get fPLU_STATE_STATE = 4 ∧ s.plu.oscin = true ∧
        s.is fPLU_STATE_HIST_VALID = false ∧ s.plu.limitHit = false) ∧
    (∃ (s : State) (t0 : Nat), s.pluRuns = true ∧ s.plu.lockedSince = some t0 ∧ s.get fPLU_STATE_STATE = 2) :=
  ⟨⟨bs [(fPLU_STATE_STATE, 1), (fPLU_STATE_PULLING, 1)], 0, by decide +kernel⟩,
   ⟨bs [(fPLU_STATE_STATE, 1)], 0, by decide +kernel⟩,
   ⟨bs [(fPLU_STATE_STATE, 2)], -2147483648, by decide +kernel⟩,
   ⟨bs [(fPLU_STATE_STATE, 1)], -2147483648, by decide +kernel⟩,
   ⟨bs [(fPLU_STATE_STATE, 1), (fPLU_STATE_SEL_ENTRY, 15), (fPLU_STATE_SEL_REF, 31)], by decide +kernel⟩,
   ⟨wtrState, 15, 0, 15, wtrState,
       by and_intros <;> first | decide +kernel | exact (if_neg (by decide +kernel)).symm⟩,
   ⟨{ bs [(fPLU_STATE_STATE, 3), (fPLU_HOLD_LIMIT, 1)] with plu := { holdFrom := some 2 } }, 2, by decide +kernel⟩,
   ⟨bs [(fPLU_STATE_STATE, 4)], by decide +kernel⟩,
   ⟨{ bs [(fPLU_STATE_STATE, 2)] with plu := { lockedSince := some 0 } }, 0, by decide +kernel⟩⟩

theorem witness_PlumbControls :
    (∃ (s : State), s.takes .pcie aPLU_CTRL = true) ∧
    (∃ (s : State), s.takes .pcie aPLU_CTRL = true ∧ s.plu.oscin = true) ∧
    (∃ (s : State), s.takes .pcie aPLU_PHASE_STEP = true) ∧
    (∃ (s : State), s.held 12 = false ∧ s.cold = false ∧ s.nat aPLU_PHASE_STEP ≠ 0 ∧ s.get fPLU_LOOP_SLOPE ≠ 0) ∧
    (∃ (s : State) (v : Word) (k : Fin 4), s.takes .pcie (aPLU_CLKOUT k) = true ∧ (¬ (k = 3 ∧
        s.is (fPLU_CLKOUT_TIME_OWNED 3) = true ∧ fld v 0 3 ≠ 0 ∧ fld v 0 3 ≠ 7))) ∧
    (∃ (s : State) (v : Word) (k : Fin 4), s.takes .pcie (aPLU_CLKOUT k) = true ∧ k = 3 ∧
        s.is (fPLU_CLKOUT_TIME_OWNED 3) = true ∧ fld v 0 3 ≠ 0 ∧ fld v 0 3 ≠ 7) :=
  ⟨⟨base, by decide +kernel⟩,
   ⟨base, by decide +kernel⟩,
   ⟨base, by decide +kernel⟩,
   ⟨putW base [(aPLU_PHASE_STEP, 5)], by decide +kernel⟩,
   ⟨base, 1, 3, by decide +kernel⟩,
   ⟨bs [(fPLU_CLKOUT_TIME_OWNED 3, 1)], 1, 3, by decide +kernel⟩⟩

theorem witness_TimeBases :
    (∃ (s : State) (x : Fin 3) (k : _), s.cold = false ∧ (s.get (fTbState x) = 2 ∨ s.get (fTbState x) = 3) ∧
        s.get (fTIME_TB_SERVO_SRC x) ≠ 4 ∧ s.tb[x.val]? = some k) ∧
    (∃ (s : State) (x : Fin 3) (v : _), s.takes .pcie (aTIME_TB_SERVO x) = true ∧ s.servoOk x v = false) ∧
    (∃ (s : State) (x : Fin 3) (v : _), s.takes .pcie (aTIME_TB_SERVO x) = true ∧ s.servoOk x v = true) ∧
    (∃ (s : State) (x : Fin 3) (k : _), s.cold = false ∧ s.tb[x.val]? = some k ∧ k.servo.count = 0 ∧ (∀ y : Fin 3,
        s.get (fTIME_TB_SERVO_SRC y) ≠ 4)) ∧
    (∃ (s : State) (x : Fin 3) (k : _) (m : _), s.cold = false ∧ s.tb[x.val]? = some k ∧ k.servo.count ≠ 0 ∧
        (∀ y : Fin 3, s.get (fTIME_TB_SERVO_SRC y) ≠ 4) ∧ s.is (fTIME_TB_SERVO_STEP_EN x) = false ∧
        s.get (fTbState x) = 2 ∧ m = divNear k.servo.sum (unitsPerPs * k.servo.count) ∧
        m.natAbs ≤ s.get (fTIME_TB_LOCK_LOCK_THR x)) :=
  ⟨⟨bs [(fTbState 2, 2), (fTIME_TB_SERVO_SRC 2, 5)], 2, { }, by decide +kernel⟩,
   ⟨base, 2, 2, by decide +kernel⟩,
   ⟨base, 0, 2, by decide +kernel⟩,
   ⟨base, 2, { }, by decide +kernel⟩,
   ⟨servoed, 2, { servo := { sum := 0, count := 1 } }, 0, by decide +kernel⟩⟩

theorem witness_OffsetSamples :
    (∃ (s : State) (x : Fin 3) (b : Source) (k : _), s.takes b (aTIME_TB_HOST_OFS x) = true ∧
        s.get (fTIME_TB_SERVO_SRC x) = 5 ∧ s.timeAccepts = true ∧ s.tb[x.val]? = some k) ∧
    (∃ (s : State) (i : Fin 4) (ps : Nat), s.up = true ∧ s.get (fPLU_REFIN_CFG_FREQ i) = 0 ∧
        s.is (fPLU_REFIN_CFG_EN i) = true ∧ ps ≤ 1599 ∧ ∀ y : Fin 3, s.get (fTIME_TB_SERVO_SRC y) ≠ 3) ∧
    (∃ (s : State) (i : Fin 4) (ps : Nat) (x : Fin 3) (k : _), s.up = true ∧ s.get (fPLU_REFIN_CFG_FREQ i) = 0 ∧
        s.is (fPLU_REFIN_CFG_EN i) = true ∧ ps ≤ 1599 ∧ s.get (fTIME_TB_SERVO_SRC x) = 3 ∧
        s.get (fTIME_TB_SERVO_IDX x) = i ∧ s.timeAccepts = true ∧ s.tb[x.val]? = some k) :=
  ⟨⟨bs [(fTIME_TB_SERVO_SRC 2, 5)], 2, .pcie, { }, by decide +kernel⟩,
   ⟨bs [(fPLU_REFIN_CFG_EN 3, 1), (fPLU_REFIN_CFG_FREQ 3, 0)], 3, 1599, by decide +kernel⟩,
   ⟨bs [(fPLU_REFIN_CFG_EN 3, 1), (fPLU_REFIN_CFG_FREQ 3, 0), (fTIME_TB_SERVO_SRC 2, 3), (fTIME_TB_SERVO_IDX 2, 3)],
       3, 1599, 2, { }, by decide +kernel⟩⟩

theorem witness_TimeSteps :
    (∃ (s : State) (x : Fin 3) (b : Source) (t80 : Time80) (k : _), s.takes b (aTIME_TB_SET x) = true ∧
        s.tb[x.val]? = some k ∧ t80.ns ≤ 999999999 ∧ t80.sec < 2 ^ 48) ∧
    (∃ (s : State) (x : Fin 3) (b : Source) (t80 : Time80) (k : _), s.takes b (aTIME_TB_SET x) = true ∧
        s.tb[x.val]? = some k ∧ 999999999 < t80.ns) ∧
    (∃ (s : State) (x : Fin 3) (b : Source) (d : _) (k : _), s.takes b (aTIME_TB_STEP x) = true ∧
        s.tb[x.val]? = some k ∧ 0 ≤ (k.acc : Int) + d * (unitsPerNs : Int) ∧
        (k.acc : Int) + d * unitsPerNs < ((unitsPerNs * (1000000000 * 2 ^ 48) : Nat) : Int)) ∧
    (∃ (s : State) (x : Fin 3) (b : Source) (d : _) (k : _), s.takes b (aTIME_TB_STEP x) = true ∧
        s.tb[x.val]? = some k ∧ (k.acc : Int) + d * (unitsPerNs : Int) < 0) :=
  ⟨⟨base, 2, .pcie, ⟨5, 999999999⟩, { }, by decide +kernel⟩,
   ⟨base, 2, .pcie, ⟨5, 1000000000⟩, { }, by decide +kernel⟩,
   ⟨base, 0, .pcie, 0, { }, by decide +kernel⟩,
   ⟨base, 2, .pcie, -1, { }, by decide +kernel⟩⟩

theorem witness_OscinEvents :
    (∃ (s : State), s.cold = false) ∧
    (∃ (s : State), s.cold = false ∧ s.plu.oscin = false) ∧
    (∃ (s : State) (c : Nat), s.cold = false ∧ s.plu.oscin = true ∧ s.plu.oscinBack = some c ∧
        s.is fTIME_STATUS_OSCIN_WAIT = true) :=
  ⟨⟨base, by decide +kernel⟩,
   ⟨{ base with plu := { oscin := false } }, by decide +kernel⟩,
   ⟨{ bs [(fTIME_STATUS_OSCIN_WAIT, 1)] with plu := { oscinBack := some 4 } }, 4, by decide +kernel⟩⟩

theorem witness_TimeServices :
    (∃ (s : State), s.cold = false ∧ s.utcAt ≠ 0 ∧ s.utcOfs = s.getI fTIME_UTC_NEXT) ∧
    (∃ (s : State), s.cold = false ∧ s.utcAt ≠ 0 ∧ s.utcOfs ≠ s.getI fTIME_UTC_NEXT ∧ s.tb0Sec < s.utcAt ∧
        (s.utcAt : Int) < (((s.lane 0).pmon.ent 0).cur15.start : Int) + ((s.lane 0).pmon.ent 0).cur15.nominal + (s.getI fTIME_UTC_NEXT - s.utcOfs) ∧ (s.utcAt : Int) < (((s.lane 0).pmon.ent 0).cur24.start : Int) + ((s.lane 0).pmon.ent 0).cur24.nominal + (s.getI fTIME_UTC_NEXT - s.utcOfs)) ∧
    (∃ (s : State) (n : Lane), s.up = true ∧ s.is (fTIME_LANE_CFG_FALLBACK_EN n) = true ∧
        s.is (fTIME_LANE_CFG_KS_RANGE n) = true ∧ s.is (fTIME_LANE_STATUS_FALLBACK n) = false ∧
        (s.rxFmt n).family = 0) ∧
    (∃ (s : State) (p : Fin 64), s.up = true ∧ s.ptpOn p = true ∧ s.ptpPorts.obj (0x2210 + p.val) 6 3 = 9) ∧
    (∃ (s : State) (p : Fin 64), s.up = true ∧ s.ptpOn p = true ∧ s.ptpInstance p ≤ 2) ∧
    (∃ (s : State) (p : Fin 64) (m : PtpRx), s.up = true ∧ s.ptpOn p = true ∧ m.domain ≠ s.ptpDomain (s.ptpInstance p)) ∧
    (∃ (s : State) (p : Fin 64), s.up = true ∧ s.ptpOn p = true ∧ s.ptpPorts.obj (0x2210 + p.val) 6 3 = 6) ∧
    (∃ (s : State), s.takes .pcie aTIME_CTRL = true) ∧
    (∃ (s : State), s.takes .pcie aTIME_CTRL = true ∧ s.is fTIME_CTRL_PPS_EN = false ∧
        (s.get (fPLU_CLKOUT_FREQ 3) = 0 ∨ s.get (fPLU_CLKOUT_FREQ 3) = 7)) ∧
    (∃ (s : State), s.takes .pcie aTIME_CTRL = true ∧ s.is fTIME_CTRL_PPS_EN = false ∧
        s.get (fPLU_CLKOUT_FREQ 3) ≠ 0 ∧ s.get (fPLU_CLKOUT_FREQ 3) ≠ 7) ∧
    (∃ (s : State) (d : Fin 32), s.takes .pcie (aTIME_LAUNCH_CTRL d) = true) ∧
    (∃ (s : State) (d : Fin 32), s.up = true ∧ s.get (fTIME_LAUNCH_STATUS_PHASE d) = 1) ∧
    (∃ (s : State) (x : Nat), s.cold = false ∧ s.is fTIME_CTRL_PPS_EN = true ∧
        x = (if s.get fTIME_PPS_CFG_TB = 3 then 0 else s.get fTIME_PPS_CFG_TB) ∧
        (s.is fTIME_PPS_CFG_SQ = false ∨ s.get (fTbState x) = 3)) ∧
    (∃ (s : State) (x : Nat), s.cold = false ∧ s.is fTIME_CTRL_PPS_EN = true ∧
        x = (if s.get fTIME_PPS_CFG_TB = 3 then 0 else s.get fTIME_PPS_CFG_TB) ∧
        s.is fTIME_PPS_CFG_SQ = true ∧ s.get (fTbState x) ≠ 3) :=
  ⟨⟨putW base [(aTIME_UTC_AT, 100)], by decide +kernel⟩,
   ⟨put (putW base [(aTIME_UTC_AT, 100)]) [(fTIME_UTC_NEXT, 38)], by decide +kernel⟩,
   ⟨bs [(fTIME_LANE_CFG_FALLBACK_EN 7, 1), (fTIME_LANE_CFG_KS_RANGE 7, 1)], 7, by decide +kernel⟩,
   ⟨ptp 9, 63, by decide +kernel⟩,
   ⟨(ptp 6).setObj (0x2210 + 63) 2 [1], 63, by decide +kernel⟩,
   ⟨ptp 6, 63, ⟨25, .management⟩, by decide +kernel⟩,
   ⟨ptp 6, 63, by decide +kernel⟩,
   ⟨base, by decide +kernel⟩,
   ⟨base, by decide +kernel⟩,
   ⟨bs [(fPLU_CLKOUT_FREQ 3, 1)], by decide +kernel⟩,
   ⟨base, 31, by decide +kernel⟩,
   ⟨bs [(fTIME_LAUNCH_STATUS_PHASE 31, 1)], 31, by decide +kernel⟩,
   ⟨bs [(fTIME_CTRL_PPS_EN, 1), (fTIME_PPS_CFG_SQ, 1), (fTbState 0, 3)], 0, by decide +kernel⟩,
   ⟨bs [(fTIME_CTRL_PPS_EN, 1), (fTIME_PPS_CFG_SQ, 1)], 0, by decide +kernel⟩⟩

theorem witness_KeystoneTransmitter :
    (∃ (s : State) (n : Lane), s.takes .pcie (aKSC_CTRL n) = true) ∧
    (∃ (s : State) (n : Lane), s.kscState n = 2) ∧
    (∃ (s : State) (n : Lane), s.kscState n ≠ 0 ∧ s.is (fTXD_STATE_KS_ON n) = true ∧
        s.is (fKSC_CTRL_BEACON_EN n) = true) ∧
    (∃ (s : State) (n : Lane), s.kscState n = 2 ∧ s.is (fTXD_STATE_KS_ON n) = true ∧
        s.is (fKSC_CTRL_RANGE_EN n) = true) ∧
    (∃ (s : State) (n : Lane) (p : _), s.kscState n ≠ 0 ∧ s.is (fTXD_STATE_KS_ON n) = true ∧
        (s.ksc n).sending = none ∧ s.safe n = false ∧ (s.ksc n).resp = none ∧
        ksFirst ((s.ksc n).queue.filter fun p => p.type != 1 || s.ksEgress n) = some p) ∧
    (∃ (s : State) (n : Lane) (r : _), s.kscState n ≠ 0 ∧ s.is (fTXD_STATE_KS_ON n) = true ∧
        (s.ksc n).sending = none ∧ s.safe n = false ∧ (s.ksc n).resp = some r ∧ (s.ksc n).queue = []) ∧
    (∃ (s : State) (n : Lane) (p : _), (s.ksc n).sending = some p ∧ p.type ≠ 0) ∧
    (∃ (s : State) (n : Lane) (bytes : List Byte), s.laneUp n = true ∧ s.held 11 = false ∧
        s.is (fKSC_CTRL_MGMT_EN n) = true ∧ bytes.length ≤ 1024 ∧
        (if (s.ksc n).sending.isSome then s.is (fKSC_STATE_EGRESS n) else s.ksEgress n) = true ∧ bytes ≠ [] ∧
        s.is (fTXD_STATE_KS_ON n) = true ∧ s.kscState n ≠ 0) ∧
    (∃ (s : State) (n : Lane) (bytes : List Byte), s.laneUp n = true ∧ s.held 11 = false ∧
        s.is (fKSC_CTRL_MGMT_EN n) = true ∧ bytes.length ≤ 1024 ∧
        (if (s.ksc n).sending.isSome then s.is (fKSC_STATE_EGRESS n) else s.ksEgress n) = false) ∧
    (∃ (s : State) (n : Lane) (bytes : List Byte), s.laneUp n = true ∧ s.held 11 = false ∧
        s.mccHolds n = true ∧ bytes.length ≤ 1024 ∧
        (if (s.ksc n).sending.isSome then s.is (fKSC_STATE_EGRESS n) else s.ksEgress n) = false) ∧
    (∃ (s : State) (n : Lane) (p : _), ((s.ksc n).queue.find? fun q => q.type == 1) = some p) :=
  ⟨⟨base, 7, by decide +kernel⟩,
   ⟨bs [(fKSC_STATE_STATE 7, 2)], 7, by decide +kernel⟩,
   ⟨bs [(fKSC_STATE_STATE 7, 1), (fTXD_STATE_KS_ON 7, 1), (fKSC_CTRL_BEACON_EN 7, 1)], 7, by decide +kernel⟩,
   ⟨bs [(fKSC_STATE_STATE 7, 2), (fTXD_STATE_KS_ON 7, 1), (fKSC_CTRL_RANGE_EN 7, 1)], 7, by decide +kernel⟩,
   ⟨(keystone { queue := [⟨0, [9], 0⟩] }), 7, ⟨0, [9], 0⟩, by decide +kernel⟩,
   ⟨(keystone { resp := some (1, 2, 3) }), 7, (1, 2, 3), by decide +kernel⟩,
   ⟨(keystone { sending := some ⟨1, 0, 9, 12, []⟩ }), 7, ⟨1, 0, 9, 12, []⟩, by decide +kernel⟩,
   ⟨put (keystone { }) [(fKSC_CTRL_MGMT_EN 7, 1)], 7, List.replicate 1024 1, by decide +kernel⟩,
   ⟨put (keystone { }) [(fKSC_CTRL_MGMT_EN 7, 1), (fLFR_CTRL_MCC_EN 7, 1), (fLFR_STATE_ALIGN 7, 2),
       (fLFR_STATE_MF_LOCK 7, 1)], 7, [], by decide +kernel⟩,
   ⟨put (keystone { }) [(fLFR_CTRL_MCC_EN 7, 1), (fLFR_STATE_ALIGN 7, 2), (fLFR_STATE_MF_LOCK 7, 1)], 7, [],
       by decide +kernel⟩,
   ⟨(keystone { queue := [⟨1, [9], 4⟩] }), 7, ⟨1, [9], 4⟩, by decide +kernel⟩⟩

theorem witness_KeystoneReceiver :
    (∃ (s : State) (n : Lane) (chan : Int) (peak : KsPeak) (bin : Nat), s.kscState n ≠ 0 ∧ chan.natAbs ≤ 63 ∧
        s.ksBin n peak = some bin ∧ (s.ksc n).rx = none) ∧
    (∃ (s : State) (n : Lane) (chan : Int) (peak : KsPeak) (bin : Nat) (r : _), s.kscState n ≠ 0 ∧ chan.natAbs ≤ 63 ∧
        s.ksBin n peak = some bin ∧ (s.ksc n).rx = some r ∧ r.chan ≠ chan ∧ r.phase ≠ 4 ∧ (s.ksc n).cand = none) ∧
    (∃ (s : State) (n : Lane) (peak : KsPeak), s.ksBin n peak = none) ∧
    (∃ (s : State) (n : Lane) (r : _), (s.ksc n).rx = some r ∧ r.phase = 1) ∧
    (∃ (s : State) (n : Lane) (r : _), (s.ksc n).cand = some r ∧ r.phase = 1) ∧
    (∃ (s : State) (n : Lane) (r : _) (cand : _) (a : _) (b : _), s.ksWhich n cand = some r ∧ r.phase = 2 ∧
        nearShift (clampN 10 16 (s.get (fKSC_CFG_RX_SF n))) a (ksSync (clampN 10 16 (s.get (fKSC_CFG_RX_SF n))) (s.nat (aKSC_NETID n) % 4096)).1 = true ∧ nearShift (clampN 10 16 (s.get (fKSC_CFG_RX_SF n))) b (ksSync (clampN 10 16 (s.get (fKSC_CFG_RX_SF n))) (s.nat (aKSC_NETID n) % 4096)).2 = true) ∧
    (∃ (s : State) (n : Lane) (r : _) (header : KsBlock) (h : List Byte), (s.ksc n).rx = some r ∧ r.phase = 3 ∧
        h = sliceBytes (s.ksRead n header 0 64) 0 8 ∧ crc16 (h.take 6) ≠ fieldBytes h 6 2) ∧
    (∃ (s : State) (n : Lane) (r : _) (header : KsBlock) (h : List Byte), (s.ksc n).rx = some r ∧ r.phase = 3 ∧
        h = sliceBytes (s.ksRead n header 0 64) 0 8 ∧ crc16 (h.take 6) = fieldBytes h 6 2 ∧
        fieldBytes h 2 2 % 2048 ≠ 0) ∧
    (∃ (s : State) (n : Lane) (r : _) (block : KsBlock) (bytes : List Byte) (len : Nat), (s.ksc n).rx = some r ∧
        r.phase = 4 ∧ len = fieldBytes r.header 2 2 % 2048 ∧ bytes = s.ksRead n block 576 (8 * (len + 4)) ∧
        pcrc (sliceBytes bytes 0 len) ≠ fieldBytes bytes len 4) ∧
    (∃ (s : State) (n : Lane) (r : _) (block : KsBlock) (bytes : List Byte) (len : Nat), (s.ksc n).rx = some r ∧
        r.phase = 4 ∧ len = fieldBytes r.header 2 2 % 2048 ∧ bytes = s.ksRead n block 576 (8 * (len + 4)) ∧
        pcrc (sliceBytes bytes 0 len) = fieldBytes bytes len 4) ∧
    (∃ (s : State) (n : Lane) (q : _) (rest : _), (s.ksc n).reqs = q :: rest) ∧
    (∃ (s : State) (n : Lane), s.kscState n ≠ 0 ∧ s.get (fKSC_FCRS_INFO_MATCH n) = 3 ∧
        s.get (fKSC_FCRS_INFO_STATE n) = 1 ∧ 1000000 + s.tb0 ≤ s.time80 (aKSC_FCRS_T n)) :=
  ⟨⟨keystone { }, 7, -63, .at_ 4095, 4095, by decide +kernel⟩,
   ⟨keystone { rx := some (heard 1) }, 7, 63, .at_ 0, 0, heard 1, by decide +kernel⟩,
   ⟨keystone { }, 7, .windows [[1], [2]], by decide +kernel⟩,
   ⟨keystone { rx := some (heard 1) }, 7, heard 1, by decide +kernel⟩,
   ⟨keystone { cand := some (heard 1) }, 7, heard 1, by decide +kernel⟩,
   ⟨keystone { rx := some (heard 2) }, 7, heard 2, false, (ksSync 12 1).1, (ksSync 12 1).2, by decide +kernel⟩,
   ⟨keystone { rx := some (heard 3) }, 7, heard 3, .bytes [0, 0, 0, 4, 0, 0, 0, 0], [0, 0, 0, 4, 0, 0, 0, 0], by decide +kernel⟩,
   ⟨keystone { rx := some (heard 3) }, 7, heard 3, .bytes goodHeader, goodHeader, by decide +kernel⟩,
   ⟨keystone { rx := some (heard 4) }, 7, heard 4, .bytes [1, 2, 3, 4, 0, 0, 0, 0],
       [1, 2, 3, 4, 0, 0, 0, 0], 4, by decide +kernel⟩,
   ⟨keystone { rx := some (heard 4) }, 7, heard 4, .bytes ([1, 2, 3, 4] ++ natBytes 4 (pcrc [1, 2, 3, 4])),
       [1, 2, 3, 4] ++ natBytes 4 (pcrc [1, 2, 3, 4]), 4, by decide +kernel⟩,
   ⟨keystone { reqs := [(1, 2, 3)] }, 7, (1, 2, 3), [], by decide +kernel⟩,
   ⟨putW (put (keystone { }) [(fKSC_FCRS_INFO_MATCH 7, 3), (fKSC_FCRS_INFO_STATE 7, 1)]) [(aKSC_FCRS_T 7,
       5000000)], 7, by decide +kernel⟩⟩

theorem witness_CornerstoneCounts :
    (∃ (s : State) (u : _) (rest : _), s.cst.ready = true ∧ s.cst.taps = u :: rest) ∧
    (∃ (s : State), s.cst.ready = true) ∧
    (∃ (s : State), s.cst.ready = true ∧ s.up = true) ∧
    (∃ (s : State), s.cst.ready = true ∧ s.cst.state = 0 ∧ 0 < s.cst.tb3.step) ∧
    (∃ (s : State) (n : Lane) (lat : Int) (locked : Bool), s.cst.ready = true ∧ s.up = true ∧
        s.cst.sample.getD n none = some (lat, locked)) ∧
    (∃ (s : State), s.cst.ready = true ∧ s.cold = false ∧ s.get fTIME_STATUS_TB0_STATE ≠ 3) ∧
    (∃ (s : State), s.cst.ready = true ∧ s.cold = false ∧ s.get fTIME_STATUS_TB0_STATE = 3 ∧ s.cst.state = 0) ∧
    (∃ (s : State), s.cst.ready = true ∧ s.cst.state = 3) ∧
    (∃ (s : State) (o : Int × Nat), s.cst.ready = true ∧ s.cst.slew = some o) ∧
    (∃ (s : State), s.cst.ready = true ∧ s.cst.state ≠ 0 ∧ 0 < s.cst.tb3.step ∧ 0 < s.cst.cur15.end_ ∧
        s.cst.cur15.end_ ≤ s.cst.sec ∧ s.cst.cur24.end_ = 0) ∧
    (∃ (s : State) (c : _) (rest : _), s.cst.ready = true ∧ s.cst.closed = c :: rest ∧ s.cst.state ≠ 0) ∧
    (∃ (s : State) (x : _) (rest : _) (b : _), s.cst.ready = true ∧ s.cst.snaps = x :: rest ∧
        x.bins.or s.cstBinsNow = some b) ∧
    (∃ (s : State) (k : Nat) (x : CstCheck), s.cst.ready = true ∧ s.cst.store.checks.length = 2 ∧ s.cst.store.newest = some (k, x)) :=
  ⟨⟨corner { taps := [⟨7, false, false, false, [], none⟩] }, ⟨7, false, false, false, [], none⟩, [],
      by decide +kernel⟩,
   ⟨corner { }, by decide +kernel⟩,
   ⟨corner { }, by decide +kernel⟩,
   ⟨corner { }, by decide +kernel⟩,
   ⟨corner { sample := setAt (List.replicate 8 none) 7 (some (5, true)) }, 7, 5, true, by decide +kernel⟩,
   ⟨corner { }, by decide +kernel⟩,
   ⟨put (corner { }) [(fTIME_STATUS_TB0_STATE, 3)], by decide +kernel⟩,
   ⟨corner { state := 3 }, by decide +kernel⟩,
   ⟨corner { slew := some (-5, 9), state := 3 }, (-5, 9), by decide +kernel⟩,
   ⟨corner { state := 3, sec := 900, cur15 := { end_ := 900 } }, by decide +kernel⟩,
   ⟨corner { state := 3, closed := [closedBin] }, closedBin, [], by decide +kernel⟩,
   ⟨corner { snaps := [⟨5, 900, 3, some ({ end_ := 900 }, none)⟩] }, ⟨5, 900, 3, some ({ end_ := 900 }, none)⟩, [],
       ({ end_ := 900 }, none), by decide +kernel⟩,
   ⟨corner { store := saved false }, 1, cstCheck 3 (aSave false), by decide +kernel⟩⟩

theorem witness_CornerstoneControl :
    (∃ (s : State) (b : Source), s.takes b aSEC_CST_RST = true ∧ s.cstBound b fSEC_CST_BOUND_RESET = true ∧
        s.cst.ready = true) ∧
    (∃ (s : State) (b : Source), s.takes b aSEC_CST_RST = true ∧ s.cstBound b fSEC_CST_BOUND_RESET = false) ∧
    (∃ (s : State) (k : Nat) (x : CstCheck) (v : CstSaved), s.cst.ready = false ∧ s.cst.store.newest = some (k, x) ∧
        v = s.cst.store.resume x.data ∧ v.timed = true) ∧
    (∃ (s : State) (k : Nat) (x : CstCheck) (v : CstSaved), s.cst.ready = false ∧ s.cst.store.newest = some (k, x) ∧
        v = s.cst.store.resume x.data ∧ v.timed = false ∧ v.cur15.id ≠ 0) ∧
    (∃ (s : State), s.takes .pcie aCST_PATCH_GO = true ∧ s.cstBound .pcie fSEC_CST_BOUND_PATCH = true ∧
        s.cst.ready = true) ∧
    (∃ (s : State), s.takes .pcie aCST_PATCH_GO = true ∧ s.cstBound .pcie fSEC_CST_BOUND_PATCH = false) ∧
    (∃ (s : State), s.cst.ready = true ∧ s.cst.verifying = true) ∧
    (∃ (s : State), s.takes .pcie aCST_SEL = true) ∧
    (∃ (s : State) (k : Nat) (x : Session), s.takes (.cop k) aCST_SEL = true ∧ s.session k = some x) :=
  ⟨⟨bound (corner { }), .pcie, by decide +kernel⟩,
   ⟨put (corner { }) [(fSEC_CST_BOUND_RESET, 0)], .pcie, by decide +kernel⟩,
   ⟨{ base with cst := { store := saved true } }, 1, cstCheck 3 (aSave true), aSave true, by decide +kernel⟩,
   ⟨{ base with cst := { store := saved false } }, 1, cstCheck 3 (aSave false), aSave false, by decide +kernel⟩,
   ⟨bound (corner { }), by decide +kernel⟩,
   ⟨put (corner { }) [(fSEC_CST_BOUND_PATCH, 0)], by decide +kernel⟩,
   ⟨corner { verifying := true }, by decide +kernel⟩,
   ⟨base, by decide +kernel⟩,
   ⟨sessioned, 7, aSession, by decide +kernel⟩⟩

theorem witness_Housekeeping :
    (∃ (s : State) (i : Fin 4) (x : Fin 2), s.hkm.convs.length = 2 ∧ s.hkm.pwm.length = 8 ∧ s.hkmOn x = true ∧
        s.is (fHKM_TMR_EN i) = true ∧ (x = 1 → s.ilvOn = false) ∧ s.get (fHKM_TRIG_SRC x) = 1 ∧
        s.get (fHKM_TRIG_IDX x) = i) ∧
    (∃ (s : State) (k : Fin 8) (falling : Bool) (x : Fin 2), s.hkm.convs.length = 2 ∧ s.hkm.pwm.length = 8 ∧
        s.hkmOn x = true ∧ s.pwmMode k ≠ 0 ∧ (x = 1 → s.ilvOn = false) ∧ s.get (fHKM_TRIG_SRC x) = 2 ∧
        s.get (fHKM_TRIG_IDX x) = k ∧ s.is (fHKM_TRIG_EDGE x) = falling ∧ (s.hkmConv x).slot = none ∧
        (s.hkmConv x).startAt = none ∧ (pwmPeriod (s.get (fHKM_PWM_CFG_PERIOD k)) (s.nat (aHKM_PWM_DUTY k))).2 ≠ 0) ∧
    (∃ (s : State) (k : Fin 8), s.hkm.convs.length = 2 ∧ s.hkm.pwm.length = 8 ∧ (s.hkm.pwm.getD k (2000, 0)).2 = 0 ∧
        s.nat (aHKM_PWM_DUTY k) = 0) ∧
    (∃ (s : State) (x : Fin 2) (c : Nat), s.hkm.convs.length = 2 ∧ s.hkm.pwm.length = 8 ∧ s.hkmOn x = true ∧
        (s.hkmConv x).slot = none ∧ (x = 1 → s.ilvOn = false) ∧ (s.hkmConv x).startAt = some c) ∧
    (∃ (s : State) (x : Fin 2), s.hkm.convs.length = 2 ∧ s.hkm.pwm.length = 8 ∧ s.hkmOn x = true ∧
        (s.hkmConv x).slot = none ∧ (x = 1 → s.ilvOn = false) ∧ (s.hkmConv x).startAt = none ∧
        s.get (fHKM_TRIG_SRC x) = 0) ∧
    (∃ (s : State) (x : Fin 2) (j word : Nat), s.hkm.convs.length = 2 ∧ s.hkm.pwm.length = 8 ∧ s.hkmOn x = true ∧
        (s.hkmConv x).slot = some j ∧ j < 32 ∧
        word = ((s.hkmConv x).old).getD (s.nat (aHKM_SLOT (s.hkmList x) j))) ∧
    (∃ (s : State) (x : Fin 2), s.hkm.convs.length = 2 ∧ s.hkm.pwm.length = 8 ∧ s.cold = false ∧
        s.allowed .pcie false (aHKM_RESULT x) = true) ∧
    (∃ (s : State) (k : Fin 8) (v : Word), s.hkm.convs.length = 2 ∧ s.hkm.pwm.length = 8 ∧
        s.takes .pcie (aHKM_PWM_CFG k) = true ∧ (fld v 0 2 = 1 ∧ s.pwmMode k = 2 ∨ fld v 0 2 = 2 ∧ s.pwmMode k = 1)) ∧
    (∃ (s : State) (k : Fin 8) (v : Word), s.hkm.convs.length = 2 ∧ s.hkm.pwm.length = 8 ∧
        s.takes .pcie (aHKM_PWM_CFG k) = true ∧ fld v 0 2 < 3 ∧ fld v 0 2 + s.pwmMode k ≠ 3) ∧
    (∃ (s : State) (k : Fin 8), s.hkm.convs.length = 2 ∧ s.hkm.pwm.length = 8 ∧ s.hkmRuns = true ∧ s.pwmMode k ≠ 0 ∧
        s.hkm.pwmFrom.length = 8 ∧ s.clk ≤ s.pwmPeriodEnd k) ∧
    (∃ (s : State), s.hkm.convs.length = 2 ∧ s.hkm.pwm.length = 8 ∧ s.takes .pcie aHKM_CTRL = true) ∧
    (∃ (s : State) (x : Fin 2) (v : Word), s.hkm.convs.length = 2 ∧ s.hkm.pwm.length = 8 ∧
        s.takes .pcie (aHKM_TRIG x) = true ∧ (fld v 0 2 = 3 ∨ fld v 0 2 = 1 ∧ 4 ≤ fld v 2 3)) ∧
    (∃ (s : State) (x : Fin 2) (v : Word), s.hkm.convs.length = 2 ∧ s.hkm.pwm.length = 8 ∧
        s.takes .pcie (aHKM_TRIG x) = true ∧ (fld v 0 2 = 0 ∨ fld v 0 2 = 2 ∨ fld v 0 2 = 1 ∧ fld v 2 3 < 4)) :=
  ⟨⟨bs [(fHKM_CTRL_A_EN, 1), (fHKM_TMR_EN 3, 1), (fHKM_TRIG_SRC 0, 1), (fHKM_TRIG_IDX 0, 3)], 3, 0,
      by decide +kernel⟩,
   ⟨putW (bs [(fHKM_CTRL_B_EN, 1), (fHKM_PWM_CFG_MODE 7, 1), (fHKM_TRIG_SRC 1, 2), (fHKM_TRIG_IDX 1, 7),
       (fHKM_TRIG_EDGE 1, 1)]) [(aHKM_PWM_DUTY 7, 0x8000)], 7, true, 1, by decide +kernel⟩,
   ⟨bs [(fHKM_PWM_CFG_MODE 7, 1)], 7, by decide +kernel⟩,
   ⟨{ bs [(fHKM_CTRL_A_EN, 1)] with hkm := { convs := [{ startAt := some 6 }, { }] } }, 0, 6, by decide +kernel⟩,
   ⟨bs [(fHKM_CTRL_B_EN, 1)], 1, by decide +kernel⟩,
   ⟨{ bs [(fHKM_CTRL_B_EN, 1)] with hkm := { convs := [{ }, { slot := some 31, old := some 5 }] } }, 1, 31, 5, by decide +kernel⟩,
   ⟨bs [(fHKM_RESULT_NEW 1, 1)], 1, by decide +kernel⟩,
   ⟨bs [(fHKM_PWM_CFG_MODE 7, 2)], 7, 1, by decide +kernel⟩,
   ⟨base, 7, 0x30001, by decide +kernel⟩,
   ⟨bs [(fHKM_PWM_CFG_MODE 7, 2)], 7, by decide +kernel⟩,
   ⟨base, by decide +kernel⟩,
   ⟨base, 1, 0x11, by decide +kernel⟩,
   ⟨base, 1, 0x0D, by decide +kernel⟩⟩

theorem witness_Calibration :
    (∃ (s : State) (temps : List Int), s.calUp = true ∧ temps.length = 24) ∧
    (∃ (s : State) (b : Source) (v : Word), s.takes b aCAL_CMD = true ∧ v.getLsbD 17 = false ∧
        s.is fCAL_STATUS_SAFE = false ∧ (s.calState = 0 ∨ s.calState = 5 ∨ s.calState = 6) ∧ fld v 0 6 ≠ 0) ∧
    (∃ (s : State) (b : Source) (v : Word), s.takes b aCAL_CMD = true ∧ v.getLsbD 17 = false ∧
        s.is fCAL_STATUS_SAFE = true) ∧
    (∃ (s : State) (b : Source), s.takes b aCAL_CMD = true ∧ s.is fCAL_STATUS_SAFE = true) ∧
    (∃ (s : State) (b : Source) (r : CalRun), s.takes b aCAL_CMD = true ∧ s.is fCAL_STATUS_SAFE = false ∧
        s.cal.run = some r ∧ s.calState = 2 ∧
        r.inStep = true) ∧
    (∃ (s : State) (b : Source) (r : CalRun), s.takes b aCAL_CMD = true ∧ s.is fCAL_STATUS_SAFE = false ∧
        s.cal.run = some r ∧ s.calState = 1 ∧
        r.holds = false) ∧
    (∃ (s u : State) (r : CalRun) (temps : List Int) (i : _), s.cal.run = some r ∧ s.calUp = true ∧ s.calState = 1 ∧
        u = s.sensRead temps ∧ u.precond r.items (Fin.ofNat 8 r.lane) = some i ∧ r.holds = false ∧
        (i = 5 → u.sensHistory = true)) ∧
    (∃ (s u : State) (r : CalRun) (temps : List Int), s.cal.run = some r ∧ s.calUp = true ∧ s.calState = 1 ∧
        u = s.sensRead temps ∧ u.precond r.items (Fin.ofNat 8 r.lane) = some 5 ∧ u.sensHistory = false) ∧
    (∃ (s u : State) (r : CalRun) (temps : List Int), s.cal.run = some r ∧ s.calUp = true ∧ s.calState = 1 ∧
        u = s.sensRead temps ∧ u.precond r.items (Fin.ofNat 8 r.lane) = none) ∧
    (∃ (s : State) (r : CalRun), s.cal.run = some r ∧ s.calUp = true ∧ s.calState = 2 ∧ r.inStep = true ∧
        r.holds = false ∧ r.waits = false ∧ (s.lane (Fin.ofNat 8 r.lane)).conv.calAborted = [] ∧ r.abort = true) ∧
    (∃ (s : State) (r : CalRun) (temps : List Int), s.cal.run = some r ∧ s.calUp = true ∧ s.calState = 2 ∧
        r.inStep = true ∧ r.holds = false ∧ r.waits = false ∧ (s.lane (Fin.ofNat 8 r.lane)).conv.calAborted = [] ∧
        r.abort = false ∧ (s.sensRead temps).precond r.items (Fin.ofNat 8 r.lane) = none ∧ stepPos (r.step + 1) = 64 ∧ r.step < 1039 ∧
        s.spareBusy (Fin.ofNat 8 r.lane) (stepHalf (r.step + 1)) = false) ∧
    (∃ (s : State) (r : CalRun), s.cal.run = some r ∧ s.calUp = true ∧ s.calState = 2 ∧ r.inBlocks = true ∧
        r.block ≤ 7 ∧ nextBlock r.items (r.block + 1) = none) ∧
    (∃ (s : State) (r : CalRun) (temps : List Int) (i : Nat), s.cal.run = some r ∧ s.calUp = true ∧ s.calState = 2 ∧
        r.inBlocks = true ∧ r.block < 7 ∧ nextBlock r.items (r.block + 1) = some i ∧
        (s.sensRead temps).precond r.items (Fin.ofNat 8 r.lane) = none) ∧
    (∃ (s : State) (r : CalRun) (temps : List Int) (i k : Nat), s.cal.run = some r ∧ s.calUp = true ∧ s.calState = 2 ∧
        r.inBlocks = true ∧ r.block < 7 ∧ nextBlock r.items (r.block + 1) = some i ∧ r.holds = false ∧
        (s.sensRead temps).precond r.items (Fin.ofNat 8 r.lane) = some k) ∧
    (∃ (s : State) (r : CalRun), s.cal.run = some r ∧ s.calUp = true ∧ s.calState = 3 ∧ Nat.land r.items 3 = 0 ∧
        s.is fCAL_QUARRY_WORN = false) ∧
    (∃ (s : State) (r : CalRun) (eye : Nat), s.cal.run = some r ∧ s.calUp = true ∧ s.calState = 3 ∧
        Nat.land r.items 3 ≠ 0 ∧ eye < 7000 ∧ s.is fCAL_CTRL_QGATE = true ∧ r.holds = false) ∧
    (∃ (s : State) (r : CalRun), s.cal.run = some r ∧ s.calUp = true ∧ s.calState = 4 ∧ s.sec.nvLow = false) :=
  ⟨⟨base, List.replicate 24 (-2), by decide +kernel⟩,
   ⟨base, .pcie, 0x120, by decide +kernel⟩,
   ⟨bs [(fCAL_STATUS_SAFE, 1)], .pcie, 0x120, by decide +kernel⟩,
   ⟨bs [(fCAL_STATUS_SAFE, 1)], .pcie, by decide +kernel⟩,
   ⟨calibrating 2 calRun, .pcie, calRun, by decide +kernel⟩,
   ⟨calibrating 1 calRun, .pcie, calRun, by decide +kernel⟩,
   ⟨unsteady, unsteady, { calRun with items := 32 }, [], 5, by and_intros <;> first | rfl | decide +kernel⟩,
   ⟨calibrating 1 { calRun with items := 32 }, _, { calRun with items := 32 }, [], by and_intros <;> first | rfl | decide +kernel⟩,
   ⟨calibrating 1 calRun, _, calRun, [], by and_intros <;> first | rfl | decide +kernel⟩,
   ⟨calibrating 2 { calRun with abort := true }, { calRun with abort := true }, by decide +kernel⟩,
   ⟨calibrating 2 { calRun with step := 63 }, { calRun with step := 63 }, [], by decide +kernel⟩,
   ⟨calibrating 2 (blocked 16 5), blocked 16 5, by decide +kernel⟩,
   ⟨calibrating 2 (blocked 16 4), blocked 16 4, [], 5, by decide +kernel⟩,
   ⟨calibrating 2 (blocked 48 5), blocked 48 5, [], 6, 5, by decide +kernel⟩,
   ⟨calibrating 3 calRun, calRun, by decide +kernel⟩,
   ⟨put (calibrating 3 { calRun with items := 3 }) [(fCAL_CTRL_QGATE, 1)], { calRun with items := 3 }, 6999,
       by decide +kernel⟩,
   ⟨put (calibrating 4 calRun) [(fCAL_QUARRY_SPARE, 2)], calRun, by decide +kernel⟩⟩

theorem witness_MemoryIntegrity :
    (∃ (s : State), s.cold = false ∧ s.is fMEM_STATUS_FILL_DONE = false) ∧
    (∃ (s u : State) (a : Fin 11) (inst : Fin 16) (addr : Nat) (wrote : Option (BitVec 64)) (flips : BitVec 80) (r : MemReader)
        (v : Verdict), s.cold = false ∧ s.is fMEM_STATUS_FILL_DONE = true ∧ addr < memWords a inst ∧ s.arrHere a inst = true ∧
        (r = .owner → s.arrHeld a inst = false) ∧ (a = 5 → s.mem.half = none) ∧ u = s.memWrote a inst addr wrote ∧
        v = verdict (syndromes (u.isPoisoned a inst addr) flips.toNat) ∧ u.memBlank a inst addr = false ∧ v = .clean) ∧
    (∃ (s u : State) (a : Fin 11) (inst : Fin 16) (addr : Nat) (wrote : Option (BitVec 64)) (flips : BitVec 80) (r : MemReader)
        (v : Verdict), s.cold = false ∧ s.is fMEM_STATUS_FILL_DONE = true ∧ addr < memWords a inst ∧ s.arrHere a inst = true ∧
        (r = .owner → s.arrHeld a inst = false) ∧ (a = 5 → s.mem.half = none) ∧ u = s.memWrote a inst addr wrote ∧
        v = verdict (syndromes (u.isPoisoned a inst addr) flips.toNat) ∧ u.memBlank a inst addr = false ∧ (∃ k, v = .dataBit k)) ∧
    (∃ (s u : State) (a : Fin 11) (inst : Fin 16) (addr : Nat) (wrote : Option (BitVec 64)) (flips : BitVec 80) (r : MemReader)
        (v : Verdict), s.cold = false ∧ s.is fMEM_STATUS_FILL_DONE = true ∧ addr < memWords a inst ∧ s.arrHere a inst = true ∧
        (r = .owner → s.arrHeld a inst = false) ∧ (a = 5 → s.mem.half = none) ∧ u = s.memWrote a inst addr wrote ∧
        v = verdict (syndromes (u.isPoisoned a inst addr) flips.toNat) ∧ u.memBlank a inst addr = false ∧ v = .uncorrectable ∧ r = .owner) ∧
    (∃ (s : State) (a : Fin 11) (inst : Fin 16) (addr : Nat) (ofs : Fin 8) (bytes : List Byte) (flips : BitVec 80) (v : Verdict),
        s.cold = false ∧ s.is fMEM_STATUS_FILL_DONE = true ∧ addr < memWords a inst ∧ bytes ≠ [] ∧
        ofs + bytes.length ≤ 8 ∧ bytes.length ≠ 8 ∧ a ≠ 5 ∧ s.arrHere a inst = true ∧
        v = verdict (syndromes (s.isPoisoned a inst addr) flips.toNat) ∧ a ≠ 6 ∧ s.memBlank a inst addr = true) ∧
    (∃ (s : State) (a : Fin 11) (inst : Fin 16) (addr : Nat) (ofs : Fin 8) (bytes : List Byte) (flips : BitVec 80) (v : Verdict),
        s.cold = false ∧ s.is fMEM_STATUS_FILL_DONE = true ∧ addr < memWords a inst ∧ bytes ≠ [] ∧
        ofs + bytes.length ≤ 8 ∧ bytes.length ≠ 8 ∧ a ≠ 5 ∧ s.arrHere a inst = true ∧
        v = verdict (syndromes (s.isPoisoned a inst addr) flips.toNat) ∧ a ≠ 6 ∧ v = .clean) ∧
    (∃ (s : State) (a : Fin 11) (inst : Fin 16) (addr : Nat) (ofs : Fin 8) (bytes : List Byte) (flips : BitVec 80) (v : Verdict),
        s.cold = false ∧ s.is fMEM_STATUS_FILL_DONE = true ∧ addr < memWords a inst ∧ bytes ≠ [] ∧
        ofs + bytes.length ≤ 8 ∧ bytes.length ≠ 8 ∧ a ≠ 5 ∧ s.arrHere a inst = true ∧
        v = verdict (syndromes (s.isPoisoned a inst addr) flips.toNat) ∧ s.memBlank a inst addr = false ∧ v = .uncorrectable) ∧
    (∃ (s u : State) (a : Fin 11) (inst : Fin 16) (wrote : Option (BitVec 64)) (flips : BitVec 80) (addr : Nat) (v : Verdict),
        s.cold = false ∧ s.is fMEM_STATUS_FILL_DONE = true ∧ s.safe 15 = false ∧ s.is fMEM_CTRL_SCRUB_EN = true ∧
        s.is (fMEM_ARR_CFG_EN a) = true ∧ s.arrHere a inst = true ∧
        (assocGet s.mem.scrub (16 * a.val + inst.val)).getD 0 = addr ∧ addr + 1 < memWords a inst ∧
        u = s.memWrote a inst addr wrote ∧ u.memBlank a inst addr = false ∧
        v = verdict (syndromes (u.isPoisoned a inst addr) flips.toNat) ∧ v = .clean) ∧
    (∃ (s u : State) (a : Fin 11) (inst : Fin 16) (wrote : Option (BitVec 64)) (flips : BitVec 80) (addr : Nat) (v : Verdict),
        s.cold = false ∧ s.is fMEM_STATUS_FILL_DONE = true ∧ s.safe 15 = false ∧ s.is fMEM_CTRL_SCRUB_EN = true ∧
        s.is (fMEM_ARR_CFG_EN a) = true ∧ s.arrHere a inst = true ∧
        (assocGet s.mem.scrub (16 * a.val + inst.val)).getD 0 = addr ∧ addr + 1 < memWords a inst ∧
        u = s.memWrote a inst addr wrote ∧ u.memBlank a inst addr = false ∧
        v = verdict (syndromes (u.isPoisoned a inst addr) flips.toNat) ∧ v = .uncorrectable) :=
  ⟨⟨base, by decide +kernel⟩,
   ⟨filled, _, 9, 1, 2359295, some 5, 0, .owner, .clean, by and_intros <;> first | rfl | decide +kernel⟩,
   ⟨filled, _, 5, 12, 8191, none, 1, .host .pcie, .dataBit 0, by and_intros <;> first | rfl | exact ⟨0, rfl⟩ | decide +kernel⟩,
   ⟨filled, _, 9, 1, 2359295, some 5, 3, .owner, .uncorrectable, by and_intros <;> first | rfl | decide +kernel⟩,
   ⟨filled, 9, 1, 2359295, 7, [1], 3, .uncorrectable, by decide +kernel⟩,
   ⟨filled, 4, 7, 131071, 7, [1], 0, .clean, by decide +kernel⟩,
   ⟨filled, 4, 7, 131071, 7, [1], 3, .uncorrectable, by decide +kernel⟩,
   ⟨filled, _, 4, 7, some 1, 0, 131070, .clean, by and_intros <;> first | rfl | decide +kernel⟩,
   ⟨filled, _, 4, 7, none, 3, 131070, .uncorrectable, by and_intros <;> first | rfl | decide +kernel⟩⟩

theorem witness_HostAccess :
    (∃ (s : State), s.cold = false) ∧
    (∃ (s : State) (addr : _) (size : _), s.cold = false ∧ addr < barSize ∧ 8 < size) ∧
    (∃ (s : State) (addr : _) (size : _) (contiguous : _), s.cold = false ∧ addr < barSize ∧ size ≤ 8 ∧
        alignedAccess addr size contiguous = false) ∧
    (∃ (s : State) (addr : _), s.cold = false ∧ addr < barSize ∧ addr % 4 = 0 ∧ s.allowed .pcie false addr = false) ∧
    (∃ (s : State), s.cold = false ∧ s.writeGate aGLB_INT_EN false = none) :=
  ⟨⟨base, by decide +kernel⟩,
   ⟨base, 0x3FFFFFF, 9, by decide +kernel⟩,
   ⟨base, 0x100001, 4, true, by decide +kernel⟩,
   ⟨bs [(⟨aSEC_CFG, 0, 8⟩, 0)], 0x3FFFFFC, by decide +kernel⟩,
   ⟨base, by decide +kernel⟩⟩

theorem witness_CopOperations :
    (∃ (s : State) (m : CopRx) (h : CopHeader) (body : List Byte) (x : Session) (es : _),
        accepted s m opRead h body x ∧ readEntries body = some es ∧
        36 + ((requestTaken s m h x).readAll x.id none es).2.length ≤ copLimit m.path) ∧
    (∃ (s : State) (m : CopRx) (h : CopHeader) (body : List Byte) (x : Session) (es : _),
        accepted s m opRead h body x ∧ readEntries body = some es ∧
        copLimit m.path < 36 + ((requestTaken s m h x).readAll x.id none es).2.length) ∧
    (∃ (s : State) (m : CopRx) (h : CopHeader) (body : List Byte) (x : Session) (ix : _) (sub : _) (v : _),
        accepted s m opWrite h body x ∧ writeEntries 64 body = some [(ix, sub, v)]) ∧
    (∃ (s : State) (m : CopRx) (h : CopHeader) (body : List Byte) (x : Session) (v : _),
        accepted s m opBlockRead h body x ∧ body.length = 10 ∧ fieldBytes body 4 4 = 0 ∧
        (requestTaken s m h x).readObj x.id (fieldBytes body 0 2) (fieldBytes body 2 1) none = (requestTaken s m h x, 0, v) ∧ v.length ≤ fieldBytes body 8 2 ∧ v.length ≤ 900) ∧
    (∃ (s : State) (m : CopRx) (h : CopHeader) (body : List Byte) (x : Session),
        accepted s m opBlockWrite h body x ∧ body.length = 14 + fieldBytes body 12 2 ∧ fieldBytes body 8 4 = 0 ∧
        fieldBytes body 4 4 ≤ 16384 ∧ fieldBytes body 12 2 < fieldBytes body 4 4) ∧
    (∃ (s : State) (m : CopRx) (h : CopHeader) (body : List Byte) (x : Session) (es : _) (l : _),
        accepted s m opLevelRead h body x ∧ 4 ≤ body.length ∧ readEntries (body.drop 4) = some es ∧
        (requestTaken s m h x).selectLevel (fieldBytes body 0 4) = some l ∧
        52 + ((requestTaken s m h x).readAll x.id (some l) es).2.length ≤ copLimit m.path) ∧
    (∃ (s : State) (m : CopRx) (h : CopHeader) (body : List Byte) (x : Session) (op : _), (op = 0 ∨ 13 < op) ∧
        accepted s m op h body x) :=
  ⟨⟨served, message 1 opRead (entryHead 0x1000 0), header opRead, entryHead 0x1000 0, aSession, [(0x1000, 0)],
      by unfold accepted; decide +kernel⟩,
   ⟨manager, message 1 opRead (entryHead 0x9020 1), header opRead, entryHead 0x9020 1, aSession, [(0x9020, 1)],
       by unfold accepted; decide +kernel⟩,
   ⟨served, message 1 opWrite (entryHead 0x1100 1 ++ [0, 1, 5]), header opWrite, entryHead 0x1100 1 ++ [0, 1, 5],
       aSession, 0x1100, 1, [5], by unfold accepted; decide +kernel⟩,
   ⟨served, message 1 opBlockRead (entryHead 0x1000 0 ++ [0, 0, 0, 0, 3, 132]), header opBlockRead,
       entryHead 0x1000 0 ++ [0, 0, 0, 0, 3, 132], aSession, [7],
       by unfold accepted; and_intros <;> first | decide +kernel | exact Prod.ext rfl (by decide +kernel)⟩,
   ⟨served, message 1 opBlockWrite (entryHead 0x1100 1 ++ [0, 0, 0, 2, 0, 0, 0, 0, 0, 1, 5]), header opBlockWrite,
       entryHead 0x1100 1 ++ [0, 0, 0, 2, 0, 0, 0, 0, 0, 1, 5], aSession, by unfold accepted; decide +kernel⟩,
   ⟨{ served with lvl := staged.lvl }, message 1 opLevelRead ([0, 0, 0, 1] ++ entryHead 0x1000 0),
       header opLevelRead, [0, 0, 0, 1] ++ entryHead 0x1000 0, aSession, [(0x1000, 0)], aLevel,
       by unfold accepted; decide +kernel⟩,
   ⟨served, message 1 14 [], header 14, [], aSession, 14, by unfold accepted; decide +kernel⟩⟩

theorem witness_CopSessions :
    (∃ (s : State) (m : CopRx) (h : CopHeader) (body : List Byte), s.copServes m = true ∧
        copParse m.bytes = some (h, body) ∧ h.op = opOpen ∧ h.resp = false ∧ h.exp = false ∧ s.copMine h = true ∧
        body.length = 20 ∧ fieldBytes body 16 4 = s.obj 0x1018 2 0 ∧ copTagOk (s.copKey "OPEN" []) m.bytes = true ∧
        s.cop.sessions.length < 32) ∧
    (∃ (s : State) (m : CopRx) (h : CopHeader) (x : Session), accepted s m opClose h [] x ∧ s.nodeId ≠ 0xFFFF) ∧
    (∃ (s : State) (k : Nat) (x : Session), s.session k = some x) ∧
    (∃ (s : State) (k : Nat) (x : Session) (b : BlockXfer), s.session k = some x ∧ x.block = some b) :=
  ⟨⟨served, ⟨1, 0, copMessage (served.copKey "OPEN" []) opOpen 0 5 0xFFFF 0 1 0 (List.replicate 20 0)⟩, ⟨opOpen,
      false, false, 5, 0xFFFF, 0, 1⟩, List.replicate 20 0, by decide +kernel⟩,
   ⟨served.setObj 0x1010 1 [0, 5], message 1 opClose [], header opClose, aSession,
       by unfold accepted; decide +kernel⟩,
   ⟨served, 7, aSession, by decide +kernel⟩,
   ⟨{ served with cop := { sessions := [{ aSession with block := some ⟨true, 1, 2, 3, [], 4⟩ }] } }, 7,
       { aSession with block := some ⟨true, 1, 2, 3, [], 4⟩ }, ⟨true, 1, 2, 3, [], 4⟩, by decide +kernel⟩⟩

theorem witness_Domain :
    (∃ (s : State) (m : CopRx) (h : CopHeader) (body : List Byte) (p : Nat × Nat), s.copServes m = true ∧
        copParse m.bytes = some (h, body) ∧ h.resp = false ∧ (s.copCount m).copMine h = false ∧
        s.copMine h = false ∧ (s.copCount m).pathTo h.dst = some p ∧ (s.copCount m).presence h.dst < 2 ∧
        (s.copCount m).presence (parentOf h.dst) < 2) ∧
    (∃ (s : State) (m : CopRx) (h : CopHeader) (body : List Byte) (x : Session), accepted s m opTimePoll h body x ∧
        s.nodeId ≠ 0xFFFF ∧ body.length = 4) ∧
    (∃ (s : State) (node : BitVec 14) (body : List Byte) (o : PollOut), body.length = 55 ∧
        (s.cop.out.find? fun o => o.node == node.toNat && o.number == fieldBytes body 0 4) = some o) ∧
    (∃ (s : State), s.cold = false ∧ s.is fGLB_STATUS_MGT_READY = true ∧ roleOf s.nodeId ≠ 0 ∧
        roleOf s.nodeId ≠ 3 ∧ s.cop.round = []) ∧
    (∃ (s : State) (n : Nat) (rest : List Nat), s.cold = false ∧ s.is fGLB_STATUS_MGT_READY = true ∧
        s.cop.round = n :: rest) ∧
    (∃ (s : State), s.cold = false ∧ s.is fGLB_STATUS_MGT_READY = true ∧ s.cop.polled = false ∧
        s.obj 0x9000 4 0 ≠ 0) ∧
    (∃ (s : State) (node : BitVec 14) (path : Fin 4) (lane : Fin 8) (addr : List Byte), s.cold = false ∧
        s.is fGLB_STATUS_MGT_READY = true ∧ s.pathUp path lane = true ∧ s.isChild node.toNat = true ∧
        ((s.nodeRec node.toNat).getD {}).addr = [] ∧ addr ≠ []) ∧
    (∃ (s : State) (ns : Nat) (rest : List Nat), s.cold = false ∧ s.is fGLB_STATUS_MGT_READY = true ∧
        s.nodeId = 0 ∧ s.cop.domain = ns :: rest) ∧
    (∃ (s : State) (k : Nat) (x : Session) (a : Time80), s.cold = false ∧ s.is fGLB_STATUS_MGT_READY = true ∧
        s.nodeId = 0 ∧ s.session k = some x ∧ 10000000 + s.tb0 ≤ timeNs a) ∧
    (∃ (s : State) (n : Nat) (r : NodeRec) (number : BitVec 32) (p : Nat × Nat), s.cold = false ∧
        s.is fGLB_STATUS_MGT_READY = true ∧ s.nodeId = 0 ∧ s.cop.nodes = [(n, r)] ∧ r.armed = number.toNat ∧
        number ≠ 0 ∧ s.pathTo n = some p ∧ s.crs.armed = none) ∧
    (∃ (s : State) (node : BitVec 14) (o : PollOut), (s.cop.out.find? fun o => o.node == node.toNat) = some o) ∧
    (∃ (s : State) (m : CopRx) (h : CopHeader) (body : List Byte) (x : Session), accepted s m opNotify h body x ∧
        s.nodeId = 0 ∧ body.length = 3 ∧ fieldBytes body 0 2 < 16384 ∧ fieldBytes body 2 1 ≤ 3) ∧
    (∃ (s : State) (i : Fin 16) (path : Fin 4) (lane : Fin 8) (d : Nat × Nat) (l : Level),
        (s.cop.due.find? fun d => d.1 == i.val) = some d ∧ s.cold = false ∧ s.is fGLB_STATUS_MGT_READY = true ∧
        s.obj (0x1300 + i.val) 1 0 ≠ 0 ∧ s.pathUp path lane = true ∧ s.levelNumbered d.2 = some l) :=
  ⟨⟨manager, ⟨1, 0, copMessage [] 2 0 5 129 9 1 0 []⟩, ⟨2, false, false, 5, 129, 9, 1⟩, [], (0, 0),
      by decide +kernel⟩,
   ⟨served.setObj 0x1010 1 [0, 5], message 1 opTimePoll [0, 0, 0, 1], header opTimePoll, [0, 0, 0, 1], aSession,
       by unfold accepted; decide +kernel⟩,
   ⟨{ manager with cop := { manager.cop with out := [⟨128, 1, 0⟩] } }, 128, [0, 0, 0, 1] ++ List.replicate 51 3,
       ⟨128, 1, 0⟩, by decide +kernel⟩,
   ⟨manager, by decide +kernel⟩,
   ⟨{ manager with cop := { manager.cop with round := [128] } }, 128, [], by decide +kernel⟩,
   ⟨manager.setObj 0x9000 4 [0, 9], by decide +kernel⟩,
   ⟨{ manager with cop := { } }, 128, 0, 0, [1], by decide +kernel⟩,
   ⟨{ manager with cop := { domain := [60000000] } }, 60000000, [], by decide +kernel⟩,
   ⟨manager, 7, aSession, ⟨0, 10000000⟩, by decide +kernel⟩,
   ⟨manager, 128, aNode, 5, (0, 0), by decide +kernel⟩,
   ⟨{ manager with cop := { manager.cop with out := [⟨128, 1, 0⟩] } }, 128, ⟨128, 1, 0⟩, by decide +kernel⟩,
   ⟨manager, message 1 opNotify [63, 255, 3], header opNotify, [63, 255, 3], aSession,
       by unfold accepted; decide +kernel⟩,
   ⟨({ served with lvl := staged.lvl, cop := { due := [(15, 1)] } } : State).setObj 0x130F 1 [1], 15, 1, 0, (15,
       1), aLevel, by decide +kernel⟩⟩

theorem witness_BootSequence :
    (∃ (s : State), s.cold = true ∧ s.sec.under = false) ∧
    (∃ (s : State), s.cold = true) ∧
    (∃ (s : State), s.booting = true ∧ s.is fMEM_STATUS_FILL_DONE = true ∧ s.sec.boot = 0 ∧
        s.get fSEC_STATUS_STAGE = 0) ∧
    (∃ (s : State), s.booting = true ∧ s.sec.boot = 1) ∧
    (∃ (s : State), s.booting = true ∧ s.is fSEC_RST_STATUS_WARM = false ∧ s.sec.boot = 2) ∧
    (∃ (s : State), s.booting = true ∧ s.sec.boot = 3) ∧
    (∃ (s : State), s.booting = true ∧ s.sec.boot = 5) ∧
    (∃ (s : State), s.sec.phy.length = 2 ∧ s.cold = false) :=
  ⟨⟨State.reset, by decide +kernel⟩,
   ⟨State.reset, by decide +kernel⟩,
   ⟨put (booted 0) [(fMEM_STATUS_FILL_DONE, 1)], by decide +kernel⟩,
   ⟨booted 1, by decide +kernel⟩,
   ⟨booted 2, by decide +kernel⟩,
   ⟨booted 3, by decide +kernel⟩,
   ⟨booted 5, by decide +kernel⟩,
   ⟨base, by decide +kernel⟩⟩

theorem witness_Resets :
    (∃ (s : State) (b : Source), s.takes b aSEC_RST_FUNC = true) ∧
    (∃ (s : State) (b : Source) (k : Fin 15), s.takes b aSEC_RST_FUNC = true ∧
        (s.is fGLB_STATUS_MGT_READY = false ∨ s.held k = true)) ∧
    (∃ (s : State) (b : Source) (k : Fin 15), s.takes b aSEC_RST_FUNC = true ∧ s.is fGLB_STATUS_MGT_READY = true ∧
        s.held k = false ∧ s.lvl.frozen = []) ∧
    (∃ (s : State) (k : Fin 15), s.cold = false ∧ s.is fGLB_STATUS_MGT_READY = true ∧ s.held k = true ∧
        s.crs.armed = none ∧ s.sec.corrupt = [] ∧ s.is ⟨aSEC_RST_FUNC, k, 1⟩ = false) ∧
    (∃ (s : State) (b : Source), s.takes b aSEC_RST_LODGE = true) ∧
    (∃ (s : State), s.cold = false) ∧
    (∃ (s : State) (k : Fin 8), s.cold = false ∧ s.is fGLB_STATUS_MGT_READY = true ∧ s.is (fLodge k) = true ∧
        s.is ⟨aSEC_RST_LODGE, k, 1⟩ = false) ∧
    (∃ (s : State) (b : Source), s.takes b aSEC_CTRL = true) ∧
    (∃ (s : State) (b : Source), s.takes b aSEC_CTRL = true ∧ s.is fGLB_STATUS_MGT_READY = true) ∧
    (∃ (s : State), s.cold = false ∧ s.sec.warm = true ∧ s.crs.armed = none ∧ s.lvl.frozen = []) ∧
    (∃ (s : State) (addr : Nat) (flips : Word), s.cold = false ∧ hasParity addr = true ∧ s.sec.corrupt = [] ∧
        parityFinds flips.toNat = false) ∧
    (∃ (s : State) (addr : Nat) (flips : Word), s.cold = false ∧ hasParity addr = true ∧ s.sec.corrupt = [] ∧
        parityFinds flips.toNat = true ∧ (addr / 0x100000 = 0 ∨ addr / 0x100000 = 1) ∧ addr ≠ aGLB_ALARM ∧
        addr ≠ aGLB_PAR_ADDR ∧ s.is fGLB_ALARM_CFG_PARITY = false) :=
  ⟨⟨base, .pcie, by decide +kernel⟩,
   ⟨bs [(⟨aSEC_RST_STATUS, 14, 1⟩, 1)], .pcie, 14, by decide +kernel⟩,
   ⟨base, .pcie, 14, by decide +kernel⟩,
   ⟨bs [(⟨aSEC_RST_STATUS, 14, 1⟩, 1)], 14, by decide +kernel⟩,
   ⟨base, .pcie, by decide +kernel⟩,
   ⟨base, by decide +kernel⟩,
   ⟨bs [(fLodge 7, 1)], 7, by decide +kernel⟩,
   ⟨base, .pcie, by decide +kernel⟩,
   ⟨base, .pcie, by decide +kernel⟩,
   ⟨{ base with sec := { base.sec with warm := true } }, by decide +kernel⟩,
   ⟨base, aGLB_INT_EN, 3, by decide +kernel⟩,
   ⟨base, aGLB_INT_EN, 1, by decide +kernel⟩⟩

theorem witness_Images :
    (∃ (s : State) (b : Source), s.takes b aSEC_IMG_CTRL = true ∧ s.is fCAL_QUARRY_WORN = false ∧
        s.is fSEC_IMG_STATUS_BUSY = false) ∧
    (∃ (s : State) (len : BitVec 16) (b : Source) (k : _) (bs : _), s.takes b aSEC_IMG_CTRL = true ∧
        s.is fCAL_QUARRY_WORN = false ∧ s.is fSEC_IMG_STATUS_BUSY = false ∧ s.sec.upload = some (k, bs) ∧
        bs.length + max 1 len.toNat ≤ 1024 + imageMax k) ∧
    (∃ (s : State) (b : Source) (k : Nat) (bs : List Byte), s.takes b aSEC_IMG_CTRL = true ∧
        s.is fCAL_QUARRY_WORN = false ∧ s.is fSEC_IMG_STATUS_BUSY = false ∧ s.sec.upload = some (k, bs)) ∧
    (∃ (s : State) (b : Source), s.takes b aSEC_IMG_CTRL = true) ∧
    (∃ (s : State) (b : Source), s.takes b aSEC_IMG_CTRL = true ∧ s.get fSEC_STATUS_STAGE = 15 ∧ s.sec.boot = 0) ∧
    (∃ (s : State) (k : Nat) (bs : List Byte), s.cold = false ∧ s.is fSEC_IMG_STATUS_BUSY = true ∧
        s.sec.nvLow = false ∧ s.sec.upload = some (k, bs) ∧ s.commitCode k bs ≠ imgOk) ∧
    (∃ (s : State) (failed : Nat) (k : Nat) (bs : List Byte), s.cold = false ∧ s.is fSEC_IMG_STATUS_BUSY = true ∧
        s.sec.nvLow = false ∧ s.sec.upload = some (k, bs) ∧ s.commitCode k bs = imgOk ∧
        s.get fCAL_QUARRY_SPARE < failed) ∧
    (∃ (s : State) (failed : Nat) (k : Nat) (bs : List Byte), s.cold = false ∧ s.is fSEC_IMG_STATUS_BUSY = true ∧
        s.sec.nvLow = false ∧ s.sec.upload = some (k, bs) ∧ s.commitCode k bs = imgOk ∧
        failed ≤ s.get fCAL_QUARRY_SPARE) :=
  ⟨⟨base, .pcie, by decide +kernel⟩,
   ⟨uploading false [1], 0, .pcie, 3, [1], by decide +kernel⟩,
   ⟨uploading false [1], .pcie, 3, [1], by decide +kernel⟩,
   ⟨base, .pcie, by decide +kernel⟩,
   ⟨bs [(fSEC_STATUS_STAGE, 15)], .pcie, by decide +kernel⟩,
   ⟨uploading true [1], 3, [1], by decide +kernel⟩,
   ⟨uploading true setupImage, 100000, 3, setupImage, by decide +kernel⟩,
   ⟨uploading true setupImage, 0, 3, setupImage, by decide +kernel⟩⟩

theorem witness_Attestation :
    (∃ (s : State) (b : Source), s.takes b aSEC_ATT_CMD = true ∧ s.is fSEC_ATT_STATUS_BUSY = false) ∧
    (∃ (s : State), s.takes .pcie aSEC_ATT_CMD = true ∧ s.is fSEC_ATT_STATUS_BUSY = true) ∧
    (∃ (s : State) (nonce : List Byte), s.cold = false ∧ s.sec.quote = some nonce) :=
  ⟨⟨base, .pcie, by decide +kernel⟩,
   ⟨bs [(fSEC_ATT_STATUS_BUSY, 1)], by decide +kernel⟩,
   ⟨{ base with sec := { base.sec with quote := some [1] } }, [1], by decide +kernel⟩⟩

theorem witness_CustomerHash :
    (∃ (s : State), s.takes .pcie aSEC_FUSE_CMD = true ∧ s.sec.cust = none ∧ s.is fSEC_STATUS_SEC_LOCK = false) ∧
    (∃ (s : State), s.takes .pcie aSEC_FUSE_CMD = true ∧ (s.sec.cust ≠ none ∨ s.is fSEC_STATUS_SEC_LOCK = true)) :=
  ⟨⟨base, by decide +kernel⟩,
   ⟨{ base with sec := { base.sec with cust := some [1] } }, by decide +kernel⟩⟩

theorem witness_MinimumSvn :
    (∃ (s : State), s.booting = true ∧ s.sec.boot = 4 ∧ s.is fSEC_CFG_WINDOW_HOST = false ∧
        s.is fSEC_STATUS_SEC_LOCK = false) ∧
    (∃ (s : State) (by_ : _), s.is fSEC_STATUS_SEC_LOCK = false ∧ s.takes by_ aSEC_CTRL = true) ∧
    (∃ (s : State) (c : Nat), s.is fSEC_STATUS_SEC_LOCK = false ∧ s.cold = false ∧ s.sec.windowFrom = some c) :=
  ⟨⟨put (booted 4) [(fSEC_CFG_WINDOW_HOST, 0)], by decide +kernel⟩,
   ⟨base, .pcie, by decide +kernel⟩,
   ⟨{ base with sec := { base.sec with windowFrom := some 7 } }, 7, by decide +kernel⟩⟩

theorem witness_SetupWindow :
    (∃ (s : State), s.booting = true ∧ s.sec.boot = 4 ∧ s.is fSEC_CFG_WINDOW_HOST = false ∧
        s.is fSEC_STATUS_SEC_LOCK = false) ∧
    (∃ (s : State) (by_ : _), s.is fSEC_STATUS_SEC_LOCK = false ∧ s.takes by_ aSEC_CTRL = true) ∧
    (∃ (s : State) (c : Nat), s.is fSEC_STATUS_SEC_LOCK = false ∧ s.cold = false ∧ s.sec.windowFrom = some c) :=
  ⟨⟨put (booted 4) [(fSEC_CFG_WINDOW_HOST, 0)], by decide +kernel⟩,
   ⟨base, .pcie, by decide +kernel⟩,
   ⟨{ base with sec := { base.sec with windowFrom := some 7 } }, 7, by decide +kernel⟩⟩

theorem witness_EgressSendsElement :
    ∃ (s : State) (f : Fin 256) (cfg v : Nat) (h el : List Byte), s.rxCfg f = some cfg ∧ bitOf cfg 1 = false ∧
      h = ((s.flowX f).rx.take 4).map (·.1) ∧ v = fieldBytes h 0 3 ∧ fieldBytes h 3 1 = crc8 24 v ∧
      (v / 256 % 4 = 1 ∨ v / 256 % 4 = 2) ∧ 4 + v / 1024 ≤ (s.flowX f).rx.length ∧
      el = (((s.flowX f).rx.take (4 + v / 1024)).drop 4).map (·.1) ∧
      s.portState (bitsOf cfg 2 6) ≠ 0 ∧ s.is (fCLI_PORT_STATUS_FAULT_TX (bitsOf cfg 2 6)) = false ∧
      s.egressFill (bitsOf cfg 2 6) + v / 1024 ≤ 65536 :=
  ⟨put (rxFlow (elementHeader 64 2 ++ List.replicate 64 7)) [(fCLI_PORT_STATUS_STATE 0, 3)], 255, 1,
    fieldBytes (elementHeader 64 2) 0 3, elementHeader 64 2, List.replicate 64 7, by decide +kernel⟩

theorem witness_FaultReplacement :
    (∃ (s : State) (p : Fin 64), s.get (fCLI_PORT_CFG_TYPE p) ≠ 1 ∧ s.is (fCLI_PORT_STATUS_FAULT_TX p) ≠ s.faultTx p) ∧
    (∃ (s : State) (p : Fin 64) (m : _), s.safe (8 + s.portGroup p) = true ∧ m ∈ s.portFlows p ∧ bitOf m.2.1 1 = true) ∧
    (∃ (s : State) (p : Fin 64) (m : _), (∀ m ∈ s.portFlows p, s.replaceDue p m = false) ∧ m ∈ s.portFlows p ∧
        bitOf m.2.1 1 = true) :=
  ⟨⟨bs [(fCLI_PORT_STATUS_FAULT_TX 63, 1)], 63, by decide +kernel⟩,
   ⟨put flexeRx [(⟨aGLB_SAFE, 8, 1⟩, 1)], 0, (255, 3, 0), by decide +kernel⟩,
   ⟨put flexeRx [(fLFR_STATE_MF_LOCK 0, 1)], 0, (255, 3, 0), by decide +kernel⟩⟩

theorem witness_ArrayAccess :
    (∃ (s : State), s.cold = false ∧ s.is fMEM_STATUS_FILL_DONE = false) ∧
    (∃ (s : State) (b : Source) (inst : Fin 16) (addr : Nat) (ofs : Fin 8) (bytes : List Byte) (flips : BitVec 80),
        s.cold = false ∧ s.is fMEM_STATUS_FILL_DONE = true ∧ s.arrHere 5 inst = true ∧ (inst.val = 10 ∨ inst.val = 12) ∧
        addr < memWords 5 inst ∧ bytes ≠ [] ∧ ofs + bytes.length ≤ 8 ∧ bytes.length ≠ 8 ∧ s.mem.half = none ∧
        s.takes b (winAddr inst addr + ofs / 4 * 4) = true ∧
        verdict (syndromes (s.isPoisoned 5 inst addr) flips.toNat) = .clean) ∧
    (∃ (s : State) (b : Source) (inst : Fin 16) (addr : Nat) (ofs : Fin 8) (bytes : List Byte) (flips : BitVec 80),
        s.cold = false ∧ s.is fMEM_STATUS_FILL_DONE = true ∧ s.arrHere 5 inst = true ∧ (inst.val = 10 ∨ inst.val = 12) ∧
        addr < memWords 5 inst ∧ bytes ≠ [] ∧ ofs + bytes.length ≤ 8 ∧ bytes.length ≠ 8 ∧ s.mem.half = none ∧
        s.takes b (winAddr inst addr + ofs / 4 * 4) = true ∧
        verdict (syndromes (s.isPoisoned 5 inst addr) flips.toNat) = .poisoned) ∧
    (∃ (s : State) (inst : Fin 16) (addr : Nat) (flips : BitVec 80), s.cold = false ∧ s.is fMEM_STATUS_FILL_DONE = true ∧
        s.arrHere 5 inst = true ∧ (inst.val = 10 ∨ inst.val = 12) ∧ addr < memWords 5 inst ∧ s.mem.half = none ∧
        verdict (syndromes (s.isPoisoned 5 inst addr) flips.toNat) = .poisoned) ∧
    (∃ (s : State) (a : Fin 11) (inst : Fin 16) (flips : BitVec 80) (addr : Nat), s.cold = false ∧
        s.is fMEM_STATUS_FILL_DONE = true ∧ s.safe 15 = false ∧ s.is fMEM_CTRL_SCRUB_EN = true ∧
        s.is (fMEM_ARR_CFG_EN a) = true ∧ s.arrHere a inst = true ∧
        (assocGet s.mem.scrub (16 * a.val + inst.val)).getD 0 = addr ∧ addr + 1 < memWords a inst ∧
        verdict (syndromes (s.isPoisoned a inst addr) flips.toNat) = .clean) :=
  ⟨⟨base, by decide +kernel⟩,
   ⟨filled, .pcie, 10, 32767, 7, [1], 0, by decide +kernel⟩,
   ⟨poisoned, .pcie, 12, 8191, 1, [1, 2, 3, 4, 5, 6, 7], 0, by decide +kernel⟩,
   ⟨poisoned, 12, 8191, 0, by decide +kernel⟩,
   ⟨filled, 4, 7, 0, 131070, by decide +kernel⟩⟩

theorem witness_FuseBindsAtColdReset :
    ∃ (s : State), s.takes .pcie aSEC_FUSE_CMD = true ∧ s.sec.cust = none ∧ s.is fSEC_STATUS_SEC_LOCK = false :=
  ⟨base, by decide +kernel⟩

end Sys2Proof.Tests
end

section
/-!
SUPPORT. Every command and every step completes and undoes nothing of what `Keeps` lists; the statements O4 and O7 follow.
-/

namespace Sys2Proof.Machine

/-! ### Every command and every step -/

/-- The one table of commands: each arm of `exec` is a meaning, and each meaning has its own `_done` lemma. -/
theorem exec_done (c : Instr) (s : State) : Done s (exec c s) :=
  match c with
  | .levelPeriodic => execLevelPeriodic_done s
  | .levelQ15 => execLevelQ15_done s
  | .levelD24 => execLevelD24_done s
  | .levelScheduled slot => execLevelScheduled_done slot s
  | .levelHost by_ => execLevelHost_done by_ s
  | .levelFreezeEnd isl => execLevelFreezeEnd_done isl s
  | .levelCopyStart => execLevelCopyStart_done s
  | .levelCopyComplete => execLevelCopyComplete_done s
  | .levelScheduleWrite by_ slot t => execLevelScheduleWrite_done by_ slot t s
  | .levelHold by_ => execLevelHold_done by_ s
  | .levelRelease by_ => execLevelRelease_done by_ s
  | .levelDataRead addr size => execLevelDataRead_done addr size s
  | .levelMixClear => execLevelMixClear_done s
  | .courseStage by_ target => execCourseStage_done by_ target s
  | .courseCommit by_ mode number t => execCourseCommit_done by_ mode number t s
  | .courseValidationEnd => execCourseValidationEnd_done s
  | .courseDiscard by_ => execCourseDiscard_done by_ s
  | .courseAbort by_ => execCourseAbort_done by_ s
  | .courseAbortWindowClose => execCourseAbortWindowClose_done s
  | .courseStrobe => execCourseStrobe_done s
  | .courseRxTimeout n => execCourseRxTimeout_done n s
  | .courseFarMismatch n => execCourseFarMismatch_done n s
  | .courseClientApply item => execCourseClientApply_done item s
  | .convAdcEnWrite n v => execConvAdcEnWrite_done n v s
  | .convDacEnWrite n v => execConvDacEnWrite_done n v s
  | .convDacMuteWrite n v => execConvDacMuteWrite_done n v s
  | .convSettled n side delay => execConvSettled_done n side delay s
  | .convUnlock n side => execConvUnlock_done n side s
  | .samplingRefLoss die => execSamplingRefLoss_done die s
  | .samplingRefReturn die => execSamplingRefReturn_done die s
  | .adcGroup n outside codes => execAdcGroup_done n outside codes s
  | .dacGroup n at_ ks => execDacGroup_done n at_ ks s
  | .spareRetireWrite n k pos => execSpareRetireWrite_done n k pos s
  | .spareTakeoverSwitch n k => execSpareTakeoverSwitch_done n k s
  | .spareReleaseSwitch n k => execSpareReleaseSwitch_done n k s
  | .captureArm n cfg => execCaptureArm_done n cfg s
  | .captureFire n => execCaptureFire_done n s
  | .captureComplete n => execCaptureComplete_done n s
  | .rxdEnWrite n v => execRxdEnWrite_done n v s
  | .rxdAcqRestart n => execRxdAcqRestart_done n s
  | .rxdLoModeWrite n v => execRxdLoModeWrite_done n v s
  | .rxdKsAssistWrite n v => execRxdKsAssistWrite_done n v s
  | .rxdFmtSrcWrite n v => execRxdFmtSrcWrite_done n v s
  | .losWindowEnd n power => execLosWindowEnd_done n power s
  | .spectralEstimate n fo => execSpectralEstimate_done n fo s
  | .fineEstimate n fo => execFineEstimate_done n fo s
  | .ksWaitExpiry n => execKsWaitExpiry_done n s
  | .cdScanStep n metric above => execCdScanStep_done n metric above s
  | .cdRefineDone n cd => execCdRefineDone_done n cd s
  | .timingLock n => execTimingLock_done n s
  | .polConverged n => execPolConverged_done n s
  | .acqStateTimeout n => execAcqStateTimeout_done n s
  | .warmReacqTimeout n => execWarmReacqTimeout_done n s
  | .eqDiverge n => execEqDiverge_done n s
  | .cdReestimate n cd => execCdReestimate_done n cd s
  | .loUpdateTick n => execLoUpdateTick_done n s
  | .loHostWrite n v => execLoHostWrite_done n v s
  | .trimUpdate n want => execTrimUpdate_done n want s
  | .rxdMetricsUpdate n m => execRxdMetricsUpdate_done n m s
  | .nlcReady n => execNlcReady_done n s
  | .txdEnWrite n v => execTxdEnWrite_done n v s
  | .txdModeWrite n v => execTxdModeWrite_done n v s
  | .txLfStart n phase => execTxLfStart_done n phase s
  | .ksGroupMissed n => execKsGroupMissed_done n s
  | .innerCodewordDone n soft zr => execInnerCodewordDone_done n soft zr s
  | .outerBlockEnter n changed => execOuterBlockEnter_done n changed s
  | .outerBlockExit n bad => execOuterBlockExit_done n bad s
  | .lfDelivered n lf => execLfDelivered_done n lf s
  | .lfrMarkerMatch n pos hyp diff => execLfrMarkerMatch_done n pos hyp diff s
  | .lfrExpectedPosition n cand hyp diff phase => execLfrExpectedPosition_done n cand hyp diff phase s
  | .lfrExclusionExpiry n pos => execLfrExclusionExpiry_done n pos s
  | .sdWindowEnd n => execSdWindowEnd_done n s
  | .downstreamAisChange n => execDownstreamAisChange_done n s
  | .pmonSecondEval => execPmonSecondEval_done s
  | .binFinal day => execBinFinal_done day s
  | .pmonClrCur n => execPmonClrCur_done n s
  | .pmonMetricSample n => execPmonMetricSample_done n s
  | .closDeclare p => execClosDeclare_done p s
  | .closClear p => execClosClear_done p s
  | .cloaDeclare p => execCloaDeclare_done p s
  | .cloaClear p => execCloaClear_done p s
  | .clientFrameIngress src rx => execClientFrameIngress_done src rx s
  | .egressHeader f => execEgressHeader_done f s
  | .flexeCalendarSwitch k => execFlexeCalendarSwitch_done k s
  | .cliFaultAction p => execCliFaultAction_done p s
  | .esHealthFail => execEsHealthFail_done s
  | .drbgReseed k => execDrbgReseed_done k s
  | .rngFailTimeout => execRngFailTimeout_done s
  | .keyLoadClear by_ slot key => execKeyLoadClear_done by_ slot key s
  | .keyZeroise by_ slot => execKeyZeroise_done by_ slot s
  | .zeroAll by_ => execZeroAll_done by_ s
  | .zeroAllClearDone => execZeroAllClearDone_done s
  | .ctxIvLoad by_ c iv => execCtxIvLoad_done by_ c iv s
  | .prevKeyRelease c => execPrevKeyRelease_done c s
  | .jobEnc by_ j d => execJobEnc_done by_ j d s
  | .jobDec by_ j d => execJobDec_done by_ j d s
  | .jobWrapKey by_ j d => execJobWrapKey_done by_ j d s
  | .jobUnwrapKey by_ j d => execJobUnwrapKey_done by_ j d s
  | .jobWrapCtx by_ j d => execJobWrapCtx_done by_ j d s
  | .jobUnwrapCtx by_ j d => execJobUnwrapCtx_done by_ j d s
  | .jobSaveClear by_ j d => execJobSaveClear_done by_ j d s
  | .jobRestoreClear by_ j d => execJobRestoreClear_done by_ j d s
  | .jobStart => execJobStart_done s
  | .jobResume => execJobResume_done s
  | .jobSegmentEnd j => execJobSegmentEnd_done j s
  | .pluEnWrite v => execPluEnWrite_done v s
  | .pluForceHoldWrite v => execPluForceHoldWrite_done v s
  | .pluClrHist => execPluClrHist_done s
  | .refValidChange r => execRefValidChange_done r s
  | .refActivityLoss r => execRefActivityLoss_done r s
  | .refFreqWindow r freq => execRefFreqWindow_done r freq s
  | .refQualified r => execRefQualified_done r s
  | .freqDisagreeClear r => execFreqDisagreeClear_done r s
  | .pluPullEnd err => execPluPullEnd_done err s
  | .pluLockAchieved err => execPluLockAchieved_done err s
  | .pluLockLoss err => execPluLockLoss_done err s
  | .pluAcqLimit => execPluAcqLimit_done s
  | .acqHoldExpiry r => execAcqHoldExpiry_done r s
  | .wtrExpiry e => execWtrExpiry_done e s
  | .holdoverLimit => execHoldoverLimit_done s
  | .oscinFail => execOscinFail_done s
  | .oscinRestored => execOscinRestored_done s
  | .pluHistorySecond freq => execPluHistorySecond_done freq s
  | .pluPhaseStepWrite v => execPluPhaseStepWrite_done v s
  | .pluStepDone => execPluStepDone_done s
  | .clkoutFreqWrite k v => execClkoutFreqWrite_done k v s
  | .servoUpdate x => execServoUpdate_done x s
  | .servoSampleTimeout x => execServoSampleTimeout_done x s
  | .servoSrcWrite x v => execServoSrcWrite_done x v s
  | .ptpMessageRx p m => execPtpMessageRx_done p m s
  | .ptpMessageTx p kind => execPtpMessageTx_done p kind s
  | .ppsEdge k ps => execPpsEdge_done k ps s
  | .hostOfsWrite by_ x v => execHostOfsWrite_done by_ x v s
  | .tbSet by_ x t => execTbSet_done by_ x t s
  | .tbStep by_ x d => execTbStep_done by_ x d s
  | .utcChange => execUtcChange_done s
  | .timeOscinWaitEnd => execTimeOscinWaitEnd_done s
  | .timeFallbackStart n => execTimeFallbackStart_done n s
  | .launchArm d v => execLaunchArm_done d v s
  | .launchSend d err => execLaunchSend_done d err s
  | .ptpEnWrite v => execPtpEnWrite_done v s
  | .ppsEnWrite v => execPpsEnWrite_done v s
  | .ppsPulse => execPpsPulse_done s
  | .kscEnWrite n v => execKscEnWrite_done n v s
  | .beaconDue n => execBeaconDue_done n s
  | .rangeReqDue n => execRangeReqDue_done n s
  | .ksTxStart n => execKsTxStart_done n s
  | .ksTxEnd n => execKsTxEnd_done n s
  | .ksMgmtQueue n bytes => execKsMgmtQueue_done n bytes s
  | .ksMgmtTimeout n => execKsMgmtTimeout_done n s
  | .ksDetection n chan bin snr => execKsDetection_done n chan bin snr s
  | .ksPreambleEnd n cand found => execKsPreambleEnd_done n cand found s
  | .ksSyncEnd n cand shift1 shift2 fo delay => execKsSyncEnd_done n cand shift1 shift2 fo delay s
  | .ksHeaderDecoded n header => execKsHeaderDecoded_done n header s
  | .ksPayloadDecoded n bytes => execKsPayloadDecoded_done n bytes s
  | .ksFarTimeout n => execKsFarTimeout_done n s
  | .rangeTimeout n => execRangeTimeout_done n s
  | .crsDiffTimeout n => execCrsDiffTimeout_done n s
  | .cstTapEvent tap => execCstTapEvent_done tap s
  | .cstSecond => execCstSecond_done s
  | .cstLatencySample n => execCstLatencySample_done n s
  | .cstTb0Sample osc => execCstTb0Sample_done osc s
  | .tb3SampleTimeout => execTb3SampleTimeout_done s
  | .tb3SlewEnd => execTb3SlewEnd_done s
  | .cstBoundary => execCstBoundary_done s
  | .cstRecordStore failed => execCstRecordStore_done failed s
  | .cstLevelLatch => execCstLevelLatch_done s
  | .cstCheckpoint => execCstCheckpoint_done s
  | .cstRstN => execCstRstN_done s
  | .vddCstLoss => execVddCstLoss_done s
  | .cstResetRequest by_ => execCstResetRequest_done by_ s
  | .cstReady => execCstReady_done s
  | .cstPatchGo => execCstPatchGo_done s
  | .cstPatchVerified good level => execCstPatchVerified_done good level s
  | .cstSelWrite by_ seq => execCstSelWrite_done by_ seq s
  | .hkmTimerExpiry t => execHkmTimerExpiry_done t s
  | .hkmPwmEdgeTrigger k falling => execHkmPwmEdgeTrigger_done k falling s
  | .hkmPassStart x => execHkmPassStart_done x s
  | .hkmConversionResult x m => execHkmConversionResult_done x m s
  | .thermalTrip => execThermalTrip_done s
  | .hkmResultRead by_ x => execHkmResultRead_done by_ x s
  | .hkmPwmModeWrite k v => execHkmPwmModeWrite_done k v s
  | .pwmPeriodStart k => execPwmPeriodStart_done k s
  | .hkmIlvWrite v => execHkmIlvWrite_done v s
  | .hkmTrigWrite x v => execHkmTrigWrite_done x v s
  | .calStart by_ v => execCalStart_done by_ v s
  | .calAbort by_ => execCalAbort_done by_ s
  | .calCheckDone temps => execCalCheckDone_done temps s
  | .calSliceStepEnd ash dac temps => execCalSliceStepEnd_done ash dac temps s
  | .calMeasureDone temps values refs => execCalMeasureDone_done temps values refs s
  | .calQualityDone spur skew eye => execCalQualityDone_done spur skew eye s
  | .calStoreDone failed => execCalStoreDone_done failed s
  | .calInterpTick temps => execCalInterpTick_done temps s
  | .memFillDone => execMemFillDone_done s
  | .memArrayRead a inst addr wrote flips reader => execMemArrayRead_done a inst addr wrote flips reader s
  | .memPartialWrite by_ a inst addr ofs bytes flips => execMemPartialWrite_done by_ a inst addr ofs bytes flips s
  | .memScrubStep a inst wrote flips overwritten => execMemScrubStep_done a inst wrote flips overwritten s
  | .copRead m full => execCopRead_done m full s
  | .copWrite m full => execCopWrite_done m full s
  | .copBlockRead m full => execCopBlockRead_done m full s
  | .copBlockWrite m full => execCopBlockWrite_done m full s
  | .copLevelRead m full => execCopLevelRead_done m full s
  | .copOpInvalid m full => execCopOpInvalid_done m full s
  | .sessionOpen m full => execSessionOpen_done m full s
  | .sessionClose m full => execSessionClose_done m full s
  | .sessionTimeout k => execSessionTimeout_done k s
  | .blockExpire k => execBlockExpire_done k s
  | .copRelay m => execCopRelay_done m s
  | .timePoll m d => execTimePoll_done m d s
  | .timePollAnswer node body => execTimePollAnswer_done node body s
  | .pollRoundStart => execPollRoundStart_done s
  | .pollSend => execPollSend_done s
  | .pollTimeout node => execPollTimeout_done node s
  | .announceDue => execAnnounceDue_done s
  | .announceReceive node path lane addr => execAnnounceReceive_done node path lane addr s
  | .notify m full => execNotify_done m full s
  | .streamSampleSend k path lane => execStreamSampleSend_done k path lane s
  | .domainLevelSchedule results => execDomainLevelSchedule_done results s
  | .courseAllocate k t => execCourseAllocate_done k t s
  | .domainAbort k number => execDomainAbort_done k number s
  | .registerWrite addr size contiguous v => execRegisterWrite_done addr size contiguous v s
  | .wideLoRead addr size => execWideLoRead_done addr size s
  | .pcieUnsupportedRequest => execPcieUnsupportedRequest_done s
  | .pcieFlr => execPcieFlr_done s
  | .cfgParityScan addr flips => execCfgParityScan_done addr flips s
  | .coldReset => execColdReset_done s
  | .coldResetRelease cool => execColdResetRelease_done cool s
  | .bootStage1Verified => execBootStage1Verified_done s
  | .bootEnginesLoaded => execBootEnginesLoaded_done s
  | .setupRecordApplied => execSetupRecordApplied_done s
  | .calSetsLoaded => execCalSetsLoaded_done s
  | .secLockSet => execSecLockSet_done s
  | .mgtReady => execMgtReady_done s
  | .supplyUndervoltage => execSupplyUndervoltage_done s
  | .supplyRestored => execSupplyRestored_done s
  | .secLockWrite by_ => execSecLockWrite_done by_ s
  | .windowTimeout => execWindowTimeout_done s
  | .customerHashFuse => execCustomerHashFuse_done s
  | .attRequest by_ nonce => execAttRequest_done by_ nonce s
  | .attQuoteReady => execAttQuoteReady_done s
  | .funcResetAssert by_ k => execFuncResetAssert_done by_ k s
  | .funcResetRelease by_ k => execFuncResetRelease_done by_ k s
  | .funcResetExit k => execFuncResetExit_done k s
  | .lodgeCoreReset by_ k => execLodgeCoreReset_done by_ k s
  | .lodgeCoreRestart k good => execLodgeCoreRestart_done k good s
  | .warmResetRequest by_ => execWarmResetRequest_done by_ s
  | .warmResetStart => execWarmResetStart_done s
  | .ciphUnblock by_ => execCiphUnblock_done by_ s
  | .imgBegin by_ kind len => execImgBegin_done by_ kind len s
  | .imgAppend by_ kind len => execImgAppend_done by_ kind len s
  | .imgCommit by_ kind len => execImgCommit_done by_ kind len s
  | .imgCommitDone failed => execImgCommitDone_done failed s
  | .imgCancel by_ kind len => execImgCancel_done by_ kind len s
  | .imgRunRecovery by_ kind len => execImgRunRecovery_done by_ kind len s
  | .refActivityReturn r => execRefActivityReturn_done r s
  | .oscinReturn => execOscinReturn_done s
  | .remoteFaultChange p v => execRemoteFaultChange_done p v s
  | .flexeLockChange k locked gid map => execFlexeLockChange_done k locked gid map s
  | .mgtLinkChange k v => execMgtLinkChange_done k v s
  | .vddNvThreshold above => execVddNvThreshold_done above s
  | .pcieReadAbort addr size contiguous => execPcieReadAbort_done addr size contiguous s

theorem Done.completes {r : State} {o : Ans} {p : State → Prop} (h : Done r o) (k : ∀ t, Keeps r t → p t) :
    Completes o p :=
  match o, h with
  | .next t, h => ⟨t, rfl, k t h⟩

theorem exec_next_keeps {c : Instr} {s t : State} (h : exec c s = .next t) : Keeps s t := by
  have d := exec_done c s
  rwa [h] at d

/-- A step undoes nothing but the queue, which it may shorten. -/
theorem step_next_keeps {s t : State} (h : step s = .next t) : Keeps { s with pending := t.pending } t := by
  unfold step at h
  split at h
  next hq =>
    cases h
    have k := State.elapse_keeps (Keeps.refl s) 1
    rwa [k.pending]
  next c rest hq =>
    have k := exec_next_keeps h
    rwa [k.pending]

/-! ### The obligations -/

/-- Settles O4: no command stops, and its next state is one that `Keeps` allows. -/
theorem everyCommandAnswersANextState : Obligations.EveryCommandAnswersANextState := fun c s =>
  (exec_done c s).completes fun _ k => ⟨k.pending, k.clk, k.free, k.fitted, k.svn, k.cust⟩

/-- Settles O7: a step is one command or one idle cycle, and neither undoes a fuse or changes the part. -/
theorem stepsKeepFusesAndPart : Obligations.StepsKeepFusesAndPart := by
  intro s t v h b hv hh hb hstep
  have k := step_next_keeps hstep
  have hfused : s.sec.cust.isSome = true := by rw [hh]; rfl
  exact ⟨hv.trans k.svn, (k.cust hfused).trans hh, k.fitted.trans hb⟩

end Sys2Proof.Machine
end

section
/-!
SUPPORT. The architecture of 01: the idle cycle and the reset values (O2, O3), the causes and the banks of Levels (O8, O9), and
a Course from its first write to its abort window (O12).
-/

namespace Sys2Proof.Machine

theorem Completes.of_next {o : Ans} {t : State} {p : State → Prop} (e : o = .next t) (h : p t) : Completes o p := ⟨t, e, h⟩

/-! ### The idle cycle -/

theorem elapse_pending (s : State) (n : Nat) : (s.elapse n).pending = s.pending :=
  elapse_same State.pending (fun _ _ _ _ => rfl) s n

theorem elapse_tb (s : State) (n : Nat) : (s.elapse n).tb = if s.cold then s.tb else s.tb.map fun b => b.after n := by
  unfold State.elapse
  extract_lets t
  rw [apply_ite State.tb]

theorem elapse_tb3 (s : State) (n : Nat) : (s.elapse n).cst.tb3 = s.cst.tb3.after n := by
  unfold State.elapse
  extract_lets t
  rw [apply_ite State.cst]
  exact congrArg CstState.tb3 (ite_self _)

theorem TimeBase.after_one (b : TimeBase) : b.after 1 = { b with acc := b.acc + b.step } := by
  unfold TimeBase.after
  rw [Nat.one_mul]

/-- Time passing leaves every part but the clocks. -/
theorem elapse_same_part (s : State) (n : Nat) (p : Part) (hc : p ≠ .clock) (h3 : p ≠ .tb3) : s.same (s.elapse n) p := by
  have clocks : Nat.testBit 8388612 p.ix = false := by revert hc h3; cases p <;> decide
  exact (State.elapse_fr (F := 8388612) (Frame.refl s) n).part p clocks

theorem step_idle (s : State) (h : s.pending = []) : step s = .next (s.elapse 1) := by
  unfold step
  rw [h]

/-- Settles O2: on an empty queue one PLU cycle passes, which is time alone. -/
theorem idleStepIsOneCycle : Obligations.IdleStepIsOneCycle := by
  intro s hq
  refine ⟨s.elapse 1, step_idle s hq, elapse_clk s 1, ?_, fun hc => ?_, fun hc x b hb => ?_, ?_, elapse_same_part s 1⟩
  · rw [elapse_tb3, TimeBase.after_one]
  · rw [elapse_tb, if_pos hc]
  · rw [elapse_tb, if_neg (by simp [hc]), List.getElem?_map, hb, ← TimeBase.after_one]
    rfl
  · rw [elapse_pending, hq]

/-! ### The reset values -/

/-- The store of the device in cold reset lists no word. -/
theorem reset_reg (a : Nat) : State.reset.reg a = resetWord a := rfl

/-- Registers of a lane whose reset value is not 0 (register tables of 02, 03 and 12). -/
theorem reset_laneRegs : ∀ n : Lane, State.reset.is (fCONV_CTRL_DAC_MUTE n) = true ∧
    State.reset.nat (aRXD_CD_HINT n) = 0x80000000 ∧ State.reset.get (fCONV_SPARE_STANDIN n 0) = 0x7F ∧ State.reset.nat (aKSC_NETID n) = 1 := by decide

/-- Settles O3: every register reads its reset value from the empty store, and the other parts are as `State.reset` sets them. -/
theorem resetHoldsResetValues : Obligations.ResetHoldsResetValues :=
  ⟨reset_reg, rfl, rfl, rfl, rfl, rfl, rfl, rfl, rfl, rfl, reset_laneRegs⟩

/-! ### The causes of a Level -/

/-- A number rounded up to a multiple of a period is not below it. -/
theorem divUp_mul_ge (a p : Nat) (hp : 0 < p) : a ≤ divUp a p * p := by
  unfold divUp
  rw [if_neg hp.ne']
  have h := Nat.lt_div_mul_add (a := p - 1 + a) hp
  omega

/-- R16: the next multiple of the period that is not before this PLU cycle and later than the last periodic Level. -/
def State.duePeriodic (s : State) : Nat :=
  let p := 1000000 * s.get fGLB_LVL_PERIOD_MS
  let due := divUp s.dueFrom p * p
  if due ≤ s.lvl.lastPer then (s.lvl.lastPer / p + 1) * p else due

theorem duePeriodic_spec (s : State) (hp : 0 < s.get fGLB_LVL_PERIOD_MS) :
    s.dueFrom ≤ s.duePeriodic ∧ s.lvl.lastPer < s.duePeriodic ∧
    s.duePeriodic % (s.get fGLB_LVL_PERIOD_MS * 1000000) = 0 := by
  unfold State.duePeriodic
  rw [Nat.mul_comm (s.get fGLB_LVL_PERIOD_MS)]
  extract_lets p due
  have hp : 0 < p := by omega
  have from_le : s.dueFrom ≤ due := divUp_mul_ge _ _ hp
  have last_lt : s.lvl.lastPer < (s.lvl.lastPer / p + 1) * p := Nat.lt_mul_of_div_lt (Nat.lt_succ_self _) hp
  split
  · exact ⟨by omega, last_lt, Nat.mul_mod_left _ _⟩
  · exact ⟨from_le, by omega, Nat.mul_mod_left _ _⟩

theorem execLevelPeriodic_due (s : State) (hc : s.cold = false) (hp : 0 < s.get fGLB_LVL_PERIOD_MS) :
    execLevelPeriodic s = .next (({ s.waitTb 0 s.duePeriodic with
      lvl := { (s.waitTb 0 s.duePeriodic).lvl with lastPer := s.duePeriodic } } : State).strobe causePeriodic s.duePeriodic 0 0) := by
  unfold execLevelPeriodic
  extract_lets p
  rw [if_neg (by simp [hc, p, hp.ne'])]
  rfl

section Causes

variable (s : State) (hc : s.cold = false) (hs : ∀ c, s.lvl.strobe = some c → c < s.clk)
include hc hs

/-- R16: the periodic Level. -/
theorem levelPeriodic_level (hp : 0 < s.get fGLB_LVL_PERIOD_MS) : Completes (exec .levelPeriodic s) fun t =>
    t.lvl.number = (s.lvl.number + 1) % 2 ^ 32 ∧ t.lvl.frozen = allIslands ∧
    s.dueFrom ≤ t.lvl.lastPer ∧ s.lvl.lastPer < t.lvl.lastPer ∧
    t.lvl.lastPer % (s.get fGLB_LVL_PERIOD_MS * 1000000) = 0 ∧ t.lvl.slots = s.lvl.slots := by
  refine Completes.of_next (execLevelPeriodic_due s hc hp) ?_
  obtain ⟨number, -, frozen, lastPer, slots, -⟩ := strobe_fresh
    { s.waitTb 0 s.duePeriodic with lvl := { (s.waitTb 0 s.duePeriodic).lvl with lastPer := s.duePeriodic } }
    causePeriodic s.duePeriodic 0 0 (wait_fresh s hs 0 s.duePeriodic)
  obtain ⟨from_le, last_lt, multiple⟩ := duePeriodic_spec s hp
  rw [number, frozen, lastPer, slots]
  simp [from_le, last_lt, multiple]

/-- R17: the Level at a 15-minute boundary. -/
theorem levelQ15_level : Completes (exec .levelQ15 s) fun t =>
    t.lvl.number = (s.lvl.number + 1) % 2 ^ 32 ∧ t.lvl.frozen = allIslands ∧
    t.lvl.last15 = s.dueBoundary 900 s.lvl.last15 ∧ t.lvl.last24 = s.lvl.last24 ∧ t.lvl.slots = s.lvl.slots := by
  refine Completes.of_next (if_neg (by simp [hc])) ?_
  obtain ⟨number, -, frozen, -, slots, last15, last24, -⟩ := strobe_fresh _ causeQ15
    (1000000000 * s.dueBoundary 900 s.lvl.last15) (s.dueBoundary 900 s.lvl.last15) 0 (wait_fresh s hs 0 _)
  rw [number, frozen, slots, last15, last24]
  simp [causeQ15, bitOf]

/-- R17: the Level at a 24-hour boundary. -/
theorem levelD24_level : Completes (exec .levelD24 s) fun t =>
    t.lvl.number = (s.lvl.number + 1) % 2 ^ 32 ∧ t.lvl.frozen = allIslands ∧
    t.lvl.last24 = s.dueBoundary 86400 s.lvl.last24 ∧ t.lvl.last15 = s.lvl.last15 ∧ t.lvl.slots = s.lvl.slots := by
  refine Completes.of_next (if_neg (by simp [hc])) ?_
  obtain ⟨number, -, frozen, -, slots, last15, last24, -⟩ := strobe_fresh _ causeD24
    (1000000000 * s.dueBoundary 86400 s.lvl.last24) 0 (s.dueBoundary 86400 s.lvl.last24) (wait_fresh s hs 0 _)
  rw [number, frozen, slots, last15, last24]
  simp [causeD24, bitOf]

/-- R16, R407: the Level of a scheduled slot. -/
theorem levelScheduled_level (slot : Fin 16) (ns : Nat) (hslot : s.lvl.slots.getD slot none = some ns) :
    Completes (exec (.levelScheduled slot) s) fun t =>
      t.lvl.number = (s.lvl.number + 1) % 2 ^ 32 ∧ t.lvl.frozen = allIslands ∧
      t.lvl.slots = setAt s.lvl.slots slot none ∧ t.lvl.last15 = s.lvl.last15 ∧ t.lvl.last24 = s.lvl.last24 := by
  have e : exec (.levelScheduled slot) s = .next (({ s.waitTb 0 ns with
      lvl := { (s.waitTb 0 ns).lvl with slots := setAt (s.waitTb 0 ns).lvl.slots slot none } } : State).strobe
      causeScheduled ns 0 0) := by
    show execLevelScheduled slot s = _
    unfold execLevelScheduled
    rw [hslot]
    exact if_neg (by simp [hc])
  refine Completes.of_next e ?_
  obtain ⟨number, -, frozen, -, slots, last15, last24, -⟩ := strobe_fresh
    { s.waitTb 0 ns with lvl := { (s.waitTb 0 ns).lvl with slots := setAt (s.waitTb 0 ns).lvl.slots slot none } }
    causeScheduled ns 0 0 (wait_fresh s hs 0 ns)
  rw [number, frozen, slots, last15, last24]
  simp [causeScheduled, bitOf]

omit hc in
/-- R16, R27: the Level that a host asks for. -/
theorem levelHost_level (by_ : Source) (htake : s.takes by_ aGLB_LVL_CTRL = true) (hfree : s.lvl.hostLevel = none) :
    Completes (exec (.levelHost by_) s) fun t =>
      t.lvl.number = (s.lvl.number + 1) % 2 ^ 32 ∧ t.lvl.frozen = allIslands ∧
      t.lvl.hostLevel = some t.lvl.number ∧ t.lvl.slots = s.lvl.slots := by
  have e : s.hostLevelNow by_ = (((s.elapse 1).strobe causeHost (s.elapse 1).tb0 0 0).answer by_ .ok) :=
    if_neg (by simp [hfree])
  refine Completes.of_next (congrArg Host.Outcome.next ((byWrite_taken s by_ _ _ htake).trans e)) ?_
  have hnow : (s.elapse 1).lvl.strobe ≠ some (s.elapse 1).clk := by
    rw [elapse_lvl, elapse_clk]
    exact fun h => absurd (hs _ h) (by omega)
  obtain ⟨number, -, frozen, -, slots, -, -, hostLevel⟩ := strobe_fresh (s.elapse 1) causeHost (s.elapse 1).tb0 0 0 hnow
  rw [State.answer_lvl, number, frozen, slots, hostLevel]
  simp [causeHost, bitOf]

end Causes

/-- Settles O8: each cause waits for its instant and strobes there, on a PLU cycle of its own. -/
theorem levelCauses : Obligations.LevelCauses := fun s hc hs =>
  ⟨levelPeriodic_level s hc hs, levelQ15_level s hc hs, levelD24_level s hc hs, levelScheduled_level s hc hs,
    levelHost_level s hs⟩

/-! ### The banks of Levels -/

/-- R20: the freeze of an island ends. -/
theorem levelFreezeEnd_ends (s : State) (isl : Island) (h : s.lvl.frozen.contains isl = true) :
    Completes (exec (.levelFreezeEnd isl) s) fun t =>
      t.lvl = { s.lvl with
        heldCounts := s.lvl.heldCounts.filter (fun x => !(x.1 == isl)), frozen := s.lvl.frozen.filter fun x => x != isl } ∧
      t.regs = ((s.lvl.heldCounts.filter fun x => x.1 == isl).foldl (fun s x => s.addNow x.2.1 x.2.2) s).regs := by
  refine ⟨_, if_pos h, ?_, flushHeld_regs s _ fun i => i == isl⟩
  dsimp only
  rw [flushHeld_lvl, waitClk_lvl]

/-- R27: the oldest waiting Level starts its copy. -/
theorem levelCopyStart_starts (s : State) (x : Level) (rest : List Level) (k : Nat) (hx : s.lvl.stage = x :: rest)
    (hk : s.lvl.freeBank = some k) : Completes (exec .levelCopyStart s) fun t =>
      t = { s with lvl := { s.lvl with stage := rest, banks := setAt s.lvl.banks k (.copying x) } } := by
  have e : s.lvl.startCopy = { s.lvl with stage := rest, banks := setAt s.lvl.banks k (.copying x) } := by
    unfold LevelSeq.startCopy
    rw [hx, hk]
  refine ⟨_, rfl, ?_⟩
  rw [e]

/-- R24: the copy of the oldest Level being copied completes. -/
theorem levelCopyComplete_completes (s : State) (k : Nat) (x : Level) (h : s.lvl.oldestCopy = some (k, x)) :
    Completes (exec .levelCopyComplete s) fun t =>
      t.lvl = { s.lvl with banks := setAt s.lvl.banks k (.complete x), latest := some k, hostLevel := t.lvl.hostLevel } ∧
      t.lvl.hostLevel = (if s.lvl.hostLevel = some x.number then none else s.lvl.hostLevel) ∧
      t.get fGLB_ALARM_LEVEL = 1 ∧ s.RegsBut t [aGLB_ALARM] := by
  have e : exec .levelCopyComplete s = .next ((({ s with lvl := { s.lvl with
      banks := setAt s.lvl.banks k (.complete x), latest := some k,
      hostLevel := if s.lvl.hostLevel = some x.number then none else s.lvl.hostLevel } } : State).raise
      fGLB_ALARM_LEVEL).streamsDue x) := by
    show execLevelCopyComplete s = _
    unfold execLevelCopyComplete
    rw [h]
  refine ⟨_, e, ?_, ?_, ?_, ?_⟩
  · rw [streamsDue_lvl, State.raise_lvl]
  · rw [streamsDue_lvl, State.raise_lvl]
  · rw [State.get_congr (streamsDue_regs _ x)]
    exact State.get_raise_same _ _ (by decide) (by decide)
  · refine State.RegsBut.same (State.RegsBut.raise ?_ _ (by decide)) (streamsDue_regs _ x)
    exact (State.RegsBut.refl s _).same rfl

/-- R406, R438: the latest complete bank is held, where no other holder holds one. -/
theorem levelHold_holds (s : State) (by_ : Source) (k : Nat) (htake : s.takes by_ aGLB_LVL_CTRL = true)
    (hk : s.lvl.latest = some k) (hh : ∀ h j, s.lvl.held = some (h, j) → h = by_) :
    Completes (exec (.levelHold by_) s) fun t => t.lvl = { s.lvl with held := some (by_, k) } ∧ t.regs = s.regs := by
  have e : s.holdLevel by_ = ({ s with lvl := { s.lvl with held := some (by_, k) } } : State).answer by_ .ok := by
    unfold State.holdLevel
    rw [hk]
    dsimp only
    split
    next h j hj => exact if_pos (hh h j hj)
    next => rfl
  refine ⟨_, congrArg Host.Outcome.next ((byWrite_taken s by_ _ _ htake).trans e), ?_, ?_⟩
  · rw [State.answer_lvl]
  · rw [State.regs_answer]

/-- R26: a release changes the hold alone: its holder's ends. -/
theorem releaseLevel_own (s : State) (by_ : Source) (j : Nat) (h : s.lvl.held = some (by_, j)) :
    s.releaseLevel by_ = { s with lvl := { s.lvl with held := none } } := by
  unfold State.releaseLevel
  rw [h]
  exact if_pos rfl

/-- R26: a hold that is not the releaser's, or none, stays. -/
theorem releaseLevel_other (s : State) (by_ : Source) (h : ∀ j, s.lvl.held ≠ some (by_, j)) : s.releaseLevel by_ = s := by
  unfold State.releaseLevel
  split
  next h' j hj => exact if_neg (by rintro rfl; exact h j hj)
  next => rfl

theorem releaseLevel_held (s : State) (by_ : Source) :
    s.releaseLevel by_ = { s with lvl := { s.lvl with held := (s.releaseLevel by_).lvl.held } } := by
  by_cases h : ∃ j, s.lvl.held = some (by_, j)
  · obtain ⟨j, h⟩ := h
    rw [releaseLevel_own s by_ j h]
  · rw [releaseLevel_other s by_ (not_exists.mp h)]

/-- R26, R438: a release by a source. -/
theorem levelRelease_releases (s : State) (by_ : Source) (htake : s.takes by_ aGLB_LVL_CTRL = true) :
    Completes (exec (.levelRelease by_) s) fun t =>
      t.lvl = { s.lvl with held := t.lvl.held } ∧ t.regs = s.regs ∧
      (∀ j, s.lvl.held = some (by_, j) → t.lvl.held = none) ∧
      (∀ h j, s.lvl.held = some (h, j) → h ≠ by_ → t.lvl.held = s.lvl.held) := by
  refine Completes.of_next (congrArg Host.Outcome.next (byWrite_taken s by_ _ _ htake)) ?_
  rw [State.answer_lvl, State.regs_answer]
  refine ⟨congrArg State.lvl (releaseLevel_held s by_), by rw [releaseLevel_held], fun j h => ?_,
    fun h j hj hne => ?_⟩
  · rw [releaseLevel_own s by_ j h]
  · rw [releaseLevel_other s by_ fun i hi => hne (by simp_all)]

/-- Settles O9: each command of the banks does its one change to the Level sequencer. -/
theorem levelBanks : Obligations.LevelBanks := fun s =>
  ⟨levelFreezeEnd_ends s, levelCopyStart_starts s, levelCopyComplete_completes s, levelHold_holds s, levelRelease_releases s⟩

/-! ### The Course sequencer -/

@[simp] theorem announceCourse_crs (s : State) (a : Armed) (k : Nat) : (s.announceCourse a k).crs = s.crs :=
  Frame.crs (State.announceCourse_fr (F := 18449) s a k (Frame.refl s))

@[simp] theorem rematchAll_crs (s : State) : s.rematchAll.crs = s.crs :=
  Frame.crs (State.rematchAll_fr (F := 17) s (Frame.refl s))

/-- The result of a Course command is shown in the sequencer; no Course changes. -/
theorem courseResult_crs (s : State) (by_ : Source) (code : Code) (w : Nat × Nat) (commit : Bool) :
    (s.courseResult by_ code w commit).crs = { s.crs with result := code.num, where_ := w } := by
  unfold State.courseResult
  cases by_ with
  | pcie => simp
  | cop k => simp

/-- R29: a staged write opens the pending Course where none is pending. -/
theorem stage_opens (s : State) (by_ : Source) (w : Staged) (hv : s.crs.validating = none) (hp : s.crs.pending = none) :
    s.stage by_ w = (s.modCrs fun c => { c with pending := some ⟨by_, [w]⟩ }, .ok) := by
  unfold State.stage
  rw [if_neg (by simp [hv]), hp]

/-- R29, R439: PCIe's first staged write. -/
theorem courseStage_opens (s : State) (hc : s.cold = false) (addr : Nat) (v : Word) (w : Staged)
    (hg : s.writeGate addr true = none) (hw : stageReg (s.nat aCIPH_CTX_SEL % 65536) addr v.toNat = some w)
    (hv : s.crs.validating = none) (hp : s.crs.pending = none) :
    Completes (exec (.courseStage .pcie (.reg addr v)) s) fun t =>
      t = { s with crs := { s.crs with pending := some ⟨.pcie, [w]⟩ } } := by
  have e : exec (.courseStage .pcie (.reg addr v)) s = .next (s.stagePcie addr v.toNat) := by
    show execCourseStage .pcie (.reg addr v) s = _
    unfold execCourseStage
    simp only [hc, hg, Bool.false_eq_true, if_false]
  refine Completes.of_next e ?_
  unfold State.stagePcie
  simp only [hw, stage_opens s .pcie w hv hp, stageAcc]
  rfl

/-- R32 to R34: what a commit needs to be taken. -/
structure State.Committable (s : State) (by_ : Source) (mode number : Nat) (t : Time80) (p : Pending) : Prop where
  modeOk : mode ≤ 1
  nsOk : t.ns ≤ 999999999
  nonzero : number ≠ 0
  later : s.crs.any = true → serialGt number s.crs.last = true
  safe : s.safe 17 = false
  validating : s.crs.validating = none
  pending : s.crs.pending = some p
  owner : p.owner = by_

/-- R33: a commit hands the pending Course to validation. -/
theorem commit_validates (s : State) (by_ : Source) (mode number : Nat) (t : Time80) (p : Pending)
    (h : s.Committable by_ mode number t p) :
    s.commit by_ mode number t = s.modCrs fun c => { c with
      pending := none, validating := some ⟨by_, p.writes, mode == 1, number, timeNs t, false⟩ } := by
  obtain ⟨hmode, hns, hnum, hlater, hsafe, hv, hp, ho⟩ := h
  have ok : s.commitRefusal by_ mode number t = none := by
    unfold State.commitRefusal
    rw [if_neg (by simp; omega), if_neg (by simp [hv, hsafe]), hp]
    simp only [ho, ne_eq, not_true_eq_false, if_false]
    exact if_neg (by cases ha : s.crs.any <;> simp_all)
  unfold State.commit
  rw [ok, hp]

/-- The registers that a commit by PCIe writes. -/
def commitRegs : List Nat := [aGLB_CRS_NUM, aGLB_CRS_T, aGLB_CRS_T + 4, aGLB_CRS_T + 8]

theorem setCommit_regsBut (s : State) (number : Nat) (t : Time80) : s.RegsBut (s.setCommit number t) commitRegs :=
  ((((State.RegsBut.refl s _).setNat _ _ (by decide)).setNat _ _ (by decide)).setNat _ _ (by decide)).set _ _ (by decide)

theorem setCommit_crs (s : State) (number : Nat) (t : Time80) : (s.setCommit number t).crs = s.crs := by
  unfold State.setCommit
  simp

/-- The registers of a commit read back what it wrote. -/
theorem nat_setCommit_num (s : State) (number : Nat) (t : Time80) (h : number < 2 ^ 32) :
    (s.setCommit number t).nat aGLB_CRS_NUM = number := by
  unfold State.setCommit
  rw [State.nat_set_other _ _ _ _ (by decide), State.nat_setNat_other _ _ _ _ (by decide),
    State.nat_setNat_other _ _ _ _ (by decide), State.nat_setNat_same, Nat.mod_eq_of_lt h]

theorem nat_setCommit_ns (s : State) (number : Nat) (t : Time80) (h : t.ns < 2 ^ 32) :
    (s.setCommit number t).nat aGLB_CRS_T = t.ns := by
  unfold State.setCommit
  rw [State.nat_set_other _ _ _ _ (by decide), State.nat_setNat_other _ _ _ _ (by decide), State.nat_setNat_same,
    Nat.mod_eq_of_lt h]

theorem nat_setCommit_secLow (s : State) (number : Nat) (t : Time80) :
    (s.setCommit number t).nat (aGLB_CRS_T + 4) = t.sec % 2 ^ 32 := by
  unfold State.setCommit
  rw [State.nat_set_other _ _ _ _ (by decide), State.nat_setNat_same]

theorem nat_setCommit_secHigh (s : State) (number : Nat) (t : Time80) :
    (s.setCommit number t).nat (aGLB_CRS_T + 8) % 65536 = t.sec / 2 ^ 32 % 65536 := by
  have h := State.get_set_same (((s.setNat aGLB_CRS_NUM number).setNat aGLB_CRS_T t.ns).setNat (aGLB_CRS_T + 4) t.sec)
    ⟨aGLB_CRS_T + 8, 0, 16⟩ (t.sec / 2 ^ 32) (by decide)
  simpa [State.get, fld, bitsOf, State.nat, State.setCommit] using h

/-- R439: a commit by PCIe is one with the values that its registers take. -/
theorem commitPcie_setCommit (s : State) (mode number : Nat) (t : Time80) (hn : number < 2 ^ 32) (hns : t.ns ≤ 999999999)
    (hsec : t.sec < 2 ^ 48) :
    (s.setCommit number t).commitPcie mode = (s.setCommit number t).commit .pcie mode number t := by
  unfold State.commitPcie
  rw [nat_setCommit_num s number t hn, nat_setCommit_ns s number t (by omega), nat_setCommit_secLow, nat_setCommit_secHigh,
    show t.sec % 2 ^ 32 + 2 ^ 32 * (t.sec / 2 ^ 32 % 65536) = t.sec by omega]

theorem setCommit_committable {s : State} {by_ : Source} {mode number : Nat} {t : Time80} {p : Pending}
    (h : s.Committable by_ mode number t p) : (s.setCommit number t).Committable by_ mode number t p := by
  obtain ⟨hmode, hns, hnum, hlater, hsafe, hv, hp, ho⟩ := h
  have crs := setCommit_crs s number t
  refine ⟨hmode, hns, hnum, by rwa [crs], ?_, by rwa [crs], by rwa [crs], ho⟩
  unfold State.safe
  rw [setCommit_regsBut s number t aGLB_SAFE (by decide)]
  exact hsafe

/-- R33, R439: a commit that is taken. -/
theorem courseCommit_validates (s : State) (hc : s.cold = false) (by_ : Source) (mode number : Nat) (t : Time80) (p : Pending)
    (htake : by_ = .pcie → s.takes .pcie aGLB_CRS_CMD = true) (hn : number < 2 ^ 32) (hsec : t.sec < 2 ^ 48)
    (h : s.Committable by_ mode number t p) : Completes (exec (.courseCommit by_ mode number t) s) fun u =>
      u.crs = { s.crs with pending := none, validating := some ⟨by_, p.writes, mode == 1, number, timeNs t, false⟩ } ∧
      s.RegsBut u commitRegs := by
  cases by_ with
  | pcie =>
    have e : exec (.courseCommit .pcie mode number t) s = .next ((s.setCommit number t).commitPcie (mode % 2)) :=
      congrArg Host.Outcome.next (hostWrite_taken s _ _ (htake rfl))
    refine Completes.of_next e ?_
    rw [Nat.mod_eq_of_lt (Nat.lt_succ_of_le h.modeOk), commitPcie_setCommit s mode number t hn h.nsOk hsec,
      commit_validates _ _ _ _ _ _ (setCommit_committable h), State.modCrs_crs, setCommit_crs]
    exact ⟨rfl, (setCommit_regsBut s number t).same rfl⟩
  | cop k =>
    have e : exec (.courseCommit (.cop k) mode number t) s = .next (s.commit (.cop k) mode number t) :=
      if_neg (by simp [hc])
    refine Completes.of_next e ?_
    rw [commit_validates _ _ _ _ _ _ h]
    exact ⟨rfl, (State.RegsBut.refl s _).same rfl⟩

/-- R35: a Course that is armed: its number, its owner and its items; the commit's time where it names one. -/
theorem arm_crs (s : State) (v : Validating) : ∃ a, (s.arm v).crs = { s.crs with validating := none, armed := some a } ∧
    a.number = v.number ∧ a.owner = v.owner ∧ a.writes = v.writes ∧ a.struck = false ∧
    a.items = courseItems s (s.after v.writes) v.writes ∧ (v.atTime = true → a.time = v.time) := by
  unfold State.arm
  extract_lets is time rec_ a
  refine ⟨a, ?_, rfl, rfl, rfl, rfl, rfl, fun h => if_pos h⟩
  rw [rematchAll_crs, announceCourse_crs, State.modCrs_crs]

/-- R34, R35: a Course found valid in time is armed. -/
theorem courseValidationEnd_arms (s : State) (v : Validating) (hv : s.crs.validating = some v)
    (hok : s.validate v.writes = none) (ha : s.crs.armed = none) (ht : v.atTime = true → s.tb0 + 50000 ≤ v.time) :
    Completes (exec .courseValidationEnd s) fun t =>
      t.crs.validating = none ∧ t.crs.pending = s.crs.pending ∧ t.crs.result = 0 ∧
      ∃ a, t.crs.armed = some a ∧ a.number = v.number ∧ a.owner = v.owner ∧ a.writes = v.writes ∧ a.struck = false ∧
        a.items = courseItems s (s.after v.writes) v.writes ∧ (v.atTime = true → a.time = v.time) := by
  have intime : (v.atTime && decide (v.time < 50000 + s.tb0)) = false := by
    cases h : v.atTime with
    | false => rfl
    | true => simpa [Nat.add_comm] using ht h
  have e : exec .courseValidationEnd s = .next ((s.arm v).courseResult v.owner .ok (0, 0) true) := by
    show execCourseValidationEnd s = _
    unfold execCourseValidationEnd
    simp only [hv, hok, ha, intime, Option.isSome_none, Bool.false_eq_true, if_false]
  refine Completes.of_next e ?_
  obtain ⟨a, hcrs, ha⟩ := arm_crs s v
  rw [courseResult_crs, hcrs]
  exact ⟨rfl, rfl, rfl, a, rfl, ha⟩

/-- R34: a Course found invalid stays pending. -/
theorem courseValidationEnd_refuses (s : State) (v : Validating) (hv : s.crs.validating = some v) (code : Code) (w : Nat × Nat)
    (hbad : s.validate v.writes = some (code, w)) (ho : v.orphan = false) :
    Completes (exec .courseValidationEnd s) fun t =>
      t.crs = { s.crs with validating := none, pending := some ⟨v.owner, v.writes⟩, result := code.num, where_ := w } := by
  have e : exec .courseValidationEnd s = .next ((s.modCrs fun c => { c with
      validating := none, pending := if v.orphan then c.pending else some ⟨v.owner, v.writes⟩ }).courseResult
      v.owner code w true) := by
    show execCourseValidationEnd s = _
    unfold execCourseValidationEnd
    simp only [hv, hbad]
  refine Completes.of_next e ?_
  rw [courseResult_crs, State.modCrs_crs, if_neg (by simp [ho])]

/-- R29, R30: the owner discards its pending Course. -/
theorem courseDiscard_discards (s : State) (by_ : Source) (p : Pending) (htake : s.takes by_ aGLB_CRS_CMD = true)
    (hv : s.crs.validating = none) (hp : s.crs.pending = some p) (ho : p.owner = by_) :
    Completes (exec (.courseDiscard by_) s) fun t =>
      t.crs = { s.crs with pending := none, result := 0, where_ := (0, 0) } := by
  have e : s.discard by_ = (((s.modCrs fun c => { c with pending := none }).courseLog by_ .ok).courseResult by_ .ok (0, 0) false) := by
    unfold State.discard
    simp only [hv, hp, ho, Option.isSome_none, Bool.false_eq_true, if_false, if_true]
  have log : ∀ t : State, t.courseLog by_ .ok = t := fun t => by cases by_ <;> rfl
  refine Completes.of_next (congrArg Host.Outcome.next ((byWrite_taken s by_ _ _ htake).trans e)) ?_
  rw [courseResult_crs, log, State.modCrs_crs]
  rfl

/-- R36: the countdowns of the lanes are registers alone; of the sequencer the armed Course leaves. -/
theorem abortArmed_crs (s : State) (a : Armed) : (s.abortArmed a).crs = { s.crs with armed := none } := by
  unfold State.abortArmed
  extract_lets t
  have e : t.crs = s.crs := eachLane_same State.crs _ (fun n u => by split <;> rfl) s
  rw [rematchAll_crs, announceCourse_crs, State.modCrs_crs, e]

/-- R36: the owner aborts its armed Course. -/
theorem courseAbort_aborts (s : State) (by_ : Source) (a : Armed) (htake : s.takes by_ aGLB_CRS_CMD = true)
    (ha : s.crs.armed = some a) (ho : a.owner = by_) (hab : s.abortable a = true) :
    Completes (exec (.courseAbort by_) s) fun t => t.crs = { s.crs with armed := none, result := 0, where_ := (0, 0) } := by
  have e : s.abort by_ = (s.abortArmed a).courseResult by_ .ok (0, 0) false := by
    unfold State.abort
    simp [ha, ho, hab]
  refine Completes.of_next (congrArg Host.Outcome.next ((byWrite_taken s by_ _ _ htake).trans e)) ?_
  rw [courseResult_crs, abortArmed_crs]
  rfl

/-- R36: the abort window closes. -/
theorem courseAbortWindowClose_closes (s : State) (a : Armed) (ha : s.crs.armed = some a) :
    Completes (exec .courseAbortWindowClose s) fun t =>
      t.crs = { s.crs with armed := some { a with closed := true } } ∧ t.regs = s.regs := by
  have e : exec .courseAbortWindowClose s =
      .next ((s.waitBefore 0 a.time 100000).modArmed fun a => { a with closed := true }) := by
    show execCourseAbortWindowClose s = _
    unfold execCourseAbortWindowClose
    rw [ha]
  refine ⟨_, e, ?_, ?_⟩
  · rw [State.modArmed, State.modCrs_crs, waitBefore_crs, ha]
    rfl
  · rw [State.modArmed, State.modCrs_regs, State.regs_waitBefore]

/-- Settles O12: each command of the Course sequencer moves its one Course on. -/
theorem courseSequence : Obligations.CourseSequence := fun s hc =>
  ⟨courseStage_opens s hc,
   fun by_ mode number t p htake hmode hn hns hsec hnum hlater hsafe hv hp ho =>
    courseCommit_validates s hc by_ mode number t p htake hn hsec ⟨hmode, hns, hnum, hlater, hsafe, hv, hp, ho⟩,
   fun v hv => ⟨courseValidationEnd_arms s v hv, courseValidationEnd_refuses s v hv⟩,
   courseDiscard_discards s, courseAbort_aborts s, courseAbortWindowClose_closes s⟩

end Sys2Proof.Machine
end

section
/-!
SUPPORT. Rules for fields and registers of a lane: reading beside or elsewhere than where an update wrote, and which
operations leave the registers of CONV and RXD as they are.
-/

namespace Sys2Proof.Machine

/-! ### Fields of one register, registers of one lane -/

/-- Both fields lie in a word, and do not overlap in it. -/
def Fld.beside (f g : Fld) : Bool :=
  decide (f.lo + f.len ≤ 32) && (decide (g.lo + g.len ≤ f.lo) || decide (f.lo + f.len ≤ g.lo))

/-- A field lies in a word and holds at least a bit. -/
def Fld.ok (f : Fld) : Bool := decide (f.lo + f.len ≤ 32) && decide (0 < f.len)

theorem laneAddr_ne {c d b : Nat} (h : c ≠ d) : c + b ≠ d + b := fun e => h (Nat.add_right_cancel e)

theorem State.get_set_beside (s : State) (f g : Fld) (v : Nat) (h : f.beside g = true) : (s.set f v).get g = s.get g := by
  simp only [Fld.beside, Bool.and_eq_true, Bool.or_eq_true, decide_eq_true_eq] at h
  exact State.get_set_other s f g v h.1 (.inr h.2)

theorem State.get_set_elsewhere (s : State) (f g : Fld) (v : Nat) (h : f.addr ≠ g.addr) : (s.set f v).get g = s.get g := by
  unfold State.get
  rw [State.reg_set_other s f v g.addr h]

theorem State.get_set_fits (s : State) (f : Fld) (v : Nat) (h : f.ok = true) : (s.set f v).get f = v % 2 ^ f.len := by
  simp only [Fld.ok, Bool.and_eq_true, decide_eq_true_eq] at h
  exact State.get_set_same s f v h.1

theorem State.get_setB_beside (s : State) (f g : Fld) (b : Bool) (h : f.beside g = true) : (s.setB f b).get g = s.get g :=
  State.get_set_beside s f g _ h

theorem State.get_setB_elsewhere (s : State) (f g : Fld) (b : Bool) (h : f.addr ≠ g.addr) : (s.setB f b).get g = s.get g :=
  State.get_set_elsewhere s f g _ h

theorem State.is_set_beside (s : State) (f g : Fld) (v : Nat) (h : f.beside g = true) : (s.set f v).is g = s.is g := by
  rw [State.is, State.get_set_beside s f g v h, State.is]

theorem State.is_set_elsewhere (s : State) (f g : Fld) (v : Nat) (h : f.addr ≠ g.addr) : (s.set f v).is g = s.is g := by
  rw [State.is, State.get_set_elsewhere s f g v h, State.is]

theorem State.is_setB_beside (s : State) (f g : Fld) (b : Bool) (h : f.beside g = true) : (s.setB f b).is g = s.is g :=
  State.is_set_beside s f g _ h

theorem State.is_setB_elsewhere (s : State) (f g : Fld) (b : Bool) (h : f.addr ≠ g.addr) : (s.setB f b).is g = s.is g :=
  State.is_set_elsewhere s f g _ h

theorem State.is_setB_fits (s : State) (f : Fld) (b : Bool) (h : f.ok = true) : (s.setB f b).is f = b := by
  simp only [Fld.ok, Bool.and_eq_true, decide_eq_true_eq] at h
  exact State.is_setB_same s f b h.1 h.2

theorem State.get_raise_elsewhere (s : State) (f g : Fld) (h : f.addr ≠ g.addr) : (s.raise f).get g = s.get g := by
  rw [State.get_congr (s.regs_raise f), State.get_set_elsewhere s f g 1 h]

theorem State.get_raise_fits (s : State) (f : Fld) (h : f.ok = true) : (s.raise f).get f = 1 := by
  simp only [Fld.ok, Bool.and_eq_true, decide_eq_true_eq] at h
  exact State.get_raise_same s f h.1 h.2

/-- Which functions run depends on the cold reset, the boot hold and one register. -/
theorem laneUp_congr {s t : State} (n : Lane) (hc : t.cold = s.cold) (hb : t.bootHold = s.bootHold)
    (hr : t.reg aSEC_RST_STATUS = s.reg aSEC_RST_STATUS) : t.laneUp n = s.laneUp n := by
  unfold State.laneUp State.up State.held
  rw [hc, hb, hr]

/-- Equal registers are equal fields. -/
theorem State.get_congr_reg {s t : State} (f : Fld) (h : t.reg f.addr = s.reg f.addr) : t.get f = s.get f := by
  unfold State.get
  rw [h]

theorem State.is_congr_reg {s t : State} (f : Fld) (h : t.reg f.addr = s.reg f.addr) : t.is f = s.is f := by
  unfold State.is
  rw [State.get_congr_reg f h]

/-- A fold reaches `P` by one of its steps, where every step keeps what that one needs and what it has reached. -/
theorem foldl_reaches {α : Type} {P U : State → Prop} (f : State → α → State) (x : α) (hit : ∀ s, U s → P (f s x))
    (keep : ∀ s y, U s → P s → P (f s y)) (up : ∀ s y, U s → U (f s y)) :
    ∀ (l : List α) (s : State), U s → P s ∨ x ∈ l → P (l.foldl f s)
  | [], _, _, h => h.resolve_right List.not_mem_nil
  | y :: l, s, u, h => by
    refine foldl_reaches f x hit keep up l (f s y) (up s y u) ?_
    rcases h with h | h
    · exact .inl (keep s y u h)
    · rcases List.mem_cons.mp h with rfl | h
      · exact .inl (hit s u)
      · exact .inr h

/-- A number below 2^32 is held whole. -/
theorem State.nat_setNat_fits (s : State) (a v : Nat) (h : v < 2 ^ 32) : (s.setNat a v).nat a = v := by
  rw [State.nat_setNat_same, Nat.mod_eq_of_lt h]

theorem ofSigned_lt (x : Int) : ofSigned 32 x < 2 ^ 32 := by
  unfold ofSigned
  have := Int.emod_lt_of_pos x (b := ((2 ^ 32 : Nat) : Int)) (by decide)
  omega

theorem toSigned_ofSigned (x : Int) (h : -2 ^ 31 ≤ x) (h' : x < 2 ^ 31) : toSigned 32 (ofSigned 32 x) = x := by
  unfold toSigned ofSigned
  norm_num at *
  omega

/-- An integer of 32 bits is held whole. -/
theorem State.int_setInt_fits (s : State) (a : Nat) (x : Int) (h : -2 ^ 31 ≤ x) (h' : x < 2 ^ 31) : (s.setInt a x).int a = x := by
  unfold State.int State.setInt
  rw [State.nat_setNat_fits _ _ _ (ofSigned_lt x), toSigned_ofSigned x h h']

theorem State.RegsBut.addCnt {s t : State} {as : List Nat} (h : s.RegsBut t as) (a k : Nat) (m : a ∈ as) (m' : a + 4 ∈ as) :
    s.RegsBut (t.addCnt a k) as :=
  .ite _ (h.same rfl) ((h.setNat a _ m).setNat (a + 4) _ m')

/-! ### A lane's parts after a change -/

theorem State.conv_modConv (s : State) (n : Lane) (f : ConvState → ConvState) :
    ((s.modConv n f).lane n).conv = f (s.lane n).conv := by
  rw [State.modConv, State.lane_modLane_same]

theorem State.rxd_modRxd (s : State) (n : Lane) (f : RxdState → RxdState) :
    ((s.modRxd n f).lane n).rxd = f (s.lane n).rxd := by
  rw [State.modRxd, State.lane_modLane_same]

theorem State.tx_modTx (s : State) (n : Lane) (f : TxState → TxState) :
    ((s.modTx n f).lane n).tx = f (s.lane n).tx := by
  rw [State.modTx, State.lane_modLane_same]

end Sys2Proof.Machine
end

section
/-!
SUPPORT. Which operations of PMON, FEC, LFR, KSC, HKM and CAL leave every register of CONV and RXD as it is.
-/

namespace Sys2Proof.Machine

/-! ### The registers of CONV and RXD -/

/-- R426: the addresses of CONV and RXD of the eight lanes. -/
def lineReg (a : Nat) : Prop := 0x1000000 ≤ a ∧ a < 0x2000000 ∧ a % 0x200000 < 0x80000

theorem not_lineReg_low {a : Nat} (h : a < 0x1000000) : ¬ lineReg a := fun k => absurd k.1 (by omega)

/-- The other blocks of a lane lie from 0x80000 of it on. -/
theorem not_lineReg_lane (n : Lane) {c : Nat} (h : decide (0x80000 ≤ c ∧ c < 0x200000) = true) : ¬ lineReg (c + laneBase n) :=
  fun k => by
    have offset := of_decide_eq_true h
    have line := k.2.2
    unfold laneBase at line
    omega

theorem lineReg_lane (n : Lane) {c : Nat} (h : c < 0x80000) : lineReg (c + laneBase n) := by
  have := n.isLt
  unfold lineReg laneBase
  omega

/-- Every register of CONV and RXD holds what it held. -/
def LineSame (s t : State) : Prop := ∀ a, lineReg a → t.reg a = s.reg a

section Rules

variable {s t : State}

theorem LineSame.refl (s : State) : LineSame s s := fun _ _ => rfl

theorem LineSame.trans {u : State} (h : LineSame s t) (k : LineSame t u) : LineSame s u := fun a m => (k a m).trans (h a m)

theorem LineSame.same {u : State} (h : LineSame s t) (e : u.regs = t.regs) : LineSame s u :=
  fun a m => (State.reg_congr e a).trans (h a m)

theorem LineSame.setReg (h : LineSame s t) (a : Nat) (v : Word) (m : ¬ lineReg a) : LineSame s (t.setReg a v) :=
  fun b k => (t.reg_setReg_other a b v fun e => m (e ▸ k)).trans (h b k)

theorem LineSame.setNat (h : LineSame s t) (a v : Nat) (m : ¬ lineReg a) : LineSame s (t.setNat a v) := h.setReg a _ m

theorem LineSame.set (h : LineSame s t) (f : Fld) (v : Nat) (m : ¬ lineReg f.addr) : LineSame s (t.set f v) := h.setReg _ _ m

theorem LineSame.setB (h : LineSame s t) (f : Fld) (b : Bool) (m : ¬ lineReg f.addr) : LineSame s (t.setB f b) := h.setReg _ _ m

theorem LineSame.setWide (h : LineSame s t) (a v : Nat) (m : ¬ lineReg a) (m' : ¬ lineReg (a + 4)) : LineSame s (t.setWide a v) :=
  (h.setNat a _ m).setNat (a + 4) _ m'

theorem LineSame.setWideLane (h : LineSame s t) (n : Lane) {c : Nat} (v : Nat)
    (m : decide (0x80000 ≤ c ∧ c + 4 < 0x200000) = true) : LineSame s (t.setWide (c + laneBase n) v) := by
  have lo := of_decide_eq_true m
  refine h.setWide _ v (not_lineReg_lane n (decide_eq_true (by omega))) ?_
  rw [Nat.add_right_comm]
  exact not_lineReg_lane n (decide_eq_true (by omega))

theorem LineSame.raise (h : LineSame s t) (f : Fld) (m : ¬ lineReg f.addr) : LineSame s (t.raise f) :=
  (h.set f 1 m).same (t.regs_raise f)

theorem LineSame.ite {u : State} (c : Prop) [Decidable c] (h : LineSame s t) (k : LineSame s u) :
    LineSame s (if c then t else u) := by split <;> assumption

theorem LineSame.raiseIf (h : LineSame s t) (c : Bool) (f : Fld) (m : ¬ lineReg f.addr) : LineSame s (t.raiseIf c f) :=
  .ite _ (h.raise f m) h

theorem LineSame.addCnt (h : LineSame s t) (a k : Nat) (m : ¬ lineReg a) (m' : ¬ lineReg (a + 4)) : LineSame s (t.addCnt a k) :=
  .ite _ (h.same rfl) (h.setWide a _ m m')

theorem LineSame.addCntLane (h : LineSame s t) (n : Lane) {c : Nat} (k : Nat)
    (m : decide (0x80000 ≤ c ∧ c + 4 < 0x200000) = true) : LineSame s (t.addCnt (c + laneBase n) k) :=
  .ite _ (h.same rfl) (h.setWideLane n _ m)

theorem LineSame.foldl {α : Type} (f : State → α → State) (l : List α) (k : ∀ (t : State) (x : α), x ∈ l → LineSame t (f t x))
    (h : LineSame s t) : LineSame s (l.foldl f t) := by
  induction l generalizing t with
  | nil => exact h
  | cons x l ih => exact ih (fun u y m => k u y (List.mem_cons_of_mem _ m)) (h.trans (k t x List.mem_cons_self))

theorem LineSame.eachLane (f : Lane → State → State) (k : ∀ n (t : State), LineSame t (f n t)) (h : LineSame s t) :
    LineSame s (t.eachLane f) := h.foldl _ _ fun u n _ => k n u

theorem LineSame.get (h : LineSame s t) (f : Fld) (m : lineReg f.addr) : t.get f = s.get f := State.get_congr_reg f (h _ m)

theorem LineSame.is (h : LineSame s t) (f : Fld) (m : lineReg f.addr) : t.is f = s.is f := State.is_congr_reg f (h _ m)

/-! ### PMON, FEC and LFR -/

theorem LineSame.touch (h : LineSame s t) (n : Lane) : LineSame s (t.touch n) := by
  unfold State.touch
  dsimp only
  refine LineSame.setB (h.same ?_) _ _ (not_lineReg_lane n rfl)
  rw [State.modPmon_regs]
  split <;> rfl

theorem LineSame.showRxFmt (h : LineSame s t) (n : Lane) : LineSame s (t.showRxFmt n) := by
  have off := @not_lineReg_lane n
  have zr := h.setB (fFEC_STATE_ZR n) ((t.rxFmt n).family != 0) (off rfl)
  unfold State.showRxFmt
  refine .ite _ ?_ ?_
  · exact (((zr.set (fFEC_STATE_FEC_RX n) _ (off rfl)).set (fFEC_STATE_ITER_AVAIL n) _
      (off rfl)).setNat (aFEC_RX_LAT n) _ (off rfl)).setNat (aFEC_K n) _
      (off rfl)
  · exact zr.setNat (aFEC_RX_LAT n) _ (off rfl)

theorem LineSame.showBridged (h : LineSame s t) (n : Lane) : LineSame s (t.showBridged n) := by
  unfold State.showBridged
  refine h.foldl _ _ fun u j hj => ?_
  have := List.mem_range.mp hj
  exact .ite _ (.refl u) ((LineSame.refl u).setB (fLFR_SLOT_BRIDGED n j) _ (not_lineReg_lane n (decide_eq_true (by omega))))

theorem LineSame.bridgeCheck (h : LineSame s t) (n : Lane) : LineSame s (t.bridgeCheck n) := by
  unfold State.bridgeCheck
  extract_lets b
  have gone : LineSame s (t.modTx n fun x => { x with bridge := 0, bridgedSent := 0, bridgeFifo := [] }) :=
    h.same (State.modTx_regs ..)
  exact .ite _ h ((gone.showBridged n).raise (fLFR_ALARM_BRIDGE_REL n) (not_lineReg_lane n rfl))

theorem LineSame.rxFmtTurn (h : LineSame s t) (before : State) (n : Lane) : LineSame s (t.rxFmtTurn before n) := by
  unfold State.rxFmtTurn State.bridgesOf
  refine .ite _ (h.showRxFmt n) (LineSame.eachLane _ (fun b u => ?_) ((h.showRxFmt n).same (State.modFec_regs ..)))
  exact .ite _ ((LineSame.refl u).bridgeCheck b) (.refl u)

theorem LineSame.periodEnd (h : LineSame s t) (n : Lane) : LineSame s (t.periodEnd n) := by
  have path : ∀ (u : State) i e e', LineSame u (u.pathBlock n i e e') := fun u _ _ _ =>
    ((LineSame.refl u).touch n).same (State.modPmon_regs ..)
  have trib : ∀ (u : State) i e e', LineSame u (u.tribBlock n i e e') := fun u _ _ _ =>
    ((LineSame.refl u).touch n).same (State.modPmon_regs ..)
  unfold State.periodEnd
  refine LineSame.same (LineSame.ite _ h ?_) (State.modPmon_regs ..)
  exact .foldl _ _ (fun u j _ => trib u j _ _) (.foldl _ _ (fun u g _ => path u g.head _ _) h)

theorem LineSame.periodCut (h : LineSame s t) (n : Lane) : LineSame s (t.periodCut n) := by
  unfold State.periodCut
  extract_lets u
  have k : LineSame s u := (h.periodEnd n).same (State.modPmon_regs ..)
  exact (k.periodEnd n).same (State.modPmon_regs ..)

theorem LineSame.showEgress (h : LineSame s t) (n : Lane) : LineSame s (t.showEgress n) :=
  .ite _ h (h.setB _ _ (not_lineReg_lane n rfl))

theorem LineSame.lfrDefects (h : LineSame s t) (n : Lane) : LineSame s (t.lfrDefects n) := by
  have off := @not_lineReg_lane n
  have tap : ∀ u : State, (u.tapDefect n).regs = u.regs := fun u => by unfold State.tapDefect; split <;> rfl
  unfold State.lfrDefects
  extract_lets sync ver lom was u1 u2 u3 bad u4
  have k2 : LineSame s u2 := ((h.touch n).setB (fLFR_STATE_LOF n) _ (off rfl)).setB (fLFR_STATE_LOM n) _
    (off rfl)
  have k4 : LineSame s u4 := (k2.raiseIf _ (fLFR_ALARM_LOM n) (off rfl)).same (State.modTx_regs ..)
  exact ((k4.touch n).same (tap _)).showEgress n

theorem LineSame.fecEnter (h : LineSame s t) (n : Lane) (code : Nat) : LineSame s (t.fecEnter n code) := by
  unfold State.fecEnter
  extract_lets keep
  exact (h.set (fFEC_STATE_STATE n) code (not_lineReg_lane n rfl)).same (State.modFec_regs ..)

theorem LineSame.lfrAlignAway (h : LineSame s t) (n : Lane) (align : Nat) (cands : List Cand) :
    LineSame s (t.lfrAlignAway n align cands) := by
  have off := @not_lineReg_lane n
  unfold State.lfrAlignAway
  extract_lets u1 u2 u3 u4 u5
  have k2 : LineSame s u2 := ((h.periodCut n).set (fLFR_STATE_ALIGN n) _ (off rfl)).set (fLFR_STATE_CAND n) _
    (off rfl)
  have k3 : LineSame s u3 := (k2.setB (fLFR_STATE_VERIFY n) _ (off rfl)).setB (fLFR_STATE_MF_LOCK n) _
    (off rfl)
  have k5 : LineSame s u5 := (k3.same (u := u4) (State.modLfr_regs ..)).same (State.modTx_regs ..)
  have fec : LineSame s (u5.fecInFrame n false) := k5.fecEnter n 0
  exact (fec.same (u := (u5.fecInFrame n false).ttfRow n false none) (State.modTime_regs ..)).lfrDefects n

theorem LineSame.lfrLos (h : LineSame s t) (n : Lane) (v : Bool) : LineSame s (t.lfrLos n v) := by
  have los := (h.touch n).setB (fLFR_STATE_LOS n) v (not_lineReg_lane n rfl)
  unfold State.lfrLos
  exact .ite _ ((los.raise (fLFR_ALARM_LOS n) (not_lineReg_lane n rfl)).lfrAlignAway n 0 [])
    (los.lfrDefects n)

theorem LineSame.familyTurn (h : LineSame s t) (n : Lane) : LineSame s (t.familyTurn n) := by
  have off := @not_lineReg_lane n
  have away := h.lfrAlignAway n 0 []
  unfold State.familyTurn
  extract_lets u0 u1 u2 u3 u4
  have k1 : LineSame s u1 := away.same (State.modPmon_regs ..)
  refine .ite _ (away.showBridged n) (LineSame.same (t := u4) ?_ (State.modPmon_regs ..))
  refine .foldl _ _ (fun u j hj => ?_) (.foldl _ _ (fun u j hj => ?_) (.foldl _ _ (fun u j hj => ?_) k1))
  · have := List.mem_range.mp hj
    have wides := ((LineSame.refl u).setWideLane n (c := 0xc0800 + 0x10 * j) 0 (decide_eq_true (by omega))).setWideLane n
      (c := 0xc0808 + 0x10 * j) 0 (decide_eq_true (by omega))
    exact wides.setNat (aLFR_SLOT n j) 0 (off (decide_eq_true (by omega)))
  · have lt : ∀ j ∈ [2, 3, 4, 5, 6, 9], j < 16 := by decide
    have := lt j hj
    exact (LineSame.refl u).setWideLane n (c := 0xa0080 + 0x8 * j) 0 (decide_eq_true (by omega))
  · have lt : ∀ j ∈ [6, 7, 8, 9], j < 16 := by decide
    have := lt j hj
    exact (LineSame.refl u).setWideLane n (c := 0xc0080 + 0x8 * j) 0 (decide_eq_true (by omega))


/-! ### KSC, and the format that turns -/

theorem LineSame.ksDrop (h : LineSame s t) (n : Lane) : LineSame s (t.ksDrop n) := by
  have off := @not_lineReg_lane n
  unfold State.ksDrop
  extract_lets k lost u1 u2 u3
  have k1 : LineSame s u1 := .ite _ (h.same (State.emit_regs ..)) h
  have k3 : LineSame s u3 := ((k1.same (u := u2) (State.modKsc_regs ..)).setB (fKSC_STATE_TX_BUSY n) _ (off rfl)).set
    (fKSC_STATE_TX_TYPE n) _ (off rfl)
  exact .ite _ k3 ((k3.addCntLane n (c := 0x180088) lost rfl).raise (fKSC_ALARM_TX_DROP n) (off rfl))

theorem LineSame.kscRxStop (h : LineSame s t) (n : Lane) : LineSame s (t.kscRxStop n) := by
  have off := @not_lineReg_lane n
  unfold State.kscRxStop State.showRx
  extract_lets k u
  have ku : LineSame s u := LineSame.setB (h.same (State.modKsc_regs ..)) (fKSC_STATE_CAND n) _ (off rfl)
  split
  · exact (ku.set (fKSC_STATE_RX_PHASE n) _ (off rfl)).set (fKSC_STATE_RX_CHAN n) _ (off rfl)
  · exact (ku.set (fKSC_STATE_RX_PHASE n) _ (off rfl)).set (fKSC_STATE_RX_CHAN n) _ (off rfl)

theorem reg_showOwner (s : State) (n : Lane) (a : Nat) (h : a ≠ aRXD_STATE n) : (s.showOwner n).reg a = s.reg a :=
  s.reg_set_other _ _ _ h.symm

/-- R300: KSC's following of its conditions leaves the registers of CONV and RXD but LO_OWNER. -/
theorem reg_kscFollow (s : State) (n : Lane) (a : Nat) (m : lineReg a) (h : a ≠ aRXD_STATE n) :
    (s.kscFollow n).reg a = s.reg a := by
  have on : LineSame s (s.set (fKSC_STATE_STATE n) 1) := (LineSame.refl s).set _ _ (not_lineReg_lane n rfl)
  have off : LineSame s (((s.set (fKSC_STATE_STATE n) 0).kscRxStop n).ksDrop n) :=
    (((LineSame.refl s).set (fKSC_STATE_STATE n) 0 (not_lineReg_lane n rfl)).kscRxStop n).ksDrop n
  unfold State.kscFollow
  extract_lets u
  split
  · split
    · rw [reg_showOwner _ _ _ h, on a m]
    · rfl
  · split
    · rfl
    · rw [reg_showOwner _ _ _ h]
      exact off.same (State.modKsc_regs ..) a m

/-- R94, R170, R300: a turn of the receive format leaves the registers of CONV and RXD but FOLLOWING and LO_OWNER. -/
theorem reg_followTurn (s before : State) (n : Lane) (a : Nat) (m : lineReg a) (h : a ≠ aRXD_STATE n) :
    (s.followTurn before n).reg a = s.reg a := by
  have fmt : LineSame s (s.rxFmtTurn before n) := (LineSame.refl s).rxFmtTurn before n
  unfold State.followTurn
  extract_lets u1 u2
  have k2 : LineSame s u2 := .ite _ fmt (fmt.familyTurn n)
  rw [((LineSame.refl _).touch n) a m, State.showFollowing, State.setB, State.reg_set_other _ _ _ _ h.symm,
    reg_kscFollow u2 n a m h, k2 a m]

/-! ### HKM and CAL -/

theorem LineSame.filterRestart (h : LineSame s t) {k : Nat} (m : ¬ lineReg (aHKM_IN_FSTAT k)) :
    LineSame s (t.filterRestart k) := by
  unfold State.filterRestart
  extract_lets u1 u2
  have k1 : LineSame s u1 := h.same (State.modHkm_regs ..)
  have k2 : LineSame s u2 := (k1.setB (fHKM_IN_FSTAT_VALID k) _ m).setB (fHKM_IN_FSTAT_PILOT_VALID k) _ m
  exact k2.same (State.modHkm_regs ..)

theorem LineSame.hkmShow (h : LineSame s t) : LineSame s t.hkmShow := by
  have stat : ¬ lineReg aHKM_STATUS := not_lineReg_low (by decide)
  unfold State.hkmShow
  extract_lets bits u1 u2
  have k1 : LineSame s u1 := (h.setB fHKM_STATUS_A_ON _ stat).setB fHKM_STATUS_B_ON _ stat
  have k2 : LineSame s u2 := (k1.setB fHKM_STATUS_ILV_ON _ stat).setB fHKM_STATUS_STALE _ stat
  exact (k2.set fHKM_STATUS_PWM_DRIVE _ stat).set fHKM_STATUS_PWM_TRIG _ stat

theorem LineSame.hkmStale (h : LineSame s t) {k : Nat} (hk : k < 64) (v : Bool) : LineSame s (t.hkmStale k v) := by
  have fstat : ¬ lineReg (aHKM_IN_FSTAT k) := not_lineReg_low (by unfold aHKM_IN_FSTAT; omega)
  unfold State.hkmStale
  extract_lets was u
  have ku : LineSame s u := LineSame.setB (h.same (State.modHkm_regs ..)) (fHKM_IN_FSTAT_STALE k) v fstat
  exact (LineSame.ite _ (ku.filterRestart fstat) ku).hkmShow

theorem LineSame.staleShow (h : LineSame s t) : LineSame s t.staleShow := by
  unfold State.staleShow
  exact h.foldl _ _ fun u k hk => .ite _ (.refl u) ((LineSame.refl u).hkmStale (List.mem_range.mp hk) _)

theorem LineSame.calDomain (h : LineSame s t) {d : Nat} (hd : d < 5) : LineSame s ((t.dieReload d).showPoints d) := by
  have status : ¬ lineReg (aCAL_DOM_STATUS d) := not_lineReg_low (by unfold aCAL_DOM_STATUS; omega)
  have reload : (t.dieReload d).regs = t.regs := Frame.regs (State.dieReload_fr (F := 32) t d (Frame.refl t))
  unfold State.showPoints
  refine .foldl _ _ (fun u j hj => ?_) ((h.same reload).set (fCAL_DOM_STATUS_POINTS d) _ status)
  have := List.mem_range.mp hj
  exact (LineSame.refl u).setNat (aCAL_DOM_PT d j) _ (not_lineReg_low (by unfold aCAL_DOM_PT; omega))

theorem LineSame.judgeTemp (h : LineSame s t) {d : Nat} (hd : d < 5) : LineSame s (t.judgeTemp d) := by
  have status : ¬ lineReg (aCAL_DOM_STATUS d) := not_lineReg_low (by unfold aCAL_DOM_STATUS; omega)
  exact (h.setB (fCAL_DOM_STATUS_TEMP_RANGE d) _ status).raiseIf _ fCAL_ALARM_TEMP_RANGE (not_lineReg_low (by decide))

theorem LineSame.calRestore (h : LineSame s t) (r : CalRun) : LineSame s (t.calRestore r) := by
  unfold State.calRestore
  refine h.foldl _ _ fun u d hd => ?_
  have lt : d < 5 := List.mem_range.mp (List.mem_filter.mp hd).1
  have put : ∀ f, LineSame u (u.modDom d f) := fun _ => (LineSame.refl u).same (State.modCal_regs ..)
  exact ((put _).calDomain lt).judgeTemp lt

theorem LineSame.calEnter (h : LineSame s t) (st : Nat) : LineSame s (t.calEnter st) :=
  (h.set fCAL_STATUS_STATE st (not_lineReg_low (by decide))).setNat aCAL_RUN_TIME _ (not_lineReg_low (by decide))

theorem LineSame.calCount (h : LineSame s t) {j : Nat} (hj : j < 3) : LineSame s (t.calCount j) :=
  h.addCnt _ _ (not_lineReg_low (by unfold aCAL_CNT; omega)) (not_lineReg_low (by unfold aCAL_CNT; omega))

theorem LineSame.sliceItemsDone (h : LineSame s t) : LineSame s t.sliceItemsDone := by
  unfold State.sliceItemsDone
  split
  · exact h
  · exact .ite _ (h.set fCAL_STATUS_ITEMS_DONE _ (not_lineReg_low (by decide))) h

end Rules

theorem LineSame.memClean {s t : State} (h : LineSame s t) (a inst : Nat) : LineSame s (t.memClean a inst) := by
  unfold State.memClean State.setPoison
  refine .ite _ (LineSame.setB (.foldl _ _ (fun u j hj => ?_) (h.same (State.modMem_regs ..))) _ _ (not_lineReg_low (by decide))) h
  have := List.mem_range.mp hj
  have low : ¬ lineReg (fMEM_ARR_STATUS_POISONED j).addr := not_lineReg_low (by
    unfold fMEM_ARR_STATUS_POISONED aMEM_ARR_STATUS
    dsimp only
    omega)
  exact (LineSame.refl u).set _ _ low

end Sys2Proof.Machine
end

section
/-!
SUPPORT. The line converters of 02 (O14 to O16).
-/

namespace Sys2Proof.Machine

/-! ### A side changes state (R52) -/

/-- The registers of a lane that leaving `RUNNING` changes beside the state (R52, R63, R67). -/
def leaveRegs (n : Nat) : List Nat :=
  aCONV_ALARM n :: ((List.range 16).map (aCONV_SPARE n) ++ (List.range 4).map (aCONV_RMS n))

theorem alarm_mem_leaveRegs (n : Nat) : aCONV_ALARM n ∈ leaveRegs n := List.mem_cons_self

theorem spare_mem_leaveRegs (n k : Nat) (h : k < 16) : aCONV_SPARE n k ∈ leaveRegs n := by
  simp only [leaveRegs, List.mem_cons, List.mem_append, List.mem_map, List.mem_range]
  exact .inr (.inl ⟨k, h, rfl⟩)

theorem rms_mem_leaveRegs (n c : Nat) (h : c < 4) : aCONV_RMS n c ∈ leaveRegs n := by
  simp only [leaveRegs, List.mem_cons, List.mem_append, List.mem_map, List.mem_range]
  exact .inr (.inr ⟨c, h, rfl⟩)

/-- The registers that leaving `RUNNING` changes lie from 0xC to 0xB0 of their lane. -/
theorem of_mem_leaveRegs {n a : Nat} (h : a ∈ leaveRegs n) : 0xC + laneBase n ≤ a ∧ a < 0xB0 + laneBase n ∧
    a ≠ 0x14 + laneBase n ∧ a ≠ 0x18 + laneBase n ∧ a ≠ 0x1C + laneBase n := by
  simp only [leaveRegs, List.mem_cons, List.mem_append, List.mem_map, List.mem_range] at h
  rcases h with rfl | ⟨k, hk, rfl⟩ | ⟨c, hc, rfl⟩
  · unfold aCONV_ALARM
    omega
  · unfold aCONV_SPARE
    omega
  · unfold aCONV_RMS
    omega

theorem ctrl_not_mem_leaveRegs (n : Nat) : aCONV_CTRL n ∉ leaveRegs n := fun h => by
  have := of_mem_leaveRegs h
  unfold aCONV_CTRL at this
  omega

theorem state_not_mem_leaveRegs (n : Nat) : aCONV_STATE n ∉ leaveRegs n := fun h => by
  have := of_mem_leaveRegs h
  unfold aCONV_STATE at this
  omega

theorem State.setSpare_regsBut {s t : State} {as : List Nat} (h : s.RegsBut t as) (n : Lane) (k : Nat) (r : SpareRun)
    (m : aCONV_SPARE n k ∈ as) : s.RegsBut (t.setSpare n k r) as :=
  State.RegsBut.setB (h.same rfl) _ _ m

theorem State.spareIdle_regsBut {s t : State} {as : List Nat} (h : s.RegsBut t as) (n : Lane) (k : Nat)
    (m : aCONV_SPARE n k ∈ as) : s.RegsBut (t.spareIdle n k) as := by
  unfold State.spareIdle
  have corr : s.RegsBut (t.modConv n fun c => { c with spareCorr := setAt c.spareCorr k [] }) as := h.same rfl
  have shadow := State.setSpare_regsBut corr n k .none m
  exact (shadow.set (fCONV_SPARE_STANDIN n k) 0x7F m).set (fCONV_SPARE_MODE n k) 0 m

theorem sideSpares_lt {sd : Side} {k : Nat} (h : k ∈ sideSpares sd) : k < 16 := by
  cases sd
  · exact Nat.lt_trans (List.mem_range.mp h) (by decide)
  · obtain ⟨i, hi, rfl⟩ := List.mem_map.mp h
    have := List.mem_range.mp hi
    omega

/-- R63: the spares of a side return to idle. -/
theorem State.sparesEnd_regsBut (s : State) (n : Lane) (sd : Side) : s.RegsBut (s.sparesEnd n sd) (leaveRegs n) := by
  unfold State.sparesEnd
  refine State.RegsBut.foldl _ _ (fun t k hk => ?_) (State.RegsBut.refl s _)
  have idle := State.spareIdle_regsBut (State.RegsBut.refl t (leaveRegs n)) n k (spare_mem_leaveRegs n k (sideSpares_lt hk))
  split
  · exact (idle.same (State.modConv_regs _ _ _)).raise (fCONV_ALARM_TAKEOVER_ABORT n) (alarm_mem_leaveRegs n)
  · exact idle

/-- R52: a side's state and the lock of its synthesiser as shown. -/
def State.showConv (s : State) (n : Lane) (sd : Side) (st : Nat) : State :=
  let s := s.set (fConvState n sd) st
  if st = 2 then s.setB (fConvLock n sd) true else if st = 0 || st = 3 then s.setB (fConvLock n sd) false else s

theorem fConvState_addr (n : Nat) (sd : Side) : (fConvState n sd).addr = aCONV_STATE n := by cases sd <;> rfl
theorem fConvLock_addr (n : Nat) (sd : Side) : (fConvLock n sd).addr = aCONV_STATE n := by cases sd <;> rfl
theorem fConvEn_addr (n : Nat) (sd : Side) : (fConvEn n sd).addr = aCONV_CTRL n := by cases sd <;> rfl
theorem fConvUnlock_addr (n : Nat) (sd : Side) : (fConvUnlock n sd).addr = aCONV_ALARM n := by cases sd <;> rfl
theorem fConvState_ok (n : Nat) (sd : Side) : (fConvState n sd).ok = true := by cases sd <;> rfl
theorem fConvState_len (n : Nat) (sd : Side) : (fConvState n sd).len = 3 := by cases sd <;> rfl
theorem fConvLock_ok (n : Nat) (sd : Side) : (fConvLock n sd).ok = true := by cases sd <;> rfl
theorem fConvEn_ok (n : Nat) (sd : Side) : (fConvEn n sd).ok = true := by cases sd <;> rfl
theorem fConvUnlock_ok (n : Nat) (sd : Side) : (fConvUnlock n sd).ok = true := by cases sd <;> rfl
theorem fConvLock_beside_state (n : Nat) (sd : Side) : (fConvLock n sd).beside (fConvState n sd) = true := by cases sd <;> rfl

theorem State.showConv_regsBut {s t : State} {as : List Nat} (h : s.RegsBut t as) (n : Lane) (sd : Side) (st : Nat)
    (m : aCONV_STATE n ∈ as) : s.RegsBut (t.showConv n sd st) as := by
  have ms : (fConvState n sd).addr ∈ as := by rwa [fConvState_addr]
  have ml : (fConvLock n sd).addr ∈ as := by rwa [fConvLock_addr]
  exact .ite _ ((h.set _ _ ms).setB _ _ ml) (.ite _ ((h.set _ _ ms).setB _ _ ml) (h.set _ _ ms))

theorem State.showConv_convState (s : State) (n : Lane) (sd : Side) (st : Nat) (h : st < 8) :
    (s.showConv n sd st).convState n sd = st := by
  have key : (s.set (fConvState n sd) st).get (fConvState n sd) = st := by
    rw [State.get_set_fits _ _ _ (fConvState_ok n sd), fConvState_len]
    exact Nat.mod_eq_of_lt h
  have lock : ∀ b, ((s.set (fConvState n sd) st).setB (fConvLock n sd) b).get (fConvState n sd) = st := fun b => by
    rw [State.get_setB_beside _ _ _ _ (fConvLock_beside_state n sd), key]
  unfold State.convState State.showConv
  dsimp only
  split
  · exact lock true
  · split
    · exact lock false
    · exact key

/-- R52: a side that does not run changes what is shown alone. -/
theorem State.convMove_idle (s : State) (n : Lane) (sd : Side) (st : Nat) (h : s.convState n sd ≠ 2) :
    s.convMove n sd st = s.showConv n sd st := by
  unfold State.convMove
  exact if_neg h

/-- R52, R63, R67: one that leaves `RUNNING` changes its spares and its RMS too. -/
theorem State.convMove_regsBut_show (s : State) (n : Lane) (sd : Side) (st : Nat) :
    (s.showConv n sd st).RegsBut (s.convMove n sd st) (leaveRegs n) := by
  have ends := (s.showConv n sd st).sparesEnd_regsBut n sd
  by_cases h : s.convState n sd = 2
  · have e : s.convMove n sd st = if sd = .adc then
        [0, 1, 2, 3].foldl (fun s c => s.setNat (aCONV_RMS n c) 0)
          (((s.showConv n sd st).sparesEnd n sd).modConv n fun c => { c with power := [[], [], [], []] })
        else (s.showConv n sd st).sparesEnd n sd := if_pos h
    rw [e]
    refine .ite _ (State.RegsBut.foldl _ _ (fun t c hc => ?_) (ends.same rfl)) ends
    have lt : ∀ c ∈ [0, 1, 2, 3], c < 4 := by decide
    exact (State.RegsBut.refl t _).setNat _ _ (rms_mem_leaveRegs n c (lt c hc))
  · rw [s.convMove_idle n sd st h]
    exact .refl _ _

/-- The registers of a lane's converter that a change of state changes. -/
def convRegs (n : Nat) : List Nat := aCONV_STATE n :: leaveRegs n

theorem State.convMove_regsBut {s t : State} {n : Lane} (h : s.RegsBut t (convRegs n)) (sd : Side) (st : Nat) :
    s.RegsBut (t.convMove n sd st) (convRegs n) :=
  (State.showConv_regsBut h n sd st List.mem_cons_self).trans
    ((t.convMove_regsBut_show n sd st).mono fun _ => List.mem_cons_of_mem _)

theorem State.convMove_convState (s : State) (n : Lane) (sd : Side) (st : Nat) (h : st < 8) :
    (s.convMove n sd st).convState n sd = st := by
  unfold State.convState
  rw [(s.convMove_regsBut_show n sd st).get _ (by rw [fConvState_addr]; exact state_not_mem_leaveRegs n)]
  exact s.showConv_convState n sd st h

/-- R52: what is shown of a side beside its own state and lock stays. -/
theorem State.convMove_get (s : State) (n : Lane) (sd : Side) (st : Nat) (g : Fld) (hg : g.addr = aCONV_STATE n)
    (hs : (fConvState n sd).beside g = true) (hl : (fConvLock n sd).beside g = true) :
    (s.convMove n sd st).get g = s.get g := by
  rw [(s.convMove_regsBut_show n sd st).get g (by rw [hg]; exact state_not_mem_leaveRegs n)]
  unfold State.showConv
  dsimp only
  split
  · rw [State.get_setB_beside _ _ _ _ hl, State.get_set_beside _ _ _ _ hs]
  · split
    · rw [State.get_setB_beside _ _ _ _ hl, State.get_set_beside _ _ _ _ hs]
    · rw [State.get_set_beside _ _ _ _ hs]

/-! ### Enables and mute (R52, R53) -/

theorem ctrl_not_mem_convRegs (n : Nat) : aCONV_CTRL n ∉ convRegs n := by
  simp only [convRegs, List.mem_cons, not_or]
  exact ⟨laneAddr_ne (by decide), ctrl_not_mem_leaveRegs n⟩

/-- R52: an enable bit takes its value; cleared, the side is `OFF`; set, a side that is `OFF` begins to lock. -/
theorem writeConvEn_spec (s : State) (n : Lane) (sd : Side) (v : Bool) :
    (s.writeConvEn n sd v).is (fConvEn n sd) = v ∧ (v = false → (s.writeConvEn n sd v).convState n sd = 0) ∧
    (v = true → s.convState n sd = 0 → s.refPresent n = true → (s.writeConvEn n sd v).convState n sd = 1) := by
  have en : (s.setB (fConvEn n sd) v).is (fConvEn n sd) = v := State.is_setB_fits s _ v (fConvEn_ok n sd)
  have was : (s.setB (fConvEn n sd) v).convState n sd = s.convState n sd := State.get_setB_elsewhere s _ _ v (by
    rw [fConvEn_addr, fConvState_addr]
    exact laneAddr_ne (by decide))
  have present : (s.setB (fConvEn n sd) v).refPresent n = s.refPresent n := rfl
  have move : ∀ st, ((s.setB (fConvEn n sd) v).convMove n sd st).is (fConvEn n sd) = v := fun st => by
    rw [(State.convMove_regsBut (.refl _ _) sd st).is _ (by rw [fConvEn_addr]; exact ctrl_not_mem_convRegs n), en]
  unfold State.writeConvEn
  dsimp only
  rw [was, present]
  cases v with
  | true =>
    rw [if_pos rfl]
    refine ⟨?_, nofun, fun _ h0 hp => ?_⟩
    · split
      · exact move 1
      · exact en
    · rw [if_pos (by simp [h0, hp])]
      exact State.convMove_convState _ n sd 1 (by decide)
  | false =>
    rw [if_neg (by decide)]
    split
    next h0 => exact ⟨en, fun _ => was.trans h0, nofun⟩
    next => exact ⟨move 0, fun _ => State.convMove_convState _ n sd 0 (by decide), nofun⟩

theorem convAdcEnWrite_enables (s : State) (n : Lane) (v : Bool) (htake : s.takes .pcie (aCONV_CTRL n.val) = true) :
    Completes (exec (.convAdcEnWrite n v) s) fun t =>
      t.is (fCONV_CTRL_ADC_EN n) = v ∧ (v = false → t.get (fCONV_STATE_ADC_STATE n) = 0) ∧
      (v = true → s.get (fCONV_STATE_ADC_STATE n) = 0 → s.refPresent n = true → t.get (fCONV_STATE_ADC_STATE n) = 1) :=
  .of_next (congrArg Host.Outcome.next (hostWrite_taken s _ _ htake)) (writeConvEn_spec s n .adc v)

theorem convDacEnWrite_enables (s : State) (n : Lane) (v : Bool) (htake : s.takes .pcie (aCONV_CTRL n.val) = true) :
    Completes (exec (.convDacEnWrite n v) s) fun t =>
      t.is (fCONV_CTRL_DAC_EN n) = v ∧ (v = false → t.get (fCONV_STATE_DAC_STATE n) = 0) ∧
      (v = true → s.get (fCONV_STATE_DAC_STATE n) = 0 → s.refPresent n = true → t.get (fCONV_STATE_DAC_STATE n) = 1) :=
  .of_next (congrArg Host.Outcome.next (hostWrite_taken s _ _ htake)) (writeConvEn_spec s n .dac v)

/-- R53: DAC_MUTE takes its value. -/
theorem convDacMuteWrite_mutes (s : State) (n : Lane) (v : Bool) (htake : s.takes .pcie (aCONV_CTRL n.val) = true) :
    Completes (exec (.convDacMuteWrite n v) s) fun t =>
      t.is (fCONV_CTRL_DAC_MUTE n) = v ∧ t = { s with regs := t.regs } ∧ s.RegsBut t [aCONV_CTRL n] :=
  .of_next (congrArg Host.Outcome.next (hostWrite_taken s _ _ htake))
    ⟨State.is_setB_fits s _ v rfl, rfl, (State.RegsBut.refl s _).setB _ _ List.mem_cons_self⟩

/-! ### Settling and loss of lock (R51, R52) -/

/-- The register that shows the delay of a side (R51). -/
def aConvLat (n : Nat) : Side → Nat
  | .adc => aCONV_RX_LAT n
  | .dac => aCONV_TX_LAT n

theorem aConvLat_ne_state (n : Nat) (sd : Side) : aConvLat n sd ≠ aCONV_STATE n := by
  cases sd <;> exact laneAddr_ne (by decide)

theorem aConvLat_mem (n : Nat) (sd : Side) : aConvLat n sd ∈ [aCONV_STATE n, aCONV_RX_LAT n, aCONV_TX_LAT n] := by
  cases sd <;> simp [aConvLat]

/-- R51, R52: a side that settles runs, with its delay measured. -/
theorem convSettled_runs (s : State) (n : Lane) (sd : Side) (delay : Nat) (hup : s.laneUp n = true)
    (hst : s.convState n sd = 1) (href : s.refPresent n = true) :
    Completes (exec (.convSettled n sd delay) s) fun t =>
      t.convState n sd = 2 ∧ t.nat (aConvLat n sd) = delay % 2 ^ 32 ∧
      s.RegsBut t [aCONV_STATE n, aCONV_RX_LAT n, aCONV_TX_LAT n] := by
  have e : exec (.convSettled n sd delay) s = .next ((s.showConv n sd 2).setNat (aConvLat n sd) delay) := by
    rw [← s.convMove_idle n sd 2 (by rw [hst]; decide)]
    show execConvSettled n sd delay s = _
    unfold execConvSettled
    rw [if_neg (by simp [hup, href]), if_neg (by rw [hst]; decide), if_pos hst]
    cases sd <;> rfl
  have shown : s.RegsBut (s.showConv n sd 2) [aCONV_STATE n, aCONV_RX_LAT n, aCONV_TX_LAT n] :=
    State.showConv_regsBut (.refl _ _) n sd 2 List.mem_cons_self
  refine .of_next e ⟨?_, ?_, shown.setNat _ _ (aConvLat_mem n sd)⟩
  · unfold State.convState
    rw [State.get_setNat_other _ _ _ _ (by rw [fConvState_addr]; exact aConvLat_ne_state n sd)]
    exact s.showConv_convState n sd 2 (by decide)
  · exact State.nat_setNat_same _ _ _

/-- R52 (log entry 74): a side whose synthesiser regains lock settles anew. -/
theorem convSettled_regains (s : State) (n : Lane) (sd : Side) (delay : Nat) (hup : s.laneUp n = true)
    (hst : s.convState n sd = 3) (href : s.refPresent n = true) :
    Completes (exec (.convSettled n sd delay) s) fun t =>
      t.convState n sd = 1 ∧ t.is (fConvLock n sd) = true ∧ s.RegsBut t [aCONV_STATE n] := by
  have e : exec (.convSettled n sd delay) s = .next ((s.showConv n sd 1).setB (fConvLock n sd) true) := by
    rw [← s.convMove_idle n sd 1 (by rw [hst]; decide)]
    show execConvSettled n sd delay s = _
    unfold execConvSettled State.convRegain
    rw [if_neg (by simp [hup, href]), if_pos hst, if_pos hst]
  refine .of_next e ⟨?_, State.is_setB_fits _ _ _ (fConvLock_ok n sd), ?_⟩
  · unfold State.convState
    rw [State.get_setB_beside _ _ _ _ (fConvLock_beside_state n sd)]
    exact s.showConv_convState n sd 1 (by decide)
  · exact (State.showConv_regsBut (.refl _ _) n sd 1 List.mem_cons_self).setB _ _ (by
      rw [fConvLock_addr]; exact List.mem_cons_self)

/-- R52: a side that unlocks says so. -/
theorem convUnlock_unlocks (s : State) (n : Lane) (sd : Side) (hst : s.convState n sd = 2) :
    Completes (exec (.convUnlock n sd) s) fun t => t.convState n sd = 3 ∧ t.get (fConvUnlock n sd) = 1 := by
  have e : exec (.convUnlock n sd) s = .next ((s.convMove n sd 3).raise (fConvUnlock n sd)) :=
    congrArg Host.Outcome.next (if_pos hst)
  refine .of_next e ⟨?_, State.get_raise_fits _ _ (fConvUnlock_ok n sd)⟩
  unfold State.convState
  rw [State.get_raise_elsewhere _ _ _ (by
    rw [fConvUnlock_addr, fConvState_addr]
    exact laneAddr_ne (by decide))]
  exact s.convMove_convState n sd 3 (by decide)

/-! ### The sampling reference of a die (R50, R52) -/

theorem alarm_mem_convRegs (n : Nat) : aCONV_ALARM n ∈ convRegs n := List.mem_cons_of_mem _ (alarm_mem_leaveRegs n)

theorem State.convUnlock_regsBut {s t : State} {n : Lane} (h : s.RegsBut t (convRegs n)) (sd : Side) :
    s.RegsBut (t.convUnlock n sd) (convRegs n) :=
  .ite _ ((State.convMove_regsBut h sd 3).raise _ (by
    rw [fConvUnlock_addr]
    exact alarm_mem_convRegs n)) h

theorem State.convRefLost_regsBut {s t : State} {n : Lane} (h : s.RegsBut t (convRegs n)) (sd : Side) :
    s.RegsBut (t.convRefLost n sd) (convRegs n) :=
  .ite _ (h.setB _ _ (by rw [fConvLock_addr]; exact List.mem_cons_self)) (State.convUnlock_regsBut h sd)

theorem State.convRegain_regsBut {s t : State} {n : Lane} (h : s.RegsBut t (convRegs n)) (sd : Side) :
    s.RegsBut (t.convRegain n sd) (convRegs n) :=
  .ite _ ((State.convMove_regsBut h sd 1).setB _ _ (by rw [fConvLock_addr]; exact List.mem_cons_self))
    (.ite _ (State.convMove_regsBut h sd 1) h)

theorem refOk_beside (n : Nat) (sd : Side) : (fConvState n sd).beside (fCONV_STATE_REF_OK n) = true ∧
    (fConvLock n sd).beside (fCONV_STATE_REF_OK n) = true := by cases sd <;> exact ⟨rfl, rfl⟩

theorem convMove_refOk (s : State) (n : Lane) (sd : Side) (st : Nat) :
    (s.convMove n sd st).is (fCONV_STATE_REF_OK n) = s.is (fCONV_STATE_REF_OK n) := by
  unfold State.is
  rw [s.convMove_get n sd st _ rfl (refOk_beside n sd).1 (refOk_beside n sd).2]

theorem convRefLost_refOk (s : State) (n : Lane) (sd : Side) :
    (s.convRefLost n sd).is (fCONV_STATE_REF_OK n) = s.is (fCONV_STATE_REF_OK n) := by
  unfold State.convRefLost State.convUnlock
  split
  · exact State.is_setB_beside _ _ _ _ (refOk_beside n sd).2
  · split
    · unfold State.is
      rw [State.get_raise_elsewhere _ _ _ (by rw [fConvUnlock_addr]; exact laneAddr_ne (by decide))]
      exact congrArg (· != 0) ((s.convMove_get n sd 3 _ rfl (refOk_beside n sd).1 (refOk_beside n sd).2))
    · rfl

theorem convRegain_refOk (s : State) (n : Lane) (sd : Side) :
    (s.convRegain n sd).is (fCONV_STATE_REF_OK n) = s.is (fCONV_STATE_REF_OK n) := by
  unfold State.convRegain
  split
  · rw [State.is_setB_beside _ _ _ _ (refOk_beside n sd).2, convMove_refOk]
  · split
    · exact convMove_refOk s n sd 1
    · rfl

/-- R50: the reference of a lane's die is lost. -/
def State.refLost (s : State) (n : Lane) : State :=
  (((s.setB (fCONV_STATE_REF_OK n) false).raise (fCONV_ALARM_REF_LOSS n)).convRefLost n .adc).convRefLost n .dac

/-- R52: the reference of a lane's die returns. -/
def State.refBack (s : State) (n : Lane) : State :=
  ((s.setB (fCONV_STATE_REF_OK n) true).convRegain n .adc).convRegain n .dac

theorem refLost_regsBut (s : State) (n : Lane) : s.RegsBut (s.refLost n) (convRegs n) :=
  State.convRefLost_regsBut (State.convRefLost_regsBut
    (((State.RegsBut.refl s _).setB _ _ List.mem_cons_self).raise _ (alarm_mem_convRegs n)) .adc) .dac

theorem refBack_regsBut (s : State) (n : Lane) : s.RegsBut (s.refBack n) (convRegs n) :=
  State.convRegain_regsBut (State.convRegain_regsBut ((State.RegsBut.refl s _).setB _ _ List.mem_cons_self) .adc) .dac

theorem refLost_refOk (s : State) (n : Lane) : (s.refLost n).is (fCONV_STATE_REF_OK n) = false := by
  unfold State.refLost
  rw [convRefLost_refOk, convRefLost_refOk, State.is, State.get_raise_elsewhere _ _ _ (laneAddr_ne (by decide))]
  exact State.is_setB_fits s _ false rfl

theorem refBack_refOk (s : State) (n : Lane) : (s.refBack n).is (fCONV_STATE_REF_OK n) = true := by
  unfold State.refBack
  rw [convRegain_refOk, convRegain_refOk]
  exact State.is_setB_fits s _ true rfl

/-- The parts that the loss or the return of a reference changes on a lane: registers, what is sent, CONV. -/
theorem refLost_frame (s : State) (n : Lane) : Frame 49 s (s.refLost n) :=
  State.convRefLost_fr _ _ _ (State.convRefLost_fr _ _ _ (State.raise_fr _ _ (State.setB_fr _ _ _ (Frame.refl s))))

theorem refBack_frame (s : State) (n : Lane) : Frame 49 s (s.refBack n) :=
  State.convRegain_fr _ _ _ (State.convRegain_fr _ _ _ (State.setB_fr _ _ _ (Frame.refl s)))

theorem of_mem_convRegs {n a : Nat} (h : a ∈ convRegs n) : 0x8 + laneBase n ≤ a ∧ a < 0xB0 + laneBase n := by
  rcases List.mem_cons.mp h with rfl | h
  · unfold aCONV_STATE
    omega
  · have := of_mem_leaveRegs h
    omega

theorem state_not_mem_convRegs {m n : Lane} (h : m ≠ n) : aCONV_STATE n ∉ convRegs m := fun k => by
  have hv : m.val ≠ n.val := fun e => h (Fin.ext e)
  have near := of_mem_convRegs k
  unfold aCONV_STATE laneBase at near
  omega

theorem rstStatus_not_mem_convRegs (n : Lane) : aSEC_RST_STATUS ∉ convRegs n := fun k => by
  have near := of_mem_convRegs k
  unfold aSEC_RST_STATUS laneBase at near
  omega

/-- R50, R52: an event of a die's reference that acts on each of its lanes that runs shows REF_OK there. -/
theorem dieLanes_refOk (f : State → Lane → State) (b : Bool) (hr : ∀ (s : State) n, s.RegsBut (f s n) (convRegs n))
    (hb : ∀ s n, (f s n).is (fCONV_STATE_REF_OK n) = b) (hf : ∀ s n, Frame 49 s (f s n)) (s : State) (die : Fin 4) (n : Lane)
    (hn : n.val / 2 = die.val) (hup : s.laneUp n = true) :
    ((dieLanes die).foldl (fun s n => if s.laneUp n then f s n else s) s).is (fCONV_STATE_REF_OK n) = b := by
  have mem : n ∈ dieLanes die := by
    have all : ∀ n : Lane, n ∈ allLanes := by decide
    simp [dieLanes, all n, hn]
  have up : ∀ (s : State) m, (f s m).laneUp n = s.laneUp n := fun s m =>
    laneUp_congr n (hf s m).cold (hf s m).bootHold (hr s m _ (rstStatus_not_mem_convRegs m))
  refine foldl_reaches (P := fun s => s.is (fCONV_STATE_REF_OK n) = b) (U := fun s => s.laneUp n = true) _ n
    (fun s u => ?_) (fun s m u p => ?_) (fun s m u => ?_) _ s hup (.inr mem)
  · rw [if_pos u]
    exact hb s n
  · split
    · by_cases e : m = n
      · rw [e]
        exact hb s n
      · rw [(hr s m).is _ (state_not_mem_convRegs e)]
        exact p
    · exact p
  · split
    · exact (up s m).trans u
    · exact u

/-- R50: the reference of a die goes. -/
theorem samplingRefLoss_goes (s : State) (die : Fin 4) : Completes (exec (.samplingRefLoss die) s) fun t =>
    t.sampRef = setAt s.sampRef die false ∧
    ∀ n : Lane, n.val / 2 = die.val → s.laneUp n = true → t.is (fCONV_STATE_REF_OK n) = false := by
  have e : exec (.samplingRefLoss die) s = .next ((dieLanes die).foldl (fun s n => if s.laneUp n then s.refLost n else s)
      { s with sampRef := setAt s.sampRef die false }) := rfl
  refine .of_next e ⟨?_, fun n hn hup => ?_⟩
  · exact foldl_same State.sampRef _ (fun s n => by
      split
      · exact (refLost_frame s n).sampRef
      · rfl) _ _
  · exact dieLanes_refOk _ false refLost_regsBut refLost_refOk refLost_frame _ die n hn hup

/-- R52: it returns. -/
theorem samplingRefReturn_returns (s : State) (die : Fin 4) : Completes (exec (.samplingRefReturn die) s) fun t =>
    t.sampRef = setAt s.sampRef die true ∧
    ∀ n : Lane, n.val / 2 = die.val → s.laneUp n = true → t.is (fCONV_STATE_REF_OK n) = true := by
  have e : exec (.samplingRefReturn die) s = .next ((dieLanes die).foldl (fun s n => if s.laneUp n then s.refBack n else s)
      { s with sampRef := setAt s.sampRef die true }) := rfl
  refine .of_next e ⟨?_, fun n hn hup => ?_⟩
  · exact foldl_same State.sampRef _ (fun s n => by
      split
      · exact (refBack_frame s n).sampRef
      · rfl) _ _
  · exact dieLanes_refOk _ true refBack_regsBut refBack_refOk refBack_frame _ die n hn hup

/-- Settles O14: each command of a converter's sides, in the states that its clause names. -/
theorem converterSides : Obligations.ConverterSides := fun s =>
  ⟨convAdcEnWrite_enables s, convDacEnWrite_enables s, convDacMuteWrite_mutes s, convSettled_runs s, convSettled_regains s,
    convUnlock_unlocks s, samplingRefLoss_goes s, samplingRefReturn_returns s⟩

/-! ### The spare of a half (R59 to R62) -/

theorem State.spareTake_regsBut {s t : State} {as : List Nat} (h : s.RegsBut t as) (n : Lane) (k pos : Nat) (retire : Bool)
    (m : aCONV_SPARE n k ∈ as) : s.RegsBut (t.spareTake n k pos retire) as :=
  State.setSpare_regsBut (h.same (State.modConv_regs ..)) n k _ m

theorem State.spareNext_regsBut {s t : State} {as : List Nat} (h : s.RegsBut t as) (n : Lane) (k : Nat)
    (m : aCONV_SPARE n k ∈ as) : s.RegsBut (t.spareNext n k) as :=
  .ite _ (State.spareTake_regsBut h n k _ true m) h

/-- R62: a write of RETIRE with no run of the spare in progress changes the half's register, or raises the refusal. -/
theorem writeRetire_regsBut (s : State) (n : Lane) (k pos : Nat) (hrun : s.spareRun n k = .none) :
    s.RegsBut (s.writeRetire n k pos).1 [aCONV_SPARE n k, aCONV_ALARM n] := by
  have put := (State.RegsBut.refl s [aCONV_SPARE n k, aCONV_ALARM n]).set (fCONV_SPARE_RETIRE n k) pos List.mem_cons_self
  have refused := (State.RegsBut.refl s [aCONV_SPARE n k, aCONV_ALARM n]).raise (fCONV_ALARM_RETIRE_REFUSED n)
    (List.mem_cons_of_mem _ List.mem_cons_self)
  unfold State.writeRetire
  simp only [hrun]
  split
  · exact .ite _ (State.setSpare_regsBut put n k _ List.mem_cons_self) put
  · split
    · exact refused
    · split
      · split
        · exact .refl _ _
        · exact refused
      · split
        · exact put
        · exact State.spareNext_regsBut put n k List.mem_cons_self

theorem get_setSpare (s : State) (n : Lane) (k : Nat) (r : SpareRun) (g : Fld)
    (h : (fCONV_SPARE_SHADOW n k).beside g = true) : (s.setSpare n k r).get g = s.get g :=
  State.get_setB_beside _ _ _ _ h

theorem get_spareTake (s : State) (n : Lane) (k pos : Nat) (retire : Bool) (g : Fld)
    (h : (fCONV_SPARE_SHADOW n k).beside g = true) : (s.spareTake n k pos retire).get g = s.get g :=
  (get_setSpare _ n k _ g h).trans (State.get_congr (State.modConv_regs ..) g)

theorem shadow_setSpare (s : State) (n : Lane) (k : Nat) (r : SpareRun) :
    (s.setSpare n k r).is (fCONV_SPARE_SHADOW n k) = (r != .none) :=
  State.is_setB_fits _ _ _ rfl

theorem shadow_running (s : State) (n : Lane) (k : Nat) {r : SpareRun} (h : r ≠ .none) :
    (s.setSpare n k r).is (fCONV_SPARE_SHADOW n k) = true := (shadow_setSpare s n k r).trans (bne_iff_ne.mpr h)

/-- R61, R62: a position of 0 to 63 retired through an idle half of a running side starts its takeover. -/
theorem writeRetire_takes (s : State) (n : Lane) (k pos : Nat) (hrun : s.spareRun n k = .none) (hpos : pos < 64)
    (hmode : s.get (fCONV_SPARE_MODE n k) = 0) (hst : s.convState n (spareSide k) = 2) :
    (s.writeRetire n k pos).1 = (s.set (fCONV_SPARE_RETIRE n k) pos).spareTake n k pos true := by
  have retire : (s.set (fCONV_SPARE_RETIRE n k) pos).get (fCONV_SPARE_RETIRE n k) = pos := by
    rw [State.get_set_fits _ _ _ rfl]
    exact Nat.mod_eq_of_lt (by omega : pos < 2 ^ 7)
  have side : (s.set (fCONV_SPARE_RETIRE n k) pos).convState n (spareSide k) = 2 := by
    unfold State.convState
    rw [State.get_set_elsewhere _ _ _ _ (by
      rw [fConvState_addr]
      unfold aCONV_STATE fCONV_SPARE_RETIRE aCONV_SPARE
      dsimp only
      omega)]
    exact hst
  unfold State.writeRetire State.spareNext
  simp only [hrun]
  rw [if_neg (by omega), if_neg (by omega), if_neg (by omega), if_neg (by omega)]
  simp only [retire, side, hpos, decide_true, Bool.and_self, if_true]

/-- R62: 0x7F releases a retired half. -/
theorem writeRetire_releases (s : State) (n : Lane) (k : Nat) (hrun : s.spareRun n k = .none)
    (hmode : s.get (fCONV_SPARE_MODE n k) = 2) : (s.writeRetire n k 0x7F).1 =
      (s.set (fCONV_SPARE_RETIRE n k) 0x7F).setSpare n k (.releasing (s.get (fCONV_SPARE_STANDIN n k))) := by
  unfold State.writeRetire
  simp only [hrun, if_true]
  exact if_pos hmode

theorem writeRetire_spec (s : State) (n : Lane) (k : Fin 16) (pos : Nat) (hlt : pos < 2 ^ 7) (hrun : s.spareRun n k = .none)
    (h : pos < 64 ∧ s.get (fCONV_SPARE_MODE n k) = 0 ∧ s.convState n (spareSide k) = 2 ∨
      pos = 0x7F ∧ s.get (fCONV_SPARE_MODE n k) = 2) :
    (s.writeRetire n k pos).1.get (fCONV_SPARE_RETIRE n k) = pos ∧
    (s.writeRetire n k pos).1.is (fCONV_SPARE_SHADOW n k) = true ∧ s.RegsBut (s.writeRetire n k pos).1 [aCONV_SPARE n k] := by
  have put := (State.RegsBut.refl s [aCONV_SPARE n k]).set (fCONV_SPARE_RETIRE n k) pos List.mem_cons_self
  have held : (s.set (fCONV_SPARE_RETIRE n k) pos).get (fCONV_SPARE_RETIRE n k) = pos :=
    (State.get_set_fits _ _ _ rfl).trans (Nat.mod_eq_of_lt hlt)
  rcases h with ⟨hpos, hmode, hst⟩ | ⟨rfl, hmode⟩
  · rw [writeRetire_takes s n k pos hrun hpos hmode hst]
    exact ⟨(get_spareTake _ n k pos true _ rfl).trans held, shadow_running _ n k nofun,
      State.spareTake_regsBut put n k _ true List.mem_cons_self⟩
  · rw [writeRetire_releases s n k hrun hmode]
    exact ⟨(get_setSpare _ n k _ _ rfl).trans held, shadow_running _ n k nofun,
      State.setSpare_regsBut put n k _ List.mem_cons_self⟩

theorem spareRetireWrite_retires (s : State) (n : Lane) (k : Fin 16) (pos : BitVec 7)
    (htake : s.takes .pcie (aCONV_SPARE n k) = true) (hrun : s.spareRun n k = .none) :
    Completes (exec (.spareRetireWrite n k pos) s) fun t => s.RegsBut t [aCONV_SPARE n k, aCONV_ALARM n] ∧
      (pos.toNat < 64 → s.get (fCONV_SPARE_MODE n k) = 0 → s.convState n (spareSide k) = 2 →
        t.get (fCONV_SPARE_RETIRE n k) = pos.toNat ∧ t.is (fCONV_SPARE_SHADOW n k) = true ∧ s.RegsBut t [aCONV_SPARE n k]) ∧
      (pos.toNat = 0x7F → s.get (fCONV_SPARE_MODE n k) = 2 →
        t.get (fCONV_SPARE_RETIRE n k) = 0x7F ∧ t.is (fCONV_SPARE_SHADOW n k) = true ∧ s.RegsBut t [aCONV_SPARE n k]) := by
  have spec := writeRetire_spec s n k pos.toNat pos.isLt hrun
  refine .of_next (congrArg Host.Outcome.next (hostWrite_taken s _ _ htake))
    ⟨writeRetire_regsBut s n k _ hrun, fun hpos hmode hst => spec (.inl ⟨hpos, hmode, hst⟩), fun hpos hmode => ?_⟩
  obtain ⟨retire, shadow, but⟩ := spec (.inr ⟨hpos, hmode⟩)
  exact ⟨retire.trans hpos, shadow, but⟩

/-- R60: at the end of its takeover the spare stands in. -/
theorem spareTakeoverSwitch_standsIn (s : State) (n : Lane) (k : Fin 16) (p : Nat) (retire : Bool)
    (hrun : s.spareRun n k = .taking p retire) : Completes (exec (.spareTakeoverSwitch n k) s) fun t =>
      t.get (fCONV_SPARE_STANDIN n k) = p % 128 ∧ t.get (fCONV_SPARE_MODE n k) = (if retire then 2 else 1) ∧
      t.is (fCONV_SPARE_SHADOW n k) = false ∧ s.RegsBut t [aCONV_SPARE n k] := by
  have e : exec (.spareTakeoverSwitch n k) s = .next (((s.setSpare n k .none).set (fCONV_SPARE_STANDIN n k) p).set
      (fCONV_SPARE_MODE n k) (if retire then 2 else 1)) := by
    show execSpareTakeoverSwitch n k s = _
    unfold execSpareTakeoverSwitch
    rw [hrun]
  refine .of_next e ⟨?_, ?_, ?_, ?_⟩
  · rw [State.get_set_beside _ _ _ _ rfl, State.get_set_fits _ _ _ rfl]
    rfl
  · rw [State.get_set_fits _ _ _ rfl]
    cases retire <;> rfl
  · rw [State.is_set_beside _ _ _ _ rfl, State.is_set_beside _ _ _ _ rfl, shadow_setSpare]
    rfl
  · have idle := State.setSpare_regsBut (.refl s [aCONV_SPARE n k]) n k .none List.mem_cons_self
    exact (idle.set (fCONV_SPARE_STANDIN n k) p List.mem_cons_self).set (fCONV_SPARE_MODE n k) _ List.mem_cons_self

/-! ### A half that is idle stays so while a calibration run goes on (R60 to R63) -/

/-- R59: nothing stands in through the spare of a half. -/
def State.spareFree (s : State) (n k : Nat) : Prop :=
  s.get (fCONV_SPARE_STANDIN n k) = 0x7F ∧ s.get (fCONV_SPARE_MODE n k) = 0

theorem spareFree_congr {s t : State} {n k : Nat} (h : s.spareFree n k) (e : t.regs = s.regs) : t.spareFree n k :=
  ⟨(State.get_congr e _).trans h.1, (State.get_congr e _).trans h.2⟩

theorem LineSame.spareFree {s t : State} (h : LineSame s t) {n : Lane} {k : Fin 16} (f : s.spareFree n k) : t.spareFree n k := by
  have line : lineReg (aCONV_SPARE n k) := lineReg_lane n (by omega)
  exact ⟨(h.get _ line).trans f.1, (h.get _ line).trans f.2⟩

theorem spareFree_setSpare {s : State} {n k : Nat} (h : s.spareFree n k) (m : Lane) (j : Nat) (r : SpareRun) :
    (s.setSpare m j r).spareFree n k :=
  ⟨(get_setSpare s m j r _ rfl).trans h.1, (get_setSpare s m j r _ rfl).trans h.2⟩

theorem spareIdle_spareFree (s : State) (n : Lane) (k : Nat) : (s.spareIdle n k).spareFree n k := by
  unfold State.spareIdle
  refine ⟨?_, State.get_set_fits _ _ _ rfl⟩
  rw [State.get_set_beside _ _ _ _ rfl]
  exact State.get_set_fits _ _ _ rfl

theorem spareFree_spareIdle {s : State} {n k : Nat} (h : s.spareFree n k) (m : Lane) (j : Nat) :
    (s.spareIdle m j).spareFree n k := by
  by_cases e : aCONV_SPARE m j = aCONV_SPARE n k
  · have idle := spareIdle_spareFree s m j
    unfold State.spareFree fCONV_SPARE_STANDIN fCONV_SPARE_MODE at idle ⊢
    rwa [e] at idle
  · have but := State.spareIdle_regsBut (.refl s [aCONV_SPARE m j]) m j List.mem_cons_self
    have out : aCONV_SPARE n k ∉ [aCONV_SPARE m j] := by simpa using fun h => e h.symm
    exact ⟨(but.get _ out).trans h.1, (but.get _ out).trans h.2⟩

theorem spareFree_spareTake {s : State} {n k : Nat} (h : s.spareFree n k) (m : Lane) (j pos : Nat) (retire : Bool) :
    (s.spareTake m j pos retire).spareFree n k := spareFree_setSpare (spareFree_congr h rfl) m j _

theorem spareFree_spareNext {s : State} {n k : Nat} (h : s.spareFree n k) (m : Lane) (j : Nat) :
    (s.spareNext m j).spareFree n k := by
  unfold State.spareNext
  dsimp only
  split
  · exact spareFree_spareTake h m j _ true
  · exact h

theorem spareFree_calTake {s : State} {n k : Nat} (h : s.spareFree n k) (m : Lane) (j pos : Nat) :
    (s.calTake m j pos).1.spareFree n k := by
  unfold State.calTake
  dsimp only
  split
  · exact spareFree_spareTake h m j pos false
  · exact h

theorem spareFree_calRelease {s : State} {n k : Nat} (h : s.spareFree n k) (m : Lane) (j : Nat) :
    (s.calRelease m j).spareFree n k := by
  unfold State.calRelease
  split
  · exact spareFree_setSpare h m j _
  · split
    · exact spareFree_spareNext (spareFree_spareIdle h m j) m j
    · exact h

theorem spareFree_calAbort {s : State} {n : Lane} {k : Fin 16} (h : s.spareFree n k) (result : Nat) :
    (s.calAbort result).spareFree n k := by
  unfold State.calAbort
  split
  · exact h
  next r _ =>
    extract_lets m u1 u2 u3 u4
    have h1 : u1.spareFree n k := by
      unfold u1
      split
      · exact spareFree_calRelease h m _
      · exact h
    have k2 : LineSame u1 u2 := .ite _ ((LineSame.refl u1).calRestore r) (.refl u1)
    have ended : LineSame u1 (((u2.calEnter 6).set fCAL_STATUS_RESULT result).modCal fun c => { c with run := none }) :=
      ((k2.calEnter 6).set _ _ (not_lineReg_low (by decide))).same (State.modCal_regs ..)
    have k3 : LineSame u1 u3 := ended.staleShow
    exact (((k3.same (u := u4) (State.modConv_regs ..)).calCount (by decide)).raise fCAL_ALARM_RUN_END
      (not_lineReg_low (by decide))).spareFree h1

theorem spareFree_precondFail {s : State} {n : Lane} {k : Fin 16} (h : s.spareFree n k) (i : Nat) :
    (s.precondFail i).spareFree n k :=
  spareFree_calAbort (LineSame.spareFree ((((LineSame.refl s).set fCAL_STATUS_FAILED_ITEM i (not_lineReg_low (by decide))).calCount
    (by decide)).raise fCAL_ALARM_PRECOND (not_lineReg_low (by decide))) h) 2

theorem spareFree_blockStart {s : State} {n : Lane} {k : Fin 16} (h : s.spareFree n k) (b : Nat) :
    (s.blockStart b).spareFree n k := by
  have shown : ∀ f, (s.modRun f).staleShow.spareFree n k := fun f =>
    (LineSame.staleShow ((LineSame.refl s).same (u := s.modRun f) (State.modCal_regs ..))).spareFree h
  unfold State.blockStart
  split
  · exact h
  · split
    · exact shown _
    · split
      · exact spareFree_precondFail h _
      · exact shown _

theorem spareFree_stepStart {n : Lane} {k : Fin 16} (fuel : Nat) {s : State} (h : s.spareFree n k) :
    (State.stepStart fuel s).spareFree n k := by
  induction fuel generalizing s with
  | zero => exact h
  | succ fuel ih =>
    unfold State.stepStart
    split
    · exact h
    next r _ =>
      split
      · exact spareFree_blockStart h 2
      · split
        · exact spareFree_congr h rfl
        · split
          · exact spareFree_precondFail h _
          · split
            · exact spareFree_congr h rfl
            · extract_lets t u
              have taken : t.1.spareFree n k := spareFree_calTake h _ _ _
              split
              · exact spareFree_congr taken rfl
              · have skipped : LineSame s u :=
                  ((LineSame.refl s).setB fCAL_STATUS_SPARE_SKIPPED true (not_lineReg_low (by decide))).same (State.modCal_regs ..)
                exact ih (skipped.spareFree h)

/-- R60: what the end of a release makes of the half itself. -/
theorem releaseEnd_spec (s : State) (n : Lane) (k : Fin 16) :
    ((s.spareIdle n k).spareNext n k).spareFree n k ∧ s.RegsBut ((s.spareIdle n k).spareNext n k) [aCONV_SPARE n k] ∧
    ((s.spareIdle n k).spareNext n k).cal = s.cal ∧ ((s.spareIdle n k).spareNext n k).is (fCONV_SPARE_SHADOW n k) =
      (decide (s.get (fCONV_SPARE_RETIRE n k) < 64) && decide (s.convState n (spareSide k) = 2)) := by
  have idle := State.spareIdle_regsBut (.refl s [aCONV_SPARE n k]) n k List.mem_cons_self
  have retire : (s.spareIdle n k).get (fCONV_SPARE_RETIRE n k) = s.get (fCONV_SPARE_RETIRE n k) := by
    unfold State.spareIdle
    rw [State.get_set_beside _ _ _ _ rfl, State.get_set_beside _ _ _ _ rfl, get_setSpare _ _ _ _ _ rfl]
    rfl
  have side : (s.spareIdle n k).convState n (spareSide k) = s.convState n (spareSide k) :=
    idle.get _ (by
      rw [fConvState_addr]
      simp only [List.mem_singleton, aCONV_STATE, aCONV_SPARE]
      omega)
  have shadow : (s.spareIdle n k).is (fCONV_SPARE_SHADOW n k) = false := by
    unfold State.spareIdle
    rw [State.is_set_beside _ _ _ _ rfl, State.is_set_beside _ _ _ _ rfl, shadow_setSpare]
    rfl
  refine ⟨spareFree_spareNext (spareIdle_spareFree s n k) n k, State.spareNext_regsBut idle n k List.mem_cons_self, ?_, ?_⟩
  · exact Frame.cal (State.spareNext_fr (F := 33) _ n k (State.spareIdle_fr s n k (Frame.refl s)))
  · unfold State.spareNext
    dsimp only
    rw [retire, side]
    split
    next h => exact (shadow_setSpare _ n k _).trans h.symm
    next h => exact shadow.trans (by simpa using h)

/-- R60, R62: a release ends, with the half idle or taken by the retirement that waits. -/
theorem spareReleaseSwitch_ends (s : State) (n : Lane) (k : Fin 16) (p : Nat) (hrun : s.spareRun n k = .releasing p) :
    Completes (exec (.spareReleaseSwitch n k) s) fun t =>
      t.get (fCONV_SPARE_STANDIN n k) = 0x7F ∧ t.get (fCONV_SPARE_MODE n k) = 0 ∧
      ((∀ r, s.cal.run = some r → (r.waits && r.lane == n.val && stepHalf r.step == k.val) = false) →
        s.RegsBut t [aCONV_SPARE n k] ∧ t.cal = s.cal ∧ t.is (fCONV_SPARE_SHADOW n k) =
          (decide (s.get (fCONV_SPARE_RETIRE n k) < 64) && decide (s.convState n (spareSide k) = 2))) := by
  obtain ⟨free, but, cal, shadow⟩ := releaseEnd_spec s n k
  show Completes (execSpareReleaseSwitch n k s) _
  unfold execSpareReleaseSwitch
  rw [hrun]
  dsimp only
  rw [cal]
  refine .of_next rfl ?_
  split
  next r hr =>
    split
    next waits =>
      have go := (LineSame.refl _).sliceItemsDone.spareFree
        (spareFree_stepStart 17 (spareFree_congr
          (t := ((s.spareIdle n k).spareNext n k).modRun fun r => { r with waits := false }) free rfl))
      exact ⟨go.1, go.2, fun none => absurd waits (by rw [none r hr]; decide)⟩
    next => exact ⟨free.1, free.2, fun _ => ⟨but, cal, shadow⟩⟩
  next => exact ⟨free.1, free.2, fun _ => ⟨but, cal, shadow⟩⟩

/-- Settles O15: each command of a half's spare; the calibration run that goes on at the end of a release keeps the half idle. -/
theorem converterSpares : Obligations.ConverterSpares := fun s n k =>
  ⟨spareRetireWrite_retires s n k, spareTakeoverSwitch_standsIn s n k, spareReleaseSwitch_ends s n k⟩

/-! ### Capture (R64, R65) -/

/-- R65 (log entry 77): arming shows whether TRIG and SRC fit, and drops what was triggered before. -/
theorem captureArm_arms (s : State) (n : Lane) (cfg : Word) (htake : s.takes .pcie (aCONV_CAP_CTRL n) = true) :
    Completes (exec (.captureArm n cfg) s) fun t =>
      let bad := fld cfg 2 2 == 1 && fld cfg 4 1 == 1
      t.is (fCONV_CAP_STATUS_CFG_ERR n) = bad ∧ t.is (fCONV_CAP_STATUS_ARMED n) = !bad ∧
      (t.lane n).conv.capLeft = none ∧ s.RegsBut t [aCONV_CAP_CTRL n, aCONV_CAP_STATUS n] := by
  have ne : aCONV_CAP_CTRL n ≠ aCONV_CAP_STATUS n := laneAddr_ne (by decide)
  have status : aCONV_CAP_STATUS n ∈ [aCONV_CAP_CTRL n, aCONV_CAP_STATUS n] := List.mem_cons_of_mem _ List.mem_cons_self
  refine .of_next (congrArg Host.Outcome.next (hostWrite_taken s _ _ htake)) ?_
  unfold State.capArm
  extract_lets bad u
  have ctrl : s.RegsBut u [aCONV_CAP_CTRL n, aCONV_CAP_STATUS n] := (State.RegsBut.refl s _).setReg _ _ List.mem_cons_self
  have err : ∀ b, s.RegsBut (u.setB (fCONV_CAP_STATUS_CFG_ERR n) b) [aCONV_CAP_CTRL n, aCONV_CAP_STATUS n] := fun b =>
    ctrl.setB _ b status
  by_cases h : (decide (fld cfg 2 2 = 1) && decide (fld cfg 4 1 = 1)) = true
  · have hbad : bad = true := h
    rw [if_pos h, hbad]
    refine ⟨?_, ?_, ?_, State.RegsBut.same ((err true).setB (fCONV_CAP_STATUS_ARMED n) _ status) (State.modConv_regs ..)⟩
    · rw [State.is_congr (State.modConv_regs ..), State.is_setB_beside _ _ _ _ rfl, State.is_setB_fits _ _ _ rfl]
    · rw [State.is_congr (State.modConv_regs ..), State.is_setB_fits _ _ _ rfl]
      rfl
    · rw [State.conv_modConv]
  · have hbad : bad = false := Bool.eq_false_iff.mpr h
    rw [if_neg h, hbad]
    refine ⟨?_, ?_, ?_, State.RegsBut.same (((err false).setB (fCONV_CAP_STATUS_ARMED n) _ status).setB (fCONV_CAP_CTRL_ARM n) _
      List.mem_cons_self) (State.modConv_regs ..)⟩
    · rw [State.is_congr (State.modConv_regs ..), State.is_setB_elsewhere _ _ _ _ ne, State.is_setB_beside _ _ _ _ rfl,
        State.is_setB_fits _ _ _ rfl]
    · rw [State.is_congr (State.modConv_regs ..), State.is_setB_elsewhere _ _ _ _ ne, State.is_setB_fits _ _ _ rfl]
      rfl
    · rw [State.conv_modConv]

/-- R64: FIRE triggers a capture that is armed for it. -/
theorem captureFire_fires (s : State) (n : Lane) (htake : s.takes .pcie (aCONV_CAP_CTRL n) = true)
    (harmed : s.is (fCONV_CAP_STATUS_ARMED n) = true) (htrig : s.get (fCONV_CAP_CTRL_TRIG n) = 0)
    (hleft : (s.lane n).conv.capLeft = none) : Completes (exec (.captureFire n) s) fun t =>
      (t.lane n).conv = { (s.lane n).conv with capFire := true } ∧ t.regs = s.regs := by
  have e : s.capFire n = s.modConv n fun c => { c with capFire := true } := if_pos (by simp [harmed, htrig, hleft])
  refine .of_next (congrArg Host.Outcome.next ((hostWrite_taken s _ _ htake).trans e)) ⟨?_, State.modConv_regs ..⟩
  rw [State.conv_modConv]

theorem capTs_regsBut (s : State) (n : Lane) (t : Nat) : s.RegsBut ((s.setTime80 (aCONV_CAP_TS n) t).raise (fCONV_ALARM_CAP_DONE n))
    [aCONV_CAP_TS n, aCONV_CAP_TS n + 4, aCONV_CAP_TS n + 8, aCONV_ALARM n] := by
  unfold State.setTime80
  exact ((((State.RegsBut.refl s _).setNat _ _ (by simp)).setNat _ _ (by simp)).setReg _ _ (by simp)).raise _
    (by simp [fCONV_ALARM_CAP_DONE])

/-- R65: with its last group a capture is complete. -/
theorem captureComplete_completes (s : State) (n : Lane) (hleft : (s.lane n).conv.capLeft = some 0) :
    Completes (exec (.captureComplete n) s) fun t =>
      t.is (fCONV_CAP_STATUS_DONE n) = true ∧ t.is (fCONV_CAP_STATUS_ARMED n) = false ∧
      t.is (fCONV_CAP_CTRL_ARM n) = false ∧ t.get (fCONV_CAP_STATUS_COUNT n) = (s.get (fCONV_CAP_STATUS_COUNT n) + 1) % 65536 ∧
      (t.lane n).conv.capLeft = none := by
  have ne : aCONV_CAP_CTRL n ≠ aCONV_CAP_STATUS n := laneAddr_ne (by decide)
  show Completes (execCaptureComplete n s) _
  unfold execCaptureComplete
  extract_lets c past t win u1 u2 u3 u4 u5
  rw [if_neg (not_not.mpr hleft)]
  refine .of_next rfl ?_
  have later : LineSame u4 u5 := (LineSame.refl u4).memClean 5 n
  have shown := capTs_regsBut u5 n t
  have status := (shown (aCONV_CAP_STATUS n) (by simp [aCONV_CAP_STATUS, aCONV_CAP_TS, aCONV_ALARM]; omega)).trans
    (later _ (lineReg_lane n (by decide)))
  have ctrl := (shown (aCONV_CAP_CTRL n) (by simp [aCONV_CAP_CTRL, aCONV_CAP_TS, aCONV_ALARM]; omega)).trans
    (later _ (lineReg_lane n (by decide)))
  have count : u3.get (fCONV_CAP_STATUS_COUNT n) = s.get (fCONV_CAP_STATUS_COUNT n) := by
    rw [State.get_setB_beside _ _ _ _ rfl, State.get_setB_beside _ _ _ _ rfl, State.get_setB_elsewhere _ _ _ _ ne,
      State.get_setB_beside _ _ _ _ rfl, State.get_congr (State.modConv_regs ..)]
  refine ⟨?_, ?_, ?_, ?_, ?_⟩
  · rw [State.is_congr_reg _ status, State.is_set_beside _ _ _ _ rfl, State.is_setB_beside _ _ _ _ rfl,
      State.is_setB_fits _ _ _ rfl]
  · rw [State.is_congr_reg _ status, State.is_set_beside _ _ _ _ rfl, State.is_setB_beside _ _ _ _ rfl,
      State.is_setB_beside _ _ _ _ rfl, State.is_setB_elsewhere _ _ _ _ ne, State.is_setB_fits _ _ _ rfl]
  · rw [State.is_congr_reg _ ctrl, State.is_set_elsewhere _ _ _ _ ne.symm, State.is_setB_elsewhere _ _ _ _ ne.symm,
      State.is_setB_elsewhere _ _ _ _ ne.symm, State.is_setB_fits _ _ _ rfl]
  · rw [State.get_congr_reg _ status, State.get_set_fits _ _ _ rfl, count]
    rfl
  · have rest : Frame 2097169 u1 ((u5.setTime80 (aCONV_CAP_TS n) t).raise (fCONV_ALARM_CAP_DONE n)) :=
      State.raise_fr _ _ (State.setTime80_fr _ _ _ (State.memClean_fr _ _ _ (State.set_fr _ _ _ (State.setB_fr _ _ _
        (State.setB_fr _ _ _ (State.setB_fr _ _ _ (State.setB_fr _ _ _ (Frame.refl u1))))))))
    rw [rest.conv (by decide) n, State.conv_modConv]

/-! ### Groups of the ADC and of the DAC (R46, R53, R56) -/

/-- R64: a group changes of CONV what the capture remembers and counts alone. -/
theorem capGroup_conv (s : State) (n : Lane) (g : Group) (dac : Bool) :
    ∃ a d l f, ((s.capGroup n g dac).lane n).conv =
      { (s.lane n).conv with adcPast := a, dacPast := d, capLeft := l, capFire := f } := by
  have pushed : ∀ full : Bool, ∃ a d, ((if full then s else s.modConv n fun c =>
      if dac then { c with dacPast := g.push c.dacPast } else { c with adcPast := g.push c.adcPast }).lane n).conv =
        { (s.lane n).conv with adcPast := a, dacPast := d } := by
    intro full
    cases full with
    | true => exact ⟨_, _, rfl⟩
    | false =>
      rw [if_neg Bool.false_ne_true, State.conv_modConv]
      cases dac with
      | true => exact ⟨_, _, rfl⟩
      | false => exact ⟨_, _, rfl⟩
  unfold State.capGroup
  extract_lets c full u
  obtain ⟨a, d, hu⟩ := pushed full
  have same : (u.lane n).conv = { (s.lane n).conv with adcPast := a, dacPast := d } := hu
  split
  next =>
    cases c.capLeft with
    | some k =>
      refine ⟨a, d, some (k - 1), (s.lane n).conv.capFire, ?_⟩
      rw [State.conv_modConv, same]
    | none =>
      dsimp only
      split
      · refine ⟨a, d, some (127 - u.get (fCONV_CAP_CTRL_PRE n)), false, ?_⟩
        rw [State.conv_modConv, same]
      · exact ⟨a, d, _, _, same⟩
  next => exact ⟨a, d, _, _, same⟩

/-- R56: over-range in a group, or in one of the three before it. -/
theorem adcGroup_ovrTail (s : State) (n : Lane) (outside : List (List (Nat × Bool))) (codes : List (List Byte))
    (hup : s.laneUp n = true) (hrun : s.convState n .adc = 2) : Completes (exec (.adcGroup n outside codes) s) fun t =>
      ∀ i, i < 4 → (t.lane n).conv.ovrTail.getD i 0 =
        if outside.getD i [] = [] then (s.lane n).conv.ovrTail.getD i 0 - 1 else 3 := by
  show Completes (execAdcGroup n outside codes s) _
  unfold execAdcGroup
  rw [if_neg (by simp [hup])]
  extract_lets run c out cs ovr tail sq power u1 u2 u3 u4
  have hr : run = true := by simp [run, hrun]
  rw [if_pos hr]
  refine .of_next rfl fun i hi => ?_
  have chans : Frame 16401 u1 u2 := foldl_fr _ (fun t i => State.adcChannel_fr t n i _ _ _ (Frame.refl t)) _ _ (Frame.refl u1)
  have dsp : Frame 64 u3 u4 := State.rxdGroup_fr u3 n _ _ (Frame.refl u3)
  obtain ⟨a, d, l, f, cap⟩ := capGroup_conv u2 n { vld := run, ovr := ovr, data := cs, tb0 := u2.tb0 } false
  have keeps : (u4.lane n).conv.ovrTail = tail := by
    rw [dsp.conv (by decide) n, cap, chans.conv (by decide) n, State.conv_modConv]
  rw [keeps]
  have here : tail.getD i 0 = if out i then 3 else c.ovrTail.getD i 0 - 1 := by
    simp [tail, hi]
  rw [here]
  show (if (!(outside.getD i []).isEmpty) = true then 3 else c.ovrTail.getD i 0 - 1) = _
  cases outside.getD i [] with
  | nil => rfl
  | cons => rfl

/-- R53, R100: a group of the DAC carries the transmit signal, and drives the channels while the side runs unmuted. -/
theorem dacGroup_drives (s : State) (n : Lane) (at_ : Nat) (ks : Int) (hup : s.laneUp n = true) :
    Completes (exec (.dacGroup n at_ ks) s) fun t =>
      (t.lane n).conv.driven = (decide (s.convState n .dac = 2) && !s.is (fCONV_CTRL_DAC_MUTE n) && !s.safe n) ∧
      (t.lane n).tx.last = (s.levelEnters n at_).txSignal n at_ ks ∧ (t.lane n).tx.ksMissed = false := by
  show Completes (execDacGroup n at_ ks s) _
  unfold execDacGroup
  rw [if_neg (by simp [hup])]
  extract_lets u1 signal xs u2 u3 on u4
  refine .of_next rfl ?_
  have clip : Frame 16401 u2 u3 := ite_fr _ _ _ (Frame.refl u2) (State.raise_fr _ _ (State.addCnt_fr _ _ _ (Frame.refl u2)))
  have but : s.RegsBut u3 [aTXD_CLIP_CNT n, aTXD_CLIP_CNT n + 4, aTXD_ALARM n] := by
    have start : s.RegsBut u2 [aTXD_CLIP_CNT n, aTXD_CLIP_CNT n + 4, aTXD_ALARM n] := (State.RegsBut.refl s _).same rfl
    exact .ite _ start ((start.addCnt _ _ (by simp) (by simp)).raise _ (by simp [fTXD_ALARM_CLIP]))
  have tx : ((u4.capGroup n { vld := false, ovr := [], data := dacCodes xs, tb0 := u4.tb0 } true).lane n).tx = (u2.lane n).tx :=
    ((State.capGroup_fr _ n _ true (State.modConv_fr _ n _ (Frame.refl u3)) : Frame 32 u3 _).tx (by decide) n).trans
      (clip.tx (by decide) n)
  have hon : on = (decide (s.convState n .dac = 2) && !s.is (fCONV_CTRL_DAC_MUTE n) && !s.safe n) := by
    have st : u3.convState n .dac = s.convState n .dac := but.get _ (by
      simp [fConvState, fCONV_STATE_DAC_STATE, aCONV_STATE, aTXD_CLIP_CNT, aTXD_ALARM]; omega)
    have mute : u3.is (fCONV_CTRL_DAC_MUTE n) = s.is (fCONV_CTRL_DAC_MUTE n) := but.is _ (by
      simp [fCONV_CTRL_DAC_MUTE, aCONV_CTRL, aTXD_CLIP_CNT, aTXD_ALARM]; omega)
    have safe : u3.safe n = s.safe n := by
      unfold State.safe
      rw [but aGLB_SAFE (by simp [aGLB_SAFE, aTXD_CLIP_CNT, aTXD_ALARM, laneBase]; omega)]
    unfold on
    rw [st, mute, safe]
  obtain ⟨a, d, l, f, cap⟩ := capGroup_conv u4 n { vld := false, ovr := [], data := dacCodes xs, tb0 := u4.tb0 } true
  have last : (u2.lane n).tx = { ((s.levelEnters n at_).lane n).tx with ksMissed := false, last := signal } := by
    unfold u2
    rw [State.tx_modTx]
  refine ⟨?_, ?_, ?_⟩
  · rw [cap, ← hon]
    unfold u4
    rw [State.conv_modConv]
  · rw [tx, last]
  · rw [tx, last]

/-- Settles O16: each command of a capture and of the groups, in the states that its clause names. -/
theorem converterGroups : Obligations.ConverterGroups := fun s n =>
  ⟨captureArm_arms s n, captureFire_fires s n, captureComplete_completes s n, adcGroup_ovrTail s n, dacGroup_drives s n⟩

end Sys2Proof.Machine
end

section
/-!
SUPPORT. The receiver of 02 and 03: its control and loss of signal (O17), and its steady operation (O19).
-/

namespace Sys2Proof.Machine

/-! ### Entering a state (R89, R90) -/

/-- The registers of CONV and RXD that entering a state changes (R49, R86, R89). -/
def enterRegs (n : Nat) : List Nat := [aRXD_STATE n, aRXD_MET_VALID n, aCONV_STATE n]

theorem State.reg_rxdEnter (s : State) (n : Lane) (st a : Nat) (h : a ∉ enterRegs n) : (s.rxdEnter n st).reg a = s.reg a := by
  have state : aRXD_STATE n ∈ enterRegs n := by simp [enterRegs]
  have met : aRXD_MET_VALID n ∈ enterRegs n := by simp [enterRegs]
  have conv : aCONV_STATE n ∈ enterRegs n := by simp [enterRegs]
  have entered : s.RegsBut (s.rxdEnter n st) (enterRegs n) := by
    unfold State.rxdEnter State.showOwner
    extract_lets u1 u2 u3 u4 u5
    have k1 : s.RegsBut u1 (enterRegs n) := ((State.RegsBut.refl s _).set _ _ state).same (State.modRxd_regs ..)
    have k3 : s.RegsBut u3 (enterRegs n) := (k1.setB _ _ state).setNat _ _ met
    have k4 : s.RegsBut u4 (enterRegs n) := .ite _ k3 (k3.setB _ _ conv)
    have k5 : s.RegsBut u5 (enterRegs n) := .ite _ k4 ((k4.setB _ _ state).same (State.modRxd_regs ..))
    exact k5.set _ _ state
  exact entered a h

/-- A field of RXD_STATE beside those that an entry shows, where it shows them, reads as when the state alone is set. -/
theorem State.get_rxdEnter (s : State) (n : Lane) (st : Nat) (f : Fld) (a : f.addr = aRXD_STATE n)
    (lock : (fRXD_STATE_TIMING_LOCK n).beside f = true) (nlc : (fRXD_STATE_NLC_ACTIVE n).beside f = true)
    (owner : (fRXD_STATE_LO_OWNER n).beside f = true) :
    (s.rxdEnter n st).get f = (s.set (fRXD_STATE_STATE n) st).get f := by
  have met : f.addr ≠ aRXD_MET_VALID n := a ▸ laneAddr_ne (by decide)
  have conv : f.addr ≠ aCONV_STATE n := a ▸ laneAddr_ne (by decide)
  unfold State.rxdEnter State.showOwner
  extract_lets u1 u2 u3 u4 u5
  have k1 : u1.get f = (s.set (fRXD_STATE_STATE n) st).get f := State.get_congr (State.modRxd_regs ..) f
  have k3 : u3.get f = u1.get f := by
    rw [State.get_congr_reg f (State.reg_setNat_other _ _ _ _ met.symm), State.get_setB_beside _ _ _ _ lock]
  have k4 : u4.get f = u3.get f := by
    unfold u4
    split
    · rfl
    · rw [State.get_setB_elsewhere _ _ _ _ conv.symm]
  have k5 : u5.get f = u4.get f := by
    unfold u5
    split
    · rfl
    · rw [State.get_congr (State.modRxd_regs ..), State.get_setB_beside _ _ _ _ nlc]
  rw [State.get_set_beside _ _ _ _ owner, k5, k4, k3, k1]

theorem State.rxdState_rxdEnter (s : State) (n : Lane) (st : Nat) (h : st < 16) : (s.rxdEnter n st).rxdState n = st := by
  rw [State.rxdState, State.get_rxdEnter s n st _ rfl rfl rfl rfl, State.get_set_fits _ _ _ rfl]
  exact Nat.mod_eq_of_lt h

theorem State.los_rxdEnter (s : State) (n : Lane) (st : Nat) :
    (s.rxdEnter n st).is (fRXD_STATE_LOS n) = s.is (fRXD_STATE_LOS n) := by
  rw [State.is, State.get_rxdEnter s n st _ rfl rfl rfl rfl, State.get_set_beside _ _ _ _ rfl, State.is]

/-- Of what RXD keeps, an entry changes its instant and NLC alone. -/
theorem State.rxd_rxdEnter (s : State) (n : Lane) (st : Nat) :
    ∃ at_ nlc, ((s.rxdEnter n st).lane n).rxd = { (s.lane n).rxd with stateAt := at_, nlc := nlc } := by
  unfold State.rxdEnter State.showOwner
  extract_lets u1 u2 u3 u4 u5
  have k1 : (u1.lane n).rxd = { (s.lane n).rxd with stateAt := s.clk } := State.rxd_modRxd ..
  have k4 : (u4.lane n).rxd = (u1.lane n).rxd := by
    have fr : Frame 1 u1 u4 := ite_fr _ _ _ (State.setNat_fr _ _ _ (State.setB_fr _ _ _ (Frame.refl u1)))
      (State.setB_fr _ _ _ (State.setNat_fr _ _ _ (State.setB_fr _ _ _ (Frame.refl u1))))
    exact fr.rxd (by decide) n
  have k5 : ∃ nlc, (u5.lane n).rxd = { (u4.lane n).rxd with nlc := nlc } := by
    unfold u5
    split
    · exact ⟨_, rfl⟩
    · have fr : Frame 1 u4 (u4.setB (fRXD_STATE_NLC_ACTIVE n) false) := State.setB_fr _ _ _ (Frame.refl u4)
      rw [State.rxd_modRxd, fr.rxd (by decide) n]
      exact ⟨_, rfl⟩
  obtain ⟨nlc, k5⟩ := k5
  have shown : Frame 1 u5 (u5.set (fRXD_STATE_LO_OWNER n) (u5.loOwnerNow n)) := State.set_fr _ _ _ (Frame.refl u5)
  exact ⟨s.clk, nlc, by rw [shown.rxd (by decide) n, k5, k4, k1]⟩

/-! ### The modes and `FREQ_SEARCH` (R91) -/

theorem State.reg_latchFmtSrc (s : State) (n : Lane) (a : Nat) (m : lineReg a) (h : a ≠ aRXD_STATE n) :
    (s.latchFmtSrc n).reg a = s.reg a := by
  have touched : LineSame s (s.touch n) := (LineSame.refl s).touch n
  exact (reg_followTurn _ _ n a m h).trans (touched.same (State.modRxd_regs ..) a m)

theorem State.reg_latchModes (s : State) (n : Lane) (a : Nat) (m : lineReg a) (h : a ≠ aRXD_STATE n) :
    (s.latchModes n).reg a = s.reg a := by
  unfold State.latchModes
  rw [State.reg_latchFmtSrc _ n a m h, State.latchKsAssist, reg_showOwner _ n a h, State.reg_congr (State.modRxd_regs ..),
    State.latchLoMode, reg_showOwner _ n a h, State.reg_congr (State.modRxd_regs ..)]

theorem State.reg_freqSearch (s : State) (n : Lane) (a : Nat) (m : lineReg a) (h : a ∉ enterRegs n) :
    (s.freqSearch n).reg a = s.reg a := by
  have state : a ≠ aRXD_STATE n := fun e => h (e ▸ by simp [enterRegs])
  have ksc : aKSC_STATE n ≠ a := fun e => not_lineReg_lane n (c := 0x180004) rfl (show lineReg (aKSC_STATE n) from e.symm ▸ m)
  unfold State.freqSearch
  extract_lets u1 u2 u3
  have shown : u3.reg a = u2.reg a := by
    unfold u3
    rw [State.setB, State.reg_set_other _ _ _ _ state.symm, State.setB, State.reg_set_other _ _ _ _ state.symm]
  rw [State.reg_rxdEnter _ n 2 a h, State.setB, State.reg_set_other _ _ _ _ ksc, shown, State.reg_congr (State.modRxd_regs ..),
    State.reg_latchModes s n a m state]

theorem State.rxdState_freqSearch (s : State) (n : Lane) : (s.freqSearch n).rxdState n = 2 :=
  State.rxdState_rxdEnter _ n 2 (by decide)

theorem State.searchAt_freqSearch (s : State) (n : Lane) : ((s.freqSearch n).lane n).rxd.searchAt = s.clk := by
  unfold State.freqSearch
  extract_lets u1 u2 u3
  obtain ⟨at_, nlc, h⟩ := State.rxd_rxdEnter (u3.setB (fKSC_STATE_LO_SENT n) false) n 2
  have clk : u1.clk = s.clk := (State.latchModes_fr s n (Frame.refl s) : Frame 46157777 s u1).clk
  have shown : Frame 1 u2 (u3.setB (fKSC_STATE_LO_SENT n) false) :=
    State.setB_fr _ _ _ (State.setB_fr _ _ _ (State.setB_fr _ _ _ (Frame.refl u2)))
  rw [h, ← clk, shown.rxd (by decide) n]
  unfold u2
  rw [State.rxd_modRxd]


/-! ### Control of the receiver (R49, R82, R89, R91) -/

theorem rxdCtrl_line (n : Lane) : lineReg (aRXD_CTRL n) := lineReg_lane n (by decide)

theorem rxdState_line (n : Lane) : lineReg (aRXD_STATE n) := lineReg_lane n (by decide)

theorem rxdAlarm_line (n : Lane) : lineReg (aRXD_ALARM n) := lineReg_lane n (by decide)

theorem rxdLoHost_line (n : Lane) : lineReg (aRXD_LO_HOST n) := lineReg_lane n (by decide)

theorem rxdCtrl_notMem_enterRegs (n : Lane) : aRXD_CTRL n ∉ enterRegs n := by
  simp [enterRegs, aRXD_CTRL, aRXD_STATE, aRXD_MET_VALID, aCONV_STATE]

theorem rxdCtrl_ne_state (n : Lane) : aRXD_CTRL n ≠ aRXD_STATE n := laneAddr_ne (by decide)

/-- R89, R91: RXD enabled and disabled. -/
theorem rxdEnWrite_enables (s : State) (n : Lane) (v : Bool) (htake : s.takes .pcie (aRXD_CTRL n) = true) :
    Completes (exec (.rxdEnWrite n v) s) fun t =>
      t.is (fRXD_CTRL_EN n) = v ∧ (v = false → t.rxdState n = 0 ∧ t.nat (aCONV_RXSYN_TRIM n) = 0) ∧
      (v = true → s.rxdState n = 0 → t.rxdState n = if s.is (fRXD_STATE_LOS n) then 1 else 2) := by
  refine .of_next (congrArg Host.Outcome.next (hostWrite_taken s _ _ htake)) ?_
  have touched : LineSame s (s.touch n) := (LineSame.refl s).touch n
  have ctrl := rxdCtrl_notMem_enterRegs n
  unfold State.writeRxdEn
  extract_lets u1 u2 u3 u4
  have en : u1.is (fRXD_CTRL_EN n) = v := State.is_setB_fits _ _ _ rfl
  have state : u1.rxdState n = s.rxdState n :=
    (State.get_setB_elsewhere _ _ _ _ (rxdCtrl_ne_state n)).trans (touched.get _ (rxdState_line n))
  have los : u2.is (fRXD_STATE_LOS n) = s.is (fRXD_STATE_LOS n) := by
    rw [State.los_rxdEnter, State.is_setB_elsewhere _ _ _ _ (rxdCtrl_ne_state n), touched.is _ (rxdState_line n)]
  have last : LineSame u4 (u4.touch n) := (LineSame.refl u4).touch n
  have shown : u4.reg (aRXD_CTRL n) = u1.reg (aRXD_CTRL n) → (u4.touch n).is (fRXD_CTRL_EN n) = v := fun k =>
    (last.is _ (rxdCtrl_line n)).trans ((State.is_congr_reg _ k).trans en)
  have state4 : (u4.touch n).rxdState n = u4.rxdState n := last.get _ (rxdState_line n)
  rw [state4]
  cases v with
  | true =>
    have enabled : u4 = if u1.rxdState n = 0 then if u2.is (fRXD_STATE_LOS n) then u2 else u2.freqSearch n else u1 := if_pos rfl
    have entered : u2.reg (aRXD_CTRL n) = u1.reg (aRXD_CTRL n) := u1.reg_rxdEnter n 1 _ ctrl
    refine ⟨shown ?_, nofun, fun _ h0 => ?_⟩
    · rw [enabled]
      split
      · split
        · exact entered
        · rw [u2.reg_freqSearch n _ (rxdCtrl_line n) ctrl, entered]
      · rfl
    · rw [enabled, if_pos (state.trans h0), los]
      split
      · exact u1.rxdState_rxdEnter n 1 (by decide)
      · exact u2.rxdState_freqSearch n
  | false =>
    have disabled : u4 = u3.setNat (aCONV_RXSYN_TRIM n) 0 := if_neg Bool.false_ne_true
    have trim : aCONV_RXSYN_TRIM n ≠ aRXD_CTRL n := laneAddr_ne (by decide)
    have trim' : aCONV_RXSYN_TRIM n ≠ aRXD_STATE n := laneAddr_ne (by decide)
    refine ⟨shown ?_, fun _ => ⟨?_, ?_⟩, nofun⟩
    · rw [disabled, State.reg_setNat_other _ _ _ _ trim, State.reg_rxdEnter _ n 0 _ ctrl, State.setB,
        State.reg_set_other _ _ _ _ (rxdCtrl_ne_state n).symm]
    · rw [disabled, State.rxdState, State.get_congr_reg _ (State.reg_setNat_other _ _ _ _ trim')]
      exact State.rxdState_rxdEnter _ n 0 (by decide)
    · rw [State.nat, last (aCONV_RXSYN_TRIM n) (lineReg_lane n (by decide)), disabled]
      exact State.nat_setNat_fits _ _ _ (by decide)

/-- R91: ACQ_RESTART. -/
theorem rxdAcqRestart_searches (s : State) (n : Lane) (htake : s.takes .pcie (aRXD_CTRL n) = true) (hstate : 2 ≤ s.rxdState n) :
    Completes (exec (.rxdAcqRestart n) s) fun t => t.rxdState n = 2 ∧ (t.lane n).rxd.searchAt = s.clk :=
  .of_next (congrArg Host.Outcome.next ((hostWrite_taken s _ _ htake).trans (if_pos hstate)))
    ⟨s.rxdState_freqSearch n, s.searchAt_freqSearch n⟩

/-- R91: LO_MODE. -/
theorem rxdLoModeWrite_takes (s : State) (n : Lane) (v : BitVec 2) (htake : s.takes .pcie (aRXD_CTRL n) = true) :
    Completes (exec (.rxdLoModeWrite n v) s) fun t =>
      t.get (fRXD_CTRL_LO_MODE n) = v.toNat ∧ (s.rxdState n ≤ 1 → (t.lane n).rxd.loMode = v.toNat) := by
  have written : (s.set (fRXD_CTRL_LO_MODE n) v.toNat).get (fRXD_CTRL_LO_MODE n) = v.toNat :=
    (State.get_set_fits _ _ _ rfl).trans (Nat.mod_eq_of_lt v.isLt)
  have state : (s.set (fRXD_CTRL_LO_MODE n) v.toNat).rxdState n = s.rxdState n :=
    State.get_set_elsewhere _ _ _ _ (rxdCtrl_ne_state n)
  refine .of_next (congrArg Host.Outcome.next (hostWrite_taken s _ _ htake)) ?_
  unfold State.writeLoMode
  extract_lets u
  by_cases h : u.rxdState n ≤ 1
  · rw [if_pos h]
    refine ⟨?_, fun _ => ?_⟩
    · rw [State.latchLoMode, State.get_congr_reg _ (reg_showOwner _ n _ (rxdCtrl_ne_state n)),
        State.get_congr (State.modRxd_regs ..), written]
    · rw [State.latchLoMode, (State.showOwner_fr _ n (Frame.refl _) : Frame 1 _ _).rxd (by decide) n, State.rxd_modRxd]
      exact written
  · rw [if_neg h]
    exact ⟨written, fun k => absurd k (state ▸ h)⟩

/-- R91: KS_ASSIST. -/
theorem rxdKsAssistWrite_takes (s : State) (n : Lane) (v : Bool) (htake : s.takes .pcie (aRXD_CTRL n) = true) :
    Completes (exec (.rxdKsAssistWrite n v) s) fun t =>
      t.is (fRXD_CTRL_KS_ASSIST n) = v ∧ (s.rxdState n ≤ 1 → (t.lane n).rxd.ksAssist = v) := by
  have written : (s.setB (fRXD_CTRL_KS_ASSIST n) v).is (fRXD_CTRL_KS_ASSIST n) = v := State.is_setB_fits _ _ _ rfl
  have state : (s.setB (fRXD_CTRL_KS_ASSIST n) v).rxdState n = s.rxdState n :=
    State.get_setB_elsewhere _ _ _ _ (rxdCtrl_ne_state n)
  refine .of_next (congrArg Host.Outcome.next (hostWrite_taken s _ _ htake)) ?_
  unfold State.writeKsAssist
  extract_lets u
  by_cases h : u.rxdState n ≤ 1
  · rw [if_pos h]
    refine ⟨?_, fun _ => ?_⟩
    · rw [State.latchKsAssist, State.is_congr_reg _ (reg_showOwner _ n _ (rxdCtrl_ne_state n)),
        State.is_congr (State.modRxd_regs ..), written]
    · rw [State.latchKsAssist, (State.showOwner_fr _ n (Frame.refl _) : Frame 1 _ _).rxd (by decide) n, State.rxd_modRxd]
      exact written
  · rw [if_neg h]
    exact ⟨written, fun k => absurd k (state ▸ h)⟩

/-- R91: FMT_SRC. -/
theorem rxdFmtSrcWrite_takes (s : State) (n : Lane) (v : Bool) (htake : s.takes .pcie (aRXD_CTRL n) = true) :
    Completes (exec (.rxdFmtSrcWrite n v) s) fun t =>
      t.is (fRXD_CTRL_FMT_SRC n) = v ∧ (s.rxdState n ≤ 1 → (t.lane n).rxd.follow = v) := by
  have written : (s.setB (fRXD_CTRL_FMT_SRC n) v).is (fRXD_CTRL_FMT_SRC n) = v := State.is_setB_fits _ _ _ rfl
  have state : (s.setB (fRXD_CTRL_FMT_SRC n) v).rxdState n = s.rxdState n :=
    State.get_setB_elsewhere _ _ _ _ (rxdCtrl_ne_state n)
  refine .of_next (congrArg Host.Outcome.next (hostWrite_taken s _ _ htake)) ?_
  unfold State.writeFmtSrc
  extract_lets u
  by_cases h : u.rxdState n ≤ 1
  · rw [if_pos h]
    refine ⟨?_, fun _ => ?_⟩
    · rw [State.is_congr_reg _ (State.reg_latchFmtSrc u n (aRXD_CTRL n) (rxdCtrl_line n) (rxdCtrl_ne_state n)), written]
    · unfold State.latchFmtSrc
      rw [(State.followTurn_fr _ _ n (Frame.refl _) : Frame 46157713 _ _).rxd (by decide) n, State.rxd_modRxd]
      exact written
  · rw [if_neg h]
    exact ⟨written, fun k => absurd k (state ▸ h)⟩

/-- R433: the log of an access is in four registers of GLB. -/
theorem State.reg_logAcc (s : State) (c : AccCode) (addr : Nat) (write : Bool) (a : Nat) (h : 0x1000000 ≤ a) :
    (s.logAcc c addr write).reg a = s.reg a := by
  have but : s.RegsBut (s.logAcc c addr write) [aGLB_ACC_CNT, aGLB_ACC_CNT + 4, aGLB_ACC_LAST, aGLB_ACC_ADDR, aGLB_ALARM] := by
    have cnt : s.RegsBut (s.addNow aGLB_ACC_CNT 1) [aGLB_ACC_CNT, aGLB_ACC_CNT + 4, aGLB_ACC_LAST, aGLB_ACC_ADDR, aGLB_ALARM] :=
      ((State.RegsBut.refl s _).setNat _ _ (by simp)).setNat _ _ (by simp)
    exact ((cnt.setNat _ _ (by simp)).setNat _ _ (by simp)).raise _ (by simp [fGLB_ALARM_ACC])
  refine but a fun m => ?_
  have : ∀ b ∈ [aGLB_ACC_CNT, aGLB_ACC_CNT + 4, aGLB_ACC_LAST, aGLB_ACC_ADDR, aGLB_ALARM], b < 0x1000000 := by decide
  exact absurd (this a m) (by omega)

/-- R82: a frequency from the host. -/
theorem loHostWrite_sends (s : State) (n : Lane) (v : BitVec 24) (htake : s.takes .pcie (aRXD_LO_HOST n) = true) :
    Completes (exec (.loHostWrite n v) s) fun t =>
      (s.loOwnerNow n = 0 → t.nat (aRXD_LO_HOST n) = v.toNat ∧ t.sent =
        .lo n (2 ^ 28 * 1 + 2 ^ 26 * 2 + 2 ^ 24 * (s.lane n).rxd.loSeq + ofSigned 24 v.toInt) :: s.sent) ∧
      (s.loOwnerNow n ≠ 0 → t.get (fRXD_ALARM_LO_BUSY n) = 1 ∧ t.nat (aRXD_LO_HOST n) = s.nat (aRXD_LO_HOST n)) := by
  refine .of_next (congrArg Host.Outcome.next (hostWrite_taken s _ _ htake)) ?_
  unfold State.writeLoHost
  by_cases h : s.loOwnerNow n = 0
  · rw [if_pos h]
    refine ⟨fun _ => ⟨?_, rfl⟩, fun k => absurd h k⟩
    have fr : Frame 80 (s.setNat (aRXD_LO_HOST n) v.toNat) ((s.setNat (aRXD_LO_HOST n) v.toNat).loFrame n 1 2 v.toInt) :=
      State.loFrame_fr _ n 1 2 _ (Frame.refl _)
    exact (State.nat_congr fr.regs _).trans (State.nat_setNat_fits _ _ _ (lt_trans v.isLt (by decide)))
  · rw [if_neg h]
    have ne : (fRXD_ALARM_LO_BUSY n).addr ≠ aRXD_LO_HOST n := laneAddr_ne (by decide)
    have logged := State.reg_logAcc (s.raise (fRXD_ALARM_LO_BUSY n)) .resBusy (aRXD_LO_HOST n) true
    refine ⟨fun k => absurd k h, fun _ => ⟨?_, ?_⟩⟩
    · rw [if_pos rfl]
      exact (State.get_congr_reg _ (logged _ (rxdAlarm_line n).1)).trans (State.get_raise_fits _ _ rfl)
    · rw [if_pos rfl, State.nat, logged _ (rxdLoHost_line n).1, State.reg_congr (s.regs_raise _),
        State.reg_set_other _ _ _ _ ne, State.nat]

/-! ### Loss of signal (R88) -/

/-- R88: with the fourth low window `LOS` is declared, and RXD falls back to `NO_SIGNAL`. -/
theorem State.losAssert_declares (s : State) (n : Lane) (hlos : s.is (fRXD_STATE_LOS n) = false) (hstate : 2 ≤ s.rxdState n) :
    (s.losAssert n).is (fRXD_STATE_LOS n) = true ∧ (s.losAssert n).rxdState n = 1 := by
  unfold State.losAssert
  rw [if_neg (by simp [hlos])]
  extract_lets u1 u2 u3
  have but : (s.setB (fRXD_STATE_LOS n) true).RegsBut u2 [aRXD_LOS_CNT n, aRXD_LOS_CNT n + 4, aRXD_ALARM n] :=
    ((((State.RegsBut.refl _ _).addCnt _ _ (by simp) (by simp)).raise _ (by simp [fRXD_ALARM_LOS])).same (State.modRxd_regs ..))
  have reg : u2.reg (aRXD_STATE n) = (s.setB (fRXD_STATE_LOS n) true).reg (aRXD_STATE n) :=
    but _ (by simp [aRXD_STATE, aRXD_LOS_CNT, aRXD_ALARM]; omega)
  have state : u2.rxdState n = s.rxdState n := (State.get_congr_reg _ reg).trans (State.get_setB_beside _ _ _ _ rfl)
  have los : u2.is (fRXD_STATE_LOS n) = true := (State.is_congr_reg _ reg).trans (State.is_setB_fits _ _ _ rfl)
  have low : u3 = (u2.setB (fRXD_STATE_WARM n) false).rxdEnter n 1 := if_pos (state ▸ hstate)
  have lfr : LineSame u3 (u3.lfrLos n true) := (LineSame.refl u3).lfrLos n true
  refine ⟨?_, ?_⟩
  · rw [lfr.is _ (rxdState_line n), low, State.los_rxdEnter, State.is_setB_beside _ _ _ _ rfl, los]
  · rw [State.rxdState, lfr.get _ (rxdState_line n), low]
    exact State.rxdState_rxdEnter _ n 1 (by decide)

/-- R88: a low window counts, and the fourth declares `LOS`. -/
theorem losWindowEnd_counts (s : State) (n : Lane) (power : Nat) (hup : s.laneUp n = true)
    (hlow : s.losPower n power < s.get (fRXD_LOS_THR_THR n)) : Completes (exec (.losWindowEnd n power) s) fun t =>
      ((s.lane n).rxd.losLow + 1 < 4 → (t.lane n).rxd.losLow = (s.lane n).rxd.losLow + 1 ∧ t.regs = s.regs) ∧
      (4 ≤ (s.lane n).rxd.losLow + 1 → s.is (fRXD_STATE_LOS n) = false → 2 ≤ s.rxdState n →
        t.is (fRXD_STATE_LOS n) = true ∧ t.rxdState n = 1) := by
  show Completes (execLosWindowEnd n power s) _
  unfold execLosWindowEnd
  rw [if_neg (by simp [hup])]
  extract_lets thr pw vld r low high u
  have hl : low = (s.lane n).rxd.losLow + 1 := if_pos hlow
  have hh : high = 0 := if_neg (by simp only [Bool.and_eq_true, decide_eq_true_eq]; omega)
  by_cases h4 : 4 ≤ low
  · rw [if_pos h4]
    refine .of_next rfl ⟨fun k => absurd k (by omega), fun _ los state => ?_⟩
    exact u.losAssert_declares n ((State.is_congr (State.modRxd_regs ..) _).trans los)
      (le_of_le_of_eq state (State.get_congr (State.modRxd_regs ..) _).symm)
  · rw [if_neg h4, if_neg (by simp [hh])]
    refine .of_next rfl ⟨fun _ => ⟨?_, State.modRxd_regs ..⟩, fun k => absurd k (by omega)⟩
    unfold u
    rw [State.rxd_modRxd]
    exact hl

/-- Settles O17: each command of the receiver's control, and a window of the power's measure. -/
theorem receiverControl : Obligations.ReceiverControl := fun s n =>
  ⟨rxdEnWrite_enables s n, rxdAcqRestart_searches s n, rxdLoModeWrite_takes s n, rxdKsAssistWrite_takes s n,
    rxdFmtSrcWrite_takes s n, loHostWrite_sends s n, losWindowEnd_counts s n⟩

/-! ### Bounds (R83, R97) -/

theorem clampI_bounds {lo hi : Int} (h : lo ≤ hi) (x : Int) : lo ≤ clampI lo hi x ∧ clampI lo hi x ≤ hi := by
  unfold clampI
  split_ifs <;> omega

theorem clampN_le {lo hi : Nat} (h : lo ≤ hi) (x : Nat) : clampN lo hi x ≤ hi := by
  unfold clampN
  split_ifs <;> omega

theorem qSearch_le (errs bits k q : Nat) (h : q ≤ 2000) : qSearch errs bits k q ≤ 2000 := by
  induction k generalizing q with
  | zero => exact h
  | succ k ih =>
    unfold qSearch
    refine ih _ ?_
    split
    next hit => exact of_decide_eq_true (Bool.and_eq_true_iff.mp hit).1
    next => exact h

theorem qFactor_le (errs bits : Nat) : qFactor errs bits ≤ 2000 := by
  unfold qFactor
  split_ifs
  · exact le_rfl
  · exact Nat.zero_le _
  · exact qSearch_le _ _ _ _ (Nat.zero_le _)

/-! ### CD, LO and trim (R49, R72, R83, R85, R86) -/

theorem compNow_congr {s t : State} (n : Lane) (h : (t.lane n).rxd = (s.lane n).rxd) (c : t.clk = s.clk) :
    t.compNow n = s.compNow n := by
  unfold State.compNow
  rw [h, c]

/-- R72: CD is estimated again, and the compensation moves to it in steps. -/
theorem cdReestimate_moves (s : State) (n : Lane) (hup : s.laneUp n = true) (cd : Int) (u : State) (hstate : s.rxdState n = 7)
    (hmode : s.is (fRXD_SCFG_CD_MODE n) = false) (hovr : (s.lane n).rxd.ovr = false)
    (hu : u = s.waitClk (1000 * cyclesMs + max (s.lane n).rxd.stateAt (s.lane n).rxd.cdEstAt)) :
    Completes (exec (.cdReestimate n cd) s) fun t => t.nat (aRXD_CD_EST n) = ofSigned 32 (s.cdHeld n cd) ∧ t.clk = u.clk ∧
      (t.lane n).rxd.comp = u.compNow n ∧ (t.lane n).rxd.cdMoveAt = u.clk ∧
      (t.lane n).rxd.cdTarget = if 50 ≤ (s.cdHeld n cd - u.compNow n).natAbs then s.cdHeld n cd else u.compNow n := by
  show Completes (execCdReestimate n cd s) _
  unfold execCdReestimate
  rw [if_neg (by simp [hup, hstate, hmode, hovr]), ← hu]
  extract_lets held x v c w
  have shown : Frame 1 u v := State.setInt_fr u _ _ (Frame.refl u)
  have moves : Frame 64 v w := State.modRxd_fr v n _ (Frame.refl v)
  have told : Frame 33554432 w (w.cdToTime n (some held)) := State.cdToTime_fr w n _ (Frame.refl w)
  have hc : c = u.compNow n := compNow_congr n (shown.rxd (by decide) n) shown.clk
  have hw : (w.lane n).rxd = { (v.lane n).rxd with
      comp := c, cdMoveAt := v.clk, cdEstAt := v.clk, cdTarget := if 50 ≤ (held - c).natAbs then held else c } :=
    State.rxd_modRxd ..
  refine .of_next rfl ?_
  rw [told.rxd (by decide) n, hw, told.clk, moves.clk, shown.clk, hc]
  refine ⟨?_, rfl, rfl, rfl, rfl⟩
  exact (State.nat_congr (told.regs.trans moves.regs) _).trans (State.nat_setNat_fits _ _ _ (ofSigned_lt _))

/-- R83 (log entry 64): after a `DELTA` the running sum is the one before with the `DELTA`, kept in the limit. -/
theorem State.int_loDelta (s : State) (n : Lane) (src : Nat) (v : Int) :
    (s.loDelta n src v).int (aRXD_LO_ACC n) =
      clampI (-(max 1 (s.get (fRXD_LO_LIMIT_LIMIT n)) : Nat)) (max 1 (s.get (fRXD_LO_LIMIT_LIMIT n)) : Nat)
        (s.int (aRXD_LO_ACC n) + v) := by
  have state : aRXD_STATE n ≠ aRXD_LO_ACC n := laneAddr_ne (by decide)
  have small : s.get (fRXD_LO_LIMIT_LIMIT n) < 65536 := bitsOf_lt _ _ _
  unfold State.loDelta State.showLoLim
  extract_lets lim acc new u
  have bounds : -lim ≤ new ∧ new ≤ lim := clampI_bounds (by omega) _
  have sent : Frame 80 (u.setInt (aRXD_LO_ACC n) new) ((u.setInt (aRXD_LO_ACC n) new).loFrame n 1 src (new - acc)) :=
    State.loFrame_fr _ n 1 src _ (Frame.refl _)
  rw [State.int, State.nat, State.setB, State.reg_set_other _ _ _ _ state, State.reg_congr sent.regs]
  exact u.int_setInt_fits _ new (by omega) (by omega)

/-- R83: the LO is corrected by the frequency's estimate beyond the dead band. -/
theorem loUpdateTick_corrects (s : State) (n : Lane) (hup : s.laneUp n = true) (e : Int) (hstate : 3 ≤ s.rxdState n)
    (howner : s.loOwnerNow n = 2) (hfine : (s.lane n).rxd.fine = some e) : Completes (exec (.loUpdateTick n) s) fun t =>
      (e.natAbs ≤ 1000 * s.get (fRXD_LO_LIMIT_DEADBAND n) → t.regs = s.regs ∧ t.sent = s.sent) ∧
      (1000 * s.get (fRXD_LO_LIMIT_DEADBAND n) < e.natAbs → t.int (aRXD_LO_ACC n) =
        clampI (-(max 1 (s.get (fRXD_LO_LIMIT_LIMIT n)) : Nat)) (max 1 (s.get (fRXD_LO_LIMIT_LIMIT n)) : Nat)
          (s.int (aRXD_LO_ACC n) + divNear e (1000 * 2 ^ s.get (fRXD_LO_CFG_GAIN n)))) := by
  show Completes (execLoUpdateTick n s) _
  unfold execLoUpdateTick
  extract_lets r w u
  have regs : u.regs = s.regs := (State.modRxd_regs ..).trans (s.regs_waitClk _)
  have sent : u.sent = s.sent := waitClk_same State.sent (fun _ _ _ _ => rfl) s _
  have fine : r.fine = some e := hfine
  rw [if_neg (by simp [hup, howner]; omega), fine]
  dsimp only
  rw [State.get_congr regs, State.get_congr regs]
  by_cases h : e.natAbs ≤ 1000 * s.get (fRXD_LO_LIMIT_DEADBAND n)
  · rw [if_pos h]
    exact .of_next rfl ⟨fun _ => ⟨regs, sent⟩, fun k => absurd k (by omega)⟩
  · rw [if_neg h]
    refine .of_next rfl ⟨fun k => absurd k h, fun _ => ?_⟩
    rw [State.int_loDelta, State.get_congr regs, State.int, State.nat_congr regs, State.int]

/-- R49, R86: the trim follows the estimate, in its range. -/
theorem trimUpdate_follows (s : State) (n : Lane) (hup : s.laneUp n = true) (want : Int) (hstate : 4 ≤ s.rxdState n)
    (hovr : (s.lane n).rxd.ovr = false) (hhold : s.is (fCONV_CTRL_TRIM_HOLD n) = false) :
    Completes (exec (.trimUpdate n want) s) fun t =>
      t.int (aCONV_RXSYN_TRIM n) = clampI (-100000000) 100000000 want ∧
      t.is (fCONV_STATE_TRIM_LIM n) = decide (100000000 < want.natAbs) ∧
      s.RegsBut t [aCONV_RXSYN_TRIM n, aCONV_STATE n, aCONV_ALARM n] := by
  have state : aCONV_STATE n ≠ aCONV_RXSYN_TRIM n := laneAddr_ne (by decide)
  have alarm : aCONV_RXSYN_TRIM n ∉ [aCONV_ALARM n] := by simp [aCONV_RXSYN_TRIM, aCONV_ALARM]
  have alarm' : aCONV_STATE n ∉ [aCONV_ALARM n] := by simp [aCONV_STATE, aCONV_ALARM]
  have bounds := clampI_bounds (lo := -100000000) (hi := 100000000) (by decide) want
  show Completes (execTrimUpdate n want s) _
  unfold execTrimUpdate
  rw [if_neg (by simp [hup, hovr]; omega), if_neg (by simp [hhold])]
  extract_lets lim was u
  have raised : ∀ b, (u.setB (fCONV_STATE_TRIM_LIM n) lim).RegsBut
      ((u.setB (fCONV_STATE_TRIM_LIM n) lim).raiseIf b (fCONV_ALARM_TRIM_LIM n)) [aCONV_ALARM n] := fun b =>
    (State.RegsBut.refl _ _).raiseIf b _ List.mem_cons_self
  refine .of_next rfl ⟨?_, ?_, ?_⟩
  · rw [State.int, (raised _).nat _ alarm, State.nat, State.setB, State.reg_set_other _ _ _ _ state]
    exact s.int_setInt_fits _ _ (by omega) (by omega)
  · rw [(raised _).is _ alarm', State.is_setB_fits _ _ _ rfl]
  · exact (((State.RegsBut.refl s _).setInt _ _ (by simp)).setB _ _ (by simp [fCONV_STATE_TRIM_LIM])).raiseIf _ _
      (by simp [fCONV_ALARM_TRIM_LIM])

/-- R49 (log entry 61): under TRIM_HOLD the trim stands, and timing lock says whether it is near enough. -/
theorem trimUpdate_held (s : State) (n : Lane) (hup : s.laneUp n = true) (want : Int) (hstate : 4 ≤ s.rxdState n)
    (hovr : (s.lane n).rxd.ovr = false) (hhold : s.is (fCONV_CTRL_TRIM_HOLD n) = true) :
    Completes (exec (.trimUpdate n want) s) fun t => s.RegsBut t [aRXD_STATE n] ∧ (5 ≤ s.rxdState n →
      t.is (fRXD_STATE_TIMING_LOCK n) = decide ((want - s.int (aCONV_RXSYN_TRIM n)).natAbs ≤ 20000000)) := by
  show Completes (execTrimUpdate n want s) _
  unfold execTrimUpdate
  rw [if_neg (by simp [hup, hovr]; omega), if_pos hhold]
  by_cases h : 5 ≤ s.rxdState n
  · rw [if_pos h]
    exact .of_next rfl ⟨(State.RegsBut.refl s _).setB _ _ (by simp [fRXD_STATE_TIMING_LOCK]),
      fun _ => State.is_setB_fits _ _ _ rfl⟩
  · rw [if_neg h]
    exact .of_next rfl ⟨State.RegsBut.refl s _, fun k => absurd k h⟩

/-! ### Metrics and NLC (R87, R97) -/

/-- A register written before another one holds what it was given. -/
theorem State.nat_setNat_under (s : State) {a b v : Nat} (w : Nat) (h : b ≠ a) (hv : v < 2 ^ 32) :
    ((s.setNat a v).setNat b w).nat a = v := by
  rw [State.nat_setNat_other _ _ _ _ h, State.nat_setNat_fits _ _ _ hv]

/-- The receive format rests on three registers, and on what RXD follows. -/
theorem rxFmt_eq {s t : State} (n : Lane) (fmt : t.nat (aRXD_RX_FMT n) = s.nat (aRXD_RX_FMT n))
    (rate : t.nat (aRXD_RX_RATE n) = s.nat (aRXD_RX_RATE n)) (pulse : t.nat (aRXD_RX_PULSE n) = s.nat (aRXD_RX_PULSE n))
    (follow : (t.lane n).rxd.follow = (s.lane n).rxd.follow) (far : (t.lane n).rxd.far = (s.lane n).rxd.far) :
    t.rxFmt n = s.rxFmt n := by
  unfold State.rxFmt State.rxWords
  rw [fmt, rate, pulse, follow, far]

/-- The registers that hold the metrics (R97). -/
def metricRegs (n : Nat) : List Nat :=
  [aRXD_EQ_DELAY n, aRXD_CD_EST n, aRXD_OSNR n, aRXD_SNR n, aRXD_Q n, aRXD_DGD n, aRXD_SOP_RATE n, aRXD_SOP_PEAK n]

/-- R97: the equaliser's delay and the CD shown, before the other metrics. -/
def State.showDelayCd (s : State) (n : Lane) (m : Metrics) : State :=
  let t := s.setInt (aRXD_EQ_DELAY n) (s.eqDelay n m.eqDelay)
  if 4 ≤ s.rxdState n then (t.setInt (aRXD_CD_EST n) (s.cdHeld n m.cd)).cdToTime n (some (s.cdHeld n m.cd)) else t

theorem State.showDelayCd_regsBut (s : State) (n : Lane) (m : Metrics) :
    s.RegsBut (s.showDelayCd n m) [aRXD_EQ_DELAY n, aRXD_CD_EST n] := by
  unfold State.showDelayCd
  extract_lets t
  have delay : s.RegsBut t [aRXD_EQ_DELAY n, aRXD_CD_EST n] := (State.RegsBut.refl s _).setInt _ _ (by simp)
  have told : Frame 33554432 (t.setInt (aRXD_CD_EST n) (s.cdHeld n m.cd))
      ((t.setInt (aRXD_CD_EST n) (s.cdHeld n m.cd)).cdToTime n (some (s.cdHeld n m.cd))) := State.cdToTime_fr _ n _ (Frame.refl _)
  exact .ite _ ((delay.setInt _ _ (by simp)).same told.regs) delay

theorem State.showDelayCd_rxd (s : State) (n : Lane) (m : Metrics) :
    ((s.showDelayCd n m).lane n).rxd = (s.lane n).rxd := by
  have delay : Frame 33554433 s (s.setInt (aRXD_EQ_DELAY n) (s.eqDelay n m.eqDelay)) := State.setInt_fr _ _ _ (Frame.refl s)
  have kept : Frame 33554433 s (s.showDelayCd n m) :=
    ite_fr _ _ _ (State.cdToTime_fr _ n _ (State.setInt_fr _ _ _ delay)) delay
  exact kept.rxd (by decide) n

/-- R97: the metrics of an interval in `TRACKING`, each in its range. -/
theorem rxdMetricsUpdate_shows (s : State) (n : Lane) (hup : s.laneUp n = true) (m : Metrics) (hstate : s.rxdState n = 7)
    (hovr : (s.lane n).rxd.ovr = false) : Completes (exec (.rxdMetricsUpdate n m) s) fun t =>
      t.nat (aRXD_OSNR n) = clampN 1000 4000 m.osnr ∧ t.nat (aRXD_SNR n) = min 3000 m.snr ∧
      t.nat (aRXD_DGD n) = min 30000 (s.eqDgd n m.dgd) ∧
      t.nat (aRXD_SOP_RATE n) = clampN 1 20000 m.sop ∧ t.nat (aRXD_Q n) ≤ 2000 ∧
      t.nat (aRXD_Q n) = qFactor (s.wide (aFEC_CNT n 1) - (s.lane n).rxd.qBase.2)
        ((s.rxFmt n).codedBits (s.wide (aFEC_CNT n 0) - (s.lane n).rxd.qBase.1)) ∧
      s.RegsBut t (metricRegs n) := by
  show Completes (execRxdMetricsUpdate n m s) _
  unfold execRxdMetricsUpdate
  rw [if_neg (by simp [hup, hovr])]
  extract_lets st cd u1 u2 now base fresh u3 q sop u4 u5 u6
  rw [if_neg (not_not.mpr hstate)]
  refine .of_next rfl ?_
  have early : s.RegsBut u2 [aRXD_EQ_DELAY n, aRXD_CD_EST n] := s.showDelayCd_regsBut n m
  have rxd2 : (u2.lane n).rxd = (s.lane n).rxd := s.showDelayCd_rxd n m
  have rxd3 : (u3.lane n).rxd = { (s.lane n).rxd with qBase := now } := by
    unfold u3
    rw [State.rxd_modRxd, rxd2]
  have first : s.RegsBut u3 [aRXD_EQ_DELAY n, aRXD_CD_EST n] := early.same (State.modRxd_regs ..)
  have fmt : u3.rxFmt n = s.rxFmt n := rxFmt_eq n (first.nat _ (by simp [aRXD_RX_FMT, aRXD_EQ_DELAY, aRXD_CD_EST]))
    (first.nat _ (by simp [aRXD_RX_RATE, aRXD_EQ_DELAY, aRXD_CD_EST]))
    (first.nat _ (by simp [aRXD_RX_PULSE, aRXD_EQ_DELAY, aRXD_CD_EST])) (by rw [rxd3]) (by rw [rxd3])
  have count : ∀ i, i < 2 → u2.wide (aFEC_CNT n i) = s.wide (aFEC_CNT n i) := fun i hi => by
    rw [State.wide, early.nat _ (by simp [aFEC_CNT, aRXD_EQ_DELAY, aRXD_CD_EST]; omega),
      early.nat _ (by simp [aFEC_CNT, aRXD_EQ_DELAY, aRXD_CD_EST]; omega), State.wide]
  have hq : q = qFactor (s.wide (aFEC_CNT n 1) - (s.lane n).rxd.qBase.2)
      ((s.rxFmt n).codedBits (s.wide (aFEC_CNT n 0) - (s.lane n).rxd.qBase.1)) := by
    unfold q now base
    rw [count 0 (by decide), count 1 (by decide), rxd2, fmt]
  have shown4 : Frame 1 u3 u4 := State.setNat_fr _ _ _ (State.setNat_fr _ _ _ (Frame.refl u3))
  have dgd : u4.eqDgd n m.dgd = s.eqDgd n m.dgd := by
    unfold State.eqDgd
    rw [shown4.rxd (by decide) n, rxd3]
  have mid : u4.RegsBut u5 [aRXD_Q n, aRXD_DGD n] := ((State.RegsBut.refl u4 _).setNat _ _ (by simp)).setNat _ _ (by simp)
  have last : u5.RegsBut (u6.modRxd n fun r => { r with sopFresh := false }) [aRXD_SOP_RATE n, aRXD_SOP_PEAK n] :=
    (((State.RegsBut.refl u5 _).setNat _ _ (by simp)).setNat _ _ (by simp)).same (State.modRxd_regs ..)
  have q5 : u5.nat (aRXD_Q n) = q :=
    State.nat_setNat_under _ _ (laneAddr_ne (by decide)) (lt_of_le_of_lt (qFactor_le _ _) (by decide))
  have q6 := (last.nat (aRXD_Q n) (by simp [aRXD_Q, aRXD_SOP_RATE, aRXD_SOP_PEAK])).trans q5
  refine ⟨?_, ?_, ?_, ?_, ?_, q6.trans hq, ?_⟩
  · rw [last.nat _ (by simp [aRXD_OSNR, aRXD_SOP_RATE, aRXD_SOP_PEAK]), mid.nat _ (by simp [aRXD_OSNR, aRXD_Q, aRXD_DGD])]
    exact State.nat_setNat_under _ _ (laneAddr_ne (by decide)) (lt_of_le_of_lt (clampN_le (by decide) _) (by decide))
  · rw [last.nat _ (by simp [aRXD_SNR, aRXD_SOP_RATE, aRXD_SOP_PEAK]), mid.nat _ (by simp [aRXD_SNR, aRXD_Q, aRXD_DGD])]
    exact State.nat_setNat_fits _ _ _ (lt_of_le_of_lt (min_le_left ..) (by decide))
  · rw [last.nat _ (by simp [aRXD_DGD, aRXD_SOP_RATE, aRXD_SOP_PEAK]), ← dgd]
    exact State.nat_setNat_fits _ _ _ (lt_of_le_of_lt (min_le_left ..) (by decide))
  · rw [State.nat_congr (State.modRxd_regs ..)]
    exact State.nat_setNat_under _ _ (laneAddr_ne (by decide)) (lt_of_le_of_lt (clampN_le (by decide) _) (by decide))
  · exact q6.trans_le (qFactor_le _ _)
  · have k3 : s.RegsBut u3 (metricRegs n) := first.mono fun a m => List.mem_append_left _ m
    have k5 : u3.RegsBut u5 (metricRegs n) := ((((State.RegsBut.refl u3 _).setNat _ _ (by simp [metricRegs])).setNat _ _
      (by simp [metricRegs])).setNat _ _ (by simp [metricRegs])).setNat _ _ (by simp [metricRegs])
    exact (k3.trans k5).trans (last.mono (by simp [metricRegs]))

/-- R87: NLC's coefficients are computed. -/
theorem nlcReady_holds (s : State) (n : Lane) (hup : s.laneUp n = true) (hnlc : (s.lane n).rxd.nlc = .computing) :
    Completes (exec (.nlcReady n) s) fun t => t.regs = s.regs ∧ (t.lane n).rxd = { (s.lane n).rxd with
      nlc := .ready, nlcCoef := Config.nlcCoefficients (s.nlcSpans n) (s.reg (aRXD_NLC_CFG n)) } := by
  show Completes (execNlcReady n s) _
  unfold execNlcReady
  rw [if_pos (by simp [hup, hnlc])]
  exact .of_next rfl ⟨State.modRxd_regs .., State.rxd_modRxd ..⟩

/-- Settles O19: each of RXD's tasks in steady operation. -/
theorem receiverTracking : Obligations.ReceiverTracking := fun s n hup =>
  ⟨fun cd u => cdReestimate_moves s n hup cd u, loUpdateTick_corrects s n hup,
    fun want hstate hovr => ⟨trimUpdate_follows s n hup want hstate hovr, trimUpdate_held s n hup want hstate hovr⟩,
    rxdMetricsUpdate_shows s n hup, nlcReady_holds s n hup⟩

end Sys2Proof.Machine
end

section
/-!
SUPPORT. The events of an acquisition of 03 (O18).
-/

-- one theorem after another: all at once would not fit the memory
set_option Elab.async false

namespace Sys2Proof.Machine

/-! ### What the shared operations of an acquisition leave (R83, R89, R90) -/

theorem clampI_of_mem {lo hi x : Int} (h : lo ≤ x) (h' : x ≤ hi) : clampI lo hi x = x := by
  unfold clampI
  rw [if_neg (by omega), if_neg (by omega)]

theorem State.rxdEnter_regsBut (s : State) (n : Lane) (st : Nat) : s.RegsBut (s.rxdEnter n st) (enterRegs n) :=
  fun a h => s.reg_rxdEnter n st a h

/-- R89: timing lock is shown from `POL` on. -/
theorem State.timingLock_rxdEnter (s : State) (n : Lane) (st : Nat) :
    (s.rxdEnter n st).is (fRXD_STATE_TIMING_LOCK n) = decide (5 ≤ st) := by
  have met : aRXD_MET_VALID n ≠ aRXD_STATE n := laneAddr_ne (by decide)
  have conv : aCONV_STATE n ≠ aRXD_STATE n := laneAddr_ne (by decide)
  unfold State.rxdEnter State.showOwner
  extract_lets u1 u2 u3 u4 u5
  have k3 : u3.is (fRXD_STATE_TIMING_LOCK n) = decide (5 ≤ st) :=
    (State.is_congr_reg _ (State.reg_setNat_other _ _ _ _ met)).trans (State.is_setB_fits _ _ _ rfl)
  have k4 : u4.is (fRXD_STATE_TIMING_LOCK n) = decide (5 ≤ st) := by
    unfold u4
    split
    · exact k3
    · rw [State.is_setB_elsewhere _ _ _ _ conv, k3]
  have k5 : u5.is (fRXD_STATE_TIMING_LOCK n) = decide (5 ≤ st) := by
    unfold u5
    split
    · exact k4
    · rw [State.is_congr (State.modRxd_regs ..), State.is_setB_beside _ _ _ _ rfl, k4]
  rw [State.is_set_beside _ _ _ _ rfl, k5]

theorem State.warm_rxdEnter (s : State) (n : Lane) (st : Nat) :
    (s.rxdEnter n st).is (fRXD_STATE_WARM n) = s.is (fRXD_STATE_WARM n) := by
  rw [State.is, State.get_rxdEnter s n st _ rfl rfl rfl rfl, State.get_set_beside _ _ _ _ rfl, State.is]

/-- Of what RXD keeps, a `DELTA` moves the sequence number alone. -/
theorem State.rxd_loDelta (s : State) (n : Lane) (src : Nat) (v : Int) :
    ∃ seq, ((s.loDelta n src v).lane n).rxd = { (s.lane n).rxd with loSeq := seq } := by
  unfold State.loDelta State.loFrame
  extract_lets lim acc new u1 seq u2
  have summed : Frame 17 s (u1.setInt (aRXD_LO_ACC n) new) := State.setInt_fr _ _ _ (State.raiseIf_fr _ _ _ (Frame.refl s))
  have shown : ∀ frame, Frame 17 u2 ((u2.emit frame).showLoLim n) := fun _ =>
    State.showLoLim_fr _ n (State.emit_fr _ _ (Frame.refl u2))
  refine ⟨(seq + 1) % 4, ?_⟩
  rw [(shown _).rxd (by decide) n, State.rxd_modRxd, summed.rxd (by decide) n]

/-- Of what RXD keeps, the end of the coarse step changes that it is done, the instant of the fine estimate and the LO's
sequence number. -/
theorem State.rxd_coarseEnd (s : State) (n : Lane) (est : Int) : ∃ done at_ seq, ((s.coarseEnd n est).lane n).rxd =
    { (s.lane n).rxd with coarseDone := done, fineAt := at_, loSeq := seq } := by
  unfold State.coarseEnd
  extract_lets owner u
  have corrected : ∃ seq, (u.lane n).rxd = { (s.lane n).rxd with loSeq := seq } := by
    unfold u
    split
    · exact s.rxd_loDelta n 0 _
    · exact ⟨_, rfl⟩
  obtain ⟨seq, corrected⟩ := corrected
  split
  · have raised : Frame 17 s (s.raise (fRXD_ALARM_FO_RANGE n)) := State.raise_fr _ _ (Frame.refl s)
    exact ⟨_, _, _, raised.rxd (by decide) n⟩
  · exact ⟨_, _, seq, by rw [State.rxd_modRxd, corrected]⟩

theorem State.showFo_regsBut (s : State) (n : Lane) (fo : Int) : s.RegsBut (s.showFo n fo) [aRXD_FO_EST n, aRXD_MET_VALID n] :=
  ((State.RegsBut.refl s _).setInt _ _ (by simp)).setB _ _ (by simp [fRXD_MET_VALID_FO])

theorem State.rxd_showFo (s : State) (n : Lane) (fo : Int) : ((s.showFo n fo).lane n).rxd = (s.lane n).rxd :=
  (State.showFo_fr s n fo (Frame.refl s) : Frame 1 s _).rxd (by decide) n

/-- R89: after `FREQ_SEARCH` comes `TIMING` with CD fixed, `CD_SCAN` else. -/
theorem State.rxdState_searchDone (s : State) (n : Lane) :
    (s.searchDone n).rxdState n = if s.is (fRXD_SCFG_CD_MODE n) then 4 else 3 := by
  unfold State.searchDone
  extract_lets u
  have mode : u.is (fRXD_SCFG_CD_MODE n) = s.is (fRXD_SCFG_CD_MODE n) := State.is_congr (State.modRxd_regs ..) _
  rw [mode]
  split
  · exact State.rxdState_rxdEnter _ n 4 (by decide)
  · exact (State.get_congr (State.modRxd_regs ..) _).trans (State.rxdState_rxdEnter _ n 3 (by decide))

/-- The fine estimate outlasts the end of `FREQ_SEARCH`. -/
theorem State.fine_searchDone (s : State) (n : Lane) : ((s.searchDone n).lane n).rxd.fine = (s.lane n).rxd.fine := by
  unfold State.searchDone
  extract_lets u
  have owned : (u.lane n).rxd.fine = (s.lane n).rxd.fine := by
    unfold u
    rw [State.rxd_modRxd]
  split
  · obtain ⟨_, _, entered⟩ := (u.compSet n (u.int (aRXD_CD_FIXED n))).rxd_rxdEnter n 4
    rw [entered, ← owned, State.compSet, State.rxd_modRxd]
  · obtain ⟨_, _, entered⟩ := u.rxd_rxdEnter n 3
    rw [State.scanStart, State.rxd_modRxd, entered, owned]

theorem State.warm_freqSearch (s : State) (n : Lane) : (s.freqSearch n).is (fRXD_STATE_WARM n) = false := by
  have ksc : (fKSC_STATE_LO_SENT n).addr ≠ (fRXD_STATE_WARM n).addr := laneAddr_ne (by decide)
  unfold State.freqSearch
  extract_lets u1 u2 u3
  rw [State.warm_rxdEnter, State.is_setB_elsewhere _ _ _ _ ksc, State.is_setB_beside _ _ _ _ rfl, State.is_setB_fits _ _ _ rfl]

/-- R89, R90: a failure with its alarm, and `FREQ_SEARCH` from now on, not warm. -/
theorem State.acqFail_searches (s : State) (n : Lane) (alarm : Fld) (h : alarm.addr = aRXD_ALARM n) (ok : alarm.ok = true) :
    (s.acqFail n alarm).rxdState n = 2 ∧ (s.acqFail n alarm).get alarm = 1 ∧
      ((s.acqFail n alarm).lane n).rxd.searchAt = s.clk ∧ (s.acqFail n alarm).is (fRXD_STATE_WARM n) = false := by
  have line : lineReg alarm.addr := h ▸ rxdAlarm_line n
  have entry : alarm.addr ∉ enterRegs n := by
    rw [h]
    simp [enterRegs, aRXD_ALARM, aRXD_STATE, aRXD_MET_VALID, aCONV_STATE]
  have counted : Frame 16401 s ((s.addCnt (aRXD_ACQ_FAIL_CNT n) 1).raise alarm) :=
    State.raise_fr _ _ (State.addCnt_fr _ _ _ (Frame.refl s))
  unfold State.acqFail
  refine ⟨State.rxdState_freqSearch _ n, ?_, (State.searchAt_freqSearch _ n).trans counted.clk, State.warm_freqSearch _ n⟩
  exact (State.get_congr_reg _ (State.reg_freqSearch _ n _ line entry)).trans (State.get_raise_fits _ _ ok)

/-! ### `FREQ_SEARCH` (R70, R80, R89, R93) -/

/-- R80: a spectral estimate, held within its range. -/
theorem spectralEstimate_estimates (s : State) (n : Lane) (hup : s.laneUp n = true) (fo : Int) (hstate : s.rxdState n = 2)
    (hovr : (s.lane n).rxd.ovr = false) : Completes (exec (.spectralEstimate n fo) s) fun t =>
      (t.lane n).rxd.spectral = some (clampI (-25000000) 25000000 fo) := by
  show Completes (execSpectralEstimate n fo s) _
  unfold execSpectralEstimate
  rw [if_neg (by simp [hup, hstate, hovr])]
  extract_lets r w held u
  have shown : (u.lane n).rxd.spectral = some held := by
    unfold u
    rw [State.rxd_showFo, State.rxd_modRxd]
  refine .of_next rfl ?_
  split
  · exact shown
  · obtain ⟨_, _, _, ended⟩ := u.rxd_coarseEnd n held
    rw [ended]
    exact shown

/-- R70: over-range stops the spectral estimate. -/
theorem spectralEstimate_stands (s : State) (n : Lane) (fo : Int) (hovr : (s.lane n).rxd.ovr = true) :
    Completes (exec (.spectralEstimate n fo) s) fun t => t = s := by
  show Completes (execSpectralEstimate n fo s) _
  unfold execSpectralEstimate
  rw [if_pos (by simp [hovr])]
  exact .of_next rfl rfl

/-- R80, R89: a fine estimate; the second of two that agree ends `FREQ_SEARCH`. -/
theorem fineEstimate_estimates (s : State) (n : Lane) (hup : s.laneUp n = true) (fo : Int)
    (hstate : 3 ≤ s.rxdState n ∨ (s.rxdState n = 2 ∧ (s.lane n).rxd.coarseDone = true))
    (hovr : (s.lane n).rxd.ovr = false) : Completes (exec (.fineEstimate n fo) s) fun t =>
      (t.lane n).rxd.fine = some (clampI (-25000000) 25000000 fo) ∧
      (∀ p, s.rxdState n = 2 → (s.lane n).rxd.fine = some p → p.natAbs ≤ 2500000 → fo.natAbs ≤ 2500000 →
        (p - fo).natAbs ≤ 50000 → t.rxdState n = if s.is (fRXD_SCFG_CD_MODE n) then 4 else 3) := by
  show Completes (execFineEstimate n fo s) _
  unfold execFineEstimate
  extract_lets r held w u ok
  have runs : ¬ (!s.laneUp n || decide (s.rxdState n < 2) || (decide (s.rxdState n = 2) && !r.coarseDone) || r.ovr) = true := by
    rcases hstate with h | ⟨h, done⟩
    · simp [r, hup, hovr]
      omega
    · simp [r, hup, hovr, h, done]
  have fine : (u.lane n).rxd.fine = some held := by
    unfold u
    rw [State.rxd_showFo, State.rxd_modRxd]
  have but : s.RegsBut u [aRXD_FO_EST n, aRXD_MET_VALID n] :=
    (State.RegsBut.refl s _ |>.same ((State.modRxd_regs ..).trans (s.regs_waitClk _))).trans (State.showFo_regsBut _ n held)
  have state : u.rxdState n = s.rxdState n := but.get _ (by simp [fRXD_STATE_STATE, aRXD_STATE, aRXD_FO_EST, aRXD_MET_VALID])
  have mode : u.is (fRXD_SCFG_CD_MODE n) = s.is (fRXD_SCFG_CD_MODE n) :=
    but.is _ (by simp [fRXD_SCFG_CD_MODE, aRXD_SCFG, aRXD_FO_EST, aRXD_MET_VALID])
  rw [if_neg runs]
  refine .of_next rfl ⟨?_, fun p h2 hp near near' agree => ?_⟩
  · split
    · rw [State.fine_searchDone, fine]
    · exact fine
  · have within : held = fo := clampI_of_mem (by omega) (by omega)
    have done : ok = true := by
      unfold ok r
      simp [hp, within, near, near', agree]
    rw [if_pos (by simp [state, h2, done]), State.rxdState_searchDone, mode]

/-- R70: over-range stops the fine estimate. -/
theorem fineEstimate_stands (s : State) (n : Lane) (fo : Int) (hovr : (s.lane n).rxd.ovr = true) :
    Completes (exec (.fineEstimate n fo) s) fun t => t = s := by
  show Completes (execFineEstimate n fo s) _
  unfold execFineEstimate
  rw [if_pos (by simp [hovr])]
  exact .of_next rfl rfl

/-- R93: the wait for Keystone's packet ends without it. -/
theorem ksWaitExpiry_ends (s : State) (n : Lane) (hup : s.laneUp n = true) (hstate : s.rxdState n = 2)
    (hwait : (s.lane n).rxd.ksWaiting = true) (hcoarse : (s.lane n).rxd.coarseDone = false) :
    Completes (exec (.ksWaitExpiry n) s) fun t =>
      (t.lane n).rxd.ksWaiting = false ∧ (t.lane n).rxd.ksExpired = true := by
  show Completes (execKsWaitExpiry n s) _
  unfold execKsWaitExpiry
  extract_lets r w u
  rw [if_neg (by simp [r, hup, hstate, hwait, hcoarse])]
  have owner : Frame 1 (w.modRxd n fun r => { r with ksWaiting := false, ksExpired := true }) u :=
    State.showOwner_fr _ n (Frame.refl _)
  have expired : (u.lane n).rxd.ksWaiting = false ∧ (u.lane n).rxd.ksExpired = true := by
    rw [owner.rxd (by decide) n, State.rxd_modRxd]
    exact ⟨rfl, rfl⟩
  refine .of_next rfl ?_
  split
  next e _ =>
    obtain ⟨_, _, _, ended⟩ := u.rxd_coarseEnd n e
    rw [ended]
    exact expired
  next => exact expired

/-! ### `CD_SCAN` (R70, R73, R89) -/

/-- R73: a dwell before the last is followed by the next step of the same scan. -/
theorem cdScanStep_advances (s : State) (n : Lane) (hup : s.laneUp n = true) (metric : Nat) (above : Bool) (c : CdScan)
    (hstate : s.rxdState n = 3) (hscan : (s.lane n).rxd.scan = some c) (hrefine : c.refining = false)
    (hovr : (s.lane n).rxd.ovr = false) : Completes (exec (.cdScanStep n metric above) s) fun t =>
      c.step + 1 < scanSteps c.hint (s.rxFmt n).symRate → ∃ d, (t.lane n).rxd.scan = some d ∧ d.step = c.step + 1 ∧
        d.hint = c.hint ∧ d.refining = false := by
  by_cases more : c.step + 1 < scanSteps c.hint (s.rxFmt n).symRate
  · show Completes (execCdScanStep n metric above s) _
    unfold execCdScanStep
    rw [hscan]
    dsimp -zeta only
    rw [if_neg (by simp [hup, hstate, hrefine, hovr])]
    extract_lets rate w best
    rw [if_pos more]
    exact .of_next rfl fun _ => ⟨_, congrArg RxdState.scan (State.rxd_modRxd ..), rfl, rfl, hrefine⟩
  · exact (exec_done _ s).completes fun _ _ k => absurd k more

/-- R70 (log entry 91): over-range stops the scan. -/
theorem cdScanStep_stands (s : State) (n : Lane) (metric : Nat) (above : Bool) (c : CdScan)
    (hscan : (s.lane n).rxd.scan = some c) (hovr : (s.lane n).rxd.ovr = true) :
    Completes (exec (.cdScanStep n metric above) s) fun t => t = s := by
  show Completes (execCdScanStep n metric above s) _
  unfold execCdScanStep
  rw [hscan]
  dsimp -zeta only
  rw [if_pos (by simp [hovr])]
  exact .of_next rfl rfl

/-- R71, R73, R89: the refinement's estimate is compensated, and `TIMING` follows. -/
theorem cdRefineDone_compensates (s : State) (n : Lane) (hup : s.laneUp n = true) (cd : Int) (c : CdScan)
    (hstate : s.rxdState n = 3) (hscan : (s.lane n).rxd.scan = some c) (hrefine : c.refining = true)
    (hovr : (s.lane n).rxd.ovr = false) : Completes (exec (.cdRefineDone n cd) s) fun t => t.rxdState n = 4 ∧
      (t.lane n).rxd.comp = s.cdHeld n cd ∧ (t.lane n).rxd.cdTarget = s.cdHeld n cd ∧ (t.lane n).rxd.scan = none := by
  show Completes (execCdRefineDone n cd s) _
  unfold execCdRefineDone
  rw [hscan]
  dsimp -zeta only
  rw [if_neg (by simp [hup, hstate, hrefine, hovr])]
  extract_lets held w u
  have told : Frame 33554432 (u.rxdEnter n 4) ((u.rxdEnter n 4).cdToTime n (some held)) := State.cdToTime_fr _ n _ (Frame.refl _)
  obtain ⟨_, _, entered⟩ := u.rxd_rxdEnter n 4
  refine .of_next rfl ⟨?_, ?_⟩
  · exact (State.get_congr told.regs _).trans (u.rxdState_rxdEnter n 4 (by decide))
  · rw [told.rxd (by decide) n, entered]
    unfold u State.compSet
    rw [State.rxd_modRxd, State.rxd_modRxd]
    exact ⟨rfl, rfl, rfl⟩

/-- R70 (log entry 91): over-range stops the refinement. -/
theorem cdRefineDone_stands (s : State) (n : Lane) (cd : Int) (c : CdScan) (hscan : (s.lane n).rxd.scan = some c)
    (hovr : (s.lane n).rxd.ovr = true) : Completes (exec (.cdRefineDone n cd) s) fun t => t = s := by
  show Completes (execCdRefineDone n cd s) _
  unfold execCdRefineDone
  rw [hscan]
  dsimp -zeta only
  rw [if_pos (by simp [hovr])]
  exact .of_next rfl rfl

/-! ### `TIMING` to `TRACKING`, and back (R89, R90) -/

/-- R89: clock recovery locks. -/
theorem timingLock_enters (s : State) (n : Lane) (hup : s.laneUp n = true) (hstate : s.rxdState n = 4) :
    Completes (exec (.timingLock n) s) fun t => t.rxdState n = 5 ∧ t.is (fRXD_STATE_TIMING_LOCK n) = true ∧
      s.RegsBut t [aRXD_STATE n, aRXD_MET_VALID n, aCONV_STATE n] := by
  show Completes (execTimingLock n s) _
  unfold execTimingLock
  rw [if_pos (by simp [hup, hstate])]
  exact .of_next rfl ⟨s.rxdState_rxdEnter n 5 (by decide), s.timingLock_rxdEnter n 5, s.rxdEnter_regsBut n 5⟩

/-- R89: the equaliser converges. -/
theorem polConverged_enters (s : State) (n : Lane) (hup : s.laneUp n = true) (hstate : s.rxdState n = 5) :
    Completes (exec (.polConverged n) s) fun t =>
      t.rxdState n = 6 ∧ s.RegsBut t [aRXD_STATE n, aRXD_MET_VALID n, aCONV_STATE n] := by
  show Completes (execPolConverged n s) _
  unfold execPolConverged
  rw [if_pos (by simp [hup, hstate])]
  exact .of_next rfl ⟨s.rxdState_rxdEnter n 6 (by decide), s.rxdEnter_regsBut n 6⟩

/-- R89 (log entries 65, 94): a state has lasted as long as it may. -/
theorem acqStateTimeout_fails (s : State) (n : Lane) (hup : s.laneUp n = true) (hlim : s.stateLimit n ≠ 0) :
    Completes (exec (.acqStateTimeout n) s) fun t => t.rxdState n = 2 ∧ t.get (fRXD_ALARM_ACQ_FAIL n) = 1 ∧
      (t.lane n).rxd.searchAt = max s.clk ((s.lane n).rxd.stateAt + s.stateLimit n) := by
  show Completes (execAcqStateTimeout n s) _
  unfold execAcqStateTimeout
  extract_lets lim
  rw [if_neg (by simp [hup, lim, hlim])]
  obtain ⟨state, alarm, start, _⟩ :=
    (s.waitClk ((s.lane n).rxd.stateAt + lim)).acqFail_searches n (fRXD_ALARM_ACQ_FAIL n) rfl rfl
  exact .of_next rfl ⟨state, alarm, start.trans (waitClk_clk s _)⟩

/-- R90: a warm reacquisition has lasted as long as it may. -/
theorem warmReacqTimeout_fails (s : State) (n : Lane) (hup : s.laneUp n = true) (hwarm : s.is (fRXD_STATE_WARM n) = true) :
    Completes (exec (.warmReacqTimeout n) s) fun t =>
      t.rxdState n = 2 ∧ t.get (fRXD_ALARM_WARM_FAIL n) = 1 ∧ t.is (fRXD_STATE_WARM n) = false := by
  show Completes (execWarmReacqTimeout n s) _
  unfold execWarmReacqTimeout
  rw [if_neg (by simp [hup, hwarm])]
  obtain ⟨state, alarm, _, left⟩ :=
    (s.waitClk (10 * cyclesMs + (s.lane n).rxd.warmAt)).acqFail_searches n (fRXD_ALARM_WARM_FAIL n) rfl rfl
  exact .of_next rfl ⟨state, alarm, left⟩

/-- R85, R89: the equaliser diverges, and a warm `TIMING` follows. -/
theorem eqDiverge_falls (s : State) (n : Lane) (hup : s.laneUp n = true) (hstate : s.rxdState n = 7) :
    Completes (exec (.eqDiverge n) s) fun t => t.rxdState n = 4 ∧ t.is (fRXD_STATE_WARM n) = true ∧
      s.RegsBut t [aRXD_STATE n, aRXD_MET_VALID n, aCONV_STATE n] := by
  show Completes (execEqDiverge n s) _
  unfold execEqDiverge State.rxdWarm
  rw [if_pos hup, if_pos hstate]
  have marked : s.RegsBut (s.setB (fRXD_STATE_WARM n) true) (enterRegs n) :=
    (State.RegsBut.refl s _).setB _ _ (by simp [enterRegs, fRXD_STATE_WARM])
  refine .of_next rfl ⟨State.rxdState_rxdEnter _ n 4 (by decide), ?_, ?_⟩
  · rw [State.warm_rxdEnter, State.is_congr (State.modRxd_regs ..), State.is_setB_fits _ _ _ rfl]
  · exact (marked.same (State.modRxd_regs ..)).trans (State.rxdEnter_regsBut _ n 4)

/-- Settles O18: each event of an acquisition, in the states that its clause names. -/
theorem receiverAcquisition : Obligations.ReceiverAcquisition := fun s n hup =>
  ⟨fun fo hstate => ⟨spectralEstimate_estimates s n hup fo hstate, spectralEstimate_stands s n fo⟩,
    fun fo hstate => ⟨fineEstimate_estimates s n hup fo hstate, fineEstimate_stands s n fo⟩,
    ksWaitExpiry_ends s n hup,
    fun metric above c hstate hscan hrefine =>
      ⟨cdScanStep_advances s n hup metric above c hstate hscan hrefine, cdScanStep_stands s n metric above c hscan⟩,
    fun cd c hstate hscan hrefine =>
      ⟨cdRefineDone_compensates s n hup cd c hstate hscan hrefine, cdRefineDone_stands s n cd c hscan⟩,
    timingLock_enters s n hup, polConverged_enters s n hup, acqStateTimeout_fails s n hup,
    warmReacqTimeout_fails s n hup, eqDiverge_falls s n hup⟩

end Sys2Proof.Machine
end

section
/-!
SUPPORT. The states of the transmitter and the LF starts of its grid, of 04 (O20).
-/

namespace Sys2Proof.Machine

/-! ### TXD enters a state (R102, R113, R295) -/

/-- The registers of KSC that change where what waits to be sent is dropped. -/
def ksDropRegs (n : Nat) : List Nat := [aKSC_STATE n, aKSC_CNT n 1, aKSC_CNT n 1 + 4, aKSC_ALARM n]

theorem State.ksDrop_regsBut (s : State) (n : Lane) : s.RegsBut (s.ksDrop n) (ksDropRegs n) := by
  have start := State.RegsBut.refl s (ksDropRegs n)
  have state : aKSC_STATE n ∈ ksDropRegs n := by simp [ksDropRegs]
  unfold State.ksDrop
  extract_lets k lost u1 u2 u3
  have cut : s.RegsBut u1 (ksDropRegs n) := .ite _ (start.same (State.emit_regs ..)) start
  have emptied : s.RegsBut u2 (ksDropRegs n) := cut.same (State.modKsc_regs ..)
  have idle : s.RegsBut u3 (ksDropRegs n) := (emptied.setB (fKSC_STATE_TX_BUSY n) _ state).set (fKSC_STATE_TX_TYPE n) _ state
  have counted : s.RegsBut (u3.addCnt (aKSC_CNT n 1) lost) (ksDropRegs n) :=
    idle.addCnt _ _ (by simp [ksDropRegs]) (by simp [ksDropRegs])
  exact .ite _ idle (counted.raise (fKSC_ALARM_TX_DROP n) (by simp [ksDropRegs, fKSC_ALARM_TX_DROP]))

/-- The registers of TXD's control and state are none of KSC's. -/
theorem txd_notMem_ksDropRegs (n : Lane) : aTXD_CTRL n ∉ ksDropRegs n ∧ aTXD_STATE n ∉ ksDropRegs n := by
  simp only [ksDropRegs, aTXD_CTRL, aTXD_STATE, aKSC_STATE, aKSC_CNT, aKSC_ALARM, List.mem_cons, List.not_mem_nil, or_false]
  omega

theorem txdState_ne_ctrl (n : Lane) : aTXD_STATE n ≠ aTXD_CTRL n := laneAddr_ne (by decide)

/-- R113: showing whether Keystone is injected leaves what is asked of TXD. -/
theorem State.is_showKsOn (s : State) (n : Lane) (f : Fld) (h : f.addr = aTXD_CTRL n) : (s.showKsOn n).is f = s.is f := by
  have shown : ∀ b, (s.setB (fTXD_STATE_KS_ON n) b).is f = s.is f := fun b =>
    State.is_setB_elsewhere s _ f b (h ▸ txdState_ne_ctrl n)
  unfold State.showKsOn
  extract_lets on u
  split
  · exact shown on
  · rw [(u.ksDrop_regsBut n).is f (h ▸ (txd_notMem_ksDropRegs n).1), shown]

/-- R113: and the state that TXD is in. -/
theorem State.txdState_showKsOn (s : State) (n : Lane) : (s.showKsOn n).txdState n = s.txdState n := by
  have shown : ∀ b, (s.setB (fTXD_STATE_KS_ON n) b).txdState n = s.txdState n := fun b =>
    State.get_setB_beside s _ (fTXD_STATE_STATE n) b rfl
  unfold State.showKsOn
  extract_lets on u
  split
  · exact shown on
  · exact ((u.ksDrop_regsBut n).get (fTXD_STATE_STATE n) (txd_notMem_ksDropRegs n).2).trans (shown on)

/-- R102: an entry to a state shows it in TXD_STATE.STATE, and then whether Keystone is injected. -/
theorem State.txdEnter_shows (s : State) (n : Lane) (st : Nat) : ∃ u : State,
    u.regs = (s.set (fTXD_STATE_STATE n) st).regs ∧ s.txdEnter n st = u.showKsOn n := by
  unfold State.txdEnter
  extract_lets fresh u1 u2
  refine ⟨u2, ?_, rfl⟩
  unfold u2
  split <;> rfl

theorem State.is_txdEnter (s : State) (n : Lane) (st : Nat) (f : Fld) (h : f.addr = aTXD_CTRL n) :
    (s.txdEnter n st).is f = s.is f := by
  obtain ⟨u, regs, shows⟩ := s.txdEnter_shows n st
  rw [shows, u.is_showKsOn n f h, State.is_congr regs, State.is_set_elsewhere s _ f st (h ▸ txdState_ne_ctrl n)]

theorem State.txdState_txdEnter (s : State) (n : Lane) (st : Nat) (h : st < 4) : (s.txdEnter n st).txdState n = st := by
  obtain ⟨u, regs, shows⟩ := s.txdEnter_shows n st
  rw [shows, u.txdState_showKsOn]
  calc u.get (fTXD_STATE_STATE n) = (s.set (fTXD_STATE_STATE n) st).get (fTXD_STATE_STATE n) := State.get_congr regs _
    _ = st % 2 ^ 2 := State.get_set_fits s (fTXD_STATE_STATE n) st rfl
    _ = st := Nat.mod_eq_of_lt h

/-! ### EN and MODE (R102) -/

theorem State.is_txdNow (s : State) (n : Lane) (f : Fld) (h : f.addr = aTXD_CTRL n) : (s.txdNow n).is f = s.is f := by
  unfold State.txdNow
  split
  · exact s.is_txdEnter n 0 f h
  · split
    · exact s.is_txdEnter n 1 f h
    · rfl

/-- With EN cleared TXD is in `DISABLED`. -/
theorem State.txdState_txdNow_off (s : State) (n : Lane) (h : s.is (fTXD_CTRL_EN n) = false) : (s.txdNow n).txdState n = 0 := by
  unfold State.txdNow
  rw [if_pos (by simp [h])]
  exact s.txdState_txdEnter n 0 (by decide)

/-- With EN set only the way from `DISABLED` to `KS_ONLY` is taken at once. -/
theorem State.txdState_txdNow_on (s : State) (n : Lane) (h : s.is (fTXD_CTRL_EN n) = true) :
    (s.txdNow n).txdState n = if s.txdState n = 0 ∧ s.is (fTXD_CTRL_MODE n) = false then 1 else s.txdState n := by
  unfold State.txdNow
  rw [if_neg (by simp [h])]
  by_cases now : s.txdState n = 0 ∧ s.is (fTXD_CTRL_MODE n) = false
  · rw [if_pos now, if_pos (by simp [now])]
    exact s.txdState_txdEnter n 1 (by decide)
  · rw [if_neg now, if_neg (by simpa using now)]

/-- A write of a bit of TXD_CTRL leaves the state for `txdNow` to judge. -/
theorem State.txdState_setB_ctrl (s : State) (n : Lane) (f : Fld) (b : Bool) (h : f.addr = aTXD_CTRL n) :
    (s.setB f b).txdState n = s.txdState n :=
  State.get_setB_elsewhere s f (fTXD_STATE_STATE n) b (h ▸ (txdState_ne_ctrl n).symm)

theorem txdEnWrite_enables (s : State) (n : Lane) (v : Bool) (htake : s.takes .pcie (aTXD_CTRL n) = true) :
    Completes (exec (.txdEnWrite n v) s) fun t =>
      t.is (fTXD_CTRL_EN n) = v ∧ (v = false → t.txdState n = 0) ∧
      (v = true → s.txdState n = 0 → s.is (fTXD_CTRL_MODE n) = false → t.txdState n = 1) := by
  have en : (s.setB (fTXD_CTRL_EN n) v).is (fTXD_CTRL_EN n) = v := State.is_setB_fits s _ v rfl
  have mode : (s.setB (fTXD_CTRL_EN n) v).is (fTXD_CTRL_MODE n) = s.is (fTXD_CTRL_MODE n) := State.is_setB_beside s _ _ v rfl
  refine .of_next (congrArg Host.Outcome.next (hostWrite_taken s _ _ htake))
    ⟨(State.is_txdNow _ n _ rfl).trans en, fun off => ?_, fun on h0 hmode => ?_⟩
  · exact State.txdState_txdNow_off _ n (en.trans off)
  · rw [State.txdState_txdNow_on _ n (en.trans on), mode, s.txdState_setB_ctrl n (fTXD_CTRL_EN n) v rfl,
      if_pos ⟨h0, hmode⟩]

theorem txdModeWrite_takes (s : State) (n : Lane) (v : Bool) (htake : s.takes .pcie (aTXD_CTRL n) = true) :
    Completes (exec (.txdModeWrite n v) s) fun t =>
      t.is (fTXD_CTRL_MODE n) = v ∧
      (s.is (fTXD_CTRL_EN n) = true → t.txdState n = if s.txdState n = 0 ∧ v = false then 1 else s.txdState n) := by
  have mode : (s.setB (fTXD_CTRL_MODE n) v).is (fTXD_CTRL_MODE n) = v := State.is_setB_fits s _ v rfl
  have en : (s.setB (fTXD_CTRL_MODE n) v).is (fTXD_CTRL_EN n) = s.is (fTXD_CTRL_EN n) := State.is_setB_beside s _ _ v rfl
  refine .of_next (congrArg Host.Outcome.next (hostWrite_taken s _ _ htake))
    ⟨(State.is_txdNow _ n _ rfl).trans mode, fun on => ?_⟩
  rw [State.txdState_txdNow_on _ n (en.trans on), mode, s.txdState_setB_ctrl n (fTXD_CTRL_MODE n) v rfl]

/-! ### A Keystone group that is missing (R113) -/

theorem ksGroupMissed_raises (s : State) (n : Lane) (hup : s.laneUp n = true) (hon : s.is (fTXD_STATE_KS_ON n) = true) :
    Completes (exec (.ksGroupMissed n) s) fun t =>
      t.get (fTXD_ALARM_KS_LOST n) = 1 ∧ s.RegsBut t [aTXD_ALARM n] ∧
      (t.lane n).tx = { (s.lane n).tx with ksMissed := true } := by
  have raised : ∀ u : State, Frame 17 u (u.raise (fTXD_ALARM_KS_LOST n)) := fun u => State.raise_fr u _ (.refl u)
  show Completes (execKsGroupMissed n s) _
  unfold execKsGroupMissed
  rw [if_pos (by simp [hup, hon])]
  exact .of_next rfl ⟨State.get_raise_fits _ _ rfl,
    ((State.RegsBut.refl s _).same (State.modTx_regs ..)).raise _ List.mem_cons_self,
    ((raised _).tx (by decide) n).trans (State.tx_modTx s n _)⟩

/-! ### The grid (R506) -/

/-- Time has passed until a start of the grid, and the grid goes on from there. -/
def State.onGrid (s : State) (n : Lane) (c k at_ : Nat) : State := (s.waitClk c).gridGo n k at_

theorem State.onGrid_regs (s : State) (n : Lane) (c k at_ : Nat) : (s.onGrid n c k at_).regs = s.regs :=
  State.regs_waitClk s c

theorem State.onGrid_clk (s : State) (n : Lane) (c k at_ : Nat) : s.clk ≤ (s.onGrid n c k at_).clk :=
  le_of_le_of_eq (Nat.le_max_left _ _) (waitClk_clk s c).symm

theorem State.onGrid_sent (s : State) (n : Lane) (c k at_ : Nat) : (s.onGrid n c k at_).sent = s.sent :=
  waitClk_same State.sent (fun _ _ _ _ => rfl) s c

/-- The grid has started, and the frames of the multiframe are not counted by it. -/
theorem State.onGrid_tx (s : State) (n : Lane) (c k at_ : Nat) :
    ((s.onGrid n c k at_).lane n).tx.started = true ∧ ((s.onGrid n c k at_).lane n).tx.mfas = (s.lane n).tx.mfas := by
  have lane : (s.waitClk c).lane n = s.lane n := congrArg (fun v => v[n]) (waitClk_lanes s c)
  unfold State.onGrid State.gridGo
  extract_lets p
  rw [State.tx_modTx, lane]
  split
  next same =>
    simp only [Bool.and_eq_true] at same
    exact ⟨same.1, rfl⟩
  next => exact ⟨rfl, rfl⟩

/-- R118: the signal in progress becomes the one before, and no more of TXD changes. -/
theorem State.tx_lfSignal (s : State) (n : Lane) (x : Option LfSignal) : ((s.lfSignal n x).lane n).tx =
    { (s.lane n).tx with signalBefore := (s.lane n).tx.signal.map fun y => (y, (s.lane n).tx.lfLen), signal := x } :=
  State.tx_modTx s n _

/-- R102: an LF start changes no state where MODE asks for the one that TXD is in. -/
theorem State.txdAtStart_stays (s : State) (n : Lane) (h : s.is (fTXD_CTRL_MODE n) = decide (s.txdState n = 2)) :
    s.txdAtStart n = s := by
  unfold State.txdAtStart
  by_cases sending : s.txdState n = 2 <;> simp [h, sending]

theorem State.lfsToApply_none (s : State) (n : Lane) (ps : Nat) (h : s.crs.armed = none) : s.lfsToApply n ps = none := by
  unfold State.lfsToApply
  rw [h]

/-- R506: an LF start with no Course to apply and no state to change: the grid goes on, and in `SENDING` an LF is assembled. -/
theorem txLfStart_onGrid (s : State) (n : Lane) (phase : Fin 1600) (hcold : s.cold = false) (hheld : s.held n = false)
    (hcrs : s.crs.armed = none) (hmode : s.is (fTXD_CTRL_MODE n) = decide (s.txdState n = 2)) : ∃ c k at_ ps,
    (s.txdState n ≠ 2 → exec (.txLfStart n phase) s = .next ((s.onGrid n c k at_).lfSignal n none)) ∧
    (s.txdState n = 2 → (s.txFmt n).family = 0 →
      exec (.txLfStart n phase) s = .next ((s.onGrid n c k at_).lfAssemble n ps)) := by
  show ∃ c k at_ ps, (_ → execTxLfStart n phase s = _) ∧ (_ → _ → execTxLfStart n phase s = _)
  unfold execTxLfStart
  rw [if_neg (by simp [hcold, hheld])]
  extract_lets t g at_ u ps applied started
  have noCourse : applied = u := by
    unfold applied
    rw [u.lfsToApply_none n ps ((congrArg CourseSeq.armed (waitClk_crs s _)).trans hcrs)]
  have regs := s.onGrid_regs n (at_ / 1600000) g.1 at_
  have state : (s.onGrid n (at_ / 1600000) g.1 at_).txdState n = s.txdState n := State.get_congr regs _
  have fmt : (s.onGrid n (at_ / 1600000) g.1 at_).txFmt n = s.txFmt n := by
    unfold State.txFmt
    rw [State.nat_congr regs, State.nat_congr regs]
  have stays : started = s.onGrid n (at_ / 1600000) g.1 at_ := by
    unfold started
    rw [noCourse]
    exact State.txdAtStart_stays _ n ((State.is_congr regs _).trans (hmode.trans (by rw [← state]; rfl)))
  refine ⟨at_ / 1600000, g.1, at_, ps, fun idle => ?_, fun sending native => ?_⟩
  · rw [if_pos (by rwa [stays, state]), stays]
  · rw [if_neg (by rwa [stays, state, not_not]), if_pos (by rwa [stays, fmt]), stays]

/-! ### The assembly of an LF (R142, R146) -/

/-- What the assembly ends with: the MFAS counts on, and the LF is counted and its symbols sent. -/
theorem State.lfAssemble_ends (s : State) (n : Lane) (ps : Nat) : ∃ (u : State) (sbip sbei : Nat) (outer : OuterEnc) (c : Nat)
    (symbols : List Symbol), s.lfAssemble n ps = (((u.modTx n fun t => { t with
      mfas := (((s.bridgeNow n).lane n).tx.mfas + 1) % 256
      sbip := sbip, sbeiAcc := t.sbeiAcc - sbei, outer := outer }).timedSent n c ps).addCnt (aTXD_LF_CNT n) 1).sendSymbols n
        symbols := by
  unfold State.lfAssemble
  exact ⟨_, _, _, _, _, _, rfl⟩

/-- R162: a bridge that takes effect leaves the MFAS. -/
theorem State.bridgeNow_mfas (s : State) (n : Lane) : ((s.bridgeNow n).lane n).tx.mfas = (s.lane n).tx.mfas := by
  have shown : ∀ u : State, Frame 1 u (u.showBridged n) := fun u => State.showBridged_fr u n (.refl u)
  unfold State.bridgeNow
  extract_lets due u
  split
  · rfl
  · rw [(shown _).tx (by decide), State.tx_modTx]
    exact foldl_same (fun v : State => (v.lane n).tx.mfas) _ (fun v r => by rw [State.tx_modTx]) due s

theorem State.sendSymbols_sent (s : State) (n : Lane) (symbols : List Symbol) :
    (s.sendSymbols n symbols).sent = .lf n symbols :: s.sent := rfl

theorem State.sendSymbols_mfas (s : State) (n : Lane) (symbols : List Symbol) :
    ((s.sendSymbols n symbols).lane n).tx.mfas = (s.lane n).tx.mfas :=
  (congrArg TxState.mfas (s.tx_lfSignal n _)).trans rfl

/-- R142, R146: an LF is sent and the MFAS advances. -/
theorem State.lfAssemble_sends (s : State) (n : Lane) (ps : Nat) :
    (∃ symbols older, (s.lfAssemble n ps).sent = .lf n symbols :: older) ∧
    ((s.lfAssemble n ps).lane n).tx.mfas = ((s.lane n).tx.mfas + 1) % 256 := by
  obtain ⟨u, sbip, sbei, outer, c, symbols, ends⟩ := s.lfAssemble_ends n ps
  rw [ends]
  refine ⟨⟨symbols, _, State.sendSymbols_sent ..⟩, ?_⟩
  have counted : ∀ v : State, Frame 33570817 v ((v.timedSent n c ps).addCnt (aTXD_LF_CNT n) 1) := fun v =>
    State.addCnt_fr _ _ _ (State.timedSent_fr _ _ _ _ (.refl v))
  rw [State.sendSymbols_mfas, (counted _).tx (by decide), State.tx_modTx, State.bridgeNow_mfas]

theorem txLfStart_grids (s : State) (n : Lane) (phase : Fin 1600) (hcold : s.cold = false) (hheld : s.held n = false)
    (hcrs : s.crs.armed = none) : Completes (exec (.txLfStart n phase) s) fun t =>
    (s.txdState n = 2 → s.is (fTXD_CTRL_EN n) = true → s.is (fTXD_CTRL_MODE n) = true → (s.txFmt n).family = 0 →
      (∃ symbols older, t.sent = .lf n symbols :: older) ∧ (t.lane n).tx.mfas = ((s.lane n).tx.mfas + 1) % 256) ∧
    (s.txdState n ≠ 2 → s.is (fTXD_CTRL_MODE n) = false → t.txdState n = s.txdState n ∧ (t.lane n).tx.started = true ∧
      s.clk ≤ t.clk ∧ t.sent = s.sent) := by
  obtain ⟨t, answers, -⟩ := everyCommandAnswersANextState (.txLfStart n phase) s
  refine ⟨t, answers, fun sending _ mode native => ?_, fun idle mode => ?_⟩
  · obtain ⟨c, k, at_, ps, -, sends⟩ := txLfStart_onGrid s n phase hcold hheld hcrs (by simp [mode, sending])
    obtain rfl : _ = t := Host.Outcome.next.inj ((sends sending native).symm.trans answers)
    rw [← (s.onGrid_tx n c k at_).2]
    exact State.lfAssemble_sends _ n ps
  · obtain ⟨c, k, at_, ps, goes, -⟩ := txLfStart_onGrid s n phase hcold hheld hcrs (by simp [mode, idle])
    obtain rfl : _ = t := Host.Outcome.next.inj ((goes idle).symm.trans answers)
    have started : (((s.onGrid n c k at_).lfSignal n none).lane n).tx.started = true :=
      (congrArg TxState.started (State.tx_lfSignal _ n none)).trans (s.onGrid_tx n c k at_).1
    exact ⟨State.get_congr (s.onGrid_regs n c k at_) _, started, s.onGrid_clk n c k at_, s.onGrid_sent n c k at_⟩

/-- Settles O20: TXD's controls, a missing Keystone group, and the LF starts at which no Course waits. -/
theorem transmitter : Obligations.Transmitter := fun s n =>
  ⟨txdEnWrite_enables s n, txdModeWrite_takes s n, ksGroupMissed_raises s n, txLfStart_grids s n⟩

end Sys2Proof.Machine
end

section
/-!
SUPPORT. The decoders of 05: the inner codewords with their iteration pool, and the outer window (O21).
-/

namespace Sys2Proof.Machine

/-! ### FEC's counters and alarms (R138, R140) -/

theorem State.fec_modFec (s : State) (n : Lane) (f : FecState → FecState) :
    ((s.modFec n f).lane n).fec = f (s.lane n).fec := by
  rw [State.modFec, State.lane_modLane_same]

theorem State.get_modFec (s : State) (n : Lane) (f : FecState → FecState) (g : Fld) : (s.modFec n f).get g = s.get g :=
  State.get_congr (State.modFec_regs s n f) g

/-- The wide counters of a lane's FEC lie above its other registers. -/
theorem State.get_fecCount (s : State) (n : Lane) (j k : Nat) (f : Fld) (h : f.addr < aFEC_CNT n 0) :
    (s.fecCount n j k).get f = s.get f := by
  have words : f.addr ∉ [aFEC_CNT n j, aFEC_CNT n j + 4] := by
    unfold aFEC_CNT at h ⊢
    simp only [List.mem_cons, List.not_mem_nil, or_false]
    omega
  have counted : s.RegsBut (s.fecCount n j k) [aFEC_CNT n j, aFEC_CNT n j + 4] :=
    .ite _ (.refl s _) ((State.RegsBut.refl s _).addCnt _ k (by simp) (by simp))
  exact counted.get f words

theorem fecReg_lt_cnt (n : Lane) {c : Nat} (h : c < 0xa0080) : c + laneBase n < aFEC_CNT n 0 :=
  Nat.add_lt_add_right h _

/-- An alarm raised with its counter leaves the alarms beside it and every other register before the counters. -/
theorem State.get_countRaise (s : State) (n : Lane) (j : Nat) (f g : Fld) (low : g.addr < aFEC_CNT n 0)
    (h : f.addr ≠ g.addr ∨ f.beside g = true) : ((s.fecCount n j 1).raise f).get g = s.get g := by
  rw [State.get_congr (State.regs_raise _ f)]
  have raised : ((s.fecCount n j 1).set f 1).get g = (s.fecCount n j 1).get g :=
    h.elim (State.get_set_elsewhere _ f g 1) (State.get_set_beside _ f g 1)
  rw [raised, s.get_fecCount n j 1 g low]

theorem State.fecState_countRaise (s : State) (n : Lane) (j : Nat) (f : Fld) (h : f.addr = aFEC_ALARM n) :
    ((s.fecCount n j 1).raise f).fecState n = s.fecState n :=
  s.get_countRaise n j f (fFEC_STATE_STATE n) (fecReg_lt_cnt n (by decide)) (.inl (h ▸ laneAddr_ne (by decide)))

/-- What FEC holds of a lane is none of its counters. -/
theorem State.fec_fecCount (s : State) (n : Lane) (j k : Nat) : ((s.fecCount n j k).lane n).fec = (s.lane n).fec :=
  (State.fecCount_fr s n j k (.refl s) : Frame 16385 s _).fec (by decide) n

theorem State.countRaise_fr {s t : State} (h : Frame 16401 s t) (n : Lane) (j : Nat) (f : Fld) :
    Frame 16401 s ((t.fecCount n j 1).raise f) := State.raise_fr _ f (State.fecCount_fr t n j 1 h)

/-! ### Inner codewords (R132, R133, R139) -/

/-- R139: a codeword of a ZR family counts as its own decoder found it. -/
theorem innerCodewordDone_zr (s : State) (n : Lane) (hup : s.laneUp n = true) (soft : List Int) (zr : Bool × Nat)
    (hstate : s.fecState n ≠ 0) (hzr : s.is (fFEC_STATE_ZR n) = true) :
    Completes (exec (.innerCodewordDone n soft zr) s) fun t =>
      (t.lane n).fec = (s.lane n).fec ∧ (zr.1 = false → t.get (fFEC_ALARM_UNCORR n) = 1) := by
  show Completes (execInnerCodewordDone n soft zr s) _
  unfold execInnerCodewordDone
  rw [if_neg (by simp [hup, hstate]), if_pos hzr]
  extract_lets u
  have counted : Frame 16401 s u := State.fecCount_fr _ n 1 _ (State.fecCount_fr s n 0 1 (.refl s))
  refine .of_next rfl ⟨(ite_fr _ _ _ counted (State.countRaise_fr counted n 7 _)).fec (by decide) n, fun bad => ?_⟩
  rw [if_neg (by simp [bad])]
  exact State.get_raise_fits _ _ rfl

/-- R132, R133: what the end of a codeword that used ITER_MAX `iterMax` counts: that it failed, and that it was cut short. -/
def State.codewordEnds (s : State) (n : Lane) (d : Decoded) (iterMax : Nat) : State :=
  let s := if d.ok then s else (s.fecCount n 3 1).raise (fFEC_ALARM_INNER_FAIL n)
  if !d.ok && d.used < iterMax then (s.fecCount n 4 1).raise (fFEC_ALARM_TRUNC n) else s

theorem State.fec_codewordEnds (s : State) (n : Lane) (d : Decoded) (iterMax : Nat) :
    ((s.codewordEnds n d iterMax).lane n).fec = (s.lane n).fec := by
  have failed : Frame 16401 s (if d.ok then s else (s.fecCount n 3 1).raise (fFEC_ALARM_INNER_FAIL n)) :=
    ite_fr _ _ _ (.refl s) (State.countRaise_fr (.refl s) n 3 _)
  exact (ite_fr _ _ _ (State.countRaise_fr failed n 4 _) failed).fec (by decide) n

theorem State.fecState_codewordEnds (s : State) (n : Lane) (d : Decoded) (iterMax : Nat) :
    (s.codewordEnds n d iterMax).fecState n = s.fecState n := by
  unfold State.codewordEnds
  extract_lets u
  have failed : u.fecState n = s.fecState n := by
    unfold u
    split
    · rfl
    · exact s.fecState_countRaise n 3 _ rfl
  split
  · exact (u.fecState_countRaise n 4 _ rfl).trans failed
  · exact failed

/-- R132, R133 (log entry 70): a failed codeword raises INNER_FAIL, and TRUNC as well where it had iterations left. -/
theorem State.alarms_codewordEnds (s : State) (n : Lane) (d : Decoded) (iterMax : Nat) (bad : d.ok = false) :
    (s.codewordEnds n d iterMax).get (fFEC_ALARM_INNER_FAIL n) = 1 ∧
      (d.used < iterMax → (s.codewordEnds n d iterMax).get (fFEC_ALARM_TRUNC n) = 1) := by
  unfold State.codewordEnds
  extract_lets u
  have failed : u.get (fFEC_ALARM_INNER_FAIL n) = 1 := by
    unfold u
    rw [if_neg (by simp [bad])]
    exact State.get_raise_fits _ _ rfl
  by_cases short : d.used < iterMax
  · rw [if_pos (by simp [bad, short])]
    exact ⟨(u.get_countRaise n 4 _ _ (fecReg_lt_cnt n (by decide)) (.inr rfl)).trans failed,
      fun _ => State.get_raise_fits _ _ rfl⟩
  · rw [if_neg (by simp [short])]
    exact ⟨failed, fun h => absurd h short⟩

/-- R132, R133: a decoded codeword pays for its iterations, and its word joins the LF, before its end is counted. -/
theorem State.innerDecode_ends (s : State) (n : Lane) (soft : List Int) (f : FecState) (d : Decoded)
    (hf : f = (s.lane n).fec)
    (hd : d = decodeInner (if f.cw = 0 then s.fecAt n else f.fec) (f.cw = 0) (s.is (fFEC_CTRL_EARLY_STOP n))
      (iterLimit f.iterMax (s.get (fFEC_STATE_ITER_AVAIL n)) f.pool) soft) :
    ∃ u : State, s.innerDecode n soft = u.codewordEnds n d f.iterMax ∧ u.fecState n = s.fecState n ∧
      (u.lane n).fec.pool = poolAfter f.iterMax (s.get (fFEC_STATE_ITER_AVAIL n)) f.pool d.used ∧
      (u.lane n).fec.fed = true ∧ (u.lane n).fec.iterMax = s.iterMax n := by
  unfold State.innerDecode
  rw [← hf]
  extract_lets _ fec avail dec u1 u2 u3
  obtain rfl : d = dec := hd
  have peak : aFEC_ITER_PEAK n ≠ (fFEC_STATE_STATE n).addr := laneAddr_ne (by decide)
  have low : (fFEC_STATE_STATE n).addr < aFEC_CNT n 0 := fecReg_lt_cnt n (by decide)
  have counted : Frame 16385 u1 u3 :=
    State.setNat_fr _ _ _ (State.fecCount_fr _ n 2 _ (State.fecCount_fr _ n 1 _ (State.fecCount_fr u1 n 0 1 (.refl u1))))
  refine ⟨u3, rfl, ?_, ?_⟩
  · unfold State.fecState u3 u2 u1
    rw [State.get_setNat_other _ _ _ _ peak, State.get_fecCount _ _ _ _ _ low, State.get_fecCount _ _ _ _ _ low,
      State.get_fecCount _ _ _ _ _ low, State.get_modFec]
  · rw [counted.fec (by decide) n]
    unfold u1
    rw [State.fec_modFec, ← hf]
    exact ⟨rfl, rfl, rfl⟩

/-- Of what RXD keeps, a codeword takes soft values alone. -/
theorem State.rxd_softNext (s : State) (n : Lane) (soft : List Int) :
    ∃ q, ((s.softNext n soft).1.lane n).rxd = { (s.lane n).rxd with soft := q } := by
  unfold State.softNext
  extract_lets q
  split
  · exact ⟨_, rfl⟩
  · exact ⟨_, State.rxd_modRxd ..⟩

/-- R38, R137: nor does it change the setting of the LF. -/
theorem State.fecAt_softNext (s : State) (n : Lane) (soft : List Int) : (s.softNext n soft).1.fecAt n = s.fecAt n := by
  obtain ⟨q, rxd⟩ := s.rxd_softNext n soft
  have kept : Frame 64 s (s.softNext n soft).1 := State.softNext_fr s n soft (.refl s)
  have nat := State.nat_congr kept.regs
  have fmt : (s.softNext n soft).1.rxFmt n = s.rxFmt n := rxFmt_eq n (nat _) (nat _) (nat _) (by rw [rxd]) (by rw [rxd])
  unfold State.fecAt
  rw [rxd, kept.crs, nat, fmt, kept.lfr (by decide) n, kept.fec (by decide) n]

/-- R132, R133: a codeword of a native format takes its iterations from the pool, and says whether it failed. -/
theorem innerCodewordDone_native (s : State) (n : Lane) (hup : s.laneUp n = true) (soft : List Int) (zr : Bool × Nat)
    (hstate : s.fecState n ≠ 0) (f : FecState) (d : Decoded) (hzr : s.is (fFEC_STATE_ZR n) = false)
    (hf : f = (s.lane n).fec)
    (hd : d = decodeInner (if f.cw = 0 then s.fecAt n else f.fec) (f.cw = 0) (s.is (fFEC_CTRL_EARLY_STOP n))
      (iterLimit f.iterMax (s.get (fFEC_STATE_ITER_AVAIL n)) f.pool) (s.softNext n soft).2) :
    Completes (exec (.innerCodewordDone n soft zr) s) fun t => t.fecState n = s.fecState n ∧
      (t.lane n).fec.pool = poolAfter f.iterMax (s.get (fFEC_STATE_ITER_AVAIL n)) f.pool d.used ∧
      (t.lane n).fec.fed = true ∧ (t.lane n).fec.iterMax = s.iterMax n ∧
      (d.ok = false → t.get (fFEC_ALARM_INNER_FAIL n) = 1 ∧
        (d.used < f.iterMax → t.get (fFEC_ALARM_TRUNC n) = 1)) := by
  have kept : Frame 64 s (s.softNext n soft).1 := State.softNext_fr s n soft (.refl s)
  have get := State.get_congr kept.regs
  obtain ⟨u, ends, state, pool, fed, iterMax⟩ := (s.softNext n soft).1.innerDecode_ends n (s.softNext n soft).2 f d
    (hf.trans (kept.fec (by decide) n).symm) (by rw [s.fecAt_softNext, State.is_congr kept.regs, get]; exact hd)
  rw [get] at pool
  show Completes (execInnerCodewordDone n soft zr s) _
  unfold execInnerCodewordDone
  rw [if_neg (by simp [hup, hstate]), if_neg (by simp [hzr])]
  refine .of_next (congrArg Host.Outcome.next ends) ?_
  rw [State.fec_codewordEnds, State.fecState_codewordEnds]
  exact ⟨state.trans (get _), pool, fed, iterMax.trans (congrArg (clampN 1 24) (get _)), u.alarms_codewordEnds n d f.iterMax⟩

/-! ### The outer window (R134) -/

theorem State.outerRuns_running (s : State) (n : Lane) (hup : s.laneUp n = true) (hrun : s.fecState n = 2)
    (hzr : s.is (fFEC_STATE_ZR n) = false) : s.outerRuns n = true := by
  simp [State.outerRuns, hup, hrun, hzr]

/-- R134: a block that leaves is counted, and marked where component codewords of its pair fail. -/
theorem State.fec_blockLeaves (s : State) (n : Lane) (bad : Nat) : ((s.blockLeaves n bad).lane n).fec =
    { (s.lane n).fec with
      left := (s.lane n).fec.left + 1
      bad := if bad = 0 then (s.lane n).fec.bad else (s.lane n).fec.bad ++ [(s.lane n).fec.left] } := by
  unfold State.blockLeaves
  extract_lets u1 u2
  have failed : Frame 16401 u1 u2 := State.fecCount_fr u1 n 6 bad (.refl u1)
  exact ((ite_fr _ _ _ failed (State.countRaise_fr failed n 7 _)).fec (by decide) n).trans (s.fec_modFec n _)

theorem State.uncorr_blockLeaves (s : State) (n : Lane) (bad : Nat) (h : bad ≠ 0) :
    (s.blockLeaves n bad).get (fFEC_ALARM_UNCORR n) = 1 := by
  unfold State.blockLeaves
  rw [if_neg h]
  exact State.get_raise_fits _ _ rfl

/-- R134: the oldest block of the window leaves it; what has come in behind it stays. -/
theorem State.fec_outerExit (s : State) (n : Lane) (b : List Nat) (rest : List (List Nat))
    (hwin : (s.lane n).fec.window = b :: rest) : ∃ bad, ((s.outerExit n).lane n).fec =
    { (s.lane n).fec with
      window := rest, before := some b, left := (s.lane n).fec.left + 1, bad := bad
      outer := { (s.lane n).fec.outer with done := (s.lane n).fec.outer.done ++ blockInfo b } } := by
  unfold State.outerExit
  dsimp only
  rw [hwin]
  exact ⟨_, by rw [State.fec_blockLeaves, State.fec_modFec]⟩

/-- R134: a block that leaves touches none of the bits that wait to enter. -/
theorem State.input_outerExit (s : State) (n : Lane) :
    ((s.outerExit n).lane n).fec.entered = (s.lane n).fec.entered ∧
    ((s.outerExit n).lane n).fec.outer.info = (s.lane n).fec.outer.info ∧
    ((s.outerExit n).lane n).fec.outer.par = (s.lane n).fec.outer.par := by
  cases hwin : (s.lane n).fec.window with
  | nil =>
    unfold State.outerExit
    dsimp only
    rw [hwin]
    exact ⟨rfl, rfl, rfl⟩
  | cons b rest =>
    obtain ⟨_, left⟩ := s.fec_outerExit n b rest hwin
    rw [left]
    exact ⟨rfl, rfl, rfl⟩

section Blocks

variable (s : State) (n : Lane) (hup : s.laneUp n = true) (hrun : s.fecState n = 2) (hzr : s.is (fFEC_STATE_ZR n) = false)
include hup hrun hzr

/-- Log entry 68: before a codeword has been decoded a block that enters is counted. -/
theorem outerBlockEnter_counts (changed : Nat) (hfed : (s.lane n).fec.fed = false) :
    Completes (exec (.outerBlockEnter n changed) s) fun t =>
      (t.lane n).fec = { (s.lane n).fec with entered := (s.lane n).fec.entered + 1 } ∧ t.fecState n = 2 := by
  show Completes (execOuterBlockEnter n changed s) _
  unfold execOuterBlockEnter
  extract_lets o u
  rw [if_neg (by simp [s.outerRuns_running n hup hrun hzr]), if_pos (by simp [hfed])]
  have entered : (u.lane n).fec = { (s.lane n).fec with entered := (s.lane n).fec.entered + 1 } := s.fec_modFec n _
  have state : u.fecState n = 2 := (s.get_modFec n _ _).trans hrun
  refine .of_next rfl ?_
  split
  · exact ⟨(u.fec_fecCount n 5 changed).trans entered,
      (u.get_fecCount n 5 changed (fFEC_STATE_STATE n) (fecReg_lt_cnt n (by decide))).trans state⟩
  · exact ⟨entered, state⟩

/-- R134: a whole block enters, and its bits leave the streams. -/
theorem outerBlockEnter_enters (changed : Nat) (hfed : (s.lane n).fec.fed = true)
    (hinfo : 216000 ≤ (s.lane n).fec.outer.info.length) (hpar : 14400 ≤ (s.lane n).fec.outer.par.length) :
    Completes (exec (.outerBlockEnter n changed) s) fun t => (t.lane n).fec.entered = (s.lane n).fec.entered + 1 ∧
      (t.lane n).fec.outer.info = (s.lane n).fec.outer.info.drop 216000 ∧
      (t.lane n).fec.outer.par = (s.lane n).fec.outer.par.drop 14400 := by
  show Completes (execOuterBlockEnter n changed s) _
  unfold execOuterBlockEnter
  extract_lets o _ u window r v
  rw [if_neg (by simp [s.outerRuns_running n hup hrun hzr]), if_neg (by simp [hfed]),
    if_neg (by simp [o, Nat.not_lt.mpr hinfo, Nat.not_lt.mpr hpar])]
  have waits : (u.lane n).fec.entered = (s.lane n).fec.entered ∧
      (u.lane n).fec.outer.info = (s.lane n).fec.outer.info ∧ (u.lane n).fec.outer.par = (s.lane n).fec.outer.par := by
    unfold u
    split
    · exact s.input_outerExit n
    · exact ⟨rfl, rfl, rfl⟩
  obtain ⟨entered, info, par⟩ := waits
  refine .of_next rfl ?_
  rw [State.fec_fecCount, State.fec_modFec, ← entered, ← info, ← par]
  exact ⟨rfl, rfl, rfl⟩

/-- Log entry 68: before a codeword has been decoded a block that leaves fails as the operand says. -/
theorem outerBlockExit_counts (bad : Nat) (hfed : (s.lane n).fec.fed = false)
    (hleft : (s.lane n).fec.left < (s.lane n).fec.entered) : Completes (exec (.outerBlockExit n bad) s) fun t =>
      (t.lane n).fec.left = (s.lane n).fec.left + 1 ∧ (bad = 0 → (t.lane n).fec.bad = (s.lane n).fec.bad) ∧
      (bad ≠ 0 → (t.lane n).fec.bad = (s.lane n).fec.bad ++ [(s.lane n).fec.left] ∧
        t.get (fFEC_ALARM_UNCORR n) = 1) := by
  show Completes (execOuterBlockExit n bad s) _
  unfold execOuterBlockExit
  rw [if_neg (by simp [s.outerRuns_running n hup hrun hzr]), if_pos (by simp [hfed]), if_pos hleft]
  refine .of_next rfl ?_
  rw [State.fec_blockLeaves]
  refine ⟨rfl, fun good => if_pos (by omega), fun failing => ?_⟩
  have failed : min 480 bad ≠ 0 := by omega
  exact ⟨if_neg failed, s.uncorr_blockLeaves n _ failed⟩

/-- R134: the oldest block of a full window leaves it. -/
theorem outerBlockExit_leaves (bad : Nat) (b : List Nat) (rest : List (List Nat)) (hfed : (s.lane n).fec.fed = true)
    (hwin : (s.lane n).fec.window = b :: rest) (hfull : s.outerWin n ≤ rest.length + 1) :
    Completes (exec (.outerBlockExit n bad) s) fun t =>
      (t.lane n).fec.left = (s.lane n).fec.left + 1 ∧ (t.lane n).fec.window = rest ∧
      (t.lane n).fec.before = some b := by
  obtain ⟨_, left⟩ := s.fec_outerExit n b rest hwin
  show Completes (execOuterBlockExit n bad s) _
  unfold execOuterBlockExit
  rw [if_neg (by simp [s.outerRuns_running n hup hrun hzr]), if_neg (by simp [hfed]), if_pos (by simpa [hwin] using hfull)]
  refine .of_next rfl ?_
  rw [left]
  exact ⟨rfl, rfl, rfl⟩

end Blocks

/-- Settles O21: an inner codeword by its family, and a block that enters or leaves the outer window. -/
theorem receiveFec : Obligations.ReceiveFec := fun s n hup =>
  ⟨fun soft zr hstate => ⟨innerCodewordDone_zr s n hup soft zr hstate, innerCodewordDone_native s n hup soft zr hstate⟩,
    fun changed hrun hzr =>
      ⟨outerBlockEnter_counts s n hup hrun hzr changed, outerBlockEnter_enters s n hup hrun hzr changed⟩,
    fun bad hrun hzr =>
      ⟨outerBlockExit_counts s n hup hrun hzr bad, outerBlockExit_leaves s n hup hrun hzr bad⟩⟩

end Sys2Proof.Machine
end

section
/-!
SUPPORT. Line framing of 06: signal degrade, the alignment, downstream AIS and what a delivered LF does to a verification (O22).
-/

namespace Sys2Proof.Machine

theorem State.lfr_modLfr (s : State) (n : Lane) (f : LfrState → LfrState) :
    ((s.modLfr n f).lane n).lfr = f (s.lane n).lfr := by
  rw [State.modLfr, State.lane_modLane_same]

theorem State.lfr_modPmon (s : State) (n : Lane) (f : PmonState → PmonState) :
    ((s.modPmon n f).lane n).lfr = (s.lane n).lfr := by
  rw [State.modPmon, State.lane_modLane_same]

theorem State.lfr_modTx (s : State) (n : Lane) (f : TxState → TxState) : ((s.modTx n f).lane n).lfr = (s.lane n).lfr := by
  rw [State.modTx, State.lane_modLane_same]

/-! ### Signal degrade (R159) -/

/-- R159: SD judged from the consecutive windows that were bad, and good. -/
def State.sdJudged (s : State) (n : Lane) (bad good : Nat) : State :=
  let sd := s.is (fLFR_STATE_SD n)
  if 3 ≤ bad && !sd then (s.setB (fLFR_STATE_SD n) true).raise (fLFR_ALARM_SD n)
  else if 3 ≤ good && sd then s.setB (fLFR_STATE_SD n) false
  else s

/-- A window in which more violations stand than the threshold allows is bad, another is good; the next begins. -/
def LfrState.sdEnd (l : LfrState) (thr : Nat) : LfrState :=
  { l with
    sdBase := 0, sdLfs := 0, sdBad := if thr < l.sdBase then l.sdBad + 1 else 0
    sdGood := if thr < l.sdBase then 0 else l.sdGood + 1 }

theorem State.sdWindow_full (s : State) (n : Lane) (l : LfrState) (hl : l = (s.lane n).lfr.sdEnd (s.get (fLFR_SD_CFG_THR n)))
    (hfull : 1024 * max 1 (s.get (fLFR_SD_CFG_WIN n)) ≤ (s.lane n).lfr.sdLfs) :
    s.sdWindow n = (s.modLfr n fun _ => l).sdJudged n l.sdBad l.sdGood := by
  subst hl
  exact if_neg (Nat.not_lt.mpr hfull)

theorem State.sdJudged_fr (s : State) (n : Lane) (bad good : Nat) : Frame 17 s (s.sdJudged n bad good) := by
  unfold State.sdJudged
  exact ite_fr _ _ _ (State.raise_fr _ _ (State.setB_fr _ _ _ (.refl s))) (ite_fr _ _ _ (State.setB_fr _ _ _ (.refl s)) (.refl s))

theorem State.sdJudged_regsBut (s : State) (n : Lane) (bad good : Nat) :
    s.RegsBut (s.sdJudged n bad good) [aLFR_STATE n, aLFR_ALARM n] := by
  have state : (fLFR_STATE_SD n).addr ∈ [aLFR_STATE n, aLFR_ALARM n] := by simp [fLFR_STATE_SD]
  have alarm : (fLFR_ALARM_SD n).addr ∈ [aLFR_STATE n, aLFR_ALARM n] := by simp [fLFR_ALARM_SD]
  have start := State.RegsBut.refl s [aLFR_STATE n, aLFR_ALARM n]
  unfold State.sdJudged
  exact .ite _ ((start.setB _ _ state).raise _ alarm) (.ite _ (start.setB _ _ state) start)

/-- Three bad windows in a row set SD, or leave it set. -/
theorem State.is_sdJudged_bad (s : State) (n : Lane) (bad : Nat) (h : 3 ≤ bad) :
    (s.sdJudged n bad 0).is (fLFR_STATE_SD n) = true := by
  unfold State.sdJudged
  cases sd : s.is (fLFR_STATE_SD n) with
  | false =>
    rw [if_pos (by simp [h]), State.is, State.get_raise_elsewhere _ _ _ (laneAddr_ne (by decide))]
    exact State.is_setB_fits s _ true rfl
  | true => simpa using sd

/-- Three good windows in a row clear SD, or leave it clear. -/
theorem State.is_sdJudged_good (s : State) (n : Lane) (good : Nat) (h : 3 ≤ good) :
    (s.sdJudged n 0 good).is (fLFR_STATE_SD n) = false := by
  unfold State.sdJudged
  cases sd : s.is (fLFR_STATE_SD n) with
  | false => simpa using sd
  | true =>
    rw [if_neg (by simp), if_pos (by simp [h])]
    exact State.is_setB_fits s _ false rfl

theorem State.lfr_sdWindow_full (s : State) (n : Lane)
    (hfull : 1024 * max 1 (s.get (fLFR_SD_CFG_WIN n)) ≤ (s.lane n).lfr.sdLfs) :
    ((s.sdWindow n).lane n).lfr = (s.lane n).lfr.sdEnd (s.get (fLFR_SD_CFG_THR n)) := by
  rw [s.sdWindow_full n _ rfl hfull, (State.sdJudged_fr _ n _ _).lfr (by decide) n, State.lfr_modLfr]

/-- R159: a window ends and is judged, or it is not full and goes on. -/
theorem State.sdWindow_cases (s : State) (n : Lane) : s.sdWindow n = s ∨
    ∃ thr bad good, s.sdWindow n = (s.modLfr n fun l => l.sdEnd thr).sdJudged n bad good := by
  by_cases hfull : 1024 * max 1 (s.get (fLFR_SD_CFG_WIN n)) ≤ (s.lane n).lfr.sdLfs
  · exact .inr ⟨_, _, _, s.sdWindow_full n _ rfl hfull⟩
  · exact .inl (if_pos (Nat.not_le.mp hfull))

theorem State.sdCount_regsBut (s : State) (n : Lane) : s.RegsBut (s.sdCount n) [aLFR_STATE n, aLFR_ALARM n] := by
  refine State.RegsBut.same ?_ (State.modLfr_regs ..)
  rcases s.sdWindow_cases n with stays | ⟨thr, bad, good, ends⟩
  · rw [stays]
    exact .refl s _
  · rw [ends]
    exact ((State.RegsBut.refl s _).same (State.modLfr_regs ..)).trans (State.sdJudged_regsBut _ n bad good)

theorem State.rxIn_sdCount (s : State) (n : Lane) : ((s.sdCount n).lane n).lfr.rxIn = (s.lane n).lfr.rxIn := by
  rw [State.sdCount, State.lfr_modLfr]
  rcases s.sdWindow_cases n with stays | ⟨thr, bad, good, ends⟩
  · rw [stays]
  · rw [ends, (State.sdJudged_fr _ n bad good).lfr (by decide) n, State.lfr_modLfr]
    rfl

theorem sdWindowEnd_judges (s : State) (n : Lane) (hup : s.laneUp n = true)
    (hfull : 1024 * max 1 (s.get (fLFR_SD_CFG_WIN n)) ≤ (s.lane n).lfr.sdLfs) :
    Completes (exec (.sdWindowEnd n) s) fun t =>
      (t.lane n).lfr.sdBase = 0 ∧ (t.lane n).lfr.sdLfs = 0 ∧
      (s.get (fLFR_SD_CFG_THR n) < (s.lane n).lfr.sdBase → (t.lane n).lfr.sdBad = (s.lane n).lfr.sdBad + 1 ∧
        (t.lane n).lfr.sdGood = 0 ∧ (3 ≤ (s.lane n).lfr.sdBad + 1 → t.is (fLFR_STATE_SD n) = true)) ∧
      ((s.lane n).lfr.sdBase ≤ s.get (fLFR_SD_CFG_THR n) → (t.lane n).lfr.sdBad = 0 ∧
        (t.lane n).lfr.sdGood = (s.lane n).lfr.sdGood + 1 ∧
        (3 ≤ (s.lane n).lfr.sdGood + 1 → t.is (fLFR_STATE_SD n) = false)) := by
  refine .of_next (if_pos hup) ?_
  rw [s.lfr_sdWindow_full n hfull, s.sdWindow_full n _ rfl hfull]
  refine ⟨rfl, rfl, fun beyond => ?_, fun within => ?_⟩
  · have bad : ((s.lane n).lfr.sdEnd (s.get (fLFR_SD_CFG_THR n))).sdBad = (s.lane n).lfr.sdBad + 1 := if_pos beyond
    have good : ((s.lane n).lfr.sdEnd (s.get (fLFR_SD_CFG_THR n))).sdGood = 0 := if_pos beyond
    rw [bad, good]
    exact ⟨rfl, rfl, State.is_sdJudged_bad _ n _⟩
  · have bad : ((s.lane n).lfr.sdEnd (s.get (fLFR_SD_CFG_THR n))).sdBad = 0 := if_neg (Nat.not_lt.mpr within)
    have good : ((s.lane n).lfr.sdEnd (s.get (fLFR_SD_CFG_THR n))).sdGood = (s.lane n).lfr.sdGood + 1 :=
      if_neg (Nat.not_lt.mpr within)
    rw [bad, good]
    exact ⟨rfl, rfl, State.is_sdJudged_good _ n _⟩

/-! ### Alignment (R152 to R154) -/

/-- R153: the first match in `HUNT` becomes a candidate. -/
theorem lfrMarkerMatch_hunting (s : State) (n : Lane) (hup : s.laneUp n = true) (pos hyp diff : Nat)
    (hlos : s.is (fLFR_STATE_LOS n) = false) (hfam : (s.rxFmt n).family = 0) (halign : s.alignState n = 0)
    (hdiff : diff ≤ s.get (fLFR_ALIGN_CFG_THR n)) (hexcl : (s.lane n).lfr.excluded = []) (hcands : (s.lane n).lfr.cands = [])
    (hsync : (s.lane n).lfr.sync = none) : Completes (exec (.lfrMarkerMatch n pos hyp diff) s) fun t =>
      t.alignState n = 1 ∧ (t.lane n).lfr.cands = [⟨pos, hyp, 1⟩] ∧ t.get (fLFR_STATE_CAND n) = 1 ∧
      s.RegsBut t [aLFR_STATE n] := by
  have joined (u : State) (lfr : (u.lane n).lfr.cands = [⟨pos, hyp, 1⟩]) : (u.showCands n).get (fLFR_STATE_CAND n) = 1 := by
    rw [State.showCands, lfr]
    exact State.get_set_fits u _ 1 rfl
  have cands : ((s.modLfr n fun l => { l with cands := l.cands ++ [⟨pos, hyp, 1⟩] }).lane n).lfr.cands = [⟨pos, hyp, 1⟩] := by
    rw [State.lfr_modLfr, hcands, List.nil_append]
  show Completes (execLfrMarkerMatch n pos hyp diff s) _
  unfold execLfrMarkerMatch
  extract_lets l al u v
  rw [if_neg (by simp [hup, hlos]), if_neg (by simp [hfam]), if_neg (by simp [al, halign, hdiff]),
    if_neg (by simp [l, hexcl, hcands, hsync]), if_neg (by simp [l, hcands])]
  have presync : v = u.set (fLFR_STATE_ALIGN n) 1 := if_pos halign
  rw [presync]
  refine .of_next rfl ⟨?_, cands, joined _ cands, ?_⟩
  · rw [State.alignState, State.showCands, State.get_set_beside _ _ _ _ rfl]
    exact State.get_set_fits u _ 1 rfl
  · have start : s.RegsBut u [aLFR_STATE n] := (State.RegsBut.refl s _).same (State.modLfr_regs ..)
    exact (start.set (fLFR_STATE_ALIGN n) 1 List.mem_cons_self).set (fLFR_STATE_CAND n) _ List.mem_cons_self

/-- R152: a missed frame short of five is counted. -/
theorem lfrExpectedPosition_misses (s : State) (n : Lane) (hup : s.laneUp n = true) (hyp diff : Nat) (phase : Fin 1600000)
    (hfam : (s.rxFmt n).family = 0) (hdiff : s.get (fLFR_ALIGN_CFG_THR n) < diff) (halign : s.alignState n = 2)
    (hmiss : (s.lane n).lfr.miss + 1 < 5) :
    Completes (exec (.lfrExpectedPosition n none hyp diff phase) s) fun t =>
      (t.lane n).lfr.miss = (s.lane n).lfr.miss + 1 ∧ t.regs = s.regs := by
  show Completes (execLfrExpectedPosition n none hyp diff phase s) _
  unfold execLfrExpectedPosition
  extract_lets hit stamp
  rw [if_neg (by simp [hup]), if_neg (by simp [halign]), if_pos hfam, State.syncTest,
    if_neg (by simp [hit, Nat.not_le.mpr hdiff])]
  extract_lets miss
  rw [if_neg (Nat.not_le.mpr hmiss)]
  exact .of_next rfl ⟨by rw [State.lfr_modLfr], rfl⟩

/-- R153: a confirmed candidate short of three matches gains one. -/
theorem lfrExpectedPosition_confirms (s : State) (n : Lane) (hup : s.laneUp n = true) (hyp diff : Nat) (phase : Fin 1600000)
    (hfam : (s.rxFmt n).family = 0) (k : Fin 4) (c : Cand) (hdiff : diff ≤ s.get (fLFR_ALIGN_CFG_THR n))
    (hc : (s.lane n).lfr.cands[k.val]? = some c) (hhits : c.hits + 1 < 3) :
    Completes (exec (.lfrExpectedPosition n (some k) hyp diff phase) s) fun t =>
      (t.lane n).lfr.cands = setAt (s.lane n).lfr.cands k { c with hyp := hyp, hits := c.hits + 1 } ∧ t.regs = s.regs := by
  have short : ¬ 3 ≤ c.hits + 1 := Nat.not_le.mpr hhits
  show Completes (execLfrExpectedPosition n (some k) hyp diff phase s) _
  unfold execLfrExpectedPosition
  extract_lets hit stamp
  rw [if_neg (by simp [hup])]
  dsimp only
  rw [if_pos hfam, State.candTest]
  dsimp only
  rw [hc]
  dsimp only
  rw [if_pos (decide_eq_true hdiff), if_neg (by simp [short])]
  exact .of_next rfl ⟨by rw [State.lfr_modLfr], rfl⟩

/-- R154: an exclusion ends. -/
theorem lfrExclusionExpiry_ends (s : State) (n : Lane) (pos : Nat) (e : Nat × Nat)
    (he : (s.lane n).lfr.excluded.find? (fun x => x.1 == pos) = some e) :
    Completes (exec (.lfrExclusionExpiry n pos) s) fun t => t.regs = s.regs ∧ e.2 + s.rxPeriods n 256 ≤ t.clk ∧
      (t.lane n).lfr.excluded = (s.lane n).lfr.excluded.filter fun x => x.1 != pos := by
  have waited : Frame 8388612 s (s.waitClk (e.2 + s.rxPeriods n 256)) := State.waitClk_fr s _ (.refl s)
  have answers : exec (.lfrExclusionExpiry n pos) s = .next ((s.waitClk (e.2 + s.rxPeriods n 256)).modLfr n fun l =>
      { l with excluded := l.excluded.filter fun e => e.1 != pos }) := by
    show execLfrExclusionExpiry n pos s = _
    unfold execLfrExclusionExpiry
    rw [he]
  refine .of_next answers ⟨State.regs_waitClk s _, ?_, ?_⟩
  · exact le_of_le_of_eq (Nat.le_max_right _ _) (waitClk_clk s _).symm
  · rw [State.lfr_modLfr, waited.lfr (by decide) n]

/-! ### Downstream AIS (R160) -/

/-- R160: AIS starts or ends on slot `j`, which is among the slots `on` or is not. -/
def State.aisSlot (s : State) (n : Lane) (on : List Nat) (j : Nat) : State :=
  if s.is (fLFR_SLOT_AIS_OUT n j) == on.contains j then s else s.setB (fLFR_SLOT_AIS_OUT n j) (on.contains j)

theorem State.aisApply_slots (s : State) (n : Lane) :
    s.aisApply n = (List.range 128).foldl (fun u j => u.aisSlot n (((s.rxGroups n).filter (s.aisDue n)).flatMap Mapped.list) j) s :=
  rfl

theorem State.is_aisSlot_same (s : State) (n : Lane) (on : List Nat) (j : Nat) :
    (s.aisSlot n on j).is (fLFR_SLOT_AIS_OUT n j) = on.contains j := by
  unfold State.aisSlot
  split
  next h => exact eq_of_beq h
  next => exact State.is_setB_fits s _ _ rfl

theorem State.is_aisSlot_other (s : State) (n : Lane) (on : List Nat) {i j : Nat} (h : i ≠ j) :
    (s.aisSlot n on i).is (fLFR_SLOT_AIS_OUT n j) = s.is (fLFR_SLOT_AIS_OUT n j) := by
  have slots : (fLFR_SLOT_AIS_OUT n i).addr ≠ (fLFR_SLOT_AIS_OUT n j).addr := laneAddr_ne (by omega)
  unfold State.aisSlot
  split
  · rfl
  · exact State.is_setB_elsewhere s _ _ _ slots

/-- Each slot is judged once, and keeps what was judged. -/
theorem State.is_aisSlots (n : Lane) (on : List Nat) (j : Nat) (l : List Nat) (s : State)
    (h : j ∈ l ∨ s.is (fLFR_SLOT_AIS_OUT n j) = on.contains j) :
    (l.foldl (fun u j => u.aisSlot n on j) s).is (fLFR_SLOT_AIS_OUT n j) = on.contains j := by
  induction l generalizing s with
  | nil => exact h.resolve_left List.not_mem_nil
  | cons i l ih =>
    refine ih _ ?_
    by_cases e : i = j
    · exact .inr (e ▸ s.is_aisSlot_same n on i)
    · rw [s.is_aisSlot_other n on e]
      exact h.imp_left fun m => (List.mem_cons.mp m).resolve_left (Ne.symm e)

theorem downstreamAisChange_applies (s : State) (n : Lane) (hup : s.laneUp n = true) :
    Completes (exec (.downstreamAisChange n) s) fun t => ∀ j, j < 128 →
      t.is (fLFR_SLOT_AIS_OUT n j) = ((s.rxGroups n).filter (s.aisDue n)).any fun g => g.list.contains j := by
  refine .of_next (if_pos hup) fun j hj => ?_
  rw [s.aisApply_slots n, State.is_aisSlots n _ j _ s (.inl (List.mem_range.mpr hj))]
  simp only [List.contains_eq_any_beq, List.any_flatMap]

/-! ### What a verification rests on (R154) -/

/-- A field of LFR_STATE beside ALIGN, VERIFY and MF_LOCK. -/
def offAlign (n : Lane) (f : Fld) : Bool :=
  f.beside (fLFR_STATE_ALIGN n) && f.beside (fLFR_STATE_VERIFY n) && f.beside (fLFR_STATE_MF_LOCK n)

/-- What a verification rests on stands as it stood: ALIGN, VERIFY and MF_LOCK, the LFs counted so far and the marks of the LFs
to come. -/
structure VerifySame (n : Lane) (s t : State) : Prop where
  get : ∀ f, f = fLFR_STATE_ALIGN n ∨ f = fLFR_STATE_VERIFY n ∨ f = fLFR_STATE_MF_LOCK n → t.get f = s.get f
  count : (t.lane n).lfr.verifyCount = (s.lane n).lfr.verifyCount
  marks : (t.lane n).lfr.marks = (s.lane n).lfr.marks

section Rules

variable {n : Lane} {s t u : State}

theorem VerifySame.refl (n : Lane) (s : State) : VerifySame n s s := ⟨fun _ _ => rfl, rfl, rfl⟩

theorem VerifySame.trans (h : VerifySame n s t) (k : VerifySame n t u) : VerifySame n s u :=
  ⟨fun f m => (k.get f m).trans (h.get f m), k.count.trans h.count, k.marks.trans h.marks⟩

theorem VerifySame.align (h : VerifySame n s t) : t.alignState n = s.alignState n := h.get _ (.inl rfl)

theorem VerifySame.verify (h : VerifySame n s t) : t.is (fLFR_STATE_VERIFY n) = s.is (fLFR_STATE_VERIFY n) :=
  congrArg (· != 0) (h.get _ (.inr (.inl rfl)))

theorem VerifySame.mfLock (h : VerifySame n s t) : t.is (fLFR_STATE_MF_LOCK n) = s.is (fLFR_STATE_MF_LOCK n) :=
  congrArg (· != 0) (h.get _ (.inr (.inr rfl)))

/-- A register elsewhere and a part beside LFR's are changed. -/
theorem VerifySame.regsBut {as : List Nat} (h : VerifySame n s t) (k : t.RegsBut u as) (m : aLFR_STATE n ∉ as)
    (lfr : (u.lane n).lfr = (t.lane n).lfr) : VerifySame n s u :=
  h.trans ⟨fun f e => k.get f (by rcases e with rfl | rfl | rfl <;> exact m), congrArg _ lfr, congrArg _ lfr⟩

theorem VerifySame.same (h : VerifySame n s t) (regs : u.regs = t.regs) (lfr : (u.lane n).lfr = (t.lane n).lfr) :
    VerifySame n s u :=
  h.regsBut ((State.RegsBut.refl t []).same regs) List.not_mem_nil lfr

theorem VerifySame.setNat (h : VerifySame n s t) (a v : Nat) (off : aLFR_STATE n ∉ [a]) : VerifySame n s (t.setNat a v) :=
  h.regsBut ((State.RegsBut.refl t [a]).setNat a v List.mem_cons_self) off rfl

theorem VerifySame.set (h : VerifySame n s t) (f : Fld) (v : Nat) (off : offAlign n f = true) : VerifySame n s (t.set f v) := by
  simp only [offAlign, Bool.and_eq_true, and_assoc] at off
  obtain ⟨align, verify, lock⟩ := off
  exact h.trans ⟨by rintro _ (rfl | rfl | rfl) <;> exact State.get_set_beside t f _ v (by assumption), rfl, rfl⟩

theorem VerifySame.setB (h : VerifySame n s t) (f : Fld) (b : Bool) (off : offAlign n f = true) : VerifySame n s (t.setB f b) :=
  h.set f _ off

theorem VerifySame.raise (h : VerifySame n s t) (f : Fld) (off : f.addr = aLFR_ALARM n) : VerifySame n s (t.raise f) := by
  have raised : Frame 17 t (t.raise f) := State.raise_fr t f (.refl t)
  exact h.regsBut ((State.RegsBut.refl t [aLFR_ALARM n]).raise f (by simp [off]))
    (by simp [aLFR_STATE, aLFR_ALARM]) (raised.lfr (by decide) n)

theorem VerifySame.raiseIf (h : VerifySame n s t) (c : Bool) (f : Fld) (off : f.addr = aLFR_ALARM n) :
    VerifySame n s (t.raiseIf c f) := by
  unfold State.raiseIf
  split
  · exact h.raise f off
  · exact h

theorem VerifySame.ite (c : Prop) [Decidable c] (h : VerifySame n s t) (k : VerifySame n s u) :
    VerifySame n s (if c then t else u) := by split <;> assumption

theorem VerifySame.modLfr (h : VerifySame n s t) (f : LfrState → LfrState)
    (count : (f (t.lane n).lfr).verifyCount = (t.lane n).lfr.verifyCount := by rfl)
    (marks : (f (t.lane n).lfr).marks = (t.lane n).lfr.marks := by rfl) : VerifySame n s (t.modLfr n f) :=
  h.trans ⟨fun g _ => State.get_congr (State.modLfr_regs ..) g, by rw [State.lfr_modLfr, count], by rw [State.lfr_modLfr, marks]⟩

/-! ### The operations before and in the section of an LF that leave it -/

theorem VerifySame.touch (h : VerifySame n s t) : VerifySame n s (t.touch n) := by
  have touched : Frame 1025 t (t.touch n) := State.touch_fr t n (.refl t)
  have regs : t.RegsBut (t.touch n) [aPMON_STATUS n] := by
    unfold State.touch
    dsimp only
    refine State.RegsBut.setB ((State.RegsBut.refl t _).same ?_) _ _ List.mem_cons_self
    rw [State.modPmon_regs]
    split <;> rfl
  exact h.regsBut regs (by simp [aLFR_STATE, aPMON_STATUS]) (touched.lfr (by decide) n)

theorem State.lfrCount_regsBut (s : State) (n : Lane) (j k : Nat) :
    s.RegsBut (s.lfrCount n j k) [aLFR_CNT n j, aLFR_CNT n j + 4] :=
  .ite _ (.refl s _) ((State.RegsBut.refl s _).addCnt _ k (by simp) (by simp))

theorem VerifySame.lfrCount (h : VerifySame n s t) (j k : Nat) : VerifySame n s (t.lfrCount n j k) := by
  have counted : Frame 16385 t (t.lfrCount n j k) := State.lfrCount_fr t n j k (.refl t)
  refine h.regsBut (t.lfrCount_regsBut n j k) ?_ (counted.lfr (by decide) n)
  simp only [aLFR_STATE, aLFR_CNT, List.mem_cons, List.not_mem_nil, or_false]
  omega

theorem VerifySame.sdJudged (h : VerifySame n s t) (bad good : Nat) : VerifySame n s (t.sdJudged n bad good) :=
  .ite _ ((h.setB (fLFR_STATE_SD n) true rfl).raise (fLFR_ALARM_SD n) rfl) (.ite _ (h.setB (fLFR_STATE_SD n) false rfl) h)

theorem VerifySame.sdCount (h : VerifySame n s t) : VerifySame n s (t.sdCount n) := by
  refine VerifySame.modLfr ?_ _
  rcases t.sdWindow_cases n with stays | ⟨thr, bad, good, ends⟩
  · rwa [stays]
  · rw [ends]
    exact (h.modLfr _).sdJudged bad good

theorem State.nlcBoundary_regsBut (s : State) (n : Lane) : s.RegsBut (s.nlcBoundary n) [aRXD_STATE n] := by
  have shown (b : Bool) (f : RxdState → RxdState) :
      s.RegsBut ((s.setB (fRXD_STATE_NLC_ACTIVE n) b).modRxd n f) [aRXD_STATE n] :=
    ((State.RegsBut.refl s _).setB _ b List.mem_cons_self).same (State.modRxd_regs ..)
  unfold State.nlcBoundary
  split
  · exact .refl s _
  · split
    · exact shown _ _
    · exact shown _ _
    · exact .refl s _

theorem VerifySame.nlcBoundary (h : VerifySame n s t) : VerifySame n s (t.nlcBoundary n) := by
  have moved : Frame 65 t (t.nlcBoundary n) := State.nlcBoundary_fr t n (.refl t)
  exact h.regsBut (t.nlcBoundary_regsBut n) (by simp [aLFR_STATE, aRXD_STATE]) (moved.lfr (by decide) n)

/-- The registers that the FEC changes with an LF that reaches delivery. -/
def fecLfRegs (n : Nat) : List Nat :=
  [aFEC_STATE n, aFEC_ALARM n, aFEC_OBP n, aFEC_CNT n 8, aFEC_CNT n 8 + 4, aFEC_CNT n 9, aFEC_CNT n 9 + 4]

theorem State.fecLf_regsBut (s : State) (n : Lane) (i obp : Nat) : s.RegsBut (s.fecLf n i obp).1 (fecLfRegs n) := by
  have start := State.RegsBut.refl s (fecLfRegs n)
  have state : aFEC_STATE n ∈ fecLfRegs n := by simp [fecLfRegs]
  have count {u : State} (h : s.RegsBut u (fecLfRegs n)) (j : Nat) (hj : j = 8 ∨ j = 9) :
      s.RegsBut (u.fecCount n j 1) (fecLfRegs n) := by
    refine .ite _ h (h.addCnt _ 1 ?_ ?_) <;> rcases hj with rfl | rfl <;> simp [fecLfRegs]
  have obpShown {u : State} (h : s.RegsBut u (fecLfRegs n)) (p : Nat) : s.RegsBut (u.showObp n obp p) (fecLfRegs n) :=
    h.setNat _ _ (by simp [fecLfRegs])
  have alarm {u : State} (h : s.RegsBut u (fecLfRegs n)) (f : Fld) (hf : f.addr = aFEC_ALARM n) :
      s.RegsBut (u.raise f) (fecLfRegs n) := h.raise f (by simp [fecLfRegs, hf])
  unfold State.fecLf
  extract_lets f next u1 u2 phase v1 first last flagged v2 miss
  split
  · have k2 : s.RegsBut u2 (fecLfRegs n) := obpShown (alarm (count (count start 9 (.inr rfl)) 8 (.inl rfl)) _ rfl) _
    split
    · exact (k2.set _ _ state).same (State.modFec_regs ..)
    · exact k2.same (State.modFec_regs ..)
  · split
    · have k2 : s.RegsBut v2 (fecLfRegs n) := .ite _ (count (obpShown start _) 8 (.inl rfl)) (obpShown start _)
      split
      · exact alarm ((k2.set (fFEC_STATE_STATE n) 1 state).same (State.modFec_regs ..)) _ rfl
      · exact k2.same (State.modFec_regs ..)
    · exact start

theorem VerifySame.fecLf (h : VerifySame n s t) (i obp : Nat) : VerifySame n s (t.fecLf n i obp).1 := by
  have advanced : Frame 16657 t (t.fecLf n i obp).1 := State.fecLf_fr t n i obp (.refl t)
  have elsewhere : aLFR_STATE n ∉ fecLfRegs n := by
    simp only [fecLfRegs, aLFR_STATE, aFEC_STATE, aFEC_ALARM, aFEC_OBP, aFEC_CNT, List.mem_cons, List.not_mem_nil, or_false]
    omega
  exact h.regsBut (t.fecLf_regsBut n i obp) elsewhere (advanced.lfr (by decide) n)

theorem VerifySame.sectionBlock (h : VerifySame n s t) (err : Bool) : VerifySame n s (t.sectionBlock n err) :=
  h.touch.same (State.modPmon_regs ..) (State.lfr_modPmon ..)

theorem VerifySame.sectionFar (h : VerifySame n s t) : VerifySame n s (t.sectionFar n) :=
  h.touch.same (State.modPmon_regs ..) (State.lfr_modPmon ..)

theorem VerifySame.sectionParity (h : VerifySame n s t) (accepted : Bool) (oh : List Byte) (payload : List Nat) :
    VerifySame n s (t.sectionParity n accepted oh payload).1 := by
  unfold State.sectionParity
  extract_lets viol u1 u2
  have k2 : VerifySame n s u2 := (h.lfrCount 0 viol).same (State.modTx_regs ..) (State.lfr_modTx ..)
  dsimp only
  exact k2.modLfr _

theorem VerifySame.sectionBack (h : VerifySame n s t) (oh : List Byte) : VerifySame n s (t.sectionBack n oh) := by
  unfold State.sectionBack
  extract_lets l k u1 u2 bdi on off u3 was now
  have k1 : VerifySame n s u1 := h.lfrCount 1 _
  have k2 : VerifySame n s u2 := .ite _ k1.sectionFar k1
  have k3 : VerifySame n s u3 := k2.modLfr _
  exact .ite _ k3 (((k3.touch.setB (fLFR_STATE_RBDI n) now rfl).raiseIf _ (fLFR_ALARM_RBDI n) rfl).touch)

theorem VerifySame.courseFields (h : VerifySame n s t) (oh : List Byte) : VerifySame n s (t.courseFields n oh) := by
  unfold State.courseFields
  extract_lets cif cdn can u1 u2 mine r follow u3
  have k1 : VerifySame n s u1 :=
    (h.setNat (aLFR_COURSE_FAR n) cif (by simp [aLFR_STATE, aLFR_COURSE_FAR])).set (fLFR_STATE_CDN_RX n) cdn rfl
  have k2 : VerifySame n s u2 := by
    refine .ite _ ?_ (k1.modLfr _)
    exact (k1.modLfr _).setB (fLFR_STATE_COURSE_MISMATCH n) false rfl
  have k3 : VerifySame n s u3 := k2.modLfr _
  exact .ite _ (.ite _ (k3.same rfl rfl) k3) k2

end Rules

/-! ### The section of an LF while verification runs (R154, R156) -/

/-- With VERIFY = 1 no LF brings the multiframe in. -/
theorem State.multiframe_verifying (s : State) (n : Lane) (accepted : Bool) (mfas : Nat)
    (hver : s.is (fLFR_STATE_VERIFY n) = true) (hlock : s.is (fLFR_STATE_MF_LOCK n) = false) :
    s.multiframe n accepted mfas = (s, none) := by
  unfold State.multiframe
  extract_lets l want miss
  rw [if_neg (by simp [hlock]), if_neg (by simp [hver])]

/-- While verification runs the section of an LF takes that LF's mark, leaves the count, and yields no MFAS to demap under. -/
theorem State.lfSection_verifying (s : State) (n : Lane) (lf : LfIn) (flagged : Bool)
    (hver : s.is (fLFR_STATE_VERIFY n) = true) (hlock : s.is (fLFR_STATE_MF_LOCK n) = false) :
    (s.lfSection n lf flagged).2 = none ∧
    (((s.lfSection n lf flagged).1.lane n).lfr.verifyCount = (s.lane n).lfr.verifyCount) ∧
    (((s.lfSection n lf flagged).1.lane n).lfr.marks = (s.lane n).lfr.marks.drop 1) := by
  unfold State.lfSection
  extract_lets oh accepted ver mark u0 r u1 u2 q u3
  have cut : VerifySame n u0 u2 := by
    have parity : VerifySame n u0 r.1 := (VerifySame.refl n u0).sectionParity _ _ _
    have counted : VerifySame n u0 u1 := .ite _ parity (parity.sectionBlock _)
    exact .ite _ ((counted.sectionBack oh).courseFields oh) counted
  have ver2 : u2.is (fLFR_STATE_VERIFY n) = true := cut.verify.trans hver
  have lock2 : u2.is (fLFR_STATE_MF_LOCK n) = false := cut.mfLock.trans hlock
  have q_eq : q = (u2, none) := u2.multiframe_verifying n _ _ ver2 lock2
  have tail : Frame 33570837 u2 u3 := by
    unfold u3
    rw [q_eq]
    exact State.ttfRow_fr _ _ _ _ (State.mccRx_fr _ _ _ _ _ (.refl u2))
  have ends : Frame 33570837 u2 (if accepted then u3.ttfRx n (sliceBytes oh 17 16) else u3) :=
    ite_fr _ _ _ (State.ttfRx_fr _ _ _ tail) tail
  have u0lfr : (u0.lane n).lfr = { (s.lane n).lfr with marks := (s.lane n).lfr.marks.drop 1 } := s.lfr_modLfr n _
  refine ⟨by rw [q_eq], ?_, ?_⟩
  · rw [ends.lfr (by decide) n, cut.count, u0lfr]
  · rw [ends.lfr (by decide) n, cut.marks, u0lfr]

/-- R156: without a multiframe an LF is not demapped: its section is all that it changes of LFR. -/
theorem State.lfNative_verifying (s : State) (n : Lane) (lf : LfIn) (flagged : Bool)
    (hver : s.is (fLFR_STATE_VERIFY n) = true) (hlock : s.is (fLFR_STATE_MF_LOCK n) = false) :
    ((s.lfNative n lf flagged).lane n).lfr.verifyCount = (s.lane n).lfr.verifyCount ∧
    ((s.lfNative n lf flagged).lane n).lfr.marks = (s.lane n).lfr.marks.drop 1 := by
  obtain ⟨noMfas, count, marks⟩ := s.lfSection_verifying n lf flagged hver hlock
  unfold State.lfNative
  extract_lets oh accepted payload fwd q u
  have cut (tap : TapLf) : Frame 12583937 u ((u.periodCut n).tapLf tap) := State.tapLf_fr _ _ (State.periodCut_fr u n (.refl u))
  simp only [q, noMfas]
  rw [(cut _).lfr (by decide) n]
  exact ⟨count, marks⟩

/-! ### A verification that fails (R152, R154) -/

/-- R152: what LFR holds of a frame is gone when it leaves `SYNC`. -/
theorem State.lfr_lossOfSync (s : State) (n : Lane) (cands : List Cand) :
    ((s.lossOfSync n cands).lane n).lfr.verifyCount = 0 ∧ ((s.lossOfSync n cands).lane n).lfr.sync = none ∧
    ((s.lossOfSync n cands).lane n).lfr.marks = [] := by
  have warm (u : State) : Frame 65 u (u.rxdWarm n) := State.rxdWarm_fr u n (.refl u)
  rw [State.lossOfSync, (warm _).lfr (by decide) n]
  unfold State.lfrAlignAway
  extract_lets u1 u2 u3 u4 u5
  have rest : Frame 46138769 u4 (((u5.fecInFrame n false).ttfRow n false none).lfrDefects n) :=
    State.lfrDefects_fr _ _ (State.ttfRow_fr _ _ _ _ (State.fecInFrame_fr _ _ _ (State.modTx_fr _ _ _ (.refl u4))))
  rw [rest.lfr (by decide) n, State.lfr_modLfr]
  exact ⟨rfl, rfl, rfl⟩

theorem State.lfr_verifyFail (s : State) (n : Lane) :
    ((s.verifyFail n).lane n).lfr.verifyCount = 0 ∧ ((s.verifyFail n).lane n).lfr.sync = none ∧
    ((s.verifyFail n).lane n).lfr.marks = [] := by
  unfold State.verifyFail
  extract_lets l u ex
  rw [State.lfr_modLfr]
  exact u.lfr_lossOfSync n l.cands

/-! ### A delivered LF (R154, R155) -/

/-- R123: the LF that the FEC hands over next rests on what the FEC holds and on its state alone. -/
theorem State.lfNext_same (s t : State) (n : Lane) (lf : LfIn) {u : State} {m : LfIn} {i : Nat}
    (fec : (t.lane n).fec = (s.lane n).fec) (state : t.fecState n = s.fecState n) (h : s.lfNext n lf = some (u, m, i)) :
    ∃ v j, t.lfNext n lf = some (v, m, j) := by
  unfold State.lfNext at h ⊢
  rw [fec, state]
  dsimp only at h ⊢
  split at h
  next given =>
    rw [if_pos given]
    cases h
    exact ⟨_, _, rfl⟩
  next decoded =>
    rw [if_neg decoded]
    cases lfs : (s.lane n).fec.lfs with
    | nil => simp [lfs] at h
    | cons x rest =>
      simp only [lfs, Option.map_eq_some_iff] at h
      obtain ⟨r, delivered, made⟩ := h
      cases made
      simp only [delivered, Option.map_some]
      exact ⟨_, _, rfl⟩

/-- R155: what passes before an LF in `SYNC` is taken: it is counted, and the boundary of compensation passes. -/
def State.lfCounted (s : State) (n : Lane) : State := ((s.sdCount n).lfrCount n 2 1).nlcBoundary n

theorem State.lfCounted_same (s : State) (n : Lane) : VerifySame n s (s.lfCounted n) :=
  ((VerifySame.refl n s).sdCount.lfrCount 2 1).nlcBoundary

theorem State.lfCounted_fec (s : State) (n : Lane) :
    ((s.lfCounted n).lane n).fec = (s.lane n).fec ∧ (s.lfCounted n).fecState n = s.fecState n := by
  have counted : Frame 16977 s (s.lfCounted n) :=
    State.nlcBoundary_fr _ n (State.lfrCount_fr _ n 2 1 (State.sdCount_fr s n (.refl s)))
  refine ⟨counted.fec (by decide) n, ?_⟩
  have sd : aFEC_STATE n ∉ [aLFR_STATE n, aLFR_ALARM n] := by simp [aFEC_STATE, aLFR_STATE, aLFR_ALARM]
  have cnt : aFEC_STATE n ∉ [aLFR_CNT n 2, aLFR_CNT n 2 + 4] := by
    simp only [aFEC_STATE, aLFR_CNT, List.mem_cons, List.not_mem_nil, or_false]
    omega
  have nlc : aFEC_STATE n ∉ [aRXD_STATE n] := by simp [aFEC_STATE, aRXD_STATE]
  calc (s.lfCounted n).fecState n
      = ((s.sdCount n).lfrCount n 2 1).fecState n := (State.nlcBoundary_regsBut _ n).get (fFEC_STATE_STATE n) nlc
    _ = (s.sdCount n).fecState n := (State.lfrCount_regsBut _ n 2 1).get (fFEC_STATE_STATE n) cnt
    _ = s.fecState n := (s.sdCount_regsBut n).get (fFEC_STATE_STATE n) sd

/-- R166: with no announcement seen no receive item applies. -/
theorem State.rxCourseTurn_none (s : State) (n : Lane) (h : (s.lane n).lfr.rxIn = none) : s.rxCourseTurn n = s := by
  unfold State.rxCourseTurn
  rw [h]

/-- R154, R155: a native LF is delivered in `SYNC`: its verification, its section and payload, and what a failure ends. -/
theorem lfDelivered_taken (s : State) (n : Lane) (hup : s.laneUp n = true) (lf m : LfIn) (u : State) (i : Nat)
    (halign : s.alignState n = 2) (hfam : (s.rxFmt n).family = 0) (hin : (s.lane n).lfr.rxIn = none)
    (hnext : s.lfNext n lf = some (u, m, i)) : ∃ t flagged, VerifySame n s t ∧ exec (.lfDelivered n lf) s = .next
      (if (t.verify n m.cw0).2 then (t.verify n m.cw0).1.lfNative n m flagged
        else ((t.verify n m.cw0).1.lfNative n m flagged).verifyFail n) := by
  obtain ⟨fec, state⟩ := s.lfCounted_fec n
  obtain ⟨v, j, next⟩ := s.lfNext_same (s.lfCounted n) n lf fec state hnext
  have same := s.lfCounted_same n
  have handed : VerifySame n s v := by
    have kept : Frame 256 (s.lfCounted n) v := State.lfNext_fr _ n lf next (.refl _)
    exact same.same kept.regs (kept.lfr (by decide) n)
  have noCourse : ((s.sdCount n).lfrCount n 2 1).rxCourseTurn n = (s.sdCount n).lfrCount n 2 1 := by
    have counted : Frame 16385 (s.sdCount n) ((s.sdCount n).lfrCount n 2 1) := State.lfrCount_fr _ n 2 1 (.refl _)
    exact State.rxCourseTurn_none _ n (by rw [counted.lfr (by decide) n, s.rxIn_sdCount n, hin])
  refine ⟨_, (v.fecLf n j (fieldBytes m.overhead 1 1)).2, handed.fecLf j (fieldBytes m.overhead 1 1), ?_⟩
  show execLfDelivered n lf s = _
  unfold execLfDelivered
  rw [if_neg (by simp [hup, halign]), if_neg (by simp [hfam]), hnext]
  dsimp only
  rw [noCourse, ← State.lfCounted, next]
  dsimp only
  rw [if_neg (by simp [handed.align, halign])]

section Verification

variable (s : State) (n : Lane) (hup : s.laneUp n = true) (lf m : LfIn) (u : State) (i : Nat) (halign : s.alignState n = 2)
  (hfam : (s.rxFmt n).family = 0) (hver : s.is (fLFR_STATE_VERIFY n) = true) (hin : (s.lane n).lfr.rxIn = none)
  (hnext : s.lfNext n lf = some (u, m, i)) (hcw0 : m.cw0 = false)
include hup halign hfam hver hin hnext hcw0

/-- R154: an LF without its codeword 0, short of the fourth, is counted. -/
theorem lfDelivered_counts (hfew : (s.lane n).lfr.verifyCount + 1 < 4) (hlock : s.is (fLFR_STATE_MF_LOCK n) = false) :
    Completes (exec (.lfDelivered n lf) s) fun t =>
      (t.lane n).lfr.verifyCount = (s.lane n).lfr.verifyCount + 1 ∧ (t.lane n).lfr.marks = (s.lane n).lfr.marks.drop 1 := by
  obtain ⟨t, flagged, same, answers⟩ := lfDelivered_taken s n hup lf m u i halign hfam hin hnext
  have counted : t.verify n m.cw0 = (t.modLfr n fun l => { l with verifyCount := l.verifyCount + 1 }, true) := by
    unfold State.verify
    extract_lets l
    rw [if_neg (by simp [same.verify, hver]), if_neg (by simp [hcw0]), if_pos (by rwa [same.count])]
  rw [counted, if_pos rfl] at answers
  obtain ⟨count, marks⟩ := State.lfNative_verifying (t.modLfr n fun l => { l with verifyCount := l.verifyCount + 1 }) n m
    flagged (same.verify.trans hver) (same.mfLock.trans hlock)
  refine .of_next answers ⟨?_, ?_⟩
  · rw [count, State.lfr_modLfr, same.count]
  · rw [marks, State.lfr_modLfr, same.marks]

/-- R154: the fourth LF without its codeword 0 ends the verification. -/
theorem lfDelivered_fails (hfour : 4 ≤ (s.lane n).lfr.verifyCount + 1) : Completes (exec (.lfDelivered n lf) s) fun t =>
    (t.lane n).lfr.verifyCount = 0 ∧ (t.lane n).lfr.sync = none ∧ (t.lane n).lfr.marks = [] := by
  obtain ⟨t, flagged, same, answers⟩ := lfDelivered_taken s n hup lf m u i halign hfam hin hnext
  have failed : t.verify n m.cw0 = (t, false) := by
    unfold State.verify
    extract_lets l
    rw [if_neg (by simp [same.verify, hver]), if_neg (by simp [hcw0]), if_neg (by rw [same.count]; omega)]
  rw [failed, if_neg Bool.false_ne_true] at answers
  exact .of_next answers (State.lfr_verifyFail _ n)

end Verification

/-- Settles O22: signal degrade, the first match with the misses and confirmations after it, exclusions, AIS, and verification. -/
theorem framing : Obligations.Framing := fun s n hup =>
  ⟨sdWindowEnd_judges s n hup, lfrMarkerMatch_hunting s n hup,
    fun hyp diff phase hfam =>
      ⟨lfrExpectedPosition_misses s n hup hyp diff phase hfam, lfrExpectedPosition_confirms s n hup hyp diff phase hfam⟩,
    lfrExclusionExpiry_ends s n, downstreamAisChange_applies s n hup,
    fun lf m u i halign hfam hver hin hnext hcw0 =>
      ⟨lfDelivered_counts s n hup lf m u i halign hfam hver hin hnext hcw0,
        lfDelivered_fails s n hup lf m u i halign hfam hver hin hnext hcw0⟩⟩

end Sys2Proof.Machine
end

section
/-!
SUPPORT. Performance monitoring of 07: the ended seconds and the final bins (O23), the current bins cleared and sampled (O56).
-/

namespace Sys2Proof.Machine

/-! ### The monitoring of a lane -/

theorem State.pmon_modPmon (s : State) (n : Lane) (f : PmonState → PmonState) :
    ((s.modPmon n f).lane n).pmon = f (s.lane n).pmon := by
  rw [State.modPmon, State.lane_modLane_same]

theorem State.lane_modPmon_other (s : State) (n m : Lane) (f : PmonState → PmonState) (h : n ≠ m) :
    (s.modPmon n f).lane m = s.lane m :=
  s.lane_modLane_other n m _ h

theorem State.lane_congr {s t : State} (h : t.lanes = s.lanes) (n : Lane) : t.lane n = s.lane n := by
  unfold State.lane
  rw [h]

/-- What is done to the monitoring of every lane in turn is done once to each. -/
theorem State.pmon_eachLane (s : State) (f : PmonState → PmonState) (m : Lane) :
    ((s.eachLane fun n t => t.modPmon n f).lane m).pmon = f (s.lane m).pmon := by
  have turn (l : List Lane) (distinct : l.Nodup) (t : State) : ((l.foldl (fun t n => t.modPmon n f) t).lane m).pmon =
      if m ∈ l then f (t.lane m).pmon else (t.lane m).pmon := by
    induction l generalizing t with
    | nil => rfl
    | cons n l ih =>
      obtain ⟨once, distinct⟩ := List.nodup_cons.mp distinct
      rw [List.foldl_cons, ih distinct]
      by_cases own : n = m
      · subst own
        rw [if_neg once, if_pos List.mem_cons_self, t.pmon_modPmon]
      · rw [t.lane_modPmon_other n m f own]
        simp only [List.mem_cons, Ne.symm own, false_or]
  have every : ∀ n : Lane, n ∈ allLanes := by decide
  exact (turn allLanes (by decide) s).trans (if_pos (every m))

/-! ### Entities (R170) -/

theorem assocGet_map {α : Type} (l : List (Nat × α)) (f : α → α) (a : Nat) :
    assocGet (l.map fun x => (x.1, f x.2)) a = (assocGet l a).map f := by
  induction l with
  | nil => rfl
  | cons x l ih =>
    simp only [List.map_cons, assocGet, ih]
    split <;> rfl

/-- An entity that has not existed yet is changed with its template. -/
theorem PmonState.ent_mapEnts (p : PmonState) (f : Entity → Entity) (k : Nat) : (p.mapEnts f).ent k = f (p.ent k) := by
  unfold PmonState.ent PmonState.mapEnts
  rw [assocGet_map]
  cases assocGet p.ents k <;> rfl

theorem PmonState.ent_modEnt (p : PmonState) (key k : Nat) (f : Entity → Entity) :
    (p.modEnt key f).ent k = if key = k then f (p.ent k) else p.ent k := by
  unfold PmonState.modEnt PmonState.putEnt PmonState.ent
  split
  next e => rw [e, assocGet_put_same, Option.getD_some]
  next e => rw [assocGet_put_other _ _ _ _ e]

/-! ### What an operation keeps of one lane's monitoring -/

/-- Every lane but `n` stays whole, and of the monitoring of `n` what `P` reads stays. -/
structure MonitorKeeps {β : Type} (P : PmonState → β) (n : Lane) (s t : State) : Prop where
  others : ∀ m, m ≠ n → t.lane m = s.lane m
  kept : P (t.lane n).pmon = P (s.lane n).pmon

section MonitorKeeps

variable {β : Type} {P : PmonState → β} {n : Lane} {s t u : State}

theorem MonitorKeeps.refl (s : State) : MonitorKeeps P n s s := ⟨fun _ _ => rfl, rfl⟩

theorem MonitorKeeps.trans (h : MonitorKeeps P n s t) (k : MonitorKeeps P n t u) : MonitorKeeps P n s u :=
  ⟨fun m e => (k.others m e).trans (h.others m e), k.kept.trans h.kept⟩

theorem MonitorKeeps.lanes (h : MonitorKeeps P n s t) (e : u.lanes = t.lanes) : MonitorKeeps P n s u :=
  h.trans ⟨fun m _ => State.lane_congr e m, by rw [State.lane_congr e]⟩

theorem MonitorKeeps.modPmon (h : MonitorKeeps P n s t) (f : PmonState → PmonState) (e : ∀ p, P (f p) = P p) :
    MonitorKeeps P n s (t.modPmon n f) :=
  h.trans ⟨fun m ne => t.lane_modPmon_other n m f ne.symm, by rw [t.pmon_modPmon, e]⟩

theorem MonitorKeeps.ite (c : Prop) [Decidable c] (h : MonitorKeeps P n s t) (k : MonitorKeeps P n s u) :
    MonitorKeeps P n s (if c then t else u) := by
  split <;> assumption

theorem MonitorKeeps.foldl {α : Type} (f : State → α → State) (k : ∀ (u : State) x, MonitorKeeps P n u (f u x)) (l : List α)
    (h : MonitorKeeps P n s t) : MonitorKeeps P n s (l.foldl f t) := by
  induction l generalizing t with
  | nil => exact h
  | cons x l ih => exact ih (h.trans (k t x))

end MonitorKeeps

/-! ### Seconds that are due (R172) -/

theorem State.lanes_pmonLog (s : State) (n : Lane) (sec ty ix id kind clear value : Nat) :
    (s.pmonLog n sec ty ix id kind clear value).lanes = s.lanes := by
  unfold State.pmonLog
  exact State.raise_lanes _ _

theorem State.alerts_ended (s : State) (n : Lane) (sec key : Nat) : MonitorKeeps PmonState.ended n s (s.alerts n sec key) := by
  unfold State.alerts
  extract_lets e d15 d24 log u v
  have logged (kind : Nat) (b : Bin) (l : List Nat) (t : State) : (l.foldl (log kind b) t).lanes = t.lanes :=
    foldl_same State.lanes _ (fun t d => t.lanes_pmonLog n sec _ _ d kind 0 _) l t
  have entries : MonitorKeeps PmonState.ended n s v := ((MonitorKeeps.refl s).lanes (logged 0 _ d15 s)).lanes (logged 1 _ d24 u)
  exact .ite _ entries (entries.modPmon _ fun _ => rfl)

theorem State.evalEntity_ended (s : State) (n : Lane) (g : SecGather) (key : Nat) (a : SecAcc) :
    MonitorKeeps PmonState.ended n s (s.evalEntity n g key a) := by
  unfold State.evalEntity
  extract_lets before pct u e ix r v w
  have counted : MonitorKeeps PmonState.ended n s u := (MonitorKeeps.refl s).modPmon _ fun _ => rfl
  have shown : MonitorKeeps PmonState.ended n s v := by
    unfold v
    split <;> exact counted.lanes rfl
  exact (shown.lanes (State.raiseIf_lanes ..)).trans (State.alerts_ended _ n g.sec key)

/-- An evaluated second changes the entities, and the registers, of its lane. -/
theorem State.evalSecond_ended (s : State) (n : Lane) (g : SecGather) : MonitorKeeps PmonState.ended n s (s.evalSecond n g) := by
  unfold State.evalSecond
  extract_lets keys u v w
  have marked : MonitorKeeps PmonState.ended n s u := by
    unfold u
    split
    · exact (MonitorKeeps.refl s).modPmon _ fun _ => rfl
    · exact .refl s
  have broken : MonitorKeeps PmonState.ended n s v := marked.modPmon _ fun _ => rfl
  have evaluated : MonitorKeeps PmonState.ended n s w :=
    .foldl (fun t (k : Nat × SecAcc) => t.evalEntity n g k.1 k.2) (fun t k => t.evalEntity_ended n g k.1 k.2) keys broken
  exact .ite _ evaluated (evaluated.lanes rfl)

theorem State.evalSeconds_ended (s : State) (n : Lane) (l : List SecGather) :
    MonitorKeeps PmonState.ended n s (l.foldl (fun t g => t.evalSecond n g) s) :=
  .foldl _ (fun t g => t.evalSecond_ended n g) l (.refl s)

/-- Evaluation takes no time, so what is due does not change with it. -/
theorem evalDue_frame {s t : State} (h : Frame 1041 s t) (g : SecGather) : t.evalDue g = s.evalDue g := by
  obtain ⟨clk, tb⟩ := h.part .clock
  unfold State.evalDue State.tb0 State.tbNs State.tbx
  rw [clk, tb]

/-- No ended second of a lane is due. -/
def State.noneDue (s : State) (n : Lane) : Prop := ∀ g ∈ (s.lane n).pmon.ended, s.evalDue g = false

/-- The evaluation of a lane leaves the ended seconds that are not due. -/
theorem State.ended_evalLane (s : State) (n : Lane) :
    ((s.evalLane n).lane n).pmon.ended = (s.lane n).pmon.ended.filter fun g => !s.evalDue g := by
  unfold State.evalLane
  rw [(State.evalSeconds_ended _ n _).kept, State.pmon_modPmon]

theorem State.lane_evalLane_other (s : State) (n m : Lane) (h : n ≠ m) : (s.evalLane n).lane m = s.lane m := by
  unfold State.evalLane
  rw [(State.evalSeconds_ended _ n _).others m h.symm, State.lane_modPmon_other _ _ _ _ h]

theorem State.noneDue_evalLane (s : State) (n : Lane) : (s.evalLane n).noneDue n := by
  intro g waits
  rw [s.ended_evalLane n] at waits
  rw [evalDue_frame (State.evalLane_fr s n (.refl s))]
  simpa using (List.mem_filter.mp waits).2

theorem State.noneDue_evalLane_other (s : State) (n m : Lane) (h : n ≠ m) (before : s.noneDue m) : (s.evalLane n).noneDue m := by
  intro g waits
  rw [s.lane_evalLane_other n m h] at waits
  rw [evalDue_frame (State.evalLane_fr s n (.refl s)), before g waits]

/-- R172: each lane has its turn, and no later turn makes a second of it due. -/
theorem State.noneDue_evalLanes (s : State) (m : Lane) : (s.eachLane fun n t => t.evalLane n).noneDue m := by
  have every : ∀ n : Lane, n ∈ allLanes := by decide
  refine foldl_reaches (P := fun t => t.noneDue m) (U := fun _ => True) (fun t n => t.evalLane n) m
    (fun t _ => t.noneDue_evalLane m) (fun t n _ before => ?_) (fun _ _ _ => trivial) allLanes s trivial (.inr (every m))
  by_cases own : n = m
  · exact own ▸ t.noneDue_evalLane n
  · exact t.noneDue_evalLane_other n m own before

/-- R172: after the evaluation no ended second is due. -/
theorem pmonSecondEval_evaluates (s : State) (hup : s.up = true) : Completes (exec .pmonSecondEval s) fun t =>
    s.clk ≤ t.clk ∧ ∀ n g, g ∈ (t.lane n).pmon.ended → t.evalDue g = false := by
  have answers : exec .pmonSecondEval s = .next _ := if_neg (by simp [hup])
  exact .of_next answers ⟨(exec_next_keeps answers).clk, fun n => State.noneDue_evalLanes _ n⟩

/-! ### Final bins (R178) -/

/-- R178: the newest history bin of a kind becomes final. -/
def Entity.finalBin (day : Bool) (e : Entity) : Entity :=
  if day then { e with hist24 := modAt e.hist24 0 fun b => b.flag 0 }
  else { e with hist15 := modAt e.hist15 0 fun b => b.flag 0 }

theorem modAt_head {α : Type} {l rest : List α} {x : α} (f : α → α) (h : l = x :: rest) : modAt l 0 f = f x :: rest := by
  rw [h, modAt]

/-- R178: after the boundary's 10 s every entity has its bin made final, and nothing else of it or of a register changes. -/
theorem binFinal_finals (day : Bool) (s : State)
    (hopen : (if day then ((s.lane 0).pmon.ent 0).cur24.start else ((s.lane 0).pmon.ent 0).cur15.start) ≠ 0) :
    Completes (exec (.binFinal day) s) fun t => t.regs = s.regs ∧
      ∀ n k, (t.lane n).pmon.ent k = ((s.lane n).pmon.ent k).finalBin day := by
  show Completes (execBinFinal day s) _
  unfold execBinFinal
  extract_lets e start u
  rw [if_neg hopen]
  have regs : u.regs = s.regs := s.regs_waitTb 0 _
  have lanes : u.lanes = s.lanes := waitTb_lanes s 0 _
  refine .of_next rfl ⟨?_, fun n k => ?_⟩
  · exact (eachLane_same State.regs _ (fun _ _ => State.modPmon_regs ..) u).trans regs
  · rw [State.pmon_eachLane, PmonState.ent_mapEnts, State.lane_congr lanes]
    rfl

/-- Settles O23: a second is judged due by the clocks alone, which its evaluation leaves; a bin made final is its kind's newest. -/
theorem monitoring : Obligations.Monitoring := by
  intro s
  refine ⟨pmonSecondEval_evaluates s, fun hopen => ?_, fun hopen => ?_⟩
  · obtain ⟨t, answers, regs, ent⟩ := binFinal_finals false s hopen
    refine .of_next answers ⟨regs, fun n k => ?_⟩
    rw [ent n k]
    exact ⟨rfl, rfl, rfl, fun _ _ newest => modAt_head (Bin.flag · 0) newest⟩
  · obtain ⟨t, answers, regs, ent⟩ := binFinal_finals true s hopen
    refine .of_next answers ⟨regs, fun n k => ?_⟩
    rw [ent n k]
    exact ⟨rfl, rfl, rfl, fun _ _ newest => modAt_head (Bin.flag · 0) newest⟩

/-! ### Current bins cleared (R183) -/

theorem PmonState.ent_fecTake (p : PmonState) (now : List Nat) (k : Nat) : (p.fecTake now).ent k =
    if 0 = k then (p.ent k).modCur fun b => b.fecAdd (p.fecDelta now) else p.ent k :=
  p.ent_modEnt 0 k fun e => e.modCur fun b => b.fecAdd (p.fecDelta now)

theorem PmonState.ent_peakTake (p : PmonState) (peak k : Nat) : (p.peakTake peak).ent k =
    if 0 = k then (p.ent k).modCur fun b => b.peakAdd (p.peakNow peak) else p.ent k :=
  p.ent_modEnt 0 k fun e => e.modCur fun b => b.peakAdd (p.peakNow peak)

/-- What FEC adds to the current bins before they are cleared is cleared with them. -/
theorem PmonState.clear_fecTake (p : PmonState) (now : List Nat) (k : Nat) :
    ((p.fecTake now).ent k).modCur Bin.clear = (p.ent k).modCur Bin.clear := by
  rw [p.ent_fecTake]
  split <;> rfl

theorem PmonState.clear_peakTake (p : PmonState) (peak k : Nat) :
    ((p.peakTake peak).ent k).modCur Bin.clear = (p.ent k).modCur Bin.clear := by
  rw [p.ent_peakTake]
  split <;> rfl

theorem State.ent_clearBins (s : State) (n : Lane) (k : Nat) :
    ((s.clearBins n).lane n).pmon.ent k = ((s.lane n).pmon.ent k).modCur Bin.clear := by
  rw [State.clearBins, State.pmon_modPmon, PmonState.ent_mapEnts, PmonState.clear_peakTake, PmonState.clear_fecTake]

/-- R183: the clearing command is `clearBins`. -/
theorem pmonClrCur_clears (s : State) (n : Lane) (htake : s.takes .pcie (aPMON_CTRL n) = true) :
    exec (.pmonClrCur n) s = .next (s.clearBins n) :=
  congrArg _ (hostWrite_taken s _ _ htake)

/-! ### Metric samples (R184) -/

/-- The samples that an entity's current bins count. -/
def Entity.samples (e : Entity) : Nat × Nat := (e.cur15.samples, e.cur24.samples)

/-- A look at the second in progress takes blocks from the bins, and no sample. -/
theorem PmonState.samples_look (p : PmonState) (g : SecGather) (k : Nat) : ((p.look g).ent k).samples = (p.ent k).samples := by
  have taken (l : List (Nat × Nat)) (q : PmonState) : ((l.foldl (fun (p : PmonState) x =>
      p.modEnt x.1 fun e => e.modCur fun b => { b with blocks := b.blocks - x.2 }) q).ent k).samples = (q.ent k).samples := by
    induction l generalizing q with
    | nil => rfl
    | cons x l ih =>
      rw [List.foldl_cons, ih, PmonState.ent_modEnt]
      split <;> rfl
  exact taken _ p

theorem State.touch_samples (s : State) (n : Lane) (k : Nat) : MonitorKeeps (fun p => (p.ent k).samples) n s (s.touch n) := by
  unfold State.touch
  extract_lets g u v
  have begun : MonitorKeeps (fun p => (p.ent k).samples) n s u := by
    unfold u
    split
    · exact .refl s
    · exact (MonitorKeeps.refl s).modPmon _ fun _ => rfl
  have looked : MonitorKeeps (fun p => (p.ent k).samples) n s v := begun.modPmon _ fun p => p.samples_look _ k
  exact looked.lanes (State.setB_lanes ..)

/-- R186: a gauge is a matter of registers. -/
theorem State.lanes_gauge (s : State) (n : Lane) (xs : List Int) (g metric : Nat) (low : Bool) (bit : Fld) :
    (s.gauge n xs g metric low bit).lanes = s.lanes := by
  unfold State.gauge
  extract_lets up_at down_at x was up down
  split
  · rfl
  · split
    · exact State.lanes_pmonLog ..
    · split
      · exact State.lanes_pmonLog ..
      · rfl

/-- R184: the instant of the next sample: the next multiple of 10 ms of TB0 at which none has been taken. -/
def State.sampleDue (s : State) (n : Lane) : Nat :=
  let next := divUp s.tb0 10000000 * 10000000
  if (s.lane n).pmon.lastSample = some next then next + 10000000 else next

theorem State.sampleDue_spec (s : State) (n : Lane) : s.sampleDue n % 10000000 = 0 ∧ s.tb0 ≤ s.sampleDue n := by
  have reached : s.tb0 ≤ divUp s.tb0 10000000 * 10000000 := divUp_mul_ge _ _ (by decide)
  unfold State.sampleDue
  extract_lets next
  split <;> omega

/-- The lane at the instant of its next sample, the second in progress brought up to it. -/
def State.atSample (s : State) (n : Lane) : State := (s.waitTb 0 (s.sampleDue n)).touch n

theorem State.atSample_samples (s : State) (n : Lane) : MonitorKeeps (fun p => (p.ent 0).samples) n s (s.atSample n) :=
  ((MonitorKeeps.refl s).lanes (waitTb_lanes s 0 _)).trans (State.touch_samples _ n 0)

/-- R184: a sample, taken at an instant, enters the section's current bins. -/
def PmonState.sample (p : PmonState) (xs : List Int) (instant : Nat) : PmonState :=
  { p.modEnt 0 fun e => e.modCur fun b => b.sample xs with lastSample := some instant }

theorem PmonState.samples_sample (p : PmonState) (xs : List Int) (instant : Nat) : ((p.sample xs instant).ent 0).samples =
    ((p.ent 0).samples.1 + 1, (p.ent 0).samples.2 + 1) := by
  have sampled : (p.sample xs instant).ent 0 = (p.ent 0).modCur fun b => b.sample xs :=
    (p.ent_modEnt 0 0 fun e => e.modCur fun b => b.sample xs).trans (if_pos rfl)
  rw [sampled]
  rfl

/-- R184, R186: a sample enters at its instant; then the gauges are judged, which change no lane. -/
theorem pmonMetricSample_samples (s : State) (n : Lane) (hup : s.laneUp n = true) (htrack : s.get (fRXD_STATE_STATE n) = 7) :
    Completes (exec (.pmonMetricSample n) s) fun t =>
      t.lanes = ((s.atSample n).modPmon n fun p => p.sample ((s.atSample n).metricsNow n) (s.sampleDue n)).lanes := by
  have answers : exec (.pmonMetricSample n) s = .next _ := if_pos (by simp [hup, htrack])
  refine .of_next answers ?_
  rw [State.lanes_gauge, State.lanes_gauge, State.lanes_gauge, State.lanes_gauge]
  rfl

/-- R184: a sample is counted in both current bins of the section at its instant. -/
theorem pmonMetricSample_counts (s : State) (n : Lane) (hup : s.laneUp n = true) (htrack : s.get (fRXD_STATE_STATE n) = 7) :
    Completes (exec (.pmonMetricSample n) s) fun t =>
      ((t.lane n).pmon.ent 0).samples = (((s.lane n).pmon.ent 0).samples.1 + 1, ((s.lane n).pmon.ent 0).samples.2 + 1) ∧
      (∀ m, m ≠ n → t.lane m = s.lane m) ∧ (t.lane n).pmon.lastSample = some (s.sampleDue n) := by
  obtain ⟨t, answers, lanes⟩ := pmonMetricSample_samples s n hup htrack
  refine .of_next answers ⟨?_, fun m other => ?_, ?_⟩
  · rw [State.lane_congr lanes, State.pmon_modPmon, PmonState.samples_sample, (s.atSample_samples n).kept]
  · rw [State.lane_congr lanes, State.lane_modPmon_other _ _ _ _ other.symm, (s.atSample_samples n).others m other]
  · rw [State.lane_congr lanes, State.pmon_modPmon]
    rfl

/-- Settles O56: clearing keeps of a bin what `Bin.clear` keeps; a sample counts once, at the instant it is due. -/
theorem currentBins : Obligations.CurrentBins := by
  intro s n
  refine ⟨fun htake => ?_, fun hup htrack => ?_⟩
  · refine .of_next (pmonClrCur_clears s n htake) ⟨rfl, rfl, fun m other => s.lane_modPmon_other n m _ other.symm, fun k => ?_⟩
    rw [s.ent_clearBins n k]
    exact ⟨rfl, rfl, rfl, rfl⟩
  · obtain ⟨t, answers, counts, others, last⟩ := pmonMetricSample_counts s n hup htrack
    obtain ⟨quarter, day⟩ := Prod.ext_iff.mp counts
    exact .of_next answers ⟨quarter, day, others, s.sampleDue n, last, s.sampleDue_spec n⟩

end Sys2Proof.Machine
end

section
/-!
SUPPORT. The client ports and FlexE groups of 08: their defects, the FlexE lock and the calendar switch (O24).
-/

namespace Sys2Proof.Machine

/-! ### Port alarms and port states (R195) -/

theorem State.RegsBut.portAlarm {s t : State} {as : List Nat} (h : s.RegsBut t as) (f : Fld) (m : f.addr ∈ as)
    (summary : aCLI_ALARM ∈ as) : s.RegsBut (t.portAlarm f) as :=
  (h.raise f m).raise fCLI_ALARM_PORT summary

/-- The alarm of a port stays raised while the summary of the ports is raised with it. -/
theorem State.is_portAlarm (s : State) (p : Nat) (f : Fld) (own : f.addr = aCLI_PORT_ALARM p) (fits : f.ok = true) :
    (s.portAlarm f).is f = true := by
  have apart : aCLI_ALARM ≠ f.addr := by unfold aCLI_PORT_ALARM at own; unfold aCLI_ALARM; omega
  rw [State.is, State.portAlarm, State.get_raise_elsewhere _ _ _ apart, State.get_raise_fits _ _ fits]
  rfl

theorem State.is_portAlarm_summary (s : State) (f : Fld) : (s.portAlarm f).is fCLI_ALARM_PORT = true := by
  rw [State.is, State.portAlarm, State.get_raise_fits _ _ rfl]
  rfl

/-- PTP's following of a port is a matter of objects. -/
theorem State.regs_ptpPorts (s : State) : s.ptpPorts.regs = s.regs :=
  Frame.regs (State.ptpPorts_fr (F := 67108864) s (.refl s))

/-- Entering a state writes STATE of the port's status and nothing else of it. -/
theorem State.reg_portEnter_status (s : State) (p st : Nat) :
    (s.portEnter p st).reg (aCLI_PORT_STATUS p) = (s.set (fCLI_PORT_STATUS_STATE p) st).reg (aCLI_PORT_STATUS p) := by
  have apart : aCLI_STATUS ≠ aCLI_PORT_STATUS p := by unfold aCLI_STATUS aCLI_PORT_STATUS; omega
  exact (State.reg_congr (State.regs_ptpPorts _) _).trans (State.reg_set_other _ fCLI_STATUS_PORTS_UP _ _ apart)

theorem State.portState_portEnter (s : State) (p st : Nat) (code : st < 4) : (s.portEnter p st).portState p = st := by
  unfold State.portState
  rw [State.get_congr_reg _ (s.reg_portEnter_status p st), State.get_set_fits _ _ _ rfl]
  exact Nat.mod_eq_of_lt code

/-- From `s` to `t` the port changes its state at most: the rest of its status stays, and CLI's status follows. -/
structure StateOnly (p : Nat) (s t : State) : Prop where
  regs : s.RegsBut t [aCLI_PORT_STATUS p, aCLI_STATUS]
  beside : ∀ f : Fld, f.addr = aCLI_PORT_STATUS p → (fCLI_PORT_STATUS_STATE p).beside f = true → t.is f = s.is f

theorem State.portEnter_stateOnly (s : State) (p st : Nat) : StateOnly p s (s.portEnter p st) where
  regs := (((State.RegsBut.refl s _).set (fCLI_PORT_STATUS_STATE p) st (by simp [fCLI_PORT_STATUS_STATE])).set
    fCLI_STATUS_PORTS_UP _ (by simp [fCLI_STATUS_PORTS_UP])).same (State.regs_ptpPorts _)
  beside f own apart := by
    rw [State.is_congr_reg f (own ▸ s.reg_portEnter_status p st), State.is_set_beside _ _ _ _ apart]

/-- A port in state `a` goes on to state `b`; one in another state stays there. -/
def State.moveOn (s : State) (p a b : Nat) : State := if s.portState p = a then s.portEnter p b else s

theorem State.moveOn_stateOnly (s : State) (p a b : Nat) : StateOnly p s (s.moveOn p a b) := by
  unfold State.moveOn
  split
  · exact s.portEnter_stateOnly p b
  · exact ⟨.refl s _, fun _ _ _ => rfl⟩

theorem State.portState_moveOn (s : State) (p a b : Nat) (code : b < 4) :
    (s.moveOn p a b).portState p = if s.portState p = a then b else s.portState p := by
  unfold State.moveOn
  split
  · exact s.portState_portEnter p b code
  · rfl

/-! ### The defects of a port (R195) -/

/-- A status bit of a port beside its STATE, and an alarm bit of the port. -/
structure DefectBits (p : Nat) (status alarm : Fld) : Prop where
  own : status.addr = aCLI_PORT_STATUS p
  fits : status.ok = true
  below : status.beside (fCLI_PORT_STATUS_STATE p) = true
  above : (fCLI_PORT_STATUS_STATE p).beside status = true
  alarmOwn : alarm.addr = aCLI_PORT_ALARM p
  alarmFits : alarm.ok = true

theorem closBits (p : Nat) : DefectBits p (fCLI_PORT_STATUS_CLOS p) (fCLI_PORT_ALARM_CLOS p) := ⟨rfl, rfl, rfl, rfl, rfl, rfl⟩
theorem cloaBits (p : Nat) : DefectBits p (fCLI_PORT_STATUS_CLOA p) (fCLI_PORT_ALARM_CLOA p) := ⟨rfl, rfl, rfl, rfl, rfl, rfl⟩
theorem rfBits (p : Nat) : DefectBits p (fCLI_PORT_STATUS_RF p) (fCLI_PORT_ALARM_RF p) := ⟨rfl, rfl, rfl, rfl, rfl, rfl⟩

/-- A defect of a port as its status, its alarm and CLI's summary show it. -/
structure ShowsDefect (status alarm : Fld) (s : State) : Prop where
  status : s.is status = true
  alarm : s.is alarm = true
  summary : s.is fCLI_ALARM_PORT = true

/-- R195: a defect is declared. -/
def State.declareDefect (s : State) (status alarm : Fld) : State := (s.setB status true).portAlarm alarm

section Defect

variable {p : Nat} {status alarm : Fld} (bits : DefectBits p status alarm)
include bits

theorem State.declareDefect_regsBut (s : State) :
    s.RegsBut (s.declareDefect status alarm) [aCLI_PORT_STATUS p, aCLI_PORT_ALARM p, aCLI_ALARM] :=
  ((State.RegsBut.refl s _).setB status true (by simp [bits.own])).portAlarm alarm (by simp [bits.alarmOwn]) (by simp)

theorem State.reg_declareDefect_status (s : State) :
    (s.declareDefect status alarm).reg (aCLI_PORT_STATUS p) = (s.setB status true).reg (aCLI_PORT_STATUS p) := by
  have raised : (s.setB status true).RegsBut (s.declareDefect status alarm) [aCLI_PORT_ALARM p, aCLI_ALARM] :=
    (State.RegsBut.refl _ _).portAlarm alarm (by simp [bits.alarmOwn]) (by simp)
  refine raised _ ?_
  simp only [aCLI_PORT_STATUS, aCLI_PORT_ALARM, aCLI_ALARM, List.mem_cons, List.not_mem_nil, or_false]
  omega

theorem State.declareDefect_shows (s : State) : ShowsDefect status alarm (s.declareDefect status alarm) where
  status := by
    rw [State.is_congr_reg status (bits.own ▸ s.reg_declareDefect_status bits), State.is_setB_fits _ _ _ bits.fits]
  alarm := State.is_portAlarm _ p alarm bits.alarmOwn bits.alarmFits
  summary := State.is_portAlarm_summary _ alarm

theorem State.portState_setStatus (s : State) (v : Bool) : (s.setB status v).portState p = s.portState p :=
  State.get_setB_beside s status _ v bits.below

theorem State.portState_declareDefect (s : State) : (s.declareDefect status alarm).portState p = s.portState p := by
  rw [← s.portState_setStatus bits true]
  exact State.get_congr_reg _ (s.reg_declareDefect_status bits)

theorem State.setStatus_regsBut (s : State) (v : Bool) : s.RegsBut (s.setB status v) [aCLI_PORT_STATUS p] :=
  (State.RegsBut.refl s _).setB status v (by simp [bits.own])

/-- A change of the port's state leaves its defects. -/
theorem ShowsDefect.stateOnly {s t : State} (h : ShowsDefect status alarm s) (k : StateOnly p s t) :
    ShowsDefect status alarm t where
  status := (k.beside status bits.own bits.above).trans h.status
  alarm := by
    refine (k.regs.is alarm ?_).trans h.alarm
    simp only [bits.alarmOwn, aCLI_PORT_STATUS, aCLI_PORT_ALARM, aCLI_STATUS, List.mem_cons, List.not_mem_nil, or_false]
    omega
  summary := by
    refine (k.regs.is fCLI_ALARM_PORT ?_).trans h.summary
    simp only [fCLI_ALARM_PORT, aCLI_PORT_STATUS, aCLI_ALARM, aCLI_STATUS, List.mem_cons, List.not_mem_nil, or_false]
    omega

/-- A defect is declared, and the port's state follows. -/
theorem State.declareDefect_moves {s t : State} (k : StateOnly p (s.declareDefect status alarm) t) :
    ShowsDefect status alarm t ∧ s.RegsBut t [aCLI_PORT_STATUS p, aCLI_PORT_ALARM p, aCLI_ALARM, aCLI_STATUS] :=
  ⟨(s.declareDefect_shows bits).stateOnly bits k,
    ((s.declareDefect_regsBut bits).mono (by simp +contextual)).trans (k.regs.mono (by simp +contextual))⟩

/-- A defect clears, and the port's state follows. -/
theorem State.clearDefect_moves {s t : State} (k : StateOnly p (s.setB status false) t) :
    t.is status = false ∧ s.RegsBut t [aCLI_PORT_STATUS p, aCLI_STATUS] :=
  ⟨(k.beside status bits.own bits.above).trans (State.is_setB_fits _ _ _ bits.fits),
    ((s.setStatus_regsBut bits false).mono (by simp +contextual)).trans k.regs⟩

end Defect

/-- R195: dCLOS takes an enabled port to state 1. -/
theorem closDeclare_shows (s : State) (p : Fin 64) (enabled : s.portState p ≠ 0) :
    Completes (exec (.closDeclare p) s) fun t => t.portState p = 1 ∧
      ShowsDefect (fCLI_PORT_STATUS_CLOS p) (fCLI_PORT_ALARM_CLOS p) t ∧
      s.RegsBut t [aCLI_PORT_STATUS p, aCLI_PORT_ALARM p, aCLI_ALARM, aCLI_STATUS] :=
  .of_next (if_neg enabled) ⟨State.portState_portEnter _ p 1 (by decide),
    State.declareDefect_moves (closBits p) (State.portEnter_stateOnly _ p 1)⟩

/-- R195: without dCLOS a port goes from state 1 to state 2. -/
theorem closClear_shows (s : State) (p : Fin 64) (enabled : s.portState p ≠ 0) :
    Completes (exec (.closClear p) s) fun t => t.portState p = (if s.portState p = 1 then 2 else s.portState p) ∧
      t.is (fCLI_PORT_STATUS_CLOS p) = false ∧ s.RegsBut t [aCLI_PORT_STATUS p, aCLI_STATUS] := by
  refine .of_next (t := (s.setB (fCLI_PORT_STATUS_CLOS p) false).moveOn p 1 2) (if_neg enabled) ⟨?_, ?_⟩
  · rw [State.portState_moveOn _ _ _ _ (by decide), s.portState_setStatus (closBits p)]
  · exact State.clearDefect_moves (closBits p) (State.moveOn_stateOnly _ p 1 2)

/-- R195: dCLOA takes a port from `UP` back to state 2. -/
theorem cloaDeclare_shows (s : State) (p : Fin 64) (enabled : s.portState p ≠ 0) :
    Completes (exec (.cloaDeclare p) s) fun t => t.portState p = (if s.portState p = 3 then 2 else s.portState p) ∧
      ShowsDefect (fCLI_PORT_STATUS_CLOA p) (fCLI_PORT_ALARM_CLOA p) t ∧
      s.RegsBut t [aCLI_PORT_STATUS p, aCLI_PORT_ALARM p, aCLI_ALARM, aCLI_STATUS] := by
  refine .of_next (t := (s.declareDefect (fCLI_PORT_STATUS_CLOA p) (fCLI_PORT_ALARM_CLOA p)).moveOn p 3 2) (if_neg enabled)
    ⟨?_, ?_⟩
  · rw [State.portState_moveOn _ _ _ _ (by decide), s.portState_declareDefect (cloaBits p)]
  · exact State.declareDefect_moves (cloaBits p) (State.moveOn_stateOnly _ p 3 2)

/-- R195: without dCLOA a port in state 2 comes to `UP`. -/
theorem cloaClear_shows (s : State) (p : Fin 64) (enabled : s.portState p ≠ 0) :
    Completes (exec (.cloaClear p) s) fun t => t.portState p = (if s.portState p = 2 then 3 else s.portState p) ∧
      t.is (fCLI_PORT_STATUS_CLOA p) = false ∧ s.RegsBut t [aCLI_PORT_STATUS p, aCLI_STATUS] := by
  refine .of_next (t := (s.setB (fCLI_PORT_STATUS_CLOA p) false).moveOn p 2 3) (if_neg enabled) ⟨?_, ?_⟩
  · rw [State.portState_moveOn _ _ _ _ (by decide), s.portState_setStatus (cloaBits p)]
  · exact State.clearDefect_moves (cloaBits p) (State.moveOn_stateOnly _ p 2 3)

/-- R195: dRF shows and leaves the port's state. -/
theorem remoteFaultChange_shows (s : State) (p : Fin 64) (v : Bool) (enabled : s.portState p ≠ 0) :
    Completes (exec (.remoteFaultChange p v) s) fun t => t.portState p = s.portState p ∧ t.is (fCLI_PORT_STATUS_RF p) = v ∧
      (v = true → t.is (fCLI_PORT_ALARM_RF p) = true ∧ t.is fCLI_ALARM_PORT = true) ∧
      s.RegsBut t [aCLI_PORT_STATUS p, aCLI_PORT_ALARM p, aCLI_ALARM] := by
  cases v with
  | true =>
    obtain ⟨status, alarm, summary⟩ := s.declareDefect_shows (rfBits p)
    exact .of_next (if_neg enabled)
      ⟨s.portState_declareDefect (rfBits p), status, fun _ => ⟨alarm, summary⟩, s.declareDefect_regsBut (rfBits p)⟩
  | false =>
    exact .of_next (if_neg enabled) ⟨s.portState_setStatus (rfBits p) false, State.is_setB_fits _ _ _ rfl, nofun,
      (s.setStatus_regsBut (rfBits p) false).mono (by simp +contextual)⟩

/-! ### FlexE groups (R202, R203) -/

/-- R202: lock and mismatches of a running FlexE group show in its status; a lock that is lost raises CLI's alarm. -/
theorem flexeLockChange_shows (s : State) (k : Fin 8) (l g m : Bool) (hup : s.up = true)
    (enabled : s.is (fCLI_FX_CFG_EN k) = true)
    (free : s.held (8 + s.portGroup (s.get (fCLI_FX_CFG_PORT_BASE k))) = false) :
    Completes (exec (.flexeLockChange k l g m) s) fun t => t.is (fCLI_FX_STATUS_LOCKED k) = l ∧
      t.is (fCLI_FX_STATUS_GID_MISMATCH k) = g ∧ t.is (fCLI_FX_STATUS_MAP_MISMATCH k) = m ∧
      (s.is (fCLI_FX_STATUS_LOCKED k) = true → l = false → t.is fCLI_ALARM_FLEXE = true) ∧
      s.RegsBut t [aCLI_FX_STATUS k, aCLI_ALARM] := by
  show Completes (execFlexeLockChange k l g m s) _
  unfold execFlexeLockChange
  rw [if_neg (by simp [hup, enabled, free])]
  extract_lets was newBad u
  have apart : aCLI_FX_STATUS k ∉ [aCLI_ALARM] := by simp only [aCLI_FX_STATUS, aCLI_ALARM, List.mem_singleton]; omega
  have raised : (u.setB (fCLI_FX_STATUS_MAP_MISMATCH k) m).RegsBut
      ((u.setB (fCLI_FX_STATUS_MAP_MISMATCH k) m).raiseIf newBad fCLI_ALARM_FLEXE) [aCLI_ALARM] :=
    (State.RegsBut.refl _ _).raiseIf newBad fCLI_ALARM_FLEXE (by simp [fCLI_ALARM_FLEXE])
  refine .of_next rfl ⟨?_, ?_, ?_, fun locked lost => ?_, ?_⟩
  · rw [raised.is _ apart, State.is_setB_beside _ _ _ _ rfl, State.is_setB_beside _ _ _ _ rfl, State.is_setB_fits _ _ _ rfl]
  · rw [raised.is _ apart, State.is_setB_beside _ _ _ _ rfl, State.is_setB_fits _ _ _ rfl]
  · rw [raised.is _ apart, State.is_setB_fits _ _ _ rfl]
  · have bad : newBad = true := by simp [newBad, was, locked, lost]
    rw [bad, State.raiseIf, if_pos rfl, State.is, State.get_raise_fits _ _ rfl]
    rfl
  · refine State.RegsBut.raiseIf ?_ newBad fCLI_ALARM_FLEXE (by simp [fCLI_ALARM_FLEXE])
    exact (((State.RegsBut.refl s _).setB (fCLI_FX_STATUS_LOCKED k) l List.mem_cons_self).setB
      (fCLI_FX_STATUS_GID_MISMATCH k) g List.mem_cons_self).setB (fCLI_FX_STATUS_MAP_MISMATCH k) m List.mem_cons_self

theorem getElem?_modAt {α : Type} (l : List α) (k : Nat) (f : α → α) : (modAt l k f)[k]? = l[k]?.map f := by
  induction l generalizing k with
  | nil => rfl
  | cons x l ih =>
    cases k with
    | zero => rfl
    | succ k => exact ih k

/-- R203: the answer to a switch makes the calendar not in use the one in use. -/
theorem flexeCalendarSwitch_switches (s : State) (k : Fin 8) (asked : s.is (fCLI_FX_STATUS_CAL_PENDING k) = true) :
    Completes (exec (.flexeCalendarSwitch k) s) fun t => t.is (fCLI_FX_STATUS_CAL_PENDING k) = false ∧
      t.is (fCLI_FX_STATUS_CAL_SEL k) = (!s.is (fCLI_FX_STATUS_CAL_SEL k)) ∧ s.RegsBut t [aCLI_FX_STATUS k] ∧
      ∀ x, s.cli.flexe[k.val]? = some x → t.cli.flexe[k.val]? = some { active := x.inactive, inactive := x.active } := by
  show Completes (execFlexeCalendarSwitch k s) _
  unfold execFlexeCalendarSwitch
  rw [if_pos asked]
  extract_lets held u
  have regs : u.regs = s.regs := rfl
  refine .of_next rfl ⟨?_, ?_, ?_, fun x listed => ?_⟩
  · rw [State.is_setB_beside _ _ _ _ rfl, State.is_setB_fits _ _ _ rfl]
  · rw [State.is_setB_fits _ _ _ rfl, State.is_congr regs]
  · exact (((State.RegsBut.refl s _).same regs).setB (fCLI_FX_STATUS_CAL_PENDING k) false List.mem_cons_self).setB
      (fCLI_FX_STATUS_CAL_SEL k) _ List.mem_cons_self
  · rw [State.setB_cli, State.setB_cli, getElem?_modAt, listed]
    rfl

/-- Settles O24: a defect is a status bit beside STATE and an alarm, and STATE moves on by itself. -/
theorem clientPorts : Obligations.ClientPorts := by
  intro s p k v l g m
  refine ⟨fun enabled =>
      ⟨?_, closClear_shows s p enabled, ?_, cloaClear_shows s p enabled, remoteFaultChange_shows s p v enabled⟩,
    fun hup on free => flexeLockChange_shows s k l g m hup on free, fun asked => flexeCalendarSwitch_switches s k asked⟩
  · obtain ⟨t, answers, state, ⟨status, alarm, summary⟩, regs⟩ := closDeclare_shows s p enabled
    exact .of_next answers ⟨state, status, alarm, summary, regs⟩
  · obtain ⟨t, answers, state, ⟨status, alarm, summary⟩, regs⟩ := cloaDeclare_shows s p enabled
    exact .of_next answers ⟨state, status, alarm, summary, regs⟩

end Sys2Proof.Machine
end

section
/-!
SUPPORT. What the operations of CLI on ports and flows do and leave: counters, flows' streams and what their registers show (08).
-/

namespace Sys2Proof.Machine

/-! ### Flows (R196) -/

theorem State.flowX_congr {s t : State} (h : t.cli.flows = s.cli.flows) (f : Nat) : t.flowX f = s.flowX f := by
  unfold State.flowX
  rw [h]

theorem State.flowX_modFlow_same (s : State) (f : Nat) (g : FlowState → FlowState) : (s.modFlow f g).flowX f = g (s.flowX f) := by
  unfold State.modFlow
  extract_lets x cli
  show (assocGet (if x = {} then assocDel s.cli.flows f else assocPut s.cli.flows f x) f).getD {} = x
  split
  next blank => rw [assocGet_del_same, blank]; rfl
  next => rw [assocGet_put_same]; rfl

theorem State.flowX_modFlow_other (s : State) (f f' : Nat) (g : FlowState → FlowState) (h : f ≠ f') :
    (s.modFlow f g).flowX f' = s.flowX f' := by
  unfold State.modFlow
  extract_lets x cli
  show (assocGet (if x = {} then assocDel s.cli.flows f else assocPut s.cli.flows f x) f').getD {} = s.flowX f'
  split
  · rw [assocGet_del_other _ _ _ h]; rfl
  · rw [assocGet_put_other _ _ _ _ h]; rfl

theorem State.flowX_modFlow (s : State) (f f' : Nat) (g : FlowState → FlowState) :
    (s.modFlow f g).flowX f' = if f = f' then g (s.flowX f') else s.flowX f' := by
  split
  next own => rw [← own, s.flowX_modFlow_same f g]
  next other => exact s.flowX_modFlow_other f f' g other

theorem State.flowX_emit (s : State) (e : Emit) (f : Nat) : (s.emit e).flowX f = s.flowX f := rfl

/-- The registers of a flow that show it. -/
theorem State.showFlow_regsBut (s : State) (f : Nat) : s.RegsBut (s.showFlow f) [aCLI_FLOW_CFG f, aCLI_FLOW_STATUS f] := by
  have cfg : aCLI_FLOW_CFG f ∈ [aCLI_FLOW_CFG f, aCLI_FLOW_STATUS f] := by simp
  have status : aCLI_FLOW_STATUS f ∈ [aCLI_FLOW_CFG f, aCLI_FLOW_STATUS f] := by simp
  unfold State.showFlow
  exact ((((((State.RegsBut.refl s _).setB (fCLI_FLOW_STATUS_ACTIVE f) _ status).setB (fCLI_FLOW_STATUS_AIS_IN f) _ status).setB
    (fCLI_FLOW_STATUS_FAULT_IN f) _ status).set (fCLI_FLOW_CFG_TYPE f) _ cfg).set (fCLI_FLOW_STATUS_N_G f) _ status).set
    (fCLI_FLOW_STATUS_FILL f) _ status

theorem State.showFlow_frame (s : State) (f : Nat) : Frame 1 s (s.showFlow f) := State.showFlow_fr s f (.refl s)

theorem State.cli_showFlow (s : State) (f : Nat) : (s.showFlow f).cli = s.cli := (s.showFlow_frame f).cli

theorem State.flowX_showFlow (s : State) (f f' : Nat) : (s.showFlow f).flowX f' = s.flowX f' :=
  State.flowX_congr (by rw [s.cli_showFlow f]) f'

/-! ### Counters of a port (R207) -/

theorem State.portCount_frame (s : State) (p j k : Nat) : Frame 16385 s (s.portCount p j k) :=
  State.portCount_fr s p j k (.refl s)

theorem State.cli_portCount (s : State) (p j k : Nat) : (s.portCount p j k).cli = s.cli := (s.portCount_frame p j k).cli

theorem State.cli_portAlarm (s : State) (f : Fld) : (s.portAlarm f).cli = s.cli :=
  (State.portAlarm_fr s f (.refl s) : Frame 17 s _).cli

theorem State.cli_tapPort (s : State) (p octets frames bad : Nat) : (s.tapPort p octets frames bad).cli = s.cli :=
  (State.tapPort_fr s p octets frames bad (.refl s) : Frame 12582912 s _).cli

theorem State.portCount_regsBut (s : State) (p j k : Nat) :
    s.RegsBut (s.portCount p j k) [aCLI_PORT_CNT p j, aCLI_PORT_CNT p j + 4] :=
  .ite _ (.refl s _) ((State.RegsBut.refl s _).addCnt _ k (by simp) (by simp))

/-- The counters of a port lie outside its configuration. -/
theorem portCfg_not_cnt (p q j : Nat) (hj : j < 14) : aCLI_PORT_CFG q ∉ [aCLI_PORT_CNT p j, aCLI_PORT_CNT p j + 4] := by
  simp only [aCLI_PORT_CFG, aCLI_PORT_CNT, List.mem_cons, List.not_mem_nil, or_false]
  omega

/-- R13: a port's counters belong to the island of the port. -/
theorem islandOf_portCnt (s : State) {p j : Nat} (hp : p < 64) (hj : j < 14) :
    s.islandOf (aCLI_PORT_CNT p j) = s.portIsland p := by
  have place : blockOf (aCLI_PORT_CNT p j) = some (.cli, 0, 0x1010 + 0x80 * p + 0x8 * j) := by
    have block : aCLI_PORT_CNT p j / 0x100000 = 8 := by unfold aCLI_PORT_CNT; omega
    have offset : aCLI_PORT_CNT p j % 0x100000 = 0x1010 + 0x80 * p + 0x8 * j := by unfold aCLI_PORT_CNT; omega
    have low : aCLI_PORT_CNT p j < 0x1000000 := by unfold aCLI_PORT_CNT; omega
    unfold blockOf
    rw [if_pos low, block, offset]
    rfl
  have low : ¬ 0x4000000 ≤ aCLI_PORT_CNT p j := by unfold aCLI_PORT_CNT; omega
  have port : (0x1010 + 0x80 * p + 0x8 * j - 0x1000) / 0x80 = p := by omega
  have inside : (decide (0x1000 ≤ 0x1010 + 0x80 * p + 0x8 * j) && decide (0x1010 + 0x80 * p + 0x8 * j < 0x3000)) = true := by
    simp only [Bool.and_eq_true, decide_eq_true_eq]
    omega
  unfold State.islandOf
  rw [if_neg low, place]
  exact (if_pos inside).trans (by rw [port])

/-! ### Values of two words (R431) -/

theorem State.nat_lt (s : State) (a : Nat) : s.nat a < 2 ^ 32 := (s.reg a).isLt

theorem State.wide_lt (s : State) (a : Nat) : s.wide a < 2 ^ 64 := by
  have low := s.nat_lt a
  have high := s.nat_lt (a + 4)
  unfold State.wide
  omega

theorem State.wide_setWide (s : State) (a v : Nat) : (s.setWide a v).wide a = v % 2 ^ 64 := by
  unfold State.wide State.setWide
  rw [State.nat_setNat_other _ _ _ _ (by omega), State.nat_setNat_same, State.nat_setNat_same]
  omega

theorem State.RegsBut.wide {s t : State} {as : List Nat} (h : s.RegsBut t as) (a : Nat) (m : a ∉ as) (m' : a + 4 ∉ as) :
    t.wide a = s.wide a := by
  unfold State.wide
  rw [h.nat a m, h.nat _ m']

/-- The counters of a port are counted as they come: its island is not frozen (R20). -/
def State.portLive (s : State) (p : Nat) : Prop := s.lvl.frozen.contains (s.portIsland p) = false

theorem State.portLive_portCount {s : State} {p : Nat} (live : s.portLive p) (q j k : Nat) (hj : j < 14) :
    (s.portCount q j k).portLive p := by
  have island : (s.portCount q j k).portIsland p = s.portIsland p := by
    have group := (s.portCount_regsBut q j k).get (fCLI_PORT_CFG_FIRST_LANE p) (portCfg_not_cnt q p j hj)
    unfold State.portIsland State.portGroup
    rw [group]
  have level : ({ (s.portCount q j k).lvl with heldCounts := [] } : LevelSeq) = { s.lvl with heldCounts := [] } :=
    (s.portCount_frame q j k).part .level
  have frozen : (s.portCount q j k).lvl.frozen = s.lvl.frozen := (congrArg LevelSeq.frozen level :)
  unfold State.portLive
  rw [island, frozen, live]

theorem State.wide_portCount {s : State} {p j : Nat} (live : s.portLive p) (hp : p < 64) (hj : j < 14) (k : Nat) :
    (s.portCount p j k).wide (aCLI_PORT_CNT p j) = (s.wide (aCLI_PORT_CNT p j) + k) % 2 ^ 64 := by
  unfold State.portCount State.addCnt
  split
  next zero => rw [zero, Nat.add_zero, Nat.mod_eq_of_lt (s.wide_lt _)]
  next => rw [islandOf_portCnt s hp hj, if_neg (by rw [live]; exact Bool.false_ne_true), State.addNow, State.wide_setWide]

/-- Counting in one counter of a port leaves another. -/
theorem State.wide_portCount_other (s : State) (p i j k : Nat) (apart : i ≠ j) :
    (s.portCount p i k).wide (aCLI_PORT_CNT p j) = s.wide (aCLI_PORT_CNT p j) := by
  refine (s.portCount_regsBut p i k).wide _ ?_ ?_ <;>
    simp only [aCLI_PORT_CNT, List.mem_cons, List.not_mem_nil, or_false] <;> omega

end Sys2Proof.Machine
end

section
/-!
SUPPORT. The ingress of a client port (O25).
-/

namespace Sys2Proof.Machine

/-- R197, R207: a frame is counted at its port, and a bad check sequence with it. -/
def State.countFrame (s : State) (p : Nat) (bytes : List Byte) : State :=
  if fcsGood bytes then (s.portCount p 0 1).portCount p 1 bytes.length
  else ((s.portCount p 0 1).portCount p 1 bytes.length).portCount p 2 1

theorem State.cli_countFrame (s : State) (p : Nat) (bytes : List Byte) : (s.countFrame p bytes).cli = s.cli := by
  have counted : ((s.portCount p 0 1).portCount p 1 bytes.length).cli = s.cli := by rw [State.cli_portCount, State.cli_portCount]
  unfold State.countFrame
  split
  · exact counted
  · rw [State.cli_portCount, counted]

/-- R197, R205, R274: a frame goes to the flow that its source feeds, unless something stands in its way. -/
def State.mapFrame (s : State) (src : ClientSrc) (bytes : List Byte) (err : Bool) : State :=
  match s.flowOf src with
  | none => s
  | some f => if s.ingressBad f || s.calWaits src || s.ptpTakes src bytes then s else s.flowFrame f bytes err

theorem State.mapFrame_ptp (s : State) (src : ClientSrc) (bytes : List Byte) (err : Bool) (takes : s.ptpTakes src bytes = true) :
    s.mapFrame src bytes err = s := by
  unfold State.mapFrame
  split
  · rfl
  · exact if_pos (by simp [takes])

theorem State.mapFrame_flow (s : State) (src : ClientSrc) (bytes : List Byte) (err : Bool) {f : Nat}
    (flow : s.flowOf src = some f) (good : s.ingressBad f = false) (carries : s.calWaits src = false) (maps : s.ptpTakes src bytes = false) :
    s.mapFrame src bytes err = s.flowFrame f bytes err := by
  unfold State.mapFrame
  rw [flow]
  exact if_neg (by simp [good, carries, maps])

section Ingress

variable {s : State} {src : ClientSrc} {p : Nat} (port : s.srcPort src = p) (up : s.portState p = 3)
include port up

/-- R207: codewords are counted at the port. -/
theorem clientIngress_rs (corr uncorr : Nat) : exec (.clientFrameIngress src (.rs corr uncorr)) s =
    .next ((s.portCount p 3 corr).portCount p 4 uncorr) := by
  subst port
  exact if_neg (not_not.mpr up)

/-- R197: a frame of a size outside 64 to 16000 bytes is counted and dropped. -/
theorem clientIngress_size (bytes : List Byte) (err : Bool) (size : bytes.length < 64 ∨ 16000 < bytes.length) :
    exec (.clientFrameIngress src (.frame bytes err)) s =
      .next (((s.countFrame p bytes).portCount p 5 1).portAlarm (fCLI_PORT_ALARM_SIZE_DROP p)) := by
  subst port
  exact (if_neg (not_not.mpr up)).trans (if_pos (by simpa using size))

/-- R197: a frame of a size from 64 to 16000 bytes is counted, and then mapped. -/
theorem clientIngress_frame (bytes : List Byte) (err : Bool) (lower : 64 ≤ bytes.length) (upper : bytes.length ≤ 16000) :
    exec (.clientFrameIngress src (.frame bytes err)) s = .next ((s.countFrame p bytes).mapFrame src bytes err) := by
  subst port
  show execClientFrameIngress src (.frame bytes err) s = _
  unfold execClientFrameIngress State.mapFrame
  extract_lets q
  rw [if_neg (not_not.mpr up)]
  dsimp -zeta only
  extract_lets u v
  have counted : v = s.countFrame q bytes := rfl
  rw [if_neg (by simp [lower, upper]), counted]
  cases (s.countFrame q bytes).flowOf src <;> rfl

/-- R200: words of an OTUCn that its flow's buffer has room for follow those that wait. -/
theorem clientIngress_otuc (words : List (BitVec 128)) (frames bip : Nat) (res : Byte) {f : Nat} {u : State}
    (counted : u = (s.portCount p 0 frames).portCount p 2 bip) (flow : u.flowOf src = some f)
    (room : words.length + (u.flowX f).otn.length ≤ u.flowCap f) : exec (.clientFrameIngress src (.otuc words frames bip res)) s =
      .next ((u.modFlow f fun x => { x with otn := x.otn ++ words.map BitVec.toNat, res := res.toNat }).showFlow f) := by
  subst port
  show execClientFrameIngress src (.otuc words frames bip res) s = _
  unfold execClientFrameIngress
  extract_lets q
  rw [if_neg (not_not.mpr up)]
  dsimp -zeta only
  extract_lets v
  have same : v = u := counted.symm
  rw [same, flow]
  dsimp only
  rw [if_neg (by omega), List.take_of_length_le (by omega)]

end Ingress

/-- R197, R204: a frame that the buffer of its flow has room for enters it whole, behind its header. -/
theorem State.flowX_flowFrame (s : State) (f : Nat) (bytes : List Byte) (err : Bool)
    (oif : (s.txFmt (s.get (fCLI_FLOW_CFG_LANE f))).family = 0) (mapped : s.flowSlots f ≠ 0) (runs : s.flowPaused f = false)
    (room : bytes.length + 4 + (s.flowX f).buf.length ≤ 16 * s.flowCap f) : (s.flowFrame f bytes err).flowX f =
      { s.flowX f with buf := (s.flowX f).buf ++ marked (elementHeader bytes.length (if err then 2 else 1) ++ bytes) } := by
  unfold State.flowFrame
  extract_lets
  rw [if_neg (not_not.mpr oif), if_neg mapped, if_neg (by simp [runs]), State.flowX_showFlow, State.flowPush]
  extract_lets
  rw [if_pos (by omega), State.flowX_modFlow_same]

/-- Settles O25: what is counted leaves the flows, and a flow's registers follow its streams. -/
theorem clientIngress : Obligations.ClientIngress := by
  intro s src p port up live
  have live : s.portLive p := live
  refine ⟨fun corr uncorr => ?_, fun bytes err size => ?_, ?_, ?_, ?_⟩
  · refine .of_next (clientIngress_rs port up corr uncorr) ⟨?_, ?_, ?_⟩
    · rw [State.cli_portCount, State.cli_portCount]
    · rw [State.wide_portCount_other _ _ _ _ _ (by decide), State.wide_portCount live p.isLt (by decide)]
    · rw [State.wide_portCount (State.portLive_portCount live _ _ _ (by decide)) p.isLt (by decide),
        State.wide_portCount_other _ _ _ _ _ (by decide)]
  · refine .of_next (clientIngress_size port up bytes err size) ⟨?_, ?_, State.is_portAlarm_summary _ _⟩
    · rw [State.cli_portAlarm, State.cli_portCount, State.cli_countFrame]
    · exact State.is_portAlarm _ p _ rfl rfl
  · intro bytes err f u lower upper counted flow good carries maps runs oif mapped room
    have counted : u = s.countFrame p bytes := counted
    have streams : u.flowX f = s.flowX f := State.flowX_congr (by rw [counted, s.cli_countFrame]) f
    have answers := clientIngress_frame port up bytes err lower upper
    rw [← counted, u.mapFrame_flow src bytes err flow good carries maps] at answers
    refine .of_next answers ?_
    rw [u.flowX_flowFrame f bytes err oif mapped runs (by rwa [streams]), streams]
    exact ⟨rfl, rfl⟩
  · intro bytes err u lower upper counted takes
    have counted : u = s.countFrame p bytes := counted
    refine .of_next (clientIngress_frame port up bytes err lower upper) ?_
    rw [← counted, u.mapFrame_ptp src bytes err takes]
  · intro words frames bip res f u counted flow room
    have streams : u.flowX f = s.flowX f :=
      State.flowX_congr (by rw [counted, State.cli_portCount, State.cli_portCount]) f
    refine .of_next (clientIngress_otuc port up words frames bip res counted flow (by rwa [streams])) ?_
    rw [State.flowX_showFlow, State.flowX_modFlow_same, streams]
    exact ⟨rfl, rfl, rfl⟩

end Sys2Proof.Machine
end

section
/-!
SUPPORT. The replacement of what a port sends, of 08 (O53).
-/

namespace Sys2Proof.Machine

/-! ### What the replacement of clients is judged by (R205, R435) -/

/-- R205: whether the egress replaces a FlexE client. -/
def FlowState.replaceBy (on : Bool) (x : FlowState) : FlowState := { x with replaced := on }

/-- R205: a FlexE client takes the judgement of its flow; another flow is left. -/
theorem State.flowX_flexeReplace (s : State) (p : Nat) (m : Nat × Nat × Nat) (g : Nat) : (s.flexeReplace p m).flowX g =
    if bitOf m.2.1 1 = true ∧ m.1 = g then (s.flowX g).replaceBy (s.replaceDue p m) else s.flowX g := by
  unfold State.flexeReplace
  extract_lets on
  by_cases flexe : bitOf m.2.1 1 = true
  · by_cases already : (s.flowX m.1).replaced = on
    · rw [if_pos (by simp [already])]
      split
      next own => rw [← own.2, FlowState.replaceBy, ← show (s.flowX m.1).replaced = s.replaceDue p m from already]
      next => rfl
    · rw [if_neg (by simp [flexe, already]), State.flowX_emit, State.flowX_modFlow]
      simp only [flexe, true_and, FlowState.replaceBy, on]
  · rw [if_pos (by simp [flexe]), if_neg fun h => flexe h.1]

theorem State.flexeReplace_frame (s : State) (p : Nat) (m : Nat × Nat × Nat) : Frame 65552 s (s.flexeReplace p m) :=
  State.flexeReplace_fr s p m (.refl s)

/-- The registers that show flows: configuration and status of each. -/
def flowRegs : List Nat := (List.range 256).flatMap fun f => [aCLI_FLOW_CFG f, aCLI_FLOW_STATUS f]

theorem mem_flowRegs {f a : Nat} (hf : f < 256) (h : a ∈ [aCLI_FLOW_CFG f, aCLI_FLOW_STATUS f]) : a ∈ flowRegs :=
  List.mem_flatMap.mpr ⟨f, List.mem_range.mpr hf, h⟩

theorem not_mem_flowRegs {a : Nat} (h : a < 0x804000 ∨ 0x806000 ≤ a) : a ∉ flowRegs := fun m => by
  obtain ⟨f, hf, own⟩ := List.mem_flatMap.mp m
  have := List.mem_range.mp hf
  simp only [aCLI_FLOW_CFG, aCLI_FLOW_STATUS, List.mem_cons, List.not_mem_nil, or_false] at own
  omega

/-- From `s` to `t` nothing changes by which the replacement of a client is judged: registers that show flows may, and what is
replaced. -/
structure JudgedSame (s t : State) : Prop where
  regs : s.RegsBut t flowRegs
  rxd : ∀ n, (t.lane n).rxd = (s.lane n).rxd
  rxMap : t.cli.rxMap = s.cli.rxMap
  fault : ∀ f, (t.flowX f).fault = (s.flowX f).fault

section Judged

variable {s t u : State}

theorem JudgedSame.refl (s : State) : JudgedSame s s := ⟨.refl s _, fun _ => rfl, rfl, fun _ => rfl⟩

theorem JudgedSame.trans (h : JudgedSame s t) (k : JudgedSame t u) : JudgedSame s u :=
  ⟨h.regs.trans k.regs, fun n => (k.rxd n).trans (h.rxd n), k.rxMap.trans h.rxMap, fun f => (k.fault f).trans (h.fault f)⟩

theorem State.showFlow_judged (s : State) {f : Nat} (hf : f < 256) : JudgedSame s (s.showFlow f) where
  regs := (s.showFlow_regsBut f).mono fun _ => mem_flowRegs hf
  rxd n := (s.showFlow_frame f).rxd (by decide) n
  rxMap := by rw [s.cli_showFlow f]
  fault g := by rw [s.flowX_showFlow f g]

theorem State.flexeReplace_judged (s : State) (p : Nat) (m : Nat × Nat × Nat) : JudgedSame s (s.flexeReplace p m) where
  regs := (State.RegsBut.refl s _).same (s.flexeReplace_frame p m).regs
  rxd n := (s.flexeReplace_frame p m).rxd (by decide) n
  rxMap := by
    unfold State.flexeReplace
    extract_lets on
    split <;> rfl
  fault g := by
    rw [s.flowX_flexeReplace p m g]
    split <;> rfl

/-- A field of a lane's block lies outside CLI. -/
theorem JudgedSame.is_lane (h : JudgedSame s t) {f : Fld} (c n : Nat) (at_ : f.addr = c + laneBase n) : t.is f = s.is f := by
  refine h.regs.is f (not_mem_flowRegs (.inr ?_))
  unfold laneBase at at_
  omega

theorem JudgedSame.rxFmt (h : JudgedSame s t) (n : Lane) : t.rxFmt n = s.rxFmt n := by
  have beyond (c : Nat) : c + laneBase n ∉ flowRegs := not_mem_flowRegs (.inr (by unfold laneBase; omega))
  exact rxFmt_eq n (h.regs.nat _ (beyond _)) (h.regs.nat _ (beyond _)) (h.regs.nat _ (beyond _)) (by rw [h.rxd]) (by rw [h.rxd])

theorem JudgedSame.egressFault (h : JudgedSame s t) (f cfg slots : Nat) :
    t.egressFault f cfg slots = s.egressFault f cfg slots := by
  unfold State.egressFault State.laneDefect State.sectionDefect
  extract_lets n
  have ais (j : Nat) : t.is (fLFR_SLOT_AIS_OUT n j) = s.is (fLFR_SLOT_AIS_OUT n j) := h.is_lane _ n rfl
  have lock : t.is (fLFR_STATE_MF_LOCK n) = s.is (fLFR_STATE_MF_LOCK n) := h.is_lane _ n rfl
  have los : t.is (fLFR_STATE_LOS n) = s.is (fLFR_STATE_LOS n) := h.is_lane _ n rfl
  have lof : t.is (fLFR_STATE_LOF n) = s.is (fLFR_STATE_LOF n) := h.is_lane _ n rfl
  have lom : t.is (fLFR_STATE_LOM n) = s.is (fLFR_STATE_LOM n) := h.is_lane _ n rfl
  have inhibit : t.is (fLFR_CTRL_AIS_INH n) = s.is (fLFR_CTRL_AIS_INH n) := h.is_lane _ n rfl
  simp only [h.fault, h.rxFmt, ais, lock, los, lof, lom, inhibit]

theorem JudgedSame.get_port (h : JudgedSame s t) {p : Nat} (hp : p < 64) (f : Fld)
    (own : f.addr = aCLI_PORT_CFG p ∨ f.addr = aCLI_PORT_STATUS p) : t.get f = s.get f := by
  refine h.regs.get f (not_mem_flowRegs (.inl ?_))
  unfold aCLI_PORT_CFG aCLI_PORT_STATUS at own
  omega

theorem JudgedSame.egressPort (h : JudgedSame s t) (cfg : Nat) : t.egressPort cfg = s.egressPort cfg := by
  have base : t.get (fCLI_FX_CFG_PORT_BASE (bitsOf cfg 8 3)) = s.get (fCLI_FX_CFG_PORT_BASE (bitsOf cfg 8 3)) := by
    refine h.regs.get _ (not_mem_flowRegs (.inr ?_))
    simp only [fCLI_FX_CFG_PORT_BASE, aCLI_FX_CFG]
    omega
  unfold State.egressPort
  rw [base]

theorem JudgedSame.portFlows (h : JudgedSame s t) (p : Nat) : t.portFlows p = s.portFlows p := by
  unfold State.portFlows
  simp only [h.rxMap, h.egressPort]

theorem JudgedSame.safe (h : JudgedSame s t) (k : Nat) : t.safe k = s.safe k := by
  unfold State.safe
  rw [h.regs aGLB_SAFE (not_mem_flowRegs (.inl (by decide)))]

variable {p : Nat} (hp : p < 64)
include hp

theorem JudgedSame.portGroup (h : JudgedSame s t) : t.portGroup p = s.portGroup p := by
  unfold State.portGroup
  rw [h.get_port hp _ (.inl rfl)]

theorem JudgedSame.replaceDue (h : JudgedSame s t) (m : Nat × Nat × Nat) : t.replaceDue p m = s.replaceDue p m := by
  unfold State.replaceDue
  rw [h.portGroup hp, h.safe, h.egressFault]

theorem JudgedSame.faultTx (h : JudgedSame s t) : t.faultTx p = s.faultTx p := by
  have state : t.portState p = s.portState p := h.get_port hp _ (.inr rfl)
  unfold State.faultTx
  rw [state, h.portGroup hp, h.safe, h.portFlows, funext (h.replaceDue hp)]

end Judged

/-! ### The fault action (R205, R435) -/

/-- The received flows are shown. -/
def State.showMapped (s : State) : State := (s.cli.rxMap.filter fun m => m.1 < 256).foldl (fun s m => s.showFlow m.1) s

theorem foldl_judged {α : Type} (f : State → α → State) (l : List α) (k : ∀ (t : State) (x : α), x ∈ l → JudgedSame t (f t x))
    {s t : State} (h : JudgedSame s t) : JudgedSame s (l.foldl f t) := by
  induction l generalizing t with
  | nil => exact h
  | cons x l ih => exact ih (fun u y m => k u y (List.mem_cons_of_mem _ m)) (h.trans (k t x List.mem_cons_self))

theorem State.showMapped_judged (s : State) : JudgedSame s s.showMapped :=
  foldl_judged _ _ (fun t _ listed => t.showFlow_judged (by simpa using (List.mem_filter.mp listed).2)) (.refl s)

theorem State.cli_showMapped (s : State) : s.showMapped.cli = s.cli :=
  foldl_same State.cli (fun (t : State) (m : Nat × Nat × Nat) => t.showFlow m.1) (fun t m => t.cli_showFlow m.1) _ s

theorem State.flowX_showMapped (s : State) (g : Nat) : s.showMapped.flowX g = s.flowX g :=
  State.flowX_congr (by rw [s.cli_showMapped]) g

/-- R205: the FlexE clients that leave at a port are replaced, or are no longer. -/
def State.replaceClients (s : State) (p : Nat) : State := (s.portFlows p).foldl (fun s m => s.flexeReplace p m) s

theorem State.replaceClients_judged (s : State) (p : Nat) : JudgedSame s (s.replaceClients p) :=
  foldl_judged _ _ (fun t m _ => t.flexeReplace_judged p m) (.refl s)

theorem State.rx_replaceClients (s : State) (p g : Nat) : ((s.replaceClients p).flowX g).rx = (s.flowX g).rx := by
  refine foldl_same (fun t => (t.flowX g).rx) _ (fun t m => ?_) _ s
  rw [t.flowX_flexeReplace p m g]
  split <;> rfl

/-- Where the judgement is one for all clients of a port, each of them that has had its turn stands so. -/
theorem State.replaced_foldl {s : State} {p : Nat} (hp : p < 64) {b : Bool} {m : Nat × Nat × Nat} (flexe : bitOf m.2.1 1 = true)
    (l : List (Nat × Nat × Nat)) (due : ∀ x ∈ l, s.replaceDue p x = b) (t : State) (h : JudgedSame s t)
    (turn : (t.flowX m.1).replaced = b ∨ m ∈ l) : ((l.foldl (fun s m => s.flexeReplace p m) t).flowX m.1).replaced = b := by
  induction l generalizing t with
  | nil => exact turn.resolve_right List.not_mem_nil
  | cons x l ih =>
    have judged : t.replaceDue p x = b := (h.replaceDue hp x).trans (due x List.mem_cons_self)
    refine ih (fun y later => due y (List.mem_cons_of_mem _ later)) _ (h.trans (t.flexeReplace_judged p x)) ?_
    rw [t.flowX_flexeReplace p x m.1, judged]
    rcases turn with stands | listed
    · exact .inl (by split <;> [rfl; exact stands])
    · rcases List.mem_cons.mp listed with rfl | later
      · exact .inl (by rw [if_pos ⟨flexe, rfl⟩]; rfl)
      · exact .inr later

theorem State.replaced_replaceClients {s : State} {p : Nat} (hp : p < 64) {b : Bool}
    (due : ∀ x ∈ s.portFlows p, s.replaceDue p x = b) {m : Nat × Nat × Nat} (leaves : m ∈ s.portFlows p)
    (flexe : bitOf m.2.1 1 = true) : ((s.replaceClients p).flowX m.1).replaced = b :=
  State.replaced_foldl hp flexe _ due s (.refl s) (.inr leaves)

theorem State.is_showFault (s : State) (p : Nat) : (s.showFault p).is (fCLI_PORT_STATUS_FAULT_TX p) = s.faultTx p :=
  State.is_setB_fits _ _ _ rfl

theorem State.cli_showFault (s : State) (p : Nat) : (s.showFault p).cli = s.cli :=
  (State.showFault_fr s p (.refl s) : Frame 17 s _).cli

theorem State.flowX_showFault (s : State) (p g : Nat) : (s.showFault p).flowX g = s.flowX g :=
  State.flowX_congr (by rw [s.cli_showFault p]) g

/-- R205: an Ethernet or OTUCn port on which the replacement begins or ends says so. -/
theorem State.sent_showFault (s : State) (p : Nat) (kind : s.get (fCLI_PORT_CFG_TYPE p) ≠ 1)
    (turns : s.is (fCLI_PORT_STATUS_FAULT_TX p) ≠ s.faultTx p) :
    (s.showFault p).sent.head? = some (.replace p (s.get (fCLI_PORT_CFG_TYPE p) == 2) (s.faultTx p)) := by
  unfold State.showFault
  extract_lets on type u
  have notice : u = s.emit (.replace p (type == 2) on) := if_neg (by simp [type, on, kind, turns])
  rw [notice]
  rfl

/-- R205: the fault action shows the received flows, then replaces the port's FlexE clients, then shows its FAULT_TX. -/
theorem cliFaultAction_next (s : State) (p : Fin 64) :
    exec (.cliFaultAction p) s = .next ((s.showMapped.replaceClients p).showFault p) := rfl

/-- Before FAULT_TX is shown nothing has changed by which it is judged. -/
theorem State.replaceMapped_judged (s : State) (p : Nat) : JudgedSame s (s.showMapped.replaceClients p) :=
  s.showMapped_judged.trans (State.replaceClients_judged _ p)

/-- R205: a judgement that is one for all clients of a port is that of each FlexE client after the fault action. -/
theorem State.replaced_faultAction {s : State} {p : Nat} (hp : p < 64) {b : Bool}
    (due : ∀ x ∈ s.portFlows p, s.replaceDue p x = b) {m : Nat × Nat × Nat} (leaves : m ∈ s.portFlows p)
    (flexe : bitOf m.2.1 1 = true) : (((s.showMapped.replaceClients p).showFault p).flowX m.1).replaced = b := by
  have shown := s.showMapped_judged
  rw [State.flowX_showFault]
  refine State.replaced_replaceClients hp (fun x listed => ?_) (by rwa [shown.portFlows]) flexe
  rw [shown.replaceDue hp]
  exact due x (by rwa [shown.portFlows] at listed)

theorem State.replaceDue_safe {s : State} {p : Nat} (safe : s.safe (8 + s.portGroup p) = true) (m : Nat × Nat × Nat) :
    s.replaceDue p m = true := by
  unfold State.replaceDue
  rw [safe, Bool.true_or]

/-- Settles O53: the replacement of one client leaves everything by which the others are judged. -/
theorem faultReplacement : Obligations.FaultReplacement := by
  intro s p
  have judged := s.replaceMapped_judged p
  have fault := judged.faultTx p.isLt
  have kind : (s.showMapped.replaceClients p).get (fCLI_PORT_CFG_TYPE p) = s.get (fCLI_PORT_CFG_TYPE p) :=
    judged.get_port p.isLt _ (.inl rfl)
  have was : (s.showMapped.replaceClients p).is (fCLI_PORT_STATUS_FAULT_TX p) = s.is (fCLI_PORT_STATUS_FAULT_TX p) :=
    congrArg (· != 0) (judged.get_port p.isLt _ (.inr rfl))
  refine .of_next (cliFaultAction_next s p)
    ⟨?_, fun other turns => ?_, fun safe m leaves flexe => ?_, fun noCause m leaves flexe => ?_⟩
  · rw [State.is_showFault, fault]
  · rw [State.sent_showFault _ _ (by rwa [kind]) (by rwa [was, fault]), kind, fault]
  · exact State.replaced_faultAction p.isLt (fun x _ => State.replaceDue_safe safe x) leaves flexe
  · exact State.replaced_faultAction p.isLt noCause leaves flexe

/-- R205, R435: FAULT_TX is not set on a disabled port, and is set on an enabled one in the safe state of its group. -/
theorem State.faultTx_disabled {s : State} {p : Nat} (off : s.portState p = 0) : s.faultTx p = false := by
  unfold State.faultTx
  simp [off]

theorem State.faultTx_safe {s : State} {p : Nat} (on : s.portState p ≠ 0) (safe : s.safe (8 + s.portGroup p) = true) :
    s.faultTx p = true := by
  unfold State.faultTx
  simp [on, safe]

theorem cliFaultAction_shows (s : State) (p : Fin 64) : Completes (exec (.cliFaultAction p) s) fun t =>
    t.is (fCLI_PORT_STATUS_FAULT_TX p) = s.faultTx p ∧ t.cli.rxMap = s.cli.rxMap ∧ ∀ g, (t.flowX g).rx = (s.flowX g).rx := by
  have judged := s.replaceMapped_judged p
  refine .of_next (cliFaultAction_next s p) ⟨?_, ?_, fun g => ?_⟩
  · rw [State.is_showFault, judged.faultTx p.isLt]
  · rw [State.cli_showFault, judged.rxMap]
  · rw [State.flowX_showFault, State.rx_replaceClients, State.flowX_showMapped]

end Sys2Proof.Machine
end

section
/-!
SUPPORT. The egress of a received flow, of 08: how an element is taken and sent (O26, O52).
-/

namespace Sys2Proof.Machine

/-! ### Taking an element (R198, R199) -/

/-- R198: the header at the egress of a flow: its four bytes, and the three that the fourth checks. -/
def State.rxHead (s : State) (f : Nat) : List Byte := ((s.flowX f).rx.take 4).map (·.1)
def State.rxWord (s : State) (f : Nat) : Nat := fieldBytes (s.rxHead f) 0 3

/-- R199: what waits is passed over up to the next header that an OFFSET marks. -/
def FlowState.resync (x : FlowState) : FlowState :=
  { x with rx := (x.rx.drop 1).dropWhile fun b => !b.2.2, insync := !((x.rx.drop 1).dropWhile fun b => !b.2.2).isEmpty }

/-- R198, R205: the egress has taken `n` bytes of a flow, which say whether its client is replaced. -/
def FlowState.taken (n : Nat) (fault : Bool) (x : FlowState) : FlowState := { x with rx := x.rx.drop n, fault := fault }

/-- R198: an element's KIND is neither that of an idle nor that of a fault header. -/
theorem not_idle {kind : Nat} (element : kind = 1 ∨ kind = 2) : ¬ (decide (kind = 0) || decide (kind = 3)) = true := by
  rcases element with rfl | rfl <;> decide

/-- R199: a header with a bad check is counted at its port as a drop. -/
def State.egressDrop (s : State) (p : Nat) : State :=
  ((s.tapPort p 0 0 1).portCount p 7 1).portAlarm (fCLI_PORT_ALARM_TX_DROP p)

theorem State.flowX_egressDrop (s : State) (p f : Nat) : (s.egressDrop p).flowX f = s.flowX f := by
  refine State.flowX_congr ?_ f
  unfold State.egressDrop
  rw [State.cli_portAlarm, State.cli_portCount, State.cli_tapPort]

section Header

variable {s : State} {f : Fin 256} {cfg : Nat} (fed : s.rxCfg f = some cfg) (ready : 4 ≤ (s.flowX f).rx.length)
include fed ready

/-- R199: a header with a bad check. -/
theorem egressHeader_bad (bad : fieldBytes (s.rxHead f) 3 1 ≠ crc8 24 (s.rxWord f)) : exec (.egressHeader f) s =
    .next ((s.modFlow f FlowState.resync).egressDrop (s.egressPort cfg)) := by
  show execEgressHeader f s = _
  unfold execEgressHeader
  rw [fed]
  exact (if_neg (Nat.not_lt.mpr ready)).trans (if_pos bad)

variable (good : fieldBytes (s.rxHead f) 3 1 = crc8 24 (s.rxWord f))
include good

/-- R198: idle and fault headers. -/
theorem egressHeader_idle (kind : s.rxWord f / 256 % 4 = 0 ∨ s.rxWord f / 256 % 4 = 3) : exec (.egressHeader f) s =
    .next ((s.modFlow f (FlowState.taken 4 (s.rxWord f / 256 % 4 == 3))).showFlow f) := by
  show execEgressHeader f s = _
  unfold execEgressHeader
  rw [fed]
  have idle : (decide (s.rxWord f / 256 % 4 = 0) || decide (s.rxWord f / 256 % 4 = 3)) = true := by simpa using kind
  exact (if_neg (Nat.not_lt.mpr ready)).trans ((if_neg (not_not.mpr good)).trans (if_pos idle))

variable (kind : s.rxWord f / 256 % 4 = 1 ∨ s.rxWord f / 256 % 4 = 2)
include kind

/-- R198: an element that is not whole. -/
theorem egressHeader_waits (short : (s.flowX f).rx.length < 4 + s.rxWord f / 1024) : exec (.egressHeader f) s = .next s := by
  show execEgressHeader f s = _
  unfold execEgressHeader
  rw [fed]
  exact (if_neg (Nat.not_lt.mpr ready)).trans ((if_neg (not_not.mpr good)).trans ((if_neg (not_idle kind)).trans (if_pos short)))

/-- R199: a whole element is taken and sent, with its check sequence inverted where it is marked. -/
theorem egressHeader_takes (whole : 4 + s.rxWord f / 1024 ≤ (s.flowX f).rx.length) : exec (.egressHeader f) s =
    .next (((s.modFlow f (FlowState.taken (4 + s.rxWord f / 1024) false)).showFlow f).egressFrame f cfg
      ((((s.flowX f).rx.take (4 + s.rxWord f / 1024)).drop 4).map (·.1))
      (s.rxWord f / 256 % 4 == 2 || ((s.flowX f).rx.take (4 + s.rxWord f / 1024)).any fun b => b.2.1)) := by
  show execEgressHeader f s = _
  unfold execEgressHeader
  rw [fed]
  exact (if_neg (Nat.not_lt.mpr ready)).trans
    ((if_neg (not_not.mpr good)).trans ((if_neg (not_idle kind)).trans (if_neg (Nat.not_lt.mpr whole))))

end Header

/-! ### Sending it (R199) -/

/-- What is sent at a port leaves the flows. -/
theorem State.flowX_egressFrame (s : State) (f cfg : Nat) (bytes : List Byte) (invert : Bool) (g : Nat) :
    (s.egressFrame f cfg bytes invert).flowX g = s.flowX g := by
  have counted (p octets bad : Nat) : ((s.portCount p 6 1).tapPort p octets 1 bad).cli = s.cli := by
    rw [State.cli_tapPort, State.cli_portCount]
  refine State.flowX_congr ?_ g
  unfold State.egressFrame
  extract_lets fx k p out replaced on u v
  have shown : v.cli = s.cli := by
    unfold v
    split
    · rw [State.cli_portAlarm, State.cli_portCount]
      exact counted ..
    · exact counted ..
  split
  · rfl
  · split
    · rw [State.cli_portAlarm, State.cli_portCount, State.cli_tapPort]
    · exact (congrArg CliState.flows shown :)

/-- R199: at an enabled port that is not replaced and whose buffer has room a frame is sent. -/
theorem State.sent_egressFrame (s : State) (f cfg : Nat) (bytes : List Byte) (invert : Bool) (own : bitOf cfg 1 = false)
    (on : s.portState (bitsOf cfg 2 6) ≠ 0) (client : s.is (fCLI_PORT_STATUS_FAULT_TX (bitsOf cfg 2 6)) = false)
    (room : s.egressFill (bitsOf cfg 2 6) + bytes.length ≤ 65536) : (s.egressFrame f cfg bytes invert).sent.head? =
      some (.frame (bitsOf cfg 2 6) (if invert then fcsInvert bytes else bytes)) := by
  have port : s.egressPort cfg = bitsOf cfg 2 6 := if_neg (by simp [own])
  unfold State.egressFrame
  rw [port, own]
  exact (congrArg (fun t : State => t.sent.head?) ((if_neg (by simp [on, client])).trans (if_neg (by omega)))).trans rfl

/-- R199: taking from a flow leaves the port at which its frames leave as it stood. -/
theorem State.taken_port (s : State) (f : Fin 256) (g : FlowState → FlowState) {p : Nat} (hp : p < 64) :
    ((s.modFlow f g).showFlow f).portState p = s.portState p ∧
    ((s.modFlow f g).showFlow f).is (fCLI_PORT_STATUS_FAULT_TX p) = s.is (fCLI_PORT_STATUS_FAULT_TX p) ∧
    ((s.modFlow f g).showFlow f).egressFill p = s.egressFill p := by
  have flow : JudgedSame (s.modFlow f g) ((s.modFlow f g).showFlow f) := State.showFlow_judged _ f.isLt
  have rate := flow.get_port hp (fCLI_PORT_CFG_RATE p) (.inl rfl)
  have clk : ((s.modFlow f g).showFlow f).clk = s.clk := (State.showFlow_frame _ f).clk
  have ports : ((s.modFlow f g).showFlow f).cli.ports = s.cli.ports := by rw [State.cli_showFlow]; rfl
  refine ⟨flow.get_port hp _ (.inr rfl), congrArg (· != 0) (flow.get_port hp _ (.inr rfl)), ?_⟩
  unfold State.egressFill State.portX State.fsNow
  rw [rate, clk, ports]
  rfl

/-- Settles O26: a header falls into one of four cases, and what an element sends leaves the flows. -/
theorem clientEgress : Obligations.ClientEgress := by
  intro s f p
  refine ⟨?_, ?_⟩
  · rintro cfg _ _ fed ready rfl rfl
    refine ⟨fun bad => ?_, fun good kind => ?_, fun good kind => ⟨fun whole => ?_, fun short => ?_⟩⟩
    · refine .of_next (egressHeader_bad fed ready bad) ?_
      have taken : ((s.modFlow f FlowState.resync).egressDrop (s.egressPort cfg)).flowX f = (s.flowX f).resync := by
        rw [State.flowX_egressDrop, State.flowX_modFlow_same]
      rw [taken]
      exact ⟨rfl, by simp [FlowState.resync], State.is_portAlarm_summary _ _⟩
    · refine .of_next (egressHeader_idle fed ready good kind) ?_
      rw [State.flowX_showFlow, State.flowX_modFlow_same]
      exact ⟨rfl, rfl, (State.showFlow_frame _ f).out.1⟩
    · refine .of_next (egressHeader_takes fed ready good kind whole) ?_
      rw [State.flowX_egressFrame, State.flowX_showFlow, State.flowX_modFlow_same]
      exact ⟨rfl, rfl⟩
    · exact .of_next (egressHeader_waits fed ready good kind short) rfl
  · obtain ⟨t, answers, shown, rxMap, rx⟩ := cliFaultAction_shows s p
    refine .of_next answers ⟨shown, rxMap, rx, fun off => ?_, fun on safe => ?_⟩
    · rw [shown, State.faultTx_disabled off]
    · rw [shown, State.faultTx_safe on safe]

/-- Settles O52: taking the element leaves the port, so the frame is sent as the port stood. -/
theorem egressSendsElement : Obligations.EgressSendsElement := by
  rintro s f cfg _ _ _ fed own rfl rfl good kind whole rfl on client room
  have hp : bitsOf cfg 2 6 < 64 := bitsOf_lt cfg 2 6
  have whole : 4 + s.rxWord f / 1024 ≤ (s.flowX f).rx.length := whole
  have length : (((s.flowX f).rx.take (4 + s.rxWord f / 1024)).drop 4).length = s.rxWord f / 1024 := by
    rw [List.length_drop, List.length_take, Nat.min_eq_left whole]
    omega
  obtain ⟨state, fault, fill⟩ := s.taken_port f (FlowState.taken (4 + s.rxWord f / 1024) false) hp
  refine .of_next (egressHeader_takes fed (by omega) good kind whole) ⟨?_, ?_, ?_⟩
  · rw [State.flowX_egressFrame, State.flowX_showFlow, State.flowX_modFlow_same]
    rfl
  · rw [State.flowX_egressFrame, State.flowX_showFlow, State.flowX_modFlow_same]
    rfl
  · rw [State.sent_egressFrame _ f cfg _ _ own (state ▸ on) (fault ▸ client) (by rw [fill, List.length_map, length]; exact room)]
    simp only [Bool.or_eq_true, beq_iff_eq]
    rfl

end Sys2Proof.Machine
end

section
/-!
SUPPORT. What the shared operations of CIPH do: a write taken, contexts and the keys they name, the end of a job (09).
-/

namespace Sys2Proof.Machine

/-! ### Fields of another register, alarms -/

theorem State.is_raise_fits (s : State) (f : Fld) (h : f.ok = true) : (s.raise f).is f = true := by
  unfold State.is
  rw [State.get_raise_fits s f h]
  rfl

theorem State.is_raise_elsewhere (s : State) (f g : Fld) (h : f.addr ≠ g.addr) : (s.raise f).is g = s.is g := by
  unfold State.is
  rw [State.get_raise_elsewhere s f g h]

theorem State.is_raise_beside (s : State) (f g : Fld) (h : f.beside g = true) : (s.raise f).is g = s.is g := by
  rw [State.is_congr (s.regs_raise f), State.is_set_beside s f g 1 h]

/-! ### Writes of CIPH (R3) -/

/-- A write of CIPH that the gate takes has its effect on a part that has the engine. -/
theorem ciphWrite_taken (s : State) (b : Source) (a : Nat) (act : State → State) (takes : s.takes b a = true)
    (fitted : s.ciph.fitted = true) : s.ciphWrite b a act = act s := by
  unfold State.ciphWrite
  rw [byWrite_taken s b a _ takes, if_pos fitted]

/-! ### Contexts (R218, R219) -/

theorem State.ctx_modCtx (s : State) (c : Nat) (f : Ctx → Ctx) : (s.modCtx c f).ctx c = f (s.ctx c) := by
  unfold State.modCtx
  extract_lets x
  show (assocGet (if x = {} then assocDel s.ciph.ctxs c else assocPut s.ciph.ctxs c x) c).getD {} = x
  split
  next blank => rw [assocGet_del_same, blank]; rfl
  next => rw [assocGet_put_same]; rfl

theorem State.ctx_congr {s t : State} (h : t.ciph = s.ciph) (c : Nat) : t.ctx c = s.ctx c := by
  unfold State.ctx
  rw [h]

@[simp] theorem State.regs_modCtx (s : State) (c : Nat) (f : Ctx → Ctx) : (s.modCtx c f).regs = s.regs := rfl

/-- R219: a context that stops changes, beyond the alarm, nothing but itself. -/
theorem State.ciph_ctxStop (s : State) (c code : Nat) :
    (s.ctxStop c code).ciph.keys = s.ciph.keys ∧ (s.ctxStop c code).ciph.jobs = s.ciph.jobs := by
  unfold State.ctxStop
  extract_lets x
  split
  · exact ⟨rfl, rfl⟩
  · rw [State.raise_ciph]
    exact ⟨rfl, rfl⟩

@[simp] theorem State.keys_ctxStop (s : State) (c code : Nat) : (s.ctxStop c code).ciph.keys = s.ciph.keys :=
  (s.ciph_ctxStop c code).1

@[simp] theorem State.jobs_ctxStop (s : State) (c code : Nat) : (s.ctxStop c code).ciph.jobs = s.ciph.jobs :=
  (s.ciph_ctxStop c code).2

theorem State.ctxStop_frame (s : State) (c code : Nat) : Frame 134217745 s (s.ctxStop c code) :=
  State.ctxStop_fr s c code (.refl s)

/-- A field that is not the alarm of a stop holds what it held. -/
theorem State.is_ctxStop (s : State) (c code : Nat) (f : Fld)
    (h : fCIPH_ALARM_CTX_STOP.addr ≠ f.addr ∨ fCIPH_ALARM_CTX_STOP.beside f = true) : (s.ctxStop c code).is f = s.is f := by
  unfold State.ctxStop
  extract_lets x
  split
  · rfl
  · rcases h with elsewhere | beside
    · rw [State.is_raise_elsewhere _ _ _ elsewhere]
      rfl
    · rw [State.is_raise_beside _ _ _ beside]
      rfl

/-! ### The end of a job (R228) -/

/-- The registers that show a job's end: its words of STATUS and OUTLEN. -/
def jobRegs (j : Nat) : List Nat := [aCIPH_JOB_STATUS j, aCIPH_JOB_OUTLEN j]

theorem CiphState.keepEnd_same (c : CiphState) (j status len dst : Nat) :
    (c.keepEnd j status len dst).keys = c.keys ∧ (c.keepEnd j status len dst).jobs = c.jobs := by
  unfold CiphState.keepEnd
  split
  · split <;> exact ⟨rfl, rfl⟩
  · exact ⟨rfl, rfl⟩

/-- The words that show a job set: PHASE, CODE and OUTLEN. -/
def State.showJob (s : State) (j phase code out : Nat) : State :=
  ((s.set (fCIPH_JOB_STATUS_PHASE j) phase).set (fCIPH_JOB_STATUS_CODE j) code).setNat (aCIPH_JOB_OUTLEN j) out

theorem State.ciph_showJob (s : State) (j phase code out : Nat) : (s.showJob j phase code out).ciph = s.ciph := rfl

theorem State.showJob_regsBut (s : State) (j phase code out : Nat) : s.RegsBut (s.showJob j phase code out) (jobRegs j) := by
  have status : aCIPH_JOB_STATUS j ∈ jobRegs j := by simp [jobRegs]
  have outlen : aCIPH_JOB_OUTLEN j ∈ jobRegs j := by simp [jobRegs]
  exact (((State.RegsBut.refl s _).set (fCIPH_JOB_STATUS_PHASE j) _ status).set (fCIPH_JOB_STATUS_CODE j) _ status).setNat
    _ _ outlen

theorem outlen_ne_status (j : Nat) : aCIPH_JOB_OUTLEN j ≠ aCIPH_JOB_STATUS j := by
  unfold aCIPH_JOB_OUTLEN aCIPH_JOB_STATUS
  omega

theorem State.phase_showJob (s : State) (j phase code out : Nat) :
    (s.showJob j phase code out).get (fCIPH_JOB_STATUS_PHASE j) = phase % 8 := by
  unfold State.showJob
  rw [State.get_setNat_other _ _ _ _ (outlen_ne_status j), State.get_set_beside _ _ _ _ rfl, State.get_set_fits _ _ _ rfl]
  rfl

theorem State.code_showJob (s : State) (j phase code out : Nat) :
    (s.showJob j phase code out).get (fCIPH_JOB_STATUS_CODE j) = code % 16 := by
  unfold State.showJob
  rw [State.get_setNat_other _ _ _ _ (outlen_ne_status j), State.get_set_fits _ _ _ rfl]
  rfl

/-- A job's end shows its outcome, and changes no other register. -/
theorem State.regs_jobEnd (s : State) (j code out : Nat) : (s.jobEnd j code out).regs =
    (s.showJob j (if code = 0 then 4 else 5) code (if code = 0 then out else 0)).regs := by
  unfold State.jobEnd
  extract_lets u v c mine w old x
  split <;> rfl

/-- A job that ends leaves its descriptor. -/
theorem State.jobs_jobEnd (s : State) (j code out : Nat) : (s.jobEnd j code out).ciph.jobs = assocDel s.ciph.jobs j := by
  unfold State.jobEnd
  extract_lets u v c mine w old x
  have jobs : x.ciph.jobs = assocDel s.ciph.jobs j :=
    congrArg (fun l : List (Nat × JobRun) => assocDel l j) (v.ciph.keepEnd_same j _ _ _).2
  split
  · exact jobs
  · exact jobs

theorem State.keys_jobEnd (s : State) (j code out : Nat) : (s.jobEnd j code out).ciph.keys = s.ciph.keys := by
  unfold State.jobEnd
  extract_lets u v c mine w old x
  have keys : x.ciph.keys = s.ciph.keys := (v.ciph.keepEnd_same j _ _ _).1
  split
  · exact keys
  · exact keys

theorem State.jobEnd_regsBut (s : State) (j code out : Nat) : s.RegsBut (s.jobEnd j code out) (jobRegs j) :=
  (s.showJob_regsBut j _ _ _).same (s.regs_jobEnd j code out)

theorem State.jobEnd_frame (s : State) (j code out : Nat) : Frame 134217729 s (s.jobEnd j code out) :=
  State.jobEnd_fr s j code out (.refl s)

/-- The descriptors lie above the status and the alarms of CIPH. -/
theorem not_mem_jobRegs {a : Nat} (h : a < 0x700400) (j : Nat) : a ∉ jobRegs j := by
  simp only [jobRegs, aCIPH_JOB_STATUS, aCIPH_JOB_OUTLEN, List.mem_cons, List.not_mem_nil, or_false]
  omega

end Sys2Proof.Machine
end

section
/-!
SUPPORT. Randomness and key slots, of 09: health, reseeds, loads and zeroise (O27).
-/

namespace Sys2Proof.Machine

/-! ### Randomness (R212, R213) -/

theorem esHealthFail_shows (s : State) (up : s.ciphUp = true) : Completes (exec .esHealthFail s) fun t =>
    t.is fCIPH_STATUS_ES_OK = false ∧ t.is fCIPH_ALARM_ES_FAIL = true ∧
      s.RegsBut t [aCIPH_STATUS, aCIPH_ALARM] ∧ t.ciph = s.ciph := by
  have answers : exec .esHealthFail s = .next ((s.setB fCIPH_STATUS_ES_OK false).raise fCIPH_ALARM_ES_FAIL) := if_pos up
  refine .of_next answers ⟨?_, State.is_raise_fits _ _ rfl, ?_, State.raise_ciph _ _⟩
  · rw [State.is_raise_elsewhere _ _ _ (by decide), State.is_setB_fits _ _ _ rfl]
  · exact ((State.RegsBut.refl s _).setB _ _ (by decide)).raise _ (by decide)

/-- R212: a reseed shows the source healthy again (log entry 22, the model's choice). -/
theorem drbgReseed_shows (s : State) (i : Fin 21) (up : s.ciphUp = true) : Completes (exec (.drbgReseed i) s) fun t =>
    t.is fCIPH_STATUS_ES_OK = true ∧ s.RegsBut t [aCIPH_STATUS] ∧
      t.ciph = { s.ciph with reseed := setAt s.ciph.reseed i s.clk } := by
  refine .of_next (if_pos up) ⟨?_, ?_, rfl⟩
  · rw [State.is_setB_beside _ _ _ _ rfl, State.is_setB_fits _ _ _ rfl]
  · exact (((State.RegsBut.refl s _).same rfl).setB fCIPH_STATUS_ES_OK _ (by decide)).setB _ _ (by decide)

/-- What the failure of the random numbers leaves as its jobs and contexts end: the keys, time, and what shows the failure. -/
def State.rngShown (s : State) : List (Nat × Nat) × Nat × Bool × Bool :=
  (s.ciph.keys, s.clk, s.is fCIPH_STATUS_RNG_FAIL, s.is fCIPH_ALARM_RNG_FAIL)

theorem State.rngShown_jobEnd (s : State) (j code out : Nat) : (s.jobEnd j code out).rngShown = s.rngShown := by
  unfold State.rngShown
  rw [s.keys_jobEnd j code out, (s.jobEnd_frame j code out).clk,
    (s.jobEnd_regsBut j code out).is _ (not_mem_jobRegs (by decide) j),
    (s.jobEnd_regsBut j code out).is _ (not_mem_jobRegs (by decide) j)]

theorem State.rngShown_ctxStop (s : State) (c code : Nat) : (s.ctxStop c code).rngShown = s.rngShown := by
  unfold State.rngShown
  rw [s.keys_ctxStop c code, (s.ctxStop_frame c code).clk, s.is_ctxStop c code _ (.inl (by decide)),
    s.is_ctxStop c code _ (.inr rfl)]

/-- R213: the state in which the failure of the random numbers is found. -/
def State.rngFailed (s : State) : State :=
  ((s.waitClk (62500000 + s.ciph.reseed.foldl max 0)).setB fCIPH_STATUS_RNG_FAIL true).raise fCIPH_ALARM_RNG_FAIL

theorem State.rngShown_rngFailed (s : State) :
    s.rngFailed.rngShown = (s.ciph.keys, max s.clk (62500000 + s.ciph.reseed.foldl max 0), true, true) := by
  have keys : s.rngFailed.ciph.keys = s.ciph.keys := by
    unfold State.rngFailed
    rw [State.raise_ciph]
    exact waitClk_same (fun t => t.ciph.keys) (fun _ _ _ _ => rfl) s _
  have clk : s.rngFailed.clk = max s.clk (62500000 + s.ciph.reseed.foldl max 0) := by
    unfold State.rngFailed
    rw [State.raise_clk]
    exact waitClk_clk s _
  have status : s.rngFailed.is fCIPH_STATUS_RNG_FAIL = true := by
    unfold State.rngFailed
    rw [State.is_raise_elsewhere _ _ _ (by decide), State.is_setB_fits _ _ _ rfl]
  have alarm : s.rngFailed.is fCIPH_ALARM_RNG_FAIL = true := State.is_raise_fits _ _ rfl
  unfold State.rngShown
  rw [keys, clk, status, alarm]

/-- R213: the contexts that work stop, and their jobs end. -/
def State.rngStop (s : State) : State :=
  let stops := s.liveCtxs.filter fun c => (s.ctx c).state = 2 || (s.ctx c).state = 3
  stops.foldl (fun t c => t.ctxStop c 3)
    (s.ciph.jobs.foldl (fun t x => if x.2.phase != 1 && stops.any (t.onCtx x.1) then t.jobEnd x.1 11 0 else t) s)

theorem State.rngShown_rngStop (s : State) : s.rngStop.rngShown = s.rngShown := by
  unfold State.rngStop
  extract_lets stops
  refine (foldl_same State.rngShown _ (fun t c => t.rngShown_ctxStop c 3) _ _).trans ?_
  refine foldl_same State.rngShown _ (fun t x => ?_) _ s
  split
  · exact t.rngShown_jobEnd _ _ _
  · rfl

theorem rngFailTimeout_shows (s : State) (up : s.ciphUp = true) (sound : s.is fCIPH_STATUS_RNG_FAIL = false) :
    Completes (exec .rngFailTimeout s) fun t =>
      t.ciph.keys = s.ciph.keys ∧ t.is fCIPH_STATUS_RNG_FAIL = true ∧ t.is fCIPH_ALARM_RNG_FAIL = true ∧
      62500000 + s.ciph.reseed.foldl max 0 ≤ t.clk := by
  have answers : exec .rngFailTimeout s = .next s.rngFailed.rngStop := if_pos (by simp [up, sound])
  have shown := s.rngFailed.rngShown_rngStop.trans s.rngShown_rngFailed
  obtain ⟨keys, clk, status, alarm⟩ : _ ∧ _ ∧ _ ∧ _ := by simpa only [State.rngShown, Prod.mk.injEq] using shown
  exact .of_next answers ⟨keys, status, alarm, clk ▸ Nat.le_max_right _ _⟩

/-! ### The result of a key operation (R233) -/

theorem State.regs_keyResult (s : State) (b : Source) (slot code : Nat) : (s.keyResult b slot code).regs = s.regs :=
  State.regs_answer _ _ _

/-- The result of an operation on a slot is kept beside the keys, which it leaves. -/
theorem State.ciph_keyResult (s : State) (b : Source) (slot code : Nat) :
    (s.keyResult b slot code).ciph.keys = s.ciph.keys ∧
      assocGet (s.keyResult b slot code).ciph.results slot = some code := by
  unfold State.keyResult
  rw [State.answer_ciph]
  cases b <;> exact ⟨rfl, assocGet_put_same _ _ _⟩

/-! ### Clear loads (R215, R216) -/

theorem keyLoadClear_next (s : State) (b : Source) (slot : Fin 8192) (key : BitVec 256)
    (takes : s.takes b aCIPH_KEY_CMD = true) (fitted : s.ciph.fitted = true) :
    exec (.keyLoadClear b slot key) s = .next (s.loadClear b slot key.toNat) :=
  congrArg Host.Outcome.next (ciphWrite_taken s b _ _ takes fitted)

theorem State.keyLoad_forbidden (s : State) (slot key : Nat) :
    s.keyLoad slot key false = (s.raise fCIPH_ALARM_KEY_REFUSED, 7) := rfl

theorem State.keyLoad_referenced (s : State) (slot key : Nat) (refs : s.keyRefs slot ≠ 0) :
    s.keyLoad slot key true = (s.raise fCIPH_ALARM_KEY_REFUSED, 8) := if_pos refs

theorem State.keyLoad_taken (s : State) (slot key : Nat) (refs : s.keyRefs slot = 0) (idle : s.ciph.zeroing = false) :
    s.keyLoad slot key true = ({ s with ciph := { s.ciph with keys := assocPut s.ciph.keys slot key } }, 0) := by
  unfold State.keyLoad
  rw [if_neg (by decide), if_neg (by simpa using refs), if_neg (by simp [idle])]

/-- R215, R216: a load that is refused, with its code, leaves the keys. -/
theorem State.loadClear_refused (s : State) (b : Source) (slot key code : Nat)
    (refused : s.keyLoad slot key (s.mayLoad slot (initOf b)) = (s.raise fCIPH_ALARM_KEY_REFUSED, code)) :
    (s.loadClear b slot key).ciph.keys = s.ciph.keys ∧ (s.loadClear b slot key).is fCIPH_ALARM_KEY_REFUSED = true ∧
      assocGet (s.loadClear b slot key).ciph.results slot = some code := by
  unfold State.loadClear
  rw [refused]
  obtain ⟨keys, result⟩ := (s.raise fCIPH_ALARM_KEY_REFUSED).ciph_keyResult b slot code
  refine ⟨?_, ?_, result⟩
  · rw [keys, State.raise_ciph]
  · rw [State.is_congr (State.regs_keyResult _ _ _ _), State.is_raise_fits _ _ rfl]

theorem State.key_congr {s t : State} (h : t.ciph.keys = s.ciph.keys) (k : Nat) : t.key k = s.key k := by
  unfold State.key
  rw [h]

/-- R216: a load that is taken sets its slot and no other. -/
theorem State.loadClear_taken (s : State) (b : Source) (slot key : Nat) (may : s.mayLoad slot (initOf b) = true)
    (refs : s.keyRefs slot = 0) (idle : s.ciph.zeroing = false) :
    (s.loadClear b slot key).regs = s.regs ∧ (s.loadClear b slot key).key slot = some key ∧
      (∀ k, k ≠ slot → (s.loadClear b slot key).key k = s.key k) ∧
      assocGet (s.loadClear b slot key).ciph.results slot = some 0 := by
  unfold State.loadClear
  rw [may, s.keyLoad_taken slot key refs idle]
  extract_lets old load
  obtain ⟨keys, result⟩ := load.1.ciph_keyResult b slot load.2
  refine ⟨State.regs_keyResult _ _ _ _, ?_, fun k other => ?_, result⟩
  · rw [State.key_congr keys]
    exact assocGet_put_same _ _ _
  · rw [State.key_congr keys]
    exact assocGet_put_other _ _ _ _ other.symm

/-! ### Zeroise (R217) -/

theorem State.keys_jobWipe (s : State) (j : Nat) : (s.jobWipe j).ciph.keys = s.ciph.keys := by
  rw [(State.jobWipe_fr s j (.refl s) : Frame 2113553 s _).ciph]

theorem assocGet_filter_key {α : Type} (l : List (Nat × α)) (p : Nat → Bool) (k : Nat) :
    assocGet (l.filter fun x => p x.1) k = if p k then assocGet l k else none := by
  induction l with
  | nil => simp [assocGet]
  | cons x l ih =>
    by_cases own : x.1 = k
    · subst own
      cases keeps : p x.1 <;> simp [keeps, ih, assocGet]
    · cases keeps : p x.1 <;> simp [keeps, own, ih, assocGet]

/-- R217: of the keys, those of the slots named go and the others stay. -/
theorem State.keys_zeroise (s : State) (p : Nat → Bool) :
    (s.zeroise p).ciph.keys = s.ciph.keys.filter fun k => !p k.1 := by
  unfold State.zeroise
  extract_lets ended old emptied
  have jobs : ended.ciph.keys = s.ciph.keys := by
    refine foldl_same (fun t => t.ciph.keys) _ (fun t x => ?_) _ _
    split
    · rw [State.keys_jobEnd, State.keys_jobWipe]
    · rfl
  refine (foldl_same (fun t => t.ciph.keys) _ (fun t c => ?_) _ emptied).trans (congrArg (List.filter _) jobs)
  extract_lets stopped next
  have current : stopped.ciph.keys = t.ciph.keys := by
    unfold stopped
    split
    · exact t.keys_ctxStop _ _
    · rfl
  have follower : next.ciph.keys = stopped.ciph.keys := by
    unfold next
    split <;> rfl
  exact follower.trans current

theorem State.key_zeroise (s : State) (p : Nat → Bool) (k : Nat) : (s.zeroise p).key k = if p k then none else s.key k := by
  unfold State.key
  rw [s.keys_zeroise p, assocGet_filter_key s.ciph.keys (fun k => !p k) k]
  cases p k <;> rfl

theorem keyZeroise_next (s : State) (b : Source) (slot : Fin 8192) (takes : s.takes b aCIPH_KEY_CMD = true)
    (fitted : s.ciph.fitted = true) : exec (.keyZeroise b slot) s = .next (s.zeroiseSlot b slot) :=
  congrArg Host.Outcome.next (ciphWrite_taken s b _ _ takes fitted)

theorem State.zeroiseSlot_empties (s : State) (b : Source) (slot : Nat) :
    (s.zeroiseSlot b slot).key slot = none ∧ (∀ k, k ≠ slot → (s.zeroiseSlot b slot).key k = s.key k) ∧
      (s.zeroiseSlot b slot).is fCIPH_ALARM_ZEROISED = true ∧
      assocGet (s.zeroiseSlot b slot).ciph.results slot = some 0 := by
  obtain ⟨kept, result⟩ := ((s.zeroise fun k => k == slot).raise fCIPH_ALARM_ZEROISED).ciph_keyResult b slot 0
  have key : ∀ k, (s.zeroiseSlot b slot).key k = if k == slot then none else s.key k := fun k => by
    rw [← s.key_zeroise (fun k => k == slot) k]
    exact State.key_congr (kept.trans (by rw [State.raise_ciph])) k
  refine ⟨?_, fun k other => ?_, ?_, result⟩
  · rw [key, if_pos (beq_self_eq_true slot)]
  · rw [key, if_neg (by simpa using other)]
  · exact (State.is_congr (State.regs_keyResult _ _ _ _) _).trans (State.is_raise_fits _ _ rfl)

theorem zeroAll_next (s : State) (b : Source) (takes : s.takes b aCIPH_CTRL = true) (fitted : s.ciph.fitted = true) :
    exec (.zeroAll b) s = .next (s.zeroAll.answer b .ok) :=
  congrArg Host.Outcome.next (ciphWrite_taken s b _ _ takes fitted)

theorem State.keys_zeroAll (s : State) : s.zeroAll.ciph.keys = [] :=
  (s.keys_zeroise fun _ => true).trans (by simp)

theorem zeroAllClearDone_clears (s : State) (zeroing : s.ciph.zeroing = true) :
    Completes (exec .zeroAllClearDone s) fun t => t.ciph.keys = [] ∧ t.ciph.zeroing = false ∧
      t.is fCIPH_ALARM_ZEROISED = true ∧ s.RegsBut t [aCIPH_ALARM] := by
  have answers : exec .zeroAllClearDone s =
      .next (({ s with ciph := { s.ciph with zeroing := false, keys := [] } } : State).raise fCIPH_ALARM_ZEROISED) :=
    if_pos zeroing
  refine .of_next answers ⟨?_, ?_, State.is_raise_fits _ _ rfl, ?_⟩
  · rw [State.raise_ciph]
  · rw [State.raise_ciph]
  · have cleared : s.RegsBut { s with ciph := { s.ciph with zeroing := false, keys := [] } } [aCIPH_ALARM] :=
      (State.RegsBut.refl s _).same rfl
    exact cleared.raise _ (by decide)

/-- Settles O27: a load has the code of the check that it fails, and a zeroise filters the keys by their slots. -/
theorem cipherKeys : Obligations.CipherKeys := by
  intro s b i slot key
  refine ⟨fun up => ⟨esHealthFail_shows s up, drbgReseed_shows s i up, rngFailTimeout_shows s up⟩, fun takes fitted => ?_,
    fun takes fitted => ?_, zeroAllClearDone_clears s⟩
  · refine ⟨fun forbidden => ?_, fun may refs => ?_, fun may refs idle => ?_, ?_⟩
    · exact .of_next (keyLoadClear_next s b slot key takes fitted)
        (s.loadClear_refused b _ _ 7 (by rw [forbidden, State.keyLoad_forbidden]))
    · exact .of_next (keyLoadClear_next s b slot key takes fitted)
        (s.loadClear_refused b _ _ 8 (by rw [may, State.keyLoad_referenced s _ _ refs]))
    · exact .of_next (keyLoadClear_next s b slot key takes fitted) (s.loadClear_taken b _ _ may refs idle)
    · exact .of_next (keyZeroise_next s b slot takes fitted) (s.zeroiseSlot_empties b slot)
  · refine .of_next (zeroAll_next s b takes fitted) ?_
    rw [State.answer_ciph]
    exact ⟨s.keys_zeroAll, rfl⟩

end Sys2Proof.Machine
end

section
/-!
SUPPORT. Direct IV loads and previous keys of contexts, of 09 (O28).
-/

namespace Sys2Proof.Machine

/-! ### Values of three words (R218) -/

theorem State.wordsFrom_three (s : State) (a : Nat) :
    s.wordsFrom a 3 = 2 ^ 64 * s.nat a + 2 ^ 32 * s.nat (a + 4) + s.nat (a + 8) := by
  show 2 ^ 32 * (2 ^ 32 * (2 ^ 32 * 0 + s.nat (a + 0)) + s.nat (a + 4)) + s.nat (a + 8) = _
  rw [Nat.add_zero a]
  omega

theorem State.setWordsFrom_three (s : State) (a v : Nat) :
    s.setWordsFrom a 3 v = ((s.setNat a (v / 2 ^ 64)).setNat (a + 4) (v / 2 ^ 32)).setNat (a + 8) v := by
  show ((s.setNat (a + 0) (v / 2 ^ 64)).setNat (a + 4) (v / 2 ^ 32)).setNat (a + 8) (v / 2 ^ 0) = _
  rw [Nat.add_zero a, Nat.pow_zero, Nat.div_one]

/-- A value of three words set reads back, modulo 2^96. -/
theorem State.wordsFrom_setWordsFrom (s : State) (a v : Nat) : (s.setWordsFrom a 3 v).wordsFrom a 3 = v % 2 ^ 96 := by
  simp (disch := omega) only [State.wordsFrom_three, State.setWordsFrom_three, State.nat_setNat_other, State.nat_setNat_same]
  omega

/-- The counter i of a context is no word of its IV_BASE. -/
theorem State.ctxIv_setCtxI (s : State) (c i : Nat) : (s.setCtxI c i).ctxIv c = s.ctxIv c := by
  have words : s.RegsBut (s.setCtxI c i) [aCtxCnt c 0, aCtxCnt c 0 + 4] :=
    ((State.RegsBut.refl s _).setNat _ _ (by simp)).setNat _ _ (by simp)
  have apart : ∀ k ≤ 8, aCtxCfg c 5 + k ∉ [aCtxCnt c 0, aCtxCnt c 0 + 4] := fun k low => by
    simp only [aCtxCfg, aCtxCnt, List.mem_cons, List.not_mem_nil, or_false]
    omega
  unfold State.ctxIv
  rw [State.wordsFrom_three, State.wordsFrom_three, words.nat (aCtxCfg c 5) (apart 0 (by decide)),
    words.nat _ (apart 4 (by decide)), words.nat _ (apart 8 (by decide))]

/-! ### Direct IV loads (R219, R221) -/

theorem ctxIvLoad_next (s : State) (b : Source) (c : BitVec 16) (iv : BitVec 128)
    (takes : s.takes b (aCIPH_CTX_IV 3) = true) (fitted : s.ciph.fitted = true) : exec (.ctxIvLoad b c iv) s =
      .next ((s.directIv c.toNat iv.toNat).1.answer b (s.directIv c.toNat iv.toNat).2) :=
  congrArg Host.Outcome.next (ciphWrite_taken s b _ _ takes fitted)

/-- R221: the IV_BASE or chaining value of the 128 bits of a load (log entry 22, the model's choice). -/
def State.loadValue (s : State) (c iv : Nat) : Nat := if chainMode (s.ctxMode c) then iv else iv / 2 ^ 32

theorem State.directIv_outside (s : State) (c iv : Nat)
    (outside : (s.ctx c).state = 0 ∨ s.get (fCtxBind c) ≠ 1 ∨ s.busyCtx c = true) : s.directIv c iv = (s, .ciph 12) :=
  if_pos (by simpa [or_assoc] using outside)

section Load

variable {s : State} {c iv : Nat} (bound : (s.ctx c).state ≠ 0) (message : s.get (fCtxBind c) = 1) (rest : s.busyCtx c = false)

include bound message rest

theorem State.directIv_repeats (repeats : (s.ctx c).lastLoad = some (ivValue (chainMode (s.ctxMode c)) (s.loadValue c iv) 0)) :
    s.directIv c iv = (s.raise fCIPH_ALARM_IV_REPEAT, .ciph 5) :=
  (if_neg (by simp [bound, message, rest])).trans (if_pos repeats)

theorem State.directIv_loads (new : (s.ctx c).lastLoad ≠ some (ivValue (chainMode (s.ctxMode c)) (s.loadValue c iv) 0)) :
    s.directIv c iv = ((s.loadIv c (s.loadValue c iv) 0).modCtx c fun x => { x with state := if x.state = 4 then 1 else x.state },
      .ok) :=
  (if_neg (by simp [bound, message, rest])).trans (if_neg new)

end Load

/-- R221: the context after a load: the value kept, an unfinished message dropped. -/
theorem State.ctx_loadIv (s : State) (c iv i : Nat) : (s.loadIv c iv i).ctx c = { s.ctx c with
    lastLoad := some (ivValue (chainMode (s.ctxMode c)) iv i), chain := if chainMode (s.ctxMode c) then iv else 0
    ghash := 0, bytes := 0, aad := 0, part := [], open_ := false } := by
  unfold State.loadIv
  extract_lets ch u
  have before : u.ctx c = s.ctx c := State.ctx_congr (by unfold u; split <;> rfl) c
  rw [State.ctx_modCtx, before]

theorem State.regs_loadIv_chain (s : State) (c iv i : Nat) (chain : chainMode (s.ctxMode c) = true) :
    (s.loadIv c iv i).regs = s.regs := by
  unfold State.loadIv
  extract_lets ch u
  have kept : u = s := if_pos chain
  rw [State.regs_modCtx, kept]

theorem State.regs_loadIv_counter (s : State) (c iv i : Nat) (counter : chainMode (s.ctxMode c) = false) :
    (s.loadIv c iv i).regs = ((s.setWordsFrom (aCtxCfg c 5) 3 iv).setCtxI c i).regs := by
  unfold State.loadIv
  extract_lets ch u
  have set : u = (s.setWordsFrom (aCtxCfg c 5) 3 iv).setCtxI c i := if_neg (by simp [ch, counter])
  rw [State.regs_modCtx, set]

theorem State.ctxIv_congr {s t : State} (h : t.regs = s.regs) (c : Nat) : t.ctxIv c = s.ctxIv c := by
  unfold State.ctxIv State.wordsFrom
  simp only [State.nat_congr h]

theorem State.ctxI_congr {s t : State} (h : t.regs = s.regs) (c : Nat) : t.ctxI c = s.ctxI c := by
  unfold State.ctxI State.wide
  simp only [State.nat_congr h]

/-- R220, R221: where the mode counts, a load sets IV_BASE and i. -/
theorem State.loadIv_counter (s : State) {c iv : Nat} (hiv : iv < 2 ^ 96)
    (counter : chainMode (s.ctxMode c) = false) : (s.loadIv c iv 0).ctxI c = 0 ∧ (s.loadIv c iv 0).ctxIv c = iv := by
  have regs := s.regs_loadIv_counter c iv 0 counter
  constructor
  · rw [State.ctxI_congr regs]
    exact State.wide_setWide _ _ _
  · rw [State.ctxIv_congr regs, State.ctxIv_setCtxI]
    exact (State.wordsFrom_setWordsFrom _ _ _).trans (Nat.mod_eq_of_lt hiv)

/-- R226: the previous key of a context goes, and no key slot with it. -/
theorem prevKeyRelease_releases (s : State) (c : BitVec 16) (p : PrevKey) (held : (s.ctx c.toNat).prev = some p) :
    Completes (exec (.prevKeyRelease c) s) fun t =>
      (t.ctx c.toNat).prev = none ∧ p.release ≤ t.clk ∧ t.regs = s.regs ∧ t.ciph.keys = s.ciph.keys := by
  have answers : exec (.prevKeyRelease c) s =
      .next ((s.waitClk p.release).modCtx c.toNat fun x => { x with prev := none }) := by
    show execPrevKeyRelease c s = _
    unfold execPrevKeyRelease
    rw [held]
  refine .of_next answers ⟨?_, ?_, s.regs_waitClk p.release, ?_⟩
  · rw [State.ctx_modCtx]
  · show p.release ≤ (s.waitClk p.release).clk
    rw [waitClk_clk]
    exact Nat.le_max_right _ _
  · exact waitClk_same (fun t => t.ciph.keys) (fun _ _ _ _ => rfl) s _

/-- Settles O28: a load is refused, or makes the context the one of `ctx_loadIv`. -/
theorem cipherContexts : Obligations.CipherContexts := by
  rintro s b c iv _ _ rfl rfl
  refine ⟨fun takes fitted => ⟨fun outside => ?_, fun bound message rest => ⟨fun repeats => ?_, fun new => ?_⟩⟩,
    prevKeyRelease_releases s c⟩
  · refine .of_next (ctxIvLoad_next s b c iv takes fitted) ?_
    rw [s.directIv_outside c.toNat iv.toNat outside, State.answer_ciph, State.regs_answer]
    exact ⟨rfl, rfl⟩
  · refine .of_next (ctxIvLoad_next s b c iv takes fitted) ?_
    rw [State.directIv_repeats bound message rest repeats, State.answer_ciph]
    have alarmed := State.regs_answer (s.raise fCIPH_ALARM_IV_REPEAT) b (.ciph 5)
    refine ⟨State.raise_ciph _ _, ?_, ?_⟩
    · rw [State.is_congr alarmed, State.is_raise_fits _ _ rfl]
    · exact ((State.RegsBut.refl s _).raise _ (by decide)).same alarmed
  · refine .of_next (ctxIvLoad_next s b c iv takes fitted) ?_
    rw [State.directIv_loads bound message rest new]
    have regs : ∀ u : State, (u.answer b .ok).regs = u.regs := fun u => State.regs_answer u b .ok
    rw [State.ctx_congr (State.answer_ciph _ b .ok), State.ctx_modCtx, State.ctx_loadIv]
    refine ⟨rfl, rfl, rfl, fun chain => ⟨if_pos chain, ?_⟩, fun counter => ?_⟩
    · rw [regs, State.regs_modCtx, State.regs_loadIv_chain _ _ _ _ chain]
    · have value : s.loadValue c.toNat iv.toNat < 2 ^ 96 := by
        have bits := iv.isLt
        unfold State.loadValue
        rw [counter]
        exact Nat.div_lt_of_lt_mul bits
      rw [State.ctxI_congr (regs _), State.ctxIv_congr (regs _)]
      exact s.loadIv_counter value counter

end Sys2Proof.Machine
end

section
/-!
SUPPORT. The jobs of the message engine, of 09: submission, start, resumption and the end of a segment (O29).
-/

namespace Sys2Proof.Machine

/-! ### Descriptors (R228) -/

/-- The words of descriptor `j` hold an operation and its operands. -/
structure Describes (j op : Nat) (d : JobDesc) (s : State) : Prop where
  op : s.jobOp j = op
  ctx : s.jobCtx j = d.ctx.toNat
  len : s.jobLen j = d.len % 2 ^ 32
  src : s.jobSrc j = d.src % 2 ^ 32
  dst : s.jobDst j = d.dst % 2 ^ 32
  final : s.jobFinal j = d.final

/-- The registers of descriptor `j` that a submission writes. -/
def descRegs (j : Nat) : List Nat :=
  [aCIPH_JOB_CTRL j, aCIPH_JOB_CTX j, aCIPH_JOB_LEN j, aCIPH_JOB_AAD j, aCIPH_JOB_SRC j, aCIPH_JOB_DST j]

/-- The descriptors lie above the status of CIPH, and far above GLB. -/
theorem not_mem_descRegs {a : Nat} (h : a < 0x700400) (j : Nat) : a ∉ descRegs j := by
  simp only [descRegs, aCIPH_JOB_CTRL, aCIPH_JOB_CTX, aCIPH_JOB_LEN, aCIPH_JOB_AAD, aCIPH_JOB_SRC, aCIPH_JOB_DST,
    List.mem_cons, List.not_mem_nil, or_false]
  omega

theorem State.putJob_regsBut (s : State) (j op : Nat) (d : JobDesc) : s.RegsBut (s.putJob j op d) (descRegs j) :=
  ((((((State.RegsBut.refl s _).setNat _ _ (by simp [descRegs])).setNat _ _ (by simp [descRegs])).setNat _ _
    (by simp [descRegs])).setNat _ _ (by simp [descRegs])).setNat _ _ (by simp [descRegs])).setNat _ _ (by simp [descRegs])

/-- A put descriptor holds what was put. -/
theorem State.putJob_describes (s : State) (j : Nat) {op : Nat} (hop : op < 8) (d : JobDesc) :
    Describes j op d (s.putJob j op d) := by
  have prio := d.prio.isLt
  have bit : b2n d.final ≤ 1 := by cases d.final <;> decide
  have ctrl : (s.putJob j op d).nat (aCIPH_JOB_CTRL j) = op + 16 * d.prio.val + 256 * b2n d.final := by
    simp (disch := omega) only [State.putJob, aCIPH_JOB_CTRL, aCIPH_JOB_CTX, aCIPH_JOB_LEN, aCIPH_JOB_AAD, aCIPH_JOB_SRC,
      aCIPH_JOB_DST, State.nat_setNat_other, State.nat_setNat_fits]
  have word : (s.putJob j op d).nat (aCIPH_JOB_CTX j) = d.ctx.toNat ∧
      (s.putJob j op d).nat (aCIPH_JOB_LEN j) = d.len % 2 ^ 32 ∧
      (s.putJob j op d).nat (aCIPH_JOB_SRC j) = d.src % 2 ^ 32 ∧ (s.putJob j op d).nat (aCIPH_JOB_DST j) = d.dst % 2 ^ 32 := by
    simp (disch := omega) only [State.putJob, aCIPH_JOB_CTRL, aCIPH_JOB_CTX, aCIPH_JOB_LEN, aCIPH_JOB_AAD, aCIPH_JOB_SRC,
      aCIPH_JOB_DST, State.nat_setNat_other, State.nat_setNat_same, and_true]
    exact Nat.mod_eq_of_lt (by omega)
  obtain ⟨ctx, len, src, dst⟩ := word
  refine ⟨?_, ?_, len, src, dst, ?_⟩
  · show bitsOf ((s.putJob j op d).nat (aCIPH_JOB_CTRL j)) 0 3 = op
    rw [ctrl]
    unfold bitsOf
    omega
  · show (s.putJob j op d).nat (aCIPH_JOB_CTX j) % 65536 = _
    rw [ctx]
    exact Nat.mod_eq_of_lt d.ctx.isLt
  · show (bitsOf ((s.putJob j op d).nat (aCIPH_JOB_CTRL j)) 8 1 != 0) = d.final
    have field : bitsOf ((s.putJob j op d).nat (aCIPH_JOB_CTRL j)) 8 1 = b2n d.final := by
      rw [ctrl]
      unfold bitsOf
      omega
    rw [field]
    cases d.final <;> rfl

/-! ### Submission (R217, R228, R435) -/

/-- A job is queued in descriptor `j`, and the descriptor but START and what shows the job is as it was put. -/
structure Queued (b : Source) (j : Nat) (s t : State) : Prop where
  phase : t.get (fCIPH_JOB_STATUS_PHASE j) = 1
  code : t.get (fCIPH_JOB_STATUS_CODE j) = 0
  keys : t.ciph.keys = s.ciph.keys
  entry : ∃ r, assocGet t.ciph.jobs j = some r ∧ r.phase = 1 ∧ r.owner = b ∧ r.order = s.ciph.jobOrder
  regs : (s.setB (fCIPH_JOB_CTRL_START j) false).RegsBut t (jobRegs j)

theorem State.safe_congr_reg {s t : State} (h : t.reg aGLB_SAFE = s.reg aGLB_SAFE) (k : Nat) : t.safe k = s.safe k := by
  unfold State.safe
  rw [h]

/-- A free descriptor takes a job while the random numbers are good and CIPH is not in its safe state. -/
theorem State.queueJob_queued (s : State) (b : Source) (j : Nat) (free : (s.ciph.jobs.any fun p => p.1 == j) = false)
    (sound : s.is fCIPH_STATUS_RNG_FAIL = false) (active : s.safe 10 = false) : Queued b j s (s.queueJob b j) := by
  have start : s.RegsBut (s.setB (fCIPH_JOB_CTRL_START j) false) (descRegs j) :=
    (State.RegsBut.refl s _).setB _ _ List.mem_cons_self
  unfold State.queueJob
  extract_lets u r last old v
  have free : (u.ciph.jobs.any fun p => p.1 == j) = false := free
  have regs : v.regs = u.regs := by simp only [v]
  have keys : v.ciph.keys = s.ciph.keys := by simp only [v, old]; rfl
  have entry : assocGet v.ciph.jobs j = some r := by simp only [v]; exact assocGet_put_same _ _ _
  clear_value v
  have entered : s.RegsBut v (descRegs j) := start.same regs
  have sound : v.is fCIPH_STATUS_RNG_FAIL = false := (entered.is _ (not_mem_descRegs (by decide) j)).trans sound
  have active : v.safe 10 = false := (State.safe_congr_reg (entered _ (not_mem_descRegs (by decide) j)) 10).trans active
  rw [if_neg (by simp [free]), if_neg (by simp [sound]), if_neg (by simp [active])]
  show Queued b j s ((v.showJob j 1 0 0).answer b .ok)
  have shown := State.regs_answer (v.showJob j 1 0 0) b .ok
  have ciph : ((v.showJob j 1 0 0).answer b .ok).ciph = v.ciph := by
    rw [State.answer_ciph, State.ciph_showJob]
  exact {
    phase := (State.get_congr shown _).trans (v.phase_showJob j 1 0 0)
    code := (State.get_congr shown _).trans (v.code_showJob j 1 0 0)
    keys := by rw [ciph, keys]
    entry := ⟨r, by rw [ciph, entry], rfl, rfl, rfl⟩
    regs := (((State.RegsBut.refl u _).same regs).trans (v.showJob_regsBut j 1 0 0)).same shown }

/-- The descriptor of a queued job still holds what was put. -/
theorem Queued.describes {b : Source} {j op : Nat} {d : JobDesc} {s t : State} (q : Queued b j s t) (h : Describes j op d s) :
    Describes j op d t := by
  have ctrl : aCIPH_JOB_CTRL j ∉ jobRegs j := by
    simp only [jobRegs, aCIPH_JOB_CTRL, aCIPH_JOB_STATUS, aCIPH_JOB_OUTLEN, List.mem_cons, List.not_mem_nil, or_false]
    omega
  have bits : ∀ f : Fld, f.addr = aCIPH_JOB_CTRL j → (fCIPH_JOB_CTRL_START j).beside f = true → t.get f = s.get f :=
    fun f own beside => (q.regs.get f (own ▸ ctrl)).trans (State.get_setB_beside s _ _ _ beside)
  -- the words of CTX, LEN, SRC and DST, by their offsets in the descriptor
  have word : ∀ k, k = 0x4 ∨ k = 0x8 ∨ k = 0x10 ∨ k = 0x14 →
      t.nat (0x700400 + k + 0x20 * j) = s.nat (0x700400 + k + 0x20 * j) := fun k operand => by
    have shown : 0x700400 + k + 0x20 * j ∉ jobRegs j := by
      simp only [jobRegs, aCIPH_JOB_STATUS, aCIPH_JOB_OUTLEN, List.mem_cons, List.not_mem_nil, or_false]
      omega
    have start : aCIPH_JOB_CTRL j ≠ 0x700400 + k + 0x20 * j := by
      unfold aCIPH_JOB_CTRL
      omega
    exact (q.regs.nat _ shown).trans (State.nat_setB_other s _ _ _ start)
  exact {
    op := (bits _ rfl rfl).trans h.op
    ctx := (congrArg (· % 65536) (word 0x4 (by decide))).trans h.ctx
    len := (word 0x8 (by decide)).trans h.len
    src := (word 0x10 (by decide)).trans h.src
    dst := (word 0x14 (by decide)).trans h.dst
    final := (congrArg (· != 0) (bits (fCIPH_JOB_CTRL_FINAL j) rfl rfl)).trans h.final }

/-- The eight commands that submit a job, with their operations. -/
def submissions (b : Source) (j : Fin 16) (d : JobDesc) : List (Instr × Nat) :=
  [(.jobEnc b j d, 0), (.jobDec b j d, 1), (.jobWrapKey b j d, 2), (.jobUnwrapKey b j d, 3), (.jobWrapCtx b j d, 4),
    (.jobUnwrapCtx b j d, 5), (.jobSaveClear b j d, 6), (.jobRestoreClear b j d, 7)]

theorem exec_submission (s : State) {b : Source} {j : Fin 16} {d : JobDesc} {x : Instr × Nat} (m : x ∈ submissions b j d) :
    x.2 < 8 ∧ exec x.1 s = .next (s.submit b j x.2 d) := by
  simp only [submissions, List.mem_cons, List.not_mem_nil, or_false] at m
  rcases m with rfl | rfl | rfl | rfl | rfl | rfl | rfl | rfl <;> exact ⟨Nat.le_of_ble_eq_true rfl, rfl⟩

theorem State.submit_pcie (s : State) (j op : Nat) (d : JobDesc) (takes : s.takes .pcie (aCIPH_JOB_CTRL j) = true)
    (fitted : s.ciph.fitted = true) (free : (s.ciph.jobs.any fun p => p.1 == j) = false) :
    s.submit .pcie j op d = (s.putJob j op d).queueJob .pcie j :=
  (ciphWrite_taken s .pcie _ _ takes fitted).trans (if_neg (by simp [free]))

theorem State.submit_cop (s : State) (session j op k : Nat) (d : JobDesc)
    (takes : s.takes (.cop session) (aCIPH_JOB_CTRL j) = true) (fitted : s.ciph.fitted = true)
    (lowest : ((List.range 16).find? fun k => !(s.ciph.jobs.any fun p => p.1 == k)) = some k) :
    s.submit (.cop session) j op d =
      ((s.putJob k op d).bufPut d.src (d.data.take (262144 - d.src))).queueJob (.cop session) k := by
  refine (ciphWrite_taken s (.cop session) _ _ takes fitted).trans ?_
  dsimp only
  rw [lowest]

theorem State.ciph_bufPut (s : State) (ofs : Nat) (bs : List Byte) : (s.bufPut ofs bs).ciph = s.ciph :=
  (State.bufPut_fr s ofs bs (.refl s) : Frame 2113553 s _).ciph

/-! ### Start and resumption (R230) -/

theorem State.takeCore_free (s : State) (x : Nat × JobRun) (free : s.running.length < 2) : s.takeCore x = some s := if_pos free

/-- R219: the context of a job that runs is `ACTIVE`. -/
def State.jobActive (s : State) (j : Nat) : State :=
  if s.onCtx j (s.jobCtx j) then s.modCtx (s.jobCtx j) fun x => { x with state := 2 } else s

theorem State.jobActive_frame (s : State) (j : Nat) : Frame 134217728 s (s.jobActive j) :=
  ite_fr _ _ _ (State.modCtx_fr s _ _ (.refl s)) (.refl s)

theorem State.jobs_jobActive (s : State) (j : Nat) : (s.jobActive j).ciph.jobs = s.ciph.jobs := by
  unfold State.jobActive
  split <;> rfl

/-- R229, R230: a job enters a core: its context is `ACTIVE`, its message open. -/
def State.jobEnter (s : State) (j : Nat) : State :=
  if (s.jobActive j).jobOp j ≤ 1 then (s.jobActive j).openMsg j else s.jobActive j

theorem State.jobEnter_frame (s : State) (j : Nat) : Frame 134217728 s (s.jobEnter j) :=
  ite_fr _ _ _ (State.openMsg_fr _ j (s.jobActive_frame j)) (s.jobActive_frame j)

theorem State.startJob_refused (s : State) (k : Nat) (r : JobRun) {code stop : Nat}
    (refused : s.jobRefusal k = some (code, stop)) :
    s.startJob k r = (if stop = 0 then s else s.ctxStop (s.jobCtx k) stop).jobEnd k code 0 := by
  unfold State.startJob
  rw [refused]

theorem State.startJob_enters (s : State) (k : Nat) (r : JobRun) (fit : s.jobRefusal k = none) :
    s.startJob k r = (s.jobEnter k).setJob k
      { r with phase := 2, at_ := (s.jobEnter k).clk, done := 0, blocks := (s.jobEnter k).jobBlocks k } := by
  unfold State.startJob
  rw [fit]
  rfl

section Next

variable {s : State} {k : Nat} {r : JobRun} (next : s.nextJob = some (k, r)) (up : s.ciphUp = true)
  (free : s.running.length < 2)

include next up free

theorem exec_jobStart (queued : r.phase = 1) : exec .jobStart s = .next (s.startJob k r) := by
  show execJobStart s = _
  unfold execJobStart
  rw [next]
  dsimp only
  rw [if_neg (by simp [queued, up]), s.takeCore_free (k, r) free]

theorem exec_jobResume (suspended : r.phase = 3) : exec .jobResume s =
    .next ((s.setJob k { r with phase := 2, at_ := s.clk }).jobActive k) := by
  show execJobResume s = _
  unfold execJobResume
  rw [next]
  dsimp only
  rw [if_neg (by simp [suspended, up]), s.takeCore_free (k, r) free]
  rfl

end Next

theorem State.get_setJob_phase (s : State) (j : Nat) (r : JobRun) :
    (s.setJob j r).get (fCIPH_JOB_STATUS_PHASE j) = r.phase % 8 := State.get_set_fits _ _ _ rfl

theorem State.job_setJob (s : State) (j : Nat) (r : JobRun) : assocGet (s.setJob j r).ciph.jobs j = some r :=
  assocGet_put_same _ _ _

/-! ### The end of a job (R228) -/

/-- A job's end shows PHASE and CODE. -/
theorem State.status_jobEnd (s : State) (j code out : Nat) :
    (s.jobEnd j code out).get (fCIPH_JOB_STATUS_PHASE j) = (if code = 0 then 4 else 5) ∧
      (s.jobEnd j code out).get (fCIPH_JOB_STATUS_CODE j) = code % 16 := by
  have regs := s.regs_jobEnd j code out
  constructor
  · rw [State.get_congr regs, State.phase_showJob]
    split <;> rfl
  · rw [State.get_congr regs, State.code_showJob]

/-- The descriptor is free, and its PHASE tells whether its CODE is 0. -/
def JobEnded (j : Nat) (t : State) : Prop := assocGet t.ciph.jobs j = none ∧
  t.get (fCIPH_JOB_STATUS_PHASE j) = (if t.get (fCIPH_JOB_STATUS_CODE j) = 0 then 4 else 5)

theorem State.jobEnd_ended (s : State) (j out : Nat) {code : Nat} (fits : code < 16) : JobEnded j (s.jobEnd j code out) := by
  obtain ⟨phase, shown⟩ := s.status_jobEnd j code out
  refine ⟨?_, ?_⟩
  · rw [State.jobs_jobEnd, assocGet_del_same]
  · rw [phase, shown, Nat.mod_eq_of_lt fits]

/-! ### The codes at the end of a segment (R228, R231, R233)

Each branch answers a code that is written out, or that of a load or a restore. -/

theorem State.keyLoad_code (s : State) (slot key : Nat) (allowed : Bool) : (s.keyLoad slot key allowed).2 < 16 := by
  unfold State.keyLoad
  repeat' split
  all_goals exact Nat.le_of_ble_eq_true rfl

theorem State.restore_code (s : State) (c : Nat) (img : List Byte) : (s.restore c img).2 < 16 := by
  unfold State.restore
  extract_lets
  repeat' split
  all_goals exact Nat.le_of_ble_eq_true rfl

theorem State.kwJob_code (s : State) (j : Nat) : (s.kwJob j).2 < 16 := by
  unfold State.kwJob
  extract_lets kek src dst img
  split
  next => exact Nat.le_of_ble_eq_true rfl
  next =>
    split
    · exact Nat.le_of_ble_eq_true rfl
    · exact s.keyLoad_code _ _ _
  next => exact Nat.le_of_ble_eq_true rfl
  next =>
    split
    · exact Nat.le_of_ble_eq_true rfl
    · exact s.restore_code _ _
  next => exact Nat.le_of_ble_eq_true rfl
  next =>
    split
    · exact Nat.le_of_ble_eq_true rfl
    · exact s.restore_code _ _

theorem State.closeMsg_code (s : State) (j : Nat) : (s.closeMsg j).2.1 < 16 := by
  unfold State.closeMsg
  extract_lets
  repeat' split
  all_goals exact Nat.le_of_ble_eq_true rfl

/-- R229: a running job ends its segment by `jobEnd`, with a code of R233. -/
theorem exec_jobSegmentEnd (s : State) (j : Fin 16) (r : JobRun) (job : assocGet s.ciph.jobs j = some r) (running : r.phase = 2) :
    ∃ (u : State) (code out : Nat), code < 16 ∧ exec (.jobSegmentEnd j) s = .next (u.jobEnd j code out) := by
  show ∃ (u : State) (code out : Nat), code < 16 ∧ execJobSegmentEnd j s = .next (u.jobEnd j code out)
  unfold execJobSegmentEnd
  rw [job]
  dsimp only
  rw [if_neg (by simp [running])]
  split
  · exact ⟨_, 3, 0, by decide, rfl⟩
  split
  · exact ⟨_, _, _, State.kwJob_code _ _, rfl⟩
  split
  · exact ⟨_, _, _, State.closeMsg_code _ _, rfl⟩
  · exact ⟨_, 0, _, by decide, rfl⟩

/-- Settles O29: a submission puts its descriptor and queues it; a start refuses or enters; a segment's end is `jobEnd`. -/
theorem cipherJobs : Obligations.CipherJobs := by
  intro s j d k b
  refine ⟨fun fitted sound active => ⟨fun x m takes free => ?_, fun x m cop takes lowest u hu sound active => ?_⟩,
    fun r next up core => ⟨fun queued => ⟨fun code stop refused error fits => ?_, fun fit => ?_⟩, fun suspended => ?_⟩,
    fun r job running => ?_⟩
  · obtain ⟨op, answers⟩ := exec_submission s m
    have put := s.putJob_regsBut j x.2 d
    have q := (s.putJob j x.2 d).queueJob_queued .pcie j free ((put.is _ (not_mem_descRegs (by decide) j)).trans sound)
      ((State.safe_congr_reg (put _ (not_mem_descRegs (by decide) j)) 10).trans active)
    have h := q.describes (s.putJob_describes j op d)
    refine .of_next (answers.trans (congrArg _ (s.submit_pcie j x.2 d takes fitted free))) ?_
    exact ⟨h.op, h.ctx, h.len, h.src, h.dst, h.final, q.phase, q.code, q.keys, q.entry⟩
  · obtain ⟨session, rfl⟩ : ∃ session, b = .cop session := by
      cases b with
      | pcie => exact absurd rfl cop
      | cop session => exact ⟨session, rfl⟩
    have ciph : u.ciph = s.ciph := by rw [hu, State.ciph_bufPut]; rfl
    have free : (u.ciph.jobs.any fun p => p.1 == k) = false := by
      rw [ciph]
      simpa using List.find?_some lowest
    have q := u.queueJob_queued (.cop session) k free sound active
    refine .of_next ((exec_submission s m).2.trans (congrArg _ (s.submit_cop session j x.2 k d takes fitted lowest))) ?_
    rw [← hu]
    exact ⟨q.phase, q.keys.trans (by rw [ciph]), ciph ▸ q.entry⟩
  · refine .of_next ((exec_jobStart next up core queued).trans (congrArg _ (s.startJob_refused k r refused))) ?_
    obtain ⟨phase, shown⟩ := (if stop = 0 then s else s.ctxStop (s.jobCtx k) stop).status_jobEnd k code 0
    refine ⟨phase.trans (if_neg error), shown.trans (Nat.mod_eq_of_lt fits), ?_⟩
    rw [State.jobs_jobEnd]
    split
    · rfl
    · rw [State.jobs_ctxStop]
  · refine .of_next ((exec_jobStart next up core queued).trans (congrArg _ (s.startJob_enters k r fit))) ?_
    exact ⟨State.get_setJob_phase _ _ _, _, State.job_setJob _ _ _, rfl, (s.jobEnter_frame k).clk, rfl, rfl⟩
  · refine .of_next (exec_jobResume next up core suspended) ⟨?_, { r with phase := 2, at_ := s.clk }, ?_, rfl, rfl, rfl⟩
    · exact (State.get_congr (State.jobActive_frame _ k).regs _).trans (State.get_setJob_phase _ _ _)
    · rw [State.jobs_jobActive, State.job_setJob]
  · obtain ⟨u, code, out, fits, answers⟩ := exec_jobSegmentEnd s j r job running
    exact .of_next answers (u.jobEnd_ended j out fits)

end Sys2Proof.Machine
end

section
/-!
SUPPORT. What the parts of PLU's control leave as it is (R235 to R246): a frame of single fields, and what a change of state
or of the selection keeps.
-/

-- one theorem after another: all at once would not fit the memory
set_option Elab.async false

namespace Sys2Proof.Machine

/-! ### A frame of single fields -/

/-- Two fields lie in different words, or beside one another in one. -/
def Fld.clear (f g : Fld) : Bool := f.addr != g.addr || f.beside g

theorem State.get_set_clear (s : State) (f g : Fld) (v : Nat) (h : f.clear g = true) : (s.set f v).get g = s.get g := by
  simp only [Fld.clear, Bool.or_eq_true, bne_iff_ne] at h
  exact h.elim (s.get_set_elsewhere f g v) (s.get_set_beside f g v)

/-- Every field holds what it held but for the words and the fields named. -/
def State.FldsBut (s t : State) (as : List Nat) (fs : List Fld) : Prop :=
  ∀ g : Fld, g.addr ∉ as → (∀ f ∈ fs, f.clear g = true) → t.get g = s.get g

theorem State.RegsBut.flds {s t : State} {as : List Nat} (h : s.RegsBut t as) (fs : List Fld) : s.FldsBut t as fs :=
  fun g m _ => h.get g m

section FldsBut

variable {s t u : State} {as : List Nat} {fs : List Fld}

theorem State.FldsBut.trans (h : s.FldsBut t as fs) (k : t.FldsBut u as fs) : s.FldsBut u as fs :=
  fun g m c => (k g m c).trans (h g m c)

theorem State.FldsBut.set (f : Fld) (v : Nat) (m : f.addr ∈ as ∨ f ∈ fs) : s.FldsBut (s.set f v) as fs := fun g a c =>
  m.elim (fun e => s.get_set_elsewhere f g v fun same => a (same ▸ e)) fun e => s.get_set_clear f g v (c f e)

theorem State.FldsBut.mono {as' : List Nat} {fs' : List Fld} (h : s.FldsBut t as fs) (words : ∀ a ∈ as, a ∈ as')
    (fields : ∀ f ∈ fs, f ∈ fs') : s.FldsBut t as' fs' :=
  fun g m c => h g (fun i => m (words _ i)) fun f i => c f (fields f i)

theorem State.FldsBut.is (h : s.FldsBut t as fs) (g : Fld) (a : g.addr ∉ as) (c : ∀ f ∈ fs, f.clear g = true) :
    t.is g = s.is g := by
  rw [State.is, h g a c, State.is]

end FldsBut

/-- A word is its field of 32 bits. -/
theorem State.get_whole (s : State) (a : Nat) : s.get ⟨a, 0, 32⟩ = s.nat a :=
  (congrArg (· % 2 ^ 32) (Nat.div_one _)).trans (Nat.mod_eq_of_lt (s.reg a).isLt)

theorem State.FldsBut.nat {s t : State} {as : List Nat} {fs : List Fld} (h : s.FldsBut t as fs) (a : Nat) (m : a ∉ as)
    (c : ∀ f ∈ fs, f.addr ≠ a) : t.nat a = s.nat a := by
  rw [← t.get_whole, ← s.get_whole, h ⟨a, 0, 32⟩ m fun f i => by simp [Fld.clear, c f i]]

/-! ### The registers of a step, a pull and the frequency (R235, R242, R245) -/

/-- The registers in which the motion of a step and of a pull shows. -/
def stepRegs : List Nat := [aPLU_PHASE_STEP, aPLU_PHASE_OFS, aPLU_PHASE_ERR, aPLU_ALARM]

/-- The motion of a step and of a pull counted up to now. -/
def State.stepCounted (s : State) : State :=
  s.modPlu fun p => { p with
    stepFrom := s.clk
    stepFrac := if s.int aPLU_PHASE_STEP - s.stepMoved = 0 then 0 else s.plu.stepFrac + s.stepMotion - s.stepMoved * phaseUnits
    gap := s.gapNow }

/-- A step that has come to its end says so. -/
def State.stepEnds (s : State) : State :=
  s.stepCounted.raiseIf (s.stepMoved ≠ 0 && s.int aPLU_PHASE_STEP - s.stepMoved = 0) fPLU_ALARM_STEP_DONE

/-- The moved part of a step passes to the offset. -/
def State.stepPasses (s : State) : State :=
  (s.stepEnds.setInt aPLU_PHASE_OFS (clampI (-2147483648) 2147483647 (s.stepEnds.int aPLU_PHASE_OFS + s.stepMoved))).setInt
    aPLU_PHASE_STEP (s.int aPLU_PHASE_STEP - s.stepMoved)

theorem State.settleStep_eq (s : State) : s.settleStep = if s.stepPasses.is fPLU_STATE_PULLING then
    s.stepPasses.setInt aPLU_PHASE_ERR (clampI (-2147483648) 2147483647 (-(Int.tdiv s.gapNow phaseUnits))) else s.stepPasses := rfl

theorem State.stepEnds_regsBut (s : State) : s.RegsBut s.stepEnds [aPLU_ALARM] :=
  ((State.RegsBut.refl s _).same (State.modPlu_regs s _)).raiseIf _ _ (by decide)

theorem State.settleStep_regsBut (s : State) : s.RegsBut s.settleStep stepRegs := by
  rw [State.settleStep_eq]
  have passes : s.RegsBut s.stepPasses stepRegs :=
    ((s.stepEnds_regsBut.mono (by decide)).setInt _ _ (by decide)).setInt _ _ (by decide)
  exact .ite _ (passes.setInt _ _ (by decide)) passes

/-- Of PLU's own record only the count moves on. -/
theorem State.plu_settleStep (s : State) : s.settleStep.plu = s.stepCounted.plu := by
  have ends : s.stepEnds.plu = s.stepCounted.plu := State.raiseIf_plu _ _ _
  rw [State.settleStep_eq]
  split <;> exact ends

theorem State.settleStep_clk (s : State) : s.settleStep.clk = s.clk := (State.settleStep_fr (F := 16777233) s (.refl s)).clk

@[simp] theorem State.regs_aim (s : State) (f : Int) : (s.aim f).regs = s.regs := by
  unfold State.aim
  dsimp only
  split <;> rfl

theorem State.goal_aim (s : State) (f : Int) : (s.aim f).plu.goal = f := by
  unfold State.aim
  dsimp only
  split <;> rfl

theorem State.showFreq_regsBut (s : State) : s.RegsBut s.showFreq [aPLU_FREQ] :=
  (State.RegsBut.refl s _).setInt _ _ (by decide)

theorem State.pluTrack_regsBut (s : State) : s.RegsBut s.pluTrack [aPLU_FREQ] := by
  unfold State.pluTrack
  exact .ite _ (((State.RegsBut.refl s _).same (s.regs_aim _)).trans (State.showFreq_regsBut _)) (.refl s _)

/-- The ACTIVE bits of the clock outputs. -/
def clkoutRegs : List Nat := (List.range 4).map aPLU_CLKOUT

theorem State.showOutputs_regsBut (s : State) : s.RegsBut s.showOutputs clkoutRegs :=
  State.RegsBut.foldl _ _ (fun t _ m => (State.RegsBut.refl t clkoutRegs).setB _ _ (List.mem_map_of_mem (f := aPLU_CLKOUT) m)) (.refl s _)

/-! ### What a change of the state or of the selection keeps (R239, R242) -/

/-- The words that a change of PLU's state or selection writes. -/
def steerRegs : List Nat :=
  stepRegs ++ clkoutRegs ++ [aPLU_FREQ, aPLU_HOLD_FREQ, aPLU_HOLD_TIME, aPLU_SWITCH_CNT, aPLU_SWITCH_CNT + 4, aPLU_HOLD_CNT,
    aPLU_HOLD_CNT + 4]

/-- The fields that a change of state writes in a word of which the rest stays. -/
def stateFlds : List Fld := [fPLU_STATE_STATE, fPLU_STATE_PULLING]

/-- The fields that show the selection. -/
def selFlds : List Fld := [fPLU_STATE_SEL_ENTRY, fPLU_STATE_SEL_REF] ++ (List.range 32).map fPLU_REF_STATUS_SELECTED

def steerFlds : List Fld := stateFlds ++ selFlds

/-- The fields of its status that the judgement of a reference writes. -/
def judgeFlds : List Fld := (List.range 32).flatMap fun r => [fPLU_REF_STATUS_QUALIFIED r, fPLU_REF_STATUS_FREQ_DISAGREE r]

/-- What PLU keeps while its state and selection change: every field but those named, the history, the sight of OSCIN, and
that the holdover limit has not been reached. -/
structure PluSame (fs : List Fld) (s t : State) : Prop where
  flds : s.FldsBut t steerRegs fs
  hist : t.plu.hist = s.plu.hist
  oscin : t.plu.oscin = s.plu.oscin
  limit : s.plu.limitHit = false → t.plu.limitHit = false

section PluSame

variable {fs : List Fld} {s t u : State}

theorem PluSame.trans (h : PluSame fs s t) (k : PluSame fs t u) : PluSame fs s u :=
  ⟨h.flds.trans k.flds, k.hist.trans h.hist, k.oscin.trans h.oscin, fun e => k.limit (h.limit e)⟩

/-- Registers change, PLU's own record does not. -/
theorem PluSame.shown (flds : s.FldsBut t steerRegs fs) (plu : t.plu = s.plu) : PluSame fs s t :=
  ⟨flds, by rw [plu], by rw [plu], fun e => by rw [plu, e]⟩

theorem PluSame.refl (s : State) : PluSame fs s s := .shown (fun _ _ _ => rfl) rfl

/-- PLU's own record changes. -/
theorem PluSame.modPlu (h : PluSame fs s t) (f : PluState → PluState) (hist : ∀ p, (f p).hist = p.hist := by exact fun _ => rfl)
    (oscin : ∀ p, (f p).oscin = p.oscin := by exact fun _ => rfl)
    (limit : ∀ p, p.limitHit = false → (f p).limitHit = false := by exact fun _ e => e) :
    PluSame fs s (t.modPlu f) :=
  h.trans ⟨fun _ _ _ => rfl, hist _, oscin _, limit _⟩

theorem PluSame.regsBut {as : List Nat} (h : PluSame fs s t) (k : t.RegsBut u as) (m : ∀ a ∈ as, a ∈ steerRegs) (plu : u.plu = t.plu) :
    PluSame fs s u :=
  h.trans (.shown ((k.mono m).flds fs) plu)

theorem PluSame.set (h : PluSame fs s t) (f : Fld) (v : Nat) (m : f.addr ∈ steerRegs ∨ f ∈ fs) : PluSame fs s (t.set f v) :=
  h.trans (.shown (.set f v m) rfl)

theorem PluSame.setInt (h : PluSame fs s t) (a : Nat) (x : Int) (m : a ∈ steerRegs) : PluSame fs s (t.setInt a x) :=
  h.regsBut ((State.RegsBut.refl t steerRegs).setInt a x m) (fun _ => id) rfl

theorem PluSame.setNat (h : PluSame fs s t) (a x : Nat) (m : a ∈ steerRegs) : PluSame fs s (t.setNat a x) :=
  h.regsBut ((State.RegsBut.refl t steerRegs).setNat a x m) (fun _ => id) rfl

theorem PluSame.setB (h : PluSame fs s t) (f : Fld) (b : Bool) (m : f.addr ∈ steerRegs ∨ f ∈ fs) : PluSame fs s (t.setB f b) :=
  h.set f _ m

theorem PluSame.raise (h : PluSame fs s t) (f : Fld) (m : f.addr = aPLU_ALARM) : PluSame fs s (t.raise f) :=
  h.regsBut ((State.RegsBut.refl t [aPLU_ALARM]).raise f (by simp [m])) (by decide) (State.raise_plu t f)

theorem PluSame.ite (c : Prop) [Decidable c] (h : PluSame fs s t) (k : PluSame fs s u) : PluSame fs s (if c then t else u) := by
  split <;> assumption

theorem PluSame.raiseIf (h : PluSame fs s t) (c : Bool) (f : Fld) (m : f.addr = aPLU_ALARM) : PluSame fs s (t.raiseIf c f) :=
  .ite _ (h.raise f m) h

theorem PluSame.foldl {α : Type} (f : State → α → State) (l : List α) (k : ∀ (t : State) (x : α), x ∈ l → PluSame fs t (f t x))
    (h : PluSame fs s t) : PluSame fs s (l.foldl f t) := by
  induction l generalizing t with
  | nil => exact h
  | cons x l ih => exact ih (fun u y m => k u y (List.mem_cons_of_mem _ m)) (h.trans (k t x List.mem_cons_self))

theorem PluSame.addCnt (h : PluSame fs s t) (a k : Nat) (m : a ∈ steerRegs) (m' : a + 4 ∈ steerRegs) : PluSame fs s (t.addCnt a k) :=
  h.regsBut ((State.RegsBut.refl t steerRegs).addCnt a k m m') (fun _ => id) (State.addCnt_fr (F := 16385) t a k (.refl t)).plu

theorem PluSame.mono {fs' : List Fld} (h : PluSame fs s t) (m : ∀ f ∈ fs, f ∈ fs') : PluSame fs' s t :=
  ⟨h.flds.mono (fun _ => id) m, h.hist, h.oscin, h.limit⟩

theorem PluSame.get (h : PluSame fs s t) (g : Fld) (a : g.addr ∉ steerRegs) (c : ∀ f ∈ fs, f.clear g = true) : t.get g = s.get g :=
  h.flds g a c

theorem PluSame.is (h : PluSame fs s t) (g : Fld) (a : g.addr ∉ steerRegs) (c : ∀ f ∈ fs, f.clear g = true) : t.is g = s.is g :=
  h.flds.is g a c

end PluSame

/-! ### Each change of the state and of the selection keeps it -/

variable {fs : List Fld}

theorem State.settleStep_same (s : State) : PluSame fs s s.settleStep := by
  rw [State.settleStep_eq]
  have ends : PluSame fs s s.stepEnds := ((PluSame.refl s).modPlu _).raiseIf _ _ rfl
  have passes : PluSame fs s s.stepPasses := (ends.setInt _ _ (by decide)).setInt _ _ (by decide)
  exact .ite _ (passes.setInt _ _ (by decide)) passes

theorem State.aim_same (s : State) (f : Int) : PluSame fs s (s.aim f) := by
  unfold State.aim
  exact .ite _ ((PluSame.refl s).modPlu _) ((PluSame.refl s).modPlu _)

theorem State.showFreq_same (s : State) : PluSame fs s s.showFreq := (PluSame.refl s).setInt _ _ (by decide)

theorem State.showOutputs_same (s : State) : PluSame fs s s.showOutputs :=
  (PluSame.refl s).regsBut s.showOutputs_regsBut (by decide) (State.showOutputs_fr (F := 1) s (.refl s)).plu

/-- The SELECTED bit of a reference is of its status. -/
theorem selected_mem {r : Nat} (h : r < 32) : fPLU_REF_STATUS_SELECTED r ∈ selFlds :=
  List.mem_append_right _ (List.mem_map_of_mem (List.mem_range.mpr h))

theorem State.get_lt (s : State) (f : Fld) : s.get f < 2 ^ f.len := Nat.mod_lt _ (Nat.two_pow_pos _)

/-- The SELECTED bit of the reference selected till now falls. -/
def State.deselected (s : State) : State :=
  if s.get fPLU_STATE_SEL_REF < 32 then s.setB (fPLU_REF_STATUS_SELECTED (s.get fPLU_STATE_SEL_REF)) false else s

theorem State.deselected_same (s : State) : PluSame selFlds s s.deselected := by
  unfold State.deselected
  split
  next h => exact (PluSame.refl s).setB _ _ (.inr (selected_mem h))
  next => exact .refl s

theorem State.showSel_same (s : State) (e : Option Nat) : PluSame selFlds s (s.showSel e) := by
  cases e with
  | none =>
    have ceased := PluSame.ite (s.get fPLU_STATE_SEL_REF < 32)
      (s.deselected_same.modPlu fun p => { p with ceased := s.deselected.tb0Sec }) s.deselected_same
    exact (ceased.set fPLU_STATE_SEL_ENTRY _ (.inr (by decide))).set fPLU_STATE_SEL_REF _ (.inr (by decide))
  | some e =>
    exact ((s.deselected_same.set fPLU_STATE_SEL_ENTRY e (.inr (by decide))).set fPLU_STATE_SEL_REF _ (.inr (by decide))).setB _
      true (.inr (selected_mem (State.get_lt s.deselected (fPLU_PRIO_REF e))))

/-- A pull begins: the output's phase and frequency now. -/
def State.pullStarts (s : State) : State :=
  s.settleStep.modPlu fun p => { p with
    base := s.settleStep.outFreq, goal := s.settleStep.outFreq, goalFrom := s.settleStep.clk, gap := s.settleStep.pullGap
    gap0 := s.settleStep.pullGap.natAbs }

/-- ACQUIRING shown, and its limit counted from now. -/
def State.acquiring (s : State) : State :=
  let t := ((s.set fPLU_STATE_STATE 1).setB fPLU_STATE_PULLING true).setNat aPLU_HOLD_TIME 0
  t.modPlu fun p => { p with acqFrom := t.clk, lockedSince := none, holdFrom := none, limitHit := false }

theorem State.acquire_eq (s : State) : s.acquire = s.pullStarts.acquiring.showOutputs := rfl

theorem State.acquire_same (s : State) : PluSame stateFlds s s.acquire := by
  have starts : PluSame stateFlds s s.pullStarts := s.settleStep_same.modPlu _
  have shown := ((starts.set fPLU_STATE_STATE 1 (.inr (by decide))).setB fPLU_STATE_PULLING true (.inr (by decide))).setNat
    aPLU_HOLD_TIME 0 (by decide)
  have acquiring : PluSame stateFlds s s.pullStarts.acquiring := shown.modPlu (fun p => { p with
    acqFrom := _, lockedSince := none, holdFrom := none, limitHit := false }) (limit := fun _ _ => rfl)
  exact s.acquire_eq ▸ acquiring.trans (State.showOutputs_same _)

/-- A state without a pull shown, with the frequency. -/
def State.showState (s : State) (st : Nat) : State := ((s.set fPLU_STATE_STATE st).setB fPLU_STATE_PULLING false).showFreq

theorem State.showState_same (s : State) (st : Nat) : PluSame stateFlds s (s.showState st) :=
  (((PluSame.refl s).set fPLU_STATE_STATE st (.inr (by decide))).setB fPLU_STATE_PULLING false (.inr (by decide))).trans
    (State.showFreq_same _)

/-- HOLDOVER and LOST: no lock, and the start of holdover kept. -/
def State.holds (s : State) : State :=
  s.modPlu fun p => { p with lockedSince := none, holdFrom := some (p.holdFrom.getD s.clk) }

/-- FREERUN, HOLDOVER and LOST show the state with which they aim at a frequency. -/
def State.leave (s : State) (st : Nat) (f : Int) : State := (s.settleStep.aim f).showState st

theorem State.leave_same (s : State) (st : Nat) (f : Int) : PluSame stateFlds s (s.leave st f) :=
  (s.settleStep_same.trans (State.aim_same _ f)).trans (State.showState_same _ st)

theorem State.enterHoldover_eq (s : State) (freq : Int) : s.enterHoldover freq =
    (((s.setInt aPLU_HOLD_FREQ freq).leave 3 freq).holds.addCnt aPLU_HOLD_CNT 1).showOutputs.raise fPLU_ALARM_HOLDOVER := rfl

theorem State.enterFreerun_eq (s : State) : s.enterFreerun =
    ((s.leave 0 0).modPlu fun p => { p with lockedSince := none }).showOutputs := rfl

theorem State.enterLost_eq (s : State) : s.enterLost =
    (s.leave 4 s.trajectory).holds.showOutputs.raise fPLU_ALARM_LOST := rfl

theorem State.enterHoldover_same (s : State) (freq : Int) : PluSame stateFlds s (s.enterHoldover freq) := by
  rw [State.enterHoldover_eq]
  have left := ((PluSame.refl s).setInt aPLU_HOLD_FREQ freq (by decide)).trans (State.leave_same _ 3 freq)
  have held : PluSame stateFlds s ((s.setInt aPLU_HOLD_FREQ freq).leave 3 freq).holds := left.modPlu _
  exact ((held.addCnt _ 1 (by decide) (by decide)).trans (State.showOutputs_same _)).raise _ rfl

theorem State.enterFreerun_same (s : State) : PluSame stateFlds s s.enterFreerun :=
  s.enterFreerun_eq ▸ ((s.leave_same 0 0).modPlu _).trans (State.showOutputs_same _)

theorem State.enterLost_same (s : State) : PluSame stateFlds s s.enterLost := by
  rw [State.enterLost_eq]
  have held : PluSame stateFlds s (s.leave 4 s.trajectory).holds := (State.leave_same s _ _).modPlu _
  exact (held.trans (State.showOutputs_same _)).raise _ rfl

theorem stateFlds_steer : ∀ f ∈ stateFlds, f ∈ steerFlds := fun _ => List.mem_append_left _

theorem selFlds_steer : ∀ f ∈ selFlds, f ∈ steerFlds := fun _ => List.mem_append_right _

theorem State.switchTo_same (s : State) (e : Nat) : PluSame steerFlds s (s.switchTo e) :=
  ((((s.showSel_same (some e)).mono selFlds_steer).addCnt _ _ (by decide) (by decide)).trans
    ((State.acquire_same _).mono stateFlds_steer)).raise _ rfl

theorem State.holdOrFree_same (s : State) : PluSame stateFlds s s.holdOrFree := by
  unfold State.holdOrFree
  exact .ite _ (.refl s) (.ite _ (s.enterHoldover_same _) (.ite _ (.refl s) s.enterFreerun_same))

/-- A selection re-evaluated: as it was, a switch to an entry, or no entry left. -/
theorem State.select_cases (s : State) : s.select = s ∨ (∃ e, s.select = s.switchTo e) ∨
    ∃ b : Bool, (∃ e, s.select = ((s.raiseIf b fPLU_ALARM_SEL_FAIL).showSel none).switchTo e) ∨
      s.select = ((s.raiseIf b fPLU_ALARM_SEL_FAIL).showSel none).holdOrFree := by
  unfold State.select
  dsimp only
  split
  · exact .inl rfl
  split
  · split
    next e _ => exact .inr (.inl ⟨e, rfl⟩)
    next => exact .inl rfl
  · split
    next e _ => exact .inr (.inr ⟨_, .inl ⟨e, rfl⟩⟩)
    next => exact .inr (.inr ⟨_, .inr rfl⟩)

theorem State.select_same (s : State) : PluSame steerFlds s s.select := by
  have gone (b : Bool) : PluSame steerFlds s ((s.raiseIf b fPLU_ALARM_SEL_FAIL).showSel none) :=
    ((PluSame.refl s).raiseIf b _ rfl).trans ((State.showSel_same _ none).mono selFlds_steer)
  obtain h | ⟨e, h⟩ | ⟨b, ⟨e, h⟩ | h⟩ := s.select_cases
  · exact h.symm ▸ .refl s
  · exact h.symm ▸ s.switchTo_same e
  · exact h.symm ▸ (gone b).trans (State.switchTo_same _ e)
  · exact h.symm ▸ (gone b).trans ((State.holdOrFree_same _).mono stateFlds_steer)

theorem State.select_clk (s : State) : s.select.clk = s.clk := (State.select_fr (F := 16793617) s (.refl s)).clk

/-! ### The references' judgement (R237, R241) -/

theorem qualified_mem {r : Nat} (h : r < 32) : fPLU_REF_STATUS_QUALIFIED r ∈ judgeFlds :=
  List.mem_flatMap.mpr ⟨r, List.mem_range.mpr h, by simp⟩

theorem disagree_mem {r : Nat} (h : r < 32) : fPLU_REF_STATUS_FREQ_DISAGREE r ∈ judgeFlds :=
  List.mem_flatMap.mpr ⟨r, List.mem_range.mpr h, by simp⟩

theorem State.judgeRef_same (s : State) {r : Nat} (h : r < 32) : PluSame judgeFlds s (s.judgeRef r) := by
  unfold State.judgeRef
  dsimp only
  have since := (PluSame.refl (fs := judgeFlds) s).modPlu fun p => { p with refs := modAt p.refs r fun x => { x with
    goodSince := if (fld (s.reg (aPLU_REF_STATUS r)) 0 3 == 7 && s.plu.oscin) = true then some ((s.ref r).goodSince.getD s.clk) else none } }
  exact .ite _ ((since.setB _ true (.inr (qualified_mem h))).modPlu _) (since.setB _ _ (.inr (qualified_mem h)))

theorem State.judgeRefs_same (s : State) : PluSame judgeFlds s ((List.range 32).foldl (fun s r => s.judgeRef r) s) :=
  .foldl _ _ (fun t _ m => t.judgeRef_same (List.mem_range.mp m)) (.refl s)

end Sys2Proof.Machine
end

section
/-!
SUPPORT. What PLU's states and its output show (R235, R239, R242 to R245).
-/

-- one theorem after another: all at once would not fit the memory
set_option Elab.async false

namespace Sys2Proof.Machine

/-! ### The frequency shown (R235) -/

/-- PLU_FREQ shows the output frequency. -/
def FreqShown (s : State) : Prop := s.nat aPLU_FREQ = ofSigned 32 s.outFreq

/-- The output frequency is of PLU's record, the time, PULLING, the step and the slope. -/
theorem State.outFreq_congr {s t : State} (plu : t.plu = s.plu) (clk : t.clk = s.clk)
    (pulling : t.is fPLU_STATE_PULLING = s.is fPLU_STATE_PULLING) (step : t.nat aPLU_PHASE_STEP = s.nat aPLU_PHASE_STEP)
    (slope : t.get fPLU_LOOP_SLOPE = s.get fPLU_LOOP_SLOPE) : t.outFreq = s.outFreq := by
  unfold State.outFreq State.trajectory State.toward State.slopeLim State.stepLeft State.int
  rw [plu, clk, pulling, step, slope]

theorem State.outFreq_regsBut {s t : State} {as : List Nat} (h : s.RegsBut t as) (plu : t.plu = s.plu) (clk : t.clk = s.clk)
    (m : aPLU_STATE ∉ as ∧ aPLU_PHASE_STEP ∉ as ∧ aPLU_LOOP ∉ as) : t.outFreq = s.outFreq :=
  State.outFreq_congr plu clk (h.is _ m.1) (h.nat _ m.2.1) (h.get _ m.2.2)

theorem State.freqShown_showFreq (s : State) : FreqShown s.showFreq := by
  have same : s.showFreq.outFreq = s.outFreq := State.outFreq_regsBut s.showFreq_regsBut rfl rfl (by decide)
  rw [FreqShown, same]
  exact s.nat_setNat_fits _ _ (ofSigned_lt _)

theorem FreqShown.regsBut {s t : State} {as : List Nat} (shown : FreqShown s) (h : s.RegsBut t as) (freq : t.outFreq = s.outFreq)
    (m : aPLU_FREQ ∉ as) : FreqShown t := by
  rw [FreqShown, freq, h.nat _ m]
  exact shown

theorem State.plu_showOutputs (s : State) : s.showOutputs.plu = s.plu := (State.showOutputs_fr (F := 1) s (.refl s)).plu

/-- The time of the lock is not of the output. -/
theorem FreqShown.unlocked {s : State} (shown : FreqShown s) (since : Option Nat) :
    FreqShown (s.modPlu fun p => { p with lockedSince := since }) := shown

theorem FreqShown.showOutputs {s : State} (shown : FreqShown s) : FreqShown s.showOutputs :=
  have clk : s.showOutputs.clk = s.clk := (State.showOutputs_fr (F := 1) s (.refl s)).clk
  shown.regsBut s.showOutputs_regsBut (State.outFreq_regsBut s.showOutputs_regsBut s.plu_showOutputs clk (by decide)) (by decide)

/-- R242: what tracks the selected reference aims at its frequency and shows its own. -/
theorem State.pluTrack_tracks {s : State} (sel : s.get fPLU_STATE_SEL_REF < 32)
    (tracks : s.get fPLU_STATE_STATE = 2 ∨ s.get fPLU_STATE_STATE = 1 ∧ s.is fPLU_STATE_PULLING = false) :
    FreqShown s.pluTrack ∧ s.pluTrack.plu.goal = s.int (aPLU_REF_FREQ (s.get fPLU_STATE_SEL_REF)) := by
  have taken : s.pluTrack = (s.aim (s.int (aPLU_REF_FREQ (s.get fPLU_STATE_SEL_REF)))).showFreq := by
    unfold State.pluTrack
    dsimp only
    exact if_pos (by simpa [sel] using tracks)
  rw [taken]
  exact ⟨State.freqShown_showFreq _, State.goal_aim _ _⟩

/-! ### The states (R242 to R244) -/

theorem State.get_showOutputs (s : State) (f : Fld) (m : f.addr ∉ clkoutRegs) : s.showOutputs.get f = s.get f :=
  s.showOutputs_regsBut.get f m

theorem State.is_showOutputs (s : State) (f : Fld) (m : f.addr ∉ clkoutRegs) : s.showOutputs.is f = s.is f :=
  s.showOutputs_regsBut.is f m

/-- R243: ACQUIRING is entered with a pull, and its limit counts from now. -/
theorem State.acquire_shows (s : State) : s.acquire.get fPLU_STATE_STATE = 1 ∧ s.acquire.is fPLU_STATE_PULLING = true ∧
    s.acquire.plu.acqFrom = s.clk := by
  rw [State.acquire_eq]
  refine ⟨?_, ?_, ?_⟩
  · rw [State.get_showOutputs _ _ (by decide), State.acquiring, State.get_congr (State.modPlu_regs _ _),
      State.get_setNat_other _ _ _ _ (by decide), State.get_setB_beside _ _ _ _ (by decide),
      State.get_set_fits _ _ _ (by decide)]
    rfl
  · rw [State.is_showOutputs _ _ (by decide), State.acquiring, State.is_congr (State.modPlu_regs _ _),
      State.is_setNat_other _ _ _ _ (by decide), State.is_setB_fits _ _ _ (by decide)]
  · rw [State.plu_showOutputs]
    exact s.settleStep_clk

theorem State.selEntry_acquire (s : State) : s.acquire.selEntry = s.selEntry := s.acquire_same.get _ (by decide) (by decide)

theorem State.regs_holds (s : State) : s.holds.regs = s.regs := rfl

theorem State.holdFrom_holds (s : State) : s.holds.plu.holdFrom = some (s.plu.holdFrom.getD s.clk) := rfl

/-- R242: what FREERUN, HOLDOVER and LOST show as they are entered. -/
theorem State.leave_shows (s : State) {st : Nat} (h : st < 8) (f : Int) : (s.leave st f).get fPLU_STATE_STATE = st ∧
    (s.leave st f).plu.goal = f ∧ FreqShown (s.leave st f) := by
  refine ⟨?_, State.goal_aim _ f, State.freqShown_showFreq _⟩
  rw [State.leave, State.showState, (State.showFreq_regsBut _).get _ (by decide), State.get_setB_beside _ _ _ _ (by decide),
    State.get_set_fits _ _ _ (by decide)]
  exact Nat.mod_eq_of_lt h

theorem State.holdFrom_leave (s : State) (st : Nat) (f : Int) : (s.leave st f).plu.holdFrom = s.plu.holdFrom := by
  have aimed : ((s.settleStep.aim f).plu.holdFrom) = s.settleStep.plu.holdFrom := by
    unfold State.aim
    dsimp only
    split <;> rfl
  refine aimed.trans ?_
  rw [State.plu_settleStep]
  rfl

/-- R242: FREERUN aims at the nominal frequency. -/
theorem State.enterFreerun_shows (s : State) : s.enterFreerun.get fPLU_STATE_STATE = 0 ∧ s.enterFreerun.plu.goal = 0 ∧
    FreqShown s.enterFreerun := by
  rw [State.enterFreerun_eq]
  obtain ⟨state, goal, shown⟩ := s.leave_shows (st := 0) (by decide) 0
  refine ⟨?_, ?_, (shown.unlocked none).showOutputs⟩
  · rw [State.get_showOutputs _ _ (by decide), State.get_congr (State.modPlu_regs _ _), state]
  · rw [State.plu_showOutputs, State.modPlu_plu]
    exact goal

/-- R242: LOST keeps the start of holdover that it finds. -/
theorem State.enterLost_shows (s : State) : s.enterLost.get fPLU_STATE_STATE = 4 ∧ s.enterLost.is fPLU_ALARM_LOST = true ∧
    ∀ c, s.plu.holdFrom = some c → s.enterLost.plu.holdFrom = some c := by
  rw [State.enterLost_eq]
  refine ⟨?_, State.is_raise_fits _ _ (by decide), fun c from_ => ?_⟩
  · rw [State.get_raise_elsewhere _ _ _ (by decide), State.get_showOutputs _ _ (by decide), State.get_congr (State.regs_holds _),
      (s.leave_shows (by decide) _).1]
  · rw [State.raise_plu, State.plu_showOutputs, State.holdFrom_holds, State.holdFrom_leave, from_, Option.getD_some]

/-! ### The selection (R239) -/

theorem State.selEntry_showSel_none (s : State) : (s.showSel none).selEntry = 31 := by
  unfold State.showSel State.selEntry
  dsimp only
  rw [State.get_set_beside _ _ _ _ (by decide), State.get_set_fits _ _ _ (by decide)]
  rfl

theorem State.selEntry_showSel_some (s : State) {e : Nat} (h : e < 32) : (s.showSel (some e)).selEntry = e := by
  have status : ∀ r < 32, aPLU_REF_STATUS r ≠ aPLU_STATE := by decide
  unfold State.showSel State.selEntry
  dsimp only
  rw [State.get_setB_elsewhere _ _ _ _ (status _ (State.get_lt _ (fPLU_PRIO_REF e))), State.get_set_beside _ _ _ _ (by decide),
    State.get_set_fits _ _ _ (by decide)]
  exact Nat.mod_eq_of_lt h

/-- R239: a switch shows its entry and begins to acquire it. -/
theorem State.switchTo_shows (s : State) {e : Nat} (h : e < 32) : (s.switchTo e).selEntry = e ∧
    (s.switchTo e).get fPLU_STATE_STATE = 1 ∧ (s.switchTo e).is fPLU_STATE_PULLING = true ∧
    (s.switchTo e).is fPLU_ALARM_SWITCH = true := by
  have counted (t : State) : t.RegsBut (t.addCnt aPLU_SWITCH_CNT 1) [aPLU_SWITCH_CNT, aPLU_SWITCH_CNT + 4] :=
    (State.RegsBut.refl t _).addCnt _ _ (by decide) (by decide)
  obtain ⟨state, pulling, -⟩ := ((s.showSel (some e)).addCnt aPLU_SWITCH_CNT 1).acquire_shows
  unfold State.switchTo
  refine ⟨?_, (State.get_raise_elsewhere _ _ _ (by decide)).trans state, (State.is_raise_elsewhere _ _ _ (by decide)).trans pulling,
    State.is_raise_fits _ _ (by decide)⟩
  calc _ = ((s.showSel (some e)).addCnt aPLU_SWITCH_CNT 1).acquire.selEntry := State.get_raise_elsewhere _ _ _ (by decide)
    _ = (s.showSel (some e)).selEntry := (State.selEntry_acquire _).trans ((counted _).get _ (by decide))
    _ = e := s.selEntry_showSel_some h

end Sys2Proof.Machine
end

section
/-!
SUPPORT. The writes that control PLU, of 10 (O32).
-/

-- one theorem after another: all at once would not fit the memory
set_option Elab.async false

namespace Sys2Proof.Machine

/-! ### PLU_CTRL (R242, R246) -/

theorem pluClrHist_next (s : State) (takes : s.takes .pcie aPLU_CTRL = true) : exec .pluClrHist s = .next s.clearHist :=
  congrArg _ (hostWrite_taken s _ _ takes)

theorem pluEnWrite_next (s : State) (v : Bool) (takes : s.takes .pcie aPLU_CTRL = true) :
    exec (.pluEnWrite v) s = .next (s.writePluEn v) := congrArg _ (hostWrite_taken s _ _ takes)

theorem pluForceHoldWrite_next (s : State) (v : Bool) (takes : s.takes .pcie aPLU_CTRL = true) :
    exec (.pluForceHoldWrite v) s = .next (s.writeForceHold v) := congrArg _ (hostWrite_taken s _ _ takes)

theorem State.clearHist_shows (s : State) : s.clearHist.plu.hist = [] ∧ s.clearHist.is fPLU_STATE_HIST_VALID = false ∧
    s.RegsBut s.clearHist [aPLU_STATE] :=
  ⟨rfl, State.is_setB_fits _ _ _ (by decide), ((State.RegsBut.refl s _).same (State.modPlu_regs s _)).setB _ _ (by decide)⟩

/-- EN taken, with FORCED as it then stands. -/
def State.enTaken (s : State) (v : Bool) : State := (s.setB fPLU_CTRL_EN v).setB fPLU_STATE_FORCED (v && s.is fPLU_CTRL_FORCE_HOLD)

theorem State.enTaken_en (s : State) (v : Bool) : (s.enTaken v).is fPLU_CTRL_EN = v := by
  rw [State.enTaken, State.is_setB_elsewhere _ _ _ _ (by decide), State.is_setB_fits _ _ _ (by decide)]

theorem State.writePluEn_on (s : State) : s.writePluEn true = (s.enTaken true).select := rfl

/-- R242: PLU switched off: no history and no selection. -/
theorem State.writePluEn_off (s : State) (oscin : s.plu.oscin = true) :
    s.writePluEn false = ((s.enTaken false).clearHist.showSel none).enterFreerun := by
  have sees : ((s.enTaken false).clearHist.showSel none).plu.oscin = true := (State.showSel_same _ none).oscin.trans oscin
  exact if_pos sees

theorem pluEnWrite_on (s : State) (takes : s.takes .pcie aPLU_CTRL = true) : Completes (exec (.pluEnWrite true) s) fun t =>
    t.is fPLU_CTRL_EN = true ∧ t.plu.hist = s.plu.hist := by
  refine .of_next ((pluEnWrite_next s true takes).trans (congrArg _ s.writePluEn_on)) ?_
  have kept := (s.enTaken true).select_same
  exact ⟨(kept.is _ (by decide) (by decide)).trans (s.enTaken_en true), kept.hist⟩

theorem pluEnWrite_off (s : State) (takes : s.takes .pcie aPLU_CTRL = true) (oscin : s.plu.oscin = true) :
    Completes (exec (.pluEnWrite false) s) fun t => t.is fPLU_CTRL_EN = false ∧ t.plu.hist = [] ∧
      t.get fPLU_STATE_STATE = 0 ∧ t.selEntry = 31 ∧ t.plu.goal = 0 ∧ t.nat aPLU_FREQ = ofSigned 32 t.outFreq := by
  refine .of_next ((pluEnWrite_next s false takes).trans (congrArg _ (s.writePluEn_off oscin))) ?_
  obtain ⟨empty, -, cleared⟩ := (s.enTaken false).clearHist_shows
  have en := (cleared.is fPLU_CTRL_EN (by decide)).trans (s.enTaken_en false)
  generalize (s.enTaken false).clearHist = u at empty en
  have gone := u.showSel_same none
  have free := (u.showSel none).enterFreerun_same
  obtain ⟨state, goal, shown⟩ := (u.showSel none).enterFreerun_shows
  refine ⟨?_, ?_, state, ?_, goal, shown⟩
  · rw [free.is _ (by decide) (by decide), gone.is _ (by decide) (by decide), en]
  · rw [free.hist, gone.hist, empty]
  · exact (free.get _ (by decide) (by decide)).trans u.selEntry_showSel_none

/-- FORCE_HOLD taken, with FORCED as it then stands. -/
def State.forceTaken (s : State) (v : Bool) : State :=
  (s.setB fPLU_CTRL_FORCE_HOLD v).setB fPLU_STATE_FORCED (v && s.is fPLU_CTRL_EN)

theorem State.writeForceHold_eq (s : State) (v : Bool) : s.writeForceHold v = (s.forceTaken v).select := rfl

theorem State.forceTaken_shows (s : State) (v : Bool) : (s.forceTaken v).is fPLU_CTRL_FORCE_HOLD = v ∧
    (s.forceTaken v).is fPLU_STATE_FORCED = (v && s.is fPLU_CTRL_EN) ∧ (s.forceTaken v).is fPLU_CTRL_EN = s.is fPLU_CTRL_EN ∧
    s.RegsBut (s.forceTaken v) [aPLU_CTRL, aPLU_STATE] := by
  refine ⟨?_, State.is_setB_fits _ _ _ (by decide), ?_, ((State.RegsBut.refl s _).setB _ _ (by decide)).setB _ _ (by decide)⟩
  · rw [State.forceTaken, State.is_setB_elsewhere _ _ _ _ (by decide), State.is_setB_fits _ _ _ (by decide)]
  · rw [State.forceTaken, State.is_setB_elsewhere _ _ _ _ (by decide), State.is_setB_beside _ _ _ _ (by decide)]

theorem State.pluRuns_regsBut {s t : State} {as : List Nat} (h : s.RegsBut t as) (cold : t.cold = s.cold)
    (boot : t.bootHold = s.bootHold) (m : aSEC_RST_STATUS ∉ as ∧ aGLB_SAFE ∉ as) : t.pluRuns = s.pluRuns := by
  unfold State.pluRuns State.up State.held State.safe
  rw [cold, boot, h _ m.1, h _ m.2]

/-- R242: a held PLU gives its selection up. -/
theorem State.select_forced (s : State) (runs : s.pluRuns = true) (en : s.is fPLU_CTRL_EN = true)
    (force : s.is fPLU_CTRL_FORCE_HOLD = true) : s.select.selEntry = 31 := by
  obtain ⟨b, gone⟩ : ∃ b : Bool, s.select = ((s.raiseIf b fPLU_ALARM_SEL_FAIL).showSel none).holdOrFree := by
    unfold State.select
    simp only [runs, en, force, Bool.not_true, Bool.or_self, Bool.false_eq_true, if_false, Bool.and_false, Bool.true_or, if_true]
    exact ⟨_, rfl⟩
  rw [gone]
  exact ((State.holdOrFree_same _).get _ (by decide) (by decide)).trans (State.selEntry_showSel_none _)

theorem pluForceHoldWrite_shows (s : State) (v : Bool) (takes : s.takes .pcie aPLU_CTRL = true) :
    Completes (exec (.pluForceHoldWrite v) s) fun t => t.is fPLU_CTRL_FORCE_HOLD = v ∧
      t.is fPLU_STATE_FORCED = (v && s.is fPLU_CTRL_EN) ∧
      (v = true → s.pluRuns = true → s.is fPLU_CTRL_EN = true → t.selEntry = 31) := by
  refine .of_next ((pluForceHoldWrite_next s v takes).trans (congrArg _ (s.writeForceHold_eq v))) ?_
  obtain ⟨force, forced, en, changed⟩ := s.forceTaken_shows v
  have kept := (s.forceTaken v).select_same
  refine ⟨(kept.is _ (by decide) (by decide)).trans force, (kept.is _ (by decide) (by decide)).trans forced,
    fun set runs on => ?_⟩
  exact State.select_forced _ ((State.pluRuns_regsBut changed rfl rfl (by decide)).trans runs) (en.trans on) (force.trans set)

/-! ### Phase steps (R245) -/

theorem State.nat_setInt (s : State) (a : Nat) (x : Int) : (s.setInt a x).nat a = ofSigned 32 x :=
  s.nat_setNat_fits a _ (ofSigned_lt x)

/-- Sums in two's complement do not see what lies above 32 bits. -/
theorem ofSigned_add_toSigned (x y : Int) : ofSigned 32 (toSigned 32 (ofSigned 32 x) + y) = ofSigned 32 (x + y) := by
  unfold ofSigned toSigned
  norm_num
  split <;> congr 1 <;> omega

theorem State.settleStep_step (s : State) :
    s.settleStep.nat aPLU_PHASE_STEP = ofSigned 32 (s.int aPLU_PHASE_STEP - s.stepMoved) := by
  have passes : s.stepPasses.nat aPLU_PHASE_STEP = ofSigned 32 (s.int aPLU_PHASE_STEP - s.stepMoved) := State.nat_setInt _ _ _
  rw [State.settleStep_eq]
  split
  · exact (State.nat_setNat_other _ _ _ _ (by decide)).trans passes
  · exact passes

theorem State.settleStep_ofs (s : State) : s.settleStep.nat aPLU_PHASE_OFS =
    ofSigned 32 (clampI (-2147483648) 2147483647 (s.int aPLU_PHASE_OFS + s.stepMoved)) := by
  have before : s.stepEnds.int aPLU_PHASE_OFS = s.int aPLU_PHASE_OFS :=
    congrArg (toSigned 32) (s.stepEnds_regsBut.nat aPLU_PHASE_OFS (by decide))
  have passes : s.stepPasses.nat aPLU_PHASE_OFS = ofSigned 32 (clampI (-2147483648) 2147483647 (s.int aPLU_PHASE_OFS + s.stepMoved)) := by
    rw [State.stepPasses, before]
    exact (State.nat_setNat_other _ _ _ _ (by decide)).trans (State.nat_setInt _ _ _)
  rw [State.settleStep_eq]
  split
  · exact (State.nat_setNat_other _ _ _ _ (by decide)).trans passes
  · exact passes

/-- R245: a step added to what remains. -/
def State.stepAdded (s : State) (v : Word) : State :=
  s.settleStep.setInt aPLU_PHASE_STEP (s.settleStep.int aPLU_PHASE_STEP + toSigned 32 v.toNat)

theorem State.stepAdded_step (s : State) (v : Word) : (s.stepAdded v).nat aPLU_PHASE_STEP =
    ofSigned 32 (s.int aPLU_PHASE_STEP - s.stepMoved + toSigned 32 v.toNat) := by
  rw [State.stepAdded, State.nat_setInt, State.int, State.settleStep_step, ofSigned_add_toSigned]

theorem State.addPhaseStep_regsBut (s : State) (v : Word) : (s.stepAdded v).RegsBut (s.addPhaseStep v) [aPLU_ALARM] := by
  have still : (s.stepAdded v).RegsBut (if (s.stepAdded v).nat aPLU_PHASE_STEP = 0 then
      (s.stepAdded v).modPlu fun p => { p with stepFrac := 0 } else s.stepAdded v) [aPLU_ALARM] :=
    .ite _ ((State.RegsBut.refl _ _).same (State.modPlu_regs _ _)) (.refl _ _)
  exact still.raiseIf _ _ (by decide)

theorem pluPhaseStepWrite_adds (s : State) (v : Word) (takes : s.takes .pcie aPLU_PHASE_STEP = true) :
    Completes (exec (.pluPhaseStepWrite v) s) fun t =>
      t.nat aPLU_PHASE_STEP = ofSigned 32 (s.int aPLU_PHASE_STEP - s.stepMoved + toSigned 32 v.toNat) ∧
      t.nat aPLU_PHASE_OFS = ofSigned 32 (clampI (-2147483648) 2147483647 (s.int aPLU_PHASE_OFS + s.stepMoved)) ∧
      s.RegsBut t [aPLU_PHASE_STEP, aPLU_PHASE_OFS, aPLU_PHASE_ERR, aPLU_ALARM] := by
  have answers : exec (.pluPhaseStepWrite v) s = .next (s.addPhaseStep v) := congrArg _ (hostWrite_taken s _ _ takes)
  have ended := s.addPhaseStep_regsBut v
  refine .of_next answers ⟨?_, ?_, ?_⟩
  · rw [ended.nat _ (by decide), s.stepAdded_step]
  · rw [ended.nat _ (by decide), State.stepAdded, State.setInt, State.nat_setNat_other _ _ _ _ (by decide), s.settleStep_ofs]
  · exact (s.settleStep_regsBut.setInt _ _ (by decide)).trans (ended.mono (by decide))

/-- R245: with the whole of what remains within the slope's reach, all of it moves. -/
theorem State.stepMoved_reaches (s : State) (reach : s.stepLeft.natAbs ≤ s.slopeLim * (s.clk - s.plu.stepFrom))
    (from_ : s.plu.stepFrom ≤ s.clk) : s.stepMoved = s.int aPLU_PHASE_STEP := by
  have room : (s.stepLeft.natAbs : Int) ≤ s.slopeLim * ((s.clk : Int) - s.plu.stepFrom) := by
    rw [← Int.natCast_sub from_]
    exact_mod_cast reach
  have motion : s.stepMotion = s.stepLeft := clampI_of_mem (by omega) (by omega)
  rw [State.stepMoved, motion, State.stepLeft, add_sub_cancel, Int.mul_tdiv_cancel _ (by decide)]

theorem State.settleStep_done (s : State) (moved : s.stepMoved = s.int aPLU_PHASE_STEP) (left : s.int aPLU_PHASE_STEP ≠ 0) :
    s.settleStep.is fPLU_ALARM_STEP_DONE = true := by
  have ends : s.stepEnds.is fPLU_ALARM_STEP_DONE = true := by
    rw [State.stepEnds, State.raiseIf, if_pos (by simp [moved, left])]
    exact State.is_raise_fits _ _ (by decide)
  have passes : s.stepPasses.is fPLU_ALARM_STEP_DONE = true :=
    (State.is_setNat_other _ _ _ _ (by decide)).trans ((State.is_setNat_other _ _ _ _ (by decide)).trans ends)
  rw [State.settleStep_eq]
  split
  · exact (State.is_setNat_other _ _ _ _ (by decide)).trans passes
  · exact passes

theorem toSigned_ne_zero {v : Nat} (fits : v < 2 ^ 32) (some_ : v ≠ 0) : toSigned 32 v ≠ 0 := by
  unfold toSigned
  dsimp only
  rw [Nat.mod_eq_of_lt fits]
  split <;> omega

theorem State.plu_waitClk (s : State) (c : Nat) : (s.waitClk c).plu = s.plu := waitClk_same State.plu (fun _ _ _ _ => rfl) s c

theorem pluStepDone_done (s : State) (runs : s.held 12 = false) (cold : s.cold = false) (some_ : s.nat aPLU_PHASE_STEP ≠ 0)
    (slope : s.get fPLU_LOOP_SLOPE ≠ 0) : Completes (exec .pluStepDone s) fun t => t.nat aPLU_PHASE_STEP = 0 ∧
      t.is fPLU_ALARM_STEP_DONE = true ∧ s.plu.stepFrom + divUp s.stepLeft.natAbs s.slopeLim ≤ t.clk := by
  have slopes : 0 < s.slopeLim := Nat.mul_pos (by decide) (Nat.pos_of_ne_zero slope)
  have answers : exec .pluStepDone s =
      .next (s.waitClk (s.plu.stepFrom + divUp s.stepLeft.natAbs (max 1 s.slopeLim))).settleStep :=
    if_neg (by simp [runs, cold, some_])
  rw [Nat.max_eq_right slopes] at answers
  have clk := waitClk_clk s (s.plu.stepFrom + divUp s.stepLeft.natAbs s.slopeLim)
  have plu := s.plu_waitClk (s.plu.stepFrom + divUp s.stepLeft.natAbs s.slopeLim)
  have regs := s.regs_waitClk (s.plu.stepFrom + divUp s.stepLeft.natAbs s.slopeLim)
  generalize s.waitClk (s.plu.stepFrom + divUp s.stepLeft.natAbs s.slopeLim) = u at answers clk plu regs
  have step : u.int aPLU_PHASE_STEP = s.int aPLU_PHASE_STEP := congrArg (toSigned 32) (State.nat_congr regs _)
  have left : u.stepLeft = s.stepLeft := by rw [State.stepLeft, step, plu, State.stepLeft]
  have lim : u.slopeLim = s.slopeLim := congrArg (500 * ·) (State.get_congr regs _)
  have moved : u.stepMoved = u.int aPLU_PHASE_STEP := by
    refine u.stepMoved_reaches ?_ (by rw [plu]; omega)
    rw [left, lim, plu]
    calc s.stepLeft.natAbs ≤ divUp s.stepLeft.natAbs s.slopeLim * s.slopeLim := divUp_mul_ge _ _ slopes
      _ = s.slopeLim * divUp s.stepLeft.natAbs s.slopeLim := Nat.mul_comm _ _
      _ ≤ s.slopeLim * (u.clk - s.plu.stepFrom) := Nat.mul_le_mul_left _ (by omega)
  refine .of_next answers ⟨?_, u.settleStep_done moved ?_, ?_⟩
  · rw [u.settleStep_step, moved, Int.sub_self]
    rfl
  · exact step ▸ toSigned_ne_zero (s.nat_lt _) some_
  · rw [u.settleStep_clk]
    omega

/-! ### Clock outputs (R249, R250) -/

theorem clkoutFreqWrite_next (s : State) (k : Fin 4) (v : Word) (takes : s.takes .pcie (aPLU_CLKOUT k) = true) :
    exec (.clkoutFreqWrite k v) s = .next ((s.writeClkout k v).1.told .pcie (aPLU_CLKOUT k) (s.writeClkout k v).2).1 :=
  congrArg _ (hostWrite_taken s _ _ takes)

/-- The configuration of an output lies below what it shows. -/
theorem State.get_showOutputs_cfg (s : State) (f : Fld) (low : f.lo + f.len ≤ 8) : s.showOutputs.get f = s.get f :=
  foldl_same (·.get f) _ (fun t k => t.get_setB_beside (fPLU_CLKOUT_ACTIVE k) f _ (by
    simp [Fld.beside, fPLU_CLKOUT_ACTIVE, low])) _ s

/-- R249: an output takes its code and its squelch. -/
def State.clkoutTaken (s : State) (k : Nat) (v : Word) : State :=
  (s.set (fPLU_CLKOUT_FREQ k) (fld v 0 3)).set (fPLU_CLKOUT_SQUELCH k) (if fld v 4 2 = 3 then 2 else fld v 4 2)

theorem clkoutFreqWrite_takes (s : State) (k : Fin 4) (v : Word) (takes : s.takes .pcie (aPLU_CLKOUT k) = true)
    (free : ¬ (k = 3 ∧ s.is (fPLU_CLKOUT_TIME_OWNED 3) = true ∧ fld v 0 3 ≠ 0 ∧ fld v 0 3 ≠ 7)) :
    Completes (exec (.clkoutFreqWrite k v) s) fun t => t.get (fPLU_CLKOUT_FREQ k) = fld v 0 3 ∧
      t.get (fPLU_CLKOUT_SQUELCH k) = (if fld v 4 2 = 3 then 2 else fld v 4 2) := by
  have written : s.writeClkout k v = ((s.clkoutTaken k v).showOutputs, .ok) := by
    refine if_neg fun refused => free ?_
    simp only [Bool.and_eq_true, decide_eq_true_eq] at refused
    exact ⟨Fin.ext refused.1.1.1, refused.1.1.2, refused.1.2, refused.2⟩
  have answers := clkoutFreqWrite_next s k v takes
  rw [written] at answers
  refine .of_next answers ⟨?_, ?_⟩
  · refine (State.get_showOutputs_cfg _ (fPLU_CLKOUT_FREQ k) (by simp [fPLU_CLKOUT_FREQ])).trans ?_
    rw [State.clkoutTaken, State.get_set_beside _ _ _ _ rfl, State.get_set_fits _ _ _ rfl]
    exact Nat.mod_eq_of_lt (bitsOf_lt _ _ _)
  · refine (State.get_showOutputs_cfg _ (fPLU_CLKOUT_SQUELCH k) (by simp [fPLU_CLKOUT_SQUELCH])).trans ?_
    rw [State.clkoutTaken, State.get_set_fits _ _ _ rfl]
    refine Nat.mod_eq_of_lt ?_
    split
    · exact (by decide : 2 < 2 ^ 2)
    · exact bitsOf_lt _ _ _

/-- R433: the registers of the access log. -/
def accRegs : List Nat := [aGLB_ACC_CNT, aGLB_ACC_CNT + 4, aGLB_ACC_LAST, aGLB_ACC_ADDR, aGLB_ALARM]

theorem State.logAcc_regsBut (s : State) (c : AccCode) (addr : Nat) (write : Bool) : s.RegsBut (s.logAcc c addr write) accRegs :=
  (((((State.RegsBut.refl s _).setNat _ _ (by decide)).setNat _ _ (by decide)).setNat _ _ (by decide)).setNat _ _
    (by decide)).raise _ (by decide)

theorem clkoutFreqWrite_refuses (s : State) (v : Word) (takes : s.takes .pcie (aPLU_CLKOUT 3) = true)
    (owned : s.is (fPLU_CLKOUT_TIME_OWNED 3) = true) (on : fld v 0 3 ≠ 0) (on' : fld v 0 3 ≠ 7) :
    Completes (exec (.clkoutFreqWrite 3 v) s) fun t => t.is fPLU_ALARM_RES_BUSY = true ∧
      t.get (fPLU_CLKOUT_FREQ 3) = s.get (fPLU_CLKOUT_FREQ 3) := by
  have refused : s.writeClkout 3 v = (s.raise fPLU_ALARM_RES_BUSY, .resBusy) := if_pos (by simp [owned, on, on'])
  have answers := clkoutFreqWrite_next s 3 v takes
  have logged := (s.raise fPLU_ALARM_RES_BUSY).logAcc_regsBut .resBusy (aPLU_CLKOUT 3) true
  refine .of_next (answers.trans (congrArg _ ?_)) ⟨(logged.is _ (by decide)).trans (State.is_raise_fits _ _ (by decide)),
    (logged.get _ (by decide)).trans (State.get_raise_elsewhere _ _ _ (by decide))⟩
  exact congrArg (fun r : State × Code => (r.1.told .pcie (aPLU_CLKOUT 3) r.2).1) refused

/-- Settles O32: each write of PLU's controls, its step and its outputs does its own. -/
theorem plumbControls : Obligations.PlumbControls := by
  intro s v k
  refine ⟨fun takes => ⟨.of_next (pluClrHist_next s takes) s.clearHist_shows, pluEnWrite_on s takes, pluEnWrite_off s takes, ?_, ?_⟩,
    pluPhaseStepWrite_adds s v, pluStepDone_done s, fun takes => ⟨clkoutFreqWrite_takes s k v takes, ?_⟩⟩
  · obtain ⟨t, answers, force, forced, -⟩ := pluForceHoldWrite_shows s false takes
    exact ⟨t, answers, force, forced⟩
  · obtain ⟨t, answers, force, forced, gone⟩ := pluForceHoldWrite_shows s true takes
    exact ⟨t, answers, force, forced, gone rfl⟩
  · rintro rfl
    exact clkoutFreqWrite_refuses s v takes

end Sys2Proof.Machine
end

section
/-!
SUPPORT. The states of PLU while it runs, of 10 (O31).
-/

-- one theorem after another: all at once would not fit the memory
set_option Elab.async false

namespace Sys2Proof.Machine

/-! ### What tracking, a reference's status and time leave -/

theorem State.regs_modRef (s : State) (r : Nat) (f : RefState → RefState) : (s.modRef r f).regs = s.regs := rfl

/-- An aim moves the output alone. -/
theorem State.plu_aim (s : State) (f : Int) : ∃ base from_,
    (s.aim f).plu = { s.plu with base := base, goal := f, goalFrom := from_ } := by
  unfold State.aim
  dsimp only
  split <;> exact ⟨_, _, rfl⟩

theorem State.plu_pluTrack (s : State) : ∃ base goal from_,
    s.pluTrack.plu = { s.plu with base := base, goal := goal, goalFrom := from_ } := by
  unfold State.pluTrack
  dsimp only
  split
  · obtain ⟨base, from_, aimed⟩ := s.plu_aim (s.int (aPLU_REF_FREQ (s.get fPLU_STATE_SEL_REF)))
    exact ⟨base, _, from_, aimed⟩
  · exact ⟨_, _, _, rfl⟩

theorem State.pluTrack_clk (s : State) : s.pluTrack.clk = s.clk := (State.pluTrack_fr (F := 16777217) s (.refl s)).clk

theorem refStatus_notMem {r : Nat} (h : r < 32) : aPLU_REF_STATUS r ∉ steerRegs := by
  have all : ∀ r < 32, aPLU_REF_STATUS r ∉ steerRegs := by decide
  exact all r h

theorem refFreq_notMem {r : Nat} (h : r < 32) : aPLU_REF_FREQ r ∉ steerRegs ∧ aPLU_REF_FREQ r ≠ aPLU_STATE := by
  have all : ∀ r < 32, aPLU_REF_FREQ r ∉ steerRegs ∧ aPLU_REF_FREQ r ≠ aPLU_STATE := by decide
  exact all r h

/-- A change of the state or of the selection writes no field of a reference's status but SELECTED. -/
theorem PluSame.status {s t : State} (h : PluSame steerFlds s t) {r : Nat} (hr : r < 32) (g : Fld) (own : g.addr = aPLU_REF_STATUS r)
    (beside : (fPLU_REF_STATUS_SELECTED r).beside g = true) : t.get g = s.get g := by
  have apart : ∀ r < 32, aPLU_STATE ≠ aPLU_REF_STATUS r := by decide
  refine h.get g (own ▸ refStatus_notMem hr) fun f m => ?_
  simp only [steerFlds, stateFlds, selFlds, List.mem_append, List.mem_cons, List.not_mem_nil, or_false, List.mem_map] at m
  have state (f : Fld) (at_ : f.addr = aPLU_STATE) : f.clear g = true := by simp [Fld.clear, at_, own, apart r hr]
  rcases m with (rfl | rfl) | (rfl | rfl) | ⟨q, -, rfl⟩
  · exact state _ rfl
  · exact state _ rfl
  · exact state _ rfl
  · exact state _ rfl
  · exact Bool.or_eq_true_iff.mpr (.inr beside)

/-- The judgement of the references writes two fields of their status. -/
theorem PluSame.judged {s t : State} (h : PluSame judgeFlds s t) {r : Nat} (hr : r < 32) (g : Fld) (own : g.addr = aPLU_REF_STATUS r)
    (qualified : (fPLU_REF_STATUS_QUALIFIED r).beside g = true) (disagree : (fPLU_REF_STATUS_FREQ_DISAGREE r).beside g = true) :
    t.get g = s.get g := by
  refine h.get g (own ▸ refStatus_notMem hr) fun f m => ?_
  simp only [judgeFlds, List.mem_flatMap, List.mem_cons, List.not_mem_nil, or_false] at m
  obtain ⟨q, -, rfl | rfl⟩ := m
  · exact Bool.or_eq_true_iff.mpr (.inr qualified)
  · exact Bool.or_eq_true_iff.mpr (.inr disagree)

/-! ### The end of a pull (R243) -/

/-- The registers that the end of a pull writes. -/
def pullRegs : List Nat := [aPLU_STATE, aPLU_PHASE_ERR, aPLU_FREQ, aPLU_PHASE_OFS, aPLU_PHASE_STEP, aPLU_ALARM]

/-- R242: the output tracks the frequency that the reference was measured at before the change of state. -/
theorem State.RegsBut.tracks {s t : State} (h : s.RegsBut t pullRegs) (sel : t.get fPLU_STATE_SEL_REF = s.get fPLU_STATE_SEL_REF)
    (ref : s.get fPLU_STATE_SEL_REF < 32)
    (follows : t.get fPLU_STATE_STATE = 2 ∨ t.get fPLU_STATE_STATE = 1 ∧ t.is fPLU_STATE_PULLING = false) :
    FreqShown t.pluTrack ∧ t.pluTrack.plu.goal = s.int (aPLU_REF_FREQ (s.get fPLU_STATE_SEL_REF)) := by
  have apart : ∀ r < 32, aPLU_REF_FREQ r ∉ pullRegs := by decide
  have measured : t.int (aPLU_REF_FREQ (s.get fPLU_STATE_SEL_REF)) = s.int (aPLU_REF_FREQ (s.get fPLU_STATE_SEL_REF)) :=
    congrArg (toSigned 32) (h.nat _ (apart _ ref))
  rw [← measured, ← sel]
  exact State.pluTrack_tracks (sel ▸ ref) follows

/-- A pull ends with its phase error: the time of the lock counts from now. -/
def State.pullEnded (s : State) (err : Int) : State :=
  ((s.setB fPLU_STATE_PULLING false).setInt aPLU_PHASE_ERR err).modPlu fun p => { p with
    lockFrom := s.clk, goalFrom := s.clk, gap := 0 }

theorem State.pullEnded_regsBut (s : State) (err : Int) : s.RegsBut (s.pullEnded err) [aPLU_STATE, aPLU_PHASE_ERR] :=
  (((State.RegsBut.refl s _).setB _ _ (by decide)).setInt _ _ (by decide)).same (State.modPlu_regs _ _)

theorem State.pullEnded_shows (s : State) (err : Int) : (s.pullEnded err).is fPLU_STATE_PULLING = false ∧
    (s.pullEnded err).get fPLU_STATE_STATE = s.get fPLU_STATE_STATE ∧
    (s.pullEnded err).get fPLU_STATE_SEL_REF = s.get fPLU_STATE_SEL_REF ∧
    (s.pullEnded err).nat aPLU_PHASE_ERR = ofSigned 32 err := by
  refine ⟨?_, ?_, ?_, State.nat_setInt _ _ _⟩
  · exact (State.is_setNat_other _ _ _ _ (by decide)).trans (State.is_setB_fits _ _ _ (by decide))
  · exact (State.get_setNat_other _ _ _ _ (by decide)).trans (State.get_setB_beside _ _ _ _ (by decide))
  · exact (State.get_setNat_other _ _ _ _ (by decide)).trans (State.get_setB_beside _ _ _ _ (by decide))

theorem pluPullEnd_ends (s : State) (err : Int) (runs : s.pluRuns = true) (state : s.get fPLU_STATE_STATE = 1)
    (near : err.natAbs ≤ s.get fPLU_LOCK_THR) (c : Nat) (pulling : s.is fPLU_STATE_PULLING = true)
    (due : s.settleStep.pullCycles = some c) : Completes (exec (.pluPullEnd err) s) fun t =>
      t.is fPLU_STATE_PULLING = false ∧ t.get fPLU_STATE_STATE = 1 ∧ t.nat aPLU_PHASE_ERR = ofSigned 32 err ∧
      t.clk = s.clk + c ∧ t.plu.lockFrom = t.clk ∧
      (s.get fPLU_STATE_SEL_REF < 32 → t.nat aPLU_FREQ = ofSigned 32 t.outFreq ∧
        t.plu.goal = s.int (aPLU_REF_FREQ (s.get fPLU_STATE_SEL_REF))) ∧ s.RegsBut t pullRegs := by
  have answers : exec (.pluPullEnd err) s =
      .next (((s.settleStep.waitClk (s.settleStep.clk + c)).settleStep.pullEnded err).pluTrack) := by
    show execPluPullEnd err s = _
    unfold execPluPullEnd
    rw [if_pos (by simp [runs, state, near, pulling])]
    dsimp only
    rw [due]
    rfl
  have moved : s.RegsBut (s.settleStep.waitClk (s.settleStep.clk + c)).settleStep stepRegs :=
    (s.settleStep_regsBut.same (State.regs_waitClk _ _)).trans (State.settleStep_regsBut _)
  have clk : (s.settleStep.waitClk (s.settleStep.clk + c)).settleStep.clk = s.clk + c := by
    rw [State.settleStep_clk, waitClk_clk, State.settleStep_clk]
    exact Nat.max_eq_right (Nat.le_add_right _ _)
  generalize (s.settleStep.waitClk (s.settleStep.clk + c)).settleStep = w at answers moved clk
  obtain ⟨idle, st, sel, shown⟩ := w.pullEnded_shows err
  rw [moved.get _ (by decide)] at st sel
  have ended : s.RegsBut (w.pullEnded err) pullRegs := (moved.mono (by decide)).trans ((w.pullEnded_regsBut err).mono (by decide))
  have tracks := (w.pullEnded err).pluTrack_regsBut
  obtain ⟨_, _, _, plu⟩ := (w.pullEnded err).plu_pluTrack
  have time : (w.pullEnded err).pluTrack.clk = w.clk := State.pluTrack_clk _
  refine .of_next answers ⟨(tracks.is _ (by decide)).trans idle, (tracks.get _ (by decide)).trans (st.trans state),
    (tracks.nat _ (by decide)).trans shown, time.trans clk, ?_,
    fun ref => ended.tracks sel ref (.inr ⟨st.trans state, idle⟩), ended.trans (tracks.mono (by decide))⟩
  rw [plu, time]
  rfl

/-! ### The lock and its loss (R242) -/

/-- LOCKED entered with its phase error. -/
def State.locked (s : State) (err : Int) : State :=
  ((s.set fPLU_STATE_STATE 2).setInt aPLU_PHASE_ERR err).modPlu fun p => { p with lockedSince := some s.tb0 }

theorem State.locked_shows (s : State) (err : Int) : (s.locked err).get fPLU_STATE_STATE = 2 ∧
    (s.locked err).get fPLU_STATE_SEL_REF = s.get fPLU_STATE_SEL_REF :=
  ⟨(State.get_setNat_other _ _ _ _ (by decide)).trans (State.get_set_fits s _ _ (by decide)),
    (State.get_setNat_other _ _ _ _ (by decide)).trans (State.get_set_beside s fPLU_STATE_STATE _ _ (by decide))⟩

theorem pluLockAchieved_locks (s : State) (err : Int) (runs : s.pluRuns = true) (state : s.get fPLU_STATE_STATE = 1)
    (near : err.natAbs ≤ s.get fPLU_LOCK_THR) (idle : s.is fPLU_STATE_PULLING = false) :
    Completes (exec (.pluLockAchieved err) s) fun t => t.get fPLU_STATE_STATE = 2 ∧
      s.plu.lockFrom + cyclesMs * s.get fPLU_LOCK_TIME ≤ t.clk ∧ t.plu.lockedSince.isSome = true ∧
      (s.get fPLU_STATE_SEL_REF < 32 → t.nat aPLU_FREQ = ofSigned 32 t.outFreq ∧
        t.plu.goal = s.int (aPLU_REF_FREQ (s.get fPLU_STATE_SEL_REF))) := by
  have answers : exec (.pluLockAchieved err) s =
      .next (((s.waitClk (s.plu.lockFrom + cyclesMs * s.get fPLU_LOCK_TIME)).locked err).pluTrack).showOutputs :=
    if_pos (by simp [runs, state, near, idle])
  have regs := s.regs_waitClk (s.plu.lockFrom + cyclesMs * s.get fPLU_LOCK_TIME)
  have clk := waitClk_clk s (s.plu.lockFrom + cyclesMs * s.get fPLU_LOCK_TIME)
  generalize s.waitClk (s.plu.lockFrom + cyclesMs * s.get fPLU_LOCK_TIME) = w at answers regs clk
  obtain ⟨lock, sel⟩ := w.locked_shows err
  rw [State.get_congr regs] at sel
  have changed : s.RegsBut (w.locked err) pullRegs :=
    ((((State.RegsBut.refl s _).same regs).set _ _ (by decide)).setInt _ _ (by decide)).same (State.modPlu_regs _ _)
  obtain ⟨_, _, _, plu⟩ := (w.locked err).plu_pluTrack
  have time : ((w.locked err).pluTrack).showOutputs.clk = w.clk :=
    (State.showOutputs_fr (F := 1) _ (.refl _)).clk.trans (State.pluTrack_clk _)
  refine .of_next answers ⟨?_, by omega, ?_, fun ref => ?_⟩
  · exact (State.get_showOutputs _ _ (by decide)).trans (((State.pluTrack_regsBut _).get _ (by decide)).trans lock)
  · rw [State.plu_showOutputs, plu]
    rfl
  · obtain ⟨freq, goal⟩ := changed.tracks sel ref (.inl lock)
    exact ⟨freq.showOutputs, (congrArg _ (State.plu_showOutputs _)).trans goal⟩

theorem pluLockLoss_locked (s : State) (err : Int) (runs : s.pluRuns = true) (state : s.get fPLU_STATE_STATE = 2)
    (far : s.get fPLU_LOCK_THR < err.natAbs) : Completes (exec (.pluLockLoss err) s) fun t =>
      t.get fPLU_STATE_STATE = 1 ∧ t.is fPLU_STATE_PULLING = true ∧ t.selEntry = s.selEntry ∧
      t.nat aPLU_PHASE_ERR = ofSigned 32 err ∧ t.plu.acqFrom = s.clk := by
  have answers : exec (.pluLockLoss err) s = .next (s.acquire.setInt aPLU_PHASE_ERR err) :=
    (if_neg (by simp [runs, far])).trans (if_pos state)
  obtain ⟨st, pulling, from_⟩ := s.acquire_shows
  exact .of_next answers ⟨(State.get_setNat_other _ _ _ _ (by decide)).trans st,
    (State.is_setNat_other _ _ _ _ (by decide)).trans pulling,
    (State.get_setNat_other _ _ _ _ (by decide)).trans s.selEntry_acquire, State.nat_setInt _ _ _, from_⟩

theorem pluLockLoss_acquiring (s : State) (err : Int) (runs : s.pluRuns = true) (state : s.get fPLU_STATE_STATE = 1)
    (idle : s.is fPLU_STATE_PULLING = false) (far : s.get fPLU_LOCK_THR < err.natAbs) :
    Completes (exec (.pluLockLoss err) s) fun t => t.get fPLU_STATE_STATE = 1 ∧ t.plu.lockFrom = s.clk ∧
      t.nat aPLU_PHASE_ERR = ofSigned 32 err ∧ s.RegsBut t [aPLU_PHASE_ERR] := by
  have answers : exec (.pluLockLoss err) s =
      .next ((s.setInt aPLU_PHASE_ERR err).modPlu fun p => { p with lockFrom := s.clk }) :=
    (if_neg (by simp [runs, far])).trans ((if_neg (by simp [state])).trans (if_pos (by simp [state, idle])))
  exact .of_next answers ⟨(State.get_setNat_other s _ _ _ (by decide)).trans state, rfl, State.nat_setInt s _ _,
    ((State.RegsBut.refl s _).setInt _ _ (by decide)).same (State.modPlu_regs _ _)⟩

/-! ### The limit of ACQUIRING and a wait to restore (R239, R244) -/

/-- R244: ACQ_HOLD falls on a reference. -/
def State.acqHeld (s : State) (r until_ : Nat) : State :=
  ((s.setB (fPLU_REF_STATUS_ACQ_HOLD r) true).modRef r fun x => { x with holdEnd := some until_ }).raise fPLU_ALARM_ACQ_FAIL

theorem State.is_acqHeld (s : State) {r : Nat} (hr : r < 32) (until_ : Nat) :
    (s.acqHeld r until_).is (fPLU_REF_STATUS_ACQ_HOLD r) = true := by
  have apart : ∀ r < 32, aPLU_ALARM ≠ aPLU_REF_STATUS r := by decide
  rw [State.acqHeld, State.is_raise_elsewhere _ _ _ (apart r hr), State.is_congr (State.regs_modRef _ _ _)]
  exact State.is_setB_fits _ _ _ rfl

theorem pluAcqLimit_holds (s : State) (runs : s.pluRuns = true) (state : s.get fPLU_STATE_STATE = 1) (entry : s.selEntry < 16)
    (ref : s.get fPLU_STATE_SEL_REF < 32) : Completes (exec .pluAcqLimit s) fun t =>
      t.is (fPLU_REF_STATUS_ACQ_HOLD (s.get fPLU_STATE_SEL_REF)) = true ∧
      s.plu.acqFrom + cyclesSec * s.nat aPLU_ACQ_LIMIT ≤ t.clk := by
  obtain ⟨c, r, until_, due, same, answers⟩ : ∃ c r until_, s.plu.acqFrom + cyclesSec * s.nat aPLU_ACQ_LIMIT ≤ c ∧
      r = s.get fPLU_STATE_SEL_REF ∧
      exec .pluAcqLimit s = .next ((((s.settleStep.waitClk c).acqHeld r until_).judgeRef r).select) := by
    refine ⟨s.settleStep.plu.acqFrom + cyclesSec * s.settleStep.nat aPLU_ACQ_LIMIT +
      divUp (s.settleStep.plu.gap0 + s.settleStep.stepLeft.natAbs) (max 1 s.settleStep.slopeLim), _, _, ?_, ?_,
      if_pos (by simp [runs, state, entry])⟩
    · rw [s.plu_settleStep, s.settleStep_regsBut.nat _ (by decide)]
      exact Nat.le_add_right _ _
    · exact (State.get_congr (State.regs_waitClk _ _) _).trans (s.settleStep_regsBut.get _ (by decide))
  subst same
  have held := State.is_acqHeld (s.settleStep.waitClk c) ref until_
  have clk : ((s.settleStep.waitClk c).acqHeld (s.get fPLU_STATE_SEL_REF) until_).clk = max s.settleStep.clk c :=
    (State.raise_clk _ _).trans (waitClk_clk _ _)
  generalize (s.settleStep.waitClk c).acqHeld (s.get fPLU_STATE_SEL_REF) until_ = w at answers held clk
  have judged := (w.judgeRef_same ref).judged ref (fPLU_REF_STATUS_ACQ_HOLD _) rfl rfl rfl
  have kept := (w.judgeRef (s.get fPLU_STATE_SEL_REF)).select_same.status ref (fPLU_REF_STATUS_ACQ_HOLD _) rfl rfl
  have time : (w.judgeRef (s.get fPLU_STATE_SEL_REF)).select.clk = w.clk :=
    (State.select_clk _).trans (State.judgeRef_fr (F := 16777217) w _ (.refl w)).clk
  refine .of_next answers ⟨?_, by omega⟩
  rw [State.is, kept, judged]
  exact held

/-- R239: with the selected entry still a candidate, the best that may take its place does. -/
theorem State.select_better (s : State) (runs : s.pluRuns = true) (en : s.is fPLU_CTRL_EN = true)
    (force : s.is fPLU_CTRL_FORCE_HOLD = false) (entry : s.selEntry < 16) (cand : s.isCand s.selEntry = true)
    (ref : s.get (fPLU_PRIO_REF s.selEntry) = s.get fPLU_STATE_SEL_REF) (x : Nat)
    (best : s.bestEntry ((List.range 16).filter fun e => s.isCand e &&
      s.get (fPLU_PRIO_PRIO e) < s.get (fPLU_PRIO_PRIO s.selEntry) && s.is (fPLU_PRIO_REVERT e) &&
      (match (s.ref (s.get (fPLU_PRIO_REF e))).qualAt with
       | some c => cyclesSec * s.get (fPLU_PRIO_WTR e) ≤ s.clk - c
       | none => false)) = some x) : s.select = s.switchTo x := by
  unfold State.select
  dsimp only
  rw [if_neg (by simp [runs, en]), if_pos (by simp [entry, cand, ref, force])]
  split
  next e found => exact congrArg s.switchTo (Option.some.inj (found.symm.trans best))
  next none_ => exact absurd (none_.symm.trans best) (by simp)

theorem State.isCand_congr {s t : State} (h : t.regs = s.regs) (e : Nat) : t.isCand e = s.isCand e := by
  unfold State.isCand State.selEntry
  simp only [State.get_congr h, State.reg_congr h]

theorem State.pluRuns_waitClk (s : State) (c : Nat) : (s.waitClk c).pluRuns = s.pluRuns :=
  State.pluRuns_regsBut ((State.RegsBut.refl s []).same (s.regs_waitClk c)) (waitClk_same State.cold (fun _ _ _ _ => rfl) s c)
    (waitClk_same State.bootHold (fun _ _ _ _ => rfl) s c) ⟨List.not_mem_nil, List.not_mem_nil⟩

/-- R239: the wait of an entry ends, and it takes the selection. -/
theorem wtrExpiry_switches (s : State) (runs : s.pluRuns = true) (e : Fin 16) (c x : Nat) (u : State)
    (since : (s.ref (s.get (fPLU_PRIO_REF e))).qualAt = some c) (waits : s.isCand e = true)
    (at_ : u = s.waitClk (c + cyclesSec * s.get (fPLU_PRIO_WTR e))) (fits : x < 16) (switches : u.select = u.switchTo x) :
    Completes (exec (.wtrExpiry e) s) fun t => t.selEntry = x ∧ t.get fPLU_STATE_STATE = 1 ∧
      t.is fPLU_STATE_PULLING = true ∧ t.is fPLU_ALARM_SWITCH = true := by
  have answers : exec (.wtrExpiry e) s = .next u.select := by
    show execWtrExpiry e s = _
    unfold execWtrExpiry
    rw [since]
    dsimp only
    rw [if_pos (by simp [runs, waits]), at_]
  exact .of_next (answers.trans (congrArg _ switches)) (u.switchTo_shows (by omega))

/-! ### The limit of HOLDOVER and the return of OSCIN (R242) -/

theorem holdoverLimit_loses (s : State) (runs : s.pluRuns = true) (c : Nat) (from_ : s.plu.holdFrom = some c)
    (state : s.get fPLU_STATE_STATE = 3) (limit : s.get fPLU_HOLD_LIMIT ≠ 0) : Completes (exec .holdoverLimit s) fun t =>
      t.get fPLU_STATE_STATE = 4 ∧ t.is fPLU_ALARM_LOST = true ∧ t.plu.limitHit = true ∧ t.plu.holdFrom = some c ∧
      c + cyclesSec * (s.get fPLU_HOLD_LIMIT * 60) < t.clk := by
  have answers : exec .holdoverLimit s = .next ((s.waitClk (c + cyclesSec * (s.get fPLU_HOLD_LIMIT * 60) + 1)).enterLost.modPlu
      fun p => { p with limitHit := true }) := by
    show execHoldoverLimit s = _
    unfold execHoldoverLimit
    rw [from_]
    exact if_pos (by simp [runs, state, limit])
  have plu := s.plu_waitClk (c + cyclesSec * (s.get fPLU_HOLD_LIMIT * 60) + 1)
  have clk := waitClk_clk s (c + cyclesSec * (s.get fPLU_HOLD_LIMIT * 60) + 1)
  generalize s.waitClk (c + cyclesSec * (s.get fPLU_HOLD_LIMIT * 60) + 1) = w at answers plu clk
  obtain ⟨lost, alarm, kept⟩ := w.enterLost_shows
  have time : w.enterLost.clk = w.clk := (State.enterLost_fr (F := 16777233) w (.refl w)).clk
  refine .of_next answers ⟨(State.get_congr (State.modPlu_regs _ _) _).trans lost,
    (State.is_congr (State.modPlu_regs _ _) _).trans alarm, rfl, kept c (plu ▸ from_), ?_⟩
  rw [State.modPlu_clk, time]
  omega

/-- The wait of 1 s from the return of OSCIN. -/
def State.oscinWaited (s : State) : State :=
  match s.plu.oscinBack with
  | some c => s.waitClk (cyclesSec + c)
  | none => s

theorem State.oscinWaited_same (s : State) : s.oscinWaited.regs = s.regs ∧ s.oscinWaited.plu = s.plu := by
  unfold State.oscinWaited
  split
  · exact ⟨s.regs_waitClk _, s.plu_waitClk _⟩
  · exact ⟨rfl, rfl⟩

/-- R242: what is done where no candidate is found: nothing on the holdover limit, something with a valid history, else FREERUN. -/
theorem oscinRestored_next (s : State) (runs : s.pluRuns = true) (state : s.get fPLU_STATE_STATE = 4) (oscin : s.plu.oscin = true) :
    ∃ o : Ans, exec .oscinRestored s = if s.oscinWaited.select.get fPLU_STATE_STATE ≠ 4 then .next s.oscinWaited.select
      else if s.oscinWaited.select.plu.limitHit then .next s.oscinWaited.select
      else if s.oscinWaited.select.is fPLU_STATE_HIST_VALID then o else .next s.oscinWaited.select.enterFreerun :=
  ⟨_, if_pos (by simp [runs, state, oscin])⟩

theorem oscinRestored_leaves (s : State) (runs : s.pluRuns = true) (state : s.get fPLU_STATE_STATE = 4) (oscin : s.plu.oscin = true)
    (empty : s.is fPLU_STATE_HIST_VALID = false) (limit : s.plu.limitHit = false) :
    Completes (exec .oscinRestored s) fun t => t.get fPLU_STATE_STATE ≠ 4 := by
  obtain ⟨o, answers⟩ := oscinRestored_next s runs state oscin
  obtain ⟨regs, plu⟩ := s.oscinWaited_same
  have kept := s.oscinWaited.select_same
  rw [kept.limit (by rw [plu, limit]), (kept.is fPLU_STATE_HIST_VALID (by decide) (by decide)).trans ((State.is_congr regs _).trans empty),
    if_neg Bool.false_ne_true, if_neg Bool.false_ne_true] at answers
  by_cases left : s.oscinWaited.select.get fPLU_STATE_STATE ≠ 4
  · exact .of_next (answers.trans (if_pos left)) left
  · refine .of_next (answers.trans (if_neg left)) ?_
    rw [(State.enterFreerun_shows _).1]
    decide

/-! ### A second of history (R246) -/

/-- R246: a second taken into the history at its end. -/
def State.histTaken (s : State) (sec : Nat) (freq : Int) : State :=
  (s.waitTb 0 (1000000000 * sec)).modPlu fun p => { p with hist := ((sec, freq) :: p.hist).take 4111 }

theorem FreqShown.setB {s : State} (shown : FreqShown s) (f : Fld) (b : Bool) (own : f.addr = aPLU_STATE)
    (beside : f.beside fPLU_STATE_PULLING = true) : FreqShown (s.setB f b) := by
  have changed : s.RegsBut (s.setB f b) [aPLU_STATE] := (State.RegsBut.refl s _).setB _ _ (by simp [own])
  exact shown.regsBut changed (State.outFreq_congr rfl rfl (State.is_setB_beside _ _ _ _ beside) (changed.nat _ (by decide))
    (changed.get _ (by decide))) (by decide)

theorem State.plu_waitTb (s : State) (x ns : Nat) : (s.waitTb x ns).plu = s.plu := waitTb_same State.plu (fun _ _ _ _ => rfl) s x ns

/-- R246: the second that ends now, or the next after those taken and after the lock. -/
theorem pluHistorySecond_next (s : State) (err : Int) (runs : s.pluRuns = true) {t0 : Nat} (since : s.plu.lockedSince = some t0)
    (state : s.get fPLU_STATE_STATE = 2) : ∃ sec, s.tb0Sec ≤ sec ∧ exec (.pluHistorySecond err) s =
      .next ((s.histTaken sec err).showFreq.setB fPLU_STATE_HIST_VALID
        ((s.histTaken sec err).is fPLU_STATE_HIST_VALID || decide (60 ≤ (s.histTaken sec err).plu.hist.length))) := by
  show ∃ sec, _ ∧ execPluHistorySecond err s = _
  unfold execPluHistorySecond
  rw [since]
  dsimp only
  rw [if_neg (by simp [runs, state])]
  split
  next h _ => exact ⟨_, (Nat.le_max_left _ (h.1 + 1)).trans (Nat.le_max_right _ _), rfl⟩
  next => exact ⟨_, Nat.le_max_right _ _, rfl⟩

theorem pluHistorySecond_takes (s : State) (err : Int) (runs : s.pluRuns = true) (t0 : Nat) (since : s.plu.lockedSince = some t0)
    (state : s.get fPLU_STATE_STATE = 2) : Completes (exec (.pluHistorySecond err) s) fun t =>
      t.nat aPLU_FREQ = ofSigned 32 t.outFreq ∧ (∃ sec, t.plu.hist = ((sec, err) :: s.plu.hist).take 4111 ∧ s.tb0Sec ≤ sec) ∧
      t.is fPLU_STATE_HIST_VALID = (s.is fPLU_STATE_HIST_VALID || decide (60 ≤ t.plu.hist.length)) ∧
      s.RegsBut t [aPLU_STATE, aPLU_FREQ] := by
  obtain ⟨sec, later, answers⟩ := pluHistorySecond_next s err runs since state
  have regs : (s.histTaken sec err).regs = s.regs := s.regs_waitTb 0 _
  have hist : (s.histTaken sec err).plu.hist = ((sec, err) :: s.plu.hist).take 4111 := by
    rw [State.histTaken, State.modPlu_plu, s.plu_waitTb]
  rw [State.is_congr regs] at answers
  refine .of_next answers ⟨(State.freqShown_showFreq _).setB _ _ rfl (by decide), ⟨sec, hist, later⟩,
    State.is_setB_fits _ _ _ (by decide), ?_⟩
  exact (((State.RegsBut.refl s _).same regs).trans ((State.showFreq_regsBut _).mono (by decide))).setB _ _ (by decide)

/-- Settles O31: each event of a running PLU, in the states that its clause names. -/
theorem plumbStates : Obligations.PlumbStates := by
  intro s err runs
  refine ⟨fun state near => ⟨pluPullEnd_ends s err runs state near, pluLockAchieved_locks s err runs state near⟩,
    pluLockLoss_locked s err runs, pluLockLoss_acquiring s err runs, pluAcqLimit_holds s runs, ?_, holdoverLimit_loses s runs,
    oscinRestored_leaves s runs, pluHistorySecond_takes s err runs⟩
  intro e c x u since waits at_ en force entry cand ref best fits
  have regs : u.regs = s.regs := at_ ▸ s.regs_waitClk _
  have sel : u.selEntry = s.selEntry := State.get_congr regs _
  refine wtrExpiry_switches s runs e c x u since waits at_ fits (u.select_better ?_ ?_ ?_ ?_ ?_ ?_ x best)
  · exact at_ ▸ (s.pluRuns_waitClk _).trans runs
  · rw [State.is_congr regs, en]
  · rw [State.is_congr regs, force]
  · exact sel ▸ entry
  · rw [sel, State.isCand_congr regs, cand]
  · rw [sel, State.get_congr regs, State.get_congr regs, ref]

end Sys2Proof.Machine
end

section
/-!
SUPPORT. The monitors of the references and their judgements, of 10 (O30).
-/

-- one theorem after another: all at once would not fit the memory
set_option Elab.async false

namespace Sys2Proof.Machine

/-! ### Validity and its registers (R236) -/

/-- The validity of a reference is of the lanes, the client ports, the inputs and the time bases: of no register in which a
reference's status or PLU's output shows. -/
theorem State.refValid_congr {s t : State} (h : ∀ a, a < 0x300000 ∨ 0x300180 ≤ a → t.reg a = s.reg a) (r : Nat) :
    t.refValid r = s.refValid r := by
  have above (f : Fld) (m : 0x300180 ≤ f.addr) : t.get f = s.get f := State.get_congr_reg f (h _ (.inr m))
  have type (p : Nat) := above (fCLI_PORT_CFG_TYPE p) (Nat.le_add_right_of_le (by decide))
  have class_ (p : Nat) := above (fCLI_PORT_CFG_CLASS p) (Nat.le_add_right_of_le (by decide))
  have rate (p : Nat) := above (fCLI_PORT_CFG_RATE p) (Nat.le_add_right_of_le (by decide))
  have first (p : Nat) := above (fCLI_PORT_CFG_FIRST_LANE p) (Nat.le_add_right_of_le (by decide))
  have en (p : Nat) := above (fCLI_PORT_CFG_EN p) (Nat.le_add_right_of_le (by decide))
  have state (p : Nat) := above (fCLI_PORT_STATUS_STATE p) (Nat.le_add_right_of_le (by decide))
  have lane (k : Nat) := above (fCLI_RCLK_SEL_LANE k) (Nat.le_add_right_of_le (by decide))
  have tap (k : Nat) := above (fCLI_RCLK_SEL_EN k) (Nat.le_add_right_of_le (by decide))
  have adc (n : Nat) := above (fCONV_STATE_ADC_STATE n) (Nat.le_add_left_of_le (Nat.le_add_right_of_le (by decide)))
  have rxd (n : Nat) := above (fRXD_STATE_STATE n) (Nat.le_add_left_of_le (Nat.le_add_right_of_le (by decide)))
  have input (k : Nat) := above (fPLU_REFIN_CFG_EN k) (Nat.le_add_right _ _)
  unfold State.refValid State.portOfLane State.portLanes State.held State.is
  simp only [type, class_, rate, first, en, state, lane, tap, adc, rxd, input, h aSEC_RST_STATUS (.inl (by decide)),
    h aTIME_STATUS (.inr (by decide))]

/-- A field of one bit, as a number and as a truth value. -/
theorem State.get_eq_one (s : State) (f : Fld) (bit : f.len = 1) : (s.get f == 1) = s.is f := by
  have : s.get f < 2 := by simpa [bit] using s.get_lt f
  rw [State.is, Bool.eq_iff_iff]
  simp only [beq_iff_eq, bne_iff_ne]
  omega

/-! ### A reference brought up to date (R236, R237) -/

/-- VALID of a reference as its condition stands. -/
def State.validShown (s : State) (r : Nat) : State := s.setB (fPLU_REF_STATUS_VALID r) (s.refValid r)

theorem State.validShown_shows (s : State) (r : Nat) : (s.validShown r).is (fPLU_REF_STATUS_VALID r) = s.refValid r ∧
    (s.validShown r).is (fPLU_REF_STATUS_PRESENT r) = s.is (fPLU_REF_STATUS_PRESENT r) ∧
    (s.validShown r).is (fPLU_REF_STATUS_FREQ_OK r) = s.is (fPLU_REF_STATUS_FREQ_OK r) :=
  ⟨State.is_setB_fits _ _ _ rfl, State.is_setB_beside _ _ _ _ rfl, State.is_setB_beside _ _ _ _ rfl⟩

theorem State.refUpdate_regs (s : State) (r : Nat) (out : s.held 12 = false) : (s.refUpdate r).regs =
    (if (s.is (fPLU_REF_STATUS_PRESENT r) && s.refValid r) = true then s.validShown r
      else (s.validShown r).setB (fPLU_REF_STATUS_FREQ_OK r) false).regs := by
  obtain ⟨valid, present, -⟩ := s.validShown_shows r
  rw [← present, ← valid, ← State.get_eq_one _ (fPLU_REF_STATUS_PRESENT r) rfl, ← State.get_eq_one _ (fPLU_REF_STATUS_VALID r) rfl]
  unfold State.refUpdate
  rw [if_neg (by simp [out])]
  rfl

theorem State.refUpdate_shows (s : State) (r : Nat) (out : s.held 12 = false) :
    (s.refUpdate r).is (fPLU_REF_STATUS_VALID r) = s.refValid r ∧
    (s.refUpdate r).is (fPLU_REF_STATUS_PRESENT r) = s.is (fPLU_REF_STATUS_PRESENT r) ∧
    (s.refUpdate r).is (fPLU_REF_STATUS_FREQ_OK r) =
      (s.is (fPLU_REF_STATUS_FREQ_OK r) && (s.is (fPLU_REF_STATUS_PRESENT r) && s.refValid r)) ∧
    s.RegsBut (s.refUpdate r) [aPLU_REF_STATUS r] := by
  have regs := s.refUpdate_regs r out
  obtain ⟨valid, present, ok⟩ := s.validShown_shows r
  have changed : s.RegsBut (s.validShown r) [aPLU_REF_STATUS r] := (State.RegsBut.refl s _).setB _ _ List.mem_cons_self
  split at regs
  next both =>
    rw [both, Bool.and_true]
    exact ⟨(State.is_congr regs _).trans valid, (State.is_congr regs _).trans present, (State.is_congr regs _).trans ok,
      changed.same regs⟩
  next neither =>
    rw [Bool.eq_false_iff.mpr neither, Bool.and_false]
    exact ⟨(State.is_congr regs _).trans ((State.is_setB_beside _ _ _ _ rfl).trans valid),
      (State.is_congr regs _).trans ((State.is_setB_beside _ _ _ _ rfl).trans present),
      (State.is_congr regs _).trans (State.is_setB_fits _ _ _ rfl), (changed.setB _ _ List.mem_cons_self).same regs⟩

/-! ### Qualification (R237) -/

/-- Since when the monitors of a reference hold together. -/
def State.goodNow (s : State) (r : Nat) : Option Nat :=
  if fld (s.reg (aPLU_REF_STATUS r)) 0 3 == 7 && s.plu.oscin then some (((s.ref r).goodSince).getD s.clk) else none

/-- A reference is judged QUALIFIED. -/
def State.qualifies (s : State) (r : Nat) : Bool :=
  (match s.goodNow r with
    | some c => fld (s.reg (aPLU_REF_STATUS r)) 3 1 == 1 || decide (cyclesMs * s.get fPLU_QUAL_QUAL_MS ≤ s.clk - c)
    | none => false) && fld (s.reg (aPLU_REF_STATUS r)) 4 2 == 0

theorem State.judgeRef_regs (s : State) (r : Nat) :
    (s.judgeRef r).regs = (s.setB (fPLU_REF_STATUS_QUALIFIED r) (s.qualifies r)).regs := by
  have branches (u : State) (q b : Bool) (f : RefState → RefState) : (if (q && b) = true then
      (u.setB (fPLU_REF_STATUS_QUALIFIED r) true).modRef r f else u.setB (fPLU_REF_STATUS_QUALIFIED r) q).regs =
      (u.setB (fPLU_REF_STATUS_QUALIFIED r) q).regs := by
    cases q
    · rfl
    · split <;> rfl
  exact branches (s.modRef r fun x => { x with goodSince := s.goodNow r }) (s.qualifies r)
    (decide (fld (s.reg (aPLU_REF_STATUS r)) 3 1 = 0)) fun x => { x with qualAt := some s.clk }

theorem State.judgeRef_get (s : State) (r : Nat) (g : Fld) (beside : (fPLU_REF_STATUS_QUALIFIED r).beside g = true) :
    (s.judgeRef r).get g = s.get g :=
  (State.get_congr (s.judgeRef_regs r) g).trans (State.get_setB_beside _ _ _ _ beside)

theorem State.judgeRef_is (s : State) (r : Nat) : (s.judgeRef r).is (fPLU_REF_STATUS_QUALIFIED r) = s.qualifies r :=
  (State.is_congr (s.judgeRef_regs r) _).trans (State.is_setB_fits _ _ _ rfl)

theorem State.judgeRef_unqualified (s : State) (r : Nat) (gone : s.is (fPLU_REF_STATUS_PRESENT r) = false) :
    (s.judgeRef r).is (fPLU_REF_STATUS_QUALIFIED r) = false := by
  have bits : fld (s.reg (aPLU_REF_STATUS r)) 0 3 ≠ 7 := by
    have present : s.get (fPLU_REF_STATUS_PRESENT r) = 0 := by simpa [State.is] using gone
    change fld (s.reg (aPLU_REF_STATUS r)) 0 1 = 0 at present
    unfold fld bitsOf at present ⊢
    omega
  rw [State.judgeRef_is, State.qualifies, State.goodNow, if_neg (by simp [bits])]
  rfl

theorem State.judgeRef_qualifies (s : State) (r : Nat) {c : Nat} (since : (s.ref r).goodSince = some c)
    (due : c + cyclesMs * s.get fPLU_QUAL_QUAL_MS ≤ s.clk) (good : fld (s.reg (aPLU_REF_STATUS r)) 0 3 = 7)
    (clear : fld (s.reg (aPLU_REF_STATUS r)) 4 2 = 0) (oscin : s.plu.oscin = true) :
    (s.judgeRef r).is (fPLU_REF_STATUS_QUALIFIED r) = true := by
  have waited : cyclesMs * s.get fPLU_QUAL_QUAL_MS ≤ s.clk - c := by omega
  rw [State.judgeRef_is, State.qualifies, State.goodNow, if_pos (by simp [good, oscin]), since]
  simp [waited, clear]

/-! ### Comparison and selection after a change (R239, R241) -/

/-- R241: FREQ_DISAGREE of a reference, and since when it agrees. -/
def State.compared (s : State) (out near : List Nat) (r : Nat) : State :=
  if out.contains r then (s.setB (fPLU_REF_STATUS_FREQ_DISAGREE r) true).modRef r fun x => { x with agreeSince := none }
  else if near.contains r then s.modRef r fun x => { x with agreeSince := none }
  else s.modRef r fun x => { x with agreeSince := some (x.agreeSince.getD s.clk) }

/-- R241: the pairs compared, before the references are judged. -/
def State.pairsCompared (s : State) : State :=
  ((List.range 32).foldl (fun t r => t.compared (s.disagreers 4600000) (s.disagreers 4100000) r) s).raiseIf
    (!(s.disagreers 4600000).isEmpty) fPLU_ALARM_FREQ_DISAGREE

theorem State.checkDisagree_eq (s : State) :
    s.checkDisagree = (List.range 32).foldl (fun t r => t.judgeRef r) s.pairsCompared := rfl

theorem State.pairsCompared_same (s : State) : PluSame judgeFlds s s.pairsCompared := by
  refine (PluSame.foldl _ _ (fun t r m => ?_) (.refl s)).raiseIf _ _ rfl
  exact .ite _ (((PluSame.refl t).setB _ _ (.inr (disagree_mem (List.mem_range.mp m)))).modPlu _)
    (.ite _ ((PluSame.refl t).modPlu _) ((PluSame.refl t).modPlu _))

theorem State.checkDisagree_same (s : State) : PluSame judgeFlds s s.checkDisagree :=
  s.pairsCompared_same.trans s.pairsCompared.judgeRefs_same

theorem refStatus_ne {q r : Nat} (h : q ≠ r) : aPLU_REF_STATUS q ≠ aPLU_REF_STATUS r := by
  unfold aPLU_REF_STATUS
  omega

theorem State.checkDisagree_unqualified (s : State) {r : Nat} (hr : r < 32) (gone : s.is (fPLU_REF_STATUS_PRESENT r) = false) :
    s.checkDisagree.is (fPLU_REF_STATUS_QUALIFIED r) = false := by
  have absent (t : State) (y : Nat) (h : t.is (fPLU_REF_STATUS_PRESENT r) = false) :
      (t.judgeRef y).is (fPLU_REF_STATUS_PRESENT r) = false := by
    rw [State.is, t.judgeRef_get y _ rfl]
    exact h
  rw [State.checkDisagree_eq]
  refine foldl_reaches (P := fun t => t.is (fPLU_REF_STATUS_QUALIFIED r) = false) (U := fun t => t.is (fPLU_REF_STATUS_PRESENT r) = false)
    _ r (fun t h => t.judgeRef_unqualified r h) (fun t y here fell => ?_) absent _ _ ?_ (.inr (List.mem_range.mpr hr))
  · by_cases own : y = r
    · subst own
      exact t.judgeRef_unqualified y here
    · rw [State.is_congr (t.judgeRef_regs y), State.is_setB_elsewhere _ _ _ _ (refStatus_ne own)]
      exact fell
  · rw [State.is, s.pairsCompared_same.judged hr _ rfl rfl rfl]
    exact gone

/-- The fields written lie below the frequencies of the references. -/
theorem PluSame.freq {fs : List Fld} {s t : State} (h : PluSame fs s t) (below : ∀ f ∈ fs, f.addr < 0x300100) {r : Nat}
    (hr : r < 32) : t.nat (aPLU_REF_FREQ r) = s.nat (aPLU_REF_FREQ r) :=
  h.flds.nat _ (refFreq_notMem hr).1 fun f m => Nat.ne_of_lt (Nat.lt_of_lt_of_le (below f m) (Nat.le_add_right _ _))

theorem refFreq_ne_status (r : Nat) : aPLU_REF_FREQ r ≠ aPLU_REF_STATUS r := by
  unfold aPLU_REF_FREQ aPLU_REF_STATUS
  omega

/-- R236, R237: what a change of what a reference stands on shows. -/
theorem State.refChanged_shows (s : State) {r : Nat} (hr : r < 32) (out : s.held 12 = false) :
    (s.refChanged r).is (fPLU_REF_STATUS_VALID r) = s.refValid r ∧
    (s.refChanged r).is (fPLU_REF_STATUS_PRESENT r) = s.is (fPLU_REF_STATUS_PRESENT r) ∧
    (s.refChanged r).is (fPLU_REF_STATUS_FREQ_OK r) =
      (s.is (fPLU_REF_STATUS_FREQ_OK r) && (s.is (fPLU_REF_STATUS_PRESENT r) && s.refValid r)) ∧
    (s.is (fPLU_REF_STATUS_PRESENT r) = false → (s.refChanged r).is (fPLU_REF_STATUS_QUALIFIED r) = false) ∧
    (s.refChanged r).nat (aPLU_REF_FREQ r) = s.nat (aPLU_REF_FREQ r) := by
  obtain ⟨valid, present, ok, changed⟩ := s.refUpdate_shows r out
  have judged := (s.refUpdate r).checkDisagree_same
  have chosen := (s.refUpdate r).checkDisagree.select_same
  have kept (g : Fld) (own : g.addr = aPLU_REF_STATUS r) (selected : (fPLU_REF_STATUS_SELECTED r).beside g = true)
      (qualified : (fPLU_REF_STATUS_QUALIFIED r).beside g = true) (disagree : (fPLU_REF_STATUS_FREQ_DISAGREE r).beside g = true) :
      (s.refChanged r).is g = (s.refUpdate r).is g := by
    rw [State.is, State.is, State.refChanged, State.reselect, chosen.status hr g own selected, judged.judged hr g own qualified disagree]
  refine ⟨(kept _ rfl rfl rfl rfl).trans valid, (kept _ rfl rfl rfl rfl).trans present, (kept _ rfl rfl rfl rfl).trans ok,
    fun gone => ?_, ?_⟩
  · rw [State.is, State.refChanged, State.reselect, chosen.status hr _ rfl rfl]
    exact (s.refUpdate r).checkDisagree_unqualified hr (present.trans gone)
  · exact ((chosen.freq (by decide) hr).trans (judged.freq (by decide) hr)).trans
      (changed.nat _ (by simpa using refFreq_ne_status r))

/-! ### What the events of a reference do (R236, R237, R241, R244) -/

theorem State.pluRuns_held {s : State} (runs : s.pluRuns = true) : s.held 12 = false := by
  simp only [State.pluRuns, Bool.and_eq_true, Bool.not_eq_true'] at runs
  exact runs.1.2

theorem refValidChange_shows (s : State) (r : Fin 32) (runs : s.pluRuns = true) : Completes (exec (.refValidChange r) s) fun t =>
    t.is (fPLU_REF_STATUS_VALID r) = s.refValid r ∧ t.is (fPLU_REF_STATUS_PRESENT r) = s.is (fPLU_REF_STATUS_PRESENT r) := by
  obtain ⟨valid, present, -⟩ := s.refChanged_shows r.isLt (State.pluRuns_held runs)
  have answers : exec (.refValidChange r) s = .next (s.refChanged r) := if_pos runs
  exact .of_next answers ⟨valid, present⟩

/-- What is written among the references' registers leaves the module resets and what validity stands on. -/
theorem State.RegsBut.keepsValid {s t : State} {as : List Nat} (h : s.RegsBut t as) (m : ∀ a ∈ as, 0x300000 ≤ a ∧ a < 0x300180)
    (r : Nat) : t.held 12 = s.held 12 ∧ t.refValid r = s.refValid r := by
  have elsewhere (a : Nat) (out : a < 0x300000 ∨ 0x300180 ≤ a) : t.reg a = s.reg a := by
    refine h a fun i => ?_
    have := m a i
    omega
  refine ⟨?_, State.refValid_congr elsewhere r⟩
  rw [State.held, State.held, elsewhere _ (.inl (by decide))]

theorem refRegs_within {r : Nat} (h : r < 32) : ∀ a ∈ [aPLU_REF_STATUS r, aPLU_REF_FREQ r], 0x300000 ≤ a ∧ a < 0x300180 := by
  simp only [List.mem_cons, List.not_mem_nil, or_false, forall_eq_or_imp, forall_eq, aPLU_REF_STATUS, aPLU_REF_FREQ]
  omega

theorem State.setStatus_keeps (s : State) {r : Nat} (h : r < 32) (f : Fld) (own : f.addr = aPLU_REF_STATUS r) (b : Bool) :
    (s.setB f b).held 12 = s.held 12 ∧ (s.setB f b).refValid r = s.refValid r :=
  ((State.RegsBut.refl s [aPLU_REF_STATUS r, aPLU_REF_FREQ r]).setB f b (by simp [own])).keepsValid (refRegs_within h) r

theorem refActivityLoss_shows (s : State) (r : Fin 32) (runs : s.pluRuns = true) : Completes (exec (.refActivityLoss r) s) fun t =>
    t.is (fPLU_REF_STATUS_PRESENT r) = false ∧ t.is (fPLU_REF_STATUS_QUALIFIED r) = false ∧
    t.is (fPLU_REF_STATUS_FREQ_OK r) = false := by
  have gone : (s.setB (fPLU_REF_STATUS_PRESENT r) false).is (fPLU_REF_STATUS_PRESENT r) = false := State.is_setB_fits _ _ _ rfl
  obtain ⟨out, -⟩ := s.setStatus_keeps r.isLt (fPLU_REF_STATUS_PRESENT r) rfl false
  obtain ⟨-, present, ok, unqualified, -⟩ := State.refChanged_shows _ r.isLt (out.trans (State.pluRuns_held runs))
  have answers : exec (.refActivityLoss r) s = .next ((s.setB (fPLU_REF_STATUS_PRESENT r) false).refChanged r) := if_pos runs
  refine .of_next answers ⟨present.trans gone, unqualified gone, ?_⟩
  rw [ok, gone, Bool.false_and, Bool.and_false]

theorem refActivityReturn_shows (s : State) (r : Fin 32) (runs : s.pluRuns = true) :
    Completes (exec (.refActivityReturn r) s) fun t => t.is (fPLU_REF_STATUS_PRESENT r) = true ∧
      t.is (fPLU_REF_STATUS_VALID r) = s.refValid r := by
  obtain ⟨out, same⟩ := s.setStatus_keeps r.isLt (fPLU_REF_STATUS_PRESENT r) rfl true
  obtain ⟨valid, present, -⟩ := State.refChanged_shows _ r.isLt (out.trans (State.pluRuns_held runs))
  have answers : exec (.refActivityReturn r) s = .next ((s.setB (fPLU_REF_STATUS_PRESENT r) true).refChanged r) := if_pos runs
  exact .of_next answers ⟨present.trans (State.is_setB_fits _ _ _ rfl), valid.trans same⟩

/-- What a reference keeps beside a field of its record that is written. -/
theorem State.ref_modRef (s : State) (r : Nat) (f : RefState → RefState) {α : Type} (g : RefState → α) (keep : ∀ x, g (f x) = g x) :
    g ((s.modRef r f).ref r) = g (s.ref r) := by
  have here : (s.modRef r f).ref r = ((s.plu.refs[r]?).map f).getD {} := by
    rw [← getElem?_modAt]
    exact List.getD_eq_getElem?_getD ..
  have was : s.ref r = s.plu.refs[r]?.getD {} := List.getD_eq_getElem?_getD ..
  rw [here, was]
  cases s.plu.refs[r]? with
  | none => rfl
  | some x => exact keep x

/-- A window as it ends, its time noted. -/
def State.windowEnds (s : State) (r : Nat) : State :=
  (s.waitTb 0 (s.windowDue r)).modRef r fun x => { x with window := some (s.windowDue r) }

theorem State.windowEnds_same (s : State) (r : Nat) : (s.windowEnds r).regs = s.regs ∧
    ((s.windowEnds r).ref r).from_ = (s.ref r).from_ := by
  refine ⟨s.regs_waitTb 0 _, ?_⟩
  rw [State.windowEnds, State.ref_modRef _ r _ RefState.from_ (by exact fun _ => rfl), State.ref, s.plu_waitTb]
  rfl

theorem refFreqWindow_next (s : State) (r : Fin 32) (freq : Int) (runs : s.pluRuns = true) :
    exec (.refFreqWindow r freq) s = .next ((s.windowEnds r).freqJudge r (s.windowDue r) freq) := if_neg (by simp [runs])

theorem refFreqWindow_idle (s : State) (r : Fin 32) (freq : Int) (runs : s.pluRuns = true) (idle : (s.ref r).from_ = none) :
    Completes (exec (.refFreqWindow r freq) s) fun t => t.regs = s.regs := by
  obtain ⟨regs, from_⟩ := s.windowEnds_same r
  refine .of_next (refFreqWindow_next s r freq runs) ?_
  rw [State.freqJudge, from_, idle]
  exact regs

/-- R237: the judgement of a window, with hysteresis. -/
def State.freqOk (s : State) (r : Nat) (freq : Int) : Bool :=
  if s.is (fPLU_REF_STATUS_FREQ_OK r) then decide (freq.natAbs ≤ 100000 * s.get fPLU_QUAL_FREQ_LIM)
  else decide (10 * freq.natAbs ≤ 9 * (100000 * s.get fPLU_QUAL_FREQ_LIM))

/-- A window judged: what was measured, FREQ_OK, and the output on its track. -/
def State.windowJudged (s : State) (r : Nat) (freq : Int) : State :=
  ((s.settleStep.setInt (aPLU_REF_FREQ r) freq).setB (fPLU_REF_STATUS_FREQ_OK r) (s.freqOk r freq)).pluTrack

theorem State.freqJudge_whole (s : State) (r due t0 : Nat) (freq : Int) (from_ : (s.ref r).from_ = some t0)
    (whole : t0 + s.windowLen r ≤ due) : s.freqJudge r due freq = (s.windowJudged r freq).refChanged r := by
  have same : decide (if s.is (fPLU_REF_STATUS_FREQ_OK r) = true then freq.natAbs ≤ 100000 * s.get fPLU_QUAL_FREQ_LIM
      else 10 * freq.natAbs ≤ 9 * (100000 * s.get fPLU_QUAL_FREQ_LIM)) = s.freqOk r freq := by
    unfold State.freqOk
    split <;> rfl
  rw [State.freqJudge, from_]
  dsimp only
  rw [if_neg (by omega), State.windowJudged, ← same]

theorem State.windowJudged_shows (s : State) {r : Nat} (hr : r < 32) (freq : Int) :
    (s.windowJudged r freq).is (fPLU_REF_STATUS_FREQ_OK r) = s.freqOk r freq ∧
    (s.windowJudged r freq).is (fPLU_REF_STATUS_PRESENT r) = s.is (fPLU_REF_STATUS_PRESENT r) ∧
    (s.windowJudged r freq).nat (aPLU_REF_FREQ r) = ofSigned 32 freq ∧
    (s.windowJudged r freq).held 12 = s.held 12 ∧ (s.windowJudged r freq).refValid r = s.refValid r := by
  have status : aPLU_REF_STATUS r ∉ stepRegs ∧ aPLU_REF_STATUS r ≠ aPLU_FREQ ∧ aPLU_REF_FREQ r ≠ aPLU_FREQ := by
    have all : ∀ r < 32, aPLU_REF_STATUS r ∉ stepRegs ∧ aPLU_REF_STATUS r ≠ aPLU_FREQ ∧ aPLU_REF_FREQ r ≠ aPLU_FREQ := by decide
    exact all r hr
  obtain ⟨notStep, notFreq, refFreq⟩ := status
  have tracks := State.pluTrack_regsBut
    ((s.settleStep.setInt (aPLU_REF_FREQ r) freq).setB (fPLU_REF_STATUS_FREQ_OK r) (s.freqOk r freq))
  have settled := s.settleStep_regsBut
  have all : s.RegsBut (s.windowJudged r freq) (stepRegs ++ [aPLU_REF_STATUS r, aPLU_REF_FREQ r] ++ [aPLU_FREQ]) :=
    (((settled.mono fun _ m => List.mem_append_left _ (List.mem_append_left _ m)).setInt _ _ (by simp)).setB _ _
      (by simp [fPLU_REF_STATUS_FREQ_OK])).trans (tracks.mono fun _ => List.mem_append_right _)
  refine ⟨?_, ?_, ?_, all.keepsValid (fun a m => ?_) r⟩
  · exact (tracks.is _ (List.mem_singleton.not.mpr notFreq)).trans (State.is_setB_fits _ _ _ rfl)
  · refine (tracks.is _ (List.mem_singleton.not.mpr notFreq)).trans ((State.is_setB_beside _ _ _ _ rfl).trans ?_)
    exact (State.is_setNat_other _ _ _ _ (refFreq_ne_status r)).trans (settled.is _ notStep)
  · refine (tracks.nat _ (List.mem_singleton.not.mpr refFreq)).trans ((State.nat_setB_other _ _ _ _ (refFreq_ne_status r).symm).trans ?_)
    exact State.nat_setInt _ _ _
  · have within : ∀ a ∈ stepRegs ++ [aPLU_FREQ], 0x300000 ≤ a ∧ a < 0x300180 := by decide
    simp only [List.mem_append] at m within
    obtain (m | m) | m := m
    · exact within a (.inl m)
    · exact refRegs_within hr a m
    · exact within a (.inr m)

theorem refFreqWindow_judges (s : State) (r : Fin 32) (freq : Int) (runs : s.pluRuns = true) (t0 : Nat)
    (from_ : (s.ref r).from_ = some t0) (whole : t0 + s.windowLen r ≤ s.windowDue r)
    (present : s.is (fPLU_REF_STATUS_PRESENT r) = true) (valid : s.refValid r = true) :
    Completes (exec (.refFreqWindow r freq) s) fun t => t.nat (aPLU_REF_FREQ r) = ofSigned 32 freq ∧
      t.is (fPLU_REF_STATUS_FREQ_OK r) = s.freqOk r freq := by
  obtain ⟨regs, kept⟩ := s.windowEnds_same r
  have len : (s.windowEnds r).windowLen r = s.windowLen r := by
    rw [State.windowLen, State.windowLen, State.isPps, State.isPps, State.get_congr regs]
  have judge : (s.windowEnds r).freqOk r freq = s.freqOk r freq := by
    simp only [State.freqOk, State.is_congr regs, State.get_congr regs]
  have answers := refFreqWindow_next s r freq runs
  rw [State.freqJudge_whole _ _ _ t0 _ (kept.trans from_) (len ▸ whole)] at answers
  obtain ⟨ok, here, freqs, held, val⟩ := (s.windowEnds r).windowJudged_shows r.isLt freq
  have same := ((State.RegsBut.refl s []).same regs).keepsValid (fun _ m => absurd m List.not_mem_nil) r
  obtain ⟨-, -, shown, -, nat⟩ := State.refChanged_shows _ r.isLt (held.trans (same.1.trans (State.pluRuns_held runs)))
  refine .of_next answers ⟨nat.trans freqs, ?_⟩
  rw [shown, ok, here, val, same.2, State.is_congr regs, present, valid, judge, Bool.and_true, Bool.and_true]

theorem refQualified_qualifies (s : State) (r : Fin 32) (runs : s.pluRuns = true) (c : Nat) (since : (s.ref r).goodSince = some c)
    (good : fld (s.reg (aPLU_REF_STATUS r)) 0 3 = 7) (clear : fld (s.reg (aPLU_REF_STATUS r)) 4 2 = 0)
    (oscin : s.plu.oscin = true) : Completes (exec (.refQualified r) s) fun t =>
      t.is (fPLU_REF_STATUS_QUALIFIED r) = true ∧ c + cyclesMs * s.get fPLU_QUAL_QUAL_MS ≤ t.clk := by
  have answers : exec (.refQualified r) s = .next ((s.waitClk (c + cyclesMs * s.get fPLU_QUAL_QUAL_MS)).judgeRef r).select := by
    show execRefQualified r s = _
    unfold execRefQualified
    rw [since]
    exact if_neg (by simp [runs])
  have regs := s.regs_waitClk (c + cyclesMs * s.get fPLU_QUAL_QUAL_MS)
  have plu := s.plu_waitClk (c + cyclesMs * s.get fPLU_QUAL_QUAL_MS)
  have clk := waitClk_clk s (c + cyclesMs * s.get fPLU_QUAL_QUAL_MS)
  generalize s.waitClk (c + cyclesMs * s.get fPLU_QUAL_QUAL_MS) = w at answers regs plu clk
  have qualified : (w.judgeRef r).is (fPLU_REF_STATUS_QUALIFIED r) = true := by
    refine w.judgeRef_qualifies r (c := c) ?_ ?_ ?_ ?_ (plu ▸ oscin)
    · rw [State.ref, plu]
      exact since
    · rw [State.get_congr regs]
      omega
    · rw [State.reg_congr regs, good]
    · rw [State.reg_congr regs, clear]
  have time : (w.judgeRef r).select.clk = w.clk :=
    (State.select_clk _).trans (State.judgeRef_fr (F := 16777217) w _ (.refl w)).clk
  refine .of_next answers ⟨?_, by omega⟩
  rw [State.is, (w.judgeRef r).select_same.status r.isLt _ rfl rfl]
  exact qualified

/-- A flag of a reference falls, and the reference is judged again. -/
theorem State.flagFalls (s : State) {r : Nat} (hr : r < 32) (g : Fld) (own : g.addr = aPLU_REF_STATUS r) (bit : g.ok = true)
    (qualified : (fPLU_REF_STATUS_QUALIFIED r).beside g = true) (selected : (fPLU_REF_STATUS_SELECTED r).beside g = true) (t : State)
    (falls : t.regs = (s.setB g false).regs) : (t.judgeRef r).select.is g = false ∧ (t.judgeRef r).select.clk = t.clk := by
  refine ⟨?_, (State.select_clk _).trans (State.judgeRef_fr (F := 16777217) t _ (.refl t)).clk⟩
  rw [State.is, (t.judgeRef r).select_same.status hr g own selected, t.judgeRef_get r g qualified]
  exact (State.is_congr falls g).trans (State.is_setB_fits _ _ _ bit)

theorem freqDisagreeClear_clears (s : State) (r : Fin 32) (runs : s.pluRuns = true) (c : Nat) (since : (s.ref r).agreeSince = some c)
    (marked : s.is (fPLU_REF_STATUS_FREQ_DISAGREE r) = true) : Completes (exec (.freqDisagreeClear r) s) fun t =>
      t.is (fPLU_REF_STATUS_FREQ_DISAGREE r) = false ∧ c + cyclesMs * s.get fPLU_QUAL_QUAL_MS ≤ t.clk := by
  have answers : exec (.freqDisagreeClear r) s = .next ((((s.waitClk (c + cyclesMs * s.get fPLU_QUAL_QUAL_MS)).setB
      (fPLU_REF_STATUS_FREQ_DISAGREE r) false).judgeRef r).select) := by
    show execFreqDisagreeClear r s = _
    unfold execFreqDisagreeClear
    rw [since]
    exact if_neg (by simp [runs, marked])
  have clk := waitClk_clk s (c + cyclesMs * s.get fPLU_QUAL_QUAL_MS)
  obtain ⟨cleared, time⟩ := State.flagFalls _ r.isLt (fPLU_REF_STATUS_FREQ_DISAGREE r) rfl rfl rfl rfl _
    (rfl : ((s.waitClk (c + cyclesMs * s.get fPLU_QUAL_QUAL_MS)).setB (fPLU_REF_STATUS_FREQ_DISAGREE r) false).regs = _)
  refine .of_next answers ⟨cleared, ?_⟩
  rw [time, State.setB_clk]
  omega

theorem acqHoldExpiry_ends (s : State) (r : Fin 32) (runs : s.pluRuns = true) (c : Nat) (until_ : (s.ref r).holdEnd = some c) :
    Completes (exec (.acqHoldExpiry r) s) fun t => t.is (fPLU_REF_STATUS_ACQ_HOLD r) = false ∧ c ≤ t.clk := by
  have answers : exec (.acqHoldExpiry r) s = .next (((((s.waitClk c).setB (fPLU_REF_STATUS_ACQ_HOLD r) false).modRef r
      fun x => { x with holdEnd := none }).judgeRef r).select) := by
    show execAcqHoldExpiry r s = _
    unfold execAcqHoldExpiry
    rw [until_]
    exact if_neg (by simp [runs])
  have clk := waitClk_clk s c
  obtain ⟨cleared, time⟩ := State.flagFalls (s.waitClk c) r.isLt (fPLU_REF_STATUS_ACQ_HOLD r) rfl rfl rfl rfl _
    (State.regs_modRef ((s.waitClk c).setB (fPLU_REF_STATUS_ACQ_HOLD r) false) r fun x => { x with holdEnd := none })
  have kept : (((s.waitClk c).setB (fPLU_REF_STATUS_ACQ_HOLD r) false).modRef r fun x => { x with holdEnd := none }).clk =
      (s.waitClk c).clk := rfl
  refine .of_next answers ⟨cleared, ?_⟩
  rw [time, kept]
  omega

/-- Settles O30: each event of a reference of a running PLU. -/
theorem references : Obligations.References := fun s r freq runs =>
  ⟨refValidChange_shows s r runs, refActivityLoss_shows s r runs, refActivityReturn_shows s r runs,
    refFreqWindow_judges s r freq runs, refFreqWindow_idle s r freq runs, refQualified_qualifies s r runs,
    freqDisagreeClear_clears s r runs, acqHoldExpiry_ends s r runs⟩

end Sys2Proof.Machine
end

section
/-!
SUPPORT. OSCIN fails, returns and is taken again, of 10 (O59).
-/

-- one theorem after another: all at once would not fit the memory
set_option Elab.async false

namespace Sys2Proof.Machine

/-! ### The registers of the time bases (R261) -/

/-- The registers in which the states of the time bases show. -/
def tbRegs : List Nat := [aTIME_STATUS, aTIME_ALARM]

theorem State.regs_modServo (s : State) (x : Nat) (f : Servo → Servo) : (s.modServo x f).regs = s.regs := s.modTb_regs x _

theorem State.setTbState_regsBut (s : State) (x v : Nat) : s.RegsBut (s.setTbState x v) tbRegs := by
  have shown : s.RegsBut (s.set (fTbState x) v) tbRegs := (State.RegsBut.refl s _).set _ _ List.mem_cons_self
  unfold State.setTbState
  exact ((shown.same (State.regs_modServo _ _ _)).raiseIf _ _ (by decide)).raiseIf _ _ (by decide)

theorem State.sampled_regsBut (s : State) (x : Nat) : s.RegsBut (s.sampled x) tbRegs := by
  unfold State.sampled
  have noted (f : Servo → Servo) : s.RegsBut (s.modServo x f) tbRegs := (State.RegsBut.refl s _).same (State.regs_modServo s x f)
  exact .ite _ ((noted _).trans (State.setTbState_regsBut _ _ _)) (noted _)

theorem State.syncTb_regsBut (s : State) (x : Nat) : s.RegsBut (s.syncTb x) tbRegs := by
  unfold State.syncTb
  have counted (t : State) (f : Servo → Servo) : t.RegsBut (t.modServo x f) tbRegs :=
    (State.RegsBut.refl t _).same (State.regs_modServo t x f)
  exact .ite _ (((counted _ _).trans (counted _ _)).trans (State.sampled_regsBut _ _)) (counted _ _)

theorem State.syncTbs_regsBut (s : State) : s.RegsBut s.syncTbs tbRegs :=
  ((s.syncTb_regsBut 0).trans (State.syncTb_regsBut _ 1)).trans (State.syncTb_regsBut _ 2)

theorem State.servosHold_regsBut (s : State) (every : Bool) : s.RegsBut (s.servosHold every) tbRegs :=
  .foldl _ _ (fun t x _ => .ite _ (t.setTbState_regsBut x 4) (.refl t _)) s.syncTbs_regsBut

/-! ### A failure of OSCIN (R242, R248) -/

/-- The failure shown, and the references judged without OSCIN. -/
def State.oscinFailShown (s : State) : State :=
  (List.range 32).foldl (fun s r => s.judgeRef r) ((s.setB fPLU_STATE_OSCIN_OK false).raise fPLU_ALARM_OSCIN_FAIL)

/-- The selection ends with OSCIN. -/
def State.oscinDeselects (s : State) : State :=
  (((s.raiseIf (s.selEntry < 16) fPLU_ALARM_SEL_FAIL).showSel none).modPlu fun p => { p with limitHit := false })

/-- What PLU knows of OSCIN as it fails. -/
def State.oscinGone (s : State) : State := s.modPlu fun p => { p with oscin := false, oscinBack := none }

theorem State.oscinFails_eq (s : State) : s.oscinFails =
    if s.held 12 then s.oscinGone else s.oscinGone.oscinFailShown.oscinDeselects.enterLost := rfl

theorem State.oscinFailShown_ok (s : State) :
    ((s.setB fPLU_STATE_OSCIN_OK false).raise fPLU_ALARM_OSCIN_FAIL).is fPLU_STATE_OSCIN_OK = false :=
  (State.is_raise_elsewhere _ _ _ (by decide)).trans (State.is_setB_fits _ _ _ (by decide))

/-- The fields that a failure of OSCIN writes after it has shown itself. -/
def oscinFlds : List Fld := judgeFlds ++ steerFlds

theorem oscinFlds_clear : ∀ f ∈ oscinFlds, f.clear fPLU_STATE_OSCIN_OK = true ∧ f.clear fTIME_STATUS_OSCIN_WAIT = true :=
  List.forall_mem_append.mpr ⟨by decide, by decide⟩

/-- A running PLU is in LOST, and keeps what the failure has shown. -/
theorem State.oscinLost_same (s : State) :
    PluSame oscinFlds ((s.setB fPLU_STATE_OSCIN_OK false).raise fPLU_ALARM_OSCIN_FAIL) s.oscinFailShown.oscinDeselects.enterLost := by
  have judged : PluSame oscinFlds _ s.oscinFailShown := (State.judgeRefs_same _).mono fun _ => List.mem_append_left _
  have steer (f : Fld) (m : f ∈ steerFlds) : f ∈ oscinFlds := List.mem_append_right _ m
  have alone := (PluSame.refl (fs := selFlds) s.oscinFailShown).raiseIf (s.oscinFailShown.selEntry < 16) fPLU_ALARM_SEL_FAIL rfl
  have deselected : PluSame selFlds s.oscinFailShown s.oscinFailShown.oscinDeselects :=
    (alone.trans (State.showSel_same _ none)).modPlu _ (limit := fun _ _ => rfl)
  exact (judged.trans (deselected.mono fun f m => steer f (selFlds_steer f m))).trans
    ((State.enterLost_same _).mono fun f m => steer f (stateFlds_steer f m))

/-- The servos hold, and the wait for OSCIN shows. -/
def State.oscinAwaited (s : State) : State := (s.servosHold false).setB fTIME_STATUS_OSCIN_WAIT true

theorem State.oscinAwaited_shows (s : State) : s.oscinAwaited.is fTIME_STATUS_OSCIN_WAIT = true ∧
    s.oscinAwaited.held 12 = s.held 12 := by
  have changed : s.RegsBut s.oscinAwaited tbRegs := (s.servosHold_regsBut false).setB _ _ (by decide)
  refine ⟨State.is_setB_fits _ _ _ (by decide), ?_⟩
  rw [State.held, State.held, changed _ (by decide)]

theorem oscinFail_loses (s : State) (warm : s.cold = false) : Completes (exec .oscinFail s) fun t =>
    t.plu.oscin = false ∧ t.is fTIME_STATUS_OSCIN_WAIT = true ∧
    (s.held 12 = false → t.get fPLU_STATE_STATE = 4 ∧ t.is fPLU_STATE_OSCIN_OK = false ∧ t.is fPLU_ALARM_LOST = true) := by
  have answers : exec .oscinFail s = .next s.oscinAwaited.oscinFails := by
    show execOscinFail s = _
    unfold execOscinFail
    rw [if_neg (by simp [warm])]
    rfl
  obtain ⟨waits, held⟩ := s.oscinAwaited_shows
  have seen : s.oscinAwaited.oscinGone.is fTIME_STATUS_OSCIN_WAIT = true := (State.is_congr (State.modPlu_regs _ _) _).trans waits
  refine .of_next answers ?_
  rw [State.oscinFails_eq, held]
  by_cases out : s.held 12 = true
  · rw [if_pos out]
    exact ⟨rfl, seen, fun running => absurd (out.symm.trans running) (by decide)⟩
  · have kept := s.oscinAwaited.oscinGone.oscinLost_same
    obtain ⟨lost, alarm, -⟩ := State.enterLost_shows s.oscinAwaited.oscinGone.oscinFailShown.oscinDeselects
    rw [if_neg out]
    refine ⟨kept.oscin.trans ?_, (kept.is _ (by decide) fun f m => (oscinFlds_clear f m).2).trans ?_, fun _ =>
      ⟨lost, (kept.is _ (by decide) fun f m => (oscinFlds_clear f m).1).trans (State.oscinFailShown_ok _), alarm⟩⟩
    · rw [State.raise_plu]
      rfl
    · exact (State.is_raise_elsewhere _ _ _ (by decide)).trans ((State.is_setB_elsewhere _ _ _ _ (by decide)).trans seen)

/-! ### Its return and the wait of 1 s (R263) -/

/-- The judgement of a reference is of its own record. -/
theorem State.oscinBack_judgeRef (s : State) (r : Nat) : (s.judgeRef r).plu.oscinBack = s.plu.oscinBack := by
  have branches (u : State) (c : Prop) [Decidable c] (q : Bool) (f : RefState → RefState) :
      (if c then (u.setB (fPLU_REF_STATUS_QUALIFIED r) true).modRef r f else u.setB (fPLU_REF_STATUS_QUALIFIED r) q).plu.oscinBack =
      u.plu.oscinBack := by split <;> rfl
  unfold State.judgeRef
  dsimp only
  rw [branches]
  rfl

/-- The return shown, and the references judged with OSCIN. -/
def State.oscinBackShown (s : State) : State :=
  (List.range 32).foldl (fun s r => s.judgeRef r) (s.setB fPLU_STATE_OSCIN_OK true)

theorem State.oscinBackShown_shows (s : State) : s.oscinBackShown.plu.oscin = s.plu.oscin ∧
    s.oscinBackShown.plu.oscinBack = s.plu.oscinBack ∧ s.oscinBackShown.is fPLU_STATE_OSCIN_OK = true := by
  have judged := (s.setB fPLU_STATE_OSCIN_OK true).judgeRefs_same
  refine ⟨judged.oscin, ?_, (judged.is _ (by decide) (by decide)).trans (State.is_setB_fits _ _ _ (by decide))⟩
  exact foldl_same (fun t : State => t.plu.oscinBack) _ (fun t r => t.oscinBack_judgeRef r) _ _

/-- What PLU knows of OSCIN as it returns. -/
def State.oscinSeen (s : State) : State := s.modPlu fun p => { p with oscin := true, oscinBack := some s.clk }

theorem State.oscinReturns_eq (s : State) : s.oscinReturns = if s.held 12 then s.oscinSeen else s.oscinSeen.oscinBackShown := rfl

theorem oscinReturn_seen (s : State) (warm : s.cold = false) (gone : s.plu.oscin = false) : Completes (exec .oscinReturn s) fun t =>
    t.plu.oscin = true ∧ t.plu.oscinBack = some s.clk ∧ (s.held 12 = false → t.is fPLU_STATE_OSCIN_OK = true) := by
  have answers : exec .oscinReturn s = .next s.oscinReturns := (if_neg (by simp [gone])).trans (if_neg (by simp [warm]))
  refine .of_next answers ?_
  rw [State.oscinReturns_eq]
  by_cases out : s.held 12 = true
  · rw [if_pos out]
    exact ⟨rfl, rfl, fun running => absurd (out.symm.trans running) (by decide)⟩
  · rw [if_neg out]
    obtain ⟨oscin, back, ok⟩ := s.oscinSeen.oscinBackShown_shows
    exact ⟨oscin, back, fun _ => ok⟩

theorem timeOscinWaitEnd_ends (s : State) (warm : s.cold = false) (c : Nat) (oscin : s.plu.oscin = true)
    (back : s.plu.oscinBack = some c) (waits : s.is fTIME_STATUS_OSCIN_WAIT = true) : Completes (exec .timeOscinWaitEnd s) fun t =>
      t.is fTIME_STATUS_OSCIN_WAIT = false ∧ cyclesSec + c ≤ t.clk := by
  have answers : exec .timeOscinWaitEnd s = .next ((s.waitClk (cyclesSec + c)).syncTbs.setB fTIME_STATUS_OSCIN_WAIT false) := by
    show execTimeOscinWaitEnd s = _
    unfold execTimeOscinWaitEnd
    rw [back]
    exact if_neg (by simp [warm, oscin, waits])
  have clk := waitClk_clk s (cyclesSec + c)
  refine .of_next answers ⟨State.is_setB_fits _ _ _ (by decide), ?_⟩
  rw [State.setB_clk, syncTbs_clk, clk]
  exact Nat.le_max_right _ _

/-- Settles O59: OSCIN fails, returns, and TIME's wait for it ends. -/
theorem oscinEvents : Obligations.OscinEvents := fun s warm =>
  ⟨oscinFail_loses s warm, oscinReturn_seen s warm, timeOscinWaitEnd_ends s warm⟩

end Sys2Proof.Machine
end

section
/-!
SUPPORT. The change of the UTC offset and the fallback to Keystone timestamps, of 10 (O34).
-/

-- one theorem after another: all at once would not fit the memory
set_option Elab.async false

namespace Sys2Proof.Machine

/-! ### The change of the UTC offset (R264) -/

/-- A signed value held in any width. -/
theorem ofSigned_lt_width (n : Nat) (x : Int) : ofSigned n x < 2 ^ n := by
  have positive : (0 : Int) < ((2 ^ n : Nat) : Int) := Int.natCast_pos.mpr (Nat.two_pow_pos n)
  have := Int.emod_lt_of_pos x positive
  unfold ofSigned
  omega

/-- The change time taken: none is set now. -/
def State.utcTaken (s : State) : State := (s.setNat aTIME_UTC_AT 0).modTime fun t => { t with utcHi := 0 }

theorem State.utcTaken_shows (s : State) : s.utcTaken.nat aTIME_UTC_AT = 0 ∧ s.utcTaken.time.utcHi = 0 ∧
    s.RegsBut s.utcTaken [aTIME_UTC_AT] :=
  ⟨(State.nat_congr (State.modTime_regs _ _) _).trans (State.nat_setNat_fits s _ 0 (by decide)), rfl,
    ((State.RegsBut.refl s _).setNat _ _ List.mem_cons_self).same (State.modTime_regs _ _)⟩

theorem State.utcAct_eq (s : State) (ns : Nat) : s.utcAct ns =
    if s.utcTaken.utcOfs = s.getI fTIME_UTC_NEXT then s.utcTaken
    else (s.utcTaken.raise fTIME_ALARM_UTC_CHANGE).utcShift (s.getI fTIME_UTC_NEXT) ns := rfl

theorem State.getI_congr {s t : State} (h : t.regs = s.regs) (f : Fld) : t.getI f = s.getI f := by
  rw [State.getI, State.getI, State.get_congr h]

theorem State.utcOfs_congr {s t : State} (h : t.regs = s.regs) : t.utcOfs = s.utcOfs := State.getI_congr h _

theorem State.utcTaken_ofs (s : State) : s.utcTaken.utcOfs = s.utcOfs := by
  rw [State.utcOfs, State.utcOfs, State.getI, State.getI, s.utcTaken_shows.2.2.get _ (by decide)]

theorem utcChange_same (s : State) (warm : s.cold = false) (due : s.utcAt ≠ 0) (same : s.utcOfs = s.getI fTIME_UTC_NEXT) :
    Completes (exec .utcChange s) fun t => t.nat aTIME_UTC_AT = 0 ∧ t.time.utcHi = 0 ∧ s.RegsBut t [aTIME_UTC_AT] := by
  obtain ⟨w, ns, regs, answers⟩ : ∃ (w : State) (ns : Nat), w.regs = s.regs ∧ exec .utcChange s = .next (w.utcAct ns) := by
    refine ⟨_, _, ?_, if_neg (by simp [warm, due])⟩
    split
    · exact s.regs_elapse 1
    · exact s.regs_waitTb 0 _
  rw [State.utcAct_eq, State.utcTaken_ofs, State.utcOfs_congr regs, State.getI_congr regs, if_pos same] at answers
  obtain ⟨taken, hi, but⟩ := w.utcTaken_shows
  exact .of_next answers ⟨taken, hi, ((State.RegsBut.refl s _).same regs).trans but⟩

/-- R180: the end of a bin once the offset has changed. -/
def Bin.endAfter (c : Bin) (delta : Int) : Int := (c.start : Int) + c.nominal + delta

/-- R180: with a new offset under which both bins go on, only they and the Level's bin ends move. -/
theorem State.utcShift_stays (s : State) (new : Int) (ns : Nat) (moves : s.utcOfs ≠ new)
    (stays15 : (ns : Int) < 1000000000 * ((s.lane 0).pmon.ent 0).cur15.endAfter (new - s.utcOfs))
    (stays24 : (ns : Int) < 1000000000 * ((s.lane 0).pmon.ent 0).cur24.endAfter (new - s.utcOfs)) :
    (s.utcShift new ns).regs = (s.set fTIME_UTC_OFS (ofSigned 16 new)).regs ∧ (s.utcShift new ns).time = s.time := by
  unfold Bin.endAfter at stays15 stays24
  unfold State.utcShift
  dsimp only
  simp only [if_pos stays15, if_pos stays24]
  rw [if_neg (by omega), if_pos trivial]
  constructor
  · exact eachLane_same State.regs _ (fun _ _ => rfl) _
  · exact eachLane_same State.time _ (fun _ _ => rfl) _

theorem State.lanes_waitTb (s : State) (x ns : Nat) : (s.waitTb x ns).lanes = s.lanes :=
  waitTb_same State.lanes (fun _ _ _ _ => rfl) s x ns

theorem State.utcAt_waitTb (s : State) (x ns : Nat) : (s.waitTb x ns).utcAt = s.utcAt := by
  have time : (s.waitTb x ns).time = s.time := waitTb_same State.time (fun _ _ _ _ => rfl) s x ns
  rw [State.utcAt, State.utcAt, State.nat_congr (s.regs_waitTb x ns), time]

theorem utcChange_shifts (s : State) (warm : s.cold = false) (due : s.utcAt ≠ 0) (moves : s.utcOfs ≠ s.getI fTIME_UTC_NEXT)
    (ahead : s.tb0Sec < s.utcAt)
    (stays15 : (s.utcAt : Int) < ((s.lane 0).pmon.ent 0).cur15.endAfter (s.getI fTIME_UTC_NEXT - s.utcOfs))
    (stays24 : (s.utcAt : Int) < ((s.lane 0).pmon.ent 0).cur24.endAfter (s.getI fTIME_UTC_NEXT - s.utcOfs)) :
    Completes (exec .utcChange s) fun t => t.nat aTIME_UTC_AT = 0 ∧ t.time.utcHi = 0 ∧
      t.get fTIME_UTC_OFS = ofSigned 16 (s.getI fTIME_UTC_NEXT) ∧ t.is fTIME_ALARM_UTC_CHANGE = true := by
  have answers : exec .utcChange s = .next ((s.waitTb 0 (1000000000 * s.utcAt)).utcAct (1000000000 * s.utcAt)) := by
    show execUtcChange s = _
    unfold execUtcChange
    rw [if_neg (by simp [warm, due])]
    dsimp only
    rw [if_neg (by omega), if_neg (by omega), State.utcAt_waitTb]
  have regs := s.regs_waitTb 0 (1000000000 * s.utcAt)
  have lanes := s.lanes_waitTb 0 (1000000000 * s.utcAt)
  generalize s.waitTb 0 (1000000000 * s.utcAt) = w at answers regs lanes
  obtain ⟨taken, hi, -⟩ := w.utcTaken_shows
  have ofs : (w.utcTaken.raise fTIME_ALARM_UTC_CHANGE).utcOfs = s.utcOfs := by
    rw [State.utcOfs, State.getI, State.get_raise_elsewhere _ _ _ (by decide)]
    exact w.utcTaken_ofs.trans (State.getI_congr regs _)
  have taken_lanes : w.utcTaken.lanes = w.lanes := rfl
  have bins : (w.utcTaken.raise fTIME_ALARM_UTC_CHANGE).lane 0 = s.lane 0 :=
    State.lane_congr ((State.raise_lanes _ _).trans (taken_lanes.trans lanes)) 0
  rw [State.utcAct_eq, State.utcTaken_ofs, State.utcOfs_congr regs, State.getI_congr regs, if_neg moves] at answers
  obtain ⟨shifted, time⟩ := (w.utcTaken.raise fTIME_ALARM_UTC_CHANGE).utcShift_stays (s.getI fTIME_UTC_NEXT)
    (1000000000 * s.utcAt) (by rwa [ofs]) (by rw [bins, ofs]; omega) (by rw [bins, ofs]; omega)
  have raised : w.utcTaken.RegsBut (w.utcTaken.raise fTIME_ALARM_UTC_CHANGE) [aTIME_ALARM] :=
    (State.RegsBut.refl _ _).raise _ (by decide)
  refine .of_next answers ⟨?_, ?_, ?_, ?_⟩
  · rw [State.nat_congr shifted, State.nat_set_other _ _ _ _ (by decide), raised.nat _ (by decide), taken]
  · rw [time, State.raise_time, hi]
  · rw [State.get_congr shifted, State.get_set_fits _ _ _ (by decide)]
    exact Nat.mod_eq_of_lt (ofSigned_lt_width 16 _)
  · rw [State.is_congr shifted, State.is_set_elsewhere _ _ _ _ (by decide)]
    exact State.is_raise_fits _ _ (by decide)

/-! ### The fallback to Keystone timestamps (R271) -/

theorem State.acceptSample_regsBut (s : State) (x : Nat) (ps : Int) : s.RegsBut (s.acceptSample x ps) tbRegs := by
  unfold State.acceptSample
  exact .ite _ (((State.RegsBut.refl s _).same (State.regs_modServo _ _ _)).trans (State.sampled_regsBut _ _)) (.refl s _)

theorem State.ksSample_regsBut (s : State) (n : Nat) : s.RegsBut (s.ksSample n) (aTIME_LANE_OFFSET n :: tbRegs) := by
  unfold State.ksSample State.lineSample
  split
  · have shown (x : Int) := (State.RegsBut.refl s (aTIME_LANE_OFFSET n :: tbRegs)).setInt (aTIME_LANE_OFFSET n) x List.mem_cons_self
    exact .ite _ ((shown _).trans ((State.acceptSample_regsBut _ _ _).mono fun _ => List.mem_cons_of_mem _)) (shown _)
  · exact .refl s _

theorem State.clk_modServo (s : State) (x : Nat) (f : Servo → Servo) : (s.modServo x f).clk = s.clk := rfl

theorem State.setTbState_clk (s : State) (x v : Nat) : (s.setTbState x v).clk = s.clk := by
  unfold State.setTbState
  rw [State.raiseIf_clk, State.raiseIf_clk, State.clk_modServo]
  rfl

theorem State.acceptSample_clk (s : State) (x : Nat) (ps : Int) : (s.acceptSample x ps).clk = s.clk := by
  unfold State.acceptSample State.sampled
  split
  · dsimp only
    split
    · rw [State.setTbState_clk, State.clk_modServo, State.clk_modServo]
    · rw [State.clk_modServo, State.clk_modServo]
  · rfl

theorem State.ksSample_clk (s : State) (n : Nat) : (s.ksSample n).clk = s.clk := by
  unfold State.ksSample State.lineSample
  split
  · dsimp only
    split
    · rw [State.acceptSample_clk]
      rfl
    · rfl
  · rfl

theorem State.ksSample_none (s : State) (n : Nat) (h : (s.lt n).ks = none) : s.ksSample n = s := by
  rw [State.ksSample, h]

/-- A lane waits for its line samples, and falls back. -/
def State.fallenBack (s : State) (n c : Nat) : State := (s.waitClk (cycles10ms + c)).setB (fTIME_LANE_STATUS_FALLBACK n) true

theorem timeFallbackStart_falls (s : State) (n : Lane) (up : s.up = true) (en : s.is (fTIME_LANE_CFG_FALLBACK_EN n) = true)
    (range : s.is (fTIME_LANE_CFG_KS_RANGE n) = true) (line : s.is (fTIME_LANE_STATUS_FALLBACK n) = false)
    (family : (s.rxFmt n).family = 0) : Completes (exec (.timeFallbackStart n) s) fun t =>
      t.is (fTIME_LANE_STATUS_FALLBACK n) = true ∧ cycles10ms ≤ t.clk ∧
      ((s.lt n).ks = none → s.RegsBut t [aTIME_LANE_STATUS n]) := by
  obtain ⟨c, held, answers⟩ : ∃ (c : Nat) (held : Bool), exec (.timeFallbackStart n) s =
      .next (if held then (s.fallenBack n c).ksSample n else s.fallenBack n c) :=
    ⟨_, _, if_neg (by simp [up, en, range, line, family])⟩
  have fell : (s.fallenBack n c).is (fTIME_LANE_STATUS_FALLBACK n) = true := State.is_setB_fits _ _ _ rfl
  have clk : cycles10ms ≤ (s.fallenBack n c).clk := by
    rw [State.fallenBack, State.setB_clk, waitClk_clk]
    omega
  have but : s.RegsBut (s.fallenBack n c) [aTIME_LANE_STATUS n] :=
    ((State.RegsBut.refl s _).same (s.regs_waitClk _)).setB _ _ List.mem_cons_self
  have time : (s.fallenBack n c).time = s.time := waitClk_same State.time (fun _ _ _ _ => rfl) s _
  generalize s.fallenBack n c = w at answers fell clk but time
  cases held with
  | false => exact .of_next answers ⟨fell, clk, fun _ => but⟩
  | true =>
    have apart : ∀ n < 8, aTIME_LANE_STATUS n ∉ aTIME_LANE_OFFSET n :: tbRegs := by decide
    refine .of_next answers ⟨((w.ksSample_regsBut n).is _ (apart n n.isLt)).trans fell, ?_, fun none_ => ?_⟩
    · rw [if_pos rfl, State.ksSample_clk]
      exact clk
    · rw [if_pos rfl, w.ksSample_none n (by rw [State.lt, time]; exact none_)]
      exact but

end Sys2Proof.Machine
end

section
/-!
SUPPORT. The PTP ports, of 10 (O34).
-/

-- one theorem after another: all at once would not fit the memory
set_option Elab.async false

namespace Sys2Proof.Machine

/-! ### Objects of the object dictionary -/

theorem bytesNat_natBytes (n v : Nat) : bytesNat (natBytes n v) = v % 256 ^ n := by
  have from_ (n : Nat) : ∀ acc, (natBytes n v).foldl (fun acc b => acc * 256 + b.toNat) acc = acc * 256 ^ n + v % 256 ^ n := by
    induction n with
    | zero => simp [natBytes, Nat.mod_one]
    | succ n ih =>
      intro acc
      have whole : v % 256 ^ (n + 1) = v % 256 ^ n + 256 ^ n * (v / 256 ^ n % 256) := Nat.mod_pow_succ
      have byte : (BitVec.ofNat 8 (v / 256 ^ n)).toNat = v / 256 ^ n % 256 := BitVec.toNat_ofNat _ _
      rw [natBytes, List.foldl_cons, ih, whole, byte]
      ring
  exact (from_ n 0).trans (by rw [Nat.zero_mul, Nat.zero_add])

theorem bytesNat_byte (v : Nat) : bytesNat [BitVec.ofNat 8 v] = v % 256 := by
  simp [bytesNat]

theorem State.obj_setObj_same (s : State) (i k d : Nat) (bs : List Byte) : (s.setObj i k bs).obj i k d = bytesNat bs := by
  rw [State.obj, State.setObj_objs, assocGet_put_same]

theorem State.obj_setObj_other (s : State) (i k j m d : Nat) (bs : List Byte) (h : i * 256 + k ≠ j * 256 + m) :
    (s.setObj i k bs).obj j m d = s.obj j m d := by
  rw [State.obj, State.obj, State.setObj_objs, assocGet_put_other _ _ _ _ h]

theorem State.obj_congr {s t : State} (h : t.objs = s.objs) (i k d : Nat) : t.obj i k d = s.obj i k d := by
  rw [State.obj, State.obj, h]

/-! ### The states of the ports (R274) -/

/-- The state of one port follows the enables. -/
def State.ptpPort (s : State) (p : Nat) : State :=
  if s.ptpOn p then (if s.obj (0x2210 + p) 6 3 = 3 then s.setObj (0x2210 + p) 6 [4] else s)
  else (if s.obj (0x2210 + p) 6 3 = 3 then s else s.setObj (0x2210 + p) 6 [3])

theorem State.ptpPorts_eq (s : State) : s.ptpPorts = (List.range 64).foldl (fun s p => s.ptpPort p) s := rfl

/-- What the ports keep while their states change: every object but a state, the registers, what was sent, and the change time. -/
structure PtpSame (s t : State) : Prop where
  obj : ∀ i k d, k < 256 → k ≠ 6 → t.obj i k d = s.obj i k d
  regs : t.regs = s.regs
  sent : t.sent = s.sent
  hi : t.time.utcHi = s.time.utcHi

theorem PtpSame.refl (s : State) : PtpSame s s := ⟨fun _ _ _ _ _ => rfl, rfl, rfl, rfl⟩

theorem PtpSame.trans {s t u : State} (h : PtpSame s t) (k : PtpSame t u) : PtpSame s u :=
  ⟨fun i j d f e => (k.obj i j d f e).trans (h.obj i j d f e), k.regs.trans h.regs, k.sent.trans h.sent, k.hi.trans h.hi⟩

/-- A port's state changes. -/
theorem State.setState_same (s : State) (p : Nat) (bs : List Byte) : PtpSame s (s.setObj (0x2210 + p) 6 bs) :=
  ⟨fun _ _ _ _ _ => s.obj_setObj_other _ _ _ _ _ _ (by omega), rfl, rfl, rfl⟩

theorem State.ptpPort_same (s : State) (p : Nat) : PtpSame s (s.ptpPort p) := by
  unfold State.ptpPort
  split <;> split
  · exact s.setState_same p _
  · exact .refl s
  · exact .refl s
  · exact s.setState_same p _

theorem State.ptpPorts_same (s : State) : PtpSame s s.ptpPorts := by
  have all (l : List Nat) (t : State) : PtpSame t (l.foldl (fun s p => s.ptpPort p) t) := by
    induction l generalizing t with
    | nil => exact .refl t
    | cons p l ih => exact (t.ptpPort_same p).trans (ih _)
  exact s.ptpPorts_eq ▸ all _ s

theorem State.time_ptpPorts (s : State) : s.ptpPorts.time = s.time :=
  (State.ptpPorts_fr (F := 67108864) s (.refl s)).time

theorem PtpSame.ptpInstance {s t : State} (h : PtpSame s t) (p : Nat) : t.ptpInstance p = s.ptpInstance p :=
  h.obj _ _ _ (by decide) (by decide)

theorem PtpSame.domain {s t : State} (h : PtpSame s t) (x : Nat) : t.ptpDomain x = s.ptpDomain x :=
  h.obj _ _ _ (by decide) (by decide)

theorem PtpSame.state {s t : State} (h : PtpSame s t) (p st : Nat) : t.ptpState p st = s.ptpState p st := by
  unfold State.ptpState State.ptpRole
  rw [h.ptpInstance, h.obj _ 2 _ (by decide) (by decide), h.obj _ 4 _ (by decide) (by decide)]

theorem PtpSame.announce {s t : State} (h : PtpSame s t) (x : Nat) : t.announce x = s.announce x := by
  unfold State.announce State.utcAt
  rw [h.obj _ 5 _ (by decide) (by decide), h.obj _ 3 _ (by decide) (by decide), h.obj _ 7 _ (by decide) (by decide),
    State.get_congr h.regs, State.get_congr h.regs, State.nat_congr h.regs, h.hi]

/-- A port that takes no part is DISABLED. -/
theorem State.ptpPorts_off (s : State) (off : s.is fTIME_CTRL_PTP_EN = false) {p : Nat} (hp : p < 64) :
    s.ptpPorts.obj (0x2210 + p) 6 3 = 3 := by
  have disabled (t : State) (y : Nat) (h : t.is fTIME_CTRL_PTP_EN = false) : t.ptpPort y =
      if t.obj (0x2210 + y) 6 3 = 3 then t else t.setObj (0x2210 + y) 6 [3] := if_neg (by simp [State.ptpOn, h])
  rw [State.ptpPorts_eq]
  refine foldl_reaches (P := fun t => t.obj (0x2210 + p) 6 3 = 3) (U := fun t => t.is fTIME_CTRL_PTP_EN = false) _ p
    (fun t h => ?_) (fun t y h was => ?_) (fun t y h => (State.is_congr (t.ptpPort_same y).regs _).trans h) _ _ off
    (.inr (List.mem_range.mpr hp))
  · rw [disabled t p h]
    split
    next was => exact was
    next => exact t.obj_setObj_same _ _ _ _
  · rw [disabled t y h]
    split
    · exact was
    · by_cases own : y = p
      · subst own
        exact t.obj_setObj_same _ _ _ _
      · exact (t.obj_setObj_other _ _ _ _ _ _ (by omega)).trans was

/-! ### Messages received (R273) -/

theorem ptpMessageRx_other (s : State) (p : Fin 64) (m : PtpRx) (other : m.domain ≠ s.ptpDomain (s.ptpInstance p)) :
    Completes (exec (.ptpMessageRx p m) s) fun t => t = s :=
  .of_next (if_pos (by simp [other])) rfl

theorem ptpMessageRx_delayResp (s : State) (p : Fin 64) (up : s.up = true) (on : s.ptpOn p = true) (path : Int)
    (slave : s.ptpPorts.obj (0x2210 + p.val) 6 3 = 9) :
    Completes (exec (.ptpMessageRx p ⟨s.ptpDomain (s.ptpInstance p), .delayResp path⟩) s) fun t =>
      t.obj (0x2210 + p.val) 7 0 = ofSigned 64 path ∧ t.regs = s.regs := by
  have answers : exec (.ptpMessageRx p ⟨s.ptpDomain (s.ptpInstance p), .delayResp path⟩) s =
      .next (s.ptpPorts.setObj (0x2210 + p) 7 (natBytes 8 (ofSigned 64 path))) :=
    (if_neg (by simp [up, on])).trans (if_pos slave)
  refine .of_next answers ⟨?_, s.ptpPorts_same.regs⟩
  rw [State.obj_setObj_same, bytesNat_natBytes]
  exact Nat.mod_eq_of_lt (ofSigned_lt_width 64 path)

theorem ptpMessageRx_announce (s : State) (p : Fin 64) (up : s.up = true) (on : s.ptpOn p = true) (st cls : Nat) (parent : List Byte)
    (steps : Nat) (inst : s.ptpInstance p ≤ 2) :
    Completes (exec (.ptpMessageRx p ⟨s.ptpDomain (s.ptpInstance p), .announce st cls parent steps none⟩) s) fun t =>
      t.obj (0x2210 + p.val) 6 3 = s.ptpState p st % 256 ∧ t.obj (0x2200 + s.ptpInstance p) 7 0 = steps % 65536 ∧
      t.regs = s.regs := by
  have answers : exec (.ptpMessageRx p ⟨s.ptpDomain (s.ptpInstance p), .announce st cls parent steps none⟩) s =
      .next ((((s.ptpPorts.setObj (0x2210 + p) 6 [BitVec.ofNat 8 (s.ptpPorts.ptpState p st)]).setObj (0x2200 + s.ptpInstance p) 5
        [BitVec.ofNat 8 cls]).setObj (0x2200 + s.ptpInstance p) 6 (sliceBytes parent 0 10)).setObj (0x2200 + s.ptpInstance p) 7
        (natBytes 2 steps)) := by
    show execPtpMessageRx p _ s = _
    unfold execPtpMessageRx
    dsimp only
    rw [if_neg (by simp [up, on])]
    rfl
  refine .of_next answers ⟨?_, ?_, ?_⟩
  · rw [State.obj_setObj_other _ _ _ _ _ _ _ (by omega), State.obj_setObj_other _ _ _ _ _ _ _ (by omega),
      State.obj_setObj_other _ _ _ _ _ _ _ (by omega), State.obj_setObj_same, s.ptpPorts_same.state]
    exact bytesNat_byte _
  · exact (State.obj_setObj_same _ _ _ _ _).trans (bytesNat_natBytes 2 steps)
  · rw [State.setObj_regs, State.setObj_regs, State.setObj_regs, State.setObj_regs, s.ptpPorts_same.regs]

/-! ### Messages sent (R273) -/

theorem State.ptpDue_same (s : State) (p kind : Nat) : PtpSame s (s.ptpDue p kind) := by
  unfold State.ptpDue
  split
  next c _ =>
    exact ⟨fun _ _ _ _ _ => State.obj_congr (waitClk_same State.objs (fun _ _ _ _ => rfl) s _) _ _ _, s.regs_waitClk _,
      waitClk_same State.sent (fun _ _ _ _ => rfl) s _, waitClk_same (fun t => t.time.utcHi) (fun _ _ _ _ => rfl) s _⟩
  next => exact ⟨fun _ _ _ _ _ => rfl, rfl, rfl, rfl⟩

theorem State.ptpDue_clk (s : State) (p kind c : Nat) (last : assocGet s.time.ptpSent (4 * p + kind) = some c) :
    c + cyclesSec / (if kind = 2 then 8 else 16) ≤ (s.ptpDue p kind).clk := by
  have waited : (s.ptpDue p kind).clk = (s.waitClk (c + cyclesSec / (if kind = 2 then 8 else 16))).clk := by
    rw [State.ptpDue, last]
    rfl
  rw [waited, waitClk_clk]
  exact Nat.le_max_right _ _

/-- The address of a PTP message. -/
def ptpAddr (p : Nat) : Nat := if Config.ptpForwardable p then 0x011B19000000 else 0x0180C200000E

/-- What a port sends as a message of a kind falls due. -/
theorem State.sent_ptpEmit {s t : State} (h : PtpSame s t) (p kind : Nat) (content : List Byte) :
    (t.ptpEmit p kind content).sent = .ptp p kind (ptpAddr p) (s.ptpDomain (s.ptpInstance p)) content :: s.sent := by
  have out : (t.ptpEmit p kind content).sent = .ptp p kind (ptpAddr p) (t.ptpDomain (t.ptpInstance p)) content :: t.sent := rfl
  rw [out, h.ptpInstance, h.domain, h.sent]

theorem State.stamp_ptpEmit (s : State) (p kind : Nat) (content : List Byte) (x ps : Nat) :
    (s.ptpEmit p kind content).stamp x ps = s.stamp x ps := rfl

theorem ptpMessageTx_announce (s : State) (p : Fin 64) (up : s.up = true) (on : s.ptpOn p = true)
    (master : s.ptpPorts.obj (0x2210 + p.val) 6 3 = 6) : Completes (exec (.ptpMessageTx p .announce) s) fun t =>
      t.sent = .ptp p 2 (ptpAddr p) (s.ptpDomain (s.ptpInstance p)) (s.announce (s.ptpInstance p)) :: s.sent := by
  have answers : exec (.ptpMessageTx p .announce) s = .next ((s.ptpPorts.ptpDue p 2).ptpEmit p 2
      ((s.ptpPorts.ptpDue p 2).announce (s.ptpPorts.ptpInstance p))) := (if_neg (by simp [up, on])).trans (if_pos master)
  have due := s.ptpPorts_same.trans (s.ptpPorts.ptpDue_same p 2)
  refine .of_next answers ?_
  rw [State.sent_ptpEmit due, due.announce, s.ptpPorts_same.ptpInstance]

theorem ptpMessageTx_sync (s : State) (p : Fin 64) (up : s.up = true) (on : s.ptpOn p = true)
    (master : s.ptpPorts.obj (0x2210 + p.val) 6 3 = 6) : Completes (exec (.ptpMessageTx p .sync) s) fun t =>
      t.sent = (if s.obj (0x2210 + p.val) 5 0 = 0 then
        [.ptp p 3 (ptpAddr p) (s.ptpDomain (s.ptpInstance p)) (stampBytes (t.stamp (s.ptpInstance p) 0)),
          .ptp p 0 (ptpAddr p) (s.ptpDomain (s.ptpInstance p)) (List.replicate 12 0)]
        else [.ptp p 0 (ptpAddr p) (s.ptpDomain (s.ptpInstance p)) (stampBytes (t.stamp (s.ptpInstance p) 0))]) ++ s.sent := by
  have answers : exec (.ptpMessageTx p .sync) s = .next (if (s.ptpPorts.ptpDue p 0).obj (0x2210 + p) 5 0 = 0 then
      ((s.ptpPorts.ptpDue p 0).ptpEmit p 0 (List.replicate 12 0)).ptpEmit p 3
        (stampBytes ((s.ptpPorts.ptpDue p 0).stamp (s.ptpPorts.ptpInstance p) 0))
      else (s.ptpPorts.ptpDue p 0).ptpEmit p 0 (stampBytes ((s.ptpPorts.ptpDue p 0).stamp (s.ptpPorts.ptpInstance p) 0))) :=
    (if_neg (by simp [up, on])).trans (if_pos master)
  have due := s.ptpPorts_same.trans (s.ptpPorts.ptpDue_same p 0)
  rw [s.ptpPorts_same.ptpInstance, due.obj _ 5 _ (by decide) (by decide)] at answers
  generalize s.ptpPorts.ptpDue p 0 = w at answers due
  by_cases two : s.obj (0x2210 + p.val) 5 0 = 0
  · rw [if_pos two] at answers
    have first := State.sent_ptpEmit due p 0 (List.replicate 12 0)
    have domain : (w.ptpEmit p 0 (List.replicate 12 0)).ptpDomain ((w.ptpEmit p 0 (List.replicate 12 0)).ptpInstance p) =
        s.ptpDomain (s.ptpInstance p) :=
      (due.domain _).trans (congrArg _ (due.ptpInstance p))
    refine .of_next answers ?_
    rw [if_pos two, State.sent_ptpEmit (.refl _), domain, first, State.stamp_ptpEmit, State.stamp_ptpEmit]
    rfl
  · rw [if_neg two] at answers
    refine .of_next answers ?_
    rw [if_neg two, State.sent_ptpEmit due, State.stamp_ptpEmit]
    rfl

theorem ptpMessageTx_delayReq (s : State) (p : Fin 64) (up : s.up = true) (on : s.ptpOn p = true)
    (slave : s.ptpPorts.obj (0x2210 + p.val) 6 3 = 9) : Completes (exec (.ptpMessageTx p .delayReq) s) fun t =>
      t.sent = .ptp p 1 (ptpAddr p) (s.ptpDomain (s.ptpInstance p)) (List.replicate 12 0) :: s.sent ∧
      ∀ c, assocGet s.time.ptpSent (4 * p.val + 1) = some c → c + cyclesSec / 16 ≤ t.clk := by
  have answers : exec (.ptpMessageTx p .delayReq) s = .next ((s.ptpPorts.ptpDue p 1).ptpEmit p 1 (List.replicate 12 0)) :=
    (if_neg (by simp [up, on])).trans (if_pos (by simp [slave]))
  have due := s.ptpPorts_same.trans (s.ptpPorts.ptpDue_same p 1)
  exact .of_next answers ⟨State.sent_ptpEmit due p 1 _, fun c last => s.ptpPorts.ptpDue_clk p 1 c (s.time_ptpPorts ▸ last)⟩

end Sys2Proof.Machine
end

section
/-!
SUPPORT. TIME_CTRL, the launches and the 1PPS output, of 10 (O34).
-/

-- one theorem after another: all at once would not fit the memory
set_option Elab.async false

namespace Sys2Proof.Machine

/-! ### Writes of TIME_CTRL (R250, R274) -/

theorem ptpEnWrite_shows (s : State) (takes : s.takes .pcie aTIME_CTRL = true) (v : Bool) :
    Completes (exec (.ptpEnWrite v) s) fun t => t.is fTIME_CTRL_PTP_EN = v ∧
      (v = false → ∀ p : Fin 64, t.obj (0x2210 + p.val) 6 3 = 3) := by
  have answers : exec (.ptpEnWrite v) s = .next (s.setB fTIME_CTRL_PTP_EN v).ptpPorts := congrArg _ (hostWrite_taken s _ _ takes)
  have en : (s.setB fTIME_CTRL_PTP_EN v).is fTIME_CTRL_PTP_EN = v := State.is_setB_fits _ _ _ (by decide)
  exact .of_next answers ⟨(State.is_congr (State.regs_ptpPorts _) _).trans en, fun off p =>
    State.ptpPorts_off _ (en.trans off) p.isLt⟩

/-- TIME takes CLKOUT3 for the 1PPS output, or releases it. -/
def State.ppsOwned (s : State) (b : Bool) : State :=
  ((s.setB fTIME_CTRL_PPS_EN b).setB fTIME_STATUS_PPS_OWNED b).setB (fPLU_CLKOUT_TIME_OWNED 3) b

theorem State.ppsOwned_shows (s : State) (b : Bool) : (s.ppsOwned b).is fTIME_CTRL_PPS_EN = b ∧
    (s.ppsOwned b).is fTIME_STATUS_PPS_OWNED = b ∧ (s.ppsOwned b).is (fPLU_CLKOUT_TIME_OWNED 3) = b := by
  refine ⟨?_, ?_, State.is_setB_fits _ _ _ (by decide)⟩
  · rw [State.ppsOwned, State.is_setB_elsewhere _ _ _ _ (by decide), State.is_setB_elsewhere _ _ _ _ (by decide)]
    exact State.is_setB_fits _ _ _ (by decide)
  · rw [State.ppsOwned, State.is_setB_elsewhere _ _ _ _ (by decide)]
    exact State.is_setB_fits _ _ _ (by decide)

/-- A write of PPS_EN as it is taken, or refused and logged. -/
theorem ppsEnWrite_next (s : State) (takes : s.takes .pcie aTIME_CTRL = true) (v : Bool) : exec (.ppsEnWrite v) s =
    .next (if (s.writePpsEn v).2 = .resBusy then (s.writePpsEn v).1.logAcc .resBusy aTIME_CTRL true else (s.writePpsEn v).1) :=
  congrArg _ (hostWrite_taken s _ _ takes)

theorem ppsEnWrite_owns (s : State) (takes : s.takes .pcie aTIME_CTRL = true) (v : Bool)
    (taken : s.writePpsEn v = (s.ppsOwned v, .ok)) : Completes (exec (.ppsEnWrite v) s) fun t => t.is fTIME_CTRL_PPS_EN = v ∧
      t.is fTIME_STATUS_PPS_OWNED = v ∧ t.is (fPLU_CLKOUT_TIME_OWNED 3) = v := by
  have answers := ppsEnWrite_next s takes v
  rw [taken, if_neg (by simp)] at answers
  exact .of_next answers (s.ppsOwned_shows v)

theorem State.writePpsEn_free (s : State) (off : s.is fTIME_CTRL_PPS_EN = false)
    (free : s.get (fPLU_CLKOUT_FREQ 3) = 0 ∨ s.get (fPLU_CLKOUT_FREQ 3) = 7) : s.writePpsEn true = (s.ppsOwned true, .ok) := by
  have idle : ¬((s.get (fPLU_CLKOUT_FREQ 3) ≠ 0 && s.get (fPLU_CLKOUT_FREQ 3) ≠ 7) = true) := by
    simp only [Bool.and_eq_true, decide_eq_true_eq]
    omega
  unfold State.writePpsEn
  dsimp only
  rw [if_pos rfl, if_neg (by simp [off]), if_neg idle]
  rfl

theorem ppsEnWrite_refuses (s : State) (takes : s.takes .pcie aTIME_CTRL = true) (off : s.is fTIME_CTRL_PPS_EN = false)
    (on : s.get (fPLU_CLKOUT_FREQ 3) ≠ 0) (on' : s.get (fPLU_CLKOUT_FREQ 3) ≠ 7) :
    Completes (exec (.ppsEnWrite true) s) fun t => t.is fTIME_CTRL_PPS_EN = false ∧ t.is fTIME_ALARM_RES_BUSY = true := by
  have refused : s.writePpsEn true = (s.raise fTIME_ALARM_RES_BUSY, .resBusy) := by
    unfold State.writePpsEn
    dsimp only
    rw [if_pos rfl, if_neg (by simp [off]), if_pos (by simp [on, on'])]
  have answers := ppsEnWrite_next s takes true
  rw [refused, if_pos rfl] at answers
  have logged := (s.raise fTIME_ALARM_RES_BUSY).logAcc_regsBut .resBusy aTIME_CTRL true
  refine .of_next answers ⟨?_, (logged.is _ (by decide)).trans (State.is_raise_fits _ _ (by decide))⟩
  exact (logged.is _ (by decide)).trans ((State.is_raise_elsewhere _ _ _ (by decide)).trans off)

/-! ### A launch armed (R278) -/

theorem fld_and_ones (x m : Word) (lo len : Nat) (h : fld m lo len = 2 ^ len - 1) : fld (x &&& m) lo len = fld x lo len := by
  unfold fld bitsOf at *
  rw [BitVec.toNat_and, Nat.and_div_two_pow, Nat.and_mod_two_pow, h, Nat.and_two_pow_sub_one_eq_mod, Nat.mod_mod]

/-- What TIME_LAUNCHd_CTRL keeps of a written word. -/
def launchWord (v : Word) : Word := setFld (setFld v 8 2 (min 2 (fld v 8 2))) 13 1 0 &&& 0xFFFF133F#32

theorem launchWord_port (v : Word) : fld (launchWord v) 0 6 = fld v 0 6 := by
  rw [launchWord, fld_and_ones _ _ _ _ (by decide), fld_setFld_other _ _ _ _ _ _ (by decide) (.inl (by decide)),
    fld_setFld_other _ _ _ _ _ _ (by decide) (.inl (by decide))]

theorem launchWord_tb (v : Word) : fld (launchWord v) 8 2 = min 2 (fld v 8 2) := by
  rw [launchWord, fld_and_ones _ _ _ _ (by decide), fld_setFld_other _ _ _ _ _ _ (by decide) (.inl (by decide)),
    fld_setFld_same _ _ _ _ (by decide)]
  exact Nat.mod_eq_of_lt (by omega)

/-- A descriptor's control taken. -/
def State.launchTaken (s : State) (d : Nat) (v : Word) : State := s.setReg (aTIME_LAUNCH_CTRL d) (launchWord v)

theorem State.launchTaken_shows (s : State) (d : Nat) (v : Word) :
    (s.launchTaken d v).get (fTIME_LAUNCH_CTRL_PORT d) = fld v 0 6 ∧
    (s.launchTaken d v).get (fTIME_LAUNCH_CTRL_TB d) = min 2 (fld v 8 2) ∧ s.RegsBut (s.launchTaken d v) [aTIME_LAUNCH_CTRL d] := by
  have word : (s.launchTaken d v).reg (aTIME_LAUNCH_CTRL d) = launchWord v := State.reg_setReg_same ..
  refine ⟨?_, ?_, (State.RegsBut.refl s _).setReg _ _ List.mem_cons_self⟩
  · exact (congrArg (fld · 0 6) word).trans (launchWord_port v)
  · exact (congrArg (fld · 8 2) word).trans (launchWord_tb v)

theorem launchArm_next (s : State) (d : Fin 32) (v : Word) (takes : s.takes .pcie (aTIME_LAUNCH_CTRL d) = true) :
    exec (.launchArm d v) s = .next (if fld v 13 1 = 1 then (s.launchTaken d v).launchArm d else (s.launchTaken d v, .ok)).1 :=
  congrArg _ (hostWrite_taken s _ _ takes)

/-- A descriptor's status: a phase with its code. -/
def State.launchShown (s : State) (d phase code : Nat) : State :=
  ((s.setNat (aTIME_LAUNCH_STATUS d) 0).set (fTIME_LAUNCH_STATUS_PHASE d) phase).set (fTIME_LAUNCH_STATUS_CODE d) code

/-- A descriptor armed. -/
def State.launchArmed (s : State) (d : Nat) : State :=
  (s.setNat (aTIME_LAUNCH_STATUS d) 0).set (fTIME_LAUNCH_STATUS_PHASE d) 1

theorem State.launchShown_shows (s : State) (d : Nat) {code : Nat} (fits : code < 16) :
    (s.launchShown d 3 code).get (fTIME_LAUNCH_STATUS_PHASE d) = 3 ∧ (s.launchShown d 3 code).get (fTIME_LAUNCH_STATUS_CODE d) = code ∧
    s.RegsBut (s.launchShown d 3 code) [aTIME_LAUNCH_STATUS d] := by
  have cleared := (State.RegsBut.refl s [aTIME_LAUNCH_STATUS d]).setNat (aTIME_LAUNCH_STATUS d) 0 List.mem_cons_self
  unfold State.launchShown
  refine ⟨?_, ?_, (cleared.set _ _ List.mem_cons_self).set _ _ List.mem_cons_self⟩
  · rw [State.get_set_beside _ _ _ _ rfl, State.get_set_fits _ _ _ rfl]
    rfl
  · rw [State.get_set_fits _ _ _ rfl]
    exact Nat.mod_eq_of_lt fits

theorem State.get_of_nat_zero {s : State} {f : Fld} (h : s.nat f.addr = 0) : s.get f = 0 := by
  have bits : s.get f = bitsOf (s.nat f.addr) f.lo f.len := rfl
  rw [bits, h, bitsOf, Nat.zero_div, Nat.zero_mod]

theorem State.launchArmed_shows (s : State) (d : Nat) : (s.launchArmed d).get (fTIME_LAUNCH_STATUS_PHASE d) = 1 ∧
    (s.launchArmed d).get (fTIME_LAUNCH_STATUS_CODE d) = 0 ∧ s.RegsBut (s.launchArmed d) [aTIME_LAUNCH_STATUS d] := by
  have empty : (s.setNat (aTIME_LAUNCH_STATUS d) 0).nat (aTIME_LAUNCH_STATUS d) = 0 := State.nat_setNat_fits _ _ 0 (by decide)
  have code : (s.setNat (aTIME_LAUNCH_STATUS d) 0).get (fTIME_LAUNCH_STATUS_CODE d) = 0 := State.get_of_nat_zero empty
  exact ⟨State.get_set_fits _ _ _ rfl, (State.get_set_beside _ _ _ _ rfl).trans code,
    ((State.RegsBut.refl s _).setNat _ _ List.mem_cons_self).set _ _ List.mem_cons_self⟩

/-- A launch refused or armed: its phase and code. -/
theorem State.launchArm_shows (s : State) (d p x : Nat) (port : s.get (fTIME_LAUNCH_CTRL_PORT d) = p)
    (tb : s.get (fTIME_LAUNCH_CTRL_TB d) = x) :
    ((s.launchArm d).1.get (fTIME_LAUNCH_STATUS_PHASE d), (s.launchArm d).1.get (fTIME_LAUNCH_STATUS_CODE d)) =
      (if s.get (fCLI_PORT_CFG_TYPE p) ≠ 0 ∨ s.is (fCLI_PORT_CFG_EN p) = false ∨ s.get (fCLI_PORT_STATUS_STATE p) ≠ 3 then (3, 3)
        else if s.time80 (aTIME_LAUNCH_T d) < 5000 + s.tbNs x then (3, 1)
        else if 1000000000000 + s.tbNs x < s.time80 (aTIME_LAUNCH_T d) then (3, 2)
        else (1, 0)) ∧
    s.RegsBut (s.launchArm d).1 [aTIME_LAUNCH_STATUS d] := by
  have regs : (s.launchKeep d).regs = s.regs := State.modTime_regs _ _
  have now : (s.launchKeep d).tbNs x = s.tbNs x := rfl
  have due : (s.launchKeep d).time80 (aTIME_LAUNCH_T d) = s.time80 (aTIME_LAUNCH_T d) := by
    simp only [State.time80, State.nat_congr regs]
  have kept : s.RegsBut (s.launchKeep d) [aTIME_LAUNCH_STATUS d] := (State.RegsBut.refl s _).same regs
  have refused {code : Nat} (fits : code < 16) := (s.launchKeep d).launchShown_shows d fits
  obtain ⟨armed, clear, changed⟩ := (s.launchKeep d).launchArmed_shows d
  unfold State.launchArm
  simp only [State.get_congr regs, State.is_congr regs, port, tb, now, due]
  by_cases down : s.get (fCLI_PORT_CFG_TYPE p) ≠ 0 ∨ s.is (fCLI_PORT_CFG_EN p) = false ∨ s.get (fCLI_PORT_STATUS_STATE p) ≠ 3
  · obtain ⟨phase, code, but⟩ := refused (code := 3) (by decide)
    rw [if_pos down, if_pos (by simpa [or_assoc] using down)]
    exact ⟨Prod.ext phase code, kept.trans but⟩
  rw [if_neg down, if_neg (by simpa [or_assoc] using down)]
  by_cases late : s.time80 (aTIME_LAUNCH_T d) < 5000 + s.tbNs x
  · obtain ⟨phase, code, but⟩ := refused (code := 1) (by decide)
    rw [if_pos late, if_pos late]
    exact ⟨Prod.ext phase code, kept.trans but⟩
  rw [if_neg late, if_neg late]
  by_cases far : 1000000000000 + s.tbNs x < s.time80 (aTIME_LAUNCH_T d)
  · obtain ⟨phase, code, but⟩ := refused (code := 2) (by decide)
    rw [if_pos far, if_pos far]
    exact ⟨Prod.ext phase code, kept.trans but⟩
  rw [if_neg far, if_neg far]
  exact ⟨Prod.ext armed clear, kept.trans changed⟩

/-- The client ports' registers lie above the launches'. -/
theorem launch_below_clients (d : Fin 32) : aTIME_LAUNCH_CTRL d < 0x801000 ∧ aTIME_LAUNCH_STATUS d < 0x801000 := by
  unfold aTIME_LAUNCH_CTRL aTIME_LAUNCH_STATUS
  omega

theorem launchArm_arms (s : State) (d : Fin 32) (v : Word) (takes : s.takes .pcie (aTIME_LAUNCH_CTRL d) = true) :
    Completes (exec (.launchArm d v) s) fun t =>
      t.get (fTIME_LAUNCH_CTRL_PORT d) = fld v 0 6 ∧ t.get (fTIME_LAUNCH_CTRL_TB d) = min 2 (fld v 8 2) ∧
      (fld v 13 1 = 1 → (t.get (fTIME_LAUNCH_STATUS_PHASE d), t.get (fTIME_LAUNCH_STATUS_CODE d)) =
        (if s.get (fCLI_PORT_CFG_TYPE (fld v 0 6)) ≠ 0 ∨ s.is (fCLI_PORT_CFG_EN (fld v 0 6)) = false
            ∨ s.get (fCLI_PORT_STATUS_STATE (fld v 0 6)) ≠ 3 then (3, 3)
          else if s.time80 (aTIME_LAUNCH_T d) < 5000 + s.tbNs (min 2 (fld v 8 2)) then (3, 1)
          else if 1000000000000 + s.tbNs (min 2 (fld v 8 2)) < s.time80 (aTIME_LAUNCH_T d) then (3, 2)
          else (1, 0))) ∧
      (fld v 13 1 = 0 → s.RegsBut t [aTIME_LAUNCH_CTRL d]) := by
  have answers := launchArm_next s d v takes
  obtain ⟨port, tb, taken⟩ := s.launchTaken_shows d v
  by_cases start : fld v 13 1 = 1
  · rw [if_pos start] at answers
    obtain ⟨shown, kept⟩ := (s.launchTaken d v).launchArm_shows d _ _ port tb
    have apart : aTIME_LAUNCH_CTRL d ∉ [aTIME_LAUNCH_STATUS d] := by
      simp [aTIME_LAUNCH_CTRL, aTIME_LAUNCH_STATUS]
    have clients (f : Fld) (above : 0x801000 ≤ f.addr) : f.addr ∉ [aTIME_LAUNCH_CTRL d] := by
      have := (launch_below_clients d).1
      simp only [List.mem_singleton]
      omega
    have now (x : Nat) : (s.launchTaken d v).tbNs x = s.tbNs x := rfl
    have due : (s.launchTaken d v).time80 (aTIME_LAUNCH_T d) = s.time80 (aTIME_LAUNCH_T d) := by
      have time (k : Nat) : aTIME_LAUNCH_T d + k ∉ [aTIME_LAUNCH_CTRL d] := by
        simp only [List.mem_singleton, aTIME_LAUNCH_CTRL, aTIME_LAUNCH_T]
        omega
      rw [State.time80, State.time80, taken.nat (aTIME_LAUNCH_T d) (time 0), taken.nat _ (time 4), taken.nat _ (time 8)]
    rw [taken.get (fCLI_PORT_CFG_TYPE _) (clients _ (Nat.le_add_right_of_le (by decide))),
      taken.is (fCLI_PORT_CFG_EN _) (clients _ (Nat.le_add_right_of_le (by decide))),
      taken.get (fCLI_PORT_STATUS_STATE _) (clients _ (Nat.le_add_right_of_le (by decide))), now, due] at shown
    exact .of_next answers ⟨(kept.get _ apart).trans port, (kept.get _ apart).trans tb, fun _ => shown,
      fun idle => absurd (start.symm.trans idle) (by decide)⟩
  · rw [if_neg start] at answers
    exact .of_next answers ⟨port, tb, fun starts => absurd starts start, fun _ => taken⟩

/-! ### A launch sent (R279) -/

/-- A launched frame leaves its port: shown, traced and counted. -/
def State.launchLeaves (s : State) (p d len : Nat) (late good : Bool) : State :=
  let s := ((s.set (fTIME_LAUNCH_STATUS_PHASE d) 2).set (fTIME_LAUNCH_STATUS_CODE d) 0).setB (fTIME_LAUNCH_STATUS_LATE d) late
  let s := s.raiseIf late fTIME_ALARM_LAUNCH_LATE
  let s := s.modTime fun x => { x with portEnd := assocPut x.portEnd p (s.fsNow + s.bytesFs p (launchSpan len)) }
  let s := if good then s.tapPort p (len + 4) 1 0 else (s.tapPort p 0 1 1).addCnt (aCLI_PORT_CNT p 8) 1
  s.addCnt (aCLI_PORT_CNT p 6) 1

theorem State.launchNow_eq (s : State) (d t : Nat) (err : Int) (late : Bool) :
    ∃ (u : State) (len : Nat) (good : Bool) (bytes : List Byte), s.launchNow d t err late =
      (u.launchLeaves (s.get (fTIME_LAUNCH_CTRL_PORT d)) d len late good).emit
        (.frame (s.get (fTIME_LAUNCH_CTRL_PORT d)) bytes) := ⟨_, _, _, _, rfl⟩

/-- What is written after a launch's status has been shown. -/
theorem State.launchLeaves_shows (s : State) (p : Nat) (d : Fin 32) (len : Nat) (late good : Bool) :
    (s.launchLeaves p d len late good).get (fTIME_LAUNCH_STATUS_PHASE d) = 2 ∧
    (s.launchLeaves p d len late good).get (fTIME_LAUNCH_STATUS_CODE d) = 0 := by
  have tapped (t : State) (octets frames bad : Nat) : (t.tapPort p octets frames bad).regs = t.regs :=
    (State.tapPort_fr (F := 12582912) t p octets frames bad (.refl t)).regs
  obtain ⟨shown, same⟩ : ∃ shown : State, shown =
    ((s.set (fTIME_LAUNCH_STATUS_PHASE d) 2).set (fTIME_LAUNCH_STATUS_CODE d) 0).setB (fTIME_LAUNCH_STATUS_LATE d) late := ⟨_, rfl⟩
  have phase : shown.get (fTIME_LAUNCH_STATUS_PHASE d) = 2 := by
    rw [same, State.get_setB_beside _ _ _ _ rfl, State.get_set_beside _ _ _ _ rfl, State.get_set_fits _ _ _ rfl]
    rfl
  have code : shown.get (fTIME_LAUNCH_STATUS_CODE d) = 0 := by
    rw [same, State.get_setB_beside _ _ _ _ rfl, State.get_set_fits _ _ _ rfl]
    rfl
  have counted : shown.RegsBut (s.launchLeaves p d len late good)
      [aTIME_ALARM, aCLI_PORT_CNT p 8, aCLI_PORT_CNT p 8 + 4, aCLI_PORT_CNT p 6, aCLI_PORT_CNT p 6 + 4] := by
    unfold State.launchLeaves
    rw [← same]
    have timed (f : TimeState → TimeState) := ((State.RegsBut.refl shown
      [aTIME_ALARM, aCLI_PORT_CNT p 8, aCLI_PORT_CNT p 8 + 4, aCLI_PORT_CNT p 6, aCLI_PORT_CNT p 6 + 4]).raiseIf late
      fTIME_ALARM_LAUNCH_LATE (by simp [fTIME_ALARM_LAUNCH_LATE])).same (State.modTime_regs _ f)
    exact (State.RegsBut.ite _ ((timed _).same (tapped _ _ _ _))
      (((timed _).same (tapped _ _ _ _)).addCnt _ _ (by simp) (by simp))).addCnt _ _ (by simp) (by simp)
  have apart : aTIME_LAUNCH_STATUS d ∉
      [aTIME_ALARM, aCLI_PORT_CNT p 8, aCLI_PORT_CNT p 8 + 4, aCLI_PORT_CNT p 6, aCLI_PORT_CNT p 6 + 4] := by
    simp only [List.mem_cons, List.not_mem_nil, or_false, aTIME_LAUNCH_STATUS, aTIME_ALARM, aCLI_PORT_CNT]
    omega
  exact ⟨(counted.get _ apart).trans phase, (counted.get _ apart).trans code⟩

theorem State.launchNow_shows (s : State) (d : Fin 32) (t : Nat) (err : Int) (late : Bool) :
    (s.launchNow d t err late).get (fTIME_LAUNCH_STATUS_PHASE d) = 2 ∧
    (s.launchNow d t err late).get (fTIME_LAUNCH_STATUS_CODE d) = 0 ∧
    ∃ bytes, (s.launchNow d t err late).sent.head? = some (.frame (s.get (fTIME_LAUNCH_CTRL_PORT d)) bytes) := by
  obtain ⟨u, len, good, bytes, leaves⟩ := s.launchNow_eq d t err late
  obtain ⟨phase, code⟩ := u.launchLeaves_shows (s.get (fTIME_LAUNCH_CTRL_PORT d)) d len late good
  rw [leaves]
  exact ⟨phase, code, bytes, rfl⟩

theorem launchSend_leaves (s : State) (d : Fin 32) (err : Int) (up : s.up = true) (armed : s.get (fTIME_LAUNCH_STATUS_PHASE d) = 1) :
    Completes (exec (.launchSend d err) s) fun t =>
      t.get (fTIME_LAUNCH_STATUS_PHASE d) = 2 ∧ t.get (fTIME_LAUNCH_STATUS_CODE d) = 0 ∧
      ∃ bytes, t.sent.head? = some (.frame (s.get (fTIME_LAUNCH_CTRL_PORT d)) bytes) := by
  obtain ⟨w, t, late, regs, answers⟩ : ∃ (w : State) (t : Nat) (late : Bool), w.regs = s.regs ∧
      exec (.launchSend d err) s = .next (w.launchNow d t err late) := by
    have due := s.regs_waitTb (s.get (fTIME_LAUNCH_CTRL_TB d)) (s.time80 (aTIME_LAUNCH_T d))
    have sends := (if_neg (by simp [up, armed]) : execLaunchSend d err s = _)
    by_cases free : (s.waitTb (s.get (fTIME_LAUNCH_CTRL_TB d)) (s.time80 (aTIME_LAUNCH_T d))).fsNow <
        (assocGet (s.waitTb (s.get (fTIME_LAUNCH_CTRL_TB d)) (s.time80 (aTIME_LAUNCH_T d))).time.portEnd
          ((s.waitTb (s.get (fTIME_LAUNCH_CTRL_TB d)) (s.time80 (aTIME_LAUNCH_T d))).get (fTIME_LAUNCH_CTRL_PORT d))).getD 0
    · exact ⟨_, _, _, (State.regs_waitClk _ _).trans due, sends.trans (if_pos free)⟩
    · exact ⟨_, _, _, due, sends.trans (if_neg free)⟩
  obtain ⟨phase, code, bytes, sent⟩ := w.launchNow_shows d t err late
  rw [State.get_congr regs] at sent
  exact .of_next answers ⟨phase, code, bytes, sent⟩

/-! ### The 1PPS output (R281) -/

/-- The time base of the 1PPS output. -/
def State.ppsBase (s : State) : Nat := if s.get fTIME_PPS_CFG_TB = 3 then 0 else s.get fTIME_PPS_CFG_TB

/-- R281: the next edge is waited for, and given where SQ does not hold the output. -/
theorem ppsPulse_next (s : State) (warm : s.cold = false) (en : s.is fTIME_CTRL_PPS_EN = true) :
    ∃ (w : State) (k : Nat), w.regs = s.regs ∧ w.time = s.time ∧ w.sent = s.sent ∧ exec .ppsPulse s =
      if (w.is fTIME_PPS_CFG_SQ && w.get (fTbState s.ppsBase) ≠ 3) = true then .next w
      else .next ((w.modTime fun m => { m with lastPulse := some w.clk }).emit
        (.pps s.ppsBase k (10000 * w.get fTIME_PPS_CFG_WIDTH))) := by
  have waits (c : Prop) [Decidable c] (n : Nat) : (if c then s.elapse n else s).regs = s.regs ∧
      (if c then s.elapse n else s).time = s.time ∧ (if c then s.elapse n else s).sent = s.sent := by
    split
    · exact ⟨s.regs_elapse n, elapse_same State.time (fun _ _ _ _ => rfl) s n, elapse_same State.sent (fun _ _ _ _ => rfl) s n⟩
    · exact ⟨rfl, rfl, rfl⟩
  obtain ⟨w, k, answers, regs, time, sent⟩ : ∃ (w : State) (k : Nat), exec .ppsPulse s =
      (if (w.is fTIME_PPS_CFG_SQ && w.get (fTbState s.ppsBase) ≠ 3) = true then .next w
      else .next ((w.modTime fun m => { m with lastPulse := some w.clk }).emit
        (.pps s.ppsBase k (10000 * w.get fTIME_PPS_CFG_WIDTH)))) ∧ w.regs = s.regs ∧ w.time = s.time ∧ w.sent = s.sent :=
    ⟨_, _, if_neg (by simp [warm, en]), waits _ _⟩
  exact ⟨w, k, regs, time, sent, answers⟩

theorem ppsPulse_pulses (s : State) (warm : s.cold = false) (en : s.is fTIME_CTRL_PPS_EN = true)
    (open_ : s.is fTIME_PPS_CFG_SQ = false ∨ s.get (fTbState s.ppsBase) = 3) : Completes (exec .ppsPulse s) fun t =>
      t.time.lastPulse = some t.clk ∧ t.regs = s.regs ∧
      ∃ k, t.sent = .pps s.ppsBase k (10000 * s.get fTIME_PPS_CFG_WIDTH) :: s.sent := by
  obtain ⟨w, k, regs, -, sent, answers⟩ := ppsPulse_next s warm en
  rw [State.is_congr regs, State.get_congr regs, State.get_congr regs, if_neg (by rcases open_ with h | h <;> simp [h])] at answers
  refine .of_next answers ⟨rfl, (State.regs_emit _ _).trans ((State.modTime_regs _ _).trans regs), k, ?_⟩
  rw [State.emit_sent, State.modTime_sent, sent]

theorem ppsPulse_squelched (s : State) (warm : s.cold = false) (en : s.is fTIME_CTRL_PPS_EN = true)
    (sq : s.is fTIME_PPS_CFG_SQ = true) (unlocked : s.get (fTbState s.ppsBase) ≠ 3) : Completes (exec .ppsPulse s) fun t =>
      t.time = s.time ∧ t.regs = s.regs ∧ t.sent = s.sent := by
  obtain ⟨w, k, regs, time, sent, answers⟩ := ppsPulse_next s warm en
  rw [State.is_congr regs, State.get_congr regs, if_pos (by simp [sq, unlocked])] at answers
  exact .of_next answers ⟨time, regs, sent⟩

/-- Settles O34: each service of TIME, by its clause. -/
theorem timeServices : Obligations.TimeServices := by
  intro s
  refine ⟨fun warm due => ⟨utcChange_same s warm due, utcChange_shifts s warm due⟩, timeFallbackStart_falls s, ?_, ?_,
    launchArm_arms s, launchSend_leaves s, ?_⟩
  · intro p up on
    refine ⟨ptpMessageRx_delayResp s p up on, ptpMessageRx_announce s p up on, ptpMessageRx_other s p, ?_⟩
    rintro addr dom rfl rfl
    exact ⟨ptpMessageTx_announce s p up on, ptpMessageTx_sync s p up on, ptpMessageTx_delayReq s p up on⟩
  · intro takes
    exact ⟨ptpEnWrite_shows s takes, ppsEnWrite_owns s takes false rfl,
      fun off free => ppsEnWrite_owns s takes true (s.writePpsEn_free off free), ppsEnWrite_refuses s takes⟩
  · rintro x warm en rfl
    exact ⟨ppsPulse_pulses s warm en, ppsPulse_squelched s warm en⟩

end Sys2Proof.Machine
end
